-- ==== Sys2Proof/Word.lean ====
section
/-!
DEFINITION. The word types of the Milten Ralsol MLT-RS96 and the generic finite map of the model.

Registers are 64 bits wide (R7).  A unit of the module that exists many times (a block, a channel, a peg) is held in a
`Map`, an association list read through `get`: a key that is not listed reads as the default the reader names, so the
state right after reset is small plain data.
-/
namespace Sys2Proof

/-- A 64-bit register or memory word (R7). -/
abbrev W64 := BitVec 64

/-- One byte. -/
abbrev Byte := BitVec 8

/-- A finite map as plain data: at most one entry a key when it is only changed through `Map.set`. -/
abbrev Map (κ α : Type) := List (κ × α)

namespace Map

variable {κ α : Type} [DecidableEq κ]

/-- The entry of a key, if it is listed. -/
def find (m : Map κ α) (k : κ) : Option α :=
  match m with
  | [] => none
  | (k', v) :: rest => if k' = k then some v else find rest k

/-- The entry of a key, `d` where it is not listed. -/
def get (m : Map κ α) (d : α) (k : κ) : α := (m.find k).getD d

/-- The map without a key. -/
def erase (m : Map κ α) (k : κ) : Map κ α :=
  match m with
  | [] => []
  | (k', v) :: rest => if k' = k then erase rest k else (k', v) :: erase rest k

/-- The map with `v` at a key. -/
def set (m : Map κ α) (k : κ) (v : α) : Map κ α := (k, v) :: m.erase k

end Map

end Sys2Proof
end

