-- ==== Sys2Proof/Syntax.lean ====
section
/-!
DEFINITION. The commands of the block: one constructor of `Instr` for each row of spec/opcode_table.json, in the table's
order.  A row is a step of the module, "each whole and indivisible" (95_what_each_step_holds.md); its operands name the
unit it happens at, what software or another module sends with it, and what only the physical world decides (a bit that
flips, a margin that is measured, how far an engine got before the next event).
-/
namespace Sys2Proof

/-- Who an access comes from (Table 6.4 KIND). -/
inductive AgentKind where
  | core | block | engine | external
  deriving DecidableEq, Repr, Inhabited

/-- An agent location (Table 6.4). For a requester on another module only `module` is meaningful (R543). -/
structure Agent where
  kind : AgentKind := .core
  index : Nat := 0
  region : Nat := 0
  module : Nat := 0
  /-- The agent is on this module (its `module` field is then this module's own number). -/
  own : Bool := true
  deriving DecidableEq, Repr, Inhabited

/-- Scopes (R16). -/
inductive Scope where
  | block | region | package | fabric
  deriving DecidableEq, Repr, Inhabited

/-- Page-based memory types (R242). -/
inductive Pbmt where
  | pma | nc | io
  deriving DecidableEq, Repr, Inhabited

/-- One access of a hart: a 56-bit physical address for a core (R355), an address of Table 4.2 for a block sequencer. -/
structure Access where
  addr : Nat
  size : Nat := 8
  pbmt : Pbmt := .pma
  /-- The Zihintntl non-temporal hint. -/
  ntl : Bool := false
  /-- A load that sign-extends (LB, LH, LW). -/
  signed : Bool := false
  deriving DecidableEq, Repr, Inhabited

/-- The AMO operations of the A extension; `word` widths are given by `Access.size`. -/
inductive AmoOp where
  | swap | add | xor | and | or | min | max | minu | maxu
  deriving DecidableEq, Repr, Inhabited

/-- The inbound AtomicOps of PCIe and of the Chaind ATOMIC packet (R410). -/
inductive AtomOp where
  | fetchAdd | swap | cas (compare : W64)
  | amo (op : AmoOp)
  deriving DecidableEq, Repr, Inhabited

/-- Where an ECC error is found (R292): in memory or a block store, in the SLC, or in the cache of a hart. -/
inductive EccPlace where
  | memory | slc
  | cache (k : Nat)
  deriving DecidableEq, Repr, Inhabited

/-- An ECC error: its address, where it is found, and whether the code corrects it. -/
structure EccError where
  addr : Nat
  place : EccPlace := .memory
  corrected : Bool := false
  deriving DecidableEq, Repr, Inhabited

/-- What the header of an inbound memory write says of it: its data is poisoned (EP); it may pass earlier writes (RO, R263). -/
structure TlpAttr where
  poisoned : Bool := false
  relaxed : Bool := false
  deriving DecidableEq, Repr, Inhabited

/-- The write of a device below a root port: its bytes, and whether it may pass earlier writes (RO, R263). -/
structure DeviceWrite where
  data : List Byte
  relaxed : Bool := false
  deriving DecidableEq, Repr, Inhabited

/-- A FENCE's predecessor or successor set. -/
structure FenceSet where
  i : Bool := false
  o : Bool := false
  r : Bool := false
  w : Bool := false
  deriving DecidableEq, Repr, Inhabited

/-- A physical fault in the matrix array: the exact error `n * 2^e` it adds to the pass result of one column (R125). -/
structure ArrayError where
  col : Nat
  n : Int
  e : Int
  deriving DecidableEq, Repr, Inhabited

/-- A physical fault in the vector engine: the group of 64 elements it hits, its first failing element there and whether the repeat
fails too (R170). -/
structure ResidueError where
  group : Nat
  elem : Nat
  persists : Bool
  deriving DecidableEq, Repr, Inhabited

/-- The outcome of one training or margin measurement of a memory interface (Table 9.12). -/
structure Margins where
  rd : Nat
  wr : Nat
  temp : Nat := 0
  load : Nat := 0
  deriving DecidableEq, Repr, Inhabited

/-- One sensing unit of Table 13.1 in one fret: its class, its energy in units of 2^-16 microjoule (R429), whether its
sensor read outside its range (R430), its total weight and the weight of each tag. -/
structure SensorReading where
  region : Nat
  cls : Nat
  energy : Nat
  faulty : Bool := false
  total : Nat
  tags : List (Nat × Nat)
  deriving DecidableEq, Repr, Inhabited

/-- What the sensors and meters of the module hold at a fret mark. -/
structure MarkInput where
  /-- SKEW_NS of each region's mark in ns (Table 1.12). -/
  skew : List Int := []
  /-- M and the rail energies R of the fret that ended, in u (R427, R428). -/
  meter : Nat := 0
  rails : Nat := 0
  /-- METER_TOTAL at the mark, in whole microjoule. -/
  meterTotal : Nat := 0
  sensors : List SensorReading := []
  /-- The input's voltage in 0.1 V, current in mA and power in W (Table 14.11 PWR_INPUT). -/
  volts : Nat := 0
  milliamps : Nat := 0
  /-- Currents of the stepped domains: (region, d, A) (R464). -/
  amps : List (Nat × Nat × Nat) := []
  watts : Nat := 0
  deriving DecidableEq, Repr, Inhabited

/-- What the region managers predict in an exchange: the power in W of domain d of region r at step n as (r, d, n, W), each
region's measured memory power, and the power that it reserves for its Chaind ports and collective engine (R466, R467, Table
14.8 reason 5). -/
structure Predictions where
  domains : List (Nat × Nat × Nat × Nat) := []
  memory : List (Nat × Nat) := []
  reserve : List (Nat × Nat) := []
  deriving DecidableEq, Repr, Inhabited

/-- A best leader key (R349). -/
structure LeaderKey where
  cls : Nat
  serial : Nat
  deriving DecidableEq, Repr, Inhabited

/-- A port in a REPORT or a link in a MAP entry (Table 10.5). -/
structure LinkInfo where
  port : Nat
  up : Bool
  width : Nat
  peerSerial : Nat
  peerPort : Nat
  /-- STATE of the port (Table 10.12). -/
  state : Nat := 3
  deriving DecidableEq, Repr, Inhabited

/-- HELLO (Table 10.5). -/
structure Hello where
  serial : Nat
  port : Nat
  period : Nat
  planDigest : Nat
  coord : Option (List Nat)
  fabricId : W64
  settled : Bool
  lone : Bool
  module : Nat
  best : LeaderKey
  hops : Nat
  deriving DecidableEq, Repr, Inhabited

/-- REPORT and JOIN (Table 10.5). -/
structure Report where
  serial : Nat
  coord : Option (List Nat)
  links : List LinkInfo
  deriving DecidableEq, Repr, Inhabited

/-- One module's entry in a fabric map. -/
structure MapEntry where
  serial : Nat
  module : Nat
  coord : Option (List Nat)
  links : List LinkInfo
  deriving DecidableEq, Repr, Inhabited

/-- A MAP segment (Table 10.5); `index` of `count` segments of this version. -/
structure MapSegment where
  version : Nat
  fabricId : W64
  tableMode : Bool
  switchFret : Nat
  index : Nat
  count : Nat
  leader : Nat
  entries : List MapEntry
  deriving DecidableEq, Repr, Inhabited

/-- BEAT (Table 10.5). -/
structure Beat where
  fabricId : W64
  version : Nat
  fret : Nat
  deriving DecidableEq, Repr, Inhabited

/-- A TIME packet (Table 11.1). -/
structure TimePkt where
  seq : Nat
  lock : Nat := 0
  depth : Nat := 0
  t1 : Nat
  t2 : Nat := 0
  t3 : Nat := 0
  est : Int := 0
  deriving DecidableEq, Repr, Inhabited

/-- A Chaind packet header and data (Table 10.4). -/
structure Packet where
  dest : Nat
  src : Nat
  opcode : Nat
  ordered : Bool := false
  rgen : Bool := false
  hops : Nat := 0
  len : Nat := 0
  tag : Nat := 0
  meterTag : Nat := 0
  addr : Nat := 0
  aux : W64 := 0
  /-- Some reserved field of the header is not zero. -/
  rsvBad : Bool := false
  /-- The virtual channel it arrived on (Table 10.3). -/
  vc : Nat := 1
  data : List Byte := []
  /-- The byte mask of a MASKED_WRITE, bit i for byte i of the line. -/
  mask : Nat := 0
  deriving DecidableEq, Repr, Inhabited

/-- A flit (Table 10.2); the payload is kept whole. -/
structure Flit where
  type : Nat
  vc : Nat := 0
  sop : Bool := false
  seq : Nat := 0
  ack : Option Nat := none
  creditVc : Nat := 0
  credits : Nat := 0
  /-- Its last four bytes. -/
  crc : BitVec 32 := 0
  /-- FEC codewords corrected and uncorrectable in this flit. -/
  fecCorr : Nat := 0
  fecUncorr : Nat := 0
  payload : List Byte := []
  deriving DecidableEq, Repr, Inhabited

/-- A SCHED flit's payload (Table 11.4). -/
structure SchedFlit where
  src : Nat
  strumId : Nat
  fretLo : Nat
  slot : Nat
  index : Nat
  len : Nat
  data : List Byte
  deriving DecidableEq, Repr, Inhabited

/-- How a request of one agent may move between two regions when its path changes (R21). -/
structure LateralFlit where
  src : Nat
  dst : Nat
  /-- The lost intermediate region had accepted the request. -/
  accepted : Bool
  /-- A write carries no answer; a read or AMO does. -/
  write : Bool
  agent : Agent
  addr : Nat
  deriving DecidableEq, Repr, Inhabited

/-- A mailbox request or response (Table 16.9). -/
structure Msg where
  opcode : Nat
  tag : Nat := 0
  length : Nat := 0
  offset : Nat := 0
  /-- ECHO and MORE of a response. -/
  echo : Nat := 0
  more : Bool := false
  /-- Some reserved header field is not zero. -/
  rsvBad : Bool := false
  payload : List Byte := []
  deriving DecidableEq, Repr, Inhabited

/-- The mailbox slots (R519). -/
inductive Slot where
  | i3c | host | core
  deriving DecidableEq, Repr, Inhabited

/-- What an image's sections give (Table 16.5), once Uluell has read them. -/
structure Image where
  sequence : Nat := 0
  autoBoot : Bool := true
  holdConfigured : Bool := false
  attached : Bool := false
  /-- Ports that the image names as endpoint; none names port 0 in Attached mode (R402). -/
  endpoints : List Nat := []
  coreEntry : Nat := 0
  packInterval : Nat := 0
  bifurc : List Nat := []
  cxlT2 : Bool := false
  bar2Log2 : Nat := 30
  fretPeriod : Nat := 16
  torus : List Nat := []
  coord : Option (List Nat) := none
  isOrigin : Bool := false
  planDigest : Nat := 0
  portEnable : List Bool := []
  swRoutes : Bool := false
  partitions : Nat := 0
  /-- Memory ranges of the partitions: (partition, base, size). -/
  ranges : List (Nat × Nat × Nat) := []
  /-- Regulators named: (region, q, p, MGMT_REG_CFG). -/
  regulators : List (Nat × Nat × Nat × W64) := []
  moduleLimit : Nat := 4600
  /-- FLOOR and CAP of PWR_DOMAIN: (region, d, floor, cap). -/
  domains : List (Nat × Nat × Nat × Nat) := []
  throttleC : Nat := 100
  consistency : Bool := false
  headerGib : Nat := 0
  maint : W64 := 0x1_0308_0040
  strictScope : Bool := false
  kilnInterval : Nat := 1024
  packVersions : List Nat := [0, 0, 0]
  coreFw : List (Nat × Byte) := []
  deriving DecidableEq, Repr, Inhabited

/-- What Uluell finds in the bytes of a slot beyond the checks of its header and directory: the signature, and the
sections' values, whose layout the spec does not give. -/
structure Verdict where
  /-- SIG_R and SIG_S form a valid signature under the key that KEY_REF names (R510). -/
  sigOk : Bool
  image : Image := {}
  deriving DecidableEq, Repr, Inhabited

/-- What happens physically while a boot step runs. -/
structure BootInput where
  /-- Step 1: what Uluell finds in slots A and B. -/
  slotA : Verdict := { sigOk := false }
  slotB : Verdict := { sigOk := false }
  /-- Step 2: rails (region, index, cause) that fail their checks, and the base dies' sensed identity
  (region, REGION, ROTATION, valid). -/
  rails : List (Nat × Nat × Nat) := []
  idents : List (Nat × Nat × Nat × Bool) := []
  /-- Step 4: channels and packages that fail training, and the margins of the others. -/
  hbmFail : List Nat := []
  lpdFail : List Nat := []
  margins : Margins := { rd := 32, wr := 32 }
  /-- Step 5: pack classes that fail verification. -/
  packFail : List Nat := []
  /-- Step 6: cores that fail their pack. -/
  coreFail : List Nat := []
  /-- Step 4: good lanes of die-to-die links that differ from all lanes good: (link, lanes of each group). -/
  links : List (Nat × List W64) := []
  deriving DecidableEq, Repr, Inhabited

/-- Link arrangement of a host port (R418, R423). -/
structure HostLink where
  speed : Nat := 6
  width : Nat := 16
  cxl : Bool := false
  /-- Bytes of the CXL Type 3 expander on the link, 0 without one (R414). -/
  capacity : Nat := 0
  deriving DecidableEq, Repr, Inhabited

/-- The causes of a host loss (R420). -/
inductive LossCause where
  | perst | hotReset | linkDown | pfFlr | vfFlr (f : Nat)
  deriving DecidableEq, Repr, Inhabited

/-- One request that leaves the module or reached it whose answer is awaited is named by a tag. -/
abbrev ReqTag := Nat

/-- The result of a link's lane map exchange (R495). -/
structure LaneMap where
  /-- Good lanes of each group of 64, as a 64-bit map, at this end and at the far end. -/
  ours : List W64
  theirs : List W64
  /-- The group masks that the two ends then exchange are equal. -/
  agree : Bool := true
  deriving DecidableEq, Repr, Inhabited

/-- The commands, one constructor for each row of the opcode table. -/
inductive Instr where
  -- registers and the fret
  | registerWrite (ag : Agent) (addr : Nat) (v : W64)
  | misalignedRegAccess (ag : Agent) (addr size : Nat) (write : Bool)
  | fabFretPeriodWrite (ag : Agent) (r : Nat) (v : W64)
  | fretMark (m : MarkInput)
  | vfStepRise (r d : Nat)
  | lateralPathChange (edge : Option Nat) (lost : Option Nat) (fl : List LateralFlit)
  -- the matrix array
  | mxLoad (b : Nat)
  | mxLoadPathStart (b : Nat)
  | mxLoadDone (b : Nat)
  | mxSwap (b : Nat)
  | mxSwapCycle (b : Nat)
  | mxStream (b : Nat)
  | mxRowFeed (b : Nat) (granted : Bool) (errs : List ArrayError) (parity : Option (Nat × Nat))
  | groupCheck (b : Nat)
  | mxRowCommit (b : Nat)
  | feedPegRelease (b : Nat)
  | mxDrain (b n : Nat)
  | mxSeed (b n : Nat)
  | mxCountClear (ag : Agent) (b : Nat) (v : W64)
  -- the block
  | cmdPush (b : Nat) (v : W64)
  | spillRefill (b e : Nat)
  | tokenWaitEnd (b e : Nat)
  | blkTokenErrClear (ag : Agent) (b : Nat) (v : W64)
  | blkCplCtrlWrite (ag : Agent) (b : Nat) (v : W64)
  | blkCplHeadWrite (ag : Agent) (b : Nat) (v : W64)
  | completionWrite (b e : Nat)
  | veBinary (b n : Nat) (err : Option ResidueError)
  | veUnary (b n : Nat)
  | veFma (b n : Nat) (err : Option ResidueError)
  | veReduce (b n : Nat) (err : Option ResidueError)
  | veQuantMx (b n : Nat)
  | veRawCombine (b n : Nat) (err : Option ResidueError)
  | lyTranspose (b n : Nat)
  | lyCopy2d (b n : Nat)
  | lyPad (b n : Nat)
  | lyConvert (b n : Nat)
  | gsGather (b n : Nat)
  | gsScatter (b n : Nat)
  | gsLoad (b n : Nat)
  | gsStore (b n : Nat)
  | skSort (b n : Nat)
  | skTopk (b n : Nat)
  | blkStart (ag : Agent) (b : Nat)
  | blkHalt (ag : Agent) (b : Nat)
  | blkReset (ag : Agent) (b : Nat)
  | blockResetRelease (b : Nat)
  | seqDoubleTrap (b : Nat)
  | blockMute (b cause : Nat)
  | blkCountClear (ag : Agent) (b : Nat) (v : W64)
  | blkAsyncErrClear (ag : Agent) (b : Nat) (v : W64)
  -- harts: 0 to 143 are the cores, 144 + b the sequencer of block b (the cache numbers of R280)
  | hartLoad (h : Nat) (a : Access)
  | hartStore (h : Nat) (a : Access) (v : W64) (hold : Nat)
  | hartAmo (h : Nat) (a : Access) (op : AmoOp) (v : W64)
  | hartLr (h : Nat) (a : Access)
  | hartSc (h : Nat) (a : Access) (v : W64)
  | hartFence (h : Nat) (pred succ : FenceSet) (tso : Bool)
  | fenceI (h : Nat)
  | wfi (h : Nat)
  | wcEntryWriteout (h line : Nat)
  | reservationExpire (h : Nat)
  | mgmtCoreAsyncErrClear (ag : Agent) (c : Nat) (v : W64)
  | remoteWriteTimeout (tag : ReqTag)
  | remoteLoadTimeout (tag : ReqTag)
  -- the region DMA engine: channel c of region r
  | dmaEnable (ag : Agent) (r c : Nat)
  | dmaDisable (ag : Agent) (r c : Nat)
  | dmaPause (ag : Agent) (r c : Nat)
  | dmaResume (ag : Agent) (r c : Nat)
  | dmaAbort (ag : Agent) (r c : Nat)
  | dmaClearErr (ag : Agent) (r c : Nat)
  | dmaDoorbell (ag : Agent) (r c : Nat) (v : W64)
  | descFetch (r c : Nat)
  | descRefetch (r c : Nat)
  | copy (r c n : Nat)
  | fill (r c n : Nat)
  | compare (r c n : Nat)
  | copy2d (r c n : Nat)
  | descFault (r c : Nat)
  | descWriteback (r c : Nat)
  | ringFault (r c : Nat)
  | pauseDrainEnd (r c : Nat)
  | dmaChCountClear (ag : Agent) (r c : Nat) (v : W64)
  -- pegs and watches
  | pegSet (ag : Agent) (p : Nat) (v : W64)
  | pegAdd (ag : Agent) (p : Nat) (v : W64)
  | pegRelAdd (ag : Agent) (p : Nat) (sc : Scope) (v : W64)
  | pegAcqRead (ag : Agent) (p : Nat) (sc : Scope)
  | pegCasExpect (ag : Agent) (p : Nat) (v : W64)
  | pegCas (ag : Agent) (p : Nat) (v : W64)
  | pegStatusClear (ag : Agent) (p : Nat) (v : W64)
  | pegAccessFault (ag : Agent) (addr size : Nat) (write amo : Bool)
  | watchArm (ag : Agent) (v : W64)
  | watchDeliver (r : Nat)
  | watchExpire (r key : Nat)
  | watchCancel (ag : Agent) (v : W64)
  | watchEventRead (ag : Agent)
  | eventQueueAdmit (r : Nat)
  | watchCountClear (ag : Agent) (r : Nat) (v : W64)
  -- coherence: cache k of R280, a line is an address / 128
  | readShared (k line : Nat) (victim : Option Nat)
  | readUnique (k line : Nat) (victim : Option Nat)
  | upgrade (k line : Nat) (victim : Option Nat)
  | writeBack (k line : Nat)
  | cleanEvict (k line : Nat)
  | engineRead (port line : Nat)
  | engineWrite (port line : Nat) (data : List Byte)
  | engineMaskedWrite (port line : Nat) (data : List Byte) (mask : Nat)
  | engineAtomic (port line off size : Nat) (op : AtomOp) (v : W64)
  | snoop (k line : Nat)
  | homeTransactionComplete (line : Nat)
  | grant (r req : Nat)
  | scrubDone (r : Nat)
  | invalidationDone (r : Nat)
  | mgmtCohCountClear (ag : Agent) (r : Nat) (v : W64)
  -- memory tiers
  | eccUncorrectable (e : EccError)
  | mapOut (ag : Agent) (ch : Nat)
  | testStart (ag : Agent) (ch : Nat)
  | testEnd (ag : Agent) (ch : Nat)
  | maintSlot (r seed : Nat) (lanes : List (Nat × Nat × Nat))
  | marginCheckDone (r : Nat) (m : Margins)
  | retrainDone (r : Nat) (m : Margins)
  | groupRebuild (ag : Agent) (r : Nat) (v : W64)
  | rebuildDone (r g : Nat)
  | tgStart (ag : Agent) (ch : Nat) (v : W64)
  | tgDone (ch : Nat) (errs : List Nat)
  | patRead (ag : Agent) (r : Nat) (v : W64)
  | patWrite (ag : Agent) (r : Nat) (v : W64)
  | setCopyValid (ag : Agent) (r : Nat) (v : W64)
  | clearCopyValid (ag : Agent) (r : Nat) (v : W64)
  | patCmdDone (r : Nat)
  | mgmtRegCfgWrite (ag : Agent) (r q p : Nat) (v : W64)
  | tokenRefill (r : Nat)
  | mgmtMemCountClear (ag : Agent) (r : Nat) (v : W64)
  -- Chaind: global port k of R3
  | portEnable (ag : Agent) (k : Nat)
  | portDisable (ag : Agent) (k : Nat)
  | retrain (ag : Agent) (k : Nat)
  | trainingAttemptEnd (k txGood rxGood : Nat) (reversed : Bool) (inverted : Nat) (peer : Option (Nat × Nat)) (missing : Nat)
  | flitReceive (k : Nat) (f : Flit)
  | retryReq (k seq : Nat)
  | retryReqRepeat (k : Nat)
  | linkFailure (k : Nat)
  | hello (k : Nat) (h : Hello)
  | elect (k : Nat) (key : LeaderKey) (hops : Nat)
  | reportTimer
  | report (k : Nat) (rep : Report)
  | fabricSettle
  | map (k : Nat) (m : MapSegment)
  | beat (k : Nat) (m : Beat)
  | beatSend
  | leaderLost
  | join (k : Nat) (rep : Report)
  | portEvent (serial port oldState newState : Nat)
  | portDownTimeout (k : Nat)
  | routeSwitch
  | fabricPacketArrive (k : Nat) (p : Packet)
  | fabricRead (p : Packet)
  | fabricWrite (p : Packet)
  | maskedWrite (p : Packet)
  | atomic (p : Packet)
  | pegOp (p : Packet)
  | readData (tag : ReqTag) (status : Nat) (data : List Byte)
  | writeAck (tag : ReqTag) (status : Nat)
  | atomicData (tag : ReqTag) (status : Nat) (v : W64)
  | routeLoad (ag : Agent) (v : W64)
  | fabPortCountClear (ag : Agent) (k : Nat) (v : W64)
  -- fabric time, strums and collectives
  | timeReqSend (k t1 : Nat)
  | timeReq (k : Nat) (p : TimePkt) (t2 t3 : Nat)
  | timeResp (k : Nat) (p : TimePkt) (t4 : Nat)
  | timeRespLost (k : Nat)
  | epochAdopt (count : Nat) (m : MarkInput)
  | strumLoad (ag : Agent) (r c : Nat)
  | strumLoadDone (r c : Nat)
  | strumStart (ag : Agent) (r c : Nat)
  | strumAbort (ag : Agent) (r c : Nat)
  | strumUnload (ag : Agent) (r c : Nat)
  | slotStart (slot : Nat)
  | schedFlit (k : Nat) (f : SchedFlit)
  | strumRunEnd (r c : Nat)
  | peerSilent (r c entry : Nat)
  | fabCollAbort (ag : Agent) (v : W64)
  | fabCollCountClear (ag : Agent) (r : Nat) (v : W64)
  -- host ports: region r is port r
  | hostLinkUp (r : Nat) (l : HostLink)
  | hostLinkDown (r k : Nat)
  | hostLoss (r : Nat) (cause : LossCause)
  | hostLossDone (r : Nat) (linkInL0 : Bool)
  | memorySpaceEnableSet (r : Nat)
  | memorySpaceEnableClear (r : Nat)
  | hostBar0Access (r f off size : Nat) (write : Option W64)
  | hostPegAtomic (r f off size : Nat) (op : AtomOp) (v : W64)
  | hostBar2Read (r f off n : Nat)
  | hostBar2Write (r f off : Nat) (data : List Byte) (attr : TlpAttr)
  | hostBar2Atomic (r f off size : Nat) (op : AtomOp) (v : W64)
  | hostFnBar2SlideWrite (r f : Nat) (v : W64)
  | hostOwnershipWrite (ag : Agent) (r f word : Nat) (v : W64)
  | rootPortLinkDown (r k : Nat)
  | hostRpCtrlEnable (ag : Agent) (r k : Nat) (v : W64)
  | deviceAerError (r k reqId : Nat)
  | deviceInboundRequest (r k reqId pasid addr : Nat) (storage : Bool) (n : Nat) (write : Option DeviceWrite)
  -- the kiln
  | tagOpen (ag : Agent) (r : Nat)
  | tagClose (ag : Agent) (r : Nat)
  | tagQuery (ag : Agent) (r : Nat)
  | tagBackup
  | intervalClose
  | signToken
  | signDone
  | ledgerAppend
  | pageProgram
  | kilnRingHeadWrite (ag : Agent) (r : Nat) (v : W64)
  | kilnAckSeqWrite (ag : Agent) (r : Nat) (v : W64)
  | ledgerCompact (upTo : Nat)
  | kilnCountClear (ag : Agent) (r : Nat) (v : W64)
  -- power and thermal
  | inputLoss
  | inputLow (volts : Nat)
  | inputOvervoltage
  | inputOvercurrent
  | railFault (r rail cause : Nat)
  | pwrModuleLimitWrite (ag : Agent) (r : Nat) (v : W64)
  | pwrDomainWrite (ag : Agent) (r d : Nat) (v : W64)
  | budgetMessage (r p f d : Nat)
  | budgetGrant (p : Predictions)
  | railOvercurrent (r rail : Nat)
  | droopDetect (h cycles : Nat)
  | droopRecover (h : Nat)
  | thermalSample (r die celsius : Nat)
  | thermalTrip
  | coolantAlarm
  | pwrCountClear (ag : Agent) (v : W64)
  -- silent errors and degraded operation
  | xchkDone (a b da db : Nat) (third : Option (Nat × Nat))
  | xchkThirdTimeout (a b : Nat)
  | tuningCheckEnd (b : Nat) (passed : Bool)
  | blkMute (ag : Agent) (r b : Nat)
  | blkRelease (ag : Agent) (r b : Nat)
  | mgmtEvidRelease (ag : Agent) (r : Nat) (v : W64)
  | packRun (cls unit : Nat)
  | packResult (cls unit : Nat) (passed : Bool)
  | d2dFlitCrcError (link lane : Nat)
  | d2dLaneMapExchange (link : Nat) (m : LaneMap)
  | heartbeat (link : Nat)
  | dieLost (r die reason : Nat)
  | regionLost (r reason : Nat)
  | rejoin (ag : Agent) (r die : Nat)
  | rejoinDone (r die : Nat)
  | rejoinTimeout (r die : Nat)
  | mgmtErrCountClear (ag : Agent) (r : Nat) (v : W64)
  -- boot, configuration and management
  | auxPowerUp (slotId : Nat) (reversedSeen : Bool)
  | auxPowerDown
  | autoBoot
  | boot (i : BootInput)
  | bootStepTimeout
  | mbxGo (ag : Agent) (sl : Slot) (m : Msg)
  | mbxAck (ag : Agent) (sl : Slot)
  | mbxResponse
  | i3cPrivateWrite (bytes : List Byte)
  | i3cPrivateRead (n : Nat)
  | entdaa (da : Nat)
  | rstdaa
  | setnewda (da : Nat)
  | getpid
  | getbcr
  | getdcr
  | getstatus
  | getmwl
  | getmrl
  | enec (events : Nat)
  | disec (events : Nat)
  | getStatus (sl : Slot) (m : Msg)
  | getIdentity (sl : Slot) (m : Msg)
  | getCert (sl : Slot) (m : Msg)
  | getEvent (sl : Slot) (m : Msg)
  | coldBoot (sl : Slot) (m : Msg)
  | warmReset (sl : Slot) (m : Msg)
  | powerOff (sl : Slot) (m : Msg)
  | run (sl : Slot) (m : Msg)
  | quiesce (sl : Slot) (m : Msg)
  | resume (sl : Slot) (m : Msg)
  | overrideSet (sl : Slot) (m : Msg)
  | overrideGet (sl : Slot) (m : Msg)
  | overrideClear (sl : Slot) (m : Msg)
  | journalCompact
  | imageWrite (sl : Slot) (m : Msg)
  | imageCommit (sl : Slot) (m : Msg) (v : Verdict)
  | coreOffline (sl : Slot) (m : Msg)
  | coreOnline (sl : Slot) (m : Msg) (passed : Bool)
  | coreClearFail (sl : Slot) (m : Msg)
  | muteListGet (sl : Slot) (m : Msg)
  | muteListRemove (sl : Slot) (m : Msg)
  | evidenceRead (sl : Slot) (m : Msg)
  | evidenceRelease (sl : Slot) (m : Msg)
  | fuseRearm (sl : Slot) (m : Msg)
  | ledgerRead (sl : Slot) (m : Msg)
  | debugUnlock (sl : Slot) (m : Msg) (nonce : List Byte) (sigOk : Bool)
  -- rows that follow the reading of 95
  | hostOutboundCompletion (tag : ReqTag) (status : Nat) (data : List Byte)
  | hostLinkRecovery (r k : Nat)
  | rootPortLinkUp (r k : Nat) (l : HostLink)
  | configurationWrite (r f : Nat) (busMaster memEnable : Option Bool) (bar2Log2 : Option Nat)
  | interruptTrap (h : Nat)
  | inputReversed
  | jtagInstruction (boundaryScan : Bool)
  deriving DecidableEq, Repr

end Sys2Proof
end

