-- ==== Sys2Proof/WellFormed.lean ====
section
/-!
DEFINITION. Which commands exist: every operand that names a unit of the module names one that Tables 1.1, 1.7, 4.4, 5.1,
8.3, 9.1 and 14.3 give it.  A command that is not well formed names a unit that is not there, and reaches nothing (log 9).
-/
namespace Sys2Proof

/-- Regions 0 to 3. -/
def okR (r : Nat) : Bool := decide (r < 4)
/-- Blocks 0 to 511. -/
def okB (b : Nat) : Bool := decide (b < 512)
/-- Cores 0 to 143. -/
def okC (c : Nat) : Bool := decide (c < 144)
/-- Harts and their caches 0 to 655 (R280). -/
def okH (h : Nat) : Bool := decide (h < 656)
/-- Requester numbers 0 to 687 (Table 8.3). -/
def okReq (q : Nat) : Bool := decide (q < 688)
/-- DMA and collective channels 0 to 63 of a region. -/
def okChan (c : Nat) : Bool := decide (c < 64)
/-- HBM channels 0 to 511. -/
def okHbm (c : Nat) : Bool := decide (c < 512)
/-- HBM channels 0 to 511, and LPDDR5X package p as 512 + p (0 to 23). -/
def okDev (c : Nat) : Bool := decide (c < 536)
/-- Channel groups 0 to 7, and 8 for the packages. -/
def okGroup (g : Nat) : Bool := decide (g < 9)
/-- Pegs 0 to 65,535. -/
def okPeg (p : Nat) : Bool := decide (p < 65536)
/-- Global Chaind ports 0 to 15. -/
def okPort (k : Nat) : Bool := decide (k < 16)
/-- Sub-ports 0 to 3 of a host port. -/
def okSub (k : Nat) : Bool := decide (k < 4)
/-- Functions 0 to 8 of an endpoint. -/
def okFn (f : Nat) : Bool := decide (f < 9)
/-- Engines 0 to 4 of a block, and 7 for its front end (Table 4.4). -/
def okEngine (e : Nat) : Bool := decide (e < 5) || e == 7
/-- Regulated resources 0 to 2, and partitions 0 to 7. -/
def okRes (q : Nat) : Bool := decide (q < 3)
def okPart (p : Nat) : Bool := decide (p < 8)
/-- Stepped domains 0 to 3 of a region (R462). -/
def okDomain (d : Nat) : Bool := decide (d < 4)
/-- Compute dies 0 and 1 and core die 2 of a region. -/
def okDie (d : Nat) : Bool := decide (d < 3)
/-- Rails 0 to 8 of a region (Table 14.3). -/
def okRail (i : Nat) : Bool := decide (i < 9)
/-- Die-to-die links: r * 3 + d to die d of region r (0 to 11), lateral edges 12 to 15. -/
def okLink (l : Nat) : Bool := decide (l < 16)
/-- The length of a PCIe request: up to the Max Read Request Size (Table 12.1). -/
def okTlp (n : Nat) : Bool := decide (0 < n) && decide (n ≤ 4096)
/-- Access sizes. -/
def okSize (n : Nat) : Bool := n == 1 || n == 2 || n == 4 || n == 8
/-- Sizes of AMO, LR, SC and atomics. -/
def okWide (n : Nat) : Bool := n == 4 || n == 8

/-- An agent of this module names one of its units; of another module, only its number counts. -/
def Agent.wf (a : Agent) : Bool :=
  !a.own || (decide (a.region < 4) &&
    match a.kind with
    | .core => decide (a.index < 36)
    | .block => decide (a.index < 128)
    | .engine => decide (a.index < 4)
    | .external => decide (a.index < 9))

/-- A command names units that the module has. -/
def Instr.wf (i : Instr) : Bool :=
  match i with
  | .registerWrite ag _ _ => ag.wf
  | .misalignedRegAccess ag _ size _ => ag.wf && okSize size
  | .fabFretPeriodWrite ag r _ => ag.wf && okR r
  | .fretMark _ => true
  | .vfStepRise r d => okR r && okDomain d
  | .lateralPathChange edge lost _ => edge.all okR && lost.all okR
  | .mxLoad b => okB b
  | .mxLoadPathStart b => okB b
  | .mxLoadDone b => okB b
  | .mxSwap b => okB b
  | .mxSwapCycle b => okB b
  | .mxStream b => okB b
  | .mxRowFeed b _ _ _ => okB b
  | .groupCheck b => okB b
  | .mxRowCommit b => okB b
  | .feedPegRelease b => okB b
  | .mxDrain b _ => okB b
  | .mxSeed b _ => okB b
  | .mxCountClear ag b _ => ag.wf && okB b
  | .cmdPush b _ => okB b
  | .spillRefill b e => okB b && okEngine e
  | .tokenWaitEnd b e => okB b && okEngine e
  | .blkTokenErrClear ag b _ => ag.wf && okB b
  | .blkCplCtrlWrite ag b _ => ag.wf && okB b
  | .blkCplHeadWrite ag b _ => ag.wf && okB b
  | .completionWrite b e => okB b && okEngine e
  | .veBinary b _ _ => okB b
  | .veUnary b _ => okB b
  | .veFma b _ _ => okB b
  | .veReduce b _ _ => okB b
  | .veQuantMx b _ => okB b
  | .veRawCombine b _ _ => okB b
  | .lyTranspose b _ => okB b
  | .lyCopy2d b _ => okB b
  | .lyPad b _ => okB b
  | .lyConvert b _ => okB b
  | .gsGather b _ => okB b
  | .gsScatter b _ => okB b
  | .gsLoad b _ => okB b
  | .gsStore b _ => okB b
  | .skSort b _ => okB b
  | .skTopk b _ => okB b
  | .blkStart ag b => ag.wf && okB b
  | .blkHalt ag b => ag.wf && okB b
  | .blkReset ag b => ag.wf && okB b
  | .blockResetRelease b => okB b
  | .seqDoubleTrap b => okB b
  | .blockMute b _ => okB b
  | .blkCountClear ag b _ => ag.wf && okB b
  | .blkAsyncErrClear ag b _ => ag.wf && okB b
  | .hartLoad h a => okH h && okSize a.size
  | .hartStore h a _ _ => okH h && okSize a.size
  | .hartAmo h a _ _ => okH h && okWide a.size
  | .hartLr h a => okH h && okWide a.size
  | .hartSc h a _ => okH h && okWide a.size
  | .hartFence h _ _ _ => okH h
  | .fenceI h => okH h
  | .wfi h => okH h
  | .wcEntryWriteout h _ => okH h
  | .reservationExpire h => okH h
  | .mgmtCoreAsyncErrClear ag c _ => ag.wf && okC c
  | .remoteWriteTimeout _ => true
  | .remoteLoadTimeout _ => true
  | .dmaEnable ag r c => ag.wf && okR r && okChan c
  | .dmaDisable ag r c => ag.wf && okR r && okChan c
  | .dmaPause ag r c => ag.wf && okR r && okChan c
  | .dmaResume ag r c => ag.wf && okR r && okChan c
  | .dmaAbort ag r c => ag.wf && okR r && okChan c
  | .dmaClearErr ag r c => ag.wf && okR r && okChan c
  | .dmaDoorbell ag r c _ => ag.wf && okR r && okChan c
  | .descFetch r c => okR r && okChan c
  | .descRefetch r c => okR r && okChan c
  | .copy r c _ => okR r && okChan c
  | .fill r c _ => okR r && okChan c
  | .compare r c _ => okR r && okChan c
  | .copy2d r c _ => okR r && okChan c
  | .descFault r c => okR r && okChan c
  | .descWriteback r c => okR r && okChan c
  | .ringFault r c => okR r && okChan c
  | .pauseDrainEnd r c => okR r && okChan c
  | .dmaChCountClear ag r c _ => ag.wf && okR r && okChan c
  | .pegSet ag p _ => ag.wf && okPeg p
  | .pegAdd ag p _ => ag.wf && okPeg p
  | .pegRelAdd ag p _ _ => ag.wf && okPeg p
  | .pegAcqRead ag p _ => ag.wf && okPeg p
  | .pegCasExpect ag p _ => ag.wf && okPeg p
  | .pegCas ag p _ => ag.wf && okPeg p
  | .pegStatusClear ag p _ => ag.wf && okPeg p
  | .pegAccessFault ag _ size _ _ => ag.wf && okSize size
  | .watchArm ag _ => ag.wf
  | .watchDeliver r => okR r
  | .watchExpire r _ => okR r
  | .watchCancel ag _ => ag.wf
  | .watchEventRead ag => ag.wf
  | .eventQueueAdmit r => okR r
  | .watchCountClear ag r _ => ag.wf && okR r
  | .readShared k _ _ => okH k
  | .readUnique k _ _ => okH k
  | .upgrade k _ _ => okH k
  | .writeBack k _ => okH k
  | .cleanEvict k _ => okH k
  | .engineRead port _ => okReq port
  | .engineWrite port _ data => okReq port && data.length == 128
  | .engineMaskedWrite port _ data _ => okReq port && data.length == 128
  | .engineAtomic port _ off size _ _ => okReq port && okWide size && off % size == 0 && decide (off < 128)
  | .snoop k _ => okH k
  | .homeTransactionComplete _ => true
  | .grant r req => okR r && okReq req
  | .scrubDone r => okR r
  | .invalidationDone r => okR r
  | .mgmtCohCountClear ag r _ => ag.wf && okR r
  | .eccUncorrectable e => (match e.place with | .cache k => okH k | _ => true)
  | .mapOut ag ch => ag.wf && okDev ch
  | .testStart ag ch => ag.wf && okDev ch
  | .testEnd ag ch => ag.wf && okDev ch
  | .maintSlot r _ _ => okR r
  | .marginCheckDone r _ => okR r
  | .retrainDone r _ => okR r
  | .groupRebuild ag r _ => ag.wf && okR r
  | .rebuildDone r g => okR r && okGroup g
  | .tgStart ag ch _ => ag.wf && okHbm ch
  | .tgDone ch _ => okHbm ch
  | .patRead ag r _ => ag.wf && okR r
  | .patWrite ag r _ => ag.wf && okR r
  | .setCopyValid ag r _ => ag.wf && okR r
  | .clearCopyValid ag r _ => ag.wf && okR r
  | .patCmdDone r => okR r
  | .mgmtRegCfgWrite ag r q p _ => ag.wf && okR r && okRes q && okPart p
  | .tokenRefill r => okR r
  | .mgmtMemCountClear ag r _ => ag.wf && okR r
  | .portEnable ag k => ag.wf && okPort k
  | .portDisable ag k => ag.wf && okPort k
  | .retrain ag k => ag.wf && okPort k
  | .trainingAttemptEnd k _ _ _ _ _ _ => okPort k
  | .flitReceive k _ => okPort k
  | .retryReq k _ => okPort k
  | .retryReqRepeat k => okPort k
  | .linkFailure k => okPort k
  | .hello k _ => okPort k
  | .elect k _ _ => okPort k
  | .reportTimer => true
  | .report k _ => okPort k
  | .fabricSettle => true
  | .map k _ => okPort k
  | .beat k _ => okPort k
  | .beatSend => true
  | .leaderLost => true
  | .join k _ => okPort k
  | .portEvent _ _ _ _ => true
  | .portDownTimeout k => okPort k
  | .routeSwitch => true
  | .fabricPacketArrive k _ => okPort k
  | .fabricRead _ => true
  | .fabricWrite _ => true
  | .maskedWrite _ => true
  | .atomic _ => true
  | .pegOp _ => true
  | .readData _ _ _ => true
  | .writeAck _ _ => true
  | .atomicData _ _ _ => true
  | .routeLoad ag _ => ag.wf
  | .fabPortCountClear ag k _ => ag.wf && okPort k
  | .timeReqSend k _ => okPort k
  | .timeReq k _ _ _ => okPort k
  | .timeResp k _ _ => okPort k
  | .timeRespLost k => okPort k
  | .epochAdopt _ _ => true
  | .strumLoad ag r c => ag.wf && okR r && okChan c
  | .strumLoadDone r c => okR r && okChan c
  | .strumStart ag r c => ag.wf && okR r && okChan c
  | .strumAbort ag r c => ag.wf && okR r && okChan c
  | .strumUnload ag r c => ag.wf && okR r && okChan c
  | .slotStart _ => true
  | .schedFlit k _ => okPort k
  | .strumRunEnd r c => okR r && okChan c
  | .peerSilent r c _ => okR r && okChan c
  | .fabCollAbort ag _ => ag.wf
  | .fabCollCountClear ag r _ => ag.wf && okR r
  | .hostLinkUp r _ => okR r
  | .hostLinkDown r k => okR r && okSub k
  | .hostLoss r _ => okR r
  | .hostLossDone r _ => okR r
  | .memorySpaceEnableSet r => okR r
  | .memorySpaceEnableClear r => okR r
  | .hostBar0Access r f _ size _ => okR r && okFn f && okTlp size
  | .hostPegAtomic r f _ size _ _ => okR r && okFn f && okTlp size
  | .hostBar2Read r f _ n => okR r && okFn f && decide (n ≤ 4096)
  | .hostBar2Write r f _ data _ => okR r && okFn f && decide (data.length ≤ 512)
  | .hostBar2Atomic r f _ size _ _ => okR r && okFn f && okTlp size
  | .hostFnBar2SlideWrite r f _ => okR r && okFn f
  | .hostOwnershipWrite ag r f word _ => ag.wf && okR r && okFn f && decide (word < 12)
  | .rootPortLinkDown r k => okR r && okSub k
  | .hostRpCtrlEnable ag r k _ => ag.wf && okR r && okSub k
  | .deviceAerError r k _ => okR r && okSub k
  | .deviceInboundRequest r k _ _ _ _ n write => okR r && okSub k && decide (n ≤ 4096) && (match write with | some x => decide (x.data.length ≤ 512) | none => true)
  | .tagOpen ag r => ag.wf && okR r
  | .tagClose ag r => ag.wf && okR r
  | .tagQuery ag r => ag.wf && okR r
  | .tagBackup => true
  | .intervalClose => true
  | .signToken => true
  | .signDone => true
  | .ledgerAppend => true
  | .pageProgram => true
  | .kilnRingHeadWrite ag r _ => ag.wf && okR r
  | .kilnAckSeqWrite ag r _ => ag.wf && okR r
  | .ledgerCompact _ => true
  | .kilnCountClear ag r _ => ag.wf && okR r
  | .inputLoss => true
  | .inputLow volts => decide (2500 ≤ volts) && decide (volts < 2600)
  | .inputOvervoltage => true
  | .inputOvercurrent => true
  | .railFault r rail _ => okR r && okRail rail
  | .pwrModuleLimitWrite ag r _ => ag.wf && okR r
  | .pwrDomainWrite ag r d _ => ag.wf && okR r && okDomain d
  | .budgetMessage r _ _ _ => okR r
  | .budgetGrant _ => true
  | .railOvercurrent r rail => okR r && okRail rail
  | .droopDetect h _ => okH h
  | .droopRecover h => okH h
  | .thermalSample r die _ => okR r && okDomain die
  | .thermalTrip => true
  | .coolantAlarm => true
  | .pwrCountClear ag _ => ag.wf
  | .xchkDone a b _ _ third => okB a && okB b && a != b && (match third with | some (x, _) => okB x && x != a && x != b | none => true)
  | .xchkThirdTimeout a b => okB a && okB b && a != b
  | .tuningCheckEnd b _ => okB b
  | .blkMute ag r b => ag.wf && okR r && okB b
  | .blkRelease ag r b => ag.wf && okR r && okB b
  | .mgmtEvidRelease ag r _ => ag.wf && okR r
  | .packRun cls _ => decide (cls < 3)
  | .packResult cls _ _ => decide (cls < 3)
  | .d2dFlitCrcError link _ => okLink link
  | .d2dLaneMapExchange link _ => okLink link
  | .heartbeat link => okLink link
  | .dieLost r die _ => okR r && okDie die
  | .regionLost r _ => okR r
  | .rejoin ag r die => ag.wf && okR r && okDie die
  | .rejoinDone r die => okR r && okDie die
  | .rejoinTimeout r die => okR r && okDie die
  | .mgmtErrCountClear ag r _ => ag.wf && okR r
  | .auxPowerUp _ _ => true
  | .auxPowerDown => true
  | .autoBoot => true
  | .boot _ => true
  | .bootStepTimeout => true
  | .mbxGo ag _ _ => ag.wf
  | .mbxAck ag _ => ag.wf
  | .mbxResponse => true
  | .i3cPrivateWrite _ => true
  | .i3cPrivateRead _ => true
  | .entdaa _ => true
  | .rstdaa => true
  | .setnewda _ => true
  | .getpid => true
  | .getbcr => true
  | .getdcr => true
  | .getstatus => true
  | .getmwl => true
  | .getmrl => true
  | .enec _ => true
  | .disec _ => true
  | .getStatus _ _ => true
  | .getIdentity _ _ => true
  | .getCert _ _ => true
  | .getEvent _ _ => true
  | .coldBoot _ _ => true
  | .warmReset _ _ => true
  | .powerOff _ _ => true
  | .run _ _ => true
  | .quiesce _ _ => true
  | .resume _ _ => true
  | .overrideSet _ _ => true
  | .overrideGet _ _ => true
  | .overrideClear _ _ => true
  | .journalCompact => true
  | .imageWrite _ _ => true
  | .imageCommit _ _ _ => true
  | .coreOffline _ _ => true
  | .coreOnline _ _ _ => true
  | .coreClearFail _ _ => true
  | .muteListGet _ _ => true
  | .muteListRemove _ _ => true
  | .evidenceRead _ _ => true
  | .evidenceRelease _ _ => true
  | .fuseRearm _ _ => true
  | .ledgerRead _ _ => true
  | .debugUnlock _ _ _ _ => true
  | .hostOutboundCompletion _ _ _ => true
  | .hostLinkRecovery r k => okR r && okSub k
  | .rootPortLinkUp r k _ => okR r && okSub k
  | .configurationWrite r f _ _ _ => okR r && okFn f
  | .interruptTrap h => okH h
  | .inputReversed => true
  | .jtagInstruction _ => true

end Sys2Proof
end

