-- ==== Sys2Proof/Config.lean ====
section
/-!
DEFINITION. The values that the spec leaves open: constants with no body, so that nothing can be proved of a value.
Each is named in a row of the assumption log.
-/
namespace Sys2Proof.Config

/-- Which of the `n + 1` FP32 results within its bound VE_UNARY function `f` delivers for the FP32 encoding `x` (R544). -/
opaque unaryPick (f x n : Nat) : Fin (n + 1)

/-- What the 160-bit ACC of R59, or the 16-bit ANCHOR of a record, holds after a sum that falls outside it: seeds and records may
bring any ACC, and the spec states no result there. -/
opaque accOverflow (n : Int) : Nat

/-- Spare columns in use in the matrix array of block `b`, which fuses of each chip tell (R134). -/
opaque sparesUsed (b : Nat) : Fin 3

/-- Tile rows that a load of `k` rows has written when a stop comes: R98 times the rows in cycles, which no command carries. -/
opaque rowsLoaded (n k : Nat) : Fin (k + 1)

/-- The STATUS of a fabric error log entry with cause 3, 5, 6 or 7, for which Table 10.11 names no code. -/
opaque fabLogStatus (cause : Nat) : Nat

/-- The STATUS of a host error log entry with cause 6 or 7, for which Table 12.6 names no code. -/
opaque hostLogStatus (cause : Nat) : Nat

/-- The integers r and s of the `n`-th ECDSA P-384 signature of a digest (R443): they depend on a key that never leaves Uluell. -/
opaque signR (n digest : Nat) : Nat
opaque signS (n digest : Nat) : Nat

/-- Kaeraeno's MIPI manufacturer ID, bits [47:33] of the provisioned ID (R517). -/
opaque manufacturerId : Nat

/-- The two bytes that GETSTATUS returns with a pending interrupt or without: the spec leaves their format to MIPI I3C. -/
opaque i3cStatus (pending : Bool) : Nat

/-- Sectors, less 1, in which the encoder stores a 4 KiB unit that holds these bytes that are not zero: the spec gives no code (R311). -/
opaque unitSectors (cells : List (Nat × BitVec 8)) : Fin 64

/-- Set of a line in a core's L2 cache (1,024 sets of 16 ways) and in an SLC slice (131,072 sets of a region), and set of its entry in
a directory (262,144 sets of a region): the spec gives sizes and ways (Table 8.1), and no hash (R278). -/
opaque l2Set (line : Nat) : Fin 1024
opaque l1iSet (line : Nat) : Fin 128
opaque slcSet (line : Nat) : Fin 131072
opaque dirSet (line : Nat) : Fin 262144

/-- The `n`-th choice of a victim among the lines of a full cache set, by its place among them: the spec names no replacement. -/
opaque victim (n : Nat) : Nat

/-- Whether the `n`-th read of a line that the gather-scatter read cache holds returns the value held there, as it may (R261). -/
opaque gsHit (n : Nat) : Bool

/-- The cycle counter of a hart (CSRs mcycle and cycle) at its `n`-th read. -/
opaque cycles (n : Nat) : W64

/-- Bytes of a vector register of a core: the spec names the vector extension (through RVA23U64) and no VLEN. -/
opaque vlenb : W64

/-- The per-chip voltage table (R464): set-point in mV, load line in µΩ and reference in mV, by region, domain and step. -/
opaque voltMv (r d step : Nat) : Fin 4096
opaque loadlineUohm (r d step : Nat) : Fin 4096
opaque refMv (r d step : Nat) : Fin 4096

/-- The input current in mA, less 30,001, that opened the input fuse for the `n`-th time (R455). -/
opaque overcurrent (n : Nat) : Fin 35535

/-- NoC cycles that a request waited for tokens since the last refill (R321): the period of a NoC cycle is not given. -/
opaque waitCycles (n : Nat) : Nat

/-- The pc after the `n`-th retired instruction: the table's steps give no instruction its length or its branch target. -/
opaque nextPc (n : Nat) : W64

end Sys2Proof.Config
end

