-- ==== Sys2Proof/Machine/Bits.lean ====
section
/-!
DEFINITION. Bit fields of 64-bit words (R6) and the small arithmetic of counters.
-/
namespace Sys2Proof

/-- Bits `[hi:lo]` of a word as a number (R6). -/
def bits (v : W64) (hi lo : Nat) : Nat := (v.toNat >>> lo) % 2 ^ (hi + 1 - lo)

/-- Bit `i` of a word. -/
def bit (v : W64) (i : Nat) : Bool := v.getLsbD i

/-- A number placed at bit `lo` of a word. -/
def fld (n lo : Nat) : W64 := BitVec.ofNat 64 n <<< lo

/-- A truth value placed at bit `lo`. -/
def flag (b : Bool) (lo : Nat) : W64 := fld (if b then 1 else 0) lo

/-- The word with bits `[hi:lo]` replaced by `n`. -/
def setBits (v : W64) (hi lo n : Nat) : W64 :=
  (v &&& ~~~(fld (2 ^ (hi + 1 - lo) - 1) lo)) ||| fld (n % 2 ^ (hi + 1 - lo)) lo

/-- A mask of bits `[hi:lo]`. -/
def mask (hi lo : Nat) : W64 := fld (2 ^ (hi + 1 - lo) - 1) lo

/-- A word from a number, modulo 2^64. -/
def w64 (n : Nat) : W64 := BitVec.ofNat 64 n

/-- A counter that stops at `top` (the saturating counters of the spec). -/
def satAdd (top n k : Nat) : Nat := min top (n + k)

/-- Round-up division. -/
def ceilDiv (a b : Nat) : Nat := (a + b - 1) / b

end Sys2Proof
end

