-- ==== Sys2Proof/Machine/Types.lean ====
section
/-!
DEFINITION. The types of the parts of the machine's state: commands in queues, the matrix array, pegs and watches, harts
and their caches.  `Machine/Types2.lean` holds the types of the other units and `Machine/State.lean` the state itself.
-/
namespace Sys2Proof.Machine

/-- Shared status codes (Table 0.5) and the engine codes FORMAT (R55), PARITY (R133), RESIDUE (R170), SELFTEST (R492). -/
def stOK : Nat := 0x00
def stSTATE : Nat := 0x01
def stRANGE : Nat := 0x02
def stALIGN : Nat := 0x03
def stXLATE : Nat := 0x04
def stPOISON : Nat := 0x05
def stPEER_LOST : Nat := 0x06
def stHOST_LOST : Nat := 0x07
def stDEADLINE : Nat := 0x08
def stBISQUE_USED : Nat := 0x09
def stMISCOMPARE : Nat := 0x0A
def stBRIDGE : Nat := 0x0B
def stMUTED : Nat := 0x0C
def stSCOPE_NARROW : Nat := 0x0D
def stOVERRUN : Nat := 0x0E
def stABORTED : Nat := 0x0F
def stLEDGER_FULL : Nat := 0x10
def stINEXACT : Nat := 0x11
def stPAUSED : Nat := 0x12
def stFORMAT : Nat := 0x80
def stPARITY : Nat := 0x81
def stRESIDUE : Nat := 0x82
def stSELFTEST : Nat := 0x84

/-- The class of a status code (R12): the success codes; every other code is an error (R15). -/
def isSuccess (c : Nat) : Bool :=
  c == stOK || c == stBISQUE_USED || c == stMISCOMPARE || c == stINEXACT || c == stPAUSED

/-! ### Block commands -/

/-- When a command must finish (R44, R45). -/
inductive Target where
  /-- Free work. -/
  | free
  /-- The target mark is the mark that makes the fret counter `c`. -/
  | mark (c : Nat)
  /-- The target is taken as already passed, or has passed. -/
  | passed
  /-- The adoption of an epoch has aborted the command (R38). -/
  | aborted
  deriving DecidableEq, Repr, Inhabited

/-- A pushed block command (R153): its 64 bytes as one number, byte 0 lowest, and its sequence number. -/
structure Cmd where
  seq : Nat
  word : BitVec 512
  target : Target := .free
  /-- It passed through the spill queue (Table 4.6 SPILLED). -/
  spilled : Bool := false
  /-- Its wait on tokens has ended without an abort (R158, R159). -/
  waited : Bool := false
  deriving DecidableEq, Repr, Inhabited

/-- A started command and its progress. It stays started until its completion is written. -/
structure Run where
  cmd : Cmd
  /-- COUNT reached: rows, entries or elements whose effect is complete. -/
  count : Nat := 0
  /-- MX_STREAM: rows fed. -/
  fed : Nat := 0
  /-- The final status, once the command has stopped or finished. -/
  status : Option Nat := none
  /-- MX_STREAM: the status it will take once every earlier group has committed (R130, R133). -/
  stopping : Option Nat := none
  detail : W64 := 0
  inexact : Bool := false
  bisque : Bool := false
  /-- GS: rows zero-filled or skipped, and rows served from a bisque copy (R164). -/
  oob : Nat := 0
  bisqueRows : Nat := 0
  /-- MX_STREAM: row counts of committed groups not yet release-added to FEED_PEG + 1 (R108). -/
  owed : List Nat := []
  /-- MX_STREAM: what the ACTIVE tile was when the stream was taken: kind, mode, K_ROWS, N_COLS, 16-bit. -/
  kind : Nat := 0
  kRows : Nat := 0
  nCols : Nat := 0
  /-- MX_LOAD: the load path is writing SHADOW (R97), and the free value that tells how far it is when a stop comes. -/
  writing : Bool := false
  free : Nat := 0
  /-- MX_STREAM with FEED_WAIT: rows that the firings of the array's two watches have released, to feed and to write (R108, R229). -/
  feedTo : Nat := 0
  putTo : Nat := 0
  deriving DecidableEq, Repr, Inhabited

/-- The queue of one engine (R154, R155): hardware queue, spill queue and started commands, oldest first. -/
structure Engine where
  hw : List Cmd := []
  spill : List Cmd := []
  started : List Run := []
  deriving DecidableEq, Repr, Inhabited

/-! ### The matrix array (chapter 3) -/

/-- A stationary register of a cell: 16 bits, and an even-parity bit for each byte (R93). -/
structure CellReg where
  data : BitVec 16 := 0
  parity : BitVec 2 := 0
  deriving DecidableEq, Repr, Inhabited

/-- A register of the bridge column: the value that it holds for a reduction row, with its even-parity bit (R123, R126, R127,
R133). -/
structure BridgeReg where
  value : Nat := 0
  parity : Bool := false
  deriving DecidableEq, Repr, Inhabited

/-- A stationary tile as loaded: one of the two registers of every cell, ACTIVE or SHADOW. -/
structure Tile where
  /-- Which load placed it: no two tiles of one array since block reset share it. -/
  id : Nat := 0
  mode : Nat := 0
  format : Nat := 0
  kRows : Nat := 0
  nCols : Nat := 0
  /-- The registers: cell row i, working column j (R90). -/
  cells : List (List CellReg) := []
  /-- The bridge column, by reduction row. -/
  bridge : List BridgeReg := []
  /-- E8M0 scales: segment g, column j. -/
  scales : List (List Nat) := []
  /-- L of R127 for the load that placed it. -/
  loads : Nat := 0
  deriving DecidableEq, Repr, Inhabited

/-- SHADOW of Table 3.2. -/
inductive Shadow where
  | empty | loading | ready
  deriving DecidableEq, Repr, Inhabited

/-- The result of one segment in one column: the exact sum `n * 2^e` with its MX exponent x, and the flags of R62. -/
structure Seg where
  n : Int := 0
  e : Int := 0
  x : Int := 0
  nan : Bool := false
  pos : Bool := false
  neg : Bool := false
  deriving DecidableEq, Repr, Inhabited

/-- The accumulator of one column (R59, R62, Table 2.8); `a` is the FP32 value of a BF16 chain (R71). -/
structure Acc where
  acc : Int := 0
  anchor : Option Int := none
  nan : Bool := false
  pos : Bool := false
  neg : Bool := false
  inexact : Bool := false
  index : Nat := 0xFFFF
  /-- Every stream into the chain set INDEX (R105). -/
  indexed : Bool := true
  /-- Rows accumulated, 0 for an empty chain. -/
  count : Nat := 0
  a : Nat := 0
  deriving DecidableEq, Repr, Inhabited

/-- KIND of an accumulator entry (R101). -/
inductive Kind where
  | free | sum | scaledSum | min | max | bf16
  deriving DecidableEq, Repr, Inhabited

/-- An accumulator entry: its kind and its 128 columns. -/
structure Entry where
  kind : Kind := .free
  cols : List Acc := []
  deriving DecidableEq, Repr, Inhabited

/-- One fed row of a check group: its operands as fed, and per column the pass result. -/
structure FedRow where
  index : Nat
  elems : List Nat
  scales : List Nat
  /-- Exact and semiring sum modes: the segments of each column. -/
  segs : List (List Seg)
  /-- BF16: T of each column. -/
  ts : List Nat
  /-- MIN and MAX: the best term of each column, with its index. -/
  bests : List Acc
  deriving DecidableEq, Repr, Inhabited

/-- Where a check group stands. -/
inductive GroupState where
  | feeding | passed | failed
  deriving DecidableEq, Repr, Inhabited

/-- A check group (R110). -/
structure Group where
  /-- SEQ of its stream. -/
  seq : Nat
  /-- First row and number of rows of the group. -/
  first : Nat
  size : Nat
  /-- The tile that its rows are fed against. -/
  tile : Tile
  rows : List FedRow := []
  replay : Bool := false
  state : GroupState := .feeding
  /-- Rows of the group already committed. -/
  done : Nat := 0
  deriving DecidableEq, Repr, Inhabited

/-- The matrix array of a block. -/
structure Array where
  active : Tile := {}
  activeValid : Bool := false
  shadow : Tile := {}
  shadowState : Shadow := .empty
  entries : Map Nat Entry := []
  groups : List Group := []
  /-- L of R127: loads that passed their acceptance checks since block reset. -/
  loads : Nat := 0
  deriving DecidableEq, Repr, Inhabited

/-! ### Blocks (chapter 4) and evidence (chapter 15) -/

/-- A filled evidence slot (Table 15.4); `data` is what stands from offset 512. -/
structure Evidence where
  kind : Nat
  tune : Nat := 0
  block : Nat
  fret : Nat
  seq : Nat := 0
  row : Nat := 0
  col : Nat := 0
  score : Nat := 0
  command : BitVec 512 := 0
  statBytes : Nat := 0
  streamBytes : Nat := 0
  seed : Nat := 0
  data : List Byte := []
  deriving DecidableEq, Repr, Inhabited


/-- STATE of BLK_STATE (Table 4.16). -/
inductive BlockState where
  | reset | halted | running | muted
  deriving DecidableEq, Repr, Inhabited

/-- A tuning check in progress (R483): engine, the kind of Table 15.4 and its evidence slot if one was free. -/
structure Tuning where
  engine : Nat
  kind : Nat
  slot : Option Nat
  deriving DecidableEq, Repr, Inhabited

/-- A compute block, without its store and its sequencer's hart. -/
structure Block where
  state : BlockState := .reset
  muteCause : Nat := 0
  seqFault : Bool := false
  /-- The staging window (R152). -/
  staging : BitVec 512 := 0
  nextSeq : Nat := 0
  /-- Engines 0 to 4 of Table 4.4, and 7 for the front end. -/
  engines : Map Nat Engine := []
  array : Array := {}
  /-- Error marks of the tokens: token, lowest SEQ (R159). -/
  marks : Map Nat Nat := []
  tuning : List Tuning := []
  /-- Frets of the scoring events still counted, oldest first (R486). -/
  scores : List Nat := []
  /-- The partner and seed of a cross-check in progress (R480, R481). -/
  xchk : Option (Nat × Nat) := none
  deriving DecidableEq, Repr, Inhabited

/-! ### Pegs and watches (chapter 6) -/

/-- A peg (R219, Table 6.3). -/
structure Peg where
  value : W64 := 0
  narrow : Bool := false
  lastRel : Bool := false
  lastScope : Nat := 0
  narrowCount : Nat := 0
  releaser : Nat := 0
  /-- Writes to other modules that releases on this peg carry and that were not acknowledged then: tag, release scope, location of the
  releaser (R224). -/
  carries : List (Nat × Nat × Nat) := []
  deriving DecidableEq, Repr, Inhabited

/-- The tables of a home (R233, R234). -/
inductive WTable where
  | shared | block | spill
  deriving DecidableEq, Repr, Inhabited

/-- The place of a watch: home, table, entry. -/
structure WKey where
  home : Nat
  table : WTable
  entry : Nat
  deriving DecidableEq, Repr, Inhabited

/-- An armed watch (Table 6.5). -/
structure Watch where
  peg : Nat
  cond : Nat
  kind : Nat
  operand : W64
  target : W64
  value : W64
  pasid : Nat
  /-- Marks left before it expires; none without a timeout. -/
  left : Option Nat
  /-- Its t-th mark has passed: it expires and can no longer fire (R235). -/
  due : Bool := false
  /-- Location code of the arming agent. -/
  armer : Nat := 0
  deriving DecidableEq, Repr, Inhabited

/-- A watch that has fired or expired and is not yet delivered (R236, R237). -/
structure Fired where
  handle : Nat
  /-- REASON of Table 6.7: 0 FIRED, 1 EXPIRED, 2 HOME_LOST. -/
  reason : Nat
  watch : Watch
  deriving DecidableEq, Repr, Inhabited

/-- An event on its way to a queue: its word, and for KIND 1 the TARGET of its watch, which names mode and EIID, or the vector of a
host function (R236, R407). -/
structure QEvent where
  word : W64
  code : Nat := 0
  deriving DecidableEq, Repr, Inhabited

/-- The words stored in an arm window since the last push, and the results it returns (Table 6.5). -/
structure ArmWindow where
  w0 : W64 := 0
  w1 : W64 := 0
  w2 : W64 := 0
  result : W64 := 0
  cancel : W64 := 0
  deriving DecidableEq, Repr, Inhabited

/-! ### Harts and their caches (chapters 4, 7 and 8) -/

/-- State of a cached line (Table 8.2). -/
inductive CState where
  | shared | exclusive | modified
  deriving DecidableEq, Repr, Inhabited

/-- A 128-byte line: its bytes, and bit i of `poison` for its i-th 8-byte word. -/
structure Line where
  data : BitVec 1024 := 0
  poison : BitVec 16 := 0
  deriving DecidableEq, Repr, Inhabited

structure CLine where
  state : CState
  line : Line
  deriving DecidableEq, Repr, Inhabited

/-- A directory entry that is not I (R280): S with its holders (and whether they are a coarse vector of groups of 8), or E. -/
inductive Dir where
  | shared (holders : List Nat) (coarse : Bool)
  | excl (k : Nat)
  deriving DecidableEq, Repr, Inhabited

/-- A request to a home (Table 8.2); `k` is a cache number, `port` a requester number of Table 8.3. -/
inductive CReq where
  | readShared (k : Nat)
  | readUnique (k : Nat)
  | upgrade (k : Nat)
  | writeBack (k : Nat)
  | cleanEvict (k : Nat)
  | eRead (port : Nat)
  | eWrite (port : Nat) (data : BitVec 1024)
  | eMasked (port : Nat) (data : BitVec 1024) (mask : BitVec 128)
  | eAtomic (port off size : Nat) (op : AtomOp) (v : W64)
  /-- The home's own request that frees a way of a full directory set (R282). -/
  | backInval
  deriving DecidableEq, Repr, Inhabited

/-- A transaction accepted by a home (R283, R284). -/
structure Txn where
  line : Nat
  req : CReq
  started : Bool := false
  /-- Caches whose snoop response has not arrived. -/
  waits : List Nat := []
  /-- The line that a holder sent directly to the requester, and whether it was dirty. -/
  fwd : Option (Line × Bool) := none
  /-- It was accepted into the requester's retry credit (R291). -/
  credit : Bool := false
  deriving DecidableEq, Repr, Inhabited

/-- A request answered with RETRY and waiting for GRANT (R289, R290). -/
structure Retried where
  line : Nat
  req : CReq
  /-- The hart whose deferral of R256 caused the RETRY. -/
  deferrer : Option Nat := none
  deriving DecidableEq, Repr, Inhabited

/-- State of a DRAM channel or package (Table 9.2). -/
inductive ChState where
  | inService | retraining | test | mappedOut
  deriving DecidableEq, Repr, Inhabited

/-- An HBM channel, or an LPDDR5X package in its place (R305, R309). -/
structure Channel where
  state : ChState := .inService
  pending : Bool := false
  outCause : Nat := 0
  /-- Frets of its uncorrectable errors within the last 2^16 frets. -/
  errors : List Nat := []
  deriving DecidableEq, Repr, Inhabited

/-- A channel group (0 to 7 HBM, 8 LPDDR5X) as last built (R301, R307). -/
structure ChGroup where
  live : List Nat
  pending : Bool := false
  rebuilding : Bool := false
  deriving DecidableEq, Repr, Inhabited

/-- A piece of a store that has retired and is not yet performed (R244, R253). -/
structure HeldStore where
  addr : Nat
  size : Nat
  value : W64
  deriving DecidableEq, Repr, Inhabited

/-- What a hart waits for. -/
inductive HWait where
  | none
  /-- A line of its cache (the miss), for the access named. -/
  | line (n : Nat) (unique : Bool)
  /-- A remote or outbound answer with this tag. -/
  | answer (tag : Nat)
  /-- The acknowledgements of its posted writes (a FENCE or release). -/
  | acks
  /-- The drain of its write-combining buffer, with which the entry into a trap is complete (R251): the cause and the trap value. -/
  | trap (cause tval : Nat)
  /-- The line of the first instruction of a core that was released (R277). -/
  | fetch (line : Nat)
  deriving DecidableEq, Repr, Inhabited

end Sys2Proof.Machine
end

