-- ==== Sys2Proof/Machine/Formats.lean ====
section
/-!
DEFINITION. Number formats, rounding and FP32 arithmetic (chapter 2).  Every value is exact, a special value or
`± m * 2^e`; the only rounding is `roundFmt` (R74, R76).
-/
namespace Sys2Proof.Machine

/-- A value: NaN, an infinity, or `± m * 2^e`, where zero keeps its sign. -/
inductive FVal where
  | nan
  | inf (neg : Bool)
  | fin (neg : Bool) (m : Nat) (e : Int)
  deriving DecidableEq, Repr, Inhabited

/-- A floating-point format: mantissa, exponent and total width, bias, and whether the top exponent is Inf and NaN. -/
structure FloatFmt where
  mant : Nat
  exp : Nat
  bias : Nat
  ieee : Bool
  deriving DecidableEq, Repr

/-- The floating-point formats of Table 2.1, MX element types included. -/
def floatFmt (f : Nat) : Option FloatFmt :=
  match f with
  | 0x00 => some ⟨23, 8, 127, true⟩
  | 0x01 => some ⟨7, 8, 127, true⟩
  | 0x02 => some ⟨10, 5, 15, true⟩
  | 0x03 | 0x0A => some ⟨2, 5, 15, true⟩
  | 0x04 | 0x0B => some ⟨3, 4, 7, false⟩
  | 0x05 | 0x0C => some ⟨2, 3, 3, false⟩
  | 0x06 | 0x0D => some ⟨3, 2, 1, false⟩
  | 0x07 | 0x0E => some ⟨1, 2, 1, false⟩
  | _ => none

/-- Element width in bits (Table 2.1); 0 for a reserved code. -/
def fmtWidth (f : Nat) : Nat :=
  match f with
  | 0x00 | 0x10 => 32
  | 0x01 | 0x02 => 16
  | 0x03 | 0x04 | 0x08 | 0x0A | 0x0B | 0x0F => 8
  | 0x05 | 0x06 | 0x0C | 0x0D => 6
  | 0x07 | 0x09 | 0x0E => 4
  | 0x11 => 256
  | _ => 0

/-- The MX formats (R53). -/
def isMx (f : Nat) : Bool := decide (0x0A ≤ f ∧ f ≤ 0x0F)

/-- The integer formats. -/
def isInt (f : Nat) : Bool := f == 0x08 || f == 0x09 || f == 0x0F || f == 0x10

/-- A two's-complement number of `w` bits. -/
def signed (w n : Nat) : Int := if n % 2 ^ w < 2 ^ (w - 1) then (n % 2 ^ w : Nat) else (n % 2 ^ w : Nat) - (2 ^ w : Int)

/-- The `w`-bit two's complement of an integer. -/
def unsigned (w : Nat) (i : Int) : Nat := (i % (2 ^ w : Int)).toNat

/-- An integer times a power of two. -/
def FVal.ofInt (n e : Int) : FVal := .fin (n < 0) n.natAbs e

/-- The value of an encoding (R50, Table 2.2); an MX element without its scale. -/
def decodeFmt (f w : Nat) : FVal :=
  match floatFmt f with
  | none => if f = 0x0F then .ofInt (signed 8 w) (-6) else .ofInt (signed (fmtWidth f) w) 0
  | some p =>
    let m := w % 2 ^ p.mant
    let e := (w >>> p.mant) % 2 ^ p.exp
    let neg := (w >>> (p.mant + p.exp)) % 2 == 1
    if p.ieee && e == 2 ^ p.exp - 1 then (if m = 0 then .inf neg else .nan)
    else if (f == 0x04 || f == 0x0B) && e == 15 && m == 7 then .nan
    else if e = 0 then .fin neg m (1 - p.bias - p.mant)
    else .fin neg (2 ^ p.mant + m) ((e : Int) - p.bias - p.mant)

/-- The canonical NaN (Table 2.7), and the encoding that a format without a NaN takes for one (Tables 2.6 and 4.11). -/
def canonNan (f : Nat) : Nat :=
  match f with
  | 0x00 => 0x7FC00000
  | 0x01 => 0x7FC0
  | 0x02 => 0x7E00
  | 0x03 | 0x0A => 0x7E
  | 0x04 | 0x0B => 0x7F
  | _ => 0

/-- Bits of a number: 0 for 0. -/
def bitLen (n : Nat) : Nat := if n = 0 then 0 else n.log2 + 1

/-- `n * 2^k` rounded to nearest, ties to even, and whether a non-zero bit was discarded (R66). -/
def shiftRne (n k : Int) : Int × Bool :=
  if 0 ≤ k then (n * 2 ^ k.toNat, false)
  else
    let d := (-k).toNat
    let t := n >>> d
    let r := n - t * 2 ^ d
    let up := decide (2 ^ d < 2 * r) || (decide (2 * r = 2 ^ d) && decide (t % 2 = 1))
    (if up then t + 1 else t, decide (r ≠ 0))

/-- `m * 2^e` as a multiple of `2^u`, with `rnd` none for nearest even and `some r` for the stochastic bits of R76. -/
def roundAt (rnd : Option Nat) (m : Nat) (e u : Int) : Nat :=
  if u ≤ e then m <<< (e - u).toNat
  else
    let d := (u - e).toNat
    let t := m >>> d
    let rest := m - t <<< d
    match rnd with
    | none => if 2 ^ d < 2 * rest ∨ (2 * rest = 2 ^ d ∧ t % 2 = 1) then t + 1 else t
    | some r => if 2 ^ 32 ≤ (rest <<< 32) >>> d + r then t + 1 else t

/-- `m1 * 2^e1 ≤ m2 * 2^e2`. -/
def leDy (m1 : Nat) (e1 : Int) (m2 : Nat) (e2 : Int) : Bool :=
  let e := min e1 e2
  decide (m1 <<< (e1 - e).toNat ≤ m2 <<< (e2 - e).toNat)

/-- The sign bit of a format of the given width. -/
def signBit (w : Nat) (neg : Bool) : Nat := if neg then 2 ^ (w - 1) else 0

/-- Largest finite magnitude of a float format as `m * 2^e`, with its encoding. -/
def maxFinite (f : Nat) (p : FloatFmt) : Nat × Int × Nat :=
  if p.ieee then
    (2 ^ (p.mant + 1) - 1, (2 ^ p.exp - 2 : Int) - p.bias - p.mant, (2 ^ p.exp - 2) * 2 ^ p.mant + (2 ^ p.mant - 1))
  else if f = 0x04 ∨ f = 0x0B then (14, 5, 0x7E)
  else (2 ^ (p.mant + 1) - 1, (2 ^ p.exp - 1 : Int) - p.bias - p.mant, 2 ^ (p.exp + p.mant) - 1)

/-- The result for an infinity, or an overflow when `big` (Tables 2.6 and 4.11). -/
def specialInf (f : Nat) (p : FloatFmt) (sat big neg : Bool) : Nat :=
  let w := 1 + p.exp + p.mant
  let top := (maxFinite f p).2.2
  if p.ieee then signBit w neg + (if big && sat then top else (2 ^ p.exp - 1) * 2 ^ p.mant)
  else if f = 0x04 ∨ f = 0x0B then (if sat then signBit w neg + top else 0x7F)
  else signBit w neg + top

/-- An integer saturated to `w` bits. -/
def satInt (w : Nat) (i : Int) : Nat :=
  unsigned w (max (-(2 ^ (w - 1) : Int)) (min (2 ^ (w - 1) - 1 : Int) i))

/-- Rounding and conversion to a format (R74 to R76, R173, Tables 2.6 and 4.11). MXINT8 elements are integers * 2^-6. A value
overflows from the bound of R74 on, in E4M3 from 464 (DESIGN CHOICE, log 114: the text after Table 2.9 says 449). -/
def roundFmt (f : Nat) (rnd : Option Nat) (sat : Bool) (v : FVal) : Nat :=
  match floatFmt f with
  | none =>
    let w := fmtWidth f
    let u : Int := if f = 0x0F then -6 else 0
    match v with
    | .nan => 0
    | .inf neg => satInt w (if neg then -(2 ^ w : Int) else 2 ^ w)
    | .fin neg m e =>
      let t : Int := roundAt rnd m e u
      satInt w (if neg then -t else t)
  | some p =>
    let w := 1 + p.exp + p.mant
    match v with
    | .nan => canonNan f
    | .inf neg => specialInf f p sat false neg
    | .fin neg m e =>
      if m = 0 then signBit w neg
      else
        let emin : Int := 1 - p.bias - p.mant
        let u := max (e + bitLen m - 1 - p.mant) emin
        let t := roundAt rnd m e u
        let (mm, me, _) := maxFinite f p
        -- the largest finite value plus half its unit in the last place
        let big := !leDy t u mm me || (rnd.isNone && leDy (2 * mm + 1) (me - 1) m e)
        if big then specialInf f p sat true neg
        else if t = 0 then signBit w neg
        else
          let l := bitLen t
          if l ≤ p.mant then signBit w neg + t
          else
            let field := (u + l - 1 + p.bias).toNat
            signBit w neg + field * 2 ^ p.mant + ((t <<< p.mant) >>> (l - 1) - 2 ^ p.mant)

/-- The 32 bits of stochastic rounding (R77). -/
def srBits (seed : W64) (m n : Nat) : Nat :=
  let z := seed + (w64 ((m % 2 ^ 32) * 2 ^ 32 + n % 2 ^ 32) + 1) * 0x9E3779B97F4A7C15#64
  let z := (z ^^^ (z >>> 30)) * 0xBF58476D1CE4E5B9#64
  let z := (z ^^^ (z >>> 27)) * 0x94D049BB133111EB#64
  let z := z ^^^ (z >>> 31)
  (z >>> 32).toNat

/-! ### Exact operations on values -/

/-- The signed mantissa of a finite value at exponent `e`. -/
def FVal.intAt (neg : Bool) (m : Nat) (e0 e : Int) : Int :=
  let k : Int := m * 2 ^ (e0 - e).toNat
  if neg then -k else k

/-- Negation; a NaN has no sign. -/
def FVal.neg : FVal → FVal
  | .nan => .nan
  | .inf s => .inf !s
  | .fin s m e => .fin (!s) m e

/-- The exact sum; a zero sum is +0 unless both operands are -0 (IEEE 754). -/
def FVal.add : FVal → FVal → FVal
  | .nan, _ | _, .nan => .nan
  | .inf a, .inf b => if a = b then .inf a else .nan
  | .inf a, _ => .inf a
  | _, .inf b => .inf b
  | .fin s m e, .fin s' m' e' =>
    if m = 0 ∧ m' = 0 then .fin (s && s') 0 0
    else
      let x := min e e'
      .ofInt (FVal.intAt s m e x + FVal.intAt s' m' e' x) x

/-- The exact product. -/
def FVal.mul : FVal → FVal → FVal
  | .nan, _ | _, .nan => .nan
  | .inf a, .inf b => .inf (a != b)
  | .inf a, .fin s m _ => if m = 0 then .nan else .inf (a != s)
  | .fin s m _, .inf b => if m = 0 then .nan else .inf (s != b)
  | .fin s m e, .fin s' m' e' => .fin (s != s') (m * m') (e + e')

/-- A quotient with a sticky last bit, exact enough for one rounding to FP32. -/
def FVal.div : FVal → FVal → FVal
  | .nan, _ | _, .nan => .nan
  | .inf _, .inf _ => .nan
  | .inf a, .fin s _ _ => .inf (a != s)
  | .fin s _ _, .inf b => .fin (s != b) 0 0
  | .fin s m e, .fin s' m' e' =>
    if m' = 0 then (if m = 0 then .nan else .inf (s != s'))
    else if m = 0 then .fin (s != s') 0 0
    else
      let k := bitLen m' + 32
      let q := (m <<< k) / m'
      let r := (m <<< k) % m'
      .fin (s != s') (2 * q + (if r = 0 then 0 else 1)) (e - e' - k - 1)

/-- The integer square root, bit by bit from bit `k`. -/
def isqrt (n : Nat) : Nat → Nat → Nat
  | 0, r => if (r + 1) * (r + 1) ≤ n then r + 1 else r
  | k + 1, r => isqrt n k (if (r + 2 ^ (k + 1)) * (r + 2 ^ (k + 1)) ≤ n then r + 2 ^ (k + 1) else r)

/-- A square root with a sticky last bit; -0 gives -0, a negative value NaN. -/
def FVal.sqrt : FVal → FVal
  | .nan => .nan
  | .inf neg => if neg then .nan else .inf false
  | .fin s m e =>
    if m = 0 then .fin s 0 0
    else if s then .nan
    else
      let m1 := if e % 2 = 0 then m else 2 * m
      let e1 := if e % 2 = 0 then e else e - 1
      let n := m1 <<< 64
      let r := isqrt n (bitLen n / 2 + 1) 0
      .fin false (2 * r + (if r * r = n then 0 else 1)) ((e1 - 64) / 2 - 1)

/-- `a < b` for values that are not NaN; the two zeros are equal. -/
def FVal.lt : FVal → FVal → Bool
  | .inf a, .inf b => a && !b
  | .inf a, _ => a
  | _, .inf b => !b
  | .fin s m e, .fin s' m' e' =>
    let x := min e e'
    decide (FVal.intAt s m e x < FVal.intAt s' m' e' x)
  | _, _ => false

/-! ### FP32 arithmetic with round-to-nearest-even, on encodings -/

def dec32 (w : Nat) : FVal := decodeFmt 0 w
def enc32 (v : FVal) : Nat := roundFmt 0 none false v
def fadd (a b : Nat) : Nat := enc32 ((dec32 a).add (dec32 b))
def fmul (a b : Nat) : Nat := enc32 ((dec32 a).mul (dec32 b))

/-- MIN and MAX of R167. -/
def fminmax (isMax : Bool) (a b : Nat) : Nat :=
  match dec32 a, dec32 b with
  | .nan, _ | _, .nan => canonNan 0
  | x, y =>
    let pick := if x.lt y then (if isMax then b else a) else if y.lt x then (if isMax then a else b)
      -- equal values: of the zeros, MIN takes -0 and MAX +0
      else if isMax then min a b else max a b
    pick

/-- An FP32 sum in order, from its first element: the rules name no starting value, which would decide the sign of a sum of -0 (DESIGN
CHOICE, log 166). -/
def fsum : List Nat → Nat
  | [] => 0
  | x :: xs => xs.foldl fadd x

/-- Adjacent pairs added: one level of the tree of R70. -/
def treeLevel : List Nat → List Nat
  | a :: b :: rest => fadd a b :: treeLevel rest
  | l => l

/-- The balanced tree over `2^k` positions (R70, R168). -/
def tree : Nat → List Nat → Nat
  | 0, l => l.headD 0
  | k + 1, l => tree k (treeLevel l)

/-- A list padded with +0 to `n` positions. -/
def padTo (n : Nat) (l : List Nat) : List Nat := l.take n ++ List.replicate (n - l.length) 0

/-! ### Accumulators (R59 to R68) -/

/-- A value fits in ACC. -/
def fits160 (i : Int) : Bool := decide (-(2 ^ 159 : Int) ≤ i ∧ i < 2 ^ 159)

/-- What the 160-bit ACC holds after an exact sum (R59): the sum where it fits, and a free value where it does not (log 124). -/
def acc160 (n : Int) : Int := if fits160 n then n else signed 160 (Config.accOverflow n)

/-- The frame that a 16-bit ANCHOR names; one outside it is a free value (log 124). -/
def anchor16 (x : Int) : Int := if -(2 ^ 15 : Int) ≤ x ∧ x < 2 ^ 15 then x else signed 16 (Config.accOverflow x)

/-- The flags of R62 with POS_INF and NEG_INF together turned into NAN. -/
def Acc.fixFlags (a : Acc) : Acc := if a.pos && a.neg then { a with nan := true } else a

/-- add_to_accumulator for an unscaled chain (R61): ACC is in units of 2^-80. -/
def Acc.addSeg (a : Acc) (g : Seg) : Acc :=
  Acc.fixFlags { a with acc := acc160 (a.acc + (shiftRne g.n (g.e + 80)).1), nan := a.nan || g.nan, pos := a.pos || g.pos,
                        neg := a.neg || g.neg }

/-- add_to_accumulator for an MX chain: anchor, window, below and above (R64 to R68).  A seed without an anchor whose ACC is not zero keeps
it, in the frame of the first segment, or of anchor 0 when it is drained without one (DESIGN CHOICE, log 116). -/
def Acc.addMx (a : Acc) (g : Seg) : Acc :=
  let a := Acc.fixFlags { a with nan := a.nan || g.nan, pos := a.pos || g.pos, neg := a.neg || g.neg }
  if g.n = 0 then a
  else
    let x0 := a.anchor.getD g.x
    if g.x ≤ x0 + 31 then
      let (t, lost) := shiftRne g.n (g.e + g.x - x0 + 80)
      { a with acc := acc160 (a.acc + t), anchor := some x0, inexact := a.inexact || lost }
    else
      let x1 := g.x - 31
      let (acc, lost) := shiftRne a.acc (x0 - x1)
      { a with acc := acc160 (acc + (shiftRne g.n (g.e + g.x - x1 + 80)).1), anchor := some x1, inexact := a.inexact || lost }

/-- The empty accumulator of an entry kind (Table 2.9). -/
def Acc.empty (k : Kind) : Acc :=
  match k with
  | .min => { pos := true }
  | .max => { neg := true }
  | _ => {}

/-- `a` beats `b` under MIN (or MAX) by value alone; neither is NaN. -/
def Acc.beats (isMin : Bool) (a b : Acc) : Bool :=
  let r (x : Acc) : Int := if x.pos then 1 else if x.neg then -1 else 0
  let lt (x y : Acc) : Bool := decide (r x < r y) || (r x == r y && decide (x.acc < y.acc))
  if isMin then lt a b else lt b a

/-- The winner of R84 to R86: NaN first, then the better value; equals take the lower index, and a result equal to the
empty result carries 0xFFFF (R85). Counts add; the index stays valid only if both are (R105). -/
def Acc.combineMinMax (isMin : Bool) (a b : Acc) : Acc :=
  let win : Acc :=
    if a.nan && b.nan then { a with index := min a.index b.index }
    else if a.nan then a
    else if b.nan then b
    else if a.beats isMin b then a
    else if b.beats isMin a then b
    else { a with index := min a.index b.index }
  let lost := !win.nan && (if isMin then win.pos else win.neg)
  { win with index := if lost then 0xFFFF else win.index, count := a.count + b.count,
             inexact := a.inexact || b.inexact, indexed := a.indexed && b.indexed }

/-- The exact value a chain drains (R59, R62, R63, R71, R542). A BF16 accumulator that holds -0 drains -0 (DESIGN CHOICE, log
115: the zero of R63 is that of the exact modes). -/
def Acc.value (k : Kind) (a : Acc) : FVal :=
  if k = .bf16 then dec32 a.a
  else if a.nan then .nan
  else if a.pos then .inf false
  else if a.neg then .inf true
  else .ofInt a.acc ((a.anchor.getD 0) - 80)

/-! ### RAW records (Table 2.8, R78, R542) -/

/-- A decoded RAW record. -/
structure Raw where
  kind : Nat
  scaled : Bool
  anchored : Bool
  acc : Acc
  /-- Its reserved fields are zero. -/
  clean : Bool
  deriving DecidableEq, Repr, Inhabited

/-- The fields of a 256-bit record. -/
def Raw.decode (w : Nat) : Raw :=
  let f := w >>> 176
  let anch := signed 16 (w >>> 160)
  { kind := (w >>> 184) % 256, scaled := (f >>> 4) % 2 == 1, anchored := (f >>> 5) % 2 == 1,
    acc := { acc := signed 160 w, anchor := if (f >>> 5) % 2 = 1 then some anch else none,
             nan := f % 2 == 1, pos := (f >>> 1) % 2 == 1, neg := (f >>> 2) % 2 == 1, inexact := (f >>> 3) % 2 == 1,
             index := (w >>> 224) % 2 ^ 16, count := (w >>> 192) % 2 ^ 32 },
    clean := (f >>> 6) % 4 == 0 && (w >>> 240) % 2 ^ 16 == 0 && ((f >>> 5) % 2 == 1 || anch == 0) }

/-- The validity of R78. -/
def Raw.valid (r : Raw) : Bool :=
  r.clean && decide (r.kind ≤ 2) && (r.kind == 0 || !r.scaled) && (r.scaled || !r.anchored) &&
  (r.kind != 0 || r.acc.index == 0xFFFF) &&
  (r.kind == 0 || (decide (r.acc.nan.toNat + r.acc.pos.toNat + r.acc.neg.toNat ≤ 1) &&
    (r.acc.acc == 0 || !(r.acc.nan || r.acc.pos || r.acc.neg))))

/-- The 256-bit encoding of an accumulator of a kind. -/
def Raw.encode (kind : Nat) (scaled : Bool) (a : Acc) : Nat :=
  let flags := a.nan.toNat + 2 * a.pos.toNat + 4 * a.neg.toNat + 8 * a.inexact.toNat + 16 * scaled.toNat +
    32 * a.anchor.isSome.toNat
  unsigned 160 a.acc + unsigned 16 (a.anchor.getD 0) <<< 160 + flags <<< 176 + kind <<< 184 +
    (a.count % 2 ^ 32) <<< 192 + a.index <<< 224

/-- The record of a chain of an entry kind; a NaN or infinite MIN or MAX result holds ACC zero (R542), and the index
reads 0xFFFF where it is not valid (R105) or the kind carries none. -/
def Acc.toRaw (k : Kind) (a : Acc) : Nat :=
  match k with
  | .scaledSum => Raw.encode 0 true { a with index := 0xFFFF }
  | .min | .max =>
    let a := if a.nan then { a with acc := 0, pos := false, neg := false } else a
    let a := if a.pos || a.neg then { a with acc := 0 } else a
    Raw.encode (if k = .min then 1 else 2) false { a with anchor := none, index := if a.indexed then a.index else 0xFFFF }
  | _ => Raw.encode 0 false { a with anchor := none, index := 0xFFFF }

/-- The entry kind of a valid record (R78). -/
def Raw.entryKind (r : Raw) : Kind :=
  if r.kind = 1 then .min else if r.kind = 2 then .max else if r.scaled then .scaledSum else .sum

/-- How many places up the lowest frame lies in which the rounded value fits (R79): none below `bitLen - 160`, and at most two
places above that. -/
def fitFrame (n : Int) : Nat :=
  let d := bitLen n.natAbs - 160
  if fits160 (shiftRne n (-(d : Int))).1 then d else if fits160 (shiftRne n (-(d + 1 : Nat))).1 then d + 1 else d + 2

/-- The exact sum of two scaled accumulators (R79). A record that is not anchored adds its ACC only to another one that is not
(DESIGN CHOICE, log 116: R64 says that it is zero, and R78 admits one that is not). -/
def addScaled (a b : Acc) : Int × Option Int × Bool :=
  match a.anchor, b.anchor with
  | none, none => (acc160 (a.acc + b.acc), none, false)
  | some x, none => (a.acc, some x, false)
  | none, some x => (b.acc, some x, false)
  | some x, some y =>
    let lo := min x y
    let n := a.acc * 2 ^ (x - lo).toNat + b.acc * 2 ^ (y - lo).toNat
    let d := fitFrame n
    ((shiftRne n (-(d : Int))).1, some (anchor16 (lo + d)), (shiftRne n (-(d : Int))).2)

/-- The combination of two records (R79): a status, and the combined record where it is OK. Records that are not combined give
FORMAT whatever the sum of their counts (DESIGN CHOICE, log 117). -/
def rawCombine (wa wb : Nat) : Nat × Nat :=
  let a := Raw.decode wa
  let b := Raw.decode wb
  if !a.valid || !b.valid || a.kind != b.kind || a.scaled != b.scaled then (stFORMAT, 0)
  else if 0xFFFFFFFF < a.acc.count + b.acc.count then (stRANGE, 0)
  else if a.kind = 0 then
    let (acc, anchor, lost) := if a.scaled then addScaled a.acc b.acc else (acc160 (a.acc.acc + b.acc.acc), none, false)
    let r := Acc.fixFlags { acc := acc, anchor := anchor, nan := a.acc.nan || b.acc.nan, pos := a.acc.pos || b.acc.pos,
                            neg := a.acc.neg || b.acc.neg, inexact := a.acc.inexact || b.acc.inexact || lost,
                            count := a.acc.count + b.acc.count, index := 0xFFFF }
    (stOK, Raw.encode 0 a.scaled r)
  else
    let r := a.acc.combineMinMax (a.kind == 1) b.acc
    (stOK, Raw.encode a.kind false { r with anchor := none })

/-- The output of one result (R73 to R77): FP or INT32 under the rounding selected, or RAW. -/
def drainOne (k : Kind) (fmt : Nat) (rnd : Option Nat) (sat : Bool) (a : Acc) : Nat :=
  if fmt = 0x11 then a.toRaw k else roundFmt fmt rnd sat (a.value k)

end Sys2Proof.Machine
end

