-- ==== Sys2Proof/Machine/Types2.lean ====
section
/-!
DEFINITION. The types of the harts, of requests that leave the module, and of the host ports (chapters 4, 7 and 12).
-/
namespace Sys2Proof.Machine

/-! ### Requests that leave the module (R246, R265, R270) -/

/-- Who awaits the answer of a request that left the module. -/
inductive Origin where
  /-- A hart: its load, AMO or I/O-class store. -/
  | hart (h : Nat)
  /-- A write-combining entry of a hart. -/
  | wc (h : Nat)
  /-- The DMA channel, at the transfer offset `off` of descriptor `seq`. -/
  | dma (r c seq off : Nat)
  /-- A gather-scatter command of a block. -/
  | gs (b seq : Nat)
  /-- A KIND 2 watch of region `r`. -/
  | watch (r : Nat)
  /-- A KIND 2 watch that function `f` of host port `r` armed (R407). -/
  | hostWatch (r f : Nat)
  /-- An abort notice of a collective channel. -/
  | coll (r c : Nat)
  /-- The kiln's ring. -/
  | kiln (r : Nat)
  /-- A request of module `src` that this module passes on to its T5 window: the tag and meter tag of its packet. -/
  | fabric (src tag meter : Nat)
  deriving DecidableEq, Repr, Inhabited

/-- Where a request goes: to another module, to the external host or devices through host port `p` (T5), or to the expanders below
root port `p` (T4): a write there is done at its home, and acknowledged when its CXL.mem completion returns (R264). -/
inductive OutDest where
  | module (m : Nat)
  | host (p : Nat)
  | t4 (p : Nat)
  deriving DecidableEq, Repr, Inhabited

/-- A request on its way, until it is answered or discarded. -/
structure OutReq where
  tag : Nat
  origin : Origin
  dest : OutDest
  /-- Opcode of Table 10.4: 1 READ, 2 WRITE, 3 MASKED_WRITE, 4 ATOMIC, 5 PEG_OP. -/
  op : Nat
  /-- Address at the destination: module physical address (also for T4), or host bus address. -/
  addr : Nat
  len : Nat := 8
  data : List Byte := []
  mask : Nat := 0
  aux : W64 := 0
  ordered : Bool := false
  /-- RGEN under which it was injected. -/
  gen : Bool := false
  /-- The address that the requesting hart's instruction named, or the row of a gather-scatter write; and whether the hart
  sign-extends the result. -/
  va : Nat := 0
  signed : Bool := false
  meterTag : Nat := 0
  deriving DecidableEq, Repr, Inhabited

/-- The request writes, and no data returns. -/
def OutReq.posted (q : OutReq) : Bool := q.op == 2 || q.op == 3 || (q.op == 5 && q.aux.toNat / 256 % 2 == 1)

/-- The request is a load (else an AMO, where it is not posted). -/
def OutReq.loads (q : OutReq) : Bool := q.op == 1 || (q.op == 5 && q.aux.toNat % 256 == 0)

/-- An answer that an engine has not taken yet: a read's data, or the failure of a read. -/
structure Answer where
  origin : Origin
  tag : Nat
  status : Nat
  data : List Byte
  deriving DecidableEq, Repr, Inhabited

/-! ### Harts -/

/-- A write-combining entry (R250): its line, here or at `dest`, the bytes written and the mask of them. -/
structure WcEntry where
  dest : Option OutDest := none
  line : Nat
  data : BitVec 1024
  mask : BitVec 128
  deriving DecidableEq, Repr, Inhabited

/-- The privilege modes of the RISC-V Privileged ISA (Table 0.1). -/
inductive Priv where
  | user | supervisor | machine
  deriving DecidableEq, Repr, Inhabited

/-- A hart: its RISC-V state, and what the memory model needs. -/
structure Hart where
  pc : W64 := 0
  mtvec : W64 := 0
  mepc : W64 := 0
  mcause : W64 := 0
  mtval : W64 := 0
  /-- The privilege mode, and the other control and status registers by number; an unlisted one reads its reset value. -/
  priv : Priv := .machine
  csrs : Map Nat W64 := []
  /-- Sequencer: a trap has been entered and not returned from (R146). -/
  inTrap : Bool := false
  /-- Core: what the events that entered its queue since it was last empty made pending: machine mode or supervisor mode, and EIID
  (R236). -/
  eiids : List (Bool × Nat) := []
  /-- In WFI, its clock gated (R151, Table 4.16). -/
  wfi : Bool := false
  /-- Instructions retired (minstret). -/
  instret : Nat := 0
  /-- The value that the last completed load, AMO, LR or SC wrote to its destination register. -/
  result : W64 := 0
  wait : HWait := .none
  /-- Retired memory-class stores that are not yet visible, oldest first (R244). -/
  stores : List HeldStore := []
  /-- The write-combining buffer, oldest entry first (R250). -/
  wc : List WcEntry := []
  /-- Sequencer data cache: consecutive store misses, the next line, streaming mode and its combining buffer (R151). -/
  missLine : Option Nat := none
  missRun : Nat := 0
  nextLine : Nat := 0
  streaming : Bool := false
  combine : Option WcEntry := none
  /-- Core: offline, and failed its fleet pack (R491, R492). -/
  offline : Bool := false
  packFail : Bool := false
  deriving DecidableEq, Repr, Inhabited

/-! ### The DMA engine (chapter 5) -/

/-- States of a DMA channel (Table 5.5). -/
inductive DmaState where
  | disabled | idle | active | waitDesc | pausing | paused | error
  deriving DecidableEq, Repr, Inhabited

/-- A started descriptor that is not completed. -/
structure Desc where
  seq : Nat
  word : BitVec 512
  target : Target := .free
  /-- Next transfer offset to issue. -/
  off : Nat := 0
  status : Option Nat := none
  detail : W64 := 0
  /-- DONE, once it is stopped. -/
  done : Nat := 0
  /-- Its write-back has been issued to a ring outside the module; it has faulted (R210). -/
  sent : Bool := false
  wbFault : Bool := false
  deriving DecidableEq, Repr, Inhabited

/-- A DMA channel; its control and configuration registers are plain registers. -/
structure DmaChan where
  state : DmaState := .disabled
  target : Option Nat := none
  fetchSeq : Nat := 0
  doneSeq : Nat := 0
  started : List Desc := []
  /-- Re-fetches made of the descriptor at FETCH_SEQ since its first fetch found it not valid. -/
  tries : Option Nat := none
  lastStatus : Nat := 0
  /-- ABORT found no descriptor to stop: ERROR is entered once those that are started are completed (Table 5.5). -/
  errAfter : Bool := false
  /-- The host that owns the channel is lost: LAST_STATUS reads HOST_LOST once the channel enters ERROR (Table 12.3). -/
  hostLost : Bool := false
  deriving DecidableEq, Repr, Inhabited

/-- The arbiter of a region's DMA reads (R194): the channel that holds the burst and the bytes left of it, and by priority level the
channel of the last grant with its bursts in this round, and the grants that a ready level has waited through. -/
structure Arb where
  holder : Option Nat := none
  left : Nat := 0
  round : Map Nat (Nat × Nat) := []
  waited : Map Nat Nat := []
  deriving DecidableEq, Repr, Inhabited

/-- A PAT command in progress: the words sampled when MGMT_PAT_CMD was written (R316). -/
structure PatCmd where
  cmd : W64
  d0 : W64
  d1 : W64
  d2 : W64
  deriving DecidableEq, Repr, Inhabited

/-! ### What leaves the module on its wires -/

/-- How an inbound non-posted request completes: Successful Completion, Unsupported Request, Completer Abort. -/
inductive Cpl where
  | success | unsupported | abort
  deriving DecidableEq, Repr, Inhabited

/-- A message that leaves the module; nothing inside the module reads it back. -/
inductive OutMsg where
  /-- MSI-X vector `vec` of function `f` through host port `r` (R407). -/
  | msix (r f vec : Nat)
  /-- The completion of an inbound non-posted request, `ep` the poisoned bit (R409, R422). -/
  | completion (r f : Nat) (status : Cpl) (ep : Bool) (data : List Byte)
  /-- A packet on port `k`, on a virtual channel. -/
  | packet (k vc : Nat) (p : Packet)
  /-- A request to the external host or its devices through host port `r`, for function `f` (T5). -/
  | hostReq (r f : Nat) (op addr len : Nat) (data : List Byte) (mask : Nat) (tag : Nat)
  | hello (k : Nat) (h : Hello)
  | elect (k : Nat) (key : LeaderKey) (hops : Nat)
  | report (k : Nat) (r : Report)
  | map (k : Nat) (m : MapSegment)
  | beat (k : Nat) (b : Beat)
  | join (k : Nat) (r : Report)
  | portEvent (k serial port oldState newState : Nat)
  | timeReq (k : Nat) (p : TimePkt)
  | timeResp (k : Nat) (p : TimePkt)
  /-- A LINK or RETRY_REQ flit (Table 10.2). -/
  | flit (k : Nat) (f : Flit)
  | resend (k seq : Nat)
  | sched (k : Nat) (f : SchedFlit)
  /-- Bytes that an I3C read returns, and an in-band interrupt with its mandatory byte. -/
  | i3c (bytes : List Byte)
  | ibi (mdb : Nat)
  deriving DecidableEq, Repr, Inhabited

/-! ### Host ports (chapter 12) -/

/-- STATE of HOST_EP_STATUS. -/
inductive EpState where
  | down | up | enabled | resetting
  deriving DecidableEq, Repr, Inhabited

/-- A link of a host port: sub-port `k` of a root role, or the endpoint's link as sub-port 0. -/
structure SubPort where
  /-- 0 Detect, 1 training, 2 L0, 3 Recovery. -/
  link : Nat := 0
  speed : Nat := 0
  width : Nat := 0
  cxl : Bool := false
  present : Bool := false
  recoveries : Nat := 0
  /-- Addresses decoded below a root port are reachable (R419). -/
  reachable : Bool := false
  /-- Bytes of the CXL Type 3 expander below a root port, 0 without one (R414). -/
  capacity : Nat := 0
  deriving DecidableEq, Repr, Inhabited

/-- A function of the endpoint (R403 to R422). -/
structure HostFn where
  memEnable : Bool := false
  busMaster : Bool := false
  bar2Log2 : Nat := 30
  /-- HOST_FN_BAR2_SLIDE. -/
  slide : W64 := 0
  deriving DecidableEq, Repr, Inhabited

/-- A host port. -/
structure HostPort where
  endpoint : Bool := false
  bifurc : Nat := 0
  cxlT2 : Bool := false
  totalVfs : Nat := 0
  /-- The BAR2 size of the image. -/
  bar2Log2 : Nat := 30
  subs : Map Nat SubPort := []
  ep : EpState := .down
  lossCause : Nat := 0
  lossCount : Nat := 0
  lossFret : Nat := 0
  fns : Map Nat HostFn := []
  deriving DecidableEq, Repr, Inhabited

/-- An entry of a host error log (Table 12.6) or, with `fn` the local port and `id` the module, of a fabric error log
(Table 10.11). -/
structure PortLog where
  status : Nat
  cause : Nat
  fn : Nat
  id : Nat
  fret : Nat
  addr : Nat
  deriving DecidableEq, Repr, Inhabited

end Sys2Proof.Machine
end

