-- ==== Sys2Proof/Machine/Types3.lean ====
section
/-!
DEFINITION. The types of the Chaind ports and of the module's place in a fabric (chapter 10).
-/
namespace Sys2Proof.Machine

/-- STATE of FAB_PORT_STATUS (Table 10.12). -/
inductive PortState where
  | disabled | training | identify | active | held | failed
  deriving DecidableEq, Repr, Inhabited

/-- What waits at a port or is kept for a resend: a message, the virtual channel of Table 10.3 and its flits. -/
structure TxItem where
  vc : Nat
  flits : Nat
  msg : OutMsg
  deriving DecidableEq, Repr, Inhabited

/-- A Chaind port. -/
structure Port where
  state : PortState := .disabled
  enabled : Bool := false
  heldCause : Nat := 0
  /-- WIDTH of Table 10.12. -/
  width : Nat := 0
  txGood : Nat := 0
  rxGood : Nat := 0
  reversed : Bool := false
  inverted : Nat := 0
  peerSerial : Nat := 0
  peerPort : Nat := 0
  peerModule : Nat := 0
  /-- Consecutive failed training attempts (R338). -/
  attempts : Nat := 0
  /-- The last HELLO of the peer. -/
  hello : Option Hello := none
  /-- The HELLO fields last sent (R347). -/
  sent : Option Hello := none
  /-- Transmit: waiting items, unacknowledged flits (SEQ and item), next SEQ. -/
  txq : List TxItem := []
  replay : List (Nat × TxItem) := []
  nextSeq : Nat := 0
  /-- Flit credits used of each channel's dedicated ones and of the shared pool (R343). -/
  used : Map Nat Nat := []
  usedShared : Nat := 0
  /-- Receive: the SEQ expected, the SEQ a RETRY_REQ has named and that has not arrived, and the flits buffered by channel. -/
  expect : Nat := 0
  retrying : Option Nat := none
  /-- RETRY_REQs sent for that SEQ; the SEQ last named by the peer's RETRY_REQs, and how many named it (R342). -/
  asks : Nat := 0
  asked : Option (Nat × Nat) := none
  held : Map Nat Nat := []
  /-- Time transfer (R371, R372): SEQ of the exchange and its t1, consecutive losses, FAB_PORT_TIME_OFFSET and _DELAY. -/
  timeSeq : Nat := 0
  /-- The mark (`State.markNs`) of the fret whose TIME_REQ has been sent. -/
  timeSent : Option Nat := none
  timeWait : Option (Nat × Nat) := none
  timeLost : Nat := 0
  /-- e of the last complete exchange in the present epoch (R372, R373). -/
  timeE : Option Int := none
  /-- How often a changed HELLO has taken it out of ACTIVE, also where its checks have passed and brought it back at once (Table 10.8). -/
  left : Nat := 0
  deriving DecidableEq, Repr, Inhabited

/-- A route table entry (Table 10.7). -/
structure RouteEntry where
  first : Nat
  last : Nat
  esc : Nat
  down : Nat
  adapt : Nat
  deriving DecidableEq, Repr, Inhabited

/-- The routing of one generation: TORUS or TABLE mode, the map it comes from, and a table that software loaded. -/
structure Routes where
  table : Bool := false
  version : Nat := 0
  leader : Nat := 0
  entries : List MapEntry := []
  loaded : Option (List RouteEntry) := none
  deriving DecidableEq, Repr, Inhabited

/-- The module in its fabric (R347 to R354, R364). -/
structure Fab where
  /-- Identity that the image and the fuses give: serial number, coordinates, torus sizes, plan digest, origin. -/
  serial : Nat := 0
  coord : Option (List Nat) := none
  torus : List Nat := []
  digest : Nat := 0
  origin : Bool := false
  bootCount : Nat := 0
  swRoutes : Bool := false
  /-- PHASE of FAB_DISC_STATUS. -/
  phase : Nat := 0
  best : LeaderKey := { cls := 2, serial := 0 }
  hops : Nat := 0
  parent : Option Nat := none
  children : List Nat := []
  reports : List Report := []
  settled : Bool := false
  lone : Bool := false
  dupOrigin : Bool := false
  sizeLimit : Bool := false
  leaderLost : Bool := false
  fabricId : W64 := 0
  leaderSerial : Nat := 0
  lastBeat : Nat := 0
  /-- Segments of the map version being received. -/
  segs : List MapSegment := []
  /-- The map held that takes effect at its switch fret. -/
  next : Option (Nat × Routes) := none
  /-- Later map versions, held behind it, oldest first. -/
  later : List (Nat × Routes) := []
  /-- The newest version held. -/
  version : Nat := 0
  rgen : Bool := false
  cur : Routes := {}
  old : Option Routes := none
  /-- Fret in which a packet of the old generation was last seen. -/
  oldSeen : Nat := 0
  /-- A table loaded for the next generation (R363). -/
  loaded : Option (List RouteEntry) := none
  /-- A load under way: address and count of its entries. -/
  loading : Option (Nat × Nat) := none
  /-- ORDERED packets that wait under R364, oldest first. -/
  waiting : List Packet := []
  deriving DecidableEq, Repr, Inhabited

/-! ### Fabric time and collectives (chapter 11) -/

/-- LOCK of FAB_TIME_STATUS. -/
inductive Lock where
  | unset | acquiring | locked | holdover
  deriving DecidableEq, Repr, Inhabited

/-- Fabric time (R371 to R377); e and EST in 1/16 ns. -/
structure Time where
  lock : Lock := .unset
  root : Bool := false
  alarm : Bool := false
  mismatch : Bool := false
  depth : Nat := 0
  e : Int := 0
  est : Int := 0
  /-- Consecutive exchanges with |e| at most 4 ns while ACQUIRING, above 4 ns while LOCKED, and good ones before adoption. -/
  good : Nat := 0
  bad : Nat := 0
  ready : Nat := 0
  /-- The epoch must be adopted from the parent (R373, R377). -/
  adopt : Bool := false
  /-- An epoch starts with the counter at 0 at the next mark: local or fabric (R37, R377). -/
  start : Option Bool := none
  /-- The parent port that was lost on entering HOLDOVER (R374). -/
  lostParent : Option Nat := none
  /-- Correction of the current fret's length, in 1/160 ns (R373). -/
  adjust : Int := 0
  deriving DecidableEq, Repr, Inhabited

/-- A strum entry (Table 11.3). -/
structure StrumEntry where
  step : Nat
  slot : Nat
  op : Nat
  port : Nat
  port2 : Nat
  len : Nat
  offset : Nat
  aux : Nat
  deriving DecidableEq, Repr, Inhabited

/-- The progress of one entry of a run. -/
structure EntryProgress where
  /-- Indices of the flits received. -/
  got : List Nat := []
  /-- Indices of the flits written, combined or sent on. -/
  put : List Nat := []
  /-- Flits that wait in the receive buffer, or for the slot in which they are sent on. -/
  waiting : List SchedFlit := []
  done : Bool := false
  deriving DecidableEq, Repr, Inhabited

/-- States of a collective channel (Table 11.8). -/
inductive CollState where
  | empty | loading | loaded | armed | running | stopping
  deriving DecidableEq, Repr, Inhabited

/-- A collective channel; its configuration registers are plain registers. -/
structure CollChan where
  state : CollState := .empty
  entries : List StrumEntry := []
  progress : Map Nat EntryProgress := []
  lastStatus : Nat := 0
  detail : W64 := 0
  stepsDone : Nat := 0
  /-- The status that ends a STOPPING run, and the one that the run has ended with and that is not yet written. -/
  stop : Option Nat := none
  ending : Option Nat := none
  /-- The first record rejected: status and buffer offset (R391). -/
  bad : Option (Nat × Nat) := none
  lost : Option Nat := none
  /-- Its first entries, which the region's hardware table holds (R386). -/
  inHw : Nat := 0
  deriving DecidableEq, Repr, Inhabited

/-! ### The kiln (chapter 13) -/

/-- A meter tag that is OPEN or CLOSING (R433 to R436). -/
structure MeterTag where
  home : Nat
  closing : Bool := false
  /-- Its record has been built. -/
  built : Bool := false
  /-- It holds a spilled accumulator, and one was used in some fret. -/
  spill : Bool := false
  spilled : Bool := false
  partSum : Bool := false
  owner : Nat := 0
  part : Nat := 0
  job : W64 := 0
  start : Nat := 0
  finish : Nat := 0
  reason : Nat := 0
  module : Nat := 0
  /-- Energy of classes 0 to 7, in u (R429). -/
  acc : List Nat := [0, 0, 0, 0, 0, 0, 0, 0]
  /-- What of it came since the last copy of the accumulators, in the INTERVAL record in progress (R438). -/
  fresh : List Nat := [0, 0, 0, 0, 0, 0, 0, 0]
  bisqueRows : Nat := 0
  misses : Nat := 0
  scale : Option (Nat × Nat) := none
  active : Nat := 0
  deriving DecidableEq, Repr, Inhabited

/-- The INTERVAL record in progress (R442). -/
structure Interval where
  /-- The first and the last fret covered, and how many there are. -/
  start : Nat := 0
  last : Nat := 0
  frets : Nat := 0
  input : Nat := 0
  unattr : Nat := 0
  attrib : List Nat := [0, 0, 0, 0, 0, 0, 0, 0]
  first : Bool := true
  gap : Bool := false
  deriving DecidableEq, Repr, Inhabited

/-- The kiln and its ledger. -/
structure Kiln where
  tags : Map Nat MeterTag := []
  /-- CLOSING tags whose records are not built, in the order in which their closes were accepted. -/
  closing : List Nat := []
  /-- The copies of R438: home region to (holder, fret, tags). -/
  copies : Map Nat (Nat × Nat × Map Nat MeterTag) := []
  /-- Next SEQ and the digest of the record before it. -/
  seq : Nat := 0
  prev : List Byte := []
  /-- Records built and not signed, and entries signed and not appended, by SEQ. -/
  waiting : List (Nat × List Byte) := []
  ready : Map Nat (List Byte) := []
  tokens : Nat := 8
  /-- Entries in the ledger by SEQ, oldest first; the SEQ to append next, to export next, and entries staged in the page. -/
  ledger : List (Nat × List Byte) := []
  nextAppend : Nat := 0
  nextExport : Nat := 0
  staged : Nat := 0
  interval : Interval := {}
  meterTotal : Nat := 0
  /-- Fret in which the input was last lost. -/
  lostFret : Option Nat := none
  /-- Kiln slices, and collective engines, that failed their packs (R492), by region. -/
  failed : List Nat := []
  collFailed : List Nat := []
  deriving DecidableEq, Repr, Inhabited

end Sys2Proof.Machine
end

