-- ==== Sys2Proof/Machine/Types4.lean ====
section
/-!
DEFINITION. The types of power management, of the die-to-die links and fleet packs, and of Uluell (chapters 14 to 16).
-/
namespace Sys2Proof.Machine

/-! ### Power (chapter 14) -/

/-- STATE of PWR_RAIL_STATUS (Table 14.14). -/
inductive RailState where
  | off | on | fault
  deriving DecidableEq, Repr, Inhabited

/-- A load rail (Table 14.14). -/
structure Rail where
  state : RailState := .off
  cause : Nat := 0
  fret : Nat := 0
  deriving DecidableEq, Repr, Inhabited

/-- A stepped domain of a region (R462, Table 14.12). -/
structure Domain where
  /-- A step has been set since reset: FREQ_MHZ and VOLT_MV read it. -/
  set : Bool := false
  /-- Step whose frequency is in force, and step whose voltage is set. -/
  step : Nat := 0
  volt : Nat := 0
  floor : Nat := 0
  cap : Nat := 0
  /-- The step chosen in the last exchange, for the next mark. -/
  next : Option Nat := none
  /-- A rise whose frequency change is still to come (R463). -/
  rising : Option Nat := none
  /-- The clock is stretched until the next mark, and the next exchange counts the present step (R469). -/
  stretched : Bool := false
  overCurrent : Bool := false
  /-- The domain's current at the last mark, in A. -/
  amps : Nat := 0
  /-- The hottest sensor of its die, and whether it is throttled (R471). -/
  celsius : Nat := 0
  throttled : Bool := false
  /-- The domain's share of the load budget after BOOT, in W (Table 14.4). -/
  budget : Nat := 0
  deriving DecidableEq, Repr, Inhabited

/-- The budget exchange and the throttle reasons of the package (R466 to R474). -/
structure Power where
  /-- Budget messages last received: region to P, F and D; the regions whose message of this mark has come; consecutive
  marks without one. -/
  budget : Map Nat (Nat × Nat × Nat) := []
  arrived : List Nat := []
  misses : Map Nat Nat := []
  missing : List Nat := []
  single : Bool := false
  singleNext : Bool := false
  floorBroken : Bool := false
  coolant : Bool := false
  consistency : Bool := false
  /-- Grants of the last exchange, by region. -/
  grants : Map Nat Nat := []
  /-- Throttle reasons of the fret in progress, and those that the grants in force from the next mark bring. -/
  reasons : List Nat := []
  coming : List Nat := []
  lastReasons : List Nat := []
  /-- Harts' places (blocks and cores) whose clocks are stretched by a droop (R470). -/
  drooping : List Nat := []
  /-- PWR_INPUT, kept by Uluell. -/
  input : W64 := 0
  /-- The input lies below 250 V or above 418 V, or its fuse is open. -/
  inputLost : Bool := true
  /-- The input has lain in its operating range, 260 to 410 V, for the last 100 ms (R454). -/
  steady : Bool := false
  /-- The input's voltage at the last mark, in 0.1 V: that of the fret before (R465). -/
  lastVolts : Nat := 0
  fuseOpen : Bool := false
  reversedSeen : Bool := false
  deriving DecidableEq, Repr, Inhabited

/-! ### Die-to-die links and fleet packs (chapter 15) -/

/-- A die-to-die link: 3 r + d to die d of region r, 12 + e the lateral edge from region e to e + 1. -/
structure Link where
  /-- Good lanes of each group of 64; a disabled group is 0. -/
  lanes : List W64 := []
  failed : Bool := false
  /-- Failed attempts of R495. -/
  attempts : Nat := 0
  /-- Lanes named by CRC errors in this fret, and lanes to be replaced at the next maintenance slot (R493). -/
  errors : Map Nat Nat := []
  repair : List Nat := []
  /-- Flits sent again after a CRC error (R24). -/
  resent : Nat := 0
  /-- Time of the last heartbeat (R496). -/
  lastBeat : Nat := 0
  deriving DecidableEq, Repr, Inhabited

/-- A cross-check mismatch that waits for a third block (R482): the pair, the seed, both digests and the fret. -/
structure Third where
  a : Nat
  b : Nat
  seed : Nat
  da : Nat
  db : Nat
  fret : Nat
  deriving DecidableEq, Repr, Inhabited

/-- The fleet packs of units (class, unit): runs in progress, and the fret of each unit's last run (R491). -/
structure Packs where
  running : List (Nat × Nat) := []
  last : Map (Nat × Nat) Nat := []
  deriving DecidableEq, Repr, Inhabited

/-! ### Uluell (chapter 16) -/

/-- The module states (Table 16.1). -/
inductive ModState where
  | off | aux | boot | configured | run | degraded | quiesce | halt
  deriving DecidableEq, Repr, Inhabited

/-- STATE of a mailbox slot (Table 16.8). -/
inductive SlotState where
  | idle | busy | done
  deriving DecidableEq, Repr, Inhabited

/-- An event (Table 16.11): CODE, the low 32 bits of the fret counter, DATA. -/
structure Event where
  code : Nat
  fret : Nat
  data : W64
  deriving DecidableEq, Repr, Inhabited

/-- A mailbox slot: its message buffer, and the queue of its events with the number dropped (R522). -/
structure Mailbox where
  state : SlotState := .idle
  buf : List Byte := []
  events : List Event := []
  dropped : Nat := 0
  deriving DecidableEq, Repr, Inhabited

/-- An accepted request, and its response once the command has been executed. -/
structure Request where
  slot : Slot
  msg : Msg
  answer : Option Msg := none
  deriving DecidableEq, Repr, Inhabited

/-- The answer of a mailbox command: status, payload, MORE and next OFFSET. -/
structure Reply where
  status : Nat
  payload : List Byte := []
  more : Bool := false
  offset : Nat := 0
  deriving DecidableEq, Repr, Inhabited

/-- A journal record (Table 16.7). -/
structure JRecord where
  key : Nat
  index : Nat
  op : Nat
  seq : Nat
  value : W64
  deriving DecidableEq, Repr, Inhabited

/-- Uluell, its flash and its mailbox. -/
structure Mgmt where
  state : ModState := .off
  bootStep : Nat := 0
  bootFault : Nat := 0
  /-- The slot selected at the last cold boot (0 A, 1 B), its SEQUENCE and values. -/
  imageSlot : Nat := 0
  image : Image := {}
  /-- Bytes of the image slots (absent: erased). -/
  flash : Map Nat (List Host.Cell) := []
  /-- The next boot starts at step 3. -/
  warm : Bool := false
  /-- Base dies' sensed identity: REGION, ROTATION, valid (R28). -/
  idents : Map Nat (Nat × Nat × Bool) := []
  /-- Boot step 6 is complete; step 7 has started. -/
  step6 : Bool := false
  step7 : Bool := false
  /-- The active journal half, its GENERATION and records. -/
  half : Nat := 0
  generation : Nat := 0
  journal : List JRecord := []
  nextRecord : Nat := 0
  /-- Versions of the packs in use (core, collective, kiln). -/
  packs : List Nat := [0, 0, 0]
  i3c : Mailbox := {}
  host : Mailbox := {}
  core : Mailbox := {}
  /-- Accepted requests, oldest first. -/
  requests : List Request := []
  dynAddr : Option Nat := none
  ibi : Bool := false
  slotId : Nat := 0
  /-- The kiln's certificate chain in DER (R443). -/
  cert : List Byte := []
  /-- The outstanding challenge, and whether debug is unlocked. -/
  nonce : Option (List Byte) := none
  unlocked : Bool := false
  /-- The last IEEE 1149.1 instruction accepted: whether it is a boundary-scan instruction. -/
  jtag : Option Bool := none
  deriving DecidableEq, Repr, Inhabited

end Sys2Proof.Machine
end

