-- ==== Sys2Proof/Machine/Regs.lean ====
section
/-!
DEFINITION. The registers by name. A register is named by its place in the MMIO map of Tables 1.7 and 1.8: region * 2^32
plus its offset in the region's window.  Registers that are plain storage (configuration, counters, captured values) are
kept in `State.regs` under that number; registers that show the state of a unit are computed from that unit.
-/
namespace Sys2Proof.Machine

/-- A register: region * 2^32 + offset in the region's window. -/
abbrev Reg := Nat

/-- A register of region `r` at a window offset. -/
def rreg (r off : Nat) : Reg := r * 0x100000000 + off

/-- A register of the page of block `b` (0 to 511). -/
def blkReg (b off : Nat) : Reg := rreg (b / 128) (0x01000000 + (b % 128) * 0x10000 + off)

/-- A register of the page of core `c` (0 to 143). -/
def coreReg (c off : Nat) : Reg := rreg (c / 36) (0x02000000 + (c % 36) * 0x10000 + off)

/-- A register of DMA channel `c` of region `r`. -/
def dmaReg (r c off : Nat) : Reg := rreg r (0x00400000 + c * 0x1000 + off)

/-- A register of collective channel `c` of region `r`. -/
def collReg (r c off : Nat) : Reg := rreg r (0x00500000 + c * 0x400 + off)

/-- A register of global Chaind port `k`. -/
def portReg (k off : Nat) : Reg := rreg (k / 4) (0x00600000 + (k % 4) * 0x40000 + off)

/-- The module physical address of a register (Table 1.7). -/
def Reg.addr (g : Reg) : Nat := 0xF00000000000 + g

-- Region control, identity and fret
def MGMT_REGION_ID (r : Nat) : Reg := rreg r 0x0
def BLK_DIE_ID (r d : Nat) : Reg := rreg r (0x10 + 8 * d)
def MGMT_MODULE_STATE (r : Nat) : Reg := rreg r 0x30
def FAB_FRET_PERIOD (r : Nat) : Reg := rreg r 0x100
def FAB_FRET_COUNT (r : Nat) : Reg := rreg r 0x108
def FAB_FRET_PHASE (r : Nat) : Reg := rreg r 0x110
def FAB_FRET_STATUS (r : Nat) : Reg := rreg r 0x118
def FAB_FRET_MISS_COUNT (r : Nat) : Reg := rreg r 0x120
def FAB_MODULE_ID (r : Nat) : Reg := rreg r 0x200
def FAB_FABRIC_ID (r : Nat) : Reg := rreg r 0x208
def FAB_LEADER_SERIAL (r : Nat) : Reg := rreg r 0x210
def FAB_DISC_STATUS (r : Nat) : Reg := rreg r 0x218
def FAB_COORD (r : Nat) : Reg := rreg r 0x220
def FAB_TORUS_SIZE (r : Nat) : Reg := rreg r 0x228
def FAB_ROUTE_CTRL (r : Nat) : Reg := rreg r 0x230
def FAB_ROUTE_LOAD_ADDR (r : Nat) : Reg := rreg r 0x238
def FAB_ROUTE_STATUS (r : Nat) : Reg := rreg r 0x240
def FAB_ERR_TAIL (r : Nat) : Reg := rreg r 0x248
def FAB_TIME_STATUS (r : Nat) : Reg := rreg r 0x300
def FAB_TIME_OFFSET (r : Nat) : Reg := rreg r 0x308
def FAB_TIME_EST (r : Nat) : Reg := rreg r 0x310
def FAB_TIME_STEPS (r : Nat) : Reg := rreg r 0x318
def FAB_COLL_ABORT (r : Nat) : Reg := rreg r 0x380
def FAB_APERTURE (r s : Nat) : Reg := rreg r (0x80000 + 8 * s)
def MGMT_MBX_CTRL (r : Nat) : Reg := rreg r 0x2000
def MGMT_MBX_STATUS (r : Nat) : Reg := rreg r 0x2008
def MGMT_MBX_PEG (r : Nat) : Reg := rreg r 0x2010
def MGMT_MBX_BUF (r i : Nat) : Reg := rreg r (0x2100 + 8 * i)
-- Power manager
def PWR_MODULE_LIMIT (r : Nat) : Reg := rreg r 0x100000
def PWR_MGR_STATUS (r : Nat) : Reg := rreg r 0x100008
def PWR_THROTTLE_NOW (r : Nat) : Reg := rreg r 0x100010
def PWR_INPUT (r : Nat) : Reg := rreg r 0x100018
def PWR_THROTTLE (r c : Nat) : Reg := rreg r (0x100040 + 8 * c)
def PWR_COUNT_CLEAR (r : Nat) : Reg := rreg r 0x100080
def PWR_THERMAL (r : Nat) : Reg := rreg r 0x100088
def PWR_DOMAIN (r d : Nat) : Reg := rreg r (0x100100 + 8 * d)
def PWR_VTABLE_IDX (r : Nat) : Reg := rreg r 0x100140
def PWR_VTABLE_DATA (r : Nat) : Reg := rreg r 0x100148
def PWR_DROOP_CYCLES (r : Nat) : Reg := rreg r 0x100150
def PWR_RAIL_STATUS (r i : Nat) : Reg := rreg r (0x100200 + 8 * i)
-- Kiln
def KILN_TAG_CMD (r : Nat) : Reg := rreg r 0x200000
def KILN_TAG_ARG0 (r : Nat) : Reg := rreg r 0x200008
def KILN_TAG_ARG1 (r : Nat) : Reg := rreg r 0x200010
def KILN_TAG_STATUS (r : Nat) : Reg := rreg r 0x200018
def KILN_TAG_USED (r : Nat) : Reg := rreg r 0x200020
def KILN_TAG_SPILLED (r : Nat) : Reg := rreg r 0x200028
def KILN_UNOPENED (r : Nat) : Reg := rreg r 0x200030
def KILN_SENSOR_FAULTS (r : Nat) : Reg := rreg r 0x200038
def KILN_COUNT_CLEAR (r : Nat) : Reg := rreg r 0x200040
def KILN_CFG (r : Nat) : Reg := rreg r 0x201000
def KILN_SEQ (r : Nat) : Reg := rreg r 0x201008
def KILN_LEDGER_FREE (r : Nat) : Reg := rreg r 0x201010
def KILN_RING_BASE (r : Nat) : Reg := rreg r 0x201018
def KILN_RING_CFG (r : Nat) : Reg := rreg r 0x201020
def KILN_RING_TAIL (r : Nat) : Reg := rreg r 0x201028
def KILN_RING_HEAD (r : Nat) : Reg := rreg r 0x201030
def KILN_ACK_SEQ (r : Nat) : Reg := rreg r 0x201038
def KILN_RING_PEG (r : Nat) : Reg := rreg r 0x201040
def KILN_RING_ENABLE (r : Nat) : Reg := rreg r 0x201048
def KILN_FRET_INPUT (r : Nat) : Reg := rreg r 0x201080
def KILN_FRET_UNATTR (r : Nat) : Reg := rreg r 0x201088
def KILN_FRET_LOSS (r : Nat) : Reg := rreg r 0x201090
def KILN_FRET_SCALE (r : Nat) : Reg := rreg r 0x201098
def KILN_METER_TOTAL (r : Nat) : Reg := rreg r 0x2010A0
-- Synchronisation unit
def PEG_CTRL (r : Nat) : Reg := rreg r 0x300000
def PEG_NARROW_COUNT (r : Nat) : Reg := rreg r 0x300008
def WATCH_USED (r : Nat) : Reg := rreg r 0x300010
def WATCH_FIRED (r : Nat) : Reg := rreg r 0x300018
def WATCH_EXPIRED (r : Nat) : Reg := rreg r 0x300020
def WATCH_SPILL_ARMS (r : Nat) : Reg := rreg r 0x300028
def WATCH_EVENT_HELD (r : Nat) : Reg := rreg r 0x300030
def WATCH_COUNT_CLEAR (r : Nat) : Reg := rreg r 0x300038
-- DMA
def DMA_CH_CTRL (r c : Nat) : Reg := dmaReg r c 0x000
def DMA_CH_RING_BASE (r c : Nat) : Reg := dmaReg r c 0x008
def DMA_CH_RING_CFG (r c : Nat) : Reg := dmaReg r c 0x010
def DMA_CH_PASID (r c : Nat) : Reg := dmaReg r c 0x018
def DMA_CH_WIN_LO (r c : Nat) : Reg := dmaReg r c 0x020
def DMA_CH_WIN_HI (r c : Nat) : Reg := dmaReg r c 0x028
def DMA_CH_DOORBELL (r c : Nat) : Reg := dmaReg r c 0x030
def DMA_CH_STATUS (r c : Nat) : Reg := dmaReg r c 0x038
def DMA_CH_FETCH_SEQ (r c : Nat) : Reg := dmaReg r c 0x040
def DMA_CH_DONE_SEQ (r c : Nat) : Reg := dmaReg r c 0x048
def DMA_CH_DONE_BYTES (r c : Nat) : Reg := dmaReg r c 0x050
def DMA_CH_SRC_POS (r c : Nat) : Reg := dmaReg r c 0x058
def DMA_CH_DST_POS (r c : Nat) : Reg := dmaReg r c 0x060
def DMA_CH_EVENT_PEG (r c : Nat) : Reg := dmaReg r c 0x068
def DMA_CH_ERR_ADDR (r c : Nat) : Reg := dmaReg r c 0x070
def DMA_CH_REFETCH (r c : Nat) : Reg := dmaReg r c 0x078
def DMA_CH_DB_IGNORED (r c : Nat) : Reg := dmaReg r c 0x080
def DMA_CH_BYTES (r c : Nat) : Reg := dmaReg r c 0x088
def DMA_CH_COUNT_CLEAR (r c : Nat) : Reg := dmaReg r c 0x090
def DMA_ENG_BUF_USED (r : Nat) : Reg := rreg r 0x440000
def DMA_ENG_SPILL_NOW (r : Nat) : Reg := rreg r 0x440008
def DMA_ENG_SPILL_TOTAL (r : Nat) : Reg := rreg r 0x440010
-- Collective engine
def FAB_COLL_CH_CTRL (r c : Nat) : Reg := collReg r c 0x000
def FAB_COLL_CH_STATUS (r c : Nat) : Reg := collReg r c 0x008
def FAB_COLL_CH_TABLE_ADDR (r c : Nat) : Reg := collReg r c 0x010
def FAB_COLL_CH_TABLE_CFG (r c : Nat) : Reg := collReg r c 0x018
def FAB_COLL_CH_BUF_BASE (r c : Nat) : Reg := collReg r c 0x020
def FAB_COLL_CH_BUF_SIZE (r c : Nat) : Reg := collReg r c 0x028
def FAB_COLL_CH_START_FRET (r c : Nat) : Reg := collReg r c 0x030
def FAB_COLL_CH_SIGNAL (r c : Nat) : Reg := collReg r c 0x038
def FAB_COLL_CH_TAG (r c : Nat) : Reg := collReg r c 0x040
def FAB_COLL_CH_DETAIL (r c : Nat) : Reg := collReg r c 0x048
def FAB_COLL_CH_BYTES_TX (r c : Nat) : Reg := collReg r c 0x050
def FAB_COLL_CH_BYTES_RX (r c : Nat) : Reg := collReg r c 0x058
def FAB_STRUM_ENTRIES_USED (r : Nat) : Reg := rreg r 0x510000
def FAB_STRUM_SPILL_ENTRIES (r : Nat) : Reg := rreg r 0x510008
def FAB_COLL_SCHED_DISCARD (r : Nat) : Reg := rreg r 0x510010
def FAB_COLL_RX_OVERFLOW (r : Nat) : Reg := rreg r 0x510018
def FAB_COLL_COUNT_CLEAR (r : Nat) : Reg := rreg r 0x510020
-- Chaind ports
def FAB_PORT_CTRL (k : Nat) : Reg := portReg k 0x000
def FAB_PORT_STATUS (k : Nat) : Reg := portReg k 0x008
def FAB_PORT_PEER_SERIAL (k : Nat) : Reg := portReg k 0x010
def FAB_PORT_FEC_CORR (k : Nat) : Reg := portReg k 0x100
def FAB_PORT_FEC_UNCORR (k : Nat) : Reg := portReg k 0x108
def FAB_PORT_CRC_ERR (k : Nat) : Reg := portReg k 0x110
def FAB_PORT_RETRY (k : Nat) : Reg := portReg k 0x118
def FAB_PORT_DOWN_EVENTS (k : Nat) : Reg := portReg k 0x120
def FAB_PORT_FLITS_TX (k : Nat) : Reg := portReg k 0x128
def FAB_ROUTE_SPILL_HITS (k : Nat) : Reg := portReg k 0x130
def FAB_PORT_COUNT_CLEAR (k : Nat) : Reg := portReg k 0x138
def FAB_PORT_TIME_OFFSET (k : Nat) : Reg := portReg k 0x180
def FAB_PORT_TIME_DELAY (k : Nat) : Reg := portReg k 0x188
-- Host ports
def HOST_PORT_CFG (r : Nat) : Reg := rreg r 0x700000
def HOST_PORT_STATUS (r k : Nat) : Reg := rreg r (0x700008 + 8 * k)
def HOST_EP_STATUS (r : Nat) : Reg := rreg r 0x700028
def HOST_EVENT_PEG (r : Nat) : Reg := rreg r 0x700030
def HOST_ERR_TAIL (r : Nat) : Reg := rreg r 0x700038
def HOST_RP_BOUNCE_LO (r k : Nat) : Reg := rreg r (0x700040 + 16 * k)
def HOST_RP_BOUNCE_HI (r k : Nat) : Reg := rreg r (0x700048 + 16 * k)
def HOST_RP_CTRL (r k : Nat) : Reg := rreg r (0x700080 + 8 * k)
/-- A register of function `f` (0 to 8) of the host port of region `r` (Table 12.8). -/
def hostFn (r f off : Nat) : Reg := rreg r (0x700100 + f * 0x80 + off)
-- Error manager
def MGMT_ERR_TAIL (r : Nat) : Reg := rreg r 0xA00000
def MGMT_ERR_NOTIFY (r : Nat) : Reg := rreg r 0xA00008
def MGMT_PKG_HEALTH (r : Nat) : Reg := rreg r 0xA00010
def MGMT_DIE_STATUS (r d : Nat) : Reg := rreg r (0xA00040 + 8 * d)
def MGMT_DIE_CTRL (r d : Nat) : Reg := rreg r (0xA00058 + 8 * d)
def MGMT_BLK_MUTE (r : Nat) : Reg := rreg r 0xA00070
def MGMT_XCHK_RUNS (r : Nat) : Reg := rreg r 0xA00080
def MGMT_XCHK_MISMATCH (r : Nat) : Reg := rreg r 0xA00088
def MGMT_XCHK_PREEMPT (r : Nat) : Reg := rreg r 0xA00090
def MGMT_TUNE_PASS (r : Nat) : Reg := rreg r 0xA00098
def MGMT_TUNE_FAIL (r : Nat) : Reg := rreg r 0xA000A0
def MGMT_EVID_DROPPED (r : Nat) : Reg := rreg r 0xA000A8
def MGMT_LANE_REPAIRS (r : Nat) : Reg := rreg r 0xA000B0
def MGMT_ERR_COUNT_CLEAR (r : Nat) : Reg := rreg r 0xA000B8
def MGMT_PACK_STATUS (r : Nat) : Reg := rreg r 0xA000C0
def MGMT_EVID_STATUS (r : Nat) : Reg := rreg r 0xA000D0
def MGMT_EVID_RELEASE (r : Nat) : Reg := rreg r 0xA000D8
-- Coherence
def MGMT_COH_STATUS (r : Nat) : Reg := rreg r 0xA20000
def MGMT_COH_SLC_HITS (r : Nat) : Reg := rreg r 0xA20008
def MGMT_COH_SLC_MISSES (r : Nat) : Reg := rreg r 0xA20010
def MGMT_COH_C2C (r : Nat) : Reg := rreg r 0xA20018
def MGMT_COH_RECALLS (r : Nat) : Reg := rreg r 0xA20020
def MGMT_COH_BACK_INVAL (r : Nat) : Reg := rreg r 0xA20028
def MGMT_COH_RETRIES (r : Nat) : Reg := rreg r 0xA20030
def MGMT_COH_POISON_READS (r : Nat) : Reg := rreg r 0xA20038
def MGMT_COH_LOST_POISONED (r : Nat) : Reg := rreg r 0xA20040
def MGMT_COH_COUNT_CLEAR (r : Nat) : Reg := rreg r 0xA20048
-- Memory
def MGMT_PAT_CMD (r : Nat) : Reg := rreg r 0xA40000
def MGMT_PAT_DATA0 (r : Nat) : Reg := rreg r 0xA40008
def MGMT_PAT_DATA1 (r : Nat) : Reg := rreg r 0xA40010
def MGMT_PAT_DATA2 (r : Nat) : Reg := rreg r 0xA40018
def MGMT_PAT_STATUS (r : Nat) : Reg := rreg r 0xA40020
def MGMT_MEM_HBM_CAP (r : Nat) : Reg := rreg r 0xA40028
def MGMT_MEM_LPD_CAP (r : Nat) : Reg := rreg r 0xA40030
def MGMT_MEM_GROUP_CTRL (r : Nat) : Reg := rreg r 0xA40038
def MGMT_MEM_REBUILDING (r : Nat) : Reg := rreg r 0xA40040
def MGMT_MEM_BISQUE_ROWS (r : Nat) : Reg := rreg r 0xA40048
def MGMT_MEM_PAT_MISSES (r : Nat) : Reg := rreg r 0xA40050
def MGMT_MEM_RBQ_MISSES (r : Nat) : Reg := rreg r 0xA40058
def MGMT_MEM_COUNT_CLEAR (r : Nat) : Reg := rreg r 0xA40060
def MGMT_MEM_MAINT (r : Nat) : Reg := rreg r 0xA40100
def MGMT_MEM_GROUPS (r : Nat) : Reg := rreg r 0xA40108
def LPD_COMP_LOGICAL (r : Nat) : Reg := rreg r 0x901000
def LPD_COMP_STORED (r : Nat) : Reg := rreg r 0x901008
def MGMT_REG_CFG (r q p : Nat) : Reg := rreg r (0xA60000 + (q * 8 + p) * 16)
def MGMT_REG_WAIT (r q p : Nat) : Reg := rreg r (0xA60008 + (q * 8 + p) * 16)
/-- A register of HBM channel `ch` (0 to 511). -/
def hbmReg (ch off : Nat) : Reg := rreg (ch / 128) (0x800000 + (ch / 32 % 4) * 0x40000 + (ch % 32) * 0x100 + off)
def HBM_CH_STATE (ch : Nat) : Reg := hbmReg ch 0x00
def HBM_CH_CTRL (ch : Nat) : Reg := hbmReg ch 0x08
def HBM_CH_TRAIN (ch : Nat) : Reg := hbmReg ch 0x10
def HBM_CH_CHECK (ch : Nat) : Reg := hbmReg ch 0x18
def HBM_TG_CTRL (ch : Nat) : Reg := hbmReg ch 0x20
def HBM_TG_SEED (ch : Nat) : Reg := hbmReg ch 0x28
def HBM_TG_RANGE (ch : Nat) : Reg := hbmReg ch 0x30
def HBM_TG_STATUS (ch : Nat) : Reg := hbmReg ch 0x38
def HBM_TG_ERR_ADDR (ch : Nat) : Reg := hbmReg ch 0x40
def HBM_CH_RETRAINS (ch : Nat) : Reg := hbmReg ch 0x48
/-- State, control and records of LPDDR5X package `p` (0 to 23), at the offsets of the channel registers (R309). -/
def LPD_PKG_CTRL (p : Nat) : Reg := rreg (p / 6) (0x900000 + (p % 6) * 0x100 + 0x08)
def LPD_PKG_TRAIN (p : Nat) : Reg := rreg (p / 6) (0x900000 + (p % 6) * 0x100 + 0x10)
def LPD_PKG_CHECK (p : Nat) : Reg := rreg (p / 6) (0x900000 + (p % 6) * 0x100 + 0x18)
-- Block pages
def BLK_STATE (b : Nat) : Reg := blkReg b 0x0000
def BLK_SEQ_CTRL (b : Nat) : Reg := blkReg b 0x0008
def BLK_SEQ_ENTRY (b : Nat) : Reg := blkReg b 0x0010
def BLK_PASID (b : Nat) : Reg := blkReg b 0x0018
def BLK_CPL_CTRL (b : Nat) : Reg := blkReg b 0x0020
def BLK_CPL_TAIL (b : Nat) : Reg := blkReg b 0x0028
def BLK_CPL_HEAD (b : Nat) : Reg := blkReg b 0x0030
def BLK_TOKEN_ERR (b : Nat) : Reg := blkReg b 0x0038
def BLK_ASYNC_ERR (b : Nat) : Reg := blkReg b 0x0080
def BLK_ASYNC_ADDR (b : Nat) : Reg := blkReg b 0x0088
def BLK_Q_STATUS (b e : Nat) : Reg := blkReg b (0x0100 + 8 * e)
def BLK_BANK_WAIT_CYCLES (b : Nat) : Reg := blkReg b 0x0200
def BLK_CPL_STALL_CYCLES (b : Nat) : Reg := blkReg b 0x0208
def BLK_SPILL_PUSHES (b : Nat) : Reg := blkReg b 0x0210
def BLK_DC_MISSES (b : Nat) : Reg := blkReg b 0x0218
def BLK_DC_STREAM_LINES (b : Nat) : Reg := blkReg b 0x0220
def BLK_ECC_CORRECTED (b : Nat) : Reg := blkReg b 0x0228
def BLK_COUNT_CLEAR (b : Nat) : Reg := blkReg b 0x0230
def MX_STATUS (b : Nat) : Reg := blkReg b 0x0800
def MX_FEED_CYCLES (b : Nat) : Reg := blkReg b 0x0808
def MX_FREEZE_FEED (b : Nat) : Reg := blkReg b 0x0810
def MX_FREEZE_DRAIN (b : Nat) : Reg := blkReg b 0x0818
def MX_BRIDGE_TRANSIENT (b : Nat) : Reg := blkReg b 0x0820
def MX_BRIDGE_FAIL (b : Nat) : Reg := blkReg b 0x0828
def MX_BRIDGE_SKIP (b : Nat) : Reg := blkReg b 0x0830
def MX_PARITY_COUNT (b : Nat) : Reg := blkReg b 0x0838
def MX_REPLAY_CYCLES (b : Nat) : Reg := blkReg b 0x0840
def MX_COUNT_CLEAR (b : Nat) : Reg := blkReg b 0x0848
def VE_RESIDUE_RETRY (b : Nat) : Reg := blkReg b 0x0900
def VE_RESIDUE_FAIL (b : Nat) : Reg := blkReg b 0x0908
def BLK_SUSPECT (b : Nat) : Reg := blkReg b 0x0A00
-- Core pages
def MGMT_CORE_ASYNC_ERR (c : Nat) : Reg := coreReg c 0x0080
def MGMT_CORE_ASYNC_ADDR (c : Nat) : Reg := coreReg c 0x0088
def MGMT_CORE_TAG (c : Nat) : Reg := coreReg c 0x0090

end Sys2Proof.Machine
end

