-- ==== Sys2Proof/Machine/State.lean ====
section
/-!
DEFINITION. The state of the module, its faults and refusals, and the state right after reset.  What each field is for, and
the rule that names it, is listed under '## State' in INVENTORY.md.
-/
namespace Sys2Proof.Machine

/-- The reasons a step can stop with a fault: none.  Every access the spec speaks of has a defined outcome for the
agent that makes it (an exception of a hart, a status, a logged and ignored access), and the model takes it. -/
inductive Fault where
  deriving DecidableEq, Repr

/-- The reasons a command is refused. -/
inductive Refusal where
  /-- The command has no meaning in the model yet; no arm of `exec` answers it once its meaning is written. Safe. -/
  | notModelled (mnemonic : String)
  deriving DecidableEq, Repr

/-- A region error log entry (Table 15.9). -/
structure LogEntry where
  status : Nat
  cause : Nat
  source : Nat
  fret : Nat
  addr : Nat
  detail : W64
  deriving DecidableEq, Repr, Inhabited

/-- STATE of MGMT_DIE_STATUS (Table 15.6). -/
inductive DieState where
  | live | lost | rejoining
  deriving DecidableEq, Repr, Inhabited

/-- A compute or core die (MGMT_DIE_STATUS, Table 15.10). -/
structure Die where
  state : DieState := .live
  linkFailed : Bool := false
  lostFret : Nat := 0
  deriving DecidableEq, Repr, Inhabited

structure State where
  /-- The commands that are waiting, first in, first out. -/
  pending : List Instr := []
  /-- Registers that are plain storage; an unlisted one reads its reset value. -/
  regs : Map Reg W64 := []
  /-- Memory and block stores: strictly rising addresses, no zero byte listed. -/
  mem : List Host.Cell := []
  /-- Poisoned 8-byte words, by address / 8. -/
  poison : List Nat := []
  /-- Next free value (the model's own field). -/
  freeCount : Nat := 0
  /-- Region error logs: (region, n mod 128). -/
  errLog : Map (Nat × Nat) LogEntry := []
  fret : Nat := 0
  phaseNs : Nat := 0
  period : Nat := 16
  epochSet : Bool := false
  localEpoch : Bool := false
  /-- Regions whose base die is lost. -/
  lostRegions : List Nat := []
  /-- The package master region since the last fret mark (R22). -/
  master : Nat := 0
  strictScope : Bool := false
  /-- MODULE of FAB_MODULE_ID: this module's number in the fabric, 0xFFFE while unassigned. -/
  moduleId : Nat := 0xFFFE
  /-- The compute dies (0, 1) and core die (2) of each region: (region, die). -/
  dies : Map (Nat × Nat) Die := []
  blocks : Map Nat Block := []
  /-- Filled evidence slots: (region, slot). -/
  evidence : Map (Nat × Nat) Evidence := []
  /-- The mute list in configuration flash (R487). -/
  muteList : List Nat := []
  /-- Core-class caches: (cache, line) of every line in M, E or S. -/
  caches : Map (Nat × Nat) CLine := []
  /-- Eviction buffers: (cache, line), answered from until the home acknowledges (R287). -/
  evicting : Map (Nat × Nat) CLine := []
  dir : Map Nat Dir := []
  /-- Lines with a directory entry, in the order in which the entries were allocated (R282). -/
  dirOrder : List Nat := []
  /-- Lines allocated in the SLC of their home, and those of them that are dirty (R278). `mem` holds what the home returns: the data
  of the SLC where a line is there, of memory elsewhere. -/
  slc : List Nat := []
  slcDirty : List Nat := []
  /-- Instruction caches: (hart, line) (R148, R277). -/
  icache : Map (Nat × Nat) Line := []
  /-- Read caches of the gather-scatter engines: (block, line) (R261). -/
  gsCache : Map (Nat × Nat) Line := []
  /-- Accepted transactions of every home, in home order. -/
  txns : List Txn := []
  retries : List Retried := []
  /-- The line that an engine's last coherent read or atomic returned, by requester number. -/
  engineData : Map Nat Line := []
  /-- INIT_DONE of each region (R297), and the regions in which a directory scrub runs (R295). -/
  initDone : List Nat := []
  scrubbing : List Nat := []
  hbm : Map Nat Channel := []
  lpd : Map Nat Channel := []
  groups : Map (Nat × Nat) ChGroup := []
  /-- HEADER_GIB (R310). -/
  headerGib : Nat := 0
  /-- PAT entries: (region, index); an unlisted entry is zero but for TIER (R315). -/
  pat : Map (Nat × Nat) (BitVec 128) := []
  /-- The PAT entries and remote bisque slots that the hardware caches hold, 8,192 and 4,096 of a region (Table 9.5): (region, index). -/
  patCache : List (Nat × Nat) := []
  rbqCache : List (Nat × Nat) := []
  /-- LR reservations: hart, line, and whether snoops are still deferred (R255, R256). -/
  reserved : Map Nat (Nat × Bool) := []
  pegs : Map Nat Peg := []
  /-- Writes to other modules that a hart's acquires made visible to it, by tag: its release at FABRIC waits for them too (R224). -/
  carried : Map Nat (List Nat) := []
  /-- CAS expectations: (hart, peg). -/
  casExp : Map (Nat × Nat) W64 := []
  watches : Map WKey Watch := []
  gens : Map WKey Nat := []
  /-- Fired or expired watches not yet delivered, by home, oldest first. -/
  fired : List (Nat × Fired) := []
  /-- Events waiting at their home for queue space (R237), oldest first. -/
  heldEvents : List (Nat × Nat × QEvent) := []
  /-- Event queues of the harts. -/
  eventQ : Map Nat (List W64) := []
  /-- Arm windows: of hart h at h, of function f of host port r at 1000 + 16 r + f. -/
  arms : Map Nat ArmWindow := []
  harts : Map Nat Hart := []
  /-- The cores are released (boot step 6). -/
  coresOn : Bool := false
  /-- Requests that left the module and are not answered, oldest first, and the next tag. -/
  out : List OutReq := []
  nextTag : Nat := 0
  /-- Answers that engines have not taken yet. -/
  answers : List Answer := []
  /-- DMA channels: (region, channel), and the arbiter of each region's read engine (R194). -/
  dma : Map (Nat × Nat) DmaChan := []
  arb : Map Nat Arb := []
  /-- The remote bisque table: (region, slot) to MGMT_PAT_DATA0, 1 and 2 (R331). -/
  rbq : Map (Nat × Nat) (W64 × W64 × W64) := []
  /-- What left the module on its wires, oldest first. -/
  outbox : List OutMsg := []
  /-- Host ports, by region. -/
  hostPorts : Map Nat HostPort := []
  /-- Host and fabric error logs: (region, n mod 64). -/
  hostLog : Map (Nat × Nat) PortLog := []
  fabLog : Map (Nat × Nat) PortLog := []
  /-- Chaind ports 0 to 15 and the module's place in its fabric. -/
  ports : Map Nat Port := []
  fab : Fab := {}
  /-- Fabric time, the slot of the fret, and the collective channels: (region, channel). -/
  time : Time := {}
  slot : Nat := 0
  colls : Map (Nat × Nat) CollChan := []
  kiln : Kiln := {}
  /-- Requests that reached a host port and wait: for a line, or behind an earlier write of the same requester (R263). -/
  hostIn : List Instr := []
  /-- Packets delivered to this module and not yet served, oldest first. -/
  inbox : List Packet := []
  /-- Modules that the current map makes unreachable (R366) are those that `reachable` does not list. -/
  reachable : List Nat := []
  /-- Sv57 root page numbers of the process IDs that the IOMMU translates; another process ID is identity-mapped. -/
  iommuRoots : Map Nat Nat := []
  /-- Maintenance slots, by region: fret of the last one, next device of the rotation, device being checked (R324). -/
  maintLast : Map Nat Nat := []
  maintNext : Map Nat Nat := []
  checking : Map Nat Nat := []
  /-- PAT commands in progress, by region (R316). -/
  patBusy : Map Nat PatCmd := []
  /-- Regulator configurations that wait for the next refill: (region, q * 8 + p) (R322). -/
  regNext : Map (Nat × Nat) W64 := []
  /-- Token buckets: (region, q * 8 + p), tokens held. -/
  buckets : Map (Nat × Nat) Nat := []
  /-- Requests that a region's NoC holds until their buckets have tokens (R321), oldest first. -/
  nocHeld : List (Nat × CReq) := []
  /-- Time of the last fret mark in ns, which no mark restarts (the model's own field, for heartbeats). -/
  markNs : Nat := 0
  /-- Load rails: (region, index of Table 14.3); stepped domains: (region, d); the package's power manager. -/
  rails : Map (Nat × Nat) Rail := []
  domains : Map (Nat × Nat) Domain := []
  power : Power := {}
  links : Map Nat Link := []
  thirds : List Third := []
  packs : Packs := {}
  mgmt : Mgmt := {}
  deriving DecidableEq, Repr

/-- The machine right after reset: the module OFF, every field at the value of its docstring and of INVENTORY.md. -/
def State.reset : State := {}

end Sys2Proof.Machine
end

