-- ==== Sys2Proof/Machine/Ops.lean ====
section
/-!
DEFINITION. The named operations over the state: memory bytes, poison, plain registers and counters, the region error log,
free values, access to the units held in maps.
-/
namespace Sys2Proof.Machine

/-! ### Memory -/

/-- What an unlisted byte reads as (log 1). -/
def memDefault : Byte := 0

/-- The canonical form of memory: strictly rising addresses, no default byte listed. -/
def Memory.wf : List Host.Cell → Bool
  | [] => true
  | [c] => c.2 != memDefault
  | c :: d :: rest => c.2 != memDefault && decide (c.1 < d.1) && Memory.wf (d :: rest)

/-- The byte at an address. -/
def Memory.read (m : List Host.Cell) (a : Nat) : Byte :=
  match m with
  | [] => memDefault
  | (b, v) :: rest => if b = a then v else if a < b then memDefault else Memory.read rest a

/-- One byte written; the default value removes the entry. -/
def Memory.write (m : List Host.Cell) (a : Nat) (v : Byte) : List Host.Cell :=
  match m with
  | [] => if v = memDefault then [] else [(a, v)]
  | (b, w) :: rest =>
    if b = a then (if v = memDefault then rest else (a, v) :: rest)
    else if a < b then (if v = memDefault then (b, w) :: rest else (a, v) :: (b, w) :: rest)
    else (b, w) :: Memory.write rest a v

/-- Consecutive bytes written. -/
def Memory.writeList (m : List Host.Cell) (a : Nat) : List Byte → List Host.Cell
  | [] => m
  | v :: vs => Memory.writeList (Memory.write m a v) (a + 1) vs

/-- `n` bytes from an address. -/
def Memory.readList (m : List Host.Cell) (a n : Nat) : List Byte := (List.range n).map fun i => Memory.read m (a + i)

/-- A little-endian number from bytes (R6). -/
def leNat : List Byte → Nat
  | [] => 0
  | b :: bs => b.toNat + 256 * leNat bs

/-- The `n` little-endian bytes of a number (R6). -/
def leBytes : Nat → Nat → List Byte
  | 0, _ => []
  | n + 1, v => BitVec.ofNat 8 v :: leBytes n (v / 256)

namespace State

def rd8 (s : State) (a : Nat) : Byte := Memory.read s.mem a
def rdBytes (s : State) (a n : Nat) : List Byte := Memory.readList s.mem a n
/-- A little-endian number of `n` bytes in memory. -/
def rdNat (s : State) (a n : Nat) : Nat := leNat (s.rdBytes a n)

/-- The 8-byte words that `n` bytes from `a` touch. -/
def wordsOf (a n : Nat) : List Nat := if n = 0 then [] else (List.range ((a + n - 1) / 8 - a / 8 + 1)).map (a / 8 + ·)

/-- The 8-byte words that `n` bytes from `a` cover whole. -/
def wholeWords (a n : Nat) : List Nat := (wordsOf a n).filter fun w => decide (a ≤ w * 8 ∧ w * 8 + 8 ≤ a + n)

/-- The first poisoned byte of a range, if any: an address. -/
def firstPoison (s : State) (a n : Nat) : Option Nat :=
  ((wordsOf a n).find? fun w => s.poison.contains w).map fun w => max a (w * 8)

/-- A word marked poisoned. -/
def addPoison (s : State) (w : Nat) : State := if s.poison.contains w then s else { s with poison := w :: s.poison }

/-- Words no longer poisoned. -/
def delPoison (s : State) (ws : List Nat) : State := { s with poison := s.poison.filter fun w => !ws.contains w }

/-- Bytes written where they are stored. A word written whole loses its poison (R294). -/
def wrBytes (s : State) (a : Nat) (bs : List Byte) : State :=
  { s with mem := Memory.writeList s.mem a bs,
           poison := s.poison.filter fun w => !(wholeWords a bs.length).contains w }

/-- A little-endian number written as `n` bytes. -/
def wrNat (s : State) (a n v : Nat) : State := s.wrBytes a (leBytes n v)

/-! ### Registers and counters -/

/-- The reset value of the registers whose reset value is not zero (R11). -/
def regReset (g : Reg) : W64 :=
  let r := g / 0x100000000
  let o := g % 0x100000000
  if 0x01000000 ≤ o ∧ o < 0x01800000 ∧ o % 0x10000 = 0x20 then fld 4 24            -- BLK_CPL_CTRL.SIZE_LOG2
  else if 0x00400000 ≤ o ∧ o < 0x00440000 ∧ o % 0x1000 = 0x10 then 4               -- DMA_CH_RING_CFG
  else if g = KILN_RING_CFG r then 4
  else if g = KILN_CFG r then 1024
  else if g = MGMT_MEM_MAINT r then 0x103080040#64
  else if g = FAB_FRET_PERIOD r then 16
  else 0

/-- A plain register. -/
def reg (s : State) (g : Reg) : W64 := s.regs.get (regReset g) g
def setReg (s : State) (g : Reg) (v : W64) : State := { s with regs := s.regs.set g v }
/-- A 64-bit counter moved on by `n`. -/
def bump (s : State) (g : Reg) (n : Nat) : State := s.setReg g (s.reg g + w64 n)
/-- A field that saturates: bits `[hi:lo]` moved on by `n`. -/
def bumpFld (s : State) (g : Reg) (hi lo n : Nat) : State :=
  s.setReg g (setBits (s.reg g) hi lo (min (2 ^ (hi + 1 - lo) - 1) (bits (s.reg g) hi lo + n)))
/-- Registers set to zero. -/
def zeroRegs (s : State) : List Reg → State
  | [] => s
  | g :: gs => (s.setReg g 0).zeroRegs gs

/-! ### Regions -/

def regionLive (s : State) (r : Nat) : Bool := decide (r < 4) && !s.lostRegions.contains r
def liveRegions (s : State) : List Nat := (List.range 4).filter s.regionLive
/-- The lowest-numbered live region, which is the package master region from the next fret mark on (R22). -/
def nextMaster (s : State) : Nat := s.liveRegions.headD 0
/-- The package master region, which hosts the package error manager (R22): a region takes both roles at a fret mark. -/
def masterRegion (s : State) : Nat := s.master

/-- A register write to every live region's copy, for package-wide registers. -/
def setAll (s : State) (g : Nat → Reg) (v : W64) : State := (List.range 4).foldl (fun s r => s.setReg (g r) v) s

/-! ### The region error log (R501, R543) -/

/-- A record in the error log of region `r`. -/
def log (s : State) (r status cause source addr : Nat) (detail : W64) : State :=
  let n := (s.reg (MGMT_ERR_TAIL r)).toNat
  let s1 : State := { s with errLog := s.errLog.set (r, n % 128) ⟨status, cause, source, s.fret, addr, detail⟩ }
  s1.bump (MGMT_ERR_TAIL r) 1

/-! ### Completions counted by meter tags (Table 13.5) -/

/-- A completion that carries a meter tag: rows served from bisque copies, and a miss for DEADLINE, BISQUE_USED or
OVERRUN. -/
def noteCompletion (s : State) (tag status rows : Nat) : State :=
  match s.kiln.tags.find tag with
  | some t =>
    if t.closing && decide (t.finish < s.fret) then s
    else
      let miss := if status = stDEADLINE ∨ status = stBISQUE_USED ∨ status = stOVERRUN then 1 else 0
      let t' : MeterTag :=
        { t with bisqueRows := min 0xFFFFFFFF (t.bisqueRows + rows), misses := min 0xFFFFFFFF (t.misses + miss) }
      { s with kiln := { s.kiln with tags := s.kiln.tags.set tag t' } }
  | none => s

/-! ### Free values -/

/-- Moves the free-value counter on. -/
def nextFree (s : State) : State := { s with freeCount := s.freeCount + 1 }

/-! ### Units held in maps -/

def block (s : State) (b : Nat) : Block := s.blocks.get {} b
def setBlock (s : State) (b : Nat) (x : Block) : State := { s with blocks := s.blocks.set b x }
def updBlock (s : State) (b : Nat) (f : Block → Block) : State := s.setBlock b (f (s.block b))
def peg (s : State) (p : Nat) : Peg := s.pegs.get {} p
def setPeg (s : State) (p : Nat) (x : Peg) : State := { s with pegs := s.pegs.set p x }

end State

/-- The lowest code whose condition holds (R13); the list is in increasing order of code. -/
def firstCode : List (Bool × Nat) → Nat
  | [] => stOK
  | (c, st) :: rest => if c then st else firstCode rest

end Sys2Proof.Machine

namespace Sys2Proof

/-! ### Agents (Table 6.4, R223, R543) -/

/-- The location of an agent (Table 6.4). -/
def Agent.place (a : Agent) : Nat :=
  let k := match a.kind with | .core => 0 | .block => 1 | .engine => 2 | .external => 3
  a.index + k * 512 + a.region * 2048 + a.module * 8192

/-- The location that a log entry holds: of an agent on another module only MODULE (R543). -/
def Agent.code (a : Agent) : Nat := if a.own then a.place else a.module * 8192

/-- The agent that a location code names, as seen by the module with number `me`. -/
def agentOfCode (me c : Nat) : Agent :=
  let k := (c / 512) % 4
  { kind := if k = 0 then .core else if k = 1 then .block else if k = 2 then .engine else .external,
    index := c % 512, region := (c / 2048) % 4, module := c / 8192 % 65536, own := c / 8192 % 65536 == me }

/-- The hart of a core or block sequencer: cores 0 to 143, the sequencer of block b is 144 + b. -/
def Agent.hart (a : Agent) : Option Nat :=
  if !a.own then none
  else match a.kind with
    | .core => some (a.region * 36 + a.index)
    | .block => some (144 + a.region * 128 + a.index)
    | _ => none

/-- The agent of a hart. -/
def hartAgent (me h : Nat) : Agent :=
  if h < 144 then { kind := .core, index := h % 36, region := h / 36, module := me }
  else { kind := .block, index := (h - 144) % 128, region := (h - 144) / 128, module := me }

/-- The agent of a block's engines and sequencer: one unit. -/
def blockAgent (me b : Nat) : Agent := hartAgent me (144 + b)

/-- The agent of a base-die engine: 0 DMA, 1 collective, 2 kiln, 3 host port. -/
def engineAgent (me r i : Nat) : Agent := { kind := .engine, index := i, region := r, module := me }

/-- The common scope of two agents (Table 6.2): BLOCK 0, REGION 1, PACKAGE 2, FABRIC 3. -/
def commonScope (a b : Agent) : Nat :=
  if a.kind = .external ∨ b.kind = .external ∨ a.module ≠ b.module then 3
  else if a.region ≠ b.region then 2
  else if a.kind = b.kind ∧ a.index = b.index then 0
  else 1

/-- The 2-bit code of a scope (R16). -/
def scopeCode : Scope → Nat
  | .block => 0
  | .region => 1
  | .package => 2
  | .fabric => 3

end Sys2Proof
end

