-- ==== Sys2Proof/Machine/Pegs.lean ====
section
/-!
DEFINITION. Peg operations, acquires and releases, and the watch tables of a home (chapter 6).
-/
namespace Sys2Proof.Machine

/-- The home region of a peg (R219). -/
def pegHome (p : Nat) : Nat := p / 16384

/-- The address of a view of a peg (Table 6.1). -/
def pegAddr (p off : Nat) : Nat := 0xE10000000000 + p * 64 + off

/-- A watch condition (Table 6.6). -/
def condHolds (cond : Nat) (v x : W64) : Bool :=
  match cond with
  | 0 => decide (x.toNat ≤ v.toNat)
  | 1 => v == x
  | 2 => v != x
  | _ => (v &&& x) == x

/-- The handle of a watch (Table 6.7). -/
def handleOf (k : WKey) (gen : Nat) : Nat :=
  k.entry + k.home * 0x10000 + (if k.table = .block then 0x40000 else 0) + (if k.table = .spill then 0x80000 else 0) +
    gen * 0x100000

/-- The place and generation that a handle names. -/
def keyOfHandle (h : Nat) : WKey × Nat :=
  (⟨h / 0x10000 % 4, if h / 0x80000 % 2 = 1 then .spill else if h / 0x40000 % 2 = 1 then .block else .shared, h % 0x10000⟩,
    h / 0x100000 % 4096)

/-- An event word (Table 6.7). -/
def eventWord (handle reason : Nat) : W64 := 1 ||| fld reason 1 ||| fld handle 32

namespace State

def gen (s : State) (k : WKey) : Nat := s.gens.get 0 k

/-- Frees an entry: the watch goes and GEN advances (R233). -/
def freeWatch (s : State) (k : WKey) : State :=
  { s with watches := s.watches.erase k, gens := s.gens.set k ((s.gen k + 1) % 4096) }

/-- A watch fires or expires: it leaves its entry and waits for delivery. -/
def releaseWatch (s : State) (k : WKey) (w : Watch) (reason : Nat) : State :=
  let h := handleOf k (s.gen k)
  let s := s.freeWatch k
  let s : State := { s with fired := s.fired ++ [(k.home, { handle := h, reason := reason, watch := w })] }
  s.bump (if reason = 0 then WATCH_FIRED k.home else WATCH_EXPIRED k.home) 1

/-- The order of Table 6.8: shared before block before spill table, then increasing ENTRY. -/
def tableRank : WTable → Nat
  | .shared => 0
  | .block => 1
  | .spill => 2

/-- Insertion of a watch by that order. -/
def insertWatch (x : WKey × Watch) : List (WKey × Watch) → List (WKey × Watch)
  | [] => [x]
  | y :: ys =>
    if tableRank x.1.table < tableRank y.1.table ∨ (tableRank x.1.table = tableRank y.1.table ∧ x.1.entry ≤ y.1.entry)
    then x :: y :: ys else y :: insertWatch x ys

/-- The watches of a list that satisfy `p`, in the order of Table 6.8. -/
def selectWatches (ws : List (WKey × Watch)) (p : WKey → Watch → Bool) : List (WKey × Watch) :=
  (ws.filter fun x => p x.1 x.2).foldl (fun acc x => insertWatch x acc) []

/-- The watches named are released with a reason. -/
def releaseAll (s : State) (ws : List (WKey × Watch)) (reason : Nat) : State :=
  ws.foldl (fun s x => s.releaseWatch x.1 x.2 reason) s

/-- The hardware watches on a peg are evaluated against its value, and those that hold fire (R233). -/
def fireWatches (s : State) (p : Nat) : State :=
  s.releaseAll (selectWatches s.watches fun k w =>
    w.peg == p && k.table != .spill && !w.due && condHolds w.cond (s.peg p).value w.operand) 0

/-- A peg operation that leaves `x` (R220, R233). -/
def putPeg (s : State) (p : Nat) (x : Peg) : State := (s.setPeg p x).fireWatches p

/-- The region whose log records what an agent is refused: its own, or the peg's home for another module's. -/
def agentRegion (a : Agent) (home : Nat) : Nat := if a.own then a.region else home

/-- A store to a peg of a lost region is discarded and logged (R240). -/
def logLostPeg (s : State) (a : Agent) (addr : Nat) : State :=
  s.log (agentRegion a s.masterRegion) stPEER_LOST 6 a.code addr 0

/-- PEG_SET (R220, R227): LAST_WAS_RELEASE is cleared. -/
def pegSet (s : State) (a : Agent) (p : Nat) (v : W64) : State :=
  if s.regionLive (pegHome p) then s.putPeg p { s.peg p with value := v, lastRel := false }
  else s.logLostPeg a (pegAddr p 0)

/-- PEG_ADD (R220, R227). -/
def pegAdd (s : State) (a : Agent) (p : Nat) (v : W64) : State :=
  if s.regionLive (pegHome p) then s.putPeg p { s.peg p with value := (s.peg p).value + v, lastRel := false }
  else s.logLostPeg a (pegAddr p 8)

/-- A write to another module is not acknowledged yet. -/
def awaited (s : State) (tag : Nat) : Bool := s.out.any fun q => q.tag == tag

/-- Unacknowledged writes to other modules that a release by an agent carries: a hart's own, and those that its acquires made visible
to it (R224). A block is one agent: its sequencer and its engines. Another engine releases when its command's writes are acknowledged. -/
def carriedBy (s : State) (a : Agent) : List Nat :=
  match a.hart with
  | some h =>
    (s.out.filter fun q => q.posted && (q.origin == .hart h || q.origin == .wc h)).map (·.tag) ++ (s.carried.get [] h).filter s.awaited
  | none => []

/-- The peg update of a release at a scope (R224, R227): the releaser and its scope are recorded. -/
def pegRelAdd (s : State) (a : Agent) (p sc : Nat) (v : W64) : State :=
  if s.regionLive (pegHome p) then
    let x := s.peg p
    s.putPeg p { x with value := x.value + v, lastRel := true, lastScope := sc, releaser := a.place,
                        carries := (x.carries.filter fun y => s.awaited y.1) ++ (s.carriedBy a).map fun t => (t, sc, a.place) }
  else s.logLostPeg a (pegAddr p (0x10 + 8 * sc))

/-- An engine's completion signal: discarded with PEER_LOST and the peg's number if its home is lost (R229). -/
def signalPeg (s : State) (a : Agent) (p sc : Nat) (v : W64) : State :=
  if s.regionLive (pegHome p) then s.pegRelAdd a p sc v
  else s.log a.region stPEER_LOST 6 a.code (pegAddr p (0x10 + 8 * sc)) (w64 p)

/-- An acquire at a scope is narrow (R227). -/
def acquireNarrow (s : State) (a : Agent) (p sc : Nat) : Bool :=
  let x := s.peg p
  x.lastRel && decide (min x.lastScope sc < commonScope (agentOfCode s.moduleId x.releaser) a)

/-- What an acquire makes visible: the unacknowledged writes of releases for which both scopes are wide enough (R224, R226). -/
def takeCarried (s : State) (a : Agent) (p sc : Nat) : State :=
  let new := ((s.peg p).carries.filter fun y =>
    s.awaited y.1 && decide (commonScope (agentOfCode s.moduleId y.2.2) a ≤ min y.2.1 sc)).map (·.1)
  match a.hart with
  | some h => if new = [] then s else { s with carried := s.carried.set h ((s.carried.get [] h).filter s.awaited ++ new) }
  | none => s

/-- An acquire read at a live home: the state it leaves, and whether strict scope mode makes it fail (R225, R227,
R228). The value read is the peg's VALUE. -/
def pegAcquire (s : State) (a : Agent) (p sc : Nat) : State × Bool :=
  let s := s.takeCarried a p sc
  if s.acquireNarrow a p sc then
    let x := s.peg p
    let s1 := (s.setPeg p { x with narrow := true, narrowCount := min 0xFFFF (x.narrowCount + 1) }).bump
      (PEG_NARROW_COUNT (pegHome p)) 1
    if s.strictScope then
      (s1.log (pegHome p) stSCOPE_NARROW 4 a.code (pegAddr p (0x10 + 8 * sc)) (w64 x.releaser), true)
    else (s1, false)
  else (s, false)

/-- The CAS expectation of the storing agent (R222); an agent without one is refused. -/
def pegCasExpect (s : State) (a : Agent) (p : Nat) (v : W64) : State :=
  if !s.regionLive (pegHome p) then s.logLostPeg a (pegAddr p 0x30)
  else match a.hart with
    | some h => { s with casExp := s.casExp.set (h, p) v }
    | none => s.log (pegHome p) stRANGE 6 a.code (pegAddr p 0x30) 0

/-- The value an AMOSWAP.D to the CAS view returns (R222). -/
def pegCasResult (s : State) (a : Agent) (p : Nat) : W64 :=
  match a.hart with
  | some _ => if s.regionLive (pegHome p) then (s.peg p).value else 0
  | none => 0

/-- PEG_CAS (R222, R227): a success clears LAST_WAS_RELEASE. -/
def pegCas (s : State) (a : Agent) (p : Nat) (v : W64) : State :=
  if !s.regionLive (pegHome p) then s
  else match a.hart with
    | some h =>
      if (s.peg p).value = s.casExp.get 0 (h, p) then s.putPeg p { s.peg p with value := v, lastRel := false } else s
    | none => s.log (pegHome p) stRANGE 6 a.code (pegAddr p 0x30) 0

/-- A store to the STATUS view (Table 6.1): bit 0 clears SCOPE_NARROW and NARROW_COUNT. -/
def pegStatusClear (s : State) (a : Agent) (p : Nat) (v : W64) : State :=
  if !s.regionLive (pegHome p) then s.logLostPeg a (pegAddr p 0x38)
  else if bit v 0 then s.setPeg p { s.peg p with narrow := false, narrowCount := 0 } else s

/-- The status word of a peg (Table 6.3). -/
def pegStatus (s : State) (p : Nat) : W64 :=
  let x := s.peg p
  flag x.narrow 0 ||| flag x.lastRel 1 ||| fld x.lastScope 2 ||| fld x.narrowCount 16 ||| fld x.releaser 32

/-! ### Watches (R230 to R239) -/

def arm (s : State) (i : Nat) : ArmWindow := s.arms.get {} i
def setArm (s : State) (i : Nat) (w : ArmWindow) : State := { s with arms := s.arms.set i w }

def die (s : State) (r d : Nat) : Die := s.dies.get {} (r, d)

/-- A core or block die, and its region, are live. -/
def dieLive (s : State) (r d : Nat) : Bool := s.regionLive r && (s.die r d).state == .live

/-- The lowest free entry of a table range. -/
def freeEntry (s : State) (home : Nat) (t : WTable) (first n : Nat) : Option WKey :=
  ((List.range n).find? fun i => (s.watches.find ⟨home, t, first + i⟩).isNone).map fun i => ⟨home, t, first + i⟩

/-- The entry an accepted watch takes (R233, R234). -/
def pickEntry (s : State) (home kind target : Nat) : Option WKey :=
  let hw := if kind = 0 then s.freeEntry home .block (target * 32) 32 else s.freeEntry home .shared 0 4096
  match hw with
  | some k => some k
  | none => s.freeEntry home .spill 0 16384

/-- The checks of R232 that do not need an entry, and for function `fn` of a host port those of R407: the lowest failing
code, or OK. -/
def armCheck (s : State) (fn : Option Nat) (w0 w2 : W64) : Nat :=
  let kind := bits w0 19 18
  let t := w2.toNat
  let range := bits w0 63 56 != 0 || kind == 3 || ((kind != 2 || fn.isSome) && bits w0 55 36 != 0) ||
    (kind == 0 && decide (511 < t)) ||
    (kind == 1 && match fn with
      | none => decide (2 ^ 20 ≤ t) || decide (143 < t % 256) || bits w2 19 9 == 0
      | some f => decide ((if f = 0 then 2048 else 64) ≤ t))
  if range then stRANGE
  else if kind = 2 ∧ t % 8 ≠ 0 then stALIGN
  else if !s.regionLive (pegHome (bits w0 15 0)) || (kind == 1 && fn.isNone && !s.dieLive (t % 256 / 36) 2) then stPEER_LOST
  else if kind = 0 ∧ (s.block t).state = .muted then stMUTED
  else stOK

/-- The watch a push arms. -/
def watchOf (armer : Nat) (w0 w1 w2 v : W64) : Watch :=
  { peg := bits w0 15 0, cond := bits w0 17 16, kind := bits w0 19 18, operand := w1, target := w2, value := v,
    pasid := bits w0 55 36, left := if bits w0 35 20 = 0 then none else some (bits w0 35 20), armer := armer }

/-- A store to VALUE pushes the arm made from the words stored since the last push (R231 to R234). Of the codes of R232,
RANGE for want of an entry is the lowest (R13). -/
def armPush (s : State) (i armer : Nat) (v : W64) : State :=
  let a := s.arm i
  let w := watchOf armer a.w0 a.w1 a.w2 v
  let st := s.armCheck (if 1000 ≤ i then some ((i - 1000) % 16) else none) a.w0 a.w2
  match s.pickEntry (pegHome w.peg) w.kind w.target.toNat with
  | none => s.setArm i { a with w0 := 0, w1 := 0, w2 := 0, result := w64 stRANGE }
  | some k =>
    if st ≠ stOK then s.setArm i { a with w0 := 0, w1 := 0, w2 := 0, result := w64 st }
    else
      let now := condHolds w.cond (s.peg w.peg).value w.operand
      let s1 := s.setArm i { a with w0 := 0, w1 := 0, w2 := 0, result := flag now 8 ||| fld (handleOf k (s.gen k)) 32 }
      let s2 := if k.table = .spill then s1.bump (WATCH_SPILL_ARMS k.home) 1 else s1
      let s3 : State := { s2 with watches := s2.watches.set k w }
      if now then s3.releaseWatch k w 0 else s3

/-- A store to CANCEL (R238). -/
def watchCancel (s : State) (i : Nat) (v : W64) : State :=
  let (k, g) := keyOfHandle (bits v 63 32)
  match s.watches.find k with
  | some w =>
    if g = s.gen k ∧ !w.due then (s.freeWatch k).setArm i { s.arm i with cancel := w64 stOK }
    else s.setArm i { s.arm i with cancel := w64 stSTATE }
  | none => s.setArm i { s.arm i with cancel := w64 stSTATE }

/-- At the start of a mark (R43, R235): a watch whose t-th mark this is can fire no more from now on; a spilled one is evaluated
first. -/
def watchDue (s : State) : State :=
  let s := s.releaseAll (selectWatches s.watches fun k w =>
    k.table == .spill && w.left == some 1 && s.regionLive k.home && condHolds w.cond (s.peg w.peg).value w.operand) 0
  { s with watches := s.watches.map fun (k, w) => (k, if w.left = some 1 then { w with left := some 0, due := true } else w) }

/-- Step 4 of a mark for the watches (R234, R235): the spilled watches of each live home are evaluated, and every
timeout counts the mark. -/
def watchMark (s : State) : State :=
  let s := s.releaseAll (selectWatches s.watches fun k w =>
    k.table == .spill && !w.due && s.regionLive k.home && condHolds w.cond (s.peg w.peg).value w.operand) 0
  { s with watches := s.watches.map fun (k, w) =>
      match w.left with
      | some (n + 1) => (k, { w with left := some n })
      | _ => (k, w) }

/-- The watch was armed by a host function (R407). -/
def hostArmed (w : Watch) : Bool := w.armer / 512 % 4 == 3

/-- Watches whose target is a hart (R239): a block's sequencer or a core. -/
def targetsHart (w : Watch) (h : Nat) : Bool :=
  if h < 144 then w.kind == 1 && !hostArmed w && w.target.toNat % 256 == h else w.kind == 0 && w.target.toNat + 144 == h

/-- The effects of a target that is reset, muted or lost (R239): its watches are cancelled and its events dropped. -/
def dropTarget (s : State) (h : Nat) : State :=
  let ws := s.watches.filter fun x => targetsHart x.2 h
  let s := ws.foldl (fun s x => s.freeWatch x.1) s
  let s : State := if (s.harts.get {} h).eiids = [] then s else { s with harts := s.harts.set h { s.harts.get {} h with eiids := [] } }
  { s with eventQ := s.eventQ.erase h, heldEvents := s.heldEvents.filter fun x => x.2.1 != h,
           fired := s.fired.filter fun x => !targetsHart x.2.watch h }

/-- HOMES of a hart (R239): the regions that hold a watch targeting it. -/
def homesOf (s : State) (h : Nat) : List Nat :=
  (List.range 4).filter fun r => s.watches.any fun x => x.1.home == r && targetsHart x.2 h

end State

end Sys2Proof.Machine
end

