-- ==== Sys2Proof/Machine/Block.lean ====
section
/-!
DEFINITION. The compute block: command fields, queues, dependencies, completion, halt, reset and mute (chapter 4), and the
tuning checks, scores and evidence of chapter 15.
-/
namespace Sys2Proof.Machine

/-- Bits `[hi:lo]` of the field at a byte offset of a command (R6, R156). -/
def Cmd.f (c : Cmd) (off hi lo : Nat) : Nat := (c.word.toNat >>> (8 * off + lo)) % 2 ^ (hi + 1 - lo)

def Cmd.opcode (c : Cmd) : Nat := c.f 0 7 0
def Cmd.sig (c : Cmd) : Nat := c.f 1 3 0
def Cmd.sigEn (c : Cmd) : Bool := c.f 1 4 4 == 1
def Cmd.pegEn (c : Cmd) : Bool := c.f 1 5 5 == 1
def Cmd.contOnErr (c : Cmd) : Bool := c.f 1 6 6 == 1
def Cmd.wait (c : Cmd) : Nat := c.f 2 15 0
def Cmd.fretKind (c : Cmd) : Nat := c.f 7 1 0

/-- The header checks: reserved bits, and R157 for an opcode that may be a deadline-tagged fetch or not. -/
def Cmd.headerBad (c : Cmd) (deadlineOk : Bool) : Bool :=
  c.f 1 7 7 != 0 || c.f 7 7 4 != 0 || c.fretKind == 3 || (c.fretKind == 2 && !deadlineOk) ||
    (c.fretKind == 0 && c.f 12 31 0 != 0)

/-- The status of a command that may no longer begin: its target has passed, or the epoch that it names is gone (R38, R45). -/
def Cmd.late (c : Cmd) : Option Nat :=
  if c.target = .passed ∧ c.fretKind = 1 then some stOVERRUN else if c.target = .aborted then some stABORTED else none

/-- Queue and ENGINE number of an opcode (Table 4.4). -/
def engineOf (op : Nat) : Nat :=
  if 0x20 ≤ op ∧ op ≤ 0x24 then 0 else if 0x40 ≤ op ∧ op ≤ 0x45 then 1 else if 0x60 ≤ op ∧ op ≤ 0x63 then 2
  else if 0x70 ≤ op ∧ op ≤ 0x73 then 3 else if op = 0x78 ∨ op = 0x79 then 4 else 7

/-- Base address of the store of a block (Table 1.7). -/
def storeBase (b : Nat) : Nat := 0xE00000000000 + b <<< 21

/-- Bytes of a block store. -/
def storeSize : Nat := 0x200000

/-- DETAIL of a gather-scatter command with no fault address: rows zero-filled or skipped, and rows served from a copy (R164). -/
def Run.gsDetail (r : Run) : W64 := fld (r.oob % 2 ^ 32) 0 ||| fld (r.bisqueRows % 2 ^ 32) 32

/-- A started command stops with a status (R46, R139, R164, R183, R185, R186).  The rows that a load had written when the stop came
are a free value up to K_ROWS: no command carries the cycles of R98. -/
def Run.stop (r : Run) (status : Nat) : Run :=
  let r := { r with status := some status }
  if engineOf r.cmd.opcode = 3 then { r with detail := r.gsDetail, bisque := decide (0 < r.bisqueRows) }
  else if r.cmd.opcode = 0x20 ∧ r.writing then { r with count := (Config.rowsLoaded r.free (r.cmd.f 26 15 0)).val }
  else r

namespace Block

def engine (x : Block) (e : Nat) : Engine := x.engines.get {} e
def setEngine (x : Block) (e : Nat) (g : Engine) : Block := { x with engines := x.engines.set e g }

/-- Every command that is not complete: queued, spilled or started. -/
def outstanding (x : Block) : List Cmd :=
  x.engines.flatMap fun (_, g) => g.hw ++ g.spill ++ g.started.map (·.cmd)

/-- A command still waits on a token (R158). -/
def waiting (x : Block) (c : Cmd) : Bool :=
  x.outstanding.any fun d => d.seq < c.seq && d.sigEn && c.wait.testBit d.sig

/-- A waited token carries an error mark below the command's SEQ (R159). -/
def tokenFailed (x : Block) (c : Cmd) : Bool :=
  x.marks.any fun (t, m) => c.wait.testBit t && decide (m < c.seq)

/-- BLK_TOKEN_ERR (Table 4.20): bit t set while token t has an error mark. -/
def tokenErr (x : Block) : W64 := x.marks.foldl (fun v (t, _) => v ||| fld 1 t) 0

/-- The front of the queue of engine `e` is moved to the started commands, complete with a status. -/
def finishHead (x : Block) (e status : Nat) : Block :=
  let g := x.engine e
  match g.hw with
  | c :: rest => x.setEngine e { g with hw := rest, started := g.started ++ [{ cmd := c, status := some status }] }
  | [] => x

/-- Fret-bound commands at the front of a queue whose target has passed complete with OVERRUN (R45, R46). -/
def settle (x : Block) (e : Nat) : Nat → Block
  | 0 => x
  | fuel + 1 =>
    match (x.engine e).hw with
    | c :: _ => match c.late with
      | some st => settle (x.finishHead e st) e fuel
      | none => x
    | [] => x

/-- Every queued command of engine `e` completes with a status and COUNT 0. -/
def flushQueue (x : Block) (e status : Nat) : Block :=
  let g := x.engine e
  x.setEngine e { hw := [], spill := [],
                  started := g.started ++ (g.hw ++ g.spill).map fun c => { cmd := c, status := some status } }

/-- Started commands that have not stopped and satisfy `p` stop with a status (R46, R185, R186).  Rows fed and not
committed are discarded, and a load that is stopped leaves SHADOW EMPTY (R139). -/
def stopRuns (x : Block) (e status : Nat) (p : Cmd → Bool) : Block :=
  let g := x.engine e
  let hit (r : Run) : Bool := r.status.isNone && p r.cmd
  let seqs := (g.started.filter hit).map (·.cmd.seq)
  let load := g.started.any fun r => hit r && r.cmd.opcode == 0x20
  let x := x.setEngine e { g with started := g.started.map fun r => if hit r then r.stop status else r }
  if e = 0 then
    { x with array := { x.array with groups := x.array.groups.filter (fun gr => !seqs.contains gr.seq),
                                     shadowState := if load then .empty else x.array.shadowState } }
  else x

def engineList : List Nat := [0, 1, 2, 3, 4]

end Block

/-- The target of a fret-bound or deadline field at acceptance (R45). -/
def targetOf (s : State) (kind fret : Nat) : Target :=
  if kind = 0 ∨ kind = 3 then .free
  else if !s.epochSet then .passed
  else
    let d := (fret + 2 ^ 32 - s.fret % 2 ^ 32) % 2 ^ 32
    if 1 ≤ d ∧ d ≤ 2 ^ 31 then .mark (s.fret + d) else .passed

namespace State

/-- A cross-check that involves a block is abandoned on both blocks (R481). -/
def xchkAbandon (s : State) (b : Nat) : State :=
  match (s.block b).xchk with
  | some (p, _) =>
    ((s.updBlock b fun x => { x with xchk := none }).updBlock p fun x => { x with xchk := none }).bump
      (MGMT_XCHK_PREEMPT (b / 128)) 1
  | none => s

/-- A queue takes a pushed command: the hardware queue, or the spill queue once it holds one (R154). -/
def enqueue (s : State) (b e : Nat) (c : Cmd) : State :=
  let g := (s.block b).engine e
  if g.spill = [] ∧ g.hw.length < 64 then
    s.updBlock b fun x => (x.setEngine e { g with hw := g.hw ++ [c] }).settle e 64
  else
    (s.updBlock b fun x => x.setEngine e { g with spill := g.spill ++ [{ c with spilled := true }] }).bump
      (BLK_SPILL_PUSHES b) 1

/-- The push of a command (R152 to R154, R186): the staging window reads zero afterwards.  Where the spill queue is full
the pushing store stalls and nothing changes; a block of a lost die takes no command (R187). -/
def pushCmd (s : State) (b : Nat) (v : W64) : State :=
  let x := s.block b
  let word : BitVec 512 := (x.staging &&& BitVec.ofNat 512 (2 ^ 448 - 1)) ||| (v.setWidth 512 <<< 448)
  let c0 : Cmd := { seq := x.nextSeq, word := word }
  let c := { c0 with target := targetOf s c0.fretKind (c0.f 12 31 0) }
  let e := engineOf c.opcode
  let g := x.engine e
  if 4032 ≤ g.spill.length ∨ !s.dieLive (b / 128) (b % 128 / 64) then s
  else
    let s := s.xchkAbandon b
    let s := s.updBlock b fun x => { x with staging := 0, nextSeq := x.nextSeq + 1 }
    let finish (st : Nat) : State :=
      s.updBlock b fun x => x.setEngine e { g with started := g.started ++ [{ cmd := c, status := some st }] }
    if x.state = .muted then finish stMUTED
    else if x.state = .reset then finish stABORTED
    else if e = 7 then finish stRANGE
    else s.enqueue b e c

/-- Up to 32 commands move from the spill queue when the hardware queue has fallen to 32 (R154). -/
def refill (s : State) (b e : Nat) : State :=
  let g := (s.block b).engine e
  if g.spill ≠ [] ∧ g.hw.length ≤ 32 then
    s.updBlock b fun x => (x.setEngine e { g with hw := g.hw ++ g.spill.take 32, spill := g.spill.drop 32 }).settle e 64
  else s

/-- The end of the wait of the command at the front of a queue (R158, R159). -/
def tokenWaitEnd (s : State) (b e : Nat) : State :=
  let x := s.block b
  match (x.engine e).hw with
  | c :: rest =>
    if c.wait = 0 ∨ c.waited ∨ x.waiting c then s
    else if x.tokenFailed c && !c.contOnErr then s.setBlock b ((x.finishHead e stABORTED).settle e 64)
    else s.setBlock b (x.setEngine e { x.engine e with hw := { c with waited := true } :: rest })
  | [] => s

/-! ### Completion (R161 to R164) -/

/-- The gather-scatter commands that have issued every row and whose last write is acknowledged have ended (R161, R177). -/
def gsFinish (s : State) (b : Nat) : State :=
  s.updBlock b fun x =>
    let g := x.engine 3
    x.setEngine 3 { g with started := g.started.map fun r =>
      if r.status.isNone ∧ !s.out.any (fun q => q.posted && q.origin == .gs b r.cmd.seq) then { r with status := r.stopping } else r }

/-- The running commands of every engine of a block that satisfy `p` stop with a status. -/
def stopAll (s : State) (b status : Nat) (p : Cmd → Bool) : State :=
  (s.gsFinish b).updBlock b fun x => Block.engineList.foldl (fun x e => x.stopRuns e status p) x

/-- Ring entries, and whether the ring is full (R163). -/
def cplSize (s : State) (b : Nat) : Nat := 2 ^ bits (s.reg (BLK_CPL_CTRL b)) 27 24
def cplFull (s : State) (b : Nat) : Bool :=
  ((s.reg (BLK_CPL_TAIL b)).toNat + 2 ^ 32 - (s.reg (BLK_CPL_HEAD b)).toNat) % 2 ^ 32 == s.cplSize b
def cplEnabled (s : State) (b : Nat) : Bool := bit (s.reg (BLK_CPL_CTRL b)) 29

/-- The completion record of a finished command (Table 4.6), as a 256-bit number. -/
def cplRecord (s : State) (b e : Nat) (r : Run) : Nat :=
  let n := (s.reg (BLK_CPL_TAIL b)).toNat
  let phase := if n / s.cplSize b % 2 = 0 then 1 else 0
  r.status.getD 0 + r.cmd.opcode <<< 8 + e <<< 16 + phase <<< 24 + r.inexact.toNat <<< 25 + r.bisque.toNat <<< 26 +
    r.cmd.spilled.toNat <<< 27 + (r.count % 2 ^ 32) <<< 32 + (r.cmd.seq % 2 ^ 64) <<< 64 + (r.cmd.f 8 31 0) <<< 128 +
    (s.fret % 2 ^ 32) <<< 160 + r.detail.toNat <<< 192

/-- The effects of a completion beyond its record: the token and its error mark, the fret miss counts, the peg
(R159, R161, Table 1.13).  Only a command whose SIG_EN is 1 marks the token that SIG names (DESIGN CHOICE, log 164). -/
def cplSignals (s : State) (b e : Nat) (r : Run) : State :=
  let st := r.status.getD 0
  let c := r.cmd
  let s := s.updBlock b fun x =>
    let x := x.setEngine e { x.engine e with started := (x.engine e).started.drop 1 }
    let x := if c.sigEn && !isSuccess st then
        { x with marks := x.marks.set c.sig (min c.seq (x.marks.get c.seq c.sig)) } else x
    x.settle e 64
  let s := if st = stOVERRUN then s.bumpFld (FAB_FRET_MISS_COUNT (b / 128)) 31 0 1
    else if st = stDEADLINE ∨ st = stBISQUE_USED then s.bumpFld (FAB_FRET_MISS_COUNT (b / 128)) 63 32 1 else s
  let s := s.noteCompletion (c.f 8 31 0) st (if r.bisque then bits r.detail 63 32 else 0)
  if c.pegEn then s.signalPeg (blockAgent s.moduleId b) (c.f 4 15 0) (c.f 7 3 2) (w64 (c.f 6 7 0)) else s

/-- A wake ends WFI (R236). -/
def wake (s : State) (h : Nat) : State :=
  if (s.harts.get {} h).wfi then { s with harts := s.harts.set h { s.harts.get {} h with wfi := false } } else s

/-- A written record wakes a sequencer in WFI where BLK_CPL_CTRL.WAKE is set (Table 4.18). -/
def recordWake (s : State) (b : Nat) : State := if bit (s.reg (BLK_CPL_CTRL b)) 28 then s.wake (144 + b) else s

/-- A completion signal at FABRIC waits for the writes to other modules that an acquire of the block made visible to it (R224). -/
def signalHeld (s : State) (b : Nat) (c : Cmd) : Bool :=
  c.pegEn && c.f 7 3 2 == 3 && (s.carried.get [] (144 + b)).any s.awaited

/-- The completion of the oldest started command of engine `e`, once it has stopped, its writes are acknowledged (R161)
and every release-add it owes is made.  A full ring holds it: the engine takes no further command and BLK_CPL_STALL_CYCLES counts the cycle.  A block in
RESET signals without a record where the ring has no room (R185). -/
def completionWrite (s : State) (b e : Nat) : State :=
  let s := s.gsFinish b
  match ((s.block b).engine e).started with
  | r :: _ =>
    if r.status.isNone ∨ r.owed ≠ [] ∨ s.out.any (fun q => q.posted && q.origin == .gs b r.cmd.seq) ∨ s.signalHeld b r.cmd then s
    else if !s.cplEnabled b then s.cplSignals b e r
    else if s.cplFull b then
      if (s.block b).state = .reset then s.cplSignals b e r else s.bump (BLK_CPL_STALL_CYCLES b) 1
    else
      let at_ := bits (s.reg (BLK_CPL_CTRL b)) 20 0 + ((s.reg (BLK_CPL_TAIL b)).toNat % s.cplSize b) * 32
      let s := s.wrNat (storeBase b + at_) 32 (s.cplRecord b e r)
      let s := s.setReg (BLK_CPL_TAIL b) (w64 (((s.reg (BLK_CPL_TAIL b)).toNat + 1) % 2 ^ 32))
      (s.recordWake b).cplSignals b e r
  | [] => s

/-! ### Taking a command -/

/-- An engine other than the matrix array may take the command at the front of its queue (R155, R158, R163, R483). -/
def canTake (s : State) (b e : Nat) (c : Cmd) : Bool :=
  let x := s.block b
  (x.state == .running || x.state == .halted) && (c.wait == 0 || c.waited) && !x.tuning.any (fun t => t.engine == e || t.engine == 8) &&
    !(s.cplEnabled b && s.cplFull b && (x.engine e).started.any (·.status.isSome))

/-- The command at the front of a queue leaves it and becomes the run `r`. -/
def startRun (s : State) (b e : Nat) (r : Run) : State :=
  s.updBlock b fun x =>
    let g := x.engine e
    x.setEngine e { g with hw := g.hw.drop 1, started := g.started ++ [r] }

/-- The command at the front of the queue is started: refused with `check`, or complete with OVERRUN or ABORTED if its target has
passed or is gone, or running. -/
def takeHead (s : State) (b e : Nat) (c : Cmd) (check : Nat) : State :=
  s.startRun b e { cmd := c, status := if check ≠ stOK then some check else c.late }

/-- The command that an engine works on: the started one that has neither ended nor issued all its work (R155). -/
def activeRun (s : State) (b e : Nat) : Option Run :=
  ((s.block b).engine e).started.find? fun r => r.status.isNone && r.stopping.isNone

/-- A started command of an engine replaced, by SEQ. -/
def putRun (s : State) (b e : Nat) (r : Run) : State :=
  s.updBlock b fun x =>
    x.setEngine e { x.engine e with started := (x.engine e).started.map fun q => if q.cmd.seq = r.cmd.seq then r else q }

/-- One step of an engine other than the matrix array on commands of one opcode: it takes the command at the front of
its queue if it runs none, and does `n` units of the work. -/
def engineStep (s : State) (b e op n : Nat) (check : State → Nat → Cmd → Nat)
    (work : State → Nat → Run → Nat → State × Run) : State :=
  let go (s : State) : State :=
    match s.activeRun b e with
    | some r => if r.cmd.opcode = op then let (s', r') := work s b r n; s'.putRun b e r' else s
    | none => s
  match s.activeRun b e, ((s.block b).engine e).hw with
  | some _, _ => go s
  | none, c :: _ => if c.opcode = op ∧ s.canTake b e c then go (s.takeHead b e c (check s b c)) else s
  | none, [] => s

/-! ### Tuning checks, evidence and suspect scores (R483 to R489) -/

/-- The suspect score: scoring events within the last 2^20 frets (R486). -/
def score (s : State) (b : Nat) : Nat :=
  min 3 ((s.block b).scores.filter fun f => decide (s.fret < f + 2 ^ 20)).length

/-- The first free evidence slot of a region. -/
def freeSlot (s : State) (r : Nat) : Option Nat := (List.range 8).find? fun i => (s.evidence.find (r, i)).isNone

/-- An event that starts a tuning check on an engine: evidence is captured if a slot is free (R483, R489). -/
def tuningStart (s : State) (b engine : Nat) (ev : Evidence) : State :=
  let r := b / 128
  match s.freeSlot r with
  | some i =>
    let s : State := { s with evidence := s.evidence.set (r, i) { ev with fret := s.fret, score := s.score b } }
    s.updBlock b fun x => { x with tuning := x.tuning ++ [⟨engine, ev.kind, some i⟩] }
  | none =>
    (s.bump (MGMT_EVID_DROPPED r) 1).updBlock b fun x => { x with tuning := x.tuning ++ [⟨engine, ev.kind, none⟩] }

/-- The status that a tuning check's log entry carries (Table 15.13 cause 7). -/
def tuneStatus (kind : Nat) : Nat :=
  match kind with
  | 1 => stBRIDGE
  | 2 => stRESIDUE
  | 3 => stPARITY
  | _ => stMISCOMPARE

/-- A tuning check's outcome (1 passed, 2 failed, 3 abandoned) in its evidence slot and in the log. -/
def tuningRecord (s : State) (b : Nat) (t : Tuning) (outcome : Nat) : State :=
  let r := b / 128
  let sc := s.score b
  let s : State := match t.slot with
    | some i => match s.evidence.find (r, i) with
      | some ev => { s with evidence := s.evidence.set (r, i) { ev with tune := outcome, score := sc } }
      | none => s
    | none => s
  s.log r (tuneStatus t.kind) 7 (blockAgent s.moduleId b).code 0 (w64 b ||| fld outcome 16 ||| fld sc 24)

/-- Every tuning check of a block is abandoned. -/
def tuningAbandon (s : State) (b : Nat) : State :=
  let ts := (s.block b).tuning
  let s := s.updBlock b fun x => { x with tuning := [] }
  ts.foldl (fun s t => s.tuningRecord b t 3) s

/-- The mute of a block whose die is live (R186, R239, R487): running commands stop with MUTED, queued ones complete
with MUTED, its watches go, and a block muted by its score enters the mute list. -/
def muteBlock (s : State) (b cause : Nat) : State :=
  let x := s.block b
  if x.state = .halted ∨ x.state = .running then
    let s := (s.xchkAbandon b).tuningAbandon b
    let s := (s.stopAll b stMUTED fun _ => true).updBlock b fun x =>
      let x := { x with state := .muted, muteCause := cause }
      Block.engineList.foldl (fun x e => x.flushQueue e stMUTED) x
    let s := s.dropTarget (144 + b)
    let s : State := if cause = 1 then { s with muteList := if s.muteList.contains b then s.muteList else s.muteList ++ [b] } else s
    s.log (b / 128) stMUTED 7 (blockAgent s.moduleId b).code 0 (w64 b ||| fld (s.score b) 24 ||| fld cause 32)
  else s.log (b / 128) stSTATE 1 (blockAgent s.moduleId b).code 0 0

/-- The end of the oldest tuning check of a block (R485, R486). -/
def tuningEnd (s : State) (b : Nat) (passed : Bool) : State :=
  match (s.block b).tuning with
  | [] => s
  | t :: rest =>
    let s := s.updBlock b fun x => { x with tuning := rest }
    if passed then
      let s := (s.bump (MGMT_TUNE_PASS (b / 128)) 1).updBlock b fun x =>
        { x with scores := (x.scores.filter fun f => decide (s.fret < f + 2 ^ 20)) ++ [s.fret] }
      let s := s.tuningRecord b t 1
      if 3 ≤ s.score b then s.muteBlock b 1 else s
    else
      let s := (s.bump (MGMT_TUNE_FAIL (b / 128)) 1).tuningRecord b t 2
      s.muteBlock b 1

/-- A RESET that Table 4.15 allows (R185): the block is in RESET at once, its commands complete with `st`: ABORTED, or
HOST_LOST after a host loss (R421). -/
def resetBlock (s : State) (b st : Nat) : State :=
  let s := (s.xchkAbandon b).tuningAbandon b
  let s := (s.stopAll b st fun _ => true).updBlock b fun x =>
    let x := { x with state := .reset }
    Block.engineList.foldl (fun x e => x.flushQueue e st) x
  s.dropTarget (144 + b)

/-- Every completion of a block has been written and signalled. -/
def drained (s : State) (b : Nat) : Bool := (s.block b).engines.all fun (_, g) => g.started.isEmpty && g.hw.isEmpty

/-- The matrix counters of Table 3.14. -/
def mxCounters (b : Nat) : List Reg :=
  [MX_FEED_CYCLES b, MX_FREEZE_FEED b, MX_FREEZE_DRAIN b, MX_BRIDGE_TRANSIENT b, MX_BRIDGE_FAIL b, MX_BRIDGE_SKIP b,
    MX_PARITY_COUNT b, MX_REPLAY_CYCLES b]

/-- Step 4 of R185 and the end of the release of R148: queues, array and entries reset, the matrix counters at 0
(R140), and the block HALTED. -/
def releaseBlock (s : State) (b : Nat) : State :=
  (s.updBlock b fun x => { state := .halted, scores := x.scores }).zeroRegs (mxCounters b)

/-- Every completion that a block in RESET owes is written or signalled. -/
def finishCompletions (s : State) (b : Nat) : State :=
  [0, 1, 2, 3, 4, 7].foldl (fun s e =>
    (List.range (((s.block b).engine e).started.length)).foldl (fun s _ => s.completionWrite b e) s) s

/-- The block page of a command refused by Table 4.15 (R184). -/
def refuseBlock (s : State) (a : Agent) (b off status : Nat) : State :=
  s.log (b / 128) status 1 a.code (blkReg b off % 0x100000000) 0

/-- The loss of a block's die (R187): no completion is written, commands are discarded. -/
def loseBlock (s : State) (b : Nat) : State :=
  let s := ((s.xchkAbandon b).tuningAbandon b).updBlock b fun x =>
    { x with state := .muted, muteCause := 2, engines := [], array := {}, staging := 0, xchk := none }
  s.dropTarget (144 + b)

/-- The stop of fret-bound commands at their target mark `c` (R46, R131): running ones stop with OVERRUN, queued ones
are past their target. Deadline-tagged fetches are settled by the gather-scatter engine. -/
def blockMark (s : State) (b c : Nat) : State :=
  (s.stopAll b stOVERRUN fun k => k.target == .mark c && k.fretKind == 1).updBlock b fun x =>
    Block.engineList.foldl (fun x e =>
      let g := x.engine e
      let age (k : Cmd) : Cmd := if k.target = .mark c then { k with target := .passed } else k
      (x.setEngine e { g with hw := g.hw.map age, spill := g.spill.map age }).settle e 64) x

end State

end Sys2Proof.Machine
end

