-- ==== Sys2Proof/Machine/MemMap.lean ====
section
/-!
DEFINITION. The module's address map (Table 1.7), channel groups and holes (R301, R302, R309), and the PAT entry of a
granule (R315).
-/
namespace Sys2Proof.Machine

/-- What a 48-bit module physical address names (Table 1.7, R314). -/
inductive Place where
  | hbm (r off : Nat)
  | lpd (r off : Nat)
  | t4 (p off : Nat)
  | t5 (p off : Nat)
  | store (b off : Nat)
  | peg (p off : Nat)
  | mmio (g : Reg)
  | reserved
  deriving DecidableEq, Repr

/-- The map of Table 1.7, holes and reserved areas apart. -/
def placeRaw (a : Nat) : Place :=
  if a < 0xC000000000 then .hbm (a / 0x3000000000) (a % 0x3000000000)
  else if 0x10000000000 ≤ a ∧ a < 0x28000000000 then .lpd ((a - 0x10000000000) / 0x6000000000) ((a - 0x10000000000) % 0x6000000000)
  else if 0x100000000000 ≤ a ∧ a < 0x200000000000 then .t4 ((a - 0x100000000000) / 0x40000000000) ((a - 0x100000000000) % 0x40000000000)
  else if 0x200000000000 ≤ a ∧ a < 0x300000000000 then .t5 ((a - 0x200000000000) / 0x40000000000) ((a - 0x200000000000) % 0x40000000000)
  else if 0xE00000000000 ≤ a ∧ a < 0xE00040000000 then .store ((a - 0xE00000000000) / 0x200000) ((a - 0xE00000000000) % 0x200000)
  else if 0xE10000000000 ≤ a ∧ a < 0xE10000400000 then .peg ((a - 0xE10000000000) / 64) ((a - 0xE10000000000) % 64)
  else if 0xF00000000000 ≤ a ∧ a < 0xF00400000000 then .mmio (a - 0xF00000000000)
  else .reserved

def gib : Nat := 0x40000000

/-- The channels of group `g` of region `r` (R301): channels 4g to 4g + 3 of each of the region's four stacks. -/
def groupChannels (r g : Nat) : List Nat :=
  (List.range 16).map fun i => (r * 4 + i / 4) * 32 + 4 * g + i % 4

/-- The packages of a region's LPDDR5X group. -/
def regionPackages (r : Nat) : List Nat := (List.range 6).map fun i => r * 6 + i

/-- The sub-port and offset below a root port that a T4 offset decodes to: expanders in increasing sub-port order, each at
the next multiple of 256 MiB (R414). -/
def t4Decode (subs : Map Nat SubPort) (off : Nat) : Option Nat :=
  let go := fun (acc : Nat × Option Nat) (k : Nat) =>
    let c := (subs.get {} k).capacity
    if c = 0 then acc
    else
      let base := ceilDiv acc.1 0x10000000 * 0x10000000
      (base + c, if base ≤ off ∧ off < base + c then some k else acc.2)
  ([0, 1, 2, 3].foldl go (0, none)).2

namespace State

def hostPort (s : State) (p : Nat) : HostPort := s.hostPorts.get {} p

/-- A T4 address is decoded and reachable (R414, R419). -/
def t4Reachable (s : State) (p off : Nat) : Bool :=
  match t4Decode (s.hostPort p).subs off with
  | some k => ((s.hostPort p).subs.get {} k).reachable
  | none => false

/-- A channel group; group 8 is the region's LPDDR5X packages (R309). -/
def group (s : State) (r g : Nat) : ChGroup :=
  s.groups.get { live := if g = 8 then regionPackages r else groupChannels r g } (r, g)

def channel (s : State) (ch : Nat) : Channel := s.hbm.get {} ch
def package (s : State) (p : Nat) : Channel := s.lpd.get {} p

/-- Where an interleave of `unit` bytes over the live devices of a group, each of `size` bytes, puts offset `o` of the group: the device
and the byte in it; none in a hole (R302, R309). -/
def interleave (live : List Nat) (unit size o : Nat) : Option (Nat × Nat) :=
  let k := o / unit
  if o < live.length * size then live[k % live.length]?.map fun c => (c, k / live.length * unit + o % unit) else none

/-- The HBM channel and the byte in it of a region offset (R302), and the LPDDR5X package and the byte in it (R309). -/
def hbmWhere (s : State) (r off : Nat) : Option (Nat × Nat) :=
  interleave (s.group r (off / (24 * gib))).live 512 0x60000000 (off % (24 * gib))
def lpdWhere (s : State) (r off : Nat) : Option (Nat × Nat) := interleave (s.group r 8).live 4096 (64 * gib) off

/-- The HBM channel and the LPDDR5X package that a region offset lies in; none in a hole. -/
def hbmChannel (s : State) (r off : Nat) : Option Nat := (s.hbmWhere r off).map (·.1)
def lpdPackage (s : State) (r off : Nat) : Option Nat := (s.lpdWhere r off).map (·.1)

/-- The place of an address, with holes, reserved areas and undecoded windows reserved (R302, R303, R309, R310,
R314). -/
def place (s : State) (a : Nat) : Place :=
  match placeRaw a with
  | .hbm r off =>
    if (s.hbmChannel r off).isNone || (off / (24 * gib) % 4 == 0 && decide (off % (24 * gib) < gib / 2)) then .reserved
    else .hbm r off
  | .lpd r off =>
    if (s.lpdPackage r off).isNone || decide ((s.group r 8).live.length * 64 * gib ≤ off + s.headerGib * gib) then .reserved
    else .lpd r off
  | .t4 p off => if (t4Decode (s.hostPort p).subs off).isNone then .reserved else .t4 p off
  | .t5 p off => if (s.hostPort p).endpoint then .t5 p off else .reserved
  | p => p

/-- Home region of memory (R279, R300). -/
def placeHome : Place → Nat
  | .hbm r _ => r
  | .lpd r _ => r
  | .t4 p _ => p
  | .t5 p _ => p
  | .store b _ => b / 128
  | .peg p _ => pegHome p
  | .mmio g => g / 0x100000000
  | .reserved => 0

/-- Memory that may be cached (R276). -/
def cacheable (s : State) (a : Nat) : Bool :=
  match s.place a with
  | .hbm .. | .lpd .. | .t4 .. => true
  | _ => false

/-- The content of an address is lost and a write of it is discarded at the home: its channel is mapped out, or its group is
being rebuilt (R306, R307). -/
def unreadable (s : State) (a : Nat) : Bool :=
  match placeRaw a with
  | .hbm r off =>
    (s.group r (off / (24 * gib))).rebuilding ||
      (match s.hbmChannel r off with | some ch => (s.channel ch).state == .mappedOut || (s.channel ch).state == .test | none => true)
  | .lpd r off =>
    (s.group r 8).rebuilding ||
      (match s.lpdPackage r off with | some p => (s.package p).state == .mappedOut || (s.package p).state == .test | none => true)
  | _ => false

/-- The PAT index of an address: region and index (R315). -/
def patIndex (a : Nat) : Option (Nat × Nat) :=
  match placeRaw a with
  | .hbm r off => some (r, off / 0x200000)
  | .lpd r off => some (r, 98304 + off / 0x200000)
  | .t4 p off => some (p, 294912 + off / 0x200000)
  | .t5 p off => some (p, 2392064 + off / 0x200000)
  | _ => none

/-- The tier that an index stands for (R315). -/
def patTier (i : Nat) : Nat := if i < 98304 then 2 else if i < 294912 then 3 else if i < 2392064 then 4 else 5

/-- A PAT entry. -/
def patEntry (s : State) (r i : Nat) : BitVec 128 := s.pat.get (BitVec.ofNat 128 (patTier i)) (r, i)

/-- An entry is looked up in the hardware's cache of its table, of `cap` entries a region: a miss is counted in `g` and the entry enters
the cache, from which a free value chooses the one that goes (R331, R332, log 178). -/
def tableLookup (s : State) (held : List (Nat × Nat)) (cap : Nat) (g : Reg) (e : Nat × Nat) : State × List (Nat × Nat) :=
  if held.contains e then (s, held)
  else
    let s := s.bump g 1
    let mine := held.filter (·.1 == e.1)
    if mine.length < cap then (s, e :: held)
    else (s.nextFree, e :: held.erase (mine.getD (Config.victim s.freeCount % cap) e))

/-- The PAT entry of an address is looked up, for an access served at its home. -/
def patLookup (s : State) (a : Nat) : State :=
  match patIndex a with
  | some e =>
    let (s, held) := s.tableLookup s.patCache 8192 (MGMT_MEM_PAT_MISSES e.1) e
    { s with patCache := held }
  | none => s

/-- The remote bisque table of a region is looked up for a granule, in slot `i` or in none. -/
def rbqLookup (s : State) (r : Nat) (slot : Option Nat) : State :=
  match slot with
  | some i =>
    let (s, held) := s.tableLookup s.rbqCache 4096 (MGMT_MEM_RBQ_MISSES r) (r, i)
    { s with rbqCache := held }
  | none => s.bump (MGMT_MEM_RBQ_MISSES r) 1

/-- A granule of VOLATILE_DEFAULT (R319). -/
def volatileDefault (s : State) (a : Nat) : Bool := (patIndex a).any fun x => (s.patEntry x.1 x.2).getLsbD 6

/-- Tier, bisque and formats of an entry's first word. -/
def entryFmtBad (d0 d1 : W64) : Bool :=
  let bisque := bit d0 4
  let src := bits d0 20 16
  let cpy := bits d0 28 24
  if bisque then !(src == 0 || src == 1 || src == 2) || !(cpy == 3 || cpy == 4 || cpy == 0x0E)
  else src != 0 || cpy != 0 || d1 != 0

/-- Bytes of a copy (R329). -/
def copyExtent (d0 : W64) : Nat :=
  let n := 2 ^ 21 / (fmtWidth (bits d0 20 16) / 8)
  if bits d0 28 24 = 0x0E then n / 2 + n / 32 else n

/-- A copy lies wholly inside the usable T2 of a region. -/
def inT2 (s : State) (r base len : Nat) : Bool :=
  let ok (a : Nat) : Bool := match s.place a with | .hbm r' _ => r' == r | _ => false
  ok base && ok (base + len - 1)

/-- The granule of an index lies in the compressible window (R310). -/
def compressible (s : State) (r i : Nat) : Bool :=
  decide (98304 ≤ i ∧ i < 294912) &&
    decide ((i - 98304) * 2 ^ 21 + 2 ^ 21 ≤ min (64 * s.headerGib) ((s.group r 8).live.length * 64 - s.headerGib) * gib)

/-- The status of a PAT command (R317). -/
def patStatus (s : State) (r : Nat) (c : PatCmd) : Nat :=
  let op := bits c.cmd 1 0
  let rb := bit c.cmd 2
  let i := bits c.cmd 31 8
  let e := if rb then (s.rbq.get (0, 0, 0) (r, i)).1 else BitVec.ofNat 64 (s.patEntry r i).toNat
  let size := if rb then 65536 else 4489216
  let tier := bits c.d0 2 0
  let wrRange := op == 1 && (bit c.d0 7 || bits c.d0 15 11 != 0 || bits c.d0 23 21 != 0 || bits c.d0 31 29 != 0 ||
    bits c.d0 63 32 != 0 || (if rb then !(tier == 6 || tier == 0) else tier != patTier i) ||
    (bit c.d0 3 && (rb || !s.compressible r i)) || entryFmtBad c.d0 c.d1 ||
    (bit c.d0 4 && !s.inT2 r c.d1.toNat (copyExtent c.d0)) || (rb && bits c.d2 20 0 != 0))
  firstCode [
    (op == 2 && decide (i < size) && !bit e 4, stSTATE),
    (decide (size ≤ i) || bits c.cmd 7 3 != 0 || bits c.cmd 63 32 != 0 || wrRange, stRANGE),
    (op == 1 && decide (c.d1.toNat % 4096 ≠ 0), stALIGN)]

/-- The granule of an address is being re-encoded: a PAT WRITE that changes COMPRESS is in progress (R316). -/
def reencoding (s : State) (a : Nat) : Bool :=
  match patIndex a with
  | some (r, i) => (s.patBusy.find r).any fun c =>
      bits c.cmd 2 0 == 1 && bits c.cmd 31 8 == i && bit c.d0 3 != (s.patEntry r i).getLsbD 3 && s.patStatus r c == stOK
  | none => false

/-- The channel or package of an address is retraining: its controller holds requests (R305). -/
def retraining (s : State) (a : Nat) : Bool :=
  match placeRaw a with
  | .hbm r off => (s.hbmChannel r off).any fun c => (s.channel c).state == .retraining
  | .lpd r off => (s.lpdPackage r off).any fun p => (s.package p).state == .retraining
  | _ => false

/-- A request for a line must wait at the memory behind its home: its granule is being re-encoded, or it needs the line from a device
that is retraining, which one that the SLC serves does not. -/
def memoryHolds (s : State) (line : Nat) : Bool :=
  s.reencoding (line * 128) || (!s.slc.contains line && s.retraining (line * 128))

/-- COPY_VALID of a granule is cleared by a write that its home accepts (R318). -/
def clearCopyValid (s : State) (a : Nat) : State :=
  match patIndex a with
  | some (r, i) =>
    let e := s.patEntry r i
    if e.getLsbD 5 then { s with pat := s.pat.set (r, i) (e &&& ~~~(BitVec.ofNat 128 32)) } else s
  | none => s

/-! ### Lines -/

/-- A line as memory and the SLC hold it; poisoned whole where its home, its channel or its expander is lost. -/
def memLine (s : State) (line : Nat) : Line :=
  { data := BitVec.ofNat 1024 (s.rdNat (line * 128) 128),
    poison :=
      if s.unreadable (line * 128) || !s.regionLive (placeHome (placeRaw (line * 128))) then BitVec.allOnes 16 else (List.range 16).foldl (fun v i => if s.poison.contains (line * 16 + i) then v ||| BitVec.ofNat 16 (2 ^ i) else v) 0 }

/-- A line written where memory and the SLC hold it, with its poison mask (R292). -/
def putLine (s : State) (line : Nat) (l : Line) : State :=
  let s := s.wrNat (line * 128) 128 l.data.toNat
  ((List.range 16).filter fun i => l.poison.getLsbD i).foldl (fun s i => s.addPoison (line * 16 + i)) s

/-- A line that is poisoned whole. -/
def poisonLine (s : State) (line : Nat) : State := (List.range 16).foldl (fun s i => s.addPoison (line * 16 + i)) s

/-- The home region of a line (R279). -/
def lineHome (line : Nat) : Nat := placeHome (placeRaw (line * 128))

/-- The line that a set of the SLC evicts for another, where its 16 ways are taken: which one is a free value. -/
def slcVictim (s : State) (line : Nat) : Option Nat :=
  if s.slc.length < 16 then none
  else
    let ways := s.slc.filter fun n => lineHome n == lineHome line && Config.slcSet n == Config.slcSet line
    if ways.length < 16 then none else ways[Config.victim s.freeCount % ways.length]?

/-- The SLC allocates a line, dirty or clean; the line that it evicts goes to memory if it is dirty (R278). -/
def slcFill (s : State) (line : Nat) (dirty : Bool) : State :=
  let s : State := if dirty && !s.slcDirty.contains line then { s with slcDirty := line :: s.slcDirty } else s
  if s.slc.contains line then s
  else match s.slcVictim line with
    | some v => { s with slc := line :: s.slc.erase v, slcDirty := s.slcDirty.erase v, freeCount := s.freeCount + 1 }
    | none => { s with slc := line :: s.slc }

end State

end Sys2Proof.Machine
end

