-- ==== Sys2Proof/Machine/Coh.lean ====
section
/-!
DEFINITION. Coherence (chapter 8): homes, transactions, snoops, retry, and the atomic coherent accesses that the engines
make of whole lines and of bytes.
-/
namespace Sys2Proof.Machine

/-- The agent of a requester number (Table 8.3). -/
def requester (me p : Nat) : Agent :=
  if p < 656 then hartAgent me p
  else
    let r := (p - 656) / 8
    match (p - 656) % 8 with
    | 0 => engineAgent me r 0
    | 1 => engineAgent me r 1
    | 3 => engineAgent me r 2
    | 4 => engineAgent me r 3
    | 6 => blockAgent me (r * 128)
    | 7 => blockAgent me (r * 128 + 64)
    | _ => engineAgent me r 0

/-- The requester number of an engine port of a region (Table 8.3). -/
def enginePort (r p : Nat) : Nat := 656 + r * 8 + p

/-- The requester of a request; a number past those of Table 8.3 for the home itself. -/
def CReq.who : CReq → Nat
  | .readShared k | .readUnique k | .upgrade k | .writeBack k | .cleanEvict k => k
  | .eRead p | .eWrite p _ | .eMasked p _ _ | .eAtomic p .. => p
  | .backInval => 688

/-- A request of the engine class. -/
def CReq.engine : CReq → Bool
  | .eRead .. | .eWrite .. | .eMasked .. | .eAtomic .. => true
  | _ => false

/-- The request takes a line for writing: COPY_VALID is cleared at its acceptance (R318). -/
def CReq.writes : CReq → Bool
  | .readUnique _ | .upgrade _ | .eWrite .. | .eMasked .. | .eAtomic .. => true
  | _ => false

/-- The request allocates its line in the SLC (R278). -/
def CReq.allocates : CReq → Bool
  | .eRead _ | .cleanEvict _ | .backInval => false
  | _ => true

/-- Whether the holder's copy is taken away (else it is shared). -/
def CReq.takes : CReq → Bool
  | .readShared _ | .eRead _ => false
  | _ => true

/-- Bytes of `new` where `mask` has a 1, of `old` elsewhere. -/
def mergeLine (old new : BitVec 1024) (m : BitVec 128) : BitVec 1024 :=
  let full := (List.range 128).foldl (fun (v : BitVec 1024) i =>
    if m.getLsbD i then v ||| BitVec.ofNat 1024 (255 <<< (8 * i)) else v) 0
  (old &&& ~~~full) ||| (new &&& full)

/-- Poison left by a masked write: a word written whole is clean (R294). -/
def mergePoison (old : BitVec 16) (m : BitVec 128) : BitVec 16 :=
  (List.range 16).foldl (fun (v : BitVec 16) i =>
    if (m.toNat >>> (8 * i)) % 256 = 255 then v &&& ~~~(BitVec.ofNat 16 (2 ^ i)) else v) old

/-- A line with a masked write made. -/
def Line.merge (l : Line) (new : BitVec 1024) (m : BitVec 128) : Line :=
  { data := mergeLine l.data new m, poison := mergePoison l.poison m }

/-- The mask of `n` bytes from offset `off` of a line. -/
def byteMask (off n : Nat) : BitVec 128 := BitVec.ofNat 128 ((2 ^ n - 1) <<< off)

/-- A number of `n` bytes at an offset of a line. -/
def Line.get (l : Line) (off n : Nat) : Nat := (l.data.toNat >>> (8 * off)) % 2 ^ (8 * n)

/-- A line with a number of `n` bytes written at an offset. -/
def Line.put (l : Line) (off n v : Nat) : Line :=
  l.merge (BitVec.ofNat 1024 ((v % 2 ^ (8 * n)) <<< (8 * off))) (byteMask off n)

/-- The first poisoned word of `n` bytes from `off`: its offset in the line. -/
def Line.badWord (l : Line) (off n : Nat) : Option Nat :=
  ((List.range 16).find? fun i => l.poison.getLsbD i && decide (off < 8 * i + 8 ∧ 8 * i < off + n)).map (8 * ·)

/-- Some word of `n` bytes from `off` is poisoned. -/
def Line.bad (l : Line) (off n : Nat) : Bool :=
  (List.range 16).any fun i => l.poison.getLsbD i && decide (off < 8 * i + 8 ∧ 8 * i < off + n)

/-- The result of an AMO operation on `size` bytes, as the RISC-V A extension defines it (R257). -/
def amoResult (op : AmoOp) (size : Nat) (old new : Nat) : Nat :=
  let w := 8 * size
  let a := BitVec.ofNat w old
  let b := BitVec.ofNat w new
  match op with
  | .swap => b.toNat
  | .add => (a + b).toNat
  | .xor => (a ^^^ b).toNat
  | .and => (a &&& b).toNat
  | .or => (a ||| b).toNat
  | .min => if a.toInt ≤ b.toInt then a.toNat else b.toNat
  | .max => if a.toInt ≤ b.toInt then b.toNat else a.toNat
  | .minu => if a.toNat ≤ b.toNat then a.toNat else b.toNat
  | .maxu => if a.toNat ≤ b.toNat then b.toNat else a.toNat

/-- The value an inbound AtomicOp leaves (R410). -/
def atomResult (op : AtomOp) (size old new : Nat) : Nat :=
  match op with
  | .fetchAdd => (old + new) % 2 ^ (8 * size)
  | .swap => new % 2 ^ (8 * size)
  | .cas c => if c.toNat % 2 ^ (8 * size) = old then new % 2 ^ (8 * size) else old
  | .amo o => amoResult o size old new

/-- The caches that an invalidation of an S entry goes to: exact holders, or every cache of each marked group (R280). -/
def snoopTargets (holders : List Nat) (coarse : Bool) : List Nat :=
  if coarse then (List.range 656).filter fun k => holders.any fun h => h / 8 == k / 8 else holders

/-- A transaction replaced in the list of a home: its first occurrence. -/
def replaceFirst (t t' : Txn) : List Txn → List Txn
  | [] => []
  | u :: us => if u = t then t' :: us else u :: replaceFirst t t' us

namespace State

def dirOf (s : State) (line : Nat) : Option Dir := s.dir.find line
/-- The directory entry of a line: a new one takes the last place in the order of allocation. -/
def setDir (s : State) (line : Nat) (d : Option Dir) : State :=
  match d with
  | some x =>
    { s with dir := s.dir.set line x,
             dirOrder := if (s.dir.find line).isSome then s.dirOrder else s.dirOrder ++ [line] }
  | none => { s with dir := s.dir.erase line, dirOrder := s.dirOrder.erase line }
def cacheOf (s : State) (k line : Nat) : Option CLine := s.caches.find (k, line)
def setCache (s : State) (k line : Nat) (c : Option CLine) : State :=
  { s with caches := match c with | some x => s.caches.set (k, line) x | none => s.caches.erase (k, line) }

/-- The directory after `k` holds the line in S beside the holders listed (R280). -/
def sharedDir (holders : List Nat) (k : Nat) : Dir :=
  let hs := if holders.contains k then holders else holders ++ [k]
  .shared hs (decide (4 < hs.length))

/-- A write at a home that cannot be performed: the status that the requester gets (R296, R306), or OK. -/
def homeStatus (s : State) (a : Nat) : Nat :=
  if !s.regionLive (placeHome (placeRaw a)) then stPEER_LOST
  else if s.unreadable a then stPOISON
  else stOK

/-- The record of a write discarded at a home: PEER_LOST in the requester's log, POISON in the home's (R296, R306). -/
def logDiscard (s : State) (ag : Agent) (a st : Nat) : State :=
  if st = stPEER_LOST then s.log (agentRegion ag s.masterRegion) stPEER_LOST 6 ag.code a 0
  else s.log (placeHome (placeRaw a)) stPOISON 6 ag.code a 0

/-! ### Bandwidth regulators (R321) -/

/-- The partition of an address. -/
def partitionOf (s : State) (a : Nat) : Nat :=
  match patIndex a with
  | some (r, i) => ((s.patEntry r i).toNat >>> 8) % 8
  | none => 0

/-- The resource that a line is charged to: HBM 0, LPDDR5X 1. -/
def resourceOf (line : Nat) : Option Nat :=
  match placeRaw (line * 128) with
  | .hbm .. => some 0
  | .lpd .. => some 1
  | _ => none

/-- Bucket (q, p) of a region lets a request of two tokens proceed: MODE OFF or SHARE, or CAP with the tokens held. -/
def bucketAdmits (s : State) (r q p : Nat) : Bool :=
  bits (s.reg (MGMT_REG_CFG r q p)) 33 32 != 1 || decide (2 ≤ s.buckets.get 0 (r, q * 8 + p))

/-- The tokens of a request are spent. -/
def spend (s : State) (r q p : Nat) : State :=
  if bits (s.reg (MGMT_REG_CFG r q p)) 33 32 = 0 then s
  else { s with buckets := s.buckets.set (r, q * 8 + p) (s.buckets.get 0 (r, q * 8 + p) - 2) }

/-- The charge of a request to a region's HBM or LPDDR5X. -/
def charge (s : State) (line : Nat) : State :=
  match resourceOf line with
  | some q => s.spend (lineHome line) q (s.partitionOf (line * 128))
  | none => s

/-- An SLC fill, of a line that the SLC does not hold yet, charged to the partition of the line (R278, R321). -/
def allocate (s : State) (line : Nat) (dirty : Bool) : State :=
  (if s.slc.contains line then s else s.spend (lineHome line) 2 (s.partitionOf (line * 128))).slcFill line dirty

/-- A request to a line is held for tokens: the resource that holds it; `fill` for one that allocates in the SLC. -/
def heldBy (s : State) (line : Nat) (fill : Bool) : Option Nat :=
  let r := lineHome line
  let p := s.partitionOf (line * 128)
  match (resourceOf line).filter fun q => !s.bucketAdmits r q p with
  | some q => some q
  | none => if fill && !s.slc.contains line && !s.bucketAdmits r 2 p then some 2 else none

/-- A whole line stored at its home, or discarded (R296, R306). -/
def homeStore (s : State) (ag : Agent) (line : Nat) (l : Line) : State :=
  let st := s.homeStatus (line * 128)
  if st ≠ stOK then s.logDiscard ag (line * 128) st else (s.putLine line l).allocate line true

/-! ### Counters -/

/-- A request served at the home, which looks its PAT entry up: from the SLC, or from memory. -/
def countServe (s : State) (line : Nat) : State :=
  (s.patLookup (line * 128)).bump (if s.slc.contains line then MGMT_COH_SLC_HITS (lineHome line) else MGMT_COH_SLC_MISSES (lineHome line)) 1

/-- A read that returned a poisoned word. -/
def countPoison (s : State) (line : Nat) (l : Line) : State :=
  if l.poison = 0 then s else s.bump (MGMT_COH_POISON_READS (lineHome line)) 1

/-- Poison consumed by an agent: the record in its region's log names the word (R293). -/
def logPoison (s : State) (ag : Agent) (a : Nat) : State :=
  s.log (agentRegion ag s.masterRegion) stPOISON 2 ag.code (a / 8 * 8) 0

/-! ### Holders -/

/-- The copy of a line that cache `k` answers a snoop with: its cache's, or its eviction buffer's (R287). -/
def heldCopy (s : State) (k line : Nat) : Option CLine :=
  match s.cacheOf k line with
  | some c => some c
  | none => s.evicting.find (k, line)

/-- The deferral of a hart's reservation has ended: a RETRY that it caused waits for it no longer (R290). -/
def endDeferral (s : State) (h : Nat) : State :=
  { s with retries := s.retries.map fun x => if x.deferrer = some h then { x with deferrer := none } else x }

/-- A hart's reservation ends (R255, R256). -/
def endReservation (s : State) (h : Nat) : State :=
  { s with reserved := s.reserved.erase h }.endDeferral h

/-- A line leaves a cache: a reservation on it goes too, and a core's L1I loses it (R277). -/
def dropCopy (s : State) (k line : Nat) : State :=
  let s := s.setCache k line none
  let s : State := if k < 144 then { s with icache := s.icache.erase (k, line) } else s
  if (s.reserved.find k).any (·.1 == line) then s.endReservation k else s

/-- The copies of a line at a cache answer a snoop (Table 8.2): taken, or shared.  A line in the eviction buffer is answered in its
former state and is then I at the cache (R287): its entry stands as shared until the home acknowledges the notice, and nothing
takes it back. -/
def answerSnoop (s : State) (k line : Nat) (take : Bool) : State :=
  let s : State := match s.cacheOf k line, s.evicting.find (k, line) with
    | none, some c => { s with evicting := s.evicting.set (k, line) { c with state := .shared } }
    | _, _ => s
  match s.cacheOf k line with
  | some c => if take then s.dropCopy k line else s.setCache k line (some { c with state := .shared })
  | none => s

/-- The dirty line that a snoop of `k` delivers, and whether it was dirty. -/
def snoopData (s : State) (k line : Nat) : Option (Line × Bool) :=
  match s.heldCopy k line with
  | some c => if c.state = .shared then none else some (c.line, c.state == .modified)
  | none => none

/-! ### Atomic coherent accesses

What an engine-class request to a line does as a whole (Table 8.2), for the steps that are one command of the table. -/

/-- Every holder answers at once: the directory and memory after the snoops of an engine-class request. `back` tells
whether a dirty holder's line is written back. -/
def recallLine (s : State) (ag : Agent) (line : Nat) (take back : Bool) : State :=
  match s.dirOf line with
  | some (.excl x) =>
    let d := s.snoopData x line
    let s := s.answerSnoop x line take
    let s := s.setDir line (if take then none else some (.shared [x] false))
    match d with
    | some (l, true) => if back then (s.homeStore ag line l).bump (MGMT_COH_RECALLS (lineHome line)) 1 else s
    | _ => s
  | some (.shared hs c) =>
    if take then ((snoopTargets hs c).foldl (fun s k => s.answerSnoop k line true) s).setDir line none else s
  | none => s

/-- An engine-class read of a line (R258, R260, R285). -/
def cohRead (s : State) (ag : Agent) (line : Nat) : State × Line :=
  let s := ((s.recallLine ag line false true).charge line).countServe line
  let l := s.memLine line
  (s.countPoison line l, l)

/-- An engine-class masked or full-line write: the status, OK where it is performed (R258, R296, R306). -/
def cohWrite (s : State) (ag : Agent) (line : Nat) (new : BitVec 1024) (m : BitVec 128) : State × Nat :=
  let st := s.homeStatus (line * 128)
  if st ≠ stOK then (s.logDiscard ag (line * 128) st, st)
  else
    let s := s.clearCopyValid (line * 128)
    let s := ((s.recallLine ag line true (m != BitVec.allOnes 128)).charge line).countServe line
    ((s.putLine line ((s.memLine line).merge new m)).allocate line true, stOK)

/-- An engine-class atomic: the old value, and poison read, which a lost home answers too (R257, R296, R410). -/
def cohAtomic (s : State) (ag : Agent) (line off size : Nat) (op : AtomOp) (v : Nat) : State × Nat × Nat :=
  let st := s.homeStatus (line * 128)
  if st = stPEER_LOST then (s.logPoison ag (line * 128 + off), 0, stPOISON)
  else if st ≠ stOK then (s.logDiscard ag (line * 128) st, 0, st)
  else
    let s := s.clearCopyValid (line * 128)
    let s := ((s.recallLine ag line true true).charge line).countServe line
    let l := s.memLine line
    let s := s.countPoison line l
    if l.bad off size then (s.logPoison ag (line * 128 + off), 0, stPOISON)
    else ((s.putLine line (l.put off size (atomResult op size (l.get off size) v))).allocate line true, l.get off size, stOK)

/-! ### Transactions at a home (R283 to R291) -/

/-- Requests accepted into the shared entries of a home. -/
def tracked (s : State) (r : Nat) : Nat := (s.txns.filter fun t => lineHome t.line == r && !t.credit).length

/-- A transaction on the line is accepted or in progress. -/
def lineBusy (s : State) (line : Nat) : Bool := s.txns.any (·.line == line)

/-- The die of a hart is live. -/
def hartLive (s : State) (h : Nat) : Bool :=
  if h < 144 then s.dieLive (h / 36) 2 else s.dieLive ((h - 144) / 128) ((h - 144) % 128 / 64)

/-- The caches that a request must snoop in the directory state that it finds (Table 8.2); a cache on a lost die counts as having
answered (R295). -/
def needs (s : State) (line : Nat) (q : CReq) : List Nat :=
  let all := match q, s.dirOf line with
    | .writeBack _, _ => []
    | .cleanEvict _, _ => []
    | q, some (.excl x) => if q.engine || x != q.who then [x] else []
    | .readShared _, some (.shared ..) => []
    | .eRead _, some (.shared ..) => []
    | q, some (.shared hs c) => (snoopTargets hs c).filter fun k => q.engine || k != q.who
    | _, none => []
  all.filter s.hartLive

/-- The fill of a requester: the line enters its cache. -/
def fill (s : State) (k line : Nat) (st : CState) (l : Line) : State := s.setCache k line (some ⟨st, l⟩)

/-- A core-class read served by the home. -/
def serveHome (s : State) (k line : Nat) (st : CState) : State :=
  let s := (s.charge line).countServe line
  let l := s.memLine line
  ((s.countPoison line l).allocate line false).fill k line st l

/-- A core-class request served cache to cache (R285). -/
def serveC2C (s : State) (k line : Nat) (st : CState) (l : Line) : State :=
  ((s.bump (MGMT_COH_C2C (lineHome line)) 1).countPoison line l).fill k line st l

/-- READ_UNIQUE completed: requester M or E, directory E (Table 8.2). -/
def finishUnique (s : State) (k line : Nat) (fwd : Option (Line × Bool)) : State :=
  let s := match fwd with
    | some (l, d) => s.serveC2C k line (if d then .modified else .exclusive) l
    | none => s.serveHome k line .exclusive
  s.setDir line (some (.excl k))

/-- The effect of a transaction once every snoop has answered (Table 8.2, R284 to R287). -/
def complete (s : State) (t : Txn) : State :=
  let me := s.moduleId
  let line := t.line
  let ag := requester me t.req.who
  let holders := match s.dirOf line with | some (.shared hs _) => hs | _ => []
  match t.req with
  | .readShared k =>
    match t.fwd with
    | some (l, d) =>
      let s := if d then s.homeStore ag line l else s
      (s.serveC2C k line .shared l).setDir line (some (sharedDir holders k))
    | none =>
      if holders = [] then (s.serveHome k line .exclusive).setDir line (some (.excl k))
      else (s.serveHome k line .shared).setDir line (some (sharedDir holders k))
  | .readUnique k => s.finishUnique k line t.fwd
  | .upgrade k =>
    match s.cacheOf k line, t.fwd with
    | some c, none =>
      if holders.contains k then
        (s.setCache k line (some { c with state := .exclusive })).setDir line (some (.excl k))
      else s.finishUnique k line none
    | _, fwd => s.finishUnique k line fwd
  | .writeBack k =>
    let s1 : State := { s with evicting := s.evicting.erase (k, line) }
    match s.dirOf line, s.evicting.find (k, line) with
    | some (.excl x), some c =>
      if x = k ∧ c.state ≠ .shared ∧ (s.cacheOf k line).isNone then (s1.homeStore ag line c.line).setDir line none else s1
    | _, _ => s1
  | .cleanEvict k =>
    let s1 : State := { s with evicting := s.evicting.erase (k, line) }
    match s.dirOf line with
    | some (.excl x) => if x = k ∧ (s.cacheOf k line).isNone then s1.setDir line none else s1
    | _ => s1
  | .eRead p =>
    let s := match t.fwd with
      | some (l, true) => (s.homeStore ag line l).bump (MGMT_COH_RECALLS (lineHome line)) 1
      | _ => s
    let s := (s.charge line).countServe line
    let l := s.memLine line
    { s.countPoison line l with engineData := s.engineData.set p l }
  | .eWrite _ d =>
    let s := ((s.setDir line none).charge line).countServe line
    s.homeStore ag line { data := d }
  | .eMasked _ d m =>
    let s := match t.fwd with
      | some (l, true) => (s.homeStore ag line l).bump (MGMT_COH_RECALLS (lineHome line)) 1
      | _ => s
    let s := ((s.setDir line none).charge line).countServe line
    s.homeStore ag line ((s.memLine line).merge d m)
  | .eAtomic p off size op v =>
    let s := match t.fwd with
      | some (l, true) => (s.homeStore ag line l).bump (MGMT_COH_RECALLS (lineHome line)) 1
      | _ => s
    let s := ((s.setDir line none).charge line).countServe line
    let l := s.memLine line
    let s : State := { s.countPoison line l with engineData := s.engineData.set p l }
    if l.bad off size then s.logPoison ag (line * 128 + off)
    else s.homeStore ag line (l.put off size (atomResult op size (l.get off size) v.toNat))
  | .backInval =>
    -- the recall of R282: dirty data goes to the SLC, and the way is free
    let s := if t.started then s.bump (MGMT_COH_BACK_INVAL (lineHome line)) 1 else s
    let s := match t.fwd with
      | some (l, true) => s.homeStore ag line l
      | _ => s
    s.setDir line none

/-- The entry that a full directory set gives up for a line without one: the least recently allocated of the set (R282). -/
def dirVictim (s : State) (line : Nat) : Option Nat :=
  if s.dir.length < 12 then none
  else
    let ways := s.dirOrder.filter fun v => lineHome v == lineHome line && Config.dirSet v == Config.dirSet line
    if ways.length < 12 then none else ways.head?

/-- The entry that must be back-invalidated before a transaction starts: a core-class request brings its line into S or E. -/
def needsWay (s : State) (t : Txn) : Option Nat :=
  match t.req with
  | .readShared _ | .readUnique _ | .upgrade _ => if (s.dirOf t.line).isNone then s.dirVictim t.line else none
  | _ => none

/-- The first transaction on a line starts: its snoops leave the home; without any it completes.  One that needs a directory
way waits for the back-invalidation that frees it, a transaction of the home on the entry's line; one that its memory holds waits
(R305, R316). -/
def startFirst (s : State) (line : Nat) : Nat → State
  | 0 => s
  | fuel + 1 =>
    match s.txns.find? (·.line == line) with
    | some t =>
      if t.started || s.memoryHolds line then s
      else match s.needsWay t with
        | some v =>
          if s.txns.any fun u => u.line == v && u.req == .backInval then s
          else { s with txns := s.txns ++ [{ line := v, req := .backInval, credit := true }] }
        | none =>
          let ns := s.needs line t.req
          if ns = [] then
            let s1 : State := { s with txns := s.txns.erase t }
            startFirst (s1.complete t) line fuel
          else { s with txns := replaceFirst t { t with started := true, waits := ns } s.txns }
    | none => s

/-- Every first transaction that can start does, in home order; `n` rounds, since one that completes may free a directory way. -/
def startAll (s : State) : Nat → State
  | 0 => s
  | n + 1 => startAll ((s.txns.map (·.line)).foldl (fun s l => s.startFirst l (s.txns.length + 1)) s) n

/-- A request that a home accepts takes its place in home order (R283). -/
def accept (s : State) (line : Nat) (q : CReq) (credit : Bool) : State :=
  let s := if q.writes then s.clearCopyValid (line * 128) else s
  let s : State := { s with txns := s.txns ++ [{ line := line, req := q, credit := credit }] }
  s.startAll 3

/-- A request answered with RETRY (R289). -/
def retry (s : State) (line : Nat) (q : CReq) (deferrer : Option Nat) : State :=
  let s := s.bump (MGMT_COH_RETRIES (lineHome line)) 1
  { s with retries := s.retries ++ [{ line := line, req := q, deferrer := deferrer }] }

/-- A request to a live home that takes requests, past its regulators: accepted into a shared entry, or answered with RETRY where none
is free (R289). -/
def offer (s : State) (line : Nat) (q : CReq) : State :=
  if 1024 ≤ s.tracked (lineHome line) then s.retry line q none else s.accept line q false

/-- The answer to a request at a lost home, outstanding or later (R296): a read or AMO of an engine with poison, an engine's write
by its record. -/
def answerLost (s : State) (line : Nat) (q : CReq) : State :=
  match q with
  | .eRead p | .eAtomic p .. => { s with engineData := s.engineData.set p { poison := BitVec.allOnes 16 } }
  | .eWrite p _ | .eMasked p _ _ => s.logDiscard (requester s.moduleId p) (line * 128) stPEER_LOST
  | _ => s

/-- A request that reaches its home: nothing happens to memory that is not coherent, before INIT_DONE (R297), or at a home
that is lost and does not answer a write; without a free entry it is answered with RETRY; held at the region NoC while
its bucket lacks tokens (R278, R321). -/
def request (s : State) (line : Nat) (q : CReq) : State :=
  let r := lineHome line
  if !s.cacheable (line * 128) then s
  else if !s.regionLive r then s.answerLost line q
  else if !s.initDone.contains r then s
  else if (s.heldBy line q.allocates).isSome then { s with nocHeld := s.nocHeld ++ [(line, q)] }
  else s.offer line q

/-- The requests that the NoC holds are offered again after a refill, oldest first.  One that still lacks tokens has waited for some NoC
cycles of the refill's period (Table 9.13): a free value (log 169). -/
def offerHeld (s : State) (r : Nat) : State :=
  let mine := s.nocHeld.filter fun x => lineHome x.1 == r
  mine.foldl (fun s (line, q) => match s.heldBy line q.allocates with
    | some x => (s.bump (MGMT_REG_WAIT r x (s.partitionOf (line * 128))) (Config.waitCycles s.freeCount)).nextFree
    | none => ({ s with nocHeld := s.nocHeld.erase (line, q) } : State).offer line q) s

/-- A cache has a request for a line under way. -/
def requesting (s : State) (k line : Nat) : Bool :=
  let mine (q : CReq) : Bool := match q with
    | .readShared x | .readUnique x | .upgrade x => x == k
    | _ => false
  s.txns.any (fun t => t.line == line && mine t.req) || s.nocHeld.any (fun x => x.1 == line && mine x.2) ||
    s.retries.any fun x => x.line == line && mine x.req

/-- Lines that a cache can evict at once, or not at all: its eviction buffer has room (R287), 16 lines for a core and 4 for a
sequencer (R150). -/
def evictRoom (s : State) (k : Nat) : Bool :=
  decide ((s.evicting.filter fun x => x.1.1 == k).length < (if k < 144 then 16 else 4))

/-- The eviction of an E or M line (R281, R287): it moves to the eviction buffer and the notice goes to its home. -/
def evict (s : State) (k line : Nat) (st : CState) : State :=
  match s.cacheOf k line with
  | some c =>
    if c.state = st ∧ st ≠ .shared ∧ s.evictRoom k then
      let s := s.dropCopy k line
      if !s.regionLive (lineHome line) then s
      else
        let s : State := { s with evicting := s.evicting.set (k, line) c }
        s.request line (if st = .modified then .writeBack k else .cleanEvict k)
    else s
  | none => s

/-- Lines on their way to a cache. -/
def inFlight (s : State) (k : Nat) : List Nat :=
  let mine (q : CReq) : Bool := match q with
    | .readShared x | .readUnique x => x == k
    | _ => false
  (s.txns.filter fun t => mine t.req).map (·.line) ++ (s.nocHeld.filter fun x => mine x.2).map (·.1) ++ (s.retries.filter fun x => mine x.req).map (·.line)

/-- The ways of a cache set: an L2 has 16; the 32 KiB of a sequencer's cache, whose ways the spec does not give, are one set of 256
lines (Table 8.1). -/
def cacheWays (k : Nat) : Nat := if k < 144 then 16 else 256
def sameSet (k a b : Nat) : Bool := decide (144 ≤ k) || Config.l2Set a == Config.l2Set b

/-- The line that a full set gives up: the one that the command names, if it is in the set, else a free value (log 130). -/
def victimOf (s : State) (ways : List Nat) (named : Option Nat) : Option Nat :=
  match named.filter (ways.contains ·) with
  | some v => some v
  | none => ways[Config.victim s.freeCount % ways.length]?

/-- Room for a line in a cache (R149, R281): a full set gives up a line, silently if it is S, else through the eviction buffer.  None
where the buffer is full: the miss stalls. -/
def makeRoom (s : State) (k line : Nat) (victim : Option Nat := none) : Option State :=
  let held := (s.caches.filter fun x => x.1.1 == k).map (·.1.2)
  let flight := s.inFlight k
  if held.length + flight.length < cacheWays k then some s
  else
    let ways := held.filter (sameSet k line)
    if ways.length + (flight.filter (sameSet k line)).length < cacheWays k then some s
    else match s.victimOf ways victim with
      | none => none
      | some v => match s.cacheOf k v with
        | none => none
        | some c =>
          if c.state = .shared then some (s.dropCopy k v).nextFree
          else if s.evictRoom k then some (s.evict k v c.state).nextFree else none

/-- A core-class request: a live cache asks for a line it does not hold (or holds in S, for a request that takes it), once at a time,
after its set has room; a line in its own eviction buffer returns from there instead (R149). -/
def coreRequest (s : State) (line : Nat) (q : CReq) (victim : Option Nat := none) : State :=
  let k := q.who
  let waiting := (s.evicting.find (k, line)).any (·.state != .shared)
  if !s.hartLive k || s.requesting k line || waiting || !s.cacheable (line * 128) then s
  else match s.cacheOf k line with
    | some c => if c.state = .shared ∧ q.takes then s.request line q else s
    | none => match s.makeRoom k line victim with
      | some s => s.request line q
      | none => s

/-- A transaction replaced once cache `k` has answered its snoop, and the directory after the answer. -/
def takeAnswer (s : State) (t : Txn) (k : Nat) : State :=
  let line := t.line
  let d := s.snoopData k line
  let t' : Txn := { t with waits := t.waits.erase k, fwd := match d with | some x => some x | none => t.fwd }
  let s := s.answerSnoop k line t.req.takes
  let s := match s.dirOf line with
    | some (.excl x) =>
      if x = k then s.setDir line (if t.req.takes || d.isNone then none else some (.shared [k] false)) else s
    | some (.shared hs c) => if t.req.takes then
        s.setDir line (if hs.erase k = [] then none else some (.shared (hs.erase k) c)) else s
    | none => s
  { s with txns := replaceFirst t t' s.txns }

/-- The response of cache `k` to the snoop of the transaction on a line (R256, R281, R287, R288): a deferral ends the
transaction with RETRY; one in its requester's retry credit is never retried again (R291), and neither is the home's own
request: there the answer waits for the deferral to end. -/
def snoop (s : State) (k line : Nat) : State :=
  match s.txns.find? (·.line == line) with
  | some t =>
    if !t.started ∨ !t.waits.contains k then s
    else if s.reserved.find k = some (line, true) then
      if t.credit then s
      else
        let s1 : State := { s with txns := s.txns.erase t }
        (s1.retry line t.req (some k)).startAll 3
    else s.takeAnswer t k
  | none => s

/-- A transaction whose last snoop has answered completes, and the next one on the line starts (R284). -/
def homeComplete (s : State) (line : Nat) : State :=
  match s.txns.find? (·.line == line) with
  | some t =>
    let s1 : State := { s with txns := s.txns.erase t }
    if t.started ∧ t.waits = [] ∧ !s.memoryHolds line then (s1.complete t).startAll 3 else s
  | none => s

/-- The oldest retried request of a requester to a home. -/
def oldestRetry (s : State) (r req : Nat) : Option Retried := s.retries.find? fun x => lineHome x.line == r && x.req.who == req

/-- GRANT (R290): the requester's credit is free, the deferral that caused the retry has ended and no other requester of
the line waits longer; the request is accepted into the credit. -/
def grant (s : State) (r req : Nat) : State :=
  match s.oldestRetry r req with
  | some x =>
    let busy := s.txns.any fun t => t.credit && lineHome t.line == r && t.req.who == req
    let first := s.retries.find? (·.line == x.line) == some x
    if busy || x.deferrer.isSome || !first then s
    else
      let s1 : State := { s with retries := s.retries.erase x }
      s1.accept x.line x.req true
  | none => s

/-! ### Accesses of a whole line as one step -/

/-- Another agent's access to a line is deferred by a hart's reservation (R256). -/
def lineDeferred (s : State) (line : Nat) : Bool := s.reserved.any fun x => x.2 == (line, true)

/-- An access of a line as one step must wait: a reservation defers it, also one that holds up a back-invalidation for which a request
accepted on the line before it waits; its home has not finished its invalidation (R297), or has no free entry (R289); its memory
holds it (R305, R316); or its bucket lacks tokens (R321). -/
def lineWaits (s : State) (line : Nat) (fill : Bool) : Bool :=
  s.lineDeferred line || (s.regionLive (lineHome line) && s.cacheable (line * 128) && !s.initDone.contains (lineHome line)) ||
    (s.lineBusy line && s.txns.any fun u => u.req == .backInval && s.lineDeferred u.line) ||
    decide (1024 ≤ s.tracked (lineHome line)) || s.memoryHolds line || (s.heldBy line fill).isSome

/-- Every cache answers the first transaction on a line, and it completes. -/
def drainFirst (s : State) (line : Nat) : State :=
  match s.txns.find? (·.line == line) with
  | some t => (t.waits.foldl (fun s k => s.snoop k line) s).homeComplete line
  | none => s

/-- The transactions already accepted on a line complete first, in home order (R283): the first one starts, once the directory way
that it needs is free. -/
def drainLine (s : State) (line : Nat) : Nat → State
  | 0 => s
  | fuel + 1 =>
    match s.txns.find? (·.line == line) with
    | some t =>
      drainLine (if t.started then s.drainFirst line
        else
          let s := s.startFirst line (s.txns.length + 1)
          match s.needsWay t with
          | some v => (s.startFirst v (s.txns.length + 1)).drainFirst v
          | none => s) line fuel
    | none => s

/-- An engine read of a line as one step. -/
def engineRead (s : State) (ag : Agent) (line : Nat) : State × Line :=
  (s.drainLine line (4 * s.txns.length + 4)).cohRead ag line

/-- An engine write of bytes of one line as one step. -/
def engineWrite (s : State) (ag : Agent) (line : Nat) (d : BitVec 1024) (m : BitVec 128) : State × Nat :=
  (s.drainLine line (4 * s.txns.length + 4)).cohWrite ag line d m

/-- An engine atomic as one step: the old value, and the status. -/
def engineAtomic (s : State) (ag : Agent) (line off size : Nat) (op : AtomOp) (v : Nat) : State × Nat × Nat :=
  (s.drainLine line (4 * s.txns.length + 4)).cohAtomic ag line off size op v

/-- The lines of a range. -/
def linesOf (a n : Nat) : List Nat := if n = 0 then [] else (List.range ((a + n - 1) / 128 - a / 128 + 1)).map (a / 128 + ·)

/-- Some line of a range must wait (R256, R305, R316, R321). -/
def rangeWaits (s : State) (a n : Nat) (fill : Bool) : Bool := (linesOf a n).any fun line => s.lineWaits line fill

/-- `n` bytes read line by line with a reader of lines: the bytes and the first poisoned address. -/
def readWith (s : State) (rd : State → Nat → State × Line) (a n : Nat) : State × List Byte × Option Nat :=
  (linesOf a n).foldl (fun (s, bs, p) line =>
    let lo := max a (line * 128)
    let k := min (a + n) (line * 128 + 128) - lo
    let (s, l) := rd s line
    let bad := (List.range 16).find? fun i => l.poison.getLsbD i && decide (lo < line * 128 + 8 * i + 8 ∧ line * 128 + 8 * i < lo + k)
    (s, bs ++ leBytes k (l.get (lo % 128) k), p <|> bad.map fun i => max lo (line * 128 + 8 * i))) (s, [], none)

/-- `n` bytes read coherently. -/
def readBytes (s : State) (ag : Agent) (a n : Nat) : State × List Byte × Option Nat :=
  s.readWith (fun s line => s.engineRead ag line) a n

/-- Every page of a range lies in memory or a block store, not in a reserved range, registers or pegs (R32). -/
def bytesReachable (s : State) (a n : Nat) : Bool :=
  n == 0 || (List.range ((a + n - 1) / 4096 - a / 4096 + 1)).all fun i =>
    match s.place (max a ((a / 4096 + i) * 4096)) with
    | .hbm .. | .lpd .. | .store .. => true
    | .t4 p off => s.t4Reachable p off
    | _ => false

/-- A line read through the read cache of a block's gather-scatter engine (R261): a line held there may be returned as the first read
obtained it, as a free value says; 256 lines, a free value chooses the one that goes.  VOLATILE_DEFAULT passes it by (R319). -/
def gsReadLine (s : State) (b : Nat) (ag : Agent) (line : Nat) : State × Line :=
  let fetch (s : State) : State × Line :=
    let (s, l) := s.engineRead ag line
    let mine := (s.gsCache.filter fun x => x.1.1 == b && x.1.2 != line).map (·.1.2)
    let kept : Map (Nat × Nat) Line := if mine.length < 256 then s.gsCache
      else match mine[Config.victim s.freeCount % mine.length]? with
        | some v => s.gsCache.erase (b, v)
        | none => s.gsCache
    ({ s with gsCache := kept.set (b, line) l, freeCount := s.freeCount + 1 }, l)
  if s.volatileDefault (line * 128) then s.engineRead ag line
  else match s.gsCache.find (b, line) with
  | some l => if Config.gsHit s.freeCount then (s.nextFree, l) else fetch s
  | none => fetch s

/-- Bytes written coherently, line by line (R258): the status and address of the first line that was discarded. Lines after a
discarded one are still written (R306). -/
def writeBytes (s : State) (ag : Agent) (a : Nat) (bs : List Byte) : State × Option (Nat × Nat) :=
  (linesOf a bs.length).foldl (fun (s, e) line =>
    let lo := max a (line * 128)
    let k := min (a + bs.length) (line * 128 + 128) - lo
    let v := leNat ((bs.drop (lo - a)).take k)
    let (s, st) := s.engineWrite ag line (BitVec.ofNat 1024 (v <<< (8 * (lo % 128)))) (byteMask (lo % 128) k)
    (s, e <|> if st = stOK then none else some (st, lo))) (s, none)

/-- What a read of a line would return now, with no effect: the owner's copy, or the home's. -/
def peekLine (s : State) (line : Nat) : Line :=
  match s.dirOf line with
  | some (.excl x) => match s.heldCopy x line with
    | some c => c.line
    | none => s.memLine line
  | _ => s.memLine line

/-- A little-endian number of `n` bytes of one line, as a read would return it. -/
def peekNat (s : State) (a n : Nat) : Nat := (s.peekLine (a / 128)).get (a % 128) n

/-! ### Reset and loss of holders (R295 to R297) -/

/-- The invalidation of a region's SLC and directory ends: its home holds no line and takes requests (R297). -/
def invalidationDone (s : State) (r : Nat) : State :=
  if !s.regionLive r || s.initDone.contains r then s
  else
    { s with initDone := r :: s.initDone, slc := s.slc.filter (fun n => lineHome n != r),
             slcDirty := s.slcDirty.filter (fun n => lineHome n != r),
             dir := s.dir.filter (fun x => lineHome x.1 != r), dirOrder := s.dirOrder.filter fun n => lineHome n != r }

/-- The directory after a cache is lost: S holders on it are removed, and entries in state E that name it set to I (R295). -/
def dropHolder (s : State) (k : Nat) : State :=
  let dir : Map Nat Dir := (s.dir.map fun (l, d) => match d with
    | .shared hs c => (l, .shared (hs.erase k) c)
    | .excl x => (l, .excl x)).filter fun x => x.2 != .excl k && x.2 != .shared [] true && x.2 != .shared [] false
  { s with dir := dir, dirOrder := s.dirOrder.filter fun l => (dir.find l).isSome }

/-- A lost cache answers every outstanding and later snoop with no data: its copies go, S holders are removed, and the lines
it held E are poisoned.  A dirty line that a holder has forwarded to it is poisoned where the holder gave it up, and stands
written back where the holder keeps it in S (Table 8.2). -/
def loseCache (s : State) (k : Nat) : State :=
  let owned := (s.dir.filter fun x => x.2 == .excl k).map (·.1)
  let mine (t : Txn) : Bool := !t.req.engine && t.req.who == k
  let flight := (s.txns.filter fun t => mine t && t.req.takes && (t.fwd.any (·.2))).map (·.line)
  let back := s.txns.filter fun t => mine t && !t.req.takes
  let s := back.foldl (fun s t => match t.fwd with
    | some (l, true) => s.homeStore (requester s.moduleId k) t.line l
    | _ => s) s
  let s : State :=
    { s with caches := s.caches.filter (fun x => x.1.1 != k), evicting := s.evicting.filter (fun x => x.1.1 != k),
             icache := s.icache.filter (fun x => x.1.1 != k),
             retries := s.retries.filter (fun x => x.req.engine || x.req.who != k),
             nocHeld := s.nocHeld.filter (fun x => x.2.engine || x.2.who != k),
             txns := (s.txns.filter fun t => !mine t).map fun t => { t with waits := t.waits.erase k } }
  let s := (s.endReservation k).dropHolder k
  let s := (owned ++ flight).foldl (fun s l => (s.poisonLine l).bump (MGMT_COH_LOST_POISONED (lineHome l)) 1) s
  s.startAll 3

end State

end Sys2Proof.Machine
end

