-- ==== Sys2Proof/Machine/Priv.lean ====
section
/-!
DEFINITION. Privilege modes, control and status registers, interrupts and the entry into and return from a trap, as the RISC-V
Privileged ISA defines them (R1, Table 0.1, R146, R271, R275): machine, supervisor and user mode on a core; machine mode
only on a sequencer.
-/
namespace Sys2Proof.Machine

/-- Numbers of the registers that the text names. -/
def csrSstatus : Nat := 0x100
def csrSie : Nat := 0x104
def csrStvec : Nat := 0x105
def csrSepc : Nat := 0x141
def csrScause : Nat := 0x142
def csrStval : Nat := 0x143
def csrSip : Nat := 0x144
def csrSatp : Nat := 0x180
def csrMstatus : Nat := 0x300
def csrMedeleg : Nat := 0x302
def csrMideleg : Nat := 0x303
def csrMie : Nat := 0x304
def csrMtvec : Nat := 0x305
def csrMepc : Nat := 0x341
def csrMcause : Nat := 0x342
def csrMtval : Nat := 0x343
def csrMip : Nat := 0x344

/-- The interrupts of a core: SSI 1, MSI 3, STI 5, MTI 7, SEI 9, MEI 11, and the local interrupt 20 of R271. -/
def intMask : W64 := 0x100AAA
/-- Those that mideleg can delegate, with the local interrupt (R271), and those of them that software sets in mip. -/
def sIntMask : W64 := 0x100222
def softIntMask : W64 := 0x222
/-- Fields of mstatus that software writes, and those that sstatus shows. -/
def mstatusMask : W64 := 0x7E7FAA
def sstatusMask : W64 := 0xC6722

/-- The event counters of the Privileged ISA and their controls, which are read-only zero (log 175). -/
def hpmCsr (n : Nat) : Bool := decide (n = 0x320 ∨ (0x323 ≤ n ∧ n ≤ 0x33F) ∨ (0xB03 ≤ n ∧ n ≤ 0xB1F))

/-- The bits of a register that a write sets, for a register that a core has; none for one that it does not have. -/
def coreCsr (n : Nat) : Option W64 :=
  if n = csrMstatus then some mstatusMask
  else if n = csrMedeleg then some 0xB3FF
  else if n = csrMideleg then some sIntMask
  else if n = csrMie then some intMask
  else if n = csrMip then some softIntMask
  else if n = csrMtvec ∨ n = csrStvec then some (~~~2)
  else if n = csrMepc ∨ n = csrSepc then some (~~~1)
  else if n = csrSatp then some (BitVec.allOnes 64)
  else if n = 0x106 ∨ n = 0x306 then some 0xFFFFFFFF                         -- scounteren, mcounteren
  else if n = 0x10A ∨ n = 0x30A then some (if n = 0x10A then 0xF1 else 0x40000000000000F1)  -- FIOM, CBIE, CBCFE, CBZE; PBMTE
  else if n = 1 ∨ n = 2 ∨ n = 3 then some 0xFF                               -- fflags, frm, fcsr
  else if n = 8 then some (8 * Config.vlenb - 1)                             -- vstart
  else if n = 9 ∨ n = 10 ∨ n = 15 then some 7                                -- vxsat, vxrm, vcsr
  else if 0xC20 ≤ n ∧ n ≤ 0xC22 then some 0                                  -- vl, vtype, vlenb
  else if hpmCsr n ∨ (0xC03 ≤ n ∧ n ≤ 0xC1F) then some 0
  else if n = 0x140 ∨ n = csrScause ∨ n = csrStval ∨ n = 0x340 ∨ n = csrMcause ∨ n = csrMtval then some (BitVec.allOnes 64)
  else if n = 0xB00 ∨ n = 0xB02 then some (BitVec.allOnes 64)                -- mcycle, minstret
  else if n = 0x301 ∨ (0xF11 ≤ n ∧ n ≤ 0xF15) ∨ n = 0xC00 ∨ n = 0xC01 ∨ n = 0xC02 ∨ n = 0x15C ∨ n = 0x35C then some 0
  else none

/-- The same for a sequencer, which has machine mode only (R146). -/
def seqCsr (n : Nat) : Option W64 :=
  if n = csrMstatus then some 0x88
  else if n = csrMie then some 0x888
  else if n = csrMip ∨ n = 0x301 ∨ (0xF11 ≤ n ∧ n ≤ 0xF15) then some 0
  else if n = csrMtvec then some (~~~2)
  else if n = csrMepc then some (~~~1)
  else if n = 0x340 ∨ n = csrMcause ∨ n = csrMtval ∨ n = 0xB00 ∨ n = 0xB02 then some (BitVec.allOnes 64)
  else if n = 0xC00 ∨ n = 0xC02 ∨ hpmCsr n then some 0
  else none

/-- Privilege levels as numbers. -/
def Priv.level : Priv → Nat
  | .user => 0
  | .supervisor => 1
  | .machine => 3
def Priv.ofLevel (n : Nat) : Priv := if n = 0 then .user else if n = 1 then .supervisor else .machine

namespace Hart

/-- mstatus, and its fields MIE, SIE and MPP. -/
def mstatus (x : Hart) : W64 := x.csrs.get 0 csrMstatus
def mie (x : Hart) : W64 := x.csrs.get 0 csrMie
def mideleg (x : Hart) : W64 := x.csrs.get 0 csrMideleg
def mpp (x : Hart) : Priv := .ofLevel (bits x.mstatus 12 11)
def setCsr (x : Hart) (n : Nat) (v : W64) : Hart := { x with csrs := x.csrs.set n v }

/-- A context field of mstatus (FS, VS) becomes Dirty. -/
def dirty (x : Hart) (hi lo : Nat) : Hart := x.setCsr csrMstatus (setBits x.mstatus hi lo 3)

/-- The privilege at which loads and stores are made: MPP while mstatus.MPRV is set in machine mode. -/
def dataPriv (x : Hart) : Priv := if x.priv = .machine ∧ bit x.mstatus 17 then x.mpp else x.priv

/-- Where a trap goes: the base of a trap vector, or for an interrupt in vectored mode the place of its cause. -/
def vector (tvec : W64) (interrupt : Bool) (code : Nat) : W64 :=
  (tvec &&& ~~~3) + (if interrupt ∧ bit tvec 0 then w64 (4 * code) else 0)

/-- Entry into a trap: the mode that takes it, its registers, and the previous mode and interrupt enable in mstatus. -/
def enter (x : Hart) (interrupt : Bool) (code : Nat) (tval : W64) : Hart :=
  let deleg := x.priv != .machine && bit (if interrupt then x.mideleg else x.csrs.get 0 csrMedeleg) code
  let cause := w64 code ||| flag interrupt 63
  let st := x.mstatus
  let x := { x with wait := HWait.none, wfi := false }
  if deleg then
    let st := setBits (setBits (setBits st 8 8 (if x.priv = .supervisor then 1 else 0)) 5 5 (bits st 1 1)) 1 1 0
    { ((((x.setCsr csrMstatus st).setCsr csrSepc x.pc).setCsr csrScause cause).setCsr csrStval tval) with
      pc := vector (x.csrs.get 0 csrStvec) interrupt code, priv := .supervisor }
  else
    let st := setBits (setBits (setBits st 12 11 x.priv.level) 7 7 (bits st 3 3)) 3 3 0
    { x.setCsr csrMstatus st with
      mepc := x.pc, mcause := cause, mtval := tval, pc := vector x.mtvec interrupt code, priv := .machine, inTrap := true }

/-- MRET. -/
def mret (x : Hart) (core : Bool) : Hart :=
  let p := if core then x.mpp else .machine
  let st := setBits (setBits (setBits x.mstatus 3 3 (bits x.mstatus 7 7)) 7 7 1) 12 11 (if core then 0 else 3)
  { x.setCsr csrMstatus (if p = .machine then st else setBits st 17 17 0) with pc := x.mepc, priv := p, inTrap := false }

/-- SRET. -/
def sret (x : Hart) : Hart :=
  let p := if bit x.mstatus 8 then Priv.supervisor else .user
  let st := setBits (setBits (setBits x.mstatus 1 1 (bits x.mstatus 5 5)) 5 5 1) 8 8 0
  { x.setCsr csrMstatus (setBits st 17 17 0) with pc := x.csrs.get 0 csrSepc, priv := p }

end Hart

namespace State

def hart (s : State) (h : Nat) : Hart := s.harts.get {} h
def setHart (s : State) (h : Nat) (x : Hart) : State := { s with harts := s.harts.set h x }
def updHart (s : State) (h : Nat) (f : Hart → Hart) : State := s.setHart h (f (s.hart h))

/-- MGMT_CORE_ASYNC_ERR and ADDR of a core, BLK_ASYNC_ERR and ADDR of a sequencer (R191, R271). -/
def asyncErrReg (h : Nat) : Reg := if h < 144 then MGMT_CORE_ASYNC_ERR h else BLK_ASYNC_ERR (h - 144)
def asyncAddrReg (h : Nat) : Reg := if h < 144 then MGMT_CORE_ASYNC_ADDR h else BLK_ASYNC_ADDR (h - 144)

/-- A discard of a hart's write is recorded. -/
def asyncPending (s : State) (h : Nat) : Bool := bit (s.reg (asyncErrReg h)) 8

/-- mip: what software set, and the interrupts that hardware holds pending.  A core: the external interrupts of the events that
entered its queue since it was last empty (R236), and 20 (R271).  A sequencer: the machine external interrupt (R191). -/
def mip (s : State) (h : Nat) : W64 :=
  let x := s.hart h
  if h < 144 then
    x.csrs.get 0 csrMip ||| flag (x.eiids.any (·.1)) 11 ||| flag (x.eiids.any (!·.1)) 9 ||| flag (s.asyncPending h) 20
  else flag (s.asyncPending h || s.eventQ.get [] h != []) 11

/-- The interrupts of a hart in the order in which they are taken; 20, of which the Privileged ISA fixes no place, first. -/
def intOrder : List Nat := [20, 11, 3, 7, 9, 1, 5]

/-- The interrupt that the hart takes at its next boundary: pending, enabled in mie and by the mode. -/
def takeable (s : State) (h : Nat) : Option Nat :=
  let x := s.hart h
  let p := s.mip h &&& x.mie
  let toM := p &&& ~~~x.mideleg
  let toS := p &&& x.mideleg
  let m := if x.priv != .machine || bit x.mstatus 3 then intOrder.find? (bit toM) else none
  m <|> if x.priv = .user ∨ (x.priv = .supervisor ∧ bit x.mstatus 1) then intOrder.find? (bit toS) else none

/-- An interrupt that would end a WFI is pending: enabled in mie, whatever the mode allows. -/
def wakes (s : State) (h : Nat) : Bool := s.mip h &&& (s.hart h).mie != 0

/-! ### Control and status registers (Zicsr) -/

/-- The lowest EIID pending at a mode, as mtopei and stopei show it. -/
def topei (x : Hart) (m : Bool) : W64 :=
  let e := ((x.eiids.filter (·.1 == m)).map (·.2)).min?.getD 0
  fld e 16 ||| fld e 0

/-- The registers of the floating-point and vector extensions, which mstatus.FS and mstatus.VS turn off. -/
def floatCsr (n : Nat) : Bool := decide (1 ≤ n ∧ n ≤ 3)
def vectorCsr (n : Nat) : Bool := decide (n = 8 ∨ n = 9 ∨ n = 10 ∨ n = 15 ∨ (0xC20 ≤ n ∧ n ≤ 0xC22))

/-- The value of a register. -/
def csrRead (s : State) (h n : Nat) : W64 :=
  let x := s.hart h
  let st := if h < 144 then x.mstatus ||| 0xA00000000 ||| flag (bits x.mstatus 14 13 == 3 || bits x.mstatus 10 9 == 3) 63
    else x.mstatus ||| 0x1800
  if n = csrMstatus then st
  else if n = csrSstatus then st &&& (sstatusMask ||| 0x8000000300000000)
  else if n = csrSie then x.mie &&& x.mideleg
  else if n = csrSip then s.mip h &&& x.mideleg
  else if n = csrMip then s.mip h
  else if n = csrMtvec then x.mtvec
  else if n = csrMepc then x.mepc
  else if n = csrMcause then x.mcause
  else if n = csrMtval then x.mtval
  else if n = 0xB02 ∨ n = 0xC02 then w64 x.instret
  else if n = 0xB00 ∨ n = 0xC00 then Config.cycles s.freeCount + x.csrs.get 0 0xB00
  else if n = 0xC01 then w64 (s.markNs + s.phaseNs)
  else if n = 0xF14 then w64 (if h < 144 then h else h - 144)
  else if n = 0x301 then (if h < 144 then 0x800000000034112F else 0x8000000000001105)
  else if n = 1 then x.csrs.get 0 3 &&& 0x1F
  else if n = 2 then x.csrs.get 0 3 >>> 5
  else if n = 9 then x.csrs.get 0 15 &&& 1
  else if n = 10 then x.csrs.get 0 15 >>> 1
  else if n = 0xC21 then 1 <<< 63                                            -- vill: no vector configuration is set
  else if n = 0xC22 then Config.vlenb
  else if n = 0x15C then topei x false
  else if n = 0x35C then topei x true
  else x.csrs.get 0 n

/-- A value written to a register of a core or sequencer; fields that are not writable keep their value. -/
def csrWrite (s : State) (h n : Nat) (v : W64) : State :=
  let put (x : Hart) (n : Nat) (m v : W64) : Hart := x.setCsr n ((x.csrs.get 0 n &&& ~~~m) ||| (v &&& m))
  s.updHart h fun x =>
    if floatCsr n then
      (if n = 1 then put x 3 0x1F v else if n = 2 then put x 3 0xE0 (v <<< 5) else put x 3 0xFF v).dirty 14 13
    else if vectorCsr n then
      (if n = 9 then put x 15 1 v else if n = 10 then put x 15 6 (v <<< 1) else put x n ((coreCsr n).getD 0) v).dirty 10 9
    else
    if n = csrMstatus then
      let v := if h < 144 ∧ bits v 12 11 = 2 then setBits v 12 11 (bits x.mstatus 12 11) else v
      put x csrMstatus (((if h < 144 then coreCsr n else seqCsr n)).getD 0) v
    else if n = csrSstatus then put x csrMstatus sstatusMask v
    else if n = csrSie then put x csrMie (x.mideleg &&& sIntMask) v
    else if n = csrSip then put x csrMip (x.mideleg &&& 2) v
    else if n = csrMtvec then { x with mtvec := v &&& ~~~2 }
    else if n = csrMepc then { x with mepc := v &&& ~~~1 }
    else if n = csrMcause then { x with mcause := v }
    else if n = csrMtval then { x with mtval := v }
    else if n = 0xB02 then { x with instret := v.toNat }
    else if n = csrSatp then if bits v 63 60 = 0 ∨ bits v 63 60 = 10 then x.setCsr n v else x
    else put x n (((if h < 144 then coreCsr n else seqCsr n)).getD 0) v

/-- A register access is legal: the hart has the register, its mode may use it, and a write is not to a read-only one. -/
def csrLegal (s : State) (h n : Nat) (write : Bool) : Bool :=
  let x := s.hart h
  let has := if h < 144 then (coreCsr n).isSome || n == csrSstatus || n == csrSie || n == csrSip else (seqCsr n).isSome
  has && !(floatCsr n && bits x.mstatus 14 13 == 0) && !(vectorCsr n && bits x.mstatus 10 9 == 0) &&
    decide (n / 256 % 4 ≤ x.priv.level) && !(write && n / 1024 == 3) &&
    !(n == csrSatp && x.priv == .supervisor && bit x.mstatus 20) &&
    !(decide (0xC00 ≤ n ∧ n ≤ 0xC1F) && ((x.priv != .machine && !bit (x.csrs.get 0 0x306) (n - 0xC00)) ||
        (x.priv == .user && !bit (x.csrs.get 0 0x106) (n - 0xC00))))

end State

end Sys2Proof.Machine
end

