-- ==== Sys2Proof/Machine/Route.lean ====
section
/-!
DEFINITION. Chaind routing (R357 to R362), flit transmission with credits and replay (R341 to R345), and the injection of
packets (R358, R364).
-/
namespace Sys2Proof.Machine

/-! ### Maps as graphs -/

/-- The entry of a module number. -/
def Routes.entry (g : Routes) (m : Nat) : Option MapEntry := g.entries.find? (·.module == m)

/-- The number of the module with a serial number. -/
def Routes.numberOf (g : Routes) (serial : Nat) : Option Nat :=
  ((g.entries.find? fun e => e.serial == serial && e.module != 0xFFFE).map (·.module))

/-- The links of a module that are up, as (port, peer module). -/
def Routes.links (g : Routes) (m : Nat) : List (Nat × Nat) :=
  match g.entry m with
  | some e => e.links.filterMap fun l => if l.up then (g.numberOf l.peerSerial).map fun n => (l.port, n) else none
  | none => []

/-- Distances from module `src` over links that `ok` allows, breadth first: (module, hops) pairs. -/
def Routes.flood (g : Routes) (ok : Nat → Nat → Bool) : Nat → List (Nat × Nat) → List Nat → Nat → List (Nat × Nat)
  | 0, acc, _, _ => acc
  | fuel + 1, acc, front, d =>
    if front = [] then acc
    else
      let next := (front.flatMap fun m => ((g.links m).map (·.2)).filter fun n => ok m n).eraseDups.filter fun n =>
        !acc.any (·.1 == n)
      flood g ok fuel (acc ++ next.map fun n => (n, d + 1)) next (d + 1)

/-- Hops from `src` to every module it reaches. -/
def Routes.hopsFrom (g : Routes) (src : Nat) : List (Nat × Nat) :=
  g.flood (fun _ _ => true) (g.entries.length + 1) [(src, 0)] [src] 0

/-- A distance in such a list. -/
def hopsTo (l : List (Nat × Nat)) (m : Nat) : Option Nat := (l.find? (·.1 == m)).map (·.2)

/-- The link from `a` to `b` points up (R360): `b` is fewer hops from the leader, or at equal hops has the lower number. -/
def Routes.up (g : Routes) (a b : Nat) : Bool :=
  let h := g.hopsFrom g.leader
  match hopsTo h a, hopsTo h b with
  | some x, some y => decide (y < x) || (x == y && decide (b < a))
  | _, _ => false

/-- Hops to `dest` by down hops alone, from every module that has such a path. -/
def Routes.downTo (g : Routes) (dest : Nat) : List (Nat × Nat) :=
  g.flood (fun m n => g.up m n) (g.entries.length + 1) [(dest, 0)] [dest] 0

/-- Hops of the shortest legal escape path (up hops, then down hops) to `dest`: relaxation over the up links. -/
def Routes.legalTo (g : Routes) (dest : Nat) : Nat → List (Nat × Nat) → List (Nat × Nat)
  | 0, acc => acc
  | fuel + 1, acc =>
    let acc' := g.entries.filterMap fun e =>
      let ups := ((g.links e.module).map (·.2)).filter fun n => g.up e.module n
      let best := ups.foldl (fun (b : Option Nat) n => match hopsTo acc n with
        | some d => some (match b with | some x => min x (d + 1) | none => d + 1)
        | none => b) (hopsTo acc e.module)
      best.map fun d => (e.module, d)
    legalTo g dest fuel acc'

/-- The neighbour with the least cost, the lower module number on a tie. -/
def pickNeighbour (ns : List (Nat × Nat)) : Option Nat :=
  (ns.foldl (fun (b : Option (Nat × Nat)) x => match b with
    | some y => if x.2 < y.2 ∨ (x.2 = y.2 ∧ x.1 < y.1) then some x else some y
    | none => some x) none).map (·.1)

/-- A mask of the ports of module `me` that lead to a neighbour. -/
def Routes.portsTo (g : Routes) (me n : Nat) : Nat :=
  ((g.links me).filter (·.2 == n)).foldl (fun v x => v ||| 2 ^ x.1) 0

/-- The computed entry for one destination (R360). -/
def Routes.compute (g : Routes) (me dest : Nat) : Option RouteEntry :=
  let near := ((g.links me).map (·.2)).eraseDups
  let down := g.downTo dest
  let legal := g.legalTo dest (g.entries.length + 1) down
  let esc := pickNeighbour (near.filterMap fun n => if g.up me n then (hopsTo legal n).map fun d => (n, d) else (hopsTo down n).map fun d => (n, d))
  let dn := pickNeighbour (near.filterMap fun n => if g.up me n then none else (hopsTo down n).map fun d => (n, d))
  let dist := g.hopsFrom dest
  let adapt := near.filter fun n => match hopsTo dist n, hopsTo dist me with | some x, some y => x + 1 == y | _, _ => false
  if (hopsTo dist me).isNone then none
  else some { first := dest, last := dest, esc := (esc.map (g.portsTo me)).getD 0, down := (dn.map (g.portsTo me)).getD 0,
              adapt := adapt.foldl (fun v n => v ||| g.portsTo me n) 0 }

/-- The table that discovery firmware loads: one entry for each reachable module, in increasing order. -/
def Routes.computed (g : Routes) (me : Nat) : List RouteEntry :=
  ((g.entries.filter fun e => e.module != 0xFFFE && e.module != me).mergeSort fun a b => a.module ≤ b.module).filterMap
    fun e => g.compute me e.module

/-- The table of a generation. -/
def Routes.routeTable (g : Routes) (me : Nat) : List RouteEntry :=
  match g.loaded with
  | some t => t
  | none => g.computed me

/-- The index of the entry that covers a destination (R362). -/
def lookupRoute (t : List RouteEntry) (d : Nat) : Option Nat := t.findIdx? fun e => decide (e.first ≤ d ∧ d ≤ e.last)

/-- A lookup goes to the spill area: the destination lies above LAST of entry 4,095 (R362). -/
def spillLookup (t : List RouteEntry) (d : Nat) : Bool :=
  match t[4095]? with
  | some e => decide (e.last < d)
  | none => false

/-! ### TORUS mode (R357, R359) -/

/-- Size of a dimension: an unused one has size 1 (R351). -/
def dimSize (sizes : List Nat) (i : Nat) : Nat := max 1 (sizes.getD i 1)

/-- The neighbour's coordinates one step along a dimension. -/
def stepCoord (sizes c : List Nat) (i : Nat) (positive : Bool) : List Nat :=
  let n := dimSize sizes i
  let x := c.getD i 0
  c.set i (if positive then (x + 1) % n else (x + n - 1) % n)

/-- Torus neighbours (R357): coordinates that differ by 1, modulo the size, in exactly one dimension. -/
def torusNeighbours (sizes a b : List Nat) : Bool :=
  let diff := (List.range 4).filter fun i => a.getD i 0 != b.getD i 0
  match diff with
  | [i] => (a.getD i 0 + 1) % dimSize sizes i == b.getD i 0 || (b.getD i 0 + 1) % dimSize sizes i == a.getD i 0
  | _ => false

/-- The coordinates of a module in a map. -/
def Routes.coordOf (g : Routes) (m : Nat) : Option (List Nat) := (g.entry m).bind (·.coord)

/-- The ports of `me` towards coordinates. -/
def Routes.portsAt (g : Routes) (me : Nat) (c : List Nat) : Nat :=
  ((g.links me).filter fun x => g.coordOf x.2 == some c).foldl (fun v x => v ||| 2 ^ x.1) 0

/-- The first dimension that the escape route corrects, and its direction (R359). -/
def torusStep (sizes c d : List Nat) : Option (Nat × Bool) :=
  ((List.range 4).find? fun i => c.getD i 0 != d.getD i 0).map fun i =>
    let n := dimSize sizes i
    let x := (d.getD i 0 + n - c.getD i 0 % n) % n
    (i, decide (2 * x ≤ n))

/-- The link between two coordinates of a dimension is its dateline. -/
def dateline (sizes : List Nat) (i a b : Nat) : Bool :=
  let n := dimSize sizes i
  (a == n - 1 && b == 0) || (a == 0 && b == n - 1)

/-- The ports of a number's mask, in increasing order. -/
def maskPorts (m : Nat) : List Nat := (List.range 16).filter fun k => m.testBit k

/-- Escape and adaptive ports, and the escape channel (0 or 1), of a packet at `me` that arrived from module `src` on escape
channel `esc` (none when it is injected or adaptive). -/
def Routes.hop (g : Routes) (sizes : List Nat) (me dest : Nat) (from_ : Option (Nat × Nat)) : Option (Nat × Nat × Nat) :=
  if g.table then
    let t := g.routeTable me
    match lookupRoute t dest with
    | some i =>
      let e := t.getD i { first := 0, last := 0, esc := 0, down := 0, adapt := 0 }
      let esc := match from_ with
        | some (n, _) => if g.up n me then e.esc else e.down
        | none => e.esc
      some (esc, e.adapt, 0)
    | none => none
  else
    match g.coordOf me, g.coordOf dest with
    | some c, some d =>
      match torusStep sizes c d with
      | some (i, pos) =>
        let ports := g.portsAt me (stepCoord sizes c i pos)
        let adapt := ((List.range 4).filter fun j => c.getD j 0 != d.getD j 0).foldl (fun v j =>
          let n := dimSize sizes j
          let x := (d.getD j 0 + n - c.getD j 0 % n) % n
          let v := if 2 * x ≤ n then v ||| g.portsAt me (stepCoord sizes c j true) else v
          if n ≤ 2 * x then v ||| g.portsAt me (stepCoord sizes c j false) else v) 0
        let vc := match from_ with
          | some (n, e) =>
            match g.coordOf n with
            | some a => if a.getD i 0 != c.getD i 0 && (e == 1 || dateline sizes i (a.getD i 0) (c.getD i 0)) then 1 else 0
            | none => 0
          | none => 0
        some (ports, adapt, vc)
      | none => none
    | _, _ => none

namespace State

def port (s : State) (k : Nat) : Port := s.ports.get {} k
def setPort (s : State) (k : Nat) (x : Port) : State := { s with ports := s.ports.set k x }
def updPort (s : State) (k : Nat) (f : Port → Port) : State := s.setPort k (f (s.port k))

/-- A port counts as live for routing only in ACTIVE (R368). -/
def portLive (s : State) (k : Nat) : Bool := (s.port k).state == .active && s.regionLive (k / 4)

def emit (s : State) (m : OutMsg) : State := { s with outbox := s.outbox ++ [m] }

/-! ### Flits (R341, R343, R345) -/

/-- Flits of a packet: the header and 212 data bytes in the first, 244 in each later one (R345). -/
def packetFlits (p : Packet) : Nat :=
  let n := p.data.length + (if p.opcode = 3 then 16 else 0)
  if n ≤ 212 then 1 else 1 + ceilDiv (n - 212) 244

/-- Dedicated credits of a channel (Table 10.3). -/
def dedicated (vc : Nat) : Nat := if vc = 0 then 8 else 32

/-- Credits are held for the flits of a channel; SCHED needs none (R343). -/
def creditsFor (x : Port) (vc n : Nat) : Bool :=
  let free := dedicated vc - x.used.get 0 vc
  vc == 7 || decide (n ≤ free + (if vc = 0 then 0 else 256 - x.usedShared))

/-- Credits spent: the channel's own first, then the shared pool. -/
def spendCredits (x : Port) (vc n : Nat) : Port :=
  let free := dedicated vc - x.used.get 0 vc
  if vc = 7 then x
  else { x with used := x.used.set vc (x.used.get 0 vc + min n free), usedShared := x.usedShared + (n - free) }

/-- Credits returned: the shared pool's part beyond the channel's own first. -/
def returnCredits (x : Port) (vc n : Nat) : Port :=
  let own := min n (x.used.get 0 vc)
  { x with used := x.used.set vc (x.used.get 0 vc - own), usedShared := x.usedShared - (n - own) }

/-- The flits of an item, with their sequence numbers. -/
def flitsOf (first n : Nat) (i : TxItem) : List (Nat × TxItem) := (List.range n).map fun j => ((first + j) % 4096, i)

/-- Items that can be sent now leave, in order within each channel; a channel other than CTL needs an ACTIVE port. -/
def pumpItems (s : State) (k : Nat) : List TxItem → List TxItem → State
  | [], kept => s.updPort k fun x => { x with txq := kept }
  | i :: rest, kept =>
    let x := s.port k
    let up := x.state == .active || (i.vc == 0 && (x.state == .identify || x.state == .held))
    let blocked := kept.any (·.vc == i.vc)
    if up && !blocked && creditsFor x i.vc i.flits && decide (x.replay.length + i.flits ≤ 512) then
      let x := spendCredits x i.vc i.flits
      let s := s.setPort k { x with nextSeq := (x.nextSeq + i.flits) % 4096, replay := x.replay ++ flitsOf x.nextSeq i.flits i }
      pumpItems ((s.emit i.msg).bump (FAB_PORT_FLITS_TX k) i.flits) k rest kept
    else pumpItems s k rest (kept ++ [i])

/-- The waiting items of a port leave as far as they can, the SCHED flits of the slot first (R380). -/
def pump (s : State) (k : Nat) : State :=
  let q := (s.port k).txq
  s.pumpItems k (q.filter (·.vc == 7) ++ q.filter (·.vc != 7)) []

/-- A SCHED flit that could not leave in its slot leaves no more (R343, R380). -/
def dropSched (s : State) : State :=
  (List.range 16).foldl (fun s k =>
    if (s.port k).txq.any (·.vc == 7) then s.updPort k fun x => { x with txq := x.txq.filter (·.vc != 7) } else s) s

/-- An item is queued at a port. -/
def sendItem (s : State) (k : Nat) (i : TxItem) : State := (s.updPort k fun x => { x with txq := x.txq ++ [i] }).pump k

/-- A control message on CTL (R347). -/
def sendCtl (s : State) (k : Nat) (m : OutMsg) : State :=
  let st := (s.port k).state
  if st = .active ∨ st = .identify ∨ st = .held then s.sendItem k { vc := 0, flits := 1, msg := m } else s

/-! ### Routing a packet -/

/-- The routing of a packet's generation: the current one; else the old one while it is kept, or the coming one that a neighbour has
switched to before (R364). -/
def routesFor (s : State) (rgen : Bool) : Option Routes :=
  if rgen = s.fab.rgen then some s.fab.cur else s.fab.old <|> s.fab.next.map (·.2)

/-- The port of a bundle that an ORDERED packet uses: ((SRC XOR DEST) mod n) of its n live ports (R358). -/
def orderedPort (s : State) (ports : List Nat) (src dest : Nat) : Option Nat :=
  let live := ports.filter s.portLive
  if live = [] then none else live[(src ^^^ dest) % live.length]?

/-- The way of a packet onward: port and channel; none without a route. `from_` is the port it arrived on. A packet whose channel is an
escape channel stays on escape channels (R361); one injected here carries channel 0. -/
def nextHop (s : State) (p : Packet) (from_ : Option Nat) : Option (Nat × Nat) :=
  match s.routesFor p.rgen with
  | none => none
  | some g =>
    let base := if 0x80 ≤ p.opcode then 4 else 1
    let escaped := p.ordered || (p.vc != 0 && p.vc != base)
    let src := match from_ with
      | some k => if p.vc = base then none else some ((s.port k).peerModule, p.vc - base - 1)
      | none => none
    match g.hop s.fab.torus s.moduleId p.dest src with
    | none => none
    | some (esc, adapt, e) =>
      let n := packetFlits p
      let free := (maskPorts adapt).find? fun k => s.portLive k && creditsFor (s.port k) base n && (s.port k).txq.all (·.vc != base)
      match escaped, free with
      | false, some k => some (k, base)
      | _, _ =>
        let ports := maskPorts esc
        let k := if p.ordered then s.orderedPort ports p.src p.dest else ports.find? s.portLive
        match k <|> ports.head? with
        | some k => some (k, base + 1 + e)
        | none => ((maskPorts adapt).head?).map fun k => (k, base + 1 + e)

/-- A lookup that port `k` makes for a packet counts where it goes to the spill area (R362). -/
def countSpill (s : State) (k : Nat) (p : Packet) : State :=
  let t := (s.routesFor p.rgen).map fun g => if g.table then g.routeTable s.moduleId else []
  if spillLookup (t.getD []) p.dest then s.bump (FAB_ROUTE_SPILL_HITS k) 1 else s

/-- A packet sent towards its destination; `none` when no route covers it. HOPS counts the hop. -/
def forward (s : State) (p : Packet) (from_ : Option Nat) : Option State :=
  (s.nextHop p from_).map fun (k, vc) =>
    let q : Packet := { p with hops := p.hops + 1, vc := vc }
    s.sendItem k { vc := vc, flits := packetFlits p, msg := .packet k vc q }

/-- The escape path from module `m` to a destination under a generation: its modules, each with its escape ports.  A table that this
module has loaded says nothing of the others. -/
def escapePath (sizes : List Nat) (dest : Nat) : Nat → Routes → Nat → Option (Nat × Nat) → List (Nat × Nat)
  | 0, _, _, _ => []
  | fuel + 1, g, m, from_ =>
    if m = dest then []
    else match g.hop sizes m dest from_ with
      | none => [(m, 0)]
      | some (esc, _, vc) =>
        (m, esc) :: match (g.links m).find? fun l => esc.testBit l.1 with
          | some (_, n) => escapePath sizes dest fuel { g with loaded := none } n (some (m, vc))
          | none => []

/-- The escape route to a destination under a generation. -/
def escapeTo (s : State) (g : Routes) (d : Nat) : List (Nat × Nat) := escapePath s.fab.torus d (g.entries.length + 1) g s.moduleId none

/-- An ORDERED packet must wait (R364): an earlier ORDERED request to its destination was injected under the other generation,
whose escape route differs, and is not acknowledged. -/
def orderedWaits (s : State) (d : Nat) : Bool :=
  s.out.any (fun q => q.ordered && q.dest == .module d && q.gen != s.fab.rgen) &&
    (match s.fab.old with
     | some g => s.escapeTo g d != s.escapeTo s.fab.cur d
     | none => true)

/-- A packet of this module leaves it under the current generation, looked up at a port of region `r` (R362): the first one
(DESIGN CHOICE, log 173). -/
def inject (s : State) (r : Nat) (p : Packet) : State :=
  let p : Packet := { p with src := s.moduleId, rgen := s.fab.rgen, hops := 0, vc := 0 }
  let s := s.countSpill (4 * r) p
  if p.ordered && (s.fab.waiting.any (·.dest == p.dest) || s.orderedWaits p.dest) then { s with fab := { s.fab with waiting := s.fab.waiting ++ [p] } }
  else (s.forward p none).getD s

/-- ORDERED packets whose wait has ended leave, in order. -/
def releaseOrdered (s : State) : State :=
  s.fab.waiting.foldl (fun s p =>
    let s1 : State := { s with fab := { s.fab with waiting := s.fab.waiting.erase p } }
    if s.orderedWaits p.dest then s else (s1.forward p none).getD s1) s

end State
end Sys2Proof.Machine
end

