-- ==== Sys2Proof/Machine/HartCore.lean ====
section
/-!
DEFINITION. What a hart's accesses share: address translation, requests that leave the module and their discard, traps, the
write-combining buffer and the store buffer (chapters 4 and 7).
-/
namespace Sys2Proof.Machine

/-- Region of a hart's unit. -/
def hartRegion (h : Nat) : Nat := if h < 144 then h / 36 else (h - 144) / 128

/-- The region of the unit that makes a request. -/
def Origin.region : Origin → Nat
  | .hart h | .wc h => hartRegion h
  | .dma r _ _ _ | .watch r | .hostWatch r _ | .coll r _ | .kiln r => r
  | .gs b _ => b / 128
  | .fabric .. => 0

/-- A global fabric address (R17). -/
def globalAddr (m a : Nat) : Nat := m * 0x1000000000000 + a

/-- The address that logs and ASYNC_ADDR name: global for another module, module physical for T5. -/
def OutReq.target (q : OutReq) : Nat :=
  match q.dest with
  | .module m => globalAddr m q.addr
  | .host p => 0x200000000000 + p * 0x40000000000 + q.addr
  | .t4 _ => q.addr

/-- Where a write-combining entry of the request's line is kept: T4 is memory of the own module. -/
def OutReq.away (q : OutReq) : Option OutDest := match q.dest with | .t4 _ => none | d => some d

namespace State

/-- The block of a sequencer is in RESET or MUTED, or has lost its die: no instruction of it retires (R185 to R187). -/
def seqStopped (s : State) (h : Nat) : Bool :=
  decide (144 ≤ h) && (!s.hartLive h || (s.block (h - 144)).state == .reset || (s.block (h - 144)).state == .muted)

/-- A sequencer was halted while its present instruction has not retired (Table 4.15). -/
def halting (s : State) (h : Nat) : Bool := decide (144 ≤ h) && (s.block (h - 144)).state == .halted && (s.hart h).wait != .none

/-- A hart runs instructions: a sequencer of a RUNNING block, or of a HALTED one whose present instruction has not retired
(Table 4.15); a core that is released; neither in WFI. -/
def hartRuns (s : State) (h : Nat) : Bool :=
  s.hartLive h && !(s.hart h).wfi &&
    (if h < 144 then s.coresOn && !(s.hart h).offline && !(s.hart h).packFail
     else (s.block (h - 144)).state == .running || ((s.block (h - 144)).state == .halted && (s.hart h).wait != .none))

/-- The hart retires an instruction. The pc of the next one is a free value: instructions are offered as commands, without
their length or their branches. -/
def retire (s : State) (h : Nat) : State :=
  (s.updHart h fun x => { x with pc := Config.nextPc s.freeCount, instret := x.instret + 1, wait := .none }).nextFree

/-- The hart retires an instruction whose destination register receives a value. -/
def retireWith (s : State) (h : Nat) (v : W64) : State := (s.updHart h fun x => { x with result := v }).retire h

def waitFor (s : State) (h : Nat) (w : HWait) : State := s.updHart h fun x => { x with wait := w }

/-! ### Address translation (R147) -/

/-- What an access asks of a leaf entry: its privilege, mstatus.SUM and MXR, and whether it writes or fetches an instruction. -/
structure Perm where
  user : Bool
  sum : Bool := false
  mxr : Bool := false
  write : Bool := false
  exec : Bool := false
  deriving DecidableEq, Repr

/-- A leaf entry allows an access: bits U, R, W, A and D.  Hardware updates no A or D bit: a clear one is a page fault. -/
def Perm.allows (p : Perm) (pte : Nat) : Bool :=
  (if p.user then pte.testBit 4 else !pte.testBit 4 || (p.sum && !p.exec)) && pte.testBit 6 &&
    (if p.exec then pte.testBit 3 else if p.write then pte.testBit 2 && pte.testBit 7 else pte.testBit 1 || (p.mxr && pte.testBit 3))

/-- One level of an Sv57 walk: the leaf's physical address and page-based memory type (Svpbmt). -/
def walk (s : State) (va : Nat) (p : Perm) : Nat → Nat → Option (Nat × Pbmt)
  | 0, _ => none
  | l + 1, table =>
    let pte := s.peekNat (table * 4096 + (va / 2 ^ (12 + 9 * l)) % 512 * 8) 8
    let ppn := (pte / 1024) % 2 ^ 44
    let r := pte / 2 % 2
    let w := pte / 4 % 2
    let x := pte / 8 % 2
    if pte % 2 = 0 ∨ (r = 0 ∧ w = 1) ∨ pte / 2 ^ 54 % 128 ≠ 0 ∨ pte / 2 ^ 63 = 1 ∨ pte / 2 ^ 61 % 4 = 3 then none
    else if r = 0 ∧ x = 0 then
      if pte / 64 % 4 ≠ 0 ∨ pte / 16 % 2 = 1 ∨ pte / 2 ^ 61 % 4 ≠ 0 then none else walk s va p l ppn
    else if !p.allows pte ∨ ppn % 2 ^ (9 * l) ≠ 0 then none
    else some (ppn * 4096 + va % 2 ^ (12 + 9 * l),
               if pte / 2 ^ 61 % 4 = 1 then .nc else if pte / 2 ^ 61 % 4 = 2 then .io else .pma)

/-- A walk must wait for an entry that its memory holds (R305, R316). -/
def walkHeld (s : State) (va : Nat) : Nat → Nat → Bool
  | 0, _ => false
  | l + 1, table =>
    let a := table * 4096 + (va / 2 ^ (12 + 9 * l)) % 512 * 8
    let pte := s.peekNat a 8
    s.memoryHolds (a / 128) || (pte % 16 == 1 && walkHeld s va l ((pte / 1024) % 2 ^ 44))

/-- A 64-bit address whose bits 63 to 57 equal bit 56, as Sv57 asks. -/
def canonical (va : Nat) : Bool := decide (va < 2 ^ 56 ∨ 2 ^ 64 - 2 ^ 56 ≤ va ∧ va < 2 ^ 64)

/-- The 56-bit physical address of an I/O virtual address under a process ID; none on a translation fault. A process ID
without page tables is identity-mapped; a translated access has user privilege. -/
def translateFor (s : State) (pasid va : Nat) (p : Perm) : Option (Nat × Pbmt) :=
  match s.iommuRoots.find pasid with
  | none => if va < 2 ^ 56 then some (va, .pma) else none
  | some root => if canonical va then s.walk (va % 2 ^ 57) p 5 root else none

/-- The translation of a read or write. -/
def translate (s : State) (pasid va : Nat) (write : Bool) : Option (Nat × Pbmt) :=
  s.translateFor pasid va { user := true, write := write }

/-- The translation of an address under a process ID must wait. -/
def translateHeld (s : State) (pasid va : Nat) : Bool :=
  match s.iommuRoots.find pasid with
  | some root => s.walkHeld (va % 2 ^ 57) 5 root
  | none => false

/-- The translation of a hart's access must wait. -/
def hartWalkHeld (s : State) (h va : Nat) : Bool :=
  let satp := (s.hart h).csrs.get 0 csrSatp
  if h < 144 then (s.hart h).dataPriv != .machine && bits satp 63 60 != 0 && s.walkHeld (va % 2 ^ 57) 5 (bits satp 43 0)
  else decide (0x1000000 ≤ va) && s.translateHeld (s.reg (BLK_PASID (h - 144))).toNat va

/-- The translation of a core's data access: none where it makes a page fault.  In machine mode, and with satp.MODE Bare, the address
is physical and the access has the memory type that it names. -/
def coreTranslate (s : State) (h va : Nat) (t : Pbmt) (write : Bool) : Option (Nat × Pbmt) :=
  let x := s.hart h
  let satp := x.csrs.get 0 csrSatp
  if x.dataPriv = .machine ∨ bits satp 63 60 = 0 then some (va, t)
  else if canonical va then
    s.walk (va % 2 ^ 57) { user := x.dataPriv == .user, sum := bit x.mstatus 18, mxr := bit x.mstatus 19, write := write } 5 (bits satp 43 0)
  else none

/-- What a 56-bit physical address reaches (R355, R356, Table 1.7). -/
inductive Reach where
  /-- A place of the own module; `aperture` when it is reached through the fabric aperture. -/
  | own (p : Place) (a : Nat) (aperture : Bool)
  | remote (m a : Nat)
  | badAperture
  deriving DecidableEq, Repr

/-- The destination of a 56-bit physical address. -/
def reach (s : State) (a : Nat) : Reach :=
  if a / 2 ^ 55 % 2 = 1 then
    if 2 ^ 56 ≤ a then .own .reserved a false
    else
      let e := s.reg (FAB_APERTURE 0 (a / 2 ^ 40 % 2 ^ 15))
      let m := bits e 15 0
      let pa := bits e 23 16 * 2 ^ 40 + a % 2 ^ 40
      if !bit e 24 ∨ m = 0xFFFE ∨ m = 0xFFFF then .badAperture
      else if m = s.moduleId then .own (s.place pa) pa true
      else .remote m pa
  else if 2 ^ 48 ≤ a then .own .reserved a false
  else .own (s.place a) a false

/-! ### Logs of the ports (R370, R425) -/

/-- A record in a region's fabric error log. -/
def fabLogAdd (s : State) (r status cause port module addr : Nat) : State :=
  let n := (s.reg (FAB_ERR_TAIL r)).toNat
  let s1 : State := { s with fabLog := s.fabLog.set (r, n % 64) ⟨status, cause, port, module, s.fret, addr⟩ }
  s1.bump (FAB_ERR_TAIL r) 1

/-- A record in a region's host error log. -/
def hostLogAdd (s : State) (r status cause fn reqId addr : Nat) : State :=
  let n := (s.reg (HOST_ERR_TAIL r)).toNat
  let s1 : State := { s with hostLog := s.hostLog.set (r, n % 64) ⟨status, cause, fn, reqId, s.fret, addr⟩ }
  s1.bump (HOST_ERR_TAIL r) 1

/-! ### Requests that leave the module -/

/-- The function whose requester ID an outbound T5 request carries (R413): the owner of the issuing channel, the function
that armed the watch (R407), or the PF. -/
def outFunction (s : State) (p : Nat) (o : Origin) : Nat :=
  let owner (off c : Nat) : Nat := ((List.range 9).find? fun f => bit (s.reg (hostFn p f off)) c).getD 0
  match o with
  | .dma r c _ _ => if r = p then owner 0x00 c else 0
  | .coll r c => if r = p then owner 0x08 c else 0
  | .hostWatch r f => if r = p then f else 0
  | _ => 0

/-- A destination can be reached (R273, R366, R413, R422). -/
def destReachable (s : State) (d : OutDest) (o : Origin) : Bool :=
  match d with
  | .module m => s.reachable.contains m
  | .host p =>
    let x := s.hostPort p
    x.endpoint && (x.ep == .up || x.ep == .enabled) && (x.fns.get {} (s.outFunction p o)).busMaster
  | .t4 _ => true

/-- The status of a request that its destination cannot take: PEER_LOST, or HOST_LOST for T5 after loss of the external host (R271,
R413). -/
def lostStatus (d : OutDest) : Nat := match d with | .host _ => stHOST_LOST | _ => stPEER_LOST

/-- The meter tag that a request carries (R431): of the descriptor or command, of the collective channel, or of the core. -/
def originTag (s : State) (o : Origin) : Nat :=
  match o with
  | .hart h | .wc h => if h < 144 then (s.reg (MGMT_CORE_TAG h)).toNat % 2 ^ 32 else 0
  | .dma r c seq _ =>
    match ((s.dma.get {} (r, c)).started.find? (·.seq == seq)) with
    | some d => (d.word.toNat >>> 352) % 2 ^ 32
    | none => 0
  | .gs b seq =>
    match ((((s.block b).engines.get {} 3).started.map (·.cmd)).find? (·.seq == seq)) with
    | some c => (c.word.toNat >>> 64) % 2 ^ 32
    | none => 0
  | .coll r c => (s.reg (FAB_COLL_CH_TAG r c)).toNat % 2 ^ 32
  | .watch _ | .hostWatch .. | .kiln _ => 0
  | .fabric _ _ meter => meter

/-- The response to a request of another module (Table 10.4): AUX[7:0] carries the status. -/
def respond (s : State) (src tag meter op status : Nat) (data : List Byte) : State :=
  s.inject s.masterRegion
    { dest := src, src := s.moduleId, opcode := op, len := data.length, tag := tag, meterTag := meter,
      aux := fld status 0, data := data }

/-- The response opcode to a request opcode (Table 10.4). -/
def responseOp (op : Nat) : Nat := if op = 2 ∨ op = 3 then 0x82 else if op = 4 then 0x83 else 0x81

/-- A request leaves with the next tag: as a packet, or on the link of a host port. -/
def issue (s : State) (q : OutReq) : State :=
  let tag := s.nextTag
  let q : OutReq := { q with tag := tag, gen := s.fab.rgen, meterTag := s.originTag q.origin }
  let s : State := { s with out := s.out ++ [q], nextTag := tag + 1 }
  -- a write or atomic of the module's own to its T5 clears COPY_VALID as at any home (R318)
  let s := match q.dest with
    | .host _ => if 2 ≤ q.op then s.clearCopyValid q.target else s
    | _ => s
  match q.dest with
  | .module m =>
    s.inject q.origin.region
      { dest := m, src := s.moduleId, opcode := q.op, ordered := q.ordered, len := q.len, tag := tag % 65536,
        meterTag := q.meterTag, addr := q.addr, aux := q.aux, data := q.data, mask := q.mask }
  | .host p | .t4 p => s.emit (.hostReq p (s.outFunction p q.origin) q.op q.addr q.len q.data q.mask tag)

/-- A write that its home has performed in T4 goes on to the expander and is outstanding until its completion returns (R264,
R270); one elsewhere needs no more. -/
def t4Write (s : State) (o : Origin) (a : Nat) (bs : List Byte) (mask : Option Nat) (va : Nat) : State :=
  match placeRaw a with
  | .t4 p _ => s.issue { tag := 0, origin := o, dest := .t4 p, op := if mask.isSome then 3 else 2, addr := a, len := bs.length,
                         data := bs, mask := mask.getD 0, va := va }
  | _ => s

/-- A discarded write of a hart is recorded (Table 7.14): the first in full, later ones by OVERFLOW and COUNT. -/
def asyncError (s : State) (h status source kind addr : Nat) : State :=
  let v := s.reg (asyncErrReg h)
  if bit v 8 then s.setReg (asyncErrReg h) (setBits (setBits v 9 9 1) 47 16 (min 0xFFFFFFFF (bits v 47 16 + 1)))
  else
    (s.setReg (asyncErrReg h) (fld status 0 ||| fld 1 8 ||| fld source 10 ||| fld kind 11 ||| fld 1 16)).setReg
      (asyncAddrReg h) (w64 addr)

/-- Writing 1 to VALID clears the record (Table 7.14); ASYNC_ADDR keeps its value. -/
def asyncClear (s : State) (h : Nat) (v : W64) : State :=
  if bit v 8 then
    let x := s.reg (asyncErrReg h)
    s.setReg (asyncErrReg h) (setBits (setBits (setBits x 8 8 0) 9 9 0) 47 16 0)
  else s

/-- The log entry of a request that was discarded or failed (R271, R272): cause 1 for a write, 2 for a read or AMO. -/
def logLost (s : State) (r : Nat) (q : OutReq) (o : Origin) (st : Nat) : State :=
  let cause := if q.posted then 1 else 2
  match q.dest with
  | .module m => s.fabLogAdd r st cause 0 m q.target
  | .host p | .t4 p => s.hostLogAdd p st cause (s.outFunction p o) 0 q.target

/-- The discard of a hart's write (R271). -/
def discardHartWrite (s : State) (h kind : Nat) (q : OutReq) (st : Nat) : State :=
  let src := match q.dest with | .module _ => 0 | _ => 1
  (s.logLost (hartRegion h) q q.origin st).asyncError h st src kind q.target

/-- A hart's posted write to a destination: issued, or discarded at issue (R246, R273). -/
def postWrite (s : State) (h kind : Nat) (q : OutReq) : State :=
  if s.destReachable q.dest q.origin then s.issue q else s.discardHartWrite h kind q (lostStatus q.dest)

/-- A hart's store to T4 below a link that is down is discarded at issue (R271, R273). -/
def deadStore (s : State) (h kind r a : Nat) : State := (s.hostLogAdd r stPEER_LOST 1 0 0 a).asyncError h stPEER_LOST 1 kind a

/-- The root port and address of a line in T4 that nothing reaches. -/
def deadLine (s : State) (line : Nat) : Option Nat :=
  match placeRaw (line * 128) with
  | .t4 p off => if s.t4Reachable p off then none else some p
  | _ => none

/-- A hart's posted writes that are not acknowledged: I/O-class stores, and write-combined entries. -/
def unacked (s : State) (h : Nat) : Bool := s.out.any fun q => q.posted && (q.origin == .hart h || q.origin == .wc h)
def wcUnacked (s : State) (h : Nat) : Bool := s.out.any fun q => q.origin == .wc h

/-! ### The write-combining buffer (R250, R251) -/

/-- The bytes of an entry from its first to its last written byte. -/
def WcEntry.bytes (e : WcEntry) : List Byte := leBytes 128 e.data.toNat

/-- An entry is written out as one masked write of its line; false while that must wait (R256, R289). -/
def wcWrite (s : State) (h : Nat) (e : WcEntry) : State × Bool :=
  match e.dest with
  | none =>
    match s.deadLine e.line with
    | some p => (s.deadStore h 1 p (e.line * 128), true)
    | none =>
      if s.lineWaits e.line true then (s, false)
      else
        let (s, st) := s.engineWrite (hartAgent s.moduleId h) e.line e.data e.mask
        (if st = stOK then s.t4Write (.wc h) (e.line * 128) (leBytes 128 e.data.toNat) (some e.mask.toNat) 0
         else if st = stPEER_LOST then s.asyncError h st 0 1 (e.line * 128) else s, true)
  | some d =>
    (s.postWrite h 1 { tag := 0, origin := .wc h, dest := d, op := 3, addr := e.line * 128, len := 128,
                       data := leBytes 128 e.data.toNat, mask := e.mask.toNat }, true)

/-- The entries of a hart that satisfy `p` are written out, oldest first; those that must wait stay. -/
def wcFlush (s : State) (h : Nat) (p : WcEntry → Bool) : State :=
  let (s, kept) := (s.hart h).wc.foldl (fun (s, kept) e =>
    if p e then
      let (s', ok) := s.wcWrite h e
      if ok then (s', kept) else (s, kept ++ [e])
    else (s, kept ++ [e])) (s, [])
  s.updHart h fun x => { x with wc := kept }

/-- A drain is complete: no entry is left and every written entry is acknowledged. -/
def wcDrained (s : State) (h : Nat) : Bool := (s.hart h).wc == [] && !s.wcUnacked h

/-- A write-combined store of `n` bytes at an offset of a line (R250). -/
def wcStore (s : State) (h : Nat) (dest : Option OutDest) (line off n : Nat) (v : Nat) : State :=
  let d := BitVec.ofNat 1024 ((v % 2 ^ (8 * n)) <<< (8 * off))
  let m := byteMask off n
  let hit (e : WcEntry) : Bool := e.dest == dest && e.line == line
  let merge (e : WcEntry) : WcEntry := if hit e then { e with data := mergeLine e.data d m, mask := e.mask ||| m } else e
  if (s.hart h).wc.any hit then s.updHart h fun x => { x with wc := x.wc.map merge }
  else
    let s := if 8 ≤ (s.hart h).wc.length then
        match (s.hart h).wc.head? with
        | some e => s.wcFlush h (· == e)
        | none => s
      else s
    s.updHart h fun x => { x with wc := x.wc ++ [{ dest := dest, line := line, data := d, mask := m }] }

/-! ### The store buffer and the sequencer's data cache (R149 to R151, R244) -/

/-- The combining buffer of streaming mode is written to memory; it stays while another hart defers its line (R256). -/
def writeCombine (s : State) (h : Nat) : State :=
  match (s.hart h).combine with
  | some e =>
    match s.deadLine e.line with
    | some p => (s.deadStore h 0 p (e.line * 128)).updHart h fun x => { x with combine := none }
    | none =>
      if s.lineWaits e.line true then s
      else
        let (s, st) := s.engineWrite (hartAgent s.moduleId h) e.line e.data e.mask
        let s := (s.updHart h fun x => { x with combine := none }).bump (BLK_DC_STREAM_LINES (h - 144)) 1
        if st = stPEER_LOST then s.asyncError h st 0 0 (e.line * 128) else s
  | none => s

/-- The data cache leaves streaming mode (R151).  A combining buffer that must still wait is written as soon as it can be
(`settleHarts`). -/
def leaveStreaming (s : State) (h : Nat) : State :=
  if (s.hart h).streaming || (s.hart h).combine.isSome then
    (s.writeCombine h).updHart h fun x => { x with streaming := false, missRun := 0 }
  else s

/-- A miss asks for the next line too, unless that is present, in flight or in the eviction buffer (R149). -/
def askNext (s : State) (h line : Nat) : State :=
  if (s.cacheOf h (line + 1)).isSome ∨ (s.evicting.find (h, line + 1)).isSome then s else s.coreRequest (line + 1) (.readShared h)

/-- A hart's access to a line that its cache has asked for waits and is no new miss (R149). -/
def onItsWay (s : State) (h line : Nat) : Bool := (s.cacheOf h line).isNone && s.requesting h line

/-- A store miss of a sequencer to a line is counted, once a line (R149, R151, Table 4.20).  A store to a line held in S counts too
(DESIGN CHOICE, log 168). -/
def storeMiss (s : State) (h line : Nat) : State :=
  let x := s.hart h
  if h < 144 ∨ x.missLine = some line ∨ s.onItsWay h line then s
  else
    let run := if 0 < x.missRun ∧ line = x.nextLine then x.missRun + 1 else 1
    let streaming := x.streaming || decide (3 ≤ run)
    let s := (s.setHart h { x with missLine := some line, missRun := run, nextLine := line + 1, streaming := streaming }).bump
      (BLK_DC_MISSES (h - 144)) 1
    if streaming then s else s.askNext h line

/-- A load miss (R149, R151): a sequencer's cache leaves streaming mode, and asks for the next line. -/
def loadMiss (s : State) (h line : Nat) : State :=
  if h < 144 ∨ (s.hart h).missLine = some line ∨ s.onItsWay h line then s
  else
    (((s.leaveStreaming h).updHart h fun x => { x with missLine := some line, missRun := 0 }).bump (BLK_DC_MISSES (h - 144)) 1).askNext
      h line

/-- A line waiting in the eviction buffer returns to the cache, unless a snoop has had it (R149, R150, R287). -/
def reclaim (s : State) (k line : Nat) : State :=
  match s.cacheOf k line, s.evicting.find (k, line) with
  | none, some c =>
    if c.state = .shared then s
    else match ({ s with evicting := s.evicting.erase (k, line) } : State).makeRoom k line with
      | some s => s.setCache k line (some c)
      | none => s
  | _, _ => s

/-- A line homed in a lost region is poisoned at its next access, and its copy goes (R296). -/
def lostLine (s : State) (line : Nat) : Bool := !s.regionLive (lineHome line)

/-- A miss that has been served counts again. -/
def missServed (s : State) (h line : Nat) : State :=
  if (s.hart h).missLine = some line then s.updHart h fun x => { x with missLine := none } else s

/-- A store into the line that the cache owns, with the bytes of a combining buffer of the line. -/
def storeHit (s : State) (h : Nat) (c : CLine) (st : HeldStore) : State × Bool :=
  let line := st.addr / 128
  let s := if (s.hart h).combine.any (·.line != line) then s.writeCombine h else s
  match (s.hart h).combine with
  | some e =>
    if e.line = line then
      ((((s.updHart h fun x => { x with combine := none }).missServed h line).setCache h line
        (some ⟨.modified, (c.line.merge e.data e.mask).put (st.addr % 128) st.size st.value.toNat⟩)), true)
    else (s, false)
  | none => ((s.missServed h line).setCache h line (some ⟨.modified, c.line.put (st.addr % 128) st.size st.value.toNat⟩), true)

/-- A store that misses in streaming mode (R151): it joins the combining buffer of its line; one outside that line has the buffer
written to memory and starts the next line, or ends the mode where it is not that line. The store whose miss began the mode
takes the way of a miss. -/
def storeStream (s : State) (h : Nat) (st : HeldStore) : State × Bool :=
  let line := st.addr / 128
  let x := s.hart h
  let d := BitVec.ofNat 1024 ((st.value.toNat % 2 ^ (8 * st.size)) <<< (8 * (st.addr % 128)))
  let m := byteMask (st.addr % 128) st.size
  let start (s : State) : State × Bool :=
    ((s.updHart h fun x => { x with combine := some { line := line, data := d, mask := m }, nextLine := line + 1 }).bump
      (BLK_DC_MISSES (h - 144)) 1, true)
  if x.missLine = some line then (s, false)
  else match x.combine with
    | some e =>
      if e.line = line then
        (s.setHart h { x with combine := some { e with data := mergeLine e.data d m, mask := e.mask ||| m } }, true)
      else
        let s := if line = x.nextLine then s.writeCombine h else s.leaveStreaming h
        if (s.hart h).combine.isSome then (s, false)
        else if line = x.nextLine then start s else (s.storeMiss h line, false)
    | none => if line = x.nextLine then start s else ((s.leaveStreaming h).storeMiss h line, false)

/-- One held store performed: false while its line is not owned. -/
def performStore (s : State) (h : Nat) (st : HeldStore) : State × Bool :=
  let line := st.addr / 128
  let s := s.reclaim h line
  if s.lostLine line then
    let ag := hartAgent s.moduleId h
    (((s.dropCopy h line).log ag.region stPEER_LOST 6 ag.code st.addr 0).asyncError h stPEER_LOST 0 0 st.addr, true)
  else
    match s.cacheOf h line with
    | some c => if c.state = .shared then (s.storeMiss h line, false) else s.storeHit h c st
    | none =>
      if s.requesting h line then (s, false)
      else if (s.hart h).streaming then s.storeStream h st else (s.storeMiss h line, false)

/-- Held stores are performed in program order as far as their lines are owned (R244). -/
def drainStores (s : State) (h : Nat) : Nat → State
  | 0 => s
  | fuel + 1 =>
    match (s.hart h).stores with
    | [] => s
    | st :: rest =>
      let (s', ok) := s.performStore h st
      if ok then drainStores (s'.updHart h fun x => { x with stores := rest }) h fuel else s'

/-- Every hart performs the stores that it can, and writes the combining buffer of a streaming mode that it left (R151). -/
def settleHarts (s : State) : State :=
  s.harts.foldl (fun s x =>
    (if (s.hart x.1).streaming then s else s.writeCombine x.1).drainStores x.1 (x.2.stores.length)) s

/-! ### Traps and interrupts (R146, R191, R251, R271, R275) -/

/-- A sequencer that takes a trap while it takes one halts (R146, Table 4.15). -/
def seqHalt (s : State) (h : Nat) : State :=
  let b := h - 144
  (s.updBlock b fun x => { x with state := if x.state = .running then .halted else x.state, seqFault := true }).updHart h fun x => { x with wait := .none, wfi := false }

/-- A trap is entered once the combining buffer is written and the write-combining buffer has drained (R151, R251). -/
def trapEnter (s : State) (h : Nat) : State :=
  match (s.hart h).wait with
  | .trap cause tval =>
    let s := (s.leaveStreaming h).wcFlush h fun _ => true
    if s.wcDrained h && (s.hart h).combine.isNone then s.updHart h fun x => x.enter (decide (2 ^ 63 ≤ cause)) (cause % 2 ^ 63) (w64 tval) else s
  | _ => s

/-- A trap is taken: the write-combining buffer drains, streaming mode and any reservation end (R151, R251, R256). -/
def trap (s : State) (h cause tval : Nat) : State :=
  let s := (s.leaveStreaming h).endReservation h
  if 144 ≤ h ∧ (s.hart h).inTrap then s.seqHalt h else (s.waitFor h (.trap cause tval)).trapEnter h

/-- A precise exception whose instruction does not retire. -/
def fault (s : State) (h cause addr : Nat) : State := s.trap h cause addr

/-- Poison consumed by a hart: the log entry names the word, mtval the address (R293). -/
def hartPoison (s : State) (h cause a va : Nat) : State :=
  let ag := hartAgent s.moduleId h
  (s.log ag.region stPOISON 2 ag.code (a / 8 * 8) 0).fault h cause va

/-- A loaded value of `n` bytes in its destination register. -/
def extend (signed : Bool) (n v : Nat) : W64 := if signed then (BitVec.ofNat (8 * n) v).signExtend 64 else w64 v

/-! ### Instruction fetch (R148, R276, R277) -/

/-- A line enters an instruction cache: 32 KiB of a sequencer, in one set, 64 KiB in 4 ways of a core (Table 8.1); a free value chooses
the line that goes. -/
def icacheFill (s : State) (h line : Nat) (l : Line) : State :=
  let held := ((s.icache.filter fun x => x.1.1 == h && x.1.2 != line).map (·.1.2)).filter fun n =>
    decide (144 ≤ h) || Config.l1iSet n == Config.l1iSet line
  let s : State := if held.length < (if h < 144 then 4 else 256) then s
    else match held[Config.victim s.freeCount % held.length]? with
      | some v => { s with icache := s.icache.erase (h, v), freeCount := s.freeCount + 1 }
      | none => s
  { s with icache := s.icache.set (h, line) l }

/-- The fetch of an instruction of 4 bytes from a line that arrived: a poisoned word there is consumed (R293). -/
def fetchFrom (s : State) (h a pc : Nat) (l : Line) : State :=
  match l.badWord (a % 128) (min 4 (128 - a % 128)) with
  | some o => s.hartPoison h 1 (a / 128 * 128 + o) pc
  | none => s

/-- A fetch from memory: through the instruction cache where the line may be cached (R276), so that what a sequencer holds there may be
stale until FENCE.I (R148). -/
def fetchMem (s : State) (h a pc : Nat) (cached : Bool) : State :=
  match s.icache.find (h, a / 128) with
  | some l => s.fetchFrom h a pc (if cached then l else s.peekLine (a / 128))
  | none =>
    let l := s.peekLine (a / 128)
    (if cached then s.icacheFill h (a / 128) l else s).fetchFrom h a pc l

/-- A core that is released starts at CORE_ENTRY, in machine mode (R491).  Its first instruction comes through its L2, which its L1I is
filled from (R277): it waits for the line where L2 does not hold it. -/
def coreFetch (s : State) (h : Nat) : State :=
  let pc := (s.hart h).pc.toNat
  match s.reach pc with
  | .own (.hbm ..) a false | .own (.lpd ..) a false | .own (.t4 ..) a false =>
    match s.cacheOf h (a / 128) with
    | some c => (s.icacheFill h (a / 128) c.line).fetchFrom h a pc c.line
    | none => (s.coreRequest (a / 128) (.readShared h)).waitFor h (.fetch (a / 128))
  | .own (.hbm ..) a true | .own (.lpd ..) a true | .own (.t4 ..) a true => s.fetchMem h a pc false
  | .badAperture | .own .reserved .. | .own (.peg ..) .. => s.fault h 1 pc
  | _ => s

/-- The line of a core's first instruction has arrived, or its home is lost. -/
def fetchArrived (s : State) (h : Nat) : State :=
  match (s.hart h).wait with
  | .fetch line => if (s.cacheOf h line).isSome then (s.waitFor h .none).coreFetch h
      else if s.lostLine line then (s.waitFor h .none).hartPoison h 1 (line * 128) (s.hart h).pc.toNat
      else s.coreRequest line (.readShared h)
  | _ => s

/-- A takeable interrupt is taken at an instruction boundary of a hart that runs or waits in WFI, or while a fence or a miss waits. A
load or AMO that has left the module completes first, and the instruction of a sequencer that was halted (Table 4.15). -/
def takeInterrupt (s : State) (h : Nat) : State :=
  let s := (s.fetchArrived h).trapEnter h
  let busy : Bool := (match (s.hart h).wait with | .answer _ | .trap .. | .fetch _ => true | _ => false) || s.halting h
  let s1 := s.updHart h fun x => { x with wfi := false }
  if !s1.hartRuns h ∨ busy then s
  else match s.takeable h with
    | some c => s.trap h (2 ^ 63 + c) 0
    | none => s

/-! ### Block reset (R148, R185) -/

/-- The reset of a sequencer: its hart starts anew and its caches are invalidated; what its data cache held is dropped. -/
def resetSeq (s : State) (b : Nat) : State :=
  let h := 144 + b
  let s : State := { s with dir := s.dir.filter fun x => x.2 != .excl h }
  let s := s.loseCache h
  { s with harts := s.harts.erase h, out := s.out.filter fun q => q.origin != .hart h || q.posted }

/-- What a gather-scatter command of a block awaits from outside goes with the command: its reads, and answers that no row took. -/
def dropGsReads (s : State) (b : Nat) : State :=
  let mine (o : Origin) : Bool := match o with | .gs x _ => x == b | _ => false
  { s with out := s.out.filter (fun q => !mine q.origin || q.posted), answers := s.answers.filter fun a => !mine a.origin }

/-- Step 4 of R185 and the release of R148: the block is HALTED, its sequencer, queues and array as after reset. -/
def releaseReset (s : State) (b : Nat) : State := ((s.releaseBlock b).resetSeq b).dropGsReads b

end State

end Sys2Proof.Machine
end

