-- ==== Sys2Proof/Machine/Operands.lean ====
section
/-!
DEFINITION. Operands in the block store: packed rows (R52, R99), extents, and the checks that every engine makes of them.
-/
namespace Sys2Proof.Machine

/-- Bytes of a packed row of `n` elements (R52, R99). -/
def rowBytes (fmt n : Nat) : Nat :=
  match fmtWidth fmt with
  | 4 => ceilDiv n 2
  | 6 => 3 * ceilDiv n 4
  | w => n * (w / 8)

/-- The elements of a packed row held in a number. -/
def unpack (w n v : Nat) : List Nat := (List.range n).map fun i => (v >>> (w * i)) % 2 ^ w

/-- Elements packed from bit 0 upwards. -/
def pack (w : Nat) : List Nat → Nat
  | [] => 0
  | x :: xs => x % 2 ^ w + (pack w xs) <<< w

/-- The bytes of a packed row. -/
def packRow (fmt : Nat) (xs : List Nat) : List Byte := leBytes (rowBytes fmt xs.length) (pack (fmtWidth fmt) xs)

/-- `n` rows of `len` bytes at pitch `p` from `base` reach outside the block store. -/
def rowsOut (base n p len : Nat) : Bool := decide (0 < n) && decide (0 < len) && decide (storeSize < base + (n - 1) * p + len)

/-- A power of two. -/
def isPow2 (n : Nat) : Bool := n != 0 && n == 2 ^ n.log2

namespace State

def storeNat (s : State) (b off n : Nat) : Nat := s.rdNat (storeBase b + off) n
def storeWrite (s : State) (b off : Nat) (bs : List Byte) : State := s.wrBytes (storeBase b + off) bs

/-- The offset of the first poisoned byte of a range of the block store (R164). -/
def storePoison (s : State) (b off n : Nat) : Option Nat := (s.firstPoison (storeBase b + off) n).map (· - storeBase b)

/-- A consumption of poison in the block store by an engine of the block is logged (R293). -/
def poisonLog (s : State) (b off : Nat) : State :=
  s.log (b / 128) stPOISON 2 (blockAgent s.moduleId b).code (storeBase b + off / 8 * 8) 0

/-- The elements of a packed row in the block store. -/
def storeRow (s : State) (b off fmt n : Nat) : List Nat := unpack (fmtWidth fmt) n (s.storeNat b off (rowBytes fmt n))

end State

end Sys2Proof.Machine
end

