-- ==== Sys2Proof/Machine/Array.lean ====
section
/-!
DEFINITION. The matrix array's arithmetic: tile passes, bridge checks, accumulation and output rows (chapters 2 and 3).
-/
namespace Sys2Proof.Machine

/-- The kind of a mode and stationary format (R103). -/
def kindOf (mode fmt : Nat) : Kind :=
  if mode = 1 then .min else if mode = 2 then .max else if mode = 0 ∧ fmt = 1 then .bf16
  else if mode = 0 ∧ isMx fmt then .scaledSum else .sum

def Tile.kind (t : Tile) : Kind := kindOf t.mode t.format

/-! ### Cell registers (R90, R93) -/

/-- The even-parity bit of the low `n` bits of a number. -/
def evenParity (n v : Nat) : Bool := (List.range n).foldl (fun p i => p != v.testBit i) false

/-- A register written by the load path, with the parity of both bytes. -/
def CellReg.write (v : Nat) : CellReg :=
  { data := BitVec.ofNat 16 v,
    parity := BitVec.ofNat 2 ((evenParity 8 v).toNat + 2 * (evenParity 8 (v / 256)).toNat) }

/-- The check of both bytes that every read of a register makes. -/
def CellReg.sound (c : CellReg) : Bool := c == CellReg.write c.data.toNat

def BridgeReg.write (v : Nat) : BridgeReg := { value := v, parity := evenParity 64 v }
def BridgeReg.sound (c : BridgeReg) : Bool := c == BridgeReg.write c.value

/-- Reduction rows that a cell row holds: 2 in 4-bit modes. -/
def rowsPerCell (f : Nat) : Nat := if fmtWidth f = 4 then 2 else 1

/-- The cell rows that hold a tile's rows of elements: element (k, j) stands in cell row k, or k / 2 in 4-bit modes. -/
def cellRows (f : Nat) (n : Nat) : List (List Nat) → List (List CellReg)
  | [] => []
  | [a] => [(List.range n).map fun j => CellReg.write (a.getD j 0)]
  | a :: b :: rest =>
    if rowsPerCell f = 2 then
      ((List.range n).map fun j => CellReg.write (a.getD j 0 + 16 * b.getD j 0)) :: cellRows f n rest
    else ((List.range n).map fun j => CellReg.write (a.getD j 0)) :: cellRows f n (b :: rest)

/-- The element of reduction row `k` and column `j`, as its cell register holds it (R90, R93). -/
def Tile.elem (t : Tile) (k j : Nat) : Nat :=
  let v := ((t.cells.getD (k / rowsPerCell t.format) []).getD j {}).data.toNat
  if rowsPerCell t.format = 2 then v / 16 ^ (k % 2) % 16 else v % 2 ^ fmtWidth t.format

/-- The element encodings of a tile: row k, column j. -/
def Tile.elems (t : Tile) : List (List Nat) := (List.range t.kRows).map fun k => (List.range t.nCols).map (t.elem k)

/-- The column of the first register with wrong parity that a fed row reads: an enabled cell's, or the bridge column, which the spec gives
no number: 128 (R92, R93, R133; DESIGN CHOICE, log 163). -/
def Tile.badParity (t : Tile) : Option Nat :=
  if t.kRows = 0 ∨ t.nCols = 0 then none
  else
    ((List.range (ceilDiv t.kRows (rowsPerCell t.format))).findSome? fun i =>
      (List.range t.nCols).find? fun j => !((t.cells.getD i []).getD j {}).sound).orElse fun _ =>
    if t.bridge.take t.kRows |>.all (·.sound) then none else some 128

/-- A physical upset of the register in cell row `i` and column `j`, or in the bridge column (column 128): its parity no longer
agrees with its data. -/
def Tile.upset (t : Tile) (i j : Nat) : Tile :=
  if j = 128 then { t with bridge := t.bridge.modify i fun c => { c with parity := !c.parity } }
  else { t with cells := t.cells.modify i fun row => row.modify j fun c => { c with parity := c.parity ^^^ 1 } }

/-- The array has swapped for a replay: the group's tile had moved to SHADOW before the replay, and the array swaps back after it (R129). -/
def Array.swapped (a : Array) : Bool :=
  a.groups.any fun g => g.replay && g.state == .feeding && g.tile.id != a.active.id && g.tile.id == a.shadow.id

/-- The tile in ACTIVE, and the one in SHADOW. `Array.active` and `Array.shadow` are those that the array swaps back to. -/
def Array.inActive (a : Array) : Tile := if a.swapped then a.shadow else a.active
def Array.inShadow (a : Array) : Tile := if a.swapped then a.active else a.shadow

/-- ACTIVE is VALID: during the replay of a tile from SHADOW it holds that tile. -/
def Array.activeIsValid (a : Array) : Bool := a.swapped || a.activeValid

/-- The state of SHADOW: during such a replay it holds the tile that the array swaps back to. -/
def Array.shadowIs (a : Array) : Shadow :=
  if a.swapped && a.shadowState == .ready && !a.activeValid then .empty else a.shadowState

/-- The tile of an identity as ACTIVE or SHADOW holds it. -/
def Array.held (a : Array) (t : Tile) : Tile :=
  if a.active.id = t.id then a.active else if a.shadow.id = t.id then a.shadow else t

/-- An upset of a register of the tile with an identity. -/
def Array.upset (a : Array) (id i j : Nat) : Array :=
  { a with active := if a.active.id = id then a.active.upset i j else a.active,
           shadow := if a.shadow.id = id then a.shadow.upset i j else a.shadow }

/-- The formats of the narrow mode (Table 2.3). -/
def isNarrow (f : Nat) : Bool := decide (3 ≤ f ∧ f ≤ 9)

/-- A stationary format that some pair of Table 2.3 allows in a mode. -/
def stationaryOk (mode f : Nat) : Bool :=
  if mode = 0 then isNarrow f || isMx f || f == 1 || f == 2 else f == 2 || isNarrow f

/-- The operand pairs of Table 2.3. -/
def pairOk (mode fa fb : Nat) : Bool :=
  stationaryOk mode fa &&
    (if mode = 0 then (isNarrow fa && isNarrow fb) || (isMx fa && isMx fb) || (fa == fb && (fa == 1 || fa == 2)) else fa == fb)

/-- Rows of the tile per scale segment present. -/
def Tile.segments (t : Tile) : Nat := ceilDiv t.kRows 32

/-- A term of a sum mode: product, |a - b|, (a - b)^2, or 1 for equal encodings (R80, R81). -/
def sumTerm (mode fa fb a b : Nat) : FVal :=
  let va := decodeFmt fa a
  let vb := decodeFmt fb b
  let d := va.add vb.neg
  match mode with
  | 3 => match d with
    | .nan => .nan
    | .inf _ => .inf false
    | .fin _ m e => .fin false m e
  | 4 => d.mul d
  | 5 => .ofInt (if a = b then 1 else 0) 0
  | _ => va.mul vb

/-- A term added to a segment sum held at 2^-48, below which no term of Table 2.4 reaches (R58, R62). -/
def Seg.add (g : Seg) (t : FVal) : Seg :=
  match t with
  | .nan => { g with nan := true }
  | .inf neg => if neg then { g with neg := true } else { g with pos := true }
  | .fin s m e => { g with n := g.n + FVal.intAt s m e (-48), e := -48 }

/-- The segments of one column: stationary column `ws`, streamed row `xs`, scales per segment (R56, R57). -/
def segsOf (mode fa fb : Nat) (ws xs : List Nat) (scales : List (Nat × Nat)) : List Seg :=
  match scales with
  | [] => []
  | (sa, sb) :: rest =>
    let g := ((ws.take 32).zip (xs.take 32)).foldl (fun g (w, x) => g.add (sumTerm mode fa fb w x)) ({ e := -48 } : Seg)
    let mx := isMx fa
    let g := if mx ∧ (sa = 0xFF ∨ sb = 0xFF) then ({ e := -48, nan := true } : Seg)
      else if mx then { g with x := (sa : Int) - 127 + ((sb : Int) - 127) } else g
    g :: segsOf mode fa fb (ws.drop 32) (xs.drop 32) rest

/-- A MIN_PLUS or MAX_PLUS term with a row index (R81, R82). -/
def bestTerm (isMin absent : Bool) (f a b k : Nat) : Acc :=
  let missing (v : Nat) : Bool := absent && ((f == 8 && v == 0x80) || (f == 9 && v == 0x8))
  let lose : Acc := if isMin then { pos := true } else { neg := true }
  if missing a || missing b then lose
  else match decodeFmt f a, decodeFmt f b with
    | .nan, _ | _, .nan => { nan := true, index := k }
    | .fin s m e, .fin s' m' e' => { acc := FVal.intAt s m e (-80) + FVal.intAt s' m' e' (-80), index := k }
    | va, vb =>
      let bad := !isMin
      if va = .inf bad || vb = .inf bad then lose
      else { pos := !isMin, neg := isMin, index := k }

/-- The best term of a column, with indices counted from `k` (R84, R85). -/
def bestOf (isMin absent : Bool) (f : Nat) : List (Nat × Nat) → Nat → Acc
  | [], _ => if isMin then { pos := true } else { neg := true }
  | (a, b) :: rest, k => (bestTerm isMin absent f a b k).combineMinMax isMin (bestOf isMin absent f rest (k + 1))

/-- The FP32 encoding of a BF16 one. -/
def bf32 (w : Nat) : Nat := w <<< 16

/-- Column `j` of a list of rows. -/
def colOf (rows : List (List Nat)) (j : Nat) : List Nat := rows.map fun r => r.getD j 0

/-- The pass results of one fed row (R56, R69, R70, R80). -/
def passRow (t : Tile) (fmt : Nat) (absent : Bool) (i : Nat) (xs scales : List Nat) : FedRow :=
  let cols := List.range t.nCols
  let k := t.kind
  { index := i, elems := xs, scales := scales,
    segs := if k = .sum ∨ k = .scaledSum then cols.map fun j =>
        segsOf t.mode t.format fmt (colOf t.elems j) xs
          ((List.range t.segments).map fun g => ((t.scales.getD g []).getD j 0, scales.getD g 0))
      else [],
    ts := if k = .bf16 then cols.map fun j =>
        tree 7 (padTo 128 ((colOf t.elems j).zip xs |>.map fun (w, x) => fmul (bf32 x) (bf32 w)))
      else [],
    bests := if k = .min ∨ k = .max then cols.map fun j => bestOf (k == .min) absent fmt ((colOf t.elems j).zip xs) 0 else [] }

/-- A physical fault adds an exact error to the pass result of one column. -/
def FedRow.inject (f : FedRow) (errs : List ArrayError) : FedRow :=
  let at_ (j : Nat) : List ArrayError := errs.filter fun e => e.col == j
  { f with
    segs := f.segs.mapIdx fun j gs => gs ++ (at_ j).map fun e => { n := e.n, e := e.e },
    ts := f.ts.mapIdx fun j t => (at_ j).foldl (fun t e => enc32 ((dec32 t).add (.ofInt e.n e.e))) t,
    bests := f.bests.mapIdx fun j a => (at_ j).foldl (fun a e => { a with acc := a.acc + (shiftRne e.n (e.e + 80)).1 }) a }

/-! ### Bridge checks (R122 to R128) -/

/-- The prime of R122. -/
def rhoP : Nat := 2 ^ 61 - 1

/-- The residue of `n * 2^e` (R122). -/
def rho (n e : Int) : Nat := (n % (rhoP : Int)).toNat * 2 ^ (e % 61).toNat % rhoP

/-- The residue of an element with an MX scale exponent. -/
def rhoElem (f w : Nat) (x : Int) : Nat :=
  match decodeFmt f w with
  | .fin s m e => rho (if s then -(m : Int) else m) (e + x)
  | _ => 0

/-- An MX scale exponent; 0 without scales. -/
def scaleExp (f sc : Nat) : Int := if isMx f then (sc : Int) - 127 else 0

/-- A value that R128 skips: NaN or infinity. -/
def special (f w : Nat) : Bool := match decodeFmt f w with
  | .fin .. => false
  | _ => true

def Tile.special (t : Tile) : Bool :=
  t.elems.any (·.any (Machine.special t.format)) || (isMx t.format && t.scales.any (·.any (· == 0xFF)))

def FedRow.special (f : FedRow) (fmt : Nat) : Bool := f.elems.any (Machine.special fmt) || (isMx fmt && f.scales.any (· == 0xFF))

/-- The residue of W'(k, j). -/
def Tile.rhoW (t : Tile) (k j : Nat) : Nat :=
  rhoElem t.format ((t.elems.getD k []).getD j 0) (scaleExp t.format ((t.scales.getD (k / 32) []).getD j 0))

/-- The residue of x'(m, k). -/
def FedRow.rhoX (f : FedRow) (fmt k : Nat) : Nat := rhoElem fmt (f.elems.getD k 0) (scaleExp fmt (f.scales.getD (k / 32) 0))

/-- The residue of Y(m, j). -/
def FedRow.rhoY (f : FedRow) (j : Nat) : Nat := (f.segs.getD j []).foldl (fun a g => (a + rho g.n (g.e + g.x)) % rhoP) 0

/-- A sum of residues over a range. -/
def rhoSum (n : Nat) (f : Nat → Nat) : Nat := (List.range n).foldl (fun a i => (a + f i) % rhoP) 0

/-- The exact row sum of a BF16 tile rounded once to FP32 (R126). -/
def Tile.rowSum32 (t : Tile) (k : Nat) : Nat :=
  enc32 ((List.range t.nCols).foldl (fun a j => a.add (decodeFmt 1 (t.elem k j))) (.fin false 0 0))

/-- What the load path writes in the bridge column for row `k` (R123, R126, R127): the residue of the row sum, its FP32 value, or a
duplicate of column d. -/
def Tile.bridgeValue (t : Tile) (k : Nat) : Nat :=
  match t.kind with
  | .bf16 => t.rowSum32 k
  | .min | .max | .free => t.elem k (t.loads % t.nCols)
  | .sum | .scaledSum => if t.mode = 0 then rhoSum t.nCols (t.rhoW k ·) else t.elem k (t.loads % t.nCols)

/-- The tile with its bridge column written (R98, R123). -/
def Tile.bridged (t : Tile) : Tile :=
  { t with bridge := (List.range t.kRows).map fun k => BridgeReg.write (t.bridgeValue k) }

/-- The bridge column as a column of elements: the duplicate of column d (R127). -/
def Tile.twin (t : Tile) : List Nat := t.bridge.map (·.value)

/-- The bridge column check of a row in the exact modes (R123). -/
def rowExact (t : Tile) (fmt : Nat) (f : FedRow) : Bool :=
  rhoSum t.kRows (fun k => f.rhoX fmt k * (t.bridge.getD k {}).value) == rhoSum t.nCols f.rhoY

/-- The bridge row check of a column in the exact modes (R124). -/
def colExact (t : Tile) (fmt : Nat) (rows : List FedRow) (j : Nat) : Bool :=
  rhoSum t.kRows (fun k => rows.foldl (fun a f => (a + f.rhoX fmt k) % rhoP) 0 * t.rhoW k j) ==
    rows.foldl (fun a f => (a + f.rhoY j) % rhoP) 0

/-- An exact magnitude rounded up to FP32 (R126); the top encodings are infinite. -/
def roundUp32 (m : Nat) (e : Int) : Nat :=
  if m = 0 then 0
  else
    let u := max (e + bitLen m - 24) (-149)
    let t := if u ≤ e then m <<< (e - u).toNat else ceilDiv m (2 ^ (u - e).toNat)
    enc32 (.fin false t u)

/-- One BF16 check: B against S under tolerance M, `none` where it is skipped (R126). -/
def tolerance (b s m : Nat) : Option Bool :=
  match dec32 m with
  | .fin _ mm me =>
    match (dec32 b).add (dec32 s).neg with
    | .fin _ d e =>
      let x := min e (min (me - 14) (-118))
      some (decide (d * 2 ^ (e - x).toNat ≤ mm * 2 ^ (me - 14 - x).toNat + 2 ^ (-118 - x).toNat))
    | _ => some false
  | _ => none

/-- The exact sum of |x| |W| over terms, rounded up. -/
def absSum (l : List (Nat × Nat)) : Nat :=
  let n := l.foldl (fun a (x, w) => match (dec32 (bf32 x)).mul (dec32 (bf32 w)) with
    | .fin _ m e => a + m * 2 ^ (e + 300).toNat
    | _ => a) 0
  roundUp32 n (-300)

/-- The bridge column check of a BF16 row (R126). -/
def rowBf16 (t : Tile) (f : FedRow) : Option Bool :=
  let b := tree 7 (padTo 128 (f.elems.zip t.twin |>.map fun (x, rk) => fmul (bf32 x) rk))
  tolerance b (fsum f.ts) (absSum (f.elems.zip t.elems |>.flatMap fun (x, ws) => ws.map fun w => (x, w)))

/-- The bridge row check of a BF16 column (R126): the rule names no order of its additions; each product is rounded to FP32, and they are
added by the tree of R70 (DESIGN CHOICE, log 161). -/
def colBf16 (t : Tile) (rows : List FedRow) (j : Nat) : Option Bool :=
  let w := colOf t.elems j
  let c := (List.range t.kRows).map fun k => fsum (rows.map fun f => bf32 (f.elems.getD k 0))
  let b := tree 7 (padTo 128 (c.zip w |>.map fun (ck, wk) => fmul ck (bf32 wk)))
  tolerance b (fsum (rows.map fun f => f.ts.getD j 0)) (absSum (rows.flatMap fun f => f.elems.zip w))

/-- A tile whose checks compare a duplicate bit for bit: the semiring modes (R127). -/
def Tile.semiring (t : Tile) : Bool := t.kind == .min || t.kind == .max || (t.mode != 0 && t.kind != .bf16)

/-- The row and column that a mismatch of a group reports (R127, R130): the first failing row and column.  In the semiring modes a mismatch
of the bridge column lies in column d, one of the bridge row in the last row; elsewhere a check that did not fail names the group's
first row, or column 0 (DESIGN CHOICE, log 162). -/
def mismatchAt (t : Tile) (g : Group) (rows cols : List Nat) : Nat × Nat :=
  if t.semiring then
    match rows with
    | r :: _ => (r, t.loads % t.nCols)
    | [] => (g.first + g.size - 1, cols.headD 0)
  else (rows.headD g.first, cols.headD 0)

/-- The outcome of a group's checks: rows whose checks are skipped, failing rows, failing columns (R123 to R128). -/
def groupVerdict (t : Tile) (fmt : Nat) (absent : Bool) (rows : List FedRow) : Nat × List Nat × List Nat :=
  let cols := List.range t.nCols
  match t.kind with
  | .min | .max | .free =>
    let fresh (f : FedRow) : FedRow := passRow t fmt absent f.index f.elems f.scales
    let d := t.loads % t.nCols
    (0, if t.nCols = 0 then [] else
        (rows.filter fun f => f.bests.getD d {} != bestOf (t.kind == .min) absent fmt (t.twin.zip f.elems) 0).map (·.index),
      match rows.getLast? with
      | some f => cols.filter fun j => f.bests.getD j {} != (fresh f).bests.getD j {}
      | none => [])
  | .bf16 =>
    if t.special then (rows.length, [], [])
    else
      let ok := rows.filter fun f => !f.special fmt
      let skipRow := ok.filter fun f => (rowBf16 t f).isNone
      let colRes := if ok.length = rows.length then cols.map fun j => (j, colBf16 t rows j) else []
      let colSkip := colRes.any fun x => x.2.isNone
      (if colSkip then rows.length else rows.length - ok.length + skipRow.length,
        (ok.filter fun f => rowBf16 t f == some false).map (·.index), (colRes.filter fun x => x.2 == some false).map (·.1))
  | .sum | .scaledSum =>
    if t.mode ≠ 0 then
      let fresh (f : FedRow) : FedRow := passRow t fmt absent f.index f.elems f.scales
      let d := t.loads % t.nCols
      (0, if t.nCols = 0 then [] else
          (rows.filter fun f => f.segs.getD d [] !=
            segsOf t.mode t.format fmt t.twin f.elems (List.replicate t.segments (0, 0))).map (·.index),
        match rows.getLast? with
        | some f => cols.filter fun j => f.segs.getD j [] != (fresh f).segs.getD j []
        | none => [])
    else if t.special then (rows.length, [], [])
    else
      let ok := rows.filter fun f => !f.special fmt
      (rows.length - ok.length, (ok.filter fun f => !rowExact t fmt f).map (·.index),
        if ok.length = rows.length then cols.filter fun j => !colExact t fmt rows j else [])

/-! ### Commit and output -/

/-- The chain of a column after a pass (R56, R61, R71, R80, R104, R105). -/
def addPass (k : Kind) (kRows indexBase : Nat) (indexed : Bool) (old : Acc) (f : FedRow) (j : Nat) : Acc :=
  match k with
  | .min | .max =>
    let b := f.bests.getD j (Acc.empty k)
    let b := { b with index := if b.index = 0xFFFF then 0xFFFF else indexBase + old.count + b.index, indexed := indexed,
                      count := kRows }
    old.combineMinMax (k == .min) b
  | .bf16 => { old with a := fadd old.a (f.ts.getD j 0), count := old.count + kRows }
  | .scaledSum => { (f.segs.getD j []).foldl Acc.addMx old with count := old.count + kRows }
  | _ => { (f.segs.getD j []).foldl Acc.addSeg old with count := old.count + kRows }

/-- A column of an entry; a column not held is an empty chain. -/
def Entry.col (e : Entry) (j : Nat) : Acc := e.cols.getD j (Acc.empty e.kind)

/-- The drain group of a command (Table 3.10). -/
structure Drain where
  fmt : Nat
  sr : Bool
  sat : Bool
  idx : Bool
  ring : Nat
  dst : Nat
  pitch : Nat
  seed : W64
  row : Nat
  col : Nat
  deriving DecidableEq, Repr

def drainOf (c : Cmd) : Drain :=
  { fmt := c.f 38 4 0, sr := c.f 38 5 5 == 1, sat := c.f 38 6 6 == 1, idx := c.f 38 7 7 == 1, ring := c.f 39 3 0,
    dst := c.f 40 31 0, pitch := c.f 44 15 0, seed := w64 (c.f 48 63 0), row := c.f 56 31 0, col := c.f 60 31 0 }

/-- Bytes of one output row (R119). -/
def Drain.size (d : Drain) (n : Nat) : Nat := n * (fmtWidth d.fmt / 8) + (if d.idx then 2 * n else 0)

/-- Output row pitch Q, and ring length V (R119). -/
def Drain.q (d : Drain) (n : Nat) : Nat := if d.pitch = 0 then d.size n else d.pitch * 64
def Drain.v (d : Drain) : Nat := 2 ^ d.ring * 64

/-- The offset of output row `i` (R119). -/
def Drain.offset (d : Drain) (n i : Nat) : Nat := d.dst + (if d.ring = 0 then i * d.q n else (i * d.q n) % d.v)

/-- The bytes of output row `i`: rounded results, then the indices (R105, R118 to R120). -/
def drainRow (d : Drain) (i : Nat) (k : Kind) (cols : List Acc) : List Byte :=
  let one (j : Nat) (a : Acc) : List Byte :=
    leBytes (fmtWidth d.fmt / 8)
      (drainOne k d.fmt (if d.sr then some (srBits d.seed (d.row + i) (d.col + j)) else none) d.sat a)
  let idx (a : Acc) : List Byte := leBytes 2 (if (k = .min ∨ k = .max) ∧ a.indexed then a.index else 0xFFFF)
  (cols.mapIdx one).flatten ++ (if d.idx then cols.flatMap idx else [])

/-- The output formats of Table 2.5 for an entry kind. -/
def outFmtOk (f : Nat) (bf16 : Bool) : Bool := decide (f ≤ 4) || f == 0x10 || (f == 0x11 && !bf16)

/-- The RANGE conditions of a drain group over `rows` output rows of `n` columns (R119, R137). -/
def Drain.bad (d : Drain) (c : Cmd) (rows n : Nat) : Bool :=
  c.f 39 7 4 != 0 || c.f 46 15 0 != 0 || (d.idx && d.fmt == 0x11) ||
    (d.pitch != 0 && decide (d.pitch * 64 < d.size n)) ||
    (if d.ring ≠ 0 then d.pitch == 0 || !isPow2 (d.q n) || decide (d.v < d.q n) || decide (d.dst % d.v ≠ 0) ||
        decide (storeSize < d.dst + d.v)
      else rowsOut d.dst rows (d.q n) (d.size n))

end Sys2Proof.Machine
end

