-- ==== Sys2Proof/Machine/Matrix.lean ====
section
/-!
DEFINITION. The matrix commands and the array's row-by-row work (chapter 3).
-/
namespace Sys2Proof.Machine

/-- Maximum K_ROWS of a stationary format (Table 3.1). -/
def maxK (f : Nat) : Nat := if fmtWidth f = 4 then 256 else 128

/-- Streamed row layout (R106). -/
def streamP (c : Cmd) (k : Nat) : Nat := if c.f 28 15 0 = 0 then rowBytes (c.f 31 4 0) k else c.f 28 15 0 * 64
def streamW (c : Cmd) : Nat := 2 ^ c.f 30 7 0 * 64
def streamRow (c : Cmd) (k i : Nat) : Nat :=
  c.f 16 31 0 + (if c.f 30 7 0 = 0 then i * streamP c k else (i * streamP c k) % streamW c)
def streamScale (c : Cmd) (k i : Nat) : Nat :=
  c.f 20 31 0 + (if c.f 30 7 0 = 0 then i else i % (streamW c / streamP c k)) * 8

def Cmd.accAdd (c : Cmd) : Bool := c.f 33 0 0 == 1
def Cmd.drainThrough (c : Cmd) : Bool := c.f 33 1 1 == 1
def Cmd.absent (c : Cmd) : Bool := c.f 33 2 2 == 1
def Cmd.indexed (c : Cmd) : Bool := c.f 33 3 3 == 1
def Cmd.feedWait (c : Cmd) : Bool := c.f 33 4 4 == 1
def Cmd.rows (c : Cmd) : Nat := c.f 24 23 0

/-- The kind of a stream, from its number in `Run.kind`. -/
def kindNum : Kind → Nat
  | .free => 0 | .sum => 1 | .scaledSum => 2 | .min => 3 | .max => 4 | .bf16 => 5
def kindOfNum (n : Nat) : Kind :=
  match n with
  | 1 => .sum | 2 => .scaledSum | 3 => .min | 4 => .max | 5 => .bf16 | _ => .free

/-- Acceptance checks of MX_LOAD (R137).  Which checks of an MX mode apply goes by the format, also where MODE names none of the modes
that take it (DESIGN CHOICE, log 120). -/
def checkLoad (x : Block) (c : Cmd) : Nat :=
  let f := c.f 31 4 0
  let mode := c.f 30 7 0
  let k := c.f 26 15 0
  let n := c.f 28 15 0
  let b := rowBytes f n
  let p := if c.f 24 15 0 = 0 then b else c.f 24 15 0 * 64
  let mx := isMx f
  firstCode [
    (x.array.shadowState == .loading, stSTATE),
    (c.headerBad false || c.f 31 7 5 != 0 || c.f 32 255 0 != 0 || decide (5 < mode) || decide (maxK f < k) || decide (128 < n) ||
      (mx && decide (k % 32 ≠ 0)) || (!mx && c.f 20 31 0 != 0) || decide (p < b) || rowsOut (c.f 16 31 0) k p b ||
      (mx && rowsOut (c.f 20 31 0) (ceilDiv k 32) 128 n), stRANGE),
    (decide (c.f 16 31 0 % 64 ≠ 0 ∨ c.f 20 31 0 % 64 ≠ 0), stALIGN),
    (!stationaryOk mode f || decide (5 < mode), stFORMAT)]

/-- The kind and column row counts that an entry will have once every accepted stream has completed (R135). -/
def projected (x : Block) (i : Nat) : Kind × List Nat :=
  let e := x.array.entries.get {} i
  let start : Kind × List Nat := (e.kind, (List.range 128).map fun j => if e.kind = .free then 0 else (e.col j).count)
  (x.engine 0).started.foldl (fun (k, ns) r =>
    let c := r.cmd
    if c.opcode ≠ 0x22 ∨ r.status.isSome ∨ i < c.f 32 7 0 ∨ c.f 32 7 0 + c.rows ≤ i ∨ i < c.f 32 7 0 + r.count then (k, ns)
    else if c.drainThrough then (if c.accAdd then (.free, ns.map fun _ => 0) else (k, ns))
    else (kindOfNum r.kind, ns.mapIdx fun j m =>
      (if c.accAdd ∧ k ≠ .free then m else 0) + (if j < r.nCols then r.kRows else 0))) start

/-- Acceptance checks of MX_STREAM (R137). -/
def checkStream (x : Block) (c : Cmd) : Nat :=
  let t := x.array.active
  let f := c.f 31 4 0
  let rows := c.rows
  let ring := c.f 30 7 0
  let k := t.kRows
  let b := rowBytes f k
  let p := streamP c k
  let w := streamW c
  let g := ceilDiv k 32
  let base := c.f 32 7 0
  let d := drainOf c
  let mm := t.mode == 1 || t.mode == 2
  let named := if c.accAdd && decide (base + rows ≤ 256) then (List.range rows).map (base + ·) else []
  let old (i j : Nat) : Nat := if c.accAdd then (projected x i).2.getD j 0 else 0
  firstCode [
    (!x.array.activeValid, stSTATE),
    (c.headerBad false || c.f 24 31 24 != 0 || c.f 31 7 5 != 0 || c.f 33 7 5 != 0 || decide (15 < ring) ||
      (!c.feedWait && c.f 36 15 0 != 0) || (!c.drainThrough && c.f 38 207 0 != 0) ||
      (!isMx t.format && c.f 20 31 0 != 0) || decide (p < b) ||
      (if ring ≠ 0 then c.f 28 15 0 == 0 || !isPow2 p || decide (w < p) || decide (c.f 16 31 0 % w ≠ 0) ||
          decide (storeSize < c.f 16 31 0 + w) || (isMx t.format && decide (storeSize < c.f 20 31 0 + w / p * 8))
        -- with no column enabled no element is read (R138)
        else t.nCols != 0 && (rowsOut (c.f 16 31 0) rows p b || (isMx t.format && rowsOut (c.f 20 31 0) rows 8 g))) ||
      (if c.drainThrough && !c.accAdd then base != 0 else decide (256 < base + rows)) ||
      named.any (fun i => (List.range t.nCols).any fun j => decide (65536 < old i j + k)) ||
      (c.indexed && (!mm || (decide (0 < rows ∧ 0 < k) && (decide (65536 < c.f 34 15 0 + k) ||
        named.any fun i => (List.range t.nCols).any fun j => decide (65536 < c.f 34 15 0 + old i j + k))))) ||
      (c.absent && !(mm && (f == 8 || f == 9) && (t.format == 8 || t.format == 9))) ||
      (c.drainThrough && (d.bad c rows t.nCols || (d.idx && !mm))), stRANGE),
    (decide (c.f 16 31 0 % 64 ≠ 0 ∨ c.f 20 31 0 % 64 ≠ 0) || (c.drainThrough && decide (d.dst % 64 ≠ 0)) ||
      decide (c.f 36 15 0 % 4 ≠ 0), stALIGN),
    (!pairOk t.mode t.format f || (c.drainThrough && !outFmtOk d.fmt (t.kind == .bf16)) ||
      named.any (fun i => (projected x i).1 != .free && (projected x i).1 != t.kind), stFORMAT)]

/-- Acceptance checks of MX_DRAIN (R137). -/
def checkDrain (x : Block) (c : Cmd) : Nat :=
  let base := c.f 16 7 0
  let n := c.f 18 15 0
  let cols := c.f 20 15 0
  let d := drainOf c
  let kinds := if base + n ≤ 256 then (List.range n).map fun i => (x.array.entries.get {} (base + i)).kind else []
  firstCode [
    (c.headerBad false || c.f 17 7 1 != 0 || c.f 22 127 0 != 0 || decide (256 < base + n) || decide (128 < cols) || d.ring != 0 ||
      d.bad c n cols || (d.idx && kinds.any fun k => k != .min && k != .max && k != .free), stRANGE),
    (decide (d.dst % 64 ≠ 0), stALIGN),
    (!outFmtOk d.fmt (kinds.any (· == .bf16)), stFORMAT)]

/-- Seed record size and pitch (R117). -/
def seedZ (c : Cmd) : Nat := if c.f 23 7 0 = 0 then 32 else 4
def seedP (c : Cmd) : Nat := if c.f 20 15 0 = 0 then c.f 26 15 0 * seedZ c else c.f 20 15 0 * 64

/-- Acceptance checks of MX_SEED (R137). -/
def checkSeed (x : Block) (c : Cmd) : Nat :=
  let n := c.f 24 15 0
  let cols := c.f 26 15 0
  firstCode [
    (c.headerBad false || decide (1 < c.f 23 7 0) || c.f 28 287 0 != 0 || decide (256 < c.f 22 7 0 + n) || decide (128 < cols) ||
      decide (seedP c < cols * seedZ c) || rowsOut (c.f 16 31 0) n (seedP c) (cols * seedZ c), stRANGE),
    (decide (c.f 16 31 0 % 64 ≠ 0), stALIGN),
    (c.f 23 7 0 == 1 && !(x.array.activeValid && x.array.active.kind == .bf16), stFORMAT)]

namespace State

/-- A matrix command at the front of its queue may be taken as far as the block is concerned (R158, R163, R483). -/
def mxCanTake (s : State) (b : Nat) (c : Cmd) : Bool := s.canTake b 0 c

/-- Started matrix commands that have not stopped. -/
def mxRunning (s : State) (b : Nat) : List Run := ((s.block b).engine 0).started.filter fun r => r.status.isNone

/-- The matrix command taken last, if it has not stopped. -/
def lastRun (s : State) (b : Nat) : Option Run := ((s.block b).engine 0).started.getLast?.filter (·.status.isNone)

/-- A started command is replaced, by SEQ. -/
def mxPut (s : State) (b : Nat) (r : Run) : State :=
  s.updBlock b fun x =>
    let g := x.engine 0
    x.setEngine 0 { g with started := g.started.map fun q => if q.cmd.seq = r.cmd.seq then r else q }

def updArray (s : State) (b : Nat) (f : Array → Array) : State := s.updBlock b fun x => { x with array := f x.array }

/-- MX_LOAD is taken as soon as it is at the head of the queue (R95, R127, R135); SHADOW becomes LOADING. -/
def mxLoad (s : State) (b : Nat) : State :=
  match ((s.block b).engine 0).hw with
  | c :: _ =>
    if c.opcode = 0x20 ∧ s.mxCanTake b c then
      let st := checkLoad (s.block b) c
      let s := s.takeHead b 0 c st
      if st = stOK then
        let s := s.updArray b fun a => { a with loads := a.loads + 1 }
        if c.late.isSome then s else s.updArray b fun a => { a with shadowState := .loading }
      else s
    else s
  | [] => s

/-- The load in progress, if its path has (or has not) started. -/
def loadRun (s : State) (b : Nat) (writing : Bool) : Option Run :=
  (s.mxRunning b).find? fun r => r.cmd.opcode == 0x20 && r.writing == writing

/-- The load path begins once no check group still needs the tile held in SHADOW (R97). -/
def mxLoadPathStart (s : State) (b : Nat) : State :=
  match s.loadRun b false with
  | some r =>
    let a := (s.block b).array
    if a.groups.any fun g => g.tile.id == a.shadow.id && g.state == .feeding then s
    else (s.mxPut b { r with writing := true, free := s.freeCount }).nextFree
  | none => s

/-- Offset of tile row `k` of a load (R99). -/
def tileRow (c : Cmd) (k : Nat) : Nat :=
  c.f 16 31 0 + k * (if c.f 24 15 0 = 0 then rowBytes (c.f 31 4 0) (c.f 28 15 0) else c.f 24 15 0 * 64)

/-- The first poisoned byte among the rows of a list: its row and offset. -/
def firstPoisonRow (s : State) (b len : Nat) : List (Nat × Nat) → Option (Nat × Nat)
  | [] => none
  | (i, off) :: rest =>
    match s.storePoison b off len with
    | some p => some (i, p)
    | none => firstPoisonRow s b len rest

/-- The load ends (Table 3.2, R99, R100): READY with the tile, or EMPTY on a poisoned operand. -/
def mxLoadDone (s : State) (b : Nat) : State :=
  match s.loadRun b true with
  | some r =>
    let c := r.cmd
    let f := c.f 31 4 0
    let k := c.f 26 15 0
    let n := c.f 28 15 0
    let g := if isMx f then ceilDiv k 32 else 0
    let rows := (List.range k).map fun i => (i, tileRow c i)
    let scs := (List.range g).map fun i => (k, c.f 20 31 0 + i * 128)
    match (s.firstPoisonRow b (rowBytes f n) rows).orElse fun _ => s.firstPoisonRow b n scs with
    | some (i, off) =>
      ((s.poisonLog b off).mxPut b { r with status := some stPOISON, count := i, detail := w64 off }).updArray b fun a =>
        { a with shadowState := .empty }
    | none =>
      let t : Tile := { id := r.cmd.seq + 1, mode := c.f 30 7 0, format := f, kRows := k, nCols := n,
                        cells := cellRows f n (rows.map fun x => s.storeRow b x.2 f n),
                        scales := scs.map fun x => (s.rdBytes (storeBase b + x.2) n).map (·.toNat),
                        loads := (s.block b).array.loads - 1 }
      (s.mxPut b { r with status := some stOK, count := k }).updArray b fun a =>
        { a with shadow := t.bridged, shadowState := .ready }
  | none => s

/-- MX_SWAP is taken (Table 3.2): it completes with STATE if SHADOW is EMPTY, or waits to take effect. -/
def mxSwap (s : State) (b : Nat) : State :=
  match ((s.block b).engine 0).hw with
  | c :: _ =>
    if c.opcode = 0x21 ∧ s.mxCanTake b c then
      s.takeHead b 0 c (firstCode [((s.block b).array.shadowState == .empty, stSTATE),
        (c.headerBad false || c.f 16 383 0 != 0, stRANGE)])
    else s
  | [] => s

/-- ACTIVE and SHADOW exchange once every row of every earlier stream has been fed (R96, Table 3.2). -/
def mxSwapCycle (s : State) (b : Nat) : State :=
  match (s.mxRunning b).find? fun r => r.cmd.opcode == 0x21 with
  | some r =>
    let a := (s.block b).array
    let fedAll := (s.mxRunning b).all fun q =>
      q.cmd.opcode ≠ 0x22 || decide (r.cmd.seq < q.cmd.seq) || q.stopping.isSome || decide (q.cmd.rows ≤ q.fed)
    if !fedAll || a.groups.any (fun g => g.replay && g.state == .feeding) then s
    else match a.shadowState with
      | .loading => s
      | .empty => s.mxPut b { r with status := some stSTATE }
      | .ready =>
        (s.mxPut b { r with status := some stOK }).updArray b fun a =>
          { a with active := a.shadow, shadow := a.active, activeValid := true,
                   shadowState := if a.activeValid then .ready else .empty }
  | none => s

/-- MX_STREAM is taken (R102, R135): every earlier row fed, swap effective, seed and drain complete. -/
def mxStream (s : State) (b : Nat) : State :=
  match ((s.block b).engine 0).hw with
  | c :: _ =>
    if c.opcode = 0x22 ∧ s.mxCanTake b c ∧ (s.mxRunning b).all (fun q =>
        q.cmd.opcode == 0x20 || (q.cmd.opcode == 0x22 && (q.stopping.isSome || decide (q.cmd.rows ≤ q.fed)))) then
      let x := s.block b
      let t := x.array.active
      let st := checkStream x c
      if st = stOK ∧ c.late = none then
        -- a stream of no rows is complete (R138)
        s.startRun b 0 { cmd := c, kind := kindNum t.kind, kRows := t.kRows, nCols := t.nCols,
                         status := if c.rows = 0 then some stOK else none }
      else s.takeHead b 0 c st
    else s
  | [] => s

/-- A stream none of whose groups is left and that stops, or has committed every row, takes its status (R121, R139). -/
def mxFinalize (s : State) (b : Nat) : State :=
  let groups := (s.block b).array.groups
  s.updBlock b fun x =>
    let g := x.engine 0
    x.setEngine 0 { g with started := g.started.map fun r =>
      if r.cmd.opcode ≠ 0x22 ∨ r.status.isSome ∨ groups.any (·.seq == r.cmd.seq) then r
      else match r.stopping with
        | some st => { r with status := some st }
        | none => if r.count = r.cmd.rows then { r with status := some (if r.inexact then stINEXACT else stOK) } else r }

/-- A stream stops: its groups from row `from_` on are discarded, and it takes `st` once earlier groups have committed. -/
def mxStop (s : State) (b : Nat) (r : Run) (from_ st : Nat) (detail : W64) : State :=
  let s := s.mxPut b { r with stopping := some st, detail := detail }
  let s := s.updArray b fun a =>
    { a with groups := a.groups.filter fun g => g.seq != r.cmd.seq || decide (g.first < from_) }
  s.mxFinalize b

/-- The bytes of an evidence slot for a matrix event (Table 15.4): tile, scales, streamed rows, streamed scales. -/
def mxEvidence (kind : Nat) (r : Run) (b : Nat) (g : Group) (row col : Nat) : Evidence :=
  let stat := g.tile.elems.flatMap (packRow g.tile.format) ++ g.tile.scales.flatMap fun l => l.map (BitVec.ofNat 8)
  let strm := (g.rows.flatMap fun f => packRow (r.cmd.f 31 4 0) f.elems) ++
    g.rows.flatMap fun f => f.scales.map (BitVec.ofNat 8)
  { kind := kind, block := b, fret := 0, seq := r.cmd.seq, row := row, col := col, command := r.cmd.word,
    statBytes := stat.length, streamBytes := strm.length, data := stat ++ strm }

/-- Output rows of a drain-through stream with an output ring that peg F + 2 frees for writing (R108). -/
def ringRoom (s : State) (r : Run) : Nat :=
  let d := drainOf r.cmd
  (s.peg (r.cmd.f 36 15 0 + 2)).value.toNat + d.v / d.q r.nCols

/-- A stream waits for space in its output ring before it writes a row (R108). -/
def ringWaits (c : Cmd) : Bool := c.drainThrough && c.feedWait && (drainOf c).ring != 0

/-- The row of a passed group that is ready to commit waits for output-ring space (R108). -/
def ringBlocked (s : State) (b : Nat) : Bool :=
  match (s.block b).array.groups with
  | g :: _ =>
    match (s.mxRunning b).find? fun r => r.cmd.seq == g.seq with
    | some r => g.state == .passed && ringWaits r.cmd && decide (s.ringRoom r < g.first + g.done + 1)
    | none => false
  | [] => false

/-- The cycles a row takes (R94). -/
def rowCycles (t : Tile) : Nat := if fmtWidth t.format = 16 then 2 else 1

/-- A row read and multiplied, with the physical faults of the command.  It is read whole and checked against the values fed, so that of
the outcomes of R132 for a write that races with it only the first arises (DESIGN CHOICE, log 122).  With no column enabled no element and
no scale is read (R138). -/
def feedRow (s : State) (b : Nat) (r : Run) (t : Tile) (i : Nat) (errs : List ArrayError) : FedRow :=
  let f := r.cmd.f 31 4 0
  let scales := if isMx f ∧ t.nCols ≠ 0 then (s.rdBytes (storeBase b + streamScale r.cmd t.kRows i) t.segments).map (·.toNat) else []
  let xs := if t.nCols = 0 then [] else s.storeRow b (streamRow r.cmd t.kRows i) f t.kRows
  (passRow t f r.cmd.absent i xs scales).inject errs

/-- The first poisoned operand byte of a streamed row (R139). -/
def rowPoison (s : State) (b : Nat) (r : Run) (t : Tile) (i : Nat) : Option Nat :=
  let f := r.cmd.f 31 4 0
  if t.nCols = 0 then none
  else (s.storePoison b (streamRow r.cmd t.kRows i) (rowBytes f t.kRows)).orElse fun _ =>
    if isMx f then s.storePoison b (streamScale r.cmd t.kRows i) t.segments else none

/-- A row added to its check group; rows of a replay go to the group that is replayed. -/
def addRow (gs : List Group) (seq : Nat) (t : Tile) (i rows : Nat) (f : FedRow) : List Group :=
  if gs.any fun g => g.seq == seq && g.first == i / 64 * 64 then
    gs.map fun g => if g.seq = seq ∧ g.first = i / 64 * 64 then { g with rows := g.rows ++ [f] } else g
  else gs ++ [{ seq := seq, first := i / 64 * 64, size := min 64 (rows - i / 64 * 64), tile := t, rows := [f] }]

end State

/-- The tile of a parity error becomes INVALID: ACTIVE, or, where the array had swapped for a replay and now swaps back, the tile that
returns to SHADOW (R129, R133). -/
def Array.dropTile (a : Array) (t : Tile) : Array :=
  if a.active.id = t.id then { a with activeValid := false }
  else { a with shadowState := if a.shadowState = .ready then .empty else a.shadowState }

namespace State

/-- The feeders present row `i` of a stream against a tile (R91, R106, R133, R139).  A register with wrong parity among those the row
reads stops the stream with PARITY, whatever else befalls the row; a poisoned operand stops it with POISON, the lower code. -/
def mxFeed (s : State) (b : Nat) (r : Run) (t : Tile) (i : Nat) (replay : Bool) (errs : List ArrayError) : State :=
  let s := s.bump (MX_FEED_CYCLES b) (rowCycles t)
  let s := if replay then s.bump (MX_REPLAY_CYCLES b) (rowCycles t) else s
  let r := if replay then r else { r with fed := r.fed + 1 }
  let f := s.feedRow b r t i errs
  let s' := (s.updArray b fun a => { a with groups := addRow a.groups r.cmd.seq t i r.cmd.rows f }).mxPut b r
  let g := ((s'.block b).array.groups.find? fun g => g.seq == r.cmd.seq && g.first == i / 64 * 64).getD
    { seq := 0, first := 0, size := 0, tile := t }
  let first := i / 64 * 64
  let s1 := match s.rowPoison b r t i, t.badParity with
    | some off, _ => (s'.poisonLog b off).mxStop b r first stPOISON (w64 off)
    | none, some col => s'.mxStop b r first stPARITY (w64 i ||| fld col 32)
    | none, none => s'
  match t.badParity with
  | some col =>
    ((s1.bump (MX_PARITY_COUNT b) 1).updArray b fun a => a.dropTile t).tuningStart b 0 (mxEvidence 3 r b g i col)
  | none => s1

/-- The row that is due to be fed: of the group that is replayed, else the next of the stream that feeds; its stream, tile, number, and
whether it is replayed (R91, R129). -/
def dueRow (s : State) (b : Nat) : Option (Run × Tile × Nat × Bool) :=
  let a := (s.block b).array
  match a.groups.find? fun g => g.replay && g.state == .feeding && decide (g.rows.length < g.size) with
  | some g => ((s.mxRunning b).find? fun r => r.cmd.seq == g.seq).map fun r =>
      (r, if g.tile.id = a.inActive.id then a.inActive else g.tile, g.first + g.rows.length, true)
  | none => ((s.mxRunning b).find? fun r => r.cmd.opcode == 0x22 && r.stopping.isNone && decide (r.fed < r.cmd.rows)).map fun r =>
      (r, a.active, r.fed, false)

/-- A frozen cycle, counted under one of its two causes and, during a replay, as a cycle of it (R115, R140). -/
def mxFreeze (s : State) (b : Nat) (g : Reg) (replay : Bool) : State :=
  let s := s.bump g 1
  if replay then s.bump (MX_REPLAY_CYCLES b) 1 else s

/-- One feed cycle: a row is fed, or the array freezes (R91, R108, R114, R115, R129).  `granted` tells whether the block store has
granted the banks of the row's elements, `upset` names a register of the row's tile that an upset has hit. -/
def mxRowFeed (s : State) (b : Nat) (granted : Bool) (errs : List ArrayError) (upset : Option (Nat × Nat)) : State :=
  match s.dueRow b with
  | none => s
  | some (r, t0, i, replay) =>
    let s := match upset with
      | some (row, col) => s.updArray b fun a => a.upset t0.id row col
      | none => s
    let t := (s.block b).array.held t0
    let p := r.cmd.f 36 15 0
    if (!replay && i % 64 == 0 && decide (3 ≤ (s.block b).array.groups.length)) || s.ringBlocked b then
      s.mxFreeze b (MX_FREEZE_DRAIN b) replay
    else if (!granted && decide (0 < t.kRows) && decide (0 < t.nCols)) ||
        (r.cmd.feedWait && decide ((s.peg p).value.toNat < i + 1)) then s.mxFreeze b (MX_FREEZE_FEED b) replay
    else if r.cmd.feedWait && decide (r.feedTo < i + 1) then
      -- the watch on FEED_PEG has fired: an acquire at PACKAGE scope precedes the rows that it released (R228, R229)
      let (s1, narrow) := s.pegAcquire (blockAgent s.moduleId b) p 2
      if narrow then s1.mxStop b r (i / 64 * 64) stSCOPE_NARROW 0
      else s1.mxFeed b { r with feedTo := (s.peg p).value.toNat } t i replay errs
    else s.mxFeed b r t i replay errs

/-- The checks of the oldest complete group: it passes, is replayed once, or fails with BRIDGE (R112, R129, R130).  MX_BRIDGE_SKIP counts
the rows of the first pass only (DESIGN CHOICE, log 121). -/
def groupCheck (s : State) (b : Nat) : State :=
  let a := (s.block b).array
  match a.groups.find? fun g => g.state == .feeding && g.rows.length == g.size with
  | none => s
  | some g =>
    match (s.mxRunning b).find? fun r => r.cmd.seq == g.seq with
    | none => s
    | some r =>
      let (skipped, badRows, badCols) := groupVerdict g.tile (r.cmd.f 31 4 0) r.cmd.absent g.rows
      let put (s : State) (g' : Group) : State := s.updArray b fun a =>
        { a with groups := a.groups.map fun q => if q.seq = g.seq ∧ q.first = g.first then g' else q }
      let s := if g.replay then s else s.bump (MX_BRIDGE_SKIP b) skipped
      if badRows = [] ∧ badCols = [] then
        let s := if g.replay then s.bump (MX_BRIDGE_TRANSIENT b) 1 else s
        put s { g with state := .passed }
      else if !g.replay then
        let s := if g.tile.id = a.active.id then s else s.bump (MX_REPLAY_CYCLES b) 2
        put s { g with rows := [], replay := true }
      else
        let (row, col) := mismatchAt g.tile g badRows badCols
        let s := (s.mxStop b r g.first stBRIDGE (w64 row ||| fld col 32)).bump (MX_BRIDGE_FAIL b) 1
        s.tuningStart b 0 (mxEvidence 1 r b g row col)

/-- The next row of a passed group commits (R102, R108, R112, R113, R118). -/
def mxRowCommit (s : State) (b : Nat) : State :=
  match (s.block b).array.groups with
  | [] => s
  | g :: rest =>
    match (s.mxRunning b).find? fun r => r.cmd.seq == g.seq, g.rows[g.done]? with
    | some r, some f =>
      if g.state ≠ .passed ∨ s.ringBlocked b then s
      else
        let c := r.cmd
        let d := drainOf c
        -- rows beyond the ring's length wait for the watch on F + 2; each firing makes one acquire (R229)
        let wakes := ringWaits c && decide (max r.putTo (d.v / d.q r.nCols) < f.index + 1)
        let (s, narrow) := if wakes then s.pegAcquire (blockAgent s.moduleId b) (c.f 36 15 0 + 2) 2 else (s, false)
        let r := if wakes then { r with putTo := s.ringRoom r } else r
        if narrow then s.mxStop b r g.first stSCOPE_NARROW 0
        else
          let k := kindOfNum r.kind
          let slot := c.f 32 7 0 + f.index
          let e := (s.block b).array.entries.get {} slot
          let chain := c.accAdd && e.kind != .free
          let old (j : Nat) : Acc := if chain then e.col j else Acc.empty k
          let new := (List.range r.nCols).map fun j => addPass k r.kRows (c.f 34 15 0) c.indexed (old j) f j
          let entry : Entry := if c.drainThrough then {} else
            { kind := k, cols := new ++ if chain then e.cols.drop r.nCols else [] }
          let s := if c.drainThrough && !c.accAdd then s
            else s.updArray b fun a => { a with entries := a.entries.set slot entry }
          let s := if c.drainThrough then s.storeWrite b (d.offset r.nCols f.index) (drainRow d f.index k new) else s
          let last := g.done + 1 == g.size
          let r := { r with count := r.count + 1, inexact := r.inexact || (c.drainThrough && new.any (·.inexact)),
                            owed := if last && c.feedWait then r.owed ++ [g.size] else r.owed }
          let s := (s.mxPut b r).updArray b fun a =>
            { a with groups := if last then rest else { g with done := g.done + 1 } :: rest }
          s.mxFinalize b
    | _, _ => s

/-- The release-add of a committed group's row count to FEED_PEG + 1 at PACKAGE scope (R108). -/
def feedPegRelease (s : State) (b : Nat) : State :=
  match ((s.block b).engine 0).started.find? fun r => r.owed != [] with
  | some r =>
    let s1 := s.mxPut b { r with owed := r.owed.drop 1 }
    s1.signalPeg (blockAgent s.moduleId b) (r.cmd.f 36 15 0 + 1) 2 (w64 (r.owed.headD 0))
  | none => s

/-- A drain or a seed may start: no stream, seed or drain is still running (R135). -/
def mxIdle (s : State) (b : Nat) : Bool := (s.mxRunning b).all fun r => r.cmd.opcode == 0x20 || r.cmd.opcode == 0x21

/-- Entries drained one by one (R118 to R121). -/
def drainEntries (s : State) (b : Nat) (r : Run) : Nat → State × Run
  | 0 => (s, r)
  | n + 1 =>
    let c := r.cmd
    if c.f 18 15 0 ≤ r.count then (s, r)
    else
      let d := drainOf c
      let cols := c.f 20 15 0
      let slot := c.f 16 7 0 + r.count
      let e := (s.block b).array.entries.get {} slot
      let as_ := (List.range cols).map e.col
      let s := s.storeWrite b (d.offset cols r.count) (drainRow d r.count e.kind as_)
      let s := if c.f 17 0 0 = 1 then s else s.updArray b fun a => { a with entries := a.entries.set slot {} }
      drainEntries s b { r with count := r.count + 1, inexact := r.inexact || as_.any (·.inexact) } n

/-- Entries seeded one by one, stopping at the first whose records fail a check (R117).  A seed of both infinities with NAN clear stays so
until a segment is added (DESIGN CHOICE, log 118).  A poisoned record stops the entry with POISON before its records are checked
(DESIGN CHOICE, log 160). -/
def seedEntries (s : State) (b : Nat) (r : Run) : Nat → State × Run
  | 0 => (s, r)
  | n + 1 =>
    let c := r.cmd
    if c.f 24 15 0 ≤ r.count then (s, r)
    else
      let cols := c.f 26 15 0
      let slot := c.f 22 7 0 + r.count
      let off := c.f 16 31 0 + r.count * seedP c
      let raw := (List.range cols).map fun j => s.storeNat b (off + j * seedZ c) (seedZ c)
      let recs := raw.map Raw.decode
      let first := recs.headD (Raw.decode 0)
      let stop (st : Nat) (detail : W64) : State × Run := (s, { r with status := some st, detail := detail })
      let put (e : Entry) : State := s.updArray b fun a => { a with entries := a.entries.set slot e }
      match s.storePoison b off (cols * seedZ c) with
      | some p => (s.poisonLog b p, { r with status := some stPOISON, detail := w64 p })
      | none =>
        if cols = 0 then seedEntries (put {}) b { r with count := r.count + 1 } n
        else if c.f 23 7 0 = 1 then
          seedEntries (put { kind := .bf16, cols := raw.map fun w => ({ a := w } : Acc) }) b { r with count := r.count + 1 } n
        else if recs.any fun q => decide (65536 < q.acc.count) then
          -- RANGE is the lower of the codes that apply to the records of one entry (R13)
          stop stRANGE 0
        else if recs.any fun q => !q.valid || q.kind != first.kind || q.scaled != first.scaled then stop stFORMAT 0
        else seedEntries (put { kind := first.entryKind, cols := recs.map (·.acc) }) b { r with count := r.count + 1 } n

/-- The work of MX_DRAIN and MX_SEED on its entries, and the status once every entry is done. -/
def entriesStep (s : State) (b n op total : Nat) (r : Run) : State :=
  let (s, r) := if op = 0x23 then s.drainEntries b r n else s.seedEntries b r n
  s.mxPut b (if r.status.isNone ∧ r.count = total then
    { r with status := some (if op = 0x23 ∧ r.inexact then stINEXACT else stOK) } else r)

/-- MX_DRAIN and MX_SEED: taken once every earlier stream has committed, then `n` entries of work. -/
def mxEntries (s : State) (b n op : Nat) (check : Block → Cmd → Nat) (total : Cmd → Nat) : State :=
  match (s.mxRunning b).find? fun r => r.cmd.opcode == op with
  | some r => s.entriesStep b n op (total r.cmd) r
  | none =>
    match ((s.block b).engine 0).hw with
    | c :: _ =>
      if c.opcode = op ∧ s.mxCanTake b c ∧ s.mxIdle b then
        let s := s.takeHead b 0 c (check (s.block b) c)
        match s.lastRun b with
        | some r => s.entriesStep b n op (total r.cmd) r
        | none => s
      else s
    | [] => s

/-- MX_DRAIN. -/
def mxDrain (s : State) (b n : Nat) : State := s.mxEntries b n 0x23 checkDrain fun c => c.f 18 15 0

/-- MX_SEED. -/
def mxSeed (s : State) (b n : Nat) : State := s.mxEntries b n 0x24 checkSeed fun c => c.f 24 15 0

/-- MX_STATUS (Table 3.13).  SPARES_USED is fused: a free value of the chip (log 2); a repaired array behaves as an unrepaired one (R134).
MODE and FORMAT are those of the tile in ACTIVE, also while it is INVALID after a parity error (DESIGN CHOICE, log 123). -/
def mxStatus (s : State) (b : Nat) : W64 :=
  let a := (s.block b).array
  let sh := match a.shadowIs with | .empty => 0 | .loading => 1 | .ready => 2
  let streaming := (s.mxRunning b).any (·.cmd.opcode == 0x22)
  flag a.activeIsValid 0 ||| fld sh 1 ||| flag streaming 3 ||| flag (a.groups.any fun g => g.replay && g.state == .feeding) 4 |||
    fld a.inActive.mode 8 ||| fld a.inActive.format 11 ||| fld (Config.sparesUsed b) 16

end State

end Sys2Proof.Machine
end

