-- ==== Sys2Proof/Machine/BlockCtl.lean ====
section
/-!
DEFINITION. The commands that change the state of a compute block (R148, R184 to R190, Table 4.15), and its register page.
-/
namespace Sys2Proof.Machine
namespace State

/-- A sequencer's fetch at its pc (R147, R148, R293): from the own block store, or into its instruction cache, which is not coherent.
The model fetches where a sequencer starts; the instructions that follow are offered as commands. -/
def seqFetch (s : State) (b : Nat) : State :=
  let h := 144 + b
  let pc := (s.hart h).pc.toNat
  if pc < 0x200000 then
    match s.firstPoison (storeBase b + pc) 4 with
    | some a => s.hartPoison h 1 a pc
    | none => s
  else if pc < 0x1000000 then s.fault h 1 pc
  else match s.translateFor (s.reg (BLK_PASID b)).toNat pc { user := true, exec := true } with
    | none => s.fault h 1 pc
    | some (pa, t) => match s.reach pa with
      | .own (.hbm ..) a ap | .own (.lpd ..) a ap | .own (.t4 ..) a ap => s.fetchMem h a pc (!ap && t == .pma)
      | .badAperture | .own .reserved .. | .own (.peg ..) .. => s.fault h 1 pc
      | _ => s

/-- START (Table 4.15): the sequencer fetches from BLK_SEQ_ENTRY. -/
def blkStart (s : State) (ag : Agent) (b : Nat) : State :=
  if (s.block b).state = .halted then
    ((s.updBlock b fun x => { x with state := .running }).updHart (144 + b) fun x =>
      { x with pc := s.reg (BLK_SEQ_ENTRY b), wfi := false, wait := .none, inTrap := false }).seqFetch b
  else s.refuseBlock ag b 0x008 stSTATE

/-- HALT (Table 4.15): an instruction that has not retired completes first. -/
def blkHalt (s : State) (ag : Agent) (b : Nat) : State :=
  if (s.block b).state = .running then s.updBlock b fun x => { x with state := .halted } else s.refuseBlock ag b 0x008 stSTATE

/-- RESET (R185, Table 4.15). -/
def blkReset (s : State) (ag : Agent) (b : Nat) : State :=
  if (s.block b).state = .halted ∨ (s.block b).state = .running then s.resetBlock b stABORTED else s.refuseBlock ag b 0x008 stSTATE

/-- The release of a block reset, 256 cycles after every completion it owed (R148, R185). -/
def blockRelease (s : State) (b : Nat) : State :=
  if (s.block b).state = .reset ∧ s.drained b ∧ s.dieLive (b / 128) (b % 128 / 64) then s.releaseReset b else s

/-- A trap while the sequencer is already taking a trap (R146). -/
def doubleTrap (s : State) (b : Nat) : State :=
  if (s.block b).state = .running ∧ (s.hart (144 + b)).inTrap then s.seqHalt (144 + b) else s

/-- BLK_STATE (Table 4.16). -/
def blkState (s : State) (b : Nat) : W64 :=
  let x := s.block b
  fld (match x.state with | .reset => 0 | .halted => 1 | .running => 2 | .muted => 3) 0 ||| flag (s.hart (144 + b)).wfi 2 |||
    flag (x.tuning != []) 3 ||| flag x.seqFault 4 ||| fld x.muteCause 5 |||
    (List.range 5).foldl (fun v e => v ||| flag ((x.engine e).started != []) (8 + e)) 0

/-- BLK_Q_STATUS of engine `e` (Table 4.19). -/
def qStatus (s : State) (b e : Nat) : W64 :=
  let x := s.block b
  let g := x.engine e
  let waits := match g.hw with
    | c :: _ => c.wait != 0 && !c.waited
    | [] => false
  fld (g.hw.length + g.spill.length) 0 ||| fld g.spill.length 16 ||| flag (g.started != []) 32 ||| flag waits 33

/-- BLK_SUSPECT (Table 15.11): the events counted are those of the last 2^20 frets. -/
def blkSuspect (s : State) (b : Nat) : W64 :=
  let live := (s.block b).scores.filter fun f => decide (s.fret < f + 2 ^ 20)
  fld (s.score b) 0 ||| fld (live.headD 0 % 2 ^ 32) 32

/-- The configuration of a block may be written (R188). -/
def blkCfgOpen (s : State) (b : Nat) : Bool := (s.block b).state == .halted || (s.block b).state == .reset

/-- A write of BLK_CPL_CTRL (R163, R188). -/
def cplCtrlWrite (s : State) (ag : Agent) (b : Nat) (v : W64) : State :=
  let n := bits v 27 24
  if !s.blkCfgOpen b then s.refuseBlock ag b 0x020 stSTATE
  else if n < 4 ∨ 12 < n ∨ bits v 20 0 % (2 ^ n * 32) ≠ 0 then s.refuseBlock ag b 0x020 stRANGE
  else s.setReg (BLK_CPL_CTRL b) (v &&& 0x3F1FFFFF#64)

/-- A write of BLK_CPL_HEAD (R190). -/
def cplHeadWrite (s : State) (ag : Agent) (b : Nat) (v : W64) : State :=
  let head := bits v 31 0
  if s.cplSize b < ((s.reg (BLK_CPL_TAIL b)).toNat + 2 ^ 32 - head) % 2 ^ 32 then s.refuseBlock ag b 0x030 stRANGE
  else s.setReg (BLK_CPL_HEAD b) (w64 head)

/-- A write of BLK_TOKEN_ERR: a 1 in bit t clears the error mark of token t (R160). -/
def tokenErrClear (s : State) (b : Nat) (v : W64) : State :=
  s.updBlock b fun x => { x with marks := x.marks.filter fun m => !(decide (m.1 < 16) && bit v m.1) }

/-- The counters that BLK_COUNT_CLEAR zeroes (Table 4.20). -/
def blkCounters (b : Nat) : List Reg :=
  [BLK_BANK_WAIT_CYCLES b, BLK_CPL_STALL_CYCLES b, BLK_SPILL_PUSHES b, BLK_DC_MISSES b, BLK_DC_STREAM_LINES b,
   BLK_ECC_CORRECTED b, VE_RESIDUE_RETRY b, VE_RESIDUE_FAIL b]

/-- A write of 1 to a COUNT_CLEAR register zeroes its counters. -/
def countClear (s : State) (v : W64) (gs : List Reg) : State := if bit v 0 then s.zeroRegs gs else s

/-- A write of BLK_SEQ_CTRL: at most one of its bits may be set (R189). -/
def seqCtrlWrite (s : State) (ag : Agent) (b : Nat) (v : W64) : State :=
  if 1 < (bit v 0).toNat + (bit v 1).toNat + (bit v 2).toNat then s.refuseBlock ag b 0x008 stRANGE
  else if bit v 0 then s.blkStart ag b
  else if bit v 1 then s.blkHalt ag b
  else if bit v 2 then s.blkReset ag b
  else s

/-- A read of the page of block `b` at offset `o`. -/
def readBlk (s : State) (b o : Nat) : W64 :=
  if o = 0x000 then s.blkState b
  else if o = 0x008 ∨ o = 0x230 ∨ o = 0x848 then 0
  else if o = 0x038 then (s.block b).tokenErr
  else if 0x100 ≤ o ∧ o < 0x128 then s.qStatus b ((o - 0x100) / 8)
  else if o = 0x800 then s.mxStatus b
  else if o = 0xA00 then s.blkSuspect b
  else s.reg (blkReg b o)

/-- A write to the page of block `b` at offset `o`. -/
def writeBlk (s : State) (ag : Agent) (b o : Nat) (v : W64) : State :=
  if o = 0x000 then (if bit v 4 then s.updBlock b fun x => { x with seqFault := false } else s)
  else if o = 0x008 then s.seqCtrlWrite ag b v
  else if o = 0x010 then (if s.blkCfgOpen b then s.setReg (BLK_SEQ_ENTRY b) (v &&& ~~~3#64) else s.refuseBlock ag b 0x010 stSTATE)
  else if o = 0x018 then (if s.blkCfgOpen b then s.setReg (BLK_PASID b) (v &&& mask 19 0) else s.refuseBlock ag b 0x018 stSTATE)
  else if o = 0x020 then s.cplCtrlWrite ag b v
  else if o = 0x030 then s.cplHeadWrite ag b v
  else if o = 0x038 then s.tokenErrClear b v
  else if o = 0x080 then s.asyncClear (144 + b) v
  else if o = 0x230 then s.countClear v (blkCounters b)
  else if o = 0x848 then s.countClear v (mxCounters b)
  else s

end State
end Sys2Proof.Machine
end

