-- ==== Sys2Proof/Machine/Digest.lean ====
section
/-!
DEFINITION. The standard functions that the spec names: SHA-384 (FIPS 180-4, R439) and CRC-32C (R340).
-/
namespace Sys2Proof.Digest

/-- The first 80 primes. -/
def primes : List Nat := (List.range 410).filter fun n => decide (1 < n) && (List.range n).all fun d => decide (d < 2) || n % d != 0

/-- The greatest number below 2^b more than `r` whose `k`-th power is at most `n`. -/
def root (k n : Nat) : Nat → Nat → Nat
  | 0, r => r
  | b + 1, r => root k n b (if (r + 2 ^ b) ^ k ≤ n then r + 2 ^ b else r)

/-- The first 64 fractional bits of the `k`-th root of a prime (the roots lie below 32). -/
def rootFraction (k p : Nat) : W64 := BitVec.ofNat 64 (root k (p * 2 ^ (64 * k)) 69 0)

/-- The round constants of SHA-384: fractions of the cube roots of the first 80 primes. -/
def roundConstants : List W64 := primes.map (rootFraction 3)

/-- The initial hash value of SHA-384: fractions of the square roots of the ninth to the sixteenth prime. -/
def init384 : List W64 := ((primes.drop 8).take 8).map (rootFraction 2)

/-- A big-endian word of 8 bytes. -/
def beWord (bs : List Byte) : W64 := bs.foldl (fun v b => (v <<< 8) ||| b.setWidth 64) 0

/-- The 8 bytes of a word, most significant first. -/
def wordBytes (w : W64) : List Byte := (List.range 8).map fun i => (w >>> (56 - 8 * i)).setWidth 8

/-- The message schedule: 16 words extended, newest first. -/
def extend : Nat → List W64 → List W64
  | 0, ws => ws
  | n + 1, ws =>
    let a := ws.getD 1 0
    let b := ws.getD 14 0
    let s1 := a.rotateRight 19 ^^^ a.rotateRight 61 ^^^ (a >>> 6)
    let s0 := b.rotateRight 1 ^^^ b.rotateRight 8 ^^^ (b >>> 7)
    extend n ((s1 + ws.getD 6 0 + s0 + ws.getD 15 0) :: ws)

/-- One round on the working variables a to h. -/
def round (v : List W64) (k w : W64) : List W64 :=
  match v with
  | [a, b, c, d, e, f, g, h] =>
    let t1 := h + (e.rotateRight 14 ^^^ e.rotateRight 18 ^^^ e.rotateRight 41) + ((e &&& f) ^^^ (~~~e &&& g)) + k + w
    let t2 := (a.rotateRight 28 ^^^ a.rotateRight 34 ^^^ a.rotateRight 39) + ((a &&& b) ^^^ (a &&& c) ^^^ (b &&& c))
    [t1 + t2, a, b, c, d + t1, e, f, g]
  | _ => v

/-- One 128-byte block. -/
def block (h : List W64) (bs : List Byte) : List W64 :=
  let ws := (List.range 16).map fun i => beWord ((bs.drop (8 * i)).take 8)
  let all := (extend 64 ws.reverse).reverse
  let v := (roundConstants.zip all).foldl (fun v (k, w) => round v k w) h
  (h.zip v).map fun (x, y) => x + y

/-- Blocks of a padded message. -/
def blocks : Nat → List W64 → List Byte → List W64
  | 0, h, _ => h
  | n + 1, h, bs => blocks n (block h (bs.take 128)) (bs.drop 128)

/-- SHA-384, in the byte order of FIPS 180-4. -/
def sha384 (m : List Byte) : List Byte :=
  let zeros := (128 - (m.length + 17) % 128) % 128
  let padded := m ++ [0x80] ++ List.replicate (zeros + 8) 0 ++ wordBytes (BitVec.ofNat 64 (8 * m.length))
  ((blocks (padded.length / 128) init384 padded).take 6).flatMap wordBytes

/-- One bit of the reflected CRC-32C. -/
def crcBit (c : BitVec 32) : BitVec 32 := if c.getLsbD 0 then (c >>> 1) ^^^ 0x82F63B78#32 else c >>> 1

/-- CRC-32C: polynomial 0x1EDC_6F41 reflected, initial value and final XOR all ones (R340). -/
def crc32c (m : List Byte) : BitVec 32 :=
  ~~~(m.foldl (fun c b => (List.range 8).foldl (fun c _ => crcBit c) (c ^^^ b.setWidth 32)) (BitVec.allOnes 32))

end Sys2Proof.Digest
end

