-- ==== Sys2Proof/Machine/PegCmds.lean ====
section
/-!
DEFINITION. Deliveries of watches, events and peg results to the agents (chapter 6).
-/
namespace Sys2Proof.Machine
namespace State

/-- Event queues are numbered as arm windows: harts 0 to 655, function `f` of host port `r` at 1000 + 16 r + f. -/
def fnQueue (r f : Nat) : Nat := 1000 + 16 * r + f

/-- A value that an operation returns to its agent: the destination register of a hart. -/
def deliver (s : State) (a : Agent) (v : W64) : State :=
  match a.hart with
  | some h => s.updHart h fun x => { x with result := v }
  | none => s

/-- The queue that a fired watch of KIND 0 or 1 delivers to. -/
def eventTarget (w : Watch) : Nat :=
  if w.kind = 0 then 144 + w.target.toNat
  else if hostArmed w then fnQueue (w.armer / 2048 % 4) (w.armer % 512)
  else w.target.toNat % 256

/-- An event enters a queue (R236, R407): an external interrupt of a core is pending, a hart in WFI resumes, a host function has its
message. -/
def admitEvent (s : State) (q : Nat) (e : QEvent) : State :=
  let s : State := { s with eventQ := s.eventQ.set q (s.eventQ.get [] q ++ [e.word]) }
  if 1000 ≤ q then { s with outbox := s.outbox ++ [.msix ((q - 1000) / 16) ((q - 1000) % 16) (e.code % 2048)] }
  else
    let x := (e.code.testBit 8, e.code / 512)
    let s := if q < 144 ∧ x.2 ≠ 0 ∧ !(s.hart q).eiids.contains x then s.updHart q fun h => { h with eiids := h.eiids ++ [x] } else s
    s.wake q

/-- An event enters a queue, or waits at its home while the queue is full or earlier events for it wait (R237). -/
def enterEvent (s : State) (home q : Nat) (e : QEvent) : State :=
  if s.heldEvents.any (·.2.1 == q) || decide (64 ≤ (s.eventQ.get [] q).length) then
    ({ s with heldEvents := s.heldEvents ++ [(home, q, e)] } : State).bump (WATCH_EVENT_HELD home) 1
  else s.admitEvent q e

/-- A peg home is lost (R239, R240): every hart that HOMES names receives one event with REASON 2, which waits at the hart's own
region if its queue is full, and the watches and undelivered events held there go. -/
def dropHome (s : State) (r : Nat) : State :=
  let hit := (List.range 656).filter fun h => (s.homesOf h).contains r
  let s : State :=
    { s with watches := s.watches.filter fun x => x.1.home != r, fired := s.fired.filter fun x => x.1 != r,
             heldEvents := s.heldEvents.filter fun x => x.1 != r }
  hit.foldl (fun s h => s.enterEvent (hartRegion h) h { word := eventWord (r * 0x10000) 2 }) s

/-- A refused or faulted KIND 2 write (R236, Table 15.13 cause 13). -/
def kind2Refused (s : State) (r st : Nat) (x : Fired) : State :=
  s.log r st 13 x.watch.armer x.watch.target.toNat (w64 x.handle)

/-- The KIND 2 write of a fired watch; none while the line is deferred (R236, R407). -/
def kind2Write (s : State) (r : Nat) (x : Fired) : Option State :=
  let v := if x.reason = 0 then x.watch.value else ~~~x.watch.value
  let t := x.watch.target.toNat
  let ag := agentOfCode s.moduleId x.watch.armer
  let post (d : OutDest) (a : Nat) : State :=
    let o : Origin := if hostArmed x.watch then .hostWatch (x.watch.armer / 2048 % 4) (x.watch.armer % 512) else .watch r
    let q : OutReq := { tag := 0, origin := o, dest := d, op := 2, addr := a, len := 8, data := leBytes 8 v.toNat }
    if s.destReachable d q.origin then s.issue q else s.logLost r q q.origin (lostStatus d)
  if hostArmed x.watch then some (post (.host (x.watch.armer / 2048 % 4)) t)
  else if s.translateHeld x.watch.pasid t then none
  else
    match s.translate x.watch.pasid t true with
    | none => some (s.kind2Refused r stXLATE x)
    | some (pa, _) =>
      match s.reach pa with
      | .badAperture => some ((s.kind2Refused r stRANGE x).fabLogAdd r stRANGE 4 0 0 0)
      | .remote m a =>
        match placeRaw a with
        | .peg .. | .mmio _ | .reserved => some (s.kind2Refused r stRANGE x)
        | _ => some (post (.module m) a)
      | .own (.t5 p off) _ _ => some (post (.host p) off)
      | .own (.store b off) _ _ => some (s.wrNat (storeBase b + off) 8 v.toNat)
      | .own (.hbm ..) a _ | .own (.lpd ..) a _ | .own (.t4 ..) a _ =>
        if s.lineWaits (a / 128) true then none
        else
          let (s, lost) := s.writeBytes ag a (leBytes 8 v.toNat)
          some (if lost.isNone then s.t4Write (.watch r) a (leBytes 8 v.toNat) none 0 else s)
      | .own .. => some (s.kind2Refused r stRANGE x)

/-- The queue that an undelivered watch waits for. -/
def queueOf (x : Fired) : Option Nat := if x.watch.kind = 2 then none else some (eventTarget x.watch)

/-- The oldest fired or expired watch of a home that no older one of another home for the same queue comes before (R237). -/
def nextFired (r : Nat) : List (Nat × Fired) → List Nat → Option (Nat × Fired)
  | [], _ => none
  | x :: xs, seen =>
    match queueOf x.2 with
    | some q => if x.1 = r ∧ !seen.contains q then some x else nextFired r xs (q :: seen)
    | none => if x.1 = r then some x else nextFired r xs seen

/-- The delivery of the oldest fired or expired watch of a home that may be delivered (R236). -/
def watchDeliver (s : State) (r : Nat) : State :=
  match nextFired r s.fired [] with
  | some (h, x) =>
    let s1 : State := { s with fired := s.fired.erase (h, x) }
    if x.watch.kind = 2 then (s1.kind2Write r x).getD s
    else s1.enterEvent r (eventTarget x.watch)
      { word := eventWord x.handle x.reason, code := if x.watch.kind = 1 then x.watch.target.toNat else 0 }
  | none => s

/-- The expiry of a watch whose t-th mark has passed (R235). -/
def watchExpire (s : State) (r key : Nat) : State :=
  let k := (keyOfHandle key).1
  match s.watches.find k with
  | some w => if k.home = r ∧ w.due then s.releaseWatch k w 1 else s
  | none => s

/-- The first event that its home holds, that is the oldest held one for its queue, and whose queue has space (R237). -/
def eventAdmit (s : State) (r : Nat) : State :=
  let first (x : Nat × Nat × QEvent) : Bool := match s.heldEvents.find? fun y => y.2.1 == x.2.1 with | some y => y == x | none => false
  match s.heldEvents.find? fun x => x.1 == r && first x && decide ((s.eventQ.get [] x.2.1).length < 64) with
  | some (h, q, e) => ({ s with heldEvents := s.heldEvents.erase (h, q, e) } : State).admitEvent q e
  | none => s

/-- The arm window of an agent. -/
def windowOf (a : Agent) : Option Nat :=
  match a.hart with
  | some h => some h
  | none => if a.own ∧ a.kind = .external then some (fnQueue a.region a.index) else none

/-- A load of EVENT: removes and returns the oldest event of a window (Table 6.5). No external interrupt of a core is pending once its
queue is empty (R236). -/
def eventRead (s : State) (i : Nat) : State × W64 :=
  match s.eventQ.get [] i with
  | e :: rest =>
    let s : State := { s with eventQ := s.eventQ.set i rest }
    (if rest = [] ∧ i < 144 then s.updHart i fun x => { x with eiids := [] } else s, e)
  | [] => (s, 0)

/-- A load of an arm window's word (Table 6.5). -/
def armLoad (s : State) (i off : Nat) : State × W64 :=
  match off with
  | 0x00 => (s, (s.arm i).result)
  | 0x20 => (s, (s.arm i).cancel)
  | 0x28 => s.eventRead i
  | _ => (s, 0)

/-- A store to an arm window's word (Table 6.5). -/
def armStore (s : State) (i armer off : Nat) (v : W64) : State :=
  match off with
  | 0x00 => s.setArm i { s.arm i with w0 := v }
  | 0x08 => s.setArm i { s.arm i with w1 := v }
  | 0x10 => s.setArm i { s.arm i with w2 := v }
  | 0x18 => s.armPush i armer v
  | 0x20 => s.watchCancel i v
  | _ => s

/-- WATCH_ARM, WATCH_CANCEL and WATCH_EVENT_READ: a store to VALUE or CANCEL, or a load of EVENT, in the agent's own arm window
(R230). -/
def watchArm (s : State) (a : Agent) (v : W64) : State :=
  match windowOf a with
  | some i => s.armPush i a.code v
  | none => s

def watchCancelBy (s : State) (a : Agent) (v : W64) : State :=
  match windowOf a with
  | some i => s.watchCancel i v
  | none => s

def watchEventRead (s : State) (a : Agent) : State :=
  match windowOf a with
  | some i =>
    let (s, e) := s.eventRead i
    s.deliver a e
  | none => s

/-- A release by a hart waits until everything before it is performed: held stores, the write-combining buffer and, at
FABRIC scope, the acknowledgements of its posted writes and of those that its acquires made visible to it (R224, R251). -/
def releaseReady (s : State) (h sc : Nat) : Bool :=
  (s.hart h).stores == [] && (s.hart h).combine.isNone && s.wcDrained h &&
    (sc != 3 || (!s.unacked h && !((s.carried.get [] h).any s.awaited)))

/-- The stores, streamed lines and write-combined entries that a release or fence must wait for are sent on their way. -/
def pushOut (s : State) (h : Nat) : State :=
  let s := (s.drainStores h (s.hart h).stores.length).wcFlush h fun _ => true
  s.writeCombine h

/-- A load of a view of a peg at a live home: the state, the value, and whether strict scope mode refuses it. -/
def pegLoad (s : State) (a : Agent) (p off : Nat) : State × W64 × Bool :=
  if 0x10 ≤ off ∧ off ≤ 0x28 then
    let (s', bad) := s.pegAcquire a p ((off - 0x10) / 8)
    (s', (s.peg p).value, bad)
  else if off = 0x38 then (s, s.pegStatus p, false)
  else (s, (s.peg p).value, false)

/-- A store to a view of a peg (Table 6.1). -/
def pegStore (s : State) (a : Agent) (p off : Nat) (v : W64) : State :=
  match off with
  | 0x00 => s.pegSet a p v
  | 0x08 => s.pegAdd a p v
  | 0x30 => s.pegCasExpect a p v
  | 0x38 => s.pegStatusClear a p v
  | _ => s.pegRelAdd a p ((off - 0x10) / 8) v

end State
end Sys2Proof.Machine
end

