-- ==== Sys2Proof/Machine/EngMem.lean ====
section
/-!
DEFINITION. The memory accesses of engines through the IOMMU: own memory, block stores, other modules and the external host
(R174, R200, R206, R221, R258, R356).
-/
namespace Sys2Proof.Machine

/-- A piece of an access within one page: I/O virtual address, 56-bit physical address, bytes. -/
structure Piece where
  va : Nat
  pa : Nat
  n : Nat
  deriving DecidableEq, Repr

/-- Where the bytes of an access lie, or the first address that does not translate. -/
inductive Pieces where
  | ok (ps : List Piece)
  | fault (va : Nat)
  deriving DecidableEq, Repr

/-- The result of an engine's read. -/
inductive EngRead where
  | data (s : State) (bs : List Byte)
  /-- The first poisoned byte: its I/O virtual address and offset, and the bytes read. -/
  | poison (s : State) (va off : Nat) (bs : List Byte)
  | fault (s : State) (st va : Nat)
  | wait (s : State)
  deriving DecidableEq, Repr

/-- The result of an engine's write: the first piece that a home discarded, its status and offset. -/
inductive EngWrite where
  | done (s : State) (lost : Option (Nat × Nat))
  | fault (s : State) (st va : Nat)
  | wait (s : State)
  deriving DecidableEq, Repr

namespace State

/-- The pages of an access translated under a process ID. -/
def piecesFrom (s : State) (pasid : Nat) (write : Bool) : Nat → Nat → Nat → List Piece → Pieces
  | 0, _, _, acc => .ok acc
  | fuel + 1, va, n, acc =>
    if n = 0 then .ok acc
    else
      let k := min n (4096 - va % 4096)
      match s.translate pasid va write with
      | some (pa, _) => piecesFrom s pasid write fuel (va + k) (n - k) (acc ++ [⟨va, pa, k⟩])
      | none => .fault va

def pieces (s : State) (pasid va n : Nat) (write : Bool) : Pieces := s.piecesFrom pasid write (n / 4096 + 2) va n []

/-- The translation of some page of an access must wait (R305, R316). -/
def piecesHeld (s : State) (pasid va n : Nat) : Bool :=
  (s.iommuRoots.find pasid).isSome &&
    (List.range ((va + n - 1) / 4096 - va / 4096 + 1)).any fun i => s.translateHeld pasid ((va / 4096 + i) * 4096)

/-- The outside destination of a piece, if it has one. -/
def outsideOf (s : State) (p : Piece) : Option (OutDest × Nat) :=
  match s.reach p.pa with
  | .remote m a => some (.module m, a)
  | .own (.t5 q off) _ _ => some (.host q, off)
  | _ => none

/-- Why an engine cannot access a piece: RANGE for reserved ranges, peg space and MMIO, PEER_LOST for a dead target. -/
def pieceStatus (s : State) (o : Origin) (p : Piece) : Nat :=
  match s.reach p.pa with
  | .badAperture => stRANGE
  | .remote m _ => if s.destReachable (.module m) o then stOK else stPEER_LOST
  | .own pl _ _ =>
    match pl with
    | .hbm .. | .lpd .. => stOK
    | .t4 q off => if s.t4Reachable q off then stOK else stPEER_LOST
    | .t5 q _ => if s.destReachable (.host q) o then stOK else stHOST_LOST
    | .store b _ => if s.dieLive (b / 128) (b % 128 / 64) then stOK else stPEER_LOST
    | _ => stRANGE

/-- The first piece that cannot be accessed. -/
def badPiece (s : State) (o : Origin) (ps : List Piece) : Option (Nat × Piece) :=
  (ps.find? fun p => s.pieceStatus o p != stOK).map fun p => (s.pieceStatus o p, p)

/-- A refused piece is recorded where the spec says so: an aperture fault, an access to a dead target (R356, R272). -/
def logPiece (s : State) (ag : Agent) (o : Origin) (write : Bool) (p : Piece) : State :=
  match s.reach p.pa with
  | .badAperture => s.fabLogAdd ag.region stRANGE 4 0 0 0
  | .remote m a =>
    let q : OutReq := { tag := 0, origin := o, dest := .module m, op := if write then 2 else 1, addr := a }
    s.logLost ag.region q o stPEER_LOST
  | .own (.t5 h off) _ _ =>
    let q : OutReq := { tag := 0, origin := o, dest := .host h, op := if write then 2 else 1, addr := off }
    s.logLost ag.region q o stHOST_LOST
  | .own (.t4 h _) a _ => s.hostLogAdd h stPEER_LOST (if write then 1 else 2) 0 0 a
  | _ => s

/-- Some line of the own module that the pieces touch must wait (R256, R289, R321). -/
def piecesWait (s : State) (ps : List Piece) (fill : Bool) : Bool :=
  ps.any fun p => match s.reach p.pa with
    | .own (.hbm ..) a _ | .own (.lpd ..) a _ | .own (.t4 ..) a _ => (linesOf a p.n).any fun n => s.lineWaits n fill
    | _ => false

/-- One piece read here, through the read cache of block `cb` where one is named: the bytes and the offset of its first poisoned
byte. -/
def readPiece (s : State) (ag : Agent) (cb : Option Nat) (p : Piece) : State × List Byte × Option Nat :=
  match s.reach p.pa with
  | .own (.store b off) _ _ =>
    let a := storeBase b + off
    (s, s.rdBytes a p.n, (s.firstPoison a p.n).map (· - a))
  | .own _ a _ =>
    let (s, bs, bad) := match cb with
      | some b => s.readWith (fun s line => s.gsReadLine b ag line) a p.n
      | none => s.readBytes ag a p.n
    (s, bs, bad.map (· - a))
  | _ => (s, [], none)

/-- The physical address of a piece, for the log of a consumption. -/
def pieceAddr (s : State) (p : Piece) : Nat :=
  match s.reach p.pa with
  | .own (.store b off) _ _ => storeBase b + off
  | .own _ a _ => a
  | _ => p.pa

def answersOf (s : State) (o : Origin) : List Answer := s.answers.filter (·.origin == o)
def dropAnswers (s : State) (o : Origin) : State := { s with answers := s.answers.filter (·.origin != o) }

/-- All pieces read in order, outside ones from the answers that have arrived. -/
def readPieces (s : State) (ag : Agent) (cb : Option Nat) : List Piece → List Answer → List Byte → EngRead
  | [], _, acc => .data s acc
  | p :: ps, as, acc =>
    match s.outsideOf p with
    | some _ =>
      match as with
      | a :: rest => if a.status = stPOISON then .poison s p.va acc.length acc else readPieces s ag cb ps rest (acc ++ a.data)
      | [] => .wait s
    | none =>
      let (s', bs, bad) := s.readPiece ag cb p
      match bad with
      | some k =>
        .poison (s'.log ag.region stPOISON 2 ag.code ((s'.pieceAddr p + k) / 8 * 8) 0) (p.va + k) (acc.length + k) (acc ++ bs)
      | none => readPieces s' ag cb ps as (acc ++ bs)

/-- A read by an engine: requests to the outside are sent first and answered before the read is made. -/
def engRead (s : State) (ag : Agent) (o : Origin) (cb : Option Nat) (pasid va n : Nat) : EngRead :=
  if s.piecesHeld pasid va n then .wait s
  else match s.pieces pasid va n false with
  | .fault a => .fault s stXLATE a
  | .ok ps =>
    match s.badPiece o ps with
    | some (st, p) => .fault (s.logPiece ag o false p) st p.va
    | none =>
      let ext := ps.filterMap s.outsideOf
      let as := s.answersOf o
      if s.piecesWait ps false || s.out.any (fun q => q.origin == o && !q.posted) then .wait s
      else if ext ≠ [] ∧ as = [] then
        .wait ((ps.filter fun p => (s.outsideOf p).isSome).foldl (fun s p => match s.outsideOf p with
          | some (d, a) => s.issue { tag := 0, origin := o, dest := d, op := 1, addr := a, len := p.n }
          | none => s) s)
      else
        match as.find? fun a => a.status != stOK && a.status != stPOISON with
        | some a => .fault (s.dropAnswers o) a.status va
        | none => (s.dropAnswers o).readPieces ag cb ps as []

/-- A write of bytes by an engine, posted where it leaves the module. `at_` gives the origin of the byte at an offset; the requests
carry `row`, by which a discard names the work that is lost. -/
def engWrite (s : State) (ag : Agent) (at_ : Nat → Origin) (row pasid va : Nat) (bs : List Byte) : EngWrite :=
  if s.piecesHeld pasid va bs.length then .wait s
  else match s.pieces pasid va bs.length true with
  | .fault a => .fault s stXLATE a
  | .ok ps =>
    match s.badPiece (at_ 0) ps with
    | some (st, p) => .fault (s.logPiece ag (at_ 0) true p) st p.va
    | none =>
      if s.piecesWait ps true then .wait s
      else
        let (s, lost) := ps.foldl (fun (s, lost) p =>
          let part := (bs.drop (p.va - va)).take p.n
          match s.reach p.pa with
          | .own (.store b off) _ _ => (s.wrBytes (storeBase b + off) part, lost)
          | .own (.t5 h off) _ _ =>
            (s.issue { tag := 0, origin := at_ (p.va - va), dest := .host h, op := 2, addr := off, len := p.n, data := part, va := row }, lost)
          | .remote m a =>
            (s.issue { tag := 0, origin := at_ (p.va - va), dest := .module m, op := 2, addr := a, len := p.n, data := part, va := row }, lost)
          | .own _ a _ =>
            let (s, e) := s.writeBytes ag a part
            (if e.isNone then s.t4Write (at_ (p.va - va)) a part none row else s, lost <|> e.map fun (st, x) => (st, p.va - va + (x - a)))
          | .badAperture => (s, lost)) (s, none)
        .done s lost

end State
end Sys2Proof.Machine
end

