-- ==== Sys2Proof/Machine/Chaind.lean ====
section
/-!
DEFINITION. Chaind ports, discovery and the fabric map (chapter 10).
-/
namespace Sys2Proof.Machine

/-- A leader key beats another (R349). -/
def keyBeats (a b : LeaderKey) : Bool := decide (a.cls < b.cls) || (a.cls == b.cls && decide (a.serial < b.serial))

/-- STATE code of Table 10.12. -/
def PortState.code : PortState → Nat
  | .disabled => 0
  | .training => 1
  | .identify => 2
  | .active => 3
  | .held => 4
  | .failed => 5

/-- Width code of good-lane counts in both directions (R337): 0 none, 1 x2, 2 x4, 3 x8. -/
def widthOf (tx rx : Nat) : Nat :=
  let ones (m : Nat) : Nat := ((List.range 8).filter fun i => m.testBit i).length
  let n := min (ones tx) (ones rx)
  if 8 ≤ n then 3 else if 4 ≤ n then 2 else if 2 ≤ n then 1 else 0

/-- The fields of a HELLO that the checks of Table 10.6 read. -/
def checkedFields (h : Hello) : Nat × Nat × Nat × Option (List Nat) × W64 × Bool × Bool :=
  (h.serial, h.period, h.planDigest, h.coord, h.fabricId, h.settled, h.lone)

/-- Bytes 0 to 251 of a flit (Table 10.2). -/
def flitBytes (f : Flit) : List Byte :=
  let head := f.type % 16 + (f.vc % 8) * 16 + (if f.sop then 128 else 0)
  let ack := match f.ack with
    | some a => a % 4096 + 2 ^ 15
    | none => 0
  leBytes 2 head ++ leBytes 2 (f.seq % 4096) ++ leBytes 2 ack ++ leBytes 2 (f.creditVc % 8 + (f.credits % 256) * 8) ++
    (f.payload ++ List.replicate (244 - f.payload.length) 0).take 244

/-- The flit's CRC is good: CRC-32C over bytes 0 to 251 (R340). -/
def flitCrcOk (f : Flit) : Bool := Digest.crc32c (flitBytes f) == f.crc

namespace State

/-- The plan names a torus. -/
def hasPlan (s : State) : Bool := !s.fab.torus.all (· == 0)

/-- The leader key of this module (R349). -/
def ownKey (s : State) : LeaderKey := { cls := if s.fab.origin then 0 else 1, serial := s.fab.serial }

/-- A change of the fabric state. -/
def updFab (s : State) (f : Fab → Fab) : State := { s with fab := f s.fab }

/-- The HELLO of port `k` (Table 10.5). -/
def helloOf (s : State) (k : Nat) : Hello :=
  { serial := s.fab.serial, port := k, period := s.period, planDigest := s.fab.digest, coord := s.fab.coord,
    fabricId := s.fab.fabricId, settled := s.fab.settled, lone := s.fab.lone, module := s.moduleId, best := s.fab.best,
    hops := s.fab.hops }

/-- HELLOs go out on every port that has completed training, where a field has changed since the last one (R347). -/
def sendHellos (s : State) : State :=
  (List.range 16).foldl (fun s k =>
    let st := (s.port k).state
    if (st = .identify ∨ st = .active ∨ st = .held) ∧ (s.port k).sent ≠ some (s.helloOf k) then
      (s.updPort k fun x => { x with sent := some (s.helloOf k) }).sendCtl k (.hello k (s.helloOf k))
    else s) s

/-- The ports in ACTIVE. -/
def activePorts (s : State) : List Nat := (List.range 16).filter fun k => (s.port k).state == .active

/-- A report of this module: its coordinates and each port's state, width and peer (Table 10.5). -/
def ownReport (s : State) : Report :=
  { serial := s.fab.serial, coord := s.fab.coord,
    links := (List.range 16).map fun k =>
      let x := s.port k
      { port := k, up := x.state == .active, width := x.width, peerSerial := x.peerSerial, peerPort := x.peerPort, state := x.state.code } }

/-! ### Port states (Table 10.8) -/

/-- An action that Table 10.8 does not allow. -/
def refusePort (s : State) (a : Agent) (k : Nat) : State :=
  s.log (k / 4) stSTATE 1 a.code (FAB_PORT_CTRL k % 0x100000000) 0

/-- Traffic waiting at a port that is not ACTIVE (R365): adaptive packets take other allowed ports, escape packets another live
port of the bundle; other escape packets wait. With `anew` every packet is routed afresh under the current generation. -/
def moveTraffic (s : State) (k : Nat) (anew : Bool) : State :=
  let q := (s.port k).txq
  let s := s.updPort k fun x => { x with txq := [] }
  q.foldl (fun s i =>
    let keep : State := s.updPort k fun x => { x with txq := x.txq ++ [i] }
    match i.msg with
    | .packet _ _ p =>
      let p0 : Packet := { p with hops := p.hops - 1, rgen := if anew then s.fab.rgen else p.rgen }
      if anew || i.vc == 1 || i.vc == 4 then (s.forward p0 none).getD keep
      else
        match s.routesFor p.rgen with
        | some g =>
          let bundle := maskPorts (g.portsTo s.moduleId (s.port k).peerModule)
          let k' := if p.ordered then s.orderedPort bundle p.src p.dest else bundle.find? s.portLive
          match k' with
          | some j => s.sendItem j { i with msg := .packet j i.vc p }
          | none => keep
        | none => keep
    -- a port that is HELD or identifies its peer goes on with its CTL traffic (R348)
    | _ => if i.vc = 0 ∧ ((s.port k).state = .held ∨ (s.port k).state = .identify) then keep else s) s

/-- A port leaves ACTIVE: DOWN_EVENTS counts it, the log records it, its traffic moves (R365, Table 10.8). -/
def leaveActive (s : State) (k : Nat) (cause : Nat) (next : PortState) : State :=
  let m := (s.port k).peerModule
  let s := (s.updPort k fun x => { x with state := next }).bump (FAB_PORT_DOWN_EVENTS k) 1
  (s.fabLogAdd (k / 4) (Config.fabLogStatus cause) cause (k % 4) m 0).moveTraffic k false

/-- The unacknowledged flits of a port are discarded and its sequence numbers start anew (R342, R367). -/
def dropLink (s : State) (k : Nat) : State :=
  s.updPort k fun x =>
    { x with replay := [], nextSeq := 0, used := [], usedShared := 0, expect := 0, retrying := none, asks := 0, asked := none, held := [],
             timeWait := none }

/-- A port starts training (R337). -/
def startTraining (s : State) (k : Nat) : State :=
  s.updPort k fun x =>
    { x with state := .training, heldCause := 0, width := 0, attempts := 0, hello := none, sent := none, asks := 0, asked := none }

/-- ENABLE is set (Table 10.8). -/
def portEnable (s : State) (k : Nat) : State :=
  if (s.port k).state = .disabled then (s.updPort k fun x => { x with enabled := true }).startTraining k else s

/-- ENABLE is cleared (Table 10.8): as a link failure, with no retraining. -/
def portDisable (s : State) (k : Nat) : State :=
  let s := s.updPort k fun x => { x with enabled := false }
  match (s.port k).state with
  | .disabled => s
  | .active => ((s.leaveActive k 6 .disabled).dropLink k).updPort k fun x => { x with heldCause := 0, width := 0, hello := none, sent := none }
  | _ => (s.dropLink k).updPort k fun x => { x with state := .disabled, heldCause := 0, width := 0, hello := none, sent := none }

/-- RETRAIN (Table 10.8). -/
def retrainPort (s : State) (a : Agent) (k : Nat) : State :=
  match (s.port k).state with
  | .active => (s.leaveActive k 6 .training).startTraining k
  | .held | .failed => s.startTraining k
  | _ => s.refusePort a k

/-- A link failure is declared (R342). -/
def linkFailure (s : State) (k : Nat) : State :=
  if (s.port k).state = .active then (s.leaveActive k 6 .training).startTraining k else s

/-- Every flit from a sequence number on is sent again (R341). -/
def resendFrom (s : State) (k seq : Nat) : State :=
  let again := (s.port k).replay.dropWhile (·.1 != seq)
  (again.foldl (fun s x => s.emit (.resend k x.1)) s).bump (FAB_PORT_FLITS_TX k) again.length

/-- A training attempt ends (R336 to R338, R342, R367). `peer` is the serial number and port that the retrained link reports,
`missing` the first SEQ that the peer misses. -/
def attemptEnd (s : State) (k tx rx : Nat) (rev : Bool) (inv : Nat) (peer : Option (Nat × Nat)) (missing : Nat) : State :=
  let x := s.port k
  if x.state ≠ .training then s
  else
    let w := widthOf tx rx
    let s := s.updPort k fun x => { x with txGood := tx % 256, rxGood := rx % 256, reversed := rev, inverted := inv % 256 }
    if w = 0 then
      if 2 ≤ x.attempts then (s.dropLink k).updPort k fun x => { x with state := .failed, attempts := 0, width := 0 }
      else s.updPort k fun x => { x with attempts := x.attempts + 1 }
    else
      let same := peer == some (x.peerSerial, x.peerPort) && x.peerSerial != 0
      let s := if same then
          let s := s.updPort k fun x =>
            { x with replay := x.replay.dropWhile fun y => y.1 != missing % 4096 }
          s.resendFrom k (missing % 4096)
        else s.dropLink k
      (s.updPort k fun x => { x with state := .identify, attempts := 0, width := w }).sendHellos

/-! ### Flits received (R341) -/

/-- The sender of a flit's acknowledgement has everything up to a SEQ: the replay buffer is freed and waiting flits leave. -/
def ackTo (s : State) (k a : Nat) : State :=
  match (s.port k).replay.findIdx? (·.1 == a % 4096) with
  | some i => (s.updPort k fun x => { x with replay := x.replay.drop (i + 1), asked := none }).pump k
  | none => s

/-- A flit with its CRC (R340). -/
def sealFlit (f : Flit) : Flit := { f with crc := Digest.crc32c (flitBytes f) }

/-- A flit that acknowledges what has arrived in order, and returns credits (Table 10.2, R341). -/
def linkFlit (s : State) (k vc credits : Nat) : State :=
  s.emit (.flit k (sealFlit { type := 2, ack := some (((s.port k).expect + 4095) % 4096), creditVc := vc, credits := credits }))

/-- A RETRY_REQ flit. -/
def retryFlit (s : State) (k seq : Nat) : State := s.emit (.flit k (sealFlit { type := 3, seq := seq }))

/-- A RETRY_REQ for a SEQ is sent, once until that flit arrives. -/
def askRetry (s : State) (k : Nat) : State :=
  let x := s.port k
  if x.retrying = some x.expect then s
  else ((s.setPort k { x with retrying := some x.expect, asks := 1 }).retryFlit k x.expect).bump (FAB_PORT_RETRY k) 1

/-- The peer's RETRY_REQ for a SEQ: the eighth for the same one is a link failure (R341, R342). -/
def retryAsked (s : State) (k seq : Nat) : State :=
  let n := match (s.port k).asked with
    | some (q, n) => if q = seq % 4096 then n + 1 else 1
    | none => 1
  if 8 ≤ n then s.linkFailure k
  else (s.updPort k fun x => { x with asked := some (seq % 4096, n) }).resendFrom k (seq % 4096)

/-- A flit arrives (R341): discarded with a RETRY_REQ, and with what else it carries, or accepted and acknowledged. -/
def flitReceive (s : State) (k : Nat) (f : Flit) : State :=
  let st := (s.port k).state
  if st ≠ .identify ∧ st ≠ .active ∧ st ≠ .held then s
  else
    let s := ((s.bump (FAB_PORT_FEC_CORR k) f.fecCorr).bump (FAB_PORT_FEC_UNCORR k) f.fecUncorr).bump (FAB_PORT_CRC_ERR k)
      (if flitCrcOk f then 0 else 1)
    if !flitCrcOk f ∨ 0 < f.fecUncorr ∨ (f.type = 1 ∧ f.seq % 4096 ≠ (s.port k).expect) then s.askRetry k
    else
      let s := match f.ack with | some a => s.ackTo k a | none => s
      let s := if 0 < f.credits then (s.updPort k fun x => returnCredits x f.creditVc f.credits).pump k else s
      if f.type = 3 then s.retryAsked k f.seq
      else if f.type ≠ 1 then s
      else
        (s.updPort k fun x =>
          { x with expect := (x.expect + 1) % 4096, retrying := none, asks := 0, held := x.held.set f.vc (x.held.get 0 f.vc + 1) }).linkFlit
          k 0 0

/-- The RETRY_REQ for a flit that has not arrived is sent again; with the eighth the link has failed (R341, R342). -/
def retryRepeat (s : State) (k : Nat) : State :=
  let x := s.port k
  match x.retrying with
  | some q =>
    let s := ((s.setPort k { x with asks := x.asks + 1 }).retryFlit k q).bump (FAB_PORT_RETRY k) 1
    if 8 ≤ x.asks + 1 then s.linkFailure k else s
  | none => s

/-- The receive buffer of a packet is freed and its credits go back. -/
def freeBuffer (s : State) (k vc n : Nat) : State :=
  let held := min n ((s.port k).held.get 0 vc)
  if held = 0 then s
  else (s.updPort k fun x => { x with held := x.held.set vc (x.held.get 0 vc - held) }).linkFlit k vc held

/-! ### Election (R349) -/

/-- A second claim to the origin that this module learns of (R349). -/
def dupClaim (s : State) (key : LeaderKey) : State :=
  if key.cls = 0 ∧ ((s.fab.best.cls = 0 ∧ key.serial ≠ s.fab.best.serial) ∨ (s.fab.origin ∧ key.serial ≠ s.fab.serial)) then
    s.updFab fun f => { f with dupOrigin := true }
  else s

/-- A key learned from a port. -/
def learnKey (s : State) (k : Nat) (key : LeaderKey) (hops : Nat) : State :=
  let s := s.dupClaim key
  if s.fab.settled then s
  else
    if keyBeats key s.fab.best then
      let s := s.updFab fun f =>
        { f with best := key, hops := hops + 1, parent := some k, phase := 1, children := [], reports := [] }
      (s.activePorts.foldl (fun (s : State) j => s.sendCtl j (.elect j key (hops + 1))) s).sendHellos
    else if key = s.fab.best then
      match s.fab.parent with
      | some j =>
        if hops + 1 < s.fab.hops ∨ (hops + 1 = s.fab.hops ∧ k < j) then
          (s.updFab fun f => { f with hops := hops + 1, parent := some k }).sendHellos
        else s
      | none => s
    else s

/-- The module stands for election itself (R349, R354). -/
def startElection (s : State) : State :=
  let s := s.updFab fun f =>
    { f with best := s.ownKey, hops := 0, parent := none, phase := 1, children := [], reports := [], settled := false, lone := false,
             segs := [], next := none, later := [] }
  let s := (s.activePorts.foldl (fun (s : State) j => s.sendCtl j (.elect j s.fab.best 0)) s).sendHellos
  s.activePorts.foldl (fun s k => match (s.port k).hello with
    | some h => if h.settled then s else s.learnKey k h.best h.hops
    | none => s) s

/-! ### HELLO (R348, R353) -/

/-- The first cause of Table 10.6 that a HELLO meets; 0 for none. -/
def helloCause (s : State) (h : Hello) : Nat :=
  if h.serial = s.fab.serial then 1
  else if h.period ≠ s.period then 2
  else if h.planDigest ≠ s.fab.digest then 3
  else if s.hasPlan && !s.fab.cur.table &&
      (match s.fab.coord, h.coord with
       | some a, some b => !torusNeighbours s.fab.torus a b
       | _, _ => false) then 4
  else if s.fab.settled && h.settled && h.fabricId != s.fab.fabricId && !h.lone && !s.fab.lone then 5
  else 0

/-- This module's report as a JOIN (R353). -/
def sendJoin (s : State) (k : Nat) : State := (s.updFab fun f => { f with phase := 4 }).sendCtl k (.join k s.ownReport)

/-- PORT_EVENT on its way to the leader (R365). -/
def tellLeader (s : State) (serial port old new : Nat) : State :=
  match s.fab.parent with
  | some k => s.sendCtl k (.portEvent k serial port old new)
  | none => s

/-! ### The map (R350 to R353) -/

/-- The planned number of coordinates (R351). -/
def plannedNumber (sizes c : List Nat) : Nat :=
  c.getD 0 0 + dimSize sizes 0 * (c.getD 1 0 + dimSize sizes 1 * (c.getD 2 0 + dimSize sizes 2 * c.getD 3 0))

/-- Modules that the plan numbers. -/
def plannedCount (sizes : List Nat) : Nat :=
  if sizes.all (· == 0) then 0 else dimSize sizes 0 * dimSize sizes 1 * dimSize sizes 2 * dimSize sizes 3

/-- A number for a module: the one it holds, its planned one if free, or the lowest free unplanned one; 0xFFFE when it is
refused (R351 to R353). -/
def assignOne (s : State) (used : List Nat) (coord : Option (List Nat)) : Nat :=
  if 16384 ≤ used.length then 0xFFFE
  else match coord with
    | some c => if s.hasPlan then
        let n := plannedNumber s.fab.torus c
        if used.contains n then 0xFFFE else n
      else ((List.range (used.length + 1)).find? fun n => !used.contains n).getD 0xFFFE
    | none =>
      let base := plannedCount s.fab.torus
      (((List.range (used.length + 1)).map (base + ·)).find? fun n => !used.contains n).getD 0xFFFE

/-- Numbers for the modules that reported: those already numbered keep their numbers, planned ones come before the rest, each
in ascending serial order (R351, R354). -/
def assignAll (s : State) (rs : List Report) : List MapEntry :=
  let kept (r : Report) : Option Nat := s.fab.cur.numberOf r.serial
  let rank (r : Report) : Nat := if (kept r).isSome then 0 else if s.hasPlan && r.coord.isSome then 1 else 2
  let sorted := rs.mergeSort fun a b => decide (rank a < rank b) || (rank a == rank b && decide (a.serial ≤ b.serial))
  (sorted.foldl (fun (acc : List MapEntry × List Nat) r =>
    let n := (kept r).getD (s.assignOne acc.2 r.coord)
    (acc.1 ++ [{ serial := r.serial, module := n, coord := r.coord, links := r.links }],
     if n = 0xFFFE then acc.2 else n :: acc.2)) ([], [])).1

/-- TORUS mode is possible (R357): a plan with torus sizes, and every link between modules of the map joins torus neighbours. -/
def torusOk (s : State) (es : List MapEntry) : Bool :=
  s.hasPlan && es.all fun e => e.links.all fun l => !l.up ||
    match es.find? (·.serial == l.peerSerial) with
    | none => true
    | some d => match e.coord, d.coord with
      | some a, some b => torusNeighbours s.fab.torus a b
      | _, _ => false

/-- A torus link is absent (R365): a port whose peer is in the map is not up, or no link joins two torus neighbours of the map. -/
def linkAbsent (sizes : List Nat) (es : List MapEntry) : Bool :=
  es.any fun e => e.links.any (fun l => !l.up && es.any (·.serial == l.peerSerial)) ||
    es.any fun d => match e.coord, d.coord with
      | some a, some b => torusNeighbours sizes a b && !e.links.any fun l => l.up && l.peerSerial == d.serial
      | _, _ => false

/-- The mode of a map that settles a fabric (R357): TABLE unless every link joins torus neighbours. -/
def tableMode (s : State) (es : List MapEntry) : Bool := !s.torusOk (es.filter (·.module != 0xFFFE))

/-- The mode of a later version (R357, R365): TABLE also if a torus link is absent. -/
def laterMode (s : State) (es : List MapEntry) : Bool :=
  s.tableMode es || linkAbsent s.fab.torus (es.filter (·.module != 0xFFFE))

/-- The segments of a map: at most 8 entries each. -/
def segmentsOf (proto : MapSegment) (es : List MapEntry) : List MapSegment :=
  let n := max 1 (ceilDiv es.length 8)
  (List.range n).map fun i => { proto with index := i, count := n, entries := (es.drop (8 * i)).take 8 }

/-- A map version is held whole: the module takes its number and is settled, or is refused one (R350, R352, R353). -/
def holdMap (s : State) (m : MapSegment) (es : List MapEntry) : State :=
  let mine := es.find? (·.serial == s.fab.serial)
  let cause (e : MapEntry) : Nat :=
    if s.hasPlan ∧ e.coord.any (fun c => es.any fun e' => e'.serial != e.serial && e'.module == plannedNumber s.fab.torus c) then 7 else 6
  let g : Routes := { table := m.tableMode, version := m.version, leader := m.leader, entries := es.filter (·.module != 0xFFFE) }
  let refused := es.filter (·.module == 0xFFFE)
  let holdPort (s : State) (k c : Nat) : State :=
    if (s.port k).state = .active then
      let s := (s.updPort k fun x => { x with state := .held, heldCause := c }).bump (FAB_PORT_DOWN_EVENTS k) 1
      (s.moveTraffic k false).fabLogAdd (k / 4) (Config.fabLogStatus 7) 7 (k % 4) (s.port k).peerModule 0
    else s
  let s := s.updFab fun f => { f with sizeLimit := f.sizeLimit || refused.any fun e => cause e == 6 }
  match mine with
  | some e =>
    if e.module = 0xFFFE then
      let s := if cause e = 7 then
          s.activePorts.foldl (fun s k => if es.any (fun e' => e'.serial == (s.port k).peerSerial && e'.module != 0xFFFE) then holdPort s k 7 else s) s
        else s
      s.updFab fun f => { f with segs := [] }
    else
      let leaderSerial := ((g.entry m.leader).map (·.serial)).getD 0
      let origin := (((g.entry m.leader).bind (·.coord)).any fun c => c.all (· == 0))
      let best : LeaderKey := if s.fab.best.serial = leaderSerial then s.fab.best
        else { cls := if s.hasPlan && origin then 0 else 1, serial := leaderSerial }
      let s : State := { s with moduleId := e.module }
      let s := s.updFab fun f =>
        { f with settled := true, lone := g.entries.length == 1, phase := 3, leaderLost := false, fabricId := m.fabricId, best := best,
                 leaderSerial := leaderSerial, version := m.version, segs := [], lastBeat := s.fret,
                 next := f.next <|> some (m.switchFret, g), later := if f.next.isSome then f.later ++ [(m.switchFret, g)] else [] }
      let s := refused.foldl (fun s e' => s.activePorts.foldl (fun s k =>
        if (s.port k).peerSerial = e'.serial then holdPort s k (cause e') else s) s) s
      s.sendHellos
  | none => s.updFab fun f => { f with segs := [] }

/-- A map leaves the leader: its segments go to the children, and the leader holds it too (R350). -/
def broadcastMap (s : State) (version : Nat) (tableMode : Bool) (leader : Nat) (es : List MapEntry) : State :=
  let proto : MapSegment :=
    { version := version, fabricId := s.fab.fabricId, tableMode := tableMode, switchFret := s.fret + 4, index := 0, count := 1,
      leader := leader, entries := [] }
  let segs := segmentsOf proto es
  let s := s.fab.children.foldl (fun s k => segs.foldl (fun s m => s.sendCtl k (.map k m)) s) s
  s.holdMap proto es

/-- This module is the leader: of the fabric that its map describes, or, before it holds one, by its key. -/
def isLeader (s : State) : Bool :=
  if s.fab.settled then s.fab.leaderSerial == s.fab.serial else s.fab.best == s.ownKey

/-- FABRIC_ID of a leader (R350): its serial number's bits [47:0] below the boot count. -/
def newFabricId (s : State) : W64 := fld (s.fab.serial % 2 ^ 48) 0 ||| fld (s.fab.bootCount % 65536) 48

/-- The leader settles the fabric (R350). -/
def settleFabric (s : State) : State :=
  if s.isLeader ∧ !s.fab.settled ∧ s.fab.phase = 2 then
    let es := s.assignAll (s.ownReport :: s.fab.reports)
    let s := s.updFab fun f => { f with fabricId := s.newFabricId }
    let me := ((es.find? (·.serial == s.fab.serial)).map (·.module)).getD 0
    s.broadcastMap (s.fab.version + 1) (s.tableMode es) me es
  else s

/-- A module with no ACTIVE port settles a fabric of one, with module number 0 (R350), or with the number that it held in a fabric that
it was cut off from (R354). -/
def settleAlone (s : State) : State :=
  let s := s.updFab fun f => { f with best := s.ownKey, hops := 0, parent := none, fabricId := s.newFabricId }
  let me := (s.fab.cur.numberOf s.fab.serial).getD 0
  let es : List MapEntry := [{ serial := s.fab.serial, module := me, coord := s.fab.coord, links := [] }]
  s.broadcastMap (s.fab.version + 1) (s.tableMode es) me es

/-- FABRIC_SETTLE: the leader's 4 ms have passed; or no port is ACTIVE at the end of training (R350). -/
def fabricSettle (s : State) : State :=
  let training := (List.range 16).any fun k => (s.port k).state == .training || (s.port k).state == .identify
  if s.activePorts = [] then (if s.fab.settled || training || !s.mgmt.step7 then s else s.settleAlone) else s.settleFabric

/-- The best key has not changed for 4 ms: the report goes to the parent (R350). -/
def reportTimer (s : State) : State :=
  if s.fab.settled ∨ s.fab.phase ≠ 1 then s
  else
    let s := s.updFab fun f => { f with phase := 2 }
    match s.fab.parent with
    | some k => s.sendCtl k (.report k s.ownReport)
    | none => s

/-- A MAP segment: kept, forwarded to the children once, and the map held when it is complete (R350). -/
def mapReceive (s : State) (m : MapSegment) : State :=
  let known := s.fab.segs.any fun x => x.version == m.version && x.index == m.index
  let stale := s.fab.settled && (m.fabricId != s.fab.fabricId || decide (m.version ≤ s.fab.version)) && !s.fab.lone
  if known ∨ stale then s
  else
    let s := s.updFab fun f => { f with segs := f.segs.filter (·.version == m.version) ++ [m] }
    let s := s.fab.children.foldl (fun s k => s.sendCtl k (.map k m)) s
    if s.fab.segs.length = m.count then
      s.holdMap m ((s.fab.segs.mergeSort fun a b => a.index ≤ b.index).flatMap (·.entries))
    else s

/-- The entries of the newest map held. -/
def newestMap (s : State) : List MapEntry :=
  match s.fab.later.getLast? <|> s.fab.next with
  | some (_, g) => g.entries
  | none => s.fab.cur.entries

/-- A new map version from the leader (R353, R365). -/
def newVersion (s : State) (es : List MapEntry) : State := s.broadcastMap (s.fab.version + 1) (s.laterMode es) s.moduleId es

/-- A link added to a module's entry. -/
def addLink (l : LinkInfo) (e : MapEntry) : MapEntry := { e with links := e.links.filter (·.port != l.port) ++ [l] }

/-- The links of a report that are up, at their other ends. -/
def addPeers (r : Report) (es : List MapEntry) : List MapEntry :=
  (r.links.filter (·.up)).foldl (fun es l => es.map fun e =>
    if e.serial = l.peerSerial then
      addLink { port := l.peerPort, up := true, width := l.width, peerSerial := r.serial, peerPort := l.port } e else e) es

/-- A report of a module of a settled fabric, whose port has become ACTIVE over a link that the map lacks: the leader's next version has
it (Table 10.8, log 174). -/
def reportSettled (s : State) (r : Report) : State :=
  if s.newestMap.any fun e => e.serial == r.serial && e.links != r.links then
    s.newVersion (addPeers r (s.newestMap.map fun e => if e.serial = r.serial then { e with links := r.links } else e))
  else s

/-- A report of a child or of a module behind it (R350). -/
def reportReceive (s : State) (k : Nat) (r : Report) : State :=
  let s := s.updFab fun f => { f with children := if f.children.contains k then f.children else f.children ++ [k] }
  if s.isLeader then
    if s.fab.settled then s.reportSettled r
    else s.updFab fun f => { f with reports := f.reports.filter (·.serial != r.serial) ++ [r] }
  else match s.fab.parent with
    | some j => s.sendCtl j (.report j r)
    | none => s

/-- A JOIN (R353): forwarded towards the leader, or answered with a new map version. -/
def joinReceive (s : State) (k : Nat) (r : Report) : State :=
  if !s.fab.settled then s
  else
    let s := s.updFab fun f => { f with children := if f.children.contains k then f.children else f.children ++ [k] }
    if !s.isLeader then
      match s.fab.parent with
      | some j => s.sendCtl j (.join j r)
      | none => s
    else
      let es := s.newestMap.filter (·.serial != r.serial)
      let used := (es.map (·.module)).filter (· != 0xFFFE)
      let n := (s.fab.cur.numberOf r.serial).getD (s.assignOne used r.coord)
      let es := if n = 0xFFFE then es else addPeers r es
      let es := es ++ [{ serial := r.serial, module := n, coord := r.coord, links := r.links }]
      s.newVersion es

/-- PORT_EVENT (R365): forwarded towards the leader, or answered with a new map version. -/
def portEventReceive (s : State) (serial port oldState newState : Nat) : State :=
  if !s.fab.settled then s
  else if !s.isLeader then
    match s.fab.parent with
    | some j => s.sendCtl j (.portEvent j serial port oldState newState)
    | none => s
  else
    let old := s.newestMap
    let hit := (old.find? (·.serial == serial)).bind fun e => e.links.find? (·.port == port)
    match hit with
    | none => s
    | some l =>
      let upd (sr pt : Nat) (e : MapEntry) : MapEntry :=
        if e.serial != sr then e
        else { e with links := e.links.map fun x => if x.port = pt then { x with up := newState == 3, state := newState } else x }
      let es := (old.map (upd serial port)).map (upd l.peerSerial l.peerPort)
      s.newVersion es

/-- A PORT_EVENT of this module: on its way to the leader, or taken by the leader itself. -/
def portEventOut (s : State) (serial port old new : Nat) : State :=
  if s.isLeader then s.portEventReceive serial port old new else s.tellLeader serial port old new

/-- A port has been out of ACTIVE for 1 ms (R365). -/
def portDownTimeout (s : State) (k : Nat) : State :=
  let x := s.port k
  if x.state = .active ∨ !s.fab.settled then s
  else s.portEventOut s.fab.serial k 3 x.state.code

/-- A link that the map lacks has become ACTIVE: this module's report goes to the leader (Table 10.8, log 174). -/
def newLink (s : State) : State :=
  if s.isLeader then s.reportSettled s.ownReport
  else match s.fab.parent with
    | some j => s.sendCtl j (.report j s.ownReport)
    | none => s

/-- The effects of a HELLO that passed its checks: the port is ACTIVE, and the modules elect, join or merge (R349, R353); the numbers of
two fabrics of one do not outlive them (R351). -/
def helloPassed (s : State) (k : Nat) (h : Hello) : State :=
  let s := s.updPort k fun x => { x with state := .active }
  let s := s.pump k
  if s.fab.lone ∧ h.lone then ((s.updFab fun f => { f with cur := {} }).startElection).learnKey k h.best h.hops
  else if h.settled ∧ !h.lone ∧ (!s.fab.settled ∨ s.fab.lone) then s.sendJoin k
  else if s.fab.settled then
    if h.settled ∧ h.fabricId = s.fab.fabricId ∧ !((s.fab.cur.links s.moduleId).any (·.1 == k)) then s.newLink
    else s
  else
    let s := if s.fab.phase = 0 then s.startElection else s.sendCtl k (.elect k s.fab.best s.fab.hops)
    s.learnKey k h.best h.hops

/-- A HELLO is received (R347, R348, Table 10.8). -/
def helloReceive (s : State) (k : Nat) (h : Hello) : State :=
  let x := s.port k
  let changed := x.hello.map checkedFields != some (checkedFields h)
  let s := (s.dupClaim h.best).updPort k fun x =>
    { x with hello := some h, peerSerial := h.serial, peerPort := h.port, peerModule := h.module }
  match x.state with
  | .identify | .active =>
    if x.state = .active ∧ !changed then s.learnKey k h.best h.hops
    else
      let s := if x.state = .active then (s.updPort k fun x => { x with left := x.left + 1 }).bump (FAB_PORT_DOWN_EVENTS k) 1 else s
      match s.helloCause h with
      | 0 => s.helloPassed k h
      | c =>
        let s := (s.updPort k fun x => { x with state := .held, heldCause := c }).moveTraffic k false
        s.fabLogAdd (k / 4) (Config.fabLogStatus 7) 7 (k % 4) h.module 0
  | _ => s

/-- BEAT (R354). -/
def beatReceive (s : State) (b : Beat) : State :=
  if s.fab.settled ∧ b.fabricId = s.fab.fabricId then
    (s.updFab fun f => { f with lastBeat := s.fret }) |> fun s =>
      s.fab.children.foldl (fun s k => s.sendCtl k (.beat k b)) s
  else s

/-- The leader's BEAT, every 256 frets (R354). -/
def beatSend (s : State) : State :=
  if s.isLeader ∧ s.fab.settled ∧ s.fret % 256 = 0 then
    let b : Beat := { fabricId := s.fab.fabricId, version := s.fab.version, fret := s.fret }
    s.fab.children.foldl (fun s k => s.sendCtl k (.beat k b)) s
  else s

/-- The leader is lost (R354): no BEAT for 1,024 frets, or a parent tree, as the newest map gives it once it is in force, that does not
lead to it. -/
def leaderLost (s : State) : State :=
  let cut : Bool := match s.fab.parent with
    | some k => (s.port k).state != .active
    | none => s.fab.next.isNone && s.fab.cur.version == s.fab.version
  if s.fab.settled ∧ !s.isLeader ∧ (s.fab.lastBeat + 1024 ≤ s.fret ∨ cut) then
    (s.updFab fun f => { f with leaderLost := true }).startElection
  else s

/-! ### Routes (R360 to R364, R366) -/

/-- The modules that a generation reaches: with a path in the map and a route. -/
def reached (s : State) (g : Routes) : List Nat :=
  let h := (g.hopsFrom s.moduleId).map (·.1)
  h.filter fun m => m != s.moduleId && (g.hop s.fab.torus s.moduleId m none).isSome

/-- The switch fret of a map has come (R364, R366): the new generation takes over and waiting traffic moves. -/
def routeSwitch (s : State) : State :=
  match s.fab.next with
  | some (at_, g) =>
    if s.epochSet ∧ at_ ≤ s.fret ∨ s.fab.lone then
      let g : Routes := { g with loaded := if s.fab.swRoutes then s.fab.loaded else none }
      let s := s.updFab fun f =>
        { f with next := f.later.head?, later := f.later.drop 1, rgen := !f.rgen, cur := g, old := some f.cur, oldSeen := s.fret, loaded := none }
      let s : State := { s with reachable := s.reached g }
      let s := (List.range 16).foldl (fun s k => if (s.port k).state = .active then s else s.moveTraffic k true) s
      s.releaseOrdered
    else s
  | none => s

/-- The old generation goes once no packet of it has been seen for one fret (R364). -/
def oldRoutesMark (s : State) : State :=
  if s.fab.oldSeen + 1 < s.fret then s.updFab fun f => { f with old := none } else s

/-- A route table is in order (R362, R363): sorted, disjoint, every mask naming ACTIVE ports. -/
def tableOk (s : State) (es : List RouteEntry) : Bool :=
  let live (m : Nat) : Bool := (maskPorts m).all fun k => (s.port k).state == .active
  es.all (fun e => decide (e.first ≤ e.last) && live e.esc && live e.down && live e.adapt) &&
    (es.zip (es.drop 1)).all fun (a, b) => decide (a.last < b.first)

/-- An entry as stored (Table 10.7), and whether its reserved field is zero. -/
def entryOf (bs : List Byte) : RouteEntry × Bool :=
  let f (o : Nat) : Nat := leNat ((bs.drop o).take 2)
  ({ first := f 0, last := f 2, esc := f 4, down := f 6, adapt := f 8 }, leNat ((bs.drop 10).take 6) == 0)

/-- A load goes on: BUSY while a line of the table must wait, then its status (R363). -/
def routeLoad (s : State) : State :=
  match s.fab.loading with
  | none => s
  | some (a, n) =>
    let r := s.masterRegion
    let ag := engineAgent s.moduleId r 1
    let done (s : State) (st : Nat) : State := (s.updFab fun f => { f with loading := none }).setAll FAB_ROUTE_STATUS (w64 st)
    if 65536 < n ∨ !s.bytesReachable a (16 * n) then done s stRANGE
    else if s.rangeWaits a (16 * n) false then s.setAll FAB_ROUTE_STATUS 0x100
    else
      let (s, bs, bad) := s.readBytes ag a (16 * n)
      let es := (List.range n).map fun i => entryOf ((bs.drop (16 * i)).take 16)
      match bad with
      | some x => done (s.log r stPOISON 2 ag.code (x / 8 * 8) 0) stPOISON
      | none =>
        if es.all (·.2) && s.tableOk (es.map (·.1)) then
          done (s.updFab fun f => { f with loaded := some (es.map (·.1)), old := none }) stOK
        else done s stRANGE

/-- A write of FAB_ROUTE_CTRL; LOAD loads a table, unless one is being loaded (R363). -/
def routeCtrlWrite (s : State) (ag : Agent) (v : W64) : State :=
  let r := s.masterRegion
  if bit v 17 && (!s.fab.swRoutes || s.fab.loading.isSome) then s.log r stSTATE 1 ag.code (FAB_ROUTE_CTRL r % 0x100000000) 0
  else
    let s := s.setAll FAB_ROUTE_CTRL (v &&& mask 16 0)
    if !bit v 17 then s
    else (s.updFab fun f => { f with loading := some ((s.reg (FAB_ROUTE_LOAD_ADDR 0)).toNat, bits v 16 0) }).routeLoad

/-! ### Packets (R346, R361) -/

/-- An opcode of Table 10.4. -/
def opcodeOk (o : Nat) : Bool := (decide (1 ≤ o) && decide (o ≤ 5)) || (decide (0x81 ≤ o) && decide (o ≤ 0x83)) ||
  (decide (0xC0 ≤ o) && decide (o ≤ 0xC7))

/-- A packet is recorded as discarded (R346, R362). -/
def discardPacket (s : State) (k cause : Nat) (p : Packet) : State :=
  s.fabLogAdd (k / 4) (Config.fabLogStatus cause) cause (k % 4) p.src (globalAddr p.dest p.addr)

/-- A packet has arrived at a port (R346, R361, R362, R364). A control packet goes from neighbour
to neighbour, also in IDENTIFY and HELD; what it does is a command of its own. -/
def packetArrive (s : State) (k : Nat) (p : Packet) : State :=
  let st := (s.port k).state
  if st ≠ .active ∧ st ≠ .identify ∧ st ≠ .held then s
  else
    let s := s.freeBuffer k p.vc (packetFlits p)
    if st ≠ .active ∨ (0xC0 ≤ p.opcode ∧ p.opcode ≤ 0xC7 ∧ !p.rsvBad) then s
    else
    let s := if p.rgen != s.fab.rgen then s.updFab fun f => { f with oldSeen := s.fret } else s
    if p.rsvBad ∨ !opcodeOk p.opcode ∨ 4096 < p.len ∨ 255 < p.hops then s.discardPacket k 3 p
    else if p.dest = s.moduleId then { s with inbox := s.inbox ++ [p] }
    else if 255 ≤ p.hops then s.discardPacket k 3 p
    else
      let s := s.countSpill k p
      match s.forward p (some k) with
      | some s' => s'
      | none => s.discardPacket k 5 p

/-- STATUS of a port (Table 10.12). -/
def portStatus (s : State) (k : Nat) : W64 :=
  let x := s.port k
  let up := s.fab.cur.table && s.fab.cur.up s.moduleId x.peerModule && (s.fab.cur.links s.moduleId).any (·.1 == k)
  fld x.state.code 0 ||| fld x.heldCause 3 ||| fld x.width 6 ||| fld x.txGood 8 ||| fld x.rxGood 16 ||| flag x.reversed 24 |||
    fld x.inverted 25 ||| flag up 33 ||| fld x.peerPort 34 ||| fld x.peerModule 38

/-- FAB_MODULE_ID (Table 10.9). -/
def fabModuleId (s : State) : W64 :=
  fld s.moduleId 0 ||| flag s.fab.settled 16 ||| flag (s.fab.settled && s.isLeader) 17 ||| flag s.fab.cur.table 18 |||
    flag s.fab.rgen 19 ||| fld (s.fab.cur.version % 2 ^ 32) 32

/-- FAB_DISC_STATUS (Table 10.10). -/
def discStatus (s : State) : W64 :=
  fld s.fab.phase 0 ||| flag s.fab.dupOrigin 3 ||| flag s.fab.sizeLimit 4 ||| flag s.fab.leaderLost 5 ||| flag s.fab.swRoutes 6

/-- The counters that FAB_PORT_COUNT_CLEAR zeroes (Table 10.13). -/
def portCounters (k : Nat) : List Reg :=
  [FAB_PORT_FEC_CORR k, FAB_PORT_FEC_UNCORR k, FAB_PORT_CRC_ERR k, FAB_PORT_RETRY k, FAB_PORT_DOWN_EVENTS k,
   FAB_PORT_FLITS_TX k, FAB_ROUTE_SPILL_HITS k]

end State
end Sys2Proof.Machine
end

