-- ==== Sys2Proof/Machine/Time.lean ====
section
/-!
DEFINITION. Fabric time: two-way time transfer, discipline, lock states (R371 to R377).
-/
namespace Sys2Proof.Machine

/-- LOCK code of Table 11.9. -/
def Lock.code : Lock → Nat
  | .unset => 0
  | .acquiring => 1
  | .locked => 2
  | .holdover => 3

/-- A timestamp in 1/16 ns for a period of P microseconds (R372). -/
def ticks (p t : Nat) : Int := ((t / 2 ^ 20 % 2 ^ 44) * (p * 16000) + t % 2 ^ 20 : Nat)

/-- A difference of two timestamps, modulo 2^44 frets, as a signed value (R372). -/
def tickDiff (p : Nat) (a b : Nat) : Int :=
  let m : Int := (2 ^ 44 * (p * 16000) : Nat)
  let d := (ticks p a - ticks p b) % m
  if 2 * d < m then d else d - m

/-- The offset e and the one-way delay d of an exchange (R372): halves rounded toward zero. -/
def exchange (p t1 t2 t3 t4 : Nat) : Int × Int :=
  let up := tickDiff p t2 t1
  let down := tickDiff p t4 t3
  (Int.tdiv (down - up) 2, Int.tdiv (down + up) 2)

/-- A signed value in 32 bits. -/
def signed32 (x : Int) : Nat := (BitVec.ofInt 32 x).toNat

/-- A value clamped to a range of plus or minus `m`. -/
def clampInt (m x : Int) : Int := if x < -m then -m else if m < x then m else x

/-- FAB_TIME_OFFSET: signed 32 bits, saturating. -/
def timeOffset (e : Int) : Nat := signed32 (if e < -(2 ^ 31 : Int) then -(2 ^ 31 : Int) else if (2 ^ 31 - 1 : Int) < e then 2 ^ 31 - 1 else e)

namespace State

def updTime (s : State) (f : Time → Time) : State := { s with time := f s.time }

/-- A timestamp of this module (R372): the low 44 bits of its fret counter over the time since its mark, which the operand gives. -/
def stamp (s : State) (t : Nat) : Nat := s.fret % 2 ^ 44 * 2 ^ 20 + min (t % 2 ^ 20) (s.period * 16000 - 1)

/-- The module tracks its parent port. -/
def tracks (s : State) : Bool := s.fab.settled && !s.time.root && !s.time.adopt &&
  (s.time.lock == .acquiring || s.time.lock == .locked)

/-- HOLDOVER (R374), also of a module that adopts its epoch again: it is root of the modules that track it, and as a root has an EST of 0
(R373). -/
def enterHoldover (s : State) : State :=
  if s.fab.settled && !s.time.root && (s.time.lock == .acquiring || s.time.lock == .locked) then
    s.updTime fun t =>
      { t with lock := .holdover, root := true, good := 0, bad := 0, ready := 0, depth := 0, est := 0, lostParent := s.fab.parent }
  else s

/-- A TIME_REQ leaves an ACTIVE port: one in each fret, from slot 32 on (R371). -/
def timeReqSend (s : State) (k t1 : Nat) : State :=
  let x := s.port k
  let t1 := s.stamp t1
  if x.state ≠ .active ∨ s.slot < 32 ∨ x.timeSent = some s.markNs then s
  else
    let s := s.setPort k
      { x with timeWait := some (x.timeSeq, t1), timeSeq := (x.timeSeq + 1) % 256, timeSent := some s.markNs }
    s.sendCtl k (.timeReq k { seq := x.timeSeq, lock := s.time.lock.code, depth := s.time.depth, t1 := t1, est := s.time.est })

/-- A TIME_REQ is answered (R371). -/
def timeReqReceive (s : State) (k : Nat) (p : TimePkt) (t2 t3 : Nat) : State :=
  let t2 := s.stamp t2
  let t3 := s.stamp t3
  s.sendCtl k (.timeResp k { seq := p.seq, lock := s.time.lock.code, depth := s.time.depth, t1 := p.t1, t2 := t2, t3 := t3,
                             est := s.time.est })

/-- The lock state after an exchange with the parent (R375). -/
def lockStep (s : State) (e : Int) : State :=
  let small := decide (e.natAbs ≤ 64)
  match s.time.lock with
  | .acquiring =>
    if small then
      s.updTime fun t => if 15 ≤ t.good then { t with lock := .locked, good := 0, bad := 0 } else { t with good := t.good + 1 }
    else s.updTime fun t => { t with good := 0 }
  | .locked =>
    if 640 < e.natAbs then s.updTime fun t => { t with lock := .acquiring, good := 0, bad := 0 }
    else if small then s.updTime fun t => { t with bad := 0 }
    else
      let n := s.time.bad + 1
      let s := s.updTime fun t => { t with bad := n, alarm := t.alarm || decide (4 ≤ n) }
      if n = 4 then s.log s.masterRegion stOK 5 0 0 (fld 2 0 ||| fld (timeOffset e) 32) else s
  | _ => s

/-- A TIME_RESP completes the port's exchange; one with the parent counts towards adoption, or disciplines the module
(R372, R373, R375, R377). -/
def timeRespReceive (s : State) (k : Nat) (p : TimePkt) (t4 : Nat) : State :=
  match (s.port k).timeWait with
  | some (q, t1) =>
    if q ≠ p.seq then s
    else
      let (e, d) := exchange s.period t1 p.t2 p.t3 (s.stamp t4)
      let s := s.updPort k fun x => { x with timeWait := none, timeLost := 0, timeE := some e }
      let s := (s.setReg (FAB_PORT_TIME_OFFSET k) (w64 (signed32 e))).setReg (FAB_PORT_TIME_DELAY k) (w64 (signed32 d))
      if s.fab.parent ≠ some k ∨ !s.fab.settled then s
      else if s.time.adopt then
        s.updTime fun t => { t with e := e, ready := if p.lock = 1 ∨ p.lock = 2 then t.ready + 1 else 0 }
      else if s.tracks then
        (s.updTime fun t => { t with e := e, est := p.est + e, depth := min 255 (p.depth + 1) }).lockStep e
      else s
  | none => s

/-- A TIME_RESP is lost for this fret (R371, R374). -/
def timeRespLost (s : State) (k : Nat) : State :=
  match (s.port k).timeWait with
  | some _ =>
    let s := s.updPort k fun x => { x with timeWait := none, timeLost := x.timeLost + 1 }
    if s.fab.parent ≠ some k then s
    else
      let s := s.updTime fun t => { t with ready := 0 }
      if 4 ≤ (s.port k).timeLost then s.enterHoldover else s
  | none => s

/-- e of the parent port's latest exchange in the present epoch; 0 before there is one. -/
def parentE (s : State) : Int := (s.fab.parent.bind fun k => (s.port k).timeE).getD 0

/-- The correction at a fret mark (R373). -/
def fretCorrection (s : State) : State :=
  let e := s.parentE
  if !s.tracks then s.updTime fun t => { t with adjust := 0 }
  else if e.natAbs < 16000 then s.updTime fun t => { t with adjust := clampInt (16 * s.period) (10 * e) }
  else if e.natAbs < s.period * 8000 then
    (s.setAll FAB_TIME_STEPS ((s.reg (FAB_TIME_STEPS 0)) + 1)).updTime fun t => { t with adjust := 10 * e }
  else s.updTime fun t => { t with adjust := 0, mismatch := true, adopt := true, ready := 0 }

/-- The leader settles its fabric (R377): its counter stays if an epoch is set, else it starts at 0 at the next mark. -/
def rootEpoch (s : State) (lone : Bool) : State :=
  if lone then
    s.updTime fun t => { t with root := true, adopt := false, depth := 0, est := 0, start := if s.epochSet then none else some true }
  else
    let s : State := { s with localEpoch := false }
    s.updTime fun t =>
      { t with root := true, adopt := false, depth := 0, est := 0, lock := .locked, good := 0, bad := 0,
               start := if s.epochSet then none else some false }

/-- A module that is not the leader holds a fabric's map (R353, R377): it adopts the epoch unless it already counts it. -/
def followEpoch (s : State) : State :=
  if s.epochSet ∧ !s.localEpoch ∧ s.time.lock ≠ .unset then s.updTime fun t => { t with root := t.lock == .holdover }
  else s.updTime fun t => { t with root := false, adopt := true, ready := 0, start := none }

/-- The parent port that the map gives (R349): towards the leader by the fewest hops, the lowest port on a tie. -/
def mapParent (g : Routes) (me : Nat) : Option Nat :=
  let h := g.hopsFrom g.leader
  if me = g.leader then none
  else ((g.links me).foldl (fun (b : Option (Nat × Nat)) x => match hopsTo h x.2 with
    | some d => (match b with
      | some (d', k) => if d < d' ∨ (d = d' ∧ x.1 < k) then some (d, x.1) else some (d', k)
      | none => some (d, x.1))
    | none => b) none).map (·.2)

/-- The ports of `me` whose peers are its children in the map. -/
def mapChildren (g : Routes) (me : Nat) : List Nat :=
  ((g.links me).filter fun x => match mapParent g x.2, g.entry me with
    | some q, some e => e.links.any fun l => l.port == x.1 && l.peerPort == q
    | _, _ => false).map (·.1)

/-- The parent tree of the map in force; a module in HOLDOVER resumes tracking on a new parent (R374). -/
def retree (s : State) : State :=
  let g := s.fab.cur
  let p := mapParent g s.moduleId
  let fresh := p.isSome && p != s.time.lostParent
  let s := s.updFab fun f => { f with parent := p, children := mapChildren g s.moduleId }
  let s := s.updTime fun t => { t with e := s.parentE }
  if s.time.lock = .holdover ∧ fresh then
    s.updTime fun t => { t with lock := .acquiring, root := false, good := 0, bad := 0 }
  else s

/-- The switch of the map, with the tree that it gives. -/
def routeSwitchAll (s : State) : State :=
  if (s.routeSwitch).fab.rgen != s.fab.rgen then (s.routeSwitch).retree else s

/-- What settling, or a change of the links, means for fabric time: a newly settled module is root or adopts, and one whose
parent port has left ACTIVE is in HOLDOVER (R374, R377). `old` is the state before the command. -/
def timeAfter (old s : State) : State :=
  let s := if s.fab.settled && (!old.fab.settled || (old.fab.lone && !s.fab.lone)) then
      if s.isLeader then s.rootEpoch s.fab.lone else s.followEpoch
    else s
  match s.fab.parent with
  | some k => if (s.port k).state = .active ∧ (s.port k).left = (old.port k).left then s else s.enterHoldover
  | none => s

/-- FAB_TIME_STATUS (Table 11.9). -/
def timeStatus (s : State) : W64 :=
  let t := s.time
  fld t.lock.code 0 ||| flag t.root 2 ||| flag t.alarm 3 ||| flag t.mismatch 4 |||
    fld (if t.root then 0 else s.fab.parent.getD 0) 8 ||| fld t.depth 16

end State
end Sys2Proof.Machine
end

