-- ==== Sys2Proof/Machine/Coll.lean ====
section
/-!
DEFINITION. The collective engines: strum loading, starting, slots, SCHED flits, ends, lost peers and abort notices (R378 to
R399).
-/
namespace Sys2Proof.Machine

/-- Scheduled flits of a slot on one port (R379), for a period of P microseconds. -/
def slotCapacity (p : Nat) : Nat := ((p * 1000 * 100 / 64) - 2000) / 128

/-- Bytes of data in a SCHED flit. -/
def schedBytes : Nat := 224

/-- Receive entries: RECV, RECV_COMBINE and FORWARD (R383). -/
def StrumEntry.receives (e : StrumEntry) : Bool := e.op == 2 || e.op == 3 || e.op == 4

/-- Entries that later ones wait for: RECV, RECV_COMBINE and LOCAL_COMBINE (R384). -/
def StrumEntry.orders (e : StrumEntry) : Bool := e.op == 2 || e.op == 3 || e.op == 5

/-- The transmit slot of an entry on a port: SEND, and FORWARD on PORT2 one slot later (R383). -/
def StrumEntry.transmits (e : StrumEntry) : Option (Nat × Nat) :=
  if e.op = 1 then some (e.port, e.slot) else if e.op = 4 then some (e.port2, e.slot + 1) else none

/-- The Chaind ports of an entry. -/
def StrumEntry.ports (e : StrumEntry) : List Nat := (if e.op = 5 then [] else [e.port]) ++ (if e.op = 4 then [e.port2] else [])

/-- PEER of a receive entry. -/
def StrumEntry.peer (e : StrumEntry) : Nat := e.aux % 65536

def StrumEntry.flits (e : StrumEntry) : Nat := ceilDiv e.len schedBytes

/-- An entry lies before another by (STEP, SLOT). -/
def StrumEntry.before (a b : StrumEntry) : Bool := decide (a.step < b.step) || (a.step == b.step && decide (a.slot < b.slot))

/-- An entry as stored (Table 11.3), and whether its reserved fields are zero. -/
def StrumEntry.decode (bs : List Byte) : StrumEntry × Bool :=
  let f (o n : Nat) : Nat := leNat ((bs.drop o).take n)
  let e : StrumEntry :=
    { step := f 0 2, slot := f 2 1 % 64, op := f 3 1 % 16, port := f 3 1 / 16, port2 := f 4 1 % 16, len := f 5 3,
      offset := f 8 4, aux := f 12 4 }
  let opOk := decide (1 ≤ e.op) && decide (e.op ≤ 5)
  (e, f 2 1 / 64 == 0 && f 4 1 / 16 == 0 && opOk && (e.op != 5 || e.port == 0) && (e.op == 4 || e.port2 == 0) &&
    (e.op != 1 || e.aux == 0) && (!e.receives || decide (e.aux < 65536)))

/-- STATE code of FAB_COLL_CH_STATUS. -/
def CollState.code : CollState → Nat
  | .empty => 0
  | .loading => 1
  | .loaded => 2
  | .armed => 3
  | .running => 4
  | .stopping => 5

namespace State

def coll (s : State) (r c : Nat) : CollChan := s.colls.get {} (r, c)
def setColl (s : State) (r c : Nat) (x : CollChan) : State := { s with colls := s.colls.set (r, c) x }
def updColl (s : State) (r c : Nat) (f : CollChan → CollChan) : State := s.setColl r c (f (s.coll r c))

/-- The collective engine as an agent. -/
def collAgent (s : State) (r : Nat) : Agent := engineAgent s.moduleId r 1

def strumId (s : State) (r c : Nat) : Nat := bits (s.reg (FAB_COLL_CH_TABLE_CFG r c)) 47 32
def bufBase (s : State) (r c : Nat) : Nat := (s.reg (FAB_COLL_CH_BUF_BASE r c)).toNat
def startFret (s : State) (r c : Nat) : Nat := (s.reg (FAB_COLL_CH_START_FRET r c)).toNat

/-- An action that Table 11.8 does not allow (R398). -/
def refuseColl (s : State) (ag : Agent) (r c st : Nat) : State :=
  s.log r st 1 ag.code (FAB_COLL_CH_CTRL r c % 0x100000000) 0

/-- Entries held for the loaded strums of a region. -/
def strumEntries (s : State) (r : Nat) : Nat :=
  s.colls.foldl (fun n x => if x.1.1 = r then n + x.2.entries.length else n) 0

/-! ### Loading (R386, R388) -/

/-- The buffer lies in memory-class cacheable memory of the module's own T2 or T3. Memory and its holes begin and end at
multiples of 512 MiB. -/
def bufferOk (s : State) (base size : Nat) : Bool :=
  let inMem (a : Nat) : Bool := match s.place a with | .hbm .. | .lpd .. => true | _ => false
  let g := 0x20000000
  decide (size ≤ 0x18000000000) &&
    ([base] ++ (if size = 0 then [] else [base + size - 1]) ++
      ((List.range ((base + size) / g - base / g)).map fun i => (base / g + 1 + i) * g)).all fun a =>
        decide (base + size ≤ a ∧ a ≠ base) || inMem a

/-- LOAD (R386). -/
def strumLoad (s : State) (ag : Agent) (r c : Nat) : State :=
  match (s.coll r c).state with
  | .empty | .loaded => s.updColl r c fun x => { x with state := .loading, entries := [], inHw := 0 }
  | _ => s.refuseColl ag r c stSTATE

/-- Entries of a region's 1,024-entry hardware table that no loaded strum takes. -/
def tableRoom (s : State) (r : Nat) : Nat :=
  1024 - s.colls.foldl (fun n x => if x.1.1 = r then n + x.2.inHw else n) 0

/-- The copy of a strum ends (R386): the status and DETAIL.  The entries are checked in order, and the first one that fails a check is
reported with the lowest of its codes (R13). -/
def loadResult (s : State) (r c : Nat) (es : List (StrumEntry × Bool)) : Nat × Nat :=
  let base := s.bufBase r c
  let size := (s.reg (FAB_COLL_CH_BUF_SIZE r c)).toNat
  let cap := slotCapacity s.period * schedBytes
  let free := 1048576 - s.strumEntries r
  let raw := bit (s.reg (FAB_COLL_CH_TABLE_CFG r c)) 48
  let check (i : Nat) (e : StrumEntry) (ok : Bool) : Nat :=
    let disorder := match i with | 0 => false | k + 1 => match es[k]? with | some (p, _) => e.before p | none => false
    if !ok || disorder || decide (free ≤ i) || decide (cap < e.len) || (e.op == 4 && e.slot == 63) ||
        decide (size < e.offset + e.len) || (e.op == 5 && decide (size < e.aux + e.len)) then stRANGE
    else if (e.op == 3 || e.op == 5) &&
        (e.offset % 32 != 0 || e.len % 32 != 0 || (e.op == 5 && e.aux % 32 != 0) || base % 32 != 0) then stALIGN
    else if !raw && (e.op == 3 || e.op == 5) then stFORMAT else stOK
  let buffer := if !s.bufferOk base size then stRANGE else if base % 4096 ≠ 0 then stALIGN else stOK
  match (es.zipIdx.map fun ((e, ok), i) => (check i e ok, i)).find? (·.1 != stOK) with
  | some (st, i) => (if buffer = stOK then st else min st buffer, i)
  | none => (buffer, 0)

/-- The copy ends; it goes on while a line of the table must wait. -/
def strumLoadDone (s : State) (r c : Nat) : State :=
  if (s.coll r c).state ≠ .loading then s
  else
    let n := bits (s.reg (FAB_COLL_CH_TABLE_CFG r c)) 20 0
    let fail (s : State) (st i : Nat) : State :=
      s.updColl r c fun x => { x with state := .empty, entries := [], inHw := 0, lastStatus := st, detail := w64 i }
    let at_ := (s.reg (FAB_COLL_CH_TABLE_ADDR r c)).toNat
    if 1048576 < n then fail s stRANGE (1048576 - s.strumEntries r)
    else if !s.bytesReachable at_ (16 * n) then fail s stRANGE 0
    else if s.rangeWaits at_ (16 * n) false then s
    else
      let (s, bs, bad) := s.readBytes (s.collAgent r) (s.reg (FAB_COLL_CH_TABLE_ADDR r c)).toNat (16 * n)
      match bad with
      | some a => fail (s.log r stPOISON 2 (s.collAgent r).code (a / 8 * 8) 0) stPOISON ((a - (s.reg (FAB_COLL_CH_TABLE_ADDR r c)).toNat) / 16)
      | none =>
        let es := (List.range n).map fun i => StrumEntry.decode ((bs.drop (16 * i)).take 16)
        match s.loadResult r c es with
        | (st, i) =>
          if st ≠ stOK then fail s st i
          else s.updColl r c fun x =>
            { x with state := .loaded, entries := es.map (·.1), inHw := min n (s.tableRoom r), lastStatus := stOK, detail := 0 }

/-- UNLOAD (Table 11.8). -/
def strumUnload (s : State) (ag : Agent) (r c : Nat) : State :=
  if (s.coll r c).state = .loaded then s.updColl r c fun x => { x with state := .empty, entries := [], inHw := 0 }
  else s.refuseColl ag r c stSTATE

/-! ### Ends of runs (R392) -/

/-- A run is over with a status: it is written, the peg released, and the channel LOADED. -/
def runEnd (s : State) (r c st : Nat) : State :=
  let s := s.updColl r c fun x =>
    { x with state := .loaded, lastStatus := st, progress := [], stop := none, ending := none, bad := none, lost := none }
  let s := if st = stOVERRUN then s.bumpFld (FAB_FRET_MISS_COUNT r) 31 0 1 else s
  let s := s.noteCompletion (s.reg (FAB_COLL_CH_TAG r c)).toNat st 0
  let sig := s.reg (FAB_COLL_CH_SIGNAL r c)
  if bit sig 50 then s.signalPeg (s.collAgent r) (bits sig 15 0) (bits sig 49 48) (w64 (bits sig 47 16)) else s

/-- The step in progress of a channel. -/
def stepNow (s : State) (r c : Nat) : Nat := s.fret - s.startFret r c

def entryProgress (x : CollChan) (i : Nat) : EntryProgress := x.progress.get {} i
def setProgress (x : CollChan) (i : Nat) (p : EntryProgress) : CollChan := { x with progress := x.progress.set i p }

/-- The entries of a channel with their indices. -/
def indexed (x : CollChan) : List (Nat × StrumEntry) := x.entries.zipIdx.map fun (e, i) => (i, e)

/-- The last step of a strum. -/
def lastStep (x : CollChan) : Nat := x.entries.foldl (fun n e => max n e.step) 0

/-- Every entry of a step is complete. -/
def stepDone (x : CollChan) (k : Nat) : Bool := (indexed x).all fun (i, e) => e.step != k || (entryProgress x i).done

/-- Every entry of the last step is complete: the run has completed, and nothing stops it any more (R392, R396). -/
def runComplete (s : State) (r c : Nat) : Bool :=
  let x := s.coll r c
  let k := s.stepNow r c
  x.entries != [] && decide (s.startFret r c ≤ s.fret) && k == lastStep x && stepDone x k

/-- The status and DETAIL of a run whose entries have all completed (R391, R392). -/
def runResult (x : CollChan) : Nat × W64 := match x.bad with | some (st, off) => (st, w64 off) | none => (stOK, 0)

/-- A run writes its end once its last step is complete, or it has been stopped (R391, R392). -/
def strumRunEnd (s : State) (r c : Nat) : State :=
  let x := s.coll r c
  match x.state, x.ending with
  | .running, none =>
    let k := s.stepNow r c
    if s.runComplete r c then
      (s.updColl r c fun x => { x with detail := (runResult x).2, stepsDone := k + 1 }).runEnd r c (runResult x).1
    else s
  | .running, some st | .stopping, some st => s.runEnd r c st
  | _, _ => s

/-! ### Abort notices (R395) -/

/-- The peers of a run: PEER of every receive entry, PEER_MODULE of every transmit port. -/
def runPeers (s : State) (x : CollChan) : List Nat :=
  ((x.entries.filterMap fun e => if e.receives then some e.peer else none) ++
    x.entries.filterMap fun e => e.transmits.map fun t => (s.port t.1).peerModule).eraseDups

/-- An abort notice goes to each peer of a run but the lost module (R395, Table 11.11). -/
def sendNotices (s : State) (r c : Nat) (subject cause : Nat) : State :=
  let v := fld (s.strumId r c) 0 ||| fld subject 16 ||| fld cause 32
  ((s.runPeers (s.coll r c)).filter fun m => !(cause == stPEER_LOST && m == subject)).foldl (fun s m =>
    let q : OutReq := { tag := 0, origin := .coll r c, dest := .module m, op := 2, addr := 0xF00000000380, data := leBytes 8 v.toNat }
    if s.destReachable (.module m) (.coll r c) then s.issue q else s.logLost r q (.coll r c) stPEER_LOST) s

/-- A notice reaches one channel (R395); a run that has completed ignores it (R396). -/
def noticeOne (s : State) (r c : Nat) (subject cause : Nat) : State :=
  let d := fld subject 0 ||| fld cause 16
  match (s.coll r c).state with
  | .armed => (s.updColl r c fun x => { x with detail := d, stepsDone := 0 }).runEnd r c stABORTED
  | .running =>
    if (s.coll r c).ending.isSome || s.runComplete r c then s
    else
      (s.updColl r c fun x => { x with state := .stopping, stop := some stABORTED, detail := d }).sendNotices r c subject cause
  | _ => s

/-- A write of FAB_COLL_ABORT acts on every channel of the package with the STRUM_ID (R395). -/
def collNotice (s : State) (v : W64) : State :=
  (s.colls.filter fun x => s.strumId x.1.1 x.1.2 == bits v 15 0).foldl (fun s x =>
    s.noticeOne x.1.1 x.1.2 (bits v 31 16) (bits v 39 32)) s

/-- ABORT of a channel, sent on to the peers of its run (Table 11.12). -/
def strumAbort (s : State) (ag : Agent) (r c : Nat) : State :=
  match (s.coll r c).state with
  | .armed => (s.sendNotices r c s.moduleId stABORTED).noticeOne r c s.moduleId stABORTED
  | .running => s.noticeOne r c s.moduleId stABORTED
  | _ => s.refuseColl ag r c stSTATE

/-- A peer of a running channel is lost (R394). -/
def peerLost (s : State) (r c m step slot : Nat) : State :=
  if (s.coll r c).state = .running ∧ (s.coll r c).ending.isNone ∧ !s.runComplete r c then
    let d := fld m 0 ||| fld step 16 ||| fld slot 32
    (s.updColl r c fun x => { x with state := .stopping, stop := some stPEER_LOST, detail := d, lost := some m }).sendNotices
      r c m stPEER_LOST
  else s

/-- The module that an entry meets on a port. -/
def peerOn (s : State) (e : StrumEntry) (q : Nat) : Nat := if e.receives ∧ q = e.port then e.peer else (s.port q).peerModule

/-- The ports of a run from step `k` on, then those of its earlier steps: the first that fails a test makes its peer lost (R394). -/
def portsLost (s : State) (r c k : Nat) (bad : Nat → Bool) : State :=
  let es := (s.coll r c).entries
  let used := ((es.filter fun e => decide (k ≤ e.step)) ++ es.filter fun e => decide (e.step < k)).flatMap fun e => e.ports.map fun q => (q, e)
  match used.find? fun (q, _) => bad q with
  | some (q, e) => s.peerLost r c (s.peerOn e q) e.step e.slot
  | none => s

/-- Port `q` has left ACTIVE since `old`, the state before the command: also where a changed HELLO has brought it back (Table 10.8). -/
def leftActive (old s : State) (q : Nat) : Bool := (s.port q).state != .active || (s.port q).left != (old.port q).left

/-- A port that has left ACTIVE makes its peer lost at once, on every channel whose run uses it (R394). -/
def collPorts (old s : State) : State :=
  s.colls.foldl (fun s x => if x.2.state = .running then s.portsLost x.1.1 x.1.2 (s.stepNow x.1.1 x.1.2) (leftActive old s) else s) s

/-- The peer of a receive entry is silent 1 us after its slot, or a port that an entry uses has left ACTIVE (R394). -/
def peerSilent (s : State) (r c i : Nat) : State :=
  let x := s.coll r c
  match x.entries[i]? with
  | some e =>
    let p := entryProgress x i
    let k := s.stepNow r c
    if x.state ≠ .running ∨ x.ending.isSome then s
    else
      match e.ports.find? fun q => (s.port q).state != .active with
      | some q => s.peerLost r c (s.peerOn e q) e.step e.slot
      | none =>
        if e.receives ∧ 0 < e.len ∧ e.step = k ∧ s.startFret r c ≤ s.fret ∧ p.got = [] ∧ p.waiting = [] ∧ e.slot < s.slot then
          s.peerLost r c e.peer e.step e.slot
        else s
  | none => s

/-! ### Starting (R387) -/

/-- The entries of a run placed in frets: (fret, slot, port) of its transmit and of its receive entries. -/
def placed (f : Nat) (es : List StrumEntry) (tx : Bool) : List (Nat × Nat × Nat) :=
  es.filterMap fun e =>
    if tx then e.transmits.map fun (p, sl) => (f + e.step, sl, p)
    else if e.receives then some (f + e.step, e.slot, e.port) else none

/-- A list holds some element twice. -/
def repeats (l : List (Nat × Nat × Nat)) : Bool :=
  match l with
  | [] => false
  | x :: xs => xs.contains x || repeats xs

/-- The conflicts of R387 with the runs that are ARMED or RUNNING. -/
def startConflict (s : State) (r c : Nat) : Bool :=
  let live := s.colls.filter fun x => x.1 != (r, c) && (x.2.state == .armed || x.2.state == .running)
  let mine := s.coll r c
  let f := s.startFret r c
  let all (tx : Bool) := placed f mine.entries tx ++ live.flatMap fun x => placed (s.startFret x.1.1 x.1.2) x.2.entries tx
  let due (fr : Nat) : Nat :=
    (mine.entries.filter fun e => f + e.step == fr).length +
      (live.filter (·.1.1 == r)).foldl (fun n x => n + (x.2.entries.filter fun e => s.startFret x.1.1 x.1.2 + e.step == fr).length) 0
  repeats (all true) || repeats (all false) || live.any (fun x => s.strumId x.1.1 x.1.2 == s.strumId r c) ||
    mine.entries.any fun e => decide (1024 < due (f + e.step))

/-- START (R387). -/
def strumStart (s : State) (ag : Agent) (r c : Nat) : State :=
  if (s.coll r c).state ≠ .loaded ∨ s.mgmt.state = .quiesce then s.refuseColl ag r c stSTATE
  else
    let f := s.startFret r c
    let st := if s.time.lock ≠ .locked then stSTATE
      else if s.fret + 2 ^ 31 < f ∨ s.startConflict r c then stRANGE
      else if f ≤ s.fret + 1 then stOVERRUN
      else if s.kiln.collFailed.contains r then stSELFTEST else stOK
    if st = stOVERRUN ∨ st = stSELFTEST then (s.updColl r c fun x => { x with detail := 0, stepsDone := 0 }).runEnd r c st
    else if st ≠ stOK then s.updColl r c fun x => { x with lastStatus := st, detail := 0 }
    else s.updColl r c fun x =>
      { x with state := .armed, progress := [], stepsDone := 0, detail := 0, bad := none, stop := none, ending := none, lost := none }

/-! ### Slots and flits (R378 to R385) -/

/-- Every entry that orders and lies before `e` is complete (R384). -/
def mayRun (x : CollChan) (e : StrumEntry) : Bool :=
  (indexed x).all fun (i, d) => !(d.orders && d.before e) || (entryProgress x i).done

/-- A rejected record is recorded once (R391). -/
def recordBad (x : CollChan) (st off : Nat) : CollChan := if x.bad.isSome then x else { x with bad := some (st, off) }

/-- Bytes written into the buffer; a write that its home discards is recorded (R306). -/
def collWrite (s : State) (r c off : Nat) (bs : List Byte) : State :=
  match s.writeBytes (s.collAgent r) (s.bufBase r c + off) bs with
  | (s, none) => s
  | (s, some (st, _)) => s.updColl r c fun x => recordBad x st off

/-- One 32-byte record combined into the buffer (R79, R390, R391). -/
def combineRecord (s : State) (r c off w : Nat) : State :=
  let a := s.bufBase r c + off
  let ag := s.collAgent r
  let (s, bs, bad) := s.readBytes ag a 32
  match bad with
  | some p => (s.log r stPOISON 2 ag.code (p / 8 * 8) 0).updColl r c fun x => recordBad x stPOISON off
  | none =>
    match rawCombine (leNat bs) w with
    | (st, v) => if st ≠ stOK then s.updColl r c fun x => recordBad x st off else s.collWrite r c off (leBytes 32 v)

/-- Records combined one after another. -/
def combineAll (s : State) (r c off : Nat) : List Nat → State
  | [] => s
  | w :: ws => combineAll (s.combineRecord r c off w) r c (off + 32) ws

/-- The records of a byte list. -/
def recordsOf (bs : List Byte) : List Nat := (List.range (bs.length / 32)).map fun i => leNat ((bs.drop (32 * i)).take 32)

/-- LOCAL_COMBINE (Table 11.5), record by record. -/
def localCombine (s : State) (r c : Nat) (e : StrumEntry) : State :=
  (List.range (e.len / 32)).foldl (fun s i =>
    let (s, bs, bad) := s.readBytes (s.collAgent r) (s.bufBase r c + e.aux + 32 * i) 32
    match bad with
    | some p => (s.log r stPOISON 2 (s.collAgent r).code (p / 8 * 8) 0).updColl r c fun x => recordBad x stPOISON (e.aux + 32 * i)
    | none => s.combineRecord r c (e.offset + 32 * i) (leNat bs)) s

/-- The flits of SEND (R382). From the flit on that would hold a poisoned word none is sent (R294): its receiver finds it missing. -/
def sendEntry (s : State) (r c : Nat) (e : StrumEntry) : State :=
  let a := s.bufBase r c + e.offset
  let (s, bs, bad) := s.readBytes (s.collAgent r) a e.len
  let n := match bad with | some p => (p - a) / schedBytes | none => e.flits
  let s := match bad with
    | some p => (s.log r stPOISON 2 (s.collAgent r).code (p / 8 * 8) 0).updColl r c fun x => recordBad x stPOISON e.offset
    | none => s
  let s := (List.range n).foldl (fun s i =>
    let part := (bs.drop (schedBytes * i)).take schedBytes
    let f : SchedFlit := { src := s.moduleId, strumId := s.strumId r c, fretLo := (s.startFret r c + e.step) % 65536, slot := e.slot,
                           index := i, len := e.len, data := part ++ List.replicate (schedBytes - part.length) 0 }
    s.sendItem e.port { vc := 7, flits := 1, msg := .sched e.port f }) s
  s.bump (FAB_COLL_CH_BYTES_TX r c) (min e.len (schedBytes * n))

/-- Bytes of an entry's data that a flit carries. -/
def flitLen (e : StrumEntry) (f : SchedFlit) : Nat := min schedBytes (e.len - schedBytes * f.index)

/-- A flit of FORWARD sent on in the next slot, with SRC and SLOT rewritten (Table 11.5). -/
def sendOn (s : State) (r c : Nat) (e : StrumEntry) (f : SchedFlit) : State :=
  (s.sendItem e.port2 { vc := 7, flits := 1, msg := .sched e.port2 { f with src := s.moduleId, slot := e.slot + 1 } }).bump
    (FAB_COLL_CH_BYTES_TX r c) (flitLen e f)

/-- A received flit has its effect on the buffer. -/
def writeFlit (s : State) (r c : Nat) (e : StrumEntry) (f : SchedFlit) : State :=
  let n := flitLen e f
  let bs := f.data.take n
  let off := e.offset + schedBytes * f.index
  let s := if e.op = 3 then s.combineAll r c off (recordsOf bs) else s.collWrite r c off bs
  s.bump (FAB_COLL_CH_BYTES_RX r c) n

/-- A waiting flit acts, unless it must wait for a line of the buffer. -/
def serveFlit (s : State) (r c : Nat) (e : StrumEntry) (f : SchedFlit) : Option State :=
  if e.op = 4 then some (s.sendOn r c e f)
  else if s.rangeWaits (s.bufBase r c + e.offset + schedBytes * f.index) (flitLen e f) true then none
  else some (s.writeFlit r c e f)

/-- The waiting flits of a receive entry that can act now do so; the entry completes with its last one (R384), one of no bytes at its
slot (Table 11.6). -/
def serveReceive (s : State) (r c i : Nat) (e : StrumEntry) : State :=
  let x := s.coll r c
  let p := entryProgress x i
  if p.done ∨ s.fret < s.startFret r c + e.step then s
  else if e.len = 0 then
    if e.slot ≤ s.slot then s.updColl r c fun x => setProgress x i { p with done := true } else s
  else
    let ready := if e.op = 4 then s.slot == e.slot + 1 else mayRun x e
    if !ready then s
    else
      let (s, put, left) := p.waiting.foldl (fun (s, put, left) f => match s.serveFlit r c e f with
        | some s => (s, put ++ [f.index], left)
        | none => (s, put, left ++ [f])) (s, p.put, [])
      s.updColl r c fun x => setProgress x i { p with put := put, waiting := left, done := decide (put.length = e.flits) }

/-- The lines of a SEND or LOCAL_COMBINE must wait. -/
def entryWaits (s : State) (r c : Nat) (e : StrumEntry) : Bool :=
  let base := s.bufBase r c
  s.rangeWaits (base + e.offset) e.len (e.op != 1) || (e.op == 5 && s.rangeWaits (base + e.aux) e.len false)

/-- An entry involves the lost peer of its run (R394). -/
def involved (s : State) (x : CollChan) (e : StrumEntry) : Bool :=
  x.lost.isSome && ((e.receives && some e.peer == x.lost) || e.transmits.any fun t => some (s.port t.1).peerModule == x.lost)

/-- The entries of a channel that can act in the current slot, in order. -/
def serveChannel (s : State) (r c : Nat) : State :=
  let x := s.coll r c
  let k := s.stepNow r c
  if !(x.state = .running ∨ x.state = .stopping) ∨ x.ending.isSome ∨ s.fret < s.startFret r c then s
  else
    (indexed x).foldl (fun s (i, e) =>
      let x := s.coll r c
      let p := entryProgress x i
      if e.step ≠ k ∨ p.done ∨ s.involved x e then s
      else if e.receives then s.serveReceive r c i e
      else if e.slot < s.slot ∧ e.op = 1 ∧ e.len ≠ 0 then s
      else if s.slot < e.slot then s
      else if e.len ≠ 0 ∧ (!mayRun x e ∨ s.entryWaits r c e) then s
      else
        let s := if e.op = 1 then s.sendEntry r c e else s.localCombine r c e
        s.updColl r c fun x => setProgress x i { p with done := true }) s

/-- Every channel of every live region acts, in increasing channel number (R389). -/
def serveAll (s : State) : State :=
  s.liveRegions.foldl (fun s r => (List.range 64).foldl (fun s c =>
    if (s.colls.find (r, c)).isSome then s.serveChannel r c else s) s) s

/-- What waited for a line of its buffer goes on. -/
def settleColls (s : State) : State := if s.colls = [] then s else s.serveAll

/-- A slot begins (R378). -/
def slotStart (s : State) (n : Nat) : State := (({ s with slot := n % 64 } : State).dropSched).serveAll

/-- Flits that wait in the scheduled receive buffer of a port (R384). -/
def bufferedOn (s : State) (k : Nat) : Nat :=
  s.colls.foldl (fun n x => (indexed x.2).foldl (fun n (i, e) =>
    if e.port = k ∧ e.receives then n + (entryProgress x.2 i).waiting.length else n) n) 0

/-- The receive entry that a SCHED flit matches (R385): region, channel, index and entry. -/
def matchFlit (s : State) (k : Nat) (f : SchedFlit) : Option (Nat × Nat × Nat × StrumEntry) :=
  (s.colls.flatMap fun x =>
    if (x.2.state == .running || x.2.state == .stopping) && x.2.ending.isNone && s.strumId x.1.1 x.1.2 == f.strumId then
      (indexed x.2).filterMap fun (i, e) =>
        if e.receives && e.port == k && e.slot == f.slot && e.peer == f.src && e.len == f.len &&
            (s.startFret x.1.1 x.1.2 + e.step) % 65536 == f.fretLo && decide (s.fret ≤ s.startFret x.1.1 x.1.2 + e.step)
        then some (x.1.1, x.1.2, i, e) else none
    else []).head?

/-- A SCHED flit arrives (R384, R385). -/
def schedFlit (s : State) (k : Nat) (f : SchedFlit) : State :=
  let drop := s.bump (FAB_COLL_SCHED_DISCARD (k / 4)) 1
  match s.matchFlit k f with
  | none => drop
  | some (r, c, i, e) =>
    let p := entryProgress (s.coll r c) i
    if p.got.contains f.index ∨ e.flits ≤ f.index then drop
    else
      let now := (decide (s.startFret r c + e.step ≤ s.fret)) && (if e.op = 4 then s.slot == e.slot + 1 else mayRun (s.coll r c) e)
      if !now ∧ 512 ≤ s.bufferedOn k then s.bump (FAB_COLL_RX_OVERFLOW (k / 4)) 1
      else
        let s := s.updColl r c fun x => setProgress x i { p with got := p.got ++ [f.index], waiting := p.waiting ++ [f] }
        if s.involved (s.coll r c) e then s else (s.serveReceive r c i e).serveChannel r c

/-! ### Marks (R387, R393, R394) -/

/-- Entries of a step that come from the spill area: those that the hardware table has had no room for (R386, R387, log 171). -/
def spillDue (x : CollChan) (k : Nat) : Nat := ((indexed x).filter fun (i, e) => e.step == k && decide (x.inHw ≤ i)).length

/-- One channel at the mark that makes the counter `m`. -/
def collMarkOne (s : State) (r c m : Nat) : State :=
  let x := s.coll r c
  let f := s.startFret r c
  let spill (s : State) (k : Nat) : State := s.bump (FAB_STRUM_SPILL_ENTRIES r) (spillDue x k)
  let ports (s : State) (k : Nat) : State := s.portsLost r c k fun q => (s.port q).state != .active || (s.port q).width != 3
  match x.state with
  | .armed =>
    if m = f then
      if x.entries = [] then (s.updColl r c fun x => { x with state := .running, stepsDone := 0, ending := some stOK })
      else ports ((spill s 1).updColl r c fun x => { x with state := .running }) 0
    else if m + 1 = f then spill s 0 else s
  | .running =>
    if x.ending.isSome then s
    else
      let k := m - 1 - f
      if !stepDone x k then
        let i := (indexed x).find? fun (i, e) => e.step == k && !(entryProgress x i).done
        let d := match i with
          | some (_, e) => fld (if e.receives then e.peer else s.moduleId) 0 ||| fld e.step 16 ||| fld e.slot 32
          | none => 0
        (s.updColl r c fun x => { x with ending := some stOVERRUN, stepsDone := k, detail := d }).sendNotices r c s.moduleId stOVERRUN
      else if k = lastStep x then
        -- the run has completed; its end is still to be written
        s.updColl r c fun x => { x with ending := some (runResult x).1, detail := (runResult x).2, stepsDone := k + 1 }
      else ports ((spill s (k + 2)).updColl r c fun x => { x with stepsDone := k + 1 }) (k + 1)
  | .stopping => if x.ending.isSome then s else s.updColl r c fun x =>
    { x with ending := x.stop, stepsDone := if stepDone x (m - 1 - f) then m - f else m - 1 - f }
  | _ => s

/-- The collective channels at a mark. -/
def collMark (s : State) (m : Nat) : State :=
  s.colls.foldl (fun s x => if s.regionLive x.1.1 then s.collMarkOne x.1.1 x.1.2 m else s) s

/-- Epoch adoption aborts a run (R38, R396), but for one that has ended or completed. -/
def collAbortOne (s : State) (r c : Nat) : State :=
  let x := s.coll r c
  match x.state with
  | .armed => (s.updColl r c fun y => { y with detail := 0, stepsDone := 0 }).runEnd r c stABORTED
  | .running | .stopping =>
    if x.ending.isSome then s
    else if x.state = .running ∧ s.runComplete r c then
      s.updColl r c fun y => { y with ending := some (runResult y).1, detail := (runResult y).2, stepsDone := s.stepNow r c + 1 }
    else s.updColl r c fun y => { y with ending := some stABORTED, detail := 0 }
  | _ => s

/-- Epoch adoption and the runs of every channel (R38, R396). -/
def collEpochAbort (s : State) : State := s.colls.foldl (fun s x => s.collAbortOne x.1.1 x.1.2) s

/-- STATUS of a channel (Table 11.12). -/
def collStatus (s : State) (r c : Nat) : W64 :=
  let x := s.coll r c
  fld x.state.code 0 ||| fld x.lastStatus 8 ||| fld x.stepsDone 32

/-- The counters that FAB_COLL_COUNT_CLEAR zeroes (Table 11.14). -/
def collCounters (r : Nat) : List Reg :=
  [FAB_STRUM_SPILL_ENTRIES r, FAB_COLL_SCHED_DISCARD r, FAB_COLL_RX_OVERFLOW r] ++
    (List.range 64).flatMap fun c => [FAB_COLL_CH_BYTES_TX r c, FAB_COLL_CH_BYTES_RX r c]

end State
end Sys2Proof.Machine
end

