-- ==== Sys2Proof/Machine/Unary.lean ====
section
/-!
DEFINITION. The functions of VE_UNARY that the spec bounds (R544, Table 4.9): the value of each, in fixed point and far finer than
its bound, and the FP32 results that lie within the bound. Which of them is delivered is a free value.
-/
namespace Sys2Proof.Machine
namespace Fix

/-- Bits of a fixed-point number below the point: the least FP32 unit, 2^-149, has 171 bits below it. -/
def prec : Nat := 320
def one : Int := 2 ^ prec
def mul (a b : Int) : Int := a * b / one
def div (a b : Int) : Int := a * one / b

/-- `p + p sq / 3 + p sq^2 / 5 + ...`, from the `i`-th term on. -/
def oddSeries (sq : Int) : Nat → Nat → Int → Int
  | 0, _, _ => 0
  | n + 1, i, p => p / (2 * i + 1) + oddSeries sq n (i + 1) (mul p sq)

/-- `t + t x / (i + 1) + t x^2 / ((i + 1) (i + 2)) + ...`. -/
def expSeries (x : Int) : Nat → Nat → Int → Int
  | 0, _, _ => 0
  | n + 1, i, t => t + expSeries x n (i + 1) (mul t x / (i + 1))

/-- `t - t x^2 / ((i + 1) (i + 2)) + ...`: the series of sine and cosine, from exponent `i` on. -/
def trigSeries (sq : Int) : Nat → Nat → Int → Int
  | 0, _, _ => 0
  | n + 1, i, t => t + trigSeries sq n (i + 2) (-(mul t sq) / ((i + 1) * (i + 2)))

def atanh (t : Int) : Int := oddSeries (mul t t) 120 0 t
def atanInv (n : Int) : Int := oddSeries (-(one / (n * n))) 160 0 (one / n)
def ln2 : Int := 2 * atanh (one / 3)
def pi : Int := 16 * atanInv 5 - 4 * atanInv 239

/-- e^x: 0 or 2^1500 beyond arguments whose results no FP32 number comes near. -/
def exp (x : Int) : Int :=
  if x < -(one * 1024) then 0
  else if one * 1024 < x then one * 2 ^ 1500
  else
    let k := x / ln2
    let y := expSeries (x - k * ln2) 100 0 one
    if 0 ≤ k then y * 2 ^ k.toNat else y / 2 ^ (-k).toNat

/-- ln x of a positive number. -/
def log (x : Int) : Int :=
  let n := x.toNat
  let e := bitLen n
  let m : Int := if e ≤ prec then n * 2 ^ (prec - e) else n / 2 ^ (e - prec)
  (e - prec : Int) * ln2 + 2 * atanh (div (m - one) (m + one))

def turn (x : Int) : Int := x - x / (2 * pi) * (2 * pi)
def sin (x : Int) : Int := let r := turn x; trigSeries (mul r r) 100 1 r
def cos (x : Int) : Int := let r := turn x; trigSeries (mul r r) 100 0 one
def sigmoid (x : Int) : Int := div one (one + exp (-x))
def sqrt (x : Int) : Int := let n := (x * one).toNat; (isqrt n (bitLen n / 2 + 1) 0 : Nat)

/-- The function of a FUNC code (Table 4.9). -/
def unary (f : Nat) (x : Int) : Int :=
  match f with
  | 3 => exp x
  | 4 => exp (mul x ln2)
  | 5 => log x
  | 6 => div (log x) ln2
  | 9 => sqrt (div one x)
  | 10 => 2 * sigmoid (2 * x) - one
  | 11 => sigmoid x
  | 12 => mul x (sigmoid (2 * mul (sqrt (div (2 * one) pi)) (x + mul (one * 44715 / 1000000) (mul x (mul x x)))))
  | 13 => mul x (sigmoid x)
  | 14 => sin x
  | _ => cos x

/-- The unit in the last place of FP32 at a magnitude. -/
def ulp (v : Int) : Int := 2 ^ max (bitLen v.natAbs - 24) (prec - 149)

/-- The bound of a function at an operand and its value (Table 4.9). -/
def bound (f : Nat) (x v : Int) : Int :=
  let u := ulp v
  match f with
  | 9 => u
  | 10 | 11 => max (2 * u) (2 ^ (prec - 26))
  | 12 => max (4 * u) (2 ^ (prec - 24))
  | 13 => max (3 * u) (2 ^ (prec - 24))
  | 14 | 15 => if one * 65536 < x.natAbs then 2 ^ (prec - 20) else 2 * u
  | _ => 2 * u

/-- What the fixed-point evaluation may be off: far below the last bit of any FP32 number near the value. -/
def slop (v : Int) : Int := v.natAbs / 2 ^ 200 + 2 ^ 140

/-- The greatest FP32 encoding, of a positive number, that is at most `n`; infinity from 2^128 on. -/
def floorWord (n : Nat) : Nat :=
  if 2 ^ (prec + 128) ≤ n then 0x7F800000
  else
    let k := bitLen n
    if k < prec - 125 then n / 2 ^ (prec - 149)
    else (k + 126 - prec) * 2 ^ 23 + (n / 2 ^ (k - 24) - 2 ^ 23)

/-- The least one that is at least `n`. -/
def ceilWord (n : Nat) : Nat := if n = 0 then 0 else min 0x7F800000 (floorWord (n - 1) + 1)

/-- FP32 encodings in the order of their values: -0 is -1, +0 is 0. -/
def floorPlace (v : Int) : Int := if 0 ≤ v then floorWord v.toNat else -1 - ceilWord (-v).toNat
def ceilPlace (v : Int) : Int := -1 - floorPlace (-v)
def wordAt (p : Int) : Nat := if 0 ≤ p then p.toNat else 2 ^ 31 + (-1 - p).toNat

/-- The operand as a fixed-point number. -/
def ofFVal : FVal → Int
  | .fin neg m e => let v : Int := m * 2 ^ (e + prec).toNat; if neg then -v else v
  | _ => 0

/-- The first place within the bound of a function at an operand, and how many follow. -/
def places (f : Nat) (x : Int) : Int × Nat :=
  let v := unary f x
  let d := bound f x v + slop v
  let lo := ceilPlace (v - d)
  (lo, (floorPlace (v + d) - lo).toNat)

end Fix

/-- The FP32 result of a bounded function: one of the encodings within its bound, a free value says which (R544). -/
def boundedUnary (f a : Nat) : Nat :=
  let (lo, n) := Fix.places f (Fix.ofFVal (dec32 a))
  Fix.wordAt (lo + (Config.unaryPick f a n).val)

end Sys2Proof.Machine
end

