-- ==== Sys2Proof/Machine/Vector.lean ====
section
/-!
DEFINITION. The vector engine (R165 to R170, R544).
-/
namespace Sys2Proof.Machine

/-- The fields of Table 4.7. -/
def Cmd.srcA (c : Cmd) : Nat := c.f 16 31 0
def Cmd.srcB (c : Cmd) : Nat := c.f 20 31 0
def Cmd.dst (c : Cmd) : Nat := c.f 24 31 0
def Cmd.aux (c : Cmd) : Nat := c.f 28 31 0
def Cmd.n (c : Cmd) : Nat := c.f 32 23 0
def Cmd.nRows (c : Cmd) : Nat := c.f 36 15 0
def Cmd.func (c : Cmd) : Nat := c.f 38 7 0
def Cmd.fmtA (c : Cmd) : Nat := c.f 39 4 0
def Cmd.fmtOut (c : Cmd) : Nat := c.f 40 4 0
def Cmd.sr (c : Cmd) : Bool := c.f 40 5 5 == 1
def Cmd.sat (c : Cmd) : Bool := c.f 40 6 6 == 1
def Cmd.srcPitch (c : Cmd) : Nat := c.f 44 15 0
def Cmd.srcBPitch (c : Cmd) : Nat := c.f 46 15 0
def Cmd.dstPitch (c : Cmd) : Nat := c.f 48 15 0
def Cmd.param (c : Cmd) : Nat := c.f 56 63 0

/-- Reserved bits of Table 4.7 and of the header. -/
def Cmd.rsv47 (c : Cmd) : Bool :=
  c.headerBad false || c.f 32 31 24 != 0 || c.f 39 7 5 != 0 || c.f 40 7 7 != 0 || c.f 41 23 0 != 0 || c.f 50 15 0 != 0 ||
    c.f 52 31 0 != 0

/-- A pitch in bytes: `packed` where the field is 0. -/
def pitchOr (field packed : Nat) : Nat := if field = 0 then packed else field * 64

/-- A non-zero pitch smaller than the row it steps over. -/
def pitchBad (field row : Nat) : Bool := field != 0 && decide (field * 64 < row)

/-- The formats of the vector engine (R166). -/
def vecFmt (f : Nat) : Bool := decide (f ≤ 4) || f == 0x08 || f == 0x10

/-- An input element widened to FP32 (R166). -/
def widen (f w : Nat) : Nat := enc32 (decodeFmt f w)

/-- The stochastic rounding bits of element `e` of row `r` (R77, R165); `coords` where AUX carries the coordinates. -/
def Cmd.rnd (c : Cmd) (coords : Bool) (seed r e : Nat) : Option Nat :=
  if c.sr then
    some (srBits (w64 seed) ((if coords then c.aux % 2 ^ 16 else 0) + r) ((if coords then c.aux / 2 ^ 16 else 0) + e))
  else none

/-- Element size in bytes. -/
def fmtBytes (f : Nat) : Nat := fmtWidth f / 8

/-- Acceptance of VE_BINARY, VE_UNARY, VE_FMA and VE_REDUCE (R181). -/
def checkVec (_ : State) (_ : Nat) (c : Cmd) : Nat :=
  let op := c.opcode
  let scalar := op == 0x40 && c.func.testBit 7
  let useB := (op == 0x40 && !scalar) || op == 0x42
  let ra := rowBytes c.fmtA c.n
  let ro := rowBytes c.fmtOut (if op = 0x43 then 1 else c.n)
  let pa := pitchOr c.srcPitch ra
  let pb := if c.srcBPitch = 0 then 0 else c.srcBPitch * 64
  firstCode [
    (c.rsv47 ||
      (if op = 0x40 then decide (5 < c.func % 16) || c.func / 16 % 8 != 0 else if op = 0x41 then decide (15 < c.func)
        else if op = 0x42 then c.func != 0 else decide (4 < c.func)) ||
      (!useB && (c.srcB != 0 || c.srcBPitch != 0)) || (scalar && c.param / 2 ^ 32 != 0) || (op == 0x43 && c.dstPitch != 0) ||
      pitchBad c.srcPitch ra || (useB && pitchBad c.srcBPitch ra) || pitchBad c.dstPitch ro ||
      rowsOut c.srcA c.nRows pa ra || (useB && rowsOut c.srcB c.nRows pb ra) ||
      (op == 0x42 && rowsOut c.aux c.nRows pb ra) || rowsOut c.dst c.nRows (pitchOr c.dstPitch ro) ro, stRANGE),
    (decide (c.srcA % 64 ≠ 0 ∨ c.dst % 64 ≠ 0) || (useB && decide (c.srcB % 64 ≠ 0)) ||
      (op == 0x42 && decide (c.aux % 64 ≠ 0)), stALIGN),
    (!vecFmt c.fmtA || !vecFmt c.fmtOut, stFORMAT)]

/-- VE_BINARY on FP32 encodings (Table 4.8, R167). -/
def vecBinary (op a b : Nat) : Nat :=
  match op with
  | 0 => fadd a b
  | 1 => enc32 ((dec32 a).add (dec32 b).neg)
  | 2 => fmul a b
  | 3 => enc32 ((dec32 a).div (dec32 b))
  | 4 => fminmax false a b
  | _ => fminmax true a b

/-- VE_UNARY on an FP32 encoding (Table 4.9, R544): exact functions, special values, and elsewhere one of the results within the bound. -/
def vecUnary (f a : Nat) : Nat :=
  let free := boundedUnary f a
  let nan := canonNan 0
  let pInf := 0x7F800000
  let nInf := 0xFF800000
  match dec32 a with
  | .nan => nan
  | v =>
    let zero := a % 2 ^ 31 == 0
    let neg := decide (2 ^ 31 ≤ a)
    let isInf := match v with | .inf _ => true | _ => false
    match f with
    | 0 => a
    | 1 => a % 2 ^ 31
    | 2 => if neg then a - 2 ^ 31 else a + 2 ^ 31
    | 3 | 4 => if isInf then (if neg then 0 else pInf) else free
    | 5 | 6 => if zero then nInf else if neg then nan else if isInf then pInf else free
    | 7 => enc32 ((FVal.ofInt 1 0).div v)
    | 8 => enc32 v.sqrt
    | 9 => if zero then (if neg then nInf else pInf) else if neg then nan else if isInf then 0 else free
    | 10 => if isInf then (if neg then 0xBF800000 else 0x3F800000) else free
    | 11 => if isInf then (if neg then 0 else 0x3F800000) else free
    | 12 | 13 => if isInf then (if neg then 0x80000000 else pInf) else free
    | _ => if isInf then nan else free

namespace State

/-- One element of the block store. -/
def elemAt (s : State) (b off f e : Nat) : Nat := s.storeNat b (off + e * fmtBytes f) (fmtBytes f)

/-- A run that stops on poison (R164, R293). -/
def poisonStop (s : State) (b : Nat) (r : Run) (off : Nat) : State × Run :=
  (s.poisonLog b off, { r with status := some stPOISON, detail := w64 off })

/-- The first poisoned byte among operand ranges (offset, length). -/
def rangesPoison (s : State) (b : Nat) : List (Nat × Nat) → Option Nat
  | [] => none
  | (off, n) :: rest => match s.storePoison b off n with
    | some p => some p
    | none => rangesPoison s b rest

/-- Offsets of element `e` of row `r` in A, B and C, as ranges. -/
def vecSources (c : Cmd) (r e : Nat) : List (Nat × Nat) :=
  let z := fmtBytes c.fmtA
  let pb := if c.srcBPitch = 0 then 0 else c.srcBPitch * 64
  let a := (c.srcA + r * pitchOr c.srcPitch (c.n * z) + e * z, z)
  if c.opcode = 0x42 then [a, (c.srcB + r * pb + e * z, z), (c.aux + r * pb + e * z, z)]
  else if c.opcode = 0x40 ∧ !c.func.testBit 7 then [a, (c.srcB + r * pb + e * z, z)]
  else [a]

/-- The FP32 result of one element of VE_BINARY, VE_UNARY or VE_FMA. -/
def vecValue (s : State) (b : Nat) (c : Cmd) (r e : Nat) : Nat :=
  let v := (vecSources c r e).map fun x => widen c.fmtA (s.storeNat b x.1 x.2)
  let a := v.getD 0 0
  if c.opcode = 0x40 then vecBinary (c.func % 16) a (if c.func.testBit 7 then c.param % 2 ^ 32 else v.getD 1 0)
  else if c.opcode = 0x42 then enc32 (((dec32 a).mul (dec32 (v.getD 1 0))).add (dec32 (v.getD 2 0)))
  else vecUnary c.func a

/-- A residue mismatch in the group that starts at the next element (R170, R483): `none` if the repeat passes.  VE_RESIDUE_RETRY counts
every repeat, as R170 says, where Table 4.20 names those that pass (DESIGN CHOICE, log 165). -/
def residue (s : State) (b : Nat) (r : Run) (err : Option ResidueError) (src : List (Nat × Nat)) : State × Option Run :=
  match err with
  | some ⟨g, el, persists⟩ =>
    if r.count ≠ 64 * g then (s, none)
    else if !persists then (s.bump (VE_RESIDUE_RETRY b) 1, none)
    else
      let s := (s.bump (VE_RESIDUE_RETRY b) 1).bump (VE_RESIDUE_FAIL b) 1
      let data := src.flatMap fun x => s.rdBytes (storeBase b + x.1) (min (64 * x.2) (storeSize - x.1))
      let s := s.tuningStart b 1 { kind := 2, block := b, fret := 0, seq := r.cmd.seq, row := r.count, col := 0,
                                   command := r.cmd.word, streamBytes := data.length, data := data }
      (s, some { r with status := some stRESIDUE, detail := w64 (64 * g + el % 64) })
  | none => (s, none)

/-- One element of VE_BINARY, VE_UNARY or VE_FMA (R166, R170, R173, R183). -/
def vecElem (s : State) (b : Nat) (r : Run) (err : Option ResidueError) : State × Run :=
  let c := r.cmd
  let row := r.count / c.n
  let e := r.count % c.n
  let src := vecSources c row e
  match s.rangesPoison b src with
  | some p => s.poisonStop b r p
  | none =>
    let checked := c.opcode == 0x42 || (c.opcode == 0x40 && decide (c.func % 16 ≤ 2))
    match s.residue b r (if checked then err else none) src with
    | (s, some r) => (s, r)
    | (s, none) =>
      let z := fmtBytes c.fmtOut
      let seed := if c.opcode = 0x40 ∧ c.func.testBit 7 then 0 else c.param
      let out := roundFmt c.fmtOut (c.rnd (c.opcode != 0x42) seed row e) c.sat (dec32 (s.vecValue b c row e))
      (s.storeWrite b (c.dst + row * pitchOr c.dstPitch (c.n * z) + e * z) (leBytes z out), { r with count := r.count + 1 })

/-- The contribution of an element to a reduction (R168). -/
def reduceIn (f x : Nat) : Nat := if f = 3 then fmul x x else if f = 4 then x % 2 ^ 31 else x

/-- The elements of lane `l` of a row, in increasing e. -/
def laneOf (l : Nat) (xs : List Nat) : List Nat := (xs.mapIdx fun i x => (i % 64, x)).filterMap fun (i, x) => if i = l then some x else none

/-- VE_REDUCE of one row of FP32 values (R167, R168). -/
def reduceRow (f : Nat) (xs : List Nat) : Nat :=
  match f with
  | 0 | 3 => tree 6 ((List.range 64).map fun l => fsum (laneOf l (xs.map (reduceIn f))))
  | 2 => match xs with
    | [] => 0x7F800000
    | x :: rest => rest.foldl (fminmax false) (fminmax false x x)
  | 1 => match xs with
    | [] => 0xFF800000
    | x :: rest => rest.foldl (fminmax true) (fminmax true x x)
  | _ => (xs.map fun x => match dec32 x with | .nan => canonNan 0 | _ => x % 2 ^ 31).foldl (fminmax true) 0

/-- One row of VE_REDUCE. -/
def reduceStep (s : State) (b : Nat) (r : Run) (err : Option ResidueError) : State × Run :=
  let c := r.cmd
  let row := r.count
  let z := fmtBytes c.fmtA
  let off := c.srcA + row * pitchOr c.srcPitch (c.n * z)
  match s.storePoison b off (c.n * z) with
  | some p => s.poisonStop b r p
  | none =>
    -- the group of 64 elements named lies in this row
    let err := match err with
      | some e => if (c.func = 0 ∨ c.func = 3) ∧ row * c.n ≤ 64 * e.group ∧ 64 * e.group < (row + 1) * c.n then some e else none
      | none => none
    let (s, stop) := match err with
      | some e => s.residue b { r with count := 64 * e.group } (some e) [(off, z)]
      | none => (s, none)
    match stop with
    | some q => (s, { q with count := row })
    | none =>
      let xs := (List.range c.n).map fun e => widen c.fmtA (s.elemAt b off c.fmtA e)
      let zo := fmtBytes c.fmtOut
      let out := roundFmt c.fmtOut (c.rnd true c.param row 0) c.sat (dec32 (reduceRow c.func xs))
      (s.storeWrite b (c.dst + row * zo) (leBytes zo out), { r with count := row + 1 })

/-- The exponent of an MX block and whether it holds a NaN or an infinity (R169). -/
def quantScale (f : Nat) (xs : List Nat) : Option (Option Int) :=
  if xs.any fun x => special 0 x then none
  else
    let a := xs.foldl (fun a x => max a (x % 2 ^ 31)) 0
    match dec32 a with
    | .fin _ m e =>
      if m = 0 then some none
      else
        let emax : Int := match f with | 0x0A => 15 | 0x0B => 8 | 0x0C => 4 | 0x0D | 0x0E => 2 | _ => 0
        some (some (max (-127) (min 127 (e + bitLen m - 1 - emax))))
    | _ => none
where
  special (f x : Nat) : Bool := match decodeFmt f x with | .fin .. => false | _ => true

/-- One 32-element block of VE_QUANT_MX (R169). -/
def quantBlock (s : State) (b : Nat) (r : Run) : State × Run :=
  let c := r.cmd
  let row := r.count / c.n
  let e0 := r.count % c.n
  let z := fmtBytes c.fmtA
  let off := c.srcA + row * pitchOr c.srcPitch (c.n * z) + e0 * z
  match s.storePoison b off (32 * z) with
  | some p => s.poisonStop b r p
  | none =>
    let xs := (List.range 32).map fun e => widen c.fmtA (s.elemAt b off c.fmtA e)
    let w := fmtWidth c.fmtOut
    let (scale, els) := match quantScale c.fmtOut xs with
      | none => (0xFF, xs.map fun _ => 0)
      | some none => (0, xs.map fun _ => 0)
      | some (some x) => ((x + 127).toNat, xs.mapIdx fun i v =>
          roundFmt c.fmtOut (c.rnd false c.param row (e0 + i)) true (match dec32 v with
            | .fin n m e => .fin n m (e - x)
            | o => o))
    let s := s.storeWrite b (c.dst + row * pitchOr c.dstPitch (c.n * w / 8) + e0 * w / 8) (leBytes (4 * w) (pack w els))
    let s := s.storeWrite b (c.aux + row * pitchOr c.dstPitch (c.n / 32) + e0 / 32) [BitVec.ofNat 8 scale]
    (s, { r with count := r.count + 32 })

/-- One pair of VE_RAW_COMBINE (R79, R166, R170). -/
def rawStep (s : State) (b : Nat) (r : Run) (err : Option ResidueError) : State × Run :=
  let c := r.cmd
  let row := r.count / c.n
  let e := r.count % c.n
  let at_ (base pitch : Nat) : Nat := base + row * pitchOr pitch (c.n * 32) + e * 32
  let src := [(at_ c.srcA c.srcPitch, 32), (at_ c.srcB c.srcBPitch, 32)]
  match s.rangesPoison b src with
  | some p => s.poisonStop b r p
  | none =>
    match s.residue b r err src with
    | (s, some r) => (s, r)
    | (s, none) =>
      match rawCombine (s.storeNat b (at_ c.srcA c.srcPitch) 32) (s.storeNat b (at_ c.srcB c.srcBPitch) 32) with
      | (st, out) =>
        if st = stOK then (s.storeWrite b (at_ c.dst c.dstPitch) (leBytes 32 out), { r with count := r.count + 1 })
        else (s, { r with status := some st })

/-- Acceptance of VE_QUANT_MX (R166, R169, R181). -/
def checkQuant (_ : State) (_ : Nat) (c : Cmd) : Nat :=
  let ra := rowBytes c.fmtA c.n
  let ro := rowBytes c.fmtOut c.n
  let rs := c.n / 32
  firstCode [
    (c.rsv47 || c.func != 0 || c.srcB != 0 || c.srcBPitch != 0 || decide (c.n % 32 ≠ 0) || pitchBad c.srcPitch ra ||
      pitchBad c.dstPitch ro || pitchBad c.dstPitch rs || rowsOut c.srcA c.nRows (pitchOr c.srcPitch ra) ra ||
      rowsOut c.dst c.nRows (pitchOr c.dstPitch ro) ro || rowsOut c.aux c.nRows (pitchOr c.dstPitch rs) rs, stRANGE),
    (decide (c.srcA % 64 ≠ 0 ∨ c.dst % 64 ≠ 0 ∨ c.aux % 64 ≠ 0), stALIGN),
    (!vecFmt c.fmtA || !isMx c.fmtOut, stFORMAT)]

/-- Acceptance of VE_RAW_COMBINE (R166, R181). -/
def checkRaw (_ : State) (_ : Nat) (c : Cmd) : Nat :=
  let z := c.n * 32
  firstCode [
    (c.rsv47 || c.func != 0 || c.sr || c.sat || c.param != 0 || pitchBad c.srcPitch z || pitchBad c.srcBPitch z ||
      pitchBad c.dstPitch z || rowsOut c.srcA c.nRows (pitchOr c.srcPitch z) z ||
      rowsOut c.srcB c.nRows (pitchOr c.srcBPitch z) z || rowsOut c.dst c.nRows (pitchOr c.dstPitch z) z, stRANGE),
    (decide (c.srcA % 64 ≠ 0 ∨ c.srcB % 64 ≠ 0 ∨ c.dst % 64 ≠ 0), stALIGN),
    (c.fmtA != 0x11 || c.fmtOut != 0x11, stFORMAT)]

/-- `n` units of a command's work, until it stops or has done `total`; then it is complete with OK. -/
def workUnits (unit : State → Run → State × Run) (total : Nat) : Nat → State → Run → State × Run
  | 0, s, r => (s, if r.status.isNone ∧ total ≤ r.count then { r with status := some stOK } else r)
  | n + 1, s, r =>
    if r.status.isSome then (s, r)
    else if total ≤ r.count then (s, { r with status := some stOK })
    else
      let (s, r) := unit s r
      workUnits unit total n s r

/-- VE_BINARY, VE_UNARY and VE_FMA. -/
def vecStep (s : State) (b op n : Nat) (err : Option ResidueError) : State :=
  s.engineStep b 1 op n checkVec fun s b r n => workUnits (fun s r => s.vecElem b r err) (r.cmd.n * r.cmd.nRows) n s r

/-- VE_REDUCE. -/
def vecReduce (s : State) (b n : Nat) (err : Option ResidueError) : State :=
  s.engineStep b 1 0x43 n checkVec fun s b r n => workUnits (fun s r => s.reduceStep b r err) r.cmd.nRows n s r

/-- VE_QUANT_MX: `n` blocks of 32. -/
def vecQuant (s : State) (b n : Nat) : State :=
  s.engineStep b 1 0x44 n checkQuant fun s b r n => workUnits (fun s r => s.quantBlock b r) (r.cmd.n * r.cmd.nRows) n s r

/-- VE_RAW_COMBINE: `n` records. -/
def vecRaw (s : State) (b n : Nat) (err : Option ResidueError) : State :=
  s.engineStep b 1 0x45 n checkRaw fun s b r n => workUnits (fun s r => s.rawStep b r err) (r.cmd.n * r.cmd.nRows) n s r

end State

end Sys2Proof.Machine
end

