-- ==== Sys2Proof/Machine/Gather.lean ====
section
/-!
DEFINITION. The gather-scatter engine (R174 to R178) and the settlement of late deadline-tagged fetches from bisque copies
(R326 to R331).
-/
namespace Sys2Proof.Machine

def Cmd.gsN (c : Cmd) : Nat := c.f 24 23 0
def Cmd.gsLocal (c : Cmd) : Nat := c.f 20 31 0
def Cmd.gsIndex (c : Cmd) : Nat := c.f 16 31 0
def Cmd.idxBytes (c : Cmd) : Nat := if c.f 27 0 0 = 1 then 8 else 4
def Cmd.oobZero (c : Cmd) : Bool := c.f 27 1 1 == 1
def Cmd.volatile (c : Cmd) : Bool := c.f 27 2 2 == 1
def Cmd.rowLen (c : Cmd) : Nat := c.f 28 31 0
def Cmd.tableBase (c : Cmd) : Nat := c.f 32 63 0
def Cmd.rowStride (c : Cmd) : Nat := c.f 40 63 0
def Cmd.tableRows (c : Cmd) : Nat := c.f 48 63 0
def Cmd.gsPitch (c : Cmd) : Nat := if c.f 56 15 0 = 0 then c.rowLen else c.f 56 15 0 * 64
def Cmd.pasid (c : Cmd) : Nat := c.f 60 19 0
/-- The opcode takes its rows from an index list. -/
def Cmd.indexedRows (c : Cmd) : Bool := c.opcode == 0x70 || c.opcode == 0x71
/-- The opcode reads memory. -/
def Cmd.gsReads (c : Cmd) : Bool := c.opcode == 0x70 || c.opcode == 0x72

/-- Memory address of row `j`, and whether its last byte lies beyond 2^64 - 1 (R175). -/
def Cmd.rowAddr (c : Cmd) (j : Nat) : Nat := c.tableBase + j * c.rowStride
def Cmd.rowWraps (c : Cmd) (j : Nat) : Bool := decide (2 ^ 64 ≤ c.rowAddr j + (c.rowLen - 1))

/-- Acceptance of the gather-scatter commands (R175, R181, R182, R326). -/
def checkGs (_ : State) (_ : Nat) (c : Cmd) : Nat :=
  firstCode [
    (c.headerBad c.gsReads || c.f 27 7 3 != 0 || c.f 58 15 0 != 0 || c.f 60 31 20 != 0 ||
      (!c.indexedRows && (c.gsIndex != 0 || c.tableRows != 0 || c.f 27 1 0 != 0)) || (!c.gsReads && c.f 27 2 2 != 0) ||
      decide (2097152 < c.rowLen) || (c.f 56 15 0 != 0 && decide (c.gsPitch < c.rowLen)) ||
      rowsOut c.gsLocal c.gsN c.gsPitch c.rowLen ||
      (c.indexedRows && decide (0 < c.gsN ∧ storeSize < c.gsIndex + c.gsN * c.idxBytes)) ||
      (c.fretKind == 2 && decide (8192 < c.rowLen)) ||
      (!c.indexedRows && decide (0 < c.gsN) && c.rowWraps (c.gsN - 1)), stRANGE),
    (decide (c.gsLocal % 64 ≠ 0) || (c.indexedRows && decide (c.gsIndex % c.idxBytes ≠ 0)), stALIGN)]

namespace State

/-- A gather-scatter command stops with a status. -/
def gsStop (s : State) (r : Run) (st : Nat) (detail : W64) : State × Run :=
  (s, { r with status := some st, detail := detail, bisque := r.bisque || decide (0 < r.bisqueRows) })

/-- The end of a command whose every row is issued or settled (R178, R327): it has ended once its writes are acknowledged. -/
def gsEnd (s : State) (r : Run) : State × Run :=
  (s, { r with stopping := some (if 0 < r.bisqueRows then stBISQUE_USED else stOK), detail := r.gsDetail,
               bisque := decide (0 < r.bisqueRows) })

/-- What becomes of row i before its data moves. -/
inductive RowPlan where
  | move (j : Nat)
  | zeroOrSkip
  | stop (s : State) (st : Nat) (detail : W64)

/-- The plan of a row (R175, R176): its index read from the block store. -/
def gsPlan (s : State) (b : Nat) (r : Run) (i : Nat) : RowPlan :=
  let c := r.cmd
  if !c.indexedRows then .move i
  else
    let at_ := c.gsIndex + i * c.idxBytes
    match s.storePoison b at_ c.idxBytes with
    | some p => .stop (s.poisonLog b p) stPOISON (w64 p)
    | none =>
      let j := s.storeNat b at_ c.idxBytes
      if c.tableRows ≤ j then (if c.oobZero then .zeroOrSkip else .stop s stRANGE (w64 j))
      else if c.rowWraps j then .stop s stRANGE (w64 j)
      else .move j

/-- A row zero-filled by a gather, skipped by a scatter (R176). -/
def gsZero (s : State) (b : Nat) (r : Run) : State × Run :=
  let c := r.cmd
  let s := if c.gsReads then s.storeWrite b (c.gsLocal + r.count * c.gsPitch) (List.replicate c.rowLen 0) else s
  (s, { r with count := r.count + 1, oob := r.oob + 1 })

/-- One row moved (R175 to R177). -/
def gsRow (s : State) (b : Nat) (r : Run) : State × Run :=
  let c := r.cmd
  let ag := blockAgent s.moduleId b
  let loc := c.gsLocal + r.count * c.gsPitch
  match s.gsPlan b r r.count with
  | .stop s st d => s.gsStop r st d
  | .zeroOrSkip => s.gsZero b r
  | .move j =>
    if c.rowLen = 0 then (s, { r with count := r.count + 1 })
    else if c.gsReads then
      match s.engRead ag (.gs b c.seq) (if c.volatile then none else some b) c.pasid (c.rowAddr j) c.rowLen with
      | .data s bs => (s.storeWrite b loc bs, { r with count := r.count + 1 })
      | .poison s va _ _ => s.gsStop r stPOISON (w64 va)
      | .fault s st va => s.gsStop r st (if st = stXLATE then w64 va else r.gsDetail)
      | .wait s => (s, r)
    else
      match s.storePoison b loc c.rowLen with
      | some p => (s.poisonLog b p).gsStop r stPOISON (w64 p)
      | none =>
        match s.engWrite ag (fun _ => .gs b c.seq) r.count c.pasid (c.rowAddr j) (s.rdBytes (storeBase b + loc) c.rowLen) with
        | .done s none => (s, { r with count := r.count + 1 })
        | .done s (some (st, _)) => s.gsStop r st r.gsDetail
        | .fault s st va => s.gsStop r st (if st = stXLATE then w64 va else r.gsDetail)
        | .wait s => (s, r)

/-! ### Bisque copies (R327 to R331) -/

/-- The slot of a region's remote bisque table that names a granule of another module (R331). -/
def rbqSlot (s : State) (region m a : Nat) : Option ((Nat × Nat) × (W64 × W64 × W64)) :=
  s.rbq.find? fun x => x.1.1 == region && x.2.2.2.toNat == globalAddr m a / 2 ^ 21 * 2 ^ 21 && x.2.1.toNat % 8 == 6

/-- The entry of a piece is looked up at settlement, through the cache of its table (R331, R332). -/
def entryLookup (s : State) (region : Nat) (p : Piece) : State :=
  match s.reach p.pa with
  | .own _ a _ => s.patLookup a
  | .remote m a => s.rbqLookup region ((s.rbqSlot region m a).map (·.1.2))
  | .badAperture => s

/-- The PAT entry that governs a piece: of the granule in the own module, or of the remote bisque table of the region. -/
def bisqueEntry (s : State) (region : Nat) (p : Piece) : Nat × Nat :=
  match s.reach p.pa with
  | .own _ a _ =>
    match patIndex a with
    | some (r, i) => let e := (s.patEntry r i).toNat; (e % 2 ^ 64, e / 2 ^ 64)
    | none => (0, 0)
  | .remote m a =>
    match s.rbqSlot region m a with
    | some (_, d0, d1, _) => (d0.toNat, d1.toNat)
    | none => (0, 0)
  | .badAperture => (0, 0)

/-- The tier of a piece: 0 for a block store, 2 to 6 (Table 9.1). -/
def tierOf (s : State) (p : Piece) : Nat :=
  match s.reach p.pa with
  | .own (.lpd ..) _ _ => 3
  | .own (.t4 ..) _ _ => 4
  | .own (.t5 ..) _ _ => 5
  | .remote .. => 6
  | .own (.store ..) _ _ => 0
  | _ => 2

/-- The offset of a piece in its granule. -/
def granuleOff (s : State) (p : Piece) : Nat :=
  match s.reach p.pa with
  | .own _ a _ => a % 2 ^ 21
  | .remote _ a => a % 2 ^ 21
  | .badAperture => 0

/-- The element at index `e` of a granule's copy, converted to the source format (R329). -/
def copyElem (s : State) (srcFmt copyFmt base e : Nat) : Nat :=
  let n := 2 ^ 21 / (fmtWidth srcFmt / 8)
  let v := if copyFmt = 0x0E then
      let nib := (s.peekNat (base + e / 2) 1 >>> (4 * (e % 2))) % 16
      let x := s.peekNat (base + n / 2 + e / 32) 1
      (if x = 0xFF then .nan else match decodeFmt 0x0E nib with
        | .fin g m k => .fin g m (k + x - 127)
        | o => o)
    else decodeFmt copyFmt (s.peekNat (base + e) 1)
  roundFmt srcFmt none true v

/-- The pieces of a row can be served from their copies: the formats, if all agree (R327). -/
def servable (s : State) (region : Nat) (ps : List Piece) (len : Nat) : Option (Nat × Nat) :=
  match ps with
  | [] => none
  | p :: _ =>
    let e0 := (s.bisqueEntry region p).1
    let src := e0 / 2 ^ 16 % 32
    let cpy := e0 / 2 ^ 24 % 32
    let w := fmtWidth src / 8
    if ps.all (fun q =>
        let e := (s.bisqueEntry region q).1
        e / 16 % 2 == 1 && e / 32 % 2 == 1 && e / 2 ^ 16 % 32 == src && e / 2 ^ 24 % 32 == cpy) ∧
        w ≠ 0 ∧ len % w = 0 ∧ s.granuleOff p % w = 0
    then some (src, cpy) else none

/-- An element of a copy is read from a poisoned word. -/
def copyPoison (s : State) (srcFmt copyFmt base e : Nat) : Bool :=
  let n := 2 ^ 21 / (fmtWidth srcFmt / 8)
  let bad (a : Nat) : Bool := (s.peekLine (a / 128)).bad (a % 128) 1
  if copyFmt = 0x0E then bad (base + e / 2) || bad (base + n / 2 + e / 32) else bad (base + e)

/-- The address in the source of the first element of a row whose copy is poisoned. -/
def gsRowPoison (s : State) (region : Nat) (ps : List Piece) (src cpy : Nat) : Option Nat :=
  let w := fmtWidth src / 8
  ps.findSome? fun p =>
    ((List.range (p.n / w)).find? fun k =>
      s.copyPoison src cpy (s.bisqueEntry region p).2 (s.granuleOff p / w + k)).map fun k => p.va + k * w

/-- The bytes of a row served from copies. -/
def copyRow (s : State) (region : Nat) (ps : List Piece) (src cpy : Nat) : List Byte :=
  let w := fmtWidth src / 8
  ps.flatMap fun p =>
    let base := (s.bisqueEntry region p).2
    (List.range (p.n / w)).flatMap fun k => leBytes w (s.copyElem src cpy base (s.granuleOff p / w + k))

/-- One row settled after the deadline (R327). -/
def gsSettleRow (s : State) (b : Nat) (r : Run) : State × Run :=
  let c := r.cmd
  let loc := c.gsLocal + r.count * c.gsPitch
  match s.gsPlan b r r.count with
  | .stop s st d => s.gsStop r st d
  | .zeroOrSkip => s.gsZero b r
  | .move j =>
    if c.rowLen = 0 then (s, { r with count := r.count + 1 })
    else
      match s.pieces c.pasid (c.rowAddr j) c.rowLen false with
      | .fault va => s.gsStop r stXLATE (w64 va)
      | .ok ps =>
        let s := ps.foldl (fun s p => s.entryLookup (b / 128) p) s
        if ps.all fun p => decide (s.tierOf p ≤ 2) then s.gsStop r stOVERRUN r.gsDetail
        else match s.servable (b / 128) ps c.rowLen with
          | some (src, cpy) =>
            match s.gsRowPoison (b / 128) ps src cpy with
            | some va => (s.logPoison (blockAgent s.moduleId b) (s.bisqueEntry (b / 128) (ps.headD ⟨0, 0, 0⟩)).2).gsStop r stPOISON (w64 va)
            | none => (s.storeWrite b loc (s.copyRow (b / 128) ps src cpy), { r with count := r.count + 1, bisqueRows := r.bisqueRows + 1 })
          | none => s.gsStop r stDEADLINE r.gsDetail

/-- Every remaining row settled, in increasing order. -/
def gsSettleRows : Nat → State → Nat → Run → State × Run
  | 0, s, _, r => s.gsEnd r
  | fuel + 1, s, b, r =>
    if r.cmd.gsN ≤ r.count then s.gsEnd r
    else
      let (s', r') := s.gsSettleRow b r
      if r'.status.isSome then (s', r') else gsSettleRows fuel s' b r'

/-- The settlement of a fetch: MGMT_MEM_BISQUE_ROWS counts the rows served. -/
def gsSettle (s : State) (b : Nat) (r : Run) : State × Run :=
  let (s, r) := gsSettleRows (r.cmd.gsN + 1) (s.dropAnswers (.gs b r.cmd.seq)) b r
  (s.bump (MGMT_MEM_BISQUE_ROWS (b / 128)) r.bisqueRows, r)

/-- `n` rows of a command; a fetch whose deadline has passed is settled (R328). -/
def gsRows : Nat → State → Nat → Run → State × Run
  | 0, s, _, r => if r.cmd.gsN ≤ r.count ∧ r.status.isNone then s.gsEnd r else (s, r)
  | n + 1, s, b, r =>
    if r.status.isSome then (s, r)
    else if r.cmd.gsN ≤ r.count then s.gsEnd r
    else
      let (s', r') := s.gsRow b r
      if r'.count = r.count ∧ r'.status.isNone then (s', r') else gsRows n s' b r'

def gsWork (s : State) (b : Nat) (r : Run) (n : Nat) : State × Run :=
  if r.status.isSome ∨ r.stopping.isSome then (s, r)
  else if r.cmd.fretKind = 2 ∧ r.cmd.target = .passed then s.gsSettle b r
  else gsRows n s b r

/-- One step of the gather-scatter engine on commands of one opcode; the read cache is empty when a command starts (R261). -/
def gsStep (s : State) (b op n : Nat) : State :=
  let s : State := if (s.activeRun b 3).isSome then s else { s with gsCache := s.gsCache.filter fun x => x.1.1 != b }
  s.engineStep b 3 op n checkGs gsWork

/-- Step 2 of a mark for a running deadline-tagged fetch whose target is the mark that made the counter `c` (R327). -/
def gsMark (s : State) (b c : Nat) : State :=
  match s.activeRun b 3 with
  | some r =>
    if r.cmd.fretKind = 2 ∧ r.cmd.target = .mark c then
      let s : State := { s with out := s.out.filter fun q => !(q.origin == .gs b r.cmd.seq && !q.posted) }
      let (s, r) := s.gsSettle b r
      s.putRun b 3 r
    else s
  | none => s

/-- A write of row `row` of a gather-scatter command was discarded (R274): the command stops with the loss, once its other writes are
acknowledged or discarded, and COUNT names no row that is not complete (R177). -/
def gsDiscard (s : State) (b seq row st : Nat) : State :=
  s.updBlock b fun x =>
    let g := x.engine 3
    let hit (r : Run) : Run :=
      if r.cmd.seq ≠ seq then r
      else
        let r := { r with count := min r.count row }
        if r.status.isSome then r else { r with stopping := some st, detail := r.gsDetail }
    x.setEngine 3 { g with started := g.started.map hit }

end State
end Sys2Proof.Machine
end

