-- ==== Sys2Proof/Machine/Dma.lean ====
section
/-!
DEFINITION. The region DMA engine (chapter 5): channels, doorbells, descriptors, transfers, completion, pause and error.
-/
namespace Sys2Proof.Machine

/-- Bits `[hi:lo]` of the field at a byte offset of a descriptor. -/
def Desc.f (d : Desc) (off hi lo : Nat) : Nat := (d.word.toNat >>> (8 * off + lo)) % 2 ^ (hi + 1 - lo)

def Desc.op (d : Desc) : Nat := d.f 0 7 0
def Desc.len (d : Desc) : Nat := d.f 4 31 0
def Desc.src (d : Desc) : Nat := d.f 8 63 0
def Desc.dst (d : Desc) : Nat := d.f 16 63 0
def Desc.fence (d : Desc) : Bool := d.f 1 5 5 == 1
def Desc.deadlineEn (d : Desc) : Bool := d.f 1 4 4 == 1
/-- Rows: a COUNT of 0 is treated as 1 (R205). -/
def Desc.nRows (d : Desc) : Nat := if d.op = 3 then max 1 (d.f 32 31 0) else 1
def Desc.total (d : Desc) : Nat := d.nRows * d.len

/-- Every byte of the descriptor is read, written or compared. -/
def Desc.moved (d : Desc) : Bool := decide (d.total ≤ d.off)

/-- A started descriptor holds the next one up no more: it is moved whole, or ended without an error (R193, R209). -/
def Desc.clear (d : Desc) : Bool := match d.status with | some st => isSuccess st | none => d.moved

/-- The source and destination address of a transfer offset (R200). -/
def Desc.srcAt (d : Desc) (o : Nat) : Nat :=
  if d.op = 3 then d.src + o / d.len * d.f 24 31 0 + o % d.len else d.src + o
def Desc.dstAt (d : Desc) (o : Nat) : Nat :=
  if d.op = 3 then d.dst + o / d.len * d.f 28 31 0 + o % d.len else d.dst + o

/-- Last byte of the source and destination extents, computed exactly (R201, R204). -/
def Desc.srcLast (d : Desc) : Nat := d.srcAt (d.total - 1)
def Desc.dstLast (d : Desc) : Nat := d.dstAt (d.total - 1)

/-- A field that must be zero is not (R204). -/
def Desc.reservedBad (d : Desc) : Bool :=
  decide (3 < d.op) || d.f 1 7 6 != 0 || d.f 38 15 0 != 0 || d.f 52 31 0 != 0 || d.f 56 63 0 != 0 ||
    (d.op != 3 && (d.f 24 63 0 != 0 || d.f 32 31 0 != 0)) || (!d.deadlineEn && d.f 48 31 0 != 0)

/-- The DETAIL of a descriptor that fails its checks at the start, 0 if it passes (R201, R204, R205). A wrap is named before
the window that it also leaves, so that it can be reported. -/
def Desc.check (d : Desc) (lo hi : Nat) : Nat :=
  if d.reservedBad then 1
  else if d.total = 0 then 0
  else
    let ext := (if d.op = 1 then [] else [(d.src, d.srcLast)]) ++ [(d.dst, d.dstLast)]
    if ext.any fun e => decide (2 ^ 64 ≤ e.2) then 3
    else if ext.any fun e => decide (e.1 < lo ∨ hi < e.2) then 2
    else if (d.op = 0 ∨ d.op = 3) ∧ d.src ≤ d.dstLast ∧ d.dst ≤ d.srcLast then 4
    else 0

/-- Offsets, outside any transfer, that name a ring write-back and a descriptor fetch. -/
def wbOff : Nat := 2 ^ 80
def fetchOff : Nat := 2 ^ 80 + 1

/-- Transfer offsets of the reads of a chunk lie above these: of its source, and of the second operand of a comparison. -/
def srcOff : Nat := 2 ^ 81
def dstOff : Nat := 2 ^ 82

namespace State

def dmaChan (s : State) (r c : Nat) : DmaChan := s.dma.get {} (r, c)
def setDma (s : State) (r c : Nat) (x : DmaChan) : State := { s with dma := s.dma.set (r, c) x }
def updDma (s : State) (r c : Nat) (f : DmaChan → DmaChan) : State := s.setDma r c (f (s.dmaChan r c))

def dmaAgent (s : State) (r : Nat) : Agent := engineAgent s.moduleId r 0
def dmaPasid (s : State) (r c : Nat) : Nat := bits (s.reg (DMA_CH_PASID r c)) 19 0
/-- Descriptors of a ring (R196). -/
def ringSize (s : State) (r c : Nat) : Nat := 2 ^ bits (s.reg (DMA_CH_RING_CFG r c)) 4 0
/-- Ring address of descriptor n (R197). -/
def ringAddr (s : State) (r c n : Nat) : Nat := (s.reg (DMA_CH_RING_BASE r c)).toNat + n % s.ringSize r c * 64

/-- Entry into a state that the channel is not in; PAUSED, ERROR and WAIT_DESC signal the event peg (R211).  A DISABLED channel goes
to ERROR by nothing (Table 5.5). -/
def dmaEnter (s : State) (r c : Nat) (st : DmaState) : State :=
  let old := (s.dmaChan r c).state
  if old = .disabled ∧ st = .error then s
  else
    let lost (x : DmaChan) : DmaChan :=
      if x.hostLost ∧ st = .error then { x with hostLost := false, lastStatus := stHOST_LOST } else x
    let s := s.updDma r c fun x => { lost x with state := st, errAfter := x.errAfter && st != .error }
    if old = st then s else
    let e := s.reg (DMA_CH_EVENT_PEG r c)
    if bit (s.reg (DMA_CH_CTRL r c)) 12 ∧ (st = .paused ∨ st = .error ∨ st = .waitDesc) then
      s.signalPeg (s.dmaAgent r) (bits e 15 0) (bits e 17 16) 1
    else s

/-- Requests of a channel that are not answered. -/
def dmaOut (s : State) (r c : Nat) : List OutReq :=
  s.out.filter fun q => match q.origin with | .dma r' c' _ _ => r' == r && c' == c | _ => false

/-- Posted writes of one descriptor that are not acknowledged: their transfer offsets. -/
def unackedOffs (s : State) (r c seq : Nat) : List Nat :=
  s.out.filterMap fun q => match q.origin with
    | .dma r' c' n o => if r' = r ∧ c' = c ∧ n = seq ∧ q.posted then some o else none
    | _ => none

/-- Reads of a channel that satisfy `p` (descriptor, offset) are given up, with the data that arrived for them. -/
def dropReads (s : State) (r c : Nat) (p : Nat → Nat → Bool) : State :=
  let mine (o : Origin) : Bool := match o with | .dma r' c' n k => r' == r && c' == c && p n k | _ => false
  { s with out := s.out.filter (fun q => q.posted || !mine q.origin), answers := s.answers.filter fun a => !mine a.origin }

/-- Sequence numbers of descriptors that the channel has given up lie above this. -/
def givenUp : Nat := 2 ^ 100

/-- Writes of the descriptors `p` belong to no started descriptor any more: a later one may take the same number. -/
def disown (s : State) (r c : Nat) (p : Nat → Bool) : State :=
  { s with out := s.out.map fun q => match q.origin with
      | .dma r' c' n k => if r' = r ∧ c' = c ∧ n < givenUp ∧ p n then { q with origin := .dma r c (n + givenUp) k } else q
      | _ => q }

/-- The offset below which every byte of a descriptor is written and acknowledged (R203). -/
def ackedOff (s : State) (r c : Nat) (d : Desc) : Nat :=
  (s.unackedOffs r c d.seq).foldl min (if d.status.isSome then d.done else d.off)

/-- A descriptor replaced among the started ones. -/
def putDesc (s : State) (r c : Nat) (d : Desc) : State :=
  s.updDma r c fun x => { x with started := x.started.map fun e => if e.seq = d.seq then d else e }

/-- A descriptor stops with a status and its DONE, and its reads are given up (R206). -/
def stopDesc (s : State) (r c : Nat) (d : Desc) (st : Nat) (detail : W64) (done : Nat) : State :=
  (s.putDesc r c { d with status := some st, detail := detail, done := done }).dropReads r c fun n k => n == d.seq && k != fetchOff

/-- A started descriptor that is moved whole, with every write acknowledged, has the status OK (R203, R208). -/
def settleDescs (s : State) (r c : Nat) : State :=
  s.updDma r c fun x => { x with started := x.started.map fun d =>
    if d.status.isNone ∧ d.moved ∧ s.unackedOffs r c d.seq = [] then { d with status := some stOK, done := d.off } else d }

/-- The status and detail of a fault of a transfer (R206, Table 5.3). -/
def faultDetail (st va dst : Nat) : W64 :=
  if st = stXLATE ∨ st = stPOISON then w64 va else if st = stRANGE then 5 else w64 dst

/-- The source of a descriptor lies in tiers T3 to T6 (R207). -/
def lateSource (s : State) (r c : Nat) (d : Desc) : Bool :=
  d.op != 1 && d.total != 0 &&
    match s.pieces (s.dmaPasid r c) d.src 1 false with
    | .ok (p :: _) => decide (3 ≤ s.tierOf p)
    | _ => false

/-- A descriptor that missed its target mark (R207). -/
def missDesc (s : State) (r c : Nat) (d : Desc) : State :=
  s.stopDesc r c d (if s.lateSource r c d then stDEADLINE else stOVERRUN) 0 d.off

/-! ### Fetching (R196, R197, R212, R213) -/

/-- The channel may fetch the descriptor at FETCH_SEQ: its target is ahead, fewer than 8 are started, and each started
one has issued all of its reads and writes without an error. -/
def mayFetch (s : State) (r c : Nat) : Bool :=
  let x := s.dmaChan r c
  x.target.any (fun t => decide (x.fetchSeq ≤ t)) && decide (x.started.length < 8) &&
    x.started.all (·.clear)

/-- A ring fault (R210). -/
def dmaRingFault (s : State) (r c addr : Nat) : State :=
  ((s.updDma r c fun x => { x with lastStatus := stXLATE, tries := none }).setReg (DMA_CH_ERR_ADDR r c) (w64 addr)).dmaEnter
    r c .error

/-- A valid descriptor starts: its checks are made and its target is taken (R197, R204, R207). -/
def startDesc (s : State) (r c : Nat) (w : BitVec 512) : State :=
  let x := s.dmaChan r c
  let d0 : Desc := { seq := x.fetchSeq, word := w }
  let chk := d0.check (s.reg (DMA_CH_WIN_LO r c)).toNat (s.reg (DMA_CH_WIN_HI r c)).toNat
  let t := targetOf s (if d0.deadlineEn then 1 else 0) (d0.f 48 31 0)
  let d : Desc := { d0 with target := t, status := if chk ≠ 0 then some stRANGE else none, detail := w64 chk }
  let s := s.setDma r c { x with fetchSeq := x.fetchSeq + 1, started := x.started ++ [d], tries := none }
  if chk = 0 ∧ t = .passed then s.missDesc r c d else s

/-- One fetch of the descriptor at FETCH_SEQ, `more` of them re-fetches that REFETCH counts: started if it is valid, else `late`
says what the channel does. -/
def fetchOnce (s : State) (r c more : Nat) (late : State → State) : State :=
  let x := s.dmaChan r c
  let a := s.ringAddr r c x.fetchSeq
  let count (s : State) : State := if more = 0 then s else s.bump (DMA_CH_REFETCH r c) more
  match s.engRead (s.dmaAgent r) (.dma r c x.fetchSeq fetchOff) none (s.dmaPasid r c) a 64 with
  | .data s' bs =>
    let w := BitVec.ofNat 512 (leNat bs)
    let d : Desc := { seq := x.fetchSeq, word := w }
    if d.f 1 0 0 = 1 ∧ d.f 2 7 0 = x.fetchSeq / s.ringSize r c % 256 then
      if d.fence ∧ x.started ≠ [] then s else (count s').startDesc r c w
    else late (count s')
  | .wait s' => s'
  | .fault s' _ _ => (count s').dmaRingFault r c a
  | .poison s' .. => (count s').dmaRingFault r c a

/-- DESC_FETCH: the first fetch of a descriptor in ACTIVE (R213). -/
def descFetch (s : State) (r c : Nat) : State :=
  let x := s.dmaChan r c
  if x.state = .active ∧ x.tries = none ∧ s.mayFetch r c then
    s.fetchOnce r c 0 fun s => s.updDma r c fun y => { y with tries := some 0 }
  else s

/-- WAIT_DESC is entered when the eighth re-fetch has failed and no descriptor remains started (R213). -/
def maybeWait (s : State) (r c : Nat) : State :=
  let x := s.dmaChan r c
  if x.state = .active ∧ x.tries = some 8 ∧ x.started = [] then s.dmaEnter r c .waitDesc else s

/-- DESC_REFETCH: one of the 8 re-fetches, 250 ns apart (R213). -/
def descRefetch (s : State) (r c : Nat) : State :=
  let x := s.dmaChan r c
  match x.tries with
  | some k =>
    if x.state = .active ∧ k < 8 ∧ s.mayFetch r c then
      s.fetchOnce r c 1 fun s =>
        (s.updDma r c fun y => { y with tries := some (k + 1) }).maybeWait r c
    else s
  | none => s

/-- The re-check of WAIT_DESC at a mark or an accepted doorbell (R213). -/
def waitRecheck (s : State) (r c : Nat) : State :=
  if (s.dmaChan r c).state = .waitDesc then
    let s := s.fetchOnce r c 1 fun s => s
    if (s.dmaChan r c).started ≠ [] ∧ (s.dmaChan r c).state = .waitDesc then s.dmaEnter r c .active else s
  else s

/-- The sequence number that a doorbell names, if any (R212). -/
def doorbellSeq (s : State) (r c : Nat) (v : W64) : Option Nat :=
  let size := s.ringSize r c
  let f := (s.dmaChan r c).fetchSeq
  let n := f + (bits v 15 0 + size - f % size) % size
  if bits v 63 24 = 0 ∧ bits v 15 0 < size ∧ n / size % 256 = bits v 23 16 then some n else none

/-- A refused write of a channel register (R217). -/
def dmaRefuse (s : State) (ag : Agent) (g : Reg) (st : Nat) : State :=
  s.log (g / 0x100000000) st 1 ag.code (g % 0x100000000) 0

/-- DMA_DOORBELL (R212, Table 5.5). -/
def dmaDoorbell (s : State) (ag : Agent) (r c : Nat) (v : W64) : State :=
  let x := s.dmaChan r c
  if x.state = .disabled then s.dmaRefuse ag (DMA_CH_DOORBELL r c) stSTATE
  else match s.doorbellSeq r c v with
    | none => s.bump (DMA_CH_DB_IGNORED r c) 1
    | some n =>
      let s := s.setDma r c { x with target := some (max n (x.target.getD 0)) }
      match x.state with
      | .idle => s.dmaEnter r c .active
      | .waitDesc => s.waitRecheck r c
      | _ => s

/-! ### Transfers (R193, R200 to R207) -/

/-- The descriptor that moves data: the first started one that holds the next ones up, if it has not ended (R193). -/
def activeDesc (s : State) (r c : Nat) : Option Desc :=
  match (s.dmaChan r c).started.find? fun d => !d.clear with
  | some d => if d.status.isNone then some d else none
  | none => none

/-- Bytes of the next chunk: within a row and a line of the destination, so that a line is written at once (R258). -/
def chunkLen (d : Desc) : Nat :=
  let o := d.off
  min (d.len - o % d.len) (min (d.total - o) (128 - d.dstAt o % 128))

/-- Bytes of the next chunk that can be read: up to the source's next page where the part in that page faults (R206). -/
def chunkReads (s : State) (r c : Nat) (d : Desc) : Nat :=
  let n := chunkLen d
  let page := 4096 - d.srcAt d.off % 4096
  if d.op = 1 ∨ n ≤ page then n
  else match s.pieces (s.dmaPasid r c) (d.srcAt d.off) n false with
    | .fault _ => page
    | .ok ps => if (s.badPiece (.dma r c d.seq (srcOff + d.off)) ps).isSome then page else n

/-- The first offset at which two byte lists differ. -/
def firstDiff : List Byte → List Byte → Nat → Option (Nat × Byte × Byte)
  | a :: as, b :: bs, i => if a = b then firstDiff as bs (i + 1) else some (i, a, b)
  | _, _, _ => none

/-- Issued writes of a region's engine that are not acknowledged: 8,192 entries of its list and 262,144 of the spill area hold
them (R195, Table 9.5). -/
def dmaIssued (s : State) (r : Nat) : Nat :=
  (s.out.filter fun q => q.posted && match q.origin with | .dma r' .. => r' == r | _ => false).length

/-- Entries that lie in the spill area. -/
def spillNow (s : State) (r : Nat) : Nat := s.dmaIssued r - 0x2000

/-- Entries that an action added to the spill area are counted (R195). -/
def countDmaSpill (s s' : State) (r : Nat) : State :=
  let k := s'.spillNow r - s.spillNow r
  if k = 0 then s' else s'.bump (DMA_ENG_SPILL_TOTAL r) k

/-- The list and the spill area hold no further entry: a write waits (R195, Table 9.5). -/
def listFull (s : State) (r : Nat) : Bool := decide (0x42000 ≤ s.dmaIssued r)

/-- The write side of a chunk; one that must wait leaves what has been read in the buffer, as `held` has it. -/
def dmaPut (s : State) (held : List Answer) (r c : Nat) (d : Desc) (bs : List Byte) : State × Bool :=
  if s.listFull r then ({ s with answers := held }, false)
  else match s.engWrite (s.dmaAgent r) (fun k => .dma r c d.seq (d.off + k)) 0 (s.dmaPasid r c) (d.dstAt d.off) bs with
  | .done s none =>
    let posted := (s.unackedOffs r c d.seq).filter fun o => decide (d.off ≤ o)
    let s := if posted = [] then s.bump (DMA_CH_BYTES r c) bs.length else s
    (s.putDesc r c { d with off := d.off + bs.length }, true)
  | .done s (some (st, k)) =>
    let at_ := d.dstAt (d.off + k)
    (s.stopDesc r c d st (faultDetail st at_ at_) (d.off + k), false)
  | .fault s st va => (s.stopDesc r c d st (faultDetail st va (d.dstAt d.off)) d.off, false)
  | .wait s => ({ s with answers := held }, false)

/-- One chunk of the active descriptor: the state, and whether more may follow. -/
def dmaChunk (s : State) (r c : Nat) (d : Desc) : State × Bool :=
  let ag := s.dmaAgent r
  let held := s.answers
  let n := s.chunkReads r c d
  let o : Origin := .dma r c d.seq (srcOff + d.off)
  let o2 : Origin := .dma r c d.seq (dstOff + d.off)
  if d.op = 1 then
    s.dmaPut held r c d ((List.range n).map fun i => BitVec.ofNat 8 (d.src >>> (8 * ((d.off + i) % 8))))
  else
    match s.engRead ag o none (s.dmaPasid r c) (d.srcAt d.off) n with
    | .wait s =>
      -- both operands of a comparison are asked for at once
      if d.op ≠ 2 then (s, false)
      else match s.engRead ag o2 none (s.dmaPasid r c) (d.dstAt d.off) n with
        | .wait s => (s, false)
        | _ => (s, false)
    | .fault s st va =>
      (s.stopDesc r c d st (faultDetail st va (if d.op = 2 then d.srcAt d.off else d.dstAt d.off)) d.off, false)
    | .poison s va k bs =>
      if d.op = 2 ∨ k = 0 then (s.stopDesc r c d stPOISON (w64 va) d.off, false)
      else
        let (s', ok) := s.dmaPut held r c d (bs.take k)
        if ok then
          match s'.activeDesc r c with
          | some d' => (s'.stopDesc r c d' stPOISON (w64 va) d'.off, false)
          | none => (s', false)
        else (s', false)
    | .data s1 bs =>
      if d.op ≠ 2 then s1.dmaPut held r c d bs
      else
        match s1.engRead ag o2 none (s.dmaPasid r c) (d.dstAt d.off) n with
        | .wait s2 => ({ s2 with answers := s.answers }, false)
        | .fault s2 st va => (s2.stopDesc r c d st (faultDetail st va (d.srcAt d.off)) d.off, false)
        | .poison s2 va _ _ => (s2.stopDesc r c d stPOISON (w64 va) d.off, false)
        | .data s2 bs2 =>
          match firstDiff bs bs2 d.off with
          | some (k, a, b) => (s2.stopDesc r c d stMISCOMPARE (fld a.toNat 0 ||| fld b.toNat 8) k, false)
          | none => (s2.putDesc r c { d with off := d.off + n }, true)

/-! ### The data buffer, the arbiter and the list of issued writes (R192, R194, R195) -/

/-- Data that has arrived for a channel from outside the module waits in the buffer. -/
def dmaBuffered (s : State) (r c : Nat) : Bool :=
  s.answers.any fun a => match a.origin with | .dma r' c' _ k => r' == r && c' == c && decide (srcOff ≤ k) | _ => false

/-- Bytes of the data buffer that a channel's reads have reserved or filled. -/
def bufUsed (s : State) (r c : Nat) : Nat :=
  let mine (o : Origin) : Bool := match o with | .dma r' c' _ k => r' == r && c' == c && decide (srcOff ≤ k) | _ => false
  ((s.out.filter fun q => mine q.origin && !q.posted).map (·.len)).sum + ((s.answers.filter fun a => mine a.origin).map (·.data.length)).sum

/-- Bytes of the buffer that all channels use. -/
def bufTotal (s : State) (r : Nat) : Nat := ((List.range 64).map fun c => s.bufUsed r c).sum

/-- `n` more bytes fit: within the channel's own 16 KiB, or within what the enabled channels share (R192). -/
def bufRoom (s : State) (r c n : Nat) : Bool :=
  let on := (List.range 64).filter fun k => (s.dmaChan r k).state != .disabled
  decide (s.bufUsed r c + n ≤ 0x4000) ||
    decide ((on.map fun k => s.bufUsed r k + (if k = c then n else 0) - 0x4000).sum ≤ 0x400000 - 0x4000 * on.length)

/-- Bytes that the next chunk of a descriptor reads. -/
def readCost (d : Desc) : Nat := if d.op = 1 then 0 else if d.op = 2 then 2 * chunkLen d else chunkLen d

/-- The channel has a read to issue. -/
def readReady (s : State) (r c : Nat) : Bool :=
  (s.dmaChan r c).state == .active &&
    match s.activeDesc r c with
    | some d => d.op != 1 && (s.dmaOut r c).all (·.posted) && !s.dmaBuffered r c && s.bufRoom r c (readCost d)
    | none => false

def dmaPrio (s : State) (r c : Nat) : Nat := bits (s.reg (DMA_CH_CTRL r c)) 5 4
def dmaWeight (s : State) (r c : Nat) : Nat := bits (s.reg (DMA_CH_CTRL r c)) 11 8

/-- Ready channels of a level. -/
def readyAt (s : State) (r l : Nat) : List Nat := (List.range 64).filter fun c => s.dmaPrio r c == l && s.readReady r c

/-- The level of the next grant: one that has waited 1,024 grants, else the highest that has a ready channel. -/
def nextLevel (s : State) (r : Nat) (a : Arb) : Option Nat :=
  let some' := (List.range 4).filter fun l => !(s.readyAt r l).isEmpty
  match some'.find? fun l => decide (1024 ≤ a.waited.get 0 l) with
  | some l => some l
  | none => some'.head?

/-- The channel of the next grant in a level: the last one while it is ready and has bursts left in its round, else the next ready one
in cyclic order. -/
def nextChan (s : State) (r l : Nat) (a : Arb) : Option Nat :=
  let (k, n) := a.round.get (63, 64) l
  let ready := s.readyAt r l
  if ready.contains k ∧ n < s.dmaWeight r k + 1 then some k
  else match ready.find? fun c => decide (k < c) with
    | some c => some c
    | none => ready.head?

/-- The burst of up to 4 KiB that a channel holds goes on, or the next grant is its own: the arbiter after `n` bytes of it. No value
where another channel comes first (R194). -/
def grantRead (s : State) (r c n : Nat) : Option State :=
  let a := s.arb.get {} r
  if a.holder = some c ∧ n ≤ a.left then some { s with arb := s.arb.set r { a with left := a.left - n } }
  else if a.holder.any fun h => h != c && s.readReady r h && a.left != 0 &&
      ((s.activeDesc r h).any fun d => decide (readCost d ≤ a.left)) then none
  else match s.nextLevel r a with
    | some l =>
      if s.nextChan r l a ≠ some c then none
      else
        let (k, m) := a.round.get (63, 64) l
        let again : Bool := k == c && decide (m < s.dmaWeight r c + 1)
        let waited := (List.range 4).map fun i =>
          (i, if i = l ∨ (s.readyAt r i).isEmpty then 0 else a.waited.get 0 i + 1)
        some { s with arb := s.arb.set r { holder := some c, left := 0x1000 - n, waited := waited,
                                           round := a.round.set l (c, if again then m + 1 else 1) } }
    | none => none

/-- One chunk, once the arbiter grants its reads; entries that its writes add to the spill area are counted. -/
def dmaBurst (s : State) (r c : Nat) (d : Desc) : State × Bool :=
  let moved (s0 : State) : State × Bool :=
    let (s', more) := s0.dmaChunk r c d
    (s.countDmaSpill s' r, more)
  if d.op = 1 ∨ s.dmaBuffered r c then moved s
  else if (s.dmaOut r c).all (·.posted) then
    match s.grantRead r c (readCost d) with
    | some s => moved s
    | none => (s, false)
  else (s, false)

/-- `n` chunks of the active descriptor of one opcode, in ACTIVE. -/
def dmaChunks : Nat → State → Nat → Nat → Nat → State
  | 0, s, _, _, _ => s
  | n + 1, s, r, c, op =>
    match s.activeDesc r c with
    | some d =>
      if d.op ≠ op then s
      else
        let (s', more) := s.dmaBurst r c d
        if more then dmaChunks n s' r c op else s'
    | none => s

/-- COPY, FILL, COMPARE and COPY_2D: the channel reads only in ACTIVE; while it pauses, what it has read is written (R214). -/
def dmaMove (s : State) (r c op n : Nat) : State :=
  match (s.dmaChan r c).state with
  | .active => dmaChunks n s r c op
  | .pausing => if s.dmaBuffered r c then dmaChunks 1 s r c op else s
  | _ => s

/-- DESC_FAULT: a fault found by the next access of the started descriptor stops it (R206); a descriptor without one goes
on by its own step. -/
def descFault (s : State) (r c : Nat) : State :=
  match s.activeDesc r c with
  | some d =>
    if (s.dmaChan r c).state = .active then
      let (s', more) := s.dmaChunk r c d
      if more then s else if (s'.activeDesc r c).any (·.seq == d.seq) then s else s.countDmaSpill s' r
    else s
  | none => s

/-! ### Completion (R199, R208 to R210) -/

/-- The written-back descriptor (Table 5.2). -/
def wbWord (s : State) (r c : Nat) (d : Desc) : Nat :=
  let st := d.status.getD 0
  let done := s.ackedOff r c d
  let w := d.word.toNat
  let head := (w % 2 ^ 64) - (w / 2 ^ 8 % 2) * 2 ^ 8 - (w / 2 ^ 24 % 256) * 2 ^ 24 + st * 2 ^ 24
  head + (w / 2 ^ 64 % 2 ^ 320) * 2 ^ 64 + d.detail.toNat * 2 ^ 384 + (done % 2 ^ 64) * 2 ^ 448

/-- The completion after its write-back is acknowledged: DONE_SEQ advances, the peg is signalled, and an error aborts the
descriptors behind it and, once they are completed, puts the channel into ERROR (R208, R209). -/
def finishDesc (s : State) (r c : Nat) (d : Desc) : State :=
  let st := d.status.getD 0
  let s := s.updDma r c fun x => { x with started := x.started.drop 1, doneSeq := d.seq + 1, lastStatus := st }
  let s := if st = stOVERRUN then s.bumpFld (FAB_FRET_MISS_COUNT r) 31 0 1 else s
  let s := s.noteCompletion (d.f 44 31 0) st 0
  let s := if d.f 1 1 1 = 1 then s.signalPeg (s.dmaAgent r) (d.f 36 15 0) (d.f 1 3 2) (w64 (d.f 40 31 0)) else s
  if isSuccess st then
    let x := s.dmaChan r c
    if x.errAfter ∧ x.started = [] then s.dmaEnter r c .error
    else if x.state = .active ∧ x.started = [] ∧ !(x.target.any fun t => decide (x.fetchSeq ≤ t)) then s.dmaEnter r c .idle
    else s.maybeWait r c
  else
    let s := (s.dropReads r c fun _ _ => true).updDma r c fun x =>
      { x with tries := none, started := x.started.map fun e => { e with status := some stABORTED, detail := 0, done := 0 } }
    if (s.dmaChan r c).started = [] then s.dmaEnter r c .error else s

/-- DESC_WRITEBACK of the oldest started descriptor, once it is stopped or moved whole and its writes are acknowledged, and the list of
issued writes has an entry for it (R195). -/
def descWriteback (s : State) (r c : Nat) : State :=
  let s := s.settleDescs r c
  match (s.dmaChan r c).started with
  | d :: _ =>
    let a := s.ringAddr r c d.seq
    let pending := (s.unackedOffs r c d.seq) != []
    if d.status.isNone ∨ pending ∨ d.wbFault then s
    else if d.sent then s.finishDesc r c d
    else if s.listFull r then s
    else
      match s.engWrite (s.dmaAgent r) (fun _ => .dma r c d.seq wbOff) 0 (s.dmaPasid r c) a (leBytes 64 (s.wbWord r c d)) with
      | .done s' none =>
        let s' := s.countDmaSpill s' r
        if (s'.unackedOffs r c d.seq) = [] then s'.finishDesc r c d else s'.putDesc r c { d with sent := true }
      | .wait s' => s'
      | .done s' (some _) => (s'.putDesc r c { d with wbFault := true }).dmaRingFault r c a
      | .fault s' st _ =>
        if st = stHOST_LOST then s'.finishDesc r c d
        else (s'.putDesc r c { d with wbFault := true }).dmaRingFault r c a
  | [] => s

/-- RING_FAULT: the descriptor fetch or the write-back that is due faults (R210). -/
def ringFault (s : State) (r c : Nat) : State :=
  let s := s.settleDescs r c
  let x := s.dmaChan r c
  let fetch := s.ringAddr r c x.fetchSeq
  let bad (a : Nat) (w : Bool) : Bool := match s.pieces (s.dmaPasid r c) a 64 w with
    | .fault _ => true
    | .ok ps => (s.badPiece (.dma r c 0 0) ps).any fun e => e.1 != stHOST_LOST
  match x.started with
  | d :: _ =>
    let a := s.ringAddr r c d.seq
    if x.state ≠ .disabled ∧ x.state ≠ .error ∧ d.status.isSome ∧ s.unackedOffs r c d.seq = [] ∧ !d.sent ∧ bad a true then
      (s.putDesc r c { d with wbFault := true }).dmaRingFault r c a
    else s
  | [] => if x.state = .active ∧ s.mayFetch r c ∧ bad fetch false then s.dmaRingFault r c fetch else s

/-! ### Control (R214 to R218) -/

/-- A started descriptor is incomplete. -/
def incomplete (s : State) (r c : Nat) : Bool := (s.dmaChan r c).started != []

/-- The channel goes on from IDLE towards its target. -/
def dmaResume (s : State) (r c : Nat) : State :=
  let x := s.dmaChan r c
  if x.started ≠ [] ∨ x.target.any (fun t => decide (x.fetchSeq ≤ t)) then s.dmaEnter r c .active else s.dmaEnter r c .idle

/-- The first incomplete descriptor stops with a status and its DONE; the channel enters ERROR after it and those behind it are
completed (R209), at once if none is started (Table 5.5).  Where each one has ended and awaits its completion, ERROR follows the last of
them. -/
def abortWith (s : State) (r c st : Nat) : State :=
  let s := ((s.settleDescs r c).dropReads r c fun _ _ => true).updDma r c fun x => { x with tries := none }
  match (s.dmaChan r c).started.find? (·.status.isNone) with
  | some d =>
    s.stopDesc r c d st (if st = stHOST_LOST then w64 (if d.op = 2 then d.srcAt d.off else d.dstAt d.off) else 0) d.off
  | none =>
    if (s.dmaChan r c).started = [] then s.dmaEnter r c .error
    else s.updDma r c fun x => { x with errAfter := true }

/-- ABORT (Table 5.5). -/
def dmaAbort (s : State) (ag : Agent) (r c : Nat) : State :=
  let x := s.dmaChan r c
  match x.state with
  | .active | .pausing => s.abortWith r c stABORTED
  | .paused => if s.incomplete r c then s.abortWith r c stABORTED else s.dmaRefuse ag (DMA_CH_CTRL r c) stSTATE
  | .waitDesc => (s.updDma r c fun x => { x with target := none, tries := none }).dmaEnter r c .idle
  | _ => s.dmaRefuse ag (DMA_CH_CTRL r c) stSTATE

/-- CLEAR_ERR (R210, Table 5.5): a write-back that faulted is tried once more; if it faults again the channel stays in ERROR.
What is due completes first; fetching resumes at FETCH_SEQ = DONE_SEQ. -/
def dmaClearErr (s : State) (ag : Agent) (r c : Nat) : State :=
  if (s.dmaChan r c).state ≠ .error then s.dmaRefuse ag (DMA_CH_CTRL r c) stSTATE
  else
    let s := if (s.dmaChan r c).started.any (·.wbFault) then
        s.updDma r c fun x => { x with started := x.started.map fun d => { d with wbFault := false } }
      else s
    let s := (List.range 8).foldl (fun s _ => s.descWriteback r c) s
    let x := s.dmaChan r c
    if x.started.any (·.wbFault) then s
    else
      let s := ((s.setDma r c { x with fetchSeq := x.doneSeq, started := [], tries := none }).dropReads r c fun _ _ => true).disown
        r c fun n => decide (x.doneSeq ≤ n)
      if bit (s.reg (DMA_CH_CTRL r c)) 1 then s.dmaEnter r c .paused else s.dmaResume r c

/-- The end of a drain (R214, R215): every issued write is acknowledged and every finished descriptor is completed. With PAUSE
cleared again the channel returns to ACTIVE, and from there to IDLE where nothing is left to do. -/
def pauseDrainEnd (s : State) (r c : Nat) : State :=
  let s := s.settleDescs r c
  let x := s.dmaChan r c
  if x.state = .pausing ∧ s.dmaOut r c = [] ∧ !s.dmaBuffered r c ∧ x.started.all (·.status.isNone) then
    let s := (s.dropReads r c fun _ k => k == fetchOff).updDma r c fun y => { y with tries := none }
    if bit (s.reg (DMA_CH_CTRL r c)) 1 then (s.updDma r c fun y => { y with lastStatus := stPAUSED }).dmaEnter r c .paused
    else (s.dmaEnter r c .active).dmaResume r c
  else s

/-- A change of PAUSE (R214, R215, Table 5.5): with no descriptor started the drain ends at once, and a fetch that is under way is
given up. -/
def dmaPause (s : State) (r c : Nat) (on : Bool) : State :=
  match (s.dmaChan r c).state, on with
  | .idle, true | .waitDesc, true =>
    ((s.dropReads r c fun _ _ => true).updDma r c fun x => { x with tries := none }).dmaEnter r c .paused
  | .active, true =>
    let s := s.dmaEnter r c .pausing
    if (s.dmaChan r c).started = [] then (s.dropReads r c fun _ _ => true).pauseDrainEnd r c else s
  | .paused, false => s.dmaResume r c
  | _, _ => s

/-- ENABLE may change to `on` (Table 5.5). -/
def enableAllowed (s : State) (r c : Nat) (on : Bool) : Bool :=
  match (s.dmaChan r c).state, on with
  | .disabled, true => true
  | .idle, false | .waitDesc, false | .error, false => true
  | .paused, false => !s.incomplete r c
  | _, _ => false

/-- A write of DMA_CH_CTRL (R217, R218). -/
def dmaCtrlWrite (s : State) (ag : Agent) (r c : Nat) (v : W64) : State :=
  let g := DMA_CH_CTRL r c
  let old := s.reg g
  let change := bit v 0 != bit old 0
  let abort := bit v 2
  let clear := bit v 3
  if (abort && clear) || (change && (abort || clear)) then s.dmaRefuse ag g stRANGE
  else if change && !s.enableAllowed r c (bit v 0) then s.dmaRefuse ag g stSTATE
  else
    let s := s.setReg g (v &&& 0x1F33#64)
    let s := if change then
        if bit v 0 then
          let s := (((s.setDma r c { lastStatus := (s.dmaChan r c).lastStatus }).dropReads r c fun _ _ => true).disown r c fun _ => true)
          if bit v 1 then s.dmaEnter r c .paused else s.dmaEnter r c .idle
        else s.updDma r c fun x => { x with state := .disabled, target := none, tries := none }
      else if bit v 1 != bit old 1 then s.dmaPause r c (bit v 1) else s
    if abort then s.dmaAbort ag r c else if clear then s.dmaClearErr ag r c else s

/-- A write of DMA_CH_CTRL with some of its bits changed from their present values. -/
def dmaCtrlSet (s : State) (ag : Agent) (r c : Nat) (set clear : W64) : State :=
  s.dmaCtrlWrite ag r c ((s.reg (DMA_CH_CTRL r c) &&& ~~~clear) ||| set)

/-- Every started descriptor that satisfies `p` and is not completed, though all its writes may be issued, is stopped by `f`. -/
def stopStarted (s : State) (r c : Nat) (p : Desc → Bool) (f : State → Desc → State) : State :=
  let s := s.settleDescs r c
  ((s.dmaChan r c).started.filter fun d => d.status.isNone && p d).foldl f s

/-- Step 2 of a mark for a channel: fret-bound descriptors whose target is the mark stop; a paused one too (R207, R216). -/
def dmaMark (s : State) (r c cnt : Nat) : State :=
  s.stopStarted r c (fun d => d.target == .mark cnt) fun s d => s.missDesc r c d

/-- A posted write of a descriptor was discarded (R206, R274): the descriptor stops at its offset. A write-back that is discarded
has faulted (R210); to a lost host it counts as made (Table 12.3). -/
def dmaDiscard (s : State) (r c seq off st : Nat) : State :=
  match (s.dmaChan r c).started.find? (·.seq == seq) with
  | some d =>
    if off = wbOff then
      if st = stHOST_LOST then s else (s.putDesc r c { d with sent := false, wbFault := true }).dmaRingFault r c (s.ringAddr r c seq)
    else
      let done := min off (if d.status.isSome then d.done else d.off)
      let at_ := d.dstAt done
      match d.status with
      | some e =>
        if isSuccess e then s.stopDesc r c d st (faultDetail st at_ at_) done
        else s.putDesc r c { d with done := done, detail := if e = stPEER_LOST ∨ e = stHOST_LOST then w64 at_ else d.detail }
      | none => s.stopDesc r c d st (faultDetail st at_ at_) done
  | none => s

/-- The answer of a re-check in WAIT_DESC has arrived (R213). -/
def dmaArrived (s : State) (r c off : Nat) : State := if off = fetchOff then s.waitRecheck r c else s

/-- The loss of the host that owns a channel (R421): as ABORT, with HOST_LOST, and the target is dropped. -/
def dmaHostLost (s : State) (r c : Nat) : State :=
  if (s.dmaChan r c).state = .disabled then s
  else
    let s := (s.updDma r c fun x => { x with hostLost := true }).abortWith r c stHOST_LOST
    -- what owes no acknowledgement any more completes with the loss (Table 12.3)
    let s := (List.range 8).foldl (fun s _ => s.descWriteback r c) s
    s.updDma r c fun x =>
      { x with target := none }

/-- DMA_CH_STATUS (Table 5.7). -/
def dmaStatus (s : State) (r c : Nat) : W64 :=
  let x := s.dmaChan r c
  let n := match x.state with
    | .disabled => 0 | .idle => 1 | .active => 2 | .waitDesc => 3 | .pausing => 4 | .paused => 5 | .error => 6
  fld n 0 ||| flag (x.started != []) 3 ||| fld x.started.length 4 ||| fld x.lastStatus 8

/-- The descriptor that DONE_SEQ names, if it is started. -/
def headDesc (s : State) (r c : Nat) : Option Desc := (s.dmaChan r c).started.head?

/-- DMA_CH_DONE_BYTES, DMA_CH_SRC_POS and DMA_CH_DST_POS (Table 5.8). -/
def dmaDoneBytes (s : State) (r c : Nat) : W64 := match s.headDesc r c with | some d => w64 (s.ackedOff r c d) | none => 0
def dmaSrcPos (s : State) (r c : Nat) : W64 :=
  match s.headDesc r c with | some d => if d.op = 1 then 0 else w64 (d.srcAt d.off) | none => 0
def dmaDstPos (s : State) (r c : Nat) : W64 := match s.headDesc r c with | some d => w64 (d.dstAt d.off) | none => 0

end State
end Sys2Proof.Machine
end

