-- ==== Sys2Proof/Machine/HostCore.lean ====
section
/-!
DEFINITION. Requests that are discarded or fail (R270 to R274), and the host ports: links, functions, ownership and host loss
(chapter 12).
-/
namespace Sys2Proof.Machine
namespace State

/-! ### Discards (R270 to R274) -/

/-- A request is no longer outstanding. -/
def dropOut (s : State) (q : OutReq) : State := { s with out := s.out.erase q }

/-- A request that its destination will not answer: a write is discarded, a read or AMO fails. `record` tells whether the log
records it. -/
def discardOne (s : State) (q : OutReq) (st : Nat) (record : Bool) : State :=
  let s := s.dropOut q
  let noted (s : State) (r : Nat) : State := if record then s.logLost r q q.origin st else s
  match q.origin with
  | .hart h =>
    if q.posted then (s.discardHartWrite h 0 q st).trapEnter h
    else
      let s := noted s (hartRegion h)
      if (s.hart h).wait ≠ HWait.answer q.tag then s
      else if s.seqStopped h then s.waitFor h .none
      else s.fault h (if q.loads then 5 else 7) q.va
  | .wc h => (s.discardHartWrite h 1 q st).trapEnter h
  | .dma r c seq off =>
    let s := noted s r
    if q.posted then s.dmaDiscard r c seq off st
    else { s with answers := s.answers ++ [{ origin := q.origin, tag := q.tag, status := st, data := [] }] }
  | .gs b seq =>
    let s := noted s (b / 128)
    if q.posted then s.gsDiscard b seq q.va st
    else { s with answers := s.answers ++ [{ origin := q.origin, tag := q.tag, status := st, data := [] }] }
  | .watch r | .hostWatch r _ | .coll r _ | .kiln r => noted s r
  | .fabric src tag meter => (noted s s.masterRegion).respond src tag meter (responseOp q.op) st []

/-- Two requests belong to one engine command, whose log has one entry. -/
def sameCommand (a b : OutReq) : Bool :=
  match a.origin, b.origin with
  | .dma r c q _, .dma r' c' q' _ => r == r' && c == c' && q == q' && a.posted == b.posted
  | .gs x q, .gs y q' => x == y && q == q' && a.posted == b.posted
  | _, _ => false

/-- Requests discarded one after another, one log entry for an engine command. -/
def discardList (s : State) (st : Nat) : List OutReq → List OutReq → State
  | [], _ => s
  | q :: qs, seen => discardList (s.discardOne q st !(seen.any (sameCommand q))) st qs (q :: seen)

/-- Every outstanding request that satisfies `p` is discarded with a status, oldest first. -/
def discardWhere (s : State) (st : Nat) (p : OutReq → Bool) : State := (s.discardList st (s.out.filter p) []).releaseOrdered

/-- One outstanding request times out: PEER_LOST, for T5 too while the external host is there (R270 to R272). -/
def timeout (s : State) (tag : Nat) (posted : Bool) : State :=
  s.discardWhere stPEER_LOST fun q => q.tag == tag && q.posted == posted

/-- The paths to modules that the current map does not reach are down (R366): what is outstanding to them is discarded (R270, R272). -/
def pathsDown (s : State) : State :=
  s.discardWhere stPEER_LOST fun q => match q.dest with | .module m => !s.reachable.contains m | _ => false

/-- ROUTE_SWITCH: the switch fret of a map (R364, R366), with fabric time's tree and the paths that went down. -/
def routeSwitchHere (s : State) : State :=
  let t := s.routeSwitchAll
  if t.fab.rgen != s.fab.rgen then t.pathsDown else t

/-- A request is answered: writes are acknowledged. -/
def answered (s : State) (q : OutReq) (status : Nat) (data : List Byte) : State :=
  let s := s.dropOut q
  let keep : State := { s with answers := s.answers ++ [{ origin := q.origin, tag := q.tag, status := status, data := data }] }
  let s :=
    match q.origin with
    | .hart h =>
      if q.posted then s.trapEnter h
      else if (s.hart h).wait ≠ HWait.answer q.tag then s
      -- no instruction of a block in RESET or MUTED retires any more (R185, R186)
      else if s.seqStopped h then s.waitFor h .none
      else if status = stOK then s.retireWith h (extend q.signed q.len (leNat data))
      else if status = stPOISON then s.hartPoison h (if q.loads then 5 else 7) q.target q.va
      else s.fault h (if q.loads then 5 else 7) q.va
    | .dma r c seq off =>
      if !q.posted then keep.dmaArrived r c off
      else if status = stOK then
        if off < 2 ^ 80 then s.bump (DMA_CH_BYTES r c) q.len else s
      else s.dmaDiscard r c seq off status
    | .gs b seq => if !q.posted then keep else if status = stOK then s else s.gsDiscard b seq q.va status
    | .fabric src tag meter => s.respond src tag meter (responseOp q.op) status data
    | .wc h => s.trapEnter h
    | _ => s
  s.releaseOrdered

/-! ### Ports and links (R418, R419) -/

def setHost (s : State) (r : Nat) (x : HostPort) : State := { s with hostPorts := s.hostPorts.set r x }
def updHost (s : State) (r : Nat) (f : HostPort → HostPort) : State := s.setHost r (f (s.hostPort r))
def updSub (s : State) (r k : Nat) (f : SubPort → SubPort) : State :=
  s.updHost r fun x => { x with subs := x.subs.set k (f (x.subs.get {} k)) }
def hostFunction (s : State) (r f : Nat) : HostFn := (s.hostPort r).fns.get { bar2Log2 := (s.hostPort r).bar2Log2 } f
def updFn (s : State) (r f : Nat) (g : HostFn → HostFn) : State :=
  s.updHost r fun x => { x with fns := x.fns.set f (g (s.hostFunction r f)) }

/-- The host port as an agent, and a function of its endpoint. -/
def hostAgent (s : State) (r : Nat) : Agent := engineAgent s.moduleId r 3
def fnAgent (s : State) (r f : Nat) : Agent := { kind := .external, index := f, region := r, module := s.moduleId }

/-- A function exists: the PF, and VFs 1 to TotalVFs (R403). -/
def fnExists (s : State) (r f : Nat) : Bool := (s.hostPort r).endpoint && decide (f ≤ (s.hostPort r).totalVfs)

/-- The link of an endpoint, or of sub-port `k` of a root port, reaches L0. -/
def linkUp (s : State) (r k : Nat) (l : HostLink) : State :=
  s.updSub r k fun x => { x with link := 2, speed := l.speed, width := l.width, cxl := l.cxl, present := true, capacity := l.capacity }

/-- A link can train so: one of the six rates, no wider than its share of the port's 16 lanes, and CXL at 32 or 64 GT/s, to an endpoint
only where the image enables Type 2 (R400, R401). -/
def linkFits (s : State) (r : Nat) (l : HostLink) : Bool :=
  let x := s.hostPort r
  decide (1 ≤ l.speed ∧ l.speed ≤ 6 ∧ 1 ≤ l.width ∧ l.width * 2 ^ x.bifurc ≤ 16) && (!l.cxl || (decide (5 ≤ l.speed) && (!x.endpoint || x.cxlT2)))

/-- HOST_LINK_UP (Table 12.4). -/
def hostLinkUp (s : State) (r : Nat) (l : HostLink) : State :=
  if (s.hostPort r).endpoint ∧ (s.hostPort r).ep = .down ∧ s.linkFits r l then
    (s.linkUp r 0 { l with capacity := 0 }).updHost r fun x => { x with ep := .up }
  else s

/-- ROOT_PORT_LINK_UP of one of the port's links (R400). The addresses below stay unreachable until ENABLE is written (R419). -/
def rootLinkUp (s : State) (r k : Nat) (l : HostLink) : State :=
  if (s.hostPort r).endpoint ∨ 2 ^ (s.hostPort r).bifurc ≤ k ∨ !s.linkFits r l then s else s.linkUp r k l

/-- A root port's link goes down (R419): outstanding writes to the expander below it are discarded (R270). -/
def rootLinkDown (s : State) (r k : Nat) : State :=
  if (s.hostPort r).endpoint ∨ ((s.hostPort r).subs.get {} k).link = 0 then s
  else
    let subs := (s.hostPort r).subs
    let below (q : OutReq) : Bool := q.dest == .t4 r &&
      (match placeRaw q.addr with | .t4 _ off => t4Decode subs off == some k | _ => false)
    ((s.updSub r k fun x => { x with link := 0, speed := 0, width := 0, cxl := false, present := false, reachable := false }).hostLogAdd
      r (Config.hostLogStatus 6) 6 k 0 0).discardWhere stPEER_LOST below

/-- HOST_RP_CTRL.ENABLE (R419). -/
def rpEnable (s : State) (r k : Nat) (v : W64) : State :=
  if bit v 0 ∧ !(s.hostPort r).endpoint ∧ ((s.hostPort r).subs.get {} k).link = 2 then s.updSub r k fun x => { x with reachable := true }
  else s

/-- A Recovery returns to L0 within 1 ms (R418). -/
def linkRecovery (s : State) (r k : Nat) : State :=
  if ((s.hostPort r).subs.get {} k).link = 0 then s
  else s.updSub r k fun x => { x with link := 2, recoveries := min 0xFFFFFFFF (x.recoveries + 1) }

/-- DEVICE_AER_ERROR (R419). -/
def aerError (s : State) (r k reqId : Nat) : State :=
  if (s.hostPort r).endpoint then s else s.hostLogAdd r (Config.hostLogStatus 7) 7 k reqId 0

/-! ### Functions (R403, R408, R412, R413, R422) -/

/-- BAR accesses of a function are admitted (R422, Table 12.4). -/
def barOpen (s : State) (r f : Nat) : Bool := s.fnExists r f && (s.hostPort r).ep == .enabled && (s.hostFunction r f).memEnable

/-- PF Memory Space Enable set with BARs assigned (Table 12.4). -/
def memEnableSet (s : State) (r : Nat) : State :=
  if (s.hostPort r).endpoint ∧ (s.hostPort r).ep = .up then
    (s.updFn r 0 fun x => { x with memEnable := true }).updHost r fun x => { x with ep := .enabled }
  else s

/-- PF Memory Space Enable cleared (Table 12.4). -/
def memEnableClear (s : State) (r : Nat) : State :=
  if (s.hostPort r).endpoint ∧ (s.hostPort r).ep = .enabled then
    (s.updFn r 0 fun x => { x with memEnable := false }).updHost r fun x => { x with ep := .up }
  else s

/-- A configuration write that changes a function (R408, R413, R422): served in UP and ENABLED. -/
def configWrite (s : State) (r f : Nat) (bm me : Option Bool) (size : Option Nat) : State :=
  if !s.fnExists r f ∨ !((s.hostPort r).ep = .up ∨ (s.hostPort r).ep = .enabled) then s
  else
    let s := match bm with | some b => s.updFn r f fun x => { x with busMaster := b } | none => s
    let s := match size with
      | some n => if 30 ≤ n ∧ n ≤ 42 then s.updFn r f fun x => { x with bar2Log2 := n } else s
      | none => s
    match me with
    | some b => if f = 0 then (if b then s.memEnableSet r else s.memEnableClear r) else s.updFn r f fun x => { x with memEnable := b }
    | none => s

/-- A write of HOST_FN_BAR2_SLIDE (R408). -/
def slideWrite (s : State) (r f : Nat) (v : W64) : State :=
  if !s.barOpen r f then s
  else
    let size := 2 ^ (s.hostFunction r f).bar2Log2
    if v.toNat % size ≠ 0 ∨ 0x40000000000 < v.toNat + size then s.hostLogAdd r stRANGE 3 f 0 0x008
    else s.updFn r f fun x => { x with slide := v }

/-- Function registers of Table 12.8, by word: 0 DMA_OWN, 1 COLL_OWN, 2 PEG_RANGE, 3 TAG, 4 to 11 BLK_OWN. -/
def ownReg (r f w : Nat) : Reg := hostFn r f (8 * w)

/-- A resource is idle, so its ownership may change (R412). -/
def resourceIdle (s : State) (r w i : Nat) : Bool :=
  if w = 0 then (s.dmaChan r i).state == .disabled
  else if w = 1 then (s.coll r i).state == .empty
  else
    let st := (s.block ((w - 4) * 64 + i)).state
    st == .reset || st == .halted

/-- A resource belongs to another function than `f` of the port's region; a block may belong to a function of any port. -/
def ownedByOther (s : State) (r f w i : Nat) : Bool :=
  (if w < 4 then [r] else [0, 1, 2, 3]).any fun q =>
    (List.range 9).any fun g => (q != r || g != f) && bit (s.reg (ownReg q g w)) i

/-- A write of a HOST_FN ownership register (R412). -/
def ownershipWrite (s : State) (ag : Agent) (r f w : Nat) (v : W64) : State :=
  let g := ownReg r f w
  if 11 < w then s
  else if ag.kind = .external then s.hostLogAdd r stRANGE 4 f 0 (g % 0x100000000)
  else if !ag.own ∨ ag.kind ≠ .core then s.log r stRANGE 1 ag.code (g % 0x100000000) 0
  else if w = 2 then s.setReg g (v &&& mask 32 0)
  else if w = 3 then s.setReg g (v &&& mask 31 0)
  else
    let changed := (List.range 64).filter fun i => bit (v ^^^ s.reg g) i
    if changed.any fun i => s.ownedByOther r f w i || !s.resourceIdle r w i then s.log r stSTATE 1 ag.code (g % 0x100000000) 0
    else s.setReg g v

/-- The function that owns a resource. -/
def ownerOf (s : State) (r w i : Nat) : Option Nat := (List.range 9).find? fun f => bit (s.reg (ownReg r f w)) i

/-! ### Host loss (R420 to R424) -/

/-- The blocks that a function owns. -/
def ownedBlocks (s : State) (r f : Nat) : List Nat := (List.range 512).filter fun b => s.ownerOf r (4 + b / 64) (b % 64) == some f

/-- A block in RESET writes and signals what it owes, and is HALTED once nothing is left (R185). -/
def blockOut (s : State) (b : Nat) : State :=
  if (s.block b).state ≠ .reset then s
  else
    let s := s.finishCompletions b
    if s.drained b ∧ s.dieLive (b / 128) (b % 128 / 64) then s.releaseReset b else s

/-- An owned block is reset with HOST_LOST and enters HALTED (step 4 of R421, Table 12.3); where completions still wait, later. -/
def blockLost (s : State) (b : Nat) : State :=
  match (s.block b).state with
  | .halted | .running => (s.resetBlock b stHOST_LOST).blockOut b
  | _ => s.blockOut b

/-- The steps of R421 for one function, the kiln's apart. -/
def fnLost (s : State) (r f : Nat) : State :=
  let s := s.discardWhere stHOST_LOST fun q => q.dest == .host r && s.outFunction r q.origin == f
  let s := ((List.range 64).filter fun c => s.ownerOf r 0 c == some f).foldl (fun s c => s.dmaHostLost r c) s
  let s := ((List.range 64).filter fun c => s.ownerOf r 1 c == some f).foldl (fun s c =>
    let s := s.strumRunEnd r c
    match (s.coll r c).state with
    | .armed | .running | .stopping =>
      ((s.sendNotices r c s.moduleId stABORTED).updColl r c fun x => { x with detail := 0 }).runEnd r c stHOST_LOST
    | _ => s) s
  let s := (s.ownedBlocks r f).foldl (fun s b => s.blockLost b) s
  let me := fnQueue r f
  let code := (s.fnAgent r f).code
  let ws := s.watches.filter fun x => x.2.armer == code
  let s := ws.foldl (fun s x => s.freeWatch x.1) s
  let s : State :=
    { s with eventQ := s.eventQ.erase me, heldEvents := s.heldEvents.filter (fun x => x.2.1 != me), arms := s.arms.erase me,
             fired := s.fired.filter fun x => x.2.watch.armer != code }
  s.updFn r f fun _ => { bar2Log2 := (s.hostPort r).bar2Log2 }

/-- LOSS_CAUSE code (Table 12.7). -/
def lossCode : LossCause → Nat
  | .perst => 1
  | .hotReset => 2
  | .linkDown => 3
  | .pfFlr => 4
  | .vfFlr _ => 0

/-- A host loss covers every function, or one VF (R420, R421, Table 12.4); `each` closes the function's meter tags. -/
def hostLoss (s : State) (r : Nat) (cause : LossCause) (each : State → Nat → State) : State :=
  let x := s.hostPort r
  if !x.endpoint then s
  else match cause with
    | .vfFlr f =>
      if (x.ep = .up ∨ x.ep = .enabled) ∧ 1 ≤ f ∧ f ≤ x.totalVfs then each ((s.hostLogAdd r stHOST_LOST 5 f 0 0).fnLost r f) f else s
    | _ =>
      if x.ep = .up ∨ x.ep = .enabled then
        let s := s.updHost r fun x =>
          { x with ep := .resetting, lossCause := lossCode cause, lossCount := min 0xFFFF (x.lossCount + 1), lossFret := s.fret,
                   subs := if cause = .pfFlr then x.subs else x.subs.set 0 { recoveries := (x.subs.get {} 0).recoveries } }
        (List.range (x.totalVfs + 1)).foldl (fun s f => each (s.fnLost r f) f) (s.hostLogAdd r stHOST_LOST 5 0 0 0)
      else s

/-- Every owned DMA channel of a port has completed its abort, and no owned block is in RESET. -/
def lossSettled (s : State) (r : Nat) : Bool :=
  ((List.range 9).all fun f => (s.ownedBlocks r f).all fun b => (s.block b).state != .reset) && (List.range 64).all fun c => (s.ownerOf r 0 c).isNone || (s.dmaChan r c).state == .disabled ||
    ((s.dmaChan r c).state == .error && (s.dmaChan r c).started == [])

/-- The steps of a host loss are complete (R421, Table 12.4). -/
def hostLossDone (s : State) (r : Nat) (l0 : Bool) : State :=
  let t := (List.range 9).foldl (fun s f => (s.ownedBlocks r f).foldl (fun s b => s.blockOut b) s) s
  if (s.hostPort r).ep ≠ .resetting then s
  else if !t.lossSettled r then t
  else
    let s := t
    let up := (s.hostPort r).lossCause == 4 && l0
    let s := s.updHost r fun x => { x with ep := if up then .up else .down, subs := if up then x.subs else x.subs.set 0 { recoveries := (x.subs.get {} 0).recoveries } }
    let p := s.reg (HOST_EVENT_PEG r)
    if bit p 18 then s.signalPeg (s.hostAgent r) (bits p 15 0) (bits p 17 16) 1 else s

/-- HOST_PORT_CFG, HOST_PORT_STATUS and HOST_EP_STATUS (Table 12.7). -/
def hostPortCfg (s : State) (r : Nat) : W64 :=
  let x := s.hostPort r
  flag x.endpoint 0 ||| fld x.bifurc 1 ||| flag x.cxlT2 3 ||| fld x.totalVfs 4

def hostPortStatus (s : State) (r k : Nat) : W64 :=
  let x := (s.hostPort r).subs.get {} k
  fld x.link 0 ||| fld x.speed 2 ||| fld x.width 5 ||| flag x.cxl 10 ||| flag x.present 11 ||| fld x.recoveries 32

def EpState.code : EpState → Nat
  | .down => 0
  | .up => 1
  | .enabled => 2
  | .resetting => 3

def hostEpStatus (s : State) (r : Nat) : W64 :=
  let x := s.hostPort r
  fld (EpState.code x.ep) 0 ||| fld x.lossCause 2 ||| fld x.lossCount 16 ||| fld (x.lossFret % 2 ^ 32) 32

/-- HOST_FN_ID (Table 12.8): VF f serves partition f - 1 (R403). -/
def hostFnId (s : State) (r f : Nat) : W64 := fld f 0 ||| fld (f - 1) 4 ||| fld r 8 ||| fld s.moduleId 16

end State
end Sys2Proof.Machine
end

