-- ==== Sys2Proof/Machine/Kiln.lean ====
section
/-!
DEFINITION. The kiln: reconciliation of a fret, meter tags, records, signing, and the ledger (chapter 13).
-/
namespace Sys2Proof.Machine

/-- Entries that an empty ledger holds (R446, R450). -/
def ledgerSize : Nat := 213909504

/-- Status 0x83 of the kiln (R435). -/
def stTAG_LIMIT : Nat := 0x83

/-- Bytes of a record from fields (offset, bytes, value), lowest offset first; the gaps are zero. -/
def layFields : Nat → Nat → List (Nat × Nat × Nat) → List Byte
  | at_, size, [] => List.replicate (size - at_) 0
  | at_, size, (o, n, v) :: rest => List.replicate (o - at_) 0 ++ leBytes n v ++ layFields (o + n) size rest

/-- Class energies as fields from offset 48 on. -/
def classFields (acc : List Nat) : List (Nat × Nat × Nat) := (List.range 8).map fun c => (48 + 8 * c, 8, acc.getD c 0)

/-- Sums of class energies. -/
def addLists (a b : List Nat) : List Nat := (List.range 8).map fun c => a.getD c 0 + b.getD c 0

/-- Energies of the eight classes, all 0. -/
def noEnergy : List Nat := [0, 0, 0, 0, 0, 0, 0, 0]

def listSum (l : List Nat) : Nat := l.foldl (· + ·) 0

/-- The total weight W of a unit, which takes in the weights of all tags (R431). -/
def unitWeight (u : SensorReading) : Nat := max u.total (listSum (u.tags.map (·.2)))

/-- Energy shares of one fret (R432) for the open tags: (tag, energies of classes 0 to 6). -/
def unitShares (b total : Nat) (units : List SensorReading) (t : Nat) : List Nat :=
  (List.range 8).map fun c =>
    listSum (units.map fun u =>
      if u.cls = c ∧ total ≠ 0 ∧ unitWeight u ≠ 0 then
        let e := u.energy * b / total
        let w := (u.tags.find? (·.1 == t)).elim 0 (·.2)
        e * w / unitWeight u
      else 0)

/-- The share of a tag with its loss (R432): classes 0 to 7. -/
def tagShares (b l total : Nat) (units : List SensorReading) (t : Nat) : List Nat :=
  let a := unitShares b total units t
  a.set 7 (if b = 0 then 0 else l * listSum (a.take 7) / b)

namespace State

def updKiln (s : State) (f : Kiln → Kiln) : State := { s with kiln := f s.kiln }

/-- The kiln slice of a region as an agent. -/
def kilnAgent (s : State) (r : Nat) : Agent := engineAgent s.moduleId r 2

def setTag (s : State) (t : Nat) (x : MeterTag) : State := s.updKiln fun k => { k with tags := k.tags.set t x }

/-! ### Records (R439 to R441) -/

/-- A record built: it takes the next SEQ, is chained, and queued for signing. -/
def buildRecord (s : State) (type flags owner tag : Nat) (body : List (Nat × Nat × Nat)) : State :=
  let k := s.kiln
  let prev := if k.seq = 0 then List.replicate 48 0 else k.prev
  let bytes := layFields 0 144 ([(0, 1, type), (1, 1, 1), (2, 1, flags + owner * 16), (4, 4, tag), (8, 8, k.seq)] ++ body ++
    [(136, 8, s.fab.serial)]) ++ prev
  s.updKiln fun k =>
    { k with seq := k.seq + 1, prev := Digest.sha384 bytes, waiting := k.waiting ++ [(k.seq, bytes)] }

/-- The cone record of a closing tag (Table 13.5). -/
def buildCone (s : State) (t : Nat) (x : MeterTag) : State :=
  let sc := x.scale.getD (0, 0)
  let flags := x.partSum.toNat + 2 * x.spilled.toNat
  (s.buildRecord 1 flags x.owner t ([(16, 8, x.job.toNat), (24, 8, x.start), (32, 8, x.finish), (40, 8, listSum x.acc)] ++
    classFields x.acc ++
    [(112, 4, x.bisqueRows), (116, 4, x.misses), (120, 4, sc.1), (124, 4, sc.2), (128, 2, x.module), (130, 1, x.part),
     (131, 1, x.reason), (132, 4, x.active)])).setTag t { x with built := true }

/-- Up to 256 records of closing tags whose END_FRET has ended, in the order of the closes (R437). -/
def buildCones (s : State) (ended : Nat) : State :=
  let due := (s.kiln.closing.filter fun t => match s.kiln.tags.find t with
    | some x => decide (x.finish ≤ ended)
    | none => false).take 256
  let s := due.foldl (fun s t => match s.kiln.tags.find t with
    | some x => s.buildCone t x
    | none => s) s
  s.updKiln fun k => { k with closing := k.closing.filter fun t => !due.contains t }

/-! ### Reconciliation (R427 to R434) -/

/-- A tag takes part in the fret `f`: it is open, or closing with END_FRET not before it; the sums of a copy are final (R438). -/
def tagCounts (x : MeterTag) (f : Nat) : Bool := !x.closing || (!x.partSum && decide (f ≤ x.finish))

/-- One tag after a fret. -/
def tagAfter (x : MeterTag) (share : List Nat) (k : Nat) : MeterTag :=
  let got := listSum share
  { x with acc := addLists x.acc share, fresh := addLists x.fresh share, active := if 0 < got then min 0xFFFFFFFF (x.active + 1) else x.active,
           scale := some (match x.scale with | some (a, b) => (min a k, max b k) | none => (k, k)),
           spilled := x.spilled || x.spill }

/-- Step 3 of a mark: the fret `f` that has ended is divided (R432), and records of closing tags are built. -/
def kilnMark (s : State) (m : MarkInput) (f : Nat) : State :=
  let l := m.meter - m.rails
  let b := m.meter - l
  let total := listSum (m.sensors.map (·.energy))
  let open_ := s.kiln.tags.filter fun x => tagCounts x.2 f
  let shares := open_.map fun x => (x.1, tagShares b l total m.sensors x.1)
  let given := shares.foldl (fun n x => n + listSum x.2) 0
  let u := m.meter - given
  let k := if total = 0 then 0 else b * 2 ^ 30 / total
  let s := m.sensors.foldl (fun s x =>
    let s := if x.faulty then s.bump (KILN_SENSOR_FAULTS x.region) 1 else s
    if x.tags.any fun w => w.1 != 0 && decide (0 < w.2) && !(open_.any (·.1 == w.1)) then s.bump (KILN_UNOPENED x.region) 1 else s) s
  let s := shares.foldl (fun s x => match s.kiln.tags.find x.1 with
    | some t =>
      let s := if t.spill then s.bump (KILN_TAG_SPILLED t.home) 1 else s
      s.setTag x.1 (tagAfter t x.2 k)
    | none => s) s
  let s := s.updKiln fun q =>
    { q with meterTotal := m.meterTotal,
             interval := { q.interval with start := if q.interval.frets = 0 then f else q.interval.start, last := f,
                                           frets := q.interval.frets + 1, input := q.interval.input + m.meter, unattr := q.interval.unattr + u,
                                           attrib := shares.foldl (fun a x => addLists a x.2) q.interval.attrib } }
  let s := (((s.setAll KILN_FRET_INPUT (w64 m.meter)).setAll KILN_FRET_UNATTR (w64 u)).setAll KILN_FRET_LOSS (w64 l)).setAll
    KILN_FRET_SCALE (w64 (k % 2 ^ 32))
  s.buildCones f

/-! ### Tag commands (R433 to R436, R450) -/

/-- Free entries F. -/
def ledgerFree (s : State) : Nat := ledgerSize - s.kiln.ledger.length

/-- The status of a tag command. -/
def tagStatusSet (s : State) (r st : Nat) : State := s.setReg (KILN_TAG_STATUS r) (setBits (s.reg (KILN_TAG_STATUS r)) 7 0 st)

/-- Hardware accumulators in use in a region, and spilled ones. -/
def hwTags (s : State) (r : Nat) : Nat := (s.kiln.tags.filter fun x => x.2.home == r && !x.2.spill).length
def spillTags (s : State) (r : Nat) : Nat := (s.kiln.tags.filter fun x => x.2.home == r && x.2.spill).length

/-- The status of OPEN (R435, R450, R492, R507). -/
def openStatus (s : State) (r : Nat) : Nat :=
  let a := s.reg (KILN_TAG_ARG0 r)
  let t := bits a 31 0
  firstCode
    [((s.kiln.tags.find t).isSome || s.mgmt.state == .quiesce, stSTATE), (t == 0 || bit a 35 || bits a 63 40 != 0, stRANGE),
     (decide (s.ledgerFree < 2 * (s.kiln.tags.length + 1) + 65536), stLEDGER_FULL),
     (decide (4096 ≤ s.kiln.tags.length), stTAG_LIMIT), (s.kiln.failed.contains r, stSELFTEST)]

/-- OPEN. -/
def tagOpen (s : State) (r : Nat) : State :=
  let a := s.reg (KILN_TAG_ARG0 r)
  let st := s.openStatus r
  let s1 := s.tagStatusSet r st
  if st ≠ stOK then s1
  else s1.setTag (bits a 31 0)
    { home := r, spill := decide (1024 ≤ s.hwTags r), owner := bits a 39 36, part := bits a 34 32,
      job := s.reg (KILN_TAG_ARG1 r), start := s.fret }

/-- An OPEN tag closes with a reason (Table 13.2). -/
def closeTag (s : State) (t reason : Nat) : State :=
  match s.kiln.tags.find t with
  | some x =>
    if x.closing then s
    else
      (s.setTag t { x with closing := true, finish := s.fret, reason := reason, module := s.moduleId }).updKiln fun k =>
        { k with closing := k.closing ++ [t] }
  | none => s

/-- CLOSE. -/
def tagClose (s : State) (r : Nat) : State :=
  let t := bits (s.reg (KILN_TAG_ARG0 r)) 31 0
  match s.kiln.tags.find t with
  | some x => if x.closing ∨ x.home ≠ r then s.tagStatusSet r stSTATE else (s.tagStatusSet r stOK).closeTag t stOK
  | none => s.tagStatusSet r stSTATE

/-- QUERY. -/
def tagQuery (s : State) (r : Nat) : State :=
  let st := match s.kiln.tags.find (bits (s.reg (KILN_TAG_ARG0 r)) 31 0) with
    | some x => if x.closing then 2 else 1
    | none => 0
  s.setReg (KILN_TAG_STATUS r) (fld stOK 0 ||| fld st 9)

/-- A write of KILN_TAG_CMD; OP 3 is reserved. -/
def tagCmdWrite (s : State) (ag : Agent) (r : Nat) (v : W64) : State :=
  match bits v 1 0 with
  | 0 => s.tagOpen r
  | 1 => s.tagClose r
  | 2 => s.tagQuery r
  | _ => s.log r stRANGE 1 ag.code (KILN_TAG_CMD r % 0x100000000) 0

/-- Every OPEN tag that satisfies `p` closes with a reason. -/
def closeWhere (s : State) (p : MeterTag → Bool) (reason : Nat) : State :=
  ((s.kiln.tags.filter fun x => p x.2 && !x.2.closing).map (·.1)).foldl (fun s t => s.closeTag t reason) s

/-- The tags of a lost host function (R421, R436). -/
def closeOwner (s : State) (f : Nat) : State := s.closeWhere (fun x => x.owner == f + 1) stHOST_LOST

/-! ### Copies of the accumulators (R438) -/

/-- Every 64 frets each home copies its tags to the lowest-numbered other live region. -/
def tagBackup (s : State) : State :=
  if s.fret % 64 ≠ 0 then s
  else s.liveRegions.foldl (fun s r => match s.liveRegions.find? (· != r) with
    | some h => s.updKiln fun k =>
      { k with copies := k.copies.set r (h, s.fret, k.tags.filter (·.2.home == r)),
               tags := k.tags.map fun (t, x) => (t, if x.home = r then { x with fresh := noEnergy } else x) }
    | none => s) s

/-- A tag whose home is lost, as the holder `h` of the copy closes it: with the copied sums and END_FRET of the copy's fret, or with no
energy where no copy holds it (R438, log 183). -/
def lostTag (s : State) (h : Nat) (copy : Option (Nat × MeterTag)) (x : MeterTag) : MeterTag :=
  let z : MeterTag := match copy with
    | some (f, y) => { y with finish := f }
    | none => { x with acc := noEnergy, scale := none, active := 0, bisqueRows := 0, misses := 0, finish := x.start }
  { z with home := h, spill := decide (1024 ≤ s.hwTags h), spilled := z.spilled || decide (1024 ≤ s.hwTags h), closing := true,
           fresh := noEnergy, reason := stPEER_LOST, partSum := true, module := s.moduleId }

/-- The tags of a lost home region are closed by the holder of their copies; their energy after the copy goes to U (R438). -/
def tagsLost (s : State) (r : Nat) : State :=
  let mine := s.kiln.tags.filter (·.2.home == r)
  let copy := match s.kiln.copies.find r with
    | some (h, f, ts) => if s.regionLive h then some (h, f, ts) else none
    | none => none
  let h := (copy.map (·.1)).getD s.nextMaster
  mine.foldl (fun s (t, x) =>
    if x.built then s.setTag t { x with home := h }
    else
      let held := copy.bind fun (_, f, ts) => ((ts.find t).filter fun y => y.start == x.start).map fun y => (f, y)
      (s.setTag t (s.lostTag h held x)).updKiln fun k =>
        { k with closing := if k.closing.contains t then k.closing else k.closing ++ [t],
                 interval := { k.interval with unattr := k.interval.unattr + listSum x.fresh,
                                               attrib := (List.range 8).map fun c => k.interval.attrib.getD c 0 - x.fresh.getD c 0 } }) s

/-! ### Intervals (R442, R450) -/

/-- Tags that are OPEN. -/
def openTags (s : State) : Nat := (s.kiln.tags.filter fun x => !x.2.closing).length

/-- INTERVAL_CLOSE: the record of the frets since the last one, once they are as many as KILN_CFG says, unless the ledger holds it
back. -/
def intervalClose (s : State) : State :=
  let i := s.kiln.interval
  if i.frets < bits (s.reg (KILN_CFG 0)) 23 0 ∨ s.ledgerFree ≤ 4096 then s
  else
    let s := s.buildRecord 5 (4 * i.gap.toNat + 8 * i.first.toNat) 0 0 ([(16, 8, i.start), (24, 8, i.last), (32, 8, i.input),
      (40, 8, i.unattr)] ++ classFields i.attrib ++ [(112, 8, s.kiln.meterTotal), (120, 4, s.openTags)])
    s.updKiln fun k =>
      { k with interval := { last := i.last, first := false }, tags := k.tags.map fun (t, x) => (t, { x with fresh := noEnergy }) }

/-! ### Signing (R443, R444) -/

/-- SIGN_TOKEN: one more token, up to 8. -/
def signToken (s : State) : State := s.updKiln fun k => { k with tokens := min 8 (k.tokens + 1) }

/-- A ledger entry (Table 13.7). -/
def entryBytes (rec sigR sigS : List Byte) (state : Nat) : List Byte :=
  let body := rec ++ sigR ++ sigS ++ leBytes 4 state
  body ++ leBytes 4 (Digest.crc32c body).toNat ++ List.replicate 24 0

/-- The signature of a record: r and s, 48 bytes each, big-endian. -/
def signature (s : State) (rec : List Byte) : List Byte × List Byte :=
  let d := leNat (Digest.sha384 rec)
  ((leBytes 48 (Config.signR s.freeCount d)).reverse, (leBytes 48 (Config.signS s.freeCount d)).reverse)

/-- A record is signed singly and its entry is ready. -/
def signOne (s : State) (q : Nat) (rec : List Byte) : State :=
  let (a, b) := s.signature rec
  (s.updKiln fun k =>
    { k with waiting := k.waiting.filter (·.1 != q), ready := k.ready.set q (entryBytes rec a b 1) }).nextFree

/-- One level of the hash tree (R444). -/
def hashLevel : List (List Byte) → List (List Byte)
  | a :: b :: rest => Digest.sha384 (a ++ b) :: hashLevel rest
  | l => l

/-- The root of the hash tree. -/
def hashRoot : Nat → List (List Byte) → List Byte
  | 0, l => l.headD []
  | fuel + 1, l => if l.length ≤ 1 then l.headD [] else hashRoot fuel (hashLevel l)

/-- A BATCH record over the waiting records, at most 4,096, is built and signed. -/
def signBatch (s : State) : State :=
  let cover := s.kiln.waiting.take 4096
  let root := hashRoot 13 (cover.map fun x => Digest.sha384 x.2)
  let zero : List Byte := List.replicate 48 0
  let q := s.kiln.seq
  let s := s.buildRecord 2 0 0 0 ([(16, 8, (cover.head?.map (·.1)).getD 0), (24, 8, (cover.getLast?.map (·.1)).getD 0),
    (32, 48, leNat root)])
  let s := s.updKiln fun k =>
    { k with waiting := k.waiting.filter (fun x => !(cover.any (·.1 == x.1))),
             ready := cover.foldl (fun m x => m.set x.1 (entryBytes x.2 zero zero 2)) k.ready }
  match s.kiln.waiting.find? (·.1 == q) with
  | some (_, rec) => s.signOne q rec
  | none => s

/-- SIGN_DONE: the signer is free (R444). -/
def signDone (s : State) : State :=
  match s.kiln.waiting with
  | [] => s
  | [(q, rec)] =>
    if 0 < s.kiln.tokens then (s.updKiln fun k => { k with tokens := k.tokens - 1 }).signOne q rec else s.signBatch
  | _ => s.signBatch

/-! ### The ledger and the export ring (R446 to R450) -/

/-- Ring entries. -/
def ringEntries (s : State) : Nat := 2 ^ bits (s.reg (KILN_RING_CFG 0)) 4 0

/-- One entry exported, if the ring runs, has room and no line of it must wait; no byte is written to a reserved range
(R32). -/
def exportOne (s : State) : Option State :=
  let tail := (s.reg (KILN_RING_TAIL 0)).toNat
  let head := (s.reg (KILN_RING_HEAD 0)).toNat
  match s.kiln.ledger.find? (·.1 == s.kiln.nextExport) with
  | some (q, bytes) =>
    if !bit (s.reg (KILN_RING_ENABLE 0)) 0 ∨ (tail + 2 ^ 64 - head) % 2 ^ 64 = s.ringEntries then none
    else
      let r := s.nextMaster
      let a := (s.reg (KILN_RING_BASE 0)).toNat + tail % s.ringEntries * 320
      if s.rangeWaits a 320 true then none else
      let s := if s.bytesReachable a 320 then (s.writeBytes (s.kilnAgent r) a bytes).1 else s
      let s := (s.setAll KILN_RING_TAIL (w64 (tail + 1))).updKiln fun k => { k with nextExport := q + 1 }
      let p := s.reg (KILN_RING_PEG 0)
      some (if bit p 18 then s.signalPeg (s.kilnAgent r) (bits p 15 0) (bits p 17 16) 1 else s)
  | none => none

/-- Entries exported as far as the ring has room (R448). -/
def exportAll : Nat → State → State
  | 0, s => s
  | fuel + 1, s => match s.exportOne with
    | some s' => exportAll fuel s'
    | none => s

def exportRing (s : State) : State := exportAll (s.kiln.ledger.length) s

/-- The tag of an appended CONE entry is FREE (Table 13.2). -/
def freeTag (s : State) (bytes : List Byte) : State :=
  if (bytes.getD 0 0).toNat = 1 then
    let t := leNat ((bytes.drop 4).take 4)
    match s.kiln.tags.find t with
    | some x => if x.built then s.updKiln fun k => { k with tags := k.tags.erase t } else s
    | none => s
  else s

/-- LEDGER_APPEND: the next entry in SEQ order is staged, and exported (R446, R448). -/
def ledgerAppend (s : State) : State :=
  match s.kiln.ready.find s.kiln.nextAppend with
  | some bytes =>
    let q := s.kiln.nextAppend
    if 51 ≤ s.kiln.staged then s
    else
      let s := s.updKiln fun k =>
        { k with ledger := k.ledger ++ [(q, bytes)], ready := k.ready.erase q, nextAppend := q + 1, staged := k.staged + 1 }
      (s.freeTag bytes).exportRing
  | none => s

/-- PAGE_PROGRAM (R447). -/
def pageProgram (s : State) : State := s.updKiln fun k => { k with staged := 0 }

/-- A refused write of a kiln register. -/
def kilnRefuse (s : State) (ag : Agent) (g : Reg) (st : Nat) : State :=
  s.log (g / 0x100000000) st 1 ag.code (g % 0x100000000) 0

/-- KILN_RING_HEAD (R448). -/
def ringHeadWrite (s : State) (ag : Agent) (r : Nat) (v : W64) : State :=
  if (s.reg (KILN_RING_TAIL 0)).toNat < v.toNat then s.kilnRefuse ag (KILN_RING_HEAD r) stRANGE
  else (s.setAll KILN_RING_HEAD v).exportRing

/-- KILN_ACK_SEQ (R449). -/
def ackSeqWrite (s : State) (ag : Agent) (r : Nat) (v : W64) : State :=
  if v.toNat < (s.reg (KILN_ACK_SEQ 0)).toNat ∨ s.kiln.nextExport < v.toNat then s.kilnRefuse ag (KILN_ACK_SEQ r) stRANGE
  else s.setAll KILN_ACK_SEQ v

/-- LEDGER_COMPACT: entries up to a SEQ, all acknowledged, become a CHECKPOINT record (R449). -/
def ledgerCompact (s : State) (upTo : Nat) : State :=
  match s.kiln.ledger with
  | (first, _) :: _ =>
    let (old, rest) := s.kiln.ledger.partition fun x => decide (x.1 ≤ upTo)
    if (s.reg (KILN_ACK_SEQ 0)).toNat ≤ upTo ∨ upTo < first then s
    else
      let last := (old.getLast?.map (·.2)).getD []
      let input := listSum (old.map fun x => if (x.2.getD 0 0).toNat = 5 then leNat ((x.2.drop 32).take 8) else 0)
      let s := s.updKiln fun k => { k with ledger := rest }
      s.buildRecord 3 0 0 0 [(16, 8, first), (24, 8, upTo), (32, 48, leNat (Digest.sha384 (last.take 192))), (80, 8, input)]
  | [] => s

/-- Every built record signed and appended. -/
def drainLedger : Nat → State → State
  | 0, s => s
  | fuel + 1, s =>
    if s.kiln.waiting = [] then s.pageProgram
    else drainLedger fuel s.signDone

/-- Every ready entry appended, page after page. -/
def appendAll (s : State) : State :=
  (List.range (s.kiln.ready.length)).foldl (fun s _ => (s.pageProgram).ledgerAppend) s

/-- The power-loss record (R447): what was built is appended, then POWER_LOSS, signed singly, and the page is programmed.
Open tags are lost. -/
def powerLossRecord (s : State) : State :=
  let s := (s.drainLedger (s.kiln.waiting.length + 1)).appendAll
  let k := s.kiln
  let energy := listSum (k.tags.map fun x => listSum x.2.acc)
  let q := k.seq
  let s := s.buildRecord 4 0 0 0 [(16, 8, k.interval.last), (24, 8, k.interval.input), (32, 8, energy), (40, 8, k.meterTotal),
    (48, 4, k.tags.length)]
  let s := match s.kiln.waiting.find? (·.1 == q) with
    | some (_, rec) => s.signOne q rec
    | none => s
  let s := s.appendAll.pageProgram
  s.updKiln fun k => { k with tags := [], closing := [], copies := [], interval := { first := true }, lostFret := some s.fret }

/-- The kiln at a boot (R447): the ledger goes on, and GAP is set for the first INTERVAL record where the last entry is not a
POWER_LOSS record of the fret in which the input was lost. A warm reset is no power-up, so BOOT stays as it is (Table 13.4). -/
def kilnBoot (s : State) : State :=
  let gap := match s.kiln.ledger.getLast? with
    | some (_, b) =>
      (b.getD 0 0).toNat != 4 || (match s.kiln.lostFret with
        | some f => decide (leNat ((b.drop 16).take 8) < f)
        | none => false)
    | none => false
  s.updKiln fun k =>
    { k with tags := [], closing := [], copies := [], tokens := 8, interval := { first := s.kiln.interval.first, gap := gap }, failed := [], collFailed := [] }

/-- The counters that KILN_COUNT_CLEAR zeroes (Table 13.8). -/
def kilnCounters (r : Nat) : List Reg := [KILN_TAG_SPILLED r, KILN_UNOPENED r, KILN_SENSOR_FAULTS r]

/-- KILN_TAG_USED (Table 13.8). -/
def tagUsed (s : State) (r : Nat) : W64 := fld (s.hwTags r) 0 ||| fld (s.spillTags r) 16

end State
end Sys2Proof.Machine
end

