-- ==== Sys2Proof/Machine/Uluell.lean ====
section
/-!
DEFINITION. Uluell's module state and events (R504, R522), and the reports that other steps cause (Table 15.8, Table 16.11).
-/
namespace Sys2Proof.Machine

/-- STATE of MGMT_MODULE_STATE (Table 16.13). -/
def ModState.code : ModState → Nat
  | .off => 0
  | .aux => 1
  | .boot => 2
  | .configured => 3
  | .run => 4
  | .degraded => 5
  | .quiesce => 6
  | .halt => 7

/-- The HOST slot's MGMT_MBX_PEG, at 0x810 of the physical function's page (R524): not in any region's window. -/
def HOST_MBX_PEG : Reg := rreg 4 0x810

/-- The endpoint port of an image in Attached mode: port 0 unless it names another (R402). -/
def endpointOf (i : Image) : Nat := i.endpoints.headD 0

namespace State

def updMgmt (s : State) (f : Mgmt → Mgmt) : State := { s with mgmt := f s.mgmt }
def updPower (s : State) (f : Power → Power) : State := { s with power := f s.power }

/-- The load rails are on and the dies run: CONFIGURED, RUN, DEGRADED or QUIESCE. -/
def powered (s : State) : Bool :=
  s.mgmt.state == .configured || s.mgmt.state == .run || s.mgmt.state == .degraded || s.mgmt.state == .quiesce

/-- The location under which Uluell and the package error manager release-add: Table 6.4 gives them none. -/
def uluellAgent (s : State) : Agent := { kind := .engine, index := 511, region := s.masterRegion, module := s.moduleId }

/-! ### Mailbox slots -/

def mailbox (s : State) (sl : Slot) : Mailbox :=
  match sl with
  | .i3c => s.mgmt.i3c
  | .host => s.mgmt.host
  | .core => s.mgmt.core

def setMailbox (s : State) (sl : Slot) (x : Mailbox) : State :=
  s.updMgmt fun m => match sl with
    | .i3c => { m with i3c := x }
    | .host => { m with host := x }
    | .core => { m with core := x }

/-- A slot is served: HOST in Attached mode only (R519). -/
def slotServed (s : State) (sl : Slot) : Bool := sl != .host || s.mgmt.image.attached

/-- The requester of a slot is signalled, on DONE and on each event (R518, Table 16.14): the slot's peg, or an in-band
interrupt. -/
def signalSlot (s : State) (sl : Slot) (mdb : Nat) : State :=
  match sl with
  | .i3c => if s.mgmt.ibi && s.mgmt.dynAddr.isSome then s.emit (.ibi mdb) else s
  | .core =>
    let p := s.reg (MGMT_MBX_PEG 0)
    if s.powered && bit p 18 then s.signalPeg s.uluellAgent (bits p 15 0) (bits p 17 16) 1 else s
  | .host =>
    let p := s.reg HOST_MBX_PEG
    let rg := s.reg (hostFn (endpointOf s.mgmt.image) 0 0x10)
    let inside := bit rg 32 && decide (bits rg 15 0 ≤ bits p 15 0 ∧ bits p 15 0 ≤ bits rg 31 16)
    if s.powered && bit p 18 && inside then s.signalPeg s.uluellAgent (bits p 15 0) (bits p 17 16) 1 else s

/-- An event enters the queue of one slot: a full queue drops its oldest (R522). -/
def slotEvent (s : State) (sl : Slot) (e : Event) : State :=
  if !s.slotServed sl then s
  else
    let x := s.mailbox sl
    let x' : Mailbox :=
      if 64 ≤ x.events.length then { x with events := x.events.drop 1 ++ [e], dropped := min 0xFFFFFFFF (x.dropped + 1) }
      else { x with events := x.events ++ [e] }
    (s.setMailbox sl x').signalSlot sl 2

/-- An event of Table 16.11; Uluell runs in every state but OFF. -/
def event (s : State) (code : Nat) (data : W64) : State :=
  if s.mgmt.state = .off then s
  else
    let e : Event := { code := code, fret := s.fret % 2 ^ 32, data := data }
    ((s.slotEvent .i3c e).slotEvent .host e).slotEvent .core e

/-- A change of the module state, with its event. -/
def enterState (s : State) (st : ModState) : State :=
  if s.mgmt.state = st then s
  else (s.updMgmt fun m => { m with state := st }).event 1 (fld s.mgmt.state.code 0 ||| fld st.code 3)

/-- What a step that can mute blocks or fill evidence slots reports (events 7 and 8); `old` is the state before it. -/
def reportAfter (old s : State) : State :=
  let s := (s.blocks.filter fun x => x.2.state == .muted && (old.block x.1).state != .muted).foldl (fun (s : State) x =>
    s.event 7 (fld x.1 0 ||| fld x.2.muteCause 9)) s
  (s.evidence.filter fun x => (old.evidence.find x.1).isNone).foldl (fun (s : State) x =>
    s.event 8 (fld x.1.1 0 ||| fld x.1.2 2)) s

/-- The package error manager tells every live region's peg of a loss or a rejoin (R498). -/
def notifyRegions (s : State) : State :=
  s.liveRegions.foldl (fun s r =>
    let p := s.reg (MGMT_ERR_NOTIFY r)
    if bit p 18 then s.signalPeg s.uluellAgent (bits p 15 0) (bits p 17 16) 1 else s) s

end State
end Sys2Proof.Machine
end

