-- ==== Sys2Proof/Machine/Flags.lean ====
section
/-!
DEFINITION. The two places that turn a state change into the outcome of a command.  The block has no processor flags; its
status words are in Types.lean and Registers.lean.
-/
namespace Sys2Proof.Machine

/-- The outcome of a command: its effect when it is well formed (`wf`, the check `Instr.wf` names for it). One that names a unit which
the module does not have reaches nothing: nothing changes (log 9). -/
def checked (wf : Bool) (s : State) (f : State → State) : Host.Outcome State Fault Refusal :=
  .next (if wf then f s else s)

/-- The outcome of a command of the dies: it arises only while the load rails are on and the dies run (R453, R504); else
nothing happens. -/
def railed (wf : Bool) (s : State) (f : State → State) : Host.Outcome State Fault Refusal :=
  checked wf s fun s => if s.powered then f s else s

end Sys2Proof.Machine
end

