-- ==== Sys2Proof/Machine/MemTiers.lean ====
section
/-!
DEFINITION. Memory tiers (chapter 9): channel states, errors, map-out and rebuild, maintenance, the traffic generators, the
placement attribute table and the bandwidth regulators.
-/
namespace Sys2Proof.Machine

/-- Devices are numbered as HBM channels 0 to 511, then 512 + LPDDR5X package 0 to 23 (Table 15.13 cause 3). -/
def devRegion (d : Nat) : Nat := if d < 512 then d / 128 else (d - 512) / 6

/-- The group of a device: 0 to 7 HBM, 8 LPDDR5X (R301, R309). -/
def devGroup (d : Nat) : Nat := if d < 512 then d % 32 / 4 else 8

/-- The identifier of a device in its group's live list. -/
def devId (d : Nat) : Nat := if d < 512 then d else d - 512

/-- Devices of a region in the order of R324: channels, then packages. -/
def regionDevs (r : Nat) : List Nat :=
  (List.range 128).map (r * 128 + ·) ++ (List.range 6).map (512 + r * 6 + ·)

/-- A training or check record (Table 9.12). -/
def trainRecord (fret : Nat) (m : Margins) : W64 :=
  fld (fret % 2 ^ 32) 0 ||| fld (m.temp % 256) 32 ||| fld (m.load % 128) 40 ||| fld (m.rd % 128) 48 ||| fld (m.wr % 128) 56

namespace State

def dev (s : State) (d : Nat) : Channel := if d < 512 then s.channel d else s.package (d - 512)
def setDev (s : State) (d : Nat) (x : Channel) : State :=
  if d < 512 then { s with hbm := s.hbm.set d x } else { s with lpd := s.lpd.set (d - 512) x }

def setGroup (s : State) (r g : Nat) (x : ChGroup) : State := { s with groups := s.groups.set (r, g) x }

def TRAIN (d : Nat) : Reg := if d < 512 then HBM_CH_TRAIN d else LPD_PKG_TRAIN (d - 512)
def CTRL (d : Nat) : Reg := if d < 512 then HBM_CH_CTRL d else LPD_PKG_CTRL (d - 512)
def CHECK (d : Nat) : Reg := if d < 512 then HBM_CH_CHECK d else LPD_PKG_CHECK (d - 512)

/-! ### Channel states (R305, R306) -/

/-- A device mapped out at run time: its group is PENDING if the present interleave uses it (R306). -/
def mapOutDev (s : State) (d cause : Nat) : State :=
  let r := devRegion d
  let g := devGroup d
  let s := s.setDev d { s.dev d with state := .mappedOut, pending := false, outCause := cause }
  let x := s.group r g
  if x.live.contains (devId d) then s.setGroup r g { x with pending := true } else s

/-- A line of the reserved area that cannot be read in the copy of group `g`, 0 or 4 (R303). -/
def copyLost (s : State) (r g off : Nat) : Bool :=
  let a := r * 0x3000000000 + g * (24 * gib) + off / 128 * 128
  s.unreadable a || (List.range 16).any fun i => s.poison.contains (a / 8 + i)

/-- Some line of the reserved area is unreadable in both copies: the region is to be treated as lost (R303).  Channels repeat with
the product of the two interleaves; poisoned lines are looked at one by one. -/
def reservedLost (s : State) (r : Nat) : Bool :=
  let n := (s.group r 0).live.length * (s.group r 4).live.length
  let both (o : Nat) : Bool := s.copyLost r 0 o && s.copyLost r 4 o
  (List.range (max 1 n)).any (fun k => both (k * 512)) ||
    s.poison.any fun w =>
      let o := (w * 8 - r * 0x3000000000) % (96 * gib)
      decide (r * 0x3000000000 ≤ w * 8 ∧ w * 8 < (r + 1) * 0x3000000000 ∧ o < gib / 2) && both o

/-- A refused command of a channel (R305). -/
def devRefuse (s : State) (ag : Agent) (d st : Nat) : State :=
  s.log (devRegion d) st 1 ag.code (CTRL d % 0x100000000) 0

/-- A write of HBM_CH_CTRL: at most one of its bits may be set (R305, Table 9.2). -/
def chCtrlWrite (s : State) (ag : Agent) (d : Nat) (v : W64) : State :=
  let n := (bit v 0).toNat + (bit v 1).toNat + (bit v 2).toNat
  let x := s.dev d
  if 1 < n then s.devRefuse ag d stRANGE
  else if bit v 0 then (if x.state = .inService then s.mapOutDev d 4 else s.devRefuse ag d stSTATE)
  else if bit v 1 then
    (if x.state = .mappedOut then s.setDev d { x with state := .test } else s.devRefuse ag d stSTATE)
  else if bit v 2 then
    (if x.state = .test then
      (s.setDev d { x with state := .mappedOut }).setReg (HBM_TG_STATUS d) (s.reg (HBM_TG_STATUS d) &&& ~~~1#64)
    else s.devRefuse ag d stSTATE)
  else s

/-- The device that an address lies in, 0xFFFF for on-die SRAM. -/
def devOf (s : State) (a : Nat) : Option Nat :=
  match placeRaw a with
  | .hbm r off => s.hbmChannel r off
  | .lpd r off => (s.lpdPackage r off).map (512 + ·)
  | .store .. => some 0xFFFF
  | _ => none

/-- The 4 KiB unit whose header lies at a region LPDDR offset: headers of 64 bytes stand in the header area in unit order (R310, R311,
log 179). -/
def headerUnit (s : State) (r off : Nat) : Option Nat :=
  let top := (s.group r 8).live.length * 64 * gib
  let base := top - s.headerGib * gib
  if base ≤ off ∧ off < top then some ((off - base) / 64) else none

/-- The words that an uncorrectable error poisons: its own, or the whole unit of a compressed granule whose sector or header it hits
(R312). -/
def eccWords (s : State) (a : Nat) : List Nat :=
  match placeRaw a with
  | .lpd r off =>
    let unit := (s.headerUnit r off).getD (off / 4096)
    let words := (List.range 512).map ((a - off) / 8 + unit * 512 + ·)
    if (s.patEntry r (98304 + unit / 512)).getLsbD 3 then
      (if (s.headerUnit r off).isSome then [a / 8] else []) ++ words
    else [a / 8]
  | _ => [a / 8]

/-- A corrected error of a block store is counted (R143); no register counts others. -/
def eccCorrected (s : State) (a : Nat) : State :=
  match placeRaw a with
  | .store b _ => if s.dieLive (b / 128) (b % 128 / 64) then s.bump (BLK_ECC_CORRECTED b) 1 else s
  | _ => s

/-- An uncorrectable error in the SLC poisons the word of a line that it holds (R292). -/
def eccSlc (s : State) (a : Nat) : State :=
  let r := lineHome (a / 128)
  if s.slc.contains (a / 128) ∧ s.regionLive r then (s.addPoison (a / 8)).log r stPOISON 3 0 (a / 8 * 8) 0xFFFF else s

/-- An uncorrectable error in a hart's cache poisons the word of its copy, which a write-back or recall carries on (R292). -/
def eccCache (s : State) (k a : Nat) : State :=
  match s.cacheOf k (a / 128) with
  | some c =>
    (s.setCache k (a / 128) (some { c with line := { c.line with poison := c.line.poison ||| BitVec.twoPow 16 (a % 128 / 8) } })).log
      (hartRegion k) stPOISON 3 0 (a / 8 * 8) 0xFFFF
  | none => s

/-- An uncorrectable ECC error in memory or a block store (R143, R292, R305): the word is poisoned and logged, and the fourth error of a channel within
2^16 frets maps it out. -/
def eccError (s : State) (a : Nat) : State :=
  match s.devOf a with
  | none => (match placeRaw a with | .t4 p off => if s.t4Reachable p off then s.addPoison (a / 8) else s | _ => s)
  | some d =>
    let r := placeHome (placeRaw a)
    if !s.regionLive r then s
    else
      let s := (s.eccWords a).foldl (fun s w => s.addPoison w) s
      let s := s.log r stPOISON 3 0 (a / 8 * 8) (w64 d)
      if d = 0xFFFF then s
      else
        let x := s.dev d
        let es := (x.errors.filter fun f => decide (s.fret < f + 2 ^ 16)) ++ [s.fret]
        let s := s.setDev d { x with errors := es }
        if x.state = .inService ∧ 4 ≤ es.length then s.mapOutDev d 3 else s

/-- An ECC error in memory, the SLC or a cache: corrected, or not (R143, R292). -/
def eccEvent (s : State) (a : Nat) (place : EccPlace) (corrected : Bool) : State :=
  if corrected then s.eccCorrected a
  else match place with
    | .memory => s.eccError a
    | .slc => s.eccSlc a
    | .cache k => s.eccCache k a

/-! ### Capacities (R304, R310) -/

/-- Devices of a group that are not mapped out. -/
def groupLiveNow (s : State) (r g : Nat) : Nat :=
  if g = 8 then ((regionPackages r).filter fun p => (s.package p).state != .mappedOut && (s.package p).state != .test).length
  else ((groupChannels r g).filter fun c => (s.channel c).state != .mappedOut && (s.channel c).state != .test).length

/-- MGMT_MEM_HBM_CAP (R304, R306). -/
def hbmCap (s : State) (r : Nat) : W64 :=
  let total := ((List.range 8).map fun g => s.groupLiveNow r g * 0x60000000).sum
  let res := (if s.groupLiveNow r 0 = 0 then 0 else gib / 2) + (if s.groupLiveNow r 4 = 0 then 0 else gib / 2)
  w64 (total - res)

/-- MGMT_MEM_LPD_CAP (R310). -/
def lpdCap (s : State) (r : Nat) : W64 :=
  w64 ((s.groupLiveNow r 8 * 64 - s.headerGib) * gib) ||| fld s.headerGib 60

/-- MGMT_MEM_GROUPS and MGMT_MEM_REBUILDING (Table 9.8). -/
def memGroups (s : State) (r : Nat) : W64 :=
  (List.range 9).foldl (fun v g =>
    let x := s.group r g
    v ||| fld x.live.length (5 * g) ||| flag x.pending (48 + g)) 0
def memRebuilding (s : State) (r : Nat) : W64 :=
  (List.range 9).foldl (fun v g => v ||| flag (s.group r g).rebuilding g) 0

/-! ### Rebuild (R307) -/

/-- The addresses of a group. -/
def groupRange (r g : Nat) : Nat × Nat :=
  if g = 8 then (0x10000000000 + r * 0x6000000000, 0x6000000000) else (r * 0x3000000000 + g * 24 * gib, 24 * gib)

/-- GROUP_REBUILD: a write of MGMT_MEM_GROUP_CTRL. -/
def groupCtrlWrite (s : State) (ag : Agent) (r : Nat) (v : W64) : State :=
  let g := bits v 3 0
  let refuse (st : Nat) : State := s.log r st 1 ag.code (MGMT_MEM_GROUP_CTRL r % 0x100000000) 0
  if 8 < g ∨ bits v 63 5 ≠ 0 then refuse stRANGE
  else if !bit v 4 then s
  else
    let x := s.group r g
    if !x.pending ∨ x.rebuilding then refuse stSTATE
    else
      let live := if g = 8 then
          (regionPackages r).filter fun p => (s.package p).state != .mappedOut
        else (groupChannels r g).filter fun c => (s.channel c).state != .mappedOut
      s.setGroup r g { live := live, pending := true, rebuilding := true }

/-- The words of a region's reserved area whose copy in group `g` is poisoned, at their place in the copy of the other group. -/
def poisonedCopy (s : State) (r g : Nat) : List Nat :=
  let base (g : Nat) : Nat := (r * 0x3000000000 + g * (24 * gib)) / 8
  (s.poison.filter fun w => decide (base g ≤ w ∧ w < base g + gib / 16)).map fun w => w - base g + base (4 - g)

/-- REBUILD_DONE: the group is zero-filled over its new interleave, and its copy of the reserved area restored from the other copy, as far
as that one can be read; PENDING stays if one of its channels has gone since. -/
def rebuildDone (s : State) (r g : Nat) : State :=
  let x := s.group r g
  if !x.rebuilding then s
  else
    let (base, len) := groupRange r g
    let bad (i : Nat) : Bool :=
      (if g = 8 then s.package i else s.channel i).state == .mappedOut
    let restored := if g = 0 ∨ g = 4 then s.poisonedCopy r (4 - g) else []
    let s := s.setGroup r g { x with rebuilding := false, pending := x.live.any bad }
    restored.foldl (fun s w => s.addPoison w)
      { s with mem := s.mem.filter fun c => !decide (base ≤ c.1 ∧ c.1 < base + len),
               poison := s.poison.filter fun w => !decide (base ≤ w * 8 ∧ w * 8 < base + len) }

/-! ### Maintenance slots (R323, R324) -/

def marginMin (s : State) (r : Nat) : Nat := bits (s.reg (MGMT_MEM_MAINT r)) 22 16
def marginFail (s : State) (r : Nat) : Nat := bits (s.reg (MGMT_MEM_MAINT r)) 30 24

/-- The first live device from a place in the rotation on. -/
def nextCheck (s : State) (r from_ : Nat) : Option (Nat × Nat) :=
  let ds := regionDevs r
  let order := (List.range 134).map fun i => (from_ + i) % 134
  (order.find? fun i => (s.dev (ds.getD i 0)).state == .inService).map fun i => (i, ds.getD i 0)

/-- The memory part of a maintenance slot: the lowest-numbered pending device retrains, or the next device is checked. -/
def memSlot (s : State) (r : Nat) : State :=
  let ds := regionDevs r
  let busy := ds.any fun d => (s.dev d).state == .retraining
  let due := ds.find? fun d => (s.dev d).pending && (s.dev d).state == .inService
  match due, bit (s.reg (MGMT_MEM_MAINT r)) 32, busy with
  | some d, true, false => s.setDev d { s.dev d with state := .retraining }
  | _, _, _ =>
    match s.nextCheck r (s.maintNext.get 0 r) with
    | some (i, d) => { s with checking := s.checking.set r d, maintNext := s.maintNext.set r ((i + 1) % 134) }
    | none => s

/-- MARGIN_CHECK_DONE: the record, and RETRAIN_PENDING below MARGIN_MIN (Table 9.2). -/
def marginDone (s : State) (r : Nat) (m : Margins) : State :=
  match s.checking.find r with
  | some d =>
    let s : State := { s with checking := s.checking.erase r }
    let x := s.dev d
    if x.state ≠ .inService then s
    else
      (s.setReg (CHECK d) (trainRecord s.fret m)).setDev d
        { x with pending := x.pending || decide (m.rd < s.marginMin r ∨ m.wr < s.marginMin r) }
  | none => s

/-- RETRAIN_DONE: back in service, or mapped out with OUT_CAUSE 2; held requests go on (Table 9.2). -/
def retrainEnd (s : State) (r : Nat) (m : Margins) : State :=
  match (regionDevs r).find? fun d => (s.dev d).state == .retraining with
  | some d =>
    let x := s.dev d
    let s := if d < 512 then s.bump (HBM_CH_RETRAINS d) 1 else s
    let s := if m.rd < s.marginFail r ∨ m.wr < s.marginFail r then s.mapOutDev d 2
      else (s.setReg (TRAIN d) (trainRecord s.fret m)).setDev d
        { x with state := .inService, pending := x.pending && decide (m.rd < s.marginMin r ∨ m.wr < s.marginMin r) }
    s.startAll 3
  | none => s

/-! ### Traffic generator (R308) -/

/-- A write of HBM_TG_CTRL. -/
def tgWrite (s : State) (ag : Agent) (ch : Nat) (v : W64) : State :=
  let s := s.setReg (HBM_TG_CTRL ch) (v &&& 0x3B#64)
  let refuse (st : Nat) : State := s.log (ch / 128) st 1 ag.code (HBM_TG_CTRL ch % 0x100000000) 0
  if !bit v 2 then s
  else
    let mode := bits v 1 0
    let st := (s.channel ch).state
    let rg := s.reg (HBM_TG_RANGE ch)
    let chunks := bits rg 63 32
    if bit (s.reg (HBM_TG_STATUS ch)) 0 ∨ !(st = .test ∨ (st = .inService ∧ mode = 1)) then refuse stSTATE
    else if mode = 3 ∨ (chunks ≠ 0 ∧ 3145728 < bits rg 31 0 + chunks) then refuse stRANGE
    else s.setReg (HBM_TG_STATUS ch) 1

/-- The channel bytes of a generator's range (R308). -/
def tgInRange (s : State) (ch o : Nat) : Bool :=
  let rg := s.reg (HBM_TG_RANGE ch)
  bits rg 63 32 == 0 || decide (bits rg 31 0 * 512 ≤ o ∧ o < (bits rg 31 0 + bits rg 63 32) * 512)

/-- The channel bytes at which poisoned words of memory lie: what a check of ECC alone finds. -/
def channelPoison (s : State) (ch : Nat) : List Nat :=
  s.poison.filterMap fun w => match placeRaw (w * 8) with
    | .hbm r off => (s.hbmWhere r off).bind fun x => if x.1 = ch then some x.2 else none
    | _ => none

/-- The generator's run ends: in its range, the bytes that differed from the pattern or failed ECC, and for READ_ONLY the words that memory
holds poisoned; WRITE_ONLY reads nothing back.  What a channel in TEST holds reaches no agent (R306). -/
def tgEnd (s : State) (ch : Nat) (found : List Nat) : State :=
  if !bit (s.reg (HBM_TG_STATUS ch)) 0 then s
  else
    let mode := bits (s.reg (HBM_TG_CTRL ch)) 1 0
    let errs := if mode = 2 then []
      else ((found ++ if mode = 1 then s.channelPoison ch else []).filter (s.tgInRange ch)).eraseDups
    (s.setReg (HBM_TG_STATUS ch) (2 ||| flag (errs != []) 2 ||| fld (min errs.length 0xFFFFFFFF) 32)).setReg
      (HBM_TG_ERR_ADDR ch) (w64 (errs.headD 0))

/-! ### The placement attribute table (R315 to R318, R331) -/

/-- A write of MGMT_PAT_CMD (R316). -/
def patCmdWrite (s : State) (ag : Agent) (r : Nat) (v : W64) : State :=
  if (s.patBusy.find r).isSome then s.log r stSTATE 1 ag.code (MGMT_PAT_CMD r % 0x100000000) 0
  else
    { s with patBusy := s.patBusy.set r ⟨v, s.reg (MGMT_PAT_DATA0 r), s.reg (MGMT_PAT_DATA1 r), s.reg (MGMT_PAT_DATA2 r)⟩ }

/-- The effect of a PAT command that ends with OK. -/
def patApply (s : State) (r : Nat) (c : PatCmd) : State :=
  let op := bits c.cmd 1 0
  let i := bits c.cmd 31 8
  if bit c.cmd 2 then
    let (e0, e1, e2) := s.rbq.get (0, 0, 0) (r, i)
    match op with
    | 0 => ((s.setReg (MGMT_PAT_DATA0 r) e0).setReg (MGMT_PAT_DATA1 r) e1).setReg (MGMT_PAT_DATA2 r) e2
    | 1 => { s with rbq := s.rbq.set (r, i) (setBits c.d0 5 5 0, c.d1, c.d2) }
    | 2 => { s with rbq := s.rbq.set (r, i) (setBits e0 5 5 1, e1, e2) }
    | _ => { s with rbq := s.rbq.set (r, i) (setBits e0 5 5 0, e1, e2) }
  else
    let e := s.patEntry r i
    match op with
    | 0 => (s.setReg (MGMT_PAT_DATA0 r) (e.setWidth 64)).setReg (MGMT_PAT_DATA1 r) ((e >>> 64).setWidth 64)
    | 1 => { s with pat := s.pat.set (r, i) ((setBits c.d0 5 5 0).setWidth 128 ||| (c.d1.setWidth 128 <<< 64)) }
    | 2 => { s with pat := s.pat.set (r, i) (e ||| 32) }
    | _ => { s with pat := s.pat.set (r, i) (e &&& ~~~32#128) }

/-- The end of a PAT command: requests that waited for a re-encoding go on. -/
def patDone (s : State) (r : Nat) : State :=
  match s.patBusy.find r with
  | some c =>
    let st := s.patStatus r c
    let s : State := { s with patBusy := s.patBusy.erase r }
    ((if st = stOK then s.patApply r c else s).setReg (MGMT_PAT_STATUS r) (w64 st)).startAll 3
  | none => s

/-- The 4 KiB units of a region's COMPRESS granules, by address. -/
def compUnits (s : State) (r : Nat) : List Nat :=
  (s.pat.filter fun x => x.1.1 == r && x.2.getLsbD 3).flatMap fun x =>
    (List.range 512).map fun k => 0x10000000000 + r * 0x6000000000 + (x.1.2 - 98304) * 2 ^ 21 + k * 4096

/-- The sectors S of a unit: none for one of zeros, else 1 to 64 by the encoder's choice, a free value of the unit's bytes (R311). -/
def unitSectors (s : State) (u : Nat) : Nat :=
  let cells := s.mem.filter fun c => decide (u ≤ c.1 ∧ c.1 < u + 4096)
  if cells = [] then 0 else Config.unitSectors cells + 1

/-- LPD_COMP_LOGICAL, and LPD_COMP_STORED with a header for each unit (R313). -/
def compLogical (s : State) (r : Nat) : W64 := w64 ((s.compUnits r).length * 4096)
def compStored (s : State) (r : Nat) : W64 := w64 (((s.compUnits r).map fun u => s.unitSectors u * 64 + 64).sum)

/-! ### Regulators (R321, R322) -/

/-- A write of MGMT_REG_CFG. -/
def regCfgWrite (s : State) (ag : Agent) (r q p : Nat) (v : W64) : State :=
  let v := v &&& mask 33 0
  let mode := bits v 33 32
  if mode = 3 ∨ (mode = 1 ∧ bits v 11 0 = 0) ∨ bits v 31 12 < 2 then
    s.log r stRANGE 1 ag.code (MGMT_REG_CFG r q p % 0x100000000) 0
  else { s with regNext := s.regNext.set (r, q * 8 + p) v }

/-- One bucket at a refill: a waiting configuration takes effect first. -/
def refillBucket (s : State) (r i : Nat) : State :=
  let g := MGMT_REG_CFG r (i / 8) (i % 8)
  let s := match s.regNext.find (r, i) with
    | some v =>
      let s : State := { s with regNext := s.regNext.erase (r, i), buckets := s.buckets.set (r, i) (min (s.buckets.get 0 (r, i)) (bits v 31 12)) }
      s.setReg g v
    | none => s
  let cfg := s.reg g
  if bits cfg 11 0 = 0 then s
  else { s with buckets := s.buckets.set (r, i) (min (bits cfg 31 12) (s.buckets.get 0 (r, i) + bits cfg 11 0)) }

/-- TOKEN_REFILL of a region: the requests that wait for tokens are tried again (R321). -/
def tokenRefill (s : State) (r : Nat) : State := ((List.range 24).foldl (fun s i => s.refillBucket r i) s).offerHeld r

/-- The registers that MGMT_MEM_COUNT_CLEAR zeroes. -/
def memCounters (r : Nat) : List Reg :=
  [MGMT_MEM_BISQUE_ROWS r, MGMT_MEM_PAT_MISSES r, MGMT_MEM_RBQ_MISSES r] ++
    (List.range 24).map fun i => MGMT_REG_WAIT r (i / 8) (i % 8)

end State
end Sys2Proof.Machine
end

