-- ==== Sys2Proof/Machine/Degraded.lean ====
section
/-!
DEFINITION. Silent errors and degraded operation (chapter 15): cross-checks, mutes, fleet packs, die-to-die links, the loss
of dies and regions, rejoining.
-/
namespace Sys2Proof.Machine

/-- The number of lane groups of a link after training, where the command that trains it gives none (the spec gives no
number). -/
def laneGroups : Nat := 32

/-- A group of 64 lanes, all good. -/
def allLanes : W64 := BitVec.allOnes 64

/-- Good lanes of a group. -/
def goodLanes (m : W64) : Nat := ((List.range 64).filter fun i => m.getLsbD i).length

/-- A group with fewer than 60 good lanes is disabled (R493). -/
def groupMap (m : W64) : W64 := if goodLanes m < 60 then 0 else m

/-- The region and the Table 15.13 code of each end of a link: 0 to 2 for a die, 3 lateral P0, 4 lateral P1. -/
def linkEnds (l : Nat) : List (Nat × Nat) := if l < 12 then [(l / 3, l % 3)] else [(l - 12, 3), ((l - 11) % 4, 4)]

/-- Enabled lane groups. -/
def Link.groups (l : Link) : Nat := (l.lanes.filter (· != 0)).length

/-- Fewer than half of the groups are enabled (R494). -/
def Link.narrow (l : Link) : Bool := decide (2 * l.groups < l.lanes.length) || l.lanes == []

namespace State

def link (s : State) (l : Nat) : Link := s.links.get {} l
def setLink (s : State) (l : Nat) (x : Link) : State := { s with links := s.links.set l x }

/-- Time in ns (the model's own clock, for heartbeats). -/
def now (s : State) : Nat := s.markNs + s.phaseNs

/-! ### Losing a die (R295, R496 to R498) -/

/-- A record in the error log of every live region. -/
def logAll (s : State) (status cause : Nat) (detail : W64) : State :=
  s.liveRegions.foldl (fun s r => s.log r status cause 0 0 detail) s

/-- A hart of a lost die: its cache, stores, write-combining entries and outstanding requests are gone. -/
def loseHart (s : State) (h : Nat) : State :=
  let gone (q : Origin) : Bool := match q with
    | .hart x | .wc x => x == h
    | .gs b _ => b + 144 == h
    | _ => false
  let s := (s.dropTarget h).loseCache h
  { s with harts := s.harts.set h { packFail := (s.hart h).packFail, offline := (s.hart h).offline },
           arms := s.arms.erase h, carried := s.carried.erase h, gsCache := s.gsCache.filter (fun x => x.1.1 + 144 != h),
           out := s.out.filter (fun q => !gone q.origin), answers := s.answers.filter fun q => !gone q.origin }

/-- The harts of a die. -/
def dieHarts (r d : Nat) : List Nat :=
  if d = 2 then (List.range 36).map (r * 36 + ·) else (List.range 64).map (144 + r * 128 + d * 64 + ·)

/-- The blocks of a die. -/
def dieBlocks (r d : Nat) : List Nat := if d = 2 then [] else (List.range 64).map (r * 128 + d * 64 + ·)

/-- What a lost die takes with it (Table 15.5). -/
def loseDie (s : State) (r d : Nat) (linkFailed : Bool) : State :=
  let s : State := { s with dies := s.dies.set (r, d) { state := .lost, linkFailed := linkFailed, lostFret := s.fret } }
  let s := (dieBlocks r d).foldl (fun s b => s.loseBlock b) s
  (dieHarts r d).foldl (fun s h => s.loseHart h) s

/-- The three steps that follow the effects of a declaration (R498). -/
def declareLost (s : State) (r d reason : Nat) : State :=
  ((s.logAll stPEER_LOST 8 (fld r 0 ||| fld d 2 ||| fld reason 4)).notifyRegions).event 6 (fld r 0 ||| fld d 2)

/-- The link of a die is held LINK_FAILED. -/
def dieLinkFailed (s : State) (r d : Nat) : Bool := (s.link (3 * r + d)).failed

/-- A compute or core die declared lost; every live home begins its scrub (R295). -/
def dieGone (s : State) (r d reason : Nat) : State :=
  if !s.dieLive r d then s
  else
    let s := s.loseDie r d (s.dieLinkFailed r d)
    let s : State := { s with scrubbing := s.liveRegions }
    s.declareLost r d reason

/-- The conditions of R496 for a die: four heartbeat intervals missed, its rail in FAULT, its link held LINK_FAILED. -/
def dieSilent (s : State) (r d reason : Nat) : Bool :=
  match reason with
  | 1 => decide ((s.link (3 * r + d)).lastBeat + 1024 ≤ s.now)
  | 2 => (s.rails.get {} (r, d)).state == .fault
  | 3 => s.dieLinkFailed r d
  | _ => false

/-- DIE_LOST. -/
def dieLost (s : State) (r d reason : Nat) : State := if s.dieSilent r d reason then s.dieGone r d reason else s

/-- SCRUB_DONE (R295). -/
def scrubDone (s : State) (r : Nat) : State := { s with scrubbing := s.scrubbing.filter (· != r) }

/-! ### Losing a region (R22, R240, R296, R497) -/

/-- Requests to the homes of a lost region end: each waiting hart looks again and finds the line lost. -/
def dropHomeLines (s : State) (r : Nat) : State :=
  let mine (l : Nat) : Bool := lineHome l == r
  let s := ((s.txns.map fun t => (t.line, t.req)) ++ s.retries.map (fun t => (t.line, t.req)) ++ s.nocHeld).foldl
    (fun s (l, q) => if mine l then s.answerLost l q else s) s
  { s with nocHeld := s.nocHeld.filter (fun t => !mine t.1), txns := s.txns.filter (fun t => !mine t.line), retries := s.retries.filter (fun t => !mine t.line),
           dir := s.dir.filter (fun x => !mine x.1), dirOrder := s.dirOrder.filter (fun l => !mine l),
           slc := s.slc.filter (fun l => !mine l), slcDirty := s.slcDirty.filter (fun l => !mine l),
           evicting := s.evicting.filter (fun x => !mine x.1.2),
           harts := s.harts.map fun (h, x) => match x.wait with
             | .line n u => (h, if mine n then { x with wait := .none } else { x with wait := .line n u })
             | _ => (h, x) }

/-- What of a region's units a loss takes: its engines, ports and host port. -/
def dropRegionUnits (s : State) (r : Nat) : State :=
  let gone (q : Origin) : Bool := match q with
    | .dma x _ _ _ | .watch x | .hostWatch x _ | .coll x _ | .kiln x => x == r
    | _ => false
  let s := collPorts s ((List.range 4).foldl (fun s i => s.linkFailure (4 * r + i)) s)
  let s := (List.range 4).foldl (fun s i => s.setPort (4 * r + i) {}) s
  let s := (s.hostLoss r .linkDown fun s f => s.closeOwner f).setHost r {}
  { s with dma := s.dma.filter (fun x => x.1.1 != r), arb := s.arb.erase r, colls := s.colls.filter (fun x => x.1.1 != r),
           out := s.out.filter (fun q => !gone q.origin), answers := s.answers.filter (fun q => !gone q.origin),
           patBusy := s.patBusy.erase r, checking := s.checking.erase r, initDone := s.initDone.filter (· != r),
           evidence := s.evidence.filter fun x => x.1.1 != r,
           power := { s.power with budget := s.power.budget.erase r, missing := s.power.missing.filter (· != r) } }

/-- The effects of a lost base die (Table 15.5), without the declaration. -/
def loseRegion (s : State) (r : Nat) : State :=
  let s := s.dropRegionUnits r
  let s := [0, 1, 2].foldl (fun s d => s.loseDie r d (s.die r d).linkFailed) s
  let s : State := { s with lostRegions := r :: s.lostRegions }
  let s := ((s.dropHomeLines r).dropHome r).tagsLost r
  { s with scrubbing := s.liveRegions }

/-- A region is declared lost (R498): the module in RUN becomes DEGRADED. -/
def regionLost (s : State) (r reason : Nat) : State :=
  if !s.regionLive r then s
  else
    let s := (s.loseRegion r).declareLost r 3 reason
    if s.mgmt.state = .run then s.enterState .degraded else s

/-- Both lateral links of a region are held LINK_FAILED (R496, R497). -/
def isolated (s : State) (r : Nat) : Bool := (s.link (12 + r)).failed && (s.link (12 + (r + 3) % 4)).failed

/-- A lateral link has been silent for four heartbeat intervals, or is held LINK_FAILED (R496). -/
def lateralDown (s : State) (l : Nat) : Bool := (s.link l).failed || decide ((s.link l).lastBeat + 1024 ≤ s.now)

/-- The conditions of R496 for a base die: both lateral links lost, its rail in FAULT, or a line of its reserved area unreadable. -/
def regionSilent (s : State) (r reason : Nat) : Bool :=
  match reason with
  | 1 | 4 => s.lateralDown (12 + r) && s.lateralDown (12 + (r + 3) % 4)
  | 2 => (s.rails.get {} (r, 3)).state == .fault
  | 5 => s.reservedLost r
  | _ => false

/-- REGION_LOST offered: the package error manager declares the loss where a condition of R496 holds. -/
def regionEvent (s : State) (r reason : Nat) : State := if s.regionSilent r reason then s.regionLost r reason else s

/-! ### Die-to-die links (R20, R24, R493 to R496) -/

/-- A flit that fails its CRC is sent again, and a lane named in 16 errors of a fret is due for replacement (R493). -/
def flitCrcError (s : State) (l lane : Nat) : State :=
  let x := s.link l
  let n := x.errors.get 0 lane + 1
  s.setLink l { x with errors := x.errors.set lane n, resent := x.resent + 1,
                       repair := if 16 ≤ n ∧ !x.repair.contains lane then x.repair ++ [lane] else x.repair }

/-- A link is held LINK_FAILED: the record, and the loss of the die or region at its far end (R495, R496). -/
def linkDead (s : State) (l : Nat) : State :=
  let s := s.setLink l { s.link l with failed := true, repair := [] }
  let s := (linkEnds l).foldl (fun s e => s.log e.1 stPEER_LOST 11 0 0 (fld e.2 0 ||| fld (s.link l).groups 16)) s
  if l < 12 then
    let d := s.die (l / 3) (l % 3)
    if d.state = .rejoining then
      { s with dies := s.dies.set (l / 3, l % 3) { d with state := .lost, linkFailed := true } }
    else s.dieGone (l / 3) (l % 3) 3
  else
    let s := if s.isolated (l - 12) then s.regionLost (l - 12) 4 else s
    if s.isolated ((l - 11) % 4) then s.regionLost ((l - 11) % 4) 4 else s

/-- D2D_LANE_MAP_EXCHANGE (R495): both ends adopt the AND of their maps. -/
def laneMapExchange (s : State) (l : Nat) (m : LaneMap) : State :=
  let x := s.link l
  if x.failed then s
  else if !m.agree ∨ m.ours.length ≠ m.theirs.length then
    if 2 ≤ x.attempts then (s.setLink l { x with attempts := 3 }).linkDead l
    else s.setLink l { x with attempts := x.attempts + 1 }
  else
    let y : Link := { lanes := (List.zipWith (· &&& ·) m.ours m.theirs).map groupMap, resent := x.resent, lastBeat := s.now }
    if y.narrow then (s.setLink l y).linkDead l else s.setLink l y

/-- A lane is replaced by a spare of its group, or the group is disabled (R493). -/
def replaceLane (s : State) (r l lane : Nat) : State :=
  let x := s.link l
  let g := lane / 64
  let m := x.lanes.getD g 0
  if !m.getLsbD (lane % 64) then s
  else
    let m' := groupMap (m &&& ~~~(fld 1 (lane % 64)))
    let s := s.setLink l { x with lanes := x.lanes.set g m' }
    if m' = 0 then s
    else
      let code := ((linkEnds l).find? (·.1 == r)).map (·.2)
      (s.bump (MGMT_LANE_REPAIRS r) 1).log r stOK 10 0 0 (fld (code.getD 0) 0 ||| fld g 8 ||| fld (lane % 64) 16)

/-- The links whose lanes a region's error manager repairs: those to its dies, and its lateral link P0. -/
def regionLinks (r : Nat) : List Nat := [3 * r, 3 * r + 1, 3 * r + 2, 12 + r]

/-- A lane of the link is retrained in this slot with no spare of its group free: the link stalls for up to 10 µs, and its heartbeats
are not counted (R325, R496). -/
def linkStalls (s : State) (r l : Nat) (lanes : List (Nat × Nat × Nat)) : Bool :=
  lanes.any fun x => x.1 == l && decide (x.2.2 < s.marginMin r) && decide (goodLanes ((s.link l).lanes.getD (x.2.1 / 64) 0) ≤ 60)

/-- The links' part of a maintenance slot (R325, R493, R494): lanes that were due are replaced; a lane whose margin is below
MARGIN_FAIL in this slot's check is due at the next one. -/
def linkSlot (s : State) (r : Nat) (lanes : List (Nat × Nat × Nat)) : State :=
  (regionLinks r).foldl (fun s l =>
    let due := (s.link l).repair
    let weak := (lanes.filter fun x => x.1 == l && decide (x.2.2 < s.marginFail r)).map (·.2.1)
    let s := due.foldl (fun s lane => s.replaceLane r l lane) s
    let beat := (s.link l).lastBeat
    let s := s.setLink l { s.link l with repair := weak, lastBeat := if s.linkStalls r l lanes then max beat (s.now + 10000) else beat }
    if !(s.link l).failed && (s.link l).lanes != [] && (s.link l).narrow then s.linkDead l else s) s

/-- HEARTBEAT: the sending die stays live; a die already lost stays lost (Table 15.6). -/
def heartbeat (s : State) (l : Nat) : State := s.setLink l { s.link l with lastBeat := max (s.link l).lastBeat s.now }

/-- A cache's request for a line is gone. -/
def dropCacheRequest (s : State) (k line : Nat) : State :=
  { s with txns := s.txns.filter (fun t => !(t.line == line && !t.req.engine && t.req.who == k)),
           retries := s.retries.filter fun t => !(t.line == line && !t.req.engine && t.req.who == k) }

/-- The intermediate regions between two regions, in order, with the lateral links that are failed and the regions that are lost; link
e joins regions e and e + 1 (R20). -/
def lateralPath (failed lost : Nat → Bool) (a b : Nat) : List Nat :=
  let n (k : Nat) : Nat := (a + k) % 4
  if n 1 = b then (if failed a then [n 3, n 2] else [])
  else if n 3 = b then (if failed b then [n 1, n 2] else [])
  else if n 2 = b then (if lost (n 1) ∨ failed a ∨ failed (n 1) then [n 3] else [n 1])
  else []

/-- The links of the path between two regions. -/
def pathEdges (a b : Nat) (mids : List Nat) : List Nat :=
  let stops := [a] ++ mids ++ [b]
  (stops.zip (stops.drop 1)).map fun x => if (x.1 + 1) % 4 = x.2 then x.1 else x.2

/-- A path ran over the failed link or through the lost region, before it was. -/
def pathHit (s : State) (edge lost : Option Nat) (a b : Nat) : Bool :=
  let failed (e : Nat) : Bool := (s.link (12 + e)).failed && edge != some e
  let gone (r : Nat) : Bool := s.lostRegions.contains r && lost != some r
  let mids := lateralPath failed gone a b
  mids.any (fun r => lost == some r) || (pathEdges a b mids).any fun e => edge == some e

/-- The request of an engine that a lost region had accepted goes no further. -/
def dropEngineRequest (s : State) (f : LateralFlit) : State :=
  let kind (q : CReq) : Bool := match q with | .eWrite .. | .eMasked .. => f.write | _ => !f.write
  let mine (line : Nat) (q : CReq) : Bool :=
    line == f.addr / 128 && q.engine && kind q && requester s.moduleId q.who == f.agent
  match s.txns.find? fun t => mine t.line t.req with
  | some t => (({ s with txns := s.txns.erase t } : State).answerLost t.line t.req).startAll 3
  | none =>
    if f.write then s.log f.agent.region stPEER_LOST 6 f.agent.code f.addr 0 else s

/-- A read or AMO that a lost region had accepted completes with poisoned data: for a hart that waits for it, an access fault; the data of
a request that no hart awaits any more is dropped with it. -/
def lostRead (s : State) (f : LateralFlit) : State :=
  let n := f.addr / 128
  match f.agent.hart with
  | some h =>
    let waits := (s.hart h).wait = .line n true ∨ (s.hart h).wait = .line n false
    let s := (s.dropCacheRequest h n).startAll 3
    if waits then s.hartPoison h 5 f.addr f.addr else s
  | none => s.dropEngineRequest f

/-- LATERAL_PATH_CHANGE (R20, R21): flits not delivered are sent again in their order on the new path, ahead of later traffic, so
that the home sees no change; requests that a lost intermediate region had accepted are lost with it, a write with PEER_LOST
recorded, a read with poison. Flits between regions whose path did not change stay as they are. -/
def pathChange (s : State) (edge lost : Option Nat) (fl : List LateralFlit) : State :=
  fl.foldl (fun s f =>
    if lost.isNone || !f.accepted || !s.pathHit edge lost f.src f.dst then s
    else if f.write then s.dropEngineRequest f
    else s.lostRead f) s

/-! ### Rejoining (R499) -/

/-- REJOIN (Table 15.6): the die is reset and its link discards its lane maps. -/
def rejoin (s : State) (ag : Agent) (r d : Nat) : State :=
  let x := s.die r d
  if !s.regionLive r ∨ x.state ≠ .lost ∨ s.scrubbing ≠ [] then
    s.log r stSTATE 1 ag.code (MGMT_DIE_CTRL r d % 0x100000000) 0
  else
    let s : State := { s with dies := s.dies.set (r, d) { x with state := .rejoining, linkFailed := false } }
    s.setLink (3 * r + d) { resent := (s.link (3 * r + d)).resent }

/-- The blocks of a die that rejoins: RESET, or still MUTED with cause 1 where the mute list names them (R488). -/
def rejoinBlocks (s : State) (r d : Nat) : State :=
  (dieBlocks r d).foldl (fun s b => s.updBlock b fun x =>
    if s.muteList.contains b then { x with state := .muted, muteCause := 1 }
    else { state := .reset, scores := x.scores }) s

/-- The steps of R499 are complete. -/
def rejoinDone (s : State) (r d : Nat) : State :=
  let x := s.die r d
  let l := s.link (3 * r + d)
  if x.state ≠ .rejoining ∨ l.failed ∨ l.lanes = [] ∨ (s.rails.get {} (r, d)).state = .fault then s
  else
    let s : State := { s with dies := s.dies.set (r, d) { x with state := .live } }
    let s := (s.setLink (3 * r + d) { l with lastBeat := s.now }).rejoinBlocks r d
    let s := if d = 2 then (dieHarts r d).foldl (fun s h =>
        let s := s.updHart h fun y => { packFail := y.packFail, offline := y.packFail, pc := w64 s.mgmt.image.coreEntry }
        if s.hartRuns h then s.coreFetch h else s) s else s
    ((s.logAll stOK 9 (fld r 0 ||| fld d 2)).notifyRegions).event 6 (fld r 0 ||| fld d 2 ||| fld 1 4)

/-- More than 500 ms, or a failed link (R499). -/
def rejoinTimeout (s : State) (r d : Nat) : State :=
  let x := s.die r d
  if x.state = .rejoining then { s with dies := s.dies.set (r, d) { x with state := .lost, linkFailed := true } } else s

/-! ### Cross-checks (R480 to R482) -/

/-- A block may take part in a cross-check (R480). -/
def eligible (s : State) (b : Nat) : Bool :=
  let x := s.block b
  let quiet := (x.state == .running && (s.hart (144 + b)).wfi) || x.state == .halted
  quiet && x.engines.all (fun (_, g) => g.hw.isEmpty && g.spill.isEmpty && g.started.isEmpty) &&
    x.array.entries.all (fun (_, e) => e.kind == .free) && x.array.shadowState == .empty && x.tuning.isEmpty && x.xchk.isNone

/-- The pair that a maintenance slot takes: blocks of different dies where there are two, else the first two. -/
def xchkPair (s : State) (r : Nat) : Option (Nat × Nat) :=
  let on (d : Nat) : List Nat := (dieBlocks r d).filter s.eligible
  match on 0, on 1 with
  | a :: _, b :: _ => some (a, b)
  | a :: b :: _, [] => some (a, b)
  | [], a :: b :: _ => some (a, b)
  | _, _ => none

/-- XCHK_START. -/
def xchkStart (s : State) (r seed : Nat) : State :=
  match s.xchkPair r with
  | some (a, b) =>
    (s.updBlock a fun x => { x with xchk := some (b, seed) }).updBlock b fun x => { x with xchk := some (a, seed) }
  | none => s

/-- A maintenance slot of a region (R324, R325, R480, R493): every INTERVAL frets. -/
def maintSlot (s : State) (r seed : Nat) (lanes : List (Nat × Nat × Nat)) : State :=
  let n := bits (s.reg (MGMT_MEM_MAINT r)) 15 0
  if !s.regionLive r ∨ n = 0 ∨ s.fret < s.maintLast.get 0 r + n then s
  else
    let s : State := { s with maintLast := s.maintLast.set r s.fret }
    ((s.memSlot r).linkSlot r lanes).xchkStart r seed

/-- A block disagrees (R482, R489): evidence, and a tuning check unless it has been muted since. -/
def disagree (s : State) (b seed : Nat) : State :=
  let s' := s.tuningStart b 8 { kind := 4, block := b, fret := s.fret, seed := seed }
  if (s.block b).state = .muted then s'.updBlock b fun x => { x with tuning := (s.block b).tuning } else s'

/-- The blocks that a third digest convicts. -/
def convicted (a b da db dc : Nat) : List Nat :=
  if da = dc then [b] else if db = dc then [a] else [a, b]

/-- XCHK_DONE (R482): a pair ends its cross-check, or the third block of an earlier mismatch ends its own. -/
def xchkDone (s : State) (a b da db : Nat) (third : Option (Nat × Nat)) : State :=
  let r := a / 128
  match s.thirds.find? fun t => t.a == a && t.b == b with
  | some t =>
    match third with
    | some (c, dc) =>
      if s.eligible c && decide (c / 128 = r) then
        let s1 : State := { s with thirds := s.thirds.erase t }
        let all := convicted a b t.da t.db dc ++ (if t.da ≠ dc ∧ t.db ≠ dc then [c] else [])
        all.foldl (fun s x => s.disagree x t.seed) s1
      else s
    | none => s
  | none =>
    match (s.block a).xchk with
    | some (p, seed) =>
      if p ≠ b then s
      else
        let s := ((s.updBlock a fun x => { x with xchk := none }).updBlock b fun x => { x with xchk := none }).bump
          (MGMT_XCHK_RUNS r) 1
        if da = db then s
        else
          let s := s.bump (MGMT_XCHK_MISMATCH r) 1
          match third with
          | some (c, dc) =>
            if s.eligible c && decide (c / 128 = r) then
              let all := convicted a b da db dc ++ (if da ≠ dc ∧ db ≠ dc then [c] else [])
              all.foldl (fun s x => s.disagree x seed) s
            else { s with thirds := s.thirds ++ [⟨a, b, seed, da, db, s.fret⟩] }
          | none => { s with thirds := s.thirds ++ [⟨a, b, seed, da, db, s.fret⟩] }
    | none => s

/-- No third block became eligible within 2^10 frets (R482). -/
def xchkTimeout (s : State) (a b : Nat) : State :=
  match s.thirds.find? fun t => t.a == a && t.b == b with
  | some t =>
    if s.fret < t.fret + 1024 then s
    else
      let s1 : State := { s with thirds := s.thirds.erase t }
      (s1.disagree a t.seed).disagree b t.seed
  | none => s

/-! ### Mutes and evidence by register (R487 to R489) -/

/-- RELEASE (R488): cause 3, or cause 1 once the mute list no longer names the block. -/
def blkRelease (s : State) (ag : Agent) (r b : Nat) : State :=
  let x := s.block b
  if x.state = .muted ∧ (x.muteCause = 3 ∨ (x.muteCause = 1 ∧ !s.muteList.contains b)) then
    -- completions that are not written yet still are (R186)
    s.setBlock b { state := .reset, scores := x.scores, engines := x.engines, nextSeq := x.nextSeq, marks := x.marks }
  else s.log r stSTATE 1 ag.code (MGMT_BLK_MUTE r % 0x100000000) 0

/-- A write of MGMT_BLK_MUTE. -/
def blkMuteWrite (s : State) (ag : Agent) (r : Nat) (v : W64) : State :=
  let b := bits v 8 0
  if bit v 9 then s.blkRelease ag r b
  else if (s.block b).state = .halted ∨ (s.block b).state = .running then s.muteBlock b 3
  else s.log r stSTATE 1 ag.code (MGMT_BLK_MUTE r % 0x100000000) 0

/-- MGMT_EVID_RELEASE: a 1 in bit `i` releases slot `i`. -/
def evidRelease (s : State) (r : Nat) (v : W64) : State :=
  { s with evidence := s.evidence.filter fun x => !(x.1.1 == r && bit v x.1.2) }

/-- Bit `i` of MGMT_EVID_STATUS. -/
def evidStatus (s : State) (r : Nat) : W64 := s.evidence.foldl (fun v x => if x.1.1 = r then v ||| fld 1 x.1.2 else v) 0

/-! ### Fleet packs (R490 to R492) -/

/-- A unit of a pack class may run its pack now (R491): an offline core; a collective engine with no channel at work; a kiln slice at
boot, and later in the frets that follow the close of an INTERVAL record. -/
def packPossible (s : State) (cls unit : Nat) : Bool :=
  match cls with
  | 0 => s.dieLive (unit / 36) 2 && (s.hart unit).offline
  | 1 => s.regionLive unit && (s.colls.filter (·.1.1 == unit)).all fun x =>
      x.2.state != .armed && x.2.state != .running && x.2.state != .stopping
  | _ => s.regionLive unit && ((s.packs.last.find (cls, unit)).isNone || s.kiln.interval.frets == 0)

/-- A pack run that is due begins at the unit's next opportunity. -/
def packRun (s : State) (cls unit : Nat) : State :=
  let n := s.mgmt.image.packInterval
  let due := match s.packs.last.find (cls, unit) with
    | some f => n != 0 && decide (f + n ≤ s.fret)
    | none => true
  if due && s.packPossible cls unit && !s.packs.running.contains (cls, unit) then
    { s with packs := { running := s.packs.running ++ [(cls, unit)], last := s.packs.last.set (cls, unit) s.fret } }
  else s

/-- A unit fails its pack (R492): it is logged and out of service; a core goes as a lost one does, and its copies are scrubbed (R295). -/
def packFailed (s : State) (cls unit : Nat) : State :=
  let r := if cls = 0 then unit / 36 else unit
  let who := if cls = 0 then hartAgent s.moduleId unit else engineAgent s.moduleId r cls
  let s := s.log r stSELFTEST 12 who.code 0 (w64 cls)
  match cls with
  | 0 =>
    let s := (s.loseHart unit).updHart unit fun x => { x with offline := true, packFail := true }
    { s with scrubbing := s.liveRegions }
  | 1 => s.updKiln fun k => { k with collFailed := if k.collFailed.contains unit then k.collFailed else unit :: k.collFailed }
  | _ => s.updKiln fun k => { k with failed := if k.failed.contains unit then k.failed else unit :: k.failed }

/-- PACK_RESULT. -/
def packResult (s : State) (cls unit : Nat) (passed : Bool) : State :=
  if !s.packs.running.contains (cls, unit) then s
  else
    let s : State := { s with packs := { s.packs with running := s.packs.running.filter (· != (cls, unit)) } }
    if passed then s else s.packFailed cls unit

/-! ### Package health (Table 15.10) -/

/-- A core counts in CORES_LIVE. -/
def coreLive (s : State) (c : Nat) : Bool := s.dieLive (c / 36) 2 && !(s.hart c).packFail

/-- MGMT_PKG_HEALTH. -/
def pkgHealth (s : State) : W64 :=
  fld ((List.range 512).filter fun b => (s.block b).state != .muted).length 0 |||
    fld ((List.range 144).filter fun c => s.coreLive c).length 10 |||
    s.liveRegions.foldl (fun v r => v ||| fld 1 (18 + r)) 0 ||| flag (s.liveRegions.length != 4) 22

/-- MGMT_DIE_STATUS. -/
def dieStatus (s : State) (r d : Nat) : W64 :=
  let x := s.die r d
  fld (match x.state with | .live => 0 | .lost => 1 | .rejoining => 2) 0 ||| flag x.linkFailed 2 |||
    fld ((s.link (3 * r + d)).groups % 2 ^ 16) 16 ||| fld (x.lostFret % 2 ^ 32) 32

/-- MGMT_PACK_STATUS. -/
def packStatus (s : State) : W64 :=
  let v := s.mgmt.packs
  fld (v.getD 0 0) 0 ||| fld (v.getD 1 0) 16 ||| fld (v.getD 2 0) 32 |||
    s.kiln.collFailed.foldl (fun v r => v ||| fld 1 (48 + r)) 0 ||| s.kiln.failed.foldl (fun v r => v ||| fld 1 (52 + r)) 0

/-- Counters that MGMT_ERR_COUNT_CLEAR zeroes. -/
def errCounters (r : Nat) : List Reg :=
  [MGMT_XCHK_RUNS r, MGMT_XCHK_MISMATCH r, MGMT_XCHK_PREEMPT r, MGMT_TUNE_PASS r, MGMT_TUNE_FAIL r, MGMT_EVID_DROPPED r,
   MGMT_LANE_REPAIRS r]

end State
end Sys2Proof.Machine
end

