-- ==== Sys2Proof/Machine/Power.lean ====
section
/-!
DEFINITION. Power entry, the budget exchange, voltage and frequency steps, fast and thermal limits (chapter 14), and the
reset of the package that a loss of power and every boot bring.
-/
namespace Sys2Proof.Machine

/-- The highest step of a domain (Table 14.5). -/
def maxStep (d : Nat) : Nat := if d < 2 then 31 else 15

/-- Frequency in MHz at a step (Table 14.5). -/
def stepMhz (d n : Nat) : Nat := if d < 2 then 50 * (n + 1) else if d = 2 then 200 * (n + 2) else 125 * (n + 1)

namespace State

def rail (s : State) (r i : Nat) : Rail := s.rails.get {} (r, i)
def setRail (s : State) (r i : Nat) (x : Rail) : State := { s with rails := s.rails.set (r, i) x }
def domain (s : State) (r d : Nat) : Domain := s.domains.get {} (r, d)
def setDomain (s : State) (r d : Nat) (x : Domain) : State := { s with domains := s.domains.set (r, d) x }
def updDomain (s : State) (r d : Nat) (f : Domain → Domain) : State := s.setDomain r d (f (s.domain r d))

/-- Every (region, rail) and every (region, stepped domain). -/
def allRails : List (Nat × Nat) := (List.range 4).flatMap fun r => (List.range 9).map fun i => (r, i)
def allDomains : List (Nat × Nat) := (List.range 4).flatMap fun r => (List.range 4).map fun d => (r, d)

/-! ### The reset of the package (R447, R505) -/

/-- Every die reset: what survives is Uluell's and the ledger's. The contents of memory are not kept (log 1). -/
def resetPackage (s : State) : State :=
  let k := s.kiln
  let s1 : State :=
    { State.reset with
      pending := s.pending, freeCount := s.freeCount, outbox := s.outbox, nextTag := s.nextTag,
      muteList := s.muteList, mgmt := s.mgmt, rails := s.rails, period := s.period,
      fab := { serial := s.fab.serial, bootCount := s.fab.bootCount },
      kiln := { seq := k.seq, prev := k.prev, waiting := k.waiting, ready := k.ready, tokens := k.tokens, ledger := k.ledger,
                nextAppend := k.nextAppend, nextExport := k.nextExport, staged := k.staged, meterTotal := k.meterTotal,
                interval := { first := k.interval.first }, lostFret := k.lostFret },
      power := { input := s.power.input, inputLost := s.power.inputLost, steady := s.power.steady, fuseOpen := s.power.fuseOpen,
                 reversedSeen := s.power.reversedSeen } }
  s1.setAll KILN_ACK_SEQ (s.reg (KILN_ACK_SEQ 0))

/-- The load rails go off; a rail in FAULT stays there (R456). -/
def railsOff (s : State) : State :=
  { s with rails := s.rails.map fun (i, x) => (i, if x.state = .fault then x else { x with state := .off }) }

/-! ### The input (R453 to R455) -/

/-- Load rails are on, or are being started. -/
def railsOn (s : State) : Bool := s.powered || (s.mgmt.state == .boot && s.mgmt.bootFault == 0)

/-- An input condition is recorded in PWR_INPUT and reported (R455). -/
def inputEvent (s : State) (f : W64 → W64) : State :=
  let s := s.updPower fun p => { p with input := f p.input }
  s.event 4 s.power.input

/-- The input is lost: the power-loss record, and AUX (Table 16.1). -/
def inputGone (s : State) : State :=
  let s := s.updPower fun p => { p with inputLost := true, steady := false }
  if s.railsOn then (s.powerLossRecord.resetPackage.railsOff).enterState .aux else s

/-- INPUT_LOSS: UV reads 1 while the input is below 250 V. -/
def inputLoss (s : State) : State := (s.inputEvent fun v => v ||| fld 1 48).inputGone

/-- INPUT_LOW: operation continues, and no load rail starts (R454); `volts` in 0.1 V. -/
def inputLow (s : State) (volts : Nat) : State := (s.updPower fun p => { p with steady := false }).inputEvent fun v => setBits v 15 0 volts

def inputOvervoltage (s : State) : State := (s.inputEvent fun v => v ||| fld 1 49).inputGone

/-- INPUT_OVERCURRENT: the fuse opens; PWR_INPUT records a current above 30 A, of which the command gives no value. -/
def inputOvercurrent (s : State) : State :=
  (((s.updPower fun p => { p with fuseOpen := true }).inputEvent fun v =>
    setBits v 31 16 (30001 + Config.overcurrent s.freeCount)).nextFree).inputGone

/-- INPUT_REVERSED: nothing is powered; Uluell learns of it when it next starts. -/
def inputReversed (s : State) : State :=
  let s := (s.updPower fun p => { p with reversedSeen := true }).inputGone
  (s.enterState .off).resetPackage.railsOff

/-- The input has lain in its operating range for 100 ms. -/
def inputGood (s : State) : State :=
  if s.power.fuseOpen then s else s.updPower fun p => { p with inputLost := false, steady := true, input := p.input &&& ~~~(fld 1 48) }

/-! ### Rails (R456 to R458) -/

/-- What the loss of a rail takes with it (Table 14.3). -/
def railEffect (s : State) (r i : Nat) : State :=
  match i with
  | 0 | 1 | 2 => s.dieGone r i 2
  | 3 => s.regionLost r 2
  | 8 => (regionPackages r).foldl (fun s p =>
      if (s.package p).state = .mappedOut then s else s.mapOutDev (512 + p) 4) s
  | _ => (List.range 32).foldl (fun s c => s.chCtrlWrite s.uluellAgent (r * 128 + (i - 4) * 32 + c) 1) s

/-- RAIL_FAULT: the rail goes off in FAULT, a step change in progress is abandoned (R475). -/
def railFault (s : State) (r i cause : Nat) : State :=
  if (s.rail r i).state ≠ .on then s
  else
    let s := s.setRail r i { state := .fault, cause := cause, fret := s.fret }
    let s := if i < 4 then s.updDomain r i fun x => { x with next := none, rising := none } else s
    (s.railEffect r i).event 5 (fld r 0 ||| fld i 2 ||| fld cause 6)

/-! ### Limits set by software (R460, R465, R471) -/

def moduleLimit (s : State) : Nat := bits (s.reg (PWR_MODULE_LIMIT 0)) 12 0
def throttleC (s : State) : Nat := bits (s.reg (PWR_THERMAL 0)) 6 0

/-- A refused write of a power register. -/
def pwrRefuse (s : State) (ag : Agent) (g : Reg) : State := s.log (g / 0x100000000) stRANGE 1 ag.code (g % 0x100000000) 0

/-- The fields of a register write, its reserved bits apart (R10). -/
def moduleLimitOk (v : W64) : Bool := decide (1500 ≤ bits v 12 0 ∧ bits v 12 0 ≤ 5200)

def moduleLimitWrite (s : State) (ag : Agent) (r : Nat) (v : W64) : State :=
  if moduleLimitOk v then s.setAll PWR_MODULE_LIMIT (v &&& mask 12 0) else s.pwrRefuse ag (PWR_MODULE_LIMIT r)

/-- Table 14.4's load power of a domain (compute dies, core die, base die) at the default limit, in W. -/
def defaultBudget (d : Nat) : Nat := if d < 2 then 325 else if d = 2 then 90 else 175

/-- The grants after BOOT (R459): at the default limit Table 14.4's, at another in proportion to it (log 186). -/
def initialGrants (s : State) : State :=
  let part (w : Nat) : Nat := w * s.moduleLimit / 4600
  let s := (allDomains.filter fun x => s.regionLive x.1).foldl (fun s x => s.updDomain x.1 x.2 fun y => { y with budget := part (defaultBudget x.2) }) s
  s.updPower fun p => { p with grants := (List.range 4).map fun r => (r, part 4330 / 4) }

def thermalOk (v : W64) : Bool := decide (85 ≤ bits v 6 0 ∧ bits v 6 0 ≤ 103)

def thermalWrite (s : State) (ag : Agent) (r : Nat) (v : W64) : State :=
  if thermalOk v then s.setAll PWR_THERMAL (v &&& mask 6 0) else s.pwrRefuse ag (PWR_THERMAL r)

/-- FLOOR and CAP of a write of PWR_DOMAIN are allowed (R465, R475, Table 14.12). -/
def domainOk (d : Nat) (v : W64) : Bool := decide (bits v 9 5 ≤ bits v 14 10 ∧ bits v 14 10 ≤ maxStep d)

def domainWrite (s : State) (ag : Agent) (r d : Nat) (v : W64) : State :=
  if domainOk d v then s.updDomain r d fun x => { x with floor := bits v 9 5, cap := bits v 14 10 }
  else s.pwrRefuse ag (PWR_DOMAIN r d)

/-! ### The budget exchange (R466 to R468) -/

/-- BUDGET_MESSAGE. -/
def budgetMessage (s : State) (r p f d : Nat) : State :=
  if !s.regionLive r then s
  else s.updPower fun x =>
    { x with budget := x.budget.set r (p, f, d), arrived := if x.arrived.contains r then x.arrived else r :: x.arrived }

/-- A predicted power, 0 where none is given. -/
def predictedAt (q : Predictions) (r d n : Nat) : Nat :=
  ((q.domains.find? fun x => x.1 == r && x.2.1 == d && x.2.2.1 == n).map (·.2.2.2)).getD 0

def pairAt (l : List (Nat × Nat)) (r : Nat) : Nat := ((l.find? (·.1 == r)).map (·.2)).getD 0

/-- The predicted power of a region with its four domains at given steps. -/
def regionPower (q : Predictions) (r : Nat) (n : List Nat) : Nat :=
  pairAt q.memory r + listSum ((List.range 4).map fun d => predictedAt q r d (n.getD d 0))

/-- One step lower within a grant: the compute dies together, then the core die, then the NoC, never below the floors. -/
def lowerWithin (floors n : List Nat) : List Nat :=
  let at_ (d : Nat) : Nat := n.getD d 0
  let fl (d : Nat) : Nat := floors.getD d 0
  if fl 0 < at_ 0 ∨ fl 1 < at_ 1 then [max (fl 0) (at_ 0 - 1), max (fl 1) (at_ 1 - 1), at_ 2, at_ 3]
  else if fl 2 < at_ 2 then [at_ 0, at_ 1, at_ 2 - 1, at_ 3]
  else [at_ 0, at_ 1, at_ 2, max (fl 3) (at_ 3 - 1)]

/-- One step lower on the FLOOR_BROKEN path: NoC, core die, compute dies (R467). -/
def lowerBroken (n : List Nat) : List Nat :=
  let at_ (d : Nat) : Nat := n.getD d 0
  if 0 < at_ 3 then [at_ 0, at_ 1, at_ 2, at_ 3 - 1]
  else if 0 < at_ 2 then [at_ 0, at_ 1, at_ 2 - 1, at_ 3]
  else [at_ 0 - 1, at_ 1 - 1, at_ 2, at_ 3]

/-- Steps lowered until they fit; at most 64 lowerings reach the bottom. -/
def fitSteps (fits : List Nat → Bool) (lower : List Nat → List Nat) : Nat → List Nat → List Nat
  | 0, n => n
  | fuel + 1, n => if fits n then n else fitSteps fits lower fuel (lower n)

/-- The steps that a region chooses against a limit, from its CAP steps down. -/
def chooseSteps (q : Predictions) (r limit : Nat) (caps floors : List Nat) : List Nat :=
  fitSteps (fun n => decide (regionPower q r n ≤ limit)) (lowerWithin floors) 64 caps

/-- The steps on the FLOOR_BROKEN path: the prediction fits A * F / sf. -/
def brokenSteps (q : Predictions) (r a f sf : Nat) (floors : List Nat) : List Nat :=
  fitSteps (fun n => decide (regionPower q r n * sf ≤ a * f)) lowerBroken 64 floors

/-- The available load power A and whether the input current limit binds it (R465, R466). -/
def available (s : State) : Nat × Bool :=
  let m := (s.reg (KILN_FRET_INPUT 0)).toNat
  let b := m - (s.reg (KILN_FRET_LOSS 0)).toNat
  let lim := 2 * s.power.lastVolts
  let w := s.moduleLimit
  if m = 0 then (0, false)
  else if lim < w then (lim * b / m, decide (lim * b / m < w * b / m)) else (w * b / m, false)

/-- F and D of a region for an exchange: a domain over its rail's current counts at its present step (R469). -/
def demand (s : State) (q : Predictions) (r : Nat) : Nat × Nat :=
  let (_, f, d) := s.power.budget.get (0, 0, 0) r
  let cut := listSum ((List.range 4).map fun i =>
    let x := s.domain r i
    if x.overCurrent then predictedAt q r i x.cap - predictedAt q r i x.step else 0)
  (f, d - cut)

/-- A grant of R466. -/
def grantOf (a sf se f d : Nat) : Nat :=
  if a ≤ sf then f else if se ≤ a - sf then d else f + (a - sf) * (d - f) / se

/-- The grants of an exchange: region, F, D and g. -/
def grants (s : State) (q : Predictions) : List (Nat × Nat × Nat × Nat) :=
  let fd := s.liveRegions.map fun r => (r, s.demand q r)
  let a := s.available.1
  let sf := listSum (fd.map fun x => x.2.1)
  let se := listSum (fd.map fun x => x.2.2 - x.2.1)
  fd.map fun x => (x.1, x.2.1, x.2.2, grantOf a sf se x.2.1 x.2.2)

def domainCaps (s : State) (r : Nat) : List Nat := (List.range 4).map fun d => (s.domain r d).cap
def domainFloors (s : State) (r : Nat) : List Nat := (List.range 4).map fun d => (s.domain r d).floor

/-- A collective channel of the region is ARMED or RUNNING (Table 14.8). -/
def collScheduled (s : State) (r : Nat) : Bool :=
  s.colls.any fun x => x.1.1 == r && (x.2.state == .armed || x.2.state == .running)

/-- The steps of a region for its grant, and the throttle reasons 5 and 6 that they bring. -/
def regionSteps (s : State) (q : Predictions) (r f g a sf : Nat) : List Nat × List Nat :=
  let caps := s.domainCaps r
  let floors := s.domainFloors r
  if a < sf then (brokenSteps q r a f sf floors, [])
  else
    let kept := if s.collScheduled r then pairAt q.reserve r else 0
    let plain := chooseSteps q r g caps floors
    let steps := chooseSteps q r (g - kept) caps floors
    let wide := chooseSteps q r g ((List.range 4).map maxStep) floors
    let held := (List.range 4).any fun d => decide (caps.getD d 0 < wide.getD d 0)
    (steps, (if steps ≠ plain then [5] else []) ++ (if held then [6] else []))

/-- Consecutive marks without a region's message (R468). -/
def missCount (s : State) (r : Nat) : Nat := if s.power.arrived.contains r then 0 else s.power.misses.get 0 r + 1

/-- BUDGET_GRANT: every grant, and every step for the next mark. -/
def budgetGrant (s : State) (q : Predictions) : State :=
  let (a, bound) := s.available
  let gs := s.grants q
  let sf := listSum (gs.map (·.2.1))
  let plan := gs.map fun x => (x.1, s.regionSteps q x.1 x.2.1 x.2.2.2 a sf)
  let reasons := (if gs.any fun x => decide (x.2.2.2 < x.2.2.1) then [0] else []) ++ (if bound then [4] else []) ++
    plan.flatMap (·.2.2)
  let live := s.liveRegions
  let counts := live.map fun r => (r, s.missCount r)
  let s1 := plan.foldl (fun s x => (List.range 4).foldl (fun s d =>
    s.updDomain x.1 d fun y => { y with next := some (x.2.1.getD d 0), overCurrent := false }) s) s
  s1.updPower fun p =>
    { p with grants := gs.map (fun x => (x.1, x.2.2.2)), floorBroken := p.floorBroken || decide (a < sf),
             coming := reasons.eraseDups, misses := counts, missing := live.filter (fun r => s.missCount r != 0), arrived := [],
             singleNext := p.singleNext || counts.any fun x => decide (4 ≤ x.2) }

/-! ### Fast and thermal limits (R469 to R472) -/

def addReason (s : State) (c : Nat) : State :=
  s.updPower fun p => { p with reasons := if p.reasons.contains c then p.reasons else c :: p.reasons }

/-- RAIL_OVERCURRENT; the rails of memory devices feed no stepped domain. -/
def railOvercurrent (s : State) (r i : Nat) : State :=
  if i < 4 then (s.updDomain r i fun x => { x with stretched := true, overCurrent := true }).addReason 1 else s

/-- DROOP_DETECT at a core (0 to 143) or block (144 and up); `cycles` stretched cycles. -/
def droopDetect (s : State) (h cycles : Nat) : State :=
  let s := s.bump (PWR_DROOP_CYCLES (hartRegion h)) cycles
  let s := if cycles = 0 then s else s.addReason 3
  s.updPower fun p => { p with drooping := if p.drooping.contains h then p.drooping else h :: p.drooping }

def droopRecover (s : State) (h : Nat) : State := s.updPower fun p => { p with drooping := p.drooping.filter (· != h) }

/-- THERMAL_SAMPLE (Table 14.6): the hottest sensor of a die governs the domain on it; die 3 is the base die, with the NoC and SLC. -/
def thermalSample (s : State) (r die celsius : Nat) : State :=
  let x := s.domain r die
  let hot := decide (s.throttleC ≤ celsius) || (x.throttled && decide (s.throttleC ≤ celsius + 2))
  let s := s.setDomain r die { x with celsius := celsius, throttled := hot }
  if hot && !x.throttled then s.event 9 (w64 r) else s

/-- THERMAL_TRIP (R472). -/
def thermalTrip (s : State) : State :=
  if !s.railsOn then s
  else
    let f := s.fret
    let r := s.masterRegion
    let s := s.powerLossRecord.resetPackage
    let s : State := { s with rails := allRails.map fun i => (i, { state := .fault, cause := 5, fret := f }) }
    (s.event 9 (fld r 0 ||| fld 1 2)).enterState .halt

def coolantAlarm (s : State) : State := (s.updPower fun p => { p with coolant := true }).event 10 0

/-! ### The mark (R463, R474) -/

/-- One domain at step 5 of a mark: a fall takes effect, a rise sets the voltage; a thermal limit holds it lower. -/
def domainMark (s : State) (r d : Nat) : State :=
  let x := s.domain r d
  let cur := x.rising.getD x.step
  let want := min (x.next.getD cur) x.cap
  let got := if 105 ≤ x.celsius then 0 else if x.throttled then min want (cur - 1) else want
  let s := if got < want then s.addReason 2 else s
  let s := if x.cap < cur then s.addReason 6 else s
  if got ≤ cur then s.setDomain r d { x with set := true, step := got, volt := got, rising := none, next := none, stretched := false }
  else s.setDomain r d { x with set := true, step := cur, volt := got, rising := some got, next := none, stretched := false }

/-- VF_STEP_RISE: the rail has reached its voltage and the frequency changes. -/
def vfStepRise (s : State) (r d : Nat) : State :=
  match (s.domain r d).rising with
  | some n => s.updDomain r d fun x => { x with step := n, rising := none }
  | none => s

/-- A throttle reason counted for the fret `f` that has ended. -/
def countReason (s : State) (f c : Nat) : State :=
  let v := s.reg (PWR_THROTTLE 0 c)
  s.setAll (fun r => PWR_THROTTLE r c) (fld (min 0xFFFFFFFF (bits v 31 0 + 1)) 0 ||| fld (f % 2 ^ 32) 32)

/-- The power manager's part of a mark that ends fret `f`. -/
def powerMark (s : State) (m : MarkInput) (f : Nat) : State :=
  let s := s.power.reasons.foldl (fun s c => s.countReason f c) s
  let s := m.amps.foldl (fun s x => s.updDomain x.1 x.2.1 fun y => { y with amps := x.2.2 }) s
  let s := s.updPower fun p =>
    { p with lastReasons := p.reasons, reasons := if p.drooping = [] then p.coming else (3 :: p.coming).eraseDups, coming := [],
             single := p.single || p.singleNext,
             lastVolts := m.volts, input := setBits (setBits (setBits p.input 15 0 m.volts) 31 16 m.milliamps) 47 32 m.watts }
  (allDomains.filter fun x => s.regionLive x.1).foldl (fun s x => s.domainMark x.1 x.2) s

/-! ### Registers (Tables 14.11 to 14.14) -/

def mgrStatus (s : State) : W64 :=
  let p := s.power
  flag p.single 0 ||| flag p.consistency 1 ||| flag p.floorBroken 2 ||| p.missing.foldl (fun v r => v ||| fld 1 (3 + r)) 0 |||
    flag p.coolant 7

/-- A write to PWR_MGR_STATUS: FLOOR_BROKEN and COOLANT_ALARM are W1C. -/
def mgrStatusWrite (s : State) (v : W64) : State :=
  s.updPower fun p => { p with floorBroken := p.floorBroken && !bit v 2, coolant := p.coolant && !bit v 7 }

/-- A write to PWR_INPUT: OV and REVERSED are W1C. -/
def inputWrite (s : State) (v : W64) : State :=
  s.updPower fun p => { p with input := p.input &&& ~~~(v &&& (fld 1 49 ||| fld 1 50)) }

def throttleNow (s : State) : W64 := s.power.lastReasons.foldl (fun v c => v ||| fld 1 c) 0

/-- An entry of the per-chip voltage table (Table 14.13), fused at test; REF_MV is at least VOLT_MV (R464). -/
def vtableEntry (r d step : Nat) : W64 :=
  let mv := Config.voltMv r d step
  fld mv 0 ||| fld (Config.loadlineUohm r d step) 12 ||| fld (max mv.val (Config.refMv r d step)) 24

/-- The set-point in force in mV (R464, R476). -/
def setPoint (s : State) (r d : Nat) : Nat :=
  let x := s.domain r d
  let e := vtableEntry r d x.volt
  (if s.power.consistency then bits e 35 24 else bits e 11 0) + x.amps * bits e 23 12 / 1000

def domainReg (s : State) (r d : Nat) : W64 :=
  let x := s.domain r d
  fld x.step 0 ||| fld x.floor 5 ||| fld x.cap 10 ||| fld (if x.set then stepMhz d x.step else 0) 16 |||
    fld (if x.set then s.setPoint r d % 4096 else 0) 32

def vtableData (s : State) (r : Nat) : W64 :=
  let i := s.reg (PWR_VTABLE_IDX r)
  vtableEntry r (bits i 1 0) (bits i 6 2)

def railStatus (s : State) (r i : Nat) : W64 :=
  let x := s.rail r i
  fld (match x.state with | .off => 0 | .on => 1 | .fault => 2) 0 ||| fld x.cause 2 ||| fld (x.fret % 2 ^ 32) 32

/-- What PWR_COUNT_CLEAR zeroes. -/
def pwrCounters : List Reg :=
  (List.range 4).flatMap fun r => PWR_DROOP_CYCLES r :: (List.range 7).map fun c => PWR_THROTTLE r c

end State
end Sys2Proof.Machine
end

