-- ==== Sys2Proof/Machine/Boot.lean ====
section
/-!
DEFINITION. Images, overrides and the boot sequence (R504, R508 to R515).
-/
namespace Sys2Proof.Machine

/-! ### Boot faults (Table 16.13) -/

def bfIMAGE_SIG : Nat := 1
def bfIMAGE_CONTENT : Nat := 2
def bfIDENTITY : Nat := 3
def bfNO_REGION : Nat := 4
def bfSTEP_TIMEOUT : Nat := 5

/-- Bytes of an image slot. -/
def slotBytes : Nat := 48 * 2 ^ 20

/-! ### Image values (R511, R513) -/

/-- A regulator configuration is allowed (R322). -/
def regCfgOk (v : W64) : Bool :=
  let mode := bits v 33 32
  !(mode == 3 || (mode == 1 && bits v 11 0 == 0) || decide (bits v 31 12 < 2))

/-- MGMT_MEM_MAINT: MARGIN_FAIL is not above MARGIN_MIN (Table 9.7). -/
def maintOk (v : W64) : Bool := decide (bits v 30 24 ≤ bits v 22 16)

/-- KILN_CFG is in its range (Table 13.8). -/
def kilnCfgOk (v : W64) : Bool := decide (1024 ≤ bits v 23 0 ∧ bits v 23 0 ≤ 16777215)

/-- A partition range lies in T2 or T3, in units of 2 MiB (R513). -/
def rangeOk (x : Nat × Nat × Nat) : Bool :=
  let (_, base, size) := x
  let inside (lo hi : Nat) : Bool := decide (lo ≤ base ∧ base + size ≤ hi)
  base % 0x200000 == 0 && size % 0x200000 == 0 && size != 0 &&
    (inside 0 0xC000000000 || inside 0x10000000000 0x28000000000)

/-- No two ranges overlap. -/
def rangesApart : List (Nat × Nat × Nat) → Bool
  | [] => true
  | x :: rest => rest.all (fun y => decide (x.2.1 + x.2.2 ≤ y.2.1 ∨ y.2.1 + y.2.2 ≤ x.2.1)) && rangesApart rest

/-- Every value of the sections lies in the range of its register, and R402 and R513 hold. -/
def imageValuesOk (i : Image) : Bool :=
  decide (4 ≤ i.fretPeriod ∧ i.fretPeriod ≤ 64) && moduleOk i && decide (i.endpoints.length ≤ 1) &&
    i.endpoints.all (fun p => decide (p < 4)) && decide (i.partitions ≤ 8) &&
    i.ranges.all (fun x => decide (x.1 < i.partitions) && rangeOk x) && rangesApart i.ranges &&
    (List.range 8).all (fun p => decide ((i.ranges.filter (·.1 == p)).length ≤ 64)) &&
    i.regulators.all (fun x => decide (x.1 < 4 ∧ x.2.1 < 3 ∧ x.2.2.1 < i.partitions) && regCfgOk x.2.2.2) &&
    i.bifurc.all (fun b => decide (b ≤ 2)) && decide (30 ≤ i.bar2Log2 ∧ i.bar2Log2 ≤ 42) && i.torus.all (fun n => decide (n < 65536)) &&
    maintOk i.maint && i.maint == i.maint &&& 0x17F7FFFFF#64 && decide (i.headerGib ≤ 6) && decide (1024 ≤ i.kilnInterval ∧ i.kilnInterval ≤ 16777215)
where
  moduleOk (i : Image) : Bool :=
    decide (1500 ≤ i.moduleLimit ∧ i.moduleLimit ≤ 5200 ∧ 85 ≤ i.throttleC ∧ i.throttleC ≤ 103) &&
      i.domains.all fun x => decide (x.1 < 4 ∧ x.2.1 < 4 ∧ x.2.2.1 ≤ x.2.2.2 ∧ x.2.2.2 ≤ maxStep x.2.1)

namespace State

/-! ### Configuration flash (R509, R510) -/

/-- A byte of an image slot; erased flash reads 0xFF. -/
def flashByte (s : State) (slot off : Nat) : Byte := ~~~(Memory.read (s.mgmt.flash.get [] slot) off)
def flashBytes (s : State) (slot off n : Nat) : List Byte := (List.range n).map fun i => s.flashByte slot (off + i)
def flashNat (s : State) (slot off n : Nat) : Nat := leNat (s.flashBytes slot off n)

/-- Bytes programmed into a slot. -/
def flashWrite (s : State) (slot off : Nat) (bs : List Byte) : State :=
  s.updMgmt fun m => { m with flash := m.flash.set slot (Memory.writeList (m.flash.get [] slot) off (bs.map fun b => ~~~b)) }

/-- A slot is valid (R510). -/
def slotValid (s : State) (slot : Nat) (v : Verdict) : Bool :=
  let len := s.flashNat slot 8 4
  s.flashNat slot 0 4 == 0x4A52444C && s.flashNat slot 4 2 == 1 && decide (176 ≤ len ∧ len ≤ slotBytes) &&
    decide (s.flashNat slot 24 1 ≤ 4) && v.sigOk &&
    s.flashBytes slot 32 48 == Digest.sha384 (s.flashBytes slot 176 (len - 176))

/-- The directory: TYPE, OFFSET and SIZE of each section (Table 16.4). -/
def directory (s : State) (slot : Nat) : List (Nat × Nat × Nat) :=
  (List.range (s.flashNat slot 6 2)).map fun i =>
    (s.flashNat slot (176 + 16 * i) 2, s.flashNat slot (176 + 16 * i + 8) 4, s.flashNat slot (176 + 16 * i + 12) 4)

/-- The content checks of R511. -/
def slotContent (s : State) (slot : Nat) (v : Verdict) : Bool :=
  let n := s.flashNat slot 6 2
  let d := if n ≤ 64 then s.directory slot else []
  decide (1 ≤ n ∧ n ≤ 64) && [0x01, 0x02, 0x0D].all (fun t => d.any (·.1 == t)) &&
    d.all (fun x => !decide (0x0E ≤ x.1 ∧ x.1 ≤ 0x7F) && decide (x.2.1 + x.2.2 ≤ s.flashNat slot 8 4)) && rangesApart d &&
    imageValuesOk v.image

/-- SEQUENCE of a slot. -/
def slotSequence (s : State) (slot : Nat) : Nat := s.flashNat slot 16 8

/-- The slots in the order in which Uluell tries them: valid ones, the higher SEQUENCE first, A on a tie. -/
def slotOrder (s : State) (i : BootInput) : List (Nat × Verdict) :=
  let all := if s.slotSequence 0 < s.slotSequence 1 then [(1, i.slotB), (0, i.slotA)] else [(0, i.slotA), (1, i.slotB)]
  all.filter fun x => s.slotValid x.1 x.2

/-! ### Overrides (R514, R515, Table 16.6) -/

/-- The SET value in force of a setting: its last record governs. -/
def override (s : State) (key index : Nat) : Option W64 :=
  match (s.mgmt.journal.filter fun r => r.key == key && r.index == index).getLast? with
  | some r => if r.op = 1 then some r.value else none
  | none => none

/-- The indices of a setting. -/
def settingCount (key : Nat) : Nat :=
  match key with
  | 2 => 16
  | 4 => 128
  | 5 => 4
  | 1 | 3 | 6 | 7 | 8 => 1
  | _ => 0

/-- A KEY and INDEX of Table 16.6. -/
def settingNamed (key index : Nat) : Bool :=
  decide (index < settingCount key) && (key != 4 || decide (index % 32 / 8 < 3))

/-- A VALUE that the setting's register accepts, with every unused bit zero (R514). -/
def settingOk (key index : Nat) (v : W64) : Bool :=
  match key with
  | 1 => moduleLimitOk v && v == v &&& mask 12 0
  | 2 => domainOk (index % 4) v && v == v &&& mask 14 5
  | 3 => thermalOk v && v == v &&& mask 6 0
  | 4 => regCfgOk v && v == v &&& mask 33 0
  | 5 => maintOk v && v == v &&& 0x17F7FFFFF#64
  | 6 => kilnCfgOk v && v == v &&& mask 23 0
  | 7 => decide (4 ≤ v.toNat ∧ v.toNat ≤ 64)
  | _ => v == v &&& 3

/-- The value that the image, or the default, gives a setting, in the format of Table 16.6. -/
def imageSetting (i : Image) (key index : Nat) : W64 :=
  match key with
  | 1 => w64 i.moduleLimit
  | 2 => match i.domains.find? fun x => x.1 == index / 4 && x.2.1 == index % 4 with
    | some x => fld x.2.2.1 5 ||| fld x.2.2.2 10
    | none => fld (maxStep (index % 4)) 10
  | 3 => w64 i.throttleC
  | 4 => ((i.regulators.find? fun x => x.1 == index / 32 && x.2.1 == index % 32 / 8 && x.2.2.1 == index % 8).map
      (·.2.2.2)).getD 0
  | 5 => i.maint
  | 6 => w64 i.kilnInterval
  | 7 => w64 i.fretPeriod
  | _ => flag i.autoBoot 0 ||| flag i.holdConfigured 1

/-- The value in force of a setting. -/
def settingValue (s : State) (key index : Nat) : W64 := (s.override key index).getD (imageSetting s.mgmt.image key index)

def autoBootOn (s : State) : Bool := bit (s.settingValue 8 0) 0
def holdOn (s : State) : Bool := bit (s.settingValue 8 0) 1

/-- The register of a setting written as boot step 3 writes it. -/
def applySetting (s : State) (key index : Nat) (v : W64) : State :=
  match key with
  | 1 => s.setAll PWR_MODULE_LIMIT v
  | 2 => s.updDomain (index / 4) (index % 4) fun x => { x with floor := bits v 9 5, cap := bits v 14 10 }
  | 3 => s.setAll PWR_THERMAL v
  | 4 => s.setReg (MGMT_REG_CFG (index / 32) (index % 32 / 8) (index % 8)) v
  | 5 => s.setReg (MGMT_MEM_MAINT index) v
  | 6 => s.setAll KILN_CFG v
  | 7 => { s.setAll FAB_FRET_PERIOD v with period := v.toNat }
  | _ => s

/-- Every (KEY, INDEX) of Table 16.6. -/
def allSettings : List (Nat × Nat) :=
  [1, 2, 3, 4, 5, 6, 7].flatMap fun k => ((List.range (settingCount k)).filter fun i => settingNamed k i).map fun i => (k, i)

/-! ### Boot steps (Table 16.2) -/

/-- A boot fault: reported, and the load rails go off (Table 16.1). -/
def bootFail (s : State) (step code : Nat) : State :=
  ((s.updMgmt fun m => { m with bootStep := step, bootFault := code }).railsOff).event 2 (w64 code)

/-- A later step runs only without a fault. -/
def thenStep (s : State) (f : State → State) : State := if s.mgmt.bootFault = 0 then f s else s

/-- Step 1 (R510, R511). -/
def boot1 (s : State) (i : BootInput) : State :=
  let order := s.slotOrder i
  match order.find? fun x => s.slotContent x.1 x.2 with
  | some (slot, v) =>
    s.updMgmt fun m => { m with imageSlot := slot, image := { v.image with sequence := s.slotSequence slot } }
  | none => s.bootFail 1 (if order = [] then bfIMAGE_SIG else bfIMAGE_CONTENT)

/-- The sensed identity of base dies (R28): each ROTATION equals its REGION, each REGION is distinct, each fuse valid. -/
def identityOk (s : State) : Bool :=
  let on := (List.range 4).filter fun r => (s.rail r 3).state == .on
  let ids := on.map fun r => s.mgmt.idents.get (r, r, true) r
  ids.all (fun x => x.2.2 && x.1 == x.2.1) && decide (ids.map (·.1)).Nodup

/-- Step 2 (R456, R28): a region whose BASE rail faults is not brought up, so its other rails are not started. -/
def boot2 (s : State) (i : BootInput) : State :=
  let s := allRails.foldl (fun s x => s.setRail x.1 x.2 { state := .on }) s
  let s := i.rails.foldl (fun s x =>
    (s.setRail x.1 x.2.1 { state := .fault, cause := x.2.2, fret := s.fret }).event 5 (fld x.1 0 ||| fld x.2.1 2 ||| fld x.2.2 6)) s
  let s := (allRails.filter fun x => x.2 != 3 && (s.rail x.1 3).state == .fault).foldl (fun s x => s.setRail x.1 x.2 {}) s
  let s := s.updMgmt fun m => { m with idents := i.idents.map fun x => (x.1, x.2) }
  if (List.range 4).all fun r => (s.rail r 3).state != .on then s.bootFail 2 bfNO_REGION
  else if s.identityOk then s else s.bootFail 2 bfIDENTITY

/-- A granule range given to a partition (R513). -/
def partitionRange (s : State) (x : Nat × Nat × Nat) : State :=
  (List.range (x.2.2 / 0x200000)).foldl (fun s k => match patIndex (x.2.1 + k * 0x200000) with
    | some (r, j) => { s with pat := s.pat.set (r, j) (BitVec.ofNat 128 (patTier j + x.1 <<< 8)) }
    | none => s) s

/-- A host port as the image sets it (R400 to R403). -/
def bootPort (s : State) (r : Nat) : State :=
  let i := s.mgmt.image
  let ep := i.attached && r == endpointOf i
  s.setHost r { endpoint := ep, bifurc := if ep then 0 else i.bifurc.getD r 0, cxlT2 := ep && i.cxlT2,
                totalVfs := if ep then i.partitions else 0, bar2Log2 := i.bar2Log2, fns := [(0, { bar2Log2 := i.bar2Log2 })] }

/-- Step 3 (R34, R297, R513, R515): every die out of reset, image values and overrides in place. -/
def boot3 (s : State) : State :=
  let i := s.mgmt.image
  let lost := (List.range 4).filter fun r => (s.rail r 3).state != .on
  let dies := allRails.filter fun x => decide (x.2 < 3) && ((s.rail x.1 x.2).state != .on || lost.contains x.1)
  let s : State :=
    { s with lostRegions := lost, dies := dies.map (fun x => (x, { state := .lost })), strictScope := i.strictScope,
             headerGib := i.headerGib, master := ({ s with lostRegions := lost } : State).nextMaster,
             blocks := s.muteList.map fun b => (b, { state := .muted, muteCause := 1 }),
             fab :=
               { s.fab with coord := i.coord, torus := i.torus, digest := i.planDigest, origin := i.isOrigin, swRoutes := i.swRoutes,
                            best := { cls := if i.isOrigin then 0 else 1, serial := s.fab.serial } } }
  let s := allSettings.foldl (fun s x => s.applySetting x.1 x.2 (s.settingValue x.1 x.2)) s
  let s := (s.updPower fun p => { p with consistency := i.consistency }).initialGrants.kilnBoot
  let s := i.ranges.foldl (fun s x => s.partitionRange x) s
  -- FAB_PORT_CTRL.ENABLE has its value before BOOT is left (R11); the ports train in step 7
  let s := ((List.range 16).filter fun k => i.portEnable.getD k false && s.regionLive (k / 4)).foldl (fun s k =>
    s.updPort k fun x => { x with enabled := true }) s
  dies.foldl (fun s x => (dieBlocks x.1 x.2).foldl (fun s b => s.loseBlock b) s) (s.liveRegions.foldl (fun s r => s.bootPort r) s)

/-- A device after training at boot: in service with its record, or mapped out (Table 9.2, R309). -/
def trainDev (s : State) (i : BootInput) (d : Nat) : State :=
  let r := devRegion d
  let rail := if d < 512 then 4 + d % 128 / 32 else 8
  let fail := if d < 512 then i.hbmFail.contains d else i.lpdFail.contains (d - 512)
  if (s.rail r rail).state ≠ .on then s.setDev d { state := .mappedOut, outCause := 4 }
  else if fail then s.setDev d { state := .mappedOut, outCause := 1 }
  else s.setReg (TRAIN d) (trainRecord s.fret i.margins)

/-- A group as built at boot: its devices that are not mapped out (R301, R309). -/
def buildGroup (s : State) (r g : Nat) : State :=
  let all := if g = 8 then regionPackages r else groupChannels r g
  let dev (c : Nat) : Nat := if g = 8 then 512 + c else c
  s.setGroup r g { live := all.filter fun c => (s.dev (dev c)).state != .mappedOut }

/-- A region qualifies (R304). -/
def qualifies (s : State) (r : Nat) : Bool := s.regionLive r && ((s.group r 0).live != [] || (s.group r 4).live != [])

/-- Die-to-die links train (R495). -/
def trainLinks (s : State) (i : BootInput) : State :=
  let s := (List.range 16).foldl (fun s l =>
    s.setLink l { lanes := List.replicate laneGroups allLanes, lastBeat := s.now }) s
  i.links.foldl (fun s x =>
    let s := s.setLink x.1 { lanes := x.2.map groupMap, lastBeat := s.now }
    if (s.link x.1).narrow then s.linkDead x.1 else s) s

/-- Step 4; the core firmware, which step 3 copies, is in HBM. -/
def boot4 (s : State) (i : BootInput) : State :=
  let s := s.trainLinks i
  let s := (List.range 4).foldl (fun s r => (regionDevs r).foldl (fun s d => s.trainDev i d) s) s
  let s := (List.range 4).foldl (fun s r => (List.range 9).foldl (fun s g => s.buildGroup r g) s) s
  let out := s.liveRegions.filter fun r => !s.qualifies r
  if s.liveRegions.all fun r => out.contains r then s.bootFail 4 bfNO_REGION
  else
    let s := out.foldl (fun s r => s.loseRegion r) s
    s.mgmt.image.coreFw.foldl (fun s x => s.wrBytes x.1 [x.2]) s

/-- Step 5 (R490): a pack that fails verification is reported, and the one in flash stays in use. -/
def boot5 (s : State) (i : BootInput) : State :=
  let s := i.packFail.foldl (fun s c => s.event 3 (w64 c)) s
  s.updMgmt fun m =>
    { m with packs := (List.range 3).map fun c => if i.packFail.contains c then m.packs.getD c 0 else m.image.packVersions.getD c 0 }

/-- Step 6 (R491, R492): core packs run and each passing core starts at CORE_ENTRY. -/
def boot6 (s : State) (i : BootInput) : State :=
  let s := (List.range 144).foldl (fun s c =>
    if s.dieLive (c / 36) 2 then s.updHart c fun x => { x with pc := w64 s.mgmt.image.coreEntry } else s) s
  let s : State :=
    { s with coresOn := true,
             packs := { s.packs with last := (List.range 144).foldl (fun m c => m.set (0, c) s.fret) s.packs.last } }
  let s := i.coreFail.foldl (fun s c => if s.dieLive (c / 36) 2 then s.packFailed 0 c else s) s
  let s := (List.range 144).foldl (fun s c => if s.hartRuns c then s.coreFetch c else s) s
  s.updMgmt fun m => { m with step6 := true }

/-- Step 7 begins: the ports that the image enables train (R347). -/
def boot7 (s : State) : State :=
  let s := s.updMgmt fun m => { m with bootStep := 7, step7 := true }
  ((List.range 16).filter fun k => s.mgmt.image.portEnable.getD k false && s.regionLive (k / 4)).foldl (fun s k => s.portEnable k) s

/-- RUN, or DEGRADED if a region is not live. -/
def enterRun (s : State) : State := s.enterState (if s.liveRegions.length = 4 then .run else .degraded)

/-- A boot begins: from step 1, or from step 3 on a warm reset (R505). -/
def startBoot (s : State) (warm : Bool) : State :=
  let s : State := { s.resetPackage with fab := { serial := s.fab.serial, bootCount := (s.fab.bootCount + 1) % 65536 } }
  let s : State := if warm then s else ({ s with rails := [] } : State).updKiln fun k => { k with interval := { k.interval with first := true } }
  (s.updMgmt fun m =>
    { m with bootStep := if warm then 3 else 1, bootFault := 0, warm := warm, step6 := false, step7 := false }).enterState .boot

/-- AUTO_BOOT (R454, Table 16.1). -/
def autoBoot (s : State) : State :=
  let s := s.inputGood
  if s.mgmt.state = .aux ∧ !s.power.inputLost ∧ s.autoBootOn then s.startBoot false else s

/-- BOOT: steps 1 to 6 in order, and step 7 unless the image holds it; in CONFIGURED, step 7 ends once an epoch is set. -/
def boot (s : State) (i : BootInput) : State :=
  match s.mgmt.state with
  | .boot =>
    if s.mgmt.bootFault ≠ 0 ∨ s.power.inputLost ∨ (!s.mgmt.warm ∧ !s.power.steady) then s
    else
      let s := if s.mgmt.warm then s else (s.boot1 i).thenStep fun s => s.boot2 i
      let s := ((s.thenStep boot3).thenStep fun s => s.boot4 i).thenStep fun s => s.boot5 i
      s.thenStep fun s =>
        let s := (s.updMgmt fun m => { m with bootStep := 6 }).enterState .configured
        let s := s.boot6 i
        if s.holdOn then s else s.boot7
  | .configured =>
    if s.mgmt.step7 ∧ s.epochSet then (s.updMgmt fun m => { m with bootStep := 0 }).enterRun else s
  | _ => s

/-- BOOT_STEP_TIMEOUT (R508). -/
def bootTimeout (s : State) : State :=
  if s.mgmt.state = .boot ∧ s.mgmt.bootFault = 0 then s.bootFail s.mgmt.bootStep bfSTEP_TIMEOUT else s

/-- AUX_POWER_UP (R454, R516): Uluell starts, its dynamic address cleared and its straps sampled. -/
def auxPowerUp (s : State) (slotId : Nat) (reversed : Bool) : State :=
  if s.mgmt.state ≠ .off then s
  else
    let rev := reversed || s.power.reversedSeen
    let s := s.updPower fun p =>
      { p with reversedSeen := false, input := if rev then p.input ||| fld 1 50 else p.input }
    let s := s.updMgmt fun m =>
      { m with dynAddr := none, ibi := false, slotId := slotId % 16, i3c := {}, host := {}, core := {}, requests := [], nonce := none,
               unlocked := false, jtag := none, bootStep := 0, bootFault := 0 }
    -- a reversal that Uluell learns of now is an event as any other (R455)
    let s := s.enterState .aux
    if rev then s.event 4 s.power.input else s

/-- AUX_POWER_DOWN (Table 16.1): the input lies below 200 V. -/
def auxPowerDown (s : State) : State :=
  if s.mgmt.state = .aux then (s.updPower fun p => { p with inputLost := true, steady := false }).enterState .off else s

/-- MGMT_MODULE_STATE (Table 16.13). -/
def moduleState (s : State) : W64 :=
  let m := s.mgmt
  let booting := m.state == .boot || m.state == .configured
  let quiet := m.state == .quiesce && s.kiln.tags == [] && s.kiln.waiting == [] && s.kiln.ready == []
  fld m.state.code 0 ||| fld (if booting then m.bootStep else 0) 3 ||| fld m.bootFault 8 ||| fld m.imageSlot 16 ||| flag quiet 17 |||
    fld s.fab.bootCount 32

end State
end Sys2Proof.Machine
end

