-- ==== Sys2Proof/Machine/Mailbox.lean ====
section
/-!
DEFINITION. The management mailbox and its commands, the I3C bus and the IEEE 1149.1 chain (R516 to R524).
-/
namespace Sys2Proof

/-- A field of a request's payload. -/
def Msg.num (m : Msg) (off n : Nat) : Nat := Machine.leNat ((m.payload.drop off).take n)

/-- Payload bytes `[lo, hi)` are zero. -/
def Msg.zero (m : Msg) (lo hi : Nat) : Bool := ((m.payload.drop lo).take (hi - lo)).all (· == 0)

end Sys2Proof

namespace Sys2Proof.Machine

def stSIGNATURE : Nat := 0x85
def stDENIED : Nat := 0x86

/-! ### Messages (Table 16.9) -/

/-- The 512 bytes of a message. -/
def msgBytes (m : Msg) : List Byte :=
  leBytes 1 m.opcode ++ leBytes 1 m.echo ++ leBytes 2 m.tag ++ leBytes 2 m.length ++ leBytes 2 m.more.toNat ++ leBytes 8 m.offset ++
    (m.payload.take 496 ++ List.replicate (496 - m.payload.length) 0)

/-- A message from bytes; absent bytes are zero. -/
def bytesMsg (b : List Byte) : Msg :=
  let num (off n : Nat) : Nat := leNat ((b.drop off).take n)
  let len := num 4 2
  let pay := ((b.drop 16).take (min len 496))
  { opcode := num 0 1, tag := num 2 2, length := len, offset := num 8 8, rsvBad := num 6 2 / 2 != 0,
    payload := pay ++ List.replicate (min len 496 - pay.length) 0 }

/-! ### The command table (Table 16.10) -/

/-- The module state allows a command. -/
def State.cmdLegal (s : State) (op : Nat) : Bool :=
  let m := s.mgmt
  let free := m.state != .boot || m.bootFault != 0
  let running := m.state == .run || m.state == .degraded
  if op ∈ [0x01, 0x02, 0x03, 0x04, 0x11, 0x28, 0x29, 0x40] then true
  else if op ∈ [0x08, 0x18, 0x19] then free
  else if op ∈ [0x09, 0x0A, 0x30, 0x31] then s.powered
  else if op = 0x0B then m.state == .configured && m.step6
  else if op = 0x0C then running
  else if op = 0x0D then m.state == .quiesce
  else if op ∈ [0x10, 0x12] then m.state != .boot
  else if op ∈ [0x20, 0x21, 0x22] then running || m.state == .quiesce
  else m.state == .aux

/-- A command's row lists a slot. -/
def cmdFrom (op : Nat) (sl : Slot) : Bool :=
  if op ∈ [0x0A] then sl != .core
  else if op ∈ [0x10, 0x12, 0x18, 0x19, 0x22, 0x31] then sl != .host
  else if op ∈ [0x20, 0x21] then sl == .core
  else if op ∈ [0x29, 0x38, 0x48] then sl == .i3c
  else true

/-- A listed opcode. -/
def cmdListed (op : Nat) : Bool :=
  op ∈ [0x01, 0x02, 0x03, 0x04, 0x08, 0x09, 0x0A, 0x0B, 0x0C, 0x0D, 0x10, 0x11, 0x12, 0x18, 0x19, 0x20, 0x21, 0x22, 0x28, 0x29,
        0x30, 0x31, 0x38, 0x40, 0x48]

/-- The request length of Table 16.15. -/
def cmdLength (op len : Nat) (m : Msg) : Bool :=
  if op ∈ [0x10, 0x12] then len == 16
  else if op ∈ [0x11, 0x20, 0x21, 0x22, 0x29, 0x30, 0x31] then len == 8
  else if op = 0x18 then decide (1 ≤ len ∧ len ≤ 496)
  else if op = 0x48 then len == (if m.num 0 1 = 1 then 104 else 8)
  else len == 0

/-- A request that completes with RANGE and has no effect: its length, or a reserved field (R521). -/
def msgMalformed (m : Msg) : Bool :=
  m.rsvBad || !cmdLength m.opcode m.length m || m.payload.length != m.length

namespace State

/-! ### Executing commands (R519 to R521) -/

/-- The response message of a request. -/
def response (m : Msg) (r : Reply) : Msg :=
  { opcode := r.status, echo := m.opcode, tag := m.tag, length := r.payload.length, more := r.more, offset := r.offset, payload := r.payload }

/-- The status that refuses a command before its action: not legal, malformed, not from this slot (R13, R504, R520, R521). -/
def cmdRefusal (s : State) (sl : Slot) (m : Msg) (rsv : Bool) : Nat :=
  firstCode [(!s.cmdLegal m.opcode, stSTATE), (msgMalformed m || rsv, stRANGE), (!cmdFrom m.opcode sl, stDENIED)]

/-- The request at the head of the accepted ones, if it is this one and has no answer yet; Uluell runs in every state but OFF. -/
def atHead (s : State) (op : Nat) (sl : Slot) (m : Msg) : Bool :=
  match s.mgmt.requests with
  | q :: _ => s.mgmt.state != .off && q.slot == sl && q.msg == m && q.answer.isNone && m.opcode == op
  | [] => false

/-- The head request is answered. -/
def answerHead (s : State) (r : Reply) : State :=
  s.updMgmt fun g => match g.requests with
    | q :: rest => { g with requests := { q with answer := some (response q.msg r) } :: rest }
    | [] => g

/-- One command executed: refused, or its action and its answer. `rsv`: a reserved payload byte is not zero. -/
def execute (s : State) (op : Nat) (sl : Slot) (m : Msg) (rsv : Bool) (act : State → State × Reply) : State :=
  if !s.atHead op sl m then s
  else
    let st := s.cmdRefusal sl m rsv
    if st ≠ stOK then s.answerHead { status := st }
    else
      let (s', r) := act s
      s'.answerHead r

/-- A command whose action answers OK. -/
def simply (f : State → State) (s : State) : State × Reply := (f s, { status := stOK })

/-- A page of at most 496 bytes of a longer answer. -/
def pageOf (all : List Byte) (off : Nat) : Reply :=
  let p := (all.drop off).take 496
  { status := stOK, payload := p, more := decide (off + p.length < all.length),
    offset := if off + p.length < all.length then off + p.length else 0 }

/-! ### Identity and status -/

/-- The provisioned ID (R517). -/
def provisionedId (s : State) : Nat :=
  (Config.manufacturerId % 2 ^ 15) * 2 ^ 33 + 0x0096 * 2 ^ 16 + s.mgmt.slotId % 16 * 2 ^ 12 + s.fab.serial % 2 ^ 12

/-- MGMT_REGION_ID (Table 1.5). -/
def regionId (s : State) (r : Nat) : W64 :=
  let x := s.mgmt.idents.get (r, r, true) r
  fld x.1 0 ||| fld x.2.1 2 ||| flag x.2.2 4 ||| fld 0xA1 8 ||| flag (s.master == r && s.regionLive r) 16

def wordBytes8 (v : W64) : List Byte := leBytes 8 v.toNat

def getStatus (s : State) (sl : Slot) (m : Msg) : State :=
  s.execute 0x01 sl m false fun s =>
    (s, { status := stOK,
          payload := wordBytes8 s.moduleState ++ wordBytes8 s.pkgHealth ++ wordBytes8 s.power.input ++ leBytes 8 s.mgmt.image.sequence ++
            leBytes 4 (s.mailbox sl).dropped ++ leBytes 4 0 ++ leBytes 8 s.fret })

def getIdentity (s : State) (sl : Slot) (m : Msg) : State :=
  s.execute 0x02 sl m false fun s =>
    let ids := (List.range 4).flatMap fun r => if s.powered && s.regionLive r then wordBytes8 (s.regionId r) else leBytes 8 0
    (s, { status := stOK, payload := leBytes 8 s.fab.serial ++ leBytes 8 s.provisionedId ++ ids ++ leBytes 8 s.moduleId ++ wordBytes8 s.fab.fabricId })

def getCert (s : State) (sl : Slot) (m : Msg) : State :=
  s.execute 0x03 sl m false fun s =>
    if s.mgmt.cert.length ≤ m.offset then (s, { status := stRANGE }) else (s, pageOf s.mgmt.cert m.offset)

def eventBytes (e : Event) : List Byte := leBytes 8 (e.code + e.fret * 2 ^ 32) ++ wordBytes8 e.data

def getEvent (s : State) (sl : Slot) (m : Msg) : State :=
  s.execute 0x04 sl m false fun s => match (s.mailbox sl).events with
    | e :: rest => (s.setMailbox sl { s.mailbox sl with events := rest }, { status := stOK, payload := eventBytes e })
    | [] => (s, { status := stOK })

/-! ### Changes of the module state (R504 to R507) -/

/-- Every OPEN tag closes with ABORTED (R505). -/
def finishTags (s : State) : State := s.closeWhere (fun _ => true) stABORTED

/-- No tag is OPEN or CLOSING and every built record is appended (R505, R507). -/
def recordsDone (s : State) : Bool := s.kiln.tags == [] && s.kiln.waiting == [] && s.kiln.ready == []

/-- A request that resets the package: it closes every OPEN tag, and stays at the head, to be tried again, until every record is appended
(R505, log 184); then `go`. -/
def afterRecords (s : State) (op : Nat) (sl : Slot) (m : Msg) (go : State → State) : State :=
  if !s.atHead op sl m then s
  else
    let st := s.cmdRefusal sl m false
    if st ≠ stOK then s.answerHead { status := st }
    else if s.powered && !s.recordsDone then s.finishTags
    else go s

/-- COLD_BOOT (R505, Table 16.8): answered before the restart; the other slots' requests are lost. -/
def coldBoot (s : State) (sl : Slot) (m : Msg) : State :=
  s.afterRecords 0x08 sl m fun s =>
    let clear (x : Mailbox) : Mailbox := { x with state := .idle }
    let s := s.updMgmt fun g =>
      { g with requests := [], i3c := clear g.i3c, host := clear g.host, core := clear g.core, nonce := none, unlocked := false }
    let s := s.setMailbox sl { s.mailbox sl with state := .done, buf := msgBytes (response m { status := stOK }) }
    (s.signalSlot sl 1).startBoot false

def warmReset (s : State) (sl : Slot) (m : Msg) : State :=
  s.afterRecords 0x09 sl m fun s => (s.startBoot true).answerHead { status := stOK }

def powerOff (s : State) (sl : Slot) (m : Msg) : State :=
  s.afterRecords 0x0A sl m fun s => ((s.resetPackage.railsOff).enterState .aux).answerHead { status := stOK }

def runCmd (s : State) (sl : Slot) (m : Msg) : State :=
  s.execute 0x0B sl m false (simply fun s => if s.mgmt.step7 then s else s.boot7)

def quiesceCmd (s : State) (sl : Slot) (m : Msg) : State := s.execute 0x0C sl m false (simply fun s => s.enterState .quiesce)

def resumeCmd (s : State) (sl : Slot) (m : Msg) : State := s.execute 0x0D sl m false (simply enterRun)

/-! ### Overrides (R514, R515) -/

/-- Record spaces left in the active half. -/
def journalSpace (s : State) : Nat := 262143 - s.mgmt.journal.length

/-- A record appended. -/
def journalAppend (s : State) (key index op : Nat) (v : W64) : State :=
  s.updMgmt fun g => { g with journal := g.journal ++ [⟨key, index, op, g.nextRecord, v⟩], nextRecord := g.nextRecord + 1 }

/-- A setting's register written where its own rules allow it now (R514). -/
def writeSetting (s : State) (key index : Nat) (v : W64) : State :=
  if !s.powered then s
  else match key with
    | 1 => s.moduleLimitWrite s.uluellAgent 0 v
    | 2 => s.domainWrite s.uluellAgent (index / 4) (index % 4) v
    | 3 => s.thermalWrite s.uluellAgent 0 v
    | 4 => s.regCfgWrite s.uluellAgent (index / 32) (index % 32 / 8) (index % 8) v
    | 5 => s.setReg (MGMT_MEM_MAINT index) v
    | 6 => s.setAll KILN_CFG v
    | 7 => if s.mgmt.state = .configured then s.setAll FAB_FRET_PERIOD v else s
    | _ => s

/-- A command that appends waits while the journal has to be compacted (R515). -/
def mustWait (s : State) : Bool := decide (s.journalSpace < 64)

def overrideSet (s : State) (sl : Slot) (m : Msg) : State :=
  if s.mustWait then s
  else
    let key := m.num 0 2
    let index := m.num 2 2
    let v := w64 (m.num 8 8)
    s.execute 0x10 sl m (m.num 4 1 != 1 || !m.zero 5 8 || !settingNamed key index || !settingOk key index v)
      (simply fun s => (s.journalAppend key index 1 v).writeSetting key index v)

def overrideClear (s : State) (sl : Slot) (m : Msg) : State :=
  if s.mustWait then s
  else
    let key := m.num 0 2
    let index := m.num 2 2
    s.execute 0x12 sl m (m.num 4 1 != 2 || !m.zero 5 16 || !settingNamed key index)
      (simply fun s => s.journalAppend key index 2 0)

/-- An entry of OVERRIDE_GET. -/
def settingEntry (s : State) (key index : Nat) : List Byte :=
  leBytes 2 index ++ leBytes 6 (s.override key index).isSome.toNat ++ wordBytes8 (s.settingValue key index)

def overrideGet (s : State) (sl : Slot) (m : Msg) : State :=
  let key := m.num 0 2
  let index := m.num 2 2
  let all := (List.range (settingCount key)).filter fun i => settingNamed key i && decide (m.offset ≤ i)
  s.execute 0x11 sl m (!m.zero 4 8 || settingCount key == 0 || (index != 0xFFFF && !settingNamed key index)) fun s =>
    if index = 0xFFFF then
      (s, { status := stOK, payload := (all.take 31).flatMap fun i => s.settingEntry key i, more := decide (31 < all.length),
            offset := (all.drop 31).headD 0 })
    else (s, { status := stOK, payload := s.settingEntry key index })

/-- JOURNAL_COMPACT (R515): one SET record for each pair in force, in the other half. -/
def journalCompact (s : State) : State :=
  if 64 ≤ s.journalSpace then s
  else
    let pairs := (s.mgmt.journal.map fun r => (r.key, r.index)).eraseDups
    let live := pairs.filterMap fun x => (s.override x.1 x.2).map fun v => (x.1, x.2, v)
    let s := s.updMgmt fun g => { g with half := 1 - g.half, generation := g.generation + 1, journal := [] }
    live.foldl (fun s x => s.journalAppend x.1 x.2.1 1 x.2.2) s

/-! ### Images (R512) -/

/-- The slot that was not selected. -/
def otherSlot (s : State) : Nat := 1 - s.mgmt.imageSlot

def imageWrite (s : State) (sl : Slot) (m : Msg) : State :=
  s.execute 0x18 sl m (decide (slotBytes < m.offset + m.length)) fun s =>
    let s := if m.offset = 0 then s.updMgmt fun g => { g with flash := g.flash.erase s.otherSlot } else s
    (s.flashWrite s.otherSlot m.offset m.payload, { status := stOK, offset := m.offset + m.length })

def imageCommit (s : State) (sl : Slot) (m : Msg) (v : Verdict) : State :=
  s.execute 0x19 sl m false fun s =>
    let o := s.otherSlot
    let st := if !s.slotValid o v then stSIGNATURE
      else if !s.slotContent o v then stFORMAT
      else if s.slotSequence o ≤ s.mgmt.image.sequence then stRANGE else stOK
    (s, { status := st, payload := if st = stOK then leBytes 8 (s.slotSequence o) else [] })

/-! ### Cores, mute list, evidence, ledger (R487 to R492, R521) -/

/-- A core named by a request; the rest of its payload is reserved. -/
def coreBad (m : Msg) : Bool := !m.zero 1 8 || decide (143 < m.num 0 1)

def coreOffline (s : State) (sl : Slot) (m : Msg) : State :=
  s.execute 0x20 sl m (coreBad m) (simply fun s => s.updHart (m.num 0 1) fun x => { x with offline := true })

/-- CORE_ONLINE of an offline core: one that has failed its pack and is not cleared, or whose die is lost, stays offline. -/
def coreOnline (s : State) (sl : Slot) (m : Msg) (passed : Bool) : State :=
  s.execute 0x21 sl m (coreBad m) fun s =>
    let c := m.num 0 1
    if (s.hart c).packFail ∨ !(s.hart c).offline ∨ !s.dieLive (c / 36) 2 then (s, { status := stSTATE })
    else if passed then
      ((s.updHart c fun x => { x with offline := false, wfi := false, priv := .machine, pc := w64 s.mgmt.image.coreEntry }).coreFetch c,
        { status := stOK })
    else (s.packFailed 0 c, { status := stSELFTEST })

def coreClearFail (s : State) (sl : Slot) (m : Msg) : State :=
  s.execute 0x22 sl m (coreBad m) (simply fun s => s.updHart (m.num 0 1) fun x => { x with packFail := false })

def muteListGet (s : State) (sl : Slot) (m : Msg) : State :=
  s.execute 0x28 sl m false fun s =>
    let rest := s.muteList.drop m.offset
    (s, { status := stOK, payload := leBytes 8 s.muteList.length ++ (rest.take 244).flatMap (leBytes 2),
          more := decide (244 < rest.length), offset := if 244 < rest.length then m.offset + 244 else 0 })

def muteListRemove (s : State) (sl : Slot) (m : Msg) : State :=
  let b := m.num 0 2
  s.execute 0x29 sl m (!m.zero 2 8 || decide (511 < b)) fun s =>
    if s.muteList.contains b then ({ s with muteList := s.muteList.filter (· != b) }, { status := stOK })
    else (s, { status := stSTATE })

/-- The content of an evidence slot (Table 15.4); the rest of its 64 KiB is zero. -/
def evidenceBytes (e : Evidence) : List Byte :=
  leBytes 1 e.kind ++ leBytes 1 e.tune ++ leBytes 2 e.block ++ leBytes 4 e.fret ++ leBytes 8 e.seq ++ leBytes 4 e.row ++ leBytes 2 e.col ++
    leBytes 1 e.score ++ List.replicate 41 0 ++ leBytes 64 e.command.toNat ++ leBytes 4 e.statBytes ++ leBytes 4 e.streamBytes ++
    leBytes 8 e.seed ++ List.replicate 368 0 ++ e.data

/-- `n` bytes of an evidence slot. -/
def evidenceAt (e : Evidence) (off n : Nat) : List Byte :=
  let b := ((evidenceBytes e).drop off).take n
  b ++ List.replicate (min n (65536 - off) - b.length) 0

def slotBad (m : Msg) : Bool := !m.zero 2 8 || decide (3 < m.num 0 1) || decide (7 < m.num 1 1)

def evidenceRead (s : State) (sl : Slot) (m : Msg) : State :=
  s.execute 0x30 sl m (slotBad m || decide (65535 < m.offset)) fun s =>
    match s.evidence.find (m.num 0 1, m.num 1 1) with
    | some e =>
      let p := evidenceAt e m.offset 496
      let more := decide (m.offset + p.length < 65536)
      (s, { status := stOK, payload := p, more := more, offset := if more then m.offset + p.length else 0 })
    | none => (s, { status := stSTATE })

def evidenceRelease (s : State) (sl : Slot) (m : Msg) : State :=
  s.execute 0x31 sl m (slotBad m) (simply fun s => s.evidRelease (m.num 0 1) (fld 1 (m.num 1 1)))

def fuseRearm (s : State) (sl : Slot) (m : Msg) : State :=
  s.execute 0x38 sl m false (simply fun s => s.updPower fun p => { p with fuseOpen := false })

def ledgerRead (s : State) (sl : Slot) (m : Msg) : State :=
  s.execute 0x40 sl m false fun s =>
    match s.kiln.ledger.find? (·.1 == m.offset) with
    | some (q, b) =>
      (s, { status := stOK, payload := b, more := s.kiln.ledger.any (fun x => decide (q < x.1)), offset := q + 1 })
    | none => (s, { status := stRANGE, offset := (s.kiln.ledger.head?.map (·.1)).getD 0 })

/-- DEBUG_UNLOCK: a challenge, or its answer; `sigOk` says whether the answer's signature is valid. -/
def debugUnlock (s : State) (sl : Slot) (m : Msg) (nonce : List Byte) (sigOk : Bool) : State :=
  s.execute 0x48 sl m (decide (1 < m.num 0 1) || !m.zero 1 8) fun s =>
    if m.num 0 1 = 0 then
      let n := (nonce ++ List.replicate 48 0).take 48
      (s.updMgmt fun g => { g with nonce := some n }, { status := stOK, payload := n })
    else if s.mgmt.nonce.isNone then (s, { status := stSTATE })
    else
      let s := s.updMgmt fun g => { g with nonce := none, unlocked := g.unlocked || sigOk }
      (s, { status := if sigOk then stOK else stSIGNATURE })

/-! ### Slots (R519, Table 16.8) -/

/-- A refused GO or ACK (R502, R519, R524). -/
def mbxRefuse (s : State) (ag : Agent) (sl : Slot) (st : Nat) : State :=
  if s.powered then s.log s.masterRegion st 1 (if sl = .i3c then 0 else ag.code) (MGMT_MBX_CTRL 0) 0 else s

/-- GO. -/
def mbxGo (s : State) (ag : Agent) (sl : Slot) (m : Msg) : State :=
  if s.mgmt.state = .off ∨ !s.slotServed sl then s
  else if (s.mailbox sl).state = .idle then
    (s.setMailbox sl { s.mailbox sl with state := .busy, buf := msgBytes m }).updMgmt fun g =>
      { g with requests := g.requests ++ [{ slot := sl, msg := m }] }
  else s.mbxRefuse ag sl stSTATE

/-- ACK. -/
def mbxAck (s : State) (ag : Agent) (sl : Slot) : State :=
  if s.mgmt.state = .off ∨ !s.slotServed sl then s
  else if (s.mailbox sl).state = .done then s.setMailbox sl { s.mailbox sl with state := .idle } else s.mbxRefuse ag sl stSTATE

/-- MBX_RESPONSE: the head request's response is written; an unlisted opcode completes with RANGE (R520). -/
def mbxResponse (s : State) : State :=
  match s.mgmt.requests with
  | q :: rest =>
    let ready := match q.answer with
      | some r => some r
      | none => if cmdListed q.msg.opcode then none else some (response q.msg { status := stRANGE })
    match if s.mgmt.state = .off then none else ready with
    | some r =>
      let s := s.updMgmt fun g => { g with requests := rest }
      (s.setMailbox q.slot { s.mailbox q.slot with state := .done, buf := msgBytes r }).signalSlot q.slot 1
    | none => s
  | [] => s

/-- MGMT_MBX_STATUS of a slot (Table 16.14). -/
def mbxStatus (s : State) (sl : Slot) : W64 :=
  let x := s.mailbox sl
  fld (match x.state with | .idle => 0 | .busy => 1 | .done => 2) 0 ||| fld x.events.length 8

/-- A write of MGMT_MBX_CTRL of the CORE or HOST slot (R524). -/
def mbxCtrlWrite (s : State) (ag : Agent) (sl : Slot) (v : W64) : State :=
  if bit v 0 && bit v 1 then s.mbxRefuse ag sl stRANGE
  else if bit v 0 then s.mbxGo ag sl (bytesMsg (s.mailbox sl).buf)
  else if bit v 1 then s.mbxAck ag sl
  else s

/-- Word `i` of a slot's buffer, and a write of it. -/
def mbxWord (s : State) (sl : Slot) (i : Nat) : W64 := w64 (leNat (((s.mailbox sl).buf.drop (8 * i)).take 8))

def mbxWordWrite (s : State) (sl : Slot) (i : Nat) (v : W64) : State :=
  let b := (s.mailbox sl).buf ++ List.replicate (512 - (s.mailbox sl).buf.length) 0
  s.setMailbox sl { s.mailbox sl with buf := b.take (8 * i) ++ leBytes 8 v.toNat ++ b.drop (8 * i + 8) }

/-! ### The I3C bus (R516 to R518) -/

/-- Uluell answers on the bus. -/
def i3cReady (s : State) : Bool := s.mgmt.state != .off && s.mgmt.dynAddr.isSome

def entdaa (s : State) (da : Nat) : State :=
  if s.mgmt.state = .off ∨ s.mgmt.dynAddr.isSome then s
  else (s.updMgmt fun g => { g with dynAddr := some (da % 128) }).emit (.i3c ((leBytes 6 s.provisionedId).reverse ++ [0x0E, 0x00]))

def rstdaa (s : State) : State := if s.mgmt.state = .off then s else s.updMgmt fun g => { g with dynAddr := none }

def setnewda (s : State) (da : Nat) : State := if s.i3cReady then s.updMgmt fun g => { g with dynAddr := some (da % 128) } else s

/-- Bytes that a CCC read returns. -/
def cccRead (s : State) (bs : List Byte) : State := if s.i3cReady then s.emit (.i3c bs) else s

/-- ENEC and DISEC: bit 0 names in-band interrupts. -/
def ibiSet (s : State) (events : Nat) (on : Bool) : State :=
  if s.i3cReady ∧ events % 2 = 1 then s.updMgmt fun g => { g with ibi := on } else s

/-- PWR_OK is released high (R518). -/
def pwrOk (s : State) : Bool := s.powered

/-- ALERT_N is held low (R518). -/
def alert (s : State) : Bool := s.mgmt.i3c.state == .done || s.mgmt.i3c.events != []

/-- A private write (R518). -/
def i3cWrite (s : State) (bytes : List Byte) : State :=
  if !s.i3cReady then s
  else match bytes with
    | b :: rest => if b = 0xA5 then s.mbxGo {} .i3c (bytesMsg rest) else s
    | [] => s

/-- A private read of `n` bytes (R518). -/
def i3cRead (s : State) (n : Nat) : State :=
  if !s.i3cReady then s
  else
    let x := s.mgmt.i3c
    let len := leNat ((x.buf.drop 4).take 2)
    let all := wordBytes8 (s.mbxStatus .i3c) ++ (if x.state = .done then x.buf.take (16 + len) else [])
    let s := s.emit (.i3c (all.take n))
    if x.state = .done ∧ 24 + len ≤ n then s.setMailbox .i3c { x with state := .idle } else s

/-- JTAG_INSTRUCTION (R518): what the chain accepts. -/
def jtag (s : State) (scan : Bool) : State :=
  if (s.mgmt.unlocked ∧ s.mgmt.state ≠ .off) ∨ (scan ∧ s.mgmt.state = .aux) then s.updMgmt fun g => { g with jtag := some scan } else s

end State
end Sys2Proof.Machine
end

