-- ==== Sys2Proof/Machine/Registers.lean ====
section
/-!
DEFINITION. The register map of a region (Tables 1.7 and 1.8): what a naturally aligned 8-byte read of a register returns and
what a write of one does, by unit.  An unlisted offset reads zero and ignores writes (R33).
-/
namespace Sys2Proof.Machine
namespace State

/-! ### Region control, identity and fret (0x0000_0000) -/

/-- BLK_DIE_ID of compute die `d` (Table 1.6): CD_ORIENT is low at site A and high at site B (R25). -/
def dieId (s : State) (r d : Nat) : W64 := fld d 0 ||| flag (s.powered && s.dieLive r d) 1 ||| fld 0xA1 8

/-- A write of FAB_FRET_PERIOD (R35). -/
def periodWrite (s : State) (ag : Agent) (r : Nat) (v : W64) : State :=
  let p := bits v 6 0
  if s.mgmt.state ≠ .configured then s.log r stSTATE 1 ag.code 0x100 0
  else if p < 4 ∨ 64 < p then s.log r stRANGE 1 ag.code 0x100 0
  else s.setAll FAB_FRET_PERIOD (w64 p)

/-- FAB_FRET_STATUS (Table 1.12): ALIGN_ALARM and SKEW_NS are kept in the plain register. -/
def fretStatus (s : State) (r : Nat) : W64 := s.reg (FAB_FRET_STATUS r) ||| flag s.epochSet 0 ||| flag s.localEpoch 1

/-- Four 16-bit numbers in a word (Table 10.10). -/
def words16 (l : List Nat) : W64 := fld (l.getD 0 0) 0 ||| fld (l.getD 1 0) 16 ||| fld (l.getD 2 0) 32 ||| fld (l.getD 3 0) 48

/-- A word of a port log (Tables 10.11, 12.6). -/
def portLogWord (e : PortLog) (w : Nat) : W64 :=
  if w = 0 then fld e.status 0 ||| fld e.cause 8 ||| fld e.fn 12 ||| fld e.id 16 ||| fld (e.fret % 2 ^ 32) 32 else w64 e.addr

/-- A word of the region error log (Table 15.9). -/
def logWord (e : LogEntry) (w : Nat) : W64 :=
  match w with
  | 0 => fld e.status 0 ||| fld e.cause 8 ||| fld e.source 16
  | 1 => w64 e.fret
  | 2 => w64 e.addr
  | _ => e.detail

def readCtl (s : State) (r o : Nat) : W64 :=
  if o = 0x000 then s.regionId r
  else if o = 0x010 ∨ o = 0x018 then s.dieId r ((o - 0x10) / 8)
  else if o = 0x030 then s.moduleState
  else if o = 0x108 then w64 s.fret
  else if o = 0x110 then w64 (s.phaseNs % 2 ^ 17)
  else if o = 0x118 then s.fretStatus r
  else if o = 0x200 then s.fabModuleId
  else if o = 0x208 then s.fab.fabricId
  else if o = 0x210 then w64 s.fab.leaderSerial
  else if o = 0x218 then s.discStatus
  else if o = 0x220 then words16 (s.fab.coord.getD [])
  else if o = 0x228 then words16 s.fab.torus
  else if o = 0x300 then s.timeStatus
  else if o = 0x308 then w64 (timeOffset s.time.e)
  else if o = 0x310 then w64 (signed32 s.time.est)
  else if 0x400 ≤ o ∧ o < 0x800 then
    match s.fabLog.find (r, (o - 0x400) / 16) with
    | some e => portLogWord e (o / 8 % 2)
    | none => 0
  else if o = 0x2008 then s.mbxStatus .core
  else if 0x2100 ≤ o ∧ o < 0x2300 then s.mbxWord .core ((o - 0x2100) / 8)
  else if 0x80000 ≤ o ∧ o < 0xC0000 then s.reg (rreg 0 o)
  else s.reg (rreg r o)

def writeCtl (s : State) (ag : Agent) (r o : Nat) (v : W64) : State :=
  if o = 0x100 then s.periodWrite ag r v
  else if o = 0x118 then (if bit v 2 then s.setReg (FAB_FRET_STATUS r) (s.reg (FAB_FRET_STATUS r) &&& ~~~4#64) else s)
  else if o = 0x230 then s.routeCtrlWrite ag v
  else if o = 0x238 then s.setAll FAB_ROUTE_LOAD_ADDR (v &&& ~~~63#64)
  else if o = 0x300 then s.updTime fun t => { t with alarm := t.alarm && !bit v 3, mismatch := t.mismatch && !bit v 4 }
  else if o = 0x380 then s.collNotice v
  else if o = 0x2000 then s.mbxCtrlWrite ag .core v
  else if o = 0x2010 then s.setAll MGMT_MBX_PEG (v &&& mask 18 0)
  else if 0x2100 ≤ o ∧ o < 0x2300 then s.mbxWordWrite .core ((o - 0x2100) / 8) v
  else if 0x80000 ≤ o ∧ o < 0xC0000 then s.setReg (rreg 0 o) (v &&& mask 24 0)
  else s

/-! ### Power manager (0x0010_0000) -/

def readPwr (s : State) (r o : Nat) : W64 :=
  if o = 0x100008 then s.mgrStatus
  else if o = 0x100010 then s.throttleNow
  else if o = 0x100018 then s.power.input
  else if 0x100100 ≤ o ∧ o < 0x100120 then s.domainReg r ((o - 0x100100) / 8)
  else if o = 0x100148 then s.vtableData r
  else if 0x100200 ≤ o ∧ o < 0x100248 then s.railStatus r ((o - 0x100200) / 8)
  else s.reg (rreg r o)

def writePwr (s : State) (ag : Agent) (r o : Nat) (v : W64) : State :=
  if o = 0x100000 then s.moduleLimitWrite ag r v
  else if o = 0x100008 then s.mgrStatusWrite v
  else if o = 0x100018 then s.inputWrite v
  else if o = 0x100080 then s.countClear v pwrCounters
  else if o = 0x100088 then s.thermalWrite ag r v
  else if 0x100100 ≤ o ∧ o < 0x100120 then s.domainWrite ag r ((o - 0x100100) / 8) v
  else if o = 0x100140 then s.setReg (PWR_VTABLE_IDX r) (v &&& mask 6 0)
  else s

/-! ### Kiln slice (0x0020_0000) -/

/-- The reserved bits of KILN_TAG_ARG0 read zero; OPEN sees them as they were written (R435, Table 0.4). -/
def readKiln (s : State) (r o : Nat) : W64 :=
  if o = 0x200008 then s.reg (KILN_TAG_ARG0 r) &&& (mask 34 0 ||| mask 39 36)
  else if o = 0x200020 then s.tagUsed r
  else if o = 0x201008 then w64 s.kiln.seq
  else if o = 0x201010 then w64 s.ledgerFree
  else if o = 0x2010A0 then w64 s.kiln.meterTotal
  else s.reg (rreg r o)

/-- KILN_CFG (Table 13.9). -/
def kilnCfgWrite (s : State) (ag : Agent) (r : Nat) (v : W64) : State :=
  if kilnCfgOk (v &&& mask 23 0) then s.setAll KILN_CFG (v &&& mask 23 0) else s.kilnRefuse ag (KILN_CFG r) stRANGE

/-- The ring's registers (Table 13.9): BASE and CFG are ignored while it runs; TAIL counts since ENABLE. -/
def ringBaseWrite (s : State) (v : W64) : State :=
  if bit (s.reg (KILN_RING_ENABLE 0)) 0 then s else s.setAll KILN_RING_BASE (v &&& ~~~0xFFF#64)

def ringCfgWrite (s : State) (v : W64) : State :=
  if bit (s.reg (KILN_RING_ENABLE 0)) 0 ∨ bits v 4 0 < 4 ∨ 16 < bits v 4 0 then s else s.setAll KILN_RING_CFG (v &&& mask 4 0)

def ringEnableWrite (s : State) (v : W64) : State :=
  let s := if bit v 0 && !bit (s.reg (KILN_RING_ENABLE 0)) 0 then s.setAll KILN_RING_TAIL 0 else s
  (s.setAll KILN_RING_ENABLE (v &&& 1)).exportRing

def writeKiln (s : State) (ag : Agent) (r o : Nat) (v : W64) : State :=
  if o = 0x200000 then s.tagCmdWrite ag r v
  else if o = 0x200008 then s.setReg (KILN_TAG_ARG0 r) v
  else if o = 0x200010 then s.setReg (KILN_TAG_ARG1 r) v
  else if o = 0x200040 then s.countClear v (kilnCounters r)
  else if o = 0x201000 then s.kilnCfgWrite ag r v
  else if o = 0x201018 then s.ringBaseWrite v
  else if o = 0x201020 then s.ringCfgWrite v
  else if o = 0x201030 then s.ringHeadWrite ag r v
  else if o = 0x201038 then s.ackSeqWrite ag r v
  else if o = 0x201040 then s.setAll KILN_RING_PEG (v &&& mask 18 0)
  else if o = 0x201048 then s.ringEnableWrite v
  else s

/-! ### Synchronisation unit (0x0030_0000) -/

/-- WATCH_USED (Table 6.9). -/
def watchUsed (s : State) (r : Nat) : W64 :=
  let n (t : WTable) : Nat := (s.watches.filter fun x => x.1.home == r && x.1.table == t).length
  fld (n .shared) 0 ||| fld (n .block) 16 ||| fld (n .spill) 32

/-- The counters that WATCH_COUNT_CLEAR zeroes (Table 6.10). -/
def watchCounters (r : Nat) : List Reg :=
  [PEG_NARROW_COUNT r, WATCH_FIRED r, WATCH_EXPIRED r, WATCH_SPILL_ARMS r, WATCH_EVENT_HELD r]

/-- The hart whose arm window lies at an offset of the synchronisation unit page (R230). -/
def armOwner (r o : Nat) : Option Nat :=
  let i := (o - 0x310000) / 64
  if i < 36 then some (r * 36 + i) else if 64 ≤ i ∧ i < 192 then some (144 + r * 128 + (i - 64)) else none

/-- An access to an arm window by another agent than its owner (R230). -/
def armRefused (s : State) (ag : Agent) (r o : Nat) : State := s.log r stRANGE 1 ag.code o 0

def readSync (s : State) (ag : Agent) (r o : Nat) : State × W64 :=
  if o = 0x300000 then (s, flag s.strictScope 0)
  else if o = 0x300010 then (s, s.watchUsed r)
  else if 0x310000 ≤ o ∧ o < 0x313000 then
    match armOwner r o with
    | some h => if ag.hart = some h then s.armLoad h (o % 64) else (s.armRefused ag r o, 0)
    | none => (s, 0)
  else (s, s.reg (rreg r o))

def writeSync (s : State) (ag : Agent) (r o : Nat) (v : W64) : State :=
  if o = 0x300038 then s.countClear v (watchCounters r)
  else if 0x310000 ≤ o ∧ o < 0x313000 then
    match armOwner r o with
    | some h => if ag.hart = some h then s.armStore h ag.code (o % 64) v else s.armRefused ag r o
    | none => s
  else s

/-! ### DMA engine (0x0040_0000) -/

/-- The counters that DMA_CH_COUNT_CLEAR zeroes (Table 5.8). -/
def dmaCounters (r c : Nat) : List Reg := [DMA_CH_REFETCH r c, DMA_CH_DB_IGNORED r c, DMA_CH_BYTES r c]

def readDmaChan (s : State) (r c w : Nat) : W64 :=
  if w = 0x030 ∨ w = 0x090 then 0
  else if w = 0x038 then s.dmaStatus r c
  else if w = 0x040 then w64 (s.dmaChan r c).fetchSeq
  else if w = 0x048 then w64 (s.dmaChan r c).doneSeq
  else if w = 0x050 then s.dmaDoneBytes r c
  else if w = 0x058 then s.dmaSrcPos r c
  else if w = 0x060 then s.dmaDstPos r c
  else s.reg (dmaReg r c w)

/-- A configuration register of a channel, written only in DISABLED (R217). -/
def dmaCfgWrite (s : State) (ag : Agent) (r c w : Nat) (v : W64) : State :=
  if (s.dmaChan r c).state = .disabled then s.setReg (dmaReg r c w) v else s.dmaRefuse ag (dmaReg r c w) stSTATE

def writeDmaChan (s : State) (ag : Agent) (r c w : Nat) (v : W64) : State :=
  if w = 0x000 then s.dmaCtrlWrite ag r c v
  else if w = 0x008 then s.dmaCfgWrite ag r c w (v &&& ~~~0xFFF#64)
  else if w = 0x010 then
    -- SIZE_LOG2 outside 4 to 16 is not taken (R205)
    if (s.dmaChan r c).state = .disabled ∧ (bits v 4 0 < 4 ∨ 16 < bits v 4 0) then s.dmaRefuse ag (dmaReg r c w) stRANGE
    else s.dmaCfgWrite ag r c w (v &&& mask 4 0)
  else if w = 0x018 then s.dmaCfgWrite ag r c w (v &&& mask 19 0)
  else if w = 0x020 ∨ w = 0x028 then s.dmaCfgWrite ag r c w v
  else if w = 0x030 then s.dmaDoorbell ag r c v
  else if w = 0x068 then s.setReg (DMA_CH_EVENT_PEG r c) (v &&& mask 17 0)
  else if w = 0x090 then s.countClear v (dmaCounters r c)
  else s

def readDma (s : State) (r o : Nat) : W64 :=
  if o < 0x440000 then s.readDmaChan r (o / 0x1000 % 64) (o % 0x1000)
  else if o = 0x440000 then w64 ((s.bufTotal r + 1023) / 1024)
  else if o = 0x440008 then w64 (s.spillNow r)
  else s.reg (rreg r o)

def writeDma (s : State) (ag : Agent) (r o : Nat) (v : W64) : State :=
  if o < 0x440000 then s.writeDmaChan ag r (o / 0x1000 % 64) (o % 0x1000) v else s

/-! ### Collective engine (0x0050_0000) -/

def readCollChan (s : State) (r c w : Nat) : W64 :=
  if w = 0x000 then 0
  else if w = 0x008 then s.collStatus r c
  else if w = 0x048 then (s.coll r c).detail
  else if w < 0x400 then s.reg (collReg r c w)
  else 0

/-- A write of FAB_COLL_CH_CTRL: at most one bit may be set (R398). -/
def collCtrlWrite (s : State) (ag : Agent) (r c : Nat) (v : W64) : State :=
  if 1 < (bit v 0).toNat + (bit v 1).toNat + (bit v 2).toNat + (bit v 3).toNat then s.refuseColl ag r c stRANGE
  else if bit v 0 then s.strumLoad ag r c
  else if bit v 1 then s.strumStart ag r c
  else if bit v 2 then s.strumAbort ag r c
  else if bit v 3 then s.strumUnload ag r c
  else s

/-- A configuration register of a channel, written only in EMPTY and LOADED (R398). -/
def collCfgWrite (s : State) (ag : Agent) (r c w : Nat) (v : W64) : State :=
  if (s.coll r c).state = .empty ∨ (s.coll r c).state = .loaded then s.setReg (collReg r c w) v
  else s.log r stSTATE 1 ag.code (collReg r c w % 0x100000000) 0

def writeCollChan (s : State) (ag : Agent) (r c w : Nat) (v : W64) : State :=
  if w = 0x000 then s.collCtrlWrite ag r c v
  else if w = 0x010 then s.collCfgWrite ag r c w (v &&& ~~~63#64)
  else if w = 0x018 then s.collCfgWrite ag r c w (v &&& (mask 20 0 ||| mask 48 32))
  else if w = 0x020 ∨ w = 0x028 ∨ w = 0x030 then s.collCfgWrite ag r c w v
  else if w = 0x038 then s.collCfgWrite ag r c w (v &&& mask 50 0)
  else if w = 0x040 then s.collCfgWrite ag r c w (v &&& mask 31 0)
  else s

def readColl (s : State) (r o : Nat) : W64 :=
  if o < 0x510000 then s.readCollChan r (o / 0x400 % 64) (o % 0x400)
  else if o = 0x510000 then w64 (s.strumEntries r)
  else s.reg (rreg r o)

def writeColl (s : State) (ag : Agent) (r o : Nat) (v : W64) : State :=
  if o < 0x510000 then s.writeCollChan ag r (o / 0x400 % 64) (o % 0x400) v
  else if o = 0x510020 then s.countClear v (collCounters r)
  else s

/-! ### Chaind ports (0x0060_0000) -/

/-- A write of FAB_PORT_CTRL (Table 10.8). -/
def portCtrlWrite (s : State) (ag : Agent) (k : Nat) (v : W64) : State :=
  let s := if bit v 0 then (if (s.port k).enabled then s else s.portEnable k) else if (s.port k).enabled then s.portDisable k else s
  if bit v 1 then s.retrainPort ag k else s

def readPort (s : State) (k w : Nat) : W64 :=
  if w = 0x000 then flag (s.port k).enabled 0
  else if w = 0x008 then s.portStatus k
  else if w = 0x010 then w64 (s.port k).peerSerial
  else s.reg (portReg k w)

def writePort (s : State) (ag : Agent) (k w : Nat) (v : W64) : State :=
  if w = 0x000 then s.portCtrlWrite ag k v
  else if w = 0x138 then s.countClear v (portCounters k)
  else s

/-! ### Host port (0x0070_0000) -/

def readHost (s : State) (r o : Nat) : W64 :=
  if o = 0x700000 then s.hostPortCfg r
  else if 0x700008 ≤ o ∧ o < 0x700028 then s.hostPortStatus r ((o - 0x700008) / 8)
  else if o = 0x700028 then s.hostEpStatus r
  else if 0x701000 ≤ o ∧ o < 0x701400 then
    match s.hostLog.find (r, (o - 0x701000) / 16) with
    | some e => portLogWord e (o / 8 % 2)
    | none => 0
  else s.reg (rreg r o)

def writeHost (s : State) (ag : Agent) (r o : Nat) (v : W64) : State :=
  if o = 0x700030 then s.setReg (HOST_EVENT_PEG r) (v &&& mask 18 0)
  else if 0x700040 ≤ o ∧ o < 0x700080 then s.setReg (rreg r o) v
  else if 0x700080 ≤ o ∧ o < 0x7000A0 then s.rpEnable r ((o - 0x700080) / 8) v
  else if 0x700100 ≤ o ∧ o < 0x700580 ∧ (o - 0x700100) % 0x80 < 0x60 then
    s.ownershipWrite ag r ((o - 0x700100) / 0x80) ((o - 0x700100) % 0x80 / 8) v
  else s

/-! ### Memory controllers (0x0080_0000 and 0x0090_0000) -/

/-- HBM_CH_STATE, or the state of a package (Table 9.11). -/
def chState (s : State) (d : Nat) : W64 :=
  let x := s.dev d
  fld (match x.state with | .inService => 0 | .retraining => 1 | .test => 2 | .mappedOut => 3) 0 ||| flag x.pending 2 ||| fld x.outCause 3

/-- Channel of a stack page offset: the channels' records fill the first 0x2000 bytes. -/
def hbmOfOff (r o : Nat) : Option Nat :=
  let s := o / 0x40000 - 0x20
  let c := o % 0x40000 / 0x100
  if s < 4 ∧ c < 32 then some (r * 128 + s * 32 + c) else none

def readHbm (s : State) (r o : Nat) : W64 :=
  match hbmOfOff r o with
  | some ch => if o % 0x100 = 0 then s.chState ch else if o % 0x100 = 0x08 then 0 else s.reg (rreg r o)
  | none => 0

def writeHbm (s : State) (ag : Agent) (r o : Nat) (v : W64) : State :=
  match hbmOfOff r o with
  | some ch =>
    if o % 0x100 = 0x08 then s.chCtrlWrite ag ch v
    else if o % 0x100 = 0x20 then s.tgWrite ag ch v
    else if o % 0x100 = 0x28 then s.setReg (HBM_TG_SEED ch) v
    else if o % 0x100 = 0x30 then s.setReg (HBM_TG_RANGE ch) v
    else s
  | none => s

def readLpd (s : State) (r o : Nat) : State × W64 :=
  if o = 0x901000 then (s, s.compLogical r)
  else if o = 0x901008 then (s, s.compStored r)
  else if o < 0x900600 ∧ o % 0x100 = 0 then (s, s.chState (512 + r * 6 + (o - 0x900000) / 0x100))
  else (s, s.reg (rreg r o))

def writeLpd (s : State) (ag : Agent) (r o : Nat) (v : W64) : State :=
  if o < 0x900600 ∧ o % 0x100 = 0x08 then s.chCtrlWrite ag (512 + r * 6 + (o - 0x900000) / 0x100) v else s

/-! ### Error manager, NoC, SLC and regulators (0x00A0_0000) -/

/-- MGMT_COH_STATUS (Table 8.5). -/
def cohStatus (s : State) (r : Nat) : W64 :=
  flag (s.initDone.contains r) 0 ||| s.lostRegions.foldl (fun v h => v ||| fld 1 (1 + h)) 0 ||| flag (s.scrubbing.contains r) 5

/-- The counters that MGMT_COH_COUNT_CLEAR zeroes (Table 8.6). -/
def cohCounters (r : Nat) : List Reg :=
  [MGMT_COH_SLC_HITS r, MGMT_COH_SLC_MISSES r, MGMT_COH_C2C r, MGMT_COH_RECALLS r, MGMT_COH_BACK_INVAL r, MGMT_COH_RETRIES r,
   MGMT_COH_POISON_READS r, MGMT_COH_LOST_POISONED r]

/-- A write of MGMT_MEM_MAINT: MARGIN_FAIL above MARGIN_MIN refuses it (Table 9.7). -/
def memMaintWrite (s : State) (ag : Agent) (r : Nat) (v : W64) : State :=
  if !maintOk v then s.log r stRANGE 1 ag.code 0xA40100 0
  else s.setReg (MGMT_MEM_MAINT r) (v &&& 0x17F7FFFFF#64)

/-- A register of the error manager as it reads. -/
def mgmtWord (s : State) (r o : Nat) : W64 :=
  if o = 0xA00010 then s.pkgHealth
  else if 0xA00040 ≤ o ∧ o < 0xA00058 then s.dieStatus r ((o - 0xA00040) / 8)
  else if o = 0xA000C0 then s.packStatus
  else if o = 0xA000D0 then s.evidStatus r
  else if 0xA01000 ≤ o ∧ o < 0xA02000 then
    match s.errLog.find (r, (o - 0xA01000) / 32) with
    | some e => logWord e (o / 8 % 4)
    | none => 0
  else if o = 0xA20000 then s.cohStatus r
  else if o = 0xA40000 then 0
  else if o = 0xA40020 then s.reg (MGMT_PAT_STATUS r) ||| flag (s.patBusy.find r).isSome 8
  else if o = 0xA40028 then s.hbmCap r
  else if o = 0xA40030 then s.lpdCap r
  else if o = 0xA40040 then s.memRebuilding r
  else if o = 0xA40108 then s.memGroups r
  else if 0xA80000 ≤ o ∧ o < 0xB00000 then
    match s.evidence.find (r, (o - 0xA80000) / 0x10000) with
    | some e => w64 (leNat (evidenceAt e (o % 0x10000) 8))
    | none => 0
  else s.reg (rreg r o)

def readMgmt (s : State) (r o : Nat) : State × W64 :=
  (s, s.mgmtWord r o)

def writeMgmt (s : State) (ag : Agent) (r o : Nat) (v : W64) : State :=
  if o = 0xA00008 then s.setReg (MGMT_ERR_NOTIFY r) (v &&& mask 18 0)
  else if 0xA00058 ≤ o ∧ o < 0xA00070 then (if bit v 0 then s.rejoin ag r ((o - 0xA00058) / 8) else s)
  else if o = 0xA00070 then s.blkMuteWrite ag r v
  else if o = 0xA000B8 then s.countClear v (errCounters r)
  else if o = 0xA000D8 then s.evidRelease r v
  else if o = 0xA20048 then s.countClear v (cohCounters r)
  else if o = 0xA40000 then s.patCmdWrite ag r v
  else if o = 0xA40008 ∨ o = 0xA40010 ∨ o = 0xA40018 then s.setReg (rreg r o) v
  else if o = 0xA40038 then s.groupCtrlWrite ag r v
  else if o = 0xA40060 then s.countClear v (memCounters r)
  else if o = 0xA40100 then s.memMaintWrite ag r v
  else if 0xA60000 ≤ o ∧ o < 0xA60180 ∧ o % 16 = 0 then s.regCfgWrite ag r ((o - 0xA60000) / 128) ((o - 0xA60000) / 16 % 8) v
  else s

/-! ### Core pages (0x0200_0000) -/

def writeCore (s : State) (c o : Nat) (v : W64) : State :=
  if o = 0x080 then s.asyncClear c v
  else if o = 0x090 then s.setReg (MGMT_CORE_TAG c) (v &&& mask 31 0)
  else s

/-! ### The whole map -/

/-- An aligned 8-byte read of a register by an agent (R7, R33). A region that is lost has no registers. -/
def readReg (s : State) (ag : Agent) (g : Reg) : State × W64 :=
  let r := g / 0x100000000
  let o := g % 0x100000000
  if !s.regionLive r then (s, 0)
  else if o < 0x100000 then (s, s.readCtl r o)
  else if o < 0x200000 then (s, s.readPwr r o)
  else if o < 0x300000 then (s, s.readKiln r o)
  else if o < 0x400000 then s.readSync ag r o
  else if o < 0x500000 then (s, s.readDma r o)
  else if o < 0x600000 then (s, s.readColl r o)
  else if o < 0x700000 then (s, s.readPort (r * 4 + o / 0x40000 % 4) (o % 0x40000))
  else if o < 0x800000 then (s, s.readHost r o)
  else if o < 0x900000 then (s, s.readHbm r o)
  else if o < 0xA00000 then s.readLpd r o
  else if o < 0xB00000 then s.readMgmt r o
  else if 0x01000000 ≤ o ∧ o < 0x01800000 then (s, s.readBlk (r * 128 + (o - 0x01000000) / 0x10000) (o % 0x10000))
  else if 0x02000000 ≤ o ∧ o < 0x02240000 then (s, s.reg g)
  else (s, 0)

/-- An aligned 8-byte write of a register by an agent (R7, R9, R33). -/
def writeReg (s : State) (ag : Agent) (g : Reg) (v : W64) : State :=
  let r := g / 0x100000000
  let o := g % 0x100000000
  if !s.regionLive r then s
  else if o < 0x100000 then s.writeCtl ag r o v
  else if o < 0x200000 then s.writePwr ag r o v
  else if o < 0x300000 then s.writeKiln ag r o v
  else if o < 0x400000 then s.writeSync ag r o v
  else if o < 0x500000 then s.writeDma ag r o v
  else if o < 0x600000 then s.writeColl ag r o v
  else if o < 0x700000 then s.writePort ag (r * 4 + o / 0x40000 % 4) (o % 0x40000) v
  else if o < 0x800000 then s.writeHost ag r o v
  else if o < 0x900000 then s.writeHbm ag r o v
  else if o < 0xA00000 then s.writeLpd ag r o v
  else if o < 0xB00000 then s.writeMgmt ag r o v
  else if 0x01000000 ≤ o ∧ o < 0x01800000 then s.writeBlk ag (r * 128 + (o - 0x01000000) / 0x10000) (o % 0x10000) v
  else if 0x02000000 ≤ o ∧ o < 0x02240000 then s.writeCore (r * 36 + (o - 0x02000000) / 0x10000) (o % 0x10000) v
  else s

/-- A register access that is not a naturally aligned 8-byte access (R8): logged with ALIGN, and without effect. -/
def misaligned (s : State) (ag : Agent) (g : Reg) : State :=
  let r := g / 0x100000000
  if s.regionLive r then s.log r stALIGN 1 ag.code (g % 0x100000000) 0 else s

/-! ### What an access reports -/

/-- The reports of a step: fabric time follows the map (R375, R377), Uluell is told of mutes and evidence (R522), and runs lose the
peers on ports that have left ACTIVE (R394). -/
def noted (old s : State) : State :=
  collPorts old (timeAfter old (reportAfter old s))

/-- A register written by an agent of the module, another module or a host, with the reports that follow. -/
def regWrite (s : State) (ag : Agent) (g : Reg) (v : W64) : State := s.noted (s.writeReg ag g v)

/-- A write at a module physical address: a naturally aligned one of a register takes effect (R7, R8, R33). -/
def writeAddr (s : State) (ag : Agent) (a : Nat) (v : W64) : State :=
  match placeRaw a with
  | .mmio g => if g % 8 = 0 then s.regWrite ag g v else s.misaligned ag g
  | _ => s

/-- An access of registers that is not a naturally aligned 8-byte one (R8): a read returns zero to its hart. -/
def misalignedAccess (s : State) (ag : Agent) (a size : Nat) (write : Bool) : State :=
  match placeRaw a with
  | .mmio g =>
    if size = 8 ∧ g % 8 = 0 then s
    else if write then s.misaligned ag g
    else (s.misaligned ag g).deliver ag 0
  | _ => s

/-- The path between two regions changes: an edge has failed, or an intermediate region is lost (R20, R21). -/
def pathChanged (s : State) (edge lost : Option Nat) : Bool :=
  (edge.any fun e => (s.link (12 + e)).failed) || lost.any fun r => s.lostRegions.contains r

end State
end Sys2Proof.Machine
end

