-- ==== Sys2Proof/Machine/Inbound.lean ====
section
/-!
DEFINITION. Requests that reach the module from outside: packets of other modules (R265 to R268), BAR0 and BAR2 of the endpoint
(R404 to R410), devices below a root port (R416, R417), and the responses to the module's own requests (R248, R264, R266).
-/
namespace Sys2Proof.Machine

/-- The operation that AUX names in an ATOMIC: 0 FetchAdd, 1 Swap, 2 CAS, 3 to 11 the AMO operations; bits [23:16] the operand
size (the model's encoding: Table 10.4 gives none). -/
def auxOp (aux : W64) (compare : W64) : AtomOp :=
  match bits aux 7 0 with
  | 0 => .fetchAdd
  | 1 => .swap
  | 2 => .cas compare
  | 3 => .amo .swap
  | 4 => .amo .add
  | 5 => .amo .xor
  | 6 => .amo .and
  | 7 => .amo .or
  | 8 => .amo .min
  | 9 => .amo .max
  | 10 => .amo .minu
  | _ => .amo .maxu

def amoAux (op : AmoOp) (size : Nat) : W64 :=
  fld (match op with
    | .swap => 3 | .add => 4 | .xor => 5 | .and => 6 | .or => 7 | .min => 8 | .max => 9 | .minu => 10 | .maxu => 11) 0 |||
    fld size 16

/-- The place of a hart in its module, in the AUX of a peg operation. -/
def placeAux (h : Nat) : W64 := fld (hartAgent 0 h).place 32

/-- What the home does with a request. -/
inductive Served where
  /-- A line that it needs is deferred, or its home has no room for it (R256, R289, R321): it is served later. -/
  | wait
  /-- It is answered now. -/
  | reply (s : State) (status : Nat) (data : List Byte)
  /-- It goes on to the T5 window of this module. -/
  | pass (p off : Nat)
  deriving DecidableEq, Repr

/-- The requester of a packet. One of a peg operation is named in AUX, from bit 32 on, by the place of the unit in its module. -/
def packetAgent (p : Packet) : Agent :=
  if p.opcode = 5 then { agentOfCode 0 (bits p.aux 44 32) with module := p.src, own := false } else { module := p.src, own := false }

namespace State

/-- A read at its home: memory, a block store, a register (R8), or RANGE. -/
def serveRead (s : State) (ag : Agent) (a n : Nat) : Served :=
  match s.place a with
  | .hbm .. | .lpd .. =>
    if (linesOf a n).any (s.lineWaits · false) then .wait
    else
      let (s, bs, bad) := s.readBytes ag a n
      .reply s (if bad.isSome then stPOISON else stOK) bs
  | .t4 p off =>
    if !s.t4Reachable p off then .reply s stPEER_LOST []
    else if (linesOf a n).any (s.lineWaits · false) then .wait
    else
      let (s, bs, bad) := s.readBytes ag a n
      .reply s (if bad.isSome then stPOISON else stOK) bs
  | .store b off =>
    if !s.dieLive (b / 128) (b % 128 / 64) then .reply s stPEER_LOST []
    else .reply s (if (s.firstPoison (storeBase b + off) n).isSome then stPOISON else stOK) (s.rdBytes (storeBase b + off) n)
  | .mmio g =>
    if n = 8 ∧ g % 8 = 0 then
      let (s, v) := s.readReg ag g
      .reply s stOK (leBytes 8 v.toNat)
    else .reply (s.misaligned ag g) stOK (List.replicate n 0)
  | .t5 p off => .pass p off
  | .peg .. | .reserved => .reply s stRANGE []

/-- The bytes that a mask selects are written word by word: a word that is written whole loses its poison (R294). -/
def wrMasked (s : State) (a : Nat) (bs : List Byte) (m : Nat) : State :=
  (List.range ((bs.length + 7) / 8)).foldl (fun s w =>
    let word := (bs.drop (8 * w)).take 8
    if word.length = 8 ∧ m / 2 ^ (8 * w) % 256 = 255 then s.wrBytes (a + 8 * w) word
    else (List.range word.length).foldl (fun s i => if m.testBit (8 * w + i) then s.wrBytes (a + 8 * w + i) [word.getD i 0] else s) s) s

/-- A write at its home; `m` masks the bytes of a line where it is given. -/
def serveWrite (s : State) (ag : Agent) (a : Nat) (bs : List Byte) (m : Option Nat) : Served :=
  let memory (s : State) : Served :=
    if (linesOf a bs.length).any (s.lineWaits · true) then .wait
    else match m with
      | some k =>
        let (s, st) := s.engineWrite ag (a / 128) (BitVec.ofNat 1024 (leNat bs)) (BitVec.ofNat 128 k)
        .reply s st []
      | none =>
        let (s, e) := s.writeBytes ag a bs
        .reply s ((e.map (·.1)).getD stOK) []
  match s.place a with
  | .hbm .. | .lpd .. => memory s
  | .t4 p off => if s.t4Reachable p off then memory s else .reply s stPEER_LOST []
  | .store b off =>
    if !s.dieLive (b / 128) (b % 128 / 64) then .reply s stPEER_LOST []
    else
      let at_ := storeBase b + off
      let put := match m with
        | some k => s.wrMasked at_ bs k
        | none => s.wrBytes at_ bs
      .reply put stOK []
  | .mmio g =>
    if bs.length = 8 ∧ g % 8 = 0 ∧ m.isNone then
      -- an abort notice goes to the package master region, whatever region it names (R395)
      .reply (if g % 0x100000000 = 0x380 then s.noted (s.collNotice (w64 (leNat bs))) else s.regWrite ag g (w64 (leNat bs))) stOK []
    else .reply (s.misaligned ag g) stOK []
  | .t5 p off => .pass p off
  | .peg .. | .reserved => .reply s stRANGE []

/-- An atomic at its home (R257, R264, R410): naturally aligned, in memory or a block store. A register takes none (R8). -/
def serveAtomic (s : State) (ag : Agent) (a size : Nat) (op : AtomOp) (v : Nat) : Served :=
  let memory : Served :=
    if a % size ≠ 0 then .reply s stALIGN []
    else if s.lineWaits (a / 128) true then .wait
    else
      let (s, old, st) := s.engineAtomic ag (a / 128) (a % 128) size op v
      let o : Origin := match ag.hart with | some h => .hart h | none => .watch (placeHome (placeRaw a))
      .reply (if st = stOK then s.t4Write o a (leBytes size (atomResult op size old v)) none 0 else s) st (leBytes size old)
  match s.place a with
  | .hbm .. | .lpd .. => memory
  | .t4 p off => if s.t4Reachable p off then memory else .reply s stPEER_LOST []
  | .store b off =>
    if !s.dieLive (b / 128) (b % 128 / 64) then .reply s stPEER_LOST []
    else if a % size ≠ 0 then .reply s stALIGN []
    else
      let at_ := storeBase b + off
      let old := s.rdNat at_ size
      if (s.firstPoison at_ size).isSome then .reply (s.logPoison ag a) stPOISON []
      else .reply (s.wrNat at_ size (atomResult op size old v)) stOK (leBytes size old)
  | .mmio g => .reply (s.misaligned ag g) stOK (List.replicate size 0)
  | _ => .reply s stRANGE []

/-! ### Packets of other modules -/

/-- A delivered request leaves the inbox. -/
def takeIn (s : State) (p : Packet) : State := { s with inbox := s.inbox.erase p }

/-- A delivered request may be served: no earlier ORDERED packet of its source waits before an ORDERED one (R266). -/
def inTurn (s : State) (p : Packet) : Bool :=
  s.inbox.contains p && !(p.ordered && (s.inbox.takeWhile (· != p)).any fun q => q.ordered && q.src == p.src && decide (q.opcode < 0x80))

/-- A write that was performed at T4: it is acknowledged when the expander completes it (R264). -/
def awaitsT4 (p : Packet) (st : Nat) : Bool :=
  st == stOK && (p.opcode == 2 || p.opcode == 3) && match placeRaw p.addr with | .t4 .. => true | _ => false

/-- The outcome of serving a delivered request; one for T5 leaves through the host port for its requester. -/
def finishServed (s : State) (p : Packet) (x : Served) : State :=
  match x with
  | .wait => s
  | .reply s' st bs =>
    if awaitsT4 p st then
      let (a, data, mask) := if p.opcode = 3 then (p.addr / 128 * 128, p.data.take 128, some p.mask) else (p.addr, p.data, none)
      (s'.takeIn p).t4Write (.fabric p.src p.tag p.meterTag) a data mask 0
    else (s'.takeIn p).respond p.src p.tag p.meterTag (responseOp p.opcode) st bs
  | .pass h off =>
    let o := Origin.fabric p.src p.tag p.meterTag
    let q : OutReq := { tag := 0, origin := o, dest := .host h, op := p.opcode, addr := off, len := p.len, data := p.data, mask := p.mask }
    let s := s.takeIn p
    if s.destReachable (.host h) o then s.issue q
    else (s.logLost s.masterRegion q o stHOST_LOST).respond p.src p.tag p.meterTag (responseOp p.opcode) stHOST_LOST []

/-- FABRIC_READ (R265). -/
def fabricRead (s : State) (p : Packet) : State :=
  if p.opcode ≠ 1 ∨ !s.inTurn p then s else s.finishServed p (s.serveRead (packetAgent p) p.addr p.len)

/-- FABRIC_WRITE (R265). -/
def fabricWrite (s : State) (p : Packet) : State :=
  if p.opcode ≠ 2 ∨ !s.inTurn p then s else s.finishServed p (s.serveWrite (packetAgent p) p.addr p.data none)

/-- MASKED_WRITE: one line under its byte mask (R265, R345). -/
def fabricMasked (s : State) (p : Packet) : State :=
  if p.opcode ≠ 3 ∨ !s.inTurn p then s
  else s.finishServed p (s.serveWrite (packetAgent p) (p.addr / 128 * 128) (p.data.take 128) (some p.mask))

/-- ATOMIC (R257): the operand, after the value to compare with for a CAS. -/
def fabricAtomic (s : State) (p : Packet) : State :=
  if p.opcode ≠ 4 ∨ !s.inTurn p then s
  else
    let size := if bits p.aux 23 16 = 4 then 4 else 8
    let cas := bits p.aux 7 0 == 2
    let c := if cas then leNat (p.data.take size) else 0
    let v := leNat ((if cas then p.data.drop size else p.data).take size)
    match s.place p.addr with
    | .t5 .. => s.finishServed p (.reply s stRANGE [])
    | _ => s.finishServed p (s.serveAtomic (packetAgent p) p.addr size (auxOp p.aux (w64 c)) v)

/-- The status and value of a peg operation of another module: AUX[7:0] 0 load, 1 store, 2 AMOADD.D, 3 AMOSWAP.D (R221,
R222, R228, R240). -/
def pegOpAt (s : State) (ag : Agent) (p off op : Nat) (v : W64) : State × Nat × W64 :=
  let live := s.regionLive (pegHome p)
  let old := (s.peg p).value
  match op, off with
  | 0, _ =>
    if !live then (s, stPOISON, 0)
    else
      let (s, x, bad) := s.pegLoad ag p off
      (s, if bad then stSCOPE_NARROW else stOK, if bad then 0 else x)
  | 1, _ => (s.pegStore ag p off v, if live then stOK else stPEER_LOST, 0)
  | 2, 0x00 => if live then (s.pegAdd ag p v, stOK, old) else (s, stPOISON, 0)
  | 3, 0x00 => if live then (s.pegSet ag p v, stOK, old) else (s, stPOISON, 0)
  | 3, 0x30 => if live then (s.pegCas ag p v, stOK, s.pegCasResult ag p) else (s, stPOISON, 0)
  | _, _ => (s, stRANGE, 0)

/-- PEG_OP (R268). -/
def fabricPegOp (s : State) (p : Packet) : State :=
  if p.opcode ≠ 5 ∨ !s.inTurn p then s
  else
    let op := bits p.aux 7 0
    let (s', st, x) := match s.place p.addr with
      | .peg n off =>
        if off % 8 = 0 ∧ (op = 0 ∨ p.data.length = 8) then s.pegOpAt (packetAgent p) n off op (w64 (leNat p.data)) else (s, stRANGE, 0)
      | _ => (s, stRANGE, 0)
    (s'.takeIn p).respond p.src p.tag p.meterTag (if op = 0 then 0x81 else if op = 1 then 0x82 else 0x83) st
      (if op = 1 then [] else leBytes 8 x.toNat)

/-! ### Responses (R248, R264, R266) -/

/-- A response of another module: a delivered response packet with the request's tag is used up. -/
def fabricAnswer (s : State) (tag status : Nat) (data : List Byte) (posted : Bool) : State :=
  match s.out.find? fun q => q.tag == tag && q.posted == posted with
  | some q =>
    match q.dest with
    | .module m =>
      let s : State := { s with inbox := s.inbox.filter fun p => !(decide (0x80 ≤ p.opcode) && p.src == m && p.tag == tag % 65536) }
      s.answered q status data
    | .host _ | .t4 _ => s
  | none => s

/-- The link partner of a host port acknowledges or completes a request, or an expander completes a write to T4 (R264). -/
def hostAnswer (s : State) (tag status : Nat) (data : List Byte) : State :=
  match s.out.find? (·.tag == tag) with
  | some q =>
    match q.dest with
    | .host _ | .t4 _ => s.answered q status data
    | .module _ => s
  | none => s

/-! ### BAR0 (R404 to R407) -/

/-- An inbound non-posted request is completed. -/
def completed (s : State) (r f : Nat) (c : Cpl) (ep : Bool) (data : List Byte) : State := s.emit (.completion r f c ep data)

/-- A read answered with a register's value; a write answers nothing. -/
def bar0Value (r f : Nat) (x : State × W64) : State := x.1.completed r f .success false (leBytes 8 x.2.toNat)

/-- An access to what the function does not own (R404). -/
def bar0Unowned (s : State) (r f off size : Nat) (write : Option W64) : State :=
  let s := s.hostLogAdd r stRANGE 4 f 0 off
  if write.isSome then s else s.completed r f .success false (List.replicate size 0)

/-- Whether `off` lies in a page of registers, which are accessed under R7 and R8. -/
def bar0Pages (off : Nat) : Bool :=
  decide (off < 0x1040) || (decide (0x100000 ≤ off) && decide (off < 0x140000)) || (decide (0x200000 ≤ off) && decide (off < 0x240000))

/-- A function's peg window. -/
def pegGranted (s : State) (r f n : Nat) : Bool :=
  let g := s.reg (hostFn r f 0x10)
  bit g 32 && decide (bits g 15 0 ≤ n ∧ n ≤ bits g 31 16)

/-- The function page, with the HOST mailbox slot in the page of the PF (R524). -/
def bar0FnRead (s : State) (r f off : Nat) : W64 :=
  if off = 0x000 then s.hostFnId r f
  else if off = 0x008 then (s.hostFunction r f).slide
  else if f ≠ 0 then 0
  else if off = 0x808 then s.mbxStatus .host
  else if off = 0x810 then s.reg HOST_MBX_PEG
  else if 0x900 ≤ off ∧ off < 0xB00 then s.mbxWord .host ((off - 0x900) / 8)
  else 0

def bar0FnWrite (s : State) (r f off : Nat) (v : W64) : State :=
  if off = 0x008 then s.slideWrite r f v
  else if f ≠ 0 then s
  else if off = 0x800 then s.mbxCtrlWrite (s.fnAgent r 0) .host v
  else if off = 0x810 then s.setReg HOST_MBX_PEG (v &&& mask 18 0)
  else if 0x900 ≤ off ∧ off < 0xB00 then s.mbxWordWrite .host ((off - 0x900) / 8) v
  else s

/-- An aligned 8-byte access to BAR0 outside the peg window. -/
def bar0Reg (s : State) (r f off : Nat) (write : Option W64) : State :=
  let ag := s.fnAgent r f
  if off < 0x1000 then
    match write with
    | some v => s.bar0FnWrite r f off v
    | none => bar0Value r f (s, s.bar0FnRead r f off)
  else if off < 0x1040 then
    match write with
    | some v => s.armStore (fnQueue r f) ag.code (off % 64) v
    | none => bar0Value r f (s.armLoad (fnQueue r f) (off % 64))
  else if 0x100000 ≤ off ∧ off < 0x140000 then
    let c := (off - 0x100000) / 0x1000
    let w := off % 0x1000
    if s.ownerOf r 0 c ≠ some f then s.bar0Unowned r f off 8 write
    else match write with
      | some v =>
        if w = 0x018 ∨ w = 0x020 ∨ w = 0x028 then s.hostLogAdd r stRANGE 4 f 0 off else s.noted (s.writeDmaChan ag r c w v)
      | none => bar0Value r f (s, s.readDmaChan r c w)
  else if 0x200000 ≤ off ∧ off < 0x240000 then
    let c := (off - 0x200000) / 0x1000
    if s.ownerOf r 1 c ≠ some f then s.bar0Unowned r f off 8 write
    else match write with
      | some v => s.noted (s.writeCollChan ag r c (off % 0x1000) v)
      | none => bar0Value r f (s, s.readCollChan r c (off % 0x1000))
  else match write with
    | some _ => s
    | none => bar0Value r f (s, 0)

/-- A peg window access (R407). -/
def bar0Peg (s : State) (r f off size : Nat) (write : Option W64) : State :=
  let n := (off - 0x400000) / 64
  let view := off % 64
  let ag := s.fnAgent r f
  if !s.pegGranted r f n then s.bar0Unowned r f off size write
  else if size ≠ 8 ∨ off % 8 ≠ 0 then
    let s := s.hostLogAdd r stRANGE 3 f 0 off
    if write.isSome then s else s.completed r f .unsupported false []
  else match write with
    | some v => s.pegStore ag n view v
    | none =>
      if !s.regionLive (pegHome n) then s.completed r f .success true (List.replicate 8 0)
      else
        let (s, v, _) := s.pegLoad ag n view
        s.completed r f .success false (leBytes 8 v.toNat)

/-- The page of a DMA or collective channel that the function does not own (R404). -/
def bar0Foreign (s : State) (r f off : Nat) : Bool :=
  (decide (0x100000 ≤ off ∧ off < 0x140000) && s.ownerOf r 0 ((off - 0x100000) / 0x1000) != some f) ||
    (decide (0x200000 ≤ off ∧ off < 0x240000) && s.ownerOf r 1 ((off - 0x200000) / 0x1000) != some f)

/-- HOST_BAR0_ACCESS: a request that BAR0 does not admit completes with Unsupported Request (R422); a register access is
naturally aligned and of 8 bytes, but for a 4-byte write of a doorbell (R406). -/
def bar0Access (s : State) (r f off size : Nat) (write : Option W64) : State :=
  if !s.barOpen r f then (if write.isSome then s else s.completed r f .unsupported false [])
  else if 0x400000 ≤ off then s.bar0Peg r f off size write
  else if s.bar0Foreign r f off then s.bar0Unowned r f off size write
  else if size = 8 ∧ off % 8 = 0 then s.bar0Reg r f off write
  else if size = 4 ∧ 0x100000 ≤ off ∧ off < 0x140000 ∧ off % 0x1000 = 0x030 ∧ write.isSome then
    s.bar0Reg r f off (write.map fun v => v &&& mask 31 0)
  else if bar0Pages off then
    let s := s.log r stALIGN 1 (s.fnAgent r f).code off 0
    if write.isSome then s else s.completed r f .success false (List.replicate size 0)
  else if write.isSome then s
  else s.completed r f .success false (List.replicate size 0)

/-- HOST_PEG_ATOMIC (R407, R222). -/
def hostPegAtomic (s : State) (r f off size : Nat) (op : AtomOp) (v : W64) : State :=
  let n := (off - 0x400000) / 64
  let ag := s.fnAgent r f
  let discard (s : State) : State := s.log (pegHome n) stRANGE 6 ag.code (pegAddr n (off % 64)) 0
  let refuse (s : State) : State :=
    ((if size = 8 ∧ off % 64 = 0x30 then discard s else s).hostLogAdd r stRANGE 3 f 0 off).completed r f .unsupported false []
  if !s.barOpen r f ∨ off < 0x400000 then s.completed r f .unsupported false []
  else if !s.pegGranted r f n then s.bar0Unowned r f off size none
  else match op with
    | .cas _ => if size ≠ 8 ∨ off % 64 ≠ 0 then refuse s else (discard s).completed r f .unsupported false []
    | .fetchAdd =>
      if size ≠ 8 ∨ off % 64 ≠ 0 then refuse s
      else if !s.regionLive (pegHome n) then s.completed r f .success true (List.replicate 8 0)
      else (s.pegAdd ag n v).completed r f .success false (leBytes 8 (s.peg n).value.toNat)
    | .swap =>
      if size ≠ 8 ∨ off % 64 ≠ 0 then refuse s
      else if !s.regionLive (pegHome n) then s.completed r f .success true (List.replicate 8 0)
      else (s.pegSet ag n v).completed r f .success false (leBytes 8 (s.peg n).value.toNat)
    | .amo _ => refuse s

/-! ### BAR2 (R408 to R411) -/

/-- A BAR2 address is refused: it is not memory of the module, or a VF does not serve its partition (R409). -/
def bar2Refused (s : State) (f a n : Nat) : Bool :=
  (linesOf a n).any fun line =>
    (match s.place (line * 128) with | .hbm .. | .lpd .. => false | _ => true) ||
      (f != 0 && s.partitionOf (line * 128) != f - 1)

/-- The module physical address of BAR2 offset `off`. -/
def bar2Addr (s : State) (r f off : Nat) : Nat := (s.hostFunction r f).slide.toNat + off

/-- An offset lies inside the BAR (R408). -/
def bar2Inside (s : State) (r f off n : Nat) : Bool := decide (off + n ≤ 2 ^ (s.hostFunction r f).bar2Log2)

/-- HOST_BAR2_READ (R409); no value while it waits. -/
def bar2Read (s : State) (r f off n : Nat) : Option State :=
  let a := s.bar2Addr r f off
  if !s.barOpen r f ∨ !s.bar2Inside r f off n then some (s.completed r f .unsupported false [])
  else if s.bar2Refused f a n then some ((s.hostLogAdd r stRANGE 3 f 0 a).completed r f .abort false [])
  else match s.serveRead (s.fnAgent r f) a n with
    | .reply s st bs => some (s.completed r f .success (st == stPOISON) bs)
    | .wait => none
    | .pass .. => some s

/-- The words that a write with EP set leaves poisoned (R409). -/
def poisonWords (s : State) (a n : Nat) : State := (wordsOf a n).foldl (fun s w => s.addPoison w) s

/-- HOST_BAR2_WRITE (R409); no value while it waits. -/
def bar2Write (s : State) (r f off : Nat) (data : List Byte) (ep : Bool) : Option State :=
  let a := s.bar2Addr r f off
  if !s.barOpen r f ∨ !s.bar2Inside r f off data.length then some s
  else if s.bar2Refused f a data.length then some (s.hostLogAdd r stRANGE 3 f 0 a)
  else match s.serveWrite (s.fnAgent r f) a data none with
    | .reply s st _ => some (if ep && st == stOK then s.poisonWords a data.length else s)
    | .wait => none
    | .pass .. => some s

/-- HOST_BAR2_ATOMIC: 32-bit and 64-bit FetchAdd, Swap and CAS (R410). -/
def bar2Atomic (s : State) (r f off size : Nat) (op : AtomOp) (v : W64) : Option State :=
  let a := s.bar2Addr r f off
  let listed := match op with | .amo _ => false | _ => size == 4 || size == 8
  if !s.barOpen r f ∨ !s.bar2Inside r f off size then some (s.completed r f .unsupported false [])
  else if !listed ∨ a % size ≠ 0 then some ((s.hostLogAdd r stRANGE 3 f 0 a).completed r f .unsupported false [])
  else if s.bar2Refused f a size then some ((s.hostLogAdd r stRANGE 3 f 0 a).completed r f .abort false [])
  else match s.serveAtomic (s.fnAgent r f) a size op v.toNat with
    | .reply s st bs => some (s.completed r f .success (st != stOK) bs)
    | .wait => none
    | .pass .. => some s

/-! ### Devices below a root port (R416, R417) -/

/-- A request refused with Unsupported Request. -/
def deviceRefused (s : State) (r k reqId status cause a : Nat) (write : Bool) : State :=
  let s := s.hostLogAdd r status cause k reqId a
  if write then s else s.completed r k .unsupported false []

/-- The answer that the home gives a device, and the write that goes on to an expander (R264); none while the request waits. -/
def deviceServed (s : State) (r k : Nat) (m : Nat) (write : Option (List Byte)) (x : Served) : Option State :=
  match x with
  | .reply s' st bs => some (match write with
    | none => s'.completed r k .success (st == stPOISON) bs
    | some data => if st = stOK then s'.t4Write (.watch r) m data none 0 else s')
  | .wait => none
  | .pass .. => some s

/-- What the IOMMU answers to an ATS translation request (R416): the page with its R and W bits, or neither where it has no translation.
The layout is that of the PCIe standard (log 180). -/
def atsEntry (s : State) (pasid a : Nat) : List Byte :=
  match s.translate pasid a false with
  | some (pa, _) => leBytes 8 (pa / 4096 * 4096 + 1 + if (s.translate pasid a true).isSome then 2 else 0)
  | none => leBytes 8 0

/-- DEVICE_INBOUND_REQUEST: a request of a device below sub-port `k`, translated under its process ID; a storage device stays
inside the bounce window in Standalone mode.  A read of no bytes stands for an ATS translation request (log 180). -/
def deviceRequest (s : State) (r k reqId pasid a : Nat) (storage : Bool) (n : Nat) (write : Option (List Byte)) :
    Option State :=
  let x := (s.hostPort r).subs.get {} k
  let ag : Agent := { kind := .external, index := k, region := r, module := s.moduleId }
  let len := match write with | some bs => bs.length | none => n
  if (s.hostPort r).endpoint ∨ x.link ≠ 2 then some s
  else if storage ∧ !s.mgmt.image.attached ∧
      (a < (s.reg (HOST_RP_BOUNCE_LO r k)).toNat ∨ (s.reg (HOST_RP_BOUNCE_HI r k)).toNat < a + len - 1) then
    some (s.deviceRefused r k reqId stRANGE 8 a write.isSome)
  else if s.translateHeld pasid a then none
  else if len = 0 ∧ write.isNone then some (s.completed r k .success false (s.atsEntry pasid a))
  else match s.translate pasid a write.isSome with
    | none => some (s.deviceRefused r k reqId stXLATE 3 a write.isSome)
    | some (pa, _) =>
      match s.reach pa with
      | .own (.hbm ..) m _ | .own (.lpd ..) m _ | .own (.t4 ..) m _ =>
        match write with
        | some bs => s.deviceServed r k m write (s.serveWrite ag m bs none)
        | none => s.deviceServed r k m write (s.serveRead ag m n)
      | .own (.peg p off) _ _ =>
        some (if off % 8 ≠ 0 ∨ len ≠ 8 then s.deviceRefused r k reqId stRANGE 3 a write.isSome
        else match write with
          | some bs => s.pegStore ag p off (w64 (leNat bs))
          | none =>
            if !s.regionLive (pegHome p) then s.completed r k .success true (List.replicate 8 0)
            else
              let (s, v, _) := s.pegLoad ag p off
              s.completed r k .success false (leBytes 8 v.toNat))
      | _ => some (s.deviceRefused r k reqId stRANGE 3 a write.isSome)

/-! ### The order of inbound requests (R263) -/

/-- The requester of an inbound request: a function of the endpoint, or a device below a root port. -/
def requester : Instr → Option (Nat × Nat × Nat)
  | .hostBar0Access r f .. | .hostPegAtomic r f .. | .hostBar2Read r f .. | .hostBar2Write r f .. | .hostBar2Atomic r f ..
  | .hostFnBar2SlideWrite r f _ => some (r, f, 0)
  | .deviceInboundRequest r k reqId .. => some (r, 16 + k, reqId)
  | _ => none

/-- The request is a posted write. -/
def inPosted : Instr → Bool
  | .hostBar2Write .. | .hostFnBar2SlideWrite .. => true
  | .hostBar0Access _ _ _ _ w => w.isSome
  | .deviceInboundRequest _ _ _ _ _ _ _ w => w.isSome
  | _ => false

/-- The request is a write to memory with Relaxed Ordering. -/
def inRelaxed : Instr → Bool
  | .hostBar2Write _ _ _ _ a => a.relaxed
  | .deviceInboundRequest _ _ _ _ _ _ _ w => w.any (·.relaxed)
  | _ => false

/-- A request is performed; no value while it waits for a line. -/
def performIn (s : State) : Instr → Option State
  | .hostBar0Access r f off size w => some (s.bar0Access r f off size w)
  | .hostPegAtomic r f off size op v => some (s.hostPegAtomic r f off size op v)
  | .hostFnBar2SlideWrite r f v => some (s.slideWrite r f v)
  | .hostBar2Read r f off n => s.bar2Read r f off n
  | .hostBar2Write r f off data a => s.bar2Write r f off data a.poisoned
  | .hostBar2Atomic r f off size op v => s.bar2Atomic r f off size op v
  | .deviceInboundRequest r k reqId pasid a storage n w => s.deviceRequest r k reqId pasid a storage n (w.map (·.data))
  | _ => some s

/-- A request waits behind the earlier posted writes of its requester, unless it is a write with Relaxed Ordering. -/
def inBehind (c : Instr) (before : List Instr) : Bool :=
  !inRelaxed c && before.any fun d => inPosted d && requester d == requester c

/-- Requests in the order in which they arrived: each is performed, or kept behind those that wait. -/
def admitIn (s : State) : List Instr → List Instr → State
  | [], kept => { s with hostIn := kept }
  | c :: cs, kept =>
    if inBehind c kept then admitIn s cs (kept ++ [c])
    else match s.performIn c with
      | some s' => admitIn s' cs kept
      | none => admitIn s cs (kept ++ [c])

/-- The requests that wait are tried again, in order. -/
def settleIn (s : State) : State := if s.hostIn = [] then s else s.admitIn s.hostIn []

/-- An inbound request arrives, behind those that wait. -/
def arrive (s : State) (c : Instr) : State := s.admitIn (s.hostIn ++ [c]) []

/-- A tick, which the block takes when no command waits: one nanosecond of the fret phase passes, every hart performs the held stores
that it can, and so do the host ports the requests that wait, the collective engines their due entries, a route load its entries and the
ledger ring its export (log 3). -/
def tick (s : State) : State :=
  if s.powered then ({ s with phaseNs := s.phaseNs + 1 } : State).settleHarts.settleIn.settleColls.routeLoad.exportRing else s

end State
end Sys2Proof.Machine
end

