-- ==== Sys2Proof/Machine/HartOps.lean ====
section
/-!
DEFINITION. The accesses of a hart: loads, stores, AMOs, LR and SC under their classes, and fences (chapters 4 and 7).
An access that must wait (for a line, an acknowledgement, a free buffer) does not retire; the hart makes it again.
-/
namespace Sys2Proof.Machine

/-- Where an access of a hart goes (Tables 4.2 and 7.1). -/
inductive HTarget where
  /-- The sequencer's own block store, staging window and register page. -/
  | local_ (off : Nat)
  | staging (off : Nat)
  /-- Cacheable memory of the own module. -/
  | mem (a : Nat)
  /-- Own memory through a mapping with PBMT NC, or NC through the fabric aperture (R243). -/
  | nc (a : Nat) (aperture : Bool)
  /-- Own memory in the I/O class: through PBMT IO, or the fabric aperture. -/
  | home (a : Nat) (aperture : Bool)
  | store (b off : Nat)
  | mmio (g : Reg)
  | peg (p off : Nat)
  /-- Another module, or the external host window; `nc` for a mapping with PBMT NC. -/
  | out (d : OutDest) (a : Nat) (nc : Bool)
  /-- A T4 address below a link that is down (R273), and the memory type of its mapping. -/
  | dead (r a : Nat) (t : Pbmt)
  | badAperture (a : Nat)
  /-- No translation: a page fault of a core, an access fault of a sequencer (R147). -/
  | page
  | fault
  deriving DecidableEq, Repr

/-- Naturally aligned pieces of a misaligned access (R253). -/
def splitAccess : Nat → Nat → Nat → List (Nat × Nat)
  | 0, _, _ => []
  | fuel + 1, a, n =>
    if n = 0 then []
    else
      let k := ([8, 4, 2, 1].find? fun k => decide (k ≤ n) && a % k == 0).getD 1
      (a, k) :: splitAccess fuel (a + k) (n - k)

/-- An access that crosses a naturally aligned 16-byte boundary (R252, R253). -/
def crosses16 (a : Access) : Bool := a.addr / 16 != (a.addr + a.size - 1) / 16

/-- The pieces of an access, each single-copy atomic. -/
def piecesOf (a : Access) : List (Nat × Nat) := if crosses16 a then splitAccess 8 a.addr a.size else [(a.addr, a.size)]

/-- An address of peg space, at this or another module. -/
def isPegAddr (a : Nat) : Bool := decide (0xE10000000000 ≤ a) && decide (a < 0xE10000400000)

/-- An address of region MMIO. -/
def isMmioAddr (a : Nat) : Bool := decide (0xF00000000000 ≤ a) && decide (a < 0xF00400000000)

/-- What holds a piece of a memory-class access: the hart's cache, or for what is not cached the home, another destination, or a T4
link that is down. -/
inductive PieceAt where
  | cache
  | home
  | away (d : OutDest)
  | dead (r : Nat)
  deriving DecidableEq, Repr

/-- A piece of a memory-class access: its address in the program, at its place, and its bytes. -/
structure MemPiece where
  va : Nat
  pa : Nat
  n : Nat
  at_ : PieceAt := .cache
  deriving DecidableEq, Repr

/-- The part of a stored value that a piece holds. -/
def MemPiece.part (p : MemPiece) (base v : Nat) : Nat := v / 2 ^ (8 * (p.va - base)) % 2 ^ (8 * p.n)

namespace State

/-- The target of a physical address under a page-based memory type (R242, R243, R356). -/
def physTarget (s : State) (pa : Nat) (t : Pbmt) : HTarget :=
  match s.reach pa with
  | .badAperture => .badAperture pa
  | .remote m a => .out (.module m) a (t == .nc)
  | .own pl a ap =>
    let memory : HTarget := if t == .nc then .nc a ap else if ap || t == .io then .home a ap else .mem a
    match pl with
    | .hbm .. | .lpd .. => memory
    | .t4 p off => if s.t4Reachable p off then memory else .dead p a (if ap && t == .pma then .io else t)
    | .t5 p off => .out (.host p) off (t == .nc)
    | .store b off => .store b off
    | .mmio g => .mmio g
    | .peg p off => .peg p off
    | .reserved => .fault

/-- The target of an address that a hart names: an address of a core's program, or of Table 4.2. -/
def targetAt (s : State) (h a : Nat) (t : Pbmt) (write : Bool) : HTarget :=
  if h < 144 then
    match s.coreTranslate h a t write with
    | some (pa, t) => s.physTarget pa t
    | none => .page
  else if a < 0x200000 then .local_ a
  else if a < 0x200040 then .staging (a - 0x200000)
  else if 0x210000 ≤ a ∧ a < 0x220000 then
    .mmio ((h - 144) / 128 * 0x100000000 + 0x01000000 + (h - 144) % 128 * 0x10000 + (a - 0x210000))
  else if a < 0x1000000 then .fault
  else match s.translate (s.reg (BLK_PASID (h - 144))).toNat a write with
    | some (pa, t) => s.physTarget pa t
    | none => .page

/-- A piece of a memory-class access (Table 7.1): cacheable memory, memory through PBMT NC, and the stores through PBMT NC to
another module's memory or the external host (R243); none for a piece of another class. -/
def pieceAt (x n : Nat) (write : Bool) : HTarget → Option MemPiece
  | .mem m => some ⟨x, m, n, .cache⟩
  | .nc m ap => if write || !ap then some ⟨x, m, n, .home⟩ else none
  | .out d y true => if write && !(isPegAddr y || isMmioAddr y) then some ⟨x, y, n, .away d⟩ else none
  | .dead r y t => if t = .io ∨ (t = .nc ∧ !write) then none else some ⟨x, y, n, .dead r⟩
  | _ => none

/-- The pieces of a memory-class access; none when some piece is of another class (R253). -/
def memPieces (s : State) (h : Nat) (a : Access) (write : Bool) : Option (List MemPiece) :=
  (piecesOf a).mapM fun (x, n) => pieceAt x n write (s.targetAt h x a.pbmt write)

/-- The first piece of an access that nothing can be read or written at: its address and target (R253). -/
def badPieceOf (s : State) (h : Nat) (a : Access) (write : Bool) : Option (Nat × HTarget) :=
  ((piecesOf a).map fun (x, _) => (x, s.targetAt h x a.pbmt write)).find? fun (_, t) =>
    match t with
    | .fault | .page | .badAperture _ => true
    | _ => false

/-- The translation of an access must wait for a page table's memory (R305, R316). -/
def accessHeld (s : State) (h : Nat) (a : Access) : Bool := (piecesOf a).any fun (x, _) => s.hartWalkHeld h x

/-- A hart may make an access now: it runs, no answer is awaited, and no trap is being entered. -/
def hartReady (s : State) (h : Nat) : Bool :=
  s.hartRuns h && (match (s.hart h).wait with | .answer _ | .trap .. | .fetch _ => false | _ => true)

/-- An instruction of a hart that runs; a first instruction that is still to be fetched, and a trap that waits for its drain, come first
where they can. -/
def onHart (s : State) (h : Nat) (f : State → State) : State :=
  let s := (s.fetchArrived h).trapEnter h
  if s.hartReady h then f s else s

/-- Write-combining entries of a line are written out before another access of the hart to it (R251). -/
def wcClear (s : State) (h : Nat) (d : Option OutDest) (lines : List Nat) : State :=
  s.wcFlush h fun e => e.dest == d && lines.contains e.line

/-- An entry of a line is still there, or not acknowledged. -/
def wcHolds (s : State) (h : Nat) (d : Option OutDest) (lines : List Nat) : Bool :=
  (s.hart h).wc.any (fun e => e.dest == d && lines.contains e.line) ||
    s.out.any fun q => q.origin == .wc h && q.away == d && lines.contains (q.addr / 128)

/-- Entries of the lines of pieces are written out, and whether one is still there or not acknowledged (R251). -/
def awayOf (p : MemPiece) : Option OutDest := match p.at_ with | .away d => some d | _ => none
def wcClearPieces (s : State) (h : Nat) (ps : List MemPiece) : State := ps.foldl (fun s p => s.wcClear h (awayOf p) [p.pa / 128]) s
def wcHoldsPieces (s : State) (h : Nat) (ps : List MemPiece) : Bool := ps.any fun p => s.wcHolds h (awayOf p) [p.pa / 128]

/-- An access through an invalid aperture entry is recorded and faults (R356): it names no global address (R370). -/
def apertureFault (s : State) (h cause va : Nat) : State := (s.fabLogAdd (hartRegion h) stRANGE 4 0 0 0).fault h cause va

/-- The request of a hart to another module or the external host. -/
def hartRequest (h : Nat) (d : OutDest) (a op : Nat) (x : Access) : OutReq :=
  { tag := 0, origin := .hart h, dest := d, op := op, addr := a, len := x.size, va := x.addr, signed := x.signed,
    ordered := match d with | .module _ => true | _ => false }

/-- A load or AMO leaves the module, or fails at issue (R272, R273). -/
def askOutside (s : State) (h : Nat) (q : OutReq) : State :=
  if s.destReachable q.dest q.origin then (s.issue q).waitFor h (.answer s.nextTag)
  else (s.logLost (hartRegion h) q q.origin (lostStatus q.dest)).fault h (if q.loads then 5 else 7) q.va

/-- The exception of an access that reaches nothing (R147, R356): `cause` 5 for a load, 7 for a store or AMO; a core's page fault is 13
or 15. -/
def refuse (s : State) (h cause va : Nat) (t : HTarget) : State :=
  match t with
  | .badAperture _ => s.apertureFault h cause va
  | .page => s.fault h (if h < 144 then cause + 8 else cause) va
  | .dead r x _ => (s.hostLogAdd r stPEER_LOST 2 0 0 x).fault h cause va
  | _ => s.fault h cause va

/-! ### Loads -/

/-- A line as the hart sees it: its cached copy with its retired stores (R244). -/
def ownView (s : State) (h : Nat) (c : CLine) (line : Nat) : Line :=
  let l := match (s.hart h).combine with
    | some e => if e.line = line then c.line.merge e.data e.mask else c.line
    | none => c.line
  (s.hart h).stores.foldl (fun l st => if st.addr / 128 = line then l.put (st.addr % 128) st.size st.value.toNat else l) l

/-- The value of a load, lowest piece lowest, from cached lines and from homes; and the address of the first poisoned word. -/
def pieceValues (s : State) (h : Nat) (base : Nat) (ps : List MemPiece) : State × Nat × Option Nat :=
  ps.foldl (fun (s, v, bad) p =>
    if p.at_ = .cache then
      match s.cacheOf h (p.pa / 128) with
      | some c =>
        let l := s.ownView h c (p.pa / 128)
        (s, v + l.get (p.pa % 128) p.n * 2 ^ (8 * (p.va - base)), bad <|> (l.badWord (p.pa % 128) p.n).map (p.pa / 128 * 128 + ·))
      | none => (s, v, bad)
    else
      let (s, bs, x) := s.readBytes (hartAgent s.moduleId h) p.pa p.n
      (s, v + leNat bs * 2 ^ (8 * (p.va - base)), bad <|> x)) (s, 0, none)

/-- A lost home's line is poisoned at its next access, and a copy of it goes (R296). -/
def dropLost (s : State) (h line : Nat) : State := s.dropCopy h line

/-- A memory-class load (R242, R244, R251, R253). -/
def loadMem (s : State) (h : Nat) (a : Access) (ps : List MemPiece) : State :=
  let cached := ps.filter (·.at_ == .cache)
  let lines := cached.map (·.pa / 128)
  let s := s.wcClearPieces h ps
  match ps.find? fun p => match p.at_ with | .dead _ => true | _ => false with
  | some p => match p.at_ with
    | .dead r => (s.hostLogAdd r stPEER_LOST 2 0 0 p.pa).fault h 5 p.va
    | _ => s
  | none =>
    if s.wcHoldsPieces h ps then s.waitFor h .acks
    else if (ps.filter (·.at_ != .cache)).any (fun p => s.lineWaits (p.pa / 128) false) then s
    else
      let s := lines.foldl (fun s n => s.reclaim h n) s
      match cached.find? fun p => s.lostLine (p.pa / 128) with
      | some p => (s.dropLost h (p.pa / 128)).hartPoison h 5 p.pa a.addr
      | none =>
        match lines.find? fun n => (s.cacheOf h n).isNone with
        | some n => (s.loadMiss h n).waitFor h (.line n false)
        | none =>
          let s := lines.foldl (fun s n => s.missServed h n) s
          match s.pieceValues h a.addr ps with
          | (s, _, some x) => s.hartPoison h 5 x a.addr
          | (s, v, none) => s.retireWith h (extend a.signed a.size v)

/-- A load of own memory in the I/O class, served at its home. -/
def loadHome (s : State) (h : Nat) (a : Access) (m : Nat) : State :=
  let lines := linesOf m a.size
  let s := s.wcClear h none lines
  if s.wcHolds h none lines then s.waitFor h .acks
  else if lines.any (fun n => s.lineWaits n false) then s
  else
    let (s, bs, bad) := s.readBytes (hartAgent s.moduleId h) m a.size
    match bad with
    | some x => s.hartPoison h 5 x a.addr
    | none => s.retireWith h (extend a.signed a.size (leNat bs))

/-- A load of a block store, through the sequencer's local window or the uncached window (R143). -/
def loadStore (s : State) (h : Nat) (a : Access) (b off : Nat) : State :=
  let x := storeBase b + off
  if !s.dieLive (b / 128) (b % 128 / 64) then s.hartPoison h 5 x a.addr
  else match s.firstPoison x a.size with
    | some y => s.hartPoison h 5 y a.addr
    | none => s.retireWith h (extend a.signed a.size (s.rdNat x a.size))

/-- A load of a peg view (R221, R225, R228, R240). -/
def loadPeg (s : State) (h : Nat) (a : Access) (p off : Nat) : State :=
  if a.size ≠ 8 ∨ off % 8 ≠ 0 then s.fault h 5 a.addr
  else if !s.regionLive (pegHome p) then s.hartPoison h 5 (pegAddr p off) a.addr
  else
    let (s, v, bad) := s.pegLoad (hartAgent s.moduleId h) p off
    if bad then s.fault h 5 a.addr else s.retireWith h v

/-- A load of a register (R7, R8). -/
def loadMmio (s : State) (h : Nat) (a : Access) (g : Reg) : State :=
  let ag := hartAgent s.moduleId h
  if a.size = 8 ∧ g % 8 = 0 then
    let (s, v) := s.readReg ag g
    s.retireWith h v
  else (s.misaligned ag g).retireWith h 0

/-- A load that leaves the module: I/O class, naturally aligned but for another module's registers (R243, R246, R254). -/
def loadOut (s : State) (h : Nat) (a : Access) (d : OutDest) (x : Nat) : State :=
  let remote := match d with | .module _ => true | _ => false
  let peg := remote && isPegAddr x
  let s := s.wcClear h (some d) [x / 128]
  if (x % a.size ≠ 0 ∧ !(remote && isMmioAddr x)) ∨ (peg && a.size != 8) then s.fault h 5 a.addr
  else if s.wcHolds h (some d) [x / 128] then s.waitFor h .acks
  else s.askOutside h (hartRequest h d x (if peg then 5 else 1) a)

/-- A load of the I/O class, or one that reaches nothing. -/
def loadIo (s : State) (h : Nat) (a : Access) (t : HTarget) : State :=
  let aligned := a.addr % a.size = 0
  match t with
  | .mmio g => s.loadMmio h a g
  | .peg p off => s.loadPeg h a p off
  | .out d x _ => s.loadOut h a d x
  | .fault | .page | .badAperture _ => s.refuse h 5 a.addr t
  | _ =>
    if !aligned then s.fault h 5 a.addr
    else match t with
      | .nc m _ | .home m _ => s.loadHome h a m
      | .local_ off => s.loadStore h a (h - 144) off
      | .store b off => s.loadStore h a b off
      | .staging off =>
        s.retireWith h (extend a.signed a.size ((s.block (h - 144)).staging.toNat / 2 ^ (8 * off) % 2 ^ (8 * a.size)))
      | _ => s.refuse h 5 a.addr t

/-- HART_LOAD: every byte is translated and checked first (R253). -/
def hartLoad (s : State) (h : Nat) (a : Access) : State :=
  s.onHart h fun s =>
    if s.accessHeld h a then s
    else match s.badPieceOf h a false with
    | some (x, t) => s.refuse h 5 x t
    | none => match s.memPieces h a false with
      | some ps => s.loadMem h a ps
      | none => s.loadIo h a (s.targetAt h a.addr a.pbmt false)

/-! ### Stores -/

/-- A store to cacheable memory retires into the store buffer.  Bit i of `hold` leaves its i-th piece there: the others are performed
first, where their lines are owned (R244, R253). -/
def storeMem (s : State) (h : Nat) (ps : List HeldStore) (hold : Nat) : State :=
  let at_ (keep : Bool) := ((List.range ps.length).filter fun i => hold.testBit i == keep).filterMap fun i => ps[i]?
  let n := (s.hart h).stores.length + (at_ false).length
  (s.updHart h fun x => { x with stores := x.stores ++ at_ false ++ at_ true }).drainStores h n

/-- One write-combined piece; none where the buffer is full and its oldest entry must wait (R250). -/
def wcPiece (s : State) (h : Nat) (d : Option OutDest) (p : MemPiece) (v : Nat) : Option State :=
  let line := p.pa / 128
  let hit (x : Hart) : Bool := x.wc.any fun e => e.dest == d && e.line == line
  let s := if hit (s.hart h) ∨ (s.hart h).wc.length < 8 then s
    else match (s.hart h).wc.head? with
      | some e => s.wcFlush h (· == e)
      | none => s
  if hit (s.hart h) ∨ (s.hart h).wc.length < 8 then some (s.wcStore h d line (p.pa % 128) p.n v) else none

/-- The write-combined pieces of a store, and those that a dead link discards at issue (R250, R273). -/
def combinePieces (s : State) (h : Nat) (base v : Nat) (ps : List MemPiece) : Option State :=
  ps.foldlM (fun s p => match p.at_ with
    | .dead r => some (s.deadStore h 1 r p.pa)
    | .away d => s.wcPiece h (some d) p (p.part base v)
    | _ => s.wcPiece h none p (p.part base v)) s

/-- A memory-class store (R242 to R244, R250, R253): cacheable pieces go to the store buffer, write-combined ones to theirs. -/
def storePieces (s : State) (h : Nat) (a : Access) (ps : List MemPiece) (v : W64) (hold : Nat) : State :=
  let plain (p : MemPiece) : Bool := p.at_ == .cache && !a.ntl
  let cached := ps.filter plain
  let s := s.wcClearPieces h cached
  if s.wcHoldsPieces h cached then s.waitFor h .acks
  else
    let gone := ps.filter fun p => match p.at_ with | .dead _ => !a.ntl && a.pbmt == .pma | _ => false
    match s.combinePieces h a.addr v.toNat (ps.filter fun p => !plain p && !gone.contains p) with
    | none => s.waitFor h .acks
    | some s =>
      let s := gone.foldl (fun s p => match p.at_ with | .dead r => s.deadStore h 0 r p.pa | _ => s) s
      (s.retire h).storeMem h (cached.map fun p => { addr := p.pa, size := p.n, value := w64 (p.part a.addr v.toNat) }) hold

/-- A store to own memory served at its home; a discard is recorded (R271, R296). -/
def storeHome (s : State) (h : Nat) (a : Access) (m : Nat) (v : W64) : State :=
  let lines := linesOf m a.size
  let s := s.wcClear h none lines
  if s.wcHolds h none lines then s.waitFor h .acks
  else if lines.any (fun n => s.lineWaits n true) then s
  else
    let (s, lost) := s.writeBytes (hartAgent s.moduleId h) m (leBytes a.size v.toNat)
    let s := match lost with
      | some (st, x) => if st = stPEER_LOST then s.asyncError h st 0 0 x else s
      | none => s.t4Write (.hart h) m (leBytes a.size v.toNat) none a.addr
    s.retire h

/-- A store to a block store; that of a lost die is discarded. -/
def storeBlk (s : State) (h : Nat) (a : Access) (b off : Nat) (v : W64) : State :=
  let x := storeBase b + off
  let ag := hartAgent s.moduleId h
  if s.dieLive (b / 128) (b % 128 / 64) then (s.wrNat x a.size v.toNat).retire h
  else ((s.log ag.region stPEER_LOST 6 ag.code x 0).asyncError h stPEER_LOST 0 0 x).retire h

/-- Every earlier access is performed, as an AMO, LR, SC or a release asks (R224, R245, R251). -/
def settled (s : State) (h : Nat) (acks : Bool) : Bool :=
  (s.hart h).stores == [] && (s.hart h).combine.isNone && s.wcDrained h && (!acks || !s.unacked h)

/-- A push of the staging window (R152, R153, R249): it waits for the sequencer's earlier stores and for the drain, and
stalls while the spill queue is full. -/
def stagingPush (s : State) (h : Nat) (v : W64) : State :=
  let b := h - 144
  let s := s.pushOut h
  let c : Cmd := { seq := 0, word := v.setWidth 512 <<< 448 ||| ((s.block b).staging &&& BitVec.ofNat 512 (2 ^ 448 - 1)) }
  if !s.settled h false ∨ 4032 ≤ (((s.block b).engine (engineOf c.opcode)).spill).length then s.waitFor h .acks
  else (s.pushCmd b v).retire h

/-- A store to the staging window (R152). -/
def storeStaging (s : State) (h : Nat) (a : Access) (off : Nat) (v : W64) : State :=
  let b := h - 144
  if a.size ≠ 8 ∨ off % 8 ≠ 0 then s.fault h 7 a.addr
  else if off = 56 then s.stagingPush h v
  else
    let w := 8 * off
    (s.updBlock b fun x =>
      { x with staging := (x.staging &&& ~~~(BitVec.ofNat 512 ((2 ^ 64 - 1) <<< w))) ||| (v.setWidth 512 <<< w) }).retire h

/-- A store to a peg view; a release waits (R221, R224, R240). -/
def storePeg (s : State) (h : Nat) (a : Access) (p off : Nat) (v : W64) : State :=
  let release := decide (0x10 ≤ off ∧ off ≤ 0x28)
  if a.size ≠ 8 ∨ off % 8 ≠ 0 then s.fault h 7 a.addr
  else
    let s := if release then s.pushOut h else s
    if release && !s.releaseReady h ((off - 0x10) / 8) then s.waitFor h .acks
    else (s.pegStore (hartAgent s.moduleId h) p off v).retire h

/-- A store to a register (R7, R8). -/
def storeMmio (s : State) (h : Nat) (a : Access) (g : Reg) (v : W64) : State :=
  let ag := hartAgent s.moduleId h
  if a.size = 8 ∧ g % 8 = 0 then (s.regWrite ag g v).retire h else (s.misaligned ag g).retire h

/-- A posted store that leaves the module (R246, R266); a release at another module's peg waits as one here. -/
def storeOut (s : State) (h : Nat) (a : Access) (d : OutDest) (x : Nat) (v : W64) : State :=
  let remote := match d with | .module _ => true | _ => false
  let peg := remote && isPegAddr x
  let off := x % 64
  let release := peg && decide (0x10 ≤ off ∧ off ≤ 0x28)
  let s := s.wcClear h (some d) [x / 128]
  if (x % a.size ≠ 0 ∧ !(remote && isMmioAddr x)) ∨ (peg && a.size != 8) then s.fault h 7 a.addr
  else
    let s := if release then s.pushOut h else s
    if s.wcHolds h (some d) [x / 128] ∨ (release && !s.releaseReady h ((off - 0x10) / 8)) then s.waitFor h .acks
    else
      let q := hartRequest h d x (if peg then 5 else 2) a
      (s.postWrite h 0 { q with data := leBytes a.size v.toNat, aux := if peg then 0x101 ||| placeAux h else 0 }).retire h

/-- A store of the I/O class, or one that reaches nothing. -/
def storeIo (s : State) (h : Nat) (a : Access) (v : W64) (t : HTarget) : State :=
  let aligned := a.addr % a.size = 0
  match t with
  | .mmio g => s.storeMmio h a g v
  | .peg p off => s.storePeg h a p off v
  | .staging off => s.storeStaging h a off v
  | .out d x _ => s.storeOut h a d x v
  | .fault | .page | .badAperture _ => s.refuse h 7 a.addr t
  | _ =>
    if !aligned then s.fault h 7 a.addr
    else match t with
      | .nc m _ | .home m _ => s.storeHome h a m v
      | .local_ off => s.storeBlk h a (h - 144) off v
      | .store b off => s.storeBlk h a b off v
      | .dead r x _ => (s.deadStore h 0 r x).retire h
      | _ => s.refuse h 7 a.addr t

/-- HART_STORE: every byte is translated and checked first (R253). -/
def hartStore (s : State) (h : Nat) (a : Access) (v : W64) (hold : Nat) : State :=
  s.onHart h fun s =>
    if s.accessHeld h a then s
    else match s.badPieceOf h a true with
    | some (x, t) => s.refuse h 7 x t
    | none => match s.memPieces h a true with
      | some ps => s.storePieces h a ps v hold
      | none => s.storeIo h a v (s.targetAt h a.addr a.pbmt true)

/-! ### AMO, LR and SC (R245, R251, R255 to R257) -/

/-- The line of an access in the hart's cache, owned. -/
def ownedLine (s : State) (h line : Nat) : Option CLine :=
  match s.cacheOf h line with
  | some c => if c.state = .shared then none else some c
  | none => none

/-- What an AMO, LR or SC to cacheable memory shares: earlier accesses are performed, and the line is owned; `cause` is that of
the misaligned exception. `f` continues with the cached line and the address. -/
def atomicMem (s : State) (h : Nat) (a : Access) (m cause : Nat) (f : State → CLine → State) : State :=
  if crosses16 a then s.fault h cause a.addr
  else
    let s := s.pushOut h
    if !s.settled h true then s.waitFor h .acks
    else
      let s := s.reclaim h (m / 128)
      if s.lostLine (m / 128) then (s.dropLost h (m / 128)).hartPoison h 7 m a.addr
      else match s.ownedLine h (m / 128) with
        | none => (s.storeMiss h (m / 128)).waitFor h (.line (m / 128) true)
        | some c =>
          match c.line.badWord (m % 128) a.size with
          | some o => s.hartPoison h 7 (m / 128 * 128 + o) a.addr
          | none => f (s.missServed h (m / 128)) c

/-- An AMO in the hart's cache. -/
def amoMem (s : State) (h : Nat) (a : Access) (m : Nat) (op : AmoOp) (v : W64) : State :=
  s.atomicMem h a m 6 fun s c =>
    let old := c.line.get (m % 128) a.size
    let new := amoResult op a.size old (v.toNat % 2 ^ (8 * a.size))
    (s.setCache h (m / 128) (some ⟨.modified, c.line.put (m % 128) a.size new⟩)).retireWith h (extend true a.size old)

/-- An AMO of a peg view: AMOADD.D and AMOSWAP.D where Table 6.1 lists them. -/
def amoPegOk (op : AmoOp) (size off : Nat) : Bool :=
  size == 8 && ((op == .add && off == 0) || (op == .swap && (off == 0 || off == 0x30)))

def amoPeg (s : State) (h : Nat) (a : Access) (p off : Nat) (op : AmoOp) (v : W64) : State :=
  if !amoPegOk op a.size off then s.fault h 7 a.addr
  else
    let s := s.pushOut h
    let ag := hartAgent s.moduleId h
    if !s.settled h true then s.waitFor h .acks
    else if !s.regionLive (pegHome p) then s.hartPoison h 7 (pegAddr p off) a.addr
    else
      let old := (s.peg p).value
      let s := if op = .add then s.pegAdd ag p v else if off = 0 then s.pegSet ag p v else s.pegCas ag p v
      s.retireWith h old

/-- An AMO performed at its home: that of another module, or the own memory through the aperture (R257, R356). -/
def amoHome (s : State) (h : Nat) (a : Access) (m : Nat) (op : AmoOp) (v : W64) : State :=
  if m % a.size ≠ 0 then s.fault h 7 a.addr
  else
    let s := s.pushOut h
    if !s.settled h true then s.waitFor h .acks
    else match s.serveAtomic (hartAgent s.moduleId h) m a.size (.amo op) v.toNat with
      | .reply s st bs =>
        if st = stOK then s.retireWith h (extend true a.size (leNat bs))
        else s.fault h 7 a.addr
      | _ => s

/-- An AMO at another module (R221, R257): of memory, naturally aligned, or as Table 6.1 lists it at a peg; an AMO at a register is an
access of R8 there. -/
def amoOut (s : State) (h : Nat) (a : Access) (d : OutDest) (x : Nat) (op : AmoOp) (v : W64) : State :=
  let peg := isPegAddr x
  if (if peg then !amoPegOk op a.size (x % 64) else x % a.size != 0 && !isMmioAddr x) then s.fault h 7 a.addr
  else
    let s := s.pushOut h
    if !s.settled h true then s.waitFor h .acks
    else
      let q := hartRequest h d x (if peg then 5 else 4) { a with signed := true }
      s.askOutside h { q with data := leBytes a.size v.toNat, aux := if peg then (if op = .add then 2 else 3) ||| placeAux h else amoAux op a.size }

/-! The control and status registers and the trap returns have no command of their own: they are AMOs past the address space, at
2^64 + n for register n (swap CSRRW, or CSRRS, and CSRRC of the bits that are 0), 2^64 + 4096 MRET, 2^64 + 4097 SRET, and
2^64 + 2^20 + p the root page of process ID p, which software gives the IOMMU (the model's encoding). -/

/-- The first such address. -/
def csrBase : Nat := 2 ^ 64

/-- An access to a control and status register (Zicsr), an illegal instruction where the hart may not make it. -/
def hartCsr (s : State) (h n : Nat) (op : AmoOp) (v : W64) : State :=
  let write := op == .swap || (op == .or && v != 0) || (op == .and && v != BitVec.allOnes 64)
  if !(op == .swap || op == .or || op == .and) ∨ !s.csrLegal h n write then s.fault h 2 0
  else
    let old := s.csrRead h n
    let s := if write then s.csrWrite h n (match op with | .swap => v | .or => old ||| v | _ => old &&& v) else s
    s.nextFree.retireWith h old

/-- MRET and SRET. -/
def hartXret (s : State) (h : Nat) (m : Bool) : State :=
  let x := s.hart h
  if m then
    if x.priv = .machine then s.setHart h { x.mret (decide (h < 144)) with instret := x.instret + 1 } else s.fault h 2 0
  else if h < 144 ∧ (x.priv = .machine ∨ (x.priv = .supervisor ∧ !bit x.mstatus 22)) then
    s.setHart h { x.sret with instret := x.instret + 1 }
  else s.fault h 2 0

/-- What an AMO past the address space does. -/
def hartSystem (s : State) (h n : Nat) (op : AmoOp) (v : W64) : State :=
  if n < 4096 then s.hartCsr h n op v
  else if n = 4096 then s.hartXret h true
  else if n = 4097 then s.hartXret h false
  else if 2 ^ 20 ≤ n ∧ n < 2 ^ 21 then
    if (s.hart h).priv = .user then s.fault h 2 0
    else
      let old := (s.iommuRoots.find (n - 2 ^ 20)).getD 0
      let roots := if op = .swap then s.iommuRoots.set (n - 2 ^ 20) (bits v 43 0) else s.iommuRoots.erase (n - 2 ^ 20)
      ({ s with iommuRoots := roots } : State).retireWith h (w64 old)
  else s.fault h 2 0

/-- HART_AMO (R221, R257). -/
def hartAmo (s : State) (h : Nat) (a : Access) (op : AmoOp) (v : W64) : State :=
  s.onHart h fun s =>
    if csrBase ≤ a.addr then s.hartSystem h (a.addr - csrBase) op v
    else if s.accessHeld h a then s
    else
      let t := s.targetAt h a.addr a.pbmt true
      match t with
      | .mem m => s.amoMem h a m op v
      | .peg p off => s.amoPeg h a p off op v
      | .home m true => s.amoHome h a m op v
      | .out (.module k) x nc => if nc ∧ !isPegAddr x then s.fault h 7 a.addr else s.amoOut h a (.module k) x op v
      | t => s.refuse h 7 a.addr t

/-- HART_LR (R255). -/
def hartLr (s : State) (h : Nat) (a : Access) : State :=
  s.onHart h fun s =>
    if s.accessHeld h a then s
    else match s.targetAt h a.addr a.pbmt false with
    | .mem m => s.atomicMem h a m 4 fun s c =>
        let s := s.endReservation h
        let s1 : State := { s with reserved := s.reserved.set h (m / 128, true) }
        s1.retireWith h (extend true a.size (c.line.get (m % 128) a.size))
    | t => s.refuse h 5 a.addr t

/-- HART_SC (R255, R256, R293): the result is 0 for a success and 1 for a failure. -/
def hartSc (s : State) (h : Nat) (a : Access) (v : W64) : State :=
  s.onHart h fun s =>
    if s.accessHeld h a then s
    else match s.targetAt h a.addr a.pbmt true with
    | .mem m =>
      if crosses16 a then s.fault h 6 a.addr
      else
        let s := s.pushOut h
        if !s.settled h true then s.waitFor h .acks
        else if s.lostLine (m / 128) then (s.dropLost h (m / 128)).hartPoison h 7 m a.addr
        else
          let l := match s.cacheOf h (m / 128) with | some c => c.line | none => s.peekLine (m / 128)
          match l.badWord (m % 128) a.size with
          | some o => s.hartPoison h 7 (m / 128 * 128 + o) a.addr
          | none =>
            let held := (s.reserved.find h).any (fun x => x.1 == m / 128)
            let s := s.endReservation h
            match s.ownedLine h (m / 128) with
            | some c =>
              if held then (s.setCache h (m / 128) (some ⟨.modified, c.line.put (m % 128) a.size v.toNat⟩)).retireWith h 0
              else s.retireWith h 1
            | none => s.retireWith h 1
    | t => s.refuse h 7 a.addr t

/-- 256 hart cycles after an LR the deferral of snoops ends (R256). -/
def reservationExpire (s : State) (h : Nat) : State :=
  match s.reserved.find h with
  | some (n, _) => { s with reserved := s.reserved.set h (n, false) }.endDeferral h
  | none => s

/-! ### Fences and WFI -/

/-- What a FENCE waits for (R248): its own stores with W before it (or TSO), the drain with W in either set, and every
acknowledgement with O before it. -/
def fenceReady (s : State) (h : Nat) (pred succ : FenceSet) (tso : Bool) : Bool :=
  ((!pred.w && !tso) || ((s.hart h).stores == [] && (s.hart h).combine.isNone)) &&
    ((!pred.w && !succ.w && !tso) || s.wcDrained h) && (!pred.o || !s.unacked h)

/-- HART_FENCE (R151, R248): an interrupt that the hart can take while it waits is taken first (R275). -/
def hartFence (s : State) (h : Nat) (pred succ : FenceSet) (tso : Bool) : State :=
  s.onHart h fun s =>
    if (s.hart h).wait = .acks ∧ (s.takeable h).isSome then s
    else
      let s := s.leaveStreaming h
      let s := if pred.w || tso then s.drainStores h (s.hart h).stores.length else s
      let s := if pred.w || succ.w || tso then s.wcFlush h fun _ => true else s
      if s.fenceReady h pred succ tso then s.retire h else s.waitFor h .acks

/-- FENCE.I (R148, R251, R277): the hart's instruction cache holds nothing. -/
def fenceI (s : State) (h : Nat) : State :=
  s.onHart h fun s =>
    let s := s.pushOut h
    if s.settled h false then ({ s with icache := s.icache.filter fun x => x.1.1 != h } : State).retire h else s.waitFor h .acks

/-- WFI drains the write-combining buffer and gates the hart until a wake (R151, R251). -/
def hartWfi (s : State) (h : Nat) : State :=
  s.onHart h fun s =>
    let s := s.wcFlush h fun _ => true
    if !s.wcDrained h then s.waitFor h .acks
    else if s.wakes h then s.retire h
    else (s.updHart h fun x => { x with wfi := true }).retire h

/-- An entry untouched for 256 hart cycles is written out (R251). -/
def wcWriteout (s : State) (h line : Nat) : State := (s.wcFlush h fun e => e.line == line).trapEnter h

/-- A push of the sequencer of block `b`.  One that was on its way when the block left RUNNING is performed once the sequencer's earlier
stores are and its write-combining buffer has drained (R249, R251), and handled as R186 says. -/
def cmdPush (s : State) (b : Nat) (v : W64) : State :=
  let h := 144 + b
  if s.hartReady h then s.stagingPush h v
  else
    let s := s.pushOut h
    if s.settled h false then s.pushCmd b v else s

/-! ### Peg rows -/

/-- A release by a hart waits for its earlier accesses (R224). -/
def pegRelease (s : State) (a : Agent) (p sc : Nat) (v : W64) : State :=
  match a.hart with
  | some h =>
    let s := s.pushOut h
    if s.releaseReady h sc then s.pegRelAdd a p sc v else s
  | none => s.pegRelAdd a p sc v

/-- An acquire read: the value, a fault in strict scope mode, or poison (R225, R228, R240). -/
def pegAcqRead (s : State) (a : Agent) (p sc : Nat) : State :=
  if !s.regionLive (pegHome p) then
    match a.hart with
    | some h => s.hartPoison h 5 (pegAddr p (0x10 + 8 * sc)) (pegAddr p (0x10 + 8 * sc))
    | none => s
  else
    let (s', bad) := s.pegAcquire a p sc
    match a.hart, bad with
    | some h, true => s'.fault h 5 (pegAddr p (0x10 + 8 * sc))
    | _, true => s'
    | _, false => s'.deliver a (s.peg p).value

/-- An AMOSWAP of the CAS view: the value read goes to the agent (R222), poison where the home is lost (R240). -/
def pegCasAmo (s : State) (a : Agent) (p : Nat) (v : W64) : State :=
  if !s.regionLive (pegHome p) then
    match a.hart with
    | some h => s.hartPoison h 7 (pegAddr p 0x30) (pegAddr p 0x30)
    | none => s
  else (s.pegCas a p v).deliver a (s.pegCasResult a p)

/-- An access to peg space that is no peg operation (R221): the hart's exception. -/
def pegAccessFault (s : State) (a : Agent) (addr size : Nat) (write amo : Bool) : State :=
  match a.hart with
  | some h =>
    if isPegAddr addr ∧ (amo ∨ size ≠ 8 ∨ addr % 8 ≠ 0) ∧ s.hartReady h then s.fault h (if write || amo then 7 else 5) addr else s
  | none => s

end State
end Sys2Proof.Machine
end

