-- ==== Sys2Proof/Machine/Layout.lean ====
section
/-!
DEFINITION. The layout engine (R171 to R173) and the sort/top-K engine (R179, R180).
-/
namespace Sys2Proof.Machine

/-- LY_PAD's pads: left, right, top, bottom (Table 4.10). -/
def Cmd.pads (c : Cmd) : Nat × Nat × Nat × Nat :=
  (c.param % 2 ^ 16, c.param / 2 ^ 16 % 2 ^ 16, c.param / 2 ^ 32 % 2 ^ 16, c.param / 2 ^ 48)

/-- Output rows and elements per output row of a layout command. -/
def Cmd.lyOut (c : Cmd) : Nat × Nat :=
  match c.opcode with
  | 0x60 => (c.n, c.nRows)
  -- with ROWS = 0 no row is written and with N = 0 no element, pads or not (Table 4.14)
  | 0x62 => (if c.nRows = 0 then 0 else c.nRows + c.pads.2.2.1 + c.pads.2.2.2, if c.n = 0 then 0 else c.n + c.pads.1 + c.pads.2.1)
  | _ => (c.nRows, c.n)

/-- Bytes of the output rows and their pitch. -/
def Cmd.lyFmt (c : Cmd) : Nat := if c.opcode = 0x63 then c.fmtOut else c.fmtA
def Cmd.lyRow (c : Cmd) : Nat := rowBytes c.lyFmt c.lyOut.2
def Cmd.lyPitch (c : Cmd) : Nat := pitchOr c.dstPitch c.lyRow

/-- Source row bytes and pitch. -/
def Cmd.lySrc (c : Cmd) : Nat := rowBytes c.fmtA c.n
def Cmd.lySrcPitch (c : Cmd) : Nat := pitchOr c.srcPitch c.lySrc

/-- The formats of Table 2.1 that hold elements in a block store row, RAW apart. -/
def elemFmt (f : Nat) : Bool := decide (f ≤ 0x10)

/-- Two extents of rows overlap. -/
def extentsMeet (a na pa la d nd pd ld : Nat) : Bool :=
  decide (0 < na ∧ 0 < la ∧ 0 < nd ∧ 0 < ld) && decide (a < d + (nd - 1) * pd + ld ∧ d < a + (na - 1) * pa + la)

/-- Acceptance of the layout operations (R165, R171, R172, R181, Table 4.10).  LY_COPY2D and LY_PAD, for which the table lists no formats,
take those that hold elements: RAW is refused (DESIGN CHOICE, log 167). -/
def checkLayout (_ : State) (_ : Nat) (c : Cmd) : Nat :=
  let op := c.opcode
  let (orows, _) := c.lyOut
  let mx := op == 0x63 && isMx c.fmtA
  let sc := ceilDiv c.n 32
  firstCode [
    (c.rsv47 || c.func != 0 || (!mx && (c.srcB != 0 || c.srcBPitch != 0)) || (op != 0x63 && (c.sr || c.sat)) ||
      ((op == 0x60 || op == 0x61) && c.param != 0) || (op == 0x61 && c.fmtOut != 0) || (mx && decide (c.n % 32 ≠ 0)) || pitchBad c.srcPitch c.lySrc ||
      pitchBad c.dstPitch c.lyRow || (mx && pitchBad c.srcBPitch sc) || rowsOut c.srcA c.nRows c.lySrcPitch c.lySrc ||
      rowsOut c.dst orows c.lyPitch c.lyRow || (mx && rowsOut c.srcB c.nRows (pitchOr c.srcBPitch sc) sc) ||
      (op == 0x61 && extentsMeet c.srcA c.nRows c.lySrcPitch c.lySrc c.dst orows c.lyPitch c.lyRow), stRANGE),
    (decide (c.srcA % 64 ≠ 0 ∨ c.dst % 64 ≠ 0) || (mx && decide (c.srcB % 64 ≠ 0)), stALIGN),
    (if op = 0x63 then !elemFmt c.fmtA || !(elemFmt c.fmtOut && !isMx c.fmtOut)
      else !elemFmt c.fmtA || (op != 0x61 && c.fmtOut != c.fmtA) ||
        (op == 0x60 && fmtWidth c.fmtA != 8 && fmtWidth c.fmtA != 16 && fmtWidth c.fmtA != 32), stFORMAT)]

/-- An element converted by LY_CONVERT; an MX element has its block's scale (R53, R173). -/
def convertElem (c : Cmd) (row e w scale : Nat) : Nat :=
  let v := if isMx c.fmtA then
      (if scale = 0xFF then .nan else match decodeFmt c.fmtA w with
        | .fin n m x => .fin n m (x + scale - 127)
        | o => o)
    else decodeFmt c.fmtA w
  roundFmt c.fmtOut (c.rnd true c.param row e) c.sat v

namespace State

/-- The source ranges that output row `i` of a layout command reads. -/
def lyRanges (c : Cmd) (i : Nat) : List (Nat × Nat) :=
  match c.opcode with
  | 0x60 => (List.range c.nRows).map fun r => (c.srcA + r * c.lySrcPitch + i * fmtBytes c.fmtA, fmtBytes c.fmtA)
  | 0x62 => if c.pads.2.2.1 ≤ i ∧ i < c.pads.2.2.1 + c.nRows then [(c.srcA + (i - c.pads.2.2.1) * c.lySrcPitch, c.lySrc)] else []
  | 0x63 => (c.srcA + i * c.lySrcPitch, c.lySrc) ::
      (if isMx c.fmtA then [(c.srcB + i * pitchOr c.srcBPitch (ceilDiv c.n 32), ceilDiv c.n 32)] else [])
  | _ => [(c.srcA + i * c.lySrcPitch, c.lySrc)]

/-- The elements of output row `i`. -/
def lyElems (s : State) (b : Nat) (c : Cmd) (i : Nat) : List Nat :=
  let row (r : Nat) : List Nat := s.storeRow b (c.srcA + r * c.lySrcPitch) c.fmtA c.n
  match c.opcode with
  | 0x60 => (List.range c.nRows).map fun r => s.elemAt b (c.srcA + r * c.lySrcPitch) c.fmtA i
  | 0x62 =>
    let (l, r, t, _) := c.pads
    if t ≤ i ∧ i < t + c.nRows then List.replicate l c.aux ++ row (i - t) ++ List.replicate r c.aux
    else List.replicate (l + c.n + r) c.aux
  | 0x63 => (row i).mapIdx fun e w => convertElem c i e w
      (if isMx c.fmtA then s.storeNat b (c.srcB + i * pitchOr c.srcBPitch (ceilDiv c.n 32) + e / 32) 1 else 0)
  | _ => row i

/-- One output row (R171, R183). -/
def lyRowStep (s : State) (b : Nat) (r : Run) : State × Run :=
  let c := r.cmd
  match s.rangesPoison b (lyRanges c r.count) with
  | some p => s.poisonStop b r p
  | none => (s.storeWrite b (c.dst + r.count * c.lyPitch) (packRow c.lyFmt (s.lyElems b c r.count)), { r with count := r.count + 1 })

/-- LY_TRANSPOSE, LY_COPY2D, LY_PAD and LY_CONVERT: `n` output rows. -/
def layoutStep (s : State) (b op n : Nat) : State :=
  s.engineStep b 2 op n checkLayout fun s b r n =>
    workUnits (fun s r => s.lyRowStep b r) (if r.cmd.lyOut.2 = 0 then 0 else r.cmd.lyOut.1) n s r

end State

/-! ### Sort and top-K -/

/-- `a` comes before `b` in key order, or has an equal key and the lower index (R179). -/
def keyBefore (f : Nat) (desc : Bool) (a b : Nat × Nat) : Bool :=
  match decodeFmt f a.1, decodeFmt f b.1 with
  | .nan, .nan => decide (a.2 ≤ b.2)
  | .nan, _ => false
  | _, .nan => true
  | x, y => if x.lt y then !desc else if y.lt x then desc else decide (a.2 ≤ b.2)

/-- Insertion by key order. -/
def insertKey (f : Nat) (desc : Bool) (x : Nat × Nat) : List (Nat × Nat) → List (Nat × Nat)
  | [] => [x]
  | y :: ys => if keyBefore f desc x y then x :: y :: ys else y :: insertKey f desc x ys

def sortKeys (f : Nat) (desc : Bool) (l : List (Nat × Nat)) : List (Nat × Nat) := l.foldr (insertKey f desc) []

/-- The sentinel key of R180. -/
def sentinel (f : Nat) (desc : Bool) : Nat :=
  match f, desc with
  | 0x00, false => 0x7F800000
  | 0x00, true => 0xFF800000
  | 0x01, false => 0x7F80
  | 0x01, true => 0xFF80
  | 0x02, false => 0x7C00
  | 0x02, true => 0xFC00
  | 0x08, false => 0x7F
  | 0x08, true => 0x80
  | _, false => 0x7FFFFFFF
  | _, true => 0x80000000

def Cmd.topK (c : Cmd) : Nat := c.param % 2 ^ 11
def Cmd.indexBase (c : Cmd) : Nat := c.param / 2 ^ 32
def Cmd.desc (c : Cmd) : Bool := c.func.testBit 0

/-- Entries of one output row: N for a sort, K for a top-K. -/
def Cmd.outKeys (c : Cmd) : Nat := if c.opcode = 0x78 then c.n else c.topK

/-- Acceptance of SK_SORT and SK_TOPK (R179 to R182). -/
def checkSort (_ : State) (_ : Nat) (c : Cmd) : Nat :=
  let rs := rowBytes c.fmtA c.n
  let k := c.outKeys
  let rk := rowBytes c.fmtA k
  let sort := c.opcode == 0x78
  firstCode [
    (c.rsv47 || decide ((if sort then 1 else 3) < c.func) || c.srcB != 0 || c.srcBPitch != 0 || c.fmtOut != 0 || c.sr || c.sat ||
      (if sort then c.param % 2 ^ 32 != 0 || decide (65536 < c.n) else c.param % 2 ^ 32 / 2 ^ 11 != 0 || decide (1024 < c.topK)) ||
      decide (2 ^ 32 < c.indexBase + c.n) || pitchBad c.srcPitch rs || pitchBad c.dstPitch rk ||
      pitchBad c.dstPitch (k * 4) || rowsOut c.srcA c.nRows (pitchOr c.srcPitch rs) rs ||
      rowsOut c.dst c.nRows (pitchOr c.dstPitch rk) rk || rowsOut c.aux c.nRows (pitchOr c.dstPitch (k * 4)) (k * 4),
      stRANGE),
    (decide (c.srcA % 64 ≠ 0 ∨ c.dst % 64 ≠ 0 ∨ c.aux % 64 ≠ 0), stALIGN),
    (!(decide (c.fmtA ≤ 2) || c.fmtA == 0x08 || c.fmtA == 0x10), stFORMAT)]

namespace State

/-- One row of SK_SORT or SK_TOPK (R179, R180, R183).  A NaN key goes to DST with its own bits (DESIGN CHOICE, log 119). -/
def skRow (s : State) (b : Nat) (r : Run) : State × Run :=
  let c := r.cmd
  let row := r.count
  let z := fmtBytes c.fmtA
  let k := c.outKeys
  let off := c.srcA + row * pitchOr c.srcPitch (c.n * z)
  let dst := c.dst + row * pitchOr c.dstPitch (k * z)
  let aux := c.aux + row * pitchOr c.dstPitch (k * 4)
  let merge := c.opcode == 0x79 && c.func.testBit 1
  match s.rangesPoison b ((off, c.n * z) :: if merge then [(dst, k * z), (aux, k * 4)] else []) with
  | some p => s.poisonStop b r p
  | none =>
    let keys := (List.range c.n).map fun e => (s.elemAt b off c.fmtA e, c.indexBase + e)
    let old := if merge then (List.range k).map fun i => (s.elemAt b dst c.fmtA i, s.storeNat b (aux + 4 * i) 4) else []
    let out :=
      if c.opcode = 0x78 then sortKeys c.fmtA c.desc keys
      else
        let cand := (old ++ keys).filter fun x => decodeFmt c.fmtA x.1 != .nan
        let best := (sortKeys c.fmtA c.desc cand).take k
        best ++ List.replicate (k - best.length) (sentinel c.fmtA c.desc, 0xFFFFFFFF)
    let s := s.storeWrite b dst (out.flatMap fun x => leBytes z x.1)
    let s := s.storeWrite b aux (out.flatMap fun x => leBytes 4 x.2)
    (s, { r with count := row + 1 })

/-- SK_SORT and SK_TOPK: `n` rows. -/
def sortStep (s : State) (b op n : Nat) : State :=
  s.engineStep b 4 op n checkSort fun s b r n =>
    workUnits (fun s r => s.skRow b r) (if r.cmd.outKeys = 0 then 0 else r.cmd.nRows) n s r

end State

end Sys2Proof.Machine
end

