-- ==== Sys2Proof/Machine/CmdBlock.lean ====
section
/-!
DEFINITION. The meanings of the commands of the block: its queues, engines, states and registers (chapter 4): each names the operation that carries it out.
-/
namespace Sys2Proof.Machine

/-- CMD_PUSH: R152 to R154, R249, R481. -/
def execCmdPush (b : Nat) (v : W64) (s : State) : Host.Outcome State Fault Refusal :=
  railed (okB b) s fun s => s.cmdPush b v

/-- SPILL_REFILL: R154. -/
def execSpillRefill (b e : Nat) (s : State) : Host.Outcome State Fault Refusal :=
  railed (okB b && okEngine e) s fun s => s.refill b e

/-- TOKEN_WAIT_END: R158, R159. -/
def execTokenWaitEnd (b e : Nat) (s : State) : Host.Outcome State Fault Refusal :=
  railed (okB b && okEngine e) s fun s => s.tokenWaitEnd b e

/-- BLK_TOKEN_ERR_CLEAR: R160. -/
def execBlkTokenErrClear (ag : Agent) (b : Nat) (v : W64) (s : State) : Host.Outcome State Fault Refusal :=
  railed (ag.wf && okB b) s fun s => s.tokenErrClear b v

/-- BLK_CPL_CTRL_WRITE: R163, R188. -/
def execBlkCplCtrlWrite (ag : Agent) (b : Nat) (v : W64) (s : State) : Host.Outcome State Fault Refusal :=
  railed (ag.wf && okB b) s fun s => s.cplCtrlWrite ag b v

/-- BLK_CPL_HEAD_WRITE: R190. -/
def execBlkCplHeadWrite (ag : Agent) (b : Nat) (v : W64) (s : State) : Host.Outcome State Fault Refusal :=
  railed (ag.wf && okB b) s fun s => s.cplHeadWrite ag b v

/-- COMPLETION_WRITE: R159, R161 to R164, R182, R183. -/
def execCompletionWrite (b e : Nat) (s : State) : Host.Outcome State Fault Refusal :=
  railed (okB b && okEngine e) s fun s => s.completionWrite b e

/-- VE_BINARY: R165 to R167, R170; `n` elements. -/
def execVeBinary (b n : Nat) (err : Option ResidueError) (s : State) : Host.Outcome State Fault Refusal :=
  railed (okB b) s fun s => s.noted (s.vecStep b 0x40 n err)

/-- VE_UNARY: R166, R544; `n` elements. -/
def execVeUnary (b n : Nat) (s : State) : Host.Outcome State Fault Refusal :=
  railed (okB b) s fun s => s.vecStep b 0x41 n none

/-- VE_FMA: R166, R170; `n` elements. -/
def execVeFma (b n : Nat) (err : Option ResidueError) (s : State) : Host.Outcome State Fault Refusal :=
  railed (okB b) s fun s => s.noted (s.vecStep b 0x42 n err)

/-- VE_REDUCE: R167, R168, R170; `n` rows. -/
def execVeReduce (b n : Nat) (err : Option ResidueError) (s : State) : Host.Outcome State Fault Refusal :=
  railed (okB b) s fun s => s.noted (s.vecReduce b n err)

/-- VE_QUANT_MX: R169; `n` blocks of 32. -/
def execVeQuantMx (b n : Nat) (s : State) : Host.Outcome State Fault Refusal :=
  railed (okB b) s fun s => s.vecQuant b n

/-- VE_RAW_COMBINE: R78, R79, R86; `n` records. -/
def execVeRawCombine (b n : Nat) (err : Option ResidueError) (s : State) : Host.Outcome State Fault Refusal :=
  railed (okB b) s fun s => s.noted (s.vecRaw b n err)

/-- LY_TRANSPOSE: R171, R172; `n` output rows. -/
def execLyTranspose (b n : Nat) (s : State) : Host.Outcome State Fault Refusal :=
  railed (okB b) s fun s => s.layoutStep b 0x60 n

/-- LY_COPY2D: R171; `n` output rows. -/
def execLyCopy2d (b n : Nat) (s : State) : Host.Outcome State Fault Refusal :=
  railed (okB b) s fun s => s.layoutStep b 0x61 n

/-- LY_PAD: R171, R172; `n` output rows. -/
def execLyPad (b n : Nat) (s : State) : Host.Outcome State Fault Refusal :=
  railed (okB b) s fun s => s.layoutStep b 0x62 n

/-- LY_CONVERT: R171 to R173; `n` output rows. -/
def execLyConvert (b n : Nat) (s : State) : Host.Outcome State Fault Refusal :=
  railed (okB b) s fun s => s.layoutStep b 0x63 n

/-- GS_GATHER: R175 to R178, R326 to R328; `n` rows. -/
def execGsGather (b n : Nat) (s : State) : Host.Outcome State Fault Refusal :=
  railed (okB b) s fun s => s.gsStep b 0x70 n

/-- GS_SCATTER: R175 to R177; `n` rows. -/
def execGsScatter (b n : Nat) (s : State) : Host.Outcome State Fault Refusal :=
  railed (okB b) s fun s => s.gsStep b 0x71 n

/-- GS_LOAD: R175, R177, R178, R326 to R328; `n` rows. -/
def execGsLoad (b n : Nat) (s : State) : Host.Outcome State Fault Refusal :=
  railed (okB b) s fun s => s.gsStep b 0x72 n

/-- GS_STORE: R175, R177; `n` rows. -/
def execGsStore (b n : Nat) (s : State) : Host.Outcome State Fault Refusal :=
  railed (okB b) s fun s => s.gsStep b 0x73 n

/-- SK_SORT: R179; `n` rows. -/
def execSkSort (b n : Nat) (s : State) : Host.Outcome State Fault Refusal :=
  railed (okB b) s fun s => s.sortStep b 0x78 n

/-- SK_TOPK: R180; `n` rows. -/
def execSkTopk (b n : Nat) (s : State) : Host.Outcome State Fault Refusal :=
  railed (okB b) s fun s => s.sortStep b 0x79 n

/-- BLK_START: R184, R189. -/
def execBlkStart (ag : Agent) (b : Nat) (s : State) : Host.Outcome State Fault Refusal :=
  railed (ag.wf && okB b) s fun s => s.blkStart ag b

/-- BLK_HALT: R184, R189. -/
def execBlkHalt (ag : Agent) (b : Nat) (s : State) : Host.Outcome State Fault Refusal :=
  railed (ag.wf && okB b) s fun s => s.blkHalt ag b

/-- BLK_RESET: R185, R239. -/
def execBlkReset (ag : Agent) (b : Nat) (s : State) : Host.Outcome State Fault Refusal :=
  railed (ag.wf && okB b) s fun s => s.blkReset ag b

/-- BLOCK_RESET_RELEASE: R148, R185. -/
def execBlockResetRelease (b : Nat) (s : State) : Host.Outcome State Fault Refusal :=
  railed (okB b) s fun s => s.blockRelease b

/-- SEQ_DOUBLE_TRAP: R146. -/
def execSeqDoubleTrap (b : Nat) (s : State) : Host.Outcome State Fault Refusal :=
  railed (okB b) s fun s => s.doubleTrap b

/-- BLOCK_MUTE: R186, R239. -/
def execBlockMute (b cause : Nat) (s : State) : Host.Outcome State Fault Refusal :=
  railed (okB b) s fun s => s.noted (s.muteBlock b cause)

/-- BLK_COUNT_CLEAR: R190. -/
def execBlkCountClear (ag : Agent) (b : Nat) (v : W64) (s : State) : Host.Outcome State Fault Refusal :=
  railed (ag.wf && okB b) s fun s => s.countClear v (State.blkCounters b)

/-- BLK_ASYNC_ERR_CLEAR: R191. -/
def execBlkAsyncErrClear (ag : Agent) (b : Nat) (v : W64) (s : State) : Host.Outcome State Fault Refusal :=
  railed (ag.wf && okB b) s fun s => s.asyncClear (144 + b) v

end Sys2Proof.Machine
end

