-- ==== Sys2Proof/Machine/CmdChaind.lean ====
section
/-!
DEFINITION. The meanings of the commands of Chaind links, discovery and routing, and the requests of other modules (chapters 7 and 10): each names the operation that carries it out.
-/
namespace Sys2Proof.Machine

/-- PORT_ENABLE: R368, Table 10.8. -/
def execPortEnable (ag : Agent) (k : Nat) (s : State) : Host.Outcome State Fault Refusal :=
  railed (ag.wf && okPort k) s fun s => if (s.port k).enabled then s else s.portEnable k

/-- PORT_DISABLE: R342, R368. -/
def execPortDisable (ag : Agent) (k : Nat) (s : State) : Host.Outcome State Fault Refusal :=
  railed (ag.wf && okPort k) s fun s => if (s.port k).enabled then s.noted (s.portDisable k) else s

/-- RETRAIN: R338, R368. -/
def execRetrain (ag : Agent) (k : Nat) (s : State) : Host.Outcome State Fault Refusal :=
  railed (ag.wf && okPort k) s fun s => s.noted (s.retrainPort ag k)

/-- TRAINING_ATTEMPT_END: R335 to R339, R347, R368. -/
def execTrainingAttemptEnd (k txGood rxGood : Nat) (reversed : Bool) (inverted : Nat) (peer : Option (Nat × Nat))
    (missing : Nat) (s : State) : Host.Outcome State Fault Refusal :=
  railed (okPort k) s fun s => s.attemptEnd k txGood rxGood reversed inverted peer missing

/-- FLIT_RECEIVE: R340, R341, R343. -/
def execFlitReceive (k : Nat) (f : Flit) (s : State) : Host.Outcome State Fault Refusal :=
  railed (okPort k) s fun s => s.noted (s.flitReceive k f)

/-- RETRY_REQ: R341. -/
def execRetryReq (k seq : Nat) (s : State) : Host.Outcome State Fault Refusal :=
  railed (okPort k) s fun s => s.noted (s.retryAsked k seq)

/-- RETRY_REQ_REPEAT: R341. -/
def execRetryReqRepeat (k : Nat) (s : State) : Host.Outcome State Fault Refusal :=
  railed (okPort k) s fun s => s.noted (s.retryRepeat k)

/-- LINK_FAILURE: R270, R342, R367, R374. -/
def execLinkFailure (k : Nat) (s : State) : Host.Outcome State Fault Refusal :=
  railed (okPort k) s fun s => s.noted (s.linkFailure k)

/-- HELLO: R347 to R349, R353, R368. -/
def execHello (k : Nat) (h : Hello) (s : State) : Host.Outcome State Fault Refusal :=
  railed (okPort k) s fun s => s.noted (s.helloReceive k h)

/-- ELECT: R349. -/
def execElect (k : Nat) (key : LeaderKey) (hops : Nat) (s : State) : Host.Outcome State Fault Refusal :=
  railed (okPort k) s fun s => s.noted (s.learnKey k key hops)

/-- REPORT_TIMER: R350. -/
def execReportTimer (s : State) : Host.Outcome State Fault Refusal :=
  railed true s fun s => s.reportTimer

/-- REPORT: R350. -/
def execReport (k : Nat) (rep : Report) (s : State) : Host.Outcome State Fault Refusal :=
  railed (okPort k) s fun s => s.reportReceive k rep

/-- FABRIC_SETTLE: R350 to R352, R357, R377. -/
def execFabricSettle (s : State) : Host.Outcome State Fault Refusal :=
  railed true s fun s => s.noted s.fabricSettle

/-- MAP: R350, R353, R360, R366. -/
def execMap (k : Nat) (m : MapSegment) (s : State) : Host.Outcome State Fault Refusal :=
  railed (okPort k) s fun s => s.noted (s.mapReceive m)

/-- BEAT: R354. -/
def execBeat (k : Nat) (m : Beat) (s : State) : Host.Outcome State Fault Refusal :=
  railed (okPort k) s fun s => s.beatReceive m

/-- BEAT_SEND: R354. -/
def execBeatSend (s : State) : Host.Outcome State Fault Refusal :=
  railed true s fun s => s.beatSend

/-- LEADER_LOST: R354, R374. -/
def execLeaderLost (s : State) : Host.Outcome State Fault Refusal :=
  railed true s fun s => s.noted s.leaderLost

/-- JOIN: R351 to R353. -/
def execJoin (k : Nat) (rep : Report) (s : State) : Host.Outcome State Fault Refusal :=
  railed (okPort k) s fun s => s.noted (s.joinReceive k rep)

/-- PORT_EVENT: R365. -/
def execPortEvent (serial port oldState newState : Nat) (s : State) : Host.Outcome State Fault Refusal :=
  railed true s fun s => s.noted (s.portEventReceive serial port oldState newState)

/-- PORT_DOWN_TIMEOUT: R365. -/
def execPortDownTimeout (k : Nat) (s : State) : Host.Outcome State Fault Refusal :=
  railed (okPort k) s fun s => s.noted (s.portDownTimeout k)

/-- ROUTE_SWITCH: R364, R366, R374. -/
def execRouteSwitch (s : State) : Host.Outcome State Fault Refusal :=
  railed true s fun s => s.noted s.routeSwitchHere

/-- FABRIC_PACKET_ARRIVE: R344 to R346, R358, R359, R361, R362, R364, R370. -/
def execFabricPacketArrive (k : Nat) (p : Packet) (s : State) : Host.Outcome State Fault Refusal :=
  railed (okPort k) s fun s => s.packetArrive k p

/-- FABRIC_READ: R265. -/
def execFabricRead (p : Packet) (s : State) : Host.Outcome State Fault Refusal :=
  railed true s fun s => s.fabricRead p

/-- FABRIC_WRITE: R265. -/
def execFabricWrite (p : Packet) (s : State) : Host.Outcome State Fault Refusal :=
  railed true s fun s => s.fabricWrite p

/-- MASKED_WRITE: R265, R345. -/
def execMaskedWrite (p : Packet) (s : State) : Host.Outcome State Fault Refusal :=
  railed true s fun s => s.fabricMasked p

/-- ATOMIC: R257, R265. -/
def execAtomic (p : Packet) (s : State) : Host.Outcome State Fault Refusal :=
  railed true s fun s => s.fabricAtomic p

/-- PEG_OP: R222, R268. -/
def execPegOp (p : Packet) (s : State) : Host.Outcome State Fault Refusal :=
  railed true s fun s => s.fabricPegOp p

/-- READ_DATA: R266. -/
def execReadData (tag : ReqTag) (status : Nat) (data : List Byte) (s : State) : Host.Outcome State Fault Refusal :=
  railed true s fun s => s.fabricAnswer tag status data false

/-- WRITE_ACK: R248, R267, R268, R275. -/
def execWriteAck (tag : ReqTag) (status : Nat) (s : State) : Host.Outcome State Fault Refusal :=
  railed true s fun s => s.fabricAnswer tag status [] true

/-- ATOMIC_DATA: R257. -/
def execAtomicData (tag : ReqTag) (status : Nat) (v : W64) (s : State) : Host.Outcome State Fault Refusal :=
  railed true s fun s => s.fabricAnswer tag status (leBytes 8 v.toNat) false

/-- ROUTE_LOAD: R332, R362, R363. -/
def execRouteLoad (ag : Agent) (v : W64) (s : State) : Host.Outcome State Fault Refusal :=
  railed ag.wf s fun s => s.routeCtrlWrite ag (v ||| fld 1 17)

/-- FAB_PORT_COUNT_CLEAR: R369. -/
def execFabPortCountClear (ag : Agent) (k : Nat) (v : W64) (s : State) : Host.Outcome State Fault Refusal :=
  railed (ag.wf && okPort k) s fun s => s.countClear v (State.portCounters k)

end Sys2Proof.Machine
end

