-- ==== Sys2Proof/Machine/CmdCoh.lean ====
section
/-!
DEFINITION. The meanings of the commands of coherence (chapter 8): each names the operation that carries it out.
-/
namespace Sys2Proof.Machine

/-- READ_SHARED: R278, R280, R282 to R285, R289. -/
def execReadShared (k line : Nat) (victim : Option Nat) (s : State) : Host.Outcome State Fault Refusal :=
  railed (okH k) s fun s => (s.coreRequest line (.readShared k) victim).settleHarts

/-- READ_UNIQUE: R280, R282 to R285, R289, R318. -/
def execReadUnique (k line : Nat) (victim : Option Nat) (s : State) : Host.Outcome State Fault Refusal :=
  railed (okH k) s fun s => (s.coreRequest line (.readUnique k) victim).settleHarts

/-- UPGRADE: R283, R284, R286, R289, R318. -/
def execUpgrade (k line : Nat) (victim : Option Nat) (s : State) : Host.Outcome State Fault Refusal :=
  railed (okH k) s fun s => (s.coreRequest line (.upgrade k) victim).settleHarts

/-- WRITE_BACK: R278, R281, R284, R287. -/
def execWriteBack (k line : Nat) (s : State) : Host.Outcome State Fault Refusal :=
  railed (okH k) s fun s => (s.evict k line .modified).settleHarts

/-- CLEAN_EVICT: R281, R284, R287. -/
def execCleanEvict (k line : Nat) (s : State) : Host.Outcome State Fault Refusal :=
  railed (okH k) s fun s => (s.evict k line .exclusive).settleHarts

/-- ENGINE_READ: R258, R260, R278, R283 to R285, R289, R321. -/
def execEngineRead (port line : Nat) (s : State) : Host.Outcome State Fault Refusal :=
  railed (okReq port) s fun s => s.request line (.eRead port)

/-- ENGINE_WRITE: R258, R260, R278, R283, R284, R294, R318. -/
def execEngineWrite (port line : Nat) (data : List Byte) (s : State) : Host.Outcome State Fault Refusal :=
  railed (okReq port && data.length == 128) s fun s => s.request line (.eWrite port (BitVec.ofNat 1024 (leNat data)))

/-- ENGINE_MASKED_WRITE: R258, R284, R294. -/
def execEngineMaskedWrite (port line : Nat) (data : List Byte) (mask : Nat) (s : State) : Host.Outcome State Fault
    Refusal :=
  railed (okReq port && data.length == 128) s fun s =>
    s.request line (.eMasked port (BitVec.ofNat 1024 (leNat data)) (BitVec.ofNat 128 mask))

/-- ENGINE_ATOMIC: R284, R318. -/
def execEngineAtomic (port line off size : Nat) (op : AtomOp) (v : W64) (s : State) : Host.Outcome State Fault Refusal
    :=
  railed (okReq port && okWide size && off % size == 0 && decide (off < 128)) s fun s =>
    s.request line (.eAtomic port off size op v)

/-- SNOOP: R150, R256, R277, R281, R287, R288. -/
def execSnoop (k line : Nat) (s : State) : Host.Outcome State Fault Refusal :=
  railed (okH k) s fun s => (s.snoop k line).settleHarts

/-- HOME_TRANSACTION_COMPLETE: R284. -/
def execHomeTransactionComplete (line : Nat) (s : State) : Host.Outcome State Fault Refusal :=
  railed true s fun s => (s.homeComplete line).settleHarts

/-- GRANT: R290, R291. -/
def execGrant (r req : Nat) (s : State) : Host.Outcome State Fault Refusal :=
  railed (okR r && okReq req) s fun s => (s.grant r req).settleHarts

/-- SCRUB_DONE: R295. -/
def execScrubDone (r : Nat) (s : State) : Host.Outcome State Fault Refusal :=
  railed (okR r) s fun s => s.scrubDone r

/-- INVALIDATION_DONE: R297. -/
def execInvalidationDone (r : Nat) (s : State) : Host.Outcome State Fault Refusal :=
  railed (okR r) s fun s => s.invalidationDone r

/-- MGMT_COH_COUNT_CLEAR: R298. -/
def execMgmtCohCountClear (ag : Agent) (r : Nat) (v : W64) (s : State) : Host.Outcome State Fault Refusal :=
  railed (ag.wf && okR r) s fun s => s.countClear v (State.cohCounters r)

end Sys2Proof.Machine
end

