-- ==== Sys2Proof/Machine/CmdDegraded.lean ====
section
/-!
DEFINITION. The meanings of the commands of silent errors and degraded operation (chapter 15): each names the operation that carries it out.
-/
namespace Sys2Proof.Machine

/-- XCHK_DONE: R481 to R483. -/
def execXchkDone (a b da db : Nat) (third : Option (Nat × Nat)) (s : State) : Host.Outcome State Fault Refusal :=
  railed (okB a && okB b && a != b && (match third with | some (x, _) => okB x && x != a && x != b | none => true)) s fun s =>
    s.noted (s.xchkDone a b da db third)

/-- XCHK_THIRD_TIMEOUT: R482. -/
def execXchkThirdTimeout (a b : Nat) (s : State) : Host.Outcome State Fault Refusal :=
  railed (okB a && okB b && a != b) s fun s => s.noted (s.xchkTimeout a b)

/-- TUNING_CHECK_END: R484 to R487, R545. -/
def execTuningCheckEnd (b : Nat) (passed : Bool) (s : State) : Host.Outcome State Fault Refusal :=
  railed (okB b) s fun s => s.noted (s.tuningEnd b passed)

/-- BLK_MUTE: R186, R487. -/
def execBlkMute (ag : Agent) (r b : Nat) (s : State) : Host.Outcome State Fault Refusal :=
  railed (ag.wf && okR r && okB b) s fun s => s.noted (s.blkMuteWrite ag r (fld b 0))

/-- BLK_RELEASE: R184, R488. -/
def execBlkRelease (ag : Agent) (r b : Nat) (s : State) : Host.Outcome State Fault Refusal :=
  railed (ag.wf && okR r && okB b) s fun s => s.blkRelease ag r b

/-- MGMT_EVID_RELEASE: R489. -/
def execMgmtEvidRelease (ag : Agent) (r : Nat) (v : W64) (s : State) : Host.Outcome State Fault Refusal :=
  railed (ag.wf && okR r) s fun s => s.evidRelease r v

/-- PACK_RUN: R491. -/
def execPackRun (cls unit : Nat) (s : State) : Host.Outcome State Fault Refusal :=
  railed (decide (cls < 3)) s fun s => s.packRun cls unit

/-- PACK_RESULT: R492. -/
def execPackResult (cls unit : Nat) (passed : Bool) (s : State) : Host.Outcome State Fault Refusal :=
  railed (decide (cls < 3)) s fun s => s.noted (s.packResult cls unit passed)

/-- D2D_FLIT_CRC_ERROR: R24, R493. -/
def execD2dFlitCrcError (link lane : Nat) (s : State) : Host.Outcome State Fault Refusal :=
  railed (okLink link) s fun s => s.flitCrcError link lane

/-- D2D_LANE_MAP_EXCHANGE: R494, R495. -/
def execD2dLaneMapExchange (link : Nat) (m : LaneMap) (s : State) : Host.Outcome State Fault Refusal :=
  railed (okLink link) s fun s => s.noted (s.laneMapExchange link m)

/-- HEARTBEAT: R496. -/
def execHeartbeat (link : Nat) (s : State) : Host.Outcome State Fault Refusal :=
  railed (okLink link) s fun s => s.heartbeat link

/-- DIE_LOST: R30, R184, R187, R239, R295, R496 to R498. -/
def execDieLost (r die reason : Nat) (s : State) : Host.Outcome State Fault Refusal :=
  railed (okR r && okDie die) s fun s => s.noted (s.dieLost r die reason)

/-- REGION_LOST: R21, R22, R239, R296, R303, R438, R498. -/
def execRegionLost (r reason : Nat) (s : State) : Host.Outcome State Fault Refusal :=
  railed (okR r) s fun s => s.noted (s.regionEvent r reason)

/-- REJOIN: R25, R297, R495, R499. -/
def execRejoin (ag : Agent) (r die : Nat) (s : State) : Host.Outcome State Fault Refusal :=
  railed (ag.wf && okR r && okDie die) s fun s => s.rejoin ag r die

/-- REJOIN_DONE: R488, R499. -/
def execRejoinDone (r die : Nat) (s : State) : Host.Outcome State Fault Refusal :=
  railed (okR r && okDie die) s fun s => s.rejoinDone r die

/-- REJOIN_TIMEOUT: R499. -/
def execRejoinTimeout (r die : Nat) (s : State) : Host.Outcome State Fault Refusal :=
  railed (okR r && okDie die) s fun s => s.rejoinTimeout r die

/-- MGMT_ERR_COUNT_CLEAR: R503. -/
def execMgmtErrCountClear (ag : Agent) (r : Nat) (v : W64) (s : State) : Host.Outcome State Fault Refusal :=
  railed (ag.wf && okR r) s fun s => s.countClear v (State.errCounters r)

end Sys2Proof.Machine
end

