-- ==== Sys2Proof/Machine/CmdDma.lean ====
section
/-!
DEFINITION. The meanings of the commands of the region DMA engine (chapter 5): each names the operation that carries it out.
-/
namespace Sys2Proof.Machine

/-- DMA_ENABLE: R197, R217. -/
def execDmaEnable (ag : Agent) (r c : Nat) (s : State) : Host.Outcome State Fault Refusal :=
  railed (ag.wf && okR r && okChan c) s fun s => s.dmaCtrlSet ag r c 1 0

/-- DMA_DISABLE: R217. -/
def execDmaDisable (ag : Agent) (r c : Nat) (s : State) : Host.Outcome State Fault Refusal :=
  railed (ag.wf && okR r && okChan c) s fun s => s.dmaCtrlSet ag r c 0 1

/-- DMA_PAUSE: R211, R214, R216. -/
def execDmaPause (ag : Agent) (r c : Nat) (s : State) : Host.Outcome State Fault Refusal :=
  railed (ag.wf && okR r && okChan c) s fun s => s.dmaCtrlSet ag r c 2 0

/-- DMA_RESUME: R215. -/
def execDmaResume (ag : Agent) (r c : Nat) (s : State) : Host.Outcome State Fault Refusal :=
  railed (ag.wf && okR r && okChan c) s fun s => s.dmaCtrlSet ag r c 0 2

/-- DMA_ABORT: R216 to R218. -/
def execDmaAbort (ag : Agent) (r c : Nat) (s : State) : Host.Outcome State Fault Refusal :=
  railed (ag.wf && okR r && okChan c) s fun s => s.dmaCtrlSet ag r c 4 0

/-- DMA_CLEAR_ERR: R210, R217, R218. -/
def execDmaClearErr (ag : Agent) (r c : Nat) (s : State) : Host.Outcome State Fault Refusal :=
  railed (ag.wf && okR r && okChan c) s fun s => s.dmaCtrlSet ag r c 8 0

/-- DMA_DOORBELL: R212, R213, R216. -/
def execDmaDoorbell (ag : Agent) (r c : Nat) (v : W64) (s : State) : Host.Outcome State Fault Refusal :=
  railed (ag.wf && okR r && okChan c) s fun s => s.dmaDoorbell ag r c v

/-- DESC_FETCH: R196, R197, R213. -/
def execDescFetch (r c : Nat) (s : State) : Host.Outcome State Fault Refusal :=
  railed (okR r && okChan c) s fun s => s.descFetch r c

/-- DESC_REFETCH: R211, R213. -/
def execDescRefetch (r c : Nat) (s : State) : Host.Outcome State Fault Refusal :=
  railed (okR r && okChan c) s fun s => s.descRefetch r c

/-- COPY: R192 to R195, R200 to R205, R207; `n` chunks. -/
def execCopy (r c n : Nat) (s : State) : Host.Outcome State Fault Refusal :=
  railed (okR r && okChan c) s fun s => s.dmaMove r c 0 n

/-- FILL: R192, R193, R195, R200, R204, R205; `n` chunks. -/
def execFill (r c n : Nat) (s : State) : Host.Outcome State Fault Refusal :=
  railed (okR r && okChan c) s fun s => s.dmaMove r c 1 n

/-- COMPARE: R192, R193, R200, R202, R204, R205; `n` chunks. -/
def execCompare (r c n : Nat) (s : State) : Host.Outcome State Fault Refusal :=
  railed (okR r && okChan c) s fun s => s.dmaMove r c 2 n

/-- COPY_2D: R192 to R195, R200 to R205; `n` chunks. -/
def execCopy2d (r c n : Nat) (s : State) : Host.Outcome State Fault Refusal :=
  railed (okR r && okChan c) s fun s => s.dmaMove r c 3 n

/-- DESC_FAULT: R206. -/
def execDescFault (r c : Nat) (s : State) : Host.Outcome State Fault Refusal :=
  railed (okR r && okChan c) s fun s => s.descFault r c

/-- DESC_WRITEBACK: R199, R203, R208, R209, R211, R229. -/
def execDescWriteback (r c : Nat) (s : State) : Host.Outcome State Fault Refusal :=
  railed (okR r && okChan c) s fun s => s.descWriteback r c

/-- RING_FAULT: R210. -/
def execRingFault (r c : Nat) (s : State) : Host.Outcome State Fault Refusal :=
  railed (okR r && okChan c) s fun s => s.ringFault r c

/-- PAUSE_DRAIN_END: R211, R214. -/
def execPauseDrainEnd (r c : Nat) (s : State) : Host.Outcome State Fault Refusal :=
  railed (okR r && okChan c) s fun s => s.pauseDrainEnd r c

/-- DMA_CH_COUNT_CLEAR: R218. -/
def execDmaChCountClear (ag : Agent) (r c : Nat) (v : W64) (s : State) : Host.Outcome State Fault Refusal :=
  railed (ag.wf && okR r && okChan c) s fun s => s.countClear v (State.dmaCounters r c)

end Sys2Proof.Machine
end

