-- ==== Sys2Proof/Machine/CmdHart.lean ====
section
/-!
DEFINITION. The meanings of the commands of the accesses of harts (chapters 4 and 7): each names the operation that carries it out.
-/
namespace Sys2Proof.Machine

/-- HART_LOAD: R147, R149, R151, R243, R244, R246, R251 to R254, R272, R293. -/
def execHartLoad (h : Nat) (a : Access) (s : State) : Host.Outcome State Fault Refusal :=
  railed (okH h && okSize a.size) s fun s => s.hartLoad h a

/-- HART_STORE: R145, R147, R149 to R152, R243, R244, R246, R249 to R254, R273; `hold` names the pieces that stay in the store buffer. -/
def execHartStore (h : Nat) (a : Access) (v : W64) (hold : Nat) (s : State) : Host.Outcome State Fault Refusal :=
  railed (okH h && okSize a.size) s fun s => s.hartStore h a v hold

/-- HART_AMO: R221, R222, R245, R251, R257, R293. -/
def execHartAmo (h : Nat) (a : Access) (op : AmoOp) (v : W64) (s : State) : Host.Outcome State Fault Refusal :=
  railed (okH h && okWide a.size) s fun s => s.hartAmo h a op v

/-- HART_LR: R245, R255, R256. -/
def execHartLr (h : Nat) (a : Access) (s : State) : Host.Outcome State Fault Refusal :=
  railed (okH h && okWide a.size) s fun s => s.hartLr h a

/-- HART_SC: R245, R255, R256. -/
def execHartSc (h : Nat) (a : Access) (v : W64) (s : State) : Host.Outcome State Fault Refusal :=
  railed (okH h && okWide a.size) s fun s => s.hartSc h a v

/-- HART_FENCE: R151, R248, R251, R275. -/
def execHartFence (h : Nat) (pred succ : FenceSet) (tso : Bool) (s : State) : Host.Outcome State Fault Refusal :=
  railed (okH h) s fun s => s.hartFence h pred succ tso

/-- FENCE_I: R251, R277. -/
def execFenceI (h : Nat) (s : State) : Host.Outcome State Fault Refusal :=
  railed (okH h) s fun s => s.fenceI h

/-- WFI: R151, R251. -/
def execWfi (h : Nat) (s : State) : Host.Outcome State Fault Refusal :=
  railed (okH h) s fun s => s.hartWfi h

/-- WC_ENTRY_WRITEOUT: R250, R251, R267. -/
def execWcEntryWriteout (h line : Nat) (s : State) : Host.Outcome State Fault Refusal :=
  railed (okH h) s fun s => s.wcWriteout h line

/-- RESERVATION_EXPIRE: R256. -/
def execReservationExpire (h : Nat) (s : State) : Host.Outcome State Fault Refusal :=
  railed (okH h) s fun s => s.reservationExpire h

/-- MGMT_CORE_ASYNC_ERR_CLEAR: R271, Table 7.14. -/
def execMgmtCoreAsyncErrClear (ag : Agent) (c : Nat) (v : W64) (s : State) : Host.Outcome State Fault Refusal :=
  railed (ag.wf && okC c) s fun s => s.asyncClear c v

/-- REMOTE_WRITE_TIMEOUT: R270, R271, R274. -/
def execRemoteWriteTimeout (tag : ReqTag) (s : State) : Host.Outcome State Fault Refusal :=
  railed true s fun s => s.timeout tag true

/-- REMOTE_LOAD_TIMEOUT: R272. -/
def execRemoteLoadTimeout (tag : ReqTag) (s : State) : Host.Outcome State Fault Refusal :=
  railed true s fun s => s.timeout tag false

/-- INTERRUPT_TRAP: R251, R256, R275. -/
def execInterruptTrap (h : Nat) (s : State) : Host.Outcome State Fault Refusal :=
  railed (okH h) s fun s => s.takeInterrupt h

end Sys2Proof.Machine
end

