-- ==== Sys2Proof/Machine/CmdHost.lean ====
section
/-!
DEFINITION. The meanings of the commands of the host ports (chapter 12): each names the operation that carries it out.
-/
namespace Sys2Proof.Machine

/-- HOST_LINK_UP: R423. -/
def execHostLinkUp (r : Nat) (l : HostLink) (s : State) : Host.Outcome State Fault Refusal :=
  railed (okR r) s fun s => s.hostLinkUp r l

/-- HOST_LINK_DOWN: R418 to R420. -/
def execHostLinkDown (r k : Nat) (s : State) : Host.Outcome State Fault Refusal :=
  railed (okR r && okSub k) s fun s =>
    if (s.hostPort r).endpoint then s.noted (s.hostLoss r .linkDown State.closeOwner) else s.rootLinkDown r k

/-- HOST_LOSS: R420, R421, R424, R425. -/
def execHostLoss (r : Nat) (cause : LossCause) (s : State) : Host.Outcome State Fault Refusal :=
  railed (okR r) s fun s => s.noted (s.hostLoss r cause State.closeOwner)

/-- HOST_LOSS_DONE: R421, R423. -/
def execHostLossDone (r : Nat) (linkInL0 : Bool) (s : State) : Host.Outcome State Fault Refusal :=
  railed (okR r) s fun s => s.hostLossDone r linkInL0

/-- MEMORY_SPACE_ENABLE_SET: R422, R423. -/
def execMemorySpaceEnableSet (r : Nat) (s : State) : Host.Outcome State Fault Refusal :=
  railed (okR r) s fun s => s.memEnableSet r

/-- MEMORY_SPACE_ENABLE_CLEAR: R423. -/
def execMemorySpaceEnableClear (r : Nat) (s : State) : Host.Outcome State Fault Refusal :=
  railed (okR r) s fun s => s.memEnableClear r

/-- HOST_BAR0_ACCESS: R263, R404 to R407, R422. -/
def execHostBar0Access (r f off size : Nat) (write : Option W64) (s : State) : Host.Outcome State Fault Refusal :=
  railed (okR r && okFn f && okTlp size) s fun s => s.arrive (.hostBar0Access r f off size write)

/-- HOST_PEG_ATOMIC: R222, R407. -/
def execHostPegAtomic (r f off size : Nat) (op : AtomOp) (v : W64) (s : State) : Host.Outcome State Fault Refusal :=
  railed (okR r && okFn f && okTlp size) s fun s => s.arrive (.hostPegAtomic r f off size op v)

/-- HOST_BAR2_READ: R408, R409, R422. -/
def execHostBar2Read (r f off n : Nat) (s : State) : Host.Outcome State Fault Refusal :=
  railed (okR r && okFn f && decide (n ≤ 4096)) s fun s => s.arrive (.hostBar2Read r f off n)

/-- HOST_BAR2_WRITE: R263, R409, R415. -/
def execHostBar2Write (r f off : Nat) (data : List Byte) (attr : TlpAttr) (s : State) : Host.Outcome State Fault
    Refusal :=
  railed (okR r && okFn f && decide (data.length ≤ 512)) s fun s => s.arrive (.hostBar2Write r f off data attr)

/-- HOST_BAR2_ATOMIC: R410. -/
def execHostBar2Atomic (r f off size : Nat) (op : AtomOp) (v : W64) (s : State) : Host.Outcome State Fault Refusal :=
  railed (okR r && okFn f && okTlp size) s fun s => s.arrive (.hostBar2Atomic r f off size op v)

/-- HOST_FN_BAR2_SLIDE_WRITE: R263, R408. -/
def execHostFnBar2SlideWrite (r f : Nat) (v : W64) (s : State) : Host.Outcome State Fault Refusal :=
  railed (okR r && okFn f) s fun s => s.arrive (.hostFnBar2SlideWrite r f v)

/-- HOST_OWNERSHIP_WRITE: R412. -/
def execHostOwnershipWrite (ag : Agent) (r f word : Nat) (v : W64) (s : State) : Host.Outcome State Fault Refusal :=
  railed (ag.wf && okR r && okFn f && decide (word < 12)) s fun s => s.ownershipWrite ag r f word v

/-- ROOT_PORT_LINK_DOWN: R419, R425. -/
def execRootPortLinkDown (r k : Nat) (s : State) : Host.Outcome State Fault Refusal :=
  railed (okR r && okSub k) s fun s => s.rootLinkDown r k

/-- HOST_RP_CTRL_ENABLE: R419. -/
def execHostRpCtrlEnable (ag : Agent) (r k : Nat) (v : W64) (s : State) : Host.Outcome State Fault Refusal :=
  railed (ag.wf && okR r && okSub k) s fun s => s.rpEnable r k v

/-- DEVICE_AER_ERROR: R419. -/
def execDeviceAerError (r k reqId : Nat) (s : State) : Host.Outcome State Fault Refusal :=
  railed (okR r && okSub k) s fun s => s.aerError r k reqId

/-- DEVICE_INBOUND_REQUEST: R263, R416, R417, R425. -/
def execDeviceInboundRequest (r k reqId pasid addr : Nat) (storage : Bool) (n : Nat) (write : Option DeviceWrite) (s : State) : Host.Outcome State Fault Refusal :=
  railed (okR r && okSub k && decide (n ≤ 4096) && (match write with | some x => decide (x.data.length ≤ 512) | none => true)) s fun s =>
    s.arrive (.deviceInboundRequest r k reqId pasid addr storage n write)

/-- HOST_OUTBOUND_COMPLETION: R264. -/
def execHostOutboundCompletion (tag : ReqTag) (status : Nat) (data : List Byte) (s : State) : Host.Outcome State Fault
    Refusal :=
  railed true s fun s => s.hostAnswer tag status data

/-- HOST_LINK_RECOVERY: R418, R423. -/
def execHostLinkRecovery (r k : Nat) (s : State) : Host.Outcome State Fault Refusal :=
  railed (okR r && okSub k) s fun s => s.linkRecovery r k

/-- ROOT_PORT_LINK_UP: R419. -/
def execRootPortLinkUp (r k : Nat) (l : HostLink) (s : State) : Host.Outcome State Fault Refusal :=
  railed (okR r && okSub k) s fun s => s.rootLinkUp r k l

/-- CONFIGURATION_WRITE: R408, R413, R422. -/
def execConfigurationWrite (r f : Nat) (busMaster memEnable : Option Bool) (bar2Log2 : Option Nat) (s : State) :
    Host.Outcome State Fault Refusal :=
  railed (okR r && okFn f) s fun s => s.configWrite r f busMaster memEnable bar2Log2

end Sys2Proof.Machine
end

