-- ==== Sys2Proof/Machine/CmdKiln.lean ====
section
/-!
DEFINITION. The meanings of the commands of the kiln (chapter 13): each names the operation that carries it out.
-/
namespace Sys2Proof.Machine

/-- TAG_OPEN: R434 to R436, R450, R507. -/
def execTagOpen (ag : Agent) (r : Nat) (s : State) : Host.Outcome State Fault Refusal :=
  railed (ag.wf && okR r) s fun s => s.tagOpen r

/-- TAG_CLOSE: R435, R436. -/
def execTagClose (ag : Agent) (r : Nat) (s : State) : Host.Outcome State Fault Refusal :=
  railed (ag.wf && okR r) s fun s => s.tagClose r

/-- TAG_QUERY: R435. -/
def execTagQuery (ag : Agent) (r : Nat) (s : State) : Host.Outcome State Fault Refusal :=
  railed (ag.wf && okR r) s fun s => s.tagQuery r

/-- TAG_BACKUP: R438. -/
def execTagBackup (s : State) : Host.Outcome State Fault Refusal :=
  railed true s fun s => s.tagBackup

/-- INTERVAL_CLOSE: R441, R442, R450. -/
def execIntervalClose (s : State) : Host.Outcome State Fault Refusal :=
  railed true s fun s => s.intervalClose

/-- SIGN_TOKEN: R444. -/
def execSignToken (s : State) : Host.Outcome State Fault Refusal :=
  checked true s fun s => s.signToken

/-- SIGN_DONE: R439, R441, R443 to R445. -/
def execSignDone (s : State) : Host.Outcome State Fault Refusal :=
  checked true s fun s => s.signDone

/-- LEDGER_APPEND: R436, R445, R446, R448. -/
def execLedgerAppend (s : State) : Host.Outcome State Fault Refusal :=
  checked true s fun s => s.ledgerAppend

/-- PAGE_PROGRAM: R447. -/
def execPageProgram (s : State) : Host.Outcome State Fault Refusal :=
  checked true s fun s => s.pageProgram

/-- KILN_RING_HEAD_WRITE: R448. -/
def execKilnRingHeadWrite (ag : Agent) (r : Nat) (v : W64) (s : State) : Host.Outcome State Fault Refusal :=
  railed (ag.wf && okR r) s fun s => s.ringHeadWrite ag r v

/-- KILN_ACK_SEQ_WRITE: R449. -/
def execKilnAckSeqWrite (ag : Agent) (r : Nat) (v : W64) (s : State) : Host.Outcome State Fault Refusal :=
  railed (ag.wf && okR r) s fun s => s.ackSeqWrite ag r v

/-- LEDGER_COMPACT: R441, R449. -/
def execLedgerCompact (upTo : Nat) (s : State) : Host.Outcome State Fault Refusal :=
  checked true s fun s => s.ledgerCompact upTo

/-- KILN_COUNT_CLEAR: R452. -/
def execKilnCountClear (ag : Agent) (r : Nat) (v : W64) (s : State) : Host.Outcome State Fault Refusal :=
  railed (ag.wf && okR r) s fun s => s.countClear v (State.kilnCounters r)

end Sys2Proof.Machine
end

