-- ==== Sys2Proof/Machine/CmdMatrix.lean ====
section
/-!
DEFINITION. The meanings of the commands of the matrix array (chapter 3): each names the operation that carries it out.
-/
namespace Sys2Proof.Machine

/-- MX_LOAD: R98, R100, R135 to R138. -/
def execMxLoad (b : Nat) (s : State) : Host.Outcome State Fault Refusal :=
  railed (okB b) s fun s => s.mxLoad b

/-- MX_LOAD_PATH_START: R97 to R99. -/
def execMxLoadPathStart (b : Nat) (s : State) : Host.Outcome State Fault Refusal :=
  railed (okB b) s fun s => s.mxLoadPathStart b

/-- MX_LOAD_DONE: R98, R127, R139. -/
def execMxLoadDone (b : Nat) (s : State) : Host.Outcome State Fault Refusal :=
  railed (okB b) s fun s => s.mxLoadDone b

/-- MX_SWAP: R96. -/
def execMxSwap (b : Nat) (s : State) : Host.Outcome State Fault Refusal :=
  railed (okB b) s fun s => s.mxSwap b

/-- MX_SWAP_CYCLE: R95, R96. -/
def execMxSwapCycle (b : Nat) (s : State) : Host.Outcome State Fault Refusal :=
  railed (okB b) s fun s => s.mxSwapCycle b

/-- MX_STREAM: R102 to R107, R110. -/
def execMxStream (b : Nat) (s : State) : Host.Outcome State Fault Refusal :=
  railed (okB b) s fun s => s.mxStream b

/-- MX_ROW_FEED: R91 to R94, R106, R108, R111, R114, R133; `granted` tells whether the row's elements are there. -/
def execMxRowFeed (b : Nat) (granted : Bool) (errs : List ArrayError) (parity : Option (Nat × Nat)) (s : State) :
    Host.Outcome State Fault Refusal :=
  railed (okB b) s fun s => s.noted (s.mxRowFeed b granted errs parity)

/-- GROUP_CHECK: R112, R123 to R130. -/
def execGroupCheck (b : Nat) (s : State) : Host.Outcome State Fault Refusal :=
  railed (okB b) s fun s => s.noted (s.groupCheck b)

/-- MX_ROW_COMMIT: R56 to R86, R112, R113. -/
def execMxRowCommit (b : Nat) (s : State) : Host.Outcome State Fault Refusal :=
  railed (okB b) s fun s => s.mxRowCommit b

/-- FEED_PEG_RELEASE: R108. -/
def execFeedPegRelease (b : Nat) (s : State) : Host.Outcome State Fault Refusal :=
  railed (okB b) s fun s => s.feedPegRelease b

/-- MX_DRAIN: R118 to R121; `n` entries. -/
def execMxDrain (b n : Nat) (s : State) : Host.Outcome State Fault Refusal :=
  railed (okB b) s fun s => s.mxDrain b n

/-- MX_SEED: R117; `n` entries. -/
def execMxSeed (b n : Nat) (s : State) : Host.Outcome State Fault Refusal :=
  railed (okB b) s fun s => s.mxSeed b n

/-- MX_COUNT_CLEAR: R141. -/
def execMxCountClear (ag : Agent) (b : Nat) (v : W64) (s : State) : Host.Outcome State Fault Refusal :=
  railed (ag.wf && okB b) s fun s => s.countClear v (State.mxCounters b)

end Sys2Proof.Machine
end

