-- ==== Sys2Proof/Machine/CmdMem.lean ====
section
/-!
DEFINITION. The meanings of the commands of memory tiers and placement (chapter 9): each names the operation that carries it out.
-/
namespace Sys2Proof.Machine

/-- ECC_UNCORRECTABLE: R143, R292, R305, R309, R312. -/
def execEccUncorrectable (e : EccError) (s : State) : Host.Outcome State Fault Refusal :=
  railed (match e.place with | .cache k => okH k | _ => true) s fun s => s.eccEvent e.addr e.place e.corrected

/-- MAP_OUT: R304 to R306. -/
def execMapOut (ag : Agent) (ch : Nat) (s : State) : Host.Outcome State Fault Refusal :=
  railed (ag.wf && okDev ch) s fun s => s.chCtrlWrite ag ch 1

/-- TEST_START: R305. -/
def execTestStart (ag : Agent) (ch : Nat) (s : State) : Host.Outcome State Fault Refusal :=
  railed (ag.wf && okDev ch) s fun s => s.chCtrlWrite ag ch 2

/-- TEST_END: R305. -/
def execTestEnd (ag : Agent) (ch : Nat) (s : State) : Host.Outcome State Fault Refusal :=
  railed (ag.wf && okDev ch) s fun s => s.chCtrlWrite ag ch 4

/-- MAINT_SLOT: R324, R325, R480, R481, R493, R494. -/
def execMaintSlot (r seed : Nat) (lanes : List (Nat × Nat × Nat)) (s : State) : Host.Outcome State Fault Refusal :=
  railed (okR r) s fun s => s.maintSlot r seed lanes

/-- MARGIN_CHECK_DONE: R323, R324. -/
def execMarginCheckDone (r : Nat) (m : Margins) (s : State) : Host.Outcome State Fault Refusal :=
  railed (okR r) s fun s => s.marginDone r m

/-- RETRAIN_DONE: R305, R306, R323, R324. -/
def execRetrainDone (r : Nat) (m : Margins) (s : State) : Host.Outcome State Fault Refusal :=
  railed (okR r) s fun s => s.retrainEnd r m

/-- GROUP_REBUILD: R307, R309. -/
def execGroupRebuild (ag : Agent) (r : Nat) (v : W64) (s : State) : Host.Outcome State Fault Refusal :=
  railed (ag.wf && okR r) s fun s => s.groupCtrlWrite ag r v

/-- REBUILD_DONE: R301, R307. -/
def execRebuildDone (r g : Nat) (s : State) : Host.Outcome State Fault Refusal :=
  railed (okR r && okGroup g) s fun s => s.rebuildDone r g

/-- TG_START: R308. -/
def execTgStart (ag : Agent) (ch : Nat) (v : W64) (s : State) : Host.Outcome State Fault Refusal :=
  railed (ag.wf && okHbm ch) s fun s => s.tgWrite ag ch (v ||| 4)

/-- TG_DONE: R308. -/
def execTgDone (ch : Nat) (errs : List Nat) (s : State) : Host.Outcome State Fault Refusal :=
  railed (okHbm ch) s fun s => s.tgEnd ch errs

/-- PAT_READ: R316, R331. -/
def execPatRead (ag : Agent) (r : Nat) (v : W64) (s : State) : Host.Outcome State Fault Refusal :=
  railed (ag.wf && okR r) s fun s => s.patCmdWrite ag r (setBits v 1 0 0)

/-- PAT_WRITE: R316, R317, R331. -/
def execPatWrite (ag : Agent) (r : Nat) (v : W64) (s : State) : Host.Outcome State Fault Refusal :=
  railed (ag.wf && okR r) s fun s => s.patCmdWrite ag r (setBits v 1 0 1)

/-- SET_COPY_VALID: R316, R317. -/
def execSetCopyValid (ag : Agent) (r : Nat) (v : W64) (s : State) : Host.Outcome State Fault Refusal :=
  railed (ag.wf && okR r) s fun s => s.patCmdWrite ag r (setBits v 1 0 2)

/-- CLEAR_COPY_VALID: R316. -/
def execClearCopyValid (ag : Agent) (r : Nat) (v : W64) (s : State) : Host.Outcome State Fault Refusal :=
  railed (ag.wf && okR r) s fun s => s.patCmdWrite ag r (setBits v 1 0 3)

/-- PAT_CMD_DONE: R316, R317. -/
def execPatCmdDone (r : Nat) (s : State) : Host.Outcome State Fault Refusal :=
  railed (okR r) s fun s => s.patDone r

/-- MGMT_REG_CFG_WRITE: R322. -/
def execMgmtRegCfgWrite (ag : Agent) (r q p : Nat) (v : W64) (s : State) : Host.Outcome State Fault Refusal :=
  railed (ag.wf && okR r && okRes q && okPart p) s fun s => s.regCfgWrite ag r q p v

/-- TOKEN_REFILL: R321, R322. -/
def execTokenRefill (r : Nat) (s : State) : Host.Outcome State Fault Refusal :=
  railed (okR r) s fun s => s.tokenRefill r

/-- MGMT_MEM_COUNT_CLEAR: R334. -/
def execMgmtMemCountClear (ag : Agent) (r : Nat) (v : W64) (s : State) : Host.Outcome State Fault Refusal :=
  railed (ag.wf && okR r) s fun s => s.countClear v (State.memCounters r)

end Sys2Proof.Machine
end

