-- ==== Sys2Proof/Machine/CmdMgmt.lean ====
section
/-!
DEFINITION. The meanings of the commands of boot, configuration and management (chapter 16); Uluell runs in every state but OFF: each names the operation that carries it out.
-/
namespace Sys2Proof.Machine

/-- AUX_POWER_UP: R454, R504, R516, R517, R535. -/
def execAuxPowerUp (slotId : Nat) (reversedSeen : Bool) (s : State) : Host.Outcome State Fault Refusal :=
  checked true s fun s => s.auxPowerUp slotId reversedSeen

/-- AUX_POWER_DOWN: R504. -/
def execAuxPowerDown (s : State) : Host.Outcome State Fault Refusal :=
  checked true s fun s => s.auxPowerDown

/-- AUTO_BOOT: R454, R504. -/
def execAutoBoot (s : State) : Host.Outcome State Fault Refusal :=
  checked true s fun s => s.autoBoot

/-- BOOT: R11, R28, R34, R35, R301, R304, R305, R309, R310, R322, R323, R350, R400 to R403, R447, R454, R456, R459, R460, R476,
R487, R490, R491, R504, R508 to R513, R515, R533. -/
def execBoot (i : BootInput) (s : State) : Host.Outcome State Fault Refusal :=
  checked true s fun s => s.noted (s.boot i)

/-- BOOT_STEP_TIMEOUT: R508. -/
def execBootStepTimeout (s : State) : Host.Outcome State Fault Refusal :=
  checked true s fun s => s.bootTimeout

/-- MBX_GO: R519, R524. -/
def execMbxGo (ag : Agent) (sl : Slot) (m : Msg) (s : State) : Host.Outcome State Fault Refusal :=
  checked ag.wf s fun s => s.mbxGo ag sl m

/-- MBX_ACK: R519, R524. -/
def execMbxAck (ag : Agent) (sl : Slot) (s : State) : Host.Outcome State Fault Refusal :=
  checked ag.wf s fun s => s.mbxAck ag sl

/-- MBX_RESPONSE: R502, R518 to R522. -/
def execMbxResponse (s : State) : Host.Outcome State Fault Refusal :=
  checked true s fun s => s.mbxResponse

/-- I3C_PRIVATE_WRITE: R518. -/
def execI3cPrivateWrite (bytes : List Byte) (s : State) : Host.Outcome State Fault Refusal :=
  checked true s fun s => s.i3cWrite bytes

/-- I3C_PRIVATE_READ: R518. -/
def execI3cPrivateRead (n : Nat) (s : State) : Host.Outcome State Fault Refusal :=
  checked true s fun s => s.i3cRead n

/-- ENTDAA: R516. -/
def execEntdaa (da : Nat) (s : State) : Host.Outcome State Fault Refusal :=
  checked true s fun s => s.entdaa da

/-- RSTDAA: R516. -/
def execRstdaa (s : State) : Host.Outcome State Fault Refusal :=
  checked true s fun s => s.rstdaa

/-- SETNEWDA: R516. -/
def execSetnewda (da : Nat) (s : State) : Host.Outcome State Fault Refusal :=
  checked true s fun s => s.setnewda da

/-- GETPID: R517. -/
def execGetpid (s : State) : Host.Outcome State Fault Refusal :=
  checked true s fun s => s.cccRead (leBytes 6 s.provisionedId).reverse

/-- GETBCR: R516. -/
def execGetbcr (s : State) : Host.Outcome State Fault Refusal :=
  checked true s fun s => s.cccRead [0x0E]

/-- GETDCR: R516. -/
def execGetdcr (s : State) : Host.Outcome State Fault Refusal :=
  checked true s fun s => s.cccRead [0x00]

/-- GETSTATUS: R516: MIPI I3C gives the format of the two bytes. -/
def execGetstatus (s : State) : Host.Outcome State Fault Refusal :=
  checked true s fun s => s.cccRead (leBytes 2 (Config.i3cStatus s.alert)).reverse

/-- GETMWL: R516: 520 bytes, most significant byte first. -/
def execGetmwl (s : State) : Host.Outcome State Fault Refusal :=
  checked true s fun s => s.cccRead [0x02, 0x08]

/-- GETMRL: R516: 520 bytes, most significant byte first. -/
def execGetmrl (s : State) : Host.Outcome State Fault Refusal :=
  checked true s fun s => s.cccRead [0x02, 0x08]

/-- ENEC: R516. -/
def execEnec (events : Nat) (s : State) : Host.Outcome State Fault Refusal :=
  checked true s fun s => s.ibiSet events true

/-- DISEC: R516. -/
def execDisec (events : Nat) (s : State) : Host.Outcome State Fault Refusal :=
  checked true s fun s => s.ibiSet events false

/-- GET_STATUS: R521. -/
def execGetStatus (sl : Slot) (m : Msg) (s : State) : Host.Outcome State Fault Refusal :=
  checked true s fun s => s.getStatus sl m

/-- GET_IDENTITY: R521. -/
def execGetIdentity (sl : Slot) (m : Msg) (s : State) : Host.Outcome State Fault Refusal :=
  checked true s fun s => s.getIdentity sl m

/-- GET_CERT: R443, R521. -/
def execGetCert (sl : Slot) (m : Msg) (s : State) : Host.Outcome State Fault Refusal :=
  checked true s fun s => s.getCert sl m

/-- GET_EVENT: R522. -/
def execGetEvent (sl : Slot) (m : Msg) (s : State) : Host.Outcome State Fault Refusal :=
  checked true s fun s => s.getEvent sl m

/-- COLD_BOOT: R219, R315, R456, R504, R505, R519. -/
def execColdBoot (sl : Slot) (m : Msg) (s : State) : Host.Outcome State Fault Refusal :=
  checked true s fun s => s.coldBoot sl m

/-- WARM_RESET: R219, R297, R315, R436, R504, R505, R523. -/
def execWarmReset (sl : Slot) (m : Msg) (s : State) : Host.Outcome State Fault Refusal :=
  checked true s fun s => s.warmReset sl m

/-- POWER_OFF: R504, R505. -/
def execPowerOff (sl : Slot) (m : Msg) (s : State) : Host.Outcome State Fault Refusal :=
  checked true s fun s => s.powerOff sl m

/-- RUN: R504, R523. -/
def execRun (sl : Slot) (m : Msg) (s : State) : Host.Outcome State Fault Refusal :=
  checked true s fun s => s.runCmd sl m

/-- QUIESCE: R504, R507, R523. -/
def execQuiesce (sl : Slot) (m : Msg) (s : State) : Host.Outcome State Fault Refusal :=
  checked true s fun s => s.quiesceCmd sl m

/-- RESUME: R504. -/
def execResume (sl : Slot) (m : Msg) (s : State) : Host.Outcome State Fault Refusal :=
  checked true s fun s => s.resumeCmd sl m

/-- OVERRIDE_SET: R514. -/
def execOverrideSet (sl : Slot) (m : Msg) (s : State) : Host.Outcome State Fault Refusal :=
  checked true s fun s => s.overrideSet sl m

/-- OVERRIDE_GET: R521. -/
def execOverrideGet (sl : Slot) (m : Msg) (s : State) : Host.Outcome State Fault Refusal :=
  checked true s fun s => s.overrideGet sl m

/-- OVERRIDE_CLEAR: R514. -/
def execOverrideClear (sl : Slot) (m : Msg) (s : State) : Host.Outcome State Fault Refusal :=
  checked true s fun s => s.overrideClear sl m

/-- JOURNAL_COMPACT: R515. -/
def execJournalCompact (s : State) : Host.Outcome State Fault Refusal :=
  checked true s fun s => s.journalCompact

/-- IMAGE_WRITE: R512. -/
def execImageWrite (sl : Slot) (m : Msg) (s : State) : Host.Outcome State Fault Refusal :=
  checked true s fun s => s.imageWrite sl m

/-- IMAGE_COMMIT: R511, R512. -/
def execImageCommit (sl : Slot) (m : Msg) (v : Verdict) (s : State) : Host.Outcome State Fault Refusal :=
  checked true s fun s => s.imageCommit sl m v

/-- CORE_OFFLINE: R520. -/
def execCoreOffline (sl : Slot) (m : Msg) (s : State) : Host.Outcome State Fault Refusal :=
  checked true s fun s => s.coreOffline sl m

/-- CORE_ONLINE: R491. -/
def execCoreOnline (sl : Slot) (m : Msg) (passed : Bool) (s : State) : Host.Outcome State Fault Refusal :=
  checked true s fun s => s.coreOnline sl m passed

/-- CORE_CLEAR_FAIL: R492. -/
def execCoreClearFail (sl : Slot) (m : Msg) (s : State) : Host.Outcome State Fault Refusal :=
  checked true s fun s => s.coreClearFail sl m

/-- MUTE_LIST_GET: R487. -/
def execMuteListGet (sl : Slot) (m : Msg) (s : State) : Host.Outcome State Fault Refusal :=
  checked true s fun s => s.muteListGet sl m

/-- MUTE_LIST_REMOVE: R488. -/
def execMuteListRemove (sl : Slot) (m : Msg) (s : State) : Host.Outcome State Fault Refusal :=
  checked true s fun s => s.muteListRemove sl m

/-- EVIDENCE_READ: R489. -/
def execEvidenceRead (sl : Slot) (m : Msg) (s : State) : Host.Outcome State Fault Refusal :=
  checked true s fun s => s.evidenceRead sl m

/-- EVIDENCE_RELEASE: R489. -/
def execEvidenceRelease (sl : Slot) (m : Msg) (s : State) : Host.Outcome State Fault Refusal :=
  checked true s fun s => s.evidenceRelease sl m

/-- FUSE_REARM: R455. -/
def execFuseRearm (sl : Slot) (m : Msg) (s : State) : Host.Outcome State Fault Refusal :=
  checked true s fun s => s.fuseRearm sl m

/-- LEDGER_READ: R521. -/
def execLedgerRead (sl : Slot) (m : Msg) (s : State) : Host.Outcome State Fault Refusal :=
  checked true s fun s => s.ledgerRead sl m

/-- DEBUG_UNLOCK: R521. -/
def execDebugUnlock (sl : Slot) (m : Msg) (nonce : List Byte) (sigOk : Bool) (s : State) : Host.Outcome State Fault
    Refusal :=
  checked true s fun s => s.debugUnlock sl m nonce sigOk

/-- JTAG_INSTRUCTION: R518. -/
def execJtagInstruction (boundaryScan : Bool) (s : State) : Host.Outcome State Fault Refusal :=
  checked true s fun s => s.jtag boundaryScan

end Sys2Proof.Machine
end

