-- ==== Sys2Proof/Machine/CmdPeg.lean ====
section
/-!
DEFINITION. The meanings of the commands of pegs and watches (chapter 6): each names the operation that carries it out.
-/
namespace Sys2Proof.Machine

/-- PEG_SET: R220, R227, R233, R240. -/
def execPegSet (ag : Agent) (p : Nat) (v : W64) (s : State) : Host.Outcome State Fault Refusal :=
  railed (ag.wf && okPeg p) s fun s => s.pegSet ag p v

/-- PEG_ADD: R220, R227, R233, R240. -/
def execPegAdd (ag : Agent) (p : Nat) (v : W64) (s : State) : Host.Outcome State Fault Refusal :=
  railed (ag.wf && okPeg p) s fun s => s.pegAdd ag p v

/-- PEG_REL_ADD: R224, R227, R233, R251. -/
def execPegRelAdd (ag : Agent) (p : Nat) (sc : Scope) (v : W64) (s : State) : Host.Outcome State Fault Refusal :=
  railed (ag.wf && okPeg p) s fun s => s.pegRelease ag p (scopeCode sc) v

/-- PEG_ACQ_READ: R225 to R228, R240. -/
def execPegAcqRead (ag : Agent) (p : Nat) (sc : Scope) (s : State) : Host.Outcome State Fault Refusal :=
  railed (ag.wf && okPeg p) s fun s => s.pegAcqRead ag p (scopeCode sc)

/-- PEG_CAS_EXPECT: R222. -/
def execPegCasExpect (ag : Agent) (p : Nat) (v : W64) (s : State) : Host.Outcome State Fault Refusal :=
  railed (ag.wf && okPeg p) s fun s => s.pegCasExpect ag p v

/-- PEG_CAS: R222, R227, R233. -/
def execPegCas (ag : Agent) (p : Nat) (v : W64) (s : State) : Host.Outcome State Fault Refusal :=
  railed (ag.wf && okPeg p) s fun s => s.pegCasAmo ag p v

/-- PEG_STATUS_CLEAR: R219, Table 6.3. -/
def execPegStatusClear (ag : Agent) (p : Nat) (v : W64) (s : State) : Host.Outcome State Fault Refusal :=
  railed (ag.wf && okPeg p) s fun s => s.pegStatusClear ag p v

/-- PEG_ACCESS_FAULT: R221. -/
def execPegAccessFault (ag : Agent) (addr size : Nat) (write amo : Bool) (s : State) : Host.Outcome State Fault
    Refusal :=
  railed (ag.wf && okSize size) s fun s => s.pegAccessFault ag addr size write amo

/-- WATCH_ARM: R230 to R234. -/
def execWatchArm (ag : Agent) (v : W64) (s : State) : Host.Outcome State Fault Refusal :=
  railed ag.wf s fun s => s.watchArm ag v

/-- WATCH_DELIVER: R236, R237. -/
def execWatchDeliver (r : Nat) (s : State) : Host.Outcome State Fault Refusal :=
  railed (okR r) s fun s => s.watchDeliver r

/-- WATCH_EXPIRE: R235. -/
def execWatchExpire (r key : Nat) (s : State) : Host.Outcome State Fault Refusal :=
  railed (okR r) s fun s => s.watchExpire r key

/-- WATCH_CANCEL: R230, R238. -/
def execWatchCancel (ag : Agent) (v : W64) (s : State) : Host.Outcome State Fault Refusal :=
  railed ag.wf s fun s => s.watchCancelBy ag v

/-- WATCH_EVENT_READ: R230, R237. -/
def execWatchEventRead (ag : Agent) (s : State) : Host.Outcome State Fault Refusal :=
  railed ag.wf s fun s => s.watchEventRead ag

/-- EVENT_QUEUE_ADMIT: R237. -/
def execEventQueueAdmit (r : Nat) (s : State) : Host.Outcome State Fault Refusal :=
  railed (okR r) s fun s => s.eventAdmit r

/-- WATCH_COUNT_CLEAR: R241. -/
def execWatchCountClear (ag : Agent) (r : Nat) (v : W64) (s : State) : Host.Outcome State Fault Refusal :=
  railed (ag.wf && okR r) s fun s => s.countClear v (State.watchCounters r)

end Sys2Proof.Machine
end

