-- ==== Sys2Proof/Machine/CmdPower.lean ====
section
/-!
DEFINITION. The meanings of the commands of power and thermal (chapter 14): each names the operation that carries it out.
-/
namespace Sys2Proof.Machine

/-- INPUT_LOSS: R441, R447, R455, R504, R523, R529. -/
def execInputLoss (s : State) : Host.Outcome State Fault Refusal :=
  checked true s fun s => s.inputLoss

/-- INPUT_LOW: R455. -/
def execInputLow (volts : Nat) (s : State) : Host.Outcome State Fault Refusal :=
  checked (decide (2500 ≤ volts) && decide (volts < 2600)) s fun s => s.inputLow volts

/-- INPUT_OVERVOLTAGE: R455, R504. -/
def execInputOvervoltage (s : State) : Host.Outcome State Fault Refusal :=
  checked true s fun s => s.inputOvervoltage

/-- INPUT_OVERCURRENT: R455. -/
def execInputOvercurrent (s : State) : Host.Outcome State Fault Refusal :=
  checked true s fun s => s.inputOvercurrent

/-- RAIL_FAULT: R456 to R458, R475, R496. -/
def execRailFault (r rail cause : Nat) (s : State) : Host.Outcome State Fault Refusal :=
  railed (okR r && okRail rail) s fun s => s.noted (s.railFault r rail cause)

/-- PWR_MODULE_LIMIT_WRITE: R460, R475. -/
def execPwrModuleLimitWrite (ag : Agent) (r : Nat) (v : W64) (s : State) : Host.Outcome State Fault Refusal :=
  railed (ag.wf && okR r) s fun s => s.moduleLimitWrite ag r v

/-- PWR_DOMAIN_WRITE: R465, R475. -/
def execPwrDomainWrite (ag : Agent) (r d : Nat) (v : W64) (s : State) : Host.Outcome State Fault Refusal :=
  railed (ag.wf && okR r && okDomain d) s fun s => s.domainWrite ag r d v

/-- BUDGET_MESSAGE: R466. -/
def execBudgetMessage (r p f d : Nat) (s : State) : Host.Outcome State Fault Refusal :=
  railed (okR r) s fun s => s.budgetMessage r p f d

/-- BUDGET_GRANT: R461, R465 to R468, R475, R476. -/
def execBudgetGrant (p : Predictions) (s : State) : Host.Outcome State Fault Refusal :=
  railed true s fun s => s.budgetGrant p

/-- RAIL_OVERCURRENT: R469. -/
def execRailOvercurrent (r rail : Nat) (s : State) : Host.Outcome State Fault Refusal :=
  railed (okR r && okRail rail) s fun s => s.railOvercurrent r rail

/-- DROOP_DETECT: R470. -/
def execDroopDetect (h cycles : Nat) (s : State) : Host.Outcome State Fault Refusal :=
  railed (okH h) s fun s => s.droopDetect h cycles

/-- DROOP_RECOVER: R470. -/
def execDroopRecover (h : Nat) (s : State) : Host.Outcome State Fault Refusal :=
  railed (okH h) s fun s => s.droopRecover h

/-- THERMAL_SAMPLE: R471, R475. -/
def execThermalSample (r die celsius : Nat) (s : State) : Host.Outcome State Fault Refusal :=
  railed (okR r && okDomain die) s fun s => s.thermalSample r die celsius

/-- THERMAL_TRIP: R472, R504, R523. -/
def execThermalTrip (s : State) : Host.Outcome State Fault Refusal :=
  checked true s fun s => s.thermalTrip

/-- COOLANT_ALARM: R473. -/
def execCoolantAlarm (s : State) : Host.Outcome State Fault Refusal :=
  railed true s fun s => s.coolantAlarm

/-- PWR_COUNT_CLEAR: R477. -/
def execPwrCountClear (ag : Agent) (v : W64) (s : State) : Host.Outcome State Fault Refusal :=
  railed ag.wf s fun s => s.countClear v State.pwrCounters

/-- INPUT_REVERSED: R455. -/
def execInputReversed (s : State) : Host.Outcome State Fault Refusal :=
  checked true s fun s => s.inputReversed

end Sys2Proof.Machine
end

