-- ==== Sys2Proof/Machine/Fret.lean ====
section
/-!
DEFINITION. The fret mark (R36, R42, Table 1.14) and the adoption of a fabric epoch (R38, R377).
-/
namespace Sys2Proof.Machine
namespace State

/-- The signed byte of SKEW_NS (Table 1.12). -/
def skewByte (x : Int) : Nat := ((x % 256) + 256).toNat % 256

/-- SKEW_NS of a region at a mark; above 5 ns ALIGN_ALARM is set and recorded when it becomes set (R41). -/
def skewMark (s : State) (r : Nat) (x : Int) : State :=
  let x := if r = s.master then 0 else x
  let old := s.reg (FAB_FRET_STATUS r)
  let v := setBits old 15 8 (skewByte x)
  if 5 < x.natAbs then
    let s := s.setReg (FAB_FRET_STATUS r) (v ||| 4)
    if bit old 2 then s else s.log r stOK 5 0 0 (fld 1 0 ||| fld (signed32 x) 32)
  else s.setReg (FAB_FRET_STATUS r) v

/-- Step 1 of a mark: the counter takes its value, the phase restarts, and a written period and a new master region take
effect (R22, R35, R36, R37). -/
def markCount (s : State) (count : Nat) : State :=
  { s with fret := count, phaseNs := 0, markNs := s.markNs + s.period * 1000, period := (s.reg (FAB_FRET_PERIOD 0)).toNat,
           master := s.nextMaster }

/-- Step 2: what names the mark that makes the counter `c` and has not completed is stopped (R46). -/
def markStops (s : State) (c : Nat) : State :=
  let s := s.blocks.foldl (fun s x => (s.gsMark x.1 c).blockMark x.1 c) s
  s.dma.foldl (fun s x => s.dmaMark x.1.1 x.1.2 c) s

/-- Step 3: the kiln closes the energy interval of fret `f`; a failed slice closes its OPEN tags (R492). -/
def markKiln (s : State) (m : MarkInput) (f : Nat) : State :=
  (s.kilnMark m f).closeWhere (fun t => s.kiln.failed.contains t.home) stABORTED

/-- Step 6: the strum tables advance to slot 0, and what is counted by the fret starts anew. -/
def markSlots (s : State) : State :=
  let s := (s.collMark s.fret).slotStart 0
  { s.oldRoutesMark with links := s.links.map fun x => (x.1, { x.2 with errors := [] }) }

/-- The steps of Table 1.14 at a mark that makes the counter `count`. -/
def markSteps (s : State) (m : MarkInput) (count : Nat) : State :=
  let f := s.fret
  let was := s.period
  let s := (s.markCount count).watchDue
  -- a new period goes out in HELLOs (R347)
  let s := if s.period = was then s else s.sendHellos
  let s := s.liveRegions.foldl (fun s r => s.skewMark r (m.skew.getD r 0)) s
  let s := (s.fretCorrection).markStops count
  let s := s.dma.foldl (fun s x => s.waitRecheck x.1.1 x.1.2) s
  let s := s.markKiln m f
  let s := s.watchMark
  let s := s.powerMark m f
  s.markSlots

/-- FRET_MARK: the counter holds 0 until an epoch is set, and increases by one at every mark after that (R36, R37). -/
def fretMark (s : State) (m : MarkInput) : State :=
  match s.time.start with
  | some lone =>
    let s : State := { s with epochSet := true, localEpoch := lone }
    (s.updTime fun t => { t with start := none }).markSteps m 0
  | none => s.markSteps m (if s.epochSet then s.fret + 1 else 0)

/-! ### Adoption (R38, R377) -/

/-- Every outstanding fret-bound command and deadline-tagged fetch of a block ends with ABORTED. -/
def blockEpochAbort (s : State) (b : Nat) : State :=
  let bound (k : Cmd) : Bool := k.target != .free
  let s : State := { s with out := s.out.filter fun q => match q.origin with
    | .gs b' n => !(b' == b && !q.posted && ((s.block b).engine 3).started.any fun r => r.cmd.seq == n && bound r.cmd)
    | _ => true }
  (s.stopAll b stABORTED bound).updBlock b fun x =>
    Block.engineList.foldl (fun x e =>
      let g := x.engine e
      let drop (k : Cmd) : Cmd := if bound k then { k with target := .aborted } else k
      (x.setEngine e { g with hw := g.hw.map drop, spill := g.spill.map drop }).settle e 64) x

/-- Every outstanding descriptor of a channel that is fret-bound stops with ABORTED. -/
def dmaEpochAbort (s : State) (r c : Nat) : State :=
  s.stopStarted r c (fun d => d.target != .free) fun s d => s.stopDesc r c d stABORTED 0 d.off

/-- EPOCH_ADOPT: a watch whose t-th mark this is can fire no more (R235), also by what the adoption ends.  After 8 good exchanges the counter takes the parent's value at its mark; work that names frets of the
epoch held before is aborted. -/
def epochAdopt (s : State) (count : Nat) (m : MarkInput) : State :=
  if !s.time.adopt ∨ s.time.ready < 8 then s
  else
    let s := s.watchDue
    let s := if s.epochSet then
        let s := s.blocks.foldl (fun s x => s.blockEpochAbort x.1) s
        (s.dma.foldl (fun s x => s.dmaEpochAbort x.1.1 x.1.2) s).collEpochAbort
      else s
    let s : State := { s with epochSet := true, localEpoch := false }
    let s := (s.setAll FAB_TIME_STEPS ((s.reg (FAB_TIME_STEPS 0)) + 1)).updTime fun t =>
      { t with lock := .acquiring, root := false, adopt := false, ready := 0, good := 0, bad := 0, start := none }
    let s : State := { s with ports := s.ports.map fun x => (x.1, { x.2 with timeE := none }) }
    s.markSteps m count

end State
end Sys2Proof.Machine
end

