-- ==== Sys2Proof/Machine/CmdRegs.lean ====
section
/-!
DEFINITION. The meanings of the commands of registers, the fret mark, and traffic between regions (chapters 0 and 1): each names the operation that carries it out.
-/
namespace Sys2Proof.Machine

/-- REGISTER_WRITE: A write of a register by its module physical address (R7 to R10, R33); another address names no register. -/
def execRegisterWrite (ag : Agent) (addr : Nat) (v : W64) (s : State) : Host.Outcome State Fault Refusal :=
  railed ag.wf s fun s => s.writeAddr ag addr v

/-- MISALIGNED_REG_ACCESS: R8: no effect, ALIGN in the region error log; a read returns zero. -/
def execMisalignedRegAccess (ag : Agent) (addr size : Nat) (write : Bool) (s : State) : Host.Outcome State Fault
    Refusal :=
  railed (ag.wf && okSize size) s fun s => s.misalignedAccess ag addr size write

/-- FAB_FRET_PERIOD_WRITE: R35. -/
def execFabFretPeriodWrite (ag : Agent) (r : Nat) (v : W64) (s : State) : Host.Outcome State Fault Refusal :=
  railed (ag.wf && okR r) s fun s => s.periodWrite ag r v

/-- FRET_MARK: R36, R37, R40 to R46: the steps of a fret mark in their order. -/
def execFretMark (m : MarkInput) (s : State) : Host.Outcome State Fault Refusal :=
  railed true s fun s => s.noted (s.fretMark m)

/-- VF_STEP_RISE: R463, R464. -/
def execVfStepRise (r d : Nat) (s : State) : Host.Outcome State Fault Refusal :=
  railed (okR r && okDomain d) s fun s => s.vfStepRise r d

/-- LATERAL_PATH_CHANGE: R20, R21: offered for an edge that has failed or a region that is lost. -/
def execLateralPathChange (edge lost : Option Nat) (fl : List LateralFlit) (s : State) : Host.Outcome State Fault
    Refusal :=
  railed (edge.all okR && lost.all okR) s fun s => if s.pathChanged edge lost then s.pathChange edge lost fl else s

end Sys2Proof.Machine
end

