-- ==== Sys2Proof/Machine/CmdTime.lean ====
section
/-!
DEFINITION. The meanings of the commands of fabric time, strums and collectives (chapter 11): each names the operation that carries it out.
-/
namespace Sys2Proof.Machine

/-- TIME_REQ_SEND: R371. -/
def execTimeReqSend (k t1 : Nat) (s : State) : Host.Outcome State Fault Refusal :=
  railed (okPort k) s fun s => s.timeReqSend k t1

/-- TIME_REQ: R371. -/
def execTimeReq (k : Nat) (p : TimePkt) (t2 t3 : Nat) (s : State) : Host.Outcome State Fault Refusal :=
  railed (okPort k) s fun s => s.timeReqReceive k p t2 t3

/-- TIME_RESP: R372, R375. -/
def execTimeResp (k : Nat) (p : TimePkt) (t4 : Nat) (s : State) : Host.Outcome State Fault Refusal :=
  railed (okPort k) s fun s => s.timeRespReceive k p t4

/-- TIME_RESP_LOST: R371, R374. -/
def execTimeRespLost (k : Nat) (s : State) : Host.Outcome State Fault Refusal :=
  railed (okPort k) s fun s => s.timeRespLost k

/-- EPOCH_ADOPT: R38, R377, R396. -/
def execEpochAdopt (count : Nat) (m : MarkInput) (s : State) : Host.Outcome State Fault Refusal :=
  railed true s fun s => s.noted (s.epochAdopt count m)

/-- STRUM_LOAD: R381, R386, R388, R398. -/
def execStrumLoad (ag : Agent) (r c : Nat) (s : State) : Host.Outcome State Fault Refusal :=
  railed (ag.wf && okR r && okChan c) s fun s => s.strumLoad ag r c

/-- STRUM_LOAD_DONE: R386. -/
def execStrumLoadDone (r c : Nat) (s : State) : Host.Outcome State Fault Refusal :=
  railed (okR r && okChan c) s fun s => s.strumLoadDone r c

/-- STRUM_START: R387, R396, R398. -/
def execStrumStart (ag : Agent) (r c : Nat) (s : State) : Host.Outcome State Fault Refusal :=
  railed (ag.wf && okR r && okChan c) s fun s => s.strumStart ag r c

/-- STRUM_ABORT: R395. -/
def execStrumAbort (ag : Agent) (r c : Nat) (s : State) : Host.Outcome State Fault Refusal :=
  railed (ag.wf && okR r && okChan c) s fun s => s.strumAbort ag r c

/-- STRUM_UNLOAD: R398. -/
def execStrumUnload (ag : Agent) (r c : Nat) (s : State) : Host.Outcome State Fault Refusal :=
  railed (ag.wf && okR r && okChan c) s fun s => s.strumUnload ag r c

/-- SLOT_START: R19, R343, R378, R380, R382 to R384, R389 to R391. -/
def execSlotStart (slot : Nat) (s : State) : Host.Outcome State Fault Refusal :=
  railed true s fun s => s.slotStart slot

/-- SCHED_FLIT: R78, R79, R86, R383 to R385, R389 to R391. -/
def execSchedFlit (k : Nat) (f : SchedFlit) (s : State) : Host.Outcome State Fault Refusal :=
  railed (okPort k) s fun s => s.schedFlit k f

/-- STRUM_RUN_END: R391, R392. -/
def execStrumRunEnd (r c : Nat) (s : State) : Host.Outcome State Fault Refusal :=
  railed (okR r && okChan c) s fun s => s.strumRunEnd r c

/-- PEER_SILENT: R394, R395. -/
def execPeerSilent (r c entry : Nat) (s : State) : Host.Outcome State Fault Refusal :=
  railed (okR r && okChan c) s fun s => s.peerSilent r c entry

/-- FAB_COLL_ABORT: R395, R396. -/
def execFabCollAbort (ag : Agent) (v : W64) (s : State) : Host.Outcome State Fault Refusal :=
  railed ag.wf s fun s => s.collNotice v

/-- FAB_COLL_COUNT_CLEAR: R399. -/
def execFabCollCountClear (ag : Agent) (r : Nat) (v : W64) (s : State) : Host.Outcome State Fault Refusal :=
  railed (ag.wf && okR r) s fun s => s.countClear v (State.collCounters r)

end Sys2Proof.Machine
end

