-- ==== Sys2Proof/Machine/Dispatch.lean ====
section
/-!
DEFINITION. The meaning of every command: one arm for each constructor of `Instr`, in the order of the opcode table.
-/
namespace Sys2Proof.Machine

def exec (i : Instr) (s : State) : Host.Outcome State Fault Refusal :=
  match i with
  | .registerWrite ag addr v => Sys2Proof.Machine.execRegisterWrite ag addr v s
  | .misalignedRegAccess ag addr size write => Sys2Proof.Machine.execMisalignedRegAccess ag addr size write s
  | .fabFretPeriodWrite ag r v => Sys2Proof.Machine.execFabFretPeriodWrite ag r v s
  | .fretMark m => Sys2Proof.Machine.execFretMark m s
  | .vfStepRise r d => Sys2Proof.Machine.execVfStepRise r d s
  | .lateralPathChange edge lost fl => Sys2Proof.Machine.execLateralPathChange edge lost fl s
  | .mxLoad b => Sys2Proof.Machine.execMxLoad b s
  | .mxLoadPathStart b => Sys2Proof.Machine.execMxLoadPathStart b s
  | .mxLoadDone b => Sys2Proof.Machine.execMxLoadDone b s
  | .mxSwap b => Sys2Proof.Machine.execMxSwap b s
  | .mxSwapCycle b => Sys2Proof.Machine.execMxSwapCycle b s
  | .mxStream b => Sys2Proof.Machine.execMxStream b s
  | .mxRowFeed b granted errs parity => Sys2Proof.Machine.execMxRowFeed b granted errs parity s
  | .groupCheck b => Sys2Proof.Machine.execGroupCheck b s
  | .mxRowCommit b => Sys2Proof.Machine.execMxRowCommit b s
  | .feedPegRelease b => Sys2Proof.Machine.execFeedPegRelease b s
  | .mxDrain b n => Sys2Proof.Machine.execMxDrain b n s
  | .mxSeed b n => Sys2Proof.Machine.execMxSeed b n s
  | .mxCountClear ag b v => Sys2Proof.Machine.execMxCountClear ag b v s
  | .cmdPush b v => Sys2Proof.Machine.execCmdPush b v s
  | .spillRefill b e => Sys2Proof.Machine.execSpillRefill b e s
  | .tokenWaitEnd b e => Sys2Proof.Machine.execTokenWaitEnd b e s
  | .blkTokenErrClear ag b v => Sys2Proof.Machine.execBlkTokenErrClear ag b v s
  | .blkCplCtrlWrite ag b v => Sys2Proof.Machine.execBlkCplCtrlWrite ag b v s
  | .blkCplHeadWrite ag b v => Sys2Proof.Machine.execBlkCplHeadWrite ag b v s
  | .completionWrite b e => Sys2Proof.Machine.execCompletionWrite b e s
  | .veBinary b n err => Sys2Proof.Machine.execVeBinary b n err s
  | .veUnary b n => Sys2Proof.Machine.execVeUnary b n s
  | .veFma b n err => Sys2Proof.Machine.execVeFma b n err s
  | .veReduce b n err => Sys2Proof.Machine.execVeReduce b n err s
  | .veQuantMx b n => Sys2Proof.Machine.execVeQuantMx b n s
  | .veRawCombine b n err => Sys2Proof.Machine.execVeRawCombine b n err s
  | .lyTranspose b n => Sys2Proof.Machine.execLyTranspose b n s
  | .lyCopy2d b n => Sys2Proof.Machine.execLyCopy2d b n s
  | .lyPad b n => Sys2Proof.Machine.execLyPad b n s
  | .lyConvert b n => Sys2Proof.Machine.execLyConvert b n s
  | .gsGather b n => Sys2Proof.Machine.execGsGather b n s
  | .gsScatter b n => Sys2Proof.Machine.execGsScatter b n s
  | .gsLoad b n => Sys2Proof.Machine.execGsLoad b n s
  | .gsStore b n => Sys2Proof.Machine.execGsStore b n s
  | .skSort b n => Sys2Proof.Machine.execSkSort b n s
  | .skTopk b n => Sys2Proof.Machine.execSkTopk b n s
  | .blkStart ag b => Sys2Proof.Machine.execBlkStart ag b s
  | .blkHalt ag b => Sys2Proof.Machine.execBlkHalt ag b s
  | .blkReset ag b => Sys2Proof.Machine.execBlkReset ag b s
  | .blockResetRelease b => Sys2Proof.Machine.execBlockResetRelease b s
  | .seqDoubleTrap b => Sys2Proof.Machine.execSeqDoubleTrap b s
  | .blockMute b cause => Sys2Proof.Machine.execBlockMute b cause s
  | .blkCountClear ag b v => Sys2Proof.Machine.execBlkCountClear ag b v s
  | .blkAsyncErrClear ag b v => Sys2Proof.Machine.execBlkAsyncErrClear ag b v s
  | .hartLoad h a => Sys2Proof.Machine.execHartLoad h a s
  | .hartStore h a v hold => Sys2Proof.Machine.execHartStore h a v hold s
  | .hartAmo h a op v => Sys2Proof.Machine.execHartAmo h a op v s
  | .hartLr h a => Sys2Proof.Machine.execHartLr h a s
  | .hartSc h a v => Sys2Proof.Machine.execHartSc h a v s
  | .hartFence h pred succ tso => Sys2Proof.Machine.execHartFence h pred succ tso s
  | .fenceI h => Sys2Proof.Machine.execFenceI h s
  | .wfi h => Sys2Proof.Machine.execWfi h s
  | .wcEntryWriteout h line => Sys2Proof.Machine.execWcEntryWriteout h line s
  | .reservationExpire h => Sys2Proof.Machine.execReservationExpire h s
  | .mgmtCoreAsyncErrClear ag c v => Sys2Proof.Machine.execMgmtCoreAsyncErrClear ag c v s
  | .remoteWriteTimeout tag => Sys2Proof.Machine.execRemoteWriteTimeout tag s
  | .remoteLoadTimeout tag => Sys2Proof.Machine.execRemoteLoadTimeout tag s
  | .dmaEnable ag r c => Sys2Proof.Machine.execDmaEnable ag r c s
  | .dmaDisable ag r c => Sys2Proof.Machine.execDmaDisable ag r c s
  | .dmaPause ag r c => Sys2Proof.Machine.execDmaPause ag r c s
  | .dmaResume ag r c => Sys2Proof.Machine.execDmaResume ag r c s
  | .dmaAbort ag r c => Sys2Proof.Machine.execDmaAbort ag r c s
  | .dmaClearErr ag r c => Sys2Proof.Machine.execDmaClearErr ag r c s
  | .dmaDoorbell ag r c v => Sys2Proof.Machine.execDmaDoorbell ag r c v s
  | .descFetch r c => Sys2Proof.Machine.execDescFetch r c s
  | .descRefetch r c => Sys2Proof.Machine.execDescRefetch r c s
  | .copy r c n => Sys2Proof.Machine.execCopy r c n s
  | .fill r c n => Sys2Proof.Machine.execFill r c n s
  | .compare r c n => Sys2Proof.Machine.execCompare r c n s
  | .copy2d r c n => Sys2Proof.Machine.execCopy2d r c n s
  | .descFault r c => Sys2Proof.Machine.execDescFault r c s
  | .descWriteback r c => Sys2Proof.Machine.execDescWriteback r c s
  | .ringFault r c => Sys2Proof.Machine.execRingFault r c s
  | .pauseDrainEnd r c => Sys2Proof.Machine.execPauseDrainEnd r c s
  | .dmaChCountClear ag r c v => Sys2Proof.Machine.execDmaChCountClear ag r c v s
  | .pegSet ag p v => Sys2Proof.Machine.execPegSet ag p v s
  | .pegAdd ag p v => Sys2Proof.Machine.execPegAdd ag p v s
  | .pegRelAdd ag p sc v => Sys2Proof.Machine.execPegRelAdd ag p sc v s
  | .pegAcqRead ag p sc => Sys2Proof.Machine.execPegAcqRead ag p sc s
  | .pegCasExpect ag p v => Sys2Proof.Machine.execPegCasExpect ag p v s
  | .pegCas ag p v => Sys2Proof.Machine.execPegCas ag p v s
  | .pegStatusClear ag p v => Sys2Proof.Machine.execPegStatusClear ag p v s
  | .pegAccessFault ag addr size write amo => Sys2Proof.Machine.execPegAccessFault ag addr size write amo s
  | .watchArm ag v => Sys2Proof.Machine.execWatchArm ag v s
  | .watchDeliver r => Sys2Proof.Machine.execWatchDeliver r s
  | .watchExpire r key => Sys2Proof.Machine.execWatchExpire r key s
  | .watchCancel ag v => Sys2Proof.Machine.execWatchCancel ag v s
  | .watchEventRead ag => Sys2Proof.Machine.execWatchEventRead ag s
  | .eventQueueAdmit r => Sys2Proof.Machine.execEventQueueAdmit r s
  | .watchCountClear ag r v => Sys2Proof.Machine.execWatchCountClear ag r v s
  | .readShared k line victim => Sys2Proof.Machine.execReadShared k line victim s
  | .readUnique k line victim => Sys2Proof.Machine.execReadUnique k line victim s
  | .upgrade k line victim => Sys2Proof.Machine.execUpgrade k line victim s
  | .writeBack k line => Sys2Proof.Machine.execWriteBack k line s
  | .cleanEvict k line => Sys2Proof.Machine.execCleanEvict k line s
  | .engineRead port line => Sys2Proof.Machine.execEngineRead port line s
  | .engineWrite port line data => Sys2Proof.Machine.execEngineWrite port line data s
  | .engineMaskedWrite port line data mask => Sys2Proof.Machine.execEngineMaskedWrite port line data mask s
  | .engineAtomic port line off size op v => Sys2Proof.Machine.execEngineAtomic port line off size op v s
  | .snoop k line => Sys2Proof.Machine.execSnoop k line s
  | .homeTransactionComplete line => Sys2Proof.Machine.execHomeTransactionComplete line s
  | .grant r req => Sys2Proof.Machine.execGrant r req s
  | .scrubDone r => Sys2Proof.Machine.execScrubDone r s
  | .invalidationDone r => Sys2Proof.Machine.execInvalidationDone r s
  | .mgmtCohCountClear ag r v => Sys2Proof.Machine.execMgmtCohCountClear ag r v s
  | .eccUncorrectable e => Sys2Proof.Machine.execEccUncorrectable e s
  | .mapOut ag ch => Sys2Proof.Machine.execMapOut ag ch s
  | .testStart ag ch => Sys2Proof.Machine.execTestStart ag ch s
  | .testEnd ag ch => Sys2Proof.Machine.execTestEnd ag ch s
  | .maintSlot r seed lanes => Sys2Proof.Machine.execMaintSlot r seed lanes s
  | .marginCheckDone r m => Sys2Proof.Machine.execMarginCheckDone r m s
  | .retrainDone r m => Sys2Proof.Machine.execRetrainDone r m s
  | .groupRebuild ag r v => Sys2Proof.Machine.execGroupRebuild ag r v s
  | .rebuildDone r g => Sys2Proof.Machine.execRebuildDone r g s
  | .tgStart ag ch v => Sys2Proof.Machine.execTgStart ag ch v s
  | .tgDone ch errs => Sys2Proof.Machine.execTgDone ch errs s
  | .patRead ag r v => Sys2Proof.Machine.execPatRead ag r v s
  | .patWrite ag r v => Sys2Proof.Machine.execPatWrite ag r v s
  | .setCopyValid ag r v => Sys2Proof.Machine.execSetCopyValid ag r v s
  | .clearCopyValid ag r v => Sys2Proof.Machine.execClearCopyValid ag r v s
  | .patCmdDone r => Sys2Proof.Machine.execPatCmdDone r s
  | .mgmtRegCfgWrite ag r q p v => Sys2Proof.Machine.execMgmtRegCfgWrite ag r q p v s
  | .tokenRefill r => Sys2Proof.Machine.execTokenRefill r s
  | .mgmtMemCountClear ag r v => Sys2Proof.Machine.execMgmtMemCountClear ag r v s
  | .portEnable ag k => Sys2Proof.Machine.execPortEnable ag k s
  | .portDisable ag k => Sys2Proof.Machine.execPortDisable ag k s
  | .retrain ag k => Sys2Proof.Machine.execRetrain ag k s
  | .trainingAttemptEnd k txGood rxGood reversed inverted peer missing => Sys2Proof.Machine.execTrainingAttemptEnd k txGood rxGood reversed inverted peer missing s
  | .flitReceive k f => Sys2Proof.Machine.execFlitReceive k f s
  | .retryReq k seq => Sys2Proof.Machine.execRetryReq k seq s
  | .retryReqRepeat k => Sys2Proof.Machine.execRetryReqRepeat k s
  | .linkFailure k => Sys2Proof.Machine.execLinkFailure k s
  | .hello k h => Sys2Proof.Machine.execHello k h s
  | .elect k key hops => Sys2Proof.Machine.execElect k key hops s
  | .reportTimer => Sys2Proof.Machine.execReportTimer s
  | .report k rep => Sys2Proof.Machine.execReport k rep s
  | .fabricSettle => Sys2Proof.Machine.execFabricSettle s
  | .map k m => Sys2Proof.Machine.execMap k m s
  | .beat k m => Sys2Proof.Machine.execBeat k m s
  | .beatSend => Sys2Proof.Machine.execBeatSend s
  | .leaderLost => Sys2Proof.Machine.execLeaderLost s
  | .join k rep => Sys2Proof.Machine.execJoin k rep s
  | .portEvent serial port oldState newState => Sys2Proof.Machine.execPortEvent serial port oldState newState s
  | .portDownTimeout k => Sys2Proof.Machine.execPortDownTimeout k s
  | .routeSwitch => Sys2Proof.Machine.execRouteSwitch s
  | .fabricPacketArrive k p => Sys2Proof.Machine.execFabricPacketArrive k p s
  | .fabricRead p => Sys2Proof.Machine.execFabricRead p s
  | .fabricWrite p => Sys2Proof.Machine.execFabricWrite p s
  | .maskedWrite p => Sys2Proof.Machine.execMaskedWrite p s
  | .atomic p => Sys2Proof.Machine.execAtomic p s
  | .pegOp p => Sys2Proof.Machine.execPegOp p s
  | .readData tag status data => Sys2Proof.Machine.execReadData tag status data s
  | .writeAck tag status => Sys2Proof.Machine.execWriteAck tag status s
  | .atomicData tag status v => Sys2Proof.Machine.execAtomicData tag status v s
  | .routeLoad ag v => Sys2Proof.Machine.execRouteLoad ag v s
  | .fabPortCountClear ag k v => Sys2Proof.Machine.execFabPortCountClear ag k v s
  | .timeReqSend k t1 => Sys2Proof.Machine.execTimeReqSend k t1 s
  | .timeReq k p t2 t3 => Sys2Proof.Machine.execTimeReq k p t2 t3 s
  | .timeResp k p t4 => Sys2Proof.Machine.execTimeResp k p t4 s
  | .timeRespLost k => Sys2Proof.Machine.execTimeRespLost k s
  | .epochAdopt count m => Sys2Proof.Machine.execEpochAdopt count m s
  | .strumLoad ag r c => Sys2Proof.Machine.execStrumLoad ag r c s
  | .strumLoadDone r c => Sys2Proof.Machine.execStrumLoadDone r c s
  | .strumStart ag r c => Sys2Proof.Machine.execStrumStart ag r c s
  | .strumAbort ag r c => Sys2Proof.Machine.execStrumAbort ag r c s
  | .strumUnload ag r c => Sys2Proof.Machine.execStrumUnload ag r c s
  | .slotStart slot => Sys2Proof.Machine.execSlotStart slot s
  | .schedFlit k f => Sys2Proof.Machine.execSchedFlit k f s
  | .strumRunEnd r c => Sys2Proof.Machine.execStrumRunEnd r c s
  | .peerSilent r c entry => Sys2Proof.Machine.execPeerSilent r c entry s
  | .fabCollAbort ag v => Sys2Proof.Machine.execFabCollAbort ag v s
  | .fabCollCountClear ag r v => Sys2Proof.Machine.execFabCollCountClear ag r v s
  | .hostLinkUp r l => Sys2Proof.Machine.execHostLinkUp r l s
  | .hostLinkDown r k => Sys2Proof.Machine.execHostLinkDown r k s
  | .hostLoss r cause => Sys2Proof.Machine.execHostLoss r cause s
  | .hostLossDone r linkInL0 => Sys2Proof.Machine.execHostLossDone r linkInL0 s
  | .memorySpaceEnableSet r => Sys2Proof.Machine.execMemorySpaceEnableSet r s
  | .memorySpaceEnableClear r => Sys2Proof.Machine.execMemorySpaceEnableClear r s
  | .hostBar0Access r f off size write => Sys2Proof.Machine.execHostBar0Access r f off size write s
  | .hostPegAtomic r f off size op v => Sys2Proof.Machine.execHostPegAtomic r f off size op v s
  | .hostBar2Read r f off n => Sys2Proof.Machine.execHostBar2Read r f off n s
  | .hostBar2Write r f off data attr => Sys2Proof.Machine.execHostBar2Write r f off data attr s
  | .hostBar2Atomic r f off size op v => Sys2Proof.Machine.execHostBar2Atomic r f off size op v s
  | .hostFnBar2SlideWrite r f v => Sys2Proof.Machine.execHostFnBar2SlideWrite r f v s
  | .hostOwnershipWrite ag r f word v => Sys2Proof.Machine.execHostOwnershipWrite ag r f word v s
  | .rootPortLinkDown r k => Sys2Proof.Machine.execRootPortLinkDown r k s
  | .hostRpCtrlEnable ag r k v => Sys2Proof.Machine.execHostRpCtrlEnable ag r k v s
  | .deviceAerError r k reqId => Sys2Proof.Machine.execDeviceAerError r k reqId s
  | .deviceInboundRequest r k reqId pasid addr storage n write => Sys2Proof.Machine.execDeviceInboundRequest r k reqId pasid addr storage n write s
  | .tagOpen ag r => Sys2Proof.Machine.execTagOpen ag r s
  | .tagClose ag r => Sys2Proof.Machine.execTagClose ag r s
  | .tagQuery ag r => Sys2Proof.Machine.execTagQuery ag r s
  | .tagBackup => Sys2Proof.Machine.execTagBackup s
  | .intervalClose => Sys2Proof.Machine.execIntervalClose s
  | .signToken => Sys2Proof.Machine.execSignToken s
  | .signDone => Sys2Proof.Machine.execSignDone s
  | .ledgerAppend => Sys2Proof.Machine.execLedgerAppend s
  | .pageProgram => Sys2Proof.Machine.execPageProgram s
  | .kilnRingHeadWrite ag r v => Sys2Proof.Machine.execKilnRingHeadWrite ag r v s
  | .kilnAckSeqWrite ag r v => Sys2Proof.Machine.execKilnAckSeqWrite ag r v s
  | .ledgerCompact upTo => Sys2Proof.Machine.execLedgerCompact upTo s
  | .kilnCountClear ag r v => Sys2Proof.Machine.execKilnCountClear ag r v s
  | .inputLoss => Sys2Proof.Machine.execInputLoss s
  | .inputLow volts => Sys2Proof.Machine.execInputLow volts s
  | .inputOvervoltage => Sys2Proof.Machine.execInputOvervoltage s
  | .inputOvercurrent => Sys2Proof.Machine.execInputOvercurrent s
  | .railFault r rail cause => Sys2Proof.Machine.execRailFault r rail cause s
  | .pwrModuleLimitWrite ag r v => Sys2Proof.Machine.execPwrModuleLimitWrite ag r v s
  | .pwrDomainWrite ag r d v => Sys2Proof.Machine.execPwrDomainWrite ag r d v s
  | .budgetMessage r p f d => Sys2Proof.Machine.execBudgetMessage r p f d s
  | .budgetGrant p => Sys2Proof.Machine.execBudgetGrant p s
  | .railOvercurrent r rail => Sys2Proof.Machine.execRailOvercurrent r rail s
  | .droopDetect h cycles => Sys2Proof.Machine.execDroopDetect h cycles s
  | .droopRecover h => Sys2Proof.Machine.execDroopRecover h s
  | .thermalSample r die celsius => Sys2Proof.Machine.execThermalSample r die celsius s
  | .thermalTrip => Sys2Proof.Machine.execThermalTrip s
  | .coolantAlarm => Sys2Proof.Machine.execCoolantAlarm s
  | .pwrCountClear ag v => Sys2Proof.Machine.execPwrCountClear ag v s
  | .xchkDone a b da db third => Sys2Proof.Machine.execXchkDone a b da db third s
  | .xchkThirdTimeout a b => Sys2Proof.Machine.execXchkThirdTimeout a b s
  | .tuningCheckEnd b passed => Sys2Proof.Machine.execTuningCheckEnd b passed s
  | .blkMute ag r b => Sys2Proof.Machine.execBlkMute ag r b s
  | .blkRelease ag r b => Sys2Proof.Machine.execBlkRelease ag r b s
  | .mgmtEvidRelease ag r v => Sys2Proof.Machine.execMgmtEvidRelease ag r v s
  | .packRun cls unit => Sys2Proof.Machine.execPackRun cls unit s
  | .packResult cls unit passed => Sys2Proof.Machine.execPackResult cls unit passed s
  | .d2dFlitCrcError link lane => Sys2Proof.Machine.execD2dFlitCrcError link lane s
  | .d2dLaneMapExchange link m => Sys2Proof.Machine.execD2dLaneMapExchange link m s
  | .heartbeat link => Sys2Proof.Machine.execHeartbeat link s
  | .dieLost r die reason => Sys2Proof.Machine.execDieLost r die reason s
  | .regionLost r reason => Sys2Proof.Machine.execRegionLost r reason s
  | .rejoin ag r die => Sys2Proof.Machine.execRejoin ag r die s
  | .rejoinDone r die => Sys2Proof.Machine.execRejoinDone r die s
  | .rejoinTimeout r die => Sys2Proof.Machine.execRejoinTimeout r die s
  | .mgmtErrCountClear ag r v => Sys2Proof.Machine.execMgmtErrCountClear ag r v s
  | .auxPowerUp slotId reversedSeen => Sys2Proof.Machine.execAuxPowerUp slotId reversedSeen s
  | .auxPowerDown => Sys2Proof.Machine.execAuxPowerDown s
  | .autoBoot => Sys2Proof.Machine.execAutoBoot s
  | .boot img => Sys2Proof.Machine.execBoot img s
  | .bootStepTimeout => Sys2Proof.Machine.execBootStepTimeout s
  | .mbxGo ag sl m => Sys2Proof.Machine.execMbxGo ag sl m s
  | .mbxAck ag sl => Sys2Proof.Machine.execMbxAck ag sl s
  | .mbxResponse => Sys2Proof.Machine.execMbxResponse s
  | .i3cPrivateWrite bytes => Sys2Proof.Machine.execI3cPrivateWrite bytes s
  | .i3cPrivateRead n => Sys2Proof.Machine.execI3cPrivateRead n s
  | .entdaa da => Sys2Proof.Machine.execEntdaa da s
  | .rstdaa => Sys2Proof.Machine.execRstdaa s
  | .setnewda da => Sys2Proof.Machine.execSetnewda da s
  | .getpid => Sys2Proof.Machine.execGetpid s
  | .getbcr => Sys2Proof.Machine.execGetbcr s
  | .getdcr => Sys2Proof.Machine.execGetdcr s
  | .getstatus => Sys2Proof.Machine.execGetstatus s
  | .getmwl => Sys2Proof.Machine.execGetmwl s
  | .getmrl => Sys2Proof.Machine.execGetmrl s
  | .enec events => Sys2Proof.Machine.execEnec events s
  | .disec events => Sys2Proof.Machine.execDisec events s
  | .getStatus sl m => Sys2Proof.Machine.execGetStatus sl m s
  | .getIdentity sl m => Sys2Proof.Machine.execGetIdentity sl m s
  | .getCert sl m => Sys2Proof.Machine.execGetCert sl m s
  | .getEvent sl m => Sys2Proof.Machine.execGetEvent sl m s
  | .coldBoot sl m => Sys2Proof.Machine.execColdBoot sl m s
  | .warmReset sl m => Sys2Proof.Machine.execWarmReset sl m s
  | .powerOff sl m => Sys2Proof.Machine.execPowerOff sl m s
  | .run sl m => Sys2Proof.Machine.execRun sl m s
  | .quiesce sl m => Sys2Proof.Machine.execQuiesce sl m s
  | .resume sl m => Sys2Proof.Machine.execResume sl m s
  | .overrideSet sl m => Sys2Proof.Machine.execOverrideSet sl m s
  | .overrideGet sl m => Sys2Proof.Machine.execOverrideGet sl m s
  | .overrideClear sl m => Sys2Proof.Machine.execOverrideClear sl m s
  | .journalCompact => Sys2Proof.Machine.execJournalCompact s
  | .imageWrite sl m => Sys2Proof.Machine.execImageWrite sl m s
  | .imageCommit sl m v => Sys2Proof.Machine.execImageCommit sl m v s
  | .coreOffline sl m => Sys2Proof.Machine.execCoreOffline sl m s
  | .coreOnline sl m passed => Sys2Proof.Machine.execCoreOnline sl m passed s
  | .coreClearFail sl m => Sys2Proof.Machine.execCoreClearFail sl m s
  | .muteListGet sl m => Sys2Proof.Machine.execMuteListGet sl m s
  | .muteListRemove sl m => Sys2Proof.Machine.execMuteListRemove sl m s
  | .evidenceRead sl m => Sys2Proof.Machine.execEvidenceRead sl m s
  | .evidenceRelease sl m => Sys2Proof.Machine.execEvidenceRelease sl m s
  | .fuseRearm sl m => Sys2Proof.Machine.execFuseRearm sl m s
  | .ledgerRead sl m => Sys2Proof.Machine.execLedgerRead sl m s
  | .debugUnlock sl m nonce sigOk => Sys2Proof.Machine.execDebugUnlock sl m nonce sigOk s
  | .hostOutboundCompletion tag status data => Sys2Proof.Machine.execHostOutboundCompletion tag status data s
  | .hostLinkRecovery r k => Sys2Proof.Machine.execHostLinkRecovery r k s
  | .rootPortLinkUp r k l => Sys2Proof.Machine.execRootPortLinkUp r k l s
  | .configurationWrite r f busMaster memEnable bar2Log2 => Sys2Proof.Machine.execConfigurationWrite r f busMaster memEnable bar2Log2 s
  | .interruptTrap h => Sys2Proof.Machine.execInterruptTrap h s
  | .inputReversed => Sys2Proof.Machine.execInputReversed s
  | .jtagInstruction boundaryScan => Sys2Proof.Machine.execJtagInstruction boundaryScan s

end Sys2Proof.Machine
end

