-- ==== Sys2Proof/Safety.lean ====
section
/-!
DEFINITION. What a safe step is, in the terms that the statements use.
-/
namespace Sys2Proof.Machine

/-- A command completes in a state: it answers a next state. -/
def Completes (i : Instr) (s : State) : Prop := ∃ t, exec i s = .next t

/-- Commands that Uluell and the power stage take whether the dies run or not (R454, R504); the dies take every other one, and
only while they run (log 7). -/
def takenWithoutRails : Instr → Bool
  | .signToken | .signDone | .ledgerAppend | .pageProgram | .ledgerCompact _ | .auxPowerUp _ _ | .auxPowerDown
  | .autoBoot | .boot _ | .bootStepTimeout | .mbxGo _ _ _ | .mbxAck _ _ | .mbxResponse | .i3cPrivateWrite _
  | .i3cPrivateRead _ | .entdaa _ | .rstdaa | .setnewda _ | .getpid | .getbcr | .getdcr | .getstatus | .getmwl
  | .getmrl | .enec _ | .disec _ | .getStatus _ _ | .getIdentity _ _ | .getCert _ _ | .getEvent _ _ | .coldBoot _ _
  | .warmReset _ _ | .powerOff _ _ | .run _ _ | .quiesce _ _ | .resume _ _ | .overrideSet _ _ | .overrideGet _ _
  | .overrideClear _ _ | .journalCompact | .imageWrite _ _ | .imageCommit _ _ _ | .coreOffline _ _ | .coreOnline _ _ _
  | .coreClearFail _ _ | .muteListGet _ _ | .muteListRemove _ _ | .evidenceRead _ _ | .evidenceRelease _ _
  | .fuseRearm _ _ | .ledgerRead _ _ | .debugUnlock _ _ _ _ | .jtagInstruction _ | .inputLoss | .inputLow _
  | .inputOvervoltage | .inputOvercurrent | .thermalTrip | .inputReversed => true
  | _ => false

/-- Commands that set the fret counter: the fret mark and the adoption of an epoch (R36), and those that reset the package,
where the counter starts anew (R504, R505). -/
def setsFret : Instr → Bool
  | .fretMark _ | .epochAdopt _ _ | .coldBoot _ _ | .warmReset _ _ | .powerOff _ _ | .autoBoot | .thermalTrip | .inputLoss
  | .inputOvervoltage | .inputOvercurrent | .inputReversed => true
  | _ => false

/-- `t` is `s` but for what reporting an event touches (R522, Table 16.11): the mailbox slots, the pegs that their signals
release-add to with the watches and counters on them, the error log of a signal to a lost peg, and the wires. -/
def SameButReports (s t : State) : Prop :=
  t = { s with mgmt := t.mgmt, pegs := t.pegs, watches := t.watches, gens := t.gens, fired := t.fired, regs := t.regs,
               errLog := t.errLog, outbox := t.outbox } ∧
  t.mgmt = { s.mgmt with i3c := t.mgmt.i3c, host := t.mgmt.host, core := t.mgmt.core }

/-- What an accepted request to a line leaves, where no cache holds the line, no transaction uses it and its directory set has
room (Table 8.2, directory I): `t` after the request, `u` without it. -/
def ServedAtOnce (u : State) (line : Nat) (q : CReq) (t : State) : Prop :=
  let old := u.memLine line
  let seen := u.patLookup (line * 128)
  let filled (dirty : Bool) : Prop := let f := seen.slcFill line dirty
    t.slc = f.slc ∧ t.slcDirty = f.slcDirty ∧ t.freeCount = f.freeCount
  let unfilled : Prop := t.slc = u.slc ∧ t.slcDirty = u.slcDirty ∧ t.freeCount = seen.freeCount
  let same : Prop := t.caches = u.caches ∧ t.evicting = u.evicting
  let read (k : Nat) : Prop := t.mem = u.mem ∧ t.poison = u.poison ∧ t.engineData = u.engineData ∧ filled false ∧
    t.caches = u.caches.set (k, line) ⟨.exclusive, old⟩ ∧ t.evicting = u.evicting ∧
    t.dir = u.dir.set line (.excl k) ∧ t.dirOrder = u.dirOrder ++ [line]
  let untracked : Prop := t.dir = u.dir.erase line ∧ t.dirOrder = u.dirOrder.erase line
  let written (l : Line) : Prop := same ∧ filled true ∧ untracked ∧ t.mem = (u.putLine line l).mem ∧
    t.poison = (u.putLine line l).poison
  t = { u with
    regs := t.regs, mem := t.mem, poison := t.poison, dir := t.dir, dirOrder := t.dirOrder, caches := t.caches,
    evicting := t.evicting, slc := t.slc, slcDirty := t.slcDirty, freeCount := t.freeCount, pat := t.pat,
    buckets := t.buckets, engineData := t.engineData, errLog := t.errLog, patCache := t.patCache } ∧
  t.patCache = seen.patCache ∧
  match q with
  | .readShared k | .readUnique k | .upgrade k => read k ∧ t.errLog = u.errLog
  | .eRead p => same ∧ t.mem = u.mem ∧ t.poison = u.poison ∧ t.dir = u.dir ∧ t.dirOrder = u.dirOrder ∧ unfilled ∧
      t.pat = u.pat ∧ t.engineData = u.engineData.set p old ∧ t.errLog = u.errLog
  | .eWrite _ d => written { data := d } ∧ t.engineData = u.engineData ∧ t.errLog = u.errLog
  | .eMasked _ d m => written (old.merge d m) ∧ t.engineData = u.engineData ∧ t.errLog = u.errLog
  | .eAtomic p off size op v => t.engineData = u.engineData.set p old ∧
      (old.bad off size = false →
        written (old.put off size (atomResult op size (old.get off size) v.toNat)) ∧ t.errLog = u.errLog) ∧
      (old.bad off size = true → same ∧ t.mem = u.mem ∧ t.poison = u.poison ∧ untracked ∧ unfilled)
  | .writeBack _ | .cleanEvict _ | .backInval => False

end Sys2Proof.Machine
end

