-- ==== Sys2Proof/Certificates/Slice0/Obligations.lean ====
section
/-!
DEFINITION. The statements for the provers, in the order of OBLIGATIONS.json. `s.noted t` is `t` followed by the reports that
a command's effect brings (R522, Table 16.11); `exec c s = .next t` says that the command completes with `t`.
-/

open Sys2Proof Sys2Proof.Machine

/-! ### Steps, reset and what every command leaves -/

/-- A step executes the command at the front of the queue on the state with the rest of the queue, or ticks. Rests on
00_scope.md. With a command at the front of the queue, the step is that command's execution on the state whose queue
holds the rest. On an empty queue the step is a tick, and the queue stays empty; while the dies do not run a tick
changes nothing (log 3, the model's choice). No row of the table gives bits, so no word spells a command, and
withFetchWord changes nothing. -/
def Obligations.StepsTakeTheFrontCommand : Prop :=
  (∀ (s : State) (c : Instr) (rest : List Instr), s.pending = c :: rest → step s = exec c { s with pending := rest }) ∧
  (∀ (s : State) (c : Instr) (t : State), exec c s = .next t → step { s with pending := c :: s.pending } = .next t) ∧
  (∀ (s : State), s.pending = [] → step s = .next s.tick ∧ s.tick.pending = []) ∧
  (∀ (s : State), s.pending = [] → s.powered = false → step s = .next s) ∧
  (∀ (s : State) (nbits w : Nat), decodeTableWord nbits w = none ∧ s.withFetchWord nbits w = s)

/-- The state after reset: the module in OFF, no command waiting, memory empty, every peg 0. Rests on R36, R219, R504,
R505. After reset the module is in OFF with no step of a boot, no command waits, the fret counter is 0 with no epoch
set, every peg reads 0 with no releaser recorded, no watch is armed, no cache, directory or block holds anything, no
mailbox slot holds a request, the memory lists nothing and is in its canonical form. That a module starts in OFF is
the model's choice (log 5, log 6). -/
def Obligations.ResetLeavesTheModuleOff : Prop :=
  let s := State.reset
  s.mgmt.state = .off ∧ s.mgmt.bootStep = 0 ∧ s.pending = [] ∧ s.fret = 0 ∧ s.epochSet = false ∧ s.powered = false ∧
  (∀ p, (s.peg p).value = 0 ∧ (s.peg p).lastRel = false) ∧ s.watches = [] ∧ s.caches = [] ∧ s.dir = [] ∧ s.slc = [] ∧ s.blocks = [] ∧
  s.mgmt.requests = [] ∧ (∀ sl, (s.mailbox sl).state = .idle ∧ (s.mailbox sl).events = []) ∧ s.muteList = [] ∧
  s.mem = [] ∧ Memory.wf s.mem = true ∧ ∀ a, Memory.read s.mem a = memDefault

/-- Every well-formed command completes in every state with its effect, an ill-formed one changes nothing, and the dies act
only while they run. Rests on R453, R504, 00_scope.md. Whatever the state, a command answers a next state: it never
faults and is never refused. One with an operand out of its range names a unit that the module does not have, and
nothing changes (log 9, the model's reading). While the dies do not run, a command of the dies changes nothing (log 7,
the model's reading). Each well-formed command of Uluell and the power stage completes in every state, and each one of
the dies in every state in which they run, with the operation written beside it, whose effect the statements of its
family give; `noted` adds the reports of R522. -/
def Obligations.WellFormedCommandsAlwaysComplete : Prop :=
  (∀ (c : Instr) (s : State),
    (c.wf = true → Completes c s) ∧
    (c.wf = false → exec c s = .next s) ∧
    (c.wf = true → s.powered = false → takenWithoutRails c = false → exec c s = .next s)) ∧
  (∀ (s : State),
    (exec .signToken s = .next (s.signToken)) ∧
    (exec .signDone s = .next (s.signDone)) ∧
    (exec .ledgerAppend s = .next (s.ledgerAppend)) ∧
    (exec .pageProgram s = .next (s.pageProgram)) ∧
    (exec .inputLoss s = .next (s.inputLoss)) ∧
    (exec .inputOvervoltage s = .next (s.inputOvervoltage)) ∧
    (exec .inputOvercurrent s = .next (s.inputOvercurrent)) ∧
    (exec .thermalTrip s = .next (s.thermalTrip)) ∧
    (exec .auxPowerDown s = .next (s.auxPowerDown)) ∧
    (exec .autoBoot s = .next (s.autoBoot)) ∧
    (exec .bootStepTimeout s = .next (s.bootTimeout)) ∧
    (exec .mbxResponse s = .next (s.mbxResponse)) ∧
    (exec .rstdaa s = .next (s.rstdaa)) ∧
    (exec .getpid s = .next (s.cccRead (leBytes 6 s.provisionedId).reverse)) ∧
    (exec .getbcr s = .next (s.cccRead [0x0E])) ∧
    (exec .getdcr s = .next (s.cccRead [0x00])) ∧
    (exec .getstatus s = .next (s.cccRead (leBytes 2 (Config.i3cStatus s.alert)).reverse)) ∧
    (exec .getmwl s = .next (s.cccRead [0x02, 0x08])) ∧
    (exec .getmrl s = .next (s.cccRead [0x02, 0x08])) ∧
    (exec .journalCompact s = .next (s.journalCompact)) ∧
    (exec .inputReversed s = .next (s.inputReversed)) ∧
    (∀ (upTo : Nat), (Instr.ledgerCompact upTo).wf = true → exec (.ledgerCompact upTo) s = .next (s.ledgerCompact upTo)) ∧
    (∀ (volts : Nat), (Instr.inputLow volts).wf = true → exec (.inputLow volts) s = .next (s.inputLow volts)) ∧
    (∀ (slotId : Nat) (reversedSeen : Bool), (Instr.auxPowerUp slotId reversedSeen).wf = true → exec (.auxPowerUp slotId reversedSeen) s = .next (s.auxPowerUp slotId reversedSeen)) ∧
    (∀ (i : BootInput), (Instr.boot i).wf = true → exec (.boot i) s = .next (s.noted (s.boot i))) ∧
    (∀ (ag : Agent) (sl : Slot) (m : Msg), (Instr.mbxGo ag sl m).wf = true → exec (.mbxGo ag sl m) s = .next (s.mbxGo ag sl m)) ∧
    (∀ (ag : Agent) (sl : Slot), (Instr.mbxAck ag sl).wf = true → exec (.mbxAck ag sl) s = .next (s.mbxAck ag sl)) ∧
    (∀ (bytes : List Byte), (Instr.i3cPrivateWrite bytes).wf = true → exec (.i3cPrivateWrite bytes) s = .next (s.i3cWrite bytes)) ∧
    (∀ (n : Nat), (Instr.i3cPrivateRead n).wf = true → exec (.i3cPrivateRead n) s = .next (s.i3cRead n)) ∧
    (∀ (da : Nat),
      ((Instr.entdaa da).wf = true → exec (.entdaa da) s = .next (s.entdaa da)) ∧
      ((Instr.setnewda da).wf = true → exec (.setnewda da) s = .next (s.setnewda da))) ∧
    (∀ (events : Nat),
      ((Instr.enec events).wf = true → exec (.enec events) s = .next (s.ibiSet events true)) ∧
      ((Instr.disec events).wf = true → exec (.disec events) s = .next (s.ibiSet events false))) ∧
    (∀ (sl : Slot) (m : Msg),
      ((Instr.getStatus sl m).wf = true → exec (.getStatus sl m) s = .next (s.getStatus sl m)) ∧
      ((Instr.getIdentity sl m).wf = true → exec (.getIdentity sl m) s = .next (s.getIdentity sl m)) ∧
      ((Instr.getCert sl m).wf = true → exec (.getCert sl m) s = .next (s.getCert sl m)) ∧
      ((Instr.getEvent sl m).wf = true → exec (.getEvent sl m) s = .next (s.getEvent sl m)) ∧
      ((Instr.coldBoot sl m).wf = true → exec (.coldBoot sl m) s = .next (s.coldBoot sl m)) ∧
      ((Instr.warmReset sl m).wf = true → exec (.warmReset sl m) s = .next (s.warmReset sl m)) ∧
      ((Instr.powerOff sl m).wf = true → exec (.powerOff sl m) s = .next (s.powerOff sl m)) ∧
      ((Instr.run sl m).wf = true → exec (.run sl m) s = .next (s.runCmd sl m)) ∧
      ((Instr.quiesce sl m).wf = true → exec (.quiesce sl m) s = .next (s.quiesceCmd sl m)) ∧
      ((Instr.resume sl m).wf = true → exec (.resume sl m) s = .next (s.resumeCmd sl m)) ∧
      ((Instr.overrideSet sl m).wf = true → exec (.overrideSet sl m) s = .next (s.overrideSet sl m)) ∧
      ((Instr.overrideGet sl m).wf = true → exec (.overrideGet sl m) s = .next (s.overrideGet sl m)) ∧
      ((Instr.overrideClear sl m).wf = true → exec (.overrideClear sl m) s = .next (s.overrideClear sl m)) ∧
      ((Instr.imageWrite sl m).wf = true → exec (.imageWrite sl m) s = .next (s.imageWrite sl m)) ∧
      ((Instr.coreOffline sl m).wf = true → exec (.coreOffline sl m) s = .next (s.coreOffline sl m)) ∧
      ((Instr.coreClearFail sl m).wf = true → exec (.coreClearFail sl m) s = .next (s.coreClearFail sl m)) ∧
      ((Instr.muteListGet sl m).wf = true → exec (.muteListGet sl m) s = .next (s.muteListGet sl m)) ∧
      ((Instr.muteListRemove sl m).wf = true → exec (.muteListRemove sl m) s = .next (s.muteListRemove sl m)) ∧
      ((Instr.evidenceRead sl m).wf = true → exec (.evidenceRead sl m) s = .next (s.evidenceRead sl m)) ∧
      ((Instr.evidenceRelease sl m).wf = true → exec (.evidenceRelease sl m) s = .next (s.evidenceRelease sl m)) ∧
      ((Instr.fuseRearm sl m).wf = true → exec (.fuseRearm sl m) s = .next (s.fuseRearm sl m)) ∧
      ((Instr.ledgerRead sl m).wf = true → exec (.ledgerRead sl m) s = .next (s.ledgerRead sl m))) ∧
    (∀ (sl : Slot) (m : Msg) (v : Verdict), (Instr.imageCommit sl m v).wf = true → exec (.imageCommit sl m v) s = .next (s.imageCommit sl m v)) ∧
    (∀ (sl : Slot) (m : Msg) (passed : Bool), (Instr.coreOnline sl m passed).wf = true → exec (.coreOnline sl m passed) s = .next (s.coreOnline sl m passed)) ∧
    (∀ (sl : Slot) (m : Msg) (nonce : List Byte) (sigOk : Bool), (Instr.debugUnlock sl m nonce sigOk).wf = true → exec (.debugUnlock sl m nonce sigOk) s = .next (s.debugUnlock sl m nonce sigOk)) ∧
    (∀ (boundaryScan : Bool), (Instr.jtagInstruction boundaryScan).wf = true → exec (.jtagInstruction boundaryScan) s = .next (s.jtag boundaryScan))) ∧
  (∀ (s : State), s.powered = true →
    (∀ (ag : Agent) (addr : Nat) (v : W64), (Instr.registerWrite ag addr v).wf = true → exec (.registerWrite ag addr v) s = .next (s.writeAddr ag addr v)) ∧
    (∀ (ag : Agent) (addr size : Nat) (write : Bool), (Instr.misalignedRegAccess ag addr size write).wf = true → exec (.misalignedRegAccess ag addr size write) s = .next (s.misalignedAccess ag addr size write)) ∧
    (∀ (ag : Agent) (r : Nat) (v : W64),
      ((Instr.fabFretPeriodWrite ag r v).wf = true → exec (.fabFretPeriodWrite ag r v) s = .next (s.periodWrite ag r v)) ∧
      ((Instr.watchCountClear ag r v).wf = true → exec (.watchCountClear ag r v) s = .next (s.countClear v (State.watchCounters r))) ∧
      ((Instr.mgmtCohCountClear ag r v).wf = true → exec (.mgmtCohCountClear ag r v) s = .next (s.countClear v (State.cohCounters r))) ∧
      ((Instr.groupRebuild ag r v).wf = true → exec (.groupRebuild ag r v) s = .next (s.groupCtrlWrite ag r v)) ∧
      ((Instr.patRead ag r v).wf = true → exec (.patRead ag r v) s = .next (s.patCmdWrite ag r (setBits v 1 0 0))) ∧
      ((Instr.patWrite ag r v).wf = true → exec (.patWrite ag r v) s = .next (s.patCmdWrite ag r (setBits v 1 0 1))) ∧
      ((Instr.setCopyValid ag r v).wf = true → exec (.setCopyValid ag r v) s = .next (s.patCmdWrite ag r (setBits v 1 0 2))) ∧
      ((Instr.clearCopyValid ag r v).wf = true → exec (.clearCopyValid ag r v) s = .next (s.patCmdWrite ag r (setBits v 1 0 3))) ∧
      ((Instr.mgmtMemCountClear ag r v).wf = true → exec (.mgmtMemCountClear ag r v) s = .next (s.countClear v (State.memCounters r))) ∧
      ((Instr.fabCollCountClear ag r v).wf = true → exec (.fabCollCountClear ag r v) s = .next (s.countClear v (State.collCounters r))) ∧
      ((Instr.kilnRingHeadWrite ag r v).wf = true → exec (.kilnRingHeadWrite ag r v) s = .next (s.ringHeadWrite ag r v)) ∧
      ((Instr.kilnAckSeqWrite ag r v).wf = true → exec (.kilnAckSeqWrite ag r v) s = .next (s.ackSeqWrite ag r v)) ∧
      ((Instr.kilnCountClear ag r v).wf = true → exec (.kilnCountClear ag r v) s = .next (s.countClear v (State.kilnCounters r))) ∧
      ((Instr.pwrModuleLimitWrite ag r v).wf = true → exec (.pwrModuleLimitWrite ag r v) s = .next (s.moduleLimitWrite ag r v)) ∧
      ((Instr.mgmtEvidRelease ag r v).wf = true → exec (.mgmtEvidRelease ag r v) s = .next (s.evidRelease r v)) ∧
      ((Instr.mgmtErrCountClear ag r v).wf = true → exec (.mgmtErrCountClear ag r v) s = .next (s.countClear v (State.errCounters r)))) ∧
    (∀ (m : MarkInput), (Instr.fretMark m).wf = true → exec (.fretMark m) s = .next (s.noted (s.fretMark m))) ∧
    (∀ (r d : Nat), (Instr.vfStepRise r d).wf = true → exec (.vfStepRise r d) s = .next (s.vfStepRise r d)) ∧
    (∀ (edge lost : Option Nat) (fl : List LateralFlit), (Instr.lateralPathChange edge lost fl).wf = true → exec (.lateralPathChange edge lost fl) s = .next (if s.pathChanged edge lost then s.pathChange edge lost fl else s)) ∧
    (∀ (b : Nat),
      ((Instr.mxLoad b).wf = true → exec (.mxLoad b) s = .next (s.mxLoad b)) ∧
      ((Instr.mxLoadPathStart b).wf = true → exec (.mxLoadPathStart b) s = .next (s.mxLoadPathStart b)) ∧
      ((Instr.mxLoadDone b).wf = true → exec (.mxLoadDone b) s = .next (s.mxLoadDone b)) ∧
      ((Instr.mxSwap b).wf = true → exec (.mxSwap b) s = .next (s.mxSwap b)) ∧
      ((Instr.mxSwapCycle b).wf = true → exec (.mxSwapCycle b) s = .next (s.mxSwapCycle b)) ∧
      ((Instr.mxStream b).wf = true → exec (.mxStream b) s = .next (s.mxStream b)) ∧
      ((Instr.groupCheck b).wf = true → exec (.groupCheck b) s = .next (s.noted (s.groupCheck b))) ∧
      ((Instr.mxRowCommit b).wf = true → exec (.mxRowCommit b) s = .next (s.mxRowCommit b)) ∧
      ((Instr.feedPegRelease b).wf = true → exec (.feedPegRelease b) s = .next (s.feedPegRelease b)) ∧
      ((Instr.blockResetRelease b).wf = true → exec (.blockResetRelease b) s = .next (s.blockRelease b)) ∧
      ((Instr.seqDoubleTrap b).wf = true → exec (.seqDoubleTrap b) s = .next (s.doubleTrap b))) ∧
    (∀ (b : Nat) (granted : Bool) (errs : List ArrayError) (parity : Option (Nat × Nat)), (Instr.mxRowFeed b granted errs parity).wf = true → exec (.mxRowFeed b granted errs parity) s = .next (s.noted (s.mxRowFeed b granted errs parity))) ∧
    (∀ (b n : Nat),
      ((Instr.mxDrain b n).wf = true → exec (.mxDrain b n) s = .next (s.mxDrain b n)) ∧
      ((Instr.mxSeed b n).wf = true → exec (.mxSeed b n) s = .next (s.mxSeed b n)) ∧
      ((Instr.veUnary b n).wf = true → exec (.veUnary b n) s = .next (s.vecStep b 0x41 n none)) ∧
      ((Instr.veQuantMx b n).wf = true → exec (.veQuantMx b n) s = .next (s.vecQuant b n)) ∧
      ((Instr.lyTranspose b n).wf = true → exec (.lyTranspose b n) s = .next (s.layoutStep b 0x60 n)) ∧
      ((Instr.lyCopy2d b n).wf = true → exec (.lyCopy2d b n) s = .next (s.layoutStep b 0x61 n)) ∧
      ((Instr.lyPad b n).wf = true → exec (.lyPad b n) s = .next (s.layoutStep b 0x62 n)) ∧
      ((Instr.lyConvert b n).wf = true → exec (.lyConvert b n) s = .next (s.layoutStep b 0x63 n)) ∧
      ((Instr.gsGather b n).wf = true → exec (.gsGather b n) s = .next (s.gsStep b 0x70 n)) ∧
      ((Instr.gsScatter b n).wf = true → exec (.gsScatter b n) s = .next (s.gsStep b 0x71 n)) ∧
      ((Instr.gsLoad b n).wf = true → exec (.gsLoad b n) s = .next (s.gsStep b 0x72 n)) ∧
      ((Instr.gsStore b n).wf = true → exec (.gsStore b n) s = .next (s.gsStep b 0x73 n)) ∧
      ((Instr.skSort b n).wf = true → exec (.skSort b n) s = .next (s.sortStep b 0x78 n)) ∧
      ((Instr.skTopk b n).wf = true → exec (.skTopk b n) s = .next (s.sortStep b 0x79 n))) ∧
    (∀ (ag : Agent) (b : Nat) (v : W64),
      ((Instr.mxCountClear ag b v).wf = true → exec (.mxCountClear ag b v) s = .next (s.countClear v (State.mxCounters b))) ∧
      ((Instr.blkTokenErrClear ag b v).wf = true → exec (.blkTokenErrClear ag b v) s = .next (s.tokenErrClear b v)) ∧
      ((Instr.blkCplCtrlWrite ag b v).wf = true → exec (.blkCplCtrlWrite ag b v) s = .next (s.cplCtrlWrite ag b v)) ∧
      ((Instr.blkCplHeadWrite ag b v).wf = true → exec (.blkCplHeadWrite ag b v) s = .next (s.cplHeadWrite ag b v)) ∧
      ((Instr.blkCountClear ag b v).wf = true → exec (.blkCountClear ag b v) s = .next (s.countClear v (State.blkCounters b))) ∧
      ((Instr.blkAsyncErrClear ag b v).wf = true → exec (.blkAsyncErrClear ag b v) s = .next (s.asyncClear (144 + b) v))) ∧
    (∀ (b : Nat) (v : W64), (Instr.cmdPush b v).wf = true → exec (.cmdPush b v) s = .next (s.cmdPush b v)) ∧
    (∀ (b e : Nat),
      ((Instr.spillRefill b e).wf = true → exec (.spillRefill b e) s = .next (s.refill b e)) ∧
      ((Instr.tokenWaitEnd b e).wf = true → exec (.tokenWaitEnd b e) s = .next (s.tokenWaitEnd b e)) ∧
      ((Instr.completionWrite b e).wf = true → exec (.completionWrite b e) s = .next (s.completionWrite b e))) ∧
    (∀ (b n : Nat) (err : Option ResidueError),
      ((Instr.veBinary b n err).wf = true → exec (.veBinary b n err) s = .next (s.noted (s.vecStep b 0x40 n err))) ∧
      ((Instr.veFma b n err).wf = true → exec (.veFma b n err) s = .next (s.noted (s.vecStep b 0x42 n err))) ∧
      ((Instr.veReduce b n err).wf = true → exec (.veReduce b n err) s = .next (s.noted (s.vecReduce b n err))) ∧
      ((Instr.veRawCombine b n err).wf = true → exec (.veRawCombine b n err) s = .next (s.noted (s.vecRaw b n err)))) ∧
    (∀ (ag : Agent) (b : Nat),
      ((Instr.blkStart ag b).wf = true → exec (.blkStart ag b) s = .next (s.blkStart ag b)) ∧
      ((Instr.blkHalt ag b).wf = true → exec (.blkHalt ag b) s = .next (s.blkHalt ag b)) ∧
      ((Instr.blkReset ag b).wf = true → exec (.blkReset ag b) s = .next (s.blkReset ag b))) ∧
    (∀ (b cause : Nat), (Instr.blockMute b cause).wf = true → exec (.blockMute b cause) s = .next (s.noted (s.muteBlock b cause))) ∧
    (∀ (h : Nat) (a : Access),
      ((Instr.hartLoad h a).wf = true → exec (.hartLoad h a) s = .next (s.hartLoad h a)) ∧
      ((Instr.hartLr h a).wf = true → exec (.hartLr h a) s = .next (s.hartLr h a))) ∧
    (∀ (h : Nat) (a : Access) (v : W64) (hold : Nat), (Instr.hartStore h a v hold).wf = true → exec (.hartStore h a v hold) s = .next (s.hartStore h a v hold)) ∧
    (∀ (h : Nat) (a : Access) (op : AmoOp) (v : W64), (Instr.hartAmo h a op v).wf = true → exec (.hartAmo h a op v) s = .next (s.hartAmo h a op v)) ∧
    (∀ (h : Nat) (a : Access) (v : W64), (Instr.hartSc h a v).wf = true → exec (.hartSc h a v) s = .next (s.hartSc h a v)) ∧
    (∀ (h : Nat) (pred succ : FenceSet) (tso : Bool), (Instr.hartFence h pred succ tso).wf = true → exec (.hartFence h pred succ tso) s = .next (s.hartFence h pred succ tso)) ∧
    (∀ (h : Nat),
      ((Instr.fenceI h).wf = true → exec (.fenceI h) s = .next (s.fenceI h)) ∧
      ((Instr.wfi h).wf = true → exec (.wfi h) s = .next (s.hartWfi h)) ∧
      ((Instr.reservationExpire h).wf = true → exec (.reservationExpire h) s = .next (s.reservationExpire h)) ∧
      ((Instr.droopRecover h).wf = true → exec (.droopRecover h) s = .next (s.droopRecover h)) ∧
      ((Instr.interruptTrap h).wf = true → exec (.interruptTrap h) s = .next (s.takeInterrupt h))) ∧
    (∀ (h line : Nat), (Instr.wcEntryWriteout h line).wf = true → exec (.wcEntryWriteout h line) s = .next (s.wcWriteout h line)) ∧
    (∀ (ag : Agent) (c : Nat) (v : W64), (Instr.mgmtCoreAsyncErrClear ag c v).wf = true → exec (.mgmtCoreAsyncErrClear ag c v) s = .next (s.asyncClear c v)) ∧
    (∀ (tag : ReqTag),
      ((Instr.remoteWriteTimeout tag).wf = true → exec (.remoteWriteTimeout tag) s = .next (s.timeout tag true)) ∧
      ((Instr.remoteLoadTimeout tag).wf = true → exec (.remoteLoadTimeout tag) s = .next (s.timeout tag false))) ∧
    (∀ (ag : Agent) (r c : Nat),
      ((Instr.dmaEnable ag r c).wf = true → exec (.dmaEnable ag r c) s = .next (s.dmaCtrlSet ag r c 1 0)) ∧
      ((Instr.dmaDisable ag r c).wf = true → exec (.dmaDisable ag r c) s = .next (s.dmaCtrlSet ag r c 0 1)) ∧
      ((Instr.dmaPause ag r c).wf = true → exec (.dmaPause ag r c) s = .next (s.dmaCtrlSet ag r c 2 0)) ∧
      ((Instr.dmaResume ag r c).wf = true → exec (.dmaResume ag r c) s = .next (s.dmaCtrlSet ag r c 0 2)) ∧
      ((Instr.dmaAbort ag r c).wf = true → exec (.dmaAbort ag r c) s = .next (s.dmaCtrlSet ag r c 4 0)) ∧
      ((Instr.dmaClearErr ag r c).wf = true → exec (.dmaClearErr ag r c) s = .next (s.dmaCtrlSet ag r c 8 0)) ∧
      ((Instr.strumLoad ag r c).wf = true → exec (.strumLoad ag r c) s = .next (s.strumLoad ag r c)) ∧
      ((Instr.strumStart ag r c).wf = true → exec (.strumStart ag r c) s = .next (s.strumStart ag r c)) ∧
      ((Instr.strumAbort ag r c).wf = true → exec (.strumAbort ag r c) s = .next (s.strumAbort ag r c)) ∧
      ((Instr.strumUnload ag r c).wf = true → exec (.strumUnload ag r c) s = .next (s.strumUnload ag r c))) ∧
    (∀ (ag : Agent) (r c : Nat) (v : W64),
      ((Instr.dmaDoorbell ag r c v).wf = true → exec (.dmaDoorbell ag r c v) s = .next (s.dmaDoorbell ag r c v)) ∧
      ((Instr.dmaChCountClear ag r c v).wf = true → exec (.dmaChCountClear ag r c v) s = .next (s.countClear v (State.dmaCounters r c)))) ∧
    (∀ (r c : Nat),
      ((Instr.descFetch r c).wf = true → exec (.descFetch r c) s = .next (s.descFetch r c)) ∧
      ((Instr.descRefetch r c).wf = true → exec (.descRefetch r c) s = .next (s.descRefetch r c)) ∧
      ((Instr.descFault r c).wf = true → exec (.descFault r c) s = .next (s.descFault r c)) ∧
      ((Instr.descWriteback r c).wf = true → exec (.descWriteback r c) s = .next (s.descWriteback r c)) ∧
      ((Instr.ringFault r c).wf = true → exec (.ringFault r c) s = .next (s.ringFault r c)) ∧
      ((Instr.pauseDrainEnd r c).wf = true → exec (.pauseDrainEnd r c) s = .next (s.pauseDrainEnd r c)) ∧
      ((Instr.strumLoadDone r c).wf = true → exec (.strumLoadDone r c) s = .next (s.strumLoadDone r c)) ∧
      ((Instr.strumRunEnd r c).wf = true → exec (.strumRunEnd r c) s = .next (s.strumRunEnd r c))) ∧
    (∀ (r c n : Nat),
      ((Instr.copy r c n).wf = true → exec (.copy r c n) s = .next (s.dmaMove r c 0 n)) ∧
      ((Instr.fill r c n).wf = true → exec (.fill r c n) s = .next (s.dmaMove r c 1 n)) ∧
      ((Instr.compare r c n).wf = true → exec (.compare r c n) s = .next (s.dmaMove r c 2 n)) ∧
      ((Instr.copy2d r c n).wf = true → exec (.copy2d r c n) s = .next (s.dmaMove r c 3 n))) ∧
    (∀ (ag : Agent) (p : Nat) (v : W64),
      ((Instr.pegSet ag p v).wf = true → exec (.pegSet ag p v) s = .next (s.pegSet ag p v)) ∧
      ((Instr.pegAdd ag p v).wf = true → exec (.pegAdd ag p v) s = .next (s.pegAdd ag p v)) ∧
      ((Instr.pegCasExpect ag p v).wf = true → exec (.pegCasExpect ag p v) s = .next (s.pegCasExpect ag p v)) ∧
      ((Instr.pegCas ag p v).wf = true → exec (.pegCas ag p v) s = .next (s.pegCasAmo ag p v)) ∧
      ((Instr.pegStatusClear ag p v).wf = true → exec (.pegStatusClear ag p v) s = .next (s.pegStatusClear ag p v))) ∧
    (∀ (ag : Agent) (p : Nat) (sc : Scope) (v : W64), (Instr.pegRelAdd ag p sc v).wf = true → exec (.pegRelAdd ag p sc v) s = .next (s.pegRelease ag p (scopeCode sc) v)) ∧
    (∀ (ag : Agent) (p : Nat) (sc : Scope), (Instr.pegAcqRead ag p sc).wf = true → exec (.pegAcqRead ag p sc) s = .next (s.pegAcqRead ag p (scopeCode sc))) ∧
    (∀ (ag : Agent) (addr size : Nat) (write amo : Bool), (Instr.pegAccessFault ag addr size write amo).wf = true → exec (.pegAccessFault ag addr size write amo) s = .next (s.pegAccessFault ag addr size write amo)) ∧
    (∀ (ag : Agent) (v : W64),
      ((Instr.watchArm ag v).wf = true → exec (.watchArm ag v) s = .next (s.watchArm ag v)) ∧
      ((Instr.watchCancel ag v).wf = true → exec (.watchCancel ag v) s = .next (s.watchCancelBy ag v)) ∧
      ((Instr.routeLoad ag v).wf = true → exec (.routeLoad ag v) s = .next (s.routeCtrlWrite ag (v ||| fld 1 17))) ∧
      ((Instr.fabCollAbort ag v).wf = true → exec (.fabCollAbort ag v) s = .next (s.collNotice v)) ∧
      ((Instr.pwrCountClear ag v).wf = true → exec (.pwrCountClear ag v) s = .next (s.countClear v State.pwrCounters))) ∧
    (∀ (r : Nat),
      ((Instr.watchDeliver r).wf = true → exec (.watchDeliver r) s = .next (s.watchDeliver r)) ∧
      ((Instr.eventQueueAdmit r).wf = true → exec (.eventQueueAdmit r) s = .next (s.eventAdmit r)) ∧
      ((Instr.scrubDone r).wf = true → exec (.scrubDone r) s = .next (s.scrubDone r)) ∧
      ((Instr.invalidationDone r).wf = true → exec (.invalidationDone r) s = .next (s.invalidationDone r)) ∧
      ((Instr.patCmdDone r).wf = true → exec (.patCmdDone r) s = .next (s.patDone r)) ∧
      ((Instr.tokenRefill r).wf = true → exec (.tokenRefill r) s = .next (s.tokenRefill r)) ∧
      ((Instr.memorySpaceEnableSet r).wf = true → exec (.memorySpaceEnableSet r) s = .next (s.memEnableSet r)) ∧
      ((Instr.memorySpaceEnableClear r).wf = true → exec (.memorySpaceEnableClear r) s = .next (s.memEnableClear r))) ∧
    (∀ (r key : Nat), (Instr.watchExpire r key).wf = true → exec (.watchExpire r key) s = .next (s.watchExpire r key)) ∧
    (∀ (ag : Agent), (Instr.watchEventRead ag).wf = true → exec (.watchEventRead ag) s = .next (s.watchEventRead ag)) ∧
    (∀ (k line : Nat) (victim : Option Nat),
      ((Instr.readShared k line victim).wf = true → exec (.readShared k line victim) s = .next ((s.coreRequest line (.readShared k) victim).settleHarts)) ∧
      ((Instr.readUnique k line victim).wf = true → exec (.readUnique k line victim) s = .next ((s.coreRequest line (.readUnique k) victim).settleHarts)) ∧
      ((Instr.upgrade k line victim).wf = true → exec (.upgrade k line victim) s = .next ((s.coreRequest line (.upgrade k) victim).settleHarts))) ∧
    (∀ (k line : Nat),
      ((Instr.writeBack k line).wf = true → exec (.writeBack k line) s = .next ((s.evict k line .modified).settleHarts)) ∧
      ((Instr.cleanEvict k line).wf = true → exec (.cleanEvict k line) s = .next ((s.evict k line .exclusive).settleHarts)) ∧
      ((Instr.snoop k line).wf = true → exec (.snoop k line) s = .next ((s.snoop k line).settleHarts))) ∧
    (∀ (port line : Nat), (Instr.engineRead port line).wf = true → exec (.engineRead port line) s = .next (s.request line (.eRead port))) ∧
    (∀ (port line : Nat) (data : List Byte), (Instr.engineWrite port line data).wf = true → exec (.engineWrite port line data) s = .next (s.request line (.eWrite port (BitVec.ofNat 1024 (leNat data))))) ∧
    (∀ (port line : Nat) (data : List Byte) (mask : Nat), (Instr.engineMaskedWrite port line data mask).wf = true → exec (.engineMaskedWrite port line data mask) s = .next (s.request line (.eMasked port (BitVec.ofNat 1024 (leNat data)) (BitVec.ofNat 128 mask)))) ∧
    (∀ (port line off size : Nat) (op : AtomOp) (v : W64), (Instr.engineAtomic port line off size op v).wf = true → exec (.engineAtomic port line off size op v) s = .next (s.request line (.eAtomic port off size op v))) ∧
    (∀ (line : Nat), (Instr.homeTransactionComplete line).wf = true → exec (.homeTransactionComplete line) s = .next ((s.homeComplete line).settleHarts)) ∧
    (∀ (r req : Nat), (Instr.grant r req).wf = true → exec (.grant r req) s = .next ((s.grant r req).settleHarts)) ∧
    (∀ (e : EccError), (Instr.eccUncorrectable e).wf = true → exec (.eccUncorrectable e) s = .next (s.eccEvent e.addr e.place e.corrected)) ∧
    (∀ (ag : Agent) (ch : Nat),
      ((Instr.mapOut ag ch).wf = true → exec (.mapOut ag ch) s = .next (s.chCtrlWrite ag ch 1)) ∧
      ((Instr.testStart ag ch).wf = true → exec (.testStart ag ch) s = .next (s.chCtrlWrite ag ch 2)) ∧
      ((Instr.testEnd ag ch).wf = true → exec (.testEnd ag ch) s = .next (s.chCtrlWrite ag ch 4))) ∧
    (∀ (r seed : Nat) (lanes : List (Nat × Nat × Nat)), (Instr.maintSlot r seed lanes).wf = true → exec (.maintSlot r seed lanes) s = .next (s.maintSlot r seed lanes)) ∧
    (∀ (r : Nat) (m : Margins),
      ((Instr.marginCheckDone r m).wf = true → exec (.marginCheckDone r m) s = .next (s.marginDone r m)) ∧
      ((Instr.retrainDone r m).wf = true → exec (.retrainDone r m) s = .next (s.retrainEnd r m))) ∧
    (∀ (r g : Nat), (Instr.rebuildDone r g).wf = true → exec (.rebuildDone r g) s = .next (s.rebuildDone r g)) ∧
    (∀ (ag : Agent) (ch : Nat) (v : W64), (Instr.tgStart ag ch v).wf = true → exec (.tgStart ag ch v) s = .next (s.tgWrite ag ch (v ||| 4))) ∧
    (∀ (ch : Nat) (errs : List Nat), (Instr.tgDone ch errs).wf = true → exec (.tgDone ch errs) s = .next (s.tgEnd ch errs)) ∧
    (∀ (ag : Agent) (r q p : Nat) (v : W64), (Instr.mgmtRegCfgWrite ag r q p v).wf = true → exec (.mgmtRegCfgWrite ag r q p v) s = .next (s.regCfgWrite ag r q p v)) ∧
    (∀ (ag : Agent) (k : Nat),
      ((Instr.portEnable ag k).wf = true → exec (.portEnable ag k) s = .next (if (s.port k).enabled then s else s.portEnable k)) ∧
      ((Instr.portDisable ag k).wf = true → exec (.portDisable ag k) s = .next (if (s.port k).enabled then s.noted (s.portDisable k) else s)) ∧
      ((Instr.retrain ag k).wf = true → exec (.retrain ag k) s = .next (s.noted (s.retrainPort ag k)))) ∧
    (∀ (k txGood rxGood : Nat) (reversed : Bool) (inverted : Nat) (peer : Option (Nat × Nat)) (missing : Nat), (Instr.trainingAttemptEnd k txGood rxGood reversed inverted peer missing).wf = true → exec (.trainingAttemptEnd k txGood rxGood reversed inverted peer missing) s = .next (s.attemptEnd k txGood rxGood reversed inverted peer missing)) ∧
    (∀ (k : Nat) (f : Flit), (Instr.flitReceive k f).wf = true → exec (.flitReceive k f) s = .next (s.noted (s.flitReceive k f))) ∧
    (∀ (k seq : Nat), (Instr.retryReq k seq).wf = true → exec (.retryReq k seq) s = .next (s.noted (s.retryAsked k seq))) ∧
    (∀ (k : Nat),
      ((Instr.retryReqRepeat k).wf = true → exec (.retryReqRepeat k) s = .next (s.noted (s.retryRepeat k))) ∧
      ((Instr.linkFailure k).wf = true → exec (.linkFailure k) s = .next (s.noted (s.linkFailure k))) ∧
      ((Instr.portDownTimeout k).wf = true → exec (.portDownTimeout k) s = .next (s.noted (s.portDownTimeout k))) ∧
      ((Instr.timeRespLost k).wf = true → exec (.timeRespLost k) s = .next (s.timeRespLost k))) ∧
    (∀ (k : Nat) (h : Hello), (Instr.hello k h).wf = true → exec (.hello k h) s = .next (s.noted (s.helloReceive k h))) ∧
    (∀ (k : Nat) (key : LeaderKey) (hops : Nat), (Instr.elect k key hops).wf = true → exec (.elect k key hops) s = .next (s.noted (s.learnKey k key hops))) ∧
    (exec .reportTimer s = .next (s.reportTimer)) ∧
    (exec .fabricSettle s = .next (s.noted s.fabricSettle)) ∧
    (exec .beatSend s = .next (s.beatSend)) ∧
    (exec .leaderLost s = .next (s.noted s.leaderLost)) ∧
    (exec .routeSwitch s = .next (s.noted s.routeSwitchHere)) ∧
    (exec .tagBackup s = .next (s.tagBackup)) ∧
    (exec .intervalClose s = .next (s.intervalClose)) ∧
    (exec .coolantAlarm s = .next (s.coolantAlarm)) ∧
    (∀ (k : Nat) (rep : Report),
      ((Instr.report k rep).wf = true → exec (.report k rep) s = .next (s.reportReceive k rep)) ∧
      ((Instr.join k rep).wf = true → exec (.join k rep) s = .next (s.noted (s.joinReceive k rep)))) ∧
    (∀ (k : Nat) (m : MapSegment), (Instr.map k m).wf = true → exec (.map k m) s = .next (s.noted (s.mapReceive m))) ∧
    (∀ (k : Nat) (m : Beat), (Instr.beat k m).wf = true → exec (.beat k m) s = .next (s.beatReceive m)) ∧
    (∀ (serial port oldState newState : Nat), (Instr.portEvent serial port oldState newState).wf = true → exec (.portEvent serial port oldState newState) s = .next (s.noted (s.portEventReceive serial port oldState newState))) ∧
    (∀ (k : Nat) (p : Packet), (Instr.fabricPacketArrive k p).wf = true → exec (.fabricPacketArrive k p) s = .next (s.packetArrive k p)) ∧
    (∀ (p : Packet),
      ((Instr.fabricRead p).wf = true → exec (.fabricRead p) s = .next (s.fabricRead p)) ∧
      ((Instr.fabricWrite p).wf = true → exec (.fabricWrite p) s = .next (s.fabricWrite p)) ∧
      ((Instr.maskedWrite p).wf = true → exec (.maskedWrite p) s = .next (s.fabricMasked p)) ∧
      ((Instr.atomic p).wf = true → exec (.atomic p) s = .next (s.fabricAtomic p)) ∧
      ((Instr.pegOp p).wf = true → exec (.pegOp p) s = .next (s.fabricPegOp p))) ∧
    (∀ (tag : ReqTag) (status : Nat) (data : List Byte),
      ((Instr.readData tag status data).wf = true → exec (.readData tag status data) s = .next (s.fabricAnswer tag status data false)) ∧
      ((Instr.hostOutboundCompletion tag status data).wf = true → exec (.hostOutboundCompletion tag status data) s = .next (s.hostAnswer tag status data))) ∧
    (∀ (tag : ReqTag) (status : Nat), (Instr.writeAck tag status).wf = true → exec (.writeAck tag status) s = .next (s.fabricAnswer tag status [] true)) ∧
    (∀ (tag : ReqTag) (status : Nat) (v : W64), (Instr.atomicData tag status v).wf = true → exec (.atomicData tag status v) s = .next (s.fabricAnswer tag status (leBytes 8 v.toNat) false)) ∧
    (∀ (ag : Agent) (k : Nat) (v : W64), (Instr.fabPortCountClear ag k v).wf = true → exec (.fabPortCountClear ag k v) s = .next (s.countClear v (State.portCounters k))) ∧
    (∀ (k t1 : Nat), (Instr.timeReqSend k t1).wf = true → exec (.timeReqSend k t1) s = .next (s.timeReqSend k t1)) ∧
    (∀ (k : Nat) (p : TimePkt) (t2 t3 : Nat), (Instr.timeReq k p t2 t3).wf = true → exec (.timeReq k p t2 t3) s = .next (s.timeReqReceive k p t2 t3)) ∧
    (∀ (k : Nat) (p : TimePkt) (t4 : Nat), (Instr.timeResp k p t4).wf = true → exec (.timeResp k p t4) s = .next (s.timeRespReceive k p t4)) ∧
    (∀ (count : Nat) (m : MarkInput), (Instr.epochAdopt count m).wf = true → exec (.epochAdopt count m) s = .next (s.noted (s.epochAdopt count m))) ∧
    (∀ (slot : Nat), (Instr.slotStart slot).wf = true → exec (.slotStart slot) s = .next (s.slotStart slot)) ∧
    (∀ (k : Nat) (f : SchedFlit), (Instr.schedFlit k f).wf = true → exec (.schedFlit k f) s = .next (s.schedFlit k f)) ∧
    (∀ (r c entry : Nat), (Instr.peerSilent r c entry).wf = true → exec (.peerSilent r c entry) s = .next (s.peerSilent r c entry)) ∧
    (∀ (r : Nat) (l : HostLink), (Instr.hostLinkUp r l).wf = true → exec (.hostLinkUp r l) s = .next (s.hostLinkUp r l)) ∧
    (∀ (r k : Nat),
      ((Instr.hostLinkDown r k).wf = true → exec (.hostLinkDown r k) s = .next (if (s.hostPort r).endpoint then s.noted (s.hostLoss r .linkDown State.closeOwner) else s.rootLinkDown r k)) ∧
      ((Instr.rootPortLinkDown r k).wf = true → exec (.rootPortLinkDown r k) s = .next (s.rootLinkDown r k)) ∧
      ((Instr.hostLinkRecovery r k).wf = true → exec (.hostLinkRecovery r k) s = .next (s.linkRecovery r k))) ∧
    (∀ (r : Nat) (cause : LossCause), (Instr.hostLoss r cause).wf = true → exec (.hostLoss r cause) s = .next (s.noted (s.hostLoss r cause State.closeOwner))) ∧
    (∀ (r : Nat) (linkInL0 : Bool), (Instr.hostLossDone r linkInL0).wf = true → exec (.hostLossDone r linkInL0) s = .next (s.hostLossDone r linkInL0)) ∧
    (∀ (r f off size : Nat) (write : Option W64), (Instr.hostBar0Access r f off size write).wf = true → exec (.hostBar0Access r f off size write) s = .next (s.arrive (.hostBar0Access r f off size write))) ∧
    (∀ (r f off size : Nat) (op : AtomOp) (v : W64),
      ((Instr.hostPegAtomic r f off size op v).wf = true → exec (.hostPegAtomic r f off size op v) s = .next (s.arrive (.hostPegAtomic r f off size op v))) ∧
      ((Instr.hostBar2Atomic r f off size op v).wf = true → exec (.hostBar2Atomic r f off size op v) s = .next (s.arrive (.hostBar2Atomic r f off size op v)))) ∧
    (∀ (r f off n : Nat), (Instr.hostBar2Read r f off n).wf = true → exec (.hostBar2Read r f off n) s = .next (s.arrive (.hostBar2Read r f off n))) ∧
    (∀ (r f off : Nat) (data : List Byte) (attr : TlpAttr), (Instr.hostBar2Write r f off data attr).wf = true → exec (.hostBar2Write r f off data attr) s = .next (s.arrive (.hostBar2Write r f off data attr))) ∧
    (∀ (r f : Nat) (v : W64), (Instr.hostFnBar2SlideWrite r f v).wf = true → exec (.hostFnBar2SlideWrite r f v) s = .next (s.arrive (.hostFnBar2SlideWrite r f v))) ∧
    (∀ (ag : Agent) (r f word : Nat) (v : W64), (Instr.hostOwnershipWrite ag r f word v).wf = true → exec (.hostOwnershipWrite ag r f word v) s = .next (s.ownershipWrite ag r f word v)) ∧
    (∀ (ag : Agent) (r k : Nat) (v : W64), (Instr.hostRpCtrlEnable ag r k v).wf = true → exec (.hostRpCtrlEnable ag r k v) s = .next (s.rpEnable r k v)) ∧
    (∀ (r k reqId : Nat), (Instr.deviceAerError r k reqId).wf = true → exec (.deviceAerError r k reqId) s = .next (s.aerError r k reqId)) ∧
    (∀ (r k reqId pasid addr : Nat) (storage : Bool) (n : Nat) (write : Option DeviceWrite), (Instr.deviceInboundRequest r k reqId pasid addr storage n write).wf = true → exec (.deviceInboundRequest r k reqId pasid addr storage n write) s = .next (s.arrive (.deviceInboundRequest r k reqId pasid addr storage n write))) ∧
    (∀ (ag : Agent) (r : Nat),
      ((Instr.tagOpen ag r).wf = true → exec (.tagOpen ag r) s = .next (s.tagOpen r)) ∧
      ((Instr.tagClose ag r).wf = true → exec (.tagClose ag r) s = .next (s.tagClose r)) ∧
      ((Instr.tagQuery ag r).wf = true → exec (.tagQuery ag r) s = .next (s.tagQuery r))) ∧
    (∀ (r rail cause : Nat), (Instr.railFault r rail cause).wf = true → exec (.railFault r rail cause) s = .next (s.noted (s.railFault r rail cause))) ∧
    (∀ (ag : Agent) (r d : Nat) (v : W64), (Instr.pwrDomainWrite ag r d v).wf = true → exec (.pwrDomainWrite ag r d v) s = .next (s.domainWrite ag r d v)) ∧
    (∀ (r p f d : Nat), (Instr.budgetMessage r p f d).wf = true → exec (.budgetMessage r p f d) s = .next (s.budgetMessage r p f d)) ∧
    (∀ (p : Predictions), (Instr.budgetGrant p).wf = true → exec (.budgetGrant p) s = .next (s.budgetGrant p)) ∧
    (∀ (r rail : Nat), (Instr.railOvercurrent r rail).wf = true → exec (.railOvercurrent r rail) s = .next (s.railOvercurrent r rail)) ∧
    (∀ (h cycles : Nat), (Instr.droopDetect h cycles).wf = true → exec (.droopDetect h cycles) s = .next (s.droopDetect h cycles)) ∧
    (∀ (r die celsius : Nat), (Instr.thermalSample r die celsius).wf = true → exec (.thermalSample r die celsius) s = .next (s.thermalSample r die celsius)) ∧
    (∀ (a b da db : Nat) (third : Option (Nat × Nat)), (Instr.xchkDone a b da db third).wf = true → exec (.xchkDone a b da db third) s = .next (s.noted (s.xchkDone a b da db third))) ∧
    (∀ (a b : Nat), (Instr.xchkThirdTimeout a b).wf = true → exec (.xchkThirdTimeout a b) s = .next (s.noted (s.xchkTimeout a b))) ∧
    (∀ (b : Nat) (passed : Bool), (Instr.tuningCheckEnd b passed).wf = true → exec (.tuningCheckEnd b passed) s = .next (s.noted (s.tuningEnd b passed))) ∧
    (∀ (ag : Agent) (r b : Nat),
      ((Instr.blkMute ag r b).wf = true → exec (.blkMute ag r b) s = .next (s.noted (s.blkMuteWrite ag r (fld b 0)))) ∧
      ((Instr.blkRelease ag r b).wf = true → exec (.blkRelease ag r b) s = .next (s.blkRelease ag r b))) ∧
    (∀ (cls unit : Nat), (Instr.packRun cls unit).wf = true → exec (.packRun cls unit) s = .next (s.packRun cls unit)) ∧
    (∀ (cls unit : Nat) (passed : Bool), (Instr.packResult cls unit passed).wf = true → exec (.packResult cls unit passed) s = .next (s.noted (s.packResult cls unit passed))) ∧
    (∀ (link lane : Nat), (Instr.d2dFlitCrcError link lane).wf = true → exec (.d2dFlitCrcError link lane) s = .next (s.flitCrcError link lane)) ∧
    (∀ (link : Nat) (m : LaneMap), (Instr.d2dLaneMapExchange link m).wf = true → exec (.d2dLaneMapExchange link m) s = .next (s.noted (s.laneMapExchange link m))) ∧
    (∀ (link : Nat), (Instr.heartbeat link).wf = true → exec (.heartbeat link) s = .next (s.heartbeat link)) ∧
    (∀ (r die reason : Nat), (Instr.dieLost r die reason).wf = true → exec (.dieLost r die reason) s = .next (s.noted (s.dieLost r die reason))) ∧
    (∀ (r reason : Nat), (Instr.regionLost r reason).wf = true → exec (.regionLost r reason) s = .next (s.noted (s.regionEvent r reason))) ∧
    (∀ (ag : Agent) (r die : Nat), (Instr.rejoin ag r die).wf = true → exec (.rejoin ag r die) s = .next (s.rejoin ag r die)) ∧
    (∀ (r die : Nat),
      ((Instr.rejoinDone r die).wf = true → exec (.rejoinDone r die) s = .next (s.rejoinDone r die)) ∧
      ((Instr.rejoinTimeout r die).wf = true → exec (.rejoinTimeout r die) s = .next (s.rejoinTimeout r die))) ∧
    (∀ (r k : Nat) (l : HostLink), (Instr.rootPortLinkUp r k l).wf = true → exec (.rootPortLinkUp r k l) s = .next (s.rootLinkUp r k l)) ∧
    (∀ (r f : Nat) (busMaster memEnable : Option Bool) (bar2Log2 : Option Nat), (Instr.configurationWrite r f busMaster memEnable bar2Log2).wf = true → exec (.configurationWrite r f busMaster memEnable bar2Log2) s = .next (s.configWrite r f busMaster memEnable bar2Log2)))

/-- Every step keeps the memory in its canonical form. Rests on R276, R294. Whatever command is at the front of the queue,
and whatever it stores: if the memory's list has strictly rising addresses and lists no byte that equals what an
unlisted address reads as, then so has the memory after the step. Equal memories are therefore equal data in every
state that a run reaches. -/
def Obligations.MemoryStaysCanonical : Prop :=
  ∀ (s t : State), Memory.wf s.mem = true → step s = .next t → Memory.wf t.mem = true

/-- No command changes the queue, the serial number or past records' numbers, and only marks, adoptions and resets set the
counter. Rests on R36, R439, R505, R350. Every command, in every state, leaves the waiting commands behind it and the
module's serial number as they were, and never lowers the SEQ of the next kiln record, over resets and power loss too.
The fret counter changes only at a fret mark, at the adoption of an epoch, and where the package is reset or loses
power (COLD_BOOT, WARM_RESET, POWER_OFF, AUTO_BOOT, a thermal trip, a lost, over-voltage, over-current or reversed
input), and it never changes at a tick. -/
def Obligations.CommandsLeaveQueueIdentityAndTime : Prop :=
  (∀ (c : Instr) (s t : State), exec c s = .next t →
    t.pending = s.pending ∧ t.fab.serial = s.fab.serial ∧ s.kiln.seq ≤ t.kiln.seq ∧ (setsFret c = false → t.fret = s.fret)) ∧
  (∀ (s : State), s.tick.pending = s.pending ∧ s.tick.fab.serial = s.fab.serial ∧ s.kiln.seq ≤ s.tick.kiln.seq ∧ s.tick.fret = s.fret)

/-- An event enters the queue of every served slot, the oldest leaves a full queue and is counted, and GET_EVENT gives
them. Formalises R522. While Uluell runs, an event enters the queue of the I3C and CORE slots, and of the HOST slot
where it is served, last; a queue that holds 64 first drops its oldest, and the slot's count of drops, which
GET_STATUS gives at byte 32 and which saturates, rises by one. No queue that held at most 64 events ever holds more. A
slot's state and message stay. The event has 16 bytes: CODE in [7:0] and the low 32 bits of the fret counter in
[63:32] of word 0, DATA in word 1. GET_EVENT of an empty queue is answered OK with LENGTH 0, of another with the
oldest event, which leaves. All else that an event can change is what its signals touch. -/
def Obligations.EventsEnterEveryServedSlot : Prop :=
  (∀ (s : State) (code : Nat) (data : W64), s.mgmt.state ≠ .off →
    let t := s.event code data
    let e : Event := { code := code, fret := s.fret % 0x100000000, data := data }
    SameButReports s t ∧
    (∀ sl, let x := s.mailbox sl
      let y := t.mailbox sl
      let served := sl = .host → s.mgmt.image.attached = true;
      y.state = x.state ∧ y.buf = x.buf ∧ (¬ served → y = x) ∧
      (served → x.events.length < 64 → y.events = x.events ++ [e] ∧ y.dropped = x.dropped) ∧
      (served → 64 ≤ x.events.length → y.events = x.events.drop 1 ++ [e] ∧ y.dropped = min 0xFFFFFFFF (x.dropped + 1)) ∧
      (x.events.length ≤ 64 → y.events.length ≤ 64))) ∧
  (∀ (e : Event), let b := State.eventBytes e
    e.code < 256 → e.fret < 0x100000000 → b.length = 16 ∧ leNat (b.take 8) = e.code + e.fret * 0x100000000 ∧ leNat (b.drop 8) = e.data.toNat) ∧
  (∀ (s : State) (sl : Slot) (m : Msg) (rest : List Request), s.mgmt.state ≠ .off → s.mgmt.requests = { slot := sl, msg := m } :: rest →
    m.rsvBad = false → m.length = 0 → m.payload = [] →
    let x := s.mailbox sl
    let ans (u : State) (pay : List Byte) : Host.Outcome State Fault Refusal := .next { u with mgmt := { u.mgmt with
      requests := { slot := sl, msg := m, answer := some { opcode := stOK, echo := m.opcode, tag := m.tag, length := pay.length, payload := pay } } :: rest } };
    (m.opcode = 0x04 → x.events = [] → exec (.getEvent sl m) s = ans s []) ∧
    (∀ e es, m.opcode = 0x04 → x.events = e :: es →
      exec (.getEvent sl m) s = ans (s.setMailbox sl { x with events := es }) (State.eventBytes e)) ∧
    (m.opcode = 0x01 → ∃ pay, exec (.getStatus sl m) s = ans s pay ∧ (pay.drop 32).take 4 = leBytes 4 x.dropped))

/-! ### Registers and counters -/

/-- A register write: aligned and listed, unlisted, misaligned, and FAB_FRET_PERIOD. Formalises R8. REGISTER_WRITE of the
plain register KILN_TAG_ARG1 of a live region stores the value; at an unlisted offset it changes no register (both
with no muted block and no collective run, so that nothing is reported; fabric time alone may move on). MISALIGNED_REG_ACCESS has no effect
on the register but the region's log entry with status ALIGN and CAUSE 1 (the requester, the offset and DETAIL zero,
as Table 15.13 gives), and a read of that kind returns zero to the hart that made it. FAB_FRET_PERIOD takes 4 to 64 in
CONFIGURED, in all four regions; another value is logged with RANGE and another module state with STATE. -/
def Obligations.RegisterWritesTakeEffectOrAreLogged : Prop :=
  (∀ (s : State) (ag : Agent) (r : Nat) (v : W64), s.powered = true → ag.wf = true → s.regionLive r = true →
    (∀ x ∈ s.blocks, x.2.state ≠ .muted) → (∀ x ∈ s.colls, x.2.state ≠ .running) →
    ∃ t, exec (.registerWrite ag (0xF00000000000 + r * 0x100000000 + 0x200010) v) s = .next t ∧
      t = { s with regs := s.regs.set (KILN_TAG_ARG1 r) v, time := t.time }) ∧
  (∀ (s : State) (ag : Agent) (r o : Nat) (v : W64), s.powered = true → ag.wf = true → s.regionLive r = true →
    0x3000 ≤ o → o < 0x80000 → o % 8 = 0 → (∀ x ∈ s.blocks, x.2.state ≠ .muted) → (∀ x ∈ s.colls, x.2.state ≠ .running) →
    ∃ t, exec (.registerWrite ag (0xF00000000000 + r * 0x100000000 + o) v) s = .next t ∧ t = { s with time := t.time }) ∧
  (∀ (s : State) (ag : Agent) (r o size : Nat) (write : Bool), s.powered = true →
    (Instr.misalignedRegAccess ag (0xF00000000000 + r * 0x100000000 + o) size write).wf = true → s.regionLive r = true →
    o < 0x100000000 → (size ≠ 8 ∨ o % 8 ≠ 0) →
    let logged := s.log r stALIGN 1 ag.code o 0
    let go := exec (.misalignedRegAccess ag (0xF00000000000 + r * 0x100000000 + o) size write) s;
    (write = true ∨ ag.hart = none → go = .next logged) ∧
    (∀ h, write = false → ag.hart = some h → go = .next (logged.setHart h { s.hart h with result := 0 }))) ∧
  (∀ (s : State) (ag : Agent) (r : Nat) (v : W64), s.powered = true → (Instr.fabFretPeriodWrite ag r v).wf = true →
    let p := v.toNat % 128
    (s.mgmt.state = .configured → 4 ≤ p → p ≤ 64 →
      ∃ t, exec (.fabFretPeriodWrite ag r v) s = .next t ∧ t = { s with regs := t.regs } ∧
        (∀ q, q < 4 → t.reg (FAB_FRET_PERIOD q) = w64 p) ∧
        ∀ g, (∀ q, g ≠ FAB_FRET_PERIOD q) → t.reg g = s.reg g) ∧
    (s.mgmt.state ≠ .configured → exec (.fabFretPeriodWrite ag r v) s = .next (s.log r stSTATE 1 ag.code 0x100 0)) ∧
    (s.mgmt.state = .configured → (p < 4 ∨ 64 < p) →
      exec (.fabFretPeriodWrite ag r v) s = .next (s.log r stRANGE 1 ag.code 0x100 0)))

/-- A configuration register takes an admitted value and logs a refused one. Rests on R163, R188, R190, R460, R465, R322,
R449, R448, R324, R501. BLK_CPL_CTRL (only while HALTED or RESET: STATE; size and base: RANGE), BLK_CPL_HEAD (TAIL -
HEAD at most the ring size), PWR_MODULE_LIMIT (1,500 to 5,200 W, every region's copy), PWR_DOMAIN (FLOOR at most CAP,
CAP at most the highest step), MGMT_REG_CFG (MODE, RATE, CAP; takes effect at the next refill) and KILN_ACK_SEQ
(between the last acknowledgement and the entries exported): an admitted value is stored and nothing else changes; a
refused one leaves everything but the log entry that R501 gives. -/
def Obligations.CheckedConfigurationWrites : Prop :=
  (∀ (s : State) (ag : Agent) (b : Nat) (v : W64), s.powered = true → (Instr.blkCplCtrlWrite ag b v).wf = true →
    let n := bits v 27 24
    let idle := (s.block b).state = .halted ∨ (s.block b).state = .reset
    let good := 4 ≤ n ∧ n ≤ 12 ∧ bits v 20 0 % (2 ^ n * 32) = 0
    let refused (st : Nat) := s.log (b / 128) st 1 ag.code (blkReg b 0x020 % 0x100000000) 0
    (¬idle → exec (.blkCplCtrlWrite ag b v) s = .next (refused stSTATE)) ∧
    (idle → ¬good → exec (.blkCplCtrlWrite ag b v) s = .next (refused stRANGE)) ∧
    (idle → good → exec (.blkCplCtrlWrite ag b v) s = .next (s.setReg (BLK_CPL_CTRL b) (v &&& 0x3F1FFFFF)))) ∧
  (∀ (s : State) (ag : Agent) (b : Nat) (v : W64), s.powered = true → (Instr.blkCplHeadWrite ag b v).wf = true →
    let head := v.toNat % 2 ^ 32
    let fits := ((s.reg (BLK_CPL_TAIL b)).toNat + 2 ^ 32 - head) % 2 ^ 32 ≤ 2 ^ bits (s.reg (BLK_CPL_CTRL b)) 27 24
    (fits → exec (.blkCplHeadWrite ag b v) s = .next (s.setReg (BLK_CPL_HEAD b) (w64 head))) ∧
    (¬fits → exec (.blkCplHeadWrite ag b v) s =
      .next (s.log (b / 128) stRANGE 1 ag.code (blkReg b 0x030 % 0x100000000) 0))) ∧
  (∀ (s : State) (ag : Agent) (r : Nat) (v : W64), s.powered = true → (Instr.pwrModuleLimitWrite ag r v).wf = true →
    let w := v.toNat % 2 ^ 13
    (1500 ≤ w → w ≤ 5200 → ∃ t, exec (.pwrModuleLimitWrite ag r v) s = .next t ∧ t = { s with regs := t.regs } ∧
      (∀ q, q < 4 → (t.reg (PWR_MODULE_LIMIT q)).toNat = w) ∧
      ∀ g, (∀ q, g ≠ PWR_MODULE_LIMIT q) → t.reg g = s.reg g) ∧
    ((w < 1500 ∨ 5200 < w) → ∃ t, exec (.pwrModuleLimitWrite ag r v) s = .next t ∧
      t = s.log r stRANGE 1 ag.code 0x100000 0)) ∧
  (∀ (s : State) (ag : Agent) (r d : Nat) (v : W64), s.powered = true → (Instr.pwrDomainWrite ag r d v).wf = true →
    let floor := bits v 9 5
    let cap := bits v 14 10
    (floor ≤ cap → cap ≤ maxStep d → exec (.pwrDomainWrite ag r d v) s =
      .next { s with domains := s.domains.set (r, d) { s.domain r d with floor := floor, cap := cap } }) ∧
    ((cap < floor ∨ maxStep d < cap) → ∃ t, exec (.pwrDomainWrite ag r d v) s = .next t ∧
      t = s.log r stRANGE 1 ag.code (0x100100 + 8 * d) 0)) ∧
  (∀ (s : State) (ag : Agent) (r q p : Nat) (v : W64), s.powered = true → (Instr.mgmtRegCfgWrite ag r q p v).wf = true →
    let w := v &&& mask 33 0
    let bad := bits w 33 32 = 3 ∨ (bits w 33 32 = 1 ∧ bits w 11 0 = 0) ∨ bits w 31 12 < 2
    (¬bad → exec (.mgmtRegCfgWrite ag r q p v) s = .next { s with regNext := s.regNext.set (r, q * 8 + p) w }) ∧
    (bad → exec (.mgmtRegCfgWrite ag r q p v) s =
      .next (s.log r stRANGE 1 ag.code (MGMT_REG_CFG r q p % 0x100000000) 0))) ∧
  (∀ (s : State) (ag : Agent) (r : Nat) (v : W64), s.powered = true → (Instr.kilnAckSeqWrite ag r v).wf = true →
    let good := (s.reg (KILN_ACK_SEQ 0)).toNat ≤ v.toNat ∧ v.toNat ≤ s.kiln.nextExport
    (good → ∃ t, exec (.kilnAckSeqWrite ag r v) s = .next t ∧ t = { s with regs := t.regs } ∧
      (∀ q, q < 4 → t.reg (KILN_ACK_SEQ q) = v) ∧ ∀ g, (∀ q, g ≠ KILN_ACK_SEQ q) → t.reg g = s.reg g) ∧
    (¬good → ∃ t, exec (.kilnAckSeqWrite ag r v) s = .next t ∧
      t = s.log (KILN_ACK_SEQ r / 0x100000000) stRANGE 1 ag.code (KILN_ACK_SEQ r % 0x100000000) 0))

/-- A 1 in bit 0 of a count-clear register zeroes exactly the counters that the register names. Rests on R141, R190, R218,
R241, R298, R334, R369, R399, R452, R477, R503. For each of the eleven count-clear commands: where bit 0 of the value
written is 1, every counter that the table names for the register reads 0 and every other register stays; where it is
0, no register changes. Nothing but the registers changes. -/
def Obligations.CountClears : Prop :=
  let clears (c : Instr) (s : State) (v : W64) (l : List Reg) :=
    ∃ t, exec c s = .next t ∧ t = { s with regs := t.regs } ∧
      ∀ g, t.reg g = if v.getLsbD 0 = true ∧ g ∈ l then 0 else s.reg g
  ∀ (s : State) (ag : Agent) (v : W64), s.powered = true → ag.wf = true →
    (∀ b, b < 512 → clears (.mxCountClear ag b v) s v
      [MX_FEED_CYCLES b, MX_FREEZE_FEED b, MX_FREEZE_DRAIN b, MX_BRIDGE_TRANSIENT b, MX_BRIDGE_FAIL b, MX_BRIDGE_SKIP b,
       MX_PARITY_COUNT b, MX_REPLAY_CYCLES b]) ∧
    (∀ b, b < 512 → clears (.blkCountClear ag b v) s v
      [BLK_BANK_WAIT_CYCLES b, BLK_CPL_STALL_CYCLES b, BLK_SPILL_PUSHES b, BLK_DC_MISSES b, BLK_DC_STREAM_LINES b,
       BLK_ECC_CORRECTED b, VE_RESIDUE_RETRY b, VE_RESIDUE_FAIL b]) ∧
    (∀ r c, r < 4 → c < 64 → clears (.dmaChCountClear ag r c v) s v
      [DMA_CH_REFETCH r c, DMA_CH_DB_IGNORED r c, DMA_CH_BYTES r c]) ∧
    (∀ r, r < 4 → clears (.watchCountClear ag r v) s v
      [PEG_NARROW_COUNT r, WATCH_FIRED r, WATCH_EXPIRED r, WATCH_SPILL_ARMS r, WATCH_EVENT_HELD r]) ∧
    (∀ r, r < 4 → clears (.mgmtCohCountClear ag r v) s v
      [MGMT_COH_SLC_HITS r, MGMT_COH_SLC_MISSES r, MGMT_COH_C2C r, MGMT_COH_RECALLS r, MGMT_COH_BACK_INVAL r,
       MGMT_COH_RETRIES r, MGMT_COH_POISON_READS r, MGMT_COH_LOST_POISONED r]) ∧
    (∀ r, r < 4 → clears (.mgmtMemCountClear ag r v) s v
      ([MGMT_MEM_BISQUE_ROWS r, MGMT_MEM_PAT_MISSES r, MGMT_MEM_RBQ_MISSES r] ++
        (List.range 24).map fun i => MGMT_REG_WAIT r (i / 8) (i % 8))) ∧
    (∀ k, k < 16 → clears (.fabPortCountClear ag k v) s v
      [FAB_PORT_FEC_CORR k, FAB_PORT_FEC_UNCORR k, FAB_PORT_CRC_ERR k, FAB_PORT_RETRY k, FAB_PORT_DOWN_EVENTS k,
       FAB_PORT_FLITS_TX k, FAB_ROUTE_SPILL_HITS k]) ∧
    (∀ r, r < 4 → clears (.fabCollCountClear ag r v) s v
      ([FAB_STRUM_SPILL_ENTRIES r, FAB_COLL_SCHED_DISCARD r, FAB_COLL_RX_OVERFLOW r] ++
        (List.range 64).flatMap fun c => [FAB_COLL_CH_BYTES_TX r c, FAB_COLL_CH_BYTES_RX r c])) ∧
    (∀ r, r < 4 → clears (.kilnCountClear ag r v) s v [KILN_TAG_SPILLED r, KILN_UNOPENED r, KILN_SENSOR_FAULTS r]) ∧
    clears (.pwrCountClear ag v) s v
      ((List.range 4).flatMap fun r => PWR_DROOP_CYCLES r :: (List.range 7).map fun c => PWR_THROTTLE r c) ∧
    (∀ r, r < 4 → clears (.mgmtErrCountClear ag r v) s v
      [MGMT_XCHK_RUNS r, MGMT_XCHK_MISMATCH r, MGMT_XCHK_PREEMPT r, MGMT_TUNE_PASS r, MGMT_TUNE_FAIL r,
       MGMT_EVID_DROPPED r, MGMT_LANE_REPAIRS r])

/-! ### The matrix array -/

/-- Taking MX_LOAD, MX_SWAP and MX_STREAM from the queue. Rests on R95, R101, R102, R103, R104, R135, R136, R137, R138,
Table 3.2. A matrix command at the front of queue 0 of block b that the block may take leaves the queue and is
started: with the status of its acceptance checks where one fails, OVERRUN or ABORTED where its target has passed or
been aborted, and running otherwise. A running MX_LOAD makes SHADOW LOADING and counts as a load; MX_SWAP takes STATE
where SHADOW is EMPTY, RANGE on reserved bits; a running MX_STREAM takes K_ROWS and N_COLS of ACTIVE
and is complete at once if it has no rows. Only the block changes, and of its array only SHADOW's state and the load
count. -/
def Obligations.MatrixCommandsAreTaken : Prop :=
  ∀ (s : State) (b : Nat) (c : Cmd) (rest : List Cmd), s.powered = true → b < 512 →
    ((s.block b).engine 0).hw = c :: rest → s.canTake b 0 c = true →
    let x := s.block b
    let swapStatus := if x.array.shadowState = .empty then some stSTATE
      else if c.headerBad false = true ∨ c.f 16 383 0 ≠ 0 then some stRANGE else c.late
    (c.opcode = 0x20 →
      ∃ t, exec (.mxLoad b) s = .next t ∧ t = { s with blocks := s.blocks.set b (t.block b) } ∧
        t.block b = { x with engines := (t.block b).engines, array := (t.block b).array } ∧
        (t.block b).engine 0 = { x.engine 0 with hw := rest, started := (x.engine 0).started ++ [
          { cmd := c, status := if checkLoad x c = stOK then c.late else some (checkLoad x c) }] } ∧
        (t.block b).array = if checkLoad x c = stOK then
            { x.array with loads := x.array.loads + 1,
                           shadowState := if c.late = none then .loading else x.array.shadowState }
          else x.array) ∧
    (c.opcode = 0x21 →
      ∃ t, exec (.mxSwap b) s = .next t ∧ t = { s with blocks := s.blocks.set b (t.block b) } ∧
        t.block b = { x with engines := (t.block b).engines } ∧
        (t.block b).engine 0 = { x.engine 0 with hw := rest, started := (x.engine 0).started ++ [{ cmd := c, status := swapStatus }] }) ∧
    (c.opcode = 0x22 →
      (∀ r ∈ s.mxRunning b, r.cmd.opcode = 0x20 ∨
        (r.cmd.opcode = 0x22 ∧ (r.stopping.isSome = true ∨ r.cmd.rows ≤ r.fed))) →
      ∃ t r, exec (.mxStream b) s = .next t ∧ t = { s with blocks := s.blocks.set b (t.block b) } ∧
        t.block b = { x with engines := (t.block b).engines } ∧
        (t.block b).engine 0 = { x.engine 0 with hw := rest, started := (x.engine 0).started ++ [r] } ∧
        r.cmd = c ∧ r.count = 0 ∧ r.fed = 0 ∧
        r.status = (if checkStream x c ≠ stOK then some (checkStream x c) else if c.late.isSome then c.late
          else if c.rows = 0 then some stOK else none) ∧
        (r.status = none → r.kRows = x.array.active.kRows ∧ r.nCols = x.array.active.nCols ∧
          r.kind = kindNum x.array.active.kind))

/-- The load path, the end of a load and the swap cycle. Rests on R93, R95, R96, R97, R98, R99, R100, R127, R139, Table
3.2. MX_LOAD_PATH_START lets the waiting load write SHADOW unless a check group that has not passed still needs
SHADOW's tile. MX_LOAD_DONE with clean operands makes SHADOW READY with a tile of the command's mode, format, K_ROWS
and N_COLS, the elements read, every register's parity right, COUNT K_ROWS and status OK; with a poisoned row it leaves SHADOW EMPTY with POISON and logs it.
MX_SWAP_CYCLE, every earlier row fed, exchanges the tiles: ACTIVE becomes VALID, SHADOW READY or EMPTY as ACTIVE was
valid; with SHADOW EMPTY it answers STATE, with SHADOW LOADING it waits. -/
def Obligations.MatrixTilesLoadAndSwap : Prop :=
  ∀ (s : State) (b : Nat) (r : Run), s.powered = true → b < 512 →
    let x := s.block b
    let put (q : Run) : Engine :=
      { x.engine 0 with started := (x.engine 0).started.map fun p => if p.cmd.seq = q.cmd.seq then q else p }
    let tileRows := (List.range (r.cmd.f 26 15 0)).map fun i => (i, State.tileRow r.cmd i)
    let scaleRows := (List.range (if isMx (r.cmd.f 31 4 0) then ceilDiv (r.cmd.f 26 15 0) 32 else 0)).map fun i =>
      (r.cmd.f 26 15 0, r.cmd.f 20 31 0 + i * 128)
    let poisoned := (s.firstPoisonRow b (rowBytes (r.cmd.f 31 4 0) (r.cmd.f 28 15 0)) tileRows).orElse fun _ =>
      s.firstPoisonRow b (r.cmd.f 28 15 0) scaleRows
    (s.loadRun b false = some r →
      ((∃ g ∈ x.array.groups, g.tile.id = x.array.shadow.id ∧ g.state = .feeding) →
        exec (.mxLoadPathStart b) s = .next s) ∧
      ((∀ g ∈ x.array.groups, ¬(g.tile.id = x.array.shadow.id ∧ g.state = .feeding)) →
        exec (.mxLoadPathStart b) s = .next
          ((s.setBlock b (x.setEngine 0 (put { r with writing := true, free := s.freeCount }))).nextFree))) ∧
    (s.loadRun b true = some r → poisoned = none → stationaryOk (r.cmd.f 30 7 0) (r.cmd.f 31 4 0) = true →
      ∃ t tile, exec (.mxLoadDone b) s = .next t ∧
        t = s.setBlock b { x.setEngine 0 (put { r with status := some stOK, count := r.cmd.f 26 15 0 }) with
                             array := { x.array with shadow := tile, shadowState := .ready } } ∧
        tile.mode = r.cmd.f 30 7 0 ∧ tile.format = r.cmd.f 31 4 0 ∧ tile.kRows = r.cmd.f 26 15 0 ∧
        tile.nCols = r.cmd.f 28 15 0 ∧ tile.loads = x.array.loads - 1 ∧ tile.badParity = none ∧
        tile.elems = (List.range (r.cmd.f 26 15 0)).map fun k =>
          s.storeRow b (State.tileRow r.cmd k) (r.cmd.f 31 4 0) (r.cmd.f 28 15 0)) ∧
    (∀ i off, s.loadRun b true = some r → poisoned = some (i, off) →
      ∃ t, exec (.mxLoadDone b) s = .next t ∧
        t = (s.log (b / 128) stPOISON 2 (blockAgent s.moduleId b).code (storeBase b + off / 8 * 8) 0).setBlock b
          { x.setEngine 0 (put { r with status := some stPOISON, count := i, detail := w64 off }) with
              array := { x.array with shadowState := .empty } }) ∧
    ((s.mxRunning b).find? (fun q => q.cmd.opcode == 0x21) = some r →
      (∀ q ∈ s.mxRunning b, q.cmd.opcode ≠ 0x22 ∨ r.cmd.seq < q.cmd.seq ∨ q.stopping.isSome = true ∨ q.cmd.rows ≤ q.fed) →
      (∀ g ∈ x.array.groups, ¬(g.replay = true ∧ g.state = .feeding)) →
      (x.array.shadowState = .loading → exec (.mxSwapCycle b) s = .next s) ∧
      (x.array.shadowState = .empty →
        exec (.mxSwapCycle b) s = .next (s.setBlock b (x.setEngine 0 (put { r with status := some stSTATE })))) ∧
      (x.array.shadowState = .ready →
        exec (.mxSwapCycle b) s = .next (s.setBlock b { x.setEngine 0 (put { r with status := some stOK }) with
          array := { x.array with active := x.array.shadow, shadow := x.array.active, activeValid := true,
                                  shadowState := if x.array.activeValid = true then .ready else .empty } })))

/-- Rows are fed, checked in groups, committed, and released to FEED_PEG + 1. Rests on R91, R102, R106, R108, R110, R112,
R114, R115, R118, R128, R129, R130. With no replay due (and no block muted and no collective running, whose reports would
follow): MX_ROW_FEED of the oldest stream with rows left first lets an upset hit its register of ACTIVE; it then counts
MX_FREEZE_DRAIN where a row that starts a group finds three pending or a ring blocks, MX_FREEZE_FEED where an element that the row
needs is not granted, and else feeds one row into its check group, every register's parity right. GROUP_CHECK of a
complete group marks it passed where every check passes, and a first failure clears its rows for a replay.
MX_ROW_COMMIT commits the next row of a passed group: to its entry, or drained through to the store.
FEED_PEG_RELEASE adds a group's row count to FEED_PEG + 1. -/
def Obligations.MatrixRowsFeedCheckAndCommit : Prop :=
  (∀ (s : State) (b : Nat) (granted : Bool) (errs : List ArrayError) (upset : Option (Nat × Nat)) (r : Run),
    s.powered = true → b < 512 → (∀ y ∈ s.blocks, y.2.state ≠ .muted) → (∀ y ∈ s.colls, y.2.state ≠ .running) →
    (∀ g ∈ (s.block b).array.groups, ¬(g.replay = true ∧ g.state = .feeding ∧ g.rows.length < g.size)) →
    (s.mxRunning b).find? (fun q => q.cmd.opcode == 0x22 && q.stopping.isNone && decide (q.fed < q.cmd.rows)) = some r →
    let x : Block := match upset with
      | some (row, col) => { s.block b with array := (s.block b).array.upset (s.block b).array.active.id row col }
      | none => s.block b
    let hit : State := if upset.isSome then s.setBlock b x else s
    let tile := x.array.active
    let drainFull := (r.fed % 64 = 0 ∧ 3 ≤ x.array.groups.length) ∨ s.ringBlocked b = true
    let hungry := (granted = false ∧ 0 < tile.kRows ∧ 0 < tile.nCols) ∨
      (r.cmd.feedWait = true ∧ (s.peg (r.cmd.f 36 15 0)).value.toNat < r.fed + 1)
    let fedGroups := State.addRow x.array.groups r.cmd.seq tile r.fed r.cmd.rows (s.feedRow b r tile r.fed errs)
    let counted (g : Reg) (n : Nat) := s.regs.set g (s.reg g + w64 n)
    (drainFull → ∃ t, exec (.mxRowFeed b granted errs upset) s = .next t ∧
      t = { hit with regs := counted (MX_FREEZE_DRAIN b) 1, time := t.time }) ∧
    (¬drainFull → hungry → ∃ t, exec (.mxRowFeed b granted errs upset) s = .next t ∧
      t = { hit with regs := counted (MX_FREEZE_FEED b) 1, time := t.time }) ∧
    (¬drainFull → ¬hungry → (r.cmd.feedWait = false ∨ r.fed < r.feedTo) → tile.badParity = none →
      s.rowPoison b r tile r.fed = none →
      ∃ t, exec (.mxRowFeed b granted errs upset) s = .next t ∧
        t = { s with regs := counted (MX_FEED_CYCLES b) (if fmtWidth tile.format = 16 then 2 else 1),
                     blocks := s.blocks.set b (t.block b), time := t.time } ∧
        t.block b = { x with engines := (t.block b).engines, array := { x.array with groups := fedGroups } } ∧
        (t.block b).engine 0 = { x.engine 0 with started := (x.engine 0).started.map fun q =>
          if q.cmd.seq = r.cmd.seq then { r with fed := r.fed + 1 } else q })) ∧
  (∀ (s : State) (b : Nat) (g : Group) (r : Run), s.powered = true → b < 512 →
    (∀ y ∈ s.blocks, y.2.state ≠ .muted) → (∀ y ∈ s.colls, y.2.state ≠ .running) →
    let x := s.block b
    x.array.groups.find? (fun q => q.state == .feeding && q.rows.length == q.size) = some g → g.replay = false →
    (s.mxRunning b).find? (fun q => q.cmd.seq == g.seq) = some r →
    let v := groupVerdict g.tile (r.cmd.f 31 4 0) r.cmd.absent g.rows
    let mapped (g' : Group) := x.array.groups.map fun q => if q.seq = g.seq ∧ q.first = g.first then g' else q
    let put (g' : Group) : Block := { x with array := { x.array with groups := mapped g' } }
    ∃ t, exec (.groupCheck b) s = .next t ∧
      t = { s with regs := t.regs, blocks := s.blocks.set b (t.block b), time := t.time } ∧
      t.reg (MX_BRIDGE_SKIP b) = s.reg (MX_BRIDGE_SKIP b) + w64 v.1 ∧
      (v.2.1 = [] ∧ v.2.2 = [] → t.block b = put { g with state := .passed }) ∧
      (¬(v.2.1 = [] ∧ v.2.2 = []) → t.block b = put { g with rows := [], replay := true })) ∧
  (∀ (s : State) (b : Nat) (g : Group) (rest : List Group) (r : Run) (f : FedRow), s.powered = true → b < 512 →
    let x := s.block b
    x.array.groups = g :: rest → (s.mxRunning b).find? (fun q => q.cmd.seq == g.seq) = some r → g.rows[g.done]? = some f →
    g.state = .passed → s.ringBlocked b = false → r.cmd.feedWait = false →
    let k := kindOfNum r.kind
    let slot := r.cmd.f 32 7 0 + f.index
    let old := x.array.entries.get {} slot
    let new (from_ : Nat → Acc) := (List.range r.nCols).map fun j =>
      addPass k r.kRows (r.cmd.f 34 15 0) r.cmd.indexed (from_ j) f j
    let groups := if g.done + 1 = g.size then rest else { g with done := g.done + 1 } :: rest
    let arr (es : Map Nat Entry) : Array := { x.array with entries := es, groups := groups }
    let fresh := arr (x.array.entries.set slot { kind := k, cols := new fun _ => Acc.empty k })
    let added := arr (x.array.entries.set slot { kind := k, cols := new old.col ++ old.cols.drop r.nCols })
    let counted (t : State) := ∃ q ∈ ((t.block b).engine 0).started, q.cmd = r.cmd ∧ q.count = r.count + 1
    (r.cmd.drainThrough = false → (r.cmd.accAdd = false ∨ old.kind = .free) →
      ∃ t, exec (.mxRowCommit b) s = .next t ∧ t = s.setBlock b (t.block b) ∧ counted t ∧
        t.block b = { x with engines := (t.block b).engines, array := fresh }) ∧
    (r.cmd.drainThrough = false → r.cmd.accAdd = true → old.kind ≠ .free →
      ∃ t, exec (.mxRowCommit b) s = .next t ∧ t = s.setBlock b (t.block b) ∧ counted t ∧
        t.block b = { x with engines := (t.block b).engines, array := added }) ∧
    (r.cmd.drainThrough = true → r.cmd.accAdd = false →
      let d := drainOf r.cmd
      ∃ t, exec (.mxRowCommit b) s = .next t ∧ counted t ∧
        t = (s.storeWrite b (d.offset r.nCols f.index) (drainRow d f.index k (new fun _ => Acc.empty k))).setBlock b (t.block b) ∧
        t.block b = { x with engines := (t.block b).engines, array := arr x.array.entries })) ∧
  (∀ (s : State) (b : Nat) (r : Run), s.powered = true → b < 512 →
    ((s.block b).engine 0).started.find? (fun q => q.owed != []) = some r →
    let p := r.cmd.f 36 15 0 + 1
    s.regionLive (pegHome p) = true →
    ∃ t, exec (.feedPegRelease b) s = .next t ∧
      t = { s with blocks := s.blocks.set b (t.block b), pegs := t.pegs, watches := t.watches, gens := t.gens,
                   fired := t.fired, regs := t.regs } ∧
      (t.peg p).value = (s.peg p).value + w64 (r.owed.headD 0) ∧ (∀ q, q ≠ p → t.peg q = s.peg q) ∧
      (∀ g, (∀ i, g ≠ WATCH_FIRED i) → t.reg g = s.reg g) ∧
      (t.block b).engine 0 = { (s.block b).engine 0 with started := ((s.block b).engine 0).started.map fun q =>
        if q.cmd.seq = r.cmd.seq then { r with owed := r.owed.drop 1 } else q })

/-- MX_DRAIN and MX_SEED work through their entries. Rests on R78, R79, R101, R117, R118, R119, R120, R121, R135, R137,
R139. At the head of the queue, MX_DRAIN and MX_SEED wait while a matrix command other than a load or a swap runs; one
refused by its acceptance checks is started with that status and touches nothing; one accepted is started and works on
its entries at once. A running MX_DRAIN moves n entries on, at most to ENTRIES, and writes the block store alone; one
entry writes its rounded row at its DST offset of the block store and becomes FREE unless KEEP is set; the last gives OK,
or INEXACT where a drained chain was inexact. A running MX_SEED moves at most n entries on and leaves every other entry. One entry of it:
poisoned bytes stop it with POISON, logged, whatever its records hold (log 160, the model's choice); N_COLS 0
makes the entry FREE; SEED_KIND 1 makes it BF16 with the FP32 bits read; of
records, a COUNT above 65,536 stops it with RANGE, an invalid one or one of another KIND or SCALED with FORMAT, and
else the entry takes them. Nothing but the block (the store bytes of a drain, the log of a poisoned seed) changes. -/
def Obligations.MatrixDrainAndSeed : Prop :=
  (∀ (s : State) (b n : Nat) (c : Cmd) (rest : List Cmd), s.powered = true → b < 512 →
    ((s.block b).engine 0).hw = c :: rest → (∀ r ∈ s.mxRunning b, r.cmd.opcode ≠ c.opcode) →
    (c.opcode = 0x23 → (∃ r ∈ s.mxRunning b, r.cmd.opcode ≠ 0x20 ∧ r.cmd.opcode ≠ 0x21) → exec (.mxDrain b n) s = .next s) ∧
    (c.opcode = 0x24 → (∃ r ∈ s.mxRunning b, r.cmd.opcode ≠ 0x20 ∧ r.cmd.opcode ≠ 0x21) → exec (.mxSeed b n) s = .next s) ∧
    (s.canTake b 0 c = true → (∀ r ∈ s.mxRunning b, r.cmd.opcode = 0x20 ∨ r.cmd.opcode = 0x21) →
      (c.opcode = 0x23 → checkDrain (s.block b) c ≠ stOK →
        exec (.mxDrain b n) s = .next (s.takeHead b 0 c (checkDrain (s.block b) c))) ∧
      (c.opcode = 0x24 → checkSeed (s.block b) c ≠ stOK →
        exec (.mxSeed b n) s = .next (s.takeHead b 0 c (checkSeed (s.block b) c))) ∧
      (c.opcode = 0x23 → checkDrain (s.block b) c = stOK → c.late = none →
        exec (.mxDrain b n) s = exec (.mxDrain b n) (s.startRun b 0 { cmd := c })) ∧
      (c.opcode = 0x24 → checkSeed (s.block b) c = stOK → c.late = none →
        exec (.mxSeed b n) s = exec (.mxSeed b n) (s.startRun b 0 { cmd := c })))) ∧
  (∀ (s : State) (b n : Nat) (r : Run), s.powered = true → b < 512 →
    (s.mxRunning b).find? (fun q => q.cmd.opcode == 0x23) = some r → r.count ≤ r.cmd.f 18 15 0 →
    let x := s.block b
    let total := r.cmd.f 18 15 0
    let d := drainOf r.cmd
    let put (q : Run) := (x.engine 0).started.map fun p => if p.cmd.seq = r.cmd.seq then q else p
    let e := x.array.entries.get {} (r.cmd.f 16 7 0 + r.count)
    let chains := (List.range (r.cmd.f 20 15 0)).map e.col
    let stored := s.storeWrite b (d.offset (r.cmd.f 20 15 0) r.count) (drainRow d r.count e.kind chains)
    ∃ t q, exec (.mxDrain b n) s = .next t ∧
      t = { s with mem := t.mem, poison := t.poison, blocks := s.blocks.set b (t.block b) } ∧
      t.block b = { x with engines := (t.block b).engines, array := { x.array with entries := (t.block b).array.entries } } ∧
      (t.block b).engine 0 = { x.engine 0 with started := put q } ∧
      q.cmd = r.cmd ∧ q.count = min total (r.count + n) ∧
      q.status = (if q.count = total then some (if q.inexact = true then stINEXACT else stOK) else none) ∧
      (n = 1 → r.count < total → t.mem = stored.mem ∧ t.poison = stored.poison ∧
        q.inexact = (r.inexact || chains.any fun y => y.inexact) ∧
        (t.block b).array.entries = if r.cmd.f 17 0 0 = 1 then x.array.entries
          else x.array.entries.set (r.cmd.f 16 7 0 + r.count) {})) ∧
  (∀ (s : State) (b n : Nat) (r : Run), s.powered = true → b < 512 →
    (s.mxRunning b).find? (fun q => q.cmd.opcode == 0x24) = some r → r.count ≤ r.cmd.f 24 15 0 →
    let x := s.block b
    ∃ t q, exec (.mxSeed b n) s = .next t ∧
      t = { s with errLog := t.errLog, regs := t.regs, blocks := s.blocks.set b (t.block b) } ∧
      t.block b = { x with engines := (t.block b).engines, array := { x.array with entries := (t.block b).array.entries } } ∧
      (t.block b).engine 0 = { x.engine 0 with started := (x.engine 0).started.map fun p => if p.cmd.seq = r.cmd.seq then q else p } ∧
      q.cmd = r.cmd ∧ r.count ≤ q.count ∧ q.count ≤ r.count + n ∧ q.count ≤ r.cmd.f 24 15 0 ∧
      ∀ i, (i < r.cmd.f 22 7 0 + r.count ∨ r.cmd.f 22 7 0 + q.count ≤ i) →
        (t.block b).array.entries.find i = x.array.entries.find i) ∧
  (∀ (s : State) (b : Nat) (r : Run), s.powered = true → b < 512 →
    (s.mxRunning b).find? (fun q => q.cmd.opcode == 0x24) = some r → r.count < r.cmd.f 24 15 0 →
    let x := s.block b
    let slot := r.cmd.f 22 7 0 + r.count
    let cols := r.cmd.f 26 15 0
    let off := r.cmd.f 16 31 0 + r.count * seedP r.cmd
    let raw := (List.range cols).map fun j => s.storeNat b (off + j * seedZ r.cmd) (seedZ r.cmd)
    let put (q : Run) := (x.engine 0).started.map fun p => if p.cmd.seq = r.cmd.seq then q else p
    let left (q : Run) (es : Map Nat Entry) : Block :=
      { x.setEngine 0 { x.engine 0 with started := put q } with array := { x.array with entries := es } }
    let moved : Run :=
      { r with count := r.count + 1, status := if r.count + 1 = r.cmd.f 24 15 0 then some stOK else none }
    (∀ p, s.storePoison b off (cols * seedZ r.cmd) = some p →
      exec (.mxSeed b 1) s = .next ((s.log (b / 128) stPOISON 2 (blockAgent s.moduleId b).code (storeBase b + p / 8 * 8) 0).setBlock b
        (left { r with status := some stPOISON, detail := w64 p } x.array.entries))) ∧
    (s.storePoison b off (cols * seedZ r.cmd) = none → cols = 0 →
      exec (.mxSeed b 1) s = .next (s.setBlock b (left moved (x.array.entries.set slot {})))) ∧
    (s.storePoison b off (cols * seedZ r.cmd) = none → cols ≠ 0 → r.cmd.f 23 7 0 = 1 →
      exec (.mxSeed b 1) s = .next (s.setBlock b
        (left moved (x.array.entries.set slot { kind := .bf16, cols := raw.map fun w => { a := w } })))) ∧
    (s.storePoison b off (cols * seedZ r.cmd) = none → cols ≠ 0 → r.cmd.f 23 7 0 ≠ 1 →
      let recs := raw.map Raw.decode
      let first := recs.headD (Raw.decode 0)
      let stopped (st : Nat) := s.setBlock b (left { r with status := some st, detail := 0 } x.array.entries)
      let tooMany := ∃ q ∈ recs, 65536 < q.acc.count
      let mixed := ∃ q ∈ recs, q.valid = false ∨ q.kind ≠ first.kind ∨ q.scaled ≠ first.scaled
      (tooMany → exec (.mxSeed b 1) s = .next (stopped stRANGE)) ∧
      (¬tooMany → mixed → exec (.mxSeed b 1) s = .next (stopped stFORMAT)) ∧
      (¬tooMany → ¬mixed → exec (.mxSeed b 1) s = .next (s.setBlock b
        (left moved (x.array.entries.set slot { kind := first.entryKind, cols := recs.map (·.acc) }))))))

/-! ### Blocks and their engines -/

/-! ### Blocks and their engines -/

/-- Pushing a command, refilling from spill, the end of a wait, and clearing marks. Rests on R152, R153, R154, R158, R159,
R160. A push by a sequencer with nothing held back takes the staged 56 bytes and the stored 8, the next SEQ, and
clears the window; an unlisted opcode is complete with RANGE through ENGINE 7; a command goes to the hardware queue
while the spill queue is empty and fewer than 64 wait, else to the spill queue, counted. SPILL_REFILL moves up to 32
commands when 32 or fewer wait. TOKEN_WAIT_END completes the waiting head with ABORTED where a waited token has an
older mark and CONT_ON_ERR is clear, else lets it start. BLK_TOKEN_ERR_CLEAR removes exactly the marks of the tokens
written 1. -/
def Obligations.CommandsEnterTheirQueues : Prop :=
  (∀ (s : State) (b : Nat) (v : W64), s.powered = true → b < 512 →
    let h := 144 + b
    let x := s.block b
    s.hartReady h = true → (s.hart h).stores = [] → (s.hart h).combine = none → (s.hart h).wc = [] → s.out = [] → x.xchk = none →
    let c0 : Cmd := { seq := x.nextSeq, word := (x.staging &&& BitVec.ofNat 512 (2 ^ 448 - 1)) ||| (v.setWidth 512 <<< 448) }
    let c : Cmd := { c0 with target := targetOf s c0.fretKind (c0.f 12 31 0) }
    let e := engineOf c.opcode
    let g := x.engine e
    g.spill.length < 4032 →
    ∃ t, exec (.cmdPush b v) s = .next t ∧
      t = { s with blocks := s.blocks.set b (t.block b), harts := t.harts, regs := t.regs, freeCount := s.freeCount + 1 } ∧
      (∀ j, j ≠ h → t.hart j = s.hart j) ∧ 
      t.hart h = { s.hart h with pc := (t.hart h).pc, instret := (s.hart h).instret + 1, wait := .none } ∧
      (∀ r, r ≠ BLK_SPILL_PUSHES b → t.reg r = s.reg r) ∧
      t.block b = { x with staging := 0, nextSeq := x.nextSeq + 1, engines := (t.block b).engines } ∧
      (∀ k, k ≠ e → (t.block b).engine k = x.engine k) ∧
      (e = 7 → (t.block b).engine e = { g with started := g.started ++ [{ cmd := c, status := some stRANGE }] }) ∧
      (e ≠ 7 → g.spill = [] → g.hw.length < 64 → (∀ d ∈ g.hw ++ [c], d.late = none) →
        (t.block b).engine e = { g with hw := g.hw ++ [c] } ∧ t.regs = s.regs) ∧
      (e ≠ 7 → (g.spill ≠ [] ∨ 64 ≤ g.hw.length) →
        (t.block b).engine e = { g with spill := g.spill ++ [{ c with spilled := true }] } ∧
        t.reg (BLK_SPILL_PUSHES b) = s.reg (BLK_SPILL_PUSHES b) + 1)) ∧
  (∀ (s : State) (b e : Nat), s.powered = true → (Instr.spillRefill b e).wf = true →
    let g := (s.block b).engine e
    (g.spill = [] ∨ 32 < g.hw.length → exec (.spillRefill b e) s = .next s) ∧
    (g.spill ≠ [] → g.hw.length ≤ 32 → (∀ d ∈ g.hw ++ g.spill.take 32, d.late = none) →
      exec (.spillRefill b e) s = .next (s.setBlock b ((s.block b).setEngine e
        { g with hw := g.hw ++ g.spill.take 32, spill := g.spill.drop 32 })))) ∧
  (∀ (s : State) (b e : Nat) (c : Cmd) (rest : List Cmd), s.powered = true → (Instr.tokenWaitEnd b e).wf = true →
    let x := s.block b
    let g := x.engine e
    g.hw = c :: rest → c.wait ≠ 0 → c.waited = false →
    (∀ d ∈ x.outstanding, ¬(d.seq < c.seq ∧ d.sigEn = true ∧ c.wait.testBit d.sig = true)) → (∀ d ∈ rest, d.late = none) →
    let failed := ∃ m ∈ x.marks, c.wait.testBit m.1 = true ∧ m.2 < c.seq
    (failed → c.contOnErr = false → exec (.tokenWaitEnd b e) s = .next (s.setBlock b (x.setEngine e
      { g with hw := rest, started := g.started ++ [{ cmd := c, status := some stABORTED }] }))) ∧
    ((¬failed ∨ c.contOnErr = true) → exec (.tokenWaitEnd b e) s =
      .next (s.setBlock b (x.setEngine e { g with hw := { c with waited := true } :: rest })))) ∧
  (∀ (s : State) (ag : Agent) (b : Nat) (v : W64), s.powered = true → (Instr.blkTokenErrClear ag b v).wf = true →
    ∃ t, exec (.blkTokenErrClear ag b v) s = .next t ∧ t = s.setBlock b { s.block b with marks := (t.block b).marks } ∧
      ∀ m, m ∈ (t.block b).marks ↔ m ∈ (s.block b).marks ∧ ¬(m.1 < 16 ∧ v.getLsbD m.1 = true))

/-- The completion of the oldest started command of an engine. Rests on R155, R159, R161, R162, R163, Table 4.6. A
completion waits while the command runs, owes a release-add, has an unacknowledged posted write, or signals a peg at
FABRIC while a write that the block's acquires made visible to it is not acknowledged (R224). Else, with the
ring enabled and not full, its 32-byte record goes to the entry at BLK_CPL_TAIL mod the size and TAIL moves on by one;
BLK_CPL_CTRL.WAKE wakes the sequencer; with the ring full (block not in RESET) only BLK_CPL_STALL_CYCLES counts; with the
ring disabled no record is written. A gather-scatter command that has issued all its rows ends with its status once its
writes are acknowledged.
The command leaves; an error code of a command with SIG_EN marks its token with the lowest SEQ; the completion peg is
release-added after that. Stated for a status that counts no fret miss, an untagged command and no late command
queued. -/
def Obligations.CompletionsAreWritten : Prop :=
  ∀ (s : State) (b e : Nat) (r : Run) (rest : List Run), s.powered = true → (Instr.completionWrite b e).wf = true →
    let ended (q : Run) : Run :=
      if q.status = none ∧ ∀ p ∈ s.out, ¬(p.posted = true ∧ p.origin = .gs b q.cmd.seq) then { q with status := q.stopping } else q
    let gs := (s.block b).engine 3
    let x := (s.block b).setEngine 3 { gs with started := gs.started.map ended }
    let y := s.setBlock b x
    let g := x.engine e
    let c := r.cmd
    let carries := c.pegEn = true ∧ c.f 7 3 2 = 3 ∧ ∃ n ∈ s.carried.get [] (144 + b), s.awaited n = true
    g.started = r :: rest →
    (r.status = none ∨ r.owed ≠ [] ∨ (∃ q ∈ s.out, q.posted = true ∧ q.origin = .gs b c.seq) ∨ carries →
      exec (.completionWrite b e) s = .next y) ∧
    ∀ st, r.status = some st → r.owed = [] → (∀ q ∈ s.out, ¬(q.posted = true ∧ q.origin = .gs b c.seq)) → ¬carries →
      st ≠ stOVERRUN → st ≠ stDEADLINE → st ≠ stBISQUE_USED → s.kiln.tags.find (c.f 8 31 0) = none →
      (∀ d ∈ g.hw, d.late = none) →
      let ctrl := s.reg (BLK_CPL_CTRL b)
      let tail := (s.reg (BLK_CPL_TAIL b)).toNat
      let size := 2 ^ bits ctrl 27 24
      let full := (tail + 2 ^ 32 - (s.reg (BLK_CPL_HEAD b)).toNat) % 2 ^ 32 = size
      let marks := if c.sigEn = true ∧ isSuccess st = false then x.marks.set c.sig (min c.seq (x.marks.get c.seq c.sig))
        else x.marks
      let left : Block := { x.setEngine e { g with started := rest } with marks := marks }
      let signalled (u : State) : State := if c.pegEn = true then
          u.signalPeg (blockAgent s.moduleId b) (c.f 4 15 0) (c.f 7 3 2) (w64 (c.f 6 7 0)) else u
      let recorded : State :=
        (y.wrNat (storeBase b + (bits ctrl 20 0 + tail % size * 32)) 32 (y.cplRecord b e r)).setReg (BLK_CPL_TAIL b)
          (w64 ((tail + 1) % 2 ^ 32))
      let written : State := if ctrl.getLsbD 28 = true then recorded.wake (144 + b) else recorded
      (ctrl.getLsbD 29 = false → exec (.completionWrite b e) s = .next (signalled (y.setBlock b left))) ∧
      (ctrl.getLsbD 29 = true → ¬full → exec (.completionWrite b e) s = .next (signalled (written.setBlock b left))) ∧
      (ctrl.getLsbD 29 = true → full → x.state ≠ .reset →
        exec (.completionWrite b e) s =
          .next (y.setReg (BLK_CPL_STALL_CYCLES b) (s.reg (BLK_CPL_STALL_CYCLES b) + 1))) ∧
      (ctrl.getLsbD 29 = true → full → x.state = .reset →
        exec (.completionWrite b e) s = .next (signalled (y.setBlock b left)))

/-- START, HALT, RESET, the release, a double trap, and clearing the asynchronous error. Rests on R146, R148, R184, R185,
R189, R191, Table 4.15, Table 4.21. START takes only a HALTED block to RUNNING, its sequencer fetching at BLK_SEQ_ENTRY, which changes nothing else where it lies
in the own block store and holds no poison; HALT
only a RUNNING one to HALTED; RESET a HALTED or RUNNING one to RESET, every started command stopped and every queued
one completed with ABORTED (block without cross-check or tuning check); an action the table does not allow is logged
with STATE and changes nothing else. The release makes a drained block in RESET HALTED with empty queues and array,
its matrix counters 0, its sequencer new and its caches empty, stated with no coherence transaction in progress. A trap
while a trap is being taken halts a RUNNING block and sets SEQ_FAULT. Writing 1 to VALID of
BLK_ASYNC_ERR clears VALID, OVERFLOW and COUNT. -/
def Obligations.BlockStatesChange : Prop :=
  (∀ (s : State) (ag : Agent) (b : Nat), s.powered = true → (Instr.blkStart ag b).wf = true →
    let x := s.block b
    let refused := s.log (b / 128) stSTATE 1 ag.code (0x01000008 + b % 128 * 0x10000) 0
    let entry := s.reg (BLK_SEQ_ENTRY b)
    let started := (s.setBlock b { x with state := .running }).setHart (144 + b)
      { s.hart (144 + b) with pc := entry, wfi := false, wait := .none, inTrap := false }
    (x.state = .halted → exec (.blkStart ag b) s = .next (started.seqFetch b)) ∧
    (x.state = .halted → entry.toNat < 0x200000 → s.firstPoison (storeBase b + entry.toNat) 4 = none →
      exec (.blkStart ag b) s = .next started) ∧
    (x.state ≠ .halted → exec (.blkStart ag b) s = .next refused) ∧
    (x.state = .running → exec (.blkHalt ag b) s = .next (s.setBlock b { x with state := .halted })) ∧
    (x.state ≠ .running → exec (.blkHalt ag b) s = .next refused) ∧
    (x.state = .reset ∨ x.state = .muted → exec (.blkReset ag b) s = .next refused) ∧
    (x.state = .halted ∨ x.state = .running → x.xchk = none → x.tuning = [] →
      let ended (e : Nat) (q : Run) : Run :=
        if e = 3 ∧ q.status = none ∧ ∀ p ∈ s.out, ¬(p.posted = true ∧ p.origin = .gs b q.cmd.seq) then
          { q with status := q.stopping } else q
      let stopped (e : Nat) (q : Run) : Run := if (ended e q).status = none then (ended e q).stop stABORTED else ended e q
      ∃ t, exec (.blkReset ag b) s = .next t ∧
        t = { s with blocks := s.blocks.set b (t.block b), watches := t.watches, gens := t.gens, fired := t.fired, harts := t.harts,
                     eventQ := s.eventQ.erase (144 + b), heldEvents := t.heldEvents } ∧
        (∀ h, t.hart h = if h = 144 + b then { s.hart h with eiids := [] } else s.hart h) ∧
        (t.block b).state = .reset ∧ (t.block b).array.groups.length ≤ x.array.groups.length ∧
        (t.block b).array.entries = x.array.entries ∧ (t.block b).nextSeq = x.nextSeq ∧ (t.block b).marks = x.marks ∧
        ∀ e, e < 5 → ((t.block b).engine e).hw = [] ∧ ((t.block b).engine e).spill = [] ∧
          ((t.block b).engine e).started =
            (x.engine e).started.map (stopped e) ++
              ((x.engine e).hw ++ (x.engine e).spill).map fun c => { cmd := c, status := some stABORTED })) ∧
  (∀ (s : State) (b : Nat), s.powered = true → b < 512 →
    (¬((s.block b).state = .reset ∧ s.drained b = true ∧ s.dieLive (b / 128) (b % 128 / 64) = true) →
      exec (.blockResetRelease b) s = .next s) ∧
    ((s.block b).state = .reset → s.drained b = true → s.dieLive (b / 128) (b % 128 / 64) = true →
      s.txns = [] →
      ∃ t, exec (.blockResetRelease b) s = .next t ∧
        t = { s with blocks := s.blocks.set b { state := .halted, scores := (s.block b).scores }, regs := t.regs,
                     harts := s.harts.erase (144 + b), reserved := s.reserved.erase (144 + b), dir := t.dir, dirOrder := t.dirOrder,
                     caches := t.caches, evicting := t.evicting, icache := t.icache, retries := t.retries, out := t.out,
                     answers := t.answers } ∧
        t.hart (144 + b) = {} ∧ (∀ x ∈ t.caches, x.1.1 ≠ 144 + b) ∧ (∀ x ∈ t.evicting, x.1.1 ≠ 144 + b) ∧
        (∀ x ∈ t.icache, x.1.1 ≠ 144 + b) ∧ ∀ g, t.reg g = if g ∈ State.mxCounters b then 0 else s.reg g)) ∧
  (∀ (s : State) (b : Nat), s.powered = true → b < 512 →
    ((s.block b).state = .running → (s.hart (144 + b)).inTrap = true →
      exec (.seqDoubleTrap b) s = .next ((s.setBlock b { s.block b with state := .halted, seqFault := true }).setHart (144 + b)
        { s.hart (144 + b) with wait := .none, wfi := false })) ∧
    ((s.block b).state ≠ .running ∨ (s.hart (144 + b)).inTrap = false → exec (.seqDoubleTrap b) s = .next s)) ∧
  (∀ (s : State) (ag : Agent) (b : Nat) (v : W64), s.powered = true → (Instr.blkAsyncErrClear ag b v).wf = true →
    (v.getLsbD 8 = false → exec (.blkAsyncErrClear ag b v) s = .next s) ∧
    (v.getLsbD 8 = true → ∃ y, exec (.blkAsyncErrClear ag b v) s = .next (s.setReg (BLK_ASYNC_ERR b) y) ∧
      y = s.reg (BLK_ASYNC_ERR b) &&& 0xFFFF00000000FCFF#64))

/-- BLOCK_MUTE of a block whose die is live. Rests on R184, R186, R239, R487, Table 4.15. A mute of a HALTED or RUNNING
block without cross-check or tuning check puts it in MUTED with the cause; every started command of its engines stops with
MUTED and every queued one completes with MUTED; the watches that target its sequencer go, with those that have fired and
are not delivered, and its event queue empties; a mute by the suspect score enters the mute list once. Memory, the caches
and every other hart and block stay. A mute of a block in RESET or MUTED changes the region error log, by an entry with
STATE, and fabric time alone. Stated with no collective running, and each block listed once. -/
def Obligations.MutedBlocks : Prop :=
  ∀ (s : State) (b cause : Nat), s.powered = true → b < 512 → (∀ y ∈ s.colls, y.2.state ≠ .running) →
    (∀ y ∈ s.blocks, s.block y.1 = y.2) →
    let x := s.block b
    let ended (e : Nat) (q : Run) : Run :=
      if e = 3 ∧ q.status = none ∧ ∀ p ∈ s.out, ¬(p.posted = true ∧ p.origin = .gs b q.cmd.seq) then
        { q with status := q.stopping } else q
    let stopped (e : Nat) (q : Run) : Run := if (ended e q).status = none then (ended e q).stop stMUTED else ended e q
    (x.state = .halted ∨ x.state = .running → x.xchk = none → x.tuning = [] →
      ∃ t, exec (.blockMute b cause) s = .next t ∧
        t = { s with blocks := s.blocks.set b (t.block b), watches := t.watches, gens := t.gens, fired := t.fired, harts := t.harts,
                     eventQ := s.eventQ.erase (144 + b), heldEvents := t.heldEvents, muteList := t.muteList,
                     regs := t.regs, errLog := t.errLog, mgmt := t.mgmt, pegs := t.pegs, outbox := t.outbox,
                     time := t.time } ∧
        (∀ h, t.hart h = if h = 144 + b then { s.hart h with eiids := [] } else s.hart h) ∧
        t.muteList = (if cause = 1 ∧ b ∉ s.muteList then s.muteList ++ [b] else s.muteList) ∧
        (∀ y ∈ t.watches, State.targetsHart y.2 (144 + b) = false) ∧ (∀ y ∈ t.fired, State.targetsHart y.2.watch (144 + b) = false) ∧
        (t.block b).state = .muted ∧ (t.block b).muteCause = cause ∧ (t.block b).array.entries = x.array.entries ∧ (t.block b).nextSeq = x.nextSeq ∧
        ∀ e, e < 5 → ((t.block b).engine e).hw = [] ∧ ((t.block b).engine e).spill = [] ∧
          ((t.block b).engine e).started =
            (x.engine e).started.map (stopped e) ++
              ((x.engine e).hw ++ (x.engine e).spill).map fun c => { cmd := c, status := some stMUTED }) ∧
    (x.state = .reset ∨ x.state = .muted →
      ∃ t, exec (.blockMute b cause) s = .next t ∧
        t = { s.log (b / 128) stSTATE 1 (blockAgent s.moduleId b).code 0 0 with time := t.time })

/-- One element of VE_BINARY, VE_UNARY and VE_FMA. Rests on R165, R166, R167, R170, R173, R183, R293, Table 4.8, Table
4.9. With the command running on engine 1 of block b and elements left, one unit of work reads the element's operands
from the block store at their row and element offsets, widens them to FP32, computes, rounds to the output format,
writes it at its row and element offset of DST and moves COUNT on by one; the last gives OK. VE_BINARY takes its
second operand from PARAM where FUNC bit 7 is set. A poisoned operand byte stops the command with POISON and DETAIL
its offset, logged with cause 2. Stated with no residue error and, for VE_BINARY and VE_FMA, no block muted and no collective
running; nothing
else but the block changes. -/
def Obligations.VectorElements : Prop :=
  ∀ (s : State) (b : Nat) (r : Run), s.powered = true → b < 512 → s.activeRun b 1 = some r →
    let quiet := (∀ y ∈ s.blocks, y.2.state ≠ .muted) ∧ ∀ y ∈ s.colls, y.2.state ≠ .running
    let x := s.block b
    let g := x.engine 1
    let c := r.cmd
    let total := c.n * c.nRows
    r.count < total →
    let put (u : State) (q : Run) : State := u.setBlock b (x.setEngine 1 { g with started := g.started.map fun p => if p.cmd.seq = c.seq then q else p })
    let moved : Run := { r with count := r.count + 1, status := if r.count + 1 = total then some stOK else none }
    let row := r.count / c.n
    let e := r.count % c.n
    let z := fmtBytes c.fmtA
    let zo := fmtBytes c.fmtOut
    let offA := c.srcA + row * pitchOr c.srcPitch (c.n * z) + e * z
    let pitchB := if c.srcBPitch = 0 then 0 else c.srcBPitch * 64
    let offB := c.srcB + row * pitchB + e * z
    let offC := c.aux + row * pitchB + e * z
    let val (off : Nat) := widen c.fmtA (s.storeNat b off z)
    let wrote (rnd : Option Nat) (v : Nat) : State :=
      s.storeWrite b (c.dst + row * pitchOr c.dstPitch (c.n * zo) + e * zo) (leBytes zo (roundFmt c.fmtOut rnd c.sat (dec32 v)))
    let poisoned (p : Nat) : State := put (s.log (b / 128) stPOISON 2 (blockAgent s.moduleId b).code (storeBase b + p / 8 * 8) 0)
      { r with status := some stPOISON, detail := w64 p }
    (c.opcode = 0x41 → s.storePoison b offA z = none →
      exec (.veUnary b 1) s = .next (put (wrote (c.rnd true c.param row e) (vecUnary c.func (val offA))) moved)) ∧
    (∀ p, c.opcode = 0x41 → s.storePoison b offA z = some p → exec (.veUnary b 1) s = .next (poisoned p)) ∧
    (quiet →
      (c.opcode = 0x40 → c.func.testBit 7 = false → s.storePoison b offA z = none → s.storePoison b offB z = none →
        ∃ t, exec (.veBinary b 1 none) s = .next t ∧
          t = { put (wrote (c.rnd true c.param row e) (vecBinary (c.func % 16) (val offA) (val offB))) moved with time := t.time }) ∧
      (c.opcode = 0x40 → c.func.testBit 7 = true → s.storePoison b offA z = none →
        ∃ t, exec (.veBinary b 1 none) s = .next t ∧
          t = { put (wrote (c.rnd true 0 row e) (vecBinary (c.func % 16) (val offA) (c.param % 2 ^ 32))) moved
                with time := t.time }) ∧
      (c.opcode = 0x42 → s.storePoison b offA z = none → s.storePoison b offB z = none → s.storePoison b offC z = none →
        ∃ t, exec (.veFma b 1 none) s = .next t ∧
          t = { put (wrote (c.rnd false c.param row e)
                  (enc32 (((dec32 (val offA)).mul (dec32 (val offB))).add (dec32 (val offC))))) moved with time := t.time }))

/-- One unit of VE_REDUCE, VE_QUANT_MX and VE_RAW_COMBINE. Rests on R79, R166, R167, R168, R169, R170, R183. With the
command running on engine 1 of block b, work left, clean operands, no residue error and no block muted or collective running (not
asked of VE_QUANT_MX): one row of VE_REDUCE writes the reduction of its N widened elements, rounded, at DST plus row times the
output size (a lane's sum starts from its first element: log 166, the model's choice); one block of VE_QUANT_MX writes 32 packed
elements at DST and their scale byte at AUX and moves COUNT by 32: scale 0xFF and zero elements where the block holds a NaN or an
infinity, scale 0 and zero elements where its largest magnitude is 0, else the exponent k of R169 plus 127 and each element
divided by 2^k and rounded, saturating; one pair of VE_RAW_COMBINE writes the combined 32-byte record at DST, or stops the command with the status of the
pair where it cannot be combined. Nothing else but the block changes. -/
def Obligations.VectorRowsAndRecords : Prop :=
  ∀ (s : State) (b : Nat) (r : Run), s.powered = true → b < 512 → s.activeRun b 1 = some r →
    let quiet := (∀ y ∈ s.blocks, y.2.state ≠ .muted) ∧ ∀ y ∈ s.colls, y.2.state ≠ .running
    let x := s.block b
    let g := x.engine 1
    let c := r.cmd
    let put (u : State) (q : Run) : State := u.setBlock b (x.setEngine 1 { g with started := g.started.map fun p => if p.cmd.seq = c.seq then q else p })
    let moved (k total : Nat) : Run :=
      { r with count := r.count + k, status := if total ≤ r.count + k then some stOK else none }
    let row := r.count / c.n
    let e := r.count % c.n
    let z := fmtBytes c.fmtA
    let zo := fmtBytes c.fmtOut
    let rowA := c.srcA + r.count * pitchOr c.srcPitch (c.n * z)
    let offQ := c.srcA + row * pitchOr c.srcPitch (c.n * z) + e * z
    let rec_ (base pitch : Nat) := base + row * pitchOr pitch (c.n * 32) + e * 32
    let w := fmtWidth c.fmtOut
    (quiet → c.opcode = 0x43 → r.count < c.nRows → s.storePoison b rowA (c.n * z) = none →
      ∃ t, exec (.veReduce b 1 none) s = .next t ∧
        t = { put (s.storeWrite b (c.dst + r.count * zo) (leBytes zo (roundFmt c.fmtOut (c.rnd true c.param r.count 0) c.sat
                (dec32 (State.reduceRow c.func ((List.range c.n).map fun k =>
                  widen c.fmtA (s.storeNat b (rowA + k * z) z))))))) (moved 1 c.nRows) with time := t.time }) ∧
    (c.opcode = 0x44 → r.count < c.n * c.nRows → s.storePoison b offQ (32 * z) = none →
      let xs := (List.range 32).map fun k => widen c.fmtA (s.elemAt b offQ c.fmtA k)
      let quant : Nat × List Nat := match State.quantScale c.fmtOut xs with
        | none => (0xFF, List.replicate 32 0)
        | some none => (0, List.replicate 32 0)
        | some (some k) => ((k + 127).toNat, xs.mapIdx fun i v => roundFmt c.fmtOut (c.rnd false c.param row (e + i)) true
            (match dec32 v with | .fin n m j => .fin n m (j - k) | o => o))
      exec (.veQuantMx b 1) s = .next (put
        ((s.storeWrite b (c.dst + row * pitchOr c.dstPitch (c.n * w / 8) + e * w / 8) (leBytes (4 * w) (pack w quant.2))).storeWrite b
          (c.aux + row * pitchOr c.dstPitch (c.n / 32) + e / 32) [BitVec.ofNat 8 quant.1]) (moved 32 (c.n * c.nRows)))) ∧
    (quiet → c.opcode = 0x45 → r.count < c.n * c.nRows →
      s.storePoison b (rec_ c.srcA c.srcPitch) 32 = none → s.storePoison b (rec_ c.srcB c.srcBPitch) 32 = none →
      let both := rawCombine (s.storeNat b (rec_ c.srcA c.srcPitch) 32) (s.storeNat b (rec_ c.srcB c.srcBPitch) 32)
      (both.1 = stOK → ∃ t, exec (.veRawCombine b 1 none) s = .next t ∧
        t = { put (s.storeWrite b (rec_ c.dst c.dstPitch) (leBytes 32 both.2)) (moved 1 (c.n * c.nRows)) with time := t.time }) ∧
      (both.1 ≠ stOK → ∃ t, exec (.veRawCombine b 1 none) s = .next t ∧
        t = { put s { r with status := some both.1 } with time := t.time }))

/-- One output row of the layout and the sort/top-K commands. Rests on R171, R172, R173, R179, R180, R183, R293, Table
4.10. With the command running on its engine of block b, rows left and clean sources, one row: LY_TRANSPOSE writes
column COUNT of the source, LY_COPY2D row COUNT, LY_PAD the row between its pads of AUX, LY_CONVERT the row converted
element by element, at DST plus COUNT times the output pitch; SK_SORT writes the keys in order with their indexes from
the index base; SK_TOPK without merge writes the best K keys and then sentinels with index 0xFFFFFFFF. COUNT moves by
one, the last row gives OK; a poisoned source byte gives POISON, logged. Nothing else but the block changes. -/
def Obligations.LayoutAndSortRows : Prop :=
  (∀ (s : State) (b : Nat) (r : Run), s.powered = true → b < 512 → s.activeRun b 2 = some r →
    let x := s.block b
    let g := x.engine 2
    let c := r.cmd
    let i := r.count
    let total := if c.lyOut.2 = 0 then 0 else c.lyOut.1
    i < total →
    let put (u : State) (q : Run) : State := u.setBlock b (x.setEngine 2 { g with started := g.started.map fun p => if p.cmd.seq = c.seq then q else p })
    let moved : Run := { r with count := i + 1, status := if i + 1 = total then some stOK else none }
    let srcRow (k : Nat) := s.storeRow b (c.srcA + k * c.lySrcPitch) c.fmtA c.n
    let wrote (f : Nat) (els : List Nat) : State := put (s.storeWrite b (c.dst + i * c.lyPitch) (packRow f els)) moved
    (s.rangesPoison b (State.lyRanges c i) = none →
      (c.opcode = 0x60 → exec (.lyTranspose b 1) s =
        .next (wrote c.fmtA ((List.range c.nRows).map fun k => s.elemAt b (c.srcA + k * c.lySrcPitch) c.fmtA i))) ∧
      (c.opcode = 0x61 → exec (.lyCopy2d b 1) s = .next (wrote c.fmtA (srcRow i))) ∧
      (c.opcode = 0x62 →
        let inside := c.pads.2.2.1 ≤ i ∧ i < c.pads.2.2.1 + c.nRows
        exec (.lyPad b 1) s = .next (wrote c.fmtA
          (if inside then List.replicate c.pads.1 c.aux ++ srcRow (i - c.pads.2.2.1) ++ List.replicate c.pads.2.1 c.aux
           else List.replicate (c.pads.1 + c.n + c.pads.2.1) c.aux))) ∧
      (c.opcode = 0x63 → isMx c.fmtA = false → exec (.lyConvert b 1) s =
        .next (wrote c.fmtOut ((srcRow i).mapIdx fun e w =>
          roundFmt c.fmtOut (c.rnd true c.param i e) c.sat (decodeFmt c.fmtA w))))) ∧
    (∀ p, s.rangesPoison b (State.lyRanges c i) = some p →
      let stopped := put (s.log (b / 128) stPOISON 2 (blockAgent s.moduleId b).code (storeBase b + p / 8 * 8) 0)
        { r with status := some stPOISON, detail := w64 p }
      (c.opcode = 0x60 → exec (.lyTranspose b 1) s = .next stopped) ∧
      (c.opcode = 0x61 → exec (.lyCopy2d b 1) s = .next stopped) ∧
      (c.opcode = 0x62 → exec (.lyPad b 1) s = .next stopped) ∧
      (c.opcode = 0x63 → exec (.lyConvert b 1) s = .next stopped))) ∧
  (∀ (s : State) (b : Nat) (r : Run), s.powered = true → b < 512 → s.activeRun b 4 = some r →
    let x := s.block b
    let g := x.engine 4
    let c := r.cmd
    let i := r.count
    let z := fmtBytes c.fmtA
    let off := c.srcA + i * pitchOr c.srcPitch (c.n * z)
    let keys := (List.range c.n).map fun e => (s.elemAt b off c.fmtA e, c.indexBase + e)
    let put (u : State) (q : Run) : State := u.setBlock b (x.setEngine 4 { g with started := g.started.map fun p => if p.cmd.seq = c.seq then q else p })
    let moved : Run := { r with count := i + 1, status := if i + 1 = c.nRows then some stOK else none }
    let wrote (k : Nat) (out : List (Nat × Nat)) : State := put
      ((s.storeWrite b (c.dst + i * pitchOr c.dstPitch (k * z)) (out.flatMap fun y => leBytes z y.1)).storeWrite b
        (c.aux + i * pitchOr c.dstPitch (k * 4)) (out.flatMap fun y => leBytes 4 y.2)) moved
    i < c.nRows → s.storePoison b off (c.n * z) = none →
    (c.opcode = 0x78 → c.n ≠ 0 →
      exec (.skSort b 1) s = .next (wrote c.n (sortKeys c.fmtA c.desc keys)) ∧
      (sortKeys c.fmtA c.desc keys).Perm keys) ∧
    (c.opcode = 0x79 → c.func.testBit 1 = false → c.topK ≠ 0 →
      let best := (sortKeys c.fmtA c.desc (keys.filter fun y => decodeFmt c.fmtA y.1 != .nan)).take c.topK
      exec (.skTopk b 1) s = .next (wrote c.topK
        (best ++ List.replicate (c.topK - best.length) (sentinel c.fmtA c.desc, 0xFFFFFFFF)))))

/-- One row of GS_GATHER, GS_SCATTER, GS_LOAD and GS_STORE. Rests on R164, R174, R175, R176, R177, R178, R183. With the
command running on engine 3 of block b, its deadline not passed and rows left: an indexed row whose index is past
TABLE_ROWS is zero-filled by a gather and skipped by a scatter where OOB_ZERO is set, counted in DETAIL, and stops the
command with RANGE and DETAIL the index where it is clear. A row that a gather or a load reads whole through the IOMMU
is stored at its local offset; a row that a scatter or a store writes whole counts; a read or write that faults stops
the command with that status, DETAIL the address for XLATE. One that must wait changes nothing but what it has asked for.
COUNT moves by one; after the last row the command ends, with OK (BISQUE_USED where copies served rows), as soon as its
writes are acknowledged. -/
def Obligations.GatherScatterRows : Prop :=
  ∀ (s : State) (b : Nat) (r : Run), s.powered = true → b < 512 → s.activeRun b 3 = some r →
    let c := r.cmd
    ¬(c.fretKind = 2 ∧ c.target = .passed) → r.count < c.gsN →
    let cache := if c.volatile = true then none else some b
    let loc := c.gsLocal + r.count * c.gsPitch
    let ag := blockAgent s.moduleId b
    let ends (q : Run) : Run := { q with
      stopping := some (if 0 < q.bisqueRows then stBISQUE_USED else stOK),
      detail := fld (q.oob % 2 ^ 32) 0 ||| fld (q.bisqueRows % 2 ^ 32) 32, bisque := decide (0 < q.bisqueRows) }
    let moved (q : Run) : Run := if q.count = c.gsN then ends q else q
    let next1 : Run := { r with count := r.count + 1 }
    let zeroed : Run := { r with count := r.count + 1, oob := r.oob + 1 }
    let stops (st : Nat) (d : W64) : Run :=
      { r with status := some st, detail := d, bisque := r.bisque || decide (0 < r.bisqueRows) }
    let index := s.storeNat b (c.gsIndex + r.count * c.idxBytes) c.idxBytes
    let indexClean := s.storePoison b (c.gsIndex + r.count * c.idxBytes) c.idxBytes = none
    (c.opcode = 0x70 → indexClean → c.tableRows ≤ index →
      (c.oobZero = true → exec (.gsGather b 1) s =
        .next ((s.storeWrite b loc (List.replicate c.rowLen 0)).putRun b 3 (moved zeroed))) ∧
      (c.oobZero = false → exec (.gsGather b 1) s = .next (s.putRun b 3 (stops stRANGE (w64 index))))) ∧
    (c.opcode = 0x71 → indexClean → c.tableRows ≤ index →
      (c.oobZero = true → exec (.gsScatter b 1) s = .next (s.putRun b 3 (moved zeroed))) ∧
      (c.oobZero = false → exec (.gsScatter b 1) s = .next (s.putRun b 3 (stops stRANGE (w64 index))))) ∧
    (∀ (j : Nat), c.rowLen ≠ 0 →
      (∀ u bs, s.engRead ag (.gs b c.seq) cache c.pasid (c.rowAddr j) c.rowLen = .data u bs →
        (c.opcode = 0x70 → indexClean → index = j → j < c.tableRows → c.rowWraps j = false →
          exec (.gsGather b 1) s = .next ((u.storeWrite b loc bs).putRun b 3 (moved next1))) ∧
        (c.opcode = 0x72 → j = r.count → exec (.gsLoad b 1) s = .next ((u.storeWrite b loc bs).putRun b 3 (moved next1)))) ∧
      (∀ u st va, s.engRead ag (.gs b c.seq) cache c.pasid (c.rowAddr j) c.rowLen = .fault u st va → c.opcode = 0x72 → j = r.count →
        exec (.gsLoad b 1) s = .next (u.putRun b 3 (stops st (if st = stXLATE then w64 va
          else fld (r.oob % 2 ^ 32) 0 ||| fld (r.bisqueRows % 2 ^ 32) 32)))) ∧
      (∀ u, s.engRead ag (.gs b c.seq) cache c.pasid (c.rowAddr j) c.rowLen = .wait u → c.opcode = 0x72 → j = r.count →
        exec (.gsLoad b 1) s = .next (u.putRun b 3 r)) ∧
      (s.storePoison b loc c.rowLen = none →
        let wrote := s.engWrite ag (fun _ => .gs b c.seq) r.count c.pasid (c.rowAddr j) (s.rdBytes (storeBase b + loc) c.rowLen)
        (∀ u, wrote = .done u none → c.opcode = 0x71 → indexClean → index = j → j < c.tableRows → c.rowWraps j = false →
          exec (.gsScatter b 1) s = .next (u.putRun b 3 (moved next1))) ∧
        (∀ u, wrote = .done u none → c.opcode = 0x73 → j = r.count → exec (.gsStore b 1) s = .next (u.putRun b 3 (moved next1))) ∧
        (∀ u st va, wrote = .fault u st va → c.opcode = 0x73 → j = r.count →
          exec (.gsStore b 1) s = .next (u.putRun b 3 (stops st (if st = stXLATE then w64 va
            else fld (r.oob % 2 ^ 32) 0 ||| fld (r.bisqueRows % 2 ^ 32) 32))))))

/-! ### Harts -/

/-- Loads, stores, AMOs, LR and SC of a hart to a line that its cache holds. Rests on R244, R245, R252, R255, R256, R257,
R293. A hart that may act, holds nothing back and awaits nothing, and an access within 16 bytes to own memory whose
home is live and whose line its cache holds, through page tables that no memory holds back (R305, R316): a load of clean words
retires with the line's bytes, extended; of a poisoned word it traps with cause 5, the log naming the first poisoned word (as do an AMO,
LR and SC of one, with cause 7); with the line owned, a store makes it MODIFIED with the bytes (or stays in the store
buffer), an AMO retires with the old value, sign-extended, and makes it MODIFIED with the result, LR reserves the line
and retires with the value, SC with the reservation stores and retires with 0, and without it retires with 1; SC
always ends the reservation, and with it every deferral that it caused. A trap is entered as FencesWaitsAndTimeouts
says. Nothing else changes. -/
def Obligations.CachedHartAccesses : Prop :=
  ∀ (s : State) (h m : Nat) (a : Access) (c : CLine), s.powered = true → h < 656 → s.hartReady h = true →
    (s.hart h).stores = [] → (s.hart h).combine = none → (s.hart h).wc = [] → (s.hart h).streaming = false → s.out = [] →
    crosses16 a = false → s.accessHeld h a = false → s.cacheOf h (m / 128) = some c → s.regionLive (State.lineHome (m / 128)) = true →
    (s.hart h).missLine ≠ some (m / 128) →
    let retired (t : State) (x : Hart) : Prop :=
      t.hart h = { x with pc := (t.hart h).pc, instret := x.instret + 1, wait := .none } ∧ ∀ j, j ≠ h → t.hart j = s.hart j
    let clean := c.line.bad (m % 128) a.size = false
    let word := c.line.get (m % 128) a.size
    let same (t : State) : Prop := t = { s with harts := t.harts, caches := t.caches, reserved := t.reserved,
                                                retries := t.retries, freeCount := s.freeCount + 1 }
    let kept (t : State) : Prop := t.reserved = s.reserved ∧ t.retries = s.retries
    let undeferred := s.retries.map fun x => if x.deferrer = some h then { x with deferrer := none } else x
    let ag := hartAgent s.moduleId h
    let logged := s.log ag.region stPOISON 2 ag.code ((m / 128 * 128 + (c.line.badWord (m % 128) a.size).getD 0) / 8 * 8) 0
    let trapped (t : State) (cause : Nat) : Prop :=
      t = { s with harts := t.harts, errLog := t.errLog, regs := t.regs, reserved := s.reserved.erase h, retries := undeferred } ∧
        t.errLog = logged.errLog ∧ t.regs = logged.regs ∧
        t.hart h = (s.hart h).enter false cause (w64 a.addr) ∧ ∀ j, j ≠ h → t.hart j = s.hart j
    let traps := ¬clean ∧ ¬(144 ≤ h ∧ (s.hart h).inTrap = true)
    (s.targetAt h a.addr a.pbmt false = .mem m → okSize a.size = true →
      (clean → ∃ t, exec (.hartLoad h a) s = .next t ∧ same t ∧ t.caches = s.caches ∧ kept t ∧
        retired t { s.hart h with result  := State.extend a.signed a.size word }) ∧
      (traps → ∃ t, exec (.hartLoad h a) s = .next t ∧ trapped t 5)) ∧
    (∀ v : W64, s.targetAt h a.addr a.pbmt true = .mem m → okSize a.size = true → a.ntl = false → c.state ≠ .shared →
      (∀ hold : Nat, hold.testBit 0 = false → ∃ t, exec (.hartStore h a v hold) s = .next t ∧ same t ∧ kept t ∧ retired t (s.hart h) ∧
        t.caches = s.caches.set (h, m / 128) ⟨.modified, c.line.put (m % 128) a.size (v.toNat % 2 ^ (8 * a.size))⟩) ∧
      (∀ hold : Nat, hold.testBit 0 = true → ∃ t, exec (.hartStore h a v hold) s = .next t ∧ same t ∧ kept t ∧ t.caches = s.caches ∧
        retired t { s.hart h with stores := [{ addr := m, size := a.size, value := w64 (v.toNat % 2 ^ (8 * a.size)) }] })) ∧
    (∀ (op : AmoOp) (v : W64), a.addr < 2 ^ 64 → s.targetAt h a.addr a.pbmt true = .mem m → okWide a.size = true → c.state ≠ .shared →
      (clean → ∃ t, exec (.hartAmo h a op v) s = .next t ∧ same t ∧ kept t ∧
        retired t { s.hart h with result  := State.extend true a.size word } ∧
        t.caches = s.caches.set (h, m / 128)
          ⟨.modified, c.line.put (m % 128) a.size (amoResult op a.size word (v.toNat % 2 ^ (8 * a.size)))⟩) ∧
      (traps → ∃ t, exec (.hartAmo h a op v) s = .next t ∧ trapped t 7)) ∧
    (s.targetAt h a.addr a.pbmt false = .mem m → okWide a.size = true → c.state ≠ .shared →
      (clean → ∃ t, exec (.hartLr h a) s = .next t ∧ same t ∧ t.caches = s.caches ∧ t.retries = undeferred ∧
        (∀ j, t.reserved.find j = if j = h then some (m / 128, true) else s.reserved.find j) ∧
        retired t { s.hart h with result  := State.extend true a.size word }) ∧
      (traps → ∃ t, exec (.hartLr h a) s = .next t ∧ trapped t 7)) ∧
    (∀ v : W64, s.targetAt h a.addr a.pbmt true = .mem m → okWide a.size = true → c.state ≠ .shared →
      (clean → (∃ d, s.reserved.find h = some (m / 128, d)) → ∃ t, exec (.hartSc h a v) s = .next t ∧ same t ∧
        t.reserved = s.reserved.erase h ∧ t.retries = undeferred ∧ retired t { s.hart h with result := 0 } ∧
        t.caches = s.caches.set (h, m / 128) ⟨.modified, c.line.put (m % 128) a.size v.toNat⟩) ∧
      (clean → (∀ x, s.reserved.find h = some x → x.1 ≠ m / 128) → ∃ t, exec (.hartSc h a v) s = .next t ∧ same t ∧
        t.reserved = s.reserved.erase h ∧ t.retries = undeferred ∧ retired t { s.hart h with result := 1 } ∧ t.caches = s.caches) ∧
      (traps → ∃ t, exec (.hartSc h a v) s = .next t ∧ trapped t 7))

/-- Fences, WFI, interrupts, write-outs and the loss of a hart's remote accesses. Rests on R1, R146, R151, R191, R245, R248,
R251, R256, R270, R271, R293. A ready hart that holds nothing back and awaits nothing retires a FENCE, FENCE.TSO or
FENCE.I (which empties its instruction cache) at once, and a WFI too, after which it is in WFI exactly if no enabled
interrupt is pending. A takeable interrupt c traps (of a hart that holds nothing back and awaits no answer, no first
instruction and not the end of an instruction that a HALT found): the hart saves pc, cause and mode and goes to mtvec, or to stvec where
mideleg delegates c. A held line for T5 or another module that the write-combining buffer writes out leaves as one
posted masked write, which clears COPY_VALID of a T5 granule (R318) and of nothing else. The expired deferral of a reservation keeps the reservation; writing VALID of ASYNC_ERR clears
VALID, OVERFLOW and COUNT. A posted write that times out is dropped, logged and recorded in ASYNC_ERR; a load that
times out is logged and its hart takes an access fault. How Zicsr and the trap registers look is the model's reading
of the RISC-V manuals (log 38). -/
def Obligations.FencesWaitsAndTimeouts : Prop :=
  (∀ (s : State) (h : Nat) (pred succ : FenceSet) (tso : Bool), s.powered = true → h < 656 → s.hartReady h = true →
    (s.hart h).stores = [] → (s.hart h).combine = none → (s.hart h).wc = [] → (s.hart h).streaming = false → s.out = [] →
    (s.hart h).wait ≠ .acks →
    let retired (t : State) (w : Bool) (ic : Map (Nat × Nat) Line) : Prop :=
      t = { s with harts := t.harts, icache := ic, freeCount := s.freeCount + 1 } ∧ (∀ j, j ≠ h → t.hart j = s.hart j) ∧
      t.hart h = { s.hart h with pc := (t.hart h).pc, instret := (s.hart h).instret + 1, wait := .none, wfi := w }
    (∃ t, exec (.hartFence h pred succ tso) s = .next t ∧ retired t (s.hart h).wfi s.icache) ∧
    (∃ t, exec (.fenceI h) s = .next t ∧ retired t (s.hart h).wfi (s.icache.filter fun x => x.1.1 != h)) ∧
    (∃ t, exec (.wfi h) s = .next t ∧ retired t (!s.wakes h || (s.hart h).wfi) s.icache)) ∧
  (∀ (s : State) (h c : Nat), s.powered = true → h < 656 → s.takeable h = some c →
    (s.updHart h fun x => { x with wfi := false }).hartRuns h = true →
    (∀ tag, (s.hart h).wait ≠ .answer tag) → (∀ k v, (s.hart h).wait ≠ .trap k v) → (∀ n, (s.hart h).wait ≠ .fetch n) →
    s.halting h = false → (s.hart h).wc = [] → s.wcUnacked h = false →
    (s.hart h).streaming = false → (s.hart h).combine = none → ¬(144 ≤ h ∧ (s.hart h).inTrap = true) →
    let x := s.hart h
    let st := x.mstatus
    let cause := w64 c ||| 0x8000000000000000#64
    let vector (base : W64) := (base &&& ~~~3) + (if base.getLsbD 0 = true then w64 (4 * c) else 0)
    let delegated := x.priv ≠ .machine ∧ x.mideleg.getLsbD c = true
    ∃ t, exec (.interruptTrap h) s = .next t ∧
      t = { s with harts := t.harts, reserved := s.reserved.erase h, retries := t.retries } ∧ (∀ j, j ≠ h → t.hart j = s.hart j) ∧
      (¬delegated → t.hart h = { x with
        wait := .none, wfi := false, priv := .machine, inTrap := true, mepc := x.pc, mcause := cause, mtval := 0, pc := vector x.mtvec,
        csrs := x.csrs.set csrMstatus (setBits (setBits (setBits st 12 11 x.priv.level) 7 7 (bits st 3 3)) 3 3 0) }) ∧
      (delegated → t.hart h = { x with
        wait := .none, wfi := false, priv := .supervisor, pc := vector (x.csrs.get 0 csrStvec), csrs := (t.hart h).csrs } ∧
        (t.hart h).csrs.get 0 csrSepc = x.pc ∧ (t.hart h).csrs.get 0 csrScause = cause ∧ (t.hart h).csrs.get 0 csrStval = 0 ∧
        (t.hart h).mstatus = setBits (setBits (setBits st 8 8 (if x.priv = .supervisor then 1 else 0)) 5 5 (bits st 1 1)) 1 1 0)) ∧
  (∀ (s : State) (h line : Nat) (e : WcEntry) (d : OutDest), s.powered = true → h < 656 → (s.hart h).wc = [e] → e.line = line →
    e.dest = some d → s.destReachable d (.wc h) = true → (∀ k v, (s.hart h).wait ≠ .trap k v) →
    ∃ (t : State) (q : OutReq), exec (.wcEntryWriteout h line) s = .next t ∧
      t = { s with harts := t.harts, out := s.out ++ [q], nextTag := s.nextTag + 1, outbox := t.outbox, ports := t.ports,
                   fab := t.fab, regs := t.regs, pat := t.pat } ∧
      t.pat = (match d with | .host _ => (s.clearCopyValid q.target).pat | _ => s.pat) ∧
      t.hart h = { s.hart h with wc := [] } ∧ (∀ j, j ≠ h → t.hart j = s.hart j) ∧
      q.origin = .wc h ∧ q.dest = d ∧ q.op = 3 ∧ q.posted = true ∧ q.addr = line * 128 ∧ q.len = 128 ∧
      q.data = leBytes 128 e.data.toNat ∧ q.mask = e.mask.toNat ∧ q.tag = s.nextTag) ∧
  (∀ (s : State) (h n : Nat) (d : Bool), s.powered = true → h < 656 → s.reserved.find h = some (n, d) →
    let undeferred := s.retries.map fun x => if x.deferrer = some h then { x with deferrer := none } else x
    exec (.reservationExpire h) s = .next { s with reserved := s.reserved.set h (n, false), retries := undeferred }) ∧
  (∀ (s : State) (ag : Agent) (c : Nat) (v : W64), s.powered = true → ag.wf = true → c < 144 →
    (v.getLsbD 8 = true → exec (.mgmtCoreAsyncErrClear ag c v) s =
      .next (s.setReg (MGMT_CORE_ASYNC_ERR c) (s.reg (MGMT_CORE_ASYNC_ERR c) &&& 0xFFFF00000000FCFF#64))) ∧
    (v.getLsbD 8 = false → exec (.mgmtCoreAsyncErrClear ag c v) s = .next s)) ∧
  (∀ (s : State) (q : OutReq) (h : Nat), s.powered = true → s.out = [q] → s.fab.waiting = [] →
    let source := match q.dest with | .module _ => 0 | _ => 1
    let r := hartRegion h
    let logged (t : State) (cause : Nat) : Prop :=
      (∀ m, q.dest = .module m → t.hostLog = s.hostLog ∧ t.fabLog = s.fabLog.set (r, (s.reg (FAB_ERR_TAIL r)).toNat % 64)
        ⟨stPEER_LOST, cause, 0, m, s.fret, q.target⟩) ∧
      (∀ p, q.dest = .host p ∨ q.dest = .t4 p →
        t.fabLog = s.fabLog ∧ t.hostLog = s.hostLog.set (p, (s.reg (HOST_ERR_TAIL p)).toNat % 64)
        ⟨stPEER_LOST, cause, s.outFunction p q.origin, 0, s.fret, q.target⟩)
    (q.posted = true → q.origin = .hart h → (∀ k v, (s.hart h).wait ≠ .trap k v) →
      ∃ t, exec (.remoteWriteTimeout q.tag) s = .next t ∧
      t = { s with out := [], regs := t.regs, fabLog := t.fabLog, hostLog := t.hostLog } ∧ logged t 1 ∧
      ((s.reg (State.asyncErrReg h)).getLsbD 8 = false → t.reg (State.asyncAddrReg h) = w64 q.target ∧
        t.reg (State.asyncErrReg h) = fld stPEER_LOST 0 ||| fld 1 8 ||| fld source 10 ||| fld 0 11 ||| fld 1 16)) ∧
    (q.posted = false → q.origin = .hart h → (s.hart h).wait = .answer q.tag → (s.hart h).wc = [] → (s.hart h).streaming = false →
      (s.hart h).combine = none →
      s.seqStopped h = false → ¬(144 ≤ h ∧ (s.hart h).inTrap = true) →
      ∃ t, exec (.remoteLoadTimeout q.tag) s = .next t ∧
      t = { s with out := [], regs := t.regs, fabLog := t.fabLog, hostLog := t.hostLog, harts := t.harts,
                   reserved := s.reserved.erase h, retries := t.retries } ∧ logged t 2 ∧ (∀ j, j ≠ h → t.hart j = s.hart j) ∧
      t.hart h = (s.hart h).enter false (if q.loads then 5 else 7) (w64 q.va)))

/-! ### DMA -/

/-- The control writes, the doorbell and the end of a drain move a DMA channel as Table 5.5 says. Rests on R197, R209,
R210, R211, R212, R214, R215, R216, R217, R218. For a channel whose DMA_CH_CTRL has its write-only and reserved bits clear:
ENABLE takes DISABLED to IDLE, or to PAUSED with PAUSE set, with the sequence numbers 0 and no target; clearing it
takes IDLE, WAIT_DESC, ERROR, or PAUSED without a started descriptor, to DISABLED; PAUSE takes IDLE and WAIT_DESC to
PAUSED and ACTIVE to PAUSING, or on to PAUSED with no descriptor started and every write acknowledged; clearing it takes
PAUSED to ACTIVE if work is left, else to IDLE; ABORT takes WAIT_DESC to IDLE without its target, and in ACTIVE, PAUSING
and PAUSED stops the first incomplete descriptor with ABORTED (ERROR follows its completion, or that of the last one
where each has ended), or goes to ERROR where none is started; CLEAR_ERR takes ERROR, no write-back having faulted and
none being due, on from FETCH_SEQ = DONE_SEQ; an accepted doorbell takes IDLE to ACTIVE with its target. In DISABLED a doorbell is logged with STATE; one that names no descriptor is
counted. The end of a drain takes PAUSING to PAUSED, or with PAUSE clear to ACTIVE, and on to IDLE where no work is left. PAUSED, ERROR and
WAIT_DESC signal the event peg if EVENT_EN is set. What the channel had asked for and read is given up with its
descriptors (`State.dropReads`), and their writes belong to no later one (`State.disown`). -/
def Obligations.DmaChannelStates : Prop :=
  ∀ (s : State) (ag : Agent) (r c : Nat), s.powered = true → ag.wf = true → r < 4 → c < 64 →
    let g := DMA_CH_CTRL r c
    let x := s.dmaChan r c
    let event := s.reg (DMA_CH_EVENT_PEG r c)
    s.reg g &&& 0x1F33#64 = s.reg g →
    let enable := (s.reg g).getLsbD 0
    let paused := (s.reg g).getLsbD 1
    let into (u : State) (y : DmaChan) : State :=
      let lost : DmaChan := if y.hostLost = true ∧ y.state = .error then
        { y with hostLost := false, lastStatus := stHOST_LOST } else y
      let t := u.setDma r c { lost with errAfter := y.errAfter && y.state != .error }
      if (u.reg g).getLsbD 12 ∧ (y.state = .paused ∨ y.state = .error ∨ y.state = .waitDesc) then
        t.signalPeg (engineAgent s.moduleId r 0) (bits event 15 0) (bits event 17 16) 1 else t
    let more (y : DmaChan) : DmaState :=
      if y.started ≠ [] ∨ y.target.any (fun t => decide (y.fetchSeq ≤ t)) then .active else .idle
    let settled := x.started.map fun d =>
      if d.status = none ∧ d.moved = true ∧ s.unackedOffs r c d.seq = [] then { d with status := some stOK, done := d.off } else d
    let quiet (u : State) : State := u.dropReads r c fun _ _ => true
    (x.state = .disabled → enable = false → exec (.dmaEnable ag r c) s =
      .next (into ((quiet (s.setReg g (s.reg g ||| 1))).disown r c fun _ => true)
        { lastStatus := x.lastStatus, state := if paused then .paused else .idle })) ∧
    (enable = true → x.state = .idle ∨ x.state = .waitDesc ∨ x.state = .error ∨ (x.state = .paused ∧ x.started = []) →
      exec (.dmaDisable ag r c) s = .next ((s.setReg g (s.reg g &&& ~~~1)).setDma r c
        { x with state := .disabled, target := none, tries := none })) ∧
    (paused = false → enable = true →
      let u := s.setReg g (s.reg g ||| 2)
      (x.state = .idle ∨ x.state = .waitDesc → exec (.dmaPause ag r c) s =
        .next (into (quiet u) { x with state := .paused, tries := none })) ∧
      (x.state = .active → x.started ≠ [] → exec (.dmaPause ag r c) s = .next (u.setDma r c { x with state := .pausing })) ∧
      (x.state = .active → x.started = [] → (∀ q ∈ s.dmaOut r c, q.posted = false) → exec (.dmaPause ag r c) s =
        .next (into (quiet u) { x with state := .paused, tries := none, lastStatus := stPAUSED })) ∧
      (∀ q ∈ s.dmaOut r c, x.state = .active → x.started = [] → q.posted = true → exec (.dmaPause ag r c) s =
        .next ((quiet u).setDma r c { x with state := .pausing }))) ∧
    (paused = true → x.state = .paused → exec (.dmaResume ag r c) s =
      .next ((s.setReg g (s.reg g &&& ~~~2)).setDma r c { x with state := more x })) ∧
    (x.state = .waitDesc → exec (.dmaAbort ag r c) s =
      .next ((s.setReg g (s.reg g)).setDma r c { x with state := .idle, target := none, tries := none })) ∧
    (x.state = .active ∨ x.state = .pausing ∨ (x.state = .paused ∧ x.started ≠ []) →
      let u := quiet (s.setReg g (s.reg g))
      (∀ d, settled.find? (·.status.isNone) = some d → exec (.dmaAbort ag r c) s = .next (u.setDma r c
        { x with tries := none, started := settled.map fun e =>
            if e.seq = d.seq then { d with status := some stABORTED, detail := 0, done := d.off } else e })) ∧
      (settled.find? (·.status.isNone) = none → exec (.dmaAbort ag r c) s = .next (if x.started = []
        then into u { x with tries := none, state := .error }
        else u.setDma r c { x with tries := none, started := settled, errAfter := true }))) ∧
    (x.state = .error → (∀ d ∈ x.started, d.wbFault = false) →
      (∀ d ∈ settled.head?, d.status = none ∨ s.unackedOffs r c d.seq ≠ []) →
      let y := { x with fetchSeq := x.doneSeq, started := [], tries := none }
      exec (.dmaClearErr ag r c) s = .next (into ((quiet (s.setReg g (s.reg g))).disown r c fun n => decide (x.doneSeq ≤ n))
        { y with state := if paused then .paused else more y })) ∧
    (∀ v, (x.state = .disabled → exec (.dmaDoorbell ag r c v) s =
        .next (s.log r stSTATE 1 ag.code (DMA_CH_DOORBELL r c % 0x100000000) 0)) ∧
      (x.state ≠ .disabled → s.doorbellSeq r c v = none →
        exec (.dmaDoorbell ag r c v) s = .next (s.bump (DMA_CH_DB_IGNORED r c) 1)) ∧
      (∀ n, s.doorbellSeq r c v = some n → x.state = .idle → exec (.dmaDoorbell ag r c v) s =
        .next (s.setDma r c { x with target := some (max n (x.target.getD 0)), state := .active }))) ∧
    (x.state = .pausing → s.dmaOut r c = [] → s.dmaBuffered r c = false → (∀ d ∈ x.started, d.status = none ∧ d.moved = false) →
      let u := s.dropReads r c fun _ k => k == fetchOff
      exec (.pauseDrainEnd r c) s = .next (if paused
        then into u { x with state := .paused, tries := none, lastStatus := stPAUSED }
        else u.setDma r c { x with state := more x, tries := none }))

/-- Fetching, moving, faulting and completing one descriptor of a DMA channel. Rests on R192, R193, R194, R195, R197, R199,
R200, R202, R203, R205, R206, R208. In ACTIVE: a valid descriptor that is fetched or re-fetched starts, and FETCH_SEQ
advances; a fetch that finds it not valid starts the count of re-fetches and a re-fetch adds to it, each re-fetch that
returns being counted in DMA_CH_REFETCH. A chunk whose reads the arbiter grants, or whose data is in the buffer: of COPY
and COPY_2D writes what it read; of FILL the pattern; of COMPARE it writes nothing and stops with MISCOMPARE at the
first difference. A faulting access stops the descriptor with its status and DONE. A descriptor moved whole, its writes
acknowledged, has status OK. The write-back of a finished oldest descriptor advances DONE_SEQ and signals its peg if
PEG_EN is set, once it is acknowledged; an error aborts the later ones and, with none left, enters ERROR, as does the
last one of an ABORT that found each of them ended (`errAfter`). Entries that a write adds to the spill area are counted. A
fault at the ring enters ERROR with XLATE and DMA_CH_ERR_ADDR. -/
def Obligations.DmaDescriptorsMove : Prop :=
  ∀ (s : State) (r c : Nat), s.powered = true → r < 4 → c < 64 →
    let x := s.dmaChan r c
    let ag := engineAgent s.moduleId r 0
    let pasid := bits (s.reg (DMA_CH_PASID r c)) 19 0
    let into (u : State) (st : DmaState) : State :=
      let old := u.dmaChan r c
      let lost : DmaChan := if old.hostLost = true ∧ st = .error then
        { old with hostLost := false, lastStatus := stHOST_LOST } else old
      let t := u.setDma r c { lost with state := st, errAfter := old.errAfter && st != .error }
      let event := u.reg (DMA_CH_EVENT_PEG r c)
      if old.state = .disabled ∧ st = .error then u
      else if old.state ≠ st ∧ (u.reg (DMA_CH_CTRL r c)).getLsbD 12 ∧ (st = .paused ∨ st = .error ∨ st = .waitDesc) then
        t.signalPeg (engineAgent u.moduleId r 0) (bits event 15 0) (bits event 17 16) 1
      else t
    let counted (u : State) : State :=
      let k := u.spillNow r - s.spillNow r
      if k = 0 then u else u.bump (DMA_ENG_SPILL_TOTAL r) k
    let put (u : State) (e : Desc) : State := u.setDma r c { u.dmaChan r c with
      started := (u.dmaChan r c).started.map fun f => if f.seq = e.seq then e else f }
    let settled := x.started.map fun d =>
      if d.status = none ∧ d.moved = true ∧ s.unackedOffs r c d.seq = [] then { d with status := some stOK, done := d.off } else d
    let y := s.setDma r c { x with started := settled }
    (x.state = .active → s.mayFetch r c = true → x.started.length < 8 → ∀ u bs,
      let w := BitVec.ofNat 512 (leNat bs)
      let d : Desc := { seq := x.fetchSeq, word := w }
      let check := d.check (u.reg (DMA_CH_WIN_LO r c)).toNat (u.reg (DMA_CH_WIN_HI r c)).toNat
      let mark := targetOf u (if d.deadlineEn then 1 else 0) (d.f 48 31 0)
      let starts : DmaChan := { x with
        fetchSeq := x.fetchSeq + 1, tries := none,
        started := x.started ++ [{ d with target := mark
                                          status := if check = 0 then none else some stRANGE, detail := w64 check }] }
      let valid := d.f 1 0 0 = 1 ∧ d.f 2 7 0 = x.fetchSeq / s.ringSize r c % 256
      let ready := valid ∧ ¬(d.fence = true ∧ x.started ≠ []) ∧ ¬(check = 0 ∧ mark = .passed)
      let again := u.bump (DMA_CH_REFETCH r c) 1
      u.dmaChan r c = x →
      s.engRead ag (.dma r c x.fetchSeq fetchOff) none pasid (s.ringAddr r c x.fetchSeq) 64 = .data u bs →
      (x.tries = none →
        (ready → exec (.descFetch r c) s = .next (u.setDma r c starts)) ∧
        (¬valid → exec (.descFetch r c) s = .next (u.setDma r c { x with tries := some 0 }))) ∧
      (∀ k, x.tries = some k → k < 7 →
        (ready → exec (.descRefetch r c) s = .next (again.setDma r c starts)) ∧
        (¬valid → exec (.descRefetch r c) s = .next (again.setDma r c { x with tries := some (k + 1) })))) ∧
    (∀ d, x.state = .active → s.activeDesc r c = some d →
      let n (g : State) : Nat := g.chunkReads r c d
      let granted (g : State) : Prop :=
        if d.op = 1 ∨ s.dmaBuffered r c = true then g = s
        else (∀ q ∈ s.dmaOut r c, q.posted = true) ∧ s.grantRead r c (State.readCost d) = some g
      let stopped (u : State) (e : Desc) : State := (put u e).dropReads r c fun m k => m == d.seq && k != fetchOff
      let moved (u : State) (len : Nat) : State :=
        put (if (u.unackedOffs r c d.seq).filter (fun o => decide (d.off ≤ o)) = [] then u.bump (DMA_CH_BYTES r c) len else u)
          { d with off := d.off + len }
      let write (u : State) (bs : List Byte) : EngWrite :=
        u.engWrite (engineAgent u.moduleId r 0) (fun k => .dma r c d.seq (d.off + k)) 0 (bits (u.reg (DMA_CH_PASID r c)) 19 0)
          (d.dstAt d.off) bs
      let source (g : State) : EngRead :=
        g.engRead (engineAgent g.moduleId r 0) (.dma r c d.seq (2 ^ 81 + d.off)) none (bits (g.reg (DMA_CH_PASID r c)) 19 0)
          (d.srcAt d.off) (n g)
      (∀ g u v bs, granted g → source g = .data u bs → u.dmaIssued r < 0x42000 → write u bs = .done v none →
        (d.op = 0 → exec (.copy r c 1) s = .next (counted (moved v bs.length))) ∧
        (d.op = 3 → exec (.copy2d r c 1) s = .next (counted (moved v bs.length)))) ∧
      (∀ v, d.op = 1 → s.dmaIssued r < 0x42000 →
        write s ((List.range (State.chunkLen d)).map fun i => BitVec.ofNat 8 (d.src >>> (8 * ((d.off + i) % 8)))) = .done v none →
        exec (.fill r c 1) s = .next (counted (moved v (State.chunkLen d)))) ∧
      (∀ g u v bs bs', d.op = 2 → granted g → source g = .data u bs →
        u.engRead (engineAgent g.moduleId r 0) (.dma r c d.seq (2 ^ 82 + d.off)) none (bits (g.reg (DMA_CH_PASID r c)) 19 0)
          (d.dstAt d.off) (n g) = .data v bs' →
        (State.firstDiff bs bs' d.off = none → exec (.compare r c 1) s = .next (counted (put v { d with off := d.off + n g }))) ∧
        (∀ k a b, State.firstDiff bs bs' d.off = some (k, a, b) → exec (.compare r c 1) s = .next (counted (stopped v
          { d with status := some stMISCOMPARE, detail := fld a.toNat 0 ||| fld b.toNat 8, done := k })))) ∧
      (∀ u st va, d.op ≠ 1 → source s = .fault u st va → u.dmaChan r c = x → exec (.descFault r c) s = .next (counted (stopped u
        { d with status := some st, done := d.off, detail := if st = stXLATE ∨ st = stPOISON then w64 va
            else if st = stRANGE then 5 else w64 (if d.op = 2 then d.srcAt d.off else d.dstAt d.off) })))) ∧
    (∀ d rest st u, settled = d :: rest → d.status = some st → s.unackedOffs r c d.seq = [] → d.wbFault = false →
      d.sent = false → st ≠ stOVERRUN → u.kiln.tags.find (d.f 44 31 0) = none → u.dmaChan r c = { x with started := settled } →
      y.engWrite ag (fun _ => .dma r c d.seq wbOff) 0 pasid (s.ringAddr r c d.seq) (leBytes 64 (y.wbWord r c d)) = .done u none →
      x.tries = none → s.dmaIssued r < 0x42000 →
      let done : DmaChan := { x with started := rest, doneSeq := d.seq + 1, lastStatus := st }
      let signalled (v : State) : State := if d.f 1 1 1 = 1 then
        v.signalPeg (engineAgent v.moduleId r 0) (d.f 36 15 0) (d.f 1 3 2) (w64 (d.f 40 31 0)) else v
      let after := signalled ((counted u).setDma r c done)
      let aborted := (after.dropReads r c fun _ _ => true).setDma r c { done with started := rest.map fun e =>
          { e with status := some stABORTED, detail := 0, done := 0 } }
      (u.unackedOffs r c d.seq ≠ [] → exec (.descWriteback r c) s = .next (put (counted u) { d with sent := true })) ∧
      (u.unackedOffs r c d.seq = [] →
        (isSuccess st = true → x.errAfter = true → rest = [] → exec (.descWriteback r c) s = .next (into after .error)) ∧
        (isSuccess st = true → x.errAfter = false →
          x.state ≠ .active ∨ rest ≠ [] ∨ x.target.any (fun t => decide (x.fetchSeq ≤ t)) = true →
          exec (.descWriteback r c) s = .next after) ∧
        (isSuccess st = true → x.errAfter = false → x.state = .active → rest = [] →
          x.target.any (fun t => decide (x.fetchSeq ≤ t)) = false → exec (.descWriteback r c) s = .next (into after .idle)) ∧
        (isSuccess st = false → rest ≠ [] → exec (.descWriteback r c) s = .next aborted) ∧
        (isSuccess st = false → rest = [] → exec (.descWriteback r c) s = .next (into aborted .error)))) ∧
    (∀ va, let failed (u : State) (a : Nat) : State := into ((u.setDma r c { u.dmaChan r c with
          lastStatus := stXLATE, tries := none }).setReg (DMA_CH_ERR_ADDR r c) (w64 a)) .error
      (x.state = .active → x.started = [] → s.mayFetch r c = true → y.pieces pasid (s.ringAddr r c x.fetchSeq) 64 false = .fault va →
        exec (.ringFault r c) s = .next (failed y (s.ringAddr r c x.fetchSeq))) ∧
      (∀ d rest, settled = d :: rest → x.state ≠ .disabled → x.state ≠ .error → d.status ≠ none → d.sent = false →
        s.unackedOffs r c d.seq = [] → y.pieces pasid (s.ringAddr r c d.seq) 64 true = .fault va →
        exec (.ringFault r c) s = .next (failed (put y { d with wbFault := true }) (s.ringAddr r c d.seq))))

/-! ### Pegs and watches -/

/-- A store to a peg's VALUE, ADD, CAS or STATUS view, and a release by an engine. Rests on R220, R227, R224, R219.
PEG_SET, PEG_ADD, the home's part of PEG_REL_ADD for an agent that is no hart, PEG_CAS_EXPECT and PEG_STATUS_CLEAR on
a peg whose home region is live: the command completes, the peg holds the value, LAST_WAS_RELEASE and the releaser
that R220, R224 and R227 give (and the unacknowledged writes that earlier releases carry), and every other peg stays; nothing changes but the pegs, the watch tables, the fired
watches and the watch counters (memory, blocks, harts and every other register are unchanged). A CAS expectation
changes alone. -/
def Obligations.PegStores : Prop :=
  (∀ (s : State) (ag : Agent) (p : Nat) (v : W64), s.powered = true → (Instr.pegSet ag p v).wf = true →
    s.regionLive (p / 16384) = true →
    ∃ t, exec (.pegSet ag p v) s = .next t ∧
      t = { s with pegs := t.pegs, watches := t.watches, gens := t.gens, fired := t.fired, regs := t.regs } ∧
      t.peg p = { s.peg p with value := v, lastRel := false } ∧ (∀ q, q ≠ p → t.peg q = s.peg q) ∧
      ∀ g, (∀ r, g ≠ WATCH_FIRED r) → t.reg g = s.reg g) ∧
  (∀ (s : State) (ag : Agent) (p : Nat) (v : W64), s.powered = true → (Instr.pegAdd ag p v).wf = true →
    s.regionLive (p / 16384) = true →
    ∃ t, exec (.pegAdd ag p v) s = .next t ∧
      t = { s with pegs := t.pegs, watches := t.watches, gens := t.gens, fired := t.fired, regs := t.regs } ∧
      t.peg p = { s.peg p with value := (s.peg p).value + v, lastRel := false } ∧ (∀ q, q ≠ p → t.peg q = s.peg q) ∧
      ∀ g, (∀ r, g ≠ WATCH_FIRED r) → t.reg g = s.reg g) ∧
  (∀ (s : State) (ag : Agent) (p : Nat) (sc : Scope) (v : W64), s.powered = true → (Instr.pegRelAdd ag p sc v).wf = true →
    s.regionLive (p / 16384) = true → ag.hart = none →
    ∃ t, exec (.pegRelAdd ag p sc v) s = .next t ∧
      t = { s with pegs := t.pegs, watches := t.watches, gens := t.gens, fired := t.fired, regs := t.regs } ∧
      t.peg p = { s.peg p with value := (s.peg p).value + v, lastRel := true, lastScope := scopeCode sc,
                               releaser := ag.place, carries := (s.peg p).carries.filter fun y => s.awaited y.1 } ∧ (∀ q, q ≠ p → t.peg q = s.peg q) ∧
      ∀ g, (∀ r, g ≠ WATCH_FIRED r) → t.reg g = s.reg g) ∧
  (∀ (s : State) (ag : Agent) (p h : Nat) (v : W64), s.powered = true → (Instr.pegCasExpect ag p v).wf = true →
    s.regionLive (p / 16384) = true → ag.hart = some h →
    exec (.pegCasExpect ag p v) s = .next { s with casExp := s.casExp.set (h, p) v }) ∧
  (∀ (s : State) (ag : Agent) (p : Nat) (v : W64), s.powered = true → (Instr.pegStatusClear ag p v).wf = true →
    s.regionLive (p / 16384) = true →
    exec (.pegStatusClear ag p v) s = .next (if v.getLsbD 0 = true then
      { s with pegs := s.pegs.set p { s.peg p with narrow := false, narrowCount := 0 } } else s))

/-- PEG_REL_ADD by a hart whose earlier accesses are all performed. Rests on R224, R227. A release-add by a hart that
holds no retired store, no write-combined line and no streamed line, and awaits no acknowledgement: the peg takes
VALUE + v, LAST_WAS_RELEASE, the scope and the releaser's location, and carries no unacknowledged write; every other peg, every hart, memory and every
register but the fired-watch counters stay. -/
def Obligations.PegReleaseByHart : Prop :=
  ∀ (s : State) (ag : Agent) (p h : Nat) (sc : Scope) (v : W64), s.powered = true → (Instr.pegRelAdd ag p sc v).wf = true →
    s.regionLive (p / 16384) = true → ag.hart = some h → (s.hart h).stores = [] → (s.hart h).combine = none →
    (s.hart h).wc = [] → s.out = [] →
    ∃ t, exec (.pegRelAdd ag p sc v) s = .next t ∧
      t = { s with pegs := t.pegs, watches := t.watches, gens := t.gens, fired := t.fired, regs := t.regs,
                   harts := t.harts } ∧
      t.peg p = { s.peg p with value := (s.peg p).value + v, lastRel := true, lastScope := scopeCode sc,
                               releaser := ag.place, carries := [] } ∧ (∀ q, q ≠ p → t.peg q = s.peg q) ∧
      (∀ j, t.hart j = s.hart j) ∧ ∀ g, (∀ r, g ≠ WATCH_FIRED r) → t.reg g = s.reg g

/-- An acquire read, a compare-and-swap and a refused access of a peg by a hart. Rests on R225, R227, R222, R221. Strict
scope mode off and the home region live: PEG_ACQ_READ gives the hart VALUE and, exactly where the last operation was a
release and the narrower of its scope and the acquire's is below the common scope, sets SCOPE_NARROW and adds 1 to
both narrow counts. It also makes visible what the releases carry whose scope and the acquire's are wide enough (`State.carried`).
PEG_CAS gives the hart the value read and writes v exactly where it equals the hart's expectation,
clearing LAST_WAS_RELEASE. PEG_ACCESS_FAULT traps a running hart, no store of which waits in a combining buffer, with the access fault of its kind and mtval the
address, and changes no peg. -/
def Obligations.PegReads : Prop :=
  (∀ (s : State) (ag : Agent) (p h : Nat) (sc : Scope), s.powered = true → (Instr.pegAcqRead ag p sc).wf = true →
    s.regionLive (p / 16384) = true → ag.hart = some h → s.strictScope = false →
    let narrow := (s.peg p).lastRel && decide (min (s.peg p).lastScope (scopeCode sc) <
      commonScope (agentOfCode s.moduleId (s.peg p).releaser) ag)
    let seen := ((s.peg p).carries.filter fun y => s.awaited y.1 &&
      decide (commonScope (agentOfCode s.moduleId y.2.2) ag ≤ min y.2.1 (scopeCode sc))).map (·.1)
    ∃ t, exec (.pegAcqRead ag p sc) s = .next t ∧
      t = { s with pegs := t.pegs, regs := t.regs, harts := t.harts, carried := if seen = [] then s.carried
                     else s.carried.set h ((s.carried.get [] h).filter s.awaited ++ seen) } ∧
      t.hart h = { s.hart h with result := (s.peg p).value } ∧ (∀ j, j ≠ h → t.hart j = s.hart j) ∧
      t.peg p = (if narrow = true then { s.peg p with narrow := true, narrowCount := min 0xFFFF ((s.peg p).narrowCount + 1) }
        else s.peg p) ∧
      (∀ q, q ≠ p → t.peg q = s.peg q) ∧
      t.reg (PEG_NARROW_COUNT (p / 16384)) = s.reg (PEG_NARROW_COUNT (p / 16384)) + (if narrow = true then 1 else 0) ∧
      ∀ g, g ≠ PEG_NARROW_COUNT (p / 16384) → t.reg g = s.reg g) ∧
  (∀ (s : State) (ag : Agent) (p h : Nat) (v : W64), s.powered = true → (Instr.pegCas ag p v).wf = true →
    s.regionLive (p / 16384) = true → ag.hart = some h →
    let hit := (s.peg p).value = s.casExp.get 0 (h, p)
    ∃ t, exec (.pegCas ag p v) s = .next t ∧
      t = { s with pegs := t.pegs, watches := t.watches, gens := t.gens, fired := t.fired, regs := t.regs,
                   harts := t.harts } ∧
      t.hart h = { s.hart h with result := (s.peg p).value } ∧ (∀ j, j ≠ h → t.hart j = s.hart j) ∧
      (hit → t.peg p = { s.peg p with value := v, lastRel := false }) ∧ (¬hit → t.peg p = s.peg p ∧ t.fired = s.fired) ∧
      ∀ q, q ≠ p → t.peg q = s.peg q) ∧
  (∀ (s : State) (ag : Agent) (addr size h : Nat) (write amo : Bool), s.powered = true → (Instr.pegAccessFault ag addr size write amo).wf = true → isPegAddr addr = true → (amo = true ∨ size ≠ 8 ∨ addr % 8 ≠ 0) →
    ag.hart = some h → s.hartReady h = true → (s.hart h).wc = [] → s.wcUnacked h = false → (s.hart h).streaming = false → (s.hart h).combine = none →
    ¬(144 ≤ h ∧ (s.hart h).inTrap = true) →
    ∃ t, exec (.pegAccessFault ag addr size write amo) s = .next t ∧
      t = { s with harts := t.harts, reserved := s.reserved.erase h, retries := t.retries } ∧
      t.hart h = (s.hart h).enter false (if write = true ∨ amo = true then 7 else 5) (w64 addr) ∧
      ((s.hart h).priv = .machine → (t.hart h).mcause = (if write = true ∨ amo = true then 7 else 5) ∧
        (t.hart h).mtval = w64 addr ∧ (t.hart h).mepc = (s.hart h).pc ∧ (t.hart h).pc = (s.hart h).mtvec &&& ~~~3) ∧
      (∀ j, j ≠ h → t.hart j = s.hart j))

/-- A pushed arm that fails a check is rejected with the lowest code and takes no entry. Formalises R232. A store to VALUE
of a core's or a sequencer's own arm window pushes an arm. Where a check of R232 fails, the lack of a free entry in
both tables among them (RANGE before ALIGN before PEER_LOST before MUTED), RESULT is that code, the words stored since
the last push are gone, and nothing else of the state changes: no entry is taken. -/
def Obligations.WatchArmChecks : Prop :=
  ∀ (s : State) (ag : Agent) (v : W64) (h : Nat), s.powered = true → (Instr.watchArm ag v).wf = true →
    ag.hart = some h →
    let w0 := (s.arm h).w0
    let t := (s.arm h).w2
    let kind := bits w0 19 18
    let range := bits w0 63 56 ≠ 0 ∨ kind = 3 ∨ (kind ≠ 2 ∧ bits w0 55 36 ≠ 0) ∨ (kind = 0 ∧ 511 < t.toNat) ∨
      (kind = 1 ∧ (2 ^ 20 ≤ t.toNat ∨ 143 < t.toNat % 256 ∨ bits t 19 9 = 0)) ∨
      s.pickEntry (pegHome (bits w0 15 0)) kind t.toNat = none
    let align := kind = 2 ∧ t.toNat % 8 ≠ 0
    let lost := s.regionLive (bits w0 15 0 / 16384) = false ∨ (kind = 1 ∧ s.dieLive (t.toNat % 256 / 36) 2 = false)
    let muted := kind = 0 ∧ (s.block t.toNat).state = .muted
    let rejected (code : Nat) := exec (.watchArm ag v) s =
      .next { s with arms := s.arms.set h { s.arm h with w0 := 0, w1 := 0, w2 := 0, result := w64 code } }
    (range → rejected 2) ∧ (¬range → align → rejected 3) ∧ (¬range → ¬align → lost → rejected 6) ∧
      (¬range → ¬align → ¬lost → muted → rejected 0xC)

/-- An accepted arm takes an entry, or fires at once. Rests on R231, R233, R234. A hart's arm that passes the checks of
R232 takes the entry that R233 and R234 give (hardware before spill): RESULT holds the handle with the entry's present
generation. Where the condition does not hold the watch is armed in that entry and nothing fires; where it holds,
FIRED_NOW is set, the watch is queued as FIRED, the entry is free again and its generation has advanced by one modulo
4,096. Only the arm window, the watch tables and the watch counters change. -/
def Obligations.WatchArmAccepted : Prop :=
  ∀ (s : State) (ag : Agent) (v : W64) (h : Nat) (k : WKey), s.powered = true → (Instr.watchArm ag v).wf = true →
    ag.hart = some h → s.armCheck none (s.arm h).w0 (s.arm h).w2 = stOK →
    let w := State.watchOf ag.code (s.arm h).w0 (s.arm h).w1 (s.arm h).w2 v
    s.pickEntry (pegHome w.peg) w.kind w.target.toNat = some k →
    let now := condHolds w.cond (s.peg w.peg).value w.operand
    ∃ t, exec (.watchArm ag v) s = .next t ∧
      t = { s with arms := t.arms, watches := t.watches, gens := t.gens, fired := t.fired, regs := t.regs } ∧
      t.arm h = { s.arm h with w0 := 0, w1 := 0, w2 := 0, result := flag now 8 ||| fld (handleOf k (s.gen k)) 32 } ∧
      (now = false → t.watches.find k = some w ∧ t.gen k = s.gen k ∧ t.fired = s.fired) ∧
      (now = true → t.watches.find k = none ∧ t.gen k = (s.gen k + 1) % 4096 ∧
        t.fired = s.fired ++ [(k.home, { handle := handleOf k (s.gen k), reason := 0, watch := w })])

/-- A fired watch delivers its event; an expired or cancelled watch frees its entry. Rests on R235, R236, R237, R238.
WATCH_DELIVER of a home whose oldest fired watch heads the list, for a block, core or host function target: the event word
enters the target's queue while it has fewer than 64 entries and no earlier event waits for it, else it waits at the home and
WATCH_EVENT_HELD counts it; the watch leaves the fired list. An event that enters a hart's queue ends its WFI and makes the
core's external interrupt of TARGET pending; one that enters a function's queue sends its message. WATCH_EXPIRE of a due watch
queues it as EXPIRED, frees its entry, advances its generation and counts it. WATCH_CANCEL of a live handle frees the entry with
OK, and of any other handle answers STATE. WATCH_EVENT_READ removes and returns the oldest event, or zero; a core whose queue it
empties has no external interrupt pending. EVENT_QUEUE_ADMIT moves the oldest waiting event of a home into its queue once there
is space. What is not named stays, memory among it. -/
def Obligations.WatchEvents : Prop :=
  let entered (s t : State) (q : Nat) (e : QEvent) : Prop :=
    let irq : Bool × Nat := (e.code.testBit 8, e.code / 512)
    t.eventQ.get [] q = s.eventQ.get [] q ++ [e.word] ∧ (∀ j, j ≠ q → t.eventQ.get [] j = s.eventQ.get [] j) ∧
    (1000 ≤ q → t.harts = s.harts ∧ t.outbox = s.outbox ++ [.msix ((q - 1000) / 16) ((q - 1000) % 16) (e.code % 2048)]) ∧
    (q < 1000 → t.outbox = s.outbox ∧ (∀ j, j ≠ q → t.hart j = s.hart j) ∧
      t.hart q = { s.hart q with
        wfi := false,
        eiids := if q < 144 ∧ irq.2 ≠ 0 ∧ irq ∉ (s.hart q).eiids then (s.hart q).eiids ++ [irq] else (s.hart q).eiids })
  (∀ (s : State) (r : Nat) (x : Fired) (rest : List (Nat × Fired)), s.powered = true → (Instr.watchDeliver r).wf = true →
    s.fired = (r, x) :: rest → x.watch.kind ≠ 2 →
    let q := if x.watch.kind = 0 then 144 + x.watch.target.toNat
      else if x.watch.armer / 512 % 4 = 3 then 1000 + 16 * (x.watch.armer / 2048 % 4) + x.watch.armer % 512
      else x.watch.target.toNat % 256
    let e : QEvent := { word := 1 ||| fld x.reason 1 ||| fld x.handle 32,
                        code := if x.watch.kind = 1 then x.watch.target.toNat else 0 }
    let full := s.heldEvents.any (fun y => y.2.1 == q) || decide (64 ≤ (s.eventQ.get [] q).length)
    ∃ t, exec (.watchDeliver r) s = .next t ∧
      t = { s with fired := rest, eventQ := t.eventQ, heldEvents := t.heldEvents, harts := t.harts, outbox := t.outbox, regs := t.regs } ∧
      (full = false → entered s t q e ∧ t.heldEvents = s.heldEvents ∧ t.regs = s.regs) ∧
      (full = true → t.eventQ = s.eventQ ∧ t.harts = s.harts ∧ t.outbox = s.outbox ∧ t.heldEvents = s.heldEvents ++ [(r, q, e)] ∧
        t.reg (WATCH_EVENT_HELD r) = s.reg (WATCH_EVENT_HELD r) + 1)) ∧
  (∀ (s : State) (r key : Nat) (w : Watch), s.powered = true → (Instr.watchExpire r key).wf = true →
    let k := (keyOfHandle key).1
    s.watches.find k = some w → k.home = r → w.due = true →
    ∃ t, exec (.watchExpire r key) s = .next t ∧
      t = { s with watches := s.watches.erase k, gens := t.gens, fired := t.fired, regs := t.regs } ∧
      t.gen k = (s.gen k + 1) % 4096 ∧
      t.fired = s.fired ++ [(r, { handle := handleOf k (s.gen k), reason := 1, watch := w })] ∧
      t.reg (WATCH_EXPIRED r) = s.reg (WATCH_EXPIRED r) + 1) ∧
  (∀ (s : State) (ag : Agent) (v : W64) (h : Nat), s.powered = true → (Instr.watchCancel ag v).wf = true →
    ag.hart = some h →
    let k := (keyOfHandle (bits v 63 32)).1
    let live := ∃ w, s.watches.find k = some w ∧ w.due = false ∧ (keyOfHandle (bits v 63 32)).2 = s.gen k
    ∃ t, exec (.watchCancel ag v) s = .next t ∧ t = { s with watches := t.watches, gens := t.gens, arms := t.arms } ∧
      (live → t.watches = s.watches.erase k ∧ t.gen k = (s.gen k + 1) % 4096 ∧ (t.arm h).cancel = 0) ∧
      (¬live → t.watches = s.watches ∧ t.gens = s.gens ∧ (t.arm h).cancel = 1)) ∧
  (∀ (s : State) (ag : Agent) (h : Nat), s.powered = true → (Instr.watchEventRead ag).wf = true → ag.hart = some h →
    ∃ t, exec (.watchEventRead ag) s = .next t ∧ t = { s with eventQ := t.eventQ, harts := t.harts } ∧
      (∀ j, j ≠ h → t.hart j = s.hart j) ∧
      t.hart h = { s.hart h with
        result := (s.eventQ.get [] h).headD 0,
        eiids := if (s.eventQ.get [] h).length = 1 ∧ h < 144 then [] else (s.hart h).eiids } ∧
      t.eventQ.get [] h = (s.eventQ.get [] h).tail ∧ ∀ j, j ≠ h → t.eventQ.get [] j = s.eventQ.get [] j) ∧
  (∀ (s : State) (r q : Nat) (e : QEvent) (rest : List (Nat × Nat × QEvent)), s.powered = true →
    (Instr.eventQueueAdmit r).wf = true → s.heldEvents = (r, q, e) :: rest → (s.eventQ.get [] q).length < 64 →
    ∃ t, exec (.eventQueueAdmit r) s = .next t ∧
      t = { s with heldEvents := rest, eventQ := t.eventQ, harts := t.harts, outbox := t.outbox } ∧ entered s t q e)

/-! ### Lines and memory -/

/-- Requests, snoops, evictions, retries and completions at the home of a line. Rests on R256, R257, R277, R281, R283, R284,
R285, R286, R287, R289, R290, R291. An accepted request to a line that no cache holds and no transaction uses, whose
directory set and cache set have room, whose bucket has tokens and whose memory answers, is served at once (no hart has a store
that waits for the line): the reading cache gets memory's line in E, the
directory names it, and the SLC holds the line; an engine read returns the line; a write, a masked write and an atomic on clean words
leave the written, merged or changed line. UPGRADE without the line is READ_UNIQUE. With 1,024 entries used the answer is RETRY;
a grant accepts the retried request into its credit. A snooped cache gives up or shares its copy and hands dirty or exclusive
data on; a deferring one ends the transaction with RETRY, but answers one that uses a credit only once the deferral has ended. The last
answer lets the transaction complete. A write-back stores the line, a clean eviction drops it, both leave directory state I. A
finished invalidation sets INIT_DONE with directory and SLC empty; a finished scrub ends. -/
def Obligations.LinesAreServedByTheirHome : Prop :=
  (∀ (s : State) (line : Nat), s.powered = true → s.cacheable (line * 128) = true → s.regionLive (State.lineHome line) = true →
    s.initDone.contains (State.lineHome line) = true → (∀ f, s.heldBy line f = none) → s.lineBusy line = false →
    s.dirOf line = none → s.dirVictim line = none → s.homeStatus (line * 128) = stOK → s.retraining (line * 128) = false →
    (∀ r, s.patBusy.find r = none) → (∀ l x, s.txns.find? (·.line == l) = some x → x.started = true) →
    (s.tracked (State.lineHome line) < 1024 →
      (∀ k, k < 656 → s.hartLive k = true → s.cacheOf k line = none → s.evicting.find (k, line) = none →
        s.requesting k line = false → (∀ x ∈ s.harts, x.2.stores = [] ∧ x.2.combine = none) →
        (s.caches.filter fun x => x.1.1 == k).length + (s.inFlight k).length < (if k < 144 then 16 else 256) →
        (∀ v, ∃ t, exec (.readShared k line v) s = .next t ∧ ServedAtOnce s line (.readShared k) t) ∧
        (∀ v, ∃ t, exec (.readUnique k line v) s = .next t ∧ ServedAtOnce s line (.readUnique k) t) ∧
        (∀ v, ∃ t, exec (.upgrade k line v) s = .next t ∧ ServedAtOnce s line (.upgrade k) t)) ∧
      (∀ p, p < 688 → (∃ t, exec (.engineRead p line) s = .next t ∧ ServedAtOnce s line (.eRead p) t) ∧
        (∀ d m, d.length = 128 →
          (∃ t, exec (.engineWrite p line d) s = .next t ∧ ServedAtOnce s line (.eWrite p (BitVec.ofNat 1024 (leNat d))) t) ∧
          (∃ t, exec (.engineMaskedWrite p line d m) s = .next t ∧
            ServedAtOnce s line (.eMasked p (BitVec.ofNat 1024 (leNat d)) (BitVec.ofNat 128 m)) t)) ∧
        (∀ off size op v, okWide size = true → off % size = 0 → off < 128 →
          ∃ t, exec (.engineAtomic p line off size op v) s = .next t ∧ ServedAtOnce s line (.eAtomic p off size op v) t))) ∧
    (1024 ≤ s.tracked (State.lineHome line) → ∀ p, p < 688 → exec (.engineRead p line) s = .next
      { s.bump (MGMT_COH_RETRIES (State.lineHome line)) 1 with retries := s.retries ++ [{ line := line, req := .eRead p }] }) ∧
    (∀ x, x.line = line → x.deferrer = none → x.req.who < 688 → (∀ k, x.req ≠ .writeBack k ∧ x.req ≠ .cleanEvict k) →
      s.retries = [x] → s.txns = [] → (∀ y ∈ s.harts, y.2.stores = [] ∧ y.2.combine = none) →
      ∃ t, exec (.grant (State.lineHome line) x.req.who) s = .next t ∧ ServedAtOnce { s with retries := [] } line x.req t)) ∧
  (∀ (s : State) (k line : Nat) (x : Txn) (c : CLine), s.powered = true → k < 656 → s.txns = [x] → x.line = line →
    x.started = true → x.waits.contains k = true → (∀ y ∈ s.harts, y.2.stores = [] ∧ y.2.combine = none) →
    (s.reserved.find k = some (line, true) →
      exec (.snoop k line) s = .next (if x.credit = true then s else { s.bump (MGMT_COH_RETRIES (State.lineHome line)) 1 with
        txns := [], retries := s.retries ++ [{ line := line, req := x.req, deferrer := some k }] })) ∧
    (s.reserved.find k ≠ some (line, true) → s.cacheOf k line = some c →
      ∃ t, exec (.snoop k line) s = .next t ∧
        t = { s with caches := t.caches, icache := t.icache, reserved := t.reserved, retries := t.retries, dir := t.dir,
                     dirOrder := t.dirOrder, txns := t.txns } ∧
        t.cacheOf k line = (if x.req.takes then none else some { c with state := .shared }) ∧
        (x.req.takes = true → (k < 144 → t.icache.find (k, line) = none) ∧ ∀ y, t.reserved.find k = some y → y.1 ≠ line) ∧
        (s.dirOf line = some (.excl k) → c.state ≠ .shared →
          t.dirOf line = if x.req.takes then none else some (.shared [k] false)) ∧
        t.txns = [{ x with waits := x.waits.erase k,
                           fwd := if c.state = .shared then x.fwd else some (c.line, c.state == .modified) }])) ∧
  (∀ (s : State) (k line : Nat) (x : Txn) (l : Line) (d : Bool), s.powered = true → s.txns = [x] → x.line = line →
    x.started = true → x.waits = [] → x.fwd = some (l, d) → s.memoryHolds line = false → (∀ y ∈ s.harts, y.2.stores = [] ∧ y.2.combine = none) →
    (x.req = .readUnique k → ∃ t, exec (.homeTransactionComplete line) s = .next t ∧
      t = { s with regs := t.regs, txns := [], dir := s.dir.set line (.excl k), dirOrder := t.dirOrder,
                   caches := s.caches.set (k, line) ⟨if d then .modified else .exclusive, l⟩ } ∧
      t.dirOrder = if (s.dirOf line).isSome then s.dirOrder else s.dirOrder ++ [line]) ∧
    (x.req = .readShared k → d = false → ∃ t, exec (.homeTransactionComplete line) s = .next t ∧
      t = { s with regs := t.regs, txns := [], dir := t.dir, dirOrder := t.dirOrder,
                   caches := s.caches.set (k, line) ⟨.shared, l⟩ } ∧
      (s.dirOf line = none → t.dirOf line = some (.shared [k] false)))) ∧
  (∀ (s : State) (k line : Nat) (c : CLine), s.powered = true → k < 656 → s.cacheOf k line = some c →
    (s.evicting.filter fun x => x.1.1 == k).length < (if k < 144 then 16 else 4) → s.regionLive (State.lineHome line) = true →
    s.dirOf line = some (.excl k) → s.lineBusy line = false → s.tracked (State.lineHome line) < 1024 → s.memoryHolds line = false →
    (∀ l x, s.txns.find? (·.line == l) = some x → x.started = true) → (∀ y ∈ s.harts, y.2.stores = [] ∧ y.2.combine = none) →
    s.cacheable (line * 128) = true → s.initDone.contains (State.lineHome line) = true → (∀ f, s.heldBy line f = none) →
    let untracked (t : State) : Prop := t.icache = (if k < 144 then s.icache.erase (k, line) else s.icache) ∧
      t.dir = s.dir.erase line ∧ t.dirOrder = s.dirOrder.erase line ∧ ∀ x, t.reserved.find k = some x → x.1 ≠ line
    (c.state = .modified → s.homeStatus (line * 128) = stOK → ∃ t, exec (.writeBack k line) s = .next t ∧
      t = { s with mem := (s.putLine line c.line).mem, poison := (s.putLine line c.line).poison,
                   slc := (s.slcFill line true).slc, slcDirty := (s.slcFill line true).slcDirty,
                   freeCount := (s.slcFill line true).freeCount, buckets := t.buckets, caches := s.caches.erase (k, line),
                   evicting := s.evicting.erase (k, line), dir := t.dir, dirOrder := t.dirOrder, icache := t.icache,
                   reserved := t.reserved, retries := t.retries } ∧ untracked t) ∧
    (c.state = .exclusive → ∃ t, exec (.cleanEvict k line) s = .next t ∧
      t = { s with caches := s.caches.erase (k, line), evicting := s.evicting.erase (k, line), dir := t.dir,
                   dirOrder := t.dirOrder, icache := t.icache, reserved := t.reserved, retries := t.retries } ∧ untracked t)) ∧
  (∀ (s : State) (r : Nat), s.powered = true → r < 4 →
    exec (.scrubDone r) s = .next { s with scrubbing := s.scrubbing.filter (· != r) } ∧
    (s.regionLive r = true → s.initDone.contains r = false → exec (.invalidationDone r) s =
      .next { s with initDone := r :: s.initDone, slc := s.slc.filter fun n => State.lineHome n != r,
                     slcDirty := s.slcDirty.filter fun n => State.lineHome n != r,
                     dir := s.dir.filter fun x => State.lineHome x.1 != r,
                     dirOrder := s.dirOrder.filter fun n => State.lineHome n != r }))

/-- Errors, map-out, test, maintenance, rebuild and traffic generators of DRAM channels. Rests on R143, R292, R305, R306,
R307, R308, R312, R323, R324. An uncorrectable error poisons its word (its unit in a COMPRESS granule) and is logged, and
the fourth within 2^16 frets maps a channel in service out with OUT_CAUSE 3; one found in the SLC or in a hart's cache poisons
the word of the line held there and is logged with device 0xFFFF (log 133 for the three places); a corrected error of a block
store is counted. MAP_OUT, TEST_START and TEST_END move a channel IN_SERVICE -> MAPPED_OUT (OUT_CAUSE 4) -> TEST -> MAPPED_OUT; its group is PENDING if it uses the channel; an
action not allowed is logged with STATE. A due maintenance slot retrains the first pending device, or checks the next
one; the check and the retraining write their records, set or clear RETRAIN_PENDING, and map out below MARGIN_FAIL. A
rebuild takes the devices that are not mapped out and ends with the group zero-filled, but for words of group 0's or 4's
reserved area that lie poisoned in the other copy. A traffic generator starts only where its channel and range allow; it
ends with the bytes of its range found in error, for READ_ONLY also those that memory holds poisoned, for WRITE_ONLY none. -/
def Obligations.MemoryChannelsAndGroups : Prop :=
  ∀ (s : State), s.powered = true →
    let mappedOut (u : State) (d cause : Nat) : State :=
      let v := u.setDev d { u.dev d with state := .mappedOut, pending := false, outCause := cause }
      let x := v.group (devRegion d) (devGroup d)
      if x.live.contains (devId d) then v.setGroup (devRegion d) (devGroup d) { x with pending := true } else v
    (∀ a d, s.devOf a = some d → s.regionLive (State.placeHome (placeRaw a)) = true →
      let logged := ((s.eccWords a).foldl (fun s w => s.addPoison w) s).log (State.placeHome (placeRaw a)) stPOISON 3 0 (a / 8 * 8) (w64 d)
      let x := s.dev d
      let recent := (x.errors.filter fun f => decide (s.fret < f + 2 ^ 16)) ++ [s.fret]
      (d = 0xFFFF → exec (.eccUncorrectable ⟨a, .memory, false⟩) s = .next logged) ∧
      (d ≠ 0xFFFF → x.state = .inService ∧ 4 ≤ recent.length →
        exec (.eccUncorrectable ⟨a, .memory, false⟩) s = .next (mappedOut (logged.setDev d { x with errors := recent }) d 3)) ∧
      (d ≠ 0xFFFF → ¬(x.state = .inService ∧ 4 ≤ recent.length) →
        exec (.eccUncorrectable ⟨a, .memory, false⟩) s = .next (logged.setDev d { x with errors := recent }))) ∧
    (∀ a, s.slc.contains (a / 128) = true → s.regionLive (State.lineHome (a / 128)) = true →
      exec (.eccUncorrectable ⟨a, .slc, false⟩) s =
        .next ((s.addPoison (a / 8)).log (State.lineHome (a / 128)) stPOISON 3 0 (a / 8 * 8) 0xFFFF)) ∧
    (∀ a k c, k < 656 → s.cacheOf k (a / 128) = some c → exec (.eccUncorrectable ⟨a, .cache k, false⟩) s =
      .next ((s.setCache k (a / 128) (some ({ c with
        line := { data := c.line.data, poison := c.line.poison ||| BitVec.twoPow 16 (a % 128 / 8) } }))).log
          (hartRegion k) stPOISON 3 0 (a / 8 * 8) 0xFFFF)) ∧
    (∀ a b off p, okB b = true → placeRaw a = .store b off → s.dieLive (b / 128) (b % 128 / 64) = true →
      (∀ k, p = .cache k → k < 656) → exec (.eccUncorrectable ⟨a, p, true⟩) s = .next (s.bump (BLK_ECC_CORRECTED b) 1)) ∧
    (∀ (ag : Agent) (d : Nat), ag.wf = true → d < 536 →
      let refused := s.log (devRegion d) stSTATE 1 ag.code ((if d < 512 then HBM_CH_CTRL d else LPD_PKG_CTRL (d - 512)) % 0x100000000) 0
      exec (.mapOut ag d) s = .next (if (s.dev d).state = .inService then mappedOut s d 4 else refused) ∧
      exec (.testStart ag d) s =
        .next (if (s.dev d).state = .mappedOut then s.setDev d { s.dev d with state := .test } else refused) ∧
      exec (.testEnd ag d) s = .next (if (s.dev d).state = .test then (s.setDev d { s.dev d with state := .mappedOut }).setReg
        (HBM_TG_STATUS d) (s.reg (HBM_TG_STATUS d) &&& ~~~1#64) else refused)) ∧
    (∀ r seed, r < 4 → s.regionLive r = true → bits (s.reg (MGMT_MEM_MAINT r)) 15 0 ≠ 0 →
      s.maintLast.get 0 r + bits (s.reg (MGMT_MEM_MAINT r)) 15 0 ≤ s.fret → s.xchkPair r = none →
      (∀ l, (s.link l).repair = [] ∧ (s.link l).lanes.length ≤ 2 * (s.link l).groups) →
      ∃ t, exec (.maintSlot r seed []) s = .next t ∧ (∀ l, t.link l = s.link l) ∧
        let u : State := { s with maintLast := s.maintLast.set r s.fret, links := t.links }
        (∀ d, (regionDevs r).find? (fun d => (s.dev d).pending && (s.dev d).state == .inService) = some d →
          (s.reg (MGMT_MEM_MAINT r)).getLsbD 32 = true → (∀ e ∈ regionDevs r, (s.dev e).state ≠ .retraining) →
          t = u.setDev d { s.dev d with state := .retraining }) ∧
        (∀ i d, (regionDevs r).find? (fun d => (s.dev d).pending && (s.dev d).state == .inService) = none →
          s.nextCheck r (s.maintNext.get 0 r) = some (i, d) →
          t = { u with checking := s.checking.set r d, maintNext := s.maintNext.set r ((i + 1) % 134) })) ∧
    (∀ r m d, r < 4 → s.checking.find r = some d → (s.dev d).state = .inService →
      exec (.marginCheckDone r m) s =
        .next (({ s with checking := s.checking.erase r }.setReg (State.CHECK d) (trainRecord s.fret m)).setDev d
          { s.dev d with pending := (s.dev d).pending || decide (m.rd < s.marginMin r ∨ m.wr < s.marginMin r) })) ∧
    (∀ r m d, r < 4 → (regionDevs r).find? (fun d => (s.dev d).state == .retraining) = some d →
      (∀ l x, s.txns.find? (·.line == l) = some x → x.started = true) →
      let u := if d < 512 then s.bump (HBM_CH_RETRAINS d) 1 else s
      (m.rd < u.marginFail r ∨ m.wr < u.marginFail r → exec (.retrainDone r m) s = .next (mappedOut u d 2)) ∧
      (¬(m.rd < u.marginFail r ∨ m.wr < u.marginFail r) → exec (.retrainDone r m) s =
        .next ((u.setReg (State.TRAIN d) (trainRecord s.fret m)).setDev d { s.dev d with
          state := .inService, pending := (s.dev d).pending && decide (m.rd < u.marginMin r ∨ m.wr < u.marginMin r) }))) ∧
    (∀ (ag : Agent) (r : Nat) (v : W64), ag.wf = true → r < 4 →
      let g := bits v 3 0
      let refused (st : Nat) := s.log r st 1 ag.code (MGMT_MEM_GROUP_CTRL r % 0x100000000) 0
      let usable (c : Channel) : Bool := c.state != .mappedOut
      (8 < g ∨ bits v 63 5 ≠ 0 → exec (.groupRebuild ag r v) s = .next (refused stRANGE)) ∧
      (g ≤ 8 → bits v 63 5 = 0 → v.getLsbD 4 = true →
        ((s.group r g).pending = true ∧ (s.group r g).rebuilding = false → exec (.groupRebuild ag r v) s =
          .next (s.setGroup r g { pending := true, rebuilding := true, live :=
            if g = 8 then (regionPackages r).filter fun p => usable (s.package p)
            else (groupChannels r g).filter fun c => usable (s.channel c) })) ∧
        (¬((s.group r g).pending = true ∧ (s.group r g).rebuilding = false) →
          exec (.groupRebuild ag r v) s = .next (refused stSTATE)))) ∧
    (∀ r g, r < 4 → g < 9 → (s.group r g).rebuilding = true → ∃ t, exec (.rebuildDone r g) s = .next t ∧
      t = { s with groups := t.groups, mem := t.mem, poison := t.poison } ∧
      let base := (State.groupRange r g).1
      let len := (State.groupRange r g).2
      t.mem = s.mem.filter (fun c => !decide (base ≤ c.1 ∧ c.1 < base + len)) ∧
      let copied (w : Nat) : Prop := ∃ k, k < gib / 16 ∧ (g = 0 ∨ g = 4) ∧ w = (r * 0x3000000000 + g * (24 * gib)) / 8 + k ∧
        (r * 0x3000000000 + (4 - g) * (24 * gib)) / 8 + k ∈ s.poison
      (∀ w, w ∈ t.poison ↔ (w ∈ s.poison ∧ ¬(base ≤ w * 8 ∧ w * 8 < base + len)) ∨ copied w) ∧
      (t.group r g).rebuilding = false ∧ (t.group r g).live = (s.group r g).live) ∧
    (∀ (ag : Agent) (ch : Nat) (v : W64), ag.wf = true → ch < 512 →
      let u := s.setReg (HBM_TG_CTRL ch) ((v ||| 4) &&& 0x3B#64)
      let refused (st : Nat) := u.log (ch / 128) st 1 ag.code (HBM_TG_CTRL ch % 0x100000000) 0
      let range := s.reg (HBM_TG_RANGE ch)
      let mode := bits v 1 0
      let may := (s.reg (HBM_TG_STATUS ch)).getLsbD 0 = false ∧
        ((s.channel ch).state = .test ∨ ((s.channel ch).state = .inService ∧ mode = 1))
      let bad := mode = 3 ∨ (bits range 63 32 ≠ 0 ∧ 3145728 < bits range 31 0 + bits range 63 32)
      (may → ¬bad → exec (.tgStart ag ch v) s = .next (u.setReg (HBM_TG_STATUS ch) 1)) ∧
      (may → bad → exec (.tgStart ag ch v) s = .next (refused stRANGE)) ∧
      (¬may → exec (.tgStart ag ch v) s = .next (refused stSTATE))) ∧
    (∀ ch found, ch < 512 → (s.reg (HBM_TG_STATUS ch)).getLsbD 0 = true →
      let mode := bits (s.reg (HBM_TG_CTRL ch)) 1 0
      let range := s.reg (HBM_TG_RANGE ch)
      let inRange (o : Nat) : Bool :=
        bits range 63 32 == 0 || decide (bits range 31 0 * 512 ≤ o ∧ o < (bits range 31 0 + bits range 63 32) * 512)
      let errs := if mode = 2 then []
        else ((found ++ if mode = 1 then s.channelPoison ch else []).filter inRange).eraseDups
      exec (.tgDone ch found) s =
        .next ((s.setReg (HBM_TG_STATUS ch) (2 ||| flag (errs != []) 2 ||| fld (min errs.length 0xFFFFFFFF) 32)).setReg
          (HBM_TG_ERR_ADDR ch) (w64 (errs.headD 0))))

/-- The commands of the placement attribute table, and a token refill. Rests on R315, R316, R317, R318, R321, R322, R331.
READ, WRITE, SET_COPY_VALID and CLEAR_COPY_VALID sample the command and data words and are busy until they end; one
that meets a busy table is logged with STATE. The end writes the status; with OK, READ fills the data words from the
entry, WRITE stores the data words with COPY_VALID clear, SET and CLEAR change COPY_VALID only, each in the PAT or,
with RBQ set, in the remote bisque table; with another status nothing else changes (no request waits for a re-encoding here). An index past the table ends a
command with RANGE. A token refill of a region lets a waiting configuration take effect, clips the bucket to the new
BURST, and adds RATE tokens to each bucket up to BURST; a request that the NoC holds for that region is then offered to its home
again, or, where it still lacks tokens, MGMT_REG_WAIT counts the cycles it waited (a free value, log 169). -/
def Obligations.PlacementTableAndRegulators : Prop :=
  (∀ (s : State) (ag : Agent) (r : Nat) (v : W64), s.powered = true → ag.wf = true → r < 4 →
    let words (op : Nat) : PatCmd :=
      ⟨setBits v 1 0 op, s.reg (MGMT_PAT_DATA0 r), s.reg (MGMT_PAT_DATA1 r), s.reg (MGMT_PAT_DATA2 r)⟩
    let sampled (op : Nat) : State := { s with patBusy := s.patBusy.set r (words op) }
    let refused := s.log r stSTATE 1 ag.code (MGMT_PAT_CMD r % 0x100000000) 0
    let starts (op : Nat) : State := if (s.patBusy.find r).isSome then refused else sampled op
    exec (.patRead ag r v) s = .next (starts 0) ∧ exec (.patWrite ag r v) s = .next (starts 1) ∧
    exec (.setCopyValid ag r v) s = .next (starts 2) ∧ exec (.clearCopyValid ag r v) s = .next (starts 3)) ∧
  (∀ (s : State) (r : Nat) (c : PatCmd), s.powered = true → r < 4 → s.patBusy.find r = some c →
    (∀ l x, s.txns.find? (·.line == l) = some x → x.started = true) →
    let u : State := { s with patBusy := s.patBusy.erase r }
    let ends (x : State) (st : Nat) : State := x.setReg (MGMT_PAT_STATUS r) (w64 st)
    let op := bits c.cmd 1 0
    let i := bits c.cmd 31 8
    let e := s.patEntry r i
    let q := s.rbq.get (0, 0, 0) (r, i)
    (s.patStatus r c ≠ stOK → exec (.patCmdDone r) s = .next (ends u (s.patStatus r c))) ∧
    ((if c.cmd.getLsbD 2 then 65536 else 4489216) ≤ i → exec (.patCmdDone r) s = .next (ends u stRANGE)) ∧
    (s.patStatus r c = stOK → c.cmd.getLsbD 2 = false →
      (op = 0 → exec (.patCmdDone r) s = .next (ends ((u.setReg (MGMT_PAT_DATA0 r) (e.setWidth 64)).setReg
        (MGMT_PAT_DATA1 r) ((e >>> 64).setWidth 64)) stOK)) ∧
      (op = 1 → exec (.patCmdDone r) s = .next (ends { u with
        pat := s.pat.set (r, i) ((setBits c.d0 5 5 0).setWidth 128 ||| (c.d1.setWidth 128 <<< 64)) } stOK)) ∧
      (op = 2 → exec (.patCmdDone r) s = .next (ends { u with pat := s.pat.set (r, i) (e ||| 32) } stOK)) ∧
      (op = 3 → exec (.patCmdDone r) s = .next (ends { u with pat := s.pat.set (r, i) (e &&& ~~~32#128) } stOK))) ∧
    (s.patStatus r c = stOK → c.cmd.getLsbD 2 = true →
      (op = 0 → exec (.patCmdDone r) s = .next (ends (((u.setReg (MGMT_PAT_DATA0 r) q.1).setReg
        (MGMT_PAT_DATA1 r) q.2.1).setReg (MGMT_PAT_DATA2 r) q.2.2) stOK)) ∧
      (op = 1 → exec (.patCmdDone r) s = .next (ends { u with rbq := s.rbq.set (r, i) (setBits c.d0 5 5 0, c.d1, c.d2) } stOK)) ∧
      (op = 2 → exec (.patCmdDone r) s = .next (ends { u with rbq := s.rbq.set (r, i) (setBits q.1 5 5 1, q.2.1, q.2.2) } stOK)) ∧
      (op = 3 → exec (.patCmdDone r) s = .next (ends { u with rbq := s.rbq.set (r, i) (setBits q.1 5 5 0, q.2.1, q.2.2) } stOK)))) ∧
  (∀ (s : State) (r : Nat), s.powered = true → r < 4 → ∃ t : State, exec (.tokenRefill r) s = .next (t.offerHeld r) ∧
    t = { s with regs := t.regs, regNext := t.regNext, buckets := t.buckets } ∧
    ((∀ x ∈ s.nocHeld, State.lineHome x.1 ≠ r) → t.offerHeld r = t) ∧
    (∀ line q, s.nocHeld = [(line, q)] → State.lineHome line = r →
      (t.heldBy line q.allocates = none → t.offerHeld r = ({ t with nocHeld := [] } : State).offer line q) ∧
      (∀ x, t.heldBy line q.allocates = some x → t.offerHeld r =
        { t.bump (MGMT_REG_WAIT r x (t.partitionOf (line * 128))) (Config.waitCycles s.freeCount) with
          freeCount := s.freeCount + 1 })) ∧
    ∀ i, i < 24 →
      let g := MGMT_REG_CFG r (i / 8) (i % 8)
      let had := s.buckets.get 0 (r, i)
      let level (cfg : W64) (n : Nat) : Nat := if bits cfg 11 0 = 0 then n else min (bits cfg 31 12) (n + bits cfg 11 0)
      t.regNext.find (r, i) = none ∧
      (s.regNext.find (r, i) = none → t.reg g = s.reg g ∧ t.buckets.get 0 (r, i) = level (s.reg g) had) ∧
      (∀ v, s.regNext.find (r, i) = some v → t.reg g = v ∧ t.buckets.get 0 (r, i) = level v (min had (bits v 31 12))))

/-! ### Chaind -/

/-- Enables, RETRAIN, link failures and training attempts move a Chaind port as Table 10.8 says. Rests on R336, R338,
R341, R342, R365, R367, R368. On an enabled load side: PORT_ENABLE takes a DISABLED port to TRAINING; PORT_DISABLE
takes it to DISABLED with its link dropped, from ACTIVE as a link failure (DOWN_EVENTS counts it and the fabric error
log records cause 6); RETRAIN takes ACTIVE, HELD and FAILED to TRAINING, and in the other states only the region error
log records it with STATE; a link failure takes ACTIVE to TRAINING, and in the other states does nothing. A training
attempt without two good lanes in each direction counts, and the third in a row leaves FAILED with the link dropped;
one with a width leaves IDENTIFY with that width, the sequence numbers 0 and nothing to resend when the peer is
another one, and with the flits resent that the same peer misses; then HELLO goes out. Nothing waits to be sent at a
port that leaves ACTIVE here, and no collective runs over it (cause 6 has its STATUS from Config, log 13). -/
def Obligations.ChaindPortsFollowTheirStates : Prop :=
  ∀ (s : State) (ag : Agent) (k : Nat), s.powered = true → ag.wf = true → k < 16 → (∀ y ∈ s.colls, y.2.state ≠ .running) →
    let x := s.port k
    let training (y : Port) : Port :=
      { y with state := .training, heldCause := 0, width := 0, attempts := 0, hello := none, sent := none,
               asks := 0, asked := none }
    let dropped (y : Port) : Port :=
      { y with replay := [], nextSeq := 0, used := [], usedShared := 0, expect := 0, retrying := none, asks := 0,
               asked := none, held := [], timeWait := none }
    let off (y : Port) : Port := { y with state := .disabled, heldCause := 0, width := 0, hello := none, sent := none }
    let down : State := (s.bump (FAB_PORT_DOWN_EVENTS k) 1).fabLogAdd (k / 4) (Config.fabLogStatus 6) 6 (k % 4) x.peerModule 0
    let then_ (u t : State) : Prop := SameButReports u { t with time := u.time }
    (x.enabled = false → x.state = .disabled →
      exec (.portEnable ag k) s = .next (s.setPort k (training { x with enabled := true }))) ∧
    (x.enabled = true → x.state ≠ .disabled → x.state ≠ .active → ∃ t, exec (.portDisable ag k) s = .next t ∧
      then_ (s.setPort k (off (dropped { x with enabled := false }))) t) ∧
    (x.enabled = true → x.state = .active → x.txq = [] → ∃ t, exec (.portDisable ag k) s = .next t ∧
      then_ (down.setPort k (off (dropped { x with enabled := false }))) t) ∧
    (x.state = .held ∨ x.state = .failed → ∃ t, exec (.retrain ag k) s = .next t ∧ then_ (s.setPort k (training x)) t) ∧
    (x.state = .disabled ∨ x.state = .training ∨ x.state = .identify → ∃ t, exec (.retrain ag k) s = .next t ∧
      then_ (s.log (k / 4) stSTATE 1 ag.code (FAB_PORT_CTRL k % 0x100000000) 0) t) ∧
    (x.state = .active → x.txq = [] →
      (∃ t, exec (.retrain ag k) s = .next t ∧ then_ (down.setPort k (training x)) t) ∧
      (∃ t, exec (.linkFailure k) s = .next t ∧ then_ (down.setPort k (training x)) t)) ∧
    (x.state ≠ .active → ∃ t, exec (.linkFailure k) s = .next t ∧ then_ s t) ∧
    (∀ tx rx rev inv peer missing,
      let end_ := exec (.trainingAttemptEnd k tx rx rev inv peer missing) s
      let y := { x with txGood := tx % 256, rxGood := rx % 256, reversed := rev, inverted := inv % 256 }
      let same := peer = some (x.peerSerial, x.peerPort) ∧ x.peerSerial ≠ 0
      let again := x.replay.dropWhile fun z => z.1 != missing % 4096
      let resent : State := { s with outbox := s.outbox ++ again.map fun z => .resend k z.1 }
      (x.state ≠ .training → end_ = .next s) ∧
      (x.state = .training → widthOf tx rx = 0 → x.attempts < 2 →
        end_ = .next (s.setPort k { y with attempts := x.attempts + 1 })) ∧
      (x.state = .training → widthOf tx rx = 0 → 2 ≤ x.attempts →
        end_ = .next (s.setPort k (dropped { y with state := .failed, attempts := 0, width := 0 }))) ∧
      (x.state = .training → widthOf tx rx ≠ 0 → ¬ same → end_ = .next
        (s.setPort k (dropped { y with state := .identify, attempts := 0, width := widthOf tx rx })).sendHellos) ∧
      (x.state = .training → widthOf tx rx ≠ 0 → same → end_ = .next
        ((resent.bump (FAB_PORT_FLITS_TX k) again.length).setPort k
          { y with replay := again, state := .identify, attempts := 0, width := widthOf tx rx }).sendHellos))

/-- A port accepts the flit it expects, asks once for one that it misses, and sends again what its peer asks for. Rests on
R340, R341, R342, R343. In IDENTIFY, ACTIVE and HELD: the error counters take the flit's FEC results and count a bad CRC-32C over
its bytes 0 to 251; a flit with a bad CRC or uncorrectable symbols, and a DATA flit (type 1) with another SEQ than the one
expected, is discarded and the SEQ expected is asked for with RETRY_REQ, unless that request is already out. Otherwise its ACK
frees the replay buffer and its credits come back; a DATA flit is accepted: the next SEQ is expected, its buffer counts as held,
and a LINK flit (type 2) acknowledges it; a RETRY_REQ (type 3) has every flit from its SEQ on sent again and counted in FLITS_TX; another type does no more. In
the other states the port ignores flits. RETRY_REQ sends the flits from its SEQ on again, and its repeat sends the open
request again and counts it; with the eighth request for one SEQ, received or sent, the link has failed. -/
def Obligations.FlitsAreAcceptedOrAskedForAgain : Prop :=
  ∀ (s : State) (k : Nat), s.powered = true → k < 16 →
    let sealed (f : Flit) : OutMsg := .flit k { f with crc := Digest.crc32c (flitBytes f) }
    let ask (u : State) : State :=
      let x := u.port k
      if x.retrying = some x.expect then u
      else ((u.setPort k { x with retrying := some x.expect, asks := 1 }).emit (sealed { type := 3, seq := x.expect })).bump (FAB_PORT_RETRY k) 1
    let resend (u : State) (seq : Nat) : State :=
      let again := (u.port k).replay.dropWhile fun z => z.1 != seq
      let v : State := { u with outbox := u.outbox ++ again.map fun z => .resend k z.1 }
      v.bump (FAB_PORT_FLITS_TX k) again.length
    let asked (u : State) (seq : Nat) : State :=
      let n := match (u.port k).asked with
        | some (q, n) => if q = seq then n + 1 else 1
        | none => 1
      if 8 ≤ n then u.linkFailure k else resend (u.setPort k { u.port k with asked := some (seq, n) }) seq
    (∀ f, let got (t : State) : Prop := exec (.flitReceive k f) s = .next (s.noted t)
      let crcOk : Bool := Digest.crc32c (flitBytes f) == f.crc
      ((s.port k).state = .disabled ∨ (s.port k).state = .training ∨ (s.port k).state = .failed → got s) ∧
      ((s.port k).state = .identify ∨ (s.port k).state = .active ∨ (s.port k).state = .held →
        let u := ((s.bump (FAB_PORT_FEC_CORR k) f.fecCorr).bump (FAB_PORT_FEC_UNCORR k) f.fecUncorr).bump (FAB_PORT_CRC_ERR k)
          (if crcOk then 0 else 1)
        let acked : State := match f.ack with | some a => u.ackTo k a | none => u
        let v := if 0 < f.credits then (acked.updPort k fun x => State.returnCredits x f.creditVc f.credits).pump k else acked
        let x := v.port k
        let expected := f.seq % 4096 = (s.port k).expect
        (crcOk = false ∨ 0 < f.fecUncorr ∨ (f.type = 1 ∧ ¬ expected) → got (ask u)) ∧
        (crcOk = true → f.fecUncorr = 0 →
          (f.type = 1 → expected → got ((v.setPort k { x with
            expect := (x.expect + 1) % 4096, retrying := none, asks := 0, held := x.held.set f.vc (x.held.get 0 f.vc + 1) }).emit (sealed {
              type := 2, ack := some (((x.expect + 1) % 4096 + 4095) % 4096) }))) ∧
          (f.type = 3 → got (asked v (f.seq % 4096))) ∧
          (f.type ≠ 1 → f.type ≠ 3 → got v)))) ∧
    (∀ seq, exec (.retryReq k seq) s = .next (s.noted (asked s (seq % 4096)))) ∧
    (∀ q, (s.port k).retrying = some q →
      let u := ((s.setPort k { s.port k with asks := (s.port k).asks + 1 }).emit (sealed { type := 3, seq := q })).bump (FAB_PORT_RETRY k) 1
      exec (.retryReqRepeat k) s = .next (s.noted (if 8 ≤ (s.port k).asks + 1 then u.linkFailure k else u))) ∧
    ((s.port k).retrying = none → exec (.retryReqRepeat k) s = .next (s.noted s))

/-- HELLO checks a neighbour, ELECT spreads the best key, reports go up, and a lost leader is replaced. Rests on R347,
R348, R349, R350, R353, R354, R365, R368. HELLO stores the neighbour. In IDENTIFY, or in ACTIVE with changed checked
fields, it is checked: a cause of Table 10.6 holds the port and is recorded in the fabric error log; a passed one
makes the port ACTIVE, and then the module joins a settled fabric, reports a link that its map lacks towards the
leader with its report, or takes part in the election. A key that beats the best one is taken over with its port as parent
and sent on every ACTIVE port; an equal one changes only a longer or higher-numbered way; no other key does more than show
a second origin (`claim`), and a settled module takes no more from any. REPORT_TIMER sends the module's report to the
parent; REPORT makes its port a child and is forwarded, or kept by the leader, who in a settled fabric gives out a map
with the links that it lacked (log 174). LEADER_LOST: a settled module that is not leader, 1,024 frets after the last
BEAT, with its parent port out of ACTIVE, or with no parent in the newest map once that is in force, elects again. -/
def Obligations.ModulesIdentifyAndElectALeader : Prop :=
  ∀ (s : State) (k : Nat), s.powered = true → k < 16 →
    let x := s.port k
    let elect (u : State) (key : LeaderKey) (hops : Nat) : State :=
      (u.activePorts.foldl (fun (v : State) j => v.sendCtl j (.elect j key hops)) u).sendHellos
    let claim (key : LeaderKey) : State :=
      if key.cls = 0 ∧ ((s.fab.best.cls = 0 ∧ key.serial ≠ s.fab.best.serial) ∨ (s.fab.origin = true ∧ key.serial ≠ s.fab.serial))
      then { s with fab := { s.fab with dupOrigin := true } } else s
    (∀ h, let heard := claim h.best
      let y := { x with hello := some h, peerSerial := h.serial, peerPort := h.port, peerModule := h.module }
      let z := if x.state = .active then { y with left := x.left + 1 } else y
      let seen := x.hello.map checkedFields = some (checkedFields h)
      let c := s.helloCause h
      let u : State := if x.state = .active then heard.bump (FAB_PORT_DOWN_EVENTS k) 1 else heard
      let up := (u.setPort k { z with state := .active }).pump k
      let got (t : State) : Prop := exec (.hello k h) s = .next (s.noted t)
      (h.serial = s.fab.serial → c = 1) ∧ (h.serial ≠ s.fab.serial → h.period ≠ s.period → c = 2) ∧
      (x.state ≠ .identify → x.state ≠ .active → got (heard.setPort k y)) ∧
      (x.state = .active → seen → got ((heard.setPort k y).learnKey k h.best h.hops)) ∧
      (x.state = .identify ∨ (x.state = .active ∧ ¬ seen) →
        (c ≠ 0 → x.txq = [] → got ((u.setPort k { z with state := .held, heldCause := c }).fabLogAdd
          (k / 4) (Config.fabLogStatus 7) 7 (k % 4) h.module 0)) ∧
        (c = 0 → s.fab.lone = true → h.lone = true →
          got (({ up with fab := { up.fab with cur := {} } } : State).startElection.learnKey k h.best h.hops)) ∧
        (c = 0 → h.settled = true → h.lone = false → (s.fab.settled = false ∨ s.fab.lone = true) →
          got (({ up with fab := { up.fab with phase := 4 } } : State).sendCtl k (.join k up.ownReport))) ∧
        (c = 0 → h.settled = true → h.lone = false → s.fab.settled = true → s.fab.lone = false → h.fabricId = s.fab.fabricId →
          ((s.fab.cur.links s.moduleId).any (·.1 == k) = true → got up) ∧
          (∀ j, s.fab.parent = some j → s.isLeader = false → (s.fab.cur.links s.moduleId).any (·.1 == k) = false →
            got (up.sendCtl j (.report j up.ownReport))) ∧
          (s.isLeader = true → (s.fab.cur.links s.moduleId).any (·.1 == k) = false → got (up.reportSettled up.ownReport))) ∧
        (c = 0 → s.fab.settled = false → h.settled = false → s.fab.lone = false →
          (s.fab.phase = 0 → got (up.startElection.learnKey k h.best h.hops)) ∧
          (s.fab.phase ≠ 0 → got ((up.sendCtl k (.elect k s.fab.best s.fab.hops)).learnKey k h.best h.hops))))) ∧
    (∀ key hops, let got (t : State) : Prop := exec (.elect k key hops) s = .next (s.noted t)
      let told := claim key
      (s.fab.settled = true → got told) ∧
      (s.fab.settled = false →
        (keyBeats key s.fab.best = true → got (elect { told with fab := { told.fab with
          best := key, hops := hops + 1, parent := some k, phase := 1, children := [], reports := [] } } key (hops + 1))) ∧
        (keyBeats key s.fab.best = false → key ≠ s.fab.best → got told) ∧
        (∀ j, key = s.fab.best → s.fab.parent = some j →
          let nearer := hops + 1 < s.fab.hops ∨ (hops + 1 = s.fab.hops ∧ k < j)
          keyBeats key s.fab.best = false →
          (nearer → got ({ told with fab := { told.fab with hops := hops + 1, parent := some k } } : State).sendHellos) ∧
          (¬ nearer → got told)))) ∧
    (∀ rep, let f := { s.fab with children := if s.fab.children.contains k then s.fab.children else s.fab.children ++ [k] }
      let news := s.newestMap.any fun e => e.serial == rep.serial && e.links != rep.links
      let child : State := { s with fab := f }
      (s.isLeader = true → s.fab.settled = true → exec (.report k rep) s = .next (if news then child.newVersion
        (State.addPeers rep (s.newestMap.map fun e => if e.serial = rep.serial then { e with links := rep.links } else e))
        else child)) ∧
      (s.isLeader = true → s.fab.settled = false → exec (.report k rep) s =
        .next { s with fab := { f with reports := s.fab.reports.filter (·.serial != rep.serial) ++ [rep] } }) ∧
      (∀ j, s.isLeader = false → s.fab.parent = some j →
        exec (.report k rep) s = .next (child.sendCtl j (.report j rep)))) ∧
    (s.fab.settled = true ∨ s.fab.phase ≠ 1 → exec .reportTimer s = .next s) ∧
    (s.fab.settled = false → s.fab.phase = 1 → let u : State := { s with fab := { s.fab with phase := 2 } }
      (s.fab.parent = none → exec .reportTimer s = .next u) ∧
      (∀ j, s.fab.parent = some j → exec .reportTimer s = .next (u.sendCtl j (.report j s.ownReport)))) ∧
    (let cut : Prop := match s.fab.parent with
        | some j => (s.port j).state ≠ .active
        | none => s.fab.next = none ∧ s.fab.cur.version = s.fab.version
      let lost := s.fab.settled = true ∧ s.isLeader = false ∧ (s.fab.lastBeat + 1024 ≤ s.fret ∨ cut)
      (¬ lost → exec .leaderLost s = .next (s.noted s)) ∧
      (lost → s.activePorts = [] → exec .leaderLost s = .next (s.noted (elect { s with fab := { s.fab with
        leaderLost := true, best := s.ownKey, hops := 0, parent := none, phase := 1, children := [], reports := [],
        settled := false, lone := false, segs := [], next := none, later := [] } } s.ownKey 0))))

/-- A fabric settles, a map spreads and is held, members join, links drop out, and routes switch at their fret. Rests on
R350, R351, R352, R353, R354, R357, R360, R364, R365, R366, R377. FABRIC_SETTLE: a module with no ACTIVE port, none in
training, and its ports set up settles alone, as module 0 or with the number that it held; a leader whose reports are in gives out the numbers and the
map; else nothing happens. MAP: a segment already known, or of another or an older map, is dropped; a new one goes to
the children and is kept, and the last one completes the map, which gives the module its number and takes effect at
its switch fret, after those held before it. BEAT renews the leader's sign and goes to the children; BEAT_SEND sends it every 256 frets. JOIN and
PORT_EVENT go towards the leader, who gives out the next map version with the module added or the link's state
changed; an unsettled module drops them. PORT_DOWN_TIMEOUT reports a port still out of ACTIVE. ROUTE_SWITCH, once the
switch fret has come, makes the oldest held map current under the other RGEN, keeps the old one, and finds what is reachable
(here no traffic waits at a port out of ACTIVE, no ORDERED packet waits, and no request to another module is outstanding). Each step is followed by the reports that
noted makes. -/
def Obligations.FabricsSettleAndKeepTheirMap : Prop :=
  ∀ (s : State) (k : Nat), s.powered = true → k < 16 →
    let toChildren (u : State) (m : Nat → OutMsg) : State := u.fab.children.foldl (fun (v : State) j => v.sendCtl j (m j)) u
    let adopt (f : Fab) : Fab := { f with children := if f.children.contains k then f.children else f.children ++ [k] }
    let mode (es : List MapEntry) : Bool := !s.torusOk (es.filter (·.module != 0xFFFE))
    let later (es : List MapEntry) : Bool := mode es || State.linkAbsent s.fab.torus (es.filter (·.module != 0xFFFE))
    let held (x : Nat × Routes) (f : Fab) : Fab :=
      { f with next := s.fab.next <|> some x, later := if s.fab.next.isSome then s.fab.later ++ [x] else [] }
    let training := (List.range 16).any fun j => (s.port j).state == .training || (s.port j).state == .identify
    (let got (t : State) : Prop := exec .fabricSettle s = .next (s.noted t)
      let n := (s.fab.cur.numberOf s.fab.serial).getD 0
      let alone : List MapEntry := [{ serial := s.fab.serial, module := n, coord := s.fab.coord, links := [] }]
      let all := s.assignAll (s.ownReport :: s.fab.reports)
      let me := ((all.find? (·.serial == s.fab.serial)).map (·.module)).getD 0
      (s.activePorts = [] → s.fab.settled = true ∨ training = true ∨ s.mgmt.step7 = false → got s) ∧
      (s.activePorts = [] → s.fab.settled = false → training = false → s.mgmt.step7 = true → s.fab.children = [] →
        got (State.sendHellos { s with moduleId := n, fab := held (s.fret + 4,
          { table := mode alone, version := s.fab.version + 1, leader := n, entries := alone }) { s.fab with
          best := s.ownKey, hops := 0, parent := none, fabricId := s.newFabricId, settled := true, lone := true, phase := 3,
          leaderLost := false, leaderSerial := s.fab.serial, version := s.fab.version + 1, segs := [], lastBeat := s.fret } })) ∧
      (s.activePorts ≠ [] → s.isLeader = false ∨ s.fab.settled = true ∨ s.fab.phase ≠ 2 → got s) ∧
      (s.activePorts ≠ [] → s.isLeader = true → s.fab.settled = false → s.fab.phase = 2 →
        got (({ s with fab := { s.fab with fabricId := s.newFabricId } } : State).broadcastMap (s.fab.version + 1) (mode all) me all))) ∧
    (∀ m, let got (t : State) : Prop := exec (.map k m) s = .next (s.noted t)
      let known := s.fab.segs.any fun x => x.version == m.version && x.index == m.index
      let stale := s.fab.settled && (m.fabricId != s.fab.fabricId || decide (m.version ≤ s.fab.version)) && !s.fab.lone
      let segs := s.fab.segs.filter (·.version == m.version) ++ [m]
      let u := toChildren { s with fab := { s.fab with segs := segs } } fun j => .map j m
      (known = true ∨ stale = true → got s) ∧
      (known = false → stale = false → segs.length ≠ m.count → got u) ∧
      (known = false → stale = false → segs = [m] → m.count = 1 → (∀ e ∈ m.entries, e.module ≠ 0xFFFE) →
        ∀ e, m.entries.find? (·.serial == s.fab.serial) = some e →
        let leader := ((m.entries.find? (·.module == m.leader)).map (·.serial)).getD 0
        ∃ best, (s.fab.best.serial = leader → best = s.fab.best) ∧ best.serial = leader ∧
        got (State.sendHellos { u with moduleId := e.module, fab := held (m.switchFret,
          { table := m.tableMode, version := m.version, leader := m.leader, entries := m.entries }) { u.fab with
          settled := true, lone := m.entries.length == 1, phase := 3, leaderLost := false, fabricId := m.fabricId,
          best := best, leaderSerial := leader, version := m.version, segs := [],
          lastBeat := s.fret } })) ∧
      (known = false → stale = false → segs.length = m.count →
        got (u.holdMap m ((segs.mergeSort fun a b => a.index ≤ b.index).flatMap (·.entries))))) ∧
    (∀ b, (s.fab.settled = true → b.fabricId = s.fab.fabricId →
        exec (.beat k b) s = .next (toChildren { s with fab := { s.fab with lastBeat := s.fret } } fun j => .beat j b)) ∧
      (s.fab.settled = false ∨ b.fabricId ≠ s.fab.fabricId → exec (.beat k b) s = .next s)) ∧
    (let due := s.isLeader = true ∧ s.fab.settled = true ∧ s.fret % 256 = 0;
      (due → exec .beatSend s = .next (toChildren s fun j =>
        .beat j { fabricId := s.fab.fabricId, version := s.fab.version, fret := s.fret })) ∧
      (¬ due → exec .beatSend s = .next s)) ∧
    (∀ rep, let got (t : State) : Prop := exec (.join k rep) s = .next (s.noted t)
      let u : State := { s with fab := adopt s.fab }
      (s.fab.settled = false → got s) ∧
      (∀ j, s.fab.settled = true → s.isLeader = false → s.fab.parent = some j → got (u.sendCtl j (.join j rep))) ∧
      (s.fab.settled = true → s.isLeader = true → rep.links = [] →
        let others := s.newestMap.filter (·.serial != rep.serial)
        let n := (s.fab.cur.numberOf rep.serial).getD (s.assignOne ((others.map (·.module)).filter (· != 0xFFFE)) rep.coord)
        let all := others ++ [{ serial := rep.serial, module := n, coord := rep.coord, links := [] }]
        got (u.broadcastMap (s.fab.version + 1) (later all) s.moduleId all))) ∧
    (∀ serial port old new, let got (t : State) : Prop := exec (.portEvent serial port old new) s = .next (s.noted t);
      (s.fab.settled = false → got s) ∧
      (∀ j, s.fab.settled = true → s.isLeader = false → s.fab.parent = some j → got (s.sendCtl j (.portEvent j serial port old new))) ∧
      (∀ l, s.fab.settled = true → s.isLeader = true →
        (s.newestMap.find? (·.serial == serial)).bind (fun e => e.links.find? (·.port == port)) = some l →
        let upd (sr pt : Nat) (e : MapEntry) : MapEntry :=
          if e.serial = sr then { e with links := e.links.map fun x => if x.port = pt then { x with up := new == 3, state := new } else x } else e
        let all := (s.newestMap.map (upd serial port)).map (upd l.peerSerial l.peerPort)
        got (s.broadcastMap (s.fab.version + 1) (later all) s.moduleId all))) ∧
    (let got (t : State) : Prop := exec (.portDownTimeout k) s = .next (s.noted t);
      ((s.port k).state = .active ∨ s.fab.settled = false → got s) ∧
      (∀ j, (s.port k).state ≠ .active → s.fab.settled = true → s.isLeader = false → s.fab.parent = some j →
        got (s.sendCtl j (.portEvent j s.fab.serial k 3 (s.port k).state.code)))) ∧
    (let got (t : State) : Prop := exec .routeSwitch s = .next (s.noted t);
      (s.fab.next = none → got s) ∧
      (∀ at_ g, s.fab.next = some (at_, g) →
        let due := s.fab.lone = true ∨ (s.epochSet = true ∧ at_ ≤ s.fret)
        (¬ due → got s) ∧
        (due → s.fab.waiting = [] → (∀ j, j < 16 → (s.port j).state ≠ .active → (s.port j).txq = []) →
          (∀ q ∈ s.out, ∀ m, q.dest ≠ .module m) → ∃ t, got t ∧
          let new : Routes := { g with loaded := if s.fab.swRoutes then s.fab.loaded else none }
          t = { s with time := t.time, ports := t.ports, reachable := s.reached new, fab := { s.fab with
            next := s.fab.later.head?, later := s.fab.later.drop 1, rgen := !s.fab.rgen, cur := new, old := some s.fab.cur, oldSeen := s.fret, loaded := none,
            parent := t.fab.parent, children := t.fab.children } } ∧ ∀ j, t.port j = s.port j)))

/-- A packet is taken in, forwarded or discarded, and a route table is loaded or refused. Rests on R343, R344, R346, R358,
R361, R362, R364, R332, R363. FABRIC_PACKET_ARRIVE: a port in IDENTIFY, ACTIVE or HELD gives a packet's buffer credits back; what a control
message does is its own command's, and other packets are taken in ACTIVE only. One of the other generation is noted. A
malformed packet is recorded as discarded with cause 3; one for this module waits to be served; one with 255 hops or
more is discarded; another leaves on its next hop with HOPS counted, or is discarded with cause 5 where no route covers it
(the STATUS of a cause is Config's, log 13); a lookup in the spill area is counted. ROUTE_LOAD without software routes, or
during a load, is logged with STATE; more than 65,536 entries, or a table that lies in no memory of the module, end with
RANGE; a table with a line that must wait leaves the load BUSY; a poisoned table is logged and ends with POISON; a table in
order is loaded for the next generation with OK; any other ends with RANGE. -/
def Obligations.PacketsArriveAndAreForwarded : Prop :=
  ∀ (s : State), s.powered = true →
    (∀ k p, k < 16 →
      let freed := s.freeBuffer k p.vc (State.packetFlits p)
      let u : State := if p.rgen = s.fab.rgen then freed else { freed with fab := { freed.fab with oldSeen := s.fret } }
      let discard (u : State) (cause : Nat) : State :=
        u.fabLogAdd (k / 4) (Config.fabLogStatus cause) cause (k % 4) p.src (globalAddr p.dest p.addr)
      let bad := p.rsvBad = true ∨ State.opcodeOk p.opcode = false ∨ 4096 < p.len ∨ 255 < p.hops
      let control := 0xC0 ≤ p.opcode ∧ p.opcode ≤ 0xC7 ∧ p.rsvBad = false
      let spilled := spillLookup (((u.routesFor p.rgen).map fun g => if g.table then g.routeTable u.moduleId else []).getD []) p.dest
      let looked : State := if spilled then u.bump (FAB_ROUTE_SPILL_HITS k) 1 else u
      ((s.port k).state = .disabled ∨ (s.port k).state = .training ∨ (s.port k).state = .failed →
        exec (.fabricPacketArrive k p) s = .next s) ∧
      ((s.port k).state = .identify ∨ (s.port k).state = .held → exec (.fabricPacketArrive k p) s = .next freed) ∧
      ((s.port k).state = .active → control → exec (.fabricPacketArrive k p) s = .next freed) ∧
      ((s.port k).state = .active → ¬ control →
        (bad → exec (.fabricPacketArrive k p) s = .next (discard u 3)) ∧
        (¬ bad → p.dest = s.moduleId → exec (.fabricPacketArrive k p) s = .next { u with inbox := u.inbox ++ [p] }) ∧
        (¬ bad → p.dest ≠ s.moduleId → p.hops = 255 → exec (.fabricPacketArrive k p) s = .next (discard u 3)) ∧
        (¬ bad → p.dest ≠ s.moduleId → p.hops ≠ 255 → looked.nextHop p (some k) = none →
          exec (.fabricPacketArrive k p) s = .next (discard looked 5)) ∧
        (∀ j vc, ¬ bad → p.dest ≠ s.moduleId → p.hops ≠ 255 → looked.nextHop p (some k) = some (j, vc) →
          exec (.fabricPacketArrive k p) s = .next (looked.sendItem j
            { vc := vc, flits := State.packetFlits p, msg := .packet j vc { p with hops := p.hops + 1, vc := vc } })))) ∧
    (∀ (ag : Agent) (v : W64), ag.wf = true →
      let r := s.masterRegion
      let n := v.toNat % 131072
      let a := (s.reg (FAB_ROUTE_LOAD_ADDR 0)).toNat
      let given := s.setAll FAB_ROUTE_CTRL (v &&& 0x1FFFF)
      let u : State := { given with fab := { given.fab with loading := some (a, n) } }
      let done (w : State) (st : Nat) : State :=
        State.setAll { w with fab := { w.fab with loading := none } } FAB_ROUTE_STATUS (w64 st)
      let idle := s.fab.swRoutes = true ∧ s.fab.loading = none
      (¬ idle → exec (.routeLoad ag v) s = .next (s.log r stSTATE 1 ag.code (FAB_ROUTE_CTRL r % 0x100000000) 0)) ∧
      (idle → 65536 < n ∨ u.bytesReachable a (16 * n) = false → exec (.routeLoad ag v) s = .next (done u stRANGE)) ∧
      (idle → n ≤ 65536 → u.bytesReachable a (16 * n) = true →
        (u.rangeWaits a (16 * n) false = true → exec (.routeLoad ag v) s = .next (u.setAll FAB_ROUTE_STATUS 0x100)) ∧
        (∀ w bs bad, u.rangeWaits a (16 * n) false = false →
          u.readBytes (engineAgent s.moduleId r 1) a (16 * n) = (w, bs, bad) →
          let es := (List.range n).map fun i => State.entryOf ((bs.drop (16 * i)).take 16)
          let ok := es.all (·.2) && w.tableOk (es.map (·.1))
          (∀ x, bad = some x → exec (.routeLoad ag v) s =
            .next (done (w.log r stPOISON 2 (engineAgent s.moduleId r 1).code (x / 8 * 8) 0) stPOISON)) ∧
          (bad = none → ok = true → exec (.routeLoad ag v) s =
            .next (done { w with fab := { w.fab with loaded := some (es.map (·.1)), old := none } } stOK)) ∧
          (bad = none → ok = false → exec (.routeLoad ag v) s = .next (done w stRANGE)))))

/-- A waiting request is performed at its place and answered; an answer ends the request that it belongs to. Rests on
R221, R222, R257, R265, R266, R267, R268, R344, R345. A request that does not wait in the inbox, whose command is
another one, or which is ORDERED and waits behind an earlier ORDERED one of its source, does nothing. In a tile's block store on a live die, FABRIC_READ, FABRIC_WRITE, MASKED_WRITE and ATOMIC
read and write its bytes and answer OK (POISON for poisoned ones, which an atomic logs, ALIGN for a misaligned atomic, PEER_LOST for a die
that is not live); an aligned 8-byte register access reads or writes the register (0x380 takes
an abort notice), and an atomic on one is logged with ALIGN and returns zeros; memory whose lines the home can take at once is
read, written, merged or operated on as an engine's request; peg space and reserved addresses answer RANGE. PEG_OP
loads, stores, adds, sets and compares a peg, and answers RANGE elsewhere. The answer goes to the requester with the
request's tag and meter tag. READ_DATA, ATOMIC_DATA and WRITE_ACK end the outstanding request with their tag: a hart's
waiting load retires with the data, a channel's or an engine's data waits for it, a request passed on for another
module is answered to it. -/
def Obligations.RequestsOfOtherModulesAreServed : Prop :=
  ∀ (s : State), s.powered = true →
    (∀ p : Packet,
      let answer (u : State) (op st : Nat) (data : List Byte) (c : Instr) : Prop :=
        exec c s = .next (({ u with inbox := u.inbox.erase p } : State).respond p.src p.tag p.meterTag op st data)
      let waits : Bool := s.inbox.contains p &&
        !(p.ordered && (s.inbox.takeWhile (· != p)).any fun q => q.ordered && q.src == p.src && decide (q.opcode < 0x80))
      let ag := packetAgent p
      let line := p.addr / 128 * 128
      let size := if bits p.aux 23 16 = 4 then 4 else 8
      let cas := bits p.aux 7 0 == 2
      let op := auxOp p.aux (w64 (if cas then leNat (p.data.take size) else 0))
      let v := leNat ((if cas then p.data.drop size else p.data).take size)
      (waits = false → exec (.fabricRead p) s = .next s ∧ exec (.fabricWrite p) s = .next s ∧ exec (.maskedWrite p) s = .next s ∧
        exec (.atomic p) s = .next s ∧ exec (.pegOp p) s = .next s) ∧
      (waits = true →
        (p.opcode ≠ 1 → exec (.fabricRead p) s = .next s) ∧
        (p.opcode = 1 →
          (∀ b off, s.place p.addr = .store b off →
            (s.dieLive (b / 128) (b % 128 / 64) = false → answer s 0x81 stPEER_LOST [] (.fabricRead p)) ∧
            (s.dieLive (b / 128) (b % 128 / 64) = true → answer s 0x81
              (if (s.firstPoison (storeBase b + off) p.len).isSome then stPOISON else stOK) (s.rdBytes (storeBase b + off) p.len) (.fabricRead p))) ∧
          (∀ g u x, s.place p.addr = .mmio g → p.len = 8 → g % 8 = 0 → s.readReg ag g = (u, x) →
            answer u 0x81 stOK (leBytes 8 x.toNat) (.fabricRead p)) ∧
          (∀ r off u bs bad, s.place p.addr = .hbm r off ∨ s.place p.addr = .lpd r off →
            (State.linesOf p.addr p.len).any (s.lineWaits · false) = false → s.readBytes ag p.addr p.len = (u, bs, bad) →
            answer u 0x81 (if bad.isSome then stPOISON else stOK) bs (.fabricRead p)) ∧
          (s.place p.addr = .reserved → answer s 0x81 stRANGE [] (.fabricRead p))) ∧
        (p.opcode = 2 →
          (∀ b off, s.place p.addr = .store b off → s.dieLive (b / 128) (b % 128 / 64) = true →
            answer (s.wrBytes (storeBase b + off) p.data) 0x82 stOK [] (.fabricWrite p)) ∧
          (∀ g, s.place p.addr = .mmio g → p.data.length = 8 → g % 8 = 0 →
            let x := w64 (leNat p.data)
            answer (if g % 0x100000000 = 0x380 then s.noted (s.collNotice x) else s.regWrite ag g x) 0x82 stOK [] (.fabricWrite p)) ∧
          (∀ r off u e, s.place p.addr = .hbm r off ∨ s.place p.addr = .lpd r off →
            (State.linesOf p.addr p.data.length).any (s.lineWaits · true) = false → s.writeBytes ag p.addr p.data = (u, e) →
            answer u 0x82 ((e.map (·.1)).getD stOK) [] (.fabricWrite p)) ∧
          (s.place p.addr = .reserved → answer s 0x82 stRANGE [] (.fabricWrite p))) ∧
        (p.opcode = 3 →
          (∀ b off, s.place line = .store b off → s.dieLive (b / 128) (b % 128 / 64) = true →
            answer (s.wrMasked (storeBase b + off) (p.data.take 128) p.mask) 0x82 stOK [] (.maskedWrite p)) ∧
          (s.place line = .reserved → answer s 0x82 stRANGE [] (.maskedWrite p))) ∧
        (p.opcode = 4 →
          (∀ b off, s.place p.addr = .store b off → p.addr % size = 0 → s.dieLive (b / 128) (b % 128 / 64) = true →
            let old := s.rdNat (storeBase b + off) size
            ((s.firstPoison (storeBase b + off) size).isSome = true → answer (s.logPoison ag p.addr) 0x83 stPOISON [] (.atomic p)) ∧
            ((s.firstPoison (storeBase b + off) size).isSome = false → answer
              (s.wrNat (storeBase b + off) size (atomResult op size old v)) 0x83 stOK (leBytes size old) (.atomic p))) ∧
          (∀ r off, s.place p.addr = .hbm r off ∨ s.place p.addr = .lpd r off → p.addr % size ≠ 0 →
            answer s 0x83 stALIGN [] (.atomic p)) ∧
          (∀ g, s.place p.addr = .mmio g → answer (s.misaligned ag g) 0x83 stOK (List.replicate size 0) (.atomic p)) ∧
          (∀ r off u old st, s.place p.addr = .hbm r off ∨ s.place p.addr = .lpd r off → p.addr % size = 0 →
            s.lineWaits (p.addr / 128) true = false →
            s.engineAtomic ag (p.addr / 128) (p.addr % 128) size op v = (u, old, st) →
            answer u 0x83 st (leBytes size old) (.atomic p))) ∧
        (p.opcode = 5 →
          (∀ n off, s.place p.addr = .peg n off → off % 8 = 0 → s.regionLive (pegHome n) = true →
            let x := w64 (leNat p.data)
            let old := leBytes 8 (s.peg n).value.toNat
            (∀ u y, bits p.aux 7 0 = 0 → s.pegLoad ag n off = (u, y, false) → answer u 0x81 stOK (leBytes 8 y.toNat) (.pegOp p)) ∧
            (p.data.length = 8 →
              (bits p.aux 7 0 = 1 → answer (s.pegStore ag n off x) 0x82 stOK [] (.pegOp p)) ∧
              (bits p.aux 7 0 = 2 → off = 0 → answer (s.pegAdd ag n x) 0x83 stOK old (.pegOp p)) ∧
              (bits p.aux 7 0 = 3 → off = 0 → answer (s.pegSet ag n x) 0x83 stOK old (.pegOp p)) ∧
              (bits p.aux 7 0 = 3 → off = 0x30 → answer (s.pegCas ag n x) 0x83 stOK (leBytes 8 (s.pegCasResult ag n).toNat) (.pegOp p)))) ∧
          (s.place p.addr = .reserved → bits p.aux 7 0 = 1 → answer s 0x82 stRANGE [] (.pegOp p))))) ∧
    (∀ (tag st : Nat) (data : List Byte) (posted : Bool) (c : Instr),
      (posted = false ∧ c = .readData tag st data) ∨ (posted = true ∧ data = [] ∧ c = .writeAck tag st) ∨
        (∃ v, posted = false ∧ data = leBytes 8 (BitVec.toNat v) ∧ c = .atomicData tag st v) →
      ((s.out.find? fun q => q.tag == tag && q.posted == posted) = none → exec c s = .next s) ∧
      (∀ q m, (s.out.find? fun q => q.tag == tag && q.posted == posted) = some q → q.dest = .module m → q.posted = posted →
        let u : State := { s with
          inbox := s.inbox.filter fun p => !(decide (0x80 ≤ p.opcode) && p.src == m && p.tag == tag % 65536)
          out := s.out.erase q }
        (∀ h, q.origin = .hart h → posted = true → (∀ x y, (s.hart h).wait ≠ .trap x y) → exec c s = .next u.releaseOrdered) ∧
        (∀ h, q.origin = .hart h → posted = false → (s.hart h).wait = .answer q.tag → s.seqStopped h = false → st = stOK →
          exec c s = .next (u.retireWith h (State.extend q.signed q.len (leNat data))).releaseOrdered) ∧
        (∀ b seq, q.origin = .gs b seq → posted = true → st = stOK → exec c s = .next u.releaseOrdered) ∧
        (posted = false →
          let kept : State := { u with answers := s.answers ++ [{ origin := q.origin, tag := q.tag, status := st, data := data }] }
          (∀ b seq, q.origin = .gs b seq → exec c s = .next kept.releaseOrdered) ∧
          (∀ r e seq off, q.origin = .dma r e seq off → exec c s = .next (kept.dmaArrived r e off).releaseOrdered)) ∧
        (∀ src t meter, q.origin = .fabric src t meter →
          exec c s = .next (u.respond src t meter (State.responseOp q.op) st data).releaseOrdered)))

/-! ### Time and collectives -/

/-- Ports exchange timestamps, and an exchange with the parent moves the module's lock. Rests on R371, R372, R373, R374,
R375, R377. TIME_REQ leaves an ACTIVE port from slot 32 on, once in a fret, with the port's next SEQ and t1, and is answered with t2
and t3: timestamps of the module's own fret counter. A TIME_RESP with the SEQ of the open exchange gives the offset e, half the difference of the two ways, and the
delay d, half their sum, each rounded toward zero, in the port's registers. With the parent it counts towards adoption
(a locked or acquiring parent), or disciplines a module that tracks it: EST and DEPTH follow the parent; 16 exchanges
in a row within 4 ns lock ACQUIRING; one above 40 ns takes LOCKED back to ACQUIRING; the fourth in a row above 4 ns
raises the alarm with an error log record. A lost TIME_RESP counts, restarts adoption on the parent, and the fourth in
a row there is HOLDOVER. -/
def Obligations.TimeTransfersDisciplineTheModule : Prop :=
  ∀ (s : State) (k : Nat), s.powered = true → k < 16 →
    let x := s.port k
    let stamp (t : Nat) : Nat := s.fret % 2 ^ 44 * 2 ^ 20 + min (t % 2 ^ 20) (s.period * 16000 - 1)
    (∀ t1, (x.state ≠ .active ∨ s.slot < 32 ∨ x.timeSent = some s.markNs → exec (.timeReqSend k t1) s = .next s) ∧
      (x.state = .active → 32 ≤ s.slot → x.timeSent ≠ some s.markNs → exec (.timeReqSend k t1) s = .next
        ((s.setPort k { x with
          timeWait := some (x.timeSeq, stamp t1), timeSeq := (x.timeSeq + 1) % 256, timeSent := some s.markNs }).sendCtl k
          (.timeReq k { seq := x.timeSeq, lock := s.time.lock.code, depth := s.time.depth, t1 := stamp t1, est := s.time.est })))) ∧
    (∀ p t2 t3, exec (.timeReq k p t2 t3) s = .next (s.sendCtl k (.timeResp k
      { seq := p.seq, lock := s.time.lock.code, depth := s.time.depth, t1 := p.t1, t2 := stamp t2, t3 := stamp t3, est := s.time.est }))) ∧
    (∀ p t4, (x.timeWait = none → exec (.timeResp k p t4) s = .next s) ∧
      (∀ q t1, x.timeWait = some (q, t1) → q ≠ p.seq → exec (.timeResp k p t4) s = .next s) ∧
      (∀ t1, x.timeWait = some (p.seq, t1) →
        let there := tickDiff s.period p.t2 t1
        let back := tickDiff s.period (stamp t4) p.t3
        let e := Int.tdiv (back - there) 2
        let u := ((s.setPort k { x with timeWait := none, timeLost := 0, timeE := some e }).setReg (FAB_PORT_TIME_OFFSET k) (w64 (signed32 e))).setReg
          (FAB_PORT_TIME_DELAY k) (w64 (signed32 (Int.tdiv (back + there) 2)))
        let set (y : Time) : State := { u with time := y }
        let got (v : State) : Prop := exec (.timeResp k p t4) s = .next v
        let led := { s.time with e := e, est := p.est + e, depth := min 255 (p.depth + 1) }
        (s.fab.parent ≠ some k ∨ s.fab.settled = false → got u) ∧
        (s.fab.parent = some k → s.fab.settled = true →
          (s.time.adopt = true →
            got (set { s.time with e := e, ready := if p.lock = 1 ∨ p.lock = 2 then s.time.ready + 1 else 0 })) ∧
          (s.time.adopt = false → s.time.root = true ∨ s.time.lock = .unset ∨ s.time.lock = .holdover → got u) ∧
          (s.time.adopt = false → s.time.root = false → s.time.lock = .acquiring →
            (64 < e.natAbs → got (set { led with good := 0 })) ∧
            (e.natAbs ≤ 64 → s.time.good < 15 → got (set { led with good := s.time.good + 1 })) ∧
            (e.natAbs ≤ 64 → 15 ≤ s.time.good → got (set { led with lock := .locked, good := 0, bad := 0 }))) ∧
          (s.time.adopt = false → s.time.root = false → s.time.lock = .locked →
            (640 < e.natAbs → got (set { led with lock := .acquiring, good := 0, bad := 0 })) ∧
            (e.natAbs ≤ 64 → got (set { led with bad := 0 })) ∧
            (64 < e.natAbs → e.natAbs ≤ 640 →
              let n := s.time.bad + 1
              let v := set { led with bad := n, alarm := s.time.alarm || decide (4 ≤ n) }
              (n = 4 → got (v.log s.masterRegion stOK 5 0 0 (fld 2 0 ||| fld (timeOffset e) 32))) ∧
              (n ≠ 4 → got v)))))) ∧
    (x.timeWait = none → exec (.timeRespLost k) s = .next s) ∧
    (∀ w, x.timeWait = some w →
      let u := s.setPort k { x with timeWait := none, timeLost := x.timeLost + 1 }
      let again : State := { u with time := { s.time with ready := 0 } }
      let tracking := s.fab.settled = true ∧ s.time.root = false ∧
        (s.time.lock = .acquiring ∨ s.time.lock = .locked)
      (s.fab.parent ≠ some k → exec (.timeRespLost k) s = .next u) ∧
      (s.fab.parent = some k → x.timeLost < 3 ∨ ¬ tracking → exec (.timeRespLost k) s = .next again) ∧
      (s.fab.parent = some k → 3 ≤ x.timeLost → tracking → exec (.timeRespLost k) s = .next
        { u with time := { s.time with
          ready := 0, lock := .holdover, root := true, good := 0, bad := 0, depth := 0, est := 0, lostParent := some k } }))

/-- A fret mark counts frets as the epoch says, adoption takes the fabric's count, and slots begin. Rests on R35, R36,
R37, R38, R42, R376, R377, R378, R389. A fret mark runs the steps of Table 1.14 with the counter at 0 where no epoch
is set or one starts, and one higher where an epoch is set; the counter holds that number after it. A started epoch is
set, and local for a module alone. EPOCH_ADOPT does nothing before adoption has its 8 good exchanges; then watches that are due fire no more, fret-bound
work of an epoch held before is aborted, the time steps count, the lock is ACQUIRING and the mark's steps run with the
fabric's count, which the counter then holds. A slot start sets the slot, SCHED flits that could not leave in the last
one leave no more, and where no channel runs or stops it does no more. The reports of noted follow a mark and an adoption. -/
def Obligations.FretMarksAndSlotsPass : Prop :=
  ∀ (s : State), s.powered = true →
    (∀ m, let n := if s.time.start.isSome then 0 else if s.epochSet then s.fret + 1 else 0
      let u : State := match s.time.start with
        | some lone => { s with epochSet := true, localEpoch := lone, time := { s.time with start := none } }
        | none => s
      ∃ t, exec (.fretMark m) s = .next t ∧ t = s.noted (u.markSteps m n) ∧ t.fret = n) ∧
    (∀ count m, s.time.adopt = false ∨ s.time.ready < 8 → exec (.epochAdopt count m) s = .next (s.noted s)) ∧
    (∀ count m, s.time.adopt = true → 8 ≤ s.time.ready →
      let due := s.watchDue
      let stopped := if due.epochSet then
          let v := due.blocks.foldl (fun (v : State) x => v.blockEpochAbort x.1) due
          (v.dma.foldl (fun (w : State) x => w.dmaEpochAbort x.1.1 x.1.2) v).collEpochAbort
        else due
      let stepped := stopped.setAll FAB_TIME_STEPS (stopped.reg (FAB_TIME_STEPS 0) + 1)
      let u : State := { stepped with
        epochSet := true, localEpoch := false, ports := stopped.ports.map fun x => (x.1, { x.2 with timeE := none })
        time := { stopped.time with lock := .acquiring, root := false, adopt := false, ready := 0, good := 0, bad := 0,
                                    start := none } }
      ∃ t, exec (.epochAdopt count m) s = .next t ∧ t = s.noted (u.markSteps m count) ∧ t.fret = count) ∧
    (∀ n, exec (.slotStart n) s = .next (({ s with slot := n % 64 } : State).dropSched).serveAll ∧
      ((∀ r c, (s.coll r c).state ≠ .running ∧ (s.coll r c).state ≠ .stopping) →
        ∃ t, exec (.slotStart n) s = .next t ∧ t = { s with slot := n % 64, ports := t.ports } ∧
          ∀ k, k < 16 → t.port k = { s.port k with txq := (s.port k).txq.filter (·.vc != 7) }))

/-- A collective channel loads, starts, ends, stops and is unloaded as Table 11.8 says. Rests on R386, R387, R388, R392,
R394, R395, R398. LOAD takes EMPTY or LOADED to LOADING; its end, unless too many entries, a poisoned table or a
failing check leave EMPTY with the status and DETAIL, leaves LOADED with the entries; it goes on while a line of the table must wait. UNLOAD takes LOADED to EMPTY.
A run that has completed is neither stopped nor lost. START of a LOADED channel outside QUIESCE arms it where the time is locked, the fret neither too far nor in conflict,
not too near and the engine sound; else its status is written, a late or failed one ending a run. ABORT and an abort
notice end an armed run with ABORTED and put a running one in STOPPING, the peers being told; every other action is
logged with STATE. A run whose last step is complete ends with OK, or with the first rejected record's status and
offset; an ending one ends with its status. A silent peer, or a dead port, of a running entry puts the run in STOPPING
with PEER_LOST. An end writes the status, counts a miss for OVERRUN, notes the meter tag and signals the peg. -/
def Obligations.StrumsLoadRunAndEnd : Prop :=
  ∀ (s : State) (ag : Agent) (r c : Nat), s.powered = true → ag.wf = true → r < 4 → c < 64 →
    let x := s.coll r c
    let ended (u : State) (y : CollChan) (st : Nat) : State :=
      let u := u.setColl r c { y with
        state := .loaded, lastStatus := st, progress := [], stop := none, ending := none, bad := none, lost := none }
      let u := if st = stOVERRUN then u.bumpFld (FAB_FRET_MISS_COUNT r) 31 0 1 else u
      let u := u.noteCompletion (u.reg (FAB_COLL_CH_TAG r c)).toNat st 0
      let sig := u.reg (FAB_COLL_CH_SIGNAL r c)
      if sig.getLsbD 50 then u.signalPeg (u.collAgent r) (bits sig 15 0) (bits sig 49 48) (w64 (bits sig 47 16)) else u
    let refused : State := s.log r stSTATE 1 ag.code (FAB_COLL_CH_CTRL r c % 0x100000000) 0
    let told (d : W64) (st : Nat) (lost : Option Nat) (subject : Nat) : State :=
      (s.setColl r c { x with state := .stopping, stop := some st, detail := d, lost := lost }).sendNotices r c subject st
    let k := s.stepNow r c
    let complete := x.entries ≠ [] ∧ s.startFret r c ≤ s.fret ∧ k = State.lastStep x ∧ State.stepDone x k = true
    (x.state = .empty ∨ x.state = .loaded →
      exec (.strumLoad ag r c) s = .next (s.setColl r c { x with state := .loading, entries := [], inHw := 0 })) ∧
    (x.state ≠ .empty → x.state ≠ .loaded → exec (.strumLoad ag r c) s = .next refused) ∧
    (let n := bits (s.reg (FAB_COLL_CH_TABLE_CFG r c)) 20 0
      let addr := (s.reg (FAB_COLL_CH_TABLE_ADDR r c)).toNat
      let none_ (u : State) (st i : Nat) : State :=
        u.setColl r c { u.coll r c with state := .empty, entries := [], inHw := 0, lastStatus := st, detail := w64 i }
      (x.state ≠ .loading → exec (.strumLoadDone r c) s = .next s) ∧
      (x.state = .loading → 1048576 < n → exec (.strumLoadDone r c) s = .next (none_ s stRANGE (1048576 - s.strumEntries r))) ∧
      (x.state = .loading → n ≤ 1048576 → s.bytesReachable addr (16 * n) = false →
        exec (.strumLoadDone r c) s = .next (none_ s stRANGE 0)) ∧
      (x.state = .loading → n ≤ 1048576 → s.bytesReachable addr (16 * n) = true → s.rangeWaits addr (16 * n) false = true →
        exec (.strumLoadDone r c) s = .next s) ∧
      (∀ u bs, x.state = .loading → n ≤ 1048576 → s.bytesReachable addr (16 * n) = true → s.rangeWaits addr (16 * n) false = false →
        (∀ a, s.readBytes (s.collAgent r) addr (16 * n) = (u, bs, some a) → exec (.strumLoadDone r c) s =
          .next (none_ (u.log r stPOISON 2 (u.collAgent r).code (a / 8 * 8) 0) stPOISON ((a - (u.reg (FAB_COLL_CH_TABLE_ADDR r c)).toNat) / 16))) ∧
        (s.readBytes (s.collAgent r) addr (16 * n) = (u, bs, none) →
          let es := (List.range n).map fun i => StrumEntry.decode ((bs.drop (16 * i)).take 16)
          (∀ st i, u.loadResult r c es = (st, i) → st ≠ stOK → exec (.strumLoadDone r c) s = .next (none_ u st i)) ∧
          (∀ i, u.loadResult r c es = (stOK, i) → exec (.strumLoadDone r c) s = .next (u.setColl r c
            { u.coll r c with state := .loaded, entries := es.map (·.1), inHw := min n (u.tableRoom r), lastStatus := stOK, detail := 0 }))))) ∧
    (x.state = .loaded → exec (.strumUnload ag r c) s = .next (s.setColl r c { x with state := .empty, entries := [], inHw := 0 })) ∧
    (x.state ≠ .loaded → exec (.strumUnload ag r c) s = .next refused) ∧
    (x.state ≠ .loaded ∨ s.mgmt.state = .quiesce → exec (.strumStart ag r c) s = .next refused) ∧
    (x.state = .loaded → s.mgmt.state ≠ .quiesce →
      let f := s.startFret r c
      let far := s.fret + 2 ^ 31 < f ∨ s.startConflict r c = true
      (s.time.lock ≠ .locked → exec (.strumStart ag r c) s = .next (s.setColl r c { x with lastStatus := stSTATE, detail := 0 })) ∧
      (s.time.lock = .locked → far → exec (.strumStart ag r c) s = .next (s.setColl r c { x with lastStatus := stRANGE, detail := 0 })) ∧
      (s.time.lock = .locked → ¬ far → f ≤ s.fret + 1 →
        exec (.strumStart ag r c) s = .next (ended s { x with detail := 0, stepsDone := 0 } stOVERRUN)) ∧
      (s.time.lock = .locked → ¬ far → s.fret + 1 < f →
        (s.kiln.collFailed.contains r = true →
          exec (.strumStart ag r c) s = .next (ended s { x with detail := 0, stepsDone := 0 } stSELFTEST)) ∧
        (s.kiln.collFailed.contains r = false → exec (.strumStart ag r c) s = .next (s.setColl r c
          { x with state := .armed, progress := [], stepsDone := 0, detail := 0, bad := none, stop := none, ending := none, lost := none })))) ∧
    (let d := fld s.moduleId 0 ||| fld stABORTED 16;
      (x.state = .armed → exec (.strumAbort ag r c) s =
        .next (ended (s.sendNotices r c s.moduleId stABORTED) { x with detail := d, stepsDone := 0 } stABORTED)) ∧
      (x.state = .running → x.ending ≠ none ∨ complete → exec (.strumAbort ag r c) s = .next s) ∧
      (x.state = .running → x.ending = none → ¬ complete → exec (.strumAbort ag r c) s = .next (told d stABORTED x.lost s.moduleId)) ∧
      (x.state = .empty ∨ x.state = .loading ∨ x.state = .loaded ∨ x.state = .stopping →
        exec (.strumAbort ag r c) s = .next refused)) ∧
    (∀ v, let mine := s.colls.filter fun y => s.strumId y.1.1 y.1.2 == bits v 15 0
      let d := fld (bits v 31 16) 0 ||| fld (bits v 39 32) 16
      (mine = [] → exec (.fabCollAbort ag v) s = .next s) ∧
      (mine = [((r, c), x)] →
        (x.state = .armed → exec (.fabCollAbort ag v) s = .next (ended s { x with detail := d, stepsDone := 0 } stABORTED)) ∧
        (x.state = .running → x.ending = none → ¬ complete → exec (.fabCollAbort ag v) s = .next
          ((s.setColl r c { x with state := .stopping, stop := some stABORTED, detail := d }).sendNotices r c (bits v 31 16) (bits v 39 32))))) ∧
    ((x.state = .running → x.ending = none →
        (¬ complete → exec (.strumRunEnd r c) s = .next s) ∧
        (complete → x.bad = none → exec (.strumRunEnd r c) s = .next (ended s { x with detail := 0, stepsDone := k + 1 } stOK)) ∧
        (∀ st off, complete → x.bad = some (st, off) →
          exec (.strumRunEnd r c) s = .next (ended s { x with detail := w64 off, stepsDone := k + 1 } st))) ∧
      (∀ st, x.state = .running ∨ x.state = .stopping → x.ending = some st → exec (.strumRunEnd r c) s = .next (ended s x st)) ∧
      (x.state = .stopping → x.ending = none → exec (.strumRunEnd r c) s = .next s)) ∧
    (∀ i e, x.entries[i]? = some e →
      let p := State.entryProgress x i
      let dead := ((if e.op = 5 then [] else [e.port]) ++ if e.op = 4 then [e.port2] else []).find? fun q => (s.port q).state != .active
      let lost (m : Nat) : State := told (fld m 0 ||| fld e.step 16 ||| fld e.slot 32) stPEER_LOST (some m) m
      let silent := e.receives = true ∧ 0 < e.len ∧ e.step = s.stepNow r c ∧ s.startFret r c ≤ s.fret ∧ p.got = [] ∧ p.waiting = [] ∧ e.slot < s.slot
      (x.state ≠ .running ∨ x.ending ≠ none ∨ complete → exec (.peerSilent r c i) s = .next s) ∧
      (x.state = .running → x.ending = none → ¬ complete →
        (∀ q, dead = some q → exec (.peerSilent r c i) s = .next
          (lost (if e.receives = true ∧ q = e.port then e.peer else (s.port q).peerModule))) ∧
        (dead = none → silent → exec (.peerSilent r c i) s = .next (lost e.peer)) ∧
        (dead = none → ¬ silent → exec (.peerSilent r c i) s = .next s)))

/-- A SCHED flit reaches its entry once, waits or acts, and is counted where it is not taken. Rests on R384, R385. A SCHED
flit that matches no receive entry of a running or stopping channel (port, slot, peer, length, STRUM_ID and fret),
repeats a flit, or lies past the entry's end is discarded and counted in SCHED_DISCARD of the port's region. One that
cannot act yet and finds 512 flits waiting on its port is counted in RX_OVERFLOW. Any other is taken: it is received
and waits in the entry, and then what can act does, first the entry and then the channel, unless the entry involves the
lost peer of its run. -/
def Obligations.SchedFlitsMeetTheirEntries : Prop :=
  ∀ (s : State) (k : Nat) (f : SchedFlit), s.powered = true → k < 16 →
    (s.matchFlit k f = none → exec (.schedFlit k f) s = .next (s.bump (FAB_COLL_SCHED_DISCARD (k / 4)) 1)) ∧
    (∀ r c i e, s.matchFlit k f = some (r, c, i, e) →
      let x := s.coll r c
      let p := State.entryProgress x i
      let now := s.startFret r c + e.step ≤ s.fret ∧
        (if e.op = 4 then s.slot = e.slot + 1 else State.mayRun x e = true)
      (f.index ∈ p.got ∨ e.flits ≤ f.index → exec (.schedFlit k f) s = .next (s.bump (FAB_COLL_SCHED_DISCARD (k / 4)) 1)) ∧
      (f.index ∉ p.got → f.index < e.flits →
        (¬ now → 512 ≤ s.bufferedOn k → exec (.schedFlit k f) s = .next (s.bump (FAB_COLL_RX_OVERFLOW (k / 4)) 1)) ∧
        (now ∨ s.bufferedOn k < 512 →
          let y : CollChan := { x with progress := x.progress.set i { p with got := p.got ++ [f.index], waiting := p.waiting ++ [f] } }
          let u := s.setColl r c y
          exec (.schedFlit k f) s = .next (if s.involved y e = true then u else (u.serveReceive r c i e).serveChannel r c))))

/-! ### Host ports -/

/-- Host links, functions, ownership and losses change a host port as Tables 12.4 and 12.8 say. Rests on R403, R408, R412,
R413, R418, R419, R420, R421, R422, R423. A link coming up with a rate and width
that the port can train takes a DOWN endpoint to UP, or puts a root port's sub-port in L0 with what hangs below it still unreachable; ENABLE makes it reachable; a root port's link going down empties the
sub-port, is logged with cause 6, and discards the writes outstanding to the expander below it; a recovery counts. Memory Space Enable of the PF moves UP to ENABLED and back. A
configuration write of a function that exists, in UP or ENABLED, changes Bus Master Enable, a BAR2 size of 1 GiB to 4
TiB, and Memory Space Enable. A slide that is no multiple of the BAR2 size or runs past the top is logged with RANGE (no earlier inbound request waits here).
Ownership words are written by the module's cores alone, and not where a changed resource is owned by another function
or busy. A host loss of an endpoint in UP or ENABLED, or of one of its VFs, is logged and carries out R421 for the
functions it covers; its end releases the owned blocks that have written what they owe
and, once none is left in RESET and the owned DMA channels have aborted, leaves UP for a PF reset with the link in L0, else DOWN, and signals HOST_EVENT_PEG.
Causes 6 and 7 take their STATUS from Config (log 14). -/
def Obligations.HostPortsFollowTheirStates : Prop :=
  ∀ (s : State) (r : Nat), s.powered = true → r < 4 →
    let h := s.hostPort r
    let sub (k : Nat) : SubPort := h.subs.get {} k
    let fn (f : Nat) : HostFn := h.fns.get { bar2Log2 := h.bar2Log2 } f
    let into (k : Nat) (y : SubPort) : HostPort := { h with subs := h.subs.set k y }
    let l0 (k : Nat) (l : HostLink) (cap : Nat) : HostPort :=
      into k { sub k with link := 2, speed := l.speed, width := l.width, cxl := l.cxl, present := true, capacity := cap }
    -- one of six rates, no wider than its share of the 16 lanes, and CXL at 32 or 64 GT/s, to an endpoint only where Type 2 is enabled
    let fits (l : HostLink) := (1 ≤ l.speed ∧ l.speed ≤ 6 ∧ 1 ≤ l.width ∧ l.width * 2 ^ h.bifurc ≤ 16) ∧
      (l.cxl = true → 5 ≤ l.speed ∧ (h.endpoint = true → h.cxlT2 = true))
    (∀ l, (h.endpoint = true → h.ep = .down → fits l → exec (.hostLinkUp r l) s = .next (s.setHost r { l0 0 l 0 with ep := .up })) ∧
      (h.endpoint = false ∨ h.ep ≠ .down ∨ ¬ fits l → exec (.hostLinkUp r l) s = .next s)) ∧
    (∀ k, k < 4 →
      let empty := { sub k with link := 0, speed := 0, width := 0, cxl := false, present := false, reachable := false }
      let below (q : OutReq) : Bool := q.dest == .t4 r &&
        (match placeRaw q.addr with | .t4 _ off => t4Decode h.subs off == some k | _ => false)
      let down := ((s.setHost r (into k empty)).hostLogAdd r (Config.hostLogStatus 6) 6 k 0 0).discardWhere stPEER_LOST below
      (∀ l, (h.endpoint = false → k < 2 ^ h.bifurc → fits l → exec (.rootPortLinkUp r k l) s = .next (s.setHost r (l0 k l l.capacity))) ∧
        (h.endpoint = true ∨ 2 ^ h.bifurc ≤ k ∨ ¬ fits l → exec (.rootPortLinkUp r k l) s = .next s)) ∧
      (h.endpoint = false → (sub k).link ≠ 0 →
        exec (.rootPortLinkDown r k) s = .next down ∧ exec (.hostLinkDown r k) s = .next down) ∧
      (h.endpoint = false → (sub k).link = 0 → exec (.rootPortLinkDown r k) s = .next s ∧ exec (.hostLinkDown r k) s = .next s) ∧
      (h.endpoint = true → exec (.rootPortLinkDown r k) s = .next s ∧
        exec (.hostLinkDown r k) s = .next (s.noted (s.hostLoss r .linkDown State.closeOwner))) ∧
      (∀ ag v, ag.wf = true →
        (v.getLsbD 0 = true → h.endpoint = false → (sub k).link = 2 → exec (.hostRpCtrlEnable ag r k v) s =
          .next (s.setHost r (into k { sub k with reachable := true }))) ∧
        (v.getLsbD 0 = false ∨ h.endpoint = true ∨ (sub k).link ≠ 2 → exec (.hostRpCtrlEnable ag r k v) s = .next s)) ∧
      (∀ id, exec (.deviceAerError r k id) s =
        .next (if h.endpoint then s else s.hostLogAdd r (Config.hostLogStatus 7) 7 k id 0)) ∧
      exec (.hostLinkRecovery r k) s = .next (if (sub k).link = 0 then s else s.setHost r
        (into k { sub k with link := 2, recoveries := min 0xFFFFFFFF ((sub k).recoveries + 1) }))) ∧
    (h.endpoint = true → h.ep = .up → exec (.memorySpaceEnableSet r) s =
      .next (s.setHost r { h with fns := h.fns.set 0 { fn 0 with memEnable := true }, ep := .enabled })) ∧
    (h.endpoint = false ∨ h.ep ≠ .up → exec (.memorySpaceEnableSet r) s = .next s) ∧
    (h.endpoint = true → h.ep = .enabled → exec (.memorySpaceEnableClear r) s =
      .next (s.setHost r { h with fns := h.fns.set 0 { fn 0 with memEnable := false }, ep := .up })) ∧
    (h.endpoint = false ∨ h.ep ≠ .enabled → exec (.memorySpaceEnableClear r) s = .next s) ∧
    (∀ f, f < 9 →
      let exists_ := h.endpoint = true ∧ f ≤ h.totalVfs ∧ (h.ep = .up ∨ h.ep = .enabled)
      let into (y : HostFn) : State := s.setHost r { h with fns := h.fns.set f y }
      (∀ bm me size, ¬ exists_ → exec (.configurationWrite r f bm me size) s = .next s) ∧
      (exists_ →
        (∀ b, exec (.configurationWrite r f (some b) none none) s = .next (into { fn f with busMaster := b })) ∧
        (∀ n, exec (.configurationWrite r f none none (some n)) s =
          .next (if 30 ≤ n ∧ n ≤ 42 then into { fn f with bar2Log2 := n } else s)) ∧
        (∀ b, f ≠ 0 → exec (.configurationWrite r f none (some b) none) s = .next (into { fn f with memEnable := b })) ∧
        (∀ b, f = 0 → exec (.configurationWrite r f none (some b) none) s =
          exec (if b then .memorySpaceEnableSet r else .memorySpaceEnableClear r) s) ∧
        (∀ b n c, f ≠ 0 → 30 ≤ n → n ≤ 42 → exec (.configurationWrite r f (some b) (some c) (some n)) s =
          .next (into { fn f with busMaster := b, bar2Log2 := n, memEnable := c }))) ∧
      (∀ v, s.hostIn = [] → (s.barOpen r f = false → exec (.hostFnBar2SlideWrite r f v) s = .next { s with hostIn := [] }) ∧
        (s.barOpen r f = true →
          let bad := v.toNat % 2 ^ (s.hostFunction r f).bar2Log2 ≠ 0 ∨ 0x40000000000 < v.toNat + 2 ^ (s.hostFunction r f).bar2Log2
          (bad → exec (.hostFnBar2SlideWrite r f v) s = .next { s.hostLogAdd r stRANGE 3 f 0 0x008 with hostIn := [] }) ∧
          (¬ bad → exec (.hostFnBar2SlideWrite r f v) s = .next { into { fn f with slide := v } with hostIn := [] }))) ∧
      (∀ ag w v, ag.wf = true → w < 12 →
        let g := State.ownReg r f w
        let busy := ∃ i, i < 64 ∧ (v ^^^ s.reg g).getLsbD i = true ∧ (s.ownedByOther r f w i = true ∨ s.resourceIdle r w i = false)
        (ag.kind = .external → exec (.hostOwnershipWrite ag r f w v) s = .next (s.hostLogAdd r stRANGE 4 f 0 (g % 0x100000000))) ∧
        (ag.kind ≠ .external → ag.own = false ∨ ag.kind ≠ .core →
          exec (.hostOwnershipWrite ag r f w v) s = .next (s.log r stRANGE 1 ag.code (g % 0x100000000) 0)) ∧
        (ag.own = true → ag.kind = .core →
          (w = 2 → exec (.hostOwnershipWrite ag r f w v) s = .next (s.setReg g (v &&& 0x1FFFFFFFF))) ∧
          (w = 3 → exec (.hostOwnershipWrite ag r f w v) s = .next (s.setReg g (v &&& 0xFFFFFFFF))) ∧
          (w ≠ 2 → w ≠ 3 → busy → exec (.hostOwnershipWrite ag r f w v) s = .next (s.log r stSTATE 1 ag.code (g % 0x100000000) 0)) ∧
          (w ≠ 2 → w ≠ 3 → ¬ busy → exec (.hostOwnershipWrite ag r f w v) s = .next (s.setReg g v))))) ∧
    (∀ cause, let lost (u : State) (f : Nat) : State := (u.fnLost r f).closeOwner f
      let on := h.ep = .up ∨ h.ep = .enabled
      (h.endpoint = false ∨ ¬ on → exec (.hostLoss r cause) s = .next (s.noted s)) ∧
      (∀ f, h.endpoint = true → cause = .vfFlr f →
        let vf := on ∧ 1 ≤ f ∧ f ≤ h.totalVfs
        (vf → exec (.hostLoss r cause) s = .next (s.noted (lost (s.hostLogAdd r stHOST_LOST 5 f 0 0) f))) ∧
        (¬ vf → exec (.hostLoss r cause) s = .next (s.noted s))) ∧
      (h.endpoint = true → on → (∀ f, cause ≠ .vfFlr f) →
        let u := s.setHost r { h with
          ep := .resetting, lossCause := State.lossCode cause, lossCount := min 0xFFFF (h.lossCount + 1), lossFret := s.fret
          subs := if cause = .pfFlr then h.subs else h.subs.set 0 { recoveries := (sub 0).recoveries } }
        exec (.hostLoss r cause) s = .next (s.noted ((List.range (h.totalVfs + 1)).foldl lost (u.hostLogAdd r stHOST_LOST 5 0 0 0))))) ∧
    (∀ inL0, let t := (List.range 9).foldl (fun u f => (u.ownedBlocks r f).foldl (fun u b => u.blockOut b) u) s
      (h.ep ≠ .resetting → exec (.hostLossDone r inL0) s = .next s) ∧
      (h.ep = .resetting → t.lossSettled r = false → exec (.hostLossDone r inL0) s = .next t) ∧
      (h.ep = .resetting → t.lossSettled r = true →
        let h := t.hostPort r
        let u := if h.lossCause = 4 ∧ inL0 = true then t.setHost r { h with ep := .up }
          else t.setHost r { h with ep := .down, subs := h.subs.set 0 { recoveries := (h.subs.get {} 0).recoveries } }
        let p := u.reg (HOST_EVENT_PEG r)
        exec (.hostLossDone r inL0) s = .next (if p.getLsbD 18 then
          u.signalPeg (engineAgent s.moduleId r 3) (bits p 15 0) (bits p 17 16) 1 else u)))

/-- BAR0 and BAR2 requests reach what their function owns, and the rest is refused. Rests on R404, R405, R406, R407, R408,
R409, R410, R415, R422, R8. A function whose BARs are not open answers a read, or an atomic, with Unsupported Request
and discards a write. In BAR0 an aligned 8-byte access reaches the function page, an arm window, a DMA or collective
channel page that the function owns (its PASID and windows are read-only), and the pegs granted to it; what it does
not own reads zero or is discarded, at any size, with a host error log record of cause 4; a wrong size in peg space is refused with
cause 3; a 4-byte doorbell write acts as an 8-byte one; another access of registers is logged with ALIGN. A peg atomic
adds or sets VALUE and returns the old one; a CAS of VALUE is discarded and logged at the peg's home with RANGE and
cause 6, as is an 8-byte atomic on the CAS view; every other atomic is refused with a host error log record of cause 3. BAR2 reads, writes and atomics inside the
BAR reach memory at the slide plus the offset as the home serves them, and wait while the home cannot take the line; what is not the function's memory is logged
with RANGE and cause 3 and aborted or refused; a poisoned write leaves its words poisoned (no earlier inbound request waits here). -/
def Obligations.HostsReachTheirFunctions : Prop :=
  ∀ (s : State) (r f off : Nat), s.powered = true → r < 4 → f < 9 → s.hostIn = [] →
    let ans (u : State) : Host.Outcome State Fault Refusal := .next { u with hostIn := [] }
    let done (u : State) (c : Cpl) (ep : Bool) (data : List Byte) : State := u.emit (.completion r f c ep data)
    let logged (cause : Nat) (a : Nat) : State := s.hostLogAdd r stRANGE cause f 0 a
    let ag : Agent := { kind := .external, index := f, region := r, module := s.moduleId }
    let zeros (n : Nat) : List Byte := List.replicate n 0
    let value (u : State) (x : W64) : State := done u .success false (leBytes 8 x.toNat)
    let n := (off - 0x400000) / 64
    (∀ size, 0 < size → size ≤ 4096 →
      let rd := exec (.hostBar0Access r f off size none) s
      let wr (v : W64) := exec (.hostBar0Access r f off size (some v)) s
      let unowned := rd = ans (done (logged 4 off) .success false (zeros size)) ∧ ∀ v, wr v = ans (logged 4 off)
      (s.barOpen r f = false → rd = ans (done s .unsupported false []) ∧ ∀ v, wr v = ans s) ∧
      (s.barOpen r f = true →
        let dma := 0x100000 ≤ off ∧ off < 0x140000
        let coll := 0x200000 ≤ off ∧ off < 0x240000
        let foreign := (dma ∧ s.ownerOf r 0 ((off - 0x100000) / 0x1000) ≠ some f) ∨ (coll ∧ s.ownerOf r 1 ((off - 0x200000) / 0x1000) ≠ some f)
        (foreign → unowned) ∧
        (0x400000 ≤ off → s.pegGranted r f n = false → unowned) ∧
        (0x400000 ≤ off → s.pegGranted r f n = true →
          (size ≠ 8 ∨ off % 8 ≠ 0 → rd = ans (done (logged 3 off) .unsupported false []) ∧ ∀ v, wr v = ans (logged 3 off)) ∧
          (size = 8 → off % 8 = 0 → (∀ v, wr v = ans (s.pegStore ag n (off % 64) v)) ∧
            (s.regionLive (pegHome n) = false → rd = ans (done s .success true (zeros 8))) ∧
            (∀ u x bad, s.regionLive (pegHome n) = true → s.pegLoad ag n (off % 64) = (u, x, bad) → rd = ans (value u x)))) ∧
        (size = 8 → off % 8 = 0 →
          (off < 0x1000 → rd = ans (value s (s.bar0FnRead r f off)) ∧ ∀ v, wr v = ans (s.bar0FnWrite r f off v)) ∧
          (0x1000 ≤ off → off < 0x1040 → (∀ v, wr v = ans (s.armStore (State.fnQueue r f) ag.code (off % 64) v)) ∧
            ∀ u x, s.armLoad (State.fnQueue r f) (off % 64) = (u, x) → rd = ans (value u x)) ∧
          (dma → let c := (off - 0x100000) / 0x1000
            let w := off % 0x1000
            (s.ownerOf r 0 c = some f → rd = ans (value s (s.readDmaChan r c w)) ∧
              ∀ v, wr v = ans (if w = 0x018 ∨ w = 0x020 ∨ w = 0x028 then logged 4 off else s.noted (s.writeDmaChan ag r c w v)))) ∧
          (coll → let c := (off - 0x200000) / 0x1000
            let w := off % 0x1000
            (s.ownerOf r 1 c = some f → rd = ans (value s (s.readCollChan r c w)) ∧
              ∀ v, wr v = ans (s.noted (s.writeCollChan ag r c w v))))) ∧
        (size = 4 → dma → off % 0x1000 = 0x030 → ¬ foreign →
          ∀ v, wr v = exec (.hostBar0Access r f off 8 (some (v &&& 0xFFFFFFFF))) s) ∧
        (off < 0x400000 → 0x1040 ≤ off → ¬ dma → ¬ coll →
          rd = ans (done s .success false (zeros size)) ∧ ∀ v, wr v = ans s) ∧
        (off < 0x1040 ∨ dma ∨ coll → ¬ foreign → size ≠ 8 ∨ off % 8 ≠ 0 →
          let u := s.log r stALIGN 1 ag.code off 0
          rd = ans (done u .success false (zeros size)) ∧
          (¬ (size = 4 ∧ dma ∧ off % 0x1000 = 0x030) → ∀ v, wr v = ans u)))) ∧
    (∀ size op v, 0 < size → size ≤ 4096 →
      let go := exec (.hostPegAtomic r f off size op v) s
      let lost := s.log (pegHome n) stRANGE 6 ag.code (pegAddr n (off % 64)) 0
      let refused := done ((if size = 8 ∧ off % 64 = 0x30 then lost else s).hostLogAdd r stRANGE 3 f 0 off) .unsupported false []
      let old := leBytes 8 (s.peg n).value.toNat
      (s.barOpen r f = false ∨ off < 0x400000 → go = ans (done s .unsupported false [])) ∧
      (s.barOpen r f = true → 0x400000 ≤ off →
        (s.pegGranted r f n = false → go = ans (done (logged 4 off) .success false (zeros size))) ∧
        (s.pegGranted r f n = true →
          (∀ c, op = .cas c → go = ans (if size = 8 ∧ off % 64 = 0 then done lost .unsupported false [] else refused)) ∧
          (∀ o, op = .amo o → go = ans refused) ∧
          (op = .fetchAdd ∨ op = .swap →
            (size ≠ 8 ∨ off % 64 ≠ 0 → go = ans refused) ∧
            (size = 8 → off % 64 = 0 →
              (s.regionLive (pegHome n) = false → go = ans (done s .success true (zeros 8))) ∧
              (s.regionLive (pegHome n) = true →
                (op = .fetchAdd → go = ans (done (s.pegAdd ag n v) .success false old)) ∧
                (op = .swap → go = ans (done (s.pegSet ag n v) .success false old)))))))) ∧
    (let a := s.bar2Addr r f off
      let open_ (len : Nat) := s.barOpen r f = true ∧ off + len ≤ 2 ^ (s.hostFunction r f).bar2Log2
      (∀ len, len ≤ 4096 → let go := exec (.hostBar2Read r f off len) s
        (¬ open_ len → go = ans (done s .unsupported false [])) ∧
        (open_ len → s.bar2Refused f a len = true → go = ans (done (logged 3 a) .abort false [])) ∧
        (∀ u st bs, open_ len → s.bar2Refused f a len = false → s.serveRead ag a len = .reply u st bs →
          go = ans (done u .success (st == stPOISON) bs)) ∧
        (open_ len → s.bar2Refused f a len = false → s.serveRead ag a len = .wait →
          go = .next { s with hostIn := [.hostBar2Read r f off len] })) ∧
      (∀ data ep ro, data.length ≤ 512 → let go := exec (.hostBar2Write r f off data ⟨ep, ro⟩) s
        (¬ open_ data.length → go = ans s) ∧
        (open_ data.length → s.bar2Refused f a data.length = true → go = ans (logged 3 a)) ∧
        (∀ u st bs, open_ data.length → s.bar2Refused f a data.length = false → s.serveWrite ag a data none = .reply u st bs →
          go = ans (if ep = true ∧ st = stOK then u.poisonWords a data.length else u)) ∧
        (open_ data.length → s.bar2Refused f a data.length = false → s.serveWrite ag a data none = .wait →
          go = .next { s with hostIn := [.hostBar2Write r f off data ⟨ep, ro⟩] })) ∧
      (∀ size op v, 0 < size → size ≤ 4096 → let go := exec (.hostBar2Atomic r f off size op v) s
        let listed := (size = 4 ∨ size = 8) ∧ ∀ o, op ≠ .amo o
        (¬ open_ size → go = ans (done s .unsupported false [])) ∧
        (open_ size → ¬ listed ∨ a % size ≠ 0 → go = ans (done (logged 3 a) .unsupported false [])) ∧
        (open_ size → listed → a % size = 0 → s.bar2Refused f a size = true → go = ans (done (logged 3 a) .abort false [])) ∧
        (open_ size → listed → a % size = 0 → s.bar2Refused f a size = false → s.serveAtomic ag a size op v.toNat = .wait →
          go = .next { s with hostIn := [.hostBar2Atomic r f off size op v] }) ∧
        (∀ u st bs, open_ size → listed → a % size = 0 → s.bar2Refused f a size = false →
          s.serveAtomic ag a size op v.toNat = .reply u st bs → go = ans (done u .success (st != stOK) bs))))

/-- A device below a root port reaches translated memory and pegs, and a link partner's completion ends its request. Rests
on R263, R264, R413, R416, R417, R419, R425. A device's request counts only below a root port's sub-port in L0. A storage device outside its bounce window (Standalone) is refused with RANGE and cause 8; a request whose page walk reads held memory waits;
a read of no bytes stands for an ATS translation request and is answered with the page and its permissions (model's choice, log
180); an address that
does not translate with XLATE and cause 3; memory is read and written as the home serves it,
a write to T4 with its write to the expander outstanding; an aligned 8-byte access
reaches a peg; anything else is refused with RANGE and cause 3. A refusal is logged, and answers a read with
Unsupported Request. (No earlier inbound request waits here; one whose line the home cannot take waits itself.) A completion
of the link partner, or of an expander for a write to T4, ends the outstanding request with its tag: a waiting hart load retires
with the data, a channel's or engine's data waits for it, a posted write ends. -/
def Obligations.DevicesReachTheModule : Prop :=
  ∀ (s : State), s.powered = true →
    (∀ (r k id pasid a : Nat) (storage : Bool) (n : Nat) (write : Option (List Byte)) (ro : Bool), s.hostIn = [] → r < 4 → k < 4 → n ≤ 4096 →
      (∀ bs, write = some bs → bs.length ≤ 512) →
      let ans (u : State) : Host.Outcome State Fault Refusal := .next { u with hostIn := [] }
      let go := exec (.deviceInboundRequest r k id pasid a storage n (write.map fun d => ⟨d, ro⟩)) s
      let x := (s.hostPort r).subs.get {} k
      let len := match write with | some bs => bs.length | none => n
      let ag : Agent := { kind := .external, index := k, region := r, module := s.moduleId }
      let done (u : State) (c : Cpl) (ep : Bool) (data : List Byte) : State := u.emit (.completion r k c ep data)
      let refused (status cause : Nat) : State :=
        let u := s.hostLogAdd r status cause k id a
        if write.isSome then u else done u .unsupported false []
      let linked := (s.hostPort r).endpoint = false ∧ x.link = 2
      let waits := go = .next { s with hostIn := [.deviceInboundRequest r k id pasid a storage n (write.map fun d => ⟨d, ro⟩)] }
      -- the page's address with its R and W bits, or zeros
      let page : Nat := match s.translate pasid a false with
        | some (pa, _) => pa / 4096 * 4096 + 1 + if (s.translate pasid a true).isSome then 2 else 0
        | none => 0
      let outside := storage = true ∧ s.mgmt.image.attached = false ∧
        (a < (s.reg (HOST_RP_BOUNCE_LO r k)).toNat ∨ (s.reg (HOST_RP_BOUNCE_HI r k)).toNat < a + len - 1)
      (¬ linked → go = ans s) ∧
      (linked → outside → go = ans (refused stRANGE 8)) ∧
      (linked → ¬ outside → s.translateHeld pasid a = true → waits) ∧
      (linked → ¬ outside → s.translateHeld pasid a = false → write = none → n = 0 → go = ans (done s .success false (leBytes 8 page))) ∧
      (linked → ¬ outside → s.translateHeld pasid a = false → (write = none → n ≠ 0) →
        (s.translate pasid a write.isSome = none → go = ans (refused stXLATE 3)) ∧
        (∀ pa mt, s.translate pasid a write.isSome = some (pa, mt) →
          (∀ rr off m b, s.reach pa = .own (.hbm rr off) m b ∨ s.reach pa = .own (.lpd rr off) m b ∨ s.reach pa = .own (.t4 rr off) m b →
            (∀ bs u st d, write = some bs → s.serveWrite ag m bs none = .reply u st d →
              go = ans (if st = stOK then u.t4Write (.watch r) m bs none 0 else u)) ∧
            (∀ u st d, write = none → s.serveRead ag m n = .reply u st d → go = ans (done u .success (st == stPOISON) d)) ∧
            ((∀ bs, write = some bs → s.serveWrite ag m bs none = .wait) → (write = none → s.serveRead ag m n = .wait) → waits)) ∧
          (∀ p off m b, s.reach pa = .own (.peg p off) m b →
            (off % 8 ≠ 0 ∨ len ≠ 8 → go = ans (refused stRANGE 3)) ∧
            (off % 8 = 0 → len = 8 →
              (∀ bs, write = some bs → go = ans (s.pegStore ag p off (w64 (leNat bs)))) ∧
              (write = none → s.regionLive (pegHome p) = false → go = ans (done s .success true (List.replicate 8 0))) ∧
              (∀ u v bad, write = none → s.regionLive (pegHome p) = true → s.pegLoad ag p off = (u, v, bad) →
                go = ans (done u .success false (leBytes 8 v.toNat))))) ∧
          (∀ m b, s.reach pa = .own .reserved m b → go = ans (refused stRANGE 3)) ∧
          (∀ c o m b, s.reach pa = .own (.store c o) m b → go = ans (refused stRANGE 3)) ∧
          (∀ g m b, s.reach pa = .own (.mmio g) m b → go = ans (refused stRANGE 3)) ∧
          (∀ c o m b, s.reach pa = .own (.t5 c o) m b → go = ans (refused stRANGE 3)) ∧
          (∀ m o, s.reach pa = .remote m o → go = ans (refused stRANGE 3)) ∧
          (s.reach pa = .badAperture → go = ans (refused stRANGE 3))))) ∧
    (∀ (tag st : Nat) (data : List Byte),
      let go := exec (.hostOutboundCompletion tag st data) s
      ((s.out.find? fun q => q.tag == tag) = none → go = .next s) ∧
      (∀ q m, (s.out.find? fun q => q.tag == tag) = some q → q.dest = .module m → go = .next s) ∧
      (∀ q p, (s.out.find? fun q => q.tag == tag) = some q → q.dest = .host p ∨ q.dest = .t4 p →
        let u : State := { s with out := s.out.erase q }
        (∀ h, q.origin = .hart h → q.posted = true → (∀ x y, (s.hart h).wait ≠ .trap x y) → go = .next u.releaseOrdered) ∧
        (∀ h, q.origin = .hart h → q.posted = false → (s.hart h).wait = .answer q.tag → s.seqStopped h = false → st = stOK →
          go = .next (u.retireWith h (State.extend q.signed q.len (leNat data))).releaseOrdered) ∧
        (q.posted = false →
          let kept : State := { u with answers := s.answers ++ [{ origin := q.origin, tag := q.tag, status := st, data := data }] }
          (∀ b seq, q.origin = .gs b seq → go = .next kept.releaseOrdered) ∧
          (∀ r e seq off, q.origin = .dma r e seq off → go = .next (kept.dmaArrived r e off).releaseOrdered)) ∧
        (∀ src t meter, q.origin = .fabric src t meter →
          go = .next (u.respond src t meter (State.responseOp q.op) st data).releaseOrdered)))

/-! ### The kiln -/

/-- OPEN, CLOSE and QUERY of a meter tag. Rests on R433, R435, R436, R450, R492, R507, R13. TAG_OPEN through region r's
registers sets STATUS to the lowest code that applies of STATE (the tag is not FREE, or the module quiesces), RANGE
(tag 0 or a reserved field), LEDGER_FULL, TAG_LIMIT and SELFTEST; where none applies STATUS is OK and the tag is OPEN
at that home with the owner, partition and job of ARG0 and ARG1 and START_FRET the present fret. TAG_CLOSE of an OPEN
tag of that home makes it CLOSING with END_FRET the present fret and queues its record; of any other it answers STATE.
TAG_QUERY answers 0, 1 or 2. Nothing but KILN_TAG_STATUS and the kiln changes. -/
def Obligations.MeterTagCommands : Prop :=
  (∀ (s : State) (ag : Agent) (r : Nat), s.powered = true → (Instr.tagOpen ag r).wf = true →
    let a := s.reg (KILN_TAG_ARG0 r)
    let tag := bits a 31 0
    let state := (s.kiln.tags.find tag).isSome = true ∨ s.mgmt.state = .quiesce
    let range := tag = 0 ∨ a.getLsbD 35 = true ∨ bits a 63 40 ≠ 0
    let full := s.ledgerFree < 2 * (s.kiln.tags.length + 1) + 65536
    let limit := 4096 ≤ s.kiln.tags.length
    let failed := r ∈ s.kiln.failed
    ∃ t, exec (.tagOpen ag r) s = .next t ∧ t = { s with kiln := t.kiln, regs := t.regs } ∧
      (∀ g, g ≠ KILN_TAG_STATUS r → t.reg g = s.reg g) ∧
      (¬state → ¬range → ¬full → ¬limit → ¬failed →
        t.reg (KILN_TAG_STATUS r) = setBits (s.reg (KILN_TAG_STATUS r)) 7 0 stOK ∧
        ∃ x, t.kiln = { s.kiln with tags := s.kiln.tags.set tag x } ∧ x.home = r ∧ x.closing = false ∧
          x.owner = bits a 39 36 ∧ x.part = bits a 34 32 ∧ x.job = s.reg (KILN_TAG_ARG1 r) ∧ x.start = s.fret ∧
          x.acc = [0, 0, 0, 0, 0, 0, 0, 0]) ∧
      (state → t.kiln = s.kiln ∧ t.reg (KILN_TAG_STATUS r) = setBits (s.reg (KILN_TAG_STATUS r)) 7 0 stSTATE) ∧
      (¬state → range → t.kiln = s.kiln ∧ t.reg (KILN_TAG_STATUS r) = setBits (s.reg (KILN_TAG_STATUS r)) 7 0 stRANGE) ∧
      (¬state → ¬range → full →
        t.kiln = s.kiln ∧ t.reg (KILN_TAG_STATUS r) = setBits (s.reg (KILN_TAG_STATUS r)) 7 0 stLEDGER_FULL) ∧
      (¬state → ¬range → ¬full → limit →
        t.kiln = s.kiln ∧ t.reg (KILN_TAG_STATUS r) = setBits (s.reg (KILN_TAG_STATUS r)) 7 0 stTAG_LIMIT) ∧
      (¬state → ¬range → ¬full → ¬limit → failed →
        t.kiln = s.kiln ∧ t.reg (KILN_TAG_STATUS r) = setBits (s.reg (KILN_TAG_STATUS r)) 7 0 stSELFTEST)) ∧
  (∀ (s : State) (ag : Agent) (r : Nat), s.powered = true → (Instr.tagClose ag r).wf = true →
    let tag := bits (s.reg (KILN_TAG_ARG0 r)) 31 0
    (∀ x, s.kiln.tags.find tag = some x → x.closing = false → x.home = r →
      ∃ t, exec (.tagClose ag r) s = .next t ∧
        t = { s with kiln := t.kiln, regs := s.regs.set (KILN_TAG_STATUS r) (setBits (s.reg (KILN_TAG_STATUS r)) 7 0 stOK) } ∧
        t.kiln = { s.kiln with
                     tags := s.kiln.tags.set tag { x with closing := true, finish := s.fret, reason := 0, module := s.moduleId },
                     closing := s.kiln.closing ++ [tag] }) ∧
    ((∀ x, s.kiln.tags.find tag = some x → x.closing = true ∨ x.home ≠ r) →
      exec (.tagClose ag r) s =
        .next (s.setReg (KILN_TAG_STATUS r) (setBits (s.reg (KILN_TAG_STATUS r)) 7 0 stSTATE)))) ∧
  (∀ (s : State) (ag : Agent) (r : Nat), s.powered = true → (Instr.tagQuery ag r).wf = true →
    let found := s.kiln.tags.find (bits (s.reg (KILN_TAG_ARG0 r)) 31 0)
    (found = none → exec (.tagQuery ag r) s = .next (s.setReg (KILN_TAG_STATUS r) 0)) ∧
    ∀ x, found = some x →
      exec (.tagQuery ag r) s = .next (s.setReg (KILN_TAG_STATUS r) (fld (if x.closing = true then 2 else 1) 9)))

/-- Records are built in SEQ order, signed, appended, exported and compacted. Rests on R438, R439, R442, R444, R446, R447,
R448, R449, Table 13.6. INTERVAL_CLOSE, once as many frets as KILN_CFG says have been counted and the ledger has room, builds a record with
the next SEQ, chains it (PREV of the next record is its SHA-384 digest), queues it for signing and starts a new
interval; else it changes nothing. SIGN_TOKEN gives one more token, at most 8. SIGN_DONE with one waiting record and a
token spends the token and makes its entry ready. LEDGER_APPEND with the export ring off stages the next ready entry
while fewer than 51 are staged. PAGE_PROGRAM empties the page. KILN_RING_HEAD past TAIL is refused. LEDGER_COMPACT of
acknowledged entries removes them and builds a record. TAG_BACKUP in a fret that is a multiple of 64 copies every live
home's tags with no region lost, after which no tag holds energy since its copy, and in another fret changes nothing. -/
def Obligations.LedgerRecords : Prop :=
  (∀ s : State, s.powered = true →
    let due := bits (s.reg (KILN_CFG 0)) 23 0 ≤ s.kiln.interval.frets ∧ 4096 < s.ledgerFree
    (¬due → exec .intervalClose s = .next s) ∧
    (due → ∃ t rec, exec .intervalClose s = .next t ∧ rec.head? = some 5 ∧
      t = { s with kiln := { s.kiln with
        seq := s.kiln.seq + 1, waiting := s.kiln.waiting ++ [(s.kiln.seq, rec)],
        prev := Digest.sha384 rec, interval := { last := s.kiln.interval.last, first := false },
        tags := s.kiln.tags.map fun x => (x.1, { x.2 with fresh := [0, 0, 0, 0, 0, 0, 0, 0] }) } })) ∧
  (∀ s : State, exec .signToken s = .next { s with kiln := { s.kiln with tokens := min 8 (s.kiln.tokens + 1) } }) ∧
  (∀ (s : State) (q : Nat) (rec : List Byte), s.kiln.waiting = [(q, rec)] → 0 < s.kiln.tokens →
    ∃ t e, exec .signDone s = .next t ∧ t = { s with kiln := t.kiln, freeCount := s.freeCount + 1 } ∧
      t.kiln = { s.kiln with tokens := s.kiln.tokens - 1, waiting := [], ready := s.kiln.ready.set q e } ∧
      e.take rec.length = rec) ∧
  (∀ (s : State) (bytes : List Byte), s.kiln.ready.find s.kiln.nextAppend = some bytes → s.kiln.staged < 51 →
    bytes.getD 0 0 ≠ 1 → (s.reg (KILN_RING_ENABLE 0)).getLsbD 0 = false →
    exec .ledgerAppend s = .next { s with kiln := { s.kiln with
      ledger := s.kiln.ledger ++ [(s.kiln.nextAppend, bytes)], ready := s.kiln.ready.erase s.kiln.nextAppend,
      nextAppend := s.kiln.nextAppend + 1, staged := s.kiln.staged + 1 } }) ∧
  (∀ s : State, exec .pageProgram s = .next { s with kiln := { s.kiln with staged := 0 } }) ∧
  (∀ (s : State) (ag : Agent) (r : Nat) (v : W64), s.powered = true → (Instr.kilnRingHeadWrite ag r v).wf = true →
    ((s.reg (KILN_RING_TAIL 0)).toNat < v.toNat → ∃ t, exec (.kilnRingHeadWrite ag r v) s = .next t ∧
      t = s.log r stRANGE 1 ag.code 0x201030 0) ∧
    (v.toNat ≤ (s.reg (KILN_RING_TAIL 0)).toNat → (s.reg (KILN_RING_ENABLE 0)).getLsbD 0 = false →
      ∃ t, exec (.kilnRingHeadWrite ag r v) s = .next t ∧ t = { s with regs := t.regs } ∧
        (∀ q, q < 4 → t.reg (KILN_RING_HEAD q) = v) ∧ ∀ g, (∀ q, g ≠ KILN_RING_HEAD q) → t.reg g = s.reg g)) ∧
  (∀ (s : State) (upTo first : Nat) (b : List Byte) (l : List (Nat × List Byte)), s.kiln.ledger = (first, b) :: l →
    first ≤ upTo → upTo < (s.reg (KILN_ACK_SEQ 0)).toNat →
    ∃ t rec, exec (.ledgerCompact upTo) s = .next t ∧ t = { s with kiln := t.kiln } ∧
      t.kiln.ledger = s.kiln.ledger.filter (fun x => decide (upTo < x.1)) ∧ t.kiln.seq = s.kiln.seq + 1 ∧
      t.kiln.waiting = s.kiln.waiting ++ [(s.kiln.seq, rec)] ∧ rec.head? = some 3) ∧
  (∀ s : State, s.powered = true →
    ∃ t, exec .tagBackup s = .next t ∧ t = { s with kiln := { s.kiln with copies := t.kiln.copies, tags := t.kiln.tags } } ∧
      (s.fret % 64 ≠ 0 → t = s) ∧
      (s.fret % 64 = 0 → s.lostRegions = [] → t.kiln.tags = s.kiln.tags.map fun x =>
        (x.1, if x.2.home < 4 then { x.2 with fresh := [0, 0, 0, 0, 0, 0, 0, 0] } else x.2)) ∧
      (s.fret % 64 = 0 → s.lostRegions = [] → ∀ r, r < 4 → t.kiln.copies.find r =
        some (if r = 0 then 1 else 0, s.fret, s.kiln.tags.filter fun x => x.2.home == r)))

/-! ### Power -/

/-- The input and thermal events and the module state they bring. Rests on R455, R472, R504, R447, Table 14.2, Table 16.1.
INPUT_LOW records the voltage and goes on, and
the input is no longer steady in its range. INPUT_LOSS, INPUT_OVERVOLTAGE and INPUT_OVERCURRENT with the load rails on
set UV or OV, or open the fuse with a current above 30 A of no stated value, mark the input lost, take every rail out of ON, reset the package (no
block, peg or memory byte is kept: log 1) and enter AUX; with the rails off they only record. INPUT_REVERSED ends in
OFF, and REVERSED is kept. THERMAL_TRIP with the rails on puts all 36 rails in FAULT with cause 5, resets the package and enters HALT. -/
def Obligations.LossOfInputPower : Prop :=
  let reset (t : State) := t.fret = 0 ∧ t.epochSet = false ∧ t.blocks = [] ∧ t.pegs = [] ∧ t.mem = [] ∧ t.harts = [] ∧ t.coresOn = false ∧
    t.dma = [] ∧ t.caches = []
  let off (t : State) := ∀ r i, (t.rail r i).state ≠ .on
  (∀ (s : State) (volts : Nat), (Instr.inputLow volts).wf = true →
    ∃ t, exec (.inputLow volts) s = .next t ∧
      SameButReports { s with power := { s.power with input := setBits s.power.input 15 0 volts, steady := false } } t ∧
      (s.mgmt.state ≠ .off → t.mgmt.i3c.events.getLast? =
        some { code := 4, fret := s.fret % 2 ^ 32, data := setBits s.power.input 15 0 volts })) ∧
  (∀ s : State, s.railsOn = true →
    let lost (input : W64) (fuse : Bool) : Power :=
      { input := input, inputLost := true, steady := false, fuseOpen := fuse, reversedSeen := s.power.reversedSeen }
    (∃ t, exec .inputLoss s = .next t ∧ t.mgmt.state = .aux ∧ reset t ∧ off t ∧
      t.power = lost (s.power.input ||| fld 1 48) s.power.fuseOpen) ∧
    (∃ t, exec .inputOvervoltage s = .next t ∧ t.mgmt.state = .aux ∧ reset t ∧ off t ∧
      t.power = lost (s.power.input ||| fld 1 49) s.power.fuseOpen) ∧
    (∃ t n, exec .inputOvercurrent s = .next t ∧ t.mgmt.state = .aux ∧ reset t ∧ off t ∧
      30000 < n ∧ n < 2 ^ 16 ∧ t.power = lost (setBits s.power.input 31 16 n) true) ∧
    ∃ t, exec .thermalTrip s = .next t ∧ t.mgmt.state = .halt ∧ reset t ∧
      ∀ r i, r < 4 → i < 9 → (t.rail r i).state = .fault ∧ (t.rail r i).cause = 5 ∧ (t.rail r i).fret = s.fret) ∧
  (∀ s : State, ∃ t, exec .inputReversed s = .next t ∧ t.mgmt.state = .off ∧ reset t ∧ off t ∧ t.power.reversedSeen = true) ∧
  (∀ s : State, s.railsOn = false →
    (∃ t, exec .inputLoss s = .next t ∧ SameButReports
      { s with power := { s.power with input := s.power.input ||| fld 1 48, inputLost := true, steady := false } } t) ∧
    (∃ t, exec .inputOvervoltage s = .next t ∧ SameButReports
      { s with power := { s.power with input := s.power.input ||| fld 1 49, inputLost := true, steady := false } } t) ∧
    (∃ t n, exec .inputOvercurrent s = .next t ∧ 30000 < n ∧ n < 2 ^ 16 ∧ SameButReports
      { s with
        freeCount := s.freeCount + 1
        power := { s.power with input := setBits s.power.input 31 16 n, fuseOpen := true, inputLost := true, steady := false } } t) ∧
    exec .thermalTrip s = .next s)

/-- Budget messages, grants, over-currents, droops, temperatures and step rises. Rests on R463, R464, R466, R469, R470,
R471, R473, R474, R475. BUDGET_MESSAGE of a live region replaces that region's P, F and D and marks it arrived; of a
lost region it changes nothing. BUDGET_GRANT gives each live region the grant of R466 (F where A is at most the sum of
the F, D where the excess suffices, else F plus its share of the excess), and clears the list of arrived messages;
only power management's state changes. RAIL_OVERCURRENT stretches the domain's clock and counts it at its present
step. DROOP_DETECT counts the stretched cycles and keeps the unit's clock stretched until DROOP_RECOVER.
THERMAL_SAMPLE throttles at the threshold and ends 3 degrees below it, with an event when it starts. COOLANT_ALARM
sets the alarm. VF_STEP_RISE brings the frequency of a rising step into force. -/
def Obligations.PowerLimitsAndSteps : Prop :=
  let adding (c : Nat) (l : List Nat) : List Nat := if l.contains c then l else c :: l
  (∀ (s : State) (r p f d : Nat), s.powered = true → (Instr.budgetMessage r p f d).wf = true →
    ∃ t, exec (.budgetMessage r p f d) s = .next t ∧ t = { s with power := t.power } ∧
      (s.regionLive r = true → t.power.budget.get (0, 0, 0) r = (p, f, d) ∧ r ∈ t.power.arrived ∧
        ∀ q, q ≠ r → t.power.budget.get (0, 0, 0) q = s.power.budget.get (0, 0, 0) q) ∧
      (s.regionLive r = false → t = s)) ∧
  (∀ (s : State) (q : Predictions), s.powered = true →
    let fd := s.liveRegions.map fun r => (r, s.demand q r)
    let sf := listSum (fd.map fun x => x.2.1)
    let se := listSum (fd.map fun x => x.2.2 - x.2.1)
    let a := s.available.1
    ∃ t, exec (.budgetGrant q) s = .next t ∧ t = { s with power := t.power, domains := t.domains } ∧ t.power.arrived = [] ∧
      t.power.grants = fd.map (fun x => (x.1, if a ≤ sf then x.2.1 else if se ≤ a - sf then x.2.2
        else x.2.1 + (a - sf) * (x.2.2 - x.2.1) / se)) ∧
      (t.power.floorBroken = true ↔ s.power.floorBroken = true ∨ a < sf)) ∧
  (∀ (s : State) (r i : Nat), s.powered = true → (Instr.railOvercurrent r i).wf = true →
    exec (.railOvercurrent r i) s = .next (if i < 4 then { s with
      domains := s.domains.set (r, i) { s.domain r i with stretched := true, overCurrent := true }
      power := { s.power with reasons := adding 1 s.power.reasons } } else s)) ∧
  (∀ (s : State) (h cycles : Nat), s.powered = true → (Instr.droopDetect h cycles).wf = true →
    ∃ t, exec (.droopDetect h cycles) s = .next t ∧ t = { s with power := t.power, regs := t.regs } ∧
      t.power = { s.power with drooping := adding h s.power.drooping,
                               reasons := if cycles = 0 then s.power.reasons else adding 3 s.power.reasons } ∧
      t.reg (PWR_DROOP_CYCLES (hartRegion h)) = s.reg (PWR_DROOP_CYCLES (hartRegion h)) + w64 cycles ∧
      ∀ g, g ≠ PWR_DROOP_CYCLES (hartRegion h) → t.reg g = s.reg g) ∧
  (∀ (s : State) (h : Nat), s.powered = true → (Instr.droopRecover h).wf = true →
    exec (.droopRecover h) s =
      .next { s with power := { s.power with drooping := s.power.drooping.filter fun x => x != h } }) ∧
  (∀ (s : State) (r die celsius : Nat), s.powered = true → (Instr.thermalSample r die celsius).wf = true →
    let limit := bits (s.reg (PWR_THERMAL 0)) 6 0
    let hot := decide (limit ≤ celsius) || ((s.domain r die).throttled && decide (limit ≤ celsius + 2))
    ∃ t, exec (.thermalSample r die celsius) s = .next t ∧
      SameButReports { s with domains := s.domains.set (r, die) { s.domain r die with celsius := celsius, throttled := hot } } t ∧
      (hot = true → (s.domain r die).throttled = false →
        t.mgmt.i3c.events.getLast? = some { code := 9, fret := s.fret % 2 ^ 32, data := w64 r })) ∧
  (∀ s : State, s.powered = true → ∃ t, exec .coolantAlarm s = .next t ∧
    SameButReports { s with power := { s.power with coolant := true } } t ∧
    t.mgmt.i3c.events.getLast? = some { code := 10, fret := s.fret % 2 ^ 32, data := 0 }) ∧
  (∀ (s : State) (r d : Nat), s.powered = true → (Instr.vfStepRise r d).wf = true →
    (∀ n, (s.domain r d).rising = some n → exec (.vfStepRise r d) s =
      .next { s with domains := s.domains.set (r, d) { s.domain r d with step := n, rising := none } }) ∧
    ((s.domain r d).rising = none → exec (.vfStepRise r d) s = .next s))

/-! ### Errors and degraded operation -/

/-- Rail faults, cross-checks, tuning checks, mutes, evidence and fleet packs act as chapter 15 says. Rests on R458, R480,
R482, R487, R488, R489, R491, R492. A rail in ON goes to FAULT with its cause and fret, its domain stops moving, what
it feeds is lost (or mapped out), and event 5 names it; in another state nothing happens. A cross-check that ends
counts a run; equal digests end it; different ones count a mismatch, and an eligible third block of the region
convicts the blocks that disagree, or the pair waits for one, and without one for 2^10 frets both disagree. A tuning
check that passes counts and scores the block, which is muted at a score of 3; one that fails counts and mutes it.
MUTE of a halted or running block mutes it with cause 3; RELEASE takes a block muted with cause 3, or with cause 1 and
off the mute list, to RESET with its scores and the completions it still owes; else the write is logged with STATE. A due pack begins where its unit may
run it; a failed one is logged with SELFTEST and cause 12 and takes the unit out of service, a core as a lost one is. -/
def Obligations.FaultyUnitsAreCheckedAndMuted : Prop :=
  ∀ (s : State), s.powered = true →
    (∀ r i cause, r < 4 → i < 9 → let go := exec (.railFault r i cause) s
      let off := s.setRail r i { state := .fault, cause := cause, fret := s.fret }
      let u := if i < 4 then off.setDomain r i { s.domain r i with next := none, rising := none } else off
      let d := fld r 0 ||| fld i 2 ||| fld cause 6
      ((s.rail r i).state ≠ .on → go = .next (s.noted s)) ∧
      ((s.rail r i).state = .on → go = .next (s.noted ((u.railEffect r i).event 5 d)) ∧
        (i < 3 → s.dieLive r i = false → go = .next (s.noted (u.event 5 d))) ∧
        (i = 3 → s.regionLive r = false → go = .next (s.noted (u.event 5 d))))) ∧
    (∀ a b da db third, a < 512 → b < 512 → a ≠ b → (∀ c dc, third = some (c, dc) → c < 512 ∧ c ≠ a ∧ c ≠ b) →
      let go := exec (.xchkDone a b da db third) s
      let r := a / 128
      let open_ := s.thirds.find? fun t => t.a == a && t.b == b
      let wrong (u : State) (da db c dc seed : Nat) : State :=
        ((if da = dc then [b] else if db = dc then [a] else [a, b]) ++ (if da ≠ dc ∧ db ≠ dc then [c] else [])).foldl
          (fun (v : State) x => v.disagree x seed) u
      let judges (u : State) (c : Nat) := u.eligible c = true ∧ c / 128 = r
      (∀ t, open_ = some t →
        (∀ c dc, third = some (c, dc) → judges s c →
          go = .next (s.noted (wrong { s with thirds := s.thirds.erase t } t.da t.db c dc t.seed))) ∧
        ((∀ c dc, third = some (c, dc) → ¬ judges s c) → go = .next (s.noted s))) ∧
      (open_ = none →
        ((∀ seed, (s.block a).xchk ≠ some (b, seed)) → go = .next (s.noted s)) ∧
        (∀ seed, (s.block a).xchk = some (b, seed) →
          let u := ((s.updBlock a fun x => { x with xchk := none }).updBlock b fun x => { x with xchk := none }).bump (MGMT_XCHK_RUNS r) 1
          let v := u.bump (MGMT_XCHK_MISMATCH r) 1
          (da = db → go = .next (s.noted u)) ∧
          (∀ c dc, da ≠ db → third = some (c, dc) → judges v c → go = .next (s.noted (wrong v da db c dc seed))) ∧
          (da ≠ db → (∀ c dc, third = some (c, dc) → ¬ judges v c) →
            go = .next (s.noted { v with thirds := s.thirds ++ [⟨a, b, seed, da, db, s.fret⟩] }))))) ∧
    (∀ a b, a < 512 → b < 512 → a ≠ b → let go := exec (.xchkThirdTimeout a b) s
      let open_ := s.thirds.find? fun t => t.a == a && t.b == b
      (open_ = none → go = .next (s.noted s)) ∧
      (∀ t, open_ = some t → (s.fret < t.fret + 1024 → go = .next (s.noted s)) ∧
        (t.fret + 1024 ≤ s.fret → go = .next (s.noted
          ((({ s with thirds := s.thirds.erase t } : State).disagree a t.seed).disagree b t.seed))))) ∧
    (∀ b, b < 512 → let x := s.block b
      let go (passed : Bool) := exec (.tuningCheckEnd b passed) s
      (x.tuning = [] → ∀ p, go p = .next (s.noted s)) ∧
      (∀ t rest, x.tuning = t :: rest →
        let failed := ((s.setBlock b { x with tuning := rest }).bump (MGMT_TUNE_FAIL (b / 128)) 1).tuningRecord b t 2
        let passed := ((s.bump (MGMT_TUNE_PASS (b / 128)) 1).setBlock b { x with
          tuning := rest, scores := (x.scores.filter fun f => decide (s.fret < f + 2 ^ 20)) ++ [s.fret] }).tuningRecord b t 1
        go false = .next (s.noted (failed.muteBlock b 1)) ∧
        go true = .next (s.noted (if 3 ≤ passed.score b then passed.muteBlock b 1 else passed)))) ∧
    (∀ (ag : Agent) (r b : Nat), ag.wf = true → r < 4 → b < 512 → let x := s.block b
      let refused := s.log r stSTATE 1 ag.code (MGMT_BLK_MUTE r % 0x100000000) 0
      let mayGo := x.state = .muted ∧ (x.muteCause = 3 ∨ (x.muteCause = 1 ∧ b ∉ s.muteList))
      (x.state = .halted ∨ x.state = .running → exec (.blkMute ag r b) s = .next (s.noted (s.muteBlock b 3))) ∧
      (x.state ≠ .halted → x.state ≠ .running → exec (.blkMute ag r b) s = .next (s.noted refused)) ∧
      (mayGo → exec (.blkRelease ag r b) s = .next (s.setBlock b {
        state := .reset, scores := x.scores, engines := x.engines, nextSeq := x.nextSeq, marks := x.marks })) ∧
      (¬ mayGo → exec (.blkRelease ag r b) s = .next refused)) ∧
    (∀ (ag : Agent) (r : Nat) (v : W64), ag.wf = true → r < 4 → exec (.mgmtEvidRelease ag r v) s =
      .next { s with evidence := s.evidence.filter fun x => !(x.1.1 == r && v.getLsbD x.1.2) }) ∧
    (∀ cls unit, cls < 3 → let k := (cls, unit)
      let n := s.mgmt.image.packInterval
      let due := ∀ f, s.packs.last.find k = some f → n ≠ 0 ∧ f + n ≤ s.fret
      let starts := due ∧ s.packPossible cls unit = true ∧ k ∉ s.packs.running
      (starts → exec (.packRun cls unit) s = .next { s with packs :=
        { running := s.packs.running ++ [k], last := s.packs.last.set k s.fret } }) ∧
      (¬ starts → exec (.packRun cls unit) s = .next s) ∧
      (∀ passed, k ∉ s.packs.running → exec (.packResult cls unit passed) s = .next (s.noted s)) ∧
      (k ∈ s.packs.running →
        let u : State := { s with packs := { s.packs with running := s.packs.running.filter (· != k) } }
        let r := if cls = 0 then unit / 36 else unit
        let who := if cls = 0 then hartAgent s.moduleId unit else engineAgent s.moduleId r cls
        let logged := u.log r stSELFTEST 12 who.code 0 (w64 cls)
        let also (l : List Nat) : List Nat := if l.contains unit then l else unit :: l
        exec (.packResult cls unit true) s = .next (s.noted u) ∧
        (cls = 0 →
          let w := (logged.loseHart unit).updHart unit fun x => { x with offline := true, packFail := true }
          exec (.packResult cls unit false) s = .next (s.noted { w with scrubbing := w.liveRegions })) ∧
        (cls = 1 → exec (.packResult cls unit false) s =
          .next (s.noted { logged with kiln := { s.kiln with collFailed := also s.kiln.collFailed } })) ∧
        (cls = 2 → exec (.packResult cls unit false) s =
          .next (s.noted { logged with kiln := { s.kiln with failed := also s.kiln.failed } }))))

/-- Die-to-die links count errors and trade lane maps, silent dies and regions are lost, dies rejoin. Rests on R20, R21,
R295, R296, R493, R494, R495, R496, R497, R498, R499. A flit that fails its CRC counts on its lane and as resent, and
the 16th error of a lane marks it for replacement. A lane map exchange that fails counts, and the third leaves the
link dead; one that agrees leaves the AND of both maps, groups with fewer than 60 good lanes disabled, and a link with
fewer than half its groups dead; a failed link trades none. A heartbeat notes its time. A die is lost for four missed
intervals, its rail in FAULT or its failed link, and only once: what it holds is lost, the live homes scrub, the loss
is logged, notified and reported. So is a live region whose
lateral links are both silent or failed, whose rail is in FAULT, or whose reserved area is unreadable, and RUN becomes DEGRADED. REJOIN takes a LOST die of a live
region, with no scrub open, to REJOINING with its lane maps dropped, else it is logged with STATE; a trained one
becomes LIVE with its blocks and cores reset, each core fetching from CORE_ENTRY, and a late one LOST again. Reads and writes that a lost region on
their path had accepted are lost with it: the reads are poisoned, and the writes end, still waiting or done, recorded with PEER_LOST. -/
def Obligations.LinksDiesAndRegionsAreLostAndRejoin : Prop :=
  ∀ (s : State), s.powered = true →
    (∀ l, l < 16 → let x := s.link l
      exec (.heartbeat l) s = .next (s.setLink l { x with lastBeat := max x.lastBeat (s.markNs + s.phaseNs) }) ∧
      (∀ lane, let n := x.errors.get 0 lane + 1
        exec (.d2dFlitCrcError l lane) s = .next (s.setLink l { x with
          errors := x.errors.set lane n, resent := x.resent + 1,
          repair := if 16 ≤ n ∧ lane ∉ x.repair then x.repair ++ [lane] else x.repair })) ∧
      (∀ m, let go := exec (.d2dLaneMapExchange l m) s
        let fails := m.agree = false ∨ m.ours.length ≠ m.theirs.length
        let lanes := (List.zipWith (fun a b => a &&& b) m.ours m.theirs).map groupMap
        let y : Link := { lanes := lanes, resent := x.resent, lastBeat := s.markNs + s.phaseNs }
        let half := lanes = [] ∨ 2 * (lanes.filter (· != 0)).length < lanes.length
        (x.failed = true → go = .next (s.noted s)) ∧
        (x.failed = false → fails → x.attempts < 2 → go = .next (s.noted (s.setLink l { x with attempts := x.attempts + 1 }))) ∧
        (x.failed = false → fails → 2 ≤ x.attempts → go = .next (s.noted ((s.setLink l { x with attempts := 3 }).linkDead l))) ∧
        (x.failed = false → ¬ fails → ¬ half → go = .next (s.noted (s.setLink l y))) ∧
        (x.failed = false → ¬ fails → half → go = .next (s.noted ((s.setLink l y).linkDead l))))) ∧
    (∀ r reason, r < 4 →
      (∀ d, d < 3 → let go := exec (.dieLost r d reason) s
        let failed := (s.link (3 * r + d)).failed
        let silent := (reason = 1 ∧ (s.link (3 * r + d)).lastBeat + 1024 ≤ s.markNs + s.phaseNs) ∨
          (reason = 2 ∧ (s.rail r d).state = .fault) ∨ (reason = 3 ∧ failed = true)
        let u := s.loseDie r d failed
        (¬ silent ∨ s.dieLive r d = false → go = .next (s.noted s)) ∧
        (silent → s.dieLive r d = true →
          go = .next (s.noted (({ u with scrubbing := u.liveRegions } : State).declareLost r d reason)))) ∧
      (let down (e : Nat) : Prop := (s.link (12 + e)).failed = true ∨ (s.link (12 + e)).lastBeat + 1024 ≤ s.markNs + s.phaseNs
      let silent := ((reason = 1 ∨ reason = 4) ∧ down r ∧ down ((r + 3) % 4)) ∨ (reason = 2 ∧ (s.rail r 3).state = .fault) ∨
        (reason = 5 ∧ s.reservedLost r = true)
      (¬ silent ∨ s.regionLive r = false → exec (.regionLost r reason) s = .next (s.noted s)) ∧
      (silent → s.regionLive r = true → let u := (s.loseRegion r).declareLost r 3 reason
        exec (.regionLost r reason) s = .next (s.noted (if u.mgmt.state = .run then u.enterState .degraded else u))))) ∧
    (∀ r d, r < 4 → d < 3 → let x := s.die r d
      let l := s.link (3 * r + d)
      let into (y : Die) : State := { s with dies := s.dies.set (r, d) y }
      (∀ ag : Agent, ag.wf = true →
        let may := s.regionLive r = true ∧ x.state = .lost ∧ s.scrubbing = []
        (may → exec (.rejoin ag r d) s = .next ((into { x with state := .rejoining, linkFailed := false }).setLink (3 * r + d) { resent := l.resent })) ∧
        (¬ may → exec (.rejoin ag r d) s = .next (s.log r stSTATE 1 ag.code (MGMT_DIE_CTRL r d % 0x100000000) 0))) ∧
      (let ready := x.state = .rejoining ∧ l.failed = false ∧ l.lanes ≠ [] ∧ (s.rail r d).state ≠ .fault
        let u := ((into { x with state := .live }).setLink (3 * r + d) { l with lastBeat := s.markNs + s.phaseNs }).rejoinBlocks r d
        let v := if d = 2 then ((List.range 36).map (r * 36 + ·)).foldl (fun (w : State) h =>
          let w := w.updHart h fun y =>
            { packFail := y.packFail, offline := y.packFail, pc := w64 u.mgmt.image.coreEntry }
          if w.hartRuns h then w.coreFetch h else w) u else u
        (¬ ready → exec (.rejoinDone r d) s = .next s) ∧
        (ready → ∃ t, exec (.rejoinDone r d) s = .next t ∧
          t = ((v.logAll stOK 9 (fld r 0 ||| fld d 2)).notifyRegions).event 6 (fld r 0 ||| fld d 2 ||| fld 1 4))) ∧
      (x.state = .rejoining → exec (.rejoinTimeout r d) s = .next (into { x with state := .lost, linkFailed := true })) ∧
      (x.state ≠ .rejoining → exec (.rejoinTimeout r d) s = .next s)) ∧
    (∀ edge lost fl, (∀ e, edge = some e → e < 4) → (∀ r, lost = some r → r < 4) →
      let go := exec (.lateralPathChange edge lost fl) s
      let changed := (∃ e, edge = some e ∧ (s.link (12 + e)).failed = true) ∨ (∃ r, lost = some r ∧ r ∈ s.lostRegions)
      (¬ changed → go = .next s) ∧
      (changed → lost = none ∨ (∀ f ∈ fl, f.accepted = false) → go = .next s) ∧
      (∀ f, changed → lost ≠ none → fl = [f] → f.accepted = true → s.pathHit edge lost f.src f.dst = false → go = .next s) ∧
      (∀ f, changed → lost ≠ none → fl = [f] → f.accepted = true → s.pathHit edge lost f.src f.dst = true →
        (f.write = true ∨ f.agent.hart = none →
          let kind (q : CReq) : Bool := match q with | .eWrite .. | .eMasked .. => f.write | _ => !f.write
          let mine (x : Txn) : Prop :=
            x.line = f.addr / 128 ∧ x.req.engine = true ∧ kind x.req = true ∧ requester s.moduleId x.req.who = f.agent
          ((∀ x ∈ s.txns, ¬ mine x) →
            go = .next (if f.write then s.log f.agent.region stPEER_LOST 6 f.agent.code f.addr 0 else s)) ∧
          (∀ x, s.txns = [x] → mine x → let u : State := { s with txns := [] }
            go = .next (if f.write then u.logDiscard (requester s.moduleId x.req.who) (x.line * 128) stPEER_LOST
              else { u with engineData := s.engineData.set x.req.who { data := 0, poison := BitVec.allOnes 16 } }))) ∧
        (∀ h, f.write = false → f.agent.hart = some h →
          let n := f.addr / 128
          let waits := (s.hart h).wait = .line n true ∨ (s.hart h).wait = .line n false
          let u := (s.dropCacheRequest h n).startAll 3
          (waits → go = .next (u.hartPoison h 5 f.addr f.addr)) ∧
          (¬ waits → go = .next u))))

/-! ### Management -/

/-- GO, ACK, response and the I3C private transfers move the mailbox slots as Table 16.8 says. Rests on R504, R516, R518,
R519, R520, R524. In OFF, or for a HOST slot that is not served, GO and ACK do nothing. GO takes an IDLE slot to BUSY
and queues the request last; on any other slot it is logged with STATE and CAUSE 1, where the dies run. ACK takes a
DONE slot to IDLE, else it is logged so too. MBX_RESPONSE writes the answer of the request in front, or RANGE for an
unlisted opcode, into its slot, which becomes DONE and signals its requester; a request that has no answer yet waits.
A private write that begins with 0xA5 is GO on the I3C slot, any other byte does nothing; a private read gives the
status bytes and, from a DONE slot, 16 + LENGTH response bytes, and one that reads them all returns the slot to IDLE.
A part without a dynamic address answers neither. -/
def Obligations.MailboxSlotsAndRequests : Prop :=
  ∀ (s : State),
    let live (sl : Slot) : Prop := s.mgmt.state ≠ .off ∧ (sl = .host → s.mgmt.image.attached = true)
    let refused (ag : Agent) (sl : Slot) (st : Nat) : State :=
      if s.powered = true then s.log s.masterRegion st 1 (if sl = .i3c then 0 else ag.code) (MGMT_MBX_CTRL 0) 0 else s
    let taken (sl : Slot) (m : Msg) : State :=
      let u := s.setMailbox sl { s.mailbox sl with state := .busy, buf := msgBytes m }
      { u with mgmt := { u.mgmt with requests := u.mgmt.requests ++ [{ slot := sl, msg := m }] } }
    (∀ (ag : Agent) (sl : Slot), ag.wf = true →
      (∀ m, let go := exec (.mbxGo ag sl m) s;
        (¬ live sl → go = .next s) ∧
        (live sl → (s.mailbox sl).state = .idle → go = .next (taken sl m)) ∧
        (live sl → (s.mailbox sl).state ≠ .idle → go = .next (refused ag sl stSTATE))) ∧
      (let go := exec (.mbxAck ag sl) s;
        (¬ live sl → go = .next s) ∧
        (live sl → (s.mailbox sl).state = .done → go = .next (s.setMailbox sl { s.mailbox sl with state := .idle })) ∧
        (live sl → (s.mailbox sl).state ≠ .done → go = .next (refused ag sl stSTATE)))) ∧
    (let go := exec .mbxResponse s;
      (s.mgmt.state = .off ∨ s.mgmt.requests = [] → go = .next s) ∧
      (∀ q rest, s.mgmt.state ≠ .off → s.mgmt.requests = q :: rest →
        let u : State := { s with mgmt := { s.mgmt with requests := rest } }
        let write (r : Msg) : State := (u.setMailbox q.slot { u.mailbox q.slot with state := .done, buf := msgBytes r }).signalSlot q.slot 1;
        (∀ r, q.answer = some r → go = .next (write r)) ∧
        (q.answer = none → cmdListed q.msg.opcode = false →
          go = .next (write { opcode := stRANGE, echo := q.msg.opcode, tag := q.msg.tag })) ∧
        (q.answer = none → cmdListed q.msg.opcode = true → go = .next s))) ∧
    (let ready := s.mgmt.state ≠ .off ∧ s.mgmt.dynAddr ≠ none
      let x := s.mgmt.i3c;
      (∀ bytes, let go := exec (.i3cPrivateWrite bytes) s;
        (¬ ready ∨ bytes.head? ≠ some 0xA5 → go = .next s) ∧
        (∀ rest, ready → bytes = 0xA5 :: rest →
          (x.state = .idle → go = .next (taken .i3c (bytesMsg rest))) ∧
          (x.state ≠ .idle → go = .next (refused {} .i3c stSTATE)))) ∧
      (∀ n, let go := exec (.i3cPrivateRead n) s
        let len := leNat ((x.buf.drop 4).take 2)
        let status := leBytes 8 (s.mbxStatus .i3c).toNat
        let sent (bs : List Byte) : State := { s with outbox := s.outbox ++ [.i3c (bs.take n)] }
        let whole := status ++ x.buf.take (16 + len);
        (¬ ready → go = .next s) ∧
        (ready → x.state ≠ .done → go = .next (sent status)) ∧
        (ready → x.state = .done → n < 24 + len → go = .next (sent whole)) ∧
        (ready → x.state = .done → 24 + len ≤ n → go = .next
          { sent whole with mgmt := { s.mgmt with i3c := { x with state := .idle } } })))

/-- I3C addressing and CCCs answer as the target's identity says, and the 1149.1 chain accepts what is unlocked. Rests on
R516, R517, R518. In OFF no bus command does anything. ENTDAA gives a part without a dynamic address its own and sends
the provisioned ID, the BCR 0x0E and the DCR 0x00, most significant byte of the ID first; a part that has one ignores
it. RSTDAA clears the address, SETNEWDA replaces it. A part with an address answers GETPID, GETBCR, GETDCR, GETMWL and
GETMRL (520 bytes) on the bus, changing nothing else; GETSTATUS sends two bytes that the spec leaves to MIPI (log 16).
ENEC and DISEC that name in-band interrupts set and clear their enable. A part without an address answers none of
these. The chain accepts an instruction when debug is unlocked, or a boundary-scan instruction in AUX, and ignores
others. The provisioned ID holds the manufacturer's 15 bits, part 0x0096, the slot and the low 12 bits of the serial
number. -/
def Obligations.I3cBusAndDebugChain : Prop :=
  ∀ (s : State),
    let on := s.mgmt.state ≠ .off
    let ready := on ∧ s.mgmt.dynAddr ≠ none
    let address (a : Option Nat) : State := { s with mgmt := { s.mgmt with dynAddr := a } }
    let sends (c : Instr) (bs : List Byte) : Prop :=
      (ready → exec c s = .next { s with outbox := s.outbox ++ [.i3c bs] }) ∧ (¬ ready → exec c s = .next s)
    let pid := (leBytes 6 s.provisionedId).reverse
    (∀ da,
      (on → s.mgmt.dynAddr = none → exec (.entdaa da) s = .next
        { address (some (da % 128)) with outbox := s.outbox ++ [.i3c (pid ++ [0x0E, 0x00])] }) ∧
      (¬ on ∨ s.mgmt.dynAddr ≠ none → exec (.entdaa da) s = .next s) ∧
      (ready → exec (.setnewda da) s = .next (address (some (da % 128)))) ∧
      (¬ ready → exec (.setnewda da) s = .next s)) ∧
    (on → exec .rstdaa s = .next (address none)) ∧
    (¬ on → exec .rstdaa s = .next s) ∧
    sends .getpid pid ∧ sends .getbcr [0x0E] ∧ sends .getdcr [0x00] ∧ sends .getmwl [0x02, 0x08] ∧ sends .getmrl [0x02, 0x08] ∧
    sends .getstatus (leBytes 2 (Config.i3cStatus s.alert)).reverse ∧
    s.provisionedId = Config.manufacturerId % 0x8000 * 0x200000000 + 0x960000 + s.mgmt.slotId % 16 * 0x1000 + s.fab.serial % 0x1000 ∧
    (∀ events,
      (ready → events % 2 = 1 → exec (.enec events) s = .next { s with mgmt := { s.mgmt with ibi := true } } ∧
        exec (.disec events) s = .next { s with mgmt := { s.mgmt with ibi := false } }) ∧
      (¬ ready ∨ events % 2 = 0 → exec (.enec events) s = .next s ∧ exec (.disec events) s = .next s)) ∧
    (∀ scan, let may := (on ∧ s.mgmt.unlocked = true) ∨ (scan = true ∧ s.mgmt.state = .aux)
      (may → exec (.jtagInstruction scan) s = .next { s with mgmt := { s.mgmt with jtag := some scan } }) ∧
      (¬ may → exec (.jtagInstruction scan) s = .next s))

/-- Uluell executes only the request in front, and refuses one by state, layout or requester with no other effect. Rests
on R502, R504, R519, R520, R521. A command that is not the unanswered request in front, or whose opcode differs,
changes nothing, and nothing is executed in OFF. Of the request in front, one that Table 16.1 or 16.10 does not allow
in the present state is answered STATE; else one whose length or reserved fields, indices or values break Table 16.15
is answered RANGE; else one from a slot that its row does not list is answered DENIED (0x86). Nothing else changes.
OVERRIDE_SET and OVERRIDE_CLEAR are judged only while 64 journal records are free, and wait otherwise. -/
def Obligations.MailboxCommandsAreJudged : Prop :=
  ∀ (s : State) (sl : Slot) (m : Msg) (rest : List Request) (passed ok : Bool) (nonce : List Byte) (v : Verdict),
    let slotBytesBad := m.zero 2 8 = false ∨ 3 < m.num 0 1 ∨ 7 < m.num 1 1
    let coreBytesBad := m.zero 1 8 = false ∨ 143 < m.num 0 1
    let named := State.settingNamed (m.num 0 2) (m.num 2 2) = true
    let judged (op : Nat) (c : Instr) (bad : Prop) : Prop :=
      let ans (st : Nat) : Host.Outcome State Fault Refusal := .next { s with mgmt := { s.mgmt with
        requests := { slot := sl, msg := m, answer := some { opcode := st, echo := op, tag := m.tag } } :: rest } }
      let front := s.mgmt.state ≠ .off ∧ m.opcode = op ∧ s.mgmt.requests = { slot := sl, msg := m } :: rest
      let wrong := m.rsvBad = true ∨ cmdLength op m.length m = false ∨ m.payload.length ≠ m.length ∨ bad
      (s.mgmt.state = .off ∨ m.opcode ≠ op ∨ (∀ r, s.mgmt.requests ≠ { slot := sl, msg := m } :: r) → exec c s = .next s) ∧
      (front → s.cmdLegal op = false → exec c s = ans stSTATE) ∧
      (front → s.cmdLegal op = true → wrong → exec c s = ans stRANGE) ∧
      (front → s.cmdLegal op = true → ¬ wrong → cmdFrom op sl = false → exec c s = ans 0x86)
    judged 0x01 (.getStatus sl m) False ∧ judged 0x02 (.getIdentity sl m) False ∧ judged 0x03 (.getCert sl m) False ∧
    judged 0x04 (.getEvent sl m) False ∧ judged 0x08 (.coldBoot sl m) False ∧ judged 0x09 (.warmReset sl m) False ∧
    judged 0x0A (.powerOff sl m) False ∧ judged 0x0B (.run sl m) False ∧ judged 0x0C (.quiesce sl m) False ∧
    judged 0x0D (.resume sl m) False ∧ judged 0x19 (.imageCommit sl m v) False ∧ judged 0x28 (.muteListGet sl m) False ∧
    judged 0x38 (.fuseRearm sl m) False ∧ judged 0x40 (.ledgerRead sl m) False ∧
    judged 0x18 (.imageWrite sl m) (0x3000000 < m.offset + m.length) ∧
    judged 0x20 (.coreOffline sl m) coreBytesBad ∧ judged 0x21 (.coreOnline sl m passed) coreBytesBad ∧
    judged 0x22 (.coreClearFail sl m) coreBytesBad ∧
    judged 0x29 (.muteListRemove sl m) (m.zero 2 8 = false ∨ 511 < m.num 0 2) ∧
    judged 0x30 (.evidenceRead sl m) (slotBytesBad ∨ 65535 < m.offset) ∧ judged 0x31 (.evidenceRelease sl m) slotBytesBad ∧
    judged 0x48 (.debugUnlock sl m nonce ok) (1 < m.num 0 1 ∨ m.zero 1 8 = false) ∧
    judged 0x11 (.overrideGet sl m) (m.zero 4 8 = false ∨ State.settingCount (m.num 0 2) = 0 ∨ (m.num 2 2 ≠ 0xFFFF ∧ ¬ named)) ∧
    (s.mgmt.journal.length ≤ 262079 →
      judged 0x10 (.overrideSet sl m) (m.num 4 1 ≠ 1 ∨ m.zero 5 8 = false ∨ ¬ named ∨
        State.settingOk (m.num 0 2) (m.num 2 2) (w64 (m.num 8 8)) = false) ∧
      judged 0x12 (.overrideClear sl m) (m.num 4 1 ≠ 2 ∨ m.zero 5 16 = false ∨ ¬ named)) ∧
    (262079 < s.mgmt.journal.length → exec (.overrideSet sl m) s = .next s ∧ exec (.overrideClear sl m) s = .next s)

/-- The mailbox queries answer with what the module holds, page by page, and change nothing but the event queue. Rests on
R443, R487, R489, R514, R517, R520, R521, R522. For the request in front, well laid out: GET_STATUS, GET_IDENTITY and
OVERRIDE_GET answer with the registers and values of Table 16.15, GET_CERT with up to 496 bytes of the chain from
OFFSET, RANGE at or past its end, GET_EVENT with the slot's oldest event, which it removes, or nothing, MUTE_LIST_GET
with the list's length and up to 244 blocks, EVIDENCE_READ, where the dies run, with up to 496 bytes of a filled slot,
STATE where it is not filled, LEDGER_READ with the entry of that SEQ, RANGE and the lowest SEQ held where there is
none. A page says whether more follows and where the next begins. Nothing else changes. -/
def Obligations.MailboxQueriesAnswer : Prop :=
  ∀ (s : State) (sl : Slot) (m : Msg) (rest : List Request), s.mgmt.state ≠ .off →
    s.mgmt.requests = { slot := sl, msg := m } :: rest → m.rsvBad = false → m.payload.length = m.length →
    let ans (u : State) (r : Reply) : Host.Outcome State Fault Refusal := .next { u with mgmt := { u.mgmt with
      requests := { slot := sl, msg := m, answer := some (State.response m r) } :: rest } }
    let word (v : W64) := leBytes 8 v.toNat
    (m.length = 0 →
      (let status := word s.moduleState ++ word s.pkgHealth ++ word s.power.input ++ leBytes 8 s.mgmt.image.sequence ++
          leBytes 4 (s.mailbox sl).dropped ++ [0, 0, 0, 0] ++ leBytes 8 s.fret;
        m.opcode = 0x01 → exec (.getStatus sl m) s = ans s { status := stOK, payload := status }) ∧
      (let ids := (List.range 4).flatMap fun r =>
          if s.powered = true ∧ s.regionLive r = true then word (s.regionId r) else List.replicate 8 0
        let all := leBytes 8 s.fab.serial ++ leBytes 8 s.provisionedId ++ ids ++ leBytes 8 s.moduleId ++ word s.fab.fabricId;
        m.opcode = 0x02 → exec (.getIdentity sl m) s = ans s { status := stOK, payload := all }) ∧
      (let left := s.mgmt.cert.drop m.offset;
        m.opcode = 0x03 →
        (left = [] → exec (.getCert sl m) s = ans s { status := stRANGE }) ∧
        (left ≠ [] → left.length ≤ 496 → exec (.getCert sl m) s = ans s { status := stOK, payload := left }) ∧
        (496 < left.length → exec (.getCert sl m) s = ans s
          { status := stOK, payload := left.take 496, more := true, offset := m.offset + 496 })) ∧
      (let x := s.mailbox sl;
        m.opcode = 0x04 →
        (x.events = [] → exec (.getEvent sl m) s = ans s { status := stOK }) ∧
        (∀ e es, x.events = e :: es → exec (.getEvent sl m) s =
          ans (s.setMailbox sl { x with events := es }) { status := stOK, payload := leBytes 8 (e.code + e.fret * 2 ^ 32) ++ word e.data })) ∧
      (let left := s.muteList.drop m.offset
        let count := leBytes 8 s.muteList.length;
        m.opcode = 0x28 →
        (left.length ≤ 244 → exec (.muteListGet sl m) s = ans s { status := stOK, payload := count ++ left.flatMap (leBytes 2) }) ∧
        (244 < left.length → exec (.muteListGet sl m) s = ans s { status := stOK, payload := count ++ (left.take 244).flatMap (leBytes 2), more := true, offset := m.offset + 244 })) ∧
      (m.opcode = 0x40 →
        (∀ b, s.kiln.ledger.find? (·.1 == m.offset) = some (m.offset, b) → exec (.ledgerRead sl m) s = ans s
          { status := stOK, payload := b, more := s.kiln.ledger.any (fun x => decide (m.offset < x.1)), offset := m.offset + 1 }) ∧
        ((∀ x ∈ s.kiln.ledger, x.1 ≠ m.offset) → exec (.ledgerRead sl m) s = ans s
          { status := stRANGE, offset := (s.kiln.ledger.head?.map (·.1)).getD 0 }))) ∧
    (m.length = 8 →
      (let key := m.num 0 2
        let index := m.num 2 2
        let entry (i : Nat) := leBytes 2 i ++ leBytes 6 (s.override key i).isSome.toNat ++ word (s.settingValue key i)
        let all := (List.range (State.settingCount key)).filter fun i => State.settingNamed key i && decide (m.offset ≤ i);
        m.opcode = 0x11 → m.zero 4 8 = true →
        (State.settingNamed key index = true → exec (.overrideGet sl m) s = ans s { status := stOK, payload := entry index }) ∧
        (index = 0xFFFF → State.settingCount key ≠ 0 → exec (.overrideGet sl m) s = ans s { status := stOK, payload := (all.take 31).flatMap entry, more := decide (31 < all.length), offset := (all.drop 31).headD 0 })) ∧
      (let slot := (m.num 0 1, m.num 1 1);
        m.opcode = 0x30 → m.zero 2 8 = true → slot.1 < 4 → slot.2 < 8 → m.offset < 65536 → s.powered = true →
        (s.evidence.find slot = none → exec (.evidenceRead sl m) s = ans s { status := stSTATE }) ∧
        (∀ e, s.evidence.find slot = some e →
          let p := State.evidenceAt e m.offset 496
          let more := m.offset + p.length < 65536
          exec (.evidenceRead sl m) s = ans s
            { status := stOK, payload := p, more := decide more, offset := if more then m.offset + p.length else 0 })))

/-- The mailbox commands that change settings, images, cores, lists and debug have the effects of their rows. Rests on
R455, R488, R489, R491, R492, R512, R514, R515, R520, R521. For the request in front, well laid out, allowed and from
a slot of its row. OVERRIDE_SET appends its record and, where the dies run, writes the setting's register as its own
rules allow: the period only in CONFIGURED, a regulator at its next refill. OVERRIDE_CLEAR appends only its record.
IMAGE_WRITE writes the slot not in use, erased first at OFFSET 0; IMAGE_COMMIT answers SIGNATURE, FORMAT, RANGE for a
SEQUENCE not above the one in use, or OK with the SEQUENCE. CORE_OFFLINE halts a core, CORE_ONLINE restarts a passed
one, which fetches at CORE_ENTRY, keeps a failed one out with SELFTEST and refuses one not cleared, not offline or on a lost die with STATE, CORE_CLEAR_FAIL
clears. A block leaves the mute list, or STATE; evidence is freed; the fuse is armed. DEBUG_UNLOCK gives a nonce that
serves one answer, whose signature unlocks or is answered SIGNATURE; STATE without a nonce. -/
def Obligations.SettingsImagesAndCoresAreChanged : Prop :=
  ∀ (s : State) (sl : Slot) (m : Msg) (rest : List Request), s.mgmt.state ≠ .off →
    s.mgmt.requests = { slot := sl, msg := m } :: rest → m.rsvBad = false → m.payload.length = m.length →
    let ans (u : State) (r : Reply) : Host.Outcome State Fault Refusal := .next { u with mgmt := { u.mgmt with
      requests := { slot := sl, msg := m, answer := some (State.response m r) } :: rest } }
    let said (st : Nat) : Reply := { status := st }
    let key := m.num 0 2
    let index := m.num 2 2
    let v := w64 (m.num 8 8)
    let record (op : Nat) (x : W64) : State := { s with mgmt := { s.mgmt with
      journal := s.mgmt.journal ++ [⟨key, index, op, s.mgmt.nextRecord, x⟩], nextRecord := s.mgmt.nextRecord + 1 } }
    let g := s.mgmt
    (sl ≠ .host → g.state ≠ .boot → m.length = 16 → g.journal.length ≤ 262079 → State.settingNamed key index = true →
      (m.opcode = 0x10 → m.num 4 1 = 1 → m.zero 5 8 = true → State.settingOk key index v = true →
        let u := record 1 v
        let go := exec (.overrideSet sl m) s;
        (s.powered = false → go = ans u (said stOK)) ∧
        (s.powered = true →
          (key = 1 → go = ans (u.setAll PWR_MODULE_LIMIT v) (said stOK)) ∧
          (key = 2 → go = ans (u.updDomain (index / 4) (index % 4) fun x => { x with floor := bits v 9 5, cap := bits v 14 10 }) (said stOK)) ∧
          (key = 3 → go = ans (u.setAll PWR_THERMAL v) (said stOK)) ∧
          (key = 4 → go = ans { u with regNext := u.regNext.set (index / 32, index % 32 / 8 * 8 + index % 8) v } (said stOK)) ∧
          (key = 5 → go = ans (u.setReg (MGMT_MEM_MAINT index) v) (said stOK)) ∧
          (key = 6 → go = ans (u.setAll KILN_CFG v) (said stOK)) ∧
          (key = 7 → go = ans (if g.state = .configured then u.setAll FAB_FRET_PERIOD v else u) (said stOK)) ∧
          (key = 8 → go = ans u (said stOK)))) ∧
      (m.opcode = 0x12 → m.num 4 1 = 2 → m.zero 5 16 = true → exec (.overrideClear sl m) s = ans (record 2 0) (said stOK))) ∧
    (sl ≠ .host → g.state ≠ .boot ∨ g.bootFault ≠ 0 →
      (m.opcode = 0x18 → 1 ≤ m.length → m.length ≤ 496 → m.offset + m.length ≤ 0x3000000 →
        let other := 1 - g.imageSlot
        let old := if m.offset = 0 then [] else g.flash.get [] other
        ∃ fl, exec (.imageWrite sl m) s = ans { s with mgmt := { g with flash := fl } } { status := stOK, offset := m.offset + m.length } ∧
          fl.get [] other = Memory.writeList old m.offset (m.payload.map fun b => ~~~b) ∧ ∀ k, k ≠ other → fl.get [] k = g.flash.get [] k) ∧
      (∀ w, m.opcode = 0x19 → m.length = 0 →
        let other := 1 - g.imageSlot
        let go := exec (.imageCommit sl m w) s
        let good := s.slotValid other w = true;
        (¬ good → go = ans s (said stSIGNATURE)) ∧
        (good → s.slotContent other w = false → go = ans s (said stFORMAT)) ∧
        (good → s.slotContent other w = true → s.slotSequence other ≤ g.image.sequence → go = ans s (said stRANGE)) ∧
        (good → s.slotContent other w = true → g.image.sequence < s.slotSequence other →
          go = ans s { status := stOK, payload := leBytes 8 (s.slotSequence other) }))) ∧
    (m.length = 8 → (g.state = .run ∨ g.state = .degraded ∨ g.state = .quiesce) → m.zero 1 8 = true → m.num 0 1 < 144 →
      let c := m.num 0 1
      let x := s.hart c;
      (m.opcode = 0x20 → sl = .core → exec (.coreOffline sl m) s = ans (s.setHart c { x with offline := true }) (said stOK)) ∧
      (m.opcode = 0x21 → sl = .core → (let may := x.packFail = false ∧ x.offline = true ∧ s.dieLive (c / 36) 2 = true;
        (¬ may → ∀ p, exec (.coreOnline sl m p) s = ans s (said stSTATE)) ∧
        (may → exec (.coreOnline sl m true) s = .next (((s.setHart c { x with
          offline := false, wfi := false, priv := .machine, pc := w64 g.image.coreEntry }).coreFetch c).answerHead (said stOK))) ∧
        (may → exec (.coreOnline sl m false) s = .next ((s.packFailed 0 c).answerHead (said stSELFTEST))))) ∧
      (m.opcode = 0x22 → sl ≠ .host → exec (.coreClearFail sl m) s = ans (s.setHart c { x with packFail := false }) (said stOK))) ∧
    (m.length = 8 → m.opcode = 0x29 → sl = .i3c → m.zero 2 8 = true → m.num 0 2 < 512 →
      (m.num 0 2 ∈ s.muteList → exec (.muteListRemove sl m) s =
        ans { s with muteList := s.muteList.filter (· != m.num 0 2) } (said stOK)) ∧
      (m.num 0 2 ∉ s.muteList → exec (.muteListRemove sl m) s = ans s (said stSTATE))) ∧
    (m.length = 8 → m.opcode = 0x31 → sl ≠ .host → s.powered = true → m.zero 2 8 = true → m.num 0 1 < 4 → m.num 1 1 < 8 →
      exec (.evidenceRelease sl m) s = ans (s.evidRelease (m.num 0 1) (fld 1 (m.num 1 1))) (said stOK)) ∧
    (sl = .i3c → g.state = .aux →
      (m.length = 0 → m.opcode = 0x38 → exec (.fuseRearm sl m) s = ans { s with power := { s.power with fuseOpen := false } } (said stOK)) ∧
      (∀ nonce ok, m.opcode = 0x48 → m.zero 1 8 = true →
        let n := (nonce ++ List.replicate 48 0).take 48
        let go := exec (.debugUnlock sl m nonce ok) s;
        (m.num 0 1 = 0 → m.length = 8 → go = ans { s with mgmt := { g with nonce := some n } } { status := stOK, payload := n }) ∧
        (m.num 0 1 = 1 → m.length = 104 → g.nonce = none → go = ans s (said stSTATE)) ∧
        (m.num 0 1 = 1 → m.length = 104 → g.nonce ≠ none → ok = true →
          go = ans { s with mgmt := { g with nonce := none, unlocked := true } } (said stOK)) ∧
        (m.num 0 1 = 1 → m.length = 104 → g.nonce ≠ none → ok = false →
          go = ans { s with mgmt := { g with nonce := none } } (said stSIGNATURE))))

/-- Power up and down, boots and resets, RUN, QUIESCE and RESUME move the module as Table 16.1 says. Rests on R350, R454,
R455, R504, R505, R506, R508, R510, R511, R516. Uluell starts from OFF into AUX with its dynamic address, requests,
nonce and unlock cleared, and reports a reversal; AUX goes OFF as the input is lost. With AUTO_BOOT and the input good, AUX boots. COLD_BOOT answers first, loses
the other requests, and boots from step 1; WARM_RESET boots from step 3; POWER_OFF goes to AUX; while the dies run and a
tag or an unappended record is left, all close the tags with ABORTED and stay in front, to be tried again (log 184). A boot zeroes the pegs, counts BOOT_COUNT, marks the next INTERVAL record BOOT unless it is warm (log 185), and keeps the ledger, METER_TOTAL, the mute list,
the journal and the address. BOOT, unless warm, needs an input that has lain in range for 100 ms, and takes its steps in order: no valid image or none with good content is a fault of
step 1, a fault ends the boot in BOOT; else CONFIGURED, then step 6, then step 7 unless held, and RUN or DEGRADED once
step 7 has an epoch. A late step is a fault with the load rails off. RUN starts step 7 once, QUIESCE and RESUME change
the state, RESUME to RUN only with four live regions. -/
def Obligations.ModuleStateAndBoot : Prop :=
  ∀ (s : State),
    let g := s.mgmt
    let enters (u : State) (st : ModState) (t : State) : Prop :=
      if u.mgmt.state = st then t = u
      else t = ({ u with mgmt := { u.mgmt with state := st } } : State).event 1 (fld u.mgmt.state.code 0 ||| fld st.code 3)
    let fault (step code : Nat) (t : State) : Prop :=
      t = ({ s with mgmt := { g with bootStep := step, bootFault := code }, rails := s.railsOff.rails } : State).event 2 (w64 code)
    let runs (u : State) : ModState := if u.liveRegions.length = 4 then .run else .degraded
    (∀ (n : Nat) (rev : Bool),
      (g.state ≠ .off → exec (.auxPowerUp n rev) s = .next s) ∧
      (g.state = .off →
        let seen := rev = true ∨ s.power.reversedSeen = true
        ∃ t, exec (.auxPowerUp n rev) s = .next (if seen then t.event 4 t.power.input else t) ∧ enters { s with
          power := { s.power with reversedSeen := false, input := if seen then s.power.input ||| fld 1 50 else s.power.input }
          mgmt := { g with dynAddr := none, ibi := false, slotId := n % 16, i3c := {}, host := {}, core := {}, requests := [],
                           nonce := none, unlocked := false, jtag := none, bootStep := 0, bootFault := 0 } } .aux t)) ∧
    (g.state = .aux → exec .auxPowerDown s = .next { s with
      mgmt := { g with state := .off }
      power := { s.power with inputLost := true, steady := false } }) ∧
    (g.state ≠ .aux → exec .auxPowerDown s = .next s) ∧
    (let u : State := if s.power.fuseOpen = true then s else
        { s with power := { s.power with inputLost := false, steady := true, input := s.power.input &&& ~~~(fld 1 48) } }
      let boots := g.state = .aux ∧ u.power.inputLost = false ∧ s.autoBootOn = true;
      (boots → exec .autoBoot s = .next (u.startBoot false)) ∧ (¬ boots → exec .autoBoot s = .next u)) ∧
    (∀ (u : State) (warm : Bool), let t := u.startBoot warm
      t.mgmt.state = .boot ∧ t.mgmt.bootStep = (if warm then 3 else 1) ∧ t.mgmt.bootFault = 0 ∧ t.mgmt.warm = warm ∧
      t.fab.bootCount = (u.fab.bootCount + 1) % 65536 ∧ t.fab.serial = u.fab.serial ∧ t.pegs = [] ∧ t.fret = 0 ∧ t.epochSet = false ∧
      t.rails = (if warm then u.rails else []) ∧ t.kiln.ledger = u.kiln.ledger ∧ t.kiln.seq = u.kiln.seq ∧
      t.kiln.meterTotal = u.kiln.meterTotal ∧ t.kiln.interval.first = (u.kiln.interval.first || !warm) ∧ t.muteList = u.muteList ∧ t.pending = u.pending ∧ t.mgmt.journal = u.mgmt.journal ∧
      t.mgmt.dynAddr = u.mgmt.dynAddr ∧ t.mgmt.image = u.mgmt.image) ∧
    (∀ i, let go := exec (.boot i) s
      let images := [(0, i.slotA), (1, i.slotB)].filter fun x => s.slotValid x.1 x.2
      let good := s.power.inputLost = false ∧ (g.warm = true ∨ s.power.steady = true)
      (g.state = .boot → g.bootFault = 0 → good →
        let a := if g.warm = true then s else (s.boot1 i).thenStep fun u => u.boot2 i
        let u := ((a.thenStep State.boot3).thenStep fun u => u.boot4 i).thenStep fun u => u.boot5 i
        (u.mgmt.bootFault ≠ 0 → go = .next (s.noted u)) ∧
        (u.mgmt.bootFault = 0 → ∃ v, enters { u with mgmt := { u.mgmt with bootStep := 6 } } .configured v ∧
          go = .next (s.noted (if (v.boot6 i).holdOn then v.boot6 i else (v.boot6 i).boot7))) ∧
        (g.warm = false → images = [] → ∃ t, fault 1 1 t ∧ go = .next (s.noted t)) ∧
        (g.warm = false → images ≠ [] → (∀ x ∈ images, s.slotContent x.1 x.2 = false) → ∃ t, fault 1 2 t ∧ go = .next (s.noted t))) ∧
      (g.state = .boot → g.bootFault ≠ 0 ∨ ¬ good → go = .next (s.noted s)) ∧
      (g.state = .configured → g.step7 = true → s.epochSet = true →
        ∃ t, enters { s with mgmt := { g with bootStep := 0 } } (runs s) t ∧ go = .next (s.noted t)) ∧
      (g.state = .configured → g.step7 = false ∨ s.epochSet = false → go = .next (s.noted s)) ∧
      (g.state ≠ .boot → g.state ≠ .configured → go = .next (s.noted s))) ∧
    (g.state = .boot → g.bootFault = 0 → ∃ t, fault g.bootStep 5 t ∧ exec .bootStepTimeout s = .next t) ∧
    (g.state ≠ .boot ∨ g.bootFault ≠ 0 → exec .bootStepTimeout s = .next s) ∧
    (∀ (sl : Slot) (m : Msg) (rest : List Request), g.state ≠ .off → g.requests = { slot := sl, msg := m } :: rest → m.rsvBad = false →
      m.payload = [] → m.length = 0 →
      let done : Reply := { status := stOK }
      let waits := s.powered = true ∧ s.recordsDone = false
      (m.opcode = 0x08 → g.state ≠ .boot ∨ g.bootFault ≠ 0 →
        let idle (x : Mailbox) : Mailbox := { x with state := .idle }
        let v : State := { s with
          mgmt := { g with requests := [], i3c := idle g.i3c, host := idle g.host, core := idle g.core, nonce := none, unlocked := false } }
        exec (.coldBoot sl m) s = .next (if waits then s.finishTags else ((v.setMailbox sl { v.mailbox sl with state := .done, buf := msgBytes (State.response m done) }).signalSlot sl 1).startBoot false)) ∧
      (m.opcode = 0x09 → s.powered = true →
        exec (.warmReset sl m) s = .next (if waits then s.finishTags else (s.startBoot true).answerHead done)) ∧
      (m.opcode = 0x0A → s.powered = true → sl ≠ .core → ∃ t, enters s.resetPackage.railsOff .aux t ∧
        exec (.powerOff sl m) s = .next (if waits then s.finishTags else t.answerHead done)) ∧
      (m.opcode = 0x0B → g.state = .configured → g.step6 = true →
        exec (.run sl m) s = .next ((if g.step7 = true then s else s.boot7).answerHead done)) ∧
      (m.opcode = 0x0C → g.state = .run ∨ g.state = .degraded → ∃ t, enters s .quiesce t ∧
        exec (.quiesce sl m) s = .next (t.answerHead done)) ∧
      (m.opcode = 0x0D → g.state = .quiesce → ∃ t, enters s (runs s) t ∧ exec (.resume sl m) s = .next (t.answerHead done)))

/-- JOURNAL_COMPACT writes the other half with one SET record for each pair in force, and no setting changes its value.
Rests on R514, R515. While 64 record spaces or more are free, the command changes nothing. Otherwise the other half
becomes the active one, with the next GENERATION, and holds records with OP 1 only, numbered on from the record before
them, no two for the same pair of KEY and INDEX. The value in force of every pair is the value that was in force
before. Nothing else of the module changes. -/
def Obligations.CompactionKeepsEverySetting : Prop :=
  ∀ (s : State),
    (s.mgmt.journal.length ≤ 262079 → exec .journalCompact s = .next s) ∧
    (262079 < s.mgmt.journal.length → ∃ t, exec .journalCompact s = .next t ∧
      t = { s with mgmt := { s.mgmt with half := 1 - s.mgmt.half, generation := s.mgmt.generation + 1,
                                         journal := t.mgmt.journal, nextRecord := t.mgmt.nextRecord } } ∧
      t.mgmt.nextRecord = s.mgmt.nextRecord + t.mgmt.journal.length ∧
      t.mgmt.journal.map (·.seq) = (List.range t.mgmt.journal.length).map (s.mgmt.nextRecord + ·) ∧
      (∀ r ∈ t.mgmt.journal, r.op = 1) ∧
      (t.mgmt.journal.map fun r => (r.key, r.index)).Nodup ∧
      (∀ key index, t.override key index = s.override key index) ∧
      (∀ key index, t.settingValue key index = s.settingValue key index))
end

