-- ==== Sys2Proof/Laws/Memory.lean ====
section
/-!
SUPPORT. Every write to memory keeps its canonical form.
-/
namespace Sys2Proof.Machine

theorem Memory.wf_cons {c : Host.Cell} {m : List Host.Cell} :
    Memory.wf (c :: m) = true ↔ c.2 ≠ memDefault ∧ Memory.wf m = true ∧ ∀ d ∈ m.head?, c.1 < d.1 := by
  cases m with
  | nil => simp [Memory.wf]
  | cons d r => simp [Memory.wf]; tauto

theorem Memory.head_write (m : List Host.Cell) (a : Nat) (v : Byte) (hm : Memory.wf m = true) :
    ∀ d ∈ (Memory.write m a v).head?, d.1 = a ∨ (∃ b ∈ m.head?, b.1 ≤ d.1) := by
  cases m with
  | nil => intro d; simp only [Memory.write]; split <;> simp; rintro rfl; simp
  | cons b r =>
    obtain ⟨b, w⟩ := b
    intro d
    have hm' := Memory.wf_cons.1 hm
    simp only [Memory.write]
    split
    · split
      · intro h; right; exact ⟨_, rfl, Nat.le_of_lt (hm'.2.2 d h)⟩
      · simp; rintro rfl; simp
    · split
      · split <;> simp
        · rintro rfl; simp
        · rintro rfl; simp
      · simp; rintro rfl; simp

theorem Memory.write_wf (m : List Host.Cell) (a : Nat) (v : Byte) (hm : Memory.wf m = true) : Memory.wf (Memory.write m a v) = true := by
  induction m with
  | nil => simp only [Memory.write]; split <;> simp_all [Memory.wf]
  | cons b r ih =>
    obtain ⟨b, w⟩ := b
    have hm' := Memory.wf_cons.1 hm
    simp only [Memory.write]
    split
    · split
      · exact hm'.2.1
      · rename_i h h2
        exact Memory.wf_cons.2 ⟨h2, hm'.2.1, by subst h; exact hm'.2.2⟩
    · split
      · split
        · exact hm
        · rename_i h1 h2 h3
          exact Memory.wf_cons.2 ⟨h3, hm, by simpa using h2⟩
      · rename_i h1 h2
        refine Memory.wf_cons.2 ⟨hm'.1, ih hm'.2.1, fun d hd => ?_⟩
        rcases Memory.head_write r a v hm'.2.1 d hd with h | ⟨c, hc, hle⟩
        · simp only; omega
        · exact Nat.lt_of_lt_of_le (hm'.2.2 c hc) hle

theorem Memory.writeList_wf (m : List Host.Cell) (a : Nat) (bs : List Byte) (hm : Memory.wf m = true) :
    Memory.wf (Memory.writeList m a bs) = true := by
  induction bs generalizing m a with
  | nil => exact hm
  | cons v vs ih => exact ih _ _ (Memory.write_wf m a v hm)

theorem Memory.filter_head {p : Host.Cell → Bool} (m : List Host.Cell) (hm : Memory.wf m = true) (a : Nat)
    (ha : ∀ d ∈ m.head?, a < d.1) : ∀ d ∈ (m.filter p).head?, a < d.1 := by
  induction m with
  | nil => simp
  | cons c m ih =>
    have h := Memory.wf_cons.1 hm
    simp only [List.filter_cons]
    split
    · simpa using ha
    · exact ih h.2.1 fun d hd => Nat.lt_trans (ha c rfl) (h.2.2 d hd)

theorem Memory.filter_wf (m : List Host.Cell) (p : Host.Cell → Bool) (hm : Memory.wf m = true) : Memory.wf (m.filter p) = true := by
  induction m with
  | nil => exact hm
  | cons c m ih =>
    have h := Memory.wf_cons.1 hm
    simp only [List.filter_cons]
    split
    · exact Memory.wf_cons.2 ⟨h.1, ih h.2.1, Memory.filter_head m h.2.1 _ h.2.2⟩
    · exact ih h.2.1

theorem Memory.wf_tail {c : Host.Cell} {m : List Host.Cell} (h : Memory.wf (c :: m) = true) : Memory.wf m = true :=
  (Memory.wf_cons.1 h).2.1

/-- Nothing is listed below the head. -/
theorem Memory.read_of_lt_head (m : List Host.Cell) (x : Nat) (h : ∀ d ∈ m.head?, x < d.1) :
    Memory.read m x = memDefault := by
  cases m with
  | nil => rfl
  | cons d r =>
    obtain ⟨b, w⟩ := d
    have hl : x < b := h _ rfl
    have hb : ¬ b = x := by omega
    simp [Memory.read, hl, hb]

theorem Memory.read_tail {b : Nat} {w : Byte} {m : List Host.Cell} (h : Memory.wf ((b, w) :: m) = true) :
    Memory.read m b = memDefault := Memory.read_of_lt_head m b (Memory.wf_cons.1 h).2.2

theorem Memory.read_below {b x : Nat} {w : Byte} {m : List Host.Cell} (h : Memory.wf ((b, w) :: m) = true) (hx : x < b) :
    Memory.read m x = memDefault :=
  Memory.read_of_lt_head m x fun d hd => Nat.lt_trans hx ((Memory.wf_cons.1 h).2.2 d hd)

end Sys2Proof.Machine
end

