-- ==== Sys2Proof/Laws/State.lean ====
section
/-!
SUPPORT. What the plain updates of the state leave and change, one lemma for each field of each update, and the laws of
maps, registers, units held in maps and memory bytes.
-/
namespace Sys2Proof

/-! ### Maps -/

namespace Map

variable {κ α : Type} [DecidableEq κ]

theorem find_erase_ne (m : Map κ α) {k j : κ} (h : j ≠ k) : (m.erase k).find j = m.find j := by
  induction m with
  | nil => rfl
  | cons p m ih =>
    obtain ⟨i, v⟩ := p
    by_cases hk : i = k
    · subst hk
      have hj : ¬ i = j := fun e => h e.symm
      simp [erase, find, ih, hj]
    · by_cases hj : i = j
      · subst hj; simp [erase, find, hk]
      · simp [erase, find, ih, hk, hj]

@[simp] theorem find_erase_self (m : Map κ α) (k : κ) : (m.erase k).find k = none := by
  induction m with
  | nil => rfl
  | cons p m ih =>
    obtain ⟨i, v⟩ := p
    by_cases hk : i = k
    · simp [erase, hk, ih]
    · simp [erase, find, hk, ih]

@[simp] theorem find_set_self (m : Map κ α) (k : κ) (v : α) : (m.set k v).find k = some v := by simp [set, find]

theorem find_set_ne (m : Map κ α) {k j : κ} (v : α) (h : j ≠ k) : (m.set k v).find j = m.find j := by
  have hj : ¬ k = j := fun e => h e.symm
  simp [set, find, hj, find_erase_ne m h]

@[simp] theorem get_set_self (m : Map κ α) (d : α) (k : κ) (v : α) : (m.set k v).get d k = v := by simp [get]

theorem get_set_ne (m : Map κ α) (d : α) {k j : κ} (v : α) (h : j ≠ k) : (m.set k v).get d j = m.get d j := by
  simp [get, find_set_ne m v h]

@[simp] theorem get_nil (d : α) (k : κ) : Map.get ([] : Map κ α) d k = d := rfl

end Map

namespace Machine

/-! ### Memory -/

theorem Memory.read_write_self (m : List Host.Cell) (a : Nat) (v : Byte) (h : Memory.wf m = true) :
    Memory.read (Memory.write m a v) a = v := by
  induction m with
  | nil => by_cases hv : v = memDefault <;> simp [Memory.write, Memory.read, hv]
  | cons c m ih =>
    obtain ⟨b, w⟩ := c
    have ht := Memory.wf_tail h
    by_cases hb : b = a
    · subst hb
      by_cases hv : v = memDefault
      · simp only [Memory.write, hv, if_true]
        exact Memory.read_tail h
      · simp [Memory.write, Memory.read, hv]
    · by_cases hlt : a < b
      · by_cases hv : v = memDefault <;> simp [Memory.write, Memory.read, hb, hlt, hv]
      · simp [Memory.write, Memory.read, hb, hlt, ih ht]

theorem Memory.read_write_ne (m : List Host.Cell) {a x : Nat} (v : Byte) (h : Memory.wf m = true) (hx : x ≠ a) :
    Memory.read (Memory.write m a v) x = Memory.read m x := by
  induction m with
  | nil =>
    have hxa : ¬ a = x := fun e => hx e.symm
    by_cases hv : v = memDefault <;> simp [Memory.write, Memory.read, hv, hxa]
  | cons c m ih =>
    obtain ⟨b, w⟩ := c
    have ht := Memory.wf_tail h
    have hxa : ¬ a = x := fun e => hx e.symm
    by_cases hb : b = a
    · subst hb
      by_cases hv : v = memDefault
      · simp only [Memory.write, hv, if_true, Memory.read, hxa, if_false]
        by_cases hlt : x < b
        · rw [if_pos hlt]; exact Memory.read_below h hlt
        · rw [if_neg hlt]
      · simp [Memory.write, Memory.read, hv, hxa]
    · by_cases hlt : a < b
      · by_cases hv : v = memDefault
        · simp [Memory.write, hb, hlt, hv]
        · simp only [Memory.write, hb, hlt, hv, if_true, if_false, Memory.read, hxa]
          by_cases hxl : x < a
          · have : x < b := by omega
            have hbx : ¬ b = x := by omega
            simp [hxl, this, hbx]
          · simp [hxl]
      · simp only [Memory.write, hb, hlt, if_false, Memory.read, ih ht]

theorem Memory.read_writeList_out (bs : List Byte) (m : List Host.Cell) {a x : Nat} (h : Memory.wf m = true)
    (hx : x < a ∨ a + bs.length ≤ x) : Memory.read (Memory.writeList m a bs) x = Memory.read m x := by
  induction bs generalizing m a with
  | nil => rfl
  | cons b bs ih =>
    have hl : (b :: bs).length = bs.length + 1 := rfl
    rw [hl] at hx
    have h1 : x < a + 1 ∨ a + 1 + bs.length ≤ x := by omega
    have h2 : x ≠ a := by omega
    rw [Memory.writeList, ih _ (Memory.write_wf m a b h) h1, Memory.read_write_ne m b h h2]

namespace State

/-! ### setReg -/

@[simp] theorem setReg_pending (s : State) (g : Reg) (v : W64) : (s.setReg g v).pending = s.pending := rfl
@[simp] theorem setReg_patCache (s : State) (g : Reg) (v : W64) : (s.setReg g v).patCache = s.patCache := rfl
@[simp] theorem setReg_rbqCache (s : State) (g : Reg) (v : W64) : (s.setReg g v).rbqCache = s.rbqCache := rfl
@[simp] theorem setReg_nocHeld (s : State) (g : Reg) (v : W64) : (s.setReg g v).nocHeld = s.nocHeld := rfl
@[simp] theorem setReg_dirOrder (s : State) (g : Reg) (v : W64) : (s.setReg g v).dirOrder = s.dirOrder := rfl
@[simp] theorem setReg_slcDirty (s : State) (g : Reg) (v : W64) : (s.setReg g v).slcDirty = s.slcDirty := rfl
@[simp] theorem setReg_icache (s : State) (g : Reg) (v : W64) : (s.setReg g v).icache = s.icache := rfl
@[simp] theorem setReg_gsCache (s : State) (g : Reg) (v : W64) : (s.setReg g v).gsCache = s.gsCache := rfl
@[simp] theorem setReg_carried (s : State) (g : Reg) (v : W64) : (s.setReg g v).carried = s.carried := rfl
@[simp] theorem setReg_arb (s : State) (g : Reg) (v : W64) : (s.setReg g v).arb = s.arb := rfl
@[simp] theorem setReg_hostIn (s : State) (g : Reg) (v : W64) : (s.setReg g v).hostIn = s.hostIn := rfl
@[simp] theorem setReg_regs (s : State) (g : Reg) (v : W64) : (s.setReg g v).regs = s.regs.set g v := rfl
@[simp] theorem setReg_mem (s : State) (g : Reg) (v : W64) : (s.setReg g v).mem = s.mem := rfl
@[simp] theorem setReg_poison (s : State) (g : Reg) (v : W64) : (s.setReg g v).poison = s.poison := rfl
@[simp] theorem setReg_freeCount (s : State) (g : Reg) (v : W64) : (s.setReg g v).freeCount = s.freeCount := rfl
@[simp] theorem setReg_errLog (s : State) (g : Reg) (v : W64) : (s.setReg g v).errLog = s.errLog := rfl
@[simp] theorem setReg_fret (s : State) (g : Reg) (v : W64) : (s.setReg g v).fret = s.fret := rfl
@[simp] theorem setReg_phaseNs (s : State) (g : Reg) (v : W64) : (s.setReg g v).phaseNs = s.phaseNs := rfl
@[simp] theorem setReg_period (s : State) (g : Reg) (v : W64) : (s.setReg g v).period = s.period := rfl
@[simp] theorem setReg_epochSet (s : State) (g : Reg) (v : W64) : (s.setReg g v).epochSet = s.epochSet := rfl
@[simp] theorem setReg_localEpoch (s : State) (g : Reg) (v : W64) : (s.setReg g v).localEpoch = s.localEpoch := rfl
@[simp] theorem setReg_lostRegions (s : State) (g : Reg) (v : W64) : (s.setReg g v).lostRegions = s.lostRegions := rfl
@[simp] theorem setReg_master (s : State) (g : Reg) (v : W64) : (s.setReg g v).master = s.master := rfl
@[simp] theorem setReg_strictScope (s : State) (g : Reg) (v : W64) : (s.setReg g v).strictScope = s.strictScope := rfl
@[simp] theorem setReg_moduleId (s : State) (g : Reg) (v : W64) : (s.setReg g v).moduleId = s.moduleId := rfl
@[simp] theorem setReg_dies (s : State) (g : Reg) (v : W64) : (s.setReg g v).dies = s.dies := rfl
@[simp] theorem setReg_blocks (s : State) (g : Reg) (v : W64) : (s.setReg g v).blocks = s.blocks := rfl
@[simp] theorem setReg_evidence (s : State) (g : Reg) (v : W64) : (s.setReg g v).evidence = s.evidence := rfl
@[simp] theorem setReg_muteList (s : State) (g : Reg) (v : W64) : (s.setReg g v).muteList = s.muteList := rfl
@[simp] theorem setReg_caches (s : State) (g : Reg) (v : W64) : (s.setReg g v).caches = s.caches := rfl
@[simp] theorem setReg_evicting (s : State) (g : Reg) (v : W64) : (s.setReg g v).evicting = s.evicting := rfl
@[simp] theorem setReg_dir (s : State) (g : Reg) (v : W64) : (s.setReg g v).dir = s.dir := rfl
@[simp] theorem setReg_slc (s : State) (g : Reg) (v : W64) : (s.setReg g v).slc = s.slc := rfl
@[simp] theorem setReg_txns (s : State) (g : Reg) (v : W64) : (s.setReg g v).txns = s.txns := rfl
@[simp] theorem setReg_retries (s : State) (g : Reg) (v : W64) : (s.setReg g v).retries = s.retries := rfl
@[simp] theorem setReg_engineData (s : State) (g : Reg) (v : W64) : (s.setReg g v).engineData = s.engineData := rfl
@[simp] theorem setReg_initDone (s : State) (g : Reg) (v : W64) : (s.setReg g v).initDone = s.initDone := rfl
@[simp] theorem setReg_scrubbing (s : State) (g : Reg) (v : W64) : (s.setReg g v).scrubbing = s.scrubbing := rfl
@[simp] theorem setReg_hbm (s : State) (g : Reg) (v : W64) : (s.setReg g v).hbm = s.hbm := rfl
@[simp] theorem setReg_lpd (s : State) (g : Reg) (v : W64) : (s.setReg g v).lpd = s.lpd := rfl
@[simp] theorem setReg_groups (s : State) (g : Reg) (v : W64) : (s.setReg g v).groups = s.groups := rfl
@[simp] theorem setReg_headerGib (s : State) (g : Reg) (v : W64) : (s.setReg g v).headerGib = s.headerGib := rfl
@[simp] theorem setReg_pat (s : State) (g : Reg) (v : W64) : (s.setReg g v).pat = s.pat := rfl
@[simp] theorem setReg_reserved (s : State) (g : Reg) (v : W64) : (s.setReg g v).reserved = s.reserved := rfl
@[simp] theorem setReg_pegs (s : State) (g : Reg) (v : W64) : (s.setReg g v).pegs = s.pegs := rfl
@[simp] theorem setReg_casExp (s : State) (g : Reg) (v : W64) : (s.setReg g v).casExp = s.casExp := rfl
@[simp] theorem setReg_watches (s : State) (g : Reg) (v : W64) : (s.setReg g v).watches = s.watches := rfl
@[simp] theorem setReg_gens (s : State) (g : Reg) (v : W64) : (s.setReg g v).gens = s.gens := rfl
@[simp] theorem setReg_fired (s : State) (g : Reg) (v : W64) : (s.setReg g v).fired = s.fired := rfl
@[simp] theorem setReg_heldEvents (s : State) (g : Reg) (v : W64) : (s.setReg g v).heldEvents = s.heldEvents := rfl
@[simp] theorem setReg_eventQ (s : State) (g : Reg) (v : W64) : (s.setReg g v).eventQ = s.eventQ := rfl
@[simp] theorem setReg_arms (s : State) (g : Reg) (v : W64) : (s.setReg g v).arms = s.arms := rfl
@[simp] theorem setReg_harts (s : State) (g : Reg) (v : W64) : (s.setReg g v).harts = s.harts := rfl
@[simp] theorem setReg_coresOn (s : State) (g : Reg) (v : W64) : (s.setReg g v).coresOn = s.coresOn := rfl
@[simp] theorem setReg_out (s : State) (g : Reg) (v : W64) : (s.setReg g v).out = s.out := rfl
@[simp] theorem setReg_nextTag (s : State) (g : Reg) (v : W64) : (s.setReg g v).nextTag = s.nextTag := rfl
@[simp] theorem setReg_answers (s : State) (g : Reg) (v : W64) : (s.setReg g v).answers = s.answers := rfl
@[simp] theorem setReg_dma (s : State) (g : Reg) (v : W64) : (s.setReg g v).dma = s.dma := rfl
@[simp] theorem setReg_rbq (s : State) (g : Reg) (v : W64) : (s.setReg g v).rbq = s.rbq := rfl
@[simp] theorem setReg_outbox (s : State) (g : Reg) (v : W64) : (s.setReg g v).outbox = s.outbox := rfl
@[simp] theorem setReg_hostPorts (s : State) (g : Reg) (v : W64) : (s.setReg g v).hostPorts = s.hostPorts := rfl
@[simp] theorem setReg_hostLog (s : State) (g : Reg) (v : W64) : (s.setReg g v).hostLog = s.hostLog := rfl
@[simp] theorem setReg_fabLog (s : State) (g : Reg) (v : W64) : (s.setReg g v).fabLog = s.fabLog := rfl
@[simp] theorem setReg_ports (s : State) (g : Reg) (v : W64) : (s.setReg g v).ports = s.ports := rfl
@[simp] theorem setReg_fab (s : State) (g : Reg) (v : W64) : (s.setReg g v).fab = s.fab := rfl
@[simp] theorem setReg_time (s : State) (g : Reg) (v : W64) : (s.setReg g v).time = s.time := rfl
@[simp] theorem setReg_slot (s : State) (g : Reg) (v : W64) : (s.setReg g v).slot = s.slot := rfl
@[simp] theorem setReg_colls (s : State) (g : Reg) (v : W64) : (s.setReg g v).colls = s.colls := rfl
@[simp] theorem setReg_kiln (s : State) (g : Reg) (v : W64) : (s.setReg g v).kiln = s.kiln := rfl
@[simp] theorem setReg_inbox (s : State) (g : Reg) (v : W64) : (s.setReg g v).inbox = s.inbox := rfl
@[simp] theorem setReg_reachable (s : State) (g : Reg) (v : W64) : (s.setReg g v).reachable = s.reachable := rfl
@[simp] theorem setReg_iommuRoots (s : State) (g : Reg) (v : W64) : (s.setReg g v).iommuRoots = s.iommuRoots := rfl
@[simp] theorem setReg_maintLast (s : State) (g : Reg) (v : W64) : (s.setReg g v).maintLast = s.maintLast := rfl
@[simp] theorem setReg_maintNext (s : State) (g : Reg) (v : W64) : (s.setReg g v).maintNext = s.maintNext := rfl
@[simp] theorem setReg_checking (s : State) (g : Reg) (v : W64) : (s.setReg g v).checking = s.checking := rfl
@[simp] theorem setReg_patBusy (s : State) (g : Reg) (v : W64) : (s.setReg g v).patBusy = s.patBusy := rfl
@[simp] theorem setReg_regNext (s : State) (g : Reg) (v : W64) : (s.setReg g v).regNext = s.regNext := rfl
@[simp] theorem setReg_buckets (s : State) (g : Reg) (v : W64) : (s.setReg g v).buckets = s.buckets := rfl
@[simp] theorem setReg_markNs (s : State) (g : Reg) (v : W64) : (s.setReg g v).markNs = s.markNs := rfl
@[simp] theorem setReg_rails (s : State) (g : Reg) (v : W64) : (s.setReg g v).rails = s.rails := rfl
@[simp] theorem setReg_domains (s : State) (g : Reg) (v : W64) : (s.setReg g v).domains = s.domains := rfl
@[simp] theorem setReg_power (s : State) (g : Reg) (v : W64) : (s.setReg g v).power = s.power := rfl
@[simp] theorem setReg_links (s : State) (g : Reg) (v : W64) : (s.setReg g v).links = s.links := rfl
@[simp] theorem setReg_thirds (s : State) (g : Reg) (v : W64) : (s.setReg g v).thirds = s.thirds := rfl
@[simp] theorem setReg_packs (s : State) (g : Reg) (v : W64) : (s.setReg g v).packs = s.packs := rfl
@[simp] theorem setReg_mgmt (s : State) (g : Reg) (v : W64) : (s.setReg g v).mgmt = s.mgmt := rfl

/-! ### bump -/

@[simp] theorem bump_pending (s : State) (g : Reg) (n : Nat) : (s.bump g n).pending = s.pending := rfl
@[simp] theorem bump_patCache (s : State) (g : Reg) (n : Nat) : (s.bump g n).patCache = s.patCache := rfl
@[simp] theorem bump_rbqCache (s : State) (g : Reg) (n : Nat) : (s.bump g n).rbqCache = s.rbqCache := rfl
@[simp] theorem bump_nocHeld (s : State) (g : Reg) (n : Nat) : (s.bump g n).nocHeld = s.nocHeld := rfl
@[simp] theorem bump_dirOrder (s : State) (g : Reg) (n : Nat) : (s.bump g n).dirOrder = s.dirOrder := rfl
@[simp] theorem bump_slcDirty (s : State) (g : Reg) (n : Nat) : (s.bump g n).slcDirty = s.slcDirty := rfl
@[simp] theorem bump_icache (s : State) (g : Reg) (n : Nat) : (s.bump g n).icache = s.icache := rfl
@[simp] theorem bump_gsCache (s : State) (g : Reg) (n : Nat) : (s.bump g n).gsCache = s.gsCache := rfl
@[simp] theorem bump_carried (s : State) (g : Reg) (n : Nat) : (s.bump g n).carried = s.carried := rfl
@[simp] theorem bump_arb (s : State) (g : Reg) (n : Nat) : (s.bump g n).arb = s.arb := rfl
@[simp] theorem bump_hostIn (s : State) (g : Reg) (n : Nat) : (s.bump g n).hostIn = s.hostIn := rfl
@[simp] theorem bump_regs (s : State) (g : Reg) (n : Nat) : (s.bump g n).regs = s.regs.set g (s.reg g + w64 n) := rfl
@[simp] theorem bump_mem (s : State) (g : Reg) (n : Nat) : (s.bump g n).mem = s.mem := rfl
@[simp] theorem bump_poison (s : State) (g : Reg) (n : Nat) : (s.bump g n).poison = s.poison := rfl
@[simp] theorem bump_freeCount (s : State) (g : Reg) (n : Nat) : (s.bump g n).freeCount = s.freeCount := rfl
@[simp] theorem bump_errLog (s : State) (g : Reg) (n : Nat) : (s.bump g n).errLog = s.errLog := rfl
@[simp] theorem bump_fret (s : State) (g : Reg) (n : Nat) : (s.bump g n).fret = s.fret := rfl
@[simp] theorem bump_phaseNs (s : State) (g : Reg) (n : Nat) : (s.bump g n).phaseNs = s.phaseNs := rfl
@[simp] theorem bump_period (s : State) (g : Reg) (n : Nat) : (s.bump g n).period = s.period := rfl
@[simp] theorem bump_epochSet (s : State) (g : Reg) (n : Nat) : (s.bump g n).epochSet = s.epochSet := rfl
@[simp] theorem bump_localEpoch (s : State) (g : Reg) (n : Nat) : (s.bump g n).localEpoch = s.localEpoch := rfl
@[simp] theorem bump_lostRegions (s : State) (g : Reg) (n : Nat) : (s.bump g n).lostRegions = s.lostRegions := rfl
@[simp] theorem bump_master (s : State) (g : Reg) (n : Nat) : (s.bump g n).master = s.master := rfl
@[simp] theorem bump_strictScope (s : State) (g : Reg) (n : Nat) : (s.bump g n).strictScope = s.strictScope := rfl
@[simp] theorem bump_moduleId (s : State) (g : Reg) (n : Nat) : (s.bump g n).moduleId = s.moduleId := rfl
@[simp] theorem bump_dies (s : State) (g : Reg) (n : Nat) : (s.bump g n).dies = s.dies := rfl
@[simp] theorem bump_blocks (s : State) (g : Reg) (n : Nat) : (s.bump g n).blocks = s.blocks := rfl
@[simp] theorem bump_evidence (s : State) (g : Reg) (n : Nat) : (s.bump g n).evidence = s.evidence := rfl
@[simp] theorem bump_muteList (s : State) (g : Reg) (n : Nat) : (s.bump g n).muteList = s.muteList := rfl
@[simp] theorem bump_caches (s : State) (g : Reg) (n : Nat) : (s.bump g n).caches = s.caches := rfl
@[simp] theorem bump_evicting (s : State) (g : Reg) (n : Nat) : (s.bump g n).evicting = s.evicting := rfl
@[simp] theorem bump_dir (s : State) (g : Reg) (n : Nat) : (s.bump g n).dir = s.dir := rfl
@[simp] theorem bump_slc (s : State) (g : Reg) (n : Nat) : (s.bump g n).slc = s.slc := rfl
@[simp] theorem bump_txns (s : State) (g : Reg) (n : Nat) : (s.bump g n).txns = s.txns := rfl
@[simp] theorem bump_retries (s : State) (g : Reg) (n : Nat) : (s.bump g n).retries = s.retries := rfl
@[simp] theorem bump_engineData (s : State) (g : Reg) (n : Nat) : (s.bump g n).engineData = s.engineData := rfl
@[simp] theorem bump_initDone (s : State) (g : Reg) (n : Nat) : (s.bump g n).initDone = s.initDone := rfl
@[simp] theorem bump_scrubbing (s : State) (g : Reg) (n : Nat) : (s.bump g n).scrubbing = s.scrubbing := rfl
@[simp] theorem bump_hbm (s : State) (g : Reg) (n : Nat) : (s.bump g n).hbm = s.hbm := rfl
@[simp] theorem bump_lpd (s : State) (g : Reg) (n : Nat) : (s.bump g n).lpd = s.lpd := rfl
@[simp] theorem bump_groups (s : State) (g : Reg) (n : Nat) : (s.bump g n).groups = s.groups := rfl
@[simp] theorem bump_headerGib (s : State) (g : Reg) (n : Nat) : (s.bump g n).headerGib = s.headerGib := rfl
@[simp] theorem bump_pat (s : State) (g : Reg) (n : Nat) : (s.bump g n).pat = s.pat := rfl
@[simp] theorem bump_reserved (s : State) (g : Reg) (n : Nat) : (s.bump g n).reserved = s.reserved := rfl
@[simp] theorem bump_pegs (s : State) (g : Reg) (n : Nat) : (s.bump g n).pegs = s.pegs := rfl
@[simp] theorem bump_casExp (s : State) (g : Reg) (n : Nat) : (s.bump g n).casExp = s.casExp := rfl
@[simp] theorem bump_watches (s : State) (g : Reg) (n : Nat) : (s.bump g n).watches = s.watches := rfl
@[simp] theorem bump_gens (s : State) (g : Reg) (n : Nat) : (s.bump g n).gens = s.gens := rfl
@[simp] theorem bump_fired (s : State) (g : Reg) (n : Nat) : (s.bump g n).fired = s.fired := rfl
@[simp] theorem bump_heldEvents (s : State) (g : Reg) (n : Nat) : (s.bump g n).heldEvents = s.heldEvents := rfl
@[simp] theorem bump_eventQ (s : State) (g : Reg) (n : Nat) : (s.bump g n).eventQ = s.eventQ := rfl
@[simp] theorem bump_arms (s : State) (g : Reg) (n : Nat) : (s.bump g n).arms = s.arms := rfl
@[simp] theorem bump_harts (s : State) (g : Reg) (n : Nat) : (s.bump g n).harts = s.harts := rfl
@[simp] theorem bump_coresOn (s : State) (g : Reg) (n : Nat) : (s.bump g n).coresOn = s.coresOn := rfl
@[simp] theorem bump_out (s : State) (g : Reg) (n : Nat) : (s.bump g n).out = s.out := rfl
@[simp] theorem bump_nextTag (s : State) (g : Reg) (n : Nat) : (s.bump g n).nextTag = s.nextTag := rfl
@[simp] theorem bump_answers (s : State) (g : Reg) (n : Nat) : (s.bump g n).answers = s.answers := rfl
@[simp] theorem bump_dma (s : State) (g : Reg) (n : Nat) : (s.bump g n).dma = s.dma := rfl
@[simp] theorem bump_rbq (s : State) (g : Reg) (n : Nat) : (s.bump g n).rbq = s.rbq := rfl
@[simp] theorem bump_outbox (s : State) (g : Reg) (n : Nat) : (s.bump g n).outbox = s.outbox := rfl
@[simp] theorem bump_hostPorts (s : State) (g : Reg) (n : Nat) : (s.bump g n).hostPorts = s.hostPorts := rfl
@[simp] theorem bump_hostLog (s : State) (g : Reg) (n : Nat) : (s.bump g n).hostLog = s.hostLog := rfl
@[simp] theorem bump_fabLog (s : State) (g : Reg) (n : Nat) : (s.bump g n).fabLog = s.fabLog := rfl
@[simp] theorem bump_ports (s : State) (g : Reg) (n : Nat) : (s.bump g n).ports = s.ports := rfl
@[simp] theorem bump_fab (s : State) (g : Reg) (n : Nat) : (s.bump g n).fab = s.fab := rfl
@[simp] theorem bump_time (s : State) (g : Reg) (n : Nat) : (s.bump g n).time = s.time := rfl
@[simp] theorem bump_slot (s : State) (g : Reg) (n : Nat) : (s.bump g n).slot = s.slot := rfl
@[simp] theorem bump_colls (s : State) (g : Reg) (n : Nat) : (s.bump g n).colls = s.colls := rfl
@[simp] theorem bump_kiln (s : State) (g : Reg) (n : Nat) : (s.bump g n).kiln = s.kiln := rfl
@[simp] theorem bump_inbox (s : State) (g : Reg) (n : Nat) : (s.bump g n).inbox = s.inbox := rfl
@[simp] theorem bump_reachable (s : State) (g : Reg) (n : Nat) : (s.bump g n).reachable = s.reachable := rfl
@[simp] theorem bump_iommuRoots (s : State) (g : Reg) (n : Nat) : (s.bump g n).iommuRoots = s.iommuRoots := rfl
@[simp] theorem bump_maintLast (s : State) (g : Reg) (n : Nat) : (s.bump g n).maintLast = s.maintLast := rfl
@[simp] theorem bump_maintNext (s : State) (g : Reg) (n : Nat) : (s.bump g n).maintNext = s.maintNext := rfl
@[simp] theorem bump_checking (s : State) (g : Reg) (n : Nat) : (s.bump g n).checking = s.checking := rfl
@[simp] theorem bump_patBusy (s : State) (g : Reg) (n : Nat) : (s.bump g n).patBusy = s.patBusy := rfl
@[simp] theorem bump_regNext (s : State) (g : Reg) (n : Nat) : (s.bump g n).regNext = s.regNext := rfl
@[simp] theorem bump_buckets (s : State) (g : Reg) (n : Nat) : (s.bump g n).buckets = s.buckets := rfl
@[simp] theorem bump_markNs (s : State) (g : Reg) (n : Nat) : (s.bump g n).markNs = s.markNs := rfl
@[simp] theorem bump_rails (s : State) (g : Reg) (n : Nat) : (s.bump g n).rails = s.rails := rfl
@[simp] theorem bump_domains (s : State) (g : Reg) (n : Nat) : (s.bump g n).domains = s.domains := rfl
@[simp] theorem bump_power (s : State) (g : Reg) (n : Nat) : (s.bump g n).power = s.power := rfl
@[simp] theorem bump_links (s : State) (g : Reg) (n : Nat) : (s.bump g n).links = s.links := rfl
@[simp] theorem bump_thirds (s : State) (g : Reg) (n : Nat) : (s.bump g n).thirds = s.thirds := rfl
@[simp] theorem bump_packs (s : State) (g : Reg) (n : Nat) : (s.bump g n).packs = s.packs := rfl
@[simp] theorem bump_mgmt (s : State) (g : Reg) (n : Nat) : (s.bump g n).mgmt = s.mgmt := rfl

/-! ### wrBytes -/

@[simp] theorem wrBytes_pending (s : State) (a : Nat) (bs : List Byte) : (s.wrBytes a bs).pending = s.pending := rfl
@[simp] theorem wrBytes_patCache (s : State) (a : Nat) (bs : List Byte) : (s.wrBytes a bs).patCache = s.patCache := rfl
@[simp] theorem wrBytes_rbqCache (s : State) (a : Nat) (bs : List Byte) : (s.wrBytes a bs).rbqCache = s.rbqCache := rfl
@[simp] theorem wrBytes_nocHeld (s : State) (a : Nat) (bs : List Byte) : (s.wrBytes a bs).nocHeld = s.nocHeld := rfl
@[simp] theorem wrBytes_dirOrder (s : State) (a : Nat) (bs : List Byte) : (s.wrBytes a bs).dirOrder = s.dirOrder := rfl
@[simp] theorem wrBytes_slcDirty (s : State) (a : Nat) (bs : List Byte) : (s.wrBytes a bs).slcDirty = s.slcDirty := rfl
@[simp] theorem wrBytes_icache (s : State) (a : Nat) (bs : List Byte) : (s.wrBytes a bs).icache = s.icache := rfl
@[simp] theorem wrBytes_gsCache (s : State) (a : Nat) (bs : List Byte) : (s.wrBytes a bs).gsCache = s.gsCache := rfl
@[simp] theorem wrBytes_carried (s : State) (a : Nat) (bs : List Byte) : (s.wrBytes a bs).carried = s.carried := rfl
@[simp] theorem wrBytes_arb (s : State) (a : Nat) (bs : List Byte) : (s.wrBytes a bs).arb = s.arb := rfl
@[simp] theorem wrBytes_hostIn (s : State) (a : Nat) (bs : List Byte) : (s.wrBytes a bs).hostIn = s.hostIn := rfl
@[simp] theorem wrBytes_regs (s : State) (a : Nat) (bs : List Byte) : (s.wrBytes a bs).regs = s.regs := rfl
@[simp] theorem wrBytes_mem (s : State) (a : Nat) (bs : List Byte) :
    (s.wrBytes a bs).mem = Memory.writeList s.mem a bs := rfl
@[simp] theorem wrBytes_poison (s : State) (a : Nat) (bs : List Byte) :
    (s.wrBytes a bs).poison = s.poison.filter fun w => !(wholeWords a bs.length).contains w := rfl
@[simp] theorem wrBytes_freeCount (s : State) (a : Nat) (bs : List Byte) :
    (s.wrBytes a bs).freeCount = s.freeCount := rfl
@[simp] theorem wrBytes_errLog (s : State) (a : Nat) (bs : List Byte) : (s.wrBytes a bs).errLog = s.errLog := rfl
@[simp] theorem wrBytes_fret (s : State) (a : Nat) (bs : List Byte) : (s.wrBytes a bs).fret = s.fret := rfl
@[simp] theorem wrBytes_phaseNs (s : State) (a : Nat) (bs : List Byte) : (s.wrBytes a bs).phaseNs = s.phaseNs := rfl
@[simp] theorem wrBytes_period (s : State) (a : Nat) (bs : List Byte) : (s.wrBytes a bs).period = s.period := rfl
@[simp] theorem wrBytes_epochSet (s : State) (a : Nat) (bs : List Byte) :
    (s.wrBytes a bs).epochSet = s.epochSet := rfl
@[simp] theorem wrBytes_localEpoch (s : State) (a : Nat) (bs : List Byte) :
    (s.wrBytes a bs).localEpoch = s.localEpoch := rfl
@[simp] theorem wrBytes_lostRegions (s : State) (a : Nat) (bs : List Byte) :
    (s.wrBytes a bs).lostRegions = s.lostRegions := rfl
@[simp] theorem wrBytes_master (s : State) (a : Nat) (bs : List Byte) : (s.wrBytes a bs).master = s.master := rfl
@[simp] theorem wrBytes_strictScope (s : State) (a : Nat) (bs : List Byte) :
    (s.wrBytes a bs).strictScope = s.strictScope := rfl
@[simp] theorem wrBytes_moduleId (s : State) (a : Nat) (bs : List Byte) :
    (s.wrBytes a bs).moduleId = s.moduleId := rfl
@[simp] theorem wrBytes_dies (s : State) (a : Nat) (bs : List Byte) : (s.wrBytes a bs).dies = s.dies := rfl
@[simp] theorem wrBytes_blocks (s : State) (a : Nat) (bs : List Byte) : (s.wrBytes a bs).blocks = s.blocks := rfl
@[simp] theorem wrBytes_evidence (s : State) (a : Nat) (bs : List Byte) :
    (s.wrBytes a bs).evidence = s.evidence := rfl
@[simp] theorem wrBytes_muteList (s : State) (a : Nat) (bs : List Byte) :
    (s.wrBytes a bs).muteList = s.muteList := rfl
@[simp] theorem wrBytes_caches (s : State) (a : Nat) (bs : List Byte) : (s.wrBytes a bs).caches = s.caches := rfl
@[simp] theorem wrBytes_evicting (s : State) (a : Nat) (bs : List Byte) :
    (s.wrBytes a bs).evicting = s.evicting := rfl
@[simp] theorem wrBytes_dir (s : State) (a : Nat) (bs : List Byte) : (s.wrBytes a bs).dir = s.dir := rfl
@[simp] theorem wrBytes_slc (s : State) (a : Nat) (bs : List Byte) : (s.wrBytes a bs).slc = s.slc := rfl
@[simp] theorem wrBytes_txns (s : State) (a : Nat) (bs : List Byte) : (s.wrBytes a bs).txns = s.txns := rfl
@[simp] theorem wrBytes_retries (s : State) (a : Nat) (bs : List Byte) : (s.wrBytes a bs).retries = s.retries := rfl
@[simp] theorem wrBytes_engineData (s : State) (a : Nat) (bs : List Byte) :
    (s.wrBytes a bs).engineData = s.engineData := rfl
@[simp] theorem wrBytes_initDone (s : State) (a : Nat) (bs : List Byte) :
    (s.wrBytes a bs).initDone = s.initDone := rfl
@[simp] theorem wrBytes_scrubbing (s : State) (a : Nat) (bs : List Byte) :
    (s.wrBytes a bs).scrubbing = s.scrubbing := rfl
@[simp] theorem wrBytes_hbm (s : State) (a : Nat) (bs : List Byte) : (s.wrBytes a bs).hbm = s.hbm := rfl
@[simp] theorem wrBytes_lpd (s : State) (a : Nat) (bs : List Byte) : (s.wrBytes a bs).lpd = s.lpd := rfl
@[simp] theorem wrBytes_groups (s : State) (a : Nat) (bs : List Byte) : (s.wrBytes a bs).groups = s.groups := rfl
@[simp] theorem wrBytes_headerGib (s : State) (a : Nat) (bs : List Byte) :
    (s.wrBytes a bs).headerGib = s.headerGib := rfl
@[simp] theorem wrBytes_pat (s : State) (a : Nat) (bs : List Byte) : (s.wrBytes a bs).pat = s.pat := rfl
@[simp] theorem wrBytes_reserved (s : State) (a : Nat) (bs : List Byte) :
    (s.wrBytes a bs).reserved = s.reserved := rfl
@[simp] theorem wrBytes_pegs (s : State) (a : Nat) (bs : List Byte) : (s.wrBytes a bs).pegs = s.pegs := rfl
@[simp] theorem wrBytes_casExp (s : State) (a : Nat) (bs : List Byte) : (s.wrBytes a bs).casExp = s.casExp := rfl
@[simp] theorem wrBytes_watches (s : State) (a : Nat) (bs : List Byte) : (s.wrBytes a bs).watches = s.watches := rfl
@[simp] theorem wrBytes_gens (s : State) (a : Nat) (bs : List Byte) : (s.wrBytes a bs).gens = s.gens := rfl
@[simp] theorem wrBytes_fired (s : State) (a : Nat) (bs : List Byte) : (s.wrBytes a bs).fired = s.fired := rfl
@[simp] theorem wrBytes_heldEvents (s : State) (a : Nat) (bs : List Byte) :
    (s.wrBytes a bs).heldEvents = s.heldEvents := rfl
@[simp] theorem wrBytes_eventQ (s : State) (a : Nat) (bs : List Byte) : (s.wrBytes a bs).eventQ = s.eventQ := rfl
@[simp] theorem wrBytes_arms (s : State) (a : Nat) (bs : List Byte) : (s.wrBytes a bs).arms = s.arms := rfl
@[simp] theorem wrBytes_harts (s : State) (a : Nat) (bs : List Byte) : (s.wrBytes a bs).harts = s.harts := rfl
@[simp] theorem wrBytes_coresOn (s : State) (a : Nat) (bs : List Byte) : (s.wrBytes a bs).coresOn = s.coresOn := rfl
@[simp] theorem wrBytes_out (s : State) (a : Nat) (bs : List Byte) : (s.wrBytes a bs).out = s.out := rfl
@[simp] theorem wrBytes_nextTag (s : State) (a : Nat) (bs : List Byte) : (s.wrBytes a bs).nextTag = s.nextTag := rfl
@[simp] theorem wrBytes_answers (s : State) (a : Nat) (bs : List Byte) : (s.wrBytes a bs).answers = s.answers := rfl
@[simp] theorem wrBytes_dma (s : State) (a : Nat) (bs : List Byte) : (s.wrBytes a bs).dma = s.dma := rfl
@[simp] theorem wrBytes_rbq (s : State) (a : Nat) (bs : List Byte) : (s.wrBytes a bs).rbq = s.rbq := rfl
@[simp] theorem wrBytes_outbox (s : State) (a : Nat) (bs : List Byte) : (s.wrBytes a bs).outbox = s.outbox := rfl
@[simp] theorem wrBytes_hostPorts (s : State) (a : Nat) (bs : List Byte) :
    (s.wrBytes a bs).hostPorts = s.hostPorts := rfl
@[simp] theorem wrBytes_hostLog (s : State) (a : Nat) (bs : List Byte) : (s.wrBytes a bs).hostLog = s.hostLog := rfl
@[simp] theorem wrBytes_fabLog (s : State) (a : Nat) (bs : List Byte) : (s.wrBytes a bs).fabLog = s.fabLog := rfl
@[simp] theorem wrBytes_ports (s : State) (a : Nat) (bs : List Byte) : (s.wrBytes a bs).ports = s.ports := rfl
@[simp] theorem wrBytes_fab (s : State) (a : Nat) (bs : List Byte) : (s.wrBytes a bs).fab = s.fab := rfl
@[simp] theorem wrBytes_time (s : State) (a : Nat) (bs : List Byte) : (s.wrBytes a bs).time = s.time := rfl
@[simp] theorem wrBytes_slot (s : State) (a : Nat) (bs : List Byte) : (s.wrBytes a bs).slot = s.slot := rfl
@[simp] theorem wrBytes_colls (s : State) (a : Nat) (bs : List Byte) : (s.wrBytes a bs).colls = s.colls := rfl
@[simp] theorem wrBytes_kiln (s : State) (a : Nat) (bs : List Byte) : (s.wrBytes a bs).kiln = s.kiln := rfl
@[simp] theorem wrBytes_inbox (s : State) (a : Nat) (bs : List Byte) : (s.wrBytes a bs).inbox = s.inbox := rfl
@[simp] theorem wrBytes_reachable (s : State) (a : Nat) (bs : List Byte) :
    (s.wrBytes a bs).reachable = s.reachable := rfl
@[simp] theorem wrBytes_iommuRoots (s : State) (a : Nat) (bs : List Byte) :
    (s.wrBytes a bs).iommuRoots = s.iommuRoots := rfl
@[simp] theorem wrBytes_maintLast (s : State) (a : Nat) (bs : List Byte) :
    (s.wrBytes a bs).maintLast = s.maintLast := rfl
@[simp] theorem wrBytes_maintNext (s : State) (a : Nat) (bs : List Byte) :
    (s.wrBytes a bs).maintNext = s.maintNext := rfl
@[simp] theorem wrBytes_checking (s : State) (a : Nat) (bs : List Byte) :
    (s.wrBytes a bs).checking = s.checking := rfl
@[simp] theorem wrBytes_patBusy (s : State) (a : Nat) (bs : List Byte) : (s.wrBytes a bs).patBusy = s.patBusy := rfl
@[simp] theorem wrBytes_regNext (s : State) (a : Nat) (bs : List Byte) : (s.wrBytes a bs).regNext = s.regNext := rfl
@[simp] theorem wrBytes_buckets (s : State) (a : Nat) (bs : List Byte) : (s.wrBytes a bs).buckets = s.buckets := rfl
@[simp] theorem wrBytes_markNs (s : State) (a : Nat) (bs : List Byte) : (s.wrBytes a bs).markNs = s.markNs := rfl
@[simp] theorem wrBytes_rails (s : State) (a : Nat) (bs : List Byte) : (s.wrBytes a bs).rails = s.rails := rfl
@[simp] theorem wrBytes_domains (s : State) (a : Nat) (bs : List Byte) : (s.wrBytes a bs).domains = s.domains := rfl
@[simp] theorem wrBytes_power (s : State) (a : Nat) (bs : List Byte) : (s.wrBytes a bs).power = s.power := rfl
@[simp] theorem wrBytes_links (s : State) (a : Nat) (bs : List Byte) : (s.wrBytes a bs).links = s.links := rfl
@[simp] theorem wrBytes_thirds (s : State) (a : Nat) (bs : List Byte) : (s.wrBytes a bs).thirds = s.thirds := rfl
@[simp] theorem wrBytes_packs (s : State) (a : Nat) (bs : List Byte) : (s.wrBytes a bs).packs = s.packs := rfl
@[simp] theorem wrBytes_mgmt (s : State) (a : Nat) (bs : List Byte) : (s.wrBytes a bs).mgmt = s.mgmt := rfl

/-! ### wrNat -/

@[simp] theorem wrNat_pending (s : State) (a n v : Nat) : (s.wrNat a n v).pending = s.pending := rfl
@[simp] theorem wrNat_patCache (s : State) (a n v : Nat) : (s.wrNat a n v).patCache = s.patCache := rfl
@[simp] theorem wrNat_rbqCache (s : State) (a n v : Nat) : (s.wrNat a n v).rbqCache = s.rbqCache := rfl
@[simp] theorem wrNat_nocHeld (s : State) (a n v : Nat) : (s.wrNat a n v).nocHeld = s.nocHeld := rfl
@[simp] theorem wrNat_dirOrder (s : State) (a n v : Nat) : (s.wrNat a n v).dirOrder = s.dirOrder := rfl
@[simp] theorem wrNat_slcDirty (s : State) (a n v : Nat) : (s.wrNat a n v).slcDirty = s.slcDirty := rfl
@[simp] theorem wrNat_icache (s : State) (a n v : Nat) : (s.wrNat a n v).icache = s.icache := rfl
@[simp] theorem wrNat_gsCache (s : State) (a n v : Nat) : (s.wrNat a n v).gsCache = s.gsCache := rfl
@[simp] theorem wrNat_carried (s : State) (a n v : Nat) : (s.wrNat a n v).carried = s.carried := rfl
@[simp] theorem wrNat_arb (s : State) (a n v : Nat) : (s.wrNat a n v).arb = s.arb := rfl
@[simp] theorem wrNat_hostIn (s : State) (a n v : Nat) : (s.wrNat a n v).hostIn = s.hostIn := rfl
@[simp] theorem wrNat_regs (s : State) (a n v : Nat) : (s.wrNat a n v).regs = s.regs := rfl
@[simp] theorem wrNat_mem (s : State) (a n v : Nat) :
    (s.wrNat a n v).mem = Memory.writeList s.mem a (leBytes n v) := rfl
@[simp] theorem wrNat_poison (s : State) (a n v : Nat) :
    (s.wrNat a n v).poison = s.poison.filter fun w => !(wholeWords a (leBytes n v).length).contains w := rfl
@[simp] theorem wrNat_freeCount (s : State) (a n v : Nat) : (s.wrNat a n v).freeCount = s.freeCount := rfl
@[simp] theorem wrNat_errLog (s : State) (a n v : Nat) : (s.wrNat a n v).errLog = s.errLog := rfl
@[simp] theorem wrNat_fret (s : State) (a n v : Nat) : (s.wrNat a n v).fret = s.fret := rfl
@[simp] theorem wrNat_phaseNs (s : State) (a n v : Nat) : (s.wrNat a n v).phaseNs = s.phaseNs := rfl
@[simp] theorem wrNat_period (s : State) (a n v : Nat) : (s.wrNat a n v).period = s.period := rfl
@[simp] theorem wrNat_epochSet (s : State) (a n v : Nat) : (s.wrNat a n v).epochSet = s.epochSet := rfl
@[simp] theorem wrNat_localEpoch (s : State) (a n v : Nat) : (s.wrNat a n v).localEpoch = s.localEpoch := rfl
@[simp] theorem wrNat_lostRegions (s : State) (a n v : Nat) : (s.wrNat a n v).lostRegions = s.lostRegions := rfl
@[simp] theorem wrNat_master (s : State) (a n v : Nat) : (s.wrNat a n v).master = s.master := rfl
@[simp] theorem wrNat_strictScope (s : State) (a n v : Nat) : (s.wrNat a n v).strictScope = s.strictScope := rfl
@[simp] theorem wrNat_moduleId (s : State) (a n v : Nat) : (s.wrNat a n v).moduleId = s.moduleId := rfl
@[simp] theorem wrNat_dies (s : State) (a n v : Nat) : (s.wrNat a n v).dies = s.dies := rfl
@[simp] theorem wrNat_blocks (s : State) (a n v : Nat) : (s.wrNat a n v).blocks = s.blocks := rfl
@[simp] theorem wrNat_evidence (s : State) (a n v : Nat) : (s.wrNat a n v).evidence = s.evidence := rfl
@[simp] theorem wrNat_muteList (s : State) (a n v : Nat) : (s.wrNat a n v).muteList = s.muteList := rfl
@[simp] theorem wrNat_caches (s : State) (a n v : Nat) : (s.wrNat a n v).caches = s.caches := rfl
@[simp] theorem wrNat_evicting (s : State) (a n v : Nat) : (s.wrNat a n v).evicting = s.evicting := rfl
@[simp] theorem wrNat_dir (s : State) (a n v : Nat) : (s.wrNat a n v).dir = s.dir := rfl
@[simp] theorem wrNat_slc (s : State) (a n v : Nat) : (s.wrNat a n v).slc = s.slc := rfl
@[simp] theorem wrNat_txns (s : State) (a n v : Nat) : (s.wrNat a n v).txns = s.txns := rfl
@[simp] theorem wrNat_retries (s : State) (a n v : Nat) : (s.wrNat a n v).retries = s.retries := rfl
@[simp] theorem wrNat_engineData (s : State) (a n v : Nat) : (s.wrNat a n v).engineData = s.engineData := rfl
@[simp] theorem wrNat_initDone (s : State) (a n v : Nat) : (s.wrNat a n v).initDone = s.initDone := rfl
@[simp] theorem wrNat_scrubbing (s : State) (a n v : Nat) : (s.wrNat a n v).scrubbing = s.scrubbing := rfl
@[simp] theorem wrNat_hbm (s : State) (a n v : Nat) : (s.wrNat a n v).hbm = s.hbm := rfl
@[simp] theorem wrNat_lpd (s : State) (a n v : Nat) : (s.wrNat a n v).lpd = s.lpd := rfl
@[simp] theorem wrNat_groups (s : State) (a n v : Nat) : (s.wrNat a n v).groups = s.groups := rfl
@[simp] theorem wrNat_headerGib (s : State) (a n v : Nat) : (s.wrNat a n v).headerGib = s.headerGib := rfl
@[simp] theorem wrNat_pat (s : State) (a n v : Nat) : (s.wrNat a n v).pat = s.pat := rfl
@[simp] theorem wrNat_reserved (s : State) (a n v : Nat) : (s.wrNat a n v).reserved = s.reserved := rfl
@[simp] theorem wrNat_pegs (s : State) (a n v : Nat) : (s.wrNat a n v).pegs = s.pegs := rfl
@[simp] theorem wrNat_casExp (s : State) (a n v : Nat) : (s.wrNat a n v).casExp = s.casExp := rfl
@[simp] theorem wrNat_watches (s : State) (a n v : Nat) : (s.wrNat a n v).watches = s.watches := rfl
@[simp] theorem wrNat_gens (s : State) (a n v : Nat) : (s.wrNat a n v).gens = s.gens := rfl
@[simp] theorem wrNat_fired (s : State) (a n v : Nat) : (s.wrNat a n v).fired = s.fired := rfl
@[simp] theorem wrNat_heldEvents (s : State) (a n v : Nat) : (s.wrNat a n v).heldEvents = s.heldEvents := rfl
@[simp] theorem wrNat_eventQ (s : State) (a n v : Nat) : (s.wrNat a n v).eventQ = s.eventQ := rfl
@[simp] theorem wrNat_arms (s : State) (a n v : Nat) : (s.wrNat a n v).arms = s.arms := rfl
@[simp] theorem wrNat_harts (s : State) (a n v : Nat) : (s.wrNat a n v).harts = s.harts := rfl
@[simp] theorem wrNat_coresOn (s : State) (a n v : Nat) : (s.wrNat a n v).coresOn = s.coresOn := rfl
@[simp] theorem wrNat_out (s : State) (a n v : Nat) : (s.wrNat a n v).out = s.out := rfl
@[simp] theorem wrNat_nextTag (s : State) (a n v : Nat) : (s.wrNat a n v).nextTag = s.nextTag := rfl
@[simp] theorem wrNat_answers (s : State) (a n v : Nat) : (s.wrNat a n v).answers = s.answers := rfl
@[simp] theorem wrNat_dma (s : State) (a n v : Nat) : (s.wrNat a n v).dma = s.dma := rfl
@[simp] theorem wrNat_rbq (s : State) (a n v : Nat) : (s.wrNat a n v).rbq = s.rbq := rfl
@[simp] theorem wrNat_outbox (s : State) (a n v : Nat) : (s.wrNat a n v).outbox = s.outbox := rfl
@[simp] theorem wrNat_hostPorts (s : State) (a n v : Nat) : (s.wrNat a n v).hostPorts = s.hostPorts := rfl
@[simp] theorem wrNat_hostLog (s : State) (a n v : Nat) : (s.wrNat a n v).hostLog = s.hostLog := rfl
@[simp] theorem wrNat_fabLog (s : State) (a n v : Nat) : (s.wrNat a n v).fabLog = s.fabLog := rfl
@[simp] theorem wrNat_ports (s : State) (a n v : Nat) : (s.wrNat a n v).ports = s.ports := rfl
@[simp] theorem wrNat_fab (s : State) (a n v : Nat) : (s.wrNat a n v).fab = s.fab := rfl
@[simp] theorem wrNat_time (s : State) (a n v : Nat) : (s.wrNat a n v).time = s.time := rfl
@[simp] theorem wrNat_slot (s : State) (a n v : Nat) : (s.wrNat a n v).slot = s.slot := rfl
@[simp] theorem wrNat_colls (s : State) (a n v : Nat) : (s.wrNat a n v).colls = s.colls := rfl
@[simp] theorem wrNat_kiln (s : State) (a n v : Nat) : (s.wrNat a n v).kiln = s.kiln := rfl
@[simp] theorem wrNat_inbox (s : State) (a n v : Nat) : (s.wrNat a n v).inbox = s.inbox := rfl
@[simp] theorem wrNat_reachable (s : State) (a n v : Nat) : (s.wrNat a n v).reachable = s.reachable := rfl
@[simp] theorem wrNat_iommuRoots (s : State) (a n v : Nat) : (s.wrNat a n v).iommuRoots = s.iommuRoots := rfl
@[simp] theorem wrNat_maintLast (s : State) (a n v : Nat) : (s.wrNat a n v).maintLast = s.maintLast := rfl
@[simp] theorem wrNat_maintNext (s : State) (a n v : Nat) : (s.wrNat a n v).maintNext = s.maintNext := rfl
@[simp] theorem wrNat_checking (s : State) (a n v : Nat) : (s.wrNat a n v).checking = s.checking := rfl
@[simp] theorem wrNat_patBusy (s : State) (a n v : Nat) : (s.wrNat a n v).patBusy = s.patBusy := rfl
@[simp] theorem wrNat_regNext (s : State) (a n v : Nat) : (s.wrNat a n v).regNext = s.regNext := rfl
@[simp] theorem wrNat_buckets (s : State) (a n v : Nat) : (s.wrNat a n v).buckets = s.buckets := rfl
@[simp] theorem wrNat_markNs (s : State) (a n v : Nat) : (s.wrNat a n v).markNs = s.markNs := rfl
@[simp] theorem wrNat_rails (s : State) (a n v : Nat) : (s.wrNat a n v).rails = s.rails := rfl
@[simp] theorem wrNat_domains (s : State) (a n v : Nat) : (s.wrNat a n v).domains = s.domains := rfl
@[simp] theorem wrNat_power (s : State) (a n v : Nat) : (s.wrNat a n v).power = s.power := rfl
@[simp] theorem wrNat_links (s : State) (a n v : Nat) : (s.wrNat a n v).links = s.links := rfl
@[simp] theorem wrNat_thirds (s : State) (a n v : Nat) : (s.wrNat a n v).thirds = s.thirds := rfl
@[simp] theorem wrNat_packs (s : State) (a n v : Nat) : (s.wrNat a n v).packs = s.packs := rfl
@[simp] theorem wrNat_mgmt (s : State) (a n v : Nat) : (s.wrNat a n v).mgmt = s.mgmt := rfl

/-! ### delPoison -/

@[simp] theorem delPoison_pending (s : State) (ws : List Nat) : (s.delPoison ws).pending = s.pending := rfl
@[simp] theorem delPoison_patCache (s : State) (ws : List Nat) : (s.delPoison ws).patCache = s.patCache := rfl
@[simp] theorem delPoison_rbqCache (s : State) (ws : List Nat) : (s.delPoison ws).rbqCache = s.rbqCache := rfl
@[simp] theorem delPoison_nocHeld (s : State) (ws : List Nat) : (s.delPoison ws).nocHeld = s.nocHeld := rfl
@[simp] theorem delPoison_dirOrder (s : State) (ws : List Nat) : (s.delPoison ws).dirOrder = s.dirOrder := rfl
@[simp] theorem delPoison_slcDirty (s : State) (ws : List Nat) : (s.delPoison ws).slcDirty = s.slcDirty := rfl
@[simp] theorem delPoison_icache (s : State) (ws : List Nat) : (s.delPoison ws).icache = s.icache := rfl
@[simp] theorem delPoison_gsCache (s : State) (ws : List Nat) : (s.delPoison ws).gsCache = s.gsCache := rfl
@[simp] theorem delPoison_carried (s : State) (ws : List Nat) : (s.delPoison ws).carried = s.carried := rfl
@[simp] theorem delPoison_arb (s : State) (ws : List Nat) : (s.delPoison ws).arb = s.arb := rfl
@[simp] theorem delPoison_hostIn (s : State) (ws : List Nat) : (s.delPoison ws).hostIn = s.hostIn := rfl
@[simp] theorem delPoison_regs (s : State) (ws : List Nat) : (s.delPoison ws).regs = s.regs := rfl
@[simp] theorem delPoison_mem (s : State) (ws : List Nat) : (s.delPoison ws).mem = s.mem := rfl
@[simp] theorem delPoison_poison (s : State) (ws : List Nat) :
    (s.delPoison ws).poison = s.poison.filter fun w => !ws.contains w := rfl
@[simp] theorem delPoison_freeCount (s : State) (ws : List Nat) : (s.delPoison ws).freeCount = s.freeCount := rfl
@[simp] theorem delPoison_errLog (s : State) (ws : List Nat) : (s.delPoison ws).errLog = s.errLog := rfl
@[simp] theorem delPoison_fret (s : State) (ws : List Nat) : (s.delPoison ws).fret = s.fret := rfl
@[simp] theorem delPoison_phaseNs (s : State) (ws : List Nat) : (s.delPoison ws).phaseNs = s.phaseNs := rfl
@[simp] theorem delPoison_period (s : State) (ws : List Nat) : (s.delPoison ws).period = s.period := rfl
@[simp] theorem delPoison_epochSet (s : State) (ws : List Nat) : (s.delPoison ws).epochSet = s.epochSet := rfl
@[simp] theorem delPoison_localEpoch (s : State) (ws : List Nat) : (s.delPoison ws).localEpoch = s.localEpoch := rfl
@[simp] theorem delPoison_lostRegions (s : State) (ws : List Nat) :
    (s.delPoison ws).lostRegions = s.lostRegions := rfl
@[simp] theorem delPoison_master (s : State) (ws : List Nat) : (s.delPoison ws).master = s.master := rfl
@[simp] theorem delPoison_strictScope (s : State) (ws : List Nat) :
    (s.delPoison ws).strictScope = s.strictScope := rfl
@[simp] theorem delPoison_moduleId (s : State) (ws : List Nat) : (s.delPoison ws).moduleId = s.moduleId := rfl
@[simp] theorem delPoison_dies (s : State) (ws : List Nat) : (s.delPoison ws).dies = s.dies := rfl
@[simp] theorem delPoison_blocks (s : State) (ws : List Nat) : (s.delPoison ws).blocks = s.blocks := rfl
@[simp] theorem delPoison_evidence (s : State) (ws : List Nat) : (s.delPoison ws).evidence = s.evidence := rfl
@[simp] theorem delPoison_muteList (s : State) (ws : List Nat) : (s.delPoison ws).muteList = s.muteList := rfl
@[simp] theorem delPoison_caches (s : State) (ws : List Nat) : (s.delPoison ws).caches = s.caches := rfl
@[simp] theorem delPoison_evicting (s : State) (ws : List Nat) : (s.delPoison ws).evicting = s.evicting := rfl
@[simp] theorem delPoison_dir (s : State) (ws : List Nat) : (s.delPoison ws).dir = s.dir := rfl
@[simp] theorem delPoison_slc (s : State) (ws : List Nat) : (s.delPoison ws).slc = s.slc := rfl
@[simp] theorem delPoison_txns (s : State) (ws : List Nat) : (s.delPoison ws).txns = s.txns := rfl
@[simp] theorem delPoison_retries (s : State) (ws : List Nat) : (s.delPoison ws).retries = s.retries := rfl
@[simp] theorem delPoison_engineData (s : State) (ws : List Nat) : (s.delPoison ws).engineData = s.engineData := rfl
@[simp] theorem delPoison_initDone (s : State) (ws : List Nat) : (s.delPoison ws).initDone = s.initDone := rfl
@[simp] theorem delPoison_scrubbing (s : State) (ws : List Nat) : (s.delPoison ws).scrubbing = s.scrubbing := rfl
@[simp] theorem delPoison_hbm (s : State) (ws : List Nat) : (s.delPoison ws).hbm = s.hbm := rfl
@[simp] theorem delPoison_lpd (s : State) (ws : List Nat) : (s.delPoison ws).lpd = s.lpd := rfl
@[simp] theorem delPoison_groups (s : State) (ws : List Nat) : (s.delPoison ws).groups = s.groups := rfl
@[simp] theorem delPoison_headerGib (s : State) (ws : List Nat) : (s.delPoison ws).headerGib = s.headerGib := rfl
@[simp] theorem delPoison_pat (s : State) (ws : List Nat) : (s.delPoison ws).pat = s.pat := rfl
@[simp] theorem delPoison_reserved (s : State) (ws : List Nat) : (s.delPoison ws).reserved = s.reserved := rfl
@[simp] theorem delPoison_pegs (s : State) (ws : List Nat) : (s.delPoison ws).pegs = s.pegs := rfl
@[simp] theorem delPoison_casExp (s : State) (ws : List Nat) : (s.delPoison ws).casExp = s.casExp := rfl
@[simp] theorem delPoison_watches (s : State) (ws : List Nat) : (s.delPoison ws).watches = s.watches := rfl
@[simp] theorem delPoison_gens (s : State) (ws : List Nat) : (s.delPoison ws).gens = s.gens := rfl
@[simp] theorem delPoison_fired (s : State) (ws : List Nat) : (s.delPoison ws).fired = s.fired := rfl
@[simp] theorem delPoison_heldEvents (s : State) (ws : List Nat) : (s.delPoison ws).heldEvents = s.heldEvents := rfl
@[simp] theorem delPoison_eventQ (s : State) (ws : List Nat) : (s.delPoison ws).eventQ = s.eventQ := rfl
@[simp] theorem delPoison_arms (s : State) (ws : List Nat) : (s.delPoison ws).arms = s.arms := rfl
@[simp] theorem delPoison_harts (s : State) (ws : List Nat) : (s.delPoison ws).harts = s.harts := rfl
@[simp] theorem delPoison_coresOn (s : State) (ws : List Nat) : (s.delPoison ws).coresOn = s.coresOn := rfl
@[simp] theorem delPoison_out (s : State) (ws : List Nat) : (s.delPoison ws).out = s.out := rfl
@[simp] theorem delPoison_nextTag (s : State) (ws : List Nat) : (s.delPoison ws).nextTag = s.nextTag := rfl
@[simp] theorem delPoison_answers (s : State) (ws : List Nat) : (s.delPoison ws).answers = s.answers := rfl
@[simp] theorem delPoison_dma (s : State) (ws : List Nat) : (s.delPoison ws).dma = s.dma := rfl
@[simp] theorem delPoison_rbq (s : State) (ws : List Nat) : (s.delPoison ws).rbq = s.rbq := rfl
@[simp] theorem delPoison_outbox (s : State) (ws : List Nat) : (s.delPoison ws).outbox = s.outbox := rfl
@[simp] theorem delPoison_hostPorts (s : State) (ws : List Nat) : (s.delPoison ws).hostPorts = s.hostPorts := rfl
@[simp] theorem delPoison_hostLog (s : State) (ws : List Nat) : (s.delPoison ws).hostLog = s.hostLog := rfl
@[simp] theorem delPoison_fabLog (s : State) (ws : List Nat) : (s.delPoison ws).fabLog = s.fabLog := rfl
@[simp] theorem delPoison_ports (s : State) (ws : List Nat) : (s.delPoison ws).ports = s.ports := rfl
@[simp] theorem delPoison_fab (s : State) (ws : List Nat) : (s.delPoison ws).fab = s.fab := rfl
@[simp] theorem delPoison_time (s : State) (ws : List Nat) : (s.delPoison ws).time = s.time := rfl
@[simp] theorem delPoison_slot (s : State) (ws : List Nat) : (s.delPoison ws).slot = s.slot := rfl
@[simp] theorem delPoison_colls (s : State) (ws : List Nat) : (s.delPoison ws).colls = s.colls := rfl
@[simp] theorem delPoison_kiln (s : State) (ws : List Nat) : (s.delPoison ws).kiln = s.kiln := rfl
@[simp] theorem delPoison_inbox (s : State) (ws : List Nat) : (s.delPoison ws).inbox = s.inbox := rfl
@[simp] theorem delPoison_reachable (s : State) (ws : List Nat) : (s.delPoison ws).reachable = s.reachable := rfl
@[simp] theorem delPoison_iommuRoots (s : State) (ws : List Nat) : (s.delPoison ws).iommuRoots = s.iommuRoots := rfl
@[simp] theorem delPoison_maintLast (s : State) (ws : List Nat) : (s.delPoison ws).maintLast = s.maintLast := rfl
@[simp] theorem delPoison_maintNext (s : State) (ws : List Nat) : (s.delPoison ws).maintNext = s.maintNext := rfl
@[simp] theorem delPoison_checking (s : State) (ws : List Nat) : (s.delPoison ws).checking = s.checking := rfl
@[simp] theorem delPoison_patBusy (s : State) (ws : List Nat) : (s.delPoison ws).patBusy = s.patBusy := rfl
@[simp] theorem delPoison_regNext (s : State) (ws : List Nat) : (s.delPoison ws).regNext = s.regNext := rfl
@[simp] theorem delPoison_buckets (s : State) (ws : List Nat) : (s.delPoison ws).buckets = s.buckets := rfl
@[simp] theorem delPoison_markNs (s : State) (ws : List Nat) : (s.delPoison ws).markNs = s.markNs := rfl
@[simp] theorem delPoison_rails (s : State) (ws : List Nat) : (s.delPoison ws).rails = s.rails := rfl
@[simp] theorem delPoison_domains (s : State) (ws : List Nat) : (s.delPoison ws).domains = s.domains := rfl
@[simp] theorem delPoison_power (s : State) (ws : List Nat) : (s.delPoison ws).power = s.power := rfl
@[simp] theorem delPoison_links (s : State) (ws : List Nat) : (s.delPoison ws).links = s.links := rfl
@[simp] theorem delPoison_thirds (s : State) (ws : List Nat) : (s.delPoison ws).thirds = s.thirds := rfl
@[simp] theorem delPoison_packs (s : State) (ws : List Nat) : (s.delPoison ws).packs = s.packs := rfl
@[simp] theorem delPoison_mgmt (s : State) (ws : List Nat) : (s.delPoison ws).mgmt = s.mgmt := rfl

/-! ### nextFree -/

@[simp] theorem nextFree_pending (s : State) : (s.nextFree).pending = s.pending := rfl
@[simp] theorem nextFree_patCache (s : State) : (s.nextFree).patCache = s.patCache := rfl
@[simp] theorem nextFree_rbqCache (s : State) : (s.nextFree).rbqCache = s.rbqCache := rfl
@[simp] theorem nextFree_nocHeld (s : State) : (s.nextFree).nocHeld = s.nocHeld := rfl
@[simp] theorem nextFree_dirOrder (s : State) : (s.nextFree).dirOrder = s.dirOrder := rfl
@[simp] theorem nextFree_slcDirty (s : State) : (s.nextFree).slcDirty = s.slcDirty := rfl
@[simp] theorem nextFree_icache (s : State) : (s.nextFree).icache = s.icache := rfl
@[simp] theorem nextFree_gsCache (s : State) : (s.nextFree).gsCache = s.gsCache := rfl
@[simp] theorem nextFree_carried (s : State) : (s.nextFree).carried = s.carried := rfl
@[simp] theorem nextFree_arb (s : State) : (s.nextFree).arb = s.arb := rfl
@[simp] theorem nextFree_hostIn (s : State) : (s.nextFree).hostIn = s.hostIn := rfl
@[simp] theorem nextFree_regs (s : State) : (s.nextFree).regs = s.regs := rfl
@[simp] theorem nextFree_mem (s : State) : (s.nextFree).mem = s.mem := rfl
@[simp] theorem nextFree_poison (s : State) : (s.nextFree).poison = s.poison := rfl
@[simp] theorem nextFree_freeCount (s : State) : (s.nextFree).freeCount = s.freeCount + 1 := rfl
@[simp] theorem nextFree_errLog (s : State) : (s.nextFree).errLog = s.errLog := rfl
@[simp] theorem nextFree_fret (s : State) : (s.nextFree).fret = s.fret := rfl
@[simp] theorem nextFree_phaseNs (s : State) : (s.nextFree).phaseNs = s.phaseNs := rfl
@[simp] theorem nextFree_period (s : State) : (s.nextFree).period = s.period := rfl
@[simp] theorem nextFree_epochSet (s : State) : (s.nextFree).epochSet = s.epochSet := rfl
@[simp] theorem nextFree_localEpoch (s : State) : (s.nextFree).localEpoch = s.localEpoch := rfl
@[simp] theorem nextFree_lostRegions (s : State) : (s.nextFree).lostRegions = s.lostRegions := rfl
@[simp] theorem nextFree_master (s : State) : (s.nextFree).master = s.master := rfl
@[simp] theorem nextFree_strictScope (s : State) : (s.nextFree).strictScope = s.strictScope := rfl
@[simp] theorem nextFree_moduleId (s : State) : (s.nextFree).moduleId = s.moduleId := rfl
@[simp] theorem nextFree_dies (s : State) : (s.nextFree).dies = s.dies := rfl
@[simp] theorem nextFree_blocks (s : State) : (s.nextFree).blocks = s.blocks := rfl
@[simp] theorem nextFree_evidence (s : State) : (s.nextFree).evidence = s.evidence := rfl
@[simp] theorem nextFree_muteList (s : State) : (s.nextFree).muteList = s.muteList := rfl
@[simp] theorem nextFree_caches (s : State) : (s.nextFree).caches = s.caches := rfl
@[simp] theorem nextFree_evicting (s : State) : (s.nextFree).evicting = s.evicting := rfl
@[simp] theorem nextFree_dir (s : State) : (s.nextFree).dir = s.dir := rfl
@[simp] theorem nextFree_slc (s : State) : (s.nextFree).slc = s.slc := rfl
@[simp] theorem nextFree_txns (s : State) : (s.nextFree).txns = s.txns := rfl
@[simp] theorem nextFree_retries (s : State) : (s.nextFree).retries = s.retries := rfl
@[simp] theorem nextFree_engineData (s : State) : (s.nextFree).engineData = s.engineData := rfl
@[simp] theorem nextFree_initDone (s : State) : (s.nextFree).initDone = s.initDone := rfl
@[simp] theorem nextFree_scrubbing (s : State) : (s.nextFree).scrubbing = s.scrubbing := rfl
@[simp] theorem nextFree_hbm (s : State) : (s.nextFree).hbm = s.hbm := rfl
@[simp] theorem nextFree_lpd (s : State) : (s.nextFree).lpd = s.lpd := rfl
@[simp] theorem nextFree_groups (s : State) : (s.nextFree).groups = s.groups := rfl
@[simp] theorem nextFree_headerGib (s : State) : (s.nextFree).headerGib = s.headerGib := rfl
@[simp] theorem nextFree_pat (s : State) : (s.nextFree).pat = s.pat := rfl
@[simp] theorem nextFree_reserved (s : State) : (s.nextFree).reserved = s.reserved := rfl
@[simp] theorem nextFree_pegs (s : State) : (s.nextFree).pegs = s.pegs := rfl
@[simp] theorem nextFree_casExp (s : State) : (s.nextFree).casExp = s.casExp := rfl
@[simp] theorem nextFree_watches (s : State) : (s.nextFree).watches = s.watches := rfl
@[simp] theorem nextFree_gens (s : State) : (s.nextFree).gens = s.gens := rfl
@[simp] theorem nextFree_fired (s : State) : (s.nextFree).fired = s.fired := rfl
@[simp] theorem nextFree_heldEvents (s : State) : (s.nextFree).heldEvents = s.heldEvents := rfl
@[simp] theorem nextFree_eventQ (s : State) : (s.nextFree).eventQ = s.eventQ := rfl
@[simp] theorem nextFree_arms (s : State) : (s.nextFree).arms = s.arms := rfl
@[simp] theorem nextFree_harts (s : State) : (s.nextFree).harts = s.harts := rfl
@[simp] theorem nextFree_coresOn (s : State) : (s.nextFree).coresOn = s.coresOn := rfl
@[simp] theorem nextFree_out (s : State) : (s.nextFree).out = s.out := rfl
@[simp] theorem nextFree_nextTag (s : State) : (s.nextFree).nextTag = s.nextTag := rfl
@[simp] theorem nextFree_answers (s : State) : (s.nextFree).answers = s.answers := rfl
@[simp] theorem nextFree_dma (s : State) : (s.nextFree).dma = s.dma := rfl
@[simp] theorem nextFree_rbq (s : State) : (s.nextFree).rbq = s.rbq := rfl
@[simp] theorem nextFree_outbox (s : State) : (s.nextFree).outbox = s.outbox := rfl
@[simp] theorem nextFree_hostPorts (s : State) : (s.nextFree).hostPorts = s.hostPorts := rfl
@[simp] theorem nextFree_hostLog (s : State) : (s.nextFree).hostLog = s.hostLog := rfl
@[simp] theorem nextFree_fabLog (s : State) : (s.nextFree).fabLog = s.fabLog := rfl
@[simp] theorem nextFree_ports (s : State) : (s.nextFree).ports = s.ports := rfl
@[simp] theorem nextFree_fab (s : State) : (s.nextFree).fab = s.fab := rfl
@[simp] theorem nextFree_time (s : State) : (s.nextFree).time = s.time := rfl
@[simp] theorem nextFree_slot (s : State) : (s.nextFree).slot = s.slot := rfl
@[simp] theorem nextFree_colls (s : State) : (s.nextFree).colls = s.colls := rfl
@[simp] theorem nextFree_kiln (s : State) : (s.nextFree).kiln = s.kiln := rfl
@[simp] theorem nextFree_inbox (s : State) : (s.nextFree).inbox = s.inbox := rfl
@[simp] theorem nextFree_reachable (s : State) : (s.nextFree).reachable = s.reachable := rfl
@[simp] theorem nextFree_iommuRoots (s : State) : (s.nextFree).iommuRoots = s.iommuRoots := rfl
@[simp] theorem nextFree_maintLast (s : State) : (s.nextFree).maintLast = s.maintLast := rfl
@[simp] theorem nextFree_maintNext (s : State) : (s.nextFree).maintNext = s.maintNext := rfl
@[simp] theorem nextFree_checking (s : State) : (s.nextFree).checking = s.checking := rfl
@[simp] theorem nextFree_patBusy (s : State) : (s.nextFree).patBusy = s.patBusy := rfl
@[simp] theorem nextFree_regNext (s : State) : (s.nextFree).regNext = s.regNext := rfl
@[simp] theorem nextFree_buckets (s : State) : (s.nextFree).buckets = s.buckets := rfl
@[simp] theorem nextFree_markNs (s : State) : (s.nextFree).markNs = s.markNs := rfl
@[simp] theorem nextFree_rails (s : State) : (s.nextFree).rails = s.rails := rfl
@[simp] theorem nextFree_domains (s : State) : (s.nextFree).domains = s.domains := rfl
@[simp] theorem nextFree_power (s : State) : (s.nextFree).power = s.power := rfl
@[simp] theorem nextFree_links (s : State) : (s.nextFree).links = s.links := rfl
@[simp] theorem nextFree_thirds (s : State) : (s.nextFree).thirds = s.thirds := rfl
@[simp] theorem nextFree_packs (s : State) : (s.nextFree).packs = s.packs := rfl
@[simp] theorem nextFree_mgmt (s : State) : (s.nextFree).mgmt = s.mgmt := rfl

/-! ### setBlock -/

@[simp] theorem setBlock_pending (s : State) (b : Nat) (x : Block) : (s.setBlock b x).pending = s.pending := rfl
@[simp] theorem setBlock_patCache (s : State) (b : Nat) (x : Block) : (s.setBlock b x).patCache = s.patCache := rfl
@[simp] theorem setBlock_rbqCache (s : State) (b : Nat) (x : Block) : (s.setBlock b x).rbqCache = s.rbqCache := rfl
@[simp] theorem setBlock_nocHeld (s : State) (b : Nat) (x : Block) : (s.setBlock b x).nocHeld = s.nocHeld := rfl
@[simp] theorem setBlock_dirOrder (s : State) (b : Nat) (x : Block) : (s.setBlock b x).dirOrder = s.dirOrder := rfl
@[simp] theorem setBlock_slcDirty (s : State) (b : Nat) (x : Block) : (s.setBlock b x).slcDirty = s.slcDirty := rfl
@[simp] theorem setBlock_icache (s : State) (b : Nat) (x : Block) : (s.setBlock b x).icache = s.icache := rfl
@[simp] theorem setBlock_gsCache (s : State) (b : Nat) (x : Block) : (s.setBlock b x).gsCache = s.gsCache := rfl
@[simp] theorem setBlock_carried (s : State) (b : Nat) (x : Block) : (s.setBlock b x).carried = s.carried := rfl
@[simp] theorem setBlock_arb (s : State) (b : Nat) (x : Block) : (s.setBlock b x).arb = s.arb := rfl
@[simp] theorem setBlock_hostIn (s : State) (b : Nat) (x : Block) : (s.setBlock b x).hostIn = s.hostIn := rfl
@[simp] theorem setBlock_regs (s : State) (b : Nat) (x : Block) : (s.setBlock b x).regs = s.regs := rfl
@[simp] theorem setBlock_mem (s : State) (b : Nat) (x : Block) : (s.setBlock b x).mem = s.mem := rfl
@[simp] theorem setBlock_poison (s : State) (b : Nat) (x : Block) : (s.setBlock b x).poison = s.poison := rfl
@[simp] theorem setBlock_freeCount (s : State) (b : Nat) (x : Block) : (s.setBlock b x).freeCount = s.freeCount := rfl
@[simp] theorem setBlock_errLog (s : State) (b : Nat) (x : Block) : (s.setBlock b x).errLog = s.errLog := rfl
@[simp] theorem setBlock_fret (s : State) (b : Nat) (x : Block) : (s.setBlock b x).fret = s.fret := rfl
@[simp] theorem setBlock_phaseNs (s : State) (b : Nat) (x : Block) : (s.setBlock b x).phaseNs = s.phaseNs := rfl
@[simp] theorem setBlock_period (s : State) (b : Nat) (x : Block) : (s.setBlock b x).period = s.period := rfl
@[simp] theorem setBlock_epochSet (s : State) (b : Nat) (x : Block) : (s.setBlock b x).epochSet = s.epochSet := rfl
@[simp] theorem setBlock_localEpoch (s : State) (b : Nat) (x : Block) :
    (s.setBlock b x).localEpoch = s.localEpoch := rfl
@[simp] theorem setBlock_lostRegions (s : State) (b : Nat) (x : Block) :
    (s.setBlock b x).lostRegions = s.lostRegions := rfl
@[simp] theorem setBlock_master (s : State) (b : Nat) (x : Block) : (s.setBlock b x).master = s.master := rfl
@[simp] theorem setBlock_strictScope (s : State) (b : Nat) (x : Block) :
    (s.setBlock b x).strictScope = s.strictScope := rfl
@[simp] theorem setBlock_moduleId (s : State) (b : Nat) (x : Block) : (s.setBlock b x).moduleId = s.moduleId := rfl
@[simp] theorem setBlock_dies (s : State) (b : Nat) (x : Block) : (s.setBlock b x).dies = s.dies := rfl
@[simp] theorem setBlock_blocks (s : State) (b : Nat) (x : Block) : (s.setBlock b x).blocks = s.blocks.set b x := rfl
@[simp] theorem setBlock_evidence (s : State) (b : Nat) (x : Block) : (s.setBlock b x).evidence = s.evidence := rfl
@[simp] theorem setBlock_muteList (s : State) (b : Nat) (x : Block) : (s.setBlock b x).muteList = s.muteList := rfl
@[simp] theorem setBlock_caches (s : State) (b : Nat) (x : Block) : (s.setBlock b x).caches = s.caches := rfl
@[simp] theorem setBlock_evicting (s : State) (b : Nat) (x : Block) : (s.setBlock b x).evicting = s.evicting := rfl
@[simp] theorem setBlock_dir (s : State) (b : Nat) (x : Block) : (s.setBlock b x).dir = s.dir := rfl
@[simp] theorem setBlock_slc (s : State) (b : Nat) (x : Block) : (s.setBlock b x).slc = s.slc := rfl
@[simp] theorem setBlock_txns (s : State) (b : Nat) (x : Block) : (s.setBlock b x).txns = s.txns := rfl
@[simp] theorem setBlock_retries (s : State) (b : Nat) (x : Block) : (s.setBlock b x).retries = s.retries := rfl
@[simp] theorem setBlock_engineData (s : State) (b : Nat) (x : Block) :
    (s.setBlock b x).engineData = s.engineData := rfl
@[simp] theorem setBlock_initDone (s : State) (b : Nat) (x : Block) : (s.setBlock b x).initDone = s.initDone := rfl
@[simp] theorem setBlock_scrubbing (s : State) (b : Nat) (x : Block) : (s.setBlock b x).scrubbing = s.scrubbing := rfl
@[simp] theorem setBlock_hbm (s : State) (b : Nat) (x : Block) : (s.setBlock b x).hbm = s.hbm := rfl
@[simp] theorem setBlock_lpd (s : State) (b : Nat) (x : Block) : (s.setBlock b x).lpd = s.lpd := rfl
@[simp] theorem setBlock_groups (s : State) (b : Nat) (x : Block) : (s.setBlock b x).groups = s.groups := rfl
@[simp] theorem setBlock_headerGib (s : State) (b : Nat) (x : Block) : (s.setBlock b x).headerGib = s.headerGib := rfl
@[simp] theorem setBlock_pat (s : State) (b : Nat) (x : Block) : (s.setBlock b x).pat = s.pat := rfl
@[simp] theorem setBlock_reserved (s : State) (b : Nat) (x : Block) : (s.setBlock b x).reserved = s.reserved := rfl
@[simp] theorem setBlock_pegs (s : State) (b : Nat) (x : Block) : (s.setBlock b x).pegs = s.pegs := rfl
@[simp] theorem setBlock_casExp (s : State) (b : Nat) (x : Block) : (s.setBlock b x).casExp = s.casExp := rfl
@[simp] theorem setBlock_watches (s : State) (b : Nat) (x : Block) : (s.setBlock b x).watches = s.watches := rfl
@[simp] theorem setBlock_gens (s : State) (b : Nat) (x : Block) : (s.setBlock b x).gens = s.gens := rfl
@[simp] theorem setBlock_fired (s : State) (b : Nat) (x : Block) : (s.setBlock b x).fired = s.fired := rfl
@[simp] theorem setBlock_heldEvents (s : State) (b : Nat) (x : Block) :
    (s.setBlock b x).heldEvents = s.heldEvents := rfl
@[simp] theorem setBlock_eventQ (s : State) (b : Nat) (x : Block) : (s.setBlock b x).eventQ = s.eventQ := rfl
@[simp] theorem setBlock_arms (s : State) (b : Nat) (x : Block) : (s.setBlock b x).arms = s.arms := rfl
@[simp] theorem setBlock_harts (s : State) (b : Nat) (x : Block) : (s.setBlock b x).harts = s.harts := rfl
@[simp] theorem setBlock_coresOn (s : State) (b : Nat) (x : Block) : (s.setBlock b x).coresOn = s.coresOn := rfl
@[simp] theorem setBlock_out (s : State) (b : Nat) (x : Block) : (s.setBlock b x).out = s.out := rfl
@[simp] theorem setBlock_nextTag (s : State) (b : Nat) (x : Block) : (s.setBlock b x).nextTag = s.nextTag := rfl
@[simp] theorem setBlock_answers (s : State) (b : Nat) (x : Block) : (s.setBlock b x).answers = s.answers := rfl
@[simp] theorem setBlock_dma (s : State) (b : Nat) (x : Block) : (s.setBlock b x).dma = s.dma := rfl
@[simp] theorem setBlock_rbq (s : State) (b : Nat) (x : Block) : (s.setBlock b x).rbq = s.rbq := rfl
@[simp] theorem setBlock_outbox (s : State) (b : Nat) (x : Block) : (s.setBlock b x).outbox = s.outbox := rfl
@[simp] theorem setBlock_hostPorts (s : State) (b : Nat) (x : Block) : (s.setBlock b x).hostPorts = s.hostPorts := rfl
@[simp] theorem setBlock_hostLog (s : State) (b : Nat) (x : Block) : (s.setBlock b x).hostLog = s.hostLog := rfl
@[simp] theorem setBlock_fabLog (s : State) (b : Nat) (x : Block) : (s.setBlock b x).fabLog = s.fabLog := rfl
@[simp] theorem setBlock_ports (s : State) (b : Nat) (x : Block) : (s.setBlock b x).ports = s.ports := rfl
@[simp] theorem setBlock_fab (s : State) (b : Nat) (x : Block) : (s.setBlock b x).fab = s.fab := rfl
@[simp] theorem setBlock_time (s : State) (b : Nat) (x : Block) : (s.setBlock b x).time = s.time := rfl
@[simp] theorem setBlock_slot (s : State) (b : Nat) (x : Block) : (s.setBlock b x).slot = s.slot := rfl
@[simp] theorem setBlock_colls (s : State) (b : Nat) (x : Block) : (s.setBlock b x).colls = s.colls := rfl
@[simp] theorem setBlock_kiln (s : State) (b : Nat) (x : Block) : (s.setBlock b x).kiln = s.kiln := rfl
@[simp] theorem setBlock_inbox (s : State) (b : Nat) (x : Block) : (s.setBlock b x).inbox = s.inbox := rfl
@[simp] theorem setBlock_reachable (s : State) (b : Nat) (x : Block) : (s.setBlock b x).reachable = s.reachable := rfl
@[simp] theorem setBlock_iommuRoots (s : State) (b : Nat) (x : Block) :
    (s.setBlock b x).iommuRoots = s.iommuRoots := rfl
@[simp] theorem setBlock_maintLast (s : State) (b : Nat) (x : Block) : (s.setBlock b x).maintLast = s.maintLast := rfl
@[simp] theorem setBlock_maintNext (s : State) (b : Nat) (x : Block) : (s.setBlock b x).maintNext = s.maintNext := rfl
@[simp] theorem setBlock_checking (s : State) (b : Nat) (x : Block) : (s.setBlock b x).checking = s.checking := rfl
@[simp] theorem setBlock_patBusy (s : State) (b : Nat) (x : Block) : (s.setBlock b x).patBusy = s.patBusy := rfl
@[simp] theorem setBlock_regNext (s : State) (b : Nat) (x : Block) : (s.setBlock b x).regNext = s.regNext := rfl
@[simp] theorem setBlock_buckets (s : State) (b : Nat) (x : Block) : (s.setBlock b x).buckets = s.buckets := rfl
@[simp] theorem setBlock_markNs (s : State) (b : Nat) (x : Block) : (s.setBlock b x).markNs = s.markNs := rfl
@[simp] theorem setBlock_rails (s : State) (b : Nat) (x : Block) : (s.setBlock b x).rails = s.rails := rfl
@[simp] theorem setBlock_domains (s : State) (b : Nat) (x : Block) : (s.setBlock b x).domains = s.domains := rfl
@[simp] theorem setBlock_power (s : State) (b : Nat) (x : Block) : (s.setBlock b x).power = s.power := rfl
@[simp] theorem setBlock_links (s : State) (b : Nat) (x : Block) : (s.setBlock b x).links = s.links := rfl
@[simp] theorem setBlock_thirds (s : State) (b : Nat) (x : Block) : (s.setBlock b x).thirds = s.thirds := rfl
@[simp] theorem setBlock_packs (s : State) (b : Nat) (x : Block) : (s.setBlock b x).packs = s.packs := rfl
@[simp] theorem setBlock_mgmt (s : State) (b : Nat) (x : Block) : (s.setBlock b x).mgmt = s.mgmt := rfl

/-! ### updBlock -/

@[simp] theorem updBlock_pending (s : State) (b : Nat) (f : Block → Block) :
    (s.updBlock b f).pending = s.pending := rfl
@[simp] theorem updBlock_regs (s : State) (b : Nat) (f : Block → Block) : (s.updBlock b f).regs = s.regs := rfl
@[simp] theorem updBlock_mem (s : State) (b : Nat) (f : Block → Block) : (s.updBlock b f).mem = s.mem := rfl
@[simp] theorem updBlock_poison (s : State) (b : Nat) (f : Block → Block) : (s.updBlock b f).poison = s.poison := rfl
@[simp] theorem updBlock_freeCount (s : State) (b : Nat) (f : Block → Block) :
    (s.updBlock b f).freeCount = s.freeCount := rfl
@[simp] theorem updBlock_errLog (s : State) (b : Nat) (f : Block → Block) : (s.updBlock b f).errLog = s.errLog := rfl
@[simp] theorem updBlock_fret (s : State) (b : Nat) (f : Block → Block) : (s.updBlock b f).fret = s.fret := rfl
@[simp] theorem updBlock_phaseNs (s : State) (b : Nat) (f : Block → Block) :
    (s.updBlock b f).phaseNs = s.phaseNs := rfl
@[simp] theorem updBlock_period (s : State) (b : Nat) (f : Block → Block) : (s.updBlock b f).period = s.period := rfl
@[simp] theorem updBlock_epochSet (s : State) (b : Nat) (f : Block → Block) :
    (s.updBlock b f).epochSet = s.epochSet := rfl
@[simp] theorem updBlock_localEpoch (s : State) (b : Nat) (f : Block → Block) :
    (s.updBlock b f).localEpoch = s.localEpoch := rfl
@[simp] theorem updBlock_lostRegions (s : State) (b : Nat) (f : Block → Block) :
    (s.updBlock b f).lostRegions = s.lostRegions := rfl
@[simp] theorem updBlock_master (s : State) (b : Nat) (f : Block → Block) : (s.updBlock b f).master = s.master := rfl
@[simp] theorem updBlock_strictScope (s : State) (b : Nat) (f : Block → Block) :
    (s.updBlock b f).strictScope = s.strictScope := rfl
@[simp] theorem updBlock_moduleId (s : State) (b : Nat) (f : Block → Block) :
    (s.updBlock b f).moduleId = s.moduleId := rfl
@[simp] theorem updBlock_dies (s : State) (b : Nat) (f : Block → Block) : (s.updBlock b f).dies = s.dies := rfl
@[simp] theorem updBlock_blocks (s : State) (b : Nat) (f : Block → Block) :
    (s.updBlock b f).blocks = s.blocks.set b (f (s.block b)) := rfl
@[simp] theorem updBlock_evidence (s : State) (b : Nat) (f : Block → Block) :
    (s.updBlock b f).evidence = s.evidence := rfl
@[simp] theorem updBlock_muteList (s : State) (b : Nat) (f : Block → Block) :
    (s.updBlock b f).muteList = s.muteList := rfl
@[simp] theorem updBlock_caches (s : State) (b : Nat) (f : Block → Block) : (s.updBlock b f).caches = s.caches := rfl
@[simp] theorem updBlock_evicting (s : State) (b : Nat) (f : Block → Block) :
    (s.updBlock b f).evicting = s.evicting := rfl
@[simp] theorem updBlock_dir (s : State) (b : Nat) (f : Block → Block) : (s.updBlock b f).dir = s.dir := rfl
@[simp] theorem updBlock_slc (s : State) (b : Nat) (f : Block → Block) : (s.updBlock b f).slc = s.slc := rfl
@[simp] theorem updBlock_txns (s : State) (b : Nat) (f : Block → Block) : (s.updBlock b f).txns = s.txns := rfl
@[simp] theorem updBlock_retries (s : State) (b : Nat) (f : Block → Block) :
    (s.updBlock b f).retries = s.retries := rfl
@[simp] theorem updBlock_engineData (s : State) (b : Nat) (f : Block → Block) :
    (s.updBlock b f).engineData = s.engineData := rfl
@[simp] theorem updBlock_initDone (s : State) (b : Nat) (f : Block → Block) :
    (s.updBlock b f).initDone = s.initDone := rfl
@[simp] theorem updBlock_scrubbing (s : State) (b : Nat) (f : Block → Block) :
    (s.updBlock b f).scrubbing = s.scrubbing := rfl
@[simp] theorem updBlock_hbm (s : State) (b : Nat) (f : Block → Block) : (s.updBlock b f).hbm = s.hbm := rfl
@[simp] theorem updBlock_lpd (s : State) (b : Nat) (f : Block → Block) : (s.updBlock b f).lpd = s.lpd := rfl
@[simp] theorem updBlock_groups (s : State) (b : Nat) (f : Block → Block) : (s.updBlock b f).groups = s.groups := rfl
@[simp] theorem updBlock_headerGib (s : State) (b : Nat) (f : Block → Block) :
    (s.updBlock b f).headerGib = s.headerGib := rfl
@[simp] theorem updBlock_pat (s : State) (b : Nat) (f : Block → Block) : (s.updBlock b f).pat = s.pat := rfl
@[simp] theorem updBlock_reserved (s : State) (b : Nat) (f : Block → Block) :
    (s.updBlock b f).reserved = s.reserved := rfl
@[simp] theorem updBlock_pegs (s : State) (b : Nat) (f : Block → Block) : (s.updBlock b f).pegs = s.pegs := rfl
@[simp] theorem updBlock_casExp (s : State) (b : Nat) (f : Block → Block) : (s.updBlock b f).casExp = s.casExp := rfl
@[simp] theorem updBlock_watches (s : State) (b : Nat) (f : Block → Block) :
    (s.updBlock b f).watches = s.watches := rfl
@[simp] theorem updBlock_gens (s : State) (b : Nat) (f : Block → Block) : (s.updBlock b f).gens = s.gens := rfl
@[simp] theorem updBlock_fired (s : State) (b : Nat) (f : Block → Block) : (s.updBlock b f).fired = s.fired := rfl
@[simp] theorem updBlock_heldEvents (s : State) (b : Nat) (f : Block → Block) :
    (s.updBlock b f).heldEvents = s.heldEvents := rfl
@[simp] theorem updBlock_eventQ (s : State) (b : Nat) (f : Block → Block) : (s.updBlock b f).eventQ = s.eventQ := rfl
@[simp] theorem updBlock_arms (s : State) (b : Nat) (f : Block → Block) : (s.updBlock b f).arms = s.arms := rfl
@[simp] theorem updBlock_harts (s : State) (b : Nat) (f : Block → Block) : (s.updBlock b f).harts = s.harts := rfl
@[simp] theorem updBlock_coresOn (s : State) (b : Nat) (f : Block → Block) :
    (s.updBlock b f).coresOn = s.coresOn := rfl
@[simp] theorem updBlock_out (s : State) (b : Nat) (f : Block → Block) : (s.updBlock b f).out = s.out := rfl
@[simp] theorem updBlock_nextTag (s : State) (b : Nat) (f : Block → Block) :
    (s.updBlock b f).nextTag = s.nextTag := rfl
@[simp] theorem updBlock_answers (s : State) (b : Nat) (f : Block → Block) :
    (s.updBlock b f).answers = s.answers := rfl
@[simp] theorem updBlock_dma (s : State) (b : Nat) (f : Block → Block) : (s.updBlock b f).dma = s.dma := rfl
@[simp] theorem updBlock_rbq (s : State) (b : Nat) (f : Block → Block) : (s.updBlock b f).rbq = s.rbq := rfl
@[simp] theorem updBlock_outbox (s : State) (b : Nat) (f : Block → Block) : (s.updBlock b f).outbox = s.outbox := rfl
@[simp] theorem updBlock_hostPorts (s : State) (b : Nat) (f : Block → Block) :
    (s.updBlock b f).hostPorts = s.hostPorts := rfl
@[simp] theorem updBlock_hostLog (s : State) (b : Nat) (f : Block → Block) :
    (s.updBlock b f).hostLog = s.hostLog := rfl
@[simp] theorem updBlock_fabLog (s : State) (b : Nat) (f : Block → Block) : (s.updBlock b f).fabLog = s.fabLog := rfl
@[simp] theorem updBlock_ports (s : State) (b : Nat) (f : Block → Block) : (s.updBlock b f).ports = s.ports := rfl
@[simp] theorem updBlock_fab (s : State) (b : Nat) (f : Block → Block) : (s.updBlock b f).fab = s.fab := rfl
@[simp] theorem updBlock_time (s : State) (b : Nat) (f : Block → Block) : (s.updBlock b f).time = s.time := rfl
@[simp] theorem updBlock_slot (s : State) (b : Nat) (f : Block → Block) : (s.updBlock b f).slot = s.slot := rfl
@[simp] theorem updBlock_colls (s : State) (b : Nat) (f : Block → Block) : (s.updBlock b f).colls = s.colls := rfl
@[simp] theorem updBlock_kiln (s : State) (b : Nat) (f : Block → Block) : (s.updBlock b f).kiln = s.kiln := rfl
@[simp] theorem updBlock_inbox (s : State) (b : Nat) (f : Block → Block) : (s.updBlock b f).inbox = s.inbox := rfl
@[simp] theorem updBlock_reachable (s : State) (b : Nat) (f : Block → Block) :
    (s.updBlock b f).reachable = s.reachable := rfl
@[simp] theorem updBlock_iommuRoots (s : State) (b : Nat) (f : Block → Block) :
    (s.updBlock b f).iommuRoots = s.iommuRoots := rfl
@[simp] theorem updBlock_maintLast (s : State) (b : Nat) (f : Block → Block) :
    (s.updBlock b f).maintLast = s.maintLast := rfl
@[simp] theorem updBlock_maintNext (s : State) (b : Nat) (f : Block → Block) :
    (s.updBlock b f).maintNext = s.maintNext := rfl
@[simp] theorem updBlock_checking (s : State) (b : Nat) (f : Block → Block) :
    (s.updBlock b f).checking = s.checking := rfl
@[simp] theorem updBlock_patBusy (s : State) (b : Nat) (f : Block → Block) :
    (s.updBlock b f).patBusy = s.patBusy := rfl
@[simp] theorem updBlock_regNext (s : State) (b : Nat) (f : Block → Block) :
    (s.updBlock b f).regNext = s.regNext := rfl
@[simp] theorem updBlock_buckets (s : State) (b : Nat) (f : Block → Block) :
    (s.updBlock b f).buckets = s.buckets := rfl
@[simp] theorem updBlock_markNs (s : State) (b : Nat) (f : Block → Block) : (s.updBlock b f).markNs = s.markNs := rfl
@[simp] theorem updBlock_rails (s : State) (b : Nat) (f : Block → Block) : (s.updBlock b f).rails = s.rails := rfl
@[simp] theorem updBlock_domains (s : State) (b : Nat) (f : Block → Block) :
    (s.updBlock b f).domains = s.domains := rfl
@[simp] theorem updBlock_power (s : State) (b : Nat) (f : Block → Block) : (s.updBlock b f).power = s.power := rfl
@[simp] theorem updBlock_links (s : State) (b : Nat) (f : Block → Block) : (s.updBlock b f).links = s.links := rfl
@[simp] theorem updBlock_thirds (s : State) (b : Nat) (f : Block → Block) : (s.updBlock b f).thirds = s.thirds := rfl
@[simp] theorem updBlock_packs (s : State) (b : Nat) (f : Block → Block) : (s.updBlock b f).packs = s.packs := rfl
@[simp] theorem updBlock_mgmt (s : State) (b : Nat) (f : Block → Block) : (s.updBlock b f).mgmt = s.mgmt := rfl

/-! ### setPeg -/

@[simp] theorem setPeg_pending (s : State) (p : Nat) (x : Peg) : (s.setPeg p x).pending = s.pending := rfl
@[simp] theorem setPeg_patCache (s : State) (p : Nat) (x : Peg) : (s.setPeg p x).patCache = s.patCache := rfl
@[simp] theorem setPeg_rbqCache (s : State) (p : Nat) (x : Peg) : (s.setPeg p x).rbqCache = s.rbqCache := rfl
@[simp] theorem setPeg_nocHeld (s : State) (p : Nat) (x : Peg) : (s.setPeg p x).nocHeld = s.nocHeld := rfl
@[simp] theorem setPeg_dirOrder (s : State) (p : Nat) (x : Peg) : (s.setPeg p x).dirOrder = s.dirOrder := rfl
@[simp] theorem setPeg_slcDirty (s : State) (p : Nat) (x : Peg) : (s.setPeg p x).slcDirty = s.slcDirty := rfl
@[simp] theorem setPeg_icache (s : State) (p : Nat) (x : Peg) : (s.setPeg p x).icache = s.icache := rfl
@[simp] theorem setPeg_gsCache (s : State) (p : Nat) (x : Peg) : (s.setPeg p x).gsCache = s.gsCache := rfl
@[simp] theorem setPeg_carried (s : State) (p : Nat) (x : Peg) : (s.setPeg p x).carried = s.carried := rfl
@[simp] theorem setPeg_arb (s : State) (p : Nat) (x : Peg) : (s.setPeg p x).arb = s.arb := rfl
@[simp] theorem setPeg_hostIn (s : State) (p : Nat) (x : Peg) : (s.setPeg p x).hostIn = s.hostIn := rfl
@[simp] theorem setPeg_regs (s : State) (p : Nat) (x : Peg) : (s.setPeg p x).regs = s.regs := rfl
@[simp] theorem setPeg_mem (s : State) (p : Nat) (x : Peg) : (s.setPeg p x).mem = s.mem := rfl
@[simp] theorem setPeg_poison (s : State) (p : Nat) (x : Peg) : (s.setPeg p x).poison = s.poison := rfl
@[simp] theorem setPeg_freeCount (s : State) (p : Nat) (x : Peg) : (s.setPeg p x).freeCount = s.freeCount := rfl
@[simp] theorem setPeg_errLog (s : State) (p : Nat) (x : Peg) : (s.setPeg p x).errLog = s.errLog := rfl
@[simp] theorem setPeg_fret (s : State) (p : Nat) (x : Peg) : (s.setPeg p x).fret = s.fret := rfl
@[simp] theorem setPeg_phaseNs (s : State) (p : Nat) (x : Peg) : (s.setPeg p x).phaseNs = s.phaseNs := rfl
@[simp] theorem setPeg_period (s : State) (p : Nat) (x : Peg) : (s.setPeg p x).period = s.period := rfl
@[simp] theorem setPeg_epochSet (s : State) (p : Nat) (x : Peg) : (s.setPeg p x).epochSet = s.epochSet := rfl
@[simp] theorem setPeg_localEpoch (s : State) (p : Nat) (x : Peg) : (s.setPeg p x).localEpoch = s.localEpoch := rfl
@[simp] theorem setPeg_lostRegions (s : State) (p : Nat) (x : Peg) : (s.setPeg p x).lostRegions = s.lostRegions := rfl
@[simp] theorem setPeg_master (s : State) (p : Nat) (x : Peg) : (s.setPeg p x).master = s.master := rfl
@[simp] theorem setPeg_strictScope (s : State) (p : Nat) (x : Peg) : (s.setPeg p x).strictScope = s.strictScope := rfl
@[simp] theorem setPeg_moduleId (s : State) (p : Nat) (x : Peg) : (s.setPeg p x).moduleId = s.moduleId := rfl
@[simp] theorem setPeg_dies (s : State) (p : Nat) (x : Peg) : (s.setPeg p x).dies = s.dies := rfl
@[simp] theorem setPeg_blocks (s : State) (p : Nat) (x : Peg) : (s.setPeg p x).blocks = s.blocks := rfl
@[simp] theorem setPeg_evidence (s : State) (p : Nat) (x : Peg) : (s.setPeg p x).evidence = s.evidence := rfl
@[simp] theorem setPeg_muteList (s : State) (p : Nat) (x : Peg) : (s.setPeg p x).muteList = s.muteList := rfl
@[simp] theorem setPeg_caches (s : State) (p : Nat) (x : Peg) : (s.setPeg p x).caches = s.caches := rfl
@[simp] theorem setPeg_evicting (s : State) (p : Nat) (x : Peg) : (s.setPeg p x).evicting = s.evicting := rfl
@[simp] theorem setPeg_dir (s : State) (p : Nat) (x : Peg) : (s.setPeg p x).dir = s.dir := rfl
@[simp] theorem setPeg_slc (s : State) (p : Nat) (x : Peg) : (s.setPeg p x).slc = s.slc := rfl
@[simp] theorem setPeg_txns (s : State) (p : Nat) (x : Peg) : (s.setPeg p x).txns = s.txns := rfl
@[simp] theorem setPeg_retries (s : State) (p : Nat) (x : Peg) : (s.setPeg p x).retries = s.retries := rfl
@[simp] theorem setPeg_engineData (s : State) (p : Nat) (x : Peg) : (s.setPeg p x).engineData = s.engineData := rfl
@[simp] theorem setPeg_initDone (s : State) (p : Nat) (x : Peg) : (s.setPeg p x).initDone = s.initDone := rfl
@[simp] theorem setPeg_scrubbing (s : State) (p : Nat) (x : Peg) : (s.setPeg p x).scrubbing = s.scrubbing := rfl
@[simp] theorem setPeg_hbm (s : State) (p : Nat) (x : Peg) : (s.setPeg p x).hbm = s.hbm := rfl
@[simp] theorem setPeg_lpd (s : State) (p : Nat) (x : Peg) : (s.setPeg p x).lpd = s.lpd := rfl
@[simp] theorem setPeg_groups (s : State) (p : Nat) (x : Peg) : (s.setPeg p x).groups = s.groups := rfl
@[simp] theorem setPeg_headerGib (s : State) (p : Nat) (x : Peg) : (s.setPeg p x).headerGib = s.headerGib := rfl
@[simp] theorem setPeg_pat (s : State) (p : Nat) (x : Peg) : (s.setPeg p x).pat = s.pat := rfl
@[simp] theorem setPeg_reserved (s : State) (p : Nat) (x : Peg) : (s.setPeg p x).reserved = s.reserved := rfl
@[simp] theorem setPeg_pegs (s : State) (p : Nat) (x : Peg) : (s.setPeg p x).pegs = s.pegs.set p x := rfl
@[simp] theorem setPeg_casExp (s : State) (p : Nat) (x : Peg) : (s.setPeg p x).casExp = s.casExp := rfl
@[simp] theorem setPeg_watches (s : State) (p : Nat) (x : Peg) : (s.setPeg p x).watches = s.watches := rfl
@[simp] theorem setPeg_gens (s : State) (p : Nat) (x : Peg) : (s.setPeg p x).gens = s.gens := rfl
@[simp] theorem setPeg_fired (s : State) (p : Nat) (x : Peg) : (s.setPeg p x).fired = s.fired := rfl
@[simp] theorem setPeg_heldEvents (s : State) (p : Nat) (x : Peg) : (s.setPeg p x).heldEvents = s.heldEvents := rfl
@[simp] theorem setPeg_eventQ (s : State) (p : Nat) (x : Peg) : (s.setPeg p x).eventQ = s.eventQ := rfl
@[simp] theorem setPeg_arms (s : State) (p : Nat) (x : Peg) : (s.setPeg p x).arms = s.arms := rfl
@[simp] theorem setPeg_harts (s : State) (p : Nat) (x : Peg) : (s.setPeg p x).harts = s.harts := rfl
@[simp] theorem setPeg_coresOn (s : State) (p : Nat) (x : Peg) : (s.setPeg p x).coresOn = s.coresOn := rfl
@[simp] theorem setPeg_out (s : State) (p : Nat) (x : Peg) : (s.setPeg p x).out = s.out := rfl
@[simp] theorem setPeg_nextTag (s : State) (p : Nat) (x : Peg) : (s.setPeg p x).nextTag = s.nextTag := rfl
@[simp] theorem setPeg_answers (s : State) (p : Nat) (x : Peg) : (s.setPeg p x).answers = s.answers := rfl
@[simp] theorem setPeg_dma (s : State) (p : Nat) (x : Peg) : (s.setPeg p x).dma = s.dma := rfl
@[simp] theorem setPeg_rbq (s : State) (p : Nat) (x : Peg) : (s.setPeg p x).rbq = s.rbq := rfl
@[simp] theorem setPeg_outbox (s : State) (p : Nat) (x : Peg) : (s.setPeg p x).outbox = s.outbox := rfl
@[simp] theorem setPeg_hostPorts (s : State) (p : Nat) (x : Peg) : (s.setPeg p x).hostPorts = s.hostPorts := rfl
@[simp] theorem setPeg_hostLog (s : State) (p : Nat) (x : Peg) : (s.setPeg p x).hostLog = s.hostLog := rfl
@[simp] theorem setPeg_fabLog (s : State) (p : Nat) (x : Peg) : (s.setPeg p x).fabLog = s.fabLog := rfl
@[simp] theorem setPeg_ports (s : State) (p : Nat) (x : Peg) : (s.setPeg p x).ports = s.ports := rfl
@[simp] theorem setPeg_fab (s : State) (p : Nat) (x : Peg) : (s.setPeg p x).fab = s.fab := rfl
@[simp] theorem setPeg_time (s : State) (p : Nat) (x : Peg) : (s.setPeg p x).time = s.time := rfl
@[simp] theorem setPeg_slot (s : State) (p : Nat) (x : Peg) : (s.setPeg p x).slot = s.slot := rfl
@[simp] theorem setPeg_colls (s : State) (p : Nat) (x : Peg) : (s.setPeg p x).colls = s.colls := rfl
@[simp] theorem setPeg_kiln (s : State) (p : Nat) (x : Peg) : (s.setPeg p x).kiln = s.kiln := rfl
@[simp] theorem setPeg_inbox (s : State) (p : Nat) (x : Peg) : (s.setPeg p x).inbox = s.inbox := rfl
@[simp] theorem setPeg_reachable (s : State) (p : Nat) (x : Peg) : (s.setPeg p x).reachable = s.reachable := rfl
@[simp] theorem setPeg_iommuRoots (s : State) (p : Nat) (x : Peg) : (s.setPeg p x).iommuRoots = s.iommuRoots := rfl
@[simp] theorem setPeg_maintLast (s : State) (p : Nat) (x : Peg) : (s.setPeg p x).maintLast = s.maintLast := rfl
@[simp] theorem setPeg_maintNext (s : State) (p : Nat) (x : Peg) : (s.setPeg p x).maintNext = s.maintNext := rfl
@[simp] theorem setPeg_checking (s : State) (p : Nat) (x : Peg) : (s.setPeg p x).checking = s.checking := rfl
@[simp] theorem setPeg_patBusy (s : State) (p : Nat) (x : Peg) : (s.setPeg p x).patBusy = s.patBusy := rfl
@[simp] theorem setPeg_regNext (s : State) (p : Nat) (x : Peg) : (s.setPeg p x).regNext = s.regNext := rfl
@[simp] theorem setPeg_buckets (s : State) (p : Nat) (x : Peg) : (s.setPeg p x).buckets = s.buckets := rfl
@[simp] theorem setPeg_markNs (s : State) (p : Nat) (x : Peg) : (s.setPeg p x).markNs = s.markNs := rfl
@[simp] theorem setPeg_rails (s : State) (p : Nat) (x : Peg) : (s.setPeg p x).rails = s.rails := rfl
@[simp] theorem setPeg_domains (s : State) (p : Nat) (x : Peg) : (s.setPeg p x).domains = s.domains := rfl
@[simp] theorem setPeg_power (s : State) (p : Nat) (x : Peg) : (s.setPeg p x).power = s.power := rfl
@[simp] theorem setPeg_links (s : State) (p : Nat) (x : Peg) : (s.setPeg p x).links = s.links := rfl
@[simp] theorem setPeg_thirds (s : State) (p : Nat) (x : Peg) : (s.setPeg p x).thirds = s.thirds := rfl
@[simp] theorem setPeg_packs (s : State) (p : Nat) (x : Peg) : (s.setPeg p x).packs = s.packs := rfl
@[simp] theorem setPeg_mgmt (s : State) (p : Nat) (x : Peg) : (s.setPeg p x).mgmt = s.mgmt := rfl

/-! ### setHart -/

@[simp] theorem setHart_pending (s : State) (h : Nat) (x : Hart) : (s.setHart h x).pending = s.pending := rfl
@[simp] theorem setHart_patCache (s : State) (h : Nat) (x : Hart) : (s.setHart h x).patCache = s.patCache := rfl
@[simp] theorem setHart_rbqCache (s : State) (h : Nat) (x : Hart) : (s.setHart h x).rbqCache = s.rbqCache := rfl
@[simp] theorem setHart_nocHeld (s : State) (h : Nat) (x : Hart) : (s.setHart h x).nocHeld = s.nocHeld := rfl
@[simp] theorem setHart_dirOrder (s : State) (h : Nat) (x : Hart) : (s.setHart h x).dirOrder = s.dirOrder := rfl
@[simp] theorem setHart_slcDirty (s : State) (h : Nat) (x : Hart) : (s.setHart h x).slcDirty = s.slcDirty := rfl
@[simp] theorem setHart_icache (s : State) (h : Nat) (x : Hart) : (s.setHart h x).icache = s.icache := rfl
@[simp] theorem setHart_gsCache (s : State) (h : Nat) (x : Hart) : (s.setHart h x).gsCache = s.gsCache := rfl
@[simp] theorem setHart_carried (s : State) (h : Nat) (x : Hart) : (s.setHart h x).carried = s.carried := rfl
@[simp] theorem setHart_arb (s : State) (h : Nat) (x : Hart) : (s.setHart h x).arb = s.arb := rfl
@[simp] theorem setHart_hostIn (s : State) (h : Nat) (x : Hart) : (s.setHart h x).hostIn = s.hostIn := rfl
@[simp] theorem setHart_regs (s : State) (h : Nat) (x : Hart) : (s.setHart h x).regs = s.regs := rfl
@[simp] theorem setHart_mem (s : State) (h : Nat) (x : Hart) : (s.setHart h x).mem = s.mem := rfl
@[simp] theorem setHart_poison (s : State) (h : Nat) (x : Hart) : (s.setHart h x).poison = s.poison := rfl
@[simp] theorem setHart_freeCount (s : State) (h : Nat) (x : Hart) : (s.setHart h x).freeCount = s.freeCount := rfl
@[simp] theorem setHart_errLog (s : State) (h : Nat) (x : Hart) : (s.setHart h x).errLog = s.errLog := rfl
@[simp] theorem setHart_fret (s : State) (h : Nat) (x : Hart) : (s.setHart h x).fret = s.fret := rfl
@[simp] theorem setHart_phaseNs (s : State) (h : Nat) (x : Hart) : (s.setHart h x).phaseNs = s.phaseNs := rfl
@[simp] theorem setHart_period (s : State) (h : Nat) (x : Hart) : (s.setHart h x).period = s.period := rfl
@[simp] theorem setHart_epochSet (s : State) (h : Nat) (x : Hart) : (s.setHart h x).epochSet = s.epochSet := rfl
@[simp] theorem setHart_localEpoch (s : State) (h : Nat) (x : Hart) : (s.setHart h x).localEpoch = s.localEpoch := rfl
@[simp] theorem setHart_lostRegions (s : State) (h : Nat) (x : Hart) :
    (s.setHart h x).lostRegions = s.lostRegions := rfl
@[simp] theorem setHart_master (s : State) (h : Nat) (x : Hart) : (s.setHart h x).master = s.master := rfl
@[simp] theorem setHart_strictScope (s : State) (h : Nat) (x : Hart) :
    (s.setHart h x).strictScope = s.strictScope := rfl
@[simp] theorem setHart_moduleId (s : State) (h : Nat) (x : Hart) : (s.setHart h x).moduleId = s.moduleId := rfl
@[simp] theorem setHart_dies (s : State) (h : Nat) (x : Hart) : (s.setHart h x).dies = s.dies := rfl
@[simp] theorem setHart_blocks (s : State) (h : Nat) (x : Hart) : (s.setHart h x).blocks = s.blocks := rfl
@[simp] theorem setHart_evidence (s : State) (h : Nat) (x : Hart) : (s.setHart h x).evidence = s.evidence := rfl
@[simp] theorem setHart_muteList (s : State) (h : Nat) (x : Hart) : (s.setHart h x).muteList = s.muteList := rfl
@[simp] theorem setHart_caches (s : State) (h : Nat) (x : Hart) : (s.setHart h x).caches = s.caches := rfl
@[simp] theorem setHart_evicting (s : State) (h : Nat) (x : Hart) : (s.setHart h x).evicting = s.evicting := rfl
@[simp] theorem setHart_dir (s : State) (h : Nat) (x : Hart) : (s.setHart h x).dir = s.dir := rfl
@[simp] theorem setHart_slc (s : State) (h : Nat) (x : Hart) : (s.setHart h x).slc = s.slc := rfl
@[simp] theorem setHart_txns (s : State) (h : Nat) (x : Hart) : (s.setHart h x).txns = s.txns := rfl
@[simp] theorem setHart_retries (s : State) (h : Nat) (x : Hart) : (s.setHart h x).retries = s.retries := rfl
@[simp] theorem setHart_engineData (s : State) (h : Nat) (x : Hart) : (s.setHart h x).engineData = s.engineData := rfl
@[simp] theorem setHart_initDone (s : State) (h : Nat) (x : Hart) : (s.setHart h x).initDone = s.initDone := rfl
@[simp] theorem setHart_scrubbing (s : State) (h : Nat) (x : Hart) : (s.setHart h x).scrubbing = s.scrubbing := rfl
@[simp] theorem setHart_hbm (s : State) (h : Nat) (x : Hart) : (s.setHart h x).hbm = s.hbm := rfl
@[simp] theorem setHart_lpd (s : State) (h : Nat) (x : Hart) : (s.setHart h x).lpd = s.lpd := rfl
@[simp] theorem setHart_groups (s : State) (h : Nat) (x : Hart) : (s.setHart h x).groups = s.groups := rfl
@[simp] theorem setHart_headerGib (s : State) (h : Nat) (x : Hart) : (s.setHart h x).headerGib = s.headerGib := rfl
@[simp] theorem setHart_pat (s : State) (h : Nat) (x : Hart) : (s.setHart h x).pat = s.pat := rfl
@[simp] theorem setHart_reserved (s : State) (h : Nat) (x : Hart) : (s.setHart h x).reserved = s.reserved := rfl
@[simp] theorem setHart_pegs (s : State) (h : Nat) (x : Hart) : (s.setHart h x).pegs = s.pegs := rfl
@[simp] theorem setHart_casExp (s : State) (h : Nat) (x : Hart) : (s.setHart h x).casExp = s.casExp := rfl
@[simp] theorem setHart_watches (s : State) (h : Nat) (x : Hart) : (s.setHart h x).watches = s.watches := rfl
@[simp] theorem setHart_gens (s : State) (h : Nat) (x : Hart) : (s.setHart h x).gens = s.gens := rfl
@[simp] theorem setHart_fired (s : State) (h : Nat) (x : Hart) : (s.setHart h x).fired = s.fired := rfl
@[simp] theorem setHart_heldEvents (s : State) (h : Nat) (x : Hart) : (s.setHart h x).heldEvents = s.heldEvents := rfl
@[simp] theorem setHart_eventQ (s : State) (h : Nat) (x : Hart) : (s.setHart h x).eventQ = s.eventQ := rfl
@[simp] theorem setHart_arms (s : State) (h : Nat) (x : Hart) : (s.setHart h x).arms = s.arms := rfl
@[simp] theorem setHart_harts (s : State) (h : Nat) (x : Hart) : (s.setHart h x).harts = s.harts.set h x := rfl
@[simp] theorem setHart_coresOn (s : State) (h : Nat) (x : Hart) : (s.setHart h x).coresOn = s.coresOn := rfl
@[simp] theorem setHart_out (s : State) (h : Nat) (x : Hart) : (s.setHart h x).out = s.out := rfl
@[simp] theorem setHart_nextTag (s : State) (h : Nat) (x : Hart) : (s.setHart h x).nextTag = s.nextTag := rfl
@[simp] theorem setHart_answers (s : State) (h : Nat) (x : Hart) : (s.setHart h x).answers = s.answers := rfl
@[simp] theorem setHart_dma (s : State) (h : Nat) (x : Hart) : (s.setHart h x).dma = s.dma := rfl
@[simp] theorem setHart_rbq (s : State) (h : Nat) (x : Hart) : (s.setHart h x).rbq = s.rbq := rfl
@[simp] theorem setHart_outbox (s : State) (h : Nat) (x : Hart) : (s.setHart h x).outbox = s.outbox := rfl
@[simp] theorem setHart_hostPorts (s : State) (h : Nat) (x : Hart) : (s.setHart h x).hostPorts = s.hostPorts := rfl
@[simp] theorem setHart_hostLog (s : State) (h : Nat) (x : Hart) : (s.setHart h x).hostLog = s.hostLog := rfl
@[simp] theorem setHart_fabLog (s : State) (h : Nat) (x : Hart) : (s.setHart h x).fabLog = s.fabLog := rfl
@[simp] theorem setHart_ports (s : State) (h : Nat) (x : Hart) : (s.setHart h x).ports = s.ports := rfl
@[simp] theorem setHart_fab (s : State) (h : Nat) (x : Hart) : (s.setHart h x).fab = s.fab := rfl
@[simp] theorem setHart_time (s : State) (h : Nat) (x : Hart) : (s.setHart h x).time = s.time := rfl
@[simp] theorem setHart_slot (s : State) (h : Nat) (x : Hart) : (s.setHart h x).slot = s.slot := rfl
@[simp] theorem setHart_colls (s : State) (h : Nat) (x : Hart) : (s.setHart h x).colls = s.colls := rfl
@[simp] theorem setHart_kiln (s : State) (h : Nat) (x : Hart) : (s.setHart h x).kiln = s.kiln := rfl
@[simp] theorem setHart_inbox (s : State) (h : Nat) (x : Hart) : (s.setHart h x).inbox = s.inbox := rfl
@[simp] theorem setHart_reachable (s : State) (h : Nat) (x : Hart) : (s.setHart h x).reachable = s.reachable := rfl
@[simp] theorem setHart_iommuRoots (s : State) (h : Nat) (x : Hart) : (s.setHart h x).iommuRoots = s.iommuRoots := rfl
@[simp] theorem setHart_maintLast (s : State) (h : Nat) (x : Hart) : (s.setHart h x).maintLast = s.maintLast := rfl
@[simp] theorem setHart_maintNext (s : State) (h : Nat) (x : Hart) : (s.setHart h x).maintNext = s.maintNext := rfl
@[simp] theorem setHart_checking (s : State) (h : Nat) (x : Hart) : (s.setHart h x).checking = s.checking := rfl
@[simp] theorem setHart_patBusy (s : State) (h : Nat) (x : Hart) : (s.setHart h x).patBusy = s.patBusy := rfl
@[simp] theorem setHart_regNext (s : State) (h : Nat) (x : Hart) : (s.setHart h x).regNext = s.regNext := rfl
@[simp] theorem setHart_buckets (s : State) (h : Nat) (x : Hart) : (s.setHart h x).buckets = s.buckets := rfl
@[simp] theorem setHart_markNs (s : State) (h : Nat) (x : Hart) : (s.setHart h x).markNs = s.markNs := rfl
@[simp] theorem setHart_rails (s : State) (h : Nat) (x : Hart) : (s.setHart h x).rails = s.rails := rfl
@[simp] theorem setHart_domains (s : State) (h : Nat) (x : Hart) : (s.setHart h x).domains = s.domains := rfl
@[simp] theorem setHart_power (s : State) (h : Nat) (x : Hart) : (s.setHart h x).power = s.power := rfl
@[simp] theorem setHart_links (s : State) (h : Nat) (x : Hart) : (s.setHart h x).links = s.links := rfl
@[simp] theorem setHart_thirds (s : State) (h : Nat) (x : Hart) : (s.setHart h x).thirds = s.thirds := rfl
@[simp] theorem setHart_packs (s : State) (h : Nat) (x : Hart) : (s.setHart h x).packs = s.packs := rfl
@[simp] theorem setHart_mgmt (s : State) (h : Nat) (x : Hart) : (s.setHart h x).mgmt = s.mgmt := rfl

/-! ### updHart -/

@[simp] theorem updHart_pending (s : State) (h : Nat) (f : Hart → Hart) : (s.updHart h f).pending = s.pending := rfl
@[simp] theorem updHart_patCache (s : State) (h : Nat) (f : Hart → Hart) : (s.updHart h f).patCache = s.patCache := rfl
@[simp] theorem updHart_rbqCache (s : State) (h : Nat) (f : Hart → Hart) : (s.updHart h f).rbqCache = s.rbqCache := rfl
@[simp] theorem updHart_nocHeld (s : State) (h : Nat) (f : Hart → Hart) : (s.updHart h f).nocHeld = s.nocHeld := rfl
@[simp] theorem updHart_dirOrder (s : State) (h : Nat) (f : Hart → Hart) : (s.updHart h f).dirOrder = s.dirOrder := rfl
@[simp] theorem updHart_slcDirty (s : State) (h : Nat) (f : Hart → Hart) : (s.updHart h f).slcDirty = s.slcDirty := rfl
@[simp] theorem updHart_icache (s : State) (h : Nat) (f : Hart → Hart) : (s.updHart h f).icache = s.icache := rfl
@[simp] theorem updHart_gsCache (s : State) (h : Nat) (f : Hart → Hart) : (s.updHart h f).gsCache = s.gsCache := rfl
@[simp] theorem updHart_carried (s : State) (h : Nat) (f : Hart → Hart) : (s.updHart h f).carried = s.carried := rfl
@[simp] theorem updHart_arb (s : State) (h : Nat) (f : Hart → Hart) : (s.updHart h f).arb = s.arb := rfl
@[simp] theorem updHart_hostIn (s : State) (h : Nat) (f : Hart → Hart) : (s.updHart h f).hostIn = s.hostIn := rfl
@[simp] theorem updHart_regs (s : State) (h : Nat) (f : Hart → Hart) : (s.updHart h f).regs = s.regs := rfl
@[simp] theorem updHart_mem (s : State) (h : Nat) (f : Hart → Hart) : (s.updHart h f).mem = s.mem := rfl
@[simp] theorem updHart_poison (s : State) (h : Nat) (f : Hart → Hart) : (s.updHart h f).poison = s.poison := rfl
@[simp] theorem updHart_freeCount (s : State) (h : Nat) (f : Hart → Hart) :
    (s.updHart h f).freeCount = s.freeCount := rfl
@[simp] theorem updHart_errLog (s : State) (h : Nat) (f : Hart → Hart) : (s.updHart h f).errLog = s.errLog := rfl
@[simp] theorem updHart_fret (s : State) (h : Nat) (f : Hart → Hart) : (s.updHart h f).fret = s.fret := rfl
@[simp] theorem updHart_phaseNs (s : State) (h : Nat) (f : Hart → Hart) : (s.updHart h f).phaseNs = s.phaseNs := rfl
@[simp] theorem updHart_period (s : State) (h : Nat) (f : Hart → Hart) : (s.updHart h f).period = s.period := rfl
@[simp] theorem updHart_epochSet (s : State) (h : Nat) (f : Hart → Hart) :
    (s.updHart h f).epochSet = s.epochSet := rfl
@[simp] theorem updHart_localEpoch (s : State) (h : Nat) (f : Hart → Hart) :
    (s.updHart h f).localEpoch = s.localEpoch := rfl
@[simp] theorem updHart_lostRegions (s : State) (h : Nat) (f : Hart → Hart) :
    (s.updHart h f).lostRegions = s.lostRegions := rfl
@[simp] theorem updHart_master (s : State) (h : Nat) (f : Hart → Hart) : (s.updHart h f).master = s.master := rfl
@[simp] theorem updHart_strictScope (s : State) (h : Nat) (f : Hart → Hart) :
    (s.updHart h f).strictScope = s.strictScope := rfl
@[simp] theorem updHart_moduleId (s : State) (h : Nat) (f : Hart → Hart) :
    (s.updHart h f).moduleId = s.moduleId := rfl
@[simp] theorem updHart_dies (s : State) (h : Nat) (f : Hart → Hart) : (s.updHart h f).dies = s.dies := rfl
@[simp] theorem updHart_blocks (s : State) (h : Nat) (f : Hart → Hart) : (s.updHart h f).blocks = s.blocks := rfl
@[simp] theorem updHart_evidence (s : State) (h : Nat) (f : Hart → Hart) :
    (s.updHart h f).evidence = s.evidence := rfl
@[simp] theorem updHart_muteList (s : State) (h : Nat) (f : Hart → Hart) :
    (s.updHart h f).muteList = s.muteList := rfl
@[simp] theorem updHart_caches (s : State) (h : Nat) (f : Hart → Hart) : (s.updHart h f).caches = s.caches := rfl
@[simp] theorem updHart_evicting (s : State) (h : Nat) (f : Hart → Hart) :
    (s.updHart h f).evicting = s.evicting := rfl
@[simp] theorem updHart_dir (s : State) (h : Nat) (f : Hart → Hart) : (s.updHart h f).dir = s.dir := rfl
@[simp] theorem updHart_slc (s : State) (h : Nat) (f : Hart → Hart) : (s.updHart h f).slc = s.slc := rfl
@[simp] theorem updHart_txns (s : State) (h : Nat) (f : Hart → Hart) : (s.updHart h f).txns = s.txns := rfl
@[simp] theorem updHart_retries (s : State) (h : Nat) (f : Hart → Hart) : (s.updHart h f).retries = s.retries := rfl
@[simp] theorem updHart_engineData (s : State) (h : Nat) (f : Hart → Hart) :
    (s.updHart h f).engineData = s.engineData := rfl
@[simp] theorem updHart_initDone (s : State) (h : Nat) (f : Hart → Hart) :
    (s.updHart h f).initDone = s.initDone := rfl
@[simp] theorem updHart_scrubbing (s : State) (h : Nat) (f : Hart → Hart) :
    (s.updHart h f).scrubbing = s.scrubbing := rfl
@[simp] theorem updHart_hbm (s : State) (h : Nat) (f : Hart → Hart) : (s.updHart h f).hbm = s.hbm := rfl
@[simp] theorem updHart_lpd (s : State) (h : Nat) (f : Hart → Hart) : (s.updHart h f).lpd = s.lpd := rfl
@[simp] theorem updHart_groups (s : State) (h : Nat) (f : Hart → Hart) : (s.updHart h f).groups = s.groups := rfl
@[simp] theorem updHart_headerGib (s : State) (h : Nat) (f : Hart → Hart) :
    (s.updHart h f).headerGib = s.headerGib := rfl
@[simp] theorem updHart_pat (s : State) (h : Nat) (f : Hart → Hart) : (s.updHart h f).pat = s.pat := rfl
@[simp] theorem updHart_reserved (s : State) (h : Nat) (f : Hart → Hart) :
    (s.updHart h f).reserved = s.reserved := rfl
@[simp] theorem updHart_pegs (s : State) (h : Nat) (f : Hart → Hart) : (s.updHart h f).pegs = s.pegs := rfl
@[simp] theorem updHart_casExp (s : State) (h : Nat) (f : Hart → Hart) : (s.updHart h f).casExp = s.casExp := rfl
@[simp] theorem updHart_watches (s : State) (h : Nat) (f : Hart → Hart) : (s.updHart h f).watches = s.watches := rfl
@[simp] theorem updHart_gens (s : State) (h : Nat) (f : Hart → Hart) : (s.updHart h f).gens = s.gens := rfl
@[simp] theorem updHart_fired (s : State) (h : Nat) (f : Hart → Hart) : (s.updHart h f).fired = s.fired := rfl
@[simp] theorem updHart_heldEvents (s : State) (h : Nat) (f : Hart → Hart) :
    (s.updHart h f).heldEvents = s.heldEvents := rfl
@[simp] theorem updHart_eventQ (s : State) (h : Nat) (f : Hart → Hart) : (s.updHart h f).eventQ = s.eventQ := rfl
@[simp] theorem updHart_arms (s : State) (h : Nat) (f : Hart → Hart) : (s.updHart h f).arms = s.arms := rfl
@[simp] theorem updHart_harts (s : State) (h : Nat) (f : Hart → Hart) :
    (s.updHart h f).harts = s.harts.set h (f (s.hart h)) := rfl
@[simp] theorem updHart_coresOn (s : State) (h : Nat) (f : Hart → Hart) : (s.updHart h f).coresOn = s.coresOn := rfl
@[simp] theorem updHart_out (s : State) (h : Nat) (f : Hart → Hart) : (s.updHart h f).out = s.out := rfl
@[simp] theorem updHart_nextTag (s : State) (h : Nat) (f : Hart → Hart) : (s.updHart h f).nextTag = s.nextTag := rfl
@[simp] theorem updHart_answers (s : State) (h : Nat) (f : Hart → Hart) : (s.updHart h f).answers = s.answers := rfl
@[simp] theorem updHart_dma (s : State) (h : Nat) (f : Hart → Hart) : (s.updHart h f).dma = s.dma := rfl
@[simp] theorem updHart_rbq (s : State) (h : Nat) (f : Hart → Hart) : (s.updHart h f).rbq = s.rbq := rfl
@[simp] theorem updHart_outbox (s : State) (h : Nat) (f : Hart → Hart) : (s.updHart h f).outbox = s.outbox := rfl
@[simp] theorem updHart_hostPorts (s : State) (h : Nat) (f : Hart → Hart) :
    (s.updHart h f).hostPorts = s.hostPorts := rfl
@[simp] theorem updHart_hostLog (s : State) (h : Nat) (f : Hart → Hart) : (s.updHart h f).hostLog = s.hostLog := rfl
@[simp] theorem updHart_fabLog (s : State) (h : Nat) (f : Hart → Hart) : (s.updHart h f).fabLog = s.fabLog := rfl
@[simp] theorem updHart_ports (s : State) (h : Nat) (f : Hart → Hart) : (s.updHart h f).ports = s.ports := rfl
@[simp] theorem updHart_fab (s : State) (h : Nat) (f : Hart → Hart) : (s.updHart h f).fab = s.fab := rfl
@[simp] theorem updHart_time (s : State) (h : Nat) (f : Hart → Hart) : (s.updHart h f).time = s.time := rfl
@[simp] theorem updHart_slot (s : State) (h : Nat) (f : Hart → Hart) : (s.updHart h f).slot = s.slot := rfl
@[simp] theorem updHart_colls (s : State) (h : Nat) (f : Hart → Hart) : (s.updHart h f).colls = s.colls := rfl
@[simp] theorem updHart_kiln (s : State) (h : Nat) (f : Hart → Hart) : (s.updHart h f).kiln = s.kiln := rfl
@[simp] theorem updHart_inbox (s : State) (h : Nat) (f : Hart → Hart) : (s.updHart h f).inbox = s.inbox := rfl
@[simp] theorem updHart_reachable (s : State) (h : Nat) (f : Hart → Hart) :
    (s.updHart h f).reachable = s.reachable := rfl
@[simp] theorem updHart_iommuRoots (s : State) (h : Nat) (f : Hart → Hart) :
    (s.updHart h f).iommuRoots = s.iommuRoots := rfl
@[simp] theorem updHart_maintLast (s : State) (h : Nat) (f : Hart → Hart) :
    (s.updHart h f).maintLast = s.maintLast := rfl
@[simp] theorem updHart_maintNext (s : State) (h : Nat) (f : Hart → Hart) :
    (s.updHart h f).maintNext = s.maintNext := rfl
@[simp] theorem updHart_checking (s : State) (h : Nat) (f : Hart → Hart) :
    (s.updHart h f).checking = s.checking := rfl
@[simp] theorem updHart_patBusy (s : State) (h : Nat) (f : Hart → Hart) : (s.updHart h f).patBusy = s.patBusy := rfl
@[simp] theorem updHart_regNext (s : State) (h : Nat) (f : Hart → Hart) : (s.updHart h f).regNext = s.regNext := rfl
@[simp] theorem updHart_buckets (s : State) (h : Nat) (f : Hart → Hart) : (s.updHart h f).buckets = s.buckets := rfl
@[simp] theorem updHart_markNs (s : State) (h : Nat) (f : Hart → Hart) : (s.updHart h f).markNs = s.markNs := rfl
@[simp] theorem updHart_rails (s : State) (h : Nat) (f : Hart → Hart) : (s.updHart h f).rails = s.rails := rfl
@[simp] theorem updHart_domains (s : State) (h : Nat) (f : Hart → Hart) : (s.updHart h f).domains = s.domains := rfl
@[simp] theorem updHart_power (s : State) (h : Nat) (f : Hart → Hart) : (s.updHart h f).power = s.power := rfl
@[simp] theorem updHart_links (s : State) (h : Nat) (f : Hart → Hart) : (s.updHart h f).links = s.links := rfl
@[simp] theorem updHart_thirds (s : State) (h : Nat) (f : Hart → Hart) : (s.updHart h f).thirds = s.thirds := rfl
@[simp] theorem updHart_packs (s : State) (h : Nat) (f : Hart → Hart) : (s.updHart h f).packs = s.packs := rfl
@[simp] theorem updHart_mgmt (s : State) (h : Nat) (f : Hart → Hart) : (s.updHart h f).mgmt = s.mgmt := rfl

/-! ### setArm -/

@[simp] theorem setArm_pending (s : State) (i : Nat) (w : ArmWindow) : (s.setArm i w).pending = s.pending := rfl
@[simp] theorem setArm_patCache (s : State) (i : Nat) (w : ArmWindow) : (s.setArm i w).patCache = s.patCache := rfl
@[simp] theorem setArm_rbqCache (s : State) (i : Nat) (w : ArmWindow) : (s.setArm i w).rbqCache = s.rbqCache := rfl
@[simp] theorem setArm_nocHeld (s : State) (i : Nat) (w : ArmWindow) : (s.setArm i w).nocHeld = s.nocHeld := rfl
@[simp] theorem setArm_dirOrder (s : State) (i : Nat) (w : ArmWindow) : (s.setArm i w).dirOrder = s.dirOrder := rfl
@[simp] theorem setArm_slcDirty (s : State) (i : Nat) (w : ArmWindow) : (s.setArm i w).slcDirty = s.slcDirty := rfl
@[simp] theorem setArm_icache (s : State) (i : Nat) (w : ArmWindow) : (s.setArm i w).icache = s.icache := rfl
@[simp] theorem setArm_gsCache (s : State) (i : Nat) (w : ArmWindow) : (s.setArm i w).gsCache = s.gsCache := rfl
@[simp] theorem setArm_carried (s : State) (i : Nat) (w : ArmWindow) : (s.setArm i w).carried = s.carried := rfl
@[simp] theorem setArm_arb (s : State) (i : Nat) (w : ArmWindow) : (s.setArm i w).arb = s.arb := rfl
@[simp] theorem setArm_hostIn (s : State) (i : Nat) (w : ArmWindow) : (s.setArm i w).hostIn = s.hostIn := rfl
@[simp] theorem setArm_regs (s : State) (i : Nat) (w : ArmWindow) : (s.setArm i w).regs = s.regs := rfl
@[simp] theorem setArm_mem (s : State) (i : Nat) (w : ArmWindow) : (s.setArm i w).mem = s.mem := rfl
@[simp] theorem setArm_poison (s : State) (i : Nat) (w : ArmWindow) : (s.setArm i w).poison = s.poison := rfl
@[simp] theorem setArm_freeCount (s : State) (i : Nat) (w : ArmWindow) : (s.setArm i w).freeCount = s.freeCount := rfl
@[simp] theorem setArm_errLog (s : State) (i : Nat) (w : ArmWindow) : (s.setArm i w).errLog = s.errLog := rfl
@[simp] theorem setArm_fret (s : State) (i : Nat) (w : ArmWindow) : (s.setArm i w).fret = s.fret := rfl
@[simp] theorem setArm_phaseNs (s : State) (i : Nat) (w : ArmWindow) : (s.setArm i w).phaseNs = s.phaseNs := rfl
@[simp] theorem setArm_period (s : State) (i : Nat) (w : ArmWindow) : (s.setArm i w).period = s.period := rfl
@[simp] theorem setArm_epochSet (s : State) (i : Nat) (w : ArmWindow) : (s.setArm i w).epochSet = s.epochSet := rfl
@[simp] theorem setArm_localEpoch (s : State) (i : Nat) (w : ArmWindow) :
    (s.setArm i w).localEpoch = s.localEpoch := rfl
@[simp] theorem setArm_lostRegions (s : State) (i : Nat) (w : ArmWindow) :
    (s.setArm i w).lostRegions = s.lostRegions := rfl
@[simp] theorem setArm_master (s : State) (i : Nat) (w : ArmWindow) : (s.setArm i w).master = s.master := rfl
@[simp] theorem setArm_strictScope (s : State) (i : Nat) (w : ArmWindow) :
    (s.setArm i w).strictScope = s.strictScope := rfl
@[simp] theorem setArm_moduleId (s : State) (i : Nat) (w : ArmWindow) : (s.setArm i w).moduleId = s.moduleId := rfl
@[simp] theorem setArm_dies (s : State) (i : Nat) (w : ArmWindow) : (s.setArm i w).dies = s.dies := rfl
@[simp] theorem setArm_blocks (s : State) (i : Nat) (w : ArmWindow) : (s.setArm i w).blocks = s.blocks := rfl
@[simp] theorem setArm_evidence (s : State) (i : Nat) (w : ArmWindow) : (s.setArm i w).evidence = s.evidence := rfl
@[simp] theorem setArm_muteList (s : State) (i : Nat) (w : ArmWindow) : (s.setArm i w).muteList = s.muteList := rfl
@[simp] theorem setArm_caches (s : State) (i : Nat) (w : ArmWindow) : (s.setArm i w).caches = s.caches := rfl
@[simp] theorem setArm_evicting (s : State) (i : Nat) (w : ArmWindow) : (s.setArm i w).evicting = s.evicting := rfl
@[simp] theorem setArm_dir (s : State) (i : Nat) (w : ArmWindow) : (s.setArm i w).dir = s.dir := rfl
@[simp] theorem setArm_slc (s : State) (i : Nat) (w : ArmWindow) : (s.setArm i w).slc = s.slc := rfl
@[simp] theorem setArm_txns (s : State) (i : Nat) (w : ArmWindow) : (s.setArm i w).txns = s.txns := rfl
@[simp] theorem setArm_retries (s : State) (i : Nat) (w : ArmWindow) : (s.setArm i w).retries = s.retries := rfl
@[simp] theorem setArm_engineData (s : State) (i : Nat) (w : ArmWindow) :
    (s.setArm i w).engineData = s.engineData := rfl
@[simp] theorem setArm_initDone (s : State) (i : Nat) (w : ArmWindow) : (s.setArm i w).initDone = s.initDone := rfl
@[simp] theorem setArm_scrubbing (s : State) (i : Nat) (w : ArmWindow) : (s.setArm i w).scrubbing = s.scrubbing := rfl
@[simp] theorem setArm_hbm (s : State) (i : Nat) (w : ArmWindow) : (s.setArm i w).hbm = s.hbm := rfl
@[simp] theorem setArm_lpd (s : State) (i : Nat) (w : ArmWindow) : (s.setArm i w).lpd = s.lpd := rfl
@[simp] theorem setArm_groups (s : State) (i : Nat) (w : ArmWindow) : (s.setArm i w).groups = s.groups := rfl
@[simp] theorem setArm_headerGib (s : State) (i : Nat) (w : ArmWindow) : (s.setArm i w).headerGib = s.headerGib := rfl
@[simp] theorem setArm_pat (s : State) (i : Nat) (w : ArmWindow) : (s.setArm i w).pat = s.pat := rfl
@[simp] theorem setArm_reserved (s : State) (i : Nat) (w : ArmWindow) : (s.setArm i w).reserved = s.reserved := rfl
@[simp] theorem setArm_pegs (s : State) (i : Nat) (w : ArmWindow) : (s.setArm i w).pegs = s.pegs := rfl
@[simp] theorem setArm_casExp (s : State) (i : Nat) (w : ArmWindow) : (s.setArm i w).casExp = s.casExp := rfl
@[simp] theorem setArm_watches (s : State) (i : Nat) (w : ArmWindow) : (s.setArm i w).watches = s.watches := rfl
@[simp] theorem setArm_gens (s : State) (i : Nat) (w : ArmWindow) : (s.setArm i w).gens = s.gens := rfl
@[simp] theorem setArm_fired (s : State) (i : Nat) (w : ArmWindow) : (s.setArm i w).fired = s.fired := rfl
@[simp] theorem setArm_heldEvents (s : State) (i : Nat) (w : ArmWindow) :
    (s.setArm i w).heldEvents = s.heldEvents := rfl
@[simp] theorem setArm_eventQ (s : State) (i : Nat) (w : ArmWindow) : (s.setArm i w).eventQ = s.eventQ := rfl
@[simp] theorem setArm_arms (s : State) (i : Nat) (w : ArmWindow) : (s.setArm i w).arms = s.arms.set i w := rfl
@[simp] theorem setArm_harts (s : State) (i : Nat) (w : ArmWindow) : (s.setArm i w).harts = s.harts := rfl
@[simp] theorem setArm_coresOn (s : State) (i : Nat) (w : ArmWindow) : (s.setArm i w).coresOn = s.coresOn := rfl
@[simp] theorem setArm_out (s : State) (i : Nat) (w : ArmWindow) : (s.setArm i w).out = s.out := rfl
@[simp] theorem setArm_nextTag (s : State) (i : Nat) (w : ArmWindow) : (s.setArm i w).nextTag = s.nextTag := rfl
@[simp] theorem setArm_answers (s : State) (i : Nat) (w : ArmWindow) : (s.setArm i w).answers = s.answers := rfl
@[simp] theorem setArm_dma (s : State) (i : Nat) (w : ArmWindow) : (s.setArm i w).dma = s.dma := rfl
@[simp] theorem setArm_rbq (s : State) (i : Nat) (w : ArmWindow) : (s.setArm i w).rbq = s.rbq := rfl
@[simp] theorem setArm_outbox (s : State) (i : Nat) (w : ArmWindow) : (s.setArm i w).outbox = s.outbox := rfl
@[simp] theorem setArm_hostPorts (s : State) (i : Nat) (w : ArmWindow) : (s.setArm i w).hostPorts = s.hostPorts := rfl
@[simp] theorem setArm_hostLog (s : State) (i : Nat) (w : ArmWindow) : (s.setArm i w).hostLog = s.hostLog := rfl
@[simp] theorem setArm_fabLog (s : State) (i : Nat) (w : ArmWindow) : (s.setArm i w).fabLog = s.fabLog := rfl
@[simp] theorem setArm_ports (s : State) (i : Nat) (w : ArmWindow) : (s.setArm i w).ports = s.ports := rfl
@[simp] theorem setArm_fab (s : State) (i : Nat) (w : ArmWindow) : (s.setArm i w).fab = s.fab := rfl
@[simp] theorem setArm_time (s : State) (i : Nat) (w : ArmWindow) : (s.setArm i w).time = s.time := rfl
@[simp] theorem setArm_slot (s : State) (i : Nat) (w : ArmWindow) : (s.setArm i w).slot = s.slot := rfl
@[simp] theorem setArm_colls (s : State) (i : Nat) (w : ArmWindow) : (s.setArm i w).colls = s.colls := rfl
@[simp] theorem setArm_kiln (s : State) (i : Nat) (w : ArmWindow) : (s.setArm i w).kiln = s.kiln := rfl
@[simp] theorem setArm_inbox (s : State) (i : Nat) (w : ArmWindow) : (s.setArm i w).inbox = s.inbox := rfl
@[simp] theorem setArm_reachable (s : State) (i : Nat) (w : ArmWindow) : (s.setArm i w).reachable = s.reachable := rfl
@[simp] theorem setArm_iommuRoots (s : State) (i : Nat) (w : ArmWindow) :
    (s.setArm i w).iommuRoots = s.iommuRoots := rfl
@[simp] theorem setArm_maintLast (s : State) (i : Nat) (w : ArmWindow) : (s.setArm i w).maintLast = s.maintLast := rfl
@[simp] theorem setArm_maintNext (s : State) (i : Nat) (w : ArmWindow) : (s.setArm i w).maintNext = s.maintNext := rfl
@[simp] theorem setArm_checking (s : State) (i : Nat) (w : ArmWindow) : (s.setArm i w).checking = s.checking := rfl
@[simp] theorem setArm_patBusy (s : State) (i : Nat) (w : ArmWindow) : (s.setArm i w).patBusy = s.patBusy := rfl
@[simp] theorem setArm_regNext (s : State) (i : Nat) (w : ArmWindow) : (s.setArm i w).regNext = s.regNext := rfl
@[simp] theorem setArm_buckets (s : State) (i : Nat) (w : ArmWindow) : (s.setArm i w).buckets = s.buckets := rfl
@[simp] theorem setArm_markNs (s : State) (i : Nat) (w : ArmWindow) : (s.setArm i w).markNs = s.markNs := rfl
@[simp] theorem setArm_rails (s : State) (i : Nat) (w : ArmWindow) : (s.setArm i w).rails = s.rails := rfl
@[simp] theorem setArm_domains (s : State) (i : Nat) (w : ArmWindow) : (s.setArm i w).domains = s.domains := rfl
@[simp] theorem setArm_power (s : State) (i : Nat) (w : ArmWindow) : (s.setArm i w).power = s.power := rfl
@[simp] theorem setArm_links (s : State) (i : Nat) (w : ArmWindow) : (s.setArm i w).links = s.links := rfl
@[simp] theorem setArm_thirds (s : State) (i : Nat) (w : ArmWindow) : (s.setArm i w).thirds = s.thirds := rfl
@[simp] theorem setArm_packs (s : State) (i : Nat) (w : ArmWindow) : (s.setArm i w).packs = s.packs := rfl
@[simp] theorem setArm_mgmt (s : State) (i : Nat) (w : ArmWindow) : (s.setArm i w).mgmt = s.mgmt := rfl

/-! ### setDma -/

@[simp] theorem setDma_pending (s : State) (r c : Nat) (x : DmaChan) : (s.setDma r c x).pending = s.pending := rfl
@[simp] theorem setDma_patCache (s : State) (r c : Nat) (x : DmaChan) : (s.setDma r c x).patCache = s.patCache := rfl
@[simp] theorem setDma_rbqCache (s : State) (r c : Nat) (x : DmaChan) : (s.setDma r c x).rbqCache = s.rbqCache := rfl
@[simp] theorem setDma_nocHeld (s : State) (r c : Nat) (x : DmaChan) : (s.setDma r c x).nocHeld = s.nocHeld := rfl
@[simp] theorem setDma_dirOrder (s : State) (r c : Nat) (x : DmaChan) : (s.setDma r c x).dirOrder = s.dirOrder := rfl
@[simp] theorem setDma_slcDirty (s : State) (r c : Nat) (x : DmaChan) : (s.setDma r c x).slcDirty = s.slcDirty := rfl
@[simp] theorem setDma_icache (s : State) (r c : Nat) (x : DmaChan) : (s.setDma r c x).icache = s.icache := rfl
@[simp] theorem setDma_gsCache (s : State) (r c : Nat) (x : DmaChan) : (s.setDma r c x).gsCache = s.gsCache := rfl
@[simp] theorem setDma_carried (s : State) (r c : Nat) (x : DmaChan) : (s.setDma r c x).carried = s.carried := rfl
@[simp] theorem setDma_arb (s : State) (r c : Nat) (x : DmaChan) : (s.setDma r c x).arb = s.arb := rfl
@[simp] theorem setDma_hostIn (s : State) (r c : Nat) (x : DmaChan) : (s.setDma r c x).hostIn = s.hostIn := rfl
@[simp] theorem setDma_regs (s : State) (r c : Nat) (x : DmaChan) : (s.setDma r c x).regs = s.regs := rfl
@[simp] theorem setDma_mem (s : State) (r c : Nat) (x : DmaChan) : (s.setDma r c x).mem = s.mem := rfl
@[simp] theorem setDma_poison (s : State) (r c : Nat) (x : DmaChan) : (s.setDma r c x).poison = s.poison := rfl
@[simp] theorem setDma_freeCount (s : State) (r c : Nat) (x : DmaChan) :
    (s.setDma r c x).freeCount = s.freeCount := rfl
@[simp] theorem setDma_errLog (s : State) (r c : Nat) (x : DmaChan) : (s.setDma r c x).errLog = s.errLog := rfl
@[simp] theorem setDma_fret (s : State) (r c : Nat) (x : DmaChan) : (s.setDma r c x).fret = s.fret := rfl
@[simp] theorem setDma_phaseNs (s : State) (r c : Nat) (x : DmaChan) : (s.setDma r c x).phaseNs = s.phaseNs := rfl
@[simp] theorem setDma_period (s : State) (r c : Nat) (x : DmaChan) : (s.setDma r c x).period = s.period := rfl
@[simp] theorem setDma_epochSet (s : State) (r c : Nat) (x : DmaChan) : (s.setDma r c x).epochSet = s.epochSet := rfl
@[simp] theorem setDma_localEpoch (s : State) (r c : Nat) (x : DmaChan) :
    (s.setDma r c x).localEpoch = s.localEpoch := rfl
@[simp] theorem setDma_lostRegions (s : State) (r c : Nat) (x : DmaChan) :
    (s.setDma r c x).lostRegions = s.lostRegions := rfl
@[simp] theorem setDma_master (s : State) (r c : Nat) (x : DmaChan) : (s.setDma r c x).master = s.master := rfl
@[simp] theorem setDma_strictScope (s : State) (r c : Nat) (x : DmaChan) :
    (s.setDma r c x).strictScope = s.strictScope := rfl
@[simp] theorem setDma_moduleId (s : State) (r c : Nat) (x : DmaChan) : (s.setDma r c x).moduleId = s.moduleId := rfl
@[simp] theorem setDma_dies (s : State) (r c : Nat) (x : DmaChan) : (s.setDma r c x).dies = s.dies := rfl
@[simp] theorem setDma_blocks (s : State) (r c : Nat) (x : DmaChan) : (s.setDma r c x).blocks = s.blocks := rfl
@[simp] theorem setDma_evidence (s : State) (r c : Nat) (x : DmaChan) : (s.setDma r c x).evidence = s.evidence := rfl
@[simp] theorem setDma_muteList (s : State) (r c : Nat) (x : DmaChan) : (s.setDma r c x).muteList = s.muteList := rfl
@[simp] theorem setDma_caches (s : State) (r c : Nat) (x : DmaChan) : (s.setDma r c x).caches = s.caches := rfl
@[simp] theorem setDma_evicting (s : State) (r c : Nat) (x : DmaChan) : (s.setDma r c x).evicting = s.evicting := rfl
@[simp] theorem setDma_dir (s : State) (r c : Nat) (x : DmaChan) : (s.setDma r c x).dir = s.dir := rfl
@[simp] theorem setDma_slc (s : State) (r c : Nat) (x : DmaChan) : (s.setDma r c x).slc = s.slc := rfl
@[simp] theorem setDma_txns (s : State) (r c : Nat) (x : DmaChan) : (s.setDma r c x).txns = s.txns := rfl
@[simp] theorem setDma_retries (s : State) (r c : Nat) (x : DmaChan) : (s.setDma r c x).retries = s.retries := rfl
@[simp] theorem setDma_engineData (s : State) (r c : Nat) (x : DmaChan) :
    (s.setDma r c x).engineData = s.engineData := rfl
@[simp] theorem setDma_initDone (s : State) (r c : Nat) (x : DmaChan) : (s.setDma r c x).initDone = s.initDone := rfl
@[simp] theorem setDma_scrubbing (s : State) (r c : Nat) (x : DmaChan) :
    (s.setDma r c x).scrubbing = s.scrubbing := rfl
@[simp] theorem setDma_hbm (s : State) (r c : Nat) (x : DmaChan) : (s.setDma r c x).hbm = s.hbm := rfl
@[simp] theorem setDma_lpd (s : State) (r c : Nat) (x : DmaChan) : (s.setDma r c x).lpd = s.lpd := rfl
@[simp] theorem setDma_groups (s : State) (r c : Nat) (x : DmaChan) : (s.setDma r c x).groups = s.groups := rfl
@[simp] theorem setDma_headerGib (s : State) (r c : Nat) (x : DmaChan) :
    (s.setDma r c x).headerGib = s.headerGib := rfl
@[simp] theorem setDma_pat (s : State) (r c : Nat) (x : DmaChan) : (s.setDma r c x).pat = s.pat := rfl
@[simp] theorem setDma_reserved (s : State) (r c : Nat) (x : DmaChan) : (s.setDma r c x).reserved = s.reserved := rfl
@[simp] theorem setDma_pegs (s : State) (r c : Nat) (x : DmaChan) : (s.setDma r c x).pegs = s.pegs := rfl
@[simp] theorem setDma_casExp (s : State) (r c : Nat) (x : DmaChan) : (s.setDma r c x).casExp = s.casExp := rfl
@[simp] theorem setDma_watches (s : State) (r c : Nat) (x : DmaChan) : (s.setDma r c x).watches = s.watches := rfl
@[simp] theorem setDma_gens (s : State) (r c : Nat) (x : DmaChan) : (s.setDma r c x).gens = s.gens := rfl
@[simp] theorem setDma_fired (s : State) (r c : Nat) (x : DmaChan) : (s.setDma r c x).fired = s.fired := rfl
@[simp] theorem setDma_heldEvents (s : State) (r c : Nat) (x : DmaChan) :
    (s.setDma r c x).heldEvents = s.heldEvents := rfl
@[simp] theorem setDma_eventQ (s : State) (r c : Nat) (x : DmaChan) : (s.setDma r c x).eventQ = s.eventQ := rfl
@[simp] theorem setDma_arms (s : State) (r c : Nat) (x : DmaChan) : (s.setDma r c x).arms = s.arms := rfl
@[simp] theorem setDma_harts (s : State) (r c : Nat) (x : DmaChan) : (s.setDma r c x).harts = s.harts := rfl
@[simp] theorem setDma_coresOn (s : State) (r c : Nat) (x : DmaChan) : (s.setDma r c x).coresOn = s.coresOn := rfl
@[simp] theorem setDma_out (s : State) (r c : Nat) (x : DmaChan) : (s.setDma r c x).out = s.out := rfl
@[simp] theorem setDma_nextTag (s : State) (r c : Nat) (x : DmaChan) : (s.setDma r c x).nextTag = s.nextTag := rfl
@[simp] theorem setDma_answers (s : State) (r c : Nat) (x : DmaChan) : (s.setDma r c x).answers = s.answers := rfl
@[simp] theorem setDma_dma (s : State) (r c : Nat) (x : DmaChan) : (s.setDma r c x).dma = s.dma.set (r, c) x := rfl
@[simp] theorem setDma_rbq (s : State) (r c : Nat) (x : DmaChan) : (s.setDma r c x).rbq = s.rbq := rfl
@[simp] theorem setDma_outbox (s : State) (r c : Nat) (x : DmaChan) : (s.setDma r c x).outbox = s.outbox := rfl
@[simp] theorem setDma_hostPorts (s : State) (r c : Nat) (x : DmaChan) :
    (s.setDma r c x).hostPorts = s.hostPorts := rfl
@[simp] theorem setDma_hostLog (s : State) (r c : Nat) (x : DmaChan) : (s.setDma r c x).hostLog = s.hostLog := rfl
@[simp] theorem setDma_fabLog (s : State) (r c : Nat) (x : DmaChan) : (s.setDma r c x).fabLog = s.fabLog := rfl
@[simp] theorem setDma_ports (s : State) (r c : Nat) (x : DmaChan) : (s.setDma r c x).ports = s.ports := rfl
@[simp] theorem setDma_fab (s : State) (r c : Nat) (x : DmaChan) : (s.setDma r c x).fab = s.fab := rfl
@[simp] theorem setDma_time (s : State) (r c : Nat) (x : DmaChan) : (s.setDma r c x).time = s.time := rfl
@[simp] theorem setDma_slot (s : State) (r c : Nat) (x : DmaChan) : (s.setDma r c x).slot = s.slot := rfl
@[simp] theorem setDma_colls (s : State) (r c : Nat) (x : DmaChan) : (s.setDma r c x).colls = s.colls := rfl
@[simp] theorem setDma_kiln (s : State) (r c : Nat) (x : DmaChan) : (s.setDma r c x).kiln = s.kiln := rfl
@[simp] theorem setDma_inbox (s : State) (r c : Nat) (x : DmaChan) : (s.setDma r c x).inbox = s.inbox := rfl
@[simp] theorem setDma_reachable (s : State) (r c : Nat) (x : DmaChan) :
    (s.setDma r c x).reachable = s.reachable := rfl
@[simp] theorem setDma_iommuRoots (s : State) (r c : Nat) (x : DmaChan) :
    (s.setDma r c x).iommuRoots = s.iommuRoots := rfl
@[simp] theorem setDma_maintLast (s : State) (r c : Nat) (x : DmaChan) :
    (s.setDma r c x).maintLast = s.maintLast := rfl
@[simp] theorem setDma_maintNext (s : State) (r c : Nat) (x : DmaChan) :
    (s.setDma r c x).maintNext = s.maintNext := rfl
@[simp] theorem setDma_checking (s : State) (r c : Nat) (x : DmaChan) : (s.setDma r c x).checking = s.checking := rfl
@[simp] theorem setDma_patBusy (s : State) (r c : Nat) (x : DmaChan) : (s.setDma r c x).patBusy = s.patBusy := rfl
@[simp] theorem setDma_regNext (s : State) (r c : Nat) (x : DmaChan) : (s.setDma r c x).regNext = s.regNext := rfl
@[simp] theorem setDma_buckets (s : State) (r c : Nat) (x : DmaChan) : (s.setDma r c x).buckets = s.buckets := rfl
@[simp] theorem setDma_markNs (s : State) (r c : Nat) (x : DmaChan) : (s.setDma r c x).markNs = s.markNs := rfl
@[simp] theorem setDma_rails (s : State) (r c : Nat) (x : DmaChan) : (s.setDma r c x).rails = s.rails := rfl
@[simp] theorem setDma_domains (s : State) (r c : Nat) (x : DmaChan) : (s.setDma r c x).domains = s.domains := rfl
@[simp] theorem setDma_power (s : State) (r c : Nat) (x : DmaChan) : (s.setDma r c x).power = s.power := rfl
@[simp] theorem setDma_links (s : State) (r c : Nat) (x : DmaChan) : (s.setDma r c x).links = s.links := rfl
@[simp] theorem setDma_thirds (s : State) (r c : Nat) (x : DmaChan) : (s.setDma r c x).thirds = s.thirds := rfl
@[simp] theorem setDma_packs (s : State) (r c : Nat) (x : DmaChan) : (s.setDma r c x).packs = s.packs := rfl
@[simp] theorem setDma_mgmt (s : State) (r c : Nat) (x : DmaChan) : (s.setDma r c x).mgmt = s.mgmt := rfl

/-! ### updDma -/

@[simp] theorem updDma_pending (s : State) (r c : Nat) (f : DmaChan → DmaChan) :
    (s.updDma r c f).pending = s.pending := rfl
@[simp] theorem updDma_regs (s : State) (r c : Nat) (f : DmaChan → DmaChan) : (s.updDma r c f).regs = s.regs := rfl
@[simp] theorem updDma_mem (s : State) (r c : Nat) (f : DmaChan → DmaChan) : (s.updDma r c f).mem = s.mem := rfl
@[simp] theorem updDma_poison (s : State) (r c : Nat) (f : DmaChan → DmaChan) :
    (s.updDma r c f).poison = s.poison := rfl
@[simp] theorem updDma_freeCount (s : State) (r c : Nat) (f : DmaChan → DmaChan) :
    (s.updDma r c f).freeCount = s.freeCount := rfl
@[simp] theorem updDma_errLog (s : State) (r c : Nat) (f : DmaChan → DmaChan) :
    (s.updDma r c f).errLog = s.errLog := rfl
@[simp] theorem updDma_fret (s : State) (r c : Nat) (f : DmaChan → DmaChan) : (s.updDma r c f).fret = s.fret := rfl
@[simp] theorem updDma_phaseNs (s : State) (r c : Nat) (f : DmaChan → DmaChan) :
    (s.updDma r c f).phaseNs = s.phaseNs := rfl
@[simp] theorem updDma_period (s : State) (r c : Nat) (f : DmaChan → DmaChan) :
    (s.updDma r c f).period = s.period := rfl
@[simp] theorem updDma_epochSet (s : State) (r c : Nat) (f : DmaChan → DmaChan) :
    (s.updDma r c f).epochSet = s.epochSet := rfl
@[simp] theorem updDma_localEpoch (s : State) (r c : Nat) (f : DmaChan → DmaChan) :
    (s.updDma r c f).localEpoch = s.localEpoch := rfl
@[simp] theorem updDma_lostRegions (s : State) (r c : Nat) (f : DmaChan → DmaChan) :
    (s.updDma r c f).lostRegions = s.lostRegions := rfl
@[simp] theorem updDma_master (s : State) (r c : Nat) (f : DmaChan → DmaChan) :
    (s.updDma r c f).master = s.master := rfl
@[simp] theorem updDma_strictScope (s : State) (r c : Nat) (f : DmaChan → DmaChan) :
    (s.updDma r c f).strictScope = s.strictScope := rfl
@[simp] theorem updDma_moduleId (s : State) (r c : Nat) (f : DmaChan → DmaChan) :
    (s.updDma r c f).moduleId = s.moduleId := rfl
@[simp] theorem updDma_dies (s : State) (r c : Nat) (f : DmaChan → DmaChan) : (s.updDma r c f).dies = s.dies := rfl
@[simp] theorem updDma_blocks (s : State) (r c : Nat) (f : DmaChan → DmaChan) :
    (s.updDma r c f).blocks = s.blocks := rfl
@[simp] theorem updDma_evidence (s : State) (r c : Nat) (f : DmaChan → DmaChan) :
    (s.updDma r c f).evidence = s.evidence := rfl
@[simp] theorem updDma_muteList (s : State) (r c : Nat) (f : DmaChan → DmaChan) :
    (s.updDma r c f).muteList = s.muteList := rfl
@[simp] theorem updDma_caches (s : State) (r c : Nat) (f : DmaChan → DmaChan) :
    (s.updDma r c f).caches = s.caches := rfl
@[simp] theorem updDma_evicting (s : State) (r c : Nat) (f : DmaChan → DmaChan) :
    (s.updDma r c f).evicting = s.evicting := rfl
@[simp] theorem updDma_dir (s : State) (r c : Nat) (f : DmaChan → DmaChan) : (s.updDma r c f).dir = s.dir := rfl
@[simp] theorem updDma_slc (s : State) (r c : Nat) (f : DmaChan → DmaChan) : (s.updDma r c f).slc = s.slc := rfl
@[simp] theorem updDma_txns (s : State) (r c : Nat) (f : DmaChan → DmaChan) : (s.updDma r c f).txns = s.txns := rfl
@[simp] theorem updDma_retries (s : State) (r c : Nat) (f : DmaChan → DmaChan) :
    (s.updDma r c f).retries = s.retries := rfl
@[simp] theorem updDma_engineData (s : State) (r c : Nat) (f : DmaChan → DmaChan) :
    (s.updDma r c f).engineData = s.engineData := rfl
@[simp] theorem updDma_initDone (s : State) (r c : Nat) (f : DmaChan → DmaChan) :
    (s.updDma r c f).initDone = s.initDone := rfl
@[simp] theorem updDma_scrubbing (s : State) (r c : Nat) (f : DmaChan → DmaChan) :
    (s.updDma r c f).scrubbing = s.scrubbing := rfl
@[simp] theorem updDma_hbm (s : State) (r c : Nat) (f : DmaChan → DmaChan) : (s.updDma r c f).hbm = s.hbm := rfl
@[simp] theorem updDma_lpd (s : State) (r c : Nat) (f : DmaChan → DmaChan) : (s.updDma r c f).lpd = s.lpd := rfl
@[simp] theorem updDma_groups (s : State) (r c : Nat) (f : DmaChan → DmaChan) :
    (s.updDma r c f).groups = s.groups := rfl
@[simp] theorem updDma_headerGib (s : State) (r c : Nat) (f : DmaChan → DmaChan) :
    (s.updDma r c f).headerGib = s.headerGib := rfl
@[simp] theorem updDma_pat (s : State) (r c : Nat) (f : DmaChan → DmaChan) : (s.updDma r c f).pat = s.pat := rfl
@[simp] theorem updDma_reserved (s : State) (r c : Nat) (f : DmaChan → DmaChan) :
    (s.updDma r c f).reserved = s.reserved := rfl
@[simp] theorem updDma_pegs (s : State) (r c : Nat) (f : DmaChan → DmaChan) : (s.updDma r c f).pegs = s.pegs := rfl
@[simp] theorem updDma_casExp (s : State) (r c : Nat) (f : DmaChan → DmaChan) :
    (s.updDma r c f).casExp = s.casExp := rfl
@[simp] theorem updDma_watches (s : State) (r c : Nat) (f : DmaChan → DmaChan) :
    (s.updDma r c f).watches = s.watches := rfl
@[simp] theorem updDma_gens (s : State) (r c : Nat) (f : DmaChan → DmaChan) : (s.updDma r c f).gens = s.gens := rfl
@[simp] theorem updDma_fired (s : State) (r c : Nat) (f : DmaChan → DmaChan) : (s.updDma r c f).fired = s.fired := rfl
@[simp] theorem updDma_heldEvents (s : State) (r c : Nat) (f : DmaChan → DmaChan) :
    (s.updDma r c f).heldEvents = s.heldEvents := rfl
@[simp] theorem updDma_eventQ (s : State) (r c : Nat) (f : DmaChan → DmaChan) :
    (s.updDma r c f).eventQ = s.eventQ := rfl
@[simp] theorem updDma_arms (s : State) (r c : Nat) (f : DmaChan → DmaChan) : (s.updDma r c f).arms = s.arms := rfl
@[simp] theorem updDma_harts (s : State) (r c : Nat) (f : DmaChan → DmaChan) : (s.updDma r c f).harts = s.harts := rfl
@[simp] theorem updDma_coresOn (s : State) (r c : Nat) (f : DmaChan → DmaChan) :
    (s.updDma r c f).coresOn = s.coresOn := rfl
@[simp] theorem updDma_out (s : State) (r c : Nat) (f : DmaChan → DmaChan) : (s.updDma r c f).out = s.out := rfl
@[simp] theorem updDma_nextTag (s : State) (r c : Nat) (f : DmaChan → DmaChan) :
    (s.updDma r c f).nextTag = s.nextTag := rfl
@[simp] theorem updDma_answers (s : State) (r c : Nat) (f : DmaChan → DmaChan) :
    (s.updDma r c f).answers = s.answers := rfl
@[simp] theorem updDma_dma (s : State) (r c : Nat) (f : DmaChan → DmaChan) :
    (s.updDma r c f).dma = s.dma.set (r, c) (f (s.dmaChan r c)) := rfl
@[simp] theorem updDma_rbq (s : State) (r c : Nat) (f : DmaChan → DmaChan) : (s.updDma r c f).rbq = s.rbq := rfl
@[simp] theorem updDma_outbox (s : State) (r c : Nat) (f : DmaChan → DmaChan) :
    (s.updDma r c f).outbox = s.outbox := rfl
@[simp] theorem updDma_hostPorts (s : State) (r c : Nat) (f : DmaChan → DmaChan) :
    (s.updDma r c f).hostPorts = s.hostPorts := rfl
@[simp] theorem updDma_hostLog (s : State) (r c : Nat) (f : DmaChan → DmaChan) :
    (s.updDma r c f).hostLog = s.hostLog := rfl
@[simp] theorem updDma_fabLog (s : State) (r c : Nat) (f : DmaChan → DmaChan) :
    (s.updDma r c f).fabLog = s.fabLog := rfl
@[simp] theorem updDma_ports (s : State) (r c : Nat) (f : DmaChan → DmaChan) : (s.updDma r c f).ports = s.ports := rfl
@[simp] theorem updDma_fab (s : State) (r c : Nat) (f : DmaChan → DmaChan) : (s.updDma r c f).fab = s.fab := rfl
@[simp] theorem updDma_time (s : State) (r c : Nat) (f : DmaChan → DmaChan) : (s.updDma r c f).time = s.time := rfl
@[simp] theorem updDma_slot (s : State) (r c : Nat) (f : DmaChan → DmaChan) : (s.updDma r c f).slot = s.slot := rfl
@[simp] theorem updDma_colls (s : State) (r c : Nat) (f : DmaChan → DmaChan) : (s.updDma r c f).colls = s.colls := rfl
@[simp] theorem updDma_kiln (s : State) (r c : Nat) (f : DmaChan → DmaChan) : (s.updDma r c f).kiln = s.kiln := rfl
@[simp] theorem updDma_inbox (s : State) (r c : Nat) (f : DmaChan → DmaChan) : (s.updDma r c f).inbox = s.inbox := rfl
@[simp] theorem updDma_reachable (s : State) (r c : Nat) (f : DmaChan → DmaChan) :
    (s.updDma r c f).reachable = s.reachable := rfl
@[simp] theorem updDma_iommuRoots (s : State) (r c : Nat) (f : DmaChan → DmaChan) :
    (s.updDma r c f).iommuRoots = s.iommuRoots := rfl
@[simp] theorem updDma_maintLast (s : State) (r c : Nat) (f : DmaChan → DmaChan) :
    (s.updDma r c f).maintLast = s.maintLast := rfl
@[simp] theorem updDma_maintNext (s : State) (r c : Nat) (f : DmaChan → DmaChan) :
    (s.updDma r c f).maintNext = s.maintNext := rfl
@[simp] theorem updDma_checking (s : State) (r c : Nat) (f : DmaChan → DmaChan) :
    (s.updDma r c f).checking = s.checking := rfl
@[simp] theorem updDma_patBusy (s : State) (r c : Nat) (f : DmaChan → DmaChan) :
    (s.updDma r c f).patBusy = s.patBusy := rfl
@[simp] theorem updDma_regNext (s : State) (r c : Nat) (f : DmaChan → DmaChan) :
    (s.updDma r c f).regNext = s.regNext := rfl
@[simp] theorem updDma_buckets (s : State) (r c : Nat) (f : DmaChan → DmaChan) :
    (s.updDma r c f).buckets = s.buckets := rfl
@[simp] theorem updDma_markNs (s : State) (r c : Nat) (f : DmaChan → DmaChan) :
    (s.updDma r c f).markNs = s.markNs := rfl
@[simp] theorem updDma_rails (s : State) (r c : Nat) (f : DmaChan → DmaChan) : (s.updDma r c f).rails = s.rails := rfl
@[simp] theorem updDma_domains (s : State) (r c : Nat) (f : DmaChan → DmaChan) :
    (s.updDma r c f).domains = s.domains := rfl
@[simp] theorem updDma_power (s : State) (r c : Nat) (f : DmaChan → DmaChan) : (s.updDma r c f).power = s.power := rfl
@[simp] theorem updDma_links (s : State) (r c : Nat) (f : DmaChan → DmaChan) : (s.updDma r c f).links = s.links := rfl
@[simp] theorem updDma_thirds (s : State) (r c : Nat) (f : DmaChan → DmaChan) :
    (s.updDma r c f).thirds = s.thirds := rfl
@[simp] theorem updDma_packs (s : State) (r c : Nat) (f : DmaChan → DmaChan) : (s.updDma r c f).packs = s.packs := rfl
@[simp] theorem updDma_mgmt (s : State) (r c : Nat) (f : DmaChan → DmaChan) : (s.updDma r c f).mgmt = s.mgmt := rfl

/-! ### setColl -/

@[simp] theorem setColl_pending (s : State) (r c : Nat) (x : CollChan) : (s.setColl r c x).pending = s.pending := rfl
@[simp] theorem setColl_patCache (s : State) (r c : Nat) (x : CollChan) : (s.setColl r c x).patCache = s.patCache := rfl
@[simp] theorem setColl_rbqCache (s : State) (r c : Nat) (x : CollChan) : (s.setColl r c x).rbqCache = s.rbqCache := rfl
@[simp] theorem setColl_nocHeld (s : State) (r c : Nat) (x : CollChan) : (s.setColl r c x).nocHeld = s.nocHeld := rfl
@[simp] theorem setColl_dirOrder (s : State) (r c : Nat) (x : CollChan) : (s.setColl r c x).dirOrder = s.dirOrder := rfl
@[simp] theorem setColl_slcDirty (s : State) (r c : Nat) (x : CollChan) : (s.setColl r c x).slcDirty = s.slcDirty := rfl
@[simp] theorem setColl_icache (s : State) (r c : Nat) (x : CollChan) : (s.setColl r c x).icache = s.icache := rfl
@[simp] theorem setColl_gsCache (s : State) (r c : Nat) (x : CollChan) : (s.setColl r c x).gsCache = s.gsCache := rfl
@[simp] theorem setColl_carried (s : State) (r c : Nat) (x : CollChan) : (s.setColl r c x).carried = s.carried := rfl
@[simp] theorem setColl_arb (s : State) (r c : Nat) (x : CollChan) : (s.setColl r c x).arb = s.arb := rfl
@[simp] theorem setColl_hostIn (s : State) (r c : Nat) (x : CollChan) : (s.setColl r c x).hostIn = s.hostIn := rfl
@[simp] theorem setColl_regs (s : State) (r c : Nat) (x : CollChan) : (s.setColl r c x).regs = s.regs := rfl
@[simp] theorem setColl_mem (s : State) (r c : Nat) (x : CollChan) : (s.setColl r c x).mem = s.mem := rfl
@[simp] theorem setColl_poison (s : State) (r c : Nat) (x : CollChan) : (s.setColl r c x).poison = s.poison := rfl
@[simp] theorem setColl_freeCount (s : State) (r c : Nat) (x : CollChan) :
    (s.setColl r c x).freeCount = s.freeCount := rfl
@[simp] theorem setColl_errLog (s : State) (r c : Nat) (x : CollChan) : (s.setColl r c x).errLog = s.errLog := rfl
@[simp] theorem setColl_fret (s : State) (r c : Nat) (x : CollChan) : (s.setColl r c x).fret = s.fret := rfl
@[simp] theorem setColl_phaseNs (s : State) (r c : Nat) (x : CollChan) : (s.setColl r c x).phaseNs = s.phaseNs := rfl
@[simp] theorem setColl_period (s : State) (r c : Nat) (x : CollChan) : (s.setColl r c x).period = s.period := rfl
@[simp] theorem setColl_epochSet (s : State) (r c : Nat) (x : CollChan) :
    (s.setColl r c x).epochSet = s.epochSet := rfl
@[simp] theorem setColl_localEpoch (s : State) (r c : Nat) (x : CollChan) :
    (s.setColl r c x).localEpoch = s.localEpoch := rfl
@[simp] theorem setColl_lostRegions (s : State) (r c : Nat) (x : CollChan) :
    (s.setColl r c x).lostRegions = s.lostRegions := rfl
@[simp] theorem setColl_master (s : State) (r c : Nat) (x : CollChan) : (s.setColl r c x).master = s.master := rfl
@[simp] theorem setColl_strictScope (s : State) (r c : Nat) (x : CollChan) :
    (s.setColl r c x).strictScope = s.strictScope := rfl
@[simp] theorem setColl_moduleId (s : State) (r c : Nat) (x : CollChan) :
    (s.setColl r c x).moduleId = s.moduleId := rfl
@[simp] theorem setColl_dies (s : State) (r c : Nat) (x : CollChan) : (s.setColl r c x).dies = s.dies := rfl
@[simp] theorem setColl_blocks (s : State) (r c : Nat) (x : CollChan) : (s.setColl r c x).blocks = s.blocks := rfl
@[simp] theorem setColl_evidence (s : State) (r c : Nat) (x : CollChan) :
    (s.setColl r c x).evidence = s.evidence := rfl
@[simp] theorem setColl_muteList (s : State) (r c : Nat) (x : CollChan) :
    (s.setColl r c x).muteList = s.muteList := rfl
@[simp] theorem setColl_caches (s : State) (r c : Nat) (x : CollChan) : (s.setColl r c x).caches = s.caches := rfl
@[simp] theorem setColl_evicting (s : State) (r c : Nat) (x : CollChan) :
    (s.setColl r c x).evicting = s.evicting := rfl
@[simp] theorem setColl_dir (s : State) (r c : Nat) (x : CollChan) : (s.setColl r c x).dir = s.dir := rfl
@[simp] theorem setColl_slc (s : State) (r c : Nat) (x : CollChan) : (s.setColl r c x).slc = s.slc := rfl
@[simp] theorem setColl_txns (s : State) (r c : Nat) (x : CollChan) : (s.setColl r c x).txns = s.txns := rfl
@[simp] theorem setColl_retries (s : State) (r c : Nat) (x : CollChan) : (s.setColl r c x).retries = s.retries := rfl
@[simp] theorem setColl_engineData (s : State) (r c : Nat) (x : CollChan) :
    (s.setColl r c x).engineData = s.engineData := rfl
@[simp] theorem setColl_initDone (s : State) (r c : Nat) (x : CollChan) :
    (s.setColl r c x).initDone = s.initDone := rfl
@[simp] theorem setColl_scrubbing (s : State) (r c : Nat) (x : CollChan) :
    (s.setColl r c x).scrubbing = s.scrubbing := rfl
@[simp] theorem setColl_hbm (s : State) (r c : Nat) (x : CollChan) : (s.setColl r c x).hbm = s.hbm := rfl
@[simp] theorem setColl_lpd (s : State) (r c : Nat) (x : CollChan) : (s.setColl r c x).lpd = s.lpd := rfl
@[simp] theorem setColl_groups (s : State) (r c : Nat) (x : CollChan) : (s.setColl r c x).groups = s.groups := rfl
@[simp] theorem setColl_headerGib (s : State) (r c : Nat) (x : CollChan) :
    (s.setColl r c x).headerGib = s.headerGib := rfl
@[simp] theorem setColl_pat (s : State) (r c : Nat) (x : CollChan) : (s.setColl r c x).pat = s.pat := rfl
@[simp] theorem setColl_reserved (s : State) (r c : Nat) (x : CollChan) :
    (s.setColl r c x).reserved = s.reserved := rfl
@[simp] theorem setColl_pegs (s : State) (r c : Nat) (x : CollChan) : (s.setColl r c x).pegs = s.pegs := rfl
@[simp] theorem setColl_casExp (s : State) (r c : Nat) (x : CollChan) : (s.setColl r c x).casExp = s.casExp := rfl
@[simp] theorem setColl_watches (s : State) (r c : Nat) (x : CollChan) : (s.setColl r c x).watches = s.watches := rfl
@[simp] theorem setColl_gens (s : State) (r c : Nat) (x : CollChan) : (s.setColl r c x).gens = s.gens := rfl
@[simp] theorem setColl_fired (s : State) (r c : Nat) (x : CollChan) : (s.setColl r c x).fired = s.fired := rfl
@[simp] theorem setColl_heldEvents (s : State) (r c : Nat) (x : CollChan) :
    (s.setColl r c x).heldEvents = s.heldEvents := rfl
@[simp] theorem setColl_eventQ (s : State) (r c : Nat) (x : CollChan) : (s.setColl r c x).eventQ = s.eventQ := rfl
@[simp] theorem setColl_arms (s : State) (r c : Nat) (x : CollChan) : (s.setColl r c x).arms = s.arms := rfl
@[simp] theorem setColl_harts (s : State) (r c : Nat) (x : CollChan) : (s.setColl r c x).harts = s.harts := rfl
@[simp] theorem setColl_coresOn (s : State) (r c : Nat) (x : CollChan) : (s.setColl r c x).coresOn = s.coresOn := rfl
@[simp] theorem setColl_out (s : State) (r c : Nat) (x : CollChan) : (s.setColl r c x).out = s.out := rfl
@[simp] theorem setColl_nextTag (s : State) (r c : Nat) (x : CollChan) : (s.setColl r c x).nextTag = s.nextTag := rfl
@[simp] theorem setColl_answers (s : State) (r c : Nat) (x : CollChan) : (s.setColl r c x).answers = s.answers := rfl
@[simp] theorem setColl_dma (s : State) (r c : Nat) (x : CollChan) : (s.setColl r c x).dma = s.dma := rfl
@[simp] theorem setColl_rbq (s : State) (r c : Nat) (x : CollChan) : (s.setColl r c x).rbq = s.rbq := rfl
@[simp] theorem setColl_outbox (s : State) (r c : Nat) (x : CollChan) : (s.setColl r c x).outbox = s.outbox := rfl
@[simp] theorem setColl_hostPorts (s : State) (r c : Nat) (x : CollChan) :
    (s.setColl r c x).hostPorts = s.hostPorts := rfl
@[simp] theorem setColl_hostLog (s : State) (r c : Nat) (x : CollChan) : (s.setColl r c x).hostLog = s.hostLog := rfl
@[simp] theorem setColl_fabLog (s : State) (r c : Nat) (x : CollChan) : (s.setColl r c x).fabLog = s.fabLog := rfl
@[simp] theorem setColl_ports (s : State) (r c : Nat) (x : CollChan) : (s.setColl r c x).ports = s.ports := rfl
@[simp] theorem setColl_fab (s : State) (r c : Nat) (x : CollChan) : (s.setColl r c x).fab = s.fab := rfl
@[simp] theorem setColl_time (s : State) (r c : Nat) (x : CollChan) : (s.setColl r c x).time = s.time := rfl
@[simp] theorem setColl_slot (s : State) (r c : Nat) (x : CollChan) : (s.setColl r c x).slot = s.slot := rfl
@[simp] theorem setColl_colls (s : State) (r c : Nat) (x : CollChan) :
    (s.setColl r c x).colls = s.colls.set (r, c) x := rfl
@[simp] theorem setColl_kiln (s : State) (r c : Nat) (x : CollChan) : (s.setColl r c x).kiln = s.kiln := rfl
@[simp] theorem setColl_inbox (s : State) (r c : Nat) (x : CollChan) : (s.setColl r c x).inbox = s.inbox := rfl
@[simp] theorem setColl_reachable (s : State) (r c : Nat) (x : CollChan) :
    (s.setColl r c x).reachable = s.reachable := rfl
@[simp] theorem setColl_iommuRoots (s : State) (r c : Nat) (x : CollChan) :
    (s.setColl r c x).iommuRoots = s.iommuRoots := rfl
@[simp] theorem setColl_maintLast (s : State) (r c : Nat) (x : CollChan) :
    (s.setColl r c x).maintLast = s.maintLast := rfl
@[simp] theorem setColl_maintNext (s : State) (r c : Nat) (x : CollChan) :
    (s.setColl r c x).maintNext = s.maintNext := rfl
@[simp] theorem setColl_checking (s : State) (r c : Nat) (x : CollChan) :
    (s.setColl r c x).checking = s.checking := rfl
@[simp] theorem setColl_patBusy (s : State) (r c : Nat) (x : CollChan) : (s.setColl r c x).patBusy = s.patBusy := rfl
@[simp] theorem setColl_regNext (s : State) (r c : Nat) (x : CollChan) : (s.setColl r c x).regNext = s.regNext := rfl
@[simp] theorem setColl_buckets (s : State) (r c : Nat) (x : CollChan) : (s.setColl r c x).buckets = s.buckets := rfl
@[simp] theorem setColl_markNs (s : State) (r c : Nat) (x : CollChan) : (s.setColl r c x).markNs = s.markNs := rfl
@[simp] theorem setColl_rails (s : State) (r c : Nat) (x : CollChan) : (s.setColl r c x).rails = s.rails := rfl
@[simp] theorem setColl_domains (s : State) (r c : Nat) (x : CollChan) : (s.setColl r c x).domains = s.domains := rfl
@[simp] theorem setColl_power (s : State) (r c : Nat) (x : CollChan) : (s.setColl r c x).power = s.power := rfl
@[simp] theorem setColl_links (s : State) (r c : Nat) (x : CollChan) : (s.setColl r c x).links = s.links := rfl
@[simp] theorem setColl_thirds (s : State) (r c : Nat) (x : CollChan) : (s.setColl r c x).thirds = s.thirds := rfl
@[simp] theorem setColl_packs (s : State) (r c : Nat) (x : CollChan) : (s.setColl r c x).packs = s.packs := rfl
@[simp] theorem setColl_mgmt (s : State) (r c : Nat) (x : CollChan) : (s.setColl r c x).mgmt = s.mgmt := rfl

/-! ### updColl -/

@[simp] theorem updColl_pending (s : State) (r c : Nat) (f : CollChan → CollChan) :
    (s.updColl r c f).pending = s.pending := rfl
@[simp] theorem updColl_regs (s : State) (r c : Nat) (f : CollChan → CollChan) :
    (s.updColl r c f).regs = s.regs := rfl
@[simp] theorem updColl_mem (s : State) (r c : Nat) (f : CollChan → CollChan) : (s.updColl r c f).mem = s.mem := rfl
@[simp] theorem updColl_poison (s : State) (r c : Nat) (f : CollChan → CollChan) :
    (s.updColl r c f).poison = s.poison := rfl
@[simp] theorem updColl_freeCount (s : State) (r c : Nat) (f : CollChan → CollChan) :
    (s.updColl r c f).freeCount = s.freeCount := rfl
@[simp] theorem updColl_errLog (s : State) (r c : Nat) (f : CollChan → CollChan) :
    (s.updColl r c f).errLog = s.errLog := rfl
@[simp] theorem updColl_fret (s : State) (r c : Nat) (f : CollChan → CollChan) :
    (s.updColl r c f).fret = s.fret := rfl
@[simp] theorem updColl_phaseNs (s : State) (r c : Nat) (f : CollChan → CollChan) :
    (s.updColl r c f).phaseNs = s.phaseNs := rfl
@[simp] theorem updColl_period (s : State) (r c : Nat) (f : CollChan → CollChan) :
    (s.updColl r c f).period = s.period := rfl
@[simp] theorem updColl_epochSet (s : State) (r c : Nat) (f : CollChan → CollChan) :
    (s.updColl r c f).epochSet = s.epochSet := rfl
@[simp] theorem updColl_localEpoch (s : State) (r c : Nat) (f : CollChan → CollChan) :
    (s.updColl r c f).localEpoch = s.localEpoch := rfl
@[simp] theorem updColl_lostRegions (s : State) (r c : Nat) (f : CollChan → CollChan) :
    (s.updColl r c f).lostRegions = s.lostRegions := rfl
@[simp] theorem updColl_master (s : State) (r c : Nat) (f : CollChan → CollChan) :
    (s.updColl r c f).master = s.master := rfl
@[simp] theorem updColl_strictScope (s : State) (r c : Nat) (f : CollChan → CollChan) :
    (s.updColl r c f).strictScope = s.strictScope := rfl
@[simp] theorem updColl_moduleId (s : State) (r c : Nat) (f : CollChan → CollChan) :
    (s.updColl r c f).moduleId = s.moduleId := rfl
@[simp] theorem updColl_dies (s : State) (r c : Nat) (f : CollChan → CollChan) :
    (s.updColl r c f).dies = s.dies := rfl
@[simp] theorem updColl_blocks (s : State) (r c : Nat) (f : CollChan → CollChan) :
    (s.updColl r c f).blocks = s.blocks := rfl
@[simp] theorem updColl_evidence (s : State) (r c : Nat) (f : CollChan → CollChan) :
    (s.updColl r c f).evidence = s.evidence := rfl
@[simp] theorem updColl_muteList (s : State) (r c : Nat) (f : CollChan → CollChan) :
    (s.updColl r c f).muteList = s.muteList := rfl
@[simp] theorem updColl_caches (s : State) (r c : Nat) (f : CollChan → CollChan) :
    (s.updColl r c f).caches = s.caches := rfl
@[simp] theorem updColl_evicting (s : State) (r c : Nat) (f : CollChan → CollChan) :
    (s.updColl r c f).evicting = s.evicting := rfl
@[simp] theorem updColl_dir (s : State) (r c : Nat) (f : CollChan → CollChan) : (s.updColl r c f).dir = s.dir := rfl
@[simp] theorem updColl_slc (s : State) (r c : Nat) (f : CollChan → CollChan) : (s.updColl r c f).slc = s.slc := rfl
@[simp] theorem updColl_txns (s : State) (r c : Nat) (f : CollChan → CollChan) :
    (s.updColl r c f).txns = s.txns := rfl
@[simp] theorem updColl_retries (s : State) (r c : Nat) (f : CollChan → CollChan) :
    (s.updColl r c f).retries = s.retries := rfl
@[simp] theorem updColl_engineData (s : State) (r c : Nat) (f : CollChan → CollChan) :
    (s.updColl r c f).engineData = s.engineData := rfl
@[simp] theorem updColl_initDone (s : State) (r c : Nat) (f : CollChan → CollChan) :
    (s.updColl r c f).initDone = s.initDone := rfl
@[simp] theorem updColl_scrubbing (s : State) (r c : Nat) (f : CollChan → CollChan) :
    (s.updColl r c f).scrubbing = s.scrubbing := rfl
@[simp] theorem updColl_hbm (s : State) (r c : Nat) (f : CollChan → CollChan) : (s.updColl r c f).hbm = s.hbm := rfl
@[simp] theorem updColl_lpd (s : State) (r c : Nat) (f : CollChan → CollChan) : (s.updColl r c f).lpd = s.lpd := rfl
@[simp] theorem updColl_groups (s : State) (r c : Nat) (f : CollChan → CollChan) :
    (s.updColl r c f).groups = s.groups := rfl
@[simp] theorem updColl_headerGib (s : State) (r c : Nat) (f : CollChan → CollChan) :
    (s.updColl r c f).headerGib = s.headerGib := rfl
@[simp] theorem updColl_pat (s : State) (r c : Nat) (f : CollChan → CollChan) : (s.updColl r c f).pat = s.pat := rfl
@[simp] theorem updColl_reserved (s : State) (r c : Nat) (f : CollChan → CollChan) :
    (s.updColl r c f).reserved = s.reserved := rfl
@[simp] theorem updColl_pegs (s : State) (r c : Nat) (f : CollChan → CollChan) :
    (s.updColl r c f).pegs = s.pegs := rfl
@[simp] theorem updColl_casExp (s : State) (r c : Nat) (f : CollChan → CollChan) :
    (s.updColl r c f).casExp = s.casExp := rfl
@[simp] theorem updColl_watches (s : State) (r c : Nat) (f : CollChan → CollChan) :
    (s.updColl r c f).watches = s.watches := rfl
@[simp] theorem updColl_gens (s : State) (r c : Nat) (f : CollChan → CollChan) :
    (s.updColl r c f).gens = s.gens := rfl
@[simp] theorem updColl_fired (s : State) (r c : Nat) (f : CollChan → CollChan) :
    (s.updColl r c f).fired = s.fired := rfl
@[simp] theorem updColl_heldEvents (s : State) (r c : Nat) (f : CollChan → CollChan) :
    (s.updColl r c f).heldEvents = s.heldEvents := rfl
@[simp] theorem updColl_eventQ (s : State) (r c : Nat) (f : CollChan → CollChan) :
    (s.updColl r c f).eventQ = s.eventQ := rfl
@[simp] theorem updColl_arms (s : State) (r c : Nat) (f : CollChan → CollChan) :
    (s.updColl r c f).arms = s.arms := rfl
@[simp] theorem updColl_harts (s : State) (r c : Nat) (f : CollChan → CollChan) :
    (s.updColl r c f).harts = s.harts := rfl
@[simp] theorem updColl_coresOn (s : State) (r c : Nat) (f : CollChan → CollChan) :
    (s.updColl r c f).coresOn = s.coresOn := rfl
@[simp] theorem updColl_out (s : State) (r c : Nat) (f : CollChan → CollChan) : (s.updColl r c f).out = s.out := rfl
@[simp] theorem updColl_nextTag (s : State) (r c : Nat) (f : CollChan → CollChan) :
    (s.updColl r c f).nextTag = s.nextTag := rfl
@[simp] theorem updColl_answers (s : State) (r c : Nat) (f : CollChan → CollChan) :
    (s.updColl r c f).answers = s.answers := rfl
@[simp] theorem updColl_dma (s : State) (r c : Nat) (f : CollChan → CollChan) : (s.updColl r c f).dma = s.dma := rfl
@[simp] theorem updColl_rbq (s : State) (r c : Nat) (f : CollChan → CollChan) : (s.updColl r c f).rbq = s.rbq := rfl
@[simp] theorem updColl_outbox (s : State) (r c : Nat) (f : CollChan → CollChan) :
    (s.updColl r c f).outbox = s.outbox := rfl
@[simp] theorem updColl_hostPorts (s : State) (r c : Nat) (f : CollChan → CollChan) :
    (s.updColl r c f).hostPorts = s.hostPorts := rfl
@[simp] theorem updColl_hostLog (s : State) (r c : Nat) (f : CollChan → CollChan) :
    (s.updColl r c f).hostLog = s.hostLog := rfl
@[simp] theorem updColl_fabLog (s : State) (r c : Nat) (f : CollChan → CollChan) :
    (s.updColl r c f).fabLog = s.fabLog := rfl
@[simp] theorem updColl_ports (s : State) (r c : Nat) (f : CollChan → CollChan) :
    (s.updColl r c f).ports = s.ports := rfl
@[simp] theorem updColl_fab (s : State) (r c : Nat) (f : CollChan → CollChan) : (s.updColl r c f).fab = s.fab := rfl
@[simp] theorem updColl_time (s : State) (r c : Nat) (f : CollChan → CollChan) :
    (s.updColl r c f).time = s.time := rfl
@[simp] theorem updColl_slot (s : State) (r c : Nat) (f : CollChan → CollChan) :
    (s.updColl r c f).slot = s.slot := rfl
@[simp] theorem updColl_colls (s : State) (r c : Nat) (f : CollChan → CollChan) :
    (s.updColl r c f).colls = s.colls.set (r, c) (f (s.coll r c)) := rfl
@[simp] theorem updColl_kiln (s : State) (r c : Nat) (f : CollChan → CollChan) :
    (s.updColl r c f).kiln = s.kiln := rfl
@[simp] theorem updColl_inbox (s : State) (r c : Nat) (f : CollChan → CollChan) :
    (s.updColl r c f).inbox = s.inbox := rfl
@[simp] theorem updColl_reachable (s : State) (r c : Nat) (f : CollChan → CollChan) :
    (s.updColl r c f).reachable = s.reachable := rfl
@[simp] theorem updColl_iommuRoots (s : State) (r c : Nat) (f : CollChan → CollChan) :
    (s.updColl r c f).iommuRoots = s.iommuRoots := rfl
@[simp] theorem updColl_maintLast (s : State) (r c : Nat) (f : CollChan → CollChan) :
    (s.updColl r c f).maintLast = s.maintLast := rfl
@[simp] theorem updColl_maintNext (s : State) (r c : Nat) (f : CollChan → CollChan) :
    (s.updColl r c f).maintNext = s.maintNext := rfl
@[simp] theorem updColl_checking (s : State) (r c : Nat) (f : CollChan → CollChan) :
    (s.updColl r c f).checking = s.checking := rfl
@[simp] theorem updColl_patBusy (s : State) (r c : Nat) (f : CollChan → CollChan) :
    (s.updColl r c f).patBusy = s.patBusy := rfl
@[simp] theorem updColl_regNext (s : State) (r c : Nat) (f : CollChan → CollChan) :
    (s.updColl r c f).regNext = s.regNext := rfl
@[simp] theorem updColl_buckets (s : State) (r c : Nat) (f : CollChan → CollChan) :
    (s.updColl r c f).buckets = s.buckets := rfl
@[simp] theorem updColl_markNs (s : State) (r c : Nat) (f : CollChan → CollChan) :
    (s.updColl r c f).markNs = s.markNs := rfl
@[simp] theorem updColl_rails (s : State) (r c : Nat) (f : CollChan → CollChan) :
    (s.updColl r c f).rails = s.rails := rfl
@[simp] theorem updColl_domains (s : State) (r c : Nat) (f : CollChan → CollChan) :
    (s.updColl r c f).domains = s.domains := rfl
@[simp] theorem updColl_power (s : State) (r c : Nat) (f : CollChan → CollChan) :
    (s.updColl r c f).power = s.power := rfl
@[simp] theorem updColl_links (s : State) (r c : Nat) (f : CollChan → CollChan) :
    (s.updColl r c f).links = s.links := rfl
@[simp] theorem updColl_thirds (s : State) (r c : Nat) (f : CollChan → CollChan) :
    (s.updColl r c f).thirds = s.thirds := rfl
@[simp] theorem updColl_packs (s : State) (r c : Nat) (f : CollChan → CollChan) :
    (s.updColl r c f).packs = s.packs := rfl
@[simp] theorem updColl_mgmt (s : State) (r c : Nat) (f : CollChan → CollChan) :
    (s.updColl r c f).mgmt = s.mgmt := rfl

/-! ### setPort -/

@[simp] theorem setPort_pending (s : State) (k : Nat) (x : Port) : (s.setPort k x).pending = s.pending := rfl
@[simp] theorem setPort_patCache (s : State) (k : Nat) (x : Port) : (s.setPort k x).patCache = s.patCache := rfl
@[simp] theorem setPort_rbqCache (s : State) (k : Nat) (x : Port) : (s.setPort k x).rbqCache = s.rbqCache := rfl
@[simp] theorem setPort_nocHeld (s : State) (k : Nat) (x : Port) : (s.setPort k x).nocHeld = s.nocHeld := rfl
@[simp] theorem setPort_dirOrder (s : State) (k : Nat) (x : Port) : (s.setPort k x).dirOrder = s.dirOrder := rfl
@[simp] theorem setPort_slcDirty (s : State) (k : Nat) (x : Port) : (s.setPort k x).slcDirty = s.slcDirty := rfl
@[simp] theorem setPort_icache (s : State) (k : Nat) (x : Port) : (s.setPort k x).icache = s.icache := rfl
@[simp] theorem setPort_gsCache (s : State) (k : Nat) (x : Port) : (s.setPort k x).gsCache = s.gsCache := rfl
@[simp] theorem setPort_carried (s : State) (k : Nat) (x : Port) : (s.setPort k x).carried = s.carried := rfl
@[simp] theorem setPort_arb (s : State) (k : Nat) (x : Port) : (s.setPort k x).arb = s.arb := rfl
@[simp] theorem setPort_hostIn (s : State) (k : Nat) (x : Port) : (s.setPort k x).hostIn = s.hostIn := rfl
@[simp] theorem setPort_regs (s : State) (k : Nat) (x : Port) : (s.setPort k x).regs = s.regs := rfl
@[simp] theorem setPort_mem (s : State) (k : Nat) (x : Port) : (s.setPort k x).mem = s.mem := rfl
@[simp] theorem setPort_poison (s : State) (k : Nat) (x : Port) : (s.setPort k x).poison = s.poison := rfl
@[simp] theorem setPort_freeCount (s : State) (k : Nat) (x : Port) : (s.setPort k x).freeCount = s.freeCount := rfl
@[simp] theorem setPort_errLog (s : State) (k : Nat) (x : Port) : (s.setPort k x).errLog = s.errLog := rfl
@[simp] theorem setPort_fret (s : State) (k : Nat) (x : Port) : (s.setPort k x).fret = s.fret := rfl
@[simp] theorem setPort_phaseNs (s : State) (k : Nat) (x : Port) : (s.setPort k x).phaseNs = s.phaseNs := rfl
@[simp] theorem setPort_period (s : State) (k : Nat) (x : Port) : (s.setPort k x).period = s.period := rfl
@[simp] theorem setPort_epochSet (s : State) (k : Nat) (x : Port) : (s.setPort k x).epochSet = s.epochSet := rfl
@[simp] theorem setPort_localEpoch (s : State) (k : Nat) (x : Port) : (s.setPort k x).localEpoch = s.localEpoch := rfl
@[simp] theorem setPort_lostRegions (s : State) (k : Nat) (x : Port) :
    (s.setPort k x).lostRegions = s.lostRegions := rfl
@[simp] theorem setPort_master (s : State) (k : Nat) (x : Port) : (s.setPort k x).master = s.master := rfl
@[simp] theorem setPort_strictScope (s : State) (k : Nat) (x : Port) :
    (s.setPort k x).strictScope = s.strictScope := rfl
@[simp] theorem setPort_moduleId (s : State) (k : Nat) (x : Port) : (s.setPort k x).moduleId = s.moduleId := rfl
@[simp] theorem setPort_dies (s : State) (k : Nat) (x : Port) : (s.setPort k x).dies = s.dies := rfl
@[simp] theorem setPort_blocks (s : State) (k : Nat) (x : Port) : (s.setPort k x).blocks = s.blocks := rfl
@[simp] theorem setPort_evidence (s : State) (k : Nat) (x : Port) : (s.setPort k x).evidence = s.evidence := rfl
@[simp] theorem setPort_muteList (s : State) (k : Nat) (x : Port) : (s.setPort k x).muteList = s.muteList := rfl
@[simp] theorem setPort_caches (s : State) (k : Nat) (x : Port) : (s.setPort k x).caches = s.caches := rfl
@[simp] theorem setPort_evicting (s : State) (k : Nat) (x : Port) : (s.setPort k x).evicting = s.evicting := rfl
@[simp] theorem setPort_dir (s : State) (k : Nat) (x : Port) : (s.setPort k x).dir = s.dir := rfl
@[simp] theorem setPort_slc (s : State) (k : Nat) (x : Port) : (s.setPort k x).slc = s.slc := rfl
@[simp] theorem setPort_txns (s : State) (k : Nat) (x : Port) : (s.setPort k x).txns = s.txns := rfl
@[simp] theorem setPort_retries (s : State) (k : Nat) (x : Port) : (s.setPort k x).retries = s.retries := rfl
@[simp] theorem setPort_engineData (s : State) (k : Nat) (x : Port) : (s.setPort k x).engineData = s.engineData := rfl
@[simp] theorem setPort_initDone (s : State) (k : Nat) (x : Port) : (s.setPort k x).initDone = s.initDone := rfl
@[simp] theorem setPort_scrubbing (s : State) (k : Nat) (x : Port) : (s.setPort k x).scrubbing = s.scrubbing := rfl
@[simp] theorem setPort_hbm (s : State) (k : Nat) (x : Port) : (s.setPort k x).hbm = s.hbm := rfl
@[simp] theorem setPort_lpd (s : State) (k : Nat) (x : Port) : (s.setPort k x).lpd = s.lpd := rfl
@[simp] theorem setPort_groups (s : State) (k : Nat) (x : Port) : (s.setPort k x).groups = s.groups := rfl
@[simp] theorem setPort_headerGib (s : State) (k : Nat) (x : Port) : (s.setPort k x).headerGib = s.headerGib := rfl
@[simp] theorem setPort_pat (s : State) (k : Nat) (x : Port) : (s.setPort k x).pat = s.pat := rfl
@[simp] theorem setPort_reserved (s : State) (k : Nat) (x : Port) : (s.setPort k x).reserved = s.reserved := rfl
@[simp] theorem setPort_pegs (s : State) (k : Nat) (x : Port) : (s.setPort k x).pegs = s.pegs := rfl
@[simp] theorem setPort_casExp (s : State) (k : Nat) (x : Port) : (s.setPort k x).casExp = s.casExp := rfl
@[simp] theorem setPort_watches (s : State) (k : Nat) (x : Port) : (s.setPort k x).watches = s.watches := rfl
@[simp] theorem setPort_gens (s : State) (k : Nat) (x : Port) : (s.setPort k x).gens = s.gens := rfl
@[simp] theorem setPort_fired (s : State) (k : Nat) (x : Port) : (s.setPort k x).fired = s.fired := rfl
@[simp] theorem setPort_heldEvents (s : State) (k : Nat) (x : Port) : (s.setPort k x).heldEvents = s.heldEvents := rfl
@[simp] theorem setPort_eventQ (s : State) (k : Nat) (x : Port) : (s.setPort k x).eventQ = s.eventQ := rfl
@[simp] theorem setPort_arms (s : State) (k : Nat) (x : Port) : (s.setPort k x).arms = s.arms := rfl
@[simp] theorem setPort_harts (s : State) (k : Nat) (x : Port) : (s.setPort k x).harts = s.harts := rfl
@[simp] theorem setPort_coresOn (s : State) (k : Nat) (x : Port) : (s.setPort k x).coresOn = s.coresOn := rfl
@[simp] theorem setPort_out (s : State) (k : Nat) (x : Port) : (s.setPort k x).out = s.out := rfl
@[simp] theorem setPort_nextTag (s : State) (k : Nat) (x : Port) : (s.setPort k x).nextTag = s.nextTag := rfl
@[simp] theorem setPort_answers (s : State) (k : Nat) (x : Port) : (s.setPort k x).answers = s.answers := rfl
@[simp] theorem setPort_dma (s : State) (k : Nat) (x : Port) : (s.setPort k x).dma = s.dma := rfl
@[simp] theorem setPort_rbq (s : State) (k : Nat) (x : Port) : (s.setPort k x).rbq = s.rbq := rfl
@[simp] theorem setPort_outbox (s : State) (k : Nat) (x : Port) : (s.setPort k x).outbox = s.outbox := rfl
@[simp] theorem setPort_hostPorts (s : State) (k : Nat) (x : Port) : (s.setPort k x).hostPorts = s.hostPorts := rfl
@[simp] theorem setPort_hostLog (s : State) (k : Nat) (x : Port) : (s.setPort k x).hostLog = s.hostLog := rfl
@[simp] theorem setPort_fabLog (s : State) (k : Nat) (x : Port) : (s.setPort k x).fabLog = s.fabLog := rfl
@[simp] theorem setPort_ports (s : State) (k : Nat) (x : Port) : (s.setPort k x).ports = s.ports.set k x := rfl
@[simp] theorem setPort_fab (s : State) (k : Nat) (x : Port) : (s.setPort k x).fab = s.fab := rfl
@[simp] theorem setPort_time (s : State) (k : Nat) (x : Port) : (s.setPort k x).time = s.time := rfl
@[simp] theorem setPort_slot (s : State) (k : Nat) (x : Port) : (s.setPort k x).slot = s.slot := rfl
@[simp] theorem setPort_colls (s : State) (k : Nat) (x : Port) : (s.setPort k x).colls = s.colls := rfl
@[simp] theorem setPort_kiln (s : State) (k : Nat) (x : Port) : (s.setPort k x).kiln = s.kiln := rfl
@[simp] theorem setPort_inbox (s : State) (k : Nat) (x : Port) : (s.setPort k x).inbox = s.inbox := rfl
@[simp] theorem setPort_reachable (s : State) (k : Nat) (x : Port) : (s.setPort k x).reachable = s.reachable := rfl
@[simp] theorem setPort_iommuRoots (s : State) (k : Nat) (x : Port) : (s.setPort k x).iommuRoots = s.iommuRoots := rfl
@[simp] theorem setPort_maintLast (s : State) (k : Nat) (x : Port) : (s.setPort k x).maintLast = s.maintLast := rfl
@[simp] theorem setPort_maintNext (s : State) (k : Nat) (x : Port) : (s.setPort k x).maintNext = s.maintNext := rfl
@[simp] theorem setPort_checking (s : State) (k : Nat) (x : Port) : (s.setPort k x).checking = s.checking := rfl
@[simp] theorem setPort_patBusy (s : State) (k : Nat) (x : Port) : (s.setPort k x).patBusy = s.patBusy := rfl
@[simp] theorem setPort_regNext (s : State) (k : Nat) (x : Port) : (s.setPort k x).regNext = s.regNext := rfl
@[simp] theorem setPort_buckets (s : State) (k : Nat) (x : Port) : (s.setPort k x).buckets = s.buckets := rfl
@[simp] theorem setPort_markNs (s : State) (k : Nat) (x : Port) : (s.setPort k x).markNs = s.markNs := rfl
@[simp] theorem setPort_rails (s : State) (k : Nat) (x : Port) : (s.setPort k x).rails = s.rails := rfl
@[simp] theorem setPort_domains (s : State) (k : Nat) (x : Port) : (s.setPort k x).domains = s.domains := rfl
@[simp] theorem setPort_power (s : State) (k : Nat) (x : Port) : (s.setPort k x).power = s.power := rfl
@[simp] theorem setPort_links (s : State) (k : Nat) (x : Port) : (s.setPort k x).links = s.links := rfl
@[simp] theorem setPort_thirds (s : State) (k : Nat) (x : Port) : (s.setPort k x).thirds = s.thirds := rfl
@[simp] theorem setPort_packs (s : State) (k : Nat) (x : Port) : (s.setPort k x).packs = s.packs := rfl
@[simp] theorem setPort_mgmt (s : State) (k : Nat) (x : Port) : (s.setPort k x).mgmt = s.mgmt := rfl

/-! ### updPort -/

@[simp] theorem updPort_pending (s : State) (k : Nat) (f : Port → Port) : (s.updPort k f).pending = s.pending := rfl
@[simp] theorem updPort_patCache (s : State) (k : Nat) (f : Port → Port) : (s.updPort k f).patCache = s.patCache := rfl
@[simp] theorem updPort_rbqCache (s : State) (k : Nat) (f : Port → Port) : (s.updPort k f).rbqCache = s.rbqCache := rfl
@[simp] theorem updPort_nocHeld (s : State) (k : Nat) (f : Port → Port) : (s.updPort k f).nocHeld = s.nocHeld := rfl
@[simp] theorem updPort_dirOrder (s : State) (k : Nat) (f : Port → Port) : (s.updPort k f).dirOrder = s.dirOrder := rfl
@[simp] theorem updPort_slcDirty (s : State) (k : Nat) (f : Port → Port) : (s.updPort k f).slcDirty = s.slcDirty := rfl
@[simp] theorem updPort_icache (s : State) (k : Nat) (f : Port → Port) : (s.updPort k f).icache = s.icache := rfl
@[simp] theorem updPort_gsCache (s : State) (k : Nat) (f : Port → Port) : (s.updPort k f).gsCache = s.gsCache := rfl
@[simp] theorem updPort_carried (s : State) (k : Nat) (f : Port → Port) : (s.updPort k f).carried = s.carried := rfl
@[simp] theorem updPort_arb (s : State) (k : Nat) (f : Port → Port) : (s.updPort k f).arb = s.arb := rfl
@[simp] theorem updPort_hostIn (s : State) (k : Nat) (f : Port → Port) : (s.updPort k f).hostIn = s.hostIn := rfl
@[simp] theorem updPort_regs (s : State) (k : Nat) (f : Port → Port) : (s.updPort k f).regs = s.regs := rfl
@[simp] theorem updPort_mem (s : State) (k : Nat) (f : Port → Port) : (s.updPort k f).mem = s.mem := rfl
@[simp] theorem updPort_poison (s : State) (k : Nat) (f : Port → Port) : (s.updPort k f).poison = s.poison := rfl
@[simp] theorem updPort_freeCount (s : State) (k : Nat) (f : Port → Port) :
    (s.updPort k f).freeCount = s.freeCount := rfl
@[simp] theorem updPort_errLog (s : State) (k : Nat) (f : Port → Port) : (s.updPort k f).errLog = s.errLog := rfl
@[simp] theorem updPort_fret (s : State) (k : Nat) (f : Port → Port) : (s.updPort k f).fret = s.fret := rfl
@[simp] theorem updPort_phaseNs (s : State) (k : Nat) (f : Port → Port) : (s.updPort k f).phaseNs = s.phaseNs := rfl
@[simp] theorem updPort_period (s : State) (k : Nat) (f : Port → Port) : (s.updPort k f).period = s.period := rfl
@[simp] theorem updPort_epochSet (s : State) (k : Nat) (f : Port → Port) :
    (s.updPort k f).epochSet = s.epochSet := rfl
@[simp] theorem updPort_localEpoch (s : State) (k : Nat) (f : Port → Port) :
    (s.updPort k f).localEpoch = s.localEpoch := rfl
@[simp] theorem updPort_lostRegions (s : State) (k : Nat) (f : Port → Port) :
    (s.updPort k f).lostRegions = s.lostRegions := rfl
@[simp] theorem updPort_master (s : State) (k : Nat) (f : Port → Port) : (s.updPort k f).master = s.master := rfl
@[simp] theorem updPort_strictScope (s : State) (k : Nat) (f : Port → Port) :
    (s.updPort k f).strictScope = s.strictScope := rfl
@[simp] theorem updPort_moduleId (s : State) (k : Nat) (f : Port → Port) :
    (s.updPort k f).moduleId = s.moduleId := rfl
@[simp] theorem updPort_dies (s : State) (k : Nat) (f : Port → Port) : (s.updPort k f).dies = s.dies := rfl
@[simp] theorem updPort_blocks (s : State) (k : Nat) (f : Port → Port) : (s.updPort k f).blocks = s.blocks := rfl
@[simp] theorem updPort_evidence (s : State) (k : Nat) (f : Port → Port) :
    (s.updPort k f).evidence = s.evidence := rfl
@[simp] theorem updPort_muteList (s : State) (k : Nat) (f : Port → Port) :
    (s.updPort k f).muteList = s.muteList := rfl
@[simp] theorem updPort_caches (s : State) (k : Nat) (f : Port → Port) : (s.updPort k f).caches = s.caches := rfl
@[simp] theorem updPort_evicting (s : State) (k : Nat) (f : Port → Port) :
    (s.updPort k f).evicting = s.evicting := rfl
@[simp] theorem updPort_dir (s : State) (k : Nat) (f : Port → Port) : (s.updPort k f).dir = s.dir := rfl
@[simp] theorem updPort_slc (s : State) (k : Nat) (f : Port → Port) : (s.updPort k f).slc = s.slc := rfl
@[simp] theorem updPort_txns (s : State) (k : Nat) (f : Port → Port) : (s.updPort k f).txns = s.txns := rfl
@[simp] theorem updPort_retries (s : State) (k : Nat) (f : Port → Port) : (s.updPort k f).retries = s.retries := rfl
@[simp] theorem updPort_engineData (s : State) (k : Nat) (f : Port → Port) :
    (s.updPort k f).engineData = s.engineData := rfl
@[simp] theorem updPort_initDone (s : State) (k : Nat) (f : Port → Port) :
    (s.updPort k f).initDone = s.initDone := rfl
@[simp] theorem updPort_scrubbing (s : State) (k : Nat) (f : Port → Port) :
    (s.updPort k f).scrubbing = s.scrubbing := rfl
@[simp] theorem updPort_hbm (s : State) (k : Nat) (f : Port → Port) : (s.updPort k f).hbm = s.hbm := rfl
@[simp] theorem updPort_lpd (s : State) (k : Nat) (f : Port → Port) : (s.updPort k f).lpd = s.lpd := rfl
@[simp] theorem updPort_groups (s : State) (k : Nat) (f : Port → Port) : (s.updPort k f).groups = s.groups := rfl
@[simp] theorem updPort_headerGib (s : State) (k : Nat) (f : Port → Port) :
    (s.updPort k f).headerGib = s.headerGib := rfl
@[simp] theorem updPort_pat (s : State) (k : Nat) (f : Port → Port) : (s.updPort k f).pat = s.pat := rfl
@[simp] theorem updPort_reserved (s : State) (k : Nat) (f : Port → Port) :
    (s.updPort k f).reserved = s.reserved := rfl
@[simp] theorem updPort_pegs (s : State) (k : Nat) (f : Port → Port) : (s.updPort k f).pegs = s.pegs := rfl
@[simp] theorem updPort_casExp (s : State) (k : Nat) (f : Port → Port) : (s.updPort k f).casExp = s.casExp := rfl
@[simp] theorem updPort_watches (s : State) (k : Nat) (f : Port → Port) : (s.updPort k f).watches = s.watches := rfl
@[simp] theorem updPort_gens (s : State) (k : Nat) (f : Port → Port) : (s.updPort k f).gens = s.gens := rfl
@[simp] theorem updPort_fired (s : State) (k : Nat) (f : Port → Port) : (s.updPort k f).fired = s.fired := rfl
@[simp] theorem updPort_heldEvents (s : State) (k : Nat) (f : Port → Port) :
    (s.updPort k f).heldEvents = s.heldEvents := rfl
@[simp] theorem updPort_eventQ (s : State) (k : Nat) (f : Port → Port) : (s.updPort k f).eventQ = s.eventQ := rfl
@[simp] theorem updPort_arms (s : State) (k : Nat) (f : Port → Port) : (s.updPort k f).arms = s.arms := rfl
@[simp] theorem updPort_harts (s : State) (k : Nat) (f : Port → Port) : (s.updPort k f).harts = s.harts := rfl
@[simp] theorem updPort_coresOn (s : State) (k : Nat) (f : Port → Port) : (s.updPort k f).coresOn = s.coresOn := rfl
@[simp] theorem updPort_out (s : State) (k : Nat) (f : Port → Port) : (s.updPort k f).out = s.out := rfl
@[simp] theorem updPort_nextTag (s : State) (k : Nat) (f : Port → Port) : (s.updPort k f).nextTag = s.nextTag := rfl
@[simp] theorem updPort_answers (s : State) (k : Nat) (f : Port → Port) : (s.updPort k f).answers = s.answers := rfl
@[simp] theorem updPort_dma (s : State) (k : Nat) (f : Port → Port) : (s.updPort k f).dma = s.dma := rfl
@[simp] theorem updPort_rbq (s : State) (k : Nat) (f : Port → Port) : (s.updPort k f).rbq = s.rbq := rfl
@[simp] theorem updPort_outbox (s : State) (k : Nat) (f : Port → Port) : (s.updPort k f).outbox = s.outbox := rfl
@[simp] theorem updPort_hostPorts (s : State) (k : Nat) (f : Port → Port) :
    (s.updPort k f).hostPorts = s.hostPorts := rfl
@[simp] theorem updPort_hostLog (s : State) (k : Nat) (f : Port → Port) : (s.updPort k f).hostLog = s.hostLog := rfl
@[simp] theorem updPort_fabLog (s : State) (k : Nat) (f : Port → Port) : (s.updPort k f).fabLog = s.fabLog := rfl
@[simp] theorem updPort_ports (s : State) (k : Nat) (f : Port → Port) :
    (s.updPort k f).ports = s.ports.set k (f (s.port k)) := rfl
@[simp] theorem updPort_fab (s : State) (k : Nat) (f : Port → Port) : (s.updPort k f).fab = s.fab := rfl
@[simp] theorem updPort_time (s : State) (k : Nat) (f : Port → Port) : (s.updPort k f).time = s.time := rfl
@[simp] theorem updPort_slot (s : State) (k : Nat) (f : Port → Port) : (s.updPort k f).slot = s.slot := rfl
@[simp] theorem updPort_colls (s : State) (k : Nat) (f : Port → Port) : (s.updPort k f).colls = s.colls := rfl
@[simp] theorem updPort_kiln (s : State) (k : Nat) (f : Port → Port) : (s.updPort k f).kiln = s.kiln := rfl
@[simp] theorem updPort_inbox (s : State) (k : Nat) (f : Port → Port) : (s.updPort k f).inbox = s.inbox := rfl
@[simp] theorem updPort_reachable (s : State) (k : Nat) (f : Port → Port) :
    (s.updPort k f).reachable = s.reachable := rfl
@[simp] theorem updPort_iommuRoots (s : State) (k : Nat) (f : Port → Port) :
    (s.updPort k f).iommuRoots = s.iommuRoots := rfl
@[simp] theorem updPort_maintLast (s : State) (k : Nat) (f : Port → Port) :
    (s.updPort k f).maintLast = s.maintLast := rfl
@[simp] theorem updPort_maintNext (s : State) (k : Nat) (f : Port → Port) :
    (s.updPort k f).maintNext = s.maintNext := rfl
@[simp] theorem updPort_checking (s : State) (k : Nat) (f : Port → Port) :
    (s.updPort k f).checking = s.checking := rfl
@[simp] theorem updPort_patBusy (s : State) (k : Nat) (f : Port → Port) : (s.updPort k f).patBusy = s.patBusy := rfl
@[simp] theorem updPort_regNext (s : State) (k : Nat) (f : Port → Port) : (s.updPort k f).regNext = s.regNext := rfl
@[simp] theorem updPort_buckets (s : State) (k : Nat) (f : Port → Port) : (s.updPort k f).buckets = s.buckets := rfl
@[simp] theorem updPort_markNs (s : State) (k : Nat) (f : Port → Port) : (s.updPort k f).markNs = s.markNs := rfl
@[simp] theorem updPort_rails (s : State) (k : Nat) (f : Port → Port) : (s.updPort k f).rails = s.rails := rfl
@[simp] theorem updPort_domains (s : State) (k : Nat) (f : Port → Port) : (s.updPort k f).domains = s.domains := rfl
@[simp] theorem updPort_power (s : State) (k : Nat) (f : Port → Port) : (s.updPort k f).power = s.power := rfl
@[simp] theorem updPort_links (s : State) (k : Nat) (f : Port → Port) : (s.updPort k f).links = s.links := rfl
@[simp] theorem updPort_thirds (s : State) (k : Nat) (f : Port → Port) : (s.updPort k f).thirds = s.thirds := rfl
@[simp] theorem updPort_packs (s : State) (k : Nat) (f : Port → Port) : (s.updPort k f).packs = s.packs := rfl
@[simp] theorem updPort_mgmt (s : State) (k : Nat) (f : Port → Port) : (s.updPort k f).mgmt = s.mgmt := rfl

/-! ### emit -/

@[simp] theorem emit_pending (s : State) (m : OutMsg) : (s.emit m).pending = s.pending := rfl
@[simp] theorem emit_patCache (s : State) (m : OutMsg) : (s.emit m).patCache = s.patCache := rfl
@[simp] theorem emit_rbqCache (s : State) (m : OutMsg) : (s.emit m).rbqCache = s.rbqCache := rfl
@[simp] theorem emit_nocHeld (s : State) (m : OutMsg) : (s.emit m).nocHeld = s.nocHeld := rfl
@[simp] theorem emit_dirOrder (s : State) (m : OutMsg) : (s.emit m).dirOrder = s.dirOrder := rfl
@[simp] theorem emit_slcDirty (s : State) (m : OutMsg) : (s.emit m).slcDirty = s.slcDirty := rfl
@[simp] theorem emit_icache (s : State) (m : OutMsg) : (s.emit m).icache = s.icache := rfl
@[simp] theorem emit_gsCache (s : State) (m : OutMsg) : (s.emit m).gsCache = s.gsCache := rfl
@[simp] theorem emit_carried (s : State) (m : OutMsg) : (s.emit m).carried = s.carried := rfl
@[simp] theorem emit_arb (s : State) (m : OutMsg) : (s.emit m).arb = s.arb := rfl
@[simp] theorem emit_hostIn (s : State) (m : OutMsg) : (s.emit m).hostIn = s.hostIn := rfl
@[simp] theorem emit_regs (s : State) (m : OutMsg) : (s.emit m).regs = s.regs := rfl
@[simp] theorem emit_mem (s : State) (m : OutMsg) : (s.emit m).mem = s.mem := rfl
@[simp] theorem emit_poison (s : State) (m : OutMsg) : (s.emit m).poison = s.poison := rfl
@[simp] theorem emit_freeCount (s : State) (m : OutMsg) : (s.emit m).freeCount = s.freeCount := rfl
@[simp] theorem emit_errLog (s : State) (m : OutMsg) : (s.emit m).errLog = s.errLog := rfl
@[simp] theorem emit_fret (s : State) (m : OutMsg) : (s.emit m).fret = s.fret := rfl
@[simp] theorem emit_phaseNs (s : State) (m : OutMsg) : (s.emit m).phaseNs = s.phaseNs := rfl
@[simp] theorem emit_period (s : State) (m : OutMsg) : (s.emit m).period = s.period := rfl
@[simp] theorem emit_epochSet (s : State) (m : OutMsg) : (s.emit m).epochSet = s.epochSet := rfl
@[simp] theorem emit_localEpoch (s : State) (m : OutMsg) : (s.emit m).localEpoch = s.localEpoch := rfl
@[simp] theorem emit_lostRegions (s : State) (m : OutMsg) : (s.emit m).lostRegions = s.lostRegions := rfl
@[simp] theorem emit_master (s : State) (m : OutMsg) : (s.emit m).master = s.master := rfl
@[simp] theorem emit_strictScope (s : State) (m : OutMsg) : (s.emit m).strictScope = s.strictScope := rfl
@[simp] theorem emit_moduleId (s : State) (m : OutMsg) : (s.emit m).moduleId = s.moduleId := rfl
@[simp] theorem emit_dies (s : State) (m : OutMsg) : (s.emit m).dies = s.dies := rfl
@[simp] theorem emit_blocks (s : State) (m : OutMsg) : (s.emit m).blocks = s.blocks := rfl
@[simp] theorem emit_evidence (s : State) (m : OutMsg) : (s.emit m).evidence = s.evidence := rfl
@[simp] theorem emit_muteList (s : State) (m : OutMsg) : (s.emit m).muteList = s.muteList := rfl
@[simp] theorem emit_caches (s : State) (m : OutMsg) : (s.emit m).caches = s.caches := rfl
@[simp] theorem emit_evicting (s : State) (m : OutMsg) : (s.emit m).evicting = s.evicting := rfl
@[simp] theorem emit_dir (s : State) (m : OutMsg) : (s.emit m).dir = s.dir := rfl
@[simp] theorem emit_slc (s : State) (m : OutMsg) : (s.emit m).slc = s.slc := rfl
@[simp] theorem emit_txns (s : State) (m : OutMsg) : (s.emit m).txns = s.txns := rfl
@[simp] theorem emit_retries (s : State) (m : OutMsg) : (s.emit m).retries = s.retries := rfl
@[simp] theorem emit_engineData (s : State) (m : OutMsg) : (s.emit m).engineData = s.engineData := rfl
@[simp] theorem emit_initDone (s : State) (m : OutMsg) : (s.emit m).initDone = s.initDone := rfl
@[simp] theorem emit_scrubbing (s : State) (m : OutMsg) : (s.emit m).scrubbing = s.scrubbing := rfl
@[simp] theorem emit_hbm (s : State) (m : OutMsg) : (s.emit m).hbm = s.hbm := rfl
@[simp] theorem emit_lpd (s : State) (m : OutMsg) : (s.emit m).lpd = s.lpd := rfl
@[simp] theorem emit_groups (s : State) (m : OutMsg) : (s.emit m).groups = s.groups := rfl
@[simp] theorem emit_headerGib (s : State) (m : OutMsg) : (s.emit m).headerGib = s.headerGib := rfl
@[simp] theorem emit_pat (s : State) (m : OutMsg) : (s.emit m).pat = s.pat := rfl
@[simp] theorem emit_reserved (s : State) (m : OutMsg) : (s.emit m).reserved = s.reserved := rfl
@[simp] theorem emit_pegs (s : State) (m : OutMsg) : (s.emit m).pegs = s.pegs := rfl
@[simp] theorem emit_casExp (s : State) (m : OutMsg) : (s.emit m).casExp = s.casExp := rfl
@[simp] theorem emit_watches (s : State) (m : OutMsg) : (s.emit m).watches = s.watches := rfl
@[simp] theorem emit_gens (s : State) (m : OutMsg) : (s.emit m).gens = s.gens := rfl
@[simp] theorem emit_fired (s : State) (m : OutMsg) : (s.emit m).fired = s.fired := rfl
@[simp] theorem emit_heldEvents (s : State) (m : OutMsg) : (s.emit m).heldEvents = s.heldEvents := rfl
@[simp] theorem emit_eventQ (s : State) (m : OutMsg) : (s.emit m).eventQ = s.eventQ := rfl
@[simp] theorem emit_arms (s : State) (m : OutMsg) : (s.emit m).arms = s.arms := rfl
@[simp] theorem emit_harts (s : State) (m : OutMsg) : (s.emit m).harts = s.harts := rfl
@[simp] theorem emit_coresOn (s : State) (m : OutMsg) : (s.emit m).coresOn = s.coresOn := rfl
@[simp] theorem emit_out (s : State) (m : OutMsg) : (s.emit m).out = s.out := rfl
@[simp] theorem emit_nextTag (s : State) (m : OutMsg) : (s.emit m).nextTag = s.nextTag := rfl
@[simp] theorem emit_answers (s : State) (m : OutMsg) : (s.emit m).answers = s.answers := rfl
@[simp] theorem emit_dma (s : State) (m : OutMsg) : (s.emit m).dma = s.dma := rfl
@[simp] theorem emit_rbq (s : State) (m : OutMsg) : (s.emit m).rbq = s.rbq := rfl
@[simp] theorem emit_outbox (s : State) (m : OutMsg) : (s.emit m).outbox = s.outbox ++ [m] := rfl
@[simp] theorem emit_hostPorts (s : State) (m : OutMsg) : (s.emit m).hostPorts = s.hostPorts := rfl
@[simp] theorem emit_hostLog (s : State) (m : OutMsg) : (s.emit m).hostLog = s.hostLog := rfl
@[simp] theorem emit_fabLog (s : State) (m : OutMsg) : (s.emit m).fabLog = s.fabLog := rfl
@[simp] theorem emit_ports (s : State) (m : OutMsg) : (s.emit m).ports = s.ports := rfl
@[simp] theorem emit_fab (s : State) (m : OutMsg) : (s.emit m).fab = s.fab := rfl
@[simp] theorem emit_time (s : State) (m : OutMsg) : (s.emit m).time = s.time := rfl
@[simp] theorem emit_slot (s : State) (m : OutMsg) : (s.emit m).slot = s.slot := rfl
@[simp] theorem emit_colls (s : State) (m : OutMsg) : (s.emit m).colls = s.colls := rfl
@[simp] theorem emit_kiln (s : State) (m : OutMsg) : (s.emit m).kiln = s.kiln := rfl
@[simp] theorem emit_inbox (s : State) (m : OutMsg) : (s.emit m).inbox = s.inbox := rfl
@[simp] theorem emit_reachable (s : State) (m : OutMsg) : (s.emit m).reachable = s.reachable := rfl
@[simp] theorem emit_iommuRoots (s : State) (m : OutMsg) : (s.emit m).iommuRoots = s.iommuRoots := rfl
@[simp] theorem emit_maintLast (s : State) (m : OutMsg) : (s.emit m).maintLast = s.maintLast := rfl
@[simp] theorem emit_maintNext (s : State) (m : OutMsg) : (s.emit m).maintNext = s.maintNext := rfl
@[simp] theorem emit_checking (s : State) (m : OutMsg) : (s.emit m).checking = s.checking := rfl
@[simp] theorem emit_patBusy (s : State) (m : OutMsg) : (s.emit m).patBusy = s.patBusy := rfl
@[simp] theorem emit_regNext (s : State) (m : OutMsg) : (s.emit m).regNext = s.regNext := rfl
@[simp] theorem emit_buckets (s : State) (m : OutMsg) : (s.emit m).buckets = s.buckets := rfl
@[simp] theorem emit_markNs (s : State) (m : OutMsg) : (s.emit m).markNs = s.markNs := rfl
@[simp] theorem emit_rails (s : State) (m : OutMsg) : (s.emit m).rails = s.rails := rfl
@[simp] theorem emit_domains (s : State) (m : OutMsg) : (s.emit m).domains = s.domains := rfl
@[simp] theorem emit_power (s : State) (m : OutMsg) : (s.emit m).power = s.power := rfl
@[simp] theorem emit_links (s : State) (m : OutMsg) : (s.emit m).links = s.links := rfl
@[simp] theorem emit_thirds (s : State) (m : OutMsg) : (s.emit m).thirds = s.thirds := rfl
@[simp] theorem emit_packs (s : State) (m : OutMsg) : (s.emit m).packs = s.packs := rfl
@[simp] theorem emit_mgmt (s : State) (m : OutMsg) : (s.emit m).mgmt = s.mgmt := rfl

/-! ### updFab -/

@[simp] theorem updFab_pending (s : State) (f : Fab → Fab) : (s.updFab f).pending = s.pending := rfl
@[simp] theorem updFab_patCache (s : State) (f : Fab → Fab) : (s.updFab f).patCache = s.patCache := rfl
@[simp] theorem updFab_rbqCache (s : State) (f : Fab → Fab) : (s.updFab f).rbqCache = s.rbqCache := rfl
@[simp] theorem updFab_nocHeld (s : State) (f : Fab → Fab) : (s.updFab f).nocHeld = s.nocHeld := rfl
@[simp] theorem updFab_dirOrder (s : State) (f : Fab → Fab) : (s.updFab f).dirOrder = s.dirOrder := rfl
@[simp] theorem updFab_slcDirty (s : State) (f : Fab → Fab) : (s.updFab f).slcDirty = s.slcDirty := rfl
@[simp] theorem updFab_icache (s : State) (f : Fab → Fab) : (s.updFab f).icache = s.icache := rfl
@[simp] theorem updFab_gsCache (s : State) (f : Fab → Fab) : (s.updFab f).gsCache = s.gsCache := rfl
@[simp] theorem updFab_carried (s : State) (f : Fab → Fab) : (s.updFab f).carried = s.carried := rfl
@[simp] theorem updFab_arb (s : State) (f : Fab → Fab) : (s.updFab f).arb = s.arb := rfl
@[simp] theorem updFab_hostIn (s : State) (f : Fab → Fab) : (s.updFab f).hostIn = s.hostIn := rfl
@[simp] theorem updFab_regs (s : State) (f : Fab → Fab) : (s.updFab f).regs = s.regs := rfl
@[simp] theorem updFab_mem (s : State) (f : Fab → Fab) : (s.updFab f).mem = s.mem := rfl
@[simp] theorem updFab_poison (s : State) (f : Fab → Fab) : (s.updFab f).poison = s.poison := rfl
@[simp] theorem updFab_freeCount (s : State) (f : Fab → Fab) : (s.updFab f).freeCount = s.freeCount := rfl
@[simp] theorem updFab_errLog (s : State) (f : Fab → Fab) : (s.updFab f).errLog = s.errLog := rfl
@[simp] theorem updFab_fret (s : State) (f : Fab → Fab) : (s.updFab f).fret = s.fret := rfl
@[simp] theorem updFab_phaseNs (s : State) (f : Fab → Fab) : (s.updFab f).phaseNs = s.phaseNs := rfl
@[simp] theorem updFab_period (s : State) (f : Fab → Fab) : (s.updFab f).period = s.period := rfl
@[simp] theorem updFab_epochSet (s : State) (f : Fab → Fab) : (s.updFab f).epochSet = s.epochSet := rfl
@[simp] theorem updFab_localEpoch (s : State) (f : Fab → Fab) : (s.updFab f).localEpoch = s.localEpoch := rfl
@[simp] theorem updFab_lostRegions (s : State) (f : Fab → Fab) : (s.updFab f).lostRegions = s.lostRegions := rfl
@[simp] theorem updFab_master (s : State) (f : Fab → Fab) : (s.updFab f).master = s.master := rfl
@[simp] theorem updFab_strictScope (s : State) (f : Fab → Fab) : (s.updFab f).strictScope = s.strictScope := rfl
@[simp] theorem updFab_moduleId (s : State) (f : Fab → Fab) : (s.updFab f).moduleId = s.moduleId := rfl
@[simp] theorem updFab_dies (s : State) (f : Fab → Fab) : (s.updFab f).dies = s.dies := rfl
@[simp] theorem updFab_blocks (s : State) (f : Fab → Fab) : (s.updFab f).blocks = s.blocks := rfl
@[simp] theorem updFab_evidence (s : State) (f : Fab → Fab) : (s.updFab f).evidence = s.evidence := rfl
@[simp] theorem updFab_muteList (s : State) (f : Fab → Fab) : (s.updFab f).muteList = s.muteList := rfl
@[simp] theorem updFab_caches (s : State) (f : Fab → Fab) : (s.updFab f).caches = s.caches := rfl
@[simp] theorem updFab_evicting (s : State) (f : Fab → Fab) : (s.updFab f).evicting = s.evicting := rfl
@[simp] theorem updFab_dir (s : State) (f : Fab → Fab) : (s.updFab f).dir = s.dir := rfl
@[simp] theorem updFab_slc (s : State) (f : Fab → Fab) : (s.updFab f).slc = s.slc := rfl
@[simp] theorem updFab_txns (s : State) (f : Fab → Fab) : (s.updFab f).txns = s.txns := rfl
@[simp] theorem updFab_retries (s : State) (f : Fab → Fab) : (s.updFab f).retries = s.retries := rfl
@[simp] theorem updFab_engineData (s : State) (f : Fab → Fab) : (s.updFab f).engineData = s.engineData := rfl
@[simp] theorem updFab_initDone (s : State) (f : Fab → Fab) : (s.updFab f).initDone = s.initDone := rfl
@[simp] theorem updFab_scrubbing (s : State) (f : Fab → Fab) : (s.updFab f).scrubbing = s.scrubbing := rfl
@[simp] theorem updFab_hbm (s : State) (f : Fab → Fab) : (s.updFab f).hbm = s.hbm := rfl
@[simp] theorem updFab_lpd (s : State) (f : Fab → Fab) : (s.updFab f).lpd = s.lpd := rfl
@[simp] theorem updFab_groups (s : State) (f : Fab → Fab) : (s.updFab f).groups = s.groups := rfl
@[simp] theorem updFab_headerGib (s : State) (f : Fab → Fab) : (s.updFab f).headerGib = s.headerGib := rfl
@[simp] theorem updFab_pat (s : State) (f : Fab → Fab) : (s.updFab f).pat = s.pat := rfl
@[simp] theorem updFab_reserved (s : State) (f : Fab → Fab) : (s.updFab f).reserved = s.reserved := rfl
@[simp] theorem updFab_pegs (s : State) (f : Fab → Fab) : (s.updFab f).pegs = s.pegs := rfl
@[simp] theorem updFab_casExp (s : State) (f : Fab → Fab) : (s.updFab f).casExp = s.casExp := rfl
@[simp] theorem updFab_watches (s : State) (f : Fab → Fab) : (s.updFab f).watches = s.watches := rfl
@[simp] theorem updFab_gens (s : State) (f : Fab → Fab) : (s.updFab f).gens = s.gens := rfl
@[simp] theorem updFab_fired (s : State) (f : Fab → Fab) : (s.updFab f).fired = s.fired := rfl
@[simp] theorem updFab_heldEvents (s : State) (f : Fab → Fab) : (s.updFab f).heldEvents = s.heldEvents := rfl
@[simp] theorem updFab_eventQ (s : State) (f : Fab → Fab) : (s.updFab f).eventQ = s.eventQ := rfl
@[simp] theorem updFab_arms (s : State) (f : Fab → Fab) : (s.updFab f).arms = s.arms := rfl
@[simp] theorem updFab_harts (s : State) (f : Fab → Fab) : (s.updFab f).harts = s.harts := rfl
@[simp] theorem updFab_coresOn (s : State) (f : Fab → Fab) : (s.updFab f).coresOn = s.coresOn := rfl
@[simp] theorem updFab_out (s : State) (f : Fab → Fab) : (s.updFab f).out = s.out := rfl
@[simp] theorem updFab_nextTag (s : State) (f : Fab → Fab) : (s.updFab f).nextTag = s.nextTag := rfl
@[simp] theorem updFab_answers (s : State) (f : Fab → Fab) : (s.updFab f).answers = s.answers := rfl
@[simp] theorem updFab_dma (s : State) (f : Fab → Fab) : (s.updFab f).dma = s.dma := rfl
@[simp] theorem updFab_rbq (s : State) (f : Fab → Fab) : (s.updFab f).rbq = s.rbq := rfl
@[simp] theorem updFab_outbox (s : State) (f : Fab → Fab) : (s.updFab f).outbox = s.outbox := rfl
@[simp] theorem updFab_hostPorts (s : State) (f : Fab → Fab) : (s.updFab f).hostPorts = s.hostPorts := rfl
@[simp] theorem updFab_hostLog (s : State) (f : Fab → Fab) : (s.updFab f).hostLog = s.hostLog := rfl
@[simp] theorem updFab_fabLog (s : State) (f : Fab → Fab) : (s.updFab f).fabLog = s.fabLog := rfl
@[simp] theorem updFab_ports (s : State) (f : Fab → Fab) : (s.updFab f).ports = s.ports := rfl
@[simp] theorem updFab_fab (s : State) (f : Fab → Fab) : (s.updFab f).fab = f s.fab := rfl
@[simp] theorem updFab_time (s : State) (f : Fab → Fab) : (s.updFab f).time = s.time := rfl
@[simp] theorem updFab_slot (s : State) (f : Fab → Fab) : (s.updFab f).slot = s.slot := rfl
@[simp] theorem updFab_colls (s : State) (f : Fab → Fab) : (s.updFab f).colls = s.colls := rfl
@[simp] theorem updFab_kiln (s : State) (f : Fab → Fab) : (s.updFab f).kiln = s.kiln := rfl
@[simp] theorem updFab_inbox (s : State) (f : Fab → Fab) : (s.updFab f).inbox = s.inbox := rfl
@[simp] theorem updFab_reachable (s : State) (f : Fab → Fab) : (s.updFab f).reachable = s.reachable := rfl
@[simp] theorem updFab_iommuRoots (s : State) (f : Fab → Fab) : (s.updFab f).iommuRoots = s.iommuRoots := rfl
@[simp] theorem updFab_maintLast (s : State) (f : Fab → Fab) : (s.updFab f).maintLast = s.maintLast := rfl
@[simp] theorem updFab_maintNext (s : State) (f : Fab → Fab) : (s.updFab f).maintNext = s.maintNext := rfl
@[simp] theorem updFab_checking (s : State) (f : Fab → Fab) : (s.updFab f).checking = s.checking := rfl
@[simp] theorem updFab_patBusy (s : State) (f : Fab → Fab) : (s.updFab f).patBusy = s.patBusy := rfl
@[simp] theorem updFab_regNext (s : State) (f : Fab → Fab) : (s.updFab f).regNext = s.regNext := rfl
@[simp] theorem updFab_buckets (s : State) (f : Fab → Fab) : (s.updFab f).buckets = s.buckets := rfl
@[simp] theorem updFab_markNs (s : State) (f : Fab → Fab) : (s.updFab f).markNs = s.markNs := rfl
@[simp] theorem updFab_rails (s : State) (f : Fab → Fab) : (s.updFab f).rails = s.rails := rfl
@[simp] theorem updFab_domains (s : State) (f : Fab → Fab) : (s.updFab f).domains = s.domains := rfl
@[simp] theorem updFab_power (s : State) (f : Fab → Fab) : (s.updFab f).power = s.power := rfl
@[simp] theorem updFab_links (s : State) (f : Fab → Fab) : (s.updFab f).links = s.links := rfl
@[simp] theorem updFab_thirds (s : State) (f : Fab → Fab) : (s.updFab f).thirds = s.thirds := rfl
@[simp] theorem updFab_packs (s : State) (f : Fab → Fab) : (s.updFab f).packs = s.packs := rfl
@[simp] theorem updFab_mgmt (s : State) (f : Fab → Fab) : (s.updFab f).mgmt = s.mgmt := rfl

/-! ### updTime -/

@[simp] theorem updTime_pending (s : State) (f : Time → Time) : (s.updTime f).pending = s.pending := rfl
@[simp] theorem updTime_patCache (s : State) (f : Time → Time) : (s.updTime f).patCache = s.patCache := rfl
@[simp] theorem updTime_rbqCache (s : State) (f : Time → Time) : (s.updTime f).rbqCache = s.rbqCache := rfl
@[simp] theorem updTime_nocHeld (s : State) (f : Time → Time) : (s.updTime f).nocHeld = s.nocHeld := rfl
@[simp] theorem updTime_dirOrder (s : State) (f : Time → Time) : (s.updTime f).dirOrder = s.dirOrder := rfl
@[simp] theorem updTime_slcDirty (s : State) (f : Time → Time) : (s.updTime f).slcDirty = s.slcDirty := rfl
@[simp] theorem updTime_icache (s : State) (f : Time → Time) : (s.updTime f).icache = s.icache := rfl
@[simp] theorem updTime_gsCache (s : State) (f : Time → Time) : (s.updTime f).gsCache = s.gsCache := rfl
@[simp] theorem updTime_carried (s : State) (f : Time → Time) : (s.updTime f).carried = s.carried := rfl
@[simp] theorem updTime_arb (s : State) (f : Time → Time) : (s.updTime f).arb = s.arb := rfl
@[simp] theorem updTime_hostIn (s : State) (f : Time → Time) : (s.updTime f).hostIn = s.hostIn := rfl
@[simp] theorem updTime_regs (s : State) (f : Time → Time) : (s.updTime f).regs = s.regs := rfl
@[simp] theorem updTime_mem (s : State) (f : Time → Time) : (s.updTime f).mem = s.mem := rfl
@[simp] theorem updTime_poison (s : State) (f : Time → Time) : (s.updTime f).poison = s.poison := rfl
@[simp] theorem updTime_freeCount (s : State) (f : Time → Time) : (s.updTime f).freeCount = s.freeCount := rfl
@[simp] theorem updTime_errLog (s : State) (f : Time → Time) : (s.updTime f).errLog = s.errLog := rfl
@[simp] theorem updTime_fret (s : State) (f : Time → Time) : (s.updTime f).fret = s.fret := rfl
@[simp] theorem updTime_phaseNs (s : State) (f : Time → Time) : (s.updTime f).phaseNs = s.phaseNs := rfl
@[simp] theorem updTime_period (s : State) (f : Time → Time) : (s.updTime f).period = s.period := rfl
@[simp] theorem updTime_epochSet (s : State) (f : Time → Time) : (s.updTime f).epochSet = s.epochSet := rfl
@[simp] theorem updTime_localEpoch (s : State) (f : Time → Time) : (s.updTime f).localEpoch = s.localEpoch := rfl
@[simp] theorem updTime_lostRegions (s : State) (f : Time → Time) : (s.updTime f).lostRegions = s.lostRegions := rfl
@[simp] theorem updTime_master (s : State) (f : Time → Time) : (s.updTime f).master = s.master := rfl
@[simp] theorem updTime_strictScope (s : State) (f : Time → Time) : (s.updTime f).strictScope = s.strictScope := rfl
@[simp] theorem updTime_moduleId (s : State) (f : Time → Time) : (s.updTime f).moduleId = s.moduleId := rfl
@[simp] theorem updTime_dies (s : State) (f : Time → Time) : (s.updTime f).dies = s.dies := rfl
@[simp] theorem updTime_blocks (s : State) (f : Time → Time) : (s.updTime f).blocks = s.blocks := rfl
@[simp] theorem updTime_evidence (s : State) (f : Time → Time) : (s.updTime f).evidence = s.evidence := rfl
@[simp] theorem updTime_muteList (s : State) (f : Time → Time) : (s.updTime f).muteList = s.muteList := rfl
@[simp] theorem updTime_caches (s : State) (f : Time → Time) : (s.updTime f).caches = s.caches := rfl
@[simp] theorem updTime_evicting (s : State) (f : Time → Time) : (s.updTime f).evicting = s.evicting := rfl
@[simp] theorem updTime_dir (s : State) (f : Time → Time) : (s.updTime f).dir = s.dir := rfl
@[simp] theorem updTime_slc (s : State) (f : Time → Time) : (s.updTime f).slc = s.slc := rfl
@[simp] theorem updTime_txns (s : State) (f : Time → Time) : (s.updTime f).txns = s.txns := rfl
@[simp] theorem updTime_retries (s : State) (f : Time → Time) : (s.updTime f).retries = s.retries := rfl
@[simp] theorem updTime_engineData (s : State) (f : Time → Time) : (s.updTime f).engineData = s.engineData := rfl
@[simp] theorem updTime_initDone (s : State) (f : Time → Time) : (s.updTime f).initDone = s.initDone := rfl
@[simp] theorem updTime_scrubbing (s : State) (f : Time → Time) : (s.updTime f).scrubbing = s.scrubbing := rfl
@[simp] theorem updTime_hbm (s : State) (f : Time → Time) : (s.updTime f).hbm = s.hbm := rfl
@[simp] theorem updTime_lpd (s : State) (f : Time → Time) : (s.updTime f).lpd = s.lpd := rfl
@[simp] theorem updTime_groups (s : State) (f : Time → Time) : (s.updTime f).groups = s.groups := rfl
@[simp] theorem updTime_headerGib (s : State) (f : Time → Time) : (s.updTime f).headerGib = s.headerGib := rfl
@[simp] theorem updTime_pat (s : State) (f : Time → Time) : (s.updTime f).pat = s.pat := rfl
@[simp] theorem updTime_reserved (s : State) (f : Time → Time) : (s.updTime f).reserved = s.reserved := rfl
@[simp] theorem updTime_pegs (s : State) (f : Time → Time) : (s.updTime f).pegs = s.pegs := rfl
@[simp] theorem updTime_casExp (s : State) (f : Time → Time) : (s.updTime f).casExp = s.casExp := rfl
@[simp] theorem updTime_watches (s : State) (f : Time → Time) : (s.updTime f).watches = s.watches := rfl
@[simp] theorem updTime_gens (s : State) (f : Time → Time) : (s.updTime f).gens = s.gens := rfl
@[simp] theorem updTime_fired (s : State) (f : Time → Time) : (s.updTime f).fired = s.fired := rfl
@[simp] theorem updTime_heldEvents (s : State) (f : Time → Time) : (s.updTime f).heldEvents = s.heldEvents := rfl
@[simp] theorem updTime_eventQ (s : State) (f : Time → Time) : (s.updTime f).eventQ = s.eventQ := rfl
@[simp] theorem updTime_arms (s : State) (f : Time → Time) : (s.updTime f).arms = s.arms := rfl
@[simp] theorem updTime_harts (s : State) (f : Time → Time) : (s.updTime f).harts = s.harts := rfl
@[simp] theorem updTime_coresOn (s : State) (f : Time → Time) : (s.updTime f).coresOn = s.coresOn := rfl
@[simp] theorem updTime_out (s : State) (f : Time → Time) : (s.updTime f).out = s.out := rfl
@[simp] theorem updTime_nextTag (s : State) (f : Time → Time) : (s.updTime f).nextTag = s.nextTag := rfl
@[simp] theorem updTime_answers (s : State) (f : Time → Time) : (s.updTime f).answers = s.answers := rfl
@[simp] theorem updTime_dma (s : State) (f : Time → Time) : (s.updTime f).dma = s.dma := rfl
@[simp] theorem updTime_rbq (s : State) (f : Time → Time) : (s.updTime f).rbq = s.rbq := rfl
@[simp] theorem updTime_outbox (s : State) (f : Time → Time) : (s.updTime f).outbox = s.outbox := rfl
@[simp] theorem updTime_hostPorts (s : State) (f : Time → Time) : (s.updTime f).hostPorts = s.hostPorts := rfl
@[simp] theorem updTime_hostLog (s : State) (f : Time → Time) : (s.updTime f).hostLog = s.hostLog := rfl
@[simp] theorem updTime_fabLog (s : State) (f : Time → Time) : (s.updTime f).fabLog = s.fabLog := rfl
@[simp] theorem updTime_ports (s : State) (f : Time → Time) : (s.updTime f).ports = s.ports := rfl
@[simp] theorem updTime_fab (s : State) (f : Time → Time) : (s.updTime f).fab = s.fab := rfl
@[simp] theorem updTime_time (s : State) (f : Time → Time) : (s.updTime f).time = f s.time := rfl
@[simp] theorem updTime_slot (s : State) (f : Time → Time) : (s.updTime f).slot = s.slot := rfl
@[simp] theorem updTime_colls (s : State) (f : Time → Time) : (s.updTime f).colls = s.colls := rfl
@[simp] theorem updTime_kiln (s : State) (f : Time → Time) : (s.updTime f).kiln = s.kiln := rfl
@[simp] theorem updTime_inbox (s : State) (f : Time → Time) : (s.updTime f).inbox = s.inbox := rfl
@[simp] theorem updTime_reachable (s : State) (f : Time → Time) : (s.updTime f).reachable = s.reachable := rfl
@[simp] theorem updTime_iommuRoots (s : State) (f : Time → Time) : (s.updTime f).iommuRoots = s.iommuRoots := rfl
@[simp] theorem updTime_maintLast (s : State) (f : Time → Time) : (s.updTime f).maintLast = s.maintLast := rfl
@[simp] theorem updTime_maintNext (s : State) (f : Time → Time) : (s.updTime f).maintNext = s.maintNext := rfl
@[simp] theorem updTime_checking (s : State) (f : Time → Time) : (s.updTime f).checking = s.checking := rfl
@[simp] theorem updTime_patBusy (s : State) (f : Time → Time) : (s.updTime f).patBusy = s.patBusy := rfl
@[simp] theorem updTime_regNext (s : State) (f : Time → Time) : (s.updTime f).regNext = s.regNext := rfl
@[simp] theorem updTime_buckets (s : State) (f : Time → Time) : (s.updTime f).buckets = s.buckets := rfl
@[simp] theorem updTime_markNs (s : State) (f : Time → Time) : (s.updTime f).markNs = s.markNs := rfl
@[simp] theorem updTime_rails (s : State) (f : Time → Time) : (s.updTime f).rails = s.rails := rfl
@[simp] theorem updTime_domains (s : State) (f : Time → Time) : (s.updTime f).domains = s.domains := rfl
@[simp] theorem updTime_power (s : State) (f : Time → Time) : (s.updTime f).power = s.power := rfl
@[simp] theorem updTime_links (s : State) (f : Time → Time) : (s.updTime f).links = s.links := rfl
@[simp] theorem updTime_thirds (s : State) (f : Time → Time) : (s.updTime f).thirds = s.thirds := rfl
@[simp] theorem updTime_packs (s : State) (f : Time → Time) : (s.updTime f).packs = s.packs := rfl
@[simp] theorem updTime_mgmt (s : State) (f : Time → Time) : (s.updTime f).mgmt = s.mgmt := rfl

/-! ### setHost -/

@[simp] theorem setHost_pending (s : State) (r : Nat) (x : HostPort) : (s.setHost r x).pending = s.pending := rfl
@[simp] theorem setHost_patCache (s : State) (r : Nat) (x : HostPort) : (s.setHost r x).patCache = s.patCache := rfl
@[simp] theorem setHost_rbqCache (s : State) (r : Nat) (x : HostPort) : (s.setHost r x).rbqCache = s.rbqCache := rfl
@[simp] theorem setHost_nocHeld (s : State) (r : Nat) (x : HostPort) : (s.setHost r x).nocHeld = s.nocHeld := rfl
@[simp] theorem setHost_dirOrder (s : State) (r : Nat) (x : HostPort) : (s.setHost r x).dirOrder = s.dirOrder := rfl
@[simp] theorem setHost_slcDirty (s : State) (r : Nat) (x : HostPort) : (s.setHost r x).slcDirty = s.slcDirty := rfl
@[simp] theorem setHost_icache (s : State) (r : Nat) (x : HostPort) : (s.setHost r x).icache = s.icache := rfl
@[simp] theorem setHost_gsCache (s : State) (r : Nat) (x : HostPort) : (s.setHost r x).gsCache = s.gsCache := rfl
@[simp] theorem setHost_carried (s : State) (r : Nat) (x : HostPort) : (s.setHost r x).carried = s.carried := rfl
@[simp] theorem setHost_arb (s : State) (r : Nat) (x : HostPort) : (s.setHost r x).arb = s.arb := rfl
@[simp] theorem setHost_hostIn (s : State) (r : Nat) (x : HostPort) : (s.setHost r x).hostIn = s.hostIn := rfl
@[simp] theorem setHost_regs (s : State) (r : Nat) (x : HostPort) : (s.setHost r x).regs = s.regs := rfl
@[simp] theorem setHost_mem (s : State) (r : Nat) (x : HostPort) : (s.setHost r x).mem = s.mem := rfl
@[simp] theorem setHost_poison (s : State) (r : Nat) (x : HostPort) : (s.setHost r x).poison = s.poison := rfl
@[simp] theorem setHost_freeCount (s : State) (r : Nat) (x : HostPort) :
    (s.setHost r x).freeCount = s.freeCount := rfl
@[simp] theorem setHost_errLog (s : State) (r : Nat) (x : HostPort) : (s.setHost r x).errLog = s.errLog := rfl
@[simp] theorem setHost_fret (s : State) (r : Nat) (x : HostPort) : (s.setHost r x).fret = s.fret := rfl
@[simp] theorem setHost_phaseNs (s : State) (r : Nat) (x : HostPort) : (s.setHost r x).phaseNs = s.phaseNs := rfl
@[simp] theorem setHost_period (s : State) (r : Nat) (x : HostPort) : (s.setHost r x).period = s.period := rfl
@[simp] theorem setHost_epochSet (s : State) (r : Nat) (x : HostPort) : (s.setHost r x).epochSet = s.epochSet := rfl
@[simp] theorem setHost_localEpoch (s : State) (r : Nat) (x : HostPort) :
    (s.setHost r x).localEpoch = s.localEpoch := rfl
@[simp] theorem setHost_lostRegions (s : State) (r : Nat) (x : HostPort) :
    (s.setHost r x).lostRegions = s.lostRegions := rfl
@[simp] theorem setHost_master (s : State) (r : Nat) (x : HostPort) : (s.setHost r x).master = s.master := rfl
@[simp] theorem setHost_strictScope (s : State) (r : Nat) (x : HostPort) :
    (s.setHost r x).strictScope = s.strictScope := rfl
@[simp] theorem setHost_moduleId (s : State) (r : Nat) (x : HostPort) : (s.setHost r x).moduleId = s.moduleId := rfl
@[simp] theorem setHost_dies (s : State) (r : Nat) (x : HostPort) : (s.setHost r x).dies = s.dies := rfl
@[simp] theorem setHost_blocks (s : State) (r : Nat) (x : HostPort) : (s.setHost r x).blocks = s.blocks := rfl
@[simp] theorem setHost_evidence (s : State) (r : Nat) (x : HostPort) : (s.setHost r x).evidence = s.evidence := rfl
@[simp] theorem setHost_muteList (s : State) (r : Nat) (x : HostPort) : (s.setHost r x).muteList = s.muteList := rfl
@[simp] theorem setHost_caches (s : State) (r : Nat) (x : HostPort) : (s.setHost r x).caches = s.caches := rfl
@[simp] theorem setHost_evicting (s : State) (r : Nat) (x : HostPort) : (s.setHost r x).evicting = s.evicting := rfl
@[simp] theorem setHost_dir (s : State) (r : Nat) (x : HostPort) : (s.setHost r x).dir = s.dir := rfl
@[simp] theorem setHost_slc (s : State) (r : Nat) (x : HostPort) : (s.setHost r x).slc = s.slc := rfl
@[simp] theorem setHost_txns (s : State) (r : Nat) (x : HostPort) : (s.setHost r x).txns = s.txns := rfl
@[simp] theorem setHost_retries (s : State) (r : Nat) (x : HostPort) : (s.setHost r x).retries = s.retries := rfl
@[simp] theorem setHost_engineData (s : State) (r : Nat) (x : HostPort) :
    (s.setHost r x).engineData = s.engineData := rfl
@[simp] theorem setHost_initDone (s : State) (r : Nat) (x : HostPort) : (s.setHost r x).initDone = s.initDone := rfl
@[simp] theorem setHost_scrubbing (s : State) (r : Nat) (x : HostPort) :
    (s.setHost r x).scrubbing = s.scrubbing := rfl
@[simp] theorem setHost_hbm (s : State) (r : Nat) (x : HostPort) : (s.setHost r x).hbm = s.hbm := rfl
@[simp] theorem setHost_lpd (s : State) (r : Nat) (x : HostPort) : (s.setHost r x).lpd = s.lpd := rfl
@[simp] theorem setHost_groups (s : State) (r : Nat) (x : HostPort) : (s.setHost r x).groups = s.groups := rfl
@[simp] theorem setHost_headerGib (s : State) (r : Nat) (x : HostPort) :
    (s.setHost r x).headerGib = s.headerGib := rfl
@[simp] theorem setHost_pat (s : State) (r : Nat) (x : HostPort) : (s.setHost r x).pat = s.pat := rfl
@[simp] theorem setHost_reserved (s : State) (r : Nat) (x : HostPort) : (s.setHost r x).reserved = s.reserved := rfl
@[simp] theorem setHost_pegs (s : State) (r : Nat) (x : HostPort) : (s.setHost r x).pegs = s.pegs := rfl
@[simp] theorem setHost_casExp (s : State) (r : Nat) (x : HostPort) : (s.setHost r x).casExp = s.casExp := rfl
@[simp] theorem setHost_watches (s : State) (r : Nat) (x : HostPort) : (s.setHost r x).watches = s.watches := rfl
@[simp] theorem setHost_gens (s : State) (r : Nat) (x : HostPort) : (s.setHost r x).gens = s.gens := rfl
@[simp] theorem setHost_fired (s : State) (r : Nat) (x : HostPort) : (s.setHost r x).fired = s.fired := rfl
@[simp] theorem setHost_heldEvents (s : State) (r : Nat) (x : HostPort) :
    (s.setHost r x).heldEvents = s.heldEvents := rfl
@[simp] theorem setHost_eventQ (s : State) (r : Nat) (x : HostPort) : (s.setHost r x).eventQ = s.eventQ := rfl
@[simp] theorem setHost_arms (s : State) (r : Nat) (x : HostPort) : (s.setHost r x).arms = s.arms := rfl
@[simp] theorem setHost_harts (s : State) (r : Nat) (x : HostPort) : (s.setHost r x).harts = s.harts := rfl
@[simp] theorem setHost_coresOn (s : State) (r : Nat) (x : HostPort) : (s.setHost r x).coresOn = s.coresOn := rfl
@[simp] theorem setHost_out (s : State) (r : Nat) (x : HostPort) : (s.setHost r x).out = s.out := rfl
@[simp] theorem setHost_nextTag (s : State) (r : Nat) (x : HostPort) : (s.setHost r x).nextTag = s.nextTag := rfl
@[simp] theorem setHost_answers (s : State) (r : Nat) (x : HostPort) : (s.setHost r x).answers = s.answers := rfl
@[simp] theorem setHost_dma (s : State) (r : Nat) (x : HostPort) : (s.setHost r x).dma = s.dma := rfl
@[simp] theorem setHost_rbq (s : State) (r : Nat) (x : HostPort) : (s.setHost r x).rbq = s.rbq := rfl
@[simp] theorem setHost_outbox (s : State) (r : Nat) (x : HostPort) : (s.setHost r x).outbox = s.outbox := rfl
@[simp] theorem setHost_hostPorts (s : State) (r : Nat) (x : HostPort) :
    (s.setHost r x).hostPorts = s.hostPorts.set r x := rfl
@[simp] theorem setHost_hostLog (s : State) (r : Nat) (x : HostPort) : (s.setHost r x).hostLog = s.hostLog := rfl
@[simp] theorem setHost_fabLog (s : State) (r : Nat) (x : HostPort) : (s.setHost r x).fabLog = s.fabLog := rfl
@[simp] theorem setHost_ports (s : State) (r : Nat) (x : HostPort) : (s.setHost r x).ports = s.ports := rfl
@[simp] theorem setHost_fab (s : State) (r : Nat) (x : HostPort) : (s.setHost r x).fab = s.fab := rfl
@[simp] theorem setHost_time (s : State) (r : Nat) (x : HostPort) : (s.setHost r x).time = s.time := rfl
@[simp] theorem setHost_slot (s : State) (r : Nat) (x : HostPort) : (s.setHost r x).slot = s.slot := rfl
@[simp] theorem setHost_colls (s : State) (r : Nat) (x : HostPort) : (s.setHost r x).colls = s.colls := rfl
@[simp] theorem setHost_kiln (s : State) (r : Nat) (x : HostPort) : (s.setHost r x).kiln = s.kiln := rfl
@[simp] theorem setHost_inbox (s : State) (r : Nat) (x : HostPort) : (s.setHost r x).inbox = s.inbox := rfl
@[simp] theorem setHost_reachable (s : State) (r : Nat) (x : HostPort) :
    (s.setHost r x).reachable = s.reachable := rfl
@[simp] theorem setHost_iommuRoots (s : State) (r : Nat) (x : HostPort) :
    (s.setHost r x).iommuRoots = s.iommuRoots := rfl
@[simp] theorem setHost_maintLast (s : State) (r : Nat) (x : HostPort) :
    (s.setHost r x).maintLast = s.maintLast := rfl
@[simp] theorem setHost_maintNext (s : State) (r : Nat) (x : HostPort) :
    (s.setHost r x).maintNext = s.maintNext := rfl
@[simp] theorem setHost_checking (s : State) (r : Nat) (x : HostPort) : (s.setHost r x).checking = s.checking := rfl
@[simp] theorem setHost_patBusy (s : State) (r : Nat) (x : HostPort) : (s.setHost r x).patBusy = s.patBusy := rfl
@[simp] theorem setHost_regNext (s : State) (r : Nat) (x : HostPort) : (s.setHost r x).regNext = s.regNext := rfl
@[simp] theorem setHost_buckets (s : State) (r : Nat) (x : HostPort) : (s.setHost r x).buckets = s.buckets := rfl
@[simp] theorem setHost_markNs (s : State) (r : Nat) (x : HostPort) : (s.setHost r x).markNs = s.markNs := rfl
@[simp] theorem setHost_rails (s : State) (r : Nat) (x : HostPort) : (s.setHost r x).rails = s.rails := rfl
@[simp] theorem setHost_domains (s : State) (r : Nat) (x : HostPort) : (s.setHost r x).domains = s.domains := rfl
@[simp] theorem setHost_power (s : State) (r : Nat) (x : HostPort) : (s.setHost r x).power = s.power := rfl
@[simp] theorem setHost_links (s : State) (r : Nat) (x : HostPort) : (s.setHost r x).links = s.links := rfl
@[simp] theorem setHost_thirds (s : State) (r : Nat) (x : HostPort) : (s.setHost r x).thirds = s.thirds := rfl
@[simp] theorem setHost_packs (s : State) (r : Nat) (x : HostPort) : (s.setHost r x).packs = s.packs := rfl
@[simp] theorem setHost_mgmt (s : State) (r : Nat) (x : HostPort) : (s.setHost r x).mgmt = s.mgmt := rfl

/-! ### updHost -/

@[simp] theorem updHost_pending (s : State) (r : Nat) (f : HostPort → HostPort) :
    (s.updHost r f).pending = s.pending := rfl
@[simp] theorem updHost_regs (s : State) (r : Nat) (f : HostPort → HostPort) : (s.updHost r f).regs = s.regs := rfl
@[simp] theorem updHost_mem (s : State) (r : Nat) (f : HostPort → HostPort) : (s.updHost r f).mem = s.mem := rfl
@[simp] theorem updHost_poison (s : State) (r : Nat) (f : HostPort → HostPort) :
    (s.updHost r f).poison = s.poison := rfl
@[simp] theorem updHost_freeCount (s : State) (r : Nat) (f : HostPort → HostPort) :
    (s.updHost r f).freeCount = s.freeCount := rfl
@[simp] theorem updHost_errLog (s : State) (r : Nat) (f : HostPort → HostPort) :
    (s.updHost r f).errLog = s.errLog := rfl
@[simp] theorem updHost_fret (s : State) (r : Nat) (f : HostPort → HostPort) : (s.updHost r f).fret = s.fret := rfl
@[simp] theorem updHost_phaseNs (s : State) (r : Nat) (f : HostPort → HostPort) :
    (s.updHost r f).phaseNs = s.phaseNs := rfl
@[simp] theorem updHost_period (s : State) (r : Nat) (f : HostPort → HostPort) :
    (s.updHost r f).period = s.period := rfl
@[simp] theorem updHost_epochSet (s : State) (r : Nat) (f : HostPort → HostPort) :
    (s.updHost r f).epochSet = s.epochSet := rfl
@[simp] theorem updHost_localEpoch (s : State) (r : Nat) (f : HostPort → HostPort) :
    (s.updHost r f).localEpoch = s.localEpoch := rfl
@[simp] theorem updHost_lostRegions (s : State) (r : Nat) (f : HostPort → HostPort) :
    (s.updHost r f).lostRegions = s.lostRegions := rfl
@[simp] theorem updHost_master (s : State) (r : Nat) (f : HostPort → HostPort) :
    (s.updHost r f).master = s.master := rfl
@[simp] theorem updHost_strictScope (s : State) (r : Nat) (f : HostPort → HostPort) :
    (s.updHost r f).strictScope = s.strictScope := rfl
@[simp] theorem updHost_moduleId (s : State) (r : Nat) (f : HostPort → HostPort) :
    (s.updHost r f).moduleId = s.moduleId := rfl
@[simp] theorem updHost_dies (s : State) (r : Nat) (f : HostPort → HostPort) : (s.updHost r f).dies = s.dies := rfl
@[simp] theorem updHost_blocks (s : State) (r : Nat) (f : HostPort → HostPort) :
    (s.updHost r f).blocks = s.blocks := rfl
@[simp] theorem updHost_evidence (s : State) (r : Nat) (f : HostPort → HostPort) :
    (s.updHost r f).evidence = s.evidence := rfl
@[simp] theorem updHost_muteList (s : State) (r : Nat) (f : HostPort → HostPort) :
    (s.updHost r f).muteList = s.muteList := rfl
@[simp] theorem updHost_caches (s : State) (r : Nat) (f : HostPort → HostPort) :
    (s.updHost r f).caches = s.caches := rfl
@[simp] theorem updHost_evicting (s : State) (r : Nat) (f : HostPort → HostPort) :
    (s.updHost r f).evicting = s.evicting := rfl
@[simp] theorem updHost_dir (s : State) (r : Nat) (f : HostPort → HostPort) : (s.updHost r f).dir = s.dir := rfl
@[simp] theorem updHost_slc (s : State) (r : Nat) (f : HostPort → HostPort) : (s.updHost r f).slc = s.slc := rfl
@[simp] theorem updHost_txns (s : State) (r : Nat) (f : HostPort → HostPort) : (s.updHost r f).txns = s.txns := rfl
@[simp] theorem updHost_retries (s : State) (r : Nat) (f : HostPort → HostPort) :
    (s.updHost r f).retries = s.retries := rfl
@[simp] theorem updHost_engineData (s : State) (r : Nat) (f : HostPort → HostPort) :
    (s.updHost r f).engineData = s.engineData := rfl
@[simp] theorem updHost_initDone (s : State) (r : Nat) (f : HostPort → HostPort) :
    (s.updHost r f).initDone = s.initDone := rfl
@[simp] theorem updHost_scrubbing (s : State) (r : Nat) (f : HostPort → HostPort) :
    (s.updHost r f).scrubbing = s.scrubbing := rfl
@[simp] theorem updHost_hbm (s : State) (r : Nat) (f : HostPort → HostPort) : (s.updHost r f).hbm = s.hbm := rfl
@[simp] theorem updHost_lpd (s : State) (r : Nat) (f : HostPort → HostPort) : (s.updHost r f).lpd = s.lpd := rfl
@[simp] theorem updHost_groups (s : State) (r : Nat) (f : HostPort → HostPort) :
    (s.updHost r f).groups = s.groups := rfl
@[simp] theorem updHost_headerGib (s : State) (r : Nat) (f : HostPort → HostPort) :
    (s.updHost r f).headerGib = s.headerGib := rfl
@[simp] theorem updHost_pat (s : State) (r : Nat) (f : HostPort → HostPort) : (s.updHost r f).pat = s.pat := rfl
@[simp] theorem updHost_reserved (s : State) (r : Nat) (f : HostPort → HostPort) :
    (s.updHost r f).reserved = s.reserved := rfl
@[simp] theorem updHost_pegs (s : State) (r : Nat) (f : HostPort → HostPort) : (s.updHost r f).pegs = s.pegs := rfl
@[simp] theorem updHost_casExp (s : State) (r : Nat) (f : HostPort → HostPort) :
    (s.updHost r f).casExp = s.casExp := rfl
@[simp] theorem updHost_watches (s : State) (r : Nat) (f : HostPort → HostPort) :
    (s.updHost r f).watches = s.watches := rfl
@[simp] theorem updHost_gens (s : State) (r : Nat) (f : HostPort → HostPort) : (s.updHost r f).gens = s.gens := rfl
@[simp] theorem updHost_fired (s : State) (r : Nat) (f : HostPort → HostPort) : (s.updHost r f).fired = s.fired := rfl
@[simp] theorem updHost_heldEvents (s : State) (r : Nat) (f : HostPort → HostPort) :
    (s.updHost r f).heldEvents = s.heldEvents := rfl
@[simp] theorem updHost_eventQ (s : State) (r : Nat) (f : HostPort → HostPort) :
    (s.updHost r f).eventQ = s.eventQ := rfl
@[simp] theorem updHost_arms (s : State) (r : Nat) (f : HostPort → HostPort) : (s.updHost r f).arms = s.arms := rfl
@[simp] theorem updHost_harts (s : State) (r : Nat) (f : HostPort → HostPort) : (s.updHost r f).harts = s.harts := rfl
@[simp] theorem updHost_coresOn (s : State) (r : Nat) (f : HostPort → HostPort) :
    (s.updHost r f).coresOn = s.coresOn := rfl
@[simp] theorem updHost_out (s : State) (r : Nat) (f : HostPort → HostPort) : (s.updHost r f).out = s.out := rfl
@[simp] theorem updHost_nextTag (s : State) (r : Nat) (f : HostPort → HostPort) :
    (s.updHost r f).nextTag = s.nextTag := rfl
@[simp] theorem updHost_answers (s : State) (r : Nat) (f : HostPort → HostPort) :
    (s.updHost r f).answers = s.answers := rfl
@[simp] theorem updHost_dma (s : State) (r : Nat) (f : HostPort → HostPort) : (s.updHost r f).dma = s.dma := rfl
@[simp] theorem updHost_rbq (s : State) (r : Nat) (f : HostPort → HostPort) : (s.updHost r f).rbq = s.rbq := rfl
@[simp] theorem updHost_outbox (s : State) (r : Nat) (f : HostPort → HostPort) :
    (s.updHost r f).outbox = s.outbox := rfl
@[simp] theorem updHost_hostPorts (s : State) (r : Nat) (f : HostPort → HostPort) :
    (s.updHost r f).hostPorts = s.hostPorts.set r (f (s.hostPort r)) := rfl
@[simp] theorem updHost_hostLog (s : State) (r : Nat) (f : HostPort → HostPort) :
    (s.updHost r f).hostLog = s.hostLog := rfl
@[simp] theorem updHost_fabLog (s : State) (r : Nat) (f : HostPort → HostPort) :
    (s.updHost r f).fabLog = s.fabLog := rfl
@[simp] theorem updHost_ports (s : State) (r : Nat) (f : HostPort → HostPort) : (s.updHost r f).ports = s.ports := rfl
@[simp] theorem updHost_fab (s : State) (r : Nat) (f : HostPort → HostPort) : (s.updHost r f).fab = s.fab := rfl
@[simp] theorem updHost_time (s : State) (r : Nat) (f : HostPort → HostPort) : (s.updHost r f).time = s.time := rfl
@[simp] theorem updHost_slot (s : State) (r : Nat) (f : HostPort → HostPort) : (s.updHost r f).slot = s.slot := rfl
@[simp] theorem updHost_colls (s : State) (r : Nat) (f : HostPort → HostPort) : (s.updHost r f).colls = s.colls := rfl
@[simp] theorem updHost_kiln (s : State) (r : Nat) (f : HostPort → HostPort) : (s.updHost r f).kiln = s.kiln := rfl
@[simp] theorem updHost_inbox (s : State) (r : Nat) (f : HostPort → HostPort) : (s.updHost r f).inbox = s.inbox := rfl
@[simp] theorem updHost_reachable (s : State) (r : Nat) (f : HostPort → HostPort) :
    (s.updHost r f).reachable = s.reachable := rfl
@[simp] theorem updHost_iommuRoots (s : State) (r : Nat) (f : HostPort → HostPort) :
    (s.updHost r f).iommuRoots = s.iommuRoots := rfl
@[simp] theorem updHost_maintLast (s : State) (r : Nat) (f : HostPort → HostPort) :
    (s.updHost r f).maintLast = s.maintLast := rfl
@[simp] theorem updHost_maintNext (s : State) (r : Nat) (f : HostPort → HostPort) :
    (s.updHost r f).maintNext = s.maintNext := rfl
@[simp] theorem updHost_checking (s : State) (r : Nat) (f : HostPort → HostPort) :
    (s.updHost r f).checking = s.checking := rfl
@[simp] theorem updHost_patBusy (s : State) (r : Nat) (f : HostPort → HostPort) :
    (s.updHost r f).patBusy = s.patBusy := rfl
@[simp] theorem updHost_regNext (s : State) (r : Nat) (f : HostPort → HostPort) :
    (s.updHost r f).regNext = s.regNext := rfl
@[simp] theorem updHost_buckets (s : State) (r : Nat) (f : HostPort → HostPort) :
    (s.updHost r f).buckets = s.buckets := rfl
@[simp] theorem updHost_markNs (s : State) (r : Nat) (f : HostPort → HostPort) :
    (s.updHost r f).markNs = s.markNs := rfl
@[simp] theorem updHost_rails (s : State) (r : Nat) (f : HostPort → HostPort) : (s.updHost r f).rails = s.rails := rfl
@[simp] theorem updHost_domains (s : State) (r : Nat) (f : HostPort → HostPort) :
    (s.updHost r f).domains = s.domains := rfl
@[simp] theorem updHost_power (s : State) (r : Nat) (f : HostPort → HostPort) : (s.updHost r f).power = s.power := rfl
@[simp] theorem updHost_links (s : State) (r : Nat) (f : HostPort → HostPort) : (s.updHost r f).links = s.links := rfl
@[simp] theorem updHost_thirds (s : State) (r : Nat) (f : HostPort → HostPort) :
    (s.updHost r f).thirds = s.thirds := rfl
@[simp] theorem updHost_packs (s : State) (r : Nat) (f : HostPort → HostPort) : (s.updHost r f).packs = s.packs := rfl
@[simp] theorem updHost_mgmt (s : State) (r : Nat) (f : HostPort → HostPort) : (s.updHost r f).mgmt = s.mgmt := rfl

/-! ### setGroup -/

@[simp] theorem setGroup_pending (s : State) (r g : Nat) (x : ChGroup) : (s.setGroup r g x).pending = s.pending := rfl
@[simp] theorem setGroup_patCache (s : State) (r g : Nat) (x : ChGroup) : (s.setGroup r g x).patCache = s.patCache := rfl
@[simp] theorem setGroup_rbqCache (s : State) (r g : Nat) (x : ChGroup) : (s.setGroup r g x).rbqCache = s.rbqCache := rfl
@[simp] theorem setGroup_nocHeld (s : State) (r g : Nat) (x : ChGroup) : (s.setGroup r g x).nocHeld = s.nocHeld := rfl
@[simp] theorem setGroup_dirOrder (s : State) (r g : Nat) (x : ChGroup) : (s.setGroup r g x).dirOrder = s.dirOrder := rfl
@[simp] theorem setGroup_slcDirty (s : State) (r g : Nat) (x : ChGroup) : (s.setGroup r g x).slcDirty = s.slcDirty := rfl
@[simp] theorem setGroup_icache (s : State) (r g : Nat) (x : ChGroup) : (s.setGroup r g x).icache = s.icache := rfl
@[simp] theorem setGroup_gsCache (s : State) (r g : Nat) (x : ChGroup) : (s.setGroup r g x).gsCache = s.gsCache := rfl
@[simp] theorem setGroup_carried (s : State) (r g : Nat) (x : ChGroup) : (s.setGroup r g x).carried = s.carried := rfl
@[simp] theorem setGroup_arb (s : State) (r g : Nat) (x : ChGroup) : (s.setGroup r g x).arb = s.arb := rfl
@[simp] theorem setGroup_hostIn (s : State) (r g : Nat) (x : ChGroup) : (s.setGroup r g x).hostIn = s.hostIn := rfl
@[simp] theorem setGroup_regs (s : State) (r g : Nat) (x : ChGroup) : (s.setGroup r g x).regs = s.regs := rfl
@[simp] theorem setGroup_mem (s : State) (r g : Nat) (x : ChGroup) : (s.setGroup r g x).mem = s.mem := rfl
@[simp] theorem setGroup_poison (s : State) (r g : Nat) (x : ChGroup) : (s.setGroup r g x).poison = s.poison := rfl
@[simp] theorem setGroup_freeCount (s : State) (r g : Nat) (x : ChGroup) :
    (s.setGroup r g x).freeCount = s.freeCount := rfl
@[simp] theorem setGroup_errLog (s : State) (r g : Nat) (x : ChGroup) : (s.setGroup r g x).errLog = s.errLog := rfl
@[simp] theorem setGroup_fret (s : State) (r g : Nat) (x : ChGroup) : (s.setGroup r g x).fret = s.fret := rfl
@[simp] theorem setGroup_phaseNs (s : State) (r g : Nat) (x : ChGroup) : (s.setGroup r g x).phaseNs = s.phaseNs := rfl
@[simp] theorem setGroup_period (s : State) (r g : Nat) (x : ChGroup) : (s.setGroup r g x).period = s.period := rfl
@[simp] theorem setGroup_epochSet (s : State) (r g : Nat) (x : ChGroup) :
    (s.setGroup r g x).epochSet = s.epochSet := rfl
@[simp] theorem setGroup_localEpoch (s : State) (r g : Nat) (x : ChGroup) :
    (s.setGroup r g x).localEpoch = s.localEpoch := rfl
@[simp] theorem setGroup_lostRegions (s : State) (r g : Nat) (x : ChGroup) :
    (s.setGroup r g x).lostRegions = s.lostRegions := rfl
@[simp] theorem setGroup_master (s : State) (r g : Nat) (x : ChGroup) : (s.setGroup r g x).master = s.master := rfl
@[simp] theorem setGroup_strictScope (s : State) (r g : Nat) (x : ChGroup) :
    (s.setGroup r g x).strictScope = s.strictScope := rfl
@[simp] theorem setGroup_moduleId (s : State) (r g : Nat) (x : ChGroup) :
    (s.setGroup r g x).moduleId = s.moduleId := rfl
@[simp] theorem setGroup_dies (s : State) (r g : Nat) (x : ChGroup) : (s.setGroup r g x).dies = s.dies := rfl
@[simp] theorem setGroup_blocks (s : State) (r g : Nat) (x : ChGroup) : (s.setGroup r g x).blocks = s.blocks := rfl
@[simp] theorem setGroup_evidence (s : State) (r g : Nat) (x : ChGroup) :
    (s.setGroup r g x).evidence = s.evidence := rfl
@[simp] theorem setGroup_muteList (s : State) (r g : Nat) (x : ChGroup) :
    (s.setGroup r g x).muteList = s.muteList := rfl
@[simp] theorem setGroup_caches (s : State) (r g : Nat) (x : ChGroup) : (s.setGroup r g x).caches = s.caches := rfl
@[simp] theorem setGroup_evicting (s : State) (r g : Nat) (x : ChGroup) :
    (s.setGroup r g x).evicting = s.evicting := rfl
@[simp] theorem setGroup_dir (s : State) (r g : Nat) (x : ChGroup) : (s.setGroup r g x).dir = s.dir := rfl
@[simp] theorem setGroup_slc (s : State) (r g : Nat) (x : ChGroup) : (s.setGroup r g x).slc = s.slc := rfl
@[simp] theorem setGroup_txns (s : State) (r g : Nat) (x : ChGroup) : (s.setGroup r g x).txns = s.txns := rfl
@[simp] theorem setGroup_retries (s : State) (r g : Nat) (x : ChGroup) : (s.setGroup r g x).retries = s.retries := rfl
@[simp] theorem setGroup_engineData (s : State) (r g : Nat) (x : ChGroup) :
    (s.setGroup r g x).engineData = s.engineData := rfl
@[simp] theorem setGroup_initDone (s : State) (r g : Nat) (x : ChGroup) :
    (s.setGroup r g x).initDone = s.initDone := rfl
@[simp] theorem setGroup_scrubbing (s : State) (r g : Nat) (x : ChGroup) :
    (s.setGroup r g x).scrubbing = s.scrubbing := rfl
@[simp] theorem setGroup_hbm (s : State) (r g : Nat) (x : ChGroup) : (s.setGroup r g x).hbm = s.hbm := rfl
@[simp] theorem setGroup_lpd (s : State) (r g : Nat) (x : ChGroup) : (s.setGroup r g x).lpd = s.lpd := rfl
@[simp] theorem setGroup_groups (s : State) (r g : Nat) (x : ChGroup) :
    (s.setGroup r g x).groups = s.groups.set (r, g) x := rfl
@[simp] theorem setGroup_headerGib (s : State) (r g : Nat) (x : ChGroup) :
    (s.setGroup r g x).headerGib = s.headerGib := rfl
@[simp] theorem setGroup_pat (s : State) (r g : Nat) (x : ChGroup) : (s.setGroup r g x).pat = s.pat := rfl
@[simp] theorem setGroup_reserved (s : State) (r g : Nat) (x : ChGroup) :
    (s.setGroup r g x).reserved = s.reserved := rfl
@[simp] theorem setGroup_pegs (s : State) (r g : Nat) (x : ChGroup) : (s.setGroup r g x).pegs = s.pegs := rfl
@[simp] theorem setGroup_casExp (s : State) (r g : Nat) (x : ChGroup) : (s.setGroup r g x).casExp = s.casExp := rfl
@[simp] theorem setGroup_watches (s : State) (r g : Nat) (x : ChGroup) : (s.setGroup r g x).watches = s.watches := rfl
@[simp] theorem setGroup_gens (s : State) (r g : Nat) (x : ChGroup) : (s.setGroup r g x).gens = s.gens := rfl
@[simp] theorem setGroup_fired (s : State) (r g : Nat) (x : ChGroup) : (s.setGroup r g x).fired = s.fired := rfl
@[simp] theorem setGroup_heldEvents (s : State) (r g : Nat) (x : ChGroup) :
    (s.setGroup r g x).heldEvents = s.heldEvents := rfl
@[simp] theorem setGroup_eventQ (s : State) (r g : Nat) (x : ChGroup) : (s.setGroup r g x).eventQ = s.eventQ := rfl
@[simp] theorem setGroup_arms (s : State) (r g : Nat) (x : ChGroup) : (s.setGroup r g x).arms = s.arms := rfl
@[simp] theorem setGroup_harts (s : State) (r g : Nat) (x : ChGroup) : (s.setGroup r g x).harts = s.harts := rfl
@[simp] theorem setGroup_coresOn (s : State) (r g : Nat) (x : ChGroup) : (s.setGroup r g x).coresOn = s.coresOn := rfl
@[simp] theorem setGroup_out (s : State) (r g : Nat) (x : ChGroup) : (s.setGroup r g x).out = s.out := rfl
@[simp] theorem setGroup_nextTag (s : State) (r g : Nat) (x : ChGroup) : (s.setGroup r g x).nextTag = s.nextTag := rfl
@[simp] theorem setGroup_answers (s : State) (r g : Nat) (x : ChGroup) : (s.setGroup r g x).answers = s.answers := rfl
@[simp] theorem setGroup_dma (s : State) (r g : Nat) (x : ChGroup) : (s.setGroup r g x).dma = s.dma := rfl
@[simp] theorem setGroup_rbq (s : State) (r g : Nat) (x : ChGroup) : (s.setGroup r g x).rbq = s.rbq := rfl
@[simp] theorem setGroup_outbox (s : State) (r g : Nat) (x : ChGroup) : (s.setGroup r g x).outbox = s.outbox := rfl
@[simp] theorem setGroup_hostPorts (s : State) (r g : Nat) (x : ChGroup) :
    (s.setGroup r g x).hostPorts = s.hostPorts := rfl
@[simp] theorem setGroup_hostLog (s : State) (r g : Nat) (x : ChGroup) : (s.setGroup r g x).hostLog = s.hostLog := rfl
@[simp] theorem setGroup_fabLog (s : State) (r g : Nat) (x : ChGroup) : (s.setGroup r g x).fabLog = s.fabLog := rfl
@[simp] theorem setGroup_ports (s : State) (r g : Nat) (x : ChGroup) : (s.setGroup r g x).ports = s.ports := rfl
@[simp] theorem setGroup_fab (s : State) (r g : Nat) (x : ChGroup) : (s.setGroup r g x).fab = s.fab := rfl
@[simp] theorem setGroup_time (s : State) (r g : Nat) (x : ChGroup) : (s.setGroup r g x).time = s.time := rfl
@[simp] theorem setGroup_slot (s : State) (r g : Nat) (x : ChGroup) : (s.setGroup r g x).slot = s.slot := rfl
@[simp] theorem setGroup_colls (s : State) (r g : Nat) (x : ChGroup) : (s.setGroup r g x).colls = s.colls := rfl
@[simp] theorem setGroup_kiln (s : State) (r g : Nat) (x : ChGroup) : (s.setGroup r g x).kiln = s.kiln := rfl
@[simp] theorem setGroup_inbox (s : State) (r g : Nat) (x : ChGroup) : (s.setGroup r g x).inbox = s.inbox := rfl
@[simp] theorem setGroup_reachable (s : State) (r g : Nat) (x : ChGroup) :
    (s.setGroup r g x).reachable = s.reachable := rfl
@[simp] theorem setGroup_iommuRoots (s : State) (r g : Nat) (x : ChGroup) :
    (s.setGroup r g x).iommuRoots = s.iommuRoots := rfl
@[simp] theorem setGroup_maintLast (s : State) (r g : Nat) (x : ChGroup) :
    (s.setGroup r g x).maintLast = s.maintLast := rfl
@[simp] theorem setGroup_maintNext (s : State) (r g : Nat) (x : ChGroup) :
    (s.setGroup r g x).maintNext = s.maintNext := rfl
@[simp] theorem setGroup_checking (s : State) (r g : Nat) (x : ChGroup) :
    (s.setGroup r g x).checking = s.checking := rfl
@[simp] theorem setGroup_patBusy (s : State) (r g : Nat) (x : ChGroup) : (s.setGroup r g x).patBusy = s.patBusy := rfl
@[simp] theorem setGroup_regNext (s : State) (r g : Nat) (x : ChGroup) : (s.setGroup r g x).regNext = s.regNext := rfl
@[simp] theorem setGroup_buckets (s : State) (r g : Nat) (x : ChGroup) : (s.setGroup r g x).buckets = s.buckets := rfl
@[simp] theorem setGroup_markNs (s : State) (r g : Nat) (x : ChGroup) : (s.setGroup r g x).markNs = s.markNs := rfl
@[simp] theorem setGroup_rails (s : State) (r g : Nat) (x : ChGroup) : (s.setGroup r g x).rails = s.rails := rfl
@[simp] theorem setGroup_domains (s : State) (r g : Nat) (x : ChGroup) : (s.setGroup r g x).domains = s.domains := rfl
@[simp] theorem setGroup_power (s : State) (r g : Nat) (x : ChGroup) : (s.setGroup r g x).power = s.power := rfl
@[simp] theorem setGroup_links (s : State) (r g : Nat) (x : ChGroup) : (s.setGroup r g x).links = s.links := rfl
@[simp] theorem setGroup_thirds (s : State) (r g : Nat) (x : ChGroup) : (s.setGroup r g x).thirds = s.thirds := rfl
@[simp] theorem setGroup_packs (s : State) (r g : Nat) (x : ChGroup) : (s.setGroup r g x).packs = s.packs := rfl
@[simp] theorem setGroup_mgmt (s : State) (r g : Nat) (x : ChGroup) : (s.setGroup r g x).mgmt = s.mgmt := rfl

/-! ### updKiln -/

@[simp] theorem updKiln_pending (s : State) (f : Kiln → Kiln) : (s.updKiln f).pending = s.pending := rfl
@[simp] theorem updKiln_patCache (s : State) (f : Kiln → Kiln) : (s.updKiln f).patCache = s.patCache := rfl
@[simp] theorem updKiln_rbqCache (s : State) (f : Kiln → Kiln) : (s.updKiln f).rbqCache = s.rbqCache := rfl
@[simp] theorem updKiln_nocHeld (s : State) (f : Kiln → Kiln) : (s.updKiln f).nocHeld = s.nocHeld := rfl
@[simp] theorem updKiln_dirOrder (s : State) (f : Kiln → Kiln) : (s.updKiln f).dirOrder = s.dirOrder := rfl
@[simp] theorem updKiln_slcDirty (s : State) (f : Kiln → Kiln) : (s.updKiln f).slcDirty = s.slcDirty := rfl
@[simp] theorem updKiln_icache (s : State) (f : Kiln → Kiln) : (s.updKiln f).icache = s.icache := rfl
@[simp] theorem updKiln_gsCache (s : State) (f : Kiln → Kiln) : (s.updKiln f).gsCache = s.gsCache := rfl
@[simp] theorem updKiln_carried (s : State) (f : Kiln → Kiln) : (s.updKiln f).carried = s.carried := rfl
@[simp] theorem updKiln_arb (s : State) (f : Kiln → Kiln) : (s.updKiln f).arb = s.arb := rfl
@[simp] theorem updKiln_hostIn (s : State) (f : Kiln → Kiln) : (s.updKiln f).hostIn = s.hostIn := rfl
@[simp] theorem updKiln_regs (s : State) (f : Kiln → Kiln) : (s.updKiln f).regs = s.regs := rfl
@[simp] theorem updKiln_mem (s : State) (f : Kiln → Kiln) : (s.updKiln f).mem = s.mem := rfl
@[simp] theorem updKiln_poison (s : State) (f : Kiln → Kiln) : (s.updKiln f).poison = s.poison := rfl
@[simp] theorem updKiln_freeCount (s : State) (f : Kiln → Kiln) : (s.updKiln f).freeCount = s.freeCount := rfl
@[simp] theorem updKiln_errLog (s : State) (f : Kiln → Kiln) : (s.updKiln f).errLog = s.errLog := rfl
@[simp] theorem updKiln_fret (s : State) (f : Kiln → Kiln) : (s.updKiln f).fret = s.fret := rfl
@[simp] theorem updKiln_phaseNs (s : State) (f : Kiln → Kiln) : (s.updKiln f).phaseNs = s.phaseNs := rfl
@[simp] theorem updKiln_period (s : State) (f : Kiln → Kiln) : (s.updKiln f).period = s.period := rfl
@[simp] theorem updKiln_epochSet (s : State) (f : Kiln → Kiln) : (s.updKiln f).epochSet = s.epochSet := rfl
@[simp] theorem updKiln_localEpoch (s : State) (f : Kiln → Kiln) : (s.updKiln f).localEpoch = s.localEpoch := rfl
@[simp] theorem updKiln_lostRegions (s : State) (f : Kiln → Kiln) : (s.updKiln f).lostRegions = s.lostRegions := rfl
@[simp] theorem updKiln_master (s : State) (f : Kiln → Kiln) : (s.updKiln f).master = s.master := rfl
@[simp] theorem updKiln_strictScope (s : State) (f : Kiln → Kiln) : (s.updKiln f).strictScope = s.strictScope := rfl
@[simp] theorem updKiln_moduleId (s : State) (f : Kiln → Kiln) : (s.updKiln f).moduleId = s.moduleId := rfl
@[simp] theorem updKiln_dies (s : State) (f : Kiln → Kiln) : (s.updKiln f).dies = s.dies := rfl
@[simp] theorem updKiln_blocks (s : State) (f : Kiln → Kiln) : (s.updKiln f).blocks = s.blocks := rfl
@[simp] theorem updKiln_evidence (s : State) (f : Kiln → Kiln) : (s.updKiln f).evidence = s.evidence := rfl
@[simp] theorem updKiln_muteList (s : State) (f : Kiln → Kiln) : (s.updKiln f).muteList = s.muteList := rfl
@[simp] theorem updKiln_caches (s : State) (f : Kiln → Kiln) : (s.updKiln f).caches = s.caches := rfl
@[simp] theorem updKiln_evicting (s : State) (f : Kiln → Kiln) : (s.updKiln f).evicting = s.evicting := rfl
@[simp] theorem updKiln_dir (s : State) (f : Kiln → Kiln) : (s.updKiln f).dir = s.dir := rfl
@[simp] theorem updKiln_slc (s : State) (f : Kiln → Kiln) : (s.updKiln f).slc = s.slc := rfl
@[simp] theorem updKiln_txns (s : State) (f : Kiln → Kiln) : (s.updKiln f).txns = s.txns := rfl
@[simp] theorem updKiln_retries (s : State) (f : Kiln → Kiln) : (s.updKiln f).retries = s.retries := rfl
@[simp] theorem updKiln_engineData (s : State) (f : Kiln → Kiln) : (s.updKiln f).engineData = s.engineData := rfl
@[simp] theorem updKiln_initDone (s : State) (f : Kiln → Kiln) : (s.updKiln f).initDone = s.initDone := rfl
@[simp] theorem updKiln_scrubbing (s : State) (f : Kiln → Kiln) : (s.updKiln f).scrubbing = s.scrubbing := rfl
@[simp] theorem updKiln_hbm (s : State) (f : Kiln → Kiln) : (s.updKiln f).hbm = s.hbm := rfl
@[simp] theorem updKiln_lpd (s : State) (f : Kiln → Kiln) : (s.updKiln f).lpd = s.lpd := rfl
@[simp] theorem updKiln_groups (s : State) (f : Kiln → Kiln) : (s.updKiln f).groups = s.groups := rfl
@[simp] theorem updKiln_headerGib (s : State) (f : Kiln → Kiln) : (s.updKiln f).headerGib = s.headerGib := rfl
@[simp] theorem updKiln_pat (s : State) (f : Kiln → Kiln) : (s.updKiln f).pat = s.pat := rfl
@[simp] theorem updKiln_reserved (s : State) (f : Kiln → Kiln) : (s.updKiln f).reserved = s.reserved := rfl
@[simp] theorem updKiln_pegs (s : State) (f : Kiln → Kiln) : (s.updKiln f).pegs = s.pegs := rfl
@[simp] theorem updKiln_casExp (s : State) (f : Kiln → Kiln) : (s.updKiln f).casExp = s.casExp := rfl
@[simp] theorem updKiln_watches (s : State) (f : Kiln → Kiln) : (s.updKiln f).watches = s.watches := rfl
@[simp] theorem updKiln_gens (s : State) (f : Kiln → Kiln) : (s.updKiln f).gens = s.gens := rfl
@[simp] theorem updKiln_fired (s : State) (f : Kiln → Kiln) : (s.updKiln f).fired = s.fired := rfl
@[simp] theorem updKiln_heldEvents (s : State) (f : Kiln → Kiln) : (s.updKiln f).heldEvents = s.heldEvents := rfl
@[simp] theorem updKiln_eventQ (s : State) (f : Kiln → Kiln) : (s.updKiln f).eventQ = s.eventQ := rfl
@[simp] theorem updKiln_arms (s : State) (f : Kiln → Kiln) : (s.updKiln f).arms = s.arms := rfl
@[simp] theorem updKiln_harts (s : State) (f : Kiln → Kiln) : (s.updKiln f).harts = s.harts := rfl
@[simp] theorem updKiln_coresOn (s : State) (f : Kiln → Kiln) : (s.updKiln f).coresOn = s.coresOn := rfl
@[simp] theorem updKiln_out (s : State) (f : Kiln → Kiln) : (s.updKiln f).out = s.out := rfl
@[simp] theorem updKiln_nextTag (s : State) (f : Kiln → Kiln) : (s.updKiln f).nextTag = s.nextTag := rfl
@[simp] theorem updKiln_answers (s : State) (f : Kiln → Kiln) : (s.updKiln f).answers = s.answers := rfl
@[simp] theorem updKiln_dma (s : State) (f : Kiln → Kiln) : (s.updKiln f).dma = s.dma := rfl
@[simp] theorem updKiln_rbq (s : State) (f : Kiln → Kiln) : (s.updKiln f).rbq = s.rbq := rfl
@[simp] theorem updKiln_outbox (s : State) (f : Kiln → Kiln) : (s.updKiln f).outbox = s.outbox := rfl
@[simp] theorem updKiln_hostPorts (s : State) (f : Kiln → Kiln) : (s.updKiln f).hostPorts = s.hostPorts := rfl
@[simp] theorem updKiln_hostLog (s : State) (f : Kiln → Kiln) : (s.updKiln f).hostLog = s.hostLog := rfl
@[simp] theorem updKiln_fabLog (s : State) (f : Kiln → Kiln) : (s.updKiln f).fabLog = s.fabLog := rfl
@[simp] theorem updKiln_ports (s : State) (f : Kiln → Kiln) : (s.updKiln f).ports = s.ports := rfl
@[simp] theorem updKiln_fab (s : State) (f : Kiln → Kiln) : (s.updKiln f).fab = s.fab := rfl
@[simp] theorem updKiln_time (s : State) (f : Kiln → Kiln) : (s.updKiln f).time = s.time := rfl
@[simp] theorem updKiln_slot (s : State) (f : Kiln → Kiln) : (s.updKiln f).slot = s.slot := rfl
@[simp] theorem updKiln_colls (s : State) (f : Kiln → Kiln) : (s.updKiln f).colls = s.colls := rfl
@[simp] theorem updKiln_kiln (s : State) (f : Kiln → Kiln) : (s.updKiln f).kiln = f s.kiln := rfl
@[simp] theorem updKiln_inbox (s : State) (f : Kiln → Kiln) : (s.updKiln f).inbox = s.inbox := rfl
@[simp] theorem updKiln_reachable (s : State) (f : Kiln → Kiln) : (s.updKiln f).reachable = s.reachable := rfl
@[simp] theorem updKiln_iommuRoots (s : State) (f : Kiln → Kiln) : (s.updKiln f).iommuRoots = s.iommuRoots := rfl
@[simp] theorem updKiln_maintLast (s : State) (f : Kiln → Kiln) : (s.updKiln f).maintLast = s.maintLast := rfl
@[simp] theorem updKiln_maintNext (s : State) (f : Kiln → Kiln) : (s.updKiln f).maintNext = s.maintNext := rfl
@[simp] theorem updKiln_checking (s : State) (f : Kiln → Kiln) : (s.updKiln f).checking = s.checking := rfl
@[simp] theorem updKiln_patBusy (s : State) (f : Kiln → Kiln) : (s.updKiln f).patBusy = s.patBusy := rfl
@[simp] theorem updKiln_regNext (s : State) (f : Kiln → Kiln) : (s.updKiln f).regNext = s.regNext := rfl
@[simp] theorem updKiln_buckets (s : State) (f : Kiln → Kiln) : (s.updKiln f).buckets = s.buckets := rfl
@[simp] theorem updKiln_markNs (s : State) (f : Kiln → Kiln) : (s.updKiln f).markNs = s.markNs := rfl
@[simp] theorem updKiln_rails (s : State) (f : Kiln → Kiln) : (s.updKiln f).rails = s.rails := rfl
@[simp] theorem updKiln_domains (s : State) (f : Kiln → Kiln) : (s.updKiln f).domains = s.domains := rfl
@[simp] theorem updKiln_power (s : State) (f : Kiln → Kiln) : (s.updKiln f).power = s.power := rfl
@[simp] theorem updKiln_links (s : State) (f : Kiln → Kiln) : (s.updKiln f).links = s.links := rfl
@[simp] theorem updKiln_thirds (s : State) (f : Kiln → Kiln) : (s.updKiln f).thirds = s.thirds := rfl
@[simp] theorem updKiln_packs (s : State) (f : Kiln → Kiln) : (s.updKiln f).packs = s.packs := rfl
@[simp] theorem updKiln_mgmt (s : State) (f : Kiln → Kiln) : (s.updKiln f).mgmt = s.mgmt := rfl

/-! ### updPower -/

@[simp] theorem updPower_pending (s : State) (f : Power → Power) : (s.updPower f).pending = s.pending := rfl
@[simp] theorem updPower_patCache (s : State) (f : Power → Power) : (s.updPower f).patCache = s.patCache := rfl
@[simp] theorem updPower_rbqCache (s : State) (f : Power → Power) : (s.updPower f).rbqCache = s.rbqCache := rfl
@[simp] theorem updPower_nocHeld (s : State) (f : Power → Power) : (s.updPower f).nocHeld = s.nocHeld := rfl
@[simp] theorem updPower_dirOrder (s : State) (f : Power → Power) : (s.updPower f).dirOrder = s.dirOrder := rfl
@[simp] theorem updPower_slcDirty (s : State) (f : Power → Power) : (s.updPower f).slcDirty = s.slcDirty := rfl
@[simp] theorem updPower_icache (s : State) (f : Power → Power) : (s.updPower f).icache = s.icache := rfl
@[simp] theorem updPower_gsCache (s : State) (f : Power → Power) : (s.updPower f).gsCache = s.gsCache := rfl
@[simp] theorem updPower_carried (s : State) (f : Power → Power) : (s.updPower f).carried = s.carried := rfl
@[simp] theorem updPower_arb (s : State) (f : Power → Power) : (s.updPower f).arb = s.arb := rfl
@[simp] theorem updPower_hostIn (s : State) (f : Power → Power) : (s.updPower f).hostIn = s.hostIn := rfl
@[simp] theorem updPower_regs (s : State) (f : Power → Power) : (s.updPower f).regs = s.regs := rfl
@[simp] theorem updPower_mem (s : State) (f : Power → Power) : (s.updPower f).mem = s.mem := rfl
@[simp] theorem updPower_poison (s : State) (f : Power → Power) : (s.updPower f).poison = s.poison := rfl
@[simp] theorem updPower_freeCount (s : State) (f : Power → Power) : (s.updPower f).freeCount = s.freeCount := rfl
@[simp] theorem updPower_errLog (s : State) (f : Power → Power) : (s.updPower f).errLog = s.errLog := rfl
@[simp] theorem updPower_fret (s : State) (f : Power → Power) : (s.updPower f).fret = s.fret := rfl
@[simp] theorem updPower_phaseNs (s : State) (f : Power → Power) : (s.updPower f).phaseNs = s.phaseNs := rfl
@[simp] theorem updPower_period (s : State) (f : Power → Power) : (s.updPower f).period = s.period := rfl
@[simp] theorem updPower_epochSet (s : State) (f : Power → Power) : (s.updPower f).epochSet = s.epochSet := rfl
@[simp] theorem updPower_localEpoch (s : State) (f : Power → Power) : (s.updPower f).localEpoch = s.localEpoch := rfl
@[simp] theorem updPower_lostRegions (s : State) (f : Power → Power) :
    (s.updPower f).lostRegions = s.lostRegions := rfl
@[simp] theorem updPower_master (s : State) (f : Power → Power) : (s.updPower f).master = s.master := rfl
@[simp] theorem updPower_strictScope (s : State) (f : Power → Power) :
    (s.updPower f).strictScope = s.strictScope := rfl
@[simp] theorem updPower_moduleId (s : State) (f : Power → Power) : (s.updPower f).moduleId = s.moduleId := rfl
@[simp] theorem updPower_dies (s : State) (f : Power → Power) : (s.updPower f).dies = s.dies := rfl
@[simp] theorem updPower_blocks (s : State) (f : Power → Power) : (s.updPower f).blocks = s.blocks := rfl
@[simp] theorem updPower_evidence (s : State) (f : Power → Power) : (s.updPower f).evidence = s.evidence := rfl
@[simp] theorem updPower_muteList (s : State) (f : Power → Power) : (s.updPower f).muteList = s.muteList := rfl
@[simp] theorem updPower_caches (s : State) (f : Power → Power) : (s.updPower f).caches = s.caches := rfl
@[simp] theorem updPower_evicting (s : State) (f : Power → Power) : (s.updPower f).evicting = s.evicting := rfl
@[simp] theorem updPower_dir (s : State) (f : Power → Power) : (s.updPower f).dir = s.dir := rfl
@[simp] theorem updPower_slc (s : State) (f : Power → Power) : (s.updPower f).slc = s.slc := rfl
@[simp] theorem updPower_txns (s : State) (f : Power → Power) : (s.updPower f).txns = s.txns := rfl
@[simp] theorem updPower_retries (s : State) (f : Power → Power) : (s.updPower f).retries = s.retries := rfl
@[simp] theorem updPower_engineData (s : State) (f : Power → Power) : (s.updPower f).engineData = s.engineData := rfl
@[simp] theorem updPower_initDone (s : State) (f : Power → Power) : (s.updPower f).initDone = s.initDone := rfl
@[simp] theorem updPower_scrubbing (s : State) (f : Power → Power) : (s.updPower f).scrubbing = s.scrubbing := rfl
@[simp] theorem updPower_hbm (s : State) (f : Power → Power) : (s.updPower f).hbm = s.hbm := rfl
@[simp] theorem updPower_lpd (s : State) (f : Power → Power) : (s.updPower f).lpd = s.lpd := rfl
@[simp] theorem updPower_groups (s : State) (f : Power → Power) : (s.updPower f).groups = s.groups := rfl
@[simp] theorem updPower_headerGib (s : State) (f : Power → Power) : (s.updPower f).headerGib = s.headerGib := rfl
@[simp] theorem updPower_pat (s : State) (f : Power → Power) : (s.updPower f).pat = s.pat := rfl
@[simp] theorem updPower_reserved (s : State) (f : Power → Power) : (s.updPower f).reserved = s.reserved := rfl
@[simp] theorem updPower_pegs (s : State) (f : Power → Power) : (s.updPower f).pegs = s.pegs := rfl
@[simp] theorem updPower_casExp (s : State) (f : Power → Power) : (s.updPower f).casExp = s.casExp := rfl
@[simp] theorem updPower_watches (s : State) (f : Power → Power) : (s.updPower f).watches = s.watches := rfl
@[simp] theorem updPower_gens (s : State) (f : Power → Power) : (s.updPower f).gens = s.gens := rfl
@[simp] theorem updPower_fired (s : State) (f : Power → Power) : (s.updPower f).fired = s.fired := rfl
@[simp] theorem updPower_heldEvents (s : State) (f : Power → Power) : (s.updPower f).heldEvents = s.heldEvents := rfl
@[simp] theorem updPower_eventQ (s : State) (f : Power → Power) : (s.updPower f).eventQ = s.eventQ := rfl
@[simp] theorem updPower_arms (s : State) (f : Power → Power) : (s.updPower f).arms = s.arms := rfl
@[simp] theorem updPower_harts (s : State) (f : Power → Power) : (s.updPower f).harts = s.harts := rfl
@[simp] theorem updPower_coresOn (s : State) (f : Power → Power) : (s.updPower f).coresOn = s.coresOn := rfl
@[simp] theorem updPower_out (s : State) (f : Power → Power) : (s.updPower f).out = s.out := rfl
@[simp] theorem updPower_nextTag (s : State) (f : Power → Power) : (s.updPower f).nextTag = s.nextTag := rfl
@[simp] theorem updPower_answers (s : State) (f : Power → Power) : (s.updPower f).answers = s.answers := rfl
@[simp] theorem updPower_dma (s : State) (f : Power → Power) : (s.updPower f).dma = s.dma := rfl
@[simp] theorem updPower_rbq (s : State) (f : Power → Power) : (s.updPower f).rbq = s.rbq := rfl
@[simp] theorem updPower_outbox (s : State) (f : Power → Power) : (s.updPower f).outbox = s.outbox := rfl
@[simp] theorem updPower_hostPorts (s : State) (f : Power → Power) : (s.updPower f).hostPorts = s.hostPorts := rfl
@[simp] theorem updPower_hostLog (s : State) (f : Power → Power) : (s.updPower f).hostLog = s.hostLog := rfl
@[simp] theorem updPower_fabLog (s : State) (f : Power → Power) : (s.updPower f).fabLog = s.fabLog := rfl
@[simp] theorem updPower_ports (s : State) (f : Power → Power) : (s.updPower f).ports = s.ports := rfl
@[simp] theorem updPower_fab (s : State) (f : Power → Power) : (s.updPower f).fab = s.fab := rfl
@[simp] theorem updPower_time (s : State) (f : Power → Power) : (s.updPower f).time = s.time := rfl
@[simp] theorem updPower_slot (s : State) (f : Power → Power) : (s.updPower f).slot = s.slot := rfl
@[simp] theorem updPower_colls (s : State) (f : Power → Power) : (s.updPower f).colls = s.colls := rfl
@[simp] theorem updPower_kiln (s : State) (f : Power → Power) : (s.updPower f).kiln = s.kiln := rfl
@[simp] theorem updPower_inbox (s : State) (f : Power → Power) : (s.updPower f).inbox = s.inbox := rfl
@[simp] theorem updPower_reachable (s : State) (f : Power → Power) : (s.updPower f).reachable = s.reachable := rfl
@[simp] theorem updPower_iommuRoots (s : State) (f : Power → Power) : (s.updPower f).iommuRoots = s.iommuRoots := rfl
@[simp] theorem updPower_maintLast (s : State) (f : Power → Power) : (s.updPower f).maintLast = s.maintLast := rfl
@[simp] theorem updPower_maintNext (s : State) (f : Power → Power) : (s.updPower f).maintNext = s.maintNext := rfl
@[simp] theorem updPower_checking (s : State) (f : Power → Power) : (s.updPower f).checking = s.checking := rfl
@[simp] theorem updPower_patBusy (s : State) (f : Power → Power) : (s.updPower f).patBusy = s.patBusy := rfl
@[simp] theorem updPower_regNext (s : State) (f : Power → Power) : (s.updPower f).regNext = s.regNext := rfl
@[simp] theorem updPower_buckets (s : State) (f : Power → Power) : (s.updPower f).buckets = s.buckets := rfl
@[simp] theorem updPower_markNs (s : State) (f : Power → Power) : (s.updPower f).markNs = s.markNs := rfl
@[simp] theorem updPower_rails (s : State) (f : Power → Power) : (s.updPower f).rails = s.rails := rfl
@[simp] theorem updPower_domains (s : State) (f : Power → Power) : (s.updPower f).domains = s.domains := rfl
@[simp] theorem updPower_power (s : State) (f : Power → Power) : (s.updPower f).power = f s.power := rfl
@[simp] theorem updPower_links (s : State) (f : Power → Power) : (s.updPower f).links = s.links := rfl
@[simp] theorem updPower_thirds (s : State) (f : Power → Power) : (s.updPower f).thirds = s.thirds := rfl
@[simp] theorem updPower_packs (s : State) (f : Power → Power) : (s.updPower f).packs = s.packs := rfl
@[simp] theorem updPower_mgmt (s : State) (f : Power → Power) : (s.updPower f).mgmt = s.mgmt := rfl

/-! ### updMgmt -/

@[simp] theorem updMgmt_pending (s : State) (f : Mgmt → Mgmt) : (s.updMgmt f).pending = s.pending := rfl
@[simp] theorem updMgmt_patCache (s : State) (f : Mgmt → Mgmt) : (s.updMgmt f).patCache = s.patCache := rfl
@[simp] theorem updMgmt_rbqCache (s : State) (f : Mgmt → Mgmt) : (s.updMgmt f).rbqCache = s.rbqCache := rfl
@[simp] theorem updMgmt_nocHeld (s : State) (f : Mgmt → Mgmt) : (s.updMgmt f).nocHeld = s.nocHeld := rfl
@[simp] theorem updMgmt_dirOrder (s : State) (f : Mgmt → Mgmt) : (s.updMgmt f).dirOrder = s.dirOrder := rfl
@[simp] theorem updMgmt_slcDirty (s : State) (f : Mgmt → Mgmt) : (s.updMgmt f).slcDirty = s.slcDirty := rfl
@[simp] theorem updMgmt_icache (s : State) (f : Mgmt → Mgmt) : (s.updMgmt f).icache = s.icache := rfl
@[simp] theorem updMgmt_gsCache (s : State) (f : Mgmt → Mgmt) : (s.updMgmt f).gsCache = s.gsCache := rfl
@[simp] theorem updMgmt_carried (s : State) (f : Mgmt → Mgmt) : (s.updMgmt f).carried = s.carried := rfl
@[simp] theorem updMgmt_arb (s : State) (f : Mgmt → Mgmt) : (s.updMgmt f).arb = s.arb := rfl
@[simp] theorem updMgmt_hostIn (s : State) (f : Mgmt → Mgmt) : (s.updMgmt f).hostIn = s.hostIn := rfl
@[simp] theorem updMgmt_regs (s : State) (f : Mgmt → Mgmt) : (s.updMgmt f).regs = s.regs := rfl
@[simp] theorem updMgmt_mem (s : State) (f : Mgmt → Mgmt) : (s.updMgmt f).mem = s.mem := rfl
@[simp] theorem updMgmt_poison (s : State) (f : Mgmt → Mgmt) : (s.updMgmt f).poison = s.poison := rfl
@[simp] theorem updMgmt_freeCount (s : State) (f : Mgmt → Mgmt) : (s.updMgmt f).freeCount = s.freeCount := rfl
@[simp] theorem updMgmt_errLog (s : State) (f : Mgmt → Mgmt) : (s.updMgmt f).errLog = s.errLog := rfl
@[simp] theorem updMgmt_fret (s : State) (f : Mgmt → Mgmt) : (s.updMgmt f).fret = s.fret := rfl
@[simp] theorem updMgmt_phaseNs (s : State) (f : Mgmt → Mgmt) : (s.updMgmt f).phaseNs = s.phaseNs := rfl
@[simp] theorem updMgmt_period (s : State) (f : Mgmt → Mgmt) : (s.updMgmt f).period = s.period := rfl
@[simp] theorem updMgmt_epochSet (s : State) (f : Mgmt → Mgmt) : (s.updMgmt f).epochSet = s.epochSet := rfl
@[simp] theorem updMgmt_localEpoch (s : State) (f : Mgmt → Mgmt) : (s.updMgmt f).localEpoch = s.localEpoch := rfl
@[simp] theorem updMgmt_lostRegions (s : State) (f : Mgmt → Mgmt) : (s.updMgmt f).lostRegions = s.lostRegions := rfl
@[simp] theorem updMgmt_master (s : State) (f : Mgmt → Mgmt) : (s.updMgmt f).master = s.master := rfl
@[simp] theorem updMgmt_strictScope (s : State) (f : Mgmt → Mgmt) : (s.updMgmt f).strictScope = s.strictScope := rfl
@[simp] theorem updMgmt_moduleId (s : State) (f : Mgmt → Mgmt) : (s.updMgmt f).moduleId = s.moduleId := rfl
@[simp] theorem updMgmt_dies (s : State) (f : Mgmt → Mgmt) : (s.updMgmt f).dies = s.dies := rfl
@[simp] theorem updMgmt_blocks (s : State) (f : Mgmt → Mgmt) : (s.updMgmt f).blocks = s.blocks := rfl
@[simp] theorem updMgmt_evidence (s : State) (f : Mgmt → Mgmt) : (s.updMgmt f).evidence = s.evidence := rfl
@[simp] theorem updMgmt_muteList (s : State) (f : Mgmt → Mgmt) : (s.updMgmt f).muteList = s.muteList := rfl
@[simp] theorem updMgmt_caches (s : State) (f : Mgmt → Mgmt) : (s.updMgmt f).caches = s.caches := rfl
@[simp] theorem updMgmt_evicting (s : State) (f : Mgmt → Mgmt) : (s.updMgmt f).evicting = s.evicting := rfl
@[simp] theorem updMgmt_dir (s : State) (f : Mgmt → Mgmt) : (s.updMgmt f).dir = s.dir := rfl
@[simp] theorem updMgmt_slc (s : State) (f : Mgmt → Mgmt) : (s.updMgmt f).slc = s.slc := rfl
@[simp] theorem updMgmt_txns (s : State) (f : Mgmt → Mgmt) : (s.updMgmt f).txns = s.txns := rfl
@[simp] theorem updMgmt_retries (s : State) (f : Mgmt → Mgmt) : (s.updMgmt f).retries = s.retries := rfl
@[simp] theorem updMgmt_engineData (s : State) (f : Mgmt → Mgmt) : (s.updMgmt f).engineData = s.engineData := rfl
@[simp] theorem updMgmt_initDone (s : State) (f : Mgmt → Mgmt) : (s.updMgmt f).initDone = s.initDone := rfl
@[simp] theorem updMgmt_scrubbing (s : State) (f : Mgmt → Mgmt) : (s.updMgmt f).scrubbing = s.scrubbing := rfl
@[simp] theorem updMgmt_hbm (s : State) (f : Mgmt → Mgmt) : (s.updMgmt f).hbm = s.hbm := rfl
@[simp] theorem updMgmt_lpd (s : State) (f : Mgmt → Mgmt) : (s.updMgmt f).lpd = s.lpd := rfl
@[simp] theorem updMgmt_groups (s : State) (f : Mgmt → Mgmt) : (s.updMgmt f).groups = s.groups := rfl
@[simp] theorem updMgmt_headerGib (s : State) (f : Mgmt → Mgmt) : (s.updMgmt f).headerGib = s.headerGib := rfl
@[simp] theorem updMgmt_pat (s : State) (f : Mgmt → Mgmt) : (s.updMgmt f).pat = s.pat := rfl
@[simp] theorem updMgmt_reserved (s : State) (f : Mgmt → Mgmt) : (s.updMgmt f).reserved = s.reserved := rfl
@[simp] theorem updMgmt_pegs (s : State) (f : Mgmt → Mgmt) : (s.updMgmt f).pegs = s.pegs := rfl
@[simp] theorem updMgmt_casExp (s : State) (f : Mgmt → Mgmt) : (s.updMgmt f).casExp = s.casExp := rfl
@[simp] theorem updMgmt_watches (s : State) (f : Mgmt → Mgmt) : (s.updMgmt f).watches = s.watches := rfl
@[simp] theorem updMgmt_gens (s : State) (f : Mgmt → Mgmt) : (s.updMgmt f).gens = s.gens := rfl
@[simp] theorem updMgmt_fired (s : State) (f : Mgmt → Mgmt) : (s.updMgmt f).fired = s.fired := rfl
@[simp] theorem updMgmt_heldEvents (s : State) (f : Mgmt → Mgmt) : (s.updMgmt f).heldEvents = s.heldEvents := rfl
@[simp] theorem updMgmt_eventQ (s : State) (f : Mgmt → Mgmt) : (s.updMgmt f).eventQ = s.eventQ := rfl
@[simp] theorem updMgmt_arms (s : State) (f : Mgmt → Mgmt) : (s.updMgmt f).arms = s.arms := rfl
@[simp] theorem updMgmt_harts (s : State) (f : Mgmt → Mgmt) : (s.updMgmt f).harts = s.harts := rfl
@[simp] theorem updMgmt_coresOn (s : State) (f : Mgmt → Mgmt) : (s.updMgmt f).coresOn = s.coresOn := rfl
@[simp] theorem updMgmt_out (s : State) (f : Mgmt → Mgmt) : (s.updMgmt f).out = s.out := rfl
@[simp] theorem updMgmt_nextTag (s : State) (f : Mgmt → Mgmt) : (s.updMgmt f).nextTag = s.nextTag := rfl
@[simp] theorem updMgmt_answers (s : State) (f : Mgmt → Mgmt) : (s.updMgmt f).answers = s.answers := rfl
@[simp] theorem updMgmt_dma (s : State) (f : Mgmt → Mgmt) : (s.updMgmt f).dma = s.dma := rfl
@[simp] theorem updMgmt_rbq (s : State) (f : Mgmt → Mgmt) : (s.updMgmt f).rbq = s.rbq := rfl
@[simp] theorem updMgmt_outbox (s : State) (f : Mgmt → Mgmt) : (s.updMgmt f).outbox = s.outbox := rfl
@[simp] theorem updMgmt_hostPorts (s : State) (f : Mgmt → Mgmt) : (s.updMgmt f).hostPorts = s.hostPorts := rfl
@[simp] theorem updMgmt_hostLog (s : State) (f : Mgmt → Mgmt) : (s.updMgmt f).hostLog = s.hostLog := rfl
@[simp] theorem updMgmt_fabLog (s : State) (f : Mgmt → Mgmt) : (s.updMgmt f).fabLog = s.fabLog := rfl
@[simp] theorem updMgmt_ports (s : State) (f : Mgmt → Mgmt) : (s.updMgmt f).ports = s.ports := rfl
@[simp] theorem updMgmt_fab (s : State) (f : Mgmt → Mgmt) : (s.updMgmt f).fab = s.fab := rfl
@[simp] theorem updMgmt_time (s : State) (f : Mgmt → Mgmt) : (s.updMgmt f).time = s.time := rfl
@[simp] theorem updMgmt_slot (s : State) (f : Mgmt → Mgmt) : (s.updMgmt f).slot = s.slot := rfl
@[simp] theorem updMgmt_colls (s : State) (f : Mgmt → Mgmt) : (s.updMgmt f).colls = s.colls := rfl
@[simp] theorem updMgmt_kiln (s : State) (f : Mgmt → Mgmt) : (s.updMgmt f).kiln = s.kiln := rfl
@[simp] theorem updMgmt_inbox (s : State) (f : Mgmt → Mgmt) : (s.updMgmt f).inbox = s.inbox := rfl
@[simp] theorem updMgmt_reachable (s : State) (f : Mgmt → Mgmt) : (s.updMgmt f).reachable = s.reachable := rfl
@[simp] theorem updMgmt_iommuRoots (s : State) (f : Mgmt → Mgmt) : (s.updMgmt f).iommuRoots = s.iommuRoots := rfl
@[simp] theorem updMgmt_maintLast (s : State) (f : Mgmt → Mgmt) : (s.updMgmt f).maintLast = s.maintLast := rfl
@[simp] theorem updMgmt_maintNext (s : State) (f : Mgmt → Mgmt) : (s.updMgmt f).maintNext = s.maintNext := rfl
@[simp] theorem updMgmt_checking (s : State) (f : Mgmt → Mgmt) : (s.updMgmt f).checking = s.checking := rfl
@[simp] theorem updMgmt_patBusy (s : State) (f : Mgmt → Mgmt) : (s.updMgmt f).patBusy = s.patBusy := rfl
@[simp] theorem updMgmt_regNext (s : State) (f : Mgmt → Mgmt) : (s.updMgmt f).regNext = s.regNext := rfl
@[simp] theorem updMgmt_buckets (s : State) (f : Mgmt → Mgmt) : (s.updMgmt f).buckets = s.buckets := rfl
@[simp] theorem updMgmt_markNs (s : State) (f : Mgmt → Mgmt) : (s.updMgmt f).markNs = s.markNs := rfl
@[simp] theorem updMgmt_rails (s : State) (f : Mgmt → Mgmt) : (s.updMgmt f).rails = s.rails := rfl
@[simp] theorem updMgmt_domains (s : State) (f : Mgmt → Mgmt) : (s.updMgmt f).domains = s.domains := rfl
@[simp] theorem updMgmt_power (s : State) (f : Mgmt → Mgmt) : (s.updMgmt f).power = s.power := rfl
@[simp] theorem updMgmt_links (s : State) (f : Mgmt → Mgmt) : (s.updMgmt f).links = s.links := rfl
@[simp] theorem updMgmt_thirds (s : State) (f : Mgmt → Mgmt) : (s.updMgmt f).thirds = s.thirds := rfl
@[simp] theorem updMgmt_packs (s : State) (f : Mgmt → Mgmt) : (s.updMgmt f).packs = s.packs := rfl
@[simp] theorem updMgmt_mgmt (s : State) (f : Mgmt → Mgmt) : (s.updMgmt f).mgmt = f s.mgmt := rfl

/-! ### setRail -/

@[simp] theorem setRail_pending (s : State) (r i : Nat) (x : Rail) : (s.setRail r i x).pending = s.pending := rfl
@[simp] theorem setRail_patCache (s : State) (r i : Nat) (x : Rail) : (s.setRail r i x).patCache = s.patCache := rfl
@[simp] theorem setRail_rbqCache (s : State) (r i : Nat) (x : Rail) : (s.setRail r i x).rbqCache = s.rbqCache := rfl
@[simp] theorem setRail_nocHeld (s : State) (r i : Nat) (x : Rail) : (s.setRail r i x).nocHeld = s.nocHeld := rfl
@[simp] theorem setRail_dirOrder (s : State) (r i : Nat) (x : Rail) : (s.setRail r i x).dirOrder = s.dirOrder := rfl
@[simp] theorem setRail_slcDirty (s : State) (r i : Nat) (x : Rail) : (s.setRail r i x).slcDirty = s.slcDirty := rfl
@[simp] theorem setRail_icache (s : State) (r i : Nat) (x : Rail) : (s.setRail r i x).icache = s.icache := rfl
@[simp] theorem setRail_gsCache (s : State) (r i : Nat) (x : Rail) : (s.setRail r i x).gsCache = s.gsCache := rfl
@[simp] theorem setRail_carried (s : State) (r i : Nat) (x : Rail) : (s.setRail r i x).carried = s.carried := rfl
@[simp] theorem setRail_arb (s : State) (r i : Nat) (x : Rail) : (s.setRail r i x).arb = s.arb := rfl
@[simp] theorem setRail_hostIn (s : State) (r i : Nat) (x : Rail) : (s.setRail r i x).hostIn = s.hostIn := rfl
@[simp] theorem setRail_regs (s : State) (r i : Nat) (x : Rail) : (s.setRail r i x).regs = s.regs := rfl
@[simp] theorem setRail_mem (s : State) (r i : Nat) (x : Rail) : (s.setRail r i x).mem = s.mem := rfl
@[simp] theorem setRail_poison (s : State) (r i : Nat) (x : Rail) : (s.setRail r i x).poison = s.poison := rfl
@[simp] theorem setRail_freeCount (s : State) (r i : Nat) (x : Rail) :
    (s.setRail r i x).freeCount = s.freeCount := rfl
@[simp] theorem setRail_errLog (s : State) (r i : Nat) (x : Rail) : (s.setRail r i x).errLog = s.errLog := rfl
@[simp] theorem setRail_fret (s : State) (r i : Nat) (x : Rail) : (s.setRail r i x).fret = s.fret := rfl
@[simp] theorem setRail_phaseNs (s : State) (r i : Nat) (x : Rail) : (s.setRail r i x).phaseNs = s.phaseNs := rfl
@[simp] theorem setRail_period (s : State) (r i : Nat) (x : Rail) : (s.setRail r i x).period = s.period := rfl
@[simp] theorem setRail_epochSet (s : State) (r i : Nat) (x : Rail) : (s.setRail r i x).epochSet = s.epochSet := rfl
@[simp] theorem setRail_localEpoch (s : State) (r i : Nat) (x : Rail) :
    (s.setRail r i x).localEpoch = s.localEpoch := rfl
@[simp] theorem setRail_lostRegions (s : State) (r i : Nat) (x : Rail) :
    (s.setRail r i x).lostRegions = s.lostRegions := rfl
@[simp] theorem setRail_master (s : State) (r i : Nat) (x : Rail) : (s.setRail r i x).master = s.master := rfl
@[simp] theorem setRail_strictScope (s : State) (r i : Nat) (x : Rail) :
    (s.setRail r i x).strictScope = s.strictScope := rfl
@[simp] theorem setRail_moduleId (s : State) (r i : Nat) (x : Rail) : (s.setRail r i x).moduleId = s.moduleId := rfl
@[simp] theorem setRail_dies (s : State) (r i : Nat) (x : Rail) : (s.setRail r i x).dies = s.dies := rfl
@[simp] theorem setRail_blocks (s : State) (r i : Nat) (x : Rail) : (s.setRail r i x).blocks = s.blocks := rfl
@[simp] theorem setRail_evidence (s : State) (r i : Nat) (x : Rail) : (s.setRail r i x).evidence = s.evidence := rfl
@[simp] theorem setRail_muteList (s : State) (r i : Nat) (x : Rail) : (s.setRail r i x).muteList = s.muteList := rfl
@[simp] theorem setRail_caches (s : State) (r i : Nat) (x : Rail) : (s.setRail r i x).caches = s.caches := rfl
@[simp] theorem setRail_evicting (s : State) (r i : Nat) (x : Rail) : (s.setRail r i x).evicting = s.evicting := rfl
@[simp] theorem setRail_dir (s : State) (r i : Nat) (x : Rail) : (s.setRail r i x).dir = s.dir := rfl
@[simp] theorem setRail_slc (s : State) (r i : Nat) (x : Rail) : (s.setRail r i x).slc = s.slc := rfl
@[simp] theorem setRail_txns (s : State) (r i : Nat) (x : Rail) : (s.setRail r i x).txns = s.txns := rfl
@[simp] theorem setRail_retries (s : State) (r i : Nat) (x : Rail) : (s.setRail r i x).retries = s.retries := rfl
@[simp] theorem setRail_engineData (s : State) (r i : Nat) (x : Rail) :
    (s.setRail r i x).engineData = s.engineData := rfl
@[simp] theorem setRail_initDone (s : State) (r i : Nat) (x : Rail) : (s.setRail r i x).initDone = s.initDone := rfl
@[simp] theorem setRail_scrubbing (s : State) (r i : Nat) (x : Rail) :
    (s.setRail r i x).scrubbing = s.scrubbing := rfl
@[simp] theorem setRail_hbm (s : State) (r i : Nat) (x : Rail) : (s.setRail r i x).hbm = s.hbm := rfl
@[simp] theorem setRail_lpd (s : State) (r i : Nat) (x : Rail) : (s.setRail r i x).lpd = s.lpd := rfl
@[simp] theorem setRail_groups (s : State) (r i : Nat) (x : Rail) : (s.setRail r i x).groups = s.groups := rfl
@[simp] theorem setRail_headerGib (s : State) (r i : Nat) (x : Rail) :
    (s.setRail r i x).headerGib = s.headerGib := rfl
@[simp] theorem setRail_pat (s : State) (r i : Nat) (x : Rail) : (s.setRail r i x).pat = s.pat := rfl
@[simp] theorem setRail_reserved (s : State) (r i : Nat) (x : Rail) : (s.setRail r i x).reserved = s.reserved := rfl
@[simp] theorem setRail_pegs (s : State) (r i : Nat) (x : Rail) : (s.setRail r i x).pegs = s.pegs := rfl
@[simp] theorem setRail_casExp (s : State) (r i : Nat) (x : Rail) : (s.setRail r i x).casExp = s.casExp := rfl
@[simp] theorem setRail_watches (s : State) (r i : Nat) (x : Rail) : (s.setRail r i x).watches = s.watches := rfl
@[simp] theorem setRail_gens (s : State) (r i : Nat) (x : Rail) : (s.setRail r i x).gens = s.gens := rfl
@[simp] theorem setRail_fired (s : State) (r i : Nat) (x : Rail) : (s.setRail r i x).fired = s.fired := rfl
@[simp] theorem setRail_heldEvents (s : State) (r i : Nat) (x : Rail) :
    (s.setRail r i x).heldEvents = s.heldEvents := rfl
@[simp] theorem setRail_eventQ (s : State) (r i : Nat) (x : Rail) : (s.setRail r i x).eventQ = s.eventQ := rfl
@[simp] theorem setRail_arms (s : State) (r i : Nat) (x : Rail) : (s.setRail r i x).arms = s.arms := rfl
@[simp] theorem setRail_harts (s : State) (r i : Nat) (x : Rail) : (s.setRail r i x).harts = s.harts := rfl
@[simp] theorem setRail_coresOn (s : State) (r i : Nat) (x : Rail) : (s.setRail r i x).coresOn = s.coresOn := rfl
@[simp] theorem setRail_out (s : State) (r i : Nat) (x : Rail) : (s.setRail r i x).out = s.out := rfl
@[simp] theorem setRail_nextTag (s : State) (r i : Nat) (x : Rail) : (s.setRail r i x).nextTag = s.nextTag := rfl
@[simp] theorem setRail_answers (s : State) (r i : Nat) (x : Rail) : (s.setRail r i x).answers = s.answers := rfl
@[simp] theorem setRail_dma (s : State) (r i : Nat) (x : Rail) : (s.setRail r i x).dma = s.dma := rfl
@[simp] theorem setRail_rbq (s : State) (r i : Nat) (x : Rail) : (s.setRail r i x).rbq = s.rbq := rfl
@[simp] theorem setRail_outbox (s : State) (r i : Nat) (x : Rail) : (s.setRail r i x).outbox = s.outbox := rfl
@[simp] theorem setRail_hostPorts (s : State) (r i : Nat) (x : Rail) :
    (s.setRail r i x).hostPorts = s.hostPorts := rfl
@[simp] theorem setRail_hostLog (s : State) (r i : Nat) (x : Rail) : (s.setRail r i x).hostLog = s.hostLog := rfl
@[simp] theorem setRail_fabLog (s : State) (r i : Nat) (x : Rail) : (s.setRail r i x).fabLog = s.fabLog := rfl
@[simp] theorem setRail_ports (s : State) (r i : Nat) (x : Rail) : (s.setRail r i x).ports = s.ports := rfl
@[simp] theorem setRail_fab (s : State) (r i : Nat) (x : Rail) : (s.setRail r i x).fab = s.fab := rfl
@[simp] theorem setRail_time (s : State) (r i : Nat) (x : Rail) : (s.setRail r i x).time = s.time := rfl
@[simp] theorem setRail_slot (s : State) (r i : Nat) (x : Rail) : (s.setRail r i x).slot = s.slot := rfl
@[simp] theorem setRail_colls (s : State) (r i : Nat) (x : Rail) : (s.setRail r i x).colls = s.colls := rfl
@[simp] theorem setRail_kiln (s : State) (r i : Nat) (x : Rail) : (s.setRail r i x).kiln = s.kiln := rfl
@[simp] theorem setRail_inbox (s : State) (r i : Nat) (x : Rail) : (s.setRail r i x).inbox = s.inbox := rfl
@[simp] theorem setRail_reachable (s : State) (r i : Nat) (x : Rail) :
    (s.setRail r i x).reachable = s.reachable := rfl
@[simp] theorem setRail_iommuRoots (s : State) (r i : Nat) (x : Rail) :
    (s.setRail r i x).iommuRoots = s.iommuRoots := rfl
@[simp] theorem setRail_maintLast (s : State) (r i : Nat) (x : Rail) :
    (s.setRail r i x).maintLast = s.maintLast := rfl
@[simp] theorem setRail_maintNext (s : State) (r i : Nat) (x : Rail) :
    (s.setRail r i x).maintNext = s.maintNext := rfl
@[simp] theorem setRail_checking (s : State) (r i : Nat) (x : Rail) : (s.setRail r i x).checking = s.checking := rfl
@[simp] theorem setRail_patBusy (s : State) (r i : Nat) (x : Rail) : (s.setRail r i x).patBusy = s.patBusy := rfl
@[simp] theorem setRail_regNext (s : State) (r i : Nat) (x : Rail) : (s.setRail r i x).regNext = s.regNext := rfl
@[simp] theorem setRail_buckets (s : State) (r i : Nat) (x : Rail) : (s.setRail r i x).buckets = s.buckets := rfl
@[simp] theorem setRail_markNs (s : State) (r i : Nat) (x : Rail) : (s.setRail r i x).markNs = s.markNs := rfl
@[simp] theorem setRail_rails (s : State) (r i : Nat) (x : Rail) :
    (s.setRail r i x).rails = s.rails.set (r, i) x := rfl
@[simp] theorem setRail_domains (s : State) (r i : Nat) (x : Rail) : (s.setRail r i x).domains = s.domains := rfl
@[simp] theorem setRail_power (s : State) (r i : Nat) (x : Rail) : (s.setRail r i x).power = s.power := rfl
@[simp] theorem setRail_links (s : State) (r i : Nat) (x : Rail) : (s.setRail r i x).links = s.links := rfl
@[simp] theorem setRail_thirds (s : State) (r i : Nat) (x : Rail) : (s.setRail r i x).thirds = s.thirds := rfl
@[simp] theorem setRail_packs (s : State) (r i : Nat) (x : Rail) : (s.setRail r i x).packs = s.packs := rfl
@[simp] theorem setRail_mgmt (s : State) (r i : Nat) (x : Rail) : (s.setRail r i x).mgmt = s.mgmt := rfl

/-! ### setDomain -/

@[simp] theorem setDomain_pending (s : State) (r d : Nat) (x : Domain) :
    (s.setDomain r d x).pending = s.pending := rfl
@[simp] theorem setDomain_regs (s : State) (r d : Nat) (x : Domain) : (s.setDomain r d x).regs = s.regs := rfl
@[simp] theorem setDomain_mem (s : State) (r d : Nat) (x : Domain) : (s.setDomain r d x).mem = s.mem := rfl
@[simp] theorem setDomain_poison (s : State) (r d : Nat) (x : Domain) : (s.setDomain r d x).poison = s.poison := rfl
@[simp] theorem setDomain_freeCount (s : State) (r d : Nat) (x : Domain) :
    (s.setDomain r d x).freeCount = s.freeCount := rfl
@[simp] theorem setDomain_errLog (s : State) (r d : Nat) (x : Domain) : (s.setDomain r d x).errLog = s.errLog := rfl
@[simp] theorem setDomain_fret (s : State) (r d : Nat) (x : Domain) : (s.setDomain r d x).fret = s.fret := rfl
@[simp] theorem setDomain_phaseNs (s : State) (r d : Nat) (x : Domain) :
    (s.setDomain r d x).phaseNs = s.phaseNs := rfl
@[simp] theorem setDomain_period (s : State) (r d : Nat) (x : Domain) : (s.setDomain r d x).period = s.period := rfl
@[simp] theorem setDomain_epochSet (s : State) (r d : Nat) (x : Domain) :
    (s.setDomain r d x).epochSet = s.epochSet := rfl
@[simp] theorem setDomain_localEpoch (s : State) (r d : Nat) (x : Domain) :
    (s.setDomain r d x).localEpoch = s.localEpoch := rfl
@[simp] theorem setDomain_lostRegions (s : State) (r d : Nat) (x : Domain) :
    (s.setDomain r d x).lostRegions = s.lostRegions := rfl
@[simp] theorem setDomain_master (s : State) (r d : Nat) (x : Domain) : (s.setDomain r d x).master = s.master := rfl
@[simp] theorem setDomain_strictScope (s : State) (r d : Nat) (x : Domain) :
    (s.setDomain r d x).strictScope = s.strictScope := rfl
@[simp] theorem setDomain_moduleId (s : State) (r d : Nat) (x : Domain) :
    (s.setDomain r d x).moduleId = s.moduleId := rfl
@[simp] theorem setDomain_dies (s : State) (r d : Nat) (x : Domain) : (s.setDomain r d x).dies = s.dies := rfl
@[simp] theorem setDomain_blocks (s : State) (r d : Nat) (x : Domain) : (s.setDomain r d x).blocks = s.blocks := rfl
@[simp] theorem setDomain_evidence (s : State) (r d : Nat) (x : Domain) :
    (s.setDomain r d x).evidence = s.evidence := rfl
@[simp] theorem setDomain_muteList (s : State) (r d : Nat) (x : Domain) :
    (s.setDomain r d x).muteList = s.muteList := rfl
@[simp] theorem setDomain_caches (s : State) (r d : Nat) (x : Domain) : (s.setDomain r d x).caches = s.caches := rfl
@[simp] theorem setDomain_evicting (s : State) (r d : Nat) (x : Domain) :
    (s.setDomain r d x).evicting = s.evicting := rfl
@[simp] theorem setDomain_dir (s : State) (r d : Nat) (x : Domain) : (s.setDomain r d x).dir = s.dir := rfl
@[simp] theorem setDomain_slc (s : State) (r d : Nat) (x : Domain) : (s.setDomain r d x).slc = s.slc := rfl
@[simp] theorem setDomain_txns (s : State) (r d : Nat) (x : Domain) : (s.setDomain r d x).txns = s.txns := rfl
@[simp] theorem setDomain_retries (s : State) (r d : Nat) (x : Domain) :
    (s.setDomain r d x).retries = s.retries := rfl
@[simp] theorem setDomain_engineData (s : State) (r d : Nat) (x : Domain) :
    (s.setDomain r d x).engineData = s.engineData := rfl
@[simp] theorem setDomain_initDone (s : State) (r d : Nat) (x : Domain) :
    (s.setDomain r d x).initDone = s.initDone := rfl
@[simp] theorem setDomain_scrubbing (s : State) (r d : Nat) (x : Domain) :
    (s.setDomain r d x).scrubbing = s.scrubbing := rfl
@[simp] theorem setDomain_hbm (s : State) (r d : Nat) (x : Domain) : (s.setDomain r d x).hbm = s.hbm := rfl
@[simp] theorem setDomain_lpd (s : State) (r d : Nat) (x : Domain) : (s.setDomain r d x).lpd = s.lpd := rfl
@[simp] theorem setDomain_groups (s : State) (r d : Nat) (x : Domain) : (s.setDomain r d x).groups = s.groups := rfl
@[simp] theorem setDomain_headerGib (s : State) (r d : Nat) (x : Domain) :
    (s.setDomain r d x).headerGib = s.headerGib := rfl
@[simp] theorem setDomain_pat (s : State) (r d : Nat) (x : Domain) : (s.setDomain r d x).pat = s.pat := rfl
@[simp] theorem setDomain_reserved (s : State) (r d : Nat) (x : Domain) :
    (s.setDomain r d x).reserved = s.reserved := rfl
@[simp] theorem setDomain_pegs (s : State) (r d : Nat) (x : Domain) : (s.setDomain r d x).pegs = s.pegs := rfl
@[simp] theorem setDomain_casExp (s : State) (r d : Nat) (x : Domain) : (s.setDomain r d x).casExp = s.casExp := rfl
@[simp] theorem setDomain_watches (s : State) (r d : Nat) (x : Domain) :
    (s.setDomain r d x).watches = s.watches := rfl
@[simp] theorem setDomain_gens (s : State) (r d : Nat) (x : Domain) : (s.setDomain r d x).gens = s.gens := rfl
@[simp] theorem setDomain_fired (s : State) (r d : Nat) (x : Domain) : (s.setDomain r d x).fired = s.fired := rfl
@[simp] theorem setDomain_heldEvents (s : State) (r d : Nat) (x : Domain) :
    (s.setDomain r d x).heldEvents = s.heldEvents := rfl
@[simp] theorem setDomain_eventQ (s : State) (r d : Nat) (x : Domain) : (s.setDomain r d x).eventQ = s.eventQ := rfl
@[simp] theorem setDomain_arms (s : State) (r d : Nat) (x : Domain) : (s.setDomain r d x).arms = s.arms := rfl
@[simp] theorem setDomain_harts (s : State) (r d : Nat) (x : Domain) : (s.setDomain r d x).harts = s.harts := rfl
@[simp] theorem setDomain_coresOn (s : State) (r d : Nat) (x : Domain) :
    (s.setDomain r d x).coresOn = s.coresOn := rfl
@[simp] theorem setDomain_out (s : State) (r d : Nat) (x : Domain) : (s.setDomain r d x).out = s.out := rfl
@[simp] theorem setDomain_nextTag (s : State) (r d : Nat) (x : Domain) :
    (s.setDomain r d x).nextTag = s.nextTag := rfl
@[simp] theorem setDomain_answers (s : State) (r d : Nat) (x : Domain) :
    (s.setDomain r d x).answers = s.answers := rfl
@[simp] theorem setDomain_dma (s : State) (r d : Nat) (x : Domain) : (s.setDomain r d x).dma = s.dma := rfl
@[simp] theorem setDomain_rbq (s : State) (r d : Nat) (x : Domain) : (s.setDomain r d x).rbq = s.rbq := rfl
@[simp] theorem setDomain_outbox (s : State) (r d : Nat) (x : Domain) : (s.setDomain r d x).outbox = s.outbox := rfl
@[simp] theorem setDomain_hostPorts (s : State) (r d : Nat) (x : Domain) :
    (s.setDomain r d x).hostPorts = s.hostPorts := rfl
@[simp] theorem setDomain_hostLog (s : State) (r d : Nat) (x : Domain) :
    (s.setDomain r d x).hostLog = s.hostLog := rfl
@[simp] theorem setDomain_fabLog (s : State) (r d : Nat) (x : Domain) : (s.setDomain r d x).fabLog = s.fabLog := rfl
@[simp] theorem setDomain_ports (s : State) (r d : Nat) (x : Domain) : (s.setDomain r d x).ports = s.ports := rfl
@[simp] theorem setDomain_fab (s : State) (r d : Nat) (x : Domain) : (s.setDomain r d x).fab = s.fab := rfl
@[simp] theorem setDomain_time (s : State) (r d : Nat) (x : Domain) : (s.setDomain r d x).time = s.time := rfl
@[simp] theorem setDomain_slot (s : State) (r d : Nat) (x : Domain) : (s.setDomain r d x).slot = s.slot := rfl
@[simp] theorem setDomain_colls (s : State) (r d : Nat) (x : Domain) : (s.setDomain r d x).colls = s.colls := rfl
@[simp] theorem setDomain_kiln (s : State) (r d : Nat) (x : Domain) : (s.setDomain r d x).kiln = s.kiln := rfl
@[simp] theorem setDomain_inbox (s : State) (r d : Nat) (x : Domain) : (s.setDomain r d x).inbox = s.inbox := rfl
@[simp] theorem setDomain_reachable (s : State) (r d : Nat) (x : Domain) :
    (s.setDomain r d x).reachable = s.reachable := rfl
@[simp] theorem setDomain_iommuRoots (s : State) (r d : Nat) (x : Domain) :
    (s.setDomain r d x).iommuRoots = s.iommuRoots := rfl
@[simp] theorem setDomain_maintLast (s : State) (r d : Nat) (x : Domain) :
    (s.setDomain r d x).maintLast = s.maintLast := rfl
@[simp] theorem setDomain_maintNext (s : State) (r d : Nat) (x : Domain) :
    (s.setDomain r d x).maintNext = s.maintNext := rfl
@[simp] theorem setDomain_checking (s : State) (r d : Nat) (x : Domain) :
    (s.setDomain r d x).checking = s.checking := rfl
@[simp] theorem setDomain_patBusy (s : State) (r d : Nat) (x : Domain) :
    (s.setDomain r d x).patBusy = s.patBusy := rfl
@[simp] theorem setDomain_regNext (s : State) (r d : Nat) (x : Domain) :
    (s.setDomain r d x).regNext = s.regNext := rfl
@[simp] theorem setDomain_buckets (s : State) (r d : Nat) (x : Domain) :
    (s.setDomain r d x).buckets = s.buckets := rfl
@[simp] theorem setDomain_markNs (s : State) (r d : Nat) (x : Domain) : (s.setDomain r d x).markNs = s.markNs := rfl
@[simp] theorem setDomain_rails (s : State) (r d : Nat) (x : Domain) : (s.setDomain r d x).rails = s.rails := rfl
@[simp] theorem setDomain_domains (s : State) (r d : Nat) (x : Domain) :
    (s.setDomain r d x).domains = s.domains.set (r, d) x := rfl
@[simp] theorem setDomain_power (s : State) (r d : Nat) (x : Domain) : (s.setDomain r d x).power = s.power := rfl
@[simp] theorem setDomain_links (s : State) (r d : Nat) (x : Domain) : (s.setDomain r d x).links = s.links := rfl
@[simp] theorem setDomain_thirds (s : State) (r d : Nat) (x : Domain) : (s.setDomain r d x).thirds = s.thirds := rfl
@[simp] theorem setDomain_packs (s : State) (r d : Nat) (x : Domain) : (s.setDomain r d x).packs = s.packs := rfl
@[simp] theorem setDomain_mgmt (s : State) (r d : Nat) (x : Domain) : (s.setDomain r d x).mgmt = s.mgmt := rfl

/-! ### setLink -/

@[simp] theorem setLink_pending (s : State) (l : Nat) (x : Link) : (s.setLink l x).pending = s.pending := rfl
@[simp] theorem setLink_patCache (s : State) (l : Nat) (x : Link) : (s.setLink l x).patCache = s.patCache := rfl
@[simp] theorem setLink_rbqCache (s : State) (l : Nat) (x : Link) : (s.setLink l x).rbqCache = s.rbqCache := rfl
@[simp] theorem setLink_nocHeld (s : State) (l : Nat) (x : Link) : (s.setLink l x).nocHeld = s.nocHeld := rfl
@[simp] theorem setLink_dirOrder (s : State) (l : Nat) (x : Link) : (s.setLink l x).dirOrder = s.dirOrder := rfl
@[simp] theorem setLink_slcDirty (s : State) (l : Nat) (x : Link) : (s.setLink l x).slcDirty = s.slcDirty := rfl
@[simp] theorem setLink_icache (s : State) (l : Nat) (x : Link) : (s.setLink l x).icache = s.icache := rfl
@[simp] theorem setLink_gsCache (s : State) (l : Nat) (x : Link) : (s.setLink l x).gsCache = s.gsCache := rfl
@[simp] theorem setLink_carried (s : State) (l : Nat) (x : Link) : (s.setLink l x).carried = s.carried := rfl
@[simp] theorem setLink_arb (s : State) (l : Nat) (x : Link) : (s.setLink l x).arb = s.arb := rfl
@[simp] theorem setLink_hostIn (s : State) (l : Nat) (x : Link) : (s.setLink l x).hostIn = s.hostIn := rfl
@[simp] theorem setLink_regs (s : State) (l : Nat) (x : Link) : (s.setLink l x).regs = s.regs := rfl
@[simp] theorem setLink_mem (s : State) (l : Nat) (x : Link) : (s.setLink l x).mem = s.mem := rfl
@[simp] theorem setLink_poison (s : State) (l : Nat) (x : Link) : (s.setLink l x).poison = s.poison := rfl
@[simp] theorem setLink_freeCount (s : State) (l : Nat) (x : Link) : (s.setLink l x).freeCount = s.freeCount := rfl
@[simp] theorem setLink_errLog (s : State) (l : Nat) (x : Link) : (s.setLink l x).errLog = s.errLog := rfl
@[simp] theorem setLink_fret (s : State) (l : Nat) (x : Link) : (s.setLink l x).fret = s.fret := rfl
@[simp] theorem setLink_phaseNs (s : State) (l : Nat) (x : Link) : (s.setLink l x).phaseNs = s.phaseNs := rfl
@[simp] theorem setLink_period (s : State) (l : Nat) (x : Link) : (s.setLink l x).period = s.period := rfl
@[simp] theorem setLink_epochSet (s : State) (l : Nat) (x : Link) : (s.setLink l x).epochSet = s.epochSet := rfl
@[simp] theorem setLink_localEpoch (s : State) (l : Nat) (x : Link) : (s.setLink l x).localEpoch = s.localEpoch := rfl
@[simp] theorem setLink_lostRegions (s : State) (l : Nat) (x : Link) :
    (s.setLink l x).lostRegions = s.lostRegions := rfl
@[simp] theorem setLink_master (s : State) (l : Nat) (x : Link) : (s.setLink l x).master = s.master := rfl
@[simp] theorem setLink_strictScope (s : State) (l : Nat) (x : Link) :
    (s.setLink l x).strictScope = s.strictScope := rfl
@[simp] theorem setLink_moduleId (s : State) (l : Nat) (x : Link) : (s.setLink l x).moduleId = s.moduleId := rfl
@[simp] theorem setLink_dies (s : State) (l : Nat) (x : Link) : (s.setLink l x).dies = s.dies := rfl
@[simp] theorem setLink_blocks (s : State) (l : Nat) (x : Link) : (s.setLink l x).blocks = s.blocks := rfl
@[simp] theorem setLink_evidence (s : State) (l : Nat) (x : Link) : (s.setLink l x).evidence = s.evidence := rfl
@[simp] theorem setLink_muteList (s : State) (l : Nat) (x : Link) : (s.setLink l x).muteList = s.muteList := rfl
@[simp] theorem setLink_caches (s : State) (l : Nat) (x : Link) : (s.setLink l x).caches = s.caches := rfl
@[simp] theorem setLink_evicting (s : State) (l : Nat) (x : Link) : (s.setLink l x).evicting = s.evicting := rfl
@[simp] theorem setLink_dir (s : State) (l : Nat) (x : Link) : (s.setLink l x).dir = s.dir := rfl
@[simp] theorem setLink_slc (s : State) (l : Nat) (x : Link) : (s.setLink l x).slc = s.slc := rfl
@[simp] theorem setLink_txns (s : State) (l : Nat) (x : Link) : (s.setLink l x).txns = s.txns := rfl
@[simp] theorem setLink_retries (s : State) (l : Nat) (x : Link) : (s.setLink l x).retries = s.retries := rfl
@[simp] theorem setLink_engineData (s : State) (l : Nat) (x : Link) : (s.setLink l x).engineData = s.engineData := rfl
@[simp] theorem setLink_initDone (s : State) (l : Nat) (x : Link) : (s.setLink l x).initDone = s.initDone := rfl
@[simp] theorem setLink_scrubbing (s : State) (l : Nat) (x : Link) : (s.setLink l x).scrubbing = s.scrubbing := rfl
@[simp] theorem setLink_hbm (s : State) (l : Nat) (x : Link) : (s.setLink l x).hbm = s.hbm := rfl
@[simp] theorem setLink_lpd (s : State) (l : Nat) (x : Link) : (s.setLink l x).lpd = s.lpd := rfl
@[simp] theorem setLink_groups (s : State) (l : Nat) (x : Link) : (s.setLink l x).groups = s.groups := rfl
@[simp] theorem setLink_headerGib (s : State) (l : Nat) (x : Link) : (s.setLink l x).headerGib = s.headerGib := rfl
@[simp] theorem setLink_pat (s : State) (l : Nat) (x : Link) : (s.setLink l x).pat = s.pat := rfl
@[simp] theorem setLink_reserved (s : State) (l : Nat) (x : Link) : (s.setLink l x).reserved = s.reserved := rfl
@[simp] theorem setLink_pegs (s : State) (l : Nat) (x : Link) : (s.setLink l x).pegs = s.pegs := rfl
@[simp] theorem setLink_casExp (s : State) (l : Nat) (x : Link) : (s.setLink l x).casExp = s.casExp := rfl
@[simp] theorem setLink_watches (s : State) (l : Nat) (x : Link) : (s.setLink l x).watches = s.watches := rfl
@[simp] theorem setLink_gens (s : State) (l : Nat) (x : Link) : (s.setLink l x).gens = s.gens := rfl
@[simp] theorem setLink_fired (s : State) (l : Nat) (x : Link) : (s.setLink l x).fired = s.fired := rfl
@[simp] theorem setLink_heldEvents (s : State) (l : Nat) (x : Link) : (s.setLink l x).heldEvents = s.heldEvents := rfl
@[simp] theorem setLink_eventQ (s : State) (l : Nat) (x : Link) : (s.setLink l x).eventQ = s.eventQ := rfl
@[simp] theorem setLink_arms (s : State) (l : Nat) (x : Link) : (s.setLink l x).arms = s.arms := rfl
@[simp] theorem setLink_harts (s : State) (l : Nat) (x : Link) : (s.setLink l x).harts = s.harts := rfl
@[simp] theorem setLink_coresOn (s : State) (l : Nat) (x : Link) : (s.setLink l x).coresOn = s.coresOn := rfl
@[simp] theorem setLink_out (s : State) (l : Nat) (x : Link) : (s.setLink l x).out = s.out := rfl
@[simp] theorem setLink_nextTag (s : State) (l : Nat) (x : Link) : (s.setLink l x).nextTag = s.nextTag := rfl
@[simp] theorem setLink_answers (s : State) (l : Nat) (x : Link) : (s.setLink l x).answers = s.answers := rfl
@[simp] theorem setLink_dma (s : State) (l : Nat) (x : Link) : (s.setLink l x).dma = s.dma := rfl
@[simp] theorem setLink_rbq (s : State) (l : Nat) (x : Link) : (s.setLink l x).rbq = s.rbq := rfl
@[simp] theorem setLink_outbox (s : State) (l : Nat) (x : Link) : (s.setLink l x).outbox = s.outbox := rfl
@[simp] theorem setLink_hostPorts (s : State) (l : Nat) (x : Link) : (s.setLink l x).hostPorts = s.hostPorts := rfl
@[simp] theorem setLink_hostLog (s : State) (l : Nat) (x : Link) : (s.setLink l x).hostLog = s.hostLog := rfl
@[simp] theorem setLink_fabLog (s : State) (l : Nat) (x : Link) : (s.setLink l x).fabLog = s.fabLog := rfl
@[simp] theorem setLink_ports (s : State) (l : Nat) (x : Link) : (s.setLink l x).ports = s.ports := rfl
@[simp] theorem setLink_fab (s : State) (l : Nat) (x : Link) : (s.setLink l x).fab = s.fab := rfl
@[simp] theorem setLink_time (s : State) (l : Nat) (x : Link) : (s.setLink l x).time = s.time := rfl
@[simp] theorem setLink_slot (s : State) (l : Nat) (x : Link) : (s.setLink l x).slot = s.slot := rfl
@[simp] theorem setLink_colls (s : State) (l : Nat) (x : Link) : (s.setLink l x).colls = s.colls := rfl
@[simp] theorem setLink_kiln (s : State) (l : Nat) (x : Link) : (s.setLink l x).kiln = s.kiln := rfl
@[simp] theorem setLink_inbox (s : State) (l : Nat) (x : Link) : (s.setLink l x).inbox = s.inbox := rfl
@[simp] theorem setLink_reachable (s : State) (l : Nat) (x : Link) : (s.setLink l x).reachable = s.reachable := rfl
@[simp] theorem setLink_iommuRoots (s : State) (l : Nat) (x : Link) : (s.setLink l x).iommuRoots = s.iommuRoots := rfl
@[simp] theorem setLink_maintLast (s : State) (l : Nat) (x : Link) : (s.setLink l x).maintLast = s.maintLast := rfl
@[simp] theorem setLink_maintNext (s : State) (l : Nat) (x : Link) : (s.setLink l x).maintNext = s.maintNext := rfl
@[simp] theorem setLink_checking (s : State) (l : Nat) (x : Link) : (s.setLink l x).checking = s.checking := rfl
@[simp] theorem setLink_patBusy (s : State) (l : Nat) (x : Link) : (s.setLink l x).patBusy = s.patBusy := rfl
@[simp] theorem setLink_regNext (s : State) (l : Nat) (x : Link) : (s.setLink l x).regNext = s.regNext := rfl
@[simp] theorem setLink_buckets (s : State) (l : Nat) (x : Link) : (s.setLink l x).buckets = s.buckets := rfl
@[simp] theorem setLink_markNs (s : State) (l : Nat) (x : Link) : (s.setLink l x).markNs = s.markNs := rfl
@[simp] theorem setLink_rails (s : State) (l : Nat) (x : Link) : (s.setLink l x).rails = s.rails := rfl
@[simp] theorem setLink_domains (s : State) (l : Nat) (x : Link) : (s.setLink l x).domains = s.domains := rfl
@[simp] theorem setLink_power (s : State) (l : Nat) (x : Link) : (s.setLink l x).power = s.power := rfl
@[simp] theorem setLink_links (s : State) (l : Nat) (x : Link) : (s.setLink l x).links = s.links.set l x := rfl
@[simp] theorem setLink_thirds (s : State) (l : Nat) (x : Link) : (s.setLink l x).thirds = s.thirds := rfl
@[simp] theorem setLink_packs (s : State) (l : Nat) (x : Link) : (s.setLink l x).packs = s.packs := rfl
@[simp] theorem setLink_mgmt (s : State) (l : Nat) (x : Link) : (s.setLink l x).mgmt = s.mgmt := rfl

/-! ### A unit read after a write of it, and of another -/

@[simp] theorem reg_setReg_self (s : State) (g : Reg) (v : W64) : (s.setReg g v).reg g = v := by simp [reg]
theorem reg_setReg_ne (s : State) {g j : Reg} (v : W64) (h : j ≠ g) : (s.setReg g v).reg j = s.reg j := by
  simp [reg, Map.get_set_ne _ _ _ h]
@[simp] theorem reg_bump_self (s : State) (g : Reg) (n : Nat) : (s.bump g n).reg g = s.reg g + w64 n := by simp [bump]
theorem reg_bump_ne (s : State) {g j : Reg} (n : Nat) (h : j ≠ g) : (s.bump g n).reg j = s.reg j := by
  simp [bump, reg_setReg_ne _ _ h]

@[simp] theorem block_setBlock_self (s : State) (b : Nat) (x : Block) : (s.setBlock b x).block b = x := by simp [block]
theorem block_setBlock_ne (s : State) {b j : Nat} (x : Block) (h : j ≠ b) : (s.setBlock b x).block j = s.block j := by
  simp [block, Map.get_set_ne _ _ _ h]
@[simp] theorem peg_setPeg_self (s : State) (b : Nat) (x : Peg) : (s.setPeg b x).peg b = x := by simp [peg]
theorem peg_setPeg_ne (s : State) {b j : Nat} (x : Peg) (h : j ≠ b) : (s.setPeg b x).peg j = s.peg j := by
  simp [peg, Map.get_set_ne _ _ _ h]
@[simp] theorem hart_setHart_self (s : State) (b : Nat) (x : Hart) : (s.setHart b x).hart b = x := by simp [hart]
theorem hart_setHart_ne (s : State) {b j : Nat} (x : Hart) (h : j ≠ b) : (s.setHart b x).hart j = s.hart j := by
  simp [hart, Map.get_set_ne _ _ _ h]
@[simp] theorem port_setPort_self (s : State) (b : Nat) (x : Port) : (s.setPort b x).port b = x := by simp [port]
theorem port_setPort_ne (s : State) {b j : Nat} (x : Port) (h : j ≠ b) : (s.setPort b x).port j = s.port j := by
  simp [port, Map.get_set_ne _ _ _ h]

end State

/-! ### Commands that no module has change nothing -/

theorem checked_illFormed {f : State → State} {s : State} : checked false s f = .next s := rfl
theorem railed_illFormed {f : State → State} {s : State} : railed false s f = .next s := rfl

/-- The two ways a command is offered always answer a next state for a command that the module has. -/
theorem checked_next (f : State → State) (s : State) : checked true s f = .next (f s) := rfl
theorem railed_next (f : State → State) (s : State) : railed true s f = .next (if s.powered then f s else s) := rfl

end Machine

end Sys2Proof
end

