-- ==== Sys2Proof/Laws/Exec.lean ====
section
/-!
SUPPORT. The operation that each command carries out where it acts: a well-formed command, and for a command of the dies the
load rails on.
-/
namespace Sys2Proof.Machine

theorem checked_on {w : Bool} {s : State} {f : State → State} (hw : w = true) : checked w s f = .next (f s) := by
  subst hw; rfl

theorem railed_on {w : Bool} {s : State} {f : State → State} (hw : w = true) (hp : s.powered = true) :
    railed w s f = .next (f s) := by subst hw; simp [railed, checked, hp]

theorem railed_off {w : Bool} {s : State} {f : State → State} (hw : w = true) (hp : s.powered = false) :
    railed w s f = .next s := by subst hw; simp [railed, checked, hp]

theorem exec_registerWrite (ag : Agent) (addr : Nat) (v : W64) (s : State)
    (hw : (Instr.registerWrite ag addr v).wf = true) (hp : s.powered = true) :
    exec (.registerWrite ag addr v) s = .next
      (s.writeAddr ag addr v) := by
  show railed (Instr.registerWrite ag addr v).wf s (fun s => s.writeAddr ag addr v) = _
  exact railed_on hw hp

theorem exec_misalignedRegAccess (ag : Agent) (addr size : Nat) (write : Bool) (s : State)
    (hw : (Instr.misalignedRegAccess ag addr size write).wf = true) (hp : s.powered = true) :
    exec (.misalignedRegAccess ag addr size write) s = .next
      (s.misalignedAccess ag addr size write) := by
  show railed (Instr.misalignedRegAccess ag addr size write).wf s (fun s => s.misalignedAccess ag addr size write) = _
  exact railed_on hw hp

theorem exec_fabFretPeriodWrite (ag : Agent) (r : Nat) (v : W64) (s : State)
    (hw : (Instr.fabFretPeriodWrite ag r v).wf = true) (hp : s.powered = true) :
    exec (.fabFretPeriodWrite ag r v) s = .next
      (s.periodWrite ag r v) := by
  show railed (Instr.fabFretPeriodWrite ag r v).wf s (fun s => s.periodWrite ag r v) = _
  exact railed_on hw hp

theorem exec_fretMark (m : MarkInput) (s : State)
    (hw : (Instr.fretMark m).wf = true) (hp : s.powered = true) :
    exec (.fretMark m) s = .next
      (s.noted (s.fretMark m)) := by
  show railed (Instr.fretMark m).wf s (fun s => s.noted (s.fretMark m)) = _
  exact railed_on hw hp

theorem exec_vfStepRise (r d : Nat) (s : State)
    (hw : (Instr.vfStepRise r d).wf = true) (hp : s.powered = true) :
    exec (.vfStepRise r d) s = .next
      (s.vfStepRise r d) := by
  show railed (Instr.vfStepRise r d).wf s (fun s => s.vfStepRise r d) = _
  exact railed_on hw hp

theorem exec_lateralPathChange (edge lost : Option Nat) (fl : List LateralFlit) (s : State)
    (hw : (Instr.lateralPathChange edge lost fl).wf = true) (hp : s.powered = true) :
    exec (.lateralPathChange edge lost fl) s = .next
      (if s.pathChanged edge lost then s.pathChange edge lost fl else s) := by
  show railed (Instr.lateralPathChange edge lost fl).wf s (fun s => if s.pathChanged edge lost then s.pathChange edge lost fl else s) = _
  exact railed_on hw hp

theorem exec_mxLoad (b : Nat) (s : State)
    (hw : (Instr.mxLoad b).wf = true) (hp : s.powered = true) :
    exec (.mxLoad b) s = .next
      (s.mxLoad b) := by
  show railed (Instr.mxLoad b).wf s (fun s => s.mxLoad b) = _
  exact railed_on hw hp

theorem exec_mxLoadPathStart (b : Nat) (s : State)
    (hw : (Instr.mxLoadPathStart b).wf = true) (hp : s.powered = true) :
    exec (.mxLoadPathStart b) s = .next
      (s.mxLoadPathStart b) := by
  show railed (Instr.mxLoadPathStart b).wf s (fun s => s.mxLoadPathStart b) = _
  exact railed_on hw hp

theorem exec_mxLoadDone (b : Nat) (s : State)
    (hw : (Instr.mxLoadDone b).wf = true) (hp : s.powered = true) :
    exec (.mxLoadDone b) s = .next
      (s.mxLoadDone b) := by
  show railed (Instr.mxLoadDone b).wf s (fun s => s.mxLoadDone b) = _
  exact railed_on hw hp

theorem exec_mxSwap (b : Nat) (s : State)
    (hw : (Instr.mxSwap b).wf = true) (hp : s.powered = true) :
    exec (.mxSwap b) s = .next
      (s.mxSwap b) := by
  show railed (Instr.mxSwap b).wf s (fun s => s.mxSwap b) = _
  exact railed_on hw hp

theorem exec_mxSwapCycle (b : Nat) (s : State)
    (hw : (Instr.mxSwapCycle b).wf = true) (hp : s.powered = true) :
    exec (.mxSwapCycle b) s = .next
      (s.mxSwapCycle b) := by
  show railed (Instr.mxSwapCycle b).wf s (fun s => s.mxSwapCycle b) = _
  exact railed_on hw hp

theorem exec_mxStream (b : Nat) (s : State)
    (hw : (Instr.mxStream b).wf = true) (hp : s.powered = true) :
    exec (.mxStream b) s = .next
      (s.mxStream b) := by
  show railed (Instr.mxStream b).wf s (fun s => s.mxStream b) = _
  exact railed_on hw hp

theorem exec_mxRowFeed (b : Nat) (granted : Bool) (errs : List ArrayError) (parity : Option (Nat × Nat)) (s : State)
    (hw : (Instr.mxRowFeed b granted errs parity).wf = true) (hp : s.powered = true) :
    exec (.mxRowFeed b granted errs parity) s = .next
      (s.noted (s.mxRowFeed b granted errs parity)) := by
  show railed (Instr.mxRowFeed b granted errs parity).wf s (fun s => s.noted (s.mxRowFeed b granted errs parity)) = _
  exact railed_on hw hp

theorem exec_groupCheck (b : Nat) (s : State)
    (hw : (Instr.groupCheck b).wf = true) (hp : s.powered = true) :
    exec (.groupCheck b) s = .next
      (s.noted (s.groupCheck b)) := by
  show railed (Instr.groupCheck b).wf s (fun s => s.noted (s.groupCheck b)) = _
  exact railed_on hw hp

theorem exec_mxRowCommit (b : Nat) (s : State)
    (hw : (Instr.mxRowCommit b).wf = true) (hp : s.powered = true) :
    exec (.mxRowCommit b) s = .next
      (s.mxRowCommit b) := by
  show railed (Instr.mxRowCommit b).wf s (fun s => s.mxRowCommit b) = _
  exact railed_on hw hp

theorem exec_feedPegRelease (b : Nat) (s : State)
    (hw : (Instr.feedPegRelease b).wf = true) (hp : s.powered = true) :
    exec (.feedPegRelease b) s = .next
      (s.feedPegRelease b) := by
  show railed (Instr.feedPegRelease b).wf s (fun s => s.feedPegRelease b) = _
  exact railed_on hw hp

theorem exec_mxDrain (b n : Nat) (s : State)
    (hw : (Instr.mxDrain b n).wf = true) (hp : s.powered = true) :
    exec (.mxDrain b n) s = .next
      (s.mxDrain b n) := by
  show railed (Instr.mxDrain b n).wf s (fun s => s.mxDrain b n) = _
  exact railed_on hw hp

theorem exec_mxSeed (b n : Nat) (s : State)
    (hw : (Instr.mxSeed b n).wf = true) (hp : s.powered = true) :
    exec (.mxSeed b n) s = .next
      (s.mxSeed b n) := by
  show railed (Instr.mxSeed b n).wf s (fun s => s.mxSeed b n) = _
  exact railed_on hw hp

theorem exec_mxCountClear (ag : Agent) (b : Nat) (v : W64) (s : State)
    (hw : (Instr.mxCountClear ag b v).wf = true) (hp : s.powered = true) :
    exec (.mxCountClear ag b v) s = .next
      (s.countClear v (State.mxCounters b)) := by
  show railed (Instr.mxCountClear ag b v).wf s (fun s => s.countClear v (State.mxCounters b)) = _
  exact railed_on hw hp

theorem exec_cmdPush (b : Nat) (v : W64) (s : State)
    (hw : (Instr.cmdPush b v).wf = true) (hp : s.powered = true) :
    exec (.cmdPush b v) s = .next
      (s.cmdPush b v) := by
  show railed (Instr.cmdPush b v).wf s (fun s => s.cmdPush b v) = _
  exact railed_on hw hp

theorem exec_spillRefill (b e : Nat) (s : State)
    (hw : (Instr.spillRefill b e).wf = true) (hp : s.powered = true) :
    exec (.spillRefill b e) s = .next
      (s.refill b e) := by
  show railed (Instr.spillRefill b e).wf s (fun s => s.refill b e) = _
  exact railed_on hw hp

theorem exec_tokenWaitEnd (b e : Nat) (s : State)
    (hw : (Instr.tokenWaitEnd b e).wf = true) (hp : s.powered = true) :
    exec (.tokenWaitEnd b e) s = .next
      (s.tokenWaitEnd b e) := by
  show railed (Instr.tokenWaitEnd b e).wf s (fun s => s.tokenWaitEnd b e) = _
  exact railed_on hw hp

theorem exec_blkTokenErrClear (ag : Agent) (b : Nat) (v : W64) (s : State)
    (hw : (Instr.blkTokenErrClear ag b v).wf = true) (hp : s.powered = true) :
    exec (.blkTokenErrClear ag b v) s = .next
      (s.tokenErrClear b v) := by
  show railed (Instr.blkTokenErrClear ag b v).wf s (fun s => s.tokenErrClear b v) = _
  exact railed_on hw hp

theorem exec_blkCplCtrlWrite (ag : Agent) (b : Nat) (v : W64) (s : State)
    (hw : (Instr.blkCplCtrlWrite ag b v).wf = true) (hp : s.powered = true) :
    exec (.blkCplCtrlWrite ag b v) s = .next
      (s.cplCtrlWrite ag b v) := by
  show railed (Instr.blkCplCtrlWrite ag b v).wf s (fun s => s.cplCtrlWrite ag b v) = _
  exact railed_on hw hp

theorem exec_blkCplHeadWrite (ag : Agent) (b : Nat) (v : W64) (s : State)
    (hw : (Instr.blkCplHeadWrite ag b v).wf = true) (hp : s.powered = true) :
    exec (.blkCplHeadWrite ag b v) s = .next
      (s.cplHeadWrite ag b v) := by
  show railed (Instr.blkCplHeadWrite ag b v).wf s (fun s => s.cplHeadWrite ag b v) = _
  exact railed_on hw hp

theorem exec_completionWrite (b e : Nat) (s : State)
    (hw : (Instr.completionWrite b e).wf = true) (hp : s.powered = true) :
    exec (.completionWrite b e) s = .next
      (s.completionWrite b e) := by
  show railed (Instr.completionWrite b e).wf s (fun s => s.completionWrite b e) = _
  exact railed_on hw hp

theorem exec_veBinary (b n : Nat) (err : Option ResidueError) (s : State)
    (hw : (Instr.veBinary b n err).wf = true) (hp : s.powered = true) :
    exec (.veBinary b n err) s = .next
      (s.noted (s.vecStep b 0x40 n err)) := by
  show railed (Instr.veBinary b n err).wf s (fun s => s.noted (s.vecStep b 0x40 n err)) = _
  exact railed_on hw hp

theorem exec_veUnary (b n : Nat) (s : State)
    (hw : (Instr.veUnary b n).wf = true) (hp : s.powered = true) :
    exec (.veUnary b n) s = .next
      (s.vecStep b 0x41 n none) := by
  show railed (Instr.veUnary b n).wf s (fun s => s.vecStep b 0x41 n none) = _
  exact railed_on hw hp

theorem exec_veFma (b n : Nat) (err : Option ResidueError) (s : State)
    (hw : (Instr.veFma b n err).wf = true) (hp : s.powered = true) :
    exec (.veFma b n err) s = .next
      (s.noted (s.vecStep b 0x42 n err)) := by
  show railed (Instr.veFma b n err).wf s (fun s => s.noted (s.vecStep b 0x42 n err)) = _
  exact railed_on hw hp

theorem exec_veReduce (b n : Nat) (err : Option ResidueError) (s : State)
    (hw : (Instr.veReduce b n err).wf = true) (hp : s.powered = true) :
    exec (.veReduce b n err) s = .next
      (s.noted (s.vecReduce b n err)) := by
  show railed (Instr.veReduce b n err).wf s (fun s => s.noted (s.vecReduce b n err)) = _
  exact railed_on hw hp

theorem exec_veQuantMx (b n : Nat) (s : State)
    (hw : (Instr.veQuantMx b n).wf = true) (hp : s.powered = true) :
    exec (.veQuantMx b n) s = .next
      (s.vecQuant b n) := by
  show railed (Instr.veQuantMx b n).wf s (fun s => s.vecQuant b n) = _
  exact railed_on hw hp

theorem exec_veRawCombine (b n : Nat) (err : Option ResidueError) (s : State)
    (hw : (Instr.veRawCombine b n err).wf = true) (hp : s.powered = true) :
    exec (.veRawCombine b n err) s = .next
      (s.noted (s.vecRaw b n err)) := by
  show railed (Instr.veRawCombine b n err).wf s (fun s => s.noted (s.vecRaw b n err)) = _
  exact railed_on hw hp

theorem exec_lyTranspose (b n : Nat) (s : State)
    (hw : (Instr.lyTranspose b n).wf = true) (hp : s.powered = true) :
    exec (.lyTranspose b n) s = .next
      (s.layoutStep b 0x60 n) := by
  show railed (Instr.lyTranspose b n).wf s (fun s => s.layoutStep b 0x60 n) = _
  exact railed_on hw hp

theorem exec_lyCopy2d (b n : Nat) (s : State)
    (hw : (Instr.lyCopy2d b n).wf = true) (hp : s.powered = true) :
    exec (.lyCopy2d b n) s = .next
      (s.layoutStep b 0x61 n) := by
  show railed (Instr.lyCopy2d b n).wf s (fun s => s.layoutStep b 0x61 n) = _
  exact railed_on hw hp

theorem exec_lyPad (b n : Nat) (s : State)
    (hw : (Instr.lyPad b n).wf = true) (hp : s.powered = true) :
    exec (.lyPad b n) s = .next
      (s.layoutStep b 0x62 n) := by
  show railed (Instr.lyPad b n).wf s (fun s => s.layoutStep b 0x62 n) = _
  exact railed_on hw hp

theorem exec_lyConvert (b n : Nat) (s : State)
    (hw : (Instr.lyConvert b n).wf = true) (hp : s.powered = true) :
    exec (.lyConvert b n) s = .next
      (s.layoutStep b 0x63 n) := by
  show railed (Instr.lyConvert b n).wf s (fun s => s.layoutStep b 0x63 n) = _
  exact railed_on hw hp

theorem exec_gsGather (b n : Nat) (s : State)
    (hw : (Instr.gsGather b n).wf = true) (hp : s.powered = true) :
    exec (.gsGather b n) s = .next
      (s.gsStep b 0x70 n) := by
  show railed (Instr.gsGather b n).wf s (fun s => s.gsStep b 0x70 n) = _
  exact railed_on hw hp

theorem exec_gsScatter (b n : Nat) (s : State)
    (hw : (Instr.gsScatter b n).wf = true) (hp : s.powered = true) :
    exec (.gsScatter b n) s = .next
      (s.gsStep b 0x71 n) := by
  show railed (Instr.gsScatter b n).wf s (fun s => s.gsStep b 0x71 n) = _
  exact railed_on hw hp

theorem exec_gsLoad (b n : Nat) (s : State)
    (hw : (Instr.gsLoad b n).wf = true) (hp : s.powered = true) :
    exec (.gsLoad b n) s = .next
      (s.gsStep b 0x72 n) := by
  show railed (Instr.gsLoad b n).wf s (fun s => s.gsStep b 0x72 n) = _
  exact railed_on hw hp

theorem exec_gsStore (b n : Nat) (s : State)
    (hw : (Instr.gsStore b n).wf = true) (hp : s.powered = true) :
    exec (.gsStore b n) s = .next
      (s.gsStep b 0x73 n) := by
  show railed (Instr.gsStore b n).wf s (fun s => s.gsStep b 0x73 n) = _
  exact railed_on hw hp

theorem exec_skSort (b n : Nat) (s : State)
    (hw : (Instr.skSort b n).wf = true) (hp : s.powered = true) :
    exec (.skSort b n) s = .next
      (s.sortStep b 0x78 n) := by
  show railed (Instr.skSort b n).wf s (fun s => s.sortStep b 0x78 n) = _
  exact railed_on hw hp

theorem exec_skTopk (b n : Nat) (s : State)
    (hw : (Instr.skTopk b n).wf = true) (hp : s.powered = true) :
    exec (.skTopk b n) s = .next
      (s.sortStep b 0x79 n) := by
  show railed (Instr.skTopk b n).wf s (fun s => s.sortStep b 0x79 n) = _
  exact railed_on hw hp

theorem exec_blkStart (ag : Agent) (b : Nat) (s : State)
    (hw : (Instr.blkStart ag b).wf = true) (hp : s.powered = true) :
    exec (.blkStart ag b) s = .next
      (s.blkStart ag b) := by
  show railed (Instr.blkStart ag b).wf s (fun s => s.blkStart ag b) = _
  exact railed_on hw hp

theorem exec_blkHalt (ag : Agent) (b : Nat) (s : State)
    (hw : (Instr.blkHalt ag b).wf = true) (hp : s.powered = true) :
    exec (.blkHalt ag b) s = .next
      (s.blkHalt ag b) := by
  show railed (Instr.blkHalt ag b).wf s (fun s => s.blkHalt ag b) = _
  exact railed_on hw hp

theorem exec_blkReset (ag : Agent) (b : Nat) (s : State)
    (hw : (Instr.blkReset ag b).wf = true) (hp : s.powered = true) :
    exec (.blkReset ag b) s = .next
      (s.blkReset ag b) := by
  show railed (Instr.blkReset ag b).wf s (fun s => s.blkReset ag b) = _
  exact railed_on hw hp

theorem exec_blockResetRelease (b : Nat) (s : State)
    (hw : (Instr.blockResetRelease b).wf = true) (hp : s.powered = true) :
    exec (.blockResetRelease b) s = .next
      (s.blockRelease b) := by
  show railed (Instr.blockResetRelease b).wf s (fun s => s.blockRelease b) = _
  exact railed_on hw hp

theorem exec_seqDoubleTrap (b : Nat) (s : State)
    (hw : (Instr.seqDoubleTrap b).wf = true) (hp : s.powered = true) :
    exec (.seqDoubleTrap b) s = .next
      (s.doubleTrap b) := by
  show railed (Instr.seqDoubleTrap b).wf s (fun s => s.doubleTrap b) = _
  exact railed_on hw hp

theorem exec_blockMute (b cause : Nat) (s : State)
    (hw : (Instr.blockMute b cause).wf = true) (hp : s.powered = true) :
    exec (.blockMute b cause) s = .next
      (s.noted (s.muteBlock b cause)) := by
  show railed (Instr.blockMute b cause).wf s (fun s => s.noted (s.muteBlock b cause)) = _
  exact railed_on hw hp

theorem exec_blkCountClear (ag : Agent) (b : Nat) (v : W64) (s : State)
    (hw : (Instr.blkCountClear ag b v).wf = true) (hp : s.powered = true) :
    exec (.blkCountClear ag b v) s = .next
      (s.countClear v (State.blkCounters b)) := by
  show railed (Instr.blkCountClear ag b v).wf s (fun s => s.countClear v (State.blkCounters b)) = _
  exact railed_on hw hp

theorem exec_blkAsyncErrClear (ag : Agent) (b : Nat) (v : W64) (s : State)
    (hw : (Instr.blkAsyncErrClear ag b v).wf = true) (hp : s.powered = true) :
    exec (.blkAsyncErrClear ag b v) s = .next
      (s.asyncClear (144 + b) v) := by
  show railed (Instr.blkAsyncErrClear ag b v).wf s (fun s => s.asyncClear (144 + b) v) = _
  exact railed_on hw hp

theorem exec_hartLoad (h : Nat) (a : Access) (s : State)
    (hw : (Instr.hartLoad h a).wf = true) (hp : s.powered = true) :
    exec (.hartLoad h a) s = .next
      (s.hartLoad h a) := by
  show railed (Instr.hartLoad h a).wf s (fun s => s.hartLoad h a) = _
  exact railed_on hw hp

theorem exec_hartStore (h : Nat) (a : Access) (v : W64) (hold : Nat) (s : State)
    (hw : (Instr.hartStore h a v hold).wf = true) (hp : s.powered = true) :
    exec (.hartStore h a v hold) s = .next
      (s.hartStore h a v hold) := by
  show railed (Instr.hartStore h a v hold).wf s (fun s => s.hartStore h a v hold) = _
  exact railed_on hw hp

theorem exec_hartAmo (h : Nat) (a : Access) (op : AmoOp) (v : W64) (s : State)
    (hw : (Instr.hartAmo h a op v).wf = true) (hp : s.powered = true) :
    exec (.hartAmo h a op v) s = .next
      (s.hartAmo h a op v) := by
  show railed (Instr.hartAmo h a op v).wf s (fun s => s.hartAmo h a op v) = _
  exact railed_on hw hp

theorem exec_hartLr (h : Nat) (a : Access) (s : State)
    (hw : (Instr.hartLr h a).wf = true) (hp : s.powered = true) :
    exec (.hartLr h a) s = .next
      (s.hartLr h a) := by
  show railed (Instr.hartLr h a).wf s (fun s => s.hartLr h a) = _
  exact railed_on hw hp

theorem exec_hartSc (h : Nat) (a : Access) (v : W64) (s : State)
    (hw : (Instr.hartSc h a v).wf = true) (hp : s.powered = true) :
    exec (.hartSc h a v) s = .next
      (s.hartSc h a v) := by
  show railed (Instr.hartSc h a v).wf s (fun s => s.hartSc h a v) = _
  exact railed_on hw hp

theorem exec_hartFence (h : Nat) (pred succ : FenceSet) (tso : Bool) (s : State)
    (hw : (Instr.hartFence h pred succ tso).wf = true) (hp : s.powered = true) :
    exec (.hartFence h pred succ tso) s = .next
      (s.hartFence h pred succ tso) := by
  show railed (Instr.hartFence h pred succ tso).wf s (fun s => s.hartFence h pred succ tso) = _
  exact railed_on hw hp

theorem exec_fenceI (h : Nat) (s : State)
    (hw : (Instr.fenceI h).wf = true) (hp : s.powered = true) :
    exec (.fenceI h) s = .next
      (s.fenceI h) := by
  show railed (Instr.fenceI h).wf s (fun s => s.fenceI h) = _
  exact railed_on hw hp

theorem exec_wfi (h : Nat) (s : State)
    (hw : (Instr.wfi h).wf = true) (hp : s.powered = true) :
    exec (.wfi h) s = .next
      (s.hartWfi h) := by
  show railed (Instr.wfi h).wf s (fun s => s.hartWfi h) = _
  exact railed_on hw hp

theorem exec_wcEntryWriteout (h line : Nat) (s : State)
    (hw : (Instr.wcEntryWriteout h line).wf = true) (hp : s.powered = true) :
    exec (.wcEntryWriteout h line) s = .next
      (s.wcWriteout h line) := by
  show railed (Instr.wcEntryWriteout h line).wf s (fun s => s.wcWriteout h line) = _
  exact railed_on hw hp

theorem exec_reservationExpire (h : Nat) (s : State)
    (hw : (Instr.reservationExpire h).wf = true) (hp : s.powered = true) :
    exec (.reservationExpire h) s = .next
      (s.reservationExpire h) := by
  show railed (Instr.reservationExpire h).wf s (fun s => s.reservationExpire h) = _
  exact railed_on hw hp

theorem exec_mgmtCoreAsyncErrClear (ag : Agent) (c : Nat) (v : W64) (s : State)
    (hw : (Instr.mgmtCoreAsyncErrClear ag c v).wf = true) (hp : s.powered = true) :
    exec (.mgmtCoreAsyncErrClear ag c v) s = .next
      (s.asyncClear c v) := by
  show railed (Instr.mgmtCoreAsyncErrClear ag c v).wf s (fun s => s.asyncClear c v) = _
  exact railed_on hw hp

theorem exec_remoteWriteTimeout (tag : ReqTag) (s : State)
    (hw : (Instr.remoteWriteTimeout tag).wf = true) (hp : s.powered = true) :
    exec (.remoteWriteTimeout tag) s = .next
      (s.timeout tag true) := by
  show railed (Instr.remoteWriteTimeout tag).wf s (fun s => s.timeout tag true) = _
  exact railed_on hw hp

theorem exec_remoteLoadTimeout (tag : ReqTag) (s : State)
    (hw : (Instr.remoteLoadTimeout tag).wf = true) (hp : s.powered = true) :
    exec (.remoteLoadTimeout tag) s = .next
      (s.timeout tag false) := by
  show railed (Instr.remoteLoadTimeout tag).wf s (fun s => s.timeout tag false) = _
  exact railed_on hw hp

theorem exec_dmaEnable (ag : Agent) (r c : Nat) (s : State)
    (hw : (Instr.dmaEnable ag r c).wf = true) (hp : s.powered = true) :
    exec (.dmaEnable ag r c) s = .next
      (s.dmaCtrlSet ag r c 1 0) := by
  show railed (Instr.dmaEnable ag r c).wf s (fun s => s.dmaCtrlSet ag r c 1 0) = _
  exact railed_on hw hp

theorem exec_dmaDisable (ag : Agent) (r c : Nat) (s : State)
    (hw : (Instr.dmaDisable ag r c).wf = true) (hp : s.powered = true) :
    exec (.dmaDisable ag r c) s = .next
      (s.dmaCtrlSet ag r c 0 1) := by
  show railed (Instr.dmaDisable ag r c).wf s (fun s => s.dmaCtrlSet ag r c 0 1) = _
  exact railed_on hw hp

theorem exec_dmaPause (ag : Agent) (r c : Nat) (s : State)
    (hw : (Instr.dmaPause ag r c).wf = true) (hp : s.powered = true) :
    exec (.dmaPause ag r c) s = .next
      (s.dmaCtrlSet ag r c 2 0) := by
  show railed (Instr.dmaPause ag r c).wf s (fun s => s.dmaCtrlSet ag r c 2 0) = _
  exact railed_on hw hp

theorem exec_dmaResume (ag : Agent) (r c : Nat) (s : State)
    (hw : (Instr.dmaResume ag r c).wf = true) (hp : s.powered = true) :
    exec (.dmaResume ag r c) s = .next
      (s.dmaCtrlSet ag r c 0 2) := by
  show railed (Instr.dmaResume ag r c).wf s (fun s => s.dmaCtrlSet ag r c 0 2) = _
  exact railed_on hw hp

theorem exec_dmaAbort (ag : Agent) (r c : Nat) (s : State)
    (hw : (Instr.dmaAbort ag r c).wf = true) (hp : s.powered = true) :
    exec (.dmaAbort ag r c) s = .next
      (s.dmaCtrlSet ag r c 4 0) := by
  show railed (Instr.dmaAbort ag r c).wf s (fun s => s.dmaCtrlSet ag r c 4 0) = _
  exact railed_on hw hp

theorem exec_dmaClearErr (ag : Agent) (r c : Nat) (s : State)
    (hw : (Instr.dmaClearErr ag r c).wf = true) (hp : s.powered = true) :
    exec (.dmaClearErr ag r c) s = .next
      (s.dmaCtrlSet ag r c 8 0) := by
  show railed (Instr.dmaClearErr ag r c).wf s (fun s => s.dmaCtrlSet ag r c 8 0) = _
  exact railed_on hw hp

theorem exec_dmaDoorbell (ag : Agent) (r c : Nat) (v : W64) (s : State)
    (hw : (Instr.dmaDoorbell ag r c v).wf = true) (hp : s.powered = true) :
    exec (.dmaDoorbell ag r c v) s = .next
      (s.dmaDoorbell ag r c v) := by
  show railed (Instr.dmaDoorbell ag r c v).wf s (fun s => s.dmaDoorbell ag r c v) = _
  exact railed_on hw hp

theorem exec_descFetch (r c : Nat) (s : State)
    (hw : (Instr.descFetch r c).wf = true) (hp : s.powered = true) :
    exec (.descFetch r c) s = .next
      (s.descFetch r c) := by
  show railed (Instr.descFetch r c).wf s (fun s => s.descFetch r c) = _
  exact railed_on hw hp

theorem exec_descRefetch (r c : Nat) (s : State)
    (hw : (Instr.descRefetch r c).wf = true) (hp : s.powered = true) :
    exec (.descRefetch r c) s = .next
      (s.descRefetch r c) := by
  show railed (Instr.descRefetch r c).wf s (fun s => s.descRefetch r c) = _
  exact railed_on hw hp

theorem exec_copy (r c n : Nat) (s : State)
    (hw : (Instr.copy r c n).wf = true) (hp : s.powered = true) :
    exec (.copy r c n) s = .next
      (s.dmaMove r c 0 n) := by
  show railed (Instr.copy r c n).wf s (fun s => s.dmaMove r c 0 n) = _
  exact railed_on hw hp

theorem exec_fill (r c n : Nat) (s : State)
    (hw : (Instr.fill r c n).wf = true) (hp : s.powered = true) :
    exec (.fill r c n) s = .next
      (s.dmaMove r c 1 n) := by
  show railed (Instr.fill r c n).wf s (fun s => s.dmaMove r c 1 n) = _
  exact railed_on hw hp

theorem exec_compare (r c n : Nat) (s : State)
    (hw : (Instr.compare r c n).wf = true) (hp : s.powered = true) :
    exec (.compare r c n) s = .next
      (s.dmaMove r c 2 n) := by
  show railed (Instr.compare r c n).wf s (fun s => s.dmaMove r c 2 n) = _
  exact railed_on hw hp

theorem exec_copy2d (r c n : Nat) (s : State)
    (hw : (Instr.copy2d r c n).wf = true) (hp : s.powered = true) :
    exec (.copy2d r c n) s = .next
      (s.dmaMove r c 3 n) := by
  show railed (Instr.copy2d r c n).wf s (fun s => s.dmaMove r c 3 n) = _
  exact railed_on hw hp

theorem exec_descFault (r c : Nat) (s : State)
    (hw : (Instr.descFault r c).wf = true) (hp : s.powered = true) :
    exec (.descFault r c) s = .next
      (s.descFault r c) := by
  show railed (Instr.descFault r c).wf s (fun s => s.descFault r c) = _
  exact railed_on hw hp

theorem exec_descWriteback (r c : Nat) (s : State)
    (hw : (Instr.descWriteback r c).wf = true) (hp : s.powered = true) :
    exec (.descWriteback r c) s = .next
      (s.descWriteback r c) := by
  show railed (Instr.descWriteback r c).wf s (fun s => s.descWriteback r c) = _
  exact railed_on hw hp

theorem exec_ringFault (r c : Nat) (s : State)
    (hw : (Instr.ringFault r c).wf = true) (hp : s.powered = true) :
    exec (.ringFault r c) s = .next
      (s.ringFault r c) := by
  show railed (Instr.ringFault r c).wf s (fun s => s.ringFault r c) = _
  exact railed_on hw hp

theorem exec_pauseDrainEnd (r c : Nat) (s : State)
    (hw : (Instr.pauseDrainEnd r c).wf = true) (hp : s.powered = true) :
    exec (.pauseDrainEnd r c) s = .next
      (s.pauseDrainEnd r c) := by
  show railed (Instr.pauseDrainEnd r c).wf s (fun s => s.pauseDrainEnd r c) = _
  exact railed_on hw hp

theorem exec_dmaChCountClear (ag : Agent) (r c : Nat) (v : W64) (s : State)
    (hw : (Instr.dmaChCountClear ag r c v).wf = true) (hp : s.powered = true) :
    exec (.dmaChCountClear ag r c v) s = .next
      (s.countClear v (State.dmaCounters r c)) := by
  show railed (Instr.dmaChCountClear ag r c v).wf s (fun s => s.countClear v (State.dmaCounters r c)) = _
  exact railed_on hw hp

theorem exec_pegSet (ag : Agent) (p : Nat) (v : W64) (s : State)
    (hw : (Instr.pegSet ag p v).wf = true) (hp : s.powered = true) :
    exec (.pegSet ag p v) s = .next
      (s.pegSet ag p v) := by
  show railed (Instr.pegSet ag p v).wf s (fun s => s.pegSet ag p v) = _
  exact railed_on hw hp

theorem exec_pegAdd (ag : Agent) (p : Nat) (v : W64) (s : State)
    (hw : (Instr.pegAdd ag p v).wf = true) (hp : s.powered = true) :
    exec (.pegAdd ag p v) s = .next
      (s.pegAdd ag p v) := by
  show railed (Instr.pegAdd ag p v).wf s (fun s => s.pegAdd ag p v) = _
  exact railed_on hw hp

theorem exec_pegRelAdd (ag : Agent) (p : Nat) (sc : Scope) (v : W64) (s : State)
    (hw : (Instr.pegRelAdd ag p sc v).wf = true) (hp : s.powered = true) :
    exec (.pegRelAdd ag p sc v) s = .next
      (s.pegRelease ag p (scopeCode sc) v) := by
  show railed (Instr.pegRelAdd ag p sc v).wf s (fun s => s.pegRelease ag p (scopeCode sc) v) = _
  exact railed_on hw hp

theorem exec_pegAcqRead (ag : Agent) (p : Nat) (sc : Scope) (s : State)
    (hw : (Instr.pegAcqRead ag p sc).wf = true) (hp : s.powered = true) :
    exec (.pegAcqRead ag p sc) s = .next
      (s.pegAcqRead ag p (scopeCode sc)) := by
  show railed (Instr.pegAcqRead ag p sc).wf s (fun s => s.pegAcqRead ag p (scopeCode sc)) = _
  exact railed_on hw hp

theorem exec_pegCasExpect (ag : Agent) (p : Nat) (v : W64) (s : State)
    (hw : (Instr.pegCasExpect ag p v).wf = true) (hp : s.powered = true) :
    exec (.pegCasExpect ag p v) s = .next
      (s.pegCasExpect ag p v) := by
  show railed (Instr.pegCasExpect ag p v).wf s (fun s => s.pegCasExpect ag p v) = _
  exact railed_on hw hp

theorem exec_pegCas (ag : Agent) (p : Nat) (v : W64) (s : State)
    (hw : (Instr.pegCas ag p v).wf = true) (hp : s.powered = true) :
    exec (.pegCas ag p v) s = .next
      (s.pegCasAmo ag p v) := by
  show railed (Instr.pegCas ag p v).wf s (fun s => s.pegCasAmo ag p v) = _
  exact railed_on hw hp

theorem exec_pegStatusClear (ag : Agent) (p : Nat) (v : W64) (s : State)
    (hw : (Instr.pegStatusClear ag p v).wf = true) (hp : s.powered = true) :
    exec (.pegStatusClear ag p v) s = .next
      (s.pegStatusClear ag p v) := by
  show railed (Instr.pegStatusClear ag p v).wf s (fun s => s.pegStatusClear ag p v) = _
  exact railed_on hw hp

theorem exec_pegAccessFault (ag : Agent) (addr size : Nat) (write amo : Bool) (s : State)
    (hw : (Instr.pegAccessFault ag addr size write amo).wf = true) (hp : s.powered = true) :
    exec (.pegAccessFault ag addr size write amo) s = .next
      (s.pegAccessFault ag addr size write amo) := by
  show railed (Instr.pegAccessFault ag addr size write amo).wf s (fun s => s.pegAccessFault ag addr size write amo) = _
  exact railed_on hw hp

theorem exec_watchArm (ag : Agent) (v : W64) (s : State)
    (hw : (Instr.watchArm ag v).wf = true) (hp : s.powered = true) :
    exec (.watchArm ag v) s = .next
      (s.watchArm ag v) := by
  show railed (Instr.watchArm ag v).wf s (fun s => s.watchArm ag v) = _
  exact railed_on hw hp

theorem exec_watchDeliver (r : Nat) (s : State)
    (hw : (Instr.watchDeliver r).wf = true) (hp : s.powered = true) :
    exec (.watchDeliver r) s = .next
      (s.watchDeliver r) := by
  show railed (Instr.watchDeliver r).wf s (fun s => s.watchDeliver r) = _
  exact railed_on hw hp

theorem exec_watchExpire (r key : Nat) (s : State)
    (hw : (Instr.watchExpire r key).wf = true) (hp : s.powered = true) :
    exec (.watchExpire r key) s = .next
      (s.watchExpire r key) := by
  show railed (Instr.watchExpire r key).wf s (fun s => s.watchExpire r key) = _
  exact railed_on hw hp

theorem exec_watchCancel (ag : Agent) (v : W64) (s : State)
    (hw : (Instr.watchCancel ag v).wf = true) (hp : s.powered = true) :
    exec (.watchCancel ag v) s = .next
      (s.watchCancelBy ag v) := by
  show railed (Instr.watchCancel ag v).wf s (fun s => s.watchCancelBy ag v) = _
  exact railed_on hw hp

theorem exec_watchEventRead (ag : Agent) (s : State)
    (hw : (Instr.watchEventRead ag).wf = true) (hp : s.powered = true) :
    exec (.watchEventRead ag) s = .next
      (s.watchEventRead ag) := by
  show railed (Instr.watchEventRead ag).wf s (fun s => s.watchEventRead ag) = _
  exact railed_on hw hp

theorem exec_eventQueueAdmit (r : Nat) (s : State)
    (hw : (Instr.eventQueueAdmit r).wf = true) (hp : s.powered = true) :
    exec (.eventQueueAdmit r) s = .next
      (s.eventAdmit r) := by
  show railed (Instr.eventQueueAdmit r).wf s (fun s => s.eventAdmit r) = _
  exact railed_on hw hp

theorem exec_watchCountClear (ag : Agent) (r : Nat) (v : W64) (s : State)
    (hw : (Instr.watchCountClear ag r v).wf = true) (hp : s.powered = true) :
    exec (.watchCountClear ag r v) s = .next
      (s.countClear v (State.watchCounters r)) := by
  show railed (Instr.watchCountClear ag r v).wf s (fun s => s.countClear v (State.watchCounters r)) = _
  exact railed_on hw hp

theorem exec_readShared (k line : Nat) (victim : Option Nat) (s : State)
    (hw : (Instr.readShared k line victim).wf = true) (hp : s.powered = true) :
    exec (.readShared k line victim) s = .next
      ((s.coreRequest line (.readShared k) victim).settleHarts) := by
  show railed (Instr.readShared k line victim).wf s (fun s => (s.coreRequest line (.readShared k) victim).settleHarts) = _
  exact railed_on hw hp

theorem exec_readUnique (k line : Nat) (victim : Option Nat) (s : State)
    (hw : (Instr.readUnique k line victim).wf = true) (hp : s.powered = true) :
    exec (.readUnique k line victim) s = .next
      ((s.coreRequest line (.readUnique k) victim).settleHarts) := by
  show railed (Instr.readUnique k line victim).wf s (fun s => (s.coreRequest line (.readUnique k) victim).settleHarts) = _
  exact railed_on hw hp

theorem exec_upgrade (k line : Nat) (victim : Option Nat) (s : State)
    (hw : (Instr.upgrade k line victim).wf = true) (hp : s.powered = true) :
    exec (.upgrade k line victim) s = .next
      ((s.coreRequest line (.upgrade k) victim).settleHarts) := by
  show railed (Instr.upgrade k line victim).wf s (fun s => (s.coreRequest line (.upgrade k) victim).settleHarts) = _
  exact railed_on hw hp

theorem exec_writeBack (k line : Nat) (s : State)
    (hw : (Instr.writeBack k line).wf = true) (hp : s.powered = true) :
    exec (.writeBack k line) s = .next
      ((s.evict k line .modified).settleHarts) := by
  show railed (Instr.writeBack k line).wf s (fun s => (s.evict k line .modified).settleHarts) = _
  exact railed_on hw hp

theorem exec_cleanEvict (k line : Nat) (s : State)
    (hw : (Instr.cleanEvict k line).wf = true) (hp : s.powered = true) :
    exec (.cleanEvict k line) s = .next
      ((s.evict k line .exclusive).settleHarts) := by
  show railed (Instr.cleanEvict k line).wf s (fun s => (s.evict k line .exclusive).settleHarts) = _
  exact railed_on hw hp

theorem exec_engineRead (port line : Nat) (s : State)
    (hw : (Instr.engineRead port line).wf = true) (hp : s.powered = true) :
    exec (.engineRead port line) s = .next
      (s.request line (.eRead port)) := by
  show railed (Instr.engineRead port line).wf s (fun s => s.request line (.eRead port)) = _
  exact railed_on hw hp

theorem exec_engineWrite (port line : Nat) (data : List Byte) (s : State)
    (hw : (Instr.engineWrite port line data).wf = true) (hp : s.powered = true) :
    exec (.engineWrite port line data) s = .next
      (s.request line (.eWrite port (BitVec.ofNat 1024 (leNat data)))) := by
  show railed (Instr.engineWrite port line data).wf s (fun s => s.request line (.eWrite port (BitVec.ofNat 1024 (leNat data)))) = _
  exact railed_on hw hp

theorem exec_engineMaskedWrite (port line : Nat) (data : List Byte) (mask : Nat) (s : State)
    (hw : (Instr.engineMaskedWrite port line data mask).wf = true) (hp : s.powered = true) :
    exec (.engineMaskedWrite port line data mask) s = .next
      (s.request line (.eMasked port (BitVec.ofNat 1024 (leNat data)) (BitVec.ofNat 128 mask))) := by
  show railed (Instr.engineMaskedWrite port line data mask).wf s (fun s => s.request line (.eMasked port (BitVec.ofNat 1024 (leNat data)) (BitVec.ofNat 128 mask))) = _
  exact railed_on hw hp

theorem exec_engineAtomic (port line off size : Nat) (op : AtomOp) (v : W64) (s : State)
    (hw : (Instr.engineAtomic port line off size op v).wf = true) (hp : s.powered = true) :
    exec (.engineAtomic port line off size op v) s = .next
      (s.request line (.eAtomic port off size op v)) := by
  show railed (Instr.engineAtomic port line off size op v).wf s (fun s => s.request line (.eAtomic port off size op v)) = _
  exact railed_on hw hp

theorem exec_snoop (k line : Nat) (s : State)
    (hw : (Instr.snoop k line).wf = true) (hp : s.powered = true) :
    exec (.snoop k line) s = .next
      ((s.snoop k line).settleHarts) := by
  show railed (Instr.snoop k line).wf s (fun s => (s.snoop k line).settleHarts) = _
  exact railed_on hw hp

theorem exec_homeTransactionComplete (line : Nat) (s : State)
    (hw : (Instr.homeTransactionComplete line).wf = true) (hp : s.powered = true) :
    exec (.homeTransactionComplete line) s = .next
      ((s.homeComplete line).settleHarts) := by
  show railed (Instr.homeTransactionComplete line).wf s (fun s => (s.homeComplete line).settleHarts) = _
  exact railed_on hw hp

theorem exec_grant (r req : Nat) (s : State)
    (hw : (Instr.grant r req).wf = true) (hp : s.powered = true) :
    exec (.grant r req) s = .next
      ((s.grant r req).settleHarts) := by
  show railed (Instr.grant r req).wf s (fun s => (s.grant r req).settleHarts) = _
  exact railed_on hw hp

theorem exec_scrubDone (r : Nat) (s : State)
    (hw : (Instr.scrubDone r).wf = true) (hp : s.powered = true) :
    exec (.scrubDone r) s = .next
      (s.scrubDone r) := by
  show railed (Instr.scrubDone r).wf s (fun s => s.scrubDone r) = _
  exact railed_on hw hp

theorem exec_invalidationDone (r : Nat) (s : State)
    (hw : (Instr.invalidationDone r).wf = true) (hp : s.powered = true) :
    exec (.invalidationDone r) s = .next
      (s.invalidationDone r) := by
  show railed (Instr.invalidationDone r).wf s (fun s => s.invalidationDone r) = _
  exact railed_on hw hp

theorem exec_mgmtCohCountClear (ag : Agent) (r : Nat) (v : W64) (s : State)
    (hw : (Instr.mgmtCohCountClear ag r v).wf = true) (hp : s.powered = true) :
    exec (.mgmtCohCountClear ag r v) s = .next
      (s.countClear v (State.cohCounters r)) := by
  show railed (Instr.mgmtCohCountClear ag r v).wf s (fun s => s.countClear v (State.cohCounters r)) = _
  exact railed_on hw hp

theorem exec_eccUncorrectable (e : EccError) (s : State)
    (hw : (Instr.eccUncorrectable e).wf = true) (hp : s.powered = true) :
    exec (.eccUncorrectable e) s = .next
      (s.eccEvent e.addr e.place e.corrected) := by
  show railed (Instr.eccUncorrectable e).wf s (fun s => s.eccEvent e.addr e.place e.corrected) = _
  exact railed_on hw hp

theorem exec_mapOut (ag : Agent) (ch : Nat) (s : State)
    (hw : (Instr.mapOut ag ch).wf = true) (hp : s.powered = true) :
    exec (.mapOut ag ch) s = .next
      (s.chCtrlWrite ag ch 1) := by
  show railed (Instr.mapOut ag ch).wf s (fun s => s.chCtrlWrite ag ch 1) = _
  exact railed_on hw hp

theorem exec_testStart (ag : Agent) (ch : Nat) (s : State)
    (hw : (Instr.testStart ag ch).wf = true) (hp : s.powered = true) :
    exec (.testStart ag ch) s = .next
      (s.chCtrlWrite ag ch 2) := by
  show railed (Instr.testStart ag ch).wf s (fun s => s.chCtrlWrite ag ch 2) = _
  exact railed_on hw hp

theorem exec_testEnd (ag : Agent) (ch : Nat) (s : State)
    (hw : (Instr.testEnd ag ch).wf = true) (hp : s.powered = true) :
    exec (.testEnd ag ch) s = .next
      (s.chCtrlWrite ag ch 4) := by
  show railed (Instr.testEnd ag ch).wf s (fun s => s.chCtrlWrite ag ch 4) = _
  exact railed_on hw hp

theorem exec_maintSlot (r seed : Nat) (lanes : List (Nat × Nat × Nat)) (s : State)
    (hw : (Instr.maintSlot r seed lanes).wf = true) (hp : s.powered = true) :
    exec (.maintSlot r seed lanes) s = .next
      (s.maintSlot r seed lanes) := by
  show railed (Instr.maintSlot r seed lanes).wf s (fun s => s.maintSlot r seed lanes) = _
  exact railed_on hw hp

theorem exec_marginCheckDone (r : Nat) (m : Margins) (s : State)
    (hw : (Instr.marginCheckDone r m).wf = true) (hp : s.powered = true) :
    exec (.marginCheckDone r m) s = .next
      (s.marginDone r m) := by
  show railed (Instr.marginCheckDone r m).wf s (fun s => s.marginDone r m) = _
  exact railed_on hw hp

theorem exec_retrainDone (r : Nat) (m : Margins) (s : State)
    (hw : (Instr.retrainDone r m).wf = true) (hp : s.powered = true) :
    exec (.retrainDone r m) s = .next
      (s.retrainEnd r m) := by
  show railed (Instr.retrainDone r m).wf s (fun s => s.retrainEnd r m) = _
  exact railed_on hw hp

theorem exec_groupRebuild (ag : Agent) (r : Nat) (v : W64) (s : State)
    (hw : (Instr.groupRebuild ag r v).wf = true) (hp : s.powered = true) :
    exec (.groupRebuild ag r v) s = .next
      (s.groupCtrlWrite ag r v) := by
  show railed (Instr.groupRebuild ag r v).wf s (fun s => s.groupCtrlWrite ag r v) = _
  exact railed_on hw hp

theorem exec_rebuildDone (r g : Nat) (s : State)
    (hw : (Instr.rebuildDone r g).wf = true) (hp : s.powered = true) :
    exec (.rebuildDone r g) s = .next
      (s.rebuildDone r g) := by
  show railed (Instr.rebuildDone r g).wf s (fun s => s.rebuildDone r g) = _
  exact railed_on hw hp

theorem exec_tgStart (ag : Agent) (ch : Nat) (v : W64) (s : State)
    (hw : (Instr.tgStart ag ch v).wf = true) (hp : s.powered = true) :
    exec (.tgStart ag ch v) s = .next
      (s.tgWrite ag ch (v ||| 4)) := by
  show railed (Instr.tgStart ag ch v).wf s (fun s => s.tgWrite ag ch (v ||| 4)) = _
  exact railed_on hw hp

theorem exec_tgDone (ch : Nat) (errs : List Nat) (s : State)
    (hw : (Instr.tgDone ch errs).wf = true) (hp : s.powered = true) :
    exec (.tgDone ch errs) s = .next
      (s.tgEnd ch errs) := by
  show railed (Instr.tgDone ch errs).wf s (fun s => s.tgEnd ch errs) = _
  exact railed_on hw hp

theorem exec_patRead (ag : Agent) (r : Nat) (v : W64) (s : State)
    (hw : (Instr.patRead ag r v).wf = true) (hp : s.powered = true) :
    exec (.patRead ag r v) s = .next
      (s.patCmdWrite ag r (setBits v 1 0 0)) := by
  show railed (Instr.patRead ag r v).wf s (fun s => s.patCmdWrite ag r (setBits v 1 0 0)) = _
  exact railed_on hw hp

theorem exec_patWrite (ag : Agent) (r : Nat) (v : W64) (s : State)
    (hw : (Instr.patWrite ag r v).wf = true) (hp : s.powered = true) :
    exec (.patWrite ag r v) s = .next
      (s.patCmdWrite ag r (setBits v 1 0 1)) := by
  show railed (Instr.patWrite ag r v).wf s (fun s => s.patCmdWrite ag r (setBits v 1 0 1)) = _
  exact railed_on hw hp

theorem exec_setCopyValid (ag : Agent) (r : Nat) (v : W64) (s : State)
    (hw : (Instr.setCopyValid ag r v).wf = true) (hp : s.powered = true) :
    exec (.setCopyValid ag r v) s = .next
      (s.patCmdWrite ag r (setBits v 1 0 2)) := by
  show railed (Instr.setCopyValid ag r v).wf s (fun s => s.patCmdWrite ag r (setBits v 1 0 2)) = _
  exact railed_on hw hp

theorem exec_clearCopyValid (ag : Agent) (r : Nat) (v : W64) (s : State)
    (hw : (Instr.clearCopyValid ag r v).wf = true) (hp : s.powered = true) :
    exec (.clearCopyValid ag r v) s = .next
      (s.patCmdWrite ag r (setBits v 1 0 3)) := by
  show railed (Instr.clearCopyValid ag r v).wf s (fun s => s.patCmdWrite ag r (setBits v 1 0 3)) = _
  exact railed_on hw hp

theorem exec_patCmdDone (r : Nat) (s : State)
    (hw : (Instr.patCmdDone r).wf = true) (hp : s.powered = true) :
    exec (.patCmdDone r) s = .next
      (s.patDone r) := by
  show railed (Instr.patCmdDone r).wf s (fun s => s.patDone r) = _
  exact railed_on hw hp

theorem exec_mgmtRegCfgWrite (ag : Agent) (r q p : Nat) (v : W64) (s : State)
    (hw : (Instr.mgmtRegCfgWrite ag r q p v).wf = true) (hp : s.powered = true) :
    exec (.mgmtRegCfgWrite ag r q p v) s = .next
      (s.regCfgWrite ag r q p v) := by
  show railed (Instr.mgmtRegCfgWrite ag r q p v).wf s (fun s => s.regCfgWrite ag r q p v) = _
  exact railed_on hw hp

theorem exec_tokenRefill (r : Nat) (s : State)
    (hw : (Instr.tokenRefill r).wf = true) (hp : s.powered = true) :
    exec (.tokenRefill r) s = .next
      (s.tokenRefill r) := by
  show railed (Instr.tokenRefill r).wf s (fun s => s.tokenRefill r) = _
  exact railed_on hw hp

theorem exec_mgmtMemCountClear (ag : Agent) (r : Nat) (v : W64) (s : State)
    (hw : (Instr.mgmtMemCountClear ag r v).wf = true) (hp : s.powered = true) :
    exec (.mgmtMemCountClear ag r v) s = .next
      (s.countClear v (State.memCounters r)) := by
  show railed (Instr.mgmtMemCountClear ag r v).wf s (fun s => s.countClear v (State.memCounters r)) = _
  exact railed_on hw hp

theorem exec_portEnable (ag : Agent) (k : Nat) (s : State)
    (hw : (Instr.portEnable ag k).wf = true) (hp : s.powered = true) :
    exec (.portEnable ag k) s = .next
      (if (s.port k).enabled then s else s.portEnable k) := by
  show railed (Instr.portEnable ag k).wf s (fun s => if (s.port k).enabled then s else s.portEnable k) = _
  exact railed_on hw hp

theorem exec_portDisable (ag : Agent) (k : Nat) (s : State)
    (hw : (Instr.portDisable ag k).wf = true) (hp : s.powered = true) :
    exec (.portDisable ag k) s = .next
      (if (s.port k).enabled then s.noted (s.portDisable k) else s) := by
  show railed (Instr.portDisable ag k).wf s (fun s => if (s.port k).enabled then s.noted (s.portDisable k) else s) = _
  exact railed_on hw hp

theorem exec_retrain (ag : Agent) (k : Nat) (s : State)
    (hw : (Instr.retrain ag k).wf = true) (hp : s.powered = true) :
    exec (.retrain ag k) s = .next
      (s.noted (s.retrainPort ag k)) := by
  show railed (Instr.retrain ag k).wf s (fun s => s.noted (s.retrainPort ag k)) = _
  exact railed_on hw hp

theorem exec_trainingAttemptEnd (k txGood rxGood : Nat) (reversed : Bool) (inverted : Nat) (peer : Option (Nat × Nat)) (missing : Nat) (s : State)
    (hw : (Instr.trainingAttemptEnd k txGood rxGood reversed inverted peer missing).wf = true) (hp : s.powered = true) :
    exec (.trainingAttemptEnd k txGood rxGood reversed inverted peer missing) s = .next
      (s.attemptEnd k txGood rxGood reversed inverted peer missing) := by
  show railed (Instr.trainingAttemptEnd k txGood rxGood reversed inverted peer missing).wf s (fun s => s.attemptEnd k txGood rxGood reversed inverted peer missing) = _
  exact railed_on hw hp

theorem exec_flitReceive (k : Nat) (f : Flit) (s : State)
    (hw : (Instr.flitReceive k f).wf = true) (hp : s.powered = true) :
    exec (.flitReceive k f) s = .next
      (s.noted (s.flitReceive k f)) := by
  show railed (Instr.flitReceive k f).wf s (fun s => s.noted (s.flitReceive k f)) = _
  exact railed_on hw hp

theorem exec_retryReq (k seq : Nat) (s : State)
    (hw : (Instr.retryReq k seq).wf = true) (hp : s.powered = true) :
    exec (.retryReq k seq) s = .next
      (s.noted (s.retryAsked k seq)) := by
  show railed (Instr.retryReq k seq).wf s (fun s => s.noted (s.retryAsked k seq)) = _
  exact railed_on hw hp

theorem exec_retryReqRepeat (k : Nat) (s : State)
    (hw : (Instr.retryReqRepeat k).wf = true) (hp : s.powered = true) :
    exec (.retryReqRepeat k) s = .next
      (s.noted (s.retryRepeat k)) := by
  show railed (Instr.retryReqRepeat k).wf s (fun s => s.noted (s.retryRepeat k)) = _
  exact railed_on hw hp

theorem exec_linkFailure (k : Nat) (s : State)
    (hw : (Instr.linkFailure k).wf = true) (hp : s.powered = true) :
    exec (.linkFailure k) s = .next
      (s.noted (s.linkFailure k)) := by
  show railed (Instr.linkFailure k).wf s (fun s => s.noted (s.linkFailure k)) = _
  exact railed_on hw hp

theorem exec_hello (k : Nat) (h : Hello) (s : State)
    (hw : (Instr.hello k h).wf = true) (hp : s.powered = true) :
    exec (.hello k h) s = .next
      (s.noted (s.helloReceive k h)) := by
  show railed (Instr.hello k h).wf s (fun s => s.noted (s.helloReceive k h)) = _
  exact railed_on hw hp

theorem exec_elect (k : Nat) (key : LeaderKey) (hops : Nat) (s : State)
    (hw : (Instr.elect k key hops).wf = true) (hp : s.powered = true) :
    exec (.elect k key hops) s = .next
      (s.noted (s.learnKey k key hops)) := by
  show railed (Instr.elect k key hops).wf s (fun s => s.noted (s.learnKey k key hops)) = _
  exact railed_on hw hp

theorem exec_reportTimer (s : State)
    (hw : (Instr.reportTimer).wf = true) (hp : s.powered = true) :
    exec (.reportTimer) s = .next
      (s.reportTimer) := by
  show railed (Instr.reportTimer).wf s (fun s => s.reportTimer) = _
  exact railed_on hw hp

theorem exec_report (k : Nat) (rep : Report) (s : State)
    (hw : (Instr.report k rep).wf = true) (hp : s.powered = true) :
    exec (.report k rep) s = .next
      (s.reportReceive k rep) := by
  show railed (Instr.report k rep).wf s (fun s => s.reportReceive k rep) = _
  exact railed_on hw hp

theorem exec_fabricSettle (s : State)
    (hw : (Instr.fabricSettle).wf = true) (hp : s.powered = true) :
    exec (.fabricSettle) s = .next
      (s.noted s.fabricSettle) := by
  show railed (Instr.fabricSettle).wf s (fun s => s.noted s.fabricSettle) = _
  exact railed_on hw hp

theorem exec_map (k : Nat) (m : MapSegment) (s : State)
    (hw : (Instr.map k m).wf = true) (hp : s.powered = true) :
    exec (.map k m) s = .next
      (s.noted (s.mapReceive m)) := by
  show railed (Instr.map k m).wf s (fun s => s.noted (s.mapReceive m)) = _
  exact railed_on hw hp

theorem exec_beat (k : Nat) (m : Beat) (s : State)
    (hw : (Instr.beat k m).wf = true) (hp : s.powered = true) :
    exec (.beat k m) s = .next
      (s.beatReceive m) := by
  show railed (Instr.beat k m).wf s (fun s => s.beatReceive m) = _
  exact railed_on hw hp

theorem exec_beatSend (s : State)
    (hw : (Instr.beatSend).wf = true) (hp : s.powered = true) :
    exec (.beatSend) s = .next
      (s.beatSend) := by
  show railed (Instr.beatSend).wf s (fun s => s.beatSend) = _
  exact railed_on hw hp

theorem exec_leaderLost (s : State)
    (hw : (Instr.leaderLost).wf = true) (hp : s.powered = true) :
    exec (.leaderLost) s = .next
      (s.noted s.leaderLost) := by
  show railed (Instr.leaderLost).wf s (fun s => s.noted s.leaderLost) = _
  exact railed_on hw hp

theorem exec_join (k : Nat) (rep : Report) (s : State)
    (hw : (Instr.join k rep).wf = true) (hp : s.powered = true) :
    exec (.join k rep) s = .next
      (s.noted (s.joinReceive k rep)) := by
  show railed (Instr.join k rep).wf s (fun s => s.noted (s.joinReceive k rep)) = _
  exact railed_on hw hp

theorem exec_portEvent (serial port oldState newState : Nat) (s : State)
    (hw : (Instr.portEvent serial port oldState newState).wf = true) (hp : s.powered = true) :
    exec (.portEvent serial port oldState newState) s = .next
      (s.noted (s.portEventReceive serial port oldState newState)) := by
  show railed (Instr.portEvent serial port oldState newState).wf s (fun s => s.noted (s.portEventReceive serial port oldState newState)) = _
  exact railed_on hw hp

theorem exec_portDownTimeout (k : Nat) (s : State)
    (hw : (Instr.portDownTimeout k).wf = true) (hp : s.powered = true) :
    exec (.portDownTimeout k) s = .next
      (s.noted (s.portDownTimeout k)) := by
  show railed (Instr.portDownTimeout k).wf s (fun s => s.noted (s.portDownTimeout k)) = _
  exact railed_on hw hp

theorem exec_routeSwitch (s : State)
    (hw : (Instr.routeSwitch).wf = true) (hp : s.powered = true) :
    exec (.routeSwitch) s = .next
      (s.noted s.routeSwitchHere) := by
  show railed (Instr.routeSwitch).wf s (fun s => s.noted s.routeSwitchHere) = _
  exact railed_on hw hp

theorem exec_fabricPacketArrive (k : Nat) (p : Packet) (s : State)
    (hw : (Instr.fabricPacketArrive k p).wf = true) (hp : s.powered = true) :
    exec (.fabricPacketArrive k p) s = .next
      (s.packetArrive k p) := by
  show railed (Instr.fabricPacketArrive k p).wf s (fun s => s.packetArrive k p) = _
  exact railed_on hw hp

theorem exec_fabricRead (p : Packet) (s : State)
    (hw : (Instr.fabricRead p).wf = true) (hp : s.powered = true) :
    exec (.fabricRead p) s = .next
      (s.fabricRead p) := by
  show railed (Instr.fabricRead p).wf s (fun s => s.fabricRead p) = _
  exact railed_on hw hp

theorem exec_fabricWrite (p : Packet) (s : State)
    (hw : (Instr.fabricWrite p).wf = true) (hp : s.powered = true) :
    exec (.fabricWrite p) s = .next
      (s.fabricWrite p) := by
  show railed (Instr.fabricWrite p).wf s (fun s => s.fabricWrite p) = _
  exact railed_on hw hp

theorem exec_maskedWrite (p : Packet) (s : State)
    (hw : (Instr.maskedWrite p).wf = true) (hp : s.powered = true) :
    exec (.maskedWrite p) s = .next
      (s.fabricMasked p) := by
  show railed (Instr.maskedWrite p).wf s (fun s => s.fabricMasked p) = _
  exact railed_on hw hp

theorem exec_atomic (p : Packet) (s : State)
    (hw : (Instr.atomic p).wf = true) (hp : s.powered = true) :
    exec (.atomic p) s = .next
      (s.fabricAtomic p) := by
  show railed (Instr.atomic p).wf s (fun s => s.fabricAtomic p) = _
  exact railed_on hw hp

theorem exec_pegOp (p : Packet) (s : State)
    (hw : (Instr.pegOp p).wf = true) (hp : s.powered = true) :
    exec (.pegOp p) s = .next
      (s.fabricPegOp p) := by
  show railed (Instr.pegOp p).wf s (fun s => s.fabricPegOp p) = _
  exact railed_on hw hp

theorem exec_readData (tag : ReqTag) (status : Nat) (data : List Byte) (s : State)
    (hw : (Instr.readData tag status data).wf = true) (hp : s.powered = true) :
    exec (.readData tag status data) s = .next
      (s.fabricAnswer tag status data false) := by
  show railed (Instr.readData tag status data).wf s (fun s => s.fabricAnswer tag status data false) = _
  exact railed_on hw hp

theorem exec_writeAck (tag : ReqTag) (status : Nat) (s : State)
    (hw : (Instr.writeAck tag status).wf = true) (hp : s.powered = true) :
    exec (.writeAck tag status) s = .next
      (s.fabricAnswer tag status [] true) := by
  show railed (Instr.writeAck tag status).wf s (fun s => s.fabricAnswer tag status [] true) = _
  exact railed_on hw hp

theorem exec_atomicData (tag : ReqTag) (status : Nat) (v : W64) (s : State)
    (hw : (Instr.atomicData tag status v).wf = true) (hp : s.powered = true) :
    exec (.atomicData tag status v) s = .next
      (s.fabricAnswer tag status (leBytes 8 v.toNat) false) := by
  show railed (Instr.atomicData tag status v).wf s (fun s => s.fabricAnswer tag status (leBytes 8 v.toNat) false) = _
  exact railed_on hw hp

theorem exec_routeLoad (ag : Agent) (v : W64) (s : State)
    (hw : (Instr.routeLoad ag v).wf = true) (hp : s.powered = true) :
    exec (.routeLoad ag v) s = .next
      (s.routeCtrlWrite ag (v ||| fld 1 17)) := by
  show railed (Instr.routeLoad ag v).wf s (fun s => s.routeCtrlWrite ag (v ||| fld 1 17)) = _
  exact railed_on hw hp

theorem exec_fabPortCountClear (ag : Agent) (k : Nat) (v : W64) (s : State)
    (hw : (Instr.fabPortCountClear ag k v).wf = true) (hp : s.powered = true) :
    exec (.fabPortCountClear ag k v) s = .next
      (s.countClear v (State.portCounters k)) := by
  show railed (Instr.fabPortCountClear ag k v).wf s (fun s => s.countClear v (State.portCounters k)) = _
  exact railed_on hw hp

theorem exec_timeReqSend (k t1 : Nat) (s : State)
    (hw : (Instr.timeReqSend k t1).wf = true) (hp : s.powered = true) :
    exec (.timeReqSend k t1) s = .next
      (s.timeReqSend k t1) := by
  show railed (Instr.timeReqSend k t1).wf s (fun s => s.timeReqSend k t1) = _
  exact railed_on hw hp

theorem exec_timeReq (k : Nat) (p : TimePkt) (t2 t3 : Nat) (s : State)
    (hw : (Instr.timeReq k p t2 t3).wf = true) (hp : s.powered = true) :
    exec (.timeReq k p t2 t3) s = .next
      (s.timeReqReceive k p t2 t3) := by
  show railed (Instr.timeReq k p t2 t3).wf s (fun s => s.timeReqReceive k p t2 t3) = _
  exact railed_on hw hp

theorem exec_timeResp (k : Nat) (p : TimePkt) (t4 : Nat) (s : State)
    (hw : (Instr.timeResp k p t4).wf = true) (hp : s.powered = true) :
    exec (.timeResp k p t4) s = .next
      (s.timeRespReceive k p t4) := by
  show railed (Instr.timeResp k p t4).wf s (fun s => s.timeRespReceive k p t4) = _
  exact railed_on hw hp

theorem exec_timeRespLost (k : Nat) (s : State)
    (hw : (Instr.timeRespLost k).wf = true) (hp : s.powered = true) :
    exec (.timeRespLost k) s = .next
      (s.timeRespLost k) := by
  show railed (Instr.timeRespLost k).wf s (fun s => s.timeRespLost k) = _
  exact railed_on hw hp

theorem exec_epochAdopt (count : Nat) (m : MarkInput) (s : State)
    (hw : (Instr.epochAdopt count m).wf = true) (hp : s.powered = true) :
    exec (.epochAdopt count m) s = .next
      (s.noted (s.epochAdopt count m)) := by
  show railed (Instr.epochAdopt count m).wf s (fun s => s.noted (s.epochAdopt count m)) = _
  exact railed_on hw hp

theorem exec_strumLoad (ag : Agent) (r c : Nat) (s : State)
    (hw : (Instr.strumLoad ag r c).wf = true) (hp : s.powered = true) :
    exec (.strumLoad ag r c) s = .next
      (s.strumLoad ag r c) := by
  show railed (Instr.strumLoad ag r c).wf s (fun s => s.strumLoad ag r c) = _
  exact railed_on hw hp

theorem exec_strumLoadDone (r c : Nat) (s : State)
    (hw : (Instr.strumLoadDone r c).wf = true) (hp : s.powered = true) :
    exec (.strumLoadDone r c) s = .next
      (s.strumLoadDone r c) := by
  show railed (Instr.strumLoadDone r c).wf s (fun s => s.strumLoadDone r c) = _
  exact railed_on hw hp

theorem exec_strumStart (ag : Agent) (r c : Nat) (s : State)
    (hw : (Instr.strumStart ag r c).wf = true) (hp : s.powered = true) :
    exec (.strumStart ag r c) s = .next
      (s.strumStart ag r c) := by
  show railed (Instr.strumStart ag r c).wf s (fun s => s.strumStart ag r c) = _
  exact railed_on hw hp

theorem exec_strumAbort (ag : Agent) (r c : Nat) (s : State)
    (hw : (Instr.strumAbort ag r c).wf = true) (hp : s.powered = true) :
    exec (.strumAbort ag r c) s = .next
      (s.strumAbort ag r c) := by
  show railed (Instr.strumAbort ag r c).wf s (fun s => s.strumAbort ag r c) = _
  exact railed_on hw hp

theorem exec_strumUnload (ag : Agent) (r c : Nat) (s : State)
    (hw : (Instr.strumUnload ag r c).wf = true) (hp : s.powered = true) :
    exec (.strumUnload ag r c) s = .next
      (s.strumUnload ag r c) := by
  show railed (Instr.strumUnload ag r c).wf s (fun s => s.strumUnload ag r c) = _
  exact railed_on hw hp

theorem exec_slotStart (slot : Nat) (s : State)
    (hw : (Instr.slotStart slot).wf = true) (hp : s.powered = true) :
    exec (.slotStart slot) s = .next
      (s.slotStart slot) := by
  show railed (Instr.slotStart slot).wf s (fun s => s.slotStart slot) = _
  exact railed_on hw hp

theorem exec_schedFlit (k : Nat) (f : SchedFlit) (s : State)
    (hw : (Instr.schedFlit k f).wf = true) (hp : s.powered = true) :
    exec (.schedFlit k f) s = .next
      (s.schedFlit k f) := by
  show railed (Instr.schedFlit k f).wf s (fun s => s.schedFlit k f) = _
  exact railed_on hw hp

theorem exec_strumRunEnd (r c : Nat) (s : State)
    (hw : (Instr.strumRunEnd r c).wf = true) (hp : s.powered = true) :
    exec (.strumRunEnd r c) s = .next
      (s.strumRunEnd r c) := by
  show railed (Instr.strumRunEnd r c).wf s (fun s => s.strumRunEnd r c) = _
  exact railed_on hw hp

theorem exec_peerSilent (r c entry : Nat) (s : State)
    (hw : (Instr.peerSilent r c entry).wf = true) (hp : s.powered = true) :
    exec (.peerSilent r c entry) s = .next
      (s.peerSilent r c entry) := by
  show railed (Instr.peerSilent r c entry).wf s (fun s => s.peerSilent r c entry) = _
  exact railed_on hw hp

theorem exec_fabCollAbort (ag : Agent) (v : W64) (s : State)
    (hw : (Instr.fabCollAbort ag v).wf = true) (hp : s.powered = true) :
    exec (.fabCollAbort ag v) s = .next
      (s.collNotice v) := by
  show railed (Instr.fabCollAbort ag v).wf s (fun s => s.collNotice v) = _
  exact railed_on hw hp

theorem exec_fabCollCountClear (ag : Agent) (r : Nat) (v : W64) (s : State)
    (hw : (Instr.fabCollCountClear ag r v).wf = true) (hp : s.powered = true) :
    exec (.fabCollCountClear ag r v) s = .next
      (s.countClear v (State.collCounters r)) := by
  show railed (Instr.fabCollCountClear ag r v).wf s (fun s => s.countClear v (State.collCounters r)) = _
  exact railed_on hw hp

theorem exec_hostLinkUp (r : Nat) (l : HostLink) (s : State)
    (hw : (Instr.hostLinkUp r l).wf = true) (hp : s.powered = true) :
    exec (.hostLinkUp r l) s = .next
      (s.hostLinkUp r l) := by
  show railed (Instr.hostLinkUp r l).wf s (fun s => s.hostLinkUp r l) = _
  exact railed_on hw hp

theorem exec_hostLinkDown (r k : Nat) (s : State)
    (hw : (Instr.hostLinkDown r k).wf = true) (hp : s.powered = true) :
    exec (.hostLinkDown r k) s = .next
      (if (s.hostPort r).endpoint then s.noted (s.hostLoss r .linkDown State.closeOwner) else s.rootLinkDown r k) := by
  show railed (Instr.hostLinkDown r k).wf s (fun s => if (s.hostPort r).endpoint then s.noted (s.hostLoss r .linkDown State.closeOwner) else s.rootLinkDown r k) = _
  exact railed_on hw hp

theorem exec_hostLoss (r : Nat) (cause : LossCause) (s : State)
    (hw : (Instr.hostLoss r cause).wf = true) (hp : s.powered = true) :
    exec (.hostLoss r cause) s = .next
      (s.noted (s.hostLoss r cause State.closeOwner)) := by
  show railed (Instr.hostLoss r cause).wf s (fun s => s.noted (s.hostLoss r cause State.closeOwner)) = _
  exact railed_on hw hp

theorem exec_hostLossDone (r : Nat) (linkInL0 : Bool) (s : State)
    (hw : (Instr.hostLossDone r linkInL0).wf = true) (hp : s.powered = true) :
    exec (.hostLossDone r linkInL0) s = .next
      (s.hostLossDone r linkInL0) := by
  show railed (Instr.hostLossDone r linkInL0).wf s (fun s => s.hostLossDone r linkInL0) = _
  exact railed_on hw hp

theorem exec_memorySpaceEnableSet (r : Nat) (s : State)
    (hw : (Instr.memorySpaceEnableSet r).wf = true) (hp : s.powered = true) :
    exec (.memorySpaceEnableSet r) s = .next
      (s.memEnableSet r) := by
  show railed (Instr.memorySpaceEnableSet r).wf s (fun s => s.memEnableSet r) = _
  exact railed_on hw hp

theorem exec_memorySpaceEnableClear (r : Nat) (s : State)
    (hw : (Instr.memorySpaceEnableClear r).wf = true) (hp : s.powered = true) :
    exec (.memorySpaceEnableClear r) s = .next
      (s.memEnableClear r) := by
  show railed (Instr.memorySpaceEnableClear r).wf s (fun s => s.memEnableClear r) = _
  exact railed_on hw hp

theorem exec_hostBar0Access (r f off size : Nat) (write : Option W64) (s : State)
    (hw : (Instr.hostBar0Access r f off size write).wf = true) (hp : s.powered = true) :
    exec (.hostBar0Access r f off size write) s = .next
      (s.arrive (.hostBar0Access r f off size write)) := by
  show railed (Instr.hostBar0Access r f off size write).wf s (fun s => s.arrive (.hostBar0Access r f off size write)) = _
  exact railed_on hw hp

theorem exec_hostPegAtomic (r f off size : Nat) (op : AtomOp) (v : W64) (s : State)
    (hw : (Instr.hostPegAtomic r f off size op v).wf = true) (hp : s.powered = true) :
    exec (.hostPegAtomic r f off size op v) s = .next
      (s.arrive (.hostPegAtomic r f off size op v)) := by
  show railed (Instr.hostPegAtomic r f off size op v).wf s (fun s => s.arrive (.hostPegAtomic r f off size op v)) = _
  exact railed_on hw hp

theorem exec_hostBar2Read (r f off n : Nat) (s : State)
    (hw : (Instr.hostBar2Read r f off n).wf = true) (hp : s.powered = true) :
    exec (.hostBar2Read r f off n) s = .next
      (s.arrive (.hostBar2Read r f off n)) := by
  show railed (Instr.hostBar2Read r f off n).wf s (fun s => s.arrive (.hostBar2Read r f off n)) = _
  exact railed_on hw hp

theorem exec_hostBar2Write (r f off : Nat) (data : List Byte) (attr : TlpAttr) (s : State)
    (hw : (Instr.hostBar2Write r f off data attr).wf = true) (hp : s.powered = true) :
    exec (.hostBar2Write r f off data attr) s = .next
      (s.arrive (.hostBar2Write r f off data attr)) := by
  show railed (Instr.hostBar2Write r f off data attr).wf s (fun s => s.arrive (.hostBar2Write r f off data attr)) = _
  exact railed_on hw hp

theorem exec_hostBar2Atomic (r f off size : Nat) (op : AtomOp) (v : W64) (s : State)
    (hw : (Instr.hostBar2Atomic r f off size op v).wf = true) (hp : s.powered = true) :
    exec (.hostBar2Atomic r f off size op v) s = .next
      (s.arrive (.hostBar2Atomic r f off size op v)) := by
  show railed (Instr.hostBar2Atomic r f off size op v).wf s (fun s => s.arrive (.hostBar2Atomic r f off size op v)) = _
  exact railed_on hw hp

theorem exec_hostFnBar2SlideWrite (r f : Nat) (v : W64) (s : State)
    (hw : (Instr.hostFnBar2SlideWrite r f v).wf = true) (hp : s.powered = true) :
    exec (.hostFnBar2SlideWrite r f v) s = .next
      (s.arrive (.hostFnBar2SlideWrite r f v)) := by
  show railed (Instr.hostFnBar2SlideWrite r f v).wf s (fun s => s.arrive (.hostFnBar2SlideWrite r f v)) = _
  exact railed_on hw hp

theorem exec_hostOwnershipWrite (ag : Agent) (r f word : Nat) (v : W64) (s : State)
    (hw : (Instr.hostOwnershipWrite ag r f word v).wf = true) (hp : s.powered = true) :
    exec (.hostOwnershipWrite ag r f word v) s = .next
      (s.ownershipWrite ag r f word v) := by
  show railed (Instr.hostOwnershipWrite ag r f word v).wf s (fun s => s.ownershipWrite ag r f word v) = _
  exact railed_on hw hp

theorem exec_rootPortLinkDown (r k : Nat) (s : State)
    (hw : (Instr.rootPortLinkDown r k).wf = true) (hp : s.powered = true) :
    exec (.rootPortLinkDown r k) s = .next
      (s.rootLinkDown r k) := by
  show railed (Instr.rootPortLinkDown r k).wf s (fun s => s.rootLinkDown r k) = _
  exact railed_on hw hp

theorem exec_hostRpCtrlEnable (ag : Agent) (r k : Nat) (v : W64) (s : State)
    (hw : (Instr.hostRpCtrlEnable ag r k v).wf = true) (hp : s.powered = true) :
    exec (.hostRpCtrlEnable ag r k v) s = .next
      (s.rpEnable r k v) := by
  show railed (Instr.hostRpCtrlEnable ag r k v).wf s (fun s => s.rpEnable r k v) = _
  exact railed_on hw hp

theorem exec_deviceAerError (r k reqId : Nat) (s : State)
    (hw : (Instr.deviceAerError r k reqId).wf = true) (hp : s.powered = true) :
    exec (.deviceAerError r k reqId) s = .next
      (s.aerError r k reqId) := by
  show railed (Instr.deviceAerError r k reqId).wf s (fun s => s.aerError r k reqId) = _
  exact railed_on hw hp

theorem exec_deviceInboundRequest (r k reqId pasid addr : Nat) (storage : Bool) (n : Nat) (write : Option DeviceWrite) (s : State)
    (hw : (Instr.deviceInboundRequest r k reqId pasid addr storage n write).wf = true) (hp : s.powered = true) :
    exec (.deviceInboundRequest r k reqId pasid addr storage n write) s = .next
      (s.arrive (.deviceInboundRequest r k reqId pasid addr storage n write)) := by
  show railed (Instr.deviceInboundRequest r k reqId pasid addr storage n write).wf s (fun s => s.arrive (.deviceInboundRequest r k reqId pasid addr storage n write)) = _
  exact railed_on hw hp

theorem exec_tagOpen (ag : Agent) (r : Nat) (s : State)
    (hw : (Instr.tagOpen ag r).wf = true) (hp : s.powered = true) :
    exec (.tagOpen ag r) s = .next
      (s.tagOpen r) := by
  show railed (Instr.tagOpen ag r).wf s (fun s => s.tagOpen r) = _
  exact railed_on hw hp

theorem exec_tagClose (ag : Agent) (r : Nat) (s : State)
    (hw : (Instr.tagClose ag r).wf = true) (hp : s.powered = true) :
    exec (.tagClose ag r) s = .next
      (s.tagClose r) := by
  show railed (Instr.tagClose ag r).wf s (fun s => s.tagClose r) = _
  exact railed_on hw hp

theorem exec_tagQuery (ag : Agent) (r : Nat) (s : State)
    (hw : (Instr.tagQuery ag r).wf = true) (hp : s.powered = true) :
    exec (.tagQuery ag r) s = .next
      (s.tagQuery r) := by
  show railed (Instr.tagQuery ag r).wf s (fun s => s.tagQuery r) = _
  exact railed_on hw hp

theorem exec_tagBackup (s : State)
    (hw : (Instr.tagBackup).wf = true) (hp : s.powered = true) :
    exec (.tagBackup) s = .next
      (s.tagBackup) := by
  show railed (Instr.tagBackup).wf s (fun s => s.tagBackup) = _
  exact railed_on hw hp

theorem exec_intervalClose (s : State)
    (hw : (Instr.intervalClose).wf = true) (hp : s.powered = true) :
    exec (.intervalClose) s = .next
      (s.intervalClose) := by
  show railed (Instr.intervalClose).wf s (fun s => s.intervalClose) = _
  exact railed_on hw hp

theorem exec_signToken (s : State)
    (hw : (Instr.signToken).wf = true) :
    exec (.signToken) s = .next
      (s.signToken) := by
  show checked (Instr.signToken).wf s (fun s => s.signToken) = _
  exact checked_on hw

theorem exec_signDone (s : State)
    (hw : (Instr.signDone).wf = true) :
    exec (.signDone) s = .next
      (s.signDone) := by
  show checked (Instr.signDone).wf s (fun s => s.signDone) = _
  exact checked_on hw

theorem exec_ledgerAppend (s : State)
    (hw : (Instr.ledgerAppend).wf = true) :
    exec (.ledgerAppend) s = .next
      (s.ledgerAppend) := by
  show checked (Instr.ledgerAppend).wf s (fun s => s.ledgerAppend) = _
  exact checked_on hw

theorem exec_pageProgram (s : State)
    (hw : (Instr.pageProgram).wf = true) :
    exec (.pageProgram) s = .next
      (s.pageProgram) := by
  show checked (Instr.pageProgram).wf s (fun s => s.pageProgram) = _
  exact checked_on hw

theorem exec_kilnRingHeadWrite (ag : Agent) (r : Nat) (v : W64) (s : State)
    (hw : (Instr.kilnRingHeadWrite ag r v).wf = true) (hp : s.powered = true) :
    exec (.kilnRingHeadWrite ag r v) s = .next
      (s.ringHeadWrite ag r v) := by
  show railed (Instr.kilnRingHeadWrite ag r v).wf s (fun s => s.ringHeadWrite ag r v) = _
  exact railed_on hw hp

theorem exec_kilnAckSeqWrite (ag : Agent) (r : Nat) (v : W64) (s : State)
    (hw : (Instr.kilnAckSeqWrite ag r v).wf = true) (hp : s.powered = true) :
    exec (.kilnAckSeqWrite ag r v) s = .next
      (s.ackSeqWrite ag r v) := by
  show railed (Instr.kilnAckSeqWrite ag r v).wf s (fun s => s.ackSeqWrite ag r v) = _
  exact railed_on hw hp

theorem exec_ledgerCompact (upTo : Nat) (s : State)
    (hw : (Instr.ledgerCompact upTo).wf = true) :
    exec (.ledgerCompact upTo) s = .next
      (s.ledgerCompact upTo) := by
  show checked (Instr.ledgerCompact upTo).wf s (fun s => s.ledgerCompact upTo) = _
  exact checked_on hw

theorem exec_kilnCountClear (ag : Agent) (r : Nat) (v : W64) (s : State)
    (hw : (Instr.kilnCountClear ag r v).wf = true) (hp : s.powered = true) :
    exec (.kilnCountClear ag r v) s = .next
      (s.countClear v (State.kilnCounters r)) := by
  show railed (Instr.kilnCountClear ag r v).wf s (fun s => s.countClear v (State.kilnCounters r)) = _
  exact railed_on hw hp

theorem exec_inputLoss (s : State)
    (hw : (Instr.inputLoss).wf = true) :
    exec (.inputLoss) s = .next
      (s.inputLoss) := by
  show checked (Instr.inputLoss).wf s (fun s => s.inputLoss) = _
  exact checked_on hw

theorem exec_inputLow (volts : Nat) (s : State)
    (hw : (Instr.inputLow volts).wf = true) :
    exec (.inputLow volts) s = .next
      (s.inputLow volts) := by
  show checked (Instr.inputLow volts).wf s (fun s => s.inputLow volts) = _
  exact checked_on hw

theorem exec_inputOvervoltage (s : State)
    (hw : (Instr.inputOvervoltage).wf = true) :
    exec (.inputOvervoltage) s = .next
      (s.inputOvervoltage) := by
  show checked (Instr.inputOvervoltage).wf s (fun s => s.inputOvervoltage) = _
  exact checked_on hw

theorem exec_inputOvercurrent (s : State)
    (hw : (Instr.inputOvercurrent).wf = true) :
    exec (.inputOvercurrent) s = .next
      (s.inputOvercurrent) := by
  show checked (Instr.inputOvercurrent).wf s (fun s => s.inputOvercurrent) = _
  exact checked_on hw

theorem exec_railFault (r rail cause : Nat) (s : State)
    (hw : (Instr.railFault r rail cause).wf = true) (hp : s.powered = true) :
    exec (.railFault r rail cause) s = .next
      (s.noted (s.railFault r rail cause)) := by
  show railed (Instr.railFault r rail cause).wf s (fun s => s.noted (s.railFault r rail cause)) = _
  exact railed_on hw hp

theorem exec_pwrModuleLimitWrite (ag : Agent) (r : Nat) (v : W64) (s : State)
    (hw : (Instr.pwrModuleLimitWrite ag r v).wf = true) (hp : s.powered = true) :
    exec (.pwrModuleLimitWrite ag r v) s = .next
      (s.moduleLimitWrite ag r v) := by
  show railed (Instr.pwrModuleLimitWrite ag r v).wf s (fun s => s.moduleLimitWrite ag r v) = _
  exact railed_on hw hp

theorem exec_pwrDomainWrite (ag : Agent) (r d : Nat) (v : W64) (s : State)
    (hw : (Instr.pwrDomainWrite ag r d v).wf = true) (hp : s.powered = true) :
    exec (.pwrDomainWrite ag r d v) s = .next
      (s.domainWrite ag r d v) := by
  show railed (Instr.pwrDomainWrite ag r d v).wf s (fun s => s.domainWrite ag r d v) = _
  exact railed_on hw hp

theorem exec_budgetMessage (r p f d : Nat) (s : State)
    (hw : (Instr.budgetMessage r p f d).wf = true) (hp : s.powered = true) :
    exec (.budgetMessage r p f d) s = .next
      (s.budgetMessage r p f d) := by
  show railed (Instr.budgetMessage r p f d).wf s (fun s => s.budgetMessage r p f d) = _
  exact railed_on hw hp

theorem exec_budgetGrant (p : Predictions) (s : State)
    (hw : (Instr.budgetGrant p).wf = true) (hp : s.powered = true) :
    exec (.budgetGrant p) s = .next
      (s.budgetGrant p) := by
  show railed (Instr.budgetGrant p).wf s (fun s => s.budgetGrant p) = _
  exact railed_on hw hp

theorem exec_railOvercurrent (r rail : Nat) (s : State)
    (hw : (Instr.railOvercurrent r rail).wf = true) (hp : s.powered = true) :
    exec (.railOvercurrent r rail) s = .next
      (s.railOvercurrent r rail) := by
  show railed (Instr.railOvercurrent r rail).wf s (fun s => s.railOvercurrent r rail) = _
  exact railed_on hw hp

theorem exec_droopDetect (h cycles : Nat) (s : State)
    (hw : (Instr.droopDetect h cycles).wf = true) (hp : s.powered = true) :
    exec (.droopDetect h cycles) s = .next
      (s.droopDetect h cycles) := by
  show railed (Instr.droopDetect h cycles).wf s (fun s => s.droopDetect h cycles) = _
  exact railed_on hw hp

theorem exec_droopRecover (h : Nat) (s : State)
    (hw : (Instr.droopRecover h).wf = true) (hp : s.powered = true) :
    exec (.droopRecover h) s = .next
      (s.droopRecover h) := by
  show railed (Instr.droopRecover h).wf s (fun s => s.droopRecover h) = _
  exact railed_on hw hp

theorem exec_thermalSample (r die celsius : Nat) (s : State)
    (hw : (Instr.thermalSample r die celsius).wf = true) (hp : s.powered = true) :
    exec (.thermalSample r die celsius) s = .next
      (s.thermalSample r die celsius) := by
  show railed (Instr.thermalSample r die celsius).wf s (fun s => s.thermalSample r die celsius) = _
  exact railed_on hw hp

theorem exec_thermalTrip (s : State)
    (hw : (Instr.thermalTrip).wf = true) :
    exec (.thermalTrip) s = .next
      (s.thermalTrip) := by
  show checked (Instr.thermalTrip).wf s (fun s => s.thermalTrip) = _
  exact checked_on hw

theorem exec_coolantAlarm (s : State)
    (hw : (Instr.coolantAlarm).wf = true) (hp : s.powered = true) :
    exec (.coolantAlarm) s = .next
      (s.coolantAlarm) := by
  show railed (Instr.coolantAlarm).wf s (fun s => s.coolantAlarm) = _
  exact railed_on hw hp

theorem exec_pwrCountClear (ag : Agent) (v : W64) (s : State)
    (hw : (Instr.pwrCountClear ag v).wf = true) (hp : s.powered = true) :
    exec (.pwrCountClear ag v) s = .next
      (s.countClear v State.pwrCounters) := by
  show railed (Instr.pwrCountClear ag v).wf s (fun s => s.countClear v State.pwrCounters) = _
  exact railed_on hw hp

theorem exec_xchkDone (a b da db : Nat) (third : Option (Nat × Nat)) (s : State)
    (hw : (Instr.xchkDone a b da db third).wf = true) (hp : s.powered = true) :
    exec (.xchkDone a b da db third) s = .next
      (s.noted (s.xchkDone a b da db third)) := by
  show railed (Instr.xchkDone a b da db third).wf s (fun s => s.noted (s.xchkDone a b da db third)) = _
  exact railed_on hw hp

theorem exec_xchkThirdTimeout (a b : Nat) (s : State)
    (hw : (Instr.xchkThirdTimeout a b).wf = true) (hp : s.powered = true) :
    exec (.xchkThirdTimeout a b) s = .next
      (s.noted (s.xchkTimeout a b)) := by
  show railed (Instr.xchkThirdTimeout a b).wf s (fun s => s.noted (s.xchkTimeout a b)) = _
  exact railed_on hw hp

theorem exec_tuningCheckEnd (b : Nat) (passed : Bool) (s : State)
    (hw : (Instr.tuningCheckEnd b passed).wf = true) (hp : s.powered = true) :
    exec (.tuningCheckEnd b passed) s = .next
      (s.noted (s.tuningEnd b passed)) := by
  show railed (Instr.tuningCheckEnd b passed).wf s (fun s => s.noted (s.tuningEnd b passed)) = _
  exact railed_on hw hp

theorem exec_blkMute (ag : Agent) (r b : Nat) (s : State)
    (hw : (Instr.blkMute ag r b).wf = true) (hp : s.powered = true) :
    exec (.blkMute ag r b) s = .next
      (s.noted (s.blkMuteWrite ag r (fld b 0))) := by
  show railed (Instr.blkMute ag r b).wf s (fun s => s.noted (s.blkMuteWrite ag r (fld b 0))) = _
  exact railed_on hw hp

theorem exec_blkRelease (ag : Agent) (r b : Nat) (s : State)
    (hw : (Instr.blkRelease ag r b).wf = true) (hp : s.powered = true) :
    exec (.blkRelease ag r b) s = .next
      (s.blkRelease ag r b) := by
  show railed (Instr.blkRelease ag r b).wf s (fun s => s.blkRelease ag r b) = _
  exact railed_on hw hp

theorem exec_mgmtEvidRelease (ag : Agent) (r : Nat) (v : W64) (s : State)
    (hw : (Instr.mgmtEvidRelease ag r v).wf = true) (hp : s.powered = true) :
    exec (.mgmtEvidRelease ag r v) s = .next
      (s.evidRelease r v) := by
  show railed (Instr.mgmtEvidRelease ag r v).wf s (fun s => s.evidRelease r v) = _
  exact railed_on hw hp

theorem exec_packRun (cls unit : Nat) (s : State)
    (hw : (Instr.packRun cls unit).wf = true) (hp : s.powered = true) :
    exec (.packRun cls unit) s = .next
      (s.packRun cls unit) := by
  show railed (Instr.packRun cls unit).wf s (fun s => s.packRun cls unit) = _
  exact railed_on hw hp

theorem exec_packResult (cls unit : Nat) (passed : Bool) (s : State)
    (hw : (Instr.packResult cls unit passed).wf = true) (hp : s.powered = true) :
    exec (.packResult cls unit passed) s = .next
      (s.noted (s.packResult cls unit passed)) := by
  show railed (Instr.packResult cls unit passed).wf s (fun s => s.noted (s.packResult cls unit passed)) = _
  exact railed_on hw hp

theorem exec_d2dFlitCrcError (link lane : Nat) (s : State)
    (hw : (Instr.d2dFlitCrcError link lane).wf = true) (hp : s.powered = true) :
    exec (.d2dFlitCrcError link lane) s = .next
      (s.flitCrcError link lane) := by
  show railed (Instr.d2dFlitCrcError link lane).wf s (fun s => s.flitCrcError link lane) = _
  exact railed_on hw hp

theorem exec_d2dLaneMapExchange (link : Nat) (m : LaneMap) (s : State)
    (hw : (Instr.d2dLaneMapExchange link m).wf = true) (hp : s.powered = true) :
    exec (.d2dLaneMapExchange link m) s = .next
      (s.noted (s.laneMapExchange link m)) := by
  show railed (Instr.d2dLaneMapExchange link m).wf s (fun s => s.noted (s.laneMapExchange link m)) = _
  exact railed_on hw hp

theorem exec_heartbeat (link : Nat) (s : State)
    (hw : (Instr.heartbeat link).wf = true) (hp : s.powered = true) :
    exec (.heartbeat link) s = .next
      (s.heartbeat link) := by
  show railed (Instr.heartbeat link).wf s (fun s => s.heartbeat link) = _
  exact railed_on hw hp

theorem exec_dieLost (r die reason : Nat) (s : State)
    (hw : (Instr.dieLost r die reason).wf = true) (hp : s.powered = true) :
    exec (.dieLost r die reason) s = .next
      (s.noted (s.dieLost r die reason)) := by
  show railed (Instr.dieLost r die reason).wf s (fun s => s.noted (s.dieLost r die reason)) = _
  exact railed_on hw hp

theorem exec_regionLost (r reason : Nat) (s : State)
    (hw : (Instr.regionLost r reason).wf = true) (hp : s.powered = true) :
    exec (.regionLost r reason) s = .next
      (s.noted (s.regionEvent r reason)) := by
  show railed (Instr.regionLost r reason).wf s (fun s => s.noted (s.regionEvent r reason)) = _
  exact railed_on hw hp

theorem exec_rejoin (ag : Agent) (r die : Nat) (s : State)
    (hw : (Instr.rejoin ag r die).wf = true) (hp : s.powered = true) :
    exec (.rejoin ag r die) s = .next
      (s.rejoin ag r die) := by
  show railed (Instr.rejoin ag r die).wf s (fun s => s.rejoin ag r die) = _
  exact railed_on hw hp

theorem exec_rejoinDone (r die : Nat) (s : State)
    (hw : (Instr.rejoinDone r die).wf = true) (hp : s.powered = true) :
    exec (.rejoinDone r die) s = .next
      (s.rejoinDone r die) := by
  show railed (Instr.rejoinDone r die).wf s (fun s => s.rejoinDone r die) = _
  exact railed_on hw hp

theorem exec_rejoinTimeout (r die : Nat) (s : State)
    (hw : (Instr.rejoinTimeout r die).wf = true) (hp : s.powered = true) :
    exec (.rejoinTimeout r die) s = .next
      (s.rejoinTimeout r die) := by
  show railed (Instr.rejoinTimeout r die).wf s (fun s => s.rejoinTimeout r die) = _
  exact railed_on hw hp

theorem exec_mgmtErrCountClear (ag : Agent) (r : Nat) (v : W64) (s : State)
    (hw : (Instr.mgmtErrCountClear ag r v).wf = true) (hp : s.powered = true) :
    exec (.mgmtErrCountClear ag r v) s = .next
      (s.countClear v (State.errCounters r)) := by
  show railed (Instr.mgmtErrCountClear ag r v).wf s (fun s => s.countClear v (State.errCounters r)) = _
  exact railed_on hw hp

theorem exec_auxPowerUp (slotId : Nat) (reversedSeen : Bool) (s : State)
    (hw : (Instr.auxPowerUp slotId reversedSeen).wf = true) :
    exec (.auxPowerUp slotId reversedSeen) s = .next
      (s.auxPowerUp slotId reversedSeen) := by
  show checked (Instr.auxPowerUp slotId reversedSeen).wf s (fun s => s.auxPowerUp slotId reversedSeen) = _
  exact checked_on hw

theorem exec_auxPowerDown (s : State)
    (hw : (Instr.auxPowerDown).wf = true) :
    exec (.auxPowerDown) s = .next
      (s.auxPowerDown) := by
  show checked (Instr.auxPowerDown).wf s (fun s => s.auxPowerDown) = _
  exact checked_on hw

theorem exec_autoBoot (s : State)
    (hw : (Instr.autoBoot).wf = true) :
    exec (.autoBoot) s = .next
      (s.autoBoot) := by
  show checked (Instr.autoBoot).wf s (fun s => s.autoBoot) = _
  exact checked_on hw

theorem exec_boot (i : BootInput) (s : State)
    (hw : (Instr.boot i).wf = true) :
    exec (.boot i) s = .next
      (s.noted (s.boot i)) := by
  show checked (Instr.boot i).wf s (fun s => s.noted (s.boot i)) = _
  exact checked_on hw

theorem exec_bootStepTimeout (s : State)
    (hw : (Instr.bootStepTimeout).wf = true) :
    exec (.bootStepTimeout) s = .next
      (s.bootTimeout) := by
  show checked (Instr.bootStepTimeout).wf s (fun s => s.bootTimeout) = _
  exact checked_on hw

theorem exec_mbxGo (ag : Agent) (sl : Slot) (m : Msg) (s : State)
    (hw : (Instr.mbxGo ag sl m).wf = true) :
    exec (.mbxGo ag sl m) s = .next
      (s.mbxGo ag sl m) := by
  show checked (Instr.mbxGo ag sl m).wf s (fun s => s.mbxGo ag sl m) = _
  exact checked_on hw

theorem exec_mbxAck (ag : Agent) (sl : Slot) (s : State)
    (hw : (Instr.mbxAck ag sl).wf = true) :
    exec (.mbxAck ag sl) s = .next
      (s.mbxAck ag sl) := by
  show checked (Instr.mbxAck ag sl).wf s (fun s => s.mbxAck ag sl) = _
  exact checked_on hw

theorem exec_mbxResponse (s : State)
    (hw : (Instr.mbxResponse).wf = true) :
    exec (.mbxResponse) s = .next
      (s.mbxResponse) := by
  show checked (Instr.mbxResponse).wf s (fun s => s.mbxResponse) = _
  exact checked_on hw

theorem exec_i3cPrivateWrite (bytes : List Byte) (s : State)
    (hw : (Instr.i3cPrivateWrite bytes).wf = true) :
    exec (.i3cPrivateWrite bytes) s = .next
      (s.i3cWrite bytes) := by
  show checked (Instr.i3cPrivateWrite bytes).wf s (fun s => s.i3cWrite bytes) = _
  exact checked_on hw

theorem exec_i3cPrivateRead (n : Nat) (s : State)
    (hw : (Instr.i3cPrivateRead n).wf = true) :
    exec (.i3cPrivateRead n) s = .next
      (s.i3cRead n) := by
  show checked (Instr.i3cPrivateRead n).wf s (fun s => s.i3cRead n) = _
  exact checked_on hw

theorem exec_entdaa (da : Nat) (s : State)
    (hw : (Instr.entdaa da).wf = true) :
    exec (.entdaa da) s = .next
      (s.entdaa da) := by
  show checked (Instr.entdaa da).wf s (fun s => s.entdaa da) = _
  exact checked_on hw

theorem exec_rstdaa (s : State)
    (hw : (Instr.rstdaa).wf = true) :
    exec (.rstdaa) s = .next
      (s.rstdaa) := by
  show checked (Instr.rstdaa).wf s (fun s => s.rstdaa) = _
  exact checked_on hw

theorem exec_setnewda (da : Nat) (s : State)
    (hw : (Instr.setnewda da).wf = true) :
    exec (.setnewda da) s = .next
      (s.setnewda da) := by
  show checked (Instr.setnewda da).wf s (fun s => s.setnewda da) = _
  exact checked_on hw

theorem exec_getpid (s : State)
    (hw : (Instr.getpid).wf = true) :
    exec (.getpid) s = .next
      (s.cccRead (leBytes 6 s.provisionedId).reverse) := by
  show checked (Instr.getpid).wf s (fun s => s.cccRead (leBytes 6 s.provisionedId).reverse) = _
  exact checked_on hw

theorem exec_getbcr (s : State)
    (hw : (Instr.getbcr).wf = true) :
    exec (.getbcr) s = .next
      (s.cccRead [0x0E]) := by
  show checked (Instr.getbcr).wf s (fun s => s.cccRead [0x0E]) = _
  exact checked_on hw

theorem exec_getdcr (s : State)
    (hw : (Instr.getdcr).wf = true) :
    exec (.getdcr) s = .next
      (s.cccRead [0x00]) := by
  show checked (Instr.getdcr).wf s (fun s => s.cccRead [0x00]) = _
  exact checked_on hw

theorem exec_getstatus (s : State)
    (hw : (Instr.getstatus).wf = true) :
    exec (.getstatus) s = .next
      (s.cccRead (leBytes 2 (Config.i3cStatus s.alert)).reverse) := by
  show checked (Instr.getstatus).wf s (fun s => s.cccRead (leBytes 2 (Config.i3cStatus s.alert)).reverse) = _
  exact checked_on hw

theorem exec_getmwl (s : State)
    (hw : (Instr.getmwl).wf = true) :
    exec (.getmwl) s = .next
      (s.cccRead [0x02, 0x08]) := by
  show checked (Instr.getmwl).wf s (fun s => s.cccRead [0x02, 0x08]) = _
  exact checked_on hw

theorem exec_getmrl (s : State)
    (hw : (Instr.getmrl).wf = true) :
    exec (.getmrl) s = .next
      (s.cccRead [0x02, 0x08]) := by
  show checked (Instr.getmrl).wf s (fun s => s.cccRead [0x02, 0x08]) = _
  exact checked_on hw

theorem exec_enec (events : Nat) (s : State)
    (hw : (Instr.enec events).wf = true) :
    exec (.enec events) s = .next
      (s.ibiSet events true) := by
  show checked (Instr.enec events).wf s (fun s => s.ibiSet events true) = _
  exact checked_on hw

theorem exec_disec (events : Nat) (s : State)
    (hw : (Instr.disec events).wf = true) :
    exec (.disec events) s = .next
      (s.ibiSet events false) := by
  show checked (Instr.disec events).wf s (fun s => s.ibiSet events false) = _
  exact checked_on hw

theorem exec_getStatus (sl : Slot) (m : Msg) (s : State)
    (hw : (Instr.getStatus sl m).wf = true) :
    exec (.getStatus sl m) s = .next
      (s.getStatus sl m) := by
  show checked (Instr.getStatus sl m).wf s (fun s => s.getStatus sl m) = _
  exact checked_on hw

theorem exec_getIdentity (sl : Slot) (m : Msg) (s : State)
    (hw : (Instr.getIdentity sl m).wf = true) :
    exec (.getIdentity sl m) s = .next
      (s.getIdentity sl m) := by
  show checked (Instr.getIdentity sl m).wf s (fun s => s.getIdentity sl m) = _
  exact checked_on hw

theorem exec_getCert (sl : Slot) (m : Msg) (s : State)
    (hw : (Instr.getCert sl m).wf = true) :
    exec (.getCert sl m) s = .next
      (s.getCert sl m) := by
  show checked (Instr.getCert sl m).wf s (fun s => s.getCert sl m) = _
  exact checked_on hw

theorem exec_getEvent (sl : Slot) (m : Msg) (s : State)
    (hw : (Instr.getEvent sl m).wf = true) :
    exec (.getEvent sl m) s = .next
      (s.getEvent sl m) := by
  show checked (Instr.getEvent sl m).wf s (fun s => s.getEvent sl m) = _
  exact checked_on hw

theorem exec_coldBoot (sl : Slot) (m : Msg) (s : State)
    (hw : (Instr.coldBoot sl m).wf = true) :
    exec (.coldBoot sl m) s = .next
      (s.coldBoot sl m) := by
  show checked (Instr.coldBoot sl m).wf s (fun s => s.coldBoot sl m) = _
  exact checked_on hw

theorem exec_warmReset (sl : Slot) (m : Msg) (s : State)
    (hw : (Instr.warmReset sl m).wf = true) :
    exec (.warmReset sl m) s = .next
      (s.warmReset sl m) := by
  show checked (Instr.warmReset sl m).wf s (fun s => s.warmReset sl m) = _
  exact checked_on hw

theorem exec_powerOff (sl : Slot) (m : Msg) (s : State)
    (hw : (Instr.powerOff sl m).wf = true) :
    exec (.powerOff sl m) s = .next
      (s.powerOff sl m) := by
  show checked (Instr.powerOff sl m).wf s (fun s => s.powerOff sl m) = _
  exact checked_on hw

theorem exec_run (sl : Slot) (m : Msg) (s : State)
    (hw : (Instr.run sl m).wf = true) :
    exec (.run sl m) s = .next
      (s.runCmd sl m) := by
  show checked (Instr.run sl m).wf s (fun s => s.runCmd sl m) = _
  exact checked_on hw

theorem exec_quiesce (sl : Slot) (m : Msg) (s : State)
    (hw : (Instr.quiesce sl m).wf = true) :
    exec (.quiesce sl m) s = .next
      (s.quiesceCmd sl m) := by
  show checked (Instr.quiesce sl m).wf s (fun s => s.quiesceCmd sl m) = _
  exact checked_on hw

theorem exec_resume (sl : Slot) (m : Msg) (s : State)
    (hw : (Instr.resume sl m).wf = true) :
    exec (.resume sl m) s = .next
      (s.resumeCmd sl m) := by
  show checked (Instr.resume sl m).wf s (fun s => s.resumeCmd sl m) = _
  exact checked_on hw

theorem exec_overrideSet (sl : Slot) (m : Msg) (s : State)
    (hw : (Instr.overrideSet sl m).wf = true) :
    exec (.overrideSet sl m) s = .next
      (s.overrideSet sl m) := by
  show checked (Instr.overrideSet sl m).wf s (fun s => s.overrideSet sl m) = _
  exact checked_on hw

theorem exec_overrideGet (sl : Slot) (m : Msg) (s : State)
    (hw : (Instr.overrideGet sl m).wf = true) :
    exec (.overrideGet sl m) s = .next
      (s.overrideGet sl m) := by
  show checked (Instr.overrideGet sl m).wf s (fun s => s.overrideGet sl m) = _
  exact checked_on hw

theorem exec_overrideClear (sl : Slot) (m : Msg) (s : State)
    (hw : (Instr.overrideClear sl m).wf = true) :
    exec (.overrideClear sl m) s = .next
      (s.overrideClear sl m) := by
  show checked (Instr.overrideClear sl m).wf s (fun s => s.overrideClear sl m) = _
  exact checked_on hw

theorem exec_journalCompact (s : State)
    (hw : (Instr.journalCompact).wf = true) :
    exec (.journalCompact) s = .next
      (s.journalCompact) := by
  show checked (Instr.journalCompact).wf s (fun s => s.journalCompact) = _
  exact checked_on hw

theorem exec_imageWrite (sl : Slot) (m : Msg) (s : State)
    (hw : (Instr.imageWrite sl m).wf = true) :
    exec (.imageWrite sl m) s = .next
      (s.imageWrite sl m) := by
  show checked (Instr.imageWrite sl m).wf s (fun s => s.imageWrite sl m) = _
  exact checked_on hw

theorem exec_imageCommit (sl : Slot) (m : Msg) (v : Verdict) (s : State)
    (hw : (Instr.imageCommit sl m v).wf = true) :
    exec (.imageCommit sl m v) s = .next
      (s.imageCommit sl m v) := by
  show checked (Instr.imageCommit sl m v).wf s (fun s => s.imageCommit sl m v) = _
  exact checked_on hw

theorem exec_coreOffline (sl : Slot) (m : Msg) (s : State)
    (hw : (Instr.coreOffline sl m).wf = true) :
    exec (.coreOffline sl m) s = .next
      (s.coreOffline sl m) := by
  show checked (Instr.coreOffline sl m).wf s (fun s => s.coreOffline sl m) = _
  exact checked_on hw

theorem exec_coreOnline (sl : Slot) (m : Msg) (passed : Bool) (s : State)
    (hw : (Instr.coreOnline sl m passed).wf = true) :
    exec (.coreOnline sl m passed) s = .next
      (s.coreOnline sl m passed) := by
  show checked (Instr.coreOnline sl m passed).wf s (fun s => s.coreOnline sl m passed) = _
  exact checked_on hw

theorem exec_coreClearFail (sl : Slot) (m : Msg) (s : State)
    (hw : (Instr.coreClearFail sl m).wf = true) :
    exec (.coreClearFail sl m) s = .next
      (s.coreClearFail sl m) := by
  show checked (Instr.coreClearFail sl m).wf s (fun s => s.coreClearFail sl m) = _
  exact checked_on hw

theorem exec_muteListGet (sl : Slot) (m : Msg) (s : State)
    (hw : (Instr.muteListGet sl m).wf = true) :
    exec (.muteListGet sl m) s = .next
      (s.muteListGet sl m) := by
  show checked (Instr.muteListGet sl m).wf s (fun s => s.muteListGet sl m) = _
  exact checked_on hw

theorem exec_muteListRemove (sl : Slot) (m : Msg) (s : State)
    (hw : (Instr.muteListRemove sl m).wf = true) :
    exec (.muteListRemove sl m) s = .next
      (s.muteListRemove sl m) := by
  show checked (Instr.muteListRemove sl m).wf s (fun s => s.muteListRemove sl m) = _
  exact checked_on hw

theorem exec_evidenceRead (sl : Slot) (m : Msg) (s : State)
    (hw : (Instr.evidenceRead sl m).wf = true) :
    exec (.evidenceRead sl m) s = .next
      (s.evidenceRead sl m) := by
  show checked (Instr.evidenceRead sl m).wf s (fun s => s.evidenceRead sl m) = _
  exact checked_on hw

theorem exec_evidenceRelease (sl : Slot) (m : Msg) (s : State)
    (hw : (Instr.evidenceRelease sl m).wf = true) :
    exec (.evidenceRelease sl m) s = .next
      (s.evidenceRelease sl m) := by
  show checked (Instr.evidenceRelease sl m).wf s (fun s => s.evidenceRelease sl m) = _
  exact checked_on hw

theorem exec_fuseRearm (sl : Slot) (m : Msg) (s : State)
    (hw : (Instr.fuseRearm sl m).wf = true) :
    exec (.fuseRearm sl m) s = .next
      (s.fuseRearm sl m) := by
  show checked (Instr.fuseRearm sl m).wf s (fun s => s.fuseRearm sl m) = _
  exact checked_on hw

theorem exec_ledgerRead (sl : Slot) (m : Msg) (s : State)
    (hw : (Instr.ledgerRead sl m).wf = true) :
    exec (.ledgerRead sl m) s = .next
      (s.ledgerRead sl m) := by
  show checked (Instr.ledgerRead sl m).wf s (fun s => s.ledgerRead sl m) = _
  exact checked_on hw

theorem exec_debugUnlock (sl : Slot) (m : Msg) (nonce : List Byte) (sigOk : Bool) (s : State)
    (hw : (Instr.debugUnlock sl m nonce sigOk).wf = true) :
    exec (.debugUnlock sl m nonce sigOk) s = .next
      (s.debugUnlock sl m nonce sigOk) := by
  show checked (Instr.debugUnlock sl m nonce sigOk).wf s (fun s => s.debugUnlock sl m nonce sigOk) = _
  exact checked_on hw

theorem exec_hostOutboundCompletion (tag : ReqTag) (status : Nat) (data : List Byte) (s : State)
    (hw : (Instr.hostOutboundCompletion tag status data).wf = true) (hp : s.powered = true) :
    exec (.hostOutboundCompletion tag status data) s = .next
      (s.hostAnswer tag status data) := by
  show railed (Instr.hostOutboundCompletion tag status data).wf s (fun s => s.hostAnswer tag status data) = _
  exact railed_on hw hp

theorem exec_hostLinkRecovery (r k : Nat) (s : State)
    (hw : (Instr.hostLinkRecovery r k).wf = true) (hp : s.powered = true) :
    exec (.hostLinkRecovery r k) s = .next
      (s.linkRecovery r k) := by
  show railed (Instr.hostLinkRecovery r k).wf s (fun s => s.linkRecovery r k) = _
  exact railed_on hw hp

theorem exec_rootPortLinkUp (r k : Nat) (l : HostLink) (s : State)
    (hw : (Instr.rootPortLinkUp r k l).wf = true) (hp : s.powered = true) :
    exec (.rootPortLinkUp r k l) s = .next
      (s.rootLinkUp r k l) := by
  show railed (Instr.rootPortLinkUp r k l).wf s (fun s => s.rootLinkUp r k l) = _
  exact railed_on hw hp

theorem exec_configurationWrite (r f : Nat) (busMaster memEnable : Option Bool) (bar2Log2 : Option Nat) (s : State)
    (hw : (Instr.configurationWrite r f busMaster memEnable bar2Log2).wf = true) (hp : s.powered = true) :
    exec (.configurationWrite r f busMaster memEnable bar2Log2) s = .next
      (s.configWrite r f busMaster memEnable bar2Log2) := by
  show railed (Instr.configurationWrite r f busMaster memEnable bar2Log2).wf s (fun s => s.configWrite r f busMaster memEnable bar2Log2) = _
  exact railed_on hw hp

theorem exec_interruptTrap (h : Nat) (s : State)
    (hw : (Instr.interruptTrap h).wf = true) (hp : s.powered = true) :
    exec (.interruptTrap h) s = .next
      (s.takeInterrupt h) := by
  show railed (Instr.interruptTrap h).wf s (fun s => s.takeInterrupt h) = _
  exact railed_on hw hp

theorem exec_inputReversed (s : State)
    (hw : (Instr.inputReversed).wf = true) :
    exec (.inputReversed) s = .next
      (s.inputReversed) := by
  show checked (Instr.inputReversed).wf s (fun s => s.inputReversed) = _
  exact checked_on hw

theorem exec_jtagInstruction (boundaryScan : Bool) (s : State)
    (hw : (Instr.jtagInstruction boundaryScan).wf = true) :
    exec (.jtagInstruction boundaryScan) s = .next
      (s.jtag boundaryScan) := by
  show checked (Instr.jtagInstruction boundaryScan).wf s (fun s => s.jtag boundaryScan) = _
  exact checked_on hw

end Sys2Proof.Machine
end

