-- ==== Sys2Proof/Laws/Frames.lean ====
section
/-!
SUPPORT. What the shared operations can change: pegs and watches, blocks and their engines, mailbox slots, events and the
reports that follow a command.
-/
namespace Sys2Proof.Machine

/-! ### Pegs, watches, harts, blocks and the reports after a command -/

theorem State.releaseWatch_frame (s : State) (k : WKey) (w : Watch) (n : Nat) :
    s.releaseWatch k w n = { s with watches := (s.releaseWatch k w n).watches, gens := (s.releaseWatch k w n).gens,
                                    fired := (s.releaseWatch k w n).fired, regs := (s.releaseWatch k w n).regs } := by
  rfl

theorem State.releaseAll_frame (ws : List (WKey × Watch)) (n : Nat) (s : State) :
    s.releaseAll ws n = { s with watches := (s.releaseAll ws n).watches, gens := (s.releaseAll ws n).gens,
                                 fired := (s.releaseAll ws n).fired, regs := (s.releaseAll ws n).regs } := by
  induction ws generalizing s with
  | nil => rfl
  | cons x ws ih =>
    have h : s.releaseAll (x :: ws) n = (s.releaseWatch x.1 x.2 n).releaseAll ws n := rfl
    rw [h, ih]; rfl

theorem State.putPeg_frame (s : State) (p : Nat) (x : Peg) :
    s.putPeg p x = { s with pegs := s.pegs.set p x, watches := (s.putPeg p x).watches, gens := (s.putPeg p x).gens,
                            fired := (s.putPeg p x).fired, regs := (s.putPeg p x).regs } := by
  unfold State.putPeg State.fireWatches
  rw [State.releaseAll_frame]; rfl

theorem Hart.wc_same (x : Hart) (h : x.wc = []) : { x with wc := [] } = x := by cases x; simp at h; subst h; rfl

theorem State.wcFlush_idle (s : State) (h : Nat) (h3 : (s.hart h).wc = []) (p : WcEntry → Bool) :
    s.wcFlush h p = s.setHart h (s.hart h) := by
  unfold State.wcFlush; rw [h3]; exact congrArg (s.setHart h) (Hart.wc_same _ h3)

theorem State.leaveStreaming_idle (s : State) (h : Nat) (h3 : (s.hart h).streaming = false) (h4 : (s.hart h).combine = none) :
    s.leaveStreaming h = s := by
  unfold State.leaveStreaming; rw [h3, h4]; rfl

theorem State.hart_same (s : State) (h j : Nat) : (s.setHart h (s.hart h)).hart j = s.hart j := by
  by_cases e : j = h
  · subst e; simp
  · rw [State.hart_setHart_ne _ _ e]

theorem State.pushOut_idle (s : State) (h : Nat) (h1 : (s.hart h).stores = []) (h2 : (s.hart h).combine = none)
    (h3 : (s.hart h).wc = []) : s.pushOut h = s.setHart h (s.hart h) := by
  have e1 : s.drainStores h (s.hart h).stores.length = s := by rw [h1]; rfl
  have e2 : (s.setHart h (s.hart h)).hart h = s.hart h := State.hart_setHart_self ..
  have e3 : (s.setHart h (s.hart h)).writeCombine h = s.setHart h (s.hart h) := by
    unfold State.writeCombine; rw [e2, h2]
  unfold State.pushOut; rw [e1, State.wcFlush_idle s h h3]; exact e3

theorem setAll_four (s : State) (g : Nat → Reg) (v : W64) (h : ∀ i j, i < 4 → j < 4 → g i = g j → i = j) :
    s.setAll g v = { s with regs := (s.setAll g v).regs } ∧ (∀ q, q < 4 → (s.setAll g v).reg (g q) = v) ∧
    ∀ x, (∀ q, x ≠ g q) → (s.setAll g v).reg x = s.reg x := by
  have ne : ∀ i j, i < 4 → j < 4 → i ≠ j → g i ≠ g j := fun i j hi hj hn e => hn (h i j hi hj e)
  refine ⟨rfl, ?_, ?_⟩
  · intro q hq
    have : s.setAll g v = (((s.setReg (g 0) v).setReg (g 1) v).setReg (g 2) v).setReg (g 3) v := rfl
    rw [this]
    by_cases e3 : g q = g 3
    · rw [e3]; simp
    rw [State.reg_setReg_ne _ _ e3]
    by_cases e2 : g q = g 2
    · rw [e2]; simp
    rw [State.reg_setReg_ne _ _ e2]
    by_cases e1 : g q = g 1
    · rw [e1]; simp
    rw [State.reg_setReg_ne _ _ e1]
    have : q = 0 := by
      rcases (by omega : q = 0 ∨ q = 1 ∨ q = 2 ∨ q = 3) with c | c | c | c <;> subst c <;> first | rfl | contradiction
    subst this; simp
  · intro x hx
    have : s.setAll g v = (((s.setReg (g 0) v).setReg (g 1) v).setReg (g 2) v).setReg (g 3) v := rfl
    rw [this, State.reg_setReg_ne _ _ (hx 3), State.reg_setReg_ne _ _ (hx 2), State.reg_setReg_ne _ _ (hx 1), State.reg_setReg_ne _ _ (hx 0)]

theorem SameButReports.refl (s : State) : SameButReports s s := ⟨rfl, rfl⟩

theorem SameButReports.trans {s t u : State} (h1 : SameButReports s t) (h2 : SameButReports t u) : SameButReports s u := by
  obtain ⟨a, b⟩ := h1; obtain ⟨c, d⟩ := h2
  refine ⟨?_, ?_⟩
  · rw [c, a]
  · rw [d, b]

theorem SameButReports.mk' {s t : State} (h : t = { s with mgmt := t.mgmt, pegs := t.pegs, watches := t.watches, gens := t.gens, fired := t.fired, regs := t.regs, errLog := t.errLog, outbox := t.outbox }) (h2 : t.mgmt = s.mgmt) : SameButReports s t :=
  ⟨h, by rw [h2]⟩

theorem signalPeg_reports (s : State) (a : Agent) (p sc : Nat) (v : W64) : SameButReports s (s.signalPeg a p sc v) ∧ (s.signalPeg a p sc v).mgmt = s.mgmt := by
  unfold State.signalPeg State.pegRelAdd
  split
  · rw [State.putPeg_frame]; exact ⟨⟨rfl, rfl⟩, rfl⟩
  · exact ⟨⟨rfl, rfl⟩, rfl⟩

theorem signalSlot_reports (s : State) (sl : Slot) (m : Nat) : SameButReports s (s.signalSlot sl m) ∧ (s.signalSlot sl m).mgmt = s.mgmt := by
  unfold State.signalSlot
  split
  · split
    · exact ⟨⟨rfl, rfl⟩, rfl⟩
    · exact ⟨.refl _, rfl⟩
  · simp only; split
    · exact signalPeg_reports ..
    · exact ⟨.refl _, rfl⟩
  · simp only; split
    · exact signalPeg_reports ..
    · exact ⟨.refl _, rfl⟩

theorem slotEvent_reports (s : State) (sl : Slot) (e : Event) : SameButReports s (s.slotEvent sl e) := by
  unfold State.slotEvent
  split
  · exact .refl _
  · simp only
    refine SameButReports.trans ?_ (signalSlot_reports _ _ _).1
    cases sl <;> exact ⟨rfl, rfl⟩

theorem event_reports (s : State) (c : Nat) (d : W64) : SameButReports s (s.event c d) := by
  unfold State.event
  split
  · exact .refl _
  · exact ((slotEvent_reports _ _ _).trans (slotEvent_reports _ _ _)).trans (slotEvent_reports _ _ _)

theorem slotEvent_i3c_other (s : State) (sl : Slot) (e : Event) (h : sl ≠ .i3c) : (s.slotEvent sl e).mgmt.i3c = s.mgmt.i3c := by
  unfold State.slotEvent
  split
  · rfl
  · simp only
    rw [(signalSlot_reports _ _ _).2]
    cases sl
    · exact absurd rfl h
    · rfl
    · rfl

theorem event_i3c (s : State) (c : Nat) (d : W64) (h : s.mgmt.state ≠ .off) :
    (s.event c d).mgmt.i3c.events.getLast? = some { code := c, fret := s.fret % 2 ^ 32, data := d } := by
  unfold State.event
  rw [if_neg h]
  rw [slotEvent_i3c_other _ _ _ (by decide), slotEvent_i3c_other _ _ _ (by decide)]
  unfold State.slotEvent
  rw [if_neg (show ¬ (!s.slotServed .i3c) = true by simp [State.slotServed])]
  simp only
  rw [(signalSlot_reports _ _ _).2]
  show ((if 64 ≤ s.mgmt.i3c.events.length then _ else _ : Mailbox).events).getLast? = _
  by_cases hc : 64 ≤ s.mgmt.i3c.events.length
  · rw [if_pos hc]; simp [State.mailbox]
  · rw [if_neg hc]; simp [State.mailbox]

theorem filter_nil {α : Type} (l : List α) (p : α → Bool) (h : ∀ x ∈ l, p x = false) : l.filter p = [] := by
  simp [List.filter_eq_nil_iff]; intro a ha; simp [h a ha]

theorem holdover_time (s : State) : s.enterHoldover = { s with time := s.enterHoldover.time } := by
  unfold State.enterHoldover; split <;> rfl

theorem foldl_stays {α β : Type} (l : List α) (f : β → α → β) (s : β) (h : ∀ x ∈ l, f s x = s) : l.foldl f s = s := by
  induction l with
  | nil => rfl
  | cons x l ih =>
    rw [List.foldl_cons, h x List.mem_cons_self]
    exact ih fun y hy => h y (List.mem_cons_of_mem _ hy)

/-- With no run going, no port that has left ACTIVE takes a peer from one. -/
theorem collPorts_idle (o s : State) (h : ∀ y ∈ s.colls, y.2.state ≠ .running) : State.collPorts o s = s :=
  foldl_stays _ _ _ fun x hx => if_neg (h x hx)

/-- Where the fabric state stays, the end of a command moves nothing but fabric time. -/
theorem timeAfter_same (s x : State) (h3 : x.fab = s.fab) : State.timeAfter s x = { x with time := (State.timeAfter s x).time } := by
  unfold State.timeAfter
  have hs : (x.fab.settled && (!s.fab.settled || (s.fab.lone && !x.fab.lone))) = false := by
    rw [h3]; cases s.fab.settled <;> cases s.fab.lone <;> rfl
  simp only [hs, Bool.false_eq_true, if_false]
  split
  · split
    · rfl
    · exact holdover_time x
  · rfl

theorem noted_same (s x : State) (hb : ∀ y ∈ x.blocks, y.2.state ≠ .muted) (hc : ∀ y ∈ x.colls, y.2.state ≠ .running)
    (h2 : x.evidence = s.evidence) (h3 : x.fab = s.fab) : s.noted x = { x with time := (s.noted x).time } := by
  have e1 : State.reportAfter s x = x := by
    unfold State.reportAfter
    have : (x.blocks.filter fun y => y.2.state == .muted && (s.block y.1).state != .muted) = [] := by
      apply filter_nil; intro y hy; simp [hb y hy]
    rw [this]
    have : (x.evidence.filter fun y => (s.evidence.find y.1).isNone) = [] := by
      apply filter_nil; intro y hy; rw [h2] at hy
      have : ∀ (m : Map (Nat × Nat) Evidence) y, y ∈ m → (m.find y.1).isNone = false := by
        intro m; induction m with
        | nil => simp
        | cons a m ih =>
          intro y hy
          obtain ⟨a1, a2⟩ := a
          by_cases e : a1 = y.1
          · simp [Map.find, e]
          · have : y ∈ m := by
              rcases List.mem_cons.1 hy with h | h
              · subst h; exact absurd rfl e
              · exact h
            simpa [Map.find, e] using ih y this
      exact this _ y hy
    rw [List.foldl_nil]; show List.foldl _ x (x.evidence.filter fun y => (s.evidence.find y.1).isNone) = x
    rw [this]; rfl
  have e2 := timeAfter_same s x h3
  unfold State.noted; rw [e1]
  rw [collPorts_idle _ _ (by rw [e2]; exact hc)]
  exact e2

theorem Map.mem_erase {κ α : Type} [DecidableEq κ] (m : Map κ α) (k : κ) (y : κ × α) (h : y ∈ m.erase k) : y ∈ m := by
  induction m with
  | nil => exact h
  | cons a m ih =>
    obtain ⟨a1, a2⟩ := a
    unfold Map.erase at h
    split at h
    · exact List.mem_cons_of_mem _ (ih h)
    · rcases List.mem_cons.1 h with h | h
      · rw [h]; exact List.mem_cons_self
      · exact List.mem_cons_of_mem _ (ih h)

theorem Map.mem_set {κ α : Type} [DecidableEq κ] (m : Map κ α) (k : κ) (v : α) (y : κ × α) (h : y ∈ m.set k v) : y = (k, v) ∨ y ∈ m := by
  unfold Map.set at h
  rcases List.mem_cons.1 h with h | h
  · exact .inl h
  · exact .inr (Map.mem_erase _ _ _ h)

theorem Map.set_get_mem {κ α : Type} [DecidableEq κ] (m : Map κ α) (k : κ) (d : α) (P : α → Prop) (hd : P d) (h : ∀ y ∈ m, P y.2) : P (m.get d k) := by
  induction m with
  | nil => exact hd
  | cons a m ih =>
    obtain ⟨a1, a2⟩ := a
    by_cases e : a1 = k
    · have : Map.get (κ := κ) ((a1, a2) :: m) d k = a2 := by simp [Map.get, Map.find, e]
      rw [this]; exact h _ List.mem_cons_self
    · have : Map.get (κ := κ) ((a1, a2) :: m) d k = Map.get m d k := by simp [Map.get, Map.find, e]
      rw [this]; exact ih (fun y hy => h y (List.mem_cons_of_mem _ hy))

theorem notMuted_upd (s : State) (b : Nat) (x : Block) (hb : ∀ y ∈ s.blocks, y.2.state ≠ .muted) (h : x.state ≠ .muted) :
    ∀ y ∈ s.blocks.set b x, y.2.state ≠ .muted := by
  intro y hy
  rcases Map.mem_set _ _ _ _ hy with h1 | h1
  · rw [h1]; exact h
  · exact hb y h1

theorem notMuted_block (s : State) (b : Nat) (hb : ∀ y ∈ s.blocks, y.2.state ≠ .muted) : (s.block b).state ≠ .muted :=
  Map.set_get_mem s.blocks b {} (fun x : Block => x.state ≠ .muted) (by decide) hb

theorem Block.engine_set (x : Block) (e : Nat) (g : Engine) : (x.setEngine e g).engine e = g := Map.get_set_self x.engines _ _ _

theorem Map.erase_erase {κ α : Type} [DecidableEq κ] (m : Map κ α) (k : κ) : (m.erase k).erase k = m.erase k := by
  induction m with
  | nil => rfl
  | cons a m ih =>
    obtain ⟨a1, a2⟩ := a
    by_cases e : a1 = k
    · simp only [Map.erase, if_pos e]; exact ih
    · simp only [Map.erase, if_neg e]; rw [ih]

theorem Map.set_set {κ α : Type} [DecidableEq κ] (m : Map κ α) (k : κ) (v w : α) : (m.set k v).set k w = m.set k w := by
  have : Map.erase (m.set k v) k = m.erase k := by
    unfold Map.set; simp only [Map.erase, if_true]; exact Map.erase_erase m k
  unfold Map.set at *; rw [this]

theorem setBlock_setBlock (s : State) (b : Nat) (x y : Block) : (s.setBlock b x).setBlock b y = s.setBlock b y := by
  unfold State.setBlock; simp only [Map.set_set]

theorem updBlock_setBlock (s : State) (b : Nat) (x : Block) (f : Block → Block) : (s.setBlock b x).updBlock b f = s.setBlock b (f x) := by
  unfold State.updBlock; rw [State.block_setBlock_self, setBlock_setBlock]

theorem block_form {t s : State} {b : Nat} {x : Block} (h : t = s.setBlock b x) :
    t = { s with blocks := s.blocks.set b (t.block b) } ∧ t.block b = x := by
  subst h
  have : (s.setBlock b x).block b = x := State.block_setBlock_self ..
  rw [this]; exact ⟨rfl, rfl⟩

theorem takeHead_form (s : State) (b e : Nat) (c : Cmd) (st : Nat) : s.takeHead b e c st = s.setBlock b ((s.block b).setEngine e
    { (s.block b).engine e with hw := ((s.block b).engine e).hw.drop 1, started := ((s.block b).engine e).started ++ [{ cmd := c, status := if st ≠ stOK then some st else c.late }] }) := rfl

theorem fireAll_reg (ws : List (WKey × Watch)) (s : State) (g : Reg) (h : ∀ r, g ≠ WATCH_FIRED r) :
    (s.releaseAll ws 0).reg g = s.reg g := by
  induction ws generalizing s with
  | nil => rfl
  | cons x ws ih =>
    have e : s.releaseAll (x :: ws) 0 = (s.releaseWatch x.1 x.2 0).releaseAll ws 0 := rfl
    rw [e, ih]; simp only [State.releaseWatch, if_true]; exact State.reg_bump_ne _ _ (h _)

theorem putPeg_does (s : State) (p : Nat) (x : Peg) : ∃ t, s.putPeg p x = t ∧
      t = { s with pegs := t.pegs, watches := t.watches, gens := t.gens, fired := t.fired, regs := t.regs } ∧
      t.peg p = x ∧ (∀ q, q ≠ p → t.peg q = s.peg q) ∧
      ∀ g, (∀ r, g ≠ WATCH_FIRED r) → t.reg g = s.reg g := by
  refine ⟨_, rfl, ?_, ?_, ?_, fun g h => ?_⟩
  · conv_lhs => rw [State.putPeg_frame]
    conv_rhs => rw [State.putPeg_frame]
  · rw [State.putPeg_frame]; simp [State.peg]
  · intro q h; rw [State.putPeg_frame]; simp [State.peg, Map.get_set_ne _ _ _ h]
  · unfold State.putPeg State.fireWatches; rw [fireAll_reg _ _ _ h]; rfl

theorem mxPut_form (s : State) (b : Nat) (q : Run) : s.mxPut b q = s.setBlock b ((s.block b).setEngine 0
   { (s.block b).engine 0 with started := ((s.block b).engine 0).started.map fun p => if p.cmd.seq = q.cmd.seq then q else p }) := rfl

theorem updArray_form (s : State) (b : Nat) (f : Array → Array) :
    s.updArray b f = s.setBlock b { s.block b with array := f (s.block b).array } := rfl

theorem updArray_setBlock (s : State) (b : Nat) (x : Block) (f : Array → Array) :
    (s.setBlock b x).updArray b f = s.setBlock b { x with array := f x.array } := by
  rw [updArray_form, State.block_setBlock_self, setBlock_setBlock]

theorem mxPut_setBlock (s : State) (b : Nat) (x : Block) (q : Run) :
    (s.setBlock b x).mxPut b q = s.setBlock b (x.setEngine 0
      { x.engine 0 with started := (x.engine 0).started.map fun p => if p.cmd.seq = q.cmd.seq then q else p }) := by
  rw [mxPut_form, State.block_setBlock_self, setBlock_setBlock]

theorem engineStep_active (s : State) (b e op n : Nat) (ch : State → Nat → Cmd → Nat) (w : State → Nat → Run → Nat → State × Run) (r : Run) (h : s.activeRun b e = some r) (ho : r.cmd.opcode = op) :
   s.engineStep b e op n ch w = (w s b r n).1.putRun b e (w s b r n).2 := by
  unfold State.engineStep
  rw [h]; simp only; rw [h]; simp only; rw [if_pos ho]

theorem active_none (s : State) (b e : Nat) (r : Run) (h : s.activeRun b e = some r) : r.status = none := by
  have := List.find?_some h
  simpa using (Bool.and_eq_true_iff.1 this).1

theorem work_one (unit : State → Run → State × Run) (total : Nat) (s u : State) (r q : Run) (h1 : r.status = none) (h2 : r.count < total) (h3 : unit s r = (u, q)) :
    State.workUnits unit total 1 s r = (u, if q.status.isNone ∧ total ≤ q.count then { q with status := some stOK } else q) := by
  unfold State.workUnits State.workUnits
  rw [if_neg (by rw [h1]; simp), if_neg (by omega)]; simp only; rw [h3]

theorem reportAfter_reports (s x : State) : SameButReports x (State.reportAfter s x) := by
  have f1 : ∀ (l : List (Nat × Block)) (y : State), SameButReports y (l.foldl (fun (s : State) x =>
      s.event 7 (fld x.1 0 ||| fld x.2.muteCause 9)) y) := by
    intro l; induction l with
    | nil => exact fun y => .refl y
    | cons a l ih => exact fun y => (event_reports _ _ _).trans (ih _)
  have f2 : ∀ (l : List ((Nat × Nat) × Evidence)) (y : State), SameButReports y (l.foldl (fun (s : State) x =>
      s.event 8 (fld x.1.1 0 ||| fld x.1.2 2)) y) := by
    intro l; induction l with
    | nil => exact fun y => .refl y
    | cons a l ih => exact fun y => (event_reports _ _ _).trans (ih _)
  unfold State.reportAfter
  exact (f1 _ _).trans (f2 _ _)

theorem noted_frame (s x : State) (h : x.fab = s.fab) (hc : ∀ y ∈ x.colls, y.2.state ≠ .running) :
    ∃ y, SameButReports x y ∧ s.noted x = { y with time := (s.noted x).time } := by
  refine ⟨State.reportAfter s x, reportAfter_reports s x, ?_⟩
  have hr := (reportAfter_reports s x).1
  have hf : (State.reportAfter s x).fab = s.fab := by rw [hr]; exact h
  have hd : (State.reportAfter s x).colls = x.colls := by rw [hr]
  unfold State.noted
  generalize State.reportAfter s x = y at hf hd ⊢
  have e := timeAfter_same s y hf
  rw [collPorts_idle _ _ (by rw [e]; show ∀ z ∈ y.colls, _; rw [hd]; exact hc)]
  exact e

theorem engine_set_ne (x : Block) (e k : Nat) (g : Engine) (h : k ≠ e) : (x.setEngine e g).engine k = x.engine k := Map.get_set_ne x.engines _ _ h

theorem stop_one (x : Block) (e st : Nat) : let y := (x.stopRuns e st fun _ => true).flushQueue e st
    (∀ k, k ≠ e → y.engine k = x.engine k) ∧ (y.engine e).hw = [] ∧ (y.engine e).spill = [] ∧
    (y.engine e).started = ((x.engine e).started.map fun r => if r.status = none then r.stop st else r) ++
              ((x.engine e).hw ++ (x.engine e).spill).map (fun c => { cmd := c, status := some st }) ∧
    y.array.groups.length ≤ x.array.groups.length ∧ y.array.entries = x.array.entries ∧ y.state = x.state ∧ y.nextSeq = x.nextSeq ∧ y.marks = x.marks := by
  intro y
  have hit : ∀ r : Run, (r.status.isNone && true) = true ↔ r.status = none := by intro r; cases r.status <;> simp
  obtain ⟨z, hz⟩ : ∃ z, z = x.stopRuns e st fun _ => true := ⟨_, rfl⟩
  have hz1 : ∀ k, k ≠ e → z.engine k = x.engine k := by
    intro k hk; rw [hz]; unfold Block.stopRuns; simp only
    split
    · exact engine_set_ne _ _ _ _ hk
    · exact engine_set_ne _ _ _ _ hk
  have hz2 : z.engine e = { x.engine e with started := (x.engine e).started.map fun r => if r.status = none then r.stop st else r } := by
    rw [hz]; unfold Block.stopRuns; simp only [hit]
    split
    · exact Block.engine_set ..
    · exact Block.engine_set ..
  have hz3 : z.array.groups.length ≤ x.array.groups.length ∧ z.array.entries = x.array.entries ∧ z.state = x.state ∧ z.nextSeq = x.nextSeq ∧ z.marks = x.marks := by
    rw [hz]; unfold Block.stopRuns; simp only
    split
    · exact ⟨List.length_filter_le .., rfl, rfl, rfl, rfl⟩
    · exact ⟨Nat.le_refl _, rfl, rfl, rfl, rfl⟩
  have hy : y = z.flushQueue e st := by rw [hz]
  have hye : y.engine e = { hw := [], spill := [], started := (z.engine e).started ++ ((z.engine e).hw ++ (z.engine e).spill).map fun c => { cmd := c, status := some st } } := by
    rw [hy]; exact Block.engine_set ..
  refine ⟨?_, ?_, ?_, ?_, hz3.1 |> (by rw [hy]; exact ·), by rw [hy]; exact hz3.2.1, by rw [hy]; exact hz3.2.2.1, by rw [hy]; exact hz3.2.2.2.1, by rw [hy]; exact hz3.2.2.2.2⟩
  · intro k hk; rw [hy]; exact (engine_set_ne _ _ _ _ hk).trans (hz1 k hk)
  · rw [hye]
  · rw [hye]
  · rw [hye, hz2]

theorem freeAll_frame (ws : List (WKey × Watch)) (s : State) : ws.foldl (fun (s : State) x => s.freeWatch x.1) s =
   { s with watches := (ws.foldl (fun (s : State) x => s.freeWatch x.1) s).watches, gens := (ws.foldl (fun (s : State) x => s.freeWatch x.1) s).gens } := by
  induction ws generalizing s with
  | nil => rfl
  | cons a l ih => rw [List.foldl_cons, ih]; rfl

theorem dropTarget_frame (s : State) (h : Nat) : s.dropTarget h = { s with
    watches := (s.dropTarget h).watches, gens := (s.dropTarget h).gens, eventQ := s.eventQ.erase h,
    heldEvents := (s.dropTarget h).heldEvents, fired := (s.dropTarget h).fired, harts := (s.dropTarget h).harts } := by
  unfold State.dropTarget; simp only; rw [freeAll_frame]
  split <;> rfl

theorem stop_all (x : Block) (st : Nat) : let y := Block.engineList.foldl (fun x e => (x.stopRuns e st fun _ => true).flushQueue e st) x
    (y.array.groups.length ≤ x.array.groups.length ∧ y.array.entries = x.array.entries ∧ y.state = x.state ∧ y.nextSeq = x.nextSeq ∧ y.marks = x.marks) ∧
    ∀ e, e < 5 → (y.engine e).hw = [] ∧ (y.engine e).spill = [] ∧
    (y.engine e).started = ((x.engine e).started.map fun r => if r.status = none then r.stop st else r) ++
              ((x.engine e).hw ++ (x.engine e).spill).map (fun c => { cmd := c, status := some st }) := by
  have gen : ∀ (l : List Nat) (x : Block), l.Nodup → let y := l.foldl (fun x e => (x.stopRuns e st fun _ => true).flushQueue e st) x
    (y.array.groups.length ≤ x.array.groups.length ∧ y.array.entries = x.array.entries ∧ y.state = x.state ∧ y.nextSeq = x.nextSeq ∧ y.marks = x.marks) ∧
    (∀ e, e ∉ l → y.engine e = x.engine e) ∧
    ∀ e, e ∈ l → (y.engine e).hw = [] ∧ (y.engine e).spill = [] ∧
    (y.engine e).started = ((x.engine e).started.map fun r => if r.status = none then r.stop st else r) ++
              ((x.engine e).hw ++ (x.engine e).spill).map (fun c => { cmd := c, status := some st }) := by
    intro l; induction l with
    | nil => intro x _; exact ⟨⟨Nat.le_refl _, rfl, rfl, rfl, rfl⟩, fun _ _ => rfl, fun e h => by cases h⟩
    | cons a l ih =>
      intro x hn y
      obtain ⟨hna, hn⟩ := List.nodup_cons.1 hn
      obtain ⟨⟨i1, i2, i3, i4, i5⟩, j, k⟩ := ih ((x.stopRuns a st fun _ => true).flushQueue a st) hn
      obtain ⟨s1, s2, s3, s4, s5, s6, s7, s8, s9⟩ := stop_one x a st
      refine ⟨⟨le_trans i1 s5, i2.trans s6, i3.trans s7, i4.trans s8, i5.trans s9⟩, ?_, ?_⟩
      · intro e he
        rw [List.mem_cons, not_or] at he
        exact (j e he.2).trans (s1 e he.1)
      · intro e he
        by_cases hea : e = a
        · subst hea
          have := j e hna
          rw [show y.engine e = _ from this]; exact ⟨s2, s3, s4⟩
        · have hel : e ∈ l := by rcases List.mem_cons.1 he with h | h; exact absurd h hea; exact h
          obtain ⟨k1, k2, k3⟩ := k e hel
          rw [s1 e hea] at k3
          exact ⟨k1, k2, k3⟩
  obtain ⟨a, _, c⟩ := gen Block.engineList x (by decide)
  refine ⟨a, fun e he => c e ?_⟩
  have : e = 0 ∨ e = 1 ∨ e = 2 ∨ e = 3 ∨ e = 4 := by omega
  rcases this with h | h | h | h | h <;> subst h <;> decide

/-- A trap that nothing in the write-combining buffer delays is entered at once. -/
theorem trap_does (Y : State) (h cause tval : Nat) (h1 : (Y.hart h).streaming = false) (h0 : (Y.hart h).combine = none)
    (h2 : (Y.hart h).wc = []) (h3 : Y.wcUnacked h = false) (h4 : ¬(144 ≤ h ∧ (Y.hart h).inTrap = true)) :
    ∃ t, Y.trap h cause tval = t ∧ t = { Y with harts := t.harts, reserved := Y.reserved.erase h, retries := t.retries } ∧
    t.hart h = (Y.hart h).enter (decide (2 ^ 63 ≤ cause)) (cause % 2 ^ 63) (w64 tval) ∧ ∀ j, j ≠ h → t.hart j = Y.hart j := by
  obtain ⟨Z, hZ⟩ : ∃ Z, Y.endReservation h = Z := ⟨_, rfl⟩
  have hz : Z = { Y with reserved := Y.reserved.erase h, retries := Z.retries } := by rw [← hZ]; rfl
  have zh : ∀ j, Z.hart j = Y.hart j := fun j => by rw [hz]; rfl
  have zo : Z.out = Y.out := by rw [hz]
  have e0 : Y.trap h cause tval = (Z.waitFor h (.trap cause tval)).trapEnter h := by
    unfold State.trap
    rw [State.leaveStreaming_idle Y h h1 h0]
    simp only [hZ]
    exact if_neg (by rw [zh]; exact h4)
  obtain ⟨W, hW⟩ : ∃ W, Z.waitFor h (.trap cause tval) = W := ⟨_, rfl⟩
  have hw : W = Z.setHart h { Z.hart h with wait := .trap cause tval } := hW.symm
  have wh : W.hart h = { Y.hart h with wait := .trap cause tval } := by
    rw [hw, State.hart_setHart_self, zh]
  have wn : ∀ j, j ≠ h → W.hart j = Y.hart j := fun j hj => by rw [hw, State.hart_setHart_ne _ _ hj, zh]
  obtain ⟨X, hX⟩ : ∃ X : Hart, X = { Y.hart h with wait := .trap cause tval } := ⟨_, rfl⟩
  rw [← hX] at wh
  have wf : W.wcFlush h (fun _ => true) = W.setHart h X :=
    (State.wcFlush_idle W h (by rw [wh, hX]; exact h2) _).trans (by rw [wh])
  have wd : (W.setHart h X).wcDrained h = true := by
    unfold State.wcDrained State.wcUnacked
    have : (W.setHart h X).out = Y.out := by rw [hw, ← zo]; rfl
    rw [State.hart_setHart_self, this, hX]
    show ((Y.hart h).wc == [] && !Y.wcUnacked h) = true
    rw [h2, h3]; rfl
  have e1 : Y.trap h cause tval = (W.setHart h X).setHart h (X.enter (decide (2 ^ 63 ≤ cause)) (cause % 2 ^ 63) (w64 tval)) := by
    rw [e0, hW]
    unfold State.trapEnter
    rw [wh]
    simp only [hX]
    rw [← hX, State.leaveStreaming_idle W h (by rw [wh, hX]; exact h1) (by rw [wh, hX]; exact h0), wf]
    have wc : ((W.setHart h X).hart h).combine.isNone = true := by
      rw [State.hart_setHart_self, hX]; show (Y.hart h).combine.isNone = true; rw [h0]; rfl
    refine (if_pos (by rw [wd, wc]; rfl)).trans ?_
    unfold State.updHart
    rw [State.hart_setHart_self]
  refine ⟨_, e1, ?_, ?_, ?_⟩
  · unfold State.setHart
    rw [hw]; unfold State.setHart
    rw [hz]
  · rw [State.hart_setHart_self, hX]; rfl
  · intro j hj
    rw [State.hart_setHart_ne _ _ hj, State.hart_setHart_ne _ _ hj, wn j hj]

theorem unreadable_congr (v u : State) (h1 : u.hbm = v.hbm) (h2 : u.lpd = v.lpd) (h3 : u.groups = v.groups) (p : Nat) :
    u.unreadable p = v.unreadable p := by
  have g : ∀ r i, u.group r i = v.group r i := by intro r i; unfold State.group; rw [h3]
  have c : ∀ r i, u.hbmChannel r i = v.hbmChannel r i := by intro r i; unfold State.hbmChannel State.hbmWhere; rw [g]
  have c2 : ∀ r i, u.lpdPackage r i = v.lpdPackage r i := by intro r i; unfold State.lpdPackage State.lpdWhere; rw [g]
  have d : ∀ r, u.channel r = v.channel r := by intro r; unfold State.channel; rw [h1]
  have d2 : ∀ r, u.package r = v.package r := by intro r; unfold State.package; rw [h2]
  unfold State.unreadable
  simp only [g, c, c2, d, d2]

theorem regionLive_congr (v u : State) (h : u.lostRegions = v.lostRegions) (r : Nat) : u.regionLive r = v.regionLive r := by
  unfold State.regionLive; rw [h]

theorem memLine_congr (v u : State) (line : Nat) (h0 : u.mem = v.mem) (h1 : u.poison = v.poison) (h2 : u.hbm = v.hbm) (h3 : u.lpd = v.lpd)
    (h4 : u.groups = v.groups) (h5 : u.lostRegions = v.lostRegions) : u.memLine line = v.memLine line := by
  have a : ∀ p n, u.rdNat p n = v.rdNat p n := by intro p n; unfold State.rdNat State.rdBytes; rw [h0]
  unfold State.memLine
  simp only [a, unreadable_congr v u h2 h3 h4, regionLive_congr v u h5, h1]

theorem homeStatus_congr (v u : State) (a : Nat) (h2 : u.hbm = v.hbm) (h3 : u.lpd = v.lpd)
    (h4 : u.groups = v.groups) (h5 : u.lostRegions = v.lostRegions) : u.homeStatus a = v.homeStatus a := by
  unfold State.homeStatus
  simp only [unreadable_congr v u h2 h3 h4, regionLive_congr v u h5]

/-! ### Mailbox slots and the request in front -/

theorem leBytes_length (n v : Nat) : (leBytes n v).length = n := by
  induction n generalizing v with
  | zero => rfl
  | succ n ih => simp [leBytes, ih]

theorem leNat_leBytes (n v : Nat) : leNat (leBytes n v) = v % 256 ^ n := by
  induction n generalizing v with
  | zero => simp [leBytes, leNat, Nat.mod_one]
  | succ n ih =>
    simp only [leBytes, leNat, ih, BitVec.toNat_ofNat]
    show v % 256 + 256 * (v / 256 % 256 ^ n) = v % 256 ^ (n + 1)
    rw [Nat.pow_succ, Nat.mul_comm (256 ^ n) 256, Nat.mod_mul]

theorem slotServed_iff (s : State) (sl : Slot) : s.slotServed sl = true ↔ (sl = .host → s.mgmt.image.attached = true) := by
  unfold State.slotServed; cases sl <;> simp

theorem slotEvent_mgmt (s : State) (sl : Slot) (e : Event) : (s.slotEvent sl e).mgmt =
    (if s.slotServed sl = false then s else s.setMailbox sl (if 64 ≤ (s.mailbox sl).events.length then
      { s.mailbox sl with events := (s.mailbox sl).events.drop 1 ++ [e], dropped := min 0xFFFFFFFF ((s.mailbox sl).dropped + 1) }
      else { s.mailbox sl with events := (s.mailbox sl).events ++ [e] })).mgmt := by
  unfold State.slotEvent
  cases h : s.slotServed sl
  · rfl
  · exact (signalSlot_reports _ _ _).2

theorem mailbox_mgmt {s t : State} (h : s.mgmt = t.mgmt) (sl : Slot) : s.mailbox sl = t.mailbox sl := by
  unfold State.mailbox; rw [h]

theorem mailbox_set_self (s : State) (sl : Slot) (x : Mailbox) : (s.setMailbox sl x).mailbox sl = x := by cases sl <;> rfl

theorem mailbox_set_ne (s : State) (sl k : Slot) (x : Mailbox) (h : k ≠ sl) : (s.setMailbox sl x).mailbox k = s.mailbox k := by
  cases sl <;> cases k <;> first | rfl | exact absurd rfl h

theorem slotEvent_other (s : State) (sl k : Slot) (e : Event) (h : k ≠ sl) : (s.slotEvent sl e).mailbox k = s.mailbox k := by
  rw [mailbox_mgmt (slotEvent_mgmt s sl e)]
  split
  · rfl
  · exact mailbox_set_ne _ _ _ _ h

theorem slotEvent_self (s : State) (sl : Slot) (e : Event) : (s.slotEvent sl e).mailbox sl =
    if s.slotServed sl = false then s.mailbox sl else if 64 ≤ (s.mailbox sl).events.length then
      { s.mailbox sl with events := (s.mailbox sl).events.drop 1 ++ [e], dropped := min 0xFFFFFFFF ((s.mailbox sl).dropped + 1) }
      else { s.mailbox sl with events := (s.mailbox sl).events ++ [e] } := by
  rw [mailbox_mgmt (slotEvent_mgmt s sl e)]
  split
  · rfl
  · exact mailbox_set_self _ _ _

theorem slotEvent_served (s : State) (sl k : Slot) (e : Event) : (s.slotEvent sl e).slotServed k = s.slotServed k := by
  unfold State.slotServed; rw [(slotEvent_reports s sl e).2]

theorem event_mailbox (s : State) (c : Nat) (d : W64) (h : s.mgmt.state ≠ .off) (sl : Slot) : let x := s.mailbox sl
    let e : Event := { code := c, fret := s.fret % 2 ^ 32, data := d }
    (s.event c d).mailbox sl = if s.slotServed sl = false then x else if 64 ≤ x.events.length then
      { x with events := x.events.drop 1 ++ [e], dropped := min 0xFFFFFFFF (x.dropped + 1) } else { x with events := x.events ++ [e] } := by
  intro x e
  unfold State.event
  rw [if_neg h]
  dsimp only
  cases sl
  · rw [slotEvent_other _ _ _ _ (by decide), slotEvent_other _ _ _ _ (by decide), slotEvent_self]
  · rw [slotEvent_other _ _ _ _ (by decide), slotEvent_self, slotEvent_other _ _ _ _ (by decide), slotEvent_served]
  · rw [slotEvent_self, slotEvent_other _ _ _ _ (by decide), slotEvent_other _ _ _ _ (by decide), slotEvent_served, slotEvent_served]

theorem atHead_true (s : State) (sl : Slot) (m : Msg) (op : Nat) :
    s.atHead op sl m = true ↔ s.mgmt.state ≠ .off ∧ m.opcode = op ∧ ∃ rest, s.mgmt.requests = { slot := sl, msg := m } :: rest := by
  unfold State.atHead
  cases h : s.mgmt.requests with
  | nil => simp
  | cons q r =>
    obtain ⟨a, b, c⟩ := q
    simp only [Bool.and_eq_true, bne_iff_ne, beq_iff_eq, Option.isNone_iff_eq_none, List.cons.injEq, Request.mk.injEq]
    constructor
    · rintro ⟨⟨⟨⟨h1, h2⟩, h3⟩, h4⟩, h5⟩; exact ⟨h1, h5, r, ⟨h2, h3, h4⟩, rfl⟩
    · rintro ⟨h1, h5, r', ⟨h2, h3, h4⟩, _⟩; exact ⟨⟨⟨⟨h1, h2⟩, h3⟩, h4⟩, h5⟩

theorem answerHead_eq (s : State) (sl : Slot) (m : Msg) (rest : List Request) (r : Reply)
    (h : s.mgmt.requests = { slot := sl, msg := m } :: rest) : s.answerHead r = { s with mgmt := { s.mgmt with
      requests := { slot := sl, msg := m, answer := some (State.response m r) } :: rest } } := by
  unfold State.answerHead State.updMgmt; dsimp only; rw [h]

theorem execute_done (s : State) (sl : Slot) (m : Msg) (rest : List Request) (op : Nat) (rsv : Bool) (act : State → State × Reply)
    (h0 : s.mgmt.state ≠ .off) (h1 : s.mgmt.requests = { slot := sl, msg := m } :: rest) (h2 : m.rsvBad = false) (h3 : m.payload.length = m.length)
    (ho : m.opcode = op) (hl : cmdLength op m.length m = true) (hs : s.cmdLegal op = true) (hf : cmdFrom op sl = true) (hr : rsv = false) :
    s.execute op sl m rsv act = (act s).1.answerHead (act s).2 := by
  have a : s.atHead op sl m = true := (atHead_true ..).2 ⟨h0, ho, rest, h1⟩
  have b : s.cmdRefusal sl m rsv = stOK := by
    unfold State.cmdRefusal msgMalformed; rw [ho, hs, hf, hl, h2, h3, hr]; simp [firstCode]
  unfold State.execute; rw [if_neg (by rw [a]; decide)]; dsimp only; rw [if_neg (by rw [b]; simp)]

/-! ### Register addresses -/

theorem placeRaw_mmio (r o : Nat) (hr : r < 4) (ho : o < 0x100000000) :
    placeRaw (0xF00000000000 + r * 0x100000000 + o) = .mmio (r * 0x100000000 + o) := by
  generalize hx : 0xF00000000000 + r * 0x100000000 + o = x
  have h1 : 0xF00000000000 ≤ x := by omega
  have h2 : x < 0xF00400000000 := by omega
  have h3 : x - 0xF00000000000 = r * 0x100000000 + o := by omega
  have n1 : ¬ x < 0xC000000000 := by omega
  have n2 : ¬ (0x10000000000 ≤ x ∧ x < 0x28000000000) := by omega
  have n3 : ¬ (0x100000000000 ≤ x ∧ x < 0x200000000000) := by omega
  have n4 : ¬ (0x200000000000 ≤ x ∧ x < 0x300000000000) := by omega
  have n5 : ¬ (0xE00000000000 ≤ x ∧ x < 0xE00040000000) := by omega
  have n6 : ¬ (0xE10000000000 ≤ x ∧ x < 0xE10000400000) := by omega
  simp only [placeRaw, n1, n2, n3, n4, n5, n6, h1, h2, h3, if_true, if_false, and_self]

theorem live_lt {s : State} {r : Nat} (h : s.regionLive r = true) : r < 4 := by
  unfold State.regionLive at h; simp at h; exact h.1

theorem writeAddr_mmio (s : State) (ag : Agent) (a : Nat) (g : Nat) (v : W64) (h : placeRaw a = .mmio g) (h8 : g % 8 = 0) :
    s.writeAddr ag a v = s.regWrite ag g v := by
  unfold State.writeAddr; rw [h]; simp only [if_pos h8]

theorem misalignedAccess_mmio (s : State) (ag : Agent) (a size : Nat) (g : Nat) (w : Bool) (h : placeRaw a = .mmio g) (h8 : ¬(size = 8 ∧ g % 8 = 0)) :
    s.misalignedAccess ag a size w = if w then s.misaligned ag g else (s.misaligned ag g).deliver ag 0 := by
  unfold State.misalignedAccess; rw [h]; simp only [if_neg h8]

theorem writeReg_low (s : State) (ag : Agent) (g : Nat) (v : W64) (r o : Nat) (a1 : g / 0x100000000 = r) (a2 : g % 0x100000000 = o)
    (hr : s.regionLive r = true) : (o < 0x100000 → s.writeReg ag g v = s.writeCtl ag r o v) ∧
     (0x200000 ≤ o → o < 0x300000 → s.writeReg ag g v = s.writeKiln ag r o v) := by
  subst a1 a2
  unfold State.writeReg
  simp only [hr]
  refine ⟨fun h => ?_, fun h1 h2 => ?_⟩
  · simp [h]
  · have : ¬ g % 0x100000000 < 0x100000 := by omega
    have : ¬ g % 0x100000000 < 0x200000 := by omega
    simp [*]

/-! ### Count clears -/

theorem zeroRegs_all (l : List Reg) (s : State) : s.zeroRegs l = { s with regs := (s.zeroRegs l).regs } ∧
    ∀ g, (s.zeroRegs l).reg g = if g ∈ l then 0 else s.reg g := by
  induction l generalizing s with
  | nil => exact ⟨rfl, fun g => by simp [State.zeroRegs]⟩
  | cons a l ih =>
    obtain ⟨h1, h2⟩ := ih (s.setReg a 0)
    refine ⟨?_, fun g => ?_⟩
    · show (s.setReg a 0).zeroRegs l = _
      rw [h1]; rfl
    · show ((s.setReg a 0).zeroRegs l).reg g = _
      rw [h2]
      by_cases e : g = a
      · subst e; simp
      · simp [e, State.reg_setReg_ne _ _ e]

theorem countClear_all (s : State) (v : W64) (l : List Reg) : s.countClear v l = { s with regs := (s.countClear v l).regs } ∧
    ∀ g, (s.countClear v l).reg g = if v.getLsbD 0 = true ∧ g ∈ l then 0 else s.reg g := by
  unfold State.countClear bit
  split
  · rename_i h; obtain ⟨h1, h2⟩ := zeroRegs_all l s
    exact ⟨h1, fun g => by rw [h2]; simp [h]⟩
  · rename_i h; exact ⟨rfl, fun g => by rw [if_neg (fun c => h c.1)]⟩

end Sys2Proof.Machine
end

