-- ==== Sys2Proof/Laws/Keeps.lean ====
section
/-!
SUPPORT. What every operation of the module leaves true: the relation and how it composes.
-/
namespace Sys2Proof.Machine

/-- What every operation leaves true of a state `t` reached from `s`: the memory keeps its canonical form, the waiting commands
and the serial number stay, the sequence of the ledger does not go back and, where `q` holds, the fret counter stays. -/
structure Keeps (q : Prop) (s t : State) : Prop where
  mem : Memory.wf s.mem = true → Memory.wf t.mem = true
  pending : t.pending = s.pending
  serial : t.fab.serial = s.fab.serial
  seq : s.kiln.seq ≤ t.kiln.seq
  fret : q → t.fret = s.fret

theorem Keeps.refl {q s} : Keeps q s s := ⟨id, rfl, rfl, Nat.le_refl _, fun _ => rfl⟩

theorem Keeps.trans {q s t u} (h : Keeps q s t) (g : Keeps q t u) : Keeps q s u :=
  ⟨fun x => g.mem (h.mem x), g.pending.trans h.pending, g.serial.trans h.serial, Nat.le_trans h.seq g.seq, fun x => (g.fret x).trans (h.fret x)⟩

theorem Keeps.weak {q s t} (h : Keeps True s t) : Keeps q s t := ⟨h.mem, h.pending, h.serial, h.seq, fun _ => h.fret trivial⟩

theorem Keeps.of_hyp {q : Prop} {a b : State} (h : Keeps q a b) : Keeps q a b := h

theorem Keeps.of_pair {q : Prop} {a : State} {α : Type} {p : State × α} {s : State} {x : α} (e : p = (s, x)) (h : Keeps q a p.1) : Keeps q a s := by subst e; exact h

theorem Keeps.ite {q : Prop} {a s t : State} {c : Prop} [Decidable c] (h : Keeps q a s) (g : Keeps q a t) : Keeps q a (if c then s else t) := by
  split <;> assumption

theorem Keeps.iteP {q : Prop} {a : State} {α : Type} {s t : State × α} {c : Prop} [Decidable c] (h : Keeps q a s.1) (g : Keeps q a t.1) :
    Keeps q a (if c then s else t).1 := by
  split <;> assumption

theorem Keeps.fst {q : Prop} {a s : State} {α : Type} {x : α} (h : Keeps q a s) : Keeps q a (s, x).1 := h

theorem Keeps.foldl {q : Prop} {a : State} {α : Type} {l : List α} {f : State → α → State} {s : State}
    (hf : ∀ s x, Keeps q a s → Keeps q a (f s x)) (h : Keeps q a s) : Keeps q a (l.foldl f s) := by
  induction l generalizing s with
  | nil => exact h
  | cons x l ih => exact ih (hf _ _ h)

theorem Keeps.put {q : Prop} {a s : State} {v_regs : Map Reg W64} {v_mem : List Host.Cell} {v_poison : List Nat} {v_freeCount : Nat} {v_errLog : Map (Nat × Nat) LogEntry} {v_fret : Nat} {v_phaseNs : Nat} {v_period : Nat} {v_epochSet : Bool} {v_localEpoch : Bool} {v_lostRegions : List Nat} {v_master : Nat} {v_strictScope : Bool} {v_moduleId : Nat} {v_dies : Map (Nat × Nat) Die} {v_blocks : Map Nat Block} {v_evidence : Map (Nat × Nat) Evidence} {v_muteList : List Nat} {v_caches : Map (Nat × Nat) CLine} {v_evicting : Map (Nat × Nat) CLine} {v_dir : Map Nat Dir} {v_dirOrder : List Nat} {v_slc : List Nat} {v_slcDirty : List Nat} {v_icache : Map (Nat × Nat) Line} {v_gsCache : Map (Nat × Nat) Line} {v_txns : List Txn} {v_retries : List Retried} {v_engineData : Map Nat Line} {v_initDone : List Nat} {v_scrubbing : List Nat} {v_hbm : Map Nat Channel} {v_lpd : Map Nat Channel} {v_groups : Map (Nat × Nat) ChGroup} {v_headerGib : Nat} {v_pat : Map (Nat × Nat) (BitVec 128)} {v_patCache : List (Nat × Nat)} {v_rbqCache : List (Nat × Nat)} {v_reserved : Map Nat (Nat × Bool)} {v_pegs : Map Nat Peg} {v_carried : Map Nat (List Nat)} {v_casExp : Map (Nat × Nat) W64} {v_watches : Map WKey Watch} {v_gens : Map WKey Nat} {v_fired : List (Nat × Fired)} {v_heldEvents : List (Nat × Nat × QEvent)} {v_eventQ : Map Nat (List W64)} {v_arms : Map Nat ArmWindow} {v_harts : Map Nat Hart} {v_coresOn : Bool} {v_out : List OutReq} {v_nextTag : Nat} {v_answers : List Answer} {v_dma : Map (Nat × Nat) DmaChan} {v_arb : Map Nat Arb} {v_rbq : Map (Nat × Nat) (W64 × W64 × W64)} {v_outbox : List OutMsg} {v_hostPorts : Map Nat HostPort} {v_hostLog : Map (Nat × Nat) PortLog} {v_fabLog : Map (Nat × Nat) PortLog} {v_ports : Map Nat Port} {v_fab : Fab} {v_time : Time} {v_slot : Nat} {v_colls : Map (Nat × Nat) CollChan} {v_kiln : Kiln} {v_hostIn : List Instr} {v_inbox : List Packet} {v_reachable : List Nat} {v_iommuRoots : Map Nat Nat} {v_maintLast : Map Nat Nat} {v_maintNext : Map Nat Nat} {v_checking : Map Nat Nat} {v_patBusy : Map Nat PatCmd} {v_regNext : Map (Nat × Nat) W64} {v_buckets : Map (Nat × Nat) Nat} {v_nocHeld : List (Nat × CReq)} {v_markNs : Nat} {v_rails : Map (Nat × Nat) Rail} {v_domains : Map (Nat × Nat) Domain} {v_power : Power} {v_links : Map Nat Link} {v_thirds : List Third} {v_packs : Packs} {v_mgmt : Mgmt} (h : Keeps q a s)
    (hm : Memory.wf s.mem = true → Memory.wf v_mem = true) (hf : v_fab.serial = s.fab.serial) (hk : s.kiln.seq ≤ v_kiln.seq) (hr : q → v_fret = s.fret) :
    Keeps q a { pending := s.pending, regs := v_regs, mem := v_mem, poison := v_poison, freeCount := v_freeCount, errLog := v_errLog, fret := v_fret, phaseNs := v_phaseNs, period := v_period, epochSet := v_epochSet, localEpoch := v_localEpoch, lostRegions := v_lostRegions, master := v_master, strictScope := v_strictScope, moduleId := v_moduleId, dies := v_dies, blocks := v_blocks, evidence := v_evidence, muteList := v_muteList, caches := v_caches, evicting := v_evicting, dir := v_dir, dirOrder := v_dirOrder, slc := v_slc, slcDirty := v_slcDirty, icache := v_icache, gsCache := v_gsCache, txns := v_txns, retries := v_retries, engineData := v_engineData, initDone := v_initDone, scrubbing := v_scrubbing, hbm := v_hbm, lpd := v_lpd, groups := v_groups, headerGib := v_headerGib, pat := v_pat, patCache := v_patCache, rbqCache := v_rbqCache, reserved := v_reserved, pegs := v_pegs, carried := v_carried, casExp := v_casExp, watches := v_watches, gens := v_gens, fired := v_fired, heldEvents := v_heldEvents, eventQ := v_eventQ, arms := v_arms, harts := v_harts, coresOn := v_coresOn, out := v_out, nextTag := v_nextTag, answers := v_answers, dma := v_dma, arb := v_arb, rbq := v_rbq, outbox := v_outbox, hostPorts := v_hostPorts, hostLog := v_hostLog, fabLog := v_fabLog, ports := v_ports, fab := v_fab, time := v_time, slot := v_slot, colls := v_colls, kiln := v_kiln, hostIn := v_hostIn, inbox := v_inbox, reachable := v_reachable, iommuRoots := v_iommuRoots, maintLast := v_maintLast, maintNext := v_maintNext, checking := v_checking, patBusy := v_patBusy, regNext := v_regNext, buckets := v_buckets, nocHeld := v_nocHeld, markNs := v_markNs, rails := v_rails, domains := v_domains, power := v_power, links := v_links, thirds := v_thirds, packs := v_packs, mgmt := v_mgmt } :=
  ⟨fun x => hm (h.mem x), h.pending, hf.trans h.serial, Nat.le_trans h.seq hk, fun x => (hr x).trans (h.fret x)⟩

theorem checked_keeps {q : Prop} {wf : Bool} {s : State} {f : State → State} (hf : ∀ s', Keeps q s s' → Keeps q s (f s')) :
    ∀ t, checked wf s f = .next t → Keeps q s t := by
  intro t h
  unfold checked at h
  split at h
  · cases h; exact hf _ Keeps.refl
  · cases h; exact Keeps.refl

theorem railed_keeps {q : Prop} {wf : Bool} {s : State} {f : State → State} (hf : ∀ s', Keeps q s s' → Keeps q s (f s')) :
    ∀ t, railed wf s f = .next t → Keeps q s t :=
  checked_keeps fun s' h => Keeps.ite (hf _ h) h

/-- The state that an inbound request leaves. -/
def Served.Keeps (q : Prop) (a0 : State) : Served → Prop
  | .reply s _ _ => Machine.Keeps q a0 s
  | _ => True

/-- The state that an engine's read leaves. -/
def EngRead.Keeps (q : Prop) (a0 : State) : EngRead → Prop
  | .data s _ => Machine.Keeps q a0 s
  | .poison s _ _ _ => Machine.Keeps q a0 s
  | .fault s _ _ => Machine.Keeps q a0 s
  | .wait s => Machine.Keeps q a0 s

/-- The state that an engine's write leaves. -/
def EngWrite.Keeps (q : Prop) (a0 : State) : EngWrite → Prop
  | .done s _ => Machine.Keeps q a0 s
  | .fault s _ _ => Machine.Keeps q a0 s
  | .wait s => Machine.Keeps q a0 s

/-- The state that the plan of a row leaves. -/
def State.RowPlan.Keeps (q : Prop) (a0 : State) : State.RowPlan → Prop
  | .stop s _ _ => Machine.Keeps q a0 s
  | _ => True

theorem Keeps.foldlP {q : Prop} {a : State} {α β : Type} {l : List α} {f : State × β → α → State × β} {x : State × β}
    (hf : ∀ x y, Keeps q a x.1 → Keeps q a (f x y).1) (h : Keeps q a x.1) : Keeps q a (l.foldl f x).1 := by
  induction l generalizing x with
  | nil => exact h
  | cons y l ih => exact ih (hf _ _ h)

theorem Served.Keeps.reply {q : Prop} {a0 s : State} {x : Served} {st : Nat} {bs : List Byte} (h : x.Keeps q a0) (e : x = .reply s st bs) : Machine.Keeps q a0 s := by
  subst e; exact h

theorem EngRead.Keeps.data {q : Prop} {a0 s : State} {x : EngRead} {bs : List Byte} (h : x.Keeps q a0) (e : x = .data s bs) : Machine.Keeps q a0 s := by
  subst e; exact h

theorem EngRead.Keeps.poison {q : Prop} {a0 s : State} {x : EngRead} {va o : Nat} {bs : List Byte} (h : x.Keeps q a0) (e : x = .poison s va o bs) : Machine.Keeps q a0 s := by
  subst e; exact h

theorem EngRead.Keeps.fault {q : Prop} {a0 s : State} {x : EngRead} {st va : Nat} (h : x.Keeps q a0) (e : x = .fault s st va) : Machine.Keeps q a0 s := by
  subst e; exact h

theorem EngRead.Keeps.wait {q : Prop} {a0 s : State} {x : EngRead} (h : x.Keeps q a0) (e : x = .wait s) : Machine.Keeps q a0 s := by
  subst e; exact h

theorem EngWrite.Keeps.done {q : Prop} {a0 s : State} {x : EngWrite} {l : Option (Nat × Nat)} (h : x.Keeps q a0) (e : x = .done s l) : Machine.Keeps q a0 s := by
  subst e; exact h

theorem EngWrite.Keeps.fault {q : Prop} {a0 s : State} {x : EngWrite} {st va : Nat} (h : x.Keeps q a0) (e : x = .fault s st va) : Machine.Keeps q a0 s := by
  subst e; exact h

theorem EngWrite.Keeps.wait {q : Prop} {a0 s : State} {x : EngWrite} (h : x.Keeps q a0) (e : x = .wait s) : Machine.Keeps q a0 s := by
  subst e; exact h

theorem State.RowPlan.Keeps.stop {q : Prop} {a0 s : State} {x : State.RowPlan} {st : Nat} {d : W64} (h : x.Keeps q a0) (e : x = .stop s st d) : Machine.Keeps q a0 s := by
  subst e; exact h

theorem Keeps.put0 {q : Prop} {a s t : State} (h : Keeps q a s) (hm : t.mem = s.mem) (hp : t.pending = s.pending)
    (hf : t.fab.serial = s.fab.serial) (hk : t.kiln.seq = s.kiln.seq) (hr : t.fret = s.fret) : Keeps q a t :=
  ⟨fun x => hm ▸ h.mem x, hp.trans h.pending, hf.trans h.serial, hk ▸ h.seq, fun x => hr.trans (h.fret x)⟩

theorem Keeps.getD {q : Prop} {a0 s : State} {x : Option State} (hx : ∀ t, x = some t → Keeps q a0 t) (hs : Keeps q a0 s) :
    Keeps q a0 (x.getD s) := by
  cases x with
  | none => exact hs
  | some t => exact hx t rfl

theorem Keeps.foldlM {q : Prop} {a : State} {α : Type} {l : List α} {f : State → α → Option State}
    (hf : ∀ s x, Keeps q a s → ∀ t, f s x = some t → Keeps q a t) {s : State} (h : Keeps q a s) :
    ∀ t, l.foldlM f s = some t → Keeps q a t := by
  induction l generalizing s with
  | nil => intro t e; cases e; exact h
  | cons x l ih =>
    intro t e
    rw [List.foldlM_cons] at e
    obtain ⟨u, h1, h2⟩ := Option.bind_eq_some_iff.1 e
    exact ih (hf _ _ h _ h1) t h2

theorem Keeps.of_opt {q : Prop} {a t : State} {x : Option State} (e : x = some t) (h : ∀ t, x = some t → Keeps q a t) : Keeps q a t := h t e

theorem Keeps.of_some {q : Prop} {a s : State} {α : Type} {x : Option (State × α)} {y : α} (e : x = some (s, y))
    (h : ∀ t, x = some t → Keeps q a t.1) : Keeps q a s := h _ e

theorem Keeps.optMap {q : Prop} {a : State} {α : Type} {x : Option α} {f : α → State} (h : ∀ y, x = some y → Keeps q a (f y)) :
    ∀ t, x.map f = some t → Keeps q a t := by
  cases x with
  | none => intro t e; cases e
  | some y => intro t e; cases e; exact h y rfl

theorem Keeps.optMapP {q : Prop} {a : State} {α β : Type} {x : Option α} {f : α → State × β} (h : ∀ y, x = some y → Keeps q a (f y).1) :
    ∀ t, x.map f = some t → Keeps q a t.1 := by
  cases x with
  | none => intro t e; cases e
  | some y => intro t e; cases e; exact h y rfl

end Sys2Proof.Machine
end

