-- ==== Sys2Proof/Laws/KeepsOps1.lean ====
section
/-!
SUPPORT. Operations of the module, part 1 of 7: each leaves `Keeps` true.
-/
namespace Sys2Proof.Machine

theorem State.setReg_keeps {q : Prop} {a0 : State} (s : State) (g : Reg) (v : W64) (hs : Keeps q a0 s) :
    Keeps q a0 (State.setReg s g v) := by
  unfold State.setReg
  exact Keeps.put (by assumption) id rfl (Nat.le_refl _) fun _ => rfl

theorem State.setAll_keeps {q : Prop} {a0 : State} (s : State) (g : Nat → Reg) (v : W64) (hs : Keeps q a0 s) :
    Keeps q a0 (State.setAll s g v) := by
  unfold State.setAll
  with_reducible apply Keeps.foldl
  · intro s2 x2 hs2
    try dsimp -zeta only
    with_reducible apply State.setReg_keeps; assumption
  · assumption

theorem State.nextFree_keeps {q : Prop} {a0 : State} (s : State) (hs : Keeps q a0 s) :
    Keeps q a0 (State.nextFree s) := by
  unfold State.nextFree
  exact Keeps.put (by assumption) id rfl (Nat.le_refl _) fun _ => rfl

theorem State.noteCompletion_keeps {q : Prop} {a0 : State} (s : State) (tag : Nat) (status : Nat) (rows : Nat) (hs : Keeps q a0 s) :
    Keeps q a0 (State.noteCompletion s tag status rows) := by
  unfold State.noteCompletion
  split
  · with_reducible apply Keeps.ite
    · assumption
    · try extract_lets +onlyGivenNames x2
      try clear_value x2
      try extract_lets +onlyGivenNames x3
      try clear_value x3
      exact Keeps.put (by assumption) id rfl (Nat.le_refl _) fun _ => rfl
  · assumption

theorem State.zeroRegs_keeps {q : Prop} {a0 : State} (s : State) (a : List Reg) (hs : Keeps q a0 s) :
    Keeps q a0 (State.zeroRegs s a) := by
  induction a generalizing s with
  | nil => exact hs
  | cons g gs ih => exact ih _ (State.setReg_keeps _ _ _ hs)

theorem State.setPeg_keeps {q : Prop} {a0 : State} (s : State) (p : Nat) (x : Peg) (hs : Keeps q a0 s) :
    Keeps q a0 (State.setPeg s p x) := by
  unfold State.setPeg
  exact Keeps.put (by assumption) id rfl (Nat.le_refl _) fun _ => rfl

theorem State.addPoison_keeps {q : Prop} {a0 : State} (s : State) (w : Nat) (hs : Keeps q a0 s) :
    Keeps q a0 (State.addPoison s w) := by
  unfold State.addPoison
  with_reducible apply Keeps.ite
  · assumption
  · exact Keeps.put (by assumption) id rfl (Nat.le_refl _) fun _ => rfl

theorem State.bump_keeps {q : Prop} {a0 : State} (s : State) (g : Reg) (n : Nat) (hs : Keeps q a0 s) :
    Keeps q a0 (State.bump s g n) := by
  unfold State.bump
  with_reducible apply State.setReg_keeps; assumption

theorem State.wrBytes_keeps {q : Prop} {a0 : State} (s : State) (a : Nat) (bs : List Byte) (hs : Keeps q a0 s) :
    Keeps q a0 (s.wrBytes a bs) := by
  unfold State.wrBytes
  with_reducible apply Keeps.put
  · exact hs
  · exact Memory.writeList_wf _ _ _
  · rfl
  · exact Nat.le_refl _
  · exact fun _ => rfl

theorem State.wrNat_keeps {q : Prop} {a0 : State} (s : State) (a : Nat) (n : Nat) (v : Nat) (hs : Keeps q a0 s) :
    Keeps q a0 (State.wrNat s a n v) := by
  unfold State.wrNat
  with_reducible apply State.wrBytes_keeps; assumption

theorem State.setBlock_keeps {q : Prop} {a0 : State} (s : State) (b : Nat) (x : Block) (hs : Keeps q a0 s) :
    Keeps q a0 (State.setBlock s b x) := by
  unfold State.setBlock
  exact Keeps.put (by assumption) id rfl (Nat.le_refl _) fun _ => rfl

theorem State.updBlock_keeps {q : Prop} {a0 : State} (s : State) (b : Nat) (f : Block → Block) (hs : Keeps q a0 s) :
    Keeps q a0 (State.updBlock s b f) := by
  unfold State.updBlock
  with_reducible apply State.setBlock_keeps; assumption

theorem State.bumpFld_keeps {q : Prop} {a0 : State} (s : State) (g : Reg) (hi : Nat) (lo : Nat) (n : Nat) (hs : Keeps q a0 s) :
    Keeps q a0 (State.bumpFld s g hi lo n) := by
  unfold State.bumpFld
  with_reducible apply State.setReg_keeps; assumption

theorem State.delPoison_keeps {q : Prop} {a0 : State} (s : State) (ws : List Nat) (hs : Keeps q a0 s) :
    Keeps q a0 (State.delPoison s ws) := by
  unfold State.delPoison
  exact Keeps.put (by assumption) id rfl (Nat.le_refl _) fun _ => rfl

theorem State.log_keeps {q : Prop} {a0 : State} (s : State) (r : Nat) (status : Nat) (cause : Nat) (source : Nat) (addr : Nat) (detail : W64) (hs : Keeps q a0 s) :
    Keeps q a0 (State.log s r status cause source addr detail) := by
  unfold State.log
  try extract_lets +onlyGivenNames x1
  try clear_value x1
  try (extract_lets +onlyGivenNames x2
       have hx2 : Keeps q a0 x2 := by
         try dsimp -zeta only [x2]
         exact Keeps.put (by assumption) id rfl (Nat.le_refl _) fun _ => rfl
       clear_value x2)
  with_reducible apply State.bump_keeps; assumption

theorem State.freeWatch_keeps {q : Prop} {a0 : State} (s : State) (k : WKey) (hs : Keeps q a0 s) :
    Keeps q a0 (State.freeWatch s k) := by
  unfold State.freeWatch
  exact Keeps.put (by assumption) id rfl (Nat.le_refl _) fun _ => rfl

theorem State.releaseWatch_keeps {q : Prop} {a0 : State} (s : State) (k : WKey) (w : Watch) (reason : Nat) (hs : Keeps q a0 s) :
    Keeps q a0 (State.releaseWatch s k w reason) := by
  unfold State.releaseWatch
  try extract_lets +onlyGivenNames x1
  try clear_value x1
  try (extract_lets +onlyGivenNames x2
       have hx2 : Keeps q a0 x2 := by
         try dsimp -zeta only [x2]
         with_reducible apply State.freeWatch_keeps; assumption
       clear_value x2)
  try (extract_lets +onlyGivenNames x3
       have hx3 : Keeps q a0 x3 := by
         try dsimp -zeta only [x3]
         exact Keeps.put (by assumption) id rfl (Nat.le_refl _) fun _ => rfl
       clear_value x3)
  with_reducible apply State.bump_keeps; assumption

theorem State.releaseAll_keeps {q : Prop} {a0 : State} (s : State) (ws : List (WKey × Watch)) (reason : Nat) (hs : Keeps q a0 s) :
    Keeps q a0 (State.releaseAll s ws reason) := by
  unfold State.releaseAll
  with_reducible apply Keeps.foldl
  · intro s2 x2 hs2
    try dsimp -zeta only
    with_reducible apply State.releaseWatch_keeps; assumption
  · assumption

theorem State.fireWatches_keeps {q : Prop} {a0 : State} (s : State) (p : Nat) (hs : Keeps q a0 s) :
    Keeps q a0 (State.fireWatches s p) := by
  unfold State.fireWatches
  with_reducible apply State.releaseAll_keeps; assumption

theorem State.putPeg_keeps {q : Prop} {a0 : State} (s : State) (p : Nat) (x : Peg) (hs : Keeps q a0 s) :
    Keeps q a0 (State.putPeg s p x) := by
  unfold State.putPeg
  with_reducible apply State.fireWatches_keeps; with_reducible apply State.setPeg_keeps; assumption

theorem State.pegCas_keeps {q : Prop} {a0 : State} (s : State) (a : Agent) (p : Nat) (v : W64) (hs : Keeps q a0 s) :
    Keeps q a0 (State.pegCas s a p v) := by
  unfold State.pegCas
  with_reducible apply Keeps.ite
  · assumption
  · split
    · with_reducible apply Keeps.ite
      · with_reducible apply State.putPeg_keeps; assumption
      · assumption
    · with_reducible apply State.log_keeps; assumption

theorem State.setArm_keeps {q : Prop} {a0 : State} (s : State) (i : Nat) (w : ArmWindow) (hs : Keeps q a0 s) :
    Keeps q a0 (State.setArm s i w) := by
  unfold State.setArm
  exact Keeps.put (by assumption) id rfl (Nat.le_refl _) fun _ => rfl

theorem State.takeCarried_keeps {q : Prop} {a0 : State} (s : State) (a : Agent) (p : ℕ) (sc : ℕ) (hs : Keeps q a0 s) :
    Keeps q a0 (State.takeCarried s a p sc) := by
  unfold State.takeCarried
  extract_lets +onlyGivenNames x1
  clear_value x1
  split
  · rename_i v2 v3 v4
    with_reducible apply Keeps.ite
    · assumption
    · exact Keeps.put (by assumption) id rfl (Nat.le_refl _) fun _ => rfl
  · rename_i v5 v6
    assumption

theorem State.pegAcquire_keeps {q : Prop} {a0 : State} (s : State) (a : Agent) (p : ℕ) (sc : ℕ) (hs : Keeps q a0 s) :
    Keeps q a0 (State.pegAcquire s a p sc).1 := by
  unfold State.pegAcquire
  extract_lets +onlyGivenNames x1
  have hx1 : Keeps q a0 x1 := by
    dsimp -zeta -proj only [x1]
    with_reducible apply State.takeCarried_keeps
    assumption
  clear_value x1
  with_reducible apply Keeps.iteP
  · extract_lets +onlyGivenNames x2
    clear_value x2
    extract_lets +onlyGivenNames x3
    have hx3 : Keeps q a0 x3 := by
      dsimp -zeta -proj only [x3]
      with_reducible apply State.bump_keeps
      with_reducible apply State.setPeg_keeps
      assumption
    clear_value x3
    with_reducible apply Keeps.iteP
    · with_reducible apply Keeps.fst
      with_reducible apply State.log_keeps
      assumption
    · with_reducible apply Keeps.fst
      assumption
  · with_reducible apply Keeps.fst
    assumption

theorem State.logLostPeg_keeps {q : Prop} {a0 : State} (s : State) (a : Agent) (addr : Nat) (hs : Keeps q a0 s) :
    Keeps q a0 (State.logLostPeg s a addr) := by
  unfold State.logLostPeg
  with_reducible apply State.log_keeps; assumption

theorem State.pegRelAdd_keeps {q : Prop} {a0 : State} (s : State) (a : Agent) (p : Nat) (sc : Nat) (v : W64) (hs : Keeps q a0 s) :
    Keeps q a0 (State.pegRelAdd s a p sc v) := by
  unfold State.pegRelAdd
  with_reducible apply Keeps.ite
  · with_reducible apply State.putPeg_keeps; assumption
  · with_reducible apply State.logLostPeg_keeps; assumption

theorem State.pegStatusClear_keeps {q : Prop} {a0 : State} (s : State) (a : Agent) (p : Nat) (v : W64) (hs : Keeps q a0 s) :
    Keeps q a0 (State.pegStatusClear s a p v) := by
  unfold State.pegStatusClear
  with_reducible apply Keeps.ite
  · with_reducible apply State.logLostPeg_keeps; assumption
  · with_reducible apply Keeps.ite
    · with_reducible apply State.setPeg_keeps; assumption
    · assumption

theorem State.pegCasExpect_keeps {q : Prop} {a0 : State} (s : State) (a : Agent) (p : Nat) (v : W64) (hs : Keeps q a0 s) :
    Keeps q a0 (State.pegCasExpect s a p v) := by
  unfold State.pegCasExpect
  with_reducible apply Keeps.ite
  · with_reducible apply State.logLostPeg_keeps; assumption
  · split
    · exact Keeps.put (by assumption) id rfl (Nat.le_refl _) fun _ => rfl
    · with_reducible apply State.log_keeps; assumption

theorem State.pegSet_keeps {q : Prop} {a0 : State} (s : State) (a : Agent) (p : Nat) (v : W64) (hs : Keeps q a0 s) :
    Keeps q a0 (State.pegSet s a p v) := by
  unfold State.pegSet
  with_reducible apply Keeps.ite
  · with_reducible apply State.putPeg_keeps; assumption
  · with_reducible apply State.logLostPeg_keeps; assumption

theorem State.dropTarget_keeps {q : Prop} {a0 : State} (s : State) (h' : ℕ) (hs : Keeps q a0 s) :
    Keeps q a0 (State.dropTarget s h') := by
  unfold State.dropTarget
  extract_lets +onlyGivenNames x1
  clear_value x1
  extract_lets +onlyGivenNames x2
  have hx2 : Keeps q a0 x2 := by
    dsimp -zeta -proj only [x2]
    with_reducible apply Keeps.foldl
    · intro w3 w4 w5
      with_reducible apply State.freeWatch_keeps
      assumption
    · assumption
  clear_value x2
  extract_lets +onlyGivenNames x6
  clear_value x6
  extract_lets +onlyGivenNames x7
  have hx7 : Keeps q a0 x7 := by
    dsimp -zeta -proj only [x7]
    with_reducible apply Keeps.ite
    · assumption
    · exact Keeps.put (by assumption) id rfl (Nat.le_refl _) fun _ => rfl
  clear_value x7
  exact Keeps.put (by assumption) id rfl (Nat.le_refl _) fun _ => rfl

theorem State.watchCancel_keeps {q : Prop} {a0 : State} (s : State) (i : Nat) (v : W64) (hs : Keeps q a0 s) :
    Keeps q a0 (State.watchCancel s i v) := by
  unfold State.watchCancel
  split
  · split
    · with_reducible apply Keeps.ite
      · with_reducible apply State.setArm_keeps; with_reducible apply State.freeWatch_keeps; assumption
      · with_reducible apply State.setArm_keeps; assumption
    · with_reducible apply State.setArm_keeps; assumption

theorem State.pegAdd_keeps {q : Prop} {a0 : State} (s : State) (a : Agent) (p : Nat) (v : W64) (hs : Keeps q a0 s) :
    Keeps q a0 (State.pegAdd s a p v) := by
  unfold State.pegAdd
  with_reducible apply Keeps.ite
  · with_reducible apply State.putPeg_keeps; assumption
  · with_reducible apply State.logLostPeg_keeps; assumption

theorem State.signalPeg_keeps {q : Prop} {a0 : State} (s : State) (a : Agent) (p : Nat) (sc : Nat) (v : W64) (hs : Keeps q a0 s) :
    Keeps q a0 (State.signalPeg s a p sc v) := by
  unfold State.signalPeg
  with_reducible apply Keeps.ite
  · with_reducible apply State.pegRelAdd_keeps; assumption
  · with_reducible apply State.log_keeps; assumption

theorem State.armPush_keeps {q : Prop} {a0 : State} (s : State) (i : Nat) (armer : Nat) (v : W64) (hs : Keeps q a0 s) :
    Keeps q a0 (State.armPush s i armer v) := by
  unfold State.armPush
  try extract_lets +onlyGivenNames x1
  try clear_value x1
  try extract_lets +onlyGivenNames x2
  try clear_value x2
  try extract_lets +onlyGivenNames x3
  try clear_value x3
  split
  · with_reducible apply State.setArm_keeps; assumption
  · with_reducible apply Keeps.ite
    · with_reducible apply State.setArm_keeps; assumption
    · try extract_lets +onlyGivenNames x6
      try clear_value x6
      try (extract_lets +onlyGivenNames x7
           have hx7 : Keeps q a0 x7 := by
             try dsimp -zeta only [x7]
             with_reducible apply State.setArm_keeps; assumption
           clear_value x7)
      try (extract_lets +onlyGivenNames x8
           have hx8 : Keeps q a0 x8 := by
             try dsimp -zeta only [x8]
             with_reducible apply Keeps.ite
             · with_reducible apply State.bump_keeps; assumption
             · assumption
           clear_value x8)
      try (extract_lets +onlyGivenNames x9
           have hx9 : Keeps q a0 x9 := by
             try dsimp -zeta only [x9]
             exact Keeps.put (by assumption) id rfl (Nat.le_refl _) fun _ => rfl
           clear_value x9)
      with_reducible apply Keeps.ite
      · with_reducible apply State.releaseWatch_keeps; assumption
      · assumption

theorem State.watchMark_keeps {q : Prop} {a0 : State} (s : State) (hs : Keeps q a0 s) :
    Keeps q a0 (State.watchMark s) := by
  unfold State.watchMark
  try (extract_lets +onlyGivenNames x1
       have hx1 : Keeps q a0 x1 := by
         try dsimp -zeta only [x1]
         with_reducible apply State.releaseAll_keeps; assumption
       clear_value x1)
  exact Keeps.put (by assumption) id rfl (Nat.le_refl _) fun _ => rfl

theorem State.watchDue_keeps {q : Prop} {a0 : State} (s : State) (hs : Keeps q a0 s) :
    Keeps q a0 (State.watchDue s) := by
  unfold State.watchDue
  extract_lets +onlyGivenNames x1
  have hx1 : Keeps q a0 x1 := by
    dsimp -zeta -proj only [x1]
    with_reducible apply State.releaseAll_keeps
    assumption
  clear_value x1
  exact Keeps.put (by assumption) id rfl (Nat.le_refl _) fun _ => rfl

theorem State.slcFill_keeps {q : Prop} {a0 : State} (s : State) (line : ℕ) (dirty : Bool) (hs : Keeps q a0 s) :
    Keeps q a0 (State.slcFill s line dirty) := by
  unfold State.slcFill
  extract_lets +onlyGivenNames x1
  have hx1 : Keeps q a0 x1 := by
    dsimp -zeta -proj only [x1]
    with_reducible apply Keeps.ite
    · exact Keeps.put (by assumption) id rfl (Nat.le_refl _) fun _ => rfl
    · assumption
  clear_value x1
  with_reducible apply Keeps.ite
  · assumption
  · split
    · rename_i v2 v3 v4
      exact Keeps.put (by assumption) id rfl (Nat.le_refl _) fun _ => rfl
    · rename_i v5 v6
      exact Keeps.put (by assumption) id rfl (Nat.le_refl _) fun _ => rfl

theorem State.tableLookup_keeps {q : Prop} {a0 : State} (s : State) (held : List (ℕ × ℕ)) (cap : ℕ) (g : Reg) (e : ℕ × ℕ) (hs : Keeps q a0 s) :
    Keeps q a0 (State.tableLookup s held cap g e).1 := by
  unfold State.tableLookup
  with_reducible apply Keeps.iteP
  · with_reducible apply Keeps.fst
    assumption
  · extract_lets +onlyGivenNames x1
    have hx1 : Keeps q a0 x1 := by
      dsimp -zeta -proj only [x1]
      with_reducible apply State.bump_keeps
      assumption
    clear_value x1
    extract_lets +onlyGivenNames x2
    clear_value x2
    with_reducible apply Keeps.iteP
    · with_reducible apply Keeps.fst
      assumption
    · with_reducible apply Keeps.fst
      with_reducible apply State.nextFree_keeps
      assumption

theorem State.patLookup_keeps {q : Prop} {a0 : State} (s : State) (a : ℕ) (hs : Keeps q a0 s) :
    Keeps q a0 (State.patLookup s a) := by
  unfold State.patLookup
  split
  · rename_i v1 v2 v3
    split
    rename_i v4 v5 v6 v7
    have h8 : Keeps q a0 v5 := by
      refine Keeps.of_pair v7 ?_
      with_reducible apply State.tableLookup_keeps
      assumption
    exact Keeps.put (by assumption) id rfl (Nat.le_refl _) fun _ => rfl
  · rename_i v9 v10
    assumption

theorem State.clearCopyValid_keeps {q : Prop} {a0 : State} (s : State) (a : Nat) (hs : Keeps q a0 s) :
    Keeps q a0 (State.clearCopyValid s a) := by
  unfold State.clearCopyValid
  split
  · try extract_lets +onlyGivenNames x3
    try clear_value x3
    with_reducible apply Keeps.ite
    · exact Keeps.put (by assumption) id rfl (Nat.le_refl _) fun _ => rfl
    · assumption
  · assumption

theorem State.putLine_keeps {q : Prop} {a0 : State} (s : State) (line : Nat) (l : Line) (hs : Keeps q a0 s) :
    Keeps q a0 (State.putLine s line l) := by
  unfold State.putLine
  try (extract_lets +onlyGivenNames x1
       have hx1 : Keeps q a0 x1 := by
         try dsimp -zeta only [x1]
         with_reducible apply State.wrNat_keeps; assumption
       clear_value x1)
  with_reducible apply Keeps.foldl
  · intro s2 x2 hs2
    try dsimp -zeta only
    with_reducible apply State.addPoison_keeps; assumption
  · assumption

theorem State.rbqLookup_keeps {q : Prop} {a0 : State} (s : State) (r : ℕ) (slot : Option ℕ) (hs : Keeps q a0 s) :
    Keeps q a0 (State.rbqLookup s r slot) := by
  unfold State.rbqLookup
  split
  · rename_i v1 v2
    split
    rename_i v3 v4 v5 v6
    have h7 : Keeps q a0 v4 := by
      refine Keeps.of_pair v6 ?_
      with_reducible apply State.tableLookup_keeps
      assumption
    exact Keeps.put (by assumption) id rfl (Nat.le_refl _) fun _ => rfl
  · rename_i v8
    with_reducible apply State.bump_keeps
    assumption

theorem State.poisonLine_keeps {q : Prop} {a0 : State} (s : State) (line : Nat) (hs : Keeps q a0 s) :
    Keeps q a0 (State.poisonLine s line) := by
  unfold State.poisonLine
  with_reducible apply Keeps.foldl
  · intro s2 x2 hs2
    try dsimp -zeta only
    with_reducible apply State.addPoison_keeps; assumption
  · assumption

theorem State.countServe_keeps {q : Prop} {a0 : State} (s : State) (line : ℕ) (hs : Keeps q a0 s) :
    Keeps q a0 (State.countServe s line) := by
  unfold State.countServe
  with_reducible apply State.bump_keeps
  with_reducible apply State.patLookup_keeps
  assumption

theorem State.spend_keeps {q : Prop} {a0 : State} (s : State) (r : Nat) (u2 : Nat) (p : Nat) (hs : Keeps q a0 s) :
    Keeps q a0 (State.spend s r u2 p) := by
  unfold State.spend
  with_reducible apply Keeps.ite
  · assumption
  · exact Keeps.put (by assumption) id rfl (Nat.le_refl _) fun _ => rfl

theorem State.charge_keeps {q : Prop} {a0 : State} (s : State) (line : ℕ) (hs : Keeps q a0 s) :
    Keeps q a0 (State.charge s line) := by
  unfold State.charge
  split
  · rename_i v1 v2 v3
    with_reducible apply State.spend_keeps
    assumption
  · rename_i v4 v5
    assumption

theorem State.setCache_keeps {q : Prop} {a0 : State} (s : State) (k : Nat) (line : Nat) (c : Option CLine) (hs : Keeps q a0 s) :
    Keeps q a0 (State.setCache s k line c) := by
  unfold State.setCache
  exact Keeps.put (by assumption) id rfl (Nat.le_refl _) fun _ => rfl

theorem State.endDeferral_keeps {q : Prop} {a0 : State} (s : State) (h' : ℕ) (hs : Keeps q a0 s) :
    Keeps q a0 (State.endDeferral s h') := by
  unfold State.endDeferral
  exact Keeps.put (by assumption) id rfl (Nat.le_refl _) fun _ => rfl

theorem State.endReservation_keeps {q : Prop} {a0 : State} (s : State) (h' : ℕ) (hs : Keeps q a0 s) :
    Keeps q a0 (State.endReservation s h') := by
  unfold State.endReservation
  with_reducible apply State.endDeferral_keeps
  exact Keeps.put (by assumption) id rfl (Nat.le_refl _) fun _ => rfl

theorem State.dropCopy_keeps {q : Prop} {a0 : State} (s : State) (k : ℕ) (line : ℕ) (hs : Keeps q a0 s) :
    Keeps q a0 (State.dropCopy s k line) := by
  unfold State.dropCopy
  extract_lets +onlyGivenNames x1
  have hx1 : Keeps q a0 x1 := by
    dsimp -zeta -proj only [x1]
    with_reducible apply State.setCache_keeps
    assumption
  clear_value x1
  extract_lets +onlyGivenNames x2
  have hx2 : Keeps q a0 x2 := by
    dsimp -zeta -proj only [x2]
    with_reducible apply Keeps.ite
    · exact Keeps.put (by assumption) id rfl (Nat.le_refl _) fun _ => rfl
    · assumption
  clear_value x2
  with_reducible apply Keeps.ite
  · with_reducible apply State.endReservation_keeps
    assumption
  · assumption

theorem State.answerSnoop_keeps {q : Prop} {a0 : State} (s : State) (k : ℕ) (line : ℕ) (take : Bool) (hs : Keeps q a0 s) :
    Keeps q a0 (State.answerSnoop s k line take) := by
  unfold State.answerSnoop
  extract_lets +onlyGivenNames x1
  have hx1 : Keeps q a0 x1 := by
    dsimp -zeta -proj only [x1]
    split
    · rename_i v2 v3 v4 v5 v6
      exact Keeps.put (by assumption) id rfl (Nat.le_refl _) fun _ => rfl
    · rename_i v7 v8 v9
      assumption
  clear_value x1
  split
  · rename_i v10 v11 v12
    with_reducible apply Keeps.ite
    · with_reducible apply State.dropCopy_keeps
      assumption
    · with_reducible apply State.setCache_keeps
      assumption
  · rename_i v13 v14
    assumption

theorem State.setDir_keeps {q : Prop} {a0 : State} (s : State) (line : ℕ) (d : Option Dir) (hs : Keeps q a0 s) :
    Keeps q a0 (State.setDir s line d) := by
  unfold State.setDir
  split
  · rename_i v1 v2
    exact Keeps.put (by assumption) id rfl (Nat.le_refl _) fun _ => rfl
  · rename_i v3
    exact Keeps.put (by assumption) id rfl (Nat.le_refl _) fun _ => rfl

theorem State.logDiscard_keeps {q : Prop} {a0 : State} (s : State) (ag : Agent) (a : Nat) (st : Nat) (hs : Keeps q a0 s) :
    Keeps q a0 (State.logDiscard s ag a st) := by
  unfold State.logDiscard
  with_reducible apply Keeps.ite
  · with_reducible apply State.log_keeps; assumption
  · with_reducible apply State.log_keeps; assumption

theorem State.allocate_keeps {q : Prop} {a0 : State} (s : State) (line : ℕ) (dirty : Bool) (hs : Keeps q a0 s) :
    Keeps q a0 (State.allocate s line dirty) := by
  unfold State.allocate
  with_reducible apply State.slcFill_keeps
  with_reducible apply Keeps.ite
  · assumption
  · with_reducible apply State.spend_keeps
    assumption

theorem State.homeStore_keeps {q : Prop} {a0 : State} (s : State) (ag : Agent) (line : ℕ) (l : Line) (hs : Keeps q a0 s) :
    Keeps q a0 (State.homeStore s ag line l) := by
  unfold State.homeStore
  extract_lets +onlyGivenNames x1
  clear_value x1
  with_reducible apply Keeps.ite
  · with_reducible apply State.logDiscard_keeps
    assumption
  · with_reducible apply State.allocate_keeps
    with_reducible apply State.putLine_keeps
    assumption

theorem State.recallLine_keeps {q : Prop} {a0 : State} (s : State) (ag : Agent) (line : Nat) (take : Bool) (back : Bool) (hs : Keeps q a0 s) :
    Keeps q a0 (State.recallLine s ag line take back) := by
  unfold State.recallLine
  split
  · try extract_lets +onlyGivenNames x2
    try clear_value x2
    try (extract_lets +onlyGivenNames x3
         have hx3 : Keeps q a0 x3 := by
           try dsimp -zeta only [x3]
           with_reducible apply State.answerSnoop_keeps; assumption
         clear_value x3)
    try (extract_lets +onlyGivenNames x4
         have hx4 : Keeps q a0 x4 := by
           try dsimp -zeta only [x4]
           with_reducible apply State.setDir_keeps; assumption
         clear_value x4)
    split
    · with_reducible apply Keeps.ite
      · with_reducible apply State.bump_keeps; with_reducible apply State.homeStore_keeps; assumption
      · assumption
    · assumption
  · with_reducible apply Keeps.ite
    · with_reducible apply State.setDir_keeps
      · with_reducible apply Keeps.foldl
        · intro s2 x2 hs2
          try dsimp -zeta only
          with_reducible apply State.answerSnoop_keeps; assumption
        · assumption
    · assumption
  · assumption

theorem State.countPoison_keeps {q : Prop} {a0 : State} (s : State) (line : Nat) (l : Line) (hs : Keeps q a0 s) :
    Keeps q a0 (State.countPoison s line l) := by
  unfold State.countPoison
  with_reducible apply Keeps.ite
  · assumption
  · with_reducible apply State.bump_keeps; assumption

theorem State.cohRead_keeps {q : Prop} {a0 : State} (s : State) (ag : Agent) (line : Nat) (hs : Keeps q a0 s) :
    Keeps q a0 (State.cohRead s ag line).1 := by
  unfold State.cohRead
  try (extract_lets +onlyGivenNames x1
       have hx1 : Keeps q a0 x1 := by
         try dsimp -zeta only [x1]
         with_reducible apply State.countServe_keeps; with_reducible apply State.charge_keeps; with_reducible apply State.recallLine_keeps; assumption
       clear_value x1)
  try extract_lets +onlyGivenNames x2
  try clear_value x2
  show Keeps q a0 _
  try dsimp -zeta only
  with_reducible apply State.countPoison_keeps; assumption

theorem State.fill_keeps {q : Prop} {a0 : State} (s : State) (k : Nat) (line : Nat) (st : CState) (l : Line) (hs : Keeps q a0 s) :
    Keeps q a0 (State.fill s k line st l) := by
  unfold State.fill
  try (extract_lets +onlyGivenNames x1
       have hx1 : Keeps q a0 x1 := by
         try dsimp -zeta only [x1]
         with_reducible apply State.setCache_keeps; assumption
       clear_value x1)
  exact Keeps.put (by assumption) id rfl (Nat.le_refl _) fun _ => rfl

theorem State.serveC2C_keeps {q : Prop} {a0 : State} (s : State) (k : Nat) (line : Nat) (st : CState) (l : Line) (hs : Keeps q a0 s) :
    Keeps q a0 (State.serveC2C s k line st l) := by
  unfold State.serveC2C
  with_reducible apply State.fill_keeps; with_reducible apply State.countPoison_keeps; with_reducible apply State.bump_keeps; assumption

theorem State.serveHome_keeps {q : Prop} {a0 : State} (s : State) (k : ℕ) (line : ℕ) (st : CState) (hs : Keeps q a0 s) :
    Keeps q a0 (State.serveHome s k line st) := by
  unfold State.serveHome
  extract_lets +onlyGivenNames x1
  have hx1 : Keeps q a0 x1 := by
    dsimp -zeta -proj only [x1]
    with_reducible apply State.countServe_keeps
    with_reducible apply State.charge_keeps
    assumption
  clear_value x1
  extract_lets +onlyGivenNames x2
  clear_value x2
  with_reducible apply State.fill_keeps
  with_reducible apply State.allocate_keeps
  with_reducible apply State.countPoison_keeps
  assumption

theorem State.finishUnique_keeps {q : Prop} {a0 : State} (s : State) (k : Nat) (line : Nat) (fwd : Option (Line × Bool)) (hs : Keeps q a0 s) :
    Keeps q a0 (State.finishUnique s k line fwd) := by
  unfold State.finishUnique
  try (extract_lets +onlyGivenNames x1
       have hx1 : Keeps q a0 x1 := by
         try dsimp -zeta only [x1]
         split
         · with_reducible apply State.serveC2C_keeps; assumption
         · with_reducible apply State.serveHome_keeps; assumption
       clear_value x1)
  with_reducible apply State.setDir_keeps; assumption

theorem State.logPoison_keeps {q : Prop} {a0 : State} (s : State) (ag : Agent) (a : ℕ) (hs : Keeps q a0 s) :
    Keeps q a0 (State.logPoison s ag a) := by
  unfold State.logPoison
  with_reducible apply State.log_keeps
  assumption

theorem State.complete_keeps {q : Prop} {a0 : State} (s : State) (t : Txn) (hs : Keeps q a0 s) :
    Keeps q a0 (State.complete s t) := by
  unfold State.complete
  extract_lets +onlyGivenNames x1
  clear_value x1
  extract_lets +onlyGivenNames x2
  clear_value x2
  extract_lets +onlyGivenNames x3
  clear_value x3
  extract_lets +onlyGivenNames x4
  clear_value x4
  split
  · rename_i v5 v6 v7
    split
    · rename_i v8 v9 v10 v11
      extract_lets +onlyGivenNames x12
      have hx12 : Keeps q a0 x12 := by
        dsimp -zeta -proj only [x12]
        with_reducible apply Keeps.ite
        · with_reducible apply State.homeStore_keeps
          assumption
        · assumption
      clear_value x12
      with_reducible apply State.setDir_keeps
      with_reducible apply State.serveC2C_keeps
      assumption
    · rename_i v13 v14
      with_reducible apply Keeps.ite
      · with_reducible apply State.setDir_keeps
        with_reducible apply State.serveHome_keeps
        assumption
      · with_reducible apply State.setDir_keeps
        with_reducible apply State.serveHome_keeps
        assumption
  · rename_i v15 v16 v17
    with_reducible apply State.finishUnique_keeps
    assumption
  · rename_i v18 v19 v20
    split
    · rename_i v21 v22 v23 v24 v25
      with_reducible apply Keeps.ite
      · with_reducible apply State.setDir_keeps
        with_reducible apply State.setCache_keeps
        assumption
      · with_reducible apply State.finishUnique_keeps
        assumption
    · rename_i v26 v27 v28
      with_reducible apply State.finishUnique_keeps
      assumption
  · rename_i v29 v30 v31
    extract_lets +onlyGivenNames x32
    have hx32 : Keeps q a0 x32 := by
      dsimp -zeta -proj only [x32]
      exact Keeps.put (by assumption) id rfl (Nat.le_refl _) fun _ => rfl
    clear_value x32
    split
    · rename_i v33 v34 v35 v36 v37 v38
      with_reducible apply Keeps.ite
      · with_reducible apply State.setDir_keeps
        with_reducible apply State.homeStore_keeps
        assumption
      · assumption
    · rename_i v39 v40 v41
      assumption
  · rename_i v42 v43 v44
    extract_lets +onlyGivenNames x45
    have hx45 : Keeps q a0 x45 := by
      dsimp -zeta -proj only [x45]
      exact Keeps.put (by assumption) id rfl (Nat.le_refl _) fun _ => rfl
    clear_value x45
    split
    · rename_i v46 v47 v48
      with_reducible apply Keeps.ite
      · with_reducible apply State.setDir_keeps
        assumption
      · assumption
    · rename_i v49 v50
      assumption
  · rename_i v51 v52 v53
    extract_lets +onlyGivenNames x54
    have hx54 : Keeps q a0 x54 := by
      dsimp -zeta -proj only [x54]
      split
      · rename_i v55 v56 v57
        with_reducible apply State.bump_keeps
        with_reducible apply State.homeStore_keeps
        assumption
      · rename_i v58 v59
        assumption
    clear_value x54
    extract_lets +onlyGivenNames x60
    have hx60 : Keeps q a0 x60 := by
      dsimp -zeta -proj only [x60]
      with_reducible apply State.countServe_keeps
      with_reducible apply State.charge_keeps
      assumption
    clear_value x60
    extract_lets +onlyGivenNames x61
    clear_value x61
    extract_lets +onlyGivenNames x62
    have hx62 : Keeps q a0 x62 := by
      dsimp -zeta -proj only [x62]
      with_reducible apply State.countPoison_keeps
      assumption
    clear_value x62
    exact Keeps.put (by assumption) id rfl (Nat.le_refl _) fun _ => rfl
  · rename_i v63 v64 v65 v66
    extract_lets +onlyGivenNames x67
    have hx67 : Keeps q a0 x67 := by
      dsimp -zeta -proj only [x67]
      with_reducible apply State.countServe_keeps
      with_reducible apply State.charge_keeps
      with_reducible apply State.setDir_keeps
      assumption
    clear_value x67
    with_reducible apply State.homeStore_keeps
    assumption
  · rename_i v68 v69 v70 v71 v72
    extract_lets +onlyGivenNames x73
    have hx73 : Keeps q a0 x73 := by
      dsimp -zeta -proj only [x73]
      split
      · rename_i v74 v75 v76
        with_reducible apply State.bump_keeps
        with_reducible apply State.homeStore_keeps
        assumption
      · rename_i v77 v78
        assumption
    clear_value x73
    extract_lets +onlyGivenNames x79
    have hx79 : Keeps q a0 x79 := by
      dsimp -zeta -proj only [x79]
      with_reducible apply State.countServe_keeps
      with_reducible apply State.charge_keeps
      with_reducible apply State.setDir_keeps
      assumption
    clear_value x79
    with_reducible apply State.homeStore_keeps
    assumption
  · rename_i v80 v81 v82 v83 v84 v85 v86
    extract_lets +onlyGivenNames x87
    have hx87 : Keeps q a0 x87 := by
      dsimp -zeta -proj only [x87]
      split
      · rename_i v88 v89 v90
        with_reducible apply State.bump_keeps
        with_reducible apply State.homeStore_keeps
        assumption
      · rename_i v91 v92
        assumption
    clear_value x87
    extract_lets +onlyGivenNames x93
    have hx93 : Keeps q a0 x93 := by
      dsimp -zeta -proj only [x93]
      with_reducible apply State.countServe_keeps
      with_reducible apply State.charge_keeps
      with_reducible apply State.setDir_keeps
      assumption
    clear_value x93
    extract_lets +onlyGivenNames x94
    clear_value x94
    extract_lets +onlyGivenNames x95
    have hx95 : Keeps q a0 x95 := by
      dsimp -zeta -proj only [x95]
      with_reducible apply State.countPoison_keeps
      assumption
    clear_value x95
    extract_lets +onlyGivenNames x96
    have hx96 : Keeps q a0 x96 := by
      dsimp -zeta -proj only [x96]
      exact Keeps.put (by assumption) id rfl (Nat.le_refl _) fun _ => rfl
    clear_value x96
    with_reducible apply Keeps.ite
    · with_reducible apply State.logPoison_keeps
      assumption
    · with_reducible apply State.homeStore_keeps
      assumption
  · rename_i v97 v98
    extract_lets +onlyGivenNames x99
    have hx99 : Keeps q a0 x99 := by
      dsimp -zeta -proj only [x99]
      with_reducible apply Keeps.ite
      · with_reducible apply State.bump_keeps
        assumption
      · assumption
    clear_value x99
    extract_lets +onlyGivenNames x100
    have hx100 : Keeps q a0 x100 := by
      dsimp -zeta -proj only [x100]
      split
      · rename_i v101 v102 v103
        with_reducible apply State.homeStore_keeps
        assumption
      · rename_i v104 v105
        assumption
    clear_value x100
    with_reducible apply State.setDir_keeps
    assumption

theorem State.startFirst_keeps {q : Prop} {a0 : State} (s : State) (line : ℕ) (u2 : ℕ) (hs : Keeps q a0 s) :
    Keeps q a0 (State.startFirst s line u2) := by
  induction u2 generalizing s line
  case zero =>
    unfold State.startFirst
    assumption
  case succ k1 ih =>
    unfold State.startFirst
    split
    · rename_i v1 v2 v3
      with_reducible apply Keeps.ite
      · assumption
      · split
        · rename_i v4 v5 v6
          with_reducible apply Keeps.ite
          · assumption
          · exact Keeps.put (by assumption) id rfl (Nat.le_refl _) fun _ => rfl
        · rename_i v7 v8
          extract_lets +onlyGivenNames x9
          clear_value x9
          with_reducible apply Keeps.ite
          · extract_lets +onlyGivenNames x10
            have hx10 : Keeps q a0 x10 := by
              dsimp -zeta -proj only [x10]
              exact Keeps.put (by assumption) id rfl (Nat.le_refl _) fun _ => rfl
            clear_value x10
            with_reducible apply ih
            with_reducible apply State.complete_keeps
            assumption
          · exact Keeps.put (by assumption) id rfl (Nat.le_refl _) fun _ => rfl
    · rename_i v11 v12
      assumption

theorem State.startAll_keeps {q : Prop} {a0 : State} (s : State) (u1 : ℕ) (hs : Keeps q a0 s) :
    Keeps q a0 (State.startAll s u1) := by
  induction u1 generalizing s
  case zero =>
    unfold State.startAll
    assumption
  case succ k1 ih =>
    unfold State.startAll
    with_reducible apply ih
    with_reducible apply Keeps.foldl
    · intro w1 w2 w3
      with_reducible apply State.startFirst_keeps
      assumption
    · assumption

theorem State.homeComplete_keeps {q : Prop} {a0 : State} (s : State) (line : ℕ) (hs : Keeps q a0 s) :
    Keeps q a0 (State.homeComplete s line) := by
  unfold State.homeComplete
  split
  · rename_i v1 v2 v3
    extract_lets +onlyGivenNames x4
    have hx4 : Keeps q a0 x4 := by
      dsimp -zeta -proj only [x4]
      exact Keeps.put (by assumption) id rfl (Nat.le_refl _) fun _ => rfl
    clear_value x4
    with_reducible apply Keeps.ite
    · with_reducible apply State.startAll_keeps
      with_reducible apply State.complete_keeps
      assumption
    · assumption
  · rename_i v5 v6
    assumption

theorem State.retry_keeps {q : Prop} {a0 : State} (s : State) (line : Nat) (u2 : CReq) (deferrer : Option Nat) (hs : Keeps q a0 s) :
    Keeps q a0 (State.retry s line u2 deferrer) := by
  unfold State.retry
  try (extract_lets +onlyGivenNames x1
       have hx1 : Keeps q a0 x1 := by
         try dsimp -zeta only [x1]
         with_reducible apply State.bump_keeps; assumption
       clear_value x1)
  exact Keeps.put (by assumption) id rfl (Nat.le_refl _) fun _ => rfl

theorem State.takeAnswer_keeps {q : Prop} {a0 : State} (s : State) (t : Txn) (k : ℕ) (hs : Keeps q a0 s) :
    Keeps q a0 (State.takeAnswer s t k) := by
  unfold State.takeAnswer
  extract_lets +onlyGivenNames x1
  clear_value x1
  extract_lets +onlyGivenNames x2
  clear_value x2
  extract_lets +onlyGivenNames x3
  clear_value x3
  extract_lets +onlyGivenNames x4
  have hx4 : Keeps q a0 x4 := by
    dsimp -zeta -proj only [x4]
    with_reducible apply State.answerSnoop_keeps
    assumption
  clear_value x4
  extract_lets +onlyGivenNames x5
  have hx5 : Keeps q a0 x5 := by
    dsimp -zeta -proj only [x5]
    split
    · rename_i v6 v7 v8
      with_reducible apply Keeps.ite
      · with_reducible apply State.setDir_keeps
        assumption
      · assumption
    · rename_i v9 v10 v11 v12
      with_reducible apply Keeps.ite
      · with_reducible apply State.setDir_keeps
        assumption
      · assumption
    · rename_i v13 v14
      assumption
  clear_value x5
  exact Keeps.put (by assumption) id rfl (Nat.le_refl _) fun _ => rfl

theorem State.snoop_keeps {q : Prop} {a0 : State} (s : State) (k : ℕ) (line : ℕ) (hs : Keeps q a0 s) :
    Keeps q a0 (State.snoop s k line) := by
  unfold State.snoop
  split
  · rename_i v1 v2 v3
    with_reducible apply Keeps.ite
    · assumption
    · with_reducible apply Keeps.ite
      · with_reducible apply Keeps.ite
        · assumption
        · extract_lets +onlyGivenNames x4
          have hx4 : Keeps q a0 x4 := by
            dsimp -zeta -proj only [x4]
            exact Keeps.put (by assumption) id rfl (Nat.le_refl _) fun _ => rfl
          clear_value x4
          with_reducible apply State.startAll_keeps
          with_reducible apply State.retry_keeps
          assumption
      · with_reducible apply State.takeAnswer_keeps
        assumption
  · rename_i v5 v6
    assumption

theorem State.drainFirst_keeps {q : Prop} {a0 : State} (s : State) (line : ℕ) (hs : Keeps q a0 s) :
    Keeps q a0 (State.drainFirst s line) := by
  unfold State.drainFirst
  split
  · rename_i v1 v2 v3
    with_reducible apply State.homeComplete_keeps
    with_reducible apply Keeps.foldl
    · intro w4 w5 w6
      with_reducible apply State.snoop_keeps
      assumption
    · assumption
  · rename_i v7 v8
    assumption

theorem State.drainLine_keeps {q : Prop} {a0 : State} (s : State) (line : ℕ) (u2 : ℕ) (hs : Keeps q a0 s) :
    Keeps q a0 (State.drainLine s line u2) := by
  induction u2 generalizing s line
  case zero =>
    unfold State.drainLine
    assumption
  case succ k1 ih =>
    unfold State.drainLine
    split
    · rename_i v1 v2 v3
      with_reducible apply ih
      with_reducible apply Keeps.ite
      · with_reducible apply State.drainFirst_keeps
        assumption
      · extract_lets +onlyGivenNames x4
        have hx4 : Keeps q a0 x4 := by
          dsimp -zeta -proj only [x4]
          with_reducible apply State.startFirst_keeps
          assumption
        clear_value x4
        split
        · rename_i v5 v6 v7
          with_reducible apply State.drainFirst_keeps
          with_reducible apply State.startFirst_keeps
          assumption
        · rename_i v8 v9
          assumption
    · rename_i v10 v11
      assumption

theorem State.engineRead_keeps {q : Prop} {a0 : State} (s : State) (ag : Agent) (line : Nat) (hs : Keeps q a0 s) :
    Keeps q a0 (State.engineRead s ag line).1 := by
  unfold State.engineRead
  with_reducible apply State.cohRead_keeps; with_reducible apply State.drainLine_keeps; assumption

theorem State.cohWrite_keeps {q : Prop} {a0 : State} (s : State) (ag : Agent) (line : ℕ) (new : BitVec 1024) (m : BitVec 128) (hs : Keeps q a0 s) :
    Keeps q a0 (State.cohWrite s ag line new m).1 := by
  unfold State.cohWrite
  extract_lets +onlyGivenNames x1
  clear_value x1
  with_reducible apply Keeps.iteP
  · with_reducible apply Keeps.fst
    with_reducible apply State.logDiscard_keeps
    assumption
  · extract_lets +onlyGivenNames x2
    have hx2 : Keeps q a0 x2 := by
      dsimp -zeta -proj only [x2]
      with_reducible apply State.clearCopyValid_keeps
      assumption
    clear_value x2
    extract_lets +onlyGivenNames x3
    have hx3 : Keeps q a0 x3 := by
      dsimp -zeta -proj only [x3]
      with_reducible apply State.countServe_keeps
      with_reducible apply State.charge_keeps
      with_reducible apply State.recallLine_keeps
      assumption
    clear_value x3
    with_reducible apply Keeps.fst
    with_reducible apply State.allocate_keeps
    with_reducible apply State.putLine_keeps
    assumption

theorem State.engineWrite_keeps {q : Prop} {a0 : State} (s : State) (ag : Agent) (line : Nat) (d : BitVec 1024) (m : BitVec 128) (hs : Keeps q a0 s) :
    Keeps q a0 (State.engineWrite s ag line d m).1 := by
  unfold State.engineWrite
  with_reducible apply State.cohWrite_keeps; with_reducible apply State.drainLine_keeps; assumption

theorem State.answerLost_keeps {q : Prop} {a0 : State} (s : State) (line : ℕ) (q' : CReq) (hs : Keeps q a0 s) :
    Keeps q a0 (State.answerLost s line q') := by
  unfold State.answerLost
  split
  · rename_i v1 v2
    exact Keeps.put (by assumption) id rfl (Nat.le_refl _) fun _ => rfl
  · rename_i v3 v4 v5 v6 v7 v8
    exact Keeps.put (by assumption) id rfl (Nat.le_refl _) fun _ => rfl
  · rename_i v9 v10 v11
    with_reducible apply State.logDiscard_keeps
    assumption
  · rename_i v12 v13 v14 v15
    with_reducible apply State.logDiscard_keeps
    assumption
  · rename_i v16 v17 v18 v19 v20
    assumption

theorem State.accept_keeps {q : Prop} {a0 : State} (s : State) (line : ℕ) (q' : CReq) (credit : Bool) (hs : Keeps q a0 s) :
    Keeps q a0 (State.accept s line q' credit) := by
  unfold State.accept
  extract_lets +onlyGivenNames x1
  have hx1 : Keeps q a0 x1 := by
    dsimp -zeta -proj only [x1]
    with_reducible apply Keeps.ite
    · with_reducible apply State.clearCopyValid_keeps
      assumption
    · assumption
  clear_value x1
  extract_lets +onlyGivenNames x2
  have hx2 : Keeps q a0 x2 := by
    dsimp -zeta -proj only [x2]
    exact Keeps.put (by assumption) id rfl (Nat.le_refl _) fun _ => rfl
  clear_value x2
  with_reducible apply State.startAll_keeps
  assumption

theorem State.offer_keeps {q : Prop} {a0 : State} (s : State) (line : ℕ) (q' : CReq) (hs : Keeps q a0 s) :
    Keeps q a0 (State.offer s line q') := by
  unfold State.offer
  with_reducible apply Keeps.ite
  · with_reducible apply State.retry_keeps
    assumption
  · with_reducible apply State.accept_keeps
    assumption

theorem State.offerHeld_keeps {q : Prop} {a0 : State} (s : State) (r : ℕ) (hs : Keeps q a0 s) :
    Keeps q a0 (State.offerHeld s r) := by
  unfold State.offerHeld
  extract_lets +onlyGivenNames x1
  clear_value x1
  with_reducible apply Keeps.foldl
  · intro w2 w3 w4
    split
    rename_i v5 v6 v7
    split
    · rename_i v8 v9 v10
      with_reducible apply State.nextFree_keeps
      with_reducible apply State.bump_keeps
      assumption
    · rename_i v11 v12
      with_reducible apply State.offer_keeps
      exact Keeps.put (by assumption) id rfl (Nat.le_refl _) fun _ => rfl
  · assumption

theorem State.readWith_keeps {q : Prop} {a0 : State} (s : State) (rd : State → ℕ → State × Line) (a : ℕ) (n : ℕ) (hs : Keeps q a0 s) (hrd : ∀ w0 w1, Keeps q a0 w0 → Keeps q a0 (rd w0 w1).1) :
    Keeps q a0 (State.readWith s rd a n).1 := by
  unfold State.readWith
  with_reducible apply Keeps.foldlP
  · intro w1 w2 w3
    split
    rename_i v4 v5 v6 v7
    extract_lets +onlyGivenNames x8
    clear_value x8
    extract_lets +onlyGivenNames x9
    clear_value x9
    split
    rename_i v10 v11 v12 v13
    have h14 : Keeps q a0 v11 := by
      refine Keeps.of_pair v13 ?_
      with_reducible apply hrd
      assumption
    extract_lets +onlyGivenNames x15
    clear_value x15
    with_reducible apply Keeps.fst
    assumption
  · with_reducible apply Keeps.fst
    assumption

theorem State.cohAtomic_keeps {q : Prop} {a0 : State} (s : State) (ag : Agent) (line : ℕ) (off : ℕ) (size : ℕ) (op : AtomOp) (v : ℕ) (hs : Keeps q a0 s) :
    Keeps q a0 (State.cohAtomic s ag line off size op v).1 := by
  unfold State.cohAtomic
  extract_lets +onlyGivenNames x1
  clear_value x1
  with_reducible apply Keeps.iteP
  · with_reducible apply Keeps.fst
    with_reducible apply State.logPoison_keeps
    assumption
  · with_reducible apply Keeps.iteP
    · with_reducible apply Keeps.fst
      with_reducible apply State.logDiscard_keeps
      assumption
    · extract_lets +onlyGivenNames x2
      have hx2 : Keeps q a0 x2 := by
        dsimp -zeta -proj only [x2]
        with_reducible apply State.clearCopyValid_keeps
        assumption
      clear_value x2
      extract_lets +onlyGivenNames x3
      have hx3 : Keeps q a0 x3 := by
        dsimp -zeta -proj only [x3]
        with_reducible apply State.countServe_keeps
        with_reducible apply State.charge_keeps
        with_reducible apply State.recallLine_keeps
        assumption
      clear_value x3
      extract_lets +onlyGivenNames x4
      clear_value x4
      extract_lets +onlyGivenNames x5
      have hx5 : Keeps q a0 x5 := by
        dsimp -zeta -proj only [x5]
        with_reducible apply State.countPoison_keeps
        assumption
      clear_value x5
      with_reducible apply Keeps.iteP
      · with_reducible apply Keeps.fst
        with_reducible apply State.logPoison_keeps
        assumption
      · with_reducible apply Keeps.fst
        with_reducible apply State.allocate_keeps
        with_reducible apply State.putLine_keeps
        assumption

theorem State.readBytes_keeps {q : Prop} {a0 : State} (s : State) (ag : Agent) (a n : Nat) (hs : Keeps q a0 s) :
    Keeps q a0 (State.readBytes s ag a n).1 := by
  unfold State.readBytes
  exact Keeps.foldlP (fun _ _ h => State.engineRead_keeps _ _ _ h) hs

theorem State.writeBytes_keeps {q : Prop} {a0 : State} (s : State) (ag : Agent) (a : Nat) (bs : List Byte) (hs : Keeps q a0 s) :
    Keeps q a0 (State.writeBytes s ag a bs).1 := by
  unfold State.writeBytes
  exact Keeps.foldlP (fun _ _ h => State.engineWrite_keeps _ _ _ _ _ h) hs

theorem State.dropHolder_keeps {q : Prop} {a0 : State} (s : State) (k : ℕ) (hs : Keeps q a0 s) :
    Keeps q a0 (State.dropHolder s k) := by
  unfold State.dropHolder
  extract_lets +onlyGivenNames x1
  clear_value x1
  exact Keeps.put (by assumption) id rfl (Nat.le_refl _) fun _ => rfl

theorem State.loseCache_keeps {q : Prop} {a0 : State} (s : State) (k : ℕ) (hs : Keeps q a0 s) :
    Keeps q a0 (State.loseCache s k) := by
  unfold State.loseCache
  extract_lets +onlyGivenNames x1
  clear_value x1
  extract_lets +onlyGivenNames x2
  clear_value x2
  extract_lets +onlyGivenNames x3
  clear_value x3
  extract_lets +onlyGivenNames x4
  clear_value x4
  extract_lets +onlyGivenNames x5
  have hx5 : Keeps q a0 x5 := by
    dsimp -zeta -proj only [x5]
    with_reducible apply Keeps.foldl
    · intro w6 w7 w8
      split
      · rename_i v9 v10 v11
        with_reducible apply State.homeStore_keeps
        assumption
      · rename_i v12 v13
        assumption
    · assumption
  clear_value x5
  extract_lets +onlyGivenNames x14
  have hx14 : Keeps q a0 x14 := by
    dsimp -zeta -proj only [x14]
    exact Keeps.put (by assumption) id rfl (Nat.le_refl _) fun _ => rfl
  clear_value x14
  extract_lets +onlyGivenNames x15
  have hx15 : Keeps q a0 x15 := by
    dsimp -zeta -proj only [x15]
    with_reducible apply State.dropHolder_keeps
    with_reducible apply State.endReservation_keeps
    assumption
  clear_value x15
  extract_lets +onlyGivenNames x16
  have hx16 : Keeps q a0 x16 := by
    dsimp -zeta -proj only [x16]
    with_reducible apply Keeps.foldl
    · intro w17 w18 w19
      with_reducible apply State.bump_keeps
      with_reducible apply State.poisonLine_keeps
      assumption
    · assumption
  clear_value x16
  with_reducible apply State.startAll_keeps
  assumption

theorem State.request_keeps {q : Prop} {a0 : State} (s : State) (line : ℕ) (q' : CReq) (hs : Keeps q a0 s) :
    Keeps q a0 (State.request s line q') := by
  unfold State.request
  extract_lets +onlyGivenNames x1
  clear_value x1
  with_reducible apply Keeps.ite
  · assumption
  · with_reducible apply Keeps.ite
    · with_reducible apply State.answerLost_keeps
      assumption
    · with_reducible apply Keeps.ite
      · assumption
      · with_reducible apply Keeps.ite
        · exact Keeps.put (by assumption) id rfl (Nat.le_refl _) fun _ => rfl
        · with_reducible apply State.offer_keeps
          assumption

theorem State.evict_keeps {q : Prop} {a0 : State} (s : State) (k : ℕ) (line : ℕ) (st : CState) (hs : Keeps q a0 s) :
    Keeps q a0 (State.evict s k line st) := by
  unfold State.evict
  split
  · rename_i v1 v2 v3
    with_reducible apply Keeps.ite
    · extract_lets +onlyGivenNames x4
      have hx4 : Keeps q a0 x4 := by
        dsimp -zeta -proj only [x4]
        with_reducible apply State.dropCopy_keeps
        assumption
      clear_value x4
      with_reducible apply Keeps.ite
      · assumption
      · extract_lets +onlyGivenNames x5
        have hx5 : Keeps q a0 x5 := by
          dsimp -zeta -proj only [x5]
          exact Keeps.put (by assumption) id rfl (Nat.le_refl _) fun _ => rfl
        clear_value x5
        with_reducible apply State.request_keeps
        assumption
    · assumption
  · rename_i v6 v7
    assumption

theorem State.makeRoom_keeps {q : Prop} {a0 : State} (s : State) (k : ℕ) (line : ℕ) (victim : Option ℕ) (hs : Keeps q a0 s) :
    ∀ t, (State.makeRoom s k line victim) = some t → Keeps q a0 t := by
  unfold State.makeRoom
  extract_lets +onlyGivenNames x1
  clear_value x1
  extract_lets +onlyGivenNames x2
  clear_value x2
  split
  · rename_i v3
    intro t e
    cases e
    assumption
  · rename_i v4
    extract_lets +onlyGivenNames x5
    clear_value x5
    split
    · rename_i v6
      intro t e
      cases e
      assumption
    · rename_i v7
      split
      · rename_i v8 v9
        intro t e
        cases e
      · rename_i v10 v11 v12
        split
        · rename_i v13 v14
          intro t e
          cases e
        · rename_i v15 v16 v17
          split
          · rename_i v18
            intro t e
            cases e
            with_reducible apply State.nextFree_keeps
            with_reducible apply State.dropCopy_keeps
            assumption
          · rename_i v19
            split
            · rename_i v20
              intro t e
              cases e
              with_reducible apply State.nextFree_keeps
              with_reducible apply State.evict_keeps
              assumption
            · rename_i v21
              intro t e
              cases e

theorem State.coreRequest_keeps {q : Prop} {a0 : State} (s : State) (line : ℕ) (q' : CReq) (victim : Option ℕ) (hs : Keeps q a0 s) :
    Keeps q a0 (State.coreRequest s line q' victim) := by
  unfold State.coreRequest
  extract_lets +onlyGivenNames x1
  clear_value x1
  extract_lets +onlyGivenNames x2
  clear_value x2
  with_reducible apply Keeps.ite
  · assumption
  · split
    · rename_i v3 v4 v5
      with_reducible apply Keeps.ite
      · with_reducible apply State.request_keeps
        assumption
      · assumption
    · rename_i v6 v7
      split
      · rename_i v8 v9 v10
        have h11 : Keeps q a0 v9 := by
          refine Keeps.of_opt v10 ?_
          with_reducible apply State.makeRoom_keeps
          assumption
        with_reducible apply State.request_keeps
        assumption
      · rename_i v12 v13
        assumption

theorem State.invalidationDone_keeps {q : Prop} {a0 : State} (s : State) (r : Nat) (hs : Keeps q a0 s) :
    Keeps q a0 (State.invalidationDone s r) := by
  unfold State.invalidationDone
  with_reducible apply Keeps.ite
  · assumption
  · exact Keeps.put (by assumption) id rfl (Nat.le_refl _) fun _ => rfl

theorem State.gsReadLine_keeps {q : Prop} {a0 : State} (s : State) (b : ℕ) (ag : Agent) (line : ℕ) (hs : Keeps q a0 s) :
    Keeps q a0 (State.gsReadLine s b ag line).1 := by
  unfold State.gsReadLine
  extract_lets +onlyGivenNames x1
  have hx1 : ∀ w0, Keeps q a0 w0 → Keeps q a0 (x1 w0).1 := by
    dsimp -zeta -proj only [x1]
    intro w2 w3
    extract_lets +onlyGivenNames x4
    clear_value x4
    extract_lets +onlyGivenNames x5
    clear_value x5
    with_reducible apply Keeps.fst
    refine Keeps.put ?_ id (by with_reducible rfl) (by with_reducible rfl) fun _ => (by with_reducible rfl)
    with_reducible apply State.engineRead_keeps
    assumption
  clear_value x1
  with_reducible apply Keeps.iteP
  · with_reducible apply State.engineRead_keeps
    assumption
  · split
    · rename_i v6 v7 v8
      with_reducible apply Keeps.iteP
      · with_reducible apply Keeps.fst
        with_reducible apply State.nextFree_keeps
        assumption
      · with_reducible apply hx1
        assumption
    · rename_i v9 v10
      with_reducible apply hx1
      assumption

theorem State.grant_keeps {q : Prop} {a0 : State} (s : State) (r : ℕ) (req : ℕ) (hs : Keeps q a0 s) :
    Keeps q a0 (State.grant s r req) := by
  unfold State.grant
  split
  · rename_i v1 v2 v3
    extract_lets +onlyGivenNames x4
    clear_value x4
    extract_lets +onlyGivenNames x5
    clear_value x5
    with_reducible apply Keeps.ite
    · assumption
    · extract_lets +onlyGivenNames x6
      have hx6 : Keeps q a0 x6 := by
        dsimp -zeta -proj only [x6]
        exact Keeps.put (by assumption) id rfl (Nat.le_refl _) fun _ => rfl
      clear_value x6
      with_reducible apply State.accept_keeps
      assumption
  · rename_i v7 v8
    assumption

theorem State.engineAtomic_keeps {q : Prop} {a0 : State} (s : State) (ag : Agent) (line : ℕ) (off : ℕ) (size : ℕ) (op : AtomOp) (v : ℕ) (hs : Keeps q a0 s) :
    Keeps q a0 (State.engineAtomic s ag line off size op v).1 := by
  unfold State.engineAtomic
  with_reducible apply State.cohAtomic_keeps
  with_reducible apply State.drainLine_keeps
  assumption

theorem State.setHart_keeps {q : Prop} {a0 : State} (s : State) (h : Nat) (x : Hart) (hs : Keeps q a0 s) :
    Keeps q a0 (State.setHart s h x) := by
  unfold State.setHart
  exact Keeps.put (by assumption) id rfl (Nat.le_refl _) fun _ => rfl

theorem State.updHart_keeps {q : Prop} {a0 : State} (s : State) (h : Nat) (f : Hart → Hart) (hs : Keeps q a0 s) :
    Keeps q a0 (State.updHart s h f) := by
  unfold State.updHart
  with_reducible apply State.setHart_keeps; assumption

theorem State.csrWrite_keeps {q : Prop} {a0 : State} (s : State) (h' : ℕ) (n : ℕ) (v : W64) (hs : Keeps q a0 s) :
    Keeps q a0 (State.csrWrite s h' n v) := by
  unfold State.csrWrite
  extract_lets +onlyGivenNames x1
  clear_value x1
  with_reducible apply State.updHart_keeps
  assumption

theorem State.setPort_keeps {q : Prop} {a0 : State} (s : State) (k : Nat) (x : Port) (hs : Keeps q a0 s) :
    Keeps q a0 (State.setPort s k x) := by
  unfold State.setPort
  exact Keeps.put (by assumption) id rfl (Nat.le_refl _) fun _ => rfl

theorem State.updPort_keeps {q : Prop} {a0 : State} (s : State) (k : Nat) (f : Port → Port) (hs : Keeps q a0 s) :
    Keeps q a0 (State.updPort s k f) := by
  unfold State.updPort
  with_reducible apply State.setPort_keeps; assumption

theorem State.emit_keeps {q : Prop} {a0 : State} (s : State) (m : OutMsg) (hs : Keeps q a0 s) :
    Keeps q a0 (State.emit s m) := by
  unfold State.emit
  exact Keeps.put (by assumption) id rfl (Nat.le_refl _) fun _ => rfl

theorem State.pumpItems_keeps {q : Prop} {a0 : State} (s : State) (k : Nat) (a kept : List TxItem) (hs : Keeps q a0 s) :
    Keeps q a0 (State.pumpItems s k a kept) := by
  induction a generalizing s kept with
  | nil => exact State.updPort_keeps _ _ _ hs
  | cons i rest ih =>
    unfold State.pumpItems
    extract_lets x up blocked y s1
    apply Keeps.ite
    · apply ih
      apply State.bump_keeps
      apply State.emit_keeps
      exact State.setPort_keeps _ _ _ hs
    · exact ih _ _ hs

theorem State.pump_keeps {q : Prop} {a0 : State} (s : State) (k : Nat) (hs : Keeps q a0 s) :
    Keeps q a0 (State.pump s k) := by
  unfold State.pump
  with_reducible apply State.pumpItems_keeps; assumption

theorem State.sendItem_keeps {q : Prop} {a0 : State} (s : State) (k : Nat) (i : TxItem) (hs : Keeps q a0 s) :
    Keeps q a0 (State.sendItem s k i) := by
  unfold State.sendItem
  with_reducible apply State.pump_keeps; with_reducible apply State.updPort_keeps; assumption

theorem State.forward_keeps {q : Prop} {a0 : State} (s : State) (p : Packet) (from_ : Option ℕ) (hs : Keeps q a0 s) :
    ∀ t, (State.forward s p from_) = some t → Keeps q a0 t := by
  unfold State.forward
  refine Keeps.optMap ?_
  intro y1 e2
  split
  rename_i v3 v4 v5
  extract_lets +onlyGivenNames x6
  clear_value x6
  with_reducible apply State.sendItem_keeps
  assumption

theorem State.releaseOrdered_keeps {q : Prop} {a0 : State} (s : State) (hs : Keeps q a0 s) : Keeps q a0 (State.releaseOrdered s) := by
  unfold State.releaseOrdered
  refine Keeps.foldl (fun s p h => ?_) hs
  have h1 : Keeps q a0 { s with fab := { s.fab with waiting := s.fab.waiting.erase p } } := Keeps.put0 h rfl rfl rfl rfl rfl
  exact Keeps.ite h (Keeps.getD (State.forward_keeps _ _ _ h1) h1)

theorem State.sendCtl_keeps {q : Prop} {a0 : State} (s : State) (k : Nat) (m : OutMsg) (hs : Keeps q a0 s) :
    Keeps q a0 (State.sendCtl s k m) := by
  unfold State.sendCtl
  try extract_lets +onlyGivenNames x1
  try clear_value x1
  with_reducible apply Keeps.ite
  · with_reducible apply State.sendItem_keeps; assumption
  · assumption

theorem State.countSpill_keeps {q : Prop} {a0 : State} (s : State) (k : ℕ) (p : Packet) (hs : Keeps q a0 s) :
    Keeps q a0 (State.countSpill s k p) := by
  unfold State.countSpill
  extract_lets +onlyGivenNames x1
  clear_value x1
  with_reducible apply Keeps.ite
  · with_reducible apply State.bump_keeps
    assumption
  · assumption

theorem State.inject_keeps {q : Prop} {a0 : State} (s : State) (r : ℕ) (p : Packet) (hs : Keeps q a0 s) :
    Keeps q a0 (State.inject s r p) := by
  unfold State.inject
  extract_lets +onlyGivenNames x1
  clear_value x1
  extract_lets +onlyGivenNames x2
  have hx2 : Keeps q a0 x2 := by
    dsimp -zeta -proj only [x2]
    with_reducible apply State.countSpill_keeps
    assumption
  clear_value x2
  with_reducible apply Keeps.ite
  · exact Keeps.put (by assumption) id rfl (Nat.le_refl _) fun _ => rfl
  · refine Keeps.getD ?_ ?_
    · with_reducible apply State.forward_keeps
      assumption
    · assumption

theorem State.dropSched_keeps {q : Prop} {a0 : State} (s : State) (hs : Keeps q a0 s) :
    Keeps q a0 (State.dropSched s) := by
  unfold State.dropSched
  with_reducible apply Keeps.foldl
  · intro w1 w2 w3
    with_reducible apply Keeps.ite
    · with_reducible apply State.updPort_keeps
      assumption
    · assumption
  · assumption

theorem State.putRun_keeps {q : Prop} {a0 : State} (s : State) (b : Nat) (e : Nat) (r : Run) (hs : Keeps q a0 s) :
    Keeps q a0 (State.putRun s b e r) := by
  unfold State.putRun
  with_reducible apply State.updBlock_keeps; assumption

theorem State.tuningRecord_keeps {q : Prop} {a0 : State} (s : State) (b : Nat) (t : Tuning) (outcome : Nat) (hs : Keeps q a0 s) :
    Keeps q a0 (State.tuningRecord s b t outcome) := by
  unfold State.tuningRecord
  try extract_lets +onlyGivenNames x1
  try clear_value x1
  try extract_lets +onlyGivenNames x2
  try clear_value x2
  try (extract_lets +onlyGivenNames x3
       have hx3 : Keeps q a0 x3 := by
         try dsimp -zeta only [x3]
         split
         · split
           · exact Keeps.put (by assumption) id rfl (Nat.le_refl _) fun _ => rfl
           · assumption
         · assumption
       clear_value x3)
  with_reducible apply State.log_keeps; assumption

theorem State.tuningAbandon_keeps {q : Prop} {a0 : State} (s : State) (b : Nat) (hs : Keeps q a0 s) :
    Keeps q a0 (State.tuningAbandon s b) := by
  unfold State.tuningAbandon
  try extract_lets +onlyGivenNames x1
  try clear_value x1
  try (extract_lets +onlyGivenNames x2
       have hx2 : Keeps q a0 x2 := by
         try dsimp -zeta only [x2]
         with_reducible apply State.updBlock_keeps; assumption
       clear_value x2)
  with_reducible apply Keeps.foldl
  · intro s2 x2 hs2
    try dsimp -zeta only
    with_reducible apply State.tuningRecord_keeps; assumption
  · assumption

theorem State.xchkAbandon_keeps {q : Prop} {a0 : State} (s : State) (b : Nat) (hs : Keeps q a0 s) :
    Keeps q a0 (State.xchkAbandon s b) := by
  unfold State.xchkAbandon
  split
  · with_reducible apply State.bump_keeps; with_reducible apply State.updBlock_keeps; with_reducible apply State.updBlock_keeps; assumption
  · assumption

theorem State.gsFinish_keeps {q : Prop} {a0 : State} (s : State) (b : ℕ) (hs : Keeps q a0 s) :
    Keeps q a0 (State.gsFinish s b) := by
  unfold State.gsFinish
  with_reducible apply State.updBlock_keeps
  assumption

theorem State.stopAll_keeps {q : Prop} {a0 : State} (s : State) (b : ℕ) (status : ℕ) (p : Cmd → Bool) (hs : Keeps q a0 s) :
    Keeps q a0 (State.stopAll s b status p) := by
  unfold State.stopAll
  with_reducible apply State.updBlock_keeps
  with_reducible apply State.gsFinish_keeps
  assumption

theorem State.resetBlock_keeps {q : Prop} {a0 : State} (s : State) (b : ℕ) (st : ℕ) (hs : Keeps q a0 s) :
    Keeps q a0 (State.resetBlock s b st) := by
  unfold State.resetBlock
  extract_lets +onlyGivenNames x1
  have hx1 : Keeps q a0 x1 := by
    dsimp -zeta -proj only [x1]
    with_reducible apply State.tuningAbandon_keeps
    with_reducible apply State.xchkAbandon_keeps
    assumption
  clear_value x1
  extract_lets +onlyGivenNames x2
  have hx2 : Keeps q a0 x2 := by
    dsimp -zeta -proj only [x2]
    with_reducible apply State.updBlock_keeps
    with_reducible apply State.stopAll_keeps
    assumption
  clear_value x2
  with_reducible apply State.dropTarget_keeps
  assumption

theorem State.refuseBlock_keeps {q : Prop} {a0 : State} (s : State) (a : Agent) (b : Nat) (off : Nat) (status : Nat) (hs : Keeps q a0 s) :
    Keeps q a0 (State.refuseBlock s a b off status) := by
  unfold State.refuseBlock
  with_reducible apply State.log_keeps; assumption

theorem State.enqueue_keeps {q : Prop} {a0 : State} (s : State) (b : Nat) (e : Nat) (c : Cmd) (hs : Keeps q a0 s) :
    Keeps q a0 (State.enqueue s b e c) := by
  unfold State.enqueue
  try extract_lets +onlyGivenNames x1
  try clear_value x1
  with_reducible apply Keeps.ite
  · with_reducible apply State.updBlock_keeps; assumption
  · with_reducible apply State.bump_keeps; with_reducible apply State.updBlock_keeps; assumption

theorem State.pushCmd_keeps {q : Prop} {a0 : State} (s : State) (b : Nat) (v : W64) (hs : Keeps q a0 s) :
    Keeps q a0 (State.pushCmd s b v) := by
  unfold State.pushCmd
  try extract_lets +onlyGivenNames x1
  try clear_value x1
  try extract_lets +onlyGivenNames x2
  try clear_value x2
  try extract_lets +onlyGivenNames x3
  try clear_value x3
  try extract_lets +onlyGivenNames x4
  try clear_value x4
  try extract_lets +onlyGivenNames x5
  try clear_value x5
  try extract_lets +onlyGivenNames x6
  try clear_value x6
  with_reducible apply Keeps.ite
  · assumption
  · try (extract_lets +onlyGivenNames x7
         have hx7 : Keeps q a0 x7 := by
           try dsimp -zeta only [x7]
           with_reducible apply State.xchkAbandon_keeps; assumption
         clear_value x7)
    try (extract_lets +onlyGivenNames x8
         have hx8 : Keeps q a0 x8 := by
           try dsimp -zeta only [x8]
           with_reducible apply State.updBlock_keeps; assumption
         clear_value x8)
    try (extract_lets +onlyGivenNames x9
         have hx9 : ∀ (y10 : Nat), Keeps q a0 (x9 y10) := by
           intro y10
           try dsimp -zeta only [x9]
           with_reducible apply State.updBlock_keeps; assumption
         clear_value x9)
    with_reducible apply Keeps.ite
    · apply_assumption
    · with_reducible apply Keeps.ite
      · apply_assumption
      · with_reducible apply Keeps.ite
        · apply_assumption
        · with_reducible apply State.enqueue_keeps; assumption

theorem State.tuningStart_keeps {q : Prop} {a0 : State} (s : State) (b : Nat) (engine : Nat) (ev : Evidence) (hs : Keeps q a0 s) :
    Keeps q a0 (State.tuningStart s b engine ev) := by
  unfold State.tuningStart
  try extract_lets +onlyGivenNames x1
  try clear_value x1
  split
  · try (extract_lets +onlyGivenNames x3
         have hx3 : Keeps q a0 x3 := by
           try dsimp -zeta only [x3]
           exact Keeps.put (by assumption) id rfl (Nat.le_refl _) fun _ => rfl
         clear_value x3)
    with_reducible apply State.updBlock_keeps; assumption
  · with_reducible apply State.updBlock_keeps; with_reducible apply State.bump_keeps; assumption

theorem State.startRun_keeps {q : Prop} {a0 : State} (s : State) (b : ℕ) (e : ℕ) (r : Run) (hs : Keeps q a0 s) :
    Keeps q a0 (State.startRun s b e r) := by
  unfold State.startRun
  with_reducible apply State.updBlock_keeps
  assumption

theorem State.wake_keeps {q : Prop} {a0 : State} (s : State) (h' : ℕ) (hs : Keeps q a0 s) :
    Keeps q a0 (State.wake s h') := by
  unfold State.wake
  with_reducible apply Keeps.ite
  · exact Keeps.put (by assumption) id rfl (Nat.le_refl _) fun _ => rfl
  · assumption

theorem State.cplSignals_keeps {q : Prop} {a0 : State} (s : State) (b : Nat) (e : Nat) (r : Run) (hs : Keeps q a0 s) :
    Keeps q a0 (State.cplSignals s b e r) := by
  unfold State.cplSignals
  try extract_lets +onlyGivenNames x1
  try clear_value x1
  try extract_lets +onlyGivenNames x2
  try clear_value x2
  try (extract_lets +onlyGivenNames x3
       have hx3 : Keeps q a0 x3 := by
         try dsimp -zeta only [x3]
         with_reducible apply State.updBlock_keeps; assumption
       clear_value x3)
  try (extract_lets +onlyGivenNames x4
       have hx4 : Keeps q a0 x4 := by
         try dsimp -zeta only [x4]
         with_reducible apply Keeps.ite
         · with_reducible apply State.bumpFld_keeps; assumption
         · with_reducible apply Keeps.ite
           · with_reducible apply State.bumpFld_keeps; assumption
           · assumption
       clear_value x4)
  try (extract_lets +onlyGivenNames x5
       have hx5 : Keeps q a0 x5 := by
         try dsimp -zeta only [x5]
         with_reducible apply State.noteCompletion_keeps; assumption
       clear_value x5)
  with_reducible apply Keeps.ite
  · with_reducible apply State.signalPeg_keeps; assumption
  · assumption

theorem State.loseBlock_keeps {q : Prop} {a0 : State} (s : State) (b : Nat) (hs : Keeps q a0 s) :
    Keeps q a0 (State.loseBlock s b) := by
  unfold State.loseBlock
  try (extract_lets +onlyGivenNames x1
       have hx1 : Keeps q a0 x1 := by
         try dsimp -zeta only [x1]
         with_reducible apply State.updBlock_keeps; with_reducible apply State.tuningAbandon_keeps; with_reducible apply State.xchkAbandon_keeps; assumption
       clear_value x1)
  with_reducible apply State.dropTarget_keeps; assumption

theorem State.tokenWaitEnd_keeps {q : Prop} {a0 : State} (s : State) (b : Nat) (e : Nat) (hs : Keeps q a0 s) :
    Keeps q a0 (State.tokenWaitEnd s b e) := by
  unfold State.tokenWaitEnd
  try extract_lets +onlyGivenNames x1
  try clear_value x1
  split
  · with_reducible apply Keeps.ite
    · assumption
    · with_reducible apply Keeps.ite
      · with_reducible apply State.setBlock_keeps; assumption
      · with_reducible apply State.setBlock_keeps; assumption
  · assumption

theorem State.muteBlock_keeps {q : Prop} {a0 : State} (s : State) (b : ℕ) (cause : ℕ) (hs : Keeps q a0 s) :
    Keeps q a0 (State.muteBlock s b cause) := by
  unfold State.muteBlock
  extract_lets +onlyGivenNames x1
  clear_value x1
  with_reducible apply Keeps.ite
  · extract_lets +onlyGivenNames x2
    have hx2 : Keeps q a0 x2 := by
      dsimp -zeta -proj only [x2]
      with_reducible apply State.tuningAbandon_keeps
      with_reducible apply State.xchkAbandon_keeps
      assumption
    clear_value x2
    extract_lets +onlyGivenNames x3
    have hx3 : Keeps q a0 x3 := by
      dsimp -zeta -proj only [x3]
      with_reducible apply State.updBlock_keeps
      with_reducible apply State.stopAll_keeps
      assumption
    clear_value x3
    extract_lets +onlyGivenNames x4
    have hx4 : Keeps q a0 x4 := by
      dsimp -zeta -proj only [x4]
      with_reducible apply State.dropTarget_keeps
      assumption
    clear_value x4
    extract_lets +onlyGivenNames x5
    have hx5 : Keeps q a0 x5 := by
      dsimp -zeta -proj only [x5]
      with_reducible apply Keeps.ite
      · exact Keeps.put (by assumption) id rfl (Nat.le_refl _) fun _ => rfl
      · assumption
    clear_value x5
    with_reducible apply State.log_keeps
    assumption
  · with_reducible apply State.log_keeps
    assumption

theorem State.tuningEnd_keeps {q : Prop} {a0 : State} (s : State) (b : Nat) (passed : Bool) (hs : Keeps q a0 s) :
    Keeps q a0 (State.tuningEnd s b passed) := by
  unfold State.tuningEnd
  split
  · assumption
  · try (extract_lets +onlyGivenNames x4
         have hx4 : Keeps q a0 x4 := by
           try dsimp -zeta only [x4]
           with_reducible apply State.updBlock_keeps; assumption
         clear_value x4)
    with_reducible apply Keeps.ite
    · try (extract_lets +onlyGivenNames x5
           have hx5 : Keeps q a0 x5 := by
             try dsimp -zeta only [x5]
             with_reducible apply State.updBlock_keeps; with_reducible apply State.bump_keeps; assumption
           clear_value x5)
      try (extract_lets +onlyGivenNames x6
           have hx6 : Keeps q a0 x6 := by
             try dsimp -zeta only [x6]
             with_reducible apply State.tuningRecord_keeps; assumption
           clear_value x6)
      with_reducible apply Keeps.ite
      · with_reducible apply State.muteBlock_keeps; assumption
      · assumption
    · try (extract_lets +onlyGivenNames x7
           have hx7 : Keeps q a0 x7 := by
             try dsimp -zeta only [x7]
             with_reducible apply State.tuningRecord_keeps; with_reducible apply State.bump_keeps; assumption
           clear_value x7)
      with_reducible apply State.muteBlock_keeps; assumption

theorem State.takeHead_keeps {q : Prop} {a0 : State} (s : State) (b : ℕ) (e : ℕ) (c : Cmd) (check : ℕ) (hs : Keeps q a0 s) :
    Keeps q a0 (State.takeHead s b e c check) := by
  unfold State.takeHead
  with_reducible apply State.startRun_keeps
  assumption

theorem State.recordWake_keeps {q : Prop} {a0 : State} (s : State) (b : Nat) (hs : Keeps q a0 s) :
    Keeps q a0 (State.recordWake s b) := by
  unfold State.recordWake
  with_reducible apply Keeps.ite
  · with_reducible apply State.wake_keeps; assumption
  · assumption

theorem State.completionWrite_keeps {q : Prop} {a0 : State} (s : State) (b : ℕ) (e : ℕ) (hs : Keeps q a0 s) :
    Keeps q a0 (State.completionWrite s b e) := by
  unfold State.completionWrite
  extract_lets +onlyGivenNames x1
  have hx1 : Keeps q a0 x1 := by
    dsimp -zeta -proj only [x1]
    with_reducible apply State.gsFinish_keeps
    assumption
  clear_value x1
  split
  · rename_i v2 v3 v4 v5
    with_reducible apply Keeps.ite
    · assumption
    · with_reducible apply Keeps.ite
      · with_reducible apply State.cplSignals_keeps
        assumption
      · with_reducible apply Keeps.ite
        · with_reducible apply Keeps.ite
          · with_reducible apply State.cplSignals_keeps
            assumption
          · with_reducible apply State.bump_keeps
            assumption
        · extract_lets +onlyGivenNames x6
          clear_value x6
          extract_lets +onlyGivenNames x7
          have hx7 : Keeps q a0 x7 := by
            dsimp -zeta -proj only [x7]
            with_reducible apply State.wrNat_keeps
            assumption
          clear_value x7
          extract_lets +onlyGivenNames x8
          have hx8 : Keeps q a0 x8 := by
            dsimp -zeta -proj only [x8]
            with_reducible apply State.setReg_keeps
            assumption
          clear_value x8
          with_reducible apply State.cplSignals_keeps
          with_reducible apply State.recordWake_keeps
          assumption
  · rename_i v9 v10
    assumption

theorem State.engineStep_keeps {q : Prop} {a0 : State} (s : State) (b e op n : Nat) (check : State → Nat → Cmd → Nat)
    (work : State → Nat → Run → Nat → State × Run) (hs : Keeps q a0 s)
    (hwork : ∀ w0 w1 w2 w3, Keeps q a0 w0 → Keeps q a0 (work w0 w1 w2 w3).1) :
    Keeps q a0 (State.engineStep s b e op n check work) := by
  unfold State.engineStep
  extract_lets +onlyGivenNames go
  have hgo : ∀ s, Keeps q a0 s → Keeps q a0 (go s) := by
    intro s hs
    unfold go
    split
    · split
      · exact State.putRun_keeps _ _ _ _ (hwork _ _ _ _ hs)
      · exact hs
    · exact hs
  clear_value go
  split
  · exact hgo _ hs
  · exact Keeps.ite (hgo _ (State.takeHead_keeps _ _ _ _ _ hs)) hs
  · exact hs

theorem State.blockMark_keeps {q : Prop} {a0 : State} (s : State) (b : ℕ) (c : ℕ) (hs : Keeps q a0 s) :
    Keeps q a0 (State.blockMark s b c) := by
  unfold State.blockMark
  with_reducible apply State.updBlock_keeps
  with_reducible apply State.stopAll_keeps
  assumption

theorem State.finishCompletions_keeps {q : Prop} {a0 : State} (s : State) (b : Nat) (hs : Keeps q a0 s) :
    Keeps q a0 (State.finishCompletions s b) := by
  unfold State.finishCompletions
  with_reducible apply Keeps.foldl
  · intro s2 x2 hs2
    try dsimp -zeta only
    with_reducible apply Keeps.foldl
    · intro s2 x2 hs2
      try dsimp -zeta only
      with_reducible apply State.completionWrite_keeps; assumption
    · assumption
  · assumption

theorem State.releaseBlock_keeps {q : Prop} {a0 : State} (s : State) (b : ℕ) (hs : Keeps q a0 s) :
    Keeps q a0 (State.releaseBlock s b) := by
  unfold State.releaseBlock
  with_reducible apply State.zeroRegs_keeps
  with_reducible apply State.updBlock_keeps
  assumption

end Sys2Proof.Machine
end

