-- ==== Sys2Proof/Laws/KeepsOps2.lean ====
section
/-!
SUPPORT. Operations of the module, part 2 of 7: each leaves `Keeps` true.
-/
namespace Sys2Proof.Machine

theorem State.refill_keeps {q : Prop} {a0 : State} (s : State) (b : Nat) (e : Nat) (hs : Keeps q a0 s) :
    Keeps q a0 (State.refill s b e) := by
  unfold State.refill
  try extract_lets +onlyGivenNames x1
  try clear_value x1
  with_reducible apply Keeps.ite
  · with_reducible apply State.updBlock_keeps; assumption
  · assumption

theorem State.asyncError_keeps {q : Prop} {a0 : State} (s : State) (h : Nat) (status : Nat) (source : Nat) (kind : Nat) (addr : Nat) (hs : Keeps q a0 s) :
    Keeps q a0 (State.asyncError s h status source kind addr) := by
  unfold State.asyncError
  try extract_lets +onlyGivenNames x1
  try clear_value x1
  with_reducible apply Keeps.ite
  · with_reducible apply State.setReg_keeps; assumption
  · with_reducible apply State.setReg_keeps; with_reducible apply State.setReg_keeps; assumption

theorem State.fabLogAdd_keeps {q : Prop} {a0 : State} (s : State) (r : Nat) (status : Nat) (cause : Nat) (port : Nat) (module : Nat) (addr : Nat) (hs : Keeps q a0 s) :
    Keeps q a0 (State.fabLogAdd s r status cause port module addr) := by
  unfold State.fabLogAdd
  try extract_lets +onlyGivenNames x1
  try clear_value x1
  try (extract_lets +onlyGivenNames x2
       have hx2 : Keeps q a0 x2 := by
         try dsimp -zeta only [x2]
         exact Keeps.put (by assumption) id rfl (Nat.le_refl _) fun _ => rfl
       clear_value x2)
  with_reducible apply State.bump_keeps; assumption

theorem State.hostLogAdd_keeps {q : Prop} {a0 : State} (s : State) (r : Nat) (status : Nat) (cause : Nat) (fn : Nat) (reqId : Nat) (addr : Nat) (hs : Keeps q a0 s) :
    Keeps q a0 (State.hostLogAdd s r status cause fn reqId addr) := by
  unfold State.hostLogAdd
  try extract_lets +onlyGivenNames x1
  try clear_value x1
  try (extract_lets +onlyGivenNames x2
       have hx2 : Keeps q a0 x2 := by
         try dsimp -zeta only [x2]
         exact Keeps.put (by assumption) id rfl (Nat.le_refl _) fun _ => rfl
       clear_value x2)
  with_reducible apply State.bump_keeps; assumption

theorem State.logLost_keeps {q : Prop} {a0 : State} (s : State) (r : ℕ) (q' : OutReq) (o : Origin) (st : ℕ) (hs : Keeps q a0 s) :
    Keeps q a0 (State.logLost s r q' o st) := by
  unfold State.logLost
  extract_lets +onlyGivenNames x1
  clear_value x1
  split
  · rename_i v2 v3 v4
    with_reducible apply State.fabLogAdd_keeps
    assumption
  · rename_i v5 v6 v7
    with_reducible apply State.hostLogAdd_keeps
    assumption
  · rename_i v8 v9 v10
    with_reducible apply State.hostLogAdd_keeps
    assumption

theorem State.discardHartWrite_keeps {q : Prop} {a0 : State} (s : State) (h' : ℕ) (kind : ℕ) (q' : OutReq) (st : ℕ) (hs : Keeps q a0 s) :
    Keeps q a0 (State.discardHartWrite s h' kind q' st) := by
  unfold State.discardHartWrite
  extract_lets +onlyGivenNames x1
  clear_value x1
  with_reducible apply State.asyncError_keeps
  with_reducible apply State.logLost_keeps
  assumption

theorem State.respond_keeps {q : Prop} {a0 : State} (s : State) (src : Nat) (tag : Nat) (meter : Nat) (op : Nat) (status : Nat) (data : List Byte) (hs : Keeps q a0 s) :
    Keeps q a0 (State.respond s src tag meter op status data) := by
  unfold State.respond
  with_reducible apply State.inject_keeps; assumption

theorem State.missServed_keeps {q : Prop} {a0 : State} (s : State) (h : Nat) (line : Nat) (hs : Keeps q a0 s) :
    Keeps q a0 (State.missServed s h line) := by
  unfold State.missServed
  with_reducible apply Keeps.ite
  · with_reducible apply State.updHart_keeps; assumption
  · assumption

theorem State.deadStore_keeps {q : Prop} {a0 : State} (s : State) (h' : ℕ) (kind : ℕ) (r : ℕ) (a : ℕ) (hs : Keeps q a0 s) :
    Keeps q a0 (State.deadStore s h' kind r a) := by
  unfold State.deadStore
  with_reducible apply State.asyncError_keeps
  with_reducible apply State.hostLogAdd_keeps
  assumption

theorem State.issue_keeps {q : Prop} {a0 : State} (s : State) (q' : OutReq) (hs : Keeps q a0 s) :
    Keeps q a0 (State.issue s q') := by
  unfold State.issue
  extract_lets +onlyGivenNames x1
  clear_value x1
  extract_lets +onlyGivenNames x2
  clear_value x2
  extract_lets +onlyGivenNames x3
  have hx3 : Keeps q a0 x3 := by
    dsimp -zeta -proj only [x3]
    exact Keeps.put (by assumption) id rfl (Nat.le_refl _) fun _ => rfl
  clear_value x3
  extract_lets +onlyGivenNames x4
  have hx4 : Keeps q a0 x4 := by
    dsimp -zeta -proj only [x4]
    split
    · rename_i v5 v6 v7
      with_reducible apply Keeps.ite
      · with_reducible apply State.clearCopyValid_keeps
        assumption
      · assumption
    · rename_i v8 v9
      assumption
  clear_value x4
  split
  · rename_i v10 v11 v12
    with_reducible apply State.inject_keeps
    assumption
  · rename_i v13 v14 v15
    with_reducible apply State.emit_keeps
    assumption
  · rename_i v16 v17 v18
    with_reducible apply State.emit_keeps
    assumption

theorem State.t4Write_keeps {q : Prop} {a0 : State} (s : State) (o : Origin) (a : ℕ) (bs : List Byte) (mask : Option ℕ) (va : ℕ) (hs : Keeps q a0 s) :
    Keeps q a0 (State.t4Write s o a bs mask va) := by
  unfold State.t4Write
  split
  · rename_i v1 v2 v3 v4
    with_reducible apply State.issue_keeps
    assumption
  · rename_i v5 v6
    assumption

theorem State.postWrite_keeps {q : Prop} {a0 : State} (s : State) (h : Nat) (kind : Nat) (u3 : OutReq) (hs : Keeps q a0 s) :
    Keeps q a0 (State.postWrite s h kind u3) := by
  unfold State.postWrite
  with_reducible apply Keeps.ite
  · with_reducible apply State.issue_keeps; assumption
  · with_reducible apply State.discardHartWrite_keeps; assumption

theorem State.wcWrite_keeps {q : Prop} {a0 : State} (s : State) (h' : ℕ) (e : WcEntry) (hs : Keeps q a0 s) :
    Keeps q a0 (State.wcWrite s h' e).1 := by
  unfold State.wcWrite
  split
  · rename_i v1 v2
    split
    · rename_i v3 v4 v5
      with_reducible apply Keeps.fst
      with_reducible apply State.deadStore_keeps
      assumption
    · rename_i v6 v7
      with_reducible apply Keeps.iteP
      · with_reducible apply Keeps.fst
        assumption
      · split
        rename_i v8 v9 v10 v11
        have h12 : Keeps q a0 v9 := by
          refine Keeps.of_pair v11 ?_
          with_reducible apply State.engineWrite_keeps
          assumption
        with_reducible apply Keeps.fst
        with_reducible apply Keeps.ite
        · with_reducible apply State.t4Write_keeps
          assumption
        · with_reducible apply Keeps.ite
          · with_reducible apply State.asyncError_keeps
            assumption
          · assumption
  · rename_i v13 v14 v15
    with_reducible apply Keeps.fst
    with_reducible apply State.postWrite_keeps
    assumption

theorem State.wcFlush_keeps {q : Prop} {a0 : State} (s : State) (h : Nat) (p : WcEntry → Bool) (hs : Keeps q a0 s) :
    Keeps q a0 (State.wcFlush s h p) := by
  unfold State.wcFlush
  split
  rename_i e
  apply State.updHart_keeps
  refine Keeps.of_pair e (Keeps.foldlP (fun x y h1 => ?_) hs)
  dsimp only
  apply Keeps.iteP
  · have h2 := State.wcWrite_keeps x.1 h y h1
    exact Keeps.iteP (Keeps.fst h2) (Keeps.fst h1)
  · exact h1

theorem State.writeCombine_keeps {q : Prop} {a0 : State} (s : State) (h' : ℕ) (hs : Keeps q a0 s) :
    Keeps q a0 (State.writeCombine s h') := by
  unfold State.writeCombine
  split
  · rename_i v1 v2 v3
    split
    · rename_i v4 v5 v6
      with_reducible apply State.updHart_keeps
      with_reducible apply State.deadStore_keeps
      assumption
    · rename_i v7 v8
      with_reducible apply Keeps.ite
      · assumption
      · split
        rename_i v9 v10 v11 v12
        have h13 : Keeps q a0 v10 := by
          refine Keeps.of_pair v12 ?_
          with_reducible apply State.engineWrite_keeps
          assumption
        extract_lets +onlyGivenNames x14
        have hx14 : Keeps q a0 x14 := by
          dsimp -zeta -proj only [x14]
          with_reducible apply State.bump_keeps
          with_reducible apply State.updHart_keeps
          assumption
        clear_value x14
        with_reducible apply Keeps.ite
        · with_reducible apply State.asyncError_keeps
          assumption
        · assumption
  · rename_i v15 v16
    assumption

theorem State.leaveStreaming_keeps {q : Prop} {a0 : State} (s : State) (h : Nat) (hs : Keeps q a0 s) :
    Keeps q a0 (State.leaveStreaming s h) := by
  unfold State.leaveStreaming
  with_reducible apply Keeps.ite
  · with_reducible apply State.updHart_keeps; with_reducible apply State.writeCombine_keeps; assumption
  · assumption

theorem State.trapEnter_keeps {q : Prop} {a0 : State} (s : State) (h' : ℕ) (hs : Keeps q a0 s) :
    Keeps q a0 (State.trapEnter s h') := by
  unfold State.trapEnter
  split
  · rename_i v1 v2 v3 v4
    extract_lets +onlyGivenNames x5
    have hx5 : Keeps q a0 x5 := by
      dsimp -zeta -proj only [x5]
      with_reducible apply State.wcFlush_keeps
      with_reducible apply State.leaveStreaming_keeps
      assumption
    clear_value x5
    with_reducible apply Keeps.ite
    · with_reducible apply State.updHart_keeps
      assumption
    · assumption
  · rename_i v6 v7
    assumption

theorem State.seqHalt_keeps {q : Prop} {a0 : State} (s : State) (h' : ℕ) (hs : Keeps q a0 s) :
    Keeps q a0 (State.seqHalt s h') := by
  unfold State.seqHalt
  extract_lets +onlyGivenNames x1
  clear_value x1
  with_reducible apply State.updHart_keeps
  with_reducible apply State.updBlock_keeps
  assumption

theorem State.waitFor_keeps {q : Prop} {a0 : State} (s : State) (h : Nat) (w : HWait) (hs : Keeps q a0 s) :
    Keeps q a0 (State.waitFor s h w) := by
  unfold State.waitFor
  with_reducible apply State.updHart_keeps; assumption

theorem State.trap_keeps {q : Prop} {a0 : State} (s : State) (h' : ℕ) (cause : ℕ) (tval : ℕ) (hs : Keeps q a0 s) :
    Keeps q a0 (State.trap s h' cause tval) := by
  unfold State.trap
  extract_lets +onlyGivenNames x1
  have hx1 : Keeps q a0 x1 := by
    dsimp -zeta -proj only [x1]
    with_reducible apply State.endReservation_keeps
    with_reducible apply State.leaveStreaming_keeps
    assumption
  clear_value x1
  with_reducible apply Keeps.ite
  · with_reducible apply State.seqHalt_keeps
    assumption
  · with_reducible apply State.trapEnter_keeps
    with_reducible apply State.waitFor_keeps
    assumption

theorem State.fault_keeps {q : Prop} {a0 : State} (s : State) (h : Nat) (cause : Nat) (addr : Nat) (hs : Keeps q a0 s) :
    Keeps q a0 (State.fault s h cause addr) := by
  unfold State.fault
  with_reducible apply State.trap_keeps; assumption

theorem State.hartPoison_keeps {q : Prop} {a0 : State} (s : State) (h : Nat) (cause : Nat) (a : Nat) (va : Nat) (hs : Keeps q a0 s) :
    Keeps q a0 (State.hartPoison s h cause a va) := by
  unfold State.hartPoison
  try extract_lets +onlyGivenNames x1
  try clear_value x1
  with_reducible apply State.fault_keeps; with_reducible apply State.log_keeps; assumption

theorem State.fetchFrom_keeps {q : Prop} {a0 : State} (s : State) (h' : ℕ) (a : ℕ) (pc : ℕ) (l : Line) (hs : Keeps q a0 s) :
    Keeps q a0 (State.fetchFrom s h' a pc l) := by
  unfold State.fetchFrom
  split
  · rename_i v1 v2 v3
    with_reducible apply State.hartPoison_keeps
    assumption
  · rename_i v4 v5
    assumption

theorem State.icacheFill_keeps {q : Prop} {a0 : State} (s : State) (h' : ℕ) (line : ℕ) (l : Line) (hs : Keeps q a0 s) :
    Keeps q a0 (State.icacheFill s h' line l) := by
  unfold State.icacheFill
  extract_lets +onlyGivenNames x1
  clear_value x1
  extract_lets +onlyGivenNames x2
  have hx2 : Keeps q a0 x2 := by
    dsimp -zeta -proj only [x2]
    with_reducible apply Keeps.ite
    · assumption
    · split
      · rename_i v3 v4 v5
        exact Keeps.put (by assumption) id rfl (Nat.le_refl _) fun _ => rfl
      · rename_i v6 v7
        assumption
  clear_value x2
  exact Keeps.put (by assumption) id rfl (Nat.le_refl _) fun _ => rfl

theorem State.fetchMem_keeps {q : Prop} {a0 : State} (s : State) (h' : ℕ) (a : ℕ) (pc : ℕ) (cached : Bool) (hs : Keeps q a0 s) :
    Keeps q a0 (State.fetchMem s h' a pc cached) := by
  unfold State.fetchMem
  split
  · rename_i v1 v2 v3
    with_reducible apply State.fetchFrom_keeps
    assumption
  · rename_i v4 v5
    extract_lets +onlyGivenNames x6
    clear_value x6
    with_reducible apply State.fetchFrom_keeps
    with_reducible apply Keeps.ite
    · with_reducible apply State.icacheFill_keeps
      assumption
    · assumption

theorem State.coreFetch_keeps {q : Prop} {a0 : State} (s : State) (h' : ℕ) (hs : Keeps q a0 s) :
    Keeps q a0 (State.coreFetch s h') := by
  unfold State.coreFetch
  extract_lets +onlyGivenNames x1
  clear_value x1
  split
  · rename_i v2 v3 v4 v5 v6
    split
    · rename_i v7 v8 v9
      with_reducible apply State.fetchFrom_keeps
      with_reducible apply State.icacheFill_keeps
      assumption
    · rename_i v10 v11
      with_reducible apply State.waitFor_keeps
      with_reducible apply State.coreRequest_keeps
      assumption
  · rename_i v12 v13 v14 v15 v16
    split
    · rename_i v17 v18 v19
      with_reducible apply State.fetchFrom_keeps
      with_reducible apply State.icacheFill_keeps
      assumption
    · rename_i v20 v21
      with_reducible apply State.waitFor_keeps
      with_reducible apply State.coreRequest_keeps
      assumption
  · rename_i v22 v23 v24 v25 v26
    split
    · rename_i v27 v28 v29
      with_reducible apply State.fetchFrom_keeps
      with_reducible apply State.icacheFill_keeps
      assumption
    · rename_i v30 v31
      with_reducible apply State.waitFor_keeps
      with_reducible apply State.coreRequest_keeps
      assumption
  · rename_i v32 v33 v34 v35 v36
    with_reducible apply State.fetchMem_keeps
    assumption
  · rename_i v37 v38 v39 v40 v41
    with_reducible apply State.fetchMem_keeps
    assumption
  · rename_i v42 v43 v44 v45 v46
    with_reducible apply State.fetchMem_keeps
    assumption
  · rename_i v47 v48
    with_reducible apply State.fault_keeps
    assumption
  · rename_i v49 v50 v51 v52
    with_reducible apply State.fault_keeps
    assumption
  · rename_i v53 v54 v55 v56 v57 v58
    with_reducible apply State.fault_keeps
    assumption
  · rename_i v59 v60 v61 v62 v63 v64 v65 v66 v67 v68
    assumption

theorem State.fetchArrived_keeps {q : Prop} {a0 : State} (s : State) (h' : ℕ) (hs : Keeps q a0 s) :
    Keeps q a0 (State.fetchArrived s h') := by
  unfold State.fetchArrived
  split
  · rename_i v1 v2 v3
    with_reducible apply Keeps.ite
    · with_reducible apply State.coreFetch_keeps
      with_reducible apply State.waitFor_keeps
      assumption
    · with_reducible apply Keeps.ite
      · with_reducible apply State.hartPoison_keeps
        with_reducible apply State.waitFor_keeps
        assumption
      · with_reducible apply State.coreRequest_keeps
        assumption
  · rename_i v4 v5
    assumption

theorem State.takeInterrupt_keeps {q : Prop} {a0 : State} (s : State) (h' : ℕ) (hs : Keeps q a0 s) :
    Keeps q a0 (State.takeInterrupt s h') := by
  unfold State.takeInterrupt
  extract_lets +onlyGivenNames x1
  have hx1 : Keeps q a0 x1 := by
    dsimp -zeta -proj only [x1]
    with_reducible apply State.trapEnter_keeps
    with_reducible apply State.fetchArrived_keeps
    assumption
  clear_value x1
  extract_lets +onlyGivenNames x2
  clear_value x2
  extract_lets +onlyGivenNames x3
  have hx3 : Keeps q a0 x3 := by
    dsimp -zeta -proj only [x3]
    with_reducible apply State.updHart_keeps
    assumption
  clear_value x3
  with_reducible apply Keeps.ite
  · assumption
  · split
    · rename_i v4 v5 v6
      with_reducible apply State.trap_keeps
      assumption
    · rename_i v7 v8
      assumption

theorem State.asyncClear_keeps {q : Prop} {a0 : State} (s : State) (h : Nat) (v : W64) (hs : Keeps q a0 s) :
    Keeps q a0 (State.asyncClear s h v) := by
  unfold State.asyncClear
  with_reducible apply Keeps.ite
  · try extract_lets +onlyGivenNames x1
    try clear_value x1
    with_reducible apply State.setReg_keeps; assumption
  · assumption

theorem State.wcStore_keeps {q : Prop} {a0 : State} (s : State) (h : Nat) (dest : Option OutDest) (line : Nat) (off : Nat) (n : Nat) (v : Nat) (hs : Keeps q a0 s) :
    Keeps q a0 (State.wcStore s h dest line off n v) := by
  unfold State.wcStore
  try extract_lets +onlyGivenNames x1
  try clear_value x1
  try extract_lets +onlyGivenNames x2
  try clear_value x2
  try extract_lets +onlyGivenNames x3
  try clear_value x3
  try extract_lets +onlyGivenNames x4
  try clear_value x4
  with_reducible apply Keeps.ite
  · with_reducible apply State.updHart_keeps; assumption
  · try (extract_lets +onlyGivenNames x5
         have hx5 : Keeps q a0 x5 := by
           try dsimp -zeta only [x5]
           with_reducible apply Keeps.ite
           · split
             · with_reducible apply State.wcFlush_keeps; assumption
             · assumption
           · assumption
         clear_value x5)
    with_reducible apply State.updHart_keeps; assumption

theorem State.reclaim_keeps {q : Prop} {a0 : State} (s : State) (k : ℕ) (line : ℕ) (hs : Keeps q a0 s) :
    Keeps q a0 (State.reclaim s k line) := by
  unfold State.reclaim
  split
  · rename_i v1 v2 v3 v4 v5
    with_reducible apply Keeps.ite
    · assumption
    · split
      · rename_i v6 v7 v8
        have h9 : Keeps q a0 v7 := by
          refine Keeps.of_opt v8 ?_
          with_reducible apply State.makeRoom_keeps
          exact Keeps.put (by assumption) id rfl (Nat.le_refl _) fun _ => rfl
        with_reducible apply State.setCache_keeps
        assumption
      · rename_i v10 v11
        assumption
  · rename_i v12 v13 v14
    assumption

theorem State.askNext_keeps {q : Prop} {a0 : State} (s : State) (h' : ℕ) (line : ℕ) (hs : Keeps q a0 s) :
    Keeps q a0 (State.askNext s h' line) := by
  unfold State.askNext
  with_reducible apply Keeps.ite
  · assumption
  · with_reducible apply State.coreRequest_keeps
    assumption

theorem State.storeMiss_keeps {q : Prop} {a0 : State} (s : State) (h' : ℕ) (line : ℕ) (hs : Keeps q a0 s) :
    Keeps q a0 (State.storeMiss s h' line) := by
  unfold State.storeMiss
  extract_lets +onlyGivenNames x1
  clear_value x1
  with_reducible apply Keeps.ite
  · assumption
  · extract_lets +onlyGivenNames x2
    clear_value x2
    extract_lets +onlyGivenNames x3
    clear_value x3
    extract_lets +onlyGivenNames x4
    have hx4 : Keeps q a0 x4 := by
      dsimp -zeta -proj only [x4]
      with_reducible apply State.bump_keeps
      with_reducible apply State.setHart_keeps
      assumption
    clear_value x4
    with_reducible apply Keeps.ite
    · assumption
    · with_reducible apply State.askNext_keeps
      assumption

theorem State.storeHit_keeps {q : Prop} {a0 : State} (s : State) (h' : ℕ) (c : CLine) (st : HeldStore) (hs : Keeps q a0 s) :
    Keeps q a0 (State.storeHit s h' c st).1 := by
  unfold State.storeHit
  extract_lets +onlyGivenNames x1
  clear_value x1
  extract_lets +onlyGivenNames x2
  have hx2 : Keeps q a0 x2 := by
    dsimp -zeta -proj only [x2]
    with_reducible apply Keeps.ite
    · with_reducible apply State.writeCombine_keeps
      assumption
    · assumption
  clear_value x2
  split
  · rename_i v3 v4 v5
    with_reducible apply Keeps.iteP
    · with_reducible apply Keeps.fst
      with_reducible apply State.setCache_keeps
      with_reducible apply State.missServed_keeps
      with_reducible apply State.updHart_keeps
      assumption
    · with_reducible apply Keeps.fst
      assumption
  · rename_i v6 v7
    with_reducible apply Keeps.fst
    with_reducible apply State.setCache_keeps
    with_reducible apply State.missServed_keeps
    assumption

theorem State.storeStream_keeps {q : Prop} {a0 : State} (s : State) (h' : ℕ) (st : HeldStore) (hs : Keeps q a0 s) :
    Keeps q a0 (State.storeStream s h' st).1 := by
  unfold State.storeStream
  extract_lets +onlyGivenNames x1
  clear_value x1
  extract_lets +onlyGivenNames x2
  clear_value x2
  extract_lets +onlyGivenNames x3
  clear_value x3
  extract_lets +onlyGivenNames x4
  clear_value x4
  extract_lets +onlyGivenNames x5
  have hx5 : ∀ w0, Keeps q a0 w0 → Keeps q a0 (x5 w0).1 := by
    dsimp -zeta -proj only [x5]
    intro w6 w7
    with_reducible apply Keeps.fst
    with_reducible apply State.bump_keeps
    with_reducible apply State.updHart_keeps
    assumption
  clear_value x5
  with_reducible apply Keeps.iteP
  · with_reducible apply Keeps.fst
    assumption
  · split
    · rename_i v8 v9 v10
      with_reducible apply Keeps.iteP
      · with_reducible apply Keeps.fst
        with_reducible apply State.setHart_keeps
        assumption
      · extract_lets +onlyGivenNames x11
        have hx11 : Keeps q a0 x11 := by
          dsimp -zeta -proj only [x11]
          with_reducible apply Keeps.ite
          · with_reducible apply State.writeCombine_keeps
            assumption
          · with_reducible apply State.leaveStreaming_keeps
            assumption
        clear_value x11
        with_reducible apply Keeps.iteP
        · with_reducible apply Keeps.fst
          assumption
        · with_reducible apply Keeps.iteP
          · with_reducible apply hx5
            assumption
          · with_reducible apply Keeps.fst
            with_reducible apply State.storeMiss_keeps
            assumption
    · rename_i v12 v13
      with_reducible apply Keeps.iteP
      · with_reducible apply hx5
        assumption
      · with_reducible apply Keeps.fst
        with_reducible apply State.storeMiss_keeps
        with_reducible apply State.leaveStreaming_keeps
        assumption

theorem State.performStore_keeps {q : Prop} {a0 : State} (s : State) (h' : ℕ) (st : HeldStore) (hs : Keeps q a0 s) :
    Keeps q a0 (State.performStore s h' st).1 := by
  unfold State.performStore
  extract_lets +onlyGivenNames x1
  clear_value x1
  extract_lets +onlyGivenNames x2
  have hx2 : Keeps q a0 x2 := by
    dsimp -zeta -proj only [x2]
    with_reducible apply State.reclaim_keeps
    assumption
  clear_value x2
  with_reducible apply Keeps.iteP
  · extract_lets +onlyGivenNames x3
    clear_value x3
    with_reducible apply Keeps.fst
    with_reducible apply State.asyncError_keeps
    with_reducible apply State.log_keeps
    with_reducible apply State.dropCopy_keeps
    assumption
  · split
    · rename_i v4 v5 v6
      with_reducible apply Keeps.iteP
      · with_reducible apply Keeps.fst
        with_reducible apply State.storeMiss_keeps
        assumption
      · with_reducible apply State.storeHit_keeps
        assumption
    · rename_i v7 v8
      with_reducible apply Keeps.iteP
      · with_reducible apply Keeps.fst
        assumption
      · with_reducible apply Keeps.iteP
        · with_reducible apply State.storeStream_keeps
          assumption
        · with_reducible apply Keeps.fst
          with_reducible apply State.storeMiss_keeps
          assumption

theorem State.drainStores_keeps {q : Prop} {a0 : State} (s : State) (h a : Nat) (hs : Keeps q a0 s) :
    Keeps q a0 (State.drainStores s h a) := by
  induction a generalizing s with
  | zero => exact hs
  | succ n ih =>
    unfold State.drainStores
    split
    · exact hs
    · split
      rename_i e
      have h1 := Keeps.of_pair e (State.performStore_keeps _ _ _ hs)
      exact Keeps.ite (ih _ (State.updHart_keeps _ _ _ h1)) h1

theorem State.settleHarts_keeps {q : Prop} {a0 : State} (s : State) (hs : Keeps q a0 s) :
    Keeps q a0 (State.settleHarts s) := by
  unfold State.settleHarts
  with_reducible apply Keeps.foldl
  · intro w1 w2 w3
    with_reducible apply State.drainStores_keeps
    with_reducible apply Keeps.ite
    · assumption
    · with_reducible apply State.writeCombine_keeps
      assumption
  · assumption

theorem State.dropGsReads_keeps {q : Prop} {a0 : State} (s : State) (b : ℕ) (hs : Keeps q a0 s) :
    Keeps q a0 (State.dropGsReads s b) := by
  unfold State.dropGsReads
  extract_lets +onlyGivenNames x1
  clear_value x1
  exact Keeps.put (by assumption) id rfl (Nat.le_refl _) fun _ => rfl

theorem State.resetSeq_keeps {q : Prop} {a0 : State} (s : State) (b : Nat) (hs : Keeps q a0 s) :
    Keeps q a0 (State.resetSeq s b) := by
  unfold State.resetSeq
  try extract_lets +onlyGivenNames x1
  try clear_value x1
  try (extract_lets +onlyGivenNames x2
       have hx2 : Keeps q a0 x2 := by
         try dsimp -zeta only [x2]
         exact Keeps.put (by assumption) id rfl (Nat.le_refl _) fun _ => rfl
       clear_value x2)
  try (extract_lets +onlyGivenNames x3
       have hx3 : Keeps q a0 x3 := by
         try dsimp -zeta only [x3]
         with_reducible apply State.loseCache_keeps; assumption
       clear_value x3)
  exact Keeps.put (by assumption) id rfl (Nat.le_refl _) fun _ => rfl

theorem State.releaseReset_keeps {q : Prop} {a0 : State} (s : State) (b : ℕ) (hs : Keeps q a0 s) :
    Keeps q a0 (State.releaseReset s b) := by
  unfold State.releaseReset
  with_reducible apply State.dropGsReads_keeps
  with_reducible apply State.resetSeq_keeps
  with_reducible apply State.releaseBlock_keeps
  assumption

theorem State.retire_keeps {q : Prop} {a0 : State} (s : State) (h : Nat) (hs : Keeps q a0 s) :
    Keeps q a0 (State.retire s h) := by
  unfold State.retire
  with_reducible apply State.nextFree_keeps; with_reducible apply State.updHart_keeps; assumption

theorem State.retireWith_keeps {q : Prop} {a0 : State} (s : State) (h : Nat) (v : W64) (hs : Keeps q a0 s) :
    Keeps q a0 (State.retireWith s h v) := by
  unfold State.retireWith
  with_reducible apply State.retire_keeps; with_reducible apply State.updHart_keeps; assumption

theorem State.loadMiss_keeps {q : Prop} {a0 : State} (s : State) (h' : ℕ) (line : ℕ) (hs : Keeps q a0 s) :
    Keeps q a0 (State.loadMiss s h' line) := by
  unfold State.loadMiss
  with_reducible apply Keeps.ite
  · assumption
  · with_reducible apply State.askNext_keeps
    with_reducible apply State.bump_keeps
    with_reducible apply State.updHart_keeps
    with_reducible apply State.leaveStreaming_keeps
    assumption

theorem State.armStore_keeps {q : Prop} {a0 : State} (s : State) (i : Nat) (armer : Nat) (off : Nat) (v : W64) (hs : Keeps q a0 s) :
    Keeps q a0 (State.armStore s i armer off v) := by
  unfold State.armStore
  split
  · with_reducible apply State.setArm_keeps; assumption
  · with_reducible apply State.setArm_keeps; assumption
  · with_reducible apply State.setArm_keeps; assumption
  · with_reducible apply State.armPush_keeps; assumption
  · with_reducible apply State.watchCancel_keeps; assumption
  · assumption

theorem State.eventRead_keeps {q : Prop} {a0 : State} (s : State) (i : ℕ) (hs : Keeps q a0 s) :
    Keeps q a0 (State.eventRead s i).1 := by
  unfold State.eventRead
  split
  · rename_i v1 v2 v3 v4
    extract_lets +onlyGivenNames x5
    have hx5 : Keeps q a0 x5 := by
      dsimp -zeta -proj only [x5]
      exact Keeps.put (by assumption) id rfl (Nat.le_refl _) fun _ => rfl
    clear_value x5
    with_reducible apply Keeps.fst
    with_reducible apply Keeps.ite
    · with_reducible apply State.updHart_keeps
      assumption
    · assumption
  · rename_i v6 v7
    with_reducible apply Keeps.fst
    assumption

theorem State.armLoad_keeps {q : Prop} {a0 : State} (s : State) (i : Nat) (off : Nat) (hs : Keeps q a0 s) :
    Keeps q a0 (State.armLoad s i off).1 := by
  unfold State.armLoad
  split
  · show Keeps q a0 _
    try dsimp -zeta only
    assumption
  · show Keeps q a0 _
    try dsimp -zeta only
    assumption
  · with_reducible apply State.eventRead_keeps; assumption
  · show Keeps q a0 _
    try dsimp -zeta only
    assumption

theorem State.pushOut_keeps {q : Prop} {a0 : State} (s : State) (h : Nat) (hs : Keeps q a0 s) :
    Keeps q a0 (State.pushOut s h) := by
  unfold State.pushOut
  try (extract_lets +onlyGivenNames x1
       have hx1 : Keeps q a0 x1 := by
         try dsimp -zeta only [x1]
         with_reducible apply State.wcFlush_keeps; with_reducible apply State.drainStores_keeps; assumption
       clear_value x1)
  with_reducible apply State.writeCombine_keeps; assumption

theorem State.admitEvent_keeps {q : Prop} {a0 : State} (s : State) (q' : ℕ) (e : QEvent) (hs : Keeps q a0 s) :
    Keeps q a0 (State.admitEvent s q' e) := by
  unfold State.admitEvent
  extract_lets +onlyGivenNames x1
  have hx1 : Keeps q a0 x1 := by
    dsimp -zeta -proj only [x1]
    exact Keeps.put (by assumption) id rfl (Nat.le_refl _) fun _ => rfl
  clear_value x1
  with_reducible apply Keeps.ite
  · exact Keeps.put (by assumption) id rfl (Nat.le_refl _) fun _ => rfl
  · extract_lets +onlyGivenNames x2
    clear_value x2
    extract_lets +onlyGivenNames x3
    have hx3 : Keeps q a0 x3 := by
      dsimp -zeta -proj only [x3]
      with_reducible apply Keeps.ite
      · with_reducible apply State.updHart_keeps
        assumption
      · assumption
    clear_value x3
    with_reducible apply State.wake_keeps
    assumption

theorem State.watchCancelBy_keeps {q : Prop} {a0 : State} (s : State) (a : Agent) (v : W64) (hs : Keeps q a0 s) :
    Keeps q a0 (State.watchCancelBy s a v) := by
  unfold State.watchCancelBy
  split
  · with_reducible apply State.watchCancel_keeps; assumption
  · assumption

theorem State.kind2Refused_keeps {q : Prop} {a0 : State} (s : State) (r : Nat) (st : Nat) (x : Fired) (hs : Keeps q a0 s) :
    Keeps q a0 (State.kind2Refused s r st x) := by
  unfold State.kind2Refused
  with_reducible apply State.log_keeps; assumption

theorem State.enterEvent_keeps {q : Prop} {a0 : State} (s : State) (home : ℕ) (q' : ℕ) (e : QEvent) (hs : Keeps q a0 s) :
    Keeps q a0 (State.enterEvent s home q' e) := by
  unfold State.enterEvent
  with_reducible apply Keeps.ite
  · with_reducible apply State.bump_keeps
    exact Keeps.put (by assumption) id rfl (Nat.le_refl _) fun _ => rfl
  · with_reducible apply State.admitEvent_keeps
    assumption

theorem State.watchExpire_keeps {q : Prop} {a0 : State} (s : State) (r : Nat) (key : Nat) (hs : Keeps q a0 s) :
    Keeps q a0 (State.watchExpire s r key) := by
  unfold State.watchExpire
  try extract_lets +onlyGivenNames x1
  try clear_value x1
  split
  · with_reducible apply Keeps.ite
    · with_reducible apply State.releaseWatch_keeps; assumption
    · assumption
  · assumption

theorem State.pegStore_keeps {q : Prop} {a0 : State} (s : State) (a : Agent) (p : Nat) (off : Nat) (v : W64) (hs : Keeps q a0 s) :
    Keeps q a0 (State.pegStore s a p off v) := by
  unfold State.pegStore
  split
  · with_reducible apply State.pegSet_keeps; assumption
  · with_reducible apply State.pegAdd_keeps; assumption
  · with_reducible apply State.pegCasExpect_keeps; assumption
  · with_reducible apply State.pegStatusClear_keeps; assumption
  · with_reducible apply State.pegRelAdd_keeps; assumption

theorem State.pegLoad_keeps {q : Prop} {a0 : State} (s : State) (a : Agent) (p : Nat) (off : Nat) (hs : Keeps q a0 s) :
    Keeps q a0 (State.pegLoad s a p off).1 := by
  unfold State.pegLoad
  with_reducible apply Keeps.iteP
  · split
    · rename_i p1 p2 heq
      have hp1 : Keeps q a0 p1 := Keeps.of_pair heq (by
        try dsimp -zeta only
        with_reducible apply State.pegAcquire_keeps
        · assumption
        )
      show Keeps q a0 _
      try dsimp -zeta only
      assumption
  · with_reducible apply Keeps.iteP
    · show Keeps q a0 _
      try dsimp -zeta only
      assumption
    · show Keeps q a0 _
      try dsimp -zeta only
      assumption

theorem State.deliver_keeps {q : Prop} {a0 : State} (s : State) (a : Agent) (v : W64) (hs : Keeps q a0 s) :
    Keeps q a0 (State.deliver s a v) := by
  unfold State.deliver
  split
  · with_reducible apply State.updHart_keeps; assumption
  · assumption

theorem State.watchEventRead_keeps {q : Prop} {a0 : State} (s : State) (a : Agent) (hs : Keeps q a0 s) :
    Keeps q a0 (State.watchEventRead s a) := by
  unfold State.watchEventRead
  split
  · split
    · rename_i p2 p3 heq
      have hp2 : Keeps q a0 p2 := Keeps.of_pair heq (by
        try dsimp -zeta only
        with_reducible apply State.eventRead_keeps
        · assumption
        )
      with_reducible apply State.deliver_keeps; assumption
  · assumption

theorem State.kind2Write_keeps {q : Prop} {a0 : State} (s : State) (r : ℕ) (x : Fired) (hs : Keeps q a0 s) :
    ∀ t, (State.kind2Write s r x) = some t → Keeps q a0 t := by
  unfold State.kind2Write
  extract_lets +onlyGivenNames x1
  clear_value x1
  extract_lets +onlyGivenNames x2
  clear_value x2
  extract_lets +onlyGivenNames x3
  clear_value x3
  extract_lets +onlyGivenNames x4
  clear_value x4
  extract_lets +onlyGivenNames x5
  have hx5 : ∀ w0 w1, Keeps q a0 (x5 w0 w1) := by
    dsimp -zeta -proj only [x5]
    intro w6 w7
    extract_lets +onlyGivenNames x8
    clear_value x8
    with_reducible apply Keeps.ite
    · with_reducible apply State.issue_keeps
      assumption
    · with_reducible apply State.logLost_keeps
      assumption
  clear_value x5
  split
  · rename_i v9
    intro t e
    cases e
    with_reducible apply hx5
  · rename_i v10
    split
    · rename_i v11
      intro t e
      cases e
    · rename_i v12
      split
      · rename_i v13 v14
        intro t e
        cases e
        with_reducible apply State.kind2Refused_keeps
        assumption
      · rename_i v15 v16 v17 v18
        split
        · rename_i v19 v20
          intro t e
          cases e
          with_reducible apply State.fabLogAdd_keeps
          with_reducible apply State.kind2Refused_keeps
          assumption
        · rename_i v21 v22 v23 v24
          split
          · rename_i v25 v26 v27 v28
            intro t e
            cases e
            with_reducible apply State.kind2Refused_keeps
            assumption
          · rename_i v29 v30 v31
            intro t e
            cases e
            with_reducible apply State.kind2Refused_keeps
            assumption
          · rename_i v32 v33
            intro t e
            cases e
            with_reducible apply State.kind2Refused_keeps
            assumption
          · rename_i v34 v35 v36 v37
            intro t e
            cases e
            with_reducible apply hx5
        · rename_i v38 v39 v40 v41 v42 v43
          intro t e
          cases e
          with_reducible apply hx5
        · rename_i v44 v45 v46 v47 v48 v49
          intro t e
          cases e
          with_reducible apply State.wrNat_keeps
          assumption
        · rename_i v50 v51 v52 v53 v54 v55
          split
          · rename_i v56
            intro t e
            cases e
          · rename_i v57
            split
            rename_i v58 v59 v60 v61
            have h62 : Keeps q a0 v59 := by
              refine Keeps.of_pair v61 ?_
              with_reducible apply State.writeBytes_keeps
              assumption
            intro t e
            cases e
            with_reducible apply Keeps.ite
            · with_reducible apply State.t4Write_keeps
              assumption
            · assumption
        · rename_i v63 v64 v65 v66 v67 v68
          split
          · rename_i v69
            intro t e
            cases e
          · rename_i v70
            split
            rename_i v71 v72 v73 v74
            have h75 : Keeps q a0 v72 := by
              refine Keeps.of_pair v74 ?_
              with_reducible apply State.writeBytes_keeps
              assumption
            intro t e
            cases e
            with_reducible apply Keeps.ite
            · with_reducible apply State.t4Write_keeps
              assumption
            · assumption
        · rename_i v76 v77 v78 v79 v80 v81
          split
          · rename_i v82
            intro t e
            cases e
          · rename_i v83
            split
            rename_i v84 v85 v86 v87
            have h88 : Keeps q a0 v85 := by
              refine Keeps.of_pair v87 ?_
              with_reducible apply State.writeBytes_keeps
              assumption
            intro t e
            cases e
            with_reducible apply Keeps.ite
            · with_reducible apply State.t4Write_keeps
              assumption
            · assumption
        · rename_i v89 v90 v91 v92 v93 v94 v95 v96 v97 v98
          intro t e
          cases e
          with_reducible apply State.kind2Refused_keeps
          assumption

theorem State.dropHome_keeps {q : Prop} {a0 : State} (s : State) (r : ℕ) (hs : Keeps q a0 s) :
    Keeps q a0 (State.dropHome s r) := by
  unfold State.dropHome
  extract_lets +onlyGivenNames x1
  clear_value x1
  extract_lets +onlyGivenNames x2
  have hx2 : Keeps q a0 x2 := by
    dsimp -zeta -proj only [x2]
    exact Keeps.put (by assumption) id rfl (Nat.le_refl _) fun _ => rfl
  clear_value x2
  with_reducible apply Keeps.foldl
  · intro w3 w4 w5
    with_reducible apply State.enterEvent_keeps
    assumption
  · assumption

theorem State.eventAdmit_keeps {q : Prop} {a0 : State} (s : State) (r : ℕ) (hs : Keeps q a0 s) :
    Keeps q a0 (State.eventAdmit s r) := by
  unfold State.eventAdmit
  extract_lets +onlyGivenNames x1
  clear_value x1
  split
  · rename_i v2 v3 v4 v5 v6
    with_reducible apply State.admitEvent_keeps
    exact Keeps.put (by assumption) id rfl (Nat.le_refl _) fun _ => rfl
  · rename_i v7 v8
    assumption

theorem State.watchArm_keeps {q : Prop} {a0 : State} (s : State) (a : Agent) (v : W64) (hs : Keeps q a0 s) :
    Keeps q a0 (State.watchArm s a v) := by
  unfold State.watchArm
  split
  · with_reducible apply State.armPush_keeps; assumption
  · assumption

theorem State.watchDeliver_keeps {q : Prop} {a0 : State} (s : State) (r : ℕ) (hs : Keeps q a0 s) :
    Keeps q a0 (State.watchDeliver s r) := by
  unfold State.watchDeliver
  split
  · rename_i v1 v2 v3 v4
    extract_lets +onlyGivenNames x5
    have hx5 : Keeps q a0 x5 := by
      dsimp -zeta -proj only [x5]
      exact Keeps.put (by assumption) id rfl (Nat.le_refl _) fun _ => rfl
    clear_value x5
    with_reducible apply Keeps.ite
    · refine Keeps.getD ?_ ?_
      · with_reducible apply State.kind2Write_keeps
        assumption
      · assumption
    · with_reducible apply State.enterEvent_keeps
      assumption
  · rename_i v6 v7
    assumption

theorem State.tellLeader_keeps {q : Prop} {a0 : State} (s : State) (serial : Nat) (port : Nat) (old : Nat) (new : Nat) (hs : Keeps q a0 s) :
    Keeps q a0 (State.tellLeader s serial port old new) := by
  unfold State.tellLeader
  split
  · with_reducible apply State.sendCtl_keeps; assumption
  · assumption

theorem State.moveTraffic_keeps {q : Prop} {a0 : State} (s : State) (k : ℕ) (anew : Bool) (hs : Keeps q a0 s) :
    Keeps q a0 (State.moveTraffic s k anew) := by
  unfold State.moveTraffic
  extract_lets +onlyGivenNames x1
  clear_value x1
  extract_lets +onlyGivenNames x2
  have hx2 : Keeps q a0 x2 := by
    dsimp -zeta -proj only [x2]
    with_reducible apply State.updPort_keeps
    assumption
  clear_value x2
  with_reducible apply Keeps.foldl
  · intro w3 w4 w5
    extract_lets +onlyGivenNames x6
    have hx6 : Keeps q a0 x6 := by
      dsimp -zeta -proj only [x6]
      with_reducible apply State.updPort_keeps
      assumption
    clear_value x6
    split
    · rename_i v7 v8 v9 v10 v11
      extract_lets +onlyGivenNames x12
      clear_value x12
      with_reducible apply Keeps.ite
      · refine Keeps.getD ?_ ?_
        · with_reducible apply State.forward_keeps
          assumption
        · assumption
      · split
        · rename_i v13 v14 v15
          extract_lets +onlyGivenNames x16
          clear_value x16
          extract_lets +onlyGivenNames x17
          clear_value x17
          split
          · rename_i v18 v19
            with_reducible apply State.sendItem_keeps
            assumption
          · rename_i v20
            assumption
        · rename_i v21 v22
          assumption
    · rename_i v23 v24
      with_reducible apply Keeps.ite
      · assumption
      · assumption
  · assumption

theorem State.leaveActive_keeps {q : Prop} {a0 : State} (s : State) (k : Nat) (cause : Nat) (next : PortState) (hs : Keeps q a0 s) :
    Keeps q a0 (State.leaveActive s k cause next) := by
  unfold State.leaveActive
  try extract_lets +onlyGivenNames x1
  try clear_value x1
  try (extract_lets +onlyGivenNames x2
       have hx2 : Keeps q a0 x2 := by
         try dsimp -zeta only [x2]
         with_reducible apply State.bump_keeps; with_reducible apply State.updPort_keeps; assumption
       clear_value x2)
  with_reducible apply State.moveTraffic_keeps; with_reducible apply State.fabLogAdd_keeps; assumption

theorem State.retryFlit_keeps {q : Prop} {a0 : State} (s : State) (k : ℕ) (seq : ℕ) (hs : Keeps q a0 s) :
    Keeps q a0 (State.retryFlit s k seq) := by
  unfold State.retryFlit
  with_reducible apply State.emit_keeps
  assumption

theorem State.askRetry_keeps {q : Prop} {a0 : State} (s : State) (k : ℕ) (hs : Keeps q a0 s) :
    Keeps q a0 (State.askRetry s k) := by
  unfold State.askRetry
  extract_lets +onlyGivenNames x1
  clear_value x1
  with_reducible apply Keeps.ite
  · assumption
  · with_reducible apply State.bump_keeps
    with_reducible apply State.retryFlit_keeps
    with_reducible apply State.setPort_keeps
    assumption

theorem State.beatSend_keeps {q : Prop} {a0 : State} (s : State) (hs : Keeps q a0 s) :
    Keeps q a0 (State.beatSend s) := by
  unfold State.beatSend
  with_reducible apply Keeps.ite
  · try extract_lets +onlyGivenNames x1
    try clear_value x1
    with_reducible apply Keeps.foldl
    · intro s2 x2 hs2
      try dsimp -zeta only
      with_reducible apply State.sendCtl_keeps; assumption
    · assumption
  · assumption

theorem State.startTraining_keeps {q : Prop} {a0 : State} (s : State) (k : Nat) (hs : Keeps q a0 s) :
    Keeps q a0 (State.startTraining s k) := by
  unfold State.startTraining
  with_reducible apply State.updPort_keeps; assumption

theorem State.linkFailure_keeps {q : Prop} {a0 : State} (s : State) (k : Nat) (hs : Keeps q a0 s) :
    Keeps q a0 (State.linkFailure s k) := by
  unfold State.linkFailure
  with_reducible apply Keeps.ite
  · with_reducible apply State.startTraining_keeps; with_reducible apply State.leaveActive_keeps; assumption
  · assumption

theorem State.retryRepeat_keeps {q : Prop} {a0 : State} (s : State) (k : ℕ) (hs : Keeps q a0 s) :
    Keeps q a0 (State.retryRepeat s k) := by
  unfold State.retryRepeat
  extract_lets +onlyGivenNames x1
  clear_value x1
  split
  · rename_i v2 v3 v4
    extract_lets +onlyGivenNames x5
    have hx5 : Keeps q a0 x5 := by
      dsimp -zeta -proj only [x5]
      with_reducible apply State.bump_keeps
      with_reducible apply State.retryFlit_keeps
      with_reducible apply State.setPort_keeps
      assumption
    clear_value x5
    with_reducible apply Keeps.ite
    · with_reducible apply State.linkFailure_keeps
      assumption
    · assumption
  · rename_i v6 v7
    assumption

theorem State.updFab_keeps {q : Prop} {a0 : State} (s : State) (f : Fab → Fab) (hs : Keeps q a0 s) (hf : ∀ x, (f x).serial = x.serial) :
    Keeps q a0 (s.updFab f) := by
  unfold State.updFab
  with_reducible apply Keeps.put
  · exact hs
  · exact id
  · exact hf _
  · exact Nat.le_refl _
  · exact fun _ => rfl

theorem State.sendHellos_keeps {q : Prop} {a0 : State} (s : State) (hs : Keeps q a0 s) :
    Keeps q a0 (State.sendHellos s) := by
  unfold State.sendHellos
  with_reducible apply Keeps.foldl
  · intro s2 x2 hs2
    try dsimp -zeta only
    try extract_lets +onlyGivenNames x1
    try clear_value x1
    with_reducible apply Keeps.ite
    · with_reducible apply State.sendCtl_keeps; with_reducible apply State.updPort_keeps; assumption
    · assumption
  · assumption

theorem State.holdMap_keeps {q : Prop} {a0 : State} (s : State) (m : MapSegment) (es : List MapEntry) (hs : Keeps q a0 s) :
    Keeps q a0 (State.holdMap s m es) := by
  unfold State.holdMap
  extract_lets +onlyGivenNames x1
  clear_value x1
  extract_lets +onlyGivenNames x2
  clear_value x2
  extract_lets +onlyGivenNames x3
  clear_value x3
  extract_lets +onlyGivenNames x4
  clear_value x4
  extract_lets +onlyGivenNames x5
  have hx5 : ∀ w0 w1 w2, Keeps q a0 w0 → Keeps q a0 (x5 w0 w1 w2) := by
    dsimp -zeta -proj only [x5]
    intro w6 w7 w8 w9
    with_reducible apply Keeps.ite
    · extract_lets +onlyGivenNames x10
      have hx10 : Keeps q a0 x10 := by
        dsimp -zeta -proj only [x10]
        with_reducible apply State.bump_keeps
        with_reducible apply State.updPort_keeps
        assumption
      clear_value x10
      with_reducible apply State.fabLogAdd_keeps
      with_reducible apply State.moveTraffic_keeps
      assumption
    · assumption
  clear_value x5
  extract_lets +onlyGivenNames x11
  have hx11 : Keeps q a0 x11 := by
    dsimp -zeta -proj only [x11]
    with_reducible apply State.updFab_keeps
    · assumption
    · exact fun _ => rfl
  clear_value x11
  split
  · rename_i v12 v13
    with_reducible apply Keeps.ite
    · extract_lets +onlyGivenNames x14
      have hx14 : Keeps q a0 x14 := by
        dsimp -zeta -proj only [x14]
        with_reducible apply Keeps.ite
        · with_reducible apply Keeps.foldl
          · intro w15 w16 w17
            with_reducible apply Keeps.ite
            · with_reducible apply hx5
              assumption
            · assumption
          · assumption
        · assumption
      clear_value x14
      with_reducible apply State.updFab_keeps
      · assumption
      · exact fun _ => rfl
    · extract_lets +onlyGivenNames x18
      clear_value x18
      extract_lets +onlyGivenNames x19
      clear_value x19
      extract_lets +onlyGivenNames x20
      clear_value x20
      extract_lets +onlyGivenNames x21
      have hx21 : Keeps q a0 x21 := by
        dsimp -zeta -proj only [x21]
        exact Keeps.put (by assumption) id rfl (Nat.le_refl _) fun _ => rfl
      clear_value x21
      extract_lets +onlyGivenNames x22
      have hx22 : Keeps q a0 x22 := by
        dsimp -zeta -proj only [x22]
        with_reducible apply State.updFab_keeps
        · assumption
        · exact fun _ => rfl
      clear_value x22
      extract_lets +onlyGivenNames x23
      have hx23 : Keeps q a0 x23 := by
        dsimp -zeta -proj only [x23]
        with_reducible apply Keeps.foldl
        · intro w24 w25 w26
          with_reducible apply Keeps.foldl
          · intro w27 w28 w29
            with_reducible apply Keeps.ite
            · with_reducible apply hx5
              assumption
            · assumption
          · assumption
        · assumption
      clear_value x23
      with_reducible apply State.sendHellos_keeps
      assumption
  · rename_i v30
    with_reducible apply State.updFab_keeps
    · assumption
    · exact fun _ => rfl

theorem State.broadcastMap_keeps {q : Prop} {a0 : State} (s : State) (version : Nat) (tableMode : Bool) (leader : Nat) (es : List MapEntry) (hs : Keeps q a0 s) :
    Keeps q a0 (State.broadcastMap s version tableMode leader es) := by
  unfold State.broadcastMap
  try extract_lets +onlyGivenNames x1
  try clear_value x1
  try extract_lets +onlyGivenNames x2
  try clear_value x2
  try (extract_lets +onlyGivenNames x3
       have hx3 : Keeps q a0 x3 := by
         try dsimp -zeta only [x3]
         with_reducible apply Keeps.foldl
         · intro s2 x2 hs2
           try dsimp -zeta only
           with_reducible apply Keeps.foldl
           · intro s2 x2 hs2
             try dsimp -zeta only
             with_reducible apply State.sendCtl_keeps; assumption
           · assumption
         · assumption
       clear_value x3)
  with_reducible apply State.holdMap_keeps; assumption

theorem State.newVersion_keeps {q : Prop} {a0 : State} (s : State) (es : List MapEntry) (hs : Keeps q a0 s) :
    Keeps q a0 (State.newVersion s es) := by
  unfold State.newVersion
  with_reducible apply State.broadcastMap_keeps
  assumption

theorem State.portEventReceive_keeps {q : Prop} {a0 : State} (s : State) (serial : ℕ) (port : ℕ) (oldState : ℕ) (newState : ℕ) (hs : Keeps q a0 s) :
    Keeps q a0 (State.portEventReceive s serial port oldState newState) := by
  unfold State.portEventReceive
  with_reducible apply Keeps.ite
  · assumption
  · with_reducible apply Keeps.ite
    · split
      · rename_i v1 v2 v3
        with_reducible apply State.sendCtl_keeps
        assumption
      · rename_i v4 v5
        assumption
    · extract_lets +onlyGivenNames x6
      clear_value x6
      extract_lets +onlyGivenNames x7
      clear_value x7
      split
      · rename_i v8
        assumption
      · rename_i v9 v10
        extract_lets +onlyGivenNames x11
        clear_value x11
        extract_lets +onlyGivenNames x12
        clear_value x12
        with_reducible apply State.newVersion_keeps
        assumption

theorem State.portEventOut_keeps {q : Prop} {a0 : State} (s : State) (serial : ℕ) (port : ℕ) (old : ℕ) (new : ℕ) (hs : Keeps q a0 s) :
    Keeps q a0 (State.portEventOut s serial port old new) := by
  unfold State.portEventOut
  with_reducible apply Keeps.ite
  · with_reducible apply State.portEventReceive_keeps
    assumption
  · with_reducible apply State.tellLeader_keeps
    assumption

theorem State.dupClaim_keeps {q : Prop} {a0 : State} (s : State) (key : LeaderKey) (hs : Keeps q a0 s) :
    Keeps q a0 (State.dupClaim s key) := by
  unfold State.dupClaim
  with_reducible apply Keeps.ite
  · with_reducible apply State.updFab_keeps
    · assumption
    · exact fun _ => rfl
  · assumption

theorem State.learnKey_keeps {q : Prop} {a0 : State} (s : State) (k : ℕ) (key : LeaderKey) (hops : ℕ) (hs : Keeps q a0 s) :
    Keeps q a0 (State.learnKey s k key hops) := by
  unfold State.learnKey
  extract_lets +onlyGivenNames x1
  have hx1 : Keeps q a0 x1 := by
    dsimp -zeta -proj only [x1]
    with_reducible apply State.dupClaim_keeps
    assumption
  clear_value x1
  with_reducible apply Keeps.ite
  · assumption
  · with_reducible apply Keeps.ite
    · extract_lets +onlyGivenNames x2
      have hx2 : Keeps q a0 x2 := by
        dsimp -zeta -proj only [x2]
        with_reducible apply State.updFab_keeps
        · assumption
        · exact fun _ => rfl
      clear_value x2
      with_reducible apply State.sendHellos_keeps
      with_reducible apply Keeps.foldl
      · intro w3 w4 w5
        with_reducible apply State.sendCtl_keeps
        assumption
      · assumption
    · with_reducible apply Keeps.ite
      · split
        · rename_i v6 v7 v8
          with_reducible apply Keeps.ite
          · with_reducible apply State.sendHellos_keeps
            with_reducible apply State.updFab_keeps
            · assumption
            · exact fun _ => rfl
          · assumption
        · rename_i v9 v10
          assumption
      · assumption

theorem State.startElection_keeps {q : Prop} {a0 : State} (s : State) (hs : Keeps q a0 s) :
    Keeps q a0 (State.startElection s) := by
  unfold State.startElection
  try (extract_lets +onlyGivenNames x1
       have hx1 : Keeps q a0 x1 := by
         try dsimp -zeta only [x1]
         with_reducible apply State.updFab_keeps
         on_goal 2 => first | (intro _; rfl) | (intro x; dsimp only; repeat' first | rfl | split)
         · assumption
       clear_value x1)
  try (extract_lets +onlyGivenNames x2
       have hx2 : Keeps q a0 x2 := by
         try dsimp -zeta only [x2]
         with_reducible apply State.sendHellos_keeps
         · with_reducible apply Keeps.foldl
           · intro s2 x2 hs2
             try dsimp -zeta only
             with_reducible apply State.sendCtl_keeps; assumption
           · assumption
       clear_value x2)
  with_reducible apply Keeps.foldl
  · intro s2 x2 hs2
    try dsimp -zeta only
    split
    · with_reducible apply Keeps.ite
      · assumption
      · with_reducible apply State.learnKey_keeps; assumption
    · assumption
  · assumption

theorem State.sendJoin_keeps {q : Prop} {a0 : State} (s : State) (k : Nat) (hs : Keeps q a0 s) :
    Keeps q a0 (State.sendJoin s k) := by
  unfold State.sendJoin
  with_reducible apply State.sendCtl_keeps
  · with_reducible apply State.updFab_keeps
    on_goal 2 => first | (intro _; rfl) | (intro x; dsimp only; repeat' first | rfl | split)
    · assumption

theorem State.reportSettled_keeps {q : Prop} {a0 : State} (s : State) (r : Report) (hs : Keeps q a0 s) :
    Keeps q a0 (State.reportSettled s r) := by
  unfold State.reportSettled
  with_reducible apply Keeps.ite
  · with_reducible apply State.newVersion_keeps
    assumption
  · assumption

theorem State.newLink_keeps {q : Prop} {a0 : State} (s : State) (hs : Keeps q a0 s) :
    Keeps q a0 (State.newLink s) := by
  unfold State.newLink
  with_reducible apply Keeps.ite
  · with_reducible apply State.reportSettled_keeps
    assumption
  · split
    · rename_i v1 v2 v3
      with_reducible apply State.sendCtl_keeps
      assumption
    · rename_i v4 v5
      assumption

theorem State.helloPassed_keeps {q : Prop} {a0 : State} (s : State) (k : ℕ) (h' : Hello) (hs : Keeps q a0 s) :
    Keeps q a0 (State.helloPassed s k h') := by
  unfold State.helloPassed
  extract_lets +onlyGivenNames x1
  have hx1 : Keeps q a0 x1 := by
    dsimp -zeta -proj only [x1]
    with_reducible apply State.updPort_keeps
    assumption
  clear_value x1
  extract_lets +onlyGivenNames x2
  have hx2 : Keeps q a0 x2 := by
    dsimp -zeta -proj only [x2]
    with_reducible apply State.pump_keeps
    assumption
  clear_value x2
  with_reducible apply Keeps.ite
  · with_reducible apply State.learnKey_keeps
    with_reducible apply State.startElection_keeps
    with_reducible apply State.updFab_keeps
    · assumption
    · exact fun _ => rfl
  · with_reducible apply Keeps.ite
    · with_reducible apply State.sendJoin_keeps
      assumption
    · with_reducible apply Keeps.ite
      · with_reducible apply Keeps.ite
        · with_reducible apply State.newLink_keeps
          assumption
        · assumption
      · extract_lets +onlyGivenNames x3
        have hx3 : Keeps q a0 x3 := by
          dsimp -zeta -proj only [x3]
          with_reducible apply Keeps.ite
          · with_reducible apply State.startElection_keeps
            assumption
          · with_reducible apply State.sendCtl_keeps
            assumption
        clear_value x3
        with_reducible apply State.learnKey_keeps
        assumption

theorem State.leaderLost_keeps {q : Prop} {a0 : State} (s : State) (hs : Keeps q a0 s) :
    Keeps q a0 (State.leaderLost s) := by
  unfold State.leaderLost
  try extract_lets +onlyGivenNames x1
  try clear_value x1
  with_reducible apply Keeps.ite
  · with_reducible apply State.startElection_keeps
    · with_reducible apply State.updFab_keeps
      on_goal 2 => first | (intro _; rfl) | (intro x; dsimp only; repeat' first | rfl | split)
      · assumption
  · assumption

theorem State.routeLoad_keeps {q : Prop} {a0 : State} (s : State) (hs : Keeps q a0 s) :
    Keeps q a0 (State.routeLoad s) := by
  unfold State.routeLoad
  split
  · rename_i v1 v2
    assumption
  · rename_i v3 v4 v5 v6
    extract_lets +onlyGivenNames x7
    clear_value x7
    extract_lets +onlyGivenNames x8
    clear_value x8
    extract_lets +onlyGivenNames x9
    have hx9 : ∀ w0 w1, Keeps q a0 w0 → Keeps q a0 (x9 w0 w1) := by
      dsimp -zeta -proj only [x9]
      intro w10 w11 w12
      with_reducible apply State.setAll_keeps
      with_reducible apply State.updFab_keeps
      · assumption
      · exact fun _ => rfl
    clear_value x9
    with_reducible apply Keeps.ite
    · with_reducible apply hx9
      assumption
    · with_reducible apply Keeps.ite
      · with_reducible apply State.setAll_keeps
        assumption
      · split
        rename_i v13 v14 v15 v16 v17
        have h18 : Keeps q a0 v14 := by
          refine Keeps.of_pair v17 ?_
          with_reducible apply State.readBytes_keeps
          assumption
        extract_lets +onlyGivenNames x19
        clear_value x19
        split
        · rename_i v20 v21
          have h22 : Keeps q a0 v14 := by
            refine Keeps.of_pair v17 ?_
            with_reducible apply State.readBytes_keeps
            assumption
          with_reducible apply hx9
          with_reducible apply State.log_keeps
          assumption
        · rename_i v23
          have h24 : Keeps q a0 v14 := by
            refine Keeps.of_pair v17 ?_
            with_reducible apply State.readBytes_keeps
            assumption
          with_reducible apply Keeps.ite
          · with_reducible apply hx9
            with_reducible apply State.updFab_keeps
            · assumption
            · exact fun _ => rfl
          · with_reducible apply hx9
            assumption

theorem State.routeCtrlWrite_keeps {q : Prop} {a0 : State} (s : State) (ag : Agent) (v : W64) (hs : Keeps q a0 s) :
    Keeps q a0 (State.routeCtrlWrite s ag v) := by
  unfold State.routeCtrlWrite
  extract_lets +onlyGivenNames x1
  clear_value x1
  with_reducible apply Keeps.ite
  · with_reducible apply State.log_keeps
    assumption
  · extract_lets +onlyGivenNames x2
    have hx2 : Keeps q a0 x2 := by
      dsimp -zeta -proj only [x2]
      with_reducible apply State.setAll_keeps
      assumption
    clear_value x2
    with_reducible apply Keeps.ite
    · assumption
    · with_reducible apply State.routeLoad_keeps
      with_reducible apply State.updFab_keeps
      · assumption
      · exact fun _ => rfl

theorem State.routeSwitch_keeps {q : Prop} {a0 : State} (s : State) (hs : Keeps q a0 s) :
    Keeps q a0 (State.routeSwitch s) := by
  unfold State.routeSwitch
  split
  · with_reducible apply Keeps.ite
    · try extract_lets +onlyGivenNames x3
      try clear_value x3
      try (extract_lets +onlyGivenNames x4
           have hx4 : Keeps q a0 x4 := by
             try dsimp -zeta only [x4]
             with_reducible apply State.updFab_keeps
             on_goal 2 => first | (intro _; rfl) | (intro x; dsimp only; repeat' first | rfl | split)
             · assumption
           clear_value x4)
      try (extract_lets +onlyGivenNames x5
           have hx5 : Keeps q a0 x5 := by
             try dsimp -zeta only [x5]
             exact Keeps.put (by assumption) id rfl (Nat.le_refl _) fun _ => rfl
           clear_value x5)
      try (extract_lets +onlyGivenNames x6
           have hx6 : Keeps q a0 x6 := by
             try dsimp -zeta only [x6]
             with_reducible apply Keeps.foldl
             · intro s2 x2 hs2
               try dsimp -zeta only
               with_reducible apply Keeps.ite
               · assumption
               · with_reducible apply State.moveTraffic_keeps; assumption
             · assumption
           clear_value x6)
      with_reducible apply State.releaseOrdered_keeps; assumption
    · assumption
  · assumption

theorem State.ackTo_keeps {q : Prop} {a0 : State} (s : State) (k : Nat) (a : Nat) (hs : Keeps q a0 s) :
    Keeps q a0 (State.ackTo s k a) := by
  unfold State.ackTo
  split
  · with_reducible apply State.pump_keeps; with_reducible apply State.updPort_keeps; assumption
  · assumption

theorem State.resendFrom_keeps {q : Prop} {a0 : State} (s : State) (k : Nat) (seq : Nat) (hs : Keeps q a0 s) :
    Keeps q a0 (State.resendFrom s k seq) := by
  unfold State.resendFrom
  try extract_lets +onlyGivenNames x1
  try clear_value x1
  with_reducible apply State.bump_keeps
  · with_reducible apply Keeps.foldl
    · intro s2 x2 hs2
      try dsimp -zeta only
      with_reducible apply State.emit_keeps; assumption
    · assumption

theorem State.retryAsked_keeps {q : Prop} {a0 : State} (s : State) (k : ℕ) (seq : ℕ) (hs : Keeps q a0 s) :
    Keeps q a0 (State.retryAsked s k seq) := by
  unfold State.retryAsked
  extract_lets +onlyGivenNames x1
  clear_value x1
  with_reducible apply Keeps.ite
  · with_reducible apply State.linkFailure_keeps
    assumption
  · with_reducible apply State.resendFrom_keeps
    with_reducible apply State.updPort_keeps
    assumption

theorem State.linkFlit_keeps {q : Prop} {a0 : State} (s : State) (k : ℕ) (vc : ℕ) (credits : ℕ) (hs : Keeps q a0 s) :
    Keeps q a0 (State.linkFlit s k vc credits) := by
  unfold State.linkFlit
  with_reducible apply State.emit_keeps
  assumption

theorem State.flitReceive_keeps {q : Prop} {a0 : State} (s : State) (k : ℕ) (f : Flit) (hs : Keeps q a0 s) :
    Keeps q a0 (State.flitReceive s k f) := by
  unfold State.flitReceive
  extract_lets +onlyGivenNames x1
  clear_value x1
  with_reducible apply Keeps.ite
  · assumption
  · extract_lets +onlyGivenNames x2
    have hx2 : Keeps q a0 x2 := by
      dsimp -zeta -proj only [x2]
      with_reducible apply State.bump_keeps
      with_reducible apply State.bump_keeps
      with_reducible apply State.bump_keeps
      assumption
    clear_value x2
    with_reducible apply Keeps.ite
    · with_reducible apply State.askRetry_keeps
      assumption
    · extract_lets +onlyGivenNames x3
      have hx3 : Keeps q a0 x3 := by
        dsimp -zeta -proj only [x3]
        split
        · rename_i v4 v5 v6
          with_reducible apply State.ackTo_keeps
          assumption
        · rename_i v7 v8
          assumption
      clear_value x3
      extract_lets +onlyGivenNames x9
      have hx9 : Keeps q a0 x9 := by
        dsimp -zeta -proj only [x9]
        with_reducible apply Keeps.ite
        · with_reducible apply State.pump_keeps
          with_reducible apply State.updPort_keeps
          assumption
        · assumption
      clear_value x9
      with_reducible apply Keeps.ite
      · with_reducible apply State.retryAsked_keeps
        assumption
      · with_reducible apply Keeps.ite
        · assumption
        · with_reducible apply State.linkFlit_keeps
          with_reducible apply State.updPort_keeps
          assumption

theorem State.freeBuffer_keeps {q : Prop} {a0 : State} (s : State) (k : ℕ) (vc : ℕ) (n : ℕ) (hs : Keeps q a0 s) :
    Keeps q a0 (State.freeBuffer s k vc n) := by
  unfold State.freeBuffer
  extract_lets +onlyGivenNames x1
  clear_value x1
  with_reducible apply Keeps.ite
  · assumption
  · with_reducible apply State.linkFlit_keeps
    with_reducible apply State.updPort_keeps
    assumption

theorem State.discardPacket_keeps {q : Prop} {a0 : State} (s : State) (k : Nat) (cause : Nat) (p : Packet) (hs : Keeps q a0 s) :
    Keeps q a0 (State.discardPacket s k cause p) := by
  unfold State.discardPacket
  with_reducible apply State.fabLogAdd_keeps; assumption

theorem State.packetArrive_keeps {q : Prop} {a0 : State} (s : State) (k : ℕ) (p : Packet) (hs : Keeps q a0 s) :
    Keeps q a0 (State.packetArrive s k p) := by
  unfold State.packetArrive
  extract_lets +onlyGivenNames x1
  clear_value x1
  with_reducible apply Keeps.ite
  · assumption
  · extract_lets +onlyGivenNames x2
    have hx2 : Keeps q a0 x2 := by
      dsimp -zeta -proj only [x2]
      with_reducible apply State.freeBuffer_keeps
      assumption
    clear_value x2
    with_reducible apply Keeps.ite
    · assumption
    · extract_lets +onlyGivenNames x3
      have hx3 : Keeps q a0 x3 := by
        dsimp -zeta -proj only [x3]
        with_reducible apply Keeps.ite
        · with_reducible apply State.updFab_keeps
          · assumption
          · exact fun _ => rfl
        · assumption
      clear_value x3
      with_reducible apply Keeps.ite
      · with_reducible apply State.discardPacket_keeps
        assumption
      · with_reducible apply Keeps.ite
        · exact Keeps.put (by assumption) id rfl (Nat.le_refl _) fun _ => rfl
        · with_reducible apply Keeps.ite
          · with_reducible apply State.discardPacket_keeps
            assumption
          · extract_lets +onlyGivenNames x4
            have hx4 : Keeps q a0 x4 := by
              dsimp -zeta -proj only [x4]
              with_reducible apply State.countSpill_keeps
              assumption
            clear_value x4
            split
            · rename_i v5 v6 v7
              have h8 : Keeps q a0 v6 := by
                refine Keeps.of_opt v7 ?_
                with_reducible apply State.forward_keeps
                assumption
              assumption
            · rename_i v9 v10
              with_reducible apply State.discardPacket_keeps
              assumption

theorem State.joinReceive_keeps {q : Prop} {a0 : State} (s : State) (k : Nat) (r : Report) (hs : Keeps q a0 s) :
    Keeps q a0 (State.joinReceive s k r) := by
  unfold State.joinReceive
  with_reducible apply Keeps.ite
  · assumption
  · try (extract_lets +onlyGivenNames x1
         have hx1 : Keeps q a0 x1 := by
           try dsimp -zeta only [x1]
           with_reducible apply State.updFab_keeps
           on_goal 2 => first | (intro _; rfl) | (intro x; dsimp only; repeat' first | rfl | split)
           · assumption
         clear_value x1)
    with_reducible apply Keeps.ite
    · split
      · with_reducible apply State.sendCtl_keeps; assumption
      · assumption
    · try extract_lets +onlyGivenNames x4
      try clear_value x4
      try extract_lets +onlyGivenNames x5
      try clear_value x5
      try extract_lets +onlyGivenNames x6
      try clear_value x6
      try extract_lets +onlyGivenNames x7
      try clear_value x7
      try extract_lets +onlyGivenNames x8
      try clear_value x8
      with_reducible apply State.newVersion_keeps; assumption

theorem State.beatReceive_keeps {q : Prop} {a0 : State} (s : State) (b : Beat) (hs : Keeps q a0 s) :
    Keeps q a0 (State.beatReceive s b) := by
  unfold State.beatReceive
  with_reducible apply Keeps.ite
  · with_reducible apply Keeps.foldl
    · intro s2 x2 hs2
      try dsimp -zeta only
      with_reducible apply State.sendCtl_keeps; assumption
    · with_reducible apply State.updFab_keeps
      on_goal 2 => first | (intro _; rfl) | (intro x; dsimp only; repeat' first | rfl | split)
      · assumption
  · assumption

theorem State.helloReceive_keeps {q : Prop} {a0 : State} (s : State) (k : ℕ) (h' : Hello) (hs : Keeps q a0 s) :
    Keeps q a0 (State.helloReceive s k h') := by
  unfold State.helloReceive
  extract_lets +onlyGivenNames x1
  clear_value x1
  extract_lets +onlyGivenNames x2
  clear_value x2
  extract_lets +onlyGivenNames x3
  have hx3 : Keeps q a0 x3 := by
    dsimp -zeta -proj only [x3]
    with_reducible apply State.updPort_keeps
    with_reducible apply State.dupClaim_keeps
    assumption
  clear_value x3
  split
  · rename_i v4 v5
    with_reducible apply Keeps.ite
    · with_reducible apply State.learnKey_keeps
      assumption
    · extract_lets +onlyGivenNames x6
      have hx6 : Keeps q a0 x6 := by
        dsimp -zeta -proj only [x6]
        with_reducible apply Keeps.ite
        · with_reducible apply State.bump_keeps
          with_reducible apply State.updPort_keeps
          assumption
        · assumption
      clear_value x6
      split
      · rename_i v7 v8
        with_reducible apply State.helloPassed_keeps
        assumption
      · rename_i v9 v10
        extract_lets +onlyGivenNames x11
        have hx11 : Keeps q a0 x11 := by
          dsimp -zeta -proj only [x11]
          with_reducible apply State.moveTraffic_keeps
          with_reducible apply State.updPort_keeps
          assumption
        clear_value x11
        with_reducible apply State.fabLogAdd_keeps
        assumption
  · rename_i v12 v13
    with_reducible apply Keeps.ite
    · with_reducible apply State.learnKey_keeps
      assumption
    · extract_lets +onlyGivenNames x14
      have hx14 : Keeps q a0 x14 := by
        dsimp -zeta -proj only [x14]
        with_reducible apply Keeps.ite
        · with_reducible apply State.bump_keeps
          with_reducible apply State.updPort_keeps
          assumption
        · assumption
      clear_value x14
      split
      · rename_i v15 v16
        with_reducible apply State.helloPassed_keeps
        assumption
      · rename_i v17 v18
        extract_lets +onlyGivenNames x19
        have hx19 : Keeps q a0 x19 := by
          dsimp -zeta -proj only [x19]
          with_reducible apply State.moveTraffic_keeps
          with_reducible apply State.updPort_keeps
          assumption
        clear_value x19
        with_reducible apply State.fabLogAdd_keeps
        assumption
  · rename_i v20 v21 v22
    assumption

theorem State.settleFabric_keeps {q : Prop} {a0 : State} (s : State) (hs : Keeps q a0 s) :
    Keeps q a0 (State.settleFabric s) := by
  unfold State.settleFabric
  with_reducible apply Keeps.ite
  · try extract_lets +onlyGivenNames x1
    try clear_value x1
    try (extract_lets +onlyGivenNames x2
         have hx2 : Keeps q a0 x2 := by
           try dsimp -zeta only [x2]
           with_reducible apply State.updFab_keeps
           on_goal 2 => first | (intro _; rfl) | (intro x; dsimp only; repeat' first | rfl | split)
           · assumption
         clear_value x2)
    try extract_lets +onlyGivenNames x3
    try clear_value x3
    with_reducible apply State.broadcastMap_keeps; assumption
  · assumption

theorem State.portDownTimeout_keeps {q : Prop} {a0 : State} (s : State) (k : ℕ) (hs : Keeps q a0 s) :
    Keeps q a0 (State.portDownTimeout s k) := by
  unfold State.portDownTimeout
  extract_lets +onlyGivenNames x1
  clear_value x1
  with_reducible apply Keeps.ite
  · assumption
  · with_reducible apply State.portEventOut_keeps
    assumption

theorem State.dropLink_keeps {q : Prop} {a0 : State} (s : State) (k : Nat) (hs : Keeps q a0 s) :
    Keeps q a0 (State.dropLink s k) := by
  unfold State.dropLink
  with_reducible apply State.updPort_keeps; assumption

theorem State.reportTimer_keeps {q : Prop} {a0 : State} (s : State) (hs : Keeps q a0 s) :
    Keeps q a0 (State.reportTimer s) := by
  unfold State.reportTimer
  with_reducible apply Keeps.ite
  · assumption
  · try (extract_lets +onlyGivenNames x1
         have hx1 : Keeps q a0 x1 := by
           try dsimp -zeta only [x1]
           with_reducible apply State.updFab_keeps
           on_goal 2 => first | (intro _; rfl) | (intro x; dsimp only; repeat' first | rfl | split)
           · assumption
         clear_value x1)
    split
    · with_reducible apply State.sendCtl_keeps; assumption
    · assumption

theorem State.refusePort_keeps {q : Prop} {a0 : State} (s : State) (a : Agent) (k : Nat) (hs : Keeps q a0 s) :
    Keeps q a0 (State.refusePort s a k) := by
  unfold State.refusePort
  with_reducible apply State.log_keeps; assumption

end Sys2Proof.Machine
end

