-- ==== Sys2Proof/Laws/KeepsOps3.lean ====
section
/-!
SUPPORT. Operations of the module, part 3 of 7: each leaves `Keeps` true.
-/
namespace Sys2Proof.Machine

theorem State.portDisable_keeps {q : Prop} {a0 : State} (s : State) (k : Nat) (hs : Keeps q a0 s) :
    Keeps q a0 (State.portDisable s k) := by
  unfold State.portDisable
  try (extract_lets +onlyGivenNames x1
       have hx1 : Keeps q a0 x1 := by
         try dsimp -zeta only [x1]
         with_reducible apply State.updPort_keeps; assumption
       clear_value x1)
  split
  · assumption
  · with_reducible apply State.updPort_keeps; with_reducible apply State.dropLink_keeps; with_reducible apply State.leaveActive_keeps; assumption
  · with_reducible apply State.updPort_keeps; with_reducible apply State.dropLink_keeps; assumption

theorem State.portEnable_keeps {q : Prop} {a0 : State} (s : State) (k : Nat) (hs : Keeps q a0 s) :
    Keeps q a0 (State.portEnable s k) := by
  unfold State.portEnable
  with_reducible apply Keeps.ite
  · with_reducible apply State.startTraining_keeps; with_reducible apply State.updPort_keeps; assumption
  · assumption

theorem State.mapReceive_keeps {q : Prop} {a0 : State} (s : State) (m : MapSegment) (hs : Keeps q a0 s) :
    Keeps q a0 (State.mapReceive s m) := by
  unfold State.mapReceive
  try extract_lets +onlyGivenNames x1
  try clear_value x1
  try extract_lets +onlyGivenNames x2
  try clear_value x2
  with_reducible apply Keeps.ite
  · assumption
  · try (extract_lets +onlyGivenNames x3
         have hx3 : Keeps q a0 x3 := by
           try dsimp -zeta only [x3]
           with_reducible apply State.updFab_keeps
           on_goal 2 => first | (intro _; rfl) | (intro x; dsimp only; repeat' first | rfl | split)
           · assumption
         clear_value x3)
    try (extract_lets +onlyGivenNames x4
         have hx4 : Keeps q a0 x4 := by
           try dsimp -zeta only [x4]
           with_reducible apply Keeps.foldl
           · intro s2 x2 hs2
             try dsimp -zeta only
             with_reducible apply State.sendCtl_keeps; assumption
           · assumption
         clear_value x4)
    with_reducible apply Keeps.ite
    · with_reducible apply State.holdMap_keeps; assumption
    · assumption

theorem State.reportReceive_keeps {q : Prop} {a0 : State} (s : State) (k : ℕ) (r : Report) (hs : Keeps q a0 s) :
    Keeps q a0 (State.reportReceive s k r) := by
  unfold State.reportReceive
  extract_lets +onlyGivenNames x1
  have hx1 : Keeps q a0 x1 := by
    dsimp -zeta -proj only [x1]
    with_reducible apply State.updFab_keeps
    · assumption
    · exact fun _ => rfl
  clear_value x1
  with_reducible apply Keeps.ite
  · with_reducible apply Keeps.ite
    · with_reducible apply State.reportSettled_keeps
      assumption
    · with_reducible apply State.updFab_keeps
      · assumption
      · exact fun _ => rfl
  · split
    · rename_i v2 v3 v4
      with_reducible apply State.sendCtl_keeps
      assumption
    · rename_i v5 v6
      assumption

theorem State.oldRoutesMark_keeps {q : Prop} {a0 : State} (s : State) (hs : Keeps q a0 s) :
    Keeps q a0 (State.oldRoutesMark s) := by
  unfold State.oldRoutesMark
  with_reducible apply Keeps.ite
  · with_reducible apply State.updFab_keeps
    on_goal 2 => first | (intro _; rfl) | (intro x; dsimp only; repeat' first | rfl | split)
    · assumption
  · assumption

theorem State.attemptEnd_keeps {q : Prop} {a0 : State} (s : State) (k tx rx : Nat) (rev : Bool) (inv : Nat) (peer : Option (Nat × Nat))
    (missing : Nat) (hs : Keeps q a0 s) : Keeps q a0 (State.attemptEnd s k tx rx rev inv peer missing) := by
  unfold State.attemptEnd
  extract_lets +onlyGivenNames x
  apply Keeps.ite hs
  extract_lets +onlyGivenNames w s1
  have h1 : Keeps q a0 s1 := State.updPort_keeps _ _ _ hs
  clear_value s1
  apply Keeps.ite
  · exact Keeps.ite (State.updPort_keeps _ _ _ (State.dropLink_keeps _ _ h1)) (State.updPort_keeps _ _ _ h1)
  · apply State.sendHellos_keeps
    apply State.updPort_keeps
    exact Keeps.ite (State.resendFrom_keeps _ _ _ (State.updPort_keeps _ _ _ h1)) (State.dropLink_keeps _ _ h1)

theorem State.settleAlone_keeps {q : Prop} {a0 : State} (s : State) (hs : Keeps q a0 s) :
    Keeps q a0 (State.settleAlone s) := by
  unfold State.settleAlone
  try (extract_lets +onlyGivenNames x1
       have hx1 : Keeps q a0 x1 := by
         try dsimp -zeta only [x1]
         with_reducible apply State.updFab_keeps
         on_goal 2 => first | (intro _; rfl) | (intro x; dsimp only; repeat' first | rfl | split)
         · assumption
       clear_value x1)
  try extract_lets +onlyGivenNames x2
  try clear_value x2
  with_reducible apply State.broadcastMap_keeps; assumption

theorem State.fabricSettle_keeps {q : Prop} {a0 : State} (s : State) (hs : Keeps q a0 s) :
    Keeps q a0 (State.fabricSettle s) := by
  unfold State.fabricSettle
  try extract_lets +onlyGivenNames x1
  try clear_value x1
  with_reducible apply Keeps.ite
  · with_reducible apply Keeps.ite
    · assumption
    · with_reducible apply State.settleAlone_keeps; assumption
  · with_reducible apply State.settleFabric_keeps; assumption

theorem State.retrainPort_keeps {q : Prop} {a0 : State} (s : State) (a : Agent) (k : Nat) (hs : Keeps q a0 s) :
    Keeps q a0 (State.retrainPort s a k) := by
  unfold State.retrainPort
  split
  · with_reducible apply State.startTraining_keeps; with_reducible apply State.leaveActive_keeps; assumption
  · with_reducible apply State.startTraining_keeps; assumption
  · with_reducible apply State.startTraining_keeps; assumption
  · with_reducible apply State.refusePort_keeps; assumption

theorem State.updTime_keeps {q : Prop} {a0 : State} (s : State) (f : Time → Time) (hs : Keeps q a0 s) :
    Keeps q a0 (State.updTime s f) := by
  unfold State.updTime
  exact Keeps.put (by assumption) id rfl (Nat.le_refl _) fun _ => rfl

theorem State.timeReqSend_keeps {q : Prop} {a0 : State} (s : State) (k : Nat) (t1 : Nat) (hs : Keeps q a0 s) :
    Keeps q a0 (State.timeReqSend s k t1) := by
  unfold State.timeReqSend
  try extract_lets +onlyGivenNames x1
  try clear_value x1
  with_reducible apply Keeps.ite
  · assumption
  · try (extract_lets +onlyGivenNames x2
         have hx2 : Keeps q a0 x2 := by
           try dsimp -zeta only [x2]
           with_reducible apply State.setPort_keeps; assumption
         clear_value x2)
    with_reducible apply State.sendCtl_keeps; assumption

theorem State.retree_keeps {q : Prop} {a0 : State} (s : State) (hs : Keeps q a0 s) :
    Keeps q a0 (State.retree s) := by
  unfold State.retree
  extract_lets +onlyGivenNames x1
  clear_value x1
  extract_lets +onlyGivenNames x2
  clear_value x2
  extract_lets +onlyGivenNames x3
  clear_value x3
  extract_lets +onlyGivenNames x4
  have hx4 : Keeps q a0 x4 := by
    dsimp -zeta -proj only [x4]
    with_reducible apply State.updFab_keeps
    · assumption
    · exact fun _ => rfl
  clear_value x4
  extract_lets +onlyGivenNames x5
  have hx5 : Keeps q a0 x5 := by
    dsimp -zeta -proj only [x5]
    with_reducible apply State.updTime_keeps
    assumption
  clear_value x5
  with_reducible apply Keeps.ite
  · with_reducible apply State.updTime_keeps
    assumption
  · assumption

theorem State.followEpoch_keeps {q : Prop} {a0 : State} (s : State) (hs : Keeps q a0 s) :
    Keeps q a0 (State.followEpoch s) := by
  unfold State.followEpoch
  with_reducible apply Keeps.ite
  · with_reducible apply State.updTime_keeps; assumption
  · with_reducible apply State.updTime_keeps; assumption

theorem State.lockStep_keeps {q : Prop} {a0 : State} (s : State) (e : Int) (hs : Keeps q a0 s) :
    Keeps q a0 (State.lockStep s e) := by
  unfold State.lockStep
  try extract_lets +onlyGivenNames x1
  try clear_value x1
  split
  · with_reducible apply Keeps.ite
    · with_reducible apply State.updTime_keeps; assumption
    · with_reducible apply State.updTime_keeps; assumption
  · with_reducible apply Keeps.ite
    · with_reducible apply State.updTime_keeps; assumption
    · with_reducible apply Keeps.ite
      · with_reducible apply State.updTime_keeps; assumption
      · try extract_lets +onlyGivenNames x4
        try clear_value x4
        try (extract_lets +onlyGivenNames x5
             have hx5 : Keeps q a0 x5 := by
               try dsimp -zeta only [x5]
               with_reducible apply State.updTime_keeps; assumption
             clear_value x5)
        with_reducible apply Keeps.ite
        · with_reducible apply State.log_keeps; assumption
        · assumption
  · assumption

theorem State.rootEpoch_keeps {q : Prop} {a0 : State} (s : State) (lone : Bool) (hs : Keeps q a0 s) :
    Keeps q a0 (State.rootEpoch s lone) := by
  unfold State.rootEpoch
  with_reducible apply Keeps.ite
  · with_reducible apply State.updTime_keeps; assumption
  · try (extract_lets +onlyGivenNames x1
         have hx1 : Keeps q a0 x1 := by
           try dsimp -zeta only [x1]
           exact Keeps.put (by assumption) id rfl (Nat.le_refl _) fun _ => rfl
         clear_value x1)
    with_reducible apply State.updTime_keeps; assumption

theorem State.enterHoldover_keeps {q : Prop} {a0 : State} (s : State) (hs : Keeps q a0 s) :
    Keeps q a0 (State.enterHoldover s) := by
  unfold State.enterHoldover
  with_reducible apply Keeps.ite
  · with_reducible apply State.updTime_keeps; assumption
  · assumption

theorem State.timeAfter_keeps {q : Prop} {a0 : State} (old : State) (s : State) (hold : Keeps q a0 old) (hs : Keeps q a0 s) :
    Keeps q a0 (State.timeAfter old s) := by
  unfold State.timeAfter
  try (extract_lets +onlyGivenNames x1
       have hx1 : Keeps q a0 x1 := by
         try dsimp -zeta only [x1]
         with_reducible apply Keeps.ite
         · with_reducible apply Keeps.ite
           · with_reducible apply State.rootEpoch_keeps; assumption
           · with_reducible apply State.followEpoch_keeps; assumption
         · assumption
       clear_value x1)
  split
  · with_reducible apply Keeps.ite
    · assumption
    · with_reducible apply State.enterHoldover_keeps; assumption
  · assumption

theorem State.routeSwitchAll_keeps {q : Prop} {a0 : State} (s : State) (hs : Keeps q a0 s) :
    Keeps q a0 (State.routeSwitchAll s) := by
  unfold State.routeSwitchAll
  with_reducible apply Keeps.ite
  · with_reducible apply State.retree_keeps; with_reducible apply State.routeSwitch_keeps; assumption
  · assumption

theorem State.fretCorrection_keeps {q : Prop} {a0 : State} (s : State) (hs : Keeps q a0 s) :
    Keeps q a0 (State.fretCorrection s) := by
  unfold State.fretCorrection
  try extract_lets +onlyGivenNames x1
  try clear_value x1
  with_reducible apply Keeps.ite
  · with_reducible apply State.updTime_keeps; assumption
  · with_reducible apply Keeps.ite
    · with_reducible apply State.updTime_keeps; assumption
    · with_reducible apply Keeps.ite
      · with_reducible apply State.updTime_keeps; with_reducible apply State.setAll_keeps; assumption
      · with_reducible apply State.updTime_keeps; assumption

theorem State.timeRespLost_keeps {q : Prop} {a0 : State} (s : State) (k : Nat) (hs : Keeps q a0 s) :
    Keeps q a0 (State.timeRespLost s k) := by
  unfold State.timeRespLost
  split
  · try (extract_lets +onlyGivenNames x2
         have hx2 : Keeps q a0 x2 := by
           try dsimp -zeta only [x2]
           with_reducible apply State.updPort_keeps; assumption
         clear_value x2)
    with_reducible apply Keeps.ite
    · assumption
    · try (extract_lets +onlyGivenNames x3
           have hx3 : Keeps q a0 x3 := by
             try dsimp -zeta only [x3]
             with_reducible apply State.updTime_keeps; assumption
           clear_value x3)
      with_reducible apply Keeps.ite
      · with_reducible apply State.enterHoldover_keeps; assumption
      · assumption
  · assumption

theorem State.timeRespReceive_keeps {q : Prop} {a0 : State} (s : State) (k : Nat) (p : TimePkt) (t4 : Nat) (hs : Keeps q a0 s) :
    Keeps q a0 (State.timeRespReceive s k p t4) := by
  unfold State.timeRespReceive
  split
  · with_reducible apply Keeps.ite
    · assumption
    · split
      · try (extract_lets +onlyGivenNames x5
             have hx5 : Keeps q a0 x5 := by
               try dsimp -zeta only [x5]
               with_reducible apply State.updPort_keeps; assumption
             clear_value x5)
        try (extract_lets +onlyGivenNames x6
             have hx6 : Keeps q a0 x6 := by
               try dsimp -zeta only [x6]
               with_reducible apply State.setReg_keeps; with_reducible apply State.setReg_keeps; assumption
             clear_value x6)
        with_reducible apply Keeps.ite
        · assumption
        · with_reducible apply Keeps.ite
          · with_reducible apply State.updTime_keeps; assumption
          · with_reducible apply Keeps.ite
            · with_reducible apply State.lockStep_keeps; with_reducible apply State.updTime_keeps; assumption
            · assumption
  · assumption

theorem State.timeReqReceive_keeps {q : Prop} {a0 : State} (s : State) (k : Nat) (p : TimePkt) (t2 : Nat) (t3 : Nat) (hs : Keeps q a0 s) :
    Keeps q a0 (State.timeReqReceive s k p t2 t3) := by
  unfold State.timeReqReceive
  with_reducible apply State.sendCtl_keeps; assumption

theorem State.storeWrite_keeps {q : Prop} {a0 : State} (s : State) (b : Nat) (off : Nat) (bs : List Byte) (hs : Keeps q a0 s) :
    Keeps q a0 (State.storeWrite s b off bs) := by
  unfold State.storeWrite
  with_reducible apply State.wrBytes_keeps; assumption

theorem State.poisonLog_keeps {q : Prop} {a0 : State} (s : State) (b : Nat) (off : Nat) (hs : Keeps q a0 s) :
    Keeps q a0 (State.poisonLog s b off) := by
  unfold State.poisonLog
  with_reducible apply State.log_keeps; assumption

theorem State.readPiece_keeps {q : Prop} {a0 : State} (s : State) (ag : Agent) (cb : Option ℕ) (p : Piece) (hs : Keeps q a0 s) :
    Keeps q a0 (State.readPiece s ag cb p).1 := by
  unfold State.readPiece
  split
  · rename_i v1 v2 v3 v4 v5 v6
    extract_lets +onlyGivenNames x7
    clear_value x7
    with_reducible apply Keeps.fst
    assumption
  · rename_i v8 v9 v10 v11 v12 v13
    split
    rename_i v14 v15 v16 v17 v18
    have h19 : Keeps q a0 v15 := by
      refine Keeps.of_pair v18 ?_
      split
      · rename_i v20 v21
        have h22 : Keeps q a0 v15 := by
          refine Keeps.of_pair v18 ?_
          split
          · rename_i v23 v24 v25
            with_reducible apply State.readWith_keeps
            · assumption
            · intro w26 w27 w28
              with_reducible apply State.gsReadLine_keeps
              assumption
          · rename_i v29 v30
            with_reducible apply State.readBytes_keeps
            assumption
        with_reducible apply State.readWith_keeps
        · assumption
        · intro w31 w32 w33
          with_reducible apply State.gsReadLine_keeps
          assumption
      · rename_i v34
        have h35 : Keeps q a0 v15 := by
          refine Keeps.of_pair v18 ?_
          split
          · rename_i v36 v37 v38
            with_reducible apply State.readWith_keeps
            · assumption
            · intro w39 w40 w41
              with_reducible apply State.gsReadLine_keeps
              assumption
          · rename_i v42 v43
            with_reducible apply State.readBytes_keeps
            assumption
        with_reducible apply State.readBytes_keeps
        assumption
    with_reducible apply Keeps.fst
    assumption
  · rename_i v44 v45 v46
    with_reducible apply Keeps.fst
    assumption

theorem State.readPieces_keeps {q : Prop} {a0 : State} (s : State) (ag : Agent) (cb : Option ℕ) (u3 : List Piece) (u4 : List Answer) (u5 : List Byte) (hs : Keeps q a0 s) :
    (State.readPieces s ag cb u3 u4 u5).Keeps q a0 := by
  induction u3 generalizing s ag cb u4 u5
  case nil =>
    unfold State.readPieces
    show Keeps q a0 _
    assumption
  case cons k1 k2 ih =>
    unfold State.readPieces
    split
    · rename_i v1 v2 v3
      split
      · rename_i v4 v5 v6
        split
        · rename_i v7
          show Keeps q a0 _
          assumption
        · rename_i v8
          with_reducible apply ih
          assumption
      · rename_i v9
        show Keeps q a0 _
        assumption
    · rename_i v10 v11
      split
      rename_i v12 v13 v14 v15 v16
      have h17 : Keeps q a0 v13 := by
        refine Keeps.of_pair v16 ?_
        with_reducible apply State.readPiece_keeps
        assumption
      split
      · rename_i v18 v19
        have h20 : Keeps q a0 v13 := by
          refine Keeps.of_pair v16 ?_
          with_reducible apply State.readPiece_keeps
          assumption
        show Keeps q a0 _
        with_reducible apply State.log_keeps
        assumption
      · rename_i v21
        have h22 : Keeps q a0 v13 := by
          refine Keeps.of_pair v16 ?_
          with_reducible apply State.readPiece_keeps
          assumption
        with_reducible apply ih
        assumption

theorem State.dropAnswers_keeps {q : Prop} {a0 : State} (s : State) (o : Origin) (hs : Keeps q a0 s) :
    Keeps q a0 (State.dropAnswers s o) := by
  unfold State.dropAnswers
  exact Keeps.put (by assumption) id rfl (Nat.le_refl _) fun _ => rfl

theorem State.logPiece_keeps {q : Prop} {a0 : State} (s : State) (ag : Agent) (o : Origin) (write : Bool) (p : Piece) (hs : Keeps q a0 s) :
    Keeps q a0 (State.logPiece s ag o write p) := by
  unfold State.logPiece
  split
  · with_reducible apply State.fabLogAdd_keeps; assumption
  · try extract_lets +onlyGivenNames x4
    try clear_value x4
    with_reducible apply State.logLost_keeps; assumption
  · try extract_lets +onlyGivenNames x9
    try clear_value x9
    with_reducible apply State.logLost_keeps; assumption
  · with_reducible apply State.hostLogAdd_keeps; assumption
  · assumption

theorem State.engWrite_keeps {q : Prop} {a0 : State} (s : State) (ag : Agent) (at_ : ℕ → Origin) (row : ℕ) (pasid : ℕ) (va : ℕ) (bs : List Byte) (hs : Keeps q a0 s) :
    (State.engWrite s ag at_ row pasid va bs).Keeps q a0 := by
  unfold State.engWrite
  split
  · rename_i v1
    show Keeps q a0 _
    assumption
  · rename_i v2
    split
    · rename_i v3 v4 v5
      show Keeps q a0 _
      assumption
    · rename_i v6 v7 v8
      split
      · rename_i v9 v10 v11 v12
        show Keeps q a0 _
        with_reducible apply State.logPiece_keeps
        assumption
      · rename_i v13 v14
        split
        · rename_i v15
          show Keeps q a0 _
          assumption
        · rename_i v16
          split
          rename_i v17 v18 v19 v20
          have h21 : Keeps q a0 v18 := by
            refine Keeps.of_pair v20 ?_
            with_reducible apply Keeps.foldlP
            · intro w22 w23 w24
              split
              rename_i v25 v26 v27
              extract_lets +onlyGivenNames x28
              clear_value x28
              split
              · rename_i v29 v30 v31 v32 v33 v34
                with_reducible apply Keeps.fst
                with_reducible apply State.wrBytes_keeps
                assumption
              · rename_i v35 v36 v37 v38 v39 v40
                with_reducible apply Keeps.fst
                with_reducible apply State.issue_keeps
                assumption
              · rename_i v41 v42 v43 v44
                with_reducible apply Keeps.fst
                with_reducible apply State.issue_keeps
                assumption
              · rename_i v45 v46 v47 v48 v49 v50 v51
                split
                rename_i v52 v53 v54 v55
                have h56 : Keeps q a0 v53 := by
                  refine Keeps.of_pair v55 ?_
                  with_reducible apply State.writeBytes_keeps
                  assumption
                with_reducible apply Keeps.fst
                with_reducible apply Keeps.ite
                · with_reducible apply State.t4Write_keeps
                  assumption
                · assumption
              · rename_i v57 v58
                with_reducible apply Keeps.fst
                assumption
            · with_reducible apply Keeps.fst
              assumption
          show Keeps q a0 _
          assumption

theorem State.engRead_keeps {q : Prop} {a0 : State} (s : State) (ag : Agent) (o : Origin) (cb : Option ℕ) (pasid : ℕ) (va : ℕ) (n : ℕ) (hs : Keeps q a0 s) :
    (State.engRead s ag o cb pasid va n).Keeps q a0 := by
  unfold State.engRead
  split
  · rename_i v1
    show Keeps q a0 _
    assumption
  · rename_i v2
    split
    · rename_i v3 v4 v5
      show Keeps q a0 _
      assumption
    · rename_i v6 v7 v8
      split
      · rename_i v9 v10 v11 v12
        show Keeps q a0 _
        with_reducible apply State.logPiece_keeps
        assumption
      · rename_i v13 v14
        extract_lets +onlyGivenNames x15
        clear_value x15
        extract_lets +onlyGivenNames x16
        clear_value x16
        split
        · rename_i v17
          show Keeps q a0 _
          assumption
        · rename_i v18
          split
          · rename_i v19
            show Keeps q a0 _
            with_reducible apply Keeps.foldl
            · intro w20 w21 w22
              split
              · rename_i v23 v24 v25 v26
                with_reducible apply State.issue_keeps
                assumption
              · rename_i v27 v28
                assumption
            · assumption
          · rename_i v29
            split
            · rename_i v30 v31 v32
              show Keeps q a0 _
              with_reducible apply State.dropAnswers_keeps
              assumption
            · rename_i v33 v34
              with_reducible apply State.readPieces_keeps
              with_reducible apply State.dropAnswers_keeps
              assumption

theorem State.sendNotices_keeps {q : Prop} {a0 : State} (s : State) (r : Nat) (c : Nat) (subject : Nat) (cause : Nat) (hs : Keeps q a0 s) :
    Keeps q a0 (State.sendNotices s r c subject cause) := by
  unfold State.sendNotices
  try extract_lets +onlyGivenNames x1
  try clear_value x1
  with_reducible apply Keeps.foldl
  · intro s2 x2 hs2
    try dsimp -zeta only
    try extract_lets +onlyGivenNames x2
    try clear_value x2
    with_reducible apply Keeps.ite
    · with_reducible apply State.issue_keeps; assumption
    · with_reducible apply State.logLost_keeps; assumption
  · assumption

theorem State.setColl_keeps {q : Prop} {a0 : State} (s : State) (r : Nat) (c : Nat) (x : CollChan) (hs : Keeps q a0 s) :
    Keeps q a0 (State.setColl s r c x) := by
  unfold State.setColl
  exact Keeps.put (by assumption) id rfl (Nat.le_refl _) fun _ => rfl

theorem State.updColl_keeps {q : Prop} {a0 : State} (s : State) (r : Nat) (c : Nat) (f : CollChan → CollChan) (hs : Keeps q a0 s) :
    Keeps q a0 (State.updColl s r c f) := by
  unfold State.updColl
  with_reducible apply State.setColl_keeps; assumption

theorem State.peerLost_keeps {q : Prop} {a0 : State} (s : State) (r : Nat) (c : Nat) (m : Nat) (step : Nat) (slot : Nat) (hs : Keeps q a0 s) :
    Keeps q a0 (State.peerLost s r c m step slot) := by
  unfold State.peerLost
  with_reducible apply Keeps.ite
  · try extract_lets +onlyGivenNames x1
    try clear_value x1
    with_reducible apply State.sendNotices_keeps; with_reducible apply State.updColl_keeps; assumption
  · assumption

theorem State.portsLost_keeps {q : Prop} {a0 : State} (s : State) (r : ℕ) (c : ℕ) (k : ℕ) (bad : ℕ → Bool) (hs : Keeps q a0 s) :
    Keeps q a0 (State.portsLost s r c k bad) := by
  unfold State.portsLost
  extract_lets +onlyGivenNames x1
  clear_value x1
  extract_lets +onlyGivenNames x2
  clear_value x2
  split
  · rename_i v3 v4 v5 v6
    with_reducible apply State.peerLost_keeps
    assumption
  · rename_i v7 v8
    assumption

theorem State.collMarkOne_keeps {q : Prop} {a0 : State} (s : State) (r : ℕ) (c : ℕ) (m : ℕ) (hs : Keeps q a0 s) :
    Keeps q a0 (State.collMarkOne s r c m) := by
  unfold State.collMarkOne
  extract_lets +onlyGivenNames x1
  clear_value x1
  extract_lets +onlyGivenNames x2
  clear_value x2
  extract_lets +onlyGivenNames x3
  have hx3 : ∀ w0 w1, Keeps q a0 w0 → Keeps q a0 (x3 w0 w1) := by
    dsimp -zeta -proj only [x3]
    intro w4 w5 w6
    with_reducible apply State.bump_keeps
    assumption
  clear_value x3
  extract_lets +onlyGivenNames x7
  have hx7 : ∀ w0 w1, Keeps q a0 w0 → Keeps q a0 (x7 w0 w1) := by
    dsimp -zeta -proj only [x7]
    intro w8 w9 w10
    with_reducible apply State.portsLost_keeps
    assumption
  clear_value x7
  split
  · rename_i v11 v12
    with_reducible apply Keeps.ite
    · with_reducible apply Keeps.ite
      · with_reducible apply State.updColl_keeps
        assumption
      · with_reducible apply hx7
        with_reducible apply State.updColl_keeps
        with_reducible apply hx3
        assumption
    · with_reducible apply Keeps.ite
      · with_reducible apply hx3
        assumption
      · assumption
  · rename_i v13 v14
    with_reducible apply Keeps.ite
    · assumption
    · extract_lets +onlyGivenNames x15
      clear_value x15
      with_reducible apply Keeps.ite
      · extract_lets +onlyGivenNames x16
        clear_value x16
        extract_lets +onlyGivenNames x17
        clear_value x17
        with_reducible apply State.sendNotices_keeps
        with_reducible apply State.updColl_keeps
        assumption
      · with_reducible apply Keeps.ite
        · with_reducible apply State.updColl_keeps
          assumption
        · with_reducible apply hx7
          with_reducible apply State.updColl_keeps
          with_reducible apply hx3
          assumption
  · rename_i v18 v19
    with_reducible apply Keeps.ite
    · assumption
    · with_reducible apply State.updColl_keeps
      assumption
  · rename_i v20 v21 v22 v23
    assumption

theorem State.refuseColl_keeps {q : Prop} {a0 : State} (s : State) (ag : Agent) (r : Nat) (c : Nat) (st : Nat) (hs : Keeps q a0 s) :
    Keeps q a0 (State.refuseColl s ag r c st) := by
  unfold State.refuseColl
  with_reducible apply State.log_keeps; assumption

theorem State.runEnd_keeps {q : Prop} {a0 : State} (s : State) (r : Nat) (c : Nat) (st : Nat) (hs : Keeps q a0 s) :
    Keeps q a0 (State.runEnd s r c st) := by
  unfold State.runEnd
  try (extract_lets +onlyGivenNames x1
       have hx1 : Keeps q a0 x1 := by
         try dsimp -zeta only [x1]
         with_reducible apply State.updColl_keeps; assumption
       clear_value x1)
  try (extract_lets +onlyGivenNames x2
       have hx2 : Keeps q a0 x2 := by
         try dsimp -zeta only [x2]
         with_reducible apply Keeps.ite
         · with_reducible apply State.bumpFld_keeps; assumption
         · assumption
       clear_value x2)
  try (extract_lets +onlyGivenNames x3
       have hx3 : Keeps q a0 x3 := by
         try dsimp -zeta only [x3]
         with_reducible apply State.noteCompletion_keeps; assumption
       clear_value x3)
  try extract_lets +onlyGivenNames x4
  try clear_value x4
  with_reducible apply Keeps.ite
  · with_reducible apply State.signalPeg_keeps; assumption
  · assumption

theorem State.strumStart_keeps {q : Prop} {a0 : State} (s : State) (ag : Agent) (r : Nat) (c : Nat) (hs : Keeps q a0 s) :
    Keeps q a0 (State.strumStart s ag r c) := by
  unfold State.strumStart
  with_reducible apply Keeps.ite
  · with_reducible apply State.refuseColl_keeps; assumption
  · try extract_lets +onlyGivenNames x1
    try clear_value x1
    try extract_lets +onlyGivenNames x2
    try clear_value x2
    with_reducible apply Keeps.ite
    · with_reducible apply State.runEnd_keeps; with_reducible apply State.updColl_keeps; assumption
    · with_reducible apply Keeps.ite
      · with_reducible apply State.updColl_keeps; assumption
      · with_reducible apply State.updColl_keeps; assumption

theorem State.peerSilent_keeps {q : Prop} {a0 : State} (s : State) (r : Nat) (c : Nat) (i : Nat) (hs : Keeps q a0 s) :
    Keeps q a0 (State.peerSilent s r c i) := by
  unfold State.peerSilent
  try extract_lets +onlyGivenNames x1
  try clear_value x1
  split
  · try extract_lets +onlyGivenNames x3
    try clear_value x3
    try extract_lets +onlyGivenNames x4
    try clear_value x4
    with_reducible apply Keeps.ite
    · assumption
    · try extract_lets +onlyGivenNames x5
      try clear_value x5
      split
      · with_reducible apply State.peerLost_keeps; assumption
      · with_reducible apply Keeps.ite
        · with_reducible apply State.peerLost_keeps; assumption
        · assumption
  · assumption

theorem State.noticeOne_keeps {q : Prop} {a0 : State} (s : State) (r : Nat) (c : Nat) (subject : Nat) (cause : Nat) (hs : Keeps q a0 s) :
    Keeps q a0 (State.noticeOne s r c subject cause) := by
  unfold State.noticeOne
  try extract_lets +onlyGivenNames x1
  try clear_value x1
  split
  · with_reducible apply State.runEnd_keeps; with_reducible apply State.updColl_keeps; assumption
  · with_reducible apply Keeps.ite
    · assumption
    · with_reducible apply State.sendNotices_keeps; with_reducible apply State.updColl_keeps; assumption
  · assumption

theorem State.sendOn_keeps {q : Prop} {a0 : State} (s : State) (r : ℕ) (c : ℕ) (e : StrumEntry) (f : SchedFlit) (hs : Keeps q a0 s) :
    Keeps q a0 (State.sendOn s r c e f) := by
  unfold State.sendOn
  with_reducible apply State.bump_keeps
  with_reducible apply State.sendItem_keeps
  assumption

theorem State.collWrite_keeps {q : Prop} {a0 : State} (s : State) (r : ℕ) (c : ℕ) (off : ℕ) (bs : List Byte) (hs : Keeps q a0 s) :
    Keeps q a0 (State.collWrite s r c off bs) := by
  unfold State.collWrite
  split
  · rename_i v1 v2 v3
    have h4 : Keeps q a0 v2 := by
      refine Keeps.of_pair v3 ?_
      with_reducible apply State.writeBytes_keeps
      assumption
    assumption
  · rename_i v5 v6 v7 v8 v9
    have h10 : Keeps q a0 v6 := by
      refine Keeps.of_pair v9 ?_
      with_reducible apply State.writeBytes_keeps
      assumption
    with_reducible apply State.updColl_keeps
    assumption

theorem State.combineRecord_keeps {q : Prop} {a0 : State} (s : State) (r : ℕ) (c : ℕ) (off : ℕ) (w : ℕ) (hs : Keeps q a0 s) :
    Keeps q a0 (State.combineRecord s r c off w) := by
  unfold State.combineRecord
  extract_lets +onlyGivenNames x1
  clear_value x1
  extract_lets +onlyGivenNames x2
  clear_value x2
  split
  rename_i v3 v4 v5 v6 v7
  have h8 : Keeps q a0 v4 := by
    refine Keeps.of_pair v7 ?_
    with_reducible apply State.readBytes_keeps
    assumption
  split
  · rename_i v9 v10
    have h11 : Keeps q a0 v4 := by
      refine Keeps.of_pair v7 ?_
      with_reducible apply State.readBytes_keeps
      assumption
    with_reducible apply State.updColl_keeps
    with_reducible apply State.log_keeps
    assumption
  · rename_i v12
    have h13 : Keeps q a0 v4 := by
      refine Keeps.of_pair v7 ?_
      with_reducible apply State.readBytes_keeps
      assumption
    split
    rename_i v14 v15 v16 v17
    with_reducible apply Keeps.ite
    · with_reducible apply State.updColl_keeps
      assumption
    · with_reducible apply State.collWrite_keeps
      assumption

theorem State.combineAll_keeps {q : Prop} {a0 : State} (s : State) (r c off : Nat) (a : List Nat) (hs : Keeps q a0 s) :
    Keeps q a0 (State.combineAll s r c off a) := by
  induction a generalizing s off with
  | nil => exact hs
  | cons w ws ih => exact ih _ _ (State.combineRecord_keeps _ _ _ _ _ hs)

theorem State.writeFlit_keeps {q : Prop} {a0 : State} (s : State) (r : ℕ) (c : ℕ) (e : StrumEntry) (f : SchedFlit) (hs : Keeps q a0 s) :
    Keeps q a0 (State.writeFlit s r c e f) := by
  unfold State.writeFlit
  extract_lets +onlyGivenNames x1
  clear_value x1
  extract_lets +onlyGivenNames x2
  clear_value x2
  extract_lets +onlyGivenNames x3
  clear_value x3
  extract_lets +onlyGivenNames x4
  have hx4 : Keeps q a0 x4 := by
    dsimp -zeta -proj only [x4]
    with_reducible apply Keeps.ite
    · with_reducible apply State.combineAll_keeps
      assumption
    · with_reducible apply State.collWrite_keeps
      assumption
  clear_value x4
  with_reducible apply State.bump_keeps
  assumption

theorem State.serveFlit_keeps {q : Prop} {a0 : State} (s : State) (r : ℕ) (c : ℕ) (e : StrumEntry) (f : SchedFlit) (hs : Keeps q a0 s) :
    ∀ t, (State.serveFlit s r c e f) = some t → Keeps q a0 t := by
  unfold State.serveFlit
  split
  · rename_i v1
    intro t e
    cases e
    with_reducible apply State.sendOn_keeps
    assumption
  · rename_i v2
    split
    · rename_i v3
      intro t e
      cases e
    · rename_i v4
      intro t e
      cases e
      with_reducible apply State.writeFlit_keeps
      assumption

theorem State.serveReceive_keeps {q : Prop} {a0 : State} (s : State) (r : ℕ) (c : ℕ) (i : ℕ) (e : StrumEntry) (hs : Keeps q a0 s) :
    Keeps q a0 (State.serveReceive s r c i e) := by
  unfold State.serveReceive
  extract_lets +onlyGivenNames x1
  clear_value x1
  extract_lets +onlyGivenNames x2
  clear_value x2
  with_reducible apply Keeps.ite
  · assumption
  · with_reducible apply Keeps.ite
    · with_reducible apply Keeps.ite
      · with_reducible apply State.updColl_keeps
        assumption
      · assumption
    · extract_lets +onlyGivenNames x3
      clear_value x3
      with_reducible apply Keeps.ite
      · assumption
      · split
        rename_i v4 v5 v6 v7 v8
        have h9 : Keeps q a0 v5 := by
          refine Keeps.of_pair v8 ?_
          with_reducible apply Keeps.foldlP
          · intro w10 w11 w12
            split
            rename_i v13 v14 v15 v16
            split
            · rename_i v17 v18 v19
              have h20 : Keeps q a0 v18 := by
                refine Keeps.of_opt v19 ?_
                with_reducible apply State.serveFlit_keeps
                assumption
              with_reducible apply Keeps.fst
              assumption
            · rename_i v21 v22
              with_reducible apply Keeps.fst
              assumption
          · with_reducible apply Keeps.fst
            assumption
        with_reducible apply State.updColl_keeps
        assumption

theorem State.sendEntry_keeps {q : Prop} {a0 : State} (s : State) (r : ℕ) (c : ℕ) (e : StrumEntry) (hs : Keeps q a0 s) :
    Keeps q a0 (State.sendEntry s r c e) := by
  unfold State.sendEntry
  extract_lets +onlyGivenNames x1
  clear_value x1
  split
  rename_i v2 v3 v4 v5 v6
  have h7 : Keeps q a0 v3 := by
    refine Keeps.of_pair v6 ?_
    with_reducible apply State.readBytes_keeps
    assumption
  extract_lets +onlyGivenNames x8
  clear_value x8
  extract_lets +onlyGivenNames x9
  have hx9 : Keeps q a0 x9 := by
    dsimp -zeta -proj only [x9]
    split
    · rename_i v10 v11
      have h12 : Keeps q a0 v3 := by
        refine Keeps.of_pair v6 ?_
        with_reducible apply State.readBytes_keeps
        assumption
      with_reducible apply State.updColl_keeps
      with_reducible apply State.log_keeps
      assumption
    · rename_i v13
      have h14 : Keeps q a0 v3 := by
        refine Keeps.of_pair v6 ?_
        with_reducible apply State.readBytes_keeps
        assumption
      assumption
  clear_value x9
  extract_lets +onlyGivenNames x15
  have hx15 : Keeps q a0 x15 := by
    dsimp -zeta -proj only [x15]
    with_reducible apply Keeps.foldl
    · intro w16 w17 w18
      extract_lets +onlyGivenNames x19
      clear_value x19
      extract_lets +onlyGivenNames x20
      clear_value x20
      with_reducible apply State.sendItem_keeps
      assumption
    · assumption
  clear_value x15
  with_reducible apply State.bump_keeps
  assumption

theorem State.localCombine_keeps {q : Prop} {a0 : State} (s : State) (r : Nat) (c : Nat) (e : StrumEntry) (hs : Keeps q a0 s) :
    Keeps q a0 (State.localCombine s r c e) := by
  unfold State.localCombine
  repeat' first
    | with_reducible assumption
    | with_reducible apply Keeps.ite
    | with_reducible apply Keeps.iteP
    | with_reducible apply Keeps.foldl
    | (extract_lets +onlyGivenNames x
       first
         | (refine (fun (hx : Keeps _ _ x) => ?_) ?_
            on_goal 2 => dsimp -zeta only [x]
            on_goal 1 => try clear_value x)
         | (refine (fun (hx : Keeps _ _ x.1) => ?_) ?_
            on_goal 2 => dsimp -zeta only [x]
            on_goal 1 => try clear_value x)
         | clear_value x)
    | with_reducible apply State.readBytes_keeps
    | with_reducible apply State.updColl_keeps
    | with_reducible apply State.log_keeps
    | with_reducible apply State.combineRecord_keeps
    | (with_reducible refine Keeps.of_pair (by with_reducible assumption) ?_)
    | dsimp -zeta only
    | split
    | (intro _; try dsimp -zeta only)
    | (with_reducible refine Keeps.put (by with_reducible assumption) ?_ ?_ ?_ ?_)
    | exact id
    | rfl
    | exact Nat.le_refl _

theorem State.serveChannel_keeps {q : Prop} {a0 : State} (s : State) (r c : Nat) (hs : Keeps q a0 s) :
    Keeps q a0 (State.serveChannel s r c) := by
  unfold State.serveChannel
  extract_lets +onlyGivenNames x k
  apply Keeps.ite hs
  refine Keeps.foldl (fun s y h => ?_) hs
  dsimp only
  apply Keeps.ite h
  apply Keeps.ite (State.serveReceive_keeps _ _ _ _ _ h)
  apply Keeps.ite h
  apply Keeps.ite h
  apply Keeps.ite h
  exact State.updColl_keeps _ _ _ _ (Keeps.ite (State.sendEntry_keeps _ _ _ _ h) (State.localCombine_keeps _ _ _ _ h))

theorem State.schedFlit_keeps {q : Prop} {a0 : State} (s : State) (k : ℕ) (f : SchedFlit) (hs : Keeps q a0 s) :
    Keeps q a0 (State.schedFlit s k f) := by
  unfold State.schedFlit
  extract_lets +onlyGivenNames x1
  have hx1 : Keeps q a0 x1 := by
    dsimp -zeta -proj only [x1]
    with_reducible apply State.bump_keeps
    assumption
  clear_value x1
  split
  · rename_i v2 v3
    assumption
  · rename_i v4 v5 v6 v7 v8 v9
    extract_lets +onlyGivenNames x10
    clear_value x10
    with_reducible apply Keeps.ite
    · assumption
    · extract_lets +onlyGivenNames x11
      clear_value x11
      with_reducible apply Keeps.ite
      · with_reducible apply State.bump_keeps
        assumption
      · extract_lets +onlyGivenNames x12
        have hx12 : Keeps q a0 x12 := by
          dsimp -zeta -proj only [x12]
          with_reducible apply State.updColl_keeps
          assumption
        clear_value x12
        with_reducible apply Keeps.ite
        · assumption
        · with_reducible apply State.serveChannel_keeps
          with_reducible apply State.serveReceive_keeps
          assumption

theorem State.strumRunEnd_keeps {q : Prop} {a0 : State} (s : State) (r : ℕ) (c : ℕ) (hs : Keeps q a0 s) :
    Keeps q a0 (State.strumRunEnd s r c) := by
  unfold State.strumRunEnd
  extract_lets +onlyGivenNames x1
  clear_value x1
  split
  · rename_i v2 v3 v4 v5
    extract_lets +onlyGivenNames x6
    clear_value x6
    with_reducible apply Keeps.ite
    · with_reducible apply State.runEnd_keeps
      with_reducible apply State.updColl_keeps
      assumption
    · assumption
  · rename_i v7 v8 v9 v10 v11
    with_reducible apply State.runEnd_keeps
    assumption
  · rename_i v12 v13 v14 v15 v16
    with_reducible apply State.runEnd_keeps
    assumption
  · rename_i v17 v18 v19 v20 v21
    assumption

theorem State.strumLoadDone_keeps {q : Prop} {a0 : State} (s : State) (r : ℕ) (c : ℕ) (hs : Keeps q a0 s) :
    Keeps q a0 (State.strumLoadDone s r c) := by
  unfold State.strumLoadDone
  with_reducible apply Keeps.ite
  · assumption
  · extract_lets +onlyGivenNames x1
    clear_value x1
    extract_lets +onlyGivenNames x2
    have hx2 : ∀ w0 w1 w2, Keeps q a0 w0 → Keeps q a0 (x2 w0 w1 w2) := by
      dsimp -zeta -proj only [x2]
      intro w3 w4 w5 w6
      with_reducible apply State.updColl_keeps
      assumption
    clear_value x2
    extract_lets +onlyGivenNames x7
    clear_value x7
    with_reducible apply Keeps.ite
    · with_reducible apply hx2
      assumption
    · with_reducible apply Keeps.ite
      · with_reducible apply hx2
        assumption
      · with_reducible apply Keeps.ite
        · assumption
        · split
          rename_i v8 v9 v10 v11 v12
          have h13 : Keeps q a0 v9 := by
            refine Keeps.of_pair v12 ?_
            with_reducible apply State.readBytes_keeps
            assumption
          split
          · rename_i v14 v15
            have h16 : Keeps q a0 v9 := by
              refine Keeps.of_pair v12 ?_
              with_reducible apply State.readBytes_keeps
              assumption
            with_reducible apply hx2
            with_reducible apply State.log_keeps
            assumption
          · rename_i v17
            have h18 : Keeps q a0 v9 := by
              refine Keeps.of_pair v12 ?_
              with_reducible apply State.readBytes_keeps
              assumption
            extract_lets +onlyGivenNames x19
            clear_value x19
            split
            rename_i v20 v21 v22 v23
            with_reducible apply Keeps.ite
            · with_reducible apply hx2
              assumption
            · with_reducible apply State.updColl_keeps
              assumption

theorem State.collPorts_keeps {q : Prop} {a0 : State} (old : State) (s : State) (hold : Keeps q a0 old) (hs : Keeps q a0 s) :
    Keeps q a0 (State.collPorts old s) := by
  unfold State.collPorts
  with_reducible apply Keeps.foldl
  · intro w1 w2 w3
    with_reducible apply Keeps.ite
    · with_reducible apply State.portsLost_keeps
      assumption
    · assumption
  · assumption

theorem State.serveAll_keeps {q : Prop} {a0 : State} (s : State) (hs : Keeps q a0 s) :
    Keeps q a0 (State.serveAll s) := by
  unfold State.serveAll
  with_reducible apply Keeps.foldl
  · intro s2 x2 hs2
    try dsimp -zeta only
    with_reducible apply Keeps.foldl
    · intro s2 x2 hs2
      try dsimp -zeta only
      with_reducible apply Keeps.ite
      · with_reducible apply State.serveChannel_keeps; assumption
      · assumption
    · assumption
  · assumption

theorem State.collNotice_keeps {q : Prop} {a0 : State} (s : State) (v : W64) (hs : Keeps q a0 s) :
    Keeps q a0 (State.collNotice s v) := by
  unfold State.collNotice
  with_reducible apply Keeps.foldl
  · intro s2 x2 hs2
    try dsimp -zeta only
    with_reducible apply State.noticeOne_keeps; assumption
  · assumption

theorem State.strumUnload_keeps {q : Prop} {a0 : State} (s : State) (ag : Agent) (r : Nat) (c : Nat) (hs : Keeps q a0 s) :
    Keeps q a0 (State.strumUnload s ag r c) := by
  unfold State.strumUnload
  with_reducible apply Keeps.ite
  · with_reducible apply State.updColl_keeps; assumption
  · with_reducible apply State.refuseColl_keeps; assumption

theorem State.slotStart_keeps {q : Prop} {a0 : State} (s : State) (n : ℕ) (hs : Keeps q a0 s) :
    Keeps q a0 (State.slotStart s n) := by
  unfold State.slotStart
  with_reducible apply State.serveAll_keeps
  with_reducible apply State.dropSched_keeps
  exact Keeps.put (by assumption) id rfl (Nat.le_refl _) fun _ => rfl

theorem State.collAbortOne_keeps {q : Prop} {a0 : State} (s : State) (r : ℕ) (c : ℕ) (hs : Keeps q a0 s) :
    Keeps q a0 (State.collAbortOne s r c) := by
  unfold State.collAbortOne
  extract_lets +onlyGivenNames x1
  clear_value x1
  split
  · rename_i v2 v3
    with_reducible apply State.runEnd_keeps
    with_reducible apply State.updColl_keeps
    assumption
  · rename_i v4 v5
    with_reducible apply Keeps.ite
    · assumption
    · with_reducible apply Keeps.ite
      · with_reducible apply State.updColl_keeps
        assumption
      · with_reducible apply State.updColl_keeps
        assumption
  · rename_i v6 v7
    with_reducible apply Keeps.ite
    · assumption
    · with_reducible apply Keeps.ite
      · with_reducible apply State.updColl_keeps
        assumption
      · with_reducible apply State.updColl_keeps
        assumption
  · rename_i v8 v9 v10 v11
    assumption

theorem State.collEpochAbort_keeps {q : Prop} {a0 : State} (s : State) (hs : Keeps q a0 s) :
    Keeps q a0 (State.collEpochAbort s) := by
  unfold State.collEpochAbort
  with_reducible apply Keeps.foldl
  · intro w1 w2 w3
    with_reducible apply State.collAbortOne_keeps
    assumption
  · assumption

theorem State.settleColls_keeps {q : Prop} {a0 : State} (s : State) (hs : Keeps q a0 s) :
    Keeps q a0 (State.settleColls s) := by
  unfold State.settleColls
  with_reducible apply Keeps.ite
  · assumption
  · with_reducible apply State.serveAll_keeps
    assumption

theorem State.strumLoad_keeps {q : Prop} {a0 : State} (s : State) (ag : Agent) (r : Nat) (c : Nat) (hs : Keeps q a0 s) :
    Keeps q a0 (State.strumLoad s ag r c) := by
  unfold State.strumLoad
  split
  · with_reducible apply State.updColl_keeps; assumption
  · with_reducible apply State.updColl_keeps; assumption
  · with_reducible apply State.refuseColl_keeps; assumption

theorem State.strumAbort_keeps {q : Prop} {a0 : State} (s : State) (ag : Agent) (r : ℕ) (c : ℕ) (hs : Keeps q a0 s) :
    Keeps q a0 (State.strumAbort s ag r c) := by
  unfold State.strumAbort
  split
  · rename_i v1 v2
    with_reducible apply State.noticeOne_keeps
    with_reducible apply State.sendNotices_keeps
    assumption
  · rename_i v3 v4
    with_reducible apply State.noticeOne_keeps
    assumption
  · rename_i v5 v6 v7
    with_reducible apply State.refuseColl_keeps
    assumption

theorem State.collMark_keeps {q : Prop} {a0 : State} (s : State) (m : Nat) (hs : Keeps q a0 s) :
    Keeps q a0 (State.collMark s m) := by
  unfold State.collMark
  with_reducible apply Keeps.foldl
  · intro s2 x2 hs2
    try dsimp -zeta only
    with_reducible apply Keeps.ite
    · with_reducible apply State.collMarkOne_keeps; assumption
    · assumption
  · assumption

theorem State.poisonStop_keeps {q : Prop} {a0 : State} (s : State) (b : Nat) (r : Run) (off : Nat) (hs : Keeps q a0 s) :
    Keeps q a0 (State.poisonStop s b r off).1 := by
  unfold State.poisonStop
  show Keeps q a0 _
  try dsimp -zeta only
  with_reducible apply State.poisonLog_keeps; assumption

theorem State.residue_keeps {q : Prop} {a0 : State} (s : State) (b : Nat) (r : Run) (err : Option ResidueError) (src : List (Nat × Nat)) (hs : Keeps q a0 s) :
    Keeps q a0 (State.residue s b r err src).1 := by
  unfold State.residue
  split
  · with_reducible apply Keeps.iteP
    · show Keeps q a0 _
      try dsimp -zeta only
      assumption
    · with_reducible apply Keeps.iteP
      · show Keeps q a0 _
        try dsimp -zeta only
        with_reducible apply State.bump_keeps; assumption
      · try (extract_lets +onlyGivenNames x3
             have hx3 : Keeps q a0 x3 := by
               try dsimp -zeta only [x3]
               with_reducible apply State.bump_keeps; with_reducible apply State.bump_keeps; assumption
             clear_value x3)
        try extract_lets +onlyGivenNames x4
        try clear_value x4
        try (extract_lets +onlyGivenNames x5
             have hx5 : Keeps q a0 x5 := by
               try dsimp -zeta only [x5]
               with_reducible apply State.tuningStart_keeps; assumption
             clear_value x5)
        show Keeps q a0 _
        try dsimp -zeta only
        assumption
  · show Keeps q a0 _
    try dsimp -zeta only
    assumption

theorem State.reduceStep_keeps {q : Prop} {a0 : State} (s : State) (b : Nat) (r : Run) (err : Option ResidueError) (hs : Keeps q a0 s) :
    Keeps q a0 (State.reduceStep s b r err).1 := by
  unfold State.reduceStep
  try extract_lets +onlyGivenNames x1
  try clear_value x1
  try extract_lets +onlyGivenNames x2
  try clear_value x2
  try extract_lets +onlyGivenNames x3
  try clear_value x3
  try extract_lets +onlyGivenNames x4
  try clear_value x4
  split
  · with_reducible apply State.poisonStop_keeps; assumption
  · try extract_lets +onlyGivenNames x7
    try clear_value x7
    split
    · rename_i p8 p9 heq
      have hp8 : Keeps q a0 p8 := Keeps.of_pair heq (by
        try dsimp -zeta only
        split
        · with_reducible apply State.residue_keeps; assumption
        · show Keeps q a0 _
          try dsimp -zeta only
          assumption
        )
      split
      · show Keeps q a0 _
        try dsimp -zeta only
        assumption
      · try extract_lets +onlyGivenNames x15
        try clear_value x15
        try extract_lets +onlyGivenNames x16
        try clear_value x16
        try extract_lets +onlyGivenNames x17
        try clear_value x17
        show Keeps q a0 _
        try dsimp -zeta only
        with_reducible apply State.storeWrite_keeps; assumption

theorem State.workUnits_keeps {q : Prop} {a0 : State} (unit : State → Run → State × Run) (total a : Nat) (s : State) (r : Run)
    (hunit : ∀ w0 w1, Keeps q a0 w0 → Keeps q a0 (unit w0 w1).1) (hs : Keeps q a0 s) :
    Keeps q a0 (State.workUnits unit total a s r).1 := by
  induction a generalizing s r with
  | zero => exact hs
  | succ n ih =>
    unfold State.workUnits
    split
    · exact hs
    · split
      · exact hs
      · exact ih _ _ (hunit _ _ hs)

theorem State.vecElem_keeps {q : Prop} {a0 : State} (s : State) (b : Nat) (r : Run) (err : Option ResidueError) (hs : Keeps q a0 s) :
    Keeps q a0 (State.vecElem s b r err).1 := by
  unfold State.vecElem
  try extract_lets +onlyGivenNames x1
  try clear_value x1
  try extract_lets +onlyGivenNames x2
  try clear_value x2
  try extract_lets +onlyGivenNames x3
  try clear_value x3
  try extract_lets +onlyGivenNames x4
  try clear_value x4
  split
  · with_reducible apply State.poisonStop_keeps; assumption
  · try extract_lets +onlyGivenNames x7
    try clear_value x7
    split
    · rename_i p8 p9 heq
      have hp8 : Keeps q a0 p8 := Keeps.of_pair heq (by
        try dsimp -zeta only
        with_reducible apply State.residue_keeps
        · assumption
        )
      show Keeps q a0 _
      try dsimp -zeta only
      assumption
    · rename_i p10 heq
      have hp10 : Keeps q a0 p10 := Keeps.of_pair heq (by
        try dsimp -zeta only
        with_reducible apply State.residue_keeps
        · assumption
        )
      try extract_lets +onlyGivenNames x11
      try clear_value x11
      try extract_lets +onlyGivenNames x12
      try clear_value x12
      try extract_lets +onlyGivenNames x13
      try clear_value x13
      show Keeps q a0 _
      try dsimp -zeta only
      with_reducible apply State.storeWrite_keeps; assumption

theorem State.vecStep_keeps {q : Prop} {a0 : State} (s : State) (b : Nat) (op : Nat) (n : Nat) (err : Option ResidueError) (hs : Keeps q a0 s) :
    Keeps q a0 (State.vecStep s b op n err) := by
  unfold State.vecStep
  with_reducible apply State.engineStep_keeps
  · assumption
  · intro z1 hz1 z2 z3 z4
    try dsimp -zeta only
    with_reducible apply State.workUnits_keeps
    · intro z5 hz5 z6
      try dsimp -zeta only
      with_reducible apply State.vecElem_keeps; assumption
    · assumption

theorem State.rawStep_keeps {q : Prop} {a0 : State} (s : State) (b : Nat) (r : Run) (err : Option ResidueError) (hs : Keeps q a0 s) :
    Keeps q a0 (State.rawStep s b r err).1 := by
  unfold State.rawStep
  extract_lets +onlyGivenNames c row e at_ src
  split
  · exact State.poisonStop_keeps _ _ _ _ hs
  · split <;> rename_i e2
    · exact Keeps.of_pair e2 (State.residue_keeps _ _ _ _ _ hs)
    · have h1 := Keeps.of_pair e2 (State.residue_keeps _ _ _ _ _ hs)
      exact Keeps.iteP (State.storeWrite_keeps _ _ _ _ h1) h1

theorem State.quantBlock_keeps {q : Prop} {a0 : State} (s : State) (b : Nat) (r : Run) (hs : Keeps q a0 s) :
    Keeps q a0 (State.quantBlock s b r).1 := by
  unfold State.quantBlock
  try extract_lets +onlyGivenNames x1
  try clear_value x1
  try extract_lets +onlyGivenNames x2
  try clear_value x2
  try extract_lets +onlyGivenNames x3
  try clear_value x3
  try extract_lets +onlyGivenNames x4
  try clear_value x4
  try extract_lets +onlyGivenNames x5
  try clear_value x5
  split
  · with_reducible apply State.poisonStop_keeps; assumption
  · try extract_lets +onlyGivenNames x8
    try clear_value x8
    try extract_lets +onlyGivenNames x9
    try clear_value x9
    split
    · try (extract_lets +onlyGivenNames x12
           have hx12 : Keeps q a0 x12 := by
             try dsimp -zeta only [x12]
             with_reducible apply State.storeWrite_keeps; assumption
           clear_value x12)
      try (extract_lets +onlyGivenNames x13
           have hx13 : Keeps q a0 x13 := by
             try dsimp -zeta only [x13]
             with_reducible apply State.storeWrite_keeps; assumption
           clear_value x13)
      show Keeps q a0 _
      try dsimp -zeta only
      assumption

theorem State.vecQuant_keeps {q : Prop} {a0 : State} (s : State) (b : Nat) (n : Nat) (hs : Keeps q a0 s) :
    Keeps q a0 (State.vecQuant s b n) := by
  unfold State.vecQuant
  with_reducible apply State.engineStep_keeps
  · assumption
  · intro z1 hz1 z2 z3 z4
    try dsimp -zeta only
    with_reducible apply State.workUnits_keeps
    · intro z5 hz5 z6
      try dsimp -zeta only
      with_reducible apply State.quantBlock_keeps; assumption
    · assumption

theorem State.vecRaw_keeps {q : Prop} {a0 : State} (s : State) (b n : Nat) (err : Option ResidueError) (hs : Keeps q a0 s) :
    Keeps q a0 (State.vecRaw s b n err) := by
  unfold State.vecRaw
  exact State.engineStep_keeps _ _ _ _ _ _ _ hs fun _ _ _ _ h =>
    State.workUnits_keeps _ _ _ _ _ (fun _ _ h => State.rawStep_keeps _ _ _ _ h) h

theorem State.vecReduce_keeps {q : Prop} {a0 : State} (s : State) (b : Nat) (n : Nat) (err : Option ResidueError) (hs : Keeps q a0 s) :
    Keeps q a0 (State.vecReduce s b n err) := by
  unfold State.vecReduce
  with_reducible apply State.engineStep_keeps
  · assumption
  · intro z1 hz1 z2 z3 z4
    try dsimp -zeta only
    with_reducible apply State.workUnits_keeps
    · intro z5 hz5 z6
      try dsimp -zeta only
      with_reducible apply State.reduceStep_keeps; assumption
    · assumption

theorem State.gsEnd_keeps {q : Prop} {a0 : State} (s : State) (r : Run) (hs : Keeps q a0 s) :
    Keeps q a0 (State.gsEnd s r).1 := by
  unfold State.gsEnd
  with_reducible apply Keeps.fst
  assumption

theorem State.gsPlan_keeps {q : Prop} {a0 : State} (s : State) (b : Nat) (r : Run) (i : Nat) (hs : Keeps q a0 s) :
    (s.gsPlan b r i).Keeps q a0 := by
  unfold State.gsPlan
  extract_lets c at_
  split
  · trivial
  · split
    · exact State.poisonLog_keeps _ _ _ hs
    · split
      · split
        · trivial
        · exact hs
      · split
        · exact hs
        · trivial

theorem State.gsStop_keeps {q : Prop} {a0 : State} (s : State) (r : Run) (st : Nat) (detail : W64) (hs : Keeps q a0 s) :
    Keeps q a0 (State.gsStop s r st detail).1 := by
  unfold State.gsStop
  show Keeps q a0 _
  try dsimp -zeta only
  assumption

theorem State.gsZero_keeps {q : Prop} {a0 : State} (s : State) (b : Nat) (r : Run) (hs : Keeps q a0 s) :
    Keeps q a0 (State.gsZero s b r).1 := by
  unfold State.gsZero
  try extract_lets +onlyGivenNames x1
  try clear_value x1
  try (extract_lets +onlyGivenNames x2
       have hx2 : Keeps q a0 x2 := by
         try dsimp -zeta only [x2]
         with_reducible apply Keeps.ite
         · with_reducible apply State.storeWrite_keeps; assumption
         · assumption
       clear_value x2)
  show Keeps q a0 _
  try dsimp -zeta only
  assumption

theorem State.entryLookup_keeps {q : Prop} {a0 : State} (s : State) (region : ℕ) (p : Piece) (hs : Keeps q a0 s) :
    Keeps q a0 (State.entryLookup s region p) := by
  unfold State.entryLookup
  split
  · rename_i v1 v2 v3 v4 v5
    with_reducible apply State.patLookup_keeps
    assumption
  · rename_i v6 v7 v8 v9
    with_reducible apply State.rbqLookup_keeps
    assumption
  · rename_i v10 v11
    assumption

theorem State.gsSettleRow_keeps {q : Prop} {a0 : State} (s : State) (b : ℕ) (r : Run) (hs : Keeps q a0 s) :
    Keeps q a0 (State.gsSettleRow s b r).1 := by
  unfold State.gsSettleRow
  extract_lets +onlyGivenNames x1
  clear_value x1
  extract_lets +onlyGivenNames x2
  clear_value x2
  split
  · rename_i v3 v4 v5 v6 v7
    have h8 : Keeps q a0 v4 := by
      refine State.RowPlan.Keeps.stop ?_ v7
      with_reducible apply State.gsPlan_keeps
      assumption
    with_reducible apply State.gsStop_keeps
    assumption
  · rename_i v9 v10
    with_reducible apply State.gsZero_keeps
    assumption
  · rename_i v11 v12 v13
    with_reducible apply Keeps.iteP
    · with_reducible apply Keeps.fst
      assumption
    · split
      · rename_i v14 v15 v16
        with_reducible apply State.gsStop_keeps
        assumption
      · rename_i v17 v18 v19
        extract_lets +onlyGivenNames x20
        have hx20 : Keeps q a0 x20 := by
          dsimp -zeta -proj only [x20]
          with_reducible apply Keeps.foldl
          · intro w21 w22 w23
            with_reducible apply State.entryLookup_keeps
            assumption
          · assumption
        clear_value x20
        with_reducible apply Keeps.iteP
        · with_reducible apply State.gsStop_keeps
          assumption
        · split
          · rename_i v24 v25 v26 v27
            split
            · rename_i v28 v29 v30
              with_reducible apply State.gsStop_keeps
              with_reducible apply State.logPoison_keeps
              assumption
            · rename_i v31 v32
              with_reducible apply Keeps.fst
              with_reducible apply State.storeWrite_keeps
              assumption
          · rename_i v33 v34
            with_reducible apply State.gsStop_keeps
            assumption

theorem State.gsSettleRows_keeps {q : Prop} {a0 : State} (a : Nat) (s : State) (b : Nat) (r : Run) (hs : Keeps q a0 s) :
    Keeps q a0 (State.gsSettleRows a s b r).1 := by
  induction a generalizing s r with
  | zero => exact State.gsEnd_keeps _ _ hs
  | succ n ih =>
    unfold State.gsSettleRows
    apply Keeps.iteP (State.gsEnd_keeps _ _ hs)
    split
    rename_i e
    have h1 := Keeps.of_pair e (State.gsSettleRow_keeps _ _ _ hs)
    exact Keeps.iteP h1 (ih _ _ h1)

theorem State.gsSettle_keeps {q : Prop} {a0 : State} (s : State) (b : Nat) (r : Run) (hs : Keeps q a0 s) :
    Keeps q a0 (State.gsSettle s b r).1 := by
  unfold State.gsSettle
  split
  · rename_i p1 p2 heq
    have hp1 : Keeps q a0 p1 := Keeps.of_pair heq (by
      try dsimp -zeta only
      with_reducible apply State.gsSettleRows_keeps
      · with_reducible apply State.dropAnswers_keeps; assumption
      )
    show Keeps q a0 _
    try dsimp -zeta only
    with_reducible apply State.bump_keeps; assumption

theorem State.gsRow_keeps {q : Prop} {a0 : State} (s : State) (b : ℕ) (r : Run) (hs : Keeps q a0 s) :
    Keeps q a0 (State.gsRow s b r).1 := by
  unfold State.gsRow
  extract_lets +onlyGivenNames x1
  clear_value x1
  extract_lets +onlyGivenNames x2
  clear_value x2
  extract_lets +onlyGivenNames x3
  clear_value x3
  split
  · rename_i v4 v5 v6 v7 v8
    have h9 : Keeps q a0 v5 := by
      refine State.RowPlan.Keeps.stop ?_ v8
      with_reducible apply State.gsPlan_keeps
      assumption
    with_reducible apply State.gsStop_keeps
    assumption
  · rename_i v10 v11
    with_reducible apply State.gsZero_keeps
    assumption
  · rename_i v12 v13 v14
    with_reducible apply Keeps.iteP
    · with_reducible apply Keeps.fst
      assumption
    · with_reducible apply Keeps.iteP
      · split
        · rename_i v15 v16 v17 v18
          have h19 : Keeps q a0 v16 := by
            refine EngRead.Keeps.data ?_ v18
            with_reducible apply State.engRead_keeps
            assumption
          with_reducible apply Keeps.fst
          with_reducible apply State.storeWrite_keeps
          assumption
        · rename_i v20 v21 v22 v23 v24 v25
          have h26 : Keeps q a0 v21 := by
            refine EngRead.Keeps.poison ?_ v25
            with_reducible apply State.engRead_keeps
            assumption
          with_reducible apply State.gsStop_keeps
          assumption
        · rename_i v27 v28 v29 v30 v31
          have h32 : Keeps q a0 v28 := by
            refine EngRead.Keeps.fault ?_ v31
            with_reducible apply State.engRead_keeps
            assumption
          with_reducible apply State.gsStop_keeps
          assumption
        · rename_i v33 v34 v35
          have h36 : Keeps q a0 v34 := by
            refine EngRead.Keeps.wait ?_ v35
            with_reducible apply State.engRead_keeps
            assumption
          with_reducible apply Keeps.fst
          assumption
      · split
        · rename_i v37 v38 v39
          with_reducible apply State.gsStop_keeps
          with_reducible apply State.poisonLog_keeps
          assumption
        · rename_i v40 v41
          split
          · rename_i v42 v43 v44
            have h45 : Keeps q a0 v43 := by
              refine EngWrite.Keeps.done ?_ v44
              with_reducible apply State.engWrite_keeps
              assumption
            with_reducible apply Keeps.fst
            assumption
          · rename_i v46 v47 v48 v49 v50
            have h51 : Keeps q a0 v47 := by
              refine EngWrite.Keeps.done ?_ v50
              with_reducible apply State.engWrite_keeps
              assumption
            with_reducible apply State.gsStop_keeps
            assumption
          · rename_i v52 v53 v54 v55 v56
            have h57 : Keeps q a0 v53 := by
              refine EngWrite.Keeps.fault ?_ v56
              with_reducible apply State.engWrite_keeps
              assumption
            with_reducible apply State.gsStop_keeps
            assumption
          · rename_i v58 v59 v60
            have h61 : Keeps q a0 v59 := by
              refine EngWrite.Keeps.wait ?_ v60
              with_reducible apply State.engWrite_keeps
              assumption
            with_reducible apply Keeps.fst
            assumption

theorem State.gsRows_keeps {q : Prop} {a0 : State} (a : Nat) (s : State) (b : Nat) (r : Run) (hs : Keeps q a0 s) :
    Keeps q a0 (State.gsRows a s b r).1 := by
  induction a generalizing s r with
  | zero =>
    unfold State.gsRows
    exact Keeps.iteP (State.gsEnd_keeps _ _ hs) hs
  | succ n ih =>
    unfold State.gsRows
    apply Keeps.iteP hs
    apply Keeps.iteP (State.gsEnd_keeps _ _ hs)
    split
    rename_i e
    have h1 := Keeps.of_pair e (State.gsRow_keeps _ _ _ hs)
    exact Keeps.iteP h1 (ih _ _ h1)

theorem State.gsDiscard_keeps {q : Prop} {a0 : State} (s : State) (b : ℕ) (seq : ℕ) (row : ℕ) (st : ℕ) (hs : Keeps q a0 s) :
    Keeps q a0 (State.gsDiscard s b seq row st) := by
  unfold State.gsDiscard
  with_reducible apply State.updBlock_keeps
  assumption

theorem State.gsWork_keeps {q : Prop} {a0 : State} (s : State) (b : Nat) (r : Run) (n : Nat) (hs : Keeps q a0 s) :
    Keeps q a0 (State.gsWork s b r n).1 := by
  unfold State.gsWork
  with_reducible apply Keeps.iteP
  · show Keeps q a0 _
    try dsimp -zeta only
    assumption
  · with_reducible apply Keeps.iteP
    · with_reducible apply State.gsSettle_keeps; assumption
    · with_reducible apply State.gsRows_keeps; assumption

theorem State.gsStep_keeps {q : Prop} {a0 : State} (s : State) (b : ℕ) (op : ℕ) (n : ℕ) (hs : Keeps q a0 s) :
    Keeps q a0 (State.gsStep s b op n) := by
  unfold State.gsStep
  extract_lets +onlyGivenNames x1
  have hx1 : Keeps q a0 x1 := by
    dsimp -zeta -proj only [x1]
    with_reducible apply Keeps.ite
    · assumption
    · exact Keeps.put (by assumption) id rfl (Nat.le_refl _) fun _ => rfl
  clear_value x1
  with_reducible apply State.engineStep_keeps
  · assumption
  · intro w2 w3 w4 w5 w6
    with_reducible apply State.gsWork_keeps
    assumption

theorem State.gsMark_keeps {q : Prop} {a0 : State} (s : State) (b : Nat) (c : Nat) (hs : Keeps q a0 s) :
    Keeps q a0 (State.gsMark s b c) := by
  unfold State.gsMark
  split
  · with_reducible apply Keeps.ite
    · try (extract_lets +onlyGivenNames x2
           have hx2 : Keeps q a0 x2 := by
             try dsimp -zeta only [x2]
             exact Keeps.put (by assumption) id rfl (Nat.le_refl _) fun _ => rfl
           clear_value x2)
      split
      · rename_i p3 p4 heq
        have hp3 : Keeps q a0 p3 := Keeps.of_pair heq (by
          try dsimp -zeta only
          with_reducible apply State.gsSettle_keeps
          · assumption
          )
        with_reducible apply State.putRun_keeps; assumption
    · assumption
  · assumption

theorem State.setDma_keeps {q : Prop} {a0 : State} (s : State) (r : Nat) (c : Nat) (x : DmaChan) (hs : Keeps q a0 s) :
    Keeps q a0 (State.setDma s r c x) := by
  unfold State.setDma
  exact Keeps.put (by assumption) id rfl (Nat.le_refl _) fun _ => rfl

theorem State.updDma_keeps {q : Prop} {a0 : State} (s : State) (r : Nat) (c : Nat) (f : DmaChan → DmaChan) (hs : Keeps q a0 s) :
    Keeps q a0 (State.updDma s r c f) := by
  unfold State.updDma
  with_reducible apply State.setDma_keeps; assumption

theorem State.settleDescs_keeps {q : Prop} {a0 : State} (s : State) (r : ℕ) (c : ℕ) (hs : Keeps q a0 s) :
    Keeps q a0 (State.settleDescs s r c) := by
  unfold State.settleDescs
  with_reducible apply State.updDma_keeps
  assumption

theorem State.dmaEnter_keeps {q : Prop} {a0 : State} (s : State) (r : ℕ) (c : ℕ) (st : DmaState) (hs : Keeps q a0 s) :
    Keeps q a0 (State.dmaEnter s r c st) := by
  unfold State.dmaEnter
  extract_lets +onlyGivenNames x1
  clear_value x1
  with_reducible apply Keeps.ite
  · assumption
  · extract_lets +onlyGivenNames x2
    clear_value x2
    extract_lets +onlyGivenNames x3
    have hx3 : Keeps q a0 x3 := by
      dsimp -zeta -proj only [x3]
      with_reducible apply State.updDma_keeps
      assumption
    clear_value x3
    with_reducible apply Keeps.ite
    · assumption
    · extract_lets +onlyGivenNames x4
      clear_value x4
      with_reducible apply Keeps.ite
      · with_reducible apply State.signalPeg_keeps
        assumption
      · assumption

theorem State.dmaRingFault_keeps {q : Prop} {a0 : State} (s : State) (r : Nat) (c : Nat) (addr : Nat) (hs : Keeps q a0 s) :
    Keeps q a0 (State.dmaRingFault s r c addr) := by
  unfold State.dmaRingFault
  with_reducible apply State.dmaEnter_keeps; with_reducible apply State.setReg_keeps; with_reducible apply State.updDma_keeps; assumption

theorem State.putDesc_keeps {q : Prop} {a0 : State} (s : State) (r : Nat) (c : Nat) (d : Desc) (hs : Keeps q a0 s) :
    Keeps q a0 (State.putDesc s r c d) := by
  unfold State.putDesc
  with_reducible apply State.updDma_keeps; assumption

theorem State.ringFault_keeps {q : Prop} {a0 : State} (s : State) (r : ℕ) (c : ℕ) (hs : Keeps q a0 s) :
    Keeps q a0 (State.ringFault s r c) := by
  unfold State.ringFault
  extract_lets +onlyGivenNames x1
  have hx1 : Keeps q a0 x1 := by
    dsimp -zeta -proj only [x1]
    with_reducible apply State.settleDescs_keeps
    assumption
  clear_value x1
  extract_lets +onlyGivenNames x2
  clear_value x2
  extract_lets +onlyGivenNames x3
  clear_value x3
  extract_lets +onlyGivenNames x4
  clear_value x4
  split
  · rename_i v5 v6 v7 v8
    extract_lets +onlyGivenNames x9
    clear_value x9
    with_reducible apply Keeps.ite
    · with_reducible apply State.dmaRingFault_keeps
      with_reducible apply State.putDesc_keeps
      assumption
    · assumption
  · rename_i v10 v11
    with_reducible apply Keeps.ite
    · with_reducible apply State.dmaRingFault_keeps
      assumption
    · assumption

theorem State.dmaRefuse_keeps {q : Prop} {a0 : State} (s : State) (ag : Agent) (g : Reg) (st : Nat) (hs : Keeps q a0 s) :
    Keeps q a0 (State.dmaRefuse s ag g st) := by
  unfold State.dmaRefuse
  with_reducible apply State.log_keeps; assumption

theorem State.disown_keeps {q : Prop} {a0 : State} (s : State) (r : ℕ) (c : ℕ) (p : ℕ → Bool) (hs : Keeps q a0 s) :
    Keeps q a0 (State.disown s r c p) := by
  unfold State.disown
  exact Keeps.put (by assumption) id rfl (Nat.le_refl _) fun _ => rfl

theorem State.dropReads_keeps {q : Prop} {a0 : State} (s : State) (r : ℕ) (c : ℕ) (p : ℕ → ℕ → Bool) (hs : Keeps q a0 s) :
    Keeps q a0 (State.dropReads s r c p) := by
  unfold State.dropReads
  extract_lets +onlyGivenNames x1
  clear_value x1
  exact Keeps.put (by assumption) id rfl (Nat.le_refl _) fun _ => rfl

theorem State.dmaResume_keeps {q : Prop} {a0 : State} (s : State) (r : Nat) (c : Nat) (hs : Keeps q a0 s) :
    Keeps q a0 (State.dmaResume s r c) := by
  unfold State.dmaResume
  try extract_lets +onlyGivenNames x1
  try clear_value x1
  with_reducible apply Keeps.ite
  · with_reducible apply State.dmaEnter_keeps; assumption
  · with_reducible apply State.dmaEnter_keeps; assumption

theorem State.pauseDrainEnd_keeps {q : Prop} {a0 : State} (s : State) (r : ℕ) (c : ℕ) (hs : Keeps q a0 s) :
    Keeps q a0 (State.pauseDrainEnd s r c) := by
  unfold State.pauseDrainEnd
  extract_lets +onlyGivenNames x1
  have hx1 : Keeps q a0 x1 := by
    dsimp -zeta -proj only [x1]
    with_reducible apply State.settleDescs_keeps
    assumption
  clear_value x1
  extract_lets +onlyGivenNames x2
  clear_value x2
  with_reducible apply Keeps.ite
  · extract_lets +onlyGivenNames x3
    have hx3 : Keeps q a0 x3 := by
      dsimp -zeta -proj only [x3]
      with_reducible apply State.updDma_keeps
      with_reducible apply State.dropReads_keeps
      assumption
    clear_value x3
    with_reducible apply Keeps.ite
    · with_reducible apply State.dmaEnter_keeps
      with_reducible apply State.updDma_keeps
      assumption
    · with_reducible apply State.dmaResume_keeps
      with_reducible apply State.dmaEnter_keeps
      assumption
  · assumption

theorem State.dmaPause_keeps {q : Prop} {a0 : State} (s : State) (r : ℕ) (c : ℕ) (on : Bool) (hs : Keeps q a0 s) :
    Keeps q a0 (State.dmaPause s r c on) := by
  unfold State.dmaPause
  split
  · rename_i v1 v2 v3
    with_reducible apply State.dmaEnter_keeps
    with_reducible apply State.updDma_keeps
    with_reducible apply State.dropReads_keeps
    assumption
  · rename_i v4 v5 v6
    with_reducible apply State.dmaEnter_keeps
    with_reducible apply State.updDma_keeps
    with_reducible apply State.dropReads_keeps
    assumption
  · rename_i v7 v8 v9
    extract_lets +onlyGivenNames x10
    have hx10 : Keeps q a0 x10 := by
      dsimp -zeta -proj only [x10]
      with_reducible apply State.dmaEnter_keeps
      assumption
    clear_value x10
    with_reducible apply Keeps.ite
    · with_reducible apply State.pauseDrainEnd_keeps
      with_reducible apply State.dropReads_keeps
      assumption
    · assumption
  · rename_i v11 v12 v13
    with_reducible apply State.dmaResume_keeps
    assumption
  · rename_i v14 v15 v16 v17 v18 v19 v20
    assumption

theorem State.stopDesc_keeps {q : Prop} {a0 : State} (s : State) (r : ℕ) (c : ℕ) (d : Desc) (st : ℕ) (detail : W64) (done : ℕ) (hs : Keeps q a0 s) :
    Keeps q a0 (State.stopDesc s r c d st detail done) := by
  unfold State.stopDesc
  with_reducible apply State.dropReads_keeps
  with_reducible apply State.putDesc_keeps
  assumption

theorem State.abortWith_keeps {q : Prop} {a0 : State} (s : State) (r : ℕ) (c : ℕ) (st : ℕ) (hs : Keeps q a0 s) :
    Keeps q a0 (State.abortWith s r c st) := by
  unfold State.abortWith
  extract_lets +onlyGivenNames x1
  have hx1 : Keeps q a0 x1 := by
    dsimp -zeta -proj only [x1]
    with_reducible apply State.updDma_keeps
    with_reducible apply State.dropReads_keeps
    with_reducible apply State.settleDescs_keeps
    assumption
  clear_value x1
  split
  · rename_i v2 v3 v4
    with_reducible apply State.stopDesc_keeps
    assumption
  · rename_i v5 v6
    with_reducible apply Keeps.ite
    · with_reducible apply State.dmaEnter_keeps
      assumption
    · with_reducible apply State.updDma_keeps
      assumption

theorem State.dmaAbort_keeps {q : Prop} {a0 : State} (s : State) (ag : Agent) (r : Nat) (c : Nat) (hs : Keeps q a0 s) :
    Keeps q a0 (State.dmaAbort s ag r c) := by
  unfold State.dmaAbort
  try extract_lets +onlyGivenNames x1
  try clear_value x1
  split
  · with_reducible apply State.abortWith_keeps; assumption
  · with_reducible apply State.abortWith_keeps; assumption
  · with_reducible apply Keeps.ite
    · with_reducible apply State.abortWith_keeps; assumption
    · with_reducible apply State.dmaRefuse_keeps; assumption
  · with_reducible apply State.dmaEnter_keeps; with_reducible apply State.updDma_keeps; assumption
  · with_reducible apply State.dmaRefuse_keeps; assumption

theorem State.maybeWait_keeps {q : Prop} {a0 : State} (s : State) (r : Nat) (c : Nat) (hs : Keeps q a0 s) :
    Keeps q a0 (State.maybeWait s r c) := by
  unfold State.maybeWait
  try extract_lets +onlyGivenNames x1
  try clear_value x1
  with_reducible apply Keeps.ite
  · with_reducible apply State.dmaEnter_keeps; assumption
  · assumption

end Sys2Proof.Machine
end

