-- ==== Sys2Proof/Laws/KeepsOps4.lean ====
section
/-!
SUPPORT. Operations of the module, part 4 of 7: each leaves `Keeps` true.
-/
namespace Sys2Proof.Machine

theorem State.finishDesc_keeps {q : Prop} {a0 : State} (s : State) (r : ℕ) (c : ℕ) (d : Desc) (hs : Keeps q a0 s) :
    Keeps q a0 (State.finishDesc s r c d) := by
  unfold State.finishDesc
  extract_lets +onlyGivenNames x1
  clear_value x1
  extract_lets +onlyGivenNames x2
  have hx2 : Keeps q a0 x2 := by
    dsimp -zeta -proj only [x2]
    with_reducible apply State.updDma_keeps
    assumption
  clear_value x2
  extract_lets +onlyGivenNames x3
  have hx3 : Keeps q a0 x3 := by
    dsimp -zeta -proj only [x3]
    with_reducible apply Keeps.ite
    · with_reducible apply State.bumpFld_keeps
      assumption
    · assumption
  clear_value x3
  extract_lets +onlyGivenNames x4
  have hx4 : Keeps q a0 x4 := by
    dsimp -zeta -proj only [x4]
    with_reducible apply State.noteCompletion_keeps
    assumption
  clear_value x4
  extract_lets +onlyGivenNames x5
  have hx5 : Keeps q a0 x5 := by
    dsimp -zeta -proj only [x5]
    with_reducible apply Keeps.ite
    · with_reducible apply State.signalPeg_keeps
      assumption
    · assumption
  clear_value x5
  with_reducible apply Keeps.ite
  · extract_lets +onlyGivenNames x6
    clear_value x6
    with_reducible apply Keeps.ite
    · with_reducible apply State.dmaEnter_keeps
      assumption
    · with_reducible apply Keeps.ite
      · with_reducible apply State.dmaEnter_keeps
        assumption
      · with_reducible apply State.maybeWait_keeps
        assumption
  · extract_lets +onlyGivenNames x7
    have hx7 : Keeps q a0 x7 := by
      dsimp -zeta -proj only [x7]
      with_reducible apply State.updDma_keeps
      with_reducible apply State.dropReads_keeps
      assumption
    clear_value x7
    with_reducible apply Keeps.ite
    · with_reducible apply State.dmaEnter_keeps
      assumption
    · assumption

theorem State.countDmaSpill_keeps {q : Prop} {a0 : State} (s : State) (s' : State) (r : ℕ) (hs : Keeps q a0 s) (hs' : Keeps q a0 s') :
    Keeps q a0 (State.countDmaSpill s s' r) := by
  unfold State.countDmaSpill
  extract_lets +onlyGivenNames x1
  clear_value x1
  with_reducible apply Keeps.ite
  · assumption
  · with_reducible apply State.bump_keeps
    assumption

theorem State.descWriteback_keeps {q : Prop} {a0 : State} (s : State) (r : ℕ) (c : ℕ) (hs : Keeps q a0 s) :
    Keeps q a0 (State.descWriteback s r c) := by
  unfold State.descWriteback
  extract_lets +onlyGivenNames x1
  have hx1 : Keeps q a0 x1 := by
    dsimp -zeta -proj only [x1]
    with_reducible apply State.settleDescs_keeps
    assumption
  clear_value x1
  split
  · rename_i v2 v3 v4 v5
    extract_lets +onlyGivenNames x6
    clear_value x6
    extract_lets +onlyGivenNames x7
    clear_value x7
    with_reducible apply Keeps.ite
    · assumption
    · with_reducible apply Keeps.ite
      · with_reducible apply State.finishDesc_keeps
        assumption
      · with_reducible apply Keeps.ite
        · assumption
        · split
          · rename_i v8 v9 v10
            have h11 : Keeps q a0 v9 := by
              refine EngWrite.Keeps.done ?_ v10
              with_reducible apply State.engWrite_keeps
              assumption
            extract_lets +onlyGivenNames x12
            have hx12 : Keeps q a0 x12 := by
              dsimp -zeta -proj only [x12]
              with_reducible apply State.countDmaSpill_keeps
              · assumption
              · assumption
            clear_value x12
            with_reducible apply Keeps.ite
            · with_reducible apply State.finishDesc_keeps
              assumption
            · with_reducible apply State.putDesc_keeps
              assumption
          · rename_i v13 v14 v15
            have h16 : Keeps q a0 v14 := by
              refine EngWrite.Keeps.wait ?_ v15
              with_reducible apply State.engWrite_keeps
              assumption
            assumption
          · rename_i v17 v18 v19 v20
            have h21 : Keeps q a0 v18 := by
              refine EngWrite.Keeps.done ?_ v20
              with_reducible apply State.engWrite_keeps
              assumption
            with_reducible apply State.dmaRingFault_keeps
            with_reducible apply State.putDesc_keeps
            assumption
          · rename_i v22 v23 v24 v25 v26
            have h27 : Keeps q a0 v23 := by
              refine EngWrite.Keeps.fault ?_ v26
              with_reducible apply State.engWrite_keeps
              assumption
            with_reducible apply Keeps.ite
            · with_reducible apply State.finishDesc_keeps
              assumption
            · with_reducible apply State.dmaRingFault_keeps
              with_reducible apply State.putDesc_keeps
              assumption
  · rename_i v28 v29
    assumption

theorem State.dmaClearErr_keeps {q : Prop} {a0 : State} (s : State) (ag : Agent) (r : ℕ) (c : ℕ) (hs : Keeps q a0 s) :
    Keeps q a0 (State.dmaClearErr s ag r c) := by
  unfold State.dmaClearErr
  with_reducible apply Keeps.ite
  · with_reducible apply State.dmaRefuse_keeps
    assumption
  · extract_lets +onlyGivenNames x1
    have hx1 : Keeps q a0 x1 := by
      dsimp -zeta -proj only [x1]
      with_reducible apply Keeps.ite
      · with_reducible apply State.updDma_keeps
        assumption
      · assumption
    clear_value x1
    extract_lets +onlyGivenNames x2
    have hx2 : Keeps q a0 x2 := by
      dsimp -zeta -proj only [x2]
      with_reducible apply Keeps.foldl
      · intro w3 w4 w5
        with_reducible apply State.descWriteback_keeps
        assumption
      · assumption
    clear_value x2
    extract_lets +onlyGivenNames x6
    clear_value x6
    with_reducible apply Keeps.ite
    · assumption
    · extract_lets +onlyGivenNames x7
      have hx7 : Keeps q a0 x7 := by
        dsimp -zeta -proj only [x7]
        with_reducible apply State.disown_keeps
        with_reducible apply State.dropReads_keeps
        with_reducible apply State.setDma_keeps
        assumption
      clear_value x7
      with_reducible apply Keeps.ite
      · with_reducible apply State.dmaEnter_keeps
        assumption
      · with_reducible apply State.dmaResume_keeps
        assumption

theorem State.dmaCtrlWrite_keeps {q : Prop} {a0 : State} (s : State) (ag : Agent) (r : ℕ) (c : ℕ) (v : W64) (hs : Keeps q a0 s) :
    Keeps q a0 (State.dmaCtrlWrite s ag r c v) := by
  unfold State.dmaCtrlWrite
  extract_lets +onlyGivenNames x1
  clear_value x1
  extract_lets +onlyGivenNames x2
  clear_value x2
  extract_lets +onlyGivenNames x3
  clear_value x3
  extract_lets +onlyGivenNames x4
  clear_value x4
  extract_lets +onlyGivenNames x5
  clear_value x5
  with_reducible apply Keeps.ite
  · with_reducible apply State.dmaRefuse_keeps
    assumption
  · with_reducible apply Keeps.ite
    · with_reducible apply State.dmaRefuse_keeps
      assumption
    · extract_lets +onlyGivenNames x6
      have hx6 : Keeps q a0 x6 := by
        dsimp -zeta -proj only [x6]
        with_reducible apply State.setReg_keeps
        assumption
      clear_value x6
      extract_lets +onlyGivenNames x7
      have hx7 : Keeps q a0 x7 := by
        dsimp -zeta -proj only [x7]
        with_reducible apply State.disown_keeps
        with_reducible apply State.dropReads_keeps
        with_reducible apply State.setDma_keeps
        assumption
      clear_value x7
      extract_lets +onlyGivenNames x8
      have hx8 : Keeps q a0 x8 := by
        dsimp -zeta -proj only [x8]
        with_reducible apply Keeps.ite
        · with_reducible apply Keeps.ite
          · with_reducible apply Keeps.ite
            · with_reducible apply State.dmaEnter_keeps
              assumption
            · with_reducible apply State.dmaEnter_keeps
              assumption
          · with_reducible apply State.updDma_keeps
            assumption
        · with_reducible apply Keeps.ite
          · with_reducible apply State.dmaPause_keeps
            assumption
          · assumption
      clear_value x8
      with_reducible apply Keeps.ite
      · with_reducible apply State.dmaAbort_keeps
        assumption
      · with_reducible apply Keeps.ite
        · with_reducible apply State.dmaClearErr_keeps
          assumption
        · assumption

theorem State.dmaPut_keeps {q : Prop} {a0 : State} (s : State) (held : List Answer) (r : ℕ) (c : ℕ) (d : Desc) (bs : List Byte) (hs : Keeps q a0 s) :
    Keeps q a0 (State.dmaPut s held r c d bs).1 := by
  unfold State.dmaPut
  with_reducible apply Keeps.iteP
  · with_reducible apply Keeps.fst
    exact Keeps.put (by assumption) id rfl (Nat.le_refl _) fun _ => rfl
  · split
    · rename_i v1 v2 v3
      have h4 : Keeps q a0 v2 := by
        refine EngWrite.Keeps.done ?_ v3
        with_reducible apply State.engWrite_keeps
        assumption
      extract_lets +onlyGivenNames x5
      clear_value x5
      extract_lets +onlyGivenNames x6
      have hx6 : Keeps q a0 x6 := by
        dsimp -zeta -proj only [x6]
        with_reducible apply Keeps.ite
        · with_reducible apply State.bump_keeps
          assumption
        · assumption
      clear_value x6
      with_reducible apply Keeps.fst
      with_reducible apply State.putDesc_keeps
      assumption
    · rename_i v7 v8 v9 v10 v11
      have h12 : Keeps q a0 v8 := by
        refine EngWrite.Keeps.done ?_ v11
        with_reducible apply State.engWrite_keeps
        assumption
      extract_lets +onlyGivenNames x13
      clear_value x13
      with_reducible apply Keeps.fst
      with_reducible apply State.stopDesc_keeps
      assumption
    · rename_i v14 v15 v16 v17 v18
      have h19 : Keeps q a0 v15 := by
        refine EngWrite.Keeps.fault ?_ v18
        with_reducible apply State.engWrite_keeps
        assumption
      with_reducible apply Keeps.fst
      with_reducible apply State.stopDesc_keeps
      assumption
    · rename_i v20 v21 v22
      have h23 : Keeps q a0 v21 := by
        refine EngWrite.Keeps.wait ?_ v22
        with_reducible apply State.engWrite_keeps
        assumption
      with_reducible apply Keeps.fst
      exact Keeps.put (by assumption) id rfl (Nat.le_refl _) fun _ => rfl

theorem State.dmaChunk_keeps {q : Prop} {a0 : State} (s : State) (r : ℕ) (c : ℕ) (d : Desc) (hs : Keeps q a0 s) :
    Keeps q a0 (State.dmaChunk s r c d).1 := by
  unfold State.dmaChunk
  extract_lets +onlyGivenNames x1
  clear_value x1
  extract_lets +onlyGivenNames x2
  clear_value x2
  extract_lets +onlyGivenNames x3
  clear_value x3
  extract_lets +onlyGivenNames x4
  clear_value x4
  extract_lets +onlyGivenNames x5
  clear_value x5
  with_reducible apply Keeps.iteP
  · with_reducible apply State.dmaPut_keeps
    assumption
  · split
    · rename_i v6 v7 v8
      have h9 : Keeps q a0 v7 := by
        refine EngRead.Keeps.wait ?_ v8
        with_reducible apply State.engRead_keeps
        assumption
      with_reducible apply Keeps.iteP
      · with_reducible apply Keeps.fst
        assumption
      · split
        · rename_i v10 v11 v12
          have h13 : Keeps q a0 v11 := by
            refine EngRead.Keeps.wait ?_ v12
            with_reducible apply State.engRead_keeps
            assumption
          with_reducible apply Keeps.fst
          assumption
        · rename_i v14 v15
          with_reducible apply Keeps.fst
          assumption
    · rename_i v16 v17 v18 v19 v20
      have h21 : Keeps q a0 v17 := by
        refine EngRead.Keeps.fault ?_ v20
        with_reducible apply State.engRead_keeps
        assumption
      with_reducible apply Keeps.fst
      with_reducible apply State.stopDesc_keeps
      assumption
    · rename_i v22 v23 v24 v25 v26 v27
      have h28 : Keeps q a0 v23 := by
        refine EngRead.Keeps.poison ?_ v27
        with_reducible apply State.engRead_keeps
        assumption
      with_reducible apply Keeps.iteP
      · with_reducible apply Keeps.fst
        with_reducible apply State.stopDesc_keeps
        assumption
      · split
        rename_i v29 v30 v31 v32
        have h33 : Keeps q a0 v30 := by
          refine Keeps.of_pair v32 ?_
          with_reducible apply State.dmaPut_keeps
          assumption
        with_reducible apply Keeps.iteP
        · split
          · rename_i v34 v35 v36
            with_reducible apply Keeps.fst
            with_reducible apply State.stopDesc_keeps
            assumption
          · rename_i v37 v38
            with_reducible apply Keeps.fst
            assumption
        · with_reducible apply Keeps.fst
          assumption
    · rename_i v39 v40 v41 v42
      have h43 : Keeps q a0 v40 := by
        refine EngRead.Keeps.data ?_ v42
        with_reducible apply State.engRead_keeps
        assumption
      with_reducible apply Keeps.iteP
      · with_reducible apply State.dmaPut_keeps
        assumption
      · split
        · rename_i v44 v45 v46
          have h47 : Keeps q a0 v45 := by
            refine EngRead.Keeps.wait ?_ v46
            with_reducible apply State.engRead_keeps
            assumption
          with_reducible apply Keeps.fst
          exact Keeps.put (by assumption) id rfl (Nat.le_refl _) fun _ => rfl
        · rename_i v48 v49 v50 v51 v52
          have h53 : Keeps q a0 v49 := by
            refine EngRead.Keeps.fault ?_ v52
            with_reducible apply State.engRead_keeps
            assumption
          with_reducible apply Keeps.fst
          with_reducible apply State.stopDesc_keeps
          assumption
        · rename_i v54 v55 v56 v57 v58 v59
          have h60 : Keeps q a0 v55 := by
            refine EngRead.Keeps.poison ?_ v59
            with_reducible apply State.engRead_keeps
            assumption
          with_reducible apply Keeps.fst
          with_reducible apply State.stopDesc_keeps
          assumption
        · rename_i v61 v62 v63 v64
          have h65 : Keeps q a0 v62 := by
            refine EngRead.Keeps.data ?_ v64
            with_reducible apply State.engRead_keeps
            assumption
          split
          · rename_i v66 v67 v68 v69 v70
            with_reducible apply Keeps.fst
            with_reducible apply State.stopDesc_keeps
            assumption
          · rename_i v71 v72
            with_reducible apply Keeps.fst
            with_reducible apply State.putDesc_keeps
            assumption

theorem State.grantRead_keeps {q : Prop} {a0 : State} (s : State) (r : ℕ) (c : ℕ) (n : ℕ) (hs : Keeps q a0 s) :
    ∀ t, (State.grantRead s r c n) = some t → Keeps q a0 t := by
  unfold State.grantRead
  extract_lets +onlyGivenNames x1
  clear_value x1
  split
  · rename_i v2
    intro t e
    cases e
    exact Keeps.put (by assumption) id rfl (Nat.le_refl _) fun _ => rfl
  · rename_i v3
    split
    · rename_i v4
      intro t e
      cases e
    · rename_i v5
      split
      · rename_i v6 v7 v8
        split
        · rename_i v9
          intro t e
          cases e
        · rename_i v10
          split
          rename_i v11 v12 v13 v14
          extract_lets +onlyGivenNames x15
          clear_value x15
          extract_lets +onlyGivenNames x16
          clear_value x16
          intro t e
          cases e
          exact Keeps.put (by assumption) id rfl (Nat.le_refl _) fun _ => rfl
      · rename_i v17 v18
        intro t e
        cases e

theorem State.dmaBurst_keeps {q : Prop} {a0 : State} (s : State) (r : ℕ) (c : ℕ) (d : Desc) (hs : Keeps q a0 s) :
    Keeps q a0 (State.dmaBurst s r c d).1 := by
  unfold State.dmaBurst
  extract_lets +onlyGivenNames x1
  have hx1 : ∀ w0, Keeps q a0 w0 → Keeps q a0 (x1 w0).1 := by
    dsimp -zeta -proj only [x1]
    intro w2 w3
    with_reducible apply Keeps.fst
    with_reducible apply State.countDmaSpill_keeps
    · assumption
    · with_reducible apply State.dmaChunk_keeps
      assumption
  clear_value x1
  with_reducible apply Keeps.iteP
  · with_reducible apply hx1
    assumption
  · with_reducible apply Keeps.iteP
    · split
      · rename_i v4 v5 v6
        have h7 : Keeps q a0 v5 := by
          refine Keeps.of_opt v6 ?_
          with_reducible apply State.grantRead_keeps
          assumption
        with_reducible apply hx1
        assumption
      · rename_i v8 v9
        with_reducible apply Keeps.fst
        assumption
    · with_reducible apply Keeps.fst
      assumption

theorem State.missDesc_keeps {q : Prop} {a0 : State} (s : State) (r : Nat) (c : Nat) (d : Desc) (hs : Keeps q a0 s) :
    Keeps q a0 (State.missDesc s r c d) := by
  unfold State.missDesc
  with_reducible apply State.stopDesc_keeps; assumption

theorem State.startDesc_keeps {q : Prop} {a0 : State} (s : State) (r : ℕ) (c : ℕ) (w : BitVec 512) (hs : Keeps q a0 s) :
    Keeps q a0 (State.startDesc s r c w) := by
  unfold State.startDesc
  extract_lets +onlyGivenNames x1
  clear_value x1
  extract_lets +onlyGivenNames x2
  clear_value x2
  extract_lets +onlyGivenNames x3
  clear_value x3
  extract_lets +onlyGivenNames x4
  clear_value x4
  extract_lets +onlyGivenNames x5
  clear_value x5
  extract_lets +onlyGivenNames x6
  have hx6 : Keeps q a0 x6 := by
    dsimp -zeta -proj only [x6]
    with_reducible apply State.setDma_keeps
    assumption
  clear_value x6
  with_reducible apply Keeps.ite
  · with_reducible apply State.missDesc_keeps
    assumption
  · assumption

theorem State.fetchOnce_keeps {q : Prop} {a0 : State} (s : State) (r : ℕ) (c : ℕ) (more : ℕ) (late : State → State) (hs : Keeps q a0 s) (hlate : ∀ w0, Keeps q a0 w0 → Keeps q a0 (late w0)) :
    Keeps q a0 (State.fetchOnce s r c more late) := by
  unfold State.fetchOnce
  extract_lets +onlyGivenNames x1
  clear_value x1
  extract_lets +onlyGivenNames x2
  clear_value x2
  extract_lets +onlyGivenNames x3
  have hx3 : ∀ w0, Keeps q a0 w0 → Keeps q a0 (x3 w0) := by
    dsimp -zeta -proj only [x3]
    intro w4 w5
    with_reducible apply Keeps.ite
    · assumption
    · with_reducible apply State.bump_keeps
      assumption
  clear_value x3
  split
  · rename_i v6 v7 v8 v9
    have h10 : Keeps q a0 v7 := by
      refine EngRead.Keeps.data ?_ v9
      with_reducible apply State.engRead_keeps
      assumption
    extract_lets +onlyGivenNames x11
    clear_value x11
    extract_lets +onlyGivenNames x12
    clear_value x12
    with_reducible apply Keeps.ite
    · with_reducible apply Keeps.ite
      · assumption
      · with_reducible apply State.startDesc_keeps
        with_reducible apply hx3
        assumption
    · with_reducible apply hlate
      with_reducible apply hx3
      assumption
  · rename_i v13 v14 v15
    have h16 : Keeps q a0 v14 := by
      refine EngRead.Keeps.wait ?_ v15
      with_reducible apply State.engRead_keeps
      assumption
    assumption
  · rename_i v17 v18 v19 v20 v21
    have h22 : Keeps q a0 v18 := by
      refine EngRead.Keeps.fault ?_ v21
      with_reducible apply State.engRead_keeps
      assumption
    with_reducible apply State.dmaRingFault_keeps
    with_reducible apply hx3
    assumption
  · rename_i v23 v24 v25 v26 v27 v28
    have h29 : Keeps q a0 v24 := by
      refine EngRead.Keeps.poison ?_ v28
      with_reducible apply State.engRead_keeps
      assumption
    with_reducible apply State.dmaRingFault_keeps
    with_reducible apply hx3
    assumption

theorem State.descRefetch_keeps {q : Prop} {a0 : State} (s : State) (r : ℕ) (c : ℕ) (hs : Keeps q a0 s) :
    Keeps q a0 (State.descRefetch s r c) := by
  unfold State.descRefetch
  extract_lets +onlyGivenNames x1
  clear_value x1
  split
  · rename_i v2 v3 v4
    with_reducible apply Keeps.ite
    · with_reducible apply State.fetchOnce_keeps
      · assumption
      · intro w5 w6
        with_reducible apply State.maybeWait_keeps
        with_reducible apply State.updDma_keeps
        assumption
    · assumption
  · rename_i v7 v8
    assumption

theorem State.waitRecheck_keeps {q : Prop} {a0 : State} (s : State) (r : ℕ) (c : ℕ) (hs : Keeps q a0 s) :
    Keeps q a0 (State.waitRecheck s r c) := by
  unfold State.waitRecheck
  with_reducible apply Keeps.ite
  · extract_lets +onlyGivenNames x1
    have hx1 : Keeps q a0 x1 := by
      dsimp -zeta -proj only [x1]
      with_reducible apply State.fetchOnce_keeps
      · assumption
      · intro w2 w3
        assumption
    clear_value x1
    with_reducible apply Keeps.ite
    · with_reducible apply State.dmaEnter_keeps
      assumption
    · assumption
  · assumption

theorem State.dmaDoorbell_keeps {q : Prop} {a0 : State} (s : State) (ag : Agent) (r : Nat) (c : Nat) (v : W64) (hs : Keeps q a0 s) :
    Keeps q a0 (State.dmaDoorbell s ag r c v) := by
  unfold State.dmaDoorbell
  try extract_lets +onlyGivenNames x1
  try clear_value x1
  with_reducible apply Keeps.ite
  · with_reducible apply State.dmaRefuse_keeps; assumption
  · split
    · with_reducible apply State.bump_keeps; assumption
    · try (extract_lets +onlyGivenNames x4
           have hx4 : Keeps q a0 x4 := by
             try dsimp -zeta only [x4]
             with_reducible apply State.setDma_keeps; assumption
           clear_value x4)
      split
      · with_reducible apply State.dmaEnter_keeps; assumption
      · with_reducible apply State.waitRecheck_keeps; assumption
      · assumption

theorem State.stopStarted_keeps {q : Prop} {a0 : State} (s : State) (r : ℕ) (c : ℕ) (p : Desc → Bool) (f : State → Desc → State) (hs : Keeps q a0 s) (hf : ∀ w0 w1, Keeps q a0 w0 → Keeps q a0 (f w0 w1)) :
    Keeps q a0 (State.stopStarted s r c p f) := by
  unfold State.stopStarted
  extract_lets +onlyGivenNames x1
  have hx1 : Keeps q a0 x1 := by
    dsimp -zeta -proj only [x1]
    with_reducible apply State.settleDescs_keeps
    assumption
  clear_value x1
  with_reducible apply Keeps.foldl
  · intro w2 w3 w4
    with_reducible apply hf
    assumption
  · assumption

theorem State.dmaMark_keeps {q : Prop} {a0 : State} (s : State) (r : ℕ) (c : ℕ) (cnt : ℕ) (hs : Keeps q a0 s) :
    Keeps q a0 (State.dmaMark s r c cnt) := by
  unfold State.dmaMark
  with_reducible apply State.stopStarted_keeps
  · assumption
  · intro w1 w2 w3
    with_reducible apply State.missDesc_keeps
    assumption

theorem State.dmaChunks_keeps {q : Prop} {a0 : State} (u0 : ℕ) (u1 : State) (u2 : ℕ) (u3 : ℕ) (u4 : ℕ) (hu1 : Keeps q a0 u1) :
    Keeps q a0 (State.dmaChunks u0 u1 u2 u3 u4) := by
  induction u0 generalizing u1 u2 u3 u4
  case zero =>
    unfold State.dmaChunks
    assumption
  case succ k1 ih =>
    unfold State.dmaChunks
    split
    · rename_i v1 v2 v3
      with_reducible apply Keeps.ite
      · assumption
      · split
        rename_i v4 v5 v6 v7
        have h8 : Keeps q a0 v5 := by
          refine Keeps.of_pair v7 ?_
          with_reducible apply State.dmaBurst_keeps
          assumption
        with_reducible apply Keeps.ite
        · with_reducible apply ih
          assumption
        · assumption
    · rename_i v9 v10
      assumption

theorem State.descFault_keeps {q : Prop} {a0 : State} (s : State) (r : ℕ) (c : ℕ) (hs : Keeps q a0 s) :
    Keeps q a0 (State.descFault s r c) := by
  unfold State.descFault
  split
  · rename_i v1 v2 v3
    with_reducible apply Keeps.ite
    · split
      rename_i v4 v5 v6 v7
      have h8 : Keeps q a0 v5 := by
        refine Keeps.of_pair v7 ?_
        with_reducible apply State.dmaChunk_keeps
        assumption
      with_reducible apply Keeps.ite
      · assumption
      · with_reducible apply Keeps.ite
        · assumption
        · with_reducible apply State.countDmaSpill_keeps
          · assumption
          · assumption
    · assumption
  · rename_i v9 v10
    assumption

theorem State.dmaHostLost_keeps {q : Prop} {a0 : State} (s : State) (r : ℕ) (c : ℕ) (hs : Keeps q a0 s) :
    Keeps q a0 (State.dmaHostLost s r c) := by
  unfold State.dmaHostLost
  with_reducible apply Keeps.ite
  · assumption
  · extract_lets +onlyGivenNames x1
    have hx1 : Keeps q a0 x1 := by
      dsimp -zeta -proj only [x1]
      with_reducible apply State.abortWith_keeps
      with_reducible apply State.updDma_keeps
      assumption
    clear_value x1
    extract_lets +onlyGivenNames x2
    have hx2 : Keeps q a0 x2 := by
      dsimp -zeta -proj only [x2]
      with_reducible apply Keeps.foldl
      · intro w3 w4 w5
        with_reducible apply State.descWriteback_keeps
        assumption
      · assumption
    clear_value x2
    with_reducible apply State.updDma_keeps
    assumption

theorem State.descFetch_keeps {q : Prop} {a0 : State} (s : State) (r : Nat) (c : Nat) (hs : Keeps q a0 s) :
    Keeps q a0 (State.descFetch s r c) := by
  unfold State.descFetch
  try extract_lets +onlyGivenNames x1
  try clear_value x1
  with_reducible apply Keeps.ite
  · with_reducible apply State.fetchOnce_keeps
    · assumption
    · intro z2 hz2
      try dsimp -zeta only
      with_reducible apply State.updDma_keeps; assumption
  · assumption

theorem State.dmaCtrlSet_keeps {q : Prop} {a0 : State} (s : State) (ag : Agent) (r : Nat) (c : Nat) (set : W64) (clear : W64) (hs : Keeps q a0 s) :
    Keeps q a0 (State.dmaCtrlSet s ag r c set clear) := by
  unfold State.dmaCtrlSet
  with_reducible apply State.dmaCtrlWrite_keeps; assumption

theorem State.dmaDiscard_keeps {q : Prop} {a0 : State} (s : State) (r : ℕ) (c : ℕ) (seq : ℕ) (off : ℕ) (st : ℕ) (hs : Keeps q a0 s) :
    Keeps q a0 (State.dmaDiscard s r c seq off st) := by
  unfold State.dmaDiscard
  split
  · rename_i v1 v2 v3
    with_reducible apply Keeps.ite
    · with_reducible apply Keeps.ite
      · assumption
      · with_reducible apply State.dmaRingFault_keeps
        with_reducible apply State.putDesc_keeps
        assumption
    · extract_lets +onlyGivenNames x4
      clear_value x4
      extract_lets +onlyGivenNames x5
      clear_value x5
      split
      · rename_i v6 v7 v8
        with_reducible apply Keeps.ite
        · with_reducible apply State.stopDesc_keeps
          assumption
        · with_reducible apply State.putDesc_keeps
          assumption
      · rename_i v9 v10
        with_reducible apply State.stopDesc_keeps
        assumption
  · rename_i v11 v12
    assumption

theorem State.dmaMove_keeps {q : Prop} {a0 : State} (s : State) (r : Nat) (c : Nat) (op : Nat) (n : Nat) (hs : Keeps q a0 s) :
    Keeps q a0 (State.dmaMove s r c op n) := by
  unfold State.dmaMove
  split
  · with_reducible apply State.dmaChunks_keeps; assumption
  · with_reducible apply Keeps.ite
    · with_reducible apply State.dmaChunks_keeps; assumption
    · assumption
  · assumption

theorem State.dmaArrived_keeps {q : Prop} {a0 : State} (s : State) (r : ℕ) (c : ℕ) (off : ℕ) (hs : Keeps q a0 s) :
    Keeps q a0 (State.dmaArrived s r c off) := by
  unfold State.dmaArrived
  with_reducible apply Keeps.ite
  · with_reducible apply State.waitRecheck_keeps
    assumption
  · assumption

theorem State.ownershipWrite_keeps {q : Prop} {a0 : State} (s : State) (ag : Agent) (r : Nat) (f : Nat) (w : Nat) (v : W64) (hs : Keeps q a0 s) :
    Keeps q a0 (State.ownershipWrite s ag r f w v) := by
  unfold State.ownershipWrite
  try extract_lets +onlyGivenNames x1
  try clear_value x1
  with_reducible apply Keeps.ite
  · assumption
  · with_reducible apply Keeps.ite
    · with_reducible apply State.hostLogAdd_keeps; assumption
    · with_reducible apply Keeps.ite
      · with_reducible apply State.log_keeps; assumption
      · with_reducible apply Keeps.ite
        · with_reducible apply State.setReg_keeps; assumption
        · with_reducible apply Keeps.ite
          · with_reducible apply State.setReg_keeps; assumption
          · try extract_lets +onlyGivenNames x2
            try clear_value x2
            with_reducible apply Keeps.ite
            · with_reducible apply State.log_keeps; assumption
            · with_reducible apply State.setReg_keeps; assumption

theorem State.dropOut_keeps {q : Prop} {a0 : State} (s : State) (u1 : OutReq) (hs : Keeps q a0 s) :
    Keeps q a0 (State.dropOut s u1) := by
  unfold State.dropOut
  exact Keeps.put (by assumption) id rfl (Nat.le_refl _) fun _ => rfl

theorem State.discardOne_keeps {q : Prop} {a0 : State} (s : State) (q' : OutReq) (st : ℕ) (record : Bool) (hs : Keeps q a0 s) :
    Keeps q a0 (State.discardOne s q' st record) := by
  unfold State.discardOne
  extract_lets +onlyGivenNames x1
  have hx1 : Keeps q a0 x1 := by
    dsimp -zeta -proj only [x1]
    with_reducible apply State.dropOut_keeps
    assumption
  clear_value x1
  extract_lets +onlyGivenNames x2
  have hx2 : ∀ w0 w1, Keeps q a0 w0 → Keeps q a0 (x2 w0 w1) := by
    dsimp -zeta -proj only [x2]
    intro w3 w4 w5
    with_reducible apply Keeps.ite
    · with_reducible apply State.logLost_keeps
      assumption
    · assumption
  clear_value x2
  split
  · rename_i v6 v7 v8
    with_reducible apply Keeps.ite
    · with_reducible apply State.trapEnter_keeps
      with_reducible apply State.discardHartWrite_keeps
      assumption
    · extract_lets +onlyGivenNames x9
      have hx9 : Keeps q a0 x9 := by
        dsimp -zeta -proj only [x9]
        with_reducible apply hx2
        assumption
      clear_value x9
      with_reducible apply Keeps.ite
      · assumption
      · with_reducible apply Keeps.ite
        · with_reducible apply State.waitFor_keeps
          assumption
        · with_reducible apply State.fault_keeps
          assumption
  · rename_i v10 v11 v12
    with_reducible apply State.trapEnter_keeps
    with_reducible apply State.discardHartWrite_keeps
    assumption
  · rename_i v13 v14 v15 v16 v17 v18
    extract_lets +onlyGivenNames x19
    have hx19 : Keeps q a0 x19 := by
      dsimp -zeta -proj only [x19]
      with_reducible apply hx2
      assumption
    clear_value x19
    with_reducible apply Keeps.ite
    · with_reducible apply State.dmaDiscard_keeps
      assumption
    · exact Keeps.put (by assumption) id rfl (Nat.le_refl _) fun _ => rfl
  · rename_i v20 v21 v22 v23
    extract_lets +onlyGivenNames x24
    have hx24 : Keeps q a0 x24 := by
      dsimp -zeta -proj only [x24]
      with_reducible apply hx2
      assumption
    clear_value x24
    with_reducible apply Keeps.ite
    · with_reducible apply State.gsDiscard_keeps
      assumption
    · exact Keeps.put (by assumption) id rfl (Nat.le_refl _) fun _ => rfl
  · rename_i v25 v26 v27
    with_reducible apply hx2
    assumption
  · rename_i v28 v29 v30 v31
    with_reducible apply hx2
    assumption
  · rename_i v32 v33 v34 v35
    with_reducible apply hx2
    assumption
  · rename_i v36 v37 v38
    with_reducible apply hx2
    assumption
  · rename_i v39 v40 v41 v42 v43
    with_reducible apply State.respond_keeps
    with_reducible apply hx2
    assumption

theorem State.discardList_keeps {q : Prop} {a0 : State} (s : State) (st : ℕ) (u2 : List OutReq) (u3 : List OutReq) (hs : Keeps q a0 s) :
    Keeps q a0 (State.discardList s st u2 u3) := by
  induction u2 generalizing s st u3
  case nil =>
    unfold State.discardList
    assumption
  case cons k1 k2 ih =>
    unfold State.discardList
    with_reducible apply ih
    with_reducible apply State.discardOne_keeps
    assumption

theorem State.discardWhere_keeps {q : Prop} {a0 : State} (s : State) (st : ℕ) (p : OutReq → Bool) (hs : Keeps q a0 s) :
    Keeps q a0 (State.discardWhere s st p) := by
  unfold State.discardWhere
  with_reducible apply State.releaseOrdered_keeps
  with_reducible apply State.discardList_keeps
  assumption

theorem State.blockOut_keeps {q : Prop} {a0 : State} (s : State) (b : ℕ) (hs : Keeps q a0 s) :
    Keeps q a0 (State.blockOut s b) := by
  unfold State.blockOut
  with_reducible apply Keeps.ite
  · assumption
  · extract_lets +onlyGivenNames x1
    have hx1 : Keeps q a0 x1 := by
      dsimp -zeta -proj only [x1]
      with_reducible apply State.finishCompletions_keeps
      assumption
    clear_value x1
    with_reducible apply Keeps.ite
    · with_reducible apply State.releaseReset_keeps
      assumption
    · assumption

theorem State.blockLost_keeps {q : Prop} {a0 : State} (s : State) (b : ℕ) (hs : Keeps q a0 s) :
    Keeps q a0 (State.blockLost s b) := by
  unfold State.blockLost
  split
  · rename_i v1 v2
    with_reducible apply State.blockOut_keeps
    with_reducible apply State.resetBlock_keeps
    assumption
  · rename_i v3 v4
    with_reducible apply State.blockOut_keeps
    with_reducible apply State.resetBlock_keeps
    assumption
  · rename_i v5 v6 v7
    with_reducible apply State.blockOut_keeps
    assumption

theorem State.setHost_keeps {q : Prop} {a0 : State} (s : State) (r : Nat) (x : HostPort) (hs : Keeps q a0 s) :
    Keeps q a0 (State.setHost s r x) := by
  unfold State.setHost
  exact Keeps.put (by assumption) id rfl (Nat.le_refl _) fun _ => rfl

theorem State.updHost_keeps {q : Prop} {a0 : State} (s : State) (r : Nat) (f : HostPort → HostPort) (hs : Keeps q a0 s) :
    Keeps q a0 (State.updHost s r f) := by
  unfold State.updHost
  with_reducible apply State.setHost_keeps; assumption

theorem State.updFn_keeps {q : Prop} {a0 : State} (s : State) (r : Nat) (f : Nat) (g : HostFn → HostFn) (hs : Keeps q a0 s) :
    Keeps q a0 (State.updFn s r f g) := by
  unfold State.updFn
  with_reducible apply State.updHost_keeps; assumption

theorem State.fnLost_keeps {q : Prop} {a0 : State} (s : State) (r : ℕ) (f : ℕ) (hs : Keeps q a0 s) :
    Keeps q a0 (State.fnLost s r f) := by
  unfold State.fnLost
  extract_lets +onlyGivenNames x1
  have hx1 : Keeps q a0 x1 := by
    dsimp -zeta -proj only [x1]
    with_reducible apply State.discardWhere_keeps
    assumption
  clear_value x1
  extract_lets +onlyGivenNames x2
  have hx2 : Keeps q a0 x2 := by
    dsimp -zeta -proj only [x2]
    with_reducible apply Keeps.foldl
    · intro w3 w4 w5
      with_reducible apply State.dmaHostLost_keeps
      assumption
    · assumption
  clear_value x2
  extract_lets +onlyGivenNames x6
  have hx6 : Keeps q a0 x6 := by
    dsimp -zeta -proj only [x6]
    with_reducible apply Keeps.foldl
    · intro w7 w8 w9
      extract_lets +onlyGivenNames x10
      have hx10 : Keeps q a0 x10 := by
        dsimp -zeta -proj only [x10]
        with_reducible apply State.strumRunEnd_keeps
        assumption
      clear_value x10
      split
      · rename_i v11 v12
        with_reducible apply State.runEnd_keeps
        with_reducible apply State.updColl_keeps
        with_reducible apply State.sendNotices_keeps
        assumption
      · rename_i v13 v14
        with_reducible apply State.runEnd_keeps
        with_reducible apply State.updColl_keeps
        with_reducible apply State.sendNotices_keeps
        assumption
      · rename_i v15 v16
        with_reducible apply State.runEnd_keeps
        with_reducible apply State.updColl_keeps
        with_reducible apply State.sendNotices_keeps
        assumption
      · rename_i v17 v18 v19 v20
        assumption
    · assumption
  clear_value x6
  extract_lets +onlyGivenNames x21
  have hx21 : Keeps q a0 x21 := by
    dsimp -zeta -proj only [x21]
    with_reducible apply Keeps.foldl
    · intro w22 w23 w24
      with_reducible apply State.blockLost_keeps
      assumption
    · assumption
  clear_value x21
  extract_lets +onlyGivenNames x25
  clear_value x25
  extract_lets +onlyGivenNames x26
  clear_value x26
  extract_lets +onlyGivenNames x27
  clear_value x27
  extract_lets +onlyGivenNames x28
  have hx28 : Keeps q a0 x28 := by
    dsimp -zeta -proj only [x28]
    with_reducible apply Keeps.foldl
    · intro w29 w30 w31
      with_reducible apply State.freeWatch_keeps
      assumption
    · assumption
  clear_value x28
  extract_lets +onlyGivenNames x32
  have hx32 : Keeps q a0 x32 := by
    dsimp -zeta -proj only [x32]
    exact Keeps.put (by assumption) id rfl (Nat.le_refl _) fun _ => rfl
  clear_value x32
  with_reducible apply State.updFn_keeps
  assumption

theorem State.hostLossDone_keeps {q : Prop} {a0 : State} (s : State) (r : ℕ) (l0 : Bool) (hs : Keeps q a0 s) :
    Keeps q a0 (State.hostLossDone s r l0) := by
  unfold State.hostLossDone
  extract_lets +onlyGivenNames x1
  have hx1 : Keeps q a0 x1 := by
    dsimp -zeta -proj only [x1]
    with_reducible apply Keeps.foldl
    · intro w2 w3 w4
      with_reducible apply Keeps.foldl
      · intro w5 w6 w7
        with_reducible apply State.blockOut_keeps
        assumption
      · assumption
    · assumption
  clear_value x1
  with_reducible apply Keeps.ite
  · assumption
  · with_reducible apply Keeps.ite
    · assumption
    · extract_lets +onlyGivenNames x8
      have hx8 : Keeps q a0 x8 := by
        dsimp -zeta -proj only [x8]
        assumption
      clear_value x8
      extract_lets +onlyGivenNames x9
      clear_value x9
      extract_lets +onlyGivenNames x10
      have hx10 : Keeps q a0 x10 := by
        dsimp -zeta -proj only [x10]
        with_reducible apply State.updHost_keeps
        assumption
      clear_value x10
      extract_lets +onlyGivenNames x11
      clear_value x11
      with_reducible apply Keeps.ite
      · with_reducible apply State.signalPeg_keeps
        assumption
      · assumption

theorem State.pathsDown_keeps {q : Prop} {a0 : State} (s : State) (hs : Keeps q a0 s) :
    Keeps q a0 (State.pathsDown s) := by
  unfold State.pathsDown
  with_reducible apply State.discardWhere_keeps
  assumption

theorem State.updSub_keeps {q : Prop} {a0 : State} (s : State) (r : Nat) (k : Nat) (f : SubPort → SubPort) (hs : Keeps q a0 s) :
    Keeps q a0 (State.updSub s r k f) := by
  unfold State.updSub
  with_reducible apply State.updHost_keeps; assumption

theorem State.linkUp_keeps {q : Prop} {a0 : State} (s : State) (r : Nat) (k : Nat) (l : HostLink) (hs : Keeps q a0 s) :
    Keeps q a0 (State.linkUp s r k l) := by
  unfold State.linkUp
  with_reducible apply State.updSub_keeps; assumption

theorem State.hostLinkUp_keeps {q : Prop} {a0 : State} (s : State) (r : Nat) (l : HostLink) (hs : Keeps q a0 s) :
    Keeps q a0 (State.hostLinkUp s r l) := by
  unfold State.hostLinkUp
  with_reducible apply Keeps.ite
  · with_reducible apply State.updHost_keeps; with_reducible apply State.linkUp_keeps; assumption
  · assumption

theorem State.hostLoss_keeps {q : Prop} {a0 : State} (s : State) (r : Nat) (cause : LossCause) (each : State → Nat → State) (hs : Keeps q a0 s) (heach : ∀ w0 w1, Keeps q a0 w0 → Keeps q a0 (each w0 w1)) :
    Keeps q a0 (State.hostLoss s r cause each) := by
  unfold State.hostLoss
  try extract_lets +onlyGivenNames x1
  try clear_value x1
  with_reducible apply Keeps.ite
  · assumption
  · split
    · with_reducible apply Keeps.ite
      · apply_assumption
        · with_reducible apply State.fnLost_keeps; with_reducible apply State.hostLogAdd_keeps; assumption
      · assumption
    · with_reducible apply Keeps.ite
      · try (extract_lets +onlyGivenNames x4
             have hx4 : Keeps q a0 x4 := by
               try dsimp -zeta only [x4]
               with_reducible apply State.updHost_keeps; assumption
             clear_value x4)
        with_reducible apply Keeps.foldl
        · intro s2 x2 hs2
          try dsimp -zeta only
          apply_assumption
          · with_reducible apply State.fnLost_keeps; assumption
        · with_reducible apply State.hostLogAdd_keeps; assumption
      · assumption

theorem State.slideWrite_keeps {q : Prop} {a0 : State} (s : State) (r : Nat) (f : Nat) (v : W64) (hs : Keeps q a0 s) :
    Keeps q a0 (State.slideWrite s r f v) := by
  unfold State.slideWrite
  with_reducible apply Keeps.ite
  · assumption
  · try extract_lets +onlyGivenNames x1
    try clear_value x1
    with_reducible apply Keeps.ite
    · with_reducible apply State.hostLogAdd_keeps; assumption
    · with_reducible apply State.updFn_keeps; assumption

theorem State.memEnableClear_keeps {q : Prop} {a0 : State} (s : State) (r : Nat) (hs : Keeps q a0 s) :
    Keeps q a0 (State.memEnableClear s r) := by
  unfold State.memEnableClear
  with_reducible apply Keeps.ite
  · with_reducible apply State.updHost_keeps; with_reducible apply State.updFn_keeps; assumption
  · assumption

theorem State.memEnableSet_keeps {q : Prop} {a0 : State} (s : State) (r : Nat) (hs : Keeps q a0 s) :
    Keeps q a0 (State.memEnableSet s r) := by
  unfold State.memEnableSet
  with_reducible apply Keeps.ite
  · with_reducible apply State.updHost_keeps; with_reducible apply State.updFn_keeps; assumption
  · assumption

theorem State.aerError_keeps {q : Prop} {a0 : State} (s : State) (r : Nat) (k : Nat) (reqId : Nat) (hs : Keeps q a0 s) :
    Keeps q a0 (State.aerError s r k reqId) := by
  unfold State.aerError
  with_reducible apply Keeps.ite
  · assumption
  · with_reducible apply State.hostLogAdd_keeps; assumption

theorem State.rpEnable_keeps {q : Prop} {a0 : State} (s : State) (r : Nat) (k : Nat) (v : W64) (hs : Keeps q a0 s) :
    Keeps q a0 (State.rpEnable s r k v) := by
  unfold State.rpEnable
  with_reducible apply Keeps.ite
  · with_reducible apply State.updSub_keeps; assumption
  · assumption

theorem State.timeout_keeps {q : Prop} {a0 : State} (s : State) (tag : Nat) (posted : Bool) (hs : Keeps q a0 s) :
    Keeps q a0 (State.timeout s tag posted) := by
  unfold State.timeout
  with_reducible apply State.discardWhere_keeps; assumption

theorem State.configWrite_keeps {q : Prop} {a0 : State} (s : State) (r : Nat) (f : Nat) (bm : Option Bool) (me : Option Bool) (size : Option Nat) (hs : Keeps q a0 s) :
    Keeps q a0 (State.configWrite s r f bm me size) := by
  unfold State.configWrite
  with_reducible apply Keeps.ite
  · assumption
  · try (extract_lets +onlyGivenNames x1
         have hx1 : Keeps q a0 x1 := by
           try dsimp -zeta only [x1]
           split
           · with_reducible apply State.updFn_keeps; assumption
           · assumption
         clear_value x1)
    try (extract_lets +onlyGivenNames x2
         have hx2 : Keeps q a0 x2 := by
           try dsimp -zeta only [x2]
           split
           · with_reducible apply Keeps.ite
             · with_reducible apply State.updFn_keeps; assumption
             · assumption
           · assumption
         clear_value x2)
    split
    · with_reducible apply Keeps.ite
      · with_reducible apply Keeps.ite
        · with_reducible apply State.memEnableSet_keeps; assumption
        · with_reducible apply State.memEnableClear_keeps; assumption
      · with_reducible apply State.updFn_keeps; assumption
    · assumption

theorem State.answered_keeps {q : Prop} {a0 : State} (s : State) (q' : OutReq) (status : ℕ) (data : List Byte) (hs : Keeps q a0 s) :
    Keeps q a0 (State.answered s q' status data) := by
  unfold State.answered
  extract_lets +onlyGivenNames x1
  have hx1 : Keeps q a0 x1 := by
    dsimp -zeta -proj only [x1]
    with_reducible apply State.dropOut_keeps
    assumption
  clear_value x1
  extract_lets +onlyGivenNames x2
  have hx2 : Keeps q a0 x2 := by
    dsimp -zeta -proj only [x2]
    exact Keeps.put (by assumption) id rfl (Nat.le_refl _) fun _ => rfl
  clear_value x2
  extract_lets +onlyGivenNames x3
  have hx3 : Keeps q a0 x3 := by
    dsimp -zeta -proj only [x3]
    split
    · rename_i v4 v5 v6
      with_reducible apply Keeps.ite
      · with_reducible apply State.trapEnter_keeps
        assumption
      · with_reducible apply Keeps.ite
        · assumption
        · with_reducible apply Keeps.ite
          · with_reducible apply State.waitFor_keeps
            assumption
          · with_reducible apply Keeps.ite
            · with_reducible apply State.retireWith_keeps
              assumption
            · with_reducible apply Keeps.ite
              · with_reducible apply State.hartPoison_keeps
                assumption
              · with_reducible apply State.fault_keeps
                assumption
    · rename_i v7 v8 v9 v10 v11 v12
      with_reducible apply Keeps.ite
      · with_reducible apply State.dmaArrived_keeps
        assumption
      · with_reducible apply Keeps.ite
        · with_reducible apply Keeps.ite
          · with_reducible apply State.bump_keeps
            assumption
          · assumption
        · with_reducible apply State.dmaDiscard_keeps
          assumption
    · rename_i v13 v14 v15 v16
      with_reducible apply Keeps.ite
      · assumption
      · with_reducible apply Keeps.ite
        · assumption
        · with_reducible apply State.gsDiscard_keeps
          assumption
    · rename_i v17 v18 v19 v20 v21
      with_reducible apply State.respond_keeps
      assumption
    · rename_i v22 v23 v24
      with_reducible apply State.trapEnter_keeps
      assumption
    · rename_i v25 v26 v27 v28 v29 v30
      assumption
  clear_value x3
  with_reducible apply State.releaseOrdered_keeps
  assumption

theorem State.rootLinkDown_keeps {q : Prop} {a0 : State} (s : State) (r : ℕ) (k : ℕ) (hs : Keeps q a0 s) :
    Keeps q a0 (State.rootLinkDown s r k) := by
  unfold State.rootLinkDown
  with_reducible apply Keeps.ite
  · assumption
  · extract_lets +onlyGivenNames x1
    clear_value x1
    extract_lets +onlyGivenNames x2
    clear_value x2
    with_reducible apply State.discardWhere_keeps
    with_reducible apply State.hostLogAdd_keeps
    with_reducible apply State.updSub_keeps
    assumption

theorem State.linkRecovery_keeps {q : Prop} {a0 : State} (s : State) (r : Nat) (k : Nat) (hs : Keeps q a0 s) :
    Keeps q a0 (State.linkRecovery s r k) := by
  unfold State.linkRecovery
  with_reducible apply Keeps.ite
  · assumption
  · with_reducible apply State.updSub_keeps; assumption

theorem State.rootLinkUp_keeps {q : Prop} {a0 : State} (s : State) (r : Nat) (k : Nat) (l : HostLink) (hs : Keeps q a0 s) :
    Keeps q a0 (State.rootLinkUp s r k l) := by
  unfold State.rootLinkUp
  with_reducible apply Keeps.ite
  · assumption
  · with_reducible apply State.linkUp_keeps; assumption

theorem State.routeSwitchHere_keeps {q : Prop} {a0 : State} (s : State) (hs : Keeps q a0 s) :
    Keeps q a0 (State.routeSwitchHere s) := by
  unfold State.routeSwitchHere
  extract_lets +onlyGivenNames x1
  have hx1 : Keeps q a0 x1 := by
    dsimp -zeta -proj only [x1]
    with_reducible apply State.routeSwitchAll_keeps
    assumption
  clear_value x1
  with_reducible apply Keeps.ite
  · with_reducible apply State.pathsDown_keeps
    assumption
  · assumption

theorem State.updKiln_keeps {q : Prop} {a0 : State} (s : State) (f : Kiln → Kiln) (hs : Keeps q a0 s) (hf : ∀ x, x.seq ≤ (f x).seq) :
    Keeps q a0 (s.updKiln f) := by
  unfold State.updKiln
  with_reducible apply Keeps.put
  · exact hs
  · exact id
  · rfl
  · exact hf _
  · exact fun _ => rfl

theorem State.setTag_keeps {q : Prop} {a0 : State} (s : State) (t : Nat) (x : MeterTag) (hs : Keeps q a0 s) :
    Keeps q a0 (State.setTag s t x) := by
  unfold State.setTag
  with_reducible apply State.updKiln_keeps
  on_goal 2 => first | (intro _; exact Nat.le_refl _) | (intro x; dsimp only; repeat' first | exact Nat.le_refl _ | exact Nat.le_succ _ | split)
  · assumption

theorem State.buildRecord_keeps {q : Prop} {a0 : State} (s : State) (type : Nat) (flags : Nat) (owner : Nat) (tag : Nat) (body : List (Nat × Nat × Nat)) (hs : Keeps q a0 s) :
    Keeps q a0 (State.buildRecord s type flags owner tag body) := by
  unfold State.buildRecord
  try extract_lets +onlyGivenNames x1
  try clear_value x1
  try extract_lets +onlyGivenNames x2
  try clear_value x2
  try extract_lets +onlyGivenNames x3
  try clear_value x3
  with_reducible apply State.updKiln_keeps
  on_goal 2 => first | (intro _; exact Nat.le_refl _) | (intro x; dsimp only; repeat' first | exact Nat.le_refl _ | exact Nat.le_succ _ | split)
  · assumption

theorem State.buildCone_keeps {q : Prop} {a0 : State} (s : State) (t : Nat) (x : MeterTag) (hs : Keeps q a0 s) :
    Keeps q a0 (State.buildCone s t x) := by
  unfold State.buildCone
  try extract_lets +onlyGivenNames x1
  try clear_value x1
  try extract_lets +onlyGivenNames x2
  try clear_value x2
  with_reducible apply State.setTag_keeps; with_reducible apply State.buildRecord_keeps; assumption

theorem State.buildCones_keeps {q : Prop} {a0 : State} (s : State) (ended : Nat) (hs : Keeps q a0 s) :
    Keeps q a0 (State.buildCones s ended) := by
  unfold State.buildCones
  try extract_lets +onlyGivenNames x1
  try clear_value x1
  try (extract_lets +onlyGivenNames x2
       have hx2 : Keeps q a0 x2 := by
         try dsimp -zeta only [x2]
         with_reducible apply Keeps.foldl
         · intro s2 x2 hs2
           try dsimp -zeta only
           split
           · with_reducible apply State.buildCone_keeps; assumption
           · assumption
         · assumption
       clear_value x2)
  with_reducible apply State.updKiln_keeps
  on_goal 2 => first | (intro _; exact Nat.le_refl _) | (intro x; dsimp only; repeat' first | exact Nat.le_refl _ | exact Nat.le_succ _ | split)
  · assumption

theorem State.tagStatusSet_keeps {q : Prop} {a0 : State} (s : State) (r : Nat) (st : Nat) (hs : Keeps q a0 s) :
    Keeps q a0 (State.tagStatusSet s r st) := by
  unfold State.tagStatusSet
  with_reducible apply State.setReg_keeps; assumption

theorem State.closeTag_keeps {q : Prop} {a0 : State} (s : State) (t : Nat) (reason : Nat) (hs : Keeps q a0 s) :
    Keeps q a0 (State.closeTag s t reason) := by
  unfold State.closeTag
  split
  · with_reducible apply Keeps.ite
    · assumption
    · with_reducible apply State.updKiln_keeps
      on_goal 2 => first | (intro _; exact Nat.le_refl _) | (intro x; dsimp only; repeat' first | exact Nat.le_refl _ | exact Nat.le_succ _ | split)
      · with_reducible apply State.setTag_keeps; assumption
  · assumption

theorem State.tagClose_keeps {q : Prop} {a0 : State} (s : State) (r : Nat) (hs : Keeps q a0 s) :
    Keeps q a0 (State.tagClose s r) := by
  unfold State.tagClose
  try extract_lets +onlyGivenNames x1
  try clear_value x1
  split
  · with_reducible apply Keeps.ite
    · with_reducible apply State.tagStatusSet_keeps; assumption
    · with_reducible apply State.closeTag_keeps; with_reducible apply State.tagStatusSet_keeps; assumption
  · with_reducible apply State.tagStatusSet_keeps; assumption

theorem State.kilnRefuse_keeps {q : Prop} {a0 : State} (s : State) (ag : Agent) (g : Reg) (st : Nat) (hs : Keeps q a0 s) :
    Keeps q a0 (State.kilnRefuse s ag g st) := by
  unfold State.kilnRefuse
  with_reducible apply State.log_keeps; assumption

theorem State.exportOne_keeps {q : Prop} {a0 : State} (s : State) (hs : Keeps q a0 s) :
    ∀ t, (State.exportOne s) = some t → Keeps q a0 t := by
  unfold State.exportOne
  extract_lets +onlyGivenNames x1
  clear_value x1
  extract_lets +onlyGivenNames x2
  clear_value x2
  split
  · rename_i v3 v4 v5 v6
    split
    · rename_i v7
      intro t e
      cases e
    · rename_i v8
      extract_lets +onlyGivenNames x9
      clear_value x9
      extract_lets +onlyGivenNames x10
      clear_value x10
      split
      · rename_i v11
        intro t e
        cases e
      · rename_i v12
        extract_lets +onlyGivenNames x13
        have hx13 : Keeps q a0 x13 := by
          dsimp -zeta -proj only [x13]
          with_reducible apply Keeps.ite
          · with_reducible apply State.writeBytes_keeps
            assumption
          · assumption
        clear_value x13
        extract_lets +onlyGivenNames x14
        have hx14 : Keeps q a0 x14 := by
          dsimp -zeta -proj only [x14]
          with_reducible apply State.updKiln_keeps
          · with_reducible apply State.setAll_keeps
            assumption
          · exact fun _ => Nat.le_refl _
        clear_value x14
        extract_lets +onlyGivenNames x15
        clear_value x15
        intro t e
        cases e
        with_reducible apply Keeps.ite
        · with_reducible apply State.signalPeg_keeps
          assumption
        · assumption
  · rename_i v16 v17
    intro t e
    cases e

theorem State.tagsLost_keeps {q : Prop} {a0 : State} (s : State) (r : Nat) (hs : Keeps q a0 s) :
    Keeps q a0 (State.tagsLost s r) := by
  unfold State.tagsLost
  repeat' first
    | with_reducible assumption
    | with_reducible apply Keeps.ite
    | with_reducible apply Keeps.iteP
    | with_reducible apply Keeps.foldl
    | (extract_lets +onlyGivenNames x
       first
         | (refine (fun (hx : Keeps _ _ x) => ?_) ?_
            on_goal 2 => dsimp -zeta only [x]
            on_goal 1 => try clear_value x)
         | (refine (fun (hx : Keeps _ _ x.1) => ?_) ?_
            on_goal 2 => dsimp -zeta only [x]
            on_goal 1 => try clear_value x)
         | clear_value x)
    | with_reducible apply State.setTag_keeps
    | with_reducible apply State.updKiln_keeps
    | (with_reducible refine Keeps.of_pair (by with_reducible assumption) ?_)
    | dsimp -zeta only
    | split
    | (intro _; try dsimp -zeta only)
    | (with_reducible refine Keeps.put (by with_reducible assumption) ?_ ?_ ?_ ?_)
    | exact id
    | rfl
    | exact Nat.le_refl _

theorem State.exportAll_keeps {q : Prop} {a0 : State} (a : Nat) (s : State) (hs : Keeps q a0 s) :
    Keeps q a0 (State.exportAll a s) := by
  induction a generalizing s with
  | zero => exact hs
  | succ n ih =>
    unfold State.exportAll
    split
    · rename_i e
      exact ih _ (State.exportOne_keeps s hs _ e)
    · exact hs

theorem State.exportRing_keeps {q : Prop} {a0 : State} (s : State) (hs : Keeps q a0 s) :
    Keeps q a0 (State.exportRing s) := by
  unfold State.exportRing
  with_reducible apply State.exportAll_keeps; assumption

theorem State.tagBackup_keeps {q : Prop} {a0 : State} (s : State) (hs : Keeps q a0 s) :
    Keeps q a0 (State.tagBackup s) := by
  unfold State.tagBackup
  with_reducible apply Keeps.ite
  · assumption
  · with_reducible apply Keeps.foldl
    · intro s2 x2 hs2
      try dsimp -zeta only
      split
      · with_reducible apply State.updKiln_keeps
        on_goal 2 => first | (intro _; exact Nat.le_refl _) | (intro x; dsimp only; repeat' first | exact Nat.le_refl _ | exact Nat.le_succ _ | split)
        · assumption
      · assumption
    · assumption

theorem State.closeWhere_keeps {q : Prop} {a0 : State} (s : State) (p : MeterTag → Bool) (reason : Nat) (hs : Keeps q a0 s) :
    Keeps q a0 (State.closeWhere s p reason) := by
  unfold State.closeWhere
  with_reducible apply Keeps.foldl
  · intro s2 x2 hs2
    try dsimp -zeta only
    with_reducible apply State.closeTag_keeps; assumption
  · assumption

theorem State.closeOwner_keeps {q : Prop} {a0 : State} (s : State) (f : Nat) (hs : Keeps q a0 s) :
    Keeps q a0 (State.closeOwner s f) := by
  unfold State.closeOwner
  with_reducible apply State.closeWhere_keeps; assumption

theorem State.pageProgram_keeps {q : Prop} {a0 : State} (s : State) (hs : Keeps q a0 s) :
    Keeps q a0 (State.pageProgram s) := by
  unfold State.pageProgram
  with_reducible apply State.updKiln_keeps
  on_goal 2 => first | (intro _; exact Nat.le_refl _) | (intro x; dsimp only; repeat' first | exact Nat.le_refl _ | exact Nat.le_succ _ | split)
  · assumption

theorem State.signOne_keeps {q : Prop} {a0 : State} (s : State) (u1 : Nat) (rec : List Byte) (hs : Keeps q a0 s) :
    Keeps q a0 (State.signOne s u1 rec) := by
  unfold State.signOne
  split
  · with_reducible apply State.nextFree_keeps
    · with_reducible apply State.updKiln_keeps
      on_goal 2 => first | (intro _; exact Nat.le_refl _) | (intro x; dsimp only; repeat' first | exact Nat.le_refl _ | exact Nat.le_succ _ | split)
      · assumption

theorem State.signBatch_keeps {q : Prop} {a0 : State} (s : State) (hs : Keeps q a0 s) :
    Keeps q a0 (State.signBatch s) := by
  unfold State.signBatch
  try extract_lets +onlyGivenNames x1
  try clear_value x1
  try extract_lets +onlyGivenNames x2
  try clear_value x2
  try extract_lets +onlyGivenNames x3
  try clear_value x3
  try extract_lets +onlyGivenNames x4
  try clear_value x4
  try (extract_lets +onlyGivenNames x5
       have hx5 : Keeps q a0 x5 := by
         try dsimp -zeta only [x5]
         with_reducible apply State.buildRecord_keeps; assumption
       clear_value x5)
  try (extract_lets +onlyGivenNames x6
       have hx6 : Keeps q a0 x6 := by
         try dsimp -zeta only [x6]
         with_reducible apply State.updKiln_keeps
         on_goal 2 => first | (intro _; exact Nat.le_refl _) | (intro x; dsimp only; repeat' first | exact Nat.le_refl _ | exact Nat.le_succ _ | split)
         · assumption
       clear_value x6)
  split
  · with_reducible apply State.signOne_keeps; assumption
  · assumption

theorem State.signDone_keeps {q : Prop} {a0 : State} (s : State) (hs : Keeps q a0 s) :
    Keeps q a0 (State.signDone s) := by
  unfold State.signDone
  split
  · assumption
  · with_reducible apply Keeps.ite
    · with_reducible apply State.signOne_keeps
      · with_reducible apply State.updKiln_keeps
        on_goal 2 => first | (intro _; exact Nat.le_refl _) | (intro x; dsimp only; repeat' first | exact Nat.le_refl _ | exact Nat.le_succ _ | split)
        · assumption
    · with_reducible apply State.signBatch_keeps; assumption
  · with_reducible apply State.signBatch_keeps; assumption

theorem State.ackSeqWrite_keeps {q : Prop} {a0 : State} (s : State) (ag : Agent) (r : Nat) (v : W64) (hs : Keeps q a0 s) :
    Keeps q a0 (State.ackSeqWrite s ag r v) := by
  unfold State.ackSeqWrite
  with_reducible apply Keeps.ite
  · with_reducible apply State.kilnRefuse_keeps; assumption
  · with_reducible apply State.setAll_keeps; assumption

theorem State.kilnBoot_keeps {q : Prop} {a0 : State} (s : State) (hs : Keeps q a0 s) :
    Keeps q a0 (State.kilnBoot s) := by
  unfold State.kilnBoot
  try extract_lets +onlyGivenNames x1
  try clear_value x1
  with_reducible apply State.updKiln_keeps
  on_goal 2 => first | (intro _; exact Nat.le_refl _) | (intro x; dsimp only; repeat' first | exact Nat.le_refl _ | exact Nat.le_succ _ | split)
  · assumption

theorem State.tagOpen_keeps {q : Prop} {a0 : State} (s : State) (r : Nat) (hs : Keeps q a0 s) :
    Keeps q a0 (State.tagOpen s r) := by
  unfold State.tagOpen
  try extract_lets +onlyGivenNames x1
  try clear_value x1
  try extract_lets +onlyGivenNames x2
  try clear_value x2
  try (extract_lets +onlyGivenNames x3
       have hx3 : Keeps q a0 x3 := by
         try dsimp -zeta only [x3]
         with_reducible apply State.tagStatusSet_keeps; assumption
       clear_value x3)
  with_reducible apply Keeps.ite
  · assumption
  · with_reducible apply State.setTag_keeps; assumption

theorem State.tagQuery_keeps {q : Prop} {a0 : State} (s : State) (r : Nat) (hs : Keeps q a0 s) :
    Keeps q a0 (State.tagQuery s r) := by
  unfold State.tagQuery
  try extract_lets +onlyGivenNames x1
  try clear_value x1
  with_reducible apply State.setReg_keeps; assumption

theorem State.tagCmdWrite_keeps {q : Prop} {a0 : State} (s : State) (ag : Agent) (r : Nat) (v : W64) (hs : Keeps q a0 s) :
    Keeps q a0 (State.tagCmdWrite s ag r v) := by
  unfold State.tagCmdWrite
  split
  · with_reducible apply State.tagOpen_keeps; assumption
  · with_reducible apply State.tagClose_keeps; assumption
  · with_reducible apply State.tagQuery_keeps; assumption
  · with_reducible apply State.log_keeps; assumption

theorem State.freeTag_keeps {q : Prop} {a0 : State} (s : State) (bytes : List Byte) (hs : Keeps q a0 s) :
    Keeps q a0 (State.freeTag s bytes) := by
  unfold State.freeTag
  with_reducible apply Keeps.ite
  · try extract_lets +onlyGivenNames x1
    try clear_value x1
    split
    · with_reducible apply Keeps.ite
      · with_reducible apply State.updKiln_keeps
        on_goal 2 => first | (intro _; exact Nat.le_refl _) | (intro x; dsimp only; repeat' first | exact Nat.le_refl _ | exact Nat.le_succ _ | split)
        · assumption
      · assumption
    · assumption
  · assumption

theorem State.ledgerAppend_keeps {q : Prop} {a0 : State} (s : State) (hs : Keeps q a0 s) :
    Keeps q a0 (State.ledgerAppend s) := by
  unfold State.ledgerAppend
  split
  · try extract_lets +onlyGivenNames x2
    try clear_value x2
    with_reducible apply Keeps.ite
    · assumption
    · try (extract_lets +onlyGivenNames x3
           have hx3 : Keeps q a0 x3 := by
             try dsimp -zeta only [x3]
             with_reducible apply State.updKiln_keeps
             on_goal 2 => first | (intro _; exact Nat.le_refl _) | (intro x; dsimp only; repeat' first | exact Nat.le_refl _ | exact Nat.le_succ _ | split)
             · assumption
           clear_value x3)
      with_reducible apply State.exportRing_keeps; with_reducible apply State.freeTag_keeps; assumption
  · assumption

theorem State.appendAll_keeps {q : Prop} {a0 : State} (s : State) (hs : Keeps q a0 s) :
    Keeps q a0 (State.appendAll s) := by
  unfold State.appendAll
  with_reducible apply Keeps.foldl
  · intro s2 x2 hs2
    try dsimp -zeta only
    with_reducible apply State.ledgerAppend_keeps; with_reducible apply State.pageProgram_keeps; assumption
  · assumption

theorem State.intervalClose_keeps {q : Prop} {a0 : State} (s : State) (hs : Keeps q a0 s) :
    Keeps q a0 (State.intervalClose s) := by
  unfold State.intervalClose
  try extract_lets +onlyGivenNames x1
  try clear_value x1
  with_reducible apply Keeps.ite
  · assumption
  · try (extract_lets +onlyGivenNames x2
         have hx2 : Keeps q a0 x2 := by
           try dsimp -zeta only [x2]
           with_reducible apply State.buildRecord_keeps; assumption
         clear_value x2)
    with_reducible apply State.updKiln_keeps
    on_goal 2 => first | (intro _; exact Nat.le_refl _) | (intro x; dsimp only; repeat' first | exact Nat.le_refl _ | exact Nat.le_succ _ | split)
    · assumption

theorem State.drainLedger_keeps {q : Prop} {a0 : State} (u0 : ℕ) (u1 : State) (hu1 : Keeps q a0 u1) :
    Keeps q a0 (State.drainLedger u0 u1) := by
  induction u0 generalizing u1
  case zero =>
    unfold State.drainLedger
    assumption
  case succ k1 ih =>
    unfold State.drainLedger
    with_reducible apply Keeps.ite
    · with_reducible apply State.pageProgram_keeps
      assumption
    · with_reducible apply ih
      with_reducible apply State.signDone_keeps
      assumption

theorem State.powerLossRecord_keeps {q : Prop} {a0 : State} (s : State) (hs : Keeps q a0 s) :
    Keeps q a0 (State.powerLossRecord s) := by
  unfold State.powerLossRecord
  try (extract_lets +onlyGivenNames x1
       have hx1 : Keeps q a0 x1 := by
         try dsimp -zeta only [x1]
         with_reducible apply State.appendAll_keeps; with_reducible apply State.drainLedger_keeps; assumption
       clear_value x1)
  try extract_lets +onlyGivenNames x2
  try clear_value x2
  try extract_lets +onlyGivenNames x3
  try clear_value x3
  try extract_lets +onlyGivenNames x4
  try clear_value x4
  try (extract_lets +onlyGivenNames x5
       have hx5 : Keeps q a0 x5 := by
         try dsimp -zeta only [x5]
         with_reducible apply State.buildRecord_keeps; assumption
       clear_value x5)
  try (extract_lets +onlyGivenNames x6
       have hx6 : Keeps q a0 x6 := by
         try dsimp -zeta only [x6]
         split
         · with_reducible apply State.signOne_keeps; assumption
         · assumption
       clear_value x6)
  try (extract_lets +onlyGivenNames x7
       have hx7 : Keeps q a0 x7 := by
         try dsimp -zeta only [x7]
         with_reducible apply State.pageProgram_keeps; with_reducible apply State.appendAll_keeps; assumption
       clear_value x7)
  with_reducible apply State.updKiln_keeps
  on_goal 2 => first | (intro _; exact Nat.le_refl _) | (intro x; dsimp only; repeat' first | exact Nat.le_refl _ | exact Nat.le_succ _ | split)
  · assumption

theorem State.kilnMark_keeps {q : Prop} {a0 : State} (s : State) (m : MarkInput) (f : Nat) (hs : Keeps q a0 s) :
    Keeps q a0 (State.kilnMark s m f) := by
  unfold State.kilnMark
  try extract_lets +onlyGivenNames x1
  try clear_value x1
  try extract_lets +onlyGivenNames x2
  try clear_value x2
  try extract_lets +onlyGivenNames x3
  try clear_value x3
  try extract_lets +onlyGivenNames x4
  try clear_value x4
  try extract_lets +onlyGivenNames x5
  try clear_value x5
  try extract_lets +onlyGivenNames x6
  try clear_value x6
  try extract_lets +onlyGivenNames x7
  try clear_value x7
  try extract_lets +onlyGivenNames x8
  try clear_value x8
  try (extract_lets +onlyGivenNames x9
       have hx9 : Keeps q a0 x9 := by
         try dsimp -zeta only [x9]
         with_reducible apply Keeps.foldl
         · intro s2 x2 hs2
           try dsimp -zeta only
           try (extract_lets +onlyGivenNames x16
                have hx16 : Keeps q a0 x16 := by
                  try dsimp -zeta only [x16]
                  with_reducible apply Keeps.ite
                  · with_reducible apply State.bump_keeps; assumption
                  · assumption
                clear_value x16)
           with_reducible apply Keeps.ite
           · with_reducible apply State.bump_keeps; assumption
           · assumption
         · assumption
       clear_value x9)
  try (extract_lets +onlyGivenNames x10
       have hx10 : Keeps q a0 x10 := by
         try dsimp -zeta only [x10]
         with_reducible apply Keeps.foldl
         · intro s2 x2 hs2
           try dsimp -zeta only
           split
           · try (extract_lets +onlyGivenNames x14
                  have hx14 : Keeps q a0 x14 := by
                    try dsimp -zeta only [x14]
                    with_reducible apply Keeps.ite
                    · with_reducible apply State.bump_keeps; assumption
                    · assumption
                  clear_value x14)
             with_reducible apply State.setTag_keeps; assumption
           · assumption
         · assumption
       clear_value x10)
  try (extract_lets +onlyGivenNames x11
       have hx11 : Keeps q a0 x11 := by
         try dsimp -zeta only [x11]
         with_reducible apply State.updKiln_keeps
         on_goal 2 => first | (intro _; exact Nat.le_refl _) | (intro x; dsimp only; repeat' first | exact Nat.le_refl _ | exact Nat.le_succ _ | split)
         · assumption
       clear_value x11)
  try (extract_lets +onlyGivenNames x12
       have hx12 : Keeps q a0 x12 := by
         try dsimp -zeta only [x12]
         with_reducible apply State.setAll_keeps
         · with_reducible apply State.setAll_keeps; with_reducible apply State.setAll_keeps; with_reducible apply State.setAll_keeps; assumption
       clear_value x12)
  with_reducible apply State.buildCones_keeps; assumption

theorem State.ledgerCompact_keeps {q : Prop} {a0 : State} (s : State) (upTo : Nat) (hs : Keeps q a0 s) :
    Keeps q a0 (State.ledgerCompact s upTo) := by
  unfold State.ledgerCompact
  split
  · split
    · with_reducible apply Keeps.ite
      · assumption
      · try extract_lets +onlyGivenNames x6
        try clear_value x6
        try extract_lets +onlyGivenNames x7
        try clear_value x7
        try (extract_lets +onlyGivenNames x8
             have hx8 : Keeps q a0 x8 := by
               try dsimp -zeta only [x8]
               with_reducible apply State.updKiln_keeps
               on_goal 2 => first | (intro _; exact Nat.le_refl _) | (intro x; dsimp only; repeat' first | exact Nat.le_refl _ | exact Nat.le_succ _ | split)
               · assumption
             clear_value x8)
        with_reducible apply State.buildRecord_keeps; assumption
  · assumption

theorem State.ringHeadWrite_keeps {q : Prop} {a0 : State} (s : State) (ag : Agent) (r : Nat) (v : W64) (hs : Keeps q a0 s) :
    Keeps q a0 (State.ringHeadWrite s ag r v) := by
  unfold State.ringHeadWrite
  with_reducible apply Keeps.ite
  · with_reducible apply State.kilnRefuse_keeps; assumption
  · with_reducible apply State.exportRing_keeps; with_reducible apply State.setAll_keeps; assumption

theorem State.signToken_keeps {q : Prop} {a0 : State} (s : State) (hs : Keeps q a0 s) :
    Keeps q a0 (State.signToken s) := by
  unfold State.signToken
  with_reducible apply State.updKiln_keeps
  on_goal 2 => first | (intro _; exact Nat.le_refl _) | (intro x; dsimp only; repeat' first | exact Nat.le_refl _ | exact Nat.le_succ _ | split)
  · assumption

theorem State.updPower_keeps {q : Prop} {a0 : State} (s : State) (f : Power → Power) (hs : Keeps q a0 s) :
    Keeps q a0 (State.updPower s f) := by
  unfold State.updPower
  exact Keeps.put (by assumption) id rfl (Nat.le_refl _) fun _ => rfl

theorem State.updMgmt_keeps {q : Prop} {a0 : State} (s : State) (f : Mgmt → Mgmt) (hs : Keeps q a0 s) :
    Keeps q a0 (State.updMgmt s f) := by
  unfold State.updMgmt
  exact Keeps.put (by assumption) id rfl (Nat.le_refl _) fun _ => rfl

theorem State.setMailbox_keeps {q : Prop} {a0 : State} (s : State) (sl : Slot) (x : Mailbox) (hs : Keeps q a0 s) :
    Keeps q a0 (State.setMailbox s sl x) := by
  unfold State.setMailbox
  with_reducible apply State.updMgmt_keeps; assumption

theorem State.signalSlot_keeps {q : Prop} {a0 : State} (s : State) (sl : Slot) (mdb : Nat) (hs : Keeps q a0 s) :
    Keeps q a0 (State.signalSlot s sl mdb) := by
  unfold State.signalSlot
  split
  · with_reducible apply Keeps.ite
    · with_reducible apply State.emit_keeps; assumption
    · assumption
  · try extract_lets +onlyGivenNames x3
    try clear_value x3
    with_reducible apply Keeps.ite
    · with_reducible apply State.signalPeg_keeps; assumption
    · assumption
  · try extract_lets +onlyGivenNames x5
    try clear_value x5
    try extract_lets +onlyGivenNames x6
    try clear_value x6
    try extract_lets +onlyGivenNames x7
    try clear_value x7
    with_reducible apply Keeps.ite
    · with_reducible apply State.signalPeg_keeps; assumption
    · assumption

theorem State.slotEvent_keeps {q : Prop} {a0 : State} (s : State) (sl : Slot) (e : Event) (hs : Keeps q a0 s) :
    Keeps q a0 (State.slotEvent s sl e) := by
  unfold State.slotEvent
  with_reducible apply Keeps.ite
  · assumption
  · try extract_lets +onlyGivenNames x1
    try clear_value x1
    try extract_lets +onlyGivenNames x2
    try clear_value x2
    with_reducible apply State.signalSlot_keeps; with_reducible apply State.setMailbox_keeps; assumption

theorem State.event_keeps {q : Prop} {a0 : State} (s : State) (code : Nat) (data : W64) (hs : Keeps q a0 s) :
    Keeps q a0 (State.event s code data) := by
  unfold State.event
  with_reducible apply Keeps.ite
  · assumption
  · try extract_lets +onlyGivenNames x1
    try clear_value x1
    with_reducible apply State.slotEvent_keeps; with_reducible apply State.slotEvent_keeps; with_reducible apply State.slotEvent_keeps; assumption

theorem State.reportAfter_keeps {q : Prop} {a0 : State} (old : State) (s : State) (hold : Keeps q a0 old) (hs : Keeps q a0 s) :
    Keeps q a0 (State.reportAfter old s) := by
  unfold State.reportAfter
  try (extract_lets +onlyGivenNames x1
       have hx1 : Keeps q a0 x1 := by
         try dsimp -zeta only [x1]
         with_reducible apply Keeps.foldl
         · intro s2 x2 hs2
           try dsimp -zeta only
           with_reducible apply State.event_keeps; assumption
         · assumption
       clear_value x1)
  with_reducible apply Keeps.foldl
  · intro s2 x2 hs2
    try dsimp -zeta only
    with_reducible apply State.event_keeps; assumption
  · assumption

theorem State.notifyRegions_keeps {q : Prop} {a0 : State} (s : State) (hs : Keeps q a0 s) :
    Keeps q a0 (State.notifyRegions s) := by
  unfold State.notifyRegions
  with_reducible apply Keeps.foldl
  · intro s2 x2 hs2
    try dsimp -zeta only
    try extract_lets +onlyGivenNames x1
    try clear_value x1
    with_reducible apply Keeps.ite
    · with_reducible apply State.signalPeg_keeps; assumption
    · assumption
  · assumption

theorem State.enterState_keeps {q : Prop} {a0 : State} (s : State) (st : ModState) (hs : Keeps q a0 s) :
    Keeps q a0 (State.enterState s st) := by
  unfold State.enterState
  with_reducible apply Keeps.ite
  · assumption
  · with_reducible apply State.event_keeps; with_reducible apply State.updMgmt_keeps; assumption

theorem State.setGroup_keeps {q : Prop} {a0 : State} (s : State) (r : Nat) (g : Nat) (x : ChGroup) (hs : Keeps q a0 s) :
    Keeps q a0 (State.setGroup s r g x) := by
  unfold State.setGroup
  exact Keeps.put (by assumption) id rfl (Nat.le_refl _) fun _ => rfl

theorem State.rebuildDone_keeps {q : Prop} {a0 : State} (s : State) (r g : Nat) (hs : Keeps q a0 s) :
    Keeps q a0 (State.rebuildDone s r g) := by
  unfold State.rebuildDone
  extract_lets x
  apply Keeps.ite hs
  split
  refine Keeps.foldl (fun _ _ h => State.addPoison_keeps _ _ h) ?_
  refine Keeps.put (State.setGroup_keeps _ _ _ _ hs) (Memory.filter_wf _ _) rfl (Nat.le_refl _) fun _ => rfl

theorem State.eccCache_keeps {q : Prop} {a0 : State} (s : State) (k : ℕ) (a : ℕ) (hs : Keeps q a0 s) :
    Keeps q a0 (State.eccCache s k a) := by
  unfold State.eccCache
  split
  · rename_i v1 v2 v3
    with_reducible apply State.log_keeps
    with_reducible apply State.setCache_keeps
    assumption
  · rename_i v4 v5
    assumption

theorem State.tgEnd_keeps {q : Prop} {a0 : State} (s : State) (ch : Nat) (errs : List Nat) (hs : Keeps q a0 s) :
    Keeps q a0 (State.tgEnd s ch errs) := by
  unfold State.tgEnd
  with_reducible apply Keeps.ite
  · assumption
  · with_reducible apply State.setReg_keeps; with_reducible apply State.setReg_keeps; assumption

theorem State.devRefuse_keeps {q : Prop} {a0 : State} (s : State) (ag : Agent) (d : Nat) (st : Nat) (hs : Keeps q a0 s) :
    Keeps q a0 (State.devRefuse s ag d st) := by
  unfold State.devRefuse
  with_reducible apply State.log_keeps; assumption

theorem State.setDev_keeps {q : Prop} {a0 : State} (s : State) (d : Nat) (x : Channel) (hs : Keeps q a0 s) :
    Keeps q a0 (State.setDev s d x) := by
  unfold State.setDev
  with_reducible apply Keeps.ite
  · exact Keeps.put (by assumption) id rfl (Nat.le_refl _) fun _ => rfl
  · exact Keeps.put (by assumption) id rfl (Nat.le_refl _) fun _ => rfl

end Sys2Proof.Machine
end

