-- ==== Sys2Proof/Laws/KeepsOps5.lean ====
section
/-!
SUPPORT. Operations of the module, part 5 of 7: each leaves `Keeps` true.
-/
namespace Sys2Proof.Machine

theorem State.mapOutDev_keeps {q : Prop} {a0 : State} (s : State) (d : Nat) (cause : Nat) (hs : Keeps q a0 s) :
    Keeps q a0 (State.mapOutDev s d cause) := by
  unfold State.mapOutDev
  repeat' first
    | with_reducible assumption
    | with_reducible apply Keeps.ite
    | with_reducible apply Keeps.iteP
    | with_reducible apply Keeps.foldl
    | (extract_lets +onlyGivenNames x
       first
         | (refine (fun (hx : Keeps _ _ x) => ?_) ?_
            on_goal 2 => dsimp -zeta only [x]
            on_goal 1 => try clear_value x)
         | (refine (fun (hx : Keeps _ _ x.1) => ?_) ?_
            on_goal 2 => dsimp -zeta only [x]
            on_goal 1 => try clear_value x)
         | clear_value x)
    | with_reducible apply State.setDev_keeps
    | with_reducible apply State.setGroup_keeps
    | (with_reducible refine Keeps.of_pair (by with_reducible assumption) ?_)
    | dsimp -zeta only
    | split
    | (intro _; try dsimp -zeta only)
    | (with_reducible refine Keeps.put (by with_reducible assumption) ?_ ?_ ?_ ?_)
    | exact id
    | rfl
    | exact Nat.le_refl _

theorem State.chCtrlWrite_keeps {q : Prop} {a0 : State} (s : State) (ag : Agent) (d : Nat) (v : W64) (hs : Keeps q a0 s) :
    Keeps q a0 (State.chCtrlWrite s ag d v) := by
  unfold State.chCtrlWrite
  try extract_lets +onlyGivenNames x1
  try clear_value x1
  try extract_lets +onlyGivenNames x2
  try clear_value x2
  with_reducible apply Keeps.ite
  · with_reducible apply State.devRefuse_keeps; assumption
  · with_reducible apply Keeps.ite
    · with_reducible apply Keeps.ite
      · with_reducible apply State.mapOutDev_keeps; assumption
      · with_reducible apply State.devRefuse_keeps; assumption
    · with_reducible apply Keeps.ite
      · with_reducible apply Keeps.ite
        · with_reducible apply State.setDev_keeps; assumption
        · with_reducible apply State.devRefuse_keeps; assumption
      · with_reducible apply Keeps.ite
        · with_reducible apply Keeps.ite
          · with_reducible apply State.setReg_keeps; with_reducible apply State.setDev_keeps; assumption
          · with_reducible apply State.devRefuse_keeps; assumption
        · assumption

theorem State.tgWrite_keeps {q : Prop} {a0 : State} (s : State) (ag : Agent) (ch : Nat) (v : W64) (hs : Keeps q a0 s) :
    Keeps q a0 (State.tgWrite s ag ch v) := by
  unfold State.tgWrite
  try (extract_lets +onlyGivenNames x1
       have hx1 : Keeps q a0 x1 := by
         try dsimp -zeta only [x1]
         with_reducible apply State.setReg_keeps; assumption
       clear_value x1)
  try (extract_lets +onlyGivenNames x2
       have hx2 : ∀ (y7 : Nat), Keeps q a0 (x2 y7) := by
         intro y7
         try dsimp -zeta only [x2]
         with_reducible apply State.log_keeps; assumption
       clear_value x2)
  with_reducible apply Keeps.ite
  · assumption
  · try extract_lets +onlyGivenNames x3
    try clear_value x3
    try extract_lets +onlyGivenNames x4
    try clear_value x4
    try extract_lets +onlyGivenNames x5
    try clear_value x5
    try extract_lets +onlyGivenNames x6
    try clear_value x6
    with_reducible apply Keeps.ite
    · apply_assumption
    · with_reducible apply Keeps.ite
      · apply_assumption
      · with_reducible apply State.setReg_keeps; assumption

theorem State.groupCtrlWrite_keeps {q : Prop} {a0 : State} (s : State) (ag : Agent) (r : Nat) (v : W64) (hs : Keeps q a0 s) :
    Keeps q a0 (State.groupCtrlWrite s ag r v) := by
  unfold State.groupCtrlWrite
  try extract_lets +onlyGivenNames x1
  try clear_value x1
  try (extract_lets +onlyGivenNames x2
       have hx2 : ∀ (y5 : Nat), Keeps q a0 (x2 y5) := by
         intro y5
         try dsimp -zeta only [x2]
         with_reducible apply State.log_keeps; assumption
       clear_value x2)
  with_reducible apply Keeps.ite
  · apply_assumption
  · with_reducible apply Keeps.ite
    · assumption
    · try extract_lets +onlyGivenNames x3
      try clear_value x3
      with_reducible apply Keeps.ite
      · apply_assumption
      · try extract_lets +onlyGivenNames x4
        try clear_value x4
        with_reducible apply State.setGroup_keeps; assumption

theorem State.retrainEnd_keeps {q : Prop} {a0 : State} (s : State) (r : ℕ) (m : Margins) (hs : Keeps q a0 s) :
    Keeps q a0 (State.retrainEnd s r m) := by
  unfold State.retrainEnd
  split
  · rename_i v1 v2 v3
    extract_lets +onlyGivenNames x4
    clear_value x4
    extract_lets +onlyGivenNames x5
    have hx5 : Keeps q a0 x5 := by
      dsimp -zeta -proj only [x5]
      with_reducible apply Keeps.ite
      · with_reducible apply State.bump_keeps
        assumption
      · assumption
    clear_value x5
    extract_lets +onlyGivenNames x6
    have hx6 : Keeps q a0 x6 := by
      dsimp -zeta -proj only [x6]
      with_reducible apply Keeps.ite
      · with_reducible apply State.mapOutDev_keeps
        assumption
      · with_reducible apply State.setDev_keeps
        with_reducible apply State.setReg_keeps
        assumption
    clear_value x6
    with_reducible apply State.startAll_keeps
    assumption
  · rename_i v7 v8
    assumption

theorem State.patApply_keeps {q : Prop} {a0 : State} (s : State) (r : Nat) (c : PatCmd) (hs : Keeps q a0 s) :
    Keeps q a0 (State.patApply s r c) := by
  unfold State.patApply
  try extract_lets +onlyGivenNames x1
  try clear_value x1
  try extract_lets +onlyGivenNames x2
  try clear_value x2
  with_reducible apply Keeps.ite
  · split
    · split
      · with_reducible apply State.setReg_keeps; with_reducible apply State.setReg_keeps; with_reducible apply State.setReg_keeps; assumption
      · exact Keeps.put (by assumption) id rfl (Nat.le_refl _) fun _ => rfl
      · exact Keeps.put (by assumption) id rfl (Nat.le_refl _) fun _ => rfl
      · exact Keeps.put (by assumption) id rfl (Nat.le_refl _) fun _ => rfl
  · try extract_lets +onlyGivenNames x10
    try clear_value x10
    split
    · with_reducible apply State.setReg_keeps; with_reducible apply State.setReg_keeps; assumption
    · exact Keeps.put (by assumption) id rfl (Nat.le_refl _) fun _ => rfl
    · exact Keeps.put (by assumption) id rfl (Nat.le_refl _) fun _ => rfl
    · exact Keeps.put (by assumption) id rfl (Nat.le_refl _) fun _ => rfl

theorem State.regCfgWrite_keeps {q : Prop} {a0 : State} (s : State) (ag : Agent) (r : Nat) (u3 : Nat) (p : Nat) (v : W64) (hs : Keeps q a0 s) :
    Keeps q a0 (State.regCfgWrite s ag r u3 p v) := by
  unfold State.regCfgWrite
  try extract_lets +onlyGivenNames x1
  try clear_value x1
  try extract_lets +onlyGivenNames x2
  try clear_value x2
  with_reducible apply Keeps.ite
  · with_reducible apply State.log_keeps; assumption
  · exact Keeps.put (by assumption) id rfl (Nat.le_refl _) fun _ => rfl

theorem State.eccError_keeps {q : Prop} {a0 : State} (s : State) (a : ℕ) (hs : Keeps q a0 s) :
    Keeps q a0 (State.eccError s a) := by
  unfold State.eccError
  split
  · rename_i v1 v2
    split
    · rename_i v3 v4 v5 v6
      with_reducible apply Keeps.ite
      · with_reducible apply State.addPoison_keeps
        assumption
      · assumption
    · rename_i v7 v8
      assumption
  · rename_i v9 v10 v11
    extract_lets +onlyGivenNames x12
    clear_value x12
    with_reducible apply Keeps.ite
    · assumption
    · extract_lets +onlyGivenNames x13
      have hx13 : Keeps q a0 x13 := by
        dsimp -zeta -proj only [x13]
        with_reducible apply Keeps.foldl
        · intro w14 w15 w16
          with_reducible apply State.addPoison_keeps
          assumption
        · assumption
      clear_value x13
      extract_lets +onlyGivenNames x17
      have hx17 : Keeps q a0 x17 := by
        dsimp -zeta -proj only [x17]
        with_reducible apply State.log_keeps
        assumption
      clear_value x17
      with_reducible apply Keeps.ite
      · assumption
      · extract_lets +onlyGivenNames x18
        clear_value x18
        extract_lets +onlyGivenNames x19
        clear_value x19
        extract_lets +onlyGivenNames x20
        have hx20 : Keeps q a0 x20 := by
          dsimp -zeta -proj only [x20]
          with_reducible apply State.setDev_keeps
          assumption
        clear_value x20
        with_reducible apply Keeps.ite
        · with_reducible apply State.mapOutDev_keeps
          assumption
        · assumption

theorem State.refillBucket_keeps {q : Prop} {a0 : State} (s : State) (r : Nat) (i : Nat) (hs : Keeps q a0 s) :
    Keeps q a0 (State.refillBucket s r i) := by
  unfold State.refillBucket
  try extract_lets +onlyGivenNames x1
  try clear_value x1
  try (extract_lets +onlyGivenNames x2
       have hx2 : Keeps q a0 x2 := by
         try dsimp -zeta only [x2]
         split
         · try (extract_lets +onlyGivenNames x5
                have hx5 : Keeps q a0 x5 := by
                  try dsimp -zeta only [x5]
                  exact Keeps.put (by assumption) id rfl (Nat.le_refl _) fun _ => rfl
                clear_value x5)
           with_reducible apply State.setReg_keeps; assumption
         · assumption
       clear_value x2)
  try extract_lets +onlyGivenNames x3
  try clear_value x3
  with_reducible apply Keeps.ite
  · assumption
  · exact Keeps.put (by assumption) id rfl (Nat.le_refl _) fun _ => rfl

theorem State.marginDone_keeps {q : Prop} {a0 : State} (s : State) (r : Nat) (m : Margins) (hs : Keeps q a0 s) :
    Keeps q a0 (State.marginDone s r m) := by
  unfold State.marginDone
  split
  · try (extract_lets +onlyGivenNames x2
         have hx2 : Keeps q a0 x2 := by
           try dsimp -zeta only [x2]
           exact Keeps.put (by assumption) id rfl (Nat.le_refl _) fun _ => rfl
         clear_value x2)
    try extract_lets +onlyGivenNames x3
    try clear_value x3
    with_reducible apply Keeps.ite
    · assumption
    · with_reducible apply State.setDev_keeps; with_reducible apply State.setReg_keeps; assumption
  · assumption

theorem State.memSlot_keeps {q : Prop} {a0 : State} (s : State) (r : Nat) (hs : Keeps q a0 s) :
    Keeps q a0 (State.memSlot s r) := by
  unfold State.memSlot
  try extract_lets +onlyGivenNames x1
  try clear_value x1
  try extract_lets +onlyGivenNames x2
  try clear_value x2
  try extract_lets +onlyGivenNames x3
  try clear_value x3
  split
  · with_reducible apply State.setDev_keeps; assumption
  · split
    · exact Keeps.put (by assumption) id rfl (Nat.le_refl _) fun _ => rfl
    · assumption

theorem State.patDone_keeps {q : Prop} {a0 : State} (s : State) (r : ℕ) (hs : Keeps q a0 s) :
    Keeps q a0 (State.patDone s r) := by
  unfold State.patDone
  split
  · rename_i v1 v2 v3
    extract_lets +onlyGivenNames x4
    clear_value x4
    extract_lets +onlyGivenNames x5
    have hx5 : Keeps q a0 x5 := by
      dsimp -zeta -proj only [x5]
      exact Keeps.put (by assumption) id rfl (Nat.le_refl _) fun _ => rfl
    clear_value x5
    with_reducible apply State.startAll_keeps
    with_reducible apply State.setReg_keeps
    with_reducible apply Keeps.ite
    · with_reducible apply State.patApply_keeps
      assumption
    · assumption
  · rename_i v6 v7
    assumption

theorem State.eccCorrected_keeps {q : Prop} {a0 : State} (s : State) (a : ℕ) (hs : Keeps q a0 s) :
    Keeps q a0 (State.eccCorrected s a) := by
  unfold State.eccCorrected
  split
  · rename_i v1 v2 v3 v4
    with_reducible apply Keeps.ite
    · with_reducible apply State.bump_keeps
      assumption
    · assumption
  · rename_i v5 v6
    assumption

theorem State.tokenRefill_keeps {q : Prop} {a0 : State} (s : State) (r : ℕ) (hs : Keeps q a0 s) :
    Keeps q a0 (State.tokenRefill s r) := by
  unfold State.tokenRefill
  with_reducible apply State.offerHeld_keeps
  with_reducible apply Keeps.foldl
  · intro w1 w2 w3
    with_reducible apply State.refillBucket_keeps
    assumption
  · assumption

theorem State.eccSlc_keeps {q : Prop} {a0 : State} (s : State) (a : ℕ) (hs : Keeps q a0 s) :
    Keeps q a0 (State.eccSlc s a) := by
  unfold State.eccSlc
  extract_lets +onlyGivenNames x1
  clear_value x1
  with_reducible apply Keeps.ite
  · with_reducible apply State.log_keeps
    with_reducible apply State.addPoison_keeps
    assumption
  · assumption

theorem State.eccEvent_keeps {q : Prop} {a0 : State} (s : State) (a : Nat) (place : EccPlace) (corrected : Bool) (hs : Keeps q a0 s) :
    Keeps q a0 (State.eccEvent s a place corrected) := by
  unfold State.eccEvent
  split
  · exact State.eccCorrected_keeps _ _ hs
  · split
    · exact State.eccError_keeps _ _ hs
    · exact State.eccSlc_keeps _ _ hs
    · exact State.eccCache_keeps _ _ _ hs

theorem State.patCmdWrite_keeps {q : Prop} {a0 : State} (s : State) (ag : Agent) (r : Nat) (v : W64) (hs : Keeps q a0 s) :
    Keeps q a0 (State.patCmdWrite s ag r v) := by
  unfold State.patCmdWrite
  with_reducible apply Keeps.ite
  · with_reducible apply State.log_keeps; assumption
  · exact Keeps.put (by assumption) id rfl (Nat.le_refl _) fun _ => rfl

theorem State.setLink_keeps {q : Prop} {a0 : State} (s : State) (l : Nat) (x : Link) (hs : Keeps q a0 s) :
    Keeps q a0 (State.setLink s l x) := by
  unfold State.setLink
  exact Keeps.put (by assumption) id rfl (Nat.le_refl _) fun _ => rfl

theorem State.heartbeat_keeps {q : Prop} {a0 : State} (s : State) (l : Nat) (hs : Keeps q a0 s) :
    Keeps q a0 (State.heartbeat s l) := by
  unfold State.heartbeat
  with_reducible apply State.setLink_keeps; assumption

theorem State.rejoinTimeout_keeps {q : Prop} {a0 : State} (s : State) (r : Nat) (d : Nat) (hs : Keeps q a0 s) :
    Keeps q a0 (State.rejoinTimeout s r d) := by
  unfold State.rejoinTimeout
  try extract_lets +onlyGivenNames x1
  try clear_value x1
  with_reducible apply Keeps.ite
  · exact Keeps.put (by assumption) id rfl (Nat.le_refl _) fun _ => rfl
  · assumption

theorem State.loseHart_keeps {q : Prop} {a0 : State} (s : State) (h : Nat) (hs : Keeps q a0 s) :
    Keeps q a0 (State.loseHart s h) := by
  unfold State.loseHart
  try extract_lets +onlyGivenNames x1
  try clear_value x1
  try (extract_lets +onlyGivenNames x2
       have hx2 : Keeps q a0 x2 := by
         try dsimp -zeta only [x2]
         with_reducible apply State.loseCache_keeps; with_reducible apply State.dropTarget_keeps; assumption
       clear_value x2)
  exact Keeps.put (by assumption) id rfl (Nat.le_refl _) fun _ => rfl

theorem State.loseDie_keeps {q : Prop} {a0 : State} (s : State) (r : Nat) (d : Nat) (linkFailed : Bool) (hs : Keeps q a0 s) :
    Keeps q a0 (State.loseDie s r d linkFailed) := by
  unfold State.loseDie
  try (extract_lets +onlyGivenNames x1
       have hx1 : Keeps q a0 x1 := by
         try dsimp -zeta only [x1]
         exact Keeps.put (by assumption) id rfl (Nat.le_refl _) fun _ => rfl
       clear_value x1)
  try (extract_lets +onlyGivenNames x2
       have hx2 : Keeps q a0 x2 := by
         try dsimp -zeta only [x2]
         with_reducible apply Keeps.foldl
         · intro s2 x2 hs2
           try dsimp -zeta only
           with_reducible apply State.loseBlock_keeps; assumption
         · assumption
       clear_value x2)
  with_reducible apply Keeps.foldl
  · intro s2 x2 hs2
    try dsimp -zeta only
    with_reducible apply State.loseHart_keeps; assumption
  · assumption

theorem State.logAll_keeps {q : Prop} {a0 : State} (s : State) (status : Nat) (cause : Nat) (detail : W64) (hs : Keeps q a0 s) :
    Keeps q a0 (State.logAll s status cause detail) := by
  unfold State.logAll
  with_reducible apply Keeps.foldl
  · intro s2 x2 hs2
    try dsimp -zeta only
    with_reducible apply State.log_keeps; assumption
  · assumption

theorem State.declareLost_keeps {q : Prop} {a0 : State} (s : State) (r : Nat) (d : Nat) (reason : Nat) (hs : Keeps q a0 s) :
    Keeps q a0 (State.declareLost s r d reason) := by
  unfold State.declareLost
  with_reducible apply State.event_keeps; with_reducible apply State.notifyRegions_keeps; with_reducible apply State.logAll_keeps; assumption

theorem State.dieGone_keeps {q : Prop} {a0 : State} (s : State) (r : Nat) (d : Nat) (reason : Nat) (hs : Keeps q a0 s) :
    Keeps q a0 (State.dieGone s r d reason) := by
  unfold State.dieGone
  with_reducible apply Keeps.ite
  · assumption
  · try (extract_lets +onlyGivenNames x1
         have hx1 : Keeps q a0 x1 := by
           try dsimp -zeta only [x1]
           with_reducible apply State.loseDie_keeps; assumption
         clear_value x1)
    try (extract_lets +onlyGivenNames x2
         have hx2 : Keeps q a0 x2 := by
           try dsimp -zeta only [x2]
           exact Keeps.put (by assumption) id rfl (Nat.le_refl _) fun _ => rfl
         clear_value x2)
    with_reducible apply State.declareLost_keeps; assumption

theorem State.dropRegionUnits_keeps {q : Prop} {a0 : State} (s : State) (r : ℕ) (hs : Keeps q a0 s) :
    Keeps q a0 (State.dropRegionUnits s r) := by
  unfold State.dropRegionUnits
  extract_lets +onlyGivenNames x1
  clear_value x1
  extract_lets +onlyGivenNames x2
  have hx2 : Keeps q a0 x2 := by
    dsimp -zeta -proj only [x2]
    with_reducible apply State.collPorts_keeps
    · assumption
    · with_reducible apply Keeps.foldl
      · intro w3 w4 w5
        with_reducible apply State.linkFailure_keeps
        assumption
      · assumption
  clear_value x2
  extract_lets +onlyGivenNames x6
  have hx6 : Keeps q a0 x6 := by
    dsimp -zeta -proj only [x6]
    with_reducible apply Keeps.foldl
    · intro w7 w8 w9
      with_reducible apply State.setPort_keeps
      assumption
    · assumption
  clear_value x6
  extract_lets +onlyGivenNames x10
  have hx10 : Keeps q a0 x10 := by
    dsimp -zeta -proj only [x10]
    with_reducible apply State.setHost_keeps
    with_reducible apply State.hostLoss_keeps
    · assumption
    · intro w11 w12 w13
      with_reducible apply State.closeOwner_keeps
      assumption
  clear_value x10
  exact Keeps.put (by assumption) id rfl (Nat.le_refl _) fun _ => rfl

theorem State.dropHomeLines_keeps {q : Prop} {a0 : State} (s : State) (r : ℕ) (hs : Keeps q a0 s) :
    Keeps q a0 (State.dropHomeLines s r) := by
  unfold State.dropHomeLines
  extract_lets +onlyGivenNames x1
  clear_value x1
  extract_lets +onlyGivenNames x2
  have hx2 : Keeps q a0 x2 := by
    dsimp -zeta -proj only [x2]
    with_reducible apply Keeps.foldl
    · intro w3 w4 w5
      with_reducible apply Keeps.ite
      · with_reducible apply State.answerLost_keeps
        assumption
      · assumption
    · assumption
  clear_value x2
  exact Keeps.put (by assumption) id rfl (Nat.le_refl _) fun _ => rfl

theorem State.loseRegion_keeps {q : Prop} {a0 : State} (s : State) (r : Nat) (hs : Keeps q a0 s) :
    Keeps q a0 (State.loseRegion s r) := by
  unfold State.loseRegion
  try (extract_lets +onlyGivenNames x1
       have hx1 : Keeps q a0 x1 := by
         try dsimp -zeta only [x1]
         with_reducible apply State.dropRegionUnits_keeps; assumption
       clear_value x1)
  try (extract_lets +onlyGivenNames x2
       have hx2 : Keeps q a0 x2 := by
         try dsimp -zeta only [x2]
         with_reducible apply Keeps.foldl
         · intro s2 x2 hs2
           try dsimp -zeta only
           with_reducible apply State.loseDie_keeps; assumption
         · assumption
       clear_value x2)
  try (extract_lets +onlyGivenNames x3
       have hx3 : Keeps q a0 x3 := by
         try dsimp -zeta only [x3]
         exact Keeps.put (by assumption) id rfl (Nat.le_refl _) fun _ => rfl
       clear_value x3)
  try (extract_lets +onlyGivenNames x4
       have hx4 : Keeps q a0 x4 := by
         try dsimp -zeta only [x4]
         with_reducible apply State.tagsLost_keeps; with_reducible apply State.dropHome_keeps; with_reducible apply State.dropHomeLines_keeps; assumption
       clear_value x4)
  exact Keeps.put (by assumption) id rfl (Nat.le_refl _) fun _ => rfl

theorem State.regionLost_keeps {q : Prop} {a0 : State} (s : State) (r : Nat) (reason : Nat) (hs : Keeps q a0 s) :
    Keeps q a0 (State.regionLost s r reason) := by
  unfold State.regionLost
  with_reducible apply Keeps.ite
  · assumption
  · try (extract_lets +onlyGivenNames x1
         have hx1 : Keeps q a0 x1 := by
           try dsimp -zeta only [x1]
           with_reducible apply State.declareLost_keeps; with_reducible apply State.loseRegion_keeps; assumption
         clear_value x1)
    with_reducible apply Keeps.ite
    · with_reducible apply State.enterState_keeps; assumption
    · assumption

theorem State.linkDead_keeps {q : Prop} {a0 : State} (s : State) (l : Nat) (hs : Keeps q a0 s) : Keeps q a0 (State.linkDead s l) := by
  unfold State.linkDead
  extract_lets +onlyGivenNames lx s1 s2
  have h1 : Keeps q a0 s1 := State.setLink_keeps _ _ _ hs
  have h2 : Keeps q a0 s2 := Keeps.foldl (fun _ _ h => State.log_keeps _ _ _ _ _ _ _ h) h1
  clear_value s2
  apply Keeps.ite
  · extract_lets +onlyGivenNames d
    apply Keeps.ite
    · exact Keeps.put0 h2 rfl rfl rfl rfl rfl
    · exact State.dieGone_keeps _ _ _ _ h2
  · extract_lets +onlyGivenNames s3
    have h3 : Keeps q a0 s3 := Keeps.ite (State.regionLost_keeps _ _ _ h2) h2
    exact Keeps.ite (State.regionLost_keeps _ _ _ h3) h3

theorem State.xchkStart_keeps {q : Prop} {a0 : State} (s : State) (r : Nat) (seed : Nat) (hs : Keeps q a0 s) :
    Keeps q a0 (State.xchkStart s r seed) := by
  unfold State.xchkStart
  split
  · with_reducible apply State.updBlock_keeps; with_reducible apply State.updBlock_keeps; assumption
  · assumption

theorem State.replaceLane_keeps {q : Prop} {a0 : State} (s : State) (r : Nat) (l : Nat) (lane : Nat) (hs : Keeps q a0 s) :
    Keeps q a0 (State.replaceLane s r l lane) := by
  unfold State.replaceLane
  try extract_lets +onlyGivenNames x1
  try clear_value x1
  try extract_lets +onlyGivenNames x2
  try clear_value x2
  try extract_lets +onlyGivenNames x3
  try clear_value x3
  with_reducible apply Keeps.ite
  · assumption
  · try extract_lets +onlyGivenNames x4
    try clear_value x4
    try (extract_lets +onlyGivenNames x5
         have hx5 : Keeps q a0 x5 := by
           try dsimp -zeta only [x5]
           with_reducible apply State.setLink_keeps; assumption
         clear_value x5)
    with_reducible apply Keeps.ite
    · assumption
    · try extract_lets +onlyGivenNames x6
      try clear_value x6
      with_reducible apply State.log_keeps; with_reducible apply State.bump_keeps; assumption

theorem State.linkSlot_keeps {q : Prop} {a0 : State} (s : State) (r : ℕ) (lanes : List (ℕ × ℕ × ℕ)) (hs : Keeps q a0 s) :
    Keeps q a0 (State.linkSlot s r lanes) := by
  unfold State.linkSlot
  with_reducible apply Keeps.foldl
  · intro w1 w2 w3
    extract_lets +onlyGivenNames x4
    clear_value x4
    extract_lets +onlyGivenNames x5
    clear_value x5
    extract_lets +onlyGivenNames x6
    have hx6 : Keeps q a0 x6 := by
      dsimp -zeta -proj only [x6]
      with_reducible apply Keeps.foldl
      · intro w7 w8 w9
        with_reducible apply State.replaceLane_keeps
        assumption
      · assumption
    clear_value x6
    extract_lets +onlyGivenNames x10
    clear_value x10
    extract_lets +onlyGivenNames x11
    clear_value x11
    extract_lets +onlyGivenNames x12
    have hx12 : Keeps q a0 x12 := by
      dsimp -zeta -proj only [x12]
      with_reducible apply State.setLink_keeps
      assumption
    clear_value x12
    with_reducible apply Keeps.ite
    · with_reducible apply State.linkDead_keeps
      assumption
    · assumption
  · assumption

theorem State.maintSlot_keeps {q : Prop} {a0 : State} (s : State) (r : Nat) (seed : Nat) (lanes : List (Nat × Nat × Nat)) (hs : Keeps q a0 s) :
    Keeps q a0 (State.maintSlot s r seed lanes) := by
  unfold State.maintSlot
  try extract_lets +onlyGivenNames x1
  try clear_value x1
  with_reducible apply Keeps.ite
  · assumption
  · try (extract_lets +onlyGivenNames x2
         have hx2 : Keeps q a0 x2 := by
           try dsimp -zeta only [x2]
           exact Keeps.put (by assumption) id rfl (Nat.le_refl _) fun _ => rfl
         clear_value x2)
    with_reducible apply State.xchkStart_keeps; with_reducible apply State.linkSlot_keeps; with_reducible apply State.memSlot_keeps; assumption

theorem State.dieLost_keeps {q : Prop} {a0 : State} (s : State) (r : Nat) (d : Nat) (reason : Nat) (hs : Keeps q a0 s) :
    Keeps q a0 (State.dieLost s r d reason) := by
  unfold State.dieLost
  with_reducible apply Keeps.ite
  · with_reducible apply State.dieGone_keeps; assumption
  · assumption

theorem State.laneMapExchange_keeps {q : Prop} {a0 : State} (s : State) (l : Nat) (m : LaneMap) (hs : Keeps q a0 s) :
    Keeps q a0 (State.laneMapExchange s l m) := by
  unfold State.laneMapExchange
  try extract_lets +onlyGivenNames x1
  try clear_value x1
  with_reducible apply Keeps.ite
  · assumption
  · with_reducible apply Keeps.ite
    · with_reducible apply Keeps.ite
      · with_reducible apply State.linkDead_keeps; with_reducible apply State.setLink_keeps; assumption
      · with_reducible apply State.setLink_keeps; assumption
    · try extract_lets +onlyGivenNames x2
      try clear_value x2
      with_reducible apply Keeps.ite
      · with_reducible apply State.linkDead_keeps; with_reducible apply State.setLink_keeps; assumption
      · with_reducible apply State.setLink_keeps; assumption

theorem State.dropEngineRequest_keeps {q : Prop} {a0 : State} (s : State) (f : LateralFlit) (hs : Keeps q a0 s) :
    Keeps q a0 (State.dropEngineRequest s f) := by
  unfold State.dropEngineRequest
  extract_lets +onlyGivenNames x1
  clear_value x1
  extract_lets +onlyGivenNames x2
  clear_value x2
  split
  · rename_i v3 v4 v5
    with_reducible apply State.startAll_keeps
    with_reducible apply State.answerLost_keeps
    exact Keeps.put (by assumption) id rfl (Nat.le_refl _) fun _ => rfl
  · rename_i v6 v7
    with_reducible apply Keeps.ite
    · with_reducible apply State.log_keeps
      assumption
    · assumption

theorem State.disagree_keeps {q : Prop} {a0 : State} (s : State) (b : Nat) (seed : Nat) (hs : Keeps q a0 s) :
    Keeps q a0 (State.disagree s b seed) := by
  unfold State.disagree
  try (extract_lets +onlyGivenNames x1
       have hx1 : Keeps q a0 x1 := by
         try dsimp -zeta only [x1]
         with_reducible apply State.tuningStart_keeps; assumption
       clear_value x1)
  with_reducible apply Keeps.ite
  · with_reducible apply State.updBlock_keeps; assumption
  · assumption

theorem State.blkRelease_keeps {q : Prop} {a0 : State} (s : State) (ag : Agent) (r : Nat) (b : Nat) (hs : Keeps q a0 s) :
    Keeps q a0 (State.blkRelease s ag r b) := by
  unfold State.blkRelease
  try extract_lets +onlyGivenNames x1
  try clear_value x1
  with_reducible apply Keeps.ite
  · with_reducible apply State.setBlock_keeps; assumption
  · with_reducible apply State.log_keeps; assumption

theorem State.blkMuteWrite_keeps {q : Prop} {a0 : State} (s : State) (ag : Agent) (r : Nat) (v : W64) (hs : Keeps q a0 s) :
    Keeps q a0 (State.blkMuteWrite s ag r v) := by
  unfold State.blkMuteWrite
  try extract_lets +onlyGivenNames x1
  try clear_value x1
  with_reducible apply Keeps.ite
  · with_reducible apply State.blkRelease_keeps; assumption
  · with_reducible apply Keeps.ite
    · with_reducible apply State.muteBlock_keeps; assumption
    · with_reducible apply State.log_keeps; assumption

theorem State.packFailed_keeps {q : Prop} {a0 : State} (s : State) (cls : ℕ) (unit : ℕ) (hs : Keeps q a0 s) :
    Keeps q a0 (State.packFailed s cls unit) := by
  unfold State.packFailed
  extract_lets +onlyGivenNames x1
  clear_value x1
  extract_lets +onlyGivenNames x2
  clear_value x2
  extract_lets +onlyGivenNames x3
  have hx3 : Keeps q a0 x3 := by
    dsimp -zeta -proj only [x3]
    with_reducible apply State.log_keeps
    assumption
  clear_value x3
  split
  · rename_i v4
    extract_lets +onlyGivenNames x5
    have hx5 : Keeps q a0 x5 := by
      dsimp -zeta -proj only [x5]
      with_reducible apply State.updHart_keeps
      with_reducible apply State.loseHart_keeps
      assumption
    clear_value x5
    exact Keeps.put (by assumption) id rfl (Nat.le_refl _) fun _ => rfl
  · rename_i v6
    with_reducible apply State.updKiln_keeps
    · assumption
    · exact fun _ => Nat.le_refl _
  · rename_i v7 v8 v9
    with_reducible apply State.updKiln_keeps
    · assumption
    · exact fun _ => Nat.le_refl _

theorem State.rejoinBlocks_keeps {q : Prop} {a0 : State} (s : State) (r : Nat) (d : Nat) (hs : Keeps q a0 s) :
    Keeps q a0 (State.rejoinBlocks s r d) := by
  unfold State.rejoinBlocks
  with_reducible apply Keeps.foldl
  · intro s2 x2 hs2
    try dsimp -zeta only
    with_reducible apply State.updBlock_keeps; assumption
  · assumption

theorem State.rejoinDone_keeps {q : Prop} {a0 : State} (s : State) (r : ℕ) (d : ℕ) (hs : Keeps q a0 s) :
    Keeps q a0 (State.rejoinDone s r d) := by
  unfold State.rejoinDone
  extract_lets +onlyGivenNames x1
  clear_value x1
  extract_lets +onlyGivenNames x2
  clear_value x2
  with_reducible apply Keeps.ite
  · assumption
  · extract_lets +onlyGivenNames x3
    have hx3 : Keeps q a0 x3 := by
      dsimp -zeta -proj only [x3]
      exact Keeps.put (by assumption) id rfl (Nat.le_refl _) fun _ => rfl
    clear_value x3
    extract_lets +onlyGivenNames x4
    have hx4 : Keeps q a0 x4 := by
      dsimp -zeta -proj only [x4]
      with_reducible apply State.rejoinBlocks_keeps
      with_reducible apply State.setLink_keeps
      assumption
    clear_value x4
    extract_lets +onlyGivenNames x5
    have hx5 : Keeps q a0 x5 := by
      dsimp -zeta -proj only [x5]
      with_reducible apply Keeps.ite
      · with_reducible apply Keeps.foldl
        · intro w6 w7 w8
          extract_lets +onlyGivenNames x9
          have hx9 : Keeps q a0 x9 := by
            dsimp -zeta -proj only [x9]
            with_reducible apply State.updHart_keeps
            assumption
          clear_value x9
          with_reducible apply Keeps.ite
          · with_reducible apply State.coreFetch_keeps
            assumption
          · assumption
        · assumption
      · assumption
    clear_value x5
    with_reducible apply State.event_keeps
    with_reducible apply State.notifyRegions_keeps
    with_reducible apply State.logAll_keeps
    assumption

theorem State.dropCacheRequest_keeps {q : Prop} {a0 : State} (s : State) (k : Nat) (line : Nat) (hs : Keeps q a0 s) :
    Keeps q a0 (State.dropCacheRequest s k line) := by
  unfold State.dropCacheRequest
  exact Keeps.put (by assumption) id rfl (Nat.le_refl _) fun _ => rfl

theorem State.lostRead_keeps {q : Prop} {a0 : State} (s : State) (f : LateralFlit) (hs : Keeps q a0 s) :
    Keeps q a0 (State.lostRead s f) := by
  unfold State.lostRead
  extract_lets +onlyGivenNames x1
  clear_value x1
  split
  · rename_i v2 v3 v4
    extract_lets +onlyGivenNames x5
    extract_lets +onlyGivenNames x6
    have hx6 : Keeps q a0 x6 := by
      dsimp -zeta -proj only [x6]
      with_reducible apply State.startAll_keeps
      with_reducible apply State.dropCacheRequest_keeps
      assumption
    clear_value x6
    with_reducible apply Keeps.ite
    · with_reducible apply State.hartPoison_keeps
      assumption
    · assumption
  · rename_i v7 v8
    with_reducible apply State.dropEngineRequest_keeps
    assumption

theorem State.packResult_keeps {q : Prop} {a0 : State} (s : State) (cls : Nat) (unit : Nat) (passed : Bool) (hs : Keeps q a0 s) :
    Keeps q a0 (State.packResult s cls unit passed) := by
  unfold State.packResult
  repeat' first
    | with_reducible assumption
    | with_reducible apply Keeps.ite
    | with_reducible apply Keeps.iteP
    | with_reducible apply Keeps.foldl
    | (extract_lets +onlyGivenNames x
       first
         | (refine (fun (hx : Keeps _ _ x) => ?_) ?_
            on_goal 2 => dsimp -zeta only [x]
            on_goal 1 => try clear_value x)
         | (refine (fun (hx : Keeps _ _ x.1) => ?_) ?_
            on_goal 2 => dsimp -zeta only [x]
            on_goal 1 => try clear_value x)
         | clear_value x)
    | with_reducible apply State.packFailed_keeps
    | (with_reducible refine Keeps.of_pair (by with_reducible assumption) ?_)
    | dsimp -zeta only
    | split
    | (intro _; try dsimp -zeta only)
    | (with_reducible refine Keeps.put (by with_reducible assumption) ?_ ?_ ?_ ?_)
    | exact id
    | rfl
    | exact Nat.le_refl _

theorem State.pathChange_keeps {q : Prop} {a0 : State} (s : State) (edge : Option ℕ) (lost : Option ℕ) (fl : List LateralFlit) (hs : Keeps q a0 s) :
    Keeps q a0 (State.pathChange s edge lost fl) := by
  unfold State.pathChange
  with_reducible apply Keeps.foldl
  · intro w1 w2 w3
    with_reducible apply Keeps.ite
    · assumption
    · with_reducible apply Keeps.ite
      · with_reducible apply State.dropEngineRequest_keeps
        assumption
      · with_reducible apply State.lostRead_keeps
        assumption
  · assumption

theorem State.scrubDone_keeps {q : Prop} {a0 : State} (s : State) (r : Nat) (hs : Keeps q a0 s) :
    Keeps q a0 (State.scrubDone s r) := by
  unfold State.scrubDone
  exact Keeps.put (by assumption) id rfl (Nat.le_refl _) fun _ => rfl

theorem State.xchkDone_keeps {q : Prop} {a0 : State} (s : State) (a : Nat) (b : Nat) (da : Nat) (db : Nat) (third : Option (Nat × Nat)) (hs : Keeps q a0 s) :
    Keeps q a0 (State.xchkDone s a b da db third) := by
  unfold State.xchkDone
  try extract_lets +onlyGivenNames x1
  try clear_value x1
  split
  · split
    · with_reducible apply Keeps.ite
      · try (extract_lets +onlyGivenNames x5
             have hx5 : Keeps q a0 x5 := by
               try dsimp -zeta only [x5]
               exact Keeps.put (by assumption) id rfl (Nat.le_refl _) fun _ => rfl
             clear_value x5)
        try extract_lets +onlyGivenNames x6
        try clear_value x6
        with_reducible apply Keeps.foldl
        · intro s2 x2 hs2
          try dsimp -zeta only
          with_reducible apply State.disagree_keeps; assumption
        · assumption
      · assumption
    · assumption
  · split
    · with_reducible apply Keeps.ite
      · assumption
      · try (extract_lets +onlyGivenNames x11
             have hx11 : Keeps q a0 x11 := by
               try dsimp -zeta only [x11]
               with_reducible apply State.bump_keeps; with_reducible apply State.updBlock_keeps; with_reducible apply State.updBlock_keeps; assumption
             clear_value x11)
        with_reducible apply Keeps.ite
        · assumption
        · try (extract_lets +onlyGivenNames x12
               have hx12 : Keeps q a0 x12 := by
                 try dsimp -zeta only [x12]
                 with_reducible apply State.bump_keeps; assumption
               clear_value x12)
          split
          · with_reducible apply Keeps.ite
            · try extract_lets +onlyGivenNames x15
              try clear_value x15
              with_reducible apply Keeps.foldl
              · intro s2 x2 hs2
                try dsimp -zeta only
                with_reducible apply State.disagree_keeps; assumption
              · assumption
            · exact Keeps.put (by assumption) id rfl (Nat.le_refl _) fun _ => rfl
          · exact Keeps.put (by assumption) id rfl (Nat.le_refl _) fun _ => rfl
    · assumption

theorem State.regionEvent_keeps {q : Prop} {a0 : State} (s : State) (r : ℕ) (reason : ℕ) (hs : Keeps q a0 s) :
    Keeps q a0 (State.regionEvent s r reason) := by
  unfold State.regionEvent
  with_reducible apply Keeps.ite
  · with_reducible apply State.regionLost_keeps
    assumption
  · assumption

theorem State.evidRelease_keeps {q : Prop} {a0 : State} (s : State) (r : Nat) (v : W64) (hs : Keeps q a0 s) :
    Keeps q a0 (State.evidRelease s r v) := by
  unfold State.evidRelease
  exact Keeps.put (by assumption) id rfl (Nat.le_refl _) fun _ => rfl

theorem State.xchkTimeout_keeps {q : Prop} {a0 : State} (s : State) (a : Nat) (b : Nat) (hs : Keeps q a0 s) :
    Keeps q a0 (State.xchkTimeout s a b) := by
  unfold State.xchkTimeout
  split
  · with_reducible apply Keeps.ite
    · assumption
    · try (extract_lets +onlyGivenNames x2
           have hx2 : Keeps q a0 x2 := by
             try dsimp -zeta only [x2]
             exact Keeps.put (by assumption) id rfl (Nat.le_refl _) fun _ => rfl
           clear_value x2)
      with_reducible apply State.disagree_keeps; with_reducible apply State.disagree_keeps; assumption
  · assumption

theorem State.rejoin_keeps {q : Prop} {a0 : State} (s : State) (ag : Agent) (r : Nat) (d : Nat) (hs : Keeps q a0 s) :
    Keeps q a0 (State.rejoin s ag r d) := by
  unfold State.rejoin
  try extract_lets +onlyGivenNames x1
  try clear_value x1
  with_reducible apply Keeps.ite
  · with_reducible apply State.log_keeps; assumption
  · try (extract_lets +onlyGivenNames x2
         have hx2 : Keeps q a0 x2 := by
           try dsimp -zeta only [x2]
           exact Keeps.put (by assumption) id rfl (Nat.le_refl _) fun _ => rfl
         clear_value x2)
    with_reducible apply State.setLink_keeps; assumption

theorem State.packRun_keeps {q : Prop} {a0 : State} (s : State) (cls : Nat) (unit : Nat) (hs : Keeps q a0 s) :
    Keeps q a0 (State.packRun s cls unit) := by
  unfold State.packRun
  try extract_lets +onlyGivenNames x1
  try clear_value x1
  try extract_lets +onlyGivenNames x2
  try clear_value x2
  with_reducible apply Keeps.ite
  · exact Keeps.put (by assumption) id rfl (Nat.le_refl _) fun _ => rfl
  · assumption

theorem State.flitCrcError_keeps {q : Prop} {a0 : State} (s : State) (l : Nat) (lane : Nat) (hs : Keeps q a0 s) :
    Keeps q a0 (State.flitCrcError s l lane) := by
  unfold State.flitCrcError
  try extract_lets +onlyGivenNames x1
  try clear_value x1
  try extract_lets +onlyGivenNames x2
  try clear_value x2
  with_reducible apply State.setLink_keeps; assumption

theorem State.pwrRefuse_keeps {q : Prop} {a0 : State} (s : State) (ag : Agent) (g : Reg) (hs : Keeps q a0 s) :
    Keeps q a0 (State.pwrRefuse s ag g) := by
  unfold State.pwrRefuse
  with_reducible apply State.log_keeps; assumption

theorem State.thermalWrite_keeps {q : Prop} {a0 : State} (s : State) (ag : Agent) (r : Nat) (v : W64) (hs : Keeps q a0 s) :
    Keeps q a0 (State.thermalWrite s ag r v) := by
  unfold State.thermalWrite
  with_reducible apply Keeps.ite
  · with_reducible apply State.setAll_keeps; assumption
  · with_reducible apply State.pwrRefuse_keeps; assumption

theorem State.setRail_keeps {q : Prop} {a0 : State} (s : State) (r : Nat) (i : Nat) (x : Rail) (hs : Keeps q a0 s) :
    Keeps q a0 (State.setRail s r i x) := by
  unfold State.setRail
  exact Keeps.put (by assumption) id rfl (Nat.le_refl _) fun _ => rfl

theorem State.inputEvent_keeps {q : Prop} {a0 : State} (s : State) (f : W64 → W64) (hs : Keeps q a0 s) :
    Keeps q a0 (State.inputEvent s f) := by
  unfold State.inputEvent
  try (extract_lets +onlyGivenNames x1
       have hx1 : Keeps q a0 x1 := by
         try dsimp -zeta only [x1]
         with_reducible apply State.updPower_keeps; assumption
       clear_value x1)
  with_reducible apply State.event_keeps; assumption

theorem State.inputLow_keeps {q : Prop} {a0 : State} (s : State) (volts : ℕ) (hs : Keeps q a0 s) :
    Keeps q a0 (State.inputLow s volts) := by
  unfold State.inputLow
  with_reducible apply State.inputEvent_keeps
  with_reducible apply State.updPower_keeps
  assumption

theorem State.addReason_keeps {q : Prop} {a0 : State} (s : State) (c : Nat) (hs : Keeps q a0 s) :
    Keeps q a0 (State.addReason s c) := by
  unfold State.addReason
  with_reducible apply State.updPower_keeps; assumption

theorem State.railsOff_keeps {q : Prop} {a0 : State} (s : State) (hs : Keeps q a0 s) :
    Keeps q a0 (State.railsOff s) := by
  unfold State.railsOff
  exact Keeps.put (by assumption) id rfl (Nat.le_refl _) fun _ => rfl

theorem State.resetPackage_keeps {a0 : State} (s : State) (hs : Keeps False a0 s) :
    Keeps False a0 (State.resetPackage s) := by
  unfold State.resetPackage
  extract_lets k s1
  apply State.setAll_keeps
  exact ⟨fun _ => rfl, hs.pending, hs.serial, hs.seq, fun h => h.elim⟩

theorem State.inputGone_keeps {a0 : State} (s : State) (hs : Keeps False a0 s) :
    Keeps False a0 (State.inputGone s) := by
  unfold State.inputGone
  try (extract_lets +onlyGivenNames x1
       have hx1 : Keeps False a0 x1 := by
         try dsimp -zeta only [x1]
         with_reducible apply State.updPower_keeps; assumption
       clear_value x1)
  with_reducible apply Keeps.ite
  · with_reducible apply State.enterState_keeps
    · with_reducible apply State.railsOff_keeps; with_reducible apply State.resetPackage_keeps; with_reducible apply State.powerLossRecord_keeps; assumption
  · assumption

theorem State.setDomain_keeps {q : Prop} {a0 : State} (s : State) (r : Nat) (d : Nat) (x : Domain) (hs : Keeps q a0 s) :
    Keeps q a0 (State.setDomain s r d x) := by
  unfold State.setDomain
  exact Keeps.put (by assumption) id rfl (Nat.le_refl _) fun _ => rfl

theorem State.updDomain_keeps {q : Prop} {a0 : State} (s : State) (r : Nat) (d : Nat) (f : Domain → Domain) (hs : Keeps q a0 s) :
    Keeps q a0 (State.updDomain s r d f) := by
  unfold State.updDomain
  with_reducible apply State.setDomain_keeps; assumption

theorem State.initialGrants_keeps {q : Prop} {a0 : State} (s : State) (hs : Keeps q a0 s) :
    Keeps q a0 (State.initialGrants s) := by
  unfold State.initialGrants
  extract_lets +onlyGivenNames x1
  clear_value x1
  extract_lets +onlyGivenNames x2
  have hx2 : Keeps q a0 x2 := by
    dsimp -zeta -proj only [x2]
    with_reducible apply Keeps.foldl
    · intro w3 w4 w5
      with_reducible apply State.updDomain_keeps
      assumption
    · assumption
  clear_value x2
  with_reducible apply State.updPower_keeps
  assumption

theorem State.inputOvercurrent_keeps {a0 : State} (s : State) (hs : Keeps False a0 s) :
    Keeps False a0 (State.inputOvercurrent s) := by
  unfold State.inputOvercurrent
  with_reducible apply State.inputGone_keeps
  with_reducible apply State.nextFree_keeps
  with_reducible apply State.inputEvent_keeps
  with_reducible apply State.updPower_keeps
  assumption

theorem State.droopDetect_keeps {q : Prop} {a0 : State} (s : State) (h : Nat) (cycles : Nat) (hs : Keeps q a0 s) :
    Keeps q a0 (State.droopDetect s h cycles) := by
  unfold State.droopDetect
  try (extract_lets +onlyGivenNames x1
       have hx1 : Keeps q a0 x1 := by
         try dsimp -zeta only [x1]
         with_reducible apply State.bump_keeps; assumption
       clear_value x1)
  try (extract_lets +onlyGivenNames x2
       have hx2 : Keeps q a0 x2 := by
         try dsimp -zeta only [x2]
         with_reducible apply Keeps.ite
         · assumption
         · with_reducible apply State.addReason_keeps; assumption
       clear_value x2)
  with_reducible apply State.updPower_keeps; assumption

theorem State.domainWrite_keeps {q : Prop} {a0 : State} (s : State) (ag : Agent) (r : Nat) (d : Nat) (v : W64) (hs : Keeps q a0 s) :
    Keeps q a0 (State.domainWrite s ag r d v) := by
  unfold State.domainWrite
  with_reducible apply Keeps.ite
  · with_reducible apply State.updDomain_keeps; assumption
  · with_reducible apply State.pwrRefuse_keeps; assumption

theorem State.droopRecover_keeps {q : Prop} {a0 : State} (s : State) (h : Nat) (hs : Keeps q a0 s) :
    Keeps q a0 (State.droopRecover s h) := by
  unfold State.droopRecover
  with_reducible apply State.updPower_keeps; assumption

theorem State.railEffect_keeps {q : Prop} {a0 : State} (s : State) (r : Nat) (i : Nat) (hs : Keeps q a0 s) :
    Keeps q a0 (State.railEffect s r i) := by
  unfold State.railEffect
  split
  · with_reducible apply State.dieGone_keeps; assumption
  · with_reducible apply State.dieGone_keeps; assumption
  · with_reducible apply State.dieGone_keeps; assumption
  · with_reducible apply State.regionLost_keeps; assumption
  · with_reducible apply Keeps.foldl
    · intro s2 x2 hs2
      try dsimp -zeta only
      with_reducible apply Keeps.ite
      · assumption
      · with_reducible apply State.mapOutDev_keeps; assumption
    · assumption
  · with_reducible apply Keeps.foldl
    · intro s2 x2 hs2
      try dsimp -zeta only
      with_reducible apply State.chCtrlWrite_keeps; assumption
    · assumption

theorem State.railFault_keeps {q : Prop} {a0 : State} (s : State) (r : Nat) (i : Nat) (cause : Nat) (hs : Keeps q a0 s) :
    Keeps q a0 (State.railFault s r i cause) := by
  unfold State.railFault
  with_reducible apply Keeps.ite
  · assumption
  · try (extract_lets +onlyGivenNames x1
         have hx1 : Keeps q a0 x1 := by
           try dsimp -zeta only [x1]
           with_reducible apply State.setRail_keeps; assumption
         clear_value x1)
    try (extract_lets +onlyGivenNames x2
         have hx2 : Keeps q a0 x2 := by
           try dsimp -zeta only [x2]
           with_reducible apply Keeps.ite
           · with_reducible apply State.updDomain_keeps; assumption
           · assumption
         clear_value x2)
    with_reducible apply State.event_keeps; with_reducible apply State.railEffect_keeps; assumption

theorem State.mgrStatusWrite_keeps {q : Prop} {a0 : State} (s : State) (v : W64) (hs : Keeps q a0 s) :
    Keeps q a0 (State.mgrStatusWrite s v) := by
  unfold State.mgrStatusWrite
  with_reducible apply State.updPower_keeps; assumption

theorem State.inputReversed_keeps {a0 : State} (s : State) (hs : Keeps False a0 s) :
    Keeps False a0 (State.inputReversed s) := by
  unfold State.inputReversed
  try (extract_lets +onlyGivenNames x1
       have hx1 : Keeps False a0 x1 := by
         try dsimp -zeta only [x1]
         with_reducible apply State.inputGone_keeps; with_reducible apply State.updPower_keeps; assumption
       clear_value x1)
  with_reducible apply State.railsOff_keeps; with_reducible apply State.resetPackage_keeps; with_reducible apply State.enterState_keeps; assumption

theorem State.railOvercurrent_keeps {q : Prop} {a0 : State} (s : State) (r : Nat) (i : Nat) (hs : Keeps q a0 s) :
    Keeps q a0 (State.railOvercurrent s r i) := by
  unfold State.railOvercurrent
  with_reducible apply Keeps.ite
  · with_reducible apply State.addReason_keeps; with_reducible apply State.updDomain_keeps; assumption
  · assumption

theorem State.domainMark_keeps {q : Prop} {a0 : State} (s : State) (r : Nat) (d : Nat) (hs : Keeps q a0 s) :
    Keeps q a0 (State.domainMark s r d) := by
  unfold State.domainMark
  try extract_lets +onlyGivenNames x1
  try clear_value x1
  try extract_lets +onlyGivenNames x2
  try clear_value x2
  try extract_lets +onlyGivenNames x3
  try clear_value x3
  try extract_lets +onlyGivenNames x4
  try clear_value x4
  try (extract_lets +onlyGivenNames x5
       have hx5 : Keeps q a0 x5 := by
         try dsimp -zeta only [x5]
         with_reducible apply Keeps.ite
         · with_reducible apply State.addReason_keeps; assumption
         · assumption
       clear_value x5)
  try (extract_lets +onlyGivenNames x6
       have hx6 : Keeps q a0 x6 := by
         try dsimp -zeta only [x6]
         with_reducible apply Keeps.ite
         · with_reducible apply State.addReason_keeps; assumption
         · assumption
       clear_value x6)
  with_reducible apply Keeps.ite
  · with_reducible apply State.setDomain_keeps; assumption
  · with_reducible apply State.setDomain_keeps; assumption

theorem State.countReason_keeps {q : Prop} {a0 : State} (s : State) (f : Nat) (c : Nat) (hs : Keeps q a0 s) :
    Keeps q a0 (State.countReason s f c) := by
  unfold State.countReason
  try extract_lets +onlyGivenNames x1
  try clear_value x1
  with_reducible apply State.setAll_keeps; assumption

theorem State.thermalSample_keeps {q : Prop} {a0 : State} (s : State) (r : Nat) (die : Nat) (celsius : Nat) (hs : Keeps q a0 s) :
    Keeps q a0 (State.thermalSample s r die celsius) := by
  unfold State.thermalSample
  try extract_lets +onlyGivenNames x1
  try clear_value x1
  try extract_lets +onlyGivenNames x2
  try clear_value x2
  try (extract_lets +onlyGivenNames x3
       have hx3 : Keeps q a0 x3 := by
         try dsimp -zeta only [x3]
         with_reducible apply State.setDomain_keeps; assumption
       clear_value x3)
  with_reducible apply Keeps.ite
  · with_reducible apply State.event_keeps; assumption
  · assumption

theorem State.budgetMessage_keeps {q : Prop} {a0 : State} (s : State) (r : Nat) (p : Nat) (f : Nat) (d : Nat) (hs : Keeps q a0 s) :
    Keeps q a0 (State.budgetMessage s r p f d) := by
  unfold State.budgetMessage
  with_reducible apply Keeps.ite
  · assumption
  · with_reducible apply State.updPower_keeps; assumption

theorem State.moduleLimitWrite_keeps {q : Prop} {a0 : State} (s : State) (ag : Agent) (r : Nat) (v : W64) (hs : Keeps q a0 s) :
    Keeps q a0 (State.moduleLimitWrite s ag r v) := by
  unfold State.moduleLimitWrite
  with_reducible apply Keeps.ite
  · with_reducible apply State.setAll_keeps; assumption
  · with_reducible apply State.pwrRefuse_keeps; assumption

theorem State.coolantAlarm_keeps {q : Prop} {a0 : State} (s : State) (hs : Keeps q a0 s) :
    Keeps q a0 (State.coolantAlarm s) := by
  unfold State.coolantAlarm
  with_reducible apply State.event_keeps; with_reducible apply State.updPower_keeps; assumption

theorem State.inputOvervoltage_keeps {a0 : State} (s : State) (hs : Keeps False a0 s) :
    Keeps False a0 (State.inputOvervoltage s) := by
  unfold State.inputOvervoltage
  with_reducible apply State.inputGone_keeps; with_reducible apply State.inputEvent_keeps; assumption

theorem State.thermalTrip_keeps {a0 : State} (s : State) (hs : Keeps False a0 s) :
    Keeps False a0 (State.thermalTrip s) := by
  unfold State.thermalTrip
  with_reducible apply Keeps.ite
  · assumption
  · extract_lets +onlyGivenNames x1
    clear_value x1
    extract_lets +onlyGivenNames x2
    clear_value x2
    extract_lets +onlyGivenNames x3
    have hx3 : Keeps False a0 x3 := by
      dsimp -zeta -proj only [x3]
      with_reducible apply State.resetPackage_keeps
      with_reducible apply State.powerLossRecord_keeps
      assumption
    clear_value x3
    extract_lets +onlyGivenNames x4
    have hx4 : Keeps False a0 x4 := by
      dsimp -zeta -proj only [x4]
      exact Keeps.put (by assumption) id rfl (Nat.le_refl _) fun _ => rfl
    clear_value x4
    with_reducible apply State.enterState_keeps
    with_reducible apply State.event_keeps
    assumption

theorem State.inputGood_keeps {q : Prop} {a0 : State} (s : State) (hs : Keeps q a0 s) :
    Keeps q a0 (State.inputGood s) := by
  unfold State.inputGood
  with_reducible apply Keeps.ite
  · assumption
  · with_reducible apply State.updPower_keeps; assumption

theorem State.budgetGrant_keeps {q : Prop} {a0 : State} (s : State) (u1 : Predictions) (hs : Keeps q a0 s) :
    Keeps q a0 (State.budgetGrant s u1) := by
  unfold State.budgetGrant
  split
  · try extract_lets +onlyGivenNames x3
    try clear_value x3
    try extract_lets +onlyGivenNames x4
    try clear_value x4
    try extract_lets +onlyGivenNames x5
    try clear_value x5
    try extract_lets +onlyGivenNames x6
    try clear_value x6
    try extract_lets +onlyGivenNames x7
    try clear_value x7
    try extract_lets +onlyGivenNames x8
    try clear_value x8
    try (extract_lets +onlyGivenNames x9
         have hx9 : Keeps q a0 x9 := by
           try dsimp -zeta only [x9]
           with_reducible apply Keeps.foldl
           · intro s2 x2 hs2
             try dsimp -zeta only
             with_reducible apply Keeps.foldl
             · intro s2 x2 hs2
               try dsimp -zeta only
               with_reducible apply State.updDomain_keeps; assumption
             · assumption
           · assumption
         clear_value x9)
    with_reducible apply State.updPower_keeps; assumption

theorem State.powerMark_keeps {q : Prop} {a0 : State} (s : State) (m : MarkInput) (f : Nat) (hs : Keeps q a0 s) :
    Keeps q a0 (State.powerMark s m f) := by
  unfold State.powerMark
  try (extract_lets +onlyGivenNames x1
       have hx1 : Keeps q a0 x1 := by
         try dsimp -zeta only [x1]
         with_reducible apply Keeps.foldl
         · intro s2 x2 hs2
           try dsimp -zeta only
           with_reducible apply State.countReason_keeps; assumption
         · assumption
       clear_value x1)
  try (extract_lets +onlyGivenNames x2
       have hx2 : Keeps q a0 x2 := by
         try dsimp -zeta only [x2]
         with_reducible apply Keeps.foldl
         · intro s2 x2 hs2
           try dsimp -zeta only
           with_reducible apply State.updDomain_keeps; assumption
         · assumption
       clear_value x2)
  try (extract_lets +onlyGivenNames x3
       have hx3 : Keeps q a0 x3 := by
         try dsimp -zeta only [x3]
         with_reducible apply State.updPower_keeps; assumption
       clear_value x3)
  with_reducible apply Keeps.foldl
  · intro s2 x2 hs2
    try dsimp -zeta only
    with_reducible apply State.domainMark_keeps; assumption
  · assumption

theorem State.inputLoss_keeps {a0 : State} (s : State) (hs : Keeps False a0 s) :
    Keeps False a0 (State.inputLoss s) := by
  unfold State.inputLoss
  with_reducible apply State.inputGone_keeps; with_reducible apply State.inputEvent_keeps; assumption

theorem State.vfStepRise_keeps {q : Prop} {a0 : State} (s : State) (r : Nat) (d : Nat) (hs : Keeps q a0 s) :
    Keeps q a0 (State.vfStepRise s r d) := by
  unfold State.vfStepRise
  split
  · with_reducible apply State.updDomain_keeps; assumption
  · assumption

theorem State.inputWrite_keeps {q : Prop} {a0 : State} (s : State) (v : W64) (hs : Keeps q a0 s) :
    Keeps q a0 (State.inputWrite s v) := by
  unfold State.inputWrite
  with_reducible apply State.updPower_keeps; assumption

theorem State.bootFail_keeps {q : Prop} {a0 : State} (s : State) (step : Nat) (code : Nat) (hs : Keeps q a0 s) :
    Keeps q a0 (State.bootFail s step code) := by
  unfold State.bootFail
  with_reducible apply State.event_keeps; with_reducible apply State.railsOff_keeps; with_reducible apply State.updMgmt_keeps; assumption

theorem State.boot2_keeps {q : Prop} {a0 : State} (s : State) (i : BootInput) (hs : Keeps q a0 s) :
    Keeps q a0 (State.boot2 s i) := by
  unfold State.boot2
  extract_lets +onlyGivenNames x1
  have hx1 : Keeps q a0 x1 := by
    dsimp -zeta -proj only [x1]
    with_reducible apply Keeps.foldl
    · intro w2 w3 w4
      with_reducible apply State.setRail_keeps
      assumption
    · assumption
  clear_value x1
  extract_lets +onlyGivenNames x5
  have hx5 : Keeps q a0 x5 := by
    dsimp -zeta -proj only [x5]
    with_reducible apply Keeps.foldl
    · intro w6 w7 w8
      with_reducible apply State.event_keeps
      with_reducible apply State.setRail_keeps
      assumption
    · assumption
  clear_value x5
  extract_lets +onlyGivenNames x9
  have hx9 : Keeps q a0 x9 := by
    dsimp -zeta -proj only [x9]
    with_reducible apply Keeps.foldl
    · intro w10 w11 w12
      with_reducible apply State.setRail_keeps
      assumption
    · assumption
  clear_value x9
  extract_lets +onlyGivenNames x13
  have hx13 : Keeps q a0 x13 := by
    dsimp -zeta -proj only [x13]
    with_reducible apply State.updMgmt_keeps
    assumption
  clear_value x13
  with_reducible apply Keeps.ite
  · with_reducible apply State.bootFail_keeps
    assumption
  · with_reducible apply Keeps.ite
    · assumption
    · with_reducible apply State.bootFail_keeps
      assumption

theorem State.trainLinks_keeps {q : Prop} {a0 : State} (s : State) (i : BootInput) (hs : Keeps q a0 s) :
    Keeps q a0 (State.trainLinks s i) := by
  unfold State.trainLinks
  try (extract_lets +onlyGivenNames x1
       have hx1 : Keeps q a0 x1 := by
         try dsimp -zeta only [x1]
         with_reducible apply Keeps.foldl
         · intro s2 x2 hs2
           try dsimp -zeta only
           with_reducible apply State.setLink_keeps; assumption
         · assumption
       clear_value x1)
  with_reducible apply Keeps.foldl
  · intro s2 x2 hs2
    try dsimp -zeta only
    try (extract_lets +onlyGivenNames x2
         have hx2 : Keeps q a0 x2 := by
           try dsimp -zeta only [x2]
           with_reducible apply State.setLink_keeps; assumption
         clear_value x2)
    with_reducible apply Keeps.ite
    · with_reducible apply State.linkDead_keeps; assumption
    · assumption
  · assumption

theorem State.trainDev_keeps {q : Prop} {a0 : State} (s : State) (i : BootInput) (d : Nat) (hs : Keeps q a0 s) :
    Keeps q a0 (State.trainDev s i d) := by
  unfold State.trainDev
  try extract_lets +onlyGivenNames x1
  try clear_value x1
  try extract_lets +onlyGivenNames x2
  try clear_value x2
  try extract_lets +onlyGivenNames x3
  try clear_value x3
  with_reducible apply Keeps.ite
  · with_reducible apply State.setDev_keeps; assumption
  · with_reducible apply Keeps.ite
    · with_reducible apply State.setDev_keeps; assumption
    · with_reducible apply State.setReg_keeps; assumption

theorem State.buildGroup_keeps {q : Prop} {a0 : State} (s : State) (r : Nat) (g : Nat) (hs : Keeps q a0 s) :
    Keeps q a0 (State.buildGroup s r g) := by
  unfold State.buildGroup
  try extract_lets +onlyGivenNames x1
  try clear_value x1
  try extract_lets +onlyGivenNames x2
  try clear_value x2
  with_reducible apply State.setGroup_keeps; assumption

theorem State.boot4_keeps {q : Prop} {a0 : State} (s : State) (i : BootInput) (hs : Keeps q a0 s) :
    Keeps q a0 (State.boot4 s i) := by
  unfold State.boot4
  try (extract_lets +onlyGivenNames x1
       have hx1 : Keeps q a0 x1 := by
         try dsimp -zeta only [x1]
         with_reducible apply State.trainLinks_keeps; assumption
       clear_value x1)
  try (extract_lets +onlyGivenNames x2
       have hx2 : Keeps q a0 x2 := by
         try dsimp -zeta only [x2]
         with_reducible apply Keeps.foldl
         · intro s2 x2 hs2
           try dsimp -zeta only
           with_reducible apply Keeps.foldl
           · intro s2 x2 hs2
             try dsimp -zeta only
             with_reducible apply State.trainDev_keeps; assumption
           · assumption
         · assumption
       clear_value x2)
  try (extract_lets +onlyGivenNames x3
       have hx3 : Keeps q a0 x3 := by
         try dsimp -zeta only [x3]
         with_reducible apply Keeps.foldl
         · intro s2 x2 hs2
           try dsimp -zeta only
           with_reducible apply Keeps.foldl
           · intro s2 x2 hs2
             try dsimp -zeta only
             with_reducible apply State.buildGroup_keeps; assumption
           · assumption
         · assumption
       clear_value x3)
  try extract_lets +onlyGivenNames x4
  try clear_value x4
  with_reducible apply Keeps.ite
  · with_reducible apply State.bootFail_keeps; assumption
  · try (extract_lets +onlyGivenNames x5
         have hx5 : Keeps q a0 x5 := by
           try dsimp -zeta only [x5]
           with_reducible apply Keeps.foldl
           · intro s2 x2 hs2
             try dsimp -zeta only
             with_reducible apply State.loseRegion_keeps; assumption
           · assumption
         clear_value x5)
    with_reducible apply Keeps.foldl
    · intro s2 x2 hs2
      try dsimp -zeta only
      with_reducible apply State.wrBytes_keeps; assumption
    · assumption

theorem State.flashWrite_keeps {q : Prop} {a0 : State} (s : State) (slot : Nat) (off : Nat) (bs : List Byte) (hs : Keeps q a0 s) :
    Keeps q a0 (State.flashWrite s slot off bs) := by
  unfold State.flashWrite
  with_reducible apply State.updMgmt_keeps; assumption

theorem State.boot6_keeps {q : Prop} {a0 : State} (s : State) (i : BootInput) (hs : Keeps q a0 s) :
    Keeps q a0 (State.boot6 s i) := by
  unfold State.boot6
  extract_lets +onlyGivenNames x1
  have hx1 : Keeps q a0 x1 := by
    dsimp -zeta -proj only [x1]
    with_reducible apply Keeps.foldl
    · intro w2 w3 w4
      with_reducible apply Keeps.ite
      · with_reducible apply State.updHart_keeps
        assumption
      · assumption
    · assumption
  clear_value x1
  extract_lets +onlyGivenNames x5
  clear_value x5
  extract_lets +onlyGivenNames x6
  have hx6 : Keeps q a0 x6 := by
    dsimp -zeta -proj only [x6]
    exact Keeps.put (by assumption) id rfl (Nat.le_refl _) fun _ => rfl
  clear_value x6
  extract_lets +onlyGivenNames x7
  have hx7 : Keeps q a0 x7 := by
    dsimp -zeta -proj only [x7]
    with_reducible apply Keeps.foldl
    · intro w8 w9 w10
      with_reducible apply Keeps.ite
      · with_reducible apply State.packFailed_keeps
        assumption
      · assumption
    · assumption
  clear_value x7
  extract_lets +onlyGivenNames x11
  have hx11 : Keeps q a0 x11 := by
    dsimp -zeta -proj only [x11]
    with_reducible apply Keeps.foldl
    · intro w12 w13 w14
      with_reducible apply Keeps.ite
      · with_reducible apply State.coreFetch_keeps
        assumption
      · assumption
    · assumption
  clear_value x11
  with_reducible apply State.updMgmt_keeps
  assumption

theorem State.thenStep_keeps {q : Prop} {a0 : State} (s : State) (f : State → State) (hs : Keeps q a0 s) (hf : ∀ w0, Keeps q a0 w0 → Keeps q a0 (f w0)) :
    Keeps q a0 (State.thenStep s f) := by
  unfold State.thenStep
  with_reducible apply Keeps.ite
  · apply_assumption
    · assumption
  · assumption

theorem State.applySetting_keeps {q : Prop} {a0 : State} (s : State) (key : Nat) (index : Nat) (v : W64) (hs : Keeps q a0 s) :
    Keeps q a0 (State.applySetting s key index v) := by
  unfold State.applySetting
  split
  · with_reducible apply State.setAll_keeps; assumption
  · with_reducible apply State.updDomain_keeps; assumption
  · with_reducible apply State.setAll_keeps; assumption
  · with_reducible apply State.setReg_keeps; assumption
  · with_reducible apply State.setReg_keeps; assumption
  · with_reducible apply State.setAll_keeps; assumption
  · try (extract_lets +onlyGivenNames x8
         have hx8 : Keeps q a0 x8 := by
           try dsimp -zeta only [x8]
           with_reducible apply State.setAll_keeps; assumption
         clear_value x8)
    exact Keeps.put (by assumption) id rfl (Nat.le_refl _) fun _ => rfl
  · assumption

theorem State.bootTimeout_keeps {q : Prop} {a0 : State} (s : State) (hs : Keeps q a0 s) :
    Keeps q a0 (State.bootTimeout s) := by
  unfold State.bootTimeout
  with_reducible apply Keeps.ite
  · with_reducible apply State.bootFail_keeps; assumption
  · assumption

theorem State.boot1_keeps {q : Prop} {a0 : State} (s : State) (i : BootInput) (hs : Keeps q a0 s) :
    Keeps q a0 (State.boot1 s i) := by
  unfold State.boot1
  try extract_lets +onlyGivenNames x1
  try clear_value x1
  split
  · with_reducible apply State.updMgmt_keeps; assumption
  · with_reducible apply State.bootFail_keeps; assumption

theorem State.auxPowerUp_keeps {q : Prop} {a0 : State} (s : State) (slotId : ℕ) (reversed : Bool) (hs : Keeps q a0 s) :
    Keeps q a0 (State.auxPowerUp s slotId reversed) := by
  unfold State.auxPowerUp
  with_reducible apply Keeps.ite
  · assumption
  · extract_lets +onlyGivenNames x1
    clear_value x1
    extract_lets +onlyGivenNames x2
    have hx2 : Keeps q a0 x2 := by
      dsimp -zeta -proj only [x2]
      with_reducible apply State.updPower_keeps
      assumption
    clear_value x2
    extract_lets +onlyGivenNames x3
    have hx3 : Keeps q a0 x3 := by
      dsimp -zeta -proj only [x3]
      with_reducible apply State.updMgmt_keeps
      assumption
    clear_value x3
    extract_lets +onlyGivenNames x4
    have hx4 : Keeps q a0 x4 := by
      dsimp -zeta -proj only [x4]
      with_reducible apply State.enterState_keeps
      assumption
    clear_value x4
    with_reducible apply Keeps.ite
    · with_reducible apply State.event_keeps
      assumption
    · assumption

theorem State.boot7_keeps {q : Prop} {a0 : State} (s : State) (hs : Keeps q a0 s) :
    Keeps q a0 (State.boot7 s) := by
  unfold State.boot7
  try (extract_lets +onlyGivenNames x1
       have hx1 : Keeps q a0 x1 := by
         try dsimp -zeta only [x1]
         with_reducible apply State.updMgmt_keeps; assumption
       clear_value x1)
  with_reducible apply Keeps.foldl
  · intro s2 x2 hs2
    try dsimp -zeta only
    with_reducible apply State.portEnable_keeps; assumption
  · assumption

theorem State.boot5_keeps {q : Prop} {a0 : State} (s : State) (i : BootInput) (hs : Keeps q a0 s) :
    Keeps q a0 (State.boot5 s i) := by
  unfold State.boot5
  try (extract_lets +onlyGivenNames x1
       have hx1 : Keeps q a0 x1 := by
         try dsimp -zeta only [x1]
         with_reducible apply Keeps.foldl
         · intro s2 x2 hs2
           try dsimp -zeta only
           with_reducible apply State.event_keeps; assumption
         · assumption
       clear_value x1)
  with_reducible apply State.updMgmt_keeps; assumption

theorem State.startBoot_keeps {a0 : State} (s : State) (warm : Bool) (hs : Keeps False a0 s) :
    Keeps False a0 (State.startBoot s warm) := by
  unfold State.startBoot
  extract_lets +onlyGivenNames sx s1 s2
  have h0 : Keeps False a0 s.resetPackage := State.resetPackage_keeps _ hs
  have h1 : Keeps False a0 s1 := ⟨h0.mem, h0.pending, hs.serial, h0.seq, fun h => h.elim⟩
  have h2 : Keeps False a0 s2 := Keeps.ite h1 (Keeps.put0 h1 rfl rfl rfl rfl rfl)
  exact State.enterState_keeps _ _ (State.updMgmt_keeps _ _ h2)

theorem State.enterRun_keeps {q : Prop} {a0 : State} (s : State) (hs : Keeps q a0 s) :
    Keeps q a0 (State.enterRun s) := by
  unfold State.enterRun
  with_reducible apply State.enterState_keeps; assumption

theorem State.autoBoot_keeps {a0 : State} (s : State) (hs : Keeps False a0 s) :
    Keeps False a0 (State.autoBoot s) := by
  unfold State.autoBoot
  try (extract_lets +onlyGivenNames x1
       have hx1 : Keeps False a0 x1 := by
         try dsimp -zeta only [x1]
         with_reducible apply State.inputGood_keeps; assumption
       clear_value x1)
  with_reducible apply Keeps.ite
  · with_reducible apply State.startBoot_keeps; assumption
  · assumption

theorem State.bootPort_keeps {q : Prop} {a0 : State} (s : State) (r : Nat) (hs : Keeps q a0 s) :
    Keeps q a0 (State.bootPort s r) := by
  unfold State.bootPort
  try extract_lets +onlyGivenNames x1
  try clear_value x1
  try extract_lets +onlyGivenNames x2
  try clear_value x2
  with_reducible apply State.setHost_keeps; assumption

theorem State.partitionRange_keeps {q : Prop} {a0 : State} (s : State) (x : Nat × Nat × Nat) (hs : Keeps q a0 s) :
    Keeps q a0 (State.partitionRange s x) := by
  unfold State.partitionRange
  with_reducible apply Keeps.foldl
  · intro s2 x2 hs2
    try dsimp -zeta only
    split
    · exact Keeps.put (by assumption) id rfl (Nat.le_refl _) fun _ => rfl
    · assumption
  · assumption

theorem State.boot3_keeps {q : Prop} {a0 : State} (s : State) (hs : Keeps q a0 s) :
    Keeps q a0 (State.boot3 s) := by
  unfold State.boot3
  extract_lets +onlyGivenNames x1
  clear_value x1
  extract_lets +onlyGivenNames x2
  clear_value x2
  extract_lets +onlyGivenNames x3
  clear_value x3
  extract_lets +onlyGivenNames x4
  extract_lets +onlyGivenNames x5
  have hx5 : Keeps q a0 x5 := by
    dsimp -zeta -proj only [x5]
    exact Keeps.put (by assumption) id rfl (Nat.le_refl _) fun _ => rfl
  clear_value x5
  extract_lets +onlyGivenNames x6
  have hx6 : Keeps q a0 x6 := by
    dsimp -zeta -proj only [x6]
    with_reducible apply Keeps.foldl
    · intro w7 w8 w9
      with_reducible apply State.applySetting_keeps
      assumption
    · assumption
  clear_value x6
  extract_lets +onlyGivenNames x10
  have hx10 : Keeps q a0 x10 := by
    dsimp -zeta -proj only [x10]
    with_reducible apply State.kilnBoot_keeps
    with_reducible apply State.initialGrants_keeps
    with_reducible apply State.updPower_keeps
    assumption
  clear_value x10
  extract_lets +onlyGivenNames x11
  have hx11 : Keeps q a0 x11 := by
    dsimp -zeta -proj only [x11]
    with_reducible apply Keeps.foldl
    · intro w12 w13 w14
      with_reducible apply State.partitionRange_keeps
      assumption
    · assumption
  clear_value x11
  extract_lets +onlyGivenNames x15
  have hx15 : Keeps q a0 x15 := by
    dsimp -zeta -proj only [x15]
    with_reducible apply Keeps.foldl
    · intro w16 w17 w18
      with_reducible apply State.updPort_keeps
      assumption
    · assumption
  clear_value x15
  with_reducible apply Keeps.foldl
  · intro w19 w20 w21
    with_reducible apply Keeps.foldl
    · intro w22 w23 w24
      with_reducible apply State.loseBlock_keeps
      assumption
    · assumption
  · with_reducible apply Keeps.foldl
    · intro w25 w26 w27
      with_reducible apply State.bootPort_keeps
      assumption
    · assumption

theorem State.boot_keeps {q : Prop} {a0 : State} (s : State) (i : BootInput) (hs : Keeps q a0 s) :
    Keeps q a0 (State.boot s i) := by
  unfold State.boot
  split
  · with_reducible apply Keeps.ite
    · assumption
    · try (extract_lets +onlyGivenNames x2
           have hx2 : Keeps q a0 x2 := by
             try dsimp -zeta only [x2]
             with_reducible apply Keeps.ite
             · assumption
             · with_reducible apply State.thenStep_keeps
               · with_reducible apply State.boot1_keeps; assumption
               · intro z9 hz9
                 try dsimp -zeta only
                 with_reducible apply State.boot2_keeps; assumption
           clear_value x2)
      try (extract_lets +onlyGivenNames x3
           have hx3 : Keeps q a0 x3 := by
             try dsimp -zeta only [x3]
             with_reducible apply State.thenStep_keeps
             · with_reducible apply State.thenStep_keeps
               · with_reducible apply State.thenStep_keeps
                 · assumption
                 · intro 
                   try dsimp -zeta only
                   with_reducible apply State.boot3_keeps
               · intro z7 hz7
                 try dsimp -zeta only
                 with_reducible apply State.boot4_keeps; assumption
             · intro z8 hz8
               try dsimp -zeta only
               with_reducible apply State.boot5_keeps; assumption
           clear_value x3)
      with_reducible apply State.thenStep_keeps
      · assumption
      · intro z4 hz4
        try dsimp -zeta only
        try (extract_lets +onlyGivenNames x5
             have hx5 : Keeps q a0 x5 := by
               try dsimp -zeta only [x5]
               with_reducible apply State.enterState_keeps; with_reducible apply State.updMgmt_keeps; assumption
             clear_value x5)
        try (extract_lets +onlyGivenNames x6
             have hx6 : Keeps q a0 x6 := by
               try dsimp -zeta only [x6]
               with_reducible apply State.boot6_keeps; assumption
             clear_value x6)
        with_reducible apply Keeps.ite
        · assumption
        · with_reducible apply State.boot7_keeps; assumption
  · with_reducible apply Keeps.ite
    · with_reducible apply State.enterRun_keeps; with_reducible apply State.updMgmt_keeps; assumption
    · assumption
  · assumption

theorem State.auxPowerDown_keeps {q : Prop} {a0 : State} (s : State) (hs : Keeps q a0 s) :
    Keeps q a0 (State.auxPowerDown s) := by
  unfold State.auxPowerDown
  with_reducible apply Keeps.ite
  · with_reducible apply State.enterState_keeps
    with_reducible apply State.updPower_keeps
    assumption
  · assumption

theorem State.journalAppend_keeps {q : Prop} {a0 : State} (s : State) (key : Nat) (index : Nat) (op : Nat) (v : W64) (hs : Keeps q a0 s) :
    Keeps q a0 (State.journalAppend s key index op v) := by
  unfold State.journalAppend
  with_reducible apply State.updMgmt_keeps; assumption

theorem State.journalCompact_keeps {q : Prop} {a0 : State} (s : State) (hs : Keeps q a0 s) :
    Keeps q a0 (State.journalCompact s) := by
  unfold State.journalCompact
  with_reducible apply Keeps.ite
  · assumption
  · try extract_lets +onlyGivenNames x1
    try clear_value x1
    try extract_lets +onlyGivenNames x2
    try clear_value x2
    try (extract_lets +onlyGivenNames x3
         have hx3 : Keeps q a0 x3 := by
           try dsimp -zeta only [x3]
           with_reducible apply State.updMgmt_keeps; assumption
         clear_value x3)
    with_reducible apply Keeps.foldl
    · intro s2 x2 hs2
      try dsimp -zeta only
      with_reducible apply State.journalAppend_keeps; assumption
    · assumption

theorem State.mbxRefuse_keeps {q : Prop} {a0 : State} (s : State) (ag : Agent) (sl : Slot) (st : Nat) (hs : Keeps q a0 s) :
    Keeps q a0 (State.mbxRefuse s ag sl st) := by
  unfold State.mbxRefuse
  with_reducible apply Keeps.ite
  · with_reducible apply State.log_keeps; assumption
  · assumption

theorem State.answerHead_keeps {q : Prop} {a0 : State} (s : State) (r : Reply) (hs : Keeps q a0 s) :
    Keeps q a0 (State.answerHead s r) := by
  unfold State.answerHead
  with_reducible apply State.updMgmt_keeps; assumption

theorem State.execute_keeps {q : Prop} {a0 : State} (s : State) (op : Nat) (sl : Slot) (m : Msg) (rsv : Bool) (act : State → State × Reply) (hs : Keeps q a0 s) (hact : ∀ w0, Keeps q a0 w0 → Keeps q a0 (act w0).1) :
    Keeps q a0 (State.execute s op sl m rsv act) := by
  unfold State.execute
  with_reducible apply Keeps.ite
  · assumption
  · try extract_lets +onlyGivenNames x1
    try clear_value x1
    with_reducible apply Keeps.ite
    · with_reducible apply State.answerHead_keeps; assumption
    · split
      · rename_i p2 p3 heq
        have hp2 : Keeps q a0 p2 := Keeps.of_pair heq (by
          try dsimp -zeta only
          apply_assumption
          · assumption
          )
        with_reducible apply State.answerHead_keeps; assumption

theorem State.simply_keeps {q : Prop} {a0 : State} (f : State → State) (s : State) (hf : ∀ w0, Keeps q a0 w0 → Keeps q a0 (f w0)) (hs : Keeps q a0 s) :
    Keeps q a0 (State.simply f s).1 := by
  unfold State.simply
  show Keeps q a0 _
  try dsimp -zeta only
  apply_assumption
  · assumption

theorem State.coreOffline_keeps {q : Prop} {a0 : State} (s : State) (sl : Slot) (m : Msg) (hs : Keeps q a0 s) :
    Keeps q a0 (State.coreOffline s sl m) := by
  unfold State.coreOffline
  with_reducible apply State.execute_keeps
  · assumption
  · intro 
    try dsimp -zeta only
    with_reducible apply State.simply_keeps
    · intro z1 hz1
      try dsimp -zeta only
      with_reducible apply State.updHart_keeps; assumption

theorem State.ledgerRead_keeps {q : Prop} {a0 : State} (s : State) (sl : Slot) (m : Msg) (hs : Keeps q a0 s) :
    Keeps q a0 (State.ledgerRead s sl m) := by
  unfold State.ledgerRead
  with_reducible apply State.execute_keeps
  · assumption
  · intro z1 hz1
    try dsimp -zeta only
    split
    · show Keeps q a0 _
      try dsimp -zeta only
      assumption
    · show Keeps q a0 _
      try dsimp -zeta only
      assumption

theorem State.debugUnlock_keeps {q : Prop} {a0 : State} (s : State) (sl : Slot) (m : Msg) (nonce : List Byte) (sigOk : Bool) (hs : Keeps q a0 s) :
    Keeps q a0 (State.debugUnlock s sl m nonce sigOk) := by
  unfold State.debugUnlock
  with_reducible apply State.execute_keeps
  · assumption
  · intro z1 hz1
    try dsimp -zeta only
    with_reducible apply Keeps.iteP
    · try extract_lets +onlyGivenNames x2
      try clear_value x2
      show Keeps q a0 _
      try dsimp -zeta only
      with_reducible apply State.updMgmt_keeps; assumption
    · with_reducible apply Keeps.iteP
      · show Keeps q a0 _
        try dsimp -zeta only
        assumption
      · try (extract_lets +onlyGivenNames x3
             have hx3 : Keeps q a0 x3 := by
               try dsimp -zeta only [x3]
               with_reducible apply State.updMgmt_keeps; assumption
             clear_value x3)
        show Keeps q a0 _
        try dsimp -zeta only
        assumption

theorem State.runCmd_keeps {q : Prop} {a0 : State} (s : State) (sl : Slot) (m : Msg) (hs : Keeps q a0 s) :
    Keeps q a0 (State.runCmd s sl m) := by
  unfold State.runCmd
  with_reducible apply State.execute_keeps
  · assumption
  · intro 
    try dsimp -zeta only
    with_reducible apply State.simply_keeps
    · intro z1 hz1
      try dsimp -zeta only
      with_reducible apply Keeps.ite
      · assumption
      · with_reducible apply State.boot7_keeps; assumption

theorem State.evidenceRelease_keeps {q : Prop} {a0 : State} (s : State) (sl : Slot) (m : Msg) (hs : Keeps q a0 s) :
    Keeps q a0 (State.evidenceRelease s sl m) := by
  unfold State.evidenceRelease
  with_reducible apply State.execute_keeps
  · assumption
  · intro 
    try dsimp -zeta only
    with_reducible apply State.simply_keeps
    · intro z1 hz1
      try dsimp -zeta only
      with_reducible apply State.evidRelease_keeps; assumption

theorem State.rstdaa_keeps {q : Prop} {a0 : State} (s : State) (hs : Keeps q a0 s) :
    Keeps q a0 (State.rstdaa s) := by
  unfold State.rstdaa
  with_reducible apply Keeps.ite
  · assumption
  · with_reducible apply State.updMgmt_keeps; assumption

end Sys2Proof.Machine
end

