-- ==== Sys2Proof/Laws/KeepsOps6.lean ====
section
/-!
SUPPORT. Operations of the module, part 6 of 7: each leaves `Keeps` true.
-/
namespace Sys2Proof.Machine

theorem State.quiesceCmd_keeps {q : Prop} {a0 : State} (s : State) (sl : Slot) (m : Msg) (hs : Keeps q a0 s) :
    Keeps q a0 (State.quiesceCmd s sl m) := by
  unfold State.quiesceCmd
  with_reducible apply State.execute_keeps
  · assumption
  · intro 
    try dsimp -zeta only
    with_reducible apply State.simply_keeps
    · intro z1 hz1
      try dsimp -zeta only
      with_reducible apply State.enterState_keeps; assumption

theorem State.entdaa_keeps {q : Prop} {a0 : State} (s : State) (da : Nat) (hs : Keeps q a0 s) :
    Keeps q a0 (State.entdaa s da) := by
  unfold State.entdaa
  with_reducible apply Keeps.ite
  · assumption
  · with_reducible apply State.emit_keeps; with_reducible apply State.updMgmt_keeps; assumption

theorem State.finishTags_keeps {q : Prop} {a0 : State} (s : State) (hs : Keeps q a0 s) :
    Keeps q a0 (State.finishTags s) := by
  unfold State.finishTags
  with_reducible apply State.closeWhere_keeps
  assumption

theorem State.afterRecords_keeps {q : Prop} {a0 : State} (s : State) (op : ℕ) (sl : Slot) (m : Msg) (go : State → State) (hs : Keeps q a0 s) (hgo : ∀ w0, Keeps q a0 w0 → Keeps q a0 (go w0)) :
    Keeps q a0 (State.afterRecords s op sl m go) := by
  unfold State.afterRecords
  with_reducible apply Keeps.ite
  · assumption
  · extract_lets +onlyGivenNames x1
    clear_value x1
    with_reducible apply Keeps.ite
    · with_reducible apply State.answerHead_keeps
      assumption
    · with_reducible apply Keeps.ite
      · with_reducible apply State.finishTags_keeps
        assumption
      · with_reducible apply hgo
        assumption

theorem State.coldBoot_keeps {a0 : State} (s : State) (sl : Slot) (m : Msg) (hs : Keeps False a0 s) :
    Keeps False a0 (State.coldBoot s sl m) := by
  unfold State.coldBoot
  with_reducible apply State.afterRecords_keeps
  · assumption
  · intro w1 w2
    extract_lets +onlyGivenNames x3
    clear_value x3
    extract_lets +onlyGivenNames x4
    have hx4 : Keeps False a0 x4 := by
      dsimp -zeta -proj only [x4]
      with_reducible apply State.updMgmt_keeps
      assumption
    clear_value x4
    extract_lets +onlyGivenNames x5
    clear_value x5
    extract_lets +onlyGivenNames x6
    have hx6 : Keeps False a0 x6 := by
      dsimp -zeta -proj only [x6]
      with_reducible apply State.setMailbox_keeps
      assumption
    clear_value x6
    with_reducible apply State.startBoot_keeps
    with_reducible apply State.signalSlot_keeps
    assumption

theorem State.fuseRearm_keeps {q : Prop} {a0 : State} (s : State) (sl : Slot) (m : Msg) (hs : Keeps q a0 s) :
    Keeps q a0 (State.fuseRearm s sl m) := by
  unfold State.fuseRearm
  with_reducible apply State.execute_keeps
  · assumption
  · intro 
    try dsimp -zeta only
    with_reducible apply State.simply_keeps
    · intro z1 hz1
      try dsimp -zeta only
      with_reducible apply State.updPower_keeps; assumption

theorem State.cccRead_keeps {q : Prop} {a0 : State} (s : State) (bs : List Byte) (hs : Keeps q a0 s) :
    Keeps q a0 (State.cccRead s bs) := by
  unfold State.cccRead
  with_reducible apply Keeps.ite
  · with_reducible apply State.emit_keeps; assumption
  · assumption

theorem State.imageCommit_keeps {q : Prop} {a0 : State} (s : State) (sl : Slot) (m : Msg) (v : Verdict) (hs : Keeps q a0 s) :
    Keeps q a0 (State.imageCommit s sl m v) := by
  unfold State.imageCommit
  with_reducible apply State.execute_keeps
  · assumption
  · intro z1 hz1
    try dsimp -zeta only
    try extract_lets +onlyGivenNames x2
    try clear_value x2
    try extract_lets +onlyGivenNames x3
    try clear_value x3
    show Keeps q a0 _
    try dsimp -zeta only
    assumption

theorem State.mbxGo_keeps {q : Prop} {a0 : State} (s : State) (ag : Agent) (sl : Slot) (m : Msg) (hs : Keeps q a0 s) :
    Keeps q a0 (State.mbxGo s ag sl m) := by
  unfold State.mbxGo
  with_reducible apply Keeps.ite
  · assumption
  · with_reducible apply Keeps.ite
    · with_reducible apply State.updMgmt_keeps; with_reducible apply State.setMailbox_keeps; assumption
    · with_reducible apply State.mbxRefuse_keeps; assumption

theorem State.powerOff_keeps {a0 : State} (s : State) (sl : Slot) (m : Msg) (hs : Keeps False a0 s) :
    Keeps False a0 (State.powerOff s sl m) := by
  unfold State.powerOff
  with_reducible apply State.afterRecords_keeps
  · assumption
  · intro w1 w2
    with_reducible apply State.answerHead_keeps
    with_reducible apply State.enterState_keeps
    with_reducible apply State.railsOff_keeps
    with_reducible apply State.resetPackage_keeps
    assumption

theorem State.muteListGet_keeps {q : Prop} {a0 : State} (s : State) (sl : Slot) (m : Msg) (hs : Keeps q a0 s) :
    Keeps q a0 (State.muteListGet s sl m) := by
  unfold State.muteListGet
  with_reducible apply State.execute_keeps
  · assumption
  · intro z1 hz1
    try dsimp -zeta only
    try extract_lets +onlyGivenNames x2
    try clear_value x2
    show Keeps q a0 _
    try dsimp -zeta only
    assumption

theorem State.mbxAck_keeps {q : Prop} {a0 : State} (s : State) (ag : Agent) (sl : Slot) (hs : Keeps q a0 s) :
    Keeps q a0 (State.mbxAck s ag sl) := by
  unfold State.mbxAck
  with_reducible apply Keeps.ite
  · assumption
  · with_reducible apply Keeps.ite
    · with_reducible apply State.setMailbox_keeps; assumption
    · with_reducible apply State.mbxRefuse_keeps; assumption

theorem State.mbxCtrlWrite_keeps {q : Prop} {a0 : State} (s : State) (ag : Agent) (sl : Slot) (v : W64) (hs : Keeps q a0 s) :
    Keeps q a0 (State.mbxCtrlWrite s ag sl v) := by
  unfold State.mbxCtrlWrite
  with_reducible apply Keeps.ite
  · with_reducible apply State.mbxRefuse_keeps; assumption
  · with_reducible apply Keeps.ite
    · with_reducible apply State.mbxGo_keeps; assumption
    · with_reducible apply Keeps.ite
      · with_reducible apply State.mbxAck_keeps; assumption
      · assumption

theorem State.setnewda_keeps {q : Prop} {a0 : State} (s : State) (da : Nat) (hs : Keeps q a0 s) :
    Keeps q a0 (State.setnewda s da) := by
  unfold State.setnewda
  with_reducible apply Keeps.ite
  · with_reducible apply State.updMgmt_keeps; assumption
  · assumption

theorem State.muteListRemove_keeps {q : Prop} {a0 : State} (s : State) (sl : Slot) (m : Msg) (hs : Keeps q a0 s) :
    Keeps q a0 (State.muteListRemove s sl m) := by
  unfold State.muteListRemove
  try extract_lets +onlyGivenNames x1
  try clear_value x1
  with_reducible apply State.execute_keeps
  · assumption
  · intro z2 hz2
    try dsimp -zeta only
    with_reducible apply Keeps.iteP
    · show Keeps q a0 _
      try dsimp -zeta only
      exact Keeps.put (by assumption) id rfl (Nat.le_refl _) fun _ => rfl
    · show Keeps q a0 _
      try dsimp -zeta only
      assumption

theorem State.mbxWordWrite_keeps {q : Prop} {a0 : State} (s : State) (sl : Slot) (i : Nat) (v : W64) (hs : Keeps q a0 s) :
    Keeps q a0 (State.mbxWordWrite s sl i v) := by
  unfold State.mbxWordWrite
  try extract_lets +onlyGivenNames x1
  try clear_value x1
  with_reducible apply State.setMailbox_keeps; assumption

theorem State.evidenceRead_keeps {q : Prop} {a0 : State} (s : State) (sl : Slot) (m : Msg) (hs : Keeps q a0 s) :
    Keeps q a0 (State.evidenceRead s sl m) := by
  unfold State.evidenceRead
  with_reducible apply State.execute_keeps
  · assumption
  · intro z1 hz1
    try dsimp -zeta only
    split
    · try extract_lets +onlyGivenNames x3
      try clear_value x3
      try extract_lets +onlyGivenNames x4
      try clear_value x4
      show Keeps q a0 _
      try dsimp -zeta only
      assumption
    · show Keeps q a0 _
      try dsimp -zeta only
      assumption

theorem State.coreClearFail_keeps {q : Prop} {a0 : State} (s : State) (sl : Slot) (m : Msg) (hs : Keeps q a0 s) :
    Keeps q a0 (State.coreClearFail s sl m) := by
  unfold State.coreClearFail
  with_reducible apply State.execute_keeps
  · assumption
  · intro 
    try dsimp -zeta only
    with_reducible apply State.simply_keeps
    · intro z1 hz1
      try dsimp -zeta only
      with_reducible apply State.updHart_keeps; assumption

theorem State.getEvent_keeps {q : Prop} {a0 : State} (s : State) (sl : Slot) (m : Msg) (hs : Keeps q a0 s) :
    Keeps q a0 (State.getEvent s sl m) := by
  unfold State.getEvent
  with_reducible apply State.execute_keeps
  · assumption
  · intro z1 hz1
    try dsimp -zeta only
    split
    · show Keeps q a0 _
      try dsimp -zeta only
      with_reducible apply State.setMailbox_keeps; assumption
    · show Keeps q a0 _
      try dsimp -zeta only
      assumption

theorem State.imageWrite_keeps {q : Prop} {a0 : State} (s : State) (sl : Slot) (m : Msg) (hs : Keeps q a0 s) :
    Keeps q a0 (State.imageWrite s sl m) := by
  unfold State.imageWrite
  with_reducible apply State.execute_keeps
  · assumption
  · intro z1 hz1
    try dsimp -zeta only
    try (extract_lets +onlyGivenNames x2
         have hx2 : Keeps q a0 x2 := by
           try dsimp -zeta only [x2]
           with_reducible apply Keeps.ite
           · with_reducible apply State.updMgmt_keeps; assumption
           · assumption
         clear_value x2)
    show Keeps q a0 _
    try dsimp -zeta only
    with_reducible apply State.flashWrite_keeps; assumption

theorem State.getCert_keeps {q : Prop} {a0 : State} (s : State) (sl : Slot) (m : Msg) (hs : Keeps q a0 s) :
    Keeps q a0 (State.getCert s sl m) := by
  unfold State.getCert
  with_reducible apply State.execute_keeps
  · assumption
  · intro z1 hz1
    try dsimp -zeta only
    with_reducible apply Keeps.iteP
    · show Keeps q a0 _
      try dsimp -zeta only
      assumption
    · show Keeps q a0 _
      try dsimp -zeta only
      assumption

theorem State.warmReset_keeps {a0 : State} (s : State) (sl : Slot) (m : Msg) (hs : Keeps False a0 s) :
    Keeps False a0 (State.warmReset s sl m) := by
  unfold State.warmReset
  with_reducible apply State.afterRecords_keeps
  · assumption
  · intro w1 w2
    with_reducible apply State.answerHead_keeps
    with_reducible apply State.startBoot_keeps
    assumption

theorem State.i3cWrite_keeps {q : Prop} {a0 : State} (s : State) (bytes : List Byte) (hs : Keeps q a0 s) :
    Keeps q a0 (State.i3cWrite s bytes) := by
  unfold State.i3cWrite
  with_reducible apply Keeps.ite
  · assumption
  · split
    · with_reducible apply Keeps.ite
      · with_reducible apply State.mbxGo_keeps; assumption
      · assumption
    · assumption

theorem State.writeSetting_keeps {q : Prop} {a0 : State} (s : State) (key : Nat) (index : Nat) (v : W64) (hs : Keeps q a0 s) :
    Keeps q a0 (State.writeSetting s key index v) := by
  unfold State.writeSetting
  with_reducible apply Keeps.ite
  · assumption
  · split
    · with_reducible apply State.moduleLimitWrite_keeps; assumption
    · with_reducible apply State.domainWrite_keeps; assumption
    · with_reducible apply State.thermalWrite_keeps; assumption
    · with_reducible apply State.regCfgWrite_keeps; assumption
    · with_reducible apply State.setReg_keeps; assumption
    · with_reducible apply State.setAll_keeps; assumption
    · with_reducible apply Keeps.ite
      · with_reducible apply State.setAll_keeps; assumption
      · assumption
    · assumption

theorem State.jtag_keeps {q : Prop} {a0 : State} (s : State) (scan : Bool) (hs : Keeps q a0 s) :
    Keeps q a0 (State.jtag s scan) := by
  unfold State.jtag
  with_reducible apply Keeps.ite
  · with_reducible apply State.updMgmt_keeps; assumption
  · assumption

theorem State.getIdentity_keeps {q : Prop} {a0 : State} (s : State) (sl : Slot) (m : Msg) (hs : Keeps q a0 s) :
    Keeps q a0 (State.getIdentity s sl m) := by
  unfold State.getIdentity
  with_reducible apply State.execute_keeps
  · assumption
  · intro z1 hz1
    try dsimp -zeta only
    try extract_lets +onlyGivenNames x2
    try clear_value x2
    show Keeps q a0 _
    try dsimp -zeta only
    assumption

theorem State.coreOnline_keeps {q : Prop} {a0 : State} (s : State) (sl : Slot) (m : Msg) (passed : Bool) (hs : Keeps q a0 s) :
    Keeps q a0 (State.coreOnline s sl m passed) := by
  unfold State.coreOnline
  with_reducible apply State.execute_keeps
  · assumption
  · intro w1 w2
    extract_lets +onlyGivenNames x3
    clear_value x3
    with_reducible apply Keeps.iteP
    · with_reducible apply Keeps.fst
      assumption
    · with_reducible apply Keeps.iteP
      · with_reducible apply Keeps.fst
        with_reducible apply State.coreFetch_keeps
        with_reducible apply State.updHart_keeps
        assumption
      · with_reducible apply Keeps.fst
        with_reducible apply State.packFailed_keeps
        assumption

theorem State.resumeCmd_keeps {q : Prop} {a0 : State} (s : State) (sl : Slot) (m : Msg) (hs : Keeps q a0 s) :
    Keeps q a0 (State.resumeCmd s sl m) := by
  unfold State.resumeCmd
  with_reducible apply State.execute_keeps
  · assumption
  · intro 
    try dsimp -zeta only
    with_reducible apply State.simply_keeps
    · intro 
      try dsimp -zeta only
      with_reducible apply State.enterRun_keeps

theorem State.i3cRead_keeps {q : Prop} {a0 : State} (s : State) (n : Nat) (hs : Keeps q a0 s) :
    Keeps q a0 (State.i3cRead s n) := by
  unfold State.i3cRead
  with_reducible apply Keeps.ite
  · assumption
  · try extract_lets +onlyGivenNames x1
    try clear_value x1
    try extract_lets +onlyGivenNames x2
    try clear_value x2
    try extract_lets +onlyGivenNames x3
    try clear_value x3
    try (extract_lets +onlyGivenNames x4
         have hx4 : Keeps q a0 x4 := by
           try dsimp -zeta only [x4]
           with_reducible apply State.emit_keeps; assumption
         clear_value x4)
    with_reducible apply Keeps.ite
    · with_reducible apply State.setMailbox_keeps; assumption
    · assumption

theorem State.getStatus_keeps {q : Prop} {a0 : State} (s : State) (sl : Slot) (m : Msg) (hs : Keeps q a0 s) :
    Keeps q a0 (State.getStatus s sl m) := by
  unfold State.getStatus
  with_reducible apply State.execute_keeps
  · assumption
  · intro z1 hz1
    try dsimp -zeta only
    show Keeps q a0 _
    try dsimp -zeta only
    assumption

theorem State.overrideGet_keeps {q : Prop} {a0 : State} (s : State) (sl : Slot) (m : Msg) (hs : Keeps q a0 s) :
    Keeps q a0 (State.overrideGet s sl m) := by
  unfold State.overrideGet
  try extract_lets +onlyGivenNames x1
  try clear_value x1
  try extract_lets +onlyGivenNames x2
  try clear_value x2
  try extract_lets +onlyGivenNames x3
  try clear_value x3
  with_reducible apply State.execute_keeps
  · assumption
  · intro z4 hz4
    try dsimp -zeta only
    with_reducible apply Keeps.iteP
    · show Keeps q a0 _
      try dsimp -zeta only
      assumption
    · show Keeps q a0 _
      try dsimp -zeta only
      assumption

theorem State.overrideSet_keeps {q : Prop} {a0 : State} (s : State) (sl : Slot) (m : Msg) (hs : Keeps q a0 s) :
    Keeps q a0 (State.overrideSet s sl m) := by
  unfold State.overrideSet
  with_reducible apply Keeps.ite
  · assumption
  · try extract_lets +onlyGivenNames x1
    try clear_value x1
    try extract_lets +onlyGivenNames x2
    try clear_value x2
    try extract_lets +onlyGivenNames x3
    try clear_value x3
    with_reducible apply State.execute_keeps
    · assumption
    · intro 
      try dsimp -zeta only
      with_reducible apply State.simply_keeps
      · intro z4 hz4
        try dsimp -zeta only
        with_reducible apply State.writeSetting_keeps; with_reducible apply State.journalAppend_keeps; assumption

theorem State.mbxResponse_keeps {q : Prop} {a0 : State} (s : State) (hs : Keeps q a0 s) :
    Keeps q a0 (State.mbxResponse s) := by
  unfold State.mbxResponse
  split
  · try extract_lets +onlyGivenNames x3
    try clear_value x3
    split
    · try (extract_lets +onlyGivenNames x5
           have hx5 : Keeps q a0 x5 := by
             try dsimp -zeta only [x5]
             with_reducible apply State.updMgmt_keeps; assumption
           clear_value x5)
      with_reducible apply State.signalSlot_keeps; with_reducible apply State.setMailbox_keeps; assumption
    · assumption
  · assumption

theorem State.overrideClear_keeps {q : Prop} {a0 : State} (s : State) (sl : Slot) (m : Msg) (hs : Keeps q a0 s) :
    Keeps q a0 (State.overrideClear s sl m) := by
  unfold State.overrideClear
  with_reducible apply Keeps.ite
  · assumption
  · try extract_lets +onlyGivenNames x1
    try clear_value x1
    try extract_lets +onlyGivenNames x2
    try clear_value x2
    with_reducible apply State.execute_keeps
    · assumption
    · intro 
      try dsimp -zeta only
      with_reducible apply State.simply_keeps
      · intro z3 hz3
        try dsimp -zeta only
        with_reducible apply State.journalAppend_keeps; assumption

theorem State.ibiSet_keeps {q : Prop} {a0 : State} (s : State) (events : Nat) (on : Bool) (hs : Keeps q a0 s) :
    Keeps q a0 (State.ibiSet s events on) := by
  unfold State.ibiSet
  with_reducible apply Keeps.ite
  · with_reducible apply State.updMgmt_keeps; assumption
  · assumption

theorem State.updArray_keeps {q : Prop} {a0 : State} (s : State) (b : Nat) (f : Array → Array) (hs : Keeps q a0 s) :
    Keeps q a0 (State.updArray s b f) := by
  unfold State.updArray
  with_reducible apply State.updBlock_keeps; assumption

theorem State.drainEntries_keeps {q : Prop} {a0 : State} (s : State) (b : Nat) (r : Run) (a : Nat) (hs : Keeps q a0 s) :
    Keeps q a0 (State.drainEntries s b r a).1 := by
  induction a generalizing s r with
  | zero => exact hs
  | succ n ih =>
    unfold State.drainEntries
    extract_lets c d cols slot e as_ s1 s2
    split
    · exact hs
    · apply ih
      have h1 : Keeps q a0 s1 := State.storeWrite_keeps _ _ _ _ hs
      exact Keeps.ite h1 (State.updArray_keeps _ _ _ h1)

theorem State.seedEntries_keeps {q : Prop} {a0 : State} (s : State) (b : Nat) (r : Run) (a : Nat) (hs : Keeps q a0 s) :
    Keeps q a0 (State.seedEntries s b r a).1 := by
  induction a generalizing s r with
  | zero => exact hs
  | succ n ih =>
    unfold State.seedEntries
    extract_lets c cols slot off raw recs first stop put
    have hput : ∀ e, Keeps q a0 (put e) := fun e => State.updArray_keeps _ _ _ hs
    split
    · exact hs
    · split
      · exact State.poisonLog_keeps _ _ _ hs
      · repeat' first | exact hs | exact ih _ _ (hput _) | split

theorem State.mxPut_keeps {q : Prop} {a0 : State} (s : State) (b : Nat) (r : Run) (hs : Keeps q a0 s) :
    Keeps q a0 (State.mxPut s b r) := by
  unfold State.mxPut
  with_reducible apply State.updBlock_keeps; assumption

theorem State.entriesStep_keeps {q : Prop} {a0 : State} (s : State) (b : Nat) (n : Nat) (op : Nat) (total : Nat) (r : Run) (hs : Keeps q a0 s) :
    Keeps q a0 (State.entriesStep s b n op total r) := by
  unfold State.entriesStep
  split
  · rename_i p1 p2 heq
    have hp1 : Keeps q a0 p1 := Keeps.of_pair heq (by
      try dsimp -zeta only
      with_reducible apply Keeps.iteP
      · with_reducible apply State.drainEntries_keeps; assumption
      · with_reducible apply State.seedEntries_keeps; assumption
      )
    with_reducible apply State.mxPut_keeps; assumption

theorem State.mxLoad_keeps {q : Prop} {a0 : State} (s : State) (b : Nat) (hs : Keeps q a0 s) :
    Keeps q a0 (State.mxLoad s b) := by
  unfold State.mxLoad
  split
  · with_reducible apply Keeps.ite
    · try extract_lets +onlyGivenNames x3
      try clear_value x3
      try (extract_lets +onlyGivenNames x4
           have hx4 : Keeps q a0 x4 := by
             try dsimp -zeta only [x4]
             with_reducible apply State.takeHead_keeps; assumption
           clear_value x4)
      with_reducible apply Keeps.ite
      · try (extract_lets +onlyGivenNames x5
             have hx5 : Keeps q a0 x5 := by
               try dsimp -zeta only [x5]
               with_reducible apply State.updArray_keeps; assumption
             clear_value x5)
        with_reducible apply Keeps.ite
        · assumption
        · with_reducible apply State.updArray_keeps; assumption
      · assumption
    · assumption
  · assumption

theorem State.mxLoadPathStart_keeps {q : Prop} {a0 : State} (s : State) (b : ℕ) (hs : Keeps q a0 s) :
    Keeps q a0 (State.mxLoadPathStart s b) := by
  unfold State.mxLoadPathStart
  split
  · rename_i v1 v2 v3
    extract_lets +onlyGivenNames x4
    clear_value x4
    with_reducible apply Keeps.ite
    · assumption
    · with_reducible apply State.nextFree_keeps
      with_reducible apply State.mxPut_keeps
      assumption
  · rename_i v5 v6
    assumption

theorem State.mxFreeze_keeps {q : Prop} {a0 : State} (s : State) (b : ℕ) (g : Reg) (replay : Bool) (hs : Keeps q a0 s) :
    Keeps q a0 (State.mxFreeze s b g replay) := by
  unfold State.mxFreeze
  extract_lets +onlyGivenNames x1
  have hx1 : Keeps q a0 x1 := by
    dsimp -zeta -proj only [x1]
    with_reducible apply State.bump_keeps
    assumption
  clear_value x1
  with_reducible apply Keeps.ite
  · with_reducible apply State.bump_keeps
    assumption
  · assumption

theorem State.mxFinalize_keeps {q : Prop} {a0 : State} (s : State) (b : Nat) (hs : Keeps q a0 s) :
    Keeps q a0 (State.mxFinalize s b) := by
  unfold State.mxFinalize
  try extract_lets +onlyGivenNames x1
  try clear_value x1
  with_reducible apply State.updBlock_keeps; assumption

theorem State.mxStop_keeps {q : Prop} {a0 : State} (s : State) (b : Nat) (r : Run) (from_ : Nat) (st : Nat) (detail : W64) (hs : Keeps q a0 s) :
    Keeps q a0 (State.mxStop s b r from_ st detail) := by
  unfold State.mxStop
  try (extract_lets +onlyGivenNames x1
       have hx1 : Keeps q a0 x1 := by
         try dsimp -zeta only [x1]
         with_reducible apply State.mxPut_keeps; assumption
       clear_value x1)
  try (extract_lets +onlyGivenNames x2
       have hx2 : Keeps q a0 x2 := by
         try dsimp -zeta only [x2]
         with_reducible apply State.updArray_keeps; assumption
       clear_value x2)
  with_reducible apply State.mxFinalize_keeps; assumption

theorem State.mxFeed_keeps {q : Prop} {a0 : State} (s : State) (b : ℕ) (r : Run) (t : Tile) (i : ℕ) (replay : Bool) (errs : List ArrayError) (hs : Keeps q a0 s) :
    Keeps q a0 (State.mxFeed s b r t i replay errs) := by
  unfold State.mxFeed
  extract_lets +onlyGivenNames x1
  have hx1 : Keeps q a0 x1 := by
    dsimp -zeta -proj only [x1]
    with_reducible apply State.bump_keeps
    assumption
  clear_value x1
  extract_lets +onlyGivenNames x2
  have hx2 : Keeps q a0 x2 := by
    dsimp -zeta -proj only [x2]
    with_reducible apply Keeps.ite
    · with_reducible apply State.bump_keeps
      assumption
    · assumption
  clear_value x2
  extract_lets +onlyGivenNames x3
  clear_value x3
  extract_lets +onlyGivenNames x4
  clear_value x4
  extract_lets +onlyGivenNames x5
  have hx5 : Keeps q a0 x5 := by
    dsimp -zeta -proj only [x5]
    with_reducible apply State.mxPut_keeps
    with_reducible apply State.updArray_keeps
    assumption
  clear_value x5
  extract_lets +onlyGivenNames x6
  clear_value x6
  extract_lets +onlyGivenNames x7
  clear_value x7
  extract_lets +onlyGivenNames x8
  have hx8 : Keeps q a0 x8 := by
    dsimp -zeta -proj only [x8]
    split
    · rename_i v9 v10 v11 v12
      with_reducible apply State.mxStop_keeps
      with_reducible apply State.poisonLog_keeps
      assumption
    · rename_i v13 v14 v15 v16 v17
      with_reducible apply State.mxStop_keeps
      assumption
    · rename_i v18 v19 v20 v21
      assumption
  clear_value x8
  split
  · rename_i v22 v23 v24
    with_reducible apply State.tuningStart_keeps
    with_reducible apply State.updArray_keeps
    with_reducible apply State.bump_keeps
    assumption
  · rename_i v25 v26
    assumption

theorem State.mxRowFeed_keeps {q : Prop} {a0 : State} (s : State) (b : ℕ) (granted : Bool) (errs : List ArrayError) (upset : Option (ℕ × ℕ)) (hs : Keeps q a0 s) :
    Keeps q a0 (State.mxRowFeed s b granted errs upset) := by
  unfold State.mxRowFeed
  split
  · rename_i v1 v2
    assumption
  · rename_i v3 v4 v5 v6 v7 v8
    extract_lets +onlyGivenNames x9
    have hx9 : Keeps q a0 x9 := by
      dsimp -zeta -proj only [x9]
      split
      · rename_i v10 v11 v12
        with_reducible apply State.updArray_keeps
        assumption
      · rename_i v13
        assumption
    extract_lets +onlyGivenNames x14
    extract_lets +onlyGivenNames x15
    clear_value x15
    with_reducible apply Keeps.ite
    · with_reducible apply State.mxFreeze_keeps
      assumption
    · with_reducible apply Keeps.ite
      · with_reducible apply State.mxFreeze_keeps
        assumption
      · with_reducible apply Keeps.ite
        · split
          rename_i v16 v17 v18 v19
          have h20 : Keeps q a0 v17 := by
            refine Keeps.of_pair v19 ?_
            with_reducible apply State.pegAcquire_keeps
            assumption
          with_reducible apply Keeps.ite
          · with_reducible apply State.mxStop_keeps
            assumption
          · with_reducible apply State.mxFeed_keeps
            assumption
        · with_reducible apply State.mxFeed_keeps
          assumption

theorem State.mxSwap_keeps {q : Prop} {a0 : State} (s : State) (b : Nat) (hs : Keeps q a0 s) :
    Keeps q a0 (State.mxSwap s b) := by
  unfold State.mxSwap
  split
  · with_reducible apply Keeps.ite
    · with_reducible apply State.takeHead_keeps; assumption
    · assumption
  · assumption

theorem State.mxEntries_keeps {q : Prop} {a0 : State} (s : State) (b : Nat) (n : Nat) (op : Nat) (check : Block → Cmd → Nat) (total : Cmd → Nat) (hs : Keeps q a0 s) :
    Keeps q a0 (State.mxEntries s b n op check total) := by
  unfold State.mxEntries
  split
  · with_reducible apply State.entriesStep_keeps; assumption
  · split
    · with_reducible apply Keeps.ite
      · try (extract_lets +onlyGivenNames x5
             have hx5 : Keeps q a0 x5 := by
               try dsimp -zeta only [x5]
               with_reducible apply State.takeHead_keeps; assumption
             clear_value x5)
        split
        · with_reducible apply State.entriesStep_keeps; assumption
        · assumption
      · assumption
    · assumption

theorem State.mxDrain_keeps {q : Prop} {a0 : State} (s : State) (b : Nat) (n : Nat) (hs : Keeps q a0 s) :
    Keeps q a0 (State.mxDrain s b n) := by
  unfold State.mxDrain
  with_reducible apply State.mxEntries_keeps; assumption

theorem State.mxStream_keeps {q : Prop} {a0 : State} (s : State) (b : ℕ) (hs : Keeps q a0 s) :
    Keeps q a0 (State.mxStream s b) := by
  unfold State.mxStream
  split
  · rename_i v1 v2 v3 v4
    with_reducible apply Keeps.ite
    · extract_lets +onlyGivenNames x5
      clear_value x5
      extract_lets +onlyGivenNames x6
      clear_value x6
      extract_lets +onlyGivenNames x7
      clear_value x7
      with_reducible apply Keeps.ite
      · with_reducible apply State.startRun_keeps
        assumption
      · with_reducible apply State.takeHead_keeps
        assumption
    · assumption
  · rename_i v8 v9
    assumption

theorem State.mxSwapCycle_keeps {q : Prop} {a0 : State} (s : State) (b : Nat) (hs : Keeps q a0 s) :
    Keeps q a0 (State.mxSwapCycle s b) := by
  unfold State.mxSwapCycle
  split
  · try extract_lets +onlyGivenNames x2
    try clear_value x2
    try extract_lets +onlyGivenNames x3
    try clear_value x3
    with_reducible apply Keeps.ite
    · assumption
    · split
      · assumption
      · with_reducible apply State.mxPut_keeps; assumption
      · with_reducible apply State.updArray_keeps; with_reducible apply State.mxPut_keeps; assumption
  · assumption

theorem State.feedPegRelease_keeps {q : Prop} {a0 : State} (s : State) (b : Nat) (hs : Keeps q a0 s) :
    Keeps q a0 (State.feedPegRelease s b) := by
  unfold State.feedPegRelease
  split
  · try (extract_lets +onlyGivenNames x2
         have hx2 : Keeps q a0 x2 := by
           try dsimp -zeta only [x2]
           with_reducible apply State.mxPut_keeps; assumption
         clear_value x2)
    with_reducible apply State.signalPeg_keeps; assumption
  · assumption

theorem State.mxLoadDone_keeps {q : Prop} {a0 : State} (s : State) (b : Nat) (hs : Keeps q a0 s) :
    Keeps q a0 (State.mxLoadDone s b) := by
  unfold State.mxLoadDone
  split
  · try extract_lets +onlyGivenNames x2
    try clear_value x2
    try extract_lets +onlyGivenNames x3
    try clear_value x3
    try extract_lets +onlyGivenNames x4
    try clear_value x4
    try extract_lets +onlyGivenNames x5
    try clear_value x5
    try extract_lets +onlyGivenNames x6
    try clear_value x6
    try extract_lets +onlyGivenNames x7
    try clear_value x7
    try extract_lets +onlyGivenNames x8
    try clear_value x8
    split
    · with_reducible apply State.updArray_keeps; with_reducible apply State.mxPut_keeps; with_reducible apply State.poisonLog_keeps; assumption
    · try extract_lets +onlyGivenNames x12
      try clear_value x12
      with_reducible apply State.updArray_keeps; with_reducible apply State.mxPut_keeps; assumption
  · assumption

theorem State.mxSeed_keeps {q : Prop} {a0 : State} (s : State) (b : Nat) (n : Nat) (hs : Keeps q a0 s) :
    Keeps q a0 (State.mxSeed s b n) := by
  unfold State.mxSeed
  with_reducible apply State.mxEntries_keeps; assumption

theorem State.groupCheck_keeps {q : Prop} {a0 : State} (s : State) (b : ℕ) (hs : Keeps q a0 s) :
    Keeps q a0 (State.groupCheck s b) := by
  unfold State.groupCheck
  extract_lets +onlyGivenNames x1
  clear_value x1
  split
  · rename_i v2 v3
    assumption
  · rename_i v4 v5 v6
    split
    · rename_i v7 v8
      assumption
    · rename_i v9 v10 v11
      split
      rename_i v12 v13 v14 v15 v16
      extract_lets +onlyGivenNames x17
      have hx17 : ∀ w0 w1, Keeps q a0 w0 → Keeps q a0 (x17 w0 w1) := by
        dsimp -zeta -proj only [x17]
        intro w18 w19 w20
        with_reducible apply State.updArray_keeps
        assumption
      clear_value x17
      extract_lets +onlyGivenNames x21
      have hx21 : Keeps q a0 x21 := by
        dsimp -zeta -proj only [x21]
        with_reducible apply Keeps.ite
        · assumption
        · with_reducible apply State.bump_keeps
          assumption
      clear_value x21
      with_reducible apply Keeps.ite
      · extract_lets +onlyGivenNames x22
        have hx22 : Keeps q a0 x22 := by
          dsimp -zeta -proj only [x22]
          with_reducible apply Keeps.ite
          · with_reducible apply State.bump_keeps
            assumption
          · assumption
        clear_value x22
        with_reducible apply hx17
        assumption
      · with_reducible apply Keeps.ite
        · extract_lets +onlyGivenNames x23
          have hx23 : Keeps q a0 x23 := by
            dsimp -zeta -proj only [x23]
            with_reducible apply Keeps.ite
            · assumption
            · with_reducible apply State.bump_keeps
              assumption
          clear_value x23
          with_reducible apply hx17
          assumption
        · split
          rename_i v24 v25 v26 v27
          extract_lets +onlyGivenNames x28
          have hx28 : Keeps q a0 x28 := by
            dsimp -zeta -proj only [x28]
            with_reducible apply State.bump_keeps
            with_reducible apply State.mxStop_keeps
            assumption
          clear_value x28
          with_reducible apply State.tuningStart_keeps
          assumption

theorem State.mxRowCommit_keeps {q : Prop} {a0 : State} (s : State) (b : ℕ) (hs : Keeps q a0 s) :
    Keeps q a0 (State.mxRowCommit s b) := by
  unfold State.mxRowCommit
  split
  · rename_i v1 v2
    assumption
  · rename_i v3 v4 v5 v6
    split
    · rename_i v7 v8 v9 v10 v11 v12
      with_reducible apply Keeps.ite
      · assumption
      · extract_lets +onlyGivenNames x13
        clear_value x13
        extract_lets +onlyGivenNames x14
        clear_value x14
        extract_lets +onlyGivenNames x15
        clear_value x15
        split
        rename_i v16 v17 v18 v19
        have h20 : Keeps q a0 v17 := by
          refine Keeps.of_pair v19 ?_
          with_reducible apply Keeps.iteP
          · with_reducible apply State.pegAcquire_keeps
            assumption
          · with_reducible apply Keeps.fst
            assumption
        extract_lets +onlyGivenNames x21
        clear_value x21
        with_reducible apply Keeps.ite
        · with_reducible apply State.mxStop_keeps
          assumption
        · extract_lets +onlyGivenNames x22
          clear_value x22
          extract_lets +onlyGivenNames x23
          clear_value x23
          extract_lets +onlyGivenNames x24
          clear_value x24
          extract_lets +onlyGivenNames x25
          clear_value x25
          extract_lets +onlyGivenNames x26
          clear_value x26
          extract_lets +onlyGivenNames x27
          clear_value x27
          extract_lets +onlyGivenNames x28
          clear_value x28
          extract_lets +onlyGivenNames x29
          have hx29 : Keeps q a0 x29 := by
            dsimp -zeta -proj only [x29]
            with_reducible apply Keeps.ite
            · assumption
            · with_reducible apply State.updArray_keeps
              assumption
          clear_value x29
          extract_lets +onlyGivenNames x30
          have hx30 : Keeps q a0 x30 := by
            dsimp -zeta -proj only [x30]
            with_reducible apply Keeps.ite
            · with_reducible apply State.storeWrite_keeps
              assumption
            · assumption
          clear_value x30
          extract_lets +onlyGivenNames x31
          clear_value x31
          extract_lets +onlyGivenNames x32
          clear_value x32
          extract_lets +onlyGivenNames x33
          have hx33 : Keeps q a0 x33 := by
            dsimp -zeta -proj only [x33]
            with_reducible apply State.updArray_keeps
            with_reducible apply State.mxPut_keeps
            assumption
          clear_value x33
          with_reducible apply State.mxFinalize_keeps
          assumption
    · rename_i v34 v35 v36
      assumption

theorem State.cplCtrlWrite_keeps {q : Prop} {a0 : State} (s : State) (ag : Agent) (b : Nat) (v : W64) (hs : Keeps q a0 s) :
    Keeps q a0 (State.cplCtrlWrite s ag b v) := by
  unfold State.cplCtrlWrite
  try extract_lets +onlyGivenNames x1
  try clear_value x1
  with_reducible apply Keeps.ite
  · with_reducible apply State.refuseBlock_keeps; assumption
  · with_reducible apply Keeps.ite
    · with_reducible apply State.refuseBlock_keeps; assumption
    · with_reducible apply State.setReg_keeps; assumption

theorem State.seqFetch_keeps {q : Prop} {a0 : State} (s : State) (b : ℕ) (hs : Keeps q a0 s) :
    Keeps q a0 (State.seqFetch s b) := by
  unfold State.seqFetch
  extract_lets +onlyGivenNames x1
  clear_value x1
  extract_lets +onlyGivenNames x2
  clear_value x2
  with_reducible apply Keeps.ite
  · split
    · rename_i v3 v4 v5
      with_reducible apply State.hartPoison_keeps
      assumption
    · rename_i v6 v7
      assumption
  · with_reducible apply Keeps.ite
    · with_reducible apply State.fault_keeps
      assumption
    · split
      · rename_i v8 v9
        with_reducible apply State.fault_keeps
        assumption
      · rename_i v10 v11 v12 v13
        split
        · rename_i v14 v15 v16 v17 v18 v19
          with_reducible apply State.fetchMem_keeps
          assumption
        · rename_i v20 v21 v22 v23 v24 v25
          with_reducible apply State.fetchMem_keeps
          assumption
        · rename_i v26 v27 v28 v29 v30 v31
          with_reducible apply State.fetchMem_keeps
          assumption
        · rename_i v32 v33
          with_reducible apply State.fault_keeps
          assumption
        · rename_i v34 v35 v36 v37
          with_reducible apply State.fault_keeps
          assumption
        · rename_i v38 v39 v40 v41 v42 v43
          with_reducible apply State.fault_keeps
          assumption
        · rename_i v44 v45 v46 v47 v48 v49 v50
          assumption

theorem State.blkStart_keeps {q : Prop} {a0 : State} (s : State) (ag : Agent) (b : ℕ) (hs : Keeps q a0 s) :
    Keeps q a0 (State.blkStart s ag b) := by
  unfold State.blkStart
  with_reducible apply Keeps.ite
  · with_reducible apply State.seqFetch_keeps
    with_reducible apply State.updHart_keeps
    with_reducible apply State.updBlock_keeps
    assumption
  · with_reducible apply State.refuseBlock_keeps
    assumption

theorem State.blkHalt_keeps {q : Prop} {a0 : State} (s : State) (ag : Agent) (b : Nat) (hs : Keeps q a0 s) :
    Keeps q a0 (State.blkHalt s ag b) := by
  unfold State.blkHalt
  with_reducible apply Keeps.ite
  · with_reducible apply State.updBlock_keeps; assumption
  · with_reducible apply State.refuseBlock_keeps; assumption

theorem State.blkReset_keeps {q : Prop} {a0 : State} (s : State) (ag : Agent) (b : Nat) (hs : Keeps q a0 s) :
    Keeps q a0 (State.blkReset s ag b) := by
  unfold State.blkReset
  with_reducible apply Keeps.ite
  · with_reducible apply State.resetBlock_keeps; assumption
  · with_reducible apply State.refuseBlock_keeps; assumption

theorem State.seqCtrlWrite_keeps {q : Prop} {a0 : State} (s : State) (ag : Agent) (b : Nat) (v : W64) (hs : Keeps q a0 s) :
    Keeps q a0 (State.seqCtrlWrite s ag b v) := by
  unfold State.seqCtrlWrite
  with_reducible apply Keeps.ite
  · with_reducible apply State.refuseBlock_keeps; assumption
  · with_reducible apply Keeps.ite
    · with_reducible apply State.blkStart_keeps; assumption
    · with_reducible apply Keeps.ite
      · with_reducible apply State.blkHalt_keeps; assumption
      · with_reducible apply Keeps.ite
        · with_reducible apply State.blkReset_keeps; assumption
        · assumption

theorem State.cplHeadWrite_keeps {q : Prop} {a0 : State} (s : State) (ag : Agent) (b : Nat) (v : W64) (hs : Keeps q a0 s) :
    Keeps q a0 (State.cplHeadWrite s ag b v) := by
  unfold State.cplHeadWrite
  try extract_lets +onlyGivenNames x1
  try clear_value x1
  with_reducible apply Keeps.ite
  · with_reducible apply State.refuseBlock_keeps; assumption
  · with_reducible apply State.setReg_keeps; assumption

theorem State.tokenErrClear_keeps {q : Prop} {a0 : State} (s : State) (b : Nat) (v : W64) (hs : Keeps q a0 s) :
    Keeps q a0 (State.tokenErrClear s b v) := by
  unfold State.tokenErrClear
  with_reducible apply State.updBlock_keeps; assumption

theorem State.countClear_keeps {q : Prop} {a0 : State} (s : State) (v : W64) (gs : List Reg) (hs : Keeps q a0 s) :
    Keeps q a0 (State.countClear s v gs) := by
  unfold State.countClear
  with_reducible apply Keeps.ite
  · with_reducible apply State.zeroRegs_keeps; assumption
  · assumption

theorem State.writeBlk_keeps {q : Prop} {a0 : State} (s : State) (ag : Agent) (b : Nat) (o : Nat) (v : W64) (hs : Keeps q a0 s) :
    Keeps q a0 (State.writeBlk s ag b o v) := by
  unfold State.writeBlk
  with_reducible apply Keeps.ite
  · with_reducible apply Keeps.ite
    · with_reducible apply State.updBlock_keeps; assumption
    · assumption
  · with_reducible apply Keeps.ite
    · with_reducible apply State.seqCtrlWrite_keeps; assumption
    · with_reducible apply Keeps.ite
      · with_reducible apply Keeps.ite
        · with_reducible apply State.setReg_keeps; assumption
        · with_reducible apply State.refuseBlock_keeps; assumption
      · with_reducible apply Keeps.ite
        · with_reducible apply Keeps.ite
          · with_reducible apply State.setReg_keeps; assumption
          · with_reducible apply State.refuseBlock_keeps; assumption
        · with_reducible apply Keeps.ite
          · with_reducible apply State.cplCtrlWrite_keeps; assumption
          · with_reducible apply Keeps.ite
            · with_reducible apply State.cplHeadWrite_keeps; assumption
            · with_reducible apply Keeps.ite
              · with_reducible apply State.tokenErrClear_keeps; assumption
              · with_reducible apply Keeps.ite
                · with_reducible apply State.asyncClear_keeps; assumption
                · with_reducible apply Keeps.ite
                  · with_reducible apply State.countClear_keeps; assumption
                  · with_reducible apply Keeps.ite
                    · with_reducible apply State.countClear_keeps; assumption
                    · assumption

theorem State.blockRelease_keeps {q : Prop} {a0 : State} (s : State) (b : Nat) (hs : Keeps q a0 s) :
    Keeps q a0 (State.blockRelease s b) := by
  unfold State.blockRelease
  with_reducible apply Keeps.ite
  · with_reducible apply State.releaseReset_keeps; assumption
  · assumption

theorem State.doubleTrap_keeps {q : Prop} {a0 : State} (s : State) (b : ℕ) (hs : Keeps q a0 s) :
    Keeps q a0 (State.doubleTrap s b) := by
  unfold State.doubleTrap
  with_reducible apply Keeps.ite
  · with_reducible apply State.seqHalt_keeps
    assumption
  · assumption

theorem State.dmaCfgWrite_keeps {q : Prop} {a0 : State} (s : State) (ag : Agent) (r : Nat) (c : Nat) (w : Nat) (v : W64) (hs : Keeps q a0 s) :
    Keeps q a0 (State.dmaCfgWrite s ag r c w v) := by
  unfold State.dmaCfgWrite
  with_reducible apply Keeps.ite
  · with_reducible apply State.setReg_keeps; assumption
  · with_reducible apply State.dmaRefuse_keeps; assumption

theorem State.writeDmaChan_keeps {q : Prop} {a0 : State} (s : State) (ag : Agent) (r : ℕ) (c : ℕ) (w : ℕ) (v : W64) (hs : Keeps q a0 s) :
    Keeps q a0 (State.writeDmaChan s ag r c w v) := by
  unfold State.writeDmaChan
  with_reducible apply Keeps.ite
  · with_reducible apply State.dmaCtrlWrite_keeps
    assumption
  · with_reducible apply Keeps.ite
    · with_reducible apply State.dmaCfgWrite_keeps
      assumption
    · with_reducible apply Keeps.ite
      · with_reducible apply Keeps.ite
        · with_reducible apply State.dmaRefuse_keeps
          assumption
        · with_reducible apply State.dmaCfgWrite_keeps
          assumption
      · with_reducible apply Keeps.ite
        · with_reducible apply State.dmaCfgWrite_keeps
          assumption
        · with_reducible apply Keeps.ite
          · with_reducible apply State.dmaCfgWrite_keeps
            assumption
          · with_reducible apply Keeps.ite
            · with_reducible apply State.dmaDoorbell_keeps
              assumption
            · with_reducible apply Keeps.ite
              · with_reducible apply State.setReg_keeps
                assumption
              · with_reducible apply Keeps.ite
                · with_reducible apply State.countClear_keeps
                  assumption
                · assumption

theorem State.writeHbm_keeps {q : Prop} {a0 : State} (s : State) (ag : Agent) (r o : Nat) (v : W64) (hs : Keeps q a0 s) :
    Keeps q a0 (State.writeHbm s ag r o v) := by
  unfold State.writeHbm
  split
  · with_reducible apply Keeps.ite
    · exact State.chCtrlWrite_keeps _ _ _ _ hs
    · with_reducible apply Keeps.ite
      · exact State.tgWrite_keeps _ _ _ _ hs
      · with_reducible apply Keeps.ite
        · exact State.setReg_keeps _ _ _ hs
        · with_reducible apply Keeps.ite
          · exact State.setReg_keeps _ _ _ hs
          · exact hs
  · exact hs

theorem State.kilnCfgWrite_keeps {q : Prop} {a0 : State} (s : State) (ag : Agent) (r : Nat) (v : W64) (hs : Keeps q a0 s) :
    Keeps q a0 (State.kilnCfgWrite s ag r v) := by
  unfold State.kilnCfgWrite
  with_reducible apply Keeps.ite
  · with_reducible apply State.setAll_keeps; assumption
  · with_reducible apply State.kilnRefuse_keeps; assumption

theorem State.collCtrlWrite_keeps {q : Prop} {a0 : State} (s : State) (ag : Agent) (r : Nat) (c : Nat) (v : W64) (hs : Keeps q a0 s) :
    Keeps q a0 (State.collCtrlWrite s ag r c v) := by
  unfold State.collCtrlWrite
  with_reducible apply Keeps.ite
  · with_reducible apply State.refuseColl_keeps; assumption
  · with_reducible apply Keeps.ite
    · with_reducible apply State.strumLoad_keeps; assumption
    · with_reducible apply Keeps.ite
      · with_reducible apply State.strumStart_keeps; assumption
      · with_reducible apply Keeps.ite
        · with_reducible apply State.strumAbort_keeps; assumption
        · with_reducible apply Keeps.ite
          · with_reducible apply State.strumUnload_keeps; assumption
          · assumption

theorem State.collCfgWrite_keeps {q : Prop} {a0 : State} (s : State) (ag : Agent) (r : Nat) (c : Nat) (w : Nat) (v : W64) (hs : Keeps q a0 s) :
    Keeps q a0 (State.collCfgWrite s ag r c w v) := by
  unfold State.collCfgWrite
  with_reducible apply Keeps.ite
  · with_reducible apply State.setReg_keeps; assumption
  · with_reducible apply State.log_keeps; assumption

theorem State.writeCollChan_keeps {q : Prop} {a0 : State} (s : State) (ag : Agent) (r : Nat) (c : Nat) (w : Nat) (v : W64) (hs : Keeps q a0 s) :
    Keeps q a0 (State.writeCollChan s ag r c w v) := by
  unfold State.writeCollChan
  with_reducible apply Keeps.ite
  · with_reducible apply State.collCtrlWrite_keeps; assumption
  · with_reducible apply Keeps.ite
    · with_reducible apply State.collCfgWrite_keeps; assumption
    · with_reducible apply Keeps.ite
      · with_reducible apply State.collCfgWrite_keeps; assumption
      · with_reducible apply Keeps.ite
        · with_reducible apply State.collCfgWrite_keeps; assumption
        · with_reducible apply Keeps.ite
          · with_reducible apply State.collCfgWrite_keeps; assumption
          · with_reducible apply Keeps.ite
            · with_reducible apply State.collCfgWrite_keeps; assumption
            · assumption

theorem State.writeColl_keeps {q : Prop} {a0 : State} (s : State) (ag : Agent) (r : Nat) (o : Nat) (v : W64) (hs : Keeps q a0 s) :
    Keeps q a0 (State.writeColl s ag r o v) := by
  unfold State.writeColl
  with_reducible apply Keeps.ite
  · with_reducible apply State.writeCollChan_keeps; assumption
  · with_reducible apply Keeps.ite
    · with_reducible apply State.countClear_keeps; assumption
    · assumption

theorem State.ringBaseWrite_keeps {q : Prop} {a0 : State} (s : State) (v : W64) (hs : Keeps q a0 s) :
    Keeps q a0 (State.ringBaseWrite s v) := by
  unfold State.ringBaseWrite
  with_reducible apply Keeps.ite
  · assumption
  · with_reducible apply State.setAll_keeps; assumption

theorem State.memMaintWrite_keeps {q : Prop} {a0 : State} (s : State) (ag : Agent) (r : Nat) (v : W64) (hs : Keeps q a0 s) :
    Keeps q a0 (State.memMaintWrite s ag r v) := by
  unfold State.memMaintWrite
  with_reducible apply Keeps.ite
  · with_reducible apply State.log_keeps; assumption
  · with_reducible apply State.setReg_keeps; assumption

theorem State.writeMgmt_keeps {q : Prop} {a0 : State} (s : State) (ag : Agent) (r : Nat) (o : Nat) (v : W64) (hs : Keeps q a0 s) :
    Keeps q a0 (State.writeMgmt s ag r o v) := by
  unfold State.writeMgmt
  with_reducible apply Keeps.ite
  · with_reducible apply State.setReg_keeps; assumption
  · with_reducible apply Keeps.ite
    · with_reducible apply Keeps.ite
      · with_reducible apply State.rejoin_keeps; assumption
      · assumption
    · with_reducible apply Keeps.ite
      · with_reducible apply State.blkMuteWrite_keeps; assumption
      · with_reducible apply Keeps.ite
        · with_reducible apply State.countClear_keeps; assumption
        · with_reducible apply Keeps.ite
          · with_reducible apply State.evidRelease_keeps; assumption
          · with_reducible apply Keeps.ite
            · with_reducible apply State.countClear_keeps; assumption
            · with_reducible apply Keeps.ite
              · with_reducible apply State.patCmdWrite_keeps; assumption
              · with_reducible apply Keeps.ite
                · with_reducible apply State.setReg_keeps; assumption
                · with_reducible apply Keeps.ite
                  · with_reducible apply State.groupCtrlWrite_keeps; assumption
                  · with_reducible apply Keeps.ite
                    · with_reducible apply State.countClear_keeps; assumption
                    · with_reducible apply Keeps.ite
                      · with_reducible apply State.memMaintWrite_keeps; assumption
                      · with_reducible apply Keeps.ite
                        · with_reducible apply State.regCfgWrite_keeps; assumption
                        · assumption

theorem State.readMgmt_keeps {q : Prop} {a0 : State} (s : State) (r : ℕ) (o : ℕ) (hs : Keeps q a0 s) :
    Keeps q a0 (State.readMgmt s r o).1 := by
  unfold State.readMgmt
  with_reducible apply Keeps.fst
  assumption

theorem State.periodWrite_keeps {q : Prop} {a0 : State} (s : State) (ag : Agent) (r : Nat) (v : W64) (hs : Keeps q a0 s) :
    Keeps q a0 (State.periodWrite s ag r v) := by
  unfold State.periodWrite
  try extract_lets +onlyGivenNames x1
  try clear_value x1
  with_reducible apply Keeps.ite
  · with_reducible apply State.log_keeps; assumption
  · with_reducible apply Keeps.ite
    · with_reducible apply State.log_keeps; assumption
    · with_reducible apply State.setAll_keeps; assumption

theorem State.noted_keeps {q : Prop} {a0 : State} (old : State) (s : State) (hold : Keeps q a0 old) (hs : Keeps q a0 s) :
    Keeps q a0 (State.noted old s) := by
  unfold State.noted
  with_reducible apply State.collPorts_keeps
  · assumption
  · with_reducible apply State.timeAfter_keeps
    · assumption
    · with_reducible apply State.reportAfter_keeps
      · assumption
      · assumption

theorem State.writeCtl_keeps {q : Prop} {a0 : State} (s : State) (ag : Agent) (r : Nat) (o : Nat) (v : W64) (hs : Keeps q a0 s) :
    Keeps q a0 (State.writeCtl s ag r o v) := by
  unfold State.writeCtl
  with_reducible apply Keeps.ite
  · with_reducible apply State.periodWrite_keeps; assumption
  · with_reducible apply Keeps.ite
    · with_reducible apply Keeps.ite
      · with_reducible apply State.setReg_keeps; assumption
      · assumption
    · with_reducible apply Keeps.ite
      · with_reducible apply State.routeCtrlWrite_keeps; assumption
      · with_reducible apply Keeps.ite
        · with_reducible apply State.setAll_keeps; assumption
        · with_reducible apply Keeps.ite
          · with_reducible apply State.updTime_keeps; assumption
          · with_reducible apply Keeps.ite
            · with_reducible apply State.collNotice_keeps; assumption
            · with_reducible apply Keeps.ite
              · with_reducible apply State.mbxCtrlWrite_keeps; assumption
              · with_reducible apply Keeps.ite
                · with_reducible apply State.setAll_keeps; assumption
                · with_reducible apply Keeps.ite
                  · with_reducible apply State.mbxWordWrite_keeps; assumption
                  · with_reducible apply Keeps.ite
                    · with_reducible apply State.setReg_keeps; assumption
                    · assumption

theorem State.writePwr_keeps {q : Prop} {a0 : State} (s : State) (ag : Agent) (r : Nat) (o : Nat) (v : W64) (hs : Keeps q a0 s) :
    Keeps q a0 (State.writePwr s ag r o v) := by
  unfold State.writePwr
  with_reducible apply Keeps.ite
  · with_reducible apply State.moduleLimitWrite_keeps; assumption
  · with_reducible apply Keeps.ite
    · with_reducible apply State.mgrStatusWrite_keeps; assumption
    · with_reducible apply Keeps.ite
      · with_reducible apply State.inputWrite_keeps; assumption
      · with_reducible apply Keeps.ite
        · with_reducible apply State.countClear_keeps; assumption
        · with_reducible apply Keeps.ite
          · with_reducible apply State.thermalWrite_keeps; assumption
          · with_reducible apply Keeps.ite
            · with_reducible apply State.domainWrite_keeps; assumption
            · with_reducible apply Keeps.ite
              · with_reducible apply State.setReg_keeps; assumption
              · assumption

theorem State.ringCfgWrite_keeps {q : Prop} {a0 : State} (s : State) (v : W64) (hs : Keeps q a0 s) :
    Keeps q a0 (State.ringCfgWrite s v) := by
  unfold State.ringCfgWrite
  with_reducible apply Keeps.ite
  · assumption
  · with_reducible apply State.setAll_keeps; assumption

theorem State.ringEnableWrite_keeps {q : Prop} {a0 : State} (s : State) (v : W64) (hs : Keeps q a0 s) :
    Keeps q a0 (State.ringEnableWrite s v) := by
  unfold State.ringEnableWrite
  try (extract_lets +onlyGivenNames x1
       have hx1 : Keeps q a0 x1 := by
         try dsimp -zeta only [x1]
         with_reducible apply Keeps.ite
         · with_reducible apply State.setAll_keeps; assumption
         · assumption
       clear_value x1)
  with_reducible apply State.exportRing_keeps; with_reducible apply State.setAll_keeps; assumption

theorem State.writeKiln_keeps {q : Prop} {a0 : State} (s : State) (ag : Agent) (r : Nat) (o : Nat) (v : W64) (hs : Keeps q a0 s) :
    Keeps q a0 (State.writeKiln s ag r o v) := by
  unfold State.writeKiln
  with_reducible apply Keeps.ite
  · with_reducible apply State.tagCmdWrite_keeps; assumption
  · with_reducible apply Keeps.ite
    · with_reducible apply State.setReg_keeps; assumption
    · with_reducible apply Keeps.ite
      · with_reducible apply State.setReg_keeps; assumption
      · with_reducible apply Keeps.ite
        · with_reducible apply State.countClear_keeps; assumption
        · with_reducible apply Keeps.ite
          · with_reducible apply State.kilnCfgWrite_keeps; assumption
          · with_reducible apply Keeps.ite
            · with_reducible apply State.ringBaseWrite_keeps; assumption
            · with_reducible apply Keeps.ite
              · with_reducible apply State.ringCfgWrite_keeps; assumption
              · with_reducible apply Keeps.ite
                · with_reducible apply State.ringHeadWrite_keeps; assumption
                · with_reducible apply Keeps.ite
                  · with_reducible apply State.ackSeqWrite_keeps; assumption
                  · with_reducible apply Keeps.ite
                    · with_reducible apply State.setAll_keeps; assumption
                    · with_reducible apply Keeps.ite
                      · with_reducible apply State.ringEnableWrite_keeps; assumption
                      · assumption

theorem State.armRefused_keeps {q : Prop} {a0 : State} (s : State) (ag : Agent) (r : Nat) (o : Nat) (hs : Keeps q a0 s) :
    Keeps q a0 (State.armRefused s ag r o) := by
  unfold State.armRefused
  with_reducible apply State.log_keeps; assumption

theorem State.writeSync_keeps {q : Prop} {a0 : State} (s : State) (ag : Agent) (r : Nat) (o : Nat) (v : W64) (hs : Keeps q a0 s) :
    Keeps q a0 (State.writeSync s ag r o v) := by
  unfold State.writeSync
  with_reducible apply Keeps.ite
  · with_reducible apply State.countClear_keeps; assumption
  · with_reducible apply Keeps.ite
    · split
      · with_reducible apply Keeps.ite
        · with_reducible apply State.armStore_keeps; assumption
        · with_reducible apply State.armRefused_keeps; assumption
      · assumption
    · assumption

theorem State.writeDma_keeps {q : Prop} {a0 : State} (s : State) (ag : Agent) (r : Nat) (o : Nat) (v : W64) (hs : Keeps q a0 s) :
    Keeps q a0 (State.writeDma s ag r o v) := by
  unfold State.writeDma
  with_reducible apply Keeps.ite
  · with_reducible apply State.writeDmaChan_keeps; assumption
  · assumption

theorem State.portCtrlWrite_keeps {q : Prop} {a0 : State} (s : State) (ag : Agent) (k : Nat) (v : W64) (hs : Keeps q a0 s) :
    Keeps q a0 (State.portCtrlWrite s ag k v) := by
  unfold State.portCtrlWrite
  try (extract_lets +onlyGivenNames x1
       have hx1 : Keeps q a0 x1 := by
         try dsimp -zeta only [x1]
         with_reducible apply Keeps.ite
         · with_reducible apply Keeps.ite
           · assumption
           · with_reducible apply State.portEnable_keeps; assumption
         · with_reducible apply Keeps.ite
           · with_reducible apply State.portDisable_keeps; assumption
           · assumption
       clear_value x1)
  with_reducible apply Keeps.ite
  · with_reducible apply State.retrainPort_keeps; assumption
  · assumption

theorem State.writePort_keeps {q : Prop} {a0 : State} (s : State) (ag : Agent) (k : Nat) (w : Nat) (v : W64) (hs : Keeps q a0 s) :
    Keeps q a0 (State.writePort s ag k w v) := by
  unfold State.writePort
  with_reducible apply Keeps.ite
  · with_reducible apply State.portCtrlWrite_keeps; assumption
  · with_reducible apply Keeps.ite
    · with_reducible apply State.countClear_keeps; assumption
    · assumption

theorem State.writeHost_keeps {q : Prop} {a0 : State} (s : State) (ag : Agent) (r : Nat) (o : Nat) (v : W64) (hs : Keeps q a0 s) :
    Keeps q a0 (State.writeHost s ag r o v) := by
  unfold State.writeHost
  with_reducible apply Keeps.ite
  · with_reducible apply State.setReg_keeps; assumption
  · with_reducible apply Keeps.ite
    · with_reducible apply State.setReg_keeps; assumption
    · with_reducible apply Keeps.ite
      · with_reducible apply State.rpEnable_keeps; assumption
      · with_reducible apply Keeps.ite
        · with_reducible apply State.ownershipWrite_keeps; assumption
        · assumption

theorem State.writeLpd_keeps {q : Prop} {a0 : State} (s : State) (ag : Agent) (r : Nat) (o : Nat) (v : W64) (hs : Keeps q a0 s) :
    Keeps q a0 (State.writeLpd s ag r o v) := by
  unfold State.writeLpd
  with_reducible apply Keeps.ite
  · with_reducible apply State.chCtrlWrite_keeps; assumption
  · assumption

theorem State.writeCore_keeps {q : Prop} {a0 : State} (s : State) (c : Nat) (o : Nat) (v : W64) (hs : Keeps q a0 s) :
    Keeps q a0 (State.writeCore s c o v) := by
  unfold State.writeCore
  with_reducible apply Keeps.ite
  · with_reducible apply State.asyncClear_keeps; assumption
  · with_reducible apply Keeps.ite
    · with_reducible apply State.setReg_keeps; assumption
    · assumption

theorem State.writeReg_keeps {q : Prop} {a0 : State} (s : State) (ag : Agent) (g : Reg) (v : W64) (hs : Keeps q a0 s) :
    Keeps q a0 (State.writeReg s ag g v) := by
  unfold State.writeReg
  try extract_lets +onlyGivenNames x1
  try clear_value x1
  try extract_lets +onlyGivenNames x2
  try clear_value x2
  with_reducible apply Keeps.ite
  · assumption
  · with_reducible apply Keeps.ite
    · with_reducible apply State.writeCtl_keeps; assumption
    · with_reducible apply Keeps.ite
      · with_reducible apply State.writePwr_keeps; assumption
      · with_reducible apply Keeps.ite
        · with_reducible apply State.writeKiln_keeps; assumption
        · with_reducible apply Keeps.ite
          · with_reducible apply State.writeSync_keeps; assumption
          · with_reducible apply Keeps.ite
            · with_reducible apply State.writeDma_keeps; assumption
            · with_reducible apply Keeps.ite
              · with_reducible apply State.writeColl_keeps; assumption
              · with_reducible apply Keeps.ite
                · with_reducible apply State.writePort_keeps; assumption
                · with_reducible apply Keeps.ite
                  · with_reducible apply State.writeHost_keeps; assumption
                  · with_reducible apply Keeps.ite
                    · with_reducible apply State.writeHbm_keeps; assumption
                    · with_reducible apply Keeps.ite
                      · with_reducible apply State.writeLpd_keeps; assumption
                      · with_reducible apply Keeps.ite
                        · with_reducible apply State.writeMgmt_keeps; assumption
                        · with_reducible apply Keeps.ite
                          · with_reducible apply State.writeBlk_keeps; assumption
                          · with_reducible apply Keeps.ite
                            · with_reducible apply State.writeCore_keeps; assumption
                            · assumption

theorem State.regWrite_keeps {q : Prop} {a0 : State} (s : State) (ag : Agent) (g : Reg) (v : W64) (hs : Keeps q a0 s) :
    Keeps q a0 (State.regWrite s ag g v) := by
  unfold State.regWrite
  with_reducible apply State.noted_keeps
  · assumption
  · with_reducible apply State.writeReg_keeps; assumption

theorem State.misaligned_keeps {q : Prop} {a0 : State} (s : State) (ag : Agent) (g : Reg) (hs : Keeps q a0 s) :
    Keeps q a0 (State.misaligned s ag g) := by
  unfold State.misaligned
  try extract_lets +onlyGivenNames x1
  try clear_value x1
  with_reducible apply Keeps.ite
  · with_reducible apply State.log_keeps; assumption
  · assumption

theorem State.readLpd_keeps {q : Prop} {a0 : State} (s : State) (r : ℕ) (o : ℕ) (hs : Keeps q a0 s) :
    Keeps q a0 (State.readLpd s r o).1 := by
  unfold State.readLpd
  with_reducible apply Keeps.iteP
  · with_reducible apply Keeps.fst
    assumption
  · with_reducible apply Keeps.iteP
    · with_reducible apply Keeps.fst
      assumption
    · with_reducible apply Keeps.iteP
      · with_reducible apply Keeps.fst
        assumption
      · with_reducible apply Keeps.fst
        assumption

theorem State.readSync_keeps {q : Prop} {a0 : State} (s : State) (ag : Agent) (r : Nat) (o : Nat) (hs : Keeps q a0 s) :
    Keeps q a0 (State.readSync s ag r o).1 := by
  unfold State.readSync
  with_reducible apply Keeps.iteP
  · show Keeps q a0 _
    try dsimp -zeta only
    assumption
  · with_reducible apply Keeps.iteP
    · show Keeps q a0 _
      try dsimp -zeta only
      assumption
    · with_reducible apply Keeps.iteP
      · split
        · with_reducible apply Keeps.iteP
          · with_reducible apply State.armLoad_keeps; assumption
          · show Keeps q a0 _
            try dsimp -zeta only
            with_reducible apply State.armRefused_keeps; assumption
        · show Keeps q a0 _
          try dsimp -zeta only
          assumption
      · show Keeps q a0 _
        try dsimp -zeta only
        assumption

theorem State.readReg_keeps {q : Prop} {a0 : State} (s : State) (ag : Agent) (g : Reg) (hs : Keeps q a0 s) :
    Keeps q a0 (State.readReg s ag g).1 := by
  unfold State.readReg
  extract_lets +onlyGivenNames x1
  clear_value x1
  extract_lets +onlyGivenNames x2
  clear_value x2
  with_reducible apply Keeps.iteP
  · with_reducible apply Keeps.fst
    assumption
  · with_reducible apply Keeps.iteP
    · with_reducible apply Keeps.fst
      assumption
    · with_reducible apply Keeps.iteP
      · with_reducible apply Keeps.fst
        assumption
      · with_reducible apply Keeps.iteP
        · with_reducible apply Keeps.fst
          assumption
        · with_reducible apply Keeps.iteP
          · with_reducible apply State.readSync_keeps
            assumption
          · with_reducible apply Keeps.iteP
            · with_reducible apply Keeps.fst
              assumption
            · with_reducible apply Keeps.iteP
              · with_reducible apply Keeps.fst
                assumption
              · with_reducible apply Keeps.iteP
                · with_reducible apply Keeps.fst
                  assumption
                · with_reducible apply Keeps.iteP
                  · with_reducible apply Keeps.fst
                    assumption
                  · with_reducible apply Keeps.iteP
                    · with_reducible apply Keeps.fst
                      assumption
                    · with_reducible apply Keeps.iteP
                      · with_reducible apply State.readLpd_keeps
                        assumption
                      · with_reducible apply Keeps.iteP
                        · with_reducible apply State.readMgmt_keeps
                          assumption
                        · with_reducible apply Keeps.iteP
                          · with_reducible apply Keeps.fst
                            assumption
                          · with_reducible apply Keeps.iteP
                            · with_reducible apply Keeps.fst
                              assumption
                            · with_reducible apply Keeps.fst
                              assumption

theorem State.writeAddr_keeps {q : Prop} {a0 : State} (s : State) (ag : Agent) (a : Nat) (v : W64) (hs : Keeps q a0 s) :
    Keeps q a0 (State.writeAddr s ag a v) := by
  unfold State.writeAddr
  split
  · with_reducible apply Keeps.ite
    · with_reducible apply State.regWrite_keeps; assumption
    · with_reducible apply State.misaligned_keeps; assumption
  · assumption

theorem State.misalignedAccess_keeps {q : Prop} {a0 : State} (s : State) (ag : Agent) (a : Nat) (size : Nat) (write : Bool) (hs : Keeps q a0 s) :
    Keeps q a0 (State.misalignedAccess s ag a size write) := by
  unfold State.misalignedAccess
  split
  · with_reducible apply Keeps.ite
    · assumption
    · with_reducible apply Keeps.ite
      · with_reducible apply State.misaligned_keeps; assumption
      · with_reducible apply State.deliver_keeps; with_reducible apply State.misaligned_keeps; assumption
  · assumption

theorem State.bar0FnWrite_keeps {q : Prop} {a0 : State} (s : State) (r : Nat) (f : Nat) (off : Nat) (v : W64) (hs : Keeps q a0 s) :
    Keeps q a0 (State.bar0FnWrite s r f off v) := by
  unfold State.bar0FnWrite
  with_reducible apply Keeps.ite
  · with_reducible apply State.slideWrite_keeps; assumption
  · with_reducible apply Keeps.ite
    · assumption
    · with_reducible apply Keeps.ite
      · with_reducible apply State.mbxCtrlWrite_keeps; assumption
      · with_reducible apply Keeps.ite
        · with_reducible apply State.setReg_keeps; assumption
        · with_reducible apply Keeps.ite
          · with_reducible apply State.mbxWordWrite_keeps; assumption
          · assumption

theorem State.completed_keeps {q : Prop} {a0 : State} (s : State) (r : Nat) (f : Nat) (c : Cpl) (ep : Bool) (data : List Byte) (hs : Keeps q a0 s) :
    Keeps q a0 (State.completed s r f c ep data) := by
  unfold State.completed
  with_reducible apply State.emit_keeps; assumption

theorem State.bar0Value_keeps {q : Prop} {a0 : State} (r f : Nat) (x : State × W64) (hs : Keeps q a0 x.1) : Keeps q a0 (State.bar0Value r f x) :=
  State.completed_keeps _ _ _ _ _ _ hs

theorem State.bar0Unowned_keeps {q : Prop} {a0 : State} (s : State) (r : Nat) (f : Nat) (off : Nat) (size : Nat) (write : Option W64) (hs : Keeps q a0 s) :
    Keeps q a0 (State.bar0Unowned s r f off size write) := by
  unfold State.bar0Unowned
  try (extract_lets +onlyGivenNames x1
       have hx1 : Keeps q a0 x1 := by
         try dsimp -zeta only [x1]
         with_reducible apply State.hostLogAdd_keeps; assumption
       clear_value x1)
  with_reducible apply Keeps.ite
  · assumption
  · with_reducible apply State.completed_keeps; assumption

theorem State.bar0Reg_keeps {q : Prop} {a0 : State} (s : State) (r f off : Nat) (write : Option W64) (hs : Keeps q a0 s) :
    Keeps q a0 (State.bar0Reg s r f off write) := by
  unfold State.bar0Reg
  extract_lets +onlyGivenNames ag
  with_reducible apply Keeps.ite
  · split
    · exact State.bar0FnWrite_keeps _ _ _ _ _ hs
    · exact State.bar0Value_keeps _ _ _ hs
  · with_reducible apply Keeps.ite
    · split
      · exact State.armStore_keeps _ _ _ _ _ hs
      · exact State.bar0Value_keeps _ _ _ (State.armLoad_keeps _ _ _ hs)
    · with_reducible apply Keeps.ite
      · extract_lets +onlyGivenNames c w
        with_reducible apply Keeps.ite
        · exact State.bar0Unowned_keeps _ _ _ _ _ _ hs
        · split
          · with_reducible apply Keeps.ite
            · exact State.hostLogAdd_keeps _ _ _ _ _ _ _ hs
            · exact State.noted_keeps _ _ hs (State.writeDmaChan_keeps _ _ _ _ _ _ hs)
          · exact State.bar0Value_keeps _ _ _ hs
      · with_reducible apply Keeps.ite
        · extract_lets +onlyGivenNames c
          with_reducible apply Keeps.ite
          · exact State.bar0Unowned_keeps _ _ _ _ _ _ hs
          · split
            · exact State.noted_keeps _ _ hs (State.writeCollChan_keeps _ _ _ _ _ _ hs)
            · exact State.bar0Value_keeps _ _ _ hs
        · split
          · exact hs
          · exact State.bar0Value_keeps _ _ _ hs

theorem State.deviceRefused_keeps {q : Prop} {a0 : State} (s : State) (r : Nat) (k : Nat) (reqId : Nat) (status : Nat) (cause : Nat) (a : Nat) (write : Bool) (hs : Keeps q a0 s) :
    Keeps q a0 (State.deviceRefused s r k reqId status cause a write) := by
  unfold State.deviceRefused
  try (extract_lets +onlyGivenNames x1
       have hx1 : Keeps q a0 x1 := by
         try dsimp -zeta only [x1]
         with_reducible apply State.hostLogAdd_keeps; assumption
       clear_value x1)
  with_reducible apply Keeps.ite
  · assumption
  · with_reducible apply State.completed_keeps; assumption

theorem State.serveAtomic_keeps {q : Prop} {a0 : State} (s : State) (ag : Agent) (a : ℕ) (size : ℕ) (op : AtomOp) (v : ℕ) (hs : Keeps q a0 s) :
    (State.serveAtomic s ag a size op v).Keeps q a0 := by
  unfold State.serveAtomic
  extract_lets +onlyGivenNames x1
  clear_value x1
  extract_lets +onlyGivenNames x2
  have hx2 : x2.Keeps q a0 := by
    dsimp -zeta -proj only [x2]
    split
    · rename_i v3
      show Keeps q a0 _
      assumption
    · rename_i v4
      split
      · rename_i v5
        trivial
      · rename_i v6
        show Keeps q a0 _
        with_reducible apply Keeps.ite
        · with_reducible apply State.t4Write_keeps
          with_reducible apply State.engineAtomic_keeps
          assumption
        · with_reducible apply State.engineAtomic_keeps
          assumption
  clear_value x2
  split
  · rename_i v7 v8 v9 v10
    assumption
  · rename_i v11 v12 v13 v14
    assumption
  · rename_i v15 v16 v17 v18
    split
    · rename_i v19
      assumption
    · rename_i v20
      show Keeps q a0 _
      assumption
  · rename_i v21 v22 v23 v24
    split
    · rename_i v25
      show Keeps q a0 _
      assumption
    · rename_i v26
      split
      · rename_i v27
        show Keeps q a0 _
        assumption
      · rename_i v28
        extract_lets +onlyGivenNames x29
        clear_value x29
        extract_lets +onlyGivenNames x30
        clear_value x30
        split
        · rename_i v31
          show Keeps q a0 _
          with_reducible apply State.logPoison_keeps
          assumption
        · rename_i v32
          show Keeps q a0 _
          with_reducible apply State.wrNat_keeps
          assumption
  · rename_i v33 v34 v35
    show Keeps q a0 _
    with_reducible apply State.misaligned_keeps
    assumption
  · rename_i v36 v37 v38 v39 v40 v41
    show Keeps q a0 _
    assumption

theorem State.bar2Atomic_keeps {q : Prop} {a0 : State} (s : State) (r : ℕ) (f : ℕ) (off : ℕ) (size : ℕ) (op : AtomOp) (v : W64) (hs : Keeps q a0 s) :
    ∀ t, (State.bar2Atomic s r f off size op v) = some t → Keeps q a0 t := by
  unfold State.bar2Atomic
  extract_lets +onlyGivenNames x1
  clear_value x1
  extract_lets +onlyGivenNames x2
  clear_value x2
  split
  · rename_i v3
    intro t e
    cases e
    with_reducible apply State.completed_keeps
    assumption
  · rename_i v4
    split
    · rename_i v5
      intro t e
      cases e
      with_reducible apply State.completed_keeps
      with_reducible apply State.hostLogAdd_keeps
      assumption
    · rename_i v6
      split
      · rename_i v7
        intro t e
        cases e
        with_reducible apply State.completed_keeps
        with_reducible apply State.hostLogAdd_keeps
        assumption
      · rename_i v8
        split
        · rename_i v9 v10 v11 v12 v13
          have h14 : Keeps q a0 v10 := by
            refine Served.Keeps.reply ?_ v13
            with_reducible apply State.serveAtomic_keeps
            assumption
          intro t e
          cases e
          with_reducible apply State.completed_keeps
          assumption
        · rename_i v15 v16
          intro t e
          cases e
        · rename_i v17 v18 v19 v20
          intro t e
          cases e
          assumption

theorem State.wrMasked_keeps {q : Prop} {a0 : State} (s : State) (a : ℕ) (bs : List Byte) (m : ℕ) (hs : Keeps q a0 s) :
    Keeps q a0 (State.wrMasked s a bs m) := by
  unfold State.wrMasked
  with_reducible apply Keeps.foldl
  · intro w1 w2 w3
    extract_lets +onlyGivenNames x4
    clear_value x4
    with_reducible apply Keeps.ite
    · with_reducible apply State.wrBytes_keeps
      assumption
    · with_reducible apply Keeps.foldl
      · intro w5 w6 w7
        with_reducible apply Keeps.ite
        · with_reducible apply State.wrBytes_keeps
          assumption
        · assumption
      · assumption
  · assumption

theorem State.bar0Peg_keeps {q : Prop} {a0 : State} (s : State) (r : Nat) (f : Nat) (off : Nat) (size : Nat) (write : Option W64) (hs : Keeps q a0 s) :
    Keeps q a0 (State.bar0Peg s r f off size write) := by
  unfold State.bar0Peg
  try extract_lets +onlyGivenNames x1
  try clear_value x1
  try extract_lets +onlyGivenNames x2
  try clear_value x2
  try extract_lets +onlyGivenNames x3
  try clear_value x3
  with_reducible apply Keeps.ite
  · with_reducible apply State.bar0Unowned_keeps; assumption
  · with_reducible apply Keeps.ite
    · try (extract_lets +onlyGivenNames x4
           have hx4 : Keeps q a0 x4 := by
             try dsimp -zeta only [x4]
             with_reducible apply State.hostLogAdd_keeps; assumption
           clear_value x4)
      with_reducible apply Keeps.ite
      · assumption
      · with_reducible apply State.completed_keeps; assumption
    · split
      · with_reducible apply State.pegStore_keeps; assumption
      · with_reducible apply Keeps.ite
        · with_reducible apply State.completed_keeps; assumption
        · split
          · rename_i p7 p8 p9 heq
            have hp7 : Keeps q a0 p7 := Keeps.of_pair heq (by
              try dsimp -zeta only
              with_reducible apply State.pegLoad_keeps
              · assumption
              )
            with_reducible apply State.completed_keeps; assumption

theorem State.bar0Access_keeps {q : Prop} {a0 : State} (s : State) (r : ℕ) (f : ℕ) (off : ℕ) (size : ℕ) (write : Option W64) (hs : Keeps q a0 s) :
    Keeps q a0 (State.bar0Access s r f off size write) := by
  unfold State.bar0Access
  with_reducible apply Keeps.ite
  · with_reducible apply Keeps.ite
    · assumption
    · with_reducible apply State.completed_keeps
      assumption
  · with_reducible apply Keeps.ite
    · with_reducible apply State.bar0Peg_keeps
      assumption
    · with_reducible apply Keeps.ite
      · with_reducible apply State.bar0Unowned_keeps
        assumption
      · with_reducible apply Keeps.ite
        · with_reducible apply State.bar0Reg_keeps
          assumption
        · with_reducible apply Keeps.ite
          · with_reducible apply State.bar0Reg_keeps
            assumption
          · with_reducible apply Keeps.ite
            · extract_lets +onlyGivenNames x1
              have hx1 : Keeps q a0 x1 := by
                dsimp -zeta -proj only [x1]
                with_reducible apply State.log_keeps
                assumption
              clear_value x1
              with_reducible apply Keeps.ite
              · assumption
              · with_reducible apply State.completed_keeps
                assumption
            · with_reducible apply Keeps.ite
              · assumption
              · with_reducible apply State.completed_keeps
                assumption

theorem State.hostPegAtomic_keeps {q : Prop} {a0 : State} (s : State) (r : ℕ) (f : ℕ) (off : ℕ) (size : ℕ) (op : AtomOp) (v : W64) (hs : Keeps q a0 s) :
    Keeps q a0 (State.hostPegAtomic s r f off size op v) := by
  unfold State.hostPegAtomic
  extract_lets +onlyGivenNames x1
  clear_value x1
  extract_lets +onlyGivenNames x2
  clear_value x2
  extract_lets +onlyGivenNames x3
  have hx3 : ∀ w0, Keeps q a0 w0 → Keeps q a0 (x3 w0) := by
    dsimp -zeta -proj only [x3]
    intro w4 w5
    with_reducible apply State.log_keeps
    assumption
  clear_value x3
  extract_lets +onlyGivenNames x6
  have hx6 : ∀ w0, Keeps q a0 w0 → Keeps q a0 (x6 w0) := by
    dsimp -zeta -proj only [x6]
    intro w7 w8
    with_reducible apply State.completed_keeps
    with_reducible apply State.hostLogAdd_keeps
    with_reducible apply Keeps.ite
    · with_reducible apply hx3
      assumption
    · assumption
  clear_value x6
  with_reducible apply Keeps.ite
  · with_reducible apply State.completed_keeps
    assumption
  · with_reducible apply Keeps.ite
    · with_reducible apply State.bar0Unowned_keeps
      assumption
    · split
      · rename_i v9 v10
        with_reducible apply Keeps.ite
        · with_reducible apply hx6
          assumption
        · with_reducible apply State.completed_keeps
          with_reducible apply hx3
          assumption
      · rename_i v11
        with_reducible apply Keeps.ite
        · with_reducible apply hx6
          assumption
        · with_reducible apply Keeps.ite
          · with_reducible apply State.completed_keeps
            assumption
          · with_reducible apply State.completed_keeps
            with_reducible apply State.pegAdd_keeps
            assumption
      · rename_i v12
        with_reducible apply Keeps.ite
        · with_reducible apply hx6
          assumption
        · with_reducible apply Keeps.ite
          · with_reducible apply State.completed_keeps
            assumption
          · with_reducible apply State.completed_keeps
            with_reducible apply State.pegSet_keeps
            assumption
      · rename_i v13 v14
        with_reducible apply hx6
        assumption

end Sys2Proof.Machine
end

