-- ==== Sys2Proof/Laws/KeepsOps7.lean ====
section
/-!
SUPPORT. Operations of the module, part 7 of 7: each leaves `Keeps` true.
-/
namespace Sys2Proof.Machine

theorem State.serveRead_keeps {q : Prop} {a0 : State} (s : State) (ag : Agent) (a n : Nat) (hs : Keeps q a0 s) :
    (s.serveRead ag a n).Keeps q a0 := by
  unfold State.serveRead
  split
  case' h_5 => split
  case' h_4 => split
  case' h_3 => split
  case' h_3.isFalse => split
  case' h_1 => split
  case' h_2 => split
  all_goals first
    | trivial
    | exact hs
    | exact State.readBytes_keeps _ _ _ _ hs
    | exact State.readReg_keeps _ _ _ hs
    | exact State.misaligned_keeps _ _ _ hs

theorem State.bar2Read_keeps {q : Prop} {a0 : State} (s : State) (r : ℕ) (f : ℕ) (off : ℕ) (n : ℕ) (hs : Keeps q a0 s) :
    ∀ t, (State.bar2Read s r f off n) = some t → Keeps q a0 t := by
  unfold State.bar2Read
  extract_lets +onlyGivenNames x1
  clear_value x1
  split
  · rename_i v2
    intro t e
    cases e
    with_reducible apply State.completed_keeps
    assumption
  · rename_i v3
    split
    · rename_i v4
      intro t e
      cases e
      with_reducible apply State.completed_keeps
      with_reducible apply State.hostLogAdd_keeps
      assumption
    · rename_i v5
      split
      · rename_i v6 v7 v8 v9 v10
        have h11 : Keeps q a0 v7 := by
          refine Served.Keeps.reply ?_ v10
          with_reducible apply State.serveRead_keeps
          assumption
        intro t e
        cases e
        with_reducible apply State.completed_keeps
        assumption
      · rename_i v12 v13
        intro t e
        cases e
      · rename_i v14 v15 v16 v17
        intro t e
        cases e
        assumption

theorem State.serveWrite_keeps {q : Prop} {a0 : State} (s : State) (ag : Agent) (a : ℕ) (bs : List Byte) (m : Option ℕ) (hs : Keeps q a0 s) :
    (State.serveWrite s ag a bs m).Keeps q a0 := by
  unfold State.serveWrite
  extract_lets +onlyGivenNames x1
  have hx1 : ∀ w0, Keeps q a0 w0 → (x1 w0).Keeps q a0 := by
    dsimp -zeta -proj only [x1]
    intro w2 w3
    split
    · rename_i v4
      trivial
    · rename_i v5
      split
      · rename_i v6 v7
        show Keeps q a0 _
        with_reducible apply State.engineWrite_keeps
        assumption
      · rename_i v8
        show Keeps q a0 _
        with_reducible apply State.writeBytes_keeps
        assumption
  clear_value x1
  split
  · rename_i v9 v10 v11 v12
    with_reducible apply hx1
    assumption
  · rename_i v13 v14 v15 v16
    with_reducible apply hx1
    assumption
  · rename_i v17 v18 v19 v20
    split
    · rename_i v21
      with_reducible apply hx1
      assumption
    · rename_i v22
      show Keeps q a0 _
      assumption
  · rename_i v23 v24 v25 v26
    split
    · rename_i v27
      show Keeps q a0 _
      assumption
    · rename_i v28
      extract_lets +onlyGivenNames x29
      clear_value x29
      extract_lets +onlyGivenNames x30
      have hx30 : Keeps q a0 x30 := by
        dsimp -zeta -proj only [x30]
        split
        · rename_i v31 v32
          with_reducible apply State.wrMasked_keeps
          assumption
        · rename_i v33
          with_reducible apply State.wrBytes_keeps
          assumption
      clear_value x30
      show Keeps q a0 _
      assumption
  · rename_i v34 v35 v36
    split
    · rename_i v37
      show Keeps q a0 _
      with_reducible apply Keeps.ite
      · with_reducible apply State.noted_keeps
        · assumption
        · with_reducible apply State.collNotice_keeps
          assumption
      · with_reducible apply State.regWrite_keeps
        assumption
    · rename_i v38
      show Keeps q a0 _
      with_reducible apply State.misaligned_keeps
      assumption
  · rename_i v39 v40 v41 v42
    trivial
  · rename_i v43 v44 v45 v46
    show Keeps q a0 _
    assumption
  · rename_i v47 v48
    show Keeps q a0 _
    assumption

theorem State.poisonWords_keeps {q : Prop} {a0 : State} (s : State) (a : Nat) (n : Nat) (hs : Keeps q a0 s) :
    Keeps q a0 (State.poisonWords s a n) := by
  unfold State.poisonWords
  with_reducible apply Keeps.foldl
  · intro s2 x2 hs2
    try dsimp -zeta only
    with_reducible apply State.addPoison_keeps; assumption
  · assumption

theorem State.bar2Write_keeps {q : Prop} {a0 : State} (s : State) (r : ℕ) (f : ℕ) (off : ℕ) (data : List Byte) (ep : Bool) (hs : Keeps q a0 s) :
    ∀ t, (State.bar2Write s r f off data ep) = some t → Keeps q a0 t := by
  unfold State.bar2Write
  extract_lets +onlyGivenNames x1
  clear_value x1
  split
  · rename_i v2
    intro t e
    cases e
    assumption
  · rename_i v3
    split
    · rename_i v4
      intro t e
      cases e
      with_reducible apply State.hostLogAdd_keeps
      assumption
    · rename_i v5
      split
      · rename_i v6 v7 v8 v9 v10
        have h11 : Keeps q a0 v7 := by
          refine Served.Keeps.reply ?_ v10
          with_reducible apply State.serveWrite_keeps
          assumption
        intro t e
        cases e
        with_reducible apply Keeps.ite
        · with_reducible apply State.poisonWords_keeps
          assumption
        · assumption
      · rename_i v12 v13
        intro t e
        cases e
      · rename_i v14 v15 v16 v17
        intro t e
        cases e
        assumption

theorem State.deviceServed_keeps {q : Prop} {a0 : State} (s : State) (r : ℕ) (k : ℕ) (m : ℕ) (write : Option (List Byte)) (x : Served) (hs : Keeps q a0 s) (hx : x.Keeps q a0) :
    ∀ t, (State.deviceServed s r k m write x) = some t → Keeps q a0 t := by
  unfold State.deviceServed
  split
  · rename_i v1 v2 v3 v4
    intro t e
    cases e
    split
    · rename_i v5
      with_reducible apply State.completed_keeps
      assumption
    · rename_i v6 v7
      with_reducible apply Keeps.ite
      · with_reducible apply State.t4Write_keeps
        assumption
      · assumption
  · rename_i v8
    intro t e
    cases e
  · rename_i v9 v10 v11
    intro t e
    cases e
    assumption

theorem State.deviceRequest_keeps {q : Prop} {a0 : State} (s : State) (r : ℕ) (k : ℕ) (reqId : ℕ) (pasid : ℕ) (a : ℕ) (storage : Bool) (n : ℕ) (write : Option (List Byte)) (hs : Keeps q a0 s) :
    ∀ t, (State.deviceRequest s r k reqId pasid a storage n write) = some t → Keeps q a0 t := by
  unfold State.deviceRequest
  extract_lets +onlyGivenNames x1
  clear_value x1
  extract_lets +onlyGivenNames x2
  clear_value x2
  extract_lets +onlyGivenNames x3
  clear_value x3
  split
  · rename_i v4
    intro t e
    cases e
    assumption
  · rename_i v5
    split
    · rename_i v6
      intro t e
      cases e
      with_reducible apply State.deviceRefused_keeps
      assumption
    · rename_i v7
      split
      · rename_i v8
        intro t e
        cases e
      · rename_i v9
        split
        · rename_i v10
          intro t e
          cases e
          with_reducible apply State.completed_keeps
          assumption
        · rename_i v11
          split
          · rename_i v12 v13
            intro t e
            cases e
            with_reducible apply State.deviceRefused_keeps
            assumption
          · rename_i v14 v15 v16 v17
            split
            · rename_i v18 v19 v20 v21 v22 v23
              split
              · rename_i v24 v25
                with_reducible apply State.deviceServed_keeps
                · assumption
                · with_reducible apply State.serveWrite_keeps
                  assumption
              · rename_i v26
                with_reducible apply State.deviceServed_keeps
                · assumption
                · with_reducible apply State.serveRead_keeps
                  assumption
            · rename_i v27 v28 v29 v30 v31 v32
              split
              · rename_i v33 v34
                with_reducible apply State.deviceServed_keeps
                · assumption
                · with_reducible apply State.serveWrite_keeps
                  assumption
              · rename_i v35
                with_reducible apply State.deviceServed_keeps
                · assumption
                · with_reducible apply State.serveRead_keeps
                  assumption
            · rename_i v36 v37 v38 v39 v40 v41
              split
              · rename_i v42 v43
                with_reducible apply State.deviceServed_keeps
                · assumption
                · with_reducible apply State.serveWrite_keeps
                  assumption
              · rename_i v44
                with_reducible apply State.deviceServed_keeps
                · assumption
                · with_reducible apply State.serveRead_keeps
                  assumption
            · rename_i v45 v46 v47 v48 v49 v50
              intro t e
              cases e
              with_reducible apply Keeps.ite
              · with_reducible apply State.deviceRefused_keeps
                assumption
              · split
                · rename_i v51 v52
                  with_reducible apply State.pegStore_keeps
                  assumption
                · rename_i v53
                  with_reducible apply Keeps.ite
                  · with_reducible apply State.completed_keeps
                    assumption
                  · split
                    rename_i v54 v55 v56 v57 v58
                    have h59 : Keeps q a0 v55 := by
                      refine Keeps.of_pair v58 ?_
                      with_reducible apply State.pegLoad_keeps
                      assumption
                    with_reducible apply State.completed_keeps
                    assumption
            · rename_i v60 v61 v62 v63 v64
              intro t e
              cases e
              with_reducible apply State.deviceRefused_keeps
              assumption

theorem State.performIn_keeps {q : Prop} {a0 : State} (s : State) (u1 : Instr) (hs : Keeps q a0 s) :
    ∀ t, (State.performIn s u1) = some t → Keeps q a0 t := by
  unfold State.performIn
  split
  · rename_i v1 v2 v3 v4 v5 v6
    intro t e
    cases e
    with_reducible apply State.bar0Access_keeps
    assumption
  · rename_i v7 v8 v9 v10 v11 v12 v13
    intro t e
    cases e
    with_reducible apply State.hostPegAtomic_keeps
    assumption
  · rename_i v14 v15 v16 v17
    intro t e
    cases e
    with_reducible apply State.slideWrite_keeps
    assumption
  · rename_i v18 v19 v20 v21 v22
    with_reducible apply State.bar2Read_keeps
    assumption
  · rename_i v23 v24 v25 v26 v27 v28
    with_reducible apply State.bar2Write_keeps
    assumption
  · rename_i v29 v30 v31 v32 v33 v34 v35
    with_reducible apply State.bar2Atomic_keeps
    assumption
  · rename_i v36 v37 v38 v39 v40 v41 v42 v43 v44
    with_reducible apply State.deviceRequest_keeps
    assumption
  · rename_i v45 v46 v47 v48 v49 v50 v51 v52
    intro t e
    cases e
    assumption

theorem State.admitIn_keeps {q : Prop} {a0 : State} (s : State) (u1 : List Instr) (u2 : List Instr) (hs : Keeps q a0 s) :
    Keeps q a0 (State.admitIn s u1 u2) := by
  induction u1 generalizing s u2
  case nil =>
    unfold State.admitIn
    exact Keeps.put (by assumption) id rfl (Nat.le_refl _) fun _ => rfl
  case cons k1 k2 ih =>
    unfold State.admitIn
    with_reducible apply Keeps.ite
    · with_reducible apply ih
      assumption
    · split
      · rename_i v1 v2 v3
        have h4 : Keeps q a0 v2 := by
          refine Keeps.of_opt v3 ?_
          with_reducible apply State.performIn_keeps
          assumption
        with_reducible apply ih
        assumption
      · rename_i v5 v6
        with_reducible apply ih
        assumption

theorem State.arrive_keeps {q : Prop} {a0 : State} (s : State) (c : Instr) (hs : Keeps q a0 s) :
    Keeps q a0 (State.arrive s c) := by
  unfold State.arrive
  with_reducible apply State.admitIn_keeps
  assumption

theorem State.takeIn_keeps {q : Prop} {a0 : State} (s : State) (p : Packet) (hs : Keeps q a0 s) :
    Keeps q a0 (State.takeIn s p) := by
  unfold State.takeIn
  exact Keeps.put (by assumption) id rfl (Nat.le_refl _) fun _ => rfl

theorem State.finishServed_keeps {q : Prop} {a0 : State} (s : State) (p : Packet) (x : Served) (hs : Keeps q a0 s) (hx : x.Keeps q a0) :
    Keeps q a0 (State.finishServed s p x) := by
  unfold State.finishServed
  split
  · rename_i v1
    assumption
  · rename_i v2 v3 v4 v5
    with_reducible apply Keeps.ite
    · split
      rename_i v6 v7 v8 v9 v10
      with_reducible apply State.t4Write_keeps
      with_reducible apply State.takeIn_keeps
      assumption
    · with_reducible apply State.respond_keeps
      with_reducible apply State.takeIn_keeps
      assumption
  · rename_i v11 v12 v13
    extract_lets +onlyGivenNames x14
    clear_value x14
    extract_lets +onlyGivenNames x15
    clear_value x15
    extract_lets +onlyGivenNames x16
    have hx16 : Keeps q a0 x16 := by
      dsimp -zeta -proj only [x16]
      with_reducible apply State.takeIn_keeps
      assumption
    clear_value x16
    with_reducible apply Keeps.ite
    · with_reducible apply State.issue_keeps
      assumption
    · with_reducible apply State.respond_keeps
      with_reducible apply State.logLost_keeps
      assumption

theorem State.settleIn_keeps {q : Prop} {a0 : State} (s : State) (hs : Keeps q a0 s) :
    Keeps q a0 (State.settleIn s) := by
  unfold State.settleIn
  with_reducible apply Keeps.ite
  · assumption
  · with_reducible apply State.admitIn_keeps
    assumption

theorem State.pegOpAt_keeps {q : Prop} {a0 : State} (s : State) (ag : Agent) (p : Nat) (off : Nat) (op : Nat) (v : W64) (hs : Keeps q a0 s) :
    Keeps q a0 (State.pegOpAt s ag p off op v).1 := by
  unfold State.pegOpAt
  try extract_lets +onlyGivenNames x1
  try clear_value x1
  try extract_lets +onlyGivenNames x2
  try clear_value x2
  split
  · with_reducible apply Keeps.iteP
    · show Keeps q a0 _
      try dsimp -zeta only
      assumption
    · split
      · rename_i p4 p5 p6 heq
        have hp4 : Keeps q a0 p4 := Keeps.of_pair heq (by
          try dsimp -zeta only
          with_reducible apply State.pegLoad_keeps
          · assumption
          )
        show Keeps q a0 _
        try dsimp -zeta only
        assumption
  · show Keeps q a0 _
    try dsimp -zeta only
    with_reducible apply State.pegStore_keeps; assumption
  · with_reducible apply Keeps.iteP
    · show Keeps q a0 _
      try dsimp -zeta only
      with_reducible apply State.pegAdd_keeps; assumption
    · show Keeps q a0 _
      try dsimp -zeta only
      assumption
  · with_reducible apply Keeps.iteP
    · show Keeps q a0 _
      try dsimp -zeta only
      with_reducible apply State.pegSet_keeps; assumption
    · show Keeps q a0 _
      try dsimp -zeta only
      assumption
  · with_reducible apply Keeps.iteP
    · show Keeps q a0 _
      try dsimp -zeta only
      with_reducible apply State.pegCas_keeps; assumption
    · show Keeps q a0 _
      try dsimp -zeta only
      assumption
  · show Keeps q a0 _
    try dsimp -zeta only
    assumption

theorem State.fabricPegOp_keeps {q : Prop} {a0 : State} (s : State) (p : Packet) (hs : Keeps q a0 s) :
    Keeps q a0 (State.fabricPegOp s p) := by
  unfold State.fabricPegOp
  with_reducible apply Keeps.ite
  · assumption
  · try extract_lets +onlyGivenNames x1
    try clear_value x1
    split
    · rename_i p2 p3 p4 heq
      have hp2 : Keeps q a0 p2 := Keeps.of_pair heq (by
        try dsimp -zeta only
        split
        · with_reducible apply Keeps.iteP
          · with_reducible apply State.pegOpAt_keeps; assumption
          · show Keeps q a0 _
            try dsimp -zeta only
            assumption
        · show Keeps q a0 _
          try dsimp -zeta only
          assumption
        )
      with_reducible apply State.respond_keeps; with_reducible apply State.takeIn_keeps; assumption

theorem State.fabricMasked_keeps {q : Prop} {a0 : State} (s : State) (p : Packet) (hs : Keeps q a0 s) : Keeps q a0 (State.fabricMasked s p) := by
  unfold State.fabricMasked
  exact Keeps.ite hs (State.finishServed_keeps _ _ _ hs (State.serveWrite_keeps _ _ _ _ _ hs))

theorem State.fabricAtomic_keeps {q : Prop} {a0 : State} (s : State) (p : Packet) (hs : Keeps q a0 s) : Keeps q a0 (State.fabricAtomic s p) := by
  unfold State.fabricAtomic
  apply Keeps.ite hs
  extract_lets +onlyGivenNames size cas c v
  split
  · exact State.finishServed_keeps _ _ _ hs hs
  · exact State.finishServed_keeps _ _ _ hs (State.serveAtomic_keeps _ _ _ _ _ _ hs)

theorem State.fabricAnswer_keeps {q : Prop} {a0 : State} (s : State) (tag : ℕ) (status : ℕ) (data : List Byte) (posted : Bool) (hs : Keeps q a0 s) :
    Keeps q a0 (State.fabricAnswer s tag status data posted) := by
  unfold State.fabricAnswer
  split
  · rename_i v1 v2 v3
    split
    · rename_i v4 v5 v6
      extract_lets +onlyGivenNames x7
      have hx7 : Keeps q a0 x7 := by
        dsimp -zeta -proj only [x7]
        exact Keeps.put (by assumption) id rfl (Nat.le_refl _) fun _ => rfl
      clear_value x7
      with_reducible apply State.answered_keeps
      assumption
    · rename_i v8 v9 v10
      assumption
    · rename_i v11 v12 v13
      assumption
  · rename_i v14 v15
    assumption

theorem State.tick_keeps {q : Prop} {a0 : State} (s : State) (hs : Keeps q a0 s) :
    Keeps q a0 (State.tick s) := by
  unfold State.tick
  with_reducible apply Keeps.ite
  · with_reducible apply State.exportRing_keeps
    with_reducible apply State.routeLoad_keeps
    with_reducible apply State.settleColls_keeps
    with_reducible apply State.settleIn_keeps
    with_reducible apply State.settleHarts_keeps
    exact Keeps.put (by assumption) id rfl (Nat.le_refl _) fun _ => rfl
  · assumption

theorem State.fabricWrite_keeps {q : Prop} {a0 : State} (s : State) (p : Packet) (hs : Keeps q a0 s) : Keeps q a0 (State.fabricWrite s p) := by
  unfold State.fabricWrite
  exact Keeps.ite hs (State.finishServed_keeps _ _ _ hs (State.serveWrite_keeps _ _ _ _ _ hs))

theorem State.hostAnswer_keeps {q : Prop} {a0 : State} (s : State) (tag : ℕ) (status : ℕ) (data : List Byte) (hs : Keeps q a0 s) :
    Keeps q a0 (State.hostAnswer s tag status data) := by
  unfold State.hostAnswer
  split
  · rename_i v1 v2 v3
    split
    · rename_i v4 v5 v6
      with_reducible apply State.answered_keeps
      assumption
    · rename_i v7 v8 v9
      with_reducible apply State.answered_keeps
      assumption
    · rename_i v10 v11 v12
      assumption
  · rename_i v13 v14
    assumption

theorem State.fabricRead_keeps {q : Prop} {a0 : State} (s : State) (p : Packet) (hs : Keeps q a0 s) : Keeps q a0 (State.fabricRead s p) := by
  unfold State.fabricRead
  exact Keeps.ite hs (State.finishServed_keeps _ _ _ hs (State.serveRead_keeps _ _ _ _ hs))

theorem State.wcClear_keeps {q : Prop} {a0 : State} (s : State) (h : Nat) (d : Option OutDest) (lines : List Nat) (hs : Keeps q a0 s) :
    Keeps q a0 (State.wcClear s h d lines) := by
  unfold State.wcClear
  with_reducible apply State.wcFlush_keeps; assumption

theorem State.wcClearPieces_keeps {q : Prop} {a0 : State} (s : State) (h' : ℕ) (ps : List MemPiece) (hs : Keeps q a0 s) :
    Keeps q a0 (State.wcClearPieces s h' ps) := by
  unfold State.wcClearPieces
  with_reducible apply Keeps.foldl
  · intro w1 w2 w3
    with_reducible apply State.wcClear_keeps
    assumption
  · assumption

theorem State.dropLost_keeps {q : Prop} {a0 : State} (s : State) (h : Nat) (line : Nat) (hs : Keeps q a0 s) :
    Keeps q a0 (State.dropLost s h line) := by
  unfold State.dropLost
  with_reducible apply State.dropCopy_keeps; assumption

theorem State.pieceValues_keeps {q : Prop} {a0 : State} (s : State) (h' : ℕ) (base : ℕ) (ps : List MemPiece) (hs : Keeps q a0 s) :
    Keeps q a0 (State.pieceValues s h' base ps).1 := by
  unfold State.pieceValues
  with_reducible apply Keeps.foldlP
  · intro w1 w2 w3
    split
    rename_i v4 v5 v6 v7
    with_reducible apply Keeps.iteP
    · split
      · rename_i v8 v9 v10
        extract_lets +onlyGivenNames x11
        clear_value x11
        with_reducible apply Keeps.fst
        assumption
      · rename_i v12 v13
        with_reducible apply Keeps.fst
        assumption
    · split
      rename_i v14 v15 v16 v17 v18
      have h19 : Keeps q a0 v15 := by
        refine Keeps.of_pair v18 ?_
        with_reducible apply State.readBytes_keeps
        assumption
      with_reducible apply Keeps.fst
      assumption
  · with_reducible apply Keeps.fst
    assumption

theorem State.loadMem_keeps {q : Prop} {a0 : State} (s : State) (h' : ℕ) (a : Access) (ps : List MemPiece) (hs : Keeps q a0 s) :
    Keeps q a0 (State.loadMem s h' a ps) := by
  unfold State.loadMem
  extract_lets +onlyGivenNames x1
  clear_value x1
  extract_lets +onlyGivenNames x2
  clear_value x2
  extract_lets +onlyGivenNames x3
  have hx3 : Keeps q a0 x3 := by
    dsimp -zeta -proj only [x3]
    with_reducible apply State.wcClearPieces_keeps
    assumption
  clear_value x3
  split
  · rename_i v4 v5 v6
    split
    · rename_i v7 v8 v9
      with_reducible apply State.fault_keeps
      with_reducible apply State.hostLogAdd_keeps
      assumption
    · rename_i v10 v11
      assumption
  · rename_i v12 v13
    with_reducible apply Keeps.ite
    · with_reducible apply State.waitFor_keeps
      assumption
    · with_reducible apply Keeps.ite
      · assumption
      · extract_lets +onlyGivenNames x14
        have hx14 : Keeps q a0 x14 := by
          dsimp -zeta -proj only [x14]
          with_reducible apply Keeps.foldl
          · intro w15 w16 w17
            with_reducible apply State.reclaim_keeps
            assumption
          · assumption
        clear_value x14
        split
        · rename_i v18 v19 v20
          with_reducible apply State.hartPoison_keeps
          with_reducible apply State.dropLost_keeps
          assumption
        · rename_i v21 v22
          split
          · rename_i v23 v24 v25
            with_reducible apply State.waitFor_keeps
            with_reducible apply State.loadMiss_keeps
            assumption
          · rename_i v26 v27
            extract_lets +onlyGivenNames x28
            have hx28 : Keeps q a0 x28 := by
              dsimp -zeta -proj only [x28]
              with_reducible apply Keeps.foldl
              · intro w29 w30 w31
                with_reducible apply State.missServed_keeps
                assumption
              · assumption
            clear_value x28
            split
            · rename_i v32 v33 v34 v35 v36
              have h37 : Keeps q a0 v33 := by
                refine Keeps.of_pair v36 ?_
                with_reducible apply State.pieceValues_keeps
                assumption
              with_reducible apply State.hartPoison_keeps
              assumption
            · rename_i v38 v39 v40 v41
              have h42 : Keeps q a0 v39 := by
                refine Keeps.of_pair v41 ?_
                with_reducible apply State.pieceValues_keeps
                assumption
              with_reducible apply State.retireWith_keeps
              assumption

theorem State.onHart_keeps {q : Prop} {a0 : State} (s : State) (h' : ℕ) (f : State → State) (hs : Keeps q a0 s) (hf : ∀ w0, Keeps q a0 w0 → Keeps q a0 (f w0)) :
    Keeps q a0 (State.onHart s h' f) := by
  unfold State.onHart
  extract_lets +onlyGivenNames x1
  have hx1 : Keeps q a0 x1 := by
    dsimp -zeta -proj only [x1]
    with_reducible apply State.trapEnter_keeps
    with_reducible apply State.fetchArrived_keeps
    assumption
  clear_value x1
  with_reducible apply Keeps.ite
  · with_reducible apply hf
    assumption
  · assumption

theorem State.apertureFault_keeps {q : Prop} {a0 : State} (s : State) (h' : ℕ) (cause : ℕ) (va : ℕ) (hs : Keeps q a0 s) :
    Keeps q a0 (State.apertureFault s h' cause va) := by
  unfold State.apertureFault
  with_reducible apply State.fault_keeps
  with_reducible apply State.fabLogAdd_keeps
  assumption

theorem State.refuse_keeps {q : Prop} {a0 : State} (s : State) (h' : ℕ) (cause : ℕ) (va : ℕ) (t : HTarget) (hs : Keeps q a0 s) :
    Keeps q a0 (State.refuse s h' cause va t) := by
  unfold State.refuse
  split
  · rename_i v1 v2
    with_reducible apply State.apertureFault_keeps
    assumption
  · rename_i v3
    with_reducible apply State.fault_keeps
    assumption
  · rename_i v4 v5 v6 v7
    with_reducible apply State.fault_keeps
    with_reducible apply State.hostLogAdd_keeps
    assumption
  · rename_i v8 v9 v10 v11
    with_reducible apply State.fault_keeps
    assumption

theorem State.loadMmio_keeps {q : Prop} {a0 : State} (s : State) (h : Nat) (a : Access) (g : Reg) (hs : Keeps q a0 s) :
    Keeps q a0 (State.loadMmio s h a g) := by
  unfold State.loadMmio
  try extract_lets +onlyGivenNames x1
  try clear_value x1
  with_reducible apply Keeps.ite
  · split
    · rename_i p2 p3 heq
      have hp2 : Keeps q a0 p2 := Keeps.of_pair heq (by
        try dsimp -zeta only
        with_reducible apply State.readReg_keeps
        · assumption
        )
      with_reducible apply State.retireWith_keeps; assumption
  · with_reducible apply State.retireWith_keeps; with_reducible apply State.misaligned_keeps; assumption

theorem State.loadPeg_keeps {q : Prop} {a0 : State} (s : State) (h : Nat) (a : Access) (p : Nat) (off : Nat) (hs : Keeps q a0 s) :
    Keeps q a0 (State.loadPeg s h a p off) := by
  unfold State.loadPeg
  with_reducible apply Keeps.ite
  · with_reducible apply State.fault_keeps; assumption
  · with_reducible apply Keeps.ite
    · with_reducible apply State.hartPoison_keeps; assumption
    · split
      · rename_i p1 p2 p3 heq
        have hp1 : Keeps q a0 p1 := Keeps.of_pair heq (by
          try dsimp -zeta only
          with_reducible apply State.pegLoad_keeps
          · assumption
          )
        with_reducible apply Keeps.ite
        · with_reducible apply State.fault_keeps; assumption
        · with_reducible apply State.retireWith_keeps; assumption

theorem State.askOutside_keeps {q : Prop} {a0 : State} (s : State) (h : Nat) (u2 : OutReq) (hs : Keeps q a0 s) :
    Keeps q a0 (State.askOutside s h u2) := by
  unfold State.askOutside
  with_reducible apply Keeps.ite
  · with_reducible apply State.waitFor_keeps; with_reducible apply State.issue_keeps; assumption
  · with_reducible apply State.fault_keeps; with_reducible apply State.logLost_keeps; assumption

theorem State.loadOut_keeps {q : Prop} {a0 : State} (s : State) (h : Nat) (a : Access) (d : OutDest) (x : Nat) (hs : Keeps q a0 s) :
    Keeps q a0 (State.loadOut s h a d x) := by
  unfold State.loadOut
  try extract_lets +onlyGivenNames x1
  try clear_value x1
  try extract_lets +onlyGivenNames x2
  try clear_value x2
  try (extract_lets +onlyGivenNames x3
       have hx3 : Keeps q a0 x3 := by
         try dsimp -zeta only [x3]
         with_reducible apply State.wcClear_keeps; assumption
       clear_value x3)
  with_reducible apply Keeps.ite
  · with_reducible apply State.fault_keeps; assumption
  · with_reducible apply Keeps.ite
    · with_reducible apply State.waitFor_keeps; assumption
    · with_reducible apply State.askOutside_keeps; assumption

theorem State.loadHome_keeps {q : Prop} {a0 : State} (s : State) (h' : ℕ) (a : Access) (m : ℕ) (hs : Keeps q a0 s) :
    Keeps q a0 (State.loadHome s h' a m) := by
  unfold State.loadHome
  extract_lets +onlyGivenNames x1
  clear_value x1
  extract_lets +onlyGivenNames x2
  have hx2 : Keeps q a0 x2 := by
    dsimp -zeta -proj only [x2]
    with_reducible apply State.wcClear_keeps
    assumption
  clear_value x2
  with_reducible apply Keeps.ite
  · with_reducible apply State.waitFor_keeps
    assumption
  · with_reducible apply Keeps.ite
    · assumption
    · split
      rename_i v3 v4 v5 v6 v7
      have h8 : Keeps q a0 v4 := by
        refine Keeps.of_pair v7 ?_
        with_reducible apply State.readBytes_keeps
        assumption
      split
      · rename_i v9 v10
        have h11 : Keeps q a0 v4 := by
          refine Keeps.of_pair v7 ?_
          with_reducible apply State.readBytes_keeps
          assumption
        with_reducible apply State.hartPoison_keeps
        assumption
      · rename_i v12
        have h13 : Keeps q a0 v4 := by
          refine Keeps.of_pair v7 ?_
          with_reducible apply State.readBytes_keeps
          assumption
        with_reducible apply State.retireWith_keeps
        assumption

theorem State.loadStore_keeps {q : Prop} {a0 : State} (s : State) (h : Nat) (a : Access) (b : Nat) (off : Nat) (hs : Keeps q a0 s) :
    Keeps q a0 (State.loadStore s h a b off) := by
  unfold State.loadStore
  try extract_lets +onlyGivenNames x1
  try clear_value x1
  with_reducible apply Keeps.ite
  · with_reducible apply State.hartPoison_keeps; assumption
  · split
    · with_reducible apply State.hartPoison_keeps; assumption
    · with_reducible apply State.retireWith_keeps; assumption

theorem State.loadIo_keeps {q : Prop} {a0 : State} (s : State) (h' : ℕ) (a : Access) (t : HTarget) (hs : Keeps q a0 s) :
    Keeps q a0 (State.loadIo s h' a t) := by
  unfold State.loadIo
  extract_lets +onlyGivenNames x1
  split
  · rename_i v2 v3
    with_reducible apply State.loadMmio_keeps
    assumption
  · rename_i v4 v5 v6
    with_reducible apply State.loadPeg_keeps
    assumption
  · rename_i v7 v8 v9 v10
    with_reducible apply State.loadOut_keeps
    assumption
  · rename_i v11
    with_reducible apply State.refuse_keeps
    assumption
  · rename_i v12
    with_reducible apply State.refuse_keeps
    assumption
  · rename_i v13 v14
    with_reducible apply State.refuse_keeps
    assumption
  · rename_i v15 v16 v17 v18 v19 v20 v21
    with_reducible apply Keeps.ite
    · with_reducible apply State.fault_keeps
      assumption
    · split
      · rename_i v22 v23 v24
        with_reducible apply State.loadHome_keeps
        assumption
      · rename_i v25 v26 v27
        with_reducible apply State.loadHome_keeps
        assumption
      · rename_i v28 v29
        with_reducible apply State.loadStore_keeps
        assumption
      · rename_i v30 v31 v32
        with_reducible apply State.loadStore_keeps
        assumption
      · rename_i v33 v34
        with_reducible apply State.retireWith_keeps
        assumption
      · rename_i v35 v36 v37 v38 v39 v40
        with_reducible apply State.refuse_keeps
        assumption

theorem State.hartLoad_keeps {q : Prop} {a0 : State} (s : State) (h' : ℕ) (a : Access) (hs : Keeps q a0 s) :
    Keeps q a0 (State.hartLoad s h' a) := by
  unfold State.hartLoad
  with_reducible apply State.onHart_keeps
  · assumption
  · intro w1 w2
    with_reducible apply Keeps.ite
    · assumption
    · split
      · rename_i v3 v4 v5 v6
        with_reducible apply State.refuse_keeps
        assumption
      · rename_i v7 v8
        split
        · rename_i v9 v10 v11
          with_reducible apply State.loadMem_keeps
          assumption
        · rename_i v12 v13
          with_reducible apply State.loadIo_keeps
          assumption

theorem State.hartSc_keeps {q : Prop} {a0 : State} (s : State) (h' : ℕ) (a : Access) (v : W64) (hs : Keeps q a0 s) :
    Keeps q a0 (State.hartSc s h' a v) := by
  unfold State.hartSc
  with_reducible apply State.onHart_keeps
  · assumption
  · intro w1 w2
    with_reducible apply Keeps.ite
    · assumption
    · split
      · rename_i v3 v4 v5
        with_reducible apply Keeps.ite
        · with_reducible apply State.fault_keeps
          assumption
        · extract_lets +onlyGivenNames x6
          have hx6 : Keeps q a0 x6 := by
            dsimp -zeta -proj only [x6]
            with_reducible apply State.pushOut_keeps
            assumption
          clear_value x6
          with_reducible apply Keeps.ite
          · with_reducible apply State.waitFor_keeps
            assumption
          · with_reducible apply Keeps.ite
            · with_reducible apply State.hartPoison_keeps
              with_reducible apply State.dropLost_keeps
              assumption
            · extract_lets +onlyGivenNames x7
              clear_value x7
              split
              · rename_i v8 v9 v10
                with_reducible apply State.hartPoison_keeps
                assumption
              · rename_i v11 v12
                extract_lets +onlyGivenNames x13
                clear_value x13
                extract_lets +onlyGivenNames x14
                have hx14 : Keeps q a0 x14 := by
                  dsimp -zeta -proj only [x14]
                  with_reducible apply State.endReservation_keeps
                  assumption
                clear_value x14
                split
                · rename_i v15 v16 v17
                  with_reducible apply Keeps.ite
                  · with_reducible apply State.retireWith_keeps
                    with_reducible apply State.setCache_keeps
                    assumption
                  · with_reducible apply State.retireWith_keeps
                    assumption
                · rename_i v18 v19
                  with_reducible apply State.retireWith_keeps
                  assumption
      · rename_i v20 v21
        with_reducible apply State.refuse_keeps
        assumption

theorem State.wcPiece_keeps {q : Prop} {a0 : State} (s : State) (h : Nat) (d : Option OutDest) (p : MemPiece) (v : Nat) (hs : Keeps q a0 s) :
    ∀ t, State.wcPiece s h d p v = some t → Keeps q a0 t := by
  intro t e
  unfold State.wcPiece at e
  extract_lets +onlyGivenNames line hit s1 at e
  have h1 : Keeps q a0 s1 := by
    apply Keeps.ite hs
    split
    · exact State.wcFlush_keeps _ _ _ hs
    · exact hs
  clear_value s1
  split at e <;> cases e
  exact State.wcStore_keeps _ _ _ _ _ _ _ h1

theorem State.combinePieces_keeps {q : Prop} {a0 : State} (s : State) (h' : ℕ) (base : ℕ) (v : ℕ) (ps : List MemPiece) (hs : Keeps q a0 s) :
    ∀ t, (State.combinePieces s h' base v ps) = some t → Keeps q a0 t := by
  unfold State.combinePieces
  refine Keeps.foldlM (fun s x h => ?_) ?_
  · split
    · rename_i v1 v2 v3
      intro t e
      cases e
      with_reducible apply State.deadStore_keeps
      assumption
    · rename_i v4 v5 v6
      with_reducible apply State.wcPiece_keeps
      assumption
    · rename_i v7 v8 v9
      with_reducible apply State.wcPiece_keeps
      assumption
  · assumption

theorem State.storeMem_keeps {q : Prop} {a0 : State} (s : State) (h' : ℕ) (ps : List HeldStore) (hold : ℕ) (hs : Keeps q a0 s) :
    Keeps q a0 (State.storeMem s h' ps hold) := by
  unfold State.storeMem
  extract_lets +onlyGivenNames x1
  clear_value x1
  extract_lets +onlyGivenNames x2
  clear_value x2
  with_reducible apply State.drainStores_keeps
  with_reducible apply State.updHart_keeps
  assumption

theorem State.storePieces_keeps {q : Prop} {a0 : State} (s : State) (h' : ℕ) (a : Access) (ps : List MemPiece) (v : W64) (hold : ℕ) (hs : Keeps q a0 s) :
    Keeps q a0 (State.storePieces s h' a ps v hold) := by
  unfold State.storePieces
  extract_lets +onlyGivenNames x1
  clear_value x1
  extract_lets +onlyGivenNames x2
  clear_value x2
  extract_lets +onlyGivenNames x3
  have hx3 : Keeps q a0 x3 := by
    dsimp -zeta -proj only [x3]
    with_reducible apply State.wcClearPieces_keeps
    assumption
  clear_value x3
  with_reducible apply Keeps.ite
  · with_reducible apply State.waitFor_keeps
    assumption
  · extract_lets +onlyGivenNames x4
    clear_value x4
    split
    · rename_i v5 v6
      with_reducible apply State.waitFor_keeps
      assumption
    · rename_i v7 v8 v9
      have h10 : Keeps q a0 v8 := by
        refine Keeps.of_opt v9 ?_
        with_reducible apply State.combinePieces_keeps
        assumption
      extract_lets +onlyGivenNames x11
      have hx11 : Keeps q a0 x11 := by
        dsimp -zeta -proj only [x11]
        with_reducible apply Keeps.foldl
        · intro w12 w13 w14
          split
          · rename_i v15 v16 v17
            with_reducible apply State.deadStore_keeps
            assumption
          · rename_i v18 v19
            assumption
        · assumption
      clear_value x11
      with_reducible apply State.storeMem_keeps
      with_reducible apply State.retire_keeps
      assumption

theorem State.storeMmio_keeps {q : Prop} {a0 : State} (s : State) (h : Nat) (a : Access) (g : Reg) (v : W64) (hs : Keeps q a0 s) :
    Keeps q a0 (State.storeMmio s h a g v) := by
  unfold State.storeMmio
  try extract_lets +onlyGivenNames x1
  try clear_value x1
  with_reducible apply Keeps.ite
  · with_reducible apply State.retire_keeps; with_reducible apply State.regWrite_keeps; assumption
  · with_reducible apply State.retire_keeps; with_reducible apply State.misaligned_keeps; assumption

theorem State.storePeg_keeps {q : Prop} {a0 : State} (s : State) (h : Nat) (a : Access) (p : Nat) (off : Nat) (v : W64) (hs : Keeps q a0 s) :
    Keeps q a0 (State.storePeg s h a p off v) := by
  unfold State.storePeg
  try extract_lets +onlyGivenNames x1
  try clear_value x1
  with_reducible apply Keeps.ite
  · with_reducible apply State.fault_keeps; assumption
  · try (extract_lets +onlyGivenNames x2
         have hx2 : Keeps q a0 x2 := by
           try dsimp -zeta only [x2]
           with_reducible apply Keeps.ite
           · with_reducible apply State.pushOut_keeps; assumption
           · assumption
         clear_value x2)
    with_reducible apply Keeps.ite
    · with_reducible apply State.waitFor_keeps; assumption
    · with_reducible apply State.retire_keeps; with_reducible apply State.pegStore_keeps; assumption

theorem State.stagingPush_keeps {q : Prop} {a0 : State} (s : State) (h : Nat) (v : W64) (hs : Keeps q a0 s) :
    Keeps q a0 (State.stagingPush s h v) := by
  unfold State.stagingPush
  try extract_lets +onlyGivenNames x1
  try clear_value x1
  try (extract_lets +onlyGivenNames x2
       have hx2 : Keeps q a0 x2 := by
         try dsimp -zeta only [x2]
         with_reducible apply State.pushOut_keeps; assumption
       clear_value x2)
  try extract_lets +onlyGivenNames x3
  try clear_value x3
  with_reducible apply Keeps.ite
  · with_reducible apply State.waitFor_keeps; assumption
  · with_reducible apply State.retire_keeps; with_reducible apply State.pushCmd_keeps; assumption

theorem State.storeStaging_keeps {q : Prop} {a0 : State} (s : State) (h : Nat) (a : Access) (off : Nat) (v : W64) (hs : Keeps q a0 s) :
    Keeps q a0 (State.storeStaging s h a off v) := by
  unfold State.storeStaging
  try extract_lets +onlyGivenNames x1
  try clear_value x1
  with_reducible apply Keeps.ite
  · with_reducible apply State.fault_keeps; assumption
  · with_reducible apply Keeps.ite
    · with_reducible apply State.stagingPush_keeps; assumption
    · try extract_lets +onlyGivenNames x2
      try clear_value x2
      with_reducible apply State.retire_keeps; with_reducible apply State.updBlock_keeps; assumption

theorem State.storeOut_keeps {q : Prop} {a0 : State} (s : State) (h : Nat) (a : Access) (d : OutDest) (x : Nat) (v : W64) (hs : Keeps q a0 s) :
    Keeps q a0 (State.storeOut s h a d x v) := by
  unfold State.storeOut
  try extract_lets +onlyGivenNames x1
  try clear_value x1
  try extract_lets +onlyGivenNames x2
  try clear_value x2
  try extract_lets +onlyGivenNames x3
  try clear_value x3
  try extract_lets +onlyGivenNames x4
  try clear_value x4
  try (extract_lets +onlyGivenNames x5
       have hx5 : Keeps q a0 x5 := by
         try dsimp -zeta only [x5]
         with_reducible apply State.wcClear_keeps; assumption
       clear_value x5)
  with_reducible apply Keeps.ite
  · with_reducible apply State.fault_keeps; assumption
  · try (extract_lets +onlyGivenNames x6
         have hx6 : Keeps q a0 x6 := by
           try dsimp -zeta only [x6]
           with_reducible apply Keeps.ite
           · with_reducible apply State.pushOut_keeps; assumption
           · assumption
         clear_value x6)
    with_reducible apply Keeps.ite
    · with_reducible apply State.waitFor_keeps; assumption
    · try extract_lets +onlyGivenNames x7
      try clear_value x7
      with_reducible apply State.retire_keeps; with_reducible apply State.postWrite_keeps; assumption

theorem State.storeHome_keeps {q : Prop} {a0 : State} (s : State) (h' : ℕ) (a : Access) (m : ℕ) (v : W64) (hs : Keeps q a0 s) :
    Keeps q a0 (State.storeHome s h' a m v) := by
  unfold State.storeHome
  extract_lets +onlyGivenNames x1
  clear_value x1
  extract_lets +onlyGivenNames x2
  have hx2 : Keeps q a0 x2 := by
    dsimp -zeta -proj only [x2]
    with_reducible apply State.wcClear_keeps
    assumption
  clear_value x2
  with_reducible apply Keeps.ite
  · with_reducible apply State.waitFor_keeps
    assumption
  · with_reducible apply Keeps.ite
    · assumption
    · split
      rename_i v3 v4 v5 v6
      have h7 : Keeps q a0 v4 := by
        refine Keeps.of_pair v6 ?_
        with_reducible apply State.writeBytes_keeps
        assumption
      extract_lets +onlyGivenNames x8
      have hx8 : Keeps q a0 x8 := by
        dsimp -zeta -proj only [x8]
        split
        · rename_i v9 v10 v11
          have h12 : Keeps q a0 v4 := by
            refine Keeps.of_pair v6 ?_
            with_reducible apply State.writeBytes_keeps
            assumption
          with_reducible apply Keeps.ite
          · with_reducible apply State.asyncError_keeps
            assumption
          · assumption
        · rename_i v13
          have h14 : Keeps q a0 v4 := by
            refine Keeps.of_pair v6 ?_
            with_reducible apply State.writeBytes_keeps
            assumption
          with_reducible apply State.t4Write_keeps
          assumption
      clear_value x8
      with_reducible apply State.retire_keeps
      assumption

theorem State.storeBlk_keeps {q : Prop} {a0 : State} (s : State) (h : Nat) (a : Access) (b : Nat) (off : Nat) (v : W64) (hs : Keeps q a0 s) :
    Keeps q a0 (State.storeBlk s h a b off v) := by
  unfold State.storeBlk
  try extract_lets +onlyGivenNames x1
  try clear_value x1
  try extract_lets +onlyGivenNames x2
  try clear_value x2
  with_reducible apply Keeps.ite
  · with_reducible apply State.retire_keeps; with_reducible apply State.wrNat_keeps; assumption
  · with_reducible apply State.retire_keeps; with_reducible apply State.asyncError_keeps; with_reducible apply State.log_keeps; assumption

theorem State.storeIo_keeps {q : Prop} {a0 : State} (s : State) (h' : ℕ) (a : Access) (v : W64) (t : HTarget) (hs : Keeps q a0 s) :
    Keeps q a0 (State.storeIo s h' a v t) := by
  unfold State.storeIo
  extract_lets +onlyGivenNames x1
  split
  · rename_i v2 v3
    with_reducible apply State.storeMmio_keeps
    assumption
  · rename_i v4 v5 v6
    with_reducible apply State.storePeg_keeps
    assumption
  · rename_i v7 v8
    with_reducible apply State.storeStaging_keeps
    assumption
  · rename_i v9 v10 v11 v12
    with_reducible apply State.storeOut_keeps
    assumption
  · rename_i v13
    with_reducible apply State.refuse_keeps
    assumption
  · rename_i v14
    with_reducible apply State.refuse_keeps
    assumption
  · rename_i v15 v16
    with_reducible apply State.refuse_keeps
    assumption
  · rename_i v17 v18 v19 v20 v21 v22 v23 v24
    with_reducible apply Keeps.ite
    · with_reducible apply State.fault_keeps
      assumption
    · split
      · rename_i v25 v26 v27
        with_reducible apply State.storeHome_keeps
        assumption
      · rename_i v28 v29 v30
        with_reducible apply State.storeHome_keeps
        assumption
      · rename_i v31 v32
        with_reducible apply State.storeBlk_keeps
        assumption
      · rename_i v33 v34 v35
        with_reducible apply State.storeBlk_keeps
        assumption
      · rename_i v36 v37 v38 v39
        with_reducible apply State.retire_keeps
        with_reducible apply State.deadStore_keeps
        assumption
      · rename_i v40 v41 v42 v43 v44 v45
        with_reducible apply State.refuse_keeps
        assumption

theorem State.hartStore_keeps {q : Prop} {a0 : State} (s : State) (h' : ℕ) (a : Access) (v : W64) (hold : ℕ) (hs : Keeps q a0 s) :
    Keeps q a0 (State.hartStore s h' a v hold) := by
  unfold State.hartStore
  with_reducible apply State.onHart_keeps
  · assumption
  · intro w1 w2
    with_reducible apply Keeps.ite
    · assumption
    · split
      · rename_i v3 v4 v5 v6
        with_reducible apply State.refuse_keeps
        assumption
      · rename_i v7 v8
        split
        · rename_i v9 v10 v11
          with_reducible apply State.storePieces_keeps
          assumption
        · rename_i v12 v13
          with_reducible apply State.storeIo_keeps
          assumption

theorem State.amoOut_keeps {q : Prop} {a0 : State} (s : State) (h : Nat) (a : Access) (d : OutDest) (x : Nat) (op : AmoOp) (v : W64) (hs : Keeps q a0 s) :
    Keeps q a0 (State.amoOut s h a d x op v) := by
  unfold State.amoOut
  try extract_lets +onlyGivenNames x1
  try clear_value x1
  with_reducible apply Keeps.ite
  · with_reducible apply State.fault_keeps; assumption
  · try (extract_lets +onlyGivenNames x2
         have hx2 : Keeps q a0 x2 := by
           try dsimp -zeta only [x2]
           with_reducible apply State.pushOut_keeps; assumption
         clear_value x2)
    with_reducible apply Keeps.ite
    · with_reducible apply State.waitFor_keeps; assumption
    · try extract_lets +onlyGivenNames x3
      try clear_value x3
      with_reducible apply State.askOutside_keeps; assumption

theorem State.fenceI_keeps {q : Prop} {a0 : State} (s : State) (h' : ℕ) (hs : Keeps q a0 s) :
    Keeps q a0 (State.fenceI s h') := by
  unfold State.fenceI
  with_reducible apply State.onHart_keeps
  · assumption
  · intro w1 w2
    extract_lets +onlyGivenNames x3
    have hx3 : Keeps q a0 x3 := by
      dsimp -zeta -proj only [x3]
      with_reducible apply State.pushOut_keeps
      assumption
    clear_value x3
    with_reducible apply Keeps.ite
    · with_reducible apply State.retire_keeps
      exact Keeps.put (by assumption) id rfl (Nat.le_refl _) fun _ => rfl
    · with_reducible apply State.waitFor_keeps
      assumption

theorem State.pegAcqRead_keeps {q : Prop} {a0 : State} (s : State) (a : Agent) (p : Nat) (sc : Nat) (hs : Keeps q a0 s) :
    Keeps q a0 (State.pegAcqRead s a p sc) := by
  unfold State.pegAcqRead
  with_reducible apply Keeps.ite
  · split
    · with_reducible apply State.hartPoison_keeps; assumption
    · assumption
  · split
    · rename_i p3 p4 heq
      have hp3 : Keeps q a0 p3 := Keeps.of_pair heq (by
        try dsimp -zeta only
        with_reducible apply State.pegAcquire_keeps
        · assumption
        )
      split
      · with_reducible apply State.fault_keeps; assumption
      · assumption
      · with_reducible apply State.deliver_keeps; assumption

theorem State.pegCasAmo_keeps {q : Prop} {a0 : State} (s : State) (a : Agent) (p : ℕ) (v : W64) (hs : Keeps q a0 s) :
    Keeps q a0 (State.pegCasAmo s a p v) := by
  unfold State.pegCasAmo
  with_reducible apply Keeps.ite
  · split
    · rename_i v1 v2 v3
      with_reducible apply State.hartPoison_keeps
      assumption
    · rename_i v4 v5
      assumption
  · with_reducible apply State.deliver_keeps
    with_reducible apply State.pegCas_keeps
    assumption

theorem State.atomicMem_keeps {q : Prop} {a0 : State} (s : State) (h' : ℕ) (a : Access) (m : ℕ) (cause : ℕ) (f : State → CLine → State) (hs : Keeps q a0 s) (hf : ∀ w0 w1, Keeps q a0 w0 → Keeps q a0 (f w0 w1)) :
    Keeps q a0 (State.atomicMem s h' a m cause f) := by
  unfold State.atomicMem
  with_reducible apply Keeps.ite
  · with_reducible apply State.fault_keeps
    assumption
  · extract_lets +onlyGivenNames x1
    have hx1 : Keeps q a0 x1 := by
      dsimp -zeta -proj only [x1]
      with_reducible apply State.pushOut_keeps
      assumption
    clear_value x1
    with_reducible apply Keeps.ite
    · with_reducible apply State.waitFor_keeps
      assumption
    · extract_lets +onlyGivenNames x2
      have hx2 : Keeps q a0 x2 := by
        dsimp -zeta -proj only [x2]
        with_reducible apply State.reclaim_keeps
        assumption
      clear_value x2
      with_reducible apply Keeps.ite
      · with_reducible apply State.hartPoison_keeps
        with_reducible apply State.dropLost_keeps
        assumption
      · split
        · rename_i v3 v4
          with_reducible apply State.waitFor_keeps
          with_reducible apply State.storeMiss_keeps
          assumption
        · rename_i v5 v6 v7
          split
          · rename_i v8 v9 v10
            with_reducible apply State.hartPoison_keeps
            assumption
          · rename_i v11 v12
            with_reducible apply hf
            with_reducible apply State.missServed_keeps
            assumption

theorem State.hartXret_keeps {q : Prop} {a0 : State} (s : State) (h' : ℕ) (m : Bool) (hs : Keeps q a0 s) :
    Keeps q a0 (State.hartXret s h' m) := by
  unfold State.hartXret
  extract_lets +onlyGivenNames x1
  clear_value x1
  with_reducible apply Keeps.ite
  · with_reducible apply Keeps.ite
    · with_reducible apply State.setHart_keeps
      assumption
    · with_reducible apply State.fault_keeps
      assumption
  · with_reducible apply Keeps.ite
    · with_reducible apply State.setHart_keeps
      assumption
    · with_reducible apply State.fault_keeps
      assumption

theorem State.pegRelease_keeps {q : Prop} {a0 : State} (s : State) (a : Agent) (p : Nat) (sc : Nat) (v : W64) (hs : Keeps q a0 s) :
    Keeps q a0 (State.pegRelease s a p sc v) := by
  unfold State.pegRelease
  split
  · try (extract_lets +onlyGivenNames x2
         have hx2 : Keeps q a0 x2 := by
           try dsimp -zeta only [x2]
           with_reducible apply State.pushOut_keeps; assumption
         clear_value x2)
    with_reducible apply Keeps.ite
    · with_reducible apply State.pegRelAdd_keeps; assumption
    · assumption
  · with_reducible apply State.pegRelAdd_keeps; assumption

theorem State.hartCsr_keeps {q : Prop} {a0 : State} (s : State) (h' : ℕ) (n : ℕ) (op : AmoOp) (v : W64) (hs : Keeps q a0 s) :
    Keeps q a0 (State.hartCsr s h' n op v) := by
  unfold State.hartCsr
  extract_lets +onlyGivenNames x1
  clear_value x1
  with_reducible apply Keeps.ite
  · with_reducible apply State.fault_keeps
    assumption
  · extract_lets +onlyGivenNames x2
    clear_value x2
    extract_lets +onlyGivenNames x3
    have hx3 : Keeps q a0 x3 := by
      dsimp -zeta -proj only [x3]
      with_reducible apply Keeps.ite
      · with_reducible apply State.csrWrite_keeps
        assumption
      · assumption
    clear_value x3
    with_reducible apply State.retireWith_keeps
    with_reducible apply State.nextFree_keeps
    assumption

theorem State.hartSystem_keeps {q : Prop} {a0 : State} (s : State) (h' : ℕ) (n : ℕ) (op : AmoOp) (v : W64) (hs : Keeps q a0 s) :
    Keeps q a0 (State.hartSystem s h' n op v) := by
  unfold State.hartSystem
  with_reducible apply Keeps.ite
  · with_reducible apply State.hartCsr_keeps
    assumption
  · with_reducible apply Keeps.ite
    · with_reducible apply State.hartXret_keeps
      assumption
    · with_reducible apply Keeps.ite
      · with_reducible apply State.hartXret_keeps
        assumption
      · with_reducible apply Keeps.ite
        · with_reducible apply Keeps.ite
          · with_reducible apply State.fault_keeps
            assumption
          · extract_lets +onlyGivenNames x1
            clear_value x1
            extract_lets +onlyGivenNames x2
            clear_value x2
            with_reducible apply State.retireWith_keeps
            exact Keeps.put (by assumption) id rfl (Nat.le_refl _) fun _ => rfl
        · with_reducible apply State.fault_keeps
          assumption

theorem State.hartLr_keeps {q : Prop} {a0 : State} (s : State) (h' : ℕ) (a : Access) (hs : Keeps q a0 s) :
    Keeps q a0 (State.hartLr s h' a) := by
  unfold State.hartLr
  with_reducible apply State.onHart_keeps
  · assumption
  · intro w1 w2
    with_reducible apply Keeps.ite
    · assumption
    · split
      · rename_i v3 v4 v5
        with_reducible apply State.atomicMem_keeps
        · assumption
        · intro w6 w7 w8
          extract_lets +onlyGivenNames x9
          have hx9 : Keeps q a0 x9 := by
            dsimp -zeta -proj only [x9]
            with_reducible apply State.endReservation_keeps
            assumption
          clear_value x9
          extract_lets +onlyGivenNames x10
          have hx10 : Keeps q a0 x10 := by
            dsimp -zeta -proj only [x10]
            exact Keeps.put (by assumption) id rfl (Nat.le_refl _) fun _ => rfl
          clear_value x10
          with_reducible apply State.retireWith_keeps
          assumption
      · rename_i v11 v12
        with_reducible apply State.refuse_keeps
        assumption

theorem State.wcWriteout_keeps {q : Prop} {a0 : State} (s : State) (h' : ℕ) (line : ℕ) (hs : Keeps q a0 s) :
    Keeps q a0 (State.wcWriteout s h' line) := by
  unfold State.wcWriteout
  with_reducible apply State.trapEnter_keeps
  with_reducible apply State.wcFlush_keeps
  assumption

theorem State.hartWfi_keeps {q : Prop} {a0 : State} (s : State) (h' : ℕ) (hs : Keeps q a0 s) :
    Keeps q a0 (State.hartWfi s h') := by
  unfold State.hartWfi
  with_reducible apply State.onHart_keeps
  · assumption
  · intro w1 w2
    extract_lets +onlyGivenNames x3
    have hx3 : Keeps q a0 x3 := by
      dsimp -zeta -proj only [x3]
      with_reducible apply State.wcFlush_keeps
      assumption
    clear_value x3
    with_reducible apply Keeps.ite
    · with_reducible apply State.waitFor_keeps
      assumption
    · with_reducible apply Keeps.ite
      · with_reducible apply State.retire_keeps
        assumption
      · with_reducible apply State.retire_keeps
        with_reducible apply State.updHart_keeps
        assumption

theorem State.amoHome_keeps {q : Prop} {a0 : State} (s : State) (h' : ℕ) (a : Access) (m : ℕ) (op : AmoOp) (v : W64) (hs : Keeps q a0 s) :
    Keeps q a0 (State.amoHome s h' a m op v) := by
  unfold State.amoHome
  with_reducible apply Keeps.ite
  · with_reducible apply State.fault_keeps
    assumption
  · extract_lets +onlyGivenNames x1
    have hx1 : Keeps q a0 x1 := by
      dsimp -zeta -proj only [x1]
      with_reducible apply State.pushOut_keeps
      assumption
    clear_value x1
    with_reducible apply Keeps.ite
    · with_reducible apply State.waitFor_keeps
      assumption
    · split
      · rename_i v2 v3 v4 v5 v6
        have h7 : Keeps q a0 v3 := by
          refine Served.Keeps.reply ?_ v6
          with_reducible apply State.serveAtomic_keeps
          assumption
        with_reducible apply Keeps.ite
        · with_reducible apply State.retireWith_keeps
          assumption
        · with_reducible apply State.fault_keeps
          assumption
      · rename_i v8 v9
        assumption

theorem State.amoPeg_keeps {q : Prop} {a0 : State} (s : State) (h : Nat) (a : Access) (p : Nat) (off : Nat) (op : AmoOp) (v : W64) (hs : Keeps q a0 s) :
    Keeps q a0 (State.amoPeg s h a p off op v) := by
  unfold State.amoPeg
  with_reducible apply Keeps.ite
  · with_reducible apply State.fault_keeps; assumption
  · try (extract_lets +onlyGivenNames x1
         have hx1 : Keeps q a0 x1 := by
           try dsimp -zeta only [x1]
           with_reducible apply State.pushOut_keeps; assumption
         clear_value x1)
    try extract_lets +onlyGivenNames x2
    try clear_value x2
    with_reducible apply Keeps.ite
    · with_reducible apply State.waitFor_keeps; assumption
    · with_reducible apply Keeps.ite
      · with_reducible apply State.hartPoison_keeps; assumption
      · try extract_lets +onlyGivenNames x3
        try clear_value x3
        try (extract_lets +onlyGivenNames x4
             have hx4 : Keeps q a0 x4 := by
               try dsimp -zeta only [x4]
               with_reducible apply Keeps.ite
               · with_reducible apply State.pegAdd_keeps; assumption
               · with_reducible apply Keeps.ite
                 · with_reducible apply State.pegSet_keeps; assumption
                 · with_reducible apply State.pegCas_keeps; assumption
             clear_value x4)
        with_reducible apply State.retireWith_keeps; assumption

theorem State.amoMem_keeps {q : Prop} {a0 : State} (s : State) (h : Nat) (a : Access) (m : Nat) (op : AmoOp) (v : W64) (hs : Keeps q a0 s) :
    Keeps q a0 (State.amoMem s h a m op v) := by
  unfold State.amoMem
  with_reducible apply State.atomicMem_keeps
  · assumption
  · intro z1 hz1 z2
    try dsimp -zeta only
    try extract_lets +onlyGivenNames x3
    try clear_value x3
    try extract_lets +onlyGivenNames x4
    try clear_value x4
    with_reducible apply State.retireWith_keeps; with_reducible apply State.setCache_keeps; assumption

theorem State.reservationExpire_keeps {q : Prop} {a0 : State} (s : State) (h' : ℕ) (hs : Keeps q a0 s) :
    Keeps q a0 (State.reservationExpire s h') := by
  unfold State.reservationExpire
  split
  · rename_i v1 v2 v3 v4
    with_reducible apply State.endDeferral_keeps
    exact Keeps.put (by assumption) id rfl (Nat.le_refl _) fun _ => rfl
  · rename_i v5 v6
    assumption

theorem State.hartAmo_keeps {q : Prop} {a0 : State} (s : State) (h' : ℕ) (a : Access) (op : AmoOp) (v : W64) (hs : Keeps q a0 s) :
    Keeps q a0 (State.hartAmo s h' a op v) := by
  unfold State.hartAmo
  with_reducible apply State.onHart_keeps
  · assumption
  · intro w1 w2
    with_reducible apply Keeps.ite
    · with_reducible apply State.hartSystem_keeps
      assumption
    · with_reducible apply Keeps.ite
      · assumption
      · extract_lets +onlyGivenNames x3
        clear_value x3
        split
        · rename_i v4 v5
          with_reducible apply State.amoMem_keeps
          assumption
        · rename_i v6 v7 v8
          with_reducible apply State.amoPeg_keeps
          assumption
        · rename_i v9 v10
          with_reducible apply State.amoHome_keeps
          assumption
        · rename_i v11 v12 v13 v14
          with_reducible apply Keeps.ite
          · with_reducible apply State.fault_keeps
            assumption
          · with_reducible apply State.amoOut_keeps
            assumption
        · rename_i v15 v16 v17 v18 v19
          with_reducible apply State.refuse_keeps
          assumption

theorem State.pegAccessFault_keeps {q : Prop} {a0 : State} (s : State) (a : Agent) (addr : Nat) (size : Nat) (write : Bool) (amo : Bool) (hs : Keeps q a0 s) :
    Keeps q a0 (State.pegAccessFault s a addr size write amo) := by
  unfold State.pegAccessFault
  split
  · with_reducible apply Keeps.ite
    · with_reducible apply State.fault_keeps; assumption
    · assumption
  · assumption

theorem State.hartFence_keeps {q : Prop} {a0 : State} (s : State) (h' : ℕ) (pred : FenceSet) (succ : FenceSet) (tso : Bool) (hs : Keeps q a0 s) :
    Keeps q a0 (State.hartFence s h' pred succ tso) := by
  unfold State.hartFence
  with_reducible apply State.onHart_keeps
  · assumption
  · intro w1 w2
    with_reducible apply Keeps.ite
    · assumption
    · extract_lets +onlyGivenNames x3
      have hx3 : Keeps q a0 x3 := by
        dsimp -zeta -proj only [x3]
        with_reducible apply State.leaveStreaming_keeps
        assumption
      clear_value x3
      extract_lets +onlyGivenNames x4
      have hx4 : Keeps q a0 x4 := by
        dsimp -zeta -proj only [x4]
        with_reducible apply Keeps.ite
        · with_reducible apply State.drainStores_keeps
          assumption
        · assumption
      clear_value x4
      extract_lets +onlyGivenNames x5
      have hx5 : Keeps q a0 x5 := by
        dsimp -zeta -proj only [x5]
        with_reducible apply Keeps.ite
        · with_reducible apply State.wcFlush_keeps
          assumption
        · assumption
      clear_value x5
      with_reducible apply Keeps.ite
      · with_reducible apply State.retire_keeps
        assumption
      · with_reducible apply State.waitFor_keeps
        assumption

theorem State.cmdPush_keeps {q : Prop} {a0 : State} (s : State) (b : ℕ) (v : W64) (hs : Keeps q a0 s) :
    Keeps q a0 (State.cmdPush s b v) := by
  unfold State.cmdPush
  extract_lets +onlyGivenNames x1
  clear_value x1
  with_reducible apply Keeps.ite
  · with_reducible apply State.stagingPush_keeps
    assumption
  · extract_lets +onlyGivenNames x2
    have hx2 : Keeps q a0 x2 := by
      dsimp -zeta -proj only [x2]
      with_reducible apply State.pushOut_keeps
      assumption
    clear_value x2
    with_reducible apply Keeps.ite
    · with_reducible apply State.pushCmd_keeps
      assumption
    · assumption

theorem State.lyRowStep_keeps {q : Prop} {a0 : State} (s : State) (b : Nat) (r : Run) (hs : Keeps q a0 s) :
    Keeps q a0 (State.lyRowStep s b r).1 := by
  unfold State.lyRowStep
  try extract_lets +onlyGivenNames x1
  try clear_value x1
  split
  · with_reducible apply State.poisonStop_keeps; assumption
  · show Keeps q a0 _
    try dsimp -zeta only
    with_reducible apply State.storeWrite_keeps; assumption

theorem State.skRow_keeps {q : Prop} {a0 : State} (s : State) (b : Nat) (r : Run) (hs : Keeps q a0 s) : Keeps q a0 (State.skRow s b r).1 := by
  unfold State.skRow
  extract_lets +onlyGivenNames c row z k off dst aux merge
  split
  · exact State.poisonStop_keeps _ _ _ _ hs
  · exact State.storeWrite_keeps _ _ _ _ (State.storeWrite_keeps _ _ _ _ hs)

theorem State.sortStep_keeps {q : Prop} {a0 : State} (s : State) (b : Nat) (op : Nat) (n : Nat) (hs : Keeps q a0 s) :
    Keeps q a0 (State.sortStep s b op n) := by
  unfold State.sortStep
  with_reducible apply State.engineStep_keeps
  · assumption
  · intro z1 hz1 z2 z3 z4
    try dsimp -zeta only
    with_reducible apply State.workUnits_keeps
    · intro z5 hz5 z6
      try dsimp -zeta only
      with_reducible apply State.skRow_keeps; assumption
    · assumption

theorem State.layoutStep_keeps {q : Prop} {a0 : State} (s : State) (b : Nat) (op : Nat) (n : Nat) (hs : Keeps q a0 s) :
    Keeps q a0 (State.layoutStep s b op n) := by
  unfold State.layoutStep
  with_reducible apply State.engineStep_keeps
  · assumption
  · intro z1 hz1 z2 z3 z4
    try dsimp -zeta only
    with_reducible apply State.workUnits_keeps
    · intro z5 hz5 z6
      try dsimp -zeta only
      with_reducible apply State.lyRowStep_keeps; assumption
    · assumption

theorem State.blockEpochAbort_keeps {q : Prop} {a0 : State} (s : State) (b : ℕ) (hs : Keeps q a0 s) :
    Keeps q a0 (State.blockEpochAbort s b) := by
  unfold State.blockEpochAbort
  extract_lets +onlyGivenNames x1
  clear_value x1
  extract_lets +onlyGivenNames x2
  have hx2 : Keeps q a0 x2 := by
    dsimp -zeta -proj only [x2]
    exact Keeps.put (by assumption) id rfl (Nat.le_refl _) fun _ => rfl
  clear_value x2
  with_reducible apply State.updBlock_keeps
  with_reducible apply State.stopAll_keeps
  assumption

theorem State.markStops_keeps {q : Prop} {a0 : State} (s : State) (c : Nat) (hs : Keeps q a0 s) :
    Keeps q a0 (State.markStops s c) := by
  unfold State.markStops
  try (extract_lets +onlyGivenNames x1
       have hx1 : Keeps q a0 x1 := by
         try dsimp -zeta only [x1]
         with_reducible apply Keeps.foldl
         · intro s2 x2 hs2
           try dsimp -zeta only
           with_reducible apply State.blockMark_keeps; with_reducible apply State.gsMark_keeps; assumption
         · assumption
       clear_value x1)
  with_reducible apply Keeps.foldl
  · intro s2 x2 hs2
    try dsimp -zeta only
    with_reducible apply State.dmaMark_keeps; assumption
  · assumption

theorem State.markKiln_keeps {q : Prop} {a0 : State} (s : State) (m : MarkInput) (f : Nat) (hs : Keeps q a0 s) :
    Keeps q a0 (State.markKiln s m f) := by
  unfold State.markKiln
  with_reducible apply State.closeWhere_keeps; with_reducible apply State.kilnMark_keeps; assumption

theorem State.dmaEpochAbort_keeps {q : Prop} {a0 : State} (s : State) (r : ℕ) (c : ℕ) (hs : Keeps q a0 s) :
    Keeps q a0 (State.dmaEpochAbort s r c) := by
  unfold State.dmaEpochAbort
  with_reducible apply State.stopStarted_keeps
  · assumption
  · intro w1 w2 w3
    with_reducible apply State.stopDesc_keeps
    assumption

theorem State.markCount_keeps {a0 : State} (s : State) (count : Nat) (hs : Keeps False a0 s) : Keeps False a0 (s.markCount count) := by
  unfold State.markCount
  with_reducible apply Keeps.put
  · exact hs
  · exact id
  · rfl
  · exact Nat.le_refl _
  · exact fun h => h.elim

theorem State.markSlots_keeps {q : Prop} {a0 : State} (s : State) (hs : Keeps q a0 s) :
    Keeps q a0 (State.markSlots s) := by
  unfold State.markSlots
  try (extract_lets +onlyGivenNames x1
       have hx1 : Keeps q a0 x1 := by
         try dsimp -zeta only [x1]
         with_reducible apply State.slotStart_keeps; with_reducible apply State.collMark_keeps; assumption
       clear_value x1)
  try (extract_lets +onlyGivenNames x2
       have hx2 : Keeps q a0 x2 := by
         try dsimp -zeta only [x2]
         with_reducible apply State.oldRoutesMark_keeps; assumption
       clear_value x2)
  exact Keeps.put (by assumption) id rfl (Nat.le_refl _) fun _ => rfl

theorem State.skewMark_keeps {q : Prop} {a0 : State} (s : State) (r : Nat) (x : Int) (hs : Keeps q a0 s) :
    Keeps q a0 (State.skewMark s r x) := by
  unfold State.skewMark
  try extract_lets +onlyGivenNames x1
  try clear_value x1
  try extract_lets +onlyGivenNames x2
  try clear_value x2
  try extract_lets +onlyGivenNames x3
  try clear_value x3
  with_reducible apply Keeps.ite
  · try (extract_lets +onlyGivenNames x4
         have hx4 : Keeps q a0 x4 := by
           try dsimp -zeta only [x4]
           with_reducible apply State.setReg_keeps; assumption
         clear_value x4)
    with_reducible apply Keeps.ite
    · assumption
    · with_reducible apply State.log_keeps; assumption
  · with_reducible apply State.setReg_keeps; assumption

theorem State.markSteps_keeps {a0 : State} (s : State) (m : MarkInput) (count : ℕ) (hs : Keeps False a0 s) :
    Keeps False a0 (State.markSteps s m count) := by
  unfold State.markSteps
  extract_lets +onlyGivenNames x1
  clear_value x1
  extract_lets +onlyGivenNames x2
  clear_value x2
  extract_lets +onlyGivenNames x3
  have hx3 : Keeps False a0 x3 := by
    dsimp -zeta -proj only [x3]
    with_reducible apply State.watchDue_keeps
    with_reducible apply State.markCount_keeps
    assumption
  clear_value x3
  extract_lets +onlyGivenNames x4
  have hx4 : Keeps False a0 x4 := by
    dsimp -zeta -proj only [x4]
    with_reducible apply Keeps.ite
    · assumption
    · with_reducible apply State.sendHellos_keeps
      assumption
  clear_value x4
  extract_lets +onlyGivenNames x5
  have hx5 : Keeps False a0 x5 := by
    dsimp -zeta -proj only [x5]
    with_reducible apply Keeps.foldl
    · intro w6 w7 w8
      with_reducible apply State.skewMark_keeps
      assumption
    · assumption
  clear_value x5
  extract_lets +onlyGivenNames x9
  have hx9 : Keeps False a0 x9 := by
    dsimp -zeta -proj only [x9]
    with_reducible apply State.markStops_keeps
    with_reducible apply State.fretCorrection_keeps
    assumption
  clear_value x9
  extract_lets +onlyGivenNames x10
  have hx10 : Keeps False a0 x10 := by
    dsimp -zeta -proj only [x10]
    with_reducible apply Keeps.foldl
    · intro w11 w12 w13
      with_reducible apply State.waitRecheck_keeps
      assumption
    · assumption
  clear_value x10
  extract_lets +onlyGivenNames x14
  have hx14 : Keeps False a0 x14 := by
    dsimp -zeta -proj only [x14]
    with_reducible apply State.markKiln_keeps
    assumption
  clear_value x14
  extract_lets +onlyGivenNames x15
  have hx15 : Keeps False a0 x15 := by
    dsimp -zeta -proj only [x15]
    with_reducible apply State.watchMark_keeps
    assumption
  clear_value x15
  extract_lets +onlyGivenNames x16
  have hx16 : Keeps False a0 x16 := by
    dsimp -zeta -proj only [x16]
    with_reducible apply State.powerMark_keeps
    assumption
  clear_value x16
  with_reducible apply State.markSlots_keeps
  assumption

theorem State.fretMark_keeps {a0 : State} (s : State) (m : MarkInput) (hs : Keeps False a0 s) :
    Keeps False a0 (State.fretMark s m) := by
  unfold State.fretMark
  split
  · try (extract_lets +onlyGivenNames x2
         have hx2 : Keeps False a0 x2 := by
           try dsimp -zeta only [x2]
           exact Keeps.put (by assumption) id rfl (Nat.le_refl _) fun _ => rfl
         clear_value x2)
    with_reducible apply State.markSteps_keeps; with_reducible apply State.updTime_keeps; assumption
  · with_reducible apply State.markSteps_keeps; assumption

theorem State.epochAdopt_keeps {a0 : State} (s : State) (count : ℕ) (m : MarkInput) (hs : Keeps False a0 s) :
    Keeps False a0 (State.epochAdopt s count m) := by
  unfold State.epochAdopt
  with_reducible apply Keeps.ite
  · assumption
  · extract_lets +onlyGivenNames x1
    have hx1 : Keeps False a0 x1 := by
      dsimp -zeta -proj only [x1]
      with_reducible apply State.watchDue_keeps
      assumption
    clear_value x1
    extract_lets +onlyGivenNames x2
    have hx2 : Keeps False a0 x2 := by
      dsimp -zeta -proj only [x2]
      with_reducible apply Keeps.foldl
      · intro w3 w4 w5
        with_reducible apply State.blockEpochAbort_keeps
        assumption
      · assumption
    clear_value x2
    extract_lets +onlyGivenNames x6
    have hx6 : Keeps False a0 x6 := by
      dsimp -zeta -proj only [x6]
      with_reducible apply Keeps.ite
      · with_reducible apply State.collEpochAbort_keeps
        with_reducible apply Keeps.foldl
        · intro w7 w8 w9
          with_reducible apply State.dmaEpochAbort_keeps
          assumption
        · assumption
      · assumption
    clear_value x6
    extract_lets +onlyGivenNames x10
    have hx10 : Keeps False a0 x10 := by
      dsimp -zeta -proj only [x10]
      exact Keeps.put (by assumption) id rfl (Nat.le_refl _) fun _ => rfl
    clear_value x10
    extract_lets +onlyGivenNames x11
    have hx11 : Keeps False a0 x11 := by
      dsimp -zeta -proj only [x11]
      with_reducible apply State.updTime_keeps
      with_reducible apply State.setAll_keeps
      assumption
    clear_value x11
    extract_lets +onlyGivenNames x12
    have hx12 : Keeps False a0 x12 := by
      dsimp -zeta -proj only [x12]
      exact Keeps.put (by assumption) id rfl (Nat.le_refl _) fun _ => rfl
    clear_value x12
    with_reducible apply State.markSteps_keeps
    assumption

end Sys2Proof.Machine
end

