-- ==== Sys2Proof/Laws/KeepsExec.lean ====
section
/-!
SUPPORT. The meanings of the commands: each leaves `Keeps` true.
-/
namespace Sys2Proof.Machine

theorem execRegisterWrite_keeps {q : Prop} (ag : Agent) (addr : Nat) (v : W64) (s : State) (t : State) (h : execRegisterWrite ag addr v s = .next t) :
    Keeps q s t := by
  refine railed_keeps (fun s hs => ?_) t h
  with_reducible apply State.writeAddr_keeps
  assumption

theorem execMisalignedRegAccess_keeps {q : Prop} (ag : Agent) (addr : Nat) (size : Nat) (write : Bool) (s : State) (t : State) (h : execMisalignedRegAccess ag addr size write s = .next t) :
    Keeps q s t := by
  refine railed_keeps (fun s hs => ?_) t h
  with_reducible apply State.misalignedAccess_keeps
  assumption

theorem execFabFretPeriodWrite_keeps {q : Prop} (ag : Agent) (r : Nat) (v : W64) (s : State) (t : State) (h : execFabFretPeriodWrite ag r v s = .next t) :
    Keeps q s t := by
  refine railed_keeps (fun s hs => ?_) t h
  with_reducible apply State.periodWrite_keeps
  assumption

theorem execFretMark_keeps (m : MarkInput) (s : State) (t : State) (h : execFretMark m s = .next t) :
    Keeps False s t := by
  refine railed_keeps (fun s hs => ?_) t h
  refine State.noted_keeps _ _ hs ?_
  with_reducible apply State.fretMark_keeps
  assumption

theorem execVfStepRise_keeps {q : Prop} (r : Nat) (d : Nat) (s : State) (t : State) (h : execVfStepRise r d s = .next t) :
    Keeps q s t := by
  refine railed_keeps (fun s hs => ?_) t h
  with_reducible apply State.vfStepRise_keeps
  assumption

theorem execLateralPathChange_keeps {q : Prop} (edge : Option Nat) (lost : Option Nat) (fl : List LateralFlit) (s : State) (t : State) (h : execLateralPathChange edge lost fl s = .next t) :
    Keeps q s t := by
  refine railed_keeps (fun s hs => ?_) t h
  refine Keeps.ite ?_ hs
  exact State.pathChange_keeps _ _ _ _ hs

theorem execMxLoad_keeps {q : Prop} (b : Nat) (s : State) (t : State) (h : execMxLoad b s = .next t) :
    Keeps q s t := by
  refine railed_keeps (fun s hs => ?_) t h
  with_reducible apply State.mxLoad_keeps
  assumption

theorem execMxLoadPathStart_keeps {q : Prop} (b : Nat) (s : State) (t : State) (h : execMxLoadPathStart b s = .next t) :
    Keeps q s t := by
  refine railed_keeps (fun s hs => ?_) t h
  with_reducible apply State.mxLoadPathStart_keeps
  assumption

theorem execMxLoadDone_keeps {q : Prop} (b : Nat) (s : State) (t : State) (h : execMxLoadDone b s = .next t) :
    Keeps q s t := by
  refine railed_keeps (fun s hs => ?_) t h
  with_reducible apply State.mxLoadDone_keeps
  assumption

theorem execMxSwap_keeps {q : Prop} (b : Nat) (s : State) (t : State) (h : execMxSwap b s = .next t) :
    Keeps q s t := by
  refine railed_keeps (fun s hs => ?_) t h
  with_reducible apply State.mxSwap_keeps
  assumption

theorem execMxSwapCycle_keeps {q : Prop} (b : Nat) (s : State) (t : State) (h : execMxSwapCycle b s = .next t) :
    Keeps q s t := by
  refine railed_keeps (fun s hs => ?_) t h
  with_reducible apply State.mxSwapCycle_keeps
  assumption

theorem execMxStream_keeps {q : Prop} (b : Nat) (s : State) (t : State) (h : execMxStream b s = .next t) :
    Keeps q s t := by
  refine railed_keeps (fun s hs => ?_) t h
  with_reducible apply State.mxStream_keeps
  assumption

theorem execMxRowFeed_keeps {q : Prop} (b : Nat) (granted : Bool) (errs : List ArrayError) (parity : Option (Nat × Nat)) (s : State) (t : State) (h : execMxRowFeed b granted errs parity s = .next t) :
    Keeps q s t := by
  refine railed_keeps (fun s hs => ?_) t h
  refine State.noted_keeps _ _ hs ?_
  with_reducible apply State.mxRowFeed_keeps
  assumption

theorem execGroupCheck_keeps {q : Prop} (b : Nat) (s : State) (t : State) (h : execGroupCheck b s = .next t) :
    Keeps q s t := by
  refine railed_keeps (fun s hs => ?_) t h
  refine State.noted_keeps _ _ hs ?_
  with_reducible apply State.groupCheck_keeps
  assumption

theorem execMxRowCommit_keeps {q : Prop} (b : Nat) (s : State) (t : State) (h : execMxRowCommit b s = .next t) :
    Keeps q s t := by
  refine railed_keeps (fun s hs => ?_) t h
  with_reducible apply State.mxRowCommit_keeps
  assumption

theorem execFeedPegRelease_keeps {q : Prop} (b : Nat) (s : State) (t : State) (h : execFeedPegRelease b s = .next t) :
    Keeps q s t := by
  refine railed_keeps (fun s hs => ?_) t h
  with_reducible apply State.feedPegRelease_keeps
  assumption

theorem execMxDrain_keeps {q : Prop} (b : Nat) (n : Nat) (s : State) (t : State) (h : execMxDrain b n s = .next t) :
    Keeps q s t := by
  refine railed_keeps (fun s hs => ?_) t h
  with_reducible apply State.mxDrain_keeps
  assumption

theorem execMxSeed_keeps {q : Prop} (b : Nat) (n : Nat) (s : State) (t : State) (h : execMxSeed b n s = .next t) :
    Keeps q s t := by
  refine railed_keeps (fun s hs => ?_) t h
  with_reducible apply State.mxSeed_keeps
  assumption

theorem execMxCountClear_keeps {q : Prop} (ag : Agent) (b : Nat) (v : W64) (s : State) (t : State) (h : execMxCountClear ag b v s = .next t) :
    Keeps q s t := by
  refine railed_keeps (fun s hs => ?_) t h
  with_reducible apply State.countClear_keeps
  assumption

theorem execCmdPush_keeps {q : Prop} (b : Nat) (v : W64) (s : State) (t : State) (h : execCmdPush b v s = .next t) :
    Keeps q s t := by
  refine railed_keeps (fun s hs => ?_) t h
  with_reducible apply State.cmdPush_keeps
  assumption

theorem execSpillRefill_keeps {q : Prop} (b : Nat) (e : Nat) (s : State) (t : State) (h : execSpillRefill b e s = .next t) :
    Keeps q s t := by
  refine railed_keeps (fun s hs => ?_) t h
  with_reducible apply State.refill_keeps
  assumption

theorem execTokenWaitEnd_keeps {q : Prop} (b : Nat) (e : Nat) (s : State) (t : State) (h : execTokenWaitEnd b e s = .next t) :
    Keeps q s t := by
  refine railed_keeps (fun s hs => ?_) t h
  with_reducible apply State.tokenWaitEnd_keeps
  assumption

theorem execBlkTokenErrClear_keeps {q : Prop} (ag : Agent) (b : Nat) (v : W64) (s : State) (t : State) (h : execBlkTokenErrClear ag b v s = .next t) :
    Keeps q s t := by
  refine railed_keeps (fun s hs => ?_) t h
  with_reducible apply State.tokenErrClear_keeps
  assumption

theorem execBlkCplCtrlWrite_keeps {q : Prop} (ag : Agent) (b : Nat) (v : W64) (s : State) (t : State) (h : execBlkCplCtrlWrite ag b v s = .next t) :
    Keeps q s t := by
  refine railed_keeps (fun s hs => ?_) t h
  with_reducible apply State.cplCtrlWrite_keeps
  assumption

theorem execBlkCplHeadWrite_keeps {q : Prop} (ag : Agent) (b : Nat) (v : W64) (s : State) (t : State) (h : execBlkCplHeadWrite ag b v s = .next t) :
    Keeps q s t := by
  refine railed_keeps (fun s hs => ?_) t h
  with_reducible apply State.cplHeadWrite_keeps
  assumption

theorem execCompletionWrite_keeps {q : Prop} (b : Nat) (e : Nat) (s : State) (t : State) (h : execCompletionWrite b e s = .next t) :
    Keeps q s t := by
  refine railed_keeps (fun s hs => ?_) t h
  with_reducible apply State.completionWrite_keeps
  assumption

theorem execVeBinary_keeps {q : Prop} (b : Nat) (n : Nat) (err : Option ResidueError) (s : State) (t : State) (h : execVeBinary b n err s = .next t) :
    Keeps q s t := by
  refine railed_keeps (fun s hs => ?_) t h
  refine State.noted_keeps _ _ hs ?_
  with_reducible apply State.vecStep_keeps
  assumption

theorem execVeUnary_keeps {q : Prop} (b : Nat) (n : Nat) (s : State) (t : State) (h : execVeUnary b n s = .next t) :
    Keeps q s t := by
  refine railed_keeps (fun s hs => ?_) t h
  with_reducible apply State.vecStep_keeps
  assumption

theorem execVeFma_keeps {q : Prop} (b : Nat) (n : Nat) (err : Option ResidueError) (s : State) (t : State) (h : execVeFma b n err s = .next t) :
    Keeps q s t := by
  refine railed_keeps (fun s hs => ?_) t h
  refine State.noted_keeps _ _ hs ?_
  with_reducible apply State.vecStep_keeps
  assumption

theorem execVeReduce_keeps {q : Prop} (b : Nat) (n : Nat) (err : Option ResidueError) (s : State) (t : State) (h : execVeReduce b n err s = .next t) :
    Keeps q s t := by
  refine railed_keeps (fun s hs => ?_) t h
  refine State.noted_keeps _ _ hs ?_
  with_reducible apply State.vecReduce_keeps
  assumption

theorem execVeQuantMx_keeps {q : Prop} (b : Nat) (n : Nat) (s : State) (t : State) (h : execVeQuantMx b n s = .next t) :
    Keeps q s t := by
  refine railed_keeps (fun s hs => ?_) t h
  with_reducible apply State.vecQuant_keeps
  assumption

theorem execVeRawCombine_keeps {q : Prop} (b : Nat) (n : Nat) (err : Option ResidueError) (s : State) (t : State) (h : execVeRawCombine b n err s = .next t) :
    Keeps q s t := by
  refine railed_keeps (fun s hs => ?_) t h
  refine State.noted_keeps _ _ hs ?_
  with_reducible apply State.vecRaw_keeps
  assumption

theorem execLyTranspose_keeps {q : Prop} (b : Nat) (n : Nat) (s : State) (t : State) (h : execLyTranspose b n s = .next t) :
    Keeps q s t := by
  refine railed_keeps (fun s hs => ?_) t h
  with_reducible apply State.layoutStep_keeps
  assumption

theorem execLyCopy2d_keeps {q : Prop} (b : Nat) (n : Nat) (s : State) (t : State) (h : execLyCopy2d b n s = .next t) :
    Keeps q s t := by
  refine railed_keeps (fun s hs => ?_) t h
  with_reducible apply State.layoutStep_keeps
  assumption

theorem execLyPad_keeps {q : Prop} (b : Nat) (n : Nat) (s : State) (t : State) (h : execLyPad b n s = .next t) :
    Keeps q s t := by
  refine railed_keeps (fun s hs => ?_) t h
  with_reducible apply State.layoutStep_keeps
  assumption

theorem execLyConvert_keeps {q : Prop} (b : Nat) (n : Nat) (s : State) (t : State) (h : execLyConvert b n s = .next t) :
    Keeps q s t := by
  refine railed_keeps (fun s hs => ?_) t h
  with_reducible apply State.layoutStep_keeps
  assumption

theorem execGsGather_keeps {q : Prop} (b : Nat) (n : Nat) (s : State) (t : State) (h : execGsGather b n s = .next t) :
    Keeps q s t := by
  refine railed_keeps (fun s hs => ?_) t h
  with_reducible apply State.gsStep_keeps
  assumption

theorem execGsScatter_keeps {q : Prop} (b : Nat) (n : Nat) (s : State) (t : State) (h : execGsScatter b n s = .next t) :
    Keeps q s t := by
  refine railed_keeps (fun s hs => ?_) t h
  with_reducible apply State.gsStep_keeps
  assumption

theorem execGsLoad_keeps {q : Prop} (b : Nat) (n : Nat) (s : State) (t : State) (h : execGsLoad b n s = .next t) :
    Keeps q s t := by
  refine railed_keeps (fun s hs => ?_) t h
  with_reducible apply State.gsStep_keeps
  assumption

theorem execGsStore_keeps {q : Prop} (b : Nat) (n : Nat) (s : State) (t : State) (h : execGsStore b n s = .next t) :
    Keeps q s t := by
  refine railed_keeps (fun s hs => ?_) t h
  with_reducible apply State.gsStep_keeps
  assumption

theorem execSkSort_keeps {q : Prop} (b : Nat) (n : Nat) (s : State) (t : State) (h : execSkSort b n s = .next t) :
    Keeps q s t := by
  refine railed_keeps (fun s hs => ?_) t h
  with_reducible apply State.sortStep_keeps
  assumption

theorem execSkTopk_keeps {q : Prop} (b : Nat) (n : Nat) (s : State) (t : State) (h : execSkTopk b n s = .next t) :
    Keeps q s t := by
  refine railed_keeps (fun s hs => ?_) t h
  with_reducible apply State.sortStep_keeps
  assumption

theorem execBlkStart_keeps {q : Prop} (ag : Agent) (b : Nat) (s : State) (t : State) (h : execBlkStart ag b s = .next t) :
    Keeps q s t := by
  refine railed_keeps (fun s hs => ?_) t h
  with_reducible apply State.blkStart_keeps
  assumption

theorem execBlkHalt_keeps {q : Prop} (ag : Agent) (b : Nat) (s : State) (t : State) (h : execBlkHalt ag b s = .next t) :
    Keeps q s t := by
  refine railed_keeps (fun s hs => ?_) t h
  with_reducible apply State.blkHalt_keeps
  assumption

theorem execBlkReset_keeps {q : Prop} (ag : Agent) (b : Nat) (s : State) (t : State) (h : execBlkReset ag b s = .next t) :
    Keeps q s t := by
  refine railed_keeps (fun s hs => ?_) t h
  with_reducible apply State.blkReset_keeps
  assumption

theorem execBlockResetRelease_keeps {q : Prop} (b : Nat) (s : State) (t : State) (h : execBlockResetRelease b s = .next t) :
    Keeps q s t := by
  refine railed_keeps (fun s hs => ?_) t h
  with_reducible apply State.blockRelease_keeps
  assumption

theorem execSeqDoubleTrap_keeps {q : Prop} (b : Nat) (s : State) (t : State) (h : execSeqDoubleTrap b s = .next t) :
    Keeps q s t := by
  refine railed_keeps (fun s hs => ?_) t h
  with_reducible apply State.doubleTrap_keeps
  assumption

theorem execBlockMute_keeps {q : Prop} (b : Nat) (cause : Nat) (s : State) (t : State) (h : execBlockMute b cause s = .next t) :
    Keeps q s t := by
  refine railed_keeps (fun s hs => ?_) t h
  refine State.noted_keeps _ _ hs ?_
  with_reducible apply State.muteBlock_keeps
  assumption

theorem execBlkCountClear_keeps {q : Prop} (ag : Agent) (b : Nat) (v : W64) (s : State) (t : State) (h : execBlkCountClear ag b v s = .next t) :
    Keeps q s t := by
  refine railed_keeps (fun s hs => ?_) t h
  with_reducible apply State.countClear_keeps
  assumption

theorem execBlkAsyncErrClear_keeps {q : Prop} (ag : Agent) (b : Nat) (v : W64) (s : State) (t : State) (h : execBlkAsyncErrClear ag b v s = .next t) :
    Keeps q s t := by
  refine railed_keeps (fun s hs => ?_) t h
  with_reducible apply State.asyncClear_keeps
  assumption

theorem execHartLoad_keeps {q : Prop} (h' : Nat) (a : Access) (s : State) (t : State) (h : execHartLoad h' a s = .next t) :
    Keeps q s t := by
  refine railed_keeps (fun s hs => ?_) t h
  with_reducible apply State.hartLoad_keeps
  assumption

theorem execHartStore_keeps {q : Prop} (h' : Nat) (a : Access) (v : W64) (hold : Nat) (s : State) (t : State) (h : execHartStore h' a v hold s = .next t) :
    Keeps q s t := by
  refine railed_keeps (fun s hs => ?_) t h
  with_reducible apply State.hartStore_keeps
  assumption

theorem execHartAmo_keeps {q : Prop} (h' : Nat) (a : Access) (op : AmoOp) (v : W64) (s : State) (t : State) (h : execHartAmo h' a op v s = .next t) :
    Keeps q s t := by
  refine railed_keeps (fun s hs => ?_) t h
  with_reducible apply State.hartAmo_keeps
  assumption

theorem execHartLr_keeps {q : Prop} (h' : Nat) (a : Access) (s : State) (t : State) (h : execHartLr h' a s = .next t) :
    Keeps q s t := by
  refine railed_keeps (fun s hs => ?_) t h
  with_reducible apply State.hartLr_keeps
  assumption

theorem execHartSc_keeps {q : Prop} (h' : Nat) (a : Access) (v : W64) (s : State) (t : State) (h : execHartSc h' a v s = .next t) :
    Keeps q s t := by
  refine railed_keeps (fun s hs => ?_) t h
  with_reducible apply State.hartSc_keeps
  assumption

theorem execHartFence_keeps {q : Prop} (h' : Nat) (pred : FenceSet) (succ : FenceSet) (tso : Bool) (s : State) (t : State) (h : execHartFence h' pred succ tso s = .next t) :
    Keeps q s t := by
  refine railed_keeps (fun s hs => ?_) t h
  with_reducible apply State.hartFence_keeps
  assumption

theorem execFenceI_keeps {q : Prop} (h' : Nat) (s : State) (t : State) (h : execFenceI h' s = .next t) :
    Keeps q s t := by
  refine railed_keeps (fun s hs => ?_) t h
  with_reducible apply State.fenceI_keeps
  assumption

theorem execWfi_keeps {q : Prop} (h' : Nat) (s : State) (t : State) (h : execWfi h' s = .next t) :
    Keeps q s t := by
  refine railed_keeps (fun s hs => ?_) t h
  with_reducible apply State.hartWfi_keeps
  assumption

theorem execWcEntryWriteout_keeps {q : Prop} (h' : Nat) (line : Nat) (s : State) (t : State) (h : execWcEntryWriteout h' line s = .next t) :
    Keeps q s t := by
  refine railed_keeps (fun s hs => ?_) t h
  with_reducible apply State.wcWriteout_keeps
  assumption

theorem execReservationExpire_keeps {q : Prop} (h' : Nat) (s : State) (t : State) (h : execReservationExpire h' s = .next t) :
    Keeps q s t := by
  refine railed_keeps (fun s hs => ?_) t h
  with_reducible apply State.reservationExpire_keeps
  assumption

theorem execMgmtCoreAsyncErrClear_keeps {q : Prop} (ag : Agent) (c : Nat) (v : W64) (s : State) (t : State) (h : execMgmtCoreAsyncErrClear ag c v s = .next t) :
    Keeps q s t := by
  refine railed_keeps (fun s hs => ?_) t h
  with_reducible apply State.asyncClear_keeps
  assumption

theorem execRemoteWriteTimeout_keeps {q : Prop} (tag : ReqTag) (s : State) (t : State) (h : execRemoteWriteTimeout tag s = .next t) :
    Keeps q s t := by
  refine railed_keeps (fun s hs => ?_) t h
  with_reducible apply State.timeout_keeps
  assumption

theorem execRemoteLoadTimeout_keeps {q : Prop} (tag : ReqTag) (s : State) (t : State) (h : execRemoteLoadTimeout tag s = .next t) :
    Keeps q s t := by
  refine railed_keeps (fun s hs => ?_) t h
  with_reducible apply State.timeout_keeps
  assumption

theorem execDmaEnable_keeps {q : Prop} (ag : Agent) (r : Nat) (c : Nat) (s : State) (t : State) (h : execDmaEnable ag r c s = .next t) :
    Keeps q s t := by
  refine railed_keeps (fun s hs => ?_) t h
  with_reducible apply State.dmaCtrlSet_keeps
  assumption

theorem execDmaDisable_keeps {q : Prop} (ag : Agent) (r : Nat) (c : Nat) (s : State) (t : State) (h : execDmaDisable ag r c s = .next t) :
    Keeps q s t := by
  refine railed_keeps (fun s hs => ?_) t h
  with_reducible apply State.dmaCtrlSet_keeps
  assumption

theorem execDmaPause_keeps {q : Prop} (ag : Agent) (r : Nat) (c : Nat) (s : State) (t : State) (h : execDmaPause ag r c s = .next t) :
    Keeps q s t := by
  refine railed_keeps (fun s hs => ?_) t h
  with_reducible apply State.dmaCtrlSet_keeps
  assumption

theorem execDmaResume_keeps {q : Prop} (ag : Agent) (r : Nat) (c : Nat) (s : State) (t : State) (h : execDmaResume ag r c s = .next t) :
    Keeps q s t := by
  refine railed_keeps (fun s hs => ?_) t h
  with_reducible apply State.dmaCtrlSet_keeps
  assumption

theorem execDmaAbort_keeps {q : Prop} (ag : Agent) (r : Nat) (c : Nat) (s : State) (t : State) (h : execDmaAbort ag r c s = .next t) :
    Keeps q s t := by
  refine railed_keeps (fun s hs => ?_) t h
  with_reducible apply State.dmaCtrlSet_keeps
  assumption

theorem execDmaClearErr_keeps {q : Prop} (ag : Agent) (r : Nat) (c : Nat) (s : State) (t : State) (h : execDmaClearErr ag r c s = .next t) :
    Keeps q s t := by
  refine railed_keeps (fun s hs => ?_) t h
  with_reducible apply State.dmaCtrlSet_keeps
  assumption

theorem execDmaDoorbell_keeps {q : Prop} (ag : Agent) (r : Nat) (c : Nat) (v : W64) (s : State) (t : State) (h : execDmaDoorbell ag r c v s = .next t) :
    Keeps q s t := by
  refine railed_keeps (fun s hs => ?_) t h
  with_reducible apply State.dmaDoorbell_keeps
  assumption

theorem execDescFetch_keeps {q : Prop} (r : Nat) (c : Nat) (s : State) (t : State) (h : execDescFetch r c s = .next t) :
    Keeps q s t := by
  refine railed_keeps (fun s hs => ?_) t h
  with_reducible apply State.descFetch_keeps
  assumption

theorem execDescRefetch_keeps {q : Prop} (r : Nat) (c : Nat) (s : State) (t : State) (h : execDescRefetch r c s = .next t) :
    Keeps q s t := by
  refine railed_keeps (fun s hs => ?_) t h
  with_reducible apply State.descRefetch_keeps
  assumption

theorem execCopy_keeps {q : Prop} (r : Nat) (c : Nat) (n : Nat) (s : State) (t : State) (h : execCopy r c n s = .next t) :
    Keeps q s t := by
  refine railed_keeps (fun s hs => ?_) t h
  with_reducible apply State.dmaMove_keeps
  assumption

theorem execFill_keeps {q : Prop} (r : Nat) (c : Nat) (n : Nat) (s : State) (t : State) (h : execFill r c n s = .next t) :
    Keeps q s t := by
  refine railed_keeps (fun s hs => ?_) t h
  with_reducible apply State.dmaMove_keeps
  assumption

theorem execCompare_keeps {q : Prop} (r : Nat) (c : Nat) (n : Nat) (s : State) (t : State) (h : execCompare r c n s = .next t) :
    Keeps q s t := by
  refine railed_keeps (fun s hs => ?_) t h
  with_reducible apply State.dmaMove_keeps
  assumption

theorem execCopy2d_keeps {q : Prop} (r : Nat) (c : Nat) (n : Nat) (s : State) (t : State) (h : execCopy2d r c n s = .next t) :
    Keeps q s t := by
  refine railed_keeps (fun s hs => ?_) t h
  with_reducible apply State.dmaMove_keeps
  assumption

theorem execDescFault_keeps {q : Prop} (r : Nat) (c : Nat) (s : State) (t : State) (h : execDescFault r c s = .next t) :
    Keeps q s t := by
  refine railed_keeps (fun s hs => ?_) t h
  with_reducible apply State.descFault_keeps
  assumption

theorem execDescWriteback_keeps {q : Prop} (r : Nat) (c : Nat) (s : State) (t : State) (h : execDescWriteback r c s = .next t) :
    Keeps q s t := by
  refine railed_keeps (fun s hs => ?_) t h
  with_reducible apply State.descWriteback_keeps
  assumption

theorem execRingFault_keeps {q : Prop} (r : Nat) (c : Nat) (s : State) (t : State) (h : execRingFault r c s = .next t) :
    Keeps q s t := by
  refine railed_keeps (fun s hs => ?_) t h
  with_reducible apply State.ringFault_keeps
  assumption

theorem execPauseDrainEnd_keeps {q : Prop} (r : Nat) (c : Nat) (s : State) (t : State) (h : execPauseDrainEnd r c s = .next t) :
    Keeps q s t := by
  refine railed_keeps (fun s hs => ?_) t h
  with_reducible apply State.pauseDrainEnd_keeps
  assumption

theorem execDmaChCountClear_keeps {q : Prop} (ag : Agent) (r : Nat) (c : Nat) (v : W64) (s : State) (t : State) (h : execDmaChCountClear ag r c v s = .next t) :
    Keeps q s t := by
  refine railed_keeps (fun s hs => ?_) t h
  with_reducible apply State.countClear_keeps
  assumption

theorem execPegSet_keeps {q : Prop} (ag : Agent) (p : Nat) (v : W64) (s : State) (t : State) (h : execPegSet ag p v s = .next t) :
    Keeps q s t := by
  refine railed_keeps (fun s hs => ?_) t h
  with_reducible apply State.pegSet_keeps
  assumption

theorem execPegAdd_keeps {q : Prop} (ag : Agent) (p : Nat) (v : W64) (s : State) (t : State) (h : execPegAdd ag p v s = .next t) :
    Keeps q s t := by
  refine railed_keeps (fun s hs => ?_) t h
  with_reducible apply State.pegAdd_keeps
  assumption

theorem execPegRelAdd_keeps {q : Prop} (ag : Agent) (p : Nat) (sc : Scope) (v : W64) (s : State) (t : State) (h : execPegRelAdd ag p sc v s = .next t) :
    Keeps q s t := by
  refine railed_keeps (fun s hs => ?_) t h
  with_reducible apply State.pegRelease_keeps
  assumption

theorem execPegAcqRead_keeps {q : Prop} (ag : Agent) (p : Nat) (sc : Scope) (s : State) (t : State) (h : execPegAcqRead ag p sc s = .next t) :
    Keeps q s t := by
  refine railed_keeps (fun s hs => ?_) t h
  with_reducible apply State.pegAcqRead_keeps
  assumption

theorem execPegCasExpect_keeps {q : Prop} (ag : Agent) (p : Nat) (v : W64) (s : State) (t : State) (h : execPegCasExpect ag p v s = .next t) :
    Keeps q s t := by
  refine railed_keeps (fun s hs => ?_) t h
  with_reducible apply State.pegCasExpect_keeps
  assumption

theorem execPegCas_keeps {q : Prop} (ag : Agent) (p : Nat) (v : W64) (s : State) (t : State) (h : execPegCas ag p v s = .next t) :
    Keeps q s t := by
  refine railed_keeps (fun s hs => ?_) t h
  with_reducible apply State.pegCasAmo_keeps
  assumption

theorem execPegStatusClear_keeps {q : Prop} (ag : Agent) (p : Nat) (v : W64) (s : State) (t : State) (h : execPegStatusClear ag p v s = .next t) :
    Keeps q s t := by
  refine railed_keeps (fun s hs => ?_) t h
  with_reducible apply State.pegStatusClear_keeps
  assumption

theorem execPegAccessFault_keeps {q : Prop} (ag : Agent) (addr : Nat) (size : Nat) (write : Bool) (amo : Bool) (s : State) (t : State) (h : execPegAccessFault ag addr size write amo s = .next t) :
    Keeps q s t := by
  refine railed_keeps (fun s hs => ?_) t h
  with_reducible apply State.pegAccessFault_keeps
  assumption

theorem execWatchArm_keeps {q : Prop} (ag : Agent) (v : W64) (s : State) (t : State) (h : execWatchArm ag v s = .next t) :
    Keeps q s t := by
  refine railed_keeps (fun s hs => ?_) t h
  with_reducible apply State.watchArm_keeps
  assumption

theorem execWatchDeliver_keeps {q : Prop} (r : Nat) (s : State) (t : State) (h : execWatchDeliver r s = .next t) :
    Keeps q s t := by
  refine railed_keeps (fun s hs => ?_) t h
  with_reducible apply State.watchDeliver_keeps
  assumption

theorem execWatchExpire_keeps {q : Prop} (r : Nat) (key : Nat) (s : State) (t : State) (h : execWatchExpire r key s = .next t) :
    Keeps q s t := by
  refine railed_keeps (fun s hs => ?_) t h
  with_reducible apply State.watchExpire_keeps
  assumption

theorem execWatchCancel_keeps {q : Prop} (ag : Agent) (v : W64) (s : State) (t : State) (h : execWatchCancel ag v s = .next t) :
    Keeps q s t := by
  refine railed_keeps (fun s hs => ?_) t h
  with_reducible apply State.watchCancelBy_keeps
  assumption

theorem execWatchEventRead_keeps {q : Prop} (ag : Agent) (s : State) (t : State) (h : execWatchEventRead ag s = .next t) :
    Keeps q s t := by
  refine railed_keeps (fun s hs => ?_) t h
  with_reducible apply State.watchEventRead_keeps
  assumption

theorem execEventQueueAdmit_keeps {q : Prop} (r : Nat) (s : State) (t : State) (h : execEventQueueAdmit r s = .next t) :
    Keeps q s t := by
  refine railed_keeps (fun s hs => ?_) t h
  with_reducible apply State.eventAdmit_keeps
  assumption

theorem execWatchCountClear_keeps {q : Prop} (ag : Agent) (r : Nat) (v : W64) (s : State) (t : State) (h : execWatchCountClear ag r v s = .next t) :
    Keeps q s t := by
  refine railed_keeps (fun s hs => ?_) t h
  with_reducible apply State.countClear_keeps
  assumption

theorem execReadShared_keeps {q : Prop} (k : Nat) (line : Nat) (victim : Option Nat) (s : State) (t : State) (h : execReadShared k line victim s = .next t) :
    Keeps q s t := by
  refine railed_keeps (fun s hs => ?_) t h
  with_reducible apply State.settleHarts_keeps
  with_reducible apply State.coreRequest_keeps
  assumption

theorem execReadUnique_keeps {q : Prop} (k : Nat) (line : Nat) (victim : Option Nat) (s : State) (t : State) (h : execReadUnique k line victim s = .next t) :
    Keeps q s t := by
  refine railed_keeps (fun s hs => ?_) t h
  with_reducible apply State.settleHarts_keeps
  with_reducible apply State.coreRequest_keeps
  assumption

theorem execUpgrade_keeps {q : Prop} (k : Nat) (line : Nat) (victim : Option Nat) (s : State) (t : State) (h : execUpgrade k line victim s = .next t) :
    Keeps q s t := by
  refine railed_keeps (fun s hs => ?_) t h
  with_reducible apply State.settleHarts_keeps
  with_reducible apply State.coreRequest_keeps
  assumption

theorem execWriteBack_keeps {q : Prop} (k : Nat) (line : Nat) (s : State) (t : State) (h : execWriteBack k line s = .next t) :
    Keeps q s t := by
  refine railed_keeps (fun s hs => ?_) t h
  with_reducible apply State.settleHarts_keeps
  with_reducible apply State.evict_keeps
  assumption

theorem execCleanEvict_keeps {q : Prop} (k : Nat) (line : Nat) (s : State) (t : State) (h : execCleanEvict k line s = .next t) :
    Keeps q s t := by
  refine railed_keeps (fun s hs => ?_) t h
  with_reducible apply State.settleHarts_keeps
  with_reducible apply State.evict_keeps
  assumption

theorem execEngineRead_keeps {q : Prop} (port : Nat) (line : Nat) (s : State) (t : State) (h : execEngineRead port line s = .next t) :
    Keeps q s t := by
  refine railed_keeps (fun s hs => ?_) t h
  with_reducible apply State.request_keeps
  assumption

theorem execEngineWrite_keeps {q : Prop} (port : Nat) (line : Nat) (data : List Byte) (s : State) (t : State) (h : execEngineWrite port line data s = .next t) :
    Keeps q s t := by
  refine railed_keeps (fun s hs => ?_) t h
  with_reducible apply State.request_keeps
  assumption

theorem execEngineMaskedWrite_keeps {q : Prop} (port : Nat) (line : Nat) (data : List Byte) (mask : Nat) (s : State) (t : State) (h : execEngineMaskedWrite port line data mask s = .next t) :
    Keeps q s t := by
  refine railed_keeps (fun s hs => ?_) t h
  with_reducible apply State.request_keeps
  assumption

theorem execEngineAtomic_keeps {q : Prop} (port : Nat) (line : Nat) (off : Nat) (size : Nat) (op : AtomOp) (v : W64) (s : State) (t : State) (h : execEngineAtomic port line off size op v s = .next t) :
    Keeps q s t := by
  refine railed_keeps (fun s hs => ?_) t h
  with_reducible apply State.request_keeps
  assumption

theorem execSnoop_keeps {q : Prop} (k : Nat) (line : Nat) (s : State) (t : State) (h : execSnoop k line s = .next t) :
    Keeps q s t := by
  refine railed_keeps (fun s hs => ?_) t h
  with_reducible apply State.settleHarts_keeps
  with_reducible apply State.snoop_keeps
  assumption

theorem execHomeTransactionComplete_keeps {q : Prop} (line : Nat) (s : State) (t : State) (h : execHomeTransactionComplete line s = .next t) :
    Keeps q s t := by
  refine railed_keeps (fun s hs => ?_) t h
  with_reducible apply State.settleHarts_keeps
  with_reducible apply State.homeComplete_keeps
  assumption

theorem execGrant_keeps {q : Prop} (r : Nat) (req : Nat) (s : State) (t : State) (h : execGrant r req s = .next t) :
    Keeps q s t := by
  refine railed_keeps (fun s hs => ?_) t h
  with_reducible apply State.settleHarts_keeps
  with_reducible apply State.grant_keeps
  assumption

theorem execScrubDone_keeps {q : Prop} (r : Nat) (s : State) (t : State) (h : execScrubDone r s = .next t) :
    Keeps q s t := by
  refine railed_keeps (fun s hs => ?_) t h
  with_reducible apply State.scrubDone_keeps
  assumption

theorem execInvalidationDone_keeps {q : Prop} (r : Nat) (s : State) (t : State) (h : execInvalidationDone r s = .next t) :
    Keeps q s t := by
  refine railed_keeps (fun s hs => ?_) t h
  with_reducible apply State.invalidationDone_keeps
  assumption

theorem execMgmtCohCountClear_keeps {q : Prop} (ag : Agent) (r : Nat) (v : W64) (s : State) (t : State) (h : execMgmtCohCountClear ag r v s = .next t) :
    Keeps q s t := by
  refine railed_keeps (fun s hs => ?_) t h
  with_reducible apply State.countClear_keeps
  assumption

theorem execEccUncorrectable_keeps {q : Prop} (e : EccError) (s : State) (t : State) (h : execEccUncorrectable e s = .next t) :
    Keeps q s t := by
  refine railed_keeps (fun s hs => ?_) t h
  with_reducible apply State.eccEvent_keeps
  assumption

theorem execMapOut_keeps {q : Prop} (ag : Agent) (ch : Nat) (s : State) (t : State) (h : execMapOut ag ch s = .next t) :
    Keeps q s t := by
  refine railed_keeps (fun s hs => ?_) t h
  with_reducible apply State.chCtrlWrite_keeps
  assumption

theorem execTestStart_keeps {q : Prop} (ag : Agent) (ch : Nat) (s : State) (t : State) (h : execTestStart ag ch s = .next t) :
    Keeps q s t := by
  refine railed_keeps (fun s hs => ?_) t h
  with_reducible apply State.chCtrlWrite_keeps
  assumption

theorem execTestEnd_keeps {q : Prop} (ag : Agent) (ch : Nat) (s : State) (t : State) (h : execTestEnd ag ch s = .next t) :
    Keeps q s t := by
  refine railed_keeps (fun s hs => ?_) t h
  with_reducible apply State.chCtrlWrite_keeps
  assumption

theorem execMaintSlot_keeps {q : Prop} (r : Nat) (seed : Nat) (lanes : List (Nat × Nat × Nat)) (s : State) (t : State) (h : execMaintSlot r seed lanes s = .next t) :
    Keeps q s t := by
  refine railed_keeps (fun s hs => ?_) t h
  with_reducible apply State.maintSlot_keeps
  assumption

theorem execMarginCheckDone_keeps {q : Prop} (r : Nat) (m : Margins) (s : State) (t : State) (h : execMarginCheckDone r m s = .next t) :
    Keeps q s t := by
  refine railed_keeps (fun s hs => ?_) t h
  with_reducible apply State.marginDone_keeps
  assumption

theorem execRetrainDone_keeps {q : Prop} (r : Nat) (m : Margins) (s : State) (t : State) (h : execRetrainDone r m s = .next t) :
    Keeps q s t := by
  refine railed_keeps (fun s hs => ?_) t h
  with_reducible apply State.retrainEnd_keeps
  assumption

theorem execGroupRebuild_keeps {q : Prop} (ag : Agent) (r : Nat) (v : W64) (s : State) (t : State) (h : execGroupRebuild ag r v s = .next t) :
    Keeps q s t := by
  refine railed_keeps (fun s hs => ?_) t h
  with_reducible apply State.groupCtrlWrite_keeps
  assumption

theorem execRebuildDone_keeps {q : Prop} (r : Nat) (g : Nat) (s : State) (t : State) (h : execRebuildDone r g s = .next t) :
    Keeps q s t := by
  refine railed_keeps (fun s hs => ?_) t h
  with_reducible apply State.rebuildDone_keeps
  assumption

theorem execTgStart_keeps {q : Prop} (ag : Agent) (ch : Nat) (v : W64) (s : State) (t : State) (h : execTgStart ag ch v s = .next t) :
    Keeps q s t := by
  refine railed_keeps (fun s hs => ?_) t h
  with_reducible apply State.tgWrite_keeps
  assumption

theorem execTgDone_keeps {q : Prop} (ch : Nat) (errs : List Nat) (s : State) (t : State) (h : execTgDone ch errs s = .next t) :
    Keeps q s t := by
  refine railed_keeps (fun s hs => ?_) t h
  with_reducible apply State.tgEnd_keeps
  assumption

theorem execPatRead_keeps {q : Prop} (ag : Agent) (r : Nat) (v : W64) (s : State) (t : State) (h : execPatRead ag r v s = .next t) :
    Keeps q s t := by
  refine railed_keeps (fun s hs => ?_) t h
  with_reducible apply State.patCmdWrite_keeps
  assumption

theorem execPatWrite_keeps {q : Prop} (ag : Agent) (r : Nat) (v : W64) (s : State) (t : State) (h : execPatWrite ag r v s = .next t) :
    Keeps q s t := by
  refine railed_keeps (fun s hs => ?_) t h
  with_reducible apply State.patCmdWrite_keeps
  assumption

theorem execSetCopyValid_keeps {q : Prop} (ag : Agent) (r : Nat) (v : W64) (s : State) (t : State) (h : execSetCopyValid ag r v s = .next t) :
    Keeps q s t := by
  refine railed_keeps (fun s hs => ?_) t h
  with_reducible apply State.patCmdWrite_keeps
  assumption

theorem execClearCopyValid_keeps {q : Prop} (ag : Agent) (r : Nat) (v : W64) (s : State) (t : State) (h : execClearCopyValid ag r v s = .next t) :
    Keeps q s t := by
  refine railed_keeps (fun s hs => ?_) t h
  with_reducible apply State.patCmdWrite_keeps
  assumption

theorem execPatCmdDone_keeps {q : Prop} (r : Nat) (s : State) (t : State) (h : execPatCmdDone r s = .next t) :
    Keeps q s t := by
  refine railed_keeps (fun s hs => ?_) t h
  with_reducible apply State.patDone_keeps
  assumption

theorem execMgmtRegCfgWrite_keeps {q : Prop} (ag : Agent) (r : Nat) (q' : Nat) (p : Nat) (v : W64) (s : State) (t : State) (h : execMgmtRegCfgWrite ag r q' p v s = .next t) :
    Keeps q s t := by
  refine railed_keeps (fun s hs => ?_) t h
  with_reducible apply State.regCfgWrite_keeps
  assumption

theorem execTokenRefill_keeps {q : Prop} (r : Nat) (s : State) (t : State) (h : execTokenRefill r s = .next t) :
    Keeps q s t := by
  refine railed_keeps (fun s hs => ?_) t h
  with_reducible apply State.tokenRefill_keeps
  assumption

theorem execMgmtMemCountClear_keeps {q : Prop} (ag : Agent) (r : Nat) (v : W64) (s : State) (t : State) (h : execMgmtMemCountClear ag r v s = .next t) :
    Keeps q s t := by
  refine railed_keeps (fun s hs => ?_) t h
  with_reducible apply State.countClear_keeps
  assumption

theorem execPortEnable_keeps {q : Prop} (ag : Agent) (k : Nat) (s : State) (t : State) (h : execPortEnable ag k s = .next t) :
    Keeps q s t := by
  refine railed_keeps (fun s hs => ?_) t h
  refine Keeps.ite hs ?_
  exact State.portEnable_keeps _ _ hs

theorem execPortDisable_keeps {q : Prop} (ag : Agent) (k : Nat) (s : State) (t : State) (h : execPortDisable ag k s = .next t) :
    Keeps q s t := by
  refine railed_keeps (fun s hs => ?_) t h
  refine Keeps.ite (State.noted_keeps _ _ hs ?_) hs
  exact State.portDisable_keeps _ _ hs

theorem execRetrain_keeps {q : Prop} (ag : Agent) (k : Nat) (s : State) (t : State) (h : execRetrain ag k s = .next t) :
    Keeps q s t := by
  refine railed_keeps (fun s hs => ?_) t h
  refine State.noted_keeps _ _ hs ?_
  with_reducible apply State.retrainPort_keeps
  assumption

theorem execTrainingAttemptEnd_keeps {q : Prop} (k : Nat) (txGood : Nat) (rxGood : Nat) (reversed : Bool) (inverted : Nat) (peer : Option (Nat × Nat)) (missing : Nat) (s : State) (t : State) (h : execTrainingAttemptEnd k txGood rxGood reversed inverted peer missing s = .next t) :
    Keeps q s t := by
  refine railed_keeps (fun s hs => ?_) t h
  with_reducible apply State.attemptEnd_keeps
  assumption

theorem execFlitReceive_keeps {q : Prop} (k : Nat) (f : Flit) (s : State) (t : State) (h : execFlitReceive k f s = .next t) :
    Keeps q s t := by
  refine railed_keeps (fun s hs => ?_) t h
  refine State.noted_keeps _ _ hs ?_
  with_reducible apply State.flitReceive_keeps
  assumption

theorem execRetryReq_keeps {q : Prop} (k : Nat) (seq : Nat) (s : State) (t : State) (h : execRetryReq k seq s = .next t) :
    Keeps q s t := by
  refine railed_keeps (fun s hs => ?_) t h
  refine State.noted_keeps _ _ hs ?_
  with_reducible apply State.retryAsked_keeps
  assumption

theorem execRetryReqRepeat_keeps {q : Prop} (k : Nat) (s : State) (t : State) (h : execRetryReqRepeat k s = .next t) :
    Keeps q s t := by
  refine railed_keeps (fun s hs => ?_) t h
  refine State.noted_keeps _ _ hs ?_
  with_reducible apply State.retryRepeat_keeps
  assumption

theorem execLinkFailure_keeps {q : Prop} (k : Nat) (s : State) (t : State) (h : execLinkFailure k s = .next t) :
    Keeps q s t := by
  refine railed_keeps (fun s hs => ?_) t h
  refine State.noted_keeps _ _ hs ?_
  with_reducible apply State.linkFailure_keeps
  assumption

theorem execHello_keeps {q : Prop} (k : Nat) (h' : Hello) (s : State) (t : State) (h : execHello k h' s = .next t) :
    Keeps q s t := by
  refine railed_keeps (fun s hs => ?_) t h
  refine State.noted_keeps _ _ hs ?_
  with_reducible apply State.helloReceive_keeps
  assumption

theorem execElect_keeps {q : Prop} (k : Nat) (key : LeaderKey) (hops : Nat) (s : State) (t : State) (h : execElect k key hops s = .next t) :
    Keeps q s t := by
  refine railed_keeps (fun s hs => ?_) t h
  refine State.noted_keeps _ _ hs ?_
  with_reducible apply State.learnKey_keeps
  assumption

theorem execReportTimer_keeps {q : Prop} (s : State) (t : State) (h : execReportTimer s = .next t) :
    Keeps q s t := by
  refine railed_keeps (fun s hs => ?_) t h
  with_reducible apply State.reportTimer_keeps
  assumption

theorem execReport_keeps {q : Prop} (k : Nat) (rep : Report) (s : State) (t : State) (h : execReport k rep s = .next t) :
    Keeps q s t := by
  refine railed_keeps (fun s hs => ?_) t h
  with_reducible apply State.reportReceive_keeps
  assumption

theorem execFabricSettle_keeps {q : Prop} (s : State) (t : State) (h : execFabricSettle s = .next t) :
    Keeps q s t := by
  refine railed_keeps (fun s hs => ?_) t h
  refine State.noted_keeps _ _ hs ?_
  with_reducible apply State.fabricSettle_keeps
  assumption

theorem execMap_keeps {q : Prop} (k : Nat) (m : MapSegment) (s : State) (t : State) (h : execMap k m s = .next t) :
    Keeps q s t := by
  refine railed_keeps (fun s hs => ?_) t h
  refine State.noted_keeps _ _ hs ?_
  with_reducible apply State.mapReceive_keeps
  assumption

theorem execBeat_keeps {q : Prop} (k : Nat) (m : Beat) (s : State) (t : State) (h : execBeat k m s = .next t) :
    Keeps q s t := by
  refine railed_keeps (fun s hs => ?_) t h
  with_reducible apply State.beatReceive_keeps
  assumption

theorem execBeatSend_keeps {q : Prop} (s : State) (t : State) (h : execBeatSend s = .next t) :
    Keeps q s t := by
  refine railed_keeps (fun s hs => ?_) t h
  with_reducible apply State.beatSend_keeps
  assumption

theorem execLeaderLost_keeps {q : Prop} (s : State) (t : State) (h : execLeaderLost s = .next t) :
    Keeps q s t := by
  refine railed_keeps (fun s hs => ?_) t h
  refine State.noted_keeps _ _ hs ?_
  with_reducible apply State.leaderLost_keeps
  assumption

theorem execJoin_keeps {q : Prop} (k : Nat) (rep : Report) (s : State) (t : State) (h : execJoin k rep s = .next t) :
    Keeps q s t := by
  refine railed_keeps (fun s hs => ?_) t h
  refine State.noted_keeps _ _ hs ?_
  with_reducible apply State.joinReceive_keeps
  assumption

theorem execPortEvent_keeps {q : Prop} (serial : Nat) (port : Nat) (oldState : Nat) (newState : Nat) (s : State) (t : State) (h : execPortEvent serial port oldState newState s = .next t) :
    Keeps q s t := by
  refine railed_keeps (fun s hs => ?_) t h
  refine State.noted_keeps _ _ hs ?_
  with_reducible apply State.portEventReceive_keeps
  assumption

theorem execPortDownTimeout_keeps {q : Prop} (k : Nat) (s : State) (t : State) (h : execPortDownTimeout k s = .next t) :
    Keeps q s t := by
  refine railed_keeps (fun s hs => ?_) t h
  refine State.noted_keeps _ _ hs ?_
  with_reducible apply State.portDownTimeout_keeps
  assumption

theorem execRouteSwitch_keeps {q : Prop} (s : State) (t : State) (h : execRouteSwitch s = .next t) :
    Keeps q s t := by
  refine railed_keeps (fun s hs => ?_) t h
  refine State.noted_keeps _ _ hs ?_
  with_reducible apply State.routeSwitchHere_keeps
  assumption

theorem execFabricPacketArrive_keeps {q : Prop} (k : Nat) (p : Packet) (s : State) (t : State) (h : execFabricPacketArrive k p s = .next t) :
    Keeps q s t := by
  refine railed_keeps (fun s hs => ?_) t h
  with_reducible apply State.packetArrive_keeps
  assumption

theorem execFabricRead_keeps {q : Prop} (p : Packet) (s : State) (t : State) (h : execFabricRead p s = .next t) :
    Keeps q s t := by
  refine railed_keeps (fun s hs => ?_) t h
  with_reducible apply State.fabricRead_keeps
  assumption

theorem execFabricWrite_keeps {q : Prop} (p : Packet) (s : State) (t : State) (h : execFabricWrite p s = .next t) :
    Keeps q s t := by
  refine railed_keeps (fun s hs => ?_) t h
  with_reducible apply State.fabricWrite_keeps
  assumption

theorem execMaskedWrite_keeps {q : Prop} (p : Packet) (s : State) (t : State) (h : execMaskedWrite p s = .next t) :
    Keeps q s t := by
  refine railed_keeps (fun s hs => ?_) t h
  with_reducible apply State.fabricMasked_keeps
  assumption

theorem execAtomic_keeps {q : Prop} (p : Packet) (s : State) (t : State) (h : execAtomic p s = .next t) :
    Keeps q s t := by
  refine railed_keeps (fun s hs => ?_) t h
  with_reducible apply State.fabricAtomic_keeps
  assumption

theorem execPegOp_keeps {q : Prop} (p : Packet) (s : State) (t : State) (h : execPegOp p s = .next t) :
    Keeps q s t := by
  refine railed_keeps (fun s hs => ?_) t h
  with_reducible apply State.fabricPegOp_keeps
  assumption

theorem execReadData_keeps {q : Prop} (tag : ReqTag) (status : Nat) (data : List Byte) (s : State) (t : State) (h : execReadData tag status data s = .next t) :
    Keeps q s t := by
  refine railed_keeps (fun s hs => ?_) t h
  with_reducible apply State.fabricAnswer_keeps
  assumption

theorem execWriteAck_keeps {q : Prop} (tag : ReqTag) (status : Nat) (s : State) (t : State) (h : execWriteAck tag status s = .next t) :
    Keeps q s t := by
  refine railed_keeps (fun s hs => ?_) t h
  with_reducible apply State.fabricAnswer_keeps
  assumption

theorem execAtomicData_keeps {q : Prop} (tag : ReqTag) (status : Nat) (v : W64) (s : State) (t : State) (h : execAtomicData tag status v s = .next t) :
    Keeps q s t := by
  refine railed_keeps (fun s hs => ?_) t h
  with_reducible apply State.fabricAnswer_keeps
  assumption

theorem execRouteLoad_keeps {q : Prop} (ag : Agent) (v : W64) (s : State) (t : State) (h : execRouteLoad ag v s = .next t) :
    Keeps q s t := by
  refine railed_keeps (fun s hs => ?_) t h
  with_reducible apply State.routeCtrlWrite_keeps
  assumption

theorem execFabPortCountClear_keeps {q : Prop} (ag : Agent) (k : Nat) (v : W64) (s : State) (t : State) (h : execFabPortCountClear ag k v s = .next t) :
    Keeps q s t := by
  refine railed_keeps (fun s hs => ?_) t h
  with_reducible apply State.countClear_keeps
  assumption

theorem execTimeReqSend_keeps {q : Prop} (k : Nat) (t1 : Nat) (s : State) (t : State) (h : execTimeReqSend k t1 s = .next t) :
    Keeps q s t := by
  refine railed_keeps (fun s hs => ?_) t h
  with_reducible apply State.timeReqSend_keeps
  assumption

theorem execTimeReq_keeps {q : Prop} (k : Nat) (p : TimePkt) (t2 : Nat) (t3 : Nat) (s : State) (t : State) (h : execTimeReq k p t2 t3 s = .next t) :
    Keeps q s t := by
  refine railed_keeps (fun s hs => ?_) t h
  with_reducible apply State.timeReqReceive_keeps
  assumption

theorem execTimeResp_keeps {q : Prop} (k : Nat) (p : TimePkt) (t4 : Nat) (s : State) (t : State) (h : execTimeResp k p t4 s = .next t) :
    Keeps q s t := by
  refine railed_keeps (fun s hs => ?_) t h
  with_reducible apply State.timeRespReceive_keeps
  assumption

theorem execTimeRespLost_keeps {q : Prop} (k : Nat) (s : State) (t : State) (h : execTimeRespLost k s = .next t) :
    Keeps q s t := by
  refine railed_keeps (fun s hs => ?_) t h
  with_reducible apply State.timeRespLost_keeps
  assumption

theorem execEpochAdopt_keeps (count : Nat) (m : MarkInput) (s : State) (t : State) (h : execEpochAdopt count m s = .next t) :
    Keeps False s t := by
  refine railed_keeps (fun s hs => ?_) t h
  refine State.noted_keeps _ _ hs ?_
  with_reducible apply State.epochAdopt_keeps
  assumption

theorem execStrumLoad_keeps {q : Prop} (ag : Agent) (r : Nat) (c : Nat) (s : State) (t : State) (h : execStrumLoad ag r c s = .next t) :
    Keeps q s t := by
  refine railed_keeps (fun s hs => ?_) t h
  with_reducible apply State.strumLoad_keeps
  assumption

theorem execStrumLoadDone_keeps {q : Prop} (r : Nat) (c : Nat) (s : State) (t : State) (h : execStrumLoadDone r c s = .next t) :
    Keeps q s t := by
  refine railed_keeps (fun s hs => ?_) t h
  with_reducible apply State.strumLoadDone_keeps
  assumption

theorem execStrumStart_keeps {q : Prop} (ag : Agent) (r : Nat) (c : Nat) (s : State) (t : State) (h : execStrumStart ag r c s = .next t) :
    Keeps q s t := by
  refine railed_keeps (fun s hs => ?_) t h
  with_reducible apply State.strumStart_keeps
  assumption

theorem execStrumAbort_keeps {q : Prop} (ag : Agent) (r : Nat) (c : Nat) (s : State) (t : State) (h : execStrumAbort ag r c s = .next t) :
    Keeps q s t := by
  refine railed_keeps (fun s hs => ?_) t h
  with_reducible apply State.strumAbort_keeps
  assumption

theorem execStrumUnload_keeps {q : Prop} (ag : Agent) (r : Nat) (c : Nat) (s : State) (t : State) (h : execStrumUnload ag r c s = .next t) :
    Keeps q s t := by
  refine railed_keeps (fun s hs => ?_) t h
  with_reducible apply State.strumUnload_keeps
  assumption

theorem execSlotStart_keeps {q : Prop} (slot : Nat) (s : State) (t : State) (h : execSlotStart slot s = .next t) :
    Keeps q s t := by
  refine railed_keeps (fun s hs => ?_) t h
  with_reducible apply State.slotStart_keeps
  assumption

theorem execSchedFlit_keeps {q : Prop} (k : Nat) (f : SchedFlit) (s : State) (t : State) (h : execSchedFlit k f s = .next t) :
    Keeps q s t := by
  refine railed_keeps (fun s hs => ?_) t h
  with_reducible apply State.schedFlit_keeps
  assumption

theorem execStrumRunEnd_keeps {q : Prop} (r : Nat) (c : Nat) (s : State) (t : State) (h : execStrumRunEnd r c s = .next t) :
    Keeps q s t := by
  refine railed_keeps (fun s hs => ?_) t h
  with_reducible apply State.strumRunEnd_keeps
  assumption

theorem execPeerSilent_keeps {q : Prop} (r : Nat) (c : Nat) (entry : Nat) (s : State) (t : State) (h : execPeerSilent r c entry s = .next t) :
    Keeps q s t := by
  refine railed_keeps (fun s hs => ?_) t h
  with_reducible apply State.peerSilent_keeps
  assumption

theorem execFabCollAbort_keeps {q : Prop} (ag : Agent) (v : W64) (s : State) (t : State) (h : execFabCollAbort ag v s = .next t) :
    Keeps q s t := by
  refine railed_keeps (fun s hs => ?_) t h
  with_reducible apply State.collNotice_keeps
  assumption

theorem execFabCollCountClear_keeps {q : Prop} (ag : Agent) (r : Nat) (v : W64) (s : State) (t : State) (h : execFabCollCountClear ag r v s = .next t) :
    Keeps q s t := by
  refine railed_keeps (fun s hs => ?_) t h
  with_reducible apply State.countClear_keeps
  assumption

theorem execHostLinkUp_keeps {q : Prop} (r : Nat) (l : HostLink) (s : State) (t : State) (h : execHostLinkUp r l s = .next t) :
    Keeps q s t := by
  refine railed_keeps (fun s hs => ?_) t h
  with_reducible apply State.hostLinkUp_keeps
  assumption

theorem execHostLinkDown_keeps {q : Prop} (r : Nat) (k : Nat) (s : State) (t : State) (h : execHostLinkDown r k s = .next t) :
    Keeps q s t := by
  refine railed_keeps (fun s hs => ?_) t h
  refine Keeps.ite (State.noted_keeps _ _ hs ?_) (State.rootLinkDown_keeps _ _ _ hs)
  exact State.hostLoss_keeps _ _ _ _ hs fun _ _ h => State.closeOwner_keeps _ _ h

theorem execHostLoss_keeps {q : Prop} (r : Nat) (cause : LossCause) (s : State) (t : State) (h : execHostLoss r cause s = .next t) :
    Keeps q s t := by
  refine railed_keeps (fun s hs => ?_) t h
  refine State.noted_keeps _ _ hs ?_
  exact State.hostLoss_keeps _ _ _ _ hs fun _ _ h => State.closeOwner_keeps _ _ h

theorem execHostLossDone_keeps {q : Prop} (r : Nat) (linkInL0 : Bool) (s : State) (t : State) (h : execHostLossDone r linkInL0 s = .next t) :
    Keeps q s t := by
  refine railed_keeps (fun s hs => ?_) t h
  with_reducible apply State.hostLossDone_keeps
  assumption

theorem execMemorySpaceEnableSet_keeps {q : Prop} (r : Nat) (s : State) (t : State) (h : execMemorySpaceEnableSet r s = .next t) :
    Keeps q s t := by
  refine railed_keeps (fun s hs => ?_) t h
  with_reducible apply State.memEnableSet_keeps
  assumption

theorem execMemorySpaceEnableClear_keeps {q : Prop} (r : Nat) (s : State) (t : State) (h : execMemorySpaceEnableClear r s = .next t) :
    Keeps q s t := by
  refine railed_keeps (fun s hs => ?_) t h
  with_reducible apply State.memEnableClear_keeps
  assumption

theorem execHostBar0Access_keeps {q : Prop} (r : Nat) (f : Nat) (off : Nat) (size : Nat) (write : Option W64) (s : State) (t : State) (h : execHostBar0Access r f off size write s = .next t) :
    Keeps q s t := by
  refine railed_keeps (fun s hs => ?_) t h
  with_reducible apply State.arrive_keeps
  assumption

theorem execHostPegAtomic_keeps {q : Prop} (r : Nat) (f : Nat) (off : Nat) (size : Nat) (op : AtomOp) (v : W64) (s : State) (t : State) (h : execHostPegAtomic r f off size op v s = .next t) :
    Keeps q s t := by
  refine railed_keeps (fun s hs => ?_) t h
  with_reducible apply State.arrive_keeps
  assumption

theorem execHostBar2Read_keeps {q : Prop} (r : Nat) (f : Nat) (off : Nat) (n : Nat) (s : State) (t : State) (h : execHostBar2Read r f off n s = .next t) :
    Keeps q s t := by
  refine railed_keeps (fun s hs => ?_) t h
  with_reducible apply State.arrive_keeps
  assumption

theorem execHostBar2Write_keeps {q : Prop} (r : Nat) (f : Nat) (off : Nat) (data : List Byte) (attr : TlpAttr) (s : State) (t : State) (h : execHostBar2Write r f off data attr s = .next t) :
    Keeps q s t := by
  refine railed_keeps (fun s hs => ?_) t h
  with_reducible apply State.arrive_keeps
  assumption

theorem execHostBar2Atomic_keeps {q : Prop} (r : Nat) (f : Nat) (off : Nat) (size : Nat) (op : AtomOp) (v : W64) (s : State) (t : State) (h : execHostBar2Atomic r f off size op v s = .next t) :
    Keeps q s t := by
  refine railed_keeps (fun s hs => ?_) t h
  with_reducible apply State.arrive_keeps
  assumption

theorem execHostFnBar2SlideWrite_keeps {q : Prop} (r : Nat) (f : Nat) (v : W64) (s : State) (t : State) (h : execHostFnBar2SlideWrite r f v s = .next t) :
    Keeps q s t := by
  refine railed_keeps (fun s hs => ?_) t h
  with_reducible apply State.arrive_keeps
  assumption

theorem execHostOwnershipWrite_keeps {q : Prop} (ag : Agent) (r : Nat) (f : Nat) (word : Nat) (v : W64) (s : State) (t : State) (h : execHostOwnershipWrite ag r f word v s = .next t) :
    Keeps q s t := by
  refine railed_keeps (fun s hs => ?_) t h
  with_reducible apply State.ownershipWrite_keeps
  assumption

theorem execRootPortLinkDown_keeps {q : Prop} (r : Nat) (k : Nat) (s : State) (t : State) (h : execRootPortLinkDown r k s = .next t) :
    Keeps q s t := by
  refine railed_keeps (fun s hs => ?_) t h
  with_reducible apply State.rootLinkDown_keeps
  assumption

theorem execHostRpCtrlEnable_keeps {q : Prop} (ag : Agent) (r : Nat) (k : Nat) (v : W64) (s : State) (t : State) (h : execHostRpCtrlEnable ag r k v s = .next t) :
    Keeps q s t := by
  refine railed_keeps (fun s hs => ?_) t h
  with_reducible apply State.rpEnable_keeps
  assumption

theorem execDeviceAerError_keeps {q : Prop} (r : Nat) (k : Nat) (reqId : Nat) (s : State) (t : State) (h : execDeviceAerError r k reqId s = .next t) :
    Keeps q s t := by
  refine railed_keeps (fun s hs => ?_) t h
  with_reducible apply State.aerError_keeps
  assumption

theorem execDeviceInboundRequest_keeps {q : Prop} (r : Nat) (k : Nat) (reqId : Nat) (pasid : Nat) (addr : Nat) (storage : Bool) (n : Nat) (write : Option DeviceWrite) (s : State) (t : State) (h : execDeviceInboundRequest r k reqId pasid addr storage n write s = .next t) :
    Keeps q s t := by
  refine railed_keeps (fun s hs => ?_) t h
  with_reducible apply State.arrive_keeps
  assumption

theorem execTagOpen_keeps {q : Prop} (ag : Agent) (r : Nat) (s : State) (t : State) (h : execTagOpen ag r s = .next t) :
    Keeps q s t := by
  refine railed_keeps (fun s hs => ?_) t h
  with_reducible apply State.tagOpen_keeps
  assumption

theorem execTagClose_keeps {q : Prop} (ag : Agent) (r : Nat) (s : State) (t : State) (h : execTagClose ag r s = .next t) :
    Keeps q s t := by
  refine railed_keeps (fun s hs => ?_) t h
  with_reducible apply State.tagClose_keeps
  assumption

theorem execTagQuery_keeps {q : Prop} (ag : Agent) (r : Nat) (s : State) (t : State) (h : execTagQuery ag r s = .next t) :
    Keeps q s t := by
  refine railed_keeps (fun s hs => ?_) t h
  with_reducible apply State.tagQuery_keeps
  assumption

theorem execTagBackup_keeps {q : Prop} (s : State) (t : State) (h : execTagBackup s = .next t) :
    Keeps q s t := by
  refine railed_keeps (fun s hs => ?_) t h
  with_reducible apply State.tagBackup_keeps
  assumption

theorem execIntervalClose_keeps {q : Prop} (s : State) (t : State) (h : execIntervalClose s = .next t) :
    Keeps q s t := by
  refine railed_keeps (fun s hs => ?_) t h
  with_reducible apply State.intervalClose_keeps
  assumption

theorem execSignToken_keeps {q : Prop} (s : State) (t : State) (h : execSignToken s = .next t) :
    Keeps q s t := by
  refine checked_keeps (fun s hs => ?_) t h
  with_reducible apply State.signToken_keeps
  assumption

theorem execSignDone_keeps {q : Prop} (s : State) (t : State) (h : execSignDone s = .next t) :
    Keeps q s t := by
  refine checked_keeps (fun s hs => ?_) t h
  with_reducible apply State.signDone_keeps
  assumption

theorem execLedgerAppend_keeps {q : Prop} (s : State) (t : State) (h : execLedgerAppend s = .next t) :
    Keeps q s t := by
  refine checked_keeps (fun s hs => ?_) t h
  with_reducible apply State.ledgerAppend_keeps
  assumption

theorem execPageProgram_keeps {q : Prop} (s : State) (t : State) (h : execPageProgram s = .next t) :
    Keeps q s t := by
  refine checked_keeps (fun s hs => ?_) t h
  with_reducible apply State.pageProgram_keeps
  assumption

theorem execKilnRingHeadWrite_keeps {q : Prop} (ag : Agent) (r : Nat) (v : W64) (s : State) (t : State) (h : execKilnRingHeadWrite ag r v s = .next t) :
    Keeps q s t := by
  refine railed_keeps (fun s hs => ?_) t h
  with_reducible apply State.ringHeadWrite_keeps
  assumption

theorem execKilnAckSeqWrite_keeps {q : Prop} (ag : Agent) (r : Nat) (v : W64) (s : State) (t : State) (h : execKilnAckSeqWrite ag r v s = .next t) :
    Keeps q s t := by
  refine railed_keeps (fun s hs => ?_) t h
  with_reducible apply State.ackSeqWrite_keeps
  assumption

theorem execLedgerCompact_keeps {q : Prop} (upTo : Nat) (s : State) (t : State) (h : execLedgerCompact upTo s = .next t) :
    Keeps q s t := by
  refine checked_keeps (fun s hs => ?_) t h
  with_reducible apply State.ledgerCompact_keeps
  assumption

theorem execKilnCountClear_keeps {q : Prop} (ag : Agent) (r : Nat) (v : W64) (s : State) (t : State) (h : execKilnCountClear ag r v s = .next t) :
    Keeps q s t := by
  refine railed_keeps (fun s hs => ?_) t h
  with_reducible apply State.countClear_keeps
  assumption

theorem execInputLoss_keeps (s : State) (t : State) (h : execInputLoss s = .next t) :
    Keeps False s t := by
  refine checked_keeps (fun s hs => ?_) t h
  with_reducible apply State.inputLoss_keeps
  assumption

theorem execInputLow_keeps {q : Prop} (volts : Nat) (s : State) (t : State) (h : execInputLow volts s = .next t) :
    Keeps q s t := by
  refine checked_keeps (fun s hs => ?_) t h
  with_reducible apply State.inputLow_keeps
  assumption

theorem execInputOvervoltage_keeps (s : State) (t : State) (h : execInputOvervoltage s = .next t) :
    Keeps False s t := by
  refine checked_keeps (fun s hs => ?_) t h
  with_reducible apply State.inputOvervoltage_keeps
  assumption

theorem execInputOvercurrent_keeps (s : State) (t : State) (h : execInputOvercurrent s = .next t) :
    Keeps False s t := by
  refine checked_keeps (fun s hs => ?_) t h
  with_reducible apply State.inputOvercurrent_keeps
  assumption

theorem execRailFault_keeps {q : Prop} (r : Nat) (rail : Nat) (cause : Nat) (s : State) (t : State) (h : execRailFault r rail cause s = .next t) :
    Keeps q s t := by
  refine railed_keeps (fun s hs => ?_) t h
  refine State.noted_keeps _ _ hs ?_
  with_reducible apply State.railFault_keeps
  assumption

theorem execPwrModuleLimitWrite_keeps {q : Prop} (ag : Agent) (r : Nat) (v : W64) (s : State) (t : State) (h : execPwrModuleLimitWrite ag r v s = .next t) :
    Keeps q s t := by
  refine railed_keeps (fun s hs => ?_) t h
  with_reducible apply State.moduleLimitWrite_keeps
  assumption

theorem execPwrDomainWrite_keeps {q : Prop} (ag : Agent) (r : Nat) (d : Nat) (v : W64) (s : State) (t : State) (h : execPwrDomainWrite ag r d v s = .next t) :
    Keeps q s t := by
  refine railed_keeps (fun s hs => ?_) t h
  with_reducible apply State.domainWrite_keeps
  assumption

theorem execBudgetMessage_keeps {q : Prop} (r : Nat) (p : Nat) (f : Nat) (d : Nat) (s : State) (t : State) (h : execBudgetMessage r p f d s = .next t) :
    Keeps q s t := by
  refine railed_keeps (fun s hs => ?_) t h
  with_reducible apply State.budgetMessage_keeps
  assumption

theorem execBudgetGrant_keeps {q : Prop} (p : Predictions) (s : State) (t : State) (h : execBudgetGrant p s = .next t) :
    Keeps q s t := by
  refine railed_keeps (fun s hs => ?_) t h
  with_reducible apply State.budgetGrant_keeps
  assumption

theorem execRailOvercurrent_keeps {q : Prop} (r : Nat) (rail : Nat) (s : State) (t : State) (h : execRailOvercurrent r rail s = .next t) :
    Keeps q s t := by
  refine railed_keeps (fun s hs => ?_) t h
  with_reducible apply State.railOvercurrent_keeps
  assumption

theorem execDroopDetect_keeps {q : Prop} (h' : Nat) (cycles : Nat) (s : State) (t : State) (h : execDroopDetect h' cycles s = .next t) :
    Keeps q s t := by
  refine railed_keeps (fun s hs => ?_) t h
  with_reducible apply State.droopDetect_keeps
  assumption

theorem execDroopRecover_keeps {q : Prop} (h' : Nat) (s : State) (t : State) (h : execDroopRecover h' s = .next t) :
    Keeps q s t := by
  refine railed_keeps (fun s hs => ?_) t h
  with_reducible apply State.droopRecover_keeps
  assumption

theorem execThermalSample_keeps {q : Prop} (r : Nat) (die : Nat) (celsius : Nat) (s : State) (t : State) (h : execThermalSample r die celsius s = .next t) :
    Keeps q s t := by
  refine railed_keeps (fun s hs => ?_) t h
  with_reducible apply State.thermalSample_keeps
  assumption

theorem execThermalTrip_keeps (s : State) (t : State) (h : execThermalTrip s = .next t) :
    Keeps False s t := by
  refine checked_keeps (fun s hs => ?_) t h
  with_reducible apply State.thermalTrip_keeps
  assumption

theorem execCoolantAlarm_keeps {q : Prop} (s : State) (t : State) (h : execCoolantAlarm s = .next t) :
    Keeps q s t := by
  refine railed_keeps (fun s hs => ?_) t h
  with_reducible apply State.coolantAlarm_keeps
  assumption

theorem execPwrCountClear_keeps {q : Prop} (ag : Agent) (v : W64) (s : State) (t : State) (h : execPwrCountClear ag v s = .next t) :
    Keeps q s t := by
  refine railed_keeps (fun s hs => ?_) t h
  with_reducible apply State.countClear_keeps
  assumption

theorem execXchkDone_keeps {q : Prop} (a : Nat) (b : Nat) (da : Nat) (db : Nat) (third : Option (Nat × Nat)) (s : State) (t : State) (h : execXchkDone a b da db third s = .next t) :
    Keeps q s t := by
  refine railed_keeps (fun s hs => ?_) t h
  refine State.noted_keeps _ _ hs ?_
  with_reducible apply State.xchkDone_keeps
  assumption

theorem execXchkThirdTimeout_keeps {q : Prop} (a : Nat) (b : Nat) (s : State) (t : State) (h : execXchkThirdTimeout a b s = .next t) :
    Keeps q s t := by
  refine railed_keeps (fun s hs => ?_) t h
  refine State.noted_keeps _ _ hs ?_
  with_reducible apply State.xchkTimeout_keeps
  assumption

theorem execTuningCheckEnd_keeps {q : Prop} (b : Nat) (passed : Bool) (s : State) (t : State) (h : execTuningCheckEnd b passed s = .next t) :
    Keeps q s t := by
  refine railed_keeps (fun s hs => ?_) t h
  refine State.noted_keeps _ _ hs ?_
  with_reducible apply State.tuningEnd_keeps
  assumption

theorem execBlkMute_keeps {q : Prop} (ag : Agent) (r : Nat) (b : Nat) (s : State) (t : State) (h : execBlkMute ag r b s = .next t) :
    Keeps q s t := by
  refine railed_keeps (fun s hs => ?_) t h
  refine State.noted_keeps _ _ hs ?_
  with_reducible apply State.blkMuteWrite_keeps
  assumption

theorem execBlkRelease_keeps {q : Prop} (ag : Agent) (r : Nat) (b : Nat) (s : State) (t : State) (h : execBlkRelease ag r b s = .next t) :
    Keeps q s t := by
  refine railed_keeps (fun s hs => ?_) t h
  with_reducible apply State.blkRelease_keeps
  assumption

theorem execMgmtEvidRelease_keeps {q : Prop} (ag : Agent) (r : Nat) (v : W64) (s : State) (t : State) (h : execMgmtEvidRelease ag r v s = .next t) :
    Keeps q s t := by
  refine railed_keeps (fun s hs => ?_) t h
  with_reducible apply State.evidRelease_keeps
  assumption

theorem execPackRun_keeps {q : Prop} (cls : Nat) (unit : Nat) (s : State) (t : State) (h : execPackRun cls unit s = .next t) :
    Keeps q s t := by
  refine railed_keeps (fun s hs => ?_) t h
  with_reducible apply State.packRun_keeps
  assumption

theorem execPackResult_keeps {q : Prop} (cls : Nat) (unit : Nat) (passed : Bool) (s : State) (t : State) (h : execPackResult cls unit passed s = .next t) :
    Keeps q s t := by
  refine railed_keeps (fun s hs => ?_) t h
  refine State.noted_keeps _ _ hs ?_
  with_reducible apply State.packResult_keeps
  assumption

theorem execD2dFlitCrcError_keeps {q : Prop} (link : Nat) (lane : Nat) (s : State) (t : State) (h : execD2dFlitCrcError link lane s = .next t) :
    Keeps q s t := by
  refine railed_keeps (fun s hs => ?_) t h
  with_reducible apply State.flitCrcError_keeps
  assumption

theorem execD2dLaneMapExchange_keeps {q : Prop} (link : Nat) (m : LaneMap) (s : State) (t : State) (h : execD2dLaneMapExchange link m s = .next t) :
    Keeps q s t := by
  refine railed_keeps (fun s hs => ?_) t h
  refine State.noted_keeps _ _ hs ?_
  with_reducible apply State.laneMapExchange_keeps
  assumption

theorem execHeartbeat_keeps {q : Prop} (link : Nat) (s : State) (t : State) (h : execHeartbeat link s = .next t) :
    Keeps q s t := by
  refine railed_keeps (fun s hs => ?_) t h
  with_reducible apply State.heartbeat_keeps
  assumption

theorem execDieLost_keeps {q : Prop} (r : Nat) (die : Nat) (reason : Nat) (s : State) (t : State) (h : execDieLost r die reason s = .next t) :
    Keeps q s t := by
  refine railed_keeps (fun s hs => ?_) t h
  refine State.noted_keeps _ _ hs ?_
  with_reducible apply State.dieLost_keeps
  assumption

theorem execRegionLost_keeps {q : Prop} (r : Nat) (reason : Nat) (s : State) (t : State) (h : execRegionLost r reason s = .next t) :
    Keeps q s t := by
  refine railed_keeps (fun s hs => ?_) t h
  refine State.noted_keeps _ _ hs ?_
  with_reducible apply State.regionEvent_keeps
  assumption

theorem execRejoin_keeps {q : Prop} (ag : Agent) (r : Nat) (die : Nat) (s : State) (t : State) (h : execRejoin ag r die s = .next t) :
    Keeps q s t := by
  refine railed_keeps (fun s hs => ?_) t h
  with_reducible apply State.rejoin_keeps
  assumption

theorem execRejoinDone_keeps {q : Prop} (r : Nat) (die : Nat) (s : State) (t : State) (h : execRejoinDone r die s = .next t) :
    Keeps q s t := by
  refine railed_keeps (fun s hs => ?_) t h
  with_reducible apply State.rejoinDone_keeps
  assumption

theorem execRejoinTimeout_keeps {q : Prop} (r : Nat) (die : Nat) (s : State) (t : State) (h : execRejoinTimeout r die s = .next t) :
    Keeps q s t := by
  refine railed_keeps (fun s hs => ?_) t h
  with_reducible apply State.rejoinTimeout_keeps
  assumption

theorem execMgmtErrCountClear_keeps {q : Prop} (ag : Agent) (r : Nat) (v : W64) (s : State) (t : State) (h : execMgmtErrCountClear ag r v s = .next t) :
    Keeps q s t := by
  refine railed_keeps (fun s hs => ?_) t h
  with_reducible apply State.countClear_keeps
  assumption

theorem execAuxPowerUp_keeps {q : Prop} (slotId : Nat) (reversedSeen : Bool) (s : State) (t : State) (h : execAuxPowerUp slotId reversedSeen s = .next t) :
    Keeps q s t := by
  refine checked_keeps (fun s hs => ?_) t h
  with_reducible apply State.auxPowerUp_keeps
  assumption

theorem execAuxPowerDown_keeps {q : Prop} (s : State) (t : State) (h : execAuxPowerDown s = .next t) :
    Keeps q s t := by
  refine checked_keeps (fun s hs => ?_) t h
  with_reducible apply State.auxPowerDown_keeps
  assumption

theorem execAutoBoot_keeps (s : State) (t : State) (h : execAutoBoot s = .next t) :
    Keeps False s t := by
  refine checked_keeps (fun s hs => ?_) t h
  with_reducible apply State.autoBoot_keeps
  assumption

theorem execBoot_keeps {q : Prop} (i : BootInput) (s : State) (t : State) (h : execBoot i s = .next t) :
    Keeps q s t := by
  refine checked_keeps (fun s hs => ?_) t h
  refine State.noted_keeps _ _ hs ?_
  with_reducible apply State.boot_keeps
  assumption

theorem execBootStepTimeout_keeps {q : Prop} (s : State) (t : State) (h : execBootStepTimeout s = .next t) :
    Keeps q s t := by
  refine checked_keeps (fun s hs => ?_) t h
  with_reducible apply State.bootTimeout_keeps
  assumption

theorem execMbxGo_keeps {q : Prop} (ag : Agent) (sl : Slot) (m : Msg) (s : State) (t : State) (h : execMbxGo ag sl m s = .next t) :
    Keeps q s t := by
  refine checked_keeps (fun s hs => ?_) t h
  with_reducible apply State.mbxGo_keeps
  assumption

theorem execMbxAck_keeps {q : Prop} (ag : Agent) (sl : Slot) (s : State) (t : State) (h : execMbxAck ag sl s = .next t) :
    Keeps q s t := by
  refine checked_keeps (fun s hs => ?_) t h
  with_reducible apply State.mbxAck_keeps
  assumption

theorem execMbxResponse_keeps {q : Prop} (s : State) (t : State) (h : execMbxResponse s = .next t) :
    Keeps q s t := by
  refine checked_keeps (fun s hs => ?_) t h
  with_reducible apply State.mbxResponse_keeps
  assumption

theorem execI3cPrivateWrite_keeps {q : Prop} (bytes : List Byte) (s : State) (t : State) (h : execI3cPrivateWrite bytes s = .next t) :
    Keeps q s t := by
  refine checked_keeps (fun s hs => ?_) t h
  with_reducible apply State.i3cWrite_keeps
  assumption

theorem execI3cPrivateRead_keeps {q : Prop} (n : Nat) (s : State) (t : State) (h : execI3cPrivateRead n s = .next t) :
    Keeps q s t := by
  refine checked_keeps (fun s hs => ?_) t h
  with_reducible apply State.i3cRead_keeps
  assumption

theorem execEntdaa_keeps {q : Prop} (da : Nat) (s : State) (t : State) (h : execEntdaa da s = .next t) :
    Keeps q s t := by
  refine checked_keeps (fun s hs => ?_) t h
  with_reducible apply State.entdaa_keeps
  assumption

theorem execRstdaa_keeps {q : Prop} (s : State) (t : State) (h : execRstdaa s = .next t) :
    Keeps q s t := by
  refine checked_keeps (fun s hs => ?_) t h
  with_reducible apply State.rstdaa_keeps
  assumption

theorem execSetnewda_keeps {q : Prop} (da : Nat) (s : State) (t : State) (h : execSetnewda da s = .next t) :
    Keeps q s t := by
  refine checked_keeps (fun s hs => ?_) t h
  with_reducible apply State.setnewda_keeps
  assumption

theorem execGetpid_keeps {q : Prop} (s : State) (t : State) (h : execGetpid s = .next t) :
    Keeps q s t := by
  refine checked_keeps (fun s hs => ?_) t h
  with_reducible apply State.cccRead_keeps
  assumption

theorem execGetbcr_keeps {q : Prop} (s : State) (t : State) (h : execGetbcr s = .next t) :
    Keeps q s t := by
  refine checked_keeps (fun s hs => ?_) t h
  with_reducible apply State.cccRead_keeps
  assumption

theorem execGetdcr_keeps {q : Prop} (s : State) (t : State) (h : execGetdcr s = .next t) :
    Keeps q s t := by
  refine checked_keeps (fun s hs => ?_) t h
  with_reducible apply State.cccRead_keeps
  assumption

theorem execGetstatus_keeps {q : Prop} (s : State) (t : State) (h : execGetstatus s = .next t) :
    Keeps q s t := by
  refine checked_keeps (fun s hs => ?_) t h
  with_reducible apply State.cccRead_keeps
  assumption

theorem execGetmwl_keeps {q : Prop} (s : State) (t : State) (h : execGetmwl s = .next t) :
    Keeps q s t := by
  refine checked_keeps (fun s hs => ?_) t h
  with_reducible apply State.cccRead_keeps
  assumption

theorem execGetmrl_keeps {q : Prop} (s : State) (t : State) (h : execGetmrl s = .next t) :
    Keeps q s t := by
  refine checked_keeps (fun s hs => ?_) t h
  with_reducible apply State.cccRead_keeps
  assumption

theorem execEnec_keeps {q : Prop} (events : Nat) (s : State) (t : State) (h : execEnec events s = .next t) :
    Keeps q s t := by
  refine checked_keeps (fun s hs => ?_) t h
  with_reducible apply State.ibiSet_keeps
  assumption

theorem execDisec_keeps {q : Prop} (events : Nat) (s : State) (t : State) (h : execDisec events s = .next t) :
    Keeps q s t := by
  refine checked_keeps (fun s hs => ?_) t h
  with_reducible apply State.ibiSet_keeps
  assumption

theorem execGetStatus_keeps {q : Prop} (sl : Slot) (m : Msg) (s : State) (t : State) (h : execGetStatus sl m s = .next t) :
    Keeps q s t := by
  refine checked_keeps (fun s hs => ?_) t h
  with_reducible apply State.getStatus_keeps
  assumption

theorem execGetIdentity_keeps {q : Prop} (sl : Slot) (m : Msg) (s : State) (t : State) (h : execGetIdentity sl m s = .next t) :
    Keeps q s t := by
  refine checked_keeps (fun s hs => ?_) t h
  with_reducible apply State.getIdentity_keeps
  assumption

theorem execGetCert_keeps {q : Prop} (sl : Slot) (m : Msg) (s : State) (t : State) (h : execGetCert sl m s = .next t) :
    Keeps q s t := by
  refine checked_keeps (fun s hs => ?_) t h
  with_reducible apply State.getCert_keeps
  assumption

theorem execGetEvent_keeps {q : Prop} (sl : Slot) (m : Msg) (s : State) (t : State) (h : execGetEvent sl m s = .next t) :
    Keeps q s t := by
  refine checked_keeps (fun s hs => ?_) t h
  with_reducible apply State.getEvent_keeps
  assumption

theorem execColdBoot_keeps (sl : Slot) (m : Msg) (s : State) (t : State) (h : execColdBoot sl m s = .next t) :
    Keeps False s t := by
  refine checked_keeps (fun s hs => ?_) t h
  with_reducible apply State.coldBoot_keeps
  assumption

theorem execWarmReset_keeps (sl : Slot) (m : Msg) (s : State) (t : State) (h : execWarmReset sl m s = .next t) :
    Keeps False s t := by
  refine checked_keeps (fun s hs => ?_) t h
  with_reducible apply State.warmReset_keeps
  assumption

theorem execPowerOff_keeps (sl : Slot) (m : Msg) (s : State) (t : State) (h : execPowerOff sl m s = .next t) :
    Keeps False s t := by
  refine checked_keeps (fun s hs => ?_) t h
  with_reducible apply State.powerOff_keeps
  assumption

theorem execRun_keeps {q : Prop} (sl : Slot) (m : Msg) (s : State) (t : State) (h : execRun sl m s = .next t) :
    Keeps q s t := by
  refine checked_keeps (fun s hs => ?_) t h
  with_reducible apply State.runCmd_keeps
  assumption

theorem execQuiesce_keeps {q : Prop} (sl : Slot) (m : Msg) (s : State) (t : State) (h : execQuiesce sl m s = .next t) :
    Keeps q s t := by
  refine checked_keeps (fun s hs => ?_) t h
  with_reducible apply State.quiesceCmd_keeps
  assumption

theorem execResume_keeps {q : Prop} (sl : Slot) (m : Msg) (s : State) (t : State) (h : execResume sl m s = .next t) :
    Keeps q s t := by
  refine checked_keeps (fun s hs => ?_) t h
  with_reducible apply State.resumeCmd_keeps
  assumption

theorem execOverrideSet_keeps {q : Prop} (sl : Slot) (m : Msg) (s : State) (t : State) (h : execOverrideSet sl m s = .next t) :
    Keeps q s t := by
  refine checked_keeps (fun s hs => ?_) t h
  with_reducible apply State.overrideSet_keeps
  assumption

theorem execOverrideGet_keeps {q : Prop} (sl : Slot) (m : Msg) (s : State) (t : State) (h : execOverrideGet sl m s = .next t) :
    Keeps q s t := by
  refine checked_keeps (fun s hs => ?_) t h
  with_reducible apply State.overrideGet_keeps
  assumption

theorem execOverrideClear_keeps {q : Prop} (sl : Slot) (m : Msg) (s : State) (t : State) (h : execOverrideClear sl m s = .next t) :
    Keeps q s t := by
  refine checked_keeps (fun s hs => ?_) t h
  with_reducible apply State.overrideClear_keeps
  assumption

theorem execJournalCompact_keeps {q : Prop} (s : State) (t : State) (h : execJournalCompact s = .next t) :
    Keeps q s t := by
  refine checked_keeps (fun s hs => ?_) t h
  with_reducible apply State.journalCompact_keeps
  assumption

theorem execImageWrite_keeps {q : Prop} (sl : Slot) (m : Msg) (s : State) (t : State) (h : execImageWrite sl m s = .next t) :
    Keeps q s t := by
  refine checked_keeps (fun s hs => ?_) t h
  with_reducible apply State.imageWrite_keeps
  assumption

theorem execImageCommit_keeps {q : Prop} (sl : Slot) (m : Msg) (v : Verdict) (s : State) (t : State) (h : execImageCommit sl m v s = .next t) :
    Keeps q s t := by
  refine checked_keeps (fun s hs => ?_) t h
  with_reducible apply State.imageCommit_keeps
  assumption

theorem execCoreOffline_keeps {q : Prop} (sl : Slot) (m : Msg) (s : State) (t : State) (h : execCoreOffline sl m s = .next t) :
    Keeps q s t := by
  refine checked_keeps (fun s hs => ?_) t h
  with_reducible apply State.coreOffline_keeps
  assumption

theorem execCoreOnline_keeps {q : Prop} (sl : Slot) (m : Msg) (passed : Bool) (s : State) (t : State) (h : execCoreOnline sl m passed s = .next t) :
    Keeps q s t := by
  refine checked_keeps (fun s hs => ?_) t h
  with_reducible apply State.coreOnline_keeps
  assumption

theorem execCoreClearFail_keeps {q : Prop} (sl : Slot) (m : Msg) (s : State) (t : State) (h : execCoreClearFail sl m s = .next t) :
    Keeps q s t := by
  refine checked_keeps (fun s hs => ?_) t h
  with_reducible apply State.coreClearFail_keeps
  assumption

theorem execMuteListGet_keeps {q : Prop} (sl : Slot) (m : Msg) (s : State) (t : State) (h : execMuteListGet sl m s = .next t) :
    Keeps q s t := by
  refine checked_keeps (fun s hs => ?_) t h
  with_reducible apply State.muteListGet_keeps
  assumption

theorem execMuteListRemove_keeps {q : Prop} (sl : Slot) (m : Msg) (s : State) (t : State) (h : execMuteListRemove sl m s = .next t) :
    Keeps q s t := by
  refine checked_keeps (fun s hs => ?_) t h
  with_reducible apply State.muteListRemove_keeps
  assumption

theorem execEvidenceRead_keeps {q : Prop} (sl : Slot) (m : Msg) (s : State) (t : State) (h : execEvidenceRead sl m s = .next t) :
    Keeps q s t := by
  refine checked_keeps (fun s hs => ?_) t h
  with_reducible apply State.evidenceRead_keeps
  assumption

theorem execEvidenceRelease_keeps {q : Prop} (sl : Slot) (m : Msg) (s : State) (t : State) (h : execEvidenceRelease sl m s = .next t) :
    Keeps q s t := by
  refine checked_keeps (fun s hs => ?_) t h
  with_reducible apply State.evidenceRelease_keeps
  assumption

theorem execFuseRearm_keeps {q : Prop} (sl : Slot) (m : Msg) (s : State) (t : State) (h : execFuseRearm sl m s = .next t) :
    Keeps q s t := by
  refine checked_keeps (fun s hs => ?_) t h
  with_reducible apply State.fuseRearm_keeps
  assumption

theorem execLedgerRead_keeps {q : Prop} (sl : Slot) (m : Msg) (s : State) (t : State) (h : execLedgerRead sl m s = .next t) :
    Keeps q s t := by
  refine checked_keeps (fun s hs => ?_) t h
  with_reducible apply State.ledgerRead_keeps
  assumption

theorem execDebugUnlock_keeps {q : Prop} (sl : Slot) (m : Msg) (nonce : List Byte) (sigOk : Bool) (s : State) (t : State) (h : execDebugUnlock sl m nonce sigOk s = .next t) :
    Keeps q s t := by
  refine checked_keeps (fun s hs => ?_) t h
  with_reducible apply State.debugUnlock_keeps
  assumption

theorem execHostOutboundCompletion_keeps {q : Prop} (tag : ReqTag) (status : Nat) (data : List Byte) (s : State) (t : State) (h : execHostOutboundCompletion tag status data s = .next t) :
    Keeps q s t := by
  refine railed_keeps (fun s hs => ?_) t h
  with_reducible apply State.hostAnswer_keeps
  assumption

theorem execHostLinkRecovery_keeps {q : Prop} (r : Nat) (k : Nat) (s : State) (t : State) (h : execHostLinkRecovery r k s = .next t) :
    Keeps q s t := by
  refine railed_keeps (fun s hs => ?_) t h
  with_reducible apply State.linkRecovery_keeps
  assumption

theorem execRootPortLinkUp_keeps {q : Prop} (r : Nat) (k : Nat) (l : HostLink) (s : State) (t : State) (h : execRootPortLinkUp r k l s = .next t) :
    Keeps q s t := by
  refine railed_keeps (fun s hs => ?_) t h
  with_reducible apply State.rootLinkUp_keeps
  assumption

theorem execConfigurationWrite_keeps {q : Prop} (r : Nat) (f : Nat) (busMaster : Option Bool) (memEnable : Option Bool) (bar2Log2 : Option Nat) (s : State) (t : State) (h : execConfigurationWrite r f busMaster memEnable bar2Log2 s = .next t) :
    Keeps q s t := by
  refine railed_keeps (fun s hs => ?_) t h
  with_reducible apply State.configWrite_keeps
  assumption

theorem execInterruptTrap_keeps {q : Prop} (h' : Nat) (s : State) (t : State) (h : execInterruptTrap h' s = .next t) :
    Keeps q s t := by
  refine railed_keeps (fun s hs => ?_) t h
  with_reducible apply State.takeInterrupt_keeps
  assumption

theorem execInputReversed_keeps (s : State) (t : State) (h : execInputReversed s = .next t) :
    Keeps False s t := by
  refine checked_keeps (fun s hs => ?_) t h
  with_reducible apply State.inputReversed_keeps
  assumption

theorem execJtagInstruction_keeps {q : Prop} (boundaryScan : Bool) (s : State) (t : State) (h : execJtagInstruction boundaryScan s = .next t) :
    Keeps q s t := by
  refine checked_keeps (fun s hs => ?_) t h
  with_reducible apply State.jtag_keeps
  assumption

end Sys2Proof.Machine
end

