-- ==== Sys2Proof/Laws/Units.lean ====
section
/-!
SUPPORT. What the operations of each unit can change: harts, DMA channels, homes of lines, ports, time, the kiln, power and
management.
-/
namespace Sys2Proof.Machine

/-! ### Blocks -/

theorem settle_none (x : Block) (e n : Nat) (h : ∀ d ∈ (x.engine e).hw, d.late = none) : x.settle e n = x := by
  cases n with
  | zero => rfl
  | succ n =>
    unfold Block.settle
    cases hq : (x.engine e).hw with
    | nil => rfl
    | cons c l => simp only [h c (by rw [hq]; exact List.mem_cons_self)]

theorem settle_does (x : Block) (e n : Nat) : x.settle e n = { x with engines := (x.settle e n).engines } ∧ ∀ k, k ≠ e → (x.settle e n).engine k = x.engine k := by
  induction n generalizing x with
  | zero => exact ⟨rfl, fun _ _ => rfl⟩
  | succ n ih =>
    unfold Block.settle
    split
    · split
      · rename_i st _
        obtain ⟨a, c⟩ := ih (x.finishHead e st)
        have hf : x.finishHead e st = { x with engines := (x.finishHead e st).engines } ∧ ∀ k, k ≠ e → (x.finishHead e st).engine k = x.engine k := by
          unfold Block.finishHead; simp only; split
          · exact ⟨rfl, fun k hk => engine_set_ne _ _ _ _ hk⟩
          · exact ⟨rfl, fun _ _ => rfl⟩
        refine ⟨?_, fun k hk => by rw [c k hk, hf.2 k hk]⟩
        conv_lhs => rw [a]
        rw [hf.1]
      · exact ⟨rfl, fun _ _ => rfl⟩
    · exact ⟨rfl, fun _ _ => rfl⟩

theorem async_clear (y : W64) : setBits (setBits (setBits y 8 8 0) 9 9 0) 47 16 0 = y &&& 0xFFFF00000000FCFF#64 := by
  have e : ∀ (x : W64) hi lo, setBits x hi lo 0 = x &&& ~~~(fld (2 ^ (hi + 1 - lo) - 1) lo) := by
    intro x hi lo; unfold setBits; rw [Nat.zero_mod]; simp [fld]
  rw [e, e, e, BitVec.and_assoc, BitVec.and_assoc]
  congr 1

/-! ### Sorting -/

theorem insertKey_perm (f : Nat) (d : Bool) (x : Nat × Nat) (l : List (Nat × Nat)) : (insertKey f d x l).Perm (x :: l) := by
  induction l with
  | nil => exact List.Perm.refl _
  | cons y ys ih =>
    unfold insertKey
    split
    · exact List.Perm.refl _
    · exact (List.Perm.cons y ih).trans (List.Perm.swap x y ys)

theorem sortKeys_perm (f : Nat) (d : Bool) (l : List (Nat × Nat)) : (sortKeys f d l).Perm l := by
  induction l with
  | nil => exact List.Perm.refl _
  | cons y ys ih => exact (insertKey_perm f d y _).trans (List.Perm.cons y ih)

/-! ### Harts -/

theorem hartReady_set (s : State) (h j : Nat) : (s.setHart h (s.hart h)).hart j = s.hart j := State.hart_same s h j

theorem pumpItems_frame (k : Nat) (l : List TxItem) (kept : List TxItem) (s : State) : s.pumpItems k l kept =
    { s with ports := (s.pumpItems k l kept).ports, outbox := (s.pumpItems k l kept).outbox, regs := (s.pumpItems k l kept).regs } := by
  induction l generalizing kept s with
  | nil => rfl
  | cons i l ih =>
    unfold State.pumpItems
    simp only
    split
    · rw [ih]; rfl
    · rw [ih]

theorem countSpill_frame (s : State) (k : Nat) (p : Packet) : s.countSpill k p = { s with regs := (s.countSpill k p).regs } := by
  unfold State.countSpill; dsimp only; split <;> rfl

theorem pump_frame (s : State) (k : Nat) : s.pump k = { s with ports := (s.pump k).ports, outbox := (s.pump k).outbox, regs := (s.pump k).regs } :=
  pumpItems_frame ..

theorem sendItem_frame (s : State) (k : Nat) (i : TxItem) : s.sendItem k i =
    { s with ports := (s.sendItem k i).ports, outbox := (s.sendItem k i).outbox, regs := (s.sendItem k i).regs } :=
  (pump_frame _ k).trans rfl

theorem inject_frame (s : State) (r : Nat) (p : Packet) : s.inject r p = { s with
    ports := (s.inject r p).ports, outbox := (s.inject r p).outbox, regs := (s.inject r p).regs, fab := (s.inject r p).fab } := by
  obtain ⟨q, hq⟩ : ∃ q : Packet, q = { p with src := s.moduleId, rgen := s.fab.rgen, hops := 0, vc := 0 } := ⟨_, rfl⟩
  obtain ⟨u, hu⟩ : ∃ u, u = s.countSpill (4 * r) q := ⟨_, rfl⟩
  have uf : u = { s with regs := u.regs } := by rw [hu]; exact countSpill_frame ..
  have e : s.inject r p = if q.ordered && (u.fab.waiting.any (·.dest == q.dest) || u.orderedWaits q.dest) then
      { u with fab := { u.fab with waiting := u.fab.waiting ++ [q] } } else (u.forward q none).getD u := by
    rw [hu, hq]; rfl
  rw [e]
  split
  · rw [uf]
  · unfold State.forward
    cases u.nextHop q none with
    | none =>
      show u = { s with ports := u.ports, outbox := u.outbox, regs := u.regs, fab := u.fab }
      rw [uf]
    | some kv =>
      simp only [Option.map_some, Option.getD_some]
      rw [sendItem_frame]
      generalize u.sendItem kv.1 _ = z
      rw [uf]

theorem retire_does (Y : State) (h : Nat) : Y.retire h = { Y with harts := (Y.retire h).harts, freeCount := Y.freeCount + 1 } ∧
   (Y.retire h).hart h = { Y.hart h with pc := ((Y.retire h).hart h).pc, instret := (Y.hart h).instret + 1, wait := .none } ∧ ∀ j, j ≠ h → (Y.retire h).hart j = Y.hart j := by
  have e : (Y.retire h).hart h = { Y.hart h with pc := Config.nextPc Y.freeCount, instret := (Y.hart h).instret + 1, wait := .none } := State.hart_setHart_self ..
  refine ⟨rfl, by rw [e], fun j hj => ?_⟩
  exact State.hart_setHart_ne _ _ hj

theorem releaseOrdered_none (s : State) (h : s.fab.waiting = []) : s.releaseOrdered = s := by
  unfold State.releaseOrdered; rw [h]; rfl

theorem logLost_frame (s : State) (r : Nat) (q : OutReq) (o : Origin) (st : Nat) : s.logLost r q o st = { s with
    regs := (s.logLost r q o st).regs, fabLog := (s.logLost r q o st).fabLog, hostLog := (s.logLost r q o st).hostLog } := by
  unfold State.logLost; simp only; split <;> rfl

theorem asyncError_frame (s : State) (h a b c d : Nat) : s.asyncError h a b c d = { s with regs := (s.asyncError h a b c d).regs } := by
  unfold State.asyncError; simp only; split <;> rfl

theorem async_ne (h r : Nat) : State.asyncErrReg h ≠ FAB_ERR_TAIL r ∧ State.asyncErrReg h ≠ HOST_ERR_TAIL r ∧ State.asyncErrReg h ≠ State.asyncAddrReg h := by
  unfold State.asyncErrReg State.asyncAddrReg MGMT_CORE_ASYNC_ERR BLK_ASYNC_ERR MGMT_CORE_ASYNC_ADDR BLK_ASYNC_ADDR coreReg blkReg FAB_ERR_TAIL HOST_ERR_TAIL rreg
  split
  · refine ⟨fun c => ?_, fun c => ?_, fun c => ?_⟩
    · have c' : (h / 36 * 0x100000000 + (0x02000000 + h % 36 * 0x10000 + 128) : Nat) = r * 0x100000000 + 0x248 := c
      omega
    · have c' : (h / 36 * 0x100000000 + (0x02000000 + h % 36 * 0x10000 + 128) : Nat) = r * 0x100000000 + 0x700038 := c
      omega
    · have c' : (h / 36 * 0x100000000 + (0x02000000 + h % 36 * 0x10000 + 128) : Nat) = h / 36 * 0x100000000 + (0x02000000 + h % 36 * 0x10000 + 136) := c
      omega
  · refine ⟨fun c => ?_, fun c => ?_, fun c => ?_⟩
    · have c' : ((h - 144) / 128 * 0x100000000 + (0x01000000 + (h - 144) % 128 * 0x10000 + 128) : Nat) = r * 0x100000000 + 0x248 := c
      omega
    · have c' : ((h - 144) / 128 * 0x100000000 + (0x01000000 + (h - 144) % 128 * 0x10000 + 128) : Nat) = r * 0x100000000 + 0x700038 := c
      omega
    · have c' : ((h - 144) / 128 * 0x100000000 + (0x01000000 + (h - 144) % 128 * 0x10000 + 128) : Nat) = (h - 144) / 128 * 0x100000000 + (0x01000000 + (h - 144) % 128 * 0x10000 + 136) := c
      omega

/-! ### DMA channels -/

theorem setDma_setDma (s : State) (r c : Nat) (x y : DmaChan) : (s.setDma r c x).setDma r c y = s.setDma r c y := by
  unfold State.setDma; simp only [Map.set_set]

theorem dma_set (s : State) (r c : Nat) (x : DmaChan) : (s.setDma r c x).dmaChan r c = x := Map.get_set_self ..

theorem updDma_setDma (s : State) (r c : Nat) (x : DmaChan) (f : DmaChan → DmaChan) : (s.setDma r c x).updDma r c f = s.setDma r c (f x) := by
  unfold State.updDma; rw [dma_set, setDma_setDma]

theorem updDma_form (s : State) (r c : Nat) (f : DmaChan → DmaChan) : s.updDma r c f = s.setDma r c (f (s.dmaChan r c)) := rfl

/-! ### Pegs -/

theorem State.releaseAll_reg (ws : List (WKey × Watch)) (s : State) (g : Reg) (h : ∀ r, g ≠ WATCH_FIRED r) :
    (s.releaseAll ws 0).reg g = s.reg g := by
  induction ws generalizing s with
  | nil => rfl
  | cons x ws ih =>
    have e : s.releaseAll (x :: ws) 0 = (s.releaseWatch x.1 x.2 0).releaseAll ws 0 := rfl
    rw [e, ih]; simp only [State.releaseWatch, if_true]; exact State.reg_bump_ne _ _ (h _)

theorem State.putPeg_reg (s : State) (p : Nat) (x : Peg) (g : Reg) (h : ∀ r, g ≠ WATCH_FIRED r) :
    (s.putPeg p x).reg g = s.reg g := by
  unfold State.putPeg State.fireWatches; rw [State.releaseAll_reg _ _ _ h]; rfl

theorem putPeg_all (s : State) (p : Nat) (x : Peg) : ∃ t, s.putPeg p x = t ∧
      t = { s with pegs := t.pegs, watches := t.watches, gens := t.gens, fired := t.fired, regs := t.regs } ∧
      t.peg p = x ∧ (∀ q, q ≠ p → t.peg q = s.peg q) ∧
      ∀ g, (∀ r, g ≠ WATCH_FIRED r) → t.reg g = s.reg g := by
  refine ⟨_, rfl, ?_, ?_, ?_, fun g h => State.putPeg_reg s p x g h⟩
  · conv_lhs => rw [State.putPeg_frame]
    conv_rhs => rw [State.putPeg_frame]
  · rw [State.putPeg_frame]; simp [State.peg]
  · intro q h; rw [State.putPeg_frame]; simp [State.peg, Map.get_set_ne _ _ _ h]

theorem hart_lt (ag : Agent) (h : Nat) (hw : ag.wf = true) (hh : ag.hart = some h) : h < 656 := by
  unfold Agent.hart at hh; unfold Agent.wf at hw
  split at hh
  · simp at hh
  · split at hh <;> simp_all <;> omega

theorem wake_frame (s : State) (h : Nat) : s.wake h = { s with harts := (s.wake h).harts } := by
  unfold State.wake; split <;> rfl

/-! ### Homes of lines -/

theorem settleHarts_idle (s : State) (h : ∀ x ∈ s.harts, x.2.stores = [] ∧ x.2.combine = none) : s.settleHarts = s := by
  have hc : ∀ j, (s.hart j).combine = none := fun j =>
    Map.set_get_mem s.harts j _ (fun x : Hart => x.combine = none) rfl fun y hy => (h y hy).2
  refine foldl_stays _ _ _ fun x hx => ?_
  have e : s.writeCombine x.1 = s := by unfold State.writeCombine; rw [hc]
  rw [e, ite_self, (h x hx).1]
  rfl

theorem clearCopy_frame (s : State) (a : Nat) : s.clearCopyValid a = { s with pat := (s.clearCopyValid a).pat } := by
  unfold State.clearCopyValid; split
  · simp only; split <;> rfl
  · rfl

theorem spend_frame (s : State) (r q p : Nat) : s.spend r q p = { s with buckets := (s.spend r q p).buckets } := by
  unfold State.spend; split <;> rfl

theorem charge_frame (s : State) (l : Nat) : s.charge l = { s with buckets := (s.charge l).buckets } := by
  unfold State.charge
  split
  · exact spend_frame ..
  · rfl

theorem patLookup_frame (s : State) (a : Nat) : s.patLookup a =
    { s with regs := (s.patLookup a).regs, patCache := (s.patLookup a).patCache, freeCount := (s.patLookup a).freeCount } := by
  unfold State.patLookup
  cases State.patIndex a with
  | none => rfl
  | some e =>
    have : ∀ held cap g, (s.tableLookup held cap g e).1 =
        { s with regs := (s.tableLookup held cap g e).1.regs, freeCount := (s.tableLookup held cap g e).1.freeCount } := by
      intro held cap g; unfold State.tableLookup; dsimp only; split
      · rfl
      · split <;> rfl
    exact congrArg (fun z : State => { z with patCache := (s.tableLookup s.patCache 8192 (MGMT_MEM_PAT_MISSES e.1) e).2 }) (this ..)

/-- What a lookup takes into the PAT cache depends on what the cache holds and on the free values taken so far only. -/
theorem patLookup_congr (s t : State) (a : Nat) (h1 : t.patCache = s.patCache) (h2 : t.freeCount = s.freeCount) :
    (t.patLookup a).patCache = (s.patLookup a).patCache ∧ (t.patLookup a).freeCount = (s.patLookup a).freeCount := by
  unfold State.patLookup
  cases State.patIndex a with
  | none => exact ⟨h1, h2⟩
  | some e =>
    unfold State.tableLookup; dsimp only; rw [h1]
    split
    · exact ⟨rfl, h2⟩
    · split
      · exact ⟨rfl, h2⟩
      · refine ⟨?_, congrArg (· + 1) h2⟩
        show e :: s.patCache.erase ((s.patCache.filter (·.1 == e.1)).getD (Config.victim t.freeCount % 8192) e) = _
        rw [h2]; rfl

theorem serve_frame (s : State) (l : Nat) : (s.charge l).countServe l = { s with
    buckets := (s.charge l).buckets, regs := ((s.charge l).countServe l).regs,
    patCache := (s.patLookup (l * 128)).patCache, freeCount := (s.patLookup (l * 128)).freeCount } := by
  obtain ⟨w, hw⟩ : ∃ w, s.charge l = w := ⟨_, rfl⟩
  have hf : w = { s with buckets := w.buckets } := by rw [← hw]; exact charge_frame s l
  obtain ⟨h1, h2⟩ := patLookup_congr s w (l * 128) (by rw [hf]) (by rw [hf])
  have : w.countServe l = { w.patLookup (l * 128) with regs := (w.countServe l).regs } := rfl
  rw [hw, this, patLookup_frame, h1, h2]
  exact congrArg (fun z : State => { z with regs := (w.countServe l).regs, patCache := (s.patLookup (l * 128)).patCache,
                                            freeCount := (s.patLookup (l * 128)).freeCount }) hf

theorem countPoison_frame (s : State) (n : Nat) (l : Line) : s.countPoison n l = { s with regs := (s.countPoison n l).regs } := by
  unfold State.countPoison; split <;> rfl

theorem slcFill_frame (s : State) (n : Nat) (d : Bool) : s.slcFill n d = { s with
    slc := (s.slcFill n d).slc, slcDirty := (s.slcFill n d).slcDirty, freeCount := (s.slcFill n d).freeCount } := by
  unfold State.slcFill; dsimp only; split <;> split <;> first | rfl | (split <;> rfl)

theorem allocate_fill (s : State) (n : Nat) (d : Bool) : ∃ B, s.allocate n d = ({ s with buckets := B } : State).slcFill n d := by
  unfold State.allocate; split
  · exact ⟨_, rfl⟩
  · exact ⟨_, congrArg (fun z : State => z.slcFill n d) (spend_frame ..)⟩

/-- What the SLC allocates depends on what it holds and on the free values taken so far only. -/
theorem slcFill_congr (s t : State) (n : Nat) (d : Bool) (h1 : t.slc = s.slc) (h2 : t.slcDirty = s.slcDirty) (h3 : t.freeCount = s.freeCount) :
    (t.slcFill n d).slc = (s.slcFill n d).slc ∧ (t.slcFill n d).slcDirty = (s.slcFill n d).slcDirty ∧
    (t.slcFill n d).freeCount = (s.slcFill n d).freeCount := by
  have w : ∀ l, ({ t with slcDirty := l } : State).slcVictim n = s.slcVictim n := by
    intro l; unfold State.slcVictim; dsimp only; rw [h1, h3]
  have w' : t.slcVictim n = s.slcVictim n := w t.slcDirty
  have w'' : ∀ l, ({ s with slcDirty := l } : State).slcVictim n = s.slcVictim n := fun _ => rfl
  unfold State.slcFill
  rw [h2]
  cases d && !s.slcDirty.contains n with
  | true =>
    simp only [if_true, w, w'']
    simp only [h1]
    split
    · exact ⟨rfl, rfl, h3⟩
    · cases s.slcVictim n
      · exact ⟨rfl, rfl, h3⟩
      · exact ⟨rfl, rfl, congrArg (· + 1) h3⟩
  | false =>
    simp only [Bool.false_eq_true, if_false, w']
    simp only [h1]
    split
    · exact ⟨h1, h2, h3⟩
    · cases s.slcVictim n
      · exact ⟨rfl, h2, h3⟩
      · exact ⟨rfl, congrArg (fun l : List Nat => l.erase _) h2, congrArg (· + 1) h3⟩

theorem wrBytes_frame (bs : List Byte) : ∀ (s : State) (a : Nat), s.wrBytes a bs = { s with mem := (s.wrBytes a bs).mem, poison := (s.wrBytes a bs).poison } := by
  intro s a; unfold State.wrBytes; rfl

theorem putLine_frame (s : State) (n : Nat) (l : Line) : s.putLine n l = { s with mem := (s.putLine n l).mem, poison := (s.putLine n l).poison } := by
  have : ∀ (ws : List Nat) (y : State), ws.foldl (fun s i => s.addPoison (n * 16 + i)) y = { y with poison := (ws.foldl (fun s i => s.addPoison (n * 16 + i)) y).poison } := by
    intro ws; induction ws with
    | nil => intro y; rfl
    | cons a l ih =>
      intro y; rw [List.foldl_cons, ih]
      unfold State.addPoison; split <;> rfl
  unfold State.putLine; simp only
  rw [this]
  unfold State.wrNat
  rw [wrBytes_frame]

theorem putLine_congr (s t : State) (n : Nat) (l : Line) (h1 : t.mem = s.mem) (h2 : t.poison = s.poison) : (t.putLine n l).mem = (s.putLine n l).mem ∧ (t.putLine n l).poison = (s.putLine n l).poison := by
  have : ∀ (ws : List Nat) (y z : State), y.mem = z.mem → y.poison = z.poison → (ws.foldl (fun s i => s.addPoison (n * 16 + i)) y).mem = (ws.foldl (fun s i => s.addPoison (n * 16 + i)) z).mem ∧ (ws.foldl (fun s i => s.addPoison (n * 16 + i)) y).poison = (ws.foldl (fun s i => s.addPoison (n * 16 + i)) z).poison := by
    intro ws; induction ws with
    | nil => intro y z a b; exact ⟨a, b⟩
    | cons a l ih =>
      intro y z e1 e2; rw [List.foldl_cons, List.foldl_cons]; apply ih
      · unfold State.addPoison; rw [e2]; split <;> exact e1
      · unfold State.addPoison; rw [e2]; split
        · exact e2
        · rfl
  unfold State.putLine
  apply this
  · unfold State.wrNat State.wrBytes; simp only [h1]
  · unfold State.wrNat State.wrBytes; simp only [h2]

theorem find_none_of_idle (s : State) (line : Nat) (h : s.lineBusy line = false) : s.txns.find? (·.line == line) = none := by
  unfold State.lineBusy at h
  rw [List.find?_eq_none]; intro x hx
  rw [List.any_eq_false] at h
  exact h x hx

theorem serveHome_does (v : State) (k line : Nat) (st : CState) : ∃ t, v.serveHome k line st = t ∧
    t = { v with regs := t.regs, buckets := t.buckets, caches := v.caches.set (k, line) ⟨st, v.memLine line⟩,
                 slc := ((v.patLookup (line * 128)).slcFill line false).slc,
                 slcDirty := ((v.patLookup (line * 128)).slcFill line false).slcDirty,
                 freeCount := ((v.patLookup (line * 128)).slcFill line false).freeCount,
                 patCache := (v.patLookup (line * 128)).patCache } := by
  have e0 : v.serveHome k line st = (((((v.charge line).countServe line).countPoison line (((v.charge line).countServe line).memLine line)).allocate line false).fill k line st (((v.charge line).countServe line).memLine line)) := rfl
  have hf := serve_frame v line
  obtain ⟨w, hw⟩ : ∃ w, (v.charge line).countServe line = w := ⟨_, rfl⟩
  obtain ⟨B, hB⟩ : ∃ B, (v.charge line).buckets = B := ⟨_, rfl⟩
  obtain ⟨u, hu⟩ : ∃ u, v.patLookup (line * 128) = u := ⟨_, rfl⟩
  have uf := patLookup_frame v (line * 128)
  rw [hw, hB, hu] at hf
  rw [hw] at e0
  rw [hu] at uf ⊢
  have hm : w.memLine line = v.memLine line := by
    apply memLine_congr <;> rw [hf]
  rw [hm] at e0
  obtain ⟨x, hx⟩ : ∃ x, w.countPoison line (v.memLine line) = x := ⟨_, rfl⟩
  have hxf := countPoison_frame w line (v.memLine line)
  rw [hx] at hxf e0
  obtain ⟨B', hB'⟩ := allocate_fill x line false
  obtain ⟨y, hy⟩ : ∃ y, ({ x with buckets := B' } : State) = y := ⟨_, rfl⟩
  have e1 : y = { v with buckets := B', regs := x.regs, patCache := u.patCache, freeCount := u.freeCount } := by
    rw [← hy, hxf, hf]
  obtain ⟨c1, c2, c3⟩ := slcFill_congr u y line false (by rw [e1, uf]) (by rw [e1, uf]) (by rw [e1])
  obtain ⟨L, hL⟩ : ∃ L, v.memLine line = L := ⟨_, rfl⟩
  rw [hL] at e0 ⊢
  rw [hB', hy, slcFill_frame, c1, c2, c3] at e0
  refine ⟨_, e0, ?_⟩
  clear e0 hx hxf hm hL hw c1 c2 c3 hB' hy uf
  unfold State.fill State.setCache
  simp only
  rw [e1]

theorem homeStore_ok (v : State) (line : Nat) (L : Line) (ag : Agent) (h : v.homeStatus (line * 128) = stOK) :
    v.homeStore ag line L = (v.putLine line L).allocate line true := by
  have hs : ∀ x : State, x = (if v.homeStatus (line * 128) ≠ stOK then v.logDiscard ag (line * 128) (v.homeStatus (line * 128)) else x) := by
    intro x; rw [if_neg (fun c => c h)]
  exact (hs _).symm

theorem write_does (v : State) (line : Nat) (L : Line) (ag : Agent) (h : v.homeStatus (line * 128) = stOK) : v.homeStore ag line L =
    { v with mem := (v.putLine line L).mem, poison := (v.putLine line L).poison, slc := (v.slcFill line true).slc,
             slcDirty := (v.slcFill line true).slcDirty, freeCount := (v.slcFill line true).freeCount,
             buckets := (v.homeStore ag line L).buckets } := by
  rw [homeStore_ok v line L ag h]
  obtain ⟨B, hB⟩ := allocate_fill (v.putLine line L) line true
  have hp := putLine_frame v line L
  obtain ⟨w, hw⟩ : ∃ w, ({ v.putLine line L with buckets := B } : State) = w := ⟨_, rfl⟩
  have wf : w = { v with mem := (v.putLine line L).mem, poison := (v.putLine line L).poison, buckets := B } := by rw [← hw, hp]
  obtain ⟨c1, c2, c3⟩ := slcFill_congr v w line true (by rw [wf]) (by rw [wf]) (by rw [wf])
  have e : (w.slcFill line true).buckets = B := by rw [slcFill_frame, wf]
  rw [hB, hw, e, slcFill_frame, c1, c2, c3, wf]

/-- The first transaction on every line has started: none of them can start again. -/
theorem startFirst_started (s : State) (line n : Nat) (h : ∀ t, s.txns.find? (·.line == line) = some t → t.started = true) :
    s.startFirst line n = s := by
  cases n with
  | zero => rfl
  | succ n =>
    unfold State.startFirst
    cases hf : s.txns.find? (·.line == line) with
    | none => rfl
    | some t => simp only [h t hf, Bool.true_or, if_true]

theorem startAll_started (n : Nat) (s : State) (h : ∀ l t, s.txns.find? (·.line == l) = some t → t.started = true) : s.startAll n = s := by
  induction n with
  | zero => rfl
  | succ n ih =>
    unfold State.startAll
    rw [foldl_stays _ _ s fun l _ => startFirst_started s l _ (h l)]
    exact ih

/-- An accepted request to an idle line with a free directory way completes at once. -/
theorem accept_completes (u : State) (line : Nat) (q : CReq) (credit : Bool) (v : State)
    (hv : (if q.writes then u.clearCopyValid (line * 128) else u) = v) (hb : u.lineBusy line = false) (hd : u.dirOf line = none)
    (hw : u.dirVictim line = none) (hm : v.memoryHolds line = false) (hq : ∀ k, q ≠ .writeBack k ∧ q ≠ .cleanEvict k)
    (hst : ∀ l t, u.txns.find? (·.line == l) = some t → t.started = true)
    (ht : (v.complete { line := line, req := q, credit := credit }).txns = u.txns) :
    u.accept line q credit = v.complete { line := line, req := q, credit := credit } := by
  let T : Txn := { line := line, req := q, credit := credit }
  have hvf : v = { u with pat := v.pat } := by
    rw [← hv]; split
    · exact clearCopy_frame _ _
    · rfl
  have hvt : v.txns = u.txns := by rw [hvf]
  have hn := find_none_of_idle u line hb
  obtain ⟨z, hz⟩ : ∃ z : State, z = { v with txns := v.txns ++ [T] } := ⟨_, rfl⟩
  have zt : z.txns = u.txns ++ [T] := by rw [hz, ← hvt]
  have zd : z.dirOf line = none := by rw [hz]; show v.dirOf line = none; rw [hvf]; exact hd
  have zw : z.dirVictim line = none := by rw [hz]; show v.dirVictim line = none; rw [hvf]; exact hw
  have zm : z.memoryHolds line = false := by rw [hz]; exact hm
  have hf : z.txns.find? (·.line == line) = some T := by
    rw [zt, List.find?_append, hn]; simp [T]
  have her : z.txns.erase T = u.txns := by
    rw [zt, List.erase_append_right]
    · simp
    · intro h
      rw [List.find?_eq_none] at hn
      exact absurd (hn T h) (by simp [T])
  have hne : z.needs line q = [] := by
    unfold State.needs; rw [zd]; cases q <;> rfl
  have hnw : z.needsWay T = none := by
    unfold State.needsWay
    cases q <;> simp only [T, zd, zw, Option.isNone_none, if_true]
  have ze : ({ z with txns := u.txns } : State) = v := by rw [hz, ← hvt]
  have idle : ∀ l n, (v.complete T).startFirst l n = v.complete T := fun l n =>
    startFirst_started _ l n fun t h => hst l t (by rw [← ht]; exact h)
  have first : ∀ n, z.startFirst line (n + 1) = v.complete T := by
    intro n
    conv_lhs => unfold State.startFirst
    rw [hf]
    simp only [hnw, zm, her, ze]
    rw [if_neg (by simp [T]), if_pos hne]
    exact idle line n
  have stays : ∀ l n, l ≠ line → z.startFirst l n = z := by
    intro l n hl
    refine startFirst_started z l n fun t h => ?_
    rw [zt, List.find?_append] at h
    cases hx : u.txns.find? (·.line == l) with
    | some t' => rw [hx] at h; exact hst l t (by rw [hx]; exact h)
    | none => rw [hx] at h; simp [T, Ne.symm hl] at h
  have e0 : u.accept line q credit = z.startAll 3 := by
    unfold State.accept; simp only [hv, hz]; rfl
  rw [e0]
  unfold State.startAll
  rw [zt, List.map_append, List.foldl_append]
  rw [foldl_stays _ _ z]
  · show (z.startFirst line _).startAll 2 = _
    rw [first]
    exact startAll_started 2 _ fun l t h => hst l t (by rw [← ht]; exact h)
  · intro l hl
    obtain ⟨t, h1, h2⟩ := List.mem_map.1 hl
    refine stays l _ fun hc => ?_
    rw [List.find?_eq_none] at hn
    exact hn t h1 (by simp [h2, hc])

theorem accept_does (u : State) (line : Nat) (q : CReq) (credit : Bool) (hb : u.lineBusy line = false) (hd : u.dirOf line = none)
    (hw : u.dirVictim line = none) (hm : u.retraining (line * 128) = false) (hp : ∀ r, u.patBusy.find r = none)
    (hst : ∀ l t, u.txns.find? (·.line == l) = some t → t.started = true)
    (hs : u.homeStatus (line * 128) = stOK) (hq : ∀ k, q ≠ .writeBack k ∧ q ≠ .cleanEvict k) (hb' : q ≠ .backInval) :
    ServedAtOnce u line q (u.accept line q credit) := by
  obtain ⟨v, hv⟩ : ∃ v, (if q.writes then u.clearCopyValid (line * 128) else u) = v := ⟨_, rfl⟩
  have hvf : v = { u with pat := v.pat } := by
    rw [← hv]; split
    · exact clearCopy_frame _ _
    · rfl
  have hpat : q.writes = false → v.pat = u.pat := by intro h; rw [← hv, h]; rfl
  have hmh : v.memoryHolds line = false := by
    have e1 : v.reencoding (line * 128) = false := by
      unfold State.reencoding
      cases State.patIndex (line * 128) with
      | none => rfl
      | some x =>
        have : v.patBusy.find x.1 = none := by rw [hvf]; exact hp x.1
        simp only [this]; rfl
    have e2 : v.retraining (line * 128) = u.retraining (line * 128) := by rw [hvf]; rfl
    unfold State.memoryHolds
    rw [e1, e2, hm]; simp
  let T : Txn := { line := line, req := q, credit := credit }
  have e : (v.complete T).txns = u.txns → u.accept line q credit = v.complete T :=
    accept_completes u line q credit v hv hb hd hw hmh hq hst
  have hvm : v.memLine line = u.memLine line := by apply memLine_congr <;> rw [hvf]
  have hvs : v.homeStatus (line * 128) = stOK := (homeStatus_congr u v _ (by rw [hvf]) (by rw [hvf]) (by rw [hvf]) (by rw [hvf])).trans hs
  have hvd : v.dirOf line = none := by rw [hvf]; exact hd
  have hvx : v.dir.find line = none := hvd
  obtain ⟨N, hN⟩ : ∃ N, u.patLookup (line * 128) = N := ⟨_, rfl⟩
  have Nf : N = { u with regs := N.regs, patCache := N.patCache, freeCount := N.freeCount } := by rw [← hN]; exact patLookup_frame ..
  have seenC : ∀ w : State, w.patCache = u.patCache → w.freeCount = u.freeCount →
      (w.patLookup (line * 128)).patCache = N.patCache ∧ (w.patLookup (line * 128)).freeCount = N.freeCount := by
    intro w a b; rw [← hN]; exact patLookup_congr u w _ a b
  have serveC : ∀ w : State, w.patCache = u.patCache → w.freeCount = u.freeCount → ∃ t, (w.charge line).countServe line = t ∧
      t = { w with buckets := t.buckets, regs := t.regs, patCache := N.patCache, freeCount := N.freeCount } := by
    intro w a b; refine ⟨_, rfl, ?_⟩
    obtain ⟨c1, c2⟩ := seenC w a b
    have h := serve_frame w line
    rw [c1, c2] at h
    have e : ((w.charge line).countServe line).buckets = (w.charge line).buckets := by rw [h]
    rw [e]; exact h
  have fillC : ∀ (w : State) (d : Bool), w.slc = u.slc → w.slcDirty = u.slcDirty → w.freeCount = N.freeCount →
      (w.slcFill line d).slc = (N.slcFill line d).slc ∧ (w.slcFill line d).slcDirty = (N.slcFill line d).slcDirty ∧
      (w.slcFill line d).freeCount = (N.slcFill line d).freeCount := by
    intro w d a b c
    exact slcFill_congr N w line d (by rw [a, Nf]) (by rw [b, Nf]) c
  have RD : ∀ k, ∃ t, (v.serveHome k line .exclusive).setDir line (some (.excl k)) = t ∧ t.txns = u.txns ∧
      ServedAtOnce u line (.readUnique k) t := by
    intro k
    obtain ⟨t, h1, h2⟩ := serveHome_does v k line .exclusive
    obtain ⟨d1, d2⟩ := seenC v (by rw [hvf]) (by rw [hvf])
    obtain ⟨c1, c2, c3⟩ := fillC (v.patLookup (line * 128)) false (by rw [patLookup_frame, hvf]) (by rw [patLookup_frame, hvf]) d2
    rw [h1, h2, hvm, c1, c2, c3, d1]
    refine ⟨_, rfl, ?_⟩
    unfold State.setDir ServedAtOnce
    simp only [hvx, hN, Option.isSome_none, Bool.false_eq_true, if_false]
    rw [hvf]
    simp
  have WR : ∀ (ag : Agent) (w : State) L, w = { v with dir := u.dir.erase line, dirOrder := u.dirOrder.erase line, buckets := w.buckets, regs := w.regs, engineData := w.engineData, patCache := N.patCache, freeCount := N.freeCount } → ∃ t, w.homeStore ag line L = t ∧ t.txns = u.txns ∧
      (t = { u with regs := t.regs, mem := t.mem, poison := t.poison, dir := t.dir, dirOrder := t.dirOrder, caches := t.caches,
                    evicting := t.evicting, slc := t.slc, slcDirty := t.slcDirty, freeCount := t.freeCount, pat := t.pat,
                    buckets := t.buckets, engineData := t.engineData, errLog := t.errLog, patCache := t.patCache }) ∧
      t.patCache = N.patCache ∧
      ((t.caches = u.caches ∧ t.evicting = u.evicting) ∧ (t.slc = (N.slcFill line true).slc ∧ t.slcDirty = (N.slcFill line true).slcDirty ∧
        t.freeCount = (N.slcFill line true).freeCount) ∧ (t.dir = u.dir.erase line ∧ t.dirOrder = u.dirOrder.erase line) ∧
        t.mem = (u.putLine line L).mem ∧ t.poison = (u.putLine line L).poison) ∧ t.engineData = w.engineData ∧ t.errLog = u.errLog := by
    intro ag w L hw
    have h1 : w.homeStatus (line * 128) = stOK := (homeStatus_congr v w _ (by rw [hw]) (by rw [hw]) (by rw [hw]) (by rw [hw])).trans hvs
    rw [write_does w line L ag h1]
    obtain ⟨p1, p2⟩ := putLine_congr u w line L (by rw [hw, hvf]) (by rw [hw, hvf])
    obtain ⟨c1, c2, c3⟩ := fillC w true (by rw [hw, hvf]) (by rw [hw, hvf]) (by rw [hw])
    refine ⟨_, rfl, ?_⟩
    rw [p1, p2, c1, c2, c3]
    generalize (w.homeStore ag line L).buckets = B
    rw [hw, hvf]
    exact ⟨rfl, rfl, rfl, ⟨⟨rfl, rfl⟩, ⟨rfl, rfl, rfl⟩, ⟨rfl, rfl⟩, rfl, rfl⟩, rfl, rfl⟩
  cases q with
  | readShared k =>
    have : v.complete T = (v.serveHome k line .exclusive).setDir line (some (.excl k)) := by
      unfold State.complete; simp only [T, hvd, if_true]
    obtain ⟨t, h1, h2, h3⟩ := RD k
    rw [e (by rw [this, h1]; exact h2), this, h1]; exact h3
  | readUnique k =>
    have : v.complete T = (v.serveHome k line .exclusive).setDir line (some (.excl k)) := by
      unfold State.complete; simp only [T, State.finishUnique]
    obtain ⟨t, h1, h2, h3⟩ := RD k
    rw [e (by rw [this, h1]; exact h2), this, h1]; exact h3
  | upgrade k =>
    have : v.complete T = (v.serveHome k line .exclusive).setDir line (some (.excl k)) := by
      unfold State.complete; simp only [T, hvd, State.finishUnique]
      cases v.cacheOf k line <;> simp
    obtain ⟨t, h1, h2, h3⟩ := RD k
    rw [e (by rw [this, h1]; exact h2), this, h1]; exact h3
  | writeBack k => exact absurd rfl (hq k).1
  | cleanEvict k => exact absurd rfl (hq k).2
  | backInval => exact absurd rfl hb'
  | eRead p =>
    obtain ⟨w, w1, w2⟩ := serveC v (by rw [hvf]) (by rw [hvf])
    have hwm : w.memLine line = u.memLine line := by apply memLine_congr <;> (rw [w2]; rw [hvf])
    have : v.complete T = { w.countPoison line (u.memLine line) with engineData := w.engineData.set p (u.memLine line) } := by
      unfold State.complete; simp only [T, w1, hwm]
    have hpp := hpat rfl
    have hu : v = u := by rw [hvf, hpp]
    rw [e (by rw [this, countPoison_frame, w2, hvf]), this, countPoison_frame]
    unfold ServedAtOnce
    simp only [hN]
    rw [w2, hu]
    exact ⟨rfl, rfl, ⟨rfl, rfl⟩, rfl, rfl, rfl, rfl, ⟨rfl, rfl, rfl⟩, rfl, rfl, rfl⟩
  | eWrite p d =>
    obtain ⟨w, w1, w2⟩ := serveC (v.setDir line none) (by unfold State.setDir; rw [hvf]) (by unfold State.setDir; rw [hvf])
    have : v.complete T = w.homeStore (requester v.moduleId p) line { data := d } := by
      unfold State.complete; simp only [T, w1]; rfl
    obtain ⟨t, h1, h2, h3, h7, h4, h5, h6⟩ := WR (requester v.moduleId p) w { data := d } (by rw [w2]; unfold State.setDir; rw [hvf])
    rw [e (by rw [this, h1]; exact h2), this, h1]
    unfold ServedAtOnce; simp only [hN]
    exact ⟨h3, h7, h4, h5.trans (by rw [w2, hvf]; rfl), h6⟩
  | eMasked p d m =>
    obtain ⟨w, w1, w2⟩ := serveC (v.setDir line none) (by unfold State.setDir; rw [hvf]) (by unfold State.setDir; rw [hvf])
    have hwm : w.memLine line = u.memLine line := by apply memLine_congr <;> (rw [w2]; unfold State.setDir; rw [hvf])
    have : v.complete T = w.homeStore (requester v.moduleId p) line ((u.memLine line).merge d m) := by
      unfold State.complete; simp only [T, w1, hwm]; rfl
    obtain ⟨t, h1, h2, h3, h7, h4, h5, h6⟩ := WR (requester v.moduleId p) w ((u.memLine line).merge d m) (by rw [w2]; unfold State.setDir; rw [hvf])
    rw [e (by rw [this, h1]; exact h2), this, h1]
    unfold ServedAtOnce; simp only [hN]
    exact ⟨h3, h7, h4, h5.trans (by rw [w2, hvf]; rfl), h6⟩
  | eAtomic p off size op x =>
    obtain ⟨w, w1, w2⟩ := serveC (v.setDir line none) (by unfold State.setDir; rw [hvf]) (by unfold State.setDir; rw [hvf])
    have hwm : w.memLine line = u.memLine line := by apply memLine_congr <;> (rw [w2]; unfold State.setDir; rw [hvf])
    obtain ⟨y, hy, hyf⟩ : ∃ y : State, ({ w.countPoison line (u.memLine line) with engineData := w.engineData.set p (u.memLine line) } : State) = y ∧ y = { v with dir := u.dir.erase line, dirOrder := u.dirOrder.erase line, buckets := y.buckets, regs := y.regs, engineData := u.engineData.set p (u.memLine line), patCache := N.patCache, freeCount := N.freeCount } := by
      refine ⟨_, rfl, ?_⟩
      rw [countPoison_frame, w2]; unfold State.setDir; rw [hvf]
    have hye : y.engineData = u.engineData.set p (u.memLine line) := by rw [hyf]
    have : v.complete T = if (u.memLine line).bad off size then y.logPoison (requester v.moduleId p) (line * 128 + off)
        else y.homeStore (requester v.moduleId p) line ((u.memLine line).put off size (atomResult op size ((u.memLine line).get off size) x.toNat)) := by
      unfold State.complete; simp only [T, w1, hwm, hy]; rfl
    cases hbad : (u.memLine line).bad off size with
    | true =>
      rw [hbad] at this
      simp only [if_true] at this
      rw [e (by rw [this]; show y.txns = _; rw [hyf, hvf]), this]
      unfold ServedAtOnce; simp only [hN]
      refine ⟨?_, by show y.patCache = _; rw [hyf], hye, fun h => absurd h (by rw [hbad]; simp), fun _ => ⟨⟨?_, ?_⟩, ?_, ?_, ⟨?_, ?_⟩, ⟨?_, ?_, ?_⟩⟩⟩
      · have e3 : ∃ L G, y.logPoison (requester v.moduleId p) (line * 128 + off) = { y with errLog := L, regs := G } := ⟨_, _, rfl⟩
        obtain ⟨L, G, e3⟩ := e3
        rw [e3, hyf, hvf]
      · show y.caches = _; rw [hyf, hvf]
      · show y.evicting = _; rw [hyf, hvf]
      · show y.mem = _; rw [hyf, hvf]
      · show y.poison = _; rw [hyf, hvf]
      · show y.dir = _; rw [hyf]
      · show y.dirOrder = _; rw [hyf]
      · show y.slc = _; rw [hyf, hvf]
      · show y.slcDirty = _; rw [hyf, hvf]
      · show y.freeCount = _; rw [hyf]
    | false =>
      rw [hbad] at this
      simp only [Bool.false_eq_true, if_false] at this
      obtain ⟨t, h1, h2, h3, h7, h4, h5, h6⟩ := WR (requester v.moduleId p) y ((u.memLine line).put off size (atomResult op size ((u.memLine line).get off size) x.toNat)) (by rw [hye]; exact hyf)
      rw [e (by rw [this, h1]; exact h2), this, h1]
      unfold ServedAtOnce; simp only [hN]
      exact ⟨h3, h7, h5.trans hye, fun _ => ⟨h4, h6⟩, fun h => absurd h (by rw [hbad]; simp)⟩

theorem request_does (s : State) (line : Nat) (q : CReq) (h1 : s.cacheable (line * 128) = true) (h2 : s.regionLive (State.lineHome line) = true)
    (h3 : s.initDone.contains (State.lineHome line) = true) (h4 : ∀ f, s.heldBy line f = none) :
    s.request line q = if 1024 ≤ s.tracked (State.lineHome line) then s.retry line q none else s.accept line q false := by
  unfold State.request State.offer
  simp only [h1, h2, h3, h4, Bool.not_true, Bool.false_eq_true, if_false, Option.isSome_none]

/-! ### Words -/

theorem bits_or4 (v : BitVec 64) : bits (v ||| 4) 1 0 = bits v 1 0 := by
  unfold bits
  have e : ((v ||| 4#64).setWidth 2).toNat = (v.setWidth 2).toNat := by
    rw [BitVec.setWidth_or, show (4#64).setWidth 2 = 0#2 from rfl, BitVec.or_zero]
  rw [BitVec.toNat_setWidth, BitVec.toNat_setWidth] at e
  simpa using e

/-! ### Ports and the fabric -/

theorem setPort_setPort (s : State) (k : Nat) (x y : Port) : (s.setPort k x).setPort k y = s.setPort k y := by
  unfold State.setPort; simp only [Map.set_set]

theorem port_set (s : State) (k : Nat) (x : Port) : (s.setPort k x).port k = x := Map.get_set_self ..

theorem updPort_setPort (s : State) (k : Nat) (x : Port) (f : Port → Port) : (s.setPort k x).updPort k f = s.setPort k (f x) := by
  unfold State.updPort; rw [port_set, setPort_setPort]

theorem updPort_form (s : State) (k : Nat) (f : Port → Port) : s.updPort k f = s.setPort k (f (s.port k)) := rfl

theorem noted_then (s u : State) (h : u.fab = s.fab) (hc : ∀ y ∈ u.colls, y.2.state ≠ .running) :
    SameButReports u { s.noted u with time := u.time } := by
  obtain ⟨y, h1, h2⟩ := noted_frame s u h hc
  rw [h2]
  have : ({ { y with time := (s.noted u).time } with time := u.time } : State) = y := by
    have : y.time = u.time := by rw [h1.1]
    cases y; simp only at this; subst this; rfl
  rw [this]; exact h1

theorem moveTraffic_nil (s : State) (k : Nat) (anew : Bool) (h : (s.port k).txq = []) : s.moveTraffic k anew = s.setPort k (s.port k) := by
  unfold State.moveTraffic
  rw [h, updPort_form]
  show s.setPort k { s.port k with txq := [] } = _
  congr 1
  rw [← h]

theorem dropWhile_again {α : Type} (l : List α) (p : α → Bool) : (l.dropWhile p).dropWhile p = l.dropWhile p := by
  induction l with
  | nil => rfl
  | cons a l ih =>
    by_cases h : p a = true
    · rw [List.dropWhile_cons_of_pos h]; exact ih
    · rw [List.dropWhile_cons_of_neg h, List.dropWhile_cons_of_neg h]

theorem resend_fold (k : Nat) (l : List (Nat × TxItem)) (s : State) : l.foldl (fun s x => s.emit (.resend k x.1)) s =
   { s with outbox := s.outbox ++ l.map fun z => .resend k z.1 } := by
  induction l generalizing s with
  | nil => simp
  | cons a l ih => rw [List.foldl_cons, ih]; unfold State.emit; simp

theorem bump_setPort (s : State) (k : Nat) (z : Port) (g : Reg) (n : Nat) : (s.setPort k z).bump g n = (s.bump g n).setPort k z := rfl

theorem fabLogAdd_setPort (s : State) (k : Nat) (z : Port) (r a b c d e : Nat) : (s.setPort k z).fabLogAdd r a b c d e = (s.fabLogAdd r a b c d e).setPort k z := rfl

theorem outbox_setPort (s : State) (k : Nat) (z : Port) (o : List OutMsg) : { s.setPort k z with outbox := o } = ({ s with outbox := o } : State).setPort k z := rfl

theorem pumpItems_state (k : Nat) (l : List TxItem) (kept : List TxItem) (s : State) (j : Nat) : ((s.pumpItems k l kept).port j).state = (s.port j).state := by
  have st : ∀ (u : State) (x : Port), x.state = (u.port k).state → ((u.setPort k x).port j).state = (u.port j).state := by
    intro u x h
    by_cases e : j = k
    · subst e; rw [port_set]; exact h
    · unfold State.setPort State.port; simp only; rw [Map.get_set_ne _ _ _ e]
  induction l generalizing kept s with
  | nil => exact st s _ rfl
  | cons i l ih =>
    unfold State.pumpItems
    simp only
    split
    · rw [ih]
      refine st s _ ?_
      unfold State.spendCredits; simp only; split <;> rfl
    · rw [ih]

theorem sendCtl_state (s : State) (k : Nat) (m : OutMsg) (j : Nat) : ((s.sendCtl k m).port j).state = (s.port j).state := by
  unfold State.sendCtl State.sendItem State.pump
  dsimp only
  split
  · rw [pumpItems_state]
    by_cases e : j = k
    · subst e; rw [updPort_form, port_set]
    · unfold State.updPort State.setPort State.port; simp only; rw [Map.get_set_ne _ _ _ e]
  · rfl

theorem sendHellos_state (s : State) (j : Nat) : ((s.sendHellos).port j).state = (s.port j).state := by
  unfold State.sendHellos
  generalize List.range 16 = l
  induction l generalizing s with
  | nil => rfl
  | cons k l ih =>
    rw [List.foldl_cons, ih]
    dsimp only
    split
    · rw [sendCtl_state]
      by_cases e : j = k
      · subst e; rw [updPort_form, port_set]
      · unfold State.updPort State.setPort State.port; simp only; rw [Map.get_set_ne _ _ _ e]
    · rfl

theorem sendHellos_active (s : State) : s.sendHellos.activePorts = s.activePorts := by
  unfold State.activePorts; simp only [sendHellos_state]

theorem learn_settled (s : State) (k : Nat) (key : LeaderKey) (n : Nat) (h : s.fab.settled = true) : s.learnKey k key n = s.dupClaim key := by
  have : (s.dupClaim key).fab.settled = true := by unfold State.dupClaim; split <;> exact h
  unfold State.learnKey; exact if_pos this

theorem foldCtl_frame (l : List Nat) (m : Nat → OutMsg) (s : State) : l.foldl (fun (v : State) j => v.sendCtl j (m j)) s =
   { s with ports := (l.foldl (fun (v : State) j => v.sendCtl j (m j)) s).ports, outbox := (l.foldl (fun (v : State) j => v.sendCtl j (m j)) s).outbox, regs := (l.foldl (fun (v : State) j => v.sendCtl j (m j)) s).regs } := by
  induction l generalizing s with
  | nil => rfl
  | cons a l ih =>
    rw [List.foldl_cons, ih]
    have : s.sendCtl a (m a) = { s with ports := (s.sendCtl a (m a)).ports, outbox := (s.sendCtl a (m a)).outbox, regs := (s.sendCtl a (m a)).regs } := by
      unfold State.sendCtl
      dsimp only
      split
      · unfold State.sendItem; rw [pump_frame]; rfl
      · rfl
    rw [this]

theorem holdMap_does (u : State) (m : MapSegment) (es : List MapEntry) (e : MapEntry) (hn : ∀ e ∈ es, e.module ≠ 0xFFFE)
    (he : es.find? (·.serial == u.fab.serial) = some e) :
    let leader := ((es.find? (·.module == m.leader)).map (·.serial)).getD 0
    ∃ best, (u.fab.best.serial = leader → best = u.fab.best) ∧ best.serial = leader ∧
      u.holdMap m es = State.sendHellos { u with moduleId := e.module, fab := { u.fab with
        settled := true, lone := es.length == 1, phase := 3, leaderLost := false, fabricId := m.fabricId, best := best,
        leaderSerial := leader, version := m.version, segs := [],
        next := u.fab.next <|> some (m.switchFret, { table := m.tableMode, version := m.version, leader := m.leader, entries := es }),
        later := if u.fab.next.isSome then
            u.fab.later ++ [(m.switchFret, { table := m.tableMode, version := m.version, leader := m.leader, entries := es })]
          else [],
        lastBeat := u.fret } } := by
  intro leader
  have e1 : es.filter (·.module == 0xFFFE) = [] := filter_nil _ _ fun x hx => by simpa using hn x hx
  have e2 : es.filter (·.module != 0xFFFE) = es := List.filter_eq_self.2 fun x hx => by simpa using hn x hx
  have e3 : e.module ≠ 0xFFFE := hn e (List.mem_of_find?_eq_some he)
  let g : Routes := { table := m.tableMode, version := m.version, leader := m.leader, entries := es }
  refine ⟨if u.fab.best.serial = leader then u.fab.best
    else { cls := if u.hasPlan && (((g.entry m.leader).bind (·.coord)).any fun c => c.all (· == 0)) then 0 else 1, serial := leader },
    fun h => if_pos h, ?_, ?_⟩
  · split
    · assumption
    · rfl
  · unfold State.holdMap
    extract_lets mine cause g' refused holdPort s1
    have r0 : refused = [] := e1
    have hs1 : s1 = { u with fab := { u.fab with sizeLimit := u.fab.sizeLimit || [].any fun e => cause e == 6 } } := by
      rw [← r0]; rfl
    clear_value refused s1
    subst r0 hs1
    have hg : g' = g := congrArg (fun l => ({ table := m.tableMode, version := m.version, leader := m.leader, entries := l } : Routes)) e2
    clear_value g'
    subst hg
    have hm : mine = some e := he
    clear_value mine
    subst hm
    simp only [if_neg e3, List.any_nil, Bool.or_false, List.foldl_nil]
    rfl

theorem moves_idle (l : List Nat) (s : State) (h : ∀ j ∈ l, (s.port j).state ≠ .active → (s.port j).txq = []) :
   ∃ t, l.foldl (fun (s : State) k => if (s.port k).state = .active then s else s.moveTraffic k true) s = t ∧ t = { s with ports := t.ports } ∧ ∀ j, t.port j = s.port j := by
  induction l generalizing s with
  | nil => exact ⟨s, rfl, rfl, fun _ => rfl⟩
  | cons k l ih =>
    rw [List.foldl_cons]
    by_cases hk : (s.port k).state = .active
    · rw [if_pos hk]; exact ih s fun j hj => h j (List.mem_cons_of_mem _ hj)
    · rw [if_neg hk, moveTraffic_nil _ _ _ (h k List.mem_cons_self hk)]
      have hp : ∀ j, (s.setPort k (s.port k)).port j = s.port j := by
        intro j
        by_cases e : j = k
        · subst e; exact port_set ..
        · unfold State.setPort State.port; simp only; rw [Map.get_set_ne _ _ _ e]
      obtain ⟨t, h1, h2, h3⟩ := ih (s.setPort k (s.port k)) (fun j hj => by rw [hp]; exact h j (List.mem_cons_of_mem _ hj))
      exact ⟨t, h1, h2, fun j => (h3 j).trans (hp j)⟩

theorem retree_frame (u : State) : u.retree = { u with time := u.retree.time, fab := { u.fab with parent := u.retree.fab.parent, children := u.retree.fab.children } } := by
  unfold State.retree; dsimp only; split <;> rfl

/-! ### Time -/

theorem lockStep_acq (u : State) (e : Int) (h : u.time.lock = .acquiring) : u.lockStep e =
    if e.natAbs ≤ 64 then (if 15 ≤ u.time.good then { u with time := { u.time with lock := .locked, good := 0, bad := 0 } } else { u with time := { u.time with good := u.time.good + 1 } })
    else { u with time := { u.time with good := 0 } } := by
  unfold State.lockStep; split
  · dsimp only; simp only [decide_eq_true_eq]; split
    · by_cases g : 15 ≤ u.time.good <;> simp [State.updTime, g]
    · rfl
  · rename_i a; rw [h] at a; cases a
  · rename_i a b; exact absurd h a

theorem lockStep_locked (u : State) (e : Int) (h : u.time.lock = .locked) : u.lockStep e =
    if 640 < e.natAbs then { u with time := { u.time with lock := .acquiring, good := 0, bad := 0 } }
    else if e.natAbs ≤ 64 then { u with time := { u.time with bad := 0 } }
    else
      let n := u.time.bad + 1
      let v : State := { u with time := { u.time with bad := n, alarm := u.time.alarm || decide (4 ≤ n) } }
      if n = 4 then v.log v.masterRegion stOK 5 0 0 (fld 2 0 ||| fld (timeOffset e) 32) else v := by
  unfold State.lockStep; split
  · rename_i a; rw [h] at a; cases a
  · dsimp only; simp only [decide_eq_true_eq]; rfl
  · rename_i a b; exact absurd h b

theorem markSteps_fret (s : State) (m : MarkInput) (count : Nat) : (s.markSteps m count).fret = count := by
  have h0 : Keeps True (s.markCount count) (s.markCount count).watchDue := State.watchDue_keeps _ Keeps.refl
  suffices h : Keeps True (s.markCount count) (s.markSteps m count) from h.fret trivial
  unfold State.markSteps
  extract_lets f was x1 x2 x3 x4 x5 x6 x7 x8
  have h2 : Keeps True (s.markCount count) x2 := Keeps.ite h0 (State.sendHellos_keeps _ h0)
  have h3 : Keeps True (s.markCount count) x3 := Keeps.foldl (fun _ _ h => State.skewMark_keeps _ _ _ h) h2
  have h4 : Keeps True (s.markCount count) x4 := State.markStops_keeps _ _ (State.fretCorrection_keeps _ h3)
  have h5 : Keeps True (s.markCount count) x5 := Keeps.foldl (fun _ _ h => State.waitRecheck_keeps _ _ _ h) h4
  have h6 : Keeps True (s.markCount count) x6 := State.markKiln_keeps _ _ _ h5
  have h7 : Keeps True (s.markCount count) x7 := State.watchMark_keeps _ h6
  exact State.markSlots_keeps _ (State.powerMark_keeps _ _ _ h7)

theorem timeAfter_frame (o s : State) : State.timeAfter o s = { s with time := (State.timeAfter o s).time, localEpoch := (State.timeAfter o s).localEpoch } := by
  unfold State.timeAfter
  have h1 : ∃ u, u = (if s.fab.settled && (!o.fab.settled || (o.fab.lone && !s.fab.lone)) then
      if s.isLeader then s.rootEpoch s.fab.lone else s.followEpoch
    else s) ∧ u = { s with time := u.time, localEpoch := u.localEpoch } := by
    refine ⟨_, rfl, ?_⟩
    split
    · split
      · unfold State.rootEpoch; split <;> rfl
      · unfold State.followEpoch; split <;> rfl
    · rfl
  obtain ⟨u, h1, h2⟩ := h1
  dsimp only
  rw [← h1]
  have h3 : u.enterHoldover = { s with time := u.enterHoldover.time, localEpoch := u.enterHoldover.localEpoch } := by
    have : u.enterHoldover.localEpoch = u.localEpoch := by rw [holdover_time u]
    rw [this]
    exact (holdover_time u).trans (congrArg (fun v : State => { v with time := u.enterHoldover.time }) h2)
  split
  · split
    · exact h2
    · exact h3
  · exact h2

theorem noted_fret (s t : State) : (s.noted t).fret = t.fret := by
  have h : Keeps True (State.timeAfter s (State.reportAfter s t)) (s.noted t) :=
    Keeps.foldl (fun _ _ h => Keeps.ite (State.portsLost_keeps _ _ _ _ _ h) h) Keeps.refl
  rw [h.fret trivial, timeAfter_frame]
  exact (congrArg State.fret (reportAfter_reports s t).1).trans rfl

theorem foldl_id {α β : Type} (l : List α) (f : β → α → β) (s : β) (h : ∀ x, f s x = s) : l.foldl f s = s := by
  induction l with
  | nil => rfl
  | cons a l ih => rw [List.foldl_cons, h, ih]

/-! ### Collective channels -/

theorem setColl_setColl (s : State) (r c : Nat) (x y : CollChan) : (s.setColl r c x).setColl r c y = s.setColl r c y := by
  unfold State.setColl; simp only [Map.set_set]

theorem coll_set (s : State) (r c : Nat) (x : CollChan) : (s.setColl r c x).coll r c = x := Map.get_set_self ..

theorem updColl_setColl (s : State) (r c : Nat) (x : CollChan) (f : CollChan → CollChan) : (s.setColl r c x).updColl r c f = s.setColl r c (f x) := by
  unfold State.updColl; rw [coll_set, setColl_setColl]

theorem updColl_form (s : State) (r c : Nat) (f : CollChan → CollChan) : s.updColl r c f = s.setColl r c (f (s.coll r c)) := rfl

/-! ### Host ports -/

theorem host_set (s : State) (r : Nat) (x : HostPort) : (s.setHost r x).hostPort r = x := Map.get_set_self ..

theorem setHost_setHost (s : State) (r : Nat) (x y : HostPort) : (s.setHost r x).setHost r y = s.setHost r y := by
  unfold State.setHost; simp only [Map.set_set]

theorem updHost_setHost (s : State) (r : Nat) (x : HostPort) (f : HostPort → HostPort) : (s.setHost r x).updHost r f = s.setHost r (f x) := by
  unfold State.updHost; rw [host_set, setHost_setHost]

theorem updHost_form (s : State) (r : Nat) (f : HostPort → HostPort) : s.updHost r f = s.setHost r (f (s.hostPort r)) := rfl

theorem Map.get_set_same {κ α : Type} [DecidableEq κ] (m : Map κ α) (k : κ) (d v : α) : (m.set k v).get d k = v := Map.get_set_self ..

/-! ### The kiln -/

theorem buildRecord_ok (s : State) (ty fl ow tg : Nat) (body : List (Nat × Nat × Nat)) :
   ∃ rec, s.buildRecord ty fl ow tg body = { s with kiln := { s.kiln with seq := s.kiln.seq + 1, prev := Digest.sha384 rec, waiting := s.kiln.waiting ++ [(s.kiln.seq, rec)] } } ∧ rec.head? = some (BitVec.ofNat 8 ty) := by
  unfold State.buildRecord
  simp only
  refine ⟨_, rfl, ?_⟩
  simp [layFields, leBytes]

theorem exportAll_off (n : Nat) (s : State) (h : (s.reg (KILN_RING_ENABLE 0)).getLsbD 0 = false) : State.exportAll n s = s := by
  cases n with
  | zero => rfl
  | succ n =>
    have : s.exportOne = none := by
      unfold State.exportOne bit
      simp only [h]
      split
      · rw [if_pos (by simp)]
      · rfl
    unfold State.exportAll; rw [this]

/-! ### Power -/

theorem enterState_ok (s : State) (st : ModState) : (s.enterState st).mgmt.state = st ∧
    ∃ u, u.mgmt = { s.mgmt with state := st } ∧ u = { s with mgmt := u.mgmt } ∧ SameButReports u (s.enterState st) := by
  unfold State.enterState
  split
  · rename_i h; exact ⟨h, s, by rw [← h], rfl, .refl _⟩
  · refine ⟨?_, _, ?_, ?_, event_reports _ _ _⟩
    · rw [(event_reports _ _ _).2]; rfl
    · rfl
    · rfl

theorem railsOff_off (s : State) (r i : Nat) : (s.railsOff.rail r i).state ≠ .on := by
  unfold State.rail State.railsOff
  show (Map.get (List.map _ s.rails) _ _ : Rail).state ≠ _
  induction s.rails with
  | nil => simp [Map.get, Map.find]
  | cons a l ih =>
    obtain ⟨k, x⟩ := a
    by_cases h : k = (r, i)
    · simp only [List.map_cons, Map.get, Map.find, h, if_true, Option.getD_some]
      split
      · rename_i h; simp [h]
      · simp
    · simpa [Map.get, Map.find, h] using ih

theorem reports_keep {u t : State} (h : SameButReports u t) : t.fret = u.fret ∧ t.epochSet = u.epochSet ∧ t.blocks = u.blocks ∧
   t.mem = u.mem ∧ t.harts = u.harts ∧ t.coresOn = u.coresOn ∧ t.dma = u.dma ∧ t.caches = u.caches ∧ t.rails = u.rails := by
  rw [h.1]; exact ⟨rfl, rfl, rfl, rfl, rfl, rfl, rfl, rfl, rfl⟩

theorem inputGone_on (s : State) (h : s.railsOn = true) : s.inputGone.mgmt.state = .aux ∧ (s.inputGone.fret = 0 ∧ s.inputGone.epochSet = false ∧ s.inputGone.blocks = [] ∧
  s.inputGone.mem = [] ∧ s.inputGone.harts = [] ∧ s.inputGone.coresOn = false ∧
    s.inputGone.dma = [] ∧ s.inputGone.caches = []) ∧ ∀ r i, (s.inputGone.rail r i).state ≠ .on := by
  have e : s.inputGone = ((s.updPower fun p => { p with inputLost := true, steady := false }).powerLossRecord.resetPackage.railsOff).enterState .aux := by
    unfold State.inputGone; simp only
    rw [if_pos (show (s.updPower fun p => { p with inputLost := true, steady := false }).railsOn = true from h)]
  rw [e]
  obtain ⟨h1, u, h2, h3, h4⟩ := enterState_ok ((s.updPower fun p => { p with inputLost := true, steady := false }).powerLossRecord.resetPackage.railsOff) .aux
  obtain ⟨k1, k2, k3, k4, k5, k6, k7, k8, k9⟩ := reports_keep h4
  rw [h3] at k1 k2 k3 k4 k5 k6 k7 k8 k9
  refine ⟨h1, ⟨k1, k2, k3, k4, k5, k6, k7, k8⟩, fun r i => ?_⟩
  have := railsOff_off ((s.updPower fun p => { p with inputLost := true, steady := false }).powerLossRecord.resetPackage) r i
  unfold State.rail at this ⊢; rw [k9]; exact this

theorem inputEvent_railsOn (s : State) (f : W64 → W64) : (s.inputEvent f).railsOn = s.railsOn := by
  have h := event_reports (s.updPower fun p => { p with input := f p.input }) 4 (s.updPower fun p => { p with input := f p.input }).power.input
  have h2 : (s.inputEvent f).mgmt = _ := h.2
  unfold State.railsOn State.powered; rw [h2]; rfl

theorem thermalTrip_on (s : State) (h : s.railsOn = true) : ∃ d, s.thermalTrip = (({ s.powerLossRecord.resetPackage with rails := State.allRails.map fun i => (i, { state := .fault, cause := 5, fret := s.fret }) } : State).event 9 d).enterState .halt := by
  unfold State.thermalTrip; rw [h]; generalize s.powerLossRecord = p; exact ⟨_, rfl⟩

theorem powered_ne_off (s : State) (h : s.powered = true) : s.mgmt.state ≠ .off := by
  intro c; unfold State.powered at h; rw [c] at h; exact absurd h (by decide)

/-! ### Words and lists -/

theorem fld_bits (b : Nat) (h : b < 512) : bits (fld b 0) 8 0 = b ∧ bit (fld b 0) 9 = false := by
  have e : (fld b 0).toNat = b := by
    unfold fld; simp; omega
  constructor
  · unfold bits; rw [e, Nat.shiftRight_zero]; exact Nat.mod_eq_of_lt h
  · unfold bit; rw [BitVec.getLsbD, e]; exact Nat.testBit_lt_two_pow (by omega)

theorem foldl_idm {α β : Type} (l : List α) (f : β → α → β) (s : β) (h : ∀ x ∈ l, f s x = s) : l.foldl f s = s := by
  induction l with
  | nil => rfl
  | cons a l ih => rw [List.foldl_cons, h a List.mem_cons_self, ih (fun x hx => h x (List.mem_cons_of_mem _ hx))]

/-! ### Management -/

theorem refusal_eq (s : State) (sl : Slot) (m : Msg) (rsv : Bool) : s.cmdRefusal sl m rsv =
    if s.cmdLegal m.opcode = false then stSTATE else if (msgMalformed m || rsv) = true then stRANGE
    else if cmdFrom m.opcode sl = false then stDENIED else stOK := by
  unfold State.cmdRefusal
  cases s.cmdLegal m.opcode <;> cases (msgMalformed m || rsv) <;> cases cmdFrom m.opcode sl <;> rfl

theorem malformed_iff (m : Msg) (rsv : Bool) : (msgMalformed m || rsv) = true ↔
    m.rsvBad = true ∨ cmdLength m.opcode m.length m = false ∨ m.payload.length ≠ m.length ∨ rsv = true := by
  unfold msgMalformed; simp [or_assoc]

theorem execute_idle (s : State) (op : Nat) (sl : Slot) (m : Msg) (rsv : Bool) (act : State → State × Reply) (h : s.atHead op sl m = false) :
    s.execute op sl m rsv act = s := by unfold State.execute; rw [if_pos (by rw [h]; rfl)]

theorem execute_refused (s : State) (op : Nat) (sl : Slot) (m : Msg) (rsv : Bool) (act : State → State × Reply) (h : s.atHead op sl m = true)
    (h2 : s.cmdRefusal sl m rsv ≠ stOK) : s.execute op sl m rsv act = s.answerHead { status := s.cmdRefusal sl m rsv } := by
  unfold State.execute; rw [if_neg (by rw [h]; decide)]; dsimp only; rw [if_pos h2]

theorem map_get_erase_same {κ α : Type} [DecidableEq κ] (m : Map κ α) (k : κ) (d : α) : (m.erase k).get d k = d := by
  have : (m.erase k).find k = none := by
    induction m with
    | nil => rfl
    | cons a m ih =>
      obtain ⟨a1, a2⟩ := a
      by_cases e : a1 = k
      · simp only [Map.erase, if_pos e]; exact ih
      · simp only [Map.erase, if_neg e, Map.find]; exact ih
  unfold Map.get; rw [this]; rfl

theorem map_get_erase_ne {κ α : Type} [DecidableEq κ] (m : Map κ α) (k j : κ) (d : α) (h : j ≠ k) : (m.erase k).get d j = m.get d j := by
  have : (m.erase k).find j = m.find j := by
    induction m with
    | nil => rfl
    | cons a m ih =>
      obtain ⟨a1, a2⟩ := a
      by_cases e : a1 = k
      · have : a1 ≠ j := fun c => h (by rw [← c, e])
        simp only [Map.erase, if_pos e, Map.find, if_neg this]; exact ih
      · simp only [Map.erase, if_neg e, Map.find]; rw [ih]
  unfold Map.get; rw [this]

theorem setAll_mgmt (s : State) (g : Nat → Reg) (v : W64) : (s.setAll g v).mgmt = s.mgmt := by
  unfold State.setAll; rfl

theorem slotEvent_quiet (s : State) (sl : Slot) (e : Event) (hp : s.powered = false) :
    s.slotEvent sl e = { s with mgmt := (s.slotEvent sl e).mgmt, outbox := (s.slotEvent sl e).outbox } ∧ (s.slotEvent sl e).powered = false := by
  unfold State.slotEvent
  split
  · exact ⟨rfl, hp⟩
  · dsimp only
    generalize (if 64 ≤ (s.mailbox sl).events.length then _ else _ : Mailbox) = x
    have h2 : (s.setMailbox sl x).powered = false := by cases sl <;> exact hp
    unfold State.signalSlot
    cases sl
    · dsimp only; split
      · exact ⟨rfl, h2⟩
      · exact ⟨rfl, h2⟩
    · dsimp only; rw [h2]; exact ⟨rfl, h2⟩
    · dsimp only; rw [h2]; exact ⟨rfl, h2⟩

theorem event_quiet (s : State) (c : Nat) (d : W64) (hp : s.powered = false) :
    s.event c d = { s with mgmt := (s.event c d).mgmt, outbox := (s.event c d).outbox } := by
  unfold State.event
  split
  · rfl
  · dsimp only
    obtain ⟨a, a'⟩ := slotEvent_quiet s .i3c { code := c, fret := s.fret % 2 ^ 32, data := d } hp
    obtain ⟨b, b'⟩ := slotEvent_quiet _ .host { code := c, fret := s.fret % 2 ^ 32, data := d } a'
    obtain ⟨e, _⟩ := slotEvent_quiet _ .core { code := c, fret := s.fret % 2 ^ 32, data := d } b'
    rw [e, b, a]

end Sys2Proof.Machine
end

