-- ==== Sys2Proof/Tests/Slice0.lean ====
section
/-!
SUPPORT. Tests: the smoke test of WellFormed, one step of some commands with results taken from the spec, and for each statement
with hypotheses a named theorem that shows states and operands which meet them, at the ends of their ranges.
-/
namespace Sys2Proof.Tests

-- One test after another: side by side they need more threads than the memory limit of the check allows.
set_option Elab.async false

open Sys2Proof.Machine

/-! ### Small states -/

/-- A module in RUN, the directory of region 0 ready. -/
def on : State := { mgmt := { state := .run }, initDone := [0] }

/-- An address of HBM past the bytes that R303 reserves, and its line. -/
def hbm0 : Nat := 0x20000000
def line0 : Nat := 0x400000

/-- The DMA engine of region 0 as the agent of a command; an aligned access. -/
def ag : Agent := engineAgent 0 0 0
def acc8 : Access := { addr := 64 }
def line128 : List Byte := List.replicate 128 0xA5

/-- A block command: opcode, SEQ and the fields (byte offset, value) that are not zero. -/
def cmd (op seq : Nat) (fs : List (Nat × Nat)) : Cmd :=
  { seq := seq, word := BitVec.ofNat 512 (fs.foldl (fun n x => n + x.2 * 2 ^ (8 * x.1)) op) }

/-- RUN with the state of block 511. -/
def atBlock (x : Block) : State := { on with blocks := [(511, x)] }

/-- Block 511 with one queue of an engine, running. -/
def queue (e : Nat) (g : Engine) (st : BlockState := .running) : State := atBlock { state := st, engines := [(e, g)] }

/-- Block 511 with one started command of an engine. -/
def running (e : Nat) (r : Run) : State := queue e { started := [r] }

/-- The first byte of the store of block 511 poisoned. -/
def poisonedStore (s : State) : State := { s with poison := [storeBase 511 / 8] }

/-! ### WellFormed -/

/-- Well-formed commands, part 1: one of each row of the table, its operands at the end of their ranges. -/
theorem test_wf_good1 : List.all
  [.registerWrite ag 64 1, .misalignedRegAccess ag 64 8 true, .fabFretPeriodWrite ag 3 1, .fretMark {}, .vfStepRise 3 3,
   .lateralPathChange none none [], .mxLoad 511, .mxLoadPathStart 511, .mxLoadDone 511, .mxSwap 511, .mxSwapCycle 511, .mxStream 511,
   .mxRowFeed 511 true [] none, .groupCheck 511, .mxRowCommit 511, .feedPegRelease 511, .mxDrain 511 1, .mxSeed 511 1, .mxCountClear ag
   511 1, .cmdPush 511 1, .spillRefill 511 4, .tokenWaitEnd 511 4, .blkTokenErrClear ag 511 1, .blkCplCtrlWrite ag 511 1, .blkCplHeadWrite
   ag 511 1, .completionWrite 511 4, .veBinary 511 1 none, .veUnary 511 1, .veFma 511 1 none, .veReduce 511 1 none, .veQuantMx 511 1,
   .veRawCombine 511 1 none, .lyTranspose 511 1, .lyCopy2d 511 1, .lyPad 511 1, .lyConvert 511 1, .gsGather 511 1, .gsScatter 511 1,
   .gsLoad 511 1, .gsStore 511 1, .skSort 511 1, .skTopk 511 1, .blkStart ag 511, .blkHalt ag 511, .blkReset ag 511, .blockResetRelease
   511, .seqDoubleTrap 511, .blockMute 511 1, .blkCountClear ag 511 1, .blkAsyncErrClear ag 511 1, .hartLoad 655 acc8, .hartStore 655 acc8
   1 1, .hartAmo 655 acc8 default 1, .hartLr 655 acc8, .hartSc 655 acc8 1, .hartFence 655 default default true, .fenceI 655, .wfi 655,
   .wcEntryWriteout 655 5, .reservationExpire 655] Instr.wf = true := by decide +kernel

/-- Well-formed commands, part 2: one of each row of the table, its operands at the end of their ranges. -/
theorem test_wf_good2 : List.all
  [.mgmtCoreAsyncErrClear ag 143 1, .remoteWriteTimeout 1, .remoteLoadTimeout 1, .dmaEnable ag 3 63, .dmaDisable ag 3 63, .dmaPause ag 3
   63, .dmaResume ag 3 63, .dmaAbort ag 3 63, .dmaClearErr ag 3 63, .dmaDoorbell ag 3 63 1, .descFetch 3 63, .descRefetch 3 63, .copy 3 63
   1, .fill 3 63 1, .compare 3 63 1, .copy2d 3 63 1, .descFault 3 63, .descWriteback 3 63, .ringFault 3 63, .pauseDrainEnd 3 63,
   .dmaChCountClear ag 3 63 1, .pegSet ag 65535 1, .pegAdd ag 65535 1, .pegRelAdd ag 65535 default 1, .pegAcqRead ag 65535 default,
   .pegCasExpect ag 65535 1, .pegCas ag 65535 1, .pegStatusClear ag 65535 1, .pegAccessFault ag 64 8 true true, .watchArm ag 1,
   .watchDeliver 3, .watchExpire 3 1, .watchCancel ag 1, .watchEventRead ag, .eventQueueAdmit 3, .watchCountClear ag 3 1, .readShared 655
   5 none, .readUnique 655 5 none, .upgrade 655 5 (some 6), .writeBack 655 5, .cleanEvict 655 5, .engineRead 687 5, .engineWrite 687 5 line128,
   .engineMaskedWrite 687 5 line128 1, .engineAtomic 687 5 120 8 default 1, .snoop 655 5, .homeTransactionComplete 5, .grant 3 687,
   .scrubDone 3, .invalidationDone 3, .mgmtCohCountClear ag 3 1, .eccUncorrectable ⟨64, .slc, true⟩, .mapOut ag 535, .testStart ag 535,
   .testEnd ag 535, .maintSlot 3 1 [], .marginCheckDone 3 default, .retrainDone 3 default, .groupRebuild ag 3 1, .rebuildDone 3 8] Instr.wf = true := by decide +kernel

/-- Well-formed commands, part 3: one of each row of the table, its operands at the end of their ranges. -/
theorem test_wf_good3 : List.all
  [.tgStart ag 511 1, .tgDone 511 [], .patRead ag 3 1, .patWrite ag 3 1, .setCopyValid ag 3 1, .clearCopyValid ag 3 1, .patCmdDone 3,
   .mgmtRegCfgWrite ag 3 2 7 1, .tokenRefill 3, .mgmtMemCountClear ag 3 1, .portEnable ag 15, .portDisable ag 15, .retrain ag 15,
   .trainingAttemptEnd 15 1 1 true 1 none 1, .flitReceive 15 default, .retryReq 15 1, .retryReqRepeat 15, .linkFailure 15, .hello 15
   default, .elect 15 default 1, .reportTimer, .report 15 default, .fabricSettle, .map 15 default, .beat 15 default, .beatSend,
   .leaderLost, .join 15 default, .portEvent 1 15 1 1, .portDownTimeout 15, .routeSwitch, .fabricPacketArrive 15 default, .fabricRead
   default, .fabricWrite default, .maskedWrite default, .atomic default, .pegOp default, .readData 1 1 [], .writeAck 1 1, .atomicData 1 1
   1, .routeLoad ag 1, .fabPortCountClear ag 15 1, .timeReqSend 15 1, .timeReq 15 default 1 1, .timeResp 15 default 1, .timeRespLost 15,
   .epochAdopt 1 {}, .strumLoad ag 3 63, .strumLoadDone 3 63, .strumStart ag 3 63, .strumAbort ag 3 63, .strumUnload ag 3 63, .slotStart
   1, .schedFlit 15 default, .strumRunEnd 3 63, .peerSilent 3 63 1, .fabCollAbort ag 1, .fabCollCountClear ag 3 1, .hostLinkUp 3 default,
   .hostLinkDown 3 3] Instr.wf = true := by decide +kernel

/-- Well-formed commands, part 4: one of each row of the table, its operands at the end of their ranges. -/
theorem test_wf_good4 : List.all
  [.hostLoss 3 default, .hostLossDone 3 true, .memorySpaceEnableSet 3, .memorySpaceEnableClear 3, .hostBar0Access 3 8 120 8 none,
   .hostPegAtomic 3 8 120 8 default 1, .hostBar2Read 3 8 120 1, .hostBar2Write 3 8 120 [] ⟨true, true⟩, .hostBar2Atomic 3 8 120 8 default 1,
   .hostFnBar2SlideWrite 3 8 1, .hostOwnershipWrite ag 3 8 11 1, .rootPortLinkDown 3 3, .hostRpCtrlEnable ag 3 3 1, .deviceAerError 3 3 1,
   .deviceInboundRequest 3 3 1 1 64 true 1 none, .tagOpen ag 3, .tagClose ag 3, .tagQuery ag 3, .tagBackup, .intervalClose,
   .signToken, .signDone, .ledgerAppend, .pageProgram, .kilnRingHeadWrite ag 3 1, .kilnAckSeqWrite ag 3 1, .ledgerCompact 1,
   .kilnCountClear ag 3 1, .inputLoss, .inputLow 2500, .inputOvervoltage, .inputOvercurrent, .railFault 3 8 1, .pwrModuleLimitWrite ag 3
   1, .pwrDomainWrite ag 3 3 1, .budgetMessage 3 65535 8 3, .budgetGrant default, .railOvercurrent 3 8, .droopDetect 655 1, .droopRecover
   655, .thermalSample 3 3 1, .thermalTrip, .coolantAlarm, .pwrCountClear ag 1, .xchkDone 510 511 1 1 none, .xchkThirdTimeout 510 511,
   .tuningCheckEnd 511 true, .blkMute ag 3 511, .blkRelease ag 3 511, .mgmtEvidRelease ag 3 1, .packRun 2 1, .packResult 2 1 true,
   .d2dFlitCrcError 15 1, .d2dLaneMapExchange 15 default, .heartbeat 15, .dieLost 3 2 1, .regionLost 3 1, .rejoin ag 3 2, .rejoinDone 3 2,
   .rejoinTimeout 3 2] Instr.wf = true := by decide +kernel

/-- Well-formed commands, part 5: one of each row of the table, its operands at the end of their ranges. -/
theorem test_wf_good5 : List.all
  [.mgmtErrCountClear ag 3 1, .auxPowerUp 1 true, .auxPowerDown, .autoBoot, .boot default, .bootStepTimeout, .mbxGo ag default default,
   .mbxAck ag default, .mbxResponse, .i3cPrivateWrite [], .i3cPrivateRead 1, .entdaa 1, .rstdaa, .setnewda 1, .getpid, .getbcr, .getdcr,
   .getstatus, .getmwl, .getmrl, .enec 1, .disec 1, .getStatus default default, .getIdentity default default, .getCert default default,
   .getEvent default default, .coldBoot default default, .warmReset default default, .powerOff default default, .run default default,
   .quiesce default default, .resume default default, .overrideSet default default, .overrideGet default default, .overrideClear default
   default, .journalCompact, .imageWrite default default, .imageCommit default default default, .coreOffline default default, .coreOnline
   default default true, .coreClearFail default default, .muteListGet default default, .muteListRemove default default, .evidenceRead
   default default, .evidenceRelease default default, .fuseRearm default default, .ledgerRead default default, .debugUnlock default
   default [] true, .hostOutboundCompletion 1 1 [], .hostLinkRecovery 3 3, .rootPortLinkUp 3 3 default, .configurationWrite 3 8 none none
   none, .interruptTrap 655, .inputReversed, .jtagInstruction true] Instr.wf = true := by decide +kernel

/-- For each check of WellFormed a command that it refuses: the first value past the range. -/
def badCommands : List Instr :=
  [.vfStepRise 4 0, .vfStepRise 0 4, .mxLoad 512, .mgmtCoreAsyncErrClear ag 144 0, .wfi 656, .engineRead 688 0, .descFetch 0 64,
   .tgDone 512 [], .mapOut ag 536, .rebuildDone 0 9, .pegSet ag 65536 0, .linkFailure 16, .hostLinkDown 0 4,
   .hostFnBar2SlideWrite 0 9 0, .completionWrite 0 5, .completionWrite 0 6, .mgmtRegCfgWrite ag 0 3 0 0, .mgmtRegCfgWrite ag 0 0 8 0,
   .rejoinDone 0 3, .railOvercurrent 0 9, .heartbeat 16] ++
  [.hostBar0Access 0 0 0 0 none, .hostBar0Access 0 0 0 4097 none, .hartLoad 0 { addr := 0, size := 3 }, .hartLr 0 { addr := 0, size := 2 },
   .engineWrite 0 0 [], .engineAtomic 0 0 4 8 .fetchAdd 0, .engineAtomic 0 0 128 8 .fetchAdd 0, .hostBar2Read 0 0 0 4097,
   .hostBar2Write 0 0 0 (List.replicate 513 0) {}, .hostOwnershipWrite ag 0 0 12 0, .inputLow 2499, .inputLow 2600,
   .xchkDone 5 5 0 0 none, .xchkDone 5 6 0 0 (some (6, 0)), .packRun 3 0, .lateralPathChange (some 4) none [],
   .eccUncorrectable { addr := 0, place := .cache 656 }] ++
  [.pegSet { index := 36 } 0 0, .pegSet { region := 4 } 0 0, .pegSet { kind := .block, index := 128 } 0 0,
   .pegSet { kind := .engine, index := 4 } 0 0, .pegSet { kind := .external, index := 9 } 0 0]

theorem test_wf_bad : badCommands.all (fun c => !c.wf) = true := by decide +kernel

/-! ### Steps, reset, queues of events, registers -/

/-- StepsTakeTheFrontCommand: a command in front; an empty queue with the dies off. -/
theorem test_meets_steps : ({ on with pending := [.wfi 0] } : State).pending = .wfi 0 :: [] ∧ State.reset.pending = [] ∧
    State.reset.powered = false := by decide

/-- WellFormedCommandsAlwaysComplete: the dies run, and they do not; a command of the dies and one of Uluell. -/
theorem test_meets_completes : on.powered = true ∧ State.reset.powered = false ∧ takenWithoutRails (.wfi 0) = false ∧
    (Instr.wfi 656).wf = false ∧ (Instr.wfi 655).wf = true := by decide

/-- MemoryStaysCanonical: a memory with a byte listed. -/
theorem test_meets_canonical : Memory.wf ({ on with mem := [(7, 1)] } : State).mem = true := by decide

/-- CommandsLeaveQueueIdentityAndTime: a command that sets no counter. -/
theorem test_meets_identity : setsFret (.wfi 0) = false ∧ setsFret (.fretMark {}) = true := by decide

/-- EventsEnterEveryServedSlot: a slot with no event, one with 64; an event within its fields; a request in front. -/
theorem test_meets_events :
    let full : State := { on with mgmt := { on.mgmt with core := { events := List.replicate 64 default }, requests := [⟨.core, { opcode := 4 }, none⟩] } }
    full.mgmt.state ≠ .off ∧ (full.mailbox .core).events.length = 64 ∧ (full.mailbox .i3c).events = [] ∧ full.mgmt.image.attached = false ∧
    (⟨255, 0xFFFFFFFF, 0⟩ : Event).code < 256 ∧ (⟨255, 0xFFFFFFFF, 0⟩ : Event).fret < 0x100000000 ∧
    ({ opcode := 4 } : Msg).rsvBad = false ∧ ({ opcode := 4 } : Msg).length = 0 ∧ ({ opcode := 4 } : Msg).payload = [] := by decide

/-- RegisterWritesTakeEffectOrAreLogged: a register at each end of the unlisted range, an unaligned access, the period. -/
theorem test_meets_registers :
    let conf : State := { on with mgmt := { state := .configured } }
    conf.powered = true ∧ ag.wf = true ∧ on.regionLive 3 = true ∧ (∀ x ∈ on.blocks, x.2.state ≠ .muted) ∧
    (∀ x ∈ on.colls, x.2.state ≠ .running) ∧ (0x3000 % 8 = 0 ∧ 0x7FFF8 % 8 = 0 ∧ 0x7FFF8 < 0x80000) ∧
    (Instr.misalignedRegAccess ag (0xF00000000000 + 3 * 0x100000000 + 0x204) 8 false).wf = true ∧ 0x204 % 8 ≠ 0 ∧
    ag.hart = none ∧ (hartAgent 0 655).hart = some 655 ∧ (Instr.fabFretPeriodWrite ag 3 64).wf = true ∧
    (4 : W64).toNat % 128 = 4 ∧ (64 : W64).toNat % 128 = 64 ∧ ¬ 4 ≤ (3 : W64).toNat % 128 ∧ 64 < (65 : W64).toNat % 128 ∧
    on.mgmt.state ≠ .configured := by decide

/-- CheckedConfigurationWrites: admitted and refused values at the bounds of each register. -/
theorem test_meets_config :
    let idle := queue 0 {} .halted
    let n (v : W64) := bits v 27 24
    idle.powered = true ∧ (Instr.blkCplCtrlWrite ag 511 0).wf = true ∧ (idle.block 511).state = .halted ∧
    (let v : W64 := 0xC020000; n v = 12 ∧ bits v 20 0 % (2 ^ n v * 32) = 0) ∧ (n 0x4000200 = 4 ∧ bits 0x4000200 20 0 % (2 ^ 4 * 32) = 0) ∧
    n 0x3000000 = 3 ∧ n 0xD000000 = 13 ∧
    (let u := idle.setReg (BLK_CPL_TAIL 511) 16; ((u.reg (BLK_CPL_TAIL 511)).toNat + 2 ^ 32 - 16) % 2 ^ 32 ≤ 2 ^ bits (u.reg (BLK_CPL_CTRL 511)) 27 24 ∧
      ¬ ((u.reg (BLK_CPL_TAIL 511)).toNat + 2 ^ 32 - 17) % 2 ^ 32 ≤ 2 ^ bits (u.reg (BLK_CPL_CTRL 511)) 27 24) ∧
    (1500 : W64).toNat % 2 ^ 13 = 1500 ∧ (5200 : W64).toNat % 2 ^ 13 = 5200 ∧ 5200 < (5201 : W64).toNat % 2 ^ 13 ∧
    (Instr.pwrDomainWrite ag 3 3 0).wf = true ∧ bits 0 9 5 ≤ bits 0 14 10 ∧ bits 0 14 10 ≤ maxStep 3 ∧ bits 0x20 14 10 < bits 0x20 9 5 ∧
    maxStep 3 < bits 0x7C00 14 10 ∧ (Instr.mgmtRegCfgWrite ag 3 2 7 0).wf = true ∧
    (let w : W64 := 0x100002001 &&& mask 33 0; ¬ (bits w 33 32 = 3 ∨ (bits w 33 32 = 1 ∧ bits w 11 0 = 0) ∨ bits w 31 12 < 2)) ∧
    bits ((0x300002001 : W64) &&& mask 33 0) 33 32 = 3 ∧
    ((idle.reg (KILN_ACK_SEQ 0)).toNat ≤ (0 : W64).toNat ∧ (0 : W64).toNat ≤ idle.kiln.nextExport) ∧ idle.kiln.nextExport < (1 : W64).toNat := by
  decide

/-- CountClears: a write of 1 by an agent of the module. -/
theorem test_meets_clears : on.powered = true ∧ ag.wf = true ∧ (1 : W64).getLsbD 0 = true := by decide

/-! ### The matrix array -/

/-- MatrixCommandsAreTaken: each command at the front of queue 0; for MX_STREAM with a load running and an earlier stream fed. -/
theorem test_meets_taken :
    let fed : Run := { cmd := cmd 0x22 1 [(24, 2)], fed := 2 }
    ∀ op ∈ [0x20, 0x21, 0x22], let c := cmd op 7 []
      let s := queue 0 { hw := [c], started := [{ cmd := cmd 0x20 0 [] }, fed] }
      s.powered = true ∧ ((s.block 511).engine 0).hw = c :: [] ∧ s.canTake 511 0 c = true ∧ c.opcode = op ∧
      ∀ r ∈ s.mxRunning 511, r.cmd.opcode = 0x20 ∨ (r.cmd.opcode = 0x22 ∧ (r.stopping.isSome = true ∨ r.cmd.rows ≤ r.fed)) := by
  decide +kernel

/-- An MX_LOAD of one row and column of INT8 in MODE 0, and an MX_SWAP. -/
def load1 : Run := { cmd := cmd 0x20 3 [(26, 1), (28, 1), (30, 0), (31, 8)], writing := true }
def swap1 : Run := { cmd := cmd 0x21 4 [] }

/-- MatrixTilesLoadAndSwap: a load that waits with SHADOW needed and not; one that writes, its row clean and poisoned; the swap in the
three states of SHADOW. -/
theorem test_meets_tiles :
    let wait := running 0 { load1 with writing := false }
    let g : Group := { seq := 1, first := 0, size := 1, tile := {} }
    let held := atBlock { state := .running, engines := [(0, { started := [{ load1 with writing := false }] })], array := { groups := [g] } }
    let s := running 0 load1
    let rows := [(0, State.tileRow load1.cmd 0)]
    let swap (sh : Shadow) := atBlock { state := .running, engines := [(0, { started := [swap1] })], array := { shadowState := sh } }
    s.powered = true ∧ wait.loadRun 511 false = some { load1 with writing := false } ∧ (wait.block 511).array.groups = [] ∧
    (g ∈ (held.block 511).array.groups ∧ g.tile.id = (held.block 511).array.shadow.id ∧ g.state = .feeding) ∧
    s.loadRun 511 true = some load1 ∧ load1.cmd.f 26 15 0 = 1 ∧ isMx (load1.cmd.f 31 4 0) = false ∧
    s.firstPoisonRow 511 (rowBytes 8 1) rows = none ∧ stationaryOk (load1.cmd.f 30 7 0) (load1.cmd.f 31 4 0) = true ∧
    (poisonedStore s).firstPoisonRow 511 (rowBytes 8 1) rows = some (0, 0) ∧
    ∀ sh ∈ [Shadow.empty, .loading, .ready], (swap sh).powered = true ∧ ((swap sh).block 511).array.shadowState = sh ∧
      ((swap sh).mxRunning 511).find? (fun q => q.cmd.opcode == 0x21) = some swap1 ∧
      (∀ q ∈ (swap sh).mxRunning 511, q.cmd.opcode ≠ 0x22) ∧ ((swap sh).block 511).array.groups = [] := by
  decide +kernel

/-- An MX_STREAM of two INT8 rows; a tile of one row and column; a group of one row that passed or is complete. -/
def stream1 : Run := { cmd := cmd 0x22 9 [(24, 2), (31, 8)], kRows := 1, nCols := 1, feedTo := 1 }
def tile1 : Tile := { kRows := 1, nCols := 1, format := 8, cells := [[{}]], bridge := [{}] }
def row1 : FedRow := { index := 0, elems := [0], scales := [], segs := [[{}]], ts := [], bests := [] }
def group1 (st : GroupState) : Group := { seq := 9, first := 0, size := 1, tile := tile1, rows := [row1], state := st }
def arrayAt (r : Run) (a : Array) : State := atBlock { state := .running, engines := [(0, { started := [r] })], array := a }

/-- MatrixRowsFeedCheckAndCommit: the drain full, the feeder empty, a row that can be fed; a complete group; a passed one whose row is
stored, added and drained; a release owed. -/
theorem test_meets_rows :
    let ready := arrayAt stream1 { active := tile1, activeValid := true }
    let full := arrayAt stream1 { active := tile1, groups := [group1 .feeding, group1 .feeding, group1 .feeding] }
    let next (s : State) := (s.mxRunning 511).find? (fun q => q.cmd.opcode == 0x22 && q.stopping.isNone && decide (q.fed < q.cmd.rows))
    ready.powered = true ∧ (∀ y ∈ ready.blocks, y.2.state ≠ .muted) ∧ (∀ y ∈ ready.colls, y.2.state ≠ .running) ∧
    (∀ g ∈ (full.block 511).array.groups, ¬ (g.replay = true ∧ g.state = .feeding ∧ g.rows.length < g.size)) ∧
    next ready = some stream1 ∧ next full = some stream1 ∧
    (stream1.fed % 64 = 0 ∧ 3 ≤ (full.block 511).array.groups.length) ∧ (ready.block 511).array.groups = [] ∧ ready.ringBlocked 511 = false ∧
    (0 < tile1.kRows ∧ 0 < tile1.nCols) ∧ stream1.cmd.feedWait = false ∧ (ready.block 511).array.active.badParity = none ∧
    ready.rowPoison 511 stream1 tile1 0 = none := by
  decide +kernel

theorem test_meets_checks :
    let due := arrayAt stream1 { groups := [group1 .feeding] }
    let passed (fs : List (Nat × Nat)) := arrayAt { stream1 with cmd := cmd 0x22 9 ([(24, 2), (31, 8)] ++ fs) }
      { groups := [group1 .passed], entries := [(0, { kind := .sum, cols := [{}] })] }
    due.powered = true ∧ ((due.block 511).array.groups.find? fun q => q.state == .feeding && q.rows.length == q.size) = some (group1 .feeding) ∧
    ((due.mxRunning 511).find? fun q => q.cmd.seq == 9) = some stream1 ∧
    (∀ m ∈ [0, 1, 2], let s := passed [(33, m)]
      ((s.mxRunning 511).find? fun q => q.cmd.seq == 9).isSome = true ∧ (s.block 511).array.groups = group1 .passed :: [] ∧
      (group1 .passed).rows[0]? = some row1 ∧ s.ringBlocked 511 = false ∧
      ((s.block 511).array.entries.get {} 0).kind ≠ .free ∧ ((s.block 511).array.entries.get {} 1).kind = .free ∧
      ∀ r ∈ s.mxRunning 511, r.cmd.feedWait = false ∧ r.cmd.accAdd = (m == 1) ∧ r.cmd.drainThrough = (m == 2)) ∧
    (let owes : Run := { stream1 with status := some 0, owed := [2] };
      (((running 0 owes).block 511).engine 0).started.find? (fun q => q.owed != []) = some owes ∧ on.regionLive (pegHome (0 + 1)) = true) := by
  decide +kernel

/-- MatrixDrainAndSeed: a drain and a seed at the front, refused, accepted and behind a stream; a running drain; a running seed with no column, of BF16, and of records
in each of the three cases. -/
theorem test_meets_drain :
    let front (op : Nat) := queue 0 { hw := [cmd op 7 [(6, 0), (7, 0xF0)]] }
    let drain : Run := { cmd := cmd 0x23 3 [(18, 2), (20, 1)] }
    let seed (kind cols : Nat) : Run := { cmd := cmd 0x24 3 [(24, 2), (26, cols), (23, kind)] }
    (∀ op ∈ [0x23, 0x24], (((front op).block 511).engine 0).hw = cmd op 7 [(6, 0), (7, 0xF0)] :: [] ∧
      (front op).canTake 511 0 (cmd op 7 [(6, 0), (7, 0xF0)]) = true ∧ (front op).mxRunning 511 = [] ∧
      (cmd op 7 [(6, 0), (7, 0xF0)]).opcode = op) ∧
    (∀ op ∈ [0x23, 0x24], let c := cmd op 7 [(18, 1), (20, if op = 0x23 then 1 else 0), (24, if op = 0x24 then 1 else 0)]
      let s := queue 0 { hw := [c], started := [{ cmd := cmd 0x20 1 [] }, { cmd := cmd 0x21 2 [] }] }
      let busy := queue 0 { hw := [c], started := [{ cmd := cmd 0x22 1 [] }] }
      s.canTake 511 0 c = true ∧ c.opcode = op ∧ c.late = none ∧ (∀ r ∈ s.mxRunning 511, r.cmd.opcode = 0x20 ∨ r.cmd.opcode = 0x21) ∧
      (op = 0x23 → checkDrain (s.block 511) c = stOK) ∧ (op = 0x24 → checkSeed (s.block 511) c = stOK) ∧
      (∀ r ∈ busy.mxRunning 511, r.cmd.opcode ≠ c.opcode) ∧ ∃ r ∈ busy.mxRunning 511, r.cmd.opcode ≠ 0x20 ∧ r.cmd.opcode ≠ 0x21) ∧
    checkDrain ((front 0x23).block 511) (cmd 0x23 7 [(6, 0), (7, 0xF0)]) ≠ stOK ∧
    checkSeed ((front 0x24).block 511) (cmd 0x24 7 [(6, 0), (7, 0xF0)]) ≠ stOK ∧
    ((running 0 drain).mxRunning 511).find? (fun q => q.cmd.opcode == 0x23) = some drain ∧ drain.count < drain.cmd.f 18 15 0 ∧
    ∀ k ∈ [0, 1], ∀ n ∈ [0, 1, 2], ((running 0 (seed k n)).mxRunning 511).find? (fun q => q.cmd.opcode == 0x24) = some (seed k n) ∧
      (seed k n).count < (seed k n).cmd.f 24 15 0 ∧ (seed k n).cmd.f 26 15 0 = n ∧ (seed k n).cmd.f 23 7 0 = k ∧
      (running 0 (seed k n)).storePoison 511 0 (n * seedZ (seed k n).cmd) = none := by
  decide +kernel

/-- Records that a seed takes, refuses for their COUNT, and refuses as invalid. -/
theorem test_meets_seed_records :
    ¬ 65536 < (Raw.decode 0).acc.count ∧ (∃ q ∈ [Raw.decode (2 ^ 256 - 1)], 65536 < q.acc.count) ∧ (Raw.decode (2 ^ 256 - 1)).valid = false ∧
    (poisonedStore on).storePoison 511 0 32 = some 0 := by
  decide +kernel

/-! ### Blocks and their engines -/

/-- CommandsEnterTheirQueues: a push to an empty queue, to a full one and of an unlisted opcode; a refill; a wait that ends well and with a
mark. -/
theorem test_meets_queues :
    let full := queue 1 { hw := List.replicate 64 (cmd 0x40 1 []) }
    let low := queue 1 { hw := List.replicate 32 (cmd 0x40 1 []), spill := [cmd 0x40 2 []] }
    let c := cmd 0x40 5 [(2, 1)]
    let waits := queue 1 { hw := [c] }
    (∀ s ∈ [queue 1 {}, full], s.powered = true ∧ s.hartReady 655 = true ∧ (s.hart 655).stores = [] ∧ (s.hart 655).combine = none ∧
      (s.hart 655).wc = [] ∧ s.out = [] ∧ (s.block 511).xchk = none ∧ ((s.block 511).engine 1).spill.length < 4032 ∧
      ∀ d ∈ ((s.block 511).engine 1).hw, d.late = none) ∧
    ((full.block 511).engine 1).hw.length = 64 ∧ engineOf 0 = 7 ∧ engineOf 0x40 = 1 ∧ (Instr.spillRefill 511 4).wf = true ∧
    ((low.block 511).engine 1).spill ≠ [] ∧ ((low.block 511).engine 1).hw.length = 32 ∧
    ((waits.block 511).engine 1).hw = c :: [] ∧ c.wait ≠ 0 ∧ c.waited = false ∧ (waits.block 511).marks = [] ∧
    (∀ d ∈ (waits.block 511).outstanding, ¬ (d.seq < c.seq ∧ d.sigEn = true ∧ c.wait.testBit d.sig = true)) ∧ c.contOnErr = false ∧
    (∃ m ∈ [(0, 4)], c.wait.testBit m.1 = true ∧ m.2 < c.seq) ∧ (Instr.blkTokenErrClear ag 511 0).wf = true := by
  decide +kernel

/-- CompletionsAreWritten: a finished command with the ring off, on and full; one that still runs, and one whose peg
carries a write that is not acknowledged. -/
theorem test_meets_completion :
    let r : Run := { cmd := cmd 0x40 5 [(1, 0x30)], status := some stRANGE }
    let s := running 1 r
    let at_ (ctrl tail : W64) := (s.setReg (BLK_CPL_CTRL 511) ctrl).setReg (BLK_CPL_TAIL 511) tail
    let fullRing (u : State) := ((u.reg (BLK_CPL_TAIL 511)).toNat + 2 ^ 32 - (u.reg (BLK_CPL_HEAD 511)).toNat) % 2 ^ 32 =
      2 ^ bits (u.reg (BLK_CPL_CTRL 511)) 27 24
    s.powered = true ∧ (Instr.completionWrite 511 1).wf = true ∧ ((s.block 511).engine 1).started = r :: [] ∧ ((s.block 511).engine 3).started = [] ∧
    r.owed = [] ∧ s.out = [] ∧ stRANGE ≠ stOVERRUN ∧ stRANGE ≠ stDEADLINE ∧ stRANGE ≠ stBISQUE_USED ∧ s.kiln.tags.find (r.cmd.f 8 31 0) = none ∧
    ((s.block 511).engine 1).hw = [] ∧ ((at_ 0 0).reg (BLK_CPL_CTRL 511)).getLsbD 29 = false ∧
    ((at_ 0x24000000 15).reg (BLK_CPL_CTRL 511)).getLsbD 29 = true ∧ ¬ fullRing (at_ 0x24000000 15) ∧ fullRing (at_ 0x24000000 16) ∧
    (s.block 511).state ≠ .reset ∧ s.carried = [] ∧
    (let q : Run := { cmd := cmd 0x40 5 [(1, 0x20), (7, 0x0C)], status := some stOK }
     let w : OutReq := { tag := 4, origin := .hart 143, dest := .module 9, op := 2, addr := 0 }
     let u : State := { running 1 q with out := [w], carried := [(655, [4])] };
      q.cmd.pegEn = true ∧ q.cmd.f 7 3 2 = 3 ∧ (∃ n ∈ u.carried.get [] (144 + 511), u.awaited n = true) ∧ w.origin ≠ .gs 511 5) := by
  decide +kernel

/-- BlockStatesChange and MutedBlocks: a block in each state, with work started and queued. -/
theorem test_meets_block_states :
    let x (st : BlockState) : State := queue 1 { hw := [cmd 0x40 6 []], started := [{ cmd := cmd 0x40 5 [] }] } st
    let trapped : State := { x .running with harts := [(655, { inTrap := true })] }
    (∀ st ∈ [BlockState.reset, .halted, .running, .muted], (x st).powered = true ∧ ((x st).block 511).state = st ∧
      ((x st).block 511).xchk = none ∧ ((x st).block 511).tuning = [] ∧ (∀ y ∈ (x st).blocks, (x st).block y.1 = y.2) ∧
      ∀ y ∈ (x st).colls, y.2.state ≠ .running) ∧
    (Instr.blkStart ag 511).wf = true ∧ ((x .halted).reg (BLK_SEQ_ENTRY 511)).toNat < 0x200000 ∧
    (x .halted).firstPoison (storeBase 511 + ((x .halted).reg (BLK_SEQ_ENTRY 511)).toNat) 4 = none ∧
    (let s := atBlock {}; (s.block 511).state = .reset ∧ s.drained 511 = true ∧ s.dieLive (511 / 128) (511 % 128 / 64) = true ∧ s.txns = []) ∧
    (x .reset).drained 511 = false ∧ (trapped.hart 655).inTrap = true ∧ (256 : W64).getLsbD 8 = true ∧ (0 : W64).getLsbD 8 = false := by
  decide +kernel

/-- A vector or layout command of one element per row, FP32 or INT8 in and out, with the fields given. -/
def one (op : Nat) (fs : List (Nat × Nat)) : Run := { cmd := cmd op 5 ([(32, 1), (36, 1)] ++ fs) }

/-- VectorElements: each command, VE_BINARY with and without its scalar; a poisoned operand. -/
theorem test_meets_vector :
    (∀ r ∈ [one 0x40 [], one 0x40 [(38, 0x80)], one 0x41 [], one 0x42 []], let s := running 1 r
      s.powered = true ∧ s.activeRun 511 1 = some r ∧ r.count < r.cmd.n * r.cmd.nRows ∧ s.storePoison 511 0 4 = none ∧
      (∀ y ∈ s.blocks, y.2.state ≠ .muted) ∧ (∀ y ∈ s.colls, y.2.state ≠ .running) ∧ (poisonedStore s).storePoison 511 0 4 = some 0) ∧
    (one 0x40 []).cmd.func.testBit 7 = false ∧ (one 0x40 [(38, 0x80)]).cmd.func.testBit 7 = true ∧ fmtBytes 0 = 4 := by
  decide +kernel

/-- VectorRowsAndRecords: a row, a group of 32 to quantise with all values zero, and two records that combine and that do not. -/
theorem test_meets_records :
    (∀ op ∈ [0x43, 0x45], let r := one op []
      let s := running 1 r
      s.powered = true ∧ (∀ y ∈ s.blocks, y.2.state ≠ .muted) ∧ (∀ y ∈ s.colls, y.2.state ≠ .running) ∧
      s.activeRun 511 1 = some r ∧ r.count < r.cmd.nRows ∧ r.cmd.opcode = op ∧ s.storePoison 511 0 32 = none) ∧
    (let r : Run := { cmd := cmd 0x44 5 [(32, 32), (36, 1), (40, 0x0A)] }
      let s := running 1 r
      s.activeRun 511 1 = some r ∧ r.count < r.cmd.n * r.cmd.nRows ∧ s.storePoison 511 0 128 = none ∧ r.cmd.fmtA = 0) ∧
    (let w := Raw.encode 0 false { index := 0xFFFF }; (rawCombine w w).1 = stOK) ∧ (rawCombine 0 (2 ^ 256 - 1)).1 ≠ stOK := by
  decide +kernel

/-- LayoutAndSortRows: each command with one row left, its source clean and poisoned; for LY_PAD a row outside the source. -/
theorem test_meets_layout :
    (∀ op ∈ [0x60, 0x61, 0x62, 0x63], let r := one op [(39, 8), (40, 8)]
      let s := running 2 r
      s.powered = true ∧ s.activeRun 511 2 = some r ∧ r.count < r.cmd.lyOut.1 ∧ r.cmd.lyOut.2 ≠ 0 ∧
      s.rangesPoison 511 (State.lyRanges r.cmd 0) = none ∧ (poisonedStore s).rangesPoison 511 (State.lyRanges r.cmd 0) = some 0 ∧
      isMx r.cmd.fmtA = false) ∧
    (let r := one 0x62 [(39, 8), (40, 8), (60, 1)]; r.cmd.pads.2.2.1 = 1 ∧ r.count < r.cmd.lyOut.1) ∧
    (∀ op ∈ [0x78, 0x79], let r := one op [(56, 1)]
      let s := running 4 r
      s.activeRun 511 4 = some r ∧ r.count < r.cmd.nRows ∧ s.storePoison 511 0 4 = none ∧ r.cmd.n ≠ 0 ∧ r.cmd.topK ≠ 0 ∧
      r.cmd.func.testBit 1 = false) := by
  decide +kernel

/-- How an engine's access ended. -/
def gotData : EngRead → Bool | .data .. => true | _ => false
def readFaulted : EngRead → Bool | .fault .. => true | _ => false
def wroteAll : EngWrite → Bool | .done _ none => true | _ => false

/-- A gather-scatter command of one row of 8 bytes from a table at an address. -/
def gather1 (op base rows flags : Nat) : Run :=
  { cmd := cmd op 5 [(20, 64), (24, 1), (27, flags), (28, 8), (32, base), (40, 8), (48, rows)] }

/-- GatherScatterRows: an index past TABLE_ROWS with and without OOB_ZERO; rows that memory gives and takes; addresses that name nothing and
another module, which cannot be reached. -/
theorem test_meets_gather :
    (∀ op ∈ [0x70, 0x71], ∀ flag ∈ [0, 2], let r := gather1 op 0 0 flag
      let s := running 3 r
      s.powered = true ∧ s.activeRun 511 3 = some r ∧ r.cmd.fretKind ≠ 2 ∧ r.count < r.cmd.gsN ∧
      s.storePoison 511 (r.cmd.gsIndex) 4 = none ∧ r.cmd.tableRows ≤ s.storeNat 511 r.cmd.gsIndex 4 ∧ r.cmd.oobZero = (flag == 2)) ∧
    (∀ op ∈ [0x70, 0x71, 0x72, 0x73], let r := gather1 op hbm0 1 0
      let s := running 3 r
      s.storePoison 511 r.cmd.gsLocal r.cmd.rowLen = none ∧ r.cmd.rowLen ≠ 0 ∧ r.cmd.rowWraps 0 = false ∧
      s.storeNat 511 r.cmd.gsIndex 4 < r.cmd.tableRows ∧
      gotData (s.engRead (blockAgent s.moduleId 511) (.gs 511 5) (some 511) 0 (r.cmd.rowAddr 0) 8) = true ∧
      wroteAll (s.engWrite (blockAgent s.moduleId 511) (fun _ => .gs 511 5) 0 0 (r.cmd.rowAddr 0)
        (s.rdBytes (storeBase 511 + r.cmd.gsLocal) 8)) = true) ∧
    (let r := gather1 0x72 0xF00000000000 1 0;
      readFaulted ((running 3 r).engRead (blockAgent 0 511) (.gs 511 5) (some 511) 0 (r.cmd.rowAddr 0) 8) = true) := by
  decide +kernel

/-! ### Harts -/

/-- A core and the sequencer of block 511 that may act, with line 0 modified in their caches, clean or its first word poisoned, and more. -/
def hartState (x : State → State := id) (p : BitVec 16 := 0) (st : CState := .modified) : State :=
  x ({ queue 0 {} with coresOn := true, caches := [((143, line0), ⟨st, { poison := p }⟩), ((655, line0), ⟨st, { poison := p }⟩)] } : State)

/-- CachedHartAccesses: for a core and a sequencer, an access of each size at the end of the line, clean and poisoned; LR and SC with the
reservation and without. -/
theorem test_meets_hart :
    (∀ h ∈ [143, 655], ∀ n ∈ [1, 2, 4, 8], let s := hartState
      let a : Access := { addr := hbm0 + 128 - n, size := n }
      let m := hbm0 + 128 - n
      s.powered = true ∧ s.hartReady h = true ∧ (s.hart h).stores = [] ∧ (s.hart h).combine = none ∧ (s.hart h).wc = [] ∧
      (s.hart h).streaming = false ∧ s.out = [] ∧ crosses16 a = false ∧ s.accessHeld h a = false ∧ (s.cacheOf h (m / 128)).isSome = true ∧ (s.hart h).inTrap = false ∧
      s.regionLive (State.lineHome (m / 128)) = true ∧ (s.hart h).missLine ≠ some (m / 128) ∧
      s.targetAt h a.addr a.pbmt false = .mem m ∧ s.targetAt h a.addr a.pbmt true = .mem m ∧ okSize n = true) ∧
    (∀ c ∈ [(⟨.modified, {}⟩ : CLine), ⟨.modified, { poison := 1 }⟩, ⟨.modified, { poison := 0x8000 }⟩],
      (hartState id c.line.poison).cacheOf 143 line0 = some c ∧ c.state ≠ .shared) ∧
    ({} : Line).bad 120 8 = false ∧ ({ poison := 0x8000 } : Line).bad 120 8 = true ∧ ({ poison := 1 } : Line).bad 0 8 = true ∧
    (let u := hartState fun s => { s with reserved := [(143, line0, true)] }; u.reserved.find 143 = some (line0, true)) ∧
    (hartState).reserved.find 143 = none ∧ (hartState id 0 .shared).cacheOf 143 line0 = some ⟨.shared, {}⟩ := by
  decide +kernel

/-- FencesWaitsAndTimeouts: a hart that may retire; an interrupt to machine and to supervisor mode; a line to write out; a reservation; a
posted write and a load that time out. -/
theorem test_meets_fences :
    (∀ h ∈ [143, 655], let s := hartState
      s.hartReady h = true ∧ (s.hart h).wait = .none ∧ (s.hart h).stores = [] ∧ (s.hart h).combine = none ∧ (s.hart h).wc = [] ∧
      (s.hart h).streaming = false ∧ s.out = []) ∧
    (let x : Hart := { wfi := true, eiids := [(true, 5)], csrs := [(csrMie, 0x800), (csrMstatus, 8)] }
     let y : Hart := { priv := .supervisor, eiids := [(false, 5)], csrs := [(csrMie, 0x200), (csrMstatus, 2), (csrMideleg, 0x200)] }
     ∀ p ∈ [(x, 11), (y, 9)], let s := hartState fun s => { s with harts := [(143, p.1)] }
      s.takeable 143 = some p.2 ∧ (s.updHart 143 fun z => { z with wfi := false }).hartRuns 143 = true ∧ (s.hart 143).wait = .none ∧
      (s.hart 143).wc = [] ∧ s.wcUnacked 143 = false ∧ (s.hart 143).streaming = false ∧ (s.hart 143).combine = none ∧
      s.halting 143 = false ∧ (s.hart 143).inTrap = false ∧
      (decide ((s.hart 143).priv ≠ .machine) && ((s.hart 143).mideleg).getLsbD p.2) = (p.2 == 9)) ∧
    (let e : WcEntry := { dest := some (.module 7), line := 3, data := 0, mask := 1 }
     let s := hartState fun s => { s with harts := [(143, { wc := [e] })], reachable := [7] }
     (s.hart 143).wc = [e] ∧ s.destReachable (.module 7) (.wc 143) = true ∧ (s.hart 143).wait = .none) ∧
    (hartState fun s => { s with reserved := [(655, 9, true)] }).reserved.find 655 = some (9, true) ∧ ag.wf = true ∧
    (∀ d ∈ [OutDest.module 7, .host 3, .t4 3], ∀ op ∈ [1, 2], let q : OutReq := { tag := 5, origin := .hart 143, dest := d, op := op, addr := 0 }
      let s := hartState fun s => { s with out := [q], harts := [(143, { wait := .answer 5 })] }
      s.out = [q] ∧ s.fab.waiting = [] ∧ q.posted = (op == 2) ∧ (s.hart 143).wait = .answer q.tag ∧ (s.hart 143).wc = [] ∧
      (s.hart 143).streaming = false ∧ (s.hart 143).combine = none ∧ s.seqStopped 143 = false ∧ (s.reg (State.asyncErrReg 143)).getLsbD 8 = false) := by
  decide +kernel

/-! ### DMA -/

/-- Channel 63 of region 3 in a state, its control register as given and its ring at `hbm0`. -/
def dmaAt (x : DmaChan) (ctrl : W64 := 1) : State := { on with dma := [((3, 63), x)], regs := [(DMA_CH_CTRL 3 63, ctrl), (DMA_CH_RING_BASE 3 63, w64 hbm0)] }

/-- A descriptor: its fields (byte offset, value). -/
def desc (fs : List (Nat × Nat)) : Desc := { seq := 0, word := BitVec.ofNat 512 (fs.foldl (fun n x => n + x.2 * 2 ^ (8 * x.1)) 0) }

/-- A COPY, FILL, COMPARE or COPY_2D of 8 bytes between two lines of HBM. -/
def desc8 (op : Nat) : Desc := desc [(0, op), (4, 8), (8, hbm0), (16, hbm0 + 4096)]

/-- DmaChannelStates: the channel in every state, with and without a started descriptor, enabled and not, paused and not. -/
theorem test_meets_dma_states :
    (∀ st ∈ [DmaState.disabled, .idle, .active, .waitDesc, .pausing, .paused, .error], ∀ l ∈ [[], [desc8 0]],
      let s := dmaAt { state := st, started := l }
      let x := s.dmaChan 3 63
      s.powered = true ∧ x.state = st ∧ x.started = l ∧ s.dmaOut 3 63 = [] ∧ s.dmaBuffered 3 63 = false ∧
      (∀ d ∈ x.started, d.wbFault = false) ∧ ∀ d ∈ x.started, d.status = none ∧ d.moved = false) ∧ ag.wf = true ∧
    (let w : OutReq := { tag := 4, origin := .dma 3 63 0 0, dest := .module 9, op := 2, addr := 0 }
     let s : State := { dmaAt { state := .active } with out := [w] };
      w ∈ s.dmaOut 3 63 ∧ w.posted = true ∧ (dmaAt { state := .active }).dmaOut 3 63 = []) ∧
    (let done := { desc8 0 with status := some stOK }
     let s := dmaAt { state := .active, started := [done], errAfter := true };
      (s.dmaChan 3 63).started.find? (·.status.isNone) = none ∧ (s.dmaChan 3 63).started ≠ []) := by
  decide +kernel

theorem test_meets_dma_control :
    (dmaAt {} 0).reg (DMA_CH_CTRL 3 63) = 0 ∧ (dmaAt {} 1).reg (DMA_CH_CTRL 3 63) = 1 ∧ (dmaAt {} 3).reg (DMA_CH_CTRL 3 63) = 3 ∧
    (3 : W64) &&& 0x1F33#64 = 3 ∧ (dmaAt { state := .idle }).doorbellSeq 3 63 15 = some 15 ∧
    (dmaAt { state := .idle }).doorbellSeq 3 63 16 = none := by
  decide +kernel

/-- DmaDescriptorsMove: a fetch that finds a valid descriptor and one that does not, at the first and the last re-fetch; each operation with
a chunk left; a descriptor that ended, with success and error, alone and not; the ring at an address that faults. -/
theorem test_meets_dma_moves :
    (∀ m ∈ [[], [(hbm0 + 1, (1 : Byte))]], ∀ k ∈ [none, some 0, some 6], let s := { dmaAt { state := .active, target := some 0, tries := k } with mem := m }
      s.mayFetch 3 63 = true ∧ (s.dmaChan 3 63).tries = k ∧ (s.dmaChan 3 63).started.length < 8 ∧
      (match s.engRead (engineAgent s.moduleId 3 0) (.dma 3 63 0 fetchOff) none 0 (s.ringAddr 3 63 0) 64 with
        | .data u bs => decide (u.dmaChan 3 63 = s.dmaChan 3 63) &&
          ((({ seq := 0, word := BitVec.ofNat 512 (leNat bs) } : Desc).f 1 0 0 == 1) == !m.isEmpty)
        | _ => false) = true) ∧
    (∀ op ∈ [0, 1, 2, 3], let d := desc8 op
      let s := dmaAt { state := .active, started := [d] }
      s.activeDesc 3 63 = some d ∧ d.op = op ∧ s.dmaOut 3 63 = [] ∧ s.dmaBuffered 3 63 = false ∧ s.dmaIssued 3 < 0x42000 ∧
      (op = 1 ∨ (s.grantRead 3 63 (State.readCost d)).isSome = true) ∧ State.chunkLen d = 8 ∧
      gotData (s.engRead (engineAgent s.moduleId 3 0) (.dma 3 63 0 (2 ^ 81)) none 0 (d.srcAt 0) 8) = true ∧
      gotData (s.engRead (engineAgent s.moduleId 3 0) (.dma 3 63 0 (2 ^ 82)) none 0 (d.dstAt 0) 8) = true ∧
      wroteAll (s.engWrite (engineAgent s.moduleId 3 0) (fun k => .dma 3 63 0 k) 0 0 (d.dstAt 0) (List.replicate 8 0)) = true) ∧
    (let s := dmaAt { state := .active, started := [desc [(4, 8), (8, 0xF00000000000), (16, hbm0)]] };
      readFaulted (s.engRead (engineAgent s.moduleId 3 0) (.dma 3 63 0 (2 ^ 81)) none 0 0xF00000000000 8) = true) := by
  decide +kernel

theorem test_meets_dma_completion :
    (∀ st ∈ [stOK, stRANGE], ∀ rest ∈ [[], [{ desc8 0 with seq := 1 }]], let d := { desc8 0 with status := some st }
      let s := dmaAt { state := .active, started := d :: rest }
      s.unackedOffs 3 63 0 = [] ∧ d.wbFault = false ∧ d.sent = false ∧ st ≠ stOVERRUN ∧ (s.dmaChan 3 63).tries = none ∧
      s.dmaIssued 3 < 0x42000 ∧ (s.dmaChan 3 63).errAfter = false ∧
      isSuccess st = (st == stOK) ∧
      (match s.engWrite (engineAgent s.moduleId 3 0) (fun _ => .dma 3 63 0 wbOff) 0 0 (s.ringAddr 3 63 0) (leBytes 64 (s.wbWord 3 63 d)) with
        | .done u none => (u.kiln.tags.find (d.f 44 31 0)).isNone && decide (u.dmaChan 3 63 = s.dmaChan 3 63) && (u.unackedOffs 3 63 0).isEmpty
        | _ => false) = true) ∧
    (let s := { dmaAt { state := .active, target := some 0 } with iommuRoots := [(0, 0)] };
      s.mayFetch 3 63 = true ∧ s.pieces 0 (s.ringAddr 3 63 0) 64 false = .fault (s.ringAddr 3 63 0)) ∧
    (let d := { desc8 0 with status := some stOK }
     let s := { dmaAt { state := .active, started := [d] } with iommuRoots := [(0, 0)] };
      s.pieces 0 (s.ringAddr 3 63 0) 64 true = .fault (s.ringAddr 3 63 0)) := by
  decide +kernel

/-! ### Pegs and watches -/

/-- PegStores, PegReleaseByHart and PegReads: the last peg, its home live; a core, and an agent that is no hart; a narrow acquire. -/
theorem test_meets_pegs :
    let core := hartAgent on.moduleId 143
    let s := hartState
    let held := hartState fun s => { s with pegs := [(65535, { lastRel := true, releaser := (hartAgent s.moduleId 0).place })] }
    s.powered = true ∧ (Instr.pegSet ag 65535 0).wf = true ∧ s.regionLive (65535 / 16384) = true ∧ ag.hart = none ∧ core.hart = some 143 ∧
    (Instr.pegRelAdd core 65535 .region 0).wf = true ∧ (s.hart 143).stores = [] ∧ (s.hart 143).combine = none ∧ (s.hart 143).wc = [] ∧
    s.out = [] ∧ s.strictScope = false ∧ (held.peg 65535).lastRel = true ∧
    decide (min (held.peg 65535).lastScope (scopeCode .region) <
      commonScope (agentOfCode s.moduleId (held.peg 65535).releaser) core) = true ∧
    (Instr.pegAccessFault core 0xF00040000001 4 true false).wf = true ∧ s.hartReady 143 = true ∧ s.wcUnacked 143 = false ∧
    (s.hart 143).streaming = false := by
  decide +kernel

/-- The arm window of core 143: the words stored since the last push. -/
def armed (w0 w1 w2 : W64) : State := { on with coresOn := true, arms := [(143, { w0 := w0, w1 := w1, w2 := w2 })] }

/-- WatchArmChecks and WatchArmAccepted: an arm for each check that can fail (a reserved bit, KIND 3, a TARGET past each bound, a KIND 2 address
that is not aligned, a lost home, a muted block), and one accepted, its condition true and not. -/
theorem test_meets_arms :
    let core := hartAgent on.moduleId 143
    let check (w0 w2 : W64) := (armed w0 0 w2).armCheck none w0 w2
    core.hart = some 143 ∧ (Instr.watchArm core 0).wf = true ∧
    check (fld 1 56) 0 = stRANGE ∧ check (fld 3 18) 0 = stRANGE ∧ check 0 512 = stRANGE ∧ check (fld 1 18) 144 = stRANGE ∧
    check (fld 1 18) 143 = stRANGE ∧ check (fld 2 18) 4 = stALIGN ∧ check 0 511 = stOK ∧ check (fld 1 18) (143 + 512) = stOK ∧
    ({ armed 0 0 0 with lostRegions := [0] } : State).armCheck none 0 0 = stPEER_LOST ∧
    ({ armed 0 0 0 with blocks := [(0, { state := .muted })] } : State).armCheck none 0 0 = stMUTED ∧
    (armed 0 0 511).pickEntry (pegHome 0) 0 511 = some ⟨0, .block, 16352⟩ ∧ condHolds 0 0 0 = true ∧ condHolds 0 0 1 = false := by
  decide +kernel

/-- WatchEvents: a fired watch of KIND 0 and 1 for a queue with room and one with none; a due watch; a live handle; an event held back. -/
theorem test_meets_events_delivered :
    let w (kind : Nat) : Watch := { peg := 0, cond := 0, kind := kind, operand := 0, target := if kind = 0 then 511 else 655, value := 0, pasid := 0, left := some 0, due := kind == 1 }
    let k : WKey := ⟨3, .shared, 4095⟩
    (Instr.watchDeliver 3).wf = true ∧ (Instr.watchExpire 3 (handleOf k 7)).wf = true ∧ (w 0).kind ≠ 2 ∧ (w 1).kind ≠ 2 ∧
    (keyOfHandle (handleOf k 7)) = (k, 7) ∧ (w 1).due = true ∧ (w 0).due = false ∧
    (∀ n ∈ [0, 63, 64], let s : State := { on with fired := [(3, ⟨0, 0, w 0⟩)], eventQ := [(655, List.replicate n 1)] }
      (s.heldEvents.any (fun y => y.2.1 == 655) || decide (64 ≤ (s.eventQ.get [] 655).length)) = (n == 64)) ∧
    (let s : State := { on with watches := [(k, w 0)], gens := [(k, 7)] }; s.watches.find k = some (w 0) ∧ s.gen k = 7) ∧
    (let s : State := { on with heldEvents := [(3, 655, ⟨1, 0⟩)], eventQ := [(655, List.replicate 63 1)] };
      (s.eventQ.get [] 655).length < 64 ∧ (Instr.eventQueueAdmit 3).wf = true) := by
  decide +kernel

/-! ### Lines and memory -/

/-- LinesAreServedByTheirHome: a line of no cache, before its home with no transaction and with 1,024; a request to send again. -/
theorem test_meets_lines :
    on.cacheable (line0 * 128) = true ∧ on.regionLive (State.lineHome line0) = true ∧ on.initDone.contains (State.lineHome line0) = true ∧
    (∀ f, on.heldBy line0 f = none) ∧ on.lineBusy line0 = false ∧ on.dirOf line0 = none ∧ on.dirVictim line0 = none ∧
    on.homeStatus (line0 * 128) = stOK ∧ on.retraining (line0 * 128) = false ∧ (∀ r, on.patBusy.find r = none) ∧
    (∀ l, on.txns.find? (·.line == l) = none) ∧ on.tracked (State.lineHome line0) < 1024 ∧
    (∀ k ∈ [143, 655], on.hartLive k = true ∧ on.cacheOf k line0 = none ∧ on.evicting.find (k, line0) = none ∧
      on.requesting k line0 = false ∧ on.harts = [] ∧ (on.inFlight k).length = 0) := by
  refine ⟨by decide +kernel, by decide +kernel, by decide +kernel, ?_, by decide +kernel, by decide +kernel, by decide +kernel,
    by decide +kernel, by decide +kernel, fun _ => rfl, fun _ => rfl, by decide +kernel, by decide +kernel⟩
  intro f
  cases f <;> decide +kernel

theorem test_meets_lines_full :
    let t : Txn := { line := line0 + 1, req := .eRead 0, started := true }
    let x : Retried := { line := line0, req := .readShared 655 }
    1024 ≤ ({ on with txns := List.replicate 1024 t } : State).tracked (State.lineHome line0) ∧ x.deferrer = none ∧ x.req.who < 688 ∧
    x.req.who = 655 := by decide +kernel

/-- A transaction at line `line0` for cache 655 that has snooped cache 143, and one whose line has arrived. -/
theorem test_meets_snoop :
    let x (q : CReq) : Txn := { line := line0, req := q, started := true, waits := [143] }
    let c : CLine := ⟨.modified, {}⟩
    let s : State := { on with txns := [x (.readUnique 655)], caches := [((143, line0), c)], dir := [(line0, .excl 143)] }
    let arrived (q : CReq) (d : Bool) : Txn := { x q with waits := [], fwd := some ({}, d) }
    s.txns = [x (.readUnique 655)] ∧ (x (.readUnique 655)).waits.contains 143 = true ∧ s.harts = [] ∧
    ({ s with reserved := [(143, line0, true)] } : State).reserved.find 143 = some (line0, true) ∧ s.reserved.find 143 = none ∧
    s.cacheOf 143 line0 = some c ∧ s.dirOf line0 = some (.excl 143) ∧ c.state ≠ .shared ∧
    (∀ d ∈ [true, false], (arrived (.readUnique 655) d).waits = [] ∧ (arrived (.readUnique 655) d).fwd = some ({}, d)) ∧
    (arrived (.readShared 655) false).fwd = some ({}, false) ∧ s.memoryHolds line0 = false := by
  decide +kernel

/-- A dirty and a clean line to evict; a scrub and the end of an invalidation. -/
theorem test_meets_evict :
    (∀ st ∈ [CState.modified, .exclusive], let s : State := { on with caches := [((655, line0), ⟨st, {}⟩)], dir := [(line0, .excl 655)] }
      s.cacheOf 655 line0 = some ⟨st, {}⟩ ∧ (s.evicting.filter fun x => x.1.1 == 655).length < 4 ∧
      s.regionLive (State.lineHome line0) = true ∧ s.dirOf line0 = some (.excl 655) ∧ s.lineBusy line0 = false ∧
      s.tracked (State.lineHome line0) < 1024 ∧ s.memoryHolds line0 = false ∧ s.homeStatus (line0 * 128) = stOK ∧ s.harts = [] ∧
      s.cacheable (line0 * 128) = true ∧ s.initDone.contains (State.lineHome line0) = true ∧ s.heldBy line0 true = none ∧
      s.heldBy line0 false = none) ∧
    on.regionLive 3 = true ∧ on.initDone.contains 3 = false := by
  decide +kernel

/-- MemoryChannelsAndGroups: an error of a channel in service, its first and its fourth, of a block store, of the SLC and of a cache. -/
theorem test_meets_ecc :
    let dev (s : State) := s.devOf hbm0
    let errs (n : Nat) : State := { on with hbm := [((dev on).getD 0, { errors := List.replicate n 0 })] }
    (∃ d ∈ [(dev on).getD 0], dev on = some d ∧ d ≠ 0xFFFF) ∧ on.regionLive (State.placeHome (placeRaw hbm0)) = true ∧
    on.devOf (storeBase 511) = some 0xFFFF ∧
    (((errs 3).dev ((dev on).getD 0)).errors.filter (fun f => decide ((errs 3).fret < f + 2 ^ 16)) ++ [0]).length = 4 ∧
    ((errs 3).dev ((dev on).getD 0)).state = .inService ∧
    ({ on with slc := [line0] } : State).slc.contains (hbm0 / 128) = true ∧
    (hartState.cacheOf 655 (hbm0 / 128)).isSome = true ∧
    placeRaw (storeBase 511) = .store 511 0 ∧ okB 511 = true ∧ on.dieLive 3 1 = true := by
  decide +kernel

/-- A maintenance slot with a pending device and with the next one to check; a check and a retraining that end; groups and the generator. -/
theorem test_meets_maintenance :
    let s : State := { on with fret := 64 }
    let pend : State := { s with hbm := [(511, { pending := true })] }
    let retr : State := { on with hbm := [(511, { state := .retraining })] }
    let first (u : State) := (regionDevs 3).find? fun d => (u.dev d).pending && (u.dev d).state == .inService
    s.regionLive 3 = true ∧ bits (s.reg (MGMT_MEM_MAINT 3)) 15 0 = 64 ∧ s.maintLast.get 0 3 + 64 ≤ s.fret ∧ s.xchkPair 3 = none ∧
    s.links = [] ∧ (s.link 15).repair = [] ∧ (s.link 15).lanes.length ≤ 2 * (s.link 15).groups ∧ first pend = some 511 ∧
    (s.reg (MGMT_MEM_MAINT 3)).getLsbD 32 = true ∧ (∀ e ∈ regionDevs 3, (pend.dev e).state ≠ .retraining) ∧ first s = none ∧
    s.nextCheck 3 (s.maintNext.get 0 3) = some (0, 384) ∧
    ((regionDevs 3).find? fun d => (retr.dev d).state == .retraining) = some 511 := by
  decide +kernel

theorem test_meets_groups :
    let v (g : Nat) : W64 := w64 (g + 16)
    let s : State := { on with groups := [((3, 8), { live := regionPackages 3, pending := true })], hbm := [(511, { state := .test })] }
    let done : State := { on with groups := [((3, 8), { live := [], rebuilding := true })] }
    let lost : State := { on with groups := [((3, 4), { live := [], rebuilding := true })], poison := [(3 * 0x3000000000) / 8 + gib / 16 - 1] }
    bits (v 8) 3 0 = 8 ∧ bits (v 8) 63 5 = 0 ∧ (v 8).getLsbD 4 = true ∧ 8 < bits (v 9) 3 0 ∧ (s.group 3 8).pending = true ∧
    (s.group 3 8).rebuilding = false ∧ (s.group 3 0).pending = false ∧ (done.group 3 8).rebuilding = true ∧
    (lost.group 3 4).rebuilding = true ∧ (3 * 0x3000000000 + (4 - 4) * (24 * gib)) / 8 + (gib / 16 - 1) ∈ lost.poison ∧
    (s.reg (HBM_TG_STATUS 511)).getLsbD 0 = false ∧ (s.channel 511).state = .test ∧ bits (3 : W64) 1 0 = 3 ∧
    ((s.setReg (HBM_TG_STATUS 511) 1).reg (HBM_TG_STATUS 511)).getLsbD 0 = true := by
  decide +kernel

/-- PlacementTableAndRegulators: each PAT command, on both tables, at its last entry and past it. -/
theorem test_meets_pat :
    (∀ op ∈ [0, 1, 2, 3], ∀ rb ∈ [0, 4], let i := if rb = 0 then 4489215 else 65535
      let c : PatCmd := ⟨w64 (op + rb + i * 256), 0, 0, 0⟩
      let s : State := { on with patBusy := [(3, c)] }
      s.patBusy.find 3 = some c ∧ bits c.cmd 1 0 = op ∧ bits c.cmd 31 8 = i ∧ c.cmd.getLsbD 2 = (rb == 4)) ∧
    (let s : State := { on with pat := [((3, 1), 0x12)], rbq := [((3, 1), (0x12, 0, 0))] };
      ∀ op ∈ [0, 1, 2, 3], s.patStatus 3 ⟨w64 (op + 256), 2, 0, 0⟩ = stOK ∧ s.patStatus 3 ⟨w64 (op + 260), 6, 0, 0⟩ = stOK) ∧
    on.patStatus 0 ⟨w64 (4489216 * 256), 0, 0, 0⟩ = stRANGE ∧
    on.txns = [] ∧ on.nocHeld = [] ∧
    (let s : State := { on with nocHeld := [(line0, .eRead 0)] };
      s.nocHeld = [(line0, .eRead 0)] ∧ State.lineHome line0 = 0 ∧ s.heldBy line0 (CReq.eRead 0).allocates = none) ∧
    (let s : State := { on with nocHeld := [(line0, .eWrite 0 0)], regs := [(MGMT_REG_CFG 0 2 (on.partitionOf hbm0), fld 1 32 ||| fld 1 0 ||| fld 2 12)] };
      (s.heldBy line0 true).isSome = true) ∧
    ({ on with regNext := [((3, 23), 5)] } : State).regNext.find (3, 23) = some 5 := by
  decide +kernel

/-! ### Chaind -/

/-- Port 15 as given, the fabric as given. -/
def portAt (x : Port) (f : Fab := {}) : State := { on with ports := [(15, x)], fab := f }

/-- ChaindPortsFollowTheirStates: the port in every state, enabled and not; widths that an attempt trains and none; the same peer. -/
theorem test_meets_ports :
    (∀ st ∈ [PortState.disabled, .training, .identify, .active, .held, .failed], ∀ en ∈ [true, false],
      let s := portAt { state := st, enabled := en, attempts := 2 }
      (s.port 15).state = st ∧ (s.port 15).enabled = en ∧ (s.port 15).txq = [] ∧ ∀ y ∈ s.colls, y.2.state ≠ .running) ∧
    (portAt { state := .training, attempts := 1 }).ports.length = 1 ∧ widthOf 1 0xFF = 0 ∧ widthOf 3 0xFF = 1 ∧ widthOf 0xFF 0xFF = 3 ∧
    (let x : Port := { state := .training, peerSerial := 9, peerPort := 2 }; some (9, 2) = some (x.peerSerial, x.peerPort) ∧ x.peerSerial ≠ 0) := by
  decide +kernel

/-- A flit with the CRC of its bytes. -/
def sealed (f : Flit) : Flit := { f with crc := Digest.crc32c (flitBytes f) }

theorem sealed_crc (f : Flit) : (Digest.crc32c (flitBytes (sealed f)) == (sealed f).crc) = true := by simp [sealed, flitBytes]

/-- FlitsAreAcceptedOrAskedForAgain: sealed flits of each type, expected and not; a retry asked for. -/
theorem test_meets_flits :
    let f (type seq : Nat) : Flit := sealed { type := type, seq := seq }
    (f 1 4095).seq % 4096 = 4095 ∧ (∀ st ∈ [PortState.identify, .active, .held], ((portAt { state := st }).port 15).state = st) ∧
    ({ f 1 0 with fecUncorr := 1 }).fecUncorr = 1 ∧ (f 3 0).type = 3 ∧ (f 0 0).type = 0 ∧ (f 1 0).fecUncorr = 0 ∧
    ((portAt { state := .active, expect := 4095 }).port 15).expect = 4095 ∧
    ((portAt { retrying := some 5 }).port 15).retrying = some 5 ∧ ((portAt {}).port 15).retrying = none := by
  decide +kernel

/-- A HELLO of module 9, and this module with serial number 3. -/
def peer9 (settled lone : Bool) (id : W64 := 7) : Hello :=
  { serial := 9, port := 0, period := 16, planDigest := 0, coord := none, fabricId := id, settled := settled, lone := lone, module := 1, best := { cls := 1, serial := 9 }, hops := 0 }
def fab3 (f : Fab) : Fab := { f with serial := 3 }

/-- ModulesIdentifyAndElectALeader: a HELLO of each kind in IDENTIFY and in ACTIVE; a key that beats, equals and loses. -/
theorem test_meets_hello :
    let idle := portAt { state := .identify } (fab3 {})
    let set := portAt { state := .identify } (fab3 { settled := true, fabricId := 7, parent := some 2, leaderSerial := 9 })
    let lone := portAt { state := .identify } (fab3 { settled := true, lone := true })
    let act := portAt { state := .active, hello := some (peer9 true false) } (fab3 {})
    idle.helloCause (peer9 false false) = 0 ∧ idle.helloCause { peer9 false false with serial := 3 } = 1 ∧
    idle.helloCause { peer9 false false with period := 4 } = 2 ∧ lone.helloCause (peer9 false true) = 0 ∧ lone.fab.lone = true ∧
    (peer9 true false).settled = true ∧ set.helloCause (peer9 true false) = 0 ∧ (peer9 true false).fabricId = set.fab.fabricId ∧
    set.fab.parent = some 2 ∧ set.isLeader = false ∧ ((set.fab.cur.links set.moduleId).any (·.1 == 15)) = false ∧
    idle.fab.settled = false ∧ idle.fab.phase = 0 ∧ (idle.port 15).txq = [] ∧
    (act.port 15).hello = some (peer9 true false) ∧ (act.port 15).state = .active := by
  decide +kernel

theorem test_meets_elect :
    let best : LeaderKey := { cls := 1, serial := 5 }
    let s := portAt { state := .active } (fab3 { best := best, parent := some 2, phase := 1 })
    let lost := portAt {} (fab3 { best := best, parent := some 2, settled := true, leaderSerial := 5 })
    let due : State := { lost with fret := 1024 }
    keyBeats { cls := 0, serial := 9 } best = true ∧ keyBeats { cls := 1, serial := 9 } best = false ∧ keyBeats best best = false ∧
    s.fab.settled = false ∧ s.fab.parent = some 2 ∧ s.isLeader = false ∧ s.fab.phase = 1 ∧
    (portAt {} (fab3 { best := { cls := 1, serial := 3 } })).isLeader = true ∧ (portAt {} (fab3 { phase := 1 })).fab.parent = none ∧
    (due.fab.settled = true ∧ due.isLeader = false ∧ due.fab.lastBeat + 1024 ≤ due.fret) ∧ due.activePorts = [] ∧ lost.fret = 0 ∧
    (let orphan := portAt {} (fab3 { best := best, settled := true, leaderSerial := 5 });
      orphan.fab.parent = none ∧ orphan.fab.next = none ∧ orphan.fab.cur.version = orphan.fab.version ∧ orphan.isLeader = false) := by
  decide +kernel

/-- FabricsSettleAndKeepTheirMap: alone and with an active port, as leader and not, settled and not; a segment known, stale, one of two and the
only one; a map that waits for its switch. -/
theorem test_meets_fabric :
    let alone : State := { portAt {} (fab3 {}) with mgmt := { state := .run, step7 := true } }
    let leads (f : Fab) := portAt { state := .active } (fab3 { f with best := { cls := 1, serial := 3 }, leaderSerial := 3 })
    let e3 : MapEntry := { serial := 3, module := 0, coord := none, links := [⟨15, true, 3, 9, 0, 3⟩] }
    let m : MapSegment := { version := 1, fabricId := 7, tableMode := true, switchFret := 4, index := 0, count := 1, leader := 0, entries := [e3] }
    let t : State := { leads {} with fret := 256 }
    alone.activePorts = [] ∧ alone.fab.settled = false ∧ alone.mgmt.step7 = true ∧ alone.fab.children = [] ∧
    ((List.range 16).any fun j => (alone.port j).state == .training || (alone.port j).state == .identify) = false ∧
    (leads {}).activePorts = [15] ∧ (leads {}).isLeader = true ∧ (leads { settled := true }).isLeader = true ∧
    (leads { settled := true }).fab.settled = true ∧ (leads { phase := 2 }).fab.phase = 2 ∧
    alone.fab.segs = [] ∧ m.count = 1 ∧ (∀ e ∈ m.entries, e.module ≠ 0xFFFE) ∧ (m.entries.find? fun e => e.serial == alone.fab.serial) = some e3 ∧
    ([m, m].length ≠ m.count) ∧ t.fret % 256 = 0 ∧
    ((leads { settled := true, cur := { entries := [e3] } }).newestMap.find? (·.serial == 3)).bind (fun e => e.links.find? (·.port == 15)) =
      some ⟨15, true, 3, 9, 0, 3⟩ ∧
    (let s := portAt {} (fab3 { settled := true, leaderSerial := 9, parent := some 2 }); s.isLeader = false ∧ (s.port 15).state ≠ .active) ∧
    (let s := portAt {} (fab3 { lone := true, next := some (4, {}) });
      s.fab.next = some (4, {}) ∧ s.fab.lone = true ∧ s.fab.waiting = [] ∧ (∀ j < 16, (s.port j).txq = []) ∧ s.out = []) ∧
    (portAt {} (fab3 { next := some (4, {}) })).epochSet = false := by
  decide +kernel

/-- PacketsArriveAndAreForwarded: a bad packet, one for this module, one at its last hop, one with no way on and one with; a table to load. -/
theorem test_meets_packets :
    let p : Packet := { dest := 5, src := 9, opcode := 1, len := 8 }
    let here : State := { portAt { state := .active } with moduleId := 5 }
    let routes : Routes := { table := true, loaded := some [⟨0, 9, 15, 0, 0⟩] }
    let away := portAt { state := .active } { cur := routes }
    let load : State := { on with fab := { swRoutes := true }, regs := [(FAB_ROUTE_LOAD_ADDR 0, w64 hbm0)] }
    (here.port 15).state = .active ∧ State.opcodeOk p.opcode = true ∧ p.rsvBad = false ∧ State.opcodeOk 6 = false ∧ p.dest = here.moduleId ∧
    p.hops ≠ 255 ∧ p.dest ≠ away.moduleId ∧ load.fab.swRoutes = true ∧ load.bytesReachable hbm0 16 = true ∧
    load.bytesReachable 0 16 = false ∧ load.fab.loading = none ∧ load.rangeWaits hbm0 16 false = false ∧
    (let held : State := { load with caches := [((143, line0), ⟨.modified, {}⟩)], dir := [(line0, .excl 143)], reserved := [(143, line0, true)] };
      held.rangeWaits hbm0 16 false = true) ∧
    (∀ st ∈ [PortState.disabled, .training, .identify, .active, .held, .failed], ((portAt { state := st }).port 15).state = st) ∧ (load.readBytes (engineAgent load.moduleId 0 1) hbm0 16).2.2 = none ∧ (65537 : W64).toNat % 131072 = 65537 := by
  decide +kernel

/-- RequestsOfOtherModulesAreServed: a packet in turn and one that is not; each place that a request names; each origin of an answer. -/
theorem test_meets_requests :
    let p (op addr : Nat) (aux : W64) (n : Nat) : Packet := { dest := 5, src := 9, opcode := op, len := 8, addr := addr, aux := aux, data := List.replicate n 1 }
    let at_ (q : Packet) : State := { on with inbox := [q] }
    (at_ (p 1 0 0 0)).inbox.contains (p 1 0 0 0) = true ∧ on.inbox = [] ∧ on.place (storeBase 511) = .store 511 0 ∧
    on.place (0xF00000000000 + 0x200010) = .mmio 0x200010 ∧ on.place hbm0 = .hbm 0 hbm0 ∧ on.place 0x300000000000 = .reserved ∧
    on.place (0xE10000000000 + 64 * 65535 + 0x30) = .peg 65535 0x30 ∧ on.place 0xE10000000000 = .peg 0 0 ∧ on.regionLive (pegHome 65535) = true ∧
    on.dieLive 3 1 = true ∧ (State.linesOf hbm0 8).any (on.lineWaits · false) = false ∧ (State.linesOf hbm0 8).any (on.lineWaits · true) = false ∧
    (hbm0 + 4) % 8 ≠ 0 ∧ (poisonedStore on).firstPoison (storeBase 511) 8 = some (storeBase 511) ∧ on.firstPoison (storeBase 511) 8 = none ∧
    bits (0 : W64) 7 0 = 0 ∧ bits (3 : W64) 7 0 = 3 ∧ (p 2 0 0 8).data.length = 8 := by
  decide +kernel

theorem test_meets_answers :
    ∀ o ∈ [Origin.hart 143, .gs 511 5, .dma 3 63 0 0, .fabric 9 1 0], ∀ op ∈ [1, 2],
      let q : OutReq := { tag := 4, origin := o, dest := .module 9, op := op, addr := 0 }
      let s := hartState fun s => { s with out := [q], harts := [(143, { wait := .answer 4 })] }
      (s.out.find? fun r => r.tag == 4 && r.posted == (op == 2)) = some q ∧ q.posted = (op == 2) ∧ (s.hart 143).wait = .answer q.tag ∧
      s.seqStopped 143 = false ∧ (s.out.find? fun r => r.tag == 5 && r.posted == true) = none := by
  decide +kernel

/-! ### Time and collectives -/

/-- TimeTransfersDisciplineTheModule: a request due and not; a response awaited, of another exchange and of none; the clock in each state, at the
bounds of 4 and 40 ns. -/
theorem test_meets_time :
    let due : State := { portAt { state := .active } with slot := 32 }
    let sent : State := { portAt { state := .active, timeSent := some 0 } with slot := 32 }
    let waits (t : Time) : State := { portAt { timeWait := some (5, 0) } { parent := some 15, settled := true } with time := t }
    let e (t4 : Nat) : Int := Int.tdiv (tickDiff 16 t4 0 - tickDiff 16 0 0) 2
    (due.port 15).state = .active ∧ 32 ≤ due.slot ∧ (due.port 15).timeSent ≠ some due.markNs ∧ (sent.port 15).timeSent = some sent.markNs ∧
    ((waits {}).port 15).timeWait = some (5, 0) ∧ (waits {}).fab.parent = some 15 ∧ (waits {}).fab.settled = true ∧ (waits {}).period = 16 ∧
    (e 128).natAbs = 64 ∧ (e 130).natAbs = 65 ∧ (e 1280).natAbs = 640 ∧ (e 1282).natAbs = 641 ∧ (portAt {}).fab.parent = none ∧
    ((waits { lock := .acquiring, good := 15 }).time.lock = .acquiring ∧ (waits { lock := .acquiring, good := 15 }).time.adopt = false) ∧
    ((waits { lock := .locked, bad := 3 }).time.root = false) ∧ (waits { adopt := true }).time.adopt = true ∧
    ((portAt { timeWait := some (5, 0), timeLost := 3 }).port 15).timeLost = 3 := by
  decide +kernel

/-- FretMarksAndSlotsPass: an adoption that is due and one that is not; a slot with no collective running. -/
theorem test_meets_marks :
    let s : State := { on with time := { adopt := true, ready := 8 } }
    s.time.adopt = true ∧ 8 ≤ s.time.ready ∧ on.time.adopt = false ∧ on.colls = [] := by decide +kernel

/-- A strum of one entry that receives 8 bytes in slot 0 at step 0 from module 9 through port 15, its channel in a state. -/
def entry1 : StrumEntry := { step := 0, slot := 0, op := 2, port := 15, port2 := 0, len := 8, offset := 0, aux := 9 }
def collAt (x : CollChan) (t : Time := { lock := .locked }) : State :=
  { portAt { state := .active, peerModule := 9 } with colls := [((3, 63), x)], time := t }

/-- StrumsLoadRunAndEnd: the channel in every state; a table that loads, that is out of reach and too long; a start at once, in time and with
no lock; a run with its last step open and complete. -/
theorem test_meets_strum :
    (∀ st ∈ [CollState.empty, .loading, .loaded, .armed, .running, .stopping], ((collAt { state := st }).coll 3 63).state = st ∧
      (collAt { state := st }).mgmt.state ≠ .quiesce) ∧ ag.wf = true ∧
    (let s : State := { collAt { state := .loading } with regs := [(FAB_COLL_CH_TABLE_ADDR 3 63, w64 hbm0), (FAB_COLL_CH_TABLE_CFG 3 63, 1)] };
      bits (s.reg (FAB_COLL_CH_TABLE_CFG 3 63)) 20 0 = 1 ∧ s.bytesReachable hbm0 16 = true ∧
      (s.readBytes (s.collAgent 3) hbm0 16).2.2 = none ∧ s.bytesReachable 0 16 = false ∧ s.rangeWaits hbm0 16 false = false ∧
      (let held : State := { s with caches := [((143, line0), ⟨.modified, {}⟩)], dir := [(line0, .excl 143)], reserved := [(143, line0, true)] };
        held.rangeWaits hbm0 16 false = true) ∧ 1048576 < bits (0x1FFFFF : W64) 20 0) ∧
    (let s : State := { collAt { state := .loaded } with regs := [(FAB_COLL_CH_START_FRET 3 63, 2)] };
      s.startFret 3 63 = 2 ∧ s.fret + 1 < s.startFret 3 63 ∧ s.startConflict 3 63 = false ∧ s.time.lock = .locked ∧ s.kiln.collFailed = []) ∧
    (collAt { state := .loaded }).startFret 3 63 = 0 ∧ (collAt { state := .loaded } {}).time.lock = .unset := by
  decide +kernel

theorem test_meets_run_end :
    let run (d : Bool) (x : CollChan := {}) := collAt { x with state := .running, entries := [entry1], progress := [(0, { done := d })] }
    let complete (s : State) := (s.coll 3 63).entries ≠ [] ∧ s.startFret 3 63 ≤ s.fret ∧ s.stepNow 3 63 = State.lastStep (s.coll 3 63) ∧
      State.stepDone (s.coll 3 63) (s.stepNow 3 63) = true
    complete (run true) ∧ ¬ complete (run false) ∧ ((run true).coll 3 63).ending = none ∧ ((run true).coll 3 63).bad = none ∧
    ((run true { bad := some (stRANGE, 0) }).coll 3 63).bad = some (stRANGE, 0) ∧ ((run true { ending := some 0 }).coll 3 63).ending = some 0 ∧
    ((run false).coll 3 63).entries[0]? = some entry1 ∧ entry1.receives = true ∧ ((run false).port 15).state = .active ∧
    (State.entryProgress ((run false).coll 3 63) 0).got = [] ∧ (on.port 15).state ≠ .active ∧
    ((run false).colls.filter fun y => (run false).strumId y.1.1 y.1.2 == bits (0 : W64) 15 0).length = 1 := by
  decide +kernel

/-- SchedFlitsMeetTheirEntries: a flit that no entry names; one of the next slot and one again; the buffer full. -/
theorem test_meets_sched :
    let f : SchedFlit := { src := 9, strumId := 0, fretLo := 0, slot := 0, index := 0, len := 8, data := [] }
    let s := collAt { state := .running, entries := [entry1] }
    let full := collAt { state := .running, entries := [entry1, entry1], progress := [(1, { waiting := List.replicate 512 f })] }
    s.matchFlit 15 { f with src := 8 } = none ∧ s.matchFlit 15 f = some (3, 63, 0, entry1) ∧ entry1.flits = 1 ∧ f.index < entry1.flits ∧
    (State.entryProgress (s.coll 3 63) 0).got = [] ∧ s.bufferedOn 15 = 0 ∧ full.bufferedOn 15 = 512 ∧
    State.mayRun (s.coll 3 63) entry1 = true ∧ s.startFret 3 63 + entry1.step ≤ s.fret := by
  decide +kernel

/-! ### Host ports -/

/-- Host port 3 as given; the endpoint with 8 VFs, its BARs open. -/
def hostAt (x : HostPort) : State := { on with hostPorts := [(3, x)] }
def openFn : HostFn := { memEnable := true, bar2Log2 := 42 }
def openPort : HostPort := { endpoint := true, totalVfs := 8, ep := .enabled, fns := [(0, openFn), (8, openFn)] }

/-- HostPortsFollowTheirStates: each role, each state of the endpoint, each state of a link; an ownership change refused and not. -/
theorem test_meets_host_ports :
    (∀ e ∈ [true, false], ∀ st ∈ [EpState.down, .up, .enabled, .resetting], let s := hostAt { endpoint := e, ep := st, bifurc := 2, lossCause := 4 }
      (s.hostPort 3).endpoint = e ∧ (s.hostPort 3).ep = st ∧ 3 < 2 ^ (s.hostPort 3).bifurc ∧ s.lossSettled 3 = true ∧
      (s.hostPort 3).lossCause = 4) ∧
    (∀ l ∈ [0, 2], let s := hostAt { subs := [(3, { link := l })] };
      ((s.hostPort 3).subs.get {} 3).link = l ∧ ¬ 3 < 2 ^ (s.hostPort 3).bifurc) ∧
    (let s := hostAt openPort; 8 ≤ (s.hostPort 3).totalVfs ∧ s.barOpen 3 8 = true ∧ s.barOpen 3 7 = false) ∧
    (hostAt openPort).ownedByOther 3 8 11 63 = false ∧ (hostAt openPort).resourceIdle 3 11 63 = true ∧
    ({ hostAt openPort with regs := [(State.ownReg 0 1 11, 2 ^ 63)] } : State).ownedByOther 3 8 11 63 = true ∧
    ({ hostAt openPort with blocks := [(511, { state := .running })] } : State).resourceIdle 3 11 63 = false ∧
    (let l : HostLink := { speed := 6, width := 4, cxl := true, capacity := 0 };
      1 ≤ l.speed ∧ l.speed ≤ 6 ∧ 1 ≤ l.width ∧ l.width * 2 ^ 2 ≤ 16 ∧ 5 ≤ l.speed ∧ ¬ 8 * 2 ^ 2 ≤ 16) ∧ (hostAt {}).hostIn = [] ∧
    ({ hostAt { endpoint := true, ep := .resetting, totalVfs := 8 } with
        blocks := [(511, { state := .reset, engines := [(0, { started := [{ cmd := cmd 0x20 0 [] }] })] })], regs := [(State.ownReg 3 8 11, 2 ^ 63)] } : State).lossSettled 3 = false ∧
    (hartAgent 0 0).own = true ∧ (hartAgent 0 0).kind = .core ∧ ag.kind ≠ .external ∧ ag.kind ≠ .core ∧ ag.wf = true ∧
    ({ kind := .external, module := 1 } : Agent).kind = .external := by
  decide +kernel

/-- HostsReachTheirFunctions: a peg granted and not, the first and the last; each page of BAR0, its ends; channels owned and not; BAR2 bytes that
reply, are refused, lie outside, and wait for a deferred line. -/
theorem test_meets_host_accesses :
    let s : State := { hostAt openPort with regs := [(hostFn 3 8 0x10, fld 1 32 ||| fld 65535 16), (State.ownReg 3 8 0, 2 ^ 63), (State.ownReg 3 8 1, 2 ^ 63)] }
    let far := { s with lostRegions := [3] }
    s.hostIn = [] ∧ s.powered = true ∧ s.barOpen 3 8 = true ∧ s.barOpen 3 7 = false ∧
    s.pegGranted 3 8 0 = true ∧ s.pegGranted 3 8 65535 = true ∧ s.pegGranted 3 0 0 = false ∧ far.pegGranted 3 8 65535 = true ∧
    s.regionLive (pegHome 65535) = true ∧ far.regionLive (pegHome 65535) = false ∧ (0x400000 + 64 * 65535 - 0x400000) / 64 = 65535 ∧
    ((0x400000 + 0x30) % 64 = 0x30) ∧ s.ownerOf 3 1 62 = none ∧ s.ownerOf 3 0 63 = some 8 ∧ s.ownerOf 3 1 63 = some 8 ∧ s.ownerOf 3 0 62 = none ∧ (0x13F030 - 0x100000) / 0x1000 = 63 ∧ 0x13F030 % 0x1000 = 0x030 := by
  decide +kernel

/-- A line that a load-reserved holds for its 256 cycles. -/
def deferredLine : State := { hostAt openPort with
  caches := [((143, line0), ⟨.modified, {}⟩)], dir := [(line0, .excl 143)], reserved := [(143, line0, true)] }

def replied : Served → Bool | .reply .. => true | _ => false
def waitsLine : Served → Bool | .wait => true | _ => false

theorem test_meets_bar2 :
    let who : Agent := { kind := .external, index := 0, region := 3, module := 0 }
    let s := hostAt openPort
    let off := hbm0
    s.bar2Addr 3 0 off = hbm0 ∧ off + 4096 ≤ 2 ^ (s.hostFunction 3 0).bar2Log2 ∧ ¬ 2 ^ 42 + 1 ≤ 2 ^ (s.hostFunction 3 0).bar2Log2 ∧
    s.bar2Refused 0 hbm0 8 = false ∧ s.bar2Refused 0 0x300000000000 8 = true ∧ s.bar2Refused 8 hbm0 8 = true ∧
    replied (s.serveRead who hbm0 8) = true ∧ replied (s.serveWrite who hbm0 [1] none) = true ∧
    replied (s.serveAtomic who hbm0 8 .fetchAdd 1) = true ∧ waitsLine (deferredLine.serveRead who hbm0 8) = true ∧
    waitsLine (deferredLine.serveWrite who hbm0 [1] none) = true ∧ waitsLine (deferredLine.serveAtomic who hbm0 8 .swap 1) = true ∧
    deferredLine.barOpen 3 0 = true ∧ deferredLine.bar2Refused 0 hbm0 8 = false := by
  decide +kernel

/-- DevicesReachTheModule: a link in L0 with reachable addresses; a request to each place; storage outside its bounce range; an answer from outside
for each origin. -/
theorem test_meets_devices :
    let s (x : State → State) := x (hostAt { subs := [(3, { link := 2, reachable := true })] })
    let id := s fun y => y
    let outside := s fun y => { y with regs := [(HOST_RP_BOUNCE_LO 3 3, 1)] }
    ((id.hostPort 3).subs.get {} 3).link = 2 ∧ id.hostIn = [] ∧ (hostAt {}).hostIn = [] ∧ ((hostAt {}).hostPort 3).subs = [] ∧
    outside.mgmt.image.attached = false ∧ (0 : Nat) < (outside.reg (HOST_RP_BOUNCE_LO 3 3)).toNat ∧
    id.translateHeld 0 hbm0 = false ∧
    (let walks : State := { id with iommuRoots := [(1, hbm0 / 4096)], mgmt := id.mgmt,
                                    hbm := [((id.devOf hbm0).getD 0, { state := .retraining })] };
      walks.translateHeld 1 hbm0 = true) ∧
    (∀ w ∈ [true, false], (id.translate 0 hbm0 w).map (·.1) = some hbm0) ∧
    ({ id with iommuRoots := [(1, 0)] } : State).translate 1 hbm0 true = none ∧
    (match id.reach hbm0 with | .own (.hbm ..) _ _ => true | _ => false) = true ∧
    (match id.reach (0xE10000000000 + 64 * 65535) with | .own (.peg 65535 0) _ _ => true | _ => false) = true ∧
    (match id.reach 0x300000000000 with | .own .reserved _ _ => true | _ => false) = true ∧
    (match id.reach (storeBase 511) with | .own (.store 511 0) _ _ => true | _ => false) = true ∧
    (match id.reach 0xF00000000000 with | .own (.mmio 0) _ _ => true | _ => false) = true ∧
    (match (hostAt openPort).reach 0x2C0000000000 with | .own (.t5 3 0) _ _ => true | _ => false) = true ∧
    (match id.reach (2 ^ 55) with | .badAperture => true | _ => false) = true ∧
    (match ({ id with regs := [(FAB_APERTURE 0 0, fld 7 0 ||| fld 1 24)] } : State).reach (2 ^ 55) with | .remote 7 _ => true | _ => false) = true ∧
    (∀ d ∈ [OutDest.host 3, .t4 3, .module 7], ∀ o ∈ [Origin.hart 143, .gs 511 5, .dma 3 63 0 0, .fabric 9 1 0], ∀ op ∈ [1, 2],
      let q : OutReq := { tag := 4, origin := o, dest := d, op := op, addr := 0 }
      let u : State := { on with out := [q], coresOn := true, harts := [(143, { wait := .answer 4 })] }
      (u.out.find? fun r => r.tag == 4) = some q ∧ q.posted = (op == 2) ∧ (u.hart 143).wait = .answer q.tag ∧ u.seqStopped 143 = false) ∧
    (on.out.find? fun r => r.tag == 4) = none := by
  decide +kernel

/-! ### The kiln -/

/-- MeterTagCommands: a TAG_OPEN that is accepted and one for each status that refuses it; an open and a closing tag of this region and of another. -/
theorem test_meets_tags :
    let a := fld 5 0 ||| fld 3 36
    let s (k : Kiln) (v : W64 := a) : State := { on with kiln := k, regs := [(KILN_TAG_ARG0 3, v)] }
    let x : MeterTag := { home := 3 }
    (s {}).powered = true ∧ (Instr.tagOpen ag 3).wf = true ∧ (Instr.tagClose ag 3).wf = true ∧ (Instr.tagQuery ag 3).wf = true ∧
    bits ((s {}).reg (KILN_TAG_ARG0 3)) 31 0 = 5 ∧ ((s {}).kiln.tags.find 5).isSome = false ∧ (s {}).mgmt.state ≠ .quiesce ∧
    ((s {}).reg (KILN_TAG_ARG0 3)).getLsbD 35 = false ∧ bits ((s {}).reg (KILN_TAG_ARG0 3)) 63 40 = 0 ∧
    2 * ((s {}).kiln.tags.length + 1) + 65536 ≤ (s {}).ledgerFree ∧ (s {}).kiln.failed = [] ∧
    bits ((s {} 0).reg (KILN_TAG_ARG0 3)) 31 0 = 0 ∧ ((s { tags := [(5, x)] }).kiln.tags.find 5) = some x ∧ x.closing = false ∧ x.home = 3 ∧
    ((s { tags := [(5, { x with closing := true })] }).kiln.tags.find 5) = some { x with closing := true } ∧ 3 ∈ (s { failed := [3] }).kiln.failed := by
  decide +kernel

/-- LedgerRecords: an interval that is due and one that is not; a record to sign; an entry to append; entries to compact, the export ring on and off. -/
theorem test_meets_ledger :
    let e : Nat × List Byte := (7, [5])
    let s (k : Kiln) : State := { on with fret := 0x1000000, kiln := k }
    (let u := s { interval := { frets := 0xFFFFFF } }; bits (u.reg (KILN_CFG 0)) 23 0 ≤ u.kiln.interval.frets ∧ 4096 < u.ledgerFree) ∧
    ¬ bits ({ (s {}) with regs := [(KILN_CFG 0, 1)] }.reg (KILN_CFG 0)) 23 0 ≤ (s {}).kiln.interval.frets ∧
    (s { waiting := [e] }).kiln.waiting = [e] ∧ 0 < (s { waiting := [e] }).kiln.tokens ∧
    (s { ready := [(7, [5])], nextAppend := 7, staged := 50 }).kiln.ready.find 7 = some [5] ∧ ([5] : List Byte).getD 0 0 ≠ 1 ∧
    ((s {}).reg (KILN_RING_ENABLE 0)).getLsbD 0 = false ∧ (Instr.kilnRingHeadWrite ag 3 0).wf = true ∧
    ((s {}).reg (KILN_RING_TAIL 0)).toNat < (1 : W64).toNat ∧ (0 : W64).toNat ≤ ((s {}).reg (KILN_RING_TAIL 0)).toNat ∧
    (s { ledger := [e] }).kiln.ledger = e :: [] ∧ (let u := { (s { ledger := [e] }) with regs := [(KILN_ACK_SEQ 0, 8)] };
      7 ≤ 7 ∧ 7 < (u.reg (KILN_ACK_SEQ 0)).toNat) ∧ on.fret % 64 = 0 ∧ ({ on with fret := 63 } : State).fret % 64 ≠ 0 ∧ on.lostRegions = [] := by
  decide +kernel

/-! ### Power -/

/-- LossOfInputPower and PowerLimitsAndSteps: the rails on and off; the lowest and the highest of each operand. -/
theorem test_meets_power :
    (∀ st ∈ [ModState.boot, .configured, .run, .degraded, .quiesce], ({ on with mgmt := { state := st } } : State).railsOn = true) ∧
    (∀ st ∈ [ModState.off, .aux, .halt], ({ on with mgmt := { state := st } } : State).railsOn = false) ∧
    (∀ v ∈ [0, 2500, 65535], (Instr.inputLow v).wf = decide (v = 2500)) ∧
    (Instr.budgetMessage 3 65535 8 3).wf = true ∧ on.regionLive 3 = true ∧ ({ on with lostRegions := [3] } : State).regionLive 3 = false ∧
    (Instr.railOvercurrent 3 3).wf = true ∧ (Instr.railOvercurrent 3 8).wf = true ∧ (Instr.droopDetect 655 1).wf = true ∧
    (Instr.droopRecover 655).wf = true ∧ (Instr.thermalSample 3 3 105).wf = true ∧ (Instr.vfStepRise 3 3).wf = true ∧
    (let s : State := { on with domains := [((3, 3), { rising := some 31 })] }; (s.domain 3 3).rising = some 31) ∧ (on.domain 3 3).rising = none := by
  decide +kernel

/-! ### Errors and degraded operation -/

/-- FaultyUnitsAreCheckedAndMuted: a rail on and off; a cross-check that waits for its result and for a third block, in time and late; a tuning check;
blocks in each state; a pack due, running and not. -/
theorem test_meets_faulty :
    let s : State := { on with rails := [((3, 8), { state := .on })] }
    let pair : State := { on with blocks := [(510, { state := .halted, xchk := some (511, 9) }), (511, { state := .halted, xchk := some (510, 9) })] }
    let t : Third := ⟨510, 511, 9, 1, 2, 0⟩
    let third (f : Nat) : State := { on with fret := f, thirds := [t], blocks := [(509, { state := .halted })] }
    (s.rail 3 8).state = .on ∧ (on.rail 3 8).state ≠ .on ∧ on.dieLive 3 2 = true ∧
    (pair.block 510).xchk = some (511, 9) ∧ (pair.thirds.find? fun y => y.a == 510 && y.b == 511) = none ∧
    ((third 0).thirds.find? fun y => y.a == 510 && y.b == 511) = some t ∧ (third 0).eligible 509 = true ∧ (third 0).eligible 508 = false ∧
    (third 1023).fret < t.fret + 1024 ∧ t.fret + 1024 ≤ (third 1024).fret ∧
    ((atBlock { tuning := [default] }).block 511).tuning = default :: [] ∧ (on.block 511).tuning = [] ∧
    (∀ st ∈ [BlockState.reset, .halted, .running, .muted], ((atBlock { state := st, muteCause := 3 }).block 511).state = st) ∧
    ((atBlock { state := .muted, muteCause := 1 }).block 511).muteCause = 1 ∧ 511 ∉ (atBlock {}).muteList ∧
    (∀ k ∈ [(1, 3), (2, 3)], on.packPossible k.1 k.2 = true ∧ on.packs.last.find k = none ∧ k ∉ on.packs.running) ∧
    ({ on with harts := [(143, { offline := true })] } : State).packPossible 0 143 = true ∧
    (∀ k ∈ [(0, 143), (1, 3), (2, 3)], k ∈ ({ on with packs := { running := [k] } } : State).packs.running) := by
  decide +kernel

/-- LinksDiesAndRegionsAreLostAndRejoin: a link that works and one that failed, maps that agree and not, whole and half; silent dies and regions by
each reason; a die to rejoin; a path that changed. -/
theorem test_meets_links :
    let s : State := { on with time := {}, slot := 0 }
    let quiet : State := { on with links := [(11, { failed := true }), (15, { failed := true }), (14, { failed := true })], rails := [((3, 2), { state := .fault }), ((3, 3), { state := .fault })] }
    let map (l : List W64) (agree : Bool := true) : LaneMap := { ours := l, theirs := l, agree := agree }
    let gone : State := { on with dies := [((3, 2), { state := .lost })], lostRegions := [1] }
    let back : State := { on with dies := [((3, 2), { state := .rejoining })], links := [(11, { lanes := [BitVec.allOnes 64] })] }
    (s.link 15).failed = false ∧ (s.link 15).attempts < 2 ∧ ({ s with links := [(15, { attempts := 2 })] } : State).link 15 = { attempts := 2 } ∧
    (map [] false).agree = false ∧ (map [1]).ours.length = (map [1]).theirs.length ∧
    (quiet.link 11).failed = true ∧ (quiet.rail 3 2).state = .fault ∧ quiet.dieLive 3 2 = true ∧ quiet.regionLive 3 = true ∧
    (quiet.link (12 + 3)).failed = true ∧ (quiet.link (12 + (3 + 3) % 4)).failed = true ∧ (quiet.rail 3 3).state = .fault ∧
    gone.regionLive 3 = true ∧ (gone.die 3 2).state = .lost ∧ gone.scrubbing = [] ∧ (back.die 3 2).state = .rejoining ∧
    (back.link 11).failed = false ∧ (back.link 11).lanes ≠ [] ∧ (back.rail 3 2).state ≠ .fault ∧ (on.die 3 2).state ≠ .rejoining ∧
    (quiet.link (12 + 3)).failed = true ∧ 1 ∈ gone.lostRegions ∧ gone.pathHit none (some 1) 0 2 = true ∧ gone.pathHit none (some 1) 0 3 = false ∧
    (let x : Txn := { line := 5, req := .eWrite (enginePort 3 0) 0 };
      x.req.engine = true ∧ requester gone.moduleId x.req.who = engineAgent gone.moduleId 3 0 ∧ (engineAgent 0 3 0).hart = none) ∧
    on.txns = [] ∧ ({ gone with harts := [(143, { wait := .line 5 true })] } : State).hart 143 = { wait := .line 5 true } := by
  decide +kernel

/-! ### Management -/

/-- A request at the head of Uluell's queue: a slot, a command, its payload. -/
def asked (st : ModState) (sl : Slot) (m : Msg) : State := { mgmt := { state := st, requests := [{ slot := sl, msg := m }] } }
def msg (op : Nat) (payload : List Byte := []) (offset : Nat := 0) : Msg := { opcode := op, payload := payload, length := payload.length, offset := offset }

/-- MailboxSlotsAndRequests and I3cBusAndDebugChain: each slot in each state; a request with and without an answer; the bus with an address and
without; debug unlocked. -/
theorem test_meets_mailbox :
    (∀ sl ∈ [Slot.i3c, .host, .core], ∀ st ∈ [SlotState.idle, .busy, .done], let b : Mailbox := { state := st }
      let s : State := { mgmt := { state := .aux, image := { attached := true }, i3c := b, host := b, core := b, dynAddr := some 8 } }
      s.mgmt.state ≠ .off ∧ (sl = .host → s.mgmt.image.attached = true) ∧ (s.mailbox sl).state = st ∧ s.mgmt.dynAddr ≠ none) ∧
    State.reset.mgmt.state = .off ∧ on.mgmt.state ≠ .off ∧ on.mgmt.dynAddr = none ∧ on.mgmt.requests = [] ∧ cmdListed 5 = false ∧ cmdListed 1 = true ∧
    ({ on with mgmt := { state := .run, unlocked := true } } : State).mgmt.unlocked = true ∧ ag.wf = true ∧
    (List.replicate 15 (0 : Byte)).length < 24 ∧ (5 : Nat) % 2 = 1 := by
  decide +kernel

/-- The length of each command's request. -/
def lengthOf (op : Nat) : Nat := if op ∈ [0x10, 0x12] then 16 else if op ∈ [0x11, 0x20, 0x21, 0x22, 0x29, 0x30, 0x31, 0x48] then 8 else if op = 0x18 then 1 else 0

/-- MailboxCommandsAreJudged: each command legal in some state and illegal in another (where one is), its length right and wrong, from a slot that
may not send it. -/
theorem test_meets_judged :
    let states := [ModState.aux, .boot, .configured, .run, .quiesce]
    let at_ (st : ModState) : State := { mgmt := { state := st, step6 := true } }
    (∀ op ∈ [0x01, 0x02, 0x03, 0x04, 0x08, 0x09, 0x0A, 0x0B, 0x0C, 0x0D, 0x10, 0x11, 0x12, 0x18, 0x19, 0x20, 0x21, 0x22, 0x28, 0x29, 0x30, 0x31, 0x38, 0x40, 0x48],
      let m := msg op (List.replicate (lengthOf op) 0)
      (states.any fun st => (at_ st).cmdLegal op) = true ∧ cmdLength op m.length m = true ∧ cmdLength op 497 m = false ∧
      (op ∈ [0x01, 0x02, 0x03, 0x04, 0x11, 0x28, 0x29, 0x40] ∨ (states.any fun st => !(at_ st).cmdLegal op) = true)) ∧
    (∀ op ∈ [0x10, 0x18, 0x20, 0x29, 0x48], cmdFrom op .host = false) ∧ cmdFrom 0x0A .core = false ∧
    (asked .run .i3c (msg 1)).mgmt.requests = [{ slot := .i3c, msg := msg 1 }] ∧ State.reset.mgmt.requests = [] ∧
    State.settingNamed 8 0 = true ∧ State.settingNamed 9 0 = false ∧ State.settingCount 8 ≠ 0 ∧ State.settingCount 9 = 0 := by
  decide +kernel

/-- MailboxQueriesAnswer, SettingsImagesAndCoresAreChanged and CompactionKeepsEverySetting: for each command a request that the statement speaks of; a
value that each setting accepts at its last index; slots that are valid and not; a core that may come online. -/
theorem test_meets_commands :
    (∀ op ∈ [1, 2, 3, 4, 0x28, 0x40], (msg op).rsvBad = false ∧ (msg op).payload.length = (msg op).length ∧ (msg op).length = 0) ∧
    (∀ p ∈ [(1, 0, 1500), (2, 15, fld 8 10 ||| fld 8 5), (3, 0, 85), (4, 119, fld 2 12), (5, 3, 64), (6, 0, 4096), (7, 0, 16), (8, 0, 3)],
      let m := msg 0x10 (leBytes 2 p.1 ++ leBytes 2 p.2.1 ++ [1, 0, 0, 0] ++ leBytes 8 p.2.2.toNat)
      m.length = 16 ∧ m.num 0 2 = p.1 ∧ m.num 2 2 = p.2.1 ∧ m.num 4 1 = 1 ∧ m.zero 5 8 = true ∧ m.num 8 8 = p.2.2.toNat ∧ State.settingOk p.1 p.2.1 p.2.2 = true ∧ State.settingNamed p.1 p.2.1 = true) ∧
    (let m := msg 0x21 (leBytes 8 143); m.length = 8 ∧ m.zero 1 8 = true ∧ m.num 0 1 = 143) ∧
    (let m := msg 0x30 [3, 7, 0, 0, 0, 0, 0, 0] 65535; m.zero 2 8 = true ∧ m.num 0 1 = 3 ∧ m.num 1 1 = 7 ∧ m.offset < 65536) ∧
    (let s : State := { on with harts := [(143, { offline := true })] };
      (s.hart 143).packFail = false ∧ (s.hart 143).offline = true ∧ s.dieLive (143 / 36) 2 = true) ∧
    (on.hart 143).offline = false ∧ on.slotValid 1 default = false ∧
    (let s : State := { mgmt := { state := .aux, nonce := some [] } }; s.mgmt.nonce ≠ none ∧ s.mgmt.state = .aux) ∧
    on.mgmt.journal.length ≤ 262079 ∧ on.evidence = [] ∧ on.mgmt.cert = [] ∧ on.muteList = [] := by
  decide +kernel

/-- ModuleStateAndBoot: a boot that has begun, with a fault and with none, the input lost and not; CONFIGURED with boot step 7 begun. -/
theorem test_meets_boot :
    (∀ f ∈ [0, 5], ∀ w ∈ [true, false], let s : State := { mgmt := { state := .boot, bootFault := f, warm := w }, power := { inputLost := false, steady := !w } }
      s.mgmt.state = .boot ∧ s.mgmt.bootFault = f ∧ s.power.inputLost = false ∧ (s.mgmt.warm = true ∨ s.power.steady = true)) ∧
    on.recordsDone = true ∧ ({ on with kiln := { tags := [(5, { home := 3 })] } } : State).recordsDone = false ∧
    State.reset.power.inputLost = true ∧ State.reset.mgmt.state = .off ∧
    (let s : State := { epochSet := true, mgmt := { state := .configured, step6 := true, step7 := true } };
      s.mgmt.step7 = true ∧ s.mgmt.step6 = true ∧ s.epochSet = true ∧ s.powered = true) ∧
    (∀ op ∈ [0x08, 0x09, 0x0A, 0x0B, 0x0C, 0x0D], (asked .aux .i3c (msg op)).mgmt.requests = [{ slot := .i3c, msg := msg op }] ∧
      (msg op).payload = [] ∧ (msg op).length = 0) := by
  decide +kernel

/-! ### Results that the spec works out -/

/-- Chapter 0's example and Table 1.8: block 300 is at index 44 of region 2, its register page and its block store where the text says. -/
theorem test_block300 :
    placeRaw (0xE00000000000 + 300 * 0x200000) = .store 300 0 ∧ placeRaw 0xF002012C0000 = .mmio 0x2012C0000 ∧
    blockAgent 0 300 = { kind := .block, index := 44, region := 2, module := 0 } := by decide +kernel

/-- The example under R77: 1 + 2^-12 rounds up to BF16 1.0078125 from r = 0xF800_0000 on. -/
theorem test_stochastic_rounding :
    roundFmt 1 (some 0xF8000000) false (.fin false 4097 (-12)) = 0x3F81 ∧ roundFmt 1 (some 0xF7FFFFFF) false (.fin false 4097 (-12)) = 0x3F80 := by
  decide +kernel

/-- Table 2.6: E4M3's largest finite value is 448, written 0x7E; without saturation an overflow delivers NaN. -/
theorem test_e4m3_overflow :
    roundFmt 4 none true (.fin false 512 0) = 0x7E ∧ roundFmt 4 none false (.fin false 512 0) = 0x7F ∧ roundFmt 4 none false (.fin false 448 0) = 0x7E := by
  decide +kernel

/-- The MX chain of three segments after R68: it drains -1,024 with INEXACT. -/
theorem test_scaled_chain :
    let a := (((Acc.empty .scaledSum).addMx { n := 3, x := 10 }).addMx { n := 3 * 2 ^ 30, e := -48, x := -60 }).addMx { n := -1, x := 12 }
    a.acc = -2 ^ 80 ∧ a.anchor = some 10 ∧ a.inexact = true ∧ roundFmt 0 none false (a.value .scaledSum) = 0xC4800000 := by decide +kernel

/-- The example after R89: E4M3 products 200,704, 2^-18 and -200,704 leave exactly 2^-18, in one pass and in two RAW records. -/
theorem test_exact_sum :
    let seg (ws xs : List Nat) := segsOf 0 4 4 ws xs [(0, 0)]
    let sum (l : List Seg) := l.foldl Acc.addSeg (Acc.empty .sum)
    let both := sum (seg [0x7E, 1, 0xFE] [0x7E, 1, 0x7E])
    let w := rawCombine (Acc.toRaw .sum (sum (seg [0x7E, 1] [0x7E, 1]))) (Acc.toRaw .sum (sum (seg [0xFE] [0x7E])))
    both.acc = 2 ^ 62 ∧ roundFmt 0 none false (both.value .sum) = 0x36800000 ∧ w.1 = stOK ∧ (Raw.decode w.2).acc.acc = 2 ^ 62 := by
  decide +kernel

/-- Chapter 11's ring: 2^24 + 1 - 2^24 + 0.25 combine to ACC = 1.25 × 2^80. -/
theorem test_raw_ring :
    let r (n : Int) : Nat := Acc.toRaw .sum { Acc.empty .sum with acc := n }
    let c (a b : Nat) : Nat := (rawCombine a b).2
    (Raw.decode (c (c (c (r (2 ^ 104)) (r (2 ^ 80))) (r (-2 ^ 104))) (r (2 ^ 78)))).acc.acc = 0x140000000000000000000 := by decide +kernel

/-- Chapter 3's worked example: an INT8 tile of 2 × 2, its outputs, its row sums as residues, and a fault of 64 in output (0, 0). -/
theorem test_bridge :
    let t := (({ mode := 0, format := 8, kRows := 2, nCols := 2, cells := cellRows 8 2 [[2, 0xFF], [3, 4]], scales := [[0, 0]] } : Tile)).bridged
    let r0 := passRow t 8 false 0 [1, 2] [0]
    let r1 := passRow t 8 false 1 [0xFD, 1] [0]
    let bad := { r0 with segs := [[{ n := 72 }], [{ n := 7 }]] }
    t.bridge.map (·.value) = [1, 7] ∧ r0.segs.map (·.map fun g => g.n) = [[8 * 2 ^ 48], [7 * 2 ^ 48]] ∧
    rowExact t 8 r0 = true ∧ rowExact t 8 r1 = true ∧ colExact t 8 [r0, r1] 0 = true ∧
    rowExact t 8 bad = false ∧ colExact t 8 [bad, r1] 0 = false ∧ colExact t 8 [bad, r1] 1 = true := by decide +kernel

/-- Chapter 5's worked example: FETCH_SEQ 101 of a ring of 64, doorbell (38, 1): target 102. -/
theorem test_doorbell :
    let s : State := { on with dma := [((0, 5), { state := .idle, fetchSeq := 101 })], regs := [(DMA_CH_RING_CFG 0 5, 6)] }
    s.doorbellSeq 0 5 (fld 38 0 ||| fld 1 16) = some 102 := by decide +kernel

/-- R220: adding 2^64 - 1 decrements the peg. -/
theorem test_peg_decrement :
    (match exec (.pegAdd ag 7 (BitVec.allOnes 64)) { on with pegs := [(7, { value := 5 })] } with
      | .next t => decide (t = { on with pegs := [(7, { value := 4 })] })
      | _ => false) = true := by decide +kernel

/-- Chapter 6's handshake: core 3 of module 0x0012 release-adds at PACKAGE to peg 16,500 of module 0x0047; LAST_RELEASER, and the acquire of
block 140 at FABRIC, which finds it narrow. -/
theorem test_narrow_release :
    let s : State := { on with moduleId := 0x47 }
    let core : Agent := { hartAgent 0x12 3 with own := false }
    let p : Peg := { value := 1, lastRel := true, lastScope := 2, releaser := 0x24003 }
    let t : State := { s with pegs := [(16500, p)] }
    pegHome 16500 = 1 ∧ (s.pegRelAdd core 16500 (scopeCode .package) 1).peg 16500 = p ∧
    bits (({ t with pegs := [(16500, { p with narrow := true, narrowCount := 1 })] } : State).pegStatus 16500) 60 32 = 0x24003 ∧
    t.acquireNarrow (blockAgent 0x47 140) 16500 (scopeCode .fabric) = true ∧ t.acquireNarrow (blockAgent 0x47 140) 16500 (scopeCode .package) = true := by decide +kernel

/-- The same chapter's arm: block 140's entry 0x1180 of region 1's block table, generation 3: handle 0x0035_1180, EVENT FIRED. -/
theorem test_watch_handle :
    handleOf ⟨1, .block, 0x1180⟩ 3 = 0x351180 ∧ eventWord 0x351180 0 = 0x0035118000000001 ∧
    on.pickEntry (pegHome 16500) 0 140 = some ⟨1, .block, 0x1180⟩ := by decide +kernel

/-- Chapter 8's example: the DMA engine of region 2 is requester 672. -/
theorem test_requester : enginePort 2 0 = 672 ∧ requester 0 672 = engineAgent 0 2 0 := by decide +kernel

/-- Chapter 9's example: granule 2 of region 1's LPDDR5X has PAT index 98,306, and element 0x3 of a block with scale 0x7C is BF16 0x3E40. -/
theorem test_bisque :
    State.patIndex (0x16000000000 + 0x400000) = some (1, 98306) ∧
    ({ on with mem := [(hbm0, 3), (hbm0 + 2 ^ 19, 0x7C)] } : State).copyElem 1 0x0E hbm0 0 = 0x3E40 := by decide +kernel

/-- Chapter 13's fret: the shares of tags A and B with their loss. -/
theorem test_reconcile :
    let u (c e a b : Nat) : SensorReading := { region := 0, cls := c, energy := e, total := 100, tags := [(1, a), (2, b)] }
    let units := [u 0 40000 60 30, u 3 20000 50 25, u 2 10000 40 40]
    tagShares 69300 4200 70000 units 1 = [23760, 0, 3960, 9900, 0, 0, 0, 2280] ∧
    listSum (tagShares 69300 4200 70000 units 2) = 22050 := by decide +kernel

/-- Chapter 14's exchange: A = 4,325 W, and the grants of the four regions. -/
theorem test_grants :
    let s : State := { on with
      regs := [(KILN_FRET_INPUT 0, 73600), (KILN_FRET_LOSS 0, 4400), (PWR_MODULE_LIMIT 0, 4600)]
      power := { input := 3800, lastVolts := 3800, budget := [(0, 0, 620, 1250), (1, 0, 600, 1000), (2, 0, 640, 1300), (3, 0, 610, 1150)] } }
    s.available = (4325, false) ∧ (s.grants {}).map (fun x => x.2.2.2) = [1144, 932, 1189, 1059] := by decide +kernel

/-- Chapter 16's example: OVERRIDE_SET of PWR_MODULE_LIMIT to 5,000 W, and the provisioned ID of slot 3. -/
theorem test_override :
    let m : Msg := msg 0x10 ([1, 0, 0, 0, 1, 0, 0, 0] ++ leBytes 8 0x1388)
    let s := asked .run .i3c m
    (match exec (.overrideSet .i3c m) s with
      | .next t => decide (t.reg (PWR_MODULE_LIMIT 0) = 5000 ∧ t.settingValue 1 0 = 5000 ∧
          t.mgmt.requests = [{ slot := .i3c, msg := m, answer := some { opcode := 0, echo := 0x10, tag := 0, length := 0 } }])
      | _ => false) = true := by decide +kernel

/-- Table 4.14: LY_PAD with ROWS = 0 writes no row, whatever its pads. -/
theorem test_pad_no_rows :
    (cmd 0x62 0 [(56, 0x0101010101010101)]).lyOut.1 = 0 ∧ (cmd 0x62 0 [(56, 0x0101010101010101)]).pads.2.2.1 ≠ 0 := by decide +kernel

end Sys2Proof.Tests
end

/-!
PROOFS. The register map's writes (R7 to R9, R33, R35): O7.
-/
namespace Sys2Proof.Machine

/-! ### Register writes and what they report -/

/-- A write of a live region's register, where nothing is muted or running afterwards, ends in what the unit's register map
makes of it; only fabric time may move on with it (R375, R377). -/
theorem exec_registerWrite_quiet (s x : State) (ag : Agent) (r o : Nat) (v : W64) (hp : s.powered = true) (hag : ag.wf = true)
    (hr : r < 4) (ho : o < 0x100000000) (h8 : o % 8 = 0)
    (hx : s.writeReg ag (r * 0x100000000 + o) v = x) (hb : ∀ y ∈ x.blocks, y.2.state ≠ .muted)
    (hc : ∀ y ∈ x.colls, y.2.state ≠ .running) (he : x.evidence = s.evidence) (hf : x.fab = s.fab) :
    ∃ t, exec (.registerWrite ag (0xF00000000000 + r * 0x100000000 + o) v) s = .next t ∧ t = { x with time := t.time } := by
  have hg8 : (r * 0x100000000 + o) % 8 = 0 := by omega
  refine ⟨s.noted x, ?_, noted_same s x hb hc he hf⟩
  rw [exec_registerWrite ag _ v s hag hp, writeAddr_mmio s ag _ _ v (placeRaw_mmio r o hr ho) hg8, State.regWrite, hx]

theorem regOf_parts (r o : Nat) (ho : o < 0x100000000) :
    (r * 0x100000000 + o) / 0x100000000 = r ∧ (r * 0x100000000 + o) % 0x100000000 = o := by omega

theorem writeReg_kilnTagArg1 (s : State) (ag : Agent) (r : Nat) (v : W64) (hr : s.regionLive r = true) :
    s.writeReg ag (r * 0x100000000 + 0x200010) v = s.setReg (KILN_TAG_ARG1 r) v := by
  obtain ⟨hdiv, hmod⟩ := regOf_parts r 0x200010 (by decide)
  rw [(writeReg_low s ag _ v r _ hdiv hmod hr).2 (by decide) (by decide)]
  rfl

/-- Offsets 0x3000 to 0x7FFFF of the region page are not listed: a write is ignored (R33). -/
theorem writeCtl_unlisted (s : State) (ag : Agent) (r o : Nat) (v : W64) (hlo : 0x3000 ≤ o) (hhi : o < 0x80000) :
    s.writeCtl ag r o v = s := by
  have hlisted : ∀ k, k < 0x3000 → o ≠ k := fun k hk e => by omega
  have hwords : ¬ (0x2100 ≤ o ∧ o < 0x2300) := by omega
  have htable : ¬ (0x80000 ≤ o ∧ o < 0xC0000) := by omega
  simp only [State.writeCtl, hlisted, hwords, htable, if_false, Nat.reduceLT]

theorem writeReg_unlisted (s : State) (ag : Agent) (r o : Nat) (v : W64) (hr : s.regionLive r = true)
    (hlo : 0x3000 ≤ o) (hhi : o < 0x80000) : s.writeReg ag (r * 0x100000000 + o) v = s := by
  obtain ⟨hdiv, hmod⟩ := regOf_parts r o (by omega)
  rw [(writeReg_low s ag _ v r o hdiv hmod hr).1 (by omega), writeCtl_unlisted s ag r o v hlo hhi]

/-! ### Accesses that are not naturally aligned 8-byte accesses (R8) -/

theorem misaligned_logs (s : State) (ag : Agent) (r o : Nat) (hr : s.regionLive r = true) (ho : o < 0x100000000) :
    s.misaligned ag (r * 0x100000000 + o) = s.log r stALIGN 1 ag.code o 0 := by
  obtain ⟨hdiv, hmod⟩ := regOf_parts r o ho
  simp only [State.misaligned, hdiv, hmod, hr, if_true]

theorem exec_misalignedRegAccess_logs (s : State) (ag : Agent) (r o size : Nat) (write : Bool) (hp : s.powered = true)
    (hw : (Instr.misalignedRegAccess ag (0xF00000000000 + r * 0x100000000 + o) size write).wf = true)
    (hr : s.regionLive r = true) (ho : o < 0x100000000) (hbad : size ≠ 8 ∨ o % 8 ≠ 0) :
    exec (.misalignedRegAccess ag (0xF00000000000 + r * 0x100000000 + o) size write) s =
      .next (if write then s.log r stALIGN 1 ag.code o 0 else (s.log r stALIGN 1 ag.code o 0).deliver ag 0) := by
  have hg8 : ¬ (size = 8 ∧ (r * 0x100000000 + o) % 8 = 0) := by omega
  rw [exec_misalignedRegAccess ag _ size write s hw hp,
    misalignedAccess_mmio s ag _ size _ write (placeRaw_mmio r o (live_lt hr) ho) hg8, misaligned_logs s ag r o hr ho]

theorem deliver_noHart (s : State) (ag : Agent) (v : W64) (h : ag.hart = none) : s.deliver ag v = s := by
  unfold State.deliver; rw [h]

theorem log_hart (s : State) (r st cause src addr : Nat) (d : W64) (h : Nat) : (s.log r st cause src addr d).hart h = s.hart h := by
  unfold State.log; rfl

/-! ### FAB_FRET_PERIOD (R35) -/

theorem FAB_FRET_PERIOD_inj (i j : Nat) (h : FAB_FRET_PERIOD i = FAB_FRET_PERIOD j) : i = j := by
  have e : (i * 0x100000000 + 0x100 : Nat) = j * 0x100000000 + 0x100 := h
  omega

theorem bits_low7 (v : W64) : bits v 6 0 = v.toNat % 128 := rfl

/-- Settles O7: the address selects the register, `writeReg` says what becomes of it, and the reports of a state without a muted
block or a collective run touch nothing but fabric time. -/
theorem registerWritesTakeEffectOrAreLogged : Obligations.RegisterWritesTakeEffectOrAreLogged := by
  unfold Obligations.RegisterWritesTakeEffectOrAreLogged
  refine ⟨?plain, ?unlisted, ?misaligned, ?period⟩
  case plain =>
    intro s ag r v hp hag hr hb hc
    exact exec_registerWrite_quiet s _ ag r 0x200010 v hp hag (live_lt hr) (by decide) rfl
      (writeReg_kilnTagArg1 s ag r v hr) hb hc rfl rfl
  case unlisted =>
    intro s ag r o v hp hag hr hlo hhi h8 hb hc
    exact exec_registerWrite_quiet s s ag r o v hp hag (live_lt hr) (by omega) h8
      (writeReg_unlisted s ag r o v hr hlo hhi) hb hc rfl rfl
  case misaligned =>
    intro s ag r o size write hp hw hr ho hbad
    dsimp only
    rw [exec_misalignedRegAccess_logs s ag r o size write hp hw hr ho hbad]
    refine ⟨?_, ?_⟩
    · rintro (rfl | hno)
      · rfl
      · rw [deliver_noHart _ ag 0 hno, ite_self]
    · rintro h rfl hh
      simp only [State.deliver, hh, State.updHart, log_hart]
      rfl
  case period =>
    intro s ag r v hp hw
    dsimp only
    rw [exec_fabFretPeriodWrite ag r v s hw hp, State.periodWrite, bits_low7]
    refine ⟨fun hconf hlo hhi => ?_, fun hconf => ?_, fun hconf hout => ?_⟩
    · have hin : ¬ (v.toNat % 128 < 4 ∨ 64 < v.toNat % 128) := by omega
      rw [if_neg (not_not.2 hconf), if_neg hin]
      exact ⟨_, rfl, setAll_four s FAB_FRET_PERIOD _ fun i j _ _ h => FAB_FRET_PERIOD_inj i j h⟩
    · rw [if_pos hconf]
    · rw [if_neg (not_not.2 hconf), if_pos hout]

end Sys2Proof.Machine

/-!
PROOFS. Fences, WFI, interrupts, write-outs and the loss of a hart's remote accesses (chapter 7): O23.
-/
namespace Sys2Proof.Machine

/-! ### A hart that waits for nothing and holds nothing back -/

theorem fetchArrived_notFetching (s : State) (h : Nat) (hw : ∀ n, (s.hart h).wait ≠ .fetch n) : s.fetchArrived h = s := by
  unfold State.fetchArrived
  split
  · next n he => exact absurd he (hw n)
  · rfl

theorem trapEnter_notTrapping (s : State) (h : Nat) (hw : ∀ k v, (s.hart h).wait ≠ .trap k v) : s.trapEnter h = s := by
  unfold State.trapEnter
  split
  · next k v he => exact absurd he (hw k v)
  · rfl

theorem hartReady_waits (s : State) (h : Nat) (hr : s.hartReady h = true) :
    (∀ k v, (s.hart h).wait ≠ .trap k v) ∧ ∀ n, (s.hart h).wait ≠ .fetch n := by
  unfold State.hartReady at hr
  constructor
  · intro k v he
    simp [he] at hr
  · intro n he
    simp [he] at hr

theorem onHart_ready (s : State) (h : Nat) (f : State → State) (hr : s.hartReady h = true) : s.onHart h f = f s := by
  obtain ⟨htrap, hfetch⟩ := hartReady_waits s h hr
  unfold State.onHart
  rw [fetchArrived_notFetching s h hfetch, trapEnter_notTrapping s h htrap]
  exact if_pos hr

/-- Hart `h` holds no store and no write-combining entry back, and nothing is outstanding. -/
structure HoldsNothing (s : State) (h : Nat) : Prop where
  stores : (s.hart h).stores = []
  combine : (s.hart h).combine = none
  wc : (s.hart h).wc = []
  out : s.out = []

theorem HoldsNothing.setHart_same {s : State} {h : Nat} (hn : HoldsNothing s h) : HoldsNothing (s.setHart h (s.hart h)) h where
  stores := (congrArg Hart.stores (State.hart_same s h h)).trans hn.stores
  combine := (congrArg Hart.combine (State.hart_same s h h)).trans hn.combine
  wc := (congrArg Hart.wc (State.hart_same s h h)).trans hn.wc
  out := hn.out

theorem HoldsNothing.wcDrained {s : State} {h : Nat} (hn : HoldsNothing s h) : s.wcDrained h = true := by
  simp [State.wcDrained, State.wcUnacked, hn.wc, hn.out]

theorem HoldsNothing.settled {s : State} {h : Nat} (hn : HoldsNothing s h) (acks : Bool) : s.settled h acks = true := by
  simp [State.settled, State.unacked, hn.stores, hn.combine, hn.out, hn.wcDrained]

theorem HoldsNothing.fenceReady {s : State} {h : Nat} (hn : HoldsNothing s h) (pred succ : FenceSet) (tso : Bool) :
    s.fenceReady h pred succ tso = true := by
  simp [State.fenceReady, State.unacked, hn.stores, hn.combine, hn.out, hn.wcDrained]

/-- What an instruction that only retires leaves of a state `s` in `t`: hart `h` is at its next instruction, in WFI as `w` says,
the instruction caches are `ic`, and nothing else has changed. -/
def Retires (s : State) (h : Nat) (w : Bool) (ic : Map (Nat × Nat) Line) (t : State) : Prop :=
  t = { s with harts := t.harts, icache := ic, freeCount := s.freeCount + 1 } ∧ (∀ j, j ≠ h → t.hart j = s.hart j) ∧
  t.hart h = { s.hart h with pc := (t.hart h).pc, instret := (s.hart h).instret + 1, wait := .none, wfi := w }

theorem retire_retires (s u : State) (h : Nat) (w : Bool) (hu : u = { s with harts := u.harts, icache := u.icache })
    (hother : ∀ j, j ≠ h → u.hart j = s.hart j) (hself : u.hart h = { s.hart h with wfi := w }) :
    Retires s h w u.icache (u.retire h) := by
  obtain ⟨hframe, hretired, hrest⟩ := retire_does u h
  refine ⟨?_, fun j hj => (hrest j hj).trans (hother j hj), ?_⟩
  · exact hframe.trans (congrArg (fun z : State => { z with harts := (u.retire h).harts, freeCount := z.freeCount + 1 }) hu)
  · exact hretired.trans (congrArg (fun x : Hart =>
      { x with pc := ((u.retire h).hart h).pc, instret := x.instret + 1, wait := .none }) hself)

theorem retire_sameHart_retires (s : State) (h : Nat) :
    Retires s h (s.hart h).wfi s.icache ((s.setHart h (s.hart h)).retire h) :=
  retire_retires s (s.setHart h (s.hart h)) h _ rfl (fun j _ => State.hart_same s h j) (State.hart_same s h h)

/-- A fence that has nothing to wait for retires (R248). -/
theorem hartFence_retires (s : State) (h : Nat) (pred succ : FenceSet) (tso : Bool) (hr : s.hartReady h = true)
    (hn : HoldsNothing s h) (hstr : (s.hart h).streaming = false) (hacks : (s.hart h).wait ≠ .acks) :
    Retires s h (s.hart h).wfi s.icache (s.hartFence h pred succ tso) := by
  have hnodrain : s.drainStores h (s.hart h).stores.length = s := by rw [hn.stores]; rfl
  unfold State.hartFence
  rw [onHart_ready s h _ hr, if_neg fun c => hacks c.1]
  dsimp only
  rw [State.leaveStreaming_idle s h hstr hn.combine, hnodrain, ite_self, State.wcFlush_idle s h hn.wc]
  split
  · rw [if_pos (hn.setHart_same.fenceReady pred succ tso)]
    exact retire_sameHart_retires s h
  · rw [if_pos (hn.fenceReady pred succ tso)]
    exact retire_retires s s h _ rfl (fun _ _ => rfl) rfl

/-- FENCE.I with nothing to wait for empties the hart's instruction cache and retires (R148). -/
theorem fenceI_retires (s : State) (h : Nat) (hr : s.hartReady h = true) (hn : HoldsNothing s h) :
    Retires s h (s.hart h).wfi (s.icache.filter fun x => x.1.1 != h) (s.fenceI h) := by
  unfold State.fenceI
  rw [onHart_ready s h _ hr, State.pushOut_idle s h hn.stores hn.combine hn.wc]
  dsimp only
  rw [if_pos (hn.setHart_same.settled false)]
  exact retire_retires s { s.setHart h (s.hart h) with icache := s.icache.filter fun x => x.1.1 != h } h _ rfl
    (fun j _ => State.hart_same s h j) (State.hart_same s h h)

theorem wakes_setHart_same (s : State) (h : Nat) : (s.setHart h (s.hart h)).wakes h = s.wakes h := by
  simp [State.wakes, State.mip, State.asyncPending, State.reg]

/-- WFI with nothing to drain retires, and gates the hart unless an enabled interrupt is pending (R151). -/
theorem hartWfi_retires (s : State) (h : Nat) (hr : s.hartReady h = true) (hn : HoldsNothing s h) :
    Retires s h (!s.wakes h || (s.hart h).wfi) s.icache (s.hartWfi h) := by
  unfold State.hartWfi
  rw [onHart_ready s h _ hr, State.wcFlush_idle s h hn.wc]
  dsimp only
  rw [hn.setHart_same.wcDrained, wakes_setHart_same]
  cases s.wakes h
  case true => exact retire_sameHart_retires s h
  case false =>
    refine retire_retires s ((s.setHart h (s.hart h)).updHart h fun x => { x with wfi := true }) h _ rfl (fun j hj => ?_) ?_
    · exact (State.hart_setHart_ne _ _ hj).trans (State.hart_same s h j)
    · simp [State.updHart]

/-! ### Interrupts -/

theorem takeable_lt (s : State) (h c : Nat) (ht : s.takeable h = some c) : c < 2 ^ 63 := by
  have hfound : ∀ v, State.intOrder.find? (bit v) = some c → c < 2 ^ 63 := by
    intro v hv
    have hmem : c ∈ [20, 11, 3, 7, 9, 1, 5] := List.mem_of_find?_eq_some hv
    simp only [List.mem_cons, List.not_mem_nil, or_false] at hmem
    omega
  unfold State.takeable at ht
  dsimp only at ht
  rcases (Option.orElse_eq_some _ _ _).1 ht with hm | ⟨-, hs⟩
  · split at hm
    · exact hfound _ hm
    · cases hm
  · split at hs
    · exact hfound _ hs
    · cases hs

theorem takeInterrupt_traps (s : State) (h c : Nat) (ht : s.takeable h = some c)
    (hruns : (s.updHart h fun x => { x with wfi := false }).hartRuns h = true) (hanswer : ∀ tag, (s.hart h).wait ≠ .answer tag)
    (htrap : ∀ k v, (s.hart h).wait ≠ .trap k v) (hfetch : ∀ n, (s.hart h).wait ≠ .fetch n) (hhalt : s.halting h = false) :
    s.takeInterrupt h = s.trap h (2 ^ 63 + c) 0 := by
  unfold State.takeInterrupt
  rw [fetchArrived_notFetching s h hfetch, trapEnter_notTrapping s h htrap]
  dsimp only
  rw [hruns, hhalt, ht]
  cases hw : (s.hart h).wait with
  | answer tag => exact absurd hw (hanswer tag)
  | trap k v => exact absurd hw (htrap k v)
  | fetch n => exact absurd hw (hfetch n)
  | none | line | acks => simp

theorem interrupt_cause (c : Nat) : w64 c ||| flag true 63 = w64 c ||| 0x8000000000000000#64 := rfl

/-- An interrupt that mideleg does not delegate, or that comes in machine mode, is entered in machine mode. -/
theorem enter_interrupt_machine (x : Hart) (c : Nat) (hd : ¬ (x.priv ≠ .machine ∧ x.mideleg.getLsbD c = true)) :
    x.enter true c 0 = { x with
      wait := .none, wfi := false, priv := .machine, inTrap := true, mepc := x.pc, mcause := w64 c ||| flag true 63, mtval := 0,
      pc := Hart.vector x.mtvec true c,
      csrs := x.csrs.set csrMstatus (setBits (setBits (setBits x.mstatus 12 11 x.priv.level) 7 7 (bits x.mstatus 3 3)) 3 3 0) } := by
  have hd' : (x.priv != .machine && bit x.mideleg c) = false := by
    rw [Bool.eq_false_iff]; simpa [bit] using hd
  unfold Hart.enter
  dsimp only
  rw [if_pos rfl, hd']
  rfl

/-- The registers of a trap into supervisor mode. -/
def supervisorCsrs (x : Hart) (cause tval : W64) : Map Nat W64 :=
  (((x.csrs.set csrMstatus (setBits (setBits (setBits x.mstatus 8 8 (if x.priv = .supervisor then 1 else 0)) 5 5
    (bits x.mstatus 1 1)) 1 1 0)).set csrSepc x.pc).set csrScause cause).set csrStval tval

theorem supervisorCsrs_reads (x : Hart) (cause tval : W64) : let m := supervisorCsrs x cause tval
    m.get 0 csrSepc = x.pc ∧ m.get 0 csrScause = cause ∧ m.get 0 csrStval = tval ∧
    m.get 0 csrMstatus = setBits (setBits (setBits x.mstatus 8 8 (if x.priv = .supervisor then 1 else 0)) 5 5
      (bits x.mstatus 1 1)) 1 1 0 := ⟨rfl, rfl, rfl, rfl⟩

/-- One that mideleg delegates from a lower mode is entered in supervisor mode. -/
theorem enter_interrupt_supervisor (x : Hart) (c : Nat) (hd : x.priv ≠ .machine ∧ x.mideleg.getLsbD c = true) :
    x.enter true c 0 = { x with
      wait := .none, wfi := false, priv := .supervisor, pc := Hart.vector (x.csrs.get 0 csrStvec) true c,
      csrs := supervisorCsrs x (w64 c ||| flag true 63) 0 } := by
  have hd' : (x.priv != .machine && bit x.mideleg c) = true := by simpa [bit] using hd
  unfold Hart.enter
  dsimp only
  rw [if_pos rfl, hd']
  rfl

theorem vector_interrupt (base : W64) (c : Nat) :
    Hart.vector base true c = (base &&& ~~~3) + (if base.getLsbD 0 = true then w64 (4 * c) else 0) := by
  simp [Hart.vector, bit]

/-! ### Requests that leave the module -/

/-- A request as it is issued: with its tag, its map generation and its meter tag. -/
def issued (s : State) (q : OutReq) : OutReq :=
  { q with tag := s.nextTag, gen := s.fab.rgen, meterTag := s.originTag q.origin }

/-- The state in which a request that is issued has become outstanding, before it leaves. -/
def awaiting (s : State) (q : OutReq) : State := { s with out := s.out ++ [issued s q], nextTag := s.nextTag + 1 }

theorem issue_toModule (s : State) (q : OutReq) (m : Nat) (hd : q.dest = .module m) :
    ∃ p, s.issue q = (awaiting s q).inject q.origin.region p := by
  apply Exists.intro
  unfold State.issue awaiting issued
  rw [hd]

theorem issue_toHost (s : State) (q : OutReq) (k : Nat) (hd : q.dest = .host k) (hop : 2 ≤ q.op) :
    ∃ m, s.issue q = ((awaiting s q).clearCopyValid (issued s q).target).emit m := by
  apply Exists.intro
  unfold State.issue awaiting issued
  rw [hd]
  dsimp only
  rw [if_pos hop]

theorem issue_toExpander (s : State) (q : OutReq) (k : Nat) (hd : q.dest = .t4 k) :
    ∃ m, s.issue q = (awaiting s q).emit m := by
  apply Exists.intro
  unfold State.issue awaiting issued
  rw [hd]

theorem clearCopy_congr (s t : State) (a : Nat) (h : t.pat = s.pat) : (t.clearCopyValid a).pat = (s.clearCopyValid a).pat := by
  unfold State.clearCopyValid State.patEntry
  dsimp only
  rw [h]
  split
  · split
    · rfl
    · exact h
  · exact h

/-- What a request that leaves changes, from the state in which it is outstanding: the way out, and the PAT. -/
def LeavesFrom (w t : State) : Prop :=
  t = { w with outbox := t.outbox, ports := t.ports, fab := t.fab, regs := t.regs, pat := t.pat }

theorem inject_leaves (w : State) (r : Nat) (p : Packet) : LeavesFrom w (w.inject r p) ∧ (w.inject r p).pat = w.pat := by
  have hframe := inject_frame w r p
  obtain ⟨t, ht⟩ : ∃ t, t = w.inject r p := ⟨_, rfl⟩
  rw [← ht] at hframe ⊢
  unfold LeavesFrom
  rw [hframe]
  exact ⟨rfl, rfl⟩

theorem clearCopy_emit_leaves (w : State) (a : Nat) (m : OutMsg) : LeavesFrom w ((w.clearCopyValid a).emit m) := by
  have hframe := clearCopy_frame w a
  obtain ⟨c, hc⟩ : ∃ c, c = w.clearCopyValid a := ⟨_, rfl⟩
  rw [← hc] at hframe ⊢
  unfold LeavesFrom
  rw [hframe]
  rfl

/-- What issuing a write leaves as it was, and what it does to the PAT: a write to T5 clears COPY_VALID of its granule (R318). -/
theorem issue_write (s : State) (q : OutReq) (hop : 2 ≤ q.op) : LeavesFrom (awaiting s q) (s.issue q) ∧
    (s.issue q).pat = match q.dest with | .host _ => (s.clearCopyValid (issued s q).target).pat | _ => s.pat := by
  cases hd : q.dest with
  | module m =>
    obtain ⟨p, hp⟩ := issue_toModule s q m hd
    rw [hp]
    exact inject_leaves (awaiting s q) q.origin.region p
  | host k =>
    obtain ⟨m, hm⟩ := issue_toHost s q k hd hop
    rw [hm]
    exact ⟨clearCopy_emit_leaves .., clearCopy_congr s (awaiting s q) _ rfl⟩
  | t4 k =>
    obtain ⟨m, hm⟩ := issue_toExpander s q k hd
    rw [hm]
    exact ⟨rfl, rfl⟩

theorem LeavesFrom.hart {w t : State} (hl : LeavesFrom w t) (j : Nat) : t.hart j = w.hart j := by
  unfold LeavesFrom at hl
  rw [hl]
  rfl

/-! ### The write-combining buffer -/

/-- The masked write as which an entry leaves for a destination outside the module's memory. -/
def wcRequest (h : Nat) (d : OutDest) (e : WcEntry) : OutReq :=
  { tag := 0, origin := .wc h, dest := d, op := 3, addr := e.line * 128, len := 128, data := leBytes 128 e.data.toNat,
    mask := e.mask.toNat }

theorem wcRequest_writes (h : Nat) (d : OutDest) (e : WcEntry) : 2 ≤ (wcRequest h d e).op := Nat.le_succ 2

theorem wcWrite_away (s : State) (h : Nat) (e : WcEntry) (d : OutDest) (hd : e.dest = some d)
    (hreach : s.destReachable d (.wc h) = true) : s.wcWrite h e = (s.issue (wcRequest h d e), true) := by
  unfold State.wcWrite State.postWrite
  rw [hd]
  exact congrArg (·, true) (if_pos hreach)

theorem wcFlush_away (s : State) (h : Nat) (p : WcEntry → Bool) (e : WcEntry) (d : OutDest) (hwc : (s.hart h).wc = [e])
    (hp : p e = true) (hd : e.dest = some d) (hreach : s.destReachable d (.wc h) = true) :
    s.wcFlush h p = (s.issue (wcRequest h d e)).setHart h { s.hart h with wc := [] } := by
  have hhart : (s.issue (wcRequest h d e)).hart h = s.hart h := (issue_write s (wcRequest h d e) (wcRequest_writes h d e)).1.hart h
  unfold State.wcFlush
  rw [hwc]
  simp only [List.foldl_cons, List.foldl_nil, hp, if_true, wcWrite_away s h e d hd hreach, State.updHart, hhart]

theorem LeavesFrom.setHart {s u : State} {q : OutReq} (hl : LeavesFrom (awaiting s q) u) (h : Nat) (x : Hart) :
    let t := u.setHart h x
    t = { s with harts := t.harts, out := s.out ++ [issued s q], nextTag := s.nextTag + 1, outbox := t.outbox,
                 ports := t.ports, fab := t.fab, regs := t.regs, pat := t.pat } := by
  unfold LeavesFrom at hl
  dsimp only
  rw [hl]
  rfl

theorem wcWriteout_away (s : State) (h : Nat) (e : WcEntry) (d : OutDest) (hwc : (s.hart h).wc = [e])
    (hd : e.dest = some d) (hreach : s.destReachable d (.wc h) = true) (htrap : ∀ k v, (s.hart h).wait ≠ .trap k v) :
    s.wcWriteout h e.line = (s.issue (wcRequest h d e)).setHart h { s.hart h with wc := [] } := by
  unfold State.wcWriteout
  rw [wcFlush_away s h (fun x => x.line == e.line) e d hwc (beq_self_eq_true e.line) hd hreach, trapEnter_notTrapping]
  rw [State.hart_setHart_self]
  exact htrap

/-! ### Requests that time out (R270 to R272) -/

/-- The loss of request `q` of a hart in region `r` stands in `t` in the log of its path, with its cause, and no log else changed. -/
def RecordsLoss (s : State) (q : OutReq) (r cause : Nat) (t : State) : Prop :=
  (∀ m, q.dest = .module m → t.hostLog = s.hostLog ∧ t.fabLog = s.fabLog.set (r, (s.reg (FAB_ERR_TAIL r)).toNat % 64)
    ⟨stPEER_LOST, cause, 0, m, s.fret, q.target⟩) ∧
  (∀ p, q.dest = .host p ∨ q.dest = .t4 p →
    t.fabLog = s.fabLog ∧ t.hostLog = s.hostLog.set (p, (s.reg (HOST_ERR_TAIL p)).toNat % 64)
    ⟨stPEER_LOST, cause, s.outFunction p q.origin, 0, s.fret, q.target⟩)

theorem logLost_records (s : State) (q : OutReq) (r : Nat) :
    RecordsLoss s q r (if q.posted then 1 else 2) ((s.dropOut q).logLost r q q.origin stPEER_LOST) := by
  unfold State.logLost
  constructor
  · intro m hd
    rw [hd]
    exact ⟨rfl, rfl⟩
  · rintro p (hd | hd)
    · rw [hd]
      exact ⟨rfl, rfl⟩
    · rw [hd]
      exact ⟨rfl, rfl⟩

theorem logLost_asyncErr (s : State) (h r : Nat) (q : OutReq) (o : Origin) (st : Nat) :
    (s.logLost r q o st).reg (State.asyncErrReg h) = s.reg (State.asyncErrReg h) := by
  unfold State.logLost
  cases q.dest with
  | module m => exact State.reg_bump_ne _ 1 (async_ne h r).1
  | host p => exact State.reg_bump_ne _ 1 (async_ne h p).2.1
  | t4 p => exact State.reg_bump_ne _ 1 (async_ne h p).2.1

theorem asyncError_first (s : State) (h st source kind addr : Nat) (hv : (s.reg (State.asyncErrReg h)).getLsbD 8 = false) :
    let t := s.asyncError h st source kind addr
    t.reg (State.asyncAddrReg h) = w64 addr ∧
      t.reg (State.asyncErrReg h) = fld st 0 ||| fld 1 8 ||| fld source 10 ||| fld kind 11 ||| fld 1 16 := by
  have hne : State.asyncErrReg h ≠ State.asyncAddrReg h := (async_ne h 0).2.2
  unfold State.asyncError bit
  dsimp only
  rw [hv, if_neg Bool.false_ne_true]
  exact ⟨State.reg_setReg_self .., (State.reg_setReg_ne _ _ hne).trans (State.reg_setReg_self ..)⟩

theorem asyncError_records {s t : State} {q : OutReq} {r cause : Nat} (h st source kind addr : Nat)
    (hl : RecordsLoss s q r cause t) : RecordsLoss s q r cause (t.asyncError h st source kind addr) := by
  rw [asyncError_frame]
  exact hl

/-- A discard that leaves no packet waiting ends there. -/
theorem timeout_only (s : State) (q : OutReq) (hout : s.out = [q])
    (hwait : (s.discardOne q stPEER_LOST true).fab.waiting = []) :
    s.timeout q.tag q.posted = s.discardOne q stPEER_LOST true := by
  have hone : s.out.filter (fun p => p.tag == q.tag && p.posted == q.posted) = [q] := by simp [hout]
  unfold State.timeout State.discardWhere
  rw [hone]
  exact releaseOrdered_none _ hwait

theorem dropOut_only (s : State) (q : OutReq) (hout : s.out = [q]) : s.dropOut q = { s with out := [] } := by
  simp [State.dropOut, hout]

theorem logLost_only (s : State) (q : OutReq) (r : Nat) (hout : s.out = [q]) :
    let t := (s.dropOut q).logLost r q q.origin stPEER_LOST
    t = { s with out := [], regs := t.regs, fabLog := t.fabLog, hostLog := t.hostLog } := by
  dsimp only
  rw [dropOut_only s q hout]
  exact logLost_frame ..

theorem discardHartWrite_only (s : State) (q : OutReq) (h kind : Nat) (hout : s.out = [q]) :
    let t := (s.dropOut q).discardHartWrite h kind q stPEER_LOST
    t = { s with out := [], regs := t.regs, fabLog := t.fabLog, hostLog := t.hostLog } := by
  obtain ⟨u, hu⟩ : ∃ u, u = (s.dropOut q).logLost (hartRegion h) q q.origin stPEER_LOST := ⟨_, rfl⟩
  have hframe := logLost_only s q (hartRegion h) hout
  unfold State.discardHartWrite
  dsimp only at hframe ⊢
  rw [← hu] at hframe ⊢
  rw [asyncError_frame, hframe]

theorem discardOne_hartWrite (s : State) (q : OutReq) (h : Nat) (hq : q.posted = true) (ho : q.origin = .hart h)
    (hout : s.out = [q]) (htrap : ∀ k v, (s.hart h).wait ≠ .trap k v) :
    s.discardOne q stPEER_LOST true = (s.dropOut q).discardHartWrite h 0 q stPEER_LOST := by
  have hharts : ((s.dropOut q).discardHartWrite h 0 q stPEER_LOST).hart h = s.hart h := by
    rw [discardHartWrite_only s q h 0 hout]
    rfl
  unfold State.discardOne
  dsimp only
  rw [ho]
  dsimp only
  rw [if_pos hq, trapEnter_notTrapping]
  rw [hharts]
  exact htrap

theorem discardOne_hartLoad (s : State) (q : OutReq) (h : Nat) (hq : q.posted = false) (ho : q.origin = .hart h)
    (hout : s.out = [q]) (hw : (s.hart h).wait = .answer q.tag) (hrun : s.seqStopped h = false) :
    s.discardOne q stPEER_LOST true =
      ((s.dropOut q).logLost (hartRegion h) q q.origin stPEER_LOST).fault h (if q.loads then 5 else 7) q.va := by
  obtain ⟨u, hu⟩ : ∃ u, u = (s.dropOut q).logLost (hartRegion h) q q.origin stPEER_LOST := ⟨_, rfl⟩
  have hframe := logLost_only s q (hartRegion h) hout
  dsimp only at hframe
  rw [← hu] at hframe ⊢
  have huw : (u.hart h).wait = .answer q.tag := by rw [hframe]; exact hw
  have hurun : ¬ u.seqStopped h = true := by rw [hframe, Bool.not_eq_true]; exact hrun
  rw [ho] at hu
  unfold State.discardOne
  dsimp only
  rw [ho]
  dsimp only
  simp only [hq, if_true, ← hu]
  rw [if_neg Bool.false_ne_true, if_neg (not_not.2 huw), if_neg hurun]

/-- A posted write of a hart that times out is dropped, logged and recorded in ASYNC_ERR (R271). -/
theorem timeout_hartWrite (s : State) (q : OutReq) (h : Nat) (hq : q.posted = true) (ho : q.origin = .hart h)
    (hout : s.out = [q]) (hwait : s.fab.waiting = []) (htrap : ∀ k v, (s.hart h).wait ≠ .trap k v) :
    s.timeout q.tag true = (s.dropOut q).discardHartWrite h 0 q stPEER_LOST := by
  have hdone := discardOne_hartWrite s q h hq ho hout htrap
  rw [← hq, timeout_only s q hout, hdone]
  rw [hdone, discardHartWrite_only s q h 0 hout]
  exact hwait

/-- A load or AMO of a hart that times out is logged, and the hart takes an access fault (R272). -/
theorem timeout_hartLoad (s : State) (q : OutReq) (h : Nat) (hq : q.posted = false) (ho : q.origin = .hart h)
    (hout : s.out = [q]) (hwait : s.fab.waiting = []) (hw : (s.hart h).wait = .answer q.tag) (hwc : (s.hart h).wc = [])
    (hstr : (s.hart h).streaming = false) (hco : (s.hart h).combine = none) (hrun : s.seqStopped h = false)
    (hdouble : ¬(144 ≤ h ∧ (s.hart h).inTrap = true)) : ∃ t, s.timeout q.tag false = t ∧
      t = { s with out := [], regs := t.regs, fabLog := t.fabLog, hostLog := t.hostLog, harts := t.harts,
                   reserved := s.reserved.erase h, retries := t.retries } ∧
      RecordsLoss s q (hartRegion h) 2 t ∧ (∀ j, j ≠ h → t.hart j = s.hart j) ∧
      t.hart h = (s.hart h).enter false (if q.loads then 5 else 7) (w64 q.va) := by
  obtain ⟨u, hu⟩ : ∃ u, u = (s.dropOut q).logLost (hartRegion h) q q.origin stPEER_LOST := ⟨_, rfl⟩
  have huframe := logLost_only s q (hartRegion h) hout
  have hlog := logLost_records s q (hartRegion h)
  have hdone := discardOne_hartLoad s q h hq ho hout hw hrun
  dsimp only at huframe
  rw [hq] at hlog
  rw [← hu] at huframe hlog hdone
  have huhart : ∀ j, u.hart j = s.hart j := fun j => by rw [huframe]; rfl
  have hunack : u.wcUnacked h = false := by rw [huframe]; rfl
  obtain ⟨t, het, hframe, hself, hother⟩ := trap_does u h (if q.loads then 5 else 7) q.va ((huhart h).symm ▸ hstr)
    ((huhart h).symm ▸ hco) ((huhart h).symm ▸ hwc) hunack ((huhart h).symm ▸ hdouble)
  have htlog : t.hostLog = u.hostLog ∧ t.fabLog = u.fabLog := by rw [hframe]; exact ⟨rfl, rfl⟩
  refine ⟨t, ?_, ?_, ?_, fun j hj => (hother j hj).trans (huhart j), ?_⟩
  · rw [← hq, timeout_only s q hout, hdone]
    · exact het
    · rw [hdone, State.fault, het, hframe, huframe]
      exact hwait
  · rw [hframe, huframe]
  · unfold RecordsLoss at hlog ⊢
    rw [htlog.1, htlog.2]
    exact hlog
  · rw [hself, huhart]
    split <;> rfl

/-- Settles O23: the operation of each command, on the hart or the one outstanding request that the clause describes, is the
retirement, trap, issue or discard that the lemmas above give. -/
theorem fencesWaitsAndTimeouts : Obligations.FencesWaitsAndTimeouts := by
  unfold Obligations.FencesWaitsAndTimeouts
  refine ⟨?fences, ?interrupt, ?writeout, ?expiry, ?asyncClear, ?timeouts⟩
  case fences =>
    intro s h pred succ tso hp hh hr hst hco hwc hstr hout hacks
    have hw : decide (h < 656) = true := decide_eq_true hh
    have hn : HoldsNothing s h := ⟨hst, hco, hwc, hout⟩
    exact ⟨⟨_, exec_hartFence h pred succ tso s hw hp, hartFence_retires s h pred succ tso hr hn hstr hacks⟩,
      ⟨_, exec_fenceI h s hw hp, fenceI_retires s h hr hn⟩, ⟨_, exec_wfi h s hw hp, hartWfi_retires s h hr hn⟩⟩
  case interrupt =>
    intro s h c hp hh ht hruns hanswer htrap hfetch hhalt hwc hun hstr hco hdouble
    dsimp only
    obtain ⟨t, het, hframe, hself, hother⟩ := trap_does s h (2 ^ 63 + c) 0 hstr hco hwc hun hdouble
    have hc : c < 2 ^ 63 := takeable_lt s h c ht
    rw [decide_eq_true (Nat.le_add_right (2 ^ 63) c), Nat.add_mod_left, Nat.mod_eq_of_lt hc] at hself
    refine ⟨t, ?_, hframe, hother, fun hd => ?_, fun hd => ?_⟩
    · rw [exec_interruptTrap h s (decide_eq_true hh) hp, takeInterrupt_traps s h c ht hruns hanswer htrap hfetch hhalt, het]
    · rw [hself]
      refine (enter_interrupt_machine (s.hart h) c hd).trans ?_
      rw [vector_interrupt, interrupt_cause]
    · have hx := hself.trans (enter_interrupt_supervisor (s.hart h) c hd)
      obtain ⟨hepc, hcause, htval, hstatus⟩ := supervisorCsrs_reads (s.hart h) (w64 c ||| flag true 63) 0
      rw [vector_interrupt] at hx
      rw [Hart.mstatus, hx]
      exact ⟨rfl, hepc, hcause, htval, hstatus⟩
  case writeout =>
    intro s h line e d hp hh hwc hline hd hreach htrap
    subst hline
    obtain ⟨hleaves, hpat⟩ := issue_write s (wcRequest h d e) (wcRequest_writes h d e)
    refine ⟨_, issued s (wcRequest h d e), (exec_wcEntryWriteout h e.line s (decide_eq_true hh) hp).trans
      (congrArg _ (wcWriteout_away s h e d hwc hd hreach htrap)), hleaves.setHart h _, hpat, State.hart_setHart_self .., ?_,
      rfl, rfl, rfl, rfl, rfl, rfl, rfl, rfl, rfl⟩
    intro j hj
    exact (State.hart_setHart_ne _ _ hj).trans (hleaves.hart j)
  case expiry =>
    intro s h n d hp hh hres
    dsimp only
    rw [exec_reservationExpire h s (decide_eq_true hh) hp, State.reservationExpire, hres]
    rfl
  case asyncClear =>
    intro s ag c v hp hag hc
    have hw : (Instr.mgmtCoreAsyncErrClear ag c v).wf = true := Bool.and_eq_true_iff.2 ⟨hag, decide_eq_true hc⟩
    have hreg : State.asyncErrReg c = MGMT_CORE_ASYNC_ERR c := if_pos hc
    rw [exec_mgmtCoreAsyncErrClear ag c v s hw hp, State.asyncClear, hreg, bit]
    refine ⟨fun hv => ?_, fun hv => ?_⟩
    · rw [if_pos hv, ← async_clear]
    · rw [if_neg (by rw [hv]; exact Bool.false_ne_true)]
  case timeouts =>
    intro s q h hp hout hwait
    dsimp only
    refine ⟨fun hq ho htrap => ?_, fun hq ho hw hwc hstr hco hrun hdouble => ?_⟩
    · have hlog := logLost_records s q (hartRegion h)
      rw [hq] at hlog
      refine ⟨_, (exec_remoteWriteTimeout q.tag s rfl hp).trans (congrArg _ (timeout_hartWrite s q h hq ho hout hwait htrap)),
        discardHartWrite_only s q h 0 hout, asyncError_records h stPEER_LOST _ 0 q.target hlog, fun hv => ?_⟩
      refine asyncError_first _ h stPEER_LOST _ 0 q.target ?_
      rw [logLost_asyncErr]
      exact hv
    · obtain ⟨t, het, hframe, hlog, hother, hself⟩ := timeout_hartLoad s q h hq ho hout hwait hw hwc hstr hco hrun hdouble
      exact ⟨t, (exec_remoteLoadTimeout q.tag s rfl hp).trans (congrArg _ het), hframe, hlog, hother, hself⟩

end Sys2Proof.Machine

/-!
PROOFS. What every command and the tick leave of the queue, the serial number, the ledger's sequence and the fret counter: O5.
-/
namespace Sys2Proof.Machine

/-- A command that sets the fret counter owes nothing about it; the rest of `Keeps` it owes like every other. -/
theorem Keeps.of_setsFret {c : Instr} {s t : State} (h : Keeps False s t) (hc : setsFret c = true) :
    Keeps (setsFret c = false) s t :=
  ⟨h.mem, h.pending, h.serial, h.seq, fun hno => absurd (hc.symm.trans hno) Bool.noConfusion⟩

/-- Each command's own meaning leaves `Keeps` true, with the counter kept by those that `setsFret` does not name. -/
theorem exec_keeps (c : Instr) (s t : State) (h : exec c s = .next t) : Keeps (setsFret c = false) s t := by
  cases c with
  | registerWrite ag addr v => exact execRegisterWrite_keeps ag addr v s t h
  | misalignedRegAccess ag addr size write => exact execMisalignedRegAccess_keeps ag addr size write s t h
  | fabFretPeriodWrite ag r v => exact execFabFretPeriodWrite_keeps ag r v s t h
  | fretMark m => exact (execFretMark_keeps m s t h).of_setsFret rfl
  | vfStepRise r d => exact execVfStepRise_keeps r d s t h
  | lateralPathChange edge lost fl => exact execLateralPathChange_keeps edge lost fl s t h
  | mxLoad b => exact execMxLoad_keeps b s t h
  | mxLoadPathStart b => exact execMxLoadPathStart_keeps b s t h
  | mxLoadDone b => exact execMxLoadDone_keeps b s t h
  | mxSwap b => exact execMxSwap_keeps b s t h
  | mxSwapCycle b => exact execMxSwapCycle_keeps b s t h
  | mxStream b => exact execMxStream_keeps b s t h
  | mxRowFeed b granted errs parity => exact execMxRowFeed_keeps b granted errs parity s t h
  | groupCheck b => exact execGroupCheck_keeps b s t h
  | mxRowCommit b => exact execMxRowCommit_keeps b s t h
  | feedPegRelease b => exact execFeedPegRelease_keeps b s t h
  | mxDrain b n => exact execMxDrain_keeps b n s t h
  | mxSeed b n => exact execMxSeed_keeps b n s t h
  | mxCountClear ag b v => exact execMxCountClear_keeps ag b v s t h
  | cmdPush b v => exact execCmdPush_keeps b v s t h
  | spillRefill b e => exact execSpillRefill_keeps b e s t h
  | tokenWaitEnd b e => exact execTokenWaitEnd_keeps b e s t h
  | blkTokenErrClear ag b v => exact execBlkTokenErrClear_keeps ag b v s t h
  | blkCplCtrlWrite ag b v => exact execBlkCplCtrlWrite_keeps ag b v s t h
  | blkCplHeadWrite ag b v => exact execBlkCplHeadWrite_keeps ag b v s t h
  | completionWrite b e => exact execCompletionWrite_keeps b e s t h
  | veBinary b n err => exact execVeBinary_keeps b n err s t h
  | veUnary b n => exact execVeUnary_keeps b n s t h
  | veFma b n err => exact execVeFma_keeps b n err s t h
  | veReduce b n err => exact execVeReduce_keeps b n err s t h
  | veQuantMx b n => exact execVeQuantMx_keeps b n s t h
  | veRawCombine b n err => exact execVeRawCombine_keeps b n err s t h
  | lyTranspose b n => exact execLyTranspose_keeps b n s t h
  | lyCopy2d b n => exact execLyCopy2d_keeps b n s t h
  | lyPad b n => exact execLyPad_keeps b n s t h
  | lyConvert b n => exact execLyConvert_keeps b n s t h
  | gsGather b n => exact execGsGather_keeps b n s t h
  | gsScatter b n => exact execGsScatter_keeps b n s t h
  | gsLoad b n => exact execGsLoad_keeps b n s t h
  | gsStore b n => exact execGsStore_keeps b n s t h
  | skSort b n => exact execSkSort_keeps b n s t h
  | skTopk b n => exact execSkTopk_keeps b n s t h
  | blkStart ag b => exact execBlkStart_keeps ag b s t h
  | blkHalt ag b => exact execBlkHalt_keeps ag b s t h
  | blkReset ag b => exact execBlkReset_keeps ag b s t h
  | blockResetRelease b => exact execBlockResetRelease_keeps b s t h
  | seqDoubleTrap b => exact execSeqDoubleTrap_keeps b s t h
  | blockMute b cause => exact execBlockMute_keeps b cause s t h
  | blkCountClear ag b v => exact execBlkCountClear_keeps ag b v s t h
  | blkAsyncErrClear ag b v => exact execBlkAsyncErrClear_keeps ag b v s t h
  | hartLoad j a => exact execHartLoad_keeps j a s t h
  | hartStore j a v jold => exact execHartStore_keeps j a v jold s t h
  | hartAmo j a op v => exact execHartAmo_keeps j a op v s t h
  | hartLr j a => exact execHartLr_keeps j a s t h
  | hartSc j a v => exact execHartSc_keeps j a v s t h
  | hartFence j pred succ tso => exact execHartFence_keeps j pred succ tso s t h
  | fenceI j => exact execFenceI_keeps j s t h
  | wfi j => exact execWfi_keeps j s t h
  | wcEntryWriteout j line => exact execWcEntryWriteout_keeps j line s t h
  | reservationExpire j => exact execReservationExpire_keeps j s t h
  | mgmtCoreAsyncErrClear ag c v => exact execMgmtCoreAsyncErrClear_keeps ag c v s t h
  | remoteWriteTimeout tag => exact execRemoteWriteTimeout_keeps tag s t h
  | remoteLoadTimeout tag => exact execRemoteLoadTimeout_keeps tag s t h
  | dmaEnable ag r c => exact execDmaEnable_keeps ag r c s t h
  | dmaDisable ag r c => exact execDmaDisable_keeps ag r c s t h
  | dmaPause ag r c => exact execDmaPause_keeps ag r c s t h
  | dmaResume ag r c => exact execDmaResume_keeps ag r c s t h
  | dmaAbort ag r c => exact execDmaAbort_keeps ag r c s t h
  | dmaClearErr ag r c => exact execDmaClearErr_keeps ag r c s t h
  | dmaDoorbell ag r c v => exact execDmaDoorbell_keeps ag r c v s t h
  | descFetch r c => exact execDescFetch_keeps r c s t h
  | descRefetch r c => exact execDescRefetch_keeps r c s t h
  | copy r c n => exact execCopy_keeps r c n s t h
  | fill r c n => exact execFill_keeps r c n s t h
  | compare r c n => exact execCompare_keeps r c n s t h
  | copy2d r c n => exact execCopy2d_keeps r c n s t h
  | descFault r c => exact execDescFault_keeps r c s t h
  | descWriteback r c => exact execDescWriteback_keeps r c s t h
  | ringFault r c => exact execRingFault_keeps r c s t h
  | pauseDrainEnd r c => exact execPauseDrainEnd_keeps r c s t h
  | dmaChCountClear ag r c v => exact execDmaChCountClear_keeps ag r c v s t h
  | pegSet ag p v => exact execPegSet_keeps ag p v s t h
  | pegAdd ag p v => exact execPegAdd_keeps ag p v s t h
  | pegRelAdd ag p sc v => exact execPegRelAdd_keeps ag p sc v s t h
  | pegAcqRead ag p sc => exact execPegAcqRead_keeps ag p sc s t h
  | pegCasExpect ag p v => exact execPegCasExpect_keeps ag p v s t h
  | pegCas ag p v => exact execPegCas_keeps ag p v s t h
  | pegStatusClear ag p v => exact execPegStatusClear_keeps ag p v s t h
  | pegAccessFault ag addr size write amo => exact execPegAccessFault_keeps ag addr size write amo s t h
  | watchArm ag v => exact execWatchArm_keeps ag v s t h
  | watchDeliver r => exact execWatchDeliver_keeps r s t h
  | watchExpire r key => exact execWatchExpire_keeps r key s t h
  | watchCancel ag v => exact execWatchCancel_keeps ag v s t h
  | watchEventRead ag => exact execWatchEventRead_keeps ag s t h
  | eventQueueAdmit r => exact execEventQueueAdmit_keeps r s t h
  | watchCountClear ag r v => exact execWatchCountClear_keeps ag r v s t h
  | readShared k line victim => exact execReadShared_keeps k line victim s t h
  | readUnique k line victim => exact execReadUnique_keeps k line victim s t h
  | upgrade k line victim => exact execUpgrade_keeps k line victim s t h
  | writeBack k line => exact execWriteBack_keeps k line s t h
  | cleanEvict k line => exact execCleanEvict_keeps k line s t h
  | engineRead port line => exact execEngineRead_keeps port line s t h
  | engineWrite port line data => exact execEngineWrite_keeps port line data s t h
  | engineMaskedWrite port line data mask => exact execEngineMaskedWrite_keeps port line data mask s t h
  | engineAtomic port line off size op v => exact execEngineAtomic_keeps port line off size op v s t h
  | snoop k line => exact execSnoop_keeps k line s t h
  | homeTransactionComplete line => exact execHomeTransactionComplete_keeps line s t h
  | grant r req => exact execGrant_keeps r req s t h
  | scrubDone r => exact execScrubDone_keeps r s t h
  | invalidationDone r => exact execInvalidationDone_keeps r s t h
  | mgmtCohCountClear ag r v => exact execMgmtCohCountClear_keeps ag r v s t h
  | eccUncorrectable e => exact execEccUncorrectable_keeps e s t h
  | mapOut ag ch => exact execMapOut_keeps ag ch s t h
  | testStart ag ch => exact execTestStart_keeps ag ch s t h
  | testEnd ag ch => exact execTestEnd_keeps ag ch s t h
  | maintSlot r seed lanes => exact execMaintSlot_keeps r seed lanes s t h
  | marginCheckDone r m => exact execMarginCheckDone_keeps r m s t h
  | retrainDone r m => exact execRetrainDone_keeps r m s t h
  | groupRebuild ag r v => exact execGroupRebuild_keeps ag r v s t h
  | rebuildDone r g => exact execRebuildDone_keeps r g s t h
  | tgStart ag ch v => exact execTgStart_keeps ag ch v s t h
  | tgDone ch errs => exact execTgDone_keeps ch errs s t h
  | patRead ag r v => exact execPatRead_keeps ag r v s t h
  | patWrite ag r v => exact execPatWrite_keeps ag r v s t h
  | setCopyValid ag r v => exact execSetCopyValid_keeps ag r v s t h
  | clearCopyValid ag r v => exact execClearCopyValid_keeps ag r v s t h
  | patCmdDone r => exact execPatCmdDone_keeps r s t h
  | mgmtRegCfgWrite ag r q p v => exact execMgmtRegCfgWrite_keeps ag r q p v s t h
  | tokenRefill r => exact execTokenRefill_keeps r s t h
  | mgmtMemCountClear ag r v => exact execMgmtMemCountClear_keeps ag r v s t h
  | portEnable ag k => exact execPortEnable_keeps ag k s t h
  | portDisable ag k => exact execPortDisable_keeps ag k s t h
  | retrain ag k => exact execRetrain_keeps ag k s t h
  | trainingAttemptEnd k txGood rxGood reversed inverted peer missing => exact execTrainingAttemptEnd_keeps k txGood rxGood reversed inverted peer missing s t h
  | flitReceive k f => exact execFlitReceive_keeps k f s t h
  | retryReq k seq => exact execRetryReq_keeps k seq s t h
  | retryReqRepeat k => exact execRetryReqRepeat_keeps k s t h
  | linkFailure k => exact execLinkFailure_keeps k s t h
  | hello k j => exact execHello_keeps k j s t h
  | elect k key hops => exact execElect_keeps k key hops s t h
  | reportTimer => exact execReportTimer_keeps s t h
  | report k rep => exact execReport_keeps k rep s t h
  | fabricSettle => exact execFabricSettle_keeps s t h
  | map k m => exact execMap_keeps k m s t h
  | beat k m => exact execBeat_keeps k m s t h
  | beatSend => exact execBeatSend_keeps s t h
  | leaderLost => exact execLeaderLost_keeps s t h
  | join k rep => exact execJoin_keeps k rep s t h
  | portEvent serial port oldState newState => exact execPortEvent_keeps serial port oldState newState s t h
  | portDownTimeout k => exact execPortDownTimeout_keeps k s t h
  | routeSwitch => exact execRouteSwitch_keeps s t h
  | fabricPacketArrive k p => exact execFabricPacketArrive_keeps k p s t h
  | fabricRead p => exact execFabricRead_keeps p s t h
  | fabricWrite p => exact execFabricWrite_keeps p s t h
  | maskedWrite p => exact execMaskedWrite_keeps p s t h
  | atomic p => exact execAtomic_keeps p s t h
  | pegOp p => exact execPegOp_keeps p s t h
  | readData tag status data => exact execReadData_keeps tag status data s t h
  | writeAck tag status => exact execWriteAck_keeps tag status s t h
  | atomicData tag status v => exact execAtomicData_keeps tag status v s t h
  | routeLoad ag v => exact execRouteLoad_keeps ag v s t h
  | fabPortCountClear ag k v => exact execFabPortCountClear_keeps ag k v s t h
  | timeReqSend k t1 => exact execTimeReqSend_keeps k t1 s t h
  | timeReq k p t2 t3 => exact execTimeReq_keeps k p t2 t3 s t h
  | timeResp k p t4 => exact execTimeResp_keeps k p t4 s t h
  | timeRespLost k => exact execTimeRespLost_keeps k s t h
  | epochAdopt count m => exact (execEpochAdopt_keeps count m s t h).of_setsFret rfl
  | strumLoad ag r c => exact execStrumLoad_keeps ag r c s t h
  | strumLoadDone r c => exact execStrumLoadDone_keeps r c s t h
  | strumStart ag r c => exact execStrumStart_keeps ag r c s t h
  | strumAbort ag r c => exact execStrumAbort_keeps ag r c s t h
  | strumUnload ag r c => exact execStrumUnload_keeps ag r c s t h
  | slotStart slot => exact execSlotStart_keeps slot s t h
  | schedFlit k f => exact execSchedFlit_keeps k f s t h
  | strumRunEnd r c => exact execStrumRunEnd_keeps r c s t h
  | peerSilent r c entry => exact execPeerSilent_keeps r c entry s t h
  | fabCollAbort ag v => exact execFabCollAbort_keeps ag v s t h
  | fabCollCountClear ag r v => exact execFabCollCountClear_keeps ag r v s t h
  | hostLinkUp r l => exact execHostLinkUp_keeps r l s t h
  | hostLinkDown r k => exact execHostLinkDown_keeps r k s t h
  | hostLoss r cause => exact execHostLoss_keeps r cause s t h
  | hostLossDone r linkInL0 => exact execHostLossDone_keeps r linkInL0 s t h
  | memorySpaceEnableSet r => exact execMemorySpaceEnableSet_keeps r s t h
  | memorySpaceEnableClear r => exact execMemorySpaceEnableClear_keeps r s t h
  | hostBar0Access r f off size write => exact execHostBar0Access_keeps r f off size write s t h
  | hostPegAtomic r f off size op v => exact execHostPegAtomic_keeps r f off size op v s t h
  | hostBar2Read r f off n => exact execHostBar2Read_keeps r f off n s t h
  | hostBar2Write r f off data attr => exact execHostBar2Write_keeps r f off data attr s t h
  | hostBar2Atomic r f off size op v => exact execHostBar2Atomic_keeps r f off size op v s t h
  | hostFnBar2SlideWrite r f v => exact execHostFnBar2SlideWrite_keeps r f v s t h
  | hostOwnershipWrite ag r f word v => exact execHostOwnershipWrite_keeps ag r f word v s t h
  | rootPortLinkDown r k => exact execRootPortLinkDown_keeps r k s t h
  | hostRpCtrlEnable ag r k v => exact execHostRpCtrlEnable_keeps ag r k v s t h
  | deviceAerError r k reqId => exact execDeviceAerError_keeps r k reqId s t h
  | deviceInboundRequest r k reqId pasid addr storage n write => exact execDeviceInboundRequest_keeps r k reqId pasid addr storage n write s t h
  | tagOpen ag r => exact execTagOpen_keeps ag r s t h
  | tagClose ag r => exact execTagClose_keeps ag r s t h
  | tagQuery ag r => exact execTagQuery_keeps ag r s t h
  | tagBackup => exact execTagBackup_keeps s t h
  | intervalClose => exact execIntervalClose_keeps s t h
  | signToken => exact execSignToken_keeps s t h
  | signDone => exact execSignDone_keeps s t h
  | ledgerAppend => exact execLedgerAppend_keeps s t h
  | pageProgram => exact execPageProgram_keeps s t h
  | kilnRingHeadWrite ag r v => exact execKilnRingHeadWrite_keeps ag r v s t h
  | kilnAckSeqWrite ag r v => exact execKilnAckSeqWrite_keeps ag r v s t h
  | ledgerCompact upTo => exact execLedgerCompact_keeps upTo s t h
  | kilnCountClear ag r v => exact execKilnCountClear_keeps ag r v s t h
  | inputLoss => exact (execInputLoss_keeps s t h).of_setsFret rfl
  | inputLow volts => exact execInputLow_keeps volts s t h
  | inputOvervoltage => exact (execInputOvervoltage_keeps s t h).of_setsFret rfl
  | inputOvercurrent => exact (execInputOvercurrent_keeps s t h).of_setsFret rfl
  | railFault r rail cause => exact execRailFault_keeps r rail cause s t h
  | pwrModuleLimitWrite ag r v => exact execPwrModuleLimitWrite_keeps ag r v s t h
  | pwrDomainWrite ag r d v => exact execPwrDomainWrite_keeps ag r d v s t h
  | budgetMessage r p f d => exact execBudgetMessage_keeps r p f d s t h
  | budgetGrant p => exact execBudgetGrant_keeps p s t h
  | railOvercurrent r rail => exact execRailOvercurrent_keeps r rail s t h
  | droopDetect j cycles => exact execDroopDetect_keeps j cycles s t h
  | droopRecover j => exact execDroopRecover_keeps j s t h
  | thermalSample r die celsius => exact execThermalSample_keeps r die celsius s t h
  | thermalTrip => exact (execThermalTrip_keeps s t h).of_setsFret rfl
  | coolantAlarm => exact execCoolantAlarm_keeps s t h
  | pwrCountClear ag v => exact execPwrCountClear_keeps ag v s t h
  | xchkDone a b da db third => exact execXchkDone_keeps a b da db third s t h
  | xchkThirdTimeout a b => exact execXchkThirdTimeout_keeps a b s t h
  | tuningCheckEnd b passed => exact execTuningCheckEnd_keeps b passed s t h
  | blkMute ag r b => exact execBlkMute_keeps ag r b s t h
  | blkRelease ag r b => exact execBlkRelease_keeps ag r b s t h
  | mgmtEvidRelease ag r v => exact execMgmtEvidRelease_keeps ag r v s t h
  | packRun cls unit => exact execPackRun_keeps cls unit s t h
  | packResult cls unit passed => exact execPackResult_keeps cls unit passed s t h
  | d2dFlitCrcError link lane => exact execD2dFlitCrcError_keeps link lane s t h
  | d2dLaneMapExchange link m => exact execD2dLaneMapExchange_keeps link m s t h
  | heartbeat link => exact execHeartbeat_keeps link s t h
  | dieLost r die reason => exact execDieLost_keeps r die reason s t h
  | regionLost r reason => exact execRegionLost_keeps r reason s t h
  | rejoin ag r die => exact execRejoin_keeps ag r die s t h
  | rejoinDone r die => exact execRejoinDone_keeps r die s t h
  | rejoinTimeout r die => exact execRejoinTimeout_keeps r die s t h
  | mgmtErrCountClear ag r v => exact execMgmtErrCountClear_keeps ag r v s t h
  | auxPowerUp slotId reversedSeen => exact execAuxPowerUp_keeps slotId reversedSeen s t h
  | auxPowerDown => exact execAuxPowerDown_keeps s t h
  | autoBoot => exact (execAutoBoot_keeps s t h).of_setsFret rfl
  | boot img => exact execBoot_keeps img s t h
  | bootStepTimeout => exact execBootStepTimeout_keeps s t h
  | mbxGo ag sl m => exact execMbxGo_keeps ag sl m s t h
  | mbxAck ag sl => exact execMbxAck_keeps ag sl s t h
  | mbxResponse => exact execMbxResponse_keeps s t h
  | i3cPrivateWrite bytes => exact execI3cPrivateWrite_keeps bytes s t h
  | i3cPrivateRead n => exact execI3cPrivateRead_keeps n s t h
  | entdaa da => exact execEntdaa_keeps da s t h
  | rstdaa => exact execRstdaa_keeps s t h
  | setnewda da => exact execSetnewda_keeps da s t h
  | getpid => exact execGetpid_keeps s t h
  | getbcr => exact execGetbcr_keeps s t h
  | getdcr => exact execGetdcr_keeps s t h
  | getstatus => exact execGetstatus_keeps s t h
  | getmwl => exact execGetmwl_keeps s t h
  | getmrl => exact execGetmrl_keeps s t h
  | enec events => exact execEnec_keeps events s t h
  | disec events => exact execDisec_keeps events s t h
  | getStatus sl m => exact execGetStatus_keeps sl m s t h
  | getIdentity sl m => exact execGetIdentity_keeps sl m s t h
  | getCert sl m => exact execGetCert_keeps sl m s t h
  | getEvent sl m => exact execGetEvent_keeps sl m s t h
  | coldBoot sl m => exact (execColdBoot_keeps sl m s t h).of_setsFret rfl
  | warmReset sl m => exact (execWarmReset_keeps sl m s t h).of_setsFret rfl
  | powerOff sl m => exact (execPowerOff_keeps sl m s t h).of_setsFret rfl
  | run sl m => exact execRun_keeps sl m s t h
  | quiesce sl m => exact execQuiesce_keeps sl m s t h
  | resume sl m => exact execResume_keeps sl m s t h
  | overrideSet sl m => exact execOverrideSet_keeps sl m s t h
  | overrideGet sl m => exact execOverrideGet_keeps sl m s t h
  | overrideClear sl m => exact execOverrideClear_keeps sl m s t h
  | journalCompact => exact execJournalCompact_keeps s t h
  | imageWrite sl m => exact execImageWrite_keeps sl m s t h
  | imageCommit sl m v => exact execImageCommit_keeps sl m v s t h
  | coreOffline sl m => exact execCoreOffline_keeps sl m s t h
  | coreOnline sl m passed => exact execCoreOnline_keeps sl m passed s t h
  | coreClearFail sl m => exact execCoreClearFail_keeps sl m s t h
  | muteListGet sl m => exact execMuteListGet_keeps sl m s t h
  | muteListRemove sl m => exact execMuteListRemove_keeps sl m s t h
  | evidenceRead sl m => exact execEvidenceRead_keeps sl m s t h
  | evidenceRelease sl m => exact execEvidenceRelease_keeps sl m s t h
  | fuseRearm sl m => exact execFuseRearm_keeps sl m s t h
  | ledgerRead sl m => exact execLedgerRead_keeps sl m s t h
  | debugUnlock sl m nonce sigOk => exact execDebugUnlock_keeps sl m nonce sigOk s t h
  | hostOutboundCompletion tag status data => exact execHostOutboundCompletion_keeps tag status data s t h
  | hostLinkRecovery r k => exact execHostLinkRecovery_keeps r k s t h
  | rootPortLinkUp r k l => exact execRootPortLinkUp_keeps r k l s t h
  | configurationWrite r f busMaster memEnable bar2Log2 => exact execConfigurationWrite_keeps r f busMaster memEnable bar2Log2 s t h
  | interruptTrap j => exact execInterruptTrap_keeps j s t h
  | inputReversed => exact (execInputReversed_keeps s t h).of_setsFret rfl
  | jtagInstruction boundaryScan => exact execJtagInstruction_keeps boundaryScan s t h

/-- Settles O5: what `exec_keeps` says of every command, and `State.tick_keeps` of a tick. -/
theorem commandsLeaveQueueIdentityAndTime : Obligations.CommandsLeaveQueueIdentityAndTime := by
  unfold Obligations.CommandsLeaveQueueIdentityAndTime
  constructor
  · intro c s t h
    have hk : Keeps (setsFret c = false) s t := exec_keeps c s t h
    exact ⟨hk.pending, hk.serial, hk.seq, hk.fret⟩
  · intro s
    have hk : Keeps True s s.tick := State.tick_keeps s Keeps.refl
    exact ⟨hk.pending, hk.serial, hk.seq, hk.fret trivial⟩

end Sys2Proof.Machine

/-!
PROOFS. The state after reset: O2.
-/
namespace Sys2Proof.Machine

/-- Settles O2: `State.reset` lists nothing, so every field, peg, mailbox slot and byte reads its default. -/
theorem resetLeavesTheModuleOff : Obligations.ResetLeavesTheModuleOff := by
  unfold Obligations.ResetLeavesTheModuleOff
  refine ⟨rfl, rfl, rfl, rfl, rfl, rfl, fun p => ⟨rfl, rfl⟩, rfl, rfl, rfl, rfl, rfl, rfl, fun sl => ?mailbox, rfl, rfl, rfl,
    fun a => rfl⟩
  case mailbox => cases sl <;> exact ⟨rfl, rfl⟩

end Sys2Proof.Machine

/-!
PROOFS. Fret marks, the adoption of an epoch and slot starts (R35 to R38, R376 to R378, R389): O42.
-/
namespace Sys2Proof.Machine

/-! ### Marks and adoption -/

/-- The state whose mark FRET_MARK takes: an epoch that is to start is set, local for a module alone (R376). -/
def State.epochStarted (s : State) : State :=
  match s.time.start with
  | some lone => { s with epochSet := true, localEpoch := lone, time := { s.time with start := none } }
  | none => s

/-- The count of the next mark (R36, R37). -/
def State.nextCount (s : State) : Nat := if s.time.start.isSome then 0 else if s.epochSet then s.fret + 1 else 0

theorem fretMark_steps (s : State) (m : MarkInput) : s.fretMark m = s.epochStarted.markSteps m s.nextCount := by
  unfold State.fretMark State.epochStarted State.nextCount
  cases s.time.start <;> rfl

/-- Adoption has not had its 8 good exchanges (R377). -/
theorem epochAdopt_early (s : State) (count : Nat) (m : MarkInput) (h : s.time.adopt = false ∨ s.time.ready < 8) :
    s.epochAdopt count m = s := by
  unfold State.epochAdopt
  exact if_pos (h.imp_left fun ha => by rw [ha]; rfl)

/-- What an adoption ends: watches that are due, and the fret-bound work of an epoch held before (R235, R377). -/
def State.epochStopped (s : State) : State :=
  let due := s.watchDue
  if due.epochSet then
    let v := due.blocks.foldl (fun (v : State) x => v.blockEpochAbort x.1) due
    (v.dma.foldl (fun (w : State) x => w.dmaEpochAbort x.1.1 x.1.2) v).collEpochAbort
  else due

/-- The state whose mark an adoption takes: the steps are counted and the lock is ACQUIRING (R377). -/
def State.epochHeld (s : State) : State :=
  { s.setAll FAB_TIME_STEPS (s.reg (FAB_TIME_STEPS 0) + 1) with
    epochSet := true, localEpoch := false, ports := s.ports.map fun x => (x.1, { x.2 with timeE := none })
    time := { s.time with lock := .acquiring, root := false, adopt := false, ready := 0, good := 0, bad := 0, start := none } }

theorem epochAdopt_ready (s : State) (count : Nat) (m : MarkInput) (ha : s.time.adopt = true) (hr : 8 ≤ s.time.ready) :
    s.epochAdopt count m = s.epochStopped.epochHeld.markSteps m count := by
  have hno : ¬ ((!s.time.adopt) = true ∨ s.time.ready < 8) := by
    rw [ha]
    exact fun h => h.elim Bool.noConfusion fun hlt => absurd hr (Nat.not_le.2 hlt)
  unfold State.epochAdopt
  rw [if_neg hno]
  rfl

/-- The reports that follow a mark leave the counter at the mark's number. -/
theorem noted_markSteps_fret (s u : State) (m : MarkInput) (n : Nat) : (s.noted (u.markSteps m n)).fret = n :=
  (noted_fret s _).trans (markSteps_fret u m n)

/-! ### Slot starts -/

/-- A port without the SCHED flits that could not leave in their slot (R343, R380). -/
def Port.withoutSched (x : Port) : Port := { x with txq := x.txq.filter (·.vc != 7) }

theorem Port.withoutSched_twice (x : Port) : x.withoutSched.withoutSched = x.withoutSched := by
  simp [Port.withoutSched]

theorem Port.withoutSched_none (x : Port) (h : ¬ (x.txq.any (·.vc == 7)) = true) : x.withoutSched = x := by
  have hall : x.txq.filter (·.vc != 7) = x.txq := List.filter_eq_self.2 fun i hi => by
    have hne : ¬ (i.vc == 7) = true := fun hc => h (List.any_eq_true.2 ⟨i, hi, hc⟩)
    simpa using hne
  unfold Port.withoutSched
  rw [hall]

/-- What `State.dropSched` does to one port. -/
def State.dropSchedOf (s : State) (k : Nat) : State :=
  if (s.port k).txq.any (·.vc == 7) then s.updPort k Port.withoutSched else s

theorem dropSched_ports (s : State) : s.dropSched = (List.range 16).foldl State.dropSchedOf s := rfl

theorem dropSchedOf_frame (s : State) (k : Nat) : s.dropSchedOf k = { s with ports := (s.dropSchedOf k).ports } := by
  unfold State.dropSchedOf
  split <;> rfl

theorem dropSchedOf_port (s : State) (k j : Nat) :
    (s.dropSchedOf k).port j = if j = k then (s.port j).withoutSched else s.port j := by
  unfold State.dropSchedOf
  by_cases hj : j = k
  · subst hj
    rw [if_pos rfl]
    split
    · exact State.port_setPort_self ..
    · next hnone => exact (Port.withoutSched_none _ hnone).symm
  · rw [if_neg hj]
    split
    · exact State.port_setPort_ne _ _ hj
    · rfl

theorem foldl_dropSchedOf_does (l : List Nat) (s : State) : let t := l.foldl State.dropSchedOf s
    t = { s with ports := t.ports } ∧ ∀ j, t.port j = if j ∈ l then (s.port j).withoutSched else s.port j := by
  induction l generalizing s with
  | nil => exact ⟨rfl, fun j => (if_neg List.not_mem_nil).symm⟩
  | cons k l ih =>
    obtain ⟨hframe, hports⟩ := ih (s.dropSchedOf k)
    refine ⟨hframe.trans (congrArg (fun z : State => { z with ports := (l.foldl State.dropSchedOf (s.dropSchedOf k)).ports })
      (dropSchedOf_frame s k)), fun j => (hports j).trans ?_⟩
    rw [dropSchedOf_port]
    by_cases hk : j = k <;> by_cases hl : j ∈ l <;> simp [hk, hl, Port.withoutSched_twice]

/-- A channel that neither runs nor stops does nothing in a slot (R389). -/
theorem serveChannel_idle (s : State) (r c : Nat) (h : (s.coll r c).state ≠ .running ∧ (s.coll r c).state ≠ .stopping) :
    s.serveChannel r c = s := by
  unfold State.serveChannel
  exact if_pos (Or.inl (by simp [h.1, h.2]))

theorem serveAll_idle (s : State) (h : ∀ r c, (s.coll r c).state ≠ .running ∧ (s.coll r c).state ≠ .stopping) :
    s.serveAll = s := by
  unfold State.serveAll
  refine foldl_stays _ _ _ fun r _ => foldl_stays _ _ _ fun c _ => ?_
  rw [serveChannel_idle s r c (h r c), ite_self]

/-- A slot in which no channel is at work begins with the SCHED flits of the last one dropped, and no more (R378, R380). -/
theorem slotStart_idle (s : State) (n : Nat) (h : ∀ r c, (s.coll r c).state ≠ .running ∧ (s.coll r c).state ≠ .stopping) :
    let t := s.slotStart n
    t = { s with slot := n % 64, ports := t.ports } ∧ ∀ k, k < 16 → t.port k = (s.port k).withoutSched := by
  obtain ⟨u, hu⟩ : ∃ u, u = (List.range 16).foldl State.dropSchedOf { s with slot := n % 64 } := ⟨_, rfl⟩
  obtain ⟨hframe, hports⟩ := foldl_dropSchedOf_does (List.range 16) { s with slot := n % 64 }
  rw [← hu] at hframe hports
  have hcolls : u.colls = s.colls := (congrArg State.colls hframe).trans rfl
  have hserve : s.slotStart n = u := by
    unfold State.slotStart
    rw [dropSched_ports, ← hu]
    refine serveAll_idle u fun r c => ?_
    unfold State.coll
    rw [hcolls]
    exact h r c
  dsimp only
  rw [hserve]
  exact ⟨hframe, fun k hk => (hports k).trans (if_pos (List.mem_range.2 hk))⟩

/-- Settles O42: the mark's and the adoption's operations are `markSteps` of the states named above, whose count the reports
leave, and a slot start drops SCHED flits and serves the channels. -/
theorem fretMarksAndSlotsPass : Obligations.FretMarksAndSlotsPass := by
  unfold Obligations.FretMarksAndSlotsPass
  intro s hp
  refine ⟨fun m => ?mark, fun count m hearly => ?early, fun count m ha hr => ?adopt, fun n => ⟨?slot, fun hidle => ?idle⟩⟩
  case mark =>
    refine ⟨s.noted (s.epochStarted.markSteps m s.nextCount), ?_, rfl, noted_markSteps_fret ..⟩
    rw [exec_fretMark m s rfl hp, fretMark_steps]
  case early => rw [exec_epochAdopt count m s rfl hp, epochAdopt_early s count m hearly]
  case adopt =>
    refine ⟨s.noted (s.epochStopped.epochHeld.markSteps m count), ?_, rfl, noted_markSteps_fret ..⟩
    rw [exec_epochAdopt count m s rfl hp, epochAdopt_ready s count m ha hr]
  case slot => exact exec_slotStart n s rfl hp
  case idle =>
    obtain ⟨hframe, hports⟩ := slotStart_idle s n hidle
    exact ⟨_, exec_slotStart n s rfl hp, hframe, hports⟩

end Sys2Proof.Machine

/-!
PROOFS. Uluell's state over the coherent accesses of a core's first fetch (chapter 8): none of them changes it.
-/
namespace Sys2Proof.Machine

/-! ### Homes, caches and fetches have no effect on Uluell's state -/

@[simp] theorem log_mgmt (s : State) (r st cause src addr : Nat) (d : W64) : (s.log r st cause src addr d).mgmt = s.mgmt := by
  unfold State.log; rfl

@[simp] theorem setDir_mgmt (s : State) (line : Nat) (d : Option Dir) : (s.setDir line d).mgmt = s.mgmt := by
  cases d <;> rfl

@[simp] theorem setCache_mgmt (s : State) (k line : Nat) (c : Option CLine) : (s.setCache k line c).mgmt = s.mgmt := rfl

@[simp] theorem logDiscard_mgmt (s : State) (ag : Agent) (a st : Nat) : (s.logDiscard ag a st).mgmt = s.mgmt := by
  unfold State.logDiscard; split <;> exact log_mgmt ..

@[simp] theorem logPoison_mgmt (s : State) (ag : Agent) (a : Nat) : (s.logPoison ag a).mgmt = s.mgmt := log_mgmt ..

@[simp] theorem putLine_mgmt (s : State) (line : Nat) (l : Line) : (s.putLine line l).mgmt = s.mgmt :=
  (congrArg State.mgmt (putLine_frame s line l)).trans rfl

@[simp] theorem charge_mgmt (s : State) (line : Nat) : (s.charge line).mgmt = s.mgmt :=
  (congrArg State.mgmt (charge_frame s line)).trans rfl

@[simp] theorem allocate_mgmt (s : State) (line : Nat) (dirty : Bool) : (s.allocate line dirty).mgmt = s.mgmt := by
  obtain ⟨B, hB⟩ := allocate_fill s line dirty
  exact (congrArg State.mgmt hB).trans ((congrArg State.mgmt (slcFill_frame _ line dirty)).trans rfl)

@[simp] theorem countServe_mgmt (s : State) (line : Nat) : (s.countServe line).mgmt = s.mgmt :=
  (congrArg State.mgmt (patLookup_frame s (line * 128))).trans rfl

@[simp] theorem countPoison_mgmt (s : State) (line : Nat) (l : Line) : (s.countPoison line l).mgmt = s.mgmt :=
  (congrArg State.mgmt (countPoison_frame s line l)).trans rfl

@[simp] theorem clearCopyValid_mgmt (s : State) (a : Nat) : (s.clearCopyValid a).mgmt = s.mgmt :=
  (congrArg State.mgmt (clearCopy_frame s a)).trans rfl

@[simp] theorem homeStore_mgmt (s : State) (ag : Agent) (line : Nat) (l : Line) : (s.homeStore ag line l).mgmt = s.mgmt := by
  unfold State.homeStore
  dsimp only
  split <;> simp

@[simp] theorem serveHome_mgmt (s : State) (k line : Nat) (st : CState) : (s.serveHome k line st).mgmt = s.mgmt := by
  simp [State.serveHome, State.fill]

@[simp] theorem serveC2C_mgmt (s : State) (k line : Nat) (st : CState) (l : Line) : (s.serveC2C k line st l).mgmt = s.mgmt := by
  simp [State.serveC2C, State.fill]

@[simp] theorem finishUnique_mgmt (s : State) (k line : Nat) (fwd : Option (Line × Bool)) :
    (s.finishUnique k line fwd).mgmt = s.mgmt := by
  unfold State.finishUnique
  cases fwd <;> simp

/-- Whatever a transaction does as it completes, it does to the line, its holders and the counters (Table 8.2). -/
@[simp] theorem complete_mgmt (s : State) (t : Txn) : (s.complete t).mgmt = s.mgmt := by
  unfold State.complete
  dsimp only
  cases t.req with
  | readShared k =>
    cases t.fwd with
    | none => simp [apply_ite State.mgmt]
    | some x => simp [apply_ite State.mgmt]
  | readUnique k => exact finishUnique_mgmt ..
  | upgrade k =>
    dsimp only
    split
    · simp [apply_ite State.mgmt]
    · exact finishUnique_mgmt ..
  | writeBack k =>
    dsimp only
    split
    · split <;> simp
    · rfl
  | cleanEvict k =>
    dsimp only
    split
    · split <;> simp
    · rfl
  | eRead p =>
    dsimp only
    rw [countPoison_mgmt, countServe_mgmt, charge_mgmt]
    split <;> simp
  | eWrite p d => simp
  | eMasked p d m =>
    dsimp only
    rw [homeStore_mgmt, countServe_mgmt, charge_mgmt, setDir_mgmt]
    split <;> simp
  | eAtomic p off size op v =>
    simp only [apply_ite State.mgmt, logPoison_mgmt, homeStore_mgmt, countPoison_mgmt, countServe_mgmt, charge_mgmt, setDir_mgmt,
      ite_self]
    split <;> simp
  | backInval =>
    dsimp only
    rw [setDir_mgmt]
    split <;> split <;> simp

@[simp] theorem startFirst_mgmt (s : State) (line n : Nat) : (s.startFirst line n).mgmt = s.mgmt := by
  induction n generalizing s with
  | zero => rfl
  | succ n ih =>
    unfold State.startFirst
    split
    · split
      · rfl
      · split
        · split <;> rfl
        · dsimp only
          split
          · exact (ih _).trans (complete_mgmt ..)
          · rfl
    · rfl

theorem foldl_mgmt {α : Type} (l : List α) (f : State → α → State) (hf : ∀ s x, (f s x).mgmt = s.mgmt) (s : State) :
    (l.foldl f s).mgmt = s.mgmt := by
  induction l generalizing s with
  | nil => rfl
  | cons x l ih => exact (ih (f s x)).trans (hf s x)

@[simp] theorem startAll_mgmt (s : State) (n : Nat) : (s.startAll n).mgmt = s.mgmt := by
  induction n generalizing s with
  | zero => rfl
  | succ n ih => exact (ih _).trans (foldl_mgmt _ _ (fun s l => startFirst_mgmt s l _) s)

@[simp] theorem accept_mgmt (s : State) (line : Nat) (q : CReq) (credit : Bool) : (s.accept line q credit).mgmt = s.mgmt := by
  unfold State.accept
  rw [startAll_mgmt]
  dsimp only
  split <;> simp

@[simp] theorem answerLost_mgmt (s : State) (line : Nat) (q : CReq) : (s.answerLost line q).mgmt = s.mgmt := by
  cases q <;> simp [State.answerLost]

@[simp] theorem request_mgmt (s : State) (line : Nat) (q : CReq) : (s.request line q).mgmt = s.mgmt := by
  have hoffer : (s.offer line q).mgmt = s.mgmt := by
    unfold State.offer State.retry
    split <;> simp
  unfold State.request
  dsimp only
  split_ifs
  · rfl
  · exact answerLost_mgmt ..
  · rfl
  · rfl
  · exact hoffer

@[simp] theorem dropCopy_mgmt (s : State) (k line : Nat) : (s.dropCopy k line).mgmt = s.mgmt := by
  unfold State.dropCopy State.endReservation State.endDeferral
  dsimp only
  split <;> split <;> rfl

theorem evict_mgmt (s : State) (k line : Nat) (st : CState) : (s.evict k line st).mgmt = s.mgmt := by
  unfold State.evict
  split
  · split
    · dsimp only
      split <;> simp
    · rfl
  · rfl

theorem makeRoom_mgmt (s t : State) (k line : Nat) (victim : Option Nat) (h : s.makeRoom k line victim = some t) :
    t.mgmt = s.mgmt := by
  unfold State.makeRoom at h
  dsimp only at h
  split at h
  · cases h; rfl
  · split at h
    · cases h; rfl
    · split at h
      · cases h
      · split at h
        · cases h
        · split at h
          · cases h; exact dropCopy_mgmt ..
          · split at h
            · cases h; exact evict_mgmt ..
            · cases h

@[simp] theorem coreRequest_mgmt (s : State) (line : Nat) (q : CReq) (victim : Option Nat) :
    (s.coreRequest line q victim).mgmt = s.mgmt := by
  unfold State.coreRequest
  dsimp only
  split
  · rfl
  · split
    · split
      · exact request_mgmt ..
      · rfl
    · split
      · next u hu => exact (request_mgmt ..).trans (makeRoom_mgmt s u _ _ _ hu)
      · rfl

/-! ### A reset core's first fetch -/

/-- A hart that holds no write back: it has none in its combining buffer or write-combining buffer and does not stream. -/
structure HartQuiet (x : Hart) : Prop where
  streaming : x.streaming = false
  combine : x.combine = none
  wc : x.wc = []

/-- A trap of such a hart writes nothing out (R251). -/
theorem trap_mgmt (s : State) (h cause tval : Nat) (hq : HartQuiet (s.hart h)) : (s.trap h cause tval).mgmt = s.mgmt := by
  obtain ⟨u, hu⟩ : ∃ u, u = (s.endReservation h).waitFor h (.trap cause tval) := ⟨_, rfl⟩
  have hmgmt : u.mgmt = s.mgmt := by rw [hu]; rfl
  have hhart : u.hart h = { s.hart h with wait := .trap cause tval } := by
    rw [hu]
    exact State.hart_setHart_self ..
  unfold State.trap
  rw [State.leaveStreaming_idle s h hq.streaming hq.combine]
  dsimp only
  split
  · rfl
  · rw [← hu]
    unfold State.trapEnter
    split
    · rw [State.leaveStreaming_idle u h (by rw [hhart]; exact hq.streaming) (by rw [hhart]; exact hq.combine),
        State.wcFlush_idle u h (by rw [hhart]; exact hq.wc)]
      dsimp only
      split <;> exact hmgmt
    · exact hmgmt

theorem icacheFill_frame (s : State) (h line : Nat) (l : Line) : let t := s.icacheFill h line l
    t = { s with icache := t.icache, freeCount := t.freeCount } := by
  obtain ⟨ways, hways⟩ : ∃ n, n = if h < 144 then 4 else 256 := ⟨_, rfl⟩
  unfold State.icacheFill
  rw [← hways]
  dsimp only
  split
  · rfl
  · split <;> rfl

theorem fetchFrom_mgmt (s : State) (h a pc : Nat) (l : Line) (hq : HartQuiet (s.hart h)) : (s.fetchFrom h a pc l).mgmt = s.mgmt := by
  unfold State.fetchFrom
  split
  · unfold State.hartPoison State.fault
    rw [trap_mgmt _ h _ _ (by rw [log_hart]; exact hq), log_mgmt]
  · rfl

theorem fill_fetchFrom_mgmt (s : State) (h line a pc : Nat) (l : Line) (hq : HartQuiet (s.hart h)) :
    ((s.icacheFill h line l).fetchFrom h a pc l).mgmt = s.mgmt := by
  obtain ⟨u, hu⟩ : ∃ u, u = s.icacheFill h line l := ⟨_, rfl⟩
  have hframe := icacheFill_frame s h line l
  rw [← hu] at hframe ⊢
  have hhart : u.hart h = s.hart h := by rw [hframe]; rfl
  rw [fetchFrom_mgmt u h a pc l (hhart ▸ hq), hframe]

/-- The first instruction of a hart that holds no write back is fetched with no word to Uluell (R491). -/
theorem coreFetch_mgmt (s : State) (h : Nat) (hq : HartQuiet (s.hart h)) : (s.coreFetch h).mgmt = s.mgmt := by
  have hmem : ∀ a pc, (s.fetchMem h a pc false).mgmt = s.mgmt := by
    intro a pc
    unfold State.fetchMem
    split <;> exact fetchFrom_mgmt s h a pc _ hq
  unfold State.coreFetch
  dsimp only
  split
  case h_1 | h_2 | h_3 =>
    split
    · exact fill_fetchFrom_mgmt s h _ _ _ _ hq
    · exact coreRequest_mgmt ..
  case h_4 | h_5 | h_6 => exact hmem _ _
  case h_7 | h_8 | h_9 => exact trap_mgmt s h _ _ hq
  case h_10 => rfl

end Sys2Proof.Machine

/-!
PROOFS. Die-to-die links, the loss of dies and regions, rejoining, and requests on a lost lateral path (R20, R493 to R499): O53.
-/
namespace Sys2Proof.Machine

/-! ### Die-to-die links (R493 to R496) -/

theorem flitCrcError_counts (s : State) (l lane : Nat) : let x := s.link l
    let n := x.errors.get 0 lane + 1
    s.flitCrcError l lane = s.setLink l { x with
      errors := x.errors.set lane n, resent := x.resent + 1,
      repair := if 16 ≤ n ∧ lane ∉ x.repair then x.repair ++ [lane] else x.repair } := by
  simp [State.flitCrcError]

theorem narrow_iff (x : Link) :
    x.narrow = true ↔ x.lanes = [] ∨ 2 * (x.lanes.filter (· != 0)).length < x.lanes.length := by
  unfold Link.narrow Link.groups
  rw [Bool.or_eq_true, decide_eq_true_iff, beq_iff_eq, or_comm]

/-- A link as both ends of a lane map exchange that agrees leave it (R495). -/
def State.exchanged (s : State) (l : Nat) (m : LaneMap) : Link :=
  { lanes := (List.zipWith (· &&& ·) m.ours m.theirs).map groupMap, resent := (s.link l).resent, lastBeat := s.now }

section LaneMaps

variable (s : State) (l : Nat) (m : LaneMap)

theorem laneMapExchange_dead (h : (s.link l).failed = true) : s.laneMapExchange l m = s := by
  unfold State.laneMapExchange
  exact if_pos h

theorem laneMapExchange_fails (h : (s.link l).failed = false) (hm : m.agree = false ∨ m.ours.length ≠ m.theirs.length) :
    s.laneMapExchange l m = if 2 ≤ (s.link l).attempts
      then (s.setLink l { s.link l with attempts := 3 }).linkDead l
      else s.setLink l { s.link l with attempts := (s.link l).attempts + 1 } := by
  unfold State.laneMapExchange
  refine (if_neg (by rw [h]; exact Bool.false_ne_true)).trans ?_
  exact if_pos (hm.imp_left fun ha => by rw [ha]; rfl)

theorem laneMapExchange_agrees (h : (s.link l).failed = false) (hm : ¬ (m.agree = false ∨ m.ours.length ≠ m.theirs.length)) :
    s.laneMapExchange l m = if (s.exchanged l m).narrow = true
      then (s.setLink l (s.exchanged l m)).linkDead l else s.setLink l (s.exchanged l m) := by
  unfold State.laneMapExchange
  refine (if_neg (by rw [h]; exact Bool.false_ne_true)).trans ?_
  exact if_neg fun hf => hm (hf.imp_left fun ha => by simpa using ha)

end LaneMaps

/-! ### The loss of a die or a region (R295, R296, R496 to R498) -/

/-- The conditions of R496 for a die. -/
theorem dieSilent_iff (s : State) (r d reason : Nat) : s.dieSilent r d reason = true ↔
    (reason = 1 ∧ (s.link (3 * r + d)).lastBeat + 1024 ≤ s.now) ∨
      (reason = 2 ∧ (s.rail r d).state = .fault) ∨ (reason = 3 ∧ (s.link (3 * r + d)).failed = true) := by
  unfold State.dieSilent
  split
  next => simp
  next => simp [State.rail]
  next => simp [State.dieLinkFailed]
  next h1 h2 h3 =>
    refine iff_of_false Bool.false_ne_true ?_
    rintro (⟨h, -⟩ | ⟨h, -⟩ | ⟨h, -⟩)
    exacts [h1 h, h2 h, h3 h]

theorem lateralDown_iff (s : State) (l : Nat) : s.lateralDown l = true ↔
    (s.link l).failed = true ∨ (s.link l).lastBeat + 1024 ≤ s.now := by
  simp [State.lateralDown]

/-- The conditions of R496 and R497 for a region. -/
theorem regionSilent_iff (s : State) (r reason : Nat) : s.regionSilent r reason = true ↔
    ((reason = 1 ∨ reason = 4) ∧ s.lateralDown (12 + r) = true ∧ s.lateralDown (12 + (r + 3) % 4) = true) ∨
      (reason = 2 ∧ (s.rail r 3).state = .fault) ∨ (reason = 5 ∧ s.reservedLost r = true) := by
  unfold State.regionSilent
  split
  next => simp
  next => simp
  next => simp [State.rail]
  next => simp
  next h1 h4 h2 h5 =>
    refine iff_of_false Bool.false_ne_true ?_
    rintro (⟨h | h, -⟩ | ⟨h, -⟩ | ⟨h, -⟩)
    exacts [h1 h, h4 h, h2 h, h5 h]

theorem dieLost_stays (s : State) (r d reason : Nat) (h : ¬ s.dieSilent r d reason = true ∨ s.dieLive r d = false) :
    s.dieLost r d reason = s := by
  unfold State.dieLost State.dieGone
  split
  · next hs => exact if_pos (by rw [h.resolve_left (not_not.2 hs)]; rfl)
  · rfl

theorem dieLost_declares (s : State) (r d reason : Nat) (hs : s.dieSilent r d reason = true) (hl : s.dieLive r d = true) :
    let u := s.loseDie r d (s.link (3 * r + d)).failed
    s.dieLost r d reason = ({ u with scrubbing := u.liveRegions } : State).declareLost r d reason := by
  unfold State.dieLost State.dieGone
  rw [if_pos hs]
  exact if_neg (by rw [hl]; exact Bool.false_ne_true)

theorem regionEvent_stays (s : State) (r reason : Nat) (h : ¬ s.regionSilent r reason = true ∨ s.regionLive r = false) :
    s.regionEvent r reason = s := by
  unfold State.regionEvent State.regionLost
  split
  · next hs => exact if_pos (by rw [h.resolve_left (not_not.2 hs)]; rfl)
  · rfl

theorem regionEvent_declares (s : State) (r reason : Nat) (hs : s.regionSilent r reason = true) (hl : s.regionLive r = true) :
    let u := (s.loseRegion r).declareLost r 3 reason
    s.regionEvent r reason = if u.mgmt.state = .run then u.enterState .degraded else u := by
  unfold State.regionEvent State.regionLost
  rw [if_pos hs]
  exact if_neg (by rw [hl]; exact Bool.false_ne_true)

/-! ### Rejoining (R499) -/

theorem rejoin_starts (s : State) (ag : Agent) (r d : Nat)
    (h : s.regionLive r = true ∧ (s.die r d).state = .lost ∧ s.scrubbing = []) :
    s.rejoin ag r d = ({ s with dies := s.dies.set (r, d) { s.die r d with state := .rejoining, linkFailed := false } } : State).setLink
      (3 * r + d) { resent := (s.link (3 * r + d)).resent } := by
  obtain ⟨hlive, hlost, hscrub⟩ := h
  unfold State.rejoin
  exact if_neg (by simp [hlive, hlost, hscrub])

theorem rejoin_refused (s : State) (ag : Agent) (r d : Nat)
    (h : ¬ (s.regionLive r = true ∧ (s.die r d).state = .lost ∧ s.scrubbing = [])) :
    s.rejoin ag r d = s.log r stSTATE 1 ag.code (MGMT_DIE_CTRL r d % 0x100000000) 0 := by
  unfold State.rejoin
  refine if_pos ?_
  rw [not_and_or, not_and_or] at h
  simpa using h

/-- A core of a die that rejoins is reset and, where it runs, fetches its first instruction from `entry`. -/
def State.rejoinCore (entry : W64) (w : State) (h : Nat) : State :=
  let w := w.updHart h fun y => { packFail := y.packFail, offline := y.packFail, pc := entry }
  if w.hartRuns h then w.coreFetch h else w

theorem rejoinCore_mgmt (entry : W64) (w : State) (h : Nat) : (w.rejoinCore entry h).mgmt = w.mgmt := by
  obtain ⟨u, hu⟩ : ∃ u, u = w.updHart h fun y => { packFail := y.packFail, offline := y.packFail, pc := entry } := ⟨_, rfl⟩
  have hmgmt : u.mgmt = w.mgmt := by rw [hu]; rfl
  have hreset : u.hart h = { packFail := (w.hart h).packFail, offline := (w.hart h).packFail, pc := entry } := by
    rw [hu]
    exact State.hart_setHart_self ..
  unfold State.rejoinCore
  rw [← hu]
  dsimp only
  split
  · refine (coreFetch_mgmt u h ?_).trans hmgmt
    rw [hreset]
    exact ⟨rfl, rfl, rfl⟩
  · exact hmgmt

/-- No core that rejoins changes the image, so each fetches from the CORE_ENTRY that the first one does. -/
theorem foldl_rejoinCore (l : List Nat) (u w : State) (h : w.mgmt = u.mgmt) :
    l.foldl (fun (w : State) j => w.rejoinCore (w64 w.mgmt.image.coreEntry) j) w =
      l.foldl (State.rejoinCore (w64 u.mgmt.image.coreEntry)) w := by
  induction l generalizing w with
  | nil => rfl
  | cons j l ih =>
    rw [List.foldl_cons, List.foldl_cons, h]
    exact ih _ ((rejoinCore_mgmt ..).trans h)

/-- The state of a die whose link has trained: LIVE, with its blocks reset (R499). -/
def State.rejoined (s : State) (r d : Nat) : State :=
  (({ s with dies := s.dies.set (r, d) { s.die r d with state := .live } } : State).setLink (3 * r + d)
    { s.link (3 * r + d) with lastBeat := s.now }).rejoinBlocks r d

/-- The cores of a core die, reset. -/
def State.coresRejoined (u : State) (r d : Nat) : State :=
  if d = 2 then ((List.range 36).map (r * 36 + ·)).foldl (State.rejoinCore (w64 u.mgmt.image.coreEntry)) u else u

section RejoinDone

variable (s : State) (r d : Nat)

/-- What the end of a rejoin asks for. -/
def State.rejoinReady : Prop :=
  (s.die r d).state = .rejoining ∧ (s.link (3 * r + d)).failed = false ∧ (s.link (3 * r + d)).lanes ≠ [] ∧
    (s.rail r d).state ≠ .fault

theorem rejoinDone_stays (h : ¬ s.rejoinReady r d) : s.rejoinDone r d = s := by
  unfold State.rejoinReady at h
  rw [not_and_or, not_and_or, not_and_or] at h
  unfold State.rejoinDone
  exact if_pos (by simpa [State.rail] using h)

theorem rejoinDone_live (h : s.rejoinReady r d) : s.rejoinDone r d =
    (((((s.rejoined r d).coresRejoined r d).logAll stOK 9 (fld r 0 ||| fld d 2)).notifyRegions).event 6
      (fld r 0 ||| fld d 2 ||| fld 1 4)) := by
  obtain ⟨hstate, hlink, hlanes, hrail⟩ := h
  have hno : ¬ ((s.die r d).state ≠ .rejoining ∨ (s.link (3 * r + d)).failed = true ∨ (s.link (3 * r + d)).lanes = [] ∨
      (s.rails.get {} (r, d)).state = .fault) := by
    rw [hlink]
    exact fun hc => hc.elim (· hstate) fun hc => hc.elim Bool.noConfusion fun hc => hc.elim hlanes hrail
  have hcores : (if d = 2 then (State.dieHarts r d).foldl (fun (w : State) j => w.rejoinCore (w64 w.mgmt.image.coreEntry) j)
      (s.rejoined r d) else s.rejoined r d) = (s.rejoined r d).coresRejoined r d := by
    unfold State.coresRejoined State.dieHarts
    split
    · exact foldl_rejoinCore _ _ _ rfl
    · rfl
  rw [← hcores]
  unfold State.rejoinDone
  exact if_neg hno

end RejoinDone

/-! ### Requests on a lost lateral path (R20, R21) -/

theorem pathChanged_iff (s : State) (edge lost : Option Nat) : s.pathChanged edge lost = true ↔
    (∃ e, edge = some e ∧ (s.link (12 + e)).failed = true) ∨ (∃ r, lost = some r ∧ r ∈ s.lostRegions) := by
  cases edge <;> cases lost <;> simp [State.pathChanged]

/-- The kind of a request is that of a flit: a write, or a read or AMO. -/
def sameKind (f : LateralFlit) (q : CReq) : Bool :=
  match q with | .eWrite .. | .eMasked .. => f.write | _ => !f.write

/-- A transaction is the request of flit `f` that the lost region had accepted. -/
def State.accepted (s : State) (f : LateralFlit) (x : Txn) : Prop :=
  x.line = f.addr / 128 ∧ x.req.engine = true ∧ sameKind f x.req = true ∧
    Machine.requester s.moduleId x.req.who = f.agent

/-- `State.accepted` as the test by which `State.dropEngineRequest` finds the transaction. -/
def State.acceptedTest (s : State) (f : LateralFlit) (x : Txn) : Bool :=
  x.line == f.addr / 128 && x.req.engine && sameKind f x.req && Machine.requester s.moduleId x.req.who == f.agent

theorem acceptedTest_iff (s : State) (f : LateralFlit) (x : Txn) : s.acceptedTest f x = true ↔ s.accepted f x := by
  simp [State.acceptedTest, State.accepted, and_assoc]

theorem dropEngineRequest_find (s : State) (f : LateralFlit) : s.dropEngineRequest f =
    match s.txns.find? (s.acceptedTest f) with
    | some t => (({ s with txns := s.txns.erase t } : State).answerLost t.line t.req).startAll 3
    | none => if f.write then s.log f.agent.region stPEER_LOST 6 f.agent.code f.addr 0 else s := rfl

theorem dropEngineRequest_done (s : State) (f : LateralFlit) (h : ∀ x ∈ s.txns, ¬ s.accepted f x) :
    s.dropEngineRequest f = if f.write then s.log f.agent.region stPEER_LOST 6 f.agent.code f.addr 0 else s := by
  have hfind : s.txns.find? (s.acceptedTest f) = none :=
    List.find?_eq_none.2 fun x hx ht => h x hx ((acceptedTest_iff s f x).1 ht)
  rw [dropEngineRequest_find, hfind]

/-- The answer of a lost region to the request of a flit: a write is recorded, a read or AMO poisoned. -/
theorem answerLost_asked (s u : State) (f : LateralFlit) (x : Txn) (h : s.accepted f x) : u.answerLost x.line x.req =
    if f.write then u.logDiscard (requester u.moduleId x.req.who) (x.line * 128) stPEER_LOST
    else { u with engineData := u.engineData.set x.req.who { data := 0, poison := BitVec.allOnes 16 } } := by
  obtain ⟨-, hengine, hkind, -⟩ := h
  cases hx : x.req with
  | eWrite p d | eMasked p d m =>
    rw [hx] at hkind
    exact (if_pos hkind).symm
  | eRead p | eAtomic p off size op v =>
    have hread : ¬ f.write = true := by simpa [hx, sameKind] using hkind
    exact (if_neg hread).symm
  | readShared k | readUnique k | upgrade k | writeBack k | cleanEvict k | backInval =>
    rw [hx] at hengine
    cases hengine

theorem answerLost_txns (s : State) (line : Nat) (q : CReq) : (s.answerLost line q).txns = s.txns := by
  cases q <;> simp [State.answerLost, State.logDiscard, State.log]

theorem startAll_none (s : State) (n : Nat) (h : s.txns = []) : s.startAll n = s :=
  startAll_started n s fun l t ht => by rw [h] at ht; cases ht

theorem dropEngineRequest_waiting (s : State) (f : LateralFlit) (x : Txn) (hs : s.txns = [x]) (h : s.accepted f x) :
    s.dropEngineRequest f = ({ s with txns := [] } : State).answerLost x.line x.req := by
  have hfind : s.txns.find? (s.acceptedTest f) = some x := by
    rw [hs]
    exact List.find?_cons_of_pos ((acceptedTest_iff s f x).2 h)
  have herase : s.txns.erase x = [] := by rw [hs]; exact List.erase_cons_head ..
  rw [dropEngineRequest_find, hfind]
  dsimp only
  rw [herase]
  exact startAll_none _ 3 (answerLost_txns ..)

/-- One flit of a path change. -/
theorem pathChange_one (s : State) (edge lost : Option Nat) (f : LateralFlit) : s.pathChange edge lost [f] =
    if lost.isNone || !f.accepted || !s.pathHit edge lost f.src f.dst then s
    else if f.write then s.dropEngineRequest f else s.lostRead f := rfl

/-- A request of an engine that a lost region had accepted, still waiting or done. -/
theorem pathChange_engine (s : State) (edge lost : Option Nat) (f : LateralFlit) (hlost : lost ≠ none) (ha : f.accepted = true)
    (hhit : s.pathHit edge lost f.src f.dst = true) (hf : f.write = true ∨ f.agent.hart = none) :
    s.pathChange edge lost [f] = s.dropEngineRequest f := by
  rw [pathChange_one, if_neg (by simp [hlost, ha, hhit])]
  split
  · rfl
  · next hw =>
    unfold State.lostRead
    rw [hf.resolve_left hw]

/-- A read or AMO of a hart that a lost region had accepted. -/
theorem pathChange_hart (s : State) (edge lost : Option Nat) (f : LateralFlit) (h : Nat) (hlost : lost ≠ none)
    (ha : f.accepted = true) (hhit : s.pathHit edge lost f.src f.dst = true) (hw : f.write = false) (hh : f.agent.hart = some h) :
    let n := f.addr / 128
    let u := (s.dropCacheRequest h n).startAll 3
    s.pathChange edge lost [f] =
      if (s.hart h).wait = .line n true ∨ (s.hart h).wait = .line n false then u.hartPoison h 5 f.addr f.addr else u := by
  rw [pathChange_one, if_neg (by simp [hlost, ha, hhit]), if_neg (by simp [hw])]
  unfold State.lostRead
  rw [hh]

theorem pathChange_stays (s : State) (edge lost : Option Nat) (fl : List LateralFlit)
    (h : ∀ f ∈ fl, lost = none ∨ f.accepted = false ∨ s.pathHit edge lost f.src f.dst = false) :
    s.pathChange edge lost fl = s := by
  unfold State.pathChange
  refine foldl_stays _ _ _ fun f hf => if_pos ?_
  rcases h f hf with hl | ha | hp
  · simp [hl]
  · simp [ha]
  · simp [hp]

/-- Settles O53: each command's operation, in the case that the clause describes, is what the lemmas above give. -/
theorem linksDiesAndRegionsAreLostAndRejoin : Obligations.LinksDiesAndRegionsAreLostAndRejoin := by
  unfold Obligations.LinksDiesAndRegionsAreLostAndRejoin
  intro s hp
  refine ⟨fun l hl => ⟨?beat, fun lane => ?crc, fun m => ?lanes⟩, fun r reason hr => ⟨fun d hd => ?die, ?region⟩,
    fun r d hr hd => ⟨fun ag hag => ?rejoin, ?done, fun h => ?late, fun h => ?notLate⟩, fun edge lost fl hedge hlost => ?path⟩
  case beat => exact exec_heartbeat l s (decide_eq_true hl) hp
  case crc => exact (exec_d2dFlitCrcError l lane s (decide_eq_true hl) hp).trans (congrArg _ (flitCrcError_counts s l lane))
  case lanes =>
    dsimp only
    rw [exec_d2dLaneMapExchange l m s (decide_eq_true hl) hp]
    refine ⟨fun h => ?_, fun h hm ha => ?_, fun h hm ha => ?_, fun h hm hn => ?_, fun h hm hn => ?_⟩
    · rw [laneMapExchange_dead s l m h]
    · rw [laneMapExchange_fails s l m h hm, if_neg (Nat.not_le.2 ha)]
    · rw [laneMapExchange_fails s l m h hm, if_pos ha]
    · rw [laneMapExchange_agrees s l m h hm, if_neg (mt (narrow_iff _).1 hn)]
      rfl
    · rw [laneMapExchange_agrees s l m h hm, if_pos ((narrow_iff _).2 hn)]
      rfl
  case die =>
    have hw : (Instr.dieLost r d reason).wf = true := Bool.and_eq_true_iff.2 ⟨decide_eq_true hr, decide_eq_true hd⟩
    dsimp only
    rw [exec_dieLost r d reason s hw hp]
    refine ⟨fun h => ?_, fun hs hl => ?_⟩
    · rw [dieLost_stays s r d reason (h.imp_left (mt (dieSilent_iff s r d reason).1))]
    · rw [dieLost_declares s r d reason ((dieSilent_iff s r d reason).2 hs) hl]
  case region =>
    dsimp only
    rw [exec_regionLost r reason s (decide_eq_true hr) hp]
    have hsilent := regionSilent_iff s r reason
    rw [lateralDown_iff, lateralDown_iff] at hsilent
    refine ⟨fun h => ?_, fun hs hl => ?_⟩
    · rw [regionEvent_stays s r reason (h.imp_left (mt hsilent.1))]
    · rw [regionEvent_declares s r reason (hsilent.2 hs) hl]
  case rejoin =>
    have hw : (Instr.rejoin ag r d).wf = true :=
      Bool.and_eq_true_iff.2 ⟨Bool.and_eq_true_iff.2 ⟨hag, decide_eq_true hr⟩, decide_eq_true hd⟩
    dsimp only
    rw [exec_rejoin ag r d s hw hp]
    exact ⟨fun h => by rw [rejoin_starts s ag r d h], fun h => by rw [rejoin_refused s ag r d h]⟩
  case done =>
    have hw : (Instr.rejoinDone r d).wf = true := Bool.and_eq_true_iff.2 ⟨decide_eq_true hr, decide_eq_true hd⟩
    exact ⟨fun h => by rw [exec_rejoinDone r d s hw hp, rejoinDone_stays s r d h],
      fun h => ⟨_, (exec_rejoinDone r d s hw hp).trans (congrArg _ (rejoinDone_live s r d h)), rfl⟩⟩
  case late =>
    have hw : (Instr.rejoinTimeout r d).wf = true := Bool.and_eq_true_iff.2 ⟨decide_eq_true hr, decide_eq_true hd⟩
    rw [exec_rejoinTimeout r d s hw hp, State.rejoinTimeout, if_pos h]
  case notLate =>
    have hw : (Instr.rejoinTimeout r d).wf = true := Bool.and_eq_true_iff.2 ⟨decide_eq_true hr, decide_eq_true hd⟩
    rw [exec_rejoinTimeout r d s hw hp, State.rejoinTimeout, if_neg h]
  case path =>
    have hw : (Instr.lateralPathChange edge lost fl).wf = true := by
      refine Bool.and_eq_true_iff.2 ⟨?_, ?_⟩
      · cases edge with
        | none => rfl
        | some e => exact decide_eq_true (hedge e rfl)
      · cases lost with
        | none => rfl
        | some r => exact decide_eq_true (hlost r rfl)
    dsimp only
    rw [exec_lateralPathChange edge lost fl s hw hp, ← pathChanged_iff s edge lost]
    refine ⟨fun h => ?_, fun h hno => ?_, fun f h _ hfl ha hmiss => ?_, fun f h hl hfl ha hhit => ⟨fun hf => ⟨?_, ?_⟩, ?_⟩⟩
    · rw [if_neg h]
    · rw [if_pos h, pathChange_stays s edge lost fl fun f hf => hno.imp_right fun hall => Or.inl (hall f hf)]
    · rw [if_pos h, hfl, pathChange_stays s edge lost [f] fun g hg => Or.inr (Or.inr (List.mem_singleton.1 hg ▸ hmiss))]
    · intro hnone
      rw [if_pos h, hfl, pathChange_engine s edge lost f hl ha hhit hf, dropEngineRequest_done s f hnone]
    · intro x hx hmine
      rw [if_pos h, hfl, pathChange_engine s edge lost f hl ha hhit hf, dropEngineRequest_waiting s f x hx hmine,
        answerLost_asked s _ f x hmine]
    · intro k hwr hk
      rw [if_pos h, hfl, pathChange_hart s edge lost f k hl ha hhit hwr hk]
      exact ⟨fun hwait => by rw [if_pos hwait], fun hwait => by rw [if_neg hwait]⟩

end Sys2Proof.Machine

/-!
PROOFS. Rows, blocks and records of the vector engine (R79, R166 to R170, R183): O19.
-/
namespace Sys2Proof.Machine

/-! ### One unit of a command's work (R183) -/

/-- A run after a unit of work: it completes with OK when it has not stopped and nothing of `total` is left. -/
def Run.closed (q : Run) (total : Nat) : Run :=
  if q.status.isNone ∧ total ≤ q.count then { q with status := some stOK } else q

theorem closed_moved (r : Run) (k total : Nat) (hs : r.status = none) :
    Run.closed { r with count := r.count + k } total =
      { r with count := r.count + k, status := if total ≤ r.count + k then some stOK else none } := by
  by_cases ht : total ≤ r.count + k
  · rw [Run.closed, if_pos ⟨Option.isNone_iff_eq_none.2 hs, ht⟩, if_pos ht]
  · rw [Run.closed, if_neg fun h => ht h.2, if_neg ht, hs]

theorem closed_stopped (r : Run) (st total : Nat) :
    Run.closed { r with status := some st } total = { r with status := some st } :=
  if_neg fun h => Bool.noConfusion h.1

/-- A state that differs from `s` in what memory holds alone, as after a unit that has written the block store. -/
def StoreOnly (s u : State) : Prop := u = { s with mem := u.mem, poison := u.poison }

theorem StoreOnly.refl (s : State) : StoreOnly s s := rfl

theorem storeWrite_storeOnly (s : State) (b off : Nat) (bs : List Byte) : StoreOnly s (s.storeWrite b off bs) := rfl

theorem putRun_storeOnly {s u : State} (hu : StoreOnly s u) (b e : Nat) (q : Run) :
    u.putRun b e q = u.setBlock b ((s.block b).setEngine e { (s.block b).engine e with
      started := ((s.block b).engine e).started.map fun p => if p.cmd.seq = q.cmd.seq then q else p }) := by
  have hblock : u.block b = s.block b := by rw [hu]; rfl
  rw [State.putRun, State.updBlock, hblock]

/-- Where no block is muted and no collective runs, a step that ends in `t` after a unit of work reports nothing: only fabric time
may move on. -/
theorem noted_putRun_quiet {s u t : State} {b e : Nat} {q : Run} (hu : StoreOnly s u) (hmuted : ∀ y ∈ s.blocks, y.2.state ≠ .muted)
    (hcolls : ∀ y ∈ s.colls, y.2.state ≠ .running)
    (ht : u.setBlock b ((s.block b).setEngine e { (s.block b).engine e with
      started := ((s.block b).engine e).started.map fun p => if p.cmd.seq = q.cmd.seq then q else p }) = t) :
    s.noted (u.putRun b e q) = { t with time := (s.noted (u.putRun b e q)).time } := by
  rw [← putRun_storeOnly hu b e q] at ht
  subst ht
  have hblocks : ∀ y ∈ u.blocks, y.2.state ≠ .muted := by rw [hu]; exact hmuted
  have hruns : ∀ y ∈ u.colls, y.2.state ≠ .running := by rw [hu]; exact hcolls
  have hev : u.evidence = s.evidence := by rw [hu]
  have hfab : u.fab = s.fab := by rw [hu]
  exact noted_same s _ (notMuted_upd u b _ hblocks (notMuted_block u b hblocks)) hruns hev hfab

/-- One unit of the command that an engine works on, with work left: the unit's effect and its run, closed. -/
theorem engineStep_one {s u : State} {b e op : Nat} {r q : Run} (check : State → Nat → Cmd → Nat)
    (unit : Nat → State → Run → State × Run) (total : Run → Nat) (hact : s.activeRun b e = some r) (hop : r.cmd.opcode = op)
    (hlt : r.count < total r) (hunit : unit b s r = (u, q)) :
    s.engineStep b e op 1 check (fun s b r n => State.workUnits (unit b) (total r) n s r) = u.putRun b e (q.closed (total r)) := by
  rw [engineStep_active s b e op 1 _ _ r hact hop, work_one _ _ s u r q (active_none s b e r hact) hlt hunit, Run.closed]

section
variable {s u : State} {b : Nat} {r q : Run} (hact : s.activeRun b 1 = some r)
include hact

theorem vecReduce_one (hop : r.cmd.opcode = 0x43) (hlt : r.count < r.cmd.nRows) (hunit : s.reduceStep b r none = (u, q)) :
    s.vecReduce b 1 none = u.putRun b 1 (q.closed r.cmd.nRows) :=
  engineStep_one checkVec (fun b s r => s.reduceStep b r none) (fun r => r.cmd.nRows) hact hop hlt hunit

theorem vecQuant_one (hop : r.cmd.opcode = 0x44) (hlt : r.count < r.cmd.n * r.cmd.nRows) (hunit : s.quantBlock b r = (u, q)) :
    s.vecQuant b 1 = u.putRun b 1 (q.closed (r.cmd.n * r.cmd.nRows)) :=
  engineStep_one State.checkQuant (fun b s r => s.quantBlock b r) (fun r => r.cmd.n * r.cmd.nRows) hact hop hlt hunit

theorem vecRaw_one (hop : r.cmd.opcode = 0x45) (hlt : r.count < r.cmd.n * r.cmd.nRows) (hunit : s.rawStep b r none = (u, q)) :
    s.vecRaw b 1 none = u.putRun b 1 (q.closed (r.cmd.n * r.cmd.nRows)) :=
  engineStep_one State.checkRaw (fun b s r => s.rawStep b r none) (fun r => r.cmd.n * r.cmd.nRows) hact hop hlt hunit

end

/-! ### A row of VE_REDUCE (R168) -/

theorem reduceStep_clean (s : State) (b : Nat) (r : Run) :
    let c := r.cmd
    let z := fmtBytes c.fmtA
    let off := c.srcA + r.count * pitchOr c.srcPitch (c.n * z)
    let zo := fmtBytes c.fmtOut
    let sum := State.reduceRow c.func ((List.range c.n).map fun k => widen c.fmtA (s.elemAt b off c.fmtA k))
    s.storePoison b off (c.n * z) = none →
    s.reduceStep b r none =
      (s.storeWrite b (c.dst + r.count * zo)
        (leBytes zo (roundFmt c.fmtOut (c.rnd true c.param r.count 0) c.sat (dec32 sum))), { r with count := r.count + 1 }) := by
  intro c z off zo sum hclean
  simp only [State.reduceStep]
  rw [hclean]

/-! ### A block of VE_QUANT_MX (R169) -/

/-- The scale byte and the 32 elements that R169 gives for FP32 values: a NaN or an infinity among them, all of them zero, or the
exponent `k` of the block. -/
def mxBlock (c : Cmd) (row e : Nat) (xs : List Nat) : Nat × List Nat :=
  match State.quantScale c.fmtOut xs with
  | none => (0xFF, List.replicate 32 0)
  | some none => (0, List.replicate 32 0)
  | some (some k) => ((k + 127).toNat, xs.mapIdx fun i v => roundFmt c.fmtOut (c.rnd false c.param row (e + i)) true
      (match dec32 v with | .fin n m j => .fin n m (j - k) | o => o))

theorem quantBlock_clean (s : State) (b : Nat) (r : Run) :
    let c := r.cmd
    let row := r.count / c.n
    let e := r.count % c.n
    let z := fmtBytes c.fmtA
    let w := fmtWidth c.fmtOut
    let off := c.srcA + row * pitchOr c.srcPitch (c.n * z) + e * z
    let out := mxBlock c row e ((List.range 32).map fun k => widen c.fmtA (s.elemAt b off c.fmtA k))
    s.storePoison b off (32 * z) = none →
    s.quantBlock b r =
      ((s.storeWrite b (c.dst + row * pitchOr c.dstPitch (c.n * w / 8) + e * w / 8) (leBytes (4 * w) (pack w out.2))).storeWrite b
        (c.aux + row * pitchOr c.dstPitch (c.n / 32) + e / 32) [BitVec.ofNat 8 out.1], { r with count := r.count + 32 }) := by
  intro c row e z w off out hclean
  have hzero (f : Nat → Nat) : ((List.range 32).map f).map (fun _ => 0) = List.replicate 32 0 := by
    rw [List.map_const', List.length_map, List.length_range]
  simp only [State.quantBlock, out, mxBlock]
  rw [hclean]
  cases State.quantScale c.fmtOut ((List.range 32).map fun k => widen c.fmtA (s.elemAt b off c.fmtA k)) with
  | none => simp only [hzero] <;> rfl
  | some scale =>
    cases scale with
    | none => simp only [hzero] <;> rfl
    | some k => rfl

/-! ### A pair of VE_RAW_COMBINE (R79) -/

/-- The block store's offset of the 32-byte record `i` of an operand. -/
def Cmd.recordAt (c : Cmd) (i base pitch : Nat) : Nat := base + i / c.n * pitchOr pitch (c.n * 32) + i % c.n * 32

/-- Two clean records are combined as `rawCombine` says: the result is written, or its status stops the command. -/
theorem rawStep_clean (s : State) (b : Nat) (r : Run) :
    let c := r.cmd
    let offA := c.recordAt r.count c.srcA c.srcPitch
    let offB := c.recordAt r.count c.srcB c.srcBPitch
    let both := rawCombine (s.storeNat b offA 32) (s.storeNat b offB 32)
    s.storePoison b offA 32 = none → s.storePoison b offB 32 = none →
    s.rawStep b r none = if both.1 = stOK then
        (s.storeWrite b (c.recordAt r.count c.dst c.dstPitch) (leBytes 32 both.2), { r with count := r.count + 1 })
      else (s, { r with status := some both.1 }) := by
  intro c offA offB both hA hB
  have hsources : s.rangesPoison b [(offA, 32), (offB, 32)] = none := by simp only [State.rangesPoison, hA, hB]
  unfold State.rawStep
  dsimp only
  split
  next p hp => exact absurd (hp.symm.trans hsources) (Option.some_ne_none p)
  next => rfl

/-- Settles O19: the unit of each command on clean operands, then the run that it leaves and what the step reports. -/
theorem vectorRowsAndRecords : Obligations.VectorRowsAndRecords := by
  unfold Obligations.VectorRowsAndRecords
  intro s b r hp hb hact quiet x g c put moved row e z zo rowA offQ rec_ w
  have hs : r.status = none := active_none s b 1 r hact
  have hokB : okB b = true := decide_eq_true hb
  refine ⟨fun ⟨hmuted, hcolls⟩ hop hlt hclean => ?reduce, fun hop hlt hclean => ?quant,
    fun ⟨hmuted, hcolls⟩ hop hlt hA hB => ⟨fun hcomb => ?combined, fun hcomb => ?refused⟩⟩
  case reduce =>
    refine ⟨_, exec_veReduce b 1 none s hokB hp, ?_⟩
    rw [vecReduce_one hact hop hlt (reduceStep_clean s b r hclean), closed_moved r 1 _ hs]
    exact noted_putRun_quiet (storeWrite_storeOnly ..) hmuted hcolls rfl
  case quant =>
    rw [exec_veQuantMx b 1 s hokB hp, vecQuant_one hact hop hlt (quantBlock_clean s b r hclean), closed_moved r 32 _ hs]
    rfl
  case combined =>
    refine ⟨_, exec_veRawCombine b 1 none s hokB hp, ?_⟩
    rw [vecRaw_one hact hop hlt ((rawStep_clean s b r hA hB).trans (if_pos hcomb)), closed_moved r 1 _ hs]
    exact noted_putRun_quiet (storeWrite_storeOnly ..) hmuted hcolls rfl
  case refused =>
    refine ⟨_, exec_veRawCombine b 1 none s hokB hp, ?_⟩
    rw [vecRaw_one hact hop hlt ((rawStep_clean s b r hA hB).trans (if_neg hcomb)), closed_stopped]
    exact noted_putRun_quiet (StoreOnly.refl s) hmuted hcolls rfl

end Sys2Proof.Machine

/-!
PROOFS. Count clears (R141, R190, R218, R241, R298, R334, R369, R399, R452, R477, R503): O9.
-/
namespace Sys2Proof.Machine

/-- What a count-clear command does to a list of counters, and that it does nothing else. -/
theorem exec_countClear_clears {c : Instr} {s : State} {v : W64} {l : List Reg} (h : exec c s = .next (s.countClear v l)) :
    ∃ t, exec c s = .next t ∧ t = { s with regs := t.regs } ∧
      ∀ g, t.reg g = if v.getLsbD 0 = true ∧ g ∈ l then 0 else s.reg g :=
  ⟨_, h, (countClear_all s v l).1, (countClear_all s v l).2⟩

/-- The checks of a command of a module's agent that names one unit, or two. -/
theorem ownAgent_wf {ag : Agent} {p : Prop} [Decidable p] (hag : ag.wf = true) (hp : p) : (ag.wf && decide p) = true :=
  Bool.and_eq_true_iff.2 ⟨hag, decide_eq_true hp⟩

theorem ownAgent_wf₂ {ag : Agent} {p q : Prop} [Decidable p] [Decidable q] (hag : ag.wf = true) (hp : p) (hq : q) :
    (ag.wf && decide p && decide q) = true :=
  Bool.and_eq_true_iff.2 ⟨ownAgent_wf hag hp, decide_eq_true hq⟩

/-- Settles O9: each command is `countClear` of the counters that the model lists for its register. -/
theorem countClears : Obligations.CountClears := by
  unfold Obligations.CountClears
  intro clears s ag v hp hag
  refine ⟨fun b hb => ?mx, fun b hb => ?blk, fun r c hr hc => ?dma, fun r hr => ?watch, fun r hr => ?coh, fun r hr => ?mem,
    fun k hk => ?port, fun r hr => ?coll, fun r hr => ?kiln, ?pwr, fun r hr => ?err⟩
  case mx => exact exec_countClear_clears (exec_mxCountClear ag b v s (ownAgent_wf hag hb) hp)
  case blk => exact exec_countClear_clears (exec_blkCountClear ag b v s (ownAgent_wf hag hb) hp)
  case dma => exact exec_countClear_clears (exec_dmaChCountClear ag r c v s (ownAgent_wf₂ hag hr hc) hp)
  case watch => exact exec_countClear_clears (exec_watchCountClear ag r v s (ownAgent_wf hag hr) hp)
  case coh => exact exec_countClear_clears (exec_mgmtCohCountClear ag r v s (ownAgent_wf hag hr) hp)
  case mem => exact exec_countClear_clears (exec_mgmtMemCountClear ag r v s (ownAgent_wf hag hr) hp)
  case port => exact exec_countClear_clears (exec_fabPortCountClear ag k v s (ownAgent_wf hag hk) hp)
  case coll => exact exec_countClear_clears (exec_fabCollCountClear ag r v s (ownAgent_wf hag hr) hp)
  case kiln => exact exec_countClear_clears (exec_kilnCountClear ag r v s (ownAgent_wf hag hr) hp)
  case pwr => exact exec_countClear_clears (exec_pwrCountClear ag v s hag hp)
  case err => exact exec_countClear_clears (exec_mgmtErrCountClear ag r v s (ownAgent_wf hag hr) hp)

end Sys2Proof.Machine

/-!
PROOFS. Matrix commands leave queue 0 (R95, R101 to R104, R135 to R138): O10.
-/
namespace Sys2Proof.Machine

/-! ### What the front of queue 0 becomes -/

/-- The block after the front of queue 0 has left it and become the run `q`, `rest` behind it. -/
def Block.took (x : Block) (rest : List Cmd) (q : Run) : Block :=
  x.setEngine 0 { x.engine 0 with hw := rest, started := (x.engine 0).started ++ [q] }

@[simp] theorem took_engine (x : Block) (rest : List Cmd) (q : Run) :
    (x.took rest q).engine 0 = { x.engine 0 with hw := rest, started := (x.engine 0).started ++ [q] } := Block.engine_set ..

theorem startRun_took {s : State} {b : Nat} {c : Cmd} {rest : List Cmd} (q : Run) (hhw : ((s.block b).engine 0).hw = c :: rest) :
    s.startRun b 0 q = s.setBlock b ((s.block b).took rest q) := by
  unfold State.startRun State.updBlock Block.took
  dsimp only
  rw [hhw, List.drop_one, List.tail_cons]

/-- The status with which a command is started: that of its acceptance checks, or of its target (R45). -/
def Cmd.startStatus (c : Cmd) (st : Nat) : Option Nat := if st ≠ stOK then some st else c.late

theorem startStatus_refused {c : Cmd} {st : Nat} (h : st ≠ stOK) : c.startStatus st = some st := if_pos h

@[simp] theorem startStatus_ok (c : Cmd) : c.startStatus stOK = c.late := if_neg (not_not.2 rfl)

theorem takeHead_took {s : State} {b : Nat} {c : Cmd} {rest : List Cmd} (st : Nat) (hhw : ((s.block b).engine 0).hw = c :: rest) :
    s.takeHead b 0 c st = s.setBlock b ((s.block b).took rest { cmd := c, status := c.startStatus st }) :=
  startRun_took _ hhw

/-- The array after its block has taken an MX_LOAD: an accepted load counts, and makes SHADOW LOADING unless its target is gone. -/
def Array.tookLoad (a : Array) (x : Block) (c : Cmd) : Array :=
  if checkLoad x c = stOK then
    { a with loads := a.loads + 1, shadowState := if c.late = none then .loading else a.shadowState }
  else a

/-- The status with which an MX_SWAP is started. -/
def swapStart (x : Block) (c : Cmd) : Option Nat :=
  if x.array.shadowState = .empty then some stSTATE
  else if c.headerBad false = true ∨ c.f 16 383 0 ≠ 0 then some stRANGE else c.late

/-- The run that an MX_STREAM becomes: an accepted one takes the sizes and the kind of ACTIVE (R103), and one of no rows is complete
(R138). -/
def streamStart (x : Block) (c : Cmd) : Run :=
  if checkStream x c = stOK ∧ c.late = none then
    { cmd := c, kind := kindNum x.array.active.kind, kRows := x.array.active.kRows, nCols := x.array.active.nCols,
      status := if c.rows = 0 then some stOK else none }
  else { cmd := c, status := c.startStatus (checkStream x c) }

/-- An MX_STREAM waits for the rows of earlier streams, and for every earlier swap, seed and drain (R102, R135). -/
def streamMayStart (q : Run) : Prop :=
  q.cmd.opcode = 0x20 ∨ (q.cmd.opcode = 0x22 ∧ (q.stopping.isSome = true ∨ q.cmd.rows ≤ q.fed))

theorem swapStart_checks (x : Block) (c : Cmd) : c.startStatus (firstCode [(x.array.shadowState == .empty, stSTATE),
    (c.headerBad false || c.f 16 383 0 != 0, stRANGE)]) = swapStart x c := by
  unfold swapStart
  by_cases hempty : x.array.shadowState = .empty
  · simp [firstCode, hempty, startStatus_refused (show stSTATE ≠ stOK by decide)]
  · by_cases hbad : c.headerBad false = true ∨ c.f 16 383 0 ≠ 0
    · simp [firstCode, hempty, hbad, startStatus_refused (show stRANGE ≠ stOK by decide)]
    · simp [firstCode, hempty, hbad]

section
variable {s : State} {b : Nat} {c : Cmd} {rest : List Cmd} (hhw : ((s.block b).engine 0).hw = c :: rest)
  (htake : s.canTake b 0 c = true)
include hhw htake

theorem mxLoad_takes (hop : c.opcode = 0x20) : s.mxLoad b = s.setBlock b
    { (s.block b).took rest { cmd := c, status := c.startStatus (checkLoad (s.block b) c) } with
        array := (s.block b).array.tookLoad (s.block b) c } := by
  unfold State.mxLoad
  rw [hhw]
  dsimp only
  rw [if_pos ⟨hop, htake⟩, takeHead_took _ hhw, Array.tookLoad]
  by_cases hst : checkLoad (s.block b) c = stOK
  · rw [if_pos hst, if_pos hst, updArray_setBlock]
    cases hlate : c.late with
    | none =>
      rw [if_neg (by decide), updArray_setBlock, if_pos rfl]
      rfl
    | some st => rfl
  · rw [if_neg hst, if_neg hst]
    rfl

theorem mxSwap_takes (hop : c.opcode = 0x21) :
    s.mxSwap b = s.setBlock b ((s.block b).took rest { cmd := c, status := swapStart (s.block b) c }) := by
  unfold State.mxSwap
  rw [hhw]
  dsimp only
  rw [if_pos ⟨hop, htake⟩, takeHead_took _ hhw, swapStart_checks]

theorem mxStream_takes (hop : c.opcode = 0x22) (hfree : ∀ q ∈ s.mxRunning b, streamMayStart q) :
    s.mxStream b = s.setBlock b ((s.block b).took rest (streamStart (s.block b) c)) := by
  have hall : ((s.mxRunning b).all fun q =>
      q.cmd.opcode == 0x20 || (q.cmd.opcode == 0x22 && (q.stopping.isSome || decide (q.cmd.rows ≤ q.fed)))) = true := by
    simpa [streamMayStart] using hfree
  unfold State.mxStream
  rw [hhw]
  dsimp only
  rw [if_pos ⟨hop, htake, hall⟩, streamStart]
  by_cases hrun : checkStream (s.block b) c = stOK ∧ c.late = none
  · rw [if_pos hrun, if_pos hrun, startRun_took _ hhw]
  · rw [if_neg hrun, if_neg hrun, takeHead_took _ hhw]

end

/-! ### The runs that are started -/

theorem loadStatus_eq (x : Block) (c : Cmd) :
    c.startStatus (checkLoad x c) = if checkLoad x c = stOK then c.late else some (checkLoad x c) := ite_not ..

theorem streamStart_run (x : Block) (c : Cmd) :
    (streamStart x c).cmd = c ∧ (streamStart x c).count = 0 ∧ (streamStart x c).fed = 0 := by
  unfold streamStart
  split <;> exact ⟨rfl, rfl, rfl⟩

theorem streamStart_status (x : Block) (c : Cmd) : (streamStart x c).status =
    if checkStream x c ≠ stOK then some (checkStream x c) else if c.late.isSome then c.late
      else if c.rows = 0 then some stOK else none := by
  unfold streamStart Cmd.startStatus
  by_cases hst : checkStream x c = stOK
  · cases hlate : c.late with
    | none => simp [hst]
    | some st => simp [hst]
  · simp [hst]

/-- A stream that neither a check nor its target stops is started with what ACTIVE holds. -/
theorem streamStart_running (x : Block) (c : Cmd) (h : (streamStart x c).status = none) :
    (streamStart x c).kRows = x.array.active.kRows ∧ (streamStart x c).nCols = x.array.active.nCols ∧
      (streamStart x c).kind = kindNum x.array.active.kind := by
  unfold streamStart at h ⊢
  split
  next => exact ⟨rfl, rfl, rfl⟩
  next hrefused =>
    rw [if_neg hrefused] at h
    by_cases hst : checkStream x c = stOK
    · have hlate : c.late = none := by simpa [Cmd.startStatus, hst] using h
      exact absurd ⟨hst, hlate⟩ hrefused
    · simp [Cmd.startStatus, hst] at h

/-- Settles O10: each command is taken as the lemmas above say, and the state is the old one with that block. -/
theorem matrixCommandsAreTaken : Obligations.MatrixCommandsAreTaken := by
  unfold Obligations.MatrixCommandsAreTaken
  intro s b c rest hp hb hhw htake x swapStatus
  have hok : okB b = true := decide_eq_true hb
  refine ⟨fun hop => ?load, fun hop => ?swap, fun hop hfree => ?stream⟩
  case load =>
    obtain ⟨hframe, hblock⟩ := block_form (mxLoad_takes hhw htake hop)
    refine ⟨_, exec_mxLoad b s hok hp, hframe, ?_⟩
    rw [hblock, loadStatus_eq]
    exact ⟨rfl, took_engine .., rfl⟩
  case swap =>
    obtain ⟨hframe, hblock⟩ := block_form (mxSwap_takes hhw htake hop)
    refine ⟨_, exec_mxSwap b s hok hp, hframe, ?_⟩
    rw [hblock]
    exact ⟨rfl, took_engine ..⟩
  case stream =>
    obtain ⟨hframe, hblock⟩ := block_form (mxStream_takes hhw htake hop hfree)
    obtain ⟨hcmd, hcount, hfed⟩ := streamStart_run x c
    refine ⟨_, streamStart x c, exec_mxStream b s hok hp, hframe, ?_⟩
    rw [hblock]
    exact ⟨rfl, took_engine .., hcmd, hcount, hfed, streamStart_status x c, streamStart_running x c⟩

end Sys2Proof.Machine

/-!
PROOFS. The load path, the end of a load and the swap cycle (R93 to R100, R127, R139): O11.
-/
namespace Sys2Proof.Machine

/-! ### Parity of the registers that the load path writes (R93) -/

theorem evenParity_mod {n m : Nat} (v : Nat) (h : n ≤ m) : evenParity n (v % 2 ^ m) = evenParity n v := by
  unfold evenParity
  refine List.foldl_ext _ _ _ fun p i hi => ?_
  have him : i < m := (List.mem_range.1 hi).trans_le h
  rw [Nat.testBit_mod_two_pow, decide_eq_true him, Bool.true_and]

theorem cellWrite_sound (v : Nat) : (CellReg.write v).sound = true := by
  have hdata : BitVec.ofNat 16 (v % 2 ^ 16) = BitVec.ofNat 16 v := BitVec.eq_of_toNat_eq (by simp)
  have hhigh : v % 2 ^ 16 / 256 = v / 256 % 2 ^ 8 := Nat.mod_mul_right_div_self v 256 256
  unfold CellReg.sound
  rw [beq_iff_eq]
  show CellReg.write v = CellReg.write (v % 2 ^ 16)
  unfold CellReg.write
  rw [hdata, hhigh, evenParity_mod v (by decide), evenParity_mod (v / 256) (le_refl 8)]

theorem bridgeWrite_sound (v : Nat) : (BridgeReg.write v).sound = true := beq_self_eq_true _

theorem getD_of_forall {α : Type} {P : α → Prop} {l : List α} {d : α} (hd : P d) (h : ∀ x ∈ l, P x) (i : Nat) :
    P (l.getD i d) := by
  by_cases hi : i < l.length
  · rw [List.getD_eq_getElem _ _ hi]
    exact h _ (List.getElem_mem hi)
  · rw [List.getD_eq_default _ _ (not_lt.1 hi)]
    exact hd

/-- Every register of a list of cell rows has the right parity. -/
def soundCells (cells : List (List CellReg)) : Prop := ∀ row ∈ cells, ∀ c ∈ row, c.sound = true

theorem soundCells_at {cells : List (List CellReg)} (h : soundCells cells) (i j : Nat) :
    ((cells.getD i []).getD j {}).sound = true := by
  have hrow : ∀ c ∈ cells.getD i [], c.sound = true :=
    getD_of_forall (P := fun row => ∀ c ∈ row, CellReg.sound c = true) (fun c hc => absurd hc List.not_mem_nil) h i
  exact getD_of_forall (P := fun c => CellReg.sound c = true) (by decide) hrow j

theorem badParity_sound (t : Tile) (hcells : soundCells t.cells) (hbridge : ∀ c ∈ t.bridge, c.sound = true) : t.badParity = none := by
  have hcell (i : Nat) : ((List.range t.nCols).find? fun j => !((t.cells.getD i []).getD j {}).sound) = none :=
    List.find?_eq_none.2 fun j _ => by rw [soundCells_at hcells i j]; decide
  have hall : (t.bridge.take t.kRows).all (·.sound) = true :=
    List.all_eq_true.2 fun c hc => hbridge c (List.mem_of_mem_take hc)
  unfold Tile.badParity
  by_cases hno : t.kRows = 0 ∨ t.nCols = 0
  · exact if_pos hno
  · rw [if_neg hno, List.findSome?_eq_none_iff.2 fun i _ => hcell i]
    exact if_pos hall

/-! ### What the cell rows of a tile hold (R90, R93) -/

/-- A cell row written with one value for each of `n` columns. -/
def cellRow (n : Nat) (v : Nat → Nat) : List CellReg := (List.range n).map fun j => CellReg.write (v j)

theorem cellRow_at {n j : Nat} (v : Nat → Nat) (hj : j < n) : (cellRow n v).getD j {} = CellReg.write (v j) := by
  rw [cellRow, List.getD_eq_getElem _ _ (by simpa using hj), List.getElem_map, List.getElem_range]

theorem cellRow_sound (n : Nat) (v : Nat → Nat) : ∀ c ∈ cellRow n v, c.sound = true := by
  intro c hc
  obtain ⟨j, -, rfl⟩ := List.mem_map.1 hc
  exact cellWrite_sound _

theorem cellRows_sound (f n : Nat) (rows : List (List Nat)) : soundCells (cellRows f n rows) := by
  induction rows using cellRows.induct f with
  | case1 => exact fun row hrow => absurd hrow List.not_mem_nil
  | case2 a => exact List.forall_mem_singleton.2 (cellRow_sound n _)
  | case3 a b rest hpair ih =>
    rw [cellRows, if_pos hpair]
    exact List.forall_mem_cons.2 ⟨cellRow_sound n _, ih⟩
  | case4 a b rest hone ih =>
    rw [cellRows, if_neg hone]
    exact List.forall_mem_cons.2 ⟨cellRow_sound n _, ih⟩

/-- Outside the 4-bit modes each row of elements has a cell row of its own. -/
theorem cellRows_wide {f : Nat} (n : Nat) (rows : List (List Nat)) (hone : ¬ rowsPerCell f = 2) :
    cellRows f n rows = rows.map fun a => cellRow n fun j => a.getD j 0 := by
  induction rows using cellRows.induct f with
  | case1 => rfl
  | case2 a => rfl
  | case3 a b rest hpair ih => exact absurd hpair hone
  | case4 a b rest _ ih =>
    rw [cellRows, if_neg hone, ih]
    rfl

/-- In the 4-bit modes rows 2i and 2i + 1 share cell row i. -/
theorem cellRows_packed {f : Nat} (n : Nat) (rows : List (List Nat)) (hpair : rowsPerCell f = 2) {k : Nat} (hk : k < rows.length) :
    (cellRows f n rows).getD (k / 2) [] =
      cellRow n fun j => (rows.getD (k / 2 * 2) []).getD j 0 + 16 * (rows.getD (k / 2 * 2 + 1) []).getD j 0 := by
  induction rows using cellRows.induct f generalizing k with
  | case1 => exact absurd hk (Nat.not_lt_zero k)
  | case2 a =>
    obtain rfl : k = 0 := Nat.lt_one_iff.1 hk
    rfl
  | case3 a b rest _ ih =>
    rw [cellRows, if_pos hpair]
    match k, hk with
    | 0, _ => rfl
    | 1, _ => rfl
    | k + 2, hk =>
      have hhalf : (k + 2) / 2 = k / 2 + 1 := Nat.add_div_right k (by decide)
      have hrest := ih (Nat.lt_of_add_lt_add_right (n := 2) hk)
      rw [hhalf, Nat.succ_mul]
      exact hrest
  | case4 a b rest hone ih => exact absurd hpair hone

theorem rowsPerCell_cases (f : Nat) : (fmtWidth f = 4 ∧ rowsPerCell f = 2) ∨ rowsPerCell f = 1 := by
  unfold rowsPerCell
  split
  next h => exact .inl ⟨h, rfl⟩
  next => exact .inr rfl

theorem low_nibble {lo : Nat} (hi : Nat) (hlo : lo < 16) : (lo + 16 * hi) % 2 ^ 16 / 16 ^ 0 % 16 = lo := by omega

theorem high_nibble {lo hi : Nat} (hlo : lo < 16) (hhi : hi < 16) : (lo + 16 * hi) % 2 ^ 16 / 16 ^ 1 % 16 = hi := by omega

/-- A tile whose cells hold rows of elements that fit their format gives these elements back. -/
theorem elem_cellRows (t : Tile) (rows : List (List Nat)) (hcells : t.cells = cellRows t.format t.nCols rows)
    (hwidth : fmtWidth t.format ≤ 16) (hfit : ∀ i j, (rows.getD i []).getD j 0 < 2 ^ fmtWidth t.format)
    {k j : Nat} (hk : k < rows.length) (hj : j < t.nCols) : t.elem k j = (rows.getD k []).getD j 0 := by
  unfold Tile.elem
  rw [hcells]
  rcases rowsPerCell_cases t.format with ⟨hw, hpair⟩ | hone
  · rw [hw] at hfit
    rw [hpair, if_pos rfl, cellRows_packed t.nCols rows hpair hk, cellRow_at _ hj, CellReg.write, BitVec.toNat_ofNat]
    rcases Nat.mod_two_eq_zero_or_one k with hpar | hpar
    · have hrow : k / 2 * 2 = k := by omega
      rw [hpar, hrow]
      exact low_nibble _ (hfit k j)
    · have hrow : k / 2 * 2 + 1 = k := by omega
      rw [hpar, hrow]
      exact high_nibble (hfit (k / 2 * 2) j) (hfit k j)
  · have hnot : ¬ rowsPerCell t.format = 2 := by rw [hone]; decide
    have h16 : (rows.getD k []).getD j 0 < 2 ^ 16 := (hfit k j).trans_le (Nat.pow_le_pow_right (by decide) hwidth)
    have hrow : (rows.map fun a => cellRow t.nCols fun j => a.getD j 0).getD k [] = cellRow t.nCols fun j => (rows.getD k []).getD j 0 := by
      rw [List.getD_eq_getElem _ _ (by simpa using hk), List.getElem_map, List.getD_eq_getElem _ _ hk]
    rw [hone, if_neg (by decide), Nat.div_one, cellRows_wide _ _ hnot, hrow, cellRow_at _ hj, CellReg.write, BitVec.toNat_ofNat,
      Nat.mod_eq_of_lt h16, Nat.mod_eq_of_lt (hfit k j)]

theorem stationaryOk_width {mode f : Nat} (h : stationaryOk mode f = true) : fmtWidth f ≤ 16 := by
  have hrange : 1 ≤ f ∧ f ≤ 15 := by
    simp only [stationaryOk, isNarrow, isMx] at h
    split at h <;> simp at h <;> omega
  obtain ⟨hlo, hhi⟩ := hrange
  interval_cases f <;> decide

/-! ### The tile that a load reads (R98, R99) -/

theorem storeRow_at_lt (s : State) (b off f n j : Nat) : (s.storeRow b off f n).getD j 0 < 2 ^ fmtWidth f := by
  refine getD_of_forall (P := fun v => v < 2 ^ fmtWidth f) (Nat.two_pow_pos _) (fun v hv => ?_) j
  obtain ⟨i, -, rfl⟩ := List.mem_map.1 hv
  exact Nat.mod_lt _ (Nat.two_pow_pos _)

theorem storeRow_columns (s : State) (b off f n : Nat) :
    ((List.range n).map fun j => (s.storeRow b off f n).getD j 0) = s.storeRow b off f n := by
  refine List.map_congr_left fun j hj => ?_
  have hlen : j < (s.storeRow b off f n).length := by simpa [State.storeRow, unpack] using hj
  rw [List.getD_eq_getElem _ _ hlen]
  simp [State.storeRow, unpack]

/-- The rows of elements that an MX_LOAD reads. -/
def State.loadRows (s : State) (b : Nat) (c : Cmd) : List (List Nat) :=
  (List.range (c.f 26 15 0)).map fun k => s.storeRow b (State.tileRow c k) (c.f 31 4 0) (c.f 28 15 0)

/-- The offsets of the scale rows of an MX_LOAD, and with each the row that a poisoned one names. -/
def scaleRows (c : Cmd) : List (Nat × Nat) :=
  (List.range (if isMx (c.f 31 4 0) then ceilDiv (c.f 26 15 0) 32 else 0)).map fun i => (c.f 26 15 0, c.f 20 31 0 + i * 128)

/-- The first poisoned operand byte of an MX_LOAD (R139). -/
def State.loadPoison (s : State) (b : Nat) (c : Cmd) : Option (Nat × Nat) :=
  (s.firstPoisonRow b (rowBytes (c.f 31 4 0) (c.f 28 15 0)) ((List.range (c.f 26 15 0)).map fun i => (i, State.tileRow c i))).orElse
    fun _ => s.firstPoisonRow b (c.f 28 15 0) (scaleRows c)

/-- The tile that a load places in SHADOW, with its bridge column. -/
def State.loadTile (s : State) (b : Nat) (c : Cmd) : Tile :=
  Tile.bridged { id := c.seq + 1, mode := c.f 30 7 0, format := c.f 31 4 0, kRows := c.f 26 15 0, nCols := c.f 28 15 0,
                 cells := cellRows (c.f 31 4 0) (c.f 28 15 0) (s.loadRows b c),
                 scales := (scaleRows c).map fun x => (s.rdBytes (storeBase b + x.2) (c.f 28 15 0)).map (·.toNat),
                 loads := (s.block b).array.loads - 1 }

theorem loadTile_badParity (s : State) (b : Nat) (c : Cmd) : (s.loadTile b c).badParity = none := by
  refine badParity_sound _ (cellRows_sound _ _ _) fun q hq => ?_
  obtain ⟨k, -, rfl⟩ := List.mem_map.1 hq
  exact bridgeWrite_sound _

theorem loadTile_elems (s : State) (b : Nat) (c : Cmd) (hok : stationaryOk (c.f 30 7 0) (c.f 31 4 0) = true) :
    (s.loadTile b c).elems = s.loadRows b c := by
  have hrow (k : Nat) (hk : k < c.f 26 15 0) :
      (s.loadRows b c).getD k [] = s.storeRow b (State.tileRow c k) (c.f 31 4 0) (c.f 28 15 0) := by
    rw [State.loadRows, List.getD_eq_getElem _ _ (by simpa using hk), List.getElem_map, List.getElem_range]
  have hfit (i j : Nat) : ((s.loadRows b c).getD i []).getD j 0 < 2 ^ fmtWidth (c.f 31 4 0) := by
    refine getD_of_forall (P := fun row : List Nat => row.getD j 0 < 2 ^ fmtWidth (c.f 31 4 0)) (Nat.two_pow_pos _)
      (fun row hmem => ?_) i
    obtain ⟨k, -, rfl⟩ := List.mem_map.1 hmem
    exact storeRow_at_lt ..
  refine List.map_congr_left fun k hk => ?_
  have hlt : k < c.f 26 15 0 := List.mem_range.1 hk
  rw [← storeRow_columns, ← hrow k hlt]
  refine List.map_congr_left fun j hj => ?_
  exact elem_cellRows (s.loadTile b c) (s.loadRows b c) rfl (stationaryOk_width hok) hfit (by simpa [State.loadRows] using hlt)
    (List.mem_range.1 hj)

/-! ### The load path and the end of a load (R97, R99, R100, R139) -/

theorem mxLoadPathStart_waits {s : State} {b : Nat} {r : Run} (hr : s.loadRun b false = some r)
    (hneeded : ∃ g ∈ (s.block b).array.groups, g.tile.id = (s.block b).array.shadow.id ∧ g.state = .feeding) :
    s.mxLoadPathStart b = s := by
  unfold State.mxLoadPathStart
  rw [hr]
  exact if_pos (by simpa using hneeded)

theorem mxLoadPathStart_starts {s : State} {b : Nat} {r : Run} (hr : s.loadRun b false = some r)
    (hfree : ∀ g ∈ (s.block b).array.groups, ¬ (g.tile.id = (s.block b).array.shadow.id ∧ g.state = .feeding)) :
    s.mxLoadPathStart b = (s.mxPut b { r with writing := true, free := s.freeCount }).nextFree := by
  unfold State.mxLoadPathStart
  rw [hr]
  exact if_neg (by simpa using hfree)

theorem mxLoadDone_clean {s : State} {b : Nat} {r : Run} (hr : s.loadRun b true = some r) (hclean : s.loadPoison b r.cmd = none) :
    s.mxLoadDone b = (s.mxPut b { r with status := some stOK, count := r.cmd.f 26 15 0 }).updArray b fun a =>
      { a with shadow := s.loadTile b r.cmd, shadowState := .ready } := by
  unfold State.mxLoadDone
  rw [hr]
  dsimp only
  split
  next p hp => exact absurd (hp.symm.trans hclean) (Option.some_ne_none _)
  next =>
    unfold State.loadTile State.loadRows
    rw [List.map_map]
    rfl

theorem mxLoadDone_poisoned {s : State} {b i off : Nat} {r : Run} (hr : s.loadRun b true = some r)
    (hpoison : s.loadPoison b r.cmd = some (i, off)) :
    s.mxLoadDone b = ((s.poisonLog b off).mxPut b { r with status := some stPOISON, count := i, detail := w64 off }).updArray b fun a =>
      { a with shadowState := .empty } := by
  unfold State.mxLoadDone
  rw [hr]
  dsimp only
  split
  next j p hp =>
    obtain ⟨rfl, rfl⟩ := Prod.mk.inj (Option.some.inj (hp.symm.trans hpoison))
    rfl
  next hp => exact absurd (hpoison.symm.trans hp) (Option.some_ne_none _)

/-! ### The swap cycle (R96, Table 3.2) -/

section
variable {s : State} {b : Nat} {r : Run} (hr : (s.mxRunning b).find? (fun q => q.cmd.opcode == 0x21) = some r)
  (hfed : ∀ q ∈ s.mxRunning b, q.cmd.opcode ≠ 0x22 ∨ r.cmd.seq < q.cmd.seq ∨ q.stopping.isSome = true ∨ q.cmd.rows ≤ q.fed)
  (hreplays : ∀ g ∈ (s.block b).array.groups, ¬ (g.replay = true ∧ g.state = .feeding))
include hr hfed hreplays

/-- With every earlier row fed and no replay due, the swap is decided by SHADOW alone. -/
theorem mxSwapCycle_decides :
    ((s.block b).array.shadowState = .loading → s.mxSwapCycle b = s) ∧
    ((s.block b).array.shadowState = .empty → s.mxSwapCycle b = s.mxPut b { r with status := some stSTATE }) ∧
    ((s.block b).array.shadowState = .ready → s.mxSwapCycle b = (s.mxPut b { r with status := some stOK }).updArray b fun a =>
      { a with active := a.shadow, shadow := a.active, activeValid := true,
               shadowState := if a.activeValid then .ready else .empty }) := by
  have hall : ((s.mxRunning b).all fun q => q.cmd.opcode ≠ 0x22 || decide (r.cmd.seq < q.cmd.seq) || q.stopping.isSome ||
      decide (q.cmd.rows ≤ q.fed)) = true := by
    simpa [or_assoc] using hfed
  have hnone : ((s.block b).array.groups.any fun g => g.replay && g.state == .feeding) = false := by
    simpa using hreplays
  unfold State.mxSwapCycle
  rw [hr]
  dsimp only
  rw [hall, hnone, if_neg (by decide)]
  exact ⟨fun h => by rw [h], fun h => by rw [h], fun h => by rw [h]⟩

end

/-- Settles O11: the operations above, on the block of the state, with the tile that the load has read. -/
theorem matrixTilesLoadAndSwap : Obligations.MatrixTilesLoadAndSwap := by
  unfold Obligations.MatrixTilesLoadAndSwap
  intro s b r hp hb x put tileRows scaleRows poisoned
  have hok : okB b = true := decide_eq_true hb
  refine ⟨fun hr => ⟨fun hneeded => ?waits, fun hfree => ?starts⟩, fun hr hclean hfmt => ?done, fun i off hr hpoison => ?poison,
    fun hr hfed hreplays => ?swap⟩
  case waits => rw [exec_mxLoadPathStart b s hok hp, mxLoadPathStart_waits hr hneeded]
  case starts =>
    rw [exec_mxLoadPathStart b s hok hp, mxLoadPathStart_starts hr hfree]
    rfl
  case done =>
    refine ⟨_, s.loadTile b r.cmd, exec_mxLoadDone b s hok hp, ?_, rfl, rfl, rfl, rfl, rfl, loadTile_badParity s b r.cmd,
      loadTile_elems s b r.cmd hfmt⟩
    rw [mxLoadDone_clean hr hclean, mxPut_form, updArray_setBlock]
    rfl
  case poison =>
    refine ⟨_, exec_mxLoadDone b s hok hp, ?_⟩
    rw [mxLoadDone_poisoned hr hpoison, mxPut_form, updArray_setBlock]
    rfl
  case swap =>
    obtain ⟨hloading, hempty, hready⟩ := mxSwapCycle_decides hr hfed hreplays
    rw [exec_mxSwapCycle b s hok hp]
    refine ⟨fun h => congrArg _ (hloading h), fun h => congrArg _ (hempty h), fun h => congrArg _ ?_⟩
    rw [hready h, mxPut_form, updArray_setBlock]
    rfl

end Sys2Proof.Machine

/-!
PROOFS. Rows are fed, checked, committed and released (R91, R102 to R118, R128 to R130): O12.
-/
namespace Sys2Proof.Machine

/-! ### A command of one block that changes registers and its block alone -/

/-- What a state `t` keeps of `s` when registers, block `b` and fabric time alone may have changed, block `b` being `y` in it. -/
def BlockAndRegs (s : State) (b : Nat) (regs : Map Reg W64) (y : Block) (t : State) : Prop :=
  t = { s with regs := regs, blocks := s.blocks.set b y, time := t.time }

theorem BlockAndRegs.block {s t : State} {b : Nat} {regs : Map Reg W64} {y : Block} (h : BlockAndRegs s b regs y t) : t.block b = y := by
  rw [h]
  exact Map.get_set_self ..

theorem BlockAndRegs.reg {s t u : State} {b : Nat} {y : Block} (h : BlockAndRegs s b u.regs y t) (g : Reg) : t.reg g = u.reg g := by
  rw [h]
  rfl

theorem BlockAndRegs.frame {s t : State} {b : Nat} {regs : Map Reg W64} {y : Block} (h : BlockAndRegs s b regs y t) :
    t = { s with regs := t.regs, blocks := s.blocks.set b (t.block b), time := t.time } := by
  have hregs : t.regs = regs := congrArg State.regs h
  rw [h.block, hregs]
  exact h

/-- Where no block is muted and no collective runs, a step that has counted in registers and changed one block reports nothing. -/
theorem noted_blockAndRegs {s u w : State} {b : Nat} {y : Block} (hw : w = u.setBlock b y) (hu : u = { s with regs := u.regs })
    (hmuted : ∀ z ∈ s.blocks, z.2.state ≠ .muted) (hcolls : ∀ z ∈ s.colls, z.2.state ≠ .running)
    (hy : y.state = (s.block b).state) : BlockAndRegs s b u.regs y (s.noted w) := by
  have hset : w = { s with regs := u.regs, blocks := s.blocks.set b y } :=
    hw.trans (congrArg (fun z : State => { z with blocks := z.blocks.set b y }) hu)
  rw [hset]
  exact noted_same s _ (notMuted_upd s b y hmuted (hy ▸ notMuted_block s b hmuted)) hcolls rfl rfl

/-- A started run replaced, by SEQ. -/
def Block.putRun (x : Block) (q : Run) : Block :=
  x.setEngine 0 { x.engine 0 with started := (x.engine 0).started.map fun p => if p.cmd.seq = q.cmd.seq then q else p }

/-! ### An upset hits ACTIVE before the row is fed (R93) -/

/-- The state `w` after an upset that has changed the tiles of block `b` of `s`, which is `x` in it. -/
structure AfterUpset (s : State) (b : Nat) (w : State) (x : Block) : Prop where
  frame : w = { s with blocks := w.blocks }
  block : w.block b = x
  overwrite : ∀ y, w.blocks.set b y = s.blocks.set b y
  tiles : x = { s.block b with array := { (s.block b).array with active := x.array.active, shadow := x.array.shadow } }
  id : x.array.active.id = (s.block b).array.active.id
  notMuted : (∀ y ∈ s.blocks, y.2.state ≠ .muted) → ∀ y ∈ w.blocks, y.2.state ≠ .muted

/-- A block whose ACTIVE has been hit in one register. -/
def Block.upsetActive (x : Block) (row col : Nat) : Block := { x with array := x.array.upset x.array.active.id row col }

theorem afterUpset_none (s : State) (b : Nat) : AfterUpset s b s (s.block b) :=
  ⟨rfl, rfl, fun _ => rfl, rfl, rfl, fun h => h⟩

theorem upset_id (t : Tile) (row col : Nat) : (t.upset row col).id = t.id := by
  unfold Tile.upset
  split <;> rfl

theorem afterUpset_some (s : State) (b row col : Nat) :
    AfterUpset s b (s.setBlock b ((s.block b).upsetActive row col)) ((s.block b).upsetActive row col) where
  frame := rfl
  block := State.block_setBlock_self ..
  overwrite _ := Map.set_set ..
  tiles := rfl
  id := (congrArg Tile.id (if_pos rfl)).trans (upset_id ..)
  notMuted h := notMuted_upd s b _ h (notMuted_block s b h)

namespace AfterUpset

variable {s w : State} {b : Nat} {x : Block} (h : AfterUpset s b w x)
include h

theorem engine : x.engine 0 = (s.block b).engine 0 := by rw [h.tiles]; rfl

theorem groups : x.array.groups = (s.block b).array.groups := by rw [h.tiles]

theorem mxRunning : w.mxRunning b = s.mxRunning b := by
  unfold State.mxRunning
  rw [h.block, h.engine]

theorem peg (p : Nat) : w.peg p = s.peg p := by rw [h.frame]; rfl

theorem ringBlocked : w.ringBlocked b = s.ringBlocked b := by
  have hroom (r : Run) : w.ringRoom r = s.ringRoom r := by
    unfold State.ringRoom
    rw [h.peg]
  unfold State.ringBlocked
  simp only [h.mxRunning, h.block, h.groups, hroom]

theorem bump (g : Reg) (n : Nat) : w.bump g n = { w with regs := s.regs.set g (s.reg g + w64 n) } := by
  rw [h.frame]
  rfl

theorem bump_setBlock (g : Reg) (n : Nat) (y : Block) : (w.bump g n).setBlock b y = (s.bump g n).setBlock b y := by
  have hsame : (w.bump g n).setBlock b y = { s with regs := s.regs.set g (s.reg g + w64 n), blocks := w.blocks.set b y } := by
    rw [h.frame]
    rfl
  rw [hsame, h.overwrite]
  rfl

theorem rowPoison (r : Run) (t : Tile) (i : Nat) : w.rowPoison b r t i = s.rowPoison b r t i := by rw [h.frame]; rfl

theorem feedRow (r : Run) (t : Tile) (i : Nat) (errs : List ArrayError) : w.feedRow b r t i errs = s.feedRow b r t i errs := by
  rw [h.frame]
  rfl

end AfterUpset

/-! ### One feed cycle with no replay due (R91, R106, R108, R114, R115) -/

/-- The oldest stream with rows left. -/
def State.feedingRun (s : State) (b : Nat) : Option Run :=
  (s.mxRunning b).find? fun q => q.cmd.opcode == 0x22 && q.stopping.isNone && decide (q.fed < q.cmd.rows)

theorem held_active (a : Array) : a.held a.active = a.active := if_pos rfl

/-- No group of a block waits for a row of its replay (R129). -/
def State.noReplayDue (s : State) (b : Nat) : Prop :=
  ∀ g ∈ (s.block b).array.groups, ¬ (g.replay = true ∧ g.state = .feeding ∧ g.rows.length < g.size)

theorem dueRow_next {s : State} {b : Nat} {r : Run} (hreplays : s.noReplayDue b) (hr : s.feedingRun b = some r) :
    s.dueRow b = some (r, (s.block b).array.active, r.fed, false) := by
  have hnone : ((s.block b).array.groups.find? fun g => g.replay && g.state == .feeding && decide (g.rows.length < g.size)) = none :=
    List.find?_eq_none.2 fun g hg => by simpa [and_assoc] using hreplays g hg
  unfold State.feedingRun at hr
  unfold State.dueRow
  dsimp only
  rw [hnone]
  dsimp only
  rw [hr]
  rfl

section
variable {s : State} {b : Nat} {r : Run} (hreplays : s.noReplayDue b) (hr : s.feedingRun b = some r)
include hreplays hr

theorem AfterUpset.dueRow {w : State} {x : Block} (h : AfterUpset s b w x) :
    w.dueRow b = some (r, (w.block b).array.active, r.fed, false) := by
  refine dueRow_next ?_ ?_
  · unfold State.noReplayDue
    rw [h.block, h.groups]
    exact hreplays
  · unfold State.feedingRun
    rw [h.mxRunning]
    exact hr

/-- The cycle that follows an upset is the one of the state that the upset has left. -/
theorem mxRowFeed_upset {row col : Nat} (granted : Bool) (errs : List ArrayError) :
    s.mxRowFeed b granted errs (some (row, col)) =
      (s.setBlock b ((s.block b).upsetActive row col)).mxRowFeed b granted errs none := by
  have h := afterUpset_some s b row col
  have hheld : ((s.block b).upsetActive row col).array.held (s.block b).array.active =
      ((s.block b).upsetActive row col).array.held ((s.block b).upsetActive row col).array.active :=
    (if_pos h.id).trans (held_active _).symm
  have hform : (s.updArray b fun a => a.upset (s.block b).array.active.id row col) =
      s.setBlock b ((s.block b).upsetActive row col) := rfl
  unfold State.mxRowFeed
  rw [dueRow_next hreplays hr, h.dueRow hreplays hr]
  simp only [hform, h.block, hheld]

end

/-- What holds back a row: it would start a fourth group, or an output ring has no space (R108, R114). -/
def State.drainFull (s : State) (b : Nat) (r : Run) : Prop :=
  (r.fed % 64 = 0 ∧ 3 ≤ (s.block b).array.groups.length) ∨ s.ringBlocked b = true

/-- What a row waits for: its elements from the block store, or the watch on FEED_PEG (R108, R115). -/
def State.feedHungry (s : State) (r : Run) (t : Tile) (granted : Bool) : Prop :=
  (granted = false ∧ 0 < t.kRows ∧ 0 < t.nCols) ∨ (r.cmd.feedWait = true ∧ (s.peg (r.cmd.f 36 15 0)).value.toNat < r.fed + 1)

theorem AfterUpset.drainFull_iff {s w : State} {b : Nat} {x : Block} (h : AfterUpset s b w x) (r : Run) :
    w.drainFull b r ↔ (r.fed % 64 = 0 ∧ 3 ≤ x.array.groups.length) ∨ s.ringBlocked b = true := by
  unfold State.drainFull
  rw [h.block, h.ringBlocked]

theorem AfterUpset.feedHungry_iff {s w : State} {b : Nat} {x : Block} (h : AfterUpset s b w x) (r : Run) (t : Tile) (granted : Bool) :
    w.feedHungry r t granted ↔ s.feedHungry r t granted := by
  unfold State.feedHungry
  rw [h.peg]

/-- Where no block is muted and no collective runs, a frozen cycle after an upset counts and reports nothing. -/
theorem AfterUpset.noted_freeze {s w u : State} {b : Nat} {x : Block} {m : Reg} (h : AfterUpset s b w x) (hu : u = w.bump m 1)
    (hmuted : ∀ y ∈ s.blocks, y.2.state ≠ .muted) (hcolls : ∀ y ∈ s.colls, y.2.state ≠ .running) :
    s.noted u = { w with regs := s.regs.set m (s.reg m + w64 1), time := (s.noted u).time } := by
  rw [hu, h.bump]
  exact noted_same s _ (h.notMuted hmuted) (by rw [h.frame]; exact hcolls) (by rw [h.frame]) (by rw [h.frame])

section
variable {s : State} {b : Nat} {r : Run} {granted : Bool} {errs : List ArrayError}
  (hdue : s.dueRow b = some (r, (s.block b).array.active, r.fed, false))
include hdue

theorem mxRowFeed_drainFull (hfull : s.drainFull b r) : s.mxRowFeed b granted errs none = s.bump (MX_FREEZE_DRAIN b) 1 := by
  unfold State.mxRowFeed
  rw [hdue]
  exact if_pos (by simpa [State.drainFull] using hfull)

theorem mxRowFeed_hungry (hroom : ¬ s.drainFull b r) (hhungry : s.feedHungry r (s.block b).array.active granted) :
    s.mxRowFeed b granted errs none = s.bump (MX_FREEZE_FEED b) 1 := by
  unfold State.mxRowFeed
  rw [hdue]
  simp only [held_active]
  rw [if_neg (by simpa [State.drainFull] using hroom)]
  exact if_pos (by simpa [State.feedHungry, and_assoc] using hhungry)

theorem mxRowFeed_feeds (hroom : ¬ s.drainFull b r) (hfed : ¬ s.feedHungry r (s.block b).array.active granted)
    (hto : r.cmd.feedWait = false ∨ r.fed < r.feedTo) :
    s.mxRowFeed b granted errs none = s.mxFeed b r (s.block b).array.active r.fed false errs := by
  have hacquired : ¬ (r.cmd.feedWait && decide (r.feedTo < r.fed + 1)) = true := by
    rw [Bool.and_eq_true, decide_eq_true_eq]
    rintro ⟨hwait, hlt⟩
    rcases hto with hno | hto
    · exact Bool.noConfusion (hno.symm.trans hwait)
    · omega
  unfold State.mxRowFeed
  rw [hdue]
  simp only [held_active]
  rw [if_neg (by simpa [State.drainFull] using hroom), if_neg (by simpa [State.feedHungry, and_assoc] using hfed)]
  exact if_neg hacquired

end

/-- A block after row `i` of the run `r` has been fed and has given `f`. -/
def Block.fedRow (x : Block) (r : Run) (t : Tile) (i : Nat) (f : FedRow) : Block :=
  Block.putRun { x with array := { x.array with groups := State.addRow x.array.groups r.cmd.seq t i r.cmd.rows f } }
    { r with fed := r.fed + 1 }

/-- A row with no register of wrong parity and no poisoned operand joins its check group. -/
theorem mxFeed_clean {s : State} {b i : Nat} {r : Run} {t : Tile} (errs : List ArrayError) (hparity : t.badParity = none)
    (hclean : s.rowPoison b r t i = none) :
    s.mxFeed b r t i false errs =
      (s.bump (MX_FEED_CYCLES b) (State.rowCycles t)).setBlock b ((s.block b).fedRow r t i (s.feedRow b r t i errs)) := by
  have hpoison : (s.bump (MX_FEED_CYCLES b) (State.rowCycles t)).rowPoison b { r with fed := r.fed + 1 } t i = none := hclean
  unfold State.mxFeed
  simp only [Bool.false_eq_true, if_false]
  rw [hparity, hpoison]
  dsimp only
  rw [updArray_form, mxPut_setBlock]
  rfl

/-! ### The checks of a group (R112, R128, R129) -/

/-- The check group that is next: the oldest complete one. -/
def State.completeGroup (s : State) (b : Nat) : Option Group :=
  (s.block b).array.groups.find? fun q => q.state == .feeding && q.rows.length == q.size

/-- A block in which `g'` has taken the place of the group `g`. -/
def Block.putGroup (x : Block) (g g' : Group) : Block :=
  { x with array := { x.array with groups := x.array.groups.map fun q => if q.seq = g.seq ∧ q.first = g.first then g' else q } }

/-- The first checks of a group count the rows that they skip; a group that fails is due for a replay, for which the array may have
to swap and swap back (R129). -/
def State.countChecks (s : State) (b : Nat) (g : Group) (skipped : Nat) (passes : Bool) : State :=
  if passes = true ∨ g.tile.id = (s.block b).array.active.id then s.bump (MX_BRIDGE_SKIP b) skipped
  else (s.bump (MX_BRIDGE_SKIP b) skipped).bump (MX_REPLAY_CYCLES b) 2

theorem countChecks_frame (s : State) (b : Nat) (g : Group) (skipped : Nat) (passes : Bool) :
    s.countChecks b g skipped passes = { s with regs := (s.countChecks b g skipped passes).regs } := by
  unfold State.countChecks
  split <;> rfl

theorem blkReg_inj {b o o' : Nat} (h : blkReg b o = blkReg b o') : o = o' :=
  Nat.add_left_cancel (Nat.add_left_cancel h)

theorem countChecks_skip (s : State) (b : Nat) (g : Group) (skipped : Nat) (passes : Bool) :
    (s.countChecks b g skipped passes).reg (MX_BRIDGE_SKIP b) = s.reg (MX_BRIDGE_SKIP b) + w64 skipped := by
  have hother : MX_BRIDGE_SKIP b ≠ MX_REPLAY_CYCLES b := fun h => absurd (blkReg_inj h) (by decide)
  unfold State.countChecks
  split
  · exact State.reg_bump_self ..
  · exact (State.reg_bump_ne _ _ hother).trans (State.reg_bump_self ..)

/-- What the first checks of a group make of it. -/
def Group.checked (g : Group) (passes : Bool) : Group :=
  if passes = true then { g with state := .passed } else { g with rows := [], replay := true }

/-- The checks of a group that has not been replayed. -/
theorem groupCheck_first {s : State} {b : Nat} {g : Group} {r : Run} (hg : s.completeGroup b = some g) (hfirst : g.replay = false)
    (hr : (s.mxRunning b).find? (fun q => q.cmd.seq == g.seq) = some r) {v : Nat × List Nat × List Nat}
    (hv : groupVerdict g.tile (r.cmd.f 31 4 0) r.cmd.absent g.rows = v) :
    s.groupCheck b = (s.countChecks b g v.1 (decide (v.2.1 = [] ∧ v.2.2 = []))).setBlock b
      ((s.block b).putGroup g (g.checked (decide (v.2.1 = [] ∧ v.2.2 = [])))) := by
  obtain ⟨skipped, badRows, badCols⟩ := v
  have hnot : ¬ g.replay = true := by simp [hfirst]
  unfold State.completeGroup at hg
  unfold State.groupCheck
  dsimp only
  rw [hg]
  dsimp only
  rw [hr]
  dsimp only
  rw [hv]
  dsimp only
  by_cases hpass : badRows = [] ∧ badCols = []
  · rw [if_pos hpass, if_neg hnot, if_neg hnot, decide_eq_true hpass]
    simp only [State.countChecks, true_or, if_true]
    rfl
  · rw [if_neg hpass, if_pos (by rw [hfirst]; rfl), if_neg hnot, decide_eq_false hpass]
    by_cases hactive : g.tile.id = (s.block b).array.active.id
    · simp only [State.countChecks, hactive, or_true, if_true]
      rfl
    · simp only [State.countChecks, hactive, Bool.false_eq_true, or_self, if_false]
      rfl

/-! ### A row commits (R102, R112, R113, R118, R121) -/

/-- A stream's status once its last group has left (R121, R139): that of its stop, or of its last row. -/
def Run.finalized (groups : List Group) (r : Run) : Run :=
  if r.cmd.opcode ≠ 0x22 ∨ r.status.isSome ∨ groups.any (·.seq == r.cmd.seq) then r
  else match r.stopping with
    | some st => { r with status := some st }
    | none => if r.count = r.cmd.rows then { r with status := some (if r.inexact then stINEXACT else stOK) } else r

/-- The end of a stream changes the status of its run alone. -/
theorem finalized_frame (groups : List Group) (r : Run) : r.finalized groups = { r with status := (r.finalized groups).status } := by
  unfold Run.finalized
  split
  · rfl
  · split
    · rfl
    · split <;> rfl

/-- A block whose streams with no group left have taken their status. -/
def Block.finalized (x : Block) : Block :=
  x.setEngine 0 { x.engine 0 with started := (x.engine 0).started.map (Run.finalized x.array.groups) }

theorem mxFinalize_setBlock (s : State) (b : Nat) (x : Block) : (s.setBlock b x).mxFinalize b = s.setBlock b x.finalized := by
  unfold State.mxFinalize
  rw [State.block_setBlock_self, updBlock_setBlock]
  rfl

/-- The groups of a block once the next row of the oldest one has committed. -/
def Group.advanced (g : Group) (rest : List Group) : List Group :=
  if g.done + 1 = g.size then rest else { g with done := g.done + 1 } :: rest

/-- A row of a stream with ACC adds to its entry unless the entry is FREE (R104). -/
def Cmd.chains (c : Cmd) (e : Entry) : Bool := c.accAdd && e.kind != .free

/-- The columns that a row of the run `r` gives, added to those of the entry `e` where it chains. -/
def Run.rowResults (r : Run) (e : Entry) (f : FedRow) : List Acc :=
  (List.range r.nCols).map fun j => addPass (kindOfNum r.kind) r.kRows (r.cmd.f 34 15 0) r.cmd.indexed
    (if r.cmd.chains e then e.col j else Acc.empty (kindOfNum r.kind)) f j

/-- The entry of row `f`, as it was. -/
def Block.rowEntry (x : Block) (r : Run) (f : FedRow) : Entry := x.array.entries.get {} (r.cmd.f 32 7 0 + f.index)

/-- The entries once row `f` has committed: a stream that drains through leaves its entry FREE, and needs none without ACC. -/
def Block.committedEntries (x : Block) (r : Run) (f : FedRow) : Map Nat Entry :=
  let e := x.rowEntry r f
  if r.cmd.drainThrough && !r.cmd.accAdd then x.array.entries
  else x.array.entries.set (r.cmd.f 32 7 0 + f.index) (if r.cmd.drainThrough then {} else
    { kind := kindOfNum r.kind, cols := r.rowResults e f ++ if r.cmd.chains e then e.cols.drop r.nCols else [] })

/-- The run once row `f` has given `new`. -/
def Run.committed (r : Run) (g : Group) (new : List Acc) : Run :=
  { r with count := r.count + 1, inexact := r.inexact || (r.cmd.drainThrough && new.any (·.inexact)),
           owed := if (g.done + 1 == g.size) && r.cmd.feedWait then r.owed ++ [g.size] else r.owed }

/-- The block store once row `f` has given `new`. -/
def State.drainThroughRow (s : State) (b : Nat) (r : Run) (f : FedRow) (new : List Acc) : State :=
  if r.cmd.drainThrough then
    s.storeWrite b ((drainOf r.cmd).offset r.nCols f.index) (drainRow (drainOf r.cmd) f.index (kindOfNum r.kind) new)
  else s

/-- The block once row `f` of its oldest group `g` has committed. -/
def Block.committedRow (x : Block) (r : Run) (g : Group) (rest : List Group) (f : FedRow) : Block :=
  let y := Block.putRun { x with array := { x.array with entries := x.committedEntries r f } }
    (r.committed g (r.rowResults (x.rowEntry r f) f))
  Block.finalized { y with array := { y.array with groups := g.advanced rest } }

/-- The last steps of a commit: the run is replaced, the groups move on, and a stream with none left takes its status. -/
theorem putRun_advance_finalize (u : State) (b : Nat) (x : Block) (q : Run) (gs : List Group) :
    (((u.setBlock b x).mxPut b q).updArray b fun a => { a with groups := gs }).mxFinalize b =
      u.setBlock b (Block.finalized { x.putRun q with array := { (x.putRun q).array with groups := gs } }) := by
  rw [mxPut_setBlock, updArray_setBlock, mxFinalize_setBlock]
  rfl

theorem putRun_advance_finalize_same (u : State) (b : Nat) (q : Run) (gs : List Group) :
    ((u.mxPut b q).updArray b fun a => { a with groups := gs }).mxFinalize b =
      u.setBlock b (Block.finalized { (u.block b).putRun q with array := { ((u.block b).putRun q).array with groups := gs } }) := by
  rw [mxPut_form, updArray_setBlock, mxFinalize_setBlock]
  rfl

theorem advanced_if (g : Group) (rest : List Group) :
    (if (g.done + 1 == g.size) = true then rest else { g with done := g.done + 1 } :: rest) = g.advanced rest := by
  simp only [beq_iff_eq]
  rfl

/-- The next row of a passed group commits where neither its ring nor a peg holds it back. -/
theorem mxRowCommit_commits {s : State} {b : Nat} {g : Group} {rest : List Group} {r : Run} {f : FedRow}
    (hgroups : (s.block b).array.groups = g :: rest) (hr : (s.mxRunning b).find? (fun q => q.cmd.seq == g.seq) = some r)
    (hf : g.rows[g.done]? = some f) (hpassed : g.state = .passed) (hroom : s.ringBlocked b = false) (hwait : r.cmd.feedWait = false) :
    s.mxRowCommit b = (s.drainThroughRow b r f (r.rowResults ((s.block b).rowEntry r f) f)).setBlock b
      ((s.block b).committedRow r g rest f) := by
  have hring : State.ringWaits r.cmd = false := by simp [State.ringWaits, hwait]
  have hgo : ¬ (g.state ≠ .passed ∨ s.ringBlocked b = true) := by simp [hpassed, hroom]
  unfold State.mxRowCommit
  rw [hgroups]
  dsimp only
  rw [hr, hf]
  dsimp only
  rw [if_neg hgo, hring]
  simp only [Bool.false_and, Bool.false_eq_true, if_false]
  rw [advanced_if]
  unfold Block.committedRow Block.committedEntries State.drainThroughRow Run.committed Run.rowResults Cmd.chains Block.rowEntry
  cases r.cmd.drainThrough with
  | false => exact putRun_advance_finalize ..
  | true =>
    cases r.cmd.accAdd with
    | false => exact putRun_advance_finalize_same ..
    | true => exact putRun_advance_finalize (s.storeWrite b _ _) ..

theorem committedRow_frame (x : Block) (r : Run) (g : Group) (rest : List Group) (f : FedRow) : x.committedRow r g rest f =
    { x with engines := (x.committedRow r g rest f).engines,
             array := { x.array with entries := x.committedEntries r f, groups := g.advanced rest } } := rfl

/-- The run whose row has committed stands among the started ones with a row more to its count. -/
theorem committedRow_counts {s : State} {b seq : Nat} {r : Run} (g : Group) (rest : List Group) (f : FedRow)
    (hr : (s.mxRunning b).find? (fun q => q.cmd.seq == seq) = some r) :
    ∃ q ∈ (((s.block b).committedRow r g rest f).engine 0).started, q.cmd = r.cmd ∧ q.count = r.count + 1 := by
  obtain ⟨r', hr'⟩ : ∃ r', r' = r.committed g (r.rowResults ((s.block b).rowEntry r f) f) := ⟨_, rfl⟩
  have hcmd : r'.cmd = r.cmd := by rw [hr']; rfl
  have hstarted : r ∈ ((s.block b).engine 0).started := (List.mem_filter.1 (List.mem_of_find?_eq_some hr)).1
  have hput : r' ∈ ((s.block b).engine 0).started.map fun p => if p.cmd.seq = r.cmd.seq then r' else p :=
    List.mem_map.2 ⟨r, hstarted, if_pos rfl⟩
  refine ⟨r'.finalized (g.advanced rest), ?_, ?_, ?_⟩
  · unfold Block.committedRow Block.finalized Block.putRun
    rw [Block.engine_set, ← hr']
    refine List.mem_map_of_mem ?_
    show r' ∈ ((Block.setEngine _ 0 _).engine 0).started
    rw [Block.engine_set, hcmd]
    exact hput
  · rw [finalized_frame]
    exact hcmd
  · rw [finalized_frame, hr']
    rfl

/-- A row that does not chain starts from empty columns (R104). -/
theorem rowResults_fresh {r : Run} {e : Entry} (f : FedRow) (h : r.cmd.chains e = false) :
    r.rowResults e f = (List.range r.nCols).map fun j => addPass (kindOfNum r.kind) r.kRows (r.cmd.f 34 15 0) r.cmd.indexed
      (Acc.empty (kindOfNum r.kind)) f j := by
  simp only [Run.rowResults, h, Bool.false_eq_true, if_false]

theorem rowResults_chained {r : Run} {e : Entry} (f : FedRow) (h : r.cmd.chains e = true) :
    r.rowResults e f = (List.range r.nCols).map fun j => addPass (kindOfNum r.kind) r.kRows (r.cmd.f 34 15 0) r.cmd.indexed
      (e.col j) f j := by
  simp only [Run.rowResults, h, if_true]

theorem chains_iff (c : Cmd) (e : Entry) : c.chains e = true ↔ c.accAdd = true ∧ e.kind ≠ .free := by simp [Cmd.chains]

theorem chains_eq_false_iff (c : Cmd) (e : Entry) : c.chains e = false ↔ c.accAdd = false ∨ e.kind = .free := by
  simp [Cmd.chains, imp_iff_not_or]

theorem committedEntries_fresh {x : Block} {r : Run} (f : FedRow) (hdrain : r.cmd.drainThrough = false)
    (h : r.cmd.chains (x.rowEntry r f) = false) :
    x.committedEntries r f = x.array.entries.set (r.cmd.f 32 7 0 + f.index)
      { kind := kindOfNum r.kind, cols := r.rowResults (x.rowEntry r f) f } := by
  simp only [Block.committedEntries, hdrain, h, Bool.false_and, Bool.false_eq_true, if_false, List.append_nil]

theorem committedEntries_chained {x : Block} {r : Run} (f : FedRow) (hdrain : r.cmd.drainThrough = false)
    (h : r.cmd.chains (x.rowEntry r f) = true) :
    x.committedEntries r f = x.array.entries.set (r.cmd.f 32 7 0 + f.index)
      { kind := kindOfNum r.kind, cols := r.rowResults (x.rowEntry r f) f ++ (x.rowEntry r f).cols.drop r.nCols } := by
  simp only [Block.committedEntries, hdrain, h, Bool.false_and, Bool.false_eq_true, if_false, if_true]

theorem committedEntries_drained {x : Block} {r : Run} (f : FedRow) (hdrain : r.cmd.drainThrough = true) (hacc : r.cmd.accAdd = false) :
    x.committedEntries r f = x.array.entries := by
  simp only [Block.committedEntries, hdrain, hacc, Bool.not_false, Bool.and_self, if_true]

theorem drainThroughRow_kept {s : State} {b : Nat} {r : Run} {f : FedRow} {new : List Acc} (hdrain : r.cmd.drainThrough = false) :
    s.drainThroughRow b r f new = s := if_neg (by simp [hdrain])

theorem drainThroughRow_written {s : State} {b : Nat} {r : Run} {f : FedRow} {new : List Acc} (hdrain : r.cmd.drainThrough = true) :
    s.drainThroughRow b r f new =
      s.storeWrite b ((drainOf r.cmd).offset r.nCols f.index) (drainRow (drainOf r.cmd) f.index (kindOfNum r.kind) new) :=
  if_pos hdrain

/-! ### The release of a group's rows (R108) -/

/-- A release-add to a peg of a live region changes that peg, and what its watches and their counter become. -/
theorem signalPeg_live (s : State) (a : Agent) (p sc : Nat) (v : W64) (hlive : s.regionLive (pegHome p) = true) :
    ∃ t, s.signalPeg a p sc v = t ∧
      t = { s with pegs := t.pegs, watches := t.watches, gens := t.gens, fired := t.fired, regs := t.regs } ∧
      (t.peg p).value = (s.peg p).value + v ∧ (∀ q, q ≠ p → t.peg q = s.peg q) ∧
      ∀ g, (∀ r, g ≠ WATCH_FIRED r) → t.reg g = s.reg g := by
  unfold State.signalPeg State.pegRelAdd
  rw [if_pos hlive, if_pos hlive]
  obtain ⟨t, ht, hframe, hpeg, hothers, hregs⟩ := putPeg_does s p { s.peg p with
    value := (s.peg p).value + v, lastRel := true, lastScope := sc, releaser := a.place,
    carries := ((s.peg p).carries.filter fun y => s.awaited y.1) ++ (s.carriedBy a).map fun t => (t, sc, a.place) }
  exact ⟨t, ht, hframe, congrArg Peg.value hpeg, hothers, hregs⟩

/-- Settles O12: the feed cycle after an upset, the checks, the commit and the release as the lemmas above give them. -/
theorem matrixRowsFeedCheckAndCommit : Obligations.MatrixRowsFeedCheckAndCommit := by
  unfold Obligations.MatrixRowsFeedCheckAndCommit
  refine ⟨?feed, ?check, ?commit, ?release⟩
  case feed =>
    intro s b granted errs upset r hp hb hmuted hcolls hreplays hr x hit tile drainFull hungry fedGroups counted
    have hok : okB b = true := decide_eq_true hb
    have hu : AfterUpset s b hit x := by
      cases upset with
      | none => exact afterUpset_none s b
      | some p => exact afterUpset_some s b p.1 p.2
    have hcycle : s.mxRowFeed b granted errs upset = hit.mxRowFeed b granted errs none := by
      cases upset with
      | none => rfl
      | some p => exact mxRowFeed_upset hreplays hr granted errs
    have hexec := exec_mxRowFeed b granted errs upset s hok hp
    have hdue := hu.dueRow hreplays hr
    have hfull : hit.drainFull b r ↔ drainFull := hu.drainFull_iff r
    have hhungry : hit.feedHungry r (hit.block b).array.active granted ↔ hungry := by
      rw [hu.block]
      exact hu.feedHungry_iff r tile granted
    refine ⟨fun hf => ?full, fun hnf hh => ?starved, fun hnf hnh hto hparity hclean => ?fed⟩
    case full => exact ⟨_, hexec, hu.noted_freeze (hcycle.trans (mxRowFeed_drainFull hdue (hfull.2 hf))) hmuted hcolls⟩
    case starved =>
      have hop := hcycle.trans (mxRowFeed_hungry hdue (hfull.not.2 hnf) (hhungry.2 hh))
      exact ⟨_, hexec, hu.noted_freeze hop hmuted hcolls⟩
    case fed =>
      have hop : s.mxRowFeed b granted errs upset = (s.bump (MX_FEED_CYCLES b) (State.rowCycles tile)).setBlock b
          (x.fedRow r tile r.fed (s.feedRow b r tile r.fed errs)) := by
        rw [hcycle, mxRowFeed_feeds hdue (hfull.not.2 hnf) (hhungry.not.2 hnh) hto, hu.block,
          mxFeed_clean errs hparity ((hu.rowPoison r tile r.fed).trans hclean), hu.block, hu.feedRow, hu.bump_setBlock]
      have hstep := noted_blockAndRegs hop rfl hmuted hcolls (by rw [hu.tiles]; rfl)
      refine ⟨_, hexec, ?_⟩
      rw [hstep.block]
      exact ⟨hstep, rfl, Block.engine_set ..⟩
  case check =>
    intro s b g r hp hb hmuted hcolls x hg hfirst hr v mapped put
    have hok : okB b = true := decide_eq_true hb
    have hstep := noted_blockAndRegs (groupCheck_first hg hfirst hr (v := v) rfl) (countChecks_frame ..) hmuted hcolls rfl
    refine ⟨_, exec_groupCheck b s hok hp, ?_, (hstep.reg _).trans (countChecks_skip ..), fun hpass => ?_, fun hfail => ?_⟩
    · exact hstep.frame
    · rw [hstep.block, decide_eq_true hpass]
      rfl
    · rw [hstep.block, decide_eq_false hfail]
      rfl
  case commit =>
    intro s b g rest r f hp hb x hgroups hr hf hpassed hroom hwait k slot old new groups arr fresh added counted
    have hok : okB b = true := decide_eq_true hb
    have hexec := (exec_mxRowCommit b s hok hp).trans (congrArg _ (mxRowCommit_commits hgroups hr hf hpassed hroom hwait))
    have hblock (u : State) : (u.setBlock b (x.committedRow r g rest f)).block b = x.committedRow r g rest f :=
      State.block_setBlock_self ..
    have hcounted (u : State) : counted (u.setBlock b (x.committedRow r g rest f)) := by
      dsimp only [counted]
      rw [hblock]
      exact committedRow_counts g rest f hr
    refine ⟨fun hdrain hchain => ?fresh, fun hdrain hacc hkind => ?added, fun hdrain hacc => ?drained⟩
    case fresh =>
      have hfresh : r.cmd.chains (x.rowEntry r f) = false := (chains_eq_false_iff ..).2 hchain
      refine ⟨_, hexec, ?_, hcounted _, ?_⟩
      · rw [hblock, drainThroughRow_kept hdrain]
      · rw [hblock, committedRow_frame, committedEntries_fresh f hdrain hfresh, rowResults_fresh f hfresh]
        rfl
    case added =>
      have hchains : r.cmd.chains (x.rowEntry r f) = true := (chains_iff ..).2 ⟨hacc, hkind⟩
      refine ⟨_, hexec, ?_, hcounted _, ?_⟩
      · rw [hblock, drainThroughRow_kept hdrain]
      · rw [hblock, committedRow_frame, committedEntries_chained f hdrain hchains, rowResults_chained f hchains]
        rfl
    case drained =>
      have hfresh : r.cmd.chains (x.rowEntry r f) = false := (chains_eq_false_iff ..).2 (.inl hacc)
      refine ⟨_, hexec, hcounted _, ?_, ?_⟩
      · rw [hblock, drainThroughRow_written hdrain, rowResults_fresh f hfresh]
      · rw [hblock, committedRow_frame, committedEntries_drained f hdrain hacc]
        rfl
  case release =>
    intro s b r hp hb hr p hlive
    have hok : okB b = true := decide_eq_true hb
    obtain ⟨t, ht, hframe, hpeg, hothers, hregs⟩ := signalPeg_live (s.mxPut b { r with owed := r.owed.drop 1 })
      (blockAgent s.moduleId b) p 2 (w64 (r.owed.headD 0)) hlive
    have hblock : t.block b = (s.block b).putRun { r with owed := r.owed.drop 1 } := by
      rw [hframe]
      exact State.block_setBlock_self ..
    have hop : s.feedPegRelease b = t := by
      unfold State.feedPegRelease
      rw [hr]
      exact ht
    refine ⟨t, (exec_feedPegRelease b s hok hp).trans (congrArg _ hop), ?_, hpeg, hothers, hregs, ?_⟩
    · rw [hblock]
      exact hframe
    · rw [hblock]
      exact Block.engine_set ..

end Sys2Proof.Machine

/-!
PROOFS. Elements of the vector engine (R165 to R167, R170, R173, R183, Tables 4.8 and 4.9): O18.
-/
namespace Sys2Proof.Machine

/-- A run with work left that moves on by one unit completes exactly when it has done `total`. -/
theorem closed_next {r : Run} {total : Nat} (hs : r.status = none) (hlt : r.count < total) :
    Run.closed { r with count := r.count + 1 } total =
      { r with count := r.count + 1, status := if r.count + 1 = total then some stOK else none } := by
  have hlast : total ≤ r.count + 1 ↔ r.count + 1 = total := by omega
  rw [closed_moved r 1 total hs]
  simp only [hlast]

theorem rangesPoison_cons_clean {s : State} {b : Nat} {x : Nat × Nat} (l : List (Nat × Nat)) (h : s.storePoison b x.1 x.2 = none) :
    s.rangesPoison b (x :: l) = s.rangesPoison b l := by
  rw [State.rangesPoison, h]

theorem rangesPoison_cons_poisoned {s : State} {b p : Nat} {x : Nat × Nat} (l : List (Nat × Nat))
    (h : s.storePoison b x.1 x.2 = some p) : s.rangesPoison b (x :: l) = some p := by
  rw [State.rangesPoison, h]

/-! ### One element (R166, R173) -/

/-- The FP32 value `v` rounded to the output format and written as the element at COUNT of the destination. -/
def State.writeElem (s : State) (b : Nat) (r : Run) (rnd : Option Nat) (v : Nat) : State :=
  let c := r.cmd
  let zo := fmtBytes c.fmtOut
  s.storeWrite b (c.dst + r.count / c.n * pitchOr c.dstPitch (c.n * zo) + r.count % c.n * zo)
    (leBytes zo (roundFmt c.fmtOut rnd c.sat (dec32 v)))

/-- The rounding bits of the element at COUNT: AUX holds its coordinates but for VE_FMA, and PARAM the seed but where it is the
second operand. -/
def Run.elemRnd (r : Run) : Option Nat :=
  let c := r.cmd
  c.rnd (c.opcode != 0x42) (if c.opcode = 0x40 ∧ c.func.testBit 7 = true then 0 else c.param) (r.count / c.n) (r.count % c.n)

theorem vecElem_clean {s : State} {b v : Nat} {rnd : Option Nat} {r : Run}
    (hclean : s.rangesPoison b (State.vecSources r.cmd (r.count / r.cmd.n) (r.count % r.cmd.n)) = none) (hrnd : r.elemRnd = rnd)
    (hvalue : s.vecValue b r.cmd (r.count / r.cmd.n) (r.count % r.cmd.n) = v) :
    s.vecElem b r none = (s.writeElem b r rnd v, { r with count := r.count + 1 }) := by
  subst hrnd hvalue
  simp only [State.vecElem, ite_self]
  rw [hclean]
  rfl

theorem vecElem_poisoned {s : State} {b p : Nat} {r : Run}
    (h : s.rangesPoison b (State.vecSources r.cmd (r.count / r.cmd.n) (r.count % r.cmd.n)) = some p) :
    s.vecElem b r none = s.poisonStop b r p := by
  simp only [State.vecElem]
  rw [h]

section
variable {c : Cmd} (row e : Nat)

theorem vecSources_unary (hop : c.opcode = 0x41) : State.vecSources c row e =
    [(c.srcA + row * pitchOr c.srcPitch (c.n * fmtBytes c.fmtA) + e * fmtBytes c.fmtA, fmtBytes c.fmtA)] := by
  simp [State.vecSources, hop]

theorem vecSources_scalar (hop : c.opcode = 0x40) (hscalar : c.func.testBit 7 = true) : State.vecSources c row e =
    [(c.srcA + row * pitchOr c.srcPitch (c.n * fmtBytes c.fmtA) + e * fmtBytes c.fmtA, fmtBytes c.fmtA)] := by
  simp [State.vecSources, hop, hscalar]

theorem vecSources_binary (hop : c.opcode = 0x40) (hscalar : c.func.testBit 7 = false) : State.vecSources c row e =
    [(c.srcA + row * pitchOr c.srcPitch (c.n * fmtBytes c.fmtA) + e * fmtBytes c.fmtA, fmtBytes c.fmtA),
      (c.srcB + row * (if c.srcBPitch = 0 then 0 else c.srcBPitch * 64) + e * fmtBytes c.fmtA, fmtBytes c.fmtA)] := by
  simp [State.vecSources, hop, hscalar]

theorem vecSources_fma (hop : c.opcode = 0x42) : State.vecSources c row e =
    [(c.srcA + row * pitchOr c.srcPitch (c.n * fmtBytes c.fmtA) + e * fmtBytes c.fmtA, fmtBytes c.fmtA),
      (c.srcB + row * (if c.srcBPitch = 0 then 0 else c.srcBPitch * 64) + e * fmtBytes c.fmtA, fmtBytes c.fmtA),
      (c.aux + row * (if c.srcBPitch = 0 then 0 else c.srcBPitch * 64) + e * fmtBytes c.fmtA, fmtBytes c.fmtA)] := by
  simp [State.vecSources, hop]

end

/-! ### The commands -/

section
variable {s u : State} {b op : Nat} {r q : Run} (hact : s.activeRun b 1 = some r) (hop : r.cmd.opcode = op)
  (hlt : r.count < r.cmd.n * r.cmd.nRows)
include hact hop hlt

/-- One element of the command that engine 1 works on. -/
theorem vecStep_one (hunit : s.vecElem b r none = (u, q)) :
    s.vecStep b op 1 none = u.putRun b 1 (q.closed (r.cmd.n * r.cmd.nRows)) :=
  engineStep_one checkVec (fun b s r => s.vecElem b r none) (fun r => r.cmd.n * r.cmd.nRows) hact hop hlt hunit

/-- An element of clean operands: its result is written and COUNT moves on. -/
theorem vecStep_clean {v : Nat} {rnd : Option Nat} (hrnd : r.elemRnd = rnd)
    (hclean : s.rangesPoison b (State.vecSources r.cmd (r.count / r.cmd.n) (r.count % r.cmd.n)) = none)
    (hvalue : s.vecValue b r.cmd (r.count / r.cmd.n) (r.count % r.cmd.n) = v) :
    s.vecStep b op 1 none = (s.writeElem b r rnd v).putRun b 1
      { r with count := r.count + 1, status := if r.count + 1 = r.cmd.n * r.cmd.nRows then some stOK else none } := by
  rw [vecStep_one hact hop hlt (vecElem_clean hclean hrnd hvalue), closed_next (active_none s b 1 r hact) hlt]

theorem vecStep_poisoned {p : Nat} (h : s.rangesPoison b (State.vecSources r.cmd (r.count / r.cmd.n) (r.count % r.cmd.n)) = some p) :
    s.vecStep b op 1 none = (s.poisonLog b p).putRun b 1 { r with status := some stPOISON, detail := w64 p } := by
  rw [vecStep_one hact hop hlt (vecElem_poisoned h)]
  rfl

end

/-- Settles O18: the operands that each command reads, the element that `vecStep` makes of them, and a step without reports. -/
theorem vectorElements : Obligations.VectorElements := by
  unfold Obligations.VectorElements
  intro s b r hp hb hact quiet x g c total hlt put moved row e z zo offA pitchB offB offC val wrote poisoned
  have hokB : okB b = true := decide_eq_true hb
  refine ⟨fun hop hA => ?unary, fun p hop hA => ?poison, fun ⟨hmuted, hcolls⟩ =>
    ⟨fun hop hscalar hA hB => ?binary, fun hop hscalar hA => ?scalar, fun hop hA hB hC => ?fma⟩⟩
  case unary =>
    have hsrc := vecSources_unary row e hop
    have hrnd : r.elemRnd = c.rnd true c.param row e := by simp [Run.elemRnd, c, row, e, show r.cmd.opcode = 0x41 from hop]
    have hclean : s.rangesPoison b (State.vecSources c row e) = none := by rw [hsrc, rangesPoison_cons_clean _ hA]; rfl
    have hvalue : s.vecValue b c row e = vecUnary c.func (val offA) := by simp [State.vecValue, hsrc, hop, val, offA, z]
    rw [exec_veUnary b 1 s hokB hp, vecStep_clean hact hop hlt hrnd hclean hvalue]
    rfl
  case poison =>
    have hpoison : s.rangesPoison b (State.vecSources c row e) = some p := by
      rw [vecSources_unary row e hop, rangesPoison_cons_poisoned _ hA]
    rw [exec_veUnary b 1 s hokB hp, vecStep_poisoned hact hop hlt hpoison]
    rfl
  case binary =>
    have hsrc := vecSources_binary row e hop hscalar
    have hrnd : r.elemRnd = c.rnd true c.param row e := by
      simp [Run.elemRnd, c, row, e, show r.cmd.opcode = 0x40 from hop, show r.cmd.func.testBit 7 = false from hscalar]
    have hclean : s.rangesPoison b (State.vecSources c row e) = none := by
      rw [hsrc, rangesPoison_cons_clean _ hA, rangesPoison_cons_clean _ hB]; rfl
    have hvalue : s.vecValue b c row e = vecBinary (c.func % 16) (val offA) (val offB) := by
      simp [State.vecValue, hsrc, hop, hscalar, val, offA, offB, pitchB, z]
    refine ⟨_, exec_veBinary b 1 none s hokB hp, ?_⟩
    rw [vecStep_clean hact hop hlt hrnd hclean hvalue]
    exact noted_putRun_quiet (storeWrite_storeOnly ..) hmuted hcolls rfl
  case scalar =>
    have hsrc := vecSources_scalar row e hop hscalar
    have hrnd : r.elemRnd = c.rnd true 0 row e := by
      simp [Run.elemRnd, c, row, e, show r.cmd.opcode = 0x40 from hop, show r.cmd.func.testBit 7 = true from hscalar]
    have hclean : s.rangesPoison b (State.vecSources c row e) = none := by rw [hsrc, rangesPoison_cons_clean _ hA]; rfl
    have hvalue : s.vecValue b c row e = vecBinary (c.func % 16) (val offA) (c.param % 2 ^ 32) := by
      simp [State.vecValue, hsrc, hop, hscalar, val, offA, z]
    refine ⟨_, exec_veBinary b 1 none s hokB hp, ?_⟩
    rw [vecStep_clean hact hop hlt hrnd hclean hvalue]
    exact noted_putRun_quiet (storeWrite_storeOnly ..) hmuted hcolls rfl
  case fma =>
    have hsrc := vecSources_fma row e hop
    have hrnd : r.elemRnd = c.rnd false c.param row e := by simp [Run.elemRnd, c, row, e, show r.cmd.opcode = 0x42 from hop]
    have hclean : s.rangesPoison b (State.vecSources c row e) = none := by
      rw [hsrc, rangesPoison_cons_clean _ hA, rangesPoison_cons_clean _ hB, rangesPoison_cons_clean _ hC]; rfl
    have hvalue : s.vecValue b c row e = enc32 (((dec32 (val offA)).mul (dec32 (val offB))).add (dec32 (val offC))) := by
      simp [State.vecValue, hsrc, hop, val, offA, offB, offC, pitchB, z]
    refine ⟨_, exec_veFma b 1 none s hokB hp, ?_⟩
    rw [vecStep_clean hact hop hlt hrnd hclean hvalue]
    exact noted_putRun_quiet (storeWrite_storeOnly ..) hmuted hcolls rfl

end Sys2Proof.Machine

/-!
PROOFS. Output rows of the layout and the sort/top-K engines (R171 to R173, R179, R180, R183, Table 4.10): O20.
-/
namespace Sys2Proof.Machine

/-! ### The layout engine -/

theorem lyRowStep_clean {s : State} {b f : Nat} {els : List Nat} {r : Run} (hclean : s.rangesPoison b (State.lyRanges r.cmd r.count) = none)
    (hfmt : r.cmd.lyFmt = f) (hels : s.lyElems b r.cmd r.count = els) : s.lyRowStep b r =
      (s.storeWrite b (r.cmd.dst + r.count * r.cmd.lyPitch) (packRow f els), { r with count := r.count + 1 }) := by
  subst hfmt hels
  simp only [State.lyRowStep]
  rw [hclean]

theorem lyRowStep_poisoned {s : State} {b p : Nat} {r : Run} (h : s.rangesPoison b (State.lyRanges r.cmd r.count) = some p) :
    s.lyRowStep b r = s.poisonStop b r p := by
  simp only [State.lyRowStep]
  rw [h]

/-- The output rows that a layout command writes: none where a row has no element (Table 4.14). -/
def Cmd.lyTotal (c : Cmd) : Nat := if c.lyOut.2 = 0 then 0 else c.lyOut.1

section
variable {s u : State} {b op : Nat} {r q : Run} (hact : s.activeRun b 2 = some r) (hlt : r.count < r.cmd.lyTotal)
  (hop : r.cmd.opcode = op)
include hact hlt hop

/-- One output row of the command that engine 2 works on. -/
theorem layoutStep_one (hunit : s.lyRowStep b r = (u, q)) : s.layoutStep b op 1 = u.putRun b 2 (q.closed r.cmd.lyTotal) :=
  engineStep_one checkLayout (fun b s r => s.lyRowStep b r) (fun r => r.cmd.lyTotal) hact hop hlt hunit

theorem layoutStep_clean {f : Nat} {els : List Nat} (hclean : s.rangesPoison b (State.lyRanges r.cmd r.count) = none)
    (hfmt : r.cmd.lyFmt = f) (hels : s.lyElems b r.cmd r.count = els) : s.layoutStep b op 1 =
      (s.storeWrite b (r.cmd.dst + r.count * r.cmd.lyPitch) (packRow f els)).putRun b 2
        { r with count := r.count + 1, status := if r.count + 1 = r.cmd.lyTotal then some stOK else none } := by
  rw [layoutStep_one hact hlt hop (lyRowStep_clean hclean hfmt hels), closed_next (active_none s b 2 r hact) hlt]

theorem layoutStep_poisoned {p : Nat} (h : s.rangesPoison b (State.lyRanges r.cmd r.count) = some p) :
    s.layoutStep b op 1 = (s.poisonLog b p).putRun b 2 { r with status := some stPOISON, detail := w64 p } := by
  rw [layoutStep_one hact hlt hop (lyRowStep_poisoned h)]
  rfl

end

section
variable {c : Cmd} (s : State) (b i : Nat)

theorem lyElems_transpose (hop : c.opcode = 0x60) : s.lyElems b c i =
    (List.range c.nRows).map fun k => s.elemAt b (c.srcA + k * c.lySrcPitch) c.fmtA i := by
  simp only [State.lyElems, hop]

theorem lyElems_copy (hop : c.opcode = 0x61) : s.lyElems b c i = s.storeRow b (c.srcA + i * c.lySrcPitch) c.fmtA c.n := by
  simp only [State.lyElems, hop]

theorem lyElems_pad (hop : c.opcode = 0x62) : s.lyElems b c i =
    if c.pads.2.2.1 ≤ i ∧ i < c.pads.2.2.1 + c.nRows then
      List.replicate c.pads.1 c.aux ++ s.storeRow b (c.srcA + (i - c.pads.2.2.1) * c.lySrcPitch) c.fmtA c.n ++
        List.replicate c.pads.2.1 c.aux
    else List.replicate (c.pads.1 + c.n + c.pads.2.1) c.aux := by
  simp only [State.lyElems, hop]

theorem lyElems_convert (hop : c.opcode = 0x63) (hmx : isMx c.fmtA = false) : s.lyElems b c i =
    (s.storeRow b (c.srcA + i * c.lySrcPitch) c.fmtA c.n).mapIdx fun e w =>
      roundFmt c.fmtOut (c.rnd true c.param i e) c.sat (decodeFmt c.fmtA w) := by
  simp only [State.lyElems, hop, convertElem, hmx, Bool.false_eq_true, if_false]

theorem lyFmt_convert (hop : c.opcode = 0x63) : c.lyFmt = c.fmtOut := if_pos hop

theorem lyFmt_move (hop : c.opcode ≠ 0x63) : c.lyFmt = c.fmtA := if_neg hop

end

/-! ### The sort/top-K engine -/

/-- The keys of the source row at COUNT with their indexes. -/
def State.rowKeys (s : State) (b : Nat) (r : Run) : List (Nat × Nat) :=
  let c := r.cmd
  let off := c.srcA + r.count * pitchOr c.srcPitch (c.n * fmtBytes c.fmtA)
  (List.range c.n).map fun e => (s.elemAt b off c.fmtA e, c.indexBase + e)

/-- The block store with the `k` keys and indexes of `out` in the output row at COUNT. -/
def State.writeKeys (s : State) (b : Nat) (r : Run) (k : Nat) (out : List (Nat × Nat)) : State :=
  let c := r.cmd
  let z := fmtBytes c.fmtA
  (s.storeWrite b (c.dst + r.count * pitchOr c.dstPitch (k * z)) (out.flatMap fun y => leBytes z y.1)).storeWrite b
    (c.aux + r.count * pitchOr c.dstPitch (k * 4)) (out.flatMap fun y => leBytes 4 y.2)

/-- The best `k` keys of `l` that are no NaN, and sentinels for the rest (R180). -/
def Cmd.bestKeys (c : Cmd) (k : Nat) (l : List (Nat × Nat)) : List (Nat × Nat) :=
  let best := (sortKeys c.fmtA c.desc (l.filter fun y => decodeFmt c.fmtA y.1 != .nan)).take k
  best ++ List.replicate (k - best.length) (sentinel c.fmtA c.desc, 0xFFFFFFFF)

section
variable {s : State} {b : Nat} {r : Run}
  (hclean : s.storePoison b (r.cmd.srcA + r.count * pitchOr r.cmd.srcPitch (r.cmd.n * fmtBytes r.cmd.fmtA))
    (r.cmd.n * fmtBytes r.cmd.fmtA) = none)
include hclean

theorem skRow_sort (hop : r.cmd.opcode = 0x78) : s.skRow b r =
    (s.writeKeys b r r.cmd.n (sortKeys r.cmd.fmtA r.cmd.desc (s.rowKeys b r)), { r with count := r.count + 1 }) := by
  have hkeys : r.cmd.outKeys = r.cmd.n := if_pos hop
  have hmerge : (r.cmd.opcode == 0x79 && r.cmd.func.testBit 1) = false := by simp [hop]
  simp only [State.skRow, hmerge, hkeys, if_pos hop, Bool.false_eq_true, if_false]
  rw [rangesPoison_cons_clean [] hclean]
  rfl

theorem skRow_topk (hop : r.cmd.opcode = 0x79) (hfresh : r.cmd.func.testBit 1 = false) : s.skRow b r =
    (s.writeKeys b r r.cmd.topK (r.cmd.bestKeys r.cmd.topK (s.rowKeys b r)), { r with count := r.count + 1 }) := by
  have hsort : r.cmd.opcode ≠ 0x78 := by rw [hop]; decide
  have hkeys : r.cmd.outKeys = r.cmd.topK := if_neg hsort
  simp only [State.skRow, hfresh, Bool.and_false, hkeys, if_neg hsort, Bool.false_eq_true, if_false, List.nil_append]
  rw [rangesPoison_cons_clean [] hclean]
  rfl

end

/-- One row of the command that engine 4 works on, with keys to write. -/
theorem sortStep_one {s u : State} {b op : Nat} {r : Run} (hact : s.activeRun b 4 = some r) (hop : r.cmd.opcode = op)
    (hlt : r.count < r.cmd.nRows) (hkeys : r.cmd.outKeys ≠ 0) (hunit : s.skRow b r = (u, { r with count := r.count + 1 })) :
    s.sortStep b op 1 = u.putRun b 4
      { r with count := r.count + 1, status := if r.count + 1 = r.cmd.nRows then some stOK else none } := by
  have htotal : (if r.cmd.outKeys = 0 then 0 else r.cmd.nRows) = r.cmd.nRows := if_neg hkeys
  rw [← closed_next (active_none s b 4 r hact) hlt]
  conv_rhs => rw [← htotal]
  rw [← htotal] at hlt
  exact engineStep_one checkSort (fun b s r => s.skRow b r) (fun r => if r.cmd.outKeys = 0 then 0 else r.cmd.nRows) hact hop hlt hunit

/-- Settles O20: the row that each command makes of clean sources, and the stop at a poisoned byte. -/
theorem layoutAndSortRows : Obligations.LayoutAndSortRows := by
  unfold Obligations.LayoutAndSortRows
  refine ⟨?layout, ?sort⟩
  case layout =>
    intro s b r hp hb hact x g c i total hlt put moved srcRow wrote
    have hokB : okB b = true := decide_eq_true hb
    refine ⟨fun hclean => ⟨fun hop => ?transpose, fun hop => ?copy, fun hop => ?pad, fun hop hmx => ?convert⟩,
      fun p hpoison => ⟨fun hop => ?_, fun hop => ?_, fun hop => ?_, fun hop => ?_⟩⟩
    case transpose =>
      rw [exec_lyTranspose b 1 s hokB hp, layoutStep_clean hact hlt hop hclean (lyFmt_move (by rw [hop]; decide))
        (lyElems_transpose s b i hop)]
      rfl
    case copy =>
      rw [exec_lyCopy2d b 1 s hokB hp, layoutStep_clean hact hlt hop hclean (lyFmt_move (by rw [hop]; decide))
        (lyElems_copy s b i hop)]
      rfl
    case pad =>
      rw [exec_lyPad b 1 s hokB hp, layoutStep_clean hact hlt hop hclean (lyFmt_move (by rw [hop]; decide))
        (lyElems_pad s b i hop)]
      rfl
    case convert =>
      rw [exec_lyConvert b 1 s hokB hp, layoutStep_clean hact hlt hop hclean (lyFmt_convert hop)
        (lyElems_convert s b i hop hmx)]
      rfl
    · rw [exec_lyTranspose b 1 s hokB hp, layoutStep_poisoned hact hlt hop hpoison]; rfl
    · rw [exec_lyCopy2d b 1 s hokB hp, layoutStep_poisoned hact hlt hop hpoison]; rfl
    · rw [exec_lyPad b 1 s hokB hp, layoutStep_poisoned hact hlt hop hpoison]; rfl
    · rw [exec_lyConvert b 1 s hokB hp, layoutStep_poisoned hact hlt hop hpoison]; rfl
  case sort =>
    intro s b r hp hb hact x g c i z off keys put moved wrote hlt hclean
    have hokB : okB b = true := decide_eq_true hb
    refine ⟨fun hop hn => ⟨?sort, sortKeys_perm ..⟩, fun hop hfresh hk => ?topk⟩
    case sort =>
      have hkeys : c.outKeys ≠ 0 := (if_pos hop).trans_ne hn
      rw [exec_skSort b 1 s hokB hp, sortStep_one hact hop hlt hkeys (skRow_sort hclean hop)]
      rfl
    case topk =>
      have hkeys : c.outKeys ≠ 0 := (if_neg (by rw [hop]; decide)).trans_ne hk
      rw [exec_skTopk b 1 s hokB hp, sortStep_one hact hop hlt hkeys (skRow_topk hclean hop hfresh)]
      rfl

end Sys2Proof.Machine

/-!
PROOFS. Rows of the gather-scatter engine (R164, R174 to R178, R183): O21.
-/
namespace Sys2Proof.Machine

/-! ### What becomes of a row (R175, R176) -/

/-- The block store's offset of the index of the row at COUNT. -/
def Run.indexAt (r : Run) : Nat := r.cmd.gsIndex + r.count * r.cmd.idxBytes

section
variable {s : State} {b : Nat} {r : Run}

theorem gsPlan_strided (h : r.cmd.indexedRows = false) : s.gsPlan b r r.count = .move r.count := by
  simp [State.gsPlan, h]

section
variable (hind : r.cmd.indexedRows = true) (hclean : s.storePoison b r.indexAt r.cmd.idxBytes = none)
include hind hclean

theorem gsPlan_past (h : r.cmd.tableRows ≤ s.storeNat b r.indexAt r.cmd.idxBytes) : s.gsPlan b r r.count =
    if r.cmd.oobZero then .zeroOrSkip else .stop s stRANGE (w64 (s.storeNat b r.indexAt r.cmd.idxBytes)) := by
  simp only [Run.indexAt] at hclean h ⊢
  simp only [State.gsPlan, hind, hclean, h, Bool.not_true, Bool.false_eq_true, if_false, if_true]

theorem gsPlan_inside {j : Nat} (hj : s.storeNat b r.indexAt r.cmd.idxBytes = j) (h : j < r.cmd.tableRows)
    (hwraps : r.cmd.rowWraps j = false) : s.gsPlan b r r.count = .move j := by
  subst hj
  simp only [Run.indexAt] at hclean h hwraps ⊢
  simp only [State.gsPlan, hind, hclean, Nat.not_le.2 h, hwraps, Bool.not_true, Bool.false_eq_true, if_false]

end

/-! ### One row (R174 to R177) -/

/-- The block store's offset of the row at COUNT. -/
def Run.rowAt (r : Run) : Nat := r.cmd.gsLocal + r.count * r.cmd.gsPitch

/-- A run whose row at COUNT is done. -/
def Run.nextRow (r : Run) : Run := { r with count := r.count + 1 }

/-- A run whose row at COUNT has an index past the table (R176). -/
def Run.zeroRow (r : Run) : Run := { r with count := r.count + 1, oob := r.oob + 1 }

/-- A gather-scatter command that stops. -/
def Run.gsStopped (r : Run) (st : Nat) (detail : W64) : Run :=
  { r with status := some st, detail := detail, bisque := r.bisque || decide (0 < r.bisqueRows) }

/-- DETAIL of a gather-scatter command that a fault at an address stops (R164). -/
def Run.faultDetail (r : Run) (st va : Nat) : W64 := if st = stXLATE then w64 va else r.gsDetail

theorem gsRow_stop {u : State} {st : Nat} {d : W64} (hplan : s.gsPlan b r r.count = .stop u st d) :
    s.gsRow b r = (u, r.gsStopped st d) := by
  simp only [State.gsRow, hplan]
  rfl

theorem gsRow_filled (hplan : s.gsPlan b r r.count = .zeroOrSkip) (hreads : r.cmd.gsReads = true) :
    s.gsRow b r = (s.storeWrite b r.rowAt (List.replicate r.cmd.rowLen 0), r.zeroRow) := by
  simp only [State.gsRow, hplan, State.gsZero, hreads, if_true]
  rfl

theorem gsRow_skipped (hplan : s.gsPlan b r r.count = .zeroOrSkip) (hreads : r.cmd.gsReads = false) :
    s.gsRow b r = (s, r.zeroRow) := by
  simp only [State.gsRow, hplan, State.gsZero, hreads, Bool.false_eq_true, if_false]
  rfl

/-- The read that a row's plan asks of memory. -/
def State.readRow (s : State) (b : Nat) (c : Cmd) (j : Nat) : EngRead :=
  s.engRead (blockAgent s.moduleId b) (.gs b c.seq) (if c.volatile = true then none else some b) c.pasid (c.rowAddr j) c.rowLen

/-- The write that a row's plan asks of memory. -/
def State.writeRow (s : State) (b : Nat) (r : Run) (j : Nat) : EngWrite :=
  s.engWrite (blockAgent s.moduleId b) (fun _ => .gs b r.cmd.seq) r.count r.cmd.pasid (r.cmd.rowAddr j)
    (s.rdBytes (storeBase b + r.rowAt) r.cmd.rowLen)

section
variable {j : Nat} (hplan : s.gsPlan b r r.count = .move j) (hlen : r.cmd.rowLen ≠ 0)
include hplan hlen

section
variable (hreads : r.cmd.gsReads = true)
include hreads

theorem gsRow_read {u : State} {bs : List Byte} (h : s.readRow b r.cmd j = .data u bs) :
    s.gsRow b r = (u.storeWrite b r.rowAt bs, r.nextRow) := by
  simp only [State.gsRow, hplan, hlen, hreads, if_true, if_false]
  rw [← State.readRow, h]
  rfl

theorem gsRow_readFault {u : State} {st va : Nat} (h : s.readRow b r.cmd j = .fault u st va) :
    s.gsRow b r = (u, r.gsStopped st (r.faultDetail st va)) := by
  simp only [State.gsRow, hplan, hlen, hreads, if_true, if_false]
  rw [← State.readRow, h]
  rfl

theorem gsRow_readWait {u : State} (h : s.readRow b r.cmd j = .wait u) : s.gsRow b r = (u, r) := by
  simp only [State.gsRow, hplan, hlen, hreads, if_true, if_false]
  rw [← State.readRow, h]

end

section
variable (hreads : r.cmd.gsReads = false) (hclean : s.storePoison b r.rowAt r.cmd.rowLen = none)
include hreads hclean

theorem gsRow_written {u : State} (h : s.writeRow b r j = .done u none) : s.gsRow b r = (u, r.nextRow) := by
  simp only [State.gsRow, hplan, hlen, hreads, Bool.false_eq_true, if_false]
  rw [← Run.rowAt, hclean]
  dsimp only
  rw [← State.writeRow, h]
  rfl

theorem gsRow_writeFault {u : State} {st va : Nat} (h : s.writeRow b r j = .fault u st va) :
    s.gsRow b r = (u, r.gsStopped st (r.faultDetail st va)) := by
  simp only [State.gsRow, hplan, hlen, hreads, Bool.false_eq_true, if_false]
  rw [← Run.rowAt, hclean]
  dsimp only
  rw [← State.writeRow, h]
  rfl

end
end
end

/-! ### One unit of work (R177, R178, R183) -/

theorem active_notStopping {s : State} {b e : Nat} {r : Run} (h : s.activeRun b e = some r) : r.stopping = none := by
  have hgoes := List.find?_some h
  simpa using (Bool.and_eq_true_iff.1 hgoes).2

/-- A command whose rows are all issued ends as soon as its writes are acknowledged (R178, R327). -/
def Run.gsClosed (q : Run) : Run :=
  if q.count = q.cmd.gsN then { q with
    stopping := some (if 0 < q.bisqueRows then stBISQUE_USED else stOK), detail := q.gsDetail, bisque := decide (0 < q.bisqueRows) }
  else q

section
variable {s u : State} {b op : Nat} {r : Run} (hact : s.activeRun b 3 = some r) (hop : r.cmd.opcode = op)
  (hfree : ¬ (r.cmd.fretKind = 2 ∧ r.cmd.target = .passed))
include hact hop hfree

/-- A running command whose deadline has not passed does its row. -/
theorem gsStep_row : s.gsStep b op 1 = (State.gsRows 1 s b r).1.putRun b 3 (State.gsRows 1 s b r).2 := by
  have hwork : s.gsWork b r 1 = State.gsRows 1 s b r := by
    simp [State.gsWork, hfree, active_none s b 3 r hact, active_notStopping hact]
  have hbusy : (s.activeRun b 3).isSome = true := by rw [hact]; rfl
  simp only [State.gsStep, hbusy, if_true]
  rw [engineStep_active s b 3 op 1 checkGs State.gsWork r hact hop, hwork]

variable (hlt : r.count < r.cmd.gsN)
include hlt

/-- A row done: COUNT moves by one, and the command ends after the last row. -/
theorem gsStep_moves {q : Run} (hrow : s.gsRow b r = (u, q)) (hcount : q.count = r.count + 1) (hstatus : q.status = none)
    (hcmd : q.cmd = r.cmd) : s.gsStep b op 1 = u.putRun b 3 q.gsClosed := by
  have hrows : State.gsRows 1 s b r = (u, q.gsClosed) := by
    have hgo : ¬ r.cmd.gsN ≤ r.count := by omega
    have hmoved : ¬ q.count = r.count := by omega
    have hlast : q.cmd.gsN ≤ q.count ↔ q.count = q.cmd.gsN := by rw [hcmd, hcount]; omega
    simp only [State.gsRows, active_none s b 3 r hact, hrow, Option.isSome_none, Bool.false_eq_true, if_false, hgo, hmoved,
      hlast, hstatus, Option.isNone_none, and_true]
    by_cases hend : q.count = q.cmd.gsN
    · rw [if_pos hend, Run.gsClosed, if_pos hend, State.gsEnd]
    · rw [if_neg hend, Run.gsClosed, if_neg hend]
  rw [gsStep_row hact hop hfree, hrows]

/-- A row that stops the command. -/
theorem gsStep_stops {st : Nat} {d : W64} (hrow : s.gsRow b r = (u, r.gsStopped st d)) :
    s.gsStep b op 1 = u.putRun b 3 (r.gsStopped st d) := by
  have hrows : State.gsRows 1 s b r = (u, r.gsStopped st d) := by
    have hgo : ¬ r.cmd.gsN ≤ r.count := by omega
    have hstopped : (r.gsStopped st d).status.isNone = false := rfl
    simp only [State.gsRows, active_none s b 3 r hact, hrow, Option.isSome_none, Bool.false_eq_true, if_false, hgo, hstopped,
      and_false]
  rw [gsStep_row hact hop hfree, hrows]

/-- A row that must wait. -/
theorem gsStep_waits (hrow : s.gsRow b r = (u, r)) : s.gsStep b op 1 = u.putRun b 3 r := by
  have hrows : State.gsRows 1 s b r = (u, r) := by
    have hgo : ¬ r.cmd.gsN ≤ r.count := by omega
    simp only [State.gsRows, active_none s b 3 r hact, hrow, Option.isSome_none, Bool.false_eq_true, if_false, hgo,
      Option.isNone_none, and_self, if_true]
  rw [gsStep_row hact hop hfree, hrows]

theorem gsStep_nextRow (hrow : s.gsRow b r = (u, r.nextRow)) : s.gsStep b op 1 = u.putRun b 3 r.nextRow.gsClosed :=
  gsStep_moves hact hop hfree hlt hrow rfl (active_none s b 3 r hact) rfl

theorem gsStep_zeroRow (hrow : s.gsRow b r = (u, r.zeroRow)) : s.gsStep b op 1 = u.putRun b 3 r.zeroRow.gsClosed :=
  gsStep_moves hact hop hfree hlt hrow rfl (active_none s b 3 r hact) rfl

end

section
variable {c : Cmd}

theorem gather_rows (hop : c.opcode = 0x70) : c.indexedRows = true ∧ c.gsReads = true := by
  simp [Cmd.indexedRows, Cmd.gsReads, hop]

theorem scatter_rows (hop : c.opcode = 0x71) : c.indexedRows = true ∧ c.gsReads = false := by
  simp [Cmd.indexedRows, Cmd.gsReads, hop]

theorem load_rows (hop : c.opcode = 0x72) : c.indexedRows = false ∧ c.gsReads = true := by
  simp [Cmd.indexedRows, Cmd.gsReads, hop]

theorem store_rows (hop : c.opcode = 0x73) : c.indexedRows = false ∧ c.gsReads = false := by
  simp [Cmd.indexedRows, Cmd.gsReads, hop]

end

/-- Settles O21: the plan of the row, what the access to memory answers, and the run after it. -/
theorem gatherScatterRows : Obligations.GatherScatterRows := by
  unfold Obligations.GatherScatterRows
  intro s b r hp hb hact c hfree hlt cache loc ag ends moved next1 zeroed stops index indexClean
  have hokB : okB b = true := decide_eq_true hb
  refine ⟨fun hop hclean hpast => ⟨fun hoob => ?filled, fun hoob => ?gatherRange⟩,
    fun hop hclean hpast => ⟨fun hoob => ?skipped, fun hoob => ?scatterRange⟩, fun j hlen =>
    ⟨fun u bs hread => ⟨fun hop hclean hj hin hwraps => ?gathered, fun hop hj => ?loaded⟩, fun u st va hread hop hj => ?loadFault,
      fun u hread hop hj => ?loadWait, fun hstore => ⟨fun u hwrite hop hclean hj hin hwraps => ?scattered,
        fun u hwrite hop hj => ?stored, fun u st va hwrite hop hj => ?storeFault⟩⟩⟩
  case filled =>
    obtain ⟨hind, hreads⟩ := gather_rows hop
    have hplan := (gsPlan_past hind hclean hpast).trans (if_pos hoob)
    rw [exec_gsGather b 1 s hokB hp, gsStep_zeroRow hact hop hfree hlt (gsRow_filled hplan hreads)]
    rfl
  case gatherRange =>
    have hplan := (gsPlan_past (gather_rows hop).1 hclean hpast).trans (if_neg (Bool.eq_false_iff.1 hoob))
    rw [exec_gsGather b 1 s hokB hp, gsStep_stops hact hop hfree hlt (gsRow_stop hplan)]
    rfl
  case skipped =>
    obtain ⟨hind, hreads⟩ := scatter_rows hop
    have hplan := (gsPlan_past hind hclean hpast).trans (if_pos hoob)
    rw [exec_gsScatter b 1 s hokB hp, gsStep_zeroRow hact hop hfree hlt (gsRow_skipped hplan hreads)]
    rfl
  case scatterRange =>
    have hplan := (gsPlan_past (scatter_rows hop).1 hclean hpast).trans (if_neg (Bool.eq_false_iff.1 hoob))
    rw [exec_gsScatter b 1 s hokB hp, gsStep_stops hact hop hfree hlt (gsRow_stop hplan)]
    rfl
  case gathered =>
    obtain ⟨hind, hreads⟩ := gather_rows hop
    have hplan := gsPlan_inside hind hclean hj hin hwraps
    rw [exec_gsGather b 1 s hokB hp, gsStep_nextRow hact hop hfree hlt (gsRow_read hplan hlen hreads hread)]
    rfl
  case loaded =>
    subst hj
    obtain ⟨hind, hreads⟩ := load_rows hop
    rw [exec_gsLoad b 1 s hokB hp, gsStep_nextRow hact hop hfree hlt (gsRow_read (gsPlan_strided hind) hlen hreads hread)]
    rfl
  case loadFault =>
    subst hj
    obtain ⟨hind, hreads⟩ := load_rows hop
    rw [exec_gsLoad b 1 s hokB hp, gsStep_stops hact hop hfree hlt (gsRow_readFault (gsPlan_strided hind) hlen hreads hread)]
    rfl
  case loadWait =>
    subst hj
    obtain ⟨hind, hreads⟩ := load_rows hop
    rw [exec_gsLoad b 1 s hokB hp, gsStep_waits hact hop hfree hlt (gsRow_readWait (gsPlan_strided hind) hlen hreads hread)]
  case scattered =>
    obtain ⟨hind, hreads⟩ := scatter_rows hop
    have hplan := gsPlan_inside hind hclean hj hin hwraps
    rw [exec_gsScatter b 1 s hokB hp, gsStep_nextRow hact hop hfree hlt (gsRow_written hplan hlen hreads hstore hwrite)]
    rfl
  case stored =>
    subst hj
    obtain ⟨hind, hreads⟩ := store_rows hop
    rw [exec_gsStore b 1 s hokB hp,
      gsStep_nextRow hact hop hfree hlt (gsRow_written (gsPlan_strided hind) hlen hreads hstore hwrite)]
    rfl
  case storeFault =>
    subst hj
    obtain ⟨hind, hreads⟩ := store_rows hop
    rw [exec_gsStore b 1 s hokB hp,
      gsStep_stops hact hop hfree hlt (gsRow_writeFault (gsPlan_strided hind) hlen hreads hstore hwrite)]
    rfl

end Sys2Proof.Machine

/-!
PROOFS. Configuration registers with checked values (R163, R188, R190, R322, R449, R460, R465): O8.
-/
namespace Sys2Proof.Machine

/-! ### Fields and addresses -/

theorem bits_low13 (v : W64) : bits v 12 0 = v.toNat % 2 ^ 13 := rfl

theorem bits_low32 (v : W64) : bits v 31 0 = v.toNat % 2 ^ 32 := rfl

theorem and_mask_low13 (v : W64) : (v &&& mask 12 0).toNat = v.toNat % 2 ^ 13 := by
  rw [BitVec.toNat_and]
  exact Nat.and_two_pow_sub_one_eq_mod v.toNat 13

theorem rreg_inj {i j o : Nat} (h : rreg i o = rreg j o) : i = j := by
  have e : (i * 0x100000000 + o : Nat) = j * 0x100000000 + o := h
  omega

theorem rreg_parts (r o : Nat) (ho : o < 0x100000000) : rreg r o / 0x100000000 = r ∧ rreg r o % 0x100000000 = o := regOf_parts r o ho

/-- A write that goes to every region's copy of a register stores the value there and changes nothing else. -/
theorem setAll_rreg (s : State) (o : Nat) (v : W64) :
    s.setAll (rreg · o) v = { s with regs := (s.setAll (rreg · o) v).regs } ∧
      (∀ q, q < 4 → (s.setAll (rreg · o) v).reg (rreg q o) = v) ∧
      ∀ g, (∀ q, g ≠ rreg q o) → (s.setAll (rreg · o) v).reg g = s.reg g :=
  setAll_four s _ v fun _ _ _ _ => rreg_inj

/-! ### The registers -/

section
variable (s : State) (ag : Agent)

theorem cplCtrlWrite_busy (b : Nat) (v : W64) (h : ¬ ((s.block b).state = .halted ∨ (s.block b).state = .reset)) :
    s.cplCtrlWrite ag b v = s.refuseBlock ag b 0x020 stSTATE := by
  obtain ⟨hhalted, hreset⟩ := not_or.1 h
  simp [State.cplCtrlWrite, State.blkCfgOpen, hhalted, hreset]

theorem cplCtrlWrite_idle (b : Nat) (v : W64) (h : (s.block b).state = .halted ∨ (s.block b).state = .reset) :
    s.cplCtrlWrite ag b v =
      if 4 ≤ bits v 27 24 ∧ bits v 27 24 ≤ 12 ∧ bits v 20 0 % (2 ^ bits v 27 24 * 32) = 0 then
        s.setReg (BLK_CPL_CTRL b) (v &&& 0x3F1FFFFF)
      else s.refuseBlock ag b 0x020 stRANGE := by
  have hopen : s.blkCfgOpen b = true := by rcases h with h | h <;> simp [State.blkCfgOpen, h]
  have hbad : (bits v 27 24 < 4 ∨ 12 < bits v 27 24 ∨ bits v 20 0 % (2 ^ bits v 27 24 * 32) ≠ 0) ↔
      ¬ (4 ≤ bits v 27 24 ∧ bits v 27 24 ≤ 12 ∧ bits v 20 0 % (2 ^ bits v 27 24 * 32) = 0) := by omega
  simp only [State.cplCtrlWrite, hopen, hbad, Bool.not_true, Bool.false_eq_true, if_false, ite_not]
  rfl

theorem cplHeadWrite_eq (b : Nat) (v : W64) : s.cplHeadWrite ag b v =
    if ((s.reg (BLK_CPL_TAIL b)).toNat + 2 ^ 32 - v.toNat % 2 ^ 32) % 2 ^ 32 ≤ 2 ^ bits (s.reg (BLK_CPL_CTRL b)) 27 24 then
      s.setReg (BLK_CPL_HEAD b) (w64 (v.toNat % 2 ^ 32))
    else s.refuseBlock ag b 0x030 stRANGE := by
  simp only [State.cplHeadWrite, State.cplSize, bits_low32, ← Nat.not_le, ite_not]

theorem moduleLimitWrite_admits (r : Nat) (v : W64) (hlo : 1500 ≤ v.toNat % 2 ^ 13) (hhi : v.toNat % 2 ^ 13 ≤ 5200) :
    s.moduleLimitWrite ag r v = s.setAll PWR_MODULE_LIMIT (v &&& mask 12 0) :=
  if_pos (decide_eq_true ⟨hlo, hhi⟩)

theorem moduleLimitWrite_refuses (r : Nat) (v : W64) (h : v.toNat % 2 ^ 13 < 1500 ∨ 5200 < v.toNat % 2 ^ 13) :
    s.moduleLimitWrite ag r v = s.log r stRANGE 1 ag.code 0x100000 0 := by
  obtain ⟨hdiv, hmod⟩ := rreg_parts r 0x100000 (by decide)
  have hout : ¬ State.moduleLimitOk v = true := fun hok => by
    obtain ⟨hlo, hhi⟩ := of_decide_eq_true hok
    rw [bits_low13] at hlo hhi
    omega
  rw [State.moduleLimitWrite, if_neg hout, State.pwrRefuse, PWR_MODULE_LIMIT, hdiv, hmod]

theorem domainWrite_admits (r d : Nat) (v : W64) (h : bits v 9 5 ≤ bits v 14 10) (hcap : bits v 14 10 ≤ maxStep d) :
    s.domainWrite ag r d v = s.setDomain r d { s.domain r d with floor := bits v 9 5, cap := bits v 14 10 } :=
  if_pos (decide_eq_true ⟨h, hcap⟩)

theorem domainWrite_refuses (r d : Nat) (v : W64) (hd : d < 4) (h : bits v 14 10 < bits v 9 5 ∨ maxStep d < bits v 14 10) :
    s.domainWrite ag r d v = s.log r stRANGE 1 ag.code (0x100100 + 8 * d) 0 := by
  obtain ⟨hdiv, hmod⟩ := rreg_parts r (0x100100 + 8 * d) (by omega)
  have hout : ¬ State.domainOk d v = true := fun hok => by
    obtain ⟨hfloor, hcap⟩ := of_decide_eq_true hok
    omega
  rw [State.domainWrite, if_neg hout, State.pwrRefuse, PWR_DOMAIN, hdiv, hmod]

theorem ackSeqWrite_eq (r : Nat) (v : W64) : s.ackSeqWrite ag r v =
    if (s.reg (KILN_ACK_SEQ 0)).toNat ≤ v.toNat ∧ v.toNat ≤ s.kiln.nextExport then s.setAll KILN_ACK_SEQ v
    else s.kilnRefuse ag (KILN_ACK_SEQ r) stRANGE := by
  have hbad : (v.toNat < (s.reg (KILN_ACK_SEQ 0)).toNat ∨ s.kiln.nextExport < v.toNat) ↔
      ¬ ((s.reg (KILN_ACK_SEQ 0)).toNat ≤ v.toNat ∧ v.toNat ≤ s.kiln.nextExport) := by omega
  simp only [State.ackSeqWrite, hbad, ite_not]

end

/-- Settles O8: each register's write is its admitted value or the log entry of the value that it refuses. -/
theorem checkedConfigurationWrites : Obligations.CheckedConfigurationWrites := by
  unfold Obligations.CheckedConfigurationWrites
  refine ⟨?ctrl, ?head, ?limit, ?domain, ?regulator, ?ack⟩
  case ctrl =>
    intro s ag b v hp hw n idle good refused
    rw [exec_blkCplCtrlWrite ag b v s hw hp]
    refine ⟨fun hbusy => ?_, fun hidle hbad => ?_, fun hidle hgood => ?_⟩
    · rw [cplCtrlWrite_busy s ag b v hbusy]; rfl
    · rw [cplCtrlWrite_idle s ag b v hidle, if_neg hbad]; rfl
    · rw [cplCtrlWrite_idle s ag b v hidle, if_pos hgood]
  case head =>
    intro s ag b v hp hw head fits
    rw [exec_blkCplHeadWrite ag b v s hw hp, cplHeadWrite_eq]
    refine ⟨fun hfits => ?_, fun hlong => ?_⟩
    · rw [if_pos hfits]
    · rw [if_neg hlong]; rfl
  case limit =>
    intro s ag r v hp hw w
    rw [exec_pwrModuleLimitWrite ag r v s hw hp]
    refine ⟨fun hlo hhi => ?_, fun hout => ⟨_, rfl, moduleLimitWrite_refuses s ag r v hout⟩⟩
    rw [moduleLimitWrite_admits s ag r v hlo hhi]
    obtain ⟨hframe, hcopies, hothers⟩ := setAll_rreg s 0x100000 (v &&& mask 12 0)
    exact ⟨_, rfl, hframe, fun q hq => (congrArg BitVec.toNat (hcopies q hq)).trans (and_mask_low13 v), hothers⟩
  case domain =>
    intro s ag r d v hp hw floor cap
    have hd : d < 4 := by
      have hwf : (ag.wf && okR r && okDomain d) = true := hw
      exact of_decide_eq_true (Bool.and_eq_true_iff.1 hwf).2
    rw [exec_pwrDomainWrite ag r d v s hw hp]
    refine ⟨fun hfloor hcap => ?_, fun hout => ⟨_, rfl, domainWrite_refuses s ag r d v hd hout⟩⟩
    rw [domainWrite_admits s ag r d v hfloor hcap]
    rfl
  case regulator =>
    intro s ag r q p v hp hw w bad
    rw [exec_mgmtRegCfgWrite ag r q p v s hw hp, State.regCfgWrite]
    exact ⟨fun hgood => by rw [if_neg hgood], fun hbad => by rw [if_pos hbad]⟩
  case ack =>
    intro s ag r v hp hw good
    rw [exec_kilnAckSeqWrite ag r v s hw hp, ackSeqWrite_eq]
    refine ⟨fun hgood => ?_, fun hbad => ?_⟩
    · rw [if_pos hgood]
      exact ⟨_, rfl, setAll_rreg s 0x201038 v⟩
    · rw [if_neg hbad]
      exact ⟨_, rfl, rfl⟩

end Sys2Proof.Machine

/-!
PROOFS. The command queues of a block (R152 to R154, R158 to R160): O14.
-/
namespace Sys2Proof.Machine

/-! ### A push (R152 to R154) -/

/-- The command that a push makes of the staging window and the 8 bytes stored. -/
def State.pushedCmd (s : State) (b : Nat) (v : W64) : Cmd :=
  let x := s.block b
  let c0 : Cmd := { seq := x.nextSeq, word := (x.staging &&& BitVec.ofNat 512 (2 ^ 448 - 1)) ||| (v.setWidth 512 <<< 448) }
  { c0 with target := targetOf s c0.fretKind (c0.f 12 31 0) }

/-- The window is clear and the next SEQ is taken. -/
def Block.opened (x : Block) : Block := { x with staging := 0, nextSeq := x.nextSeq + 1 }

/-- The block after the push of a command. -/
def Block.queued (x : Block) (c : Cmd) : Block :=
  let e := engineOf c.opcode
  let g := x.engine e
  if e = 7 then x.opened.setEngine e { g with started := g.started ++ [{ cmd := c, status := some stRANGE }] }
  else if g.spill = [] ∧ g.hw.length < 64 then (x.opened.setEngine e { g with hw := g.hw ++ [c] }).settle e 64
  else x.opened.setEngine e { g with spill := g.spill ++ [{ c with spilled := true }] }

section
variable (x : Block) (c : Cmd)

theorem queued_unlisted (h7 : engineOf c.opcode = 7) : x.queued c = x.opened.setEngine (engineOf c.opcode)
    { x.engine (engineOf c.opcode) with started := (x.engine (engineOf c.opcode)).started ++ [{ cmd := c, status := some stRANGE }] } :=
  if_pos h7

theorem queued_hw (h7 : engineOf c.opcode ≠ 7)
    (hroom : (x.engine (engineOf c.opcode)).spill = [] ∧ (x.engine (engineOf c.opcode)).hw.length < 64) :
    x.queued c = (x.opened.setEngine (engineOf c.opcode)
      { x.engine (engineOf c.opcode) with hw := (x.engine (engineOf c.opcode)).hw ++ [c] }).settle (engineOf c.opcode) 64 :=
  (if_neg h7).trans (if_pos hroom)

theorem queued_spill (h7 : engineOf c.opcode ≠ 7)
    (hfull : ¬ ((x.engine (engineOf c.opcode)).spill = [] ∧ (x.engine (engineOf c.opcode)).hw.length < 64)) :
    x.queued c = x.opened.setEngine (engineOf c.opcode)
      { x.engine (engineOf c.opcode) with spill := (x.engine (engineOf c.opcode)).spill ++ [{ c with spilled := true }] } :=
  (if_neg h7).trans (if_neg hfull)

/-- A push changes the window, the next SEQ and its own engine's queue alone. -/
theorem queued_frame : x.queued c = { x with staging := 0, nextSeq := x.nextSeq + 1, engines := (x.queued c).engines } ∧
    ∀ k, k ≠ engineOf c.opcode → (x.queued c).engine k = x.engine k := by
  have hset (g : Engine) : ∀ k, k ≠ engineOf c.opcode → (x.opened.setEngine (engineOf c.opcode) g).engine k = x.engine k :=
    fun k hk => engine_set_ne x.opened _ k g hk
  by_cases h7 : engineOf c.opcode = 7
  · rw [queued_unlisted x c h7]
    exact ⟨rfl, hset _⟩
  by_cases hroom : (x.engine (engineOf c.opcode)).spill = [] ∧ (x.engine (engineOf c.opcode)).hw.length < 64
  · rw [queued_hw x c h7 hroom]
    obtain ⟨hframe, hothers⟩ := settle_does (x.opened.setEngine (engineOf c.opcode)
      { x.engine (engineOf c.opcode) with hw := (x.engine (engineOf c.opcode)).hw ++ [c] }) (engineOf c.opcode) 64
    exact ⟨hframe.trans rfl, fun k hk => (hothers k hk).trans (hset _ k hk)⟩
  · rw [queued_spill x c h7 hroom]
    exact ⟨rfl, hset _⟩

end

theorem hartReady_sequencer {s : State} {b : Nat} (hr : s.hartReady (144 + b) = true) :
    s.dieLive (b / 128) (b % 128 / 64) = true ∧ (s.block b).state ≠ .reset ∧ (s.block b).state ≠ .muted := by
  have hseq : ¬ 144 + b < 144 := by omega
  simp only [State.hartReady, State.hartRuns, State.hartLive, hseq, if_false, Nat.add_sub_cancel_left, Bool.and_eq_true,
    Bool.or_eq_true, beq_iff_eq] at hr
  obtain ⟨⟨⟨hlive, -⟩, hstate⟩, -⟩ := hr
  refine ⟨hlive, ?_⟩
  rcases hstate with h | ⟨h, -⟩ <;> rw [h] <;> exact ⟨BlockState.noConfusion, BlockState.noConfusion⟩

theorem enqueue_hw {s : State} {b e : Nat} (c : Cmd) (hroom : ((s.block b).engine e).spill = [] ∧ ((s.block b).engine e).hw.length < 64) :
    s.enqueue b e c = s.setBlock b (((s.block b).setEngine e
      { (s.block b).engine e with hw := ((s.block b).engine e).hw ++ [c] }).settle e 64) := if_pos hroom

theorem enqueue_spill {s : State} {b e : Nat} (c : Cmd)
    (hfull : ¬ (((s.block b).engine e).spill = [] ∧ ((s.block b).engine e).hw.length < 64)) :
    s.enqueue b e c = (s.setBlock b ((s.block b).setEngine e
      { (s.block b).engine e with spill := ((s.block b).engine e).spill ++ [{ c with spilled := true }] })).bump
        (BLK_SPILL_PUSHES b) 1 := if_neg hfull

/-- The state after the push of a command: BLK_SPILL_PUSHES counts one that goes to the spill queue. -/
def State.queued (s : State) (b : Nat) (c : Cmd) : State :=
  let g := (s.block b).engine (engineOf c.opcode)
  let u := s.setBlock b ((s.block b).queued c)
  if engineOf c.opcode ≠ 7 ∧ ¬ (g.spill = [] ∧ g.hw.length < 64) then u.bump (BLK_SPILL_PUSHES b) 1 else u

section
variable (s : State) (b : Nat) (c : Cmd)

theorem stateQueued_frame : s.queued b c = { s with blocks := s.blocks.set b ((s.block b).queued c), regs := (s.queued b c).regs } := by
  unfold State.queued
  dsimp only
  split <;> rfl

theorem stateQueued_block : (s.queued b c).block b = (s.block b).queued c := by
  rw [stateQueued_frame]
  exact State.block_setBlock_self s b _

theorem stateQueued_reg_ne {r : Reg} (h : r ≠ BLK_SPILL_PUSHES b) : (s.queued b c).reg r = s.reg r := by
  unfold State.queued
  dsimp only
  split
  · exact State.reg_bump_ne _ _ h
  · rfl

end

/-- A push to a running or halted block of a live die queues its command. -/
theorem pushCmd_queues {s : State} {b : Nat} (v : W64) (hlive : s.dieLive (b / 128) (b % 128 / 64) = true)
    (hreset : (s.block b).state ≠ .reset) (hmuted : (s.block b).state ≠ .muted) (hx : (s.block b).xchk = none)
    (hspill : ((s.block b).engine (engineOf (s.pushedCmd b v).opcode)).spill.length < 4032) :
    s.pushCmd b v = s.queued b (s.pushedCmd b v) := by
  let c := s.pushedCmd b v
  let e := engineOf c.opcode
  let g := (s.block b).engine e
  have hgo : ¬ (4032 ≤ g.spill.length ∨ (!s.dieLive (b / 128) (b % 128 / 64)) = true) := by
    rw [hlive]; simpa using hspill
  have hunchecked : s.xchkAbandon b = s := by unfold State.xchkAbandon; rw [hx]
  let v0 : State := s.setBlock b (s.block b).opened
  have hopened : v0.block b = (s.block b).opened := State.block_setBlock_self ..
  have hpush : s.pushCmd b v = if e = 7 then v0.updBlock b fun x => x.setEngine e
      { g with started := g.started ++ [{ cmd := c, status := some stRANGE }] } else v0.enqueue b e c := by
    unfold State.pushCmd
    refine (if_neg hgo).trans ((if_neg hmuted).trans ((if_neg hreset).trans ?_))
    rw [hunchecked]
    rfl
  have hengine : (v0.block b).engine e = g := by rw [hopened]; rfl
  rw [hpush, State.queued]
  by_cases h7 : e = 7
  · have hlisted : ¬ (e ≠ 7 ∧ ¬ (g.spill = [] ∧ g.hw.length < 64)) := fun h => h.1 h7
    rw [if_pos h7, if_neg hlisted, updBlock_setBlock]
    exact congrArg (s.setBlock b) (queued_unlisted (s.block b) c h7).symm
  by_cases hroom : g.spill = [] ∧ g.hw.length < 64
  · have hin : ¬ (e ≠ 7 ∧ ¬ (g.spill = [] ∧ g.hw.length < 64)) := fun h => h.2 hroom
    rw [if_neg h7, if_neg hin, enqueue_hw c (by rw [hengine]; exact hroom), hengine, hopened, setBlock_setBlock]
    exact congrArg (s.setBlock b) (queued_hw (s.block b) c h7 hroom).symm
  · rw [if_neg h7, if_pos ⟨h7, hroom⟩, enqueue_spill c (by rw [hengine]; exact hroom), hengine, hopened, setBlock_setBlock]
    exact congrArg (fun y => (s.setBlock b y).bump (BLK_SPILL_PUSHES b) 1) (queued_spill (s.block b) c h7 hroom).symm

/-- A sequencer that holds nothing back pushes at once and retires. -/
theorem cmdPush_queues {s : State} {b : Nat} (v : W64) (hr : s.hartReady (144 + b) = true) (hn : HoldsNothing s (144 + b))
    (hx : (s.block b).xchk = none)
    (hspill : ((s.block b).engine (engineOf (s.pushedCmd b v).opcode)).spill.length < 4032) :
    s.cmdPush b v = ((s.setHart (144 + b) (s.hart (144 + b))).queued b (s.pushedCmd b v)).retire (144 + b) := by
  obtain ⟨hlive, hreset, hmuted⟩ := hartReady_sequencer hr
  have hidle := State.pushOut_idle s (144 + b) hn.stores hn.combine hn.wc
  have hgo : ¬ ((!(s.setHart (144 + b) (s.hart (144 + b))).settled (144 + b) false) = true ∨ 4032 ≤
      ((s.block b).engine (engineOf ({ seq := 0, word := (s.pushedCmd b v).word } : Cmd).opcode)).spill.length) := by
    rw [hn.setHart_same.settled false]
    rintro (h | h)
    · exact absurd h (by decide)
    · exact absurd h (Nat.not_le.2 hspill)
  have hword : (v.setWidth 512 <<< 448 ||| ((s.block b).staging &&& BitVec.ofNat 512 (2 ^ 448 - 1)) : BitVec 512) =
      (s.pushedCmd b v).word := BitVec.or_comm ..
  rw [← hword] at hgo
  unfold State.cmdPush
  refine (if_pos hr).trans ?_
  unfold State.stagingPush
  dsimp only
  rw [hidle, Nat.add_sub_cancel_left]
  refine (if_neg hgo).trans ?_
  exact congrArg (·.retire (144 + b)) (pushCmd_queues (s := s.setHart (144 + b) (s.hart (144 + b))) v hlive hreset hmuted hx hspill)

/-! ### Refilling from spill (R154) -/

theorem refill_stays {s : State} {b e : Nat} (h : ((s.block b).engine e).spill = [] ∨ 32 < ((s.block b).engine e).hw.length) :
    s.refill b e = s := by
  refine if_neg ?_
  rintro ⟨hspill, hlen⟩
  rcases h with h | h
  · exact hspill h
  · omega

theorem refill_moves {s : State} {b e : Nat} (hspill : ((s.block b).engine e).spill ≠ []) (hlen : ((s.block b).engine e).hw.length ≤ 32)
    (hlate : ∀ d ∈ ((s.block b).engine e).hw ++ ((s.block b).engine e).spill.take 32, d.late = none) :
    let g := (s.block b).engine e
    s.refill b e = s.setBlock b ((s.block b).setEngine e { g with hw := g.hw ++ g.spill.take 32, spill := g.spill.drop 32 }) := by
  refine (if_pos ⟨hspill, hlen⟩).trans (congrArg (s.setBlock b) (settle_none _ e 64 ?_))
  rwa [Block.engine_set]

/-! ### The end of a wait (R158, R159) -/

theorem waiting_none {x : Block} {c : Cmd}
    (h : ∀ d ∈ x.outstanding, ¬ (d.seq < c.seq ∧ d.sigEn = true ∧ c.wait.testBit d.sig = true)) : x.waiting c = false := by
  refine List.any_eq_false.2 fun d hd => ?_
  simpa [and_assoc] using h d hd

theorem tokenFailed_iff (x : Block) (c : Cmd) :
    x.tokenFailed c = true ↔ ∃ m ∈ x.marks, c.wait.testBit m.1 = true ∧ m.2 < c.seq := by
  simp [Block.tokenFailed]

/-- The wait of the command in front has ended. -/
theorem tokenWaitEnd_decides {s : State} {b e : Nat} {c : Cmd} {rest : List Cmd} (hhw : ((s.block b).engine e).hw = c :: rest)
    (hwait : c.wait ≠ 0) (hwaited : c.waited = false) (hdone : (s.block b).waiting c = false) (hlate : ∀ d ∈ rest, d.late = none) :
    let x := s.block b
    let g := x.engine e
    s.tokenWaitEnd b e = if (x.tokenFailed c && !c.contOnErr) = true then
        s.setBlock b (x.setEngine e { g with hw := rest, started := g.started ++ [{ cmd := c, status := some stABORTED }] })
      else s.setBlock b (x.setEngine e { g with hw := { c with waited := true } :: rest }) := by
  intro x g
  have hgo : ¬ (c.wait = 0 ∨ c.waited = true ∨ x.waiting c = true) := by simp [hwait, hwaited, x, hdone]
  have hfinish : (x.finishHead e stABORTED).settle e 64 =
      x.setEngine e { g with hw := rest, started := g.started ++ [{ cmd := c, status := some stABORTED }] } := by
    have hhead : x.finishHead e stABORTED =
        x.setEngine e { g with hw := rest, started := g.started ++ [{ cmd := c, status := some stABORTED }] } := by
      simp only [Block.finishHead, x, g, hhw]
    rw [hhead]
    refine settle_none _ e 64 ?_
    rwa [Block.engine_set]
  unfold State.tokenWaitEnd
  dsimp only
  rw [hhw]
  refine (if_neg hgo).trans ?_
  rw [hfinish]

/-- Settles O14: what a push queues, what a refill moves, how a wait ends and which marks a write clears. -/
theorem commandsEnterTheirQueues : Obligations.CommandsEnterTheirQueues := by
  unfold Obligations.CommandsEnterTheirQueues
  refine ⟨?push, ?refill, ?wait, ?clear⟩
  case push =>
    intro s b v hp hb h x hr hstores hcombine hwc hout hx c0 c e g hspill
    have hokB : okB b = true := decide_eq_true hb
    let s1 := s.setHart h (s.hart h)
    let y := s1.queued b c
    have hpush : s.cmdPush b v = y.retire h := cmdPush_queues v hr ⟨hstores, hcombine, hwc, hout⟩ hx hspill
    have hy : y = { s1 with blocks := s.blocks.set b (x.queued c), regs := y.regs } := stateQueued_frame s1 b c
    have hblock : y.block b = x.queued c := stateQueued_block s1 b c
    have hhart (j : Nat) : y.hart j = s.hart j := by rw [hy]; exact State.hart_same s h j
    obtain ⟨hframe, hself, hothers⟩ := retire_does y h
    obtain ⟨hq, hqothers⟩ := queued_frame x c
    have htblock : (y.retire h).block b = x.queued c := by rw [hframe]; exact hblock
    refine ⟨_, (exec_cmdPush b v s hokB hp).trans (congrArg Host.Outcome.next hpush), ?_, fun j hj => (hothers j hj).trans (hhart j), ?_,
      fun r hrne => stateQueued_reg_ne s1 b c hrne, ?_, ?_, ?_, ?_, ?_⟩
    · rw [htblock]
      exact hframe.trans (congrArg (fun u : State => { u with harts := (y.retire h).harts, freeCount := u.freeCount + 1 }) hy)
    · rw [← hhart h]; exact hself
    · rw [htblock]; exact hq
    · intro k hk
      rw [htblock]; exact hqothers k hk
    · intro h7
      rw [htblock, queued_unlisted x c h7]
      exact Block.engine_set ..
    · intro h7 hnone hlen hlate
      have hin : y = s1.setBlock b (x.queued c) := if_neg fun hspilled => hspilled.2 ⟨hnone, hlen⟩
      have hregs : y.regs = s.regs := by rw [hin]; rfl
      refine ⟨?_, hregs⟩
      rw [htblock, queued_hw x c h7 ⟨hnone, hlen⟩, settle_none]
      · exact Block.engine_set ..
      · rwa [Block.engine_set]
    · intro h7 hfull
      have hroom : ¬ (g.spill = [] ∧ g.hw.length < 64) := fun hroom => hfull.elim (fun h => h hroom.1) (Nat.not_le.2 hroom.2)
      have hspilled : y = (s1.setBlock b (x.queued c)).bump (BLK_SPILL_PUSHES b) 1 := if_pos ⟨h7, hroom⟩
      refine ⟨?_, (congrArg (State.reg · (BLK_SPILL_PUSHES b)) hspilled).trans (State.reg_bump_self ..)⟩
      rw [htblock, queued_spill x c h7 hroom]
      exact Block.engine_set ..
  case refill =>
    intro s b e hp hw g
    rw [exec_spillRefill b e s hw hp]
    exact ⟨fun h => congrArg _ (refill_stays h), fun hspill hlen hlate => congrArg _ (refill_moves hspill hlen hlate)⟩
  case wait =>
    intro s b e c rest hp hw x g hhw hwait hwaited hdone hlate failed
    rw [exec_tokenWaitEnd b e s hw hp, tokenWaitEnd_decides hhw hwait hwaited (waiting_none hdone) hlate]
    have hfailed : x.tokenFailed c = true ↔ failed := tokenFailed_iff x c
    refine ⟨fun hf hcont => ?_, fun hgo => ?_⟩
    · exact congrArg _ (if_pos (by rw [hfailed.2 hf, hcont]; rfl))
    · refine congrArg _ (if_neg fun hboth => ?_)
      obtain ⟨hf, hcont⟩ := Bool.and_eq_true_iff.1 hboth
      exact hgo.elim (fun hno => hno (hfailed.1 hf)) fun hyes => absurd hcont (by rw [hyes]; decide)
  case clear =>
    intro s ag b v hp hw
    have hblock : (s.tokenErrClear b v).block b = { s.block b with
        marks := (s.block b).marks.filter fun m => !(decide (m.1 < 16) && bit v m.1) } := State.block_setBlock_self ..
    refine ⟨_, exec_blkTokenErrClear ag b v s hw hp, ?_, fun m => ?_⟩
    · rw [hblock]; rfl
    · rw [hblock, List.mem_filter]
      refine and_congr_right fun _ => ?_
      rw [Bool.not_eq_true', ← Bool.not_eq_true, Bool.and_eq_true, decide_eq_true_iff]
      rfl

end Sys2Proof.Machine

/-!
PROOFS. Completions (R155, R159, R161 to R163, R224, Table 4.6): O15.
-/
namespace Sys2Proof.Machine

/-! ### Gather-scatter commands that have ended (R161, R177) -/

/-- A gather-scatter command whose rows are all issued has its status once its writes are acknowledged. -/
def State.gsEnded (s : State) (b : Nat) (q : Run) : Run :=
  if q.status = none ∧ ∀ p ∈ s.out, ¬ (p.posted = true ∧ p.origin = .gs b q.cmd.seq) then { q with status := q.stopping } else q

/-- No write of a gather-scatter command of block `b` with this SEQ awaits its acknowledgement. -/
theorem noneUnacked_iff (s : State) (b seq : Nat) : (s.out.any fun q => q.posted && q.origin == .gs b seq) = false ↔
    ∀ p ∈ s.out, ¬ (p.posted = true ∧ p.origin = .gs b seq) := by
  simp [List.any_eq_false]

theorem gsFinish_ends (s : State) (b : Nat) : s.gsFinish b = s.setBlock b ((s.block b).setEngine 3
    { (s.block b).engine 3 with started := ((s.block b).engine 3).started.map (s.gsEnded b) }) := by
  have hend : (fun r : Run => if r.status.isNone ∧ !s.out.any (fun q => q.posted && q.origin == .gs b r.cmd.seq) then
      { r with status := r.stopping } else r) = s.gsEnded b := by
    funext r
    refine if_congr ?_ rfl rfl
    rw [Option.isNone_iff_eq_none, Bool.not_eq_true', noneUnacked_iff]
  rw [← hend]
  rfl

/-! ### The five outcomes of an offer (R155, R161, R163, R185) -/

/-- The completion must wait: the command runs, owes a release-add, has a write that is not acknowledged, or signals a peg that carries
one (R224). -/
def State.completionHeld (y : State) (b : Nat) (r : Run) : Prop :=
  r.status = none ∨ r.owed ≠ [] ∨ (∃ q ∈ y.out, q.posted = true ∧ q.origin = .gs b r.cmd.seq) ∨ y.signalHeld b r.cmd = true

theorem offered {y : State} {b : Nat} {r : Run} (h : ¬ y.completionHeld b r) :
    ¬ (r.status.isNone = true ∨ r.owed ≠ [] ∨ (y.out.any fun q => q.posted && q.origin == .gs b r.cmd.seq) = true ∨
      y.signalHeld b r.cmd = true) := by
  simpa [State.completionHeld] using h

/-- The state with the record of a completion in the ring and the sequencer woken where BLK_CPL_CTRL.WAKE says so (R161, R162). -/
def State.recorded (y : State) (b e : Nat) (r : Run) : State :=
  let z := y.wrNat (storeBase b + (bits (y.reg (BLK_CPL_CTRL b)) 20 0 + (y.reg (BLK_CPL_TAIL b)).toNat % y.cplSize b * 32)) 32
    (y.cplRecord b e r)
  (z.setReg (BLK_CPL_TAIL b) (w64 (((z.reg (BLK_CPL_TAIL b)).toNat + 1) % 2 ^ 32))).recordWake b

section
variable {s y : State} {b e : Nat} {r : Run} {rest : List Run} (hy : s.gsFinish b = y)
  (hstarted : ((y.block b).engine e).started = r :: rest)
include hy hstarted

theorem completionWrite_held (h : y.completionHeld b r) : s.completionWrite b e = y := by
  have hheld : r.status.isNone = true ∨ r.owed ≠ [] ∨ (y.out.any fun q => q.posted && q.origin == .gs b r.cmd.seq) = true ∨
      y.signalHeld b r.cmd = true := by
    simpa [State.completionHeld] using h
  unfold State.completionWrite
  dsimp only
  rw [hy, hstarted]
  exact if_pos hheld

section
variable (h : ¬ y.completionHeld b r)
include h

theorem completionWrite_off (hoff : y.cplEnabled b = false) : s.completionWrite b e = y.cplSignals b e r := by
  unfold State.completionWrite
  dsimp only
  rw [hy, hstarted]
  exact (if_neg (offered h)).trans (if_pos (by rw [hoff]; rfl))

section
variable (hon : y.cplEnabled b = true)
include hon

theorem completionWrite_written (hroom : y.cplFull b = false) : s.completionWrite b e = (y.recorded b e r).cplSignals b e r := by
  unfold State.completionWrite
  dsimp only
  rw [hy, hstarted]
  exact (if_neg (offered h)).trans ((if_neg (by rw [hon]; decide)).trans (if_neg (by rw [hroom]; decide)))

theorem completionWrite_stalled (hfull : y.cplFull b = true) (hst : (y.block b).state ≠ .reset) :
    s.completionWrite b e = y.bump (BLK_CPL_STALL_CYCLES b) 1 := by
  unfold State.completionWrite
  dsimp only
  rw [hy, hstarted]
  exact (if_neg (offered h)).trans ((if_neg (by rw [hon]; decide)).trans ((if_pos hfull).trans (if_neg hst)))

theorem completionWrite_inReset (hfull : y.cplFull b = true) (hst : (y.block b).state = .reset) :
    s.completionWrite b e = y.cplSignals b e r := by
  unfold State.completionWrite
  dsimp only
  rw [hy, hstarted]
  exact (if_neg (offered h)).trans ((if_neg (by rw [hon]; decide)).trans ((if_pos hfull).trans (if_pos hst)))

end
end
end

/-! ### What a completion signals (R159, R161) -/

/-- The block after the completion of the oldest started command of engine `e`: it leaves, and an error code of a command with
SIG_EN marks its token with the lowest SEQ. -/
def Block.completed (x : Block) (e : Nat) (c : Cmd) (st : Nat) (rest : List Run) : Block :=
  { x.setEngine e { x.engine e with started := rest } with
    marks := if c.sigEn = true ∧ isSuccess st = false then x.marks.set c.sig (min c.seq (x.marks.get c.seq c.sig)) else x.marks }

/-- The completion peg of a command of block `b` is release-added (R161). -/
def State.cplPeg (u : State) (b : Nat) (c : Cmd) : State :=
  if c.pegEn then u.signalPeg (blockAgent u.moduleId b) (c.f 4 15 0) (c.f 7 3 2) (w64 (c.f 6 7 0)) else u

theorem noteCompletion_untagged {s : State} {tag : Nat} (h : s.kiln.tags.find tag = none) (st rows : Nat) :
    s.noteCompletion tag st rows = s := by
  unfold State.noteCompletion
  rw [h]

/-- A completion with no fret miss, meter tag or late command behind it. -/
theorem cplSignals_plain {u : State} {b e st : Nat} {r : Run} {rest : List Run} (hstarted : ((u.block b).engine e).started = r :: rest)
    (hst : r.status = some st) (hover : st ≠ stOVERRUN) (hdead : st ≠ stDEADLINE) (hbisque : st ≠ stBISQUE_USED)
    (htag : u.kiln.tags.find (r.cmd.f 8 31 0) = none) (hlate : ∀ d ∈ ((u.block b).engine e).hw, d.late = none) :
    u.cplSignals b e r = (u.setBlock b ((u.block b).completed e r.cmd st rest)).cplPeg b r.cmd := by
  have hcode : r.status.getD 0 = st := by rw [hst]; rfl
  have hdrop : ((u.block b).engine e).started.drop 1 = rest := by rw [hstarted]; rfl
  have hmiss : ¬ (st = stDEADLINE ∨ st = stBISQUE_USED) := not_or.2 ⟨hdead, hbisque⟩
  have hmarks : (if (r.cmd.sigEn && !isSuccess st) = true then
        { (u.block b).setEngine e { (u.block b).engine e with started := rest } with
          marks := (u.block b).marks.set r.cmd.sig (min r.cmd.seq ((u.block b).marks.get r.cmd.seq r.cmd.sig)) }
      else (u.block b).setEngine e { (u.block b).engine e with started := rest }) = (u.block b).completed e r.cmd st rest := by
    unfold Block.completed
    by_cases hmark : r.cmd.sigEn = true ∧ isSuccess st = false
    · rw [if_pos hmark, if_pos (by rw [hmark.1, hmark.2]; rfl)]
    · rw [if_neg hmark, if_neg fun hboth => hmark (by simpa using hboth)]
      rfl
  have hsettled : ((u.block b).completed e r.cmd st rest).settle e 64 = (u.block b).completed e r.cmd st rest := by
    refine settle_none _ e 64 ?_
    have hengine : ((u.block b).completed e r.cmd st rest).engine e = { (u.block b).engine e with started := rest } :=
      Block.engine_set ..
    rwa [hengine]
  have hblock : (u.updBlock b fun x =>
      let x := x.setEngine e { x.engine e with started := (x.engine e).started.drop 1 }
      let x := if r.cmd.sigEn && !isSuccess st then
          { x with marks := x.marks.set r.cmd.sig (min r.cmd.seq (x.marks.get r.cmd.seq r.cmd.sig)) } else x
      x.settle e 64) = u.setBlock b ((u.block b).completed e r.cmd st rest) := by
    rw [← hsettled, ← hmarks, ← hdrop]
    rfl
  unfold State.cplSignals
  dsimp only
  rw [hcode, hblock, if_neg hover, if_neg hmiss, noteCompletion_untagged (s := u.setBlock b _) htag]
  rfl

theorem recordWake_frame (s : State) (b : Nat) : s.recordWake b = { s with harts := (s.recordWake b).harts } := by
  unfold State.recordWake
  split
  · exact wake_frame s _
  · rfl

theorem recordWake_blocks (s : State) (b : Nat) : (s.recordWake b).blocks = s.blocks := by rw [recordWake_frame]

theorem recordWake_kiln (s : State) (b : Nat) : (s.recordWake b).kiln = s.kiln := by rw [recordWake_frame]

theorem recordWake_moduleId (s : State) (b : Nat) : (s.recordWake b).moduleId = s.moduleId := by rw [recordWake_frame]

theorem recorded_blocks (y : State) (b e : Nat) (r : Run) : (y.recorded b e r).blocks = y.blocks := by
  simp only [State.recorded, recordWake_blocks, State.setReg_blocks, State.wrNat_blocks]

theorem recorded_kiln (y : State) (b e : Nat) (r : Run) : (y.recorded b e r).kiln = y.kiln := by
  simp only [State.recorded, recordWake_kiln, State.setReg_kiln, State.wrNat_kiln]

theorem recorded_moduleId (y : State) (b e : Nat) (r : Run) : (y.recorded b e r).moduleId = y.moduleId := by
  simp only [State.recorded, recordWake_moduleId, State.setReg_moduleId, State.wrNat_moduleId]

theorem wrNat_reg (s : State) (a n v : Nat) (g : Reg) : (s.wrNat a n v).reg g = s.reg g := by
  unfold State.reg
  rw [State.wrNat_regs]

/-- The record, TAIL and the wake in terms of the registers before them. -/
theorem recorded_eq (y : State) (b e : Nat) (r : Run) :
    let tail := (y.reg (BLK_CPL_TAIL b)).toNat
    let z := (y.wrNat (storeBase b + (bits (y.reg (BLK_CPL_CTRL b)) 20 0 + tail % y.cplSize b * 32)) 32 (y.cplRecord b e r)).setReg
      (BLK_CPL_TAIL b) (w64 ((tail + 1) % 2 ^ 32))
    y.recorded b e r = if (y.reg (BLK_CPL_CTRL b)).getLsbD 28 = true then z.wake (144 + b) else z := by
  have hne : BLK_CPL_CTRL b ≠ BLK_CPL_TAIL b := fun h => absurd (blkReg_inj h) (by decide)
  intro tail z
  unfold State.recorded State.recordWake
  dsimp only
  rw [State.reg_setReg_ne _ _ hne]
  simp only [wrNat_reg]
  rfl

/-- Settles O15: what holds a completion, its record in the ring, and what it signals. -/
theorem completionsAreWritten : Obligations.CompletionsAreWritten := by
  unfold Obligations.CompletionsAreWritten
  intro s b e r rest hp hw ended gs x y g c carries hstarted
  have hy : s.gsFinish b = y := gsFinish_ends s b
  have hx : y.block b = x := State.block_setBlock_self ..
  have hfront : ((y.block b).engine e).started = r :: rest := by rw [hx]; exact hstarted
  have hcarries : y.signalHeld b c = true ↔ carries := by
    simp only [State.signalHeld, Bool.and_eq_true, beq_iff_eq, List.any_eq_true, and_assoc]
    rfl
  rw [exec_completionWrite b e s hw hp]
  refine ⟨fun hheld => congrArg _ (completionWrite_held hy hfront ?_), fun st hst howed hacked hfree hover hdead hbisque htag hlate => ?_⟩
  · exact hheld.imp_right (Or.imp_right (Or.imp_right hcarries.2))
  intro ctrl tail size full marks left signalled recorded written
  have hoffered : ¬ y.completionHeld b r := by
    rintro (h | h | ⟨q, hq, h⟩ | h)
    · exact absurd (hst.symm.trans h) (Option.some_ne_none st)
    · exact h howed
    · exact hacked q hq h
    · exact hfree (hcarries.1 h)
  have hsignals (u : State) (hblocks : u.blocks = y.blocks) (hkiln : u.kiln = y.kiln) (hid : u.moduleId = y.moduleId) :
      u.cplSignals b e r = signalled (u.setBlock b left) := by
    have hxu : u.block b = x := by unfold State.block; rw [hblocks]; exact hx
    have hsig := cplSignals_plain (u := u) (b := b) (e := e) (rest := rest) (by rw [hxu]; exact hstarted) hst hover hdead hbisque
      (by rw [hkiln]; exact htag) (by rw [hxu]; exact hlate)
    rw [hsig, hxu, State.cplPeg, State.setBlock_moduleId, hid]
    rfl
  refine ⟨fun hoff => ?off, fun hon hroom => ?written, fun hon hfull hstate => ?stalled, fun hon hfull hstate => ?reset⟩
  case off => rw [completionWrite_off hy hfront hoffered hoff, hsignals y rfl rfl rfl]
  case written =>
    have hrec : y.recorded b e r = written := recorded_eq y b e r
    rw [completionWrite_written hy hfront hoffered hon (beq_eq_false_iff_ne.2 hroom),
      hsignals _ (recorded_blocks ..) (recorded_kiln ..) (recorded_moduleId ..), hrec]
  case stalled =>
    rw [completionWrite_stalled hy hfront hoffered hon (beq_iff_eq.2 hfull) (by rw [hx]; exact hstate)]
    rfl
  case reset =>
    rw [completionWrite_inReset hy hfront hoffered hon (beq_iff_eq.2 hfull) (by rw [hx]; exact hstate), hsignals y rfl rfl rfl]

end Sys2Proof.Machine

/-!
PROOFS. The states of a block (R146, R148, R185, Table 4.15): O16.
-/
namespace Sys2Proof.Machine

/-- Block 0 is in RESET with nothing to complete, no coherence transaction is in progress, and the NoC holds a request of the block's
sequencer that lacks tokens (R321). -/
def heldRequestState : State := { mgmt := { state := .run }, nocHeld := [(0, .readShared 144)] }

/-- The release of the block drops the request with the sequencer that made it. -/
theorem heldRequestState_release : (heldRequestState.blockRelease 0).nocHeld = [] := by decide +kernel

/-- Refutes O16: the release of a reset also ends the requests of the block's sequencer that the NoC holds back for tokens, though no
coherence transaction is in progress, and the statement says that they stay. -/
theorem not_blockStatesChange : ¬ Obligations.BlockStatesChange := by
  unfold Obligations.BlockStatesChange
  rintro ⟨-, hrelease, -⟩
  obtain ⟨-, hdrained⟩ := hrelease heldRequestState 0 (by decide) (by decide)
  obtain ⟨t, hexec, hframe, -⟩ := hdrained (by decide) (by decide) (by decide) rfl
  rw [exec_blockResetRelease 0 heldRequestState (by decide) (by decide)] at hexec
  have ht : heldRequestState.blockRelease 0 = t := Host.Outcome.next.inj hexec
  have hkept : t.nocHeld = heldRequestState.nocHeld := (congrArg State.nocHeld hframe).trans rfl
  rw [← ht, heldRequestState_release] at hkept
  exact absurd hkept (by decide)

end Sys2Proof.Machine

/-!
PROOFS. Mutes of a block whose die is live (R184, R186, R239, R487, Table 4.15): O17.
-/
namespace Sys2Proof.Machine

/-! ### Watches on a target (R239) -/

/-- No armed watch and none that has fired targets hart `h`. -/
def SparesHart (h : Nat) (s : State) : Prop :=
  (∀ y ∈ s.watches, State.targetsHart y.2 h = false) ∧ ∀ y ∈ s.fired, State.targetsHart y.2.watch h = false

theorem Map.ne_of_mem_erase {κ α : Type} [DecidableEq κ] {m : Map κ α} {k : κ} {y : κ × α} (h : y ∈ m.erase k) : y.1 ≠ k := by
  induction m with
  | nil => exact absurd h List.not_mem_nil
  | cons a m ih =>
    obtain ⟨j, v⟩ := a
    unfold Map.erase at h
    split at h
    · exact ih h
    next hne =>
      rcases List.mem_cons.1 h with rfl | h
      · exact hne
      · exact ih h

theorem mem_insertWatch {x y : WKey × Watch} {l : List (WKey × Watch)} (h : y ∈ State.insertWatch x l) : y = x ∨ y ∈ l := by
  induction l with
  | nil => exact List.mem_cons.1 h
  | cons z l ih =>
    unfold State.insertWatch at h
    split at h
    · exact List.mem_cons.1 h
    · rcases List.mem_cons.1 h with rfl | h
      · exact .inr List.mem_cons_self
      · exact (ih h).imp_right (List.mem_cons_of_mem _)

theorem mem_selectWatches {y : WKey × Watch} {ws : List (WKey × Watch)} {p : WKey → Watch → Bool}
    (h : y ∈ State.selectWatches ws p) : y ∈ ws := by
  have hfold (l acc : List (WKey × Watch)) : y ∈ l.foldl (fun acc x => State.insertWatch x acc) acc → y ∈ l ∨ y ∈ acc := by
    induction l generalizing acc with
    | nil => exact .inr
    | cons x l ih =>
      intro hy
      rcases ih _ hy with hy | hy
      · exact .inl (List.mem_cons_of_mem _ hy)
      · rcases mem_insertWatch hy with rfl | hy
        · exact .inl List.mem_cons_self
        · exact .inr hy
  exact List.mem_of_mem_filter ((hfold _ _ h).resolve_right List.not_mem_nil)

section
variable {h : Nat}

theorem SparesHart.congr {s t : State} (hw : t.watches = s.watches) (hf : t.fired = s.fired) (hs : SparesHart h s) : SparesHart h t := by
  unfold SparesHart
  rwa [hw, hf]

theorem SparesHart.releaseWatch {s : State} (hs : SparesHart h s) {w : Watch} (k : WKey) (n : Nat) (hw : State.targetsHart w h = false) :
    SparesHart h (s.releaseWatch k w n) := by
  refine ⟨fun y hy => hs.1 y (Map.mem_erase _ _ _ hy), fun y hy => ?_⟩
  rcases List.mem_append.1 hy with hy | hy
  · exact hs.2 y hy
  · rw [List.mem_singleton.1 hy]; exact hw

theorem SparesHart.releaseAll (ws : List (WKey × Watch)) (n : Nat) {s : State} (hs : SparesHart h s)
    (hws : ∀ x ∈ ws, State.targetsHart x.2 h = false) : SparesHart h (s.releaseAll ws n) := by
  induction ws generalizing s with
  | nil => exact hs
  | cons x ws ih => exact ih (hs.releaseWatch x.1 n (hws x List.mem_cons_self)) fun y hy => hws y (List.mem_cons_of_mem _ hy)

theorem SparesHart.putPeg {s : State} (hs : SparesHart h s) (p : Nat) (x : Peg) : SparesHart h (s.putPeg p x) :=
  SparesHart.releaseAll _ 0 (s := s.setPeg p x) hs fun y hy => hs.1 y (mem_selectWatches hy)

theorem SparesHart.signalPeg {s : State} (hs : SparesHart h s) (a : Agent) (p sc : Nat) (v : W64) : SparesHart h (s.signalPeg a p sc v) := by
  unfold State.signalPeg
  split
  next hlive =>
    rw [State.pegRelAdd, if_pos hlive]
    exact hs.putPeg ..
  next => exact hs

theorem SparesHart.signalSlot {s : State} (hs : SparesHart h s) (sl : Slot) (n : Nat) : SparesHart h (s.signalSlot sl n) := by
  unfold State.signalSlot
  cases sl with
  | i3c => dsimp only; split <;> exact hs
  | host =>
    dsimp only
    split
    · exact hs.signalPeg ..
    · exact hs
  | core =>
    dsimp only
    split
    · exact hs.signalPeg ..
    · exact hs

theorem SparesHart.slotEvent {s : State} (hs : SparesHart h s) (sl : Slot) (e : Event) : SparesHart h (s.slotEvent sl e) := by
  unfold State.slotEvent
  split
  · exact hs
  · exact SparesHart.signalSlot (s := s.setMailbox sl _) hs sl 2

theorem SparesHart.event {s : State} (hs : SparesHart h s) (c : Nat) (d : W64) : SparesHart h (s.event c d) := by
  unfold State.event
  split
  · exact hs
  · exact ((hs.slotEvent ..).slotEvent ..).slotEvent ..

theorem SparesHart.foldl {α : Type} {f : State → α → State} (hf : ∀ s x, SparesHart h s → SparesHart h (f s x)) (l : List α) {s : State}
    (hs : SparesHart h s) : SparesHart h (l.foldl f s) := by
  induction l generalizing s with
  | nil => exact hs
  | cons x l ih => exact ih (hf s x hs)

theorem SparesHart.reportAfter {s : State} (hs : SparesHart h s) (old : State) : SparesHart h (State.reportAfter old s) :=
  SparesHart.foldl (fun _ _ hs => hs.event ..) _ (SparesHart.foldl (fun _ _ hs => hs.event ..) _ hs)

end

theorem foldl_freeWatch_watches (ws : List (WKey × Watch)) (s : State) (y : WKey × Watch)
    (hy : y ∈ (ws.foldl (fun (s : State) x => s.freeWatch x.1) s).watches) : y ∈ s.watches ∧ ∀ x ∈ ws, y.1 ≠ x.1 := by
  induction ws generalizing s with
  | nil => exact ⟨hy, fun x hx => absurd hx List.not_mem_nil⟩
  | cons a ws ih =>
    obtain ⟨hmem, hne⟩ := ih (s.freeWatch a.1) hy
    refine ⟨Map.mem_erase _ _ _ hmem, fun x hx => ?_⟩
    rcases List.mem_cons.1 hx with rfl | hx
    · exact Map.ne_of_mem_erase hmem
    · exact hne x hx

/-- The effects of a target that goes: none of its watches is left, and its hart has no event to report. -/
theorem dropTarget_does (s : State) (h : Nat) : SparesHart h (s.dropTarget h) ∧
    ∀ j, (s.dropTarget h).hart j = if j = h then { s.hart h with eiids := [] } else s.hart j := by
  let ws := s.watches.filter fun x => State.targetsHart x.2 h
  let f := ws.foldl (fun (s : State) x => s.freeWatch x.1) s
  have hf : f = { s with watches := f.watches, gens := f.gens } := freeAll_frame ws s
  have hwatches : (s.dropTarget h).watches = f.watches := by
    unfold State.dropTarget; dsimp only; split <;> rfl
  have hfired : (s.dropTarget h).fired = s.fired.filter fun x => !State.targetsHart x.2.watch h := by
    have hkept : f.fired = s.fired := by rw [hf]
    unfold State.dropTarget; dsimp only; split <;> rw [← hkept]
  refine ⟨⟨fun y hy => ?_, fun y hy => ?_⟩, fun j => ?_⟩
  · rw [hwatches] at hy
    obtain ⟨hmem, hne⟩ := foldl_freeWatch_watches ws s y hy
    by_contra ht
    exact hne y (List.mem_filter.2 ⟨hmem, by simpa using ht⟩) rfl
  · rw [hfired] at hy
    simpa using (List.mem_filter.1 hy).2
  · have hharts : f.hart = s.hart := by rw [hf]; rfl
    have hset : (s.dropTarget h).harts =
        (if (f.hart h).eiids = [] then f else f.setHart h { f.hart h with eiids := [] }).harts := rfl
    have hhart : (s.dropTarget h).hart = (if (f.hart h).eiids = [] then f else f.setHart h { f.hart h with eiids := [] }).hart := by
      unfold State.hart
      rw [hset]
      rfl
    rw [hhart]
    split
    next hnone =>
      rw [hharts] at hnone ⊢
      split
      next hj => rw [hj, ← hnone]
      next => rfl
    next =>
      split
      next hj => rw [hj, State.hart_setHart_self, hharts]
      next hj => rw [State.hart_setHart_ne _ _ hj, hharts]

/-! ### The engines of a block that stops (R185, R186) -/

/-- An operation on one engine, done on every engine of a list, does its work on each of them. -/
theorem foldl_engines {f : Block → Nat → Block} {g : Engine → Engine} (hself : ∀ x e, (f x e).engine e = g (x.engine e))
    (hother : ∀ x e k, k ≠ e → (f x e).engine k = x.engine k) (l : List Nat) (hl : l.Nodup) (x : Block) (e : Nat) :
    (l.foldl f x).engine e = if e ∈ l then g (x.engine e) else x.engine e := by
  induction l generalizing x with
  | nil => rfl
  | cons a l ih =>
    obtain ⟨hnot, hl⟩ := List.nodup_cons.1 hl
    rw [List.foldl_cons, ih hl]
    by_cases ha : e = a
    · subst ha
      rw [if_neg hnot, if_pos List.mem_cons_self, hself]
    · rw [hother x a e ha]
      simp only [List.mem_cons, ha, false_or]

theorem foldl_same {α β γ : Type} {f : α → β → α} {p : α → γ} (hf : ∀ x e, p (f x e) = p x) (l : List β) (x : α) : p (l.foldl f x) = p x := by
  induction l generalizing x with
  | nil => rfl
  | cons a l ih => rw [List.foldl_cons, ih, hf]

/-- A command that runs stops with a status. -/
def Run.stopped (st : Nat) (r : Run) : Run := if r.status = none then r.stop st else r

theorem stopRuns_self (x : Block) (e st : Nat) : (x.stopRuns e st fun _ => true).engine e =
    { x.engine e with started := (x.engine e).started.map (Run.stopped st) } := by
  have hrun : (fun r : Run => if (r.status.isNone && true) = true then r.stop st else r) = Run.stopped st := by
    funext r
    refine if_congr ?_ rfl rfl
    rw [Bool.and_true, Option.isNone_iff_eq_none]
  rw [← hrun]
  unfold Block.stopRuns
  dsimp only
  split <;> exact Block.engine_set ..

theorem stopRuns_other (x : Block) (st : Nat) {e k : Nat} (hk : k ≠ e) : (x.stopRuns e st fun _ => true).engine k = x.engine k := by
  unfold Block.stopRuns
  dsimp only
  split <;> exact engine_set_ne _ _ _ _ hk

theorem stopRuns_keeps (x : Block) (e st : Nat) : (x.stopRuns e st fun _ => true).array.entries = x.array.entries ∧
    (x.stopRuns e st fun _ => true).nextSeq = x.nextSeq := by
  unfold Block.stopRuns
  dsimp only
  split <;> exact ⟨rfl, rfl⟩

/-- A queue whose commands are complete with a status and COUNT 0. -/
def Engine.flushed (st : Nat) (g : Engine) : Engine :=
  { hw := [], spill := [], started := g.started ++ (g.hw ++ g.spill).map fun c => { cmd := c, status := some st } }

/-- Every started command of a block stops. -/
def Block.stopEngines (x : Block) (st : Nat) : Block := Block.engineList.foldl (fun x e => x.stopRuns e st fun _ => true) x

/-- Every queued command of a block is complete. -/
def Block.flushEngines (x : Block) (st : Nat) : Block := Block.engineList.foldl (fun x e => x.flushQueue e st) x

theorem mem_engineList {e : Nat} (he : e < 5) : e ∈ Block.engineList := by
  have hrange : Block.engineList = List.range 5 := rfl
  rw [hrange, List.mem_range]
  exact he

theorem stopEngines_engine (x : Block) (st : Nat) {e : Nat} (he : e < 5) : (x.stopEngines st).engine e =
    { x.engine e with started := (x.engine e).started.map (Run.stopped st) } :=
  (foldl_engines (g := fun g => { g with started := g.started.map (Run.stopped st) }) (fun x e => stopRuns_self x e st)
    (fun x _ _ hk => stopRuns_other x st hk) _ (by decide) x e).trans (if_pos (mem_engineList he))

theorem stopEngines_keeps (x : Block) (st : Nat) :
    (x.stopEngines st).array.entries = x.array.entries ∧ (x.stopEngines st).nextSeq = x.nextSeq :=
  ⟨foldl_same (p := fun x : Block => x.array.entries) (fun x e => (stopRuns_keeps x e st).1) _ x,
    foldl_same (p := Block.nextSeq) (fun x e => (stopRuns_keeps x e st).2) _ x⟩

theorem flushEngines_engine (x : Block) (st : Nat) {e : Nat} (he : e < 5) : (x.flushEngines st).engine e = (x.engine e).flushed st :=
  (foldl_engines (f := fun x e => x.flushQueue e st) (g := Engine.flushed st) (fun _ _ => Block.engine_set ..)
    (fun _ _ _ hk => engine_set_ne _ _ _ _ hk) _ (by decide) x e).trans (if_pos (mem_engineList he))

theorem flushEngines_frame (x : Block) (st : Nat) : x.flushEngines st = { x with engines := (x.flushEngines st).engines } := rfl

/-! ### The block after a mute -/

/-- The gather-scatter commands of a block that have ended have their status (R161). -/
def State.endedGs (s : State) (b : Nat) : Block :=
  (s.block b).setEngine 3 { (s.block b).engine 3 with started := ((s.block b).engine 3).started.map (s.gsEnded b) }

/-- The block in MUTED with every command of its engines complete. -/
def State.mutedBlock (s : State) (b cause : Nat) : Block :=
  { (s.endedGs b).stopEngines stMUTED with state := .muted, muteCause := cause }.flushEngines stMUTED

theorem endedGs_started (s : State) (b e : Nat) : (s.endedGs b).engine e =
    { (s.block b).engine e with started := ((s.block b).engine e).started.map fun q => if e = 3 then s.gsEnded b q else q } := by
  by_cases he : e = 3
  · subst he
    simp only [if_true]
    exact Block.engine_set ..
  · simp only [he, if_false, List.map_id']
    exact engine_set_ne _ _ _ _ he

theorem mutedBlock_engine (s : State) (b cause : Nat) {e : Nat} (he : e < 5) :
    let g := (s.block b).engine e
    (s.mutedBlock b cause).engine e =
      { hw := [], spill := [],
        started := (g.started.map fun q => Run.stopped stMUTED (if e = 3 then s.gsEnded b q else q)) ++
          (g.hw ++ g.spill).map fun c => { cmd := c, status := some stMUTED } } := by
  intro g
  have hstop : ({ (s.endedGs b).stopEngines stMUTED with state := .muted, muteCause := cause } : Block).engine e =
      ((s.endedGs b).stopEngines stMUTED).engine e := rfl
  rw [State.mutedBlock, flushEngines_engine _ _ he, hstop, stopEngines_engine _ _ he, endedGs_started, Engine.flushed, List.map_map]
  rfl

theorem mutedBlock_keeps (s : State) (b cause : Nat) : (s.mutedBlock b cause).state = .muted ∧ (s.mutedBlock b cause).muteCause = cause ∧
    (s.mutedBlock b cause).array.entries = (s.block b).array.entries ∧ (s.mutedBlock b cause).nextSeq = (s.block b).nextSeq := by
  obtain ⟨hentries, hseq⟩ := stopEngines_keeps (s.endedGs b) stMUTED
  rw [State.mutedBlock, flushEngines_frame]
  exact ⟨rfl, rfl, hentries, hseq⟩

/-! ### What the mute reports (R487, R522) -/

theorem noted_reports (s x : State) (hfab : x.fab = s.fab) (hcolls : ∀ y ∈ x.colls, y.2.state ≠ .running) :
    s.noted x = { State.reportAfter s x with time := (s.noted x).time } := by
  have hrep := (reportAfter_reports s x).1
  have hfab' : (State.reportAfter s x).fab = s.fab := by rw [hrep]; exact hfab
  have hcolls' : (State.reportAfter s x).colls = x.colls := by rw [hrep]
  have htime := timeAfter_same s _ hfab'
  unfold State.noted
  rw [collPorts_idle _ _ (by rw [htime]; exact hcolls'.symm ▸ hcolls)]
  exact htime

theorem Map.find_isSome_of_mem {κ α : Type} [DecidableEq κ] {m : Map κ α} {y : κ × α} (hy : y ∈ m) : (m.find y.1).isSome = true := by
  induction m with
  | nil => exact absurd hy List.not_mem_nil
  | cons a m ih =>
    obtain ⟨j, v⟩ := a
    unfold Map.find
    split
    · rfl
    next hne =>
      rcases List.mem_cons.1 hy with rfl | hy
      · exact absurd rfl hne
      · exact ih hy

/-- Where no block is newly muted and no evidence slot newly filled, nothing is reported. -/
theorem reportAfter_silent (s x : State) (hblocks : ∀ y ∈ x.blocks, y.2.state = .muted → (s.block y.1).state = .muted)
    (hev : x.evidence = s.evidence) : State.reportAfter s x = x := by
  have hnew : (x.blocks.filter fun y => y.2.state == .muted && (s.block y.1).state != .muted) = [] := by
    refine filter_nil _ _ fun y hy => ?_
    by_cases hm : y.2.state = .muted
    · simp [hm, hblocks y hy hm]
    · simp [hm]
  have hfilled : (x.evidence.filter fun y => (s.evidence.find y.1).isNone) = [] := by
    refine filter_nil _ _ fun y hy => ?_
    rw [hev] at hy
    rw [Option.isNone_eq_false_iff]
    exact Map.find_isSome_of_mem hy
  unfold State.reportAfter
  rw [hnew, List.foldl_nil]
  exact (congrArg _ hfilled).trans rfl

/-! ### The state after a mute -/

/-- `t` differs from `s` by no more than a mute changes: memory, the caches and the rest of the machine stay. -/
def MuteOnly (s t : State) : Prop :=
  t = { s with blocks := t.blocks, watches := t.watches, gens := t.gens, fired := t.fired, harts := t.harts, eventQ := t.eventQ,
               heldEvents := t.heldEvents, muteList := t.muteList, regs := t.regs, errLog := t.errLog, mgmt := t.mgmt,
               pegs := t.pegs, outbox := t.outbox, time := t.time }

theorem MuteOnly.trans {s t u : State} (h : MuteOnly s t) (h' : MuteOnly t u) : MuteOnly s u :=
  Eq.trans h' (congrArg (fun z : State =>
    { z with blocks := u.blocks, watches := u.watches, gens := u.gens, fired := u.fired, harts := u.harts, eventQ := u.eventQ,
             heldEvents := u.heldEvents, muteList := u.muteList, regs := u.regs, errLog := u.errLog, mgmt := u.mgmt,
             pegs := u.pegs, outbox := u.outbox, time := u.time }) h)

/-- The module with the muted block, and its sequencer no longer a target. -/
def State.mutedTarget (s : State) (b cause : Nat) : State := (s.setBlock b (s.mutedBlock b cause)).dropTarget (144 + b)

/-- The mute list after a mute. -/
def State.mutedList (s : State) (b cause : Nat) : List Nat := if cause = 1 ∧ b ∉ s.muteList then s.muteList ++ [b] else s.muteList

theorem muteBlock_stopped (s : State) (b cause : Nat) (hst : (s.block b).state = .reset ∨ (s.block b).state = .muted) :
    s.muteBlock b cause = s.log (b / 128) stSTATE 1 (blockAgent s.moduleId b).code 0 0 := by
  unfold State.muteBlock
  dsimp only
  refine if_neg fun h => ?_
  rcases hst with hst | hst <;> rw [hst] at h <;> simp at h

theorem mute_target (s : State) (b cause : Nat) (hx : (s.block b).xchk = none) (ht : (s.block b).tuning = []) :
    ((((s.xchkAbandon b).tuningAbandon b).stopAll b stMUTED fun _ => true).updBlock b fun x =>
      let x := { x with state := .muted, muteCause := cause }
      Block.engineList.foldl (fun x e => x.flushQueue e stMUTED) x).dropTarget (144 + b) = s.mutedTarget b cause := by
  have hx : s.xchkAbandon b = s := by unfold State.xchkAbandon; rw [hx]
  have htun : s.tuningAbandon b = s.setBlock b (s.block b) := by
    unfold State.tuningAbandon
    rw [ht, List.foldl_nil]
    exact congrArg (s.setBlock b) (by rw [← ht])
  have hgs : (s.setBlock b (s.block b)).gsFinish b = s.setBlock b (s.endedGs b) := by
    rw [gsFinish_ends, State.block_setBlock_self, setBlock_setBlock]
    rfl
  rw [hx, htun, State.stopAll, hgs, updBlock_setBlock, updBlock_setBlock]
  rfl

/-- The module with the muted block, before the mute is logged. -/
def State.mutedListed (s : State) (b cause : Nat) : State := { s.mutedTarget b cause with muteList := s.mutedList b cause }

theorem mutedListed_eq (s : State) (b cause : Nat) :
    (if cause = 1 then { s.mutedTarget b cause with muteList := if (s.mutedTarget b cause).muteList.contains b then
        (s.mutedTarget b cause).muteList else (s.mutedTarget b cause).muteList ++ [b] } else s.mutedTarget b cause) =
      s.mutedListed b cause := by
  have hlist : (s.mutedTarget b cause).muteList = s.muteList := by rw [State.mutedTarget, dropTarget_frame]; rfl
  rw [State.mutedListed, hlist, State.mutedList]
  by_cases hc : cause = 1
  · by_cases hb : b ∈ s.muteList <;> simp [hc, hb]
  · simp [hc, ← hlist]

theorem muteBlock_live (s : State) (b cause : Nat) (hst : (s.block b).state = .halted ∨ (s.block b).state = .running)
    (hx : (s.block b).xchk = none) (ht : (s.block b).tuning = []) :
    s.muteBlock b cause = (s.mutedListed b cause).log (b / 128) stMUTED 7 (blockAgent (s.mutedListed b cause).moduleId b).code 0
      (w64 b ||| fld ((s.mutedListed b cause).score b) 24 ||| fld cause 32) := by
  rw [← mutedListed_eq, ← mute_target s b cause hx ht]
  unfold State.muteBlock
  exact if_pos hst

theorem mutedListed_only (s : State) (b cause : Nat) : MuteOnly s (s.mutedListed b cause) := by
  have hset : MuteOnly s (s.setBlock b (s.mutedBlock b cause)) := rfl
  have hdrop : MuteOnly (s.setBlock b (s.mutedBlock b cause)) (s.mutedTarget b cause) := by
    unfold MuteOnly State.mutedTarget
    rw [dropTarget_frame]
  exact (hset.trans hdrop).trans rfl

theorem MuteOnly.of_time {s t : State} {x : Time} (h : t = { s with time := x }) : MuteOnly s t := by
  subst h
  rfl

theorem MuteOnly.of_reports {s t : State} (h : SameButReports s t) : MuteOnly s t := by
  unfold MuteOnly
  rw [h.1]

/-- A mute of a block in HALTED or RUNNING, with its reports. -/
theorem mute_live_does (s : State) (b cause : Nat) (hcolls : ∀ y ∈ s.colls, y.2.state ≠ .running)
    (hst : (s.block b).state = .halted ∨ (s.block b).state = .running) (hx : (s.block b).xchk = none) (ht : (s.block b).tuning = []) :
    let t := s.noted (s.muteBlock b cause)
    MuteOnly s t ∧ t.blocks = s.blocks.set b (s.mutedBlock b cause) ∧ t.eventQ = s.eventQ.erase (144 + b) ∧
      t.harts = (s.mutedTarget b cause).harts ∧ t.muteList = s.mutedList b cause ∧ SparesHart (144 + b) t := by
  intro t
  have hlive := muteBlock_live s b cause hst hx ht
  have hlog : MuteOnly s (s.muteBlock b cause) := by
    rw [hlive]
    exact (mutedListed_only s b cause).trans rfl
  have hfab : (s.muteBlock b cause).fab = s.fab := by rw [hlog]
  have hcolls' : (s.muteBlock b cause).colls = s.colls := by rw [hlog]
  have ht : t = { State.reportAfter s (s.muteBlock b cause) with time := t.time } :=
    noted_reports s _ hfab (hcolls'.symm ▸ hcolls)
  clear_value t
  have hrep := (reportAfter_reports s (s.muteBlock b cause)).1
  have hspares : SparesHart (144 + b) (s.muteBlock b cause) := by
    rw [hlive]
    exact SparesHart.congr (s := s.mutedTarget b cause) rfl rfl (dropTarget_does (s.setBlock b (s.mutedBlock b cause)) (144 + b)).1
  have hspares' := hspares.reportAfter s
  have hkept : (s.mutedTarget b cause).blocks = s.blocks.set b (s.mutedBlock b cause) ∧
      (s.mutedTarget b cause).eventQ = s.eventQ.erase (144 + b) := by
    rw [State.mutedTarget, dropTarget_frame]
    exact ⟨rfl, rfl⟩
  have htime : MuteOnly (State.reportAfter s (s.muteBlock b cause)) t := MuteOnly.of_time ht
  refine ⟨(hlog.trans (MuteOnly.of_reports (reportAfter_reports ..))).trans htime, ?_, ?_, ?_, ?_, ?_⟩
  · rw [ht, hrep, hlive]; exact hkept.1
  · rw [ht, hrep, hlive]; exact hkept.2
  · rw [ht, hrep, hlive]; rfl
  · rw [ht, hrep, hlive]; rfl
  · exact SparesHart.congr (congrArg State.watches ht) (congrArg State.fired ht) hspares'

theorem mutedTarget_hart (s : State) (b cause h : Nat) : (s.mutedTarget b cause).hart h =
    if h = 144 + b then { s.hart h with eiids := [] } else s.hart h := by
  refine ((dropTarget_does _ (144 + b)).2 h).trans ?_
  by_cases hh : h = 144 + b
  · subst hh; rfl
  · rw [if_neg hh, if_neg hh]; rfl

/-- Settles O17: the mute is the muted block, its sequencer dropped as a target, the mute list, a log entry and the reports, none of
which touches another block or hart or a watch on the sequencer. -/
theorem mutedBlocks : Obligations.MutedBlocks := by
  unfold Obligations.MutedBlocks
  intro s b cause hp hb hcolls hlisted x ended stopped
  have hw : (Instr.blockMute b cause).wf = true := decide_eq_true hb
  have hexec := exec_blockMute b cause s hw hp
  refine ⟨fun hst hx ht => ?_, fun hst => ?_⟩
  · obtain ⟨honly, hblocks, hevents, hharts, hmuted, hspares⟩ := mute_live_does s b cause hcolls hst hx ht
    generalize htdef : s.noted (s.muteBlock b cause) = t at *
    obtain ⟨hstate, hcause, hentries, hseq⟩ := mutedBlock_keeps s b cause
    have hblock : t.block b = s.mutedBlock b cause := by
      unfold State.block; rw [hblocks]; exact Map.get_set_self ..
    refine ⟨t, hexec, ?_, fun h => ?_, hmuted, hspares.1, hspares.2, ?_⟩
    · rw [hblock, ← hblocks, ← hevents]; exact honly
    · unfold State.hart at *
      rw [hharts]; exact mutedTarget_hart s b cause h
    · rw [hblock]
      refine ⟨hstate, hcause, hentries, hseq, fun e he => ?_⟩
      rw [mutedBlock_engine s b cause he]
      refine ⟨rfl, rfl, ?_⟩
      have hended (q : Run) : (if e = 3 then s.gsEnded b q else q) = ended e q := by
        by_cases he : e = 3
        · simp only [he, if_true, State.gsEnded, ended, true_and]
        · simp only [he, if_false, ended, false_and]
      simp only [hended]
      rfl
  · refine ⟨_, hexec, ?_⟩
    rw [muteBlock_stopped s b cause hst]
    have hsilent := reportAfter_silent s (s.log (b / 128) stSTATE 1 (blockAgent s.moduleId b).code 0 0)
      (fun y hy hm => (hlisted y hy).symm ▸ hm) rfl
    have hreports := noted_reports s (s.log (b / 128) stSTATE 1 (blockAgent s.moduleId b).code 0 0) rfl hcolls
    rwa [hsilent] at hreports

end Sys2Proof.Machine

/-!
PROOFS. Errors, map-out, test, maintenance, rebuild and traffic generators of DRAM channels (R143, R292, R305 to R308, R312, R323, R324): O33.
-/
namespace Sys2Proof.Machine

/-! ### Errors (R143, R292, R305, R312) -/

/-- The frets of a channel's uncorrectable errors within the last 2^16, this one included (R305). -/
def State.recentErrors (s : State) (d : Nat) : List Nat := ((s.dev d).errors.filter fun f => decide (s.fret < f + 2 ^ 16)) ++ [s.fret]

theorem foldl_addPoison (ws : List Nat) (s : State) :
    ws.foldl (fun s w => s.addPoison w) s = { s with poison := (ws.foldl (fun s w => s.addPoison w) s).poison } := by
  induction ws generalizing s with
  | nil => rfl
  | cons w ws ih =>
    have hone : s.addPoison w = { s with poison := (s.addPoison w).poison } := by unfold State.addPoison; split <;> rfl
    rw [List.foldl_cons, ih, hone]

theorem mem_foldl_addPoison (ws : List Nat) (s : State) (w : Nat) :
    w ∈ (ws.foldl (fun s w => s.addPoison w) s).poison ↔ w ∈ s.poison ∨ w ∈ ws := by
  have hone (s : State) (a : Nat) : w ∈ (s.addPoison a).poison ↔ w ∈ s.poison ∨ w = a := by
    unfold State.addPoison
    split
    next hin =>
      refine ⟨.inl, fun h => h.elim id fun h => ?_⟩
      rw [h]; simpa using hin
    · exact List.mem_cons.trans or_comm
  induction ws generalizing s with
  | nil => simp
  | cons a ws ih =>
    refine (ih (s.addPoison a)).trans ?_
    rw [hone, List.mem_cons, or_assoc]

/-- The words of an uncorrectable error poisoned, and the error logged with its device. -/
def State.eccLogged (s : State) (a d : Nat) : State :=
  ((s.eccWords a).foldl (fun s w => s.addPoison w) s).log (State.placeHome (placeRaw a)) stPOISON 3 0 (a / 8 * 8) (w64 d)

theorem eccLogged_keeps (s : State) (a d : Nat) : (s.eccLogged a d).fret = s.fret ∧ ∀ e, (s.eccLogged a d).dev e = s.dev e := by
  unfold State.eccLogged
  rw [foldl_addPoison]
  exact ⟨rfl, fun _ => rfl⟩

theorem eccError_of_device (s : State) (a d : Nat) (hd : s.devOf a = some d) (hlive : s.regionLive (State.placeHome (placeRaw a)) = true) :
    s.eccError a = if d = 0xFFFF then s.eccLogged a d
      else if (s.dev d).state = .inService ∧ 4 ≤ (s.recentErrors d).length then
        ((s.eccLogged a d).setDev d { s.dev d with errors := s.recentErrors d }).mapOutDev d 3
      else (s.eccLogged a d).setDev d { s.dev d with errors := s.recentErrors d } := by
  obtain ⟨hfret, hdev⟩ := eccLogged_keeps s a d
  unfold State.eccError
  rw [hd]
  dsimp only
  rw [hlive]
  refine (if_neg Bool.false_ne_true).trans ?_
  refine if_congr Iff.rfl rfl ?_
  show (if ((s.eccLogged a d).dev d).state = .inService ∧ 4 ≤ ((s.eccLogged a d).recentErrors d).length then
    ((s.eccLogged a d).setDev d { (s.eccLogged a d).dev d with errors := (s.eccLogged a d).recentErrors d }).mapOutDev d 3
    else (s.eccLogged a d).setDev d { (s.eccLogged a d).dev d with errors := (s.eccLogged a d).recentErrors d }) = _
  rw [State.recentErrors, hfret, hdev]
  rfl

theorem eccSlc_held (s : State) (a : Nat) (hslc : s.slc.contains (a / 128) = true)
    (hlive : s.regionLive (State.lineHome (a / 128)) = true) :
    s.eccSlc a = (s.addPoison (a / 8)).log (State.lineHome (a / 128)) stPOISON 3 0 (a / 8 * 8) 0xFFFF := if_pos ⟨hslc, hlive⟩

theorem eccCache_held (s : State) (k a : Nat) (c : CLine) (hc : s.cacheOf k (a / 128) = some c) :
    s.eccCache k a = (s.setCache k (a / 128) (some { c with
      line := { c.line with poison := c.line.poison ||| BitVec.twoPow 16 (a % 128 / 8) } })).log
        (hartRegion k) stPOISON 3 0 (a / 8 * 8) 0xFFFF := by
  unfold State.eccCache
  rw [hc]

theorem eccCorrected_store (s : State) (a b off : Nat) (hplace : placeRaw a = .store b off)
    (hlive : s.dieLive (b / 128) (b % 128 / 64) = true) : s.eccCorrected a = s.bump (BLK_ECC_CORRECTED b) 1 := by
  unfold State.eccCorrected
  rw [hplace]
  exact if_pos hlive

/-! ### Channel states (R305, R306) -/

theorem channel_commands (s : State) (ag : Agent) (d : Nat) :
    s.chCtrlWrite ag d 1 = (if (s.dev d).state = .inService then s.mapOutDev d 4 else s.devRefuse ag d stSTATE) ∧
    s.chCtrlWrite ag d 2 =
      (if (s.dev d).state = .mappedOut then s.setDev d { s.dev d with state := .test } else s.devRefuse ag d stSTATE) ∧
    s.chCtrlWrite ag d 4 = (if (s.dev d).state = .test then (s.setDev d { s.dev d with state := .mappedOut }).setReg
      (HBM_TG_STATUS d) (s.reg (HBM_TG_STATUS d) &&& ~~~1#64) else s.devRefuse ag d stSTATE) := ⟨rfl, rfl, rfl⟩

/-! ### Maintenance slots (R323 to R325, R480, R493) -/

/-- A link with no lane due for repair and at least half of its groups enabled. -/
def Link.Sound (x : Link) : Prop := x.repair = [] ∧ x.lanes.length ≤ 2 * x.groups

theorem setLink_same (s : State) (l j : Nat) : (s.setLink l (s.link l)).link j = s.link j := by
  unfold State.setLink State.link
  by_cases hj : j = l
  · subst hj; exact Map.get_set_self ..
  · exact Map.get_set_ne _ _ _ hj

/-- What a maintenance slot does on one link. -/
def State.linkRepair (r : Nat) (lanes : List (Nat × Nat × Nat)) (s : State) (l : Nat) : State :=
  let due := (s.link l).repair
  let weak := (lanes.filter fun x => x.1 == l && decide (x.2.2 < s.marginFail r)).map (·.2.1)
  let s := due.foldl (fun s lane => s.replaceLane r l lane) s
  let beat := (s.link l).lastBeat
  let s := s.setLink l { s.link l with repair := weak, lastBeat := if s.linkStalls r l lanes then max beat (s.now + 10000) else beat }
  if !(s.link l).failed && (s.link l).lanes != [] && (s.link l).narrow then s.linkDead l else s

theorem linkSlot_repairs (s : State) (r : Nat) (lanes : List (Nat × Nat × Nat)) :
    s.linkSlot r lanes = (State.regionLinks r).foldl (State.linkRepair r lanes) s := rfl

theorem linkRepair_sound (r : Nat) (s : State) (l : Nat) (h : (s.link l).Sound) :
    State.linkRepair r [] s l = s.setLink l (s.link l) := by
  obtain ⟨hrepair, hlanes⟩ := h
  have hnarrow : ((s.link l).lanes != [] && (s.link l).narrow) = false := by
    unfold Link.narrow
    cases hl : (s.link l).lanes with
    | nil => rfl
    | cons a as =>
      rw [hl] at hlanes
      simpa using hlanes
  have hset : s.setLink l { s.link l with repair := [] } = s.setLink l (s.link l) := by rw [← hrepair]
  have hstalls : s.linkStalls r l [] = false := rfl
  unfold State.linkRepair
  dsimp only
  rw [hrepair, List.foldl_nil, hstalls, List.filter_nil, List.map_nil]
  simp only [Bool.false_eq_true, if_false]
  rw [hset, setLink_same, Bool.and_assoc, hnarrow, Bool.and_false, if_neg Bool.false_ne_true]

/-- A slot in which no lane is weak and none is due leaves sound links as they are. -/
theorem linkSlot_sound (s : State) (r : Nat) (hsound : ∀ l, (s.link l).Sound) :
    (∀ l, (s.linkSlot r []).link l = s.link l) ∧ s.linkSlot r [] = { s with links := (s.linkSlot r []).links } := by
  rw [linkSlot_repairs]
  generalize State.regionLinks r = ls
  induction ls generalizing s with
  | nil => exact ⟨fun _ => rfl, rfl⟩
  | cons a ls ih =>
    rw [List.foldl_cons, linkRepair_sound r s a (hsound a)]
    obtain ⟨hlink, hframe⟩ := ih (s.setLink a (s.link a)) fun l => (setLink_same s a l).symm ▸ hsound l
    exact ⟨fun l => (hlink l).trans (setLink_same s a l), hframe⟩

theorem setDev_links (s : State) (d : Nat) (x : Channel) (ls : Map Nat Link) :
    { s.setDev d x with links := ls } = { s with links := ls }.setDev d x := by
  unfold State.setDev
  split <;> rfl

theorem memSlot_keeps (s : State) (r : Nat) :
    (s.memSlot r).links = s.links ∧ (s.memSlot r).blocks = s.blocks ∧ (s.memSlot r).harts = s.harts := by
  have hset (d : Nat) (x : Channel) : (s.setDev d x).links = s.links ∧ (s.setDev d x).blocks = s.blocks ∧ (s.setDev d x).harts = s.harts := by
    unfold State.setDev
    split <;> exact ⟨rfl, rfl, rfl⟩
  unfold State.memSlot
  dsimp only
  split
  · exact hset ..
  · split <;> exact ⟨rfl, rfl, rfl⟩

/-- The lowest-numbered pending device retrains where none does (R324). -/
theorem memSlot_retrains (s : State) (r d : Nat)
    (hd : (regionDevs r).find? (fun d => (s.dev d).pending && (s.dev d).state == .inService) = some d)
    (hbit : (s.reg (MGMT_MEM_MAINT r)).getLsbD 32 = true) (hidle : ∀ e ∈ regionDevs r, (s.dev e).state ≠ .retraining) :
    s.memSlot r = s.setDev d { s.dev d with state := .retraining } := by
  have hbusy : ((regionDevs r).any fun d => (s.dev d).state == .retraining) = false := by
    simpa [List.any_eq_false] using hidle
  have hbit' : bit (s.reg (MGMT_MEM_MAINT r)) 32 = true := hbit
  unfold State.memSlot
  dsimp only
  rw [hd, hbusy, hbit']

/-- Where no device is pending the next one in the rotation is checked (R324). -/
theorem memSlot_checks (s : State) (r i d : Nat)
    (hnone : (regionDevs r).find? (fun d => (s.dev d).pending && (s.dev d).state == .inService) = none)
    (hnext : s.nextCheck r (s.maintNext.get 0 r) = some (i, d)) :
    s.memSlot r = { s with checking := s.checking.set r d, maintNext := s.maintNext.set r ((i + 1) % 134) } := by
  unfold State.memSlot
  dsimp only
  rw [hnone, hnext]

theorem xchkPair_congr {s t : State} (r : Nat) (hblocks : t.blocks = s.blocks) (hharts : t.harts = s.harts) :
    t.xchkPair r = s.xchkPair r := by
  have heligible : t.eligible = s.eligible := by
    funext b
    unfold State.eligible State.block State.hart
    rw [hblocks, hharts]
  unfold State.xchkPair
  rw [heligible]

/-- The region's slot is the one of this fret. -/
def State.slotTaken (s : State) (r : Nat) : State := { s with maintLast := s.maintLast.set r s.fret }

/-- The part of a slot that waits for no link and no cross-check. -/
theorem maintSlot_due (s : State) (r seed : Nat) (hlive : s.regionLive r = true) (hon : bits (s.reg (MGMT_MEM_MAINT r)) 15 0 ≠ 0)
    (hdue : s.maintLast.get 0 r + bits (s.reg (MGMT_MEM_MAINT r)) 15 0 ≤ s.fret) (hpair : s.xchkPair r = none)
    (hsound : ∀ l, (s.link l).Sound) :
    ∃ t, s.maintSlot r seed [] = t ∧ (∀ l, t.link l = s.link l) ∧
      t = { (s.slotTaken r).memSlot r with links := t.links } := by
  let u : State := (s.slotTaken r).memSlot r
  have hmem : u.links = s.links ∧ u.blocks = s.blocks ∧ u.harts = s.harts := memSlot_keeps ..
  have hlinks (l : Nat) : u.link l = s.link l := by unfold State.link; rw [hmem.1]
  obtain ⟨hsame, hframe⟩ := linkSlot_sound u r fun l => (hlinks l).symm ▸ hsound l
  have hnone : (u.linkSlot r []).xchkPair r = none := by
    rw [hframe, ← hpair]
    exact xchkPair_congr r hmem.2.1 hmem.2.2
  refine ⟨u.linkSlot r [], ?_, fun l => (hsame l).trans (hlinks l), hframe⟩
  have hstart : (u.linkSlot r []).xchkStart r seed = u.linkSlot r [] := by
    unfold State.xchkStart
    rw [hnone]
  rw [← hstart]
  unfold State.maintSlot
  refine if_neg ?_
  simp only [hlive, hon, Bool.not_true, Bool.false_eq_true, false_or, not_lt]
  exact hdue

/-! ### Checks and retraining (R306, R323, R324) -/

theorem marginDone_inService (s : State) (r d : Nat) (m : Margins) (hd : s.checking.find r = some d) (hst : (s.dev d).state = .inService) :
    s.marginDone r m = ({ s with checking := s.checking.erase r }.setReg (State.CHECK d) (trainRecord s.fret m)).setDev d
      { s.dev d with pending := (s.dev d).pending || decide (m.rd < s.marginMin r ∨ m.wr < s.marginMin r) } := by
  unfold State.marginDone
  rw [hd]
  exact if_neg (not_not.2 hst)

theorem setDev_txns (s : State) (d : Nat) (x : Channel) : (s.setDev d x).txns = s.txns := by
  unfold State.setDev; split <;> rfl

theorem mapOutDev_txns (s : State) (d cause : Nat) : (s.mapOutDev d cause).txns = s.txns := by
  unfold State.mapOutDev
  dsimp only
  split
  · exact setDev_txns ..
  · exact setDev_txns ..

theorem retrainEnd_of_device (s : State) (r d : Nat) (m : Margins)
    (hd : (regionDevs r).find? (fun d => (s.dev d).state == .retraining) = some d)
    (htx : ∀ l x, s.txns.find? (·.line == l) = some x → x.started = true) :
    let u := if d < 512 then s.bump (HBM_CH_RETRAINS d) 1 else s
    s.retrainEnd r m = if m.rd < u.marginFail r ∨ m.wr < u.marginFail r then u.mapOutDev d 2
      else (u.setReg (State.TRAIN d) (trainRecord s.fret m)).setDev d
        { s.dev d with state := .inService, pending := (s.dev d).pending && decide (m.rd < u.marginMin r ∨ m.wr < u.marginMin r) } := by
  intro u
  have htxns : u.txns = s.txns := by dsimp only [u]; split <;> rfl
  have hfret : u.fret = s.fret := by dsimp only [u]; split <;> rfl
  unfold State.retrainEnd
  rw [hd]
  dsimp only
  show State.startAll (if m.rd < u.marginFail r ∨ m.wr < u.marginFail r then u.mapOutDev d 2
    else (u.setReg (State.TRAIN d) (trainRecord u.fret m)).setDev d
      { s.dev d with state := .inService, pending := (s.dev d).pending && decide (m.rd < u.marginMin r ∨ m.wr < u.marginMin r) }) 3 = _
  clear_value u
  rw [hfret]
  refine startAll_started 3 _ ?_
  split
  · rw [mapOutDev_txns, htxns]; exact htx
  · rw [setDev_txns]; exact htxns.symm ▸ htx

/-! ### Groups (R303, R307) -/

theorem groupCtrlWrite_range (s : State) (ag : Agent) (r : Nat) (v : W64) (h : 8 < bits v 3 0 ∨ bits v 63 5 ≠ 0) :
    s.groupCtrlWrite ag r v = s.log r stRANGE 1 ag.code (MGMT_MEM_GROUP_CTRL r % 0x100000000) 0 := if_pos h

/-- A group whose rebuild starts: it takes the devices that are not mapped out. -/
def State.rebuilt (s : State) (r g : Nat) : ChGroup where
  live := if g = 8 then (regionPackages r).filter fun p => (s.package p).state != .mappedOut
    else (groupChannels r g).filter fun c => (s.channel c).state != .mappedOut
  pending := true
  rebuilding := true

theorem groupCtrlWrite_rebuild (s : State) (ag : Agent) (r : Nat) (v : W64) (hg : bits v 3 0 ≤ 8) (hres : bits v 63 5 = 0)
    (hgo : v.getLsbD 4 = true) :
    s.groupCtrlWrite ag r v = if (s.group r (bits v 3 0)).pending = true ∧ (s.group r (bits v 3 0)).rebuilding = false then
        s.setGroup r (bits v 3 0) (s.rebuilt r (bits v 3 0))
      else s.log r stSTATE 1 ag.code (MGMT_MEM_GROUP_CTRL r % 0x100000000) 0 := by
  unfold State.groupCtrlWrite
  refine (if_neg (by omega)).trans ?_
  have hbit : (!bit v 4) = false := by unfold bit; rw [hgo]; rfl
  rw [hbit]
  refine (if_neg Bool.false_ne_true).trans ?_
  dsimp only
  by_cases hidle : (s.group r (bits v 3 0)).pending = true ∧ (s.group r (bits v 3 0)).rebuilding = false
  · rw [if_pos hidle]
    exact if_neg (by simp [hidle])
  · rw [if_neg hidle]
    exact if_pos (by simpa [or_iff_not_imp_left] using hidle)

/-- The words of the reserved area that the restored copy of group 0 or 4 takes over poisoned. -/
def State.CopiedPoison (s : State) (r g w : Nat) : Prop :=
  ∃ k, k < gib / 16 ∧ (g = 0 ∨ g = 4) ∧ w = (r * 0x3000000000 + g * (24 * gib)) / 8 + k ∧
    (r * 0x3000000000 + (4 - g) * (24 * gib)) / 8 + k ∈ s.poison

/-- The words restored poisoned at the end of a rebuild. -/
def State.restoredPoison (s : State) (r g : Nat) : List Nat := if g = 0 ∨ g = 4 then s.poisonedCopy r (4 - g) else []

theorem mem_restoredPoison (s : State) (r g w : Nat) : w ∈ s.restoredPoison r g ↔ s.CopiedPoison r g w := by
  unfold State.restoredPoison State.CopiedPoison
  by_cases hg : g = 0 ∨ g = 4
  · rw [if_pos hg]
    have hback : 4 - (4 - g) = g := by omega
    unfold State.poisonedCopy
    simp only [List.mem_map, List.mem_filter, decide_eq_true_eq, hback]
    generalize (r * 0x3000000000 + g * (24 * gib)) / 8 = here
    generalize (r * 0x3000000000 + (4 - g) * (24 * gib)) / 8 = there
    constructor
    · rintro ⟨p, ⟨hp, hlo, hhi⟩, rfl⟩
      refine ⟨p - there, by omega, hg, by omega, ?_⟩
      rwa [Nat.add_sub_cancel' hlo]
    · rintro ⟨k, hk, -, rfl, hp⟩
      exact ⟨there + k, ⟨hp, by omega, by omega⟩, by omega⟩
  · rw [if_neg hg]
    refine ⟨fun h => absurd h List.not_mem_nil, ?_⟩
    rintro ⟨k, -, h, -⟩
    exact absurd h hg

/-- The group of a rebuild that ends: PENDING stays if one of its devices has gone since (R307). -/
def State.doneGroup (s : State) (r g : Nat) : ChGroup :=
  let gone (i : Nat) : Bool := (if g = 8 then s.package i else s.channel i).state == .mappedOut
  { s.group r g with rebuilding := false, pending := (s.group r g).live.any gone }

/-- An address range zero-filled, with no word of it poisoned. -/
def State.zeroFilled (s : State) (base len : Nat) : State :=
  { s with mem := s.mem.filter fun c => !decide (base ≤ c.1 ∧ c.1 < base + len),
           poison := s.poison.filter fun w => !decide (base ≤ w * 8 ∧ w * 8 < base + len) }

theorem rebuildDone_eq (s : State) (r g : Nat) (hreb : (s.group r g).rebuilding = true) :
    s.rebuildDone r g = (s.restoredPoison r g).foldl (fun s w => s.addPoison w)
      ((s.setGroup r g (s.doneGroup r g)).zeroFilled (State.groupRange r g).1 (State.groupRange r g).2) := by
  have hbusy : ¬ (!(s.group r g).rebuilding) = true := by rw [hreb]; exact Bool.false_ne_true
  unfold State.rebuildDone
  exact if_neg hbusy

/-- A rebuild that ends changes the groups, memory and poison alone. -/
theorem rebuildDone_does (s : State) (r g : Nat) (hreb : (s.group r g).rebuilding = true) :
    let t := s.rebuildDone r g
    let base := (State.groupRange r g).1
    let len := (State.groupRange r g).2
    t = { s with groups := t.groups, mem := t.mem, poison := t.poison } ∧
      t.mem = s.mem.filter (fun c => !decide (base ≤ c.1 ∧ c.1 < base + len)) ∧
      (∀ w, w ∈ t.poison ↔ (w ∈ s.poison ∧ ¬ (base ≤ w * 8 ∧ w * 8 < base + len)) ∨ s.CopiedPoison r g w) ∧
      t.group r g = s.doneGroup r g := by
  intro t base len
  have ht : t = _ := rebuildDone_eq s r g hreb
  have hpoison (w : Nat) := mem_foldl_addPoison (s.restoredPoison r g)
    ((s.setGroup r g (s.doneGroup r g)).zeroFilled base len) w
  rw [← ht] at hpoison
  rw [foldl_addPoison] at ht
  clear_value t
  refine ⟨?_, ?_, fun w => ?_, ?_⟩
  · rw [ht]; rfl
  · rw [ht]; rfl
  · rw [hpoison, mem_restoredPoison, State.zeroFilled, List.mem_filter]
    simp only [Bool.not_eq_true', decide_eq_false_iff_not]
    rfl
  · rw [ht]; exact Map.get_set_self ..

/-! ### The traffic generator (R308) -/

theorem hbmReg_inj {ch o o' : Nat} (h : hbmReg ch o = hbmReg ch o') : o = o' :=
  Nat.add_left_cancel (Nat.add_left_cancel h)

theorem tgWrite_start (s : State) (ag : Agent) (ch : Nat) (v : W64) :
    let u := s.setReg (HBM_TG_CTRL ch) ((v ||| 4) &&& 0x3B#64)
    let refused (st : Nat) := u.log (ch / 128) st 1 ag.code (HBM_TG_CTRL ch % 0x100000000) 0
    let range := s.reg (HBM_TG_RANGE ch)
    let mode := bits v 1 0
    s.tgWrite ag ch (v ||| 4) =
      if (s.reg (HBM_TG_STATUS ch)).getLsbD 0 = false ∧
        ((s.channel ch).state = .test ∨ ((s.channel ch).state = .inService ∧ mode = 1)) then
        if mode = 3 ∨ (bits range 63 32 ≠ 0 ∧ 3145728 < bits range 31 0 + bits range 63 32) then refused stRANGE
        else u.setReg (HBM_TG_STATUS ch) 1
      else refused stSTATE := by
  intro u refused range mode
  have hstatus : u.reg (HBM_TG_STATUS ch) = s.reg (HBM_TG_STATUS ch) := State.reg_setReg_ne _ _ fun h => absurd (hbmReg_inj h) (by decide)
  have hrange : u.reg (HBM_TG_RANGE ch) = range := State.reg_setReg_ne _ _ fun h => absurd (hbmReg_inj h) (by decide)
  have hgo : (!bit (v ||| 4) 2) = false := by
    have hset : bit (v ||| 4) 2 = true := (BitVec.getLsbD_or ..).trans (Bool.or_true _)
    rw [hset]
    rfl
  have hmode : bits (v ||| 4) 1 0 = mode := bits_or4 v
  have hch : u.channel ch = s.channel ch := rfl
  unfold State.tgWrite
  dsimp only
  rw [hgo, hmode]
  refine (if_neg Bool.false_ne_true).trans ?_
  show (if bit (u.reg (HBM_TG_STATUS ch)) 0 = true ∨
      (!decide ((u.channel ch).state = .test ∨ ((u.channel ch).state = .inService ∧ mode = 1))) = true then refused stSTATE
    else if mode = 3 ∨ (bits (u.reg (HBM_TG_RANGE ch)) 63 32 ≠ 0 ∧
        3145728 < bits (u.reg (HBM_TG_RANGE ch)) 31 0 + bits (u.reg (HBM_TG_RANGE ch)) 63 32) then refused stRANGE
    else u.setReg (HBM_TG_STATUS ch) 1) = _
  rw [hstatus, hrange, hch]
  by_cases hmay : (s.reg (HBM_TG_STATUS ch)).getLsbD 0 = false ∧
      ((s.channel ch).state = .test ∨ ((s.channel ch).state = .inService ∧ mode = 1))
  · rw [if_pos hmay]
    have hidle : bit (s.reg (HBM_TG_STATUS ch)) 0 = false := hmay.1
    refine if_neg ?_
    rw [hidle, decide_eq_true hmay.2]
    simp
  · rw [if_neg hmay]
    refine if_pos (or_iff_not_imp_left.2 fun hidle => ?_)
    rw [Bool.not_eq_true] at hidle
    rw [Bool.not_eq_true', decide_eq_false_iff_not]
    exact fun h => hmay ⟨hidle, h⟩

theorem tgEnd_running (s : State) (ch : Nat) (found : List Nat) (hrun : (s.reg (HBM_TG_STATUS ch)).getLsbD 0 = true) :
    let mode := bits (s.reg (HBM_TG_CTRL ch)) 1 0
    let errs := if mode = 2 then []
      else ((found ++ if mode = 1 then s.channelPoison ch else []).filter (s.tgInRange ch)).eraseDups
    s.tgEnd ch found = (s.setReg (HBM_TG_STATUS ch) (2 ||| flag (errs != []) 2 ||| fld (min errs.length 0xFFFFFFFF) 32)).setReg
      (HBM_TG_ERR_ADDR ch) (w64 (errs.headD 0)) := by
  have hbit : (!bit (s.reg (HBM_TG_STATUS ch)) 0) = false := by unfold bit; rw [hrun]; rfl
  unfold State.tgEnd
  rw [hbit]
  exact if_neg Bool.false_ne_true

/-! ### The clauses of O33 -/

/-- Settles O33: each command's operation at the state that its clause names. -/
theorem memoryChannelsAndGroups : Obligations.MemoryChannelsAndGroups := by
  unfold Obligations.MemoryChannelsAndGroups
  intro s hp mappedOut
  refine ⟨fun a d hd hlive => ?_, fun a hslc hlive => ?_, fun a k c hk hc => ?_, fun a b off p hb hplace hlive hcache => ?_,
    fun ag d hag hd => ?_, fun r seed hr hlive hon hdue hpair hsound => ?_, fun r m d hr hd hst => ?_, fun r m d hr hd htx => ?_,
    fun ag r v hag hr => ?_, fun r g hr hg hreb => ?_, fun ag ch v hag hch => ?_, fun ch found hch hrun => ?_⟩
  · intro logged x recent
    rw [exec_eccUncorrectable _ s rfl hp]
    have herr : s.eccEvent a .memory false = _ := eccError_of_device s a d hd hlive
    refine ⟨fun h => congrArg _ (herr.trans (if_pos h)), fun h hout => ?_, fun h hin => ?_⟩
    · exact congrArg _ (herr.trans ((if_neg h).trans (if_pos hout)))
    · exact congrArg _ (herr.trans ((if_neg h).trans (if_neg hin)))
  · rw [exec_eccUncorrectable _ s rfl hp]
    exact congrArg _ (eccSlc_held s a hslc hlive)
  · rw [exec_eccUncorrectable ⟨a, .cache k, false⟩ s (decide_eq_true hk) hp]
    exact congrArg _ (eccCache_held s k a c hc)
  · have hw : (Instr.eccUncorrectable ⟨a, p, true⟩).wf = true := by
      cases p with
      | cache k => exact decide_eq_true (hcache k rfl)
      | memory => rfl
      | slc => rfl
    rw [exec_eccUncorrectable _ s hw hp]
    exact congrArg _ (eccCorrected_store s a b off hplace hlive)
  · intro refused
    have hw : (ag.wf && okDev d) = true := Bool.and_eq_true_iff.2 ⟨hag, decide_eq_true hd⟩
    rw [exec_mapOut _ _ s hw hp, exec_testStart _ _ s hw hp, exec_testEnd _ _ s hw hp]
    obtain ⟨hmap, hstart, hend⟩ := channel_commands s ag d
    exact ⟨congrArg _ hmap, congrArg _ hstart, congrArg _ hend⟩
  · obtain ⟨t, ht, hlinks, hframe⟩ := maintSlot_due s r seed hlive hon hdue hpair hsound
    refine ⟨t, (exec_maintSlot r seed [] s (decide_eq_true hr) hp).trans (congrArg _ ht), hlinks, fun d hd hbit hidle => ?_,
      fun i d hnone hnext => ?_⟩
    · rw [memSlot_retrains (s.slotTaken r) r d hd hbit hidle] at hframe
      exact hframe.trans (setDev_links ..)
    · rw [memSlot_checks (s.slotTaken r) r i d hnone hnext] at hframe
      exact hframe
  · rw [exec_marginCheckDone _ _ s (decide_eq_true hr) hp, marginDone_inService s r d m hd hst]
  · intro u
    rw [exec_retrainDone _ _ s (decide_eq_true hr) hp]
    have hend : s.retrainEnd r m = _ := retrainEnd_of_device s r d m hd htx
    refine ⟨fun h => ?_, fun h => ?_⟩
    · exact congrArg _ (hend.trans (if_pos h))
    · exact congrArg _ (hend.trans (if_neg h))
  · intro g refused usable
    rw [exec_groupRebuild _ _ _ s (Bool.and_eq_true_iff.2 ⟨hag, decide_eq_true hr⟩) hp]
    refine ⟨fun h => congrArg _ (groupCtrlWrite_range s ag r v h), fun hg hres hgo => ?_⟩
    have hstart := groupCtrlWrite_rebuild s ag r v hg hres hgo
    exact ⟨fun h => congrArg _ (hstart.trans (if_pos h)), fun h => congrArg _ (hstart.trans (if_neg h))⟩
  · obtain ⟨hframe, hmem, hpoison, hgroup⟩ := rebuildDone_does s r g hreb
    exact ⟨_, exec_rebuildDone r g s (Bool.and_eq_true_iff.2 ⟨decide_eq_true hr, decide_eq_true hg⟩) hp,
      hframe, hmem, hpoison, by rw [hgroup]; rfl, by rw [hgroup]; rfl⟩
  · intro u refused range mode may bad
    rw [exec_tgStart _ _ _ s (Bool.and_eq_true_iff.2 ⟨hag, decide_eq_true hch⟩) hp]
    have hwrite : s.tgWrite ag ch (v ||| 4) = _ := tgWrite_start s ag ch v
    refine ⟨fun hmay hbad => ?_, fun hmay hbad => ?_, fun hmay => ?_⟩
    · exact congrArg _ (hwrite.trans ((if_pos hmay).trans (if_neg hbad)))
    · exact congrArg _ (hwrite.trans ((if_pos hmay).trans (if_pos hbad)))
    · exact congrArg _ (hwrite.trans (if_neg hmay))
  · intro mode range inRange errs
    rw [exec_tgDone _ _ s (decide_eq_true hch) hp]
    exact congrArg _ (tgEnd_running s ch found hrun)

end Sys2Proof.Machine

/-!
PROOFS. The states of a DMA channel (R197, R209 to R218, Table 5.5): O24.
-/
namespace Sys2Proof.Machine

/-! ### A channel's reads given up -/

theorem dropReads_setDma (s : State) (r c : Nat) (x : DmaChan) (p : Nat → Nat → Bool) :
    (s.setDma r c x).dropReads r c p = (s.dropReads r c p).setDma r c x := rfl

theorem disown_setDma (s : State) (r c : Nat) (x : DmaChan) (p : Nat → Bool) :
    (s.setDma r c x).disown r c p = (s.disown r c p).setDma r c x := rfl

theorem dmaChan_setReg (s : State) (g : Reg) (v : W64) (r c : Nat) : (s.setReg g v).dmaChan r c = s.dmaChan r c := rfl

/-- The origin of a channel's request that satisfies `p` (descriptor, offset). -/
def dmaOrigin (r c : Nat) (p : Nat → Nat → Bool) (o : Origin) : Bool :=
  match o with
  | .dma r' c' n k => r' == r && c' == c && p n k
  | _ => false

theorem dmaOrigin_all_of (r c : Nat) (p : Nat → Nat → Bool) (o : Origin) (h : dmaOrigin r c (fun _ _ => true) o = false) :
    dmaOrigin r c p o = false := by
  cases o with
  | dma r' c' n k =>
    have hother : (r' == r && c' == c) = false := by simpa [dmaOrigin] using h
    unfold dmaOrigin
    dsimp only
    rw [hother, Bool.false_and]
  | _ => rfl

/-- Every read of a channel given up, with the data that arrived for it. -/
def State.quietDma (s : State) (r c : Nat) : State := s.dropReads r c fun _ _ => true

theorem quietDma_setDma (s : State) (r c : Nat) (x : DmaChan) : (s.setDma r c x).quietDma r c = (s.quietDma r c).setDma r c x := rfl

theorem quietDma_out (s : State) (r c : Nat) :
    (s.quietDma r c).out = s.out.filter fun q => q.posted || !dmaOrigin r c (fun _ _ => true) q.origin := rfl

theorem quietDma_answers (s : State) (r c : Nat) :
    (s.quietDma r c).answers = s.answers.filter fun a => !dmaOrigin r c (fun _ _ => true) a.origin := rfl

/-- Once every read is given up no read is left to give up. -/
theorem dropReads_quietDma (s : State) (r c : Nat) (p : Nat → Nat → Bool) : (s.quietDma r c).dropReads r c p = s.quietDma r c := by
  have hout : (s.quietDma r c).out.filter (fun q => q.posted || !dmaOrigin r c p q.origin) = (s.quietDma r c).out := by
    refine List.filter_eq_self.2 fun q hq => ?_
    rw [quietDma_out] at hq
    refine Bool.or_eq_true_iff.2 ((Bool.or_eq_true_iff.1 (List.mem_filter.1 hq).2).imp_right fun h => ?_)
    rw [dmaOrigin_all_of r c p q.origin (by simpa using h)]
    rfl
  have hanswers : (s.quietDma r c).answers.filter (fun a => !dmaOrigin r c p a.origin) = (s.quietDma r c).answers := by
    refine List.filter_eq_self.2 fun a ha => ?_
    rw [quietDma_answers] at ha
    rw [dmaOrigin_all_of r c p a.origin (by simpa using (List.mem_filter.1 ha).2)]
    rfl
  show { s.quietDma r c with
    out := (s.quietDma r c).out.filter fun q => q.posted || !dmaOrigin r c p q.origin
    answers := (s.quietDma r c).answers.filter fun a => !dmaOrigin r c p a.origin } = _
  rw [hout, hanswers]

theorem quietDma_unbuffered (s : State) (r c : Nat) : (s.quietDma r c).dmaBuffered r c = false := by
  show (s.quietDma r c).answers.any (fun a => dmaOrigin r c (fun _ k => decide (srcOff ≤ k)) a.origin) = false
  refine List.any_eq_false.2 fun a ha => ?_
  rw [quietDma_answers] at ha
  rw [dmaOrigin_all_of r c _ a.origin (by simpa using (List.mem_filter.1 ha).2)]
  exact Bool.false_ne_true

theorem mem_dmaOut (s : State) (r c : Nat) (q : OutReq) :
    q ∈ s.dmaOut r c ↔ q ∈ s.out ∧ dmaOrigin r c (fun _ _ => true) q.origin = true := by
  refine List.mem_filter.trans (and_congr_right fun _ => ?_)
  cases q.origin <;> simp [dmaOrigin]

/-- Of a channel's requests the posted writes alone outlive its reads. -/
theorem mem_dmaOut_quietDma (s : State) (r c : Nat) (q : OutReq) :
    q ∈ (s.quietDma r c).dmaOut r c ↔ q ∈ s.dmaOut r c ∧ q.posted = true := by
  rw [mem_dmaOut, mem_dmaOut, quietDma_out, List.mem_filter]
  constructor
  · rintro ⟨⟨hout, hkept⟩, hmine⟩
    rw [hmine] at hkept
    exact ⟨⟨hout, hmine⟩, by simpa using hkept⟩
  · rintro ⟨⟨hout, hmine⟩, hposted⟩
    exact ⟨⟨hout, by rw [hposted, Bool.true_or]⟩, hmine⟩

/-! ### The entry into a state (R211, Table 12.3) -/

/-- The channel that has entered a state: LAST_STATUS of an owner's loss is seen in ERROR (Table 12.3), and no ERROR is due any
more. -/
def DmaChan.enter (x : DmaChan) (st : DmaState) : DmaChan :=
  let lost : DmaChan := if x.hostLost = true ∧ st = .error then { x with hostLost := false, lastStatus := stHOST_LOST } else x
  { lost with state := st, errAfter := x.errAfter && st != .error }

theorem DmaChan.enter_quietly (x : DmaChan) {st : DmaState} (h : st ≠ .error) : x.enter st = { x with state := st } := by
  unfold DmaChan.enter
  rw [if_neg fun hlost => h hlost.2, bne_iff_ne.2 h, Bool.and_true]

theorem DmaChan.enter_inState (x : DmaChan) (st : DmaState) : ({ x with state := st } : DmaChan).enter st = x.enter st := by
  unfold DmaChan.enter
  dsimp only
  split <;> rfl

theorem DmaChan.enter_own (y : DmaChan) : y.enter y.state =
    let lost : DmaChan := if y.hostLost = true ∧ y.state = .error then { y with hostLost := false, lastStatus := stHOST_LOST } else y
    { lost with errAfter := y.errAfter && y.state != .error } := by
  unfold DmaChan.enter
  dsimp only
  split <;> rfl

/-- PAUSED, ERROR and WAIT_DESC signal the event peg if EVENT_EN is set (R211). -/
def State.dmaEvent (s : State) (r c : Nat) (st : DmaState) : State :=
  let event := s.reg (DMA_CH_EVENT_PEG r c)
  if (s.reg (DMA_CH_CTRL r c)).getLsbD 12 ∧ (st = .paused ∨ st = .error ∨ st = .waitDesc) then
    s.signalPeg (engineAgent s.moduleId r 0) (bits event 15 0) (bits event 17 16) 1
  else s

theorem dmaEvent_none (s : State) (r c : Nat) {st : DmaState} (h : ¬ (st = .paused ∨ st = .error ∨ st = .waitDesc)) :
    s.dmaEvent r c st = s := if_neg fun hst => h hst.2

/-- The channel as `y`, newly in its state. -/
def State.dmaInto (s : State) (r c : Nat) (y : DmaChan) : State := (s.setDma r c (y.enter y.state)).dmaEvent r c y.state

theorem dmaInto_eq (u : State) (r c : Nat) (y : DmaChan) {event : W64} {me : Nat} (hevent : u.reg (DMA_CH_EVENT_PEG r c) = event)
    (hmod : u.moduleId = me) : u.dmaInto r c y =
      let lost : DmaChan := if y.hostLost = true ∧ y.state = .error then { y with hostLost := false, lastStatus := stHOST_LOST } else y
      let t := u.setDma r c { lost with errAfter := y.errAfter && y.state != .error }
      if (u.reg (DMA_CH_CTRL r c)).getLsbD 12 ∧ (y.state = .paused ∨ y.state = .error ∨ y.state = .waitDesc) then
        t.signalPeg (engineAgent me r 0) (bits event 15 0) (bits event 17 16) 1
      else t := by
  subst hevent hmod
  unfold State.dmaInto
  rw [y.enter_own]
  rfl

theorem dmaInto_setDma (s : State) (r c : Nat) (x y : DmaChan) : (s.setDma r c x).dmaInto r c y = s.dmaInto r c y := by
  unfold State.dmaInto
  rw [setDma_setDma]

theorem dmaEnter_into (s : State) (r c : Nat) {st : DmaState} (hne : (s.dmaChan r c).state ≠ st)
    (hlive : ¬ ((s.dmaChan r c).state = .disabled ∧ st = .error)) :
    s.dmaEnter r c st = s.dmaInto r c { s.dmaChan r c with state := st } := by
  unfold State.dmaEnter State.dmaInto
  dsimp only
  rw [if_neg hlive, if_neg hne, DmaChan.enter_inState]
  rfl

theorem dmaEnter_setDma (s : State) (r c : Nat) (x : DmaChan) {st : DmaState} (hne : x.state ≠ st)
    (hlive : ¬ (x.state = .disabled ∧ st = .error)) :
    (s.setDma r c x).dmaEnter r c st = s.dmaInto r c { x with state := st } := by
  rw [dmaEnter_into _ r c (by rwa [dma_set]) (by rwa [dma_set]), dma_set, dmaInto_setDma]

/-- IDLE, ACTIVE and PAUSING signal nothing. -/
def DmaState.Silent (st : DmaState) : Prop := st = .idle ∨ st = .active ∨ st = .pausing

theorem DmaState.Silent.ne_error {st : DmaState} (h : st.Silent) : st ≠ .error := by
  rcases h with rfl | rfl | rfl <;> decide

theorem dmaInto_silent (s : State) (r c : Nat) {y : DmaChan} (h : y.state.Silent) : s.dmaInto r c y = s.setDma r c y := by
  have hquiet : ¬ (y.state = .paused ∨ y.state = .error ∨ y.state = .waitDesc) := by
    rcases h with h | h | h <;> rw [h] <;> decide
  exact (dmaEvent_none _ r c hquiet).trans (congrArg (s.setDma r c) (y.enter_quietly h.ne_error))

theorem dmaEnter_silent (s : State) (r c : Nat) {st : DmaState} (h : st.Silent) :
    s.dmaEnter r c st = s.setDma r c { s.dmaChan r c with state := st } := by
  have hlive : ¬ ((s.dmaChan r c).state = .disabled ∧ st = .error) := fun hst => h.ne_error hst.2
  by_cases heq : (s.dmaChan r c).state = st
  · unfold State.dmaEnter
    dsimp only
    rw [if_neg hlive, if_pos heq]
    exact congrArg (s.setDma r c) ((s.dmaChan r c).enter_quietly h.ne_error)
  · rw [dmaEnter_into s r c heq hlive]
    exact dmaInto_silent s r c h

theorem dmaEnter_setDma_silent (s : State) (r c : Nat) (x : DmaChan) {st : DmaState} (h : st.Silent) :
    (s.setDma r c x).dmaEnter r c st = s.setDma r c { x with state := st } := by
  rw [dmaEnter_silent _ r c h, dma_set, setDma_setDma]

/-! ### Descriptors whose writes are acknowledged (R203, R208) -/

/-- A started descriptor that is moved whole, its writes acknowledged, has the status OK. -/
def State.settledDesc (s : State) (r c : Nat) (d : Desc) : Desc :=
  if d.status = none ∧ d.moved = true ∧ s.unackedOffs r c d.seq = [] then { d with status := some stOK, done := d.off } else d

/-- The channel's started descriptors, settled. -/
def State.settledDescs (s : State) (r c : Nat) : List Desc := (s.dmaChan r c).started.map (s.settledDesc r c)

theorem settleDescs_eq (s : State) (r c : Nat) :
    s.settleDescs r c = s.setDma r c { s.dmaChan r c with started := s.settledDescs r c } := by
  unfold State.settleDescs State.settledDescs State.settledDesc
  simp only [Option.isNone_iff_eq_none]
  rfl

theorem settledDesc_twice (s : State) (r c : Nat) (d : Desc) : s.settledDesc r c (s.settledDesc r c d) = s.settledDesc r c d := by
  unfold State.settledDesc
  by_cases h : d.status = none ∧ d.moved = true ∧ s.unackedOffs r c d.seq = []
  · rw [if_pos h]
    exact if_neg fun h' => absurd h'.1 (Option.some_ne_none _)
  · rw [if_neg h, if_neg h]

theorem settledDescs_unmoved {s : State} {r c : Nat} (h : ∀ d ∈ (s.dmaChan r c).started, d.moved = false) :
    s.settledDescs r c = (s.dmaChan r c).started :=
  (List.map_congr_left fun d hd => if_neg fun hmoved => Bool.false_ne_true ((h d hd).symm.trans hmoved.2.1)).trans (List.map_id _)

theorem settledDescs_settleDescs (s : State) (r c : Nat) : (s.settleDescs r c).settledDescs r c = s.settledDescs r c := by
  have hunacked : (s.settleDescs r c).settledDesc r c = s.settledDesc r c := by rw [settleDescs_eq]; rfl
  unfold State.settledDescs
  rw [hunacked, settleDescs_eq, dma_set]
  unfold State.settledDescs
  rw [List.map_map]
  exact List.map_congr_left fun d _ => settledDesc_twice s r c d

theorem settleDescs_twice (s : State) (r c : Nat) : (s.settleDescs r c).settleDescs r c = s.settleDescs r c := by
  rw [settleDescs_eq (s.settleDescs r c), settledDescs_settleDescs, settleDescs_eq, dma_set, setDma_setDma]

/-! ### The control register (R217, R218) -/

theorem bit_kept (w : W64) {a b : W64} {i : Nat} (ha : bit a i = false) (hb : bit b i = false) :
    bit (w &&& ~~~a ||| b) i = bit w i := by
  unfold bit at *
  rw [BitVec.getLsbD_or, BitVec.getLsbD_and, BitVec.getLsbD_not, ha, hb, Bool.or_false]
  by_cases hi : i < 64
  · simp [hi]
  · simp [BitVec.getLsbD_of_ge w i (Nat.le_of_not_lt hi)]

theorem bit_raised (w a : W64) {b : W64} {i : Nat} (hb : bit b i = true) : bit (w &&& ~~~a ||| b) i = true := by
  unfold bit at *
  rw [BitVec.getLsbD_or, hb, Bool.or_true]

theorem bit_lowered (w : W64) {a b : W64} {i : Nat} (ha : bit a i = true) (hb : bit b i = false) :
    bit (w &&& ~~~a ||| b) i = false := by
  unfold bit at *
  simp only [BitVec.getLsbD_or, BitVec.getLsbD_and, BitVec.getLsbD_not, ha, hb, Bool.not_true, Bool.and_false, Bool.or_false]

theorem bit_of_masked {w m : W64} (h : w &&& m = w) {i : Nat} (hi : bit m i = false) : bit w i = false := by
  unfold bit at *
  rw [← h, BitVec.getLsbD_and, hi, Bool.and_false]

theorem masked_set {w m : W64} (h : w &&& m = w) (b : W64) : (w &&& ~~~(0 : W64) ||| b) &&& m = w ||| b &&& m := by
  have hall : w &&& ~~~(0 : W64) = w := BitVec.and_allOnes
  rw [hall, BitVec.and_or_distrib_right, h]

theorem masked_cleared {w m : W64} (h : w &&& m = w) (b : W64) : (w &&& ~~~b ||| (0 : W64)) &&& m = w &&& ~~~b := by
  have hzero : w &&& ~~~b ||| (0 : W64) = w &&& ~~~b := BitVec.or_zero
  rw [hzero, BitVec.and_assoc, BitVec.and_comm (~~~b), ← BitVec.and_assoc, h]

section CtrlWrite
variable {s : State} {r c : Nat} (ag : Agent) {v : W64}

/-- A write of neither ABORT nor CLEAR_ERR that changes ENABLE. -/
theorem dmaCtrlWrite_enable (h2 : bit v 2 = false) (h3 : bit v 3 = false)
    (hchange : bit v 0 ≠ bit (s.reg (DMA_CH_CTRL r c)) 0) (hallowed : s.enableAllowed r c (bit v 0) = true) :
    s.dmaCtrlWrite ag r c v =
      let s := s.setReg (DMA_CH_CTRL r c) (v &&& 0x1F33#64)
      if bit v 0 = true then
        let s := ((s.setDma r c { lastStatus := (s.dmaChan r c).lastStatus }).quietDma r c).disown r c fun _ => true
        if bit v 1 = true then s.dmaEnter r c .paused else s.dmaEnter r c .idle
      else s.updDma r c fun x => { x with state := .disabled, target := none, tries := none } := by
  unfold State.dmaCtrlWrite
  simp [h2, h3, hchange, hallowed, State.quietDma]

/-- A write of neither ABORT nor CLEAR_ERR that changes PAUSE alone. -/
theorem dmaCtrlWrite_pause (h2 : bit v 2 = false) (h3 : bit v 3 = false)
    (hsame : bit v 0 = bit (s.reg (DMA_CH_CTRL r c)) 0) (hpause : bit v 1 ≠ bit (s.reg (DMA_CH_CTRL r c)) 1) :
    s.dmaCtrlWrite ag r c v = (s.setReg (DMA_CH_CTRL r c) (v &&& 0x1F33#64)).dmaPause r c (bit v 1) := by
  unfold State.dmaCtrlWrite
  simp [h2, h3, hsame, hpause]

/-- A write of ABORT or CLEAR_ERR alone. -/
theorem dmaCtrlWrite_command (hone : bit v 2 = !bit v 3)
    (hsame : bit v 0 = bit (s.reg (DMA_CH_CTRL r c)) 0) (hpause : bit v 1 = bit (s.reg (DMA_CH_CTRL r c)) 1) :
    s.dmaCtrlWrite ag r c v =
      let s := s.setReg (DMA_CH_CTRL r c) (v &&& 0x1F33#64)
      if bit v 2 = true then s.dmaAbort ag r c else s.dmaClearErr ag r c := by
  unfold State.dmaCtrlWrite
  cases h3 : bit v 3 <;> simp [hone, h3, hsame, hpause]

end CtrlWrite

/-- A channel that enters PAUSED or IDLE as it is enabled: the sequence numbers 0, no target. -/
def DmaChan.enabled (x : DmaChan) (paused : Bool) : DmaChan :=
  { lastStatus := x.lastStatus, state := if paused = true then .paused else .idle }

section Control
variable {s : State} {r c : Nat} (ag : Agent) (hmask : s.reg (DMA_CH_CTRL r c) &&& 0x1F33#64 = s.reg (DMA_CH_CTRL r c))
include hmask

theorem dmaCtrlSet_enable (hstate : (s.dmaChan r c).state = .disabled) (hoff : bit (s.reg (DMA_CH_CTRL r c)) 0 = false) :
    s.dmaCtrlSet ag r c 1 0 =
      (((s.setReg (DMA_CH_CTRL r c) (s.reg (DMA_CH_CTRL r c) ||| 1)).quietDma r c).disown r c fun _ => true).dmaInto r c
        ((s.dmaChan r c).enabled (bit (s.reg (DMA_CH_CTRL r c)) 1)) := by
  have h0 : bit (s.reg (DMA_CH_CTRL r c) &&& ~~~0 ||| 1) 0 = true := bit_raised _ _ rfl
  have h1 : bit (s.reg (DMA_CH_CTRL r c) &&& ~~~0 ||| 1) 1 = bit (s.reg (DMA_CH_CTRL r c)) 1 := bit_kept _ rfl rfl
  have hallowed : s.enableAllowed r c true = true := by unfold State.enableAllowed; rw [hstate]
  refine (dmaCtrlWrite_enable ag ((bit_kept _ rfl rfl).trans (bit_of_masked hmask rfl))
    ((bit_kept _ rfl rfl).trans (bit_of_masked hmask rfl)) (by rw [h0, hoff]; decide) (h0 ▸ hallowed)).trans ?_
  have hword : (s.reg (DMA_CH_CTRL r c) &&& ~~~0 ||| 1) &&& 0x1F33#64 = s.reg (DMA_CH_CTRL r c) ||| 1 := by
    rw [masked_set hmask]
    rfl
  rw [h0, h1, hword]
  refine (if_pos rfl).trans ?_
  dsimp only
  rw [dmaChan_setReg, quietDma_setDma, disown_setDma]
  unfold DmaChan.enabled
  by_cases hpaused : bit (s.reg (DMA_CH_CTRL r c)) 1 = true
  · rw [if_pos hpaused, if_pos hpaused]
    exact dmaEnter_setDma _ r c _ (by simp) (by simp)
  · rw [if_neg hpaused, if_neg hpaused]
    exact dmaEnter_setDma _ r c _ (by simp) (by simp)

theorem dmaCtrlSet_disable (hon : bit (s.reg (DMA_CH_CTRL r c)) 0 = true)
    (hstate : let x := s.dmaChan r c
      x.state = .idle ∨ x.state = .waitDesc ∨ x.state = .error ∨ (x.state = .paused ∧ x.started = [])) :
    s.dmaCtrlSet ag r c 0 1 = (s.setReg (DMA_CH_CTRL r c) (s.reg (DMA_CH_CTRL r c) &&& ~~~1)).setDma r c
      { s.dmaChan r c with state := .disabled, target := none, tries := none } := by
  have h0 : bit (s.reg (DMA_CH_CTRL r c) &&& ~~~1 ||| 0) 0 = false := bit_lowered _ rfl rfl
  have hallowed : s.enableAllowed r c false = true := by
    unfold State.enableAllowed State.incomplete
    rcases hstate with h | h | h | ⟨h, hnone⟩
    · rw [h]
    · rw [h]
    · rw [h]
    · rw [h, hnone]; rfl
  refine (dmaCtrlWrite_enable ag ((bit_kept _ rfl rfl).trans (bit_of_masked hmask rfl))
    ((bit_kept _ rfl rfl).trans (bit_of_masked hmask rfl)) (by rw [h0, hon]; decide) (h0 ▸ hallowed)).trans ?_
  rw [h0, masked_cleared hmask]
  rfl

theorem dmaCtrlSet_pause (hrun : bit (s.reg (DMA_CH_CTRL r c)) 1 = false) :
    s.dmaCtrlSet ag r c 2 0 = (s.setReg (DMA_CH_CTRL r c) (s.reg (DMA_CH_CTRL r c) ||| 2)).dmaPause r c true := by
  have h1 : bit (s.reg (DMA_CH_CTRL r c) &&& ~~~0 ||| 2) 1 = true := bit_raised _ _ rfl
  refine (dmaCtrlWrite_pause ag ((bit_kept _ rfl rfl).trans (bit_of_masked hmask rfl))
    ((bit_kept _ rfl rfl).trans (bit_of_masked hmask rfl)) (bit_kept _ rfl rfl) (by rw [h1, hrun]; decide)).trans ?_
  rw [h1, masked_set hmask]
  rfl

theorem dmaCtrlSet_resume (hpaused : bit (s.reg (DMA_CH_CTRL r c)) 1 = true) :
    s.dmaCtrlSet ag r c 0 2 = (s.setReg (DMA_CH_CTRL r c) (s.reg (DMA_CH_CTRL r c) &&& ~~~2)).dmaPause r c false := by
  have h1 : bit (s.reg (DMA_CH_CTRL r c) &&& ~~~2 ||| 0) 1 = false := bit_lowered _ rfl rfl
  refine (dmaCtrlWrite_pause ag ((bit_kept _ rfl rfl).trans (bit_of_masked hmask rfl))
    ((bit_kept _ rfl rfl).trans (bit_of_masked hmask rfl)) (bit_kept _ rfl rfl) (by rw [h1, hpaused]; decide)).trans ?_
  rw [h1, masked_cleared hmask]

/-- ABORT and CLEAR_ERR leave the register as it is. -/
theorem dmaCtrlSet_command :
    s.dmaCtrlSet ag r c 4 0 = (s.setReg (DMA_CH_CTRL r c) (s.reg (DMA_CH_CTRL r c))).dmaAbort ag r c ∧
    s.dmaCtrlSet ag r c 8 0 = (s.setReg (DMA_CH_CTRL r c) (s.reg (DMA_CH_CTRL r c))).dmaClearErr ag r c := by
  have h2 := bit_of_masked hmask (i := 2) rfl
  have h3 := bit_of_masked hmask (i := 3) rfl
  have habort2 : bit (s.reg (DMA_CH_CTRL r c) &&& ~~~0 ||| 4) 2 = true := bit_raised _ _ rfl
  have habort3 : bit (s.reg (DMA_CH_CTRL r c) &&& ~~~0 ||| 4) 3 = false := (bit_kept _ rfl rfl).trans h3
  have hclear2 : bit (s.reg (DMA_CH_CTRL r c) &&& ~~~0 ||| 8) 2 = false := (bit_kept _ rfl rfl).trans h2
  have hclear3 : bit (s.reg (DMA_CH_CTRL r c) &&& ~~~0 ||| 8) 3 = true := bit_raised _ _ rfl
  constructor
  · refine (dmaCtrlWrite_command ag (by rw [habort2, habort3]; rfl) (bit_kept _ rfl rfl) (bit_kept _ rfl rfl)).trans ?_
    rw [habort2, masked_set hmask]
    exact congrArg (fun w => (s.setReg _ w).dmaAbort ag r c) BitVec.or_zero
  · refine (dmaCtrlWrite_command ag (by rw [hclear2, hclear3]; rfl) (bit_kept _ rfl rfl) (bit_kept _ rfl rfl)).trans ?_
    rw [hclear2, masked_set hmask]
    exact congrArg (fun w => (s.setReg _ w).dmaClearErr ag r c) BitVec.or_zero

end Control

/-! ### Work left, and the end of a drain (R214, R215) -/

/-- The state of a channel that is not paused: ACTIVE where work is left, else IDLE (R215). -/
def DmaChan.runState (x : DmaChan) : DmaState :=
  if x.started ≠ [] ∨ x.target.any (fun t => decide (x.fetchSeq ≤ t)) then .active else .idle

theorem DmaChan.runState_silent (x : DmaChan) : x.runState.Silent := by
  unfold DmaChan.runState
  split
  · exact .inr (.inl rfl)
  · exact .inl rfl

theorem dmaResume_runs (s : State) (r c : Nat) :
    s.dmaResume r c = s.setDma r c { s.dmaChan r c with state := (s.dmaChan r c).runState } := by
  unfold State.dmaResume DmaChan.runState
  dsimp only
  split
  · exact dmaEnter_silent s r c (.inr (.inl rfl))
  · exact dmaEnter_silent s r c (.inl rfl)

/-- The drain of a channel that has issued nothing that is not acknowledged and completed what has ended. -/
theorem pauseDrainEnd_drained (s : State) (r c : Nat) (hstate : (s.dmaChan r c).state = .pausing)
    (hsettled : s.settledDescs r c = (s.dmaChan r c).started) (hout : s.dmaOut r c = []) (hbuf : s.dmaBuffered r c = false)
    (hnone : ∀ d ∈ (s.dmaChan r c).started, d.status = none) :
    s.pauseDrainEnd r c =
      let x := s.dmaChan r c
      let u := s.dropReads r c fun _ k => k == fetchOff
      if bit (s.reg (DMA_CH_CTRL r c)) 1 = true
      then u.dmaInto r c { x with state := .paused, tries := none, lastStatus := stPAUSED }
      else u.setDma r c { x with state := x.runState, tries := none } := by
  generalize hx : s.dmaChan r c = x at *
  have hall : x.started.all (·.status.isNone) = true := List.all_eq_true.2 fun d hd => by rw [hnone d hd]; rfl
  have hdrained : x.state = .pausing ∧ s.dmaOut r c = [] ∧ (!s.dmaBuffered r c) = true ∧ x.started.all (·.status.isNone) = true :=
    ⟨hstate, hout, by rw [hbuf]; rfl, hall⟩
  have hsame : s.settleDescs r c = s.setDma r c x := by rw [settleDescs_eq, hsettled, hx]
  unfold State.pauseDrainEnd
  dsimp only
  rw [hsame, dma_set]
  refine (if_pos hdrained).trans ?_
  rw [dropReads_setDma, updDma_setDma]
  refine if_congr Iff.rfl ?_ ?_
  · rw [updDma_setDma]
    exact dmaEnter_setDma _ r c _ (by rw [hstate]; decide) (by rw [hstate]; decide)
  · rw [dmaEnter_setDma_silent _ r c _ (.inr (.inl rfl)), dmaResume_runs, dma_set, setDma_setDma]
    rfl

/-! ### PAUSE (R214, R215) -/

section Pause
variable (s : State) (r c : Nat)

/-- With no descriptor started and no fetch under way there is nothing to drain. -/
theorem dmaPause_waiting (h : (s.dmaChan r c).state = .idle ∨ (s.dmaChan r c).state = .waitDesc) :
    s.dmaPause r c true = (s.quietDma r c).dmaInto r c { s.dmaChan r c with state := .paused, tries := none } := by
  have hpause : s.dmaPause r c true =
      ((s.quietDma r c).setDma r c { s.dmaChan r c with tries := none }).dmaEnter r c .paused := by
    unfold State.dmaPause
    rcases h with h | h <;> rw [h] <;> rfl
  have hne : (s.dmaChan r c).state ≠ .paused := by rcases h with h | h <;> rw [h] <;> decide
  rw [hpause]
  exact dmaEnter_setDma _ r c _ hne fun hst => absurd hst.2 (by decide)

theorem dmaPause_started (h : (s.dmaChan r c).state = .active) (hstarted : (s.dmaChan r c).started ≠ []) :
    s.dmaPause r c true = s.setDma r c { s.dmaChan r c with state := .pausing } := by
  unfold State.dmaPause
  rw [h]
  dsimp only
  rw [dmaEnter_silent s r c (.inr (.inr rfl)), dma_set]
  exact if_neg hstarted

/-- With no descriptor started the drain may end at once. -/
theorem dmaPause_unstarted (h : (s.dmaChan r c).state = .active) (hnone : (s.dmaChan r c).started = []) :
    s.dmaPause r c true = ((s.quietDma r c).setDma r c { s.dmaChan r c with state := .pausing }).pauseDrainEnd r c := by
  unfold State.dmaPause
  rw [h]
  dsimp only
  rw [dmaEnter_silent s r c (.inr (.inr rfl)), dma_set]
  exact if_pos hnone

theorem settledDescs_nil {s : State} {r c : Nat} (h : (s.dmaChan r c).started = []) : s.settledDescs r c = [] := by
  unfold State.settledDescs
  rw [h, List.map_nil]

theorem dmaPause_ends (h : (s.dmaChan r c).state = .active) (hnone : (s.dmaChan r c).started = [])
    (hout : ∀ q ∈ s.dmaOut r c, q.posted = false) (hpause : bit (s.reg (DMA_CH_CTRL r c)) 1 = true) :
    s.dmaPause r c true = (s.quietDma r c).dmaInto r c
      { s.dmaChan r c with state := .paused, tries := none, lastStatus := stPAUSED } := by
  rw [dmaPause_unstarted s r c h hnone]
  obtain ⟨w, hw⟩ : ∃ w, w = (s.quietDma r c).setDma r c { s.dmaChan r c with state := .pausing } := ⟨_, rfl⟩
  have hchan : w.dmaChan r c = { s.dmaChan r c with state := .pausing } := by rw [hw, dma_set]
  have hstarted : (w.dmaChan r c).started = [] := by rw [hchan]; exact hnone
  have hempty : w.dmaOut r c = [] := by
    rw [hw]
    refine List.eq_nil_iff_forall_not_mem.2 fun q hq => ?_
    obtain ⟨hmem, hposted⟩ := (mem_dmaOut_quietDma s r c q).1 hq
    exact Bool.false_ne_true ((hout q hmem).symm.trans hposted)
  have hbuf : w.dmaBuffered r c = false := by rw [hw]; exact quietDma_unbuffered s r c
  have hdrops : (w.dropReads r c fun _ k => k == fetchOff) = w := by rw [hw, dropReads_setDma, dropReads_quietDma]
  rw [← hw, pauseDrainEnd_drained w r c (by rw [hchan]) (by rw [settledDescs_nil hstarted, hstarted]) hempty hbuf
    (by rw [hstarted]; simp)]
  dsimp only
  rw [hdrops, hchan, hw, dmaInto_setDma]
  exact if_pos hpause

theorem dmaPause_drains (h : (s.dmaChan r c).state = .active) (hnone : (s.dmaChan r c).started = [])
    {q : OutReq} (hq : q ∈ s.dmaOut r c) (hposted : q.posted = true) :
    s.dmaPause r c true = (s.quietDma r c).setDma r c { s.dmaChan r c with state := .pausing } := by
  rw [dmaPause_unstarted s r c h hnone]
  obtain ⟨x, hx⟩ : ∃ x : DmaChan, x = { s.dmaChan r c with state := .pausing } := ⟨_, rfl⟩
  have hstarted : x.started = [] := by rw [hx]; exact hnone
  have hsettle : ((s.quietDma r c).setDma r c x).settleDescs r c = (s.quietDma r c).setDma r c x := by
    rw [settleDescs_eq, settledDescs_nil (by rw [dma_set]; exact hstarted), dma_set, setDma_setDma, ← hstarted]
  have hout : ((s.quietDma r c).setDma r c x).dmaOut r c ≠ [] :=
    List.ne_nil_of_mem ((mem_dmaOut_quietDma s r c q).2 ⟨hq, hposted⟩)
  rw [← hx]
  unfold State.pauseDrainEnd
  dsimp only
  rw [hsettle]
  exact if_neg fun hdrained => hout hdrained.2.1

theorem dmaPause_resumes (h : (s.dmaChan r c).state = .paused) :
    s.dmaPause r c false = s.setDma r c { s.dmaChan r c with state := (s.dmaChan r c).runState } := by
  unfold State.dmaPause
  rw [h]
  exact dmaResume_runs s r c

end Pause

/-! ### ABORT (R216, R218) -/

section Abort
variable (s : State) (r c : Nat)

/-- The channel with its reads given up: settled, no re-fetch under way. -/
def State.haltedChan (s : State) (r c : Nat) : DmaChan := { s.dmaChan r c with started := s.settledDescs r c, tries := none }

theorem haltedChan_started : (s.haltedChan r c).started = s.settledDescs r c := rfl

theorem settle_drop_halts : ((s.settleDescs r c).dropReads r c fun _ _ => true).updDma r c (fun x => { x with tries := none }) =
    (s.quietDma r c).setDma r c (s.haltedChan r c) := by
  rw [settleDescs_eq, dropReads_setDma, updDma_setDma]
  rfl

/-- The first descriptor that has not ended stops with ABORTED. -/
theorem abortWith_stops {d : Desc} (hd : (s.settledDescs r c).find? (·.status.isNone) = some d) :
    s.abortWith r c stABORTED = (s.quietDma r c).setDma r c { s.dmaChan r c with
      tries := none
      started := (s.settledDescs r c).map fun e =>
        if e.seq = d.seq then { d with status := some stABORTED, detail := 0, done := d.off } else e } := by
  unfold State.abortWith
  rw [settle_drop_halts]
  dsimp only
  rw [dma_set, haltedChan_started, hd]
  unfold State.stopDesc State.putDesc
  dsimp only
  rw [updDma_setDma, dropReads_setDma, dropReads_quietDma]
  rfl

/-- Where each started descriptor has ended, ERROR follows the last one's completion. -/
theorem abortWith_awaits (hended : (s.settledDescs r c).find? (·.status.isNone) = none) (hstarted : (s.dmaChan r c).started ≠ []) :
    s.abortWith r c stABORTED = (s.quietDma r c).setDma r c { s.dmaChan r c with
      tries := none, started := s.settledDescs r c, errAfter := true } := by
  unfold State.abortWith
  rw [settle_drop_halts]
  dsimp only
  rw [dma_set, haltedChan_started, hended]
  refine (if_neg fun hnil => hstarted (List.map_eq_nil_iff.1 hnil)).trans ?_
  rw [updDma_setDma]
  rfl

/-- With none started the channel goes to ERROR at once. -/
theorem abortWith_none (hnone : (s.dmaChan r c).started = [])
    (hrun : (s.dmaChan r c).state = .active ∨ (s.dmaChan r c).state = .pausing ∨ (s.dmaChan r c).state = .paused) :
    s.abortWith r c stABORTED = (s.quietDma r c).dmaInto r c { s.dmaChan r c with tries := none, state := .error } := by
  have hlive : (s.dmaChan r c).state ≠ .disabled := by rcases hrun with h | h | h <;> rw [h] <;> decide
  have hne : (s.dmaChan r c).state ≠ .error := by rcases hrun with h | h | h <;> rw [h] <;> decide
  have hchan : s.haltedChan r c = { s.dmaChan r c with tries := none } := by
    unfold State.haltedChan
    rw [settledDescs_nil hnone, ← hnone]
  unfold State.abortWith
  rw [settle_drop_halts]
  dsimp only
  rw [dma_set, haltedChan_started, settledDescs_nil hnone]
  refine (if_pos rfl).trans ?_
  rw [hchan]
  exact dmaEnter_setDma (s.quietDma r c) r c _ hne fun hst => hlive hst.1

theorem dmaAbort_runs (ag : Agent) (h : let x := s.dmaChan r c
      x.state = .active ∨ x.state = .pausing ∨ (x.state = .paused ∧ x.started ≠ [])) :
    s.dmaAbort ag r c = s.abortWith r c stABORTED := by
  unfold State.dmaAbort State.incomplete
  dsimp only
  rcases h with h | h | ⟨h, hstarted⟩
  · rw [h]
  · rw [h]
  · rw [h]
    exact if_pos (bne_iff_ne.2 hstarted)

theorem dmaAbort_waiting (ag : Agent) (h : (s.dmaChan r c).state = .waitDesc) :
    s.dmaAbort ag r c = s.setDma r c { s.dmaChan r c with state := .idle, target := none, tries := none } := by
  unfold State.dmaAbort
  dsimp only
  rw [h]
  exact dmaEnter_setDma_silent s r c _ (.inl rfl)

end Abort

/-! ### CLEAR_ERR (R210) -/

/-- A write-back is due for no descriptor that has not ended, or whose writes are not acknowledged. -/
theorem descWriteback_notDue (s : State) (r c : Nat)
    (hhead : ∀ d ∈ (s.settledDescs r c).head?, d.status = none ∨ s.unackedOffs r c d.seq ≠ []) :
    s.descWriteback r c = s.settleDescs r c := by
  unfold State.descWriteback
  dsimp only
  rw [settleDescs_eq, dma_set]
  cases hl : s.settledDescs r c with
  | nil => rfl
  | cons d rest =>
    rw [hl] at hhead
    refine if_pos ((hhead d rfl).imp (fun h => ?_) fun h => .inl (bne_iff_ne.2 h))
    rw [h]
    rfl

theorem descWritebacks_notDue (s : State) (r c n : Nat)
    (hhead : ∀ d ∈ (s.settledDescs r c).head?, d.status = none ∨ s.unackedOffs r c d.seq ≠ []) :
    (List.range (n + 1)).foldl (fun s _ => s.descWriteback r c) s = s.settleDescs r c := by
  rw [List.range_succ_eq_map, List.foldl_cons, descWriteback_notDue s r c hhead]
  refine foldl_stays _ _ _ fun _ _ => ?_
  have hagain := descWriteback_notDue (s.settleDescs r c) r c (by rw [settledDescs_settleDescs]; exact hhead)
  exact hagain.trans (settleDescs_twice s r c)

/-- The channel that goes on after CLEAR_ERR: no descriptor is started, and fetching resumes at DONE_SEQ. -/
def DmaChan.restarted (x : DmaChan) : DmaChan := { x with fetchSeq := x.doneSeq, started := [], tries := none }

theorem settledDesc_wbFault (s : State) (r c : Nat) (d : Desc) : (s.settledDesc r c d).wbFault = d.wbFault := by
  unfold State.settledDesc
  split <;> rfl

/-- Nothing is due, and no write-back has faulted. -/
theorem dmaClearErr_resumes (s : State) (ag : Agent) (r c : Nat) (hstate : (s.dmaChan r c).state = .error)
    (hfault : ∀ d ∈ (s.dmaChan r c).started, d.wbFault = false)
    (hhead : ∀ d ∈ (s.settledDescs r c).head?, d.status = none ∨ s.unackedOffs r c d.seq ≠ []) :
    s.dmaClearErr ag r c =
      let y := (s.dmaChan r c).restarted
      ((s.quietDma r c).disown r c fun n => decide ((s.dmaChan r c).doneSeq ≤ n)).dmaInto r c
        { y with state := if bit (s.reg (DMA_CH_CTRL r c)) 1 = true then .paused else y.runState } := by
  have hsound : (s.dmaChan r c).started.any (·.wbFault) = false := List.any_eq_false.2 fun d hd => by rw [hfault d hd]; decide
  have hsettled : (s.settledDescs r c).any (·.wbFault) = false := by
    rw [State.settledDescs, List.any_map, ← hsound]
    exact List.any_congr rfl fun d => settledDesc_wbFault s r c d
  obtain ⟨w, hw⟩ : ∃ w, w = (s.quietDma r c).disown r c fun n => decide ((s.dmaChan r c).doneSeq ≤ n) := ⟨_, rfl⟩
  unfold State.dmaClearErr
  rw [if_neg (not_not.2 hstate), hsound]
  dsimp only
  rw [if_neg Bool.false_ne_true, descWritebacks_notDue s r c 7 hhead, settleDescs_eq, dma_set]
  dsimp only
  rw [hsettled, if_neg Bool.false_ne_true, setDma_setDma]
  have hresumed : ((s.setDma r c { s.dmaChan r c with fetchSeq := (s.dmaChan r c).doneSeq, started := [], tries := none }).dropReads
    r c fun _ _ => true).disown r c (fun n => decide ((s.dmaChan r c).doneSeq ≤ n)) = w.setDma r c (s.dmaChan r c).restarted := by
    rw [hw]
    rfl
  have hreg : w.reg (DMA_CH_CTRL r c) = s.reg (DMA_CH_CTRL r c) := by rw [hw]; rfl
  have hfrom : (s.dmaChan r c).restarted.state = .error := hstate
  rw [hresumed, ← hw]
  show (if bit (w.reg (DMA_CH_CTRL r c)) 1 = true then _ else _) = _
  rw [hreg]
  by_cases hpaused : bit (s.reg (DMA_CH_CTRL r c)) 1 = true
  · rw [if_pos hpaused, if_pos hpaused]
    exact dmaEnter_setDma w r c _ (by rw [hfrom]; decide) (by rw [hfrom]; decide)
  · rw [if_neg hpaused, if_neg hpaused, dmaResume_runs, dma_set, setDma_setDma]
    exact (dmaInto_silent w r c (DmaChan.runState_silent _)).symm

/-! ### The doorbell (R212) -/

theorem dmaDoorbell_disabled (s : State) (ag : Agent) (r c : Nat) (v : W64) (hc : c < 64) (h : (s.dmaChan r c).state = .disabled) :
    s.dmaDoorbell ag r c v = s.log r stSTATE 1 ag.code (DMA_CH_DOORBELL r c % 0x100000000) 0 := by
  have hregion : DMA_CH_DOORBELL r c / 0x100000000 = r := by
    show (r * 0x100000000 + (0x00400000 + c * 0x1000 + 0x030) : Nat) / 0x100000000 = r
    omega
  unfold State.dmaDoorbell
  refine (if_pos h).trans ?_
  unfold State.dmaRefuse
  rw [hregion]

theorem dmaDoorbell_ignored (s : State) (ag : Agent) (r c : Nat) (v : W64) (h : (s.dmaChan r c).state ≠ .disabled)
    (hseq : s.doorbellSeq r c v = none) : s.dmaDoorbell ag r c v = s.bump (DMA_CH_DB_IGNORED r c) 1 := by
  unfold State.dmaDoorbell
  refine (if_neg h).trans ?_
  rw [hseq]

theorem dmaDoorbell_idle (s : State) (ag : Agent) (r c n : Nat) (v : W64) (h : (s.dmaChan r c).state = .idle)
    (hseq : s.doorbellSeq r c v = some n) :
    s.dmaDoorbell ag r c v = s.setDma r c { s.dmaChan r c with
      target := some (max n ((s.dmaChan r c).target.getD 0)), state := .active } := by
  unfold State.dmaDoorbell
  refine (if_neg (by rw [h]; decide)).trans ?_
  rw [hseq]
  dsimp only
  rw [h]
  exact dmaEnter_setDma_silent s r c _ (.inr (.inl rfl))

/-! ### The statement -/

theorem eventPeg_ne_ctrl (r c : Nat) : DMA_CH_EVENT_PEG r c ≠ DMA_CH_CTRL r c := by
  intro h
  have hoff : (r * 0x100000000 + (0x00400000 + c * 0x1000 + 0x068) : Nat) = r * 0x100000000 + (0x00400000 + c * 0x1000 + 0x000) := h
  omega

/-- Settles O24: the register that each command leaves, then what the change, the command or the doorbell does to the channel. -/
theorem dmaChannelStates : Obligations.DmaChannelStates := by
  unfold Obligations.DmaChannelStates
  intro s ag r c hp hag hr hc g x event hmask enable paused into more settled quiet
  have hwf : (ag.wf && okR r && okChan c) = true := by simp [hag, okR, hr, okChan, hc]
  have hinto (u : State) (y : DmaChan) (hevent : u.reg (DMA_CH_EVENT_PEG r c) = event) (hmod : u.moduleId = s.moduleId) :
      u.dmaInto r c y = into u y := dmaInto_eq u r c y hevent hmod
  have hctrl (v : W64) : (s.setReg g v).reg (DMA_CH_EVENT_PEG r c) = event := State.reg_setReg_ne s v (eventPeg_ne_ctrl r c)
  refine ⟨?enable, ?disable, ?pause, ?resume, ?abortWaiting, ?abort, ?clearErr, ?doorbell, ?drain⟩
  case enable =>
    intro hstate hoff
    rw [exec_dmaEnable ag r c s hwf hp, dmaCtrlSet_enable ag hmask hstate hoff]
    exact congrArg _ (hinto _ _ (hctrl _) rfl)
  case disable =>
    intro hon hstate
    rw [exec_dmaDisable ag r c s hwf hp, dmaCtrlSet_disable ag hmask hon hstate]
  case pause =>
    intro hrun _ u
    rw [exec_dmaPause ag r c s hwf hp, dmaCtrlSet_pause ag hmask hrun]
    refine ⟨fun hstate => ?_, fun hstate hstarted => ?_, fun hstate hnone hout => ?_, fun q hq hstate hnone hposted => ?_⟩
    · rw [dmaPause_waiting u r c hstate]
      exact congrArg _ (hinto _ _ (hctrl _) rfl)
    · exact congrArg _ (dmaPause_started u r c hstate hstarted)
    · have hraised : bit (u.reg g) 1 = true := by simp [u, bit]
      rw [dmaPause_ends u r c hstate hnone hout hraised]
      exact congrArg _ (hinto _ _ (hctrl _) rfl)
    · exact congrArg _ (dmaPause_drains u r c hstate hnone hq hposted)
  case resume =>
    intro hpaused hstate
    rw [exec_dmaResume ag r c s hwf hp, dmaCtrlSet_resume ag hmask hpaused]
    exact congrArg _ (dmaPause_resumes _ r c hstate)
  case abortWaiting =>
    intro hstate
    rw [exec_dmaAbort ag r c s hwf hp, (dmaCtrlSet_command ag hmask).1]
    exact congrArg _ (dmaAbort_waiting _ r c ag hstate)
  case abort =>
    intro hstate u
    have habort := dmaAbort_runs (s.setReg g (s.reg g)) r c ag hstate
    rw [exec_dmaAbort ag r c s hwf hp, (dmaCtrlSet_command ag hmask).1, habort]
    refine ⟨fun d hd => congrArg _ (abortWith_stops _ r c hd), fun hended => ?_⟩
    by_cases hnone : x.started = []
    · have hrun : x.state = .active ∨ x.state = .pausing ∨ x.state = .paused := hstate.imp_right (Or.imp_right And.left)
      rw [if_pos hnone]
      exact congrArg _ ((abortWith_none (s.setReg g (s.reg g)) r c hnone hrun).trans (hinto _ _ (hctrl _) rfl))
    · rw [if_neg hnone]
      exact congrArg _ (abortWith_awaits _ r c hended hnone)
  case clearErr =>
    intro hstate hfault hhead y
    rw [exec_dmaClearErr ag r c s hwf hp, (dmaCtrlSet_command ag hmask).2,
      dmaClearErr_resumes (s.setReg g (s.reg g)) ag r c hstate hfault hhead, State.reg_setReg_self]
    exact congrArg _ (hinto _ _ (hctrl _) rfl)
  case doorbell =>
    intro v
    rw [exec_dmaDoorbell ag r c v s hwf hp]
    exact ⟨fun h => congrArg _ (dmaDoorbell_disabled s ag r c v hc h), fun h hseq => congrArg _ (dmaDoorbell_ignored s ag r c v h hseq),
      fun n hseq h => congrArg _ (dmaDoorbell_idle s ag r c n v h hseq)⟩
  case drain =>
    intro hstate hout hbuf hopen u
    rw [exec_pauseDrainEnd r c s (Bool.and_eq_true_iff.2 ⟨decide_eq_true hr, decide_eq_true hc⟩) hp,
      pauseDrainEnd_drained s r c hstate (settledDescs_unmoved fun d hd => (hopen d hd).2) hout hbuf fun d hd => (hopen d hd).1]
    exact congrArg _ (if_congr Iff.rfl (hinto u _ rfl rfl) rfl)

end Sys2Proof.Machine

/-!
PROOFS. The descriptors of a DMA channel (R192 to R210): O25.
-/
namespace Sys2Proof.Machine

/-! ### The entry into a state that the channel may be in (R211, Table 5.5) -/

theorem dmaEnter_eq (u : State) (r c : Nat) (st : DmaState) : u.dmaEnter r c st =
    let old := u.dmaChan r c
    let lost : DmaChan := if old.hostLost = true ∧ st = .error then { old with hostLost := false, lastStatus := stHOST_LOST } else old
    let t := u.setDma r c { lost with state := st, errAfter := old.errAfter && st != .error }
    let event := u.reg (DMA_CH_EVENT_PEG r c)
    if old.state = .disabled ∧ st = .error then u
    else if old.state ≠ st ∧ (u.reg (DMA_CH_CTRL r c)).getLsbD 12 ∧ (st = .paused ∨ st = .error ∨ st = .waitDesc) then
      t.signalPeg (engineAgent u.moduleId r 0) (bits event 15 0) (bits event 17 16) 1
    else t := by
  unfold State.dmaEnter
  dsimp only
  refine if_congr Iff.rfl rfl ?_
  by_cases hold : (u.dmaChan r c).state = st
  · rw [if_pos hold, if_neg fun h => h.1 hold]
    rfl
  · rw [if_neg hold]
    exact if_congr (iff_and_self.2 fun _ => hold) rfl rfl

theorem updDma_of_chan {u : State} {r c : Nat} {x : DmaChan} (hx : u.dmaChan r c = x) (f : DmaChan → DmaChan) :
    u.updDma r c f = u.setDma r c (f x) := by
  rw [updDma_form, hx]

/-! ### Fetching (R197, R204, R213) -/

section Fetch
variable {s u : State} {r c : Nat} {bs : List Byte}

/-- A descriptor as it is read: the one at FETCH_SEQ. -/
def DmaChan.read (x : DmaChan) (bs : List Byte) : Desc := { seq := x.fetchSeq, word := BitVec.ofNat 512 (leNat bs) }

/-- A read descriptor is valid: its VALID bit and its PASS are those of this pass of the ring (R197). -/
def State.ValidDesc (s : State) (r c : Nat) (d : Desc) : Prop :=
  d.f 1 0 0 = 1 ∧ d.f 2 7 0 = (s.dmaChan r c).fetchSeq / s.ringSize r c % 256

/-- Re-fetches that return are counted. -/
def State.refetched (u : State) (r c more : Nat) : State := if more = 0 then u else u.bump (DMA_CH_REFETCH r c) more

variable (hread : s.engRead (s.dmaAgent r) (.dma r c (s.dmaChan r c).fetchSeq fetchOff) none (s.dmaPasid r c)
  (s.ringAddr r c (s.dmaChan r c).fetchSeq) 64 = .data u bs) (more : Nat) (late : State → State)
include hread

theorem fetchOnce_valid (hvalid : s.ValidDesc r c ((s.dmaChan r c).read bs))
    (hfence : ¬ (((s.dmaChan r c).read bs).fence = true ∧ (s.dmaChan r c).started ≠ [])) :
    s.fetchOnce r c more late = (u.refetched r c more).startDesc r c (BitVec.ofNat 512 (leNat bs)) := by
  unfold State.fetchOnce
  dsimp only
  rw [hread]
  exact (if_pos hvalid).trans (if_neg hfence)

theorem fetchOnce_notValid (hvalid : ¬ s.ValidDesc r c ((s.dmaChan r c).read bs)) :
    s.fetchOnce r c more late = late (u.refetched r c more) := by
  unfold State.fetchOnce
  dsimp only
  rw [hread]
  exact if_neg hvalid

end Fetch

/-- A valid descriptor whose deadline has not passed, or that fails its checks, joins the started ones (R204, R207). -/
theorem startDesc_starts (u : State) (r c : Nat) (w : BitVec 512) {x : DmaChan} {lo hi : W64} (hx : u.dmaChan r c = x)
    (hlo : u.reg (DMA_CH_WIN_LO r c) = lo) (hhi : u.reg (DMA_CH_WIN_HI r c) = hi) :
    let d : Desc := { seq := x.fetchSeq, word := w }
    let check := d.check lo.toNat hi.toNat
    let mark := targetOf u (if d.deadlineEn then 1 else 0) (d.f 48 31 0)
    ¬ (check = 0 ∧ mark = .passed) → u.startDesc r c w = u.setDma r c { x with
      fetchSeq := x.fetchSeq + 1, tries := none,
      started := x.started ++ [{ d with target := mark
                                        status := if check = 0 then none else some stRANGE, detail := w64 check }] } := by
  intro d check mark hmark
  unfold State.startDesc
  dsimp only
  rw [hx, hlo, hhi]
  refine (if_neg hmark).trans ?_
  rw [ite_not]

section Fetches
variable {s : State} {r c : Nat} (hstate : (s.dmaChan r c).state = .active) (hmay : s.mayFetch r c = true)
include hstate hmay

theorem descFetch_fetches (htries : (s.dmaChan r c).tries = none) :
    s.descFetch r c = s.fetchOnce r c 0 fun s => s.updDma r c fun y => { y with tries := some 0 } :=
  if_pos ⟨hstate, htries, hmay⟩

theorem descRefetch_fetches {k : Nat} (htries : (s.dmaChan r c).tries = some k) (hk : k < 8) :
    s.descRefetch r c = s.fetchOnce r c 1 fun s => (s.updDma r c fun y => { y with tries := some (k + 1) }).maybeWait r c := by
  unfold State.descRefetch
  dsimp only
  rw [htries]
  exact if_pos ⟨hstate, hk, hmay⟩

end Fetches

/-- WAIT_DESC waits for the eighth re-fetch (R213). -/
theorem maybeWait_stays (s : State) (r c : Nat) (h : (s.dmaChan r c).tries ≠ some 8) : s.maybeWait r c = s :=
  if_neg fun hwait => h hwait.2.1

/-! ### Chunks (R193 to R195, R200 to R206) -/

/-- The descriptor after `len` more bytes; they are counted in DMA_CH_BYTES where they are written already. -/
def State.dmaMoved (v : State) (r c : Nat) (d : Desc) (len : Nat) : State :=
  (if (v.unackedOffs r c d.seq).filter (fun o => decide (d.off ≤ o)) = [] then v.bump (DMA_CH_BYTES r c) len else v).putDesc r c
    { d with off := d.off + len }

theorem dmaPut_done {s v : State} (held : List Answer) {r c : Nat} {d : Desc} {bs : List Byte} (hroom : s.dmaIssued r < 0x42000)
    (hwrite : s.engWrite (s.dmaAgent r) (fun k => .dma r c d.seq (d.off + k)) 0 (s.dmaPasid r c) (d.dstAt d.off) bs = .done v none) :
    s.dmaPut held r c d bs = (v.dmaMoved r c d bs.length, true) := by
  have hfree : s.listFull r = false := decide_eq_false (Nat.not_le_of_lt hroom)
  unfold State.dmaPut
  rw [hfree, if_neg Bool.false_ne_true, hwrite]
  rfl

/-- The pattern that a FILL writes (R200). -/
def fillBytes (d : Desc) : List Byte := (List.range (State.chunkLen d)).map fun i => BitVec.ofNat 8 (d.src >>> (8 * ((d.off + i) % 8)))

theorem dmaChunk_fill (s : State) (r c : Nat) {d : Desc} (hop : d.op = 1) :
    s.dmaChunk r c d = s.dmaPut s.answers r c d (fillBytes d) := by
  have hn : s.chunkReads r c d = State.chunkLen d := if_pos (.inl hop)
  unfold State.dmaChunk
  dsimp only
  rw [if_pos hop, hn]
  rfl

/-- What the read of a chunk's source finds. -/
def State.readSource (g : State) (r c : Nat) (d : Desc) : EngRead :=
  g.engRead (g.dmaAgent r) (.dma r c d.seq (srcOff + d.off)) none (g.dmaPasid r c) (d.srcAt d.off) (g.chunkReads r c d)

/-- What the read of a comparison's second operand finds. -/
def State.readSecond (g u : State) (r c : Nat) (d : Desc) : EngRead :=
  u.engRead (g.dmaAgent r) (.dma r c d.seq (dstOff + d.off)) none (g.dmaPasid r c) (d.dstAt d.off) (g.chunkReads r c d)

section Chunk
variable {g u : State} {r c : Nat} {d : Desc} {bs : List Byte}

theorem dmaChunk_copy (hfill : d.op ≠ 1) (hcompare : d.op ≠ 2) (hread : g.readSource r c d = .data u bs) :
    g.dmaChunk r c d = u.dmaPut g.answers r c d bs := by
  unfold State.readSource at hread
  unfold State.dmaChunk
  dsimp only
  rw [if_neg hfill, hread]
  exact if_pos hcompare

theorem dmaChunk_compare {v : State} {bs' : List Byte} (hop : d.op = 2) (hread : g.readSource r c d = .data u bs)
    (hsecond : g.readSecond u r c d = .data v bs') :
    g.dmaChunk r c d = (State.firstDiff bs bs' d.off).elim (v.putDesc r c { d with off := d.off + g.chunkReads r c d }, true)
      fun x => (v.stopDesc r c d stMISCOMPARE (fld x.2.1.toNat 0 ||| fld x.2.2.toNat 8) x.1, false) := by
  unfold State.readSource at hread
  unfold State.readSecond at hsecond
  unfold State.dmaChunk
  dsimp only
  rw [if_neg (by rw [hop]; decide), hread]
  dsimp only
  rw [if_neg (not_not.2 hop), hsecond]
  dsimp only
  cases State.firstDiff bs bs' d.off with
  | none => rfl
  | some x => rfl

theorem dmaChunk_fault {st va : Nat} (hfill : d.op ≠ 1) (hread : g.readSource r c d = .fault u st va) :
    g.dmaChunk r c d = (u.stopDesc r c d st
      (State.faultDetail st va (if d.op = 2 then d.srcAt d.off else d.dstAt d.off)) d.off, false) := by
  unfold State.readSource at hread
  unfold State.dmaChunk
  dsimp only
  rw [if_neg hfill, hread]

end Chunk

/-- The state that a chunk's reads begin from: FILL reads nothing, what is in the buffer was granted before, and other reads wait
for the grant (R194). -/
def State.Granted (s : State) (r c : Nat) (d : Desc) (g : State) : Prop :=
  if d.op = 1 ∨ s.dmaBuffered r c = true then g = s
  else (∀ q ∈ s.dmaOut r c, q.posted = true) ∧ s.grantRead r c (State.readCost d) = some g

theorem dmaBurst_granted {s g : State} {r c : Nat} {d : Desc} (hg : s.Granted r c d g) :
    s.dmaBurst r c d = (s.countDmaSpill (g.dmaChunk r c d).1 r, (g.dmaChunk r c d).2) := by
  unfold State.Granted at hg
  unfold State.dmaBurst
  dsimp only
  split at hg
  next hfree => rw [if_pos hfree, hg]
  next hfree =>
    obtain ⟨hposted, hgrant⟩ := hg
    rw [if_neg hfree, if_pos (List.all_eq_true.2 hposted), hgrant]

/-- One chunk of a move command. -/
theorem dmaMove_one {s g : State} {r c op : Nat} {d : Desc} (hstate : (s.dmaChan r c).state = .active)
    (hd : s.activeDesc r c = some d) (hop : d.op = op) (hg : s.Granted r c d g) :
    s.dmaMove r c op 1 = s.countDmaSpill (g.dmaChunk r c d).1 r := by
  have hchunk : State.dmaChunks 1 s r c op = (s.dmaBurst r c d).1 := by
    unfold State.dmaChunks
    rw [hd]
    dsimp only
    rw [if_neg (not_not.2 hop)]
    exact ite_self _
  unfold State.dmaMove
  rw [hstate]
  dsimp only
  rw [hchunk, dmaBurst_granted hg]

/-! ### Faults of a transfer (R206) -/

theorem activeDesc_open {s : State} {r c : Nat} {e : Desc} (h : s.activeDesc r c = some e) :
    e ∈ (s.dmaChan r c).started ∧ e.status = none := by
  unfold State.activeDesc at h
  split at h
  next d hfind =>
    split at h
    next hnone =>
      obtain rfl := Option.some.inj h
      exact ⟨List.mem_of_find?_eq_some hfind, Option.isNone_iff_eq_none.1 hnone⟩
    · exact absurd h nofun
  · exact absurd h nofun

theorem stopDesc_started (u : State) (r c : Nat) (d : Desc) (st : Nat) (detail : W64) (done : Nat) :
    ((u.stopDesc r c d st detail done).dmaChan r c).started = (u.dmaChan r c).started.map fun e =>
      if e.seq = d.seq then { d with status := some st, detail := detail, done := done } else e := by
  unfold State.stopDesc State.putDesc State.updDma
  rw [dropReads_setDma, dma_set]

/-- A descriptor that has stopped moves no more data. -/
theorem activeDesc_stopDesc (u : State) (r c : Nat) (d : Desc) (st : Nat) (detail : W64) (done : Nat) :
    ((u.stopDesc r c d st detail done).activeDesc r c).any (·.seq == d.seq) = false := by
  cases hactive : (u.stopDesc r c d st detail done).activeDesc r c with
  | none => rfl
  | some e =>
    obtain ⟨hmem, hopen⟩ := activeDesc_open hactive
    rw [stopDesc_started] at hmem
    obtain ⟨e', -, he⟩ := List.mem_map.1 hmem
    split at he
    · exact absurd (he ▸ hopen) nofun
    next hne => exact beq_eq_false_iff_ne.2 (he ▸ hne)

theorem descFault_stops {s u : State} {r c st va : Nat} {d : Desc} (hstate : (s.dmaChan r c).state = .active)
    (hd : s.activeDesc r c = some d) (hfill : d.op ≠ 1) (hread : s.readSource r c d = .fault u st va) :
    s.descFault r c = s.countDmaSpill (u.stopDesc r c d st
      (State.faultDetail st va (if d.op = 2 then d.srcAt d.off else d.dstAt d.off)) d.off) r := by
  unfold State.descFault
  rw [hd]
  dsimp only
  rw [if_pos hstate, dmaChunk_fault hfill hread]
  dsimp only
  rw [if_neg Bool.false_ne_true, activeDesc_stopDesc, if_neg Bool.false_ne_true]

theorem countDmaSpill_eq (s u : State) (r : Nat) : s.countDmaSpill u r =
    if u.spillNow r - s.spillNow r = 0 then u else u.bump (DMA_ENG_SPILL_TOTAL r) (u.spillNow r - s.spillNow r) := rfl

/-- The count of the spill area's entries is no part of the channel, its requests or the kiln (R195). -/
theorem countDmaSpill_keeps_units (s u : State) (r : Nat) : (s.countDmaSpill u r).dma = u.dma ∧ (s.countDmaSpill u r).out = u.out ∧
    (s.countDmaSpill u r).kiln = u.kiln := by
  rw [countDmaSpill_eq]
  split
  · exact ⟨rfl, rfl, rfl⟩
  · exact ⟨State.bump_dma .., State.bump_out .., State.bump_kiln ..⟩

/-! ### Completion (R199, R208, R209) -/

theorem dmaChan_congr {s t : State} {r c : Nat} (h : t.dma = s.dma) : t.dmaChan r c = s.dmaChan r c := by
  unfold State.dmaChan
  rw [h]

theorem unackedOffs_congr {s t : State} (h : t.out = s.out) (r c n : Nat) : t.unackedOffs r c n = s.unackedOffs r c n := by
  unfold State.unackedOffs
  rw [h]

theorem descWriteback_writes {s y u : State} {r c st : Nat} {d : Desc} {rest : List Desc} (hy : s.settleDescs r c = y)
    (hstarted : (y.dmaChan r c).started = d :: rest) (hst : d.status = some st) (hacked : y.unackedOffs r c d.seq = [])
    (hfault : d.wbFault = false) (hsent : d.sent = false) (hroom : y.dmaIssued r < 0x42000)
    (hwrite : y.engWrite (y.dmaAgent r) (fun _ => .dma r c d.seq wbOff) 0 (y.dmaPasid r c) (y.ringAddr r c d.seq)
      (leBytes 64 (y.wbWord r c d)) = .done u none) :
    s.descWriteback r c = if (y.countDmaSpill u r).unackedOffs r c d.seq = [] then (y.countDmaSpill u r).finishDesc r c d
      else (y.countDmaSpill u r).putDesc r c { d with sent := true } := by
  have hdue : ¬ (d.status.isNone = true ∨ (y.unackedOffs r c d.seq != []) = true ∨ d.wbFault = true) := by
    rw [hst, hacked, hfault]
    simp
  have hfree : y.listFull r = false := decide_eq_false (Nat.not_le_of_lt hroom)
  unfold State.descWriteback
  rw [hy]
  dsimp only
  rw [hstarted]
  dsimp only
  rw [if_neg hdue, hsent, if_neg Bool.false_ne_true, hfree, if_neg Bool.false_ne_true, hwrite]

/-- The peg of a completed descriptor is signalled if PEG_EN is set (R208). -/
def State.signalDone (v : State) (r : Nat) (d : Desc) : State :=
  if d.f 1 1 1 = 1 then v.signalPeg (engineAgent v.moduleId r 0) (d.f 36 15 0) (d.f 1 3 2) (w64 (d.f 40 31 0)) else v

theorem signalPeg_dma (s : State) (a : Agent) (p sc : Nat) (v : W64) : (s.signalPeg a p sc v).dma = s.dma :=
  have hsame := (signalPeg_reports s a p sc v).1.1
  (congrArg State.dma hsame).trans rfl

theorem signalDone_chan (v : State) (r c : Nat) (d : Desc) : (v.signalDone r d).dmaChan r c = v.dmaChan r c := by
  unfold State.signalDone State.dmaChan
  split
  · rw [signalPeg_dma]
  · rfl

/-- The channel after the completion of its oldest descriptor. -/
def DmaChan.completed (x : DmaChan) (d : Desc) (st : Nat) : DmaChan :=
  { x with started := x.started.drop 1, doneSeq := d.seq + 1, lastStatus := st }

/-- What a channel goes on to after a completion: an error aborts the descriptors behind it, and the last one may end the work (R209). -/
def State.goesOn (s : State) (r c st : Nat) : State :=
  if isSuccess st then
    let x := s.dmaChan r c
    if x.errAfter ∧ x.started = [] then s.dmaEnter r c .error
    else if x.state = .active ∧ x.started = [] ∧ !(x.target.any fun t => decide (x.fetchSeq ≤ t)) then s.dmaEnter r c .idle
    else s.maybeWait r c
  else
    let s := (s.dropReads r c fun _ _ => true).updDma r c fun x =>
      { x with tries := none, started := x.started.map fun e => { e with status := some stABORTED, detail := 0, done := 0 } }
    if (s.dmaChan r c).started = [] then s.dmaEnter r c .error else s

/-- A completion that counts no fret miss and carries no meter tag. -/
theorem finishDesc_eq {t : State} {r c st : Nat} {d : Desc} {x : DmaChan} (hx : (t.dmaChan r c).completed d st = x)
    (hst : d.status = some st) (hmiss : st ≠ stOVERRUN) (htag : t.kiln.tags.find (d.f 44 31 0) = none) :
    t.finishDesc r c d = ((t.setDma r c x).signalDone r d).goesOn r c st := by
  have hfinish : t.finishDesc r c d =
      let s := t.setDma r c ((t.dmaChan r c).completed d st)
      (((if st = stOVERRUN then s.bumpFld (FAB_FRET_MISS_COUNT r) 31 0 1 else s).noteCompletion (d.f 44 31 0) st 0).signalDone
        r d).goesOn r c st := by
    unfold State.finishDesc
    rw [hst]
    rfl
  rw [hfinish, hx]
  dsimp only
  rw [if_neg hmiss, noteCompletion_untagged (s := t.setDma r c x) htag]

section GoesOn
variable {s : State} {r c st : Nat} {x : DmaChan} (hx : s.dmaChan r c = x)
include hx

theorem goesOn_errAfter (hok : isSuccess st = true) (herr : x.errAfter = true) (hlast : x.started = []) :
    s.goesOn r c st = s.dmaEnter r c .error := by
  unfold State.goesOn
  rw [if_pos hok, hx]
  exact if_pos ⟨herr, hlast⟩

theorem goesOn_works (hok : isSuccess st = true) (herr : x.errAfter = false) (htries : x.tries = none)
    (hwork : x.state ≠ .active ∨ x.started ≠ [] ∨ x.target.any (fun t => decide (x.fetchSeq ≤ t)) = true) :
    s.goesOn r c st = s := by
  have hmore : ¬ (x.state = .active ∧ x.started = [] ∧ (!x.target.any fun t => decide (x.fetchSeq ≤ t)) = true) := by
    rintro ⟨hactive, hlast, hdone⟩
    rcases hwork with h | h | h
    · exact h hactive
    · exact h hlast
    · rw [h] at hdone
      exact Bool.false_ne_true hdone
  unfold State.goesOn
  rw [if_pos hok, hx]
  dsimp only
  rw [herr, if_neg fun h => Bool.false_ne_true h.1, if_neg hmore]
  exact maybeWait_stays s r c (by rw [hx, htries]; exact nofun)

theorem goesOn_idles (hok : isSuccess st = true) (herr : x.errAfter = false) (hactive : x.state = .active) (hlast : x.started = [])
    (hdone : x.target.any (fun t => decide (x.fetchSeq ≤ t)) = false) : s.goesOn r c st = s.dmaEnter r c .idle := by
  unfold State.goesOn
  rw [if_pos hok, hx]
  dsimp only
  rw [herr, if_neg fun h => Bool.false_ne_true h.1]
  exact if_pos ⟨hactive, hlast, by rw [hdone]; rfl⟩

/-- An error aborts the descriptors behind it; with none left the channel enters ERROR (R209). -/
theorem goesOn_aborts (hbad : isSuccess st = false) :
    let aborted := (s.quietDma r c).setDma r c { x with
      tries := none, started := x.started.map fun e => { e with status := some stABORTED, detail := 0, done := 0 } }
    s.goesOn r c st = if x.started = [] then aborted.dmaEnter r c .error else aborted := by
  intro aborted
  have hchan : (aborted.dmaChan r c).started = [] ↔ x.started = [] := by
    rw [dma_set]
    exact List.map_eq_nil_iff
  have habort : (s.dropReads r c fun _ _ => true).updDma r c (fun x => { x with
      tries := none, started := x.started.map fun e => { e with status := some stABORTED, detail := 0, done := 0 } }) = aborted := by
    show _ = (s.quietDma r c).setDma r c _
    rw [← hx]
    rfl
  unfold State.goesOn
  rw [hbad, if_neg Bool.false_ne_true, habort]
  exact if_congr hchan rfl rfl

end GoesOn

/-! ### Faults at the ring (R210) -/

theorem mayFetch_congr {s t : State} {r c : Nat} (h : t.dmaChan r c = s.dmaChan r c) : t.mayFetch r c = s.mayFetch r c := by
  unfold State.mayFetch
  rw [h]

section RingFault
variable {s y : State} {r c va : Nat} {x : DmaChan} (hy : s.settleDescs r c = y) (hx : y.dmaChan r c = x)
include hy hx

theorem ringFault_fetch (hstate : x.state = .active) (hnone : x.started = []) (hmay : y.mayFetch r c = true)
    (hfault : y.pieces (y.dmaPasid r c) (y.ringAddr r c x.fetchSeq) 64 false = .fault va) :
    s.ringFault r c = y.dmaRingFault r c (y.ringAddr r c x.fetchSeq) := by
  unfold State.ringFault
  rw [hy]
  dsimp only
  rw [hx, hnone]
  exact if_pos ⟨hstate, hmay, by rw [hfault]⟩

theorem ringFault_writeback {d : Desc} {rest : List Desc} (hstarted : x.started = d :: rest) (hon : x.state ≠ .disabled)
    (hsound : x.state ≠ .error) (hended : d.status ≠ none) (hsent : d.sent = false) (hacked : y.unackedOffs r c d.seq = [])
    (hfault : y.pieces (y.dmaPasid r c) (y.ringAddr r c d.seq) 64 true = .fault va) :
    s.ringFault r c = (y.putDesc r c { d with wbFault := true }).dmaRingFault r c (y.ringAddr r c d.seq) := by
  unfold State.ringFault
  rw [hy]
  dsimp only
  rw [hx, hstarted]
  exact if_pos ⟨hon, hsound, Option.isSome_iff_ne_none.2 hended, hacked, by rw [hsent]; rfl, by rw [hfault]⟩

end RingFault

/-! ### The statement -/

theorem refetch_ne_window (r c : Nat) : DMA_CH_WIN_LO r c ≠ DMA_CH_REFETCH r c ∧ DMA_CH_WIN_HI r c ≠ DMA_CH_REFETCH r c := by
  have h (a b : Nat) (hne : a ≠ b) : (r * 0x100000000 + (0x00400000 + c * 0x1000 + a) : Nat) ≠
      r * 0x100000000 + (0x00400000 + c * 0x1000 + b) := by omega
  exact ⟨h 0x020 0x078 (by decide), h 0x028 0x078 (by decide)⟩

/-- Settles O25: each command's operation at the state that its clause names. -/
theorem dmaDescriptorsMove : Obligations.DmaDescriptorsMove := by
  unfold Obligations.DmaDescriptorsMove
  intro s r c hp hr hc x ag pasid into counted put settled y
  have hwf : (okR r && okChan c) = true := Bool.and_eq_true_iff.2 ⟨decide_eq_true hr, decide_eq_true hc⟩
  have hinto (u : State) (st : DmaState) : u.dmaEnter r c st = into u st := dmaEnter_eq u r c st
  have hsettle : s.settleDescs r c = y := settleDescs_eq s r c
  have hy : y.dmaChan r c = { x with started := settled } := dma_set ..
  refine ⟨?fetch, ?move, ?writeback, ?ringFault⟩
  case fetch =>
    intro hstate hmay _ u bs w d check mark starts valid ready again hu hread
    obtain ⟨hlo, hhi⟩ := refetch_ne_window r c
    refine ⟨fun htries => ?_, fun k htries hk => ?_⟩
    · rw [exec_descFetch r c s hwf hp, descFetch_fetches hstate hmay htries]
      refine ⟨fun ⟨hvalid, hfence, hmark⟩ => congrArg _ ?_, fun hvalid => congrArg _ ?_⟩
      · exact (fetchOnce_valid hread 0 _ hvalid hfence).trans (startDesc_starts u r c w hu rfl rfl hmark)
      · exact (fetchOnce_notValid hread 0 _ hvalid).trans (updDma_of_chan hu _)
    · rw [exec_descRefetch r c s hwf hp, descRefetch_fetches hstate hmay htries (Nat.lt_succ_of_lt hk)]
      refine ⟨fun ⟨hvalid, hfence, hmark⟩ => congrArg _ ?_, fun hvalid => congrArg _ ?_⟩
      · exact (fetchOnce_valid hread 1 _ hvalid hfence).trans
          (startDesc_starts again r c w hu (State.reg_bump_ne u 1 hlo) (State.reg_bump_ne u 1 hhi) hmark)
      · refine (fetchOnce_notValid hread 1 _ hvalid).trans ?_
        have hcounted : again.updDma r c (fun z => { z with tries := some (k + 1) }) = again.setDma r c { x with tries := some (k + 1) } :=
          updDma_of_chan (u := again) hu _
        show (again.updDma r c fun z => { z with tries := some (k + 1) }).maybeWait r c = _
        rw [hcounted]
        refine maybeWait_stays _ r c ?_
        rw [dma_set]
        exact fun h => absurd (Option.some.inj h) (by omega)
  case move =>
    intro d hstate hd n granted stopped moved write source
    refine ⟨fun g u v bs hg hread hroom hwrite => ?_, fun v hop hroom hwrite => ?_, fun g u v bs bs' hop hg hread hsecond => ?_,
      fun u st va hfill hread _ => ?_⟩
    · have hcopied (op : Nat) (hop : d.op = op) (hfill : op ≠ 1) (hcompare : op ≠ 2) :
          s.dmaMove r c op 1 = counted (moved v bs.length) := by
        rw [dmaMove_one hstate hd hop hg, dmaChunk_copy (hop ▸ hfill) (hop ▸ hcompare) hread, dmaPut_done _ hroom hwrite]
        rfl
      exact ⟨fun hop => (exec_copy r c 1 s hwf hp).trans (congrArg _ (hcopied 0 hop (by decide) (by decide))),
        fun hop => (exec_copy2d r c 1 s hwf hp).trans (congrArg _ (hcopied 3 hop (by decide) (by decide)))⟩
    · have hself : s.Granted r c d s := by
        unfold State.Granted
        rw [if_pos (.inl hop)]
      have hlen : (fillBytes d).length = State.chunkLen d := by
        unfold fillBytes
        rw [List.length_map, List.length_range]
      rw [exec_fill r c 1 s hwf hp, dmaMove_one hstate hd hop hself, dmaChunk_fill s r c hop,
        dmaPut_done (bs := fillBytes d) _ hroom hwrite, hlen]
      rfl
    · rw [exec_compare r c 1 s hwf hp, dmaMove_one hstate hd hop hg, dmaChunk_compare hop hread hsecond]
      refine ⟨fun hsame => ?_, fun k a b hdiff => ?_⟩
      · rw [hsame]
        rfl
      · rw [hdiff]
        rfl
    · rw [exec_descFault r c s hwf hp, descFault_stops hstate hd hfill hread]
      rfl
  case writeback =>
    intro d rest st u hsettled hst hacked hfault hsent hmiss htag hu hwrite htries hroom done signalled after aborted
    have hstarted : (y.dmaChan r c).started = d :: rest := by rw [hy]; exact hsettled
    have hcounted : y.countDmaSpill u r = counted u := rfl
    obtain ⟨hdma, hout, hkiln⟩ := countDmaSpill_keeps_units y u r
    rw [hcounted] at hdma hout hkiln
    have hunacked : (counted u).unackedOffs r c d.seq = u.unackedOffs r c d.seq := unackedOffs_congr hout r c d.seq
    have htagged : (counted u).kiln.tags.find (d.f 44 31 0) = none := by rw [hkiln]; exact htag
    have hchan : (counted u).dmaChan r c = { x with started := settled } := (dmaChan_congr hdma).trans hu
    have hdone : ((counted u).dmaChan r c).completed d st = done := by
      rw [hchan, hsettled]
      rfl
    have hafter : after.dmaChan r c = done := (signalDone_chan ((counted u).setDma r c done) r c d).trans (dma_set ..)
    have hwb := descWriteback_writes hsettle hstarted hst hacked hfault hsent hroom hwrite
    rw [hcounted, hunacked] at hwb
    rw [exec_descWriteback r c s hwf hp, hwb]
    refine ⟨fun hawaits => by rw [if_neg hawaits]; rfl, fun hmade => ?_⟩
    have hfinish : (counted u).finishDesc r c d = after.goesOn r c st := finishDesc_eq hdone hst hmiss htagged
    have hgoesOn (hbad : isSuccess st = false) :
        after.goesOn r c st = if rest = [] then aborted.dmaEnter r c .error else aborted := by
      have hquiet := goesOn_aborts hafter hbad
      have htries' : done.tries = none := htries
      rw [← htries'] at hquiet
      exact hquiet
    rw [if_pos hmade, hfinish]
    refine ⟨fun hok herr hlast => ?_, fun hok herr hwork => ?_, fun hok herr hactive hlast hended => ?_, fun hbad hmore => ?_,
      fun hbad hlast => ?_⟩
    · exact congrArg _ ((goesOn_errAfter hafter hok herr hlast).trans (hinto ..))
    · exact congrArg _ (goesOn_works hafter hok herr htries hwork)
    · exact congrArg _ ((goesOn_idles hafter hok herr hactive hlast hended).trans (hinto ..))
    · exact congrArg _ ((hgoesOn hbad).trans (if_neg hmore))
    · exact congrArg _ (((hgoesOn hbad).trans (if_pos hlast)).trans (hinto ..))
  case ringFault =>
    intro va failed
    have hfailed (u : State) (a : Nat) : u.dmaRingFault r c a = failed u a := hinto _ _
    constructor
    · intro hstate hnone hmay hfault
      have hempty : settled = [] := by show x.started.map _ = []; rw [hnone]; rfl
      have hchan : y.dmaChan r c = x := by rw [hy, hempty, ← hnone]
      rw [exec_ringFault r c s hwf hp, ringFault_fetch hsettle hchan hstate hnone ((mayFetch_congr hchan).trans hmay) hfault]
      exact congrArg _ (hfailed ..)
    · intro d rest hsettled hon hsound hended hsent hacked hfault
      rw [exec_ringFault r c s hwf hp, ringFault_writeback hsettle hy hsettled hon hsound hended hsent hacked hfault]
      exact congrArg _ (hfailed ..)

end Sys2Proof.Machine

/-!
PROOFS. Peg operations of harts and engines, and refused accesses of peg space (R219 to R229): O26, O27, O28.
-/
namespace Sys2Proof.Machine

/-! ### Operations that leave a value in a peg -/

/-- What an operation that leaves `x` in peg `p` (R220, R233) leaves of a state `s` in `t`: only pegs, watches and their counters
change, of the pegs only `p`, and of the registers only the counters of fired watches. -/
def PutsPeg (s : State) (p : Nat) (x : Peg) (t : State) : Prop :=
  t = { s with pegs := t.pegs, watches := t.watches, gens := t.gens, fired := t.fired, regs := t.regs } ∧
  t.peg p = x ∧ (∀ q, q ≠ p → t.peg q = s.peg q) ∧ ∀ g, (∀ r, g ≠ WATCH_FIRED r) → t.reg g = s.reg g

theorem putPeg_puts (s : State) (p : Nat) (x : Peg) : PutsPeg s p x (s.putPeg p x) := by
  obtain ⟨t, rfl, hputs⟩ := putPeg_does s p x
  exact hputs

theorem pegSet_live {s : State} (ag : Agent) {p : Nat} (v : W64) (hlive : s.regionLive (pegHome p) = true) :
    s.pegSet ag p v = s.putPeg p { s.peg p with value := v, lastRel := false } := if_pos hlive

theorem pegAdd_live {s : State} (ag : Agent) {p : Nat} (v : W64) (hlive : s.regionLive (pegHome p) = true) :
    s.pegAdd ag p v = s.putPeg p { s.peg p with value := (s.peg p).value + v, lastRel := false } := if_pos hlive

/-- Peg `p` of `s` after a release-add by `ag` (R224, R227) that carries the unacknowledged writes `cs`. -/
def State.releasedPeg (s : State) (ag : Agent) (p : Nat) (sc : Scope) (v : W64) (cs : List (Nat × Nat × Nat)) : Peg :=
  { s.peg p with value := (s.peg p).value + v, lastRel := true, lastScope := scopeCode sc, releaser := ag.place, carries := cs }

theorem pegRelAdd_live {s : State} {ag : Agent} {p : Nat} {sc : Scope} {v : W64} (hlive : s.regionLive (pegHome p) = true)
    (hcarried : s.carriedBy ag = []) : s.pegRelAdd ag p (scopeCode sc) v =
      s.putPeg p (s.releasedPeg ag p sc v ((s.peg p).carries.filter fun y => s.awaited y.1)) := by
  unfold State.pegRelAdd
  rw [if_pos hlive, hcarried, List.map_nil]
  dsimp only
  rw [List.append_nil]
  rfl

theorem carriedBy_noHart (s : State) {ag : Agent} (h : ag.hart = none) : s.carriedBy ag = [] := by
  unfold State.carriedBy
  rw [h]

theorem pegRelease_noHart (s : State) {ag : Agent} (p sc : Nat) (v : W64) (h : ag.hart = none) :
    s.pegRelease ag p sc v = s.pegRelAdd ag p sc v := by
  unfold State.pegRelease
  rw [h]

theorem pegCasExpect_hart {s : State} {ag : Agent} {p h : Nat} (v : W64) (hlive : s.regionLive (pegHome p) = true)
    (hh : ag.hart = some h) : s.pegCasExpect ag p v = { s with casExp := s.casExp.set (h, p) v } := by
  unfold State.pegCasExpect
  rw [hlive, hh]
  rfl

theorem pegStatusClear_live {s : State} (ag : Agent) {p : Nat} (v : W64) (hlive : s.regionLive (pegHome p) = true) :
    s.pegStatusClear ag p v = if v.getLsbD 0 = true then
      { s with pegs := s.pegs.set p { s.peg p with narrow := false, narrowCount := 0 } } else s := by
  unfold State.pegStatusClear
  rw [hlive]
  rfl

/-- Settles O26: with its home live each command is its own write of the peg, or of the expectation alone. -/
theorem pegStores : Obligations.PegStores := by
  unfold Obligations.PegStores
  refine ⟨?set, ?add, ?release, ?expect, ?statusClear⟩
  case set =>
    intro s ag p v hp hw hlive
    exact ⟨_, (exec_pegSet ag p v s hw hp).trans (congrArg _ (pegSet_live ag v hlive)), putPeg_puts s p _⟩
  case add =>
    intro s ag p v hp hw hlive
    exact ⟨_, (exec_pegAdd ag p v s hw hp).trans (congrArg _ (pegAdd_live ag v hlive)), putPeg_puts s p _⟩
  case release =>
    intro s ag p sc v hp hw hlive hno
    have hput := (pegRelease_noHart s p (scopeCode sc) v hno).trans (pegRelAdd_live (sc := sc) hlive (carriedBy_noHart s hno))
    exact ⟨_, (exec_pegRelAdd ag p sc v s hw hp).trans (congrArg _ hput), putPeg_puts s p _⟩
  case expect =>
    intro s ag p h v hp hw hlive hh
    exact (exec_pegCasExpect ag p v s hw hp).trans (congrArg _ (pegCasExpect_hart v hlive hh))
  case statusClear =>
    intro s ag p v hp hw hlive
    exact (exec_pegStatusClear ag p v s hw hp).trans (congrArg _ (pegStatusClear_live ag v hlive))

/-! ### A release by a hart that holds nothing back -/

theorem awaited_nothing {s : State} (h : s.out = []) (tag : Nat) : s.awaited tag = false := by
  unfold State.awaited
  rw [h]
  rfl

theorem carriedBy_nothing {s : State} (ag : Agent) (h : s.out = []) : s.carriedBy ag = [] := by
  have hawaited : ∀ l : List Nat, l.filter s.awaited = [] := fun l => filter_nil l _ fun y _ => awaited_nothing h y
  unfold State.carriedBy
  rw [h]
  split
  · exact hawaited _
  · rfl

theorem HoldsNothing.releaseReady {s : State} {h : Nat} (hn : HoldsNothing s h) (sc : Nat) : s.releaseReady h sc = true := by
  have hcarried : (s.carried.get [] h).any s.awaited = false := List.any_eq_false.2 fun y _ => by
    rw [awaited_nothing hn.out]
    exact Bool.false_ne_true
  simp [State.releaseReady, State.unacked, hn.stores, hn.combine, hn.out, hn.wcDrained, hcarried]

/-- A release by a hart with nothing to wait for is performed at once (R224): only the hart itself is written back. -/
theorem pegRelease_puts {s : State} {ag : Agent} {p h : Nat} {sc : Scope} {v : W64} (hlive : s.regionLive (pegHome p) = true)
    (hh : ag.hart = some h) (hn : HoldsNothing s h) : s.pegRelease ag p (scopeCode sc) v =
      (s.setHart h (s.hart h)).putPeg p (s.releasedPeg ag p sc v []) := by
  have hnone : ((s.peg p).carries.filter fun y => s.awaited y.1) = [] := filter_nil _ _ fun y _ => awaited_nothing hn.out y.1
  unfold State.pegRelease
  rw [hh]
  dsimp only
  rw [State.pushOut_idle s h hn.stores hn.combine hn.wc, if_pos (hn.setHart_same.releaseReady _),
    pegRelAdd_live (s := s.setHart h (s.hart h)) hlive (carriedBy_nothing ag hn.out)]
  exact congrArg (fun cs => (s.setHart h (s.hart h)).putPeg p (s.releasedPeg ag p sc v cs)) hnone

/-- Settles O27: the hart has nothing to send on its way, so that its release is the write of the peg. -/
theorem pegReleaseByHart : Obligations.PegReleaseByHart := by
  unfold Obligations.PegReleaseByHart
  intro s ag p h sc v hp hw hlive hh hstores hcombine hwc hout
  obtain ⟨hframe, hself, hother, hregs⟩ := putPeg_puts (s.setHart h (s.hart h)) p (s.releasedPeg ag p sc v [])
  refine ⟨_, (exec_pegRelAdd ag p sc v s hw hp).trans (congrArg _ (pegRelease_puts hlive hh ⟨hstores, hcombine, hwc, hout⟩)),
    ?_, hself, hother, fun j => ?_, hregs⟩
  · rw [hframe]
    rfl
  · rw [hframe]
    exact State.hart_same s h j

/-! ### What a hart receives -/

theorem deliver_toHart (s : State) {ag : Agent} {h : Nat} (v : W64) (hh : ag.hart = some h) :
    s.deliver ag v = s.setHart h { s.hart h with result := v } := by
  unfold State.deliver
  rw [hh]
  rfl

/-- What an acquire leaves of peg `p` and its counts (R227): a narrow one sets SCOPE_NARROW and is counted by the peg and its home. -/
def State.noteAcquire (s : State) (p : Nat) (narrow : Bool) : State :=
  if narrow = true then
    (s.setPeg p { s.peg p with narrow := true, narrowCount := min 0xFFFF ((s.peg p).narrowCount + 1) }).bump
      (PEG_NARROW_COUNT (pegHome p)) 1
  else s

theorem noteAcquire_frame (s : State) (p : Nat) (narrow : Bool) :
    s.noteAcquire p narrow = { s with pegs := (s.noteAcquire p narrow).pegs, regs := (s.noteAcquire p narrow).regs } := by
  cases narrow
  · rfl
  · rfl

theorem noteAcquire_does (s : State) (p : Nat) (narrow : Bool) : let t := s.noteAcquire p narrow
    t.peg p = (if narrow = true then { s.peg p with narrow := true, narrowCount := min 0xFFFF ((s.peg p).narrowCount + 1) }
      else s.peg p) ∧
    (∀ q, q ≠ p → t.peg q = s.peg q) ∧
    t.reg (PEG_NARROW_COUNT (pegHome p)) = s.reg (PEG_NARROW_COUNT (pegHome p)) + (if narrow = true then 1 else 0) ∧
    ∀ g, g ≠ PEG_NARROW_COUNT (pegHome p) → t.reg g = s.reg g := by
  cases narrow
  · exact ⟨rfl, fun _ _ => rfl, (BitVec.add_zero _).symm, fun _ _ => rfl⟩
  · exact ⟨State.peg_setPeg_self .., fun _ hq => State.peg_setPeg_ne s _ hq, State.reg_bump_self .., fun _ hg => State.reg_bump_ne _ 1 hg⟩

/-- The unacknowledged writes that an acquire of peg `p` by `ag` makes visible (R224, R226). -/
def State.madeVisible (s : State) (ag : Agent) (p : Nat) (sc : Scope) : List Nat :=
  ((s.peg p).carries.filter fun y => s.awaited y.1 &&
    decide (commonScope (agentOfCode s.moduleId y.2.2) ag ≤ min y.2.1 (scopeCode sc))).map (·.1)

/-- The state with what an acquire by hart `h` makes visible to it. -/
def State.sees (s : State) (h : Nat) (new : List Nat) : State :=
  { s with carried := if new = [] then s.carried else s.carried.set h ((s.carried.get [] h).filter s.awaited ++ new) }

theorem takeCarried_sees (s : State) {ag : Agent} {h : Nat} (p : Nat) (sc : Scope) (hh : ag.hart = some h) :
    s.takeCarried ag p (scopeCode sc) = s.sees h (s.madeVisible ag p sc) := by
  obtain ⟨new, hnew⟩ : ∃ new, s.madeVisible ag p sc = new := ⟨_, rfl⟩
  have htake : s.takeCarried ag p (scopeCode sc) =
      if new = [] then s else { s with carried := s.carried.set h ((s.carried.get [] h).filter s.awaited ++ new) } := by
    unfold State.takeCarried
    rw [hh, ← hnew]
    rfl
  rw [htake, hnew]
  unfold State.sees
  split
  · rfl
  · rfl

/-- An acquire without strict scope mode returns VALUE and counts a narrow acquire (R225, R227). -/
theorem pegAcqRead_lax {s : State} {ag : Agent} {p h : Nat} {sc : Scope} (hlive : s.regionLive (pegHome p) = true)
    (hh : ag.hart = some h) (hlax : s.strictScope = false) :
    let u := (s.sees h (s.madeVisible ag p sc)).noteAcquire p (s.acquireNarrow ag p (scopeCode sc))
    s.pegAcqRead ag p (scopeCode sc) = u.setHart h { u.hart h with result := (s.peg p).value } := by
  obtain ⟨u, hu⟩ : ∃ u, s.sees h (s.madeVisible ag p sc) = u := ⟨_, rfl⟩
  have hnarrow : u.acquireNarrow ag p (scopeCode sc) = s.acquireNarrow ag p (scopeCode sc) := by rw [← hu]; rfl
  have hstrict : u.strictScope = false := by rw [← hu]; exact hlax
  have hacquire : s.pegAcquire ag p (scopeCode sc) = (u.noteAcquire p (s.acquireNarrow ag p (scopeCode sc)), false) := by
    unfold State.pegAcquire
    rw [takeCarried_sees s p sc hh, hu]
    dsimp only
    rw [hnarrow, hstrict]
    cases s.acquireNarrow ag p (scopeCode sc)
    · rfl
    · rfl
  unfold State.pegAcqRead
  rw [hlive, hacquire, hh, hu]
  exact deliver_toHart _ _ hh

/-- A compare-and-swap by a hart: the write where its expectation holds, and the value read for the hart (R222). -/
theorem pegCasAmo_hart {s : State} {ag : Agent} {p h : Nat} {v : W64} (hlive : s.regionLive (pegHome p) = true)
    (hh : ag.hart = some h) : s.pegCasAmo ag p v =
      (if (s.peg p).value = s.casExp.get 0 (h, p) then s.putPeg p { s.peg p with value := v, lastRel := false } else s).setHart h
        { s.hart h with result := (s.peg p).value } := by
  obtain ⟨hframe, -, -, -⟩ := putPeg_puts s p { s.peg p with value := v, lastRel := false }
  unfold State.pegCasAmo State.pegCas State.pegCasResult
  rw [hlive, hh]
  simp only [Bool.not_true, Bool.false_eq_true, if_false, if_true]
  rw [deliver_toHart _ _ hh]
  split
  · rw [show (s.putPeg p { s.peg p with value := v, lastRel := false }).hart h = s.hart h by rw [hframe]; rfl]
  · rfl

theorem pegAccessFault_traps {s : State} {ag : Agent} {addr size h : Nat} {write amo : Bool} (haddr : isPegAddr addr = true)
    (hbad : amo = true ∨ size ≠ 8 ∨ addr % 8 ≠ 0) (hh : ag.hart = some h) (hr : s.hartReady h = true) :
    s.pegAccessFault ag addr size write amo = s.trap h (if write = true ∨ amo = true then 7 else 5) addr := by
  unfold State.pegAccessFault
  rw [hh]
  dsimp only
  rw [if_pos ⟨haddr, hbad, hr⟩, State.fault]
  simp only [Bool.or_eq_true]

/-- The two causes of an access fault, as trap causes and as mcause shows them. -/
theorem accessFault_cause (write : Prop) [Decidable write] : let c := if write then 7 else 5
    decide (2 ^ 63 ≤ c) = false ∧ c % 2 ^ 63 = c ∧ w64 c ||| flag false 63 = if write then 7 else 5 := by
  by_cases h : write
  · simp only [h, if_true]
    decide
  · simp only [h, if_false]
    decide

/-- An exception in machine mode is entered there: no delegation applies. -/
theorem enter_exception_machine (x : Hart) (c : Nat) (tval : W64) (hm : x.priv = .machine) : let y := x.enter false c tval
    y.mcause = w64 c ||| flag false 63 ∧ y.mtval = tval ∧ y.mepc = x.pc ∧ y.pc = x.mtvec &&& ~~~3 := by
  unfold Hart.enter
  dsimp only
  rw [hm]
  exact ⟨rfl, rfl, rfl, BitVec.add_zero _⟩

/-- Settles O28: the acquire and the compare-and-swap write the peg and then the hart's register; the refused access is a trap. -/
theorem pegReads : Obligations.PegReads := by
  unfold Obligations.PegReads
  refine ⟨?acquire, ?cas, ?fault⟩
  case acquire =>
    intro s ag p h sc hp hw hlive hh hlax narrow seen
    obtain ⟨u, hu⟩ : ∃ u, (s.sees h (s.madeVisible ag p sc)).noteAcquire p (s.acquireNarrow ag p (scopeCode sc)) = u := ⟨_, rfl⟩
    have hframe : u = { s with pegs := u.pegs, regs := u.regs, carried := (s.sees h (s.madeVisible ag p sc)).carried } := by
      rw [← hu, noteAcquire_frame]
      rfl
    have hharts : ∀ j, u.hart j = s.hart j := fun j => by
      rw [hframe]
      rfl
    have hnoted := noteAcquire_does (s.sees h (s.madeVisible ag p sc)) p (s.acquireNarrow ag p (scopeCode sc))
    have hread := pegAcqRead_lax (sc := sc) hlive hh hlax
    dsimp only at hnoted hread
    rw [hu] at hnoted hread
    refine ⟨_, (exec_pegAcqRead ag p sc s hw hp).trans (congrArg _ hread), ?_, ?_, ?_, hnoted⟩
    · rw [hframe]
      rfl
    · rw [State.hart_setHart_self, hharts]
    · exact fun j hj => (State.hart_setHart_ne _ _ hj).trans (hharts j)
  case cas =>
    intro s ag p h v hp hw hlive hh hit
    obtain ⟨hframe, hself, hother, -⟩ := putPeg_puts s p { s.peg p with value := v, lastRel := false }
    refine ⟨_, (exec_pegCas ag p v s hw hp).trans (congrArg _ (pegCasAmo_hart hlive hh)), ?_, State.hart_setHart_self .., ?_⟩
    · split
      · rw [hframe]
        rfl
      · rfl
    · by_cases hv : (s.peg p).value = s.casExp.get 0 (h, p)
      · rw [if_pos hv]
        refine ⟨fun j hj => (State.hart_setHart_ne _ _ hj).trans ?_, fun _ => hself, fun hno => absurd hv hno, hother⟩
        rw [hframe]
        rfl
      · rw [if_neg hv]
        exact ⟨fun j hj => State.hart_setHart_ne s _ hj, fun hyes => absurd hyes hv, fun _ => ⟨rfl, rfl⟩, fun _ _ => rfl⟩
  case fault =>
    intro s ag addr size h write amo hp hw haddr hbad hh hr hwc hun hstr hco hdouble
    obtain ⟨hsync, hcode, hcause⟩ := accessFault_cause (write = true ∨ amo = true)
    obtain ⟨t, ht, hframe, hself, hother⟩ :=
      trap_does s h (if write = true ∨ amo = true then 7 else 5) addr hstr hco hwc hun hdouble
    rw [hsync, hcode] at hself
    refine ⟨t, ?_, hframe, hself, fun hm => ?_, hother⟩
    · rw [exec_pegAccessFault ag addr size write amo s hw hp, pegAccessFault_traps haddr hbad hh hr, ht]
    · rw [hself, ← hcause]
      exact enter_exception_machine (s.hart h) _ (w64 addr) hm

end Sys2Proof.Machine

/-!
PROOFS. Arms of watches: the checks, and the entry that an accepted arm takes (R230 to R234): O29, O30.
-/
namespace Sys2Proof.Machine

/-! ### The arm window of a hart and the checks of its arms -/

theorem windowOf_hart {ag : Agent} {h : Nat} (hh : ag.hart = some h) : State.windowOf ag = some h := by
  unfold State.windowOf
  rw [hh]

theorem watchArm_hart (s : State) {ag : Agent} {h : Nat} (v : W64) (hh : ag.hart = some h) : s.watchArm ag v = s.armPush h ag.code v := by
  unfold State.watchArm
  rw [windowOf_hart hh]

/-- The fields of an arm by a hart that R232 refuses with RANGE, the want of an entry apart. -/
def armOutOfRange (w0 t : W64) : Prop :=
  bits w0 63 56 ≠ 0 ∨ bits w0 19 18 = 3 ∨ (bits w0 19 18 ≠ 2 ∧ bits w0 55 36 ≠ 0) ∨ (bits w0 19 18 = 0 ∧ 511 < t.toNat) ∨
    (bits w0 19 18 = 1 ∧ (2 ^ 20 ≤ t.toNat ∨ 143 < t.toNat % 256 ∨ bits t 19 9 = 0))

/-- An arm whose peg's home, or whose target core's die, is lost (R232). -/
def State.armTargetLost (s : State) (w0 t : W64) : Prop :=
  s.regionLive (bits w0 15 0 / 16384) = false ∨ (bits w0 19 18 = 1 ∧ s.dieLive (t.toNat % 256 / 36) 2 = false)

section ArmCheck
variable {s : State} {w0 t : W64}

theorem armCheck_range (h : armOutOfRange w0 t) : s.armCheck none w0 t = stRANGE := by
  unfold State.armCheck
  dsimp only
  refine if_pos ?_
  simpa [armOutOfRange, or_assoc] using h

theorem armCheck_inRange (h : ¬ armOutOfRange w0 t) : s.armCheck none w0 t =
    if bits w0 19 18 = 2 ∧ t.toNat % 8 ≠ 0 then stALIGN
    else if (!s.regionLive (pegHome (bits w0 15 0)) || (bits w0 19 18 == 1 && !s.dieLive (t.toNat % 256 / 36) 2)) = true then stPEER_LOST
    else if bits w0 19 18 = 0 ∧ (s.block t.toNat).state = .muted then stMUTED else stOK := by
  unfold State.armCheck
  dsimp only
  rw [if_neg (fun c => h (by simpa [armOutOfRange, or_assoc] using c)), Option.isNone_none, Bool.and_true]

theorem armLost_iff : (!s.regionLive (pegHome (bits w0 15 0)) || (bits w0 19 18 == 1 && !s.dieLive (t.toNat % 256 / 36) 2)) = true ↔
    s.armTargetLost w0 t := by
  simp [State.armTargetLost, pegHome]

theorem armCheck_align (h : ¬ armOutOfRange w0 t) (ha : bits w0 19 18 = 2 ∧ t.toNat % 8 ≠ 0) : s.armCheck none w0 t = stALIGN :=
  (armCheck_inRange h).trans (if_pos ha)

theorem armCheck_lost (h : ¬ armOutOfRange w0 t) (ha : ¬ (bits w0 19 18 = 2 ∧ t.toNat % 8 ≠ 0)) (hl : s.armTargetLost w0 t) :
    s.armCheck none w0 t = stPEER_LOST := by
  rw [armCheck_inRange h, if_neg ha, if_pos (armLost_iff.2 hl)]

theorem armCheck_muted (h : ¬ armOutOfRange w0 t) (ha : ¬ (bits w0 19 18 = 2 ∧ t.toNat % 8 ≠ 0)) (hl : ¬ s.armTargetLost w0 t)
    (hm : bits w0 19 18 = 0 ∧ (s.block t.toNat).state = .muted) : s.armCheck none w0 t = stMUTED := by
  rw [armCheck_inRange h, if_neg ha, if_neg (fun c => hl (armLost_iff.1 c)), if_pos hm]

end ArmCheck

/-! ### The outcomes of a push -/

section Push
variable {s : State} {i : Nat} {armer : Nat} {v : W64}

/-- The words of window `i` since its last push, as the watch that a push of `v` arms. -/
def State.pushed (s : State) (i armer : Nat) (v : W64) : Watch := State.watchOf armer (s.arm i).w0 (s.arm i).w1 (s.arm i).w2 v

/-- Window `i` after a push with result `x`. -/
def State.pushResult (s : State) (i : Nat) (x : W64) : State := s.setArm i { s.arm i with w0 := 0, w1 := 0, w2 := 0, result := x }

/-- The entry of an arm of the words of window `i` (R233, R234). -/
def State.entryFor (s : State) (i : Nat) : Option WKey :=
  s.pickEntry (pegHome (bits (s.arm i).w0 15 0)) (bits (s.arm i).w0 19 18) (s.arm i).w2.toNat

/-- The state with watch `w` armed in entry `k`: an arm of a spill entry is counted (R234). -/
def State.armed (s : State) (k : WKey) (w : Watch) : State :=
  let u := if k.table = .spill then s.bump (WATCH_SPILL_ARMS k.home) 1 else s
  { u with watches := u.watches.set k w }

theorem pushed_entry : s.pickEntry (pegHome (s.pushed i armer v).peg) (s.pushed i armer v).kind (s.pushed i armer v).target.toNat =
    s.entryFor i := rfl

theorem armPush_full (hnone : s.entryFor i = none) : s.armPush i armer v = s.pushResult i (w64 stRANGE) := by
  unfold State.armPush
  dsimp only
  rw [← State.pushed, pushed_entry, hnone]
  rfl

variable (hhart : i < 1000)
include hhart

theorem armWindow_noFunction : (if 1000 ≤ i then some ((i - 1000) % 16) else none) = none := if_neg (Nat.not_le.2 hhart)

theorem armPush_refused {code : Nat} (hentry : s.entryFor i ≠ none) (hcheck : s.armCheck none (s.arm i).w0 (s.arm i).w2 = code)
    (hcode : code ≠ stOK) : s.armPush i armer v = s.pushResult i (w64 code) := by
  obtain ⟨k, hk⟩ := Option.ne_none_iff_exists'.1 hentry
  unfold State.armPush
  dsimp only
  rw [← State.pushed, pushed_entry, hk, armWindow_noFunction hhart, hcheck]
  exact if_pos hcode

theorem armPush_accepted {k : WKey} (hentry : s.entryFor i = some k) (hcheck : s.armCheck none (s.arm i).w0 (s.arm i).w2 = stOK) :
    let w := s.pushed i armer v
    let now := condHolds w.cond (s.peg w.peg).value w.operand
    let u := (s.pushResult i (flag now 8 ||| fld (handleOf k (s.gen k)) 32)).armed k w
    s.armPush i armer v = if now = true then u.releaseWatch k w 0 else u := by
  unfold State.armPush
  dsimp only
  rw [← State.pushed, pushed_entry, hentry, armWindow_noFunction hhart, hcheck]
  rfl

end Push

theorem pushResult_arm (s : State) (i : Nat) (x : W64) :
    (s.pushResult i x).arm i = { s.arm i with w0 := 0, w1 := 0, w2 := 0, result := x } := Map.get_set_self ..

theorem armed_frame (s : State) (k : WKey) (w : Watch) : s.armed k w = { s with watches := s.watches.set k w, regs := (s.armed k w).regs } := by
  unfold State.armed
  split
  · rfl
  · rfl

theorem gen_freeWatch (s : State) (k : WKey) : (s.freeWatch k).gen k = (s.gen k + 1) % 4096 := Map.get_set_self ..

theorem freeWatch_find (s : State) (k : WKey) : (s.freeWatch k).watches.find k = none := Map.find_erase_self ..

/-- Settles O29: every refusal leaves the words gone and its code in RESULT; the first check that fails gives the code. -/
theorem watchArmChecks : Obligations.WatchArmChecks := by
  unfold Obligations.WatchArmChecks
  intro s ag v h hp hw hh w0 t kind range align lost muted rejected
  have hhart : h < 1000 := Nat.lt_trans (hart_lt ag h hw hh) (by decide)
  have hpush : exec (.watchArm ag v) s = .next (s.armPush h ag.code v) :=
    (exec_watchArm ag v s hw hp).trans (congrArg _ (watchArm_hart s v hh))
  have hrange : range ↔ armOutOfRange w0 t ∨ s.entryFor h = none := by
    simp only [range, armOutOfRange, or_assoc]
    rfl
  have hrefused {code : Nat} (hentry : s.entryFor h ≠ none) (hcheck : s.armCheck none w0 t = code) (hcode : code ≠ stOK) : rejected code :=
    hpush.trans (congrArg _ (armPush_refused hhart hentry hcheck hcode))
  refine ⟨fun hr => ?_, fun hr ha => ?_, fun hr ha hl => ?_, fun hr ha hl hm => ?_⟩
  · by_cases hentry : s.entryFor h = none
    · exact hpush.trans (congrArg _ (armPush_full hentry))
    · exact hrefused hentry (armCheck_range ((hrange.1 hr).resolve_right hentry)) (by decide)
  all_goals obtain ⟨hfields, hentry⟩ := not_or.1 (mt hrange.2 hr)
  · exact hrefused hentry (armCheck_align hfields ha) (by decide)
  · exact hrefused hentry (armCheck_lost hfields ha hl) (by decide)
  · exact hrefused hentry (armCheck_muted hfields ha hl hm) (by decide)

/-- Settles O30: the watch stands in its entry, and a condition that holds releases it from there at once. -/
theorem watchArmAccepted : Obligations.WatchArmAccepted := by
  unfold Obligations.WatchArmAccepted
  intro s ag v h k hp hw hh hcheck w hentry now
  have hhart : h < 1000 := Nat.lt_trans (hart_lt ag h hw hh) (by decide)
  obtain ⟨u, hu⟩ : ∃ u, (s.pushResult h (flag now 8 ||| fld (handleOf k (s.gen k)) 32)).armed k w = u := ⟨_, rfl⟩
  have hframe : u = { s with arms := u.arms, watches := u.watches, regs := u.regs } := by
    rw [← hu, armed_frame]
    rfl
  have hwindow : u.arm h = { s.arm h with w0 := 0, w1 := 0, w2 := 0, result := flag now 8 ||| fld (handleOf k (s.gen k)) 32 } := by
    rw [← hu, armed_frame]
    exact pushResult_arm s h _
  have hfind : u.watches.find k = some w := by
    rw [← hu, armed_frame]
    exact Map.find_set_self ..
  have hgen : u.gen k = s.gen k := by
    rw [hframe]
    rfl
  have hpush : exec (.watchArm ag v) s = .next (if now = true then u.releaseWatch k w 0 else u) := by
    rw [exec_watchArm ag v s hw hp, watchArm_hart s v hh, armPush_accepted hhart hentry hcheck]
    exact congrArg (fun z : State => Host.Outcome.next (if now = true then z.releaseWatch k w 0 else z)) hu
  by_cases hnow : now = true
  · rw [if_pos hnow] at hpush
    refine ⟨_, hpush, ?_, hwindow, fun hno => absurd (hnow.symm.trans hno) Bool.noConfusion, fun _ => ⟨freeWatch_find u k, ?_, ?_⟩⟩
    · rw [State.releaseWatch_frame, hframe]
    · exact (gen_freeWatch u k).trans (by rw [hgen])
    · show u.fired ++ [(k.home, { handle := handleOf k (u.gen k), reason := 0, watch := w })] = _
      rw [hgen, hframe]
  · rw [if_neg hnow] at hpush
    refine ⟨u, hpush, ?_, hwindow, fun _ => ⟨hfind, hgen, ?_⟩, fun hyes => absurd hyes hnow⟩
    · rw [hframe]
    · rw [hframe]

end Sys2Proof.Machine

/-!
PROOFS. The delivery, expiry and cancelling of watches, and the event queues (R235 to R239): O31.
-/
namespace Sys2Proof.Machine

/-! ### Events that enter a queue -/

theorem wake_hart (s : State) (q : Nat) : (s.wake q).hart q = { s.hart q with wfi := false } := by
  unfold State.wake
  split
  · exact State.hart_setHart_self ..
  · next h =>
    have hawake : (s.hart q).wfi = false := Bool.eq_false_iff.2 h
    rw [← hawake]

theorem wake_hart_ne (s : State) {q j : Nat} (hj : j ≠ q) : (s.wake q).hart j = s.hart j := by
  unfold State.wake
  split
  · exact State.hart_setHart_ne s _ hj
  · rfl

/-- Event `e` has entered queue `q` of `s` (R236, R407): in `t` a hart is out of WFI, with the external interrupt that the event's
code names pending, or a function has its message. -/
def Entered (s t : State) (q : Nat) (e : QEvent) : Prop :=
  let irq : Bool × Nat := (e.code.testBit 8, e.code / 512)
  t.eventQ.get [] q = s.eventQ.get [] q ++ [e.word] ∧ (∀ j, j ≠ q → t.eventQ.get [] j = s.eventQ.get [] j) ∧
  (1000 ≤ q → t.harts = s.harts ∧ t.outbox = s.outbox ++ [.msix ((q - 1000) / 16) ((q - 1000) % 16) (e.code % 2048)]) ∧
  (q < 1000 → t.outbox = s.outbox ∧ (∀ j, j ≠ q → t.hart j = s.hart j) ∧
    t.hart q = { s.hart q with
      wfi := false,
      eiids := if q < 144 ∧ irq.2 ≠ 0 ∧ irq ∉ (s.hart q).eiids then (s.hart q).eiids ++ [irq] else (s.hart q).eiids })

/-- Hart `q` with the external interrupt of event `e` pending (R236). -/
def State.pendIrq (s : State) (q : Nat) (e : QEvent) : State :=
  if q < 144 ∧ e.code / 512 ≠ 0 ∧ (e.code.testBit 8, e.code / 512) ∉ (s.hart q).eiids then
    s.updHart q fun h => { h with eiids := h.eiids ++ [(e.code.testBit 8, e.code / 512)] }
  else s

theorem pendIrq_frame (s : State) (q : Nat) (e : QEvent) : s.pendIrq q e = { s with harts := (s.pendIrq q e).harts } := by
  unfold State.pendIrq
  split
  · rfl
  · rfl

theorem pendIrq_hart (s : State) (q : Nat) (e : QEvent) : (s.pendIrq q e).hart q =
    { s.hart q with eiids := if q < 144 ∧ e.code / 512 ≠ 0 ∧ (e.code.testBit 8, e.code / 512) ∉ (s.hart q).eiids then
        (s.hart q).eiids ++ [(e.code.testBit 8, e.code / 512)] else (s.hart q).eiids } := by
  unfold State.pendIrq
  split
  · exact State.hart_setHart_self ..
  · rfl

theorem pendIrq_hart_ne (s : State) {q j : Nat} (e : QEvent) (hj : j ≠ q) : (s.pendIrq q e).hart j = s.hart j := by
  unfold State.pendIrq
  split
  · exact State.hart_setHart_ne s _ hj
  · rfl

/-- The state with event word `w` in queue `q`. -/
def State.queueEvent (s : State) (q : Nat) (w : W64) : State := { s with eventQ := s.eventQ.set q (s.eventQ.get [] q ++ [w]) }

theorem admitEvent_hart {s : State} {q : Nat} (e : QEvent) (hq : q < 1000) :
    s.admitEvent q e = ((s.queueEvent q e.word).pendIrq q e).wake q := by
  unfold State.admitEvent State.pendIrq
  dsimp only
  rw [if_neg (Nat.not_le.2 hq)]
  simp only [Bool.not_eq_true', List.contains_eq_mem, decide_eq_false_iff_not]
  rfl

theorem admitEvent_function {s : State} {q : Nat} (e : QEvent) (hq : 1000 ≤ q) : s.admitEvent q e =
    { s.queueEvent q e.word with outbox := s.outbox ++ [.msix ((q - 1000) / 16) ((q - 1000) % 16) (e.code % 2048)] } := if_pos hq

theorem admitEvent_frame (s : State) (q : Nat) (e : QEvent) : let t := s.admitEvent q e
    t = { s with eventQ := t.eventQ, harts := t.harts, outbox := t.outbox } := by
  rcases Nat.lt_or_ge q 1000 with hq | hq
  · dsimp only
    rw [admitEvent_hart e hq, wake_frame, pendIrq_frame]
    rfl
  · dsimp only
    rw [admitEvent_function e hq]
    rfl

theorem admitEvent_enters (s : State) (q : Nat) (e : QEvent) : Entered s (s.admitEvent q e) q e := by
  have hqueue : (s.queueEvent q e.word).eventQ.get [] q = s.eventQ.get [] q ++ [e.word] := Map.get_set_self ..
  have hqueues : ∀ j, j ≠ q → (s.queueEvent q e.word).eventQ.get [] j = s.eventQ.get [] j := fun j hj => Map.get_set_ne _ _ _ hj
  rcases Nat.lt_or_ge q 1000 with hq | hq
  · rw [admitEvent_hart e hq]
    have hframe : ((s.queueEvent q e.word).pendIrq q e).wake q =
        { s.queueEvent q e.word with harts := (((s.queueEvent q e.word).pendIrq q e).wake q).harts } := by
      rw [wake_frame, pendIrq_frame]
    refine ⟨?_, ?_, fun h => absurd h (Nat.not_le.2 hq), fun _ => ⟨?_, fun j hj => ?_, ?_⟩⟩
    · rw [hframe]
      exact hqueue
    · rw [hframe]
      exact hqueues
    · rw [hframe]
      rfl
    · rw [wake_hart_ne _ hj, pendIrq_hart_ne _ e hj]
      rfl
    · rw [wake_hart, pendIrq_hart]
      rfl
  · rw [admitEvent_function e hq]
    exact ⟨hqueue, hqueues, fun _ => ⟨rfl, rfl⟩, fun h => absurd h (Nat.not_lt.2 hq)⟩

/-! ### Deliveries -/

/-- The oldest fired watch of all is the next of its home (R237). -/
theorem nextFired_head (x : Nat × Fired) (rest : List (Nat × Fired)) : State.nextFired x.1 (x :: rest) [] = some x := by
  unfold State.nextFired
  split
  · exact if_pos ⟨rfl, rfl⟩
  · exact if_pos rfl

theorem watchDeliver_event {s : State} {r : Nat} {x : Fired} {rest : List (Nat × Fired)} (hfired : s.fired = (r, x) :: rest)
    (hkind : x.watch.kind ≠ 2) : s.watchDeliver r = ({ s with fired := rest } : State).enterEvent r (State.eventTarget x.watch)
      { word := eventWord x.handle x.reason, code := if x.watch.kind = 1 then x.watch.target.toNat else 0 } := by
  unfold State.watchDeliver
  rw [hfired, nextFired_head (r, x) rest]
  dsimp only
  rw [if_neg hkind, List.erase_cons_head]

theorem eventTarget_eq (w : Watch) : State.eventTarget w = if w.kind = 0 then 144 + w.target.toNat
    else if w.armer / 512 % 4 = 3 then 1000 + 16 * (w.armer / 2048 % 4) + w.armer % 512 else w.target.toNat % 256 := by
  simp only [State.eventTarget, State.hostArmed, State.fnQueue, beq_iff_eq]

/-- The events that wait for queue `q`, or its 64 entries, keep an event out (R237). -/
def State.queueFull (s : State) (q : Nat) : Bool := s.heldEvents.any (fun y => y.2.1 == q) || decide (64 ≤ (s.eventQ.get [] q).length)

theorem enterEvent_held {s : State} {home q : Nat} (e : QEvent) (h : s.queueFull q = true) : s.enterEvent home q e =
    ({ s with heldEvents := s.heldEvents ++ [(home, q, e)] } : State).bump (WATCH_EVENT_HELD home) 1 := if_pos h

theorem enterEvent_enters {s : State} (home : Nat) {q : Nat} (e : QEvent) (h : s.queueFull q = false) :
    s.enterEvent home q e = s.admitEvent q e := if_neg (Bool.eq_false_iff.1 h)

/-- The oldest event that any home holds is admitted once its queue has space (R237). -/
theorem eventAdmit_head {s : State} {r q : Nat} {e : QEvent} {rest : List (Nat × Nat × QEvent)}
    (hheld : s.heldEvents = (r, q, e) :: rest) (hroom : (s.eventQ.get [] q).length < 64) :
    s.eventAdmit r = ({ s with heldEvents := rest } : State).admitEvent q e := by
  unfold State.eventAdmit
  dsimp only
  rw [hheld, List.find?_cons_of_pos]
  · dsimp only
    rw [List.erase_cons_head]
  · rw [List.find?_cons_of_pos]
    · simp [hroom]
    · exact beq_self_eq_true q

/-! ### Expiry, cancelling and reads of EVENT -/

theorem watchExpire_due {s : State} {r key : Nat} {w : Watch} (hfind : s.watches.find (keyOfHandle key).1 = some w)
    (hhome : (keyOfHandle key).1.home = r) (hdue : w.due = true) : s.watchExpire r key = s.releaseWatch (keyOfHandle key).1 w 1 := by
  unfold State.watchExpire
  dsimp only
  rw [hfind]
  exact if_pos ⟨hhome, hdue⟩

theorem watchCancelBy_hart (s : State) {ag : Agent} {h : Nat} (v : W64) (hh : ag.hart = some h) :
    s.watchCancelBy ag v = s.watchCancel h v := by
  unfold State.watchCancelBy
  rw [windowOf_hart hh]

/-- A handle names a watch that can still be cancelled (R238): it stands in its entry, in the handle's generation, and is not due. -/
def State.liveHandle (s : State) (n : Nat) : Prop :=
  ∃ w, s.watches.find (keyOfHandle n).1 = some w ∧ w.due = false ∧ (keyOfHandle n).2 = s.gen (keyOfHandle n).1

theorem watchCancel_live {s : State} {v : W64} (h : Nat) (hlive : s.liveHandle (bits v 63 32)) : s.watchCancel h v =
    (s.freeWatch (keyOfHandle (bits v 63 32)).1).setArm h { s.arm h with cancel := w64 stOK } := by
  obtain ⟨w, hfind, hdue, hgen⟩ := hlive
  unfold State.watchCancel
  dsimp only
  rw [hfind]
  exact if_pos ⟨hgen, by rw [hdue]; rfl⟩

theorem watchCancel_dead {s : State} {v : W64} (h : Nat) (hdead : ¬ s.liveHandle (bits v 63 32)) :
    s.watchCancel h v = s.setArm h { s.arm h with cancel := w64 stSTATE } := by
  unfold State.watchCancel
  dsimp only
  split
  · next w hfind =>
    refine if_neg fun ⟨hgen, hdue⟩ => hdead ⟨w, hfind, ?_, hgen⟩
    simpa using hdue
  · rfl

/-- A load of EVENT by hart `h` (Table 6.5, R236). -/
theorem eventRead_does (s : State) (h : Nat) : let t := (s.eventRead h).1
    (s.eventRead h).2 = (s.eventQ.get [] h).headD 0 ∧ t = { s with eventQ := t.eventQ, harts := t.harts } ∧
    t.eventQ.get [] h = (s.eventQ.get [] h).tail ∧ (∀ j, j ≠ h → t.eventQ.get [] j = s.eventQ.get [] j) ∧
    t.hart h = { s.hart h with eiids := if (s.eventQ.get [] h).length = 1 ∧ h < 144 then [] else (s.hart h).eiids } ∧
    ∀ j, j ≠ h → t.hart j = s.hart j := by
  unfold State.eventRead
  cases hq : s.eventQ.get [] h with
  | nil => exact ⟨rfl, rfl, hq, fun _ _ => rfl, rfl, fun _ _ => rfl⟩
  | cons e rest =>
    have hlast : (e :: rest).length = 1 ∧ h < 144 ↔ rest = [] ∧ h < 144 := by simp
    have hqueues : ∀ j, j ≠ h → (s.eventQ.set h rest).get [] j = s.eventQ.get [] j := fun j hj => Map.get_set_ne _ _ _ hj
    dsimp only
    simp only [hlast]
    by_cases hempty : rest = [] ∧ h < 144
    · simp only [if_pos hempty]
      exact ⟨rfl, rfl, Map.get_set_self .., hqueues, State.hart_setHart_self .., fun j hj => State.hart_setHart_ne _ _ hj⟩
    · simp only [if_neg hempty]
      exact ⟨rfl, trivial, Map.get_set_self .., hqueues, rfl, fun _ _ => rfl⟩

theorem watchEventRead_hart (s : State) {ag : Agent} {h : Nat} (hh : ag.hart = some h) : s.watchEventRead ag =
    (s.eventRead h).1.setHart h { (s.eventRead h).1.hart h with result := (s.eventRead h).2 } := by
  unfold State.watchEventRead
  rw [windowOf_hart hh]
  exact deliver_toHart _ _ hh

/-- Settles O31: each command is the move of one watch or one event. -/
theorem watchEvents : Obligations.WatchEvents := by
  unfold Obligations.WatchEvents
  intro entered
  refine ⟨?deliver, ?expire, ?cancel, ?read, ?enter⟩
  case deliver =>
    intro s r x rest hp hw hfired hkind q e full
    obtain ⟨u, hu⟩ : ∃ u : State, ({ s with fired := rest } : State) = u := ⟨_, rfl⟩
    have hdeliver : exec (.watchDeliver r) s = .next (u.enterEvent r q e) := by
      rw [exec_watchDeliver r s hw hp, watchDeliver_event hfired hkind, eventTarget_eq, hu]
      rfl
    have hfull : u.queueFull q = full := by rw [← hu]; rfl
    cases hroom : full
    · rw [enterEvent_enters r e (hfull.trans hroom)] at hdeliver
      have hframe := admitEvent_frame u q e
      have hentered := admitEvent_enters u q e
      refine ⟨_, hdeliver, ?_, fun _ => ⟨?_, ?_, ?_⟩, fun h => absurd h Bool.noConfusion⟩
      · dsimp only at hframe
        rw [hframe, ← hu]
      · rw [← hu] at hentered ⊢
        exact hentered
      · dsimp only at hframe
        rw [hframe, ← hu]
      · dsimp only at hframe
        rw [hframe, ← hu]
    · rw [enterEvent_held e (hfull.trans hroom)] at hdeliver
      subst hu
      exact ⟨_, hdeliver, rfl, fun h => absurd h Bool.noConfusion, fun _ => ⟨rfl, rfl, rfl, rfl, State.reg_bump_self ..⟩⟩
  case expire =>
    intro s r key w hp hw k hfind hhome hdue
    refine ⟨_, (exec_watchExpire r key s hw hp).trans (congrArg _ (watchExpire_due hfind hhome hdue)), ?_, gen_freeWatch s k, ?_, ?_⟩
    · rw [State.releaseWatch_frame]
      rfl
    · rw [← hhome]
      rfl
    · rw [← hhome]
      exact State.reg_bump_self ..
  case cancel =>
    intro s ag v h hp hw hh k live
    have hcancel := (exec_watchCancel ag v s hw hp).trans (congrArg _ (watchCancelBy_hart s v hh))
    by_cases hlive : live
    · rw [watchCancel_live h hlive] at hcancel
      refine ⟨_, hcancel, rfl, fun _ => ⟨rfl, gen_freeWatch s k, ?_⟩, fun h => absurd hlive h⟩
      exact congrArg ArmWindow.cancel (Map.get_set_self ..)
    · rw [watchCancel_dead h hlive] at hcancel
      refine ⟨_, hcancel, rfl, fun h => absurd h hlive, fun _ => ⟨rfl, rfl, ?_⟩⟩
      exact congrArg ArmWindow.cancel (Map.get_set_self ..)
  case read =>
    intro s ag h hp hw hh
    obtain ⟨hword, hframe, hqueue, hqueues, hself, hother⟩ := eventRead_does s h
    refine ⟨_, (exec_watchEventRead ag s hw hp).trans (congrArg _ (watchEventRead_hart s hh)), ?_,
      fun j hj => (State.hart_setHart_ne _ _ hj).trans (hother j hj), ?_, hqueue, hqueues⟩
    · rw [hframe]
      rfl
    · rw [State.hart_setHart_self, hself, hword]
  case enter =>
    intro s r q e rest hp hw hheld hroom
    obtain ⟨u, hu⟩ : ∃ u : State, ({ s with heldEvents := rest } : State) = u := ⟨_, rfl⟩
    have hframe := admitEvent_frame u q e
    have hentered := admitEvent_enters u q e
    refine ⟨u.admitEvent q e, ?_, ?_, ?_⟩
    · rw [exec_eventQueueAdmit r s hw hp, eventAdmit_head hheld hroom, hu]
    · dsimp only at hframe
      rw [hframe, ← hu]
    · rw [← hu] at hentered ⊢
      exact hentered

end Sys2Proof.Machine

/-!
PROOFS. Requests of other modules, and the answers to the module's own (R221, R222, R257, R264 to R268, R344, R345): O40.
-/
namespace Sys2Proof.Machine

/-! ### Places of the address map -/

theorem place_reserved_or_raw (s : State) (a : Nat) : s.place a = .reserved ∨ s.place a = placeRaw a := by
  unfold State.place
  cases placeRaw a with
  | hbm r off => exact ite_eq_or_eq ..
  | lpd r off => exact ite_eq_or_eq ..
  | t4 p off => exact ite_eq_or_eq ..
  | t5 p off => exact (ite_eq_or_eq ..).symm
  | store b off => exact .inr rfl
  | peg p off => exact .inr rfl
  | mmio g => exact .inr rfl
  | reserved => exact .inr rfl

theorem placeRaw_of_place {s : State} {a : Nat} {x : Place} (h : s.place a = x) (hx : x ≠ .reserved) : placeRaw a = x := by
  rcases place_reserved_or_raw s a with hr | hr
  · exact absurd (h.symm.trans hr) hx
  · exact hr.symm.trans h

/-- Address `a` does not lie in the T4 window, whatever of it is decoded. -/
def NotT4 (a : Nat) : Prop := ∀ k o, placeRaw a ≠ .t4 k o

theorem placeRaw_t4_range {a k o : Nat} (h : placeRaw a = .t4 k o) : 0x100000000000 ≤ a ∧ a < 0x200000000000 := by
  by_contra hout
  unfold placeRaw at h
  rw [if_neg (fun c => hout c)] at h
  repeat' split at h
  all_goals cases h

theorem placeRaw_store_range {a b o : Nat} (h : placeRaw a = .store b o) : 0xE00000000000 ≤ a ∧ a < 0xE00040000000 := by
  by_contra hout
  unfold placeRaw at h
  rw [if_neg (fun c => hout c)] at h
  repeat' split at h
  all_goals cases h

theorem notT4_of_place {s : State} {a : Nat} {x : Place} (h : s.place a = x) (hr : x ≠ .reserved) (ht : ∀ k o, x ≠ .t4 k o) : NotT4 a := by
  intro k o c
  exact ht k o ((placeRaw_of_place h hr).symm.trans c)

theorem notT4_of_store {s : State} {a b off : Nat} (h : s.place a = .store b off) : NotT4 a :=
  notT4_of_place h Place.noConfusion fun _ _ => Place.noConfusion

theorem notT4_of_reg {s : State} {a : Nat} {g : Reg} (h : s.place a = .mmio g) : NotT4 a :=
  notT4_of_place h Place.noConfusion fun _ _ => Place.noConfusion

theorem notT4_of_memory {s : State} {a r off : Nat} (h : s.place a = .hbm r off ∨ s.place a = .lpd r off) : NotT4 a := by
  rcases h with h | h
  · exact notT4_of_place h Place.noConfusion fun _ _ => Place.noConfusion
  · exact notT4_of_place h Place.noConfusion fun _ _ => Place.noConfusion

/-- A line of a block store holds no T4 address: both windows begin and end with lines. -/
theorem notT4_of_storeLine {s : State} {a b off : Nat} (h : s.place (a / 128 * 128) = .store b off) : NotT4 a := by
  intro k o c
  have hstore := placeRaw_store_range (placeRaw_of_place h Place.noConfusion)
  have ht4 := placeRaw_t4_range c
  omega

/-! ### Requests in turn, and their answers -/

/-- Request `p` leaves the inbox of `u` and is answered. -/
def State.answerTo (u : State) (p : Packet) (op st : Nat) (data : List Byte) : State :=
  (u.takeIn p).respond p.src p.tag p.meterTag op st data

theorem awaitsT4_elsewhere {p : Packet} {st : Nat} (h : st = stOK → NotT4 p.addr) : State.awaitsT4 p st = false := by
  by_cases hst : st = stOK
  · have hnot := h hst
    unfold State.awaitsT4
    split
    · next hraw => exact absurd hraw (hnot _ _)
    · exact Bool.and_false _
  · simp [State.awaitsT4, hst]

theorem finishServed_reply {s u : State} {p : Packet} {st : Nat} {bs : List Byte} (h : State.awaitsT4 p st = false) :
    s.finishServed p (.reply u st bs) = u.answerTo p (State.responseOp p.opcode) st bs := by
  unfold State.finishServed
  dsimp only
  rw [h]
  rfl

section Served
variable {s u : State} {p : Packet} {st : Nat} {bs : List Byte} (ht : s.inTurn p = true)

theorem notServed {n : Nat} (h : p.opcode ≠ n ∨ s.inTurn p = false) : p.opcode ≠ n ∨ (!s.inTurn p) = true := by
  simpa using h

theorem fabricRead_other (h : p.opcode ≠ 1 ∨ s.inTurn p = false) : s.fabricRead p = s := if_pos (notServed h)
theorem fabricWrite_other (h : p.opcode ≠ 2 ∨ s.inTurn p = false) : s.fabricWrite p = s := if_pos (notServed h)
theorem fabricMasked_other (h : p.opcode ≠ 3 ∨ s.inTurn p = false) : s.fabricMasked p = s := if_pos (notServed h)
theorem fabricAtomic_other (h : p.opcode ≠ 4 ∨ s.inTurn p = false) : s.fabricAtomic p = s := if_pos (notServed h)
theorem fabricPegOp_other (h : p.opcode ≠ 5 ∨ s.inTurn p = false) : s.fabricPegOp p = s := if_pos (notServed h)

include ht

theorem servedNow {n : Nat} (h : p.opcode = n) : ¬ (p.opcode ≠ n ∨ (!s.inTurn p) = true) := by
  simp [h, ht]

theorem fabricRead_answers (ho : p.opcode = 1) (hserve : s.serveRead (packetAgent p) p.addr p.len = .reply u st bs) :
    s.fabricRead p = u.answerTo p 0x81 st bs := by
  have hawaits : State.awaitsT4 p st = false := by simp [State.awaitsT4, ho]
  unfold State.fabricRead
  rw [if_neg (servedNow ht ho), hserve, finishServed_reply hawaits, ho]
  rfl

theorem fabricWrite_answers (ho : p.opcode = 2) (hserve : s.serveWrite (packetAgent p) p.addr p.data none = .reply u st bs)
    (hhere : st = stOK → NotT4 p.addr) : s.fabricWrite p = u.answerTo p 0x82 st bs := by
  unfold State.fabricWrite
  rw [if_neg (servedNow ht ho), hserve, finishServed_reply (awaitsT4_elsewhere hhere), ho]
  rfl

theorem fabricMasked_answers (ho : p.opcode = 3)
    (hserve : s.serveWrite (packetAgent p) (p.addr / 128 * 128) (p.data.take 128) (some p.mask) = .reply u st bs)
    (hhere : st = stOK → NotT4 p.addr) : s.fabricMasked p = u.answerTo p 0x82 st bs := by
  unfold State.fabricMasked
  rw [if_neg (servedNow ht ho), hserve, finishServed_reply (awaitsT4_elsewhere hhere), ho]
  rfl

/-- The operand size of an ATOMIC, its value to compare with, if it is a CAS, and its operand (R257). -/
def atomSize (p : Packet) : Nat := if bits p.aux 23 16 = 4 then 4 else 8
def atomOp (p : Packet) : AtomOp := auxOp p.aux (w64 (if bits p.aux 7 0 == 2 then leNat (p.data.take (atomSize p)) else 0))
def atomValue (p : Packet) : Nat := leNat ((if bits p.aux 7 0 == 2 then p.data.drop (atomSize p) else p.data).take (atomSize p))

theorem fabricAtomic_answers (ho : p.opcode = 4) (hplace : ∀ k o, s.place p.addr ≠ .t5 k o)
    (hserve : s.serveAtomic (packetAgent p) p.addr (atomSize p) (atomOp p) (atomValue p) = .reply u st bs) :
    s.fabricAtomic p = u.answerTo p 0x83 st bs := by
  have hawaits : State.awaitsT4 p st = false := by simp [State.awaitsT4, ho]
  have hfinish : s.finishServed p (.reply u st bs) = u.answerTo p 0x83 st bs := by
    rw [finishServed_reply hawaits, ho]
    rfl
  unfold State.fabricAtomic
  rw [if_neg (servedNow ht ho)]
  dsimp only
  split
  · next hp => exact absurd hp (hplace _ _)
  · exact (congrArg (s.finishServed p) hserve).trans hfinish

theorem fabricPegOp_answers {n off kind : Nat} {x : W64} (ho : p.opcode = 5) (hkind : bits p.aux 7 0 = kind)
    (hplace : s.place p.addr = .peg n off) (hoff : off % 8 = 0) (hlen : kind = 0 ∨ p.data.length = 8)
    (hserve : s.pegOpAt (packetAgent p) n off kind (w64 (leNat p.data)) = (u, st, x)) : s.fabricPegOp p =
      u.answerTo p (if kind = 0 then 0x81 else if kind = 1 then 0x82 else 0x83) st (if kind = 1 then [] else leBytes 8 x.toNat) := by
  unfold State.fabricPegOp
  rw [if_neg (servedNow ht ho), hplace, hkind]
  dsimp only
  rw [if_pos ⟨hoff, hlen⟩, hserve]
  rfl

theorem fabricPegOp_reserved (ho : p.opcode = 5) (hplace : s.place p.addr = .reserved) (hstore : bits p.aux 7 0 = 1) :
    s.fabricPegOp p = s.answerTo p 0x82 stRANGE [] := by
  unfold State.fabricPegOp
  rw [if_neg (servedNow ht ho), hplace, hstore]
  rfl

end Served

/-! ### What each place makes of a request -/

section Serve
variable {s : State} {ag : Agent} {a : Nat}

theorem serveRead_lostStore {b off : Nat} (n : Nat) (hplace : s.place a = .store b off) (hdie : s.dieLive (b / 128) (b % 128 / 64) = false) :
    s.serveRead ag a n = .reply s stPEER_LOST [] := by
  simp only [State.serveRead, hplace, hdie, Bool.not_false, if_true]

theorem serveRead_store {b off : Nat} (n : Nat) (hplace : s.place a = .store b off) (hdie : s.dieLive (b / 128) (b % 128 / 64) = true) :
    s.serveRead ag a n = .reply s (if (s.firstPoison (storeBase b + off) n).isSome then stPOISON else stOK) (s.rdBytes (storeBase b + off) n) := by
  simp only [State.serveRead, hplace, hdie, Bool.not_true, Bool.false_eq_true, if_false]

theorem serveRead_reg {g : Reg} {n : Nat} {u : State} {x : W64} (hplace : s.place a = .mmio g) (hn : n = 8) (hg : g % 8 = 0)
    (hread : s.readReg ag g = (u, x)) : s.serveRead ag a n = .reply u stOK (leBytes 8 x.toNat) := by
  simp only [State.serveRead, hplace, hn, hg, hread, and_self, if_true]

theorem serveRead_memory {r off n : Nat} {u : State} {bs : List Byte} {bad : Option Nat}
    (hplace : s.place a = .hbm r off ∨ s.place a = .lpd r off) (hfree : (State.linesOf a n).any (s.lineWaits · false) = false)
    (hread : s.readBytes ag a n = (u, bs, bad)) : s.serveRead ag a n = .reply u (if bad.isSome then stPOISON else stOK) bs := by
  rcases hplace with hplace | hplace <;>
    simp only [State.serveRead, hplace, hfree, hread, Bool.false_eq_true, if_false]

theorem serveRead_reserved (n : Nat) (hplace : s.place a = .reserved) : s.serveRead ag a n = .reply s stRANGE [] := by
  simp only [State.serveRead, hplace]

theorem serveWrite_store {b off : Nat} (bs : List Byte) (hplace : s.place a = .store b off)
    (hdie : s.dieLive (b / 128) (b % 128 / 64) = true) : s.serveWrite ag a bs none = .reply (s.wrBytes (storeBase b + off) bs) stOK [] := by
  simp only [State.serveWrite, hplace, hdie, Bool.not_true, Bool.false_eq_true, if_false]

theorem serveWrite_maskedStore {b off : Nat} (bs : List Byte) (m : Nat) (hplace : s.place a = .store b off)
    (hdie : s.dieLive (b / 128) (b % 128 / 64) = true) :
    s.serveWrite ag a bs (some m) = .reply (s.wrMasked (storeBase b + off) bs m) stOK [] := by
  simp only [State.serveWrite, hplace, hdie, Bool.not_true, Bool.false_eq_true, if_false]

theorem serveWrite_reg {g : Reg} {bs : List Byte} (hplace : s.place a = .mmio g) (hlen : bs.length = 8) (hg : g % 8 = 0) :
    s.serveWrite ag a bs none = .reply (if g % 0x100000000 = 0x380 then s.noted (s.collNotice (w64 (leNat bs)))
      else s.regWrite ag g (w64 (leNat bs))) stOK [] := by
  simp only [State.serveWrite, hplace, hlen, hg, Option.isNone_none, and_self, if_true]

theorem serveWrite_memory {r off : Nat} {bs : List Byte} {u : State} {e : Option (Nat × Nat)}
    (hplace : s.place a = .hbm r off ∨ s.place a = .lpd r off) (hfree : (State.linesOf a bs.length).any (s.lineWaits · true) = false)
    (hwrite : s.writeBytes ag a bs = (u, e)) : s.serveWrite ag a bs none = .reply u ((e.map (·.1)).getD stOK) [] := by
  rcases hplace with hplace | hplace <;>
    simp only [State.serveWrite, hplace, hfree, hwrite, Bool.false_eq_true, if_false]

theorem serveWrite_reserved (bs : List Byte) (m : Option Nat) (hplace : s.place a = .reserved) :
    s.serveWrite ag a bs m = .reply s stRANGE [] := by
  simp only [State.serveWrite, hplace]

section Atomic
variable {size v : Nat} {op : AtomOp}

theorem serveAtomic_poisonedStore {b off : Nat} (hplace : s.place a = .store b off) (hdie : s.dieLive (b / 128) (b % 128 / 64) = true)
    (halign : a % size = 0) (hpoison : (s.firstPoison (storeBase b + off) size).isSome = true) :
    s.serveAtomic ag a size op v = .reply (s.logPoison ag a) stPOISON [] := by
  simp only [State.serveAtomic, hplace, hdie, halign, hpoison, Bool.not_true, Bool.false_eq_true, if_false, if_true, ne_eq, not_true]

theorem serveAtomic_store {b off : Nat} (hplace : s.place a = .store b off) (hdie : s.dieLive (b / 128) (b % 128 / 64) = true)
    (halign : a % size = 0) (hclean : (s.firstPoison (storeBase b + off) size).isSome = false) :
    let old := s.rdNat (storeBase b + off) size
    s.serveAtomic ag a size op v = .reply (s.wrNat (storeBase b + off) size (atomResult op size old v)) stOK (leBytes size old) := by
  simp only [State.serveAtomic, hplace, hdie, halign, hclean, Bool.not_true, Bool.false_eq_true, if_false, ne_eq, not_true]

theorem serveAtomic_reg {g : Reg} (hplace : s.place a = .mmio g) :
    s.serveAtomic ag a size op v = .reply (s.misaligned ag g) stOK (List.replicate size 0) := by
  simp only [State.serveAtomic, hplace]

theorem serveAtomic_misaligned {r off : Nat} (hplace : s.place a = .hbm r off ∨ s.place a = .lpd r off) (halign : a % size ≠ 0) :
    s.serveAtomic ag a size op v = .reply s stALIGN [] := by
  rcases hplace with hplace | hplace <;>
    simp only [State.serveAtomic, hplace, ne_eq, halign, not_false_eq_true, if_true]

theorem t4Write_elsewhere (s : State) (o : Origin) {a : Nat} (bs : List Byte) (m : Option Nat) (va : Nat) (h : NotT4 a) :
    s.t4Write o a bs m va = s := by
  unfold State.t4Write
  split
  · next hraw => exact absurd hraw (h _ _)
  · rfl

theorem serveAtomic_memory {r off old st : Nat} {u : State} (hplace : s.place a = .hbm r off ∨ s.place a = .lpd r off)
    (halign : a % size = 0) (hfree : s.lineWaits (a / 128) true = false)
    (hatomic : s.engineAtomic ag (a / 128) (a % 128) size op v = (u, old, st)) :
    s.serveAtomic ag a size op v = .reply u st (leBytes size old) := by
  have hhere : NotT4 a := notT4_of_memory hplace
  rcases hplace with hplace | hplace <;>
    simp only [State.serveAtomic, hplace, halign, hfree, hatomic, ne_eq, not_true, Bool.false_eq_true, if_false,
      t4Write_elsewhere u _ _ _ _ hhere, ite_self]

end Atomic

end Serve

section PegOps
variable {s : State} {ag : Agent} {n off : Nat} {v : W64} (hlive : s.regionLive (pegHome n) = true)
include hlive

theorem pegOpAt_load {u : State} {y : W64} (hload : s.pegLoad ag n off = (u, y, false)) : s.pegOpAt ag n off 0 v = (u, stOK, y) := by
  simp only [State.pegOpAt, hlive, hload, Bool.not_true, Bool.false_eq_true, if_false]

theorem pegOpAt_store : s.pegOpAt ag n off 1 v = (s.pegStore ag n off v, stOK, 0) := by
  simp only [State.pegOpAt, hlive, if_true]

theorem pegOpAt_add : s.pegOpAt ag n 0 2 v = (s.pegAdd ag n v, stOK, (s.peg n).value) := by
  simp only [State.pegOpAt, hlive, if_true]

theorem pegOpAt_set : s.pegOpAt ag n 0 3 v = (s.pegSet ag n v, stOK, (s.peg n).value) := by
  simp only [State.pegOpAt, hlive, if_true]

theorem pegOpAt_cas : s.pegOpAt ag n 0x30 3 v = (s.pegCas ag n v, stOK, s.pegCasResult ag n) := by
  simp only [State.pegOpAt, hlive, if_true]

end PegOps

/-! ### Answers to the module's own requests -/

section Answered
variable {s : State} {q : OutReq} {st : Nat} {data : List Byte}

theorem answered_hartWrite {h : Nat} (ho : q.origin = .hart h) (hq : q.posted = true) (htrap : ∀ x y, (s.hart h).wait ≠ .trap x y) :
    s.answered q st data = (s.dropOut q).releaseOrdered := by
  unfold State.answered
  dsimp only
  rw [ho]
  dsimp only
  rw [if_pos hq, trapEnter_notTrapping (s.dropOut q) h htrap]

theorem answered_hartLoad {h : Nat} (ho : q.origin = .hart h) (hq : q.posted = false) (hwait : (s.hart h).wait = .answer q.tag)
    (hruns : s.seqStopped h = false) : s.answered q stOK data =
      ((s.dropOut q).retireWith h (State.extend q.signed q.len (leNat data))).releaseOrdered := by
  have hwaits : ((s.dropOut q).hart h).wait = .answer q.tag := hwait
  have hgoes : (s.dropOut q).seqStopped h = false := hruns
  unfold State.answered
  dsimp only
  rw [ho]
  dsimp only
  rw [hq, if_neg Bool.false_ne_true, if_neg (not_not.2 hwaits), hgoes, if_neg Bool.false_ne_true, if_pos rfl]

theorem answered_gsWrite {b seq : Nat} (ho : q.origin = .gs b seq) (hq : q.posted = true) :
    s.answered q stOK data = (s.dropOut q).releaseOrdered := by
  unfold State.answered
  dsimp only
  rw [ho]
  dsimp only
  rw [hq, if_neg (by decide), if_pos rfl]

/-- The state with the data of an answer kept for the unit that asked. -/
def State.keepAnswer (s : State) (q : OutReq) (st : Nat) (data : List Byte) : State :=
  { s with answers := s.answers ++ [{ origin := q.origin, tag := q.tag, status := st, data := data }] }

theorem answered_gsRead {b seq : Nat} (ho : q.origin = .gs b seq) (hq : q.posted = false) :
    s.answered q st data = ((s.dropOut q).keepAnswer q st data).releaseOrdered := by
  unfold State.answered State.keepAnswer
  dsimp only
  rw [ho]
  dsimp only
  rw [hq, if_pos (by decide)]

theorem answered_dmaRead {r c seq off : Nat} (ho : q.origin = .dma r c seq off) (hq : q.posted = false) :
    s.answered q st data = (((s.dropOut q).keepAnswer q st data).dmaArrived r c off).releaseOrdered := by
  unfold State.answered State.keepAnswer
  dsimp only
  rw [ho]
  dsimp only
  rw [hq, if_pos (by decide)]

theorem answered_passedOn {src t meter : Nat} (ho : q.origin = .fabric src t meter) : s.answered q st data =
    ((s.dropOut q).respond src t meter (State.responseOp q.op) st data).releaseOrdered := by
  unfold State.answered
  dsimp only
  rw [ho]

end Answered

theorem fabricAnswer_none {s : State} {tag st : Nat} {data : List Byte} {posted : Bool}
    (h : (s.out.find? fun q => q.tag == tag && q.posted == posted) = none) : s.fabricAnswer tag st data posted = s := by
  unfold State.fabricAnswer
  rw [h]

/-- The inbox without the response packets of module `m` with a tag. -/
def State.usedUp (s : State) (m tag : Nat) : State :=
  { s with inbox := s.inbox.filter fun p => !(decide (0x80 ≤ p.opcode) && p.src == m && p.tag == tag % 65536) }

theorem fabricAnswer_found {s : State} {q : OutReq} {m tag st : Nat} {data : List Byte} {posted : Bool}
    (h : (s.out.find? fun q => q.tag == tag && q.posted == posted) = some q) (hd : q.dest = .module m) :
    s.fabricAnswer tag st data posted = (s.usedUp m tag).answered q st data := by
  unfold State.fabricAnswer
  rw [h]
  dsimp only
  rw [hd]
  rfl

/-- Settles O40: a request in turn gets the reply of its place; an answer ends the request with its tag as its origin asks. -/
theorem requestsOfOtherModulesAreServed : Obligations.RequestsOfOtherModulesAreServed := by
  unfold Obligations.RequestsOfOtherModulesAreServed
  intro s hp
  refine ⟨?requests, ?answers⟩
  case requests =>
    intro p answer waits ag line size cas op v
    have eRead := exec_fabricRead p s rfl hp
    have eWrite := exec_fabricWrite p s rfl hp
    have eMasked := exec_maskedWrite p s rfl hp
    have eAtomic := exec_atomic p s rfl hp
    have ePeg := exec_pegOp p s rfl hp
    refine ⟨fun hw => ?waiting, fun ht => ⟨fun ho => ?other, fun ho => ?read, fun ho => ?write, fun ho => ?masked, fun ho => ?atomic,
      fun ho => ?peg⟩⟩
    case waiting =>
      exact ⟨eRead.trans (congrArg _ (fabricRead_other (.inr hw))), eWrite.trans (congrArg _ (fabricWrite_other (.inr hw))),
        eMasked.trans (congrArg _ (fabricMasked_other (.inr hw))), eAtomic.trans (congrArg _ (fabricAtomic_other (.inr hw))),
        ePeg.trans (congrArg _ (fabricPegOp_other (.inr hw)))⟩
    case other => exact eRead.trans (congrArg _ (fabricRead_other (.inl ho)))
    case read =>
      have hread {u : State} {st : Nat} {bs : List Byte} (h : s.serveRead ag p.addr p.len = .reply u st bs) :
          answer u 0x81 st bs (.fabricRead p) := eRead.trans (congrArg _ (fabricRead_answers ht ho h))
      refine ⟨fun b off hplace => ⟨fun hdie => ?_, fun hdie => ?_⟩, fun g u x hplace hlen hg hreg => ?_,
        fun r off u bs bad hplace hfree hbytes => ?_, fun hplace => ?_⟩
      · exact hread (serveRead_lostStore _ hplace hdie)
      · exact hread (serveRead_store _ hplace hdie)
      · exact hread (serveRead_reg hplace hlen hg hreg)
      · exact hread (serveRead_memory hplace hfree hbytes)
      · exact hread (serveRead_reserved _ hplace)
    case write =>
      have hwrite {u : State} {st : Nat} (h : s.serveWrite ag p.addr p.data none = .reply u st []) (hhere : st = stOK → NotT4 p.addr) :
          answer u 0x82 st [] (.fabricWrite p) := eWrite.trans (congrArg _ (fabricWrite_answers ht ho h hhere))
      refine ⟨fun b off hplace hdie => ?_, ?_, fun r off u e hplace hfree hbytes => ?_, fun hplace => ?_⟩
      · exact hwrite (serveWrite_store _ hplace hdie) fun _ => notT4_of_store hplace
      · intro g hplace hlen hg x
        exact hwrite (serveWrite_reg hplace hlen hg) fun _ => notT4_of_reg hplace
      · exact hwrite (serveWrite_memory hplace hfree hbytes) fun _ => notT4_of_memory hplace
      · exact hwrite (serveWrite_reserved _ _ hplace) fun h => absurd h (by decide)
    case masked =>
      refine ⟨fun b off hplace hdie => ?_, fun hplace => ?_⟩
      · exact eMasked.trans (congrArg _ (fabricMasked_answers ht ho (serveWrite_maskedStore _ _ hplace hdie)
          fun _ => notT4_of_storeLine hplace))
      · exact eMasked.trans (congrArg _ (fabricMasked_answers ht ho (serveWrite_reserved _ _ hplace) fun h => absurd h (by decide)))
    case atomic =>
      have hatomic {x : Place} {u : State} {st : Nat} {bs : List Byte} (hplace : s.place p.addr = x) (hx : ∀ k o, x ≠ .t5 k o)
          (h : s.serveAtomic ag p.addr size op v = .reply u st bs) : answer u 0x83 st bs (.atomic p) :=
        eAtomic.trans (congrArg _ (fabricAtomic_answers ht ho (fun k o => hplace ▸ hx k o) h))
      have hmemory {r off : Nat} {u : State} {st : Nat} {bs : List Byte} (hplace : s.place p.addr = .hbm r off ∨ s.place p.addr = .lpd r off)
          (h : s.serveAtomic ag p.addr size op v = .reply u st bs) : answer u 0x83 st bs (.atomic p) :=
        hplace.elim (fun hp => hatomic hp (fun _ _ => Place.noConfusion) h) (fun hp => hatomic hp (fun _ _ => Place.noConfusion) h)
      refine ⟨fun b off hplace halign hdie => ?_, fun r off hplace halign => ?_, fun g hplace => ?_,
        fun r off u old st hplace halign hfree hop => ?_⟩
      · exact ⟨fun hpoison => hatomic hplace (fun _ _ => Place.noConfusion) (serveAtomic_poisonedStore hplace hdie halign hpoison),
          fun hclean => hatomic hplace (fun _ _ => Place.noConfusion) (serveAtomic_store hplace hdie halign hclean)⟩
      · exact hmemory hplace (serveAtomic_misaligned hplace halign)
      · exact hatomic hplace (fun _ _ => Place.noConfusion) (serveAtomic_reg hplace)
      · exact hmemory hplace (serveAtomic_memory hplace halign hfree hop)
    case peg =>
      refine ⟨?operation, fun hplace hkind => ePeg.trans (congrArg _ (fabricPegOp_reserved ht ho hplace hkind))⟩
      intro n off hplace hoff hlive x old
      have hpeg {kind st : Nat} {u : State} {y : W64} (hkind : bits p.aux 7 0 = kind) (hlen : kind = 0 ∨ p.data.length = 8)
          (hserve : s.pegOpAt ag n off kind x = (u, st, y)) : answer u (if kind = 0 then 0x81 else if kind = 1 then 0x82 else 0x83) st
            (if kind = 1 then [] else leBytes 8 y.toNat) (.pegOp p) :=
        ePeg.trans (congrArg _ (fabricPegOp_answers ht ho hkind hplace hoff hlen hserve))
      -- each operation's answer is found from its kind alone: the `if`s of `hpeg` reduce once the kind is known
      refine ⟨fun u y hkind hload => ?_, fun hlen => ⟨fun hkind => ?_, fun hkind hview => ?_, fun hkind hview => ?_, fun hkind hview => ?_⟩⟩
      · have hdone := hpeg hkind (.inl rfl) (pegOpAt_load hlive hload)
        exact hdone
      · have hdone := hpeg hkind (.inr hlen) (pegOpAt_store hlive)
        exact hdone
      all_goals subst hview
      · have hdone := hpeg hkind (.inr hlen) (pegOpAt_add hlive)
        exact hdone
      · have hdone := hpeg hkind (.inr hlen) (pegOpAt_set hlive)
        exact hdone
      · have hdone := hpeg hkind (.inr hlen) (pegOpAt_cas hlive)
        exact hdone
  case answers =>
    intro tag st data posted c hc
    have hanswer : exec c s = .next (s.fabricAnswer tag st data posted) := by
      rcases hc with ⟨rfl, rfl⟩ | ⟨rfl, rfl, rfl⟩ | ⟨x, rfl, rfl, rfl⟩
      · exact exec_readData tag st data s rfl hp
      · exact exec_writeAck tag st s rfl hp
      · exact exec_atomicData tag st x s rfl hp
    refine ⟨fun hnone => hanswer.trans (congrArg _ (fabricAnswer_none hnone)), ?_⟩
    intro q m hfound hdest hkind u
    have hends {t : State} (h : (s.usedUp m tag).answered q st data = t) : exec c s = .next t :=
      hanswer.trans (congrArg _ ((fabricAnswer_found hfound hdest).trans h))
    refine ⟨fun h ho hposted htrap => ?_, fun h ho hposted hwait hruns hst => ?_, fun b seq ho hposted hst => ?_, ?_,
      fun src t meter ho => ?_⟩
    · exact hends (answered_hartWrite ho (hkind.trans hposted) htrap)
    · subst hst
      exact hends (answered_hartLoad ho (hkind.trans hposted) hwait hruns)
    · subst hst
      exact hends (answered_gsWrite ho (hkind.trans hposted))
    · intro hposted kept
      exact ⟨fun b seq ho => hends (answered_gsRead ho (hkind.trans hposted)),
        fun r e seq off ho => hends (answered_dmaRead ho (hkind.trans hposted))⟩
    · exact hends (answered_passedOn ho)

end Sys2Proof.Machine

/-!
PROOFS. Accesses of a hart to a line that its cache holds (R244, R252, R255 to R257, R293): O22.
-/
namespace Sys2Proof.Machine

/-! ### A hart and the line in its cache -/

/-- The cache of hart `h` holds line `n`, of a live home, as `c`; no combining buffer and no counted miss of the hart concerns it. -/
structure HasLine (s : State) (h n : Nat) (c : CLine) : Prop where
  combine : (s.hart h).combine = none
  cached : s.cacheOf h n = some c
  live : s.regionLive (State.lineHome n) = true
  miss : (s.hart h).missLine ≠ some n

section HasLine
variable {s : State} {h n : Nat} {c : CLine}

/-- Where the caches and the lost regions are those of `s`, only the hart's combining buffer and counted miss matter. -/
theorem HasLine.congr {t : State} (hl : HasLine s h n c) (hcaches : t.caches = s.caches) (hlost : t.lostRegions = s.lostRegions)
    (hcombine : (t.hart h).combine = (s.hart h).combine) (hmiss : (t.hart h).missLine = (s.hart h).missLine) : HasLine t h n c where
  combine := hcombine.trans hl.combine
  cached := (congrArg (·.find (h, n)) hcaches).trans hl.cached
  live := (regionLive_congr s t hlost _).trans hl.live
  miss := hmiss ▸ hl.miss

theorem HasLine.setHart_same (hl : HasLine s h n c) : HasLine (s.setHart h (s.hart h)) h n c :=
  hl.congr rfl rfl (congrArg Hart.combine (State.hart_same s h h)) (congrArg Hart.missLine (State.hart_same s h h))

theorem HasLine.reclaim (hl : HasLine s h n c) : s.reclaim h n = s := by
  unfold State.reclaim
  rw [hl.cached]

theorem HasLine.notLost (hl : HasLine s h n c) : s.lostLine n = false := by
  rw [State.lostLine, hl.live]
  rfl

theorem HasLine.missServed (hl : HasLine s h n c) : s.missServed h n = s := if_neg hl.miss

theorem HasLine.ownedLine (hl : HasLine s h n c) (hs : c.state ≠ .shared) : s.ownedLine h n = some c := by
  unfold State.ownedLine
  rw [hl.cached]
  exact if_neg hs

theorem HasLine.ownView (hl : HasLine s h n c) (hst : (s.hart h).stores = []) : s.ownView h c n = c.line := by
  unfold State.ownView
  rw [hl.combine, hst]
  rfl

end HasLine

theorem Line.badWord_clean {l : Line} {off n : Nat} (hb : l.bad off n = false) : l.badWord off n = none := by
  unfold Line.badWord
  rw [Option.map_eq_none_iff, List.find?_eq_none]
  exact List.any_eq_false.1 hb

theorem Line.badWord_poisoned {l : Line} {off n : Nat} (hb : ¬ l.bad off n = false) : ∃ o, l.badWord off n = some o := by
  have hany : l.bad off n = true := Bool.not_eq_false _ ▸ hb
  obtain ⟨i, hi, hp⟩ := List.any_eq_true.1 hany
  have hfound := List.find?_isSome (p := fun i => l.poison.getLsbD i && decide (off < 8 * i + 8 ∧ 8 * i < off + n)).2 ⟨i, hi, hp⟩
  obtain ⟨j, hj⟩ := Option.isSome_iff_exists.1 hfound
  exact ⟨8 * j, congrArg (Option.map (8 * ·)) hj⟩

/-! ### How an access within 16 bytes to memory is taken apart -/

section Pieces
variable {s : State} {h m : Nat} {a : Access} {write : Bool}

theorem piecesOf_within (hx : crosses16 a = false) : piecesOf a = [(a.addr, a.size)] := by
  rw [piecesOf, hx]
  rfl

theorem badPieceOf_mem (hx : crosses16 a = false) (ht : s.targetAt h a.addr a.pbmt write = .mem m) : s.badPieceOf h a write = none := by
  simp [State.badPieceOf, piecesOf_within hx, ht]

theorem memPieces_mem (hx : crosses16 a = false) (ht : s.targetAt h a.addr a.pbmt write = .mem m) :
    s.memPieces h a write = some [⟨a.addr, m, a.size, .cache⟩] := by
  simp [State.memPieces, piecesOf_within hx, ht, State.pieceAt]

end Pieces

theorem HoldsNothing.wcHolds {s : State} {h : Nat} (hn : HoldsNothing s h) (d : Option OutDest) (lines : List Nat) :
    s.wcHolds h d lines = false := by
  simp [State.wcHolds, hn.wc, hn.out]

theorem HoldsNothing.wcClearPieces {s : State} {h : Nat} (hn : HoldsNothing s h) (p : MemPiece) :
    s.wcClearPieces h [p] = s.setHart h (s.hart h) := State.wcFlush_idle s h hn.wc _

theorem HoldsNothing.wcHoldsPieces {s : State} {h : Nat} (hn : HoldsNothing s h) (ps : List MemPiece) :
    s.wcHoldsPieces h ps = false := by
  simp [State.wcHoldsPieces, hn.wcHolds]

/-! ### What an access does with the cached line -/

section Access
variable {s : State} {h m : Nat} {a : Access} {c : CLine}

theorem pieceValues_cached (hn : HoldsNothing s h) (hl : HasLine s h (m / 128) c) :
    s.pieceValues h a.addr [⟨a.addr, m, a.size, .cache⟩] =
      (s, c.line.get (m % 128) a.size, (c.line.badWord (m % 128) a.size).map (m / 128 * 128 + ·)) := by
  simp [State.pieceValues, hl.cached, hl.ownView hn.stores]

/-- A load takes the value of its piece of the cached line, or its poison. -/
theorem loadMem_cached (hn : HoldsNothing s h) (hl : HasLine s h (m / 128) c) : let u := s.setHart h (s.hart h)
    (c.line.badWord (m % 128) a.size = none → s.loadMem h a [⟨a.addr, m, a.size, .cache⟩] =
      u.retireWith h (State.extend a.signed a.size (c.line.get (m % 128) a.size))) ∧
    (∀ o, c.line.badWord (m % 128) a.size = some o → s.loadMem h a [⟨a.addr, m, a.size, .cache⟩] =
      u.hartPoison h 5 (m / 128 * 128 + o) a.addr) := by
  have hu := hl.setHart_same
  have hvalue := pieceValues_cached (a := a) hn.setHart_same hu
  obtain ⟨u, heq⟩ : ∃ u, s.setHart h (s.hart h) = u := ⟨_, rfl⟩
  have hholds : u.wcHoldsPieces h [⟨a.addr, m, a.size, .cache⟩] = false := heq ▸ hn.setHart_same.wcHoldsPieces _
  rw [heq] at hu hvalue
  unfold State.loadMem
  rw [hn.wcClearPieces, heq]
  constructor
  · intro hb
    simp [hholds, hu.reclaim, hu.notLost, hu.cached, hu.missServed, hvalue, hb]
  · intro o hb
    simp [hholds, hu.reclaim, hu.notLost, hu.cached, hu.missServed, hvalue, hb]

/-- An AMO or LR goes on with the owned line, or takes the trap of its poison. -/
theorem atomicMem_owned (hn : HoldsNothing s h) (hl : HasLine s h (m / 128) c) (hx : crosses16 a = false) (hs : c.state ≠ .shared)
    (cause : Nat) (f : State → CLine → State) : let u := s.setHart h (s.hart h)
    (c.line.badWord (m % 128) a.size = none → s.atomicMem h a m cause f = f u c) ∧
    (∀ o, c.line.badWord (m % 128) a.size = some o → s.atomicMem h a m cause f = u.hartPoison h 7 (m / 128 * 128 + o) a.addr) := by
  have hu := hl.setHart_same
  have hsettled := hn.setHart_same.settled true
  have hpush := State.pushOut_idle s h hn.stores hn.combine hn.wc
  unfold State.atomicMem
  rw [hx, hpush]
  constructor
  · intro hb
    simp [hsettled, hu.reclaim, hu.notLost, hu.ownedLine hs, hu.missServed, hb]
  · intro o hb
    simp [hsettled, hu.reclaim, hu.notLost, hu.ownedLine hs, hb]

/-- An SC looks at the line without asking for it: poison traps, else the reservation ends, and decides with it (R255). -/
theorem hartSc_mem (hr : s.hartReady h = true) (hn : HoldsNothing s h) (hl : HasLine s h (m / 128) c) (hx : crosses16 a = false)
    (hheld : s.accessHeld h a = false) (hs : c.state ≠ .shared) (v : W64) (ht : s.targetAt h a.addr a.pbmt true = .mem m) :
    let u := s.setHart h (s.hart h)
    (∀ o, c.line.badWord (m % 128) a.size = some o → s.hartSc h a v = u.hartPoison h 7 (m / 128 * 128 + o) a.addr) ∧
    (c.line.badWord (m % 128) a.size = none → s.hartSc h a v =
      if (s.reserved.find h).any (fun x => x.1 == m / 128) then
        ((u.endReservation h).setCache h (m / 128) (some ⟨.modified, c.line.put (m % 128) a.size v.toNat⟩)).retireWith h 0
      else (u.endReservation h).retireWith h 1) := by
  have hu := hl.setHart_same
  have hsettled := hn.setHart_same.settled true
  have hpush := State.pushOut_idle s h hn.stores hn.combine hn.wc
  obtain ⟨u, heq⟩ : ∃ u, s.setHart h (s.hart h) = u := ⟨_, rfl⟩
  have hreserved : u.reserved = s.reserved := heq ▸ rfl
  rw [heq] at hu hsettled hpush
  have howned : (u.endReservation h).ownedLine h (m / 128) = some c := hu.ownedLine hs
  unfold State.hartSc
  rw [onHart_ready s h _ hr, heq]
  dsimp only
  rw [hheld, ht]
  constructor
  · intro o hb
    simp [hx, hpush, hsettled, hu.notLost, hu.cached, hb]
  · intro hb
    simp [hx, hpush, hsettled, hu.notLost, hu.cached, hb, howned, hreserved]

end Access

/-! ### Retirement -/

/-- Hart `h` has retired an instruction that leaves it as `x`, and no other hart has changed (R244). -/
def Retired (s : State) (h : Nat) (x : Hart) (t : State) : Prop :=
  t.hart h = { x with pc := (t.hart h).pc, instret := x.instret + 1, wait := .none } ∧ ∀ j, j ≠ h → t.hart j = s.hart j

theorem retire_retired {s u : State} {h : Nat} {x : Hart} (hself : u.hart h = x) (hother : ∀ j, j ≠ h → u.hart j = s.hart j) :
    Retired s h x (u.retire h) := by
  obtain ⟨-, hretired, hrest⟩ := retire_does u h
  exact ⟨hretired.trans (congrArg (fun y : Hart => { y with pc := ((u.retire h).hart h).pc, instret := y.instret + 1, wait := .none }) hself),
    fun j hj => (hrest j hj).trans (hother j hj)⟩

theorem retireWith_retired {s u : State} {h : Nat} (hu : ∀ j, u.hart j = s.hart j) (v : W64) :
    Retired s h { s.hart h with result := v } (u.retireWith h v) :=
  retire_retired ((State.hart_setHart_self ..).trans (congrArg (fun y : Hart => { y with result := v }) (hu h)))
    fun j hj => (State.hart_setHart_ne _ _ hj).trans (hu j)

theorem retireWith_frame (u : State) (h : Nat) (v : W64) :
    u.retireWith h v = { u with harts := (u.retireWith h v).harts, freeCount := u.freeCount + 1 } :=
  rfl

/-! ### Traps -/

/-- The retries once a deferral by the reservation of hart `h` has ended (R290). -/
def undeferred (s : State) (h : Nat) : List Retried :=
  s.retries.map fun x => if x.deferrer = some h then { x with deferrer := none } else x

/-- A trap that nothing delays ends the deferral of the hart's reservation (R256). -/
theorem trap_retries (s : State) (h cause tval : Nat) (hstr : (s.hart h).streaming = false) (hco : (s.hart h).combine = none)
    (hwc : (s.hart h).wc = []) (hdouble : ¬(144 ≤ h ∧ (s.hart h).inTrap = true)) :
    (s.trap h cause tval).retries = undeferred s h := by
  obtain ⟨w, hw⟩ : ∃ w, (s.endReservation h).waitFor h (.trap cause tval) = w := ⟨_, rfl⟩
  have hwh : w.hart h = { s.hart h with wait := .trap cause tval } := by
    rw [← hw]
    exact State.hart_setHart_self ..
  have hretries : w.retries = undeferred s h := by
    rw [← hw]
    rfl
  have henter : s.trap h cause tval = w.trapEnter h := by
    unfold State.trap
    rw [State.leaveStreaming_idle s h hstr hco]
    dsimp only
    rw [hw]
    exact if_neg hdouble
  have hflush : w.wcFlush h (fun _ => true) = w.setHart h (w.hart h) := State.wcFlush_idle w h (by rw [hwh]; exact hwc) _
  rw [henter, ← hretries]
  unfold State.trapEnter
  rw [State.leaveStreaming_idle w h (by rw [hwh]; exact hstr) (by rw [hwh]; exact hco), hflush, hwh]
  dsimp only
  split <;> rfl

/-- Hart `h` has consumed the poison at `a` and entered the trap for it, and nothing else has changed (R293). -/
def ConsumesPoison (s : State) (h cause a va : Nat) (t : State) : Prop :=
  let ag := hartAgent s.moduleId h
  let logged := s.log ag.region stPOISON 2 ag.code (a / 8 * 8) 0
  t = { s with harts := t.harts, errLog := t.errLog, regs := t.regs, reserved := s.reserved.erase h, retries := undeferred s h } ∧
  t.errLog = logged.errLog ∧ t.regs = logged.regs ∧
  t.hart h = (s.hart h).enter false cause (w64 va) ∧ ∀ j, j ≠ h → t.hart j = s.hart j

theorem hartPoison_traps {s : State} {h cause : Nat} (hn : HoldsNothing s h) (hstr : (s.hart h).streaming = false)
    (hdouble : ¬(144 ≤ h ∧ (s.hart h).inTrap = true)) (hc : cause < 2 ^ 63) (a va : Nat) :
    ConsumesPoison s h cause a va ((s.setHart h (s.hart h)).hartPoison h cause a va) := by
  obtain ⟨u, hu⟩ : ∃ u, (s.setHart h (s.hart h)).log (hartAgent s.moduleId h).region stPOISON 2 (hartAgent s.moduleId h).code
    (a / 8 * 8) 0 = u := ⟨_, rfl⟩
  have hharts : ∀ j, u.hart j = s.hart j := fun j => by
    rw [← hu]
    exact State.hart_same s h j
  have hstr' : (u.hart h).streaming = false := by rw [hharts]; exact hstr
  have hco' : (u.hart h).combine = none := by rw [hharts]; exact hn.combine
  have hwc' : (u.hart h).wc = [] := by rw [hharts]; exact hn.wc
  have hdouble' : ¬(144 ≤ h ∧ (u.hart h).inTrap = true) := by rw [hharts]; exact hdouble
  have hun : u.wcUnacked h = false := by
    rw [← hu, State.wcUnacked]
    show s.out.any _ = false
    rw [hn.out]
    rfl
  obtain ⟨t, ht, hframe, hself, hother⟩ := trap_does u h cause va hstr' hco' hwc' hun hdouble'
  have hretries := trap_retries u h cause va hstr' hco' hwc' hdouble'
  have hpoison : (s.setHart h (s.hart h)).hartPoison h cause a va = t := by
    rw [← ht, ← hu]
    rfl
  rw [ht] at hretries
  rw [hpoison]
  unfold ConsumesPoison
  refine ⟨?_, ?_, ?_, ?_, fun j hj => (hother j hj).trans (hharts j)⟩
  · rw [hframe, hretries, ← hu]
    rfl
  · rw [hframe, ← hu]
    rfl
  · rw [hframe, ← hu]
    rfl
  · rw [hself, hharts, decide_eq_false (Nat.not_le.2 hc), Nat.mod_eq_of_lt hc]

/-! ### Stores -/

section Store
variable {s : State} {h : Nat} {c : CLine}

/-- A store into the line that the cache owns is performed there (R244). -/
theorem performStore_owned (st : HeldStore) (hl : HasLine s h (st.addr / 128) c) (hs : c.state ≠ .shared) :
    s.performStore h st =
      (s.setCache h (st.addr / 128) (some ⟨.modified, c.line.put (st.addr % 128) st.size st.value.toNat⟩), true) := by
  unfold State.performStore State.storeHit
  simp [hl.reclaim, hl.notLost, hl.cached, hs, hl.combine, hl.missServed]

theorem drainStores_one (st : HeldStore) (hst : (s.hart h).stores = [st]) (hl : HasLine s h (st.addr / 128) c) (hs : c.state ≠ .shared) :
    s.drainStores h 1 = (s.setCache h (st.addr / 128) (some ⟨.modified, c.line.put (st.addr % 128) st.size st.value.toNat⟩)).updHart h
      fun x => { x with stores := [] } := by
  simp [State.drainStores, hst, performStore_owned st hl hs]

end Store

/-- The store that the buffer holds for an access of a hart to memory at `m`. -/
def heldStore (a : Access) (m : Nat) (v : W64) : HeldStore := { addr := m, size := a.size, value := w64 (v.toNat % 2 ^ (8 * a.size)) }

theorem heldStore_value (a : Access) (m : Nat) (v : W64) : (heldStore a m v).value.toNat = v.toNat % 2 ^ (8 * a.size) :=
  (BitVec.toNat_ofNat ..).trans (Nat.mod_eq_of_lt (lt_of_le_of_lt (Nat.mod_le _ _) v.isLt))

theorem part_whole (base m n v : Nat) : (⟨base, m, n, .cache⟩ : MemPiece).part base v = v % 2 ^ (8 * n) := by
  simp [MemPiece.part]

/-- A store to one cached piece retires into the store buffer. -/
theorem storePieces_cached {s : State} {h m : Nat} {a : Access} (hn : HoldsNothing s h) (hntl : a.ntl = false) (v : W64) (hold : Nat) :
    s.storePieces h a [⟨a.addr, m, a.size, .cache⟩] v hold =
      ((s.setHart h (s.hart h)).retire h).storeMem h [heldStore a m v] hold := by
  have hholds := hn.setHart_same.wcHoldsPieces [⟨a.addr, m, a.size, .cache⟩]
  have hclear := hn.wcClearPieces ⟨a.addr, m, a.size, .cache⟩
  unfold State.storePieces
  simp [hntl, hclear, hholds, State.combinePieces, part_whole, heldStore]

section Store
variable {s : State} {h : Nat} {c : CLine}

theorem HasLine.updStores {n : Nat} (hl : HasLine s h n c) (l : List HeldStore) :
    HasLine (s.updHart h fun x => { x with stores := l }) h n c := by
  refine hl.congr rfl rfl ?_ ?_
  · rw [State.updHart, State.hart_setHart_self]
  · rw [State.updHart, State.hart_setHart_self]

theorem HasLine.retire {n : Nat} (hl : HasLine s h n c) : HasLine (s.retire h) h n c :=
  have hretired := (retire_does s h).2.1
  hl.congr rfl rfl ((congrArg Hart.combine hretired).trans rfl) ((congrArg Hart.missLine hretired).trans rfl)

theorem storeMem_performed (st : HeldStore) (hst : (s.hart h).stores = []) (hl : HasLine s h (st.addr / 128) c)
    (hs : c.state ≠ .shared) {hold : Nat} (hhold : hold.testBit 0 = false) : s.storeMem h [st] hold =
      ((s.updHart h fun x => { x with stores := [st] }).setCache h (st.addr / 128)
        (some ⟨.modified, c.line.put (st.addr % 128) st.size st.value.toNat⟩)).updHart h fun x => { x with stores := [] } := by
  have hbuffer : s.storeMem h [st] hold = (s.updHart h fun x => { x with stores := [st] }).drainStores h 1 := by
    simp [State.storeMem, State.updHart, hhold, hst, List.range_succ]
  rw [hbuffer]
  exact drainStores_one st (congrArg Hart.stores (State.hart_setHart_self ..)) (hl.updStores [st]) hs

theorem storeMem_held (st : HeldStore) (hst : (s.hart h).stores = []) {hold : Nat} (hhold : hold.testBit 0 = true) :
    s.storeMem h [st] hold = s.updHart h fun x => { x with stores := [st] } := by
  simp [State.storeMem, State.updHart, State.drainStores, hhold, hst, List.range_succ]

end Store

theorem Hart.stores_same (x : Hart) (h : x.stores = []) : { x with stores := [] } = x := by
  rw [← h]

/-! ### What an access leaves -/

/-- An instruction of hart `h` has retired and left the hart as `x`, with these caches, reservations and retries, and nothing else
has changed. -/
def Finishes (s : State) (h : Nat) (x : Hart) (caches : Map (Nat × Nat) CLine) (reserved : Map Nat (Nat × Bool))
    (retries : List Retried) (t : State) : Prop :=
  t = { s with harts := t.harts, caches := caches, reserved := reserved, retries := retries, freeCount := s.freeCount + 1 } ∧
  Retired s h x t

section Finishes
variable {s w t : State} {h : Nat} {x : Hart} {caches : Map (Nat × Nat) CLine} {reserved : Map Nat (Nat × Bool)} {retries : List Retried}

theorem retireWith_finishes (hw : w = { s with harts := w.harts, caches := caches, reserved := reserved, retries := retries })
    (hharts : ∀ j, w.hart j = s.hart j) (v : W64) :
    Finishes s h { s.hart h with result := v } caches reserved retries (w.retireWith h v) := by
  refine ⟨?_, retireWith_retired hharts v⟩
  rw [retireWith_frame, hw]

theorem retire_finishes (hw : w = { s with harts := w.harts }) (hharts : ∀ j, w.hart j = s.hart j) :
    Finishes s h (s.hart h) s.caches s.reserved s.retries (w.retire h) := by
  refine ⟨?_, retire_retired (hharts h) fun j _ => hharts j⟩
  rw [(retire_does w h).1, hw]

theorem Finishes.updStores (hf : Finishes s h x caches reserved retries t) (l : List HeldStore) :
    Finishes s h { x with stores := l } caches reserved retries (t.updHart h fun y => { y with stores := l }) := by
  obtain ⟨hframe, hself, hother⟩ := hf
  refine ⟨congrArg (fun z : State => { z with harts := (t.updHart h fun y => { y with stores := l }).harts }) hframe, ?_,
    fun j hj => (State.hart_setHart_ne _ _ hj).trans (hother j hj)⟩
  rw [State.updHart, State.hart_setHart_self, hself]

theorem Finishes.setCache (hf : Finishes s h x caches reserved retries t) (k n : Nat) (c : CLine) :
    Finishes s h x (caches.set (k, n) c) reserved retries (t.setCache k n (some c)) := by
  obtain ⟨hframe, hretired⟩ := hf
  have hcaches : t.caches = caches := by rw [hframe]
  refine ⟨?_, hretired⟩
  rw [State.setCache, hcaches]
  exact congrArg (fun z : State => { z with caches := caches.set (k, n) c }) hframe

theorem Finishes.parts (hf : Finishes s h x caches reserved retries t) :
    t = { s with harts := t.harts, caches := t.caches, reserved := t.reserved, retries := t.retries, freeCount := s.freeCount + 1 } ∧
    t.caches = caches ∧ t.reserved = reserved ∧ t.retries = retries ∧ Retired s h x t := by
  obtain ⟨hframe, hretired⟩ := hf
  have hcaches : t.caches = caches := by rw [hframe]
  have hreserved : t.reserved = reserved := by rw [hframe]
  have hretries : t.retries = retries := by rw [hframe]
  refine ⟨?_, hcaches, hreserved, hretries, hretired⟩
  rw [hcaches, hreserved, hretries]
  exact hframe

end Finishes

/-! ### The instructions -/

/-- Hart `h` may make access `a`, which lies within 16 bytes at `m` in memory, and its cache holds the line as `c`; it holds nothing
back and no page table is held. -/
structure CachedAccess (s : State) (h m : Nat) (a : Access) (c : CLine) : Prop where
  ready : s.hartReady h = true
  quiet : HoldsNothing s h
  streaming : (s.hart h).streaming = false
  within : crosses16 a = false
  walk : s.accessHeld h a = false
  line : HasLine s h (m / 128) c

section Instructions
variable {s : State} {h m : Nat} {a : Access} {c : CLine} (ha : CachedAccess s h m a c)
include ha

/-- A trap that the poison of the access at offset `o` of its line causes. -/
theorem CachedAccess.poison_traps (hdouble : ¬(144 ≤ h ∧ (s.hart h).inTrap = true)) {cause : Nat} (hc : cause < 2 ^ 63) (o : Nat) :
    ConsumesPoison s h cause (m / 128 * 128 + o) a.addr ((s.setHart h (s.hart h)).hartPoison h cause (m / 128 * 128 + o) a.addr) :=
  hartPoison_traps ha.quiet ha.streaming hdouble hc _ _

theorem hartLoad_mem (ht : s.targetAt h a.addr a.pbmt false = .mem m) :
    s.hartLoad h a = s.loadMem h a [⟨a.addr, m, a.size, .cache⟩] := by
  unfold State.hartLoad
  rw [onHart_ready s h _ ha.ready, ha.walk, badPieceOf_mem ha.within ht, memPieces_mem ha.within ht]
  rfl

theorem hartLoad_clean (ht : s.targetAt h a.addr a.pbmt false = .mem m) (hclean : c.line.badWord (m % 128) a.size = none) :
    Finishes s h { s.hart h with result := State.extend a.signed a.size (c.line.get (m % 128) a.size) } s.caches s.reserved s.retries
      (s.hartLoad h a) := by
  rw [hartLoad_mem ha ht, (loadMem_cached ha.quiet ha.line).1 hclean]
  refine retireWith_finishes ?_ ?_ _
  · rfl
  · exact State.hart_same s h

theorem hartLoad_poisoned (ht : s.targetAt h a.addr a.pbmt false = .mem m) (hdouble : ¬(144 ≤ h ∧ (s.hart h).inTrap = true)) {o : Nat}
    (ho : c.line.badWord (m % 128) a.size = some o) : ConsumesPoison s h 5 (m / 128 * 128 + o) a.addr (s.hartLoad h a) := by
  rw [hartLoad_mem ha ht, (loadMem_cached ha.quiet ha.line).2 o ho]
  exact ha.poison_traps hdouble (by decide) o

theorem hartStore_mem (ht : s.targetAt h a.addr a.pbmt true = .mem m) (hntl : a.ntl = false) (v : W64) (hold : Nat) :
    s.hartStore h a v hold = ((s.setHart h (s.hart h)).retire h).storeMem h [heldStore a m v] hold := by
  rw [← storePieces_cached ha.quiet hntl]
  unfold State.hartStore
  rw [onHart_ready s h _ ha.ready, ha.walk, badPieceOf_mem ha.within ht, memPieces_mem ha.within ht]
  rfl

theorem hartStore_held (ht : s.targetAt h a.addr a.pbmt true = .mem m) (hntl : a.ntl = false) (v : W64) {hold : Nat}
    (hhold : hold.testBit 0 = true) :
    Finishes s h { s.hart h with stores := [heldStore a m v] } s.caches s.reserved s.retries (s.hartStore h a v hold) := by
  have hretires := retire_finishes (s := s) (h := h) rfl (State.hart_same s h)
  have hempty : (((s.setHart h (s.hart h)).retire h).hart h).stores = [] := (congrArg Hart.stores hretires.2.1).trans ha.quiet.stores
  rw [hartStore_mem ha ht hntl, storeMem_held (heldStore a m v) hempty hhold]
  exact hretires.updStores _

theorem hartStore_performed (ht : s.targetAt h a.addr a.pbmt true = .mem m) (hntl : a.ntl = false) (hs : c.state ≠ .shared) (v : W64)
    {hold : Nat} (hhold : hold.testBit 0 = false) :
    Finishes s h (s.hart h) (s.caches.set (h, m / 128) ⟨.modified, c.line.put (m % 128) a.size (v.toNat % 2 ^ (8 * a.size))⟩) s.reserved
      s.retries (s.hartStore h a v hold) := by
  have hretires := retire_finishes (s := s) (h := h) rfl (State.hart_same s h)
  have hempty : (((s.setHart h (s.hart h)).retire h).hart h).stores = [] := (congrArg Hart.stores hretires.2.1).trans ha.quiet.stores
  have hbuffer : { s.hart h with stores := [] } = s.hart h := Hart.stores_same (s.hart h) ha.quiet.stores
  have hdone := ((hretires.updStores [heldStore a m v]).setCache h (m / 128)
    ⟨.modified, c.line.put (m % 128) a.size (v.toNat % 2 ^ (8 * a.size))⟩).updStores []
  rw [hartStore_mem ha ht hntl, storeMem_performed (heldStore a m v) hempty ha.line.setHart_same.retire hs hhold, heldStore_value]
  exact hbuffer ▸ hdone

theorem hartAmo_mem (haddr : a.addr < 2 ^ 64) (ht : s.targetAt h a.addr a.pbmt true = .mem m) (op : AmoOp) (v : W64) :
    s.hartAmo h a op v = s.amoMem h a m op v := by
  unfold State.hartAmo
  rw [onHart_ready s h _ ha.ready]
  dsimp only
  rw [if_neg (show ¬ State.csrBase ≤ a.addr from Nat.not_le.2 haddr), ha.walk, ht]
  rfl

theorem hartAmo_clean (haddr : a.addr < 2 ^ 64) (ht : s.targetAt h a.addr a.pbmt true = .mem m) (hs : c.state ≠ .shared)
    (hclean : c.line.badWord (m % 128) a.size = none) (op : AmoOp) (v : W64) :
    Finishes s h { s.hart h with result := State.extend true a.size (c.line.get (m % 128) a.size) }
      (s.caches.set (h, m / 128) ⟨.modified, c.line.put (m % 128) a.size (amoResult op a.size (c.line.get (m % 128) a.size)
        (v.toNat % 2 ^ (8 * a.size)))⟩) s.reserved s.retries (s.hartAmo h a op v) := by
  rw [hartAmo_mem ha haddr ht, State.amoMem, (atomicMem_owned ha.quiet ha.line ha.within hs ..).1 hclean]
  refine retireWith_finishes ?_ ?_ _
  · rfl
  · exact State.hart_same s h

theorem hartAmo_poisoned (haddr : a.addr < 2 ^ 64) (ht : s.targetAt h a.addr a.pbmt true = .mem m) (hs : c.state ≠ .shared)
    (hdouble : ¬(144 ≤ h ∧ (s.hart h).inTrap = true)) {o : Nat} (ho : c.line.badWord (m % 128) a.size = some o) (op : AmoOp) (v : W64) :
    ConsumesPoison s h 7 (m / 128 * 128 + o) a.addr (s.hartAmo h a op v) := by
  rw [hartAmo_mem ha haddr ht, State.amoMem, (atomicMem_owned ha.quiet ha.line ha.within hs ..).2 o ho]
  exact ha.poison_traps hdouble (by decide) o

/-- The line reserved by an LR (R255). -/
theorem hartLr_mem (ht : s.targetAt h a.addr a.pbmt false = .mem m) :
    s.hartLr h a = s.atomicMem h a m 4 fun s c =>
      ({ s.endReservation h with reserved := (s.endReservation h).reserved.set h (m / 128, true) } : State).retireWith h
        (State.extend true a.size (c.line.get (m % 128) a.size)) := by
  unfold State.hartLr
  rw [onHart_ready s h _ ha.ready, ha.walk, ht]
  rfl

theorem hartLr_clean (ht : s.targetAt h a.addr a.pbmt false = .mem m) (hs : c.state ≠ .shared)
    (hclean : c.line.badWord (m % 128) a.size = none) :
    Finishes s h { s.hart h with result := State.extend true a.size (c.line.get (m % 128) a.size) } s.caches
      ((s.reserved.erase h).set h (m / 128, true)) (undeferred s h) (s.hartLr h a) := by
  rw [hartLr_mem ha ht, (atomicMem_owned ha.quiet ha.line ha.within hs ..).1 hclean]
  refine retireWith_finishes ?_ ?_ _
  · rfl
  · exact State.hart_same s h

theorem hartLr_poisoned (ht : s.targetAt h a.addr a.pbmt false = .mem m) (hs : c.state ≠ .shared)
    (hdouble : ¬(144 ≤ h ∧ (s.hart h).inTrap = true)) {o : Nat} (ho : c.line.badWord (m % 128) a.size = some o) :
    ConsumesPoison s h 7 (m / 128 * 128 + o) a.addr (s.hartLr h a) := by
  rw [hartLr_mem ha ht, (atomicMem_owned ha.quiet ha.line ha.within hs ..).2 o ho]
  exact ha.poison_traps hdouble (by decide) o

theorem hartSc_reserved (ht : s.targetAt h a.addr a.pbmt true = .mem m) (hs : c.state ≠ .shared)
    (hclean : c.line.badWord (m % 128) a.size = none) (hheld : (s.reserved.find h).any (fun x => x.1 == m / 128) = true) (v : W64) :
    Finishes s h { s.hart h with result := 0 } (s.caches.set (h, m / 128) ⟨.modified, c.line.put (m % 128) a.size v.toNat⟩)
      (s.reserved.erase h) (undeferred s h) (s.hartSc h a v) := by
  rw [(hartSc_mem ha.ready ha.quiet ha.line ha.within ha.walk hs v ht).2 hclean, if_pos hheld]
  refine retireWith_finishes ?_ ?_ _
  · rfl
  · exact State.hart_same s h

theorem hartSc_unreserved (ht : s.targetAt h a.addr a.pbmt true = .mem m) (hs : c.state ≠ .shared)
    (hclean : c.line.badWord (m % 128) a.size = none) (hheld : ¬ (s.reserved.find h).any (fun x => x.1 == m / 128) = true) (v : W64) :
    Finishes s h { s.hart h with result := 1 } s.caches (s.reserved.erase h) (undeferred s h) (s.hartSc h a v) := by
  rw [(hartSc_mem ha.ready ha.quiet ha.line ha.within ha.walk hs v ht).2 hclean, if_neg hheld]
  refine retireWith_finishes ?_ ?_ _
  · rfl
  · exact State.hart_same s h

theorem hartSc_poisoned (ht : s.targetAt h a.addr a.pbmt true = .mem m) (hs : c.state ≠ .shared)
    (hdouble : ¬(144 ≤ h ∧ (s.hart h).inTrap = true)) {o : Nat} (ho : c.line.badWord (m % 128) a.size = some o) (v : W64) :
    ConsumesPoison s h 7 (m / 128 * 128 + o) a.addr (s.hartSc h a v) := by
  rw [(hartSc_mem ha.ready ha.quiet ha.line ha.within ha.walk hs v ht).1 o ho]
  exact ha.poison_traps hdouble (by decide) o

end Instructions

/-- Settles O22: on a line that its cache holds each access is the retirement or the trap that the lemmas above give. -/
theorem cachedHartAccesses : Obligations.CachedHartAccesses := by
  unfold Obligations.CachedHartAccesses
  intro s h m a c hp hh hr hst hco hwc hstr hout hx hheld hcached hlive hmiss retired clean word same kept later ag logged trapped traps
  have hh' : okH h = true := decide_eq_true hh
  have ha : CachedAccess s h m a c := ⟨hr, ⟨hst, hco, hwc, hout⟩, hstr, hx, hheld, ⟨hco, hcached, hlive, hmiss⟩⟩
  have hnone : clean → c.line.badWord (m % 128) a.size = none := Line.badWord_clean
  have htrapped {cause o : Nat} {t : State} (ho : c.line.badWord (m % 128) a.size = some o)
      (ht : ConsumesPoison s h cause (m / 128 * 128 + o) a.addr t) : trapped t cause := by
    have hlogged : logged = s.log ag.region stPOISON 2 ag.code ((m / 128 * 128 + o) / 8 * 8) 0 := by
      simp only [logged, ho, Option.getD_some]
    simp only [trapped, hlogged]
    exact ht
  refine ⟨fun ht hsize => ?load, fun v ht hsize hntl hs => ?store, fun op v haddr ht hsize hs => ?amo, fun ht hsize hs => ?lr,
    fun v ht hsize hs => ?sc⟩
  case load =>
    have hexec := exec_hartLoad h a s (Bool.and_eq_true_iff.2 ⟨hh', hsize⟩) hp
    refine ⟨fun hclean => ⟨_, hexec, ?_⟩, fun htraps => ⟨_, hexec, ?_⟩⟩
    · obtain ⟨hsame, hcaches, hreserved, hretries, hretired⟩ := (hartLoad_clean ha ht (hnone hclean)).parts
      exact ⟨hsame, hcaches, ⟨hreserved, hretries⟩, hretired⟩
    · obtain ⟨o, ho⟩ := Line.badWord_poisoned htraps.1
      exact htrapped ho (hartLoad_poisoned ha ht htraps.2 ho)
  case store =>
    have hexec (hold : Nat) := exec_hartStore h a v hold s (Bool.and_eq_true_iff.2 ⟨hh', hsize⟩) hp
    refine ⟨fun hold hhold => ⟨_, hexec hold, ?_⟩, fun hold hhold => ⟨_, hexec hold, ?_⟩⟩
    · obtain ⟨hsame, hcaches, hreserved, hretries, hretired⟩ := (hartStore_performed ha ht hntl hs v hhold).parts
      exact ⟨hsame, ⟨hreserved, hretries⟩, hretired, hcaches⟩
    · obtain ⟨hsame, hcaches, hreserved, hretries, hretired⟩ := (hartStore_held ha ht hntl v hhold).parts
      exact ⟨hsame, ⟨hreserved, hretries⟩, hcaches, hretired⟩
  case amo =>
    have hexec := exec_hartAmo h a op v s (Bool.and_eq_true_iff.2 ⟨hh', hsize⟩) hp
    refine ⟨fun hclean => ⟨_, hexec, ?_⟩, fun htraps => ⟨_, hexec, ?_⟩⟩
    · obtain ⟨hsame, hcaches, hreserved, hretries, hretired⟩ := (hartAmo_clean ha haddr ht hs (hnone hclean) op v).parts
      exact ⟨hsame, ⟨hreserved, hretries⟩, hretired, hcaches⟩
    · obtain ⟨o, ho⟩ := Line.badWord_poisoned htraps.1
      exact htrapped ho (hartAmo_poisoned ha haddr ht hs htraps.2 ho op v)
  case lr =>
    have hexec := exec_hartLr h a s (Bool.and_eq_true_iff.2 ⟨hh', hsize⟩) hp
    refine ⟨fun hclean => ⟨_, hexec, ?_⟩, fun htraps => ⟨_, hexec, ?_⟩⟩
    · obtain ⟨hsame, hcaches, hreserved, hretries, hretired⟩ := (hartLr_clean ha ht hs (hnone hclean)).parts
      refine ⟨hsame, hcaches, hretries, fun j => ?_, hretired⟩
      rw [hreserved]
      by_cases hj : j = h
      · rw [if_pos hj, hj, Map.find_set_self]
      · rw [if_neg hj, Map.find_set_ne _ _ hj, Map.find_erase_ne _ hj]
    · obtain ⟨o, ho⟩ := Line.badWord_poisoned htraps.1
      exact htrapped ho (hartLr_poisoned ha ht hs htraps.2 ho)
  case sc =>
    have hexec := exec_hartSc h a v s (Bool.and_eq_true_iff.2 ⟨hh', hsize⟩) hp
    refine ⟨fun hclean hheld => ⟨_, hexec, ?_⟩, fun hclean hheld => ⟨_, hexec, ?_⟩, fun htraps => ⟨_, hexec, ?_⟩⟩
    · obtain ⟨d, hd⟩ := hheld
      obtain ⟨hsame, hcaches, hreserved, hretries, hretired⟩ := (hartSc_reserved ha ht hs (hnone hclean) (by simp [hd]) v).parts
      exact ⟨hsame, hreserved, hretries, hretired, hcaches⟩
    · have hother : ¬ (s.reserved.find h).any (fun x => x.1 == m / 128) = true := by
        cases hfound : s.reserved.find h with
        | none => simp
        | some x => simpa using hheld x hfound
      obtain ⟨hsame, hcaches, hreserved, hretries, hretired⟩ := (hartSc_unreserved ha ht hs (hnone hclean) hother v).parts
      exact ⟨hsame, hreserved, hretries, hretired, hcaches⟩
    · obtain ⟨o, ho⟩ := Line.badWord_poisoned htraps.1
      exact htrapped ho (hartSc_poisoned ha ht hs htraps.2 ho v)

end Sys2Proof.Machine

/-!
PROOFS. Devices below a root port, and the completions of link partners (R263, R264, R413, R416, R417, R419, R425): O47.
-/
namespace Sys2Proof.Machine

/-! ### An inbound request that finds none waiting (R263) -/

section Arrive
variable {s : State} {c : Instr}

theorem inBehind_none (c : Instr) : State.inBehind c [] = false := Bool.and_false _

theorem arrive_performed {u : State} (hin : s.hostIn = []) (hdo : s.performIn c = some u) : s.arrive c = { u with hostIn := [] } := by
  simp [State.arrive, State.admitIn, hin, inBehind_none, hdo]

theorem arrive_waits (hin : s.hostIn = []) (hdo : s.performIn c = none) : s.arrive c = { s with hostIn := [c] } := by
  simp [State.arrive, State.admitIn, hin, inBehind_none, hdo]

end Arrive

/-! ### A device's request (R416, R417) -/

/-- A request counts only below a sub-port of a root port whose link is in L0. -/
def State.deviceLinked (s : State) (r k : Nat) : Prop := (s.hostPort r).endpoint = false ∧ ((s.hostPort r).subs.get {} k).link = 2

/-- The bytes that a request spans. -/
def deviceSpan (n : Nat) (write : Option (List Byte)) : Nat := match write with | some bs => bs.length | none => n

/-- A storage device reaches outside its bounce window (Standalone). -/
def State.outsideBounce (s : State) (r k a : Nat) (storage : Bool) (n : Nat) (write : Option (List Byte)) : Prop :=
  storage = true ∧ s.mgmt.image.attached = false ∧
    (a < (s.reg (HOST_RP_BOUNCE_LO r k)).toNat ∨ (s.reg (HOST_RP_BOUNCE_HI r k)).toNat < a + deviceSpan n write - 1)

/-- The agent of the devices below a sub-port. -/
def State.deviceAgent (s : State) (r k : Nat) : Agent := { kind := .external, index := k, region := r, module := s.moduleId }

/-- What no device reaches: anything but memory and pegs (log 51). -/
def beyondDevices : State.Reach → Bool
  | .own (.hbm ..) _ _ | .own (.lpd ..) _ _ | .own (.t4 ..) _ _ | .own (.peg ..) _ _ => false
  | _ => true

section Device
variable {s : State} {r k id pasid a n : Nat} {storage : Bool} {write : Option (List Byte)}

theorem deviceRequest_unlinked (hl : ¬ s.deviceLinked r k) : s.deviceRequest r k id pasid a storage n write = some s := by
  refine if_pos ?_
  unfold State.deviceLinked at hl
  cases he : (s.hostPort r).endpoint with
  | true => exact .inl rfl
  | false => exact .inr fun hlink => hl ⟨he, hlink⟩

theorem State.deviceLinked.goesOn (hl : s.deviceLinked r k) :
    ¬ ((s.hostPort r).endpoint = true ∨ ((s.hostPort r).subs.get {} k).link ≠ 2) := by
  obtain ⟨he, hlink⟩ := hl
  simp [he, hlink]

theorem outsideBounce_iff : s.outsideBounce r k a storage n write ↔ storage = true ∧ (!s.mgmt.image.attached) = true ∧
    (a < (s.reg (HOST_RP_BOUNCE_LO r k)).toNat ∨ (s.reg (HOST_RP_BOUNCE_HI r k)).toNat < a + deviceSpan n write - 1) := by
  rw [State.outsideBounce, Bool.not_eq_true']

variable (hl : s.deviceLinked r k)
include hl

theorem deviceRequest_outside (ho : s.outsideBounce r k a storage n write) :
    s.deviceRequest r k id pasid a storage n write = some (s.deviceRefused r k id stRANGE 8 a write.isSome) :=
  (if_neg hl.goesOn).trans (if_pos (outsideBounce_iff.1 ho))

variable (hi : ¬ s.outsideBounce r k a storage n write)
include hi

theorem deviceRequest_held (hh : s.translateHeld pasid a = true) : s.deviceRequest r k id pasid a storage n write = none :=
  (if_neg hl.goesOn).trans ((if_neg (hi ∘ outsideBounce_iff.2)).trans (if_pos hh))

variable (hh : s.translateHeld pasid a = false)
include hh

theorem deviceRequest_ats (hw : write = none) (hn : n = 0) :
    s.deviceRequest r k id pasid a storage n write = some (s.completed r k .success false (s.atsEntry pasid a)) := by
  have hempty : deviceSpan n write = 0 ∧ write.isNone = true := by
    subst hw hn
    exact ⟨rfl, rfl⟩
  exact (if_neg hl.goesOn).trans ((if_neg (hi ∘ outsideBounce_iff.2)).trans ((if_neg (Bool.eq_false_iff.1 hh)).trans (if_pos hempty)))

/-- A translated request is served by the home of its memory, or as a peg operation, or refused with RANGE; an untranslated one is
refused with XLATE. -/
theorem deviceRequest_translated (hb : write = none → n ≠ 0) : let go := s.deviceRequest r k id pasid a storage n write
    let range := s.deviceRefused r k id stRANGE 3 a write.isSome
    (s.translate pasid a write.isSome = none → go = some (s.deviceRefused r k id stXLATE 3 a write.isSome)) ∧
    ∀ pa mt, s.translate pasid a write.isSome = some (pa, mt) →
      (∀ rr off m b, s.reach pa = .own (.hbm rr off) m b ∨ s.reach pa = .own (.lpd rr off) m b ∨ s.reach pa = .own (.t4 rr off) m b →
        (∀ bs, write = some bs → go = s.deviceServed r k m write (s.serveWrite (s.deviceAgent r k) m bs none)) ∧
        (write = none → go = s.deviceServed r k m write (s.serveRead (s.deviceAgent r k) m n))) ∧
      (∀ p off m b, s.reach pa = .own (.peg p off) m b →
        (off % 8 ≠ 0 ∨ deviceSpan n write ≠ 8 → go = some range) ∧
        (off % 8 = 0 → deviceSpan n write = 8 →
          (∀ bs, write = some bs → go = some (s.pegStore (s.deviceAgent r k) p off (w64 (leNat bs)))) ∧
          (write = none → s.regionLive (pegHome p) = false → go = some (s.completed r k .success true (List.replicate 8 0))) ∧
          (∀ u v bad, write = none → s.regionLive (pegHome p) = true → s.pegLoad (s.deviceAgent r k) p off = (u, v, bad) →
            go = some (u.completed r k .success false (leBytes 8 v.toNat))))) ∧
      (beyondDevices (s.reach pa) = true → go = some range) := by
  have hbytes : ¬ (deviceSpan n write = 0 ∧ write.isNone = true) := by
    rintro ⟨hlen, hw⟩
    rw [Option.isNone_iff_eq_none] at hw
    subst hw
    exact hb rfl hlen
  obtain ⟨go, hgo⟩ : ∃ go, s.deviceRequest r k id pasid a storage n write = go := ⟨_, rfl⟩
  have hrest := hgo
  unfold State.deviceRequest at hrest
  dsimp only at hrest ⊢
  rw [if_neg hl.goesOn] at hrest
  replace hrest := (if_neg (hi ∘ outsideBounce_iff.2)).symm.trans hrest
  rw [if_neg (Bool.eq_false_iff.1 hh)] at hrest
  replace hrest := (if_neg hbytes).symm.trans hrest
  rw [hgo, ← hrest]
  refine ⟨fun ht => by rw [ht], fun pa mt ht => ?_⟩
  rw [ht]
  dsimp only
  refine ⟨fun rr off m b hreach => ?memory, fun p off m b hreach => ?peg, fun hbeyond => ?beyond⟩
  case memory =>
    refine ⟨fun bs hw => ?_, fun hw => ?_⟩
    · subst hw
      rcases hreach with hreach | hreach | hreach <;> rw [hreach] <;> rfl
    · subst hw
      rcases hreach with hreach | hreach | hreach <;> rw [hreach] <;> rfl
  case peg =>
    rw [hreach]
    refine ⟨fun hbad => congrArg some (if_pos hbad), fun hoff hlen => ?_⟩
    have hgood : ¬ (off % 8 ≠ 0 ∨ deviceSpan n write ≠ 8) := not_or.2 ⟨not_not.2 hoff, not_not.2 hlen⟩
    refine ⟨fun bs hw => ?_, fun hw hlost => ?_, fun u v bad hw hlive hload => ?_⟩
    · subst hw
      exact congrArg some (if_neg hgood)
    · subst hw
      exact congrArg some ((if_neg hgood).trans (if_pos (by rw [hlost]; rfl)))
    · subst hw
      refine congrArg some ((if_neg hgood).trans ((if_neg (by rw [hlive]; decide)).trans ?_))
      show State.completed (s.pegLoad (s.deviceAgent r k) p off).1 r k .success false
        (leBytes 8 (s.pegLoad (s.deviceAgent r k) p off).2.1.toNat) = _
      rw [hload]
  case beyond =>
    cases hreach : s.reach pa with
    | own x m b =>
      rw [hreach] at hbeyond
      cases x with
      | hbm | lpd | t4 | peg => exact absurd hbeyond Bool.false_ne_true
      | t5 | store | mmio | reserved => rfl
    | remote | badAperture => rfl

end Device

/-! ### Completions (R264) -/

section HostAnswer
variable {s : State} {tag st : Nat} {data : List Byte}

theorem hostAnswer_none (h : (s.out.find? fun q => q.tag == tag) = none) : s.hostAnswer tag st data = s := by
  unfold State.hostAnswer
  rw [h]

theorem hostAnswer_otherModule {q : OutReq} {m : Nat} (h : (s.out.find? fun q => q.tag == tag) = some q) (hd : q.dest = .module m) :
    s.hostAnswer tag st data = s := by
  unfold State.hostAnswer
  rw [h]
  dsimp only
  rw [hd]

theorem hostAnswer_found {q : OutReq} {p : Nat} (h : (s.out.find? fun q => q.tag == tag) = some q)
    (hd : q.dest = .host p ∨ q.dest = .t4 p) : s.hostAnswer tag st data = s.answered q st data := by
  unfold State.hostAnswer
  rw [h]
  dsimp only
  rcases hd with hd | hd
  · rw [hd]
  · rw [hd]

end HostAnswer

/-- Settles O47: a device's request is judged in the order of the lemmas above; a completion ends the request as its origin asks. -/
theorem devicesReachTheModule : Obligations.DevicesReachTheModule := by
  unfold Obligations.DevicesReachTheModule
  intro s hp
  refine ⟨?requests, ?completions⟩
  case requests =>
    intro r k id pasid a storage n write ro hin hr hk hn hlen ans go x len ag done refused linked waits page outside
    have hdata : (write.map fun d => (⟨d, ro⟩ : DeviceWrite)).map (·.data) = write := by cases write <;> rfl
    have hwf : (Instr.deviceInboundRequest r k id pasid a storage n (write.map fun d => ⟨d, ro⟩)).wf = true := by
      cases write with
      | none => simp [Instr.wf, okR, okSub, hr, hk, hn]
      | some bs => simp [Instr.wf, okR, okSub, hr, hk, hn, hlen bs rfl]
    have hexec := exec_deviceInboundRequest r k id pasid a storage n (write.map fun d => ⟨d, ro⟩) s hwf hp
    have hdo : s.performIn (.deviceInboundRequest r k id pasid a storage n (write.map fun d => ⟨d, ro⟩)) =
        s.deviceRequest r k id pasid a storage n write := congrArg (s.deviceRequest r k id pasid a storage n) hdata
    have hans {u : State} (h : s.deviceRequest r k id pasid a storage n write = some u) : go = ans u :=
      hexec.trans (congrArg _ (arrive_performed hin (hdo.trans h)))
    have hwaits (h : s.deviceRequest r k id pasid a storage n write = none) : waits :=
      hexec.trans (congrArg _ (arrive_waits hin (hdo.trans h)))
    refine ⟨fun hl => hans (deviceRequest_unlinked hl), fun hl ho => hans (deviceRequest_outside hl ho),
      fun hl hi hh => hwaits (deviceRequest_held hl hi hh), fun hl hi hh hw hz => ?ats, fun hl hi hh hb => ?translated⟩
    case ats =>
      have hentry : s.atsEntry pasid a = leBytes 8 page := by
        simp only [State.atsEntry, page]
        cases s.translate pasid a false <;> rfl
      exact hentry ▸ hans (deviceRequest_ats hl hi hh hw hz)
    case translated =>
      obtain ⟨hxlate, hreaches⟩ := deviceRequest_translated (id := id) hl hi hh hb
      refine ⟨fun ht => hans (hxlate ht), fun pa mt ht => ?_⟩
      obtain ⟨hmemory, hpeg, hbeyond⟩ := hreaches pa mt ht
      have hrefused (h : beyondDevices (s.reach pa) = true) : go = ans (refused stRANGE 3) := hans (hbeyond h)
      refine ⟨fun rr off m b hreach => ?memory, fun p off m b hreach => ?peg, ?_⟩
      case memory =>
        obtain ⟨hwrite, hread⟩ := hmemory rr off m b hreach
        refine ⟨fun bs u st d hw hserve => ?_, fun u st d hw hserve => ?_, fun hww hrw => ?_⟩
        · refine hans ((hwrite bs hw).trans ?_)
          subst hw
          rw [State.deviceAgent, hserve]
          rfl
        · refine hans ((hread hw).trans ?_)
          subst hw
          rw [State.deviceAgent, hserve]
          rfl
        · cases hw : write with
          | none =>
            refine hwaits ((hread hw).trans ?_)
            rw [State.deviceAgent, hrw hw]
            rfl
          | some bs =>
            refine hwaits ((hwrite bs hw).trans ?_)
            rw [State.deviceAgent, hww bs hw]
            rfl
      case peg =>
        obtain ⟨hbad, hgood⟩ := hpeg p off m b hreach
        refine ⟨fun h => hans (hbad h), fun hoff hlen => ?_⟩
        obtain ⟨hstore, hlost, hload⟩ := hgood hoff hlen
        exact ⟨fun bs hw => hans (hstore bs hw), fun hw hdead => hans (hlost hw hdead),
          fun u v bad hw hlive h => hans (hload u v bad hw hlive h)⟩
      exact ⟨fun m b h => hrefused (h ▸ rfl), fun c o m b h => hrefused (h ▸ rfl), fun g m b h => hrefused (h ▸ rfl),
        fun c o m b h => hrefused (h ▸ rfl), fun m o h => hrefused (h ▸ rfl), fun h => hrefused (h ▸ rfl)⟩
  case completions =>
    intro tag st data go
    have hexec : go = .next (s.hostAnswer tag st data) := exec_hostOutboundCompletion tag st data s rfl hp
    refine ⟨fun h => hexec.trans (congrArg _ (hostAnswer_none h)),
      fun q m h hd => hexec.trans (congrArg _ (hostAnswer_otherModule h hd)), fun q p h hd => ?_⟩
    intro u
    have hends {t : State} (ha : s.answered q st data = t) : go = .next t :=
      hexec.trans (congrArg _ ((hostAnswer_found h hd).trans ha))
    refine ⟨fun j ho hposted htrap => ?_, fun j ho hposted hwait hruns hst => ?_, ?_, fun src t meter ho => ?_⟩
    · exact hends (answered_hartWrite ho hposted htrap)
    · subst hst
      exact hends (answered_hartLoad ho hposted hwait hruns)
    · intro hposted kept
      exact ⟨fun b seq ho => hends (answered_gsRead ho hposted), fun r e seq off ho => hends (answered_dmaRead ho hposted)⟩
    · exact hends (answered_passedOn ho)

end Sys2Proof.Machine

/-!
PROOFS. Requests, snoops, evictions, retries and completions at the home of a line (R256, R277 to R291): O32.
-/
namespace Sys2Proof.Machine

theorem Map.erase_set {κ α : Type} [DecidableEq κ] (m : Map κ α) (k : κ) (v : α) : (m.set k v).erase k = m.erase k := by
  simp [Map.set, Map.erase, Map.erase_erase]

/-! ### A line that no cache holds and no transaction uses -/

/-- The home of a line takes requests, and nothing at the home or in memory delays one for the line (R277, R282, R297, R321). -/
structure FreeLine (s : State) (line : Nat) : Prop where
  cacheable : s.cacheable (line * 128) = true
  live : s.regionLive (State.lineHome line) = true
  initDone : s.initDone.contains (State.lineHome line) = true
  tokens : ∀ f, s.heldBy line f = none
  idle : s.lineBusy line = false
  untracked : s.dirOf line = none
  way : s.dirVictim line = none
  home : s.homeStatus (line * 128) = stOK
  trained : s.retraining (line * 128) = false
  encoded : ∀ r, s.patBusy.find r = none
  started : ∀ l x, s.txns.find? (·.line == l) = some x → x.started = true

section FreeLine
variable {s t : State} {line : Nat} {q : CReq}

theorem FreeLine.accepts (hf : FreeLine s line) (credit : Bool) (hn : ∀ k, q ≠ .writeBack k ∧ q ≠ .cleanEvict k) (hb : q ≠ .backInval) :
    ServedAtOnce s line q (s.accept line q credit) :=
  accept_does s line q credit hf.idle hf.untracked hf.way hf.trained hf.encoded hf.started hf.home hn hb

theorem FreeLine.request_full (hf : FreeLine s line) (hfull : 1024 ≤ s.tracked (State.lineHome line)) (q : CReq) :
    s.request line q = s.retry line q none :=
  (request_does s line q hf.cacheable hf.live hf.initDone hf.tokens).trans (if_pos hfull)

theorem FreeLine.request_served (hf : FreeLine s line) (hroom : s.tracked (State.lineHome line) < 1024)
    (hn : ∀ k, q ≠ .writeBack k ∧ q ≠ .cleanEvict k) (hb : q ≠ .backInval) : ServedAtOnce s line q (s.request line q) := by
  rw [request_does s line q hf.cacheable hf.live hf.initDone hf.tokens, if_neg (Nat.not_le.2 hroom)]
  exact hf.accepts false hn hb

theorem FreeLine.withoutRetries (hf : FreeLine s line) : FreeLine { s with retries := [] } line :=
  { hf with home := (homeStatus_congr s { s with retries := [] } _ rfl rfl rfl rfl).trans hf.home }

theorem ServedAtOnce.harts (hs : ServedAtOnce s line q t) : t.harts = s.harts := by
  unfold ServedAtOnce at hs
  obtain ⟨hframe, -⟩ := hs
  rw [hframe]

/-- A served request leaves harts without held stores as they are. -/
theorem ServedAtOnce.settled (hs : ServedAtOnce s line q t) (hidle : ∀ x ∈ s.harts, x.2.stores = [] ∧ x.2.combine = none) :
    t.settleHarts = t :=
  settleHarts_idle t (hs.harts ▸ hidle)

end FreeLine

/-! ### Requests of caches (R149, R281) -/

section CoreRequest
variable {s : State} {k line : Nat} {q : CReq}

theorem makeRoom_room (victim : Option Nat)
    (hroom : (s.caches.filter fun x => x.1.1 == k).length + (s.inFlight k).length < State.cacheWays k) :
    s.makeRoom k line victim = some s := by
  unfold State.makeRoom
  dsimp only
  rw [List.length_map, if_pos hroom]

theorem coreRequest_asks (victim : Option Nat) (hlive : s.hartLive q.who = true) (hcacheable : s.cacheable (line * 128) = true)
    (hmiss : s.cacheOf q.who line = none) (hout : s.evicting.find (q.who, line) = none) (hnew : s.requesting q.who line = false)
    (hroom : s.makeRoom q.who line victim = some s) : s.coreRequest line q victim = s.request line q := by
  unfold State.coreRequest
  simp [hlive, hcacheable, hmiss, hout, hnew, hroom]

end CoreRequest

theorem grant_accepts {s : State} {x : Retried} (hretries : s.retries = [x]) (htxns : s.txns = []) (hdeferrer : x.deferrer = none) :
    s.grant (State.lineHome x.line) x.req.who = ({ s with retries := [] } : State).accept x.line x.req true := by
  unfold State.grant State.oldestRetry
  simp [hretries, htxns, hdeferrer]

/-! ### Directories and caches -/

theorem setDir_frame (s : State) (line : Nat) (d : Option Dir) :
    s.setDir line d = { s with dir := (s.setDir line d).dir, dirOrder := (s.setDir line d).dirOrder } := by
  cases d <;> rfl

theorem dirOf_setDir (s : State) (line : Nat) (d : Option Dir) : (s.setDir line d).dirOf line = d := by
  cases d with
  | none => exact Map.find_erase_self ..
  | some x => exact Map.find_set_self ..

/-- The caches of `k` without a line (R277). -/
def State.withoutCopy (s : State) (k line : Nat) : State :=
  { s with caches := s.caches.erase (k, line), icache := if k < 144 then s.icache.erase (k, line) else s.icache }

theorem dropCopy_eq (s : State) (k line : Nat) : s.dropCopy k line =
    if (s.reserved.find k).any (·.1 == line) then (s.withoutCopy k line).endReservation k else s.withoutCopy k line := by
  unfold State.dropCopy State.withoutCopy State.setCache
  by_cases hk : k < 144
  · simp only [hk, if_true]
  · simp only [hk, if_false]

/-- A line that leaves a cache takes the instruction cache's copy and a reservation on it along (R277). -/
theorem dropCopy_does (s : State) (k line : Nat) : let t := s.dropCopy k line
    t = { s.withoutCopy k line with reserved := t.reserved, retries := t.retries } ∧
    ∀ y, t.reserved.find k = some y → y.1 ≠ line := by
  dsimp only
  rw [dropCopy_eq]
  split
  · refine ⟨rfl, fun y hy => ?_⟩
    have hnone : (s.reserved.erase k).find k = none := Map.find_erase_self ..
    exact absurd (hy.symm.trans hnone) (Option.some_ne_none y)
  · next hkeep =>
    refine ⟨rfl, fun y hy hline => hkeep ?_⟩
    rw [show s.reserved.find k = some y from hy]
    exact beq_iff_eq.2 hline

/-! ### Snoops (R256, R288) -/

section Snoop
variable {s : State} {k : Nat} {x : Txn} {c : CLine}

theorem startAll_noTxns {n : Nat} (h : s.txns = []) : s.startAll n = s :=
  startAll_started n s fun l t hf => absurd hf (by simp [h])

theorem found_only (htxns : s.txns = [x]) : s.txns.find? (·.line == x.line) = some x := by
  simp [htxns]

/-- A deferral ends the transaction with RETRY, but for one that uses a credit (R256, R291). -/
theorem snoop_deferred (htxns : s.txns = [x]) (hstarted : x.started = true) (hwaits : x.waits.contains k = true)
    (hdefers : s.reserved.find k = some (x.line, true)) : s.snoop k x.line = if x.credit = true then s else
      { s.bump (MGMT_COH_RETRIES (State.lineHome x.line)) 1 with
        txns := [], retries := s.retries ++ [{ line := x.line, req := x.req, deferrer := some k }] } := by
  have herase : s.txns.erase x = [] := by simp [htxns]
  unfold State.snoop
  rw [found_only htxns]
  dsimp only
  rw [hstarted, hwaits, if_neg (by decide), if_pos hdefers, herase, startAll_noTxns rfl]
  rfl

theorem snoop_answered (htxns : s.txns = [x]) (hstarted : x.started = true) (hwaits : x.waits.contains k = true)
    (hdefers : s.reserved.find k ≠ some (x.line, true)) : s.snoop k x.line = s.takeAnswer x k := by
  unfold State.snoop
  rw [found_only htxns]
  dsimp only
  rw [hstarted, hwaits, if_neg (by decide), if_neg hdefers]

theorem snoopData_cached {line : Nat} (hc : s.cacheOf k line = some c) :
    s.snoopData k line = if c.state = .shared then none else some (c.line, c.state == .modified) := by
  unfold State.snoopData State.heldCopy
  rw [hc]

/-- A snooped cache gives its copy up, or keeps it shared (Table 8.2). -/
theorem answerSnoop_cached {line : Nat} (hc : s.cacheOf k line = some c) (take : Bool) : s.answerSnoop k line take =
    if take = true then s.dropCopy k line else s.setCache k line (some { c with state := .shared }) := by
  unfold State.answerSnoop
  rw [hc]
  dsimp only
  rw [hc]

/-- What the answer of a snooped cache changes. -/
theorem answerSnoop_does {line : Nat} (hc : s.cacheOf k line = some c) (take : Bool) : let t := s.answerSnoop k line take
    t = { s with caches := t.caches, icache := t.icache, reserved := t.reserved, retries := t.retries } ∧
    t.cacheOf k line = (if take then none else some { c with state := .shared }) ∧
    (take = true → (k < 144 → t.icache.find (k, line) = none) ∧ ∀ y, t.reserved.find k = some y → y.1 ≠ line) := by
  dsimp only
  rw [answerSnoop_cached hc]
  cases take with
  | false => exact ⟨rfl, Map.find_set_self .., fun h => absurd h Bool.false_ne_true⟩
  | true =>
    obtain ⟨hframe, hreserved⟩ := dropCopy_does s k line
    simp only [if_true]
    refine ⟨?_, ?_, fun _ => ⟨fun hk => ?_, hreserved⟩⟩
    · rw [hframe]
      rfl
    · rw [hframe]
      exact Map.find_erase_self ..
    · rw [hframe]
      show (if k < 144 then s.icache.erase (k, line) else s.icache).find (k, line) = none
      rw [if_pos hk, Map.find_erase_self]

/-- The transaction of a snoop once cache `k` has answered it. -/
def answeredBy (s : State) (x : Txn) (k : Nat) : Txn :=
  { x with waits := x.waits.erase k, fwd := (s.snoopData k x.line).or x.fwd }

theorem takeAnswer_frame (s : State) (x : Txn) (k : Nat) : let t := s.takeAnswer x k
    let u := s.answerSnoop k x.line x.req.takes
    t = { u with dir := t.dir, dirOrder := t.dirOrder, txns := replaceFirst x (answeredBy s x k) u.txns } := by
  have hfwd : (match s.snoopData k x.line with | some y => some y | none => x.fwd) = (s.snoopData k x.line).or x.fwd := by
    cases s.snoopData k x.line <;> rfl
  unfold State.takeAnswer answeredBy
  dsimp only
  rw [← hfwd]
  generalize s.answerSnoop k x.line x.req.takes = u
  split
  · split
    · split <;> rfl
    · rfl
  · split
    · split <;> rfl
    · rfl
  · rfl

/-- The owner that hands its line on loses it, or shares it (Table 8.2). -/
theorem takeAnswer_owner {s : State} {x : Txn} {k : Nat} {d : Line × Bool}
    (howner : (s.answerSnoop k x.line x.req.takes).dirOf x.line = some (.excl k)) (hdata : s.snoopData k x.line = some d) :
    (s.takeAnswer x k).dirOf x.line = if x.req.takes then none else some (.shared [k] false) := by
  unfold State.takeAnswer
  dsimp only
  rw [howner, hdata]
  dsimp only
  rw [if_pos rfl, Option.isNone_some, Bool.or_false]
  exact dirOf_setDir ..

/-- What a snoop that is answered changes. -/
theorem takeAnswer_cached (htxns : s.txns = [x]) (hc : s.cacheOf k x.line = some c) : let t := s.takeAnswer x k
    t = { s with caches := t.caches, icache := t.icache, reserved := t.reserved, retries := t.retries, dir := t.dir,
                 dirOrder := t.dirOrder, txns := t.txns } ∧
    t.cacheOf k x.line = (if x.req.takes then none else some { c with state := .shared }) ∧
    (x.req.takes = true → (k < 144 → t.icache.find (k, x.line) = none) ∧ ∀ y, t.reserved.find k = some y → y.1 ≠ x.line) ∧
    (s.dirOf x.line = some (.excl k) → c.state ≠ .shared →
      t.dirOf x.line = if x.req.takes then none else some (.shared [k] false)) ∧
    t.txns = [{ x with waits := x.waits.erase k,
                       fwd := if c.state = .shared then x.fwd else some (c.line, c.state == .modified) }] := by
  have hframe := takeAnswer_frame s x k
  have howner {d : Line × Bool} := takeAnswer_owner (s := s) (x := x) (k := k) (d := d)
  obtain ⟨hanswer, hcopy, htaken⟩ := answerSnoop_does hc x.req.takes
  have hdata := snoopData_cached hc
  obtain ⟨u, hu⟩ : ∃ u, s.answerSnoop k x.line x.req.takes = u := ⟨_, rfl⟩
  obtain ⟨t, ht⟩ : ∃ t, s.takeAnswer x k = t := ⟨_, rfl⟩
  dsimp only at hframe ⊢
  rw [hu] at hframe hanswer hcopy htaken howner
  rw [ht] at hframe howner ⊢
  refine ⟨?_, ?_, fun h => ?_, fun hdir hs => ?_, ?_⟩
  · rw [hframe, hanswer]
  · rw [hframe]
    exact hcopy
  · rw [hframe]
    exact htaken h
  · refine howner ?_ (hdata.trans (if_neg hs))
    rw [hanswer]
    exact hdir
  · have htxnsu : u.txns = [x] := by rw [hanswer]; exact htxns
    rw [hframe, htxnsu, answeredBy, hdata]
    by_cases hs : c.state = .shared <;> simp [replaceFirst, hs]

end Snoop

/-! ### Transactions whose snoops have answered (R284, R285) -/

theorem homeComplete_only {s : State} {x : Txn} (htxns : s.txns = [x]) (hstarted : x.started = true) (hwaits : x.waits = [])
    (hmem : s.memoryHolds x.line = false) :
    s.homeComplete x.line = (({ s with txns := [] } : State).complete x).startAll 3 := by
  have herase : s.txns.erase x = [] := by simp [htxns]
  unfold State.homeComplete
  rw [found_only htxns]
  dsimp only
  rw [hstarted, hwaits, hmem, if_pos (by decide), herase]

theorem serveC2C_frame (s : State) (k line : Nat) (st : CState) (l : Line) : s.serveC2C k line st l =
    { s with regs := (s.serveC2C k line st l).regs, caches := s.caches.set (k, line) ⟨st, l⟩ } := by
  unfold State.serveC2C
  rw [countPoison_frame]
  rfl

theorem complete_uniqueForwarded {s : State} {x : Txn} {k : Nat} {l : Line} {d : Bool} (hq : x.req = .readUnique k)
    (hfwd : x.fwd = some (l, d)) :
    s.complete x = (s.serveC2C k x.line (if d then .modified else .exclusive) l).setDir x.line (some (.excl k)) := by
  unfold State.complete
  rw [hq, hfwd]
  rfl

theorem complete_sharedForwarded {s : State} {x : Txn} {k : Nat} {l : Line} (hq : x.req = .readShared k)
    (hfwd : x.fwd = some (l, false)) : ∃ holders, (s.dirOf x.line = none → holders = []) ∧
    s.complete x = (s.serveC2C k x.line .shared l).setDir x.line (some (State.sharedDir holders k)) := by
  unfold State.complete
  rw [hq, hfwd]
  refine ⟨_, fun hd => ?_, rfl⟩
  rw [hd]

theorem homeComplete_unique {s : State} {x : Txn} {k : Nat} {l : Line} {d : Bool} (htxns : s.txns = [x]) (hstarted : x.started = true)
    (hwaits : x.waits = []) (hmem : s.memoryHolds x.line = false) (hq : x.req = .readUnique k) (hfwd : x.fwd = some (l, d)) :
    s.homeComplete x.line =
      (({ s with txns := [] } : State).serveC2C k x.line (if d then .modified else .exclusive) l).setDir x.line (some (.excl k)) := by
  rw [homeComplete_only htxns hstarted hwaits hmem, complete_uniqueForwarded hq hfwd, startAll_noTxns]
  rw [setDir_frame, serveC2C_frame]

theorem homeComplete_shared {s : State} {x : Txn} {k : Nat} {l : Line} (htxns : s.txns = [x]) (hstarted : x.started = true)
    (hwaits : x.waits = []) (hmem : s.memoryHolds x.line = false) (hq : x.req = .readShared k) (hfwd : x.fwd = some (l, false)) :
    ∃ holders, (s.dirOf x.line = none → holders = []) ∧ s.homeComplete x.line =
      (({ s with txns := [] } : State).serveC2C k x.line .shared l).setDir x.line (some (State.sharedDir holders k)) := by
  obtain ⟨holders, hholders, hdone⟩ := complete_sharedForwarded (s := { s with txns := [] }) hq hfwd
  refine ⟨holders, hholders, ?_⟩
  rw [homeComplete_only htxns hstarted hwaits hmem, hdone, startAll_noTxns]
  rw [setDir_frame, serveC2C_frame]

/-! ### Evictions (R281, R287) -/

/-- The state with a request accepted behind the transactions that its home has. -/
def State.withTxn (u : State) (T : Txn) : State := { u with txns := u.txns ++ [T] }

section Notice
variable {u : State} {T : Txn}

theorem find_withTxn_self (hidle : u.lineBusy T.line = false) : (u.withTxn T).txns.find? (·.line == T.line) = some T := by
  simp [State.withTxn, find_none_of_idle u T.line hidle]

theorem find_withTxn_other {l : Nat} (hl : l ≠ T.line) : (u.withTxn T).txns.find? (·.line == l) = u.txns.find? (·.line == l) := by
  simp [State.withTxn, hl.symm]

theorem erase_withTxn (hidle : u.lineBusy T.line = false) : (u.withTxn T).txns.erase T = u.txns := by
  have habsent : T ∉ u.txns := fun h => by
    have := List.find?_eq_none.1 (find_none_of_idle u T.line hidle) T h
    simp at this
  simp [State.withTxn, List.erase_append_right _ habsent]

variable (hidle : u.lineBusy T.line = false) (hst : ∀ l t, u.txns.find? (·.line == l) = some t → t.started = true)
  (htxns : (u.complete T).txns = u.txns)
include hidle hst htxns

/-- A queued request that waits for nobody completes as soon as it starts. -/
theorem startFirst_withTxn (hnew : T.started = false) (hm : u.memoryHolds T.line = false) (hway : u.needsWay T = none)
    (hneeds : u.needs T.line T.req = []) (n : Nat) : (u.withTxn T).startFirst T.line (n + 1) = u.complete T := by
  have hm' : (u.withTxn T).memoryHolds T.line = false := hm
  have hway' : (u.withTxn T).needsWay T = none := hway
  have hneeds' : (u.withTxn T).needs T.line T.req = [] := hneeds
  unfold State.startFirst
  rw [find_withTxn_self hidle]
  dsimp only
  rw [hnew, hm', if_neg (by decide), hway']
  dsimp only
  rw [if_pos hneeds', erase_withTxn hidle]
  exact startFirst_started (u.complete T) T.line n fun t h => hst T.line t (htxns ▸ h)

/-- A request that writes nothing and waits for nobody completes in the step that accepts it (log 19). -/
theorem startAll_withTxn (hnew : T.started = false) (hm : u.memoryHolds T.line = false) (hway : u.needsWay T = none)
    (hneeds : u.needs T.line T.req = []) (n : Nat) : (u.withTxn T).startAll (n + 1) = u.complete T := by
  have hothers : ∀ l ∈ u.txns.map (·.line), (u.withTxn T).startFirst l ((u.withTxn T).txns.length + 1) = u.withTxn T := by
    intro l hl
    obtain ⟨t, ht, hline⟩ := List.mem_map.1 hl
    have hne : l ≠ T.line := fun h => by
      have := List.find?_eq_none.1 (find_none_of_idle u T.line hidle) t ht
      simp [hline, h] at this
    exact startFirst_started _ l _ fun t' ht' => hst l t' ((find_withTxn_other hne).symm.trans ht')
  unfold State.startAll
  rw [show (u.withTxn T).txns.map (·.line) = u.txns.map (·.line) ++ [T.line] from List.map_append, List.foldl_append,
    foldl_stays (u.txns.map (·.line)) _ _ hothers, List.foldl_cons, List.foldl_nil, startFirst_withTxn hidle hst htxns hnew hm hway hneeds]
  exact startAll_started n _ fun l t h => hst l t (htxns ▸ h)

end Notice

/-- A cache holds a line that its home tracks as its own, and nothing delays the notice of the eviction (R281, R287). -/
structure Evictable (s : State) (k line : Nat) (c : CLine) : Prop where
  cached : s.cacheOf k line = some c
  room : s.evictRoom k = true
  owned : s.dirOf line = some (.excl k)
  cacheable : s.cacheable (line * 128) = true
  live : s.regionLive (State.lineHome line) = true
  initDone : s.initDone.contains (State.lineHome line) = true
  tokens : ∀ f, s.heldBy line f = none
  entries : s.tracked (State.lineHome line) < 1024
  idle : s.lineBusy line = false
  memory : s.memoryHolds line = false
  started : ∀ l x, s.txns.find? (·.line == l) = some x → x.started = true

/-- Line `line` of cache `k` in its eviction buffer. -/
def State.leaving (s : State) (k line : Nat) (c : CLine) : State :=
  { s.dropCopy k line with evicting := s.evicting.set (k, line) c }

section Evict
variable {s : State} {k line : Nat} {c : CLine}

theorem leaving_frame (s : State) (k line : Nat) (c : CLine) : let w := s.leaving k line c
    w = { s.withoutCopy k line with evicting := s.evicting.set (k, line) c, reserved := w.reserved, retries := w.retries } :=
  congrArg (fun z : State => { z with evicting := s.evicting.set (k, line) c }) (dropCopy_does s k line).1

theorem evict_requests (he : Evictable s k line c) (hs : c.state ≠ .shared) : s.evict k line c.state =
    (s.leaving k line c).request line (if c.state = .modified then .writeBack k else .cleanEvict k) := by
  have hframe := (dropCopy_does s k line).1
  have hlive : (s.dropCopy k line).regionLive (State.lineHome line) = true := by
    rw [hframe]
    exact he.live
  have hevicting : (s.dropCopy k line).evicting = s.evicting := by rw [hframe]; rfl
  unfold State.evict
  rw [he.cached]
  dsimp only
  rw [if_pos ⟨rfl, hs, he.room⟩, hlive, hevicting]
  rfl

theorem leaving_evictable {q : CReq} (he : Evictable s k line c) (hw : q.writes = false)
    (hway : (s.leaving k line c).needsWay { line := line, req := q } = none) (hneeds : (s.leaving k line c).needs line q = [])
    (htxns : ((s.leaving k line c).complete { line := line, req := q }).txns = s.txns) :
    (s.leaving k line c).request line q = (s.leaving k line c).complete { line := line, req := q } := by
  obtain ⟨w, hwf⟩ : ∃ w, s.leaving k line c = w := ⟨_, rfl⟩
  have hframe := leaving_frame s k line c
  dsimp only at hframe
  rw [hwf] at hway hneeds htxns hframe ⊢
  have hsame : w.txns = s.txns := by rw [hframe]; rfl
  have haccept : w.accept line q false = (w.withTxn { line := line, req := q }).startAll 3 := by
    unfold State.accept
    rw [hw]
    rfl
  have hcacheable : w.cacheable (line * 128) = true := by rw [hframe]; exact he.cacheable
  have hlive : w.regionLive (State.lineHome line) = true := by rw [hframe]; exact he.live
  have hinit : w.initDone.contains (State.lineHome line) = true := by rw [hframe]; exact he.initDone
  have htokens : ∀ f, w.heldBy line f = none := by rw [hframe]; exact he.tokens
  have hentries : w.tracked (State.lineHome line) < 1024 := by rw [hframe]; exact he.entries
  have hidle : w.lineBusy line = false := by rw [hframe]; exact he.idle
  have hmemory : w.memoryHolds line = false := by rw [hframe]; exact he.memory
  rw [request_does w line q hcacheable hlive hinit htokens, if_neg (Nat.not_le.2 hentries), haccept]
  exact startAll_withTxn hidle (hsame ▸ he.started) (htxns.trans hsame.symm) rfl hmemory hway hneeds 2

/-- A write-back that its home still tracks is stored, and its eviction buffer entry and directory entry go (R287). -/
theorem complete_writeBack {v : State} (howned : v.dirOf line = some (.excl k)) (hbuffer : v.evicting.find (k, line) = some c)
    (hs : c.state ≠ .shared) (hgone : v.cacheOf k line = none) : v.complete { line := line, req := .writeBack k } =
      (({ v with evicting := v.evicting.erase (k, line) } : State).homeStore (requester v.moduleId k) line c.line).setDir line none := by
  unfold State.complete
  dsimp only
  rw [howned, hbuffer]
  dsimp only
  rw [if_pos ⟨rfl, hs, by rw [hgone]; rfl⟩]
  rfl

theorem complete_cleanEvict {v : State} (howned : v.dirOf line = some (.excl k)) (hgone : v.cacheOf k line = none) :
    v.complete { line := line, req := .cleanEvict k } =
      ({ v with evicting := v.evicting.erase (k, line) } : State).setDir line none := by
  unfold State.complete
  dsimp only
  rw [howned]
  dsimp only
  rw [if_pos ⟨rfl, by rw [hgone]; rfl⟩]

/-- What the eviction of a line leaves of the other copies, the directory and the reservation (R277, R281). -/
def Untracked (s : State) (k line : Nat) (t : State) : Prop :=
  t.icache = (if k < 144 then s.icache.erase (k, line) else s.icache) ∧ t.dir = s.dir.erase line ∧
  t.dirOrder = s.dirOrder.erase line ∧ ∀ x, t.reserved.find k = some x → x.1 ≠ line

/-- The state once line `line` of cache `k` has left its eviction buffer too. -/
def State.left (s : State) (k line : Nat) (c : CLine) : State :=
  { s.leaving k line c with evicting := (s.leaving k line c).evicting.erase (k, line) }

theorem left_frame (s : State) (k line : Nat) (c : CLine) : let v := s.left k line c
    v = { s.withoutCopy k line with evicting := s.evicting.erase (k, line), reserved := v.reserved, retries := v.retries } := by
  refine (congrArg (fun z : State => { z with evicting := z.evicting.erase (k, line) }) (leaving_frame s k line c)).trans ?_
  dsimp only
  rw [Map.erase_set]
  rfl

theorem left_reserved (s : State) (k line : Nat) (c : CLine) : ∀ x, (s.left k line c).reserved.find k = some x → x.1 ≠ line :=
  (dropCopy_does s k line).2

theorem leaving_tracked (he : Evictable s k line c) : (s.leaving k line c).dirOf line = some (.excl k) ∧
    (s.leaving k line c).evicting.find (k, line) = some c ∧ (s.leaving k line c).cacheOf k line = none := by
  rw [leaving_frame]
  exact ⟨he.owned, Map.find_set_self .., Map.find_erase_self ..⟩

theorem cleanEvict_does (he : Evictable s k line c) (hs : c.state = .exclusive) : let t := s.evict k line .exclusive
    t = { s with caches := s.caches.erase (k, line), evicting := s.evicting.erase (k, line), dir := t.dir,
                 dirOrder := t.dirOrder, icache := t.icache, reserved := t.reserved, retries := t.retries } ∧ Untracked s k line t := by
  obtain ⟨howned, hbuffer, hgone⟩ := leaving_tracked he
  have hdone := complete_cleanEvict howned hgone
  have hframe := left_frame s k line c
  have hevict : s.evict k line .exclusive = (s.left k line c).setDir line none := by
    rw [← hs, evict_requests he (by rw [hs]; decide), if_neg (by rw [hs]; decide), leaving_evictable he rfl rfl rfl, hdone]
    · rfl
    · rw [hdone, setDir_frame]
      show (s.left k line c).txns = s.txns
      rw [hframe]
      rfl
  have hreserved := left_reserved s k line c
  obtain ⟨v, hv⟩ : ∃ v, s.left k line c = v := ⟨_, rfl⟩
  dsimp only at hframe ⊢
  rw [hv] at hframe hevict hreserved
  rw [hevict]
  refine ⟨?_, ?_, ?_, ?_, hreserved⟩
  all_goals
    rw [hframe]
    rfl

theorem writeBack_does (he : Evictable s k line c) (hs : c.state = .modified) (hhome : s.homeStatus (line * 128) = stOK) :
    let t := s.evict k line .modified
    t = { s with mem := (s.putLine line c.line).mem, poison := (s.putLine line c.line).poison,
                 slc := (s.slcFill line true).slc, slcDirty := (s.slcFill line true).slcDirty,
                 freeCount := (s.slcFill line true).freeCount, buckets := t.buckets, caches := s.caches.erase (k, line),
                 evicting := s.evicting.erase (k, line), dir := t.dir, dirOrder := t.dirOrder, icache := t.icache,
                 reserved := t.reserved, retries := t.retries } ∧ Untracked s k line t := by
  obtain ⟨howned, hbuffer, hgone⟩ := leaving_tracked he
  have hdone := complete_writeBack howned hbuffer (by rw [hs]; decide) hgone
  have hframe := left_frame s k line c
  have hreserved := left_reserved s k line c
  obtain ⟨v, hv⟩ : ∃ v, s.left k line c = v := ⟨_, rfl⟩
  obtain ⟨ag, hag⟩ : ∃ ag, requester (s.leaving k line c).moduleId k = ag := ⟨_, rfl⟩
  dsimp only at hframe ⊢
  rw [hv] at hframe hreserved
  rw [hag, show ({ s.leaving k line c with evicting := (s.leaving k line c).evicting.erase (k, line) } : State) = v from hv] at hdone
  have hplaces : v.hbm = s.hbm ∧ v.lpd = s.lpd ∧ v.groups = s.groups ∧ v.lostRegions = s.lostRegions := by
    rw [hframe]
    exact ⟨rfl, rfl, rfl, rfl⟩
  obtain ⟨hhbm, hlpd, hgroups, hlost⟩ := hplaces
  have hhome' : v.homeStatus (line * 128) = stOK := (homeStatus_congr s v _ hhbm hlpd hgroups hlost).trans hhome
  have hstored := write_does v line c.line ag hhome'
  obtain ⟨hmem, hpoison⟩ := putLine_congr s v line c.line (by rw [hframe]; rfl) (by rw [hframe]; rfl)
  obtain ⟨hslc, hdirty, hfree⟩ := slcFill_congr s v line true (by rw [hframe]; rfl) (by rw [hframe]; rfl) (by rw [hframe]; rfl)
  rw [hmem, hpoison, hslc, hdirty, hfree] at hstored
  -- the stored values stay opaque from here on
  generalize (s.putLine line c.line).mem = mem, (s.putLine line c.line).poison = poison, (s.slcFill line true).slc = slc,
    (s.slcFill line true).slcDirty = slcDirty, (s.slcFill line true).freeCount = freeCount at hstored ⊢
  obtain ⟨y, hy⟩ : ∃ y, v.homeStore ag line c.line = y := ⟨_, rfl⟩
  rw [hy] at hstored hdone
  have hevict : s.evict k line .modified = y.setDir line none := by
    rw [← hs, evict_requests he (by rw [hs]; decide), if_pos hs, leaving_evictable he rfl rfl rfl, hdone]
    rw [hdone, setDir_frame]
    show y.txns = s.txns
    rw [hstored, hframe]
    rfl
  rw [hevict]
  refine ⟨?_, ?_, ?_, ?_, ?_⟩
  · rw [hstored, hframe]
    rfl
  · rw [hstored, hframe]
    rfl
  · rw [hstored, hframe]
    rfl
  · rw [hstored, hframe]
    rfl
  · rw [hstored]
    exact hreserved

end Evict

/-- Settles O32: each command is one of the operations above, on a state that no hart's held store moves on. -/
theorem linesAreServedByTheirHome : Obligations.LinesAreServedByTheirHome := by
  unfold Obligations.LinesAreServedByTheirHome
  refine ⟨?requests, ?snoops, ?completions, ?evictions, ?ends⟩
  case requests =>
    intro s line hp hcacheable hlive hinit htokens hidle huntracked hway hhome htrained hencoded hstarted
    have hf : FreeLine s line := ⟨hcacheable, hlive, hinit, htokens, hidle, huntracked, hway, hhome, htrained, hencoded, hstarted⟩
    refine ⟨fun hroom => ⟨?caches, ?engines⟩, fun hfull p hreq => ?full, ?grants⟩
    case caches =>
      intro k hk hhart hmiss hout hnew hharts hset
      have hserved {q : CReq} (hwho : q.who = k) (hn : ∀ k, q ≠ .writeBack k ∧ q ≠ .cleanEvict k) (hb : q ≠ .backInval) (v : Option Nat) :
          ServedAtOnce s line q ((s.coreRequest line q v).settleHarts) := by
        subst hwho
        have hdone := hf.request_served hroom hn hb
        rw [coreRequest_asks v hhart hcacheable hmiss hout hnew (makeRoom_room v hset), hdone.settled hharts]
        exact hdone
      exact ⟨fun v => ⟨_, exec_readShared k line v s (decide_eq_true hk) hp, hserved rfl (by simp) (by simp) v⟩,
        fun v => ⟨_, exec_readUnique k line v s (decide_eq_true hk) hp, hserved rfl (by simp) (by simp) v⟩,
        fun v => ⟨_, exec_upgrade k line v s (decide_eq_true hk) hp, hserved rfl (by simp) (by simp) v⟩⟩
    case engines =>
      intro p hreq
      have hreq' : okReq p = true := decide_eq_true hreq
      refine ⟨⟨_, exec_engineRead p line s hreq' hp, hf.request_served hroom (by simp) (by simp)⟩, fun d m hd => ?_,
        fun off size op v hsize halign hoff => ?_⟩
      · have hdata : (okReq p && d.length == 128) = true := by rw [hreq', hd]; rfl
        exact ⟨⟨_, exec_engineWrite p line d s hdata hp, hf.request_served hroom (by simp) (by simp)⟩,
          ⟨_, exec_engineMaskedWrite p line d m s hdata hp, hf.request_served hroom (by simp) (by simp)⟩⟩
      · have hwf : (okReq p && okWide size && off % size == 0 && decide (off < 128)) = true := by simp [hreq', hsize, halign, hoff]
        exact ⟨_, exec_engineAtomic p line off size op v s hwf hp, hf.request_served hroom (by simp) (by simp)⟩
    case full =>
      rw [exec_engineRead p line s (decide_eq_true hreq) hp, hf.request_full hfull]
      rfl
    case grants =>
      intro x hline hdeferrer hwho hn hretries htxns hharts
      subst hline
      have hb : x.req ≠ .backInval := fun h => by
        rw [h] at hwho
        exact absurd hwho (by decide)
      have hdone := hf.withoutRetries.accepts true hn hb
      have hwf : (okR (State.lineHome x.line) && okReq x.req.who) = true :=
        Bool.and_eq_true_iff.2 ⟨decide_eq_true (live_lt hlive), decide_eq_true hwho⟩
      refine ⟨_, exec_grant _ _ s hwf hp, ?_⟩
      rw [grant_accepts hretries htxns hdeferrer, hdone.settled hharts]
      exact hdone
  case snoops =>
    intro s k line x c hp hk htxns hline hstarted hwaits hharts
    subst hline
    have hexec := exec_snoop k x.line s (decide_eq_true hk) hp
    refine ⟨fun hdefers => ?deferred, fun hdefers hcached => ?answered⟩
    case deferred =>
      rw [hexec, snoop_deferred htxns hstarted hwaits hdefers]
      split
      · rw [settleHarts_idle s hharts]
      · exact congrArg _ (settleHarts_idle _ hharts)
    case answered =>
      have hdoes := takeAnswer_cached htxns hcached
      refine ⟨_, hexec.trans (congrArg _ ?_), hdoes⟩
      rw [snoop_answered htxns hstarted hwaits hdefers, settleHarts_idle]
      rw [hdoes.1]
      exact hharts
  case completions =>
    intro s k line x l d hp htxns hline hstarted hwaits hfwd hmem hharts
    subst hline
    have hexec := exec_homeTransactionComplete x.line s rfl hp
    refine ⟨fun hq => ?unique, fun hq hclean => ?shared⟩
    case unique =>
      have hdone := homeComplete_unique htxns hstarted hwaits hmem hq hfwd
      rw [serveC2C_frame] at hdone
      refine ⟨_, hexec.trans (congrArg _ ((congrArg State.settleHarts hdone).trans (settleHarts_idle _ hharts))), rfl, rfl⟩
    case shared =>
      subst hclean
      obtain ⟨holders, hholders, hdone⟩ := homeComplete_shared htxns hstarted hwaits hmem hq hfwd
      rw [serveC2C_frame] at hdone
      refine ⟨_, hexec.trans (congrArg _ ((congrArg State.settleHarts hdone).trans (settleHarts_idle _ hharts))), rfl, fun hdir => ?_⟩
      rw [dirOf_setDir, hholders hdir]
      rfl
  case evictions =>
    intro s k line c hp hk hcached hroom hlive howned hidle hentries hmem hstarted hharts hcacheable hinit htokens untracked
    have he : Evictable s k line c := ⟨hcached, decide_eq_true hroom, howned, hcacheable, hlive, hinit, htokens, hentries, hidle, hmem, hstarted⟩
    refine ⟨fun hs hhome => ?_, fun hs => ?_⟩
    · obtain ⟨hframe, huntracked⟩ := writeBack_does he hs hhome
      refine ⟨_, (exec_writeBack k line s (decide_eq_true hk) hp).trans (congrArg _ (settleHarts_idle _ ?_)), hframe, huntracked⟩
      rw [hframe]
      exact hharts
    · obtain ⟨hframe, huntracked⟩ := cleanEvict_does he hs
      refine ⟨_, (exec_cleanEvict k line s (decide_eq_true hk) hp).trans (congrArg _ (settleHarts_idle _ ?_)), hframe, huntracked⟩
      rw [hframe]
      exact hharts
  case ends =>
    intro s r hp hr
    refine ⟨exec_scrubDone r s (decide_eq_true hr) hp, fun hlive hinit => ?_⟩
    rw [exec_invalidationDone r s (decide_eq_true hr) hp, State.invalidationDone, hlive, hinit]
    rfl

end Sys2Proof.Machine

/-!
PROOFS. The canonical form of memory along a step (R276, R294): O4.
-/
namespace Sys2Proof.Machine

/-- A step with a command at the front of the queue is that command's execution on the rest of the queue. -/
theorem step_of_front {s : State} {c : Instr} {rest : List Instr} (h : s.pending = c :: rest) :
    step s = exec c { s with pending := rest } := by
  rw [step, h]

/-- A step on an empty queue is a tick. -/
theorem step_of_idle {s : State} (h : s.pending = []) : step s = .next s.tick := by
  rw [step, h]

/-- Settles O4: a step is one command, which keeps the form by `exec_keeps`, or a tick, which keeps it by `State.tick_keeps`. -/
theorem memoryStaysCanonical : Obligations.MemoryStaysCanonical := by
  unfold Obligations.MemoryStaysCanonical
  intro s t hm h
  cases hq : s.pending with
  | nil =>
    rw [step_of_idle hq] at h
    cases h
    have hk : Keeps True s s.tick := State.tick_keeps s Keeps.refl
    exact hk.mem hm
  | cons c rest =>
    rw [step_of_front hq] at h
    have hk : Keeps (setsFret c = false) { s with pending := rest } t := exec_keeps c _ t h
    exact hk.mem hm

end Sys2Proof.Machine

/-!
PROOFS. The commands of the placement attribute table, and a token refill (R315 to R318, R321, R322, R331): O34.
-/
namespace Sys2Proof.Machine

/-! ### The table's commands (R316, R317) -/

/-- A command whose index lies past its table ends with RANGE. -/
theorem patStatus_pastTable {s : State} {r : Nat} {c : PatCmd}
    (hpast : (if c.cmd.getLsbD 2 then 65536 else 4489216) ≤ bits c.cmd 31 8) : s.patStatus r c = stRANGE := by
  have hoff : ¬ bits c.cmd 31 8 < if bit c.cmd 2 then 65536 else 4489216 := Nat.not_lt.2 hpast
  unfold State.patStatus
  simp [firstCode, hoff, Nat.le_of_not_lt hoff]

/-- The effect of a command with RBQ clear is on the PAT, or on the data words. -/
theorem patApply_pat {s : State} {r : Nat} {c : PatCmd} (hpat : c.cmd.getLsbD 2 = false) :
    let op := bits c.cmd 1 0
    let i := bits c.cmd 31 8
    let e := s.patEntry r i
    (op = 0 → s.patApply r c = (s.setReg (MGMT_PAT_DATA0 r) (e.setWidth 64)).setReg (MGMT_PAT_DATA1 r) ((e >>> 64).setWidth 64)) ∧
    (op = 1 → s.patApply r c =
      { s with pat := s.pat.set (r, i) ((setBits c.d0 5 5 0).setWidth 128 ||| (c.d1.setWidth 128 <<< 64)) }) ∧
    (op = 2 → s.patApply r c = { s with pat := s.pat.set (r, i) (e ||| 32) }) ∧
    (op = 3 → s.patApply r c = { s with pat := s.pat.set (r, i) (e &&& ~~~32#128) }) := by
  intro op i e
  refine ⟨fun hop => ?_, fun hop => ?_, fun hop => ?_, fun hop => ?_⟩
  all_goals
    have hbits : bits c.cmd 1 0 = _ := hop
    unfold State.patApply bit
    rw [hpat, hbits]
    rfl

/-- The effect of a command with RBQ set is on the remote bisque table, or on the data words. -/
theorem patApply_rbq {s : State} {r : Nat} {c : PatCmd} (hrbq : c.cmd.getLsbD 2 = true) :
    let op := bits c.cmd 1 0
    let i := bits c.cmd 31 8
    let q := s.rbq.get (0, 0, 0) (r, i)
    (op = 0 → s.patApply r c =
      ((s.setReg (MGMT_PAT_DATA0 r) q.1).setReg (MGMT_PAT_DATA1 r) q.2.1).setReg (MGMT_PAT_DATA2 r) q.2.2) ∧
    (op = 1 → s.patApply r c = { s with rbq := s.rbq.set (r, i) (setBits c.d0 5 5 0, c.d1, c.d2) }) ∧
    (op = 2 → s.patApply r c = { s with rbq := s.rbq.set (r, i) (setBits q.1 5 5 1, q.2.1, q.2.2) }) ∧
    (op = 3 → s.patApply r c = { s with rbq := s.rbq.set (r, i) (setBits q.1 5 5 0, q.2.1, q.2.2) }) := by
  intro op i q
  refine ⟨fun hop => ?_, fun hop => ?_, fun hop => ?_, fun hop => ?_⟩
  all_goals
    have hbits : bits c.cmd 1 0 = _ := hop
    unfold State.patApply bit
    rw [hrbq, hbits]
    rfl

theorem patApply_txns (s : State) (r : Nat) (c : PatCmd) : (s.patApply r c).txns = s.txns := by
  unfold State.patApply
  dsimp only
  split <;> split <;> rfl

section
variable {s : State} {r : Nat} {c : PatCmd} (hbusy : s.patBusy.find r = some c)
  (hstarted : ∀ l x, s.txns.find? (·.line == l) = some x → x.started = true)
include hbusy hstarted

/-- Where no transaction waits, the end of a command starts none. -/
theorem patDone_busy : s.patDone r =
    (if s.patStatus r c = stOK then ({ s with patBusy := s.patBusy.erase r } : State).patApply r c
      else { s with patBusy := s.patBusy.erase r }).setReg (MGMT_PAT_STATUS r) (w64 (s.patStatus r c)) := by
  unfold State.patDone
  rw [hbusy]
  refine startAll_started 3 _ ?_
  split
  · rw [State.setReg_txns, patApply_txns]
    exact hstarted
  · exact hstarted

theorem patDone_ok (hok : s.patStatus r c = stOK) : s.patDone r =
    (({ s with patBusy := s.patBusy.erase r } : State).patApply r c).setReg (MGMT_PAT_STATUS r) (w64 stOK) := by
  rw [patDone_busy hbusy hstarted, if_pos hok, hok]

theorem patDone_failed {st : Nat} (hst : s.patStatus r c = st) (hfail : st ≠ stOK) : s.patDone r =
    ({ s with patBusy := s.patBusy.erase r } : State).setReg (MGMT_PAT_STATUS r) (w64 st) := by
  rw [patDone_busy hbusy hstarted, hst, if_neg hfail]

end

/-! ### A bucket at a refill (R321, R322) -/

/-- What a bucket of `n` tokens holds after a refill under a configuration: RATE more, up to BURST. -/
def refilledLevel (cfg : W64) (n : Nat) : Nat :=
  if bits cfg 11 0 = 0 then n else min (bits cfg 31 12) (n + bits cfg 11 0)

/-- The register that configures bucket `i` of a region. -/
def bucketCfg (r i : Nat) : Reg := MGMT_REG_CFG r (i / 8) (i % 8)

theorem bucketCfg_inj {r i j : Nat} (h : bucketCfg r i = bucketCfg r j) : i = j := by
  have e : (r * 0x100000000 + (0xA60000 + (i / 8 * 8 + i % 8) * 16) : Nat) =
    r * 0x100000000 + (0xA60000 + (j / 8 * 8 + j % 8) * 16) := h
  omega

/-- A waiting configuration of a bucket takes effect and clips it to the new BURST. -/
def State.configure (s : State) (r i : Nat) : State :=
  match s.regNext.find (r, i) with
  | some v =>
    ({ s with regNext := s.regNext.erase (r, i), buckets := s.buckets.set (r, i) (min (s.buckets.get 0 (r, i)) (bits v 31 12)) } :
      State).setReg (bucketCfg r i) v
  | none => s

/-- RATE tokens are added to a bucket, up to BURST. -/
def State.addTokens (s : State) (r i : Nat) : State :=
  let cfg := s.reg (bucketCfg r i)
  if bits cfg 11 0 = 0 then s
  else { s with buckets := s.buckets.set (r, i) (min (bits cfg 31 12) (s.buckets.get 0 (r, i) + bits cfg 11 0)) }

theorem refillBucket_eq (s : State) (r i : Nat) : s.refillBucket r i = (s.configure r i).addTokens r i := rfl

/-- A refill writes only configuration registers, waiting configurations and buckets. -/
def RefillOnly (s t : State) : Prop := t = { s with regs := t.regs, regNext := t.regNext, buckets := t.buckets }

theorem RefillOnly.trans {s t u : State} (h : RefillOnly s t) (h' : RefillOnly t u) : RefillOnly s u := by
  unfold RefillOnly at h h' ⊢
  rw [h] at h'
  exact h'

theorem RefillOnly.nocHeld {s t : State} (h : RefillOnly s t) : t.nocHeld = s.nocHeld := by
  unfold RefillOnly at h
  rw [h]

theorem RefillOnly.freeCount {s t : State} (h : RefillOnly s t) : t.freeCount = s.freeCount := by
  unfold RefillOnly at h
  rw [h]

theorem configure_only (s : State) (r i : Nat) : RefillOnly s (s.configure r i) := by
  unfold State.configure
  split <;> rfl

theorem addTokens_frame (s : State) (r i : Nat) : s.addTokens r i = { s with buckets := (s.addTokens r i).buckets } := by
  unfold State.addTokens
  dsimp only
  split <;> rfl

theorem addTokens_only (s : State) (r i : Nat) : RefillOnly s (s.addTokens r i) := by
  rw [addTokens_frame]
  rfl

theorem refillBucket_only (s : State) (r i : Nat) : RefillOnly s (s.refillBucket r i) :=
  (configure_only s r i).trans (addTokens_only _ r i)

theorem addTokens_regNext (s : State) (r i : Nat) : (s.addTokens r i).regNext = s.regNext := by rw [addTokens_frame]

theorem addTokens_reg (s : State) (r i : Nat) (g : Reg) : (s.addTokens r i).reg g = s.reg g := by
  rw [addTokens_frame]
  rfl

theorem addTokens_self (s : State) (r i : Nat) :
    (s.addTokens r i).buckets.get 0 (r, i) = refilledLevel (s.reg (bucketCfg r i)) (s.buckets.get 0 (r, i)) := by
  unfold State.addTokens refilledLevel
  dsimp only
  split
  · rfl
  · exact Map.get_set_self ..

theorem addTokens_other (s : State) (r i : Nat) {k : Nat × Nat} (hk : k ≠ (r, i)) :
    (s.addTokens r i).buckets.get 0 k = s.buckets.get 0 k := by
  unfold State.addTokens
  dsimp only
  split
  · rfl
  · exact Map.get_set_ne _ _ _ hk

theorem configure_settled {s : State} {r i : Nat} (hnext : s.regNext.find (r, i) = none) : s.configure r i = s := by
  unfold State.configure
  rw [hnext]

theorem configure_waiting {s : State} {r i : Nat} {v : W64} (hnext : s.regNext.find (r, i) = some v) :
    (s.configure r i).reg (bucketCfg r i) = v ∧
      (s.configure r i).buckets.get 0 (r, i) = min (s.buckets.get 0 (r, i)) (bits v 31 12) := by
  unfold State.configure
  rw [hnext]
  exact ⟨State.reg_setReg_self .., Map.get_set_self ..⟩

/-- No configuration waits for a bucket once one took effect. -/
theorem configure_regNext (s : State) (r i : Nat) : (s.configure r i).regNext.find (r, i) = none := by
  unfold State.configure
  split
  case h_1 => exact Map.find_erase_self ..
  case h_2 hnext => exact hnext

/-- From `s` to `t`, bucket `i` of a region was refilled once. -/
def BucketRefilled (r i : Nat) (s t : State) : Prop :=
  t.regNext.find (r, i) = none ∧
  (s.regNext.find (r, i) = none → t.reg (bucketCfg r i) = s.reg (bucketCfg r i) ∧
    t.buckets.get 0 (r, i) = refilledLevel (s.reg (bucketCfg r i)) (s.buckets.get 0 (r, i))) ∧
  ∀ v, s.regNext.find (r, i) = some v → t.reg (bucketCfg r i) = v ∧
    t.buckets.get 0 (r, i) = refilledLevel v (min (s.buckets.get 0 (r, i)) (bits v 31 12))

/-- Two states hold the same bucket `i` of a region. -/
def SameBucket (r i : Nat) (s t : State) : Prop :=
  t.regNext.find (r, i) = s.regNext.find (r, i) ∧ t.reg (bucketCfg r i) = s.reg (bucketCfg r i) ∧
    t.buckets.get 0 (r, i) = s.buckets.get 0 (r, i)

theorem SameBucket.trans {r i : Nat} {s t u : State} (h : SameBucket r i s t) (h' : SameBucket r i t u) : SameBucket r i s u := by
  obtain ⟨hnext, hreg, hlevel⟩ := h
  obtain ⟨hnext', hreg', hlevel'⟩ := h'
  exact ⟨hnext'.trans hnext, hreg'.trans hreg, hlevel'.trans hlevel⟩

theorem BucketRefilled.then_same {r i : Nat} {s t u : State} (h : BucketRefilled r i s t) (h' : SameBucket r i t u) :
    BucketRefilled r i s u := by
  obtain ⟨hnext, hreg, hlevel⟩ := h'
  unfold BucketRefilled
  rw [hnext, hreg, hlevel]
  exact h

theorem SameBucket.then_refilled {r i : Nat} {s t u : State} (h : SameBucket r i s t) (h' : BucketRefilled r i t u) :
    BucketRefilled r i s u := by
  obtain ⟨hnext, hreg, hlevel⟩ := h
  unfold BucketRefilled at h'
  rw [hnext, hreg, hlevel] at h'
  exact h'

theorem refillBucket_self (s : State) (r i : Nat) : BucketRefilled r i s (s.refillBucket r i) := by
  rw [refillBucket_eq]
  unfold BucketRefilled
  rw [addTokens_regNext, addTokens_reg, addTokens_self]
  refine ⟨configure_regNext s r i, fun hnone => ?_, fun v hnext => ?_⟩
  · rw [configure_settled hnone]
    exact ⟨rfl, rfl⟩
  · obtain ⟨hreg, hclip⟩ := configure_waiting hnext
    rw [hreg, hclip]
    exact ⟨rfl, rfl⟩

theorem configure_other (s : State) (r : Nat) {i j : Nat} (hij : i ≠ j) : SameBucket r i s (s.configure r j) := by
  have hkey : (r, i) ≠ (r, j) := fun h => hij (Prod.mk.inj h).2
  unfold State.configure
  split
  · exact ⟨Map.find_erase_ne _ hkey, State.reg_setReg_ne _ _ fun h => hij (bucketCfg_inj h), Map.get_set_ne _ _ _ hkey⟩
  · exact ⟨rfl, rfl, rfl⟩

theorem refillBucket_other (s : State) (r : Nat) {i j : Nat} (hij : i ≠ j) : SameBucket r i s (s.refillBucket r j) := by
  have hkey : (r, i) ≠ (r, j) := fun h => hij (Prod.mk.inj h).2
  have hadd (u : State) : SameBucket r i u (u.addTokens r j) :=
    ⟨by rw [addTokens_regNext], addTokens_reg .., addTokens_other u r j hkey⟩
  exact (configure_other s r hij).trans (hadd _)

/-! ### The buckets of a region -/

/-- The refill of some buckets of a region. -/
def State.refillBuckets (s : State) (r : Nat) (l : List Nat) : State := l.foldl (fun s i => s.refillBucket r i) s

theorem tokenRefill_eq (s : State) (r : Nat) : s.tokenRefill r = (s.refillBuckets r (List.range 24)).offerHeld r := rfl

theorem refillBuckets_only (r : Nat) (l : List Nat) (s : State) : RefillOnly s (s.refillBuckets r l) := by
  induction l generalizing s with
  | nil => rfl
  | cons j l ih => exact (refillBucket_only s r j).trans (ih _)

theorem refillBuckets_other {r i : Nat} {l : List Nat} (hi : i ∉ l) (s : State) : SameBucket r i s (s.refillBuckets r l) := by
  induction l generalizing s with
  | nil => exact ⟨rfl, rfl, rfl⟩
  | cons j l ih =>
    obtain ⟨hij, hil⟩ := List.ne_and_not_mem_of_not_mem_cons hi
    exact (refillBucket_other s r hij).trans (ih hil _)

theorem refillBuckets_self {r i : Nat} {l : List Nat} (hl : l.Nodup) (hi : i ∈ l) (s : State) :
    BucketRefilled r i s (s.refillBuckets r l) := by
  induction l generalizing s with
  | nil => cases hi
  | cons j l ih =>
    obtain ⟨hj, hl⟩ := List.nodup_cons.1 hl
    by_cases hij : i = j
    · subst hij
      exact (refillBucket_self s r i).then_same (refillBuckets_other hj _)
    · exact (refillBucket_other s r hij).then_refilled (ih hl (List.mem_of_ne_of_mem hij hi) _)

/-! ### The requests that the NoC holds (R278, R321) -/

theorem offerHeld_elsewhere {s : State} {r : Nat} (haway : ∀ x ∈ s.nocHeld, State.lineHome x.1 ≠ r) : s.offerHeld r = s := by
  have hmine : (s.nocHeld.filter fun x => State.lineHome x.1 == r) = [] :=
    List.filter_eq_nil_iff.2 fun x hx => by rw [beq_iff_eq]; exact haway x hx
  unfold State.offerHeld
  dsimp only
  rw [hmine]
  rfl

section
variable {s : State} {r line : Nat} {q : CReq} (hheld : s.nocHeld = [(line, q)]) (hhome : State.lineHome line = r)
include hheld hhome

theorem offerHeld_admitted (htokens : s.heldBy line q.allocates = none) :
    s.offerHeld r = ({ s with nocHeld := [] } : State).offer line q := by
  unfold State.offerHeld
  simp [hheld, hhome, htokens]

theorem offerHeld_waits {x : Nat} (htokens : s.heldBy line q.allocates = some x) : s.offerHeld r =
    (s.bump (MGMT_REG_WAIT r x (s.partitionOf (line * 128))) (Config.waitCycles s.freeCount)).nextFree := by
  unfold State.offerHeld
  simp [hheld, hhome, htokens]

end

/-! ### The clauses of O34 -/

/-- Settles O34: a PAT command's clauses by `patDone_busy` and what it applies; a refill's by `refillBuckets_self` and the offer
of a held request. -/
theorem placementTableAndRegulators : Obligations.PlacementTableAndRegulators := by
  unfold Obligations.PlacementTableAndRegulators
  refine ⟨?commands, ?ends, ?refill⟩
  case commands =>
    intro s ag r v hp hag hr words sampled refused starts
    have hw : (ag.wf && okR r) = true := Bool.and_eq_true_iff.2 ⟨hag, decide_eq_true hr⟩
    exact ⟨exec_patRead ag r v s hw hp, exec_patWrite ag r v s hw hp, exec_setCopyValid ag r v s hw hp,
      exec_clearCopyValid ag r v s hw hp⟩
  case ends =>
    intro s r c hp hr hbusy hstarted u ends op i e q
    have hexec := exec_patCmdDone r s (decide_eq_true hr) hp
    have hdone {x : State} (hok : s.patStatus r c = stOK) (hx : u.patApply r c = x) : exec (.patCmdDone r) s = .next (ends x stOK) :=
      hexec.trans (congrArg _ (hx ▸ patDone_ok hbusy hstarted hok))
    refine ⟨fun hfail => ?_, fun hpast => ?_, fun hok hpat => ?_, fun hok hrbq => ?_⟩
    · exact hexec.trans (congrArg _ (patDone_failed hbusy hstarted rfl hfail))
    · exact hexec.trans (congrArg _ (patDone_failed hbusy hstarted (patStatus_pastTable hpast) (by decide)))
    · obtain ⟨hread, hwrite, hset, hclear⟩ := patApply_pat (s := u) (r := r) hpat
      exact ⟨fun h => hdone hok (hread h), fun h => hdone hok (hwrite h), fun h => hdone hok (hset h), fun h => hdone hok (hclear h)⟩
    · obtain ⟨hread, hwrite, hset, hclear⟩ := patApply_rbq (s := u) (r := r) hrbq
      exact ⟨fun h => hdone hok (hread h), fun h => hdone hok (hwrite h), fun h => hdone hok (hset h), fun h => hdone hok (hclear h)⟩
  case refill =>
    intro s r hp hr
    have honly := refillBuckets_only r (List.range 24) s
    have hself : ∀ i < 24, BucketRefilled r i s (s.refillBuckets r (List.range 24)) :=
      fun i hi => refillBuckets_self List.nodup_range (List.mem_range.2 hi) s
    rw [exec_tokenRefill r s (decide_eq_true hr) hp, tokenRefill_eq]
    generalize s.refillBuckets r (List.range 24) = t at honly hself
    refine ⟨t, rfl, honly, fun haway => ?_, fun line q hq hhome => ⟨fun htokens => ?_, fun x htokens => ?_⟩, hself⟩
    · exact offerHeld_elsewhere (honly.nocHeld ▸ haway)
    · exact offerHeld_admitted (honly.nocHeld.trans hq) hhome htokens
    · rw [offerHeld_waits (honly.nocHeld.trans hq) hhome htokens, ← honly.freeCount]
      rfl

end Sys2Proof.Machine

/-!
PROOFS. Chaind ports: enables, RETRAIN, link failures and training attempts (R336, R338, R341, R342, R365, R367, R368): O35.
-/
namespace Sys2Proof.Machine

/-! ### One port of the state -/

/-- A port as `startTraining` leaves it (R337). -/
def Port.starting (x : Port) : Port :=
  { x with state := .training, heldCause := 0, width := 0, attempts := 0, hello := none, sent := none, asks := 0, asked := none }

/-- A port as `dropLink` leaves it (R342, R367). -/
def Port.unlinked (x : Port) : Port :=
  { x with replay := [], nextSeq := 0, used := [], usedShared := 0, expect := 0, retrying := none, asks := 0, asked := none, held := [],
           timeWait := none }

/-- A port that PORT_DISABLE has taken to DISABLED (Table 10.8). -/
def Port.off (x : Port) : Port := { x with state := .disabled, heldCause := 0, width := 0, hello := none, sent := none }

/-- What a link failure of port `k` records: DOWN_EVENTS and the fabric error log (R365). -/
def State.portDown (s : State) (k : Nat) : State :=
  (s.bump (FAB_PORT_DOWN_EVENTS k) 1).fabLogAdd (k / 4) (Config.fabLogStatus 6) 6 (k % 4) (s.port k).peerModule 0

theorem startTraining_setPort (s : State) (k : Nat) (x : Port) : (s.setPort k x).startTraining k = s.setPort k x.starting :=
  updPort_setPort ..

theorem dropLink_setPort (s : State) (k : Nat) (x : Port) : (s.setPort k x).dropLink k = s.setPort k x.unlinked :=
  updPort_setPort ..

/-- With nothing waiting to be sent, a port that leaves ACTIVE moves no traffic. -/
theorem leaveActive_quiet {s : State} {k : Nat} (next : PortState) (hq : (s.port k).txq = []) :
    s.leaveActive k 6 next = (s.portDown k).setPort k { s.port k with state := next } := by
  unfold State.leaveActive State.portDown
  dsimp only
  rw [updPort_form, bump_setPort, fabLogAdd_setPort, moveTraffic_nil _ _ _ (by rw [port_set]; exact hq), port_set, setPort_setPort]

theorem linkFailure_active {s : State} {k : Nat} (ha : (s.port k).state = .active) (hq : (s.port k).txq = []) :
    s.linkFailure k = (s.portDown k).setPort k (s.port k).starting := by
  unfold State.linkFailure
  rw [if_pos ha, leaveActive_quiet _ hq, startTraining_setPort]
  rfl

theorem linkFailure_idle {s : State} {k : Nat} (ha : (s.port k).state ≠ .active) : s.linkFailure k = s := if_neg ha

/-! ### PORT_ENABLE, PORT_DISABLE and RETRAIN (R368) -/

theorem portEnable_disabled {s : State} {k : Nat} (hd : (s.port k).state = .disabled) :
    s.portEnable k = s.setPort k { s.port k with enabled := true }.starting := by
  unfold State.portEnable
  rw [if_pos hd, updPort_form, startTraining_setPort]

theorem portDisable_down {s : State} {k : Nat} (hd : (s.port k).state ≠ .disabled) (ha : (s.port k).state ≠ .active) :
    s.portDisable k = s.setPort k { s.port k with enabled := false }.unlinked.off := by
  unfold State.portDisable
  dsimp only
  rw [updPort_form, port_set]
  split
  · next h => exact absurd h hd
  · next h => exact absurd h ha
  · rw [dropLink_setPort, updPort_setPort]
    rfl

theorem portDisable_active {s : State} {k : Nat} (ha : (s.port k).state = .active) (hq : (s.port k).txq = []) :
    s.portDisable k = (s.portDown k).setPort k { s.port k with enabled := false }.unlinked.off := by
  unfold State.portDisable
  dsimp only
  rw [updPort_form, port_set]
  split
  · next h => exact absurd (ha.symm.trans h) (by decide)
  · have hquiet : ((s.setPort k { s.port k with enabled := false }).port k).txq = [] := by rw [port_set]; exact hq
    rw [leaveActive_quiet _ hquiet, dropLink_setPort, updPort_setPort, port_set]
    unfold State.portDown
    rw [port_set, bump_setPort, fabLogAdd_setPort, setPort_setPort]
    rfl
  · next h => exact absurd ha h

theorem retrainPort_active {s : State} {k : Nat} (ag : Agent) (ha : (s.port k).state = .active) (hq : (s.port k).txq = []) :
    s.retrainPort ag k = (s.portDown k).setPort k (s.port k).starting := by
  have h : s.retrainPort ag k = (s.leaveActive k 6 .training).startTraining k := by unfold State.retrainPort; rw [ha]
  rw [h, leaveActive_quiet _ hq, startTraining_setPort]
  rfl

theorem retrainPort_down {s : State} {k : Nat} (ag : Agent) (h : (s.port k).state = .held ∨ (s.port k).state = .failed) :
    s.retrainPort ag k = s.setPort k (s.port k).starting := by
  unfold State.retrainPort
  rcases h with h | h <;> rw [h] <;> rfl

theorem retrainPort_refused {s : State} {k : Nat} (ag : Agent)
    (h : (s.port k).state = .disabled ∨ (s.port k).state = .training ∨ (s.port k).state = .identify) :
    s.retrainPort ag k = s.log (k / 4) stSTATE 1 ag.code (FAB_PORT_CTRL k % 0x100000000) 0 := by
  unfold State.retrainPort
  rcases h with h | h | h <;> rw [h] <;> rfl

/-! ### The end of a training attempt (R336 to R338, R342, R367) -/

/-- Flits of the replay buffer of port `k` sent again. -/
def State.resent (s : State) (k : Nat) (again : List (Nat × TxItem)) : State :=
  ({ s with outbox := s.outbox ++ again.map fun z => .resend k z.1 } : State).bump (FAB_PORT_FLITS_TX k) again.length

theorem resendFrom_eq (s : State) (k seq : Nat) :
    s.resendFrom k seq = s.resent k ((s.port k).replay.dropWhile fun z => z.1 != seq) := by
  exact congrArg (fun u : State => u.bump (FAB_PORT_FLITS_TX k) _) (resend_fold k _ s)

section
variable {s : State} {k tx rx : Nat} {rev : Bool} {inv : Nat} {peer : Option (Nat × Nat)} {missing : Nat}

/-- The port with what a training attempt has sensed of its lanes (R336). -/
def Port.sensed (x : Port) (tx rx : Nat) (rev : Bool) (inv : Nat) : Port :=
  { x with txGood := tx % 256, rxGood := rx % 256, reversed := rev, inverted := inv % 256 }

theorem attemptEnd_elsewhere (ht : (s.port k).state ≠ .training) : s.attemptEnd k tx rx rev inv peer missing = s := if_pos ht

theorem attemptEnd_again (ht : (s.port k).state = .training) (hw : widthOf tx rx = 0) (hn : (s.port k).attempts < 2) :
    s.attemptEnd k tx rx rev inv peer missing =
      s.setPort k { (s.port k).sensed tx rx rev inv with attempts := (s.port k).attempts + 1 } := by
  unfold State.attemptEnd
  dsimp only
  rw [if_neg (not_not.2 ht), if_pos hw, if_neg (Nat.not_le.2 hn), updPort_form s k, updPort_setPort]
  rfl

theorem attemptEnd_failed (ht : (s.port k).state = .training) (hw : widthOf tx rx = 0) (hn : 2 ≤ (s.port k).attempts) :
    s.attemptEnd k tx rx rev inv peer missing =
      s.setPort k { (s.port k).sensed tx rx rev inv with state := .failed, attempts := 0, width := 0 }.unlinked := by
  unfold State.attemptEnd
  dsimp only
  rw [if_neg (not_not.2 ht), if_pos hw, if_pos hn, updPort_form s k, dropLink_setPort, updPort_setPort]
  rfl

theorem attemptEnd_newPeer (ht : (s.port k).state = .training) (hw : widthOf tx rx ≠ 0)
    (hp : ¬ (peer = some ((s.port k).peerSerial, (s.port k).peerPort) ∧ (s.port k).peerSerial ≠ 0)) :
    s.attemptEnd k tx rx rev inv peer missing = (s.setPort k
      { (s.port k).sensed tx rx rev inv with state := .identify, attempts := 0, width := widthOf tx rx }.unlinked).sendHellos := by
  have hsame : (peer == some ((s.port k).peerSerial, (s.port k).peerPort) && (s.port k).peerSerial != 0) = false := by
    rw [Bool.eq_false_iff]
    exact fun h => hp (by simpa using h)
  unfold State.attemptEnd
  dsimp only
  rw [if_neg (not_not.2 ht), if_neg hw, hsame, updPort_form s k, dropLink_setPort]
  simp only [Bool.false_eq_true, if_false]
  rw [updPort_setPort]
  rfl

theorem attemptEnd_samePeer (ht : (s.port k).state = .training) (hw : widthOf tx rx ≠ 0)
    (hp : peer = some ((s.port k).peerSerial, (s.port k).peerPort) ∧ (s.port k).peerSerial ≠ 0) :
    let again := (s.port k).replay.dropWhile fun z => z.1 != missing % 4096
    s.attemptEnd k tx rx rev inv peer missing = ((s.resent k again).setPort k
      { (s.port k).sensed tx rx rev inv with
        replay := again, state := .identify, attempts := 0, width := widthOf tx rx }).sendHellos := by
  have hsame : (peer == some ((s.port k).peerSerial, (s.port k).peerPort) && (s.port k).peerSerial != 0) = true := by
    simpa using hp
  intro again
  unfold State.attemptEnd
  dsimp only
  rw [if_neg (not_not.2 ht), if_neg hw, hsame, updPort_form s k, updPort_setPort]
  simp only [if_true]
  rw [resendFrom_eq, port_set, dropWhile_again]
  exact congrArg State.sendHellos (updPort_setPort (s.resent k again) ..)

end

/-! ### The clauses of O35 -/

/-- Settles O35: each command leaves the port that its lemma gives, and what follows is the reports of `noted`. -/
theorem chaindPortsFollowTheirStates : Obligations.ChaindPortsFollowTheirStates := by
  unfold Obligations.ChaindPortsFollowTheirStates
  intro s ag k hpow hag hk hidle x training dropped off down then_
  have hport : okPort k = true := decide_eq_true hk
  have hw : (ag.wf && okPort k) = true := Bool.and_eq_true_iff.2 ⟨hag, hport⟩
  have hthen {c : Instr} {u : State} (hc : exec c s = .next (s.noted u)) (hf : u.fab = s.fab) (hr : u.colls = s.colls) :
      ∃ t, exec c s = .next t ∧ then_ u t := ⟨_, hc, noted_then s u hf (hr ▸ hidle)⟩
  have henabled : x.enabled = true → exec (.portDisable ag k) s = .next (s.noted (s.portDisable k)) := fun he =>
    (exec_portDisable ag k s hw hpow).trans (congrArg _ (if_pos he))
  have hretrain := exec_retrain ag k s hw hpow
  have hfail := exec_linkFailure k s hport hpow
  refine ⟨fun hoff hd => ?enable, fun hon hd ha => ?disable, fun hon ha hq => ?disableActive, fun h => ?retrain, fun h => ?refused,
    fun ha hq => ⟨?retrainActive, ?failure⟩, fun ha => ?failureIdle, fun tx rx rev inv peer missing => ?attempt⟩
  case enable =>
    have hnot : ¬ (s.port k).enabled = true := Bool.eq_false_iff.1 hoff
    rw [exec_portEnable ag k s hw hpow, if_neg hnot, portEnable_disabled hd]
    rfl
  case disable => exact hthen ((henabled hon).trans (by rw [portDisable_down hd ha]; rfl)) rfl rfl
  case disableActive => exact hthen ((henabled hon).trans (by rw [portDisable_active ha hq]; rfl)) rfl rfl
  case retrain => exact hthen (hretrain.trans (by rw [retrainPort_down ag h]; rfl)) rfl rfl
  case refused => exact hthen (hretrain.trans (by rw [retrainPort_refused ag h])) rfl rfl
  case retrainActive => exact hthen (hretrain.trans (by rw [retrainPort_active ag ha hq]; rfl)) rfl rfl
  case failure => exact hthen (hfail.trans (by rw [linkFailure_active ha hq]; rfl)) rfl rfl
  case failureIdle => exact hthen (hfail.trans (by rw [linkFailure_idle ha])) rfl rfl
  case attempt =>
    have hend := exec_trainingAttemptEnd k tx rx rev inv peer missing s hport hpow
    exact ⟨fun ht => hend.trans (congrArg _ (attemptEnd_elsewhere ht)),
      fun ht hw hn => hend.trans (congrArg _ (attemptEnd_again ht hw hn)),
      fun ht hw hn => hend.trans (congrArg _ (attemptEnd_failed ht hw hn)),
      fun ht hw hp => hend.trans (congrArg _ (attemptEnd_newPeer ht hw hp)),
      fun ht hw hp => hend.trans (congrArg _ (attemptEnd_samePeer ht hw hp))⟩

end Sys2Proof.Machine

/-!
PROOFS. Flits and their repeats (R340 to R343): O36.
-/
namespace Sys2Proof.Machine

/-! ### Repeats (R341, R342) -/

/-- Requests for SEQ `seq` that the peer has sent, this one included (R342). -/
def Port.timesAsked (x : Port) (seq : Nat) : Nat :=
  match x.asked with
  | some (q, n) => if q = seq then n + 1 else 1
  | none => 1

theorem retryAsked_eq (s : State) (k seq : Nat) :
    let n := (s.port k).timesAsked (seq % 4096)
    s.retryAsked k seq = if 8 ≤ n then s.linkFailure k
      else (s.setPort k { s.port k with asked := some (seq % 4096, n) }).resent k
        ((s.port k).replay.dropWhile fun z => z.1 != seq % 4096) := by
  intro n
  unfold State.retryAsked
  dsimp only
  rw [resendFrom_eq, updPort_form, port_set]
  rfl

theorem retryRepeat_open {s : State} {k q : Nat} (h : (s.port k).retrying = some q) :
    let u := ((s.setPort k { s.port k with asks := (s.port k).asks + 1 }).retryFlit k q).bump (FAB_PORT_RETRY k) 1
    s.retryRepeat k = if 8 ≤ (s.port k).asks + 1 then u.linkFailure k else u := by
  intro u
  unfold State.retryRepeat
  dsimp only
  split
  · next p hp =>
    obtain rfl : q = p := Option.some.inj (h.symm.trans hp)
    rfl
  · next hn => exact absurd (h.symm.trans hn) (by simp)

theorem retryRepeat_none {s : State} {k : Nat} (h : (s.port k).retrying = none) : s.retryRepeat k = s := by
  unfold State.retryRepeat
  dsimp only
  rw [h]

/-! ### A flit (R340, R341, R343) -/

/-- The error counters after a flit (R340). -/
def State.flitCounted (s : State) (k : Nat) (f : Flit) : State :=
  ((s.bump (FAB_PORT_FEC_CORR k) f.fecCorr).bump (FAB_PORT_FEC_UNCORR k) f.fecUncorr).bump (FAB_PORT_CRC_ERR k)
    (if flitCrcOk f then 0 else 1)

/-- What a flit acknowledges leaves the replay buffer. -/
def State.flitAcked (s : State) (k : Nat) (f : Flit) : State := match f.ack with | some a => s.ackTo k a | none => s

/-- What a flit carries beside its data: its acknowledgement, then its credits. -/
def State.flitFreed (s : State) (k : Nat) (f : Flit) : State :=
  if 0 < f.credits then ((s.flitAcked k f).updPort k fun x => State.returnCredits x f.creditVc f.credits).pump k
  else s.flitAcked k f

/-- The port after a DATA flit of channel `vc` with the SEQ that it expects. -/
def Port.accepted (x : Port) (vc : Nat) : Port :=
  { x with expect := (x.expect + 1) % 4096, retrying := none, asks := 0, held := x.held.set vc (x.held.get 0 vc + 1) }

/-- A port in DISABLED, TRAINING or FAILED takes nothing. -/
theorem not_up_of_down {st : PortState} (h : st = .disabled ∨ st = .training ∨ st = .failed) :
    st ≠ .identify ∧ st ≠ .active ∧ st ≠ .held := by
  rcases h with rfl | rfl | rfl <;> decide

theorem flitReceive_ignored {s : State} {k : Nat} (f : Flit)
    (h : (s.port k).state = .disabled ∨ (s.port k).state = .training ∨ (s.port k).state = .failed) : s.flitReceive k f = s :=
  if_pos (not_up_of_down h)

section
variable {s : State} {k : Nat} {f : Flit}
  (hup : (s.port k).state = .identify ∨ (s.port k).state = .active ∨ (s.port k).state = .held)
include hup

theorem flitReceive_discards
    (hbad : flitCrcOk f = false ∨ 0 < f.fecUncorr ∨ (f.type = 1 ∧ f.seq % 4096 ≠ (s.port k).expect)) :
    s.flitReceive k f = (s.flitCounted k f).askRetry k := by
  unfold State.flitReceive
  dsimp only
  rw [if_neg (by tauto)]
  exact if_pos (hbad.imp_left fun h => by rw [h]; rfl)

theorem flitReceive_takes (hcrc : flitCrcOk f = true) (hfec : f.fecUncorr = 0)
    (hseq : f.type = 1 → f.seq % 4096 = (s.port k).expect) :
    let v := (s.flitCounted k f).flitFreed k f
    s.flitReceive k f = if f.type = 3 then v.retryAsked k f.seq else if f.type ≠ 1 then v
      else (v.setPort k ((v.port k).accepted f.vc)).linkFlit k 0 0 := by
  intro v
  have hgood : ¬ ((!flitCrcOk f) = true ∨ 0 < f.fecUncorr ∨ (f.type = 1 ∧ f.seq % 4096 ≠ (s.port k).expect)) := by
    rw [hcrc, hfec]
    rintro (h | h | ⟨h, hne⟩)
    · exact absurd h (by decide)
    · exact absurd h (by decide)
    · exact hne (hseq h)
  unfold State.flitReceive
  dsimp only
  rw [if_neg (by tauto)]
  exact if_neg hgood

end

/-! ### The clauses of O36 -/

/-- Settles O36: a flit is ignored, asked for again, or taken as its type says; a repeat is `retryAsked` or `retryRepeat`. -/
theorem flitsAreAcceptedOrAskedForAgain : Obligations.FlitsAreAcceptedOrAskedForAgain := by
  unfold Obligations.FlitsAreAcceptedOrAskedForAgain
  intro s k hpow hk sealed ask resend asked
  have hport : okPort k = true := decide_eq_true hk
  have hasked (u : State) (seq : Nat) : u.retryAsked k seq = asked u (seq % 4096) := by
    rw [retryAsked_eq]
    dsimp only [asked, resend]
    rw [port_set]
    rfl
  have hrepeat := exec_retryReqRepeat k s hport hpow
  refine ⟨fun f => ?flit, fun seq => ?request, fun q hq => ?again, fun hq => ?none⟩
  case flit =>
    intro got crcOk
    have hgot {t : State} (h : s.flitReceive k f = t) : got t := (exec_flitReceive k f s hport hpow).trans (by rw [h])
    refine ⟨fun h => hgot (flitReceive_ignored f h), fun hup => ?_⟩
    intro u acked v x expected
    refine ⟨fun hbad => ?discards, fun hcrc hfec => ?takes⟩
    case discards => exact hgot (flitReceive_discards hup hbad)
    case takes =>
      refine ⟨fun ht hseq => ?data, fun ht => ?asks, fun hdata hreq => ?other⟩
      case data =>
        have h := flitReceive_takes hup hcrc hfec fun _ => hseq
        dsimp only at h
        rw [if_neg (by omega), if_neg (by omega)] at h
        refine hgot (h.trans ?_)
        unfold State.linkFlit
        rw [port_set]
        rfl
      case asks =>
        have h := flitReceive_takes hup hcrc hfec fun hd => by omega
        exact hgot (h.trans ((if_pos ht).trans (hasked ..)))
      case other =>
        have h := flitReceive_takes hup hcrc hfec fun hd => absurd hd hdata
        exact hgot (h.trans ((if_neg hreq).trans (if_pos hdata)))
  case request => exact (exec_retryReq k seq s hport hpow).trans (by rw [hasked])
  case again => exact hrepeat.trans (by rw [retryRepeat_open hq]; rfl)
  case none => exact hrepeat.trans (by rw [retryRepeat_none hq])

end Sys2Proof.Machine

/-!
PROOFS. HELLOs, the election, reports and the loss of the leader (R347 to R350, R353, R354, R365, R368): O37.
-/
namespace Sys2Proof.Machine

/-! ### Keys (R349) -/

/-- A key goes out on every ACTIVE port, and then the HELLOs. -/
def State.electOn (u : State) (key : LeaderKey) (hops : Nat) : State :=
  (u.activePorts.foldl (fun (v : State) j => v.sendCtl j (.elect j key hops)) u).sendHellos

/-- The fabric state with a better key, whose way leads over port `k`. -/
def Fab.follow (f : Fab) (k : Nat) (key : LeaderKey) (hops : Nat) : Fab :=
  { f with best := key, hops := hops + 1, parent := some k, phase := 1, children := [], reports := [] }

/-- A second origin that shows changes nothing but its own flag. -/
theorem dupClaim_frame (s : State) (key : LeaderKey) :
    s.dupClaim key = { s with fab := { s.fab with dupOrigin := (s.dupClaim key).fab.dupOrigin } } := by
  unfold State.dupClaim
  split <;> rfl

section
variable {s : State} {k : Nat} {key : LeaderKey} {hops : Nat} (hs : s.fab.settled = false)
include hs

/-- What becomes of a key in the election, `told` being the state that knows of a second origin. -/
theorem learnKey_unsettled : let told := s.dupClaim key
    s.learnKey k key hops = if keyBeats key s.fab.best then
        State.electOn { told with fab := told.fab.follow k key hops } key (hops + 1)
      else if key = s.fab.best then
        match s.fab.parent with
        | some j =>
          if hops + 1 < s.fab.hops ∨ (hops + 1 = s.fab.hops ∧ k < j) then
            State.sendHellos { told with fab := { told.fab with hops := hops + 1, parent := some k } }
          else told
        | none => told
      else told := by
  intro told
  have hf : told.fab = { s.fab with dupOrigin := told.fab.dupOrigin } := congrArg State.fab (dupClaim_frame s key)
  have hsettled : told.fab.settled = false := by rw [hf]; exact hs
  have hbest : told.fab.best = s.fab.best := by rw [hf]
  have hhops : told.fab.hops = s.fab.hops := by rw [hf]
  have hparent : told.fab.parent = s.fab.parent := by rw [hf]
  rw [← hbest, ← hhops, ← hparent]
  exact if_neg (Bool.eq_false_iff.1 hsettled)

theorem learnKey_beaten (hb : keyBeats key s.fab.best = true) :
    s.learnKey k key hops = State.electOn { s.dupClaim key with fab := (s.dupClaim key).fab.follow k key hops } key (hops + 1) :=
  (learnKey_unsettled hs).trans (if_pos hb)

variable (hb : keyBeats key s.fab.best = false)
include hb

theorem learnKey_worse (hne : key ≠ s.fab.best) : s.learnKey k key hops = s.dupClaim key :=
  (learnKey_unsettled hs).trans ((if_neg (Bool.eq_false_iff.1 hb)).trans (if_neg hne))

theorem learnKey_equal {j : Nat} (he : key = s.fab.best) (hp : s.fab.parent = some j) : let told := s.dupClaim key
    s.learnKey k key hops = if hops + 1 < s.fab.hops ∨ (hops + 1 = s.fab.hops ∧ k < j) then
      State.sendHellos { told with fab := { told.fab with hops := hops + 1, parent := some k } } else told := by
  intro told
  refine (learnKey_unsettled hs).trans ((if_neg (Bool.eq_false_iff.1 hb)).trans ((if_pos he).trans ?_))
  dsimp only
  rw [hp]

end

/-- The fabric state of a module that stands for election itself (R349, R354). -/
def State.candidate (s : State) : Fab :=
  { s.fab with best := s.ownKey, hops := 0, parent := none, phase := 1, children := [], reports := [], settled := false, lone := false,
               segs := [], next := none, later := [] }

theorem activePorts_congr {s t : State} (h : t.ports = s.ports) : t.activePorts = s.activePorts := by
  unfold State.activePorts State.port
  rw [h]

/-- With no ACTIVE port there is no neighbour whose key the new candidate could learn. -/
theorem startElection_alone {s : State} (hn : s.activePorts = []) :
    s.startElection = State.electOn { s with fab := s.candidate } s.ownKey 0 := by
  unfold State.startElection
  extract_lets u v
  have hu : u.activePorts = [] := (activePorts_congr rfl).trans hn
  have hv : v = u.sendHellos := by
    unfold v
    rw [hu]
    rfl
  have hva : v.activePorts = [] := by
    rw [hv, sendHellos_active, hu]
  unfold State.electOn
  rw [hva, List.foldl_nil, hv, show State.activePorts { s with fab := s.candidate } = [] from (activePorts_congr rfl).trans hn]
  rfl

/-! ### The checks of a HELLO (R347, R348) -/

/-- A port that has heard a HELLO. -/
def Port.heard (x : Port) (h : Hello) : Port :=
  { x with hello := some h, peerSerial := h.serial, peerPort := h.port, peerModule := h.module }

/-- A port whose HELLO is checked: one in ACTIVE leaves it for the check (Table 10.8, log 75). -/
def Port.checked (x : Port) (h : Hello) : Port :=
  if x.state = .active then { x.heard h with left := x.left + 1 } else x.heard h

/-- The state, without its port, once the HELLO is to be checked. -/
def State.checksHello (s : State) (k : Nat) (h : Hello) : State :=
  if (s.port k).state = .active then (s.dupClaim h.best).bump (FAB_PORT_DOWN_EVENTS k) 1 else s.dupClaim h.best

/-- The state with port `k` in ACTIVE after a HELLO that passed its checks. -/
def State.portUp (s : State) (k : Nat) (h : Hello) : State :=
  ((s.checksHello k h).setPort k { (s.port k).checked h with state := .active }).pump k

/-- The state whose HELLO is to be checked, with its port. -/
def State.helloHeard (s : State) (k : Nat) (h : Hello) : State := (s.checksHello k h).setPort k ((s.port k).checked h)

theorem dupClaim_port (s : State) (key : LeaderKey) (k : Nat) : (s.dupClaim key).port k = s.port k := by
  rw [dupClaim_frame]
  rfl

theorem checksHello_frame (s : State) (k : Nat) (h : Hello) : s.checksHello k h =
    { s with regs := (s.checksHello k h).regs, fab := { s.fab with dupOrigin := (s.checksHello k h).fab.dupOrigin } } := by
  have hd := dupClaim_frame s h.best
  unfold State.checksHello
  generalize s.dupClaim h.best = t at hd ⊢
  rw [hd]
  split <;> rfl

/-- Nothing that the checks read changes with the state that hears the HELLO. -/
theorem helloCause_heard (s : State) (k : Nat) (x : Port) (h : Hello) :
    ((s.checksHello k h).setPort k x).helloCause h = s.helloCause h := by
  rw [checksHello_frame]
  rfl

section
variable {s : State} {k : Nat} {h : Hello}

theorem helloCause_own (hs : h.serial = s.fab.serial) : s.helloCause h = 1 := if_pos hs

theorem helloCause_period (hs : h.serial ≠ s.fab.serial) (hp : h.period ≠ s.period) : s.helloCause h = 2 :=
  (if_neg hs).trans (if_pos hp)

theorem helloReceive_stored (hi : (s.port k).state ≠ .identify) (ha : (s.port k).state ≠ .active) :
    s.helloReceive k h = (s.dupClaim h.best).setPort k ((s.port k).heard h) := by
  unfold State.helloReceive
  dsimp only
  rw [updPort_form, dupClaim_port]
  split
  · next hx => exact absurd hx hi
  · next hx => exact absurd hx ha
  · rfl

theorem helloReceive_known (ha : (s.port k).state = .active)
    (hseen : (s.port k).hello.map checkedFields = some (checkedFields h)) :
    s.helloReceive k h = ((s.dupClaim h.best).setPort k ((s.port k).heard h)).learnKey k h.best h.hops := by
  unfold State.helloReceive
  dsimp only
  rw [updPort_form, dupClaim_port, hseen, bne_self_eq_false]
  split
  · next hx => exact absurd (ha.symm.trans hx) (by decide)
  · exact if_pos ⟨ha, rfl⟩
  · next hx => exact absurd ha hx

variable (hcheck : (s.port k).state = .identify ∨
  ((s.port k).state = .active ∧ ¬ (s.port k).hello.map checkedFields = some (checkedFields h)))
include hcheck

theorem helloReceive_checks : let u := s.helloHeard k h
    s.helloReceive k h = match s.helloCause h with
      | 0 => u.helloPassed k h
      | c => ((u.updPort k fun x => { x with state := .held, heldCause := c }).moveTraffic k false).fabLogAdd
          (k / 4) (Config.fabLogStatus 7) 7 (k % 4) h.module 0 := by
  intro u
  have hcause : u.helloCause h = s.helloCause h := helloCause_heard ..
  have hknown : ¬ ((s.port k).state = .active ∧
      (!((s.port k).hello.map checkedFields != some (checkedFields h))) = true) := by
    rintro ⟨ha, hsame⟩
    rcases hcheck with hi | ⟨-, hnew⟩
    · exact absurd (ha.symm.trans hi) (by decide)
    · exact hnew (by simpa using hsame)
  have hu : u = if (s.port k).state = .active then
      (((s.dupClaim h.best).setPort k ((s.port k).heard h)).updPort k fun x => { x with left := x.left + 1 }).bump
        (FAB_PORT_DOWN_EVENTS k) 1
      else (s.dupClaim h.best).setPort k ((s.port k).heard h) := by
    unfold u State.helloHeard State.checksHello Port.checked
    split
    · rw [updPort_setPort, bump_setPort]
      rfl
    · rfl
  rw [← hcause]
  unfold State.helloReceive
  dsimp only
  rw [updPort_form, dupClaim_port]
  split
  · rw [if_neg hknown, hu]
    rfl
  · rw [if_neg hknown, hu]
    rfl
  · next hi ha => exact absurd hcheck (by tauto)

theorem helloReceive_holds (hc : s.helloCause h ≠ 0) (hq : (s.port k).txq = []) :
    s.helloReceive k h = ((s.checksHello k h).setPort k
      { (s.port k).checked h with state := .held, heldCause := s.helloCause h }).fabLogAdd
      (k / 4) (Config.fabLogStatus 7) 7 (k % 4) h.module 0 := by
  have hempty : ((s.port k).checked h).txq = [] := by
    unfold Port.checked
    split <;> exact hq
  rw [helloReceive_checks hcheck]
  dsimp only
  split
  · next h0 => exact absurd h0 hc
  · unfold State.helloHeard
    rw [updPort_setPort, moveTraffic_nil _ _ _ (by rw [port_set]; exact hempty), port_set, setPort_setPort]

theorem helloReceive_passes (hc : s.helloCause h = 0) :
    s.helloReceive k h = (s.helloHeard k h).helloPassed k h := by
  refine (helloReceive_checks hcheck).trans ?_
  simp only [hc]

end

/-! ### What follows on a HELLO that passed (R349, R353, log 174) -/

theorem portUp_frame (s : State) (k : Nat) (h : Hello) : s.portUp k h =
    { s with regs := (s.portUp k h).regs, ports := (s.portUp k h).ports, outbox := (s.portUp k h).outbox,
             fab := { s.fab with dupOrigin := (s.checksHello k h).fab.dupOrigin } } := by
  have hc := checksHello_frame s k h
  unfold State.portUp
  rw [pump_frame]
  generalize s.checksHello k h = u at hc ⊢
  rw [hc]
  rfl

theorem portUp_fab (s : State) (k : Nat) (h : Hello) :
    (s.portUp k h).fab = { s.fab with dupOrigin := (s.checksHello k h).fab.dupOrigin } :=
  congrArg State.fab (portUp_frame s k h)

theorem portUp_isLeader (s : State) (k : Nat) (h : Hello) : (s.portUp k h).isLeader = s.isLeader := by
  unfold State.isLeader State.ownKey
  rw [portUp_fab]

/-- The map has a link of this module at port `k`. -/
def State.linkMapped (s : State) (k : Nat) : Bool := (s.fab.cur.links s.moduleId).any (·.1 == k)

/-- The branches of `helloPassed`, read off the state of before: `up` is the state with the port in ACTIVE. -/
theorem helloPassed_eq (s : State) (k : Nat) (h : Hello) : let up := s.portUp k h
    (s.helloHeard k h).helloPassed k h =
      if s.fab.lone = true ∧ h.lone = true then
        (State.startElection { up with fab := { up.fab with cur := {} } }).learnKey k h.best h.hops
      else if h.settled = true ∧ (!h.lone) = true ∧ ((!s.fab.settled) = true ∨ s.fab.lone = true) then up.sendJoin k
      else if s.fab.settled = true then
        if h.settled = true ∧ h.fabricId = s.fab.fabricId ∧ (!s.linkMapped k) = true then up.newLink else up
      else
        (if s.fab.phase = 0 then up.startElection else up.sendCtl k (.elect k s.fab.best s.fab.hops)).learnKey k h.best h.hops := by
  intro up
  have hf : up.fab = _ := portUp_fab s k h
  have hm : up.moduleId = s.moduleId := (congrArg State.moduleId (portUp_frame s k h)).trans rfl
  have hlone : up.fab.lone = s.fab.lone := by rw [hf]
  have hsettled : up.fab.settled = s.fab.settled := by rw [hf]
  have hid : up.fab.fabricId = s.fab.fabricId := by rw [hf]
  have hphase : up.fab.phase = s.fab.phase := by rw [hf]
  have hbest : up.fab.best = s.fab.best := by rw [hf]
  have hhops : up.fab.hops = s.fab.hops := by rw [hf]
  have hmap : up.linkMapped k = s.linkMapped k := by
    unfold State.linkMapped
    rw [hm, hf]
  have hup : ((s.helloHeard k h).updPort k fun x => { x with state := .active }).pump k = up := by
    unfold State.helloHeard
    rw [updPort_setPort]
    rfl
  unfold State.helloPassed
  dsimp only
  rw [hup, ← hlone, ← hsettled, ← hid, ← hphase, ← hbest, ← hhops, ← hmap]
  rfl

section
variable {s : State} {k : Nat} {h : Hello}

theorem helloPassed_merges (hl : s.fab.lone = true) (hhl : h.lone = true) :
    (s.helloHeard k h).helloPassed k h =
      (State.startElection { s.portUp k h with fab := { (s.portUp k h).fab with cur := {} } }).learnKey k h.best h.hops :=
  (helloPassed_eq s k h).trans (if_pos ⟨hl, hhl⟩)

theorem helloPassed_joins (hhs : h.settled = true) (hhl : h.lone = false) (hjoin : s.fab.settled = false ∨ s.fab.lone = true) :
    (s.helloHeard k h).helloPassed k h = (s.portUp k h).sendJoin k := by
  refine (helloPassed_eq s k h).trans ((if_neg ?_).trans (if_pos ⟨hhs, by rw [hhl]; rfl, ?_⟩))
  · rw [hhl]
    simp
  · rw [Bool.not_eq_true']
    exact hjoin

theorem helloPassed_settled (hs : s.fab.settled = true) (hl : s.fab.lone = false) (hhs : h.settled = true)
    (hid : h.fabricId = s.fab.fabricId) :
    (s.helloHeard k h).helloPassed k h =
      if s.linkMapped k = true then s.portUp k h else (s.portUp k h).newLink := by
  refine (helloPassed_eq s k h).trans ((if_neg ?_).trans ((if_neg ?_).trans ((if_pos hs).trans ?_)))
  · rw [hl]
    simp
  · rw [hs, hl]
    simp
  · cases s.linkMapped k with
    | false => exact if_pos ⟨hhs, hid, rfl⟩
    | true => exact if_neg fun ⟨_, _, hno⟩ => absurd hno (by decide)

theorem helloPassed_elects (hs : s.fab.settled = false) (hl : s.fab.lone = false) (hhs : h.settled = false) :
    (s.helloHeard k h).helloPassed k h =
      (if s.fab.phase = 0 then (s.portUp k h).startElection
        else (s.portUp k h).sendCtl k (.elect k s.fab.best s.fab.hops)).learnKey k h.best h.hops := by
  refine (helloPassed_eq s k h).trans ((if_neg ?_).trans ((if_neg ?_).trans (if_neg (Bool.eq_false_iff.1 hs))))
  · rw [hl]
    simp
  · rw [hhs]
    simp

theorem newLink_leader (hl : s.isLeader = true) : s.newLink = s.reportSettled s.ownReport := if_pos hl

theorem newLink_follower {j : Nat} (hl : s.isLeader = false) (hp : s.fab.parent = some j) :
    s.newLink = s.sendCtl j (.report j s.ownReport) := by
  refine (if_neg (Bool.eq_false_iff.1 hl)).trans ?_
  rw [hp]

end

/-! ### Reports (R350, log 174) -/

/-- A neighbour is a child of this module from now on (R350). -/
def Fab.adopt (f : Fab) (k : Nat) : Fab := { f with children := if f.children.contains k then f.children else f.children ++ [k] }

section
variable {s : State} {k : Nat} {r : Report}

theorem reportReceive_leader (hl : s.isLeader = true) : s.reportReceive k r =
    if s.fab.settled then ({ s with fab := s.fab.adopt k } : State).reportSettled r
    else { s with fab := { s.fab.adopt k with reports := s.fab.reports.filter (·.serial != r.serial) ++ [r] } } := if_pos hl

theorem reportReceive_follower {j : Nat} (hl : s.isLeader = false) (hp : s.fab.parent = some j) :
    s.reportReceive k r = ({ s with fab := s.fab.adopt k } : State).sendCtl j (.report j r) := by
  refine (if_neg (Bool.eq_false_iff.1 hl)).trans ?_
  simp only [State.updFab, Fab.adopt, hp]

theorem reportTimer_due (hs : s.fab.settled = false) (hph : s.fab.phase = 1) : s.reportTimer =
    match s.fab.parent with
    | some j => State.sendCtl { s with fab := { s.fab with phase := 2 } } j (.report j s.ownReport)
    | none => { s with fab := { s.fab with phase := 2 } } := by
  refine (if_neg ?_).trans ?_
  · rw [hs, hph]
    simp
  · rfl

end

/-! ### The loss of the leader (R354) -/

/-- The parent tree of the newest map, once it is in force, does not lead to the leader. -/
def State.cutOff (s : State) : Prop :=
  match s.fab.parent with
  | some j => (s.port j).state ≠ .active
  | none => s.fab.next = none ∧ s.fab.cur.version = s.fab.version

/-- The leader counts as lost. -/
def State.losesLeader (s : State) : Prop :=
  s.fab.settled = true ∧ s.isLeader = false ∧ (s.fab.lastBeat + 1024 ≤ s.fret ∨ s.cutOff)

theorem cutOff_iff (s : State) : (match s.fab.parent with
    | some k => (s.port k).state != .active
    | none => s.fab.next.isNone && s.fab.cur.version == s.fab.version) = true ↔ s.cutOff := by
  unfold State.cutOff
  split
  · rw [bne_iff_ne]
  · rw [Bool.and_eq_true, Option.isNone_iff_eq_none, beq_iff_eq]

theorem leaderLost_elects {s : State} (h : s.losesLeader) :
    s.leaderLost = State.startElection { s with fab := { s.fab with leaderLost := true } } := by
  obtain ⟨hs, hl, hlost⟩ := h
  exact if_pos ⟨hs, by rw [hl]; rfl, hlost.imp_right (cutOff_iff s).2⟩

theorem leaderLost_kept {s : State} (h : ¬ s.losesLeader) : s.leaderLost = s := by
  refine if_neg ?_
  rintro ⟨hs, hl, hlost⟩
  exact h ⟨hs, by rwa [Bool.not_eq_true'] at hl, hlost.imp_right (cutOff_iff s).1⟩

/-! ### The clauses of O37 -/

/-- Settles O37: a HELLO by the branch of `helloReceive` and `helloPassed`, a key by `learnKey_unsettled`, the rest by what each
operation does in the case of its clause. -/
theorem modulesIdentifyAndElectALeader : Obligations.ModulesIdentifyAndElectALeader := by
  unfold Obligations.ModulesIdentifyAndElectALeader
  intro s k hpow hk x elect claim
  have hport : okPort k = true := decide_eq_true hk
  refine ⟨fun h => ?hello, fun key hops => ?elect, fun rep => ?report, fun hno => ?timerIdle, fun hs hph => ?timer, ?lost⟩
  case hello =>
    intro heard y z seen c u up got
    have hgot {t : State} (ht : s.helloReceive k h = t) : got t := (exec_hello k h s hport hpow).trans (by rw [ht])
    refine ⟨helloCause_own, helloCause_period, fun hi ha => hgot (helloReceive_stored hi ha),
      fun ha hseen => hgot (helloReceive_known ha hseen), fun hcheck => ?checked⟩
    have hpass {t : State} (hc : c = 0) (ht : (s.helloHeard k h).helloPassed k h = t) : got t :=
      hgot ((helloReceive_passes hcheck hc).trans ht)
    refine ⟨fun hc hq => hgot (helloReceive_holds hcheck hc hq), fun hc hl hhl => hpass hc (helloPassed_merges hl hhl),
      fun hc hhs hhl hjoin => hpass hc (helloPassed_joins hhs hhl hjoin), fun hc hhs hhl hs hl hid => ?settled,
      fun hc hs hhs hl => ?elects⟩
    case settled =>
      have hpassed := helloPassed_settled (k := k) hs hl hhs hid
      have hlink (hmap : s.linkMapped k = false) := hpassed.trans (if_neg (Bool.eq_false_iff.1 hmap))
      exact ⟨fun hmap => hpass hc (hpassed.trans (if_pos hmap)),
        fun j hp hlead hmap => hpass hc ((hlink hmap).trans
          (newLink_follower ((portUp_isLeader s k h).trans hlead) (by rw [portUp_fab]; exact hp))),
        fun hlead hmap => hpass hc ((hlink hmap).trans (newLink_leader ((portUp_isLeader s k h).trans hlead)))⟩
    case elects =>
      have hpassed := helloPassed_elects (k := k) hs hl hhs
      exact ⟨fun hph => hpass hc (hpassed.trans (by rw [if_pos hph]; rfl)),
        fun hph => hpass hc (hpassed.trans (by rw [if_neg hph]; rfl))⟩
  case elect =>
    intro got told
    have hgot {t : State} (ht : s.learnKey k key hops = t) : got t := (exec_elect k key hops s hport hpow).trans (by rw [ht])
    refine ⟨fun hs => hgot (learn_settled s k key hops hs), fun hs => ⟨fun hb => hgot (learnKey_beaten hs hb),
      fun hb hne => hgot (learnKey_worse hs hb hne), fun j he hp => ?equal⟩⟩
    case equal =>
      intro nearer hb
      have h := learnKey_equal (k := k) (hops := hops) hs hb he hp
      exact ⟨fun hn => hgot (h.trans (if_pos hn)), fun hn => hgot (h.trans (if_neg hn))⟩
  case report =>
    intro f news child
    have hexec := exec_report k rep s hport hpow
    refine ⟨fun hl hs => ?_, fun hl hs => ?_, fun j hl hp => hexec.trans (congrArg _ (reportReceive_follower hl hp))⟩
    · exact hexec.trans (congrArg _ ((reportReceive_leader hl).trans (if_pos hs)))
    · exact hexec.trans (congrArg _ ((reportReceive_leader hl).trans (if_neg (Bool.eq_false_iff.1 hs))))
  case timerIdle => exact (exec_reportTimer s rfl hpow).trans (congrArg _ (if_pos hno))
  case timer =>
    intro u
    have h := (exec_reportTimer s rfl hpow).trans (congrArg _ (reportTimer_due hs hph))
    exact ⟨fun hp => h.trans (by rw [hp]), fun j hp => h.trans (by rw [hp])⟩
  case lost =>
    intro cut lost
    have hgot {t : State} (ht : s.leaderLost = t) : exec .leaderLost s = .next (s.noted t) :=
      (exec_leaderLost s rfl hpow).trans (by rw [ht])
    refine ⟨fun h => hgot (leaderLost_kept h), fun h hn => hgot ((leaderLost_elects h).trans ?_)⟩
    exact startElection_alone (s := { s with fab := { s.fab with leaderLost := true } })
      ((activePorts_congr rfl).trans hn)

end Sys2Proof.Machine

/-!
PROOFS. Settling, maps, beats, joins and the switch of routes (R350 to R354, R357, R360, R364 to R366, R377): O38.
-/
namespace Sys2Proof.Machine

/-! ### Messages to the children -/

/-- A message to every child of the parent tree. -/
def State.toChildren (u : State) (m : Nat → OutMsg) : State := u.fab.children.foldl (fun (v : State) j => v.sendCtl j (m j)) u

theorem toChildren_frame (u : State) (m : Nat → OutMsg) : u.toChildren m =
    { u with ports := (u.toChildren m).ports, outbox := (u.toChildren m).outbox, regs := (u.toChildren m).regs } :=
  foldCtl_frame ..

/-! ### Settling (R350, R351, R354) -/

theorem numberOf_ne_refused {g : Routes} {serial n : Nat} (h : g.numberOf serial = some n) : n ≠ 0xFFFE := by
  unfold Routes.numberOf at h
  obtain ⟨e, he, rfl⟩ := Option.map_eq_some_iff.1 h
  have hgood := List.find?_some he
  simp only [Bool.and_eq_true, bne_iff_ne] at hgood
  exact hgood.2

theorem numberOf_getD_ne_refused (g : Routes) (serial : Nat) : (g.numberOf serial).getD 0 ≠ 0xFFFE := by
  cases h : g.numberOf serial with
  | none => decide
  | some n => exact numberOf_ne_refused h

/-- The number that a module which settles alone has (R350, R354). -/
def State.loneNumber (s : State) : Nat := (s.fab.cur.numberOf s.fab.serial).getD 0

/-- The map of a fabric of this module alone (R350). -/
def State.loneMap (s : State) : List MapEntry :=
  [{ serial := s.fab.serial, module := s.loneNumber, coord := s.fab.coord, links := [] }]

/-- A map `x` held in `s`, behind those held before it (R364): the fabric state `f` with it. -/
def State.holding (s : State) (x : Nat × Routes) (f : Fab) : Fab :=
  { f with next := s.fab.next <|> some x, later := if s.fab.next.isSome then s.fab.later ++ [x] else [] }

theorem settleAlone_eq {s : State} (hc : s.fab.children = []) : s.settleAlone = State.sendHellos { s with
    moduleId := s.loneNumber
    fab := s.holding (s.fret + 4,
      { table := s.tableMode s.loneMap, version := s.fab.version + 1, leader := s.loneNumber, entries := s.loneMap }) { s.fab with
      best := s.ownKey, hops := 0, parent := none, fabricId := s.newFabricId, settled := true, lone := true, phase := 3,
      leaderLost := false, leaderSerial := s.fab.serial, version := s.fab.version + 1, segs := [], lastBeat := s.fret } } := by
  let u : State := s.updFab fun f => { f with best := s.ownKey, hops := 0, parent := none, fabricId := s.newFabricId }
  let m : MapSegment :=
    { version := s.fab.version + 1, fabricId := s.newFabricId, tableMode := s.tableMode s.loneMap, switchFret := s.fret + 4,
      index := 0, count := 1, leader := s.loneNumber, entries := [] }
  have hsettle : s.settleAlone = u.holdMap m s.loneMap := by
    have hnone : (s.updFab fun f =>
        { f with best := s.ownKey, hops := 0, parent := none, fabricId := s.newFabricId }).fab.children = [] := hc
    unfold State.settleAlone State.broadcastMap
    dsimp only
    rw [hnone]
    rfl
  have hnumbers : ∀ e ∈ s.loneMap, e.module ≠ 0xFFFE := by
    intro e he
    rw [List.mem_singleton.1 he]
    exact numberOf_getD_ne_refused s.fab.cur s.fab.serial
  have hmine : s.loneMap.find? (·.serial == u.fab.serial) = s.loneMap.head? := List.find?_cons_of_pos (beq_self_eq_true _)
  have hleads : s.loneMap.find? (·.module == m.leader) = s.loneMap.head? := List.find?_cons_of_pos (beq_self_eq_true _)
  obtain ⟨best, hbest, -, hheld⟩ := holdMap_does u m s.loneMap _ hnumbers hmine
  rw [hleads] at hbest hheld
  obtain rfl : best = s.ownKey := hbest rfl
  rw [hsettle, hheld]
  rfl

/-- A port trains or identifies its peer. -/
def State.inTraining (s : State) : Bool := (List.range 16).any fun j => (s.port j).state == .training || (s.port j).state == .identify

section
variable {s : State}

theorem fabricSettle_waits (hn : s.activePorts = []) (h : s.fab.settled = true ∨ s.inTraining = true ∨ s.mgmt.step7 = false) :
    s.fabricSettle = s := by
  have hwait : (s.fab.settled || s.inTraining || !s.mgmt.step7) = true := by
    rw [Bool.or_eq_true, Bool.or_eq_true, Bool.not_eq_true', or_assoc]
    exact h
  exact (if_pos hn).trans (if_pos hwait)

theorem fabricSettle_alone (hn : s.activePorts = []) (hs : s.fab.settled = false) (ht : s.inTraining = false) (h7 : s.mgmt.step7 = true) :
    s.fabricSettle = s.settleAlone := by
  have hgo : ¬ (s.fab.settled || s.inTraining || !s.mgmt.step7) = true := by
    rw [hs, ht, h7]
    decide
  exact (if_pos hn).trans (if_neg hgo)

theorem fabricSettle_follows (hn : s.activePorts ≠ []) (h : s.isLeader = false ∨ s.fab.settled = true ∨ s.fab.phase ≠ 2) :
    s.fabricSettle = s := by
  refine (if_neg hn).trans (if_neg ?_)
  rintro ⟨hl, hs, hp⟩
  rcases h with h | h | h
  · exact absurd (h.symm.trans hl) (by decide)
  · rw [h] at hs
    exact absurd hs (by decide)
  · exact h hp

theorem fabricSettle_leads (hn : s.activePorts ≠ []) (hl : s.isLeader = true) (hs : s.fab.settled = false) (hp : s.fab.phase = 2) :
    let all := s.assignAll (s.ownReport :: s.fab.reports)
    s.fabricSettle = ({ s with fab := { s.fab with fabricId := s.newFabricId } } : State).broadcastMap (s.fab.version + 1)
      (s.tableMode all) (((all.find? (·.serial == s.fab.serial)).map (·.module)).getD 0) all :=
  (if_neg hn).trans (if_pos ⟨hl, by rw [hs]; rfl, hp⟩)

end

/-! ### Maps (R350, R353, R360, R366) -/

/-- A map segment is known already, or of another or an older map. -/
def State.dropsSegment (s : State) (m : MapSegment) : Prop :=
  (s.fab.segs.any fun x => x.version == m.version && x.index == m.index) = true ∨
    (s.fab.settled && (m.fabricId != s.fab.fabricId || decide (m.version ≤ s.fab.version)) && !s.fab.lone) = true

/-- The segments held of the version of a new segment. -/
def State.segsWith (s : State) (m : MapSegment) : List MapSegment := s.fab.segs.filter (·.version == m.version) ++ [m]

/-- A new segment is kept and goes to the children. -/
def State.keepsSegment (s : State) (m : MapSegment) : State :=
  State.toChildren { s with fab := { s.fab with segs := s.segsWith m } } fun j => .map j m

theorem keepsSegment_fab (s : State) (m : MapSegment) : (s.keepsSegment m).fab = { s.fab with segs := s.segsWith m } := by
  unfold State.keepsSegment
  rw [toChildren_frame]

theorem keepsSegment_fret (s : State) (m : MapSegment) : (s.keepsSegment m).fret = s.fret := by
  unfold State.keepsSegment
  rw [toChildren_frame]

section
variable {s : State} {m : MapSegment}

theorem mapReceive_drops (h : s.dropsSegment m) : s.mapReceive m = s := if_pos h

variable (hnew : ¬ s.dropsSegment m)
include hnew

theorem mapReceive_keeps : s.mapReceive m = if (s.segsWith m).length = m.count then
    (s.keepsSegment m).holdMap m (((s.segsWith m).mergeSort fun a b => a.index ≤ b.index).flatMap (·.entries))
    else s.keepsSegment m := by
  have h : s.mapReceive m = if (s.keepsSegment m).fab.segs.length = m.count then
      (s.keepsSegment m).holdMap m (((s.keepsSegment m).fab.segs.mergeSort fun a b => a.index ≤ b.index).flatMap (·.entries))
      else s.keepsSegment m := if_neg hnew
  rw [h, keepsSegment_fab]

theorem mapReceive_whole (hsegs : s.segsWith m = [m]) (hcount : m.count = 1) (hnumbers : ∀ e ∈ m.entries, e.module ≠ 0xFFFE)
    {e : MapEntry} (he : m.entries.find? (·.serial == s.fab.serial) = some e) :
    let u := s.keepsSegment m
    let leader := ((m.entries.find? (·.module == m.leader)).map (·.serial)).getD 0
    ∃ best, (s.fab.best.serial = leader → best = s.fab.best) ∧ best.serial = leader ∧
      s.mapReceive m = State.sendHellos { u with moduleId := e.module, fab := s.holding (m.switchFret,
        { table := m.tableMode, version := m.version, leader := m.leader, entries := m.entries }) { u.fab with
        settled := true, lone := m.entries.length == 1, phase := 3, leaderLost := false, fabricId := m.fabricId, best := best,
        leaderSerial := leader, version := m.version, segs := [], lastBeat := s.fret } } := by
  intro u leader
  have hfab : u.fab = { s.fab with segs := s.segsWith m } := keepsSegment_fab s m
  have hfret : u.fret = s.fret := keepsSegment_fret s m
  have hmine : m.entries.find? (·.serial == u.fab.serial) = some e := by rw [hfab]; exact he
  obtain ⟨best, hbest, hserial, hheld⟩ := holdMap_does u m m.entries e hnumbers hmine
  refine ⟨best, fun h => (hbest (by rw [hfab]; exact h)).trans (by rw [hfab]), hserial, ?_⟩
  have hentries : ([m].mergeSort fun a b => a.index ≤ b.index).flatMap (·.entries) = m.entries := by simp
  rw [mapReceive_keeps hnew, hsegs, hcount, if_pos (List.length_singleton), hentries]
  refine hheld.trans ?_
  rw [hfret]
  unfold State.holding
  rw [show u.fab.next = s.fab.next by rw [hfab], show u.fab.later = s.fab.later by rw [hfab]]

end

/-! ### Beats (R354) -/

theorem beatReceive_known {s : State} {b : Beat} (h : s.fab.settled = true ∧ b.fabricId = s.fab.fabricId) :
    s.beatReceive b = State.toChildren { s with fab := { s.fab with lastBeat := s.fret } } fun j => .beat j b := if_pos h

theorem beatSend_due {s : State} (h : s.isLeader = true ∧ s.fab.settled = true ∧ s.fret % 256 = 0) :
    s.beatSend = s.toChildren fun j => .beat j { fabricId := s.fab.fabricId, version := s.fab.version, fret := s.fret } := if_pos h

/-! ### Joins and links (R351 to R353, R365) -/

/-- The module that sends a report is on the map with number `n`, in place of its entry of before. -/
def State.mapWith (s : State) (r : Report) (n : Nat) : List MapEntry :=
  s.newestMap.filter (·.serial != r.serial) ++ [{ serial := r.serial, module := n, coord := r.coord, links := [] }]

theorem addPeers_noLinks {r : Report} (h : r.links = []) (es : List MapEntry) : State.addPeers r es = es := by
  unfold State.addPeers
  rw [h]
  rfl

section
variable {s : State} {k : Nat} {r : Report}

theorem joinReceive_unsettled (h : s.fab.settled = false) : s.joinReceive k r = s := if_pos (by rw [h]; rfl)

variable (hs : s.fab.settled = true)
include hs

theorem joinReceive_forwards {j : Nat} (hl : s.isLeader = false) (hp : s.fab.parent = some j) :
    s.joinReceive k r = ({ s with fab := s.fab.adopt k } : State).sendCtl j (.join j r) := by
  have hl' : (!({ s with fab := s.fab.adopt k } : State).isLeader) = true := by
    rw [Bool.not_eq_true']
    exact hl
  refine (if_neg (by rw [hs]; decide)).trans ((if_pos hl').trans ?_)
  simp only [State.updFab, Fab.adopt, hp]

theorem joinReceive_leader (hl : s.isLeader = true) (hlinks : r.links = []) :
    let others := s.newestMap.filter (·.serial != r.serial)
    let n := (s.fab.cur.numberOf r.serial).getD (s.assignOne ((others.map (·.module)).filter (· != 0xFFFE)) r.coord)
    s.joinReceive k r = ({ s with fab := s.fab.adopt k } : State).newVersion (s.mapWith r n) := by
  intro others n
  have hl' : ¬ (!({ s with fab := s.fab.adopt k } : State).isLeader) = true := by
    rw [Bool.not_eq_true', Bool.not_eq_false]
    exact hl
  refine (if_neg (by rw [hs]; decide)).trans ((if_neg hl').trans ?_)
  dsimp only
  rw [addPeers_noLinks hlinks, ite_self, hlinks]
  rfl

end

/-- The links of module `serial` at its port `port` have state `new` (R365). -/
def linkChanged (serial port new : Nat) (e : MapEntry) : MapEntry :=
  if e.serial = serial then { e with links := e.links.map fun x => if x.port = port then { x with up := new == 3, state := new } else x }
  else e

section
variable {s : State} {serial port old new : Nat}

theorem portEventReceive_unsettled (h : s.fab.settled = false) : s.portEventReceive serial port old new = s := if_pos (by rw [h]; rfl)

variable (hs : s.fab.settled = true)
include hs

theorem portEventReceive_forwards {j : Nat} (hl : s.isLeader = false) (hp : s.fab.parent = some j) :
    s.portEventReceive serial port old new = s.sendCtl j (.portEvent j serial port old new) := by
  refine (if_neg (by rw [hs]; decide)).trans ((if_pos (by rw [hl]; rfl)).trans ?_)
  rw [hp]

theorem portEventReceive_leader {l : LinkInfo} (hl : s.isLeader = true)
    (hlink : (s.newestMap.find? (·.serial == serial)).bind (fun e => e.links.find? (·.port == port)) = some l) :
    s.portEventReceive serial port old new =
      s.newVersion ((s.newestMap.map (linkChanged serial port new)).map (linkChanged l.peerSerial l.peerPort new)) := by
  have hupd (sr pt : Nat) : linkChanged sr pt new = fun e => if e.serial != sr then e
      else { e with links := e.links.map fun x => if x.port = pt then { x with up := new == 3, state := new } else x } := by
    funext e
    unfold linkChanged
    by_cases h : e.serial = sr
    · exact (if_pos h).trans (if_neg (by simpa using h)).symm
    · exact (if_neg h).trans (if_pos (by simpa using h)).symm
  refine (if_neg (by rw [hs]; decide)).trans ((if_neg (by rw [hl]; decide)).trans ?_)
  dsimp only
  rw [hlink, hupd, hupd]

end

theorem portDownTimeout_idle {s : State} {k : Nat} (h : (s.port k).state = .active ∨ s.fab.settled = false) :
    s.portDownTimeout k = s := if_pos (h.imp_right fun h => by rw [h]; rfl)

theorem portDownTimeout_reports {s : State} {k j : Nat} (ha : (s.port k).state ≠ .active) (hs : s.fab.settled = true)
    (hl : s.isLeader = false) (hp : s.fab.parent = some j) :
    s.portDownTimeout k = s.sendCtl j (.portEvent j s.fab.serial k 3 (s.port k).state.code) := by
  have hlate : ¬ ((s.port k).state = .active ∨ (!s.fab.settled) = true) := by
    rw [hs]
    rintro (h | h)
    · exact ha h
    · exact absurd h (by decide)
  refine (if_neg hlate).trans ?_
  unfold State.portEventOut State.tellLeader
  rw [if_neg (Bool.eq_false_iff.1 hl), hp]

/-! ### The switch of routes (R364, R366) -/

/-- The switch fret of a held map has come; a lone module does not wait for it. -/
def State.switchDue (s : State) (at_ : Nat) : Prop := s.fab.lone = true ∨ (s.epochSet = true ∧ at_ ≤ s.fret)

theorem routeSwitchHere_same {s : State} (h : s.routeSwitch = s) : s.routeSwitchHere = s := by
  have hall : s.routeSwitchAll = s := by
    unfold State.routeSwitchAll
    rw [h, bne_self_eq_false]
    rfl
  unfold State.routeSwitchHere
  rw [hall]
  dsimp only
  rw [bne_self_eq_false]
  rfl

theorem routeSwitch_none {s : State} (h : s.fab.next = none) : s.routeSwitch = s := by
  unfold State.routeSwitch
  rw [h]

theorem routeSwitch_early {s : State} {at_ : Nat} {g : Routes} (h : s.fab.next = some (at_, g)) (hd : ¬ s.switchDue at_) :
    s.routeSwitch = s := by
  unfold State.routeSwitch
  rw [h]
  exact if_neg fun hx => hd hx.symm

/-- The fabric state under the new routes. -/
def State.switched (s : State) (new : Routes) : State :=
  { s with reachable := s.reached new, fab := { s.fab with
    next := s.fab.later.head?, later := s.fab.later.drop 1, rgen := !s.fab.rgen, cur := new, old := some s.fab.cur,
    oldSeen := s.fret, loaded := none } }

theorem pathsDown_quiet {s : State} (hw : s.fab.waiting = []) (ho : ∀ q ∈ s.out, ∀ m, q.dest ≠ .module m) : s.pathsDown = s := by
  unfold State.pathsDown State.discardWhere
  rw [filter_nil s.out _ fun q hq => by
    split
    · next m hm => exact absurd hm (ho q hq m)
    · rfl]
  exact releaseOrdered_none s hw

theorem routeSwitchHere_due {s : State} {at_ : Nat} {g : Routes} (h : s.fab.next = some (at_, g)) (hd : s.switchDue at_)
    (hw : s.fab.waiting = []) (hq : ∀ j, j < 16 → (s.port j).state ≠ .active → (s.port j).txq = [])
    (ho : ∀ q ∈ s.out, ∀ m, q.dest ≠ .module m) :
    ∃ t, s.routeSwitchHere = t ∧
      let new : Routes := { g with loaded := if s.fab.swRoutes then s.fab.loaded else none }
      t = { s with time := t.time, ports := t.ports, reachable := s.reached new, fab := { (s.switched new).fab with
        parent := t.fab.parent, children := t.fab.children } } ∧ ∀ j, t.port j = s.port j := by
  let new : Routes := { g with loaded := if s.fab.swRoutes then s.fab.loaded else none }
  obtain ⟨u, hmoves, hu, hports⟩ := moves_idle (List.range 16) (s.switched new) fun j hj => hq j (List.mem_range.1 hj)
  have huf : u.fab = (s.switched new).fab := by rw [hu]
  have huw : u.fab.waiting = [] := by rw [huf]; exact hw
  have hswitch : s.routeSwitch = u := by
    unfold State.routeSwitch
    rw [h]
    refine (if_pos hd.symm).trans ?_
    exact (congrArg State.releaseOrdered hmoves).trans (releaseOrdered_none u huw)
  have hgen (v : State) (hv : v.fab.rgen = !s.fab.rgen) : (v.fab.rgen != s.fab.rgen) = true := by
    rw [hv]
    cases s.fab.rgen <;> rfl
  have hr := retree_frame u
  have hall : s.routeSwitchAll = u.retree := by
    unfold State.routeSwitchAll
    rw [hswitch]
    exact if_pos (hgen u (by rw [huf]; rfl))
  have hrf : u.retree.fab.rgen = !s.fab.rgen := by rw [hr, huf]; rfl
  have hrw : u.retree.fab.waiting = [] := by rw [hr]; exact huw
  have hro : u.retree.out = s.out := by rw [hr, hu]; rfl
  have hhere : s.routeSwitchHere = u.retree := by
    unfold State.routeSwitchHere
    rw [hall]
    exact (if_pos (hgen _ hrf)).trans (pathsDown_quiet hrw (by rw [hro]; exact ho))
  refine ⟨_, hhere, ?_, fun j => ?_⟩
  · generalize u.retree = t at hr
    rw [hr, huf, hu]
    rfl
  · have hp : u.retree.port j = u.port j := by rw [hr]; rfl
    exact hp.trans (hports j)

/-! ### The clauses of O38 -/

/-- Settles O38: each command's operation in the case that its clause describes; a map that is held by `holdMap_does`. -/
theorem fabricsSettleAndKeepTheirMap : Obligations.FabricsSettleAndKeepTheirMap := by
  unfold Obligations.FabricsSettleAndKeepTheirMap
  intro s k hpow hk toChildren adopt mode later held training
  have hport : okPort k = true := decide_eq_true hk
  refine ⟨?settle, fun m => ?map, fun b => ?beat, ?beatSend, fun rep => ?join, fun serial port old new => ?event, ?timeout, ?switch⟩
  case settle =>
    intro got n alone all me
    have hgot {t : State} (h : s.fabricSettle = t) : got t := (exec_fabricSettle s rfl hpow).trans (by rw [h])
    exact ⟨fun hnone h => hgot (fabricSettle_waits hnone h),
      fun hnone hs ht h7 hc => hgot ((fabricSettle_alone hnone hs ht h7).trans (settleAlone_eq hc)),
      fun hsome h => hgot (fabricSettle_follows hsome h), fun hsome hl hs hp => hgot (fabricSettle_leads hsome hl hs hp)⟩
  case map =>
    intro got known stale segs u
    have hgot {t : State} (h : s.mapReceive m = t) : got t := (exec_map k m s hport hpow).trans (by rw [h])
    have hnew (hk : known = false) (hst : stale = false) : ¬ s.dropsSegment m := by
      rintro (h | h)
      · exact absurd (hk.symm.trans h) (by decide)
      · exact absurd (hst.symm.trans h) (by decide)
    refine ⟨fun h => hgot (mapReceive_drops h), fun hk hst hlen => ?part, fun hk hst hsegs hcount hnumbers e he => ?whole,
      fun hk hst hlen => ?complete⟩
    case part => exact hgot ((mapReceive_keeps (hnew hk hst)).trans (if_neg hlen))
    case whole =>
      obtain ⟨best, hbest, hserial, h⟩ := mapReceive_whole (hnew hk hst) hsegs hcount hnumbers he
      exact ⟨best, hbest, hserial, hgot h⟩
    case complete => exact hgot ((mapReceive_keeps (hnew hk hst)).trans (if_pos hlen))
  case beat =>
    have hexec := exec_beat k b s hport hpow
    refine ⟨fun hs hid => hexec.trans (congrArg _ (beatReceive_known ⟨hs, hid⟩)), fun h => hexec.trans (congrArg _ (if_neg ?_))⟩
    rintro ⟨hs, hid⟩
    rcases h with h | h
    · exact absurd (h.symm.trans hs) (by decide)
    · exact h hid
  case beatSend =>
    have hexec := exec_beatSend s rfl hpow
    exact ⟨fun h => hexec.trans (congrArg _ (beatSend_due h)), fun h => hexec.trans (congrArg _ (if_neg h))⟩
  case join =>
    intro got u
    have hgot {t : State} (h : s.joinReceive k rep = t) : got t := (exec_join k rep s hport hpow).trans (by rw [h])
    exact ⟨fun hs => hgot (joinReceive_unsettled hs), fun j hs hl hp => hgot (joinReceive_forwards hs hl hp),
      fun hs hl hlinks => hgot (joinReceive_leader hs hl hlinks)⟩
  case event =>
    intro got
    have hgot {t : State} (h : s.portEventReceive serial port old new = t) : got t :=
      (exec_portEvent serial port old new s rfl hpow).trans (by rw [h])
    exact ⟨fun hs => hgot (portEventReceive_unsettled hs), fun j hs hl hp => hgot (portEventReceive_forwards hs hl hp),
      fun l hs hl hlink => hgot (portEventReceive_leader hs hl hlink)⟩
  case timeout =>
    intro got
    have hgot {t : State} (h : s.portDownTimeout k = t) : got t := (exec_portDownTimeout k s hport hpow).trans (by rw [h])
    exact ⟨fun h => hgot (portDownTimeout_idle h), fun j ha hs hl hp => hgot (portDownTimeout_reports ha hs hl hp)⟩
  case switch =>
    intro got
    have hgot {t : State} (h : s.routeSwitchHere = t) : got t := (exec_routeSwitch s rfl hpow).trans (by rw [h])
    refine ⟨fun hn => hgot (routeSwitchHere_same (routeSwitch_none hn)), fun at_ g hn => ?_⟩
    intro due
    refine ⟨fun hd => hgot (routeSwitchHere_same (routeSwitch_early hn hd)), fun hd hw hq ho => ?_⟩
    obtain ⟨t, ht, hframe, hports⟩ := routeSwitchHere_due hn hd hw hq ho
    exact ⟨t, hgot ht, hframe, hports⟩

end Sys2Proof.Machine

/-!
PROOFS. Packets that arrive, and the load of a route table (R343 to R346, R358, R361 to R364): O39.
-/
namespace Sys2Proof

/-- Header fields that no packet has (R346). -/
def Packet.malformed (p : Packet) : Prop := p.rsvBad = true ∨ Machine.State.opcodeOk p.opcode = false ∨ 4096 < p.len ∨ 255 < p.hops

/-- A control message: its effect is a command of its own (R347). -/
def Packet.control (p : Packet) : Prop := 0xC0 ≤ p.opcode ∧ p.opcode ≤ 0xC7 ∧ p.rsvBad = false

namespace Machine

/-! ### A packet at a port (R346, R361) -/

/-- The state once the packet's buffer is free and a packet of the other generation is noted (R343, R364). -/
def State.packetTaken (s : State) (k : Nat) (p : Packet) : State :=
  let freed := s.freeBuffer k p.vc (State.packetFlits p)
  if p.rgen = s.fab.rgen then freed else { freed with fab := { freed.fab with oldSeen := s.fret } }

theorem freeBuffer_frame (s : State) (k vc n : Nat) :
    s.freeBuffer k vc n = { s with ports := (s.freeBuffer k vc n).ports, outbox := (s.freeBuffer k vc n).outbox } := by
  unfold State.freeBuffer
  dsimp only
  split <;> rfl

theorem packetTaken_moduleId (s : State) (k : Nat) (p : Packet) : (s.packetTaken k p).moduleId = s.moduleId := by
  unfold State.packetTaken
  dsimp only
  rw [freeBuffer_frame]
  split <;> rfl

section
variable {s : State} {k : Nat} {p : Packet}

theorem packetArrive_ignored (h : (s.port k).state = .disabled ∨ (s.port k).state = .training ∨ (s.port k).state = .failed) :
    s.packetArrive k p = s := by
  obtain ⟨hi, ha, hh⟩ := not_up_of_down h
  exact if_pos ⟨ha, hi, hh⟩

theorem packetArrive_frees (hup : (s.port k).state = .active ∨ (s.port k).state = .identify ∨ (s.port k).state = .held)
    (h : (s.port k).state ≠ .active ∨ p.control) : s.packetArrive k p = s.freeBuffer k p.vc (State.packetFlits p) := by
  unfold State.packetArrive
  dsimp only
  rw [if_neg (by tauto)]
  exact if_pos (h.imp_right fun ⟨hlo, hhi, hrsv⟩ => ⟨hlo, hhi, by rw [hrsv]; rfl⟩)

section
variable (ha : (s.port k).state = .active) (hc : ¬ p.control)
include ha hc

/-- What becomes of a packet that is no control message, at a port in ACTIVE. -/
theorem packetArrive_judged : let u := s.packetTaken k p
    s.packetArrive k p =
      if p.rsvBad ∨ !State.opcodeOk p.opcode ∨ 4096 < p.len ∨ 255 < p.hops then u.discardPacket k 3 p
      else if p.dest = u.moduleId then { u with inbox := u.inbox ++ [p] }
      else if 255 ≤ p.hops then u.discardPacket k 3 p
      else ((u.countSpill k p).forward p (some k)).getD ((u.countSpill k p).discardPacket k 5 p) := by
  intro u
  have hu : u = if p.rgen != (s.freeBuffer k p.vc (State.packetFlits p)).fab.rgen
      then (s.freeBuffer k p.vc (State.packetFlits p)).updFab fun f =>
        { f with oldSeen := (s.freeBuffer k p.vc (State.packetFlits p)).fret }
      else s.freeBuffer k p.vc (State.packetFlits p) := by
    have hf := freeBuffer_frame s k p.vc (State.packetFlits p)
    have hgen : (s.freeBuffer k p.vc (State.packetFlits p)).fab.rgen = s.fab.rgen := by rw [hf]
    have hfret : (s.freeBuffer k p.vc (State.packetFlits p)).fret = s.fret := by rw [hf]
    rw [hgen, hfret]
    by_cases h : p.rgen = s.fab.rgen
    · exact (if_pos h).trans (if_neg (by simpa using h)).symm
    · exact (if_neg h).trans (if_pos (by simpa using h)).symm
  have hnot : ¬ ((s.port k).state ≠ .active ∨ (0xC0 ≤ p.opcode ∧ p.opcode ≤ 0xC7 ∧ (!p.rsvBad) = true)) := by
    rintro (h | ⟨hlo, hhi, hrsv⟩)
    · exact h ha
    · exact hc ⟨hlo, hhi, Bool.not_eq_true' _ ▸ hrsv⟩
  unfold State.packetArrive
  dsimp only
  rw [if_neg (by tauto), if_neg hnot, ← hu]
  cases (u.countSpill k p).forward p (some k) <;> rfl

theorem packetArrive_malformed (hbad : p.malformed) : s.packetArrive k p = (s.packetTaken k p).discardPacket k 3 p := by
  rw [packetArrive_judged ha hc]
  exact if_pos (hbad.imp_right fun h => h.imp_left fun h => by rw [h]; rfl)

variable (hok : ¬ p.malformed)
include hok

theorem packetArrive_sound : let u := s.packetTaken k p
    s.packetArrive k p =
      if p.dest = s.moduleId then { u with inbox := u.inbox ++ [p] }
      else if p.hops = 255 then u.discardPacket k 3 p
      else ((u.countSpill k p).forward p (some k)).getD ((u.countSpill k p).discardPacket k 5 p) := by
  intro u
  have hhops : 255 ≤ p.hops ↔ p.hops = 255 := by
    have hle : ¬ 255 < p.hops := fun h => hok (.inr (.inr (.inr h)))
    omega
  rw [packetArrive_judged ha hc, packetTaken_moduleId]
  simp only [hhops]
  exact if_neg fun h => hok (h.imp_right fun h => h.imp_left fun h => by simpa using h)

theorem packetArrive_mine (hd : p.dest = s.moduleId) :
    s.packetArrive k p = { s.packetTaken k p with inbox := (s.packetTaken k p).inbox ++ [p] } :=
  (packetArrive_sound ha hc hok).trans (if_pos hd)

variable (hd : p.dest ≠ s.moduleId)
include hd

theorem packetArrive_tooFar (hh : p.hops = 255) : s.packetArrive k p = (s.packetTaken k p).discardPacket k 3 p :=
  (packetArrive_sound ha hc hok).trans ((if_neg hd).trans (if_pos hh))

variable (hh : p.hops ≠ 255)
include hh

theorem packetArrive_onward : let u := (s.packetTaken k p).countSpill k p
    s.packetArrive k p = (u.forward p (some k)).getD (u.discardPacket k 5 p) :=
  (packetArrive_sound ha hc hok).trans ((if_neg hd).trans (if_neg hh))

theorem packetArrive_noRoute (hn : ((s.packetTaken k p).countSpill k p).nextHop p (some k) = none) :
    s.packetArrive k p = ((s.packetTaken k p).countSpill k p).discardPacket k 5 p := by
  rw [packetArrive_onward ha hc hok hd hh]
  unfold State.forward
  rw [hn]
  rfl

theorem packetArrive_forwarded {j vc : Nat} (hn : ((s.packetTaken k p).countSpill k p).nextHop p (some k) = some (j, vc)) :
    s.packetArrive k p = ((s.packetTaken k p).countSpill k p).sendItem j
      { vc := vc, flits := State.packetFlits p, msg := .packet j vc { p with hops := p.hops + 1, vc := vc } } := by
  rw [packetArrive_onward ha hc hok hd hh]
  unfold State.forward
  rw [hn]
  rfl

end
end

/-! ### A route table (R362, R363) -/

theorem or_load_mask (v : W64) : (v ||| fld 1 17) &&& mask 16 0 = v &&& 0x1FFFF#64 := by
  have hbit : fld 1 17 &&& mask 16 0 = 0#64 := by decide
  have hmask : mask 16 0 = 0x1FFFF#64 := by decide
  rw [BitVec.and_or_distrib_right, hbit, hmask, BitVec.or_zero]

theorem or_load_count (v : W64) : bits (v ||| fld 1 17) 16 0 = v.toNat % 131072 := by
  have h := congrArg BitVec.toNat (or_load_mask v)
  have hmask : (mask 16 0).toNat = 2 ^ 17 - 1 := by decide
  have hmask' : (0x1FFFF#64).toNat = 2 ^ 17 - 1 := by decide
  rw [BitVec.toNat_and, BitVec.toNat_and, hmask, hmask', Nat.and_two_pow_sub_one_eq_mod, Nat.and_two_pow_sub_one_eq_mod] at h
  exact h

theorem or_load_bit (v : W64) : bit (v ||| fld 1 17) 17 = true := by
  have h : (fld 1 17).getLsbD 17 = true := by decide
  unfold bit
  rw [BitVec.getLsbD_or, h, Bool.or_true]

theorem setAll_routeCtrl_loadAddr (s : State) (v : W64) :
    (s.setAll FAB_ROUTE_CTRL v).reg (FAB_ROUTE_LOAD_ADDR 0) = s.reg (FAB_ROUTE_LOAD_ADDR 0) := by
  have hinj : ∀ i j, i < 4 → j < 4 → FAB_ROUTE_CTRL i = FAB_ROUTE_CTRL j → i = j := fun i j _ _ h => by
    have e : (i * 0x100000000 + 0x230 : Nat) = j * 0x100000000 + 0x230 := h
    omega
  obtain ⟨_, _, hother⟩ := setAll_four s FAB_ROUTE_CTRL v hinj
  refine hother _ fun q h => ?_
  have e : (0 * 0x100000000 + 0x238 : Nat) = q * 0x100000000 + 0x230 := h
  omega

/-- The end of a load with its status (R363). -/
def State.loadEnds (w : State) (st : Nat) : State :=
  State.setAll { w with fab := { w.fab with loading := none } } FAB_ROUTE_STATUS (w64 st)

/-- What becomes of the `n` entries of a table once its bytes are read, `bad` being the first poisoned one (R332, R362, R363). -/
def State.tableRead (w : State) (me r n : Nat) (bs : List Byte) (bad : Option Nat) : State :=
  let es := (List.range n).map fun i => State.entryOf ((bs.drop (16 * i)).take 16)
  match bad with
  | some x => (w.log r stPOISON 2 (engineAgent me r 1).code (x / 8 * 8) 0).loadEnds stPOISON
  | none =>
    if es.all (·.2) && w.tableOk (es.map (·.1)) then
      State.loadEnds { w with fab := { w.fab with loaded := some (es.map (·.1)), old := none } } stOK
    else w.loadEnds stRANGE

section
variable {u : State} {a n : Nat} (hload : u.fab.loading = some (a, n))
include hload

theorem routeLoad_range (h : 65536 < n ∨ u.bytesReachable a (16 * n) = false) : u.routeLoad = u.loadEnds stRANGE := by
  unfold State.routeLoad
  split
  · next hnone => exact absurd (hload.symm.trans hnone) (by simp)
  · next a' n' hsome =>
    obtain ⟨rfl, rfl⟩ : a = a' ∧ n = n' := by simpa using hload.symm.trans hsome
    exact if_pos (h.imp_right fun h => by rw [h]; rfl)

variable (hn : n ≤ 65536) (hreach : u.bytesReachable a (16 * n) = true)
include hn hreach

theorem routeLoad_waits (hwait : u.rangeWaits a (16 * n) false = true) : u.routeLoad = u.setAll FAB_ROUTE_STATUS 0x100 := by
  unfold State.routeLoad
  split
  · next hnone => exact absurd (hload.symm.trans hnone) (by simp)
  · next a' n' hsome =>
    obtain ⟨rfl, rfl⟩ : a = a' ∧ n = n' := by simpa using hload.symm.trans hsome
    have hgood : ¬ (65536 < n ∨ (!u.bytesReachable a (16 * n)) = true) := by
      rw [hreach]
      rintro (h | h)
      · omega
      · exact absurd h (by decide)
    exact (if_neg hgood).trans (if_pos hwait)

theorem routeLoad_read (hwait : u.rangeWaits a (16 * n) false = false) {w : State} {bs : List Byte} {bad : Option Nat}
    (hread : u.readBytes (engineAgent u.moduleId u.masterRegion 1) a (16 * n) = (w, bs, bad)) :
    u.routeLoad = w.tableRead u.moduleId u.masterRegion n bs bad := by
  unfold State.routeLoad
  split
  · next hnone => exact absurd (hload.symm.trans hnone) (by simp)
  · next a' n' hsome =>
    obtain ⟨rfl, rfl⟩ : a = a' ∧ n = n' := by simpa using hload.symm.trans hsome
    have hgood : ¬ (65536 < n ∨ (!u.bytesReachable a (16 * n)) = true) := by
      rw [hreach]
      rintro (h | h)
      · omega
      · exact absurd h (by decide)
    dsimp only
    rw [if_neg hgood, if_neg (Bool.eq_false_iff.1 hwait), hread]
    cases bad <;> rfl

end

/-- The state of a load that begins, before its table is read (R363). -/
def State.loadBegins (s : State) (v : W64) : State :=
  let given := s.setAll FAB_ROUTE_CTRL (v &&& 0x1FFFF)
  { given with fab := { given.fab with loading := some ((s.reg (FAB_ROUTE_LOAD_ADDR 0)).toNat, v.toNat % 131072) } }

theorem routeCtrlWrite_refused {s : State} (ag : Agent) (v : W64) (h : ¬ (s.fab.swRoutes = true ∧ s.fab.loading = none)) :
    s.routeCtrlWrite ag (v ||| fld 1 17) =
      s.log s.masterRegion stSTATE 1 ag.code (FAB_ROUTE_CTRL s.masterRegion % 0x100000000) 0 := by
  refine if_pos ?_
  rw [or_load_bit, Bool.true_and, Bool.or_eq_true, Bool.not_eq_true', Option.isSome_iff_ne_none]
  by_cases hs : s.fab.swRoutes = true
  · exact .inr fun hl => h ⟨hs, hl⟩
  · exact .inl (Bool.eq_false_iff.2 hs)

theorem routeCtrlWrite_loads {s : State} (ag : Agent) (v : W64) (h : s.fab.swRoutes = true ∧ s.fab.loading = none) :
    s.routeCtrlWrite ag (v ||| fld 1 17) = (s.loadBegins v).routeLoad := by
  obtain ⟨hs, hl⟩ := h
  have hidle : ¬ (bit (v ||| fld 1 17) 17 && (!s.fab.swRoutes || s.fab.loading.isSome)) = true := by
    rw [hs, hl, or_load_bit]
    decide
  unfold State.routeCtrlWrite
  dsimp only
  rw [if_neg hidle, or_load_bit, or_load_mask, or_load_count, setAll_routeCtrl_loadAddr]
  rfl

/-! ### The clauses of O39 -/

/-- Settles O39: a packet is ignored, discarded, kept or forwarded as its header says; a load is refused, waits or ends. -/
theorem packetsArriveAndAreForwarded : Obligations.PacketsArriveAndAreForwarded := by
  unfold Obligations.PacketsArriveAndAreForwarded
  intro s hpow
  refine ⟨fun k p hk => ?packet, fun ag v hag => ?load⟩
  case packet =>
    intro freed u discard bad control spilled looked
    have hgot {t : State} (h : s.packetArrive k p = t) : exec (.fabricPacketArrive k p) s = .next t :=
      (exec_fabricPacketArrive k p s (decide_eq_true hk) hpow).trans (congrArg _ h)
    refine ⟨fun h => hgot (packetArrive_ignored h), fun h => ?early, fun ha hc => ?control, fun ha hc => ⟨fun hb => ?malformed,
      fun hb hd => ?mine, fun hb hd hh => ?far, fun hb hd hh hn => ?lost, fun j vc hb hd hh hn => ?onward⟩⟩
    case early => exact hgot (packetArrive_frees (.inr h) (.inl (by rcases h with h | h <;> rw [h] <;> decide)))
    case control => exact hgot (packetArrive_frees (.inl ha) (.inr hc))
    case malformed => exact hgot (packetArrive_malformed ha hc hb)
    case mine => exact hgot (packetArrive_mine ha hc hb hd)
    case far => exact hgot (packetArrive_tooFar ha hc hb hd hh)
    case lost => exact hgot (packetArrive_noRoute ha hc hb hd hh hn)
    case onward => exact hgot (packetArrive_forwarded ha hc hb hd hh hn)
  case load =>
    intro r n a given u done idle
    have hexec := exec_routeLoad ag v s hag hpow
    have hgot {t : State} (hidle : idle) (h : u.routeLoad = t) : exec (.routeLoad ag v) s = .next t :=
      hexec.trans (congrArg _ ((routeCtrlWrite_loads ag v hidle).trans h))
    have hload : u.fab.loading = some (a, n) := rfl
    refine ⟨fun h => hexec.trans (congrArg _ (routeCtrlWrite_refused ag v h)), fun hidle h => hgot hidle (routeLoad_range hload h),
      fun hidle hn hreach => ⟨fun hwait => hgot hidle (routeLoad_waits hload hn hreach hwait), fun w bs bad hwait hread => ?read⟩⟩
    case read =>
      have h := routeLoad_read hload hn hreach hwait hread
      intro es ok
      refine ⟨fun x hx => ?poisoned, fun hb hok => ?good, fun hb hok => ?wrong⟩
      case poisoned =>
        subst hx
        exact hgot hidle h
      case good =>
        subst hb
        exact hgot hidle (h.trans (if_pos hok))
      case wrong =>
        subst hb
        exact hgot hidle (h.trans (if_neg (Bool.eq_false_iff.1 hok)))

end Machine

end Sys2Proof

/-!
PROOFS. Power up and down, boots and resets, and the states of the module (R350, R454, R455, R504 to R511, R516): O59.
-/
namespace Sys2Proof.Machine

/-! ### Changes of the module state (Table 16.1) -/

/-- The change of the module state, written out: nothing where the module is in it already, else its event. -/
theorem enterState_cases (u : State) (st : ModState) :
    if u.mgmt.state = st then u.enterState st = u
    else u.enterState st =
      ({ u with mgmt := { u.mgmt with state := st } } : State).event 1 (fld u.mgmt.state.code 0 ||| fld st.code 3) := by
  unfold State.enterState
  split <;> rfl

/-- Uluell does not run in OFF, so that no slot takes the event of entering it. -/
theorem enterState_off {s : State} (h : s.mgmt.state ≠ .off) : s.enterState .off = { s with mgmt := { s.mgmt with state := .off } } :=
  (if_neg h).trans (if_pos rfl)

/-! ### Power up and down (R454, R455, R516) -/

/-- Uluell as it starts from OFF: its address, requests, nonce and unlock are cleared. -/
def Mgmt.started (g : Mgmt) (slotId : Nat) : Mgmt :=
  { g with dynAddr := none, ibi := false, slotId := slotId % 16, i3c := {}, host := {}, core := {}, requests := [], nonce := none,
           unlocked := false, jtag := none, bootStep := 0, bootFault := 0 }

theorem auxPowerUp_off {s : State} {n : Nat} {rev : Bool} (h : s.mgmt.state = .off) :
    let t := State.enterState { s with
      power := { s.power with
        reversedSeen := false, input := if rev = true ∨ s.power.reversedSeen = true then s.power.input ||| fld 1 50 else s.power.input }
      mgmt := s.mgmt.started n } .aux
    s.auxPowerUp n rev = if rev = true ∨ s.power.reversedSeen = true then t.event 4 t.power.input else t := by
  intro t
  have hseen : (rev || s.power.reversedSeen) = true ↔ rev = true ∨ s.power.reversedSeen = true := Bool.or_eq_true_iff
  have ht : t = State.enterState { s with
      power := { s.power with
        reversedSeen := false, input := if (rev || s.power.reversedSeen) = true then s.power.input ||| fld 1 50 else s.power.input }
      mgmt := s.mgmt.started n } .aux := by
    simp only [hseen]
    rfl
  simp only [← hseen]
  rw [ht]
  exact if_neg (not_not.2 h)

theorem auxPowerDown_aux {s : State} (h : s.mgmt.state = .aux) : s.auxPowerDown = { s with
    mgmt := { s.mgmt with state := .off }, power := { s.power with inputLost := true, steady := false } } :=
  (if_pos h).trans (enterState_off (s := s.updPower fun p => { p with inputLost := true, steady := false })
    (by rw [show (s.updPower fun p => { p with inputLost := true, steady := false }).mgmt = s.mgmt from rfl, h]; decide))

/-! ### A boot begins (R504, R505) -/

/-- The state that a boot starts from, before BOOT is entered. -/
def State.bootReset (s : State) (warm : Bool) : State :=
  let s : State := { s.resetPackage with fab := { serial := s.fab.serial, bootCount := (s.fab.bootCount + 1) % 65536 } }
  let s : State := if warm then s
    else ({ s with rails := [] } : State).updKiln fun k => { k with interval := { k.interval with first := true } }
  s.updMgmt fun m => { m with bootStep := if warm then 3 else 1, bootFault := 0, warm := warm, step6 := false, step7 := false }

/-- The dies do not run in BOOT, so that its event reaches the mailbox slots and the wires only. -/
theorem startBoot_eq (s : State) (warm : Bool) : ∃ i3c host core out, s.startBoot warm = { s.bootReset warm with
    mgmt := { (s.bootReset warm).mgmt with state := .boot, i3c := i3c, host := host, core := core }, outbox := out } := by
  have h : s.startBoot warm = (s.bootReset warm).enterState .boot := rfl
  have hframe : s.startBoot warm = { s.bootReset warm with
      mgmt := (s.startBoot warm).mgmt, outbox := (s.startBoot warm).outbox } := by
    rw [h]
    unfold State.enterState
    split
    · rfl
    · exact event_quiet _ _ _ rfl
  obtain ⟨-, u, hu, -, hreports⟩ := enterState_ok (s.bootReset warm) .boot
  have hmgmt := hreports.2
  rw [hu, ← h] at hmgmt
  rw [hmgmt] at hframe
  exact ⟨_, _, _, _, hframe⟩

/-! ### The steps of a boot (R508 to R511, Table 16.2) -/

theorem thenStep_faulted {s : State} {f : State → State} (h : s.mgmt.bootFault ≠ 0) : s.thenStep f = s := if_neg h

theorem thenStep_sound {s : State} {f : State → State} (h : s.mgmt.bootFault = 0) : s.thenStep f = f s := if_pos h

theorem bootFail_bootFault (s : State) (step code : Nat) : (s.bootFail step code).mgmt.bootFault = code := by
  have h := (event_reports ((s.updMgmt fun m => { m with bootStep := step, bootFault := code }).railsOff) 2 (w64 code)).2
  exact (congrArg Mgmt.bootFault h).trans rfl

/-- Steps 1 to 5 of a boot, or 3 to 5 of a warm one. -/
def State.fiveSteps (s : State) (i : BootInput) : State :=
  let a := if s.mgmt.warm = true then s else (s.boot1 i).thenStep fun u => u.boot2 i
  ((a.thenStep State.boot3).thenStep fun u => u.boot4 i).thenStep fun u => u.boot5 i

/-- The image slots that hold a valid image (R510). -/
def State.validImages (s : State) (i : BootInput) : List (Nat × Verdict) :=
  [(0, i.slotA), (1, i.slotB)].filter fun x => s.slotValid x.1 x.2

/-- The order of the two slots does not matter to which of them are valid. -/
theorem mem_slotOrder {s : State} {i : BootInput} {x : Nat × Verdict} : x ∈ s.slotOrder i ↔ x ∈ s.validImages i := by
  unfold State.slotOrder State.validImages
  dsimp only
  rw [List.mem_filter, List.mem_filter]
  split
  · simp only [List.mem_cons, List.not_mem_nil, or_false]
    rw [or_comm (a := x = _)]
  · rfl

theorem slotOrder_nil {s : State} {i : BootInput} : s.slotOrder i = [] ↔ s.validImages i = [] := by
  simp only [List.eq_nil_iff_forall_not_mem, mem_slotOrder]

section
variable {s : State} {i : BootInput}

theorem boot1_noContent (h : ∀ x ∈ s.validImages i, s.slotContent x.1 x.2 = false) :
    s.boot1 i = s.bootFail 1 (if s.validImages i = [] then 1 else 2) := by
  have hnone : (s.slotOrder i).find? (fun x => s.slotContent x.1 x.2) = none :=
    List.find?_eq_none.2 fun x hx => Bool.eq_false_iff.1 (h x (mem_slotOrder.1 hx))
  unfold State.boot1
  dsimp only
  rw [hnone]
  simp only [slotOrder_nil]
  rfl

theorem fiveSteps_noContent (hw : s.mgmt.warm = false) (h : ∀ x ∈ s.validImages i, s.slotContent x.1 x.2 = false) :
    s.fiveSteps i = s.bootFail 1 (if s.validImages i = [] then 1 else 2) := by
  have hfault : (s.bootFail 1 (if s.validImages i = [] then 1 else 2)).mgmt.bootFault ≠ 0 := by
    rw [bootFail_bootFault]
    split <;> decide
  unfold State.fiveSteps
  dsimp only
  rw [hw, if_neg (by decide), boot1_noContent h, thenStep_faulted hfault, thenStep_faulted hfault, thenStep_faulted hfault,
    thenStep_faulted hfault]

theorem boot_elsewhere (hb : s.mgmt.state ≠ .boot) (hc : s.mgmt.state ≠ .configured) : s.boot i = s := by
  unfold State.boot
  split
  · next h => exact absurd h hb
  · next h => exact absurd h hc
  · rfl

theorem boot_configured (hc : s.mgmt.state = .configured) : s.boot i =
    if s.mgmt.step7 = true ∧ s.epochSet = true then (s.updMgmt fun m => { m with bootStep := 0 }).enterRun else s := by
  unfold State.boot
  rw [hc]

/-- The input has lain in range, which a warm boot does not ask for (R454). -/
def State.inputReady (s : State) : Prop := s.power.inputLost = false ∧ (s.mgmt.warm = true ∨ s.power.steady = true)

section
variable (hb : s.mgmt.state = .boot)
include hb

theorem boot_held (h : s.mgmt.bootFault ≠ 0 ∨ ¬ s.inputReady) : s.boot i = s := by
  unfold State.boot
  rw [hb]
  refine if_pos (h.imp_right fun h => ?_)
  rw [Bool.not_eq_true', Bool.not_eq_true']
  by_contra hno
  refine h ⟨Bool.eq_false_iff.2 fun hl => hno (.inl hl), ?_⟩
  by_contra hnot
  obtain ⟨hw, hs⟩ := not_or.1 hnot
  exact hno (.inr ⟨Bool.eq_false_iff.2 hw, Bool.eq_false_iff.2 hs⟩)

theorem boot_runs (hf : s.mgmt.bootFault = 0) (hin : s.inputReady) :
    s.boot i = (s.fiveSteps i).thenStep fun u =>
      let v := (u.updMgmt fun m => { m with bootStep := 6 }).enterState .configured
      if (v.boot6 i).holdOn then v.boot6 i else (v.boot6 i).boot7 := by
  obtain ⟨hlost, hready⟩ := hin
  unfold State.boot
  rw [hb]
  refine if_neg ?_
  rintro (h | h | ⟨hw, hs⟩)
  · exact h hf
  · exact absurd (hlost.symm.trans h) (by decide)
  · rcases hready with h | h
    · rw [h] at hw
      exact absurd hw (by decide)
    · rw [h] at hs
      exact absurd hs (by decide)

end

end

/-! ### Requests of a mailbox slot (R504 to R507, R519) -/

section
variable {s : State} {sl : Slot} {m : Msg} {rest : List Request} (hon : s.mgmt.state ≠ .off)
  (hreq : s.mgmt.requests = { slot := sl, msg := m } :: rest) (hrsv : m.rsvBad = false) (hpay : m.payload = []) (hlen : m.length = 0)
include hon hreq hrsv hpay hlen

/-- A request that resets the package, in a state that allows it and from a slot of its row. -/
theorem afterRecords_accepted {op : Nat} {go : State → State} (ho : m.opcode = op) (hlegal : s.cmdLegal op = true)
    (hlength : cmdLength op 0 m = true) (hfrom : cmdFrom op sl = true) :
    s.afterRecords op sl m go = if s.powered = true ∧ s.recordsDone = false then s.finishTags else go s := by
  have hhead : s.atHead op sl m = true := (atHead_true ..).2 ⟨hon, ho, rest, hreq⟩
  have hok : s.cmdRefusal sl m false = stOK := by
    have hgood : ¬ (msgMalformed m || false) = true := by
      rw [malformed_iff, ho, hrsv, hlen, hlength, hpay]
      simp
    rw [refusal_eq, ho, if_neg (by rw [hlegal]; decide), if_neg hgood, if_neg (by rw [hfrom]; decide)]
  unfold State.afterRecords
  rw [if_neg (by rw [hhead]; decide)]
  dsimp only
  rw [if_neg (by rw [hok]; simp)]
  simp only [Bool.and_eq_true, Bool.not_eq_true']

/-- A request whose action answers OK, in a state that allows it. -/
theorem execute_simply {op : Nat} {act : State → State} (ho : m.opcode = op) (hlegal : s.cmdLegal op = true)
    (hlength : cmdLength op 0 m = true) (hfrom : cmdFrom op sl = true) :
    s.execute op sl m false (State.simply act) = (act s).answerHead { status := stOK } :=
  execute_done s sl m rest op false _ hon hreq hrsv (by rw [hpay, hlen]; rfl) ho (by rw [hlen]; exact hlength) hlegal hfrom rfl

end

/-! ### The clauses of O59 -/

/-- Settles O59: the changes of state by `enterState_cases`, a boot's start by its frame, its steps by `boot_runs`, and each request
by what it does once it is accepted. -/
theorem moduleStateAndBoot : Obligations.ModuleStateAndBoot := by
  unfold Obligations.ModuleStateAndBoot
  intro s g enters fault runs
  have henters (u : State) (st : ModState) : enters u st (u.enterState st) := enterState_cases u st
  refine ⟨fun n rev => ?powerUp, fun ha => ?powerDown, fun ha => ?powerDownIdle, ?autoBoot, fun u warm => ?startBoot, fun i => ?boot,
    fun hb hf => ?late, fun h => ?lateIdle, fun sl m rest hon hreq hrsv hpay hlen => ?requests⟩
  case powerUp =>
    have hexec := exec_auxPowerUp n rev s rfl
    exact ⟨fun h => hexec.trans (congrArg _ (if_pos h)), fun h => ⟨_, hexec.trans (congrArg _ (auxPowerUp_off h)), henters _ _⟩⟩
  case powerDown => exact (exec_auxPowerDown s rfl).trans (congrArg _ (auxPowerDown_aux ha))
  case powerDownIdle => exact (exec_auxPowerDown s rfl).trans (congrArg _ (if_neg ha))
  case autoBoot =>
    intro u boots
    have hu : s.inputGood = u := rfl
    have hm : u.mgmt = s.mgmt := by
      unfold u
      split <;> rfl
    have hauto : u.autoBootOn = s.autoBootOn := by
      unfold State.autoBootOn State.settingValue State.override
      rw [hm]
    have hboots : (u.mgmt.state = .aux ∧ (!u.power.inputLost) = true ∧ u.autoBootOn = true) ↔ boots := by
      rw [hm, hauto, Bool.not_eq_true']
    have hexec := exec_autoBoot s rfl
    exact ⟨fun h => hexec.trans (congrArg _ (if_pos (hboots.2 h))), fun h => hexec.trans (congrArg _ (if_neg (mt hboots.1 h)))⟩
  case startBoot =>
    intro t
    obtain ⟨i3c, host, core, out, h⟩ := startBoot_eq u warm
    rw [show t = _ from h]
    cases warm with
    | false =>
      exact ⟨rfl, rfl, rfl, rfl, rfl, rfl, rfl, rfl, rfl, rfl, rfl, rfl, rfl, (Bool.or_true _).symm, rfl, rfl, rfl, rfl, rfl⟩
    | true =>
      exact ⟨rfl, rfl, rfl, rfl, rfl, rfl, rfl, rfl, rfl, rfl, rfl, rfl, rfl, (Bool.or_false _).symm, rfl, rfl, rfl, rfl, rfl⟩
  case boot =>
    intro go images good
    have hgo {t : State} (h : s.boot i = t) : go = .next (s.noted t) := (exec_boot i s rfl).trans (by rw [h])
    refine ⟨fun hb hf hgood => ?steps, fun hb h => hgo (boot_held hb h), fun hc h7 he => ?runs, fun hc h => ?waits,
      fun hb hc => hgo (boot_elsewhere hb hc)⟩
    case steps =>
      intro a u
      have hsteps := boot_runs (i := i) hb hf hgood
      have hfail (hw : g.warm = false) (h : ∀ x ∈ images, s.slotContent x.1 x.2 = false) :
          s.boot i = s.bootFail 1 (if images = [] then 1 else 2) := by
        rw [hsteps, fiveSteps_noContent hw h]
        refine thenStep_faulted ?_
        rw [bootFail_bootFault]
        split <;> decide
      refine ⟨fun h => hgo (hsteps.trans (thenStep_faulted h)),
        fun h => ⟨_, henters _ _, hgo (hsteps.trans (thenStep_sound h))⟩,
        fun hw hn => ⟨_, rfl, hgo ?_⟩, fun hw hn h => ⟨_, rfl, hgo ?_⟩⟩
      · exact (hfail hw (by rw [hn]; simp)).trans (by rw [if_pos hn]; rfl)
      · exact (hfail hw h).trans (by rw [if_neg hn]; rfl)
    case runs => exact ⟨_, henters _ _, hgo ((boot_configured hc).trans (if_pos ⟨h7, he⟩))⟩
    case waits =>
      refine hgo ((boot_configured hc).trans (if_neg ?_))
      rintro ⟨h7, he⟩
      rcases h with h | h
      · exact absurd (h.symm.trans h7) (by decide)
      · exact absurd (h.symm.trans he) (by decide)
  case late => exact ⟨_, rfl, (exec_bootStepTimeout s rfl).trans (congrArg _ (if_pos ⟨hb, hf⟩))⟩
  case lateIdle =>
    refine (exec_bootStepTimeout s rfl).trans (congrArg _ (if_neg ?_))
    rintro ⟨hb, hf⟩
    rcases h with h | h
    · exact h hb
    · exact h hf
  case requests =>
    intro done waits
    have hreset {op : Nat} {go : State → State} := afterRecords_accepted (op := op) (go := go) hon hreq hrsv hpay hlen
    have hsimple {op : Nat} {act : State → State} := execute_simply (op := op) (act := act) hon hreq hrsv hpay hlen
    refine ⟨fun ho h => ?cold, fun ho hp => ?warm, fun ho hp hsl => ?off, fun ho hc h6 => ?run,
      fun ho h => ?quiesce, fun ho h => ?resume⟩
    case cold =>
      intro idle v
      have hlegal : s.cmdLegal 0x08 = true := by
        show (s.mgmt.state != .boot || s.mgmt.bootFault != 0) = true
        simpa using h
      exact (exec_coldBoot sl m s rfl).trans (congrArg _ (hreset ho hlegal rfl rfl))
    case warm => exact (exec_warmReset sl m s rfl).trans (congrArg _ (hreset ho hp rfl rfl))
    case off =>
      have hfrom : cmdFrom 0x0A sl = true := by
        show (sl != .core) = true
        simpa using hsl
      exact ⟨_, henters _ _, (exec_powerOff sl m s rfl).trans (congrArg _ (hreset ho hp rfl hfrom))⟩
    case run =>
      have hlegal : s.cmdLegal 0x0B = true := by
        show (s.mgmt.state == .configured && s.mgmt.step6) = true
        rw [Bool.and_eq_true, beq_iff_eq]
        exact ⟨hc, h6⟩
      exact (exec_run sl m s rfl).trans (congrArg _ (hsimple ho hlegal rfl rfl))
    case quiesce =>
      have hlegal : s.cmdLegal 0x0C = true := by
        show (s.mgmt.state == .run || s.mgmt.state == .degraded) = true
        rw [Bool.or_eq_true, beq_iff_eq, beq_iff_eq]
        exact h
      exact ⟨_, henters _ _, (exec_quiesce sl m s rfl).trans (congrArg _ (hsimple ho hlegal rfl rfl))⟩
    case resume =>
      have hlegal : s.cmdLegal 0x0D = true := by
        show (s.mgmt.state == .quiesce) = true
        rw [beq_iff_eq]
        exact h
      exact ⟨_, henters _ _, (exec_resume sl m s rfl).trans (congrArg _ (hsimple ho hlegal rfl rfl))⟩

end Sys2Proof.Machine

/-!
PROOFS. Steps and completions (logs 3, 7 and 9): O1 and O3.
-/
namespace Sys2Proof.Machine

/-- Settles O1: the step's own equations; a tick leaves the queue as every operation does (O5). -/
theorem stepsTakeTheFrontCommand : Obligations.StepsTakeTheFrontCommand := by
  unfold Obligations.StepsTakeTheFrontCommand
  have htick : ∀ s : State, s.pending = [] → step s = .next s.tick ∧ s.tick.pending = [] := fun s hs =>
    ⟨by rw [step, hs], (commandsLeaveQueueIdentityAndTime.2 s).1.trans hs⟩
  refine ⟨?front, ?push, htick, ?off, ?word⟩
  case front =>
    intro s c rest h
    rw [step, h]
  case push => exact fun s c t h => h
  case off =>
    intro s hs hp
    rw [(htick s hs).1, State.tick, hp]
    rfl
  case word => exact fun s nbits w => ⟨rfl, rfl⟩

/-! ### Every command is an operation behind the check of its operands, and one of the dies also behind that of the rails -/

theorem exec_taken (c : Instr) (h : takenWithoutRails c = true) : ∃ f : State → State, ∀ s, exec c s = checked c.wf s f := by
  cases c <;> cases h <;> exact ⟨_, fun _ => rfl⟩

theorem exec_railed (c : Instr) (h : takenWithoutRails c = false) : ∃ f : State → State, ∀ s, exec c s = railed c.wf s f := by
  cases c <;> cases h <;> exact ⟨_, fun _ => rfl⟩

theorem exec_checked (c : Instr) : ∃ f : State → State, ∀ s, exec c s = checked c.wf s f := by
  cases h : takenWithoutRails c with
  | true => exact exec_taken c h
  | false =>
    obtain ⟨f, hf⟩ := exec_railed c h
    exact ⟨_, hf⟩

theorem exec_of_checked {c : Instr} {s : State} {f : State → State} (h : exec c s = checked c.wf s f) (hw : c.wf = true) :
    exec c s = .next (f s) := h.trans (checked_on hw)

/-- Settles O3: the check of the operands and of the rails stands before every operation, and each command's operation is the one
that the statement writes beside it. -/
theorem wellFormedCommandsAlwaysComplete : Obligations.WellFormedCommandsAlwaysComplete := by
  unfold Obligations.WellFormedCommandsAlwaysComplete
  refine ⟨fun c s => ⟨fun hw => ?_, fun hw => ?_, fun hw hp hc => ?_⟩, fun s => ?_, fun s hp => ?_⟩
  · obtain ⟨f, hf⟩ := exec_checked c
    exact ⟨f s, exec_of_checked (hf s) hw⟩
  · obtain ⟨f, hf⟩ := exec_checked c
    rw [hf s, checked, hw]
    rfl
  · obtain ⟨f, hf⟩ := exec_railed c hc
    rw [hf s, railed_off hw hp]
  · exact ⟨
    exec_signToken s rfl, exec_signDone s rfl, exec_ledgerAppend s rfl, exec_pageProgram s rfl, exec_inputLoss s rfl,
    exec_inputOvervoltage s rfl, exec_inputOvercurrent s rfl, exec_thermalTrip s rfl, exec_auxPowerDown s rfl,
    exec_autoBoot s rfl, exec_bootStepTimeout s rfl, exec_mbxResponse s rfl, exec_rstdaa s rfl, exec_getpid s rfl,
    exec_getbcr s rfl, exec_getdcr s rfl, exec_getstatus s rfl, exec_getmwl s rfl, exec_getmrl s rfl,
    exec_journalCompact s rfl, exec_inputReversed s rfl, fun upTo => exec_ledgerCompact upTo s,
    fun volts => exec_inputLow volts s, fun slotId reversedSeen => exec_auxPowerUp slotId reversedSeen s,
    fun i => exec_boot i s, fun ag sl m => exec_mbxGo ag sl m s, fun ag sl => exec_mbxAck ag sl s,
    fun bytes => exec_i3cPrivateWrite bytes s, fun n => exec_i3cPrivateRead n s, fun da => ⟨exec_entdaa da s,
    exec_setnewda da s⟩, fun events => ⟨exec_enec events s, exec_disec events s⟩, fun sl m => ⟨exec_getStatus sl m s,
    exec_getIdentity sl m s, exec_getCert sl m s, exec_getEvent sl m s, exec_coldBoot sl m s, exec_warmReset sl m s,
    exec_powerOff sl m s, exec_run sl m s, exec_quiesce sl m s, exec_resume sl m s, exec_overrideSet sl m s,
    exec_overrideGet sl m s, exec_overrideClear sl m s, exec_imageWrite sl m s, exec_coreOffline sl m s,
    exec_coreClearFail sl m s, exec_muteListGet sl m s, exec_muteListRemove sl m s, exec_evidenceRead sl m s,
    exec_evidenceRelease sl m s, exec_fuseRearm sl m s, exec_ledgerRead sl m s⟩, fun sl m v => exec_imageCommit sl m v s,
    fun sl m passed => exec_coreOnline sl m passed s, fun sl m nonce sigOk => exec_debugUnlock sl m nonce sigOk s,
    fun boundaryScan => exec_jtagInstruction boundaryScan s⟩
  · exact ⟨
    fun ag addr v => (exec_registerWrite ag addr v s · hp),
    fun ag addr size write => (exec_misalignedRegAccess ag addr size write s · hp),
    fun ag r v => ⟨(exec_fabFretPeriodWrite ag r v s · hp), (exec_watchCountClear ag r v s · hp),
    (exec_mgmtCohCountClear ag r v s · hp), (exec_groupRebuild ag r v s · hp), (exec_patRead ag r v s · hp),
    (exec_patWrite ag r v s · hp), (exec_setCopyValid ag r v s · hp), (exec_clearCopyValid ag r v s · hp),
    (exec_mgmtMemCountClear ag r v s · hp), (exec_fabCollCountClear ag r v s · hp), (exec_kilnRingHeadWrite ag r v s · hp),
    (exec_kilnAckSeqWrite ag r v s · hp), (exec_kilnCountClear ag r v s · hp), (exec_pwrModuleLimitWrite ag r v s · hp),
    (exec_mgmtEvidRelease ag r v s · hp), (exec_mgmtErrCountClear ag r v s · hp)⟩, fun m => (exec_fretMark m s · hp),
    fun r d => (exec_vfStepRise r d s · hp), fun edge lost fl => (exec_lateralPathChange edge lost fl s · hp),
    fun b => ⟨(exec_mxLoad b s · hp), (exec_mxLoadPathStart b s · hp), (exec_mxLoadDone b s · hp), (exec_mxSwap b s · hp),
    (exec_mxSwapCycle b s · hp), (exec_mxStream b s · hp), (exec_groupCheck b s · hp), (exec_mxRowCommit b s · hp),
    (exec_feedPegRelease b s · hp), (exec_blockResetRelease b s · hp), (exec_seqDoubleTrap b s · hp)⟩,
    fun b granted errs parity => (exec_mxRowFeed b granted errs parity s · hp), fun b n => ⟨(exec_mxDrain b n s · hp),
    (exec_mxSeed b n s · hp), (exec_veUnary b n s · hp), (exec_veQuantMx b n s · hp), (exec_lyTranspose b n s · hp),
    (exec_lyCopy2d b n s · hp), (exec_lyPad b n s · hp), (exec_lyConvert b n s · hp), (exec_gsGather b n s · hp),
    (exec_gsScatter b n s · hp), (exec_gsLoad b n s · hp), (exec_gsStore b n s · hp), (exec_skSort b n s · hp),
    (exec_skTopk b n s · hp)⟩, fun ag b v => ⟨(exec_mxCountClear ag b v s · hp), (exec_blkTokenErrClear ag b v s · hp),
    (exec_blkCplCtrlWrite ag b v s · hp), (exec_blkCplHeadWrite ag b v s · hp), (exec_blkCountClear ag b v s · hp),
    (exec_blkAsyncErrClear ag b v s · hp)⟩, fun b v => (exec_cmdPush b v s · hp), fun b e => ⟨(exec_spillRefill b e s · hp),
    (exec_tokenWaitEnd b e s · hp), (exec_completionWrite b e s · hp)⟩, fun b n err => ⟨(exec_veBinary b n err s · hp),
    (exec_veFma b n err s · hp), (exec_veReduce b n err s · hp), (exec_veRawCombine b n err s · hp)⟩,
    fun ag b => ⟨(exec_blkStart ag b s · hp), (exec_blkHalt ag b s · hp), (exec_blkReset ag b s · hp)⟩,
    fun b cause => (exec_blockMute b cause s · hp), fun h a => ⟨(exec_hartLoad h a s · hp), (exec_hartLr h a s · hp)⟩,
    fun h a v hold => (exec_hartStore h a v hold s · hp), fun h a op v => (exec_hartAmo h a op v s · hp),
    fun h a v => (exec_hartSc h a v s · hp), fun h pred succ tso => (exec_hartFence h pred succ tso s · hp),
    fun h => ⟨(exec_fenceI h s · hp), (exec_wfi h s · hp), (exec_reservationExpire h s · hp), (exec_droopRecover h s · hp),
    (exec_interruptTrap h s · hp)⟩, fun h line => (exec_wcEntryWriteout h line s · hp),
    fun ag c v => (exec_mgmtCoreAsyncErrClear ag c v s · hp), fun tag => ⟨(exec_remoteWriteTimeout tag s · hp),
    (exec_remoteLoadTimeout tag s · hp)⟩, fun ag r c => ⟨(exec_dmaEnable ag r c s · hp), (exec_dmaDisable ag r c s · hp),
    (exec_dmaPause ag r c s · hp), (exec_dmaResume ag r c s · hp), (exec_dmaAbort ag r c s · hp),
    (exec_dmaClearErr ag r c s · hp), (exec_strumLoad ag r c s · hp), (exec_strumStart ag r c s · hp),
    (exec_strumAbort ag r c s · hp), (exec_strumUnload ag r c s · hp)⟩, fun ag r c v => ⟨(exec_dmaDoorbell ag r c v s · hp),
    (exec_dmaChCountClear ag r c v s · hp)⟩, fun r c => ⟨(exec_descFetch r c s · hp), (exec_descRefetch r c s · hp),
    (exec_descFault r c s · hp), (exec_descWriteback r c s · hp), (exec_ringFault r c s · hp),
    (exec_pauseDrainEnd r c s · hp), (exec_strumLoadDone r c s · hp), (exec_strumRunEnd r c s · hp)⟩,
    fun r c n => ⟨(exec_copy r c n s · hp), (exec_fill r c n s · hp), (exec_compare r c n s · hp),
    (exec_copy2d r c n s · hp)⟩, fun ag p v => ⟨(exec_pegSet ag p v s · hp), (exec_pegAdd ag p v s · hp),
    (exec_pegCasExpect ag p v s · hp), (exec_pegCas ag p v s · hp), (exec_pegStatusClear ag p v s · hp)⟩,
    fun ag p sc v => (exec_pegRelAdd ag p sc v s · hp), fun ag p sc => (exec_pegAcqRead ag p sc s · hp),
    fun ag addr size write amo => (exec_pegAccessFault ag addr size write amo s · hp),
    fun ag v => ⟨(exec_watchArm ag v s · hp), (exec_watchCancel ag v s · hp), (exec_routeLoad ag v s · hp),
    (exec_fabCollAbort ag v s · hp), (exec_pwrCountClear ag v s · hp)⟩, fun r => ⟨(exec_watchDeliver r s · hp),
    (exec_eventQueueAdmit r s · hp), (exec_scrubDone r s · hp), (exec_invalidationDone r s · hp), (exec_patCmdDone r s · hp),
    (exec_tokenRefill r s · hp), (exec_memorySpaceEnableSet r s · hp), (exec_memorySpaceEnableClear r s · hp)⟩,
    fun r key => (exec_watchExpire r key s · hp), fun ag => (exec_watchEventRead ag s · hp),
    fun k line victim => ⟨(exec_readShared k line victim s · hp), (exec_readUnique k line victim s · hp),
    (exec_upgrade k line victim s · hp)⟩, fun k line => ⟨(exec_writeBack k line s · hp), (exec_cleanEvict k line s · hp),
    (exec_snoop k line s · hp)⟩, fun port line => (exec_engineRead port line s · hp),
    fun port line data => (exec_engineWrite port line data s · hp),
    fun port line data mask => (exec_engineMaskedWrite port line data mask s · hp),
    fun port line off size op v => (exec_engineAtomic port line off size op v s · hp),
    fun line => (exec_homeTransactionComplete line s · hp), fun r req => (exec_grant r req s · hp),
    fun e => (exec_eccUncorrectable e s · hp), fun ag ch => ⟨(exec_mapOut ag ch s · hp), (exec_testStart ag ch s · hp),
    (exec_testEnd ag ch s · hp)⟩, fun r seed lanes => (exec_maintSlot r seed lanes s · hp),
    fun r m => ⟨(exec_marginCheckDone r m s · hp), (exec_retrainDone r m s · hp)⟩, fun r g => (exec_rebuildDone r g s · hp),
    fun ag ch v => (exec_tgStart ag ch v s · hp), fun ch errs => (exec_tgDone ch errs s · hp),
    fun ag r q p v => (exec_mgmtRegCfgWrite ag r q p v s · hp), fun ag k => ⟨(exec_portEnable ag k s · hp),
    (exec_portDisable ag k s · hp), (exec_retrain ag k s · hp)⟩,
    fun k txGood rxGood reversed inverted peer missing => (exec_trainingAttemptEnd k txGood rxGood reversed inverted peer missing s · hp),
    fun k f => (exec_flitReceive k f s · hp), fun k seq => (exec_retryReq k seq s · hp),
    fun k => ⟨(exec_retryReqRepeat k s · hp), (exec_linkFailure k s · hp), (exec_portDownTimeout k s · hp),
    (exec_timeRespLost k s · hp)⟩, fun k h => (exec_hello k h s · hp), fun k key hops => (exec_elect k key hops s · hp),
    exec_reportTimer s rfl hp, exec_fabricSettle s rfl hp, exec_beatSend s rfl hp, exec_leaderLost s rfl hp,
    exec_routeSwitch s rfl hp, exec_tagBackup s rfl hp, exec_intervalClose s rfl hp, exec_coolantAlarm s rfl hp,
    fun k rep => ⟨(exec_report k rep s · hp), (exec_join k rep s · hp)⟩, fun k m => (exec_map k m s · hp),
    fun k m => (exec_beat k m s · hp),
    fun serial port oldState newState => (exec_portEvent serial port oldState newState s · hp),
    fun k p => (exec_fabricPacketArrive k p s · hp), fun p => ⟨(exec_fabricRead p s · hp), (exec_fabricWrite p s · hp),
    (exec_maskedWrite p s · hp), (exec_atomic p s · hp), (exec_pegOp p s · hp)⟩,
    fun tag status data => ⟨(exec_readData tag status data s · hp), (exec_hostOutboundCompletion tag status data s · hp)⟩,
    fun tag status => (exec_writeAck tag status s · hp), fun tag status v => (exec_atomicData tag status v s · hp),
    fun ag k v => (exec_fabPortCountClear ag k v s · hp), fun k t1 => (exec_timeReqSend k t1 s · hp),
    fun k p t2 t3 => (exec_timeReq k p t2 t3 s · hp), fun k p t4 => (exec_timeResp k p t4 s · hp),
    fun count m => (exec_epochAdopt count m s · hp), fun slot => (exec_slotStart slot s · hp),
    fun k f => (exec_schedFlit k f s · hp), fun r c entry => (exec_peerSilent r c entry s · hp),
    fun r l => (exec_hostLinkUp r l s · hp), fun r k => ⟨(exec_hostLinkDown r k s · hp), (exec_rootPortLinkDown r k s · hp),
    (exec_hostLinkRecovery r k s · hp)⟩, fun r cause => (exec_hostLoss r cause s · hp),
    fun r linkInL0 => (exec_hostLossDone r linkInL0 s · hp),
    fun r f off size write => (exec_hostBar0Access r f off size write s · hp),
    fun r f off size op v => ⟨(exec_hostPegAtomic r f off size op v s · hp), (exec_hostBar2Atomic r f off size op v s · hp)⟩,
    fun r f off n => (exec_hostBar2Read r f off n s · hp),
    fun r f off data attr => (exec_hostBar2Write r f off data attr s · hp),
    fun r f v => (exec_hostFnBar2SlideWrite r f v s · hp),
    fun ag r f word v => (exec_hostOwnershipWrite ag r f word v s · hp),
    fun ag r k v => (exec_hostRpCtrlEnable ag r k v s · hp), fun r k reqId => (exec_deviceAerError r k reqId s · hp),
    fun r k reqId pasid addr storage n write => (exec_deviceInboundRequest r k reqId pasid addr storage n write s · hp),
    fun ag r => ⟨(exec_tagOpen ag r s · hp), (exec_tagClose ag r s · hp), (exec_tagQuery ag r s · hp)⟩,
    fun r rail cause => (exec_railFault r rail cause s · hp), fun ag r d v => (exec_pwrDomainWrite ag r d v s · hp),
    fun r p f d => (exec_budgetMessage r p f d s · hp), fun p => (exec_budgetGrant p s · hp),
    fun r rail => (exec_railOvercurrent r rail s · hp), fun h cycles => (exec_droopDetect h cycles s · hp),
    fun r die celsius => (exec_thermalSample r die celsius s · hp),
    fun a b da db third => (exec_xchkDone a b da db third s · hp), fun a b => (exec_xchkThirdTimeout a b s · hp),
    fun b passed => (exec_tuningCheckEnd b passed s · hp), fun ag r b => ⟨(exec_blkMute ag r b s · hp),
    (exec_blkRelease ag r b s · hp)⟩, fun cls unit => (exec_packRun cls unit s · hp),
    fun cls unit passed => (exec_packResult cls unit passed s · hp), fun link lane => (exec_d2dFlitCrcError link lane s · hp),
    fun link m => (exec_d2dLaneMapExchange link m s · hp), fun link => (exec_heartbeat link s · hp),
    fun r die reason => (exec_dieLost r die reason s · hp), fun r reason => (exec_regionLost r reason s · hp),
    fun ag r die => (exec_rejoin ag r die s · hp), fun r die => ⟨(exec_rejoinDone r die s · hp),
    (exec_rejoinTimeout r die s · hp)⟩, fun r k l => (exec_rootPortLinkUp r k l s · hp),
    fun r f busMaster memEnable bar2Log2 => (exec_configurationWrite r f busMaster memEnable bar2Log2 s · hp)⟩

end Sys2Proof.Machine

/-!
PROOFS. The mailbox's requests and what its queries answer (R519 to R522): O6 and O57.
-/
namespace Sys2Proof.Machine

/-! ### The request in front, executed (R519 to R521) -/

/-- `u` with the request in front answered by `r`. -/
def State.replied (u : State) (sl : Slot) (m : Msg) (rest : List Request) (r : Reply) : State :=
  { u with mgmt := { u.mgmt with requests := { slot := sl, msg := m, answer := some (State.response m r) } :: rest } }

theorem setMailbox_requests (s : State) (sl : Slot) (x : Mailbox) : (s.setMailbox sl x).mgmt.requests = s.mgmt.requests := by
  cases sl <;> rfl

/-- The last page of a longer answer, and a page with more behind it. -/
theorem pageOf_last {all : List Byte} {off : Nat} (hoff : off ≤ all.length) (h : (all.drop off).length ≤ 496) :
    State.pageOf all off = { status := stOK, payload := all.drop off } := by
  have hend : ¬ off + (all.drop off).length < all.length := by rw [List.length_drop]; omega
  simp only [State.pageOf, List.take_of_length_le h, hend, if_false, decide_false]

theorem pageOf_more {all : List Byte} {off : Nat} (h : 496 < (all.drop off).length) :
    State.pageOf all off = { status := stOK, payload := (all.drop off).take 496, more := true, offset := off + 496 } := by
  have hpage : ((all.drop off).take 496).length = 496 := by rw [List.length_take]; omega
  have hend : off + 496 < all.length := by rw [List.length_drop] at h; omega
  simp only [State.pageOf, hpage, hend, if_true, decide_true]

section Front
variable {s u : State} {sl : Slot} {m : Msg} {rest : List Request} {op : Nat} {rsv : Bool} {act : State → State × Reply} {r : Reply}
  (hon : s.mgmt.state ≠ .off) (hreq : s.mgmt.requests = { slot := sl, msg := m } :: rest) (hrsv : m.rsvBad = false)
  (hpay : m.payload.length = m.length)
include hon hreq hrsv hpay

/-- A well-formed request from a slot of its row, in a state that allows it: its action and its answer. -/
theorem execute_answers (ho : m.opcode = op) (hlength : cmdLength op m.length m = true) (hlegal : s.cmdLegal op = true)
    (hfrom : cmdFrom op sl = true) (hgood : rsv = false) (hact : act s = (u, r)) (hu : u.mgmt.requests = s.mgmt.requests) :
    s.execute op sl m rsv act = u.replied sl m rest r := by
  rw [execute_done s sl m rest op rsv act hon hreq hrsv hpay ho hlength hlegal hfrom hgood, hact]
  exact answerHead_eq u sl m rest r (hu.trans hreq)

/-! ### Queries (R517, R521, R522) -/

section Bare
variable (hlen : m.length = 0)
include hlen

theorem getStatus_answers (ho : m.opcode = 0x01) : s.getStatus sl m = s.replied sl m rest
    { status := stOK, payload := leBytes 8 s.moduleState.toNat ++ leBytes 8 s.pkgHealth.toNat ++ leBytes 8 s.power.input.toNat ++
        leBytes 8 s.mgmt.image.sequence ++ leBytes 4 (s.mailbox sl).dropped ++ [0, 0, 0, 0] ++ leBytes 8 s.fret } :=
  execute_answers hon hreq hrsv hpay ho (by rw [hlen]; rfl) rfl rfl rfl rfl rfl

theorem getIdentity_answers (ho : m.opcode = 0x02) : s.getIdentity sl m = s.replied sl m rest
    { status := stOK, payload := leBytes 8 s.fab.serial ++ leBytes 8 s.provisionedId ++
        ((List.range 4).flatMap fun k =>
          if s.powered = true ∧ s.regionLive k = true then leBytes 8 (s.regionId k).toNat else List.replicate 8 0) ++
        leBytes 8 s.moduleId ++ leBytes 8 s.fab.fabricId.toNat } := by
  refine execute_answers hon hreq hrsv hpay ho (by rw [hlen]; rfl) rfl rfl rfl ?_ rfl
  simp only [← Bool.and_eq_true]
  rfl

theorem getCert_answers (ho : m.opcode = 0x03) : s.getCert sl m = s.replied sl m rest
    (if s.mgmt.cert.length ≤ m.offset then { status := stRANGE } else State.pageOf s.mgmt.cert m.offset) := by
  refine execute_answers hon hreq hrsv hpay ho (by rw [hlen]; rfl) rfl rfl rfl ?_ rfl
  split <;> rfl

theorem getEvent_none (ho : m.opcode = 0x04) (hev : (s.mailbox sl).events = []) :
    s.getEvent sl m = s.replied sl m rest { status := stOK } := by
  unfold State.getEvent
  exact execute_answers hon hreq hrsv hpay ho (by rw [hlen]; rfl) rfl rfl rfl (by rw [hev]) rfl

theorem getEvent_oldest {e : Event} {es : List Event} (ho : m.opcode = 0x04) (hev : (s.mailbox sl).events = e :: es) :
    s.getEvent sl m = (s.setMailbox sl { s.mailbox sl with events := es }).replied sl m rest
      { status := stOK, payload := State.eventBytes e } := by
  unfold State.getEvent
  exact execute_answers hon hreq hrsv hpay ho (by rw [hlen]; rfl) rfl rfl rfl (by rw [hev]) (setMailbox_requests ..)

theorem muteListGet_answers (ho : m.opcode = 0x28) : let left := s.muteList.drop m.offset
    s.muteListGet sl m = s.replied sl m rest
      { status := stOK, payload := leBytes 8 s.muteList.length ++ (left.take 244).flatMap (leBytes 2),
        more := decide (244 < left.length), offset := if 244 < left.length then m.offset + 244 else 0 } :=
  execute_answers hon hreq hrsv hpay ho (by rw [hlen]; rfl) rfl rfl rfl rfl rfl

theorem ledgerRead_held {b : List Byte} (ho : m.opcode = 0x40)
    (hb : s.kiln.ledger.find? (·.1 == m.offset) = some (m.offset, b)) : s.ledgerRead sl m = s.replied sl m rest
      { status := stOK, payload := b, more := s.kiln.ledger.any (fun x => decide (m.offset < x.1)), offset := m.offset + 1 } := by
  unfold State.ledgerRead
  exact execute_answers hon hreq hrsv hpay ho (by rw [hlen]; rfl) rfl rfl rfl (by rw [hb]) rfl

theorem ledgerRead_absent (ho : m.opcode = 0x40) (h : ∀ x ∈ s.kiln.ledger, x.1 ≠ m.offset) :
    s.ledgerRead sl m = s.replied sl m rest { status := stRANGE, offset := (s.kiln.ledger.head?.map (·.1)).getD 0 } := by
  unfold State.ledgerRead
  have hnone : s.kiln.ledger.find? (·.1 == m.offset) = none :=
    List.find?_eq_none.2 fun x hx => by rw [beq_iff_eq]; exact h x hx
  exact execute_answers hon hreq hrsv hpay ho (by rw [hlen]; rfl) rfl rfl rfl (by rw [hnone]) rfl

end Bare

section Eight
variable (hlen : m.length = 8)
include hlen

theorem overrideGet_one (ho : m.opcode = 0x11) (hzero : m.zero 4 8 = true) (hnamed : State.settingNamed (m.num 0 2) (m.num 2 2) = true) :
    s.overrideGet sl m = s.replied sl m rest { status := stOK, payload := s.settingEntry (m.num 0 2) (m.num 2 2) } := by
  have hlt : m.num 2 2 < State.settingCount (m.num 0 2) := by
    rw [State.settingNamed, Bool.and_eq_true, decide_eq_true_eq] at hnamed
    exact hnamed.1
  have hmany : State.settingCount (m.num 0 2) ≤ 128 := by
    unfold State.settingCount
    split <;> decide
  have hone : m.num 2 2 ≠ 0xFFFF := by omega
  have hcount : (State.settingCount (m.num 0 2) == 0) = false := beq_eq_false_iff_ne.2 (by omega)
  unfold State.overrideGet
  exact execute_answers hon hreq hrsv hpay ho (by rw [hlen]; rfl) rfl rfl (by rw [hzero, hcount, hnamed]; simp)
    (if_neg hone) rfl

theorem overrideGet_all (ho : m.opcode = 0x11) (hzero : m.zero 4 8 = true) (hindex : m.num 2 2 = 0xFFFF)
    (hcount : State.settingCount (m.num 0 2) ≠ 0) :
    let all := (List.range (State.settingCount (m.num 0 2))).filter fun i =>
      State.settingNamed (m.num 0 2) i && decide (m.offset ≤ i)
    s.overrideGet sl m = s.replied sl m rest
      { status := stOK, payload := (all.take 31).flatMap (s.settingEntry (m.num 0 2)), more := decide (31 < all.length),
        offset := (all.drop 31).headD 0 } := by
  intro all
  unfold State.overrideGet
  exact execute_answers hon hreq hrsv hpay ho (by rw [hlen]; rfl) rfl rfl
    (by rw [hzero, beq_eq_false_iff_ne.2 hcount, hindex]; rfl) (if_pos hindex) rfl

section Evidence
variable (ho : m.opcode = 0x30) (hp : s.powered = true) (hgood : State.slotBad m = false)
include ho hp hgood

theorem evidenceRead_empty (hoff : m.offset < 65536) (h : s.evidence.find (m.num 0 1, m.num 1 1) = none) :
    s.evidenceRead sl m = s.replied sl m rest { status := stSTATE } := by
  unfold State.evidenceRead
  exact execute_answers hon hreq hrsv hpay ho (by rw [hlen]; rfl) hp rfl
    (by rw [hgood, Bool.false_or]; exact decide_eq_false (by omega)) (by rw [h]) rfl

theorem evidenceRead_filled {e : Evidence} (hoff : m.offset < 65536) (h : s.evidence.find (m.num 0 1, m.num 1 1) = some e) :
    let p := State.evidenceAt e m.offset 496
    let more := decide (m.offset + p.length < 65536)
    s.evidenceRead sl m = s.replied sl m rest
      { status := stOK, payload := p, more := more, offset := if more then m.offset + p.length else 0 } := by
  intro p more
  unfold State.evidenceRead
  exact execute_answers hon hreq hrsv hpay ho (by rw [hlen]; rfl) hp rfl
    (by rw [hgood, Bool.false_or]; exact decide_eq_false (by omega)) (by rw [h]) rfl

end Evidence

end Eight

end Front

theorem slotBad_false {m : Msg} (hzero : m.zero 2 8 = true) (hr : m.num 0 1 < 4) (hk : m.num 1 1 < 8) : State.slotBad m = false := by
  rw [State.slotBad, hzero, decide_eq_false (by omega : ¬ 3 < m.num 0 1), decide_eq_false (by omega : ¬ 7 < m.num 1 1)]
  rfl

/-! ### Events (R522) -/

theorem eventBytes_words (e : Event) (hcode : e.code < 256) (hfret : e.fret < 0x100000000) :
    (State.eventBytes e).length = 16 ∧ leNat ((State.eventBytes e).take 8) = e.code + e.fret * 0x100000000 ∧
      leNat ((State.eventBytes e).drop 8) = e.data.toNat := by
  have hword : (leBytes 8 (e.code + e.fret * 2 ^ 32)).length = 8 := leBytes_length ..
  unfold State.eventBytes State.wordBytes8
  refine ⟨by rw [List.length_append, hword, leBytes_length], ?_, ?_⟩
  · rw [List.take_left' hword, leNat_leBytes]
    exact Nat.mod_eq_of_lt (by omega)
  · rw [List.drop_left' hword, leNat_leBytes]
    exact Nat.mod_eq_of_lt e.data.isLt

/-- Settles O6: what an event enters by `event_mailbox`, all else by `event_reports`. -/
theorem eventsEnterEveryServedSlot : Obligations.EventsEnterEveryServedSlot := by
  unfold Obligations.EventsEnterEveryServedSlot
  refine ⟨fun s code data hon => ?enters, fun e => eventBytes_words e, fun s sl m rest hon hreq hrsv hlen hpay => ?requests⟩
  case enters =>
    refine ⟨event_reports s code data, fun sl => ?_⟩
    have hslot := event_mailbox s code data hon sl
    dsimp only at hslot ⊢
    rw [hslot, ← slotServed_iff]
    cases s.slotServed sl with
    | false => simp
    | true =>
      by_cases hfull : 64 ≤ (s.mailbox sl).events.length
      · simp [hfull]
        omega
      · simp [hfull]
        omega
  case requests =>
    have hsize : m.payload.length = m.length := by rw [hpay, hlen]; rfl
    refine ⟨fun ho hev => ?_, fun e es ho hev => ?_, fun ho => ?_⟩
    · exact (exec_getEvent sl m s rfl).trans (congrArg _ (getEvent_none hon hreq hrsv hsize hlen ho hev))
    · exact (exec_getEvent sl m s rfl).trans (congrArg _ (getEvent_oldest hon hreq hrsv hsize hlen ho hev))
    · refine ⟨_, (exec_getStatus sl m s rfl).trans (congrArg _ (getStatus_answers hon hreq hrsv hsize hlen ho)), ?_⟩
      have hfront (a b c d : Nat) : (leBytes 8 a ++ leBytes 8 b ++ leBytes 8 c ++ leBytes 8 d).length = 32 := by
        simp only [List.length_append, leBytes_length]
      rw [List.append_assoc, List.append_assoc, List.drop_left' (hfront ..), List.take_left' (leBytes_length ..)]

/-- Settles O57: each query's answer, page by page. -/
theorem mailboxQueriesAnswer : Obligations.MailboxQueriesAnswer := by
  unfold Obligations.MailboxQueriesAnswer
  intro s sl m rest hon hreq hrsv hpay ans word
  refine ⟨fun hlen => ⟨?status, ?identity, ?cert, ?event, ?mutes, ?ledger⟩, fun hlen => ⟨?override, ?evidence⟩⟩
  case status =>
    intro status ho
    exact (exec_getStatus sl m s rfl).trans (congrArg _ (getStatus_answers hon hreq hrsv hpay hlen ho))
  case identity =>
    intro ids all ho
    exact (exec_getIdentity sl m s rfl).trans (congrArg _ (getIdentity_answers hon hreq hrsv hpay hlen ho))
  case cert =>
    intro left ho
    have hexec := (exec_getCert sl m s rfl).trans (congrArg _ (getCert_answers hon hreq hrsv hpay hlen ho))
    have hpast : s.mgmt.cert.length ≤ m.offset ↔ left = [] := List.drop_eq_nil_iff.symm
    rw [hexec]
    refine ⟨fun h => ?_, fun h hfit => ?_, fun h => ?_⟩
    · rw [if_pos (hpast.2 h)]
      rfl
    · rw [if_neg (mt hpast.1 h), pageOf_last (Nat.le_of_not_le (mt hpast.1 h)) hfit]
      rfl
    · have hne : left ≠ [] := fun e => by rw [e] at h; exact absurd h (by decide)
      rw [if_neg (mt hpast.1 hne), pageOf_more h]
      rfl
  case event =>
    intro x ho
    have hexec := exec_getEvent sl m s rfl
    exact ⟨fun hev => hexec.trans (congrArg _ (getEvent_none hon hreq hrsv hpay hlen ho hev)),
      fun e es hev => hexec.trans (congrArg _ (getEvent_oldest hon hreq hrsv hpay hlen ho hev))⟩
  case mutes =>
    intro left count ho
    have hexec := (exec_muteListGet sl m s rfl).trans (congrArg _ (muteListGet_answers hon hreq hrsv hpay hlen ho))
    rw [hexec]
    refine ⟨fun h => ?_, fun h => ?_⟩
    · rw [List.take_of_length_le h, if_neg (Nat.not_lt.2 h), decide_eq_false (Nat.not_lt.2 h)]
      rfl
    · rw [if_pos h, decide_eq_true h]
      rfl
  case ledger =>
    intro ho
    have hexec := exec_ledgerRead sl m s rfl
    exact ⟨fun b hb => hexec.trans (congrArg _ (ledgerRead_held hon hreq hrsv hpay hlen ho hb)),
      fun h => hexec.trans (congrArg _ (ledgerRead_absent hon hreq hrsv hpay hlen ho h))⟩
  case override =>
    intro key index entry all ho hzero
    have hexec := exec_overrideGet sl m s rfl
    exact ⟨fun h => hexec.trans (congrArg _ (overrideGet_one hon hreq hrsv hpay hlen ho hzero h)),
      fun hall hcount => hexec.trans (congrArg _ (overrideGet_all hon hreq hrsv hpay hlen ho hzero hall hcount))⟩
  case evidence =>
    intro slot ho hzero hr hk hoff hp
    have hexec := exec_evidenceRead sl m s rfl
    have hgood := slotBad_false hzero hr hk
    refine ⟨fun h => hexec.trans (congrArg _ (evidenceRead_empty hon hreq hrsv hpay hlen ho hp hgood hoff h)), fun e he => ?_⟩
    refine hexec.trans (congrArg _ ((evidenceRead_filled hon hreq hrsv hpay hlen ho hp hgood hoff he).trans ?_))
    simp only [decide_eq_true_eq]
    rfl

end Sys2Proof.Machine

/-!
PROOFS. The mailbox slots, the I3C bus and the 1149.1 chain (R516 to R519): O54 and O55.
-/
namespace Sys2Proof.Machine

/-! ### The bus (R516 to R518) -/

theorem i3cReady_iff {s : State} : s.i3cReady = true ↔ s.mgmt.state ≠ .off ∧ s.mgmt.dynAddr ≠ none := by
  rw [State.i3cReady, Bool.and_eq_true, bne_iff_ne, Option.isSome_iff_ne_none]

section Bus
variable {s : State}

theorem cccRead_ready (h : s.mgmt.state ≠ .off ∧ s.mgmt.dynAddr ≠ none) (bs : List Byte) :
    s.cccRead bs = { s with outbox := s.outbox ++ [.i3c bs] } := if_pos (i3cReady_iff.2 h)

theorem cccRead_silent (h : ¬ (s.mgmt.state ≠ .off ∧ s.mgmt.dynAddr ≠ none)) (bs : List Byte) : s.cccRead bs = s :=
  if_neg (mt i3cReady_iff.1 h)

/-- A CCC read, from the meaning of its command. -/
theorem ccc_sends {c : Instr} {bs : List Byte} (hexec : exec c s = .next (s.cccRead bs)) :
    (s.mgmt.state ≠ .off ∧ s.mgmt.dynAddr ≠ none → exec c s = .next { s with outbox := s.outbox ++ [.i3c bs] }) ∧
      (¬ (s.mgmt.state ≠ .off ∧ s.mgmt.dynAddr ≠ none) → exec c s = .next s) :=
  ⟨fun h => hexec.trans (congrArg _ (cccRead_ready h bs)), fun h => hexec.trans (congrArg _ (cccRead_silent h bs))⟩

theorem ibiSet_named (h : s.mgmt.state ≠ .off ∧ s.mgmt.dynAddr ≠ none) {events : Nat} (hodd : events % 2 = 1) (on : Bool) :
    s.ibiSet events on = { s with mgmt := { s.mgmt with ibi := on } } := if_pos ⟨i3cReady_iff.2 h, hodd⟩

theorem ibiSet_other {events : Nat} (h : ¬ (s.mgmt.state ≠ .off ∧ s.mgmt.dynAddr ≠ none) ∨ events % 2 = 0) (on : Bool) :
    s.ibiSet events on = s := by
  refine if_neg fun ⟨hready, hodd⟩ => h.elim (fun hno => hno (i3cReady_iff.1 hready)) fun heven => ?_
  omega

end Bus

/-- Settles O55: every bus command asks for a running Uluell, and all but ENTDAA and RSTDAA for its address. -/
theorem i3cBusAndDebugChain : Obligations.I3cBusAndDebugChain := by
  unfold Obligations.I3cBusAndDebugChain
  intro s on ready address sends pid
  refine ⟨fun da => ⟨fun hon hno => ?_, fun h => ?_, fun h => ?_, fun h => ?_⟩, fun hon => ?_, fun hoff => ?_,
    ccc_sends (exec_getpid s rfl), ccc_sends (exec_getbcr s rfl), ccc_sends (exec_getdcr s rfl), ccc_sends (exec_getmwl s rfl),
    ccc_sends (exec_getmrl s rfl), ccc_sends (exec_getstatus s rfl), ?_, fun events => ⟨fun h hodd => ?_, fun h => ?_⟩,
    fun scan => ?_⟩
  · have hfree : ¬ (s.mgmt.state = .off ∨ s.mgmt.dynAddr.isSome = true) := by
      rw [hno]
      exact fun h => h.elim hon (by decide)
    exact (exec_entdaa da s rfl).trans (congrArg _ (if_neg hfree))
  · have hbusy : s.mgmt.state = .off ∨ s.mgmt.dynAddr.isSome = true := h.imp not_not.1 Option.isSome_iff_ne_none.2
    exact (exec_entdaa da s rfl).trans (congrArg _ (if_pos hbusy))
  · exact (exec_setnewda da s rfl).trans (congrArg _ (if_pos (i3cReady_iff.2 h)))
  · exact (exec_setnewda da s rfl).trans (congrArg _ (if_neg (mt i3cReady_iff.1 h)))
  · exact (exec_rstdaa s rfl).trans (congrArg _ (if_neg hon))
  · exact (exec_rstdaa s rfl).trans (congrArg _ (if_pos (not_not.1 hoff)))
  · norm_num [State.provisionedId]
  · exact ⟨(exec_enec events s rfl).trans (congrArg _ (ibiSet_named h hodd true)),
      (exec_disec events s rfl).trans (congrArg _ (ibiSet_named h hodd false))⟩
  · exact ⟨(exec_enec events s rfl).trans (congrArg _ (ibiSet_other h true)),
      (exec_disec events s rfl).trans (congrArg _ (ibiSet_other h false))⟩
  · have hmay : (s.mgmt.unlocked = true ∧ s.mgmt.state ≠ .off) ∨ (scan = true ∧ s.mgmt.state = .aux) ↔
        (on ∧ s.mgmt.unlocked = true) ∨ (scan = true ∧ s.mgmt.state = .aux) := or_congr_left and_comm
    exact ⟨fun h => (exec_jtagInstruction scan s rfl).trans (congrArg _ (if_pos (hmay.2 h))),
      fun h => (exec_jtagInstruction scan s rfl).trans (congrArg _ (if_neg (mt hmay.1 h)))⟩

/-! ### Slots (R519, Table 16.8) -/

section Slots
variable {s : State} {sl : Slot}

/-- A slot that Uluell serves, while it runs. -/
def State.slotLive (s : State) (sl : Slot) : Prop := s.mgmt.state ≠ .off ∧ (sl = .host → s.mgmt.image.attached = true)

theorem slotLive_iff : (s.mgmt.state = .off ∨ (!s.slotServed sl) = true) ↔ ¬ s.slotLive sl := by
  rw [State.slotLive, ← slotServed_iff, not_and_or, not_not, Bool.not_eq_true', Bool.not_eq_true]

theorem mbxGo_dead {ag : Agent} {m : Msg} (h : ¬ s.slotLive sl) : s.mbxGo ag sl m = s := if_pos (slotLive_iff.2 h)

/-- The slot BUSY with its request last in the queue. -/
def State.requestQueued (s : State) (sl : Slot) (m : Msg) : State :=
  let u := s.setMailbox sl { s.mailbox sl with state := .busy, buf := msgBytes m }
  { u with mgmt := { u.mgmt with requests := u.mgmt.requests ++ [{ slot := sl, msg := m }] } }

theorem mbxGo_idle {ag : Agent} {m : Msg} (h : s.slotLive sl) (hidle : (s.mailbox sl).state = .idle) :
    s.mbxGo ag sl m = s.requestQueued sl m :=
  (if_neg (mt slotLive_iff.1 (not_not.2 h))).trans (if_pos hidle)

theorem mbxGo_refused {ag : Agent} {m : Msg} (h : s.slotLive sl) (hbusy : (s.mailbox sl).state ≠ .idle) :
    s.mbxGo ag sl m = s.mbxRefuse ag sl stSTATE :=
  (if_neg (mt slotLive_iff.1 (not_not.2 h))).trans (if_neg hbusy)

theorem mbxAck_dead {ag : Agent} (h : ¬ s.slotLive sl) : s.mbxAck ag sl = s := if_pos (slotLive_iff.2 h)

theorem mbxAck_done {ag : Agent} (h : s.slotLive sl) (hdone : (s.mailbox sl).state = .done) :
    s.mbxAck ag sl = s.setMailbox sl { s.mailbox sl with state := .idle } :=
  (if_neg (mt slotLive_iff.1 (not_not.2 h))).trans (if_pos hdone)

theorem mbxAck_refused {ag : Agent} (h : s.slotLive sl) (hnot : (s.mailbox sl).state ≠ .done) :
    s.mbxAck ag sl = s.mbxRefuse ag sl stSTATE :=
  (if_neg (mt slotLive_iff.1 (not_not.2 h))).trans (if_neg hnot)

end Slots

/-! ### Responses (R520) -/

section Response
variable {s : State} {q : Request} {rest : List Request}

theorem mbxResponse_idle (h : s.mgmt.state = .off ∨ s.mgmt.requests = []) : s.mbxResponse = s := by
  unfold State.mbxResponse
  split
  · next q rest hreq =>
      have hoff := h.resolve_right fun hnil => absurd (hreq.symm.trans hnil) (List.cons_ne_nil _ _)
      simp only [hoff, if_true]
  · rfl

/-- The response `r` of the request in front, written into its slot. -/
def State.responseWritten (s : State) (q : Request) (rest : List Request) (r : Msg) : State :=
  let u : State := { s with mgmt := { s.mgmt with requests := rest } }
  (u.setMailbox q.slot { u.mailbox q.slot with state := .done, buf := msgBytes r }).signalSlot q.slot 1

section
variable (hon : s.mgmt.state ≠ .off) (hreq : s.mgmt.requests = q :: rest)
include hon hreq

theorem mbxResponse_answered {r : Msg} (h : q.answer = some r) : s.mbxResponse = s.responseWritten q rest r := by
  simp only [State.mbxResponse, hreq, h, if_neg hon]
  rfl

theorem mbxResponse_unlisted (h : q.answer = none) (hop : cmdListed q.msg.opcode = false) :
    s.mbxResponse = s.responseWritten q rest { opcode := stRANGE, echo := q.msg.opcode, tag := q.msg.tag } := by
  simp only [State.mbxResponse, hreq, h, hop, if_neg hon]
  rfl

theorem mbxResponse_waits (h : q.answer = none) (hop : cmdListed q.msg.opcode = true) : s.mbxResponse = s := by
  simp only [State.mbxResponse, hreq, h, hop, if_neg hon, if_true]

end

end Response

/-! ### Private transfers (R518) -/

section Private
variable {s : State} (hready : s.i3cReady = true)
include hready

theorem i3cWrite_other {bytes : List Byte} (h : bytes.head? ≠ some 0xA5) : s.i3cWrite bytes = s := by
  unfold State.i3cWrite
  rw [if_neg (by rw [hready]; decide)]
  split
  · next b rest => exact if_neg fun hb => h (congrArg some hb)
  · rfl

theorem i3cWrite_go {rest : List Byte} : s.i3cWrite (0xA5 :: rest) = s.mbxGo {} .i3c (bytesMsg rest) := by
  unfold State.i3cWrite
  rw [if_neg (by rw [hready]; decide)]
  exact if_pos rfl

theorem i3cRead_notDone {n : Nat} (h : s.mgmt.i3c.state ≠ .done) :
    s.i3cRead n = s.emit (.i3c ((leBytes 8 (s.mbxStatus .i3c).toNat).take n)) := by
  unfold State.i3cRead
  rw [if_neg (by rw [hready]; decide)]
  simp only [h, if_false, false_and, List.append_nil]
  rfl

theorem i3cRead_done {n : Nat} (h : s.mgmt.i3c.state = .done) :
    let len := leNat ((s.mgmt.i3c.buf.drop 4).take 2)
    let u := s.emit (.i3c ((leBytes 8 (s.mbxStatus .i3c).toNat ++ s.mgmt.i3c.buf.take (16 + len)).take n))
    s.i3cRead n = if 24 + len ≤ n then u.setMailbox .i3c { s.mgmt.i3c with state := .idle } else u := by
  intro len u
  unfold State.i3cRead
  rw [if_neg (by rw [hready]; decide)]
  simp only [h, if_true, true_and]
  rfl

end Private

theorem i3cWrite_silent {s : State} {bytes : List Byte} (h : ¬ s.i3cReady = true) : s.i3cWrite bytes = s :=
  if_pos (by rw [Bool.eq_false_of_not_eq_true h]; rfl)

theorem i3cRead_silent {s : State} {n : Nat} (h : ¬ s.i3cReady = true) : s.i3cRead n = s :=
  if_pos (by rw [Bool.eq_false_of_not_eq_true h]; rfl)

/-- Settles O54: a slot moves by GO, ACK and the response, each by the slot's state; a private transfer is GO or a read of it. -/
theorem mailboxSlotsAndRequests : Obligations.MailboxSlotsAndRequests := by
  unfold Obligations.MailboxSlotsAndRequests
  intro s live refused taken
  refine ⟨fun ag sl hag => ⟨fun m => ?go, ?ack⟩, ?response, ?transfers⟩
  case go =>
    have hexec := exec_mbxGo ag sl m s hag
    exact ⟨fun h => hexec.trans (congrArg _ (mbxGo_dead h)), fun h hidle => hexec.trans (congrArg _ (mbxGo_idle h hidle)),
      fun h hbusy => hexec.trans (congrArg _ (mbxGo_refused h hbusy))⟩
  case ack =>
    have hexec := exec_mbxAck ag sl s hag
    exact ⟨fun h => hexec.trans (congrArg _ (mbxAck_dead h)), fun h hdone => hexec.trans (congrArg _ (mbxAck_done h hdone)),
      fun h hnot => hexec.trans (congrArg _ (mbxAck_refused h hnot))⟩
  case response =>
    have hexec := exec_mbxResponse s rfl
    exact ⟨fun h => hexec.trans (congrArg _ (mbxResponse_idle h)), fun q rest hon hreq =>
      ⟨fun r h => hexec.trans (congrArg _ (mbxResponse_answered hon hreq h)),
        fun h hop => hexec.trans (congrArg _ (mbxResponse_unlisted hon hreq h hop)),
        fun h hop => hexec.trans (congrArg _ (mbxResponse_waits hon hreq h hop))⟩⟩
  case transfers =>
    intro ready x
    have hready : s.i3cReady = true ↔ ready := i3cReady_iff
    have hlive (h : ready) : s.slotLive .i3c := ⟨h.1, fun e => by cases e⟩
    refine ⟨fun bytes => ?write, fun n => ?read⟩
    case write =>
      have hexec := exec_i3cPrivateWrite bytes s rfl
      refine ⟨fun h => hexec.trans (congrArg _ ?_), fun rest h hb => ?_⟩
      · by_cases hr : ready
        · exact i3cWrite_other (hready.2 hr) (h.resolve_left (not_not.2 hr))
        · exact i3cWrite_silent (mt hready.1 hr)
      · subst hb
        have hgo := hexec.trans (congrArg _ (i3cWrite_go (hready.2 h)))
        exact ⟨fun hidle => hgo.trans (congrArg _ (mbxGo_idle (hlive h) hidle)),
          fun hbusy => hgo.trans (congrArg _ (mbxGo_refused (hlive h) hbusy))⟩
    case read =>
      have hexec := exec_i3cPrivateRead n s rfl
      refine ⟨fun h => hexec.trans (congrArg _ (i3cRead_silent (mt hready.1 h))),
        fun h hnot => hexec.trans (congrArg _ (i3cRead_notDone (hready.2 h) hnot)), fun h hdone hpart => ?_, fun h hdone hall => ?_⟩
      · exact hexec.trans (congrArg _ ((i3cRead_done (hready.2 h) hdone).trans (if_neg (Nat.not_le.2 hpart))))
      · exact hexec.trans (congrArg _ ((i3cRead_done (hready.2 h) hdone).trans (if_pos hall)))

end Sys2Proof.Machine

/-!
PROOFS. How the mailbox judges a command (R502, R504, R520, R521) and the compaction of its journal (R515): O56 and O60.
-/
namespace Sys2Proof.Machine

/-! ### Judging a command -/

section Judge
variable {s t : State} {sl : Slot} {m : Msg} {rest : List Request} {op : Nat} {c : Instr} {bad : Prop} {rsv : Bool}

/-- The request in front answered with a status alone. -/
def State.refusedWith (s : State) (sl : Slot) (m : Msg) (rest : List Request) (op st : Nat) : State :=
  { s with mgmt := { s.mgmt with
    requests := { slot := sl, msg := m, answer := some { opcode := st, echo := op, tag := m.tag } } :: rest } }

/-- A command judged by state, layout and requester before anything else. -/
def Judged (s : State) (sl : Slot) (m : Msg) (rest : List Request) (op : Nat) (c : Instr) (bad : Prop) : Prop :=
  let front := s.mgmt.state ≠ .off ∧ m.opcode = op ∧ s.mgmt.requests = { slot := sl, msg := m } :: rest
  let wrong := m.rsvBad = true ∨ cmdLength op m.length m = false ∨ m.payload.length ≠ m.length ∨ bad
  (s.mgmt.state = .off ∨ m.opcode ≠ op ∨ (∀ r, s.mgmt.requests ≠ { slot := sl, msg := m } :: r) → exec c s = .next s) ∧
  (front → s.cmdLegal op = false → exec c s = .next (s.refusedWith sl m rest op stSTATE)) ∧
  (front → s.cmdLegal op = true → wrong → exec c s = .next (s.refusedWith sl m rest op stRANGE)) ∧
  (front → s.cmdLegal op = true → ¬ wrong → cmdFrom op sl = false → exec c s = .next (s.refusedWith sl m rest op 0x86))

/-- An operation that leaves a request not in front alone and answers a refused one with its status is judged so. -/
theorem judged_of (hexec : exec c s = .next t) (hidle : s.atHead op sl m = false → t = s)
    (hrefused : s.atHead op sl m = true → s.cmdRefusal sl m rsv ≠ stOK → t = s.answerHead { status := s.cmdRefusal sl m rsv })
    (hbad : rsv = true ↔ bad) : Judged s sl m rest op c bad := by
  unfold Judged
  intro front wrong
  have hanswer (h : front) {st : Nat} (hst : s.cmdRefusal sl m rsv = st) (hno : st ≠ stOK) :
      exec c s = .next (s.refusedWith sl m rest op st) := by
    obtain ⟨hon, ho, hreq⟩ := h
    rw [hexec, hrefused ((atHead_true ..).2 ⟨hon, ho, rest, hreq⟩) (hst ▸ hno), hst, answerHead_eq s sl m rest _ hreq,
      State.refusedWith, ← ho]
    rfl
  have hwrong (h : front) : (msgMalformed m || rsv) = true ↔ wrong := by rw [malformed_iff, h.2.1, hbad]
  refine ⟨fun h => ?_, fun h hl => hanswer h ?_ (by decide), fun h hl hw => hanswer h ?_ (by decide),
    fun h hl hw hf => hanswer h ?_ (by decide)⟩
  · refine hexec.trans (congrArg _ (hidle (Bool.eq_false_iff.2 fun hhead => ?_)))
    obtain ⟨hon, ho, r, hreq⟩ := (atHead_true ..).1 hhead
    exact h.elim hon fun h => h.elim (· ho) (· r hreq)
  · rw [refusal_eq, h.2.1, if_pos hl]
  · rw [refusal_eq, h.2.1, if_neg (by rw [hl]; decide), if_pos ((hwrong h).2 hw)]
  · rw [refusal_eq, h.2.1, if_neg (by rw [hl]; decide), if_neg (mt (hwrong h).1 hw), if_pos hf]
    rfl

theorem judged_execute {act : State → State × Reply} (hexec : exec c s = .next (s.execute op sl m rsv act)) (hbad : rsv = true ↔ bad) :
    Judged s sl m rest op c bad :=
  judged_of hexec (execute_idle s op sl m rsv act) (execute_refused s op sl m rsv act) hbad

theorem judged_bare {act : State → State × Reply} (hexec : exec c s = .next (s.execute op sl m false act)) :
    Judged s sl m rest op c False := judged_execute hexec Bool.false_eq_true.to_iff

theorem judged_afterRecords {go : State → State} (hexec : exec c s = .next (s.afterRecords op sl m go)) :
    Judged s sl m rest op c False := by
  refine judged_of hexec (fun h => ?_) (fun h hst => ?_) Bool.false_eq_true.to_iff
  · exact if_pos (by rw [h]; rfl)
  · exact (if_neg (by rw [h]; decide)).trans (if_pos hst)

end Judge

/-! ### The reserved fields and ranges of each row (Table 16.15) -/

theorem coreBad_iff {m : Msg} : State.coreBad m = true ↔ m.zero 1 8 = false ∨ 143 < m.num 0 1 := by simp [State.coreBad]

theorem slotBad_iff {m : Msg} : State.slotBad m = true ↔ m.zero 2 8 = false ∨ 3 < m.num 0 1 ∨ 7 < m.num 1 1 := by
  simp [State.slotBad, or_assoc]

theorem mustWait_iff {s : State} : s.mustWait = true ↔ 262079 < s.mgmt.journal.length := by
  rw [State.mustWait, State.journalSpace, decide_eq_true_eq]
  omega

theorem overrideSet_judged {s : State} (sl : Slot) (m : Msg) (hroom : ¬ s.mustWait = true) :
    s.overrideSet sl m = s.execute 0x10 sl m (m.num 4 1 != 1 || !m.zero 5 8 || !State.settingNamed (m.num 0 2) (m.num 2 2) ||
        !State.settingOk (m.num 0 2) (m.num 2 2) (w64 (m.num 8 8)))
      (State.simply fun s => (s.journalAppend (m.num 0 2) (m.num 2 2) 1 (w64 (m.num 8 8))).writeSetting (m.num 0 2) (m.num 2 2)
        (w64 (m.num 8 8))) := if_neg hroom

theorem overrideClear_judged {s : State} (sl : Slot) (m : Msg) (hroom : ¬ s.mustWait = true) :
    s.overrideClear sl m = s.execute 0x12 sl m (m.num 4 1 != 2 || !m.zero 5 16 || !State.settingNamed (m.num 0 2) (m.num 2 2))
      (State.simply fun s => s.journalAppend (m.num 0 2) (m.num 2 2) 2 0) := if_neg hroom

theorem muteListRemove_judged (s : State) (sl : Slot) (m : Msg) :
    s.muteListRemove sl m = s.execute 0x29 sl m (!m.zero 2 8 || decide (511 < m.num 0 2)) fun s =>
      if s.muteList.contains (m.num 0 2) then
        ({ s with muteList := s.muteList.filter (· != m.num 0 2) }, { status := stOK })
      else (s, { status := stSTATE }) := rfl

theorem overrideGet_judged (s : State) (sl : Slot) (m : Msg) :
    ∃ act, s.overrideGet sl m = s.execute 0x11 sl m (!m.zero 4 8 || State.settingCount (m.num 0 2) == 0 ||
      (m.num 2 2 != 0xFFFF && !State.settingNamed (m.num 0 2) (m.num 2 2))) act := by
  unfold State.overrideGet
  dsimp only
  exact ⟨_, rfl⟩

/-- Settles O56: every command is judged by `execute`, and those that reset the package by `afterRecords`. -/
theorem mailboxCommandsAreJudged : Obligations.MailboxCommandsAreJudged := by
  unfold Obligations.MailboxCommandsAreJudged
  intro s sl m rest passed ok nonce v slotBytesBad coreBytesBad named judged
  have hjudged {op : Nat} {c : Instr} {bad : Prop} (h : Judged s sl m rest op c bad) : judged op c bad := h
  refine ⟨hjudged (judged_bare (exec_getStatus sl m s rfl)), hjudged (judged_bare (exec_getIdentity sl m s rfl)),
    hjudged (judged_bare (exec_getCert sl m s rfl)), hjudged (judged_bare (exec_getEvent sl m s rfl)),
    hjudged (judged_afterRecords (exec_coldBoot sl m s rfl)), hjudged (judged_afterRecords (exec_warmReset sl m s rfl)),
    hjudged (judged_afterRecords (exec_powerOff sl m s rfl)), hjudged (judged_bare (exec_run sl m s rfl)),
    hjudged (judged_bare (exec_quiesce sl m s rfl)), hjudged (judged_bare (exec_resume sl m s rfl)),
    hjudged (judged_bare (exec_imageCommit sl m v s rfl)), hjudged (judged_bare (exec_muteListGet sl m s rfl)),
    hjudged (judged_bare (exec_fuseRearm sl m s rfl)), hjudged (judged_bare (exec_ledgerRead sl m s rfl)),
    hjudged (judged_execute (exec_imageWrite sl m s rfl) ?imageWrite), hjudged (judged_execute (exec_coreOffline sl m s rfl) coreBad_iff),
    hjudged (judged_execute (exec_coreOnline sl m passed s rfl) coreBad_iff),
    hjudged (judged_execute (exec_coreClearFail sl m s rfl) coreBad_iff),
    hjudged (judged_execute ((exec_muteListRemove sl m s rfl).trans (congrArg _ (muteListRemove_judged s sl m))) ?muteRemove),
    hjudged (judged_execute (exec_evidenceRead sl m s rfl) ?evidence),
    hjudged (judged_execute (exec_evidenceRelease sl m s rfl) slotBad_iff),
    hjudged (judged_execute (exec_debugUnlock sl m nonce ok s rfl) ?unlock),
    hjudged ?get, fun hroom => ⟨hjudged ?set, hjudged ?clear⟩, fun hfull => ?waits⟩
  case imageWrite => exact decide_eq_true_iff
  case muteRemove => simp
  case evidence => rw [Bool.or_eq_true, slotBad_iff, decide_eq_true_eq]
  case unlock => simp
  case get =>
    obtain ⟨act, hget⟩ := overrideGet_judged s sl m
    refine judged_execute ((exec_overrideGet sl m s rfl).trans (congrArg _ hget)) ?_
    simp [named, or_assoc]
  case set =>
    have hno : ¬ s.mustWait = true := fun h => absurd (mustWait_iff.1 h) (Nat.not_lt.2 hroom)
    refine judged_execute ((exec_overrideSet sl m s rfl).trans (congrArg _ (overrideSet_judged sl m hno))) ?_
    simp [named, or_assoc]
  case clear =>
    have hno : ¬ s.mustWait = true := fun h => absurd (mustWait_iff.1 h) (Nat.not_lt.2 hroom)
    refine judged_execute ((exec_overrideClear sl m s rfl).trans (congrArg _ (overrideClear_judged sl m hno))) ?_
    simp [named, or_assoc]
  case waits =>
    exact ⟨(exec_overrideSet sl m s rfl).trans (congrArg _ (if_pos (mustWait_iff.2 hfull))),
      (exec_overrideClear sl m s rfl).trans (congrArg _ (if_pos (mustWait_iff.2 hfull)))⟩

/-! ### The journal (R514, R515) -/

/-- The SET records of values, numbered on from `n`. -/
def setRecords (n : Nat) : List (Nat × Nat × W64) → List JRecord
  | [] => []
  | x :: xs => ⟨x.1, x.2.1, 1, n, x.2.2⟩ :: setRecords (n + 1) xs

theorem setRecords_length (n : Nat) (l : List (Nat × Nat × W64)) : (setRecords n l).length = l.length := by
  induction l generalizing n with
  | nil => rfl
  | cons x xs ih => simp only [setRecords, List.length_cons, ih]

theorem setRecords_seq (n : Nat) (l : List (Nat × Nat × W64)) : (setRecords n l).map (·.seq) = (List.range l.length).map (n + ·) := by
  induction l generalizing n with
  | nil => rfl
  | cons x xs ih =>
    simp only [setRecords, List.map_cons, ih, List.length_cons, List.range_succ_eq_map, List.map_map, Nat.add_zero]
    refine congrArg _ (List.map_congr_left fun k _ => ?_)
    simp only [Function.comp_apply]
    omega

theorem mem_setRecords {n : Nat} {l : List (Nat × Nat × W64)} {r : JRecord} (h : r ∈ setRecords n l) :
    r.op = 1 ∧ (r.key, r.index, r.value) ∈ l := by
  induction l generalizing n with
  | nil => cases h
  | cons x xs ih =>
    rcases List.mem_cons.1 h with rfl | h
    · exact ⟨rfl, List.mem_cons_self⟩
    · exact ⟨(ih h).1, List.mem_cons_of_mem _ (ih h).2⟩

theorem setRecords_has {n : Nat} {l : List (Nat × Nat × W64)} {x : Nat × Nat × W64} (h : x ∈ l) :
    ∃ r ∈ setRecords n l, r.key = x.1 ∧ r.index = x.2.1 ∧ r.value = x.2.2 := by
  induction l generalizing n with
  | nil => cases h
  | cons y ys ih =>
    rcases List.mem_cons.1 h with rfl | h
    · exact ⟨_, List.mem_cons_self, rfl, rfl, rfl⟩
    · obtain ⟨r, hr, hx⟩ := ih h
      exact ⟨r, List.mem_cons_of_mem _ hr, hx⟩

theorem setRecords_pairs (n : Nat) (l : List (Nat × Nat × W64)) :
    (setRecords n l).map (fun r => (r.key, r.index)) = l.map fun x => (x.1, x.2.1) := by
  induction l generalizing n with
  | nil => rfl
  | cons x xs ih => simp only [setRecords, List.map_cons, ih]

theorem journalAppend_foldl (l : List (Nat × Nat × W64)) (s : State) :
    l.foldl (fun s x => s.journalAppend x.1 x.2.1 1 x.2.2) s = { s with mgmt := { s.mgmt with
      journal := s.mgmt.journal ++ setRecords s.mgmt.nextRecord l, nextRecord := s.mgmt.nextRecord + l.length } } := by
  induction l generalizing s with
  | nil => rw [setRecords, List.append_nil]; rfl
  | cons x xs ih =>
    rw [List.foldl_cons, ih, setRecords]
    simp only [State.journalAppend, State.updMgmt, List.append_assoc, List.singleton_append, List.length_cons, Nat.add_assoc,
      Nat.add_comm 1]

theorem nodup_eraseDups {α : Type} [BEq α] [LawfulBEq α] (l : List α) : l.eraseDups.Nodup := by
  induction h : l.length using Nat.strong_induction_on generalizing l with
  | _ n ih =>
    cases l with
    | nil => exact List.nodup_nil
    | cons a as =>
      rw [List.eraseDups_cons, List.nodup_cons, List.mem_eraseDups, List.mem_filter]
      refine ⟨fun hmem => by simpa using hmem.2, ih _ ?_ _ rfl⟩
      have := List.length_filter_le (fun b => !b == a) as
      rw [← h, List.length_cons]
      omega

/-- The values in force, one for each pair that the journal names. -/
def State.inForce (s : State) : List (Nat × Nat × W64) :=
  (s.mgmt.journal.map fun r => (r.key, r.index)).eraseDups.filterMap fun x => (s.override x.1 x.2).map fun v => (x.1, x.2, v)

section Journal
variable {s : State} {key index : Nat} {v : W64}

theorem override_named (h : s.override key index = some v) : ∃ r ∈ s.mgmt.journal, r.key = key ∧ r.index = index := by
  unfold State.override at h
  split at h
  · next r hlast =>
    obtain ⟨hmem, hpair⟩ := List.mem_filter.1 (List.mem_of_getLast? hlast)
    rw [Bool.and_eq_true, beq_iff_eq, beq_iff_eq] at hpair
    exact ⟨r, hmem, hpair⟩
  · cases h

theorem mem_inForce : (key, index, v) ∈ s.inForce ↔ s.override key index = some v := by
  rw [State.inForce, List.mem_filterMap]
  constructor
  · rintro ⟨⟨k, i⟩, -, h⟩
    obtain ⟨w, hw, he⟩ := Option.map_eq_some_iff.1 h
    cases he
    exact hw
  · intro h
    obtain ⟨r, hr, hk, hi⟩ := override_named h
    refine ⟨(key, index), List.mem_eraseDups.2 (List.mem_map.2 ⟨r, hr, by rw [hk, hi]⟩), ?_⟩
    rw [h]
    rfl

theorem inForce_nodup (s : State) : (s.inForce.map fun x => (x.1, x.2.1)).Nodup := by
  rw [State.inForce, List.map_filterMap]
  refine List.Nodup.filterMap (fun a b p ha hb => ?_) (nodup_eraseDups _)
  have hpair {a p : Nat × Nat} (h : p ∈ (Option.map (fun v => (a.1, a.2, v)) (s.override a.1 a.2)).map fun x => (x.1, x.2.1)) : a = p := by
    rw [Option.map_map, Option.mem_def, Option.map_eq_some_iff] at h
    obtain ⟨w, -, hw⟩ := h
    exact hw
  exact (hpair ha).trans (hpair hb).symm

/-- In a journal of SET records with one record for a pair, the value in force is that record's. -/
theorem override_unique (hset : ∀ r ∈ s.mgmt.journal, r.op = 1) (hone : (s.mgmt.journal.map fun r => (r.key, r.index)).Nodup) :
    s.override key index = some v ↔ ∃ r ∈ s.mgmt.journal, r.key = key ∧ r.index = index ∧ r.value = v := by
  have hfilter {r : JRecord} : r ∈ s.mgmt.journal.filter (fun r => r.key == key && r.index == index) ↔
      r ∈ s.mgmt.journal ∧ r.key = key ∧ r.index = index := by
    rw [List.mem_filter, Bool.and_eq_true, beq_iff_eq, beq_iff_eq]
  unfold State.override
  split
  · next r hlast =>
    obtain ⟨hr, hkey, hindex⟩ := hfilter.1 (List.mem_of_getLast? hlast)
    rw [if_pos (hset r hr), Option.some_inj]
    refine ⟨fun h => ⟨r, hr, hkey, hindex, h⟩, ?_⟩
    rintro ⟨x, hx, hxk, hxi, rfl⟩
    rw [List.inj_on_of_nodup_map hone hr hx (by rw [hkey, hindex, hxk, hxi])]
  · next hnone =>
    refine ⟨fun h => (by cases h), ?_⟩
    rintro ⟨x, hx, hxk, hxi, -⟩
    have hmem := hfilter.2 ⟨hx, hxk, hxi⟩
    rw [List.getLast?_eq_none_iff.1 hnone] at hmem
    cases hmem

end Journal

theorem journalCompact_full {s : State} (h : 262079 < s.mgmt.journal.length) :
    s.journalCompact = { s with mgmt := { s.mgmt with
      half := 1 - s.mgmt.half, generation := s.mgmt.generation + 1, journal := setRecords s.mgmt.nextRecord s.inForce,
      nextRecord := s.mgmt.nextRecord + s.inForce.length } } := by
  have hspace : ¬ 64 ≤ s.journalSpace := by rw [State.journalSpace]; omega
  unfold State.journalCompact
  rw [if_neg hspace]
  exact journalAppend_foldl ..

/-- Settles O60: the new half lists the pairs in force, each once, so that the last record of a pair is its only one. -/
theorem compactionKeepsEverySetting : Obligations.CompactionKeepsEverySetting := by
  unfold Obligations.CompactionKeepsEverySetting
  intro s
  refine ⟨fun h => ?_, fun h => ⟨_, (exec_journalCompact s rfl).trans (congrArg _ (journalCompact_full h)), rfl, ?_⟩⟩
  · have hspace : 64 ≤ s.journalSpace := by rw [State.journalSpace]; omega
    exact (exec_journalCompact s rfl).trans (congrArg _ (if_pos hspace))
  · dsimp only
    have hset : ∀ r ∈ setRecords s.mgmt.nextRecord s.inForce, r.op = 1 := fun r hr => (mem_setRecords hr).1
    have hone : ((setRecords s.mgmt.nextRecord s.inForce).map fun r => (r.key, r.index)).Nodup := by
      rw [setRecords_pairs]
      exact inForce_nodup s
    have hvalue (key index : Nat) : State.override { s with mgmt := { s.mgmt with
        half := 1 - s.mgmt.half, generation := s.mgmt.generation + 1, journal := setRecords s.mgmt.nextRecord s.inForce,
        nextRecord := s.mgmt.nextRecord + s.inForce.length } } key index = s.override key index := by
      refine Option.ext fun v => ?_
      rw [override_unique hset hone, ← mem_inForce]
      constructor
      · rintro ⟨r, hr, rfl, rfl, rfl⟩
        exact (mem_setRecords hr).2
      · exact fun hmem => setRecords_has hmem
    refine ⟨by rw [setRecords_length], by rw [setRecords_length, setRecords_seq], hset, hone, hvalue, fun key index => ?_⟩
    unfold State.settingValue
    rw [hvalue]

end Sys2Proof.Machine

/-!
PROOFS. The mailbox commands that change settings, images, cores, lists and debug (R491, R512, R514, R521): O58.
-/
namespace Sys2Proof.Machine

/-! ### Settings (R514) -/

/-- The journal with one record more. -/
def State.journaled (s : State) (key index op : Nat) (v : W64) : State :=
  { s with mgmt := { s.mgmt with
    journal := s.mgmt.journal ++ [⟨key, index, op, s.mgmt.nextRecord, v⟩], nextRecord := s.mgmt.nextRecord + 1 } }

section Settings
variable {s : State} {index : Nat} {v : W64}

theorem eq_of_masked {b : Bool} {x : W64} (h : (b && v == v &&& x) = true) : b = true ∧ v &&& x = v := by
  rw [Bool.and_eq_true, beq_iff_eq] at h
  exact ⟨h.1, h.2.symm⟩

theorem writeSetting_off {key : Nat} (hp : s.powered = false) : s.writeSetting key index v = s := if_pos (by rw [hp]; rfl)

section
variable (hp : s.powered = true)
include hp

theorem writeSetting_limit (hok : State.settingOk 1 index v = true) :
    s.writeSetting 1 index v = s.setAll PWR_MODULE_LIMIT v := by
  obtain ⟨hin, hv⟩ := eq_of_masked hok
  refine (if_neg (by rw [hp]; decide)).trans ((if_pos hin).trans ?_)
  rw [hv]

theorem writeSetting_domain (hok : State.settingOk 2 index v = true) : s.writeSetting 2 index v =
    s.updDomain (index / 4) (index % 4) fun x => { x with floor := bits v 9 5, cap := bits v 14 10 } :=
  (if_neg (by rw [hp]; decide)).trans (if_pos (eq_of_masked hok).1)

theorem writeSetting_thermal (hok : State.settingOk 3 index v = true) : s.writeSetting 3 index v = s.setAll PWR_THERMAL v := by
  obtain ⟨hin, hv⟩ := eq_of_masked hok
  refine (if_neg (by rw [hp]; decide)).trans ((if_pos hin).trans ?_)
  rw [hv]

theorem writeSetting_regulator (hok : State.settingOk 4 index v = true) : s.writeSetting 4 index v =
    { s with regNext := s.regNext.set (index / 32, index % 32 / 8 * 8 + index % 8) v } := by
  obtain ⟨hin, hv⟩ := eq_of_masked hok
  have hgood : ¬ (bits v 33 32 = 3 ∨ (bits v 33 32 = 1 ∧ bits v 11 0 = 0) ∨ bits v 31 12 < 2) := by
    simpa [regCfgOk, imp_iff_not_or, and_assoc] using hin
  have hwrite : s.regCfgWrite s.uluellAgent (index / 32) (index % 32 / 8) (index % 8) v =
      { s with regNext := s.regNext.set (index / 32, index % 32 / 8 * 8 + index % 8) v } := by
    rw [State.regCfgWrite, hv]
    exact if_neg hgood
  exact (if_neg (by rw [hp]; decide)).trans hwrite

/-- Keys 5 to 8: the register takes the value as it is, the period in CONFIGURED alone, and key 8 has none. -/
theorem writeSetting_plain :
    s.writeSetting 5 index v = s.setReg (MGMT_MEM_MAINT index) v ∧ s.writeSetting 6 index v = s.setAll KILN_CFG v ∧
    s.writeSetting 7 index v = (if s.mgmt.state = .configured then s.setAll FAB_FRET_PERIOD v else s) ∧
    s.writeSetting 8 index v = s := by
  have hno : ¬ (!s.powered) = true := by rw [hp]; decide
  exact ⟨if_neg hno, if_neg hno, if_neg hno, if_neg hno⟩

end

end Settings

/-! ### Image slots (R512) -/

/-- Bytes written at an offset of a slot, which is erased first where the offset is 0. -/
def State.imageWritten (s : State) (slot : Nat) (m : Msg) : State :=
  (if m.offset = 0 then s.updMgmt fun g => { g with flash := g.flash.erase slot } else s).flashWrite slot m.offset m.payload

theorem imageWritten_flash (s : State) (slot : Nat) (m : Msg) : ∃ fl,
    s.imageWritten slot m = { s with mgmt := { s.mgmt with flash := fl } } ∧
    fl.get [] slot = Memory.writeList (if m.offset = 0 then [] else s.mgmt.flash.get [] slot) m.offset
      (m.payload.map fun b => ~~~b) ∧
    ∀ k, k ≠ slot → fl.get [] k = s.mgmt.flash.get [] k := by
  unfold State.imageWritten
  by_cases h0 : m.offset = 0
  · rw [if_pos h0, if_pos h0]
    refine ⟨_, rfl, ?_, fun k hk => ?_⟩
    · rw [Map.get_set_self]
      exact congrArg (Memory.writeList · _ _) (map_get_erase_same ..)
    · rw [Map.get_set_ne _ _ _ hk]
      exact map_get_erase_ne _ _ _ _ hk
  · rw [if_neg h0, if_neg h0]
    exact ⟨_, rfl, Map.get_set_self .., fun k hk => Map.get_set_ne _ _ _ hk⟩

theorem unlock_length {m : Msg} (h1 : m.num 0 1 = 1) (hlen : m.length = 104) : cmdLength 0x48 m.length m = true := by
  rw [hlen]
  show (104 == if m.num 0 1 = 1 then 104 else 8) = true
  rw [h1]
  rfl

section Front
variable {s : State} {sl : Slot} {m : Msg} {rest : List Request}
  (hon : s.mgmt.state ≠ .off) (hreq : s.mgmt.requests = { slot := sl, msg := m } :: rest) (hrsv : m.rsvBad = false)
  (hpay : m.payload.length = m.length)
include hon hreq hrsv hpay

section Override
variable (hsl : sl ≠ .host) (hboot : s.mgmt.state ≠ .boot) (hlen : m.length = 16) (hroom : s.mgmt.journal.length ≤ 262079)
  (hnamed : State.settingNamed (m.num 0 2) (m.num 2 2) = true)
include hsl hboot hlen hroom hnamed

theorem overrideSet_writes {u : State} (ho : m.opcode = 0x10) (hop : m.num 4 1 = 1) (hzero : m.zero 5 8 = true)
    (hok : State.settingOk (m.num 0 2) (m.num 2 2) (w64 (m.num 8 8)) = true)
    (hu : (s.journaled (m.num 0 2) (m.num 2 2) 1 (w64 (m.num 8 8))).writeSetting (m.num 0 2) (m.num 2 2) (w64 (m.num 8 8)) = u)
    (hq : u.mgmt.requests = s.mgmt.requests) : s.overrideSet sl m = u.replied sl m rest { status := stOK } := by
  have hno : ¬ s.mustWait = true := fun h => absurd (mustWait_iff.1 h) (Nat.not_lt.2 hroom)
  rw [overrideSet_judged sl m hno]
  refine execute_answers hon hreq hrsv hpay ho (by rw [hlen]; rfl) (bne_iff_ne.2 hboot) (bne_iff_ne.2 hsl) ?_
    (congrArg (·, _) hu) hq
  rw [hop, hzero, hnamed, hok]
  rfl

theorem overrideClear_writes (ho : m.opcode = 0x12) (hop : m.num 4 1 = 2) (hzero : m.zero 5 16 = true) :
    s.overrideClear sl m = (s.journaled (m.num 0 2) (m.num 2 2) 2 0).replied sl m rest { status := stOK } := by
  have hno : ¬ s.mustWait = true := fun h => absurd (mustWait_iff.1 h) (Nat.not_lt.2 hroom)
  rw [overrideClear_judged sl m hno]
  refine execute_answers hon hreq hrsv hpay ho (by rw [hlen]; rfl) (bne_iff_ne.2 hboot) (bne_iff_ne.2 hsl) ?_ rfl rfl
  rw [hop, hzero, hnamed]
  rfl

end Override

section Image
variable (hsl : sl ≠ .host) (hfree : (s.mgmt.state != .boot || s.mgmt.bootFault != 0) = true)
include hsl hfree

theorem imageWrite_answers (ho : m.opcode = 0x18) (hlo : 1 ≤ m.length) (hhi : m.length ≤ 496) (hfit : m.offset + m.length ≤ 0x3000000) :
    s.imageWrite sl m = (s.imageWritten (1 - s.mgmt.imageSlot) m).replied sl m rest
      { status := stOK, offset := m.offset + m.length } := by
  refine execute_answers hon hreq hrsv hpay ho (decide_eq_true ⟨hlo, hhi⟩) hfree (bne_iff_ne.2 hsl)
    (decide_eq_false (Nat.not_lt.2 hfit)) (u := s.imageWritten (1 - s.mgmt.imageSlot) m) ?_ ?_
  · unfold State.imageWritten
    dsimp only
    split <;> rfl
  · obtain ⟨fl, h, -⟩ := imageWritten_flash s (1 - s.mgmt.imageSlot) m
    rw [h]

theorem imageCommit_answers {w : Verdict} {o st : Nat} (ho : m.opcode = 0x19) (hlen : m.length = 0) (hother : 1 - s.mgmt.imageSlot = o)
    (hst : (if !s.slotValid o w then stSIGNATURE else if !s.slotContent o w then stFORMAT
      else if s.slotSequence o ≤ s.mgmt.image.sequence then stRANGE else stOK) = st) :
    s.imageCommit sl m w = s.replied sl m rest
      { status := st, payload := if st = stOK then leBytes 8 (s.slotSequence o) else [] } := by
  subst hother hst
  exact execute_answers hon hreq hrsv hpay ho (by rw [hlen]; rfl) hfree (bne_iff_ne.2 hsl) rfl rfl rfl

end Image

section Eight
variable (hlen : m.length = 8)
include hlen

section Cores
variable (hlegal : ((s.mgmt.state == .run || s.mgmt.state == .degraded) || s.mgmt.state == .quiesce) = true)
  (hgood : State.coreBad m = false)
include hlegal hgood

theorem coreOffline_answers (ho : m.opcode = 0x20) (hsl : sl = .core) : s.coreOffline sl m =
    (s.setHart (m.num 0 1) { s.hart (m.num 0 1) with offline := true }).replied sl m rest { status := stOK } :=
  execute_answers hon hreq hrsv hpay ho (by rw [hlen]; rfl) hlegal (by rw [hsl]; rfl) hgood rfl rfl

theorem coreClearFail_answers (ho : m.opcode = 0x22) (hsl : sl ≠ .host) : s.coreClearFail sl m =
    (s.setHart (m.num 0 1) { s.hart (m.num 0 1) with packFail := false }).replied sl m rest { status := stOK } :=
  execute_answers hon hreq hrsv hpay ho (by rw [hlen]; rfl) hlegal (bne_iff_ne.2 hsl) hgood rfl rfl

section Online
variable {c : Nat} (hc : m.num 0 1 = c) (ho : m.opcode = 0x21) (hsl : sl = .core)
include hc ho hsl

theorem coreOnline_refused {p : Bool}
    (hno : ¬ ((s.hart c).packFail = false ∧ (s.hart c).offline = true ∧ s.dieLive (c / 36) 2 = true)) :
    s.coreOnline sl m p = s.replied sl m rest { status := stSTATE } := by
  have hbad : (s.hart c).packFail = true ∨ (!(s.hart c).offline) = true ∨ (!s.dieLive (c / 36) 2) = true := by
    simp only [Bool.not_eq_true', ← Bool.not_eq_true]
    rw [← Bool.not_eq_true] at hno
    tauto
  subst hc
  exact execute_answers hon hreq hrsv hpay ho (by rw [hlen]; rfl) hlegal (by rw [hsl]; rfl) hgood (if_pos hbad) rfl

theorem coreOnline_tested {p : Bool}
    (hmay : (s.hart c).packFail = false ∧ (s.hart c).offline = true ∧ s.dieLive (c / 36) 2 = true) :
    s.coreOnline sl m p = if p = true then ((s.setHart c { s.hart c with
        offline := false, wfi := false, priv := .machine, pc := w64 s.mgmt.image.coreEntry }).coreFetch c).answerHead { status := stOK }
      else (s.packFailed 0 c).answerHead { status := stSELFTEST } := by
  obtain ⟨hclear, hoff, hlive⟩ := hmay
  subst hc
  refine (execute_done s sl m rest 0x21 _ _ hon hreq hrsv hpay ho (by rw [hlen]; rfl) hlegal (by rw [hsl]; rfl) hgood).trans ?_
  have hok : ¬ ((s.hart (m.num 0 1)).packFail = true ∨ (!(s.hart (m.num 0 1)).offline) = true ∨
      (!s.dieLive (m.num 0 1 / 36) 2) = true) := by
    rw [hclear, hoff, hlive]
    decide
  cases p with
  | true => simp only [if_neg hok, if_true]; rfl
  | false => simp only [if_neg hok, Bool.false_eq_true, if_false]

end Online

end Cores

theorem muteListRemove_answers (ho : m.opcode = 0x29) (hsl : sl = .i3c) (hzero : m.zero 2 8 = true) (hb : m.num 0 2 < 512) :
    s.muteListRemove sl m = if m.num 0 2 ∈ s.muteList
      then State.replied { s with muteList := s.muteList.filter (· != m.num 0 2) } sl m rest { status := stOK }
      else s.replied sl m rest { status := stSTATE } := by
  have hgood : (!m.zero 2 8 || decide (511 < m.num 0 2)) = false := by
    rw [hzero, decide_eq_false (by omega)]
    rfl
  have hfrom : cmdFrom 0x29 sl = true := by rw [hsl]; rfl
  rw [muteListRemove_judged]
  split
  · next hin =>
    exact execute_answers hon hreq hrsv hpay ho (by rw [hlen]; rfl) rfl hfrom hgood (if_pos (List.contains_iff_mem.2 hin)) rfl
  · next hout =>
    exact execute_answers hon hreq hrsv hpay ho (by rw [hlen]; rfl) rfl hfrom hgood (if_neg (mt List.contains_iff_mem.1 hout)) rfl

theorem evidenceRelease_answers (ho : m.opcode = 0x31) (hsl : sl ≠ .host) (hp : s.powered = true) (hgood : State.slotBad m = false) :
    s.evidenceRelease sl m = (s.evidRelease (m.num 0 1) (fld 1 (m.num 1 1))).replied sl m rest { status := stOK } :=
  execute_answers hon hreq hrsv hpay ho (by rw [hlen]; rfl) hp (bne_iff_ne.2 hsl) hgood rfl rfl

end Eight

section Aux
variable (hsl : sl = .i3c) (haux : s.mgmt.state = .aux)
include hsl haux

theorem fuseRearm_answers (hlen : m.length = 0) (ho : m.opcode = 0x38) : s.fuseRearm sl m =
    State.replied { s with power := { s.power with fuseOpen := false } } sl m rest { status := stOK } :=
  execute_answers hon hreq hrsv hpay ho (by rw [hlen]; rfl) (beq_iff_eq.2 haux) (by rw [hsl]; rfl) rfl rfl rfl

section Unlock
variable (ho : m.opcode = 0x48) (hzero : m.zero 1 8 = true)
include ho hzero

theorem debugUnlock_challenge (nonce : List Byte) (ok : Bool) (h0 : m.num 0 1 = 0) (hlen : m.length = 8) :
    let n := (nonce ++ List.replicate 48 0).take 48
    s.debugUnlock sl m nonce ok = State.replied { s with mgmt := { s.mgmt with nonce := some n } } sl m rest
      { status := stOK, payload := n } := by
  have hlength : cmdLength 0x48 m.length m = true := by
    rw [hlen]
    show (8 == if m.num 0 1 = 1 then 104 else 8) = true
    rw [h0]
    rfl
  exact execute_answers hon hreq hrsv hpay ho hlength (beq_iff_eq.2 haux) (by rw [hsl]; rfl) (by rw [h0, hzero]; rfl) (if_pos h0) rfl

section Answer
variable (h1 : m.num 0 1 = 1) (hlen : m.length = 104)
include h1 hlen

theorem debugUnlock_noNonce {nonce : List Byte} {ok : Bool} (hn : s.mgmt.nonce = none) :
    s.debugUnlock sl m nonce ok = s.replied sl m rest { status := stSTATE } :=
  execute_answers hon hreq hrsv hpay ho (unlock_length h1 hlen) (beq_iff_eq.2 haux)
    (by rw [hsl]; rfl) (by rw [h1, hzero]; rfl) ((if_neg (by rw [h1]; decide)).trans (if_pos (by rw [hn]; rfl))) rfl

theorem debugUnlock_response {nonce : List Byte} {ok : Bool} (hn : s.mgmt.nonce ≠ none) :
    s.debugUnlock sl m nonce ok =
      State.replied { s with mgmt := { s.mgmt with nonce := none, unlocked := s.mgmt.unlocked || ok } } sl m rest
        { status := if ok then stOK else stSIGNATURE } := by
  have hsome : ¬ s.mgmt.nonce.isNone = true := fun h => hn (Option.isNone_iff_eq_none.1 h)
  exact execute_answers hon hreq hrsv hpay ho (unlock_length h1 hlen) (beq_iff_eq.2 haux)
    (by rw [hsl]; rfl) (by rw [h1, hzero]; rfl) ((if_neg (by rw [h1]; decide)).trans (if_neg hsome)) rfl

end Answer

end Unlock

end Aux

end Front

theorem coreBad_false {m : Msg} (hzero : m.zero 1 8 = true) (hc : m.num 0 1 < 144) : State.coreBad m = false := by
  rw [State.coreBad, hzero, decide_eq_false (by omega)]
  rfl

/-- Settles O58: each row's action, as the request in front. -/
theorem settingsImagesAndCoresAreChanged : Obligations.SettingsImagesAndCoresAreChanged := by
  unfold Obligations.SettingsImagesAndCoresAreChanged
  intro s sl m rest hon hreq hrsv hpay ans said key index v record g
  refine ⟨fun hsl hboot hlen hroom hnamed => ⟨?set, ?clear⟩, fun hsl hfree => ?images, fun hlen hstate hzero hc => ?cores,
    fun hlen ho hsl hzero hb => ?mutes, fun hlen ho hsl hp hzero hr hk => ?evidence, fun hsl haux => ⟨?fuse, ?unlock⟩⟩
  case set =>
    intro ho hop hzero hok u go
    have hgo {t : State} (ht : u.writeSetting key index v = t) (hq : t.mgmt.requests = s.mgmt.requests) :
        go = ans t (said stOK) :=
      (exec_overrideSet sl m s rfl).trans
        (congrArg _ (overrideSet_writes hon hreq hrsv hpay hsl hboot hlen hroom hnamed ho hop hzero hok ht hq))
    refine ⟨fun hp => hgo (writeSetting_off hp) rfl, fun hp => ?_⟩
    have hpu : u.powered = true := hp
    clear_value key
    obtain ⟨h5, h6, h7, h8⟩ := writeSetting_plain (s := u) (index := index) (v := v) hpu
    refine ⟨?_, ?_, ?_, ?_, ?_, ?_, ?_, ?_⟩ <;> rintro rfl
    · exact hgo (writeSetting_limit hpu hok) rfl
    · exact hgo (writeSetting_domain hpu hok) rfl
    · exact hgo (writeSetting_thermal hpu hok) rfl
    · exact hgo (writeSetting_regulator hpu hok) rfl
    · exact hgo h5 rfl
    · exact hgo h6 rfl
    · refine hgo h7 ?_
      split <;> rfl
    · exact hgo h8 rfl
  case clear =>
    intro ho hop hzero
    exact (exec_overrideClear sl m s rfl).trans
      (congrArg _ (overrideClear_writes hon hreq hrsv hpay hsl hboot hlen hroom hnamed ho hop hzero))
  case images =>
    have hlegal : (s.mgmt.state != .boot || s.mgmt.bootFault != 0) = true := by
      rw [Bool.or_eq_true, bne_iff_ne, bne_iff_ne]
      exact hfree
    refine ⟨?_, ?_⟩
    · intro ho hlo hhi hfit other old
      obtain ⟨fl, hfl, hsame, hother⟩ := imageWritten_flash s (1 - s.mgmt.imageSlot) m
      refine ⟨fl, (exec_imageWrite sl m s rfl).trans (congrArg _ ?_), hsame, hother⟩
      rw [imageWrite_answers hon hreq hrsv hpay hsl hlegal ho hlo hhi hfit, hfl]
      rfl
    · intro w ho hlen other go good
      have hgo {st : Nat} (hst : (if !s.slotValid other w then stSIGNATURE else if !s.slotContent other w then stFORMAT
          else if s.slotSequence other ≤ s.mgmt.image.sequence then stRANGE else stOK) = st) :
          go = ans s { status := st, payload := if st = stOK then leBytes 8 (s.slotSequence other) else [] } :=
        (exec_imageCommit sl m w s rfl).trans
          (congrArg _ (imageCommit_answers hon hreq hrsv hpay hsl hlegal ho hlen rfl hst))
      have hinvalid (h : ¬ good) : (!s.slotValid other w) = true := by rw [Bool.eq_false_of_not_eq_true h]; rfl
      have hvalid (h : good) : ¬ (!s.slotValid other w) = true := by rw [show s.slotValid other w = true from h]; decide
      refine ⟨fun h => ?_, fun h hc => ?_, fun h hc hq => ?_, fun h hc hq => ?_⟩
      · exact hgo (if_pos (hinvalid h))
      · exact hgo ((if_neg (hvalid h)).trans (if_pos (by rw [hc]; rfl)))
      · exact hgo ((if_neg (hvalid h)).trans ((if_neg (by rw [hc]; decide)).trans (if_pos hq)))
      · exact hgo ((if_neg (hvalid h)).trans ((if_neg (by rw [hc]; decide)).trans (if_neg (Nat.not_le.2 hq))))
  case cores =>
    intro c x
    have hlegal : ((s.mgmt.state == .run || s.mgmt.state == .degraded) || s.mgmt.state == .quiesce) = true := by
      rw [Bool.or_eq_true, Bool.or_eq_true, beq_iff_eq, beq_iff_eq, beq_iff_eq, or_assoc]
      exact hstate
    have hgood := coreBad_false hzero hc
    refine ⟨fun ho hsl => ?_, fun ho hsl => ?_, fun ho hsl => ?_⟩
    · exact (exec_coreOffline sl m s rfl).trans (congrArg _ (coreOffline_answers hon hreq hrsv hpay hlen hlegal hgood ho hsl))
    · intro may
      refine ⟨fun h p => ?_, fun h => ?_, fun h => ?_⟩
      · exact (exec_coreOnline sl m p s rfl).trans
          (congrArg _ (coreOnline_refused hon hreq hrsv hpay hlen hlegal hgood rfl ho hsl h))
      · exact (exec_coreOnline sl m true s rfl).trans
          (congrArg _ (coreOnline_tested hon hreq hrsv hpay hlen hlegal hgood rfl ho hsl h))
      · exact (exec_coreOnline sl m false s rfl).trans
          (congrArg _ (coreOnline_tested hon hreq hrsv hpay hlen hlegal hgood rfl ho hsl h))
    · exact (exec_coreClearFail sl m s rfl).trans (congrArg _ (coreClearFail_answers hon hreq hrsv hpay hlen hlegal hgood ho hsl))
  case mutes =>
    have hexec := (exec_muteListRemove sl m s rfl).trans (congrArg _ (muteListRemove_answers hon hreq hrsv hpay hlen ho hsl hzero hb))
    exact ⟨fun h => hexec.trans (congrArg _ (if_pos h)), fun h => hexec.trans (congrArg _ (if_neg h))⟩
  case evidence =>
    exact (exec_evidenceRelease sl m s rfl).trans
      (congrArg _ (evidenceRelease_answers hon hreq hrsv hpay hlen ho hsl hp (slotBad_false hzero hr hk)))
  case fuse =>
    intro hlen ho
    exact (exec_fuseRearm sl m s rfl).trans (congrArg _ (fuseRearm_answers hon hreq hrsv hpay hsl haux hlen ho))
  case unlock =>
    intro nonce ok ho hzero n go
    have hexec := exec_debugUnlock sl m nonce ok s rfl
    refine ⟨fun h0 hlen => ?_, fun h1 hlen hn => ?_, fun h1 hlen hn hok => ?_, fun h1 hlen hn hok => ?_⟩
    · exact hexec.trans (congrArg _ (debugUnlock_challenge hon hreq hrsv hpay hsl haux ho hzero nonce ok h0 hlen))
    · exact hexec.trans (congrArg _ (debugUnlock_noNonce hon hreq hrsv hpay hsl haux ho hzero h1 hlen hn))
    · refine hexec.trans (congrArg _ ((debugUnlock_response hon hreq hrsv hpay hsl haux ho hzero h1 hlen hn).trans ?_))
      rw [hok, Bool.or_true]
      rfl
    · refine hexec.trans (congrArg _ ((debugUnlock_response hon hreq hrsv hpay hsl haux ho hzero h1 hlen hn).trans ?_))
      rw [hok, Bool.or_false]
      rfl

end Sys2Proof.Machine

/-!
PROOFS. Meter tags, records and the ledger (R433 to R450): O48 and O49.
-/
namespace Sys2Proof.Machine

theorem firstCode_cons (b : Bool) (st : Nat) (l : List (Bool × Nat)) :
    firstCode ((b, st) :: l) = if b = true then st else firstCode l := rfl

/-! ### Tag commands (R435, R436) -/

section Tags
variable {s : State} {r : Nat}

/-- OPEN's codes in the order of R13. -/
theorem openStatus_eq (s : State) (r : Nat) : let a := s.reg (KILN_TAG_ARG0 r)
    let tag := bits a 31 0
    s.openStatus r =
      if (s.kiln.tags.find tag).isSome = true ∨ s.mgmt.state = .quiesce then stSTATE
      else if tag = 0 ∨ a.getLsbD 35 = true ∨ bits a 63 40 ≠ 0 then stRANGE
      else if s.ledgerFree < 2 * (s.kiln.tags.length + 1) + 65536 then stLEDGER_FULL
      else if 4096 ≤ s.kiln.tags.length then stTAG_LIMIT
      else if r ∈ s.kiln.failed then stSELFTEST else stOK := by
  simp only [State.openStatus, firstCode_cons, Bool.or_eq_true, beq_iff_eq, bne_iff_ne, decide_eq_true_eq, List.contains_iff_mem, bit,
    or_assoc]
  rfl

/-- The tag that OPEN makes. -/
def State.openedTag (s : State) (r : Nat) : MeterTag :=
  let a := s.reg (KILN_TAG_ARG0 r)
  { home := r, spill := decide (1024 ≤ s.hwTags r), owner := bits a 39 36, part := bits a 34 32, job := s.reg (KILN_TAG_ARG1 r),
    start := s.fret }

/-- What OPEN leaves, by its status. -/
def State.opened (s : State) (r st : Nat) : State :=
  { s with
    regs := (s.tagStatusSet r st).regs
    kiln := if st = stOK then { s.kiln with tags := s.kiln.tags.set (bits (s.reg (KILN_TAG_ARG0 r)) 31 0) (s.openedTag r) } else s.kiln }

theorem tagOpen_eq (s : State) (r : Nat) : s.tagOpen r = s.opened r (s.openStatus r) := by
  unfold State.tagOpen State.opened
  dsimp only
  by_cases hok : s.openStatus r = stOK
  · rw [if_neg (not_not.2 hok), if_pos hok]
    unfold State.openedTag
    rfl
  · rw [if_pos hok, if_neg hok]
    rfl

theorem opened_status (s : State) (r st : Nat) : (s.opened r st).reg (KILN_TAG_STATUS r) = setBits (s.reg (KILN_TAG_STATUS r)) 7 0 st :=
  State.reg_setReg_self s _ _

theorem opened_other (s : State) (r st : Nat) {g : Reg} (h : g ≠ KILN_TAG_STATUS r) : (s.opened r st).reg g = s.reg g :=
  State.reg_setReg_ne s _ h

theorem opened_refused (s : State) (r : Nat) {st : Nat} (h : st ≠ stOK) : (s.opened r st).kiln = s.kiln := if_neg h

theorem opened_ok (s : State) (r : Nat) :
    (s.opened r stOK).kiln = { s.kiln with tags := s.kiln.tags.set (bits (s.reg (KILN_TAG_ARG0 r)) 31 0) (s.openedTag r) } := by
  simp only [State.opened, if_true]

theorem tagClose_open {x : MeterTag} (hx : s.kiln.tags.find (bits (s.reg (KILN_TAG_ARG0 r)) 31 0) = some x)
    (hopen : x.closing = false) (hhome : x.home = r) : s.tagClose r = { s with
      regs := s.regs.set (KILN_TAG_STATUS r) (setBits (s.reg (KILN_TAG_STATUS r)) 7 0 stOK)
      kiln := { s.kiln with
        tags := s.kiln.tags.set (bits (s.reg (KILN_TAG_ARG0 r)) 31 0)
          { x with closing := true, finish := s.fret, reason := 0, module := s.moduleId }
        closing := s.kiln.closing ++ [bits (s.reg (KILN_TAG_ARG0 r)) 31 0] } } := by
  have hgo : ¬ (x.closing = true ∨ x.home ≠ r) := by
    rw [hopen, hhome]
    simp
  have hfind : (s.tagStatusSet r stOK).kiln.tags.find (bits (s.reg (KILN_TAG_ARG0 r)) 31 0) = some x := hx
  unfold State.tagClose
  dsimp only
  rw [hx]
  dsimp only
  rw [if_neg hgo]
  unfold State.closeTag
  rw [hfind]
  exact if_neg (by rw [hopen]; decide)

theorem tagClose_refused (h : ∀ x, s.kiln.tags.find (bits (s.reg (KILN_TAG_ARG0 r)) 31 0) = some x → x.closing = true ∨ x.home ≠ r) :
    s.tagClose r = s.tagStatusSet r stSTATE := by
  unfold State.tagClose
  dsimp only
  split
  · next x hx => exact if_pos (h x hx)
  · rfl

theorem tagQuery_free (h : s.kiln.tags.find (bits (s.reg (KILN_TAG_ARG0 r)) 31 0) = none) :
    s.tagQuery r = s.setReg (KILN_TAG_STATUS r) 0 := by
  unfold State.tagQuery
  rw [h]
  rfl

theorem tagQuery_known {x : MeterTag} (h : s.kiln.tags.find (bits (s.reg (KILN_TAG_ARG0 r)) 31 0) = some x) :
    s.tagQuery r = s.setReg (KILN_TAG_STATUS r) (fld (if x.closing = true then 2 else 1) 9) := by
  unfold State.tagQuery
  rw [h]
  exact congrArg (s.setReg _) (BitVec.zero_or (x := fld (if x.closing = true then 2 else 1) 9))

end Tags

/-- Settles O48: OPEN by its first applicable code, CLOSE and QUERY by the tag that they find. -/
theorem meterTagCommands : Obligations.MeterTagCommands := by
  unfold Obligations.MeterTagCommands
  refine ⟨fun s ag r hp hw => ?opens, fun s ag r hp hw => ?closes, fun s ag r hp hw => ?queries⟩
  case opens =>
    intro a tag state range full limit failed
    have hst := openStatus_eq s r
    refine ⟨s.opened r (s.openStatus r), (exec_tagOpen ag r s hw hp).trans (congrArg _ (tagOpen_eq s r)), rfl,
      fun g => opened_other s r _, fun h1 h2 h3 h4 h5 => ?_, fun h1 => ?_, fun h1 h2 => ?_, fun h1 h2 h3 => ?_,
      fun h1 h2 h3 h4 => ?_, fun h1 h2 h3 h4 h5 => ?_⟩
    · rw [hst.trans ((if_neg h1).trans ((if_neg h2).trans ((if_neg h3).trans ((if_neg h4).trans (if_neg h5)))))]
      exact ⟨opened_status .., s.openedTag r, opened_ok s r, rfl, rfl, rfl, rfl, rfl, rfl, rfl⟩
    · rw [hst.trans (if_pos h1)]
      exact ⟨opened_refused s r (by decide), opened_status ..⟩
    · rw [hst.trans ((if_neg h1).trans (if_pos h2))]
      exact ⟨opened_refused s r (by decide), opened_status ..⟩
    · rw [hst.trans ((if_neg h1).trans ((if_neg h2).trans (if_pos h3)))]
      exact ⟨opened_refused s r (by decide), opened_status ..⟩
    · rw [hst.trans ((if_neg h1).trans ((if_neg h2).trans ((if_neg h3).trans (if_pos h4))))]
      exact ⟨opened_refused s r (by decide), opened_status ..⟩
    · rw [hst.trans ((if_neg h1).trans ((if_neg h2).trans ((if_neg h3).trans ((if_neg h4).trans (if_pos h5)))))]
      exact ⟨opened_refused s r (by decide), opened_status ..⟩
  case closes =>
    have hexec := exec_tagClose ag r s hw hp
    exact ⟨fun x hx hopen hhome => ⟨_, hexec.trans (congrArg _ (tagClose_open hx hopen hhome)), rfl, rfl⟩,
      fun h => hexec.trans (congrArg _ (tagClose_refused h))⟩
  case queries =>
    have hexec := exec_tagQuery ag r s hw hp
    exact ⟨fun h => hexec.trans (congrArg _ (tagQuery_free h)), fun x h => hexec.trans (congrArg _ (tagQuery_known h))⟩

/-! ### Records and signing (R439 to R444) -/

section Records
variable {s : State}

theorem intervalClose_due (h : bits (s.reg (KILN_CFG 0)) 23 0 ≤ s.kiln.interval.frets ∧ 4096 < s.ledgerFree) : ∃ rec : List Byte,
    rec.head? = some 5 ∧ s.intervalClose = { s with kiln := { s.kiln with
      seq := s.kiln.seq + 1, waiting := s.kiln.waiting ++ [(s.kiln.seq, rec)], prev := Digest.sha384 rec
      interval := { last := s.kiln.interval.last, first := false }
      tags := s.kiln.tags.map fun x => (x.1, { x.2 with fresh := [0, 0, 0, 0, 0, 0, 0, 0] }) } } := by
  have hgo : ¬ (s.kiln.interval.frets < bits (s.reg (KILN_CFG 0)) 23 0 ∨ s.ledgerFree ≤ 4096) := by omega
  obtain ⟨rec, hrec, hhead⟩ := buildRecord_ok s 5 (4 * s.kiln.interval.gap.toNat + 8 * s.kiln.interval.first.toNat) 0 0
    ([(16, 8, s.kiln.interval.start), (24, 8, s.kiln.interval.last), (32, 8, s.kiln.interval.input), (40, 8, s.kiln.interval.unattr)] ++
      classFields s.kiln.interval.attrib ++ [(112, 8, s.kiln.meterTotal), (120, 4, s.openTags)])
  refine ⟨rec, hhead, ?_⟩
  unfold State.intervalClose
  dsimp only
  rw [if_neg hgo, hrec]
  rfl

theorem entryBytes_record (rec a b : List Byte) (st : Nat) : (State.entryBytes rec a b st).take rec.length = rec := by
  unfold State.entryBytes
  dsimp only
  simp only [List.append_assoc]
  exact List.take_left' rfl

theorem signDone_single {q : Nat} {rec : List Byte} (h : s.kiln.waiting = [(q, rec)]) (htok : 0 < s.kiln.tokens) : ∃ e : List Byte,
    e.take rec.length = rec ∧ s.signDone = { s with freeCount := s.freeCount + 1, kiln := { s.kiln with
      tokens := s.kiln.tokens - 1, waiting := [], ready := s.kiln.ready.set q e } } := by
  have hone : s.signDone = (s.updKiln fun k => { k with tokens := k.tokens - 1 }).signOne q rec := by
    unfold State.signDone
    rw [h]
    exact if_pos htok
  have hleft : s.kiln.waiting.filter (·.1 != q) = [] := by
    rw [h]
    simp
  refine ⟨State.entryBytes rec (s.signature rec).1 (s.signature rec).2 1, entryBytes_record .., hone.trans ?_⟩
  unfold State.signOne State.updKiln State.nextFree
  dsimp only
  rw [hleft]
  rfl

end Records

/-! ### The ledger and its ring (R446 to R449) -/

section Ledger
variable {s : State}

theorem exportRing_off (h : (s.reg (KILN_RING_ENABLE 0)).getLsbD 0 = false) : s.exportRing = s := exportAll_off _ s h

theorem ledgerAppend_stages {bytes : List Byte} (hready : s.kiln.ready.find s.kiln.nextAppend = some bytes) (hroom : s.kiln.staged < 51)
    (hcone : bytes.getD 0 0 ≠ 1) (hoff : (s.reg (KILN_RING_ENABLE 0)).getLsbD 0 = false) :
    s.ledgerAppend = { s with kiln := { s.kiln with
      ledger := s.kiln.ledger ++ [(s.kiln.nextAppend, bytes)], ready := s.kiln.ready.erase s.kiln.nextAppend,
      nextAppend := s.kiln.nextAppend + 1, staged := s.kiln.staged + 1 } } := by
  have hnot : ¬ (bytes.getD 0 0).toNat = 1 := fun h => hcone (BitVec.eq_of_toNat_eq h)
  unfold State.ledgerAppend
  rw [hready]
  dsimp only
  rw [if_neg (Nat.not_le.2 hroom), State.freeTag, if_neg hnot]
  exact exportRing_off hoff

theorem KILN_RING_HEAD_inj (i j : Nat) (h : KILN_RING_HEAD i = KILN_RING_HEAD j) : i = j := by
  have e : (i * 0x100000000 + 0x201030 : Nat) = j * 0x100000000 + 0x201030 := h
  omega

theorem ringHeadWrite_past (ag : Agent) (r : Nat) {v : W64} (h : (s.reg (KILN_RING_TAIL 0)).toNat < v.toNat) :
    s.ringHeadWrite ag r v = s.log r stRANGE 1 ag.code 0x201030 0 := by
  obtain ⟨hdiv, hmod⟩ := rreg_parts r 0x201030 (by decide)
  rw [State.ringHeadWrite, if_pos h, State.kilnRefuse, KILN_RING_HEAD, hdiv, hmod]

theorem ringHeadWrite_taken (ag : Agent) (r : Nat) {v : W64} (h : v.toNat ≤ (s.reg (KILN_RING_TAIL 0)).toNat)
    (hoff : (s.reg (KILN_RING_ENABLE 0)).getLsbD 0 = false) : s.ringHeadWrite ag r v = s.setAll KILN_RING_HEAD v := by
  have hother : ∀ q, KILN_RING_ENABLE 0 ≠ KILN_RING_HEAD q := fun q e => by
    have e : (0 * 0x100000000 + 0x201048 : Nat) = q * 0x100000000 + 0x201030 := e
    omega
  rw [State.ringHeadWrite, if_neg (Nat.not_lt.2 h)]
  refine exportRing_off ?_
  rw [(setAll_four s KILN_RING_HEAD v fun i j _ _ => KILN_RING_HEAD_inj i j).2.2 _ hother, hoff]

theorem ledgerCompact_acked {upTo first : Nat} {b : List Byte} {l : List (Nat × List Byte)} (hl : s.kiln.ledger = (first, b) :: l)
    (hfirst : first ≤ upTo) (hack : upTo < (s.reg (KILN_ACK_SEQ 0)).toNat) : ∃ rec : List Byte, rec.head? = some 3 ∧
      s.ledgerCompact upTo = { s with kiln := { s.kiln with
        ledger := s.kiln.ledger.filter (fun x => decide (upTo < x.1)), seq := s.kiln.seq + 1, prev := Digest.sha384 rec,
        waiting := s.kiln.waiting ++ [(s.kiln.seq, rec)] } } := by
  have hgo : ¬ ((s.reg (KILN_ACK_SEQ 0)).toNat ≤ upTo ∨ upTo < first) := by omega
  have hrest : s.kiln.ledger.filter (not ∘ fun x => decide (x.1 ≤ upTo)) = s.kiln.ledger.filter fun x => decide (upTo < x.1) :=
    List.filter_congr fun x _ => by rw [Function.comp_apply, ← decide_not, decide_eq_decide, Nat.not_le]
  unfold State.ledgerCompact
  rw [← hrest]
  split
  · next f d tl hcons =>
    obtain ⟨⟨rfl, -⟩, -⟩ : (f = first ∧ d = b) ∧ tl = l := by simpa using hcons.symm.trans hl
    rw [List.partition_eq_filter_filter]
    dsimp only
    rw [if_neg hgo]
    obtain ⟨rec, hrec, hhead⟩ := buildRecord_ok (s.updKiln fun k => { k with
      ledger := s.kiln.ledger.filter (not ∘ fun x => decide (x.1 ≤ upTo)) }) 3 0 0 0 _
    exact ⟨rec, hhead, hrec⟩
  · next hnil => exact absurd (hnil.symm.trans hl) (by simp)

/-- A region's tags as they are once copied. -/
def freshened (r : Nat) (x : Nat × MeterTag) : Nat × MeterTag :=
  (x.1, if x.2.home = r then { x.2 with fresh := noEnergy } else x.2)

theorem freshened_home (r : Nat) (x : Nat × MeterTag) : (freshened r x).2.home = x.2.home := by
  unfold freshened
  split <;> rfl

theorem filter_freshened {r q : Nat} (h : q ≠ r) (l : List (Nat × MeterTag)) :
    (l.map (freshened r)).filter (fun x => x.2.home == q) = l.filter fun x => x.2.home == q := by
  rw [List.filter_map]
  have hsame : ((fun x : Nat × MeterTag => x.2.home == q) ∘ freshened r) = fun x => x.2.home == q := by
    funext x
    rw [Function.comp_apply, freshened_home]
  rw [hsame]
  refine (List.map_congr_left fun x hx => ?_).trans (List.map_id _)
  have hhome : x.2.home = q := by simpa using (List.mem_filter.1 hx).2
  exact Prod.ext rfl (if_neg (hhome ▸ h))

/-- The copy of one region's tags to a holder. -/
def State.copied (s : State) (r h : Nat) : State :=
  s.updKiln fun k => { k with copies := k.copies.set r (h, s.fret, k.tags.filter (·.2.home == r)), tags := k.tags.map (freshened r) }

/-- One region's part of TAG_BACKUP. -/
def State.copyRegion (s : State) (r : Nat) : State :=
  match s.liveRegions.find? (· != r) with
  | some h => s.copied r h
  | none => s

theorem tagBackup_eq (h : s.fret % 64 = 0) : s.tagBackup = s.liveRegions.foldl State.copyRegion s := if_neg (not_not.2 h)

theorem copyRegions_frame (l : List Nat) (s : State) : ∃ copies tags,
    l.foldl State.copyRegion s = { s with kiln := { s.kiln with copies := copies, tags := tags } } := by
  induction l generalizing s with
  | nil => exact ⟨_, _, rfl⟩
  | cons r l ih =>
    obtain ⟨copies, tags, h⟩ := ih (s.copyRegion r)
    refine ⟨copies, tags, h.trans ?_⟩
    unfold State.copyRegion
    split <;> rfl

theorem liveRegions_all (h : s.lostRegions = []) : s.liveRegions = [0, 1, 2, 3] := by
  simp [State.liveRegions, State.regionLive, h, List.range_succ]

theorem copyRegion_all (h : s.lostRegions = []) (r : Nat) : s.copyRegion r = s.copied r (if r = 0 then 1 else 0) := by
  unfold State.copyRegion
  rw [liveRegions_all h]
  by_cases hr : r = 0
  · subst hr
    rfl
  · have hfind : [0, 1, 2, 3].find? (· != r) = some 0 := List.find?_cons_of_pos (bne_iff_ne.2 (Ne.symm hr))
    rw [hfind, if_neg hr]

theorem tagBackup_all (h : s.fret % 64 = 0) (hlost : s.lostRegions = []) :
    s.tagBackup = (((s.copied 0 1).copied 1 0).copied 2 0).copied 3 0 := by
  have hnext {u : State} (hu : u.lostRegions = []) (r h : Nat) : (u.copied r h).lostRegions = [] := hu
  rw [tagBackup_eq h, liveRegions_all hlost]
  simp only [List.foldl_cons, List.foldl_nil]
  rw [copyRegion_all hlost, copyRegion_all (hnext hlost ..), copyRegion_all (hnext (hnext hlost ..) ..),
    copyRegion_all (hnext (hnext (hnext hlost ..) ..) ..)]
  rfl

theorem freshened_all (x : Nat × MeterTag) : freshened 3 (freshened 2 (freshened 1 (freshened 0 x))) =
    (x.1, if x.2.home < 4 then { x.2 with fresh := noEnergy } else x.2) := by
  obtain ⟨t, x⟩ := x
  unfold freshened
  rcases (by omega : x.home = 0 ∨ x.home = 1 ∨ x.home = 2 ∨ x.home = 3 ∨ 4 ≤ x.home) with h | h | h | h | h
  · simp [h]
  · simp [h]
  · simp [h]
  · simp [h]
  · have hno : ∀ k, k < 4 → x.home ≠ k := fun k hk => by omega
    simp [hno, Nat.not_lt.2 h]

theorem tagBackup_tags (h : s.fret % 64 = 0) (hlost : s.lostRegions = []) : s.tagBackup.kiln.tags = s.kiln.tags.map fun x =>
    (x.1, if x.2.home < 4 then { x.2 with fresh := [0, 0, 0, 0, 0, 0, 0, 0] } else x.2) := by
  rw [tagBackup_all h hlost]
  simp only [State.copied, State.updKiln, List.map_map]
  exact List.map_congr_left fun x _ => freshened_all x

theorem tagBackup_copies (h : s.fret % 64 = 0) (hlost : s.lostRegions = []) {r : Nat} (hr : r < 4) :
    s.tagBackup.kiln.copies.find r = some (if r = 0 then 1 else 0, s.fret, s.kiln.tags.filter fun x => x.2.home == r) := by
  rw [tagBackup_all h hlost]
  simp only [State.copied, State.updKiln]
  have hcases : r = 0 ∨ r = 1 ∨ r = 2 ∨ r = 3 := by omega
  rcases hcases with rfl | rfl | rfl | rfl
  · simp [Map.find_set_ne]
  · simp [Map.find_set_ne, filter_freshened, -List.map_map]
  · simp [Map.find_set_ne, filter_freshened, -List.map_map]
  · simp [filter_freshened, -List.map_map]

end Ledger

/-- Settles O49: a record by `buildRecord_ok`, the ring off by `exportRing_off`, and the copies region by region. -/
theorem ledgerRecords : Obligations.LedgerRecords := by
  unfold Obligations.LedgerRecords
  refine ⟨fun s hp => ⟨fun h => ?early, fun h => ?due⟩, fun s => exec_signToken s rfl, fun s q rec hw htok => ?signs,
    fun s bytes hready hroom hcone hoff => ?appends, fun s => exec_pageProgram s rfl, fun s ag r v hp hw => ?head,
    fun s upTo first b l hl hfirst hack => ?compacts, fun s hp => ?copies⟩
  case early =>
    have hwait : s.kiln.interval.frets < bits (s.reg (KILN_CFG 0)) 23 0 ∨ s.ledgerFree ≤ 4096 := by omega
    exact (exec_intervalClose s rfl hp).trans (congrArg _ (if_pos hwait))
  case due =>
    obtain ⟨rec, hhead, hrec⟩ := intervalClose_due h
    exact ⟨_, rec, (exec_intervalClose s rfl hp).trans (congrArg _ hrec), hhead, rfl⟩
  case signs =>
    obtain ⟨e, he, hdone⟩ := signDone_single hw htok
    exact ⟨_, e, (exec_signDone s rfl).trans (congrArg _ hdone), rfl, rfl, he⟩
  case appends => exact (exec_ledgerAppend s rfl).trans (congrArg _ (ledgerAppend_stages hready hroom hcone hoff))
  case head =>
    have hexec := exec_kilnRingHeadWrite ag r v s hw hp
    refine ⟨fun h => ⟨_, hexec.trans (congrArg _ (ringHeadWrite_past ag r h)), rfl⟩, fun h hoff => ?_⟩
    obtain ⟨hframe, hhead, hother⟩ := setAll_four s KILN_RING_HEAD v fun i j _ _ => KILN_RING_HEAD_inj i j
    exact ⟨_, hexec.trans (congrArg _ (ringHeadWrite_taken ag r h hoff)), hframe, hhead, hother⟩
  case compacts =>
    obtain ⟨rec, hhead, hrec⟩ := ledgerCompact_acked hl hfirst hack
    exact ⟨_, rec, (exec_ledgerCompact upTo s rfl).trans (congrArg _ hrec), rfl, rfl, rfl, rfl, hhead⟩
  case copies =>
    refine ⟨s.tagBackup, exec_tagBackup s rfl hp, ?_, fun h => if_pos h, fun h hlost => tagBackup_tags h hlost,
      fun h hlost r hr => tagBackup_copies h hlost hr⟩
    by_cases h : s.fret % 64 = 0
    · obtain ⟨copies, tags, hframe⟩ := copyRegions_frame s.liveRegions s
      rw [tagBackup_eq h, hframe]
    · rw [show s.tagBackup = s from if_pos h]

end Sys2Proof.Machine

/-!
PROOFS. Fabric time (R371 to R375, R377): O41.
-/
namespace Sys2Proof.Machine

section Exchange
variable {s : State} {k : Nat} {p : TimePkt} {t4 : Nat}

/-- A module that disciplines itself by its parent (R373). -/
theorem tracks_iff : s.tracks = true ↔
    s.fab.settled = true ∧ s.time.root = false ∧ s.time.adopt = false ∧ (s.time.lock = .acquiring ∨ s.time.lock = .locked) := by
  simp [State.tracks, and_assoc]

/-- The port's registers after an exchange of offset `e` and delay `d`. -/
def State.measured (s : State) (k : Nat) (e d : Int) : State :=
  ((s.setPort k { s.port k with timeWait := none, timeLost := 0, timeE := some e }).setReg (FAB_PORT_TIME_OFFSET k)
    (w64 (signed32 e))).setReg (FAB_PORT_TIME_DELAY k) (w64 (signed32 d))

/-- What an exchange of offset `e` with the parent does once it is measured. -/
def State.afterExchange (u : State) (k : Nat) (p : TimePkt) (e : Int) : State :=
  if u.fab.parent ≠ some k ∨ !u.fab.settled then u
  else if u.time.adopt then u.updTime fun t => { t with e := e, ready := if p.lock = 1 ∨ p.lock = 2 then t.ready + 1 else 0 }
  else if u.tracks then
    (u.updTime fun t => { t with e := e, est := p.est + e, depth := min 255 (p.depth + 1) }).lockStep e
  else u

theorem timeResp_idle (h : (s.port k).timeWait = none) : s.timeRespReceive k p t4 = s := by
  unfold State.timeRespReceive
  rw [h]

theorem timeResp_stale {q t1 : Nat} (h : (s.port k).timeWait = some (q, t1)) (hq : q ≠ p.seq) : s.timeRespReceive k p t4 = s := by
  unfold State.timeRespReceive
  rw [h]
  exact if_pos hq

theorem timeResp_completes {t1 : Nat} (h : (s.port k).timeWait = some (p.seq, t1)) :
    let there := tickDiff s.period p.t2 t1
    let back := tickDiff s.period (s.stamp t4) p.t3
    s.timeRespReceive k p t4 =
      (s.measured k (Int.tdiv (back - there) 2) (Int.tdiv (back + there) 2)).afterExchange k p (Int.tdiv (back - there) 2) := by
  intro there back
  unfold State.timeRespReceive
  rw [h]
  exact if_neg (not_not.2 rfl)

section Parent
variable {u : State} {e : Int}

theorem afterExchange_other (h : u.fab.parent ≠ some k ∨ u.fab.settled = false) : u.afterExchange k p e = u :=
  if_pos (h.imp_right fun h => by rw [h]; rfl)

variable (hparent : u.fab.parent = some k) (hsettled : u.fab.settled = true)
include hparent hsettled

theorem parent_settled : ¬ (u.fab.parent ≠ some k ∨ (!u.fab.settled) = true) := by
  rw [hparent, hsettled]
  simp

theorem afterExchange_adopts (h : u.time.adopt = true) : u.afterExchange k p e =
    { u with time := { u.time with e := e, ready := if p.lock = 1 ∨ p.lock = 2 then u.time.ready + 1 else 0 } } :=
  (if_neg (parent_settled hparent hsettled)).trans (if_pos h)

theorem afterExchange_untracked (h : u.time.adopt = false) (hno : u.time.root = true ∨ u.time.lock = .unset ∨ u.time.lock = .holdover) :
    u.afterExchange k p e = u := by
  have hnot : ¬ u.tracks = true := fun ht => by
    obtain ⟨-, hroot, -, hlock⟩ := tracks_iff.1 ht
    rcases hno with hr | hl | hl
    · rw [hroot] at hr
      cases hr
    · rw [hl] at hlock
      simp at hlock
    · rw [hl] at hlock
      simp at hlock
  exact (if_neg (parent_settled hparent hsettled)).trans ((if_neg (by rw [h]; decide)).trans (if_neg hnot))

theorem afterExchange_tracks (h : u.time.adopt = false) (hroot : u.time.root = false)
    (hlock : u.time.lock = .acquiring ∨ u.time.lock = .locked) : u.afterExchange k p e =
    State.lockStep { u with time := { u.time with e := e, est := p.est + e, depth := min 255 (p.depth + 1) } } e :=
  (if_neg (parent_settled hparent hsettled)).trans
    ((if_neg (by rw [h]; decide)).trans (if_pos (tracks_iff.2 ⟨hsettled, hroot, h, hlock⟩)))

/-- The time registers after an exchange that disciplines the module by its parent (R373). -/
def Time.led (t : Time) (p : TimePkt) (e : Int) : Time := { t with e := e, est := p.est + e, depth := min 255 (p.depth + 1) }

theorem afterExchange_acquiring (h : u.time.adopt = false) (hroot : u.time.root = false) (hlock : u.time.lock = .acquiring) :
    let led := u.time.led p e
    u.afterExchange k p e = if e.natAbs ≤ 64 then
        (if 15 ≤ u.time.good then { u with time := { led with lock := .locked, good := 0, bad := 0 } }
        else { u with time := { led with good := u.time.good + 1 } })
      else { u with time := { led with good := 0 } } :=
  (afterExchange_tracks hparent hsettled h hroot (.inl hlock)).trans (lockStep_acq { u with time := u.time.led p e } e hlock)

theorem afterExchange_locked (h : u.time.adopt = false) (hroot : u.time.root = false) (hlock : u.time.lock = .locked) :
    let led := u.time.led p e
    let n := u.time.bad + 1
    let v : State := { u with time := { led with bad := n, alarm := u.time.alarm || decide (4 ≤ n) } }
    u.afterExchange k p e = if 640 < e.natAbs then { u with time := { led with lock := .acquiring, good := 0, bad := 0 } }
      else if e.natAbs ≤ 64 then { u with time := { led with bad := 0 } }
      else if n = 4 then v.log v.masterRegion stOK 5 0 0 (fld 2 0 ||| fld (timeOffset e) 32) else v :=
  (afterExchange_tracks hparent hsettled h hroot (.inr hlock)).trans (lockStep_locked { u with time := u.time.led p e } e hlock)

end Parent

end Exchange

/-! ### A lost answer (R371, R374) -/

section Lost
variable {s : State} {k : Nat}

theorem timeRespLost_idle (h : (s.port k).timeWait = none) : s.timeRespLost k = s := by
  unfold State.timeRespLost
  rw [h]

theorem timeRespLost_open {w : Nat × Nat} (h : (s.port k).timeWait = some w) :
    let u := s.setPort k { s.port k with timeWait := none, timeLost := (s.port k).timeLost + 1 }
    let again : State := { u with time := { s.time with ready := 0 } }
    s.timeRespLost k = if s.fab.parent ≠ some k then u
      else if 4 ≤ (s.port k).timeLost + 1 then again.enterHoldover else again := by
  intro u again
  have hcount : (again.port k).timeLost = (s.port k).timeLost + 1 := congrArg Port.timeLost (State.port_setPort_self s k _)
  rw [← hcount]
  unfold State.timeRespLost
  rw [h]
  rfl

/-- The condition of HOLDOVER, in words of the fields. -/
theorem holdover_iff : (s.fab.settled && !s.time.root && (s.time.lock == .acquiring || s.time.lock == .locked)) = true ↔
    s.fab.settled = true ∧ s.time.root = false ∧ (s.time.lock = .acquiring ∨ s.time.lock = .locked) := by
  simp [and_assoc]

end Lost

/-- Settles O41: the exchange is measured, then counts or disciplines by the module's lock. -/
theorem timeTransfersDisciplineTheModule : Obligations.TimeTransfersDisciplineTheModule := by
  unfold Obligations.TimeTransfersDisciplineTheModule
  intro s k hp hk x stamp
  have hok : okPort k = true := decide_eq_true hk
  refine ⟨fun t1 => ?send, fun p t2 t3 => exec_timeReq k p t2 t3 s hok hp, fun p t4 => ?resp, fun h => ?lostIdle, fun w h => ?lost⟩
  case send =>
    have hexec := exec_timeReqSend k t1 s hok hp
    refine ⟨fun h => hexec.trans (congrArg _ (if_pos h)), fun ha hslot hsent => hexec.trans (congrArg _ (if_neg ?_))⟩
    exact not_or.2 ⟨not_not.2 ha, not_or.2 ⟨Nat.not_lt.2 hslot, hsent⟩⟩
  case resp =>
    have hexec := exec_timeResp k p t4 s hok hp
    refine ⟨fun h => hexec.trans (congrArg _ (timeResp_idle h)), fun q t1 h hq => hexec.trans (congrArg _ (timeResp_stale h hq)),
      fun t1 h => ?_⟩
    intro there back e u set got led
    have hgot {v : State} (hv : u.afterExchange k p e = v) : got v :=
      (hexec.trans (congrArg _ (timeResp_completes h))).trans (congrArg _ hv)
    refine ⟨fun h => hgot (afterExchange_other h), fun hparent hsettled => ⟨fun ha => ?_, fun ha hno => ?_, fun ha hr hl => ?_,
      fun ha hr hl => ?_⟩⟩
    · exact hgot (afterExchange_adopts hparent hsettled ha)
    · exact hgot (afterExchange_untracked hparent hsettled ha hno)
    · have hacq := afterExchange_acquiring (u := u) (p := p) (e := e) hparent hsettled ha hr hl
      exact ⟨fun he => hgot (hacq.trans (if_neg (Nat.not_le.2 he))),
        fun he hg => hgot (hacq.trans ((if_pos he).trans (if_neg (Nat.not_le.2 hg)))),
        fun he hg => hgot (hacq.trans ((if_pos he).trans (if_pos hg)))⟩
    · have hlocked := afterExchange_locked (u := u) (p := p) (e := e) hparent hsettled ha hr hl
      refine ⟨fun he => hgot (hlocked.trans (if_pos he)), fun he => hgot (hlocked.trans ((if_neg (by omega)).trans (if_pos he))),
        fun hlo hhi => ?_⟩
      have hrest := hlocked.trans ((if_neg (Nat.not_lt.2 hhi)).trans (if_neg (Nat.not_le.2 hlo)))
      exact ⟨fun hn => hgot (hrest.trans (if_pos hn)), fun hn => hgot (hrest.trans (if_neg hn))⟩
  case lostIdle => exact (exec_timeRespLost k s hok hp).trans (congrArg _ (timeRespLost_idle h))
  case lost =>
    intro u again tracking
    have hexec := (exec_timeRespLost k s hok hp).trans (congrArg _ (timeRespLost_open h))
    have htrack : (again.fab.settled && !again.time.root && (again.time.lock == .acquiring || again.time.lock == .locked)) = true ↔
        tracking := holdover_iff
    refine ⟨fun hp => hexec.trans (congrArg _ (if_pos hp)), fun hp hfew => ?_, fun hp hmany ht => ?_⟩
    · refine hexec.trans (congrArg _ ((if_neg (not_not.2 hp)).trans ?_))
      split
      · next h4 => exact if_neg (mt htrack.1 (hfew.resolve_left (Nat.not_lt.2 (Nat.le_of_succ_le_succ h4))))
      · rfl
    · refine hexec.trans (congrArg _ ((if_neg (not_not.2 hp)).trans ((if_pos (Nat.succ_le_succ hmany)).trans ((if_pos (htrack.2 ht)).trans ?_))))
      rw [← hp]
      rfl

end Sys2Proof.Machine

/-!
PROOFS. Power entry and its limits (chapter 14): O50 and O51. The power-loss record writes the ledger through the coherent
homes, so the first part says that none of them touches power management.
-/
namespace Sys2Proof.Machine

/-! ### Homes, caches and the ledger leave power management and the module number as they are -/

/-- What no access of the coherent homes changes: the power manager's state, and the number of the module. -/
def State.fixed (s : State) : Power × Nat := (s.power, s.moduleId)

theorem power_of_fixed {s t : State} (h : s.fixed = t.fixed) : s.power = t.power := congrArg Prod.fst h

theorem moduleId_of_fixed {s t : State} (h : s.fixed = t.fixed) : s.moduleId = t.moduleId := congrArg Prod.snd h

@[simp] theorem bump_fixed (s : State) (g : Reg) (n : Nat) : (s.bump g n).fixed = s.fixed := rfl

@[simp] theorem nextFree_fixed (s : State) : s.nextFree.fixed = s.fixed := rfl

@[simp] theorem updKiln_fixed (s : State) (f : Kiln → Kiln) : (s.updKiln f).fixed = s.fixed := rfl


@[simp] theorem log_fixed (s : State) (r st cause src addr : Nat) (d : W64) : (s.log r st cause src addr d).fixed = s.fixed := by
  unfold State.log; rfl

@[simp] theorem setDir_fixed (s : State) (line : Nat) (d : Option Dir) : (s.setDir line d).fixed = s.fixed := by
  cases d <;> rfl

@[simp] theorem setCache_fixed (s : State) (k line : Nat) (c : Option CLine) : (s.setCache k line c).fixed = s.fixed := rfl

@[simp] theorem logDiscard_fixed (s : State) (ag : Agent) (a st : Nat) : (s.logDiscard ag a st).fixed = s.fixed := by
  unfold State.logDiscard; split <;> exact log_fixed ..

@[simp] theorem logPoison_fixed (s : State) (ag : Agent) (a : Nat) : (s.logPoison ag a).fixed = s.fixed := log_fixed ..

@[simp] theorem putLine_fixed (s : State) (line : Nat) (l : Line) : (s.putLine line l).fixed = s.fixed :=
  (congrArg State.fixed (putLine_frame s line l)).trans rfl

@[simp] theorem charge_fixed (s : State) (line : Nat) : (s.charge line).fixed = s.fixed :=
  (congrArg State.fixed (charge_frame s line)).trans rfl

@[simp] theorem allocate_fixed (s : State) (line : Nat) (dirty : Bool) : (s.allocate line dirty).fixed = s.fixed := by
  obtain ⟨B, hB⟩ := allocate_fill s line dirty
  exact (congrArg State.fixed hB).trans ((congrArg State.fixed (slcFill_frame _ line dirty)).trans rfl)

@[simp] theorem countServe_fixed (s : State) (line : Nat) : (s.countServe line).fixed = s.fixed :=
  (congrArg State.fixed (patLookup_frame s (line * 128))).trans rfl

@[simp] theorem countPoison_fixed (s : State) (line : Nat) (l : Line) : (s.countPoison line l).fixed = s.fixed :=
  (congrArg State.fixed (countPoison_frame s line l)).trans rfl

@[simp] theorem clearCopyValid_fixed (s : State) (a : Nat) : (s.clearCopyValid a).fixed = s.fixed :=
  (congrArg State.fixed (clearCopy_frame s a)).trans rfl

@[simp] theorem homeStore_fixed (s : State) (ag : Agent) (line : Nat) (l : Line) : (s.homeStore ag line l).fixed = s.fixed := by
  unfold State.homeStore
  dsimp only
  split <;> simp

@[simp] theorem serveHome_fixed (s : State) (k line : Nat) (st : CState) : (s.serveHome k line st).fixed = s.fixed := by
  simp [State.serveHome, State.fill]

@[simp] theorem serveC2C_fixed (s : State) (k line : Nat) (st : CState) (l : Line) : (s.serveC2C k line st l).fixed = s.fixed := by
  simp [State.serveC2C, State.fill]

@[simp] theorem finishUnique_fixed (s : State) (k line : Nat) (fwd : Option (Line × Bool)) :
    (s.finishUnique k line fwd).fixed = s.fixed := by
  unfold State.finishUnique
  cases fwd <;> simp

/-- Whatever a transaction does as it completes, it does to the line, its holders and the counters (Table 8.2). -/
@[simp] theorem complete_fixed (s : State) (t : Txn) : (s.complete t).fixed = s.fixed := by
  unfold State.complete
  dsimp only
  cases t.req with
  | readShared k =>
    cases t.fwd with
    | none => simp [apply_ite State.fixed]
    | some x => simp [apply_ite State.fixed]
  | readUnique k => exact finishUnique_fixed ..
  | upgrade k =>
    dsimp only
    split
    · simp [apply_ite State.fixed]
    · exact finishUnique_fixed ..
  | writeBack k =>
    dsimp only
    split
    · split
      · exact (setDir_fixed ..).trans (homeStore_fixed ..)
      · rfl
    · rfl
  | cleanEvict k =>
    dsimp only
    split
    · split
      · exact setDir_fixed ..
      · rfl
    · rfl
  | eRead p =>
    dsimp only
    refine (countPoison_fixed ..).trans ((countServe_fixed ..).trans ((charge_fixed ..).trans ?_))
    split <;> simp
  | eWrite p d => simp
  | eMasked p d m =>
    dsimp only
    rw [homeStore_fixed, countServe_fixed, charge_fixed, setDir_fixed]
    split <;> simp
  | eAtomic p off size op v =>
    dsimp only
    rw [apply_ite State.fixed, logPoison_fixed, homeStore_fixed, ite_self]
    refine (countPoison_fixed ..).trans ((countServe_fixed ..).trans ((charge_fixed ..).trans ((setDir_fixed ..).trans ?_)))
    split <;> simp
  | backInval =>
    dsimp only
    rw [setDir_fixed]
    split <;> split <;> simp

@[simp] theorem startFirst_fixed (s : State) (line n : Nat) : (s.startFirst line n).fixed = s.fixed := by
  induction n generalizing s with
  | zero => rfl
  | succ n ih =>
    unfold State.startFirst
    split
    · split
      · rfl
      · split
        · split <;> rfl
        · dsimp only
          split
          · exact (ih _).trans (complete_fixed ..)
          · rfl
    · rfl

theorem foldl_fixed {α : Type} (l : List α) (f : State → α → State) (hf : ∀ s x, (f s x).fixed = s.fixed) (s : State) :
    (l.foldl f s).fixed = s.fixed := by
  induction l generalizing s with
  | nil => rfl
  | cons x l ih => exact (ih (f s x)).trans (hf s x)

@[simp] theorem startAll_fixed (s : State) (n : Nat) : (s.startAll n).fixed = s.fixed := by
  induction n generalizing s with
  | zero => rfl
  | succ n ih => exact (ih _).trans (foldl_fixed _ _ (fun s l => startFirst_fixed s l _) s)

theorem dropCopy_fixed (s : State) (k line : Nat) : (s.dropCopy k line).fixed = s.fixed := by
  unfold State.dropCopy State.endReservation State.endDeferral
  dsimp only
  split <;> split <;> rfl

theorem answerSnoop_fixed (s : State) (k line : Nat) (take : Bool) : (s.answerSnoop k line take).fixed = s.fixed := by
  unfold State.answerSnoop
  extract_lets u
  have hu : u.fixed = s.fixed := by
    dsimp only [u]
    split <;> rfl
  rw [← hu]
  split
  · split
    · exact dropCopy_fixed ..
    · rfl
  · rfl

theorem takeAnswer_fixed (s : State) (t : Txn) (k : Nat) : (s.takeAnswer t k).fixed = s.fixed := by
  unfold State.takeAnswer
  refine Eq.trans ?_ (answerSnoop_fixed s k t.line t.req.takes)
  dsimp only
  split
  · split
    · exact setDir_fixed ..
    · rfl
  · split
    · exact setDir_fixed ..
    · rfl
  · rfl

@[simp] theorem snoop_fixed (s : State) (k line : Nat) : (s.snoop k line).fixed = s.fixed := by
  unfold State.snoop
  split
  · split
    · rfl
    · split
      · split
        · rfl
        · exact startAll_fixed _ 3
      · exact takeAnswer_fixed ..
  · rfl

theorem homeComplete_fixed (s : State) (line : Nat) : (s.homeComplete line).fixed = s.fixed := by
  unfold State.homeComplete
  split
  · dsimp only
    split
    · exact (startAll_fixed _ 3).trans (complete_fixed ..)
    · rfl
  · rfl

@[simp] theorem drainFirst_fixed (s : State) (line : Nat) : (s.drainFirst line).fixed = s.fixed := by
  unfold State.drainFirst
  split
  · exact (homeComplete_fixed ..).trans (foldl_fixed _ _ (fun s k => snoop_fixed s k line) s)
  · rfl

theorem drainLine_fixed (s : State) (line fuel : Nat) : (s.drainLine line fuel).fixed = s.fixed := by
  induction fuel generalizing s with
  | zero => rfl
  | succ fuel ih =>
    unfold State.drainLine
    split
    · refine (ih _).trans ?_
      dsimp only
      split
      · exact drainFirst_fixed s line
      · split <;> simp
    · rfl

theorem recallLine_fixed (s : State) (ag : Agent) (line : Nat) (take back : Bool) : (s.recallLine ag line take back).fixed = s.fixed := by
  unfold State.recallLine
  split
  · dsimp only
    split
    · split <;> simp [answerSnoop_fixed]
    · simp [answerSnoop_fixed]
  · split
    · exact (setDir_fixed ..).trans (foldl_fixed _ _ (fun s k => answerSnoop_fixed s k line true) s)
    · rfl
  · rfl

theorem engineWrite_fixed (s : State) (ag : Agent) (line : Nat) (d : BitVec 1024) (m : BitVec 128) :
    (s.engineWrite ag line d m).1.fixed = s.fixed := by
  refine Eq.trans ?_ (drainLine_fixed s line (4 * s.txns.length + 4))
  unfold State.engineWrite State.cohWrite
  dsimp only
  split
  · exact logDiscard_fixed ..
  · simp [recallLine_fixed]

theorem foldl_fst_fixed {α β : Type} (l : List α) (f : State × β → α → State × β) (hf : ∀ x a, (f x a).1.fixed = x.1.fixed)
    (x : State × β) : (l.foldl f x).1.fixed = x.1.fixed := by
  induction l generalizing x with
  | nil => rfl
  | cons a l ih => exact (ih (f x a)).trans (hf x a)

theorem writeBytes_fixed (s : State) (ag : Agent) (a : Nat) (bs : List Byte) : (s.writeBytes ag a bs).1.fixed = s.fixed :=
  by
  unfold State.writeBytes
  refine foldl_fst_fixed _ _ (fun x n => ?_) _
  exact engineWrite_fixed ..

theorem signalPeg_fixed (s : State) (a : Agent) (p sc : Nat) (v : W64) : (s.signalPeg a p sc v).fixed = s.fixed :=
  (congrArg State.fixed (signalPeg_reports s a p sc v).1.1).trans rfl

theorem setAll_fixed (s : State) (g : Nat → Reg) (v : W64) : (s.setAll g v).fixed = s.fixed := rfl

theorem exportOne_fixed {s t : State} (h : s.exportOne = some t) : t.fixed = s.fixed := by
  unfold State.exportOne at h
  dsimp only at h
  split at h
  · split at h
    · cases h
    · split at h
      · cases h
      · cases h
        simp [apply_ite State.fixed, signalPeg_fixed, setAll_fixed, writeBytes_fixed]
  · cases h

theorem exportAll_fixed (n : Nat) (s : State) : (State.exportAll n s).fixed = s.fixed := by
  induction n generalizing s with
  | zero => rfl
  | succ n ih =>
    unfold State.exportAll
    split
    · next h => exact (ih _).trans (exportOne_fixed h)
    · rfl

theorem ledgerAppend_fixed (s : State) : s.ledgerAppend.fixed = s.fixed := by
  unfold State.ledgerAppend
  split
  · dsimp only
    split
    · rfl
    · refine (exportAll_fixed ..).trans ?_
      unfold State.freeTag
      split
      · dsimp only
        split
        · split <;> rfl
        · rfl
      · rfl
  · rfl

theorem appendAll_fixed (s : State) : s.appendAll.fixed = s.fixed :=
  foldl_fixed _ _ (fun s _ => ledgerAppend_fixed s.pageProgram) s

theorem buildRecord_fixed (s : State) (ty fl ow tg : Nat) (body : List (Nat × Nat × Nat)) : (s.buildRecord ty fl ow tg body).fixed = s.fixed :=
  updKiln_fixed ..

theorem signOne_fixed (s : State) (q : Nat) (rec : List Byte) : (s.signOne q rec).fixed = s.fixed :=
  (nextFree_fixed _).trans (updKiln_fixed ..)

theorem signBatch_fixed (s : State) : s.signBatch.fixed = s.fixed := by
  unfold State.signBatch
  dsimp only
  split
  · exact (signOne_fixed ..).trans ((updKiln_fixed ..).trans (buildRecord_fixed ..))
  · exact (updKiln_fixed ..).trans (buildRecord_fixed ..)

theorem signDone_fixed (s : State) : s.signDone.fixed = s.fixed := by
  unfold State.signDone
  split
  · rfl
  · split
    · rfl
    · exact signBatch_fixed s
  · exact signBatch_fixed s

theorem drainLedger_fixed (n : Nat) (s : State) : (State.drainLedger n s).fixed = s.fixed := by
  induction n generalizing s with
  | zero => rfl
  | succ n ih =>
    unfold State.drainLedger
    split
    · rfl
    · exact (ih _).trans (signDone_fixed s)

/-- The power-loss record is the ledger's alone. -/
theorem powerLossRecord_fixed (s : State) : s.powerLossRecord.fixed = s.fixed := by
  unfold State.powerLossRecord
  extract_lets u k energy q v w y
  have hu : u.fixed = s.fixed := (appendAll_fixed _).trans (drainLedger_fixed ..)
  have hw : w.fixed = u.fixed := by
    dsimp only [w]
    split
    · exact (signOne_fixed ..).trans (buildRecord_fixed ..)
    · exact buildRecord_fixed ..
  rw [updKiln_fixed]
  dsimp only [y]
  rw [State.pageProgram, updKiln_fixed, appendAll_fixed, hw, hu]

theorem powerLossRecord_power (s : State) : s.powerLossRecord.power = s.power := power_of_fixed (powerLossRecord_fixed s)

/-! ### The package after a reset, and the reports that follow (R447, R505, R522) -/

/-- No block, peg, hart, channel, cached line or byte of memory is left, and no epoch. -/
def PackageReset (t : State) : Prop :=
  t.fret = 0 ∧ t.epochSet = false ∧ t.blocks = [] ∧ t.pegs = [] ∧ t.mem = [] ∧ t.harts = [] ∧ t.coresOn = false ∧ t.dma = [] ∧ t.caches = []

/-- `t` is `s` but for Uluell's state and the wires: no peg was signalled. -/
def UluellOnly (s t : State) : Prop := t = { s with mgmt := t.mgmt, outbox := t.outbox }

theorem UluellOnly.trans {s t u : State} (h : UluellOnly s t) (h' : UluellOnly t u) : UluellOnly s u := by
  rw [UluellOnly, h', h]

theorem UluellOnly.reset {s t : State} (h : UluellOnly s t) (hs : PackageReset s) : PackageReset t := by
  rw [h]
  exact hs

theorem resetPackage_reset (s : State) : PackageReset s.resetPackage := ⟨rfl, rfl, rfl, rfl, rfl, rfl, rfl, rfl, rfl⟩

theorem railsOff_reset {s : State} (h : PackageReset s) : PackageReset s.railsOff := h

theorem railsOff_power (s : State) : s.railsOff.power = s.power := rfl

/-- What the power manager keeps over a reset of the package. -/
theorem resetPackage_power (s : State) : s.resetPackage.power = { input := s.power.input, inputLost := s.power.inputLost
                                                                  steady := s.power.steady, fuseOpen := s.power.fuseOpen
                                                                  reversedSeen := s.power.reversedSeen } := rfl

/-- The pegs that the CORE and HOST slots name are not enabled. -/
def NoMailboxPegs (s : State) : Prop := bit (s.reg (MGMT_MBX_PEG 0)) 18 = false ∧ bit (s.reg HOST_MBX_PEG) 18 = false

theorem resetPackage_noMailboxPegs (s : State) : NoMailboxPegs s.resetPackage := by
  have hreg (g : Reg) (hg : ∀ r, r < 4 → g ≠ KILN_ACK_SEQ r) (hz : State.regReset g = 0) : s.resetPackage.reg g = 0 := by
    unfold State.resetPackage State.setAll
    simp only [List.range, List.range.loop, List.foldl]
    rw [State.reg_setReg_ne _ _ (hg 3 (by decide)), State.reg_setReg_ne _ _ (hg 2 (by decide)),
      State.reg_setReg_ne _ _ (hg 1 (by decide)), State.reg_setReg_ne _ _ (hg 0 (by decide))]
    exact hz
  constructor
  · rw [hreg _ (by decide) (by decide)]
    rfl
  · rw [hreg _ (by decide) (by decide)]
    rfl

theorem slotEvent_noPegs {s : State} (sl : Slot) (e : Event) (h : NoMailboxPegs s) :
    UluellOnly s (s.slotEvent sl e) ∧ NoMailboxPegs (s.slotEvent sl e) := by
  obtain ⟨hcore, hhost⟩ := h
  unfold State.slotEvent
  split
  · exact ⟨rfl, hcore, hhost⟩
  · dsimp only
    generalize (if 64 ≤ (s.mailbox sl).events.length then _ else _ : Mailbox) = x
    cases sl with
    | i3c =>
      unfold State.signalSlot
      dsimp only
      split <;> exact ⟨rfl, hcore, hhost⟩
    | core =>
      have hoff : bit ((s.setMailbox .core x).reg (MGMT_MBX_PEG 0)) 18 = false := hcore
      simp only [State.signalSlot, hoff, Bool.and_false, Bool.false_eq_true, if_false]
      exact ⟨rfl, hcore, hhost⟩
    | host =>
      have hoff : bit ((s.setMailbox .host x).reg HOST_MBX_PEG) 18 = false := hhost
      simp only [State.signalSlot, hoff, Bool.and_false, Bool.false_and, Bool.false_eq_true, if_false]
      exact ⟨rfl, hcore, hhost⟩

theorem event_noPegs {s : State} (code : Nat) (data : W64) (h : NoMailboxPegs s) : UluellOnly s (s.event code data) := by
  unfold State.event
  split
  · exact rfl
  · obtain ⟨h1, n1⟩ := slotEvent_noPegs .i3c { code := code, fret := s.fret % 2 ^ 32, data := data } h
    obtain ⟨h2, n2⟩ := slotEvent_noPegs .host { code := code, fret := s.fret % 2 ^ 32, data := data } n1
    exact (h1.trans h2).trans (slotEvent_noPegs .core _ n2).1

theorem enterState_quiet (s : State) {st : ModState} (h : ∀ m : Mgmt, m.state = st → ({ s with mgmt := m } : State).powered = false) :
    UluellOnly s (s.enterState st) := by
  unfold State.enterState
  split
  · exact rfl
  · exact event_quiet (s.updMgmt fun m => { m with state := st }) _ _ (h _ rfl)

theorem enterState_power (s : State) (st : ModState) : (s.enterState st).power = s.power := by
  obtain ⟨-, u, -, hu, ht⟩ := enterState_ok s st
  have hs : u.power = s.power := by rw [hu]
  exact (congrArg State.power ht.1).trans hs

theorem enterState_rails (s : State) (st : ModState) : (s.enterState st).rails = s.rails := by
  obtain ⟨-, u, -, hu, ht⟩ := enterState_ok s st
  have hs : u.rails = s.rails := by rw [hu]
  exact (congrArg State.rails ht.1).trans hs

/-! ### Input conditions (R455, R472) -/

section Input
variable {s : State}

theorem inputEvent_reports (s : State) (f : W64 → W64) :
    SameButReports { s with power := { s.power with input := f s.power.input } } (s.inputEvent f) := event_reports ..

theorem inputEvent_power (s : State) (f : W64 → W64) : (s.inputEvent f).power = { s.power with input := f s.power.input } :=
  (congrArg State.power (inputEvent_reports s f).1).trans rfl

theorem inputGone_off (h : s.railsOn = false) : s.inputGone = { s with power := { s.power with inputLost := true, steady := false } } :=
  if_neg (by
    rw [show (s.updPower fun p => { p with inputLost := true, steady := false }).railsOn = s.railsOn from rfl, h]
    decide)

/-- With the load rails on, a lost input resets the package and leads to AUX. -/
theorem inputGone_resets (h : s.railsOn = true) : s.inputGone =
    (({ s with power := { s.power with inputLost := true, steady := false } } : State).powerLossRecord.resetPackage.railsOff).enterState
      .aux := if_pos h

theorem aux_unpowered (u : State) (m : Mgmt) (hm : m.state = .aux) : ({ u with mgmt := m } : State).powered = false := by
  simp [State.powered, hm]

theorem halt_unpowered (u : State) (m : Mgmt) (hm : m.state = .halt) : ({ u with mgmt := m } : State).powered = false := by
  simp [State.powered, hm]

theorem inputGone_reset (h : s.railsOn = true) : PackageReset s.inputGone := by
  rw [inputGone_resets h]
  exact (enterState_quiet _ (aux_unpowered _)).reset (railsOff_reset (resetPackage_reset _))

theorem inputGone_power (h : s.railsOn = true) : s.inputGone.power =
    { input := s.power.input, inputLost := true, steady := false, fuseOpen := s.power.fuseOpen, reversedSeen := s.power.reversedSeen } := by
  rw [inputGone_resets h, enterState_power, railsOff_power, resetPackage_power, powerLossRecord_power]

theorem inputGone_reversed (s : State) : s.inputGone.power.reversedSeen = s.power.reversedSeen := by
  cases h : s.railsOn
  · rw [inputGone_off h]
  · rw [inputGone_power h]

/-- What each of the three input faults does with the load rails on, by the power state that it leaves to the loss. -/
theorem inputGone_enters (h : s.railsOn = true) : s.inputGone.mgmt.state = .aux ∧ PackageReset s.inputGone ∧
    (∀ r i, (s.inputGone.rail r i).state ≠ .on) ∧ s.inputGone.power =
      { input := s.power.input, inputLost := true, steady := false, fuseOpen := s.power.fuseOpen, reversedSeen := s.power.reversedSeen } :=
  have ⟨hstate, _, hoff⟩ := inputGone_on s h
  ⟨hstate, inputGone_reset h, hoff, inputGone_power h⟩

/-- What the loss of the input leaves of the power manager's state. -/
def Power.lost (p : Power) (input : W64) (fuse : Bool) : Power :=
  { input := input, inputLost := true, steady := false, fuseOpen := fuse, reversedSeen := p.reversedSeen }

/-- What is true once the rails' loss has led to AUX. -/
def InputLostTo (p : Power) (t : State) : Prop :=
  t.mgmt.state = .aux ∧ PackageReset t ∧ (∀ r i, (t.rail r i).state ≠ .on) ∧ t.power = p

theorem inputEvent_lost (v : State) (f : W64 → W64) (h : v.railsOn = true) :
    InputLostTo (v.power.lost (f v.power.input) v.power.fuseOpen) (v.inputEvent f).inputGone := by
  obtain ⟨hstate, hreset, hoff, hpower⟩ := inputGone_enters ((inputEvent_railsOn v f).trans h)
  rw [inputEvent_power] at hpower
  exact ⟨hstate, hreset, hoff, hpower⟩

/-- A current above 30 A, of no stated value. -/
def State.overcurrentMa (s : State) : Nat := 30001 + Config.overcurrent s.freeCount

/-- The fuse opens. -/
def State.fuseOpened (s : State) : State := { s with power := { s.power with fuseOpen := true } }

/-- The fuse has opened and the condition is recorded. -/
def State.fuseBlown (s : State) : State := (s.fuseOpened.inputEvent fun v => setBits v 31 16 s.overcurrentMa).nextFree

theorem overcurrentMa_range (s : State) : 30000 < s.overcurrentMa ∧ s.overcurrentMa < 2 ^ 16 := by
  have := (Config.overcurrent s.freeCount).isLt
  unfold State.overcurrentMa
  omega

theorem inputOvercurrent_eq (s : State) : s.inputOvercurrent = s.fuseBlown.inputGone := rfl

theorem nextFree_railsOn (s : State) : s.nextFree.railsOn = s.railsOn := rfl

theorem fuseOpened_railsOn (s : State) : s.fuseOpened.railsOn = s.railsOn := rfl

theorem fuseBlown_railsOn (s : State) : s.fuseBlown.railsOn = s.railsOn := by
  rw [State.fuseBlown, nextFree_railsOn, inputEvent_railsOn, fuseOpened_railsOn]

theorem fuseBlown_power (s : State) :
    s.fuseBlown.power = { s.power with input := setBits s.power.input 31 16 s.overcurrentMa, fuseOpen := true } := by
  rw [State.fuseBlown, State.nextFree_power, inputEvent_power]
  rfl

theorem inputOvercurrent_lost (h : s.railsOn = true) :
    InputLostTo (s.power.lost (setBits s.power.input 31 16 s.overcurrentMa) true) s.inputOvercurrent := by
  obtain ⟨hstate, hreset, hoff, hpower⟩ := inputGone_enters ((fuseBlown_railsOn s).trans h)
  rw [fuseBlown_power] at hpower
  exact ⟨hstate, hreset, hoff, hpower⟩

theorem SameButReports.setPower {u v : State} (h : SameButReports u v) (p : Power) :
    SameButReports { u with power := p } { v with power := p } := by
  obtain ⟨hstate, hmgmt⟩ := h
  refine ⟨?_, hmgmt⟩
  rw [hstate]

theorem SameButReports.nextFree {u v : State} (h : SameButReports u v) : SameButReports u.nextFree v.nextFree := by
  obtain ⟨hstate, hmgmt⟩ := h
  refine ⟨?_, hmgmt⟩
  rw [hstate]
  rfl

theorem inputReversed_eq (s : State) :
    s.inputReversed = (({ s with power := { s.power with reversedSeen := true } } : State).inputGone.enterState .off).resetPackage.railsOff := rfl

/-- Every rail of the same record. -/
theorem get_allRails (x : Rail) {r i : Nat} (hr : r < 4) (hi : i < 9) : Map.get (State.allRails.map fun k => (k, x)) {} (r, i) = x := by
  have hfind (l : List (Nat × Nat)) (h : (r, i) ∈ l) : Map.find (l.map fun k => (k, x)) (r, i) = some x := by
    induction l with
    | nil => cases h
    | cons k l ih =>
      by_cases hk : k = (r, i)
      · simp [Map.find, hk]
      · simpa [Map.find, hk] using ih ((List.mem_cons.1 h).resolve_left (Ne.symm hk))
  have hmem : (r, i) ∈ State.allRails := by
    simp [State.allRails, hr, hi]
  simp [Map.get, hfind _ hmem]

/-- The package after a thermal trip, before its reports. -/
def State.tripped (s : State) (f : Nat) : State :=
  { s.resetPackage with rails := State.allRails.map fun i => (i, { state := .fault, cause := 5, fret := f }) }

theorem tripped_reset (s : State) (f : Nat) : PackageReset (s.tripped f) := resetPackage_reset s

theorem tripped_noMailboxPegs (s : State) (f : Nat) : NoMailboxPegs (s.tripped f) := resetPackage_noMailboxPegs s

theorem thermalTrip_halts (h : s.railsOn = true) : s.thermalTrip.mgmt.state = .halt ∧ PackageReset s.thermalTrip ∧
    s.thermalTrip.rails = State.allRails.map fun i => (i, { state := .fault, cause := 5, fret := s.fret }) := by
  obtain ⟨d, hd⟩ : ∃ d, s.thermalTrip = ((s.powerLossRecord.tripped s.fret).event 9 d).enterState .halt := thermalTrip_on s h
  have hevent : UluellOnly (s.powerLossRecord.tripped s.fret) ((s.powerLossRecord.tripped s.fret).event 9 d) :=
    event_noPegs 9 d (tripped_noMailboxPegs ..)
  rw [hd]
  refine ⟨(enterState_ok _ _).1, (enterState_quiet _ (halt_unpowered _)).reset (hevent.reset (tripped_reset ..)), ?_⟩
  exact (enterState_rails ..).trans ((congrArg State.rails hevent).trans rfl)

theorem thermalTrip_rail (h : s.railsOn = true) {r i : Nat} (hr : r < 4) (hi : i < 9) :
    s.thermalTrip.rail r i = { state := .fault, cause := 5, fret := s.fret } := by
  obtain ⟨-, -, hrails⟩ := thermalTrip_halts h
  unfold State.rail
  rw [hrails]
  exact get_allRails _ hr hi

/-- With the rails off, an input fault is recorded and no more. -/
theorem inputEvent_records (v : State) (f : W64 → W64) (h : v.railsOn = false) : SameButReports
    { v with power := { v.power with input := f v.power.input, inputLost := true, steady := false } } (v.inputEvent f).inputGone := by
  rw [inputGone_off ((inputEvent_railsOn v f).trans h), inputEvent_power]
  exact (inputEvent_reports v f).setPower _

theorem inputOvercurrent_records (h : s.railsOn = false) : SameButReports
    { s with
      freeCount := s.freeCount + 1
      power := { s.power with input := setBits s.power.input 31 16 s.overcurrentMa, fuseOpen := true, inputLost := true, steady := false } }
    s.inputOvercurrent := by
  rw [inputOvercurrent_eq, inputGone_off ((fuseBlown_railsOn s).trans h), fuseBlown_power]
  exact (inputEvent_reports s.fuseOpened fun v => setBits v 31 16 s.overcurrentMa).nextFree.setPower _

end Input

/-- Settles O50: each event records its condition, and the loss of the input with the rails on is one operation. -/
theorem lossOfInputPower : Obligations.LossOfInputPower := by
  unfold Obligations.LossOfInputPower
  intro reset off
  refine ⟨fun s volts hw => ?low, fun s hon => ?on, fun s => ?reversed, fun s hoff => ?off⟩
  case low =>
    let u : State := { s with power := { s.power with input := setBits s.power.input 15 0 volts, steady := false } }
    exact ⟨_, exec_inputLow volts s hw, event_reports u 4 u.power.input, fun h => event_i3c u 4 u.power.input h⟩
  case on =>
    obtain ⟨hmin, hmax⟩ := overcurrentMa_range s
    obtain ⟨hstate, hreset, hoff, hpower⟩ := inputOvercurrent_lost hon
    obtain ⟨hhalt, hreset', -⟩ := thermalTrip_halts hon
    refine ⟨⟨_, exec_inputLoss s rfl, inputEvent_lost s (fun v => v ||| fld 1 48) hon⟩,
      ⟨_, exec_inputOvervoltage s rfl, inputEvent_lost s (fun v => v ||| fld 1 49) hon⟩,
      ⟨_, _, exec_inputOvercurrent s rfl, hstate, hreset, hoff, hmin, hmax, hpower⟩,
      _, exec_thermalTrip s rfl, hhalt, hreset', fun r i hr hi => ?_⟩
    rw [thermalTrip_rail hon hr hi]
    exact ⟨rfl, rfl, rfl⟩
  case reversed =>
    refine ⟨_, exec_inputReversed s rfl, ?_, railsOff_reset (resetPackage_reset _), railsOff_off _, ?_⟩
    · rw [inputReversed_eq]
      exact (enterState_ok _ .off).1
    · rw [inputReversed_eq, railsOff_power, resetPackage_power, enterState_power, inputGone_reversed]
  case off =>
    obtain ⟨hmin, hmax⟩ := overcurrentMa_range s
    exact ⟨⟨_, exec_inputLoss s rfl, inputEvent_records s _ hoff⟩, ⟨_, exec_inputOvervoltage s rfl, inputEvent_records s _ hoff⟩,
      ⟨_, _, exec_inputOvercurrent s rfl, hmin, hmax, inputOvercurrent_records hoff⟩,
      (exec_thermalTrip s rfl).trans (congrArg _ (if_pos (by rw [hoff]; rfl)))⟩

end Sys2Proof.Machine

/-!
PROOFS. Budgets, grants, fast and thermal limits (R463 to R475): O51.
-/
namespace Sys2Proof.Machine

/-! ### The budget exchange (R466 to R468) -/

section Budget
variable {s : State}

theorem budgetMessage_lost {r p f d : Nat} (h : s.regionLive r = false) : s.budgetMessage r p f d = s :=
  if_pos (by rw [h]; rfl)

theorem budgetMessage_live {r p f d : Nat} (h : s.regionLive r = true) : s.budgetMessage r p f d = { s with power := { s.power with
    budget := s.power.budget.set r (p, f, d)
    arrived := if s.power.arrived.contains r then s.power.arrived else r :: s.power.arrived } } :=
  if_neg (by rw [h]; decide)

/-- `t` is `s` but for its voltage and frequency domains. -/
def DomainsOnly (s t : State) : Prop := t = { s with domains := t.domains }

theorem DomainsOnly.trans {s t u : State} (h : DomainsOnly s t) (h' : DomainsOnly t u) : DomainsOnly s u := by
  rw [DomainsOnly, h', h]

theorem updDomain_domainsOnly (s : State) (r d : Nat) (f : Domain → Domain) : DomainsOnly s (s.updDomain r d f) := rfl

theorem foldl_domainsOnly {α : Type} (l : List α) (f : State → α → State) (hf : ∀ s x, DomainsOnly s (f s x)) (s : State) :
    DomainsOnly s (l.foldl f s) := by
  induction l generalizing s with
  | nil => rfl
  | cons x l ih => exact (hf s x).trans (ih (f s x))

/-- The steps of a grant reach the domains alone. -/
theorem budgetGrant_eq (s : State) (q : Predictions) : ∃ (ds : Map (Nat × Nat) Domain) (coming misses' : List Nat) (misses : Map Nat Nat) (b : Bool),
    s.budgetGrant q = { s with
      domains := ds
      power := { s.power with
        grants := (s.grants q).map fun x => (x.1, x.2.2.2)
        floorBroken := s.power.floorBroken || decide (s.available.1 < listSum ((s.grants q).map (·.2.1)))
        coming := coming, misses := misses, missing := misses', arrived := [], singleNext := b } } := by
  unfold State.budgetGrant
  dsimp only
  generalize hu : List.foldl _ s _ = u
  have h : DomainsOnly s u := by
    rw [← hu]
    exact foldl_domainsOnly _ _ (fun v x => foldl_domainsOnly _ _ (fun _ _ => updDomain_domainsOnly ..) v) s
  rw [h]
  exact ⟨_, _, _, _, _, rfl⟩

/-- The grants of R466, region by region. -/
theorem grants_eq (s : State) (q : Predictions) : let fd := s.liveRegions.map fun r => (r, s.demand q r)
    let sf := listSum (fd.map fun x => x.2.1)
    let se := listSum (fd.map fun x => x.2.2 - x.2.1)
    (s.grants q).map (fun x => (x.1, x.2.2.2)) = fd.map (fun x => (x.1, State.grantOf s.available.1 sf se x.2.1 x.2.2)) ∧
      (s.grants q).map (·.2.1) = fd.map fun x => x.2.1 := by
  intro fd sf se
  have h : s.grants q = fd.map fun x => (x.1, x.2.1, x.2.2, State.grantOf s.available.1 sf se x.2.1 x.2.2) := rfl
  constructor
  · rw [h, List.map_map]
    rfl
  · rw [h, List.map_map]
    rfl

end Budget

/-! ### Fast and thermal limits (R469 to R471, R473 to R475) -/

section Limits
variable {s : State}

theorem droopDetect_eq (s : State) (h cycles : Nat) : s.droopDetect h cycles = { s with
    regs := s.regs.set (PWR_DROOP_CYCLES (hartRegion h)) (s.reg (PWR_DROOP_CYCLES (hartRegion h)) + w64 cycles)
    power := { s.power with
      drooping := if s.power.drooping.contains h then s.power.drooping else h :: s.power.drooping
      reasons := if cycles = 0 then s.power.reasons else if s.power.reasons.contains 3 then s.power.reasons else 3 :: s.power.reasons } } := by
  unfold State.droopDetect
  dsimp only
  split <;> rfl

/-- The die is at its threshold, or is throttled and has not fallen 3 degrees below it. -/
def State.sampleHot (s : State) (r die celsius : Nat) : Bool :=
  decide (s.throttleC ≤ celsius) || ((s.domain r die).throttled && decide (s.throttleC ≤ celsius + 2))

/-- The die's sensor as a thermal sample leaves it. -/
def State.sampled (s : State) (r die celsius : Nat) : State :=
  s.setDomain r die { s.domain r die with celsius := celsius, throttled := s.sampleHot r die celsius }

theorem thermalSample_eq (s : State) (r die celsius : Nat) : s.thermalSample r die celsius =
    if s.sampleHot r die celsius && !(s.domain r die).throttled then (s.sampled r die celsius).event 9 (w64 r)
    else s.sampled r die celsius := rfl

theorem vfStepRise_none {r d : Nat} (h : (s.domain r d).rising = none) : s.vfStepRise r d = s := by
  unfold State.vfStepRise
  rw [h]

theorem vfStepRise_some {r d n : Nat} (h : (s.domain r d).rising = some n) :
    s.vfStepRise r d = s.setDomain r d { s.domain r d with step := n, rising := none } := by
  unfold State.vfStepRise
  rw [h]
  rfl

end Limits

/-- Settles O51: one equation of the power manager for each command. -/
theorem powerLimitsAndSteps : Obligations.PowerLimitsAndSteps := by
  unfold Obligations.PowerLimitsAndSteps
  intro adding
  refine ⟨fun s r p f d hp hw => ?message, fun s q hp => ?grant, fun s r i hp hw => ?current, fun s h cycles hp hw => ?droop,
    fun s h hp hw => exec_droopRecover h s hw hp, fun s r die celsius hp hw => ?thermal, fun s hp => ?coolant, fun s r d hp hw => ?rise⟩
  case message =>
    have hexec := exec_budgetMessage r p f d s hw hp
    cases hlive : s.regionLive r
    · rw [budgetMessage_lost hlive] at hexec
      exact ⟨s, hexec, rfl, fun h => absurd h (by decide), fun _ => rfl⟩
    · rw [budgetMessage_live hlive] at hexec
      refine ⟨_, hexec, rfl, fun _ => ⟨Map.get_set_self .., ?_, fun q hq => Map.get_set_ne _ _ _ hq⟩, fun h => absurd h (by decide)⟩
      dsimp only
      split
      · next h => exact List.contains_iff_mem.1 h
      · exact List.mem_cons_self
  case grant =>
    intro fd sf se a
    obtain ⟨ds, coming, missing, misses, b, heq⟩ := budgetGrant_eq s q
    obtain ⟨hgrants, hfloors⟩ := grants_eq s q
    have hexec := exec_budgetGrant q s rfl hp
    rw [heq] at hexec
    refine ⟨_, hexec, rfl, rfl, hgrants, ?_⟩
    dsimp only
    rw [hfloors, Bool.or_eq_true, decide_eq_true_eq]
  case current =>
    refine (exec_railOvercurrent r i s hw hp).trans (congrArg _ ?_)
    unfold State.railOvercurrent
    rfl
  case droop =>
    have hexec := exec_droopDetect h cycles s hw hp
    rw [droopDetect_eq] at hexec
    exact ⟨_, hexec, rfl, rfl, Map.get_set_self .., fun g hg => State.reg_setReg_ne s _ hg⟩
  case thermal =>
    intro limit hot
    have hexec := (exec_thermalSample r die celsius s hw hp).trans (congrArg _ (thermalSample_eq s r die celsius))
    refine ⟨_, hexec, ?_, fun hh hx => ?_⟩
    · split
      · exact event_reports ..
      · exact .refl _
    · have hstart : (s.sampleHot r die celsius && !(s.domain r die).throttled) = true := Bool.and_eq_true_iff.2 ⟨hh, by rw [hx]; rfl⟩
      rw [if_pos hstart]
      exact event_i3c (s.sampled r die celsius) 9 _ (powered_ne_off s hp)
  case coolant =>
    exact ⟨_, exec_coolantAlarm s rfl hp, event_reports .., event_i3c _ _ _ (powered_ne_off s hp)⟩
  case rise =>
    have hexec := exec_vfStepRise r d s hw hp
    exact ⟨fun n h => hexec.trans (congrArg _ (vfStepRise_some h)), fun h => hexec.trans (congrArg _ (vfStepRise_none h))⟩

end Sys2Proof.Machine

/-!
PROOFS. Silent errors and degraded operation (chapter 15): O52.
-/
namespace Sys2Proof.Machine

/-! ### Rail faults (R458) -/

section Rails
variable {s : State} {r i cause : Nat}

theorem railFault_off (h : (s.rail r i).state ≠ .on) : s.railFault r i cause = s := if_pos h

/-- The rail in FAULT, its domain's step change abandoned. -/
def State.railFailed (s : State) (r i cause : Nat) : State :=
  let off := s.setRail r i { state := .fault, cause := cause, fret := s.fret }
  if i < 4 then off.setDomain r i { s.domain r i with next := none, rising := none } else off

theorem railFault_on (h : (s.rail r i).state = .on) : s.railFault r i cause =
    ((s.railFailed r i cause).railEffect r i).event 5 (fld r 0 ||| fld i 2 ||| fld cause 6) :=
  if_neg (not_not.2 h)

theorem railFailed_dieLive (s : State) (r i cause r' d : Nat) : (s.railFailed r i cause).dieLive r' d = s.dieLive r' d := by
  unfold State.railFailed
  dsimp only
  split <;> rfl

theorem railFailed_regionLive (s : State) (r i cause r' : Nat) : (s.railFailed r i cause).regionLive r' = s.regionLive r' := by
  unfold State.railFailed
  dsimp only
  split <;> rfl

/-- The rail of a die that is lost already takes nothing more. -/
theorem railEffect_lostDie {u : State} (hi : i < 3) (h : u.dieLive r i = false) : u.railEffect r i = u := by
  have hgone : u.dieGone r i 2 = u := if_pos (by rw [h]; rfl)
  match i with
  | 0 | 1 | 2 => exact hgone
  | i + 3 => omega

theorem railEffect_lostRegion {u : State} (h : u.regionLive r = false) : u.railEffect r 3 = u := if_pos (by rw [h]; rfl)

end Rails

/-! ### Cross-checks (R480, R482) -/

section CrossChecks
variable {s : State} {a b da db : Nat} {third : Option (Nat × Nat)}

/-- The digests convict blocks, and each of them disagrees. -/
def State.convict (u : State) (a b da db c dc seed : Nat) : State :=
  ((if da = dc then [b] else if db = dc then [a] else [a, b]) ++ (if da ≠ dc ∧ db ≠ dc then [c] else [])).foldl
    (fun (v : State) x => v.disagree x seed) u

/-- The third block may judge a pair of its region. -/
def State.judges (u : State) (a c : Nat) : Prop := u.eligible c = true ∧ c / 128 = a / 128

theorem judges_iff {u : State} {c : Nat} : (u.eligible c && decide (c / 128 = a / 128)) = true ↔ u.judges a c := by
  rw [Bool.and_eq_true, decide_eq_true_eq]
  rfl

section Open
variable {t : Third} (ht : s.thirds.find? (fun t => t.a == a && t.b == b) = some t)
include ht

theorem xchkDone_openJudged {c dc : Nat} (h : s.judges a c) : s.xchkDone a b da db (some (c, dc)) =
    ({ s with thirds := s.thirds.erase t } : State).convict a b t.da t.db c dc t.seed := by
  unfold State.xchkDone
  dsimp only
  rw [ht]
  exact if_pos (judges_iff.2 h)

theorem xchkDone_openWaits (h : ∀ c dc, third = some (c, dc) → ¬ s.judges a c) : s.xchkDone a b da db third = s := by
  unfold State.xchkDone
  dsimp only
  rw [ht]
  cases third with
  | none => rfl
  | some x => exact if_neg (mt judges_iff.1 (h x.1 x.2 rfl))

theorem xchkTimeout_early (h : s.fret < t.fret + 1024) : s.xchkTimeout a b = s := by
  unfold State.xchkTimeout
  rw [ht]
  exact if_pos h

theorem xchkTimeout_due (h : t.fret + 1024 ≤ s.fret) : s.xchkTimeout a b =
    (({ s with thirds := s.thirds.erase t } : State).disagree a t.seed).disagree b t.seed := by
  unfold State.xchkTimeout
  rw [ht]
  exact if_neg (Nat.not_lt.2 h)

end Open

section Pair
variable (hnone : s.thirds.find? (fun t => t.a == a && t.b == b) = none)
include hnone

theorem xchkTimeout_none : s.xchkTimeout a b = s := by
  unfold State.xchkTimeout
  rw [hnone]

theorem xchkDone_other (h : ∀ seed, (s.block a).xchk ≠ some (b, seed)) : s.xchkDone a b da db third = s := by
  unfold State.xchkDone
  dsimp only
  rw [hnone]
  dsimp only
  split
  · next p seed hx => exact if_pos fun hp : p = b => h seed (hp ▸ hx)
  · rfl

/-- A pair's run, counted. -/
def State.xchkCounted (s : State) (a b : Nat) : State :=
  ((s.updBlock a fun x => { x with xchk := none }).updBlock b fun x => { x with xchk := none }).bump (MGMT_XCHK_RUNS (a / 128)) 1

/-- A pair's run whose digests differ, counted. -/
def State.xchkMismatched (s : State) (a b : Nat) : State := (s.xchkCounted a b).bump (MGMT_XCHK_MISMATCH (a / 128)) 1

theorem xchkDone_pair {seed : Nat} (h : (s.block a).xchk = some (b, seed)) : s.xchkDone a b da db third =
    if da = db then s.xchkCounted a b
    else match third with
      | some (c, dc) =>
        if (s.xchkMismatched a b).eligible c && decide (c / 128 = a / 128) then (s.xchkMismatched a b).convict a b da db c dc seed
        else { s.xchkMismatched a b with thirds := s.thirds ++ [⟨a, b, seed, da, db, s.fret⟩] }
      | none => { s.xchkMismatched a b with thirds := s.thirds ++ [⟨a, b, seed, da, db, s.fret⟩] } := by
  unfold State.xchkDone
  dsimp only
  rw [hnone, h]
  exact if_neg (not_not.2 rfl)

theorem xchkDone_agree {seed : Nat} (h : (s.block a).xchk = some (b, seed)) (hd : da = db) :
    s.xchkDone a b da db third = s.xchkCounted a b := (xchkDone_pair hnone h).trans (if_pos hd)

theorem xchkDone_judged {seed c dc : Nat} (h : (s.block a).xchk = some (b, seed)) (hd : da ≠ db) (hj : (s.xchkMismatched a b).judges a c) :
    s.xchkDone a b da db (some (c, dc)) = (s.xchkMismatched a b).convict a b da db c dc seed :=
  (xchkDone_pair hnone h).trans ((if_neg hd).trans (if_pos (judges_iff.2 hj)))

theorem xchkDone_waits {seed : Nat} (h : (s.block a).xchk = some (b, seed)) (hd : da ≠ db)
    (hj : ∀ c dc, third = some (c, dc) → ¬ (s.xchkMismatched a b).judges a c) : s.xchkDone a b da db third =
      { s.xchkMismatched a b with thirds := s.thirds ++ [⟨a, b, seed, da, db, s.fret⟩] } := by
  refine (xchkDone_pair hnone h).trans ((if_neg hd).trans ?_)
  cases third with
  | none => rfl
  | some x => exact if_neg (mt judges_iff.1 (hj x.1 x.2 rfl))

end Pair

end CrossChecks

/-! ### Tuning checks and mutes (R485 to R488) -/

section Mutes
variable {s : State} {b : Nat}

theorem tuningEnd_none (h : (s.block b).tuning = []) (p : Bool) : s.tuningEnd b p = s := by
  unfold State.tuningEnd
  rw [h]

theorem tuningEnd_failed {t : Tuning} {rest : List Tuning} (h : (s.block b).tuning = t :: rest) : s.tuningEnd b false =
    (((s.setBlock b { s.block b with tuning := rest }).bump (MGMT_TUNE_FAIL (b / 128)) 1).tuningRecord b t 2).muteBlock b 1 := by
  unfold State.tuningEnd
  rw [h]
  rfl

/-- A block whose oldest tuning check has passed: the check counts and scores it. -/
def State.tunePassed (s : State) (b : Nat) (rest : List Tuning) : State :=
  (s.bump (MGMT_TUNE_PASS (b / 128)) 1).setBlock b { s.block b with
    tuning := rest, scores := ((s.block b).scores.filter fun f => decide (s.fret < f + 2 ^ 20)) ++ [s.fret] }

theorem setBlock_passed (s : State) (b : Nat) (rest : List Tuning) :
    ((s.updBlock b fun x => { x with tuning := rest }).bump (MGMT_TUNE_PASS (b / 128)) 1).updBlock b (fun x =>
      { x with scores := (x.scores.filter fun f => decide (s.fret < f + 2 ^ 20)) ++ [s.fret] }) = s.tunePassed b rest := by
  have hblock : ((s.updBlock b fun x => { x with tuning := rest }).bump (MGMT_TUNE_PASS (b / 128)) 1).block b =
      { s.block b with tuning := rest } := Map.get_set_self ..
  rw [State.updBlock, hblock]
  exact congrArg (fun m => ({ s.bump (MGMT_TUNE_PASS (b / 128)) 1 with blocks := m } : State)) (Map.set_set ..)

/-- A block with a suspect score of 3 is muted (R486). -/
def State.muteAtScore (u : State) (b : Nat) : State := if 3 ≤ u.score b then u.muteBlock b 1 else u

theorem tuningEnd_passed {t : Tuning} {rest : List Tuning} (h : (s.block b).tuning = t :: rest) :
    s.tuningEnd b true = ((s.tunePassed b rest).tuningRecord b t 1).muteAtScore b := by
  unfold State.tuningEnd
  rw [h]
  exact congrArg (fun v : State => (v.tuningRecord b t 1).muteAtScore b) (setBlock_passed s b rest)

theorem blkMuteWrite_eq (ag : Agent) (r : Nat) (hb : b < 512) : s.blkMuteWrite ag r (fld b 0) =
    if (s.block b).state = .halted ∨ (s.block b).state = .running then s.muteBlock b 3
    else s.log r stSTATE 1 ag.code (MGMT_BLK_MUTE r % 0x100000000) 0 := by
  obtain ⟨hbits, hbit⟩ := fld_bits b hb
  unfold State.blkMuteWrite
  dsimp only
  rw [hbits, hbit]
  exact if_neg (by decide)

theorem mayRelease_iff : ((s.block b).state = .muted ∧ ((s.block b).muteCause = 3 ∨ ((s.block b).muteCause = 1 ∧ (!s.muteList.contains b) = true))) ↔
    (s.block b).state = .muted ∧ ((s.block b).muteCause = 3 ∨ ((s.block b).muteCause = 1 ∧ b ∉ s.muteList)) := by
  rw [Bool.not_eq_true', ← Bool.not_eq_true, List.contains_iff_mem]

end Mutes

/-! ### Fleet packs (R491, R492) -/

section Packs
variable {s : State} {cls unit : Nat}

/-- A pack run begins. -/
def State.packStarted (s : State) (cls unit : Nat) : State :=
  { s with packs := { running := s.packs.running ++ [(cls, unit)], last := s.packs.last.set (cls, unit) s.fret } }

/-- A pack run is due, its unit may run it, and does not yet. -/
def State.packStarts (s : State) (cls unit : Nat) : Prop :=
  (∀ f, s.packs.last.find (cls, unit) = some f → s.mgmt.image.packInterval ≠ 0 ∧ f + s.mgmt.image.packInterval ≤ s.fret) ∧
    s.packPossible cls unit = true ∧ (cls, unit) ∉ s.packs.running

theorem packRun_eq (s : State) (cls unit : Nat) [Decidable (s.packStarts cls unit)] :
    s.packRun cls unit = if s.packStarts cls unit then s.packStarted cls unit else s := by
  unfold State.packRun
  refine if_congr ?_ rfl rfl
  unfold State.packStarts
  cases s.packs.last.find (cls, unit) with
  | none => simp
  | some f => simp [and_assoc]

theorem packResult_idle (p : Bool) (h : (cls, unit) ∉ s.packs.running) : s.packResult cls unit p = s :=
  if_pos (by rw [Bool.not_eq_true', ← Bool.not_eq_true, List.contains_iff_mem]; exact h)

/-- A pack run has ended. -/
def State.packEnded (s : State) (cls unit : Nat) : State :=
  { s with packs := { s.packs with running := s.packs.running.filter (· != (cls, unit)) } }

theorem packResult_running (p : Bool) (h : (cls, unit) ∈ s.packs.running) : s.packResult cls unit p =
    if p then s.packEnded cls unit else (s.packEnded cls unit).packFailed cls unit :=
  if_neg (by rw [List.contains_iff_mem.2 h]; decide)

end Packs

/-- Settles O52: each event's cases, one lemma each. -/
theorem faultyUnitsAreCheckedAndMuted : Obligations.FaultyUnitsAreCheckedAndMuted := by
  unfold Obligations.FaultyUnitsAreCheckedAndMuted
  intro s hp
  refine ⟨fun r i cause hr hi => ?rail, fun a b da db third ha hb hab hthird => ?pair, fun a b ha hb hab => ?timeout, fun b hb => ?tuning,
    fun ag r b hag hr hb => ?mute, fun ag r v hag hr => ?evidence, fun cls unit hcls => ?packs⟩
  case rail =>
    have hexec := exec_railFault r i cause s (by simp [Instr.wf, okR, okRail, hr, hi]) hp
    intro go off u d
    refine ⟨fun h => hexec.trans (by rw [railFault_off h]), fun h => ?_⟩
    rw [railFault_on h] at hexec
    refine ⟨hexec, fun hi hlive => ?_, fun hi hlive => ?_⟩
    · rw [railEffect_lostDie hi ((railFailed_dieLive ..).trans hlive)] at hexec
      exact hexec
    · subst hi
      rw [railEffect_lostRegion ((railFailed_regionLive ..).trans hlive)] at hexec
      exact hexec
  case pair =>
    have hw : (Instr.xchkDone a b da db third).wf = true := by
      cases third with
      | none => simp [Instr.wf, okB, ha, hb, hab]
      | some x =>
        obtain ⟨hc, hca, hcb⟩ := hthird x.1 x.2 rfl
        simp [Instr.wf, okB, ha, hb, hab, hc, hca, hcb]
    have hexec := exec_xchkDone a b da db third s hw hp
    intro go r open_ wrong judges
    refine ⟨fun t ht => ⟨?_, fun h => ?_⟩, fun hnone => ⟨fun h => ?_, fun seed h => ⟨fun hd => ?_, ?_, fun hd hj => ?_⟩⟩⟩
    · rintro c dc rfl hj
      exact hexec.trans (by rw [xchkDone_openJudged ht hj]; rfl)
    · exact hexec.trans (by rw [xchkDone_openWaits ht h])
    · exact hexec.trans (by rw [xchkDone_other hnone h])
    · exact hexec.trans (by rw [xchkDone_agree hnone h hd]; rfl)
    · rintro c dc hd rfl hj
      exact hexec.trans (by rw [xchkDone_judged hnone h hd hj]; rfl)
    · exact hexec.trans (by rw [xchkDone_waits hnone h hd hj]; rfl)
  case timeout =>
    have hexec := exec_xchkThirdTimeout a b s (by simp [Instr.wf, okB, ha, hb, hab]) hp
    refine ⟨fun h => hexec.trans (by rw [xchkTimeout_none h]), fun t ht => ⟨fun h => ?_, fun h => ?_⟩⟩
    · exact hexec.trans (by rw [xchkTimeout_early ht h])
    · exact hexec.trans (by rw [xchkTimeout_due ht h])
  case tuning =>
    have hexec (p : Bool) := exec_tuningCheckEnd b p s (by simp [Instr.wf, okB, hb]) hp
    refine ⟨fun h p => (hexec p).trans (by rw [tuningEnd_none h]), fun t rest h => ⟨?_, ?_⟩⟩
    · exact (hexec false).trans (by rw [tuningEnd_failed h])
    · exact (hexec true).trans (by rw [tuningEnd_passed h]; rfl)
  case mute =>
    have hmute := exec_blkMute ag r b s (by simp [Instr.wf, okB, okR, hag, hr, hb]) hp
    have hrelease := exec_blkRelease ag r b s (by simp [Instr.wf, okB, okR, hag, hr, hb]) hp
    rw [blkMuteWrite_eq ag r hb] at hmute
    refine ⟨fun h => hmute.trans (by rw [if_pos h]), fun hh hr => hmute.trans (by rw [if_neg (not_or.2 ⟨hh, hr⟩)]),
      fun h => hrelease.trans (congrArg _ (if_pos (mayRelease_iff.2 h))),
      fun h => hrelease.trans (congrArg _ (if_neg (mt mayRelease_iff.1 h)))⟩
  case evidence => exact exec_mgmtEvidRelease ag r v s (by simp [Instr.wf, okR, hag, hr]) hp
  case packs =>
    have hw : decide (cls < 3) = true := decide_eq_true hcls
    have hrun := exec_packRun cls unit s hw hp
    have hresult (p : Bool) := exec_packResult cls unit p s hw hp
    classical
    rw [packRun_eq] at hrun
    refine ⟨fun h => hrun.trans (congrArg _ (if_pos h)), fun h => hrun.trans (congrArg _ (if_neg h)),
      fun p h => (hresult p).trans (by rw [packResult_idle p h]), fun h => ?_⟩
    have hfails := (hresult false).trans (by rw [packResult_running false h, if_neg (by decide)])
    refine ⟨(hresult true).trans (by rw [packResult_running true h]; rfl), ?_, ?_, ?_⟩
    · rintro rfl
      exact hfails
    · rintro rfl
      exact hfails
    · rintro rfl
      exact hfails

end Sys2Proof.Machine

/-!
PROOFS. Collective channels (R384 to R398): O44 and O43.
-/
namespace Sys2Proof.Machine

/-! ### SCHED flits (R384, R385) -/

section Flits
variable {s : State} {k : Nat} {f : SchedFlit}

/-- An entry acts in the present slot. -/
def State.entryActs (s : State) (r c : Nat) (e : StrumEntry) : Prop :=
  s.startFret r c + e.step ≤ s.fret ∧ (if e.op = 4 then s.slot = e.slot + 1 else State.mayRun (s.coll r c) e = true)

theorem entryActs_iff {r c : Nat} {e : StrumEntry} :
    (decide (s.startFret r c + e.step ≤ s.fret) && (if e.op = 4 then s.slot == e.slot + 1 else State.mayRun (s.coll r c) e)) = true ↔
      s.entryActs r c e := by
  unfold State.entryActs
  rw [Bool.and_eq_true, decide_eq_true_eq]
  split
  · rw [beq_iff_eq]
  · rfl

theorem schedFlit_unmatched (h : s.matchFlit k f = none) : s.schedFlit k f = s.bump (FAB_COLL_SCHED_DISCARD (k / 4)) 1 := by
  unfold State.schedFlit
  rw [h]

variable {r c i : Nat} {e : StrumEntry} (hm : s.matchFlit k f = some (r, c, i, e))
include hm

theorem schedFlit_repeated (h : f.index ∈ (State.entryProgress (s.coll r c) i).got ∨ e.flits ≤ f.index) :
    s.schedFlit k f = s.bump (FAB_COLL_SCHED_DISCARD (k / 4)) 1 := by
  unfold State.schedFlit
  rw [hm]
  exact if_pos (h.imp_left List.contains_iff_mem.2)

/-- The channel with the flit received, waiting in its entry. -/
def State.flitTaken (s : State) (r c i : Nat) (f : SchedFlit) : CollChan :=
  let p := State.entryProgress (s.coll r c) i
  State.setProgress (s.coll r c) i { p with got := p.got ++ [f.index], waiting := p.waiting ++ [f] }

/-- A flit that its entry has not had yet. -/
theorem schedFlit_new (hnew : f.index ∉ (State.entryProgress (s.coll r c) i).got) (hin : f.index < e.flits) :
    let now := (decide (s.startFret r c + e.step ≤ s.fret)) && (if e.op = 4 then s.slot == e.slot + 1 else State.mayRun (s.coll r c) e)
    let u := s.setColl r c (s.flitTaken r c i f)
    s.schedFlit k f = if (!now) = true ∧ 512 ≤ s.bufferedOn k then s.bump (FAB_COLL_RX_OVERFLOW (k / 4)) 1
      else if u.involved (u.coll r c) e then u else (u.serveReceive r c i e).serveChannel r c := by
  intro now u
  unfold State.schedFlit
  rw [hm]
  exact if_neg (not_or.2 ⟨mt List.contains_iff_mem.1 hnew, Nat.not_le.2 hin⟩)

theorem schedFlit_overflows (hnew : f.index ∉ (State.entryProgress (s.coll r c) i).got) (hin : f.index < e.flits)
    (hnow : ¬ s.entryActs r c e) (hfull : 512 ≤ s.bufferedOn k) : s.schedFlit k f = s.bump (FAB_COLL_RX_OVERFLOW (k / 4)) 1 :=
  (schedFlit_new hm hnew hin).trans (if_pos ⟨by rw [Bool.not_eq_true', ← Bool.not_eq_true]; exact mt entryActs_iff.1 hnow, hfull⟩)

theorem schedFlit_taken (hnew : f.index ∉ (State.entryProgress (s.coll r c) i).got) (hin : f.index < e.flits)
    (hroom : s.entryActs r c e ∨ s.bufferedOn k < 512) : let u := s.setColl r c (s.flitTaken r c i f)
    s.schedFlit k f = if s.involved (s.flitTaken r c i f) e = true then u else (u.serveReceive r c i e).serveChannel r c := by
  intro u
  have hu : u.coll r c = s.flitTaken r c i f := coll_set ..
  refine (schedFlit_new hm hnew hin).trans ((if_neg ?_).trans (by rw [hu]; rfl))
  rintro ⟨hnow, hfull⟩
  rcases hroom with h | h
  · rw [entryActs_iff.2 h] at hnow
    cases hnow
  · omega

end Flits

/-- Settles O44: the flit's entry, then its index, then the room decide. -/
theorem schedFlitsMeetTheirEntries : Obligations.SchedFlitsMeetTheirEntries := by
  unfold Obligations.SchedFlitsMeetTheirEntries
  intro s k f hp hk
  have hexec := exec_schedFlit k f s (decide_eq_true hk) hp
  refine ⟨fun h => hexec.trans (congrArg _ (schedFlit_unmatched h)), fun r c i e hm => ?_⟩
  exact ⟨fun h => hexec.trans (congrArg _ (schedFlit_repeated hm h)), fun hnew hin =>
    ⟨fun hnow hfull => hexec.trans (congrArg _ (schedFlit_overflows hm hnew hin hnow hfull)),
      fun hroom => hexec.trans (congrArg _ (schedFlit_taken hm hnew hin hroom))⟩⟩

end Sys2Proof.Machine

/-!
PROOFS. Loading, starting and ending the run of a collective channel (R386 to R398): O43.
-/
namespace Sys2Proof.Machine

/-! ### Loading (R386) -/

section Load
variable {s : State} {ag : Agent} {r c : Nat}

theorem strumLoad_open (h : (s.coll r c).state = .empty ∨ (s.coll r c).state = .loaded) : s.strumLoad ag r c =
    s.setColl r c { s.coll r c with state := .loading, entries := [], inHw := 0 } := by
  unfold State.strumLoad
  rcases h with h | h
  · rw [h]
    rfl
  · rw [h]
    rfl

theorem strumLoad_refused (he : (s.coll r c).state ≠ .empty) (hl : (s.coll r c).state ≠ .loaded) :
    s.strumLoad ag r c = s.refuseColl ag r c stSTATE := by
  unfold State.strumLoad
  split
  · next h => exact absurd h he
  · next h => exact absurd h hl
  · rfl

theorem strumUnload_loaded (h : (s.coll r c).state = .loaded) : s.strumUnload ag r c =
    s.setColl r c { s.coll r c with state := .empty, entries := [], inHw := 0 } := if_pos h

theorem strumUnload_refused (h : (s.coll r c).state ≠ .loaded) : s.strumUnload ag r c = s.refuseColl ag r c stSTATE := if_neg h

/-- The copy of a strum ends with nothing loaded. -/
def State.loadFails (u : State) (r c st i : Nat) : State :=
  u.setColl r c { u.coll r c with state := .empty, entries := [], inHw := 0, lastStatus := st, detail := w64 i }

/-- The entries of the table, and where it lies. -/
def State.tableCount (s : State) (r c : Nat) : Nat := bits (s.reg (FAB_COLL_CH_TABLE_CFG r c)) 20 0
def State.tableAddr (s : State) (r c : Nat) : Nat := (s.reg (FAB_COLL_CH_TABLE_ADDR r c)).toNat

theorem strumLoadDone_idle (h : (s.coll r c).state ≠ .loading) : s.strumLoadDone r c = s := if_pos h

section Loading
variable (h : (s.coll r c).state = .loading)
include h

theorem strumLoadDone_tooMany (hn : 1048576 < s.tableCount r c) :
    s.strumLoadDone r c = s.loadFails r c stRANGE (1048576 - s.strumEntries r) :=
  (if_neg (not_not.2 h)).trans (if_pos hn)

variable (hn : s.tableCount r c ≤ 1048576)
include hn

theorem strumLoadDone_unreachable (hb : s.bytesReachable (s.tableAddr r c) (16 * s.tableCount r c) = false) :
    s.strumLoadDone r c = s.loadFails r c stRANGE 0 :=
  (if_neg (not_not.2 h)).trans ((if_neg (Nat.not_lt.2 hn)).trans (if_pos (by
    rw [State.tableAddr, State.tableCount] at hb
    rw [hb]
    rfl)))

variable (hb : s.bytesReachable (s.tableAddr r c) (16 * s.tableCount r c) = true)
include hb

theorem strumLoadDone_reachable : s.strumLoadDone r c = if s.rangeWaits (s.tableAddr r c) (16 * s.tableCount r c) false then s
    else
      let (u, bs, bad) := s.readBytes (s.collAgent r) (s.tableAddr r c) (16 * s.tableCount r c)
      match bad with
      | some a => (u.log r stPOISON 2 (u.collAgent r).code (a / 8 * 8) 0).loadFails r c stPOISON ((a - u.tableAddr r c) / 16)
      | none =>
        let es := (List.range (s.tableCount r c)).map fun i => StrumEntry.decode ((bs.drop (16 * i)).take 16)
        match u.loadResult r c es with
        | (st, i) =>
          if st ≠ stOK then u.loadFails r c st i
          else u.updColl r c fun x =>
            { x with state := .loaded, entries := es.map (·.1), inHw := min (s.tableCount r c) (u.tableRoom r), lastStatus := stOK, detail := 0 } :=
  (if_neg (not_not.2 h)).trans ((if_neg (Nat.not_lt.2 hn)).trans (if_neg (by
    rw [State.tableAddr, State.tableCount] at hb
    rw [hb]
    decide)))

theorem strumLoadDone_waits (hw : s.rangeWaits (s.tableAddr r c) (16 * s.tableCount r c) false = true) : s.strumLoadDone r c = s :=
  (strumLoadDone_reachable h hn hb).trans (if_pos hw)

variable (hw : s.rangeWaits (s.tableAddr r c) (16 * s.tableCount r c) false = false) {u : State} {bs : List Byte}
include hw

theorem strumLoadDone_poisoned {a : Nat} (hread : s.readBytes (s.collAgent r) (s.tableAddr r c) (16 * s.tableCount r c) = (u, bs, some a)) :
    s.strumLoadDone r c = (u.log r stPOISON 2 (u.collAgent r).code (a / 8 * 8) 0).loadFails r c stPOISON ((a - u.tableAddr r c) / 16) := by
  refine (strumLoadDone_reachable h hn hb).trans ((if_neg (by rw [hw]; decide)).trans ?_)
  rw [hread]

variable (hread : s.readBytes (s.collAgent r) (s.tableAddr r c) (16 * s.tableCount r c) = (u, bs, none))
include hread

theorem strumLoadDone_read (es : List (StrumEntry × Bool))
    (hes : es = (List.range (s.tableCount r c)).map fun i => StrumEntry.decode ((bs.drop (16 * i)).take 16)) {st i : Nat}
    (hres : u.loadResult r c es = (st, i)) :
    s.strumLoadDone r c = if st ≠ stOK then u.loadFails r c st i
      else u.setColl r c { u.coll r c with
        state := .loaded, entries := es.map (·.1), inHw := min (s.tableCount r c) (u.tableRoom r), lastStatus := stOK, detail := 0 } := by
  refine (strumLoadDone_reachable h hn hb).trans ((if_neg (by rw [hw]; decide)).trans ?_)
  rw [hread]
  dsimp only
  rw [← hes, hres]
  rfl

end Loading

end Load

/-! ### Ends of runs (R392, R394, R395) -/

section Ends
variable {s : State} {r c : Nat}

/-- A run of channel `y` is over with a status. -/
def State.runEnded (u : State) (r c : Nat) (y : CollChan) (st : Nat) : State := (u.setColl r c y).runEnd r c st

theorem runEnd_setColl (u : State) (r c st : Nat) (y : CollChan) :
    (u.setColl r c y).updColl r c (fun x =>
      { x with state := .loaded, lastStatus := st, progress := [], stop := none, ending := none, bad := none, lost := none }) =
    u.setColl r c { y with
      state := .loaded, lastStatus := st, progress := [], stop := none, ending := none, bad := none, lost := none } :=
  updColl_setColl ..

/-- What an end leaves, by the channel that ends. -/
theorem runEnded_eq (u : State) (r c : Nat) (y : CollChan) (st : Nat) : u.runEnded r c y st =
    (let u := u.setColl r c { y with
      state := .loaded, lastStatus := st, progress := [], stop := none, ending := none, bad := none, lost := none }
    let u := if st = stOVERRUN then u.bumpFld (FAB_FRET_MISS_COUNT r) 31 0 1 else u
    let u := u.noteCompletion (u.reg (FAB_COLL_CH_TAG r c)).toNat st 0
    let sig := u.reg (FAB_COLL_CH_SIGNAL r c)
    if sig.getLsbD 50 then u.signalPeg (u.collAgent r) (bits sig 15 0) (bits sig 49 48) (w64 (bits sig 47 16)) else u) := by
  unfold State.runEnded State.runEnd
  rw [runEnd_setColl]
  rfl

theorem runEnd_eq_runEnded (s : State) (r c st : Nat) : s.runEnd r c st = s.runEnded r c (s.coll r c) st := by
  unfold State.runEnded State.runEnd
  rw [runEnd_setColl]
  rfl

/-- The last step of the run is complete. -/
def State.runDone (s : State) (r c : Nat) : Prop :=
  (s.coll r c).entries ≠ [] ∧ s.startFret r c ≤ s.fret ∧ s.stepNow r c = State.lastStep (s.coll r c) ∧
    State.stepDone (s.coll r c) (s.stepNow r c) = true

theorem runComplete_iff : s.runComplete r c = true ↔ s.runDone r c := by
  unfold State.runComplete State.runDone
  simp [and_assoc]

theorem runComplete_not (h : ¬ s.runDone r c) : s.runComplete r c = false := by
  rw [← Bool.not_eq_true]
  exact mt runComplete_iff.1 h

/-- A running channel stops, and its peers are told. -/
def State.runStops (s : State) (r c : Nat) (d : W64) (st : Nat) (lost : Option Nat) (subject told : Nat) : State :=
  (s.setColl r c { s.coll r c with state := .stopping, stop := some st, detail := d, lost := lost }).sendNotices r c subject told

theorem issueWrite_colls (s : State) (q : OutReq) (hop : 2 ≤ q.op) : (s.issue q).colls = s.colls :=
  (congrArg State.colls (issue_write s q hop).1).trans rfl

theorem logLost_colls (s : State) (r : Nat) (q : OutReq) (o : Origin) (st : Nat) : (s.logLost r q o st).colls = s.colls :=
  (congrArg State.colls (logLost_frame s r q o st)).trans rfl

theorem foldl_colls {α : Type} (l : List α) (f : State → α → State) (hf : ∀ s x, (f s x).colls = s.colls) (s : State) :
    (l.foldl f s).colls = s.colls := by
  induction l generalizing s with
  | nil => rfl
  | cons x l ih => exact (ih (f s x)).trans (hf s x)

theorem sendNotices_coll (s : State) (r c subject cause : Nat) : (s.sendNotices r c subject cause).coll r c = s.coll r c := by
  have h : (s.sendNotices r c subject cause).colls = s.colls := by
    unfold State.sendNotices
    refine foldl_colls _ _ (fun u m => ?_) s
    dsimp only
    split
    · exact issueWrite_colls _ _ (Nat.le_refl 2)
    · exact logLost_colls ..
  unfold State.coll
  rw [h]

section Notices
variable (subject cause : Nat)

theorem noticeOne_armed (h : (s.coll r c).state = .armed) : s.noticeOne r c subject cause =
    s.runEnded r c { s.coll r c with detail := fld subject 0 ||| fld cause 16, stepsDone := 0 } stABORTED := by
  unfold State.noticeOne
  rw [h]
  rfl

variable (h : (s.coll r c).state = .running)
include h

theorem noticeOne_over (hover : (s.coll r c).ending ≠ none ∨ s.runDone r c) : s.noticeOne r c subject cause = s := by
  unfold State.noticeOne
  rw [h]
  refine if_pos (Bool.or_eq_true_iff.2 (hover.imp Option.isSome_iff_ne_none.2 runComplete_iff.2))

theorem noticeOne_running (hend : (s.coll r c).ending = none) (hgo : ¬ s.runDone r c) : s.noticeOne r c subject cause =
    s.runStops r c (fld subject 0 ||| fld cause 16) stABORTED (s.coll r c).lost subject cause := by
  unfold State.noticeOne
  rw [h]
  exact if_neg (by rw [hend, runComplete_not hgo]; decide)

end Notices

section Abort
variable {ag : Agent}

theorem strumAbort_armed (h : (s.coll r c).state = .armed) : s.strumAbort ag r c =
    (s.sendNotices r c s.moduleId stABORTED).runEnded r c
      { s.coll r c with detail := fld s.moduleId 0 ||| fld stABORTED 16, stepsDone := 0 } stABORTED := by
  have hcoll := sendNotices_coll s r c s.moduleId stABORTED
  unfold State.strumAbort
  rw [h]
  dsimp only
  rw [noticeOne_armed _ _ (by rw [hcoll]; exact h), hcoll]

theorem strumAbort_running (h : (s.coll r c).state = .running) : s.strumAbort ag r c = s.noticeOne r c s.moduleId stABORTED := by
  unfold State.strumAbort
  rw [h]

theorem strumAbort_refused (h : (s.coll r c).state = .empty ∨ (s.coll r c).state = .loading ∨ (s.coll r c).state = .loaded ∨
    (s.coll r c).state = .stopping) : s.strumAbort ag r c = s.refuseColl ag r c stSTATE := by
  unfold State.strumAbort
  rcases h with h | h | h | h <;> rw [h]

end Abort

theorem collNotice_none {v : W64} (h : s.colls.filter (fun y => s.strumId y.1.1 y.1.2 == bits v 15 0) = []) : s.collNotice v = s := by
  unfold State.collNotice
  rw [h]
  rfl

theorem collNotice_one {v : W64} {x : CollChan} (h : s.colls.filter (fun y => s.strumId y.1.1 y.1.2 == bits v 15 0) = [((r, c), x)]) :
    s.collNotice v = s.noticeOne r c (bits v 31 16) (bits v 39 32) := by
  unfold State.collNotice
  rw [h]
  rfl

theorem strumRunEnd_ending {st : Nat} (h : (s.coll r c).state = .running ∨ (s.coll r c).state = .stopping)
    (hend : (s.coll r c).ending = some st) : s.strumRunEnd r c = s.runEnded r c (s.coll r c) st := by
  rw [← runEnd_eq_runEnded]
  unfold State.strumRunEnd
  dsimp only
  rw [hend]
  rcases h with h | h <;> rw [h]

theorem strumRunEnd_stopping (h : (s.coll r c).state = .stopping) (hend : (s.coll r c).ending = none) : s.strumRunEnd r c = s := by
  unfold State.strumRunEnd
  dsimp only
  rw [h, hend]

theorem strumRunEnd_running (h : (s.coll r c).state = .running) (hend : (s.coll r c).ending = none) : s.strumRunEnd r c =
    if s.runComplete r c then s.runEnded r c
      { s.coll r c with detail := (State.runResult (s.coll r c)).2, stepsDone := s.stepNow r c + 1 } (State.runResult (s.coll r c)).1
    else s := by
  unfold State.strumRunEnd
  dsimp only
  split
  · rfl
  · next hs => exact absurd (hend.symm.trans hs) (by simp)
  · next hs => exact absurd (hend.symm.trans hs) (by simp)
  · next hno _ _ => exact absurd hend (hno h)

end Ends

/-! ### Lost peers (R394) -/

section Peers
variable {s : State} {r c i : Nat}

theorem peerLost_going {m step slot : Nat} (h : (s.coll r c).state = .running) (hend : (s.coll r c).ending = none) (hgo : ¬ s.runDone r c) :
    s.peerLost r c m step slot = s.runStops r c (fld m 0 ||| fld step 16 ||| fld slot 32) stPEER_LOST (some m) m stPEER_LOST :=
  if_pos ⟨h, by rw [hend]; rfl, by rw [runComplete_not hgo]; rfl⟩

theorem peerLost_over {m step slot : Nat} (h : (s.coll r c).state ≠ .running ∨ (s.coll r c).ending ≠ none ∨ s.runDone r c) :
    s.peerLost r c m step slot = s := by
  refine if_neg fun ⟨hrun, hend, hgo⟩ => ?_
  rcases h with h | h | h
  · exact h hrun
  · exact h (Option.isNone_iff_eq_none.1 hend)
  · rw [runComplete_iff.2 h] at hgo
    cases hgo

/-- The receive entry's slot has passed and none of its flits has come. -/
def State.entrySilent (s : State) (r c i : Nat) (e : StrumEntry) : Prop :=
  let p := State.entryProgress (s.coll r c) i
  e.receives = true ∧ 0 < e.len ∧ e.step = s.stepNow r c ∧ s.startFret r c ≤ s.fret ∧ p.got = [] ∧ p.waiting = [] ∧ e.slot < s.slot

variable {e : StrumEntry} (he : (s.coll r c).entries[i]? = some e)
include he

theorem peerSilent_over (h : (s.coll r c).state ≠ .running ∨ (s.coll r c).ending ≠ none ∨ s.runDone r c) : s.peerSilent r c i = s := by
  unfold State.peerSilent
  dsimp only
  rw [he]
  dsimp only
  split
  · rfl
  · split
    · exact peerLost_over h
    · split
      · exact peerLost_over h
      · rfl

variable (h : (s.coll r c).state = .running) (hend : (s.coll r c).ending = none)
include h hend

theorem peerSilent_deadPort {q : Nat} (hq : (e.ports.find? fun q => (s.port q).state != .active) = some q) :
    s.peerSilent r c i = s.peerLost r c (s.peerOn e q) e.step e.slot := by
  unfold State.peerSilent
  dsimp only
  rw [he]
  dsimp only
  rw [if_neg (by rw [h, hend]; simp), hq]

theorem peerSilent_livePorts [Decidable (s.entrySilent r c i e)] (hq : (e.ports.find? fun q => (s.port q).state != .active) = none) :
    s.peerSilent r c i = if s.entrySilent r c i e then s.peerLost r c e.peer e.step e.slot else s := by
  unfold State.peerSilent
  dsimp only
  rw [he]
  dsimp only
  rw [if_neg (by rw [h, hend]; simp), hq]
  exact if_congr Iff.rfl rfl rfl

end Peers

/-! ### Starting (R387) -/

section Start
variable {s : State} {ag : Agent} {r c : Nat}

theorem strumStart_refused (h : (s.coll r c).state ≠ .loaded ∨ s.mgmt.state = .quiesce) : s.strumStart ag r c = s.refuseColl ag r c stSTATE :=
  if_pos h

/-- The status of a START: the first check that fails. -/
def State.startStatus (s : State) (r c : Nat) : Nat :=
  if s.time.lock ≠ .locked then stSTATE
  else if s.fret + 2 ^ 31 < s.startFret r c ∨ s.startConflict r c then stRANGE
  else if s.startFret r c ≤ s.fret + 1 then stOVERRUN
  else if s.kiln.collFailed.contains r then stSELFTEST else stOK

variable (h : (s.coll r c).state = .loaded) (hq : s.mgmt.state ≠ .quiesce)
include h hq

theorem strumStart_eq : s.strumStart ag r c =
    if s.startStatus r c = stOVERRUN ∨ s.startStatus r c = stSELFTEST then
      s.runEnded r c { s.coll r c with detail := 0, stepsDone := 0 } (s.startStatus r c)
    else if s.startStatus r c ≠ stOK then s.setColl r c { s.coll r c with lastStatus := s.startStatus r c, detail := 0 }
    else s.setColl r c { s.coll r c with
      state := .armed, progress := [], stepsDone := 0, detail := 0, bad := none, stop := none, ending := none, lost := none } :=
  if_neg (not_or.2 ⟨not_not.2 h, hq⟩)

end Start

/-- Settles O43: the channel's state, then each action's checks in their order. -/
theorem strumsLoadRunAndEnd : Obligations.StrumsLoadRunAndEnd := by
  unfold Obligations.StrumsLoadRunAndEnd
  intro s ag r c hp hag hr hc x ended refused told k complete
  have hchan : (okR r && okChan c) = true := by simp [okR, okChan, hr, hc]
  have hact : (ag.wf && okR r && okChan c) = true := by simp [okR, okChan, hag, hr, hc]
  have hended (u : State) (y : CollChan) (st : Nat) : u.runEnded r c y st = ended u y st := runEnded_eq u r c y st
  refine ⟨fun h => (exec_strumLoad ag r c s hact hp).trans (congrArg _ (strumLoad_open h)),
    fun he hl => (exec_strumLoad ag r c s hact hp).trans (congrArg _ (strumLoad_refused he hl)), ?load,
    fun h => (exec_strumUnload ag r c s hact hp).trans (congrArg _ (strumUnload_loaded h)),
    fun h => (exec_strumUnload ag r c s hact hp).trans (congrArg _ (strumUnload_refused h)),
    fun h => (exec_strumStart ag r c s hact hp).trans (congrArg _ (strumStart_refused h)), fun h hq => ?start, ?abort, fun v => ?notice,
    ?ends, fun i e he => ?silent⟩
  case load =>
    intro n addr none_
    have hexec := exec_strumLoadDone r c s hchan hp
    refine ⟨fun h => hexec.trans (congrArg _ (strumLoadDone_idle h)), fun h hn => hexec.trans (congrArg _ (strumLoadDone_tooMany h hn)),
      fun h hn hb => hexec.trans (congrArg _ (strumLoadDone_unreachable h hn hb)),
      fun h hn hb hw => hexec.trans (congrArg _ (strumLoadDone_waits h hn hb hw)), fun u bs h hn hb hw => ⟨fun a hread => ?_, fun hread => ?_⟩⟩
    · exact hexec.trans (congrArg _ (strumLoadDone_poisoned h hn hb hw hread))
    · intro es
      have hload {st i : Nat} (hres : u.loadResult r c es = (st, i)) := strumLoadDone_read h hn hb hw hread es rfl hres
      exact ⟨fun st i hres hst => hexec.trans (congrArg _ ((hload hres).trans (if_pos hst))),
        fun i hres => hexec.trans (congrArg _ ((hload hres).trans (if_neg (not_not.2 rfl))))⟩
  case start =>
    intro f far
    have hexec := (exec_strumStart ag r c s hact hp).trans (congrArg _ (strumStart_eq h hq))
    have hfails {st : Nat} (hst : s.startStatus r c = st) (hend : st = stOVERRUN ∨ st = stSELFTEST) :
        exec (.strumStart ag r c) s = .next (ended s { x with detail := 0, stepsDone := 0 } st) := by
      rw [hst, if_pos hend, hended] at hexec
      exact hexec
    have hwritten {st : Nat} (hst : s.startStatus r c = st) (hend : ¬ (st = stOVERRUN ∨ st = stSELFTEST)) (hok : st ≠ stOK) :
        exec (.strumStart ag r c) s = .next (s.setColl r c { x with lastStatus := st, detail := 0 }) := by
      rw [hst, if_neg hend, if_pos hok] at hexec
      exact hexec
    refine ⟨fun hl => hwritten (if_pos hl) (by decide) (by decide), fun hl hfar => ?_, fun hl hfar hnear => ?_, fun hl hfar hnear =>
      ⟨fun hself => ?_, fun hself => ?_⟩⟩
    · exact hwritten ((if_neg (not_not.2 hl)).trans (if_pos hfar)) (by decide) (by decide)
    · exact hfails ((if_neg (not_not.2 hl)).trans ((if_neg hfar).trans (if_pos hnear))) (.inl rfl)
    · exact hfails ((if_neg (not_not.2 hl)).trans ((if_neg hfar).trans ((if_neg (Nat.not_le.2 hnear)).trans (if_pos hself)))) (.inr rfl)
    · have hst : s.startStatus r c = stOK := (if_neg (not_not.2 hl)).trans ((if_neg hfar).trans ((if_neg (Nat.not_le.2 hnear)).trans
        (if_neg (by rw [hself]; decide))))
      rw [hst, if_neg (by decide), if_neg (by decide)] at hexec
      exact hexec
  case abort =>
    intro d
    have hexec := exec_strumAbort ag r c s hact hp
    refine ⟨fun h => ?_, fun h hover => ?_, fun h hend hgo => ?_, fun h => hexec.trans (congrArg _ (strumAbort_refused h))⟩
    · exact hexec.trans (congrArg _ ((strumAbort_armed h).trans (hended ..)))
    · exact hexec.trans (congrArg _ ((strumAbort_running h).trans (noticeOne_over _ _ h hover)))
    · exact hexec.trans (congrArg _ ((strumAbort_running h).trans (noticeOne_running _ _ h hend hgo)))
  case notice =>
    intro mine d
    have hexec := exec_fabCollAbort ag v s hag hp
    refine ⟨fun h => hexec.trans (congrArg _ (collNotice_none h)), fun h => ⟨fun hst => ?_, fun hst hend hgo => ?_⟩⟩
    · exact hexec.trans (congrArg _ ((collNotice_one h).trans ((noticeOne_armed _ _ hst).trans (hended ..))))
    · exact hexec.trans (congrArg _ ((collNotice_one h).trans (noticeOne_running _ _ hst hend hgo)))
  case ends =>
    have hexec := exec_strumRunEnd r c s hchan hp
    refine ⟨fun h hend => ?_, fun st h hend => hexec.trans (congrArg _ ((strumRunEnd_ending h hend).trans (hended ..))),
      fun h hend => hexec.trans (congrArg _ (strumRunEnd_stopping h hend))⟩
    have hrun := hexec.trans (congrArg _ (strumRunEnd_running h hend))
    have hdone {st : Nat} {d : W64} (hc : complete) (hres : State.runResult x = (st, d)) :
        exec (.strumRunEnd r c) s = .next (ended s { x with detail := d, stepsDone := k + 1 } st) := by
      rw [if_pos (runComplete_iff.2 hc), hended] at hrun
      rw [hrun]
      show _ = Host.Outcome.next (ended s { x with detail := (st, d).2, stepsDone := k + 1 } (st, d).1)
      rw [← hres]
    refine ⟨fun hc => ?_, fun hc hbad => hdone hc ?_, fun st off hc hbad => hdone hc ?_⟩
    · rw [if_neg (mt runComplete_iff.1 hc)] at hrun
      exact hrun
    · unfold State.runResult
      rw [hbad]
    · unfold State.runResult
      rw [hbad]
  case silent =>
    intro p dead lost silent
    have hexec := exec_peerSilent r c i s hchan hp
    refine ⟨fun h => hexec.trans (congrArg _ (peerSilent_over he h)), fun h hend hgo => ⟨fun q hq => ?_, fun hq hs => ?_, fun hq hs => ?_⟩⟩
    · exact hexec.trans (congrArg _ ((peerSilent_deadPort he h hend hq).trans (peerLost_going h hend hgo)))
    · classical
      exact hexec.trans (congrArg _ ((peerSilent_livePorts he h hend hq).trans ((if_pos hs).trans (peerLost_going h hend hgo))))
    · classical
      exact hexec.trans (congrArg _ ((peerSilent_livePorts he h hend hq).trans (if_neg hs)))

end Sys2Proof.Machine

/-!
PROOFS. What a host reaches through BAR0 and BAR2 (R404 to R410): O46.
-/
namespace Sys2Proof.Machine

/-! ### BAR0 (R404 to R407, R422) -/

section Bar0
variable {s : State} {r f off size : Nat}

/-- The pages of the DMA channels, and of the collective channels. -/
def inDmaPages (off : Nat) : Prop := 0x100000 ≤ off ∧ off < 0x140000
def inCollPages (off : Nat) : Prop := 0x200000 ≤ off ∧ off < 0x240000

/-- The page of a channel that the function does not own. -/
def State.foreignPage (s : State) (r f off : Nat) : Prop :=
  (inDmaPages off ∧ s.ownerOf r 0 ((off - 0x100000) / 0x1000) ≠ some f) ∨
    (inCollPages off ∧ s.ownerOf r 1 ((off - 0x200000) / 0x1000) ≠ some f)

theorem bar0Foreign_iff : s.bar0Foreign r f off = true ↔ s.foreignPage r f off := by
  simp [State.bar0Foreign, State.foreignPage, inDmaPages, inCollPages]

theorem foreignPage_low (h : s.foreignPage r f off) : off < 0x400000 := by
  rcases h with ⟨⟨_, hoff⟩, -⟩ | ⟨⟨_, hoff⟩, -⟩ <;> omega

theorem bar0Pages_iff : State.bar0Pages off = true ↔ off < 0x1040 ∨ inDmaPages off ∨ inCollPages off := by
  simp [State.bar0Pages, inDmaPages, inCollPages, or_assoc]

/-- A doorbell, which a write of 4 bytes reaches too (R406). -/
def isDoorbell (size off : Nat) : Prop := size = 4 ∧ inDmaPages off ∧ off % 0x1000 = 0x030

theorem bar0Access_closed (w : Option W64) (h : s.barOpen r f = false) : s.bar0Access r f off size w =
    if w.isSome then s else s.completed r f .unsupported false [] := if_pos (by rw [h]; rfl)

variable (h : s.barOpen r f = true)
include h

theorem barOpen_not : ¬ (!s.barOpen r f) = true := by
  rw [h]
  decide

theorem bar0Access_peg (w : Option W64) (hoff : 0x400000 ≤ off) : s.bar0Access r f off size w = s.bar0Peg r f off size w :=
  (if_neg (barOpen_not h)).trans (if_pos hoff)

theorem bar0Access_foreign (w : Option W64) (hf : s.foreignPage r f off) : s.bar0Access r f off size w = s.bar0Unowned r f off size w :=
  (if_neg (barOpen_not h)).trans ((if_neg (Nat.not_le.2 (foreignPage_low hf))).trans (if_pos (bar0Foreign_iff.2 hf)))

variable (hoff : off < 0x400000) (hf : ¬ s.foreignPage r f off)
include hoff hf

theorem bar0Access_low (w : Option W64) : s.bar0Access r f off size w =
    if size = 8 ∧ off % 8 = 0 then s.bar0Reg r f off w
    else if size = 4 ∧ 0x100000 ≤ off ∧ off < 0x140000 ∧ off % 0x1000 = 0x030 ∧ w.isSome then
      s.bar0Reg r f off (w.map fun v => v &&& mask 31 0)
    else if State.bar0Pages off then
      let s := s.log r stALIGN 1 (s.fnAgent r f).code off 0
      if w.isSome then s else s.completed r f .success false (List.replicate size 0)
    else if w.isSome then s
    else s.completed r f .success false (List.replicate size 0) :=
  (if_neg (barOpen_not h)).trans ((if_neg (Nat.not_le.2 hoff)).trans (if_neg (mt bar0Foreign_iff.1 hf)))

theorem bar0Access_aligned (w : Option W64) (hs : size = 8 ∧ off % 8 = 0) : s.bar0Access r f off size w = s.bar0Reg r f off w :=
  (bar0Access_low h hoff hf w).trans (if_pos hs)

theorem bar0Access_doorbell (v : W64) (hd : isDoorbell size off) :
    s.bar0Access r f off size (some v) = s.bar0Access r f off 8 (some (v &&& 0xFFFFFFFF)) := by
  obtain ⟨hsize, ⟨hlo, hhi⟩, hw⟩ := hd
  have h8 : off % 8 = 0 := by omega
  refine (bar0Access_low h hoff hf _).trans ((if_neg (by omega)).trans ((if_pos ⟨hsize, hlo, hhi, hw, rfl⟩).trans ?_))
  exact (bar0Access_aligned h hoff hf _ ⟨rfl, h8⟩).symm

variable (hs : ¬ (size = 8 ∧ off % 8 = 0)) (w : Option W64) (hd : ¬ (isDoorbell size off ∧ w.isSome = true))
include hs hd

theorem bar0Access_odd : s.bar0Access r f off size w =
    if State.bar0Pages off then
      let s := s.log r stALIGN 1 (s.fnAgent r f).code off 0
      if w.isSome then s else s.completed r f .success false (List.replicate size 0)
    else if w.isSome then s
    else s.completed r f .success false (List.replicate size 0) :=
  (bar0Access_low h hoff hf w).trans ((if_neg hs).trans (if_neg fun ⟨hsize, hlo, hhi, hw, hsome⟩ => hd ⟨⟨hsize, ⟨hlo, hhi⟩, hw⟩, hsome⟩))

theorem bar0Access_misaligned (hp : off < 0x1040 ∨ inDmaPages off ∨ inCollPages off) : s.bar0Access r f off size w =
    let s := s.log r stALIGN 1 (s.fnAgent r f).code off 0
    if w.isSome then s else s.completed r f .success false (List.replicate size 0) :=
  (bar0Access_odd h hoff hf hs w hd).trans (if_pos (bar0Pages_iff.2 hp))

end Bar0

/-! ### The registers and pegs of BAR0 -/

section Units
variable {s : State} {r f off : Nat}

theorem bar0Reg_page (w : Option W64) (h : off < 0x1000) : s.bar0Reg r f off w = match w with
    | some v => s.bar0FnWrite r f off v
    | none => State.bar0Value r f (s, s.bar0FnRead r f off) := if_pos h

theorem bar0Reg_arm (w : Option W64) (hlo : 0x1000 ≤ off) (hhi : off < 0x1040) : s.bar0Reg r f off w = match w with
    | some v => s.armStore (State.fnQueue r f) (s.fnAgent r f).code (off % 64) v
    | none => State.bar0Value r f (s.armLoad (State.fnQueue r f) (off % 64)) := (if_neg (Nat.not_lt.2 hlo)).trans (if_pos hhi)

theorem bar0Reg_dma (w : Option W64) (h : inDmaPages off) (howner : s.ownerOf r 0 ((off - 0x100000) / 0x1000) = some f) :
    let c := (off - 0x100000) / 0x1000
    let word := off % 0x1000
    s.bar0Reg r f off w = match w with
      | some v =>
        if word = 0x018 ∨ word = 0x020 ∨ word = 0x028 then s.hostLogAdd r stRANGE 4 f 0 off
        else s.noted (s.writeDmaChan (s.fnAgent r f) r c word v)
      | none => State.bar0Value r f (s, s.readDmaChan r c word) := by
  obtain ⟨hlo, hhi⟩ := h
  exact (if_neg (by omega)).trans ((if_neg (by omega)).trans ((if_pos ⟨hlo, hhi⟩).trans (if_neg (not_not.2 howner))))

theorem bar0Reg_coll (w : Option W64) (h : inCollPages off) (howner : s.ownerOf r 1 ((off - 0x200000) / 0x1000) = some f) :
    let c := (off - 0x200000) / 0x1000
    s.bar0Reg r f off w = match w with
      | some v => s.noted (s.writeCollChan (s.fnAgent r f) r c (off % 0x1000) v)
      | none => State.bar0Value r f (s, s.readCollChan r c (off % 0x1000)) := by
  obtain ⟨hlo, hhi⟩ := h
  exact (if_neg (by omega)).trans ((if_neg (by omega)).trans ((if_neg (by omega)).trans ((if_pos ⟨hlo, hhi⟩).trans
    (if_neg (not_not.2 howner)))))

theorem bar0Reg_hole (w : Option W64) (hlo : 0x1040 ≤ off) (hd : ¬ inDmaPages off) (hc : ¬ inCollPages off) :
    s.bar0Reg r f off w = match w with
      | some _ => s
      | none => State.bar0Value r f (s, 0) :=
  (if_neg (by omega)).trans ((if_neg (by omega)).trans ((if_neg hd).trans (if_neg hc)))

variable {size : Nat} (w : Option W64)

theorem bar0Peg_unowned (h : s.pegGranted r f ((off - 0x400000) / 64) = false) : s.bar0Peg r f off size w = s.bar0Unowned r f off size w :=
  if_pos (by rw [h]; rfl)

variable (h : s.pegGranted r f ((off - 0x400000) / 64) = true)
include h

theorem pegGranted_not : ¬ (!s.pegGranted r f ((off - 0x400000) / 64)) = true := by
  rw [h]
  decide

theorem bar0Peg_misaligned (hs : size ≠ 8 ∨ off % 8 ≠ 0) : s.bar0Peg r f off size w =
    let s := s.hostLogAdd r stRANGE 3 f 0 off
    if w.isSome then s else s.completed r f .unsupported false [] := (if_neg (pegGranted_not h)).trans (if_pos hs)

variable (hs : size = 8) (ha : off % 8 = 0)
include hs ha

theorem bar0Peg_write (v : W64) : s.bar0Peg r f off size (some v) = s.pegStore (s.fnAgent r f) ((off - 0x400000) / 64) (off % 64) v :=
  (if_neg (pegGranted_not h)).trans (if_neg (by omega))

theorem bar0Peg_readLost (hl : s.regionLive (pegHome ((off - 0x400000) / 64)) = false) :
    s.bar0Peg r f off size none = s.completed r f .success true (List.replicate 8 0) :=
  (if_neg (pegGranted_not h)).trans ((if_neg (by omega)).trans (if_pos (by rw [hl]; rfl)))

theorem bar0Peg_read {u : State} {x : W64} {bad : Bool} (hl : s.regionLive (pegHome ((off - 0x400000) / 64)) = true)
    (hload : s.pegLoad (s.fnAgent r f) ((off - 0x400000) / 64) (off % 64) = (u, x, bad)) :
    s.bar0Peg r f off size none = u.completed r f .success false (leBytes 8 x.toNat) := by
  refine (if_neg (pegGranted_not h)).trans ((if_neg (by omega)).trans ((if_neg (by rw [hl]; decide)).trans ?_))
  rw [hload]

end Units

/-! ### Peg atomics (R222, R407) -/

section PegAtomic
variable {s : State} {r f off size : Nat} {v : W64}

/-- The record of an atomic that its peg discards. -/
def State.pegDiscarded (s : State) (r f off : Nat) : State :=
  s.log (pegHome ((off - 0x400000) / 64)) stRANGE 6 (s.fnAgent r f).code (pegAddr ((off - 0x400000) / 64) (off % 64)) 0

/-- A peg atomic is refused; one on the CAS view is discarded at the peg's home first. -/
def State.pegAtomicRefused (s : State) (r f off size : Nat) : State :=
  ((if size = 8 ∧ off % 64 = 0x30 then s.pegDiscarded r f off else s).hostLogAdd r stRANGE 3 f 0 off).completed r f .unsupported false []

theorem hostPegAtomic_closed (op : AtomOp) (h : s.barOpen r f = false ∨ off < 0x400000) :
    s.hostPegAtomic r f off size op v = s.completed r f .unsupported false [] :=
  if_pos (h.imp_left fun h => by rw [h]; rfl)

variable (h : s.barOpen r f = true) (hoff : 0x400000 ≤ off)
include h hoff

theorem pegSpace_not : ¬ ((!s.barOpen r f) = true ∨ off < 0x400000) := not_or.2 ⟨barOpen_not h, Nat.not_lt.2 hoff⟩

theorem hostPegAtomic_unowned (op : AtomOp) (hg : s.pegGranted r f ((off - 0x400000) / 64) = false) :
    s.hostPegAtomic r f off size op v = s.bar0Unowned r f off size none :=
  (if_neg (pegSpace_not h hoff)).trans (if_pos (by rw [hg]; rfl))

variable (hg : s.pegGranted r f ((off - 0x400000) / 64) = true)
include hg

theorem hostPegAtomic_cas (c : W64) : s.hostPegAtomic r f off size (.cas c) v =
    if size = 8 ∧ off % 64 = 0 then (s.pegDiscarded r f off).completed r f .unsupported false [] else s.pegAtomicRefused r f off size := by
  refine (if_neg (pegSpace_not h hoff)).trans ((if_neg (pegGranted_not hg)).trans ?_)
  by_cases hs : size = 8 ∧ off % 64 = 0
  · exact (if_neg (by omega)).trans (if_pos hs).symm
  · exact (if_pos (by omega)).trans (if_neg hs).symm

theorem hostPegAtomic_amo (o : AmoOp) : s.hostPegAtomic r f off size (.amo o) v = s.pegAtomicRefused r f off size :=
  (if_neg (pegSpace_not h hoff)).trans (if_neg (pegGranted_not hg))

theorem hostPegAtomic_fetchAdd : s.hostPegAtomic r f off size .fetchAdd v =
    if size ≠ 8 ∨ off % 64 ≠ 0 then s.pegAtomicRefused r f off size
    else if !s.regionLive (pegHome ((off - 0x400000) / 64)) then s.completed r f .success true (List.replicate 8 0)
    else (s.pegAdd (s.fnAgent r f) ((off - 0x400000) / 64) v).completed r f .success false
      (leBytes 8 (s.peg ((off - 0x400000) / 64)).value.toNat) :=
  (if_neg (pegSpace_not h hoff)).trans (if_neg (pegGranted_not hg))

theorem hostPegAtomic_swap : s.hostPegAtomic r f off size .swap v =
    if size ≠ 8 ∨ off % 64 ≠ 0 then s.pegAtomicRefused r f off size
    else if !s.regionLive (pegHome ((off - 0x400000) / 64)) then s.completed r f .success true (List.replicate 8 0)
    else (s.pegSet (s.fnAgent r f) ((off - 0x400000) / 64) v).completed r f .success false
      (leBytes 8 (s.peg ((off - 0x400000) / 64)).value.toNat) :=
  (if_neg (pegSpace_not h hoff)).trans (if_neg (pegGranted_not hg))

end PegAtomic

/-! ### BAR2 (R408 to R410) -/

section Bar2
variable {s : State} {r f off : Nat}

/-- An access lies inside an open BAR2. -/
def State.bar2Open (s : State) (r f off len : Nat) : Prop := s.barOpen r f = true ∧ off + len ≤ 2 ^ (s.hostFunction r f).bar2Log2

theorem bar2Open_not {len : Nat} : ((!s.barOpen r f) = true ∨ (!s.bar2Inside r f off len) = true) ↔ ¬ s.bar2Open r f off len := by
  unfold State.bar2Open State.bar2Inside
  rw [Bool.not_eq_true', Bool.not_eq_true', decide_eq_false_iff_not, ← Bool.not_eq_true, ← not_and_or]

section Read
variable {len : Nat}

theorem bar2Read_closed (h : ¬ s.bar2Open r f off len) : s.bar2Read r f off len = some (s.completed r f .unsupported false []) :=
  if_pos (bar2Open_not.2 h)

variable (h : s.bar2Open r f off len)
include h

theorem bar2Read_refused (hr : s.bar2Refused f (s.bar2Addr r f off) len = true) : s.bar2Read r f off len =
    some ((s.hostLogAdd r stRANGE 3 f 0 (s.bar2Addr r f off)).completed r f .abort false []) :=
  (if_neg (not_not.2 h ∘ bar2Open_not.1)).trans (if_pos hr)

variable (hr : s.bar2Refused f (s.bar2Addr r f off) len = false)
include hr

theorem bar2Read_reply {u : State} {st : Nat} {bs : List Byte}
    (hs : s.serveRead (s.fnAgent r f) (s.bar2Addr r f off) len = .reply u st bs) :
    s.bar2Read r f off len = some (u.completed r f .success (st == stPOISON) bs) := by
  refine (if_neg (not_not.2 h ∘ bar2Open_not.1)).trans ((if_neg (by rw [hr]; decide)).trans ?_)
  rw [hs]

theorem bar2Read_waits (hs : s.serveRead (s.fnAgent r f) (s.bar2Addr r f off) len = .wait) : s.bar2Read r f off len = none := by
  refine (if_neg (not_not.2 h ∘ bar2Open_not.1)).trans ((if_neg (by rw [hr]; decide)).trans ?_)
  rw [hs]

end Read

section Write
variable {data : List Byte} {ep : Bool}

theorem bar2Write_closed (h : ¬ s.bar2Open r f off data.length) : s.bar2Write r f off data ep = some s := if_pos (bar2Open_not.2 h)

variable (h : s.bar2Open r f off data.length)
include h

theorem bar2Write_refused (hr : s.bar2Refused f (s.bar2Addr r f off) data.length = true) : s.bar2Write r f off data ep =
    some (s.hostLogAdd r stRANGE 3 f 0 (s.bar2Addr r f off)) := (if_neg (not_not.2 h ∘ bar2Open_not.1)).trans (if_pos hr)

variable (hr : s.bar2Refused f (s.bar2Addr r f off) data.length = false)
include hr

theorem bar2Write_reply {u : State} {st : Nat} {bs : List Byte}
    (hs : s.serveWrite (s.fnAgent r f) (s.bar2Addr r f off) data none = .reply u st bs) :
    s.bar2Write r f off data ep = some (if ep = true ∧ st = stOK then u.poisonWords (s.bar2Addr r f off) data.length else u) := by
  refine (if_neg (not_not.2 h ∘ bar2Open_not.1)).trans ((if_neg (by rw [hr]; decide)).trans ?_)
  rw [hs]
  dsimp only
  simp only [Bool.and_eq_true, beq_iff_eq]

theorem bar2Write_waits (hs : s.serveWrite (s.fnAgent r f) (s.bar2Addr r f off) data none = .wait) : s.bar2Write r f off data ep = none := by
  refine (if_neg (not_not.2 h ∘ bar2Open_not.1)).trans ((if_neg (by rw [hr]; decide)).trans ?_)
  rw [hs]

end Write

section Atomic
variable {size : Nat} {op : AtomOp} {v : W64}

/-- The atomics that BAR2 takes: FetchAdd, Swap and CAS of 4 or 8 bytes. -/
def atomicListed (size : Nat) (op : AtomOp) : Prop := (size = 4 ∨ size = 8) ∧ ∀ o, op ≠ .amo o

theorem atomicListed_iff : (match op with | .amo _ => false | _ => size == 4 || size == 8) = true ↔ atomicListed size op := by
  unfold atomicListed
  cases op <;> simp

theorem bar2Atomic_closed (h : ¬ s.bar2Open r f off size) :
    s.bar2Atomic r f off size op v = some (s.completed r f .unsupported false []) := if_pos (bar2Open_not.2 h)

variable (h : s.bar2Open r f off size)
include h

theorem bar2Atomic_unlisted (hl : ¬ atomicListed size op ∨ s.bar2Addr r f off % size ≠ 0) : s.bar2Atomic r f off size op v =
    some ((s.hostLogAdd r stRANGE 3 f 0 (s.bar2Addr r f off)).completed r f .unsupported false []) :=
  (if_neg (not_not.2 h ∘ bar2Open_not.1)).trans (if_pos (hl.imp_left fun hl => by
    rw [Bool.not_eq_true', ← Bool.not_eq_true]
    exact mt atomicListed_iff.1 hl))

variable (hl : atomicListed size op) (ha : s.bar2Addr r f off % size = 0)
include hl ha

theorem bar2Atomic_listed : s.bar2Atomic r f off size op v =
    if s.bar2Refused f (s.bar2Addr r f off) size then
      some ((s.hostLogAdd r stRANGE 3 f 0 (s.bar2Addr r f off)).completed r f .abort false [])
    else match s.serveAtomic (s.fnAgent r f) (s.bar2Addr r f off) size op v.toNat with
      | .reply s st bs => some (s.completed r f .success (st != stOK) bs)
      | .wait => none
      | .pass .. => some s :=
  (if_neg (not_not.2 h ∘ bar2Open_not.1)).trans (if_neg (not_or.2 ⟨by
    rw [Bool.not_eq_true', Bool.not_eq_false]
    exact atomicListed_iff.2 hl, not_not.2 ha⟩))

theorem bar2Atomic_refused (hr : s.bar2Refused f (s.bar2Addr r f off) size = true) : s.bar2Atomic r f off size op v =
    some ((s.hostLogAdd r stRANGE 3 f 0 (s.bar2Addr r f off)).completed r f .abort false []) :=
  (bar2Atomic_listed h hl ha).trans (if_pos hr)

variable (hr : s.bar2Refused f (s.bar2Addr r f off) size = false)
include hr

theorem bar2Atomic_reply {u : State} {st : Nat} {bs : List Byte}
    (hs : s.serveAtomic (s.fnAgent r f) (s.bar2Addr r f off) size op v.toNat = .reply u st bs) :
    s.bar2Atomic r f off size op v = some (u.completed r f .success (st != stOK) bs) := by
  refine (bar2Atomic_listed h hl ha).trans ((if_neg (by rw [hr]; decide)).trans ?_)
  rw [hs]

theorem bar2Atomic_waits (hs : s.serveAtomic (s.fnAgent r f) (s.bar2Addr r f off) size op v.toNat = .wait) :
    s.bar2Atomic r f off size op v = none := by
  refine (bar2Atomic_listed h hl ha).trans ((if_neg (by rw [hr]; decide)).trans ?_)
  rw [hs]

end Atomic

end Bar2

/-- Settles O46: which page, peg or address the offset names, and who owns it. -/
theorem hostsReachTheirFunctions : Obligations.HostsReachTheirFunctions := by
  unfold Obligations.HostsReachTheirFunctions
  intro s r f off hp hr hf hin ans done logged ag zeros value n
  have hfn : (okR r && okFn f) = true := by simp [okR, okFn, hr, hf]
  refine ⟨fun size hpos hmax => ?bar0, fun size op v hpos hmax => ?atomic, ?bar2⟩
  case bar0 =>
    have hbar (size : Nat) (hpos : 0 < size) (hmax : size ≤ 4096) (w : Option W64) {u : State} (hu : s.bar0Access r f off size w = u) :
        exec (.hostBar0Access r f off size w) s = ans u :=
      (exec_hostBar0Access r f off size w s (by simp [Instr.wf, hfn, okTlp, hpos, hmax]) hp).trans
        (congrArg _ (arrive_performed hin (congrArg some hu)))
    have hexec (w : Option W64) {u : State} (hu : s.bar0Access r f off size w = u) := hbar size hpos hmax w hu
    intro rd wr unowned
    refine ⟨fun h => ⟨hexec none (bar0Access_closed none h), fun v => hexec (some v) (bar0Access_closed (some v) h)⟩, fun h => ?_⟩
    intro dma coll foreign
    have hunowned (hu : ∀ w, s.bar0Access r f off size w = s.bar0Unowned r f off size w) : unowned :=
      ⟨hexec none (hu none), fun v => hexec (some v) (hu (some v))⟩
    refine ⟨fun hforeign => hunowned fun w => bar0Access_foreign h w hforeign,
      fun hoff hg => hunowned fun w => (bar0Access_peg h w hoff).trans (bar0Peg_unowned w hg), fun hoff hg => ?pegs, fun hs ha => ?regs,
      fun hs hdma hw hforeign v => ?doorbell, fun hoff hlo hdma hcoll => ?hole, fun hpages hforeign hodd => ?odd⟩
    case pegs =>
      have hpeg (w : Option W64) {u : State} (hu : s.bar0Peg r f off size w = u) := hexec w ((bar0Access_peg h w hoff).trans hu)
      refine ⟨fun hs => ⟨hpeg none (bar0Peg_misaligned none hg hs), fun v => hpeg (some v) (bar0Peg_misaligned (some v) hg hs)⟩,
        fun hs ha => ⟨fun v => hpeg (some v) (bar0Peg_write hg hs ha v), fun hl => hpeg none (bar0Peg_readLost hg hs ha hl),
          fun u x bad hl hload => hpeg none (bar0Peg_read hg hs ha hl hload)⟩⟩
    case regs =>
      have hreg (hlow : off < 0x400000) (hf : ¬ s.foreignPage r f off) (w : Option W64) {u : State} (hu : s.bar0Reg r f off w = u) :=
        hexec w ((bar0Access_aligned h hlow hf w ⟨hs, ha⟩).trans hu)
      refine ⟨fun hpage => ?page, fun hlo hhi => ?arm, fun hdma => ?dma, fun hcoll => ?coll⟩
      case page =>
        have hf : ¬ s.foreignPage r f off := by
          rintro (⟨⟨hlo, -⟩, -⟩ | ⟨⟨hlo, -⟩, -⟩) <;> omega
        exact ⟨hreg (by omega) hf none (bar0Reg_page none hpage), fun v => hreg (by omega) hf (some v) (bar0Reg_page (some v) hpage)⟩
      case arm =>
        have hf : ¬ s.foreignPage r f off := by
          rintro (⟨⟨hlo, -⟩, -⟩ | ⟨⟨hlo, -⟩, -⟩) <;> omega
        refine ⟨fun v => hreg (by omega) hf (some v) (bar0Reg_arm (some v) hlo hhi), fun u x hload => hreg (by omega) hf none ?_⟩
        rw [bar0Reg_arm none hlo hhi, hload]
        rfl
      case dma =>
        intro c w howner
        have hf : ¬ s.foreignPage r f off := by
          rintro (⟨-, hne⟩ | ⟨⟨hlo, -⟩, -⟩)
          · exact hne howner
          · obtain ⟨-, hhi⟩ := hdma
            omega
        have hlow : off < 0x400000 := by
          obtain ⟨-, hhi⟩ := hdma
          omega
        exact ⟨hreg hlow hf none (bar0Reg_dma none hdma howner), fun v => hreg hlow hf (some v) (bar0Reg_dma (some v) hdma howner)⟩
      case coll =>
        intro c w howner
        have hf : ¬ s.foreignPage r f off := by
          rintro (⟨⟨-, hhi⟩, -⟩ | ⟨-, hne⟩)
          · obtain ⟨hlo, -⟩ := hcoll
            omega
          · exact hne howner
        have hlow : off < 0x400000 := by
          obtain ⟨-, hhi⟩ := hcoll
          omega
        exact ⟨hreg hlow hf none (bar0Reg_coll none hcoll howner), fun v => hreg hlow hf (some v) (bar0Reg_coll (some v) hcoll howner)⟩
    case doorbell =>
      have hlow : off < 0x400000 := by
        obtain ⟨-, hhi⟩ := hdma
        omega
      exact (hexec (some v) (bar0Access_doorbell h hlow hforeign v ⟨hs, hdma, hw⟩)).trans
        (hbar 8 (by decide) (by decide) (some (v &&& 0xFFFFFFFF)) rfl).symm
    case hole =>
      have hf : ¬ s.foreignPage r f off := by
        rintro (⟨hd, -⟩ | ⟨hc, -⟩)
        · exact hdma hd
        · exact hcoll hc
      by_cases hs : size = 8 ∧ off % 8 = 0
      · have hreg (w : Option W64) {u : State} (hu : s.bar0Reg r f off w = u) := hexec w ((bar0Access_aligned h hoff hf w hs).trans hu)
        have hzero : zeros size = leBytes 8 (0 : W64).toNat := by
          rw [hs.1]
          rfl
        rw [hzero]
        exact ⟨hreg none (bar0Reg_hole none hlo hdma hcoll), fun v => hreg (some v) (bar0Reg_hole (some v) hlo hdma hcoll)⟩
      · have hodd (w : Option W64) := (bar0Access_odd h hoff hf hs w fun ⟨⟨_, hd, _⟩, _⟩ => hdma hd).trans
          (if_neg (mt bar0Pages_iff.1 (not_or.2 ⟨Nat.not_lt.2 hlo, not_or.2 ⟨hdma, hcoll⟩⟩)))
        exact ⟨hexec none (hodd none), fun v => hexec (some v) (hodd (some v))⟩
    case odd =>
      intro u
      have hlow : off < 0x400000 := by
        rcases hpages with hlo | ⟨-, hhi⟩ | ⟨-, hhi⟩ <;> omega
      have hs : ¬ (size = 8 ∧ off % 8 = 0) := by omega
      exact ⟨hexec none (bar0Access_misaligned h hlow hforeign hs none (fun ⟨_, hsome⟩ => by cases hsome) hpages),
        fun hd v => hexec (some v) (bar0Access_misaligned h hlow hforeign hs (some v) (fun ⟨hdoor, _⟩ => hd hdoor) hpages)⟩
  case atomic =>
    intro go lost refused old
    have hexec {u : State} (hu : s.hostPegAtomic r f off size op v = u) : go = ans u :=
      (exec_hostPegAtomic r f off size op v s (by simp [Instr.wf, hfn, okTlp, hpos, hmax]) hp).trans
        (congrArg _ (arrive_performed hin (congrArg some hu)))
    refine ⟨fun h => hexec (hostPegAtomic_closed op h), fun h hoff => ⟨fun hg => hexec (hostPegAtomic_unowned h hoff op hg), fun hg =>
      ⟨?cas, ?amo, fun hop => ⟨fun hs => ?misaligned, fun hs ha => ⟨fun hl => ?lost, fun hl => ⟨?add, ?swap⟩⟩⟩⟩⟩⟩
    case cas =>
      rintro c rfl
      exact hexec (hostPegAtomic_cas h hoff hg c)
    case amo =>
      rintro o rfl
      exact hexec (hostPegAtomic_amo h hoff hg o)
    case misaligned =>
      rcases hop with rfl | rfl
      · exact hexec ((hostPegAtomic_fetchAdd h hoff hg).trans (if_pos hs))
      · exact hexec ((hostPegAtomic_swap h hoff hg).trans (if_pos hs))
    case lost =>
      have hl' : (!s.regionLive (pegHome n)) = true := by
        rw [hl]
        rfl
      rcases hop with rfl | rfl
      · exact hexec ((hostPegAtomic_fetchAdd h hoff hg).trans ((if_neg (by omega)).trans (if_pos hl')))
      · exact hexec ((hostPegAtomic_swap h hoff hg).trans ((if_neg (by omega)).trans (if_pos hl')))
    case add =>
      rintro rfl
      exact hexec ((hostPegAtomic_fetchAdd h hoff hg).trans ((if_neg (by omega)).trans (if_neg (by rw [hl]; decide))))
    case swap =>
      rintro rfl
      exact hexec ((hostPegAtomic_swap h hoff hg).trans ((if_neg (by omega)).trans (if_neg (by rw [hl]; decide))))
  case bar2 =>
    intro a open_
    refine ⟨fun len hlen => ?read, fun data ep ro hlen => ?write, fun size op v hpos hmax => ?atomics⟩
    case read =>
      have hexec := exec_hostBar2Read r f off len s (by simp [Instr.wf, hfn, hlen]) hp
      have hdone {u : State} (hu : s.bar2Read r f off len = some u) := hexec.trans (congrArg _ (arrive_performed hin hu))
      exact ⟨fun h => hdone (bar2Read_closed h), fun h hr => hdone (bar2Read_refused h hr),
        fun u st bs h hr hs => hdone (bar2Read_reply h hr hs),
        fun h hr hs => hexec.trans (congrArg _ (arrive_waits hin (bar2Read_waits h hr hs)))⟩
    case write =>
      have hexec := exec_hostBar2Write r f off data ⟨ep, ro⟩ s (by simp [Instr.wf, hfn, hlen]) hp
      have hdone {u : State} (hu : s.bar2Write r f off data ep = some u) := hexec.trans (congrArg _ (arrive_performed hin hu))
      exact ⟨fun h => hdone (bar2Write_closed h), fun h hr => hdone (bar2Write_refused h hr),
        fun u st bs h hr hs => hdone (bar2Write_reply h hr hs),
        fun h hr hs => hexec.trans (congrArg _ (arrive_waits hin (bar2Write_waits h hr hs)))⟩
    case atomics =>
      have hexec := exec_hostBar2Atomic r f off size op v s (by simp [Instr.wf, hfn, okTlp, hpos, hmax]) hp
      have hdone {u : State} (hu : s.bar2Atomic r f off size op v = some u) := hexec.trans (congrArg _ (arrive_performed hin hu))
      exact ⟨fun h => hdone (bar2Atomic_closed h), fun h hl => hdone (bar2Atomic_unlisted h hl),
        fun h hl ha hr => hdone (bar2Atomic_refused h hl ha hr),
        fun h hl ha hr hs => hexec.trans (congrArg _ (arrive_waits hin (bar2Atomic_waits h hl ha hr hs))),
        fun u st bs h hl ha hr hs => hdone (bar2Atomic_reply h hl ha hr hs)⟩

end Sys2Proof.Machine

/-!
PROOFS. Host ports: links, functions, ownership and host loss (R403, R408, R412, R413, R418 to R423): O45.
-/
namespace Sys2Proof.Machine

/-! ### A block in RESET that settles what it owes leaves the module's number as it is (R185) -/

theorem wrNat_fixed (s : State) (a n v : Nat) : (s.wrNat a n v).fixed = s.fixed :=
  Prod.ext (State.wrNat_power s a n v) (State.wrNat_moduleId s a n v)

theorem setReg_fixed (s : State) (g : Reg) (v : W64) : (s.setReg g v).fixed = s.fixed := rfl

theorem updBlock_fixed (s : State) (b : Nat) (f : Block → Block) : (s.updBlock b f).fixed = s.fixed := rfl

theorem noteCompletion_fixed (s : State) (tag st rows : Nat) : (s.noteCompletion tag st rows).fixed = s.fixed := by
  unfold State.noteCompletion
  split
  · split <;> rfl
  · rfl

theorem cplSignals_fixed (s : State) (b e : Nat) (r : Run) : (s.cplSignals b e r).fixed = s.fixed := by
  unfold State.cplSignals
  extract_lets st c u v w
  have hv : v.fixed = s.fixed := by
    dsimp only [v]
    split
    · rfl
    · split <;> rfl
  have hw : w.fixed = s.fixed := (noteCompletion_fixed v _ _ _).trans hv
  split
  · exact (signalPeg_fixed ..).trans hw
  · exact hw

theorem recordWake_fixed (s : State) (b : Nat) : (s.recordWake b).fixed = s.fixed := by
  rw [recordWake_frame]
  rfl

theorem completionWrite_fixed (s : State) (b e : Nat) : (s.completionWrite b e).fixed = s.fixed := by
  refine Eq.trans ?_ (show (s.gsFinish b).fixed = s.fixed from updBlock_fixed ..)
  unfold State.completionWrite
  extract_lets u
  split
  · split
    · rfl
    · split
      · exact cplSignals_fixed ..
      · split
        · split
          · exact cplSignals_fixed ..
          · rfl
        · exact (cplSignals_fixed ..).trans ((recordWake_fixed ..).trans ((setReg_fixed ..).trans (wrNat_fixed ..)))
  · rfl

theorem finishCompletions_fixed (s : State) (b : Nat) : (s.finishCompletions b).fixed = s.fixed :=
  foldl_fixed _ _ (fun u e => foldl_fixed _ _ (fun v _ => completionWrite_fixed v b e) u) s

theorem addPoison_fixed (s : State) (w : Nat) : (s.addPoison w).fixed = s.fixed := by
  unfold State.addPoison
  split <;> rfl

theorem loseCache_fixed (s : State) (k : Nat) : (s.loseCache k).fixed = s.fixed := by
  unfold State.loseCache
  extract_lets owned mine flight back u v w x
  have hu : u.fixed = s.fixed := foldl_fixed _ _ (fun y t => by
    split
    · exact homeStore_fixed ..
    · rfl) s
  have hx : x.fixed = w.fixed := foldl_fixed _ _ (fun y l => (bump_fixed ..).trans (foldl_fixed _ _ (fun z i => addPoison_fixed z _) y)) w
  have hw : w.fixed = u.fixed := rfl
  exact (startAll_fixed x 3).trans (hx.trans (hw.trans hu))

theorem zeroRegs_fixed (s : State) (l : List Reg) : (s.zeroRegs l).fixed = s.fixed := by
  rw [(zeroRegs_all l s).1]
  rfl

theorem releaseBlock_fixed (s : State) (b : Nat) : (s.releaseBlock b).fixed = s.fixed := (zeroRegs_fixed ..).trans (updBlock_fixed ..)

theorem resetSeq_fixed (s : State) (b : Nat) : (s.resetSeq b).fixed = s.fixed := by
  unfold State.resetSeq
  extract_lets h u v
  have hv : v.fixed = u.fixed := loseCache_fixed u h
  exact hv

theorem dropGsReads_fixed (s : State) (b : Nat) : (s.dropGsReads b).fixed = s.fixed := rfl

theorem releaseReset_fixed (s : State) (b : Nat) : (s.releaseReset b).fixed = s.fixed :=
  (dropGsReads_fixed ..).trans ((resetSeq_fixed ..).trans (releaseBlock_fixed s b))

theorem blockOut_fixed (s : State) (b : Nat) : (s.blockOut b).fixed = s.fixed := by
  unfold State.blockOut
  split
  · rfl
  · dsimp only
    split
    · exact (releaseReset_fixed ..).trans (finishCompletions_fixed s b)
    · exact finishCompletions_fixed s b

/-! ### Links (R400, R418, R419) -/

section Links
variable {s : State} {r k : Nat} {l : HostLink}

/-- The port with a sub-port replaced. -/
def HostPort.withSub (h : HostPort) (k : Nat) (y : SubPort) : HostPort := { h with subs := h.subs.set k y }

/-- A sub-port whose link has reached L0. -/
def SubPort.linked (x : SubPort) (l : HostLink) (capacity : Nat) : SubPort :=
  { x with link := 2, speed := l.speed, width := l.width, cxl := l.cxl, present := true, capacity := capacity }

/-- A sub-port with nothing below it. -/
def SubPort.emptied (x : SubPort) : SubPort :=
  { x with link := 0, speed := 0, width := 0, cxl := false, present := false, reachable := false }

/-- A rate and a width that the port can train. -/
def HostPort.trains (h : HostPort) (l : HostLink) : Prop :=
  (1 ≤ l.speed ∧ l.speed ≤ 6 ∧ 1 ≤ l.width ∧ l.width * 2 ^ h.bifurc ≤ 16) ∧
    (l.cxl = true → 5 ≤ l.speed ∧ (h.endpoint = true → h.cxlT2 = true))

theorem linkFits_iff : s.linkFits r l = true ↔ (s.hostPort r).trains l := by
  show (_ && (!l.cxl || (_ && (!(s.hostPort r).endpoint || _)))) = true ↔ (_ ∧ _)
  rw [Bool.and_eq_true, decide_eq_true_eq, Bool.or_eq_true_iff, Bool.not_eq_true', ← Bool.not_eq_true, ← imp_iff_not_or, Bool.and_eq_true,
    decide_eq_true_eq, Bool.or_eq_true_iff, Bool.not_eq_true', ← Bool.not_eq_true, ← imp_iff_not_or]

theorem hostLinkUp_trains (he : (s.hostPort r).endpoint = true) (hd : (s.hostPort r).ep = .down) (hl : (s.hostPort r).trains l) :
    s.hostLinkUp r l = s.setHost r { (s.hostPort r).withSub 0 (((s.hostPort r).subs.get {} 0).linked l 0) with ep := .up } :=
  (if_pos ⟨he, hd, linkFits_iff.2 hl⟩).trans (updHost_setHost ..)

theorem hostLinkUp_stays (h : (s.hostPort r).endpoint = false ∨ (s.hostPort r).ep ≠ .down ∨ ¬ (s.hostPort r).trains l) :
    s.hostLinkUp r l = s := by
  refine if_neg fun ⟨he, hd, hl⟩ => ?_
  rcases h with h | h | h
  · rw [he] at h
    cases h
  · exact h hd
  · exact h (linkFits_iff.1 hl)

theorem rootLinkUp_trains (he : (s.hostPort r).endpoint = false) (hk : k < 2 ^ (s.hostPort r).bifurc) (hl : (s.hostPort r).trains l) :
    s.rootLinkUp r k l = s.setHost r ((s.hostPort r).withSub k (((s.hostPort r).subs.get {} k).linked l l.capacity)) :=
  if_neg (not_or.2 ⟨by rw [he]; decide, not_or.2 ⟨Nat.not_le.2 hk, by rw [linkFits_iff.2 hl]; decide⟩⟩)

theorem rootLinkUp_stays (h : (s.hostPort r).endpoint = true ∨ 2 ^ (s.hostPort r).bifurc ≤ k ∨ ¬ (s.hostPort r).trains l) :
    s.rootLinkUp r k l = s :=
  if_pos (h.imp_right (Or.imp_right fun hl => by
    rw [Bool.not_eq_true', ← Bool.not_eq_true]
    exact mt linkFits_iff.1 hl))

/-- A request to the expander below sub-port `k`. -/
def HostPort.below (h : HostPort) (r k : Nat) (q : OutReq) : Bool :=
  q.dest == .t4 r && (match placeRaw q.addr with | .t4 _ off => t4Decode h.subs off == some k | _ => false)

theorem rootLinkDown_lost (he : (s.hostPort r).endpoint = false) (hl : ((s.hostPort r).subs.get {} k).link ≠ 0) : s.rootLinkDown r k =
    ((s.setHost r ((s.hostPort r).withSub k ((s.hostPort r).subs.get {} k).emptied)).hostLogAdd r
      (Config.hostLogStatus 6) 6 k 0 0).discardWhere stPEER_LOST ((s.hostPort r).below r k) :=
  if_neg (not_or.2 ⟨by rw [he]; decide, hl⟩)

theorem rootLinkDown_stays (h : (s.hostPort r).endpoint = true ∨ ((s.hostPort r).subs.get {} k).link = 0) : s.rootLinkDown r k = s :=
  if_pos h

theorem rpEnable_linked {v : W64} (hv : v.getLsbD 0 = true) (he : (s.hostPort r).endpoint = false)
    (hl : ((s.hostPort r).subs.get {} k).link = 2) : s.rpEnable r k v =
      s.setHost r ((s.hostPort r).withSub k { (s.hostPort r).subs.get {} k with reachable := true }) :=
  if_pos ⟨hv, by rw [he]; rfl, hl⟩

theorem rpEnable_stays {v : W64} (h : v.getLsbD 0 = false ∨ (s.hostPort r).endpoint = true ∨ ((s.hostPort r).subs.get {} k).link ≠ 2) :
    s.rpEnable r k v = s := by
  refine if_neg fun ⟨hv, he, hl⟩ => ?_
  rcases h with h | h | h
  · exact absurd (hv.symm.trans h) (by decide)
  · rw [h] at he
    cases he
  · exact h hl

theorem linkRecovery_eq (s : State) (r k : Nat) : s.linkRecovery r k = if ((s.hostPort r).subs.get {} k).link = 0 then s
    else s.setHost r ((s.hostPort r).withSub k { (s.hostPort r).subs.get {} k with
      link := 2, recoveries := min 0xFFFFFFFF (((s.hostPort r).subs.get {} k).recoveries + 1) }) := rfl

end Links

/-! ### Functions (R403, R408, R413, R422) -/

section Functions
variable {s : State} {r f : Nat}

/-- The port with a function replaced. -/
def HostPort.withFn (h : HostPort) (f : Nat) (y : HostFn) : HostPort := { h with fns := h.fns.set f y }

theorem updFn_eq (s : State) (r f : Nat) (g : HostFn → HostFn) :
    s.updFn r f g = s.setHost r ((s.hostPort r).withFn f (g (s.hostFunction r f))) := rfl

theorem updFn_updFn (s : State) (r f : Nat) (g g' : HostFn → HostFn) : (s.updFn r f g).updFn r f g' = s.updFn r f fun x => g' (g x) := by
  have hport : (s.updFn r f g).hostPort r = (s.hostPort r).withFn f (g (s.hostFunction r f)) := host_set ..
  have hfn : (s.updFn r f g).hostFunction r f = g (s.hostFunction r f) := by
    unfold State.hostFunction
    rw [hport]
    exact Map.get_set_self ..
  rw [updFn_eq _ r f g', hport, hfn, updFn_eq s r f g, setHost_setHost, updFn_eq]
  unfold HostPort.withFn
  rw [Map.set_set]

theorem memEnableSet_up (he : (s.hostPort r).endpoint = true) (hu : (s.hostPort r).ep = .up) : s.memEnableSet r =
    s.setHost r { (s.hostPort r).withFn 0 { s.hostFunction r 0 with memEnable := true } with ep := .enabled } :=
  (if_pos ⟨he, hu⟩).trans (updHost_setHost ..)

theorem memEnableSet_stays (h : (s.hostPort r).endpoint = false ∨ (s.hostPort r).ep ≠ .up) : s.memEnableSet r = s :=
  if_neg fun ⟨he, hu⟩ => h.elim (fun h => absurd (he.symm.trans h) (by decide)) (absurd hu)

theorem memEnableClear_enabled (he : (s.hostPort r).endpoint = true) (hu : (s.hostPort r).ep = .enabled) : s.memEnableClear r =
    s.setHost r { (s.hostPort r).withFn 0 { s.hostFunction r 0 with memEnable := false } with ep := .up } :=
  (if_pos ⟨he, hu⟩).trans (updHost_setHost ..)

theorem memEnableClear_stays (h : (s.hostPort r).endpoint = false ∨ (s.hostPort r).ep ≠ .enabled) : s.memEnableClear r = s :=
  if_neg fun ⟨he, hu⟩ => h.elim (fun h => absurd (he.symm.trans h) (by decide)) (absurd hu)

/-- A function that exists, of an endpoint in UP or ENABLED. -/
def HostPort.serves (h : HostPort) (f : Nat) : Prop := h.endpoint = true ∧ f ≤ h.totalVfs ∧ (h.ep = .up ∨ h.ep = .enabled)

theorem configWrite_not : ((!s.fnExists r f) = true ∨ (!decide ((s.hostPort r).ep = .up ∨ (s.hostPort r).ep = .enabled)) = true) ↔
    ¬ (s.hostPort r).serves f := by
  unfold State.fnExists HostPort.serves
  rw [Bool.not_eq_true', Bool.not_eq_true', decide_eq_false_iff_not, ← Bool.not_eq_true, ← not_and_or, Bool.and_eq_true, decide_eq_true_eq,
    and_assoc]

/-- Memory Space Enable as a configuration write sets it: the PF's moves the port (Table 12.4). -/
def State.memEnableWrite (s : State) (r f : Nat) (b : Bool) : State :=
  if f = 0 then (if b then s.memEnableSet r else s.memEnableClear r) else s.updFn r f fun x => { x with memEnable := b }

theorem configWrite_absent (bm me : Option Bool) (size : Option Nat) (h : ¬ (s.hostPort r).serves f) : s.configWrite r f bm me size = s :=
  if_pos (configWrite_not.2 h)

variable (h : (s.hostPort r).serves f)
include h

theorem configWrite_busMaster (b : Bool) : s.configWrite r f (some b) none none = s.updFn r f fun x => { x with busMaster := b } :=
  if_neg (not_not.2 h ∘ configWrite_not.1)

theorem configWrite_size (n : Nat) : s.configWrite r f none none (some n) =
    if 30 ≤ n ∧ n ≤ 42 then s.updFn r f fun x => { x with bar2Log2 := n } else s := if_neg (not_not.2 h ∘ configWrite_not.1)

theorem configWrite_memEnable (b : Bool) : s.configWrite r f none (some b) none = s.memEnableWrite r f b :=
  if_neg (not_not.2 h ∘ configWrite_not.1)

theorem configWrite_all (b c : Bool) {n : Nat} (hf : f ≠ 0) (hmin : 30 ≤ n) (hmax : n ≤ 42) : s.configWrite r f (some b) (some c) (some n) =
    s.updFn r f fun x => { x with busMaster := b, bar2Log2 := n, memEnable := c } := by
  unfold State.configWrite
  rw [if_neg (not_not.2 h ∘ configWrite_not.1)]
  dsimp only
  rw [if_neg hf, if_pos ⟨hmin, hmax⟩, updFn_updFn, updFn_updFn]

end Functions

/-! ### The slide and the ownership words (R408, R412) -/

section OwnedWords
variable {s : State} {r f w : Nat} {v : W64} {ag : Agent}

/-- A slide that is no multiple of the BAR2 size, or runs past the top of the address space. -/
def State.slideBad (s : State) (r f : Nat) (v : W64) : Prop :=
  v.toNat % 2 ^ (s.hostFunction r f).bar2Log2 ≠ 0 ∨ 0x40000000000 < v.toNat + 2 ^ (s.hostFunction r f).bar2Log2

theorem slideWrite_closed (h : s.barOpen r f = false) : s.slideWrite r f v = s := if_pos (by rw [h]; rfl)

theorem slideWrite_bad (h : s.barOpen r f = true) (hb : s.slideBad r f v) : s.slideWrite r f v = s.hostLogAdd r stRANGE 3 f 0 0x008 :=
  (if_neg (by rw [h]; decide)).trans (if_pos hb)

theorem slideWrite_good (h : s.barOpen r f = true) (hb : ¬ s.slideBad r f v) :
    s.slideWrite r f v = s.updFn r f fun x => { x with slide := v } := (if_neg (by rw [h]; decide)).trans (if_neg hb)

/-- A bit of an ownership word changes whose resource is another function's, or busy. -/
def State.ownershipBusy (s : State) (r f w : Nat) (v : W64) : Prop :=
  ∃ i, i < 64 ∧ (v ^^^ s.reg (State.ownReg r f w)).getLsbD i = true ∧ (s.ownedByOther r f w i = true ∨ s.resourceIdle r w i = false)

theorem ownershipBusy_iff : (((List.range 64).filter fun i => bit (v ^^^ s.reg (State.ownReg r f w)) i).any fun i =>
    s.ownedByOther r f w i || !s.resourceIdle r w i) = true ↔ s.ownershipBusy r f w v := by
  simp only [List.any_eq_true, List.mem_filter, List.mem_range, Bool.or_eq_true, Bool.not_eq_true', and_assoc]
  rfl

variable (hword : w < 12)
include hword

theorem ownershipWrite_external (hk : ag.kind = .external) :
    s.ownershipWrite ag r f w v = s.hostLogAdd r stRANGE 4 f 0 (State.ownReg r f w % 0x100000000) :=
  (if_neg (Nat.not_lt.2 (Nat.le_of_lt_succ hword))).trans (if_pos hk)

theorem ownershipWrite_foreign (hk : ag.kind ≠ .external) (ho : ag.own = false ∨ ag.kind ≠ .core) :
    s.ownershipWrite ag r f w v = s.log r stRANGE 1 ag.code (State.ownReg r f w % 0x100000000) 0 :=
  (if_neg (Nat.not_lt.2 (Nat.le_of_lt_succ hword))).trans
    ((if_neg hk).trans (if_pos (ho.imp_left fun h => by rw [h]; rfl)))

variable (ho : ag.own = true) (hk : ag.kind = .core)
include ho hk

/-- What a core of the module writes. -/
theorem ownershipWrite_core : s.ownershipWrite ag r f w v =
    if w = 2 then s.setReg (State.ownReg r f w) (v &&& mask 32 0)
    else if w = 3 then s.setReg (State.ownReg r f w) (v &&& mask 31 0)
    else if (((List.range 64).filter fun i => bit (v ^^^ s.reg (State.ownReg r f w)) i).any fun i =>
      s.ownedByOther r f w i || !s.resourceIdle r w i) = true then s.log r stSTATE 1 ag.code (State.ownReg r f w % 0x100000000) 0
    else s.setReg (State.ownReg r f w) v :=
  (if_neg (Nat.not_lt.2 (Nat.le_of_lt_succ hword))).trans ((if_neg (by rw [hk]; decide)).trans
    (if_neg (not_or.2 ⟨by rw [ho]; decide, not_not.2 hk⟩)))

theorem ownershipWrite_pegRange (h : w = 2) : s.ownershipWrite ag r f w v = s.setReg (State.ownReg r f w) (v &&& 0x1FFFFFFFF) :=
  (ownershipWrite_core hword ho hk).trans (if_pos h)

theorem ownershipWrite_tag (h : w = 3) : s.ownershipWrite ag r f w v = s.setReg (State.ownReg r f w) (v &&& 0xFFFFFFFF) :=
  (ownershipWrite_core hword ho hk).trans ((if_neg (by omega)).trans (if_pos h))

theorem ownershipWrite_busy (h2 : w ≠ 2) (h3 : w ≠ 3) (hb : s.ownershipBusy r f w v) :
    s.ownershipWrite ag r f w v = s.log r stSTATE 1 ag.code (State.ownReg r f w % 0x100000000) 0 :=
  (ownershipWrite_core hword ho hk).trans ((if_neg h2).trans ((if_neg h3).trans (if_pos (ownershipBusy_iff.2 hb))))

theorem ownershipWrite_idle (h2 : w ≠ 2) (h3 : w ≠ 3) (hb : ¬ s.ownershipBusy r f w v) :
    s.ownershipWrite ag r f w v = s.setReg (State.ownReg r f w) v :=
  (ownershipWrite_core hword ho hk).trans ((if_neg h2).trans ((if_neg h3).trans (if_neg (mt ownershipBusy_iff.1 hb))))

end OwnedWords

/-! ### Host loss (R420 to R423) -/

section Loss
variable {s : State} {r f : Nat} {cause : LossCause}

/-- An endpoint that is in use. -/
def HostPort.inUse (h : HostPort) : Prop := h.ep = .up ∨ h.ep = .enabled

/-- The port as a host loss leaves it. -/
def HostPort.lost (h : HostPort) (cause : LossCause) (fret : Nat) : HostPort :=
  { h with
    ep := .resetting, lossCause := State.lossCode cause, lossCount := min 0xFFFF (h.lossCount + 1), lossFret := fret
    subs := if cause = .pfFlr then h.subs else h.subs.set 0 { recoveries := (h.subs.get {} 0).recoveries } }

/-- The steps of R421 for one function, with its meter tags. -/
def State.loseFn (s : State) (r f : Nat) : State := (s.fnLost r f).closeOwner f

theorem hostLoss_idle (h : (s.hostPort r).endpoint = false ∨ ¬ (s.hostPort r).inUse) : s.hostLoss r cause State.closeOwner = s := by
  unfold State.hostLoss
  rcases h with h | h
  · exact if_pos (by rw [h]; rfl)
  · refine ite_eq_left_iff.2 fun _ => ?_
    cases cause with
    | vfFlr => exact if_neg fun hvf => h hvf.1
    | perst => exact if_neg h
    | hotReset => exact if_neg h
    | linkDown => exact if_neg h
    | pfFlr => exact if_neg h

theorem hostLoss_vf (he : (s.hostPort r).endpoint = true) (h : (s.hostPort r).inUse ∧ 1 ≤ f ∧ f ≤ (s.hostPort r).totalVfs) :
    s.hostLoss r (.vfFlr f) State.closeOwner = (s.hostLogAdd r stHOST_LOST 5 f 0 0).loseFn r f :=
  (if_neg (by rw [he]; decide)).trans (if_pos h)

theorem hostLoss_noVf (he : (s.hostPort r).endpoint = true) (h : ¬ ((s.hostPort r).inUse ∧ 1 ≤ f ∧ f ≤ (s.hostPort r).totalVfs)) :
    s.hostLoss r (.vfFlr f) State.closeOwner = s := (if_neg (by rw [he]; decide)).trans (if_neg h)

theorem hostLoss_port (he : (s.hostPort r).endpoint = true) (hon : (s.hostPort r).inUse) (hc : ∀ f, cause ≠ .vfFlr f) :
    s.hostLoss r cause State.closeOwner = (List.range ((s.hostPort r).totalVfs + 1)).foldl (fun u f => u.loseFn r f)
      ((s.setHost r ((s.hostPort r).lost cause s.fret)).hostLogAdd r stHOST_LOST 5 0 0 0) := by
  refine (if_neg (by rw [he]; decide)).trans ?_
  cases cause with
  | vfFlr => exact absurd rfl (hc _)
  | perst => exact if_pos hon
  | hotReset => exact if_pos hon
  | linkDown => exact if_pos hon
  | pfFlr => exact if_pos hon

/-- The owned blocks of the port write what they owe. -/
def State.ownedOut (s : State) (r : Nat) : State :=
  (List.range 9).foldl (fun u f => (u.ownedBlocks r f).foldl (fun u b => u.blockOut b) u) s

theorem ownedOut_fixed (s : State) (r : Nat) : (s.ownedOut r).fixed = s.fixed :=
  foldl_fixed _ _ (fun u _ => foldl_fixed _ _ (fun v b => blockOut_fixed v b) u) s

/-- The port at the end of a host loss: UP after a PF reset with the link in L0, else DOWN. -/
def HostPort.recovered (h : HostPort) (l0 : Bool) : HostPort :=
  if h.lossCause = 4 ∧ l0 = true then { h with ep := .up }
  else { h with ep := .down, subs := h.subs.set 0 { recoveries := (h.subs.get {} 0).recoveries } }

/-- HOST_EVENT_PEG is signalled by the host port's agent of module `m`. -/
def State.hostEvent (u : State) (r m : Nat) : State :=
  if (u.reg (HOST_EVENT_PEG r)).getLsbD 18 then
    u.signalPeg (engineAgent m r 3) (bits (u.reg (HOST_EVENT_PEG r)) 15 0) (bits (u.reg (HOST_EVENT_PEG r)) 17 16) 1
  else u

/-- The port at the end of a host loss, field by field. -/
def HostPort.afterLoss (h : HostPort) (up : Bool) : HostPort :=
  { h with
    ep := if up then .up else .down
    subs := if up then h.subs else h.subs.set 0 { recoveries := (h.subs.get {} 0).recoveries } }

theorem afterLoss_eq (h : HostPort) (l0 : Bool) : h.afterLoss (h.lossCause == 4 && l0) = h.recovered l0 := by
  unfold HostPort.recovered
  by_cases hup : h.lossCause = 4 ∧ l0 = true
  · have hb : (h.lossCause == 4 && l0) = true := by rw [hup.1, hup.2]; rfl
    rw [if_pos hup, hb]
    rfl
  · have hb : (h.lossCause == 4 && l0) = false := by rwa [← Bool.not_eq_true, Bool.and_eq_true, beq_iff_eq]
    rw [if_neg hup, hb]
    rfl

theorem setHost_recovered (t : State) (r : Nat) (l0 : Bool) : t.setHost r ((t.hostPort r).recovered l0) =
    if (t.hostPort r).lossCause = 4 ∧ l0 = true then t.setHost r { t.hostPort r with ep := .up }
    else t.setHost r { t.hostPort r with
      ep := .down, subs := (t.hostPort r).subs.set 0 { recoveries := ((t.hostPort r).subs.get {} 0).recoveries } } :=
  apply_ite (t.setHost r) _ _ _

theorem hostLossDone_eq (s : State) (r : Nat) (l0 : Bool) : s.hostLossDone r l0 =
    if (s.hostPort r).ep ≠ .resetting then s
    else if (!(s.ownedOut r).lossSettled r) = true then s.ownedOut r
    else ((s.ownedOut r).setHost r (((s.ownedOut r).hostPort r).afterLoss (((s.ownedOut r).hostPort r).lossCause == 4 && l0))).hostEvent r
      (s.ownedOut r).moduleId := by
  unfold State.hostLossDone
  extract_lets t u up v p
  have ht : t = s.ownedOut r := rfl
  have hv : v = t.setHost r ((t.hostPort r).afterLoss ((t.hostPort r).lossCause == 4 && l0)) := rfl
  have hend : (if bit p 18 = true then v.signalPeg (v.hostAgent r) (bits p 15 0) (bits p 17 16) 1 else v) =
      v.hostEvent r v.moduleId := rfl
  have hm : v.moduleId = t.moduleId := State.setHost_moduleId t r _
  rw [hend, hm, hv, ht]

theorem hostLossDone_other (l0 : Bool) (h : (s.hostPort r).ep ≠ .resetting) : s.hostLossDone r l0 = s :=
  (hostLossDone_eq ..).trans (if_pos h)

theorem hostLossDone_open (l0 : Bool) (h : (s.hostPort r).ep = .resetting) (ho : (s.ownedOut r).lossSettled r = false) :
    s.hostLossDone r l0 = s.ownedOut r := by
  rw [hostLossDone_eq, if_neg (not_not.2 h), ho]
  rfl

theorem hostLossDone_settled (l0 : Bool) (h : (s.hostPort r).ep = .resetting) (ho : (s.ownedOut r).lossSettled r = true) :
    s.hostLossDone r l0 = ((s.ownedOut r).setHost r (((s.ownedOut r).hostPort r).recovered l0)).hostEvent r s.moduleId := by
  rw [hostLossDone_eq, if_neg (not_not.2 h), ho, afterLoss_eq, moduleId_of_fixed (ownedOut_fixed s r)]
  rfl

end Loss


/-- Settles O45: each command by the case of Tables 12.4 and 12.8 that its port is in. -/
theorem hostPortsFollowTheirStates : Obligations.HostPortsFollowTheirStates := by
  unfold Obligations.HostPortsFollowTheirStates
  intro s r hp hr h sub fn into l0 fits
  have hwr : okR r = true := decide_eq_true hr
  have hset {u : State} (hu : s.memEnableSet r = u) := (exec_memorySpaceEnableSet r s hwr hp).trans (congrArg _ hu)
  have hclear {u : State} (hu : s.memEnableClear r = u) := (exec_memorySpaceEnableClear r s hwr hp).trans (congrArg _ hu)
  refine ⟨fun l => ?linkUp, fun k hk => ?sub, fun he hu => hset (memEnableSet_up he hu), fun hn => hset (memEnableSet_stays hn),
    fun he hu => hclear (memEnableClear_enabled he hu), fun hn => hclear (memEnableClear_stays hn), fun f hf => ?function,
    fun cause => ?loss, fun inL0 => ?lossDone⟩
  case linkUp =>
    have hexec {u : State} (hu : s.hostLinkUp r l = u) := (exec_hostLinkUp r l s hwr hp).trans (congrArg _ hu)
    exact ⟨fun he hd hl => hexec (hostLinkUp_trains he hd hl), fun hn => hexec (hostLinkUp_stays hn)⟩
  case sub =>
    have hwk : (okR r && okSub k) = true := by rw [hwr, Bool.true_and]; exact decide_eq_true hk
    intro empty below down
    have hdown {u : State} (hu : s.rootLinkDown r k = u) := (exec_rootPortLinkDown r k s hwk hp).trans (congrArg _ hu)
    have hlink {u : State} (he : (s.hostPort r).endpoint = false) (hu : s.rootLinkDown r k = u) :=
      (exec_hostLinkDown r k s hwk hp).trans (congrArg _ ((if_neg (by rw [he]; decide)).trans hu))
    refine ⟨fun l => ?_, fun he hl => ⟨hdown (rootLinkDown_lost he hl), hlink he (rootLinkDown_lost he hl)⟩,
      fun he hl => ⟨hdown (rootLinkDown_stays (.inr hl)), hlink he (rootLinkDown_stays (.inr hl))⟩,
      fun he => ⟨hdown (rootLinkDown_stays (.inl he)), (exec_hostLinkDown r k s hwk hp).trans (congrArg _ (if_pos he))⟩,
      fun ag v ha => ?_, fun id => exec_deviceAerError r k id s hwk hp, exec_hostLinkRecovery r k s hwk hp⟩
    · have hexec {u : State} (hu : s.rootLinkUp r k l = u) := (exec_rootPortLinkUp r k l s hwk hp).trans (congrArg _ hu)
      exact ⟨fun he hk hl => hexec (rootLinkUp_trains he hk hl), fun hn => hexec (rootLinkUp_stays hn)⟩
    · have hwa : (ag.wf && okR r && okSub k) = true := by rw [ha, Bool.true_and]; exact hwk
      have hexec {u : State} (hu : s.rpEnable r k v = u) := (exec_hostRpCtrlEnable ag r k v s hwa hp).trans (congrArg _ hu)
      exact ⟨fun hv he hl => hexec (rpEnable_linked hv he hl), fun hn => hexec (rpEnable_stays hn)⟩
  case function =>
    have hwf : (okR r && okFn f) = true := by rw [hwr, Bool.true_and]; exact decide_eq_true hf
    intro serves into
    refine ⟨fun bm me size hn => ?_, fun hx => ?_, fun v hin => ?_, fun ag w v ha hw => ?_⟩
    · exact (exec_configurationWrite r f bm me size s hwf hp).trans (congrArg _ (configWrite_absent bm me size hn))
    · have hexec (bm me : Option Bool) (size : Option Nat) {u : State} (hu : s.configWrite r f bm me size = u) :=
        (exec_configurationWrite r f bm me size s hwf hp).trans (congrArg _ hu)
      refine ⟨fun b => hexec _ _ _ (configWrite_busMaster hx b), fun n => hexec _ _ _ (configWrite_size hx n),
        fun b hf0 => hexec _ _ _ ((configWrite_memEnable hx b).trans (if_neg hf0)), fun b hf0 => ?_,
        fun b n c hf0 hmin hmax => hexec _ _ _ (configWrite_all hx b c hf0 hmin hmax)⟩
      refine (hexec _ _ _ ((configWrite_memEnable hx b).trans (if_pos hf0))).trans ?_
      cases b
      · exact (hclear rfl).symm
      · exact (hset rfl).symm
    · have hexec {u : State} (hu : s.slideWrite r f v = u) :=
        (exec_hostFnBar2SlideWrite r f v s hwf hp).trans
          (congrArg _ (arrive_performed (c := .hostFnBar2SlideWrite r f v) hin (congrArg some hu)))
      exact ⟨fun hc => hexec (slideWrite_closed hc), fun ho =>
        ⟨fun hb => hexec (slideWrite_bad ho hb), fun hb => hexec (slideWrite_good ho hb)⟩⟩
    · have hwa : (ag.wf && okR r && okFn f && decide (w < 12)) = true := by
        rw [ha, Bool.true_and, hwf, decide_eq_true hw]
        rfl
      have hexec {u : State} (hu : s.ownershipWrite ag r f w v = u) :=
        (exec_hostOwnershipWrite ag r f w v s hwa hp).trans (congrArg _ hu)
      exact ⟨fun hk => hexec (ownershipWrite_external hw hk), fun hk ho => hexec (ownershipWrite_foreign hw hk ho), fun ho hk =>
        ⟨fun h2 => hexec (ownershipWrite_pegRange hw ho hk h2), fun h3 => hexec (ownershipWrite_tag hw ho hk h3),
          fun h2 h3 hb => hexec (ownershipWrite_busy hw ho hk h2 h3 hb), fun h2 h3 hb => hexec (ownershipWrite_idle hw ho hk h2 h3 hb)⟩⟩
  case loss =>
    intro lost on
    have hexec {u : State} (hu : s.hostLoss r cause State.closeOwner = u) :=
      (exec_hostLoss r cause s hwr hp).trans (congrArg _ (congrArg s.noted hu))
    refine ⟨fun hn => hexec (hostLoss_idle hn), fun f he hc => ?_, fun he hon hc => hexec (hostLoss_port he hon hc)⟩
    subst hc
    exact ⟨fun hvf => hexec (hostLoss_vf he hvf), fun hvf => hexec (hostLoss_noVf he hvf)⟩
  case lossDone =>
    have hexec {u : State} (hu : s.hostLossDone r inL0 = u) := (exec_hostLossDone r inL0 s hwr hp).trans (congrArg _ hu)
    refine ⟨fun hn => hexec (hostLossDone_other inL0 hn), fun hx ho => hexec (hostLossDone_open inL0 hx ho), fun hx ho => ?_⟩
    exact (hexec (hostLossDone_settled inL0 hx ho)).trans
      (congrArg _ (congrArg (State.hostEvent · r s.moduleId) (setHost_recovered (s.ownedOut r) r inL0)))

end Sys2Proof.Machine
